-- ==== Sys2Proof/Word.lean ====
section
/-! DEFINITION. The words of the module: registers of 64 bits (18 R410), bytes, and the 128-bit instruction word
and W128 value (09 R176, 06 R120). -/

namespace Sys2Proof

/-- A register of the register range: 64 bits (18 R410). -/
abbrev Word := BitVec 64

/-- One byte of memory or of a payload. -/
abbrev Byte := BitVec 8

/-- One instruction of a schedule, or one W128 value: 128 bits (09 R176, 06 R120). -/
abbrev Word128 := BitVec 128

end Sys2Proof
end

