-- ==== Sys2Proof/Syntax.lean ====
section
/-! DEFINITION. The commands of the module: one constructor per row of spec/opcode_table.json, with the operands the
row's rule names. A command is either something the outside does to the module (a register write, a doorbell, a
message, a pin) or something that happens to it (an instruction issues, a timer expires, a unit reports). -/

namespace Sys2Proof

/-- Which half of a register an access covers (18 R410, 20 R452). -/
inductive Half where
  | whole | low | high
deriving DecidableEq, Repr

/-- A message of the fabric: the 32-byte header of 14 Table 14-5, field by field, and its data. `rsvd`: some reserved
bit of the header is set. -/
structure Msg where
  mtype : Nat := 0
  vc : Nat := 0
  lvl : Nat := 0
  hops : Nat := 0
  dst : Nat := 0
  src : Nat := 0
  srcid : Nat := 0
  tag : Nat := 0
  epoch : Nat := 0
  len : Nat := 0
  spart : Nat := 0
  dpart : Nat := 0
  addr : Nat := 0
  aux : Nat := 0
  status : Nat := 0
  rlen : Nat := 0
  rsvd : Bool := false
  data : List Byte := []
deriving DecidableEq, Repr


/-- How a DRAM read ends (11 Tables 11-3, 11-4): good, with a corrected error, uncorrectable, or, over a GDDR7 link, after `n` CRC
failures. -/
inductive MemErr where
  | good | ce | ue
  | crc (n : Nat)
deriving DecidableEq, Repr

/-- How a flash read ends (11 R258): hard decode, retry or soft decode, stripe rebuild, or no rebuild. -/
inductive FlashRes where
  | hard | retry | rebuilt | fail
deriving DecidableEq, Repr

/-- What fails in a DRAM stack or device (11 Table 11-5a). -/
inductive ChFail where
  | laneSpare | laneNoSpare (ch : Nat) | channel (ch : Nat) | whole
deriving DecidableEq, Repr

/-- What a narrow-path access names: a local address, an element of a tier object or table by handle (10 Table 10-4), or, of an
access to an element of more than 256 bytes, which is cut into blocks (11 R247, 04 R76), the block from byte `off` of it. -/
inductive Target where
  | addr (a : Nat)
  | elem (handle v : Nat)
  | part (handle v off : Nat)
deriving DecidableEq, Repr

/-- What goes wrong as a unit takes an instruction: nothing, a parity error in the fetched instruction, a parity error
in the unit's own storage (of a matrix engine: a residue mismatch or operand parity error), a corrected or an
uncorrectable accumulator error (09 Table 9-11, 17 Table 17-3, 07 Table 7-9). -/
inductive UnitErr where
  | good | fetch | parity | accCe | accUe
deriving DecidableEq, Repr


/-- A registered row that a tide pass rewrites (05 R101): its place in the sketch stacks, counted in rows of 1,024 bytes
from the first stack's base, its protected source, and whether the source is uncorrectable. -/
structure TideRow where
  row : Nat
  source : Target
  lost : Bool
deriving DecidableEq, Repr

/-- A candidate of another module's shard (02 Table 2-11): identifier and distance; `kept`: its gather found it, and no delete came
between; `passes`: it passes the range clauses; its score, and where it was found. -/
structure ShardCand where
  id : Nat
  dist : Nat
  kept : Bool := true
  passes : Bool := true
  score : Nat
  ovf : Bool := false
  dlog : Bool := false
  tier : Nat := 0
deriving DecidableEq, Repr

/-- What another module's shard brought to a query's collectives (02 R38, R39). `answered`: it did not refuse or fail; `part`: some
of its lists were absent; `exact`: its part of an audit's exact answer, none where it did not answer the audit, with the lists and
vectors it scanned. -/
structure Shard where
  modnum : Nat
  answered : Bool := true
  part : Bool := false
  readPoint : Nat := 0
  gen : Nat := 0
  probed : Nat := 0
  screened : Nat := 0
  hits : Nat := 0
  cands : List ShardCand := []
  exact : Option (List ShardCand) := none
  lists : Nat := 0
  scanned : Nat := 0
deriving DecidableEq, Repr

/-- The collectives of a query over a sharded collection: did this module's own shard answer, and the other modules' shards. -/
structure Merge where
  own : Bool := true
  shards : List Shard := []
deriving DecidableEq, Repr

/-- The commands. -/
inductive Instr where
  /-- SQ_TAIL_DOORBELL (R292). A host write to a queue pair's submission tail doorbell in BAR4 is checked and, if accepted, makes the new entries available for fetch. -/
  | sqTailDoorbell (n : Nat) (v : Nat)
  /-- CQ_HEAD_DOORBELL (R292). A host write to a completion head doorbell releases posted completion entries for reuse, or is ignored with DB_INVALID. -/
  | cqHeadDoorbell (n : Nat) (v : Nat)
  /-- SUBMISSION_FETCH (R294). Once a queue pair's turn comes, fetch is not held and there is room in the CQ, the quay fetches a submission entry and its payload, checks them and dispatches the command. -/
  | submissionFetch (n : Nat) (raw : List Byte) (payload : List Byte) (payloadOk : Bool)
  /-- QP_ERROR (R308). A failed read of a submission entry, or a CQ write refused through AER, moves the queue pair to ERROR. -/
  | qpError (n : Nat) (cause : Nat)
  /-- CREATE_QP (R296). The admin command creates an ACTIVE queue pair for a tenant of a partition with the given queues, version and interrupt settings. -/
  | createQp (n : Nat)
  /-- DELETE_QP (R293). The admin command moves a queue pair to DRAINING and completes once every command already fetched from it has completed. -/
  | deleteQp (n : Nat)
  /-- GET_LOG (R305). The admin command copies event records, a partition's recovery table or a table's sampled-miss ring into the output buffer. -/
  | getLog (n : Nat)
  /-- OBJ_CREATE (R466). The admin command creates a tier object, allocating DRAM extents first fit and optionally a flash home, and returns its handle. -/
  | objCreate (n : Nat)
  /-- OBJ_FREE (R252). The admin command frees a tier object and releases its quota charges. -/
  | objFree (n : Nat)
  /-- OBJ_MOVE (R253). The admin command starts a move of part or all of an object's residence, tile by tile, to a new tier or stack. -/
  | objMove (n : Nat)
  /-- MOVE_TILE_SWITCH (R253). At the end of each copied 64 KiB tile the hub switches that tile's resolution to the new place, and the move completes after the last tile. -/
  | moveTileSwitch (handle : Nat) (ue : Bool)
  /-- OBJ_SYNC (R467). The admin command writes an object's content into its flash home. -/
  | objSync (n : Nat)
  /-- LIST_PLACE (R21). The admin command moves a list's sketch, tombstone and bitmap rows between HBM3E and a sketch-stack bank at a cut, or refuses the placement. -/
  | listPlace (n : Nat)
  /-- COLL_CREATE (R16). The tenant command creates a collection from its descriptor, with every list in HBM3E and generation record copy A written. -/
  | collCreate (n : Nat)
  /-- COLL_DROP (R463). The tenant command is admitted like a write of the whole identifier range and drops the collection once the earlier queries have completed. -/
  | collDrop (n : Nat)
  /-- BUILD (R459). The tenant command starts building a new index generation from a base point, with the parameter changes the rule allows. -/
  | build (n : Nat)
  /-- BUILD_DONE (R56). When every vector live at the base point is placed and a staging record has been written, the BUILD command completes with BUILD_DONE. -/
  | buildDone (coll : Nat)
  /-- ABANDON (R51). The tenant command ends a build in progress, clears a staged generation or cancels a waiting SWITCH, by the cases of Table 3-7a. -/
  | abandon (n : Nat)
  /-- SWITCH (R54). The tenant command arranges for the staged collection generation or staged tower weights to become live at SWITCH_TIME. -/
  | switch (n : Nat)
  /-- SWITCH_TAKES_EFFECT (R53). At the first service tick at or after SWITCH_TIME the module writes and reads back the generation record copy, and then clears the staging record. -/
  | switchTakesEffect (isModel : Bool) (obj : Nat) (torn : Bool)
  /-- COMPACT (R460). The tenant command starts compaction of every list of the collection that has tombstoned slots, and completes when every cut is reached. -/
  | compact (n : Nat)
  /-- INSERT (R40). The tenant write command creates new versions for 1 to 1,024 records atomically, under one sequence number. -/
  | insert (n : Nat)
  /-- UPSERT (R40). The tenant write command replaces or creates versions for its records atomically, under one sequence number. -/
  | upsert (n : Nat)
  /-- DELETE (R40). The tenant write command deletes the named versions atomically and reports the records whose identifier was absent. -/
  | delete (n : Nat)
  /-- HIST_APPEND (R69). The tenant history write appends encoded keys and values to a user's history-cache ring as a durable write. -/
  | histAppend (n : Nat)
  /-- QUERY (R22). The tenant command is checked, assigned a read point and bound to a loaded plan instance for retrieval and, optionally, ranking. -/
  | query (n : Nat)
  /-- MODEL_CREATE (R80). The tenant command creates a ranking model with its tower size and history-cache parameters. -/
  | modelCreate (n : Nat)
  /-- TABLE_CREATE (R64). The tenant command creates an embedding table with its parameters and default row. -/
  | tableCreate (n : Nat)
  /-- MODEL_LOAD (R56). The tenant command stages a tower weight set as the model's next tower generation, with a staging record of KIND 3. -/
  | modelLoad (n : Nat)
  /-- PROMOTE (R67). The tenant command gives an embedding row a hot copy and a directory entry. -/
  | promote (n : Nat)
  /-- DEMOTE (R67). The tenant command queues a hot row at its hub for demotion in the model's next step window. -/
  | demote (n : Nat)
  /-- RANGE_LOCK_ADMIT (R300). A write that waited on an overlapping range-lock entry is admitted in the cycle after the last overlapping entry is released. -/
  | rangeLockAdmit (n : Nat)
  /-- WRITE_ADMISSION (R42). An admitted write takes its sequence number and has its delta-log entry written to two GDDR7 devices on different hubs. -/
  | writeAdmission (n : Nat)
  /-- WRITE_DURABLE (R42). Once both delta-log copies are written, the write is durable and its completion entry is posted. -/
  | writeDurable (n : Nat)
  /-- WRITE_APPLY (R43). The collection manager applies a durable entry in sequence order, advances APPLIED and releases queries that are held for it. -/
  | writeApply (p : Nat)
  /-- DESTAGE (R44). The collection manager writes delta-log entries to flash and advances DESTAGED. -/
  | destage (p : Nat)
  /-- DELTA_AGE_TIMEOUT (R50). When an applied delta entry reaches 60 s of age, a fold of its list starts. -/
  | deltaAgeTimeout (coll : Nat) (list : Nat)
  /-- FOLD_COMPLETE (R50). When a fold or compaction has written its new segment, queries at or after the cut use it. -/
  | foldComplete (coll : Nat) (list : Nat)
  /-- CUT_RELEASE (R50). When the last query with a read point below a cut completes, the old rows and entries are released. -/
  | cutRelease (coll : Nat)
  /-- GENERATION_RELEASE (R55). When the last query fetched before a switch completes, the old generation's memory returns to the tenant's quotas. -/
  | generationRelease (coll : Nat)
  /-- DEFERRED (R57). A failure that reaches an acknowledged write writes an error-log record and DEFERRED reports to the affected queue pairs. -/
  | deferred (kind : Nat) (p : Nat) (seq : Nat) (coll : Nat) (list : Nat) (ids : List Nat)
  /-- POWER_LOSS_FLUSH (R46). A flush trigger stops the quay and the quads and writes every entry above DESTAGED to flash. -/
  | powerLossFlush (fails : List (Nat × Nat))
  /-- FLUSH_SEAL (R46). After the last flushed entry is written, the flush seal with each partition's sealed number and NEXT is written and the rails fall. -/
  | flushSeal
  /-- RECOVERY (R47). Before fetch at boot or warm reset, the module replays flushed entries and writes each partition's recovery table and RECOVERY record. -/
  | recovery
  /-- STAGED_RESTORE (R458). Once an owning partition is ON after boot, the collection manager restores DRAM residences of collections, staged generations and models from flash. -/
  | stagedRestore (isModel : Bool) (obj : Nat)
  /-- START_RECORD_WRITE (R210). When a task's ring slot is free, the quay writes the start record into the instance's task ring and signals STARTSEM. -/
  | startRecordWrite (inst : Nat)
  /-- TASK_COMPLETION_POST (R301). When a command's result is written, the quay posts its 32-byte completion entry with phase, status and any deferred report. -/
  | taskCompletionPost (n : Nat) (m : Merge)
  /-- DEADLINE_TICK (R231). At a real-time task's deadline tick, the quay reads FRY_SWAIT of every stream of the instance. -/
  | deadlineTick (n : Nat)
  /-- AUDIT_SCAN (R37). An audit query's exhaustive exact search runs on idle capacity and writes the audit section when it ends. -/
  | auditScan (n : Nat)
  /-- CQ_INTERRUPT (R307). After ICOUNT + 1 entries, or when ITIME expires, the quay sends the CQ's MSI-X message, or sets its pending bit if the vector is masked. -/
  | cqInterrupt (n : Nat)
  /-- MSIX_UNMASK (R307). Unmasking an MSI-X vector with its pending bit set sends the interrupt. -/
  | msixUnmask (v : Nat)
  /-- BAR2_ACCESS (R290). A host access through the BAR2 window is served or refused against QW_WIN. -/
  | bar2Access (x : Nat) (n : Nat) (data : Option (List Byte))
  /-- Q_CTL_EN (R310). Writing Q_CTL.EN enables the queue engine and queue pair 0, or stops fetch and deletes every queue pair. -/
  | qCtlEn (en : Bool)
  /-- Q_CTL_SRESET (R310). Setting Q_CTL.SRESET resets the queue engine and deletes every queue pair. -/
  | qCtlSreset
  /-- PCIE_LINK_TRAINING (R288). The PCIe endpoint trains to a supported rate and width, raising LINK_DEGRADED for a degraded result. -/
  | pcieLinkTraining (rate : Nat) (width : Nat)
  /-- DOE_DISCOVERY (R288). A DOE Discovery request over the mailbox returns the supported data object types. -/
  | doeDiscovery
  /-- GET_VERSION (R288). The SPDM request returns the supported SPDM versions. -/
  | getVersion
  /-- GET_CAPABILITIES (R288). The SPDM request returns the responder's capabilities. -/
  | getCapabilities
  /-- NEGOTIATE_ALGORITHMS (R288). The SPDM request settles SHA-384 and ECDSA P-384. -/
  | negotiateAlgorithms
  /-- GET_DIGESTS (R362). The SPDM request returns the certificate chain digests. -/
  | getDigests
  /-- GET_CERTIFICATE (R362). The SPDM request returns the slot 0 certificate chain. -/
  | getCertificate (off : Nat) (n : Nat)
  /-- CHALLENGE (R362). The SPDM request is answered with a response signed by the alias key. -/
  | challenge (nonce : List Byte)
  /-- GET_MEASUREMENTS (R361). The SPDM request returns the T-die's measurements, signed by the alias key. -/
  | getMeasurements (nonce : List Byte)
  /-- STEP_WINDOW_REQUEST (R74). A training step, or the hub for queued demotions, requests window n, which is pending until the earlier lookup stages finish. -/
  | stepWindowRequest (model : Nat) (touched : List (Nat × Nat))
  /-- STEP_WINDOW_OPEN (R74). When every lookup stage started before the request has finished, the window opens and the held scatter adds are applied. -/
  | stepWindowOpen (model : Nat) (barrier : Bool)
  /-- STEP_WINDOW_CLOSE (R74). When the window's updates and demotions are done, MSTEP becomes n and the waiting lookup stages start in arrival order. -/
  | stepWindowClose (model : Nat)
  /-- DEMOTION_WINDOW_TIMER (R67). For a model with no loaded training plan, the hub opens a window for queued demotions within 1 ms of the first request. -/
  | demotionWindowTimer (model : Nat)
  /-- LOOKUP_STAGE_START (R74). A lookup stage starts and reads MSTEP, or waits at the gate while a window is pending or open. -/
  | lookupStageStart (model : Nat) (id : Nat) (streams : List Nat)
  /-- LOOKUP_FALLBACK_POINT (R229). At the fallback point, every row that has not arrived is written as a zero or default row, and LATE and DEGR are updated. -/
  | lookupFallbackPoint (n : Nat)
  /-- LATE_ROW_ARRIVAL (R229). A row that arrives after the fallback point is discarded and its read credit is returned. -/
  | lateRowArrival (n : Nat) (k : Nat)
  /-- LOADQ (R91). The NBU command loads query latches from a query row, replicating fields, and sets their thresholds. -/
  | loadq (g : Nat) (parity : Bool)
  /-- SETTHR (R91). The NBU command replaces the thresholds of the named latches on arrival. -/
  | setthr (g : Nat)
  /-- MASKT (R91). The NBU command loads the mask latch from the complement of a tombstone row for one span. -/
  | maskt (g : Nat) (parity : Bool)
  /-- CLAUSE (R91). The NBU command ANDs the OR of bitmap rows, or its complement, into the mask. -/
  | clause (g : Nat) (ops : Nat) (parity : Bool)
  /-- SCREEN (R85). The NBU command compares sketch rows with the loaded latches under the mask, counts histograms and pushes hits to the FIFO. -/
  | screen (g : Nat) (ops : Nat) (parity : Bool)
  /-- DOT (R88). The NBU command computes bit-serial integer dot products into sum-buffer lanes. -/
  | dot (g : Nat) (ops : Nat) (parity : Bool)
  /-- ABORT (R93). The NBU command discards the executing and queued commands with ABORTED and empties the hit FIFO. -/
  | abort (g : Nat)
  /-- NBU_STATUS_POLL (R95). The hub polls each busy bank's status at most every 200 ns, reads its hit FIFO and turns DONE_TOKEN into the semaphore signal. -/
  | nbuStatusPoll (g : Nat)
  /-- TIDE_PASS (R101). At least every TIDE_MIN minutes, or on TIDE_GO, registered plain rows are rewritten from their protected sources and mismatches counted. -/
  | tidePass (n : Nat) (rows : List TideRow)
  /-- SK_REGION_WRITE (R100). A write that changes a region block starts its conversion, which wipes the block in every bank of the stack. -/
  | skRegionWrite (n : Nat) (h : Half) (v : Nat)
  /-- CONVERSION_COMPLETE (R100). When a block conversion ends, CONV clears and held accesses to the block proceed. -/
  | conversionComplete (n : Nat)
  /-- STACK_TEMPERATURE_REPORT (R103). Every 100 µs the hub reads each sketch stack's temperature and sets its thermal state, refresh and throttling. -/
  | stackTemperatureReport (n : Nat) (t : Nat)
  /-- BANK_REFRESH (R103). A per-bank refresh falls due at its interval and is taken at the next row-operation boundary. -/
  | bankRefresh (g : Nat)
  /-- NOP (R181). The control instruction does nothing. -/
  | nop (q : Nat) (u : Nat) (t : Nat) (e : UnitErr)
  /-- LOOP (R181). The control instruction opens a loop level and records the next address. -/
  | loop (q : Nat) (u : Nat) (t : Nat) (e : UnitErr)
  /-- ENDL (R181). The control instruction counts an iteration and branches back, or closes the loop level. -/
  | endl (q : Nat) (u : Nat) (t : Nat) (e : UnitErr)
  /-- SETP (R181). The control instruction sets the thread predicate from a loop counter. -/
  | setp (q : Nat) (u : Nat) (t : Nat) (e : UnitErr)
  /-- HALT (R181). The control instruction ends the thread after its issued instructions complete. -/
  | halt (q : Nat) (u : Nat) (t : Nat) (e : UnitErr)
  /-- SSET (R182). The semaphore instruction loads a semaphore value. -/
  | sset (q : Nat) (u : Nat) (t : Nat) (e : UnitErr)
  /-- SADD (R182). The semaphore instruction adds a signed delta, raising SEM_UNDER or SEM_OVF when the result leaves the range. -/
  | sadd (q : Nat) (u : Nat) (t : Nat) (e : UnitErr)
  /-- SWAIT (R182). The semaphore instruction waits until a semaphore reaches VALUE, optionally consuming it. -/
  | swait (q : Nat) (u : Nat) (t : Nat) (e : UnitErr)
  /-- SIGR (R183). The semaphore instruction sends an epoch-tagged increment to a semaphore of another quad. -/
  | sigr (q : Nat) (u : Nat) (t : Nat) (e : UnitErr)
  /-- SIGNAL_ARRIVAL (R183). A SIGR, FSEM or fabric SIG message at a quad is added to the semaphore, or dropped with STALE_EPOCH when the epoch does not match. -/
  | signalArrival (k : Nat)
  /-- FLUSH (R184). The fence-class instruction completes when every earlier write to the range has reached the array or bank. -/
  | flush (q : Nat) (u : Nat) (t : Nat) (e : UnitErr)
  /-- FENCE (R184). The fence-class instruction orders later reads and discards cached far lines in the range. -/
  | fence (q : Nat) (u : Nat) (t : Nat) (e : UnitErr)
  /-- MMA (R137). The matrix instruction streams A rows through a slab of B and accumulates the products into a berth. -/
  | mma (q : Nat) (u : Nat) (t : Nat) (e : UnitErr)
  /-- MMAX (R146). The matrix instruction adds indexed row-by-slab products into berth rows named by an index stream. -/
  | mmax (q : Nat) (u : Nat) (t : Nat) (e : UnitErr)
  /-- DRAIN (R145). The output-path instruction converts a berth tile through an epilogue onto a ferry stream. -/
  | drain (q : Nat) (u : Nat) (t : Nat) (e : UnitErr)
  /-- SPILL (R125). The output-path instruction writes a berth tile to scratchpad at full width. -/
  | spill (q : Nat) (u : Nat) (t : Nat) (e : UnitErr)
  /-- RELOAD (R125). The output-path instruction restores a berth tile from scratchpad. -/
  | reload (q : Nat) (u : Nat) (t : Nat) (e : UnitErr)
  /-- XFER (R190). The output-path instruction sends a W128 tile to a VP input queue. -/
  | xfer (q : Nat) (u : Nat) (t : Nat) (e : UnitErr)
  /-- SRCTX (R191). The matrix instruction writes or invalidates the thread's stochastic-rounding context. -/
  | srctx (q : Nat) (u : Nat) (t : Nat) (e : UnitErr)
  /-- SPARE_SUBSTITUTION (R152). A failed engine is fenced and the die's spare is switched into its position, with ME_SUBST raised and the tasks restarted. -/
  | spareSubstitution (d : Nat)
  /-- SPARE_SELF_TEST (R152). The spare engine runs a 200 µs self-test at boot, every 60 s and on TESTGO. -/
  | spareSelfTest (d : Nat) (pass : Bool)
  /-- VLD (R194). The vector instruction loads a register from scratchpad. -/
  | vld (q : Nat) (u : Nat) (t : Nat) (e : UnitErr)
  /-- VST (R194). The vector instruction stores a register to scratchpad. -/
  | vst (q : Nat) (u : Nat) (t : Nat) (e : UnitErr)
  /-- VIN (R194). The vector instruction takes 256 bytes from an input queue, waiting while the queue is empty. -/
  | vin (q : Nat) (u : Nat) (t : Nat) (e : UnitErr)
  /-- VOUT (R194). The vector instruction sends a register to a stream port. -/
  | vout (q : Nat) (u : Nat) (t : Nat) (e : UnitErr)
  /-- VADD (R194). The vector instruction adds lanes. -/
  | vadd (q : Nat) (u : Nat) (t : Nat) (e : UnitErr)
  /-- VSUB (R194). The vector instruction subtracts lanes. -/
  | vsub (q : Nat) (u : Nat) (t : Nat) (e : UnitErr)
  /-- VMUL (R194). The vector instruction multiplies lanes. -/
  | vmul (q : Nat) (u : Nat) (t : Nat) (e : UnitErr)
  /-- VFMA (R194). The vector instruction performs a fused multiply-add with one rounding. -/
  | vfma (q : Nat) (u : Nat) (t : Nat) (e : UnitErr)
  /-- VDIV (R194). The vector instruction divides lanes with correct rounding. -/
  | vdiv (q : Nat) (u : Nat) (t : Nat) (e : UnitErr)
  /-- VSQRT (R194). The vector instruction takes correctly rounded square roots. -/
  | vsqrt (q : Nat) (u : Nat) (t : Nat) (e : UnitErr)
  /-- VMAX (R194). The vector instruction takes the lane maxima. -/
  | vmax (q : Nat) (u : Nat) (t : Nat) (e : UnitErr)
  /-- VMIN (R194). The vector instruction takes the lane minima. -/
  | vmin (q : Nat) (u : Nat) (t : Nat) (e : UnitErr)
  /-- VEXP (R195). The vector instruction evaluates the bit-exact vp_exp. -/
  | vexp (q : Nat) (u : Nat) (t : Nat) (e : UnitErr)
  /-- VTANH (R195). The vector instruction evaluates the bit-exact vp_tanh. -/
  | vtanh (q : Nat) (u : Nat) (t : Nat) (e : UnitErr)
  /-- VCMP (R194). The vector instruction compares lanes into a mask register. -/
  | vcmp (q : Nat) (u : Nat) (t : Nat) (e : UnitErr)
  /-- VSEL (R194). The vector instruction selects lanes under a mask. -/
  | vsel (q : Nat) (u : Nat) (t : Nat) (e : UnitErr)
  /-- VLOG (R194). The vector instruction applies a bitwise logical operation. -/
  | vlog (q : Nat) (u : Nat) (t : Nat) (e : UnitErr)
  /-- VSHIFT (R194). The vector instruction shifts integer lanes. -/
  | vshift (q : Nat) (u : Nat) (t : Nat) (e : UnitErr)
  /-- VCVT (R194). The vector instruction converts to or from a narrow format, with counting. -/
  | vcvt (q : Nat) (u : Nat) (t : Nat) (e : UnitErr)
  /-- WADD (R169). The vector instruction adds W128 lanes by Table 6-4. -/
  | wadd (q : Nat) (u : Nat) (t : Nat) (e : UnitErr)
  /-- VW2D (R194). The vector instruction converts W128 lanes to FP64. -/
  | vw2d (q : Nat) (u : Nat) (t : Nat) (e : UnitErr)
  /-- VRED (R194). The vector instruction reduces unmasked lanes in ascending order. -/
  | vred (q : Nat) (u : Nat) (t : Nat) (e : UnitErr)
  /-- VIMM (R194). The vector instruction sets every lane to an immediate. -/
  | vimm (q : Nat) (u : Nat) (t : Nat) (e : UnitErr)
  /-- SLQ (R196). The sketch instruction loads an SU query slot with a sketch, a threshold and a QTAG. -/
  | slq (q : Nat) (u : Nat) (t : Nat) (e : UnitErr)
  /-- SSCR (R197). The sketch instruction screens arriving bundles against the loaded slots and sends hits to the XU. -/
  | sscr (q : Nat) (u : Nat) (t : Nat) (e : UnitErr)
  /-- SELECT (R158). The select instruction runs a select descriptor in TOPK, THRESH, STREAM, MERGE or SPLITSUM mode and writes its summary and records. -/
  | select (q : Nat) (u : Nat) (t : Nat) (e : UnitErr)
  /-- STREAM_HIT_ARRIVAL (R163). A hit that arrives at an XU in STREAM mode is retained or discarded, and a fall of D is sent to the hub and the SU slots. -/
  | streamHitArrival (q : Nat)
  /-- STREAM_END (R163). When ENDSEM has received ENDCNT signals, the STREAM selection writes its sure and boundary groups and completes. -/
  | streamEnd (q : Nat)
  /-- FSTR (R200). The ferry instruction runs a stream descriptor (COPY, GATHER, SCATTER, BUNDLE, FILL or NOTE) for REP + 1 repetitions. -/
  | fstr (q : Nat) (u : Nat) (t : Nat) (e : UnitErr)
  /-- GRANULE_FULL_SIGNAL (R223). When a granule's last byte is visible, the ferry signals FSEM on the target quad or module. -/
  | granuleFullSignal (n : Nat)
  /-- FERRY_PIECE_RESPONSE (R233). A read response for a ferry piece is written to its destination and its credit is returned. -/
  | ferryPieceResponse (n : Nat) (k : Nat) (err : MemErr)
  /-- DOMAIN_OFF_RETRY (R230). A piece refused with domain off is retried once by an alternate route, then treated as late or raises FRY_DOMAIN. -/
  | domainOffRetry (n : Nat) (k : Nat) (again : Bool)
  /-- FERRY_METER_WINDOW (R227). Every 1 µs the hub starts a new metering window for each partition's read, write and remote allowances. -/
  | ferryMeterWindow (h : Nat) (scale : Nat) (waited : List (Nat × Nat))
  /-- NBCMD (R202). The near-bank instruction issues an NBU command once, or once per index-stream entry. -/
  | nbcmd (q : Nat) (u : Nat) (t : Nat) (e : UnitErr)
  /-- NBLIST (R203). The near-bank instruction screens one query over the listed lists, issuing MASKT, CLAUSE and SCREEN per span, or routing lists to the SU path. -/
  | nblist (q : Nat) (u : Nat) (t : Nat) (e : UnitErr)
  /-- INSTRUCTION_COMPLETE (R179). An instruction that took time reaches its completion point and performs its signal. -/
  | instructionComplete (q : Nat) (u : Nat) (t : Nat) (n : Nat)
  /-- WATCHDOG (R204). A thread whose wait exceeds SCH_CTL.WDOG raises WATCHDOG and aborts its instance. -/
  | watchdog (q : Nat) (u : Nat) (t : Nat)
  /-- INSTANCE_ABORT (R205). An aborting event stops every unit of the instance, sends ABORT to banks, sweeps credits, advances the epoch and reloads the semaphores. -/
  | instanceAbort (inst : Nat) (task : Option Nat)
  /-- SCH_LOAD_GO (R209). Setting SCH_LDCTL.GO starts a plan load that checks the image, copies the schedules, relocates them and sets the epochs. -/
  | schLoadGo (part : Nat) (epoch : Nat)
  /-- SCH_LOAD_DONE (R209). A plan load ends by setting DONE or FAIL with its error code. -/
  | schLoadDone
  /-- SCH_UNLOAD (R211). Setting SCH_LDCTL.UNLOAD lets an instance's tasks complete, rebinds its waiting start records and starts no more. -/
  | schUnload (inst : Nat)
  /-- UNLOAD_COMPLETE (R211). After the instance's last task, its berths, registers, slots, semaphores and schedule areas are cleared and the quads freed. -/
  | unloadComplete
  /-- NARROW_PATH_ACCESS (R247). The hub's narrow path serves an access of up to 256 bytes or an object element, resolving handles. -/
  | narrowPathAccess (src : Nat) (tgt : Target) (len : Nat) (data : Option (List Byte)) (err : MemErr)
  /-- MEMORY_SIDE_ADD (R249). A hub adder applies a SCATTER combination in arrival order, or refuses it with MSA_REFUSED. -/
  | memorySideAdd (src : Nat) (tgt : Target) (addt : Nat) (data : List Byte) (fault : Bool)
  /-- MEM_CHFAIL (R245). A lane, channel, stack or device failure is retrained, halved or fenced. -/
  | memChfail (unit : Nat) (how : ChFail)
  /-- DRAM_TEMPERATURE_REPORT (R246). Every 100 µs the hub reads each HBM3E stack and GDDR7 device temperature and sets its thermal state. -/
  | dramTemperatureReport (unit : Nat) (t : Nat)
  /-- FLASH_READ (R257). The F-die reads, decodes and decrypts a 512-byte flash read, applying retry, soft decode or stripe rebuild on failure. -/
  | flashRead (src : Nat) (c : Nat) (handle : Nat) (u : Nat) (res : FlashRes)
  /-- FLASH_PROGRAM_FAIL (R259). A block that fails to program or erase is retired, and a die with no spares left turns read-only and is relocated. -/
  | flashProgramFail (die : Nat) (noSpare : Bool)
  /-- FLASH_DIE_FAIL (R258). A whole-die failure starts a background stripe rebuild. -/
  | flashDieFail (die : Nat)
  /-- SPAD_PWR_WRITE (R268). A write of SPAD_PWR0 or SPAD_PWR1 starts bank state changes ON, RET or OFF, or is ignored for the banks it may not change. -/
  | spadPwrWrite (d : Nat) (hi : Bool) (h : Half) (v : Nat)
  /-- BANK_WAKE (R268). An access to a bank in RET wakes it to ON and counts WAKES. -/
  | bankWake (d : Nat) (b : Nat)
  /-- BANK_ON_WIPE_DONE (R268). A bank turned from OFF to ON finishes its zero wipe and begins serving. -/
  | bankOnWipeDone (d : Nat) (b : Nat)
  /-- ALIAS_WRITE (R269). A write to a bit-set or bit-clear alias performs an atomic read-modify-write of one scratchpad word. -/
  | aliasWrite (src : Nat) (set : Bool) (o : Nat) (data : List Byte) (err : MemErr)
  /-- MOORING_ACQUIRE (R272). A bit-set alias write of the mooring form acquires a mooring by Table 12-4. -/
  | mooringAcquire (src : Nat) (d : Nat) (m : Nat) (tag : Nat)
  /-- MOORING_RELEASE (R272). A bit-clear alias write of the mooring form releases a mooring, or raises MOOR_FOREIGN or MOOR_IDLE. -/
  | mooringRelease (src : Nat) (d : Nat) (m : Nat) (tag : Nat)
  /-- FAR_READ (R277). A far read of a cacheable range hits the far-line cache or is filled from the owning hub. -/
  | farRead (src : Nat) (d : Nat) (a : Nat) (n : Nat) (inFlight : Bool)
  /-- SHARED_LINE_WRITE (R278). A write or add to a line with sharers sends invalidations and is acknowledged after every sharer answers. -/
  | sharedLineWrite (src : Nat) (a : Nat) (data : List Byte)
  /-- SNOOP_ARRIVAL (R279). An invalidation reaching an E-die drops the line and is answered, or is answered MISS. -/
  | snoopArrival (d : Nat) (line : Nat)
  /-- EVICTION_NOTICE (R279). An eviction notice at the hub clears the sharer bit, or answers an outstanding snoop. -/
  | evictionNotice (d : Nat) (line : Nat)
  /-- FC_RANGE_WRITE (R278). A write of FC_RANGE takes effect after the hub invalidates every line the old range covered. -/
  | fcRangeWrite (k : Nat) (h : Half) (v : Nat)
  /-- POOL_ALLOC (R281). A read of POOL_ALLOC allocates a buffer or returns EMPTY, RETRY, FOREIGN or DISABLED. -/
  | poolAlloc (src : Nat) (k : Nat) (lost : Bool)
  /-- POOL_FREE (R281). A descriptor written to POOL_FREE frees the buffer or raises BUF_DFREE or BUF_FOREIGN. -/
  | poolFree (src : Nat) (k : Nat) (d : Nat)
  /-- POOL_CFG_WRITE (R287). A write of POOL_CFG configures or enables a pool, or is ignored by its rules. -/
  | poolCfgWrite (k : Nat) (h : Half) (v : Nat)
  /-- PORT_TRAINING (R317). A port trains through detect, rate negotiation, equalisation, deskew, FEC and flit lock and the HELLO exchange, and comes UP. -/
  | portTraining (p : Nat) (good : Nat) (slow : Bool)
  /-- TRAINING_TIMEOUT (R317). A port with no flit lock 25 ms after detect starts training again and counts RETRAIN. -/
  | trainingTimeout (p : Nat)
  /-- FLIT_RECEIVE (R320). A received flit is accepted in order with a good CRC, or discarded with a NAK, and its acknowledgements and credits are taken. -/
  | flitReceive (p : Nat) (crcOk : Bool) (fseq : Nat) (ack : Nat) (creds : List (Nat × Nat)) (msg : Option Msg)
  /-- NAK_RESEND (R320). A NAK causes the sender to resend from ACKSEQ + 1, and more than 64 in 1 ms retrain the port. -/
  | nakResend (p : Nat) (ack : Nat)
  /-- LANE_FAILURE (R316). A lane that loses lock or exceeds its corrected-symbol count is replaced by the spare, or the port drops width or fails. -/
  | laneFailure (p : Nat)
  /-- PORT_DOWN (R335). A port that loses flit lock, sees no flit for 2 µs, fails or loses its cable goes DOWN and resends its unacknowledged flits on other ports. -/
  | portDown (p : Nat)
  /-- CABLE_INSERT (R335). Insertion detected at an OSFP cage starts training of its port. -/
  | cableInsert (p : Nat)
  /-- RD (R321). A fabric read request is served at the destination and answered with RDR, or refused. -/
  | rd (k : Nat) (err : MemErr)
  /-- WR (R321). A fabric write request is applied atomically and answered with ACK, or refused. -/
  | wr (k : Nat)
  /-- ADD (R321). A fabric add request is applied by the destination hub's adders and acknowledged. -/
  | add (k : Nat) (fault : Bool)
  /-- SIG (R318). A fabric semaphore message is delivered to the target quad, with the 2-series epoch exception. -/
  | sig (k : Nat)
  /-- RDR (R322). A read response returns data, or an error status, to the requester. -/
  | rdr (k : Nat)
  /-- ACK (R322). A visibility acknowledgement returns remote credit to the requester. -/
  | ack (k : Nat)
  /-- COL (R330). A collective contribution message is written into the parent's slot, or dropped for a stale epoch or a completed SEQ. -/
  | col (k : Nat)
  /-- MESSAGE_FORWARD (R325). A message not addressed to this module is routed by AB_ROUTE to a usable port, or answered UNREACHABLE. -/
  | messageForward (k : Nat)
  /-- RTO_EXPIRY (R322). When AB_CTL.RTO passes with no response, the L-die generates UNREACHABLE for the request. -/
  | rtoExpiry (tag : Nat)
  /-- HELLO (R324). An MGT HELLO is exchanged with the direct neighbour during port bring-up. -/
  | hello (p : Nat) (peerPort : Nat) (modnum : Nat) (uid : Nat)
  /-- MGT_READ (R324). A source-routed MGT READ reads an Abdan Link register and is answered with REPLY. -/
  | mgtRead (k : Nat)
  /-- MGT_WRITE (R324). A source-routed MGT WRITE writes an Abdan Link register when MGTWR and MGR allow it, or is answered with ADDR. -/
  | mgtWrite (k : Nat)
  /-- MGT_REPLY (R324). An MGT REPLY returns along the recorded path to the requester. -/
  | mgtReply (k : Nat)
  /-- LEAVE (R336). An MGT LEAVE from a neighbour makes this module stop choosing the ports towards it. -/
  | leave (k : Nat)
  /-- ABORT_INST (R333). An MGT ABORT_INST aborts the locally bound instance and is forwarded to the other tree neighbours. -/
  | abortInst (k : Nat)
  /-- COLLECTIVE_WINDOW_WRITE (R330). A ferry COPY or NOTE to a group window sends the contribution, or END, to the group's parent. -/
  | collectiveWindowWrite (src : Nat) (g : Nat) (off : Nat) (data : Option (List Byte))
  /-- CTO_EXPIRY (R331). When a collective timeout expires, the node completes the step with the children present. -/
  | ctoExpiry (g : Nat)
  /-- COLLECTIVE_STEP_COMPLETE (R331). When every child has sent END, the node writes the arrival summary and signals its semaphore. -/
  | collectiveStepComplete (g : Nat)
  /-- GROUP_ENABLE (R329). A write of EN = 1 to a collective group descriptor checks it, or refuses it with AB_COLL_FAIL. -/
  | groupEnable (g : Nat) (v : Nat)
  /-- AB_PORT_EN_WRITE (R341). Writing AB_PORT.EN to 0 drains the port and takes it DOWN, and writing 1 starts training. -/
  | abPortEnWrite (p : Nat) (en : Bool)
  /-- AB_DUPID (R323). Two ports that report one MODNUM with different UIDs are held out of routing. -/
  | abDupid (p : Nat) (r : Nat)
  /-- FABRIC_DRAIN (R336). A module or L-die powering down sends LEAVE, answers new requests with DOMAIN_OFF and takes its ports DOWN. -/
  | fabricDrain (l : Option Nat)
  /-- TIME_FLIT_EXCHANGE (R382). Every 1 ms modules exchange time flits, and the follower corrects its rate, locks or detects a conflict. -/
  | timeFlitExchange (p : Nat) (rx : Option (Nat × Nat × Nat)) (trip : Nat)
  /-- SYNC_SILENCE_TIMEOUT (R383). A follower that receives no time flit for 10 ms, or whose sync port goes down, loses lock and raises SVC_SYNCLOST. -/
  | syncSilenceTimeout
  /-- PT_LOCK_OPEN (R364). Setting PT_LOCK.OPEN from a permitted source opens the partition-configuration lock. -/
  | ptLockOpen (src : Nat)
  /-- PT_LOCK_CLOSE (R364). Setting PT_LOCK.CLOSE closes an open lock, counts it and recomputes measurement 9. -/
  | ptLockClose (src : Nat)
  /-- PT_CFG_EN_WRITE (R347). A write of PT_CFG.EN turns a partition ON, starts its drain, or is ignored by Table 15-3. -/
  | ptCfgEnWrite (p : Nat) (en : Bool)
  /-- PARTITION_DRAIN_COMPLETE (R347). When a DRAINING partition's last instance is unloaded, it becomes OFF. -/
  | partitionDrainComplete (p : Nat)
  /-- PT_OWN_WRITE (R345). A write of owner bytes changes granule owners and starts their wipes, or leaves in-use bytes unchanged with OWNER_REFUSED. -/
  | ptOwnWrite (kind : Nat) (j : Nat) (h : Half) (v : Nat)
  /-- PT_WIPE_DONE (R345). When a granule's wipe ends, its new owner's waiting requests are served. -/
  | ptWipeDone (kind : Nat) (i : Nat)
  /-- PT_FLOOR_WRITE (R348). A write of PT_FLOOR sets DRAM and port floors, or is ignored when the sums would exceed their limits. -/
  | ptFloorWrite (k : Nat) (h : Half) (v : Nat)
  /-- TN_CFG_EN_WRITE (R352). Enabling a tenant generates its flash key, and disabling it destroys the key and frees its flash objects. -/
  | tnCfgEnWrite (t : Nat) (en : Bool)
  /-- QUOTA_WRITE (R353). A write of TN_TIER.QUOTA sets the quota, and a value below USE raises QUOTA_CUT. -/
  | quotaWrite (t : Nat) (k : Nat) (quota : Nat)
  /-- LIFE_CYCLE_TRANSITION (R358). An accepted life-cycle request over the sideband stops fetch, wipes memory, advances the key epoch and cold-resets into the new state. -/
  | lifeCycleTransition (target : Nat) (tok : Option (List Byte)) (fails : Bool)
  /-- SVN_COMMIT (R360). A sideband SVN commit raises a kind's fused minimum to the running image's SVN. -/
  | svnCommit (kind : Nat)
  /-- SECURE_BOOT (R360). At boot each image kind's copies are verified, and the valid one with the higher SEQ is taken, or the boot halts. -/
  | secureBoot (warm : Bool)
  /-- PLDM_FIRMWARE_UPDATE (R374). A PLDM Type 5 update writes the image copy that was not taken at the last boot. -/
  | pldmFirmwareUpdate (kind : Nat) (hdr : List Byte) (body : List Byte) (torn : Bool)
  /-- MAIN_POWER_UP (R371). When the four start conditions hold, the rails are raised in order, the PLLs lock and PWRGD goes high. -/
  | mainPowerUp (rail : Option Nat)
  /-- P48_LOSS (R372). P48 below 44 V for 5 µs starts the power-loss flush. -/
  | p48Loss
  /-- PWR_EN_LOW (R372). PWR_EN going low while the main domain is up starts the power-loss flush. -/
  | pwrEnLow
  /-- SIDEBAND_COLD_RESET (R372). A sideband cold reset request runs the flush and then restarts the main domain cold. -/
  | sidebandColdReset
  /-- SIDEBAND_WARM_RESET (R384). A sideband warm reset request performs a warm reset. -/
  | sidebandWarmReset
  /-- PERST_N_LOW (R384). PERST_N going low performs a warm reset of the module. -/
  | perstNLow
  /-- HOLDUP_MEASUREMENT (R373). At boot and every 24 hours the M-die measures hold-up energy and sets or clears HOLDLOW and the write pause. -/
  | holdupMeasurement (e : Nat)
  /-- POWER_SAMPLE (R378). Every 10 µs the M-die samples input power and adjusts DUTY by Table 16-7. -/
  | powerSample (avg : Nat) (sample : Nat)
  /-- DIE_TEMPERATURE_SAMPLE (R379). Every 10 µs E-die and H-die temperatures are read and the DUTY caps, or THERM_TRIP, applied. -/
  | dieTemperatureSample (die : Nat) (t : Nat)
  /-- CLK_LOCK (R381). A die's root PLL losing lock stops its clocks and the die is handled as failed. -/
  | clkLock (src : Nat)
  /-- OSCILLATOR_FAIL (R381). A module oscillator that stops or leaves ±500 ppm starts a power-loss flush. -/
  | oscillatorFail
  /-- REFCLK_LOSS (R381). Loss of the host reference clock takes the PCIe link down, and the quay waits for PERST_N. -/
  | refclkLoss
  /-- WAKE_TOKEN_GRANT (R376). The M-die grants waiting quads wake tokens, at most four per 2 µs, and each granted quad is ON within 2 µs. -/
  | wakeTokenGrant
  /-- QUAD_IDLE_GATE (R375). A quad on AUTO with every thread waiting for PM_CTL.IDLE µs enters GATED. -/
  | quadIdleGate (q : Nat)
  /-- PWR_QUAD_WRITE (R375). A write of PWR_QUAD.REQ sets a quad to AUTO, ON or OFF, or is ignored. -/
  | pwrQuadWrite (q : Nat) (req : Nat)
  /-- RST_REQ_GO (R391). Setting RST_REQ.GO starts a unit, quad or partition reset. -/
  | rstReqGo (level : Nat) (quad : Nat) (unit : Nat) (part : Nat)
  /-- EVENT_WINDOW_START (R398). At the start of each 1 ms window, sources that dropped records write EVT_DROPPED, and their counts restart. -/
  | eventWindowStart
  /-- QUAD_RETIRED (R403). A quad that fails is fenced, made module-owned, and its instance is rebound by the schedule loader. -/
  | quadRetired (q : Nat)
  /-- HUB_LOST (R404). The loss of a hub runs the ring as a line, resets the affected partitions and reloads or rebinds their instances. -/
  | hubLost (h : Nat)
  /-- RESUMED (R402). When each task of an affected partition is restarted or completed, a RESUMED record is written. -/
  | resumed (p : Nat)
  /-- HEALTH (R407). A change of the module health level raises HEALTH and sets FLT_HEALTH.CHANGED. -/
  | health
  /-- BAR0_ACCESS_INVALID (R410). A BAR0 access of bad size or alignment, or to an unassigned offset, is refused or ignored and counted in BADREG. -/
  | bar0AccessInvalid (o : Nat) (n : Nat) (w : Option Nat)
  /-- REGISTER_WRITE (R412). A write to a register field with no behaviour of its own takes effect by its access type. -/
  | registerWrite (src : Nat) (o : Nat) (h : Half) (v : Nat)
  /-- GLB_INT_CAUSE (R421). A global interrupt cause going to 1 while unmasked, or being unmasked while set, sends an MSI-X message on GVEC. -/
  | glbIntCause (c : Nat)
  /-- FAB_LOCK_OPEN (R422). Setting FAB_LOCK.OPEN from a permitted source opens the fabric-configuration lock. -/
  | fabLockOpen (src : Nat)
  /-- FAB_LOCK_CLOSE (R422). Setting FAB_LOCK.CLOSE closes an open fabric-configuration lock. -/
  | fabLockClose (src : Nat)
  /-- EVQ_ACK_WRITE (R423). A write of EVQ_ACK not above LSN acknowledges records and clears PEND. -/
  | evqAckWrite (l : Nat) (h : Half) (v : Nat)
  /-- EVQ_INTERRUPT (R424). When unacknowledged records reach THRESH, or ITIME passes, the event queue sends its MSI-X message and sets PEND. -/
  | evqInterrupt (l : Nat)
  /-- EVENT_RECORD_WRITE (R394). A raised event is written as a 32-byte record into its log, within the source's rate limit. -/
  | eventRecordWrite (src : Nat)
  /-- PRT_CTL_EN_WRITE (R457). Writing PRT_CTL.EN starts or stops perturbation, and stopping it releases held packets at their holds. -/
  | prtCtlEnWrite (en : Bool)
  /-- PERTURB_HOLD_RELEASE (R427). A packet held by a perturbation slot is released when its hold ends. -/
  | perturbHoldRelease (target : Nat)
  /-- ATTN (R440). A debounced attention-button press requests or cancels removal, or is ignored. -/
  | attn
  /-- COOL_LEAK (R432). The leak sensor becoming wet or dry drives LEAK_N and logs COOL_LEAK. -/
  | coolLeak (wet : Bool)
  /-- COOLANT_SENSOR_READ (R432). Every 100 ms the inlet and outlet temperatures are read and reported. -/
  | coolantSensorRead (inlet : Nat) (outlet : Nat)
  /-- OSFP_PRESENCE_POLL (R438). Every 1 ms each OSFP cage's presence is read, with insertion or removal acted on and plug power checked. -/
  | osfpPresencePoll (plugs : List (Option Nat))
  /-- MOD_PRSNT_BREAK (R441). Loss of J4 while powered starts the power-loss flush from the hold-up bank. -/
  | modPrsntBreak
  /-- SLOT_ID_LATCH (R437). When the auxiliary domain starts, SLOT_ID and SLOT_VLD_N are latched into AB_ID.SLOT. -/
  | slotIdLatch (slot : Nat) (valid : Bool)
  /-- DBG_ATTACH (R447). A change of DBG_PRSNT_N writes DBG_ATTACH to the module log. -/
  | dbgAttach (on : Bool)
  /-- TEST_LOGIC_RESET (R448). In Test-Logic-Reset the JTAG chain takes the shape that PWRGD sets and the dies resume. -/
  | testLogicReset
  /-- BYPASS (R450). The TAP instruction selects the 1-bit bypass register. -/
  | bypass (t : Nat)
  /-- IDCODE (R449). The TAP instruction returns the die's IDCODE. -/
  | idcode (t : Nat)
  /-- SAMPLE_PRELOAD (R451). The TAP instruction samples or preloads the boundary cells. -/
  | samplePreload (t : Nat) (cells : Nat)
  /-- EXTEST (R451). The TAP instruction drives the boundary pins and stops the die's outputs from serving. -/
  | extest (t : Nat) (cells : Nat)
  /-- CLAMP (R450). The TAP instruction holds the boundary outputs and selects a 1-bit register. -/
  | clamp (t : Nat)
  /-- HIGHZ (R451). The TAP instruction puts the boundary outputs in high impedance. -/
  | highz (t : Nat)
  /-- TMUXSEL (R453). The M-die TAP instruction selects the signal on each TMUX output at Update-DR. -/
  | tmuxsel (t : Nat) (ws : List Nat)
  /-- DBGACC (R452). The TAP instruction reads or writes one register half as a source-0x530 access at Update-DR. -/
  | dbgacc (t : Nat) (dr : Nat)
  /-- CONSOLE_ST (R455). The console command prints one status line. -/
  | consoleSt
  /-- CONSOLE_LOG (R455). The console command prints the last n module-log records. -/
  | consoleLog (n : Nat)
  /-- CONSOLE_RD (R455). The console command reads a register as DBGACC does. -/
  | consoleRd (o : Nat)
  /-- CONSOLE_WR (R455). The console command writes a register as DBGACC does. -/
  | consoleWr (o : Nat) (v : Nat)
  /-- CVT_WINDOW_RESTART (R131). At the end of each CVT_SATCFG.WINDOW, the window count is cleared and a new window starts. -/
  | cvtWindowRestart (k : Nat)
  /-- PERST_N_HIGH (R387). PERST_N rising ends a warm reset, starting the reread of firmware kinds 1-6, port retraining, the recovery table and quay readiness, and starts PCIe training at boot. -/
  | perstNHigh
  /-- P12AUX_LOSS (R369). Loss or trip of P12AUX moves the auxiliary domain to the main 12 V bus without interruption and sets PM_STAT.NOAUX, and without P48 the management domain stops. -/
  | p12auxLoss
  /-- P12AUX_RETURN (R369). Return of P12AUX moves the auxiliary domain back to P12AUX and clears PM_STAT.NOAUX. -/
  | p12auxReturn
  /-- NAND_TEMPERATURE_REPORT (R379). A NAND temperature reading sets the NAND thermal state, limiting program and random-read rates and setting FL_STAT.FTHROT. -/
  | nandTemperatureReport (t : Nat)
  /-- KEY_ERASED (R352). When a disabled tenant's key destruction and flash-object freeing finish, ERASING clears and KEY_ERASED is raised. -/
  | keyErased (t : Nat)
  /-- FLASH_RELOCATION_COMPLETE (R259). When the F-die finishes relocating a read-only die's data, or rebuilding a failed die, FL_STAT.RELOC clears. -/
  | flashRelocationComplete (die : Nat)
  /-- DIE_LOST (R401). A die-to-die link that fails replay 64 times in 1 ms fails its E-die, retiring its four quads and taking its scratchpad out of service. -/
  | dieLost (d : Nat)
  /-- QUAY_FATAL (R311). A parity error in quay queue state stops the quay, sets Q_STAT.FATAL and fails the whole module. -/
  | quayFatal
  /-- SERVICE_DIE_FAULT (R399). A self-check failure in a service die's firmware resets that service die, and a repeat costs the whole module. -/
  | serviceDieFault (src : Nat)
  /-- IDENTIFY_LED (R439). A PLDM Type 2 state effecter sets the blue identify LED off, steady or blinking at 2 Hz. -/
  | identifyLed (mode : Nat)
  /-- LIFE_CYCLE_NONCE (R357). A vendor-defined MCTP nonce request makes the T-die issue a nonce, valid until it is used in a token or until the next reset. -/
  | lifeCycleNonce
deriving DecidableEq, Repr

end Sys2Proof
end

