-- ==== Sys2Proof/Config.lean ====
section
/-! DEFINITION. What an implementation fixes and what the spec leaves open, as constants without a body: nothing in
Lean can evaluate one, so a statement about the model holds whatever their values are. -/

namespace Sys2Proof.Config

/-- The ordering code of this module: ONL-3240-L24 instead of L48 (00 R1, 18 R418: "by fuses"). -/
opaque orderL24 : Bool

/-- The module's unique identifier, which the T-die supplies (14 R323, R339). -/
opaque abUid : Word

/-- The codes of the events that the spec names without giving a code: 0 CVT_SATURATE (06 R131), 1 STEP_TOO_LARGE
(04 R80), 2 updates dropped in a step (04 R76), 3 rows not applied after an adder fault (04 R76), 4 the collection
manager's records of failures (03 R57), 5 TIDE_SOURCE (05 R101), 6 a compacted list that its bank does not hold any more (03 R50). -/
opaque openCode : Nat → Nat

/-- Does the hub find a spare row for this retired page at a cold boot (11 R244)? -/
opaque rowSpare : Nat → Bool

/-- A choice the spec leaves open, drawn anew for each number (which way of a full cache set a line takes). -/
opaque freeChoice : Nat → Nat

/-- SHA-384 of a byte string (15 R354-R362): 48 bytes, computed by the T-die. -/
opaque sha384 : List Byte → List Byte

/-- The certificate chain of slot 0, given measurements 1-8, whose digest derives the alias key (15 R362). -/
opaque certChain : List Byte → List Byte

/-- A signature by the alias key, given measurements 1-8 and the signed message (15 R362). -/
opaque aliasSign : List Byte → List Byte → List Byte

/-- Does the ECDSA P-384 signature of a token (bytes 48-143) verify over its bytes 0-47 under the fused authorisation
key that the transition names: 0 manufacturing, 1 Bryndal (15 R357)? -/
opaque tokenVerifies : Nat → List Byte → Bool

/-- Does the signature of an image header verify under the fused key hash of its KEYCLASS (15 R360)? -/
opaque imageVerifies : Nat → List Byte → Bool

/-- The nonces that the T-die issues, by their number (15 R357). -/
opaque nonce : Nat → List Byte

/-- The chunk order of 16-bit scoring, "Colent's fixed chunk order" (02 R29): chunks of 32, 64, 128 or 256 by its value
modulo 4. -/
opaque scoreChunk : Nat

/-- What becomes of a vector whose delete is applied after a query's read point while the query runs (02 Table 2-4a, 03
R48): by draw and vector. -/
opaque lateDelete : Nat → Nat → Nat

/-- The score that a ranking plan gives a record (04): by what the plan reads and the identifier. -/
opaque rankScore : List Byte → Nat → Nat

/-- Does this module's shard of a sharded collection hold a list (02 R38)? By collection and list. -/
opaque shardHolds : Nat → Nat → Bool

/-- Bytes of the feature section that a model's plan defines (13 R297). -/
opaque featBytes : Nat → Nat

/-- Does a model's history cache have its home in flash, and not in GDDR7 (04 R69)? -/
opaque histFlash : Nat → Bool

/-- The working copy of a user's history that Haldav gave (04 R69), by model and user: bank, KBASE and VBASE (05 Table 5-3). -/
opaque workCopy : Nat → Nat → Option (Nat × Nat × Nat)

/-- The user that a query's features name to a model's plan (04 R69). -/
opaque histUser : Nat → List Byte → Nat

/-- The INT8 query that a plan's query tower drains for the attention, by weight set, query, head and element (04 R70). -/
opaque attnQuery : List Byte → List Byte → Nat → Nat → Nat

/-- Its FP32 scale, by head. -/
opaque attnScale : List Byte → List Byte → Nat → Nat

/-- Embedding lookups that a query's features ask of a model's plan, and the longest bag among them (04 R61, R80). -/
opaque lookups : Nat → List Byte → Nat
opaque longestBag : Nat → List Byte → Nat

/-- Of a model's training plan (04 R72, R78): the publication interval in steps (0: none), where its FP32 master weights stand in
HBM3E, and the code of the serving format (09 Table 9-4). -/
opaque pubInterval : Nat → Nat
opaque masterAt : Nat → Nat
opaque towerFormat : Nat → Nat

/-- What the body of a boot configuration (kind 7) holds: 0 PCIe rate ceiling in GT/s, 1 width ceiling in lanes, 2 the
binary logarithm of the BAR2 size, 3 the SMBus address, 4 PM_CTL.LIMIT, 5 PM_CTL.IDLE (16 R387). -/
opaque bootConfig : List Byte → Nat → Nat

/-- The number of boundary cells of a TAP, by its position in the chain (20 Table 20-2: "Boundary"). -/
opaque boundaryCells : Nat → Nat

end Sys2Proof.Config
end

