-- ==== Sys2Proof/Machine/Bits.lean ====
section
/-! DEFINITION. Bit fields of a natural number, sign extension and little-endian bytes. Every register field,
instruction field and record layout of the model is read and written through these. -/

namespace Sys2Proof.Machine

/-- The field of `w` bits that starts at bit `lo`. -/
def bits (n lo w : Nat) : Nat := (n >>> lo) % 2 ^ w

/-- One bit as a Bool. -/
def bitAt (n i : Nat) : Bool := n.testBit i

/-- `n` with the field of `w` bits at `lo` replaced by `v` (taken modulo the field). -/
def putBits (n lo w v : Nat) : Nat := n % 2 ^ lo + (v % 2 ^ w) * 2 ^ lo + (n >>> (lo + w)) * 2 ^ (lo + w)

/-- The signed value of the low `w` bits of `n`. -/
def sext (w n : Nat) : Int := if (n % 2 ^ w).testBit (w - 1) then (n % 2 ^ w : Int) - 2 ^ w else (n % 2 ^ w : Int)

/-- An integer as a two's-complement number of `w` bits (modulo `2^w`). -/
def toTwos (w : Nat) (i : Int) : Nat := (i % (2 ^ w : Int)).toNat

/-- An integer clamped to `[lo, hi]`. -/
def clampInt (lo hi i : Int) : Int := if i < lo then lo else if hi < i then hi else i

/-- Addition that stops at `top`: the counters the spec says saturate. -/
def satAdd (top a b : Nat) : Nat := if top < a + b then top else a + b

/-- `k` little-endian bytes of `n`. -/
def leBytes : Nat → Nat → List Byte
  | 0, _ => []
  | k + 1, n => BitVec.ofNat 8 n :: leBytes k (n >>> 8)

/-- The number that little-endian bytes spell. -/
def ofLE : List Byte → Nat
  | [] => 0
  | b :: bs => b.toNat + 256 * ofLE bs

/-- `k` bytes of `bs` from offset `off`; bytes past the end read 0. -/
def bytesAt (bs : List Byte) (off k : Nat) : List Byte :=
  let t := (bs.drop off).take k
  t ++ List.replicate (k - t.length) 0#8

/-- The little-endian number in `k` bytes of `bs` at `off`. -/
def leAt (bs : List Byte) (off k : Nat) : Nat := ofLE (bytesAt bs off k)

/-- Are the bytes `[lo, hi)` of `bs` all zero? -/
def zeroRange (bs : List Byte) (lo hi : Nat) : Bool := (bytesAt bs lo (hi - lo)).all (· = 0#8)

/-- The number of one bits in the low `w` bits of `n`. -/
def popCount : Nat → Nat → Nat
  | 0, _ => 0
  | w + 1, n => n % 2 + popCount w (n / 2)

/-- `⌈a / b⌉`. -/
def ceilDiv (a b : Nat) : Nat := (a + b - 1) / b

/-- The least multiple of `m` at or above `n`. -/
def alignUp (n m : Nat) : Nat := ceilDiv n m * m

/-- One step of CRC-32C (reflected polynomial 0x82F63B78) over one bit. -/
def crcBit (c : Nat) : Nat := if c % 2 = 1 then (c / 2) ^^^ 0x82F63B78 else c / 2

/-- CRC-32C of one byte into the running value. -/
def crcByte (c : Nat) (b : Byte) : Nat :=
  crcBit (crcBit (crcBit (crcBit (crcBit (crcBit (crcBit (crcBit (c ^^^ b.toNat))))))))

/-- CRC-32C of a list of bytes (start and final XOR of 0xFFFF_FFFF): 09 R207, R208, 14 R319, R325. The manual
names the code; its polynomial and its bit order are those of CRC-32C everywhere (PRESUMED, log entry 30). -/
def crc32c (bs : List Byte) : Nat := (bs.foldl crcByte 0xFFFFFFFF) ^^^ 0xFFFFFFFF

/-- Replace the `i`-th element of a list. -/
def setAt {α : Type} (l : List α) (i : Nat) (v : α) : List α := l.set i v

/-- Remove the first element that satisfies `p`. -/
def dropFirst {α : Type} (p : α → Bool) : List α → List α
  | [] => []
  | a :: t => if p a then t else a :: dropFirst p t

/-- Replace every element that satisfies `p`. -/
def mapIf {α : Type} (p : α → Bool) (f : α → α) (l : List α) : List α := l.map fun a => if p a then f a else a

/-- The naturals from `a`, `n` of them. -/
def rangeFrom (a n : Nat) : List Nat := (List.range n).map (a + ·)

end Sys2Proof.Machine
end

