-- ==== Sys2Proof/Machine/Tab.lean ====
section
/-! DEFINITION. A table: a list of (key, value) pairs with keys strictly rising and no entry equal to what an
unlisted key reads as. Registers, memory, accumulators and every other keyed store of the model are tables, so
that equal contents are equal lists. -/

namespace Sys2Proof.Machine

/-- A table from natural numbers to `α`. What an unlisted key reads as is the function `d` of the operations. -/
abbrev Tab (α : Type) := List (Nat × α)

/-- Read key `k`; an unlisted key reads `d k`. -/
def tget {α : Type} (d : Nat → α) : Tab α → Nat → α
  | [], k => d k
  | e :: t, k => if k = e.1 then e.2 else tget d t k

/-- List `v` under `k`, in order, in place of an entry of `k`. -/
def tins {α : Type} (k : Nat) (v : α) : Tab α → Tab α
  | [] => [(k, v)]
  | e :: t => if k < e.1 then (k, v) :: e :: t else if k = e.1 then (k, v) :: t else e :: tins k v t

/-- Take the entry of `k` out. -/
def tdel {α : Type} (k : Nat) : Tab α → Tab α
  | [] => []
  | e :: t => if k = e.1 then t else e :: tdel k t

/-- Write key `k`: an entry equal to what the key reads unlisted is not kept. -/
def tset {α : Type} [DecidableEq α] (d : Nat → α) (t : Tab α) (k : Nat) (v : α) : Tab α :=
  if v = d k then tdel k t else tins k v t

/-- Every listed key lies above `b`, keys rise strictly, and no entry equals what its key reads unlisted. -/
def twfFrom {α : Type} [DecidableEq α] (d : Nat → α) : Option Nat → Tab α → Bool
  | _, [] => true
  | b, e :: t => (match b with | none => true | some n => decide (n < e.1)) && decide (e.2 ≠ d e.1) && twfFrom d (some e.1) t

/-- The canonical form of a table. -/
def twf {α : Type} [DecidableEq α] (d : Nat → α) (t : Tab α) : Bool := twfFrom d none t

/-- Drop every entry whose key satisfies `p`: those keys read unlisted again. -/
def tclear {α : Type} (p : Nat → Bool) (t : Tab α) : Tab α := t.filter fun e => !p e.1

/-- A table of optional values reads `none` where nothing is listed. -/
def tgetO {α : Type} (t : Tab α) (k : Nat) : Option α :=
  match t with
  | [] => none
  | e :: t => if k = e.1 then some e.2 else tgetO t k

/-- Read with one default for every key. -/
def tgetD {α : Type} (v : α) (t : Tab α) (k : Nat) : α := tget (fun _ => v) t k

/-- Write with one default for every key. -/
def tsetD {α : Type} [DecidableEq α] (v : α) (t : Tab α) (k : Nat) (x : α) : Tab α := tset (fun _ => v) t k x

/-- Change every listed value; a value that becomes the default is not kept. -/
def tmapD {α : Type} [DecidableEq α] (v : α) (f : Nat → α → α) (t : Tab α) : Tab α :=
  (t.map fun e => (e.1, f e.1 e.2)).filter fun e => e.2 ≠ v

end Sys2Proof.Machine
end

