-- ==== Sys2Proof/Machine/RegMap.lean ====
section
/-! DEFINITION. The register map: every register of 18 Table 18-4, its BAR0 offset, its fields with their access
types (18 Table 18-1), the lock that governs them (18 Table 18-2) and their values after cold reset. -/

namespace Sys2Proof.Machine

/-- The access types of 18 Table 18-1. -/
inductive Access where
  | rw | ro | wo | w1c | w1s | rc | cnt | lck | stk
deriving DecidableEq, Repr

/-- The locks of 18 Table 18-2. `none` marks a field that no lock governs. -/
inductive LockKind where
  | none | pt | fab | quad | pool | tenant | life
deriving DecidableEq, Repr

/-- One field of a register: its lowest bit, its width, its access type and lock, whether a counter saturates, and
its value after cold reset. -/
structure Fld where
  lo : Nat
  w : Nat
  acc : Access
  lock : LockKind
  sat : Bool
  rst : Nat
deriving DecidableEq, Repr

/-- The registers of the module. An index runs over the copies of a register; where a register has two indices they
are joined as its line says. -/
inductive Reg where
  /-- GLB_ID (18 R418). -/
  | glbId
  /-- GLB_CTL (18 R419). -/
  | glbCtl
  /-- GLB_STAT (18 R420). -/
  | glbStat
  /-- GLB_INT (18 R421). -/
  | glbInt
  /-- FAB_LOCK (18 R422). -/
  | fabLock
  /-- EVQ_CFG (18 R423). -/
  | evqCfg (l : Nat)
  /-- EVQ_LSN (18 R423). -/
  | evqLsn (l : Nat)
  /-- EVQ_ACK (18 R423). -/
  | evqAck (l : Nat)
  /-- EVQ_STAT (18 R423). -/
  | evqStat (l : Nat)
  /-- PRT_CTL (18 R425). -/
  | prtCtl
  /-- PRT_SEED (18 R425). -/
  | prtSeed
  /-- PRT_SLOT (18 R426). -/
  | prtSlot (n : Nat)
  /-- CVT_SATCFG (06 R132). -/
  | cvtSatcfg (q : Nat)
  /-- CVT_SATSTAT (06 R133). -/
  | cvtSatstat (q : Nat)
  /-- CVT_WINCNT (06 R134). -/
  | cvtWincnt (q : Nat)
  /-- ME_STAT (07 R153); index 4q + e. -/
  | meStat (k : Nat)
  /-- ME_SRCTX0 (07 R154); index 16q + 4e + t. -/
  | meSrctx0 (k : Nat)
  /-- ME_SRCTX8 (07 R154); index 16q + 4e + t. -/
  | meSrctx8 (k : Nat)
  /-- ME_SPARE (07 R155). -/
  | meSpare (d : Nat)
  /-- SK_CTL (05 R110). -/
  | skCtl (n : Nat)
  /-- SK_REGION (05 R111). -/
  | skRegion (n : Nat)
  /-- SK_TSTAT (05 R112). -/
  | skTstat (n : Nat)
  /-- SK_TIDE (05 R113). -/
  | skTide (n : Nat)
  /-- SK_ERR (05 R114). -/
  | skErr (n : Nat)
  /-- XU_STAT (08 R172). -/
  | xuStat (q : Nat)
  /-- XU_BOUND (08 R173). -/
  | xuBound (q : Nat)
  /-- SCH_CTL (09 R212). -/
  | schCtl
  /-- SCH_LOAD (09 R213). -/
  | schLoad
  /-- SCH_BIND (09 R213). -/
  | schBind
  /-- SCH_LDCTL (09 R213). -/
  | schLdctl
  /-- SCH_LDSTAT (09 R214). -/
  | schLdstat
  /-- SCH_INST (09 R215). -/
  | schInst (i : Nat)
  /-- SCH_QUAD (09 R215). -/
  | schQuad (q : Nat)
  /-- SEM_VAL (09 R215); index 64q + j. -/
  | semVal (k : Nat)
  /-- FRY_STAT (10 R236). -/
  | fryStat (n : Nat)
  /-- FRY_CRED (10 R237). -/
  | fryCred (n : Nat)
  /-- FRY_SPLIT (10 R238). -/
  | frySplit (p : Nat)
  /-- FRY_SWAIT (10 R238); index 16n + stream. -/
  | frySwait (k : Nat)
  /-- MEM_HSTAT (11 R262). -/
  | memHstat (n : Nat)
  /-- MEM_HERR (11 R263). -/
  | memHerr (n : Nat)
  /-- HCVT_SATCFG (06 R132, a hub set). -/
  | hcvtSatcfg (h : Nat)
  /-- HCVT_SATSTAT (06 R133, a hub set). -/
  | hcvtSatstat (h : Nat)
  /-- HCVT_WINCNT (06 R134, a hub set). -/
  | hcvtWincnt (h : Nat)
  /-- MSA_STAT (11 R264). -/
  | msaStat (h : Nat)
  /-- MEM_GSTAT (11 R265). -/
  | memGstat (d : Nat)
  /-- MEM_GRET (11 R265, the retirement word of a GDDR7 region). -/
  | memGret (h : Nat)
  /-- FL_STAT (11 R266). -/
  | flStat
  /-- FL_ERR (11 R266). -/
  | flErr
  /-- SPAD_PWR0 (12 R283). -/
  | spadPwr0 (d : Nat)
  /-- SPAD_PWR1 (12 R283). -/
  | spadPwr1 (d : Nat)
  /-- SPAD_STAT (12 R284). -/
  | spadStat (d : Nat)
  /-- FC_RANGE (12 R285); index 16h + i. -/
  | fcRange (k : Nat)
  /-- DIR_STAT (12 R286). -/
  | dirStat (h : Nat)
  /-- POOL_CFG (12 R287); index 16d + p. -/
  | poolCfg (k : Nat)
  /-- POOL_ALLOC (12 R287); index 16d + p. -/
  | poolAlloc (k : Nat)
  /-- POOL_FREE (12 R287); index 16d + p. -/
  | poolFree (k : Nat)
  /-- Q_CTL (13 R310). -/
  | qCtl
  /-- Q_STAT (13 R311). -/
  | qStat
  /-- QA_SQB (13 R312). -/
  | qaSqb
  /-- QA_CQB (13 R312). -/
  | qaCqb
  /-- QA_SIZE (13 R313). -/
  | qaSize
  /-- QW_WIN (13 R314). -/
  | qwWin
  /-- MSIX_ADDR (18 Table 18-4, 13 R307). -/
  | msixAddr (v : Nat)
  /-- MSIX_DATA (18 Table 18-4, 13 R307). -/
  | msixData (v : Nat)
  /-- MSIX_PBA (18 Table 18-4, 13 R307). -/
  | msixPba (k : Nat)
  /-- CM_PSTAT (03 R58). -/
  | cmPstat (p : Nat)
  /-- CM_APPLIED (03 R59). -/
  | cmApplied (p : Nat)
  /-- MDL_STEP (04 R81). -/
  | mdlStep (m : Nat)
  /-- MDL_STAT (04 R82). -/
  | mdlStat (m : Nat)
  /-- AB_ID (14 R339). -/
  | abId
  /-- AB_UID (14 R339). -/
  | abUid
  /-- AB_CTL (14 R340). -/
  | abCtl
  /-- AB_PORT (14 R341). -/
  | abPort (p : Nat)
  /-- AB_PORTC (14 R341). -/
  | abPortc (p : Nat)
  /-- AB_GROUP (14 R329, Table 14-10); index 8g + word of the descriptor. -/
  | abGroup (k : Nat)
  /-- AB_ROUTE (14 R342). -/
  | abRoute (m : Nat)
  /-- PT_LOCK (15 R364). -/
  | ptLock
  /-- PT_CFG (15 R365). -/
  | ptCfg (p : Nat)
  /-- PT_STAT (15 R365). -/
  | ptStat (p : Nat)
  /-- PT_FLOOR (15 R366); index 4p + h. -/
  | ptFloor (k : Nat)
  /-- PT_PEER (15 R366); index 8p + e. -/
  | ptPeer (k : Nat)
  /-- PT_OWNQ (15 R367, quads). -/
  | ptOwnQ (j : Nat)
  /-- PT_OWNB (15 R367, scratchpad banks). -/
  | ptOwnB (j : Nat)
  /-- PT_OWNH (15 R367, HBM3E slices). -/
  | ptOwnH (j : Nat)
  /-- PT_OWNG (15 R367, GDDR7 slices). -/
  | ptOwnG (j : Nat)
  /-- PT_OWNS (15 R367, sketch-stack banks). -/
  | ptOwnS (j : Nat)
  /-- TN_CFG (15 R368). -/
  | tnCfg (t : Nat)
  /-- TN_TIER (15 R368); index 4t + k. -/
  | tnTier (k : Nat)
  /-- LC_STAT (15 R368). -/
  | lcStat
  /-- PM_STAT (16 R389). -/
  | pmStat
  /-- PM_CTL (16 R390). -/
  | pmCtl
  /-- RST_REQ (16 R391). -/
  | rstReq
  /-- SVC_TIME (16 R393). -/
  | svcTime
  /-- SVC_SYNC (16 R393). -/
  | svcSync
  /-- PWR_QUAD (16 R392). -/
  | pwrQuad (q : Nat)
  /-- FLT_HEALTH (17 R408). -/
  | fltHealth
deriving DecidableEq, Repr

/-- GLB_ID.PRODUCT [15:0] -/
def GLB_ID_PRODUCT : Fld := ⟨0, 16, .ro, .none, false, 0x3240⟩
/-- GLB_ID.ORDER [19:16] -/
def GLB_ID_ORDER : Fld := ⟨16, 4, .ro, .none, false, 0⟩
/-- GLB_ID.REVMAJ [23:20] -/
def GLB_ID_REVMAJ : Fld := ⟨20, 4, .ro, .none, false, 0xB⟩
/-- GLB_ID.REVMIN [27:24] -/
def GLB_ID_REVMIN : Fld := ⟨24, 4, .ro, .none, false, 0x0⟩
/-- GLB_ID.RAWTB [39:32] -/
def GLB_ID_RAWTB : Fld := ⟨32, 8, .ro, .none, false, 0⟩
/-- GLB_CTL.GVEC [10:0] -/
def GLB_CTL_GVEC : Fld := ⟨0, 11, .rw, .none, false, 0⟩
/-- GLB_CTL.GIEN [11] -/
def GLB_CTL_GIEN : Fld := ⟨11, 1, .rw, .none, false, 0⟩
/-- GLB_STAT.HEALTH [1:0] -/
def GLB_STAT_HEALTH : Fld := ⟨0, 2, .ro, .none, false, 0⟩
/-- GLB_STAT.FATAL [2] -/
def GLB_STAT_FATAL : Fld := ⟨2, 1, .ro, .none, false, 0⟩
/-- GLB_STAT.LCSTATE [6:4] -/
def GLB_STAT_LCSTATE : Fld := ⟨4, 3, .ro, .none, false, 0⟩
/-- GLB_STAT.BOOTC [7] -/
def GLB_STAT_BOOTC : Fld := ⟨7, 1, .ro, .none, false, 0⟩
/-- GLB_STAT.WARM [8] -/
def GLB_STAT_WARM : Fld := ⟨8, 1, .ro, .none, false, 0⟩
/-- GLB_STAT.BADREG [47:32] -/
def GLB_STAT_BADREG : Fld := ⟨32, 16, .cnt, .none, true, 0⟩
/-- GLB_INT.HEALTH [0] -/
def GLB_INT_HEALTH : Fld := ⟨0, 1, .w1c, .none, false, 0⟩
/-- GLB_INT.FATAL [1] -/
def GLB_INT_FATAL : Fld := ⟨1, 1, .w1c, .none, false, 0⟩
/-- GLB_INT.PWR [2] -/
def GLB_INT_PWR : Fld := ⟨2, 1, .w1c, .none, false, 0⟩
/-- GLB_INT.CAP [3] -/
def GLB_INT_CAP : Fld := ⟨3, 1, .w1c, .none, false, 0⟩
/-- GLB_INT.LINK [4] -/
def GLB_INT_LINK : Fld := ⟨4, 1, .w1c, .none, false, 0⟩
/-- GLB_INT.MASK [20:16] -/
def GLB_INT_MASK : Fld := ⟨16, 5, .rw, .none, false, 0⟩
/-- FAB_LOCK.OPEN [0] -/
def FAB_LOCK_OPEN : Fld := ⟨0, 1, .w1s, .none, false, 0⟩
/-- FAB_LOCK.CLOSE [1] -/
def FAB_LOCK_CLOSE : Fld := ⟨1, 1, .w1s, .none, false, 0⟩
/-- FAB_LOCK.HOLDER [27:16] -/
def FAB_LOCK_HOLDER : Fld := ⟨16, 12, .ro, .none, false, 0⟩
/-- FAB_LOCK.CLOSES [63:32] -/
def FAB_LOCK_CLOSES : Fld := ⟨32, 32, .ro, .none, false, 0⟩
/-- EVQ_CFG.VEC [10:0] -/
def EVQ_CFG_VEC : Fld := ⟨0, 11, .rw, .none, false, 0⟩
/-- EVQ_CFG.EN [11] -/
def EVQ_CFG_EN : Fld := ⟨11, 1, .rw, .none, false, 0⟩
/-- EVQ_CFG.THRESH [31:16] -/
def EVQ_CFG_THRESH : Fld := ⟨16, 16, .rw, .none, false, 0x0001⟩
/-- EVQ_CFG.ITIME [47:32] -/
def EVQ_CFG_ITIME : Fld := ⟨32, 16, .rw, .none, false, 0⟩
/-- EVQ_LSN.LSN [63:0] -/
def EVQ_LSN_LSN : Fld := ⟨0, 64, .ro, .none, false, 0⟩
/-- EVQ_ACK.ACK [63:0] -/
def EVQ_ACK_ACK : Fld := ⟨0, 64, .rw, .none, false, 0⟩
/-- EVQ_STAT.PEND [0] -/
def EVQ_STAT_PEND : Fld := ⟨0, 1, .ro, .none, false, 0⟩
/-- EVQ_STAT.OVWR [1] -/
def EVQ_STAT_OVWR : Fld := ⟨1, 1, .w1c, .none, false, 0⟩
/-- PRT_CTL.EN [0] -/
def PRT_CTL_EN : Fld := ⟨0, 1, .rw, .none, false, 0⟩
/-- PRT_CTL.ALLOW [1] -/
def PRT_CTL_ALLOW : Fld := ⟨1, 1, .ro, .none, false, 0⟩
/-- PRT_SEED.SEED [63:0] -/
def PRT_SEED_SEED : Fld := ⟨0, 64, .rw, .none, false, 0⟩
/-- PRT_SLOT.TARGET [15:0] -/
def PRT_SLOT_TARGET : Fld := ⟨0, 16, .lck, .life, false, 0⟩
/-- PRT_SLOT.KIND [18:16] -/
def PRT_SLOT_KIND : Fld := ⟨16, 3, .lck, .life, false, 0⟩
/-- PRT_SLOT.DELAY [31:20] -/
def PRT_SLOT_DELAY : Fld := ⟨20, 12, .lck, .life, false, 0⟩
/-- PRT_SLOT.DUTY [35:32] -/
def PRT_SLOT_DUTY : Fld := ⟨32, 4, .lck, .life, false, 0⟩
/-- PRT_SLOT.HITS [63:40] -/
def PRT_SLOT_HITS : Fld := ⟨40, 24, .cnt, .none, true, 0⟩
/-- CVT_SATCFG.WINDOW [15:0] -/
def CVT_SATCFG_WINDOW : Fld := ⟨0, 16, .rw, .none, false, 0x03E8⟩
/-- CVT_SATCFG.THRESH [39:16] -/
def CVT_SATCFG_THRESH : Fld := ⟨16, 24, .rw, .none, false, 0x000400⟩
/-- CVT_SATCFG.EVEN [40] -/
def CVT_SATCFG_EVEN : Fld := ⟨40, 1, .rw, .none, false, 1⟩
/-- CVT_SATSTAT.SAT [15:0] -/
def CVT_SATSTAT_SAT : Fld := ⟨0, 16, .cnt, .none, true, 0⟩
/-- CVT_SATSTAT.NANZ [31:16] -/
def CVT_SATSTAT_NANZ : Fld := ⟨16, 16, .cnt, .none, true, 0⟩
/-- CVT_SATSTAT.SCLAMP [47:32] -/
def CVT_SATSTAT_SCLAMP : Fld := ⟨32, 16, .cnt, .none, true, 0⟩
/-- CVT_SATSTAT.EVENTS [62:48] -/
def CVT_SATSTAT_EVENTS : Fld := ⟨48, 15, .cnt, .none, true, 0⟩
/-- CVT_SATSTAT.FIRED [63] -/
def CVT_SATSTAT_FIRED : Fld := ⟨63, 1, .w1c, .none, false, 0⟩
/-- CVT_WINCNT.WCOUNT [23:0] -/
def CVT_WINCNT_WCOUNT : Fld := ⟨0, 24, .ro, .none, true, 0⟩
/-- ME_STAT.ACTIVE [31:0] -/
def ME_STAT_ACTIVE : Fld := ⟨0, 32, .cnt, .none, false, 0⟩
/-- ME_STAT.OPHOLD [47:32] -/
def ME_STAT_OPHOLD : Fld := ⟨32, 16, .cnt, .none, true, 0⟩
/-- ME_STAT.THRRDY [51:48] -/
def ME_STAT_THRRDY : Fld := ⟨48, 4, .ro, .none, false, 0⟩
/-- ME_STAT.SUBST [52] -/
def ME_STAT_SUBST : Fld := ⟨52, 1, .ro, .none, false, 0⟩
/-- ME_STAT.FAULT [53] -/
def ME_STAT_FAULT : Fld := ⟨53, 1, .w1c, .none, false, 0⟩
/-- ME_STAT.ACCCE [54] -/
def ME_STAT_ACCCE : Fld := ⟨54, 1, .w1c, .none, false, 0⟩
/-- ME_SRCTX0.STEP [63:0] -/
def ME_SRCTX0_STEP : Fld := ⟨0, 64, .rw, .none, false, 0⟩
/-- ME_SRCTX8.MODEL [5:0] -/
def ME_SRCTX8_MODEL : Fld := ⟨0, 6, .rw, .none, false, 0⟩
/-- ME_SRCTX8.VALID [6] -/
def ME_SRCTX8_VALID : Fld := ⟨6, 1, .rw, .none, false, 0⟩
/-- ME_SPARE.AVAIL [0] -/
def ME_SPARE_AVAIL : Fld := ⟨0, 1, .ro, .none, false, 0⟩
/-- ME_SPARE.INUSE [1] -/
def ME_SPARE_INUSE : Fld := ⟨1, 1, .ro, .none, false, 0⟩
/-- ME_SPARE.QUAD [3:2] -/
def ME_SPARE_QUAD : Fld := ⟨2, 2, .ro, .none, false, 0⟩
/-- ME_SPARE.ENGINE [5:4] -/
def ME_SPARE_ENGINE : Fld := ⟨4, 2, .ro, .none, false, 0⟩
/-- ME_SPARE.SPFAIL [6] -/
def ME_SPARE_SPFAIL : Fld := ⟨6, 1, .stk, .none, false, 0⟩
/-- ME_SPARE.TESTGO [7] -/
def ME_SPARE_TESTGO : Fld := ⟨7, 1, .w1s, .none, false, 0⟩
/-- SK_CTL.TIDE_MIN [5:0] -/
def SK_CTL_TIDE_MIN : Fld := ⟨0, 6, .rw, .none, false, 0x0A⟩
/-- SK_CTL.TIDE_EN [6] -/
def SK_CTL_TIDE_EN : Fld := ⟨6, 1, .lck, .pt, false, 1⟩
/-- SK_CTL.NBU_EN [7] -/
def SK_CTL_NBU_EN : Fld := ⟨7, 1, .rw, .none, false, 1⟩
/-- SK_CTL.TIDE_GO [8] -/
def SK_CTL_TIDE_GO : Fld := ⟨8, 1, .w1s, .none, false, 0⟩
/-- SK_REGION.PLAIN [46:0] -/
def SK_REGION_PLAIN : Fld := ⟨0, 47, .rw, .none, false, 0x7FFFFFFFFFFF⟩
/-- SK_REGION.PLAIN47 [47] -/
def SK_REGION_PLAIN47 : Fld := ⟨47, 1, .ro, .none, false, 1⟩
/-- SK_REGION.CONV [63] -/
def SK_REGION_CONV : Fld := ⟨63, 1, .ro, .none, false, 0⟩
/-- SK_TSTAT.TEMP [7:0] -/
def SK_TSTAT_TEMP : Fld := ⟨0, 8, .ro, .none, false, 0⟩
/-- SK_TSTAT.LIMIT [15:8] -/
def SK_TSTAT_LIMIT : Fld := ⟨8, 8, .ro, .none, false, 0x69⟩
/-- SK_TSTAT.REFX [17:16] -/
def SK_TSTAT_REFX : Fld := ⟨16, 2, .ro, .none, false, 0⟩
/-- SK_TSTAT.UTHROT [18] -/
def SK_TSTAT_UTHROT : Fld := ⟨18, 1, .ro, .none, false, 0⟩
/-- SK_TSTAT.HTHROT [19] -/
def SK_TSTAT_HTHROT : Fld := ⟨19, 1, .ro, .none, false, 0⟩
/-- SK_TSTAT.T85 [20] -/
def SK_TSTAT_T85 : Fld := ⟨20, 1, .w1c, .none, false, 0⟩
/-- SK_TSTAT.T95 [21] -/
def SK_TSTAT_T95 : Fld := ⟨21, 1, .w1c, .none, false, 0⟩
/-- SK_TSTAT.TLIM [22] -/
def SK_TSTAT_TLIM : Fld := ⟨22, 1, .w1c, .none, false, 0⟩
/-- SK_TSTAT.THRTIME [63:32] -/
def SK_TSTAT_THRTIME : Fld := ⟨32, 32, .cnt, .none, true, 0⟩
/-- SK_TIDE.PASSES [31:0] -/
def SK_TIDE_PASSES : Fld := ⟨0, 32, .cnt, .none, false, 0⟩
/-- SK_TIDE.MISMATCH [47:32] -/
def SK_TIDE_MISMATCH : Fld := ⟨32, 16, .cnt, .none, true, 0⟩
/-- SK_TIDE.AGE [63:48] -/
def SK_TIDE_AGE : Fld := ⟨48, 16, .ro, .none, true, 0⟩
/-- SK_ERR.REFUSED [15:0] -/
def SK_ERR_REFUSED : Fld := ⟨0, 16, .cnt, .none, true, 0⟩
/-- SK_ERR.PARITY [31:16] -/
def SK_ERR_PARITY : Fld := ⟨16, 16, .cnt, .none, true, 0⟩
/-- SK_ERR.PARSEEN [32] -/
def SK_ERR_PARSEEN : Fld := ⟨32, 1, .stk, .none, false, 0⟩
/-- SK_ERR.LASTCODE [40:33] -/
def SK_ERR_LASTCODE : Fld := ⟨33, 8, .ro, .none, false, 0⟩
/-- XU_STAT.SELECTS [31:0] -/
def XU_STAT_SELECTS : Fld := ⟨0, 32, .cnt, .none, false, 0⟩
/-- XU_STAT.NANKEY [47:32] -/
def XU_STAT_NANKEY : Fld := ⟨32, 16, .cnt, .none, true, 0⟩
/-- XU_STAT.FOLDS [55:48] -/
def XU_STAT_FOLDS : Fld := ⟨48, 8, .cnt, .none, true, 0⟩
/-- XU_STAT.FALLBACKS [62:56] -/
def XU_STAT_FALLBACKS : Fld := ⟨56, 7, .cnt, .none, true, 0⟩
/-- XU_STAT.PARSEEN [63] -/
def XU_STAT_PARSEEN : Fld := ⟨63, 1, .stk, .none, false, 0⟩
/-- XU_BOUND.D [9:0] -/
def XU_BOUND_D : Fld := ⟨0, 10, .ro, .none, false, 0x3FF⟩
/-- XU_BOUND.ACTIVE [10] -/
def XU_BOUND_ACTIVE : Fld := ⟨10, 1, .ro, .none, false, 0⟩
/-- XU_BOUND.DVALID [11] -/
def XU_BOUND_DVALID : Fld := ⟨11, 1, .ro, .none, false, 0⟩
/-- XU_BOUND.RETAINED [63:32] -/
def XU_BOUND_RETAINED : Fld := ⟨32, 32, .ro, .none, false, 0⟩
/-- SCH_CTL.WDOG [15:0] -/
def SCH_CTL_WDOG : Fld := ⟨0, 16, .rw, .none, false, 0x0064⟩
/-- SCH_LOAD.ADDR [39:0] -/
def SCH_LOAD_ADDR : Fld := ⟨0, 40, .rw, .none, false, 0⟩
/-- SCH_BIND.ADDR [39:0] -/
def SCH_BIND_ADDR : Fld := ⟨0, 40, .rw, .none, false, 0⟩
/-- SCH_LDCTL.GO [0] -/
def SCH_LDCTL_GO : Fld := ⟨0, 1, .w1s, .none, false, 0⟩
/-- SCH_LDCTL.UNLOAD [1] -/
def SCH_LDCTL_UNLOAD : Fld := ⟨1, 1, .w1s, .none, false, 0⟩
/-- SCH_LDCTL.PART [7:2] -/
def SCH_LDCTL_PART : Fld := ⟨2, 6, .rw, .none, false, 0⟩
/-- SCH_LDCTL.EPOCH [31:16] -/
def SCH_LDCTL_EPOCH : Fld := ⟨16, 16, .rw, .none, false, 0⟩
/-- SCH_LDCTL.INST [38:32] -/
def SCH_LDCTL_INST : Fld := ⟨32, 7, .rw, .none, false, 0⟩
/-- SCH_LDSTAT.BUSY [0] -/
def SCH_LDSTAT_BUSY : Fld := ⟨0, 1, .ro, .none, false, 0⟩
/-- SCH_LDSTAT.DONE [1] -/
def SCH_LDSTAT_DONE : Fld := ⟨1, 1, .w1c, .none, false, 0⟩
/-- SCH_LDSTAT.FAIL [2] -/
def SCH_LDSTAT_FAIL : Fld := ⟨2, 1, .w1c, .none, false, 0⟩
/-- SCH_LDSTAT.ERR [15:8] -/
def SCH_LDSTAT_ERR : Fld := ⟨8, 8, .ro, .none, false, 0⟩
/-- SCH_LDSTAT.INST [22:16] -/
def SCH_LDSTAT_INST : Fld := ⟨16, 7, .ro, .none, false, 0⟩
/-- SCH_INST.EPOCH [15:0] -/
def SCH_INST_EPOCH : Fld := ⟨0, 16, .ro, .none, false, 0⟩
/-- SCH_INST.INFLIGHT [20:16] -/
def SCH_INST_INFLIGHT : Fld := ⟨16, 5, .ro, .none, false, 0⟩
/-- SCH_INST.RUN [21] -/
def SCH_INST_RUN : Fld := ⟨21, 1, .ro, .none, false, 0⟩
/-- SCH_INST.ABORTING [22] -/
def SCH_INST_ABORTING : Fld := ⟨22, 1, .ro, .none, false, 0⟩
/-- SCH_INST.ABORTS [63:32] -/
def SCH_INST_ABORTS : Fld := ⟨32, 32, .cnt, .none, false, 0⟩
/-- SCH_QUAD.EPOCH [15:0] -/
def SCH_QUAD_EPOCH : Fld := ⟨0, 16, .ro, .none, false, 0⟩
/-- SCH_QUAD.INST [22:16] -/
def SCH_QUAD_INST : Fld := ⟨16, 7, .ro, .none, false, 0x7F⟩
/-- SCH_QUAD.STALE [63:32] -/
def SCH_QUAD_STALE : Fld := ⟨32, 32, .cnt, .none, true, 0⟩
/-- SEM_VAL.SEM0 [15:0] -/
def SEM_VAL_SEM0 : Fld := ⟨0, 16, .lck, .quad, false, 0⟩
/-- SEM_VAL.SEM1 [31:16] -/
def SEM_VAL_SEM1 : Fld := ⟨16, 16, .lck, .quad, false, 0⟩
/-- SEM_VAL.SEM2 [47:32] -/
def SEM_VAL_SEM2 : Fld := ⟨32, 16, .lck, .quad, false, 0⟩
/-- SEM_VAL.SEM3 [63:48] -/
def SEM_VAL_SEM3 : Fld := ⟨48, 16, .lck, .quad, false, 0⟩
/-- FRY_STAT.PIECES [31:0] -/
def FRY_STAT_PIECES : Fld := ⟨0, 32, .cnt, .none, false, 0⟩
/-- FRY_STAT.DRY [47:32] -/
def FRY_STAT_DRY : Fld := ⟨32, 16, .cnt, .none, true, 0⟩
/-- FRY_STAT.OUTST [55:48] -/
def FRY_STAT_OUTST : Fld := ⟨48, 8, .ro, .none, false, 0⟩
/-- FRY_STAT.FAULT [56] -/
def FRY_STAT_FAULT : Fld := ⟨56, 1, .w1c, .none, false, 0⟩
/-- FRY_STAT.LATE [57] -/
def FRY_STAT_LATE : Fld := ⟨57, 1, .w1c, .none, false, 0⟩
/-- FRY_STAT.PARSEEN [58] -/
def FRY_STAT_PARSEEN : Fld := ⟨58, 1, .stk, .none, false, 0⟩
/-- FRY_CRED.RDCRED [7:0] -/
def FRY_CRED_RDCRED : Fld := ⟨0, 8, .ro, .none, false, 0x80⟩
/-- FRY_CRED.WRCRED [14:8] -/
def FRY_CRED_WRCRED : Fld := ⟨8, 7, .ro, .none, false, 0x40⟩
/-- FRY_CRED.REMCRED [21:16] -/
def FRY_CRED_REMCRED : Fld := ⟨16, 6, .ro, .none, false, 0x20⟩
/-- FRY_CRED.SWEEP [22] -/
def FRY_CRED_SWEEP : Fld := ⟨22, 1, .ro, .none, false, 0⟩
/-- FRY_SPLIT.READ [5:0] -/
def FRY_SPLIT_READ : Fld := ⟨0, 6, .lck, .pt, false, 0x28⟩
/-- FRY_SPLIT.WRITE [13:8] -/
def FRY_SPLIT_WRITE : Fld := ⟨8, 6, .lck, .pt, false, 0x10⟩
/-- FRY_SPLIT.REMOTE [21:16] -/
def FRY_SPLIT_REMOTE : Fld := ⟨16, 6, .lck, .pt, false, 0x08⟩
/-- FRY_SWAIT.CAUSE [3:0] -/
def FRY_SWAIT_CAUSE : Fld := ⟨0, 4, .ro, .none, false, 0⟩
/-- FRY_SWAIT.SINCE [63:32] -/
def FRY_SWAIT_SINCE : Fld := ⟨32, 32, .ro, .none, false, 0⟩
/-- MEM_HSTAT.TEMP [7:0] -/
def MEM_HSTAT_TEMP : Fld := ⟨0, 8, .ro, .none, false, 0⟩
/-- MEM_HSTAT.LIMIT [15:8] -/
def MEM_HSTAT_LIMIT : Fld := ⟨8, 8, .ro, .none, false, 0x69⟩
/-- MEM_HSTAT.REFX [17:16] -/
def MEM_HSTAT_REFX : Fld := ⟨16, 2, .ro, .none, false, 0⟩
/-- MEM_HSTAT.HTHROT [18] -/
def MEM_HSTAT_HTHROT : Fld := ⟨18, 1, .ro, .none, false, 0⟩
/-- MEM_HSTAT.T85 [19] -/
def MEM_HSTAT_T85 : Fld := ⟨19, 1, .w1c, .none, false, 0⟩
/-- MEM_HSTAT.T95 [20] -/
def MEM_HSTAT_T95 : Fld := ⟨20, 1, .w1c, .none, false, 0⟩
/-- MEM_HSTAT.TLIM [21] -/
def MEM_HSTAT_TLIM : Fld := ⟨21, 1, .w1c, .none, false, 0⟩
/-- MEM_HSTAT.DEGRADED [22] -/
def MEM_HSTAT_DEGRADED : Fld := ⟨22, 1, .ro, .none, false, 0⟩
/-- MEM_HSTAT.HALFW [39:24] -/
def MEM_HSTAT_HALFW : Fld := ⟨24, 16, .ro, .none, false, 0⟩
/-- MEM_HSTAT.CHFAIL [55:40] -/
def MEM_HSTAT_CHFAIL : Fld := ⟨40, 16, .ro, .none, false, 0⟩
/-- MEM_HERR.CE [15:0] -/
def MEM_HERR_CE : Fld := ⟨0, 16, .cnt, .none, true, 0⟩
/-- MEM_HERR.UE [31:16] -/
def MEM_HERR_UE : Fld := ⟨16, 16, .cnt, .none, true, 0⟩
/-- MEM_HERR.RETIRED [44:32] -/
def MEM_HERR_RETIRED : Fld := ⟨32, 13, .ro, .none, false, 0⟩
/-- MEM_HERR.UESEEN [45] -/
def MEM_HERR_UESEEN : Fld := ⟨45, 1, .stk, .none, false, 0⟩
/-- HCVT_SATCFG.WINDOW [15:0] -/
def HCVT_SATCFG_WINDOW : Fld := ⟨0, 16, .rw, .none, false, 0x03E8⟩
/-- HCVT_SATCFG.THRESH [39:16] -/
def HCVT_SATCFG_THRESH : Fld := ⟨16, 24, .rw, .none, false, 0x000400⟩
/-- HCVT_SATCFG.EVEN [40] -/
def HCVT_SATCFG_EVEN : Fld := ⟨40, 1, .rw, .none, false, 1⟩
/-- HCVT_SATSTAT.SAT [15:0] -/
def HCVT_SATSTAT_SAT : Fld := ⟨0, 16, .cnt, .none, true, 0⟩
/-- HCVT_SATSTAT.NANZ [31:16] -/
def HCVT_SATSTAT_NANZ : Fld := ⟨16, 16, .cnt, .none, true, 0⟩
/-- HCVT_SATSTAT.SCLAMP [47:32] -/
def HCVT_SATSTAT_SCLAMP : Fld := ⟨32, 16, .cnt, .none, true, 0⟩
/-- HCVT_SATSTAT.EVENTS [62:48] -/
def HCVT_SATSTAT_EVENTS : Fld := ⟨48, 15, .cnt, .none, true, 0⟩
/-- HCVT_SATSTAT.FIRED [63] -/
def HCVT_SATSTAT_FIRED : Fld := ⟨63, 1, .w1c, .none, false, 0⟩
/-- HCVT_WINCNT.WCOUNT [23:0] -/
def HCVT_WINCNT_WCOUNT : Fld := ⟨0, 24, .ro, .none, true, 0⟩
/-- MSA_STAT.ADDS [31:0] -/
def MSA_STAT_ADDS : Fld := ⟨0, 32, .cnt, .none, false, 0⟩
/-- MSA_STAT.FOVF [47:32] -/
def MSA_STAT_FOVF : Fld := ⟨32, 16, .cnt, .none, true, 0⟩
/-- MSA_STAT.ISAT [63:48] -/
def MSA_STAT_ISAT : Fld := ⟨48, 16, .cnt, .none, true, 0⟩
/-- MEM_GSTAT.TEMP [7:0] -/
def MEM_GSTAT_TEMP : Fld := ⟨0, 8, .ro, .none, false, 0⟩
/-- MEM_GSTAT.THROT [8] -/
def MEM_GSTAT_THROT : Fld := ⟨8, 1, .ro, .none, false, 0⟩
/-- MEM_GSTAT.FAILED [9] -/
def MEM_GSTAT_FAILED : Fld := ⟨9, 1, .ro, .none, false, 0⟩
/-- MEM_GSTAT.UESEEN [10] -/
def MEM_GSTAT_UESEEN : Fld := ⟨10, 1, .stk, .none, false, 0⟩
/-- MEM_GSTAT.CE [31:16] -/
def MEM_GSTAT_CE : Fld := ⟨16, 16, .cnt, .none, true, 0⟩
/-- MEM_GSTAT.UE [47:32] -/
def MEM_GSTAT_UE : Fld := ⟨32, 16, .cnt, .none, true, 0⟩
/-- MEM_GSTAT.CRC [63:48] -/
def MEM_GSTAT_CRC : Fld := ⟨48, 16, .cnt, .none, true, 0⟩
/-- MEM_GRET.COUNT [12:0] -/
def MEM_GRET_COUNT : Fld := ⟨0, 13, .ro, .none, false, 0⟩
/-- MEM_GRET.DEGRADED [13] -/
def MEM_GRET_DEGRADED : Fld := ⟨13, 1, .ro, .none, false, 0⟩
/-- FL_STAT.WEAR [7:0] -/
def FL_STAT_WEAR : Fld := ⟨0, 8, .ro, .none, true, 0⟩
/-- FL_STAT.RODIES [15:8] -/
def FL_STAT_RODIES : Fld := ⟨8, 8, .ro, .none, true, 0⟩
/-- FL_STAT.RELOC [16] -/
def FL_STAT_RELOC : Fld := ⟨16, 1, .ro, .none, false, 0⟩
/-- FL_STAT.CAPLOSS [17] -/
def FL_STAT_CAPLOSS : Fld := ⟨17, 1, .ro, .none, false, 0⟩
/-- FL_STAT.FTHROT [18] -/
def FL_STAT_FTHROT : Fld := ⟨18, 1, .ro, .none, false, 0⟩
/-- FL_STAT.USERGB [63:32] -/
def FL_STAT_USERGB : Fld := ⟨32, 32, .ro, .none, false, 0⟩
/-- FL_ERR.RETRY [31:0] -/
def FL_ERR_RETRY : Fld := ⟨0, 32, .cnt, .none, false, 0⟩
/-- FL_ERR.REBUILD [47:32] -/
def FL_ERR_REBUILD : Fld := ⟨32, 16, .cnt, .none, true, 0⟩
/-- FL_ERR.UE [63:48] -/
def FL_ERR_UE : Fld := ⟨48, 16, .cnt, .none, true, 0⟩
/-- SPAD_PWR0.BANKS [63:0] -/
def SPAD_PWR0_BANKS : Fld := ⟨0, 64, .rw, .none, false, 0⟩
/-- SPAD_PWR1.BANKS [63:0] -/
def SPAD_PWR1_BANKS : Fld := ⟨0, 64, .rw, .none, false, 0⟩
/-- SPAD_STAT.WAKES [15:0] -/
def SPAD_STAT_WAKES : Fld := ⟨0, 16, .cnt, .none, true, 0⟩
/-- SPAD_STAT.DOMOFF [31:16] -/
def SPAD_STAT_DOMOFF : Fld := ⟨16, 16, .cnt, .none, true, 0⟩
/-- SPAD_STAT.MBUSY [47:32] -/
def SPAD_STAT_MBUSY : Fld := ⟨32, 16, .cnt, .none, true, 0⟩
/-- SPAD_STAT.MPLAIN [63:48] -/
def SPAD_STAT_MPLAIN : Fld := ⟨48, 16, .cnt, .none, true, 0⟩
/-- FC_RANGE.BASE [23:0] -/
def FC_RANGE_BASE : Fld := ⟨0, 24, .rw, .none, false, 0⟩
/-- FC_RANGE.LIMIT [47:24] -/
def FC_RANGE_LIMIT : Fld := ⟨24, 24, .rw, .none, false, 0⟩
/-- FC_RANGE.EN [48] -/
def FC_RANGE_EN : Fld := ⟨48, 1, .rw, .none, false, 0⟩
/-- DIR_STAT.SNOOPS [31:0] -/
def DIR_STAT_SNOOPS : Fld := ⟨0, 32, .cnt, .none, false, 0⟩
/-- DIR_STAT.NOALLOC [47:32] -/
def DIR_STAT_NOALLOC : Fld := ⟨32, 16, .cnt, .none, true, 0⟩
/-- DIR_STAT.CROSS [63:48] -/
def DIR_STAT_CROSS : Fld := ⟨48, 16, .cnt, .none, true, 0⟩
/-- POOL_CFG.BASE [13:0] -/
def POOL_CFG_BASE : Fld := ⟨0, 14, .lck, .pool, false, 0⟩
/-- POOL_CFG.LOG2SZ [18:14] -/
def POOL_CFG_LOG2SZ : Fld := ⟨14, 5, .lck, .pool, false, 0⟩
/-- POOL_CFG.COUNTM1 [34:19] -/
def POOL_CFG_COUNTM1 : Fld := ⟨19, 16, .lck, .pool, false, 0⟩
/-- POOL_CFG.PART [40:35] -/
def POOL_CFG_PART : Fld := ⟨35, 6, .lck, .pool, false, 0⟩
/-- POOL_CFG.EN [41] -/
def POOL_CFG_EN : Fld := ⟨41, 1, .lck, .pt, false, 0⟩
/-- POOL_CFG.FREE [58:42] -/
def POOL_CFG_FREE : Fld := ⟨42, 17, .ro, .none, false, 0⟩
/-- POOL_ALLOC.DESC [63:0] -/
def POOL_ALLOC_DESC : Fld := ⟨0, 64, .ro, .none, false, 0⟩
/-- POOL_FREE.DESC [63:0] -/
def POOL_FREE_DESC : Fld := ⟨0, 64, .wo, .none, false, 0⟩
/-- Q_CTL.EN [0] -/
def Q_CTL_EN : Fld := ⟨0, 1, .rw, .none, false, 0⟩
/-- Q_CTL.SRESET [1] -/
def Q_CTL_SRESET : Fld := ⟨1, 1, .w1s, .none, false, 0⟩
/-- Q_STAT.RDY [0] -/
def Q_STAT_RDY : Fld := ⟨0, 1, .ro, .none, false, 0⟩
/-- Q_STAT.FATAL [1] -/
def Q_STAT_FATAL : Fld := ⟨1, 1, .stk, .none, false, 0⟩
/-- Q_STAT.RLFULL [2] -/
def Q_STAT_RLFULL : Fld := ⟨2, 1, .ro, .none, false, 0⟩
/-- Q_STAT.PLSTOP [3] -/
def Q_STAT_PLSTOP : Fld := ⟨3, 1, .ro, .none, false, 0⟩
/-- Q_STAT.LINKGEN [15:8] -/
def Q_STAT_LINKGEN : Fld := ⟨8, 8, .ro, .none, false, 0⟩
/-- Q_STAT.LINKW [20:16] -/
def Q_STAT_LINKW : Fld := ⟨16, 5, .ro, .none, false, 0⟩
/-- Q_STAT.ACTIVEQ [47:32] -/
def Q_STAT_ACTIVEQ : Fld := ⟨32, 16, .ro, .none, false, 0⟩
/-- QA_SQB.BASE [63:12] -/
def QA_SQB_BASE : Fld := ⟨12, 52, .rw, .none, false, 0⟩
/-- QA_CQB.BASE [63:12] -/
def QA_CQB_BASE : Fld := ⟨12, 52, .rw, .none, false, 0⟩
/-- QA_SIZE.SQM1 [15:0] -/
def QA_SIZE_SQM1 : Fld := ⟨0, 16, .rw, .none, false, 0x003F⟩
/-- QA_SIZE.CQM1 [31:16] -/
def QA_SIZE_CQM1 : Fld := ⟨16, 16, .rw, .none, false, 0x003F⟩
/-- QW_WIN.BASE [39:30] -/
def QW_WIN_BASE : Fld := ⟨30, 10, .rw, .none, false, 0⟩
/-- QW_WIN.PART [45:40] -/
def QW_WIN_PART : Fld := ⟨40, 6, .rw, .none, false, 0⟩
/-- QW_WIN.ALL [46] -/
def QW_WIN_ALL : Fld := ⟨46, 1, .lck, .pt, false, 0⟩
/-- MSIX_ADDR.ADDR [63:0] -/
def MSIX_ADDR_ADDR : Fld := ⟨0, 64, .rw, .none, false, 0⟩
/-- MSIX_DATA.DATA [31:0] -/
def MSIX_DATA_DATA : Fld := ⟨0, 32, .rw, .none, false, 0⟩
/-- MSIX_DATA.MASK [32] -/
def MSIX_DATA_MASK : Fld := ⟨32, 1, .rw, .none, false, 1⟩
/-- MSIX_PBA.PENDING [63:0] -/
def MSIX_PBA_PENDING : Fld := ⟨0, 64, .ro, .none, false, 0⟩
/-- CM_PSTAT.OCC [6:0] -/
def CM_PSTAT_OCC : Fld := ⟨0, 7, .ro, .none, false, 0⟩
/-- CM_PSTAT.WPAUSE [8] -/
def CM_PSTAT_WPAUSE : Fld := ⟨8, 1, .ro, .none, false, 0⟩
/-- CM_PSTAT.HIWAT [9] -/
def CM_PSTAT_HIWAT : Fld := ⟨9, 1, .w1c, .none, false, 0⟩
/-- CM_PSTAT.FULL [10] -/
def CM_PSTAT_FULL : Fld := ⟨10, 1, .w1c, .none, false, 0⟩
/-- CM_PSTAT.DLOST [11] -/
def CM_PSTAT_DLOST : Fld := ⟨11, 1, .w1c, .none, false, 0⟩
/-- CM_PSTAT.LAG [31:16] -/
def CM_PSTAT_LAG : Fld := ⟨16, 16, .ro, .none, true, 0⟩
/-- CM_PSTAT.UNDESTAGED [63:32] -/
def CM_PSTAT_UNDESTAGED : Fld := ⟨32, 32, .ro, .none, false, 0⟩
/-- CM_APPLIED.APPLIED [63:0] -/
def CM_APPLIED_APPLIED : Fld := ⟨0, 64, .ro, .none, false, 0⟩
/-- MDL_STEP.MSTEP [63:0] -/
def MDL_STEP_MSTEP : Fld := ⟨0, 64, .ro, .none, false, 0⟩
/-- MDL_STAT.TGEN [31:0] -/
def MDL_STAT_TGEN : Fld := ⟨0, 32, .ro, .none, false, 0⟩
/-- MDL_STAT.PEND [32] -/
def MDL_STAT_PEND : Fld := ⟨32, 1, .ro, .none, false, 0⟩
/-- MDL_STAT.OPEN [33] -/
def MDL_STAT_OPEN : Fld := ⟨33, 1, .ro, .none, false, 0⟩
/-- MDL_STAT.DEGR [34] -/
def MDL_STAT_DEGR : Fld := ⟨34, 1, .w1c, .none, false, 0⟩
/-- MDL_STAT.SPILL [35] -/
def MDL_STAT_SPILL : Fld := ⟨35, 1, .w1c, .none, false, 0⟩
/-- MDL_STAT.LATE [63:48] -/
def MDL_STAT_LATE : Fld := ⟨48, 16, .cnt, .none, true, 0⟩
/-- AB_ID.MODNUM [11:0] -/
def AB_ID_MODNUM : Fld := ⟨0, 12, .lck, .fab, false, 0⟩
/-- AB_ID.ASSIGNED [12] -/
def AB_ID_ASSIGNED : Fld := ⟨12, 1, .lck, .fab, false, 0⟩
/-- AB_ID.SLOT [19:16] -/
def AB_ID_SLOT : Fld := ⟨16, 4, .ro, .none, false, 0xF⟩
/-- AB_UID.UID [63:0] -/
def AB_UID_UID : Fld := ⟨0, 64, .ro, .none, false, 0⟩
/-- AB_CTL.RTO [15:0] -/
def AB_CTL_RTO : Fld := ⟨0, 16, .rw, .none, false, 0x0064⟩
/-- AB_CTL.MGTWR [16] -/
def AB_CTL_MGTWR : Fld := ⟨16, 1, .lck, .fab, false, 0⟩
/-- AB_CTL.MGR [28:17] -/
def AB_CTL_MGR : Fld := ⟨17, 12, .lck, .fab, false, 0⟩
/-- AB_PORT.EN [32] -/
def AB_PORT_EN : Fld := ⟨32, 1, .rw, .none, false, 1⟩
/-- AB_PORT.ROUTE [33] -/
def AB_PORT_ROUTE : Fld := ⟨33, 1, .rw, .none, false, 0⟩
/-- AB_PORT.PRES [34] -/
def AB_PORT_PRES : Fld := ⟨34, 1, .ro, .none, false, 0⟩
/-- AB_PORT.RATE [35] -/
def AB_PORT_RATE : Fld := ⟨35, 1, .ro, .none, false, 0⟩
/-- AB_PORT.WIDTH [38:36] -/
def AB_PORT_WIDTH : Fld := ⟨36, 3, .ro, .none, false, 0⟩
/-- AB_PORT.PEER2 [39] -/
def AB_PORT_PEER2 : Fld := ⟨39, 1, .ro, .none, false, 0⟩
/-- AB_PORT.SPARE [40] -/
def AB_PORT_SPARE : Fld := ⟨40, 1, .ro, .none, false, 0⟩
/-- AB_PORT.DOWNEV [41] -/
def AB_PORT_DOWNEV : Fld := ⟨41, 1, .w1c, .none, false, 0⟩
/-- AB_PORT.PEERMOD [55:44] -/
def AB_PORT_PEERMOD : Fld := ⟨44, 12, .ro, .none, false, 0⟩
/-- AB_PORT.PPORT [59:56] -/
def AB_PORT_PPORT : Fld := ⟨56, 4, .ro, .none, false, 0⟩
/-- AB_PORTC.REPLAY [15:0] -/
def AB_PORTC_REPLAY : Fld := ⟨0, 16, .cnt, .none, true, 0⟩
/-- AB_PORTC.RETRAIN [47:32] -/
def AB_PORTC_RETRAIN : Fld := ⟨32, 16, .cnt, .none, true, 0⟩
/-- AB_PORTC.BADMSG [63:48] -/
def AB_PORTC_BADMSG : Fld := ⟨48, 16, .cnt, .none, true, 0⟩
/-- AB_GROUP.BYTES [63:0] -/
def AB_GROUP_BYTES : Fld := ⟨0, 64, .rw, .none, false, 0⟩
/-- AB_ROUTE.PRIM [15:0] -/
def AB_ROUTE_PRIM : Fld := ⟨0, 16, .rw, .none, false, 0⟩
/-- AB_ROUTE.ALT [31:16] -/
def AB_ROUTE_ALT : Fld := ⟨16, 16, .rw, .none, false, 0⟩
/-- AB_ROUTE.PLVL [32] -/
def AB_ROUTE_PLVL : Fld := ⟨32, 1, .rw, .none, false, 0⟩
/-- AB_ROUTE.ALVL [33] -/
def AB_ROUTE_ALVL : Fld := ⟨33, 1, .rw, .none, false, 0⟩
/-- AB_ROUTE.VALID [34] -/
def AB_ROUTE_VALID : Fld := ⟨34, 1, .rw, .none, false, 0⟩
/-- AB_ROUTE.ONALT [35] -/
def AB_ROUTE_ONALT : Fld := ⟨35, 1, .w1c, .none, false, 0⟩
/-- PT_LOCK.OPEN [0] -/
def PT_LOCK_OPEN : Fld := ⟨0, 1, .w1s, .none, false, 0⟩
/-- PT_LOCK.CLOSE [1] -/
def PT_LOCK_CLOSE : Fld := ⟨1, 1, .w1s, .none, false, 0⟩
/-- PT_LOCK.HOLDER [27:16] -/
def PT_LOCK_HOLDER : Fld := ⟨16, 12, .ro, .none, false, 0⟩
/-- PT_LOCK.CLOSES [63:32] -/
def PT_LOCK_CLOSES : Fld := ⟨32, 32, .ro, .none, false, 0⟩
/-- PT_CFG.STATE [1:0] -/
def PT_CFG_STATE : Fld := ⟨0, 2, .ro, .none, false, 0⟩
/-- PT_CFG.EN [2] -/
def PT_CFG_EN : Fld := ⟨2, 1, .lck, .pt, false, 0⟩
/-- PT_CFG.QUADS [14:8] -/
def PT_CFG_QUADS : Fld := ⟨8, 7, .ro, .none, false, 0⟩
/-- PT_CFG.DLOGQ [24:16] -/
def PT_CFG_DLOGQ : Fld := ⟨16, 9, .lck, .pt, false, 1⟩
/-- PT_CFG.FLASHGB [63:32] -/
def PT_CFG_FLASHGB : Fld := ⟨32, 32, .lck, .pt, false, 0⟩
/-- PT_STAT.FLOORMISS [0] -/
def PT_STAT_FLOORMISS : Fld := ⟨0, 1, .w1c, .none, false, 0⟩
/-- PT_STAT.QCUT [1] -/
def PT_STAT_QCUT : Fld := ⟨1, 1, .w1c, .none, false, 0⟩
/-- PT_STAT.REFUSED [2] -/
def PT_STAT_REFUSED : Fld := ⟨2, 1, .w1c, .none, false, 0⟩
/-- PT_STAT.MISSES [63:32] -/
def PT_STAT_MISSES : Fld := ⟨32, 32, .cnt, .none, true, 0⟩
/-- PT_FLOOR.DFLOOR [8:0] -/
def PT_FLOOR_DFLOOR : Fld := ⟨0, 9, .lck, .pt, false, 0⟩
/-- PT_FLOOR.PFLOOR [21:16] -/
def PT_FLOOR_PFLOOR : Fld := ⟨16, 6, .lck, .pt, false, 0⟩
/-- PT_PEER.MODLO [11:0] -/
def PT_PEER_MODLO : Fld := ⟨0, 12, .lck, .pt, false, 0⟩
/-- PT_PEER.MODHI [27:16] -/
def PT_PEER_MODHI : Fld := ⟨16, 12, .lck, .pt, false, 0⟩
/-- PT_PEER.RPART [37:32] -/
def PT_PEER_RPART : Fld := ⟨32, 6, .lck, .pt, false, 0⟩
/-- PT_PEER.ANY [38] -/
def PT_PEER_ANY : Fld := ⟨38, 1, .lck, .pt, false, 0⟩
/-- PT_PEER.VALID [39] -/
def PT_PEER_VALID : Fld := ⟨39, 1, .lck, .pt, false, 0⟩
/-- PT_OWNQ.OWNERS [63:0] -/
def PT_OWNQ_OWNERS : Fld := ⟨0, 64, .lck, .pt, false, 0⟩
/-- PT_OWNB.OWNERS [63:0] -/
def PT_OWNB_OWNERS : Fld := ⟨0, 64, .lck, .pt, false, 0⟩
/-- PT_OWNH.OWNERS [63:0] -/
def PT_OWNH_OWNERS : Fld := ⟨0, 64, .lck, .pt, false, 0⟩
/-- PT_OWNG.OWNERS [63:0] -/
def PT_OWNG_OWNERS : Fld := ⟨0, 64, .lck, .pt, false, 0⟩
/-- PT_OWNS.OWNERS [63:0] -/
def PT_OWNS_OWNERS : Fld := ⟨0, 64, .lck, .pt, false, 0⟩
/-- TN_CFG.EN [0] -/
def TN_CFG_EN : Fld := ⟨0, 1, .lck, .pt, false, 0⟩
/-- TN_CFG.KEYV [1] -/
def TN_CFG_KEYV : Fld := ⟨1, 1, .ro, .none, false, 0⟩
/-- TN_CFG.ERASING [2] -/
def TN_CFG_ERASING : Fld := ⟨2, 1, .ro, .none, false, 0⟩
/-- TN_CFG.PART [13:8] -/
def TN_CFG_PART : Fld := ⟨8, 6, .lck, .tenant, false, 0⟩
/-- TN_CFG.QPS [28:16] -/
def TN_CFG_QPS : Fld := ⟨16, 13, .ro, .none, false, 0⟩
/-- TN_TIER.QUOTA [31:0] -/
def TN_TIER_QUOTA : Fld := ⟨0, 32, .rw, .none, false, 0⟩
/-- TN_TIER.USE [63:32] -/
def TN_TIER_USE : Fld := ⟨32, 32, .ro, .none, false, 0⟩
/-- LC_STAT.STATE [2:0] -/
def LC_STAT_STATE : Fld := ⟨0, 3, .ro, .none, false, 2⟩
/-- LC_STAT.PENDING [3] -/
def LC_STAT_PENDING : Fld := ⟨3, 1, .ro, .none, false, 0⟩
/-- LC_STAT.KEYEPOCH [63:32] -/
def LC_STAT_KEYEPOCH : Fld := ⟨32, 32, .ro, .none, false, 1⟩
/-- PM_STAT.PIN [15:0] -/
def PM_STAT_PIN : Fld := ⟨0, 16, .ro, .none, false, 0⟩
/-- PM_STAT.DUTY [20:16] -/
def PM_STAT_DUTY : Fld := ⟨16, 5, .ro, .none, false, 16⟩
/-- PM_STAT.HOLDLOW [24] -/
def PM_STAT_HOLDLOW : Fld := ⟨24, 1, .ro, .none, false, 0⟩
/-- PM_STAT.CAPPED [25] -/
def PM_STAT_CAPPED : Fld := ⟨25, 1, .w1c, .none, false, 0⟩
/-- PM_STAT.CRIT [26] -/
def PM_STAT_CRIT : Fld := ⟨26, 1, .w1c, .none, false, 0⟩
/-- PM_STAT.NOAUX [27] -/
def PM_STAT_NOAUX : Fld := ⟨27, 1, .ro, .none, false, 0⟩
/-- PM_STAT.HOLDJ [47:32] -/
def PM_STAT_HOLDJ : Fld := ⟨32, 16, .ro, .none, false, 0⟩
/-- PM_STAT.CAPTIME [63:48] -/
def PM_STAT_CAPTIME : Fld := ⟨48, 16, .cnt, .none, true, 0⟩
/-- PM_CTL.LIMIT [11:0] -/
def PM_CTL_LIMIT : Fld := ⟨0, 12, .lck, .pt, false, 0xE10⟩
/-- PM_CTL.IDLE [31:16] -/
def PM_CTL_IDLE : Fld := ⟨16, 16, .rw, .none, false, 0x0032⟩
/-- RST_REQ.LEVEL [2:0] -/
def RST_REQ_LEVEL : Fld := ⟨0, 3, .rw, .none, false, 0⟩
/-- RST_REQ.QUAD [14:8] -/
def RST_REQ_QUAD : Fld := ⟨8, 7, .rw, .none, false, 0⟩
/-- RST_REQ.UNIT [19:16] -/
def RST_REQ_UNIT : Fld := ⟨16, 4, .rw, .none, false, 0⟩
/-- RST_REQ.PART [29:24] -/
def RST_REQ_PART : Fld := ⟨24, 6, .rw, .none, false, 0⟩
/-- RST_REQ.GO [32] -/
def RST_REQ_GO : Fld := ⟨32, 1, .w1s, .none, false, 0⟩
/-- RST_REQ.BUSY [33] -/
def RST_REQ_BUSY : Fld := ⟨33, 1, .ro, .none, false, 0⟩
/-- SVC_TIME.TICKS [63:0] -/
def SVC_TIME_TICKS : Fld := ⟨0, 64, .ro, .none, false, 0⟩
/-- SVC_SYNC.PORT [3:0] -/
def SVC_SYNC_PORT : Fld := ⟨0, 4, .rw, .none, false, 0⟩
/-- SVC_SYNC.MASTER [4] -/
def SVC_SYNC_MASTER : Fld := ⟨4, 1, .lck, .fab, false, 0⟩
/-- SVC_SYNC.LOCKED [5] -/
def SVC_SYNC_LOCKED : Fld := ⟨5, 1, .ro, .none, false, 0⟩
/-- SVC_SYNC.SYNCLOST [6] -/
def SVC_SYNC_SYNCLOST : Fld := ⟨6, 1, .w1c, .none, false, 0⟩
/-- SVC_SYNC.CONFLICT [7] -/
def SVC_SYNC_CONFLICT : Fld := ⟨7, 1, .w1c, .none, false, 0⟩
/-- SVC_SYNC.HOPS [11:8] -/
def SVC_SYNC_HOPS : Fld := ⟨8, 4, .ro, .none, false, 0xF⟩
/-- SVC_SYNC.OFFSET [31:16] -/
def SVC_SYNC_OFFSET : Fld := ⟨16, 16, .ro, .none, false, 0⟩
/-- PWR_QUAD.REQ [1:0] -/
def PWR_QUAD_REQ : Fld := ⟨0, 2, .rw, .none, false, 0⟩
/-- PWR_QUAD.STATE [3:2] -/
def PWR_QUAD_STATE : Fld := ⟨2, 2, .ro, .none, false, 0⟩
/-- PWR_QUAD.WAITTOK [4] -/
def PWR_QUAD_WAITTOK : Fld := ⟨4, 1, .ro, .none, false, 0⟩
/-- PWR_QUAD.WAKES [63:32] -/
def PWR_QUAD_WAKES : Fld := ⟨32, 32, .cnt, .none, false, 0⟩
/-- FLT_HEALTH.LEVEL [1:0] -/
def FLT_HEALTH_LEVEL : Fld := ⟨0, 2, .ro, .none, false, 0⟩
/-- FLT_HEALTH.CHANGED [2] -/
def FLT_HEALTH_CHANGED : Fld := ⟨2, 1, .w1c, .none, false, 0⟩
/-- FLT_HEALTH.QRET [14:8] -/
def FLT_HEALTH_QRET : Fld := ⟨8, 7, .ro, .none, false, 0⟩
/-- FLT_HEALTH.SPUSED [20:16] -/
def FLT_HEALTH_SPUSED : Fld := ⟨16, 5, .ro, .none, false, 0⟩
/-- FLT_HEALTH.HUBS [27:24] -/
def FLT_HEALTH_HUBS : Fld := ⟨24, 4, .ro, .none, false, 0xF⟩
/-- FLT_HEALTH.SKOUT [39:32] -/
def FLT_HEALTH_SKOUT : Fld := ⟨32, 8, .ro, .none, false, 0⟩
/-- FLT_HEALTH.HSOUT [51:40] -/
def FLT_HEALTH_HSOUT : Fld := ⟨40, 12, .ro, .none, false, 0⟩

/-- The fields of each register; every bit outside them is reserved and reads 0. -/
def regFields : Reg → List Fld
  | .glbId => [GLB_ID_PRODUCT, GLB_ID_ORDER, GLB_ID_REVMAJ, GLB_ID_REVMIN, GLB_ID_RAWTB]
  | .glbCtl => [GLB_CTL_GVEC, GLB_CTL_GIEN]
  | .glbStat => [GLB_STAT_HEALTH, GLB_STAT_FATAL, GLB_STAT_LCSTATE, GLB_STAT_BOOTC, GLB_STAT_WARM, GLB_STAT_BADREG]
  | .glbInt => [GLB_INT_HEALTH, GLB_INT_FATAL, GLB_INT_PWR, GLB_INT_CAP, GLB_INT_LINK, GLB_INT_MASK]
  | .fabLock => [FAB_LOCK_OPEN, FAB_LOCK_CLOSE, FAB_LOCK_HOLDER, FAB_LOCK_CLOSES]
  | .evqCfg _ => [EVQ_CFG_VEC, EVQ_CFG_EN, EVQ_CFG_THRESH, EVQ_CFG_ITIME]
  | .evqLsn _ => [EVQ_LSN_LSN]
  | .evqAck _ => [EVQ_ACK_ACK]
  | .evqStat _ => [EVQ_STAT_PEND, EVQ_STAT_OVWR]
  | .prtCtl => [PRT_CTL_EN, PRT_CTL_ALLOW]
  | .prtSeed => [PRT_SEED_SEED]
  | .prtSlot _ => [PRT_SLOT_TARGET, PRT_SLOT_KIND, PRT_SLOT_DELAY, PRT_SLOT_DUTY, PRT_SLOT_HITS]
  | .cvtSatcfg _ => [CVT_SATCFG_WINDOW, CVT_SATCFG_THRESH, CVT_SATCFG_EVEN]
  | .cvtSatstat _ => [CVT_SATSTAT_SAT, CVT_SATSTAT_NANZ, CVT_SATSTAT_SCLAMP, CVT_SATSTAT_EVENTS, CVT_SATSTAT_FIRED]
  | .cvtWincnt _ => [CVT_WINCNT_WCOUNT]
  | .meStat _ => [ME_STAT_ACTIVE, ME_STAT_OPHOLD, ME_STAT_THRRDY, ME_STAT_SUBST, ME_STAT_FAULT, ME_STAT_ACCCE]
  | .meSrctx0 _ => [ME_SRCTX0_STEP]
  | .meSrctx8 _ => [ME_SRCTX8_MODEL, ME_SRCTX8_VALID]
  | .meSpare _ => [ME_SPARE_AVAIL, ME_SPARE_INUSE, ME_SPARE_QUAD, ME_SPARE_ENGINE, ME_SPARE_SPFAIL, ME_SPARE_TESTGO]
  | .skCtl _ => [SK_CTL_TIDE_MIN, SK_CTL_TIDE_EN, SK_CTL_NBU_EN, SK_CTL_TIDE_GO]
  | .skRegion _ => [SK_REGION_PLAIN, SK_REGION_PLAIN47, SK_REGION_CONV]
  | .skTstat _ => [SK_TSTAT_TEMP, SK_TSTAT_LIMIT, SK_TSTAT_REFX, SK_TSTAT_UTHROT, SK_TSTAT_HTHROT, SK_TSTAT_T85, SK_TSTAT_T95, SK_TSTAT_TLIM, SK_TSTAT_THRTIME]
  | .skTide _ => [SK_TIDE_PASSES, SK_TIDE_MISMATCH, SK_TIDE_AGE]
  | .skErr _ => [SK_ERR_REFUSED, SK_ERR_PARITY, SK_ERR_PARSEEN, SK_ERR_LASTCODE]
  | .xuStat _ => [XU_STAT_SELECTS, XU_STAT_NANKEY, XU_STAT_FOLDS, XU_STAT_FALLBACKS, XU_STAT_PARSEEN]
  | .xuBound _ => [XU_BOUND_D, XU_BOUND_ACTIVE, XU_BOUND_DVALID, XU_BOUND_RETAINED]
  | .schCtl => [SCH_CTL_WDOG]
  | .schLoad => [SCH_LOAD_ADDR]
  | .schBind => [SCH_BIND_ADDR]
  | .schLdctl => [SCH_LDCTL_GO, SCH_LDCTL_UNLOAD, SCH_LDCTL_PART, SCH_LDCTL_EPOCH, SCH_LDCTL_INST]
  | .schLdstat => [SCH_LDSTAT_BUSY, SCH_LDSTAT_DONE, SCH_LDSTAT_FAIL, SCH_LDSTAT_ERR, SCH_LDSTAT_INST]
  | .schInst _ => [SCH_INST_EPOCH, SCH_INST_INFLIGHT, SCH_INST_RUN, SCH_INST_ABORTING, SCH_INST_ABORTS]
  | .schQuad _ => [SCH_QUAD_EPOCH, SCH_QUAD_INST, SCH_QUAD_STALE]
  | .semVal _ => [SEM_VAL_SEM0, SEM_VAL_SEM1, SEM_VAL_SEM2, SEM_VAL_SEM3]
  | .fryStat _ => [FRY_STAT_PIECES, FRY_STAT_DRY, FRY_STAT_OUTST, FRY_STAT_FAULT, FRY_STAT_LATE, FRY_STAT_PARSEEN]
  | .fryCred _ => [FRY_CRED_RDCRED, FRY_CRED_WRCRED, FRY_CRED_REMCRED, FRY_CRED_SWEEP]
  | .frySplit _ => [FRY_SPLIT_READ, FRY_SPLIT_WRITE, FRY_SPLIT_REMOTE]
  | .frySwait _ => [FRY_SWAIT_CAUSE, FRY_SWAIT_SINCE]
  | .memHstat _ => [MEM_HSTAT_TEMP, MEM_HSTAT_LIMIT, MEM_HSTAT_REFX, MEM_HSTAT_HTHROT, MEM_HSTAT_T85, MEM_HSTAT_T95, MEM_HSTAT_TLIM, MEM_HSTAT_DEGRADED, MEM_HSTAT_HALFW, MEM_HSTAT_CHFAIL]
  | .memHerr _ => [MEM_HERR_CE, MEM_HERR_UE, MEM_HERR_RETIRED, MEM_HERR_UESEEN]
  | .hcvtSatcfg _ => [HCVT_SATCFG_WINDOW, HCVT_SATCFG_THRESH, HCVT_SATCFG_EVEN]
  | .hcvtSatstat _ => [HCVT_SATSTAT_SAT, HCVT_SATSTAT_NANZ, HCVT_SATSTAT_SCLAMP, HCVT_SATSTAT_EVENTS, HCVT_SATSTAT_FIRED]
  | .hcvtWincnt _ => [HCVT_WINCNT_WCOUNT]
  | .msaStat _ => [MSA_STAT_ADDS, MSA_STAT_FOVF, MSA_STAT_ISAT]
  | .memGstat _ => [MEM_GSTAT_TEMP, MEM_GSTAT_THROT, MEM_GSTAT_FAILED, MEM_GSTAT_UESEEN, MEM_GSTAT_CE, MEM_GSTAT_UE, MEM_GSTAT_CRC]
  | .memGret _ => [MEM_GRET_COUNT, MEM_GRET_DEGRADED]
  | .flStat => [FL_STAT_WEAR, FL_STAT_RODIES, FL_STAT_RELOC, FL_STAT_CAPLOSS, FL_STAT_FTHROT, FL_STAT_USERGB]
  | .flErr => [FL_ERR_RETRY, FL_ERR_REBUILD, FL_ERR_UE]
  | .spadPwr0 _ => [SPAD_PWR0_BANKS]
  | .spadPwr1 _ => [SPAD_PWR1_BANKS]
  | .spadStat _ => [SPAD_STAT_WAKES, SPAD_STAT_DOMOFF, SPAD_STAT_MBUSY, SPAD_STAT_MPLAIN]
  | .fcRange _ => [FC_RANGE_BASE, FC_RANGE_LIMIT, FC_RANGE_EN]
  | .dirStat _ => [DIR_STAT_SNOOPS, DIR_STAT_NOALLOC, DIR_STAT_CROSS]
  | .poolCfg _ => [POOL_CFG_BASE, POOL_CFG_LOG2SZ, POOL_CFG_COUNTM1, POOL_CFG_PART, POOL_CFG_EN, POOL_CFG_FREE]
  | .poolAlloc _ => [POOL_ALLOC_DESC]
  | .poolFree _ => [POOL_FREE_DESC]
  | .qCtl => [Q_CTL_EN, Q_CTL_SRESET]
  | .qStat => [Q_STAT_RDY, Q_STAT_FATAL, Q_STAT_RLFULL, Q_STAT_PLSTOP, Q_STAT_LINKGEN, Q_STAT_LINKW, Q_STAT_ACTIVEQ]
  | .qaSqb => [QA_SQB_BASE]
  | .qaCqb => [QA_CQB_BASE]
  | .qaSize => [QA_SIZE_SQM1, QA_SIZE_CQM1]
  | .qwWin => [QW_WIN_BASE, QW_WIN_PART, QW_WIN_ALL]
  | .msixAddr _ => [MSIX_ADDR_ADDR]
  | .msixData _ => [MSIX_DATA_DATA, MSIX_DATA_MASK]
  | .msixPba _ => [MSIX_PBA_PENDING]
  | .cmPstat _ => [CM_PSTAT_OCC, CM_PSTAT_WPAUSE, CM_PSTAT_HIWAT, CM_PSTAT_FULL, CM_PSTAT_DLOST, CM_PSTAT_LAG, CM_PSTAT_UNDESTAGED]
  | .cmApplied _ => [CM_APPLIED_APPLIED]
  | .mdlStep _ => [MDL_STEP_MSTEP]
  | .mdlStat _ => [MDL_STAT_TGEN, MDL_STAT_PEND, MDL_STAT_OPEN, MDL_STAT_DEGR, MDL_STAT_SPILL, MDL_STAT_LATE]
  | .abId => [AB_ID_MODNUM, AB_ID_ASSIGNED, AB_ID_SLOT]
  | .abUid => [AB_UID_UID]
  | .abCtl => [AB_CTL_RTO, AB_CTL_MGTWR, AB_CTL_MGR]
  | .abPort _ => [AB_PORT_EN, AB_PORT_ROUTE, AB_PORT_PRES, AB_PORT_RATE, AB_PORT_WIDTH, AB_PORT_PEER2, AB_PORT_SPARE, AB_PORT_DOWNEV, AB_PORT_PEERMOD, AB_PORT_PPORT]
  | .abPortc _ => [AB_PORTC_REPLAY, AB_PORTC_RETRAIN, AB_PORTC_BADMSG]
  | .abGroup _ => [AB_GROUP_BYTES]
  | .abRoute _ => [AB_ROUTE_PRIM, AB_ROUTE_ALT, AB_ROUTE_PLVL, AB_ROUTE_ALVL, AB_ROUTE_VALID, AB_ROUTE_ONALT]
  | .ptLock => [PT_LOCK_OPEN, PT_LOCK_CLOSE, PT_LOCK_HOLDER, PT_LOCK_CLOSES]
  | .ptCfg _ => [PT_CFG_STATE, PT_CFG_EN, PT_CFG_QUADS, PT_CFG_DLOGQ, PT_CFG_FLASHGB]
  | .ptStat _ => [PT_STAT_FLOORMISS, PT_STAT_QCUT, PT_STAT_REFUSED, PT_STAT_MISSES]
  | .ptFloor _ => [PT_FLOOR_DFLOOR, PT_FLOOR_PFLOOR]
  | .ptPeer _ => [PT_PEER_MODLO, PT_PEER_MODHI, PT_PEER_RPART, PT_PEER_ANY, PT_PEER_VALID]
  | .ptOwnQ _ => [PT_OWNQ_OWNERS]
  | .ptOwnB _ => [PT_OWNB_OWNERS]
  | .ptOwnH _ => [PT_OWNH_OWNERS]
  | .ptOwnG _ => [PT_OWNG_OWNERS]
  | .ptOwnS _ => [PT_OWNS_OWNERS]
  | .tnCfg _ => [TN_CFG_EN, TN_CFG_KEYV, TN_CFG_ERASING, TN_CFG_PART, TN_CFG_QPS]
  | .tnTier _ => [TN_TIER_QUOTA, TN_TIER_USE]
  | .lcStat => [LC_STAT_STATE, LC_STAT_PENDING, LC_STAT_KEYEPOCH]
  | .pmStat => [PM_STAT_PIN, PM_STAT_DUTY, PM_STAT_HOLDLOW, PM_STAT_CAPPED, PM_STAT_CRIT, PM_STAT_NOAUX, PM_STAT_HOLDJ, PM_STAT_CAPTIME]
  | .pmCtl => [PM_CTL_LIMIT, PM_CTL_IDLE]
  | .rstReq => [RST_REQ_LEVEL, RST_REQ_QUAD, RST_REQ_UNIT, RST_REQ_PART, RST_REQ_GO, RST_REQ_BUSY]
  | .svcTime => [SVC_TIME_TICKS]
  | .svcSync => [SVC_SYNC_PORT, SVC_SYNC_MASTER, SVC_SYNC_LOCKED, SVC_SYNC_SYNCLOST, SVC_SYNC_CONFLICT, SVC_SYNC_HOPS, SVC_SYNC_OFFSET]
  | .pwrQuad _ => [PWR_QUAD_REQ, PWR_QUAD_STATE, PWR_QUAD_WAITTOK, PWR_QUAD_WAKES]
  | .fltHealth => [FLT_HEALTH_LEVEL, FLT_HEALTH_CHANGED, FLT_HEALTH_QRET, FLT_HEALTH_SPUSED, FLT_HEALTH_HUBS, FLT_HEALTH_SKOUT, FLT_HEALTH_HSOUT]

/-- The BAR0 offset of each register (18 Table 18-4). -/
def regOff : Reg → Nat
  | .glbId => 0x0000
  | .glbCtl => 0x0010
  | .glbStat => 0x0018
  | .glbInt => 0x0020
  | .fabLock => 0x0028
  | .evqCfg l => 0x1000 + 0x20 * l
  | .evqLsn l => 0x1008 + 0x20 * l
  | .evqAck l => 0x1010 + 0x20 * l
  | .evqStat l => 0x1018 + 0x20 * l
  | .prtCtl => 0x2000
  | .prtSeed => 0x2008
  | .prtSlot n => 0x2100 + 0x08 * n
  | .cvtSatcfg q => 0x10400 + 0x40 * q
  | .cvtSatstat q => 0x10408 + 0x40 * q
  | .cvtWincnt q => 0x10410 + 0x40 * q
  | .meStat k => 0x12000 + 0x10 * k
  | .meSrctx0 k => 0x14000 + 0x10 * k
  | .meSrctx8 k => 0x14008 + 0x10 * k
  | .meSpare d => 0x19000 + 0x08 * d
  | .skCtl n => 0x20000 + 0x100 * n
  | .skRegion n => 0x20008 + 0x100 * n
  | .skTstat n => 0x20010 + 0x100 * n
  | .skTide n => 0x20018 + 0x100 * n
  | .skErr n => 0x20020 + 0x100 * n
  | .xuStat q => 0x30000 + 0x10 * q
  | .xuBound q => 0x30008 + 0x10 * q
  | .schCtl => 0x40000
  | .schLoad => 0x40008
  | .schBind => 0x40010
  | .schLdctl => 0x40018
  | .schLdstat => 0x40020
  | .schInst i => 0x40100 + 0x10 * i
  | .schQuad q => 0x40800 + 0x08 * q
  | .semVal k => 0x48000 + 0x08 * k
  | .fryStat n => 0x60000 + 0x10 * n
  | .fryCred n => 0x60008 + 0x10 * n
  | .frySplit p => 0x61800 + 0x08 * p
  | .frySwait k => 0x62000 + 0x08 * k
  | .memHstat n => 0x70000 + 0x40 * n
  | .memHerr n => 0x70008 + 0x40 * n
  | .hcvtSatcfg h => 0x72400 + 0x40 * h
  | .hcvtSatstat h => 0x72408 + 0x40 * h
  | .hcvtWincnt h => 0x72410 + 0x40 * h
  | .msaStat h => 0x73000 + 0x10 * h
  | .memGstat d => 0x80000 + 0x10 * d
  | .memGret h => 0x80400 + 0x08 * h
  | .flStat => 0x90000
  | .flErr => 0x90008
  | .spadPwr0 d => 0xA0000 + 0x20 * d
  | .spadPwr1 d => 0xA0008 + 0x20 * d
  | .spadStat d => 0xA0010 + 0x20 * d
  | .fcRange k => 0xA1000 + 0x08 * k
  | .dirStat h => 0xA1200 + 0x08 * h
  | .poolCfg k => 0xA2000 + 0x08 * k
  | .poolAlloc k => 0xA4000 + 0x10 * k
  | .poolFree k => 0xA4008 + 0x10 * k
  | .qCtl => 0xB0000
  | .qStat => 0xB0008
  | .qaSqb => 0xB0010
  | .qaCqb => 0xB0018
  | .qaSize => 0xB0020
  | .qwWin => 0xB0028
  | .msixAddr v => 0xC0000 + 0x10 * v
  | .msixData v => 0xC0008 + 0x10 * v
  | .msixPba k => 0xC8000 + 0x08 * k
  | .cmPstat p => 0xD0800 + 0x10 * p
  | .cmApplied p => 0xD0808 + 0x10 * p
  | .mdlStep m => 0xD1000 + 0x10 * m
  | .mdlStat m => 0xD1008 + 0x10 * m
  | .abId => 0xE0000
  | .abUid => 0xE0008
  | .abCtl => 0xE0010
  | .abPort p => 0xE0100 + 0x10 * p
  | .abPortc p => 0xE0108 + 0x10 * p
  | .abGroup k => 0xE8000 + 0x08 * k
  | .abRoute m => 0xF0000 + 0x08 * m
  | .ptLock => 0x100000
  | .ptCfg p => 0x100100 + 0x10 * p
  | .ptStat p => 0x100108 + 0x10 * p
  | .ptFloor k => 0x100800 + 0x08 * k
  | .ptPeer k => 0x101000 + 0x08 * k
  | .ptOwnQ j => 0x102000 + 0x08 * j
  | .ptOwnB j => 0x102100 + 0x08 * j
  | .ptOwnH j => 0x102600 + 0x08 * j
  | .ptOwnG j => 0x102800 + 0x08 * j
  | .ptOwnS j => 0x103000 + 0x08 * j
  | .tnCfg t => 0x110000 + 0x40 * t
  | .tnTier k => 0x110008 + 0x40 * (k / 4) + 0x08 * (k % 4)
  | .lcStat => 0x120000
  | .pmStat => 0x130000
  | .pmCtl => 0x130008
  | .rstReq => 0x130010
  | .svcTime => 0x130020
  | .svcSync => 0x130028
  | .pwrQuad q => 0x130100 + 0x08 * q
  | .fltHealth => 0x130400

/-- How many copies of a register there are. -/
def regCount : Reg → Nat
  | .glbId => 1
  | .glbCtl => 1
  | .glbStat => 1
  | .glbInt => 1
  | .fabLock => 1
  | .evqCfg _ => 65
  | .evqLsn _ => 65
  | .evqAck _ => 65
  | .evqStat _ => 65
  | .prtCtl => 1
  | .prtSeed => 1
  | .prtSlot _ => 16
  | .cvtSatcfg _ => 80
  | .cvtSatstat _ => 80
  | .cvtWincnt _ => 80
  | .meStat _ => 320
  | .meSrctx0 _ => 1280
  | .meSrctx8 _ => 1280
  | .meSpare _ => 20
  | .skCtl _ => 8
  | .skRegion _ => 8
  | .skTstat _ => 8
  | .skTide _ => 8
  | .skErr _ => 8
  | .xuStat _ => 80
  | .xuBound _ => 80
  | .schCtl => 1
  | .schLoad => 1
  | .schBind => 1
  | .schLdctl => 1
  | .schLdstat => 1
  | .schInst _ => 80
  | .schQuad _ => 80
  | .semVal _ => 5120
  | .fryStat _ => 320
  | .fryCred _ => 320
  | .frySplit _ => 64
  | .frySwait _ => 5120
  | .memHstat _ => 12
  | .memHerr _ => 12
  | .hcvtSatcfg _ => 4
  | .hcvtSatstat _ => 4
  | .hcvtWincnt _ => 4
  | .msaStat _ => 4
  | .memGstat _ => 48
  | .memGret _ => 4
  | .flStat => 1
  | .flErr => 1
  | .spadPwr0 _ => 20
  | .spadPwr1 _ => 20
  | .spadStat _ => 20
  | .fcRange _ => 64
  | .dirStat _ => 4
  | .poolCfg _ => 320
  | .poolAlloc _ => 320
  | .poolFree _ => 320
  | .qCtl => 1
  | .qStat => 1
  | .qaSqb => 1
  | .qaCqb => 1
  | .qaSize => 1
  | .qwWin => 1
  | .msixAddr _ => 2048
  | .msixData _ => 2048
  | .msixPba _ => 32
  | .cmPstat _ => 64
  | .cmApplied _ => 64
  | .mdlStep _ => 64
  | .mdlStat _ => 64
  | .abId => 1
  | .abUid => 1
  | .abCtl => 1
  | .abPort _ => 16
  | .abPortc _ => 16
  | .abGroup _ => 512
  | .abRoute _ => 4096
  | .ptLock => 1
  | .ptCfg _ => 64
  | .ptStat _ => 64
  | .ptFloor _ => 256
  | .ptPeer _ => 512
  | .ptOwnQ _ => 10
  | .ptOwnB _ => 160
  | .ptOwnH _ => 54
  | .ptOwnG _ => 18
  | .ptOwnS _ => 512
  | .tnCfg _ => 1024
  | .tnTier _ => 4096
  | .lcStat => 1
  | .pmStat => 1
  | .pmCtl => 1
  | .rstReq => 1
  | .svcTime => 1
  | .svcSync => 1
  | .pwrQuad _ => 80
  | .fltHealth => 1

/-- The index of a register among its copies. -/
def regIdx : Reg → Nat
  | .glbId => 0
  | .glbCtl => 0
  | .glbStat => 0
  | .glbInt => 0
  | .fabLock => 0
  | .evqCfg l => l
  | .evqLsn l => l
  | .evqAck l => l
  | .evqStat l => l
  | .prtCtl => 0
  | .prtSeed => 0
  | .prtSlot n => n
  | .cvtSatcfg q => q
  | .cvtSatstat q => q
  | .cvtWincnt q => q
  | .meStat k => k
  | .meSrctx0 k => k
  | .meSrctx8 k => k
  | .meSpare d => d
  | .skCtl n => n
  | .skRegion n => n
  | .skTstat n => n
  | .skTide n => n
  | .skErr n => n
  | .xuStat q => q
  | .xuBound q => q
  | .schCtl => 0
  | .schLoad => 0
  | .schBind => 0
  | .schLdctl => 0
  | .schLdstat => 0
  | .schInst i => i
  | .schQuad q => q
  | .semVal k => k
  | .fryStat n => n
  | .fryCred n => n
  | .frySplit p => p
  | .frySwait k => k
  | .memHstat n => n
  | .memHerr n => n
  | .hcvtSatcfg h => h
  | .hcvtSatstat h => h
  | .hcvtWincnt h => h
  | .msaStat h => h
  | .memGstat d => d
  | .memGret h => h
  | .flStat => 0
  | .flErr => 0
  | .spadPwr0 d => d
  | .spadPwr1 d => d
  | .spadStat d => d
  | .fcRange k => k
  | .dirStat h => h
  | .poolCfg k => k
  | .poolAlloc k => k
  | .poolFree k => k
  | .qCtl => 0
  | .qStat => 0
  | .qaSqb => 0
  | .qaCqb => 0
  | .qaSize => 0
  | .qwWin => 0
  | .msixAddr v => v
  | .msixData v => v
  | .msixPba k => k
  | .cmPstat p => p
  | .cmApplied p => p
  | .mdlStep m => m
  | .mdlStat m => m
  | .abId => 0
  | .abUid => 0
  | .abCtl => 0
  | .abPort p => p
  | .abPortc p => p
  | .abGroup k => k
  | .abRoute m => m
  | .ptLock => 0
  | .ptCfg p => p
  | .ptStat p => p
  | .ptFloor k => k
  | .ptPeer k => k
  | .ptOwnQ j => j
  | .ptOwnB j => j
  | .ptOwnH j => j
  | .ptOwnG j => j
  | .ptOwnS j => j
  | .tnCfg t => t
  | .tnTier k => k
  | .lcStat => 0
  | .pmStat => 0
  | .pmCtl => 0
  | .rstReq => 0
  | .svcTime => 0
  | .svcSync => 0
  | .pwrQuad q => q
  | .fltHealth => 0

/-- Does the register exist on this module? -/
def regValid (r : Reg) : Bool := regIdx r < regCount r

/-- The index of `off` in an array of `n` registers at `base`, `stride` apart. -/
def arrIdx (base stride n off : Nat) : Option Nat :=
  if base ≤ off ∧ (off - base) % stride = 0 ∧ (off - base) / stride < n then some ((off - base) / stride) else none

/-- The arrays of registers: base offset, stride, count and constructor. TN_TIER's four words lie between the TN_CFG
of one tenant and the next and are found by `regAt` itself. -/
def regArrays : List (Nat × Nat × Nat × (Nat → Reg)) := [
  (0x0000, 8, 1, fun _ => .glbId),
  (0x0010, 8, 1, fun _ => .glbCtl),
  (0x0018, 8, 1, fun _ => .glbStat),
  (0x0020, 8, 1, fun _ => .glbInt),
  (0x0028, 8, 1, fun _ => .fabLock),
  (0x1000, 0x20, 65, .evqCfg),
  (0x1008, 0x20, 65, .evqLsn),
  (0x1010, 0x20, 65, .evqAck),
  (0x1018, 0x20, 65, .evqStat),
  (0x2000, 8, 1, fun _ => .prtCtl),
  (0x2008, 8, 1, fun _ => .prtSeed),
  (0x2100, 0x08, 16, .prtSlot),
  (0x10400, 0x40, 80, .cvtSatcfg),
  (0x10408, 0x40, 80, .cvtSatstat),
  (0x10410, 0x40, 80, .cvtWincnt),
  (0x12000, 0x10, 320, .meStat),
  (0x14000, 0x10, 1280, .meSrctx0),
  (0x14008, 0x10, 1280, .meSrctx8),
  (0x19000, 0x08, 20, .meSpare),
  (0x20000, 0x100, 8, .skCtl),
  (0x20008, 0x100, 8, .skRegion),
  (0x20010, 0x100, 8, .skTstat),
  (0x20018, 0x100, 8, .skTide),
  (0x20020, 0x100, 8, .skErr),
  (0x30000, 0x10, 80, .xuStat),
  (0x30008, 0x10, 80, .xuBound),
  (0x40000, 8, 1, fun _ => .schCtl),
  (0x40008, 8, 1, fun _ => .schLoad),
  (0x40010, 8, 1, fun _ => .schBind),
  (0x40018, 8, 1, fun _ => .schLdctl),
  (0x40020, 8, 1, fun _ => .schLdstat),
  (0x40100, 0x10, 80, .schInst),
  (0x40800, 0x08, 80, .schQuad),
  (0x48000, 0x08, 5120, .semVal),
  (0x60000, 0x10, 320, .fryStat),
  (0x60008, 0x10, 320, .fryCred),
  (0x61800, 0x08, 64, .frySplit),
  (0x62000, 0x08, 5120, .frySwait),
  (0x70000, 0x40, 12, .memHstat),
  (0x70008, 0x40, 12, .memHerr),
  (0x72400, 0x40, 4, .hcvtSatcfg),
  (0x72408, 0x40, 4, .hcvtSatstat),
  (0x72410, 0x40, 4, .hcvtWincnt),
  (0x73000, 0x10, 4, .msaStat),
  (0x80000, 0x10, 48, .memGstat),
  (0x80400, 0x08, 4, .memGret),
  (0x90000, 8, 1, fun _ => .flStat),
  (0x90008, 8, 1, fun _ => .flErr),
  (0xA0000, 0x20, 20, .spadPwr0),
  (0xA0008, 0x20, 20, .spadPwr1),
  (0xA0010, 0x20, 20, .spadStat),
  (0xA1000, 0x08, 64, .fcRange),
  (0xA1200, 0x08, 4, .dirStat),
  (0xA2000, 0x08, 320, .poolCfg),
  (0xA4000, 0x10, 320, .poolAlloc),
  (0xA4008, 0x10, 320, .poolFree),
  (0xB0000, 8, 1, fun _ => .qCtl),
  (0xB0008, 8, 1, fun _ => .qStat),
  (0xB0010, 8, 1, fun _ => .qaSqb),
  (0xB0018, 8, 1, fun _ => .qaCqb),
  (0xB0020, 8, 1, fun _ => .qaSize),
  (0xB0028, 8, 1, fun _ => .qwWin),
  (0xC0000, 0x10, 2048, .msixAddr),
  (0xC0008, 0x10, 2048, .msixData),
  (0xC8000, 0x08, 32, .msixPba),
  (0xD0800, 0x10, 64, .cmPstat),
  (0xD0808, 0x10, 64, .cmApplied),
  (0xD1000, 0x10, 64, .mdlStep),
  (0xD1008, 0x10, 64, .mdlStat),
  (0xE0000, 8, 1, fun _ => .abId),
  (0xE0008, 8, 1, fun _ => .abUid),
  (0xE0010, 8, 1, fun _ => .abCtl),
  (0xE0100, 0x10, 16, .abPort),
  (0xE0108, 0x10, 16, .abPortc),
  (0xE8000, 0x08, 512, .abGroup),
  (0xF0000, 0x08, 4096, .abRoute),
  (0x100000, 8, 1, fun _ => .ptLock),
  (0x100100, 0x10, 64, .ptCfg),
  (0x100108, 0x10, 64, .ptStat),
  (0x100800, 0x08, 256, .ptFloor),
  (0x101000, 0x08, 512, .ptPeer),
  (0x102000, 0x08, 10, .ptOwnQ),
  (0x102100, 0x08, 160, .ptOwnB),
  (0x102600, 0x08, 54, .ptOwnH),
  (0x102800, 0x08, 18, .ptOwnG),
  (0x103000, 0x08, 512, .ptOwnS),
  (0x110000, 0x40, 1024, .tnCfg),
  (0x120000, 8, 1, fun _ => .lcStat),
  (0x130000, 8, 1, fun _ => .pmStat),
  (0x130008, 8, 1, fun _ => .pmCtl),
  (0x130010, 8, 1, fun _ => .rstReq),
  (0x130020, 8, 1, fun _ => .svcTime),
  (0x130028, 8, 1, fun _ => .svcSync),
  (0x130100, 0x08, 80, .pwrQuad),
  (0x130400, 8, 1, fun _ => .fltHealth)]

/-- The first array that holds `off`. -/
def findArr (off : Nat) : List (Nat × Nat × Nat × (Nat → Reg)) → Option Reg
  | [] => none
  | a :: as => match arrIdx a.1 a.2.1 a.2.2.1 off with
    | some i => some (a.2.2.2 i)
    | none => findArr off as

/-- The register at a BAR0 offset, if one is assigned there (18 Table 18-4). -/
def regAt (off : Nat) : Option Reg :=
  if 0x110000 ≤ off ∧ off < 0x120000 ∧ 8 ≤ (off - 0x110000) % 0x40 ∧ (off - 0x110000) % 0x40 < 0x28 ∧ off % 8 = 0 then
    some (.tnTier (4 * ((off - 0x110000) / 0x40) + ((off - 0x110000) % 0x40 - 8) / 8))
  else findArr off regArrays

/-- The value of the listed fields packed into a word. -/
def packRst : List Fld → Nat
  | [] => 0
  | f :: fs => f.rst % 2 ^ f.w * 2 ^ f.lo + packRst fs

/-- The owner byte of a granule after cold reset: FREE, or module-owned by 15 Table 15-1. `kind`: 0 quads, 1 banks,
2 HBM3E slices, 3 GDDR7 slices, 4 sketch-stack banks. -/
def ownRst (kind i : Nat) : Nat :=
  let m : Bool := match kind with
    | 1 => decide (60 ≤ i % 64)
    | 2 => decide (i % 36 = 0 ∧ i / 36 % 3 = 0)
    | 3 => decide (i % 36 < 12)
    | _ => false
  if m then 0x80 else 0x40

/-- A word of eight owner bytes after cold reset. -/
def ownWordRst (kind j : Nat) : Nat :=
  (List.range 8).foldr (fun b acc => ownRst kind (8 * j + b) + 256 * acc) 0

/-- Raw flash in TB: 48 on L48, 24 on L24 (18 R418). -/
def rawTb : Nat := if Config.orderL24 then 0x18 else 0x30

/-- Rated user capacity in GB: 40,000 on L48, 20,000 on L24 (11 R266). -/
def ratedGb : Nat := if Config.orderL24 then 20000 else 40000

/-- The value of a register after cold reset. -/
def regRst (r : Reg) : Word :=
  match r with
  | .ptOwnQ j => BitVec.ofNat 64 (ownWordRst 0 j)
  | .ptOwnB j => BitVec.ofNat 64 (ownWordRst 1 j)
  | .ptOwnH j => BitVec.ofNat 64 (ownWordRst 2 j)
  | .ptOwnG j => BitVec.ofNat 64 (ownWordRst 3 j)
  | .ptOwnS j => BitVec.ofNat 64 (ownWordRst 4 j)
  | .abUid => Config.abUid
  | .glbId => BitVec.ofNat 64 (packRst (regFields .glbId) + (if Config.orderL24 then 1 else 0) * 2 ^ 16 + rawTb * 2 ^ 32)
  | .flStat => BitVec.ofNat 64 (ratedGb * 2 ^ 32)
  | r => BitVec.ofNat 64 (packRst (regFields r))

/-- What a register table reads where nothing is listed. -/
def regRstAt (off : Nat) : Word :=
  match regAt off with
  | some r => regRst r
  | none => 0#64

/-- The value of a field of a register word. -/
def fget (w : Word) (f : Fld) : Nat := bits w.toNat f.lo f.w

/-- A register word with one field replaced. -/
def fput (w : Word) (f : Fld) (v : Nat) : Word := BitVec.ofNat 64 (putBits w.toNat f.lo f.w v)

/-- The mask of a field within its word. -/
def fmask (f : Fld) : Nat := (2 ^ f.w - 1) * 2 ^ f.lo

/-- Does a write of the bits in `mask` hold the whole field? (18 R410: a field that crosses bit 32 is left unchanged
by any 4-byte write.) -/
def fhit (mask : Nat) (f : Fld) : Bool := mask &&& fmask f = fmask f

end Sys2Proof.Machine
end

