-- ==== Sys2Proof/Machine/StBase.lean ====
section
/-! DEFINITION. State types shared by every family: event records and logs (17), what leaves the module, and the
state of the network block (12), of partitions and trust (15), of power and management (16), of the module's own
hardware (19) and of the debug access (20). Registers are held in the register table of State; these types hold
what the spec gives the machine beside its registers. -/

namespace Sys2Proof.Machine

/-! ### Events and logs (17 R394-R398) -/

/-- One event record (17 Table 17-1): `data` is its bytes 16-31. -/
structure EvRec where
  src : Nat
  code : Nat
  seq : Nat
  time : Nat
  data : List Byte
deriving DecidableEq, Repr

/-- Records of one source dropped from one log in the present window (17 R398). -/
structure Dropped where
  log : Nat
  first : Nat
  count : Nat
deriving DecidableEq, Repr

/-- What a source keeps: the SEQ its next record takes, the records it wrote in the present 1 ms window, and what it
dropped in it (17 R396, R398). -/
structure SrcSt where
  seq : Nat := 0
  inWin : Nat := 0
  drops : List Dropped := []
deriving DecidableEq, Repr

/-- A record in its log, with the tick at which it was written (18 R424). -/
structure LogRec where
  ev : EvRec
  wtime : Nat
deriving DecidableEq, Repr

/-- Logs and sources. `raised` holds the records that are detected and not yet in their log, oldest first (raising
and writing are two happenings, 17 R396, R398). `due` holds the global interrupt causes whose message is owed
(18 R421). -/
structure EvState where
  logs : Tab (List LogRec) := []
  srcs : Tab SrcSt := []
  raised : List (Nat × EvRec) := []
  due : List Nat := []
  /-- The 1 ms window in which the counts run (17 R398). -/
  win : Nat := 0
deriving DecidableEq, Repr

/-! ### What leaves the module or is returned to a requester -/

/-- Everything the module sends out, or returns to whoever asked: the model's own list, oldest first. -/
inductive Out where
  /-- An MSI-X message: host address and data (13 R307). -/
  | msix (addr data : Nat)
  /-- A write into host memory (13 R301, R306). -/
  | hostWrite (addr : Nat) (bytes : List Byte)
  /-- The answer to a host read through a BAR: the value, or Completer Abort (13 R290, 18 R410). -/
  | hostRead (value : Option Nat)
  /-- A read response inside the module: requester, address, bytes. -/
  | readResp (src addr : Nat) (bytes : List Byte)
  /-- A refusal returned to a requester inside the module; the code is that of 14 Table 14-6. -/
  | refusal (src addr status : Nat)
  /-- A fabric message leaving by a port. -/
  | link (port : Nat) (m : Msg)
  /-- A control flit: acknowledgement or NAK of FSEQ on a port (14 R320). -/
  | linkAck (port seq : Nat) (nak : Bool)
  /-- A landing credit returned on a port: channel and level (14 R326). -/
  | linkCred (port chan lvl : Nat)
  /-- A time flit leaving by a port: source UID, hop count, time (16 R383). -/
  | timeFlit (port uid hops time : Nat)
  /-- A fabric response delivered to a requester of this module. -/
  | fabricResp (srcid tag status : Nat) (data : List Byte)
  /-- An answer over the DOE mailbox (13 R288). -/
  | doe (bytes : List Byte)
  /-- A message over the management sideband (16 R374): kind and bytes. -/
  | sideband (kind : Nat) (bytes : List Byte)
  /-- A data register captured by a TAP of the JTAG chain: position, bits, width (20 R450). -/
  | jtag (tap value width : Nat)
  /-- A line printed by the console: a kind and its numbers (20 R455). -/
  | console (kind : Nat) (values : List Nat)
deriving DecidableEq, Repr

/-! ### The on-package network (12) -/

/-- A buffer pool beside its POOL_CFG word: allocated buffers with their owner, the allocation count of each buffer,
and the rotating search point (12 R280, R281). -/
structure PoolSt where
  used : List (Nat × Nat) := []
  gens : Tab Nat := []
  search : Nat := 0
deriving DecidableEq, Repr

/-- A line of an E-die's far-line cache (12 R277). -/
structure FarLine where
  die : Nat
  line : Nat
  bytes : List Byte
deriving DecidableEq, Repr

/-- A fill on its way to an E-die; `keep` is false once a snoop met it (12 Table 12-7). -/
structure Fill where
  die : Nat
  line : Nat
  bytes : List Byte
  keep : Bool
deriving DecidableEq, Repr

/-- An invalidation sent to an E-die and not yet answered (12 R278). `gone` marks one whose answer was an eviction
notice, so that the E-die's own MISS is discarded. -/
structure Snoop where
  hub : Nat
  die : Nat
  line : Nat
  gone : Bool
deriving DecidableEq, Repr

/-- Who waits for a write or add that a hub took and acknowledges later: piece `k` of ferry stream `n`, or the sender of a request of
another module. -/
inductive AckTo where
  | piece (n k : Nat)
  | msg (m : Msg)
deriving DecidableEq, Repr

/-- A write or add of `len` bytes applied to shared lines and not yet acknowledged (12 R278). -/
structure HeldAck where
  hub : Nat
  lines : List Nat
  src : Nat
  who : Option AckTo := none
  len : Nat := 0
deriving DecidableEq, Repr

/-- A packet held by the perturbation slots: its target and the tick at which its hold ends (18 R427). -/
structure Held where
  target : Nat
  until_ : Nat
deriving DecidableEq, Repr

structure NetState where
  /-- Reset epoch of each source identifier (12 R273). -/
  epochs : Tab Nat := []
  /-- Banks in their OFF-to-ON wipe, as 64d + b (12 Table 12-2). -/
  onWipe : List Nat := []
  /-- Corrected errors of each E-die's scratchpad words (12 Table 12-3): no register shows them. -/
  ce : Tab Nat := []
  pools : Tab PoolSt := []
  lines : List FarLine := []
  /-- Sharer vectors: key is the line number (address / 256), value one bit per E-die (12 R278). -/
  dir : Tab Nat := []
  fills : List Fill := []
  snoops : List Snoop := []
  acks : List HeldAck := []
  /-- FC_RANGE words that wait for the invalidation of the lines the old range covered: index and new word. -/
  rangeWait : List (Nat × Word) := []
  /-- Packets held by perturbation, in arrival order (18 R427, R428). -/
  held : List Held := []
deriving DecidableEq, Repr

/-! ### Partitions and trust (15) -/

/-- A firmware image copy in the SPI NOR: its 256-byte header and its body (15 R359). -/
structure Image where
  hdr : List Byte := []
  body : List Byte := []
deriving DecidableEq, Repr

structure TrustState where
  /-- The nonce that the T-die last issued, until it is used or until a reset (15 R357). -/
  nonce : Option (List Byte) := none
  /-- Fused SVN minima of kinds 1-7; key is the kind (15 R360). -/
  svnMin : Tab Nat := []
  /-- Image copies: key 2 * kind for A, 2 * kind + 1 for B (15 R359). -/
  nor : Tab Image := []
  /-- The copy taken at the last boot, by kind: 0 A, 1 B (15 R360). -/
  taken : Tab Nat := []
  /-- SVN of the image taken, by kind. -/
  runSvn : Tab Nat := []
  /-- Measurements 1-9 (15 Table 15-9). -/
  meas : Tab (List Byte) := []
  /-- The kind whose two copies were both invalid, when the boot halted (15 R360). -/
  halted : Option Nat := none
  /-- Target state of a life-cycle transition recorded as pending (15 R358). -/
  lcPending : Option Nat := none
  /-- Tenants that have a flash key, with the number of the key the T-die generated (15 R354). -/
  keys : Tab Nat := []
  /-- Keys generated so far. -/
  keyCount : Nat := 0
deriving DecidableEq, Repr

structure PartState where
  /-- Wipes pending, as (kind of granule, index) in the order they were started (15 R345). -/
  wipes : List (Nat × Nat) := []
  /-- Partitions that hold a FLOOR_MISS already raised in the present millisecond, as 4p + h (15 R349). -/
  floorSaid : List Nat := []
deriving DecidableEq, Repr

/-! ### Power and management (16, 17) -/

/-- The phase of the main domain (16 R371, R372). -/
inductive MainPhase where
  /-- Down; `needLow`: PWR_EN must be seen low before the next start. -/
  | off (needLow : Bool)
  | up
  /-- The power-loss flush runs; `restart`: a sideband cold reset started it. -/
  | flushing (restart : Bool)
  /-- A rail failed to come within range: held off until PWR_EN is cycled. -/
  | railFail (rail : Nat)
deriving DecidableEq, Repr

/-- A partition that recovers from a fault: detection time and fault code (17 R402). -/
structure Recovery where
  part : Nat
  time : Nat
  code : Nat
deriving DecidableEq, Repr

structure PwrState where
  phase : MainPhase := .up
  p48 : Bool := true
  p12aux : Bool := true
  pwrEn : Bool := true
  perstN : Bool := false
  refclk : Bool := true
  /-- The management domain runs: it needs P12AUX or P48 (16 R369). -/
  mgmtUp : Bool := true
  /-- The quay has finished its boot steps (16 Table 16-12, 16-13). -/
  quayReady : Bool := true
  /-- A warm reset waits for PERST_N to go high (16 Table 16-13). -/
  warmWait : Bool := false
  /-- The SMBus address that the boot configuration gives (16 R374, R387). -/
  smbus : Nat := 0
  /-- DUTY cap of each E-die (0-19) and H-die (20-23) by temperature (16 R379). -/
  caps : Tab Nat := []
  /-- NAND thermal state: row of 16 Table 16-8 among the four NAND rows, 0-3. -/
  nand : Nat := 0
  /-- Thermal level of each HBM3E stack (n), GDDR7 device (16 + d) and sketch stack (64 + s). -/
  thermal : Tab Nat := []
  /-- Quads waiting for a wake token, oldest first (16 R376). -/
  wakeReq : List Nat := []
  /-- The rotating grant pointer of the wake tokens (16 R376). -/
  wakePtr : Nat := 0
  /-- Times of the grants of the last 2 microseconds. -/
  grants : List Nat := []
  /-- Source dies whose root PLL has lost lock (16 R381). -/
  pllLost : List Nat := []
  /-- Time of the last PWR_CAP, once raised (16 Table 16-7). -/
  capTime : Option Nat := none
  /-- Times at which DUTY last moved (16 Table 16-7). -/
  dutyTime : Nat := 0
  /-- The time up to which CAPTIME has counted while DUTY is below 16 (16 R389). -/
  capMark : Nat := 0
  /-- The AB_UID of the time source this module follows, while locked (16 R383). -/
  timeSrc : Nat := 0
  /-- When the last time flit came over the sync port (16 R383), and whether its silence was already reported. -/
  syncAt : Nat := 0
  syncSaid : Bool := false
  /-- Time of the last SVC_SYNCCONF, once raised. -/
  confTime : Option Nat := none
  /-- Partitions under recovery (17 R402). -/
  recov : List Recovery := []
  /-- E-dies, quads and service parts that left service (17 Table 17-5): E-dies lost. -/
  diesLost : List Nat := []
  /-- Quads retired (17 R403). -/
  retired : List Nat := []
  /-- NBUs retired, by bank g (05 R109). -/
  nbusOut : List Nat := []
  /-- The quay, flash die or T-die is lost: the whole module is (17 Table 17-5). -/
  moduleLost : Bool := false
  /-- Service dies that had a self-check failure (17 Table 17-3). -/
  svcFaults : List Nat := []
  /-- Times of the last parity errors, by (16q + unit) (17 R399). -/
  parity : Tab Nat := []
  /-- Quads to be retired, with the code of the event that calls for it (17 R399, Table 17-5). -/
  retireDue : List (Nat × Nat) := []
  /-- FL_WEAROUT has been raised (17 Table 17-9). -/
  wearSaid : Bool := false
deriving DecidableEq, Repr

/-! ### Module hardware (19) -/

inductive IdLed where
  | off | steady | blink2
deriving DecidableEq, Repr

/-- An OSFP cage of P12-P15 (19 R438). -/
structure Cage where
  present : Bool := false
  power : Nat := 0
  lowPower : Bool := false
deriving DecidableEq, Repr

structure HwState where
  identify : IdLed := .off
  /-- Removal requested: ATTN_N low (19 R440). -/
  removal : Bool := false
  /-- The leak sensor is wet: LEAK_N low (19 R432). -/
  leak : Bool := false
  inlet : Nat := 0
  outlet : Nat := 0
  /-- Cages of P12-P15, by port number. -/
  cages : Tab Cage := []
  /-- J4 is mated (19 R441). -/
  j4 : Bool := true
  /-- A probe is attached: DBG_PRSNT_N low (20 R447). -/
  probe : Bool := false
deriving DecidableEq, Repr

/-! ### Debug and test (20) -/

/-- A TAP: the instruction it holds, its boundary cells and whether its outputs are taken from them. -/
structure Tap where
  inst : Nat := 0xFF
  cells : Nat := 0
  drives : Bool := false
  hiZ : Bool := false
deriving DecidableEq, Repr

structure DbgState where
  /-- Does the chain run through all 32 TAPs (else M and T only)? (20 R448) -/
  long : Bool := true
  taps : Tab Tap := []
  /-- TMUXSEL: the word of each output (20 R453). -/
  tmux : Tab Nat := []
  /-- The half that the last DBGACC read, loaded at the next Capture-DR (20 R452). -/
  half : Nat := 0
  /-- Module-log records printed in the present second, and those dropped (20 R455). -/
  printed : Nat := 0
  unprinted : Nat := 0
deriving DecidableEq, Repr

end Sys2Proof.Machine
end

