-- ==== Sys2Proof/Machine/StFabric.lean ====
section
/-! DEFINITION. State of the Abdan Link fabric beside its registers (14): ports, landings, requests that wait for a
response, and collective steps. -/

namespace Sys2Proof.Machine

/-- A port's link layer (14 R316-R320). -/
structure PortSt where
  /-- Good lanes, 0-9 (0-8 on a cabled port), as the last training found them and lane failures left them (14 R316). -/
  good : Nat := 9
  /-- The partner's AB_UID, once HELLO was exchanged. -/
  peerUid : Option Nat := none
  /-- DATA flits not yet acknowledged, with their FSEQ (14 R320). -/
  replay : List (Nat × Msg) := []
  nextSeq : Nat := 0
  /-- FSEQ expected of the partner. -/
  expSeq : Nat := 0
  /-- Last FSEQ of ours that the partner acknowledged. -/
  acked : Nat := 0xFFF
  /-- Times of the NAKs received in the last millisecond. -/
  naks : List Nat := []
  /-- Flits sent on each channel and level and not yet credited back; key 2 * channel + level (14 R326). -/
  sent : Tab Nat := []
  /-- Messages that wait for landing credits (14 R326). -/
  wait : List Msg := []
  /-- The neighbour sent LEAVE: the port is not chosen (14 R336). -/
  left : Bool := false
  /-- Two ports report one MODNUM with different UIDs, this one among them (14 R323). -/
  dup : Bool := false
  /-- The port is to train: a trigger of 14 R317 came and the port is not up yet. -/
  trains : Bool := true
  /-- Flit lock is reached; the HELLO exchange is still to come (14 Table 14-3). -/
  locked : Bool := false
deriving DecidableEq, Repr

/-- A request sent to another module that waits for its response (14 R322). `kind`: its MTYPE; `stale`: its source
was reset, so its response is discarded (16 R385). -/
structure Outst where
  tag : Nat
  srcid : Nat
  dst : Nat
  kind : Nat
  part : Nat
  time : Nat
  stale : Bool
  /-- The ferry piece it serves: stream, piece, offset in it, length, and the bytes read before it. -/
  piece : Option (Nat × Nat × Nat × Nat × Nat) := none
deriving DecidableEq, Repr

/-- One slot of a collective step (14 R330, R331). -/
structure SlotSt where
  len : Nat := 0
  ended : Bool := false
  part : Bool := false
  modResp : Nat := 0
  absent : Bool := false
deriving DecidableEq, Repr

/-- A collective group's step (14 R331): its sequence, whether its timer runs, its slots, and the sequences it has
completed. `sent`: the node's own END of the running step went out; `owed`: completed steps whose own contribution is still to be
ended, with their MOD_RESP and PART (DEDUCED, log entry 98). -/
structure GroupSt where
  seq : Nat := 0
  running : Bool := false
  since : Nat := 0
  slots : Tab SlotSt := []
  done : List Nat := []
  sent : Bool := false
  owed : List (Nat × Nat × Bool) := []
deriving DecidableEq, Repr

structure FabState where
  ports : Tab PortSt := []
  /-- Messages that landed and are not yet served, with their port. -/
  landing : List (Nat × Msg) := []
  outst : List Outst := []
  groups : Tab GroupSt := []
  /-- L-dies that are leaving the fabric (14 R336). -/
  leaving : List Nat := []
  /-- Tag that the next request of this module takes. -/
  nextTag : Nat := 0
deriving DecidableEq, Repr

end Sys2Proof.Machine
end

