-- ==== Sys2Proof/Machine/StTier.lean ====
section
/-! DEFINITION. State of the memory tiers beside DRAM bytes and registers (11): tier objects, their places and their
flash, moves, retirement tables and NAND dies. -/

namespace Sys2Proof.Machine

/-- The four tiers, coded as OBJ_CREATE codes them (13 Table 13-6). -/
inductive Tier where
  | hbm | gddr | sketch | flash
deriving DecidableEq, Repr

/-- Where a run of an object's bytes lies: `some a` at local address `a`, `none` in flash. -/
structure Piece where
  off : Nat
  len : Nat
  addr : Option Nat
deriving DecidableEq, Repr

/-- A move in progress (11 R253): the byte range, the target pieces, the next tile, and the command to complete. -/
structure Move where
  lo : Nat
  hi : Nat
  tier : Tier
  target : List Piece
  next : Nat
  cmd : Nat
  /-- OBJ_FREE of the object waits for the tile in progress: its command. -/
  freeBy : Option Nat := none
deriving DecidableEq, Repr

/-- A tier object (11 R251, R252). `flash` is the content of its flash residence and `home` that of its flash home,
by byte offset; both read 0 where nothing is listed. `coll`: it holds a segment of a collection; its bytes are charged version by
version (03 R462), not as an object. -/
structure Obj where
  hub : Nat
  number : Nat
  salt : Nat
  tenant : Nat
  part : Nat
  elemb : Nat
  elems : Nat
  tier : Tier
  pieces : List Piece
  hasHome : Bool
  flash : Tab Byte := []
  home : Tab Byte := []
  /-- Units charged to the tenant for it, by tier in the order of TN_TIER (11 R255). -/
  charged : Tab Nat := []
  move : Option Move := none
  lost : Bool := false
  coll : Bool := false
deriving DecidableEq, Repr

/-- A write (`addt` 0) or add that met the tile being copied and waits for its switch (11 Table 11-8). -/
structure HeldWrite where
  hub : Nat
  number : Nat
  off : Nat
  addt : Nat
  src : Nat
  data : List Byte
  /-- Who waits for it. -/
  who : Option AckTo := none
deriving DecidableEq, Repr

/-- An access held at a hub while its block converts or its granule is wiped (05 R100, 15 R345): a read, a write (`addt` 0) or an add
of agent `src`; or, with `host`, the host access at BAR2 offset `host`. -/
structure HeldAcc where
  src : Nat
  tgt : Target
  len : Nat
  data : Option (List Byte)
  addt : Nat := 0
  host : Option Nat := none
deriving DecidableEq, Repr

structure TierState where
  objs : List Obj := []
  /-- SALT of each object number, key `hub * 2^20 + number` (11 R251). -/
  salts : Tab Nat := []
  heldW : List HeldWrite := []
  heldAcc : List HeldAcc := []
  /-- Retired pages, as address / 65,536 (11 R244). -/
  retired : List Nat := []
  /-- Time of the last corrected error of a 32-byte word, key address / 32 (11 R244). -/
  ceTimes : Tab Nat := []
  /-- Extents freed by a tenant and not yet wiped: (tenant, address, length) (15 R352). -/
  dirty : List (Nat × Nat × Nat) := []
  /-- Sketch stacks and channels and devices that failed: HBM3E stacks n, GDDR7 16 + d, sketch stacks 64 + s. -/
  failed : List Nat := []
  /-- Spare blocks used of each NAND die (11 R259). -/
  sparesUsed : Tab Nat := []
  /-- Read-only NAND dies (11 R259). -/
  readOnly : List Nat := []
  /-- NAND dies failed whole and under stripe rebuild (11 R258). -/
  rebuilding : List Nat := []
  /-- Dies under relocation (11 R259). -/
  relocating : List Nat := []
  /-- Bytes programmed into flash (11 R259). -/
  programmed : Nat := 0
deriving DecidableEq, Repr

end Sys2Proof.Machine
end

