-- ==== Sys2Proof/Machine/StQuay.lean ====
section
/-! DEFINITION. State of the quay beside its registers (13): queue pairs, fetched commands, range locks, deferred
reports and recovery tables. -/

namespace Sys2Proof.Machine

/-- 13 Table 13-4. -/
inductive QpMode where
  | absent | active | draining | error
deriving DecidableEq, Repr

/-- A queue pair (13 R292, R293, R307). Depths are entry counts. -/
structure QP where
  mode : QpMode := .absent
  tenant : Nat := 0
  part : Nat := 0
  ver : Nat := 2
  sqBase : Nat := 0
  cqBase : Nat := 0
  sqDepth : Nat := 0
  cqDepth : Nat := 0
  vec : Nat := 0
  icount : Nat := 0
  itime : Nat := 0
  /-- Next SQ index to fetch. -/
  fetch : Nat := 0
  /-- Last SQ tail written. -/
  tail : Nat := 0
  /-- Last CQ head written. -/
  head : Nat := 0
  /-- CQ index after the last entry posted. -/
  posted : Nat := 0
  /-- PH of the present pass. -/
  phase : Bool := true
  /-- Entries posted since the CQ's last interrupt, and the tick of the first of them. -/
  since : Nat := 0
  sinceAt : Nat := 0
  /-- Deferred reports that wait: code and log sequence number (13 R304). -/
  defers : List (Nat × Nat) := []
  /-- The DELETE_QP command that drains it. -/
  delBy : Option Nat := none
  /-- Highest sequence number of a write whose completion was posted here (03 R43). -/
  lastSeq : Nat := 0
  /-- Fetch number of the next command when the queue pair was created: its own commands have this number or a higher one. -/
  born : Nat := 0
deriving DecidableEq, Repr

/-- How far a fetched command has come. -/
inductive CmdSt where
  /-- Checked and dispatched; its own effect has not happened yet. -/
  | ready
  /-- A write that waits on the range-lock table (13 R300), or a command that waits for an earlier one. -/
  | waiting
  /-- Its effect has started and its end is still to come (a build, a move, a compaction, a durable write, a query). -/
  | running
  /-- Its result is known and its completion not yet posted: STATUS, SPEC0, SPEC1, output bytes. -/
  | done (status spec0 spec1 : Nat) (out : List Byte)
deriving DecidableEq, Repr

/-- A fetched command in flight (13 R294, R295). `entry` is the submission entry as 128 bytes. -/
structure Cmd where
  n : Nat
  qp : Nat
  cid : Nat
  op : Nat
  part : Nat
  tenant : Nat
  entry : List Byte
  payload : List Byte
  at_ : Nat
  st : CmdSt
  /-- A query's read point, once it is known (03 R43), and the collection's and the towers' generations at its fetch (03 R54). -/
  rp : Option Nat := none
  gen : Nat := 0
  tgen : Nat := 0
  /-- The highest write completed on its queue pair at its fetch: a query is held until APPLIED reaches it (03 R43). -/
  hold : Nat := 0
deriving DecidableEq, Repr

/-- An entry of the range-lock table (13 R300). `isModel` tells a model's number from a collection's. -/
structure RangeLock where
  isModel : Bool
  obj : Nat
  lo : Nat
  hi : Nat
  cmd : Nat
deriving DecidableEq, Repr

/-- An entry of a partition's recovery table (13 R305). -/
structure RecEntry where
  qp : Nat
  cid : Nat
  seq : Nat
deriving DecidableEq, Repr

/-- What the SPDM responder has settled with its requester (13 R288). -/
structure Spdm where
  version : Bool := false
  caps : Bool := false
  algs : Bool := false
deriving DecidableEq, Repr

structure QuayState where
  qps : Tab QP := []
  cmds : List Cmd := []
  /-- Fetch number of the next command. -/
  nextCmd : Nat := 0
  locks : List RangeLock := []
  /-- The queue pair whose turn it is and how many entries it took in it (13 R294). -/
  turn : Nat := 0
  taken : Nat := 0
  recTables : Tab (List RecEntry) := []
  /-- Seal value of each partition's RECOVERY record (13 Table 13-12). -/
  seals : Tab Nat := []
  spdm : Spdm := {}
  /-- log2 of the BAR2 size: 1 GiB to 1 TiB, default 64 GiB (13 Table 13-2). -/
  bar2Log : Nat := 36
  /-- Ceilings of the PCIe rate (GT/s) and width (lanes) that the boot configuration gives (16 R387). -/
  maxRate : Nat := 64
  maxWidth : Nat := 16
  /-- The engine's fetching is stopped by a power loss or a life-cycle transition. -/
  stopped : Bool := false
deriving DecidableEq, Repr

end Sys2Proof.Machine
end

