-- ==== Sys2Proof/Machine/StCtl.lean ====
section
/-! DEFINITION. State of schedule control beside registers (09): threads, instances, tasks, start records that wait,
and aborts in progress; and of the ferries' streams (10). -/

namespace Sys2Proof.Machine

/-- An instruction issued and not complete (09 R178, R179): its opcode and operands, and the semaphore it signals. -/
structure Issued where
  op : Nat
  sig : Option Nat
  /-- What completion waits for: a job of the stream, or near-bank tokens still out. -/
  tokens : List Nat := []
  isJob : Bool := false
  o : Nat := 0
  /-- It still needs bytes of a stream (07 R150). -/
  dry : Bool := false
  /-- Steps, entries or bundles taken so far, and the operand bytes it holds for the steps to come. -/
  k : Nat := 0
  got : List (List Byte) := []
deriving DecidableEq, Repr

/-- An open loop level (09 R181): count and recorded position. -/
structure LoopLv where
  count : Nat
  pos : Nat
deriving DecidableEq, Repr

/-- A thread that holds a schedule (09 R174, R181). `base`: local address of its first instruction. -/
structure Thread where
  base : Nat := 0
  ninstr : Nat := 0
  pos : Nat := 0
  loops : List LoopLv := []
  /-- Counters LC0-LC3. -/
  lcs : List Nat := [0, 0, 0, 0]
  p : Bool := false
  halted : Bool := false
  issued : List Issued := []
  /-- Tick at which the present wait began (09 R204). -/
  waitAt : Option Nat := none
deriving DecidableEq, Repr

/-- A task in flight or a start record that waits (09 R210). `aborts`: times it was aborted. -/
structure Task where
  task : Nat
  cmd : Nat
  qp : Nat
  cid : Nat
  readPoint : Nat
  gen : Nat
  flags : Nat
  deadline : Nat
  /-- The local address of the fetched submission entry (DESIGN CHOICE, log entry 17). -/
  entry : Nat := 0
  aborts : Nat := 0
  started : Bool := false
deriving DecidableEq, Repr

/-- A loaded plan instance (09 R175, R207-R211). `seminit`: 256 values for each logical quad, in order. `scheds`:
thread key, address and instruction count of each schedule copied. -/
structure Inst where
  part : Nat
  kind : Nat
  object : Nat
  limit : Nat
  startsem : Nat
  tring : Nat
  quads : List Nat
  image : Nat
  bind : Nat
  seminit : List Nat
  scheds : List (Nat × Nat × Nat)
  nextTask : Nat := 0
  tasks : List Task := []
  unloading : Bool := false
deriving DecidableEq, Repr

/-- An aborting event met by an instance and not yet carried through by INSTANCE_ABORT (09 R204, R205). `told`: its
collective groups' neighbours were told already (14 R333). -/
structure AbortReq where
  inst : Nat
  cause : Nat
  time : Nat
  told : Bool := false
deriving DecidableEq, Repr

/-- A plan load in progress (09 R209): its parameters as they stood at GO. -/
structure LoadReq where
  image : Nat
  bind : Nat
  part : Nat
  epoch : Nat
deriving DecidableEq, Repr

/-- A semaphore message on its way to a quad (09 R183): target, semaphore, increment, epoch, sending unit, and
whether it came over a port to a 2-series partner. -/
structure SigMsg where
  q : Nat
  sem : Nat
  n : Nat
  epoch : Nat
  src : Nat
  peer2 : Bool
deriving DecidableEq, Repr

structure CtlState where
  threads : Tab (Option Thread) := []
  insts : Tab (Option Inst) := []
  aborting : List AbortReq := []
  /-- Start records that wait at the quay, in fetch order: the instance each is bound to, and its task. -/
  waiting : List (Nat × Task) := []
  load : Option LoadReq := none
  unload : Option Nat := none
  sigs : List SigMsg := []
  /-- Times of the last instruction parity errors of each quad. -/
  fetchErr : Tab Nat := []
  /-- Quads whose schedules are to be reloaded from the image at their abort (09 Table 9-11). -/
  reload : List Nat := []
  /-- The thread first in rotation (09 R174, 07 R150), keyed by 4 * (16q + unit) + resource: the one after the thread last
  issued. -/
  next : Tab Nat := []
  /-- The grant pointer of a semaphore (09 R180), keyed by 256q + semaphore: 16 * unit + thread, after the last winner. -/
  grant : Tab Nat := []
  /-- The instance that took the last task of a collection (key 2 * number) or model (key 2 * number + 1) (13 R294). -/
  rot : Tab (Option Nat) := []
  /-- What FRY_SWAIT showed at the deadline of a real-time task (10 R231): command, WHERE, CAUSE, instance. -/
  missed : List (Nat × Nat × Nat × Nat) := []
deriving DecidableEq, Repr

/-! ### Ferries (10) -/

/-- One end of a piece. -/
inductive PEnd where
  | mem (a : Nat)
  | glob (m a : Nat)
  | elem (handle v : Nat)
  | unit
  /-- A null entry's other end: zeros for a gather, nothing for a scatter (10 R220). -/
  | null
  /-- Bytes the descriptor or the unit gave: a fill, data taken from a unit, a converted row, a bundle's header. -/
  | bytes (bs : List Byte)
deriving DecidableEq, Repr

/-- A piece issued and not yet over (10 R216). `k`: its number on its stream; `run`: its repetition; `off`: its first byte in the run's
destination; `direct`: it goes to its destination as it lands; `data`: what arrived; `todo`:
its packets or bursts not yet sent, as (offset, address, length); `parts`: what remote messages have brought; `acked`: bytes written,
applied or acknowledged; `refused`: refused with "domain off", `nak` its packets that were; `retried`: already retried; `held`: its
write waits at the hub; `fell`: it carries a fallback row; `served`: its hub has served its read. -/
structure Pc where
  k : Nat
  src : PEnd
  dst : PEnd
  len : Nat
  off : Nat
  direct : Bool
  run : Nat := 0
  data : Option (List Byte) := none
  todo : List (Nat × Nat × Nat) := []
  parts : List (Nat × List Byte) := []
  acked : Nat := 0
  refused : Bool := false
  nak : List (Nat × Nat × Nat) := []
  retried : Bool := false
  held : Bool := false
  fell : Bool := false
  served : Bool := false
deriving DecidableEq, Repr

/-- A repetition of an FSTR that is not over (10 R219, R223): destination bytes assigned, granules signalled, rows emitted by a
layout; `ended`: its last piece is issued; `closed`: its last byte has passed to its end. -/
structure RunAcc where
  id : Nat
  all : Nat := 0
  full : Nat := 0
  erow : Nat := 0
  ended : Bool := false
  closed : Bool := false
deriving DecidableEq, Repr

/-- A stream's FSTR in progress (10 R217-R229). `runs`: repetitions not yet started; `cur`: the one that issues, of those in `accs`;
`rows`, `taken`: its rows or entries taken, and granules whose EMPTY was consumed; `parts`: bundle pieces of its last entry still to be
issued; `fbSeen`: FBSEM was consumed; `table`: an entry named a table; `hold`: rows of repetition `holdRun` in the transpose buffer;
`dn`: the number of the default row's free bytes (DESIGN CHOICE, log entry 7). -/
structure Job where
  d : List Byte
  runs : Nat
  cur : Nat := 0
  accs : List RunAcc := [{ id := 0 }]
  rows : Nat := 0
  taken : Nat := 0
  out : List Pc := []
  parts : List (PEnd × Nat) := []
  start : Nat := 0
  fbSeen : Bool := false
  table : Bool := false
  lateSaid : Bool := false
  dn : Nat := 0
  hold : List (List Byte) := []
  holdRun : Nat := 0
deriving DecidableEq, Repr

/-- A run's bytes at a unit: delivered and not taken; `taken`: some were taken; `ended`: no more come; `mark`: an end
mark follows its last byte; `full`: it had COUNT rows, so no end mark cut it short (10 Table 10-5). -/
structure RunQ where
  left : List Byte
  taken : Bool := false
  ended : Bool := false
  mark : Bool := false
  full : Bool := false
  /-- Its descriptor has PAIR = 1: the next stream carries its scales (10 R222). -/
  pair : Bool := false
deriving DecidableEq, Repr

/-- A stream (10 R216, R219): runs delivered to its unit, in order; what its unit wrote, one list per producing
instruction; and its FSTR. -/
structure StreamSt where
  runs : List RunQ := []
  fromUnit : List (List Byte) := []
  fromEnd : Bool := false
  job : Option Job := none
  /-- The number of its next piece. -/
  nextK : Nat := 0
  /-- Pieces replaced by a fallback row and still to arrive: each holds a read credit (10 R229). -/
  late : List Nat := []
deriving DecidableEq, Repr

structure FerryState where
  /-- Keyed by 16n + s. -/
  streams : Tab StreamSt := []
  /-- FRY_SPLIT words in effect at a hub, keyed by 4p + h, while a written one waits for its next window (10 Table 10-13). -/
  split : Tab Word := []
  /-- Bytes metered in the present window, keyed by (4p + h) * 4 + class: read, write and remote at the hub, and what its L-die sends
  (10 R227). -/
  meter : Tab Nat := []
  /-- The stream first in rotation at a ferry (10 R216, R233), and at its transpose buffer (10 R221). -/
  next : Tab Nat := []
  tpose : Tab Nat := []
  /-- The partition first in rotation for surplus bandwidth at a hub (10 Table 10-9). -/
  surplus : Tab Nat := []
  /-- Times of the last parity error, by ferry. -/
  parity : Tab Nat := []
deriving DecidableEq, Repr

end Sys2Proof.Machine
end

