-- ==== Sys2Proof/Machine/StRank.lean ====
section
/-! DEFINITION. State of ranking models and training (04), and of the conversion counters' windows (06). -/

namespace Sys2Proof.Machine

/-- The windows of the conversion counters, by set (quad q, or 80 + hub): start tick, and the configuration word in
effect (06 R131, R132). -/
structure ArithState where
  cvtStart : Tab Nat := []
  cvtNow : Tab Word := []
deriving DecidableEq, Repr

/-- History-cache parameters (04 Table 4-5). -/
structure HistParam where
  l : Nat
  h : Nat
  dh : Nat
  int8 : Bool
  /-- Per head, the FP32 scales of the keys and of the values. No command carries them (DESIGN CHOICE, log entry 85). -/
  scales : List (Nat × Nat) := []
deriving DecidableEq, Repr

/-- A user's history ring: entries oldest first (04 R69). -/
structure HistRing where
  entries : List (List Byte) := []
deriving DecidableEq, Repr

/-- A lookup stage (04 R74): its number, and the ferry streams (16n + s) whose gathers it still waits for, one entry per gather.
`prior`: those that ran something else as the stage began. -/
structure Stage where
  id : Nat
  streams : List Nat
  prior : List Nat := []
deriving DecidableEq, Repr

/-- A scatter add held until its window opens (04 Table 4-7). -/
structure HeldAdd where
  table : Nat
  row : Nat
  off : Nat
  addt : Nat
  src : Nat
  data : List Byte
  /-- Who waits for it. -/
  who : Option AckTo := none
deriving DecidableEq, Repr

/-- A model's step gate (04 Table 4-7). `touched`: the rows of the step that asked for the window, as (table, row); `added`: those
with an add applied in the open window; `barrier`: the model's barrier ended here since the request (04 R75). -/
structure Gate where
  running : List Stage := []
  waiting : List Stage := []
  pend : Bool := false
  open_ : Bool := false
  touched : List (Nat × Nat) := []
  added : List (Nat × Nat) := []
  barrier : Bool := false
  held : List HeldAdd := []
  /-- Tick of the first DEMOTE since the last window (04 R67). -/
  demoteAt : Option Nat := none
deriving DecidableEq, Repr

/-- A row: element codes, scale byte, accumulator (04 R65). -/
structure RowVal where
  elems : List Nat := []
  scale : Nat := 0
  acc : Nat := 0
deriving DecidableEq, Repr

/-- A valid way of the hot-row directory (04 R66), with its hot copy and the step of its last update (04 R76). -/
structure HotWay where
  row : Nat
  slot : Nat
  val : RowVal
  last : Nat
deriving DecidableEq, Repr

/-- An embedding table (04 R64-R67). `cold` is keyed by row, `hot` by 16 * set + way. -/
structure Table where
  model : Nat
  num : Nat
  tenant : Nat
  part : Nat
  hub : Nat
  number : Nat
  salt : Nat
  rows : Nat
  dim : Nat
  coldFmt : Nat
  hasScale : Bool
  hasAcc : Bool
  logSets : Nat
  late : Nat
  grace : Nat
  dflt : List Byte
  cold : Tab RowVal := []
  hot : Tab (Option HotWay) := []
  queue : List Nat := []
  misses : Nat := 0
  sampled : Nat := 0
  ring : List (Nat × Nat) := []
  overwritten : Bool := false
  /-- Error records of the table's demotions, by element column: SSE as FP64, COUNT, SKIP (06 R135). -/
  errs : Tab (Nat × Nat × Nat) := []
deriving DecidableEq, Repr

/-- A ranking model (04 R69, R80). -/
structure Model where
  tenant : Nat
  part : Nat
  towers : Nat
  trained : Bool
  hist : Option HistParam
  users : Tab HistRing := []
  gate : Gate := {}
deriving DecidableEq, Repr

/-- A query's attention stage (04 R70, R71): the bank whose NBUs compute it, or none for MEs and VP; and its output. -/
structure Attn where
  bank : Option Nat
  out : List Nat
deriving DecidableEq, Repr

structure RankState where
  models : Tab (Option Model) := []
  tables : List Table := []
  /-- MSTEP that a command's lookup stage read, by its fetch number (04 R63, R74). -/
  stepOf : Tab (Option Nat) := []
  /-- A query's attention stage, by its fetch number. -/
  attn : Tab (Option Attn) := []
  /-- Commands whose lookups used a fallback row (04 R68). -/
  degraded : List Nat := []
deriving DecidableEq, Repr

end Sys2Proof.Machine
end

