-- ==== Sys2Proof/Machine/StSketch.lean ====
section
/-! DEFINITION. State of the sketch stacks and their near-bank units (05). -/

namespace Sys2Proof.Machine

/-- A command on its way to a bank or queued there (05 R90): its 32 bytes, the unit that issued it and that unit's thread; `hub`:
NBLIST made it, so it may name query rows Q8-Q15; `who`: of a SCREEN that serves several queries (05 R98), per latch the unit and
the tag of its query; `toks`: the tokens that its end with OK returns, each with the unit that waits for it. -/
structure NbuCmd where
  bytes : List Byte
  src : Nat
  thr : Nat
  hub : Bool := false
  who : List (Nat × Nat × Nat) := []
  toks : List (Nat × Nat) := []
deriving DecidableEq, Repr

/-- A record of the hit FIFO (05 R87), with the unit it goes to and the record as the hub forwards it. -/
structure NbuHit where
  raw : Nat
  src : Nat
  out : Nat
deriving DecidableEq, Repr

/-- A near-bank unit (05 Table 5-2). Rows and latches are numbers of 8,192 bits. -/
structure Nbu where
  cmds : List NbuCmd := []
  /-- Row operations done of the command in front: it is in progress. -/
  prog : Nat := 0
  latch : Tab Nat := []
  loaded : Nat := 0
  thr : Tab Nat := []
  mask : Nat := 0
  clause : Nat := 0
  maskOn : Bool := false
  mbase : Nat := 0
  seg512 : Bool := false
  /-- Key 64 * latch + bin. -/
  hist : Tab Nat := []
  fifo : List NbuHit := []
  sums : Tab Nat := []
  doneTok : Nat := 0
  errTok : Nat := 0
  err : Nat := 0
  /-- Tokens completed with OK and not yet turned into a signal by the hub's poll (05 R95), and who issued them. -/
  doneList : List (Nat × Nat) := []
deriving DecidableEq, Repr

/-- A query of NBLIST that waits at the hub for a bank (05 R98): its unit and thread, token and tag, the list's directory entry, the
screen record and the query sketch. -/
structure ListScan where
  src : Nat
  thr : Nat
  tok : Nat
  tag : Nat
  dir : List Byte
  rec_ : List Byte
  sketch : List Byte
deriving DecidableEq, Repr

structure SkState where
  nbus : Tab Nbu := []
  /-- Commands that the hub holds back from a bank, in order (05 R90). -/
  hubq : Tab (List NbuCmd) := []
  /-- Queries that wait for a bank, in arrival order (05 R98). -/
  scans : Tab (List ListScan) := []
  /-- Corrected errors of protected blocks, by stack (05 R99); no register shows them. -/
  ce : Tab Nat := []
  /-- Time of a bank's last parity error (05 R109). -/
  parity : Tab Nat := []
  /-- Blocks under conversion, as 48 * stack + block (05 R100). -/
  conv : List Nat := []
  /-- The registered rows, with the time of the last rewrite, or of the registration before the first (05 R101). -/
  tide : Tab (Option Nat) := []
  /-- Rows whose refresh fell due and was taken, by bank: refreshes (05 R103). -/
  refreshed : Tab Nat := []
  /-- Times at which a stack entered throttling (05 R112). -/
  throtAt : Tab (Option Nat) := []
  nextTok : Nat := 1
deriving DecidableEq, Repr

end Sys2Proof.Machine
end

