-- ==== Sys2Proof/Machine/StEng.lean ====
section
/-! DEFINITION. State of the quads' engines beside registers: accumulators (07), vector registers and input queues (09
R192), sketch-unit slots (09 R196) and select units (08). -/

namespace Sys2Proof.Machine

/-- A slot of a sketch unit: sketch bits, width code, threshold, query tag (09 R196). -/
structure SuSlot where
  bits : Nat
  width : Nat
  thr : Nat
  qtag : Nat
deriving DecidableEq, Repr

/-- A STREAM selection in progress (08 R163, R164): its descriptor, thread and signal, the query's tag, the semaphore
and count that end it, the hits retained as (record, distance), and whether it was resumed after a fold. -/
structure XuRun where
  d : List Byte
  t : Nat
  qtag : Nat
  endsem : Nat
  endcnt : Nat
  hits : List (Nat × Nat) := []
  resumed : Bool := false
deriving DecidableEq, Repr

/-- A select unit: hits at its port, oldest first; its STREAM; the sure and boundary groups that a fold left. -/
structure XuSt where
  port : List Nat := []
  run : Option XuRun := none
  folded : Option (List (Nat × Nat) × List (Nat × Nat)) := none
deriving DecidableEq, Repr

structure EngState where
  /-- Accumulators as codes: key 4096 * granule + index, where granule = 256 * (2 * (4q + e) + set) + number. -/
  acc : Tab Nat := []
  /-- Recorded format of a granule: 0 none yet, 1 W128, 2 FP32 (09 R186). -/
  accFmt : Tab Nat := []
  /-- Granules spilled since their last overwrite (07 R151). -/
  spilled : List Nat := []
  /-- Time of an engine's last ME_RESIDUE or ME_ACC_UE, by 4q + e. -/
  meErr : Tab Nat := []
  /-- Engines that failed and have no substitute yet, as 4q + e, with the event's code. -/
  meFailed : List (Nat × Nat) := []
  /-- Vector registers: key 32 * (8q + t) + register, 2,048 bits each. -/
  vreg : Tab Nat := []
  /-- Mask registers M1-M3: key 4 * (8q + t) + number. -/
  vmask : Tab Nat := []
  /-- Input queues of a VP: key 8q + queue. -/
  vq : Tab (List Byte) := []
  /-- Sketch-unit slots: key 8q + slot. -/
  slots : Tab (Option SuSlot) := []
  xu : Tab XuSt := []
deriving DecidableEq, Repr

end Sys2Proof.Machine
end

