-- ==== Sys2Proof/Machine/StColl.lean ====
section
/-! DEFINITION. State of the collection manager beside its registers (02, 03): collections and their generations, the delta
log of each partition, and the generations of tower weights. -/

namespace Sys2Proof.Machine

/-- One version of a stored vector (02 R16-R21, 03 R40). `seq`: sequence number of its write; `dead`: that of the applied
write that deleted it; `copy`: packed elements and block scales; `vals` and `nums`: its attributes; `dlog`: it still lies in
the delta log; `at_`: when it was applied; `cost`: the bytes it is charged, by tier of TN_TIER: its rows, its copy, its index (03
R462); `slot`: the tier object of its segment and its element there; `cut`: the cut of the fold that put it there (03 R50). -/
structure Vec where
  id : Nat
  seq : Nat
  dead : Option Nat := none
  list : Nat
  copy : List Byte
  pres : Nat
  vals : List Nat
  nums : List Nat
  sketch : Nat
  dlog : Bool := true
  at_ : Nat
  cost : List (Nat × Nat) := []
  slot : Option (Nat × Nat) := none
  cut : Nat := 0
deriving DecidableEq, Repr

/-- A segment of a list (03, Segments). `store`: the tier object of its copies, identifiers and numeric attributes, one element for
each slot; `tier`: where Haldav placed it, in TN_TIER's order; `rowObj`: the tier object of its sketch, tombstone and bitmap rows in
HBM3E, or `rows`: their local addresses in a sketch-stack bank (02 R21). -/
structure Seg where
  list : Nat
  store : Nat
  slots : Nat
  tier : Nat := 0
  rowObj : Option Nat := none
  rows : List Nat := []
deriving DecidableEq, Repr

/-- An index generation (03, Index generations): its number, descriptor (13 Table 13-7), projection matrix, centroid table and
base point, its vectors, the sketch-stack bank of each placed list, the number of segments of each list, and the segments. -/
structure Gen where
  num : Nat
  desc : List Byte
  proj : List Byte
  cent : List Byte
  base : Nat := 0
  root : Nat := 0
  vecs : List Vec := []
  bank : Tab (Option Nat) := []
  segs : Tab Nat := []
  store : List Seg := []
deriving DecidableEq, Repr

/-- A generation record, copy A or B or a staging record (03 Table 3-7). -/
structure GenRec where
  kind : Nat
  object : Nat
  gen : Nat
  seq : Nat
  base : Nat
  time : Nat
  root : Nat
  prev : Nat
deriving DecidableEq, Repr

/-- The two copies and the staging record of a collection or of a model's towers, as flash holds them: 128 bytes of 03 Table 3-7.
A copy that is no such record is invalid (03 R53). -/
structure Recs where
  a : List Byte := []
  b : List Byte := []
  staging : List Byte := []
deriving DecidableEq, Repr

/-- A SWITCH that waits for its time: its command and SWITCH_TIME (03 R54). -/
structure Switch where
  cmd : Nat
  time : Nat
deriving DecidableEq, Repr

/-- A fold (`compact = false`) or compaction of one list in progress, with its cut (03 R50); `cmd`: the COMPACT that asked. -/
structure Fold where
  list : Nat
  cut : Nat
  compact : Bool
  cmd : Option Nat := none
deriving DecidableEq, Repr

/-- The cut of a finished fold or compaction, whose old rows and entries are still to be released (03 R50). `segs`: the segments
that a compaction replaced. -/
structure Cut where
  list : Nat
  cut : Nat
  compact : Bool
  segs : List Seg := []
deriving DecidableEq, Repr

/-- A build in progress: the generation's parameters and its command (03 R51, R52). -/
structure Build where
  gen : Gen
  cmd : Nat
deriving DecidableEq, Repr

/-- A collection. `next`: the staged generation; `old`: generations replaced, with the fetch number at the switch; `dropAt`:
the drop's fetch number and the fetch number at its admission; `restoring`: its DRAM residences are being restored. -/
structure Coll where
  tenant : Nat
  part : Nat
  live : Gen
  recs : Recs := {}
  build : Option Build := none
  next : Option Gen := none
  old : List (Gen × Nat) := []
  sw : Option Switch := none
  folds : List Fold := []
  cuts : List Cut := []
  dropAt : Option (Nat × Nat) := none
  restoring : Bool := false
deriving DecidableEq, Repr

/-- A delta-log entry (03 R42, R461). `desc`: the layout its records are in; `absent`: DELETE records whose identifier was
absent; `size`: bytes it counts; `lost`: the write is lost; `costs`: what its records were charged at admission, by tier (03
R462); `news`: records that add a vector. -/
structure DEntry where
  seq : Nat
  op : Nat
  obj : Nat
  qp : Nat
  cid : Nat
  cmd : Nat
  tenant : Nat
  user : Nat
  count : Nat
  desc : List Byte
  recs : List Byte
  absent : Nat
  size : Nat
  at_ : Nat
  durable : Bool := false
  applied : Bool := false
  destaged : Bool := false
  posted : Bool := false
  lost : Bool := false
  costs : List (Nat × Nat) := []
  news : Nat := 0
deriving DecidableEq, Repr

/-- The last durable write of a queue pair since the last recovery (03 R47). -/
structure QpWrites where
  cid : Nat
  seq : Nat
deriving DecidableEq, Repr

/-- The delta log of a partition (03 Table 3-2, R41-R47). `folding`: occupancy reached 75 % and has not fallen to 50 %;
`sealed`: the seal's S once a flush wrote it; `recovered`: recovery has run since the last reset; `top`: the highest durable
sequence number; `recTop`: the number that APPLIED reaches once every recovered entry is applied (03 R47, R59). -/
structure CPart where
  next : Nat := 1
  applied : Nat := 0
  destaged : Nat := 0
  entries : List DEntry := []
  writes : Tab (Option QpWrites) := []
  folding : Bool := false
  sealed : Option Nat := none
  recovered : Bool := true
  top : Nat := 0
  recTop : Nat := 0
deriving DecidableEq, Repr

/-- The generations of a model's tower weights (03 R53, R56): the staged set, the number of the live one and the weight set of
each generation, the live one's last; `pub`: a publication is due (04 R72). -/
structure Towers where
  recs : Recs := {}
  next : Option (List Byte) := none
  live : Nat := 0
  sets : List (Nat × List Byte) := []
  pub : Bool := false
  sw : Option Switch := none
  restoring : Bool := false
deriving DecidableEq, Repr

structure CollState where
  colls : Tab (Option Coll) := []
  parts : Tab CPart := []
  towers : Tab Towers := []
  /-- Bytes charged for collections and histories: key 4 * tenant + tier (03 R462). -/
  bytes : Tab Nat := []
  /-- The same by partition: key 4 * partition + tier. -/
  pbytes : Tab Nat := []
  /-- Deferred reports that wait for a queue pair number to exist again (03 Table 3-8). -/
  defers : Tab (List (Nat × Nat)) := []
  /-- Audit queries whose exhaustive search has ended (02 R36). -/
  audits : List Nat := []
  /-- The reset for which recovery is to run: warm (`true`) or cold (03 R47). -/
  recover : Option Bool := none
  /-- The flush in progress has written its entries (03 Table 3-5). -/
  flushed : Bool := false
deriving DecidableEq, Repr

end Sys2Proof.Machine
end

