-- ==== Sys2Proof/Machine/State.lean ====
section
/-! DEFINITION. The state of the module (plain data), the reasons a step can stop, and the state after reset. -/

namespace Sys2Proof.Machine

/-- No command of this block stops the machine: every failure the spec names is an effect on the state (a status, an
event record, an abort, an ignored write). The type has no constructor: nobody raises a fault. -/
inductive Fault where
deriving DecidableEq, Repr

/-- Why a command is refused. -/
inductive Refusal where
  /-- A command whose meaning is not written: raised by its arm of exec alone; safe, since the machine stops. -/
  | notModelled (mnemonic : String)
deriving DecidableEq, Repr

/-- The module. `regs` holds every register of 18 Table 18-4 by BAR0 offset, `mem` every byte of DRAM and scratchpad
by local address (11 Table 11-1); the other groups hold what the spec gives each subsystem beside them. `pending` is
the queue of waiting commands; `svcTime` is SVC_TIME (16 R382); `fresh` counts the free values drawn; `outbox` lists
what left the module. -/
structure State where
  pending : List Instr
  regs : Tab Word
  mem : List Host.Cell
  svcTime : Nat
  fresh : Nat
  outbox : List Out
  evt : EvState
  net : NetState
  part : PartState
  trust : TrustState
  pwr : PwrState
  hw : HwState
  dbg : DbgState
  fab : FabState
  tier : TierState
  quay : QuayState
  ctl : CtlState
  arith : ArithState
  rank : RankState
  fry : FerryState
  sk : SkState
  eng : EngState
  coll : CollState
deriving DecidableEq, Repr

/-- The module right after a cold reset with its main domain up: every register at its reset value, memory wiped. -/
def State.reset : State where
  pending := []
  regs := []
  mem := []
  svcTime := 0
  fresh := 0
  outbox := []
  evt := {}
  net := {}
  part := {}
  trust := {}
  pwr := {}
  hw := {}
  dbg := {}
  fab := {}
  tier := {}
  quay := {}
  ctl := {}
  arith := {}
  rank := {}
  fry := {}
  sk := {}
  eng := {}
  coll := {}

end Sys2Proof.Machine
end

