-- ==== Sys2Proof/Machine/Ops.lean ====
section
/-! DEFINITION. The named operations over the state that every family shares: registers and their fields, event
records, interrupts, memory, the address map and the owner check. -/

namespace Sys2Proof.Machine

/-! ### Registers (18) -/

/-- The stored word of a register. -/
def State.reg (s : State) (r : Reg) : Word := tget regRstAt s.regs (regOff r)

/-- Replace the stored word of a register. -/
def State.setReg (s : State) (r : Reg) (w : Word) : State := { s with regs := tset regRstAt s.regs (regOff r) w }

/-- A field of a register. -/
def State.fld (s : State) (r : Reg) (f : Fld) : Nat := fget (s.reg r) f

/-- Replace one field of a register. -/
def State.setFld (s : State) (r : Reg) (f : Fld) (v : Nat) : State := s.setReg r (fput (s.reg r) f v)

/-- Is a one-bit field set? -/
def State.flag (s : State) (r : Reg) (f : Fld) : Bool := s.fld r f ≠ 0

/-- A hardware increment of a counter: it saturates or wraps as its field says (06, 18 R412). -/
def State.incFld (s : State) (r : Reg) (f : Fld) (n : Nat) : State :=
  s.setFld r f (if f.sat then satAdd (2 ^ f.w - 1) (s.fld r f) n else s.fld r f + n)

/-- What a meaning answers. -/
abbrev Res := Host.Outcome State Fault Refusal

/-- Service ticks in a microsecond, a millisecond and a second (16 Table 16-9: SVC is 400 MHz). -/
def tickUs : Nat := 400
def tickMs : Nat := 400000
def tickS : Nat := 400000000

/-! ### Sources (12 Table 12-6, 17 Table 17-2) -/

def srcHub (h : Nat) : Nat := 0x500 + h
def srcQuay : Nat := 0x510
def srcHost : Nat := 0x511
def srcFlash : Nat := 0x520
def srcM : Nat := 0x530
def srcT : Nat := 0x531
def srcL (l : Nat) : Nat := 0x540 + l
def srcHs (n : Nat) : Nat := 0x600 + n
def srcSk (n : Nat) : Nat := 0x610 + n
def srcGddr (d : Nat) : Nat := 0x620 + d
def srcFc (c : Nat) : Nat := 0x660 + c
def srcPort (p : Nat) : Nat := 0x680 + p
def srcDie (d : Nat) : Nat := 0x6A0 + d
/-- A quad unit: 0-3 ME, 4 VP, 5 SU, 6 XU, 8-11 ferries. -/
def srcUnit (q u : Nat) : Nat := 16 * q + u

/-- Is the source a unit of a quad? -/
def isQuadUnit (src : Nat) : Bool := src < 0x500

/-- Is the source a module agent: a hub, the quay, the F-die, the schedule loader (15 R343)? -/
def isAgent (src : Nat) : Bool :=
  (0x500 ≤ src ∧ src ≤ 0x503) ∨ src = srcQuay ∨ src = srcFlash

/-- The log number of the module log (18, event queues). -/
def modLog : Nat := 64

/-! ### Global interrupt causes (18 R421) -/

def causeHealth : Nat := 0
def causeFatal : Nat := 1
def causePwr : Nat := 2
def causeCap : Nat := 3
def causeLink : Nat := 4

/-- The field of a cause in GLB_INT. -/
def causeFld (c : Nat) : Fld := ⟨c, 1, .w1c, .none, false, 0⟩

/-- A message on GVEC is owed when GIEN = 1 and the cause is not masked. -/
def State.owe (s : State) (c : Nat) : State :=
  if s.flag .glbCtl GLB_CTL_GIEN ∧ ¬ bitAt (s.fld .glbInt GLB_INT_MASK) c then
    { s with evt := { s.evt with due := s.evt.due ++ [c] } }
  else s

/-- Hardware sets a cause bit; a message is owed when the bit goes from 0 to 1. -/
def State.setCause (s : State) (c : Nat) : State :=
  if s.flag .glbInt (causeFld c) then s else (s.setFld .glbInt (causeFld c) 1).owe c

/-- The cause that an event code raises, if any. -/
def causeOf (code : Nat) : Option Nat :=
  if code = 0x0A01 ∨ code = 0x0A02 ∨ code = 0x0A04 ∨ code = 0x0A05 then some causePwr
  else if code = 0x0A03 then some causeCap
  else if code = 0x0706 ∨ code = 0x0802 then some causeLink
  else none

/-! ### Event records (17) -/

/-- What a source keeps of its records. -/
def State.srcSt (s : State) (src : Nat) : SrcSt := tgetD {} s.evt.srcs src

def State.setSrcSt (s : State) (src : Nat) (v : SrcSt) : State :=
  { s with evt := { s.evt with srcs := tsetD {} s.evt.srcs src v } }

/-- An event is detected: its record takes the source's next SEQ and SVC_TIME and waits to be written into its log
(17 R394, R396). -/
def State.raiseRec (s : State) (log src code : Nat) (data : List Byte) : State :=
  let k := s.srcSt src
  let r : EvRec := ⟨src, code, k.seq % 2 ^ 32, s.svcTime, bytesAt data 0 16⟩
  let s := s.setSrcSt src { k with seq := (k.seq + 1) % 2 ^ 32 }
  { s with evt := { s.evt with raised := s.evt.raised ++ [(log, r)] } }

/-- An event with the global interrupt cause that it sets (18 R421). -/
def State.raise (s : State) (log src code : Nat) (data : List Byte) : State :=
  let s := s.raiseRec log src code data
  match causeOf code with
  | some c => s.setCause c
  | none => s

/-- Add to what left the module. -/
def State.emit (s : State) (o : Out) : State := { s with outbox := s.outbox ++ [o] }

/-- A free value's number: the counter is read, and `State.drew` advances it. -/
def State.drew (s : State) : State := { s with fresh := s.fresh + 1 }

/-! ### MSI-X (13 R307) -/

/-- Send vector `v`, or set its pending bit while the table masks it. -/
def State.msix (s : State) (v : Nat) : State :=
  if s.flag (.msixData v) MSIX_DATA_MASK then
    s.setReg (.msixPba (v / 64)) (BitVec.ofNat 64 (putBits (s.reg (.msixPba (v / 64))).toNat (v % 64) 1 1))
  else s.emit (.msix (s.reg (.msixAddr v)).toNat (s.fld (.msixData v) MSIX_DATA_DATA))

/-! ### Memory: the local address map (11 Table 11-1) -/

def gib : Nat := 2 ^ 30
def hbmBase : Nat := 0
def hbmSize : Nat := 36 * gib
def skBase : Nat := 0x8000000000
def skSize : Nat := 24 * gib
def gdBase : Nat := 0xC000000000
def gdSize : Nat := 36 * gib
def spBase : Nat := 0xF000000000
def spSize : Nat := 0x4000000
def regBase : Nat := 0xFF00000000
def setBase : Nat := 0xFF40000000
def clrBase : Nat := 0xFF90000000
def winBase : Nat := 0xFFE0000000
def winSize : Nat := 0x400000
def bankSize : Nat := 0x100000
def skBank : Nat := 48 * 2 ^ 20
/-- Offset of the mooring area in an E-die's scratchpad (12 R271). -/
def moorOff : Nat := 0x3FFC000

/-- Where a local address lies. -/
inductive Region where
  | hbm (n o : Nat)
  | sketch (n o : Nat)
  | gddr (h o : Nat)
  | spad (d o : Nat)
  | regs (o : Nat)
  | setAlias (o : Nat)
  | clrAlias (o : Nat)
  | window (g o : Nat)
  | unmapped
deriving DecidableEq, Repr

/-- The region of a local address (11 R239, 18 Table 18-3). -/
def regionOf (a : Nat) : Region :=
  if a < 12 * hbmSize then .hbm (a / hbmSize) (a % hbmSize)
  else if skBase ≤ a ∧ a < skBase + 8 * skSize then .sketch ((a - skBase) / skSize) ((a - skBase) % skSize)
  else if gdBase ≤ a ∧ a < gdBase + 4 * gdSize then .gddr ((a - gdBase) / gdSize) ((a - gdBase) % gdSize)
  else if spBase ≤ a ∧ a < spBase + 20 * spSize then .spad ((a - spBase) / spSize) ((a - spBase) % spSize)
  else if regBase ≤ a ∧ a < regBase + 0x4000000 then .regs (a - regBase)
  else if setBase ≤ a ∧ a < clrBase then .setAlias (a - setBase)
  else if clrBase ≤ a ∧ a < winBase then .clrAlias (a - clrBase)
  else if winBase ≤ a ∧ a < winBase + 64 * winSize then .window ((a - winBase) / winSize) ((a - winBase) % winSize)
  else .unmapped

/-- The hub that serves a DRAM or scratchpad address (11 Table 11-1, 01 Table 1-2). -/
def hubOf (a : Nat) : Option Nat :=
  match regionOf a with
  | .hbm n _ => some (n / 3)
  | .sketch n _ => some (n / 2)
  | .gddr h _ => some h
  | .spad d _ => some (d / 5)
  | _ => none

/-- The granule of an address: kind (1 banks, 2 HBM3E slices, 3 GDDR7 slices, 4 sketch-stack banks) and index
(15 Table 15-1). -/
def granuleOf (a : Nat) : Option (Nat × Nat) :=
  match regionOf a with
  | .hbm n o => some (2, 36 * n + o / gib)
  | .sketch n o => some (4, 512 * n + o / skBank)
  | .gddr h o => some (3, 36 * h + o / gib)
  | .spad d o => some (1, 64 * d + o / bankSize)
  | _ => none

/-- The first address and the size of a granule; a quad (kind 0) has no addresses. -/
def granuleSpan (kind i : Nat) : Nat × Nat :=
  match kind with
  | 1 => (spBase + (i / 64) * spSize + (i % 64) * bankSize, bankSize)
  | 2 => ((i / 36) * hbmSize + (i % 36) * gib, gib)
  | 3 => (gdBase + (i / 36) * gdSize + (i % 36) * gib, gib)
  | 4 => (skBase + (i / 512) * skSize + (i % 512) * skBank, skBank)
  | _ => (0, 0)

/-- How many granules of a kind there are. -/
def granuleCount (kind : Nat) : Nat :=
  match kind with
  | 0 => 80
  | 1 => 1280
  | 2 => 432
  | 3 => 144
  | 4 => 4096
  | _ => 0

/-- The PT_OWN word that holds a granule's owner byte (15 R367). -/
def ownReg (kind i : Nat) : Reg :=
  match kind with
  | 0 => .ptOwnQ (i / 8)
  | 1 => .ptOwnB (i / 8)
  | 2 => .ptOwnH (i / 8)
  | 3 => .ptOwnG (i / 8)
  | _ => .ptOwnS (i / 8)

/-- The owner byte of a granule. -/
def State.owner (s : State) (kind i : Nat) : Nat := bits (s.reg (ownReg kind i)).toNat (8 * (i % 8)) 8

def State.setOwner (s : State) (kind i b : Nat) : State :=
  s.setReg (ownReg kind i) (BitVec.ofNat 64 (putBits (s.reg (ownReg kind i)).toNat (8 * (i % 8)) 8 b))

/-- A granule belongs to partition `p`: neither FREE nor MODULE, and PART = p. -/
def State.owns (s : State) (p kind i : Nat) : Bool := p < 64 && s.owner kind i = p

/-- The partition of a quad, when one owns it. -/
def State.quadPart (s : State) (q : Nat) : Option Nat :=
  if s.owner 0 q < 64 then some (s.owner 0 q) else none

/-- The log of a quad's partition, or the module log. -/
def State.quadLog (s : State) (q : Nat) : Nat := (s.quadPart q).getD modLog

/-- The partition that owns an address, when one does. -/
def State.addrPart (s : State) (a : Nat) : Option Nat :=
  match granuleOf a with
  | some (k, i) => if s.owner k i < 64 then some (s.owner k i) else none
  | none => none

/-- The log of the partition that owns an address, or the module log (11 R261). -/
def State.addrLog (s : State) (a : Nat) : Nat := (s.addrPart a).getD modLog

/-- Does partition `p` own every granule that `[a, a + len)` touches? Granule sizes are multiples of the steps
taken: the check looks at one address in each MiB and at the last byte. -/
def State.ownsRange (s : State) (p a len : Nat) : Bool :=
  (s.addrPart a = some p) && (len ≤ 1 || s.addrPart (a + len - 1) = some p) &&
    (List.range (len / bankSize)).all fun k => s.addrPart (a + k * bankSize) = some p

/-! ### Bytes -/

/-- A byte that nothing has written since its last wipe reads 0: DRAM and scratchpads are wiped to zeros before they
serve (15 Table 15-2, 15-7, 16 Table 16-12). -/
def memDefault : Nat → Byte := fun _ => 0#8

/-- The canonical form of memory. -/
def memWf (m : List Host.Cell) : Bool := twf memDefault m

/-- Read one byte. -/
def memByte (m : List Host.Cell) (a : Nat) : Byte := tget memDefault m a

/-- Write one byte. -/
def memPut (m : List Host.Cell) (a : Nat) (b : Byte) : List Host.Cell := tset memDefault m a b

/-- Read `n` bytes. -/
def memRead (m : List Host.Cell) (a : Nat) : Nat → List Byte
  | 0 => []
  | n + 1 => memByte m a :: memRead m (a + 1) n

/-- Write bytes at rising addresses. -/
def memWrite (m : List Host.Cell) (a : Nat) : List Byte → List Host.Cell
  | [] => m
  | b :: bs => memWrite (memPut m a b) (a + 1) bs

/-- Set every byte of `[a, a + n)` to 0. -/
def memWipe (m : List Host.Cell) (a n : Nat) : List Host.Cell := tclear (fun k => a ≤ k && k < a + n) m

def State.rd (s : State) (a n : Nat) : List Byte := memRead s.mem a n
def State.wr (s : State) (a : Nat) (bs : List Byte) : State := { s with mem := memWrite s.mem a bs }
/-- Every byte whose address satisfies `p` reads 0 again. -/
def State.clearMem (s : State) (p : Nat → Bool) : State := { s with mem := tclear p s.mem }
def State.wipe (s : State) (a n : Nat) : State := { s with mem := memWipe s.mem a n }
/-- A little-endian number of `n` bytes of memory. -/
def State.rdLE (s : State) (a n : Nat) : Nat := ofLE (s.rd a n)

/-! ### Scratchpad banks (12 R267, R268) -/

/-- The SPAD_PWR field of bank `b` of E-die `d`. -/
def spadReg (d b : Nat) : Reg := if b < 32 then .spadPwr0 d else .spadPwr1 d
def spadFld (b : Nat) : Fld := ⟨2 * (b % 32), 2, .rw, .none, false, 0⟩

/-- State of a bank: 0 ON, 1 RET, 2 OFF (12 Table 12-1). -/
def State.bankSt (s : State) (d b : Nat) : Nat := s.fld (spadReg d b) (spadFld b)

/-- Does the bank serve accesses? One that is OFF, or in its OFF-to-ON wipe, refuses with "domain off"; so does every bank of
an E-die that left service (17 Table 17-5; the refusal's name: DESIGN CHOICE, log entry 76). -/
def State.bankServes (s : State) (d b : Nat) : Bool :=
  s.bankSt d b ≠ 2 && !(s.net.onWipe.contains (64 * d + b)) && !(s.pwr.diesLost.contains d)

/-- An access reaches a bank: one in RET wakes to ON and counts WAKES (12 Table 12-2). -/
def State.wakeBank (s : State) (d b : Nat) : State :=
  if s.bankSt d b = 1 then (s.setFld (spadReg d b) (spadFld b) 0).incFld (.spadStat d) SPAD_STAT_WAKES 1 else s

/-- An access to a scratchpad byte: the bank wakes, or the refusal "domain off" is counted. -/
def State.touchSpad (s : State) (d o : Nat) : State × Bool :=
  let b := o / bankSize
  if s.bankServes d b then (s.wakeBank d b, true) else (s.incFld (.spadStat d) SPAD_STAT_DOMOFF 1, false)

/-- The same for any address: DRAM always serves. -/
def State.touch (s : State) (a : Nat) : State × Bool :=
  match regionOf a with
  | .spad d o => s.touchSpad d o
  | _ => (s, true)

/-! ### Lost memory (11 R245) -/

/-- The channel of an HBM3E offset (11 R240). -/
def hbmChannel (o : Nat) : Nat := (bits o 8 5 ^^^ bits o 13 5) / 2
/-- The GDDR7 device of an offset of a hub's region. -/
def gddrDev (h o : Nat) : Nat := 12 * h + (o / 256) % 12

/-- Is the byte lost with its channel, stack or device? -/
def State.byteLost (s : State) (a : Nat) : Bool :=
  match regionOf a with
  | .hbm n o => s.tier.failed.contains n || bitAt (s.fld (.memHstat n) MEM_HSTAT_CHFAIL) (hbmChannel o)
  | .gddr h o => s.flag (.memGstat (gddrDev h o)) MEM_GSTAT_FAILED
  | .sketch n _ => s.tier.failed.contains (64 + n)
  | _ => false

/-- Is some byte of the range lost? Blocks of 256 bytes lie whole in a channel or device (11 R240). -/
def State.lostIn (s : State) (a n : Nat) : Bool :=
  (List.range ((a + n - 1) / 256 - a / 256 + 1)).any fun k => s.byteLost (max a (256 * (a / 256 + k)))

/-! ### Semaphores (09 R178, R215) -/

/-- Semaphore `j` of quad `q`. -/
def semFld (j : Nat) : Fld := ⟨16 * (j % 4), 16, .lck, .quad, false, 0⟩
def semReg (q j : Nat) : Reg := .semVal (64 * q + j / 4)
def State.sem (s : State) (q j : Nat) : Nat := s.fld (semReg q j) (semFld j)
def State.setSem (s : State) (q j v : Nat) : State := s.setFld (semReg q j) (semFld j) v

/-- The instance that a quad belongs to (09 R215: 0x7F for none). -/
def State.quadInst (s : State) (q : Nat) : Option Nat :=
  let i := s.fld (.schQuad q) SCH_QUAD_INST
  if i = 0x7F then none else some i

/-- Plan instance `i`. -/
def State.inst (s : State) (i : Nat) : Option Inst := (tgetO s.ctl.insts i).join
def State.setInst (s : State) (i : Nat) (v : Option Inst) : State :=
  { s with ctl := { s.ctl with insts := tsetD none s.ctl.insts i v } }
def State.mapInst (s : State) (i : Nat) (f : Inst → Inst) : State :=
  match s.inst i with
  | some v => s.setInst i (some (f v))
  | none => s

/-! ### Life-cycle states (15 Table 15-5) -/

def lcManufacturing : Nat := 0
def lcDevelopment : Nat := 1
def lcProduction : Nat := 2
def lcReturn : Nat := 3
def lcRetired : Nat := 4
def State.lc (s : State) : Nat := s.fld .lcStat LC_STAT_STATE

/-- PRT_CTL.ALLOW: 1 only in Manufacturing and Development (18 R425). -/
def State.prtAllow (s : State) : Bool := s.lc = lcManufacturing || s.lc = lcDevelopment

/-! ### Partitions (15) -/

def State.ptState (s : State) (p : Nat) : Nat := s.fld (.ptCfg p) PT_CFG_STATE
/-- The partition is ON. -/
def State.partOn (s : State) (p : Nat) : Bool := s.ptState p = 1

/-- A tenant is enabled and belongs to the partition (15 R352). -/
def State.tenantOk (s : State) (t p : Nat) : Bool :=
  s.flag (.tnCfg t) TN_CFG_EN && s.fld (.tnCfg t) TN_CFG_PART = p

/-! ### Locks (18 Table 18-2) -/

def State.lockOpen (s : State) (r : Reg) (k : LockKind) : Bool :=
  match k with
  | .none => true
  | .pt => s.flag .ptLock PT_LOCK_OPEN
  | .fab => s.flag .fabLock FAB_LOCK_OPEN
  | .quad => match r with
    | .semVal n => (s.quadInst (n / 64)).isNone
    | _ => false
  | .pool => !(s.flag r POOL_CFG_EN)
  | .tenant => s.flag .ptLock PT_LOCK_OPEN && !(s.flag r TN_CFG_EN)
  | .life => s.prtAllow

/-- One field of a software write, by its access type (18 Table 18-1): `f` is written only when the write holds it
whole. -/
def writeFld (lockOk : LockKind → Bool) (mask v : Nat) (old : Word) (f : Fld) : Word :=
  if fhit mask f then
    let x := bits v f.lo f.w
    match f.acc with
    | .rw => fput old f x
    | .cnt => fput old f x
    | .lck => if lockOk f.lock then fput old f x else old
    | .w1c => fput old f (bits old.toNat f.lo f.w &&& (2 ^ f.w - 1 - x))
    | .w1s => fput old f (bits old.toNat f.lo f.w ||| x)
    | .ro => old
    | .wo => old
    | .rc => old
    | .stk => old
  else old

/-- Every field of a software write (18 R410, R412, R415). -/
def writeFlds (lockOk : LockKind → Bool) (mask v : Nat) : List Fld → Word → Word
  | [], w => w
  | f :: fs, w => writeFlds lockOk mask v fs (writeFld lockOk mask v w f)

/-- The bits an access covers. -/
def halfMask : Half → Nat
  | .whole => 2 ^ 64 - 1
  | .low => 2 ^ 32 - 1
  | .high => 2 ^ 64 - 2 ^ 32

/-- The word that an access of a half presents: a 4-byte write of the high half lies in bits 63-32. -/
def halfVal (h : Half) (v : Nat) : Nat :=
  match h with
  | .whole => v % 2 ^ 64
  | .low => v % 2 ^ 32
  | .high => (v % 2 ^ 32) * 2 ^ 32

/-- A write that takes effect by access types alone. -/
def State.plainWrite (s : State) (r : Reg) (h : Half) (v : Nat) : State :=
  s.setReg r (writeFlds (s.lockOpen r) (halfMask h) (halfVal h v) (regFields r) (s.reg r))

/-- The fields of a register that a write of this half would change, with the value written. -/
def wrote (h : Half) (f : Fld) : Bool := fhit (halfMask h) f
def wval (h : Half) (v : Nat) (f : Fld) : Nat := bits (halfVal h v) f.lo f.w

/-- Is the L-die of port `p` out of service: with its hub, or on its own (01 Table 1-3, 17 Table 17-5)? -/
def State.linkGone (s : State) (p : Nat) : Bool :=
  !(bitAt (s.fld .fltHealth FLT_HEALTH_HUBS) (p / 4)) || s.pwr.pllLost.contains (srcL (p / 4))

/-- PWRGD: the rails are up, and stay up until a flush has written its seal (16 R371, R372). -/
def State.pwrGood (s : State) : Bool := s.pwr.phase = .up || s.pwr.phase = .flushing true || s.pwr.phase = .flushing false

/-- A register write, or what else reaches the main domain over the service network, happens while the rails are up. -/
def State.onBus (s : State) (f : State → State) : State := if s.pwrGood then f s else s

/-! ### Aborting events (09 R204, R205) -/

/-- An aborting event: the instance's units stop issuing at once (SCH_INST.ABORTING), and INSTANCE_ABORT carries the
abort through. A second event of an instance that is already aborting adds nothing. -/
def State.startAbort (s : State) (inst cause : Nat) : State :=
  if s.flag (.schInst inst) SCH_INST_RUN && !(s.flag (.schInst inst) SCH_INST_ABORTING) then
    let s := s.setFld (.schInst inst) SCH_INST_ABORTING 1
    { s with ctl := { s.ctl with aborting := s.ctl.aborting ++ [{ inst, cause, time := s.svcTime }] } }
  else s

/-- An event of a unit of quad `q` that aborts the instance the quad belongs to; the record goes to the log of the
quad's partition (09 Table 9-11). -/
def State.quadFault (s : State) (q src code : Nat) (data : List Byte) : State :=
  let s := s.raise (s.quadLog q) src code data
  match s.quadInst q with
  | some i => s.startAbort i code
  | none => s

/-- ADDR (0x0306) at the requester of a refused access (09 Table 9-11, 15 R344): a quad unit's instance aborts; any
other requester gets the refusal. -/
def State.addrFault (s : State) (src a : Nat) : State :=
  if isQuadUnit src then s.quadFault (src / 16) src 0x0306 [] else s.emit (.refusal src a 3)

/-- An access refused with "domain off" by a unit that is no ferry raises ADDR (12 R268); other requesters get the
refusal. -/
def State.domainOff (s : State) (src a : Nat) : State :=
  if isQuadUnit src then s.quadFault (src / 16) src 0x0306 [] else s.emit (.refusal src a 1)

/-- May the requester reach this DRAM or scratchpad byte (15 R344, 13 Table 13-3)? A quad unit reaches its quad's
partition; module agents reach every granule; the host reaches what its BAR2 window gives; an L-die's requests were
checked against DPART when they arrived (14 R321). -/
def State.mayReach (s : State) (src a : Nat) : Bool :=
  if isQuadUnit src then
    match s.quadPart (src / 16), s.addrPart a with
    | some p, some o => p = o
    | _, _ => false
  else if src = srcHost then
    match s.addrPart a with
    | some o => s.flag .qwWin QW_WIN_ALL || s.fld .qwWin QW_WIN_PART = o
    | none => false
  else if isAgent src ∨ (0x540 ≤ src ∧ src ≤ 0x543) then (granuleOf a).isSome
  else false

/-- A fault of code `code` affects partition `p`, from now on; a second one before the partition resumes starts the recovery
again (17 R402, R405). -/
def State.affect (s : State) (p code : Nat) : State :=
  { s with pwr := { s.pwr with recov := s.pwr.recov.filter (fun (r : Recovery) => r.part ≠ p) ++ [⟨p, s.svcTime, code⟩] } }

/-- The partitions that own one of `n` granules of a kind from the `lo`-th on. -/
def State.ownersOf (s : State) (kind lo n : Nat) : List Nat := (((rangeFrom lo n).map (s.owner kind)).filter (· < 64)).eraseDups

def State.affectAll (s : State) (ps : List Nat) (code : Nat) : State := ps.foldl (fun s p => s.affect p code) s

/-- The mixing function of 06 R129: the SplitMix64 finaliser, modulo 2^64. -/
def mix64 (z : Nat) : Nat :=
  let m := 2 ^ 64
  let z := (z + 0x9E3779B97F4A7C15) % m
  let z := ((z ^^^ (z >>> 30)) * 0xBF58476D1CE4E5B9) % m
  let z := ((z ^^^ (z >>> 27)) * 0x94D049BB133111EB) % m
  z ^^^ (z >>> 31)

end Sys2Proof.Machine
end

