-- ==== Sys2Proof/Machine/Float.lean ====
section
/-! DEFINITION. Arithmetic (06): element formats, scales, exact values, W128 sums, conversions with their rounding,
IEEE operations of the vector processors and the hubs, and vp_exp and vp_tanh. Every operation computes an exact
value over integers and narrows once. -/

namespace Sys2Proof.Machine

/-! ### Exact values -/

/-- A value: NaN, an infinity, or (-1)^neg * m * 2^e, with a sign for zero. -/
inductive FV where
  | nan
  | inf (neg : Bool)
  | fin (neg : Bool) (m : Nat) (e : Int)
deriving DecidableEq, Repr

def FV.zero : FV := .fin false 0 0
def FV.isNan : FV → Bool
  | .nan => true
  | _ => false
def FV.isInf : FV → Bool
  | .inf _ => true
  | _ => false
def FV.isZero : FV → Bool
  | .fin _ m _ => m = 0
  | _ => false
def FV.neg? : FV → Bool
  | .nan => false
  | .inf n => n
  | .fin n _ _ => n
def FV.negate : FV → FV
  | .nan => .nan
  | .inf n => .inf (!n)
  | .fin n m e => .fin (!n) m e
def FV.abs : FV → FV
  | .nan => .nan
  | .inf _ => .inf false
  | .fin _ m e => .fin false m e

/-- The signed integer of a finite value over `2^e`, for `e` at or below its own exponent. -/
def signed (neg : Bool) (n : Nat) : Int := if neg then -(n : Int) else (n : Int)
def overExp (neg : Bool) (m : Nat) (e e0 : Int) : Int := signed neg (m * 2 ^ (e - e0).toNat)

/-- An integer times `2^e`; a zero takes the sign given. -/
def FV.ofInt (i : Int) (e : Int) (zneg : Bool := false) : FV := .fin (if i = 0 then zneg else decide (i < 0)) i.natAbs e

/-- Exact sum; opposite infinities give NaN; a zero sum is negative only when both addends are (06 Table 6-4, IEEE
754 in RNE). -/
def FV.add : FV → FV → FV
  | .nan, _ => .nan
  | _, .nan => .nan
  | .inf a, .inf b => if a = b then .inf a else .nan
  | .inf a, _ => .inf a
  | _, .inf b => .inf b
  | .fin na ma ea, .fin nb mb eb =>
    let e := min ea eb
    FV.ofInt (overExp na ma ea e + overExp nb mb eb e) e (na && nb)

/-- Exact product; infinity times zero is NaN. -/
def FV.mul : FV → FV → FV
  | .nan, _ => .nan
  | _, .nan => .nan
  | .inf a, .inf b => .inf (a != b)
  | .inf a, .fin n m _ => if m = 0 then .nan else .inf (a != n)
  | .fin n m _, .inf b => if m = 0 then .nan else .inf (n != b)
  | .fin na ma ea, .fin nb mb eb => .fin (na != nb) (ma * mb) (ea + eb)

/-- Division to enough bits, with a sticky bit: correct for one rounding to any format of this module. -/
def FV.div : FV → FV → FV
  | .nan, _ => .nan
  | _, .nan => .nan
  | .inf _, .inf _ => .nan
  | .inf a, .fin n _ _ => .inf (a != n)
  | .fin n _ _, .inf b => .fin (n != b) 0 0
  | .fin na ma ea, .fin nb mb eb =>
    if mb = 0 then (if ma = 0 then .nan else .inf (na != nb))
    else if ma = 0 then .fin (na != nb) 0 0
    else
      let k := mb.log2 + 70
      let q := (ma * 2 ^ k) / mb
      let r := (ma * 2 ^ k) % mb
      .fin (na != nb) (2 * q + (if r = 0 then 0 else 1)) (ea - eb - k - 1)

/-- The integer square root, by bits from the top. -/
def isqrtFrom (n : Nat) : Nat → Nat → Nat
  | 0, r => r
  | k + 1, r => let t := r + 2 ^ k; isqrtFrom n k (if t * t ≤ n then t else r)
def isqrt (n : Nat) : Nat := isqrtFrom n (n.log2 / 2 + 1) 0

/-- Square root with a sticky bit; of a negative number NaN, of a zero that zero. -/
def FV.sqrt : FV → FV
  | .nan => .nan
  | .inf n => if n then .nan else .inf false
  | .fin n m e =>
    if m = 0 then .fin n 0 0
    else if n then .nan
    else
      let k : Nat := 140 + (if e % 2 = 0 then 0 else 1)
      let v := m * 2 ^ k
      let q := isqrt v
      .fin false (2 * q + (if q * q = v then 0 else 1)) ((e - k) / 2 - 1)

/-- Order of two values other than NaN: is `a < b`? Zeros are equal. -/
def FV.lt : FV → FV → Bool
  | .nan, _ => false
  | _, .nan => false
  | .inf a, .inf b => a && !b
  | .inf a, _ => a
  | _, .inf b => !b
  | .fin na ma ea, .fin nb mb eb =>
    let e := min ea eb
    decide (overExp na ma ea e < overExp nb mb eb e)
def FV.eq : FV → FV → Bool
  | .nan, _ => false
  | _, .nan => false
  | a, b => !(a.lt b) && !(b.lt a)
def FV.le (a b : FV) : Bool := a.lt b || a.eq b

/-! ### Formats (06 R115, Table 6-1) -/

inductive Fm where
  | int4 | int8 | e2m1 | e2m3 | e3m2 | e4m3 | e5m2 | bf16 | fp16 | fp32 | fp64
deriving DecidableEq, Repr

/-- 09 Table 9-5. -/
def fmOf : Nat → Option Fm
  | 0 => some .int4
  | 1 => some .int8
  | 2 => some .e2m1
  | 3 => some .e2m3
  | 4 => some .e3m2
  | 5 => some .e4m3
  | 6 => some .e5m2
  | 7 => some .bf16
  | 8 => some .fp16
  | 9 => some .fp32
  | _ => none

def Fm.width : Fm → Nat
  | .int4 => 4
  | .int8 => 8
  | .e2m1 => 4
  | .e2m3 => 6
  | .e3m2 => 6
  | .e4m3 => 8
  | .e5m2 => 8
  | .bf16 => 16
  | .fp16 => 16
  | .fp32 => 32
  | .fp64 => 64

/-- Exponent bits, mantissa bits, bias; an integer format has none. -/
def Fm.shape : Fm → Nat × Nat × Nat
  | .int4 => (0, 0, 0)
  | .int8 => (0, 0, 0)
  | .e2m1 => (2, 1, 1)
  | .e2m3 => (2, 3, 1)
  | .e3m2 => (3, 2, 3)
  | .e4m3 => (4, 3, 7)
  | .e5m2 => (5, 2, 15)
  | .bf16 => (8, 7, 127)
  | .fp16 => (5, 10, 15)
  | .fp32 => (8, 23, 127)
  | .fp64 => (11, 52, 1023)

def Fm.isInt (f : Fm) : Bool := f = .int4 || f = .int8
/-- Has the format infinities? -/
def Fm.hasInf (f : Fm) : Bool := f = .e5m2 || f = .bf16 || f = .fp16 || f = .fp32 || f = .fp64
/-- Has the format a NaN? -/
def Fm.hasNan (f : Fm) : Bool := f.hasInf || f = .e4m3
/-- Bytes of `n` packed elements (06 R116): a row of FP6 fills 3-byte groups. -/
def Fm.bytes (f : Fm) (n : Nat) : Nat := if f.width = 6 then 3 * ceilDiv n 4 else ceilDiv (n * f.width) 8

/-- The canonical NaN of a format (06 Table 6-5, R130). -/
def Fm.nan : Fm → Nat
  | .e4m3 => 0x7F
  | .e5m2 => 0x7F
  | .bf16 => 0x7FC0
  | .fp16 => 0x7E00
  | .fp32 => 0x7FC00000
  | .fp64 => 0x7FF8000000000000
  | _ => 0

/-- The value of an element. -/
def Fm.val (f : Fm) (x : Nat) : FV :=
  if f.isInt then FV.ofInt (sext f.width x) 0
  else
    let (ew, mw, bias) := f.shape
    let n := bitAt x (ew + mw)
    let ex := bits x mw ew
    let mt := bits x 0 mw
    if f.hasInf ∧ ex = 2 ^ ew - 1 then (if mt = 0 then .inf n else .nan)
    else if f = .e4m3 ∧ ex = 15 ∧ mt = 7 then .nan
    else if ex = 0 then .fin n mt (1 - bias - mw)
    else .fin n (2 ^ mw + mt) ((ex : Int) - bias - mw)

/-- The largest finite magnitude of a float format as mantissa and exponent. -/
def Fm.maxFin (f : Fm) : Nat × Int :=
  let (ew, mw, bias) := f.shape
  if f = .e4m3 then (14, 5)
  else if f.hasInf then (2 ^ (mw + 1) - 1, (2 ^ ew - 2 : Int) - bias - mw)
  else (2 ^ (mw + 1) - 1, (2 ^ ew - 1 : Int) - bias - mw)

/-! ### Rounding -/

/-- A rounding mode: to nearest even, or stochastic with the element's 24-bit generator value (06 R126, R128). -/
inductive RMode where
  | rne
  | sr (r : Nat)
deriving DecidableEq, Repr

/-- `m * 2^k` rounded to the nearest integer, ties to even. -/
def rneShift (m : Nat) (k : Int) : Nat :=
  if 0 ≤ k then m * 2 ^ k.toNat
  else
    let d := 2 ^ (-k).toNat
    let q := m / d
    let r := m % d
    if 2 * r < d ∨ (2 * r = d ∧ q % 2 = 0) then q else q + 1

/-- The signed value `±m * 2^k` rounded by a mode to an integer: SR takes the upper neighbour when the generator value
lies below the fraction (06 R128). -/
def roundInt (mode : RMode) (neg : Bool) (m : Nat) (k : Int) : Int :=
  match mode with
  | .rne => signed neg (rneShift m k)
  | .sr r =>
    if 0 ≤ k then signed neg (m * 2 ^ k.toNat)
    else
      let d := 2 ^ (-k).toNat
      let q := m / d
      let rem := m % d
      if rem = 0 then signed neg q
      else if neg then
        let rho := ((d - rem) * 2 ^ 24) / d
        if r < rho then -(q : Int) else -((q : Int) + 1)
      else
        let rho := (rem * 2 ^ 24) / d
        if r < rho then (q : Int) + 1 else (q : Int)

/-- The exponent of the grid of a float format at a magnitude `m * 2^e`. -/
def Fm.grid (f : Fm) (m : Nat) (e : Int) : Int :=
  let (_, mw, bias) := f.shape
  max ((m.log2 : Int) + e - mw) (1 - bias - mw)

/-- A value rounded to a float format's grid, unbounded above: integer and exponent. -/
def Fm.round (f : Fm) (mode : RMode) (neg : Bool) (m : Nat) (e : Int) : Int × Int :=
  let g := f.grid m e
  (roundInt mode neg m (e - g), g)

/-- The code of a magnitude `q * 2^g` that lies on the format's grid and in its range. -/
def Fm.enc (f : Fm) (neg : Bool) (q : Nat) (g : Int) : Nat :=
  let (ew, mw, bias) := f.shape
  let s := if neg then 2 ^ (ew + mw) else 0
  if q = 0 then s
  else
    let q1 := if 2 ^ (mw + 1) ≤ q then q / 2 else q
    let g1 := if 2 ^ (mw + 1) ≤ q then g + 1 else g
    let ex := if q1 < 2 ^ mw then 0 else (g1 + bias + mw).toNat
    s + ex * 2 ^ mw + q1 % 2 ^ mw

def Fm.infCode (f : Fm) (neg : Bool) : Nat :=
  let (ew, mw, _) := f.shape
  (if neg then 2 ^ (ew + mw) else 0) + (2 ^ ew - 1) * 2 ^ mw

/-- Is `q * 2^g` beyond the largest finite value of a float format? -/
def Fm.beyond (f : Fm) (q : Nat) (g : Int) : Bool :=
  let (m, e) := f.maxFin
  let x := min g e
  decide (m * 2 ^ (e - x).toNat < q * 2 ^ (g - x).toNat)

/-- IEEE narrowing (06 R130, 11 Table 11-7): overflow gives an infinity, a NaN the canonical one. -/
def Fm.ieee (f : Fm) (v : FV) : Nat :=
  match v with
  | .nan => f.nan
  | .inf n => f.infCode n
  | .fin n m e =>
    if m = 0 then f.enc n 0 0
    else
      let (i, g) := f.round .rne n m e
      if f.beyond i.natAbs g then f.infCode n else f.enc n i.natAbs g

/-- IEEE operations on codes. -/
def Fm.fadd (f : Fm) (a b : Nat) : Nat := f.ieee ((f.val a).add (f.val b))
def Fm.fsub (f : Fm) (a b : Nat) : Nat := f.ieee ((f.val a).add (f.val b).negate)
def Fm.fmul (f : Fm) (a b : Nat) : Nat := f.ieee ((f.val a).mul (f.val b))
def Fm.fma (f : Fm) (a b c : Nat) : Nat := f.ieee (((f.val a).mul (f.val b)).add (f.val c))
def Fm.fdiv (f : Fm) (a b : Nat) : Nat := f.ieee ((f.val a).div (f.val b))
def Fm.fsqrt (f : Fm) (a : Nat) : Nat := f.ieee (f.val a).sqrt

/-! ### Conversions (06 R126, Table 6-5) -/

/-- What conversions count: SAT, NANZ, SCLAMP (06 R131). -/
structure Cnt where
  sat : Nat := 0
  nanz : Nat := 0
  sclamp : Nat := 0
deriving DecidableEq, Repr

def Cnt.add (a b : Cnt) : Cnt := ⟨a.sat + b.sat, a.nanz + b.nanz, a.sclamp + b.sclamp⟩
def Cnt.total (a : Cnt) : Nat := a.sat + a.nanz + a.sclamp

/-- The largest finite code of a format, by sign. -/
def Fm.top (f : Fm) (neg : Bool) : Nat :=
  if f.isInt then (if neg then 2 ^ (f.width - 1) else 2 ^ (f.width - 1) - 1)
  else
    let (m, e) := f.maxFin
    f.enc neg m e

/-- One conversion to format `f`. `fromFloat`: the source is a float format, so zeros keep their sign; from W128
every zero result is +0. -/
def Fm.conv (f : Fm) (mode : RMode) (fromFloat : Bool) (v : FV) : Nat × Cnt :=
  match v with
  | .nan => if f.hasNan then (f.nan, {}) else (0, { nanz := 1 })
  | .inf n => if f.hasInf then (f.infCode n, {}) else (f.top n, { sat := 1 })
  | .fin n m e =>
    if f.isInt then
      let i := roundInt mode n m e
      let hi : Int := 2 ^ (f.width - 1)
      if i < -hi ∨ hi ≤ i then (f.top (i < 0), { sat := 1 }) else (toTwos f.width i, {})
    else if m = 0 then (f.enc (fromFloat && n) 0 0, {})
    else
      let (i, g) := f.round mode n m e
      if f.beyond i.natAbs g then (f.top n, { sat := 1 })
      else if i = 0 then (f.enc (fromFloat && n) 0 0, {})
      else (f.enc n i.natAbs g, {})

/-! ### Block scales (06 R117, R118, R127) -/

/-- A scale byte: format 0 none, 1 E8M0, 2 E4M3; with a count of 1 when it was clamped. -/
def scaleVal (fmt x : Nat) : FV × Cnt :=
  match fmt with
  | 1 =>
    let e := x % 256
    if e = 255 then (.nan, {})
    else if e < 111 then (.fin false 1 (-16), { sclamp := 1 })
    else if 143 < e then (.fin false 1 16, { sclamp := 1 })
    else (.fin false 1 ((e : Int) - 127), {})
  | 2 => (Fm.e4m3.val x, {})
  | _ => (.fin false 1 0, {})

/-- EMAX of R127. -/
def Fm.emax : Fm → Int
  | .e2m1 => 2
  | .e2m3 => 2
  | .e3m2 => 4
  | .e4m3 => 8
  | .e5m2 => 15
  | .int8 => 6
  | .int4 => 2
  | _ => 0

/-- The larger magnitude; NaN wins. -/
def FV.amax (a b : FV) : FV :=
  if a.isNan || b.isNan then .nan else if a.abs.lt b.abs then b.abs else a.abs

/-- The block scale of R127 as its exponent `s`, with the count of a clamp. -/
def blockScale (f : Fm) (vs : List FV) : Int × Cnt :=
  match vs.foldl FV.amax FV.zero with
  | .nan => (16, {})
  | .inf _ => (16, {})
  | .fin _ m e =>
    if m = 0 then (0, {})
    else
      let s := (m.log2 : Int) + e - f.emax
      if s < -16 then (-16, { sclamp := 1 }) else if 16 < s then (16, { sclamp := 1 }) else (s, {})

/-- A value times `2^k`. -/
def FV.scale2 (v : FV) (k : Int) : FV :=
  match v with
  | .fin n m e => .fin n m (e + k)
  | w => w

/-! ### Packed elements (06 R116) -/

/-- Element `i` of packed bytes. -/
def Fm.elem (f : Fm) (bs : List Byte) (i : Nat) : Nat :=
  if f.width = 4 then bits (leAt bs (i / 2) 1) (4 * (i % 2)) 4
  else if f.width = 6 then bits (leAt bs (3 * (i / 4)) 3) (6 * (i % 4)) 6
  else leAt bs (i * (f.width / 8)) (f.width / 8)

/-- The first `n` elements of packed bytes. -/
def Fm.elems (f : Fm) (bs : List Byte) (n : Nat) : List Nat := (List.range n).map (f.elem bs)

/-- Codes packed from a byte boundary. -/
def Fm.pack (f : Fm) (codes : List Nat) : List Byte :=
  let step : Nat × Nat → Nat → Nat × Nat := fun p c => (p.1 + c % 2 ^ f.width * 2 ^ p.2, p.2 + f.width)
  if f.width = 4 ∨ f.width = 6 then leBytes (f.bytes codes.length) (codes.foldl step (0, 0)).1
  else codes.flatMap fun c => leBytes (f.width / 8) c

/-! ### W128 (06 R120, R121, Tables 6-3, 6-4) -/

inductive WV where
  | nan
  | inf (neg : Bool)
  | fin (n : Int)
deriving DecidableEq, Repr

def wMax : Int := 2 ^ 127 - 2

def wOf (w : Word128) : WV :=
  let n := w.toNat
  if n = 2 ^ 127 - 1 then .inf false
  else if n = 2 ^ 127 + 1 then .inf true
  else if n = 2 ^ 127 then .nan
  else .fin (if n < 2 ^ 127 then (n : Int) else (n : Int) - 2 ^ 128)

def WV.code : WV → Word128
  | .nan => BitVec.ofNat 128 (2 ^ 127)
  | .inf n => BitVec.ofNat 128 (if n then 2 ^ 127 + 1 else 2 ^ 127 - 1)
  | .fin n => BitVec.ofInt 128 n

/-- An exact number of units of 2^-64; one beyond the finite range is an infinity. -/
def WV.ofUnits (n : Int) : WV := if wMax < n then .inf false else if n < -wMax then .inf true else .fin n

/-- 06 Table 6-4. -/
def WV.add : WV → WV → WV
  | .nan, _ => .nan
  | _, .nan => .nan
  | .inf a, .inf b => if a = b then .inf a else .nan
  | .inf a, .fin _ => .inf a
  | .fin _, .inf b => .inf b
  | .fin a, .fin b => WV.ofUnits (a + b)

/-- The value of a W128 number. -/
def WV.val : WV → FV
  | .nan => .nan
  | .inf n => .inf n
  | .fin n => FV.ofInt n (-64)

/-- A value on the W128 grid, rounded to nearest even (exact for every product of the exact path). -/
def WV.ofFV : FV → WV
  | .nan => .nan
  | .inf n => .inf n
  | .fin n m e => WV.ofUnits (signed n (rneShift m (e + 64)))

def w128Add (a b : Word128) : Word128 := ((wOf a).add (wOf b)).code

/-- One run of the chunked path (06 R124). -/
def chunkRun (ps : List FV) : WV :=
  if ps.any (fun p => p.isNan || p.isInf) then
    (ps.filter fun p => p.isNan || p.isInf).foldl (fun a p => a.add (WV.ofFV p)) (.fin 0)
  else
    let nz := ps.filter fun p => !p.isZero
    match nz with
    | [] => .fin 0
    | p :: rest =>
      let lg : FV → Int := fun p => match p with
        | .fin _ m e => (m.log2 : Int) + e
        | _ => 0
      let emax := rest.foldl (fun a p => max a (lg p)) (lg p)
      let g := emax - 54
      let w : Int := nz.foldl (fun a p => match p with
        | .fin n m e => a + signed n (rneShift m (e - g))
        | _ => a) 0
      WV.ofFV (FV.ofInt w g)

/-! ### Conversion counters (06 R131-R134) -/

/-- The counter set of a quad (0-79) or a hub (80 + h): configuration, status, window count. -/
def cvtCfg (k : Nat) : Reg := if k < 80 then .cvtSatcfg k else .hcvtSatcfg (k - 80)
def cvtStat (k : Nat) : Reg := if k < 80 then .cvtSatstat k else .hcvtSatstat (k - 80)
def cvtWin (k : Nat) : Reg := if k < 80 then .cvtWincnt k else .hcvtWincnt (k - 80)

/-- The CVT_SATCFG word in effect: a written word waits for the next window (06 R132). -/
def State.cvtNow (s : State) (k : Nat) : Word := tgetD (regRst (.cvtSatcfg 0)) s.arith.cvtNow k

/-- CVT_WINDOW_RESTART: once WINDOW µs have passed, the window count is cleared, the written configuration takes
effect and a new window starts (06 R131, R132). While WINDOW = 0 in effect no window runs, and a written word takes
effect at this command (DESIGN CHOICE, log entry 3). -/
def State.cvtRestart (s : State) (k : Nat) : State :=
  let w := fget (s.cvtNow k) CVT_SATCFG_WINDOW
  if tgetD 0 s.arith.cvtStart k + w * tickUs ≤ s.svcTime then
    let s := s.setFld (cvtWin k) CVT_WINCNT_WCOUNT 0
    { s with arith := { s.arith with
        cvtStart := tsetD 0 s.arith.cvtStart k s.svcTime,
        cvtNow := tsetD (regRst (.cvtSatcfg 0)) s.arith.cvtNow k (s.reg (cvtCfg k)) } }
  else s

/-- Conversions are counted; when the window count exceeds THRESH, the first time in a window raises CVT_SATURATE,
with the counters and the unit. The spec gives the event no code (DESIGN CHOICE, log entry 2). -/
def State.count (s : State) (k log src : Nat) (c : Cnt) : State :=
  if c.total = 0 then s
  else
    let st := cvtStat k
    let s := ((s.incFld st CVT_SATSTAT_SAT c.sat).incFld st CVT_SATSTAT_NANZ c.nanz).incFld st CVT_SATSTAT_SCLAMP c.sclamp
    let was := s.fld (cvtWin k) CVT_WINCNT_WCOUNT
    let now := satAdd (2 ^ 24 - 1) was c.total
    let s := s.setFld (cvtWin k) CVT_WINCNT_WCOUNT now
    let cfg := s.cvtNow k
    let th := fget cfg CVT_SATCFG_THRESH
    if fget cfg CVT_SATCFG_EVEN = 1 ∧ fget cfg CVT_SATCFG_WINDOW ≠ 0 ∧ was ≤ th ∧ th < now then
      let s := (s.incFld st CVT_SATSTAT_EVENTS 1).setFld st CVT_SATSTAT_FIRED 1
      s.raiseRec log src (Config.openCode 0 % 2 ^ 16) (leBytes 8 (s.reg st).toNat ++ leBytes 2 src)
    else s

/-! ### The seed of stochastic rounding (06 R129) -/

def srSeed (model table step index : Nat) : Nat :=
  mix64 (mix64 (mix64 (model ^^^ (table <<< 16)) ^^^ step) ^^^ index)
def srVal (seed i j : Nat) : Nat := mix64 (seed ^^^ (128 * i + j)) >>> 40

/-! ### vp_exp and vp_tanh (09 R195) -/

/-- The nearest integer to a finite FP32 value, ties to even. -/
def nearInt (v : FV) : Int :=
  match v with
  | .fin n m e => signed n (rneShift m e)
  | _ => 0

def vpExp (x : Nat) : Nat :=
  let v := Fm.fp32.val x
  if v.isNan then 0x7FC00000
  else if (Fm.fp32.val 0x42B17218).lt v then 0x7F800000
  else if v.lt (Fm.fp32.val 0xC2CFF1B5) then 0
  else
    let n := nearInt (Fm.fp32.val (Fm.fp32.fmul x 0x3FB8AA3B))
    let mn := Fm.fp32.ieee (FV.ofInt (-n) 0)
    let r := Fm.fp32.fma mn 0x3F318000 x
    let r := Fm.fp32.fma mn 0xB95E8083 r
    let p := [0x3C088889, 0x3D2AAAAB, 0x3E2AAAAB, 0x3F000000, 0x3F800000, 0x3F800000].foldl
      (fun p c => Fm.fp32.fma p r c) 0x3AB60B61
    Fm.fp32.ieee ((Fm.fp32.val p).scale2 n)

def vpTanh (u : Nat) : Nat :=
  let v := Fm.fp32.val u
  if v.isNan then 0x7FC00000
  else
    let a := u % 2 ^ 31
    let av := v.abs
    if av.lt (.fin false 1 (-12)) then u
    else
      let t := if (FV.fin false 9 0).lt av then 0x3F800000
        else
          let e := vpExp (Fm.fp32.fadd a a)
          Fm.fp32.fdiv (Fm.fp32.fsub e 0x3F800000) (Fm.fp32.fadd e 0x3F800000)
      t % 2 ^ 31 + (if v.neg? then 2 ^ 31 else 0)

end Sys2Proof.Machine
end

