-- ==== Sys2Proof/Machine/Global.lean ====
section
/-! DEFINITION. The global block (18): event records and logs (17 R394-R398), event queues, global interrupts, the
two configuration locks' shared form, and perturbation. -/

namespace Sys2Proof.Machine

/-! ### Event records into logs (17 R394-R398) -/

/-- A log is a ring of 65,536 records: a full ring overwrites its oldest (17 R397). -/
def logRing : Nat := 65536

/-- Records a source may write in one window of a millisecond (17 R398). -/
def srcLimit : Nat := 4096

def State.log (s : State) (l : Nat) : List LogRec := tgetD [] s.evt.logs l

/-- The console prints a record of the module log as it is written, at most 200 a second (20 R455). -/
def State.printRec (s : State) (l : Nat) (r : EvRec) : State :=
  if l = modLog ∧ s.pwr.mgmtUp ∧ s.lc ≠ lcRetired then
    if s.dbg.printed < 200 then
      { s with dbg := { s.dbg with printed := s.dbg.printed + 1 } }.emit
        (.console 1 [r.src, r.code, r.seq, r.time, ofLE r.data])
    else { s with dbg := { s.dbg with unprinted := s.dbg.unprinted + 1 } }
  else s

/-- Write a record into log `l`: it takes the log's next LSN, and a full ring loses its oldest record. OVWR is set
when a record at or after ACK is overwritten (18 R423). -/
def State.putRec (s : State) (l : Nat) (r : EvRec) : State :=
  let recs := s.log l ++ [⟨r, s.svcTime⟩]
  let recs := recs.drop (recs.length - logRing)
  let s := { s with evt := { s.evt with logs := tsetD [] s.evt.logs l recs } }
  let s := s.incFld (.evqLsn l) EVQ_LSN_LSN 1
  let s := if logRing < s.fld (.evqLsn l) EVQ_LSN_LSN - s.fld (.evqAck l) EVQ_ACK_ACK then s.setFld (.evqStat l) EVQ_STAT_OVWR 1 else s
  s.printRec l r

/-- Count a record dropped from log `l` (17 R398). -/
def noteDrop (l seq : Nat) : List Dropped → List Dropped
  | [] => [⟨l, seq, 1⟩]
  | d :: ds => if d.log = l then { d with count := d.count + 1 } :: ds else d :: noteDrop l seq ds

/-- Take the first raised record of `src` out of the waiting ones. -/
def takeRaised (src : Nat) : List (Nat × EvRec) → Option ((Nat × EvRec) × List (Nat × EvRec))
  | [] => none
  | e :: es => if e.2.src = src then some (e, es) else
    match takeRaised src es with
    | some (x, rest) => some (x, e :: rest)
    | none => none

/-- EVENT_RECORD_WRITE: the source's oldest raised record reaches its log, unless the source has written 4,096
records in this window; the record is then dropped and counted (17 R398). -/
def State.writeRecord (s : State) (src : Nat) : State :=
  match takeRaised src s.evt.raised with
  | none => s
  | some ((l, r), rest) =>
    let s := { s with evt := { s.evt with raised := rest } }
    let k := s.srcSt src
    if k.inWin < srcLimit then
      (s.setSrcSt src { k with inWin := k.inWin + 1 }).putRec l r
    else s.setSrcSt src { k with drops := noteDrop l r.seq k.drops }

def execEventRecordWrite (src : Nat) (s : State) : Res := .next (s.writeRecord src)

/-- One EVT_DROPPED record (0x0B05) into each log that lost records of `src`: always written, it takes a SEQ of its
source and counts against no window (17 R398). -/
def State.writeDrops (s : State) (src : Nat) : List Dropped → State
  | [] => s
  | d :: ds =>
    let k := s.srcSt src
    let r : EvRec := ⟨src, 0x0B05, k.seq % 2 ^ 32, s.svcTime, bytesAt (leBytes 4 d.first ++ leBytes 4 d.count) 0 16⟩
    ((s.setSrcSt src { k with seq := (k.seq + 1) % 2 ^ 32 }).putRec d.log r).writeDrops src ds

/-- The next window of one source: its EVT_DROPPED records, then its counts start again. -/
def State.rollSrc (s : State) (src : Nat) : State :=
  let s := s.writeDrops src (s.srcSt src).drops
  s.setSrcSt src { s.srcSt src with inWin := 0, drops := [] }

/-- The console's second ends: a line "dropped k" stands for the records not printed (20 R455). -/
def State.rollConsole (s : State) : State :=
  let s1 := if s.dbg.unprinted = 0 then s else s.emit (.console 2 [s.dbg.unprinted])
  { s1 with dbg := { s1.dbg with printed := 0, unprinted := 0 } }

/-- EVENT_WINDOW_START: window `w` covers SVC_TIME 400,000 w to 400,000 w + 399,999 (17 R398); the command has its
effect once SVC_TIME has left the window in which the counts run. -/
def State.windowStart (s : State) : State :=
  if s.evt.win < s.svcTime / tickMs then
    let w := s.svcTime / tickMs
    let s := if s.evt.win / 1000 < w / 1000 then s.rollConsole else s
    let s := { s with evt := { s.evt with win := w } }
    let s := { s with part := { s.part with floorSaid := [] } }
    (s.evt.srcs.map (·.1)).foldl State.rollSrc s
  else s

def execEventWindowStart (s : State) : Res := .next s.windowStart

/-! ### Event queues (18 R423, R424) -/

/-- The tick at which the record with LSN `n` was written into log `l`, if the ring still holds it. -/
def State.recTime (s : State) (l n : Nat) : Option Nat :=
  let held := (s.log l).length
  let lsn := s.fld (.evqLsn l) EVQ_LSN_LSN
  if lsn - held ≤ n ∧ n < lsn then ((s.log l)[n - (lsn - held)]?).map LogRec.wtime else none

/-- Does one of the two triggers hold (18 R424)? -/
def State.evqTrigger (s : State) (l : Nat) : Bool :=
  let lsn := s.fld (.evqLsn l) EVQ_LSN_LSN
  let ack := s.fld (.evqAck l) EVQ_ACK_ACK
  let itime := s.fld (.evqCfg l) EVQ_CFG_ITIME
  decide (s.fld (.evqCfg l) EVQ_CFG_THRESH ≤ lsn - ack) ||
    (decide (ack < lsn) && decide (itime ≠ 0) &&
      match s.recTime l ack with
      | some t => decide (itime * tickUs ≤ s.svcTime - t)
      | none => false)

/-- EVQ_INTERRUPT: while EN = 1 and PEND = 0, a trigger sends the queue's message and sets PEND. -/
def State.evqInterrupt (s : State) (l : Nat) : State :=
  if s.flag (.evqCfg l) EVQ_CFG_EN && !(s.flag (.evqStat l) EVQ_STAT_PEND) && s.evqTrigger l then
    (s.setFld (.evqStat l) EVQ_STAT_PEND 1).msix (s.fld (.evqCfg l) EVQ_CFG_VEC)
  else s

def execEvqInterrupt (l : Nat) (s : State) : Res := .next (if l ≤ modLog then s.evqInterrupt l else s)

/-- A write of EVQ_ACK: ignored above LSN, else it replaces ACK and clears PEND (18 R423). ACK crosses bit 32, so a
4-byte write leaves it unchanged (18 R410). -/
def State.wrEvqAck (s : State) (l : Nat) (h : Half) (v : Nat) : State :=
  if h = .whole ∧ v % 2 ^ 64 ≤ s.fld (.evqLsn l) EVQ_LSN_LSN then
    (s.setFld (.evqAck l) EVQ_ACK_ACK v).setFld (.evqStat l) EVQ_STAT_PEND 0
  else s

/-- EVQ_ACK_WRITE: the value is written to EVQ_ACK of queue `l`. -/
def execEvqAckWrite (l : Nat) (h : Half) (v : Nat) (s : State) : Res := .next (if l ≤ modLog then s.onBus fun s => s.wrEvqAck l h v else s)

/-- A write of EVQ_CFG with THRESH = 0 is ignored (18 R423). -/
def State.wrEvqCfg (s : State) (l : Nat) (h : Half) (v : Nat) : State :=
  if wrote h EVQ_CFG_THRESH ∧ wval h v EVQ_CFG_THRESH = 0 then s else s.plainWrite (.evqCfg l) h v

/-! ### Global interrupts (18 R421) -/

/-- A write of GLB_INT: causes clear by 1s; a cause that is set and loses its mask owes a message. -/
def State.wrGlbInt (s : State) (h : Half) (v : Nat) : State :=
  let old := s.fld .glbInt GLB_INT_MASK
  let s := s.plainWrite .glbInt h v
  let new := s.fld .glbInt GLB_INT_MASK
  (List.range 5).foldl (fun (s : State) (c : Nat) =>
    if bitAt old c ∧ ¬ bitAt new c ∧ s.flag .glbInt (causeFld c) ∧ s.flag .glbCtl GLB_CTL_GIEN then
      { s with evt := { s.evt with due := s.evt.due ++ [c] } } else s) s

/-- GLB_INT_CAUSE: the message owed for cause `c` is sent on GVEC. -/
def State.glbIntCause (s : State) (c : Nat) : State :=
  if s.evt.due.contains c then
    { s with evt := { s.evt with due := dropFirst (· = c) s.evt.due } }.msix (s.fld .glbCtl GLB_CTL_GVEC)
  else s

def execGlbIntCause (c : Nat) (s : State) : Res := .next (s.glbIntCause c)

/-! ### The configuration locks (15 R364, 18 R422) -/

/-- A write of PT_LOCK or FAB_LOCK, which share their layout: only 0x511 and 0x530 may write; OPEN and CLOSE together
are ignored; OPEN is ignored while another source holds the lock; CLOSE closes an open lock, whoever opened it.
Answers whether it closed. -/
def State.wrLock (s : State) (r : Reg) (src : Nat) (open_ close : Bool) : State × Bool :=
  if (src = srcHost ∨ src = srcM) ∧ open_ ≠ close then
    if open_ then
      if s.flag r PT_LOCK_OPEN ∧ s.fld r PT_LOCK_HOLDER ≠ src then (s, false)
      else ((s.setFld r PT_LOCK_OPEN 1).setFld r PT_LOCK_HOLDER src, false)
    else if s.flag r PT_LOCK_OPEN then
      ((s.setFld r PT_LOCK_OPEN 0).incFld r PT_LOCK_CLOSES 1, true)
    else (s, false)
  else (s, false)

/-- A write of FAB_LOCK (18 R422): closing recomputes no measurement. -/
def State.wrFabLock (s : State) (src : Nat) (h : Half) (v : Nat) : State :=
  (s.wrLock .fabLock src (wrote h FAB_LOCK_OPEN && wval h v FAB_LOCK_OPEN = 1)
    (wrote h FAB_LOCK_CLOSE && wval h v FAB_LOCK_CLOSE = 1)).1

def execFabLockOpen (src : Nat) (s : State) : Res := .next (s.onBus fun s => s.wrFabLock src .whole 1)
def execFabLockClose (src : Nat) (s : State) : Res := .next (s.onBus fun s => s.wrFabLock src .whole 2)

/-! ### Perturbation (18 R425-R428) -/

/-- A write of PRT_CTL: EN is ignored while ALLOW = 0 (18 R425). Packets held keep the hold they were given
(20 R457). -/
def State.wrPrtCtl (s : State) (h : Half) (v : Nat) : State :=
  if s.prtAllow then s.plainWrite .prtCtl h v else s

def execPrtCtlEnWrite (en : Bool) (s : State) : Res := .next (s.onBus fun s => s.wrPrtCtl .whole (if en then 1 else 0))

/-- The hold in units of 10 ns that one slot gives a packet, with its HITS counted (18 Table 18-6). -/
def State.slotHold (s : State) (n target : Nat) : State × Nat :=
  let r := Reg.prtSlot n
  let kind := s.fld r PRT_SLOT_KIND
  if s.fld r PRT_SLOT_TARGET = target ∧ (kind = 1 ∨ kind = 3) then
    let d := s.fld r PRT_SLOT_DELAY
    let hold := if kind = 1 then d else
      mix64 (s.fld .prtSeed PRT_SEED_SEED ^^^ s.fld r PRT_SLOT_HITS) % (d + 1)
    (s.incFld r PRT_SLOT_HITS 1, hold)
  else (s, 0)

/-- The holds of every slot that names `target`, in ascending slot number, added up (18 R427). -/
def State.holds (s : State) (target : Nat) : List Nat → State × Nat
  | [] => (s, 0)
  | n :: ns =>
    let (s, a) := s.slotHold n target
    let (s, b) := s.holds target ns
    (s, a + b)

/-- A REQ or SNP packet, or data of a quad unit, is accepted by `target`: while EN = 1 the slots hold it. Perturbation
changes time and nothing else (18 R428), so the packet's effect is that of the command that brought it, and the hold
is listed until PERTURB_HOLD_RELEASE. -/
def State.perturb (s : State) (target : Nat) : State :=
  if s.flag .prtCtl PRT_CTL_EN && s.prtAllow then
    let (s, h) := s.holds target (List.range 16)
    if h = 0 then s else { s with net := { s.net with held := s.net.held ++ [⟨target, s.svcTime + 4 * h⟩] } }
  else s

/-- PERTURB_HOLD_RELEASE: the oldest packet held at `target` leaves once its hold has ended; packets leave in arrival
order (18 R428). -/
def State.holdRelease (s : State) (target : Nat) : State :=
  match s.net.held.find? (·.target = target) with
  | some p => if p.until_ ≤ s.svcTime then
      { s with net := { s.net with held := dropFirst (·.target = target) s.net.held } } else s
  | none => s

def execPerturbHoldRelease (target : Nat) (s : State) : Res := .next (s.holdRelease target)

end Sys2Proof.Machine
end

