-- ==== Sys2Proof/Machine/Link.lean ====
section
/-! DEFINITION. Messages leaving the module (14): routing, landing credits, requests that wait for a response, and
contributions sent through a collective group's window. One message is carried by one flit. -/

namespace Sys2Proof.Machine

/-! ### Ports and routing (14 R323, R325, R326) -/

def State.port (s : State) (p : Nat) : PortSt := tgetD {} s.fab.ports p
def State.setPort (s : State) (p : Nat) (v : PortSt) : State :=
  { s with fab := { s.fab with ports := tsetD {} s.fab.ports p v } }

/-- A port is UP while WIDTH holds 2, 3 or 4 (14 R341). -/
def State.portUp (s : State) (p : Nat) : Bool :=
  p < 16 && decide (2 ≤ s.fld (.abPort p) AB_PORT_WIDTH) && decide (s.fld (.abPort p) AB_PORT_WIDTH ≤ 4)

def State.modNum (s : State) : Nat := s.fld .abId AB_ID_MODNUM
def State.assigned (s : State) : Bool := s.flag .abId AB_ID_ASSIGNED

/-- The usable ports of a mask: UP, with ROUTE = 1, no duplicate held, and no LEAVE received. -/
def State.usable (s : State) (mask : Nat) : List Nat :=
  (List.range 16).filter fun p => bitAt mask p && s.portUp p && s.flag (.abPort p) AB_PORT_ROUTE && !(s.port p).dup && !(s.port p).left

/-- The hash that chooses among usable ports. -/
def routeHash (m : Msg) : Nat := crc32c (leBytes 2 m.src ++ leBytes 2 m.srcid ++ leBytes 2 m.dst)

/-- The port and level of a message, with ONALT set when the alternate serves (14 R325). `alt`: the retry of a refused piece goes by
the alternate ports where one is usable (10 R230; DEDUCED, log entry 95). -/
def State.route (s : State) (m : Msg) (alt : Bool := false) : State × Option (Nat × Nat) :=
  let r := Reg.abRoute (m.dst % 4096)
  if ¬ s.flag r AB_ROUTE_VALID then (s, none)
  else
    let c := if alt ∧ s.usable (s.fld r AB_ROUTE_ALT) ≠ [] then [] else s.usable (s.fld r AB_ROUTE_PRIM)
    if c ≠ [] then (s, some (c.getD (routeHash m % c.length) 0, s.fld r AB_ROUTE_PLVL))
    else
      let s := s.setFld r AB_ROUTE_ONALT 1
      let c := s.usable (s.fld r AB_ROUTE_ALT)
      if c ≠ [] then (s, some (c.getD (routeHash m % c.length) 0, s.fld r AB_ROUTE_ALVL)) else (s, none)

/-- The channel of a message type (14 Table 14-6). -/
def vcOf (mtype : Nat) : Nat :=
  if mtype ≤ 3 then 0 else if mtype = 4 then 2 else if mtype = 0x20 then 3 else if mtype = 0x30 then 4 else 1

/-- Landing credits of a channel and level (14 Table 14-8). -/
def landCap (chan lvl : Nat) : Nat :=
  if chan ≤ 1 then 192 else if lvl ≠ 0 then 0 else if chan = 2 then 64 else if chan = 3 then 160 else 32

/-- The level that counts for credits: only REQ and RSP have two. -/
def credLvl (chan lvl : Nat) : Nat := if chan ≤ 1 then lvl % 2 else 0

/-- An MGT payload of this module (14 Table 14-7); PORT is filled in as it leaves. -/
def State.mgtData (s : State) (op pathlen path reg value : Nat) : List Byte :=
  leBytes 1 op ++ leBytes 1 0 ++ leBytes 2 (s.modNum + (if s.assigned then 2 ^ 15 else 0)) ++ leBytes 8 Config.abUid.toNat ++
    leBytes 1 7 ++ leBytes 1 pathlen ++ leBytes 4 path ++ leBytes 2 0 ++ leBytes 4 reg ++ leBytes 8 value

/-- An MGT message of this module names the port it leaves by. -/
def State.stamp (s : State) (p : Nat) (m : Msg) : Msg :=
  if m.mtype = 0x30 ∧ m.src = s.modNum then { m with data := m.data.set 1 (BitVec.ofNat 8 p) } else m

/-- Put a message on a port as the next DATA flit, or let it wait, behind others of its channel and level, for a credit or for room in
the replay buffer of 1,024 flits (14 R320, R326). -/
def State.portSend (s : State) (p : Nat) (m : Msg) : State :=
  let m := s.stamp p m
  let st := s.port p
  let l := credLvl m.vc m.lvl
  let k := 2 * m.vc + l
  if st.wait.any (fun w => 2 * w.vc + credLvl w.vc w.lvl = k) ∨ landCap m.vc l ≤ tgetD 0 st.sent k ∨ 1024 ≤ st.replay.length then
    s.setPort p { st with wait := st.wait ++ [m] }
  else
    (s.setPort p { st with
      nextSeq := (st.nextSeq + 1) % 4096, replay := st.replay ++ [(st.nextSeq, m)], sent := tsetD 0 st.sent k (tgetD 0 st.sent k + 1) }).emit (.link p m)

/-- Send a message by its route; `false` when no usable route exists. A message to a 2-series partner that it does not
understand is not sent there (14 R318). -/
def State.sendMsg (s : State) (m : Msg) (alt : Bool := false) : State × Bool :=
  match s.route m alt with
  | (s, none) => (s, false)
  | (s, some (p, lvl)) =>
    if m.mtype = 0x20 ∧ s.flag (.abPort p) AB_PORT_PEER2 then (s, false)
    else (s.portSend p { m with lvl := max m.lvl lvl }, true)

/-- The L-die that a unit's requests leave by: that of its hub. -/
def lDie (src : Nat) : Nat := if isQuadUnit src then srcL (src / 16 / 20) else srcL (src % 4)

/-- UNREACHABLE is generated for a request of `src`. -/
def State.unreach (s : State) (src : Nat) : State := s.raise modLog (lDie src) 0x0805 []

/-- A request of this module's `src` to module `dst`: it waits in the table of outstanding requests under its tag.
Without a route it is UNREACHABLE at once: the answer is `false`. -/
def State.request (s : State) (m : Msg) (piece : Option (Nat × Nat × Nat × Nat × Nat)) (alt : Bool := false) : State × Bool :=
  let tag := s.fab.nextTag
  let m := { m with src := s.modNum, tag := tag, vc := vcOf m.mtype }
  let r := if s.assigned then s.sendMsg m alt else (s, false)
  if r.2 then
    ({ r.1 with fab := { r.1.fab with
        nextTag := (tag + 1) % 65536
        outst := r.1.fab.outst ++ [{ tag, srcid := m.srcid, dst := m.dst, kind := m.mtype, part := m.spart, time := r.1.svcTime, stale := false, piece }] } }, true)
  else (r.1.unreach m.srcid, false)

/-- A message that no response answers: SIG, COL, MGT. -/
def State.post (s : State) (m : Msg) : State :=
  let m := { m with src := s.modNum, vc := vcOf m.mtype }
  if s.assigned then (s.sendMsg m).1 else s

/-! ### Collective groups: descriptor and window (14 R329, R330) -/

/-- The 64 bytes of a group descriptor. -/
def State.group (s : State) (g : Nat) : List Byte := (List.range 8).flatMap fun k => leBytes 8 (s.reg (.abGroup (8 * g + k))).toNat
def grOp (d : List Byte) : Nat := bits (leAt d 0 1) 0 3
def grEn (d : List Byte) : Bool := bitAt (leAt d 0 1) 7
def grNchild (d : List Byte) : Nat := leAt d 1 1
def grParent (d : List Byte) : Nat := bits (leAt d 2 2) 0 12
def grRoot (d : List Byte) : Bool := bitAt (leAt d 2 2) 15
def grSlot (d : List Byte) : Nat := leAt d 6 1
def grInst (d : List Byte) : Nat := bits (leAt d 7 1) 0 7
def grChild (d : List Byte) (c : Nat) : Nat := leAt d (8 + 2 * c) 2
def grCto (d : List Byte) : Nat := leAt d 40 4
def grSlotsz (d : List Byte) : Nat := leAt d 44 4
def grBuf (d : List Byte) : Nat := leAt d 48 8
def grQuad (d : List Byte) : Nat := leAt d 56 1
def grSem (d : List Byte) : Nat := leAt d 57 1

def State.gst (s : State) (g : Nat) : GroupSt := tgetD {} s.fab.groups g
def State.setGst (s : State) (g : Nat) (v : GroupSt) : State :=
  { s with fab := { s.fab with groups := tsetD {} s.fab.groups g v } }

/-- The node's timer starts with the first message or the schedule's first write of a step. -/
def State.startStep (s : State) (g : Nat) : State :=
  let st := s.gst g
  if st.running then s else s.setGst g { st with running := true, since := s.svcTime }

/-- MOD_RESP and PART of a step as its slots stand: 1 plus the MOD_RESP of every child present (14 R330). -/
def GroupSt.resp (st : GroupSt) : Nat := (st.slots.filter fun e => e.2.ended).foldl (fun a e => a + e.2.modResp) 1
def GroupSt.missing (st : GroupSt) : Bool := st.slots.any fun e => e.2.part || e.2.absent

/-- A COL message of group `g` to its parent, of step `seq`: bytes at an offset of the slot, or END with MOD_RESP and PART. -/
def State.sendCol (s : State) (src g seq : Nat) (end_ : Option (Nat × Bool)) (off : Nat) (data : List Byte) : State :=
  let d := s.group g
  let part : Bool := (end_.map Prod.snd).getD false
  let aux := g % 64 + grSlot d % 16 * 2 ^ 8 + (if end_.isSome then 2 ^ 12 else 0) + (if part then 2 ^ 13 else 0) + seq % 2 ^ 16 * 2 ^ 16
  let addr := match end_ with
    | some e => e.1 % 2 ^ 13 + if e.2 then 2 ^ 13 else 0
    | none => off
  s.post { mtype := 0x20, dst := grParent d, srcid := src, epoch := s.fld (.schInst (grInst d)) SCH_INST_EPOCH, len := data.length,
           addr := addr, aux := aux, data := data }

/-- The collective steps of an instance that aborts are given up: every part of it aborts, and their sequences start again (DEDUCED, log entry 98). -/
def State.dropSteps (s : State) (i : Nat) : State :=
  (List.range 64).foldl (fun (s : State) g => if grEn (s.group g) ∧ grInst (s.group g) = i then s.setGst g {} else s) s

/-- MGT ABORT_INST with the group goes to the parent and to every child of each enabled group bound to instance `i`, but
not to module `except_` (14 R333). It is sent as R325 routes its DST (DEDUCED, log entry 18). -/
def State.sendAborts (s : State) (i : Nat) (except_ : Option Nat) : State :=
  (List.range 64).foldl (fun (s : State) g =>
    let d := s.group g
    if grEn d ∧ grInst d = i then
      let dests := (if grRoot d then [] else [grParent d]) ++ (List.range (grNchild d)).map (grChild d)
      (dests.filter fun m => except_ ≠ some m).foldl (fun (s : State) m =>
        s.post { mtype := 0x30, dst := m, srcid := srcL 0, len := 32, data := s.mgtData 5 0 0 0 g }) s
    else s) s

/-- A write of a ferry to a group's window: COPY bytes, or NOTE (`none`), which sends END with the sender's MOD_RESP and
PART. It belongs to the oldest completed step whose END is owed, else to the running step, which it may start. The window of a group
that is not enabled, or is bound to another partition's instance, is refused: `false`. -/
def State.windowWrite (s : State) (src g off : Nat) (data : Option (List Byte)) : State × Bool :=
  let d := s.group g
  let mine : Bool := match s.inst (grInst d) with
    | some i => isQuadUnit src && s.quadPart (src / 16) == some i.part
    | none => false
  if 64 ≤ g ∨ ¬ grEn d ∨ ¬ mine then (s, false)
  else
    let s := if (s.gst g).owed = [] then s.startStep g else s
    let st := s.gst g
    let at_ := st.owed.headD (st.seq, st.resp, st.missing)
    let send (s : State) (e : Option (Nat × Bool)) (off : Nat) (bs : List Byte) : State :=
      if grRoot d then s else s.sendCol src g at_.1 e off bs
    match data with
    | some bs => ((List.range (ceilDiv bs.length 256)).foldl (fun (s : State) k => send s none (off + 256 * k) ((bs.drop (256 * k)).take 256)) s, true)
    | none =>
      let s := send s (some at_.2) 0 []
      let st := s.gst g
      (s.setGst g (if st.owed = [] then { st with sent := true } else { st with owed := st.owed.drop 1 }), true)

/-- A request's answer: RDR or ACK along the routes back, with the request's tag and source identifier. -/
def State.answer (s : State) (m : Msg) (status : Nat) (data : List Byte) : State :=
  let r : Msg := { mtype := if m.mtype = 1 then 0x10 else 0x11, vc := 1, dst := m.src, src := s.modNum, srcid := m.srcid, tag := m.tag,
                   spart := m.dpart, dpart := m.spart, status, len := data.length, data }
  (s.sendMsg r).1

end Sys2Proof.Machine
end

