-- ==== Sys2Proof/Machine/Spad.lean ====
section
/-! DEFINITION. Scratchpad banks, bit-set and bit-clear aliases, moorings, far-line caching and buffer pools (12). -/

namespace Sys2Proof.Machine

/-- What an access to one end gives: done, accepted and applied later, refused with a code of 14 Table 14-6 (1 domain off, 3 ADDR,
4 MEMERR), or held at the hub. -/
inductive Acc where
  | ok
  | queued
  | no (status : Nat)
  | held
deriving DecidableEq, Repr

/-- The hub has applied `len` bytes of a write or add: a ferry's piece is over with its last (10 R224), a request of another module gets
its answer. -/
def State.ackTo (s : State) (who : Option AckTo) (len : Nat) : State :=
  match who with
  | none => s
  | some (.msg m) => s.answer m 0 []
  | some (.piece n k) =>
    let st := tgetD {} s.fry.streams n
    let ack (j : Job) : Job := { j with out := (mapIf (·.k = k) (fun (p : Pc) => { p with acked := p.acked + len }) j.out).filter fun p =>
      !(decide (p.k = k) && p.data.any fun bs => decide (bs.length ≤ p.acked)) }
    { s with fry := { s.fry with streams := tsetD {} s.fry.streams n { st with job := st.job.map ack } } }

/-! ### Buffer pools: what the bank rules ask of them (12 R280, R287) -/

/-- The first scratchpad offset of a pool and its size in bytes. -/
def State.poolSpan (s : State) (k : Nat) : Nat × Nat :=
  (s.fld (.poolCfg k) POOL_CFG_BASE * 4096, (s.fld (.poolCfg k) POOL_CFG_COUNTM1 + 1) * 2 ^ s.fld (.poolCfg k) POOL_CFG_LOG2SZ)

/-- Does the pool hold bytes of bank `b`? -/
def State.poolInBank (s : State) (k b : Nat) : Bool :=
  let (o, n) := s.poolSpan k
  decide (o < (b + 1) * bankSize) && decide (b * bankSize < o + n)

/-- Does an enabled pool of E-die `d` hold buffers in bank `b`? -/
def State.bankPooled (s : State) (d b : Nat) : Bool :=
  (List.range 16).any fun p => s.flag (.poolCfg (16 * d + p)) POOL_CFG_EN && s.poolInBank (16 * d + p) b

/-! ### Bank states (12 R267, R268) -/

/-- A write of one bank's field: 0b11 is ignored; so are a move of bank 63 out of ON, a move to OFF of a bank that
holds buffers of an enabled pool, and a write of a bank that no partition owns. -/
def State.wrBank (s : State) (d b code : Nat) : State :=
  let old := s.bankSt d b
  if code = 3 ∨ code = old then s
  else if b = 63 ∧ code ≠ 0 then s
  else if code = 2 ∧ s.bankPooled d b then s
  else if 64 ≤ s.owner 1 (64 * d + b) then s
  else
    let s := s.setFld (spadReg d b) (spadFld b) code
    if code = 2 then
      let s := s.wipe (granuleSpan 1 (64 * d + b)).1 bankSize
      { s with net := { s.net with onWipe := s.net.onWipe.filter (· ≠ 64 * d + b) } }
    else if old = 2 then { s with net := { s.net with onWipe := s.net.onWipe ++ [64 * d + b] } }
    else s

/-- A write of SPAD_PWR0 (`hi = false`: banks 0-31) or SPAD_PWR1: bank by bank, each field the access holds. -/
def State.wrSpadPwr (s : State) (d : Nat) (hi : Bool) (h : Half) (v : Nat) : State :=
  (List.range 32).foldl (fun (s : State) (k : Nat) =>
    if wrote h (spadFld k) then s.wrBank d (k + if hi then 32 else 0) (wval h v (spadFld k)) else s) s

def execSpadPwrWrite (d : Nat) (hi : Bool) (h : Half) (v : Nat) (s : State) : Res := .next (if d < 20 then s.onBus fun s => s.wrSpadPwr d hi h v else s)

/-- BANK_WAKE: an access reaches a bank in RET (12 Table 12-2). -/
def execBankWake (d b : Nat) (s : State) : Res := .next (if d < 20 ∧ b < 64 then s.wakeBank d b else s)

/-- BANK_ON_WIPE_DONE: the zero wipe of a bank turned from OFF to ON ends, and the bank begins serving. -/
def State.onWipeDone (s : State) (d b : Nat) : State :=
  { s with net := { s.net with onWipe := s.net.onWipe.filter (· ≠ 64 * d + b) } }

def execBankOnWipeDone (d b : Nat) (s : State) : Res := .next (s.onWipeDone d b)

/-! ### Moorings (12 R271-R273) -/

/-- The mooring that a scratchpad offset of an E-die lies in, when it lies in the mooring area. -/
def moorAt (off : Nat) : Option Nat := if moorOff ≤ off then some ((off - moorOff) / 8) else none

/-- Local address of a mooring word. -/
def moorAddr (d m : Nat) : Nat := spBase + d * spSize + moorOff + 8 * m

/-- The fields of a mooring word: STATE, WASBROKEN, OWNER, TAG, EPOCH. -/
def moorState (w : Nat) : Nat := bits w 0 2
def moorOwner (w : Nat) : Nat := bits w 16 12
def moorTag (w : Nat) : Nat := bits w 28 16
def moorEpoch (w : Nat) : Nat := bits w 44 16
def moorWord (st wb owner tag epoch : Nat) : Nat :=
  st + wb * 2 ^ 2 + owner % 2 ^ 12 * 2 ^ 16 + tag % 2 ^ 16 * 2 ^ 28 + epoch % 2 ^ 16 * 2 ^ 44

def State.moor (s : State) (d m : Nat) : Nat := s.rdLE (moorAddr d m) 8
def State.setMoor (s : State) (d m w : Nat) : State := s.wr (moorAddr d m) (leBytes 8 w)

/-- The partition a mooring belongs to; M1920-M2047 are the module's. -/
def moorPart (m : Nat) : Option Nat := if m < 1920 then some (m / 30) else none

/-- The log of a mooring's events (12 R272). -/
def moorLog (m : Nat) : Nat := (moorPart m).getD modLog

/-- Is the source served at this mooring (12 R271)? -/
def State.moorServes (s : State) (src m : Nat) : Bool :=
  if isQuadUnit src then (moorPart m).isSome && s.quadPart (src / 16) = moorPart m
  else if src = srcHost then
    s.flag .qwWin QW_WIN_ALL || (moorPart m).isNone || moorPart m = some (s.fld .qwWin QW_WIN_PART)
  else isAgent src

/-- The reset epoch of a source (12 R273). -/
def State.epochOf (s : State) (src : Nat) : Nat := tgetD 0 s.net.epochs src

/-- An acquire: the bit-set alias write of the mooring form (12 Table 12-4). -/
def State.moorAcquire (s : State) (src d m tag : Nat) : State :=
  let w := s.moor d m
  let take (wb : Nat) := s.setMoor d m (moorWord 1 wb src tag (s.epochOf src))
  if moorState w = 0 then take 0
  else if moorState w = 2 then take 1
  else if moorEpoch w = s.epochOf (moorOwner w) then s.incFld (.spadStat d) SPAD_STAT_MBUSY 1
  else take 1

/-- A release: the bit-clear alias write of the mooring form (12 Table 12-4). -/
def State.moorRelease (s : State) (src d m tag : Nat) : State :=
  let w := s.moor d m
  if moorState w = 0 then s.raise (moorLog m) src 0x0603 []
  else if moorState w = 1 ∧ moorOwner w = src % 2 ^ 12 ∧ moorTag w = tag then s.setMoor d m 0
  else s.raise (moorLog m) src 0x0602 []

/-- Local address of BAR2 offset 0: BASE bits below the BAR2 size are ignored (13 R290, R314). -/
def State.bar2Base (s : State) : Nat := (s.fld .qwWin QW_WIN_BASE * gib) / 2 ^ s.quay.bar2Log * 2 ^ s.quay.bar2Log

/-- A refused alias access at scratchpad offset `o`: ADDR, or HOST_ADDR (0x0705) with the BAR2 offset for the host, which
reaches an alias only through BAR2 (12 R269, R271, 13 R290). -/
def State.aliasFault (s : State) (src : Nat) (set : Bool) (o : Nat) : State :=
  if src = srcHost then
    s.raise modLog srcQuay 0x0705 (leBytes 8 ((if set then setBase else clrBase) + o - s.bar2Base) ++ leBytes 1 1)
  else s.addrFault src (spBase + o)

/-- A mooring operation by a source: served, or refused with ADDR and the mooring unchanged. -/
def State.moorOp (s : State) (acquire : Bool) (src d m tag : Nat) : State × Acc :=
  if s.moorServes src m = false then (s, .no 3)
  else
    let r := s.touchSpad d moorOff
    if r.2 then (if acquire then r.1.moorAcquire src d m tag else r.1.moorRelease src d m tag, .ok) else (r.1, .no 1)

/-- A refused access through an alias is the requester's to raise. -/
def State.refuseAlias (s : State) (src : Nat) (set : Bool) (o : Nat) (a : Acc) : State :=
  match a with
  | .no 1 => s.domainOff src (spBase + o)
  | .no _ => s.aliasFault src set o
  | _ => s

def State.mooring (s : State) (acquire : Bool) (src d m tag : Nat) : State :=
  let r := s.moorOp acquire src d m tag
  r.1.refuseAlias src acquire (d * spSize + moorOff + 8 * m) r.2

def execMooringAcquire (src d m tag : Nat) (s : State) : Res := .next (if d < 20 ∧ m < 2048 then s.mooring true src d m tag else s)
def execMooringRelease (src d m tag : Nat) (s : State) : Res := .next (if d < 20 ∧ m < 2048 then s.mooring false src d m tag else s)

/-- The reset sweep of a source: its reset epoch advances, and every mooring it holds turns BROKEN, keeping OWNER,
TAG and EPOCH (12 R273). -/
def breakMoor (src : Nat) (s : State) (dm : Nat × Nat) : State :=
  let w := s.moor dm.1 dm.2
  if moorState w = 1 ∧ moorOwner w = src then s.setMoor dm.1 dm.2 (putBits w 0 2 2) else s

/-- The moorings that any byte of memory lists: the only ones that can be HELD. -/
def State.moorsListed (s : State) : List (Nat × Nat) :=
  s.mem.filterMap fun (c : Host.Cell) =>
    match regionOf c.1 with
    | .spad d o => if moorOff ≤ o then some (d, (o - moorOff) / 8) else none
    | _ => none

def State.sweepSource (s : State) (src : Nat) : State :=
  let s := { s with net := { s.net with epochs := tsetD 0 s.net.epochs src ((s.epochOf src + 1) % 2 ^ 16) } }
  s.moorsListed.foldl (breakMoor src) s

/-! ### Aliases (12 R269, R270) -/

/-- The sizes of an alias write: a multiple of 4 bytes from 4 to 32, on a 4-byte boundary, in one 32-byte word. -/
def aliasOk (o n : Nat) : Bool := 4 ≤ n && n ≤ 32 && n % 4 = 0 && o % 4 = 0 && o % 32 + n ≤ 32

/-- One atomic read-modify-write: OR of the data, or AND of its complement. -/
def aliasBytes (set : Bool) (old new : List Byte) : List Byte :=
  List.zipWith (fun a b => if set then a ||| b else a &&& ~~~b) old new

/-- A write of `data` through the bit-set (`set`) or bit-clear alias of scratchpad offset `o` of the whole
scratchpad space. In the mooring area, only the mooring form acts; every other write there is ignored and counted
(12 R271, R272). No request of another module reaches an alias (12 R269). -/
def State.aliasPut (s : State) (src : Nat) (set : Bool) (o : Nat) (data : List Byte) : State × Acc :=
  let d := o / spSize
  let off := o % spSize
  if aliasOk o data.length = false ∨ 20 * spSize ≤ o ∨ (0x540 ≤ src ∧ src ≤ 0x543) then (s, .no 3)
  else match moorAt off with
  | some m =>
    let v := ofLE data
    if data.length = 8 ∧ off % 8 = 0 ∧ bits v 0 2 = 1 then s.moorOp set src d m (bits v 28 16)
    else (s.incFld (.spadStat d) SPAD_STAT_MPLAIN 1, .ok)
  | none =>
    if s.mayReach src (spBase + o) = false then (s, .no 3)
    else
      let r := s.touchSpad d off
      if r.2 then (r.1.wr (spBase + o) (aliasBytes set (r.1.rd (spBase + o) data.length) data), .ok) else (r.1, .no 1)

/-- The same, with the refusal raised. -/
def State.aliasWrite (s : State) (src : Nat) (set : Bool) (o : Nat) (data : List Byte) : State :=
  let r := s.aliasPut src set o data
  r.1.refuseAlias src set o r.2

/-- An alias write that meets an uncorrectable error in its word: the word is not written, SPAD_UE (0x0601) is raised, and the
requester gets a poisoned response; a quad unit's task is aborted (12 Table 12-3). -/
def State.aliasUe (s : State) (src o : Nat) : State :=
  let s := (s.touchSpad (o / spSize) (o % spSize)).1
  let s := s.raise (s.addrLog (spBase + o)) (srcDie (o / spSize)) 0x0601 []
  match if isQuadUnit src then s.quadInst (src / 16) else none with
  | some i => s.startAbort i 0x0601
  | none => if isQuadUnit src then s else s.emit (.refusal src (spBase + o) 4)

/-- A corrected error of a scratchpad word is counted (12 Table 12-3). -/
def State.spadCe (s : State) (d : Nat) : State := { s with net := { s.net with ce := tsetD 0 s.net.ce d (tgetD 0 s.net.ce d + 1) } }

/-- ALIAS_WRITE. `err`: the error met in the word read; a corrected one is counted, corrected and then modified. -/
def State.aliasCmd (s : State) (src : Nat) (set : Bool) (o : Nat) (data : List Byte) (err : MemErr) : State :=
  let met := aliasOk o data.length && decide (o < 20 * spSize) && decide (o % spSize < moorOff) && s.mayReach src (spBase + o) &&
      s.bankServes (o / spSize) (o % spSize / bankSize)
  if met ∧ err = .ue then s.aliasUe src o
  else (if met ∧ err = .ce then s.spadCe (o / spSize) else s).aliasWrite src set o data

def execAliasWrite (src : Nat) (set : Bool) (o : Nat) (data : List Byte) (err : MemErr) (s : State) : Res :=
  .next (s.aliasCmd src set o data err)

/-! ### Far lines (12 R277-R279) -/

/-- The line number of an address: 256 bytes. -/
def lineOf (a : Nat) : Nat := a / 256

/-- Is the address in an enabled FC_RANGE of its hub? -/
def State.cacheable (s : State) (a : Nat) : Bool :=
  match hubOf a with
  | some h => (List.range 16).any fun i =>
      let r := Reg.fcRange (16 * h + i)
      s.flag r FC_RANGE_EN && decide (s.fld r FC_RANGE_BASE ≤ a / 65536) && decide (a / 65536 ≤ s.fld r FC_RANGE_LIMIT)
  | none => false

/-- DRAM of HBM3E or GDDR7: what a far-line cache may hold. Scratchpads, sketch stacks, registers and aliases are
never cached. -/
def farKind (a : Nat) : Bool :=
  match regionOf a with
  | .hbm _ _ => true
  | .gddr _ _ => true
  | _ => false

/-- The E-die is far from the hub that owns the address (01 R11). -/
def isFar (d a : Nat) : Bool :=
  match hubOf a with
  | some h => decide (h ≠ d / 5)
  | none => false

/-- Sets of the sharer directory: 262,144 entries, 16-way; and of a far-line cache: 8,192 lines, 8-way. The lines
that share a set are those that agree modulo the number of sets (DESIGN CHOICE, log entry 12). -/
def dirSets : Nat := 16384
def farSets : Nat := 1024

def State.sharers (s : State) (line : Nat) : Nat := tgetD 0 s.net.dir line

/-- Would a new line find room in its directory set? -/
def State.dirRoom (s : State) (line : Nat) : Bool :=
  s.sharers line ≠ 0 ∨
    (s.net.dir.filter fun e => e.1 % dirSets = line % dirSets ∧ hubOf (e.1 * 256) = hubOf (line * 256)).length < 16

def State.setSharers (s : State) (line v : Nat) : State := { s with net := { s.net with dir := tsetD 0 s.net.dir line v } }

/-- Which of the eight ways of a full set a new line takes: the spec gives no rule (DESIGN CHOICE, log entry 12). -/
def farVictim (n : Nat) : Nat := Config.freeChoice n % 8

/-- Keep a line in an E-die's far-line cache; a full set first gives up one line, with an eviction notice to its hub
that clears the E-die's bit (12 R278). -/
def State.keepLine (s : State) (d line : Nat) (bytes : List Byte) : State :=
  let inSet := s.net.lines.filter fun l => l.die = d ∧ l.line % farSets = line % farSets
  let s := if inSet.length < 8 then s else
    match inSet[farVictim s.fresh]? with
    | some v =>
      let s := { s with net := { s.net with lines := s.net.lines.filter (· ≠ v) } }
      (s.setSharers v.line (putBits (s.sharers v.line) d 1 0)).drew
    | none => s
  { s with net := { s.net with lines := s.net.lines ++ [⟨d, line, bytes⟩] } }

/-- The hub sends an invalidation to every sharer of a line (12 R278 step 1). -/
def State.snoopLine (s : State) (h line : Nat) : State :=
  (List.range 20).foldl (fun (s : State) (d : Nat) =>
    if bitAt (s.sharers line) d then
      let s : State := { s with net := { s.net with snoops := s.net.snoops ++ [⟨h, d, line, false⟩] } }
      s.incFld (.dirStat h) DIR_STAT_SNOOPS 1
    else s) s

/-- A write of `n` bytes at `a` reaches its hub: every line of it that is shared is invalidated (12 R278). -/
def State.snoopRange (s : State) (a n : Nat) : State :=
  match hubOf a with
  | some h => ((s.net.dir.map (·.1)).filter fun l => a / 256 ≤ l && l * 256 < a + n).foldl (fun (s : State) (l : Nat) => s.snoopLine h l) s
  | none => s

/-- A write or add of `n` bytes, in the address ranges `spans`, that reaches its hub: sharers are invalidated and the write is applied (`write`); it is acknowledged at
once, or after every sharer has answered (12 R278). -/
def State.sharedWrite (s : State) (src n : Nat) (spans : List (Nat × Nat)) (who : Option AckTo) (write : State → State) : State × Acc :=
  let shared := (s.net.dir.map (·.1)).filter fun l => s.sharers l ≠ 0 && spans.any fun x => x.1 / 256 ≤ l && l * 256 < x.1 + x.2
  match shared with
  | [] => (write s, .ok)
  | line :: _ =>
    let h := (hubOf (line * 256)).getD 0
    let s := write (shared.foldl (fun (s : State) (l : Nat) => s.snoopLine h l) s)
    ({ s with net := { s.net with acks := s.net.acks ++ [⟨h, shared, src, who, n⟩] } }, .queued)

/-- A sharer's answer reached the hub: its bit is cleared and the snoop is over; acknowledgements held for lines whose snoops are all
answered go. -/
def State.snoopOver (s : State) (sn : Snoop) : State :=
  let s := s.setSharers sn.line (putBits (s.sharers sn.line) sn.die 1 0)
  let s := { s with net := { s.net with snoops := s.net.snoops.filter (· ≠ sn) } }
  let settled (k : HeldAck) : Bool := !(s.net.snoops.any fun x => k.lines.contains x.line && !x.gone)
  let due := s.net.acks.filter settled
  let s := { s with net := { s.net with acks := s.net.acks.filter fun k => !settled k } }
  due.foldl (fun (s : State) (k : HeldAck) =>
    if k.who.isSome then s.ackTo k.who k.len else s.emit (.refusal k.src (k.lines.headD 0 * 256) 0)) s

/-- FC_RANGE words whose old range has no line left outstanding take effect (12 R278). -/
def State.settleRanges (s : State) : State :=
  s.net.rangeWait.foldl (fun (s : State) (e : Nat × Word) =>
    let r := Reg.fcRange e.1
    let lo := s.fld r FC_RANGE_BASE * 256
    let hi := (s.fld r FC_RANGE_LIMIT + 1) * 256
    if s.net.snoops.any (fun x => lo ≤ x.line ∧ x.line < hi) then s
    else
      let s := s.setReg r e.2
      { s with net := { s.net with rangeWait := s.net.rangeWait.filter (· ≠ e) } }) s

/-- SNOOP_ARRIVAL: an invalidation reaches E-die `d`. The line is dropped and the snoop answered; an E-die that no
longer holds it answers MISS, which the hub discards when an eviction notice was the answer already; a fill in
flight is marked not to be kept (12 Table 12-7). -/
def State.snoopArrival (s : State) (d line : Nat) : State :=
  match s.net.snoops.find? (fun x => x.die = d ∧ x.line = line) with
  | none => s
  | some sn =>
    let s := s.perturb (srcDie d)
    let lines := s.net.lines.filter fun l => ¬ (l.die = d ∧ l.line = line)
    let fills := s.net.fills.map fun f => if f.die = d ∧ f.line = line then { f with keep := false } else f
    let s := { s with net := { s.net with lines := lines, fills := fills } }
    if sn.gone then { s with net := { s.net with snoops := s.net.snoops.filter (· ≠ sn) } }
    else (s.snoopOver sn).settleRanges

def execSnoopArrival (d line : Nat) (s : State) : Res := .next (s.snoopArrival d line)

/-- EVICTION_NOTICE: E-die `d` gives up a line; the notice clears its sharer bit at the hub, and is the answer of a
snoop that is outstanding (DIR_STAT.CROSS) (12 R278, R279). -/
def State.evictionNotice (s : State) (d line : Nat) : State :=
  if s.net.lines.any (fun l => l.die = d ∧ l.line = line) then
    let s := { s with net := { s.net with lines := s.net.lines.filter fun l => ¬ (l.die = d ∧ l.line = line) } }
    match s.net.snoops.find? (fun x => x.die = d ∧ x.line = line ∧ x.gone = false) with
    | some sn =>
      let s := s.incFld (.dirStat sn.hub) DIR_STAT_CROSS 1
      let s := (s.snoopOver sn).settleRanges
      { s with net := { s.net with snoops := s.net.snoops ++ [{ sn with gone := true }] } }
    | none => s.setSharers line (putBits (s.sharers line) d 1 0)
  else s

def execEvictionNotice (d line : Nat) (s : State) : Res := .next (s.evictionNotice d line)

/-- FC_RANGE_WRITE: a write that enables a range reaching outside the hub's DRAM, or with LIMIT below BASE, is
ignored (12 R285). A disabled or changed entry takes effect after the hub has invalidated every line it covered
(12 R278). -/
def State.wrFcRange (s : State) (k : Nat) (h : Half) (v : Nat) : State :=
  let r := Reg.fcRange k
  let old := ((s.net.rangeWait.find? fun e => e.1 = k).map Prod.snd).getD (s.reg r)
  let new := writeFlds (s.lockOpen r) (halfMask h) (halfVal h v) (regFields r) old
  let base := fget new FC_RANGE_BASE
  let limit := fget new FC_RANGE_LIMIT
  let inHub := fun u => farKind (u * 65536) && hubOf (u * 65536) = some (k / 16)
  if fget new FC_RANGE_EN = 1 ∧ (limit < base ∨ inHub base = false ∨ inHub limit = false ∨
      (regionOf (base * 65536) matches .hbm _ _) ≠ (regionOf (limit * 65536) matches .hbm _ _)) then s
  else if new = old then s
  else if s.flag r FC_RANGE_EN = false then s.setReg r new
  else
    let lo := s.fld r FC_RANGE_BASE * 256
    let hi := (s.fld r FC_RANGE_LIMIT + 1) * 256
    let covered := (s.net.dir.map (·.1)).filter fun l => lo ≤ l ∧ l < hi
    let s := covered.foldl (fun (s : State) (l : Nat) => s.snoopLine (k / 16) l) s
    let s : State := { s with net := { s.net with rangeWait := (s.net.rangeWait.filter fun e => e.1 ≠ k) ++ [(k, new)] } }
    s.settleRanges

def execFcRangeWrite (k : Nat) (h : Half) (v : Nat) (s : State) : Res := .next (if k < 64 then s.onBus fun s => s.wrFcRange k h v else s)

/-! ### Buffer pools (12 R280, R281, R287) -/

def State.pool (s : State) (k : Nat) : PoolSt := tgetD {} s.net.pools k
def State.setPool (s : State) (k : Nat) (p : PoolSt) : State := { s with net := { s.net with pools := tsetD {} s.net.pools k p } }

/-- The partition a source speaks for at a pool: its quad's; frees through BAR0 or BAR2 count as frees by the owning
partition (12 R281). -/
def State.poolSrc (s : State) (src k : Nat) : Option Nat :=
  if isQuadUnit src then s.quadPart (src / 16) else if src = srcHost then some (s.fld (.poolCfg k) POOL_CFG_PART) else none

/-- May the source allocate: is it a master of the pool's partition (12 Table 12-8)? -/
def State.poolMaster (s : State) (src k : Nat) : Bool := isQuadUnit src && s.poolSrc src k = some (s.fld (.poolCfg k) POOL_CFG_PART)

/-- The descriptor layout of 12 R280. -/
def poolDesc (index pool die valid part owner gen : Nat) : Nat :=
  index % 2 ^ 16 + pool * 2 ^ 16 + die * 2 ^ 20 + valid * 2 ^ 25 + part * 2 ^ 26 + owner * 2 ^ 32 + gen % 2 ^ 16 * 2 ^ 44

/-- The lowest free index at or after the search point, going round. -/
def nextFree (used : List (Nat × Nat)) (count search : Nat) : Option Nat :=
  ((List.range count).map fun i => (search + i) % count).find? fun i => !(used.any fun u => u.1 = i)

/-- A read of POOL_ALLOC by `src`: the descriptor, and the pool after it (12 Table 12-8). -/
def State.poolAlloc (s : State) (src k : Nat) : State × Nat :=
  let r := Reg.poolCfg k
  let part := s.fld r POOL_CFG_PART
  let no (st : Nat) := poolDesc st (k % 16) (k / 16) 0 part (src % 4096) 0
  if s.flag r POOL_CFG_EN = false then (s, no 4)
  else if ¬ s.poolMaster src k then (s, no 3)
  else
    let p := s.pool k
    let count := s.fld r POOL_CFG_COUNTM1 + 1
    match nextFree p.used count p.search with
    | none => (s, no 1)
    | some i =>
      let gen := (tgetD 0 p.gens i + 1) % 2 ^ 16
      let s := s.setPool k { used := p.used ++ [(i, src)], gens := tsetD 0 p.gens i gen, search := (i + 1) % count }
      (s.setFld r POOL_CFG_FREE (s.fld r POOL_CFG_FREE - 1), poolDesc i (k % 16) (k / 16) 1 part (src % 4096) gen)

/-- POOL_ALLOC: the descriptor is returned to the requester. `lost`: the rotating grant pointer gave the last free
buffer of the cycle to another requester, and this one receives RETRY (12 Table 12-8). -/
def State.poolAllocRead (s : State) (src k : Nat) (lost : Bool) : State :=
  let r := Reg.poolCfg k
  if lost ∧ s.flag r POOL_CFG_EN ∧ s.poolMaster src k then
    s.emit (.readResp src (regBase + regOff (.poolAlloc k))
      (leBytes 8 (poolDesc 2 (k % 16) (k / 16) 0 (s.fld r POOL_CFG_PART) (src % 4096) 0)))
  else
    let (s, d) := s.poolAlloc src k
    s.emit (.readResp src (regBase + regOff (.poolAlloc k)) (leBytes 8 d))

def execPoolAlloc (src k : Nat) (lost : Bool) (s : State) : Res := .next (if k < 320 then s.poolAllocRead src k lost else s)

/-- A descriptor written to POOL_FREE of pool `k` (12 Table 12-8). -/
def State.poolFree (s : State) (src k d : Nat) : State :=
  let r := Reg.poolCfg k
  let part := s.fld r POOL_CFG_PART
  let who := s.poolSrc src k
  if bits d 25 1 = 0 ∨ bits d 20 5 ≠ k / 16 ∨ bits d 16 4 ≠ k % 16 then s.raise (who.getD modLog) src 0x0604 []
  else if who ≠ some part then s.raise part src 0x0605 []
  else
    let p := s.pool k
    let i := bits d 0 16
    if (p.used.any fun u => u.1 = i) && tgetD 0 p.gens i = bits d 44 16 then
      (s.setPool k { p with used := p.used.filter fun u => u.1 ≠ i }).setFld r POOL_CFG_FREE (s.fld r POOL_CFG_FREE + 1)
    else s.raise part src 0x0604 []

def execPoolFree (src k d : Nat) (s : State) : Res := .next (if k < 320 then s.poolFree src k d else s)

/-- Does the pool, as a POOL_CFG word describes it, stay clear of other pools' banks and the mooring area, inside its
partition's banks (12 R287)? -/
def State.poolFits (s : State) (k : Nat) (w : Word) : Bool :=
  let lg := fget w POOL_CFG_LOG2SZ
  let o := fget w POOL_CFG_BASE * 4096
  let n := (fget w POOL_CFG_COUNTM1 + 1) * 2 ^ lg
  let d := k / 16
  let last := (o + n - 1) / bankSize
  decide (6 ≤ lg) && decide (lg ≤ 20) && decide (o + n ≤ moorOff) &&
    (rangeFrom (o / bankSize) (last + 1 - o / bankSize)).all fun b =>
      s.owns (fget w POOL_CFG_PART) 1 (64 * d + b) &&
        !((List.range 16).any fun p => p ≠ k % 16 && s.flag (.poolCfg (16 * d + p)) POOL_CFG_EN && s.poolInBank (16 * d + p) b)

/-- POOL_CFG_WRITE: BASE, LOG2SZ, COUNTM1 and PART only while EN = 0; EN while PT_LOCK is open, to 1 only when the
pool fits, to 0 only when every buffer is free. Enabling makes every buffer free. -/
def State.wrPoolCfg (s : State) (k : Nat) (h : Half) (v : Nat) : State :=
  let r := Reg.poolCfg k
  let old := s.reg r
  let new := writeFlds (s.lockOpen r) (halfMask h) (halfVal h v) (regFields r) old
  if fget old POOL_CFG_EN = 0 ∧ fget new POOL_CFG_EN = 1 then
    if s.poolFits k new then
      (s.setReg r (fput new POOL_CFG_FREE (fget new POOL_CFG_COUNTM1 + 1))).setPool k { (s.pool k) with used := [], search := 0 }
    else s
  else if fget old POOL_CFG_EN = 1 ∧ fget new POOL_CFG_EN = 0 then
    if fget old POOL_CFG_FREE = fget old POOL_CFG_COUNTM1 + 1 then s.setReg r (fput new POOL_CFG_FREE 0) else s
  else s.setReg r new

def execPoolCfgWrite (k : Nat) (h : Half) (v : Nat) (s : State) : Res := .next (if k < 320 then s.onBus fun s => s.wrPoolCfg k h v else s)

end Sys2Proof.Machine
end

