-- ==== Sys2Proof/Machine/Queue.lean ====
section
/-! DEFINITION. The quay's queue engine (13): doorbells, fetch and its checks, completions, interrupts, queue pairs,
the control register, the BAR2 window, the PCIe link and the SPDM responder. -/

namespace Sys2Proof.Machine

/-! ### Status codes (13 Table 13-11) -/

def stSuccess : Nat := 0x0000
def stNotPresent : Nat := 0x0001
def stBuildDone : Nat := 0x0002
def stInvalidOpcode : Nat := 0x0010
def stInvalidParameter : Nat := 0x0011
def stNotOwner : Nat := 0x0012
def stNoPlan : Nat := 0x0013
def stBufferSmall : Nat := 0x0014
def stIdExists : Nat := 0x0015
def stCapacity : Nat := 0x0016
def stQuota : Nat := 0x0017
def stDeltaFull : Nat := 0x0018
def stGenBusy : Nat := 0x0019
def stNoBuild : Nat := 0x001A
def stPlacementRefused : Nat := 0x001B
def stAuditBusy : Nat := 0x001C
def stBusy : Nat := 0x001D
def stNoObject : Nat := 0x001E
def stPartitionOff : Nat := 0x001F
def stHostDma : Nat := 0x0020
def stTaskAborted : Nat := 0x0021
def stShardsUnavailable : Nat := 0x0022
def stAbandoned : Nat := 0x0023
def stFreed : Nat := 0x0024
def stDataLost : Nat := 0x0025
def stRecovered : Nat := 0x0030

/-- DNR of each status (13 Table 13-11). -/
def statusDnr (st : Nat) : Nat :=
  if [0x10, 0x11, 0x12, 0x14, 0x15, 0x1A, 0x1B, 0x1E, 0x23, 0x24, 0x25].contains st then 1 else 0

/-! ### Queue pairs and commands -/

def State.qp (s : State) (n : Nat) : QP := tgetD {} s.quay.qps n
def State.setQp (s : State) (n : Nat) (q : QP) : State := { s with quay := { s.quay with qps := tsetD {} s.quay.qps n q } }
/-- The command with fetch number `n`. -/
def State.cmd (s : State) (n : Nat) : Option Cmd := s.quay.cmds.find? (·.n = n)
def State.setCmd (s : State) (n : Nat) (f : Cmd → Cmd) : State :=
  { s with quay := { s.quay with cmds := mapIf (·.n = n) f s.quay.cmds } }
/-- The command's result is known. -/
def State.finish (s : State) (n st sp0 sp1 : Nat) (out : List Byte) : State :=
  s.setCmd n fun c => { c with st := .done st sp0 sp1 out }
/-- The command is refused: SPEC0 and SPEC1 are 0 (13 R302). -/
def State.refuse (s : State) (n st : Nat) : State := s.finish n st 0 0 []
/-- A write that is refused, naming the record at fault, or 0xFFFF_FFFF for none (13 R302). -/
def State.refuseWrite (s : State) (n st : Nat) (rec : Option Nat) : State := s.finish n st 0 (rec.getD 0xFFFFFFFF) []

/-- Fields of a submission entry (13 Table 13-5). -/
def Cmd.fld (c : Cmd) (off k : Nat) : Nat := leAt c.entry off k
def Cmd.flags (c : Cmd) : Nat := c.fld 1 1
def Cmd.object (c : Cmd) : Nat := c.fld 4 4
def Cmd.len0 (c : Cmd) : Nat := c.fld 16 4
def Cmd.len1 (c : Cmd) : Nat := c.fld 20 4
def Cmd.buf1 (c : Cmd) : Nat := c.fld 24 8
def Cmd.deadline (c : Cmd) : Nat := c.fld 32 4
def Cmd.count (c : Cmd) : Nat := c.fld 36 4

/-- The queue pair that a command of a deleted queue pair names: none. -/
def noQp : Nat := 0xFFFF

/-- The log of a queue pair's events: its partition's; queue pair 0's go to the module log (13, queue pairs). -/
def State.qpLog (s : State) (n : Nat) : Nat := if n = 0 ∨ (s.qp n).mode = .absent then modLog else (s.qp n).part

/-- Commands of a queue pair fetched and not completed. -/
def State.qpInflight (s : State) (n : Nat) : Nat := (s.quay.cmds.filter (·.qp = n)).length

/-- Entries posted and not consumed. -/
def QP.unconsumed (q : QP) : Nat := if q.cqDepth = 0 then 0 else (q.posted + q.cqDepth - q.head) % q.cqDepth

/-- Q_STAT.ACTIVEQ and RDY as the queue pairs stand (13 R311). -/
def State.qStat (s : State) : State :=
  (s.setFld .qStat Q_STAT_ACTIVEQ (s.quay.qps.filter (·.2.mode = .active)).length).setFld .qStat Q_STAT_RDY
    (if (s.qp 0).mode = .active then 1 else 0)

/-- The main domain is up, the quay neither lost nor stopped by a fault, and the life-cycle state keeps the module out of
reset (15 Table 15-5). -/
def State.mainUp (s : State) : Bool :=
  (s.pwr.phase = .up) && !(s.flag .qStat Q_STAT_FATAL) && s.lc ≠ lcRetired && s.trust.halted.isNone && !s.pwr.moduleLost

/-- The quay serves the host: it has ended its boot steps too (16 Table 16-12). -/
def State.quayUp (s : State) : Bool := s.mainUp && s.pwr.quayReady

/-! ### Doorbells (13 R291, R292) -/

/-- DB_INVALID (0x0702): bytes 16-17 queue pair, 18-19 value, 20 doorbell. -/
def State.dbInvalid (s : State) (n v which : Nat) : State :=
  s.raise (s.qpLog n) srcQuay 0x0702 (leBytes 2 n ++ leBytes 2 v ++ leBytes 1 which)

/-- A write of a submission tail doorbell. -/
def State.sqDoorbell (s : State) (n v : Nat) : State :=
  let q := s.qp n
  if q.mode ≠ .active ∨ q.sqDepth ≤ v then s.dbInvalid n v 0
  else if v = q.tail then s
  else if (q.tail + q.sqDepth - q.fetch) % q.sqDepth ≤ (v + q.sqDepth - q.fetch) % q.sqDepth then s.setQp n { q with tail := v }
  else s.dbInvalid n v 0

/-- A write of a completion head doorbell. -/
def State.cqDoorbell (s : State) (n v : Nat) : State :=
  let q := s.qp n
  if q.mode ≠ .active ∨ q.cqDepth ≤ v then s.dbInvalid n v 1
  else if (v + q.cqDepth - q.head) % q.cqDepth ≤ q.unconsumed then s.setQp n { q with head := v }
  else s.dbInvalid n v 1

/-- Doorbell writes are 4 or 8 bytes; every bit above [15:0] must be 0, so `v` is the whole value written. -/
def execSqTailDoorbell (n v : Nat) (s : State) : Res := .next (if s.quayUp ∧ n < 4096 then s.sqDoorbell n v else s)
def execCqHeadDoorbell (n v : Nat) (s : State) : Res := .next (if s.quayUp ∧ n < 4096 then s.cqDoorbell n v else s)

/-! ### Fetch (13 R294-R296) -/

/-- What an opcode allows: admin queue, OQI v1, CFLAGS bits, the common fields and the ranges of bytes 40-127 that it
uses (13 Table 13-6 and the operand list under it). -/
structure OpSpec where
  op : Nat
  admin : Bool
  v1 : Bool
  flags : Nat
  used : List (Nat × Nat)
deriving DecidableEq, Repr

def fOBJECT : Nat × Nat := (4, 8)
def fBUF0 : Nat × Nat := (8, 20)
def fBUF1 : Nat × Nat := (20, 32)
def fDEADLINE : Nat × Nat := (32, 36)
def fCOUNT : Nat × Nat := (36, 40)

/-- 13 Table 13-6. BUF0 stands with LEN0 and BUF1 with LEN1. -/
def opTable : List OpSpec := [
  ⟨0x01, true, false, 0, [(40, 68)]⟩,
  ⟨0x02, true, false, 0, [(40, 42)]⟩,
  ⟨0x03, true, false, 0, [fBUF1, (40, 45), (48, 56)]⟩,
  ⟨0x10, true, false, 1, [(40, 54)]⟩,
  ⟨0x11, true, false, 0, [(40, 48)]⟩,
  ⟨0x12, true, false, 0, [(40, 62)]⟩,
  ⟨0x13, true, false, 0, [(40, 48)]⟩,
  ⟨0x14, true, false, 1, [fOBJECT, (40, 47)]⟩,
  ⟨0x20, false, false, 0, [fBUF0]⟩,
  ⟨0x21, false, false, 0, [fOBJECT]⟩,
  ⟨0x22, false, false, 0, [fOBJECT, fBUF0]⟩,
  ⟨0x23, false, true, 0, [fOBJECT]⟩,
  ⟨0x24, false, true, 1, [fOBJECT, (40, 48)]⟩,
  ⟨0x25, false, true, 0, [fOBJECT]⟩,
  ⟨0x30, false, true, 0, [fOBJECT, fBUF0, fCOUNT, (40, 56)]⟩,
  ⟨0x31, false, true, 0, [fOBJECT, fBUF0, fCOUNT, (40, 56)]⟩,
  ⟨0x32, false, true, 0, [fOBJECT, fBUF0, fCOUNT, (40, 56)]⟩,
  ⟨0x33, false, true, 0, [fOBJECT, fBUF0, fCOUNT, (40, 48)]⟩,
  ⟨0x40, false, true, 15, [fOBJECT, fBUF0, fBUF1, fDEADLINE, (40, 50), (64, 124)]⟩,
  ⟨0x50, false, false, 1, [(40, 48), (64, 69)]⟩,
  ⟨0x51, false, false, 3, [fOBJECT, fBUF0, (64, 77), (78, 80)]⟩,
  ⟨0x52, false, false, 0, [fOBJECT, fBUF0]⟩,
  ⟨0x53, false, true, 0, [fOBJECT, (40, 50)]⟩,
  ⟨0x54, false, true, 0, [fOBJECT, (40, 50)]⟩]

def opSpec (op : Nat) : Option OpSpec := opTable.find? (·.op = op)

/-- Is every byte of the entry outside the used ranges zero (13 R295)? -/
def unusedZero (used : List (Nat × Nat)) (entry : List Byte) : Bool :=
  (List.range 128).all fun i => i < 4 || used.any (fun r => r.1 ≤ i && i < r.2) || bytesAt entry i 1 = [0#8]

/-- Writes: the commands that take a range-lock entry (13 R300). -/
def isWriteOp (op : Nat) : Bool := op = 0x30 || op = 0x31 || op = 0x32 || op = 0x33 || op = 0x21

/-- The writes of collections and history caches, whose fetch the pauses of 03 Table 3-3 and 16 R373 hold.
DESIGN CHOICE: whether COLL_DROP is one of them is open; the model never pauses it (DESIGN CHOICE, log entry 83). -/
def isDataWrite (op : Nat) : Bool := op = 0x30 || op = 0x31 || op = 0x32 || op = 0x33

/-- The refusal that the entry's own form brings, in this order: the opcode, its fields, the partition's state. -/
def State.entryCheck (s : State) (n : Nat) (q : QP) (entry : List Byte) : Option Nat :=
  match opSpec (leAt entry 0 1) with
  | none => some stInvalidOpcode
  | some o =>
    if o.admin ≠ decide (n = 0) ∨ (q.ver = 1 ∧ o.v1 = false) then some stInvalidOpcode
    else if leAt entry 1 1 &&& (255 - o.flags) ≠ 0 ∨ unusedZero o.used entry = false ∨
        2 ^ 24 < leAt entry 16 4 ∨ 2 ^ 24 < leAt entry 20 4 then some stInvalidParameter
    else if o.admin = false ∧ s.partOn q.part = false then some stPartitionOff
    else none

/-- Has the queue pair entries that the quay may fetch: ACTIVE, entries pending, and room in its CQ (13 R294)? -/
def State.fetchable (s : State) (n : Nat) : Bool :=
  let q := s.qp n
  (q.mode = .active) && (q.fetch ≠ q.tail) && decide (s.qpInflight n + q.unconsumed < q.cqDepth - 1)

/-- The fetchable queue pair that comes next after `t` in rotation over 1-4,095. -/
def State.nextTurn (s : State) (t : Nat) : Option Nat :=
  let live := (s.quay.qps.map (·.1)).filter fun n => n ≠ 0 && s.fetchable n
  match live.find? (fun n => t < n) with
  | some n => some n
  | none => live.head?

/-- Whose turn it is: queue pair 0 goes first; the others take turns in rotation, at most 8 entries a turn. -/
def State.turnOf (s : State) : Option Nat :=
  if s.fetchable 0 then some 0
  else if s.quay.turn ≠ 0 ∧ s.fetchable s.quay.turn ∧ s.quay.taken < 8 then some s.quay.turn
  else s.nextTurn s.quay.turn

/-- The delta log of a partition, and the collection or towers of a number. -/
def State.cpart (s : State) (p : Nat) : CPart := tgetD {} s.coll.parts p
def State.collOf (s : State) (k : Nat) : Option Coll := (tgetO s.coll.colls k).join
def State.towersOf (s : State) (m : Nat) : Towers := tgetD {} s.coll.towers m

/-- Is an entry unapplied, or undestaged: until APPLIED, or DESTAGED, covers it (03 R461)? -/
def CPart.unapplied (c : CPart) (e : DEntry) : Bool := decide (c.applied < e.seq)
def CPart.undestaged (c : CPart) (e : DEntry) : Bool := decide (c.destaged < e.seq)

/-- Bytes of the delta-log entries that satisfy `f`, module-wide (03 R461). -/
def State.deltaBytes (s : State) (f : CPart → DEntry → Bool) : Nat :=
  s.coll.parts.foldl (fun a p => p.2.entries.foldl (fun a e => if f p.2 e then a + e.size else a) a) 0

/-- The pause of write fetch (03 Table 3-3): more than 4 MiB unapplied or 256 MiB undestaged, module-wide. -/
def State.writePaused (s : State) : Bool :=
  decide (4 * 2 ^ 20 < s.deltaBytes CPart.unapplied) || decide (256 * 2 ^ 20 < s.deltaBytes CPart.undestaged)

/-- Is the fetch of a write held: the range-lock table is full, write fetch is paused, or hold-up energy is low (13 R300,
03 Table 3-3, 16 R373)? -/
def State.writeHeld (s : State) (op : Nat) : Bool :=
  (isWriteOp op && s.flag .qStat Q_STAT_RLFULL) || (isDataWrite op && (s.writePaused || s.flag .pmStat PM_STAT_HOLDLOW))

/-- The range-lock entry of a write (13 R300). -/
def lockOf (n op : Nat) (entry : List Byte) : RangeLock :=
  let lo := leAt entry 40 8
  if op = 0x21 then ⟨false, leAt entry 4 4, 0, 2 ^ 64 - 2, n⟩
  else if op = 0x33 then ⟨true, leAt entry 4 4, lo, lo, n⟩
  else ⟨false, leAt entry 4 4, lo, leAt entry 48 8, n⟩

def RangeLock.overlaps (a b : RangeLock) : Bool :=
  a.isModel = b.isModel && a.obj = b.obj && decide (a.lo ≤ b.hi) && decide (b.lo ≤ a.hi)

/-- Does a write wait: an earlier-fetched entry overlaps its own, or an earlier write of its queue pair waits (13 Table
13-8)? -/
def State.lockWaits (s : State) (n qp : Nat) (l : RangeLock) : Bool :=
  (s.quay.locks.any fun x => decide (x.cmd < n) && x.overlaps l) ||
    s.quay.cmds.any fun c => c.qp = qp && decide (c.n < n) && isWriteOp c.op && c.st = .waiting

/-- A fetched write takes its range-lock entry, and waits or not; RLFULL shows a full table. -/
def State.takeLock (s : State) (c : Cmd) : State :=
  if isWriteOp c.op then
    let l := lockOf c.n c.op c.entry
    let wait := c.st = .ready ∧ s.lockWaits c.n c.qp l
    let s := if wait then s.setCmd c.n fun c => { c with st := .waiting } else s
    let s : State := { s with quay := { s.quay with locks := s.quay.locks ++ [l] } }
    if 4096 ≤ s.quay.locks.length then s.setFld .qStat Q_STAT_RLFULL 1 else s
  else s

/-- A fetched query takes its read point, or is held until APPLIED reaches the queue pair's last completed write (03 R43);
the generations it uses are those live now (03 R54). -/
def State.takeReadPoint (s : State) (c : Cmd) : State :=
  if c.op = 0x40 then
    let a := (s.cpart c.part).applied
    let held := (s.qp c.qp).lastSeq > a
    let gen := match s.collOf c.object with
      | some k => k.live.num
      | none => 0
    s.setCmd c.n fun c => { c with
      hold := (s.qp c.qp).lastSeq
      rp := if held then none else some a
      st := if held ∧ c.st = .ready then .waiting else c.st
      gen := gen
      tgen := (s.towersOf (c.fld 48 2)).live }
  else s

/-- SUBMISSION_FETCH: the quay fetches the next entry of queue pair `n` and its payload, as read from host memory.
It has its effect only when it is that queue pair's turn. A write whose fetch is held stays in its queue and the turn goes
on to the next queue pair. -/
def State.fetch (s : State) (n : Nat) (raw payload : List Byte) (payloadOk : Bool) : State :=
  let q := s.qp n
  let entry := bytesAt (raw.take (if q.ver = 1 then 64 else 128)) 0 128
  let op := leAt entry 0 1
  if s.quayUp = false ∨ s.quay.stopped ∨ s.flag .qStat Q_STAT_PLSTOP ∨ s.turnOf ≠ some n ∨ 65536 ≤ s.quay.cmds.length then s
  else if n ≠ 0 ∧ s.writeHeld op then { s with quay := { s.quay with turn := n, taken := 8 } }
  else
    let st : CmdSt := match s.entryCheck n q entry with
      | some e => .done e 0 (if isDataWrite op ∧ e ≠ stInvalidOpcode then 0xFFFFFFFF else 0) []
      | none => if payloadOk then .ready else .done stHostDma 0 0 []
    let c : Cmd := { n := s.quay.nextCmd, qp := n, cid := leAt entry 2 2, op := op, part := q.part, tenant := q.tenant, entry := entry,
                     payload := payload.take (leAt entry 16 4), at_ := s.svcTime, st := st }
    let s := s.setQp n { q with fetch := (q.fetch + 1) % q.sqDepth }
    let taken := if n = s.quay.turn then s.quay.taken + 1 else 1
    let s : State := { s with quay := { s.quay with
        cmds := s.quay.cmds ++ [c], nextCmd := s.quay.nextCmd + 1,
        turn := if n = 0 then s.quay.turn else n, taken := if n = 0 then s.quay.taken else taken } }
    (s.takeLock c).takeReadPoint c

def execSubmissionFetch (n : Nat) (raw payload : List Byte) (payloadOk : Bool) (s : State) : Res :=
  .next (s.fetch n raw payload payloadOk)

/-- QP_ERROR: a failed read of a submission entry (cause 1), or a CQ write refused through AER (cause 2), moves an
ACTIVE or DRAINING queue pair to ERROR (13 R293, R308). -/
def State.qpError (s : State) (n cause : Nat) : State :=
  let q := s.qp n
  if q.mode = .active ∨ q.mode = .draining then
    ((s.setQp n { q with mode := .error, defers := [] }).qStat).raise (s.qpLog n) srcQuay 0x0703 (leBytes 2 n ++ leBytes 2 cause)
  else s

def execQpError (n cause : Nat) (s : State) : Res := .next (s.qpError n cause)

/-! ### Completions (13 R301-R304) -/

/-- The 32-byte completion entry (13 Table 13-9). -/
def cqEntry (q : QP) (n cid st sp0 sp1 : Nat) : List Byte :=
  let d := q.defers.headD (0, 0)
  leBytes 8 sp0 ++ leBytes 4 sp1 ++ leBytes 2 q.fetch ++ leBytes 2 n ++ leBytes 2 cid ++ leBytes 2 d.1 ++ leBytes 4 d.2 ++
    leBytes 4 0 ++ leBytes 2 st ++
    leBytes 2 ((if q.phase then 1 else 0) + (if 1 < q.defers.length then 2 else 0) + 4 * statusDnr st)

/-- Release the range-lock entry of a command (13 R300). -/
def State.unlock (s : State) (n : Nat) : State :=
  let locks := s.quay.locks.filter (·.cmd ≠ n)
  let s := { s with quay := { s.quay with locks := locks } }
  if locks.length < 4096 then s.setFld .qStat Q_STAT_RLFULL 0 else s

/-- A queue pair becomes ABSENT: its tenant owns one fewer, its commands complete to nobody. -/
def State.dropQp (s : State) (n : Nat) : State :=
  let q := s.qp n
  if q.mode = .absent then s
  else
    let s := s.setQp n {}
    let s := { s with quay := { s.quay with cmds := mapIf (·.qp = n) (fun c => { c with qp := noQp }) s.quay.cmds } }
    let s := if n = 0 then s else s.setFld (.tnCfg q.tenant) TN_CFG_QPS (s.fld (.tnCfg q.tenant) TN_CFG_QPS - 1)
    s.qStat

/-- A DRAINING queue pair with no command left becomes ABSENT, and its DELETE_QP completes (13 Table 13-4); so does one that met an
error while it drained. -/
def State.settleDrain (s : State) (n : Nat) : State :=
  match (s.qp n).delBy with
  | some d => if s.qpInflight n = 0 then (s.dropQp n).finish d stSuccess 0 0 [] else s
  | none => s

/-- Posting: the result of command `n`, and after it one 32-byte write of its completion entry. The
commands of a queue pair in ERROR or ABSENT end without one. -/
def State.postCompletion (s : State) (n : Nat) : State :=
  match s.cmd n with
  | none => s
  | some c =>
    match c.st with
    | .done st sp0 sp1 out =>
      let q := s.qp c.qp
      let s := { s with quay := { s.quay with cmds := s.quay.cmds.filter (·.n ≠ n) } }
      let s := s.unlock n
      let s := if q.mode = .active ∨ q.mode = .draining then
        let s := if out = [] then s else s.emit (.hostWrite c.buf1 out)
        let s := s.emit (.hostWrite (q.cqBase + 32 * q.posted) (cqEntry q c.qp c.cid st sp0 sp1))
        let wrap := q.posted + 1 = q.cqDepth
        s.setQp c.qp { q with
          posted := if wrap then 0 else q.posted + 1, phase := if wrap then !q.phase else q.phase,
          defers := q.defers.drop 1, since := q.since + 1, lastSeq := if isWriteOp c.op then max q.lastSeq (if st < 0x10 then sp0 else 0) else q.lastSeq,
          sinceAt := if q.since = 0 then s.svcTime else q.sinceAt }
        else s
      s.settleDrain c.qp
    | _ => s

/-- CQ_INTERRUPT: ICOUNT + 1 entries since the last interrupt, or ITIME µs since the first of them (13 R307). -/
def State.cqInterrupt (s : State) (n : Nat) : State :=
  let q := s.qp n
  if q.since ≠ 0 ∧ (q.icount + 1 ≤ q.since ∨ q.sinceAt + q.itime * tickUs ≤ s.svcTime) then
    (s.setQp n { q with since := 0 }).msix q.vec
  else s

def execCqInterrupt (n : Nat) (s : State) : Res := .next (s.cqInterrupt n)

/-- A write of the second word of an MSI-X table entry: unmasking a vector whose pending bit is set sends it. -/
def State.wrMsixData (s : State) (v : Nat) (h : Half) (x : Nat) : State :=
  let was := s.flag (.msixData v) MSIX_DATA_MASK
  let s := s.plainWrite (.msixData v) h x
  if was ∧ ¬ s.flag (.msixData v) MSIX_DATA_MASK ∧ bitAt (s.reg (.msixPba (v / 64))).toNat (v % 64) then
    (s.setReg (.msixPba (v / 64)) (BitVec.ofNat 64 (putBits (s.reg (.msixPba (v / 64))).toNat (v % 64) 1 0))).msix v
  else s

/-- MSIX_UNMASK: the host clears the mask bit of vector `v` (the high half of the word; its data are kept). -/
def execMsixUnmask (v : Nat) (s : State) : Res := .next (if v < 2048 then s.onBus fun s => s.wrMsixData v .high 0 else s)

/-! ### CREATE_QP and DELETE_QP (13 R293, R296, 15 R352) -/

/-- A free number among `count`, and the search starts where the spec leaves it open (DESIGN CHOICE, log entry 4). -/
def pickFree (start count : Nat) (used : List Nat) : Option Nat :=
  ((List.range (min count (used.length + 1))).map fun i => (start + i) % count).find? fun n => !used.contains n

/-- A number 1-4,095 with no queue pair; the search starts where the spec leaves it open (DESIGN CHOICE, log entry 4). -/
def State.freeQp (s : State) : Option Nat :=
  let live := (s.quay.qps.filter fun e => e.2.mode ≠ .absent && decide (e.1 ≠ 0)).map fun e => e.1 - 1
  (pickFree (Config.freeChoice s.fresh) 4095 live).map (· + 1)

def State.createQp (s : State) (c : Cmd) : State :=
  let p := c.fld 65 1
  let t := c.fld 66 2
  if 63 < p then s.refuse c.n stInvalidParameter
  else if s.partOn p = false then s.refuse c.n stPartitionOff
  else if c.fld 40 8 % 4096 ≠ 0 ∨ c.fld 48 8 % 4096 ≠ 0 ∨ c.fld 56 2 = 0 ∨ c.fld 58 2 = 0 ∨ 2047 < c.fld 60 2 ∨
      (c.fld 64 1 ≠ 1 ∧ c.fld 64 1 ≠ 2) ∨ 1023 < t ∨ s.tenantOk t p = false then s.refuse c.n stInvalidParameter
  else
    match s.freeQp with
    | none => s.refuse c.n stCapacity
    | some n =>
      let q : QP := { mode := .active, tenant := t, part := p, ver := c.fld 64 1, sqBase := c.fld 40 8, cqBase := c.fld 48 8,
                      sqDepth := c.fld 56 2 + 1, cqDepth := c.fld 58 2 + 1, vec := c.fld 60 2, icount := c.fld 62 1, itime := c.fld 63 1,
                      defers := tgetD [] s.coll.defers n, born := s.quay.nextCmd }
      let s : State := { s with coll := { s.coll with defers := tsetD [] s.coll.defers n [] } }
      let s := s.drew.setQp n q
      let s := s.setFld (.tnCfg t) TN_CFG_QPS (s.fld (.tnCfg t) TN_CFG_QPS + 1)
      s.qStat.finish c.n stSuccess n 0 []

/-- Run `f` on command `n` when it is fetched, has opcode `op` and is ready; else nothing happens. -/
def State.onCmd (s : State) (n op : Nat) (f : State → Cmd → State) : State :=
  match s.cmd n with
  | some c => if c.op = op ∧ c.st = .ready then f s c else s
  | none => s

def execCreateQp (n : Nat) (s : State) : Res := .next (s.onCmd n 0x01 State.createQp)

def State.deleteQp (s : State) (c : Cmd) : State :=
  let n := c.fld 40 2
  let q := s.qp n
  if n = 0 ∨ 4095 < n then s.refuse c.n stInvalidParameter
  else match q.mode with
    | .absent => s.refuse c.n stNoObject
    | .draining => s.refuse c.n stBusy
    | .error => if q.delBy.isSome then s.refuse c.n stBusy else (s.dropQp n).finish c.n stSuccess 0 0 []
    | .active =>
      let s := (s.setQp n { q with mode := .draining, delBy := some c.n }).qStat
      let s := s.setCmd c.n fun c => { c with st := .running }
      s.settleDrain n

def execDeleteQp (n : Nat) (s : State) : Res := .next (s.onCmd n 0x02 State.deleteQp)

/-! ### Q_CTL (13 R310) and the quay's stop (13 R311) -/

/-- Every queue pair is deleted. -/
def State.dropAllQps (s : State) : State := (s.quay.qps.map (·.1)).foldl State.dropQp s

/-- Queue pair 0 as QA_SQB, QA_CQB and QA_SIZE define it: OQI v2, vector 0. -/
def State.adminQp (s : State) : QP :=
  { mode := .active, ver := 2, sqBase := s.fld .qaSqb QA_SQB_BASE * 4096, cqBase := s.fld .qaCqb QA_CQB_BASE * 4096,
    sqDepth := s.fld .qaSize QA_SIZE_SQM1 + 1, cqDepth := s.fld .qaSize QA_SIZE_CQM1 + 1 }

def State.qEnable (s : State) (en : Bool) : State :=
  if en ∧ ¬ s.flag .qCtl Q_CTL_EN then ((s.setFld .qCtl Q_CTL_EN 1).setQp 0 s.adminQp).qStat
  else if ¬ en ∧ s.flag .qCtl Q_CTL_EN then (s.setFld .qCtl Q_CTL_EN 0).dropAllQps
  else s

/-- SRESET: the queue engine resets, every queue pair is deleted, EN with them; the bit clears as the reset starts. -/
def State.qReset (s : State) : State := (s.setFld .qCtl Q_CTL_EN 0).dropAllQps

/-- A write of Q_CTL. -/
def State.wrQctl (s : State) (h : Half) (v : Nat) : State :=
  if s.quayUp = false then s
  else if wrote h Q_CTL_SRESET ∧ wval h v Q_CTL_SRESET = 1 then s.qReset
  else if wrote h Q_CTL_EN then s.qEnable (wval h v Q_CTL_EN = 1) else s

def execQCtlEn (en : Bool) (s : State) : Res := .next (s.wrQctl .whole (if en then 1 else 0))
def execQCtlSreset (s : State) : Res := .next (s.wrQctl .whole 2)

/-- Writes of QA_SQB, QA_CQB and QA_SIZE: ignored while EN = 1; QA_SIZE also with a field 0 or above 0x0FFF. -/
def State.wrQa (s : State) (r : Reg) (h : Half) (v : Nat) : State := if s.flag .qCtl Q_CTL_EN then s else s.plainWrite r h v
def State.wrQaSize (s : State) (h : Half) (v : Nat) : State :=
  let bad := fun f => wrote h f && (wval h v f = 0 || decide (0x0FFF < wval h v f))
  if bad QA_SIZE_SQM1 ∨ bad QA_SIZE_CQM1 then s else s.wrQa .qaSize h v

/-! ### BAR2 (13 R289, R290) -/

/-- The local address of a BAR2 offset. -/
def State.bar2Addr (s : State) (x : Nat) : Nat := s.bar2Base + x

/-- A refusal raises HOST_ADDR (0x0705); a refused read completes with Completer Abort, a refused write is
discarded. -/
def State.bar2Refuse (s : State) (x : Nat) (write : Bool) : State :=
  let s := s.raise modLog srcQuay 0x0705 (leBytes 8 x ++ leBytes 1 (if write then 1 else 0))
  if write then s else s.emit (.hostRead none)

/-- The bytes of a host read, or Completer Abort where the bank does not serve or the bytes are lost. -/
def State.bar2Read (s : State) (a n : Nat) : State :=
  let r := s.touch a
  r.1.emit (.hostRead (if r.2 ∧ s.lostIn a n = false then some (ofLE (r.1.rd a n)) else none))

/-- The bytes of a host write, dropped where the bank does not serve. -/
def State.bar2Write (s : State) (a : Nat) (bs : List Byte) : State :=
  let r := s.touch a
  if r.2 then r.1.wr a bs else r.1

/-- A host access to a bit-set or bit-clear alias, at scratchpad offset `o`. -/
def State.bar2Alias (s : State) (x n : Nat) (data : Option (List Byte)) (set : Bool) (o : Nat) : State :=
  let served := match moorAt (o % spSize) with
    | some m => s.moorServes srcHost m
    | none => s.mayReach srcHost (spBase + o)
  if served = false ∨ 20 * spSize ≤ o then s.bar2Refuse x data.isSome
  else match data with
    | some d => if aliasOk o d.length then s.aliasWrite srcHost set o d else s.bar2Refuse x true
    | none => if aliasOk o n then s.bar2Read (spBase + o) n else s.bar2Refuse x false

/-- Is the address in a sketch block under conversion (05 R100), or in a granule whose wipe is pending (15 R345)? Its
accesses wait at the hub. -/
def State.converting (s : State) (a : Nat) : Bool :=
  (match regionOf a with
  | .sketch n o => s.sk.conv.contains (48 * n + o % skBank / 2 ^ 20)
  | _ => false) ||
  match granuleOf a with
  | some g => s.part.wipes.contains g
  | none => false

/-- An access waits at its hub. -/
def State.hold (s : State) (h : HeldAcc) : State := { s with tier := { s.tier with heldAcc := s.tier.heldAcc ++ [h] } }

/-- A host access that the window maps to address `a`, `len` bytes long. -/
def State.bar2Serve (s : State) (x n len a : Nat) (data : Option (List Byte)) : State :=
  match regionOf a with
  | .setAlias o => s.bar2Alias x n data true o
  | .clrAlias o => s.bar2Alias x n data false o
  | .spad d o =>
    match moorAt o with
    | some m =>
      if s.moorServes srcHost m = false then s.bar2Refuse x data.isSome
      else if data.isSome then s.incFld (.spadStat d) SPAD_STAT_MPLAIN 1
      else s.emit (.hostRead (some (ofLE (s.rd a n))))
    | none =>
      if s.mayReach srcHost a = false then s.bar2Refuse x data.isSome
      else match data with
        | some b => s.bar2Write a b
        | none => s.bar2Read a n
  | .hbm _ _ | .sketch _ _ | .gddr _ _ =>
    if s.mayReach srcHost a = false ∨ s.mayReach srcHost (a + len - 1) = false then s.bar2Refuse x data.isSome
    else if s.converting a = true ∨ s.converting (a + len - 1) = true then s.hold ⟨srcHost, .addr a, n, data, 0, some x⟩
    else match data with
      | some b => if s.lostIn a len then s else (s.snoopRange a len).wr a b
      | none => s.bar2Read a n
  | _ => s.bar2Refuse x data.isSome

/-- BAR2_ACCESS: a read of `n` bytes (`data` empty) or a write of `data` at BAR2 offset `x`. -/
def State.bar2 (s : State) (x n : Nat) (data : Option (List Byte)) : State :=
  let len := match data with | some d => d.length | none => n
  if s.quayUp = false then s
  else if 2 ^ s.quay.bar2Log < x + len then (if data.isSome then s else s.emit (.hostRead none))
  else s.bar2Serve x n len (s.bar2Addr x) data

def execBar2Access (x n : Nat) (data : Option (List Byte)) (s : State) : Res := .next (s.bar2 x n data)

/-! ### The PCIe link and its responder (13 R288) -/

/-- PCIE_LINK_TRAINING to `rate` GT/s (2 stands for 2.5) and `width` lanes: x16, x8 and x4 at 64, 32, 16 or 8 GT/s,
and operation held at 2.5 or 5.0, within the ceilings of the boot configuration; a degraded result raises LINK_DEGRADED. Any other width or rate trains no link. -/
def State.linkTrain (s : State) (rate width : Nat) : State :=
  if s.mainUp = false ∨ s.pwr.perstN = false ∨ s.pwr.refclk = false then s
  else if [64, 32, 16, 8, 5, 2].contains rate = false ∨ [16, 8, 4].contains width = false then
    (s.setFld .qStat Q_STAT_LINKGEN 0).setFld .qStat Q_STAT_LINKW 0
  else
    let rate := min rate s.quay.maxRate
    let width := min width s.quay.maxWidth
    let s := (s.setFld .qStat Q_STAT_LINKGEN rate).setFld .qStat Q_STAT_LINKW width
    if rate < 8 ∨ width < 16 then s.raise modLog srcQuay 0x0706 (leBytes 1 rate ++ leBytes 1 width) else s

def execPcieLinkTraining (rate width : Nat) (s : State) : Res := .next (s.linkTrain rate width)

/-- The link carries requests. -/
def State.linkUp (s : State) : Bool := s.quayUp && s.flag .qStat Q_STAT_LINKW

/-- Measurements 1-8, joined: what the alias key is derived from (15 R362). -/
def State.measAll (s : State) : List Byte := (rangeFrom 1 8).flatMap fun i => tgetD [] s.trust.meas i

/-- An answer over DOE, while the link is up. -/
def State.doeAnswer (s : State) (bs : List Byte) : State := if s.linkUp then s.emit (.doe bs) else s

/-- DOE_DISCOVERY: the two data object types served: DOE Discovery (0) and CMA/SPDM (1). -/
def execDoeDiscovery (s : State) : Res := .next (s.doeAnswer [0#8, 1#8])
/-- GET_VERSION: SPDM 1.2 and 1.3. -/
def execGetVersion (s : State) : Res :=
  .next (({ s with quay := { s.quay with spdm := { version := s.linkUp || s.quay.spdm.version, caps := s.quay.spdm.caps, algs := s.quay.spdm.algs } } } : State).doeAnswer
    [0x12#8, 0x13#8])
/-- GET_CAPABILITIES: certificates, challenge and measurements with signature; no secured sessions (13 Table 13-1). -/
def execGetCapabilities (s : State) : Res :=
  .next (({ s with quay := { s.quay with spdm := { s.quay.spdm with caps := s.linkUp || s.quay.spdm.caps } } } : State).doeAnswer [1#8, 1#8, 1#8, 0#8])
/-- NEGOTIATE_ALGORITHMS: SHA-384 and ECDSA P-384 only. -/
def execNegotiateAlgorithms (s : State) : Res :=
  .next (({ s with quay := { s.quay with spdm := { s.quay.spdm with algs := s.linkUp || s.quay.spdm.algs } } } : State).doeAnswer
    (leBytes 2 384 ++ leBytes 2 384))
/-- GET_DIGESTS: the digest of the slot 0 chain. -/
def execGetDigests (s : State) : Res := .next (s.doeAnswer (Config.sha384 (Config.certChain s.measAll)))
/-- GET_CERTIFICATE: `n` bytes of the slot 0 chain from `off`. -/
def execGetCertificate (off n : Nat) (s : State) : Res := .next (s.doeAnswer (((Config.certChain s.measAll).drop off).take n))
/-- CHALLENGE: the requester's nonce, signed by the alias key with the chain's digest. -/
def execChallenge (nonce : List Byte) (s : State) : Res :=
  .next (s.doeAnswer (Config.sha384 (Config.certChain s.measAll) ++
    Config.aliasSign s.measAll (nonce ++ Config.sha384 (Config.certChain s.measAll))))
/-- GET_MEASUREMENTS: the measurements 1-9, signed by the alias key with the requester's nonce. -/
def execGetMeasurements (nonce : List Byte) (s : State) : Res :=
  let m := (rangeFrom 1 9).flatMap fun i => tgetD [] s.trust.meas i
  .next (s.doeAnswer (m ++ Config.aliasSign s.measAll (nonce ++ m)))

end Sys2Proof.Machine
end

