-- ==== Sys2Proof/Machine/Tiers.lean ====
section
/-! DEFINITION. Memory tiers (11): DRAM errors, retirement, failures and thermal states, tier objects with their
places, moves and quotas, and flash. -/

namespace Sys2Proof.Machine

def execCvtWindowRestart (k : Nat) (s : State) : Res := .next (if k < 84 then s.cvtRestart k else s)

/-! ### Tiers and quotas (11 R255, R466, R467, 15 R353) -/

/-- The tier's place in TN_TIER (15 R368). -/
def Tier.k : Tier → Nat
  | .hbm => 0
  | .sketch => 1
  | .gddr => 2
  | .flash => 3

/-- The tier code of OBJ_CREATE and OBJ_MOVE (13 Table 13-6). -/
def tierOf : Nat → Option Tier
  | 0 => some .hbm
  | 1 => some .gddr
  | 2 => some .sketch
  | 3 => some .flash
  | _ => none

/-- The unit of a tier's charges. -/
def tierUnit (k : Nat) : Nat := if k = 3 then 2 ^ 20 else 65536

def State.use (s : State) (t k : Nat) : Nat := s.fld (.tnTier (4 * t + k)) TN_TIER_USE
def State.setUse (s : State) (t k u : Nat) : State := s.setFld (.tnTier (4 * t + k)) TN_TIER_USE (min u (2 ^ 32 - 1))
def State.quota (s : State) (t k : Nat) : Nat := s.fld (.tnTier (4 * t + k)) TN_TIER_QUOTA
def State.chargeTo (s : State) (t k u : Nat) : State := s.setUse t k (s.use t k + u)
def State.release (s : State) (t k u : Nat) : State := s.setUse t k (s.use t k - u)
/-- A charge that would take use above the quota is refused (11 R255). -/
def State.quotaOk (s : State) (t k u : Nat) : Bool := u = 0 || decide (s.use t k + u ≤ s.quota t k)

/-! Bytes that the collection manager charges for versions and histories (03 R462). -/

/-- Change the bytes charged to a tenant and its partition in tier `k`; USE follows, rounded up to the tier's unit. -/
def State.chargeBytes (s : State) (t p k : Nat) (f : Nat → Nat) : State :=
  let old := tgetD 0 s.coll.bytes (4 * t + k)
  let s : State := { s with coll := { s.coll with
      bytes := tsetD 0 s.coll.bytes (4 * t + k) (f old), pbytes := tsetD 0 s.coll.pbytes (4 * p + k) (f (tgetD 0 s.coll.pbytes (4 * p + k))) } }
  (s.release t k (ceilDiv old (tierUnit k))).chargeTo t k (ceilDiv (f old) (tierUnit k))

def State.chargeAll (s : State) (t p : Nat) (cs : List (Nat × Nat)) : State := cs.foldl (fun s c => s.chargeBytes t p c.1 (· + c.2)) s
def State.freeAll (s : State) (t p : Nat) (cs : List (Nat × Nat)) : State := cs.foldl (fun s c => s.chargeBytes t p c.1 (· - c.2)) s
/-- The units that `n` more bytes add in tier `k`. -/
def State.moreUnits (s : State) (t k n : Nat) : Nat :=
  let old := tgetD 0 s.coll.bytes (4 * t + k)
  ceilDiv (old + n) (tierUnit k) - ceilDiv old (tierUnit k)

/-- Would `n` more bytes take USE above QUOTA? -/
def State.overQuota (s : State) (t k n : Nat) : Bool := n ≠ 0 && decide (s.quota t k < s.use t k + s.moreUnits t k n)

/-- Bytes of flash charged to the tenants of a partition, and to all tenants. -/
def State.flashOf (s : State) (p : Nat) : Nat :=
  ((List.range 1024).filter fun t => s.fld (.tnCfg t) TN_CFG_PART = p).foldl (fun a t => a + s.use t 3 * 2 ^ 20) 0
def State.flashAll (s : State) : Nat := (List.range 1024).foldl (fun a t => a + s.use t 3 * 2 ^ 20) 0

/-- Does a flash charge of `u` units fit the partition's share and the user capacity (15 R353, 11 R259)? -/
def State.flashRoom (s : State) (p u : Nat) : Bool :=
  u = 0 || (decide (s.flashOf p + u * 2 ^ 20 ≤ s.fld (.ptCfg p) PT_CFG_FLASHGB * 10 ^ 9) &&
    decide (s.flashAll + u * 2 ^ 20 ≤ s.fld .flStat FL_STAT_USERGB * 10 ^ 9))

/-- Bytes programmed into flash: WEAR is the share of the rated traffic, 3,000 times the user capacity; reaching 100
raises FL_WEAROUT once (11 R259, 17 Table 17-9). -/
def State.program (s : State) (n : Nat) : State :=
  let total := s.tier.programmed + n
  let s : State := { s with tier := { s.tier with programmed := total } }
  let wear := total * 100 / (3000 * ratedGb * 10 ^ 9)
  let s := s.setFld .flStat FL_STAT_WEAR (min wear 0xFF)
  if 100 ≤ wear ∧ s.pwr.wearSaid = false then
    ({ s with pwr := { s.pwr with wearSaid := true } } : State).raise modLog srcM 0x0B08 (leBytes 8 (total / 10 ^ 9))
  else s

/-! ### Objects (11 R251, R252) -/

def Obj.size (o : Obj) : Nat := o.elemb * o.elems

/-- The handle of an object. -/
def handleBits (tenant part hub salt number : Nat) : Nat :=
  number + salt % 2 ^ 14 * 2 ^ 32 + hub * 2 ^ 46 + part * 2 ^ 48 + tenant * 2 ^ 54
def Obj.handle (o : Obj) : Nat := handleBits o.tenant o.part o.hub o.salt o.number

/-- The live object that a handle names: every field must match, reserved bits included. -/
def State.obj (s : State) (h : Nat) : Option Obj := s.tier.objs.find? (·.handle = h)
def State.mapObj (s : State) (h : Nat) (f : Obj → Obj) : State :=
  { s with tier := { s.tier with objs := mapIf (·.handle = h) f s.tier.objs } }

/-- The live object that holds an address. -/
def State.objAt (s : State) (a : Nat) : Option Obj :=
  s.tier.objs.find? fun o => o.pieces.any fun p => match p.addr with
    | some b => decide (b ≤ a) && decide (a < b + p.len)
    | none => false

/-- The place of an object's byte. -/
def Obj.place (o : Obj) (i : Nat) : Option Nat :=
  match o.pieces.find? fun p => p.off ≤ i && i < p.off + p.len with
  | some p => p.addr.map (· + (i - p.off))
  | none => none

/-- A byte of an object: from DRAM, from its flash residence, or, where the DRAM is lost, from its flash home. -/
def State.objByte (s : State) (o : Obj) (i : Nat) : Byte :=
  match o.place i with
  | some a => if s.byteLost a then tgetD 0#8 o.home i else memByte s.mem a
  | none => tgetD 0#8 o.flash i
def State.objRead (s : State) (o : Obj) (off n : Nat) : List Byte := (rangeFrom off n).map (s.objByte o)

/-- Is some byte of the range only in flash? -/
def Obj.inFlash (o : Obj) (off n : Nat) : Bool :=
  o.pieces.any fun p => p.addr.isNone && decide (p.off < off + n) && decide (off < p.off + p.len)

/-- Is some byte of the range lost without a flash home? -/
def State.objLost (s : State) (o : Obj) (off n : Nat) : Bool :=
  !o.hasHome && (rangeFrom off n).any fun i => match o.place i with
    | some a => s.byteLost a
    | none => false

/-- Write bytes to an object: DRAM where it lies there, else its flash residence. -/
def State.objWrite (s : State) (h : Nat) (off : Nat) : List Byte → State
  | [] => s
  | b :: bs =>
    let s := match s.obj h with
      | some o => match o.place off with
        | some a => s.wr a [b]
        | none => s.mapObj h fun o => { o with flash := tsetD 0#8 o.flash off b }
      | none => s
    s.objWrite h (off + 1) bs

/-- The listed (nonzero) bytes of an object in `[lo, hi)`: of its flash home where the DRAM is lost. -/
def State.objCells (s : State) (o : Obj) (lo hi : Nat) : List (Nat × Byte) :=
  (o.pieces.flatMap fun p => match p.addr with
    | some a => ((s.mem.filter fun c => a ≤ c.1 && c.1 < a + p.len && !(s.byteLost c.1)).map fun c => (p.off + (c.1 - a), c.2)) ++
        o.home.filter fun c => p.off ≤ c.1 && c.1 < p.off + p.len && s.byteLost (a + (c.1 - p.off))
    | none => (o.flash.filter fun c => p.off ≤ c.1 && c.1 < p.off + p.len)).filter fun c => lo ≤ c.1 && c.1 < hi

/-! ### DRAM errors and retirement (11 R243, R244) -/

/-- The source of events about an address's stack or device (17 Table 17-2). -/
def memSrc (a : Nat) : Nat :=
  match regionOf a with
  | .hbm n _ => srcHs n
  | .sketch n _ => srcSk n
  | .gddr h o => srcGddr (gddrDev h o)
  | .spad d _ => srcDie d
  | _ => srcHub 0

/-- The handle of the object that holds an address, 0 for none. -/
def State.handleAt (s : State) (a : Nat) : Nat := ((s.objAt a).map Obj.handle).getD 0

/-- A page of 64 KiB enters the retirement table of its stack or region; a full table of 4,096 entries marks it
degraded instead. -/
def State.retirePage (s : State) (a : Nat) : State :=
  let page := a / 65536
  let bs := leBytes 8 (page * 65536) ++ leBytes 8 (s.handleAt a)
  let same : Nat → Bool := fun p => match regionOf (p * 65536), regionOf a with
    | .hbm n _, .hbm m _ => n = m
    | .sketch n _, .sketch m _ => n = m
    | .gddr n _, .gddr m _ => n = m
    | _, _ => false
  if s.tier.retired.contains page then s
  else if (s.tier.retired.filter same).length < 4096 then
    let s : State := { s with tier := { s.tier with retired := s.tier.retired ++ [page] } }
    let s := match regionOf a with
      | .hbm n _ => s.incFld (.memHerr n) MEM_HERR_RETIRED 1
      | .gddr h _ => s.incFld (.memGret h) MEM_GRET_COUNT 1
      | _ => s
    s.raise (s.addrLog a) (memSrc a) 0x0502 bs
  else
    let s := match regionOf a with
      | .hbm n _ => s.setFld (.memHstat n) MEM_HSTAT_DEGRADED 1
      | .gddr h _ => s.setFld (.memGret h) MEM_GRET_DEGRADED 1
      | _ => s
    s.raise (s.addrLog a) (memSrc a) 0x0503 []

/-- A corrected error: counted; a second one at the same 32-byte word within 24 hours retires the page. -/
def State.memCe (s : State) (a : Nat) : State :=
  let s := match regionOf a with
    | .hbm n _ => s.incFld (.memHerr n) MEM_HERR_CE 1
    | .gddr h o => s.incFld (.memGstat (gddrDev h o)) MEM_GSTAT_CE 1
    | .sketch n _ => { s with sk := { s.sk with ce := tsetD 0 s.sk.ce n (tgetD 0 s.sk.ce n + 1) } }
    | _ => s
  let w := a / 32
  let again := match tgetO s.tier.ceTimes w with
    | some t => decide (s.svcTime - t ≤ 86400 * tickS)
    | none => false
  let s : State := { s with tier := { s.tier with ceTimes := tins w s.svcTime s.tier.ceTimes } }
  if again then s.retirePage a else s

/-- An uncorrectable read: counted, reported with the address and the owning object, and its page retired. -/
def State.memUe (s : State) (a : Nat) : State :=
  let s := match regionOf a with
    | .hbm n _ => (s.incFld (.memHerr n) MEM_HERR_UE 1).setFld (.memHerr n) MEM_HERR_UESEEN 1
    | .gddr h o => (s.incFld (.memGstat (gddrDev h o)) MEM_GSTAT_UE 1).setFld (.memGstat (gddrDev h o)) MEM_GSTAT_UESEEN 1
    | _ => s
  (s.raise (s.addrLog a) (memSrc a) 0x0501 (leBytes 8 a ++ leBytes 8 (s.handleAt a))).retirePage a

/-- Link CRC failures of a GDDR7 read: each of up to three retries is counted, and a fourth failure is uncorrectable (11 Table 11-3). -/
def State.memCrc (s : State) (a n : Nat) : State :=
  match regionOf a with
  | .gddr h o =>
    let s := s.incFld (.memGstat (gddrDev h o)) MEM_GSTAT_CRC (min n 3)
    if 3 < n then s.memUe a else s
  | _ => s

/-- Does a read of `a` that ends so give no data? -/
def uncorrectable (a : Nat) : MemErr → Bool
  | .ue => true
  | .crc n => match regionOf a with
    | .gddr _ _ => decide (3 < n)
    | _ => false
  | _ => false

/-- A failure of a lane, channel, stack or device (11 Table 11-5a). `unit`: HBM3E stack n, GDDR7 device 16 + d, sketch
stack 64 + s. Objects with bytes there and no flash home raise MEM_LOST. A whole HBM3E stack fails all its
channels. -/
def State.loseObjects (s : State) : State :=
  s.tier.objs.foldl (fun (s : State) (o : Obj) =>
    if !o.lost && !o.hasHome && o.pieces.any (fun p => match p.addr with
        | some a => s.byteLost a || s.byteLost (a + p.len - 1) || (rangeFrom (a / 256) (min (p.len / 256) 64)).any fun b => s.byteLost (b * 256)
        | none => false) then
      (s.mapObj o.handle fun o => { o with lost := true }).raise o.part (srcHub o.hub) 0x0505 []
    else s) s

def State.chFail (s : State) (unit : Nat) (how : ChFail) : State :=
  let src := if unit < 12 then srcHs unit else if unit < 64 then srcGddr (unit - 16) else srcSk (unit - 64)
  let ok := unit < 12 ∨ (16 ≤ unit ∧ unit < 64) ∨ (64 ≤ unit ∧ unit < 72)
  if ¬ ok then s
  else
    let s := s.raise modLog src 0x0504 []
    let fence (s : State) : State := if s.tier.failed.contains unit then s else
      { s with tier := { s.tier with failed := s.tier.failed ++ [unit] } }
    if unit < 12 then
      match how with
      | .laneSpare => s
      | .laneNoSpare c => s.setFld (.memHstat unit) MEM_HSTAT_HALFW (putBits (s.fld (.memHstat unit) MEM_HSTAT_HALFW) c 1 1)
      | .channel c =>
        ((s.affectAll (s.ownersOf 2 (36 * unit) 36) 0x0504).setFld (.memHstat unit) MEM_HSTAT_CHFAIL (putBits (s.fld (.memHstat unit) MEM_HSTAT_CHFAIL) c 1 1)).loseObjects
      | .whole =>
        let s := fence (s.setFld (.memHstat unit) MEM_HSTAT_CHFAIL 0xFFFF)
        let s := s.setFld .fltHealth FLT_HEALTH_HSOUT (putBits (s.fld .fltHealth FLT_HEALTH_HSOUT) unit 1 1)
        ((s.affectAll (s.ownersOf 2 (36 * unit) 36) 0x0B04).raise modLog srcM 0x0B04 (leBytes 2 src)).loseObjects
    else if unit < 64 then
      match how with
      | .laneSpare | .laneNoSpare _ => s
      | _ => (fence ((s.affectAll (s.ownersOf 3 (36 * ((unit - 16) / 12)) 36) 0x0504).setFld (.memGstat (unit - 16)) MEM_GSTAT_FAILED 1)).loseObjects
    else
      match how with
      | .laneSpare | .laneNoSpare _ | .channel _ => s
      | .whole =>
        let s := fence s
        let s := s.setFld .fltHealth FLT_HEALTH_SKOUT (putBits (s.fld .fltHealth FLT_HEALTH_SKOUT) (unit - 64) 1 1)
        ((s.affectAll (s.ownersOf 4 (512 * (unit - 64)) 512) 0x0B04).raise modLog srcM 0x0B04 (leBytes 2 src)).loseObjects

def execMemChfail (unit : Nat) (how : ChFail) (s : State) : Res := .next (s.chFail unit how)

/-! ### Thermal states (11 R246) -/

/-- The state after a report `t`. Each state above the first has the lowest temperature that enters it and the one
that leaves it, 3 °C below the point of entry. -/
def thermalNext (ups : List (Nat × Nat)) (old t : Nat) : Nat :=
  let reached := (ups.filter fun u => u.1 ≤ t).length
  let kept := ((ups.take old).filter fun u => u.2 < t).length
  max reached kept

/-- DRAM_TEMPERATURE_REPORT: temperatures are whole degrees, so "above 85" starts at 86; a state entered above 85 is
left at 82. -/
def State.dramTemp (s : State) (unit t : Nat) : State :=
  let old := tgetD 0 s.pwr.thermal unit
  let keep (s : State) (l : Nat) : State := { s with pwr := { s.pwr with thermal := tsetD 0 s.pwr.thermal unit l } }
  if unit < 12 then
    let r := Reg.memHstat unit
    let lim := s.fld r MEM_HSTAT_LIMIT
    let l := thermalNext [(86, 82), (96, 92), (lim, lim - 3)] old t
    let s := keep s l
    let s := ((s.setFld r MEM_HSTAT_TEMP t).setFld r MEM_HSTAT_REFX (min l 2)).setFld r MEM_HSTAT_HTHROT (if l = 3 then 1 else 0)
    let s := if old < 1 ∧ 1 ≤ l then s.setFld r MEM_HSTAT_T85 1 else s
    let s := if old < 2 ∧ 2 ≤ l then s.setFld r MEM_HSTAT_T95 1 else s
    let s := if old < 3 ∧ 3 ≤ l then s.setFld r MEM_HSTAT_TLIM 1 else s
    if old < l then s.raise modLog (srcHs unit) 0x0506 [] else s
  else if 16 ≤ unit ∧ unit < 64 then
    let r := Reg.memGstat (unit - 16)
    let l := thermalNext [(86, 82), (100, 97)] old t
    let s := keep s l
    let s := (s.setFld r MEM_GSTAT_TEMP t).setFld r MEM_GSTAT_THROT (if l = 2 then 1 else 0)
    if old < l then s.raise modLog (srcGddr (unit - 16)) 0x0506 [] else s
  else s

def execDramTemperatureReport (unit t : Nat) (s : State) : Res := .next (s.dramTemp unit t)

/-! ### Allocation (11 R466) -/

/-- The stack byte of OBJ_CREATE and OBJ_MOVE: a stack of the owning hub, or 0. -/
def stackOk (t : Tier) (hub stack : Nat) : Bool :=
  match t with
  | .hbm => stack < 12 && stack / 3 = hub
  | .sketch => stack < 8 && stack / 2 = hub
  | _ => stack = 0

/-- The granules a request may use: kind, first index, count. -/
def tierGranules (t : Tier) (hub stack : Nat) : Nat × Nat × Nat :=
  match t with
  | .hbm => (2, 36 * stack, 36)
  | .sketch => (4, 512 * stack, 512)
  | .gddr => (3, 36 * hub, 36)
  | .flash => (0, 0, 0)

/-- Adjacent runs joined, for runs in ascending order. -/
def joinRuns (rs : List (Nat × Nat)) : List (Nat × Nat) :=
  rs.foldr (fun x acc => match acc with
    | y :: ys => if x.1 + x.2 = y.1 then (x.1, x.2 + y.2) :: ys else x :: acc
    | [] => [x]) []

/-- A run without the part that `u` covers. -/
def cutRun (u r : Nat × Nat) : List (Nat × Nat) :=
  if u.1 + u.2 ≤ r.1 ∨ r.1 + r.2 ≤ u.1 then [r]
  else (if r.1 < u.1 then [(r.1, u.1 - r.1)] else []) ++
    (if u.1 + u.2 < r.1 + r.2 then [(u.1 + u.2, r.1 + r.2 - (u.1 + u.2))] else [])

/-- A collection's generations: live, in build, staged, replaced. -/
def Coll.gens (c : Coll) : List Gen := c.live :: ((c.build.map Build.gen).toList ++ c.next.toList ++ c.old.map Prod.fst)

/-- The rows of sketch-stack banks that segments hold, as runs of addresses. -/
def State.segRuns (s : State) : List (Nat × Nat) :=
  s.coll.colls.flatMap fun e => match e.2 with
    | some c => (c.gens.flatMap fun g => g.store.flatMap fun x => x.rows.map fun a => (a, 1024)) ++
        c.cuts.flatMap fun k => k.segs.flatMap fun x => x.rows.map fun a => (a, 1024)
    | none => []

/-- Whole pages that live objects and the targets of moves take. The hubs' tables lie in module-owned slices, of which no
partition allocates (15 Table 15-1). -/
def State.liveRuns (s : State) : List (Nat × Nat) :=
  let page (p : Piece) : Option (Nat × Nat) := p.addr.map fun a =>
    let lo := a / 65536 * 65536
    (lo, alignUp (a + p.len) 65536 - lo)
  s.tier.objs.flatMap fun o => o.pieces.filterMap page ++
    (match o.move with | some m => m.target.filterMap page | none => [])

/-- Those pages and the retired ones. -/
def State.objRuns (s : State) : List (Nat × Nat) := s.liveRuns ++ s.tier.retired.map fun p => (p * 65536, 65536)

/-- Whole pages that are not free: those of objects, and those in which a segment has a row. -/
def State.usedRuns (s : State) : List (Nat × Nat) := s.objRuns ++ s.segRuns.map fun r => (r.1 / 65536 * 65536, 65536)

/-- Is the stack or region out of service for new allocations: with a failed channel or device, which it must be evacuated for (log
entry 96), or degraded and evacuated (11 R244, R245)? -/
def State.outOfService (s : State) (t : Tier) (hub stack : Nat) : Bool :=
  match t with
  | .hbm => s.tier.failed.contains stack || s.fld (.memHstat stack) MEM_HSTAT_CHFAIL ≠ 0 ||
      (s.flag (.memHstat stack) MEM_HSTAT_DEGRADED && !(s.tier.objs.any fun o => o.pieces.any fun p => match p.addr with
        | some a => regionOf a matches .hbm _ _ && decide (a / hbmSize = stack)
        | none => false))
  | .sketch => s.tier.failed.contains (64 + stack)
  | .gddr => (List.range 12).any (fun d => s.tier.failed.contains (16 + 12 * hub + d)) ||
      (s.flag (.memGret hub) MEM_GRET_DEGRADED && !(s.tier.objs.any fun o => o.pieces.any fun p => match p.addr with
        | some a => regionOf a matches .gddr _ _ && decide (hubOf a = some hub)
        | none => false))
  | .flash => false

/-- Free runs in ascending local address. -/
def State.freeRuns (s : State) (p : Nat) (t : Tier) (hub stack : Nat) : List (Nat × Nat) :=
  if s.outOfService t hub stack then []
  else
    let (kind, first, n) := tierGranules t hub stack
    let owned := joinRuns (((rangeFrom first n).filter fun i => s.owner kind i = p).map (granuleSpan kind))
    s.usedRuns.foldl (fun rs u => rs.flatMap (cutRun u)) owned

/-- First fit: the lowest run first, then the next. -/
def takeRuns : Nat → List (Nat × Nat) → Option (List (Nat × Nat))
  | n, [] => if n = 0 then some [] else none
  | n, r :: rs => if n = 0 then some [] else if n ≤ r.2 then some [(r.1, n)] else (takeRuns (n - r.2) rs).map (r :: ·)

/-- The extents for `size` bytes: multiples of 64 KiB, at most 64 of them. -/
def State.findRoom (s : State) (p : Nat) (t : Tier) (hub stack size : Nat) : Option (List (Nat × Nat)) :=
  match t with
  | .flash => some []
  | _ =>
    match takeRuns (alignUp size 65536) (s.freeRuns p t hub stack) with
    | some xs => if xs.length ≤ 64 then some xs else none
    | none => none

/-- Extents taken for a tenant: what another tenant freed there is wiped first (15 R352). -/
def State.claim (s : State) (tenant : Nat) (xs : List (Nat × Nat)) : State :=
  xs.foldl (fun (s : State) (x : Nat × Nat) =>
    let s := s.tier.dirty.foldl (fun (s : State) (d : Nat × Nat × Nat) =>
      let lo := max d.2.1 x.1
      let hi := min (d.2.1 + d.2.2) (x.1 + x.2)
      if d.1 ≠ tenant ∧ lo < hi then s.wipe lo (hi - lo) else s) s
    { s with tier := { s.tier with dirty := s.tier.dirty.flatMap fun d => (cutRun x d.2).map fun r => (d.1, r) } }) s

/-- Pieces of an object's bytes `[off, off + len)` over extents, in order. -/
def toPieces (off len : Nat) : List (Nat × Nat) → List Piece
  | [] => []
  | x :: xs => if len = 0 then [] else ⟨off, min len x.2, some x.1⟩ :: toPieces (off + x.2) (len - x.2) xs

/-- What is left of a piece outside `[lo, hi)`. -/
def cutPiece (lo hi : Nat) (p : Piece) : List Piece :=
  if hi ≤ p.off ∨ p.off + p.len ≤ lo then [p]
  else (if p.off < lo then [⟨p.off, lo - p.off, p.addr⟩] else []) ++
    (if hi < p.off + p.len then [⟨hi, p.off + p.len - hi, p.addr.map (· + (hi - p.off))⟩] else [])

/-- What a piece covers of `[lo, hi)`. -/
def clipPiece (lo hi : Nat) (p : Piece) : List Piece :=
  let a := max lo p.off
  let b := min hi (p.off + p.len)
  if a < b then [⟨a, b - a, p.addr.map (· + (a - p.off))⟩] else []

def insPiece (p : Piece) : List Piece → List Piece
  | [] => [p]
  | q :: qs => if p.off < q.off then p :: q :: qs else q :: insPiece p qs

/-- The places of `[lo, hi)` replaced. -/
def rePlace (ps : List Piece) (lo hi : Nat) (new : List Piece) : List Piece :=
  (new.flatMap (clipPiece lo hi)).foldr insPiece (ps.flatMap (cutPiece lo hi))

/-- The tier of a place. -/
def tierAt (a : Option Nat) : Tier :=
  match a with
  | none => .flash
  | some a => match regionOf a with
    | .hbm _ _ => .hbm
    | .gddr _ _ => .gddr
    | .sketch _ _ => .sketch
    | _ => .flash

/-- The units of an object's charge in tier `k`: its bytes there, rounded up once, and its flash home (11 R255, R467).
A flash residence with a home is charged as one of them (DESIGN CHOICE, log entry 96). A segment's object is charged by 03 R462 instead. -/
def Obj.units (o : Obj) (k : Nat) : Nat :=
  if o.coll then 0
  else
  let there := (o.pieces.filter fun p => (tierAt p.addr).k = k).foldl (fun a p => a + p.len) 0
  let res := ceilDiv there (tierUnit k)
  if k = 3 ∧ o.hasHome then max res (ceilDiv o.size (tierUnit 3)) else res

/-- Charges brought to what the object's places say. -/
def State.recharge (s : State) (h : Nat) : State :=
  match s.obj h with
  | some o =>
    let s := (List.range 4).foldl (fun (s : State) (k : Nat) =>
      (s.release o.tenant k (tgetD 0 o.charged k)).chargeTo o.tenant k (o.units k)) s
    s.mapObj h fun o => { o with charged := (List.range 4).foldl (fun t k => tsetD 0 t k (o.units k)) [] }
  | none => s

/-- Extents that an object gives up become its tenant's to reuse unwiped (15 R352). -/
def State.giveUp (s : State) (tenant : Nat) (ps : List Piece) : State :=
  { s with tier := { s.tier with dirty := s.tier.dirty ++ ps.filterMap fun p => p.addr.map fun a => (tenant, a, p.len) } }

/-! ### Segments of collections as objects (02 R21, 03 R462) -/

/-- The charge of a version whose copy lies in tier `k`. -/
def Vec.moved (v : Vec) (k : Nat) : Vec := { v with cost := v.cost.set 1 (k, (v.cost.getD 1 (0, 0)).2) }

/-- A version after its segment's object `o` moved: its copy is charged where it lies now. -/
def Vec.follow (o : Obj) (v : Vec) : Vec :=
  match v.slot with
  | some x => if x.1 = o.handle then v.moved (tierAt (o.place (x.2 * o.elemb))).k else v
  | none => v

/-- A generation after the object `o` of one of its segments moved. -/
def Gen.follow (o : Obj) (g : Gen) : Gen :=
  { g with
    vecs := g.vecs.map (Vec.follow o)
    store := mapIf (·.store = o.handle) (fun x => { x with tier := (tierAt (o.place 0)).k }) g.store }

/-- The charges of one collection's versions follow a move of object `o` (03 R462). -/
def State.followColl (o : Obj) (s : State) (e : Nat × Option Coll) : State :=
  match e.2 with
  | none => s
  | some c =>
    let vs := (c.gens.flatMap Gen.vecs).filter fun v => decide (v.follow o ≠ v)
    let s := vs.foldl (fun (s : State) v => (s.freeAll c.tenant c.part v.cost).chargeAll c.tenant c.part (v.follow o).cost) s
    { s with coll := { s.coll with colls := tsetD none s.coll.colls e.1 (some { c with
        live := c.live.follow o, build := c.build.map fun b => { b with gen := b.gen.follow o }, next := c.next.map (Gen.follow o),
        old := c.old.map fun g => (g.1.follow o, g.2) }) } }

/-- The charges of versions follow a move of the object of their segment. -/
def State.followMove (s : State) (h : Nat) : State :=
  match s.obj h with
  | some o => if o.coll then s.coll.colls.foldl (State.followColl o) s else s
  | none => s

/-- Does the object hold the sketch, tombstone and bitmap rows of a segment, which only LIST_PLACE moves (02 R21)? -/
def State.holdsRows (s : State) (h : Nat) : Bool :=
  s.coll.colls.any fun e => match e.2 with
    | some c => c.gens.any fun g => g.store.any fun x => x.rowObj = some h
    | none => false

/-! ### The object commands (13 Table 13-6) -/

/-- OBJ_CREATE. -/
def State.objCreate (s : State) (c : Cmd) : State :=
  let elemb := c.fld 40 4
  let elems := c.fld 44 4
  let hub := c.fld 49 1
  let stack := c.fld 50 1
  let p := c.fld 51 1
  let t := c.fld 52 2
  match tierOf (c.fld 48 1) with
  | none => s.refuse c.n stInvalidParameter
  | some tier =>
    let home := bitAt c.flags 0
    let size := elemb * elems
    if elemb = 0 ∨ 65536 < elemb ∨ elems = 0 ∨ 3 < hub ∨ stackOk tier hub stack = false ∨ 63 < p ∨ 1023 < t ∨
        s.tenantOk t p = false then s.refuse c.n stInvalidParameter
    else
      let res := ceilDiv size (tierUnit tier.k)
      let homeU := if home then ceilDiv size (tierUnit 3) else 0
      let flashU := if tier = .flash then max res homeU else homeU
      if (tier ≠ .flash ∧ s.quotaOk t tier.k res = false) ∨ s.quotaOk t 3 flashU = false then s.refuse c.n stQuota
      else if s.flashRoom p flashU = false then s.refuse c.n stCapacity
      else
        match s.findRoom p tier hub stack size,
            pickFree (Config.freeChoice s.fresh) (2 ^ 20) ((s.tier.objs.filter (·.hub = hub)).map Obj.number) with
        | some xs, some number =>
          let o : Obj := { hub, number, salt := tgetD 0 s.tier.salts (hub * 2 ^ 20 + number), tenant := t, part := p, elemb, elems,
                           tier, pieces := if tier = .flash then [⟨0, size, none⟩] else toPieces 0 size xs, hasHome := home }
          let s := s.drew.claim t xs
          let s : State := { s with tier := { s.tier with objs := s.tier.objs ++ [o] } }
          (s.recharge o.handle).finish c.n stSuccess o.handle 0 []
        | _, _ => s.refuse c.n stCapacity

def execObjCreate (n : Nat) (s : State) : Res := .next (s.onCmd n 0x10 State.objCreate)

/-- An object is freed: charges released, extents given up, its number's SALT advanced. -/
def State.dropObj (s : State) (h : Nat) : State :=
  match s.obj h with
  | none => s
  | some o =>
    let s := (List.range 4).foldl (fun (s : State) (k : Nat) => s.release o.tenant k (tgetD 0 o.charged k)) s
    let s := s.giveUp o.tenant (o.pieces ++ match o.move with | some m => m.target | none => [])
    let key := o.hub * 2 ^ 20 + o.number
    { s with tier := { s.tier with
        objs := s.tier.objs.filter (·.handle ≠ h),
        heldW := s.tier.heldW.filter fun w => ¬ (w.hub = o.hub ∧ w.number = o.number),
        salts := tsetD 0 s.tier.salts key ((o.salt + 1) % 2 ^ 14) } }

/-- OBJ_FREE: at once, or after the tile in progress of a move. An object that holds a segment of a collection is in use (log
entry 77). -/
def State.objFree (s : State) (c : Cmd) : State :=
  let h := c.fld 40 8
  match s.obj h with
  | none => s.refuse c.n stNoObject
  | some o =>
    if o.coll then s.refuse c.n stBusy
    else match o.move with
    | none => (s.dropObj h).finish c.n stSuccess 0 0 []
    | some m =>
      if m.freeBy.isSome then s.refuse c.n stNoObject
      else (s.mapObj h fun o => { o with move := some { m with freeBy := some c.n } }).setCmd c.n fun c => { c with st := .running }

def execObjFree (n : Nat) (s : State) : Res := .next (s.onCmd n 0x11 State.objFree)

/-- OBJ_MOVE: the target is charged and allocated at the start (11 R253, R255). The object of a collection's segment moves
between HBM3E, GDDR7 and flash (02 R21); its versions' charges move at the end (03 R462, DESIGN CHOICE, log entry 77). -/
def State.objMove (s : State) (c : Cmd) : State :=
  let h := c.fld 40 8
  let first := c.fld 48 8
  let n := c.fld 56 4
  let stack := c.fld 61 1
  match s.obj h, tierOf (c.fld 60 1) with
  | none, _ => s.refuse c.n stNoObject
  | some _, none => s.refuse c.n stInvalidParameter
  | some o, some tier =>
    let lo := first * o.elemb
    let hi := (first + n) * o.elemb
    if n = 0 ∨ o.elems < first + n ∨ stackOk tier o.hub stack = false ∨ s.tenantOk o.tenant o.part = false ∨
        (o.coll = true ∧ (tier = .sketch ∨ s.holdsRows h = true)) then
      s.refuse c.n stInvalidParameter
    else if o.move.isSome then s.refuse c.n stBusy
    else
      let u := ceilDiv (hi - lo) (tierUnit tier.k)
      let u := if o.coll ∨ (tier = .flash ∧ o.hasHome) then 0 else u
      if s.quotaOk o.tenant tier.k u = false ∨ (o.coll = true ∧ s.overQuota o.tenant tier.k (hi - lo) = true) then s.refuse c.n stQuota
      else if tier = .flash ∧ s.flashRoom o.part u = false then s.refuse c.n stCapacity
      else
        match s.findRoom o.part tier o.hub stack (hi - lo) with
        | none => s.refuse c.n stCapacity
        | some xs =>
          let target := if tier = .flash then [⟨lo, hi - lo, none⟩] else toPieces lo (hi - lo) xs
          let s := (s.claim o.tenant xs).chargeTo o.tenant tier.k u
          let s := s.mapObj h fun o => { o with
            move := some { lo, hi, tier, target, next := lo, cmd := c.n }
            charged := tsetD 0 o.charged tier.k (tgetD 0 o.charged tier.k + u) }
          s.setCmd c.n fun c => { c with st := .running }

def execObjMove (n : Nat) (s : State) : Res := .next (s.onCmd n 0x12 State.objMove)

/-- The move ends: the rest of its target is given up and the charges follow the places. -/
def State.endMove (s : State) (h st : Nat) : State :=
  match s.obj h with
  | some o => match o.move with
    | some m =>
      let s := s.giveUp o.tenant (m.target.flatMap (clipPiece m.next m.hi))
      let s := s.mapObj h fun o => { o with move := none, tier := if m.hi ≤ m.next ∧ m.lo = 0 ∧ m.hi = o.size then m.tier else o.tier }
      ((s.recharge h).followMove h).finish m.cmd st 0 0 []
    | none => s
  | none => s

/-- Copy `[lo, hi)` of an object to target pieces: what is listed is moved, the rest reads 0. `home`: the bytes come
from the flash home. -/
def State.copyTile (s : State) (o : Obj) (lo hi : Nat) (target : List Piece) (home : Bool) : State :=
  let cells := if home then o.home.filter fun c => lo ≤ c.1 && c.1 < hi else s.objCells o lo hi
  let ps := target.flatMap (clipPiece lo hi)
  let s := ps.foldl (fun (s : State) (p : Piece) => match p.addr with
    | some a => (s.snoopRange a p.len).wipe a p.len
    | none => s.mapObj o.handle fun o => { o with flash := tclear (fun k => p.off ≤ k && k < p.off + p.len) o.flash }) s
  cells.foldl (fun (s : State) (c : Nat × Byte) =>
    match ps.find? fun p => p.off ≤ c.1 && c.1 < p.off + p.len with
    | some p => match p.addr with
      | some a => s.wr (a + (c.1 - p.off)) [c.2]
      | none => s.mapObj o.handle fun o => { o with flash := tsetD 0#8 o.flash c.1 c.2 }
    | none => s) s

/-! ### Memory-side adds (11 R249, Table 11-7) -/

/-- The element width of an add type. -/
def addWidth (addt : Nat) : Nat := if addt = 3 then 2 else if addt = 5 then 8 else 4

/-- One element: the new value, whether a floating result is infinite or NaN, and whether it was clamped. -/
def addElem (addt a b : Nat) : Nat × Nat × Nat :=
  let fl (f : Fm) (x y : Nat) : Nat × Nat :=
    let r := f.fadd x y
    (r, if (f.val r).isNan || (f.val r).isInf then 1 else 0)
  match addt with
  | 1 => let r := fl .fp32 a b; (r.1, r.2, 0)
  | 2 =>
    let lo := fl .bf16 (bits a 0 16) (bits b 0 16)
    let hi := fl .bf16 (bits a 16 16) (bits b 16 16)
    (lo.1 + hi.1 * 2 ^ 16, lo.2 + hi.2, 0)
  | 3 => let r := fl .fp16 a b; (r.1, r.2, 0)
  | 4 => ((a + b) % 2 ^ 32, 0, 0)
  | 5 => ((a + b) % 2 ^ 64, 0, 0)
  | 6 =>
    let x := sext 32 a + sext 32 b
    let y := clampInt (-(2 ^ 31)) (2 ^ 31 - 1) x
    (toTwos 32 y, 0, if x = y then 0 else 1)
  | 7 =>
    let x := Fm.fp32.val a
    let y := Fm.fp32.val b
    if x.isNan || y.isNan then (0x7FC00000, 0, 0)
    else if x.lt y ∨ (x.eq y ∧ x.neg? ∧ ¬ y.neg?) then (b, 0, 0) else (a, 0, 0)
  | _ => (b, 0, 0)

/-- An add over bytes: new bytes and the counts of FOVF and ISAT. -/
def addBytes (addt : Nat) : Nat → List Byte → List Byte → List Byte × Nat × Nat
  | 0, _, _ => ([], 0, 0)
  | k + 1, old, new =>
    let w := addWidth addt
    let r := addElem addt (leAt old 0 w) (leAt new 0 w)
    let rest := addBytes addt k (old.drop w) (new.drop w)
    (leBytes w r.1 ++ rest.1, r.2.1 + rest.2.1, r.2.2 + rest.2.2)

/-- Counters of the hub that applied an update. -/
def State.countAdd (s : State) (hub fovf isat : Nat) : State :=
  ((s.incFld (.msaStat hub) MSA_STAT_ADDS 1).incFld (.msaStat hub) MSA_STAT_FOVF fovf).incFld (.msaStat hub) MSA_STAT_ISAT isat

/-- A write (`addt` 0) or add to an object's bytes. -/
def State.objPut (s : State) (h off addt : Nat) (data : List Byte) : State :=
  match s.obj h with
  | some o =>
    if addt = 0 then s.objWrite h off data
    else
      let r := addBytes addt (data.length / addWidth addt) (s.objRead o off data.length) data
      (s.objWrite h off r.1).countAdd o.hub r.2.1 r.2.2
  | none => s

/-- MOVE_TILE_SWITCH: the next tile of 64 KiB is copied and its resolution switches; writes held for it are applied at
the new place; after the last tile the move completes. An uncorrectable read during the copy takes the tile from
the flash home, or ends the move with DATA_LOST. A waiting FREE ends the move with FREED after the tile. -/
def State.tileSwitch (s : State) (h : Nat) (ue : Bool) : State :=
  match s.obj h with
  | none => s
  | some o =>
    match o.move with
    | none => s
    | some m =>
      let lo := m.next
      let hi := min (lo + 65536) m.hi
      if ue ∧ ¬ o.hasHome then s.endMove h stDataLost
      else
        let s := s.copyTile o lo hi m.target ue
        let s := if m.tier = .flash then s.program (hi - lo) else s
        let old := o.pieces.flatMap (clipPiece lo hi)
        let s := s.giveUp o.tenant old
        let s := s.mapObj h fun o => { o with
          pieces := rePlace o.pieces lo hi m.target, move := some { m with next := hi },
          flash := if m.tier = .flash then o.flash else tclear (fun k => lo ≤ k && k < hi) o.flash }
        let mine : HeldWrite → Bool := fun w => w.hub = o.hub && w.number = o.number && decide (lo < w.off + w.data.length) && decide (w.off < hi)
        let due := s.tier.heldW.filter mine
        let s : State := { s with tier := { s.tier with heldW := s.tier.heldW.filter fun w => !mine w } }
        let s := due.foldl (fun (s : State) (w : HeldWrite) => (s.objPut h w.off w.addt w.data).ackTo w.who w.data.length) s
        match m.freeBy with
        | some f => ((s.endMove h stFreed).dropObj h).finish f stSuccess 0 0 []
        | none => if m.hi ≤ hi then s.endMove h stSuccess else s

def execMoveTileSwitch (handle : Nat) (ue : Bool) (s : State) : Res := .next (s.tileSwitch handle ue)

/-- OBJ_SYNC: the content is written into the flash home; an object without one refuses (DEDUCED, log entry 5). -/
def State.objSync (s : State) (c : Cmd) : State :=
  let h := c.fld 40 8
  match s.obj h with
  | none => s.refuse c.n stNoObject
  | some o =>
    if ¬ o.hasHome then s.refuse c.n stInvalidParameter
    else
      let cells := s.objCells o 0 o.size
      let s := s.mapObj h fun o => { o with home := cells.foldl (fun t c => tsetD 0#8 t c.1 c.2) [] }
      (s.program o.size).finish c.n stSuccess 0 0 []

def execObjSync (n : Nat) (s : State) : Res := .next (s.onCmd n 0x13 State.objSync)

/-! ### Flash (11 R257-R260) -/

/-- NAND dies in all: 256 or 128 (00 R1). -/
def nandDies : Nat := ratedGb * 4 / 625

/-- FLASH_READ: a 512-byte unit `u` of an object's flash residence or home, over channel `c`. -/
def State.flashRead (s : State) (src c h u : Nat) (res : FlashRes) : State :=
  match s.obj h with
  | none => s.addrFault src h
  | some o =>
    let part := o.part
    let s := if res = .hard then s else s.incFld .flErr FL_ERR_RETRY 1
    let s := if res = .rebuilt then (s.incFld .flErr FL_ERR_REBUILD 1).raise part (srcFc c) 0x0508 [] else s
    if res = .fail then
      let s := (s.incFld .flErr FL_ERR_UE 1).raise part (srcFc c) 0x0501 (leBytes 8 (512 * u) ++ leBytes 8 h)
      s.emit (.refusal src h 4)
    else
      let t := if o.inFlash (512 * u) 512 then o.flash else o.home
      s.emit (.readResp src h ((rangeFrom (512 * u) 512).map (tgetD 0#8 t)))

def execFlashRead (src c handle u : Nat) (res : FlashRes) (s : State) : Res := .next (s.flashRead src c handle u res)

/-- FL_STAT as the dies stand. -/
def State.flashDies (s : State) : State :=
  let n := s.tier.readOnly.length
  let excess := n - nandDies / 16
  let busy := s.tier.relocating ++ s.tier.rebuilding
  (((s.setFld .flStat FL_STAT_RODIES (min n 0xFF)).setFld .flStat FL_STAT_RELOC (if busy = [] then 0 else 1)).setFld .flStat
    FL_STAT_USERGB ((4 * ratedGb - 625 * excess) / 4)).setFld .flStat FL_STAT_CAPLOSS (if excess = 0 then 0 else 1)

/-- FLASH_PROGRAM_FAIL: a block of die `d` is retired; `noSpare`: no spare is left, and the die turns read-only. -/
def State.programFail (s : State) (d : Nat) (noSpare : Bool) : State :=
  if nandDies ≤ d ∨ s.tier.readOnly.contains d then s
  else
    let s : State := { s with tier := { s.tier with sparesUsed := tsetD 0 s.tier.sparesUsed d (tgetD 0 s.tier.sparesUsed d + 1) } }
    if noSpare then
      let s : State := { s with tier := { s.tier with readOnly := s.tier.readOnly ++ [d], relocating := s.tier.relocating ++ [d] } }
      let s := s.flashDies.raise modLog srcFlash 0x0509 []
      if nandDies / 16 < s.tier.readOnly.length then s.raise modLog srcFlash 0x050A [] else s
    else s

def execFlashProgramFail (die : Nat) (noSpare : Bool) (s : State) : Res := .next (s.programFail die noSpare)

/-- FLASH_DIE_FAIL: a die that fails whole is rebuilt stripe by stripe in the background. -/
def State.flashDieFail (s : State) (d : Nat) : State :=
  if nandDies ≤ d ∨ s.tier.rebuilding.contains d then s
  else
    let s : State := { s with tier := { s.tier with rebuilding := s.tier.rebuilding ++ [d] } }
    s.flashDies.raise modLog srcFlash 0x0508 []

def execFlashDieFail (die : Nat) (s : State) : Res := .next (s.flashDieFail die)

/-- FLASH_RELOCATION_COMPLETE: the relocation or rebuild of die `d` ends; RELOC clears with the last. -/
def State.relocDone (s : State) (d : Nat) : State :=
  ({ s with tier := { s.tier with relocating := s.tier.relocating.filter (· ≠ d), rebuilding := s.tier.rebuilding.filter (· ≠ d) } } : State).flashDies

def execFlashRelocationComplete (die : Nat) (s : State) : Res := .next (s.relocDone die)

/-- NAND_TEMPERATURE_REPORT of the hottest die: rows of 16 Table 16-8 (16 R379). -/
def State.nandTemp (s : State) (t : Nat) : State :=
  let l := thermalNext [(71, 67), (81, 77), (85, 82)] s.pwr.nand t
  ({ s with pwr := { s.pwr with nand := l } } : State).setFld .flStat FL_STAT_FTHROT (if l = 0 then 0 else 1)

def execNandTemperatureReport (t : Nat) (s : State) : Res := .next (s.nandTemp t)

end Sys2Proof.Machine
end

