-- ==== Sys2Proof/Machine/Attend.lean ====
section
/-! DEFINITION. History caches (04 R69, R70): the form of an entry, the working copy's rows in a sketch-stack bank (05 R89), and the
attention over the entries. -/

namespace Sys2Proof.Machine

/-- Local address of row `r` of bank `g` (05 R83). -/
def rowAddr (g r : Nat) : Nat := skBase + g * skBank + 1024 * r
/-- A row as a number of 8,192 bits. -/
def State.skRow (s : State) (g r : Nat) : Nat := s.rdLE (rowAddr g r) 1024
def rowBits : Nat := 8192

/-! ### Entries (13 R298) -/

/-- Bits of a key or value element. -/
def HistParam.width (p : HistParam) : Nat := if p.int8 then 8 else 4
/-- Bytes of a head's keys, or of its values, in an entry. -/
def HistParam.block (p : HistParam) : Nat := alignUp (p.dh * p.width / 8) 8
/-- Bytes of one history entry: for each head, DH key and then DH value elements, each padded to 8 bytes. -/
def HistParam.entry (p : HistParam) : Nat := p.h * (2 * p.block)
/-- The code of element `j` of a head's keys (`value` false) or values in an entry. -/
def HistParam.code (p : HistParam) (e : List Byte) (value : Bool) (hd j : Nat) : Nat :=
  bits (leAt e (p.block * (2 * hd + if value then 1 else 0)) p.block) (p.width * j) p.width

/-! ### The working copy (05 Table 5-3) -/

/-- Entries per row of the score pass. -/
def HistParam.keyPer (p : HistParam) : Nat := rowBits / p.dh
/-- Bits of a lane of the value pass. -/
def HistParam.valRun (p : HistParam) : Nat := max (2 ^ (((List.range 12).find? fun k => decide (p.l ≤ 2 ^ k)).getD 11)) (rowBits / p.dh)
/-- Elements per row of the value pass. -/
def HistParam.valPer (p : HistParam) : Nat := rowBits / p.valRun
/-- Where plane `b` of element `j` of entry `i` stands: row from the pass's base, and bit. -/
def HistParam.spot (p : HistParam) (value : Bool) (hd i j b : Nat) : Nat × Nat :=
  if value then ((hd * (p.dh * p.valRun / rowBits) + j / p.valPer) * p.width + b, j % p.valPer * p.valRun + i)
  else ((hd * ceilDiv p.l p.keyPer + i / p.keyPer) * p.width + b, i % p.keyPer * p.dh + j)
/-- Rows of a pass. -/
def HistParam.passRows (p : HistParam) (value : Bool) : Nat :=
  p.h * (if value then p.dh * p.valRun / rowBits else ceilDiv p.l p.keyPer) * p.width

/-- The rows of a pass for the entries `es`, as numbers; places beyond the entries hold zero. -/
def HistParam.rows (p : HistParam) (es : List (List Byte)) (value : Bool) : List Nat :=
  let marks := (List.range p.h).flatMap fun hd => (List.range es.length).flatMap fun i => (List.range p.dh).flatMap fun j =>
    ((List.range p.width).filter fun b => bitAt (p.code (es.getD i []) value hd j) b).map fun b => p.spot value hd i j b
  (List.range (p.passRows value)).map fun r => ((marks.filter fun x => x.1 = r).map fun x => 2 ^ x.2).sum

/-- A working copy's place: its bank, KBASE and VBASE. -/
structure WorkCopy where
  bank : Nat
  kbase : Nat
  vbase : Nat
deriving DecidableEq, Repr

/-- The working copy that Haldav gave a user's cache, placed whole in one bank (DESIGN CHOICE, log entry 85). -/
def workOf (m user : Nat) : Option WorkCopy := (Config.workCopy m user).map fun w => ⟨w.1 % 4096, w.2.1, w.2.2⟩
def WorkCopy.base (w : WorkCopy) (value : Bool) : Nat := if value then w.vbase else w.kbase

/-- The working copy holds the entries `es`. -/
def State.writeWork (s : State) (p : HistParam) (w : WorkCopy) (es : List (List Byte)) : State :=
  [false, true].foldl (fun (s : State) value =>
    let rows := p.rows es value
    (List.range rows.length).foldl (fun (s : State) r => s.wr (rowAddr w.bank (w.base value + r)) (leBytes 1024 (rows.getD r 0))) s) s

/-- An element's code as it stands in the working copy, errors of its plain rows included. -/
def State.workCode (s : State) (p : HistParam) (w : WorkCopy) (value : Bool) (hd i j : Nat) : Nat :=
  ((List.range p.width).map fun b =>
    let x := p.spot value hd i j b
    if bitAt (s.skRow w.bank (w.base value + x.1)) x.2 then 2 ^ b else 0).sum

/-! ### Attention (04 R70) -/

def fp32Int (i : Int) : Nat := Fm.fp32.ieee (FV.ofInt i 0)
/-- The largest of FP32 codes. -/
def fp32Max (zs : List Nat) : Nat := zs.foldl (fun a z => if (Fm.fp32.val a).lt (Fm.fp32.val z) then z else a) (zs.headD 0)

/-- A head's output over `n` entries: `k` and `v` give the key and value integers of element `j` of entry `i`, `q` the query's, with
the scales sq, sk and sv as FP32 codes. -/
def attnHead (n dh : Nat) (q : Nat → Int) (k v : Nat → Nat → Int) (sq sk sv : Nat) : List Nat :=
  let f := Fm.fp32
  let c := f.fmul sq sk
  let z := (List.range n).map fun i => f.fmul (fp32Int ((List.range dh).map fun j => q j * k i j).sum) c
  let e := z.map fun x => vpExp (f.fsub x (fp32Max z))
  let t := e.foldl f.fadd 0
  let p := e.map fun x => nearInt (f.val (f.fdiv (f.fmul (fp32Int 127) x) t))
  (List.range dh).map fun j =>
    if n = 0 then 0 else f.fmul (fp32Int ((List.range n).map fun i => p.getD i 0 * v i j).sum) (f.fdiv sv (fp32Int 127))

/-- History attention: every head's output, as FP32 codes. `code` gives the element codes, `q` and `sq` the INT8 query and its scale. -/
def HistParam.attention (p : HistParam) (n : Nat) (code : Bool → Nat → Nat → Nat → Nat) (q : Nat → Nat → Nat) (sq : Nat → Nat) : List Nat :=
  (List.range p.h).flatMap fun hd =>
    let sc := p.scales.getD hd (0, 0)
    attnHead n p.dh (fun j => sext 8 (q hd j)) (fun i j => sext p.width (code false hd i j)) (fun i j => sext p.width (code true hd i j))
      (sq hd) sc.1 sc.2

end Sys2Proof.Machine
end

