-- ==== Sys2Proof/Machine/Rank.lean ====
section
/-! DEFINITION. Ranking models and training (04): models, embedding tables, the hot-row directory, lookup stages and
the step gate. -/

namespace Sys2Proof.Machine

/-! ### Models and tables -/

def State.model (s : State) (m : Nat) : Option Model := (tgetO s.rank.models m).join
def State.setModel (s : State) (m : Nat) (v : Model) : State :=
  { s with rank := { s.rank with models := tsetD none s.rank.models m (some v) } }
def State.mapModel (s : State) (m : Nat) (f : Model → Model) : State :=
  match s.model m with
  | some v => s.setModel m (f v)
  | none => s
def State.table (s : State) (m k : Nat) : Option Table := s.rank.tables.find? fun t => t.model = m && t.num = k
def State.mapTable (s : State) (m k : Nat) (f : Table → Table) : State :=
  { s with rank := { s.rank with tables := mapIf (fun t => t.model = m && t.num = k) f s.rank.tables } }

/-- MDL_STEP.MSTEP of a model. -/
def State.mstep (s : State) (m : Nat) : Nat := s.fld (.mdlStep m) MDL_STEP_MSTEP

def Table.handle (t : Table) : Nat := handleBits t.tenant t.part t.hub t.salt t.number
/-- The table that a handle names. -/
def State.tableOf (s : State) (h : Nat) : Option Table := s.rank.tables.find? (·.handle = h)

/-- The cold element type. -/
def Table.fm (t : Table) : Fm := (fmOf t.coldFmt).getD .int8
/-- Header bytes of a row: scale and accumulator. -/
def Table.extra (t : Table) : Nat := (if t.hasScale then 1 else 0) + (if t.hasAcc then 4 else 0)
/-- Bytes of a cold row; rows are packed without padding (04 R65). -/
def Table.coldBytes (t : Table) : Nat := t.fm.bytes t.dim + t.extra
/-- The hot-row size: ROWB of every GATHER from the table (04 R65). -/
def Table.hotBytes (t : Table) : Nat := alignUp (2 * t.dim + t.extra) 4

/-- A row value in its one form: an all-zero element list is written as the empty list. -/
def mkRow (elems : List Nat) (scale acc : Nat) : RowVal := ⟨if elems.all (· = 0) then [] else elems, scale, acc⟩
def RowVal.elem (r : RowVal) (j : Nat) : Nat := r.elems.getD j 0

/-- A cold row widened exactly to BF16 (04 R65). -/
def Table.widen (t : Table) (r : RowVal) : RowVal :=
  mkRow ((List.range t.dim).map fun j => Fm.bf16.ieee (t.fm.val (r.elem j))) r.scale r.acc

/-- A row in the hot layout: elements, scale byte, accumulator, padded to a multiple of 4. -/
def Table.rowBytes (t : Table) (r : RowVal) : List Byte :=
  bytesAt (Fm.bf16.pack ((List.range t.dim).map r.elem) ++ (if t.hasScale then leBytes 1 r.scale else []) ++
    (if t.hasAcc then leBytes 4 r.acc else [])) 0 t.hotBytes

/-- The row that bytes in the hot layout spell. -/
def Table.ofBytes (t : Table) (bs : List Byte) : RowVal :=
  mkRow (Fm.bf16.elems bs t.dim) (if t.hasScale then leAt bs (2 * t.dim) 1 else 0)
    (if t.hasAcc then leAt bs (2 * t.dim + if t.hasScale then 1 else 0) 4 else 0)

/-! ### The hot-row directory (04 R66) -/

def Table.sets (t : Table) : Nat := 2 ^ t.logSets
/-- Keys of the 16 ways of a row's set. -/
def Table.ways (t : Table) (row : Nat) : List Nat := rangeFrom (16 * (row % t.sets)) 16
def Table.way (t : Table) (k : Nat) : Option HotWay := (tgetO t.hot k).join
def Table.setWay (t : Table) (k : Nat) (w : Option HotWay) : Table := { t with hot := tsetD none t.hot k w }
/-- The way that holds a row. -/
def Table.find (t : Table) (row : Nat) : Option Nat :=
  (t.ways row).find? fun k => match t.way k with
    | some w => w.row = row
    | none => false
/-- A way of the row's set that holds nothing. -/
def Table.freeWay (t : Table) (row : Nat) : Option Nat := (t.ways row).find? fun k => (t.way k).isNone
def Table.coldRow (t : Table) (row : Nat) : RowVal := tgetD {} t.cold row
/-- The value of a row in the hot layout: its hot copy, or its cold copy widened. -/
def Table.row (t : Table) (row : Nat) : RowVal :=
  match t.find row with
  | some k => ((t.way k).map HotWay.val).getD {}
  | none => t.widen (t.coldRow row)

/-- Promote a row into a way: its value widened, and a free slot of the hot area (DESIGN CHOICE, log entry 4). Its step of last update is 0 until an
update marks it; the spec gives none (DESIGN CHOICE, log entry 86). -/
def State.fillWay (s : State) (m k row way : Nat) : State :=
  match s.table m k with
  | none => s
  | some t =>
    let slot := (pickFree (Config.freeChoice s.fresh) (2 ^ 23) (t.hot.filterMap fun e => e.2.map HotWay.slot)).getD 0
    s.drew.mapTable m k fun t => t.setWay way (some ⟨row, slot, t.widen (t.coldRow row), 0⟩)

/-- Promote a row when its set has a free way and it is not hot. -/
def State.promoteRow (s : State) (m k row : Nat) : State :=
  match s.table m k with
  | none => s
  | some t =>
    match t.find row, t.freeWay row with
    | none, some w => s.fillWay m k row w
    | _, _ => s

/-- One element column's error record: SSE in FP64, COUNT, SKIP (06 R135). `x` is the value converted and `q` the
converted value. -/
def errAdd (r : Nat × Nat × Nat) (x q : FV) : Nat × Nat × Nat :=
  if x.isNan || x.isInf || q.isNan || q.isInf then (r.1, r.2.1, (r.2.2 + 1) % 2 ^ 16)
  else
    let f := Fm.fp64
    let d := f.fsub (f.ieee q) (f.ieee x)
    (f.fadd r.1 (f.fmul d d), (r.2.1 + 1) % 2 ^ 32, r.2.2)

/-- Demote the row of a way: each BF16 element is rounded to COLD with the seed of 06 R129, saturations and errors
are gathered, and the cold copy is written through the F-die (04 R67). -/
def State.demoteWay (s : State) (m k way : Nat) : State :=
  match s.table m k with
  | none => s
  | some t =>
    match t.way way with
    | none => s
    | some w =>
      let seed := srSeed m k (s.mstep m + 1) w.row
      let one (j : Nat) : Nat × Cnt := t.fm.conv (.sr (srVal seed 0 j)) true (Fm.bf16.val (w.val.elem j))
      let done := (List.range t.dim).map one
      let errs := (List.range t.dim).foldl (fun es j =>
        tsetD (0, 0, 0) es j (errAdd (tgetD (0, 0, 0) es j) (Fm.bf16.val (w.val.elem j)) (t.fm.val (one j).1))) t.errs
      let s := s.mapTable m k fun t => { t.setWay way none with
        cold := tsetD {} t.cold w.row (mkRow (done.map (·.1)) w.val.scale w.val.acc),
        errs := errs, queue := t.queue.filter (· ≠ w.row) }
      let s := s.count (80 + t.hub) t.part (srcHub t.hub) (done.foldl (fun a e => a.add e.2) {})
      s.program t.coldBytes

/-! ### Commands (13 Table 13-6, 04 Tables 4-2, 4-5, 4-9) -/

/-- MODEL_CREATE. The scales of the history cache are free values (DESIGN CHOICE, log entry 85). -/
def State.modelCreate (s : State) (c : Cmd) : State :=
  let l := c.fld 64 2
  let h := c.fld 66 1
  let dh := c.fld 67 1
  let kv := c.fld 68 1
  let histOk := if l = 0 then decide (h = 0 ∧ dh = 0 ∧ kv = 0)
    else decide (16 ≤ l ∧ l ≤ 2048 ∧ 1 ≤ h ∧ h ≤ 8 ∧ (dh = 32 ∨ dh = 64 ∨ dh = 128) ∧ kv ≤ 1)
  let live := (List.range 64).filter fun m => (s.model m).isSome
  let mine := live.filter fun m => match s.model m with
    | some v => v.part = c.part
    | none => false
  if histOk = false then s.refuse c.n stInvalidParameter
  else if 16 ≤ mine.length then s.refuse c.n stCapacity
  else
    match pickFree (Config.freeChoice s.fresh) 64 live with
    | none => s.refuse c.n stCapacity
    | some m =>
      let scales := (List.range h).map fun i => (Config.freeChoice (s.fresh + 1) / 2 ^ (64 * i) % 2 ^ 32, Config.freeChoice (s.fresh + 1) / 2 ^ (64 * i + 32) % 2 ^ 32)
      let v : Model := { tenant := c.tenant, part := c.part, towers := c.fld 40 8, trained := bitAt c.flags 0,
                         hist := if l = 0 then none else some ⟨l, h, dh, kv = 1, scales⟩ }
      (s.drew.drew.setModel m v).finish c.n stSuccess m 0 []

def execModelCreate (n : Nat) (s : State) : Res := .next (s.onCmd n 0x50 State.modelCreate)

/-- The model that a command's OBJECT names, or the refusal: unknown, or another tenant's (13 R296). -/
def State.cmdModel (s : State) (c : Cmd) : Except Nat Model :=
  match s.model c.object with
  | none => .error stNoObject
  | some v => if v.tenant = c.tenant then .ok v else .error stNotOwner

/-- TABLE_CREATE. The hub and the object number are assigned by the module (DESIGN CHOICE, log entry 4). -/
def State.tableCreate (s : State) (c : Cmd) : State :=
  match s.cmdModel c with
  | .error e => s.refuse c.n e
  | .ok v =>
    let rows := c.fld 64 8
    let dim := c.fld 72 2
    let fmt := c.fld 74 1
    let logSets := c.fld 75 1
    let late := c.fld 76 1
    let grace := c.fld 78 2
    let hub := Config.freeChoice s.fresh % 4
    let used := ((s.tier.objs.filter (·.hub = hub)).map Obj.number) ++ ((s.rank.tables.filter (·.hub = hub)).map Table.number)
    let nums := (s.rank.tables.filter (·.model = c.object)).map Table.num
    let t0 : Table := { model := c.object, num := 0, tenant := v.tenant, part := v.part, hub := hub, number := 0, salt := 0,
                        rows := rows, dim := dim, coldFmt := fmt, hasScale := bitAt c.flags 0, hasAcc := bitAt c.flags 1,
                        logSets := logSets, late := late, grace := grace, dflt := if late = 2 then c.payload else [] }
    if rows = 0 ∨ 2 ^ 40 < rows ∨ dim < 8 ∨ 512 < dim ∨ dim % 8 ≠ 0 ∨ ¬ (fmt = 0 ∨ fmt = 1 ∨ fmt = 5 ∨ fmt = 6) ∨
        logSets < 4 ∨ 19 < logSets ∨ 2 < late ∨ 5000 < grace ∨ c.len0 ≠ (if late = 2 then t0.hotBytes else 0) then
      s.refuse c.n stInvalidParameter
    else
      let u := ceilDiv (rows * t0.coldBytes) (tierUnit 3)
      if s.quotaOk v.tenant 3 u = false then s.refuse c.n stQuota
      else if s.flashRoom v.part u = false then s.refuse c.n stCapacity
      else
        match pickFree (Config.freeChoice (s.fresh + 1)) 4096 nums, pickFree (Config.freeChoice (s.fresh + 2)) (2 ^ 20) used with
        | some k, some number =>
          let t := { t0 with num := k, number := number, salt := tgetD 0 s.tier.salts (hub * 2 ^ 20 + number) }
          let s := s.drew.drew.drew.chargeTo v.tenant 3 u
          ({ s with rank := { s.rank with tables := s.rank.tables ++ [t] } } : State).finish c.n stSuccess k 0 []
        | _, _ => s.refuse c.n stCapacity

def execTableCreate (n : Nat) (s : State) : Res := .next (s.onCmd n 0x51 State.tableCreate)

/-- The table and row that PROMOTE and DEMOTE name. -/
def State.cmdRow (s : State) (c : Cmd) : Except Nat Table :=
  match s.cmdModel c with
  | .error e => .error e
  | .ok _ =>
    match s.table c.object (c.fld 48 2) with
    | none => .error stNoObject
    | some t => if c.fld 40 8 < t.rows then .ok t else .error stInvalidParameter

/-- PROMOTE: the row gets a hot copy; a full set refuses with CAPACITY. -/
def State.promote (s : State) (c : Cmd) : State :=
  match s.cmdRow c with
  | .error e => s.refuse c.n e
  | .ok t =>
    let row := c.fld 40 8
    match t.find row, t.freeWay row with
    | some _, _ => s.finish c.n stSuccess 0 0 []
    | none, some w => (s.fillWay t.model t.num row w).finish c.n stSuccess 0 0 []
    | none, none => s.refuse c.n stCapacity

def execPromote (n : Nat) (s : State) : Res := .next (s.onCmd n 0x53 State.promote)

/-- DEMOTE: the row is queued at its hub until the model's next window (04 R67). One that is queued already completes SUCCESS and is
queued once; one that comes while a window is pending or open is demoted in that window (DESIGN CHOICE, log entry 86). -/
def State.demote (s : State) (c : Cmd) : State :=
  match s.cmdRow c with
  | .error e => s.refuse c.n e
  | .ok t =>
    let row := c.fld 40 8
    if (t.find row).isNone ∨ t.queue.contains row then s.finish c.n stSuccess 0 0 []
    else if 4096 ≤ t.queue.length then s.refuse c.n stCapacity
    else
      let s := s.mapTable t.model t.num fun t => { t with queue := t.queue ++ [row] }
      let s := s.mapModel t.model fun v => { v with gate := { v.gate with demoteAt := some (v.gate.demoteAt.getD s.svcTime) } }
      s.finish c.n stSuccess 0 0 []

def execDemote (n : Nat) (s : State) : Res := .next (s.onCmd n 0x54 State.demote)

/-! ### Lookup stages and the step gate (04 R74) -/

def State.mapGate (s : State) (m : Nat) (f : Gate → Gate) : State := s.mapModel m fun v => { v with gate := f v.gate }

/-- The weight set of a tower generation. -/
def State.weightsOf (s : State) (m gen : Nat) : List Byte := (((s.towersOf m).sets.find? (·.1 = gen)).map (·.2)).getD []

/-- RANK = 1 queries of the model's ranking plan that are fetched and not yet completed (04 R71). -/
def State.ranksInFlight (s : State) (m : Nat) : Nat :=
  (s.quay.cmds.filter fun c => c.op = 0x40 && bitAt c.flags 2 && c.fld 48 2 = m).length

/-- The attention stage of a query: NBUs of the working copy's bank while fewer than 16 queries are in flight, else MEs and VP; either
reads the working copy where there is one and the home otherwise (04 R69-R71). -/
def State.attend (s : State) (m : Nat) (c : Cmd) : Attn :=
  match s.model m with
  | none => ⟨none, []⟩
  | some v => match v.hist with
    | none => ⟨none, []⟩
    | some p =>
      let user := Config.histUser m c.payload
      let es := (tgetD {} v.users user).entries
      let w := s.weightsOf m c.tgen
      let code : Bool → Nat → Nat → Nat → Nat := match workOf m user with
        | some k => fun value hd i j => s.workCode p k value hd i j
        | none => fun value hd i j => p.code (es.getD i []) value hd j
      ⟨if s.ranksInFlight m < 16 then (workOf m user).map WorkCopy.bank else none,
       p.attention es.length code (Config.attnQuery w c.payload) (Config.attnScale w c.payload)⟩

/-- A stage starts: it reads step MSTEP, and a query's attention stage starts beside it (04 Table 4-10). -/
def State.runStage (s : State) (m : Nat) (g : Stage) : State :=
  let s : State := { s with rank := { s.rank with stepOf := tsetD none s.rank.stepOf g.id (some (s.mstep m)) } }
  let s : State := match s.cmd g.id with
    | some c => if c.op = 0x40 then { s with rank := { s.rank with attn := tsetD none s.rank.attn g.id (some (s.attend m c)) } } else s
    | none => s
  if g.streams = [] then s else s.mapGate m fun x => { x with running := x.running ++ [g] }

/-- LOOKUP_STAGE_START of stage `id`, whose gathers run on the ferry streams `streams`: it waits while a window is pending or open. -/
def State.stageStart (s : State) (m id : Nat) (streams : List Nat) : State :=
  match s.model m with
  | none => s
  | some v =>
    let g : Stage := ⟨id, streams, streams.eraseDups.filter fun n => (tgetD {} s.fry.streams n).job.isSome⟩
    if v.gate.pend || v.gate.open_ then s.mapGate m fun x => { x with waiting := x.waiting ++ [g] }
    else s.runStage m g

def execLookupStageStart (model id : Nat) (streams : List Nat) (s : State) : Res := .next (s.stageStart model id streams)

/-- The live models. -/
def State.modelNums (s : State) : List Nat := s.rank.models.map (·.1)

/-- The running stage, first in start order, whose gather stream `n` runs at present. -/
def Gate.stageOn (g : Gate) (n : Nat) : Option Stage := g.running.find? fun x => x.streams.contains n && !x.prior.contains n
/-- The model and command of the lookup stage whose gather a stream runs. -/
def State.stageOn (s : State) (n : Nat) : Option (Nat × Stage) :=
  s.modelNums.findSome? fun m => (s.model m).bind fun v => (v.gate.stageOn n).map fun g => (m, g)

/-- What ran on stream `n` has ended: a gather of a running stage is one less for it to wait for, and a stage with none left is over. -/
def State.streamDone (s : State) (n : Nat) (gather : Bool) : State :=
  let s := match s.stageOn n with
    | some (m, x) => if gather then s.mapGate m fun g => { g with
        running := (mapIf (fun (y : Stage) => y.id = x.id) (fun y => { y with streams := dropFirst (· = n) y.streams }) g.running).filter (·.streams ≠ []) } else s
    | none => s
  let free (x : Stage) : Stage := { x with prior := x.prior.filter (· ≠ n) }
  s.modelNums.foldl (fun (s : State) (m : Nat) => s.mapGate m fun g => { g with running := g.running.map free, waiting := g.waiting.map free }) s

/-- A stream is reset: no stage waits for it any more. -/
def State.streamGone (s : State) (n : Nat) : State :=
  let gone (x : Stage) : Stage := { x with streams := x.streams.filter (· ≠ n), prior := x.prior.filter (· ≠ n) }
  s.modelNums.foldl (fun (s : State) (m : Nat) => s.mapGate m fun g => { g with
    running := (g.running.map gone).filter (·.streams ≠ []), waiting := g.waiting.map gone }) s

/-- Does a waiting lookup stage hold this stream's reads? -/
def State.gateHolds (s : State) (n : Nat) : Bool :=
  s.modelNums.any fun m => match s.model m with
    | some v => v.gate.waiting.any fun g => g.streams.contains n && !g.prior.contains n
    | none => false

/-- Is a training plan of the model loaded? -/
def State.trainsNow (s : State) (m : Nat) : Bool :=
  s.ctl.insts.any fun e => match e.2 with
    | some i => i.kind = 2 && i.object = m
    | none => false

def State.setTowers (s : State) (m : Nat) (v : Towers) : State := { s with coll := { s.coll with towers := tsetD {} s.coll.towers m v } }

/-- Held adds that their step's refusal or abort takes away: the ferries' pieces that brought them are over. -/
def State.ackHeld (s : State) (held : List HeldAdd) : State :=
  held.foldl (fun (s : State) (h : HeldAdd) => s.ackTo h.who h.data.length) s

/-- A window becomes pending. -/
def State.pendWindow (s : State) (m : Nat) (touched : List (Nat × Nat)) : State :=
  (s.mapGate m fun g => { g with pend := true, touched := touched, added := [], barrier := false }).setFld (.mdlStat m) MDL_STAT_PEND 1

/-- STEP_WINDOW_REQUEST with the step's touched rows, as (table, row). More than 2^18 refuse the step with
STEP_TOO_LARGE, an event without a code in the spec (DESIGN CHOICE, log entry 2), and the adds it had sent ahead are dropped: nothing is applied.
Otherwise the prepare phase promotes the absent rows that find a free way, and the window is pending. A request while a window is
pending or open changes nothing (DESIGN CHOICE, log entry 86). -/
def State.windowRequest (s : State) (m : Nat) (touched : List (Nat × Nat)) : State :=
  match s.model m with
  | none => s
  | some v =>
    if v.gate.pend || v.gate.open_ then s
    else if 2 ^ 18 < touched.length then
      ((s.mapGate m fun g => { g with held := [] }).ackHeld v.gate.held).raise v.part (srcHub 0) (Config.openCode 1 % 2 ^ 16) []
    else
      let real := touched.filter fun x => match s.table m x.1 with
        | some t => decide (x.2 < t.rows)
        | none => false
      (real.foldl (fun (s : State) (x : Nat × Nat) => s.promoteRow m x.1 x.2) s).pendWindow m real

def execStepWindowRequest (model : Nat) (touched : List (Nat × Nat)) (s : State) : Res := .next (s.windowRequest model touched)

/-- DEMOTION_WINDOW_TIMER: queued demotions of a model without a loaded training plan get a window of their own. -/
def State.demotionTimer (s : State) (m : Nat) : State :=
  match s.model m with
  | none => s
  | some v =>
    if v.gate.demoteAt.isNone ∨ s.trainsNow m ∨ v.gate.pend ∨ v.gate.open_ then s else s.pendWindow m []

def execDemotionWindowTimer (model : Nat) (s : State) : Res := .next (s.demotionTimer model)

/-- An update that finds no hot row is dropped: SPILL, and an event names the row (04 R76; DESIGN CHOICE, log entry 2). -/
def State.spillRow (s : State) (m k row : Nat) : State :=
  match s.table m k with
  | none => s
  | some t =>
    (s.setFld (.mdlStat m) MDL_STAT_SPILL 1).raise t.part (srcHub t.hub) (Config.openCode 2 % 2 ^ 16)
      (leBytes 2 m ++ leBytes 2 k ++ leBytes 4 0 ++ leBytes 8 row)

/-- Make a touched row hot at its window's opening: into a free way, or in place of the victim, the way with the lowest
step of last update that the step does not touch, on equal steps the lower way. -/
def State.placeTouched (s : State) (m : Nat) (touched : List (Nat × Nat)) (k row : Nat) : State :=
  match s.table m k with
  | none => s
  | some t =>
    let n := s.mstep m + 1
    let mark (s : State) : State := s.mapTable m k fun t => match t.find row with
      | some w => t.setWay w ((t.way w).map fun x => { x with last := n })
      | none => t
    match t.find row, t.freeWay row with
    | some _, _ => mark s
    | none, some w => mark (s.fillWay m k row w)
    | none, none =>
      let cand := (t.ways row).filterMap fun w => match t.way w with
        | some x => if touched.contains (k, x.row) then none else some (w, x.last)
        | none => none
      match cand.foldl (fun (b : Option (Nat × Nat)) (x : Nat × Nat) => match b with
          | some y => if x.2 < y.2 then some x else some y
          | none => some x) none with
      | some v => mark ((s.demoteWay m k v.1).fillWay m k row v.1)
      | none => s.spillRow m k row

/-- A row add in an open window: BF16 pairs from byte `off` of the row, or FP32 on its accumulator (04 R73). One to a row that is not
hot is dropped: a touched row's drop was told as the window opened, and any other sets SPILL and is told now (DESIGN CHOICE, log entry 86). -/
def State.rowAdd (s : State) (m k row off addt : Nat) (data : List Byte) : State :=
  match s.table m k with
  | none => s
  | some t =>
    match t.find row with
    | none =>
      let said := match s.model m with
        | some v => v.gate.touched.contains (k, row)
        | none => false
      if said then s else s.spillRow m k row
    | some w =>
      let val := ((t.way w).map HotWay.val).getD {}
      let acc := addt = 1 ∧ t.hasAcc ∧ data.length = 4
      let bs := t.rowBytes val
      let old := if acc then leBytes 4 val.acc else (bs.drop off).take (min data.length (2 * t.dim - off))
      let r := addBytes addt (old.length / addWidth addt) old data
      let val := if acc then { val with acc := leAt r.1 0 4 } else t.ofBytes (bs.take off ++ r.1 ++ bs.drop (off + r.1.length))
      let s := s.mapGate m fun g => { g with added := (k, row) :: g.added }
      (s.mapTable m k fun t => t.setWay w ((t.way w).map fun x => { x with val := val })).countAdd t.hub r.2.1 r.2.2

/-- The enabled collective group bound to the model's training instance: the model is sharded (04 R75; DESIGN CHOICE, log entry 87). -/
def State.trainGroup (s : State) (m : Nat) : Option Nat :=
  (List.range 64).find? fun g => bitAt (s.reg (.abGroup (8 * g))).toNat 7 && match (tgetO s.ctl.insts (bits (s.reg (.abGroup (8 * g))).toNat 56 7)).join with
    | some i => i.kind = 2 && i.object = m
    | none => false

/-- Has the barrier of a sharded model ended? At the tree's root with the collective's own step; elsewhere the root's release, which
is an ordinary signal, must have come as well (`release`; DESIGN CHOICE, log entry 87). -/
def State.barrierOver (s : State) (m : Nat) (g : Gate) (release : Bool) : Bool :=
  match s.trainGroup m with
  | none => true
  | some k => g.barrier && (bitAt (s.reg (.abGroup (8 * k))).toNat 31 || release)

/-- STEP_WINDOW_OPEN: every lookup stage started before the request has finished, and on a sharded model the barrier has completed
(04 R75). Touched rows are made hot and the adds that were held are applied. -/
def State.windowOpen (s : State) (m : Nat) (barrier : Bool) : State :=
  match s.model m with
  | none => s
  | some v =>
    if ¬ v.gate.pend ∨ v.gate.running ≠ [] ∨ ¬ s.barrierOver m v.gate barrier then s
    else
      let s := s.mapGate m fun g => { g with pend := false, open_ := true, held := [] }
      let s := (s.setFld (.mdlStat m) MDL_STAT_PEND 0).setFld (.mdlStat m) MDL_STAT_OPEN 1
      let s := v.gate.touched.foldl (fun (s : State) (x : Nat × Nat) => s.placeTouched m v.gate.touched x.1 x.2) s
      v.gate.held.foldl (fun (s : State) (h : HeldAdd) => (s.rowAdd m h.table h.row h.off h.addt h.data).ackTo h.who h.data.length) s

def execStepWindowOpen (model : Nat) (barrier : Bool) (s : State) : Res := .next (s.windowOpen model barrier)

/-- Every queued row of a table is demoted. -/
def State.demoteQueue (s : State) (t : Table) : State :=
  let s := t.queue.foldl (fun (s : State) (row : Nat) => match (s.table t.model t.num).bind (·.find row) with
    | some w => s.demoteWay t.model t.num w
    | none => s) s
  s.mapTable t.model t.num fun t => { t with queue := [] }

/-- A window closes: after its adds the queued rows are demoted (DESIGN CHOICE, log entry 86), MSTEP becomes n, and the waiting lookup stages start in
arrival order. At the publication interval of the model's training plan, a publication is due (04 Table 4-6). -/
def State.windowClose (s : State) (m : Nat) : State :=
  match s.model m with
  | none => s
  | some v =>
    if ¬ v.gate.open_ then s
    else
      let s := (s.rank.tables.filter (·.model = m)).foldl State.demoteQueue s
      let s := s.setFld (.mdlStep m) MDL_STEP_MSTEP (s.mstep m + 1)
      let s := (s.setFld (.mdlStat m) MDL_STAT_OPEN 0).mapGate m fun g =>
        { g with open_ := false, touched := [], added := [], waiting := [], demoteAt := none }
      let due : Bool := s.trainsNow m && Config.pubInterval m ≠ 0 && s.mstep m % Config.pubInterval m = 0
      let s := if due then s.setTowers m { s.towersOf m with pub := true } else s
      v.gate.waiting.foldl (fun (s : State) (g : Stage) => s.runStage m g) s

def execStepWindowClose (model : Nat) (s : State) : Res := .next (s.windowClose model)

/-- The training instance of a model stops: before its window opens the step leaves no trace; in the window, the window
closes and MSTEP still becomes n (04 R72, R76). -/
def State.stopStep (s : State) (m : Nat) : State :=
  match s.model m with
  | none => s
  | some v =>
    if v.gate.open_ then s.windowClose m
    else if v.gate.pend ∨ v.gate.held ≠ [] then
      let s := (s.mapGate m fun g => { g with pend := false, touched := [], held := [], waiting := [] }).setFld (.mdlStat m) MDL_STAT_PEND 0
      v.gate.waiting.foldl (fun (s : State) (g : Stage) => s.runStage m g) (s.ackHeld v.gate.held)
    else s

/-! ### The narrow path and memory-side adds (11 R247-R250) -/

/-- A miss of the directory: one in 64 is recorded in the ring of 4,096 entries (04 R67). -/
def State.noteMiss (s : State) (t : Table) (row : Nat) : State :=
  s.mapTable t.model t.num fun t =>
    let n := t.misses + 1
    if n % 64 = 0 then
      let ring := t.ring ++ [(row, bits s.svcTime 10 24)]
      { t with misses := n, sampled := t.sampled + 1, ring := if 4096 < ring.length then ring.drop 1 else ring,
               overwritten := t.overwritten || decide (4096 < ring.length) }
    else { t with misses := n }

/-- A refused access is the requester's to raise (10 Table 10-11): "domain off" is ADDR but for a ferry (12 R268). -/
def State.refuseEnd (s : State) (src a status : Nat) : State :=
  match status with
  | 1 => if isQuadUnit src ∧ 8 ≤ src % 16 then s.emit (.refusal src a 1) else s.domainOff src a
  | 4 => if isQuadUnit src then
      (if 8 ≤ src % 16 ∧ src % 16 < 12 then s.setFld (.fryStat (4 * (src / 16) + (src % 16 - 8))) FRY_STAT_FAULT 1 else s).quadFault (src / 16) src 0x0405 []
    else s.emit (.refusal src a 4)
  | _ => s.addrFault src a

/-- Is the block of a sketch-stack offset plain (05 R111)? -/
def State.plainBlock (s : State) (n o : Nat) : Bool := bitAt (s.reg (.skRegion n)).toNat (o % skBank / 2 ^ 20)
/-- Does an address lie in a plain block, whose errors go undetected (05 R99)? -/
def State.inPlain (s : State) (a : Nat) : Bool :=
  match regionOf a with
  | .sketch n o => s.plainBlock n o
  | _ => false

/-- How an error met by a read of `a` leaves the state: a corrected error is counted, an uncorrectable one also
raises MEM_UE and retires the page, or raises SPAD_UE (12 Table 12-9); one of a plain block goes undetected. -/
def State.readErr (s : State) (a : Nat) (e : MemErr) : State :=
  if s.inPlain a then s
  else match regionOf a, e with
    | .spad d _, .ce => s.spadCe d
    | .spad d _, .ue => s.raise (s.addrLog a) (srcDie d) 0x0601 []
    | .spad _ _, _ => s
    | _, .good => s
    | _, .ce => s.memCe a
    | _, .ue => s.memUe a
    | _, .crc n => s.memCrc a n

/-- An access of `n` bytes reaches the scratchpad bank it begins in, and that it ends in. -/
def State.touchRange (s : State) (a n : Nat) : State × Bool :=
  let r := s.touch a
  if r.2 ∧ a / bankSize ≠ (a + n - 1) / bankSize then r.1.touch (a + n - 1) else r

/-- Is a read of this byte served: by its owner's rule, or in the mooring area by the mooring's (12 R271)? -/
def State.serves (s : State) (src a : Nat) : Bool :=
  match regionOf a with
  | .spad _ o => match moorAt o with
    | some m => s.moorServes src m
    | none => s.mayReach src a
  | _ => s.mayReach src a

/-- Is a read of `n` bytes served? Within the mooring area every word is looked at. -/
def State.servesAll (s : State) (src a n : Nat) : Bool :=
  s.serves src a && s.serves src (a + n - 1) &&
    match regionOf (a + n - 1) with
    | .spad _ o => (moorAt o).isNone || (List.range (n / 8 + 1)).all fun k => s.serves src (min (a + 8 * k) (a + n - 1))
    | _ => true

/-- Read `n` bytes of DRAM or a scratchpad. Bytes with an undetected error are free values. -/
def State.readPlain (s : State) (src a n : Nat) (e : MemErr) : State × Acc × List Byte :=
  if ¬ s.servesAll src a n then (s, .no 3, [])
  else if s.converting a then (s, .held, [])
  else
    let r := s.touchRange a n
    if ¬ r.2 then (r.1, .no 1, [])
    else
      let s := r.1.readErr a e
      if s.inPlain a ∧ e ≠ .good then (s.drew, .ok, leBytes n (Config.freeChoice s.fresh))
      else if uncorrectable a e ∨ s.lostIn a n then (s, .no 4, []) else (s, .ok, s.rd a n)

/-- Read `n` bytes at a local address. Through an alias the plain contents are read (12 R269); among the registers a quad unit
reaches only POOL_ALLOC (12 R280, 18 R411). -/
def State.readAddr (s : State) (src a n : Nat) (e : MemErr) : State × Acc × List Byte :=
  let viaAlias (o : Nat) : State × Acc × List Byte :=
    if aliasOk o n ∧ o < 20 * spSize ∧ ¬ (0x540 ≤ src ∧ src ≤ 0x543) then s.readPlain src (spBase + o) n e else (s, .no 3, [])
  match regionOf a with
  | .setAlias o => viaAlias o
  | .clrAlias o => viaAlias o
  | .regs o => match regAt o with
    | some (.poolAlloc k) => if isQuadUnit src ∧ n = 8 then
        let r := s.poolAlloc src k
        (r.1, .ok, leBytes 8 r.2)
      else (s, .no 3, [])
    | _ => (s, .no 3, [])
  | _ => s.readPlain src a n e

/-- Write `data` at an address of DRAM or a scratchpad: a scratchpad write wakes its bank, one in the mooring area is ignored and
counted (12 R271), and one to shared lines is acknowledged when their sharers have answered (12 R278). -/
def State.writePlain (s : State) (src a : Nat) (data : List Byte) (who : Option AckTo) : State × Acc :=
  let moor := match regionOf a with
    | .spad d o => if (moorAt o).isSome then some d else none
    | _ => none
  if data = [] then (s, .ok)
  else match moor with
  | some d => (s.incFld (.spadStat d) SPAD_STAT_MPLAIN 1, .ok)
  | none =>
    if ¬ s.mayReach src a ∨ ¬ s.mayReach src (a + data.length - 1) then (s, .no 3)
    else if s.converting a then (s, .held)
    else
      let r := s.touchRange a data.length
      if ¬ r.2 then (r.1, .no 1)
      else if s.lostIn a data.length then (s, .no 4)
      else r.1.sharedWrite src data.length [(a, data.length)] who fun s => s.wr a data

/-- Write at a local address: through an alias bits are set or cleared; of the registers a quad unit reaches only POOL_FREE. -/
def State.writeAddr (s : State) (src a : Nat) (data : List Byte) (who : Option AckTo := none) : State × Acc :=
  match regionOf a with
  | .setAlias o => s.aliasPut src true o data
  | .clrAlias o => s.aliasPut src false o data
  | .regs o => match regAt o with
    | some (.poolFree k) => if isQuadUnit src ∧ data.length = 8 then (s.poolFree src k (ofLE data), .ok) else (s, .no 3)
    | _ => (s, .no 3)
  | _ => s.writePlain src a data who

/-- May the requester use the object (15 R344)? Quad units reach their partition's objects. -/
def State.mayUse (s : State) (src part : Nat) : Bool := !isQuadUnit src || s.quadPart (src / 16) == some part

/-- Read `n` bytes from byte `x` of element `v` of the object or table that a handle names. -/
def State.readElem (s : State) (src h v x n : Nat) (e : MemErr) : State × Acc × List Byte :=
  match s.obj h, s.tableOf h with
  | some o, _ =>
    let off := v * o.elemb + x
    if ¬ s.mayUse src o.part ∨ o.size < off + n then (s, .no 3, [])
    else
      let at_ := (o.place off).getD 0
      let dram := (o.place off).isSome
      if dram ∧ s.converting at_ then (s, .held, [])
      else
        let s := if dram then s.readErr at_ e else s
        let ue := uncorrectable at_ e
        if o.lost ∨ s.objLost o off n ∨ (ue ∧ ¬ o.hasHome) then (s, .no 4, [])
        else (s, .ok, if ue ∧ dram then (rangeFrom off n).map (tgetD 0#8 o.home) else s.objRead o off n)
  | none, some t =>
    if ¬ s.mayUse src t.part ∨ t.rows ≤ v then (s, .no 3, [])
    else
      let s := if (t.find v).isSome then s else s.noteMiss t v
      if e = .ue then (s, .no 4, []) else (s, .ok, bytesAt (t.rowBytes (t.row v)) x n)
  | none, none => (s, .no 3, [])

/-- The address ranges that bytes of an object lie at. -/
def Obj.spans (o : Obj) (off n : Nat) : List (Nat × Nat) :=
  (o.pieces.flatMap (clipPiece off (off + n))).filterMap fun p => p.addr.map fun a => (a, p.len)

/-- Write bytes at byte `x` of element `v`, or add them (`addt` ≠ 0). A write or add that meets the tile being copied by a move
waits for its switch (11 Table 11-8). A write to a row that is not hot rounds to COLD with the counts of 06 R131. -/
def State.putElem (s : State) (src h v x addt : Nat) (data : List Byte) (who : Option AckTo) : State × Acc :=
  match s.obj h, s.tableOf h with
  | some o, _ =>
    let off := v * o.elemb + x
    if ¬ s.mayUse src o.part ∨ o.size < off + data.length then (s, .no 3)
    else if o.lost ∨ (rangeFrom off data.length).any (fun i => (o.place i).any s.byteLost) then (s, .no 4)
    else if (o.place off).isSome ∧ s.converting ((o.place off).getD 0) then (s, .held)
    else
      let busy := match o.move with
        | some m => decide (m.next < off + data.length) && decide (off < min (m.next + 65536) m.hi)
        | none => false
      if busy then ({ s with tier := { s.tier with heldW := s.tier.heldW ++ [{ hub := o.hub, number := o.number, off, addt, src, data, who }] } }, .queued)
      else s.sharedWrite src data.length (o.spans off data.length) who fun s =>
        let s := s.objPut h off addt data
        if o.inFlash off data.length then s.program data.length else s
  | none, some t =>
    if ¬ s.mayUse src t.part ∨ t.rows ≤ v then (s, .no 3)
    else if addt = 0 then
      let bs := t.rowBytes (t.row v)
      let r := t.ofBytes (bs.take x ++ data ++ bs.drop (x + data.length))
      match t.find v with
      | some w => (s.mapTable t.model t.num fun t => t.setWay w ((t.way w).map fun x => { x with val := r }), .ok)
      | none =>
        let done := (List.range t.dim).map fun j => t.fm.conv .rne true (Fm.bf16.val (r.elem j))
        let s := s.mapTable t.model t.num fun t => { t with cold := tsetD {} t.cold v (mkRow (done.map (·.1)) r.scale r.acc) }
        ((s.count (80 + t.hub) t.part (srcHub t.hub) (done.foldl (fun a e => a.add e.2) {})).program t.coldBytes, .ok)
    else
      match s.model t.model with
      | some g =>
        if g.gate.open_ then (s.rowAdd t.model t.num v x addt data, .ok)
        else (s.mapGate t.model fun g => { g with held := g.held ++ [{ table := t.num, row := v, off := x, addt, src, data, who }] }, .queued)
      | none => (s, .no 3)
  | none, none => (s, .no 3)

/-- MSA_REFUSED (11 R250): a plain sketch-stack block, a scratchpad, a flash-only element, or an ADDT of 8-15. -/
def State.msaRefused (s : State) (tgt : Target) (addt n : Nat) : Bool :=
  let elemRefused (h v x : Nat) : Bool := match s.obj h with
    | some o => o.inFlash (v * o.elemb + x) n || match o.place (v * o.elemb + x) with
      | some a => match regionOf a with
        | .sketch k y => s.plainBlock k y
        | _ => false
      | none => false
    | none => false
  decide (8 ≤ addt) || match tgt with
    | .addr a => match regionOf a with
      | .sketch k o => s.plainBlock k o
      | .spad _ _ => true
      | _ => false
    | .elem h v => elemRefused h v 0
    | .part h v x => elemRefused h v x

/-- An add at a local address. -/
def State.addAddr (s : State) (src a addt : Nat) (data : List Byte) (who : Option AckTo) : State × Acc :=
  if data = [] then (s, .ok)
  else if ¬ s.mayReach src a ∨ ¬ s.mayReach src (a + data.length - 1) then (s, .no 3)
  else if s.converting a then (s, .held)
  else if s.lostIn a data.length then (s, .no 4)
  else s.sharedWrite src data.length [(a, data.length)] who fun s =>
    let r := addBytes addt (data.length / addWidth addt) (s.rd a data.length) data
    (s.wr a r.1).countAdd ((hubOf a).getD 0) r.2.1 r.2.2

/-- The hub and the log of the object or table that a handle names. -/
def State.handleHub (s : State) (h : Nat) : Nat × Nat :=
  match s.obj h, s.tableOf h with
  | some o, _ => (o.hub, o.part)
  | none, some t => (t.hub, t.part)
  | none, none => (0, modLog)

/-- The hub and the log of an end. -/
def State.endHub (s : State) (tgt : Target) : Nat × Nat :=
  match tgt with
  | .addr a => ((hubOf a).getD 0, s.addrLog a)
  | .elem h _ => s.handleHub h
  | .part h _ _ => s.handleHub h

/-- The address or handle a target names. -/
def tgtNum : Target → Nat
  | .addr a => a
  | .elem h _ => h
  | .part h _ _ => h

/-- A write to bytes that reside only in flash: refused as an add is, but for the collection manager's and the F-die's (11 R252). -/
def State.flashWrite (s : State) (src : Nat) (tgt : Target) (n : Nat) : Bool :=
  let flash (h v x : Nat) : Bool := src ≠ srcQuay && src ≠ srcFlash && match s.obj h with
    | some o => o.inFlash (v * o.elemb + x) n
    | none => false
  match tgt with
  | .addr _ => false
  | .elem h v => flash h v 0
  | .part h v x => flash h v x

/-- A write (`addt` 0) or memory-side add at an end; `who` waits for it. -/
def State.writeEnd (s : State) (src : Nat) (tgt : Target) (addt : Nat) (data : List Byte) (who : Option AckTo := none) : State × Acc :=
  if (if addt ≠ 0 then s.msaRefused tgt addt data.length else s.flashWrite src tgt data.length) then
    let h := s.endHub tgt
    (s.raise h.2 (srcHub h.1) 0x0507 [], .no 4)
  else
    match tgt with
    | .addr a => if addt = 0 then s.writeAddr src a data who else s.addAddr src a addt data who
    | .elem h v => s.putElem src h v 0 addt data who
    | .part h v x => s.putElem src h v x addt data who

/-- A read at an end. -/
def State.readEnd (s : State) (src : Nat) (tgt : Target) (n : Nat) (e : MemErr) : State × Acc × List Byte :=
  match tgt with
  | .addr a => s.readAddr src a n e
  | .elem h v => s.readElem src h v 0 n e
  | .part h v x => s.readElem src h v x n e

/-- NARROW_PATH_ACCESS: a read (`data` absent) or write of up to 256 bytes within one aligned block, or of an object
element, which is cut into such blocks. -/
def State.narrow (s : State) (src : Nat) (tgt : Target) (len : Nat) (data : Option (List Byte)) (e : MemErr) : State :=
  let fits := match tgt with
    | .addr a => decide (1 ≤ len ∧ a % 256 + len ≤ 256)
    | .elem _ _ => decide (1 ≤ len)
    | .part _ _ x => decide (1 ≤ len ∧ x % 256 + len ≤ 256)
  if fits = false then s
  else
    match data with
    | none =>
      let r := s.readEnd src tgt len e
      match r.2.1 with
      | .ok | .queued => r.1.emit (.readResp src (tgtNum tgt) r.2.2)
      | .no st => r.1.refuseEnd src (tgtNum tgt) st
      | .held => r.1.hold ⟨src, tgt, len, none, 0, none⟩
    | some bs =>
      let r := s.writeEnd src tgt 0 (bytesAt bs 0 len)
      match r.2 with
      | .ok | .queued => r.1
      | .no st => r.1.refuseEnd src (tgtNum tgt) st
      | .held => r.1.hold ⟨src, tgt, len, some bs, 0, none⟩

def execNarrowPathAccess (src : Nat) (tgt : Target) (len : Nat) (data : Option (List Byte)) (err : MemErr) (s : State) : Res :=
  .next (s.narrow src tgt len data err)

/-- The rows of an open window whose adds were not applied are named, one event each (04 R76, DESIGN CHOICE, log entry 2). -/
def State.notApplied (s : State) (m : Nat) (first : Nat × Nat) : State :=
  match s.model m with
  | none => s
  | some v =>
    let rest := v.gate.touched.filter fun x => x ≠ first && !v.gate.added.contains x
    (first :: if v.gate.open_ then rest else []).foldl (fun (s : State) x =>
      s.raise v.part (srcHub (((s.table m x.1).map Table.hub).getD 0)) (Config.openCode 3 % 2 ^ 16)
        (leBytes 2 m ++ leBytes 2 x.1 ++ leBytes 4 0 ++ leBytes 8 x.2)) s

/-- MEMORY_SIDE_ADD: an adder of the owning hub applies one update. `fault`: the adder met a fault; in a window it
aborts the training task, the window closes, and events name the rows not applied (04 R76). -/
def State.memAdd (s : State) (src : Nat) (tgt : Target) (addt : Nat) (data : List Byte) (fault : Bool) : State :=
  if addt = 0 ∨ 15 < addt ∨ data = [] ∨ 256 < data.length ∨ (addt ≤ 7 ∧ data.length % addWidth addt ≠ 0) then s
  else
    let stop : Option (Table × Nat) := match tgt with
      | .elem h v => (s.tableOf h).map fun t => (t, v)
      | .part h v _ => (s.tableOf h).map fun t => (t, v)
      | .addr _ => none
    match fault, stop with
    | true, some (t, row) =>
      let s := s.notApplied t.model (t.num, row)
      let s := s.ctl.insts.foldl (fun (s : State) (e : Nat × Option Inst) => match e.2 with
        | some i => if i.kind = 2 ∧ i.object = t.model then s.startAbort e.1 (Config.openCode 3 % 2 ^ 16) else s
        | none => s) s
      s.windowClose t.model
    | true, none => s.refuseEnd src (tgtNum tgt) 4
    | false, _ =>
      let r := s.writeEnd src tgt addt data
      match r.2 with
      | .ok | .queued => r.1
      | .no st => r.1.refuseEnd src (tgtNum tgt) st
      | .held => r.1.hold ⟨src, tgt, data.length, some data, addt, none⟩

def execMemorySideAdd (src : Nat) (tgt : Target) (addt : Nat) (data : List Byte) (fault : Bool) (s : State) : Res :=
  .next (s.memAdd src tgt addt data fault)

/-- The accesses held at the hubs are served again, in arrival order. -/
def State.freeAccs (s : State) : State :=
  s.tier.heldAcc.foldl (fun (s : State) h => match h.host with
    | some x => s.bar2 x h.len h.data
    | none => if h.addt = 0 then s.narrow h.src h.tgt h.len h.data .good else s.memAdd h.src h.tgt h.addt (h.data.getD []) false)
    { s with tier := { s.tier with heldAcc := [] } }

end Sys2Proof.Machine
end

