-- ==== Sys2Proof/Machine/Far.lean ====
section
/-! DEFINITION. Reads and writes of DRAM by E-dies as far-line caching serves them (12 R277-R279). -/

namespace Sys2Proof.Machine

/-- FAR_READ: a read of 32 to 256 bytes in one aligned block by E-die `d` for `src`. A hit answers from the cache.
A miss on a cacheable line of a far hub is filled: the hub sets the E-die's bit, unless its directory set is full
(DIR_STAT.NOALLOC). `inFlight`: the fill is still on its way when the command ends; the read of the same line that
follows it is its arrival, and a snooped fill serves the read and is not kept (12 Table 12-7). Any other read is served by its hub
or bank as one that no cache takes part in. -/
def State.farRead (s : State) (src d a n : Nat) (inFlight : Bool) : State :=
  let plain (s : State) : State := s.narrow src (.addr a) n none .good
  if farKind a = false ∨ isFar d a = false ∨ n < 32 ∨ 256 < a % 256 + n then plain s
  else if s.mayReach src a = false then s.addrFault src a
  else
    let line := lineOf a
    match s.net.lines.find? (fun l => l.die = d ∧ l.line = line) with
    | some l => s.emit (.readResp src a (bytesAt l.bytes (a % 256) n))
    | none =>
      match s.net.fills.find? (fun f => f.die = d ∧ f.line = line) with
      | some f =>
        let s := { s with net := { s.net with fills := s.net.fills.filter (· ≠ f) } }
        let s := if f.keep then s.keepLine d line f.bytes else s
        s.emit (.readResp src a (bytesAt f.bytes (a % 256) n))
      | none =>
        let h := (hubOf a).getD 0
        let s := s.perturb (srcHub h)
        if s.cacheable a = false ∨ s.lostIn (line * 256) 256 ∨ s.converting a then plain s
        else if s.dirRoom line = false then plain (s.incFld (.dirStat h) DIR_STAT_NOALLOC 1)
        else
          let bytes := s.rd (line * 256) 256
          let s := s.setSharers line (putBits (s.sharers line) d 1 1)
          if inFlight then { s with net := { s.net with fills := s.net.fills ++ [⟨d, line, bytes, true⟩] } }
          else (s.keepLine d line bytes).emit (.readResp src a (bytesAt bytes (a % 256) n))

def execFarRead (src d a n : Nat) (inFlight : Bool) (s : State) : Res := .next (if d < 20 then s.farRead src d a n inFlight else s)

/-- SHARED_LINE_WRITE: a write of up to 256 bytes within one aligned block of HBM3E or GDDR7. -/
def State.sharedLineWrite (s : State) (src a : Nat) (data : List Byte) : State :=
  if farKind a = false ∨ data = [] ∨ 256 < a % 256 + data.length then s else s.narrow src (.addr a) data.length (some data) .good

def execSharedLineWrite (src a : Nat) (data : List Byte) (s : State) : Res := .next (s.sharedLineWrite src a data)

end Sys2Proof.Machine
end

