-- ==== Sys2Proof/Machine/Isa.lean ====
section
/-! DEFINITION. How a quad unit takes an instruction (09): threads, waits, predication and signals; the control,
semaphore and fence classes; completion and the watchdog. -/

namespace Sys2Proof.Machine

/-! ### Threads (09 R174, R175) -/

/-- The key of thread `t` of unit `u` of quad `q`. -/
def thrKey (q u t : Nat) : Nat := 16 * (16 * q + u) + t
def State.thread (s : State) (q u t : Nat) : Option Thread := (tgetO s.ctl.threads (thrKey q u t)).join
def State.setThread (s : State) (q u t : Nat) (v : Thread) : State :=
  { s with ctl := { s.ctl with threads := tsetD none s.ctl.threads (thrKey q u t) (some v) } }
def State.mapThread (s : State) (q u t : Nat) (f : Thread → Thread) : State :=
  match s.thread q u t with
  | some v => s.setThread q u t (f v)
  | none => s

/-- The instance of a quad, when it is loaded and not aborting, the quad is ON and the main domain up: its units may issue. -/
def State.quadRuns (s : State) (q : Nat) : Bool :=
  s.pwr.phase = .up && match s.quadInst q with
  | some i => (s.inst i).isSome && !(s.flag (.schInst i) SCH_INST_ABORTING) && s.fld (.pwrQuad q) PWR_QUAD_STATE = 0
  | none => false

/-- A quad in GATED or OFF that something names asks for a wake token, once (16 R375, R376). -/
def State.askWake (s : State) (q : Nat) : State :=
  let st := s.fld (.pwrQuad q) PWR_QUAD_STATE
  if (st = 1 ∨ st = 2) ∧ ¬ s.flag (.pwrQuad q) PWR_QUAD_WAITTOK then
    { s.setFld (.pwrQuad q) PWR_QUAD_WAITTOK 1 with pwr := { s.pwr with wakeReq := s.pwr.wakeReq ++ [q] } }
  else s

/-- Requests of several quads that arrive in one cycle: the rotating grant pointer orders them (16 R376). -/
def State.askWakes (s : State) (qs : List Nat) : State :=
  (((List.range 80).map fun k => (s.pwr.wakePtr + k) % 80).filter qs.contains).foldl State.askWake s

/-- The quad is out of service: retired, or on a lost E-die (17 Table 17-5). -/
def State.quadGone (s : State) (q : Nat) : Bool := s.pwr.retired.contains q || s.pwr.diesLost.contains (q / 4)

/-! ### Semaphores (09 R178-R183) -/

/-- `n` is added to semaphore `j` of quad `q`; above 0xFFFF it stays 0xFFFF and SEM_OVF is raised by `src`. -/
def State.addSem (s : State) (q j n src : Nat) : State :=
  let v := s.sem q j + n
  if v ≤ 0xFFFF then s.setSem q j v else (s.setSem q j 0xFFFF).quadFault q src 0x0303 []

/-- A signal of the module itself to a semaphore of a quad: it wakes the quad. -/
def State.signal (s : State) (q j n src : Nat) : State := (s.askWake q).addSem q j n src

/-! ### Parity errors of quad units (17 Table 17-3) -/

/-- Is this the second error of the key within 24 hours? -/
def withinDay (t : Tab Nat) (key now : Nat) : Bool :=
  match tgetO t key with
  | some x => decide (now - x ≤ 86400 * tickS)
  | none => false

/-- A quad is to be retired for the event `code` (17 R403). -/
def State.dueRetire (s : State) (q code : Nat) : State :=
  if s.pwr.retireDue.any (·.1 = q) ∨ s.pwr.retired.contains q then s
  else
    let s : State := { s with pwr := { s.pwr with retireDue := s.pwr.retireDue ++ [(q, code)] } }
    match s.quadPart q with
    | some p => s.affect p code
    | none => s

/-- A parity error of a unit: its event aborts the instance, and a second one within 24 hours retires the quad. -/
def State.unitParity (s : State) (q u code : Nat) (data : List Byte) : State :=
  let k := srcUnit q u
  let again := withinDay s.pwr.parity k s.svcTime
  let s : State := { s with pwr := { s.pwr with parity := tins k s.svcTime s.pwr.parity } }
  let s := s.quadFault q k code data
  if again then s.dueRetire q code else s

/-- A parity error in a fetched instruction (09 Table 9-11): FETCH. The quad's schedules are reloaded at the abort. -/
def State.fetchParity (s : State) (q u : Nat) : State :=
  let again := withinDay s.ctl.fetchErr q s.svcTime
  let s : State := { s with ctl := { s.ctl with fetchErr := tins q s.svcTime s.ctl.fetchErr, reload := s.ctl.reload ++ [q] } }
  let s := s.quadFault q (srcUnit q u) 0x030A []
  if again then s.dueRetire q 0x030A else s

/-- The unit's own parity event: VP_PARITY, SU_PARITY, XU_PARITY, FRY_PARITY. An engine's come with MMA and MMAX. -/
def State.unitErr (s : State) (q u : Nat) : State :=
  if u = 4 then s.unitParity q u 0x0B0A (leBytes 2 q)
  else if u = 5 then s.unitParity q u 0x0B0B (leBytes 2 q)
  else if u = 6 then (s.setFld (.xuStat q) XU_STAT_PARSEEN 1).unitParity q u 0x0204 []
  else if 8 ≤ u ∧ u < 12 then
    ((s.setFld (.fryStat (4 * q + (u - 8))) FRY_STAT_PARSEEN 1).setFld (.fryStat (4 * q + (u - 8))) FRY_STAT_FAULT 1).unitParity q u 0x0407 []
  else s

/-! ### The instruction word (09 R176, R177, Table 9-2) -/

/-- The class of an opcode, when it is assigned. -/
def classOf (op : Nat) : Option Nat :=
  if op ≤ 4 then some 0
  else if 0x10 ≤ op ∧ op ≤ 0x13 then some 1
  else if op = 0x20 ∨ op = 0x21 then some 2
  else if 0x30 ≤ op ∧ op ≤ 0x36 then some 3
  else if 0x40 ≤ op ∧ op ≤ 0x56 then some 4
  else if op = 0x60 ∨ op = 0x61 then some 5
  else if op = 0x70 then some 6
  else if op = 0x80 then some 7
  else if op = 0x90 ∨ op = 0x91 then some 8
  else none

/-- Does a unit execute a class (09 Table 9-1)? -/
def unitRuns (u c : Nat) : Bool :=
  c ≤ 2 || (u < 4 && c = 3) || (u = 4 && c = 4) || (u = 5 && (c = 5 || c = 8)) || (u = 6 && c = 6) || (8 ≤ u && u < 12 && c = 7)

/-- Threads of a unit (09 Table 9-1); 0 for a number that names none. -/
def unitThreads (u : Nat) : Nat :=
  if u < 4 then 4 else if u = 4 then 8 else if u = 5 then 4 else if u = 6 then 2 else if 8 ≤ u ∧ u < 12 then 16 else 0

def iOpcode (w : Nat) : Nat := bits w 120 8
def iClass (w : Nat) : Nat := bits w 116 4
def iThread (w : Nat) : Nat := bits w 112 4
def iWait (w : Nat) : Nat := bits w 104 8
def iSignal (w : Nat) : Nat := bits w 96 8
def iWv (w : Nat) : Bool := bitAt w 92
def iSv (w : Nat) : Bool := bitAt w 93
def iPred (w : Nat) : Bool := bitAt w 94
def iWkeep (w : Nat) : Bool := bitAt w 95

/-- The VEC fields that an opcode uses: VD, VA, VB, VC, TYPE, MSK, RMODE, FMT, NARROW, IMM bits, OFF (09 R193, Table
9-7). The others must be 0. -/
structure VecUse where
  vd : Bool := true
  va : Bool := true
  vb : Bool := false
  vc : Bool := false
  cvt : Bool := false
  imm : Nat := 0
  off : Bool := false
  msk : Bool := true

def vecUse (op : Nat) : VecUse :=
  match op with
  | 0x40 => { va := false, off := true }
  | 0x41 => { vd := false, off := true }
  | 0x42 => { va := false, imm := 3 }
  | 0x43 => { vd := false, imm := 6, msk := false }
  | 0x44 | 0x45 | 0x46 | 0x48 | 0x4A | 0x4B | 0x53 => { vb := true }
  | 0x47 => { vb := true, vc := true }
  | 0x4E => { vb := true, imm := 3 }
  | 0x4F | 0x50 => { vb := true, imm := 2 }
  | 0x51 => { imm := 9 }
  | 0x52 => { vc := true, cvt := true }
  | 0x55 => { imm := 1 }
  | 0x56 => { va := false, imm := 32 }
  | _ => {}

/-- Do the operands hold 0 in every reserved and unused bit, and only assigned field values (09 R177, R185)? Values
that are assigned and not allowed in their place are the classes' own matter. -/
def formOk (op o : Nat) : Bool :=
  let zero (lo : Nat) : Bool := decide (bits o lo (92 - lo) = 0)
  let fmtOk (lo top : Nat) : Bool := decide (bits o lo 4 ≤ top)
  let sclOk (lo : Nat) : Bool := decide (bits o lo 2 ≠ 3)
  match op with
  | 0x00 | 0x01 | 0x02 | 0x04 => zero 67
  | 0x03 => zero 67 && decide (bits o 34 16 ≠ 0) && decide (bits o 50 16 < bits o 34 16)
  | 0x10 | 0x11 => zero 32
  | 0x12 => zero 32 && decide (bits o 8 16 ≠ 0)
  | 0x13 => zero 32 && decide (bits o 8 16 ≠ 0) && decide (bits o 25 7 < 80)
  | 0x20 => zero 73 && decide (bits o 40 32 ≠ 0)
  | 0x21 => zero 73
  | 0x30 => zero 62 && fmtOk 0 9 && fmtOk 4 9 && sclOk 8 && sclOk 10
  | 0x31 => zero 66 && fmtOk 0 9 && fmtOk 4 9 && sclOk 8 && sclOk 10
  | 0x32 => decide (bits o 24 2 ≠ 3) && fmtOk 26 9 && decide (bits o 30 2 ≠ 3) && decide (bits o 33 2 ≠ 3)
  | 0x33 | 0x34 => zero 34
  | 0x35 => zero 27 && decide (bits o 23 1 = 0)
  | 0x36 => zero 71
  | 0x60 => zero 45 && decide (bits o 3 2 ≠ 3)
  | 0x61 => zero 14
  | 0x70 => zero 61
  | 0x80 => zero 36
  | 0x90 => zero 57
  | 0x91 => zero 35
  | _ =>
    let u := vecUse op
    zero 90 && decide (bits o 20 3 ≤ 4) && decide (bits o 25 2 ≤ 1) &&
    (u.vd || decide (bits o 0 5 = 0)) && (u.va || decide (bits o 5 5 = 0)) && (u.vb || decide (bits o 10 5 = 0)) &&
    (u.vc || decide (bits o 15 5 = 0)) && (u.cvt || decide (bits o 25 7 = 0)) && fmtOk 27 9 &&
    decide (bits o 32 32 < 2 ^ u.imm) && (u.off || decide (bits o 64 26 = 0)) &&
    (u.msk || decide (bits o 23 2 = 0)) && (op ≠ 0x4E || decide (bits o 2 3 = 0)) &&
    (op ≠ 0x52 || decide (bits o 25 2 = 1) || decide (bits o 15 5 = 0))

/-! ### Accumulator granules and their coincident use (07 R140, R144) -/

/-- Rows of a granule. -/
def granRows (fp32 : Bool) : Nat := if fp32 then 32 else 8

/-- Granules of a tile of `m` rows (07 Table 7-2). -/
def tileGrans (fp32 : Bool) (m : Nat) : Nat :=
  if fp32 then (if m ≤ 32 then 1 else if m ≤ 64 then 2 else 4)
  else if m ≤ 8 then 1 else if m ≤ 16 then 2 else if m ≤ 32 then 4 else if m ≤ 64 then 8 else 16

/-- The set and the range of granules that a matrix instruction names; of MMAX, whose entries name them, the whole set. -/
def matTile (op o : Nat) : Nat × Nat × Nat :=
  let span (set b : Nat) (fp32 : Bool) (m : Nat) : Nat × Nat × Nat := (set, b, b + tileGrans fp32 (m + 1))
  match op with
  | 0x30 => span (bits o 49 1) (bits o 50 8) (bitAt o 59) (bits o 24 7)
  | 0x31 => (bits o 56 1, 0, 256)
  | 0x32 => span (bits o 0 1) (bits o 1 8) (bitAt o 23) (bits o 9 7)
  | 0x35 => span (bits o 0 1) (bits o 1 8) false (bits o 9 7)
  | _ => span (bits o 0 1) (bits o 1 8) (bitAt o 16) (bits o 9 7)

/-- Does the instruction use the array? -/
def isArray (op : Nat) : Bool := op = 0x30 || op = 0x31
/-- Is it of the drain class, which uses the output path? -/
def isDrain (op : Nat) : Bool := decide (0x32 ≤ op) && decide (op ≤ 0x35)
/-- Does it write granules? -/
def writesTile (op : Nat) : Bool := isArray op || op = 0x34

/-- Does the earlier instruction `i` of thread `t'` hold one of thread `t`: a dry one the array, one of the drain class the
output path, and either by 07 Table 7-4a? -/
def matHeld (op o t t' : Nat) (i : Issued) : Bool :=
  let a := matTile op o
  let b := matTile i.op i.o
  let meet : Bool := a.1 = b.1 && decide (a.2.1 < b.2.2) && decide (b.2.1 < a.2.2)
  (isDrain op && isDrain i.op) || (isArray op && isArray i.op && (i.dry || (meet && t ≠ t'))) ||
    (meet && ((writesTile op && isDrain i.op && i.op ≠ 0x34) || (isDrain op && writesTile i.op)))

/-! ### Issue and completion (09 R178, R179) -/

/-- An instruction being executed: its place, operands and signal; what it took before it ran dry, and its tokens out. -/
structure Iss where
  q : Nat
  u : Nat
  t : Nat
  op : Nat
  o : Nat
  sig : Option Nat
  k : Nat := 0
  got : List (List Byte) := []
  toks : List Nat := []
deriving DecidableEq, Repr

def Iss.src (x : Iss) : Nat := srcUnit x.q x.u
def Iss.die (x : Iss) : Nat := x.q / 4
/-- A field of the operands. -/
def Iss.f (x : Iss) (lo w : Nat) : Nat := bits x.o lo w
/-- The signal of a completed instruction. -/
def State.done (s : State) (x : Iss) : State :=
  match x.sig with
  | some j => s.addSem x.q j 1 x.src
  | none => s
/-- The instruction joins those of its thread that are not complete. -/
def State.join (s : State) (x : Iss) (i : Issued) : State :=
  s.mapThread x.q x.u x.t fun th => { th with issued := th.issued ++ [i] }
/-- An instruction in progress: INSTRUCTION_COMPLETE ends it. -/
def State.later (s : State) (x : Iss) : State := s.join x { op := x.op, sig := x.sig, o := x.o }
/-- An instruction in progress that still needs bytes of a stream. -/
def State.stay (s : State) (x : Iss) : State :=
  s.join x { op := x.op, sig := x.sig, o := x.o, dry := true, k := x.k, got := x.got, tokens := x.toks }
/-- An event of an instruction that aborts the instance. -/
def State.fault (s : State) (x : Iss) (code : Nat) : State := s.quadFault x.q x.src code []

/-- The word of the thread's next instruction, from its schedule area. -/
def State.nextWord (s : State) (q u t : Nat) : Option Nat :=
  match s.thread q u t with
  | some th => if th.halted ∨ th.ninstr ≤ th.pos then none else some (s.rdLE (th.base + 16 * th.pos) 16)
  | none => none

/-- Does a unit issue? An engine that failed is fenced until a spare takes its position (07 Table 7-10). -/
def State.unitOn (s : State) (q u : Nat) : Bool :=
  s.quadRuns q && !(decide (u < 4) && s.eng.meFailed.any fun f => f.1 = 4 * q + u)

/-- FRY_SWAIT of a stream: why it waits, and since when; 0 when it does not (10 R238). -/
def State.fryWait (s : State) (n cause : Nat) : State :=
  if s.fld (.frySwait n) FRY_SWAIT_CAUSE = cause then s
  else (s.setFld (.frySwait n) FRY_SWAIT_CAUSE cause).setFld (.frySwait n) FRY_SWAIT_SINCE (if cause = 0 then 0 else s.svcTime)

/-- A thread that is not ready starts its wait (09 R204). -/
def State.waits (s : State) (q u t : Nat) : State :=
  let s := if 8 ≤ u ∧ u < 12 then s.fryWait (16 * (4 * q + (u - 8)) + t) 8 else s
  s.mapThread q u t fun th => { th with waitAt := some (th.waitAt.getD s.svcTime) }

/-- Does nothing that the engine's threads issued hold a matrix instruction of thread `t` (07 R144, R150)? -/
def State.matReady (s : State) (q u t op o : Nat) : Bool :=
  (List.range 4).all fun t' => match s.thread q u t' with
    | some th => th.issued.all fun i => !(decide (0x30 ≤ i.op) && matHeld op o t t' i)
    | none => true

/-- The class conditions of an instruction (09 R178): SWAIT's count, on top of what its own wait consumes (DESIGN CHOICE, log entry 90);
HALT's issued instructions; VIN's queue; a select unit and a stream that run one thing at a time; the matrix class's
array, output path and granules. -/
def State.classReady (s : State) (q u t w : Nat) : Bool :=
  let o := bits w 0 92
  match iOpcode w with
  | 0x04 => (s.thread q u t).all fun th => th.issued = []
  | 0x12 => decide (bits o 8 16 + (if iWv w && !iWkeep w && iWait w = bits o 0 8 then 1 else 0) ≤ s.sem q (bits o 0 8))
  | 0x42 => decide (256 ≤ (tgetD [] s.eng.vq (8 * q + bits o 32 3)).length)
  | 0x70 => ((tgetD {} s.eng.xu q).run).isNone
  | 0x80 => ((tgetD {} s.fry.streams (16 * (4 * q + (u - 8)) + t)).job).isNone
  | op => !(isArray op || isDrain op) || s.matReady q u t op o

/-- Is a word ready (09 R178)? -/
def State.wordReady (s : State) (q u t w : Nat) : Bool :=
  (!(iWv w) || decide (1 ≤ s.sem q (iWait w))) && s.classReady q u t w

/-- Is a thread's next instruction ready? -/
def State.ready (s : State) (q u t : Nat) : Bool := (s.nextWord q u t).any (s.wordReady q u t)

/-- What of its unit an instruction needs: an engine's array (0) or output path (1) (07 R150), or its issue. -/
def resOf (u w : Nat) : Nat := if u < 4 then (if isArray (iOpcode w) then 0 else if isDrain (iOpcode w) then 1 else 2) else 0

/-- How many places behind `first` a number stands in a rotation of `n`. -/
def rotDist (n first k : Nat) : Nat := (k + n - first % n) % n

/-- Is the thread the first, in rotation, of those whose next instruction is ready and needs the same resource (09 R174,
07 R150)? -/
def State.turn (s : State) (q u t w : Nat) : Bool :=
  let n := unitThreads u
  let d (t : Nat) : Nat := rotDist n (tgetD 0 s.ctl.next (4 * (16 * q + u) + resOf u w)) t
  (List.range n).all fun t' => decide (d t ≤ d t') || !((s.nextWord q u t').any fun w' => resOf u w' = resOf u w && s.wordReady q u t' w')

/-- Does a word consume a count of semaphore `j`? -/
def takesSem (w j : Nat) : Bool := iWv w && !iWkeep w && iWait w = j

/-- Waiters on one semaphore: those that are their unit's turn and stand before this one at the grant pointer leave a count
for it (09 R180). -/
def State.granted (s : State) (q u t w : Nat) : Bool :=
  let j := iWait w
  let d (k : Nat) : Nat := rotDist 256 (tgetD 0 s.ctl.grant (256 * q + j)) k
  !takesSem w j || decide (((s.ctl.threads.filter fun e => e.1 / 256 = q && decide (d (e.1 % 256) < d (16 * u + t)) &&
    (s.nextWord q (e.1 / 16 % 16) (e.1 % 16)).any fun w' => takesSem w' j && s.unitOn q (e.1 / 16 % 16) &&
      s.wordReady q (e.1 / 16 % 16) (e.1 % 16) w' && s.turn q (e.1 / 16 % 16) (e.1 % 16) w').length) < s.sem q j)

/-- What issue itself changes: the count consumed with its grant pointer, the rotation, the thread's place and its wait. -/
def State.taken (s : State) (q u t w : Nat) : State :=
  let j := iWait w
  let s : State := { s with ctl := { s.ctl with
    next := tsetD 0 s.ctl.next (4 * (16 * q + u) + resOf u w) ((t + 1) % unitThreads u)
    grant := if takesSem w j then tsetD 0 s.ctl.grant (256 * q + j) ((16 * u + t + 1) % 256) else s.ctl.grant } }
  let s := if takesSem w j then s.setSem q j (s.sem q j - 1) else s
  let s := s.mapThread q u t fun th => { th with pos := th.pos + 1, waitAt := none }
  if 8 ≤ u ∧ u < 12 then s.fryWait (16 * (4 * q + (u - 8)) + t) 0 else s

/-- The first instruction of opcode `op` that ran dry on a thread, with its number. -/
def Thread.dryOf (th : Thread) (op : Nat) : Option (Nat × Issued) :=
  (th.issued.zipIdx.find? fun i => i.1.op = op && i.1.dry).map fun i => (i.2, i.1)

/-- A unit goes on with an instruction of opcode `op` that ran dry, and otherwise takes its thread's next instruction, when
that is one of opcode `op`: the checks of 09 R177, the readiness of R178, the rotation of R174 and the grant of R180,
predication, and then `run`, which answers `none` while a stream is dry. -/
def State.issue (s : State) (q u t : Nat) (e : UnitErr) (op : Nat) (run : State → Iss → Option State) : State :=
  match (s.thread q u t).bind fun th => th.dryOf op with
  | some (n, i) =>
    if ¬ s.unitOn q u then s
    else if e = .parity ∧ 4 ≤ u then s.unitErr q u
    else
      (run (s.mapThread q u t fun th => { th with issued := th.issued.eraseIdx n })
        { q, u, t, op, o := i.o, sig := i.sig, k := i.k, got := i.got, toks := i.tokens }).getD s
  | none =>
    match s.nextWord q u t with
    | none => s
    | some w =>
      if ¬ s.unitOn q u then s
      else if e = .fetch then s.fetchParity q u
      else
        let x : Iss := { q, u, t, op, o := bits w 0 92, sig := if iSv w then some (iSignal w) else none }
        match classOf (iOpcode w) with
        | none => s.fault x 0x0301
        | some c =>
          if iOpcode w ≠ op then s
          else if iClass w ≠ c ∨ unitRuns u c = false then s.fault x 0x0301
          else if iThread w ≠ t then s.fault x 0x0302
          else if formOk op x.o = false then s.fault x 0x0301
          else if e = .parity ∧ 4 ≤ u then s.unitErr q u
          else if s.wordReady q u t w = false then s.waits q u t
          else if s.turn q u t w = false ∨ s.granted q u t w = false then s
          else
            let s1 := s.taken q u t w
            if iPred w ∧ ((s.thread q u t).map Thread.p) ≠ some true then s1.done x
            else (run s1 x).getD (s1.stay x)

/-- An instruction that is complete 1 cycle after issue. -/
def State.issueNow (s : State) (q u t : Nat) (e : UnitErr) (op : Nat) (f : State → Iss → State) : State :=
  s.issue q u t e op fun s x => some ((f s x).done x)

/-- INSTRUCTION_COMPLETE: the `n`-th instruction in progress of the thread reaches its completion point. One that runs a
stream or waits for near-bank tokens completes when those have ended. -/
def State.complete (s : State) (q u t n : Nat) : State :=
  match s.thread q u t with
  | none => s
  | some th =>
    match th.issued[n]? with
    | none => s
    | some i =>
      if i.isJob ∨ i.dry ∨ i.tokens ≠ [] then s
      else
        let s := s.setThread q u t { th with issued := th.issued.eraseIdx n }
        s.done { q, u, t, op := i.op, o := i.o, sig := i.sig }

/-- WATCHDOG: a wait that exceeds SCH_CTL.WDOG units of 100 µs aborts the instance. -/
def State.watchdog (s : State) (q u t : Nat) : State :=
  match (s.thread q u t).bind Thread.waitAt with
  | none => s
  | some w =>
    let lim := s.fld .schCtl SCH_CTL_WDOG
    if lim ≠ 0 ∧ w + lim * 100 * tickUs < s.svcTime then s.quadFault q (srcUnit q u) 0x0308 [] else s

def execWatchdog (q u t : Nat) (s : State) : Res := .next (s.watchdog q u t)

/-! ### CTL (09 R181) -/

def execNop (q u t : Nat) (e : UnitErr) (s : State) : Res := .next (s.issueNow q u t e 0x00 fun s _ => s)

/-- LOOP: the named level must be the next free one of four. -/
def State.loop (s : State) (x : Iss) : State :=
  match s.thread x.q x.u x.t with
  | none => s
  | some th =>
    let n := x.f 0 2
    if n ≠ th.loops.length then s.fault x 0x0305
    else s.setThread x.q x.u x.t { th with loops := th.loops ++ [⟨x.f 2 32, th.pos⟩], lcs := th.lcs.set n 0 }

def execLoop (q u t : Nat) (e : UnitErr) (s : State) : Res := .next (s.issueNow q u t e 0x01 State.loop)

/-- ENDL: back to the recorded address while LC < COUNT (COUNT 0: always), else the level closes. -/
def State.endl (s : State) (x : Iss) : State :=
  match s.thread x.q x.u x.t with
  | none => s
  | some th =>
    let n := x.f 0 2
    if n + 1 ≠ th.loops.length then s.fault x 0x0305
    else
      let lc := th.lcs.getD n 0 + 1
      let th := { th with lcs := th.lcs.set n lc }
      match th.loops.getLast? with
      | some l =>
        if l.count = 0 ∨ lc < l.count then s.setThread x.q x.u x.t { th with pos := l.pos }
        else s.setThread x.q x.u x.t { th with loops := th.loops.dropLast }
      | none => s

def execEndl (q u t : Nat) (e : UnitErr) (s : State) : Res := .next (s.issueNow q u t e 0x02 State.endl)

/-- SETP: P ← ((LC mod MOD) = VAL) XOR INV. -/
def State.setp (s : State) (x : Iss) : State :=
  s.mapThread x.q x.u x.t fun th =>
    { th with p := (decide (th.lcs.getD (x.f 0 2) 0 % x.f 34 16 = x.f 50 16)) != (decide (x.f 66 1 = 1)) }

def execSetp (q u t : Nat) (e : UnitErr) (s : State) : Res := .next (s.issueNow q u t e 0x03 State.setp)

/-- HALT, ready when the thread's issued instructions are complete: the thread ends. -/
def State.halt (s : State) (x : Iss) : Option State :=
  match s.thread x.q x.u x.t with
  | some th => some ((s.setThread x.q x.u x.t { th with halted := true }).done x)
  | none => none

def execHalt (q u t : Nat) (e : UnitErr) (s : State) : Res := .next (s.issue q u t e 0x04 State.halt)

/-! ### SEM (09 R182, R183) -/

def execSset (q u t : Nat) (e : UnitErr) (s : State) : Res :=
  .next (s.issueNow q u t e 0x10 fun s x => s.setSem x.q (x.f 0 8) (x.f 8 16))

/-- SADD: a signed delta; below 0 the semaphore keeps its value and SEM_UNDER is raised, above 0xFFFF it becomes 0xFFFF
and SEM_OVF is raised. -/
def State.sadd (s : State) (x : Iss) : State :=
  let v := (s.sem x.q (x.f 0 8) : Int) + sext 16 (x.f 8 16)
  if v < 0 then s.fault x 0x0304
  else if 0xFFFF < v then (s.setSem x.q (x.f 0 8) 0xFFFF).fault x 0x0303
  else s.setSem x.q (x.f 0 8) v.toNat

def execSadd (q u t : Nat) (e : UnitErr) (s : State) : Res := .next (s.issueNow q u t e 0x11 State.sadd)

/-- SWAIT, ready when SEM ≥ VALUE (`classReady`): CONSUME subtracts VALUE. -/
def State.swait (s : State) (x : Iss) : Option State :=
  let v := s.sem x.q (x.f 0 8)
  some ((if x.f 24 1 = 1 then s.setSem x.q (x.f 0 8) (v - x.f 8 16) else s).done x)

def execSwait (q u t : Nat) (e : UnitErr) (s : State) : Res := .next (s.issue q u t e 0x12 State.swait)

/-- SIGR: a message with the sender's epoch, or "domain off" and SIGR_REFUSED. -/
def State.sigr (s : State) (x : Iss) : State :=
  let d := x.f 25 7
  if s.quadGone d then s.fault x 0x030B
  else
    let m : SigMsg := ⟨d, x.f 0 8, x.f 8 16, s.fld (.schQuad x.q) SCH_QUAD_EPOCH, x.src, false⟩
    { s with ctl := { s.ctl with sigs := s.ctl.sigs ++ [m] } }

def execSigr (q u t : Nat) (e : UnitErr) (s : State) : Res := .next (s.issueNow q u t e 0x13 State.sigr)

/-- A semaphore message reaches its quad (09 R183): the epochs must be equal, but for a message of a 2-series partner,
which any instance takes. A dropped one is counted and reported in the sender's log. -/
def State.deliverSig (s : State) (m : SigMsg) : State :=
  let s := s.askWake m.q
  let has := (s.quadInst m.q).isSome
  if has ∧ (m.peer2 ∨ s.fld (.schQuad m.q) SCH_QUAD_EPOCH = m.epoch) then s.addSem m.q m.sem m.n m.src
  else
    let log := if isQuadUnit m.src then s.quadLog (m.src / 16) else modLog
    (s.incFld (.schQuad m.q) SCH_QUAD_STALE 1).raise log m.src 0x0307 []

/-- SIGNAL_ARRIVAL of the `k`-th message under way. -/
def State.sigArrival (s : State) (k : Nat) : State :=
  match s.ctl.sigs[k]? with
  | none => s
  | some m => ({ s with ctl := { s.ctl with sigs := s.ctl.sigs.eraseIdx k } } : State).deliverSig m

def execSignalArrival (k : Nat) (s : State) : Res := .next (s.sigArrival k)

/-! ### FNC (09 R184) -/

/-- May a unit of quad `q` name the DRAM or scratchpad range? -/
def State.unitRange (s : State) (q a len : Nat) : Bool :=
  len = 0 || match s.quadPart q with
    | some p => s.ownsRange p a len
    | none => false

/-- FLUSH: memory is written as writes are accepted, so it has to wait for nothing here; its range is checked. -/
def State.flush (s : State) (x : Iss) : State :=
  if s.unitRange x.q (x.f 0 40) (x.f 40 32) then s.later x else s.fault x 0x0306

def execFlush (q u t : Nat) (e : UnitErr) (s : State) : Res := .next (s.issue q u t e 0x20 fun s x => some (s.flush x))

/-- FENCE with a range, which lies in the partition, discards the E-die's cached far lines there, with their sharer bits' notices (12 R279). -/
def State.fence (s : State) (x : Iss) : State :=
  let lo := x.f 0 40
  let hi := lo + x.f 40 32
  let keep (d line : Nat) : Bool := !(d = x.die && decide (lo < hi) && decide (256 * line < hi) && decide (lo < 256 * line + 256))
  if s.unitRange x.q lo (x.f 40 32) = false then s.fault x 0x0306
  else
    let gone := (s.net.lines.filter fun l => !keep l.die l.line).map FarLine.line
    let s := gone.foldl (fun (s : State) (l : Nat) => s.setSharers l (putBits (s.sharers l) x.die 1 0)) s
    ({ s with net := { s.net with lines := s.net.lines.filter fun l => keep l.die l.line } } : State).later x

def execFence (q u t : Nat) (e : UnitErr) (s : State) : Res := .next (s.issue q u t e 0x21 fun s x => some (s.fence x))

end Sys2Proof.Machine
end

