-- ==== Sys2Proof/Machine/Stream.lean ====
section
/-! DEFINITION. Streams as a quad's units see them (10 R216, R219, R220), the scratchpad accesses of units, and events
that end an instruction. -/

namespace Sys2Proof.Machine

/-- A stream port (09 R185) of a quad as a stream number 16n + s. -/
def portOf (q p : Nat) : Nat := 64 * q + p % 64

def State.stream (s : State) (n : Nat) : StreamSt := tgetD {} s.fry.streams n
def State.setStream (s : State) (n : Nat) (v : StreamSt) : State :=
  { s with fry := { s.fry with streams := tsetD {} s.fry.streams n v } }

/-- What a unit gets of a stream. -/
inductive Took where
  /-- The bytes, and the runs left. -/
  | got (bs : List Byte) (runs : List RunQ)
  /-- They are not all there yet. -/
  | dry
  /-- The stream ended before them: FRY_SHORT. -/
  | short
deriving DecidableEq, Repr

/-- Take `n` bytes across runs; a run that is exhausted stays in front until the next taking. -/
def takeRuns' (n : Nat) : List RunQ → Took
  | [] => if n = 0 then .got [] [] else .dry
  | r :: rs =>
    if n = 0 then .got [] (r :: rs)
    else if n ≤ r.left.length then .got (r.left.take n) ({ r with left := r.left.drop n, taken := true } :: rs)
    else if ¬ r.ended then .dry
    else if r.mark && !r.full then .short
    else match takeRuns' (n - r.left.length) rs with
      | .got bs rest => .got (r.left ++ bs) rest
      | .dry => .dry
      | .short => .short

/-- A run whose every byte is taken. -/
def RunQ.over (r : RunQ) : Bool := r.left = [] && r.ended

/-- Has the stream's thread executed HALT, with no FSTR running? -/
def State.streamHalted (s : State) (n : Nat) : Bool :=
  (s.stream n).job.isNone && match s.thread (n / 64) (8 + n / 16 % 4) (n % 16) with
    | some th => th.halted
    | none => false

/-- Take `n` bytes from a stream, from a run boundary on or in the middle of a run; a dry stream whose thread has halted
is short. -/
def State.takeStream (s : State) (p n : Nat) : Took :=
  match takeRuns' n ((s.stream p).runs.dropWhile RunQ.over) with
  | .dry => if s.streamHalted p then .short else .dry
  | r => r

/-- A repetition of an FSTR. -/
def Job.acc (j : Job) (id : Nat) : RunAcc := (j.accs.find? (·.id = id)).getD { id }
def Job.mapAcc (j : Job) (id : Nat) (f : RunAcc → RunAcc) : Job := { j with accs := mapIf (fun a => decide (a.id = id)) f j.accs }
/-- Is the last piece of the present repetition issued? -/
def Job.ended (j : Job) : Bool := (j.acc j.cur).ended

/-- Are bytes of the stream's present run still to be delivered? -/
def StreamSt.owes (st : StreamSt) : Bool :=
  match st.job with
  | some j => j.out ≠ [] || (leAt j.d 12 4 ≠ 0 && !j.ended)
  | none => false

/-- An instruction took bytes of the stream's present run and left others: FRY_LONG when it completes (10 Table 10-5). -/
def State.midRun (s : State) (p : Nat) : Bool :=
  match (s.stream p).runs with
  | r :: _ => r.taken && (r.left ≠ [] || (!r.ended && (s.stream p).owes))
  | [] => false

/-- A paired data stream's run is over and its scale stream's run holds bytes (10 R222). -/
def State.scaleLeft (s : State) (p : Nat) : Bool :=
  match (s.stream p).runs, (s.stream (p + 1)).runs with
  | r :: _, c :: _ => r.pair && r.over && c.left ≠ []
  | _, _ => false

/-- A scale run that ends before its data run, or holds bytes when its data run ends (06 R119, 10 R222): `n` data bytes are
needed, `zd` of which go with `zs` scale bytes. -/
def scaleClash (zd zs : Nat) : Nat → List RunQ → List RunQ → Bool
  | n, d :: ds, c :: cs =>
    let k := min n d.left.length
    let whole : Bool := d.ended && k = d.left.length
    n ≠ 0 && ((c.ended && decide (c.left.length * zd < k * zs)) || (whole && decide (k * zs < c.left.length * zd)) ||
      (whole && c.ended && scaleClash zd zs (n - k) ds cs))
  | _, _, _ => false

/-- The runs of a data stream and its scale stream from the first that is not over in both. -/
def alignRuns : List RunQ → List RunQ → List RunQ × List RunQ
  | d :: ds, c :: cs => if d.over && c.over then alignRuns ds cs else (d :: ds, c :: cs)
  | ds, cs => (ds, cs)

/-- The scale stream among an instruction's needs that its data stream does not match. -/
def State.badScale (s : State) (needs : List (Nat × Nat)) : Option Nat :=
  (needs.find? fun x => x.2 ≠ 0 && needs.any fun y => y.1 = x.1 + 1 && y.2 ≠ 0 && (
    let r := alignRuns (s.stream x.1).runs (s.stream y.1).runs
    scaleClash x.2 y.2 x.2 r.1 r.2)).map fun x => x.1 + 1

/-- FRY_SHORT, FRY_LONG, FRY_SCALE of a stream: the ferry is the source (10 Table 10-11). -/
def State.fryFault (s : State) (n code : Nat) : State :=
  (s.setFld (.fryStat (n / 16)) FRY_STAT_FAULT 1).quadFault (n / 64) (srcUnit (n / 64) (8 + n / 16 % 4)) code []

/-- Bytes that a unit writes to a stream: one producing instruction. -/
def State.putStream (s : State) (n : Nat) (bs : List Byte) : State :=
  let st := s.stream n
  s.setStream n { st with fromUnit := if bs = [] then st.fromUnit else st.fromUnit ++ [bs] }

/-- Why a unit or module agent cannot read a range that it may reach: lost data (FRY_MEMERR), a scratchpad bank that does not
serve (FRY_DOMAIN). -/
def State.unreadable (s : State) (a n : Nat) : Option Nat :=
  if s.lostIn a n then some 0x0405 else if !(s.touch a).2 || !(s.touch (a + n - 1)).2 then some 0x0406 else none

/-- The local address of a scratchpad offset of a quad's E-die. -/
def spadAt (q off : Nat) : Nat := spBase + (q / 4) * spSize + off

/-- An access of `n` bytes from offset `off` of E-die `d` reaches every bank it touches; does each serve it? -/
def State.touchBanks (s : State) (d off n : Nat) : State × Bool :=
  (List.range ((off + n - 1) / bankSize - off / bankSize + 1)).foldl (fun (r : State × Bool) (k : Nat) =>
    ((r.1.touchSpad d (bankSize * (off / bankSize + k))).1, r.2 && (r.1.touchSpad d (bankSize * (off / bankSize + k))).2)) (s, true)

/-- Read `n` bytes of the quad's own scratchpad: `none` is ADDR (outside the scratchpad or the partition) or "domain
off". -/
def State.spadRead (s : State) (q off n : Nat) : State × Option (List Byte) :=
  let a := spadAt q off
  if n = 0 then (s, some [])
  else if spSize < off + n ∨ ¬ s.unitRange q a n then (s, none)
  else
    let r := s.touchBanks (q / 4) off n
    if r.2 then (r.1, some (r.1.rd a n)) else (r.1, none)

/-- Write bytes into the quad's own scratchpad; `false` is ADDR or "domain off". -/
def State.spadWrite (s : State) (q off : Nat) (bs : List Byte) : State × Bool :=
  let r := s.spadRead q off bs.length
  match r.2 with
  | some _ => (r.1.wr (spadAt q off) bs, true)
  | none => (r.1, false)

/-- Several streams' needs at once: (port, bytes). All the bytes, with the runs left, or the first that fails. -/
def State.takeAll (s : State) : List (Nat × Nat) → Except (Option Nat) (List (Nat × List Byte × List RunQ))
  | [] => .ok []
  | (p, n) :: rest =>
    match s.takeStream p n with
    | .dry => .error none
    | .short => .error (some p)
    | .got bs runs => match s.takeAll rest with
      | .ok l => .ok ((p, bs, runs) :: l)
      | .error e => .error e

/-- The streams after all takings. -/
def State.leaveAll (s : State) (l : List (Nat × List Byte × List RunQ)) : State :=
  l.foldl (fun (s : State) (x : Nat × List Byte × List RunQ) =>
    if x.2.1 = [] then s else s.setStream x.1 { s.stream x.1 with runs := x.2.2 }) s

/-- An instruction takes what it needs of its streams, (port, bytes) each: `none` while one is dry; a short one is FRY_SHORT,
and a scale stream that ends before its data stream or runs past it FRY_SCALE. `f` gets the bytes, stream by stream. -/
def State.consume (s : State) (needs : List (Nat × Nat)) (f : State → List (List Byte) → State) : Option State :=
  match s.badScale needs with
  | some p => some (s.fryFault p 0x0404)
  | none =>
    match s.takeAll needs with
    | .error none => none
    | .error (some p) => some (s.fryFault p 0x0402)
    | .ok l => some (f (s.leaveAll l) (l.map (·.2.1)))

/-- The instruction ends: a run left in its midst is FRY_LONG, scales left over FRY_SCALE. -/
def State.wholeRuns (s : State) (ports : List Nat) (f : State → State) : State :=
  match ports.find? s.scaleLeft, ports.find? s.midRun with
  | some p, _ => s.fryFault (p + 1) 0x0404
  | none, some p => s.fryFault p 0x0403
  | none, none => f s

end Sys2Proof.Machine
end

