-- ==== Sys2Proof/Machine/Matrix.lean ====
section
/-! DEFINITION. Matrix engines and the output path (07): MMA, MMAX, the drain-class instructions, epilogues, engine
faults and the spare engine. An instruction has its effect when it issues, once its operands have arrived; its signal
comes with INSTRUCTION_COMPLETE. -/

namespace Sys2Proof.Machine

/-! ### Accumulators (07 R140) -/

/-- The number of a granule over all sets of all engines. -/
def granId (q e set g : Nat) : Nat := 256 * (2 * (4 * q + e) + set) + g

/-- A tile: its first granule, format, rows. -/
structure Tile where
  g0 : Nat
  fp32 : Bool
  m : Nat
deriving DecidableEq, Repr

def Tile.grans (t : Tile) : List Nat := rangeFrom t.g0 (tileGrans t.fp32 t.m)
/-- The key of element (i, j). -/
def Tile.key (t : Tile) (i j : Nat) : Nat := 4096 * (t.g0 + i / granRows t.fp32) + i % granRows t.fp32 * 128 + j

/-- Is a tile's place allowed (07 Table 7-4a, last row)? -/
def tileOk (e set berth : Nat) (fp32 : Bool) (m : Nat) : Bool :=
  (set = 0 || e = 0) && berth % tileGrans fp32 m = 0 && decide (berth + tileGrans fp32 m ≤ 256)

def State.acc (s : State) (k : Nat) : Nat := tgetD 0 s.eng.acc k
def State.setAcc (s : State) (k v : Nat) : State := { s with eng := { s.eng with acc := tsetD 0 s.eng.acc k v } }
/-- Write several accumulator values. -/
def State.setAccs (s : State) (l : List (Nat × Nat)) : State :=
  { s with eng := { s.eng with acc := l.foldl (fun t e => tsetD 0 t e.1 e.2) s.eng.acc } }
def fmtCode (fp32 : Bool) : Nat := if fp32 then 2 else 1
/-- The recorded format of no granule of a tile disagrees with its own (09 R186); a granule that no MMA, MMAX or RELOAD
wrote has no record. -/
def State.fmtAgrees (s : State) (t : Tile) : Bool :=
  t.grans.all fun g => tgetD 0 s.eng.accFmt g = 0 || tgetD 0 s.eng.accFmt g = fmtCode t.fp32
def State.recordFmt (s : State) (gs : List Nat) (fp32 : Bool) : State :=
  { s with eng := { s.eng with accFmt := gs.foldl (fun t g => tsetD 0 t g (fmtCode fp32)) s.eng.accFmt } }
def State.markSpilled (s : State) (gs : List Nat) : State :=
  { s with eng := { s.eng with spilled := s.eng.spilled ++ gs.filter fun g => !s.eng.spilled.contains g } }
def State.unspill (s : State) (gs : List Nat) : State :=
  { s with eng := { s.eng with spilled := s.eng.spilled.filter fun g => !gs.contains g } }

/-! ### Engine faults (07 R151) -/

/-- Every instance of the partition that owns the quad aborts. -/
def State.abortPart (s : State) (q cause : Nat) : State :=
  match s.quadPart q with
  | none => s
  | some p => s.ctl.insts.foldl (fun (s : State) (e : Nat × Option Inst) => match e.2 with
    | some i => if i.part = p then s.startAbort e.1 cause else s
    | none => s) s

/-- ME_RESIDUE or ME_ACC_UE: the partition's work is aborted. The second within 24 hours, or a UE in a tile spilled since
its last overwrite, fails the engine: it is fenced until the die's spare takes its position, and its quad's schedules are
loaded again with the abort, or its quad is retired (07 R152, Table 7-10). -/
def State.meFault (s : State) (q e code : Nat) (spilled : Bool) : State :=
  let k := 4 * q + e
  let again := withinDay s.eng.meErr k s.svcTime
  let s : State := { s with eng := { s.eng with meErr := tins k s.svcTime s.eng.meErr } }
  let s := ((s.setFld (.meStat k) ME_STAT_FAULT 1).raise (s.quadLog q) (srcUnit q e) code []).abortPart q code
  if again ∨ (code = 0x0103 ∧ spilled) then
    if s.flag (.meSpare (q / 4)) ME_SPARE_AVAIL then
      if s.eng.meFailed.any (·.1 = k) then s
      else
        let s : State := { s with eng := { s.eng with meFailed := s.eng.meFailed ++ [(k, code)] }, ctl := { s.ctl with reload := s.ctl.reload ++ [q] } }
        match s.quadPart q with
        | some p => s.affect p code
        | none => s
    else s.dueRetire q code
  else s

/-- A matrix instruction that touches `t` meets an error: a corrected one is counted and the instruction runs. -/
def State.meErrAt (s : State) (x : Iss) (e : UnitErr) (t : Tile) (run : State → Option State) : Option State :=
  match e with
  | .parity => some (s.meFault x.q x.u 0x0101 false)
  | .accUe => some (s.meFault x.q x.u 0x0103 (t.grans.any s.eng.spilled.contains))
  | .accCe => run ((s.setFld (.meStat (4 * x.q + x.u)) ME_STAT_ACCCE 1).raise (s.quadLog x.q) x.src 0x0102 [])
  | _ => run s

/-! ### Operands (06 R116-R119, R124; 07 R137) -/

/-- Slab lengths of a reduction. -/
def slabLens (k : Nat) : List Nat := List.replicate (k / 128) 128 ++ (if k % 128 = 0 then [] else [k % 128])

/-- An operand's form: format, scale format. -/
structure OpForm where
  f : Fm
  scl : Nat
deriving DecidableEq, Repr

/-- May the format carry the scale: 16-bit formats none, E4M3 only FP4 and FP6 (06 R117)? -/
def OpForm.ok (x : OpForm) : Bool :=
  x.scl = 0 || (x.f.width ≠ 16 && (x.scl = 1 || x.f.width = 6 || x.f = .e2m1))

/-- Rows of elements: `rows` rows of `len` elements, each from a byte boundary. -/
def opRows (f : Fm) (rows len : Nat) (bs : List Byte) : List (List FV) :=
  (List.range rows).map fun i => (f.elems (bs.drop (i * f.bytes len)) len).map f.val

/-- Scale values: `rows` rows of `nb` blocks, with the clamps counted. -/
def opScales (scl rows nb : Nat) (bs : List Byte) : List (List FV) × Cnt :=
  let raw := (List.range rows).map fun i => (List.range nb).map fun b => scaleVal scl (leAt bs (i * nb + b) 1)
  (raw.map (·.map (·.1)), raw.foldl (fun a r => r.foldl (fun a x => a.add x.2) a) {})

def getFV (l : List (List FV)) (i j : Nat) : FV := (l.getD i []).getD j FV.zero
/-- An element times its block's scale. -/
def scaled (scl : Nat) (v sc : FV) : FV := if scl = 0 then v else v.mul sc

/-- Bytes of a slab of A (M rows of `len`), its scales, a slab of B (`len` rows of N), and its scales. -/
def slabBytes (a b : OpForm) (m n len : Nat) : Nat × Nat × Nat × Nat :=
  (m * a.f.bytes len, if a.scl = 0 then 0 else m * (len / 32), len * b.f.bytes n, if b.scl = 0 then 0 else n * (len / 32))

/-- The products of one slab: for A row `i` and column `j`, in ascending k; with clamps counted. -/
structure Slab where
  a : List (List FV)
  asc : List (List FV)
  b : List (List FV)
  bsc : List (List FV)
  len : Nat

def Slab.products (x : Slab) (fa fb : OpForm) (i j : Nat) : List FV :=
  (List.range x.len).map fun k =>
    (scaled fa.scl (getFV x.a i k) (getFV x.asc i (k / 32))).mul (scaled fb.scl (getFV x.b k j) (getFV x.bsc j (k / 32)))

/-- A slab from its four runs of bytes, with the clamps of A's scales and of B's. B's scales lie column by column, `len` / 32
for each (DESIGN CHOICE, log entry 91). -/
def mkSlab (a b : OpForm) (m n len : Nat) (ab as_ bb bs_ : List Byte) : Slab × Cnt × Cnt :=
  let sa := opScales a.scl (if a.scl = 0 then 0 else m) (len / 32) as_
  let sb := opScales b.scl (if b.scl = 0 then 0 else n) (len / 32) bs_
  (⟨opRows a.f m len ab, sa.1, opRows b.f len n bb, sb.1, len⟩, sa.2, sb.2)

/-- All slabs of the four streams, in ascending k. -/
def cutSlabs (a b : OpForm) (m n : Nat) : List Nat → List Byte → List Byte → List Byte → List Byte → List (Slab × Cnt × Cnt)
  | [], _, _, _, _ => []
  | len :: rest, ab, as_, bb, bs_ =>
    let z := slabBytes a b m n len
    mkSlab a b m n len (ab.take z.1) (as_.take z.2.1) (bb.take z.2.2.1) (bs_.take z.2.2.2) ::
      cutSlabs a b m n rest (ab.drop z.1) (as_.drop z.2.1) (bb.drop z.2.2.1) (bs_.drop z.2.2.2)

/-- Cut a list into runs of `n`. -/
def chunksOf {α : Type} (n : Nat) : Nat → List α → List (List α)
  | 0, _ => []
  | _, [] => []
  | k + 1, l => l.take n :: chunksOf n k (l.drop n)

/-- The total of a run of products: exact, or in runs of `chunk` (06 R124). -/
def runTotal (chunk : Option Nat) (ps : List FV) : WV :=
  match chunk with
  | none => ps.foldl (fun a p => a.add (WV.ofFV p)) (.fin 0)
  | some c => (chunksOf c ps.length ps).foldl (fun a r => a.add (chunkRun r)) (.fin 0)

/-- The sum of `old` and products, as W128 codes. -/
def addW (chunk : Option Nat) (old : WV) (ps : List FV) : WV :=
  match chunk with
  | none => ps.foldl (fun a p => a.add (WV.ofFV p)) old
  | some c => (chunksOf c ps.length ps).foldl (fun a r => a.add (chunkRun r)) old

/-- One element of an MMA: slab products in order onto the berth's code. With FP32 each slab's total is rounded and
added in binary32 (07 R141); with `ovw` the first slab replaces. -/
def mmaElem (fp32 ovw : Bool) (chunk : Option Nat) (old : Nat) (slabs : List (List FV)) : Nat :=
  if fp32 then
    let r := slabs.map fun ps => Fm.fp32.ieee (runTotal chunk ps).val
    match ovw, r with
    | true, x :: xs => xs.foldl (fun a b => Fm.fp32.fadd a b) x
    | _, xs => xs.foldl (fun a b => Fm.fp32.fadd a b) old
  else
    (addW chunk (if ovw then .fin 0 else wOf (BitVec.ofNat 128 old)) (slabs.flatMap id)).code.toNat

/-- The formats of A and B, when the pair is allowed (07 R138, 06 R117, 09 R185): neither FP32, both 16-bit or neither, scales as their formats
allow, a scaled operand on an even stream. -/
def pairForms (o : Nat) : Option (OpForm × OpForm) :=
  match fmOf (bits o 0 4), fmOf (bits o 4 4) with
  | some fa, some fb =>
    let a : OpForm := ⟨fa, bits o 8 2⟩
    let b : OpForm := ⟨fb, bits o 10 2⟩
    if fa.width ≠ 32 && fb.width ≠ 32 && (fa.width = 16) == (fb.width = 16) && a.ok && b.ok && (a.scl = 0 || bits o 12 1 = 0) && (b.scl = 0 || bits o 18 1 = 0)
    then some (a, b) else none
  | _, _ => none

/-- CHUNK, on the chunked path only. -/
def chunkOf (a : OpForm) (code : Nat) : Option Nat := if a.f.width = 16 then some (32 * 2 ^ code) else none

/-- The ports of which an instruction takes bytes. -/
def usedPorts (needs : List (Nat × Nat)) : List Nat := (needs.filter (·.2 ≠ 0)).map (·.1)

/-- MMA (07 R137, R141, R142). -/
def State.mma (s : State) (x : Iss) (e : UnitErr) : Option State :=
  let m := x.f 24 7 + 1
  let n := x.f 31 7 + 1
  let k := 32 * (x.f 38 11 + 1)
  let set := x.f 49 1
  let berth := x.f 50 8
  let ovw := x.f 58 1 = 1
  let fp32 : Bool := x.f 59 1 = 1
  match pairForms x.o with
  | none => some (s.fault x 0x0104)
  | some (a, b) =>
    let chunk := chunkOf a (x.f 60 2)
    if fp32 ∧ chunk = some 256 then some (s.fault x 0x0104)
    else if tileOk x.u set berth fp32 m = false then some (s.fault x 0x0105)
    else
      let t : Tile := ⟨granId x.q x.u set berth, fp32, m⟩
      let lens := slabLens k
      let z := lens.foldl (fun (r : Nat × Nat × Nat × Nat) len =>
        let y := slabBytes a b m n len
        (r.1 + y.1, r.2.1 + y.2.1, r.2.2.1 + y.2.2.1, r.2.2.2 + y.2.2.2)) (0, 0, 0, 0)
      let pa := portOf x.q (x.f 12 6)
      let pb := portOf x.q (x.f 18 6)
      s.meErrAt x e t fun s => s.consume [(pa, z.1), (pa + 1, z.2.1), (pb, z.2.2.1), (pb + 1, z.2.2.2)] fun s l =>
        let slabs := cutSlabs a b m n lens (l.getD 0 []) (l.getD 1 []) (l.getD 2 []) (l.getD 3 [])
        let new := (List.range m).flatMap fun i => (List.range n).map fun j =>
          (t.key i j, mmaElem fp32 ovw chunk (s.acc (t.key i j)) (slabs.map fun y => y.1.products a b i j))
        let s := (s.setAccs new).recordFmt t.grans fp32
        let s := if ovw then s.unspill t.grans else s
        (s.count x.q (s.quadLog x.q) x.src (slabs.foldl (fun c y => (c.add y.2.1).add y.2.2) {})).wholeRuns
          (usedPorts [(pa, z.1), (pa + 1, z.2.1), (pb, z.2.2.1), (pb + 1, z.2.2.2)]) fun s => s.later x

def execMma (q u t : Nat) (e : UnitErr) (s : State) : Res := .next (s.issue q u t e 0x30 fun s x => s.mma x e)

/-- One step of MMAX: an entry and its slab (07 R146); `false`: ME_INDEX. -/
def State.mmaxStep (s : State) (x : Iss) (a b : OpForm) (chunk : Option Nat) (fp32 : Bool) (m n set : Nat) (y : Slab) (entry : Nat) :
    State × Bool :=
  let arow := bits entry 0 7
  let row := bits entry 15 5
  if m ≤ arow ∨ granRows fp32 ≤ row ∨ bits entry 21 11 ≠ 0 then (s, false)
  else
    let g := granId x.q x.u set (bits entry 7 8)
    let t : Tile := ⟨g, fp32, row + 1⟩
    let ovw : Bool := bitAt entry 20
    let new := (List.range n).map fun j => (t.key row j, mmaElem fp32 ovw chunk (s.acc (t.key row j)) [y.products a b arow j])
    let s := (s.setAccs new).recordFmt [g] fp32
    (if ovw then s.unspill [g] else s, true)

/-- The streams of MMAX: A, its scales, B, its scales, the index; with the bytes of A and of one step. -/
def mmaxNeeds (x : Iss) (a b : OpForm) (m n ks : Nat) : List (Nat × Nat) :=
  let z := slabBytes a b m n ks
  let pa := portOf x.q (x.f 12 6)
  let pb := portOf x.q (x.f 18 6)
  [(pa, z.1), (pa + 1, z.2.1), (pb, z.2.2.1), (pb + 1, z.2.2.2), (portOf x.q (x.f 60 6), 4)]

/-- The steps of MMAX that are left, each as its slab and entry arrive; the first of them meets the error `e`, if there is one.
An instruction that runs dry keeps A and the steps taken. -/
def State.mmaxSteps (a b : OpForm) (chunk : Option Nat) (fp32 : Bool) (m n ks set : Nat) : Nat → State → Iss → UnitErr → State
  | 0, s, x, _ => s.wholeRuns (usedPorts (mmaxNeeds x a b m n ks)) fun s => s.later x
  | r + 1, s, x, e =>
    (s.consume ((mmaxNeeds x a b m n ks).drop 2) fun s l =>
      let y := mkSlab a b m n ks (x.got.getD 0 []) (x.got.getD 1 []) (l.getD 0 []) (l.getD 1 [])
      let entry := leAt (l.getD 2 []) 0 4
      let s := s.count x.q (s.quadLog x.q) x.src y.2.2
      (s.meErrAt x e ⟨granId x.q x.u set (bits entry 7 8), fp32, 1⟩ fun s =>
        let w := s.mmaxStep x a b chunk fp32 m n set y.1 entry
        some (if w.2 then State.mmaxSteps a b chunk fp32 m n ks set r w.1 { x with k := x.k + 1 } .good else w.1.fault x 0x0106)).getD s).getD
      (s.stay x)

/-- MMAX (07 R146, 09 R187): A arrives once, with its scales. -/
def State.mmax (s : State) (x : Iss) (e : UnitErr) : Option State :=
  let m := x.f 24 7 + 1
  let n := x.f 31 7 + 1
  let ks := 32 * (x.f 38 2 + 1)
  let steps := x.f 40 16 + 1
  let set := x.f 56 1
  let fp32 : Bool := x.f 57 1 = 1
  match pairForms x.o with
  | none => some (s.fault x 0x0104)
  | some (a, b) =>
    let chunk := chunkOf a (x.f 58 2)
    if fp32 ∧ chunk = some 256 then some (s.fault x 0x0104)
    else if set = 1 ∧ x.u ≠ 0 then some (s.fault x 0x0105)
    else if x.got ≠ [] then some (State.mmaxSteps a b chunk fp32 m n ks set (steps - x.k) s x e)
    else s.consume ((mmaxNeeds x a b m n ks).take 2) fun s l =>
      State.mmaxSteps a b chunk fp32 m n ks set steps
        (s.count x.q (s.quadLog x.q) x.src (mkSlab a b m n ks (l.getD 0 []) (l.getD 1 []) [] []).2.1) { x with got := l } e

def execMmax (q u t : Nat) (e : UnitErr) (s : State) : Res := .next (s.issue q u t e 0x31 fun s x => s.mmax x e)

/-! ### Epilogues (07 R147-R149) -/

/-- FP32 constants and operations of R148, in the order written. -/
def f32one : Nat := 0x3F800000
def actFn (act alpha lo hi : Nat) (t : Nat) : Nat :=
  let d := Fm.fp64
  let f := Fm.fp32
  let v := d.val t
  let u := f.ieee v
  let wide (y : Nat) : Nat := d.ieee (f.val y)
  let negU := f.ieee (f.val u).negate
  match act with
  | 0 => t
  | 1 => if v.isNan then t else if FV.zero.lt v then t else 0
  | 2 => if v.isNan then t else if FV.zero.le v then t else d.fmul (wide alpha) t
  | 3 =>
    if v.isNan then t
    else
      let y := if v.lt (f.val lo) then wide lo else t
      if (f.val hi).lt (d.val y) then wide hi else y
  | 4 =>
    let u3 := f.fmul (f.fmul u u) u
    let z := f.fmul 0x3F4C422A (f.fadd u (f.fmul 0x3D372713 u3))
    wide (f.fmul (f.fmul 0x3F000000 u) (f.fadd f32one (vpTanh z)))
  | 5 => wide (f.fdiv f32one (f.fadd f32one (vpExp negU)))
  | 6 => wide (vpTanh u)
  | _ => wide (f.fdiv u (f.fadd f32one (vpExp negU)))

/-- The parameter block of LARGE (07 Table 7-6), or `none` for ME_PARAM. -/
def paramOk (p : List Byte) : Bool :=
  decide (leAt p 0 1 < 8) && decide (leAt p 1 1 < 8) && zeroRange p 2 4 && zeroRange p 24 64 &&
    (Fm.fp32.val (leAt p 8 4)).le (Fm.fp32.val (leAt p 12 4))

/-- The FP64 value of LARGE for element (i, j). -/
def largeVal (p : List Byte) (x64 i j : Nat) : Nat :=
  let d := Fm.fp64
  let mode := leAt p 1 1
  let wide (y : Nat) : Nat := d.ieee (Fm.fp32.val y)
  let row := if bitAt mode 1 then wide (leAt p (1088 + 4 * i) 4) else wide f32one
  let col := if bitAt mode 0 then wide (leAt p (64 + 4 * j) 4) else wide f32one
  let bias := if bitAt mode 2 then wide (leAt p (576 + 4 * j) 4) else 0
  actFn (leAt p 0 1) (leAt p 4 4) (leAt p 8 4) (leAt p 12 4) (d.fma x64 (d.fmul row col) bias)

/-- The row-statistics record (07 Table 7-5). -/
def rowStat (ws : List WV) : List Byte :=
  let sum := ws.foldl WV.add (.fin 0)
  let best := (ws.zip (List.range ws.length)).foldl (fun (b : Option (WV × Nat)) x =>
    match b with
    | none => some x
    | some y =>
      if y.1.val.isNan then some y
      else if x.1.val.isNan ∨ y.1.val.lt x.1.val then some x else some y) none
  let b := best.getD (.fin 0, 0)
  leBytes 16 sum.code.toNat ++ leBytes 4 (Fm.fp32.conv .rne false b.1.val).1 ++ leBytes 2 b.2 ++ leBytes 10 0

/-- A row converted: element codes, scale bytes, counts, and for each element its converted value. A zero is +0 whether the
berth is W128 or FP32 (DESIGN CHOICE, log entry 91). -/
def convRow (f : Fm) (bscale : Bool) (mode : Nat → RMode) (vs : List FV) : List Nat × List Nat × Cnt × List FV :=
  if ¬ bscale then
    let r := (vs.zip (List.range vs.length)).map fun v => f.conv (mode v.2) false v.1
    (r.map (·.1), [], r.foldl (fun c y => c.add y.2) {}, r.map fun y => f.val y.1)
  else
    let blocks := (List.range (ceilDiv vs.length 32)).map fun b => blockScale f ((vs.drop (32 * b)).take 32)
    let sc (j : Nat) : Int := ((blocks.getD (j / 32) (0, {}))).1
    let r := (vs.zip (List.range vs.length)).map fun v => (f.conv (mode v.2) false (v.1.scale2 (-(sc v.2))), v.2)
    (r.map (·.1.1), blocks.map fun b => (b.1 + 127).toNat, blocks.foldl (fun c b => c.add b.2) (r.foldl (fun c y => c.add y.1.2) {}),
      r.map fun y => (f.val y.1.1).scale2 (sc y.2))

/-- One column's error record: the drain's own, in ascending row order, added to the old one (06 R135). -/
def errRecord (old : List Byte) (acc : Bool) (pairs : List (FV × FV)) : List Byte :=
  let r := pairs.foldl (fun r p => errAdd r p.1 p.2) (0, 0, 0)
  let r := if acc then (Fm.fp64.fadd (leAt old 0 8) r.1, leAt old 8 4 + r.2.1, leAt old 12 2 + r.2.2) else r
  leBytes 8 r.1 ++ leBytes 4 r.2.1 ++ leBytes 2 r.2.2 ++ leBytes 2 0

/-- The values of a tile's rows as they leave the accumulators. -/
def State.tileRows (s : State) (t : Tile) (n : Nat) : List (List Nat) :=
  (List.range t.m).map fun i => (List.range n).map fun j => s.acc (t.key i j)

/-- What a DRAIN makes of a tile: the converted data, the records of its second port, the error records and the counts. -/
structure Drained where
  data : List Byte
  recs : List Byte
  errs : List Byte
  cnt : Cnt

/-- The conversion of a tile of `m` rows by `n` columns (07 R145-R149): `p` is the parameter block, `old` the error
records that stand in the window, `seed` the seed of stochastic rounding. -/
def drainTile (x : Iss) (f : Fm) (p old : List Byte) (seed : Nat) (rows : List (List Nat)) : Drained :=
  let m := x.f 9 7 + 1
  let n := x.f 16 7 + 1
  let fp32 : Bool := x.f 23 1 = 1
  let epi := x.f 24 2
  let val (c : Nat) : FV := if fp32 then Fm.fp32.val c else (wOf (BitVec.ofNat 128 c)).val
  let ys := (rows.zip (List.range m)).map fun r => (r.1.zip (List.range n)).map fun c =>
    if epi = 2 then Fm.fp64.val (largeVal p (Fm.fp64.ieee (val c.1)) r.2 c.2) else val c.1
  let conv := (ys.zip (List.range m)).map fun r =>
    convRow f (x.f 32 1 = 1) (fun j => if x.f 30 2 = 0 then .rne else .sr (srVal seed r.2 j)) r.1
  { data := conv.flatMap fun r => bytesAt (f.pack r.1) 0 (f.bytes n)
    recs := if epi = 1 then rows.flatMap fun r => rowStat (r.map fun c => wOf (BitVec.ofNat 128 c))
      else conv.flatMap fun r => r.2.1.flatMap (leBytes 1)
    errs := (List.range 128).flatMap fun j => errRecord (bytesAt old (16 * j) 16) (x.f 33 2 = 2)
      (if j < n then (List.range m).map fun i =>
        (Fm.fp64.val (Fm.fp64.ieee (getFV ys i j)), ((conv.getD i ([], [], {}, [])).2.2.2).getD j FV.zero) else [])
    cnt := conv.foldl (fun c r => c.add r.2.2.1) {} }

/-- The effect of a DRAIN: the counts, the error records, the two streams. -/
def State.putDrained (s : State) (x : Iss) (d : Drained) : State :=
  let s := s.count x.q (s.quadLog x.q) x.src d.cnt
  let s := if x.f 33 2 = 0 then s else s.wr (spadAt x.q (4096 * x.f 38 14 + 2048)) d.errs
  let out := portOf x.q (16 * x.u + 2 * x.f 35 3)
  ((s.putStream out d.data).putStream (out + 1) d.recs).later x

/-- The seed of stochastic rounding of a DRAIN: of the parameter block, or of the thread's context (07 R149). -/
def State.drainSeed (s : State) (x : Iss) (p : List Byte) : Nat :=
  let ctx := 16 * x.q + 4 * x.u + x.t
  if x.f 30 2 = 2 then leAt p 16 8
  else srSeed (s.fld (.meSrctx8 ctx) ME_SRCTX8_MODEL) 0x1000 (s.fld (.meSrctx0 ctx) ME_SRCTX0_STEP) (x.f 52 40)

/-- DRAIN of tile `t` in format `f`, once its checks hold. -/
def State.drainRun (s : State) (x : Iss) (f : Fm) (t : Tile) : Option State :=
  let win := 4096 * x.f 38 14
  let rp := if x.f 24 2 = 2 ∨ x.f 30 2 = 2 then s.spadRead x.q win 1600 else (s, some [])
  let rm := if x.f 33 2 = 0 then (rp.1, some []) else rp.1.spadRead x.q (win + 2048) 2048
  match rp.2, rm.2 with
  | some p, some old =>
    if (x.f 24 2 = 2 ∨ x.f 30 2 = 2) ∧ paramOk p = false then some (rm.1.fault x 0x0107)
    else some (rm.1.putDrained x (drainTile x f p old (rm.1.drainSeed x p) (rm.1.tileRows t (x.f 16 7 + 1))))
  | _, _ => some (rm.1.fault x 0x0306)

/-- DRAIN (07 R145-R149, 09 R188). -/
def State.drain (s : State) (x : Iss) (e : UnitErr) : Option State :=
  let set := x.f 0 1
  let berth := x.f 1 8
  let m := x.f 9 7 + 1
  let fp32 : Bool := x.f 23 1 = 1
  let rmode := x.f 30 2
  match fmOf (x.f 26 4) with
  | none => some (s.fault x 0x0301)
  | some f =>
    let t : Tile := ⟨granId x.q x.u set berth, fp32, m⟩
    if tileOk x.u set berth fp32 m = false then some (s.fault x 0x0105)
    else if ¬ s.fmtAgrees t ∨ (x.f 32 1 = 1 ∧ (f.width = 16 ∨ f.width = 32)) ∨
        (x.f 24 2 = 1 ∧ (fp32 ∨ ¬ (f = .fp32 ∨ f = .bf16) ∨ rmode ≠ 0)) then some (s.fault x 0x0104)
    else if rmode = 1 ∧ ¬ s.flag (.meSrctx8 (16 * x.q + 4 * x.u + x.t)) ME_SRCTX8_VALID then some (s.fault x 0x0107)
    else s.meErrAt x (if e = .parity then .good else e) t fun s => s.drainRun x f t

def execDrain (q u t : Nat) (e : UnitErr) (s : State) : Res := .next (s.issue q u t e 0x32 fun s x => s.drain x e)

/-! ### SPILL, RELOAD, XFER, SRCTX (07 R125, R145; 09 R189-R191) -/

/-- The tile of SPILL and RELOAD. -/
def spillTile (x : Iss) : Tile := ⟨granId x.q x.u (x.f 0 1) (x.f 1 8), x.f 16 1 = 1, x.f 9 7 + 1⟩
def spillOk (x : Iss) : Bool := tileOk x.u (x.f 0 1) (x.f 1 8) (x.f 16 1 = 1) (x.f 9 7 + 1)

def State.spill (s : State) (x : Iss) (e : UnitErr) : Option State :=
  let t := spillTile x
  if spillOk x = false then some (s.fault x 0x0105)
  else if ¬ s.fmtAgrees t then some (s.fault x 0x0104)
  else s.meErrAt x (if e = .parity then .good else e) t fun s =>
    let w := if t.fp32 then 4 else 16
    let r := s.spadWrite x.q (512 * x.f 17 17) ((s.tileRows t 128).flatMap fun r => r.flatMap (leBytes w))
    if r.2 then some ((r.1.markSpilled t.grans).later x) else some (r.1.fault x 0x0306)

def execSpill (q u t : Nat) (e : UnitErr) (s : State) : Res := .next (s.issue q u t e 0x33 fun s x => s.spill x e)

/-- RELOAD. It is of the drain class too (07), so its ACC has to agree with the granules' record (DEDUCED, log entry 92). -/
def State.reload (s : State) (x : Iss) : Option State :=
  let t := spillTile x
  if spillOk x = false then some (s.fault x 0x0105)
  else if ¬ s.fmtAgrees t then some (s.fault x 0x0104)
  else
    let w := if t.fp32 then 4 else 16
    let r := s.spadRead x.q (512 * x.f 17 17) (128 * w * t.m)
    match r.2 with
    | none => some (r.1.fault x 0x0306)
    | some bs =>
      let new := (List.range t.m).flatMap fun i => (List.range 128).map fun j => (t.key i j, leAt bs (w * (128 * i + j)) w)
      some (((r.1.setAccs new).recordFmt t.grans t.fp32).later x)

def execReload (q u t : Nat) (e : UnitErr) (s : State) : Res := .next (s.issue q u t e 0x34 fun s x => s.reload x)

/-- XFER: a W128 tile to an input queue of the quad's VP, row by row. -/
def State.xfer (s : State) (x : Iss) (e : UnitErr) : Option State :=
  let m := x.f 9 7 + 1
  let n := x.f 16 7 + 1
  let t : Tile := ⟨granId x.q x.u (x.f 0 1) (x.f 1 8), false, m⟩
  if tileOk x.u (x.f 0 1) (x.f 1 8) false m = false then some (s.fault x 0x0105)
  else if ¬ s.fmtAgrees t then some (s.fault x 0x0104)
  else s.meErrAt x (if e = .parity then .good else e) t fun s =>
    let k := 8 * x.q + x.f 24 3
    let bs := (s.tileRows t n).flatMap fun r => r.flatMap (leBytes 16)
    some (({ s with eng := { s.eng with vq := tsetD [] s.eng.vq k (tgetD [] s.eng.vq k ++ bs) } } : State).later x)

def execXfer (q u t : Nat) (e : UnitErr) (s : State) : Res := .next (s.issue q u t e 0x35 fun s x => s.xfer x e)

def State.srctx (s : State) (x : Iss) : State :=
  let k := 16 * x.q + 4 * x.u + x.t
  if x.f 70 1 = 1 then s.setFld (.meSrctx8 k) ME_SRCTX8_VALID 0
  else ((s.setFld (.meSrctx0 k) ME_SRCTX0_STEP (x.f 0 64)).setFld (.meSrctx8 k) ME_SRCTX8_MODEL (x.f 64 6)).setFld (.meSrctx8 k) ME_SRCTX8_VALID 1

def execSrctx (q u t : Nat) (e : UnitErr) (s : State) : Res := .next (s.issueNow q u t e 0x36 State.srctx)

/-! ### The spare engine (07 R152) -/

/-- Accumulators and records of an engine's sets wiped. -/
def State.wipeEngine (s : State) (k : Nat) : State :=
  let mine (g : Nat) : Bool := g / 512 = k
  { s with eng := { s.eng with
      acc := tclear (fun a => mine (a / 4096)) s.eng.acc, accFmt := tclear mine s.eng.accFmt, spilled := s.eng.spilled.filter fun g => !mine g } }

/-- SPARE_SUBSTITUTION on E-die `d`: its spare takes the position of a failed engine. The record carries the failed
engine's source number and the die of the spare. -/
def State.substitute (s : State) (d : Nat) : State :=
  match s.eng.meFailed.find? fun f => f.1 / 16 = d with
  | none => s
  | some f =>
    let k := f.1
    let s : State := { s with eng := { s.eng with meFailed := s.eng.meFailed.filter (·.1 ≠ k), meErr := s.eng.meErr.filter (·.1 ≠ k) } }
    let r := Reg.meSpare d
    if s.flag r ME_SPARE_AVAIL then
      let s := (((s.setFld r ME_SPARE_AVAIL 0).setFld r ME_SPARE_INUSE 1).setFld r ME_SPARE_QUAD (k / 4 % 4)).setFld r ME_SPARE_ENGINE (k % 4)
      let s := ((s.wipeEngine k).setFld (.meStat k) ME_STAT_SUBST 1).setFld .fltHealth FLT_HEALTH_SPUSED (s.fld .fltHealth FLT_HEALTH_SPUSED + 1)
      s.raise (s.quadLog (k / 4)) (srcUnit (k / 4) (k % 4)) 0x0108 (leBytes 2 (srcUnit (k / 4) (k % 4)) ++ leBytes 2 d)
    else s.dueRetire (k / 4) f.2

def execSpareSubstitution (d : Nat) (s : State) : Res := .next (s.substitute d)

/-- SPARE_SELF_TEST: at boot, every 60 s and on TESTGO, while the spare serves no position. -/
def State.selfTest (s : State) (d : Nat) (pass : Bool) : State :=
  let r := Reg.meSpare d
  if 20 ≤ d ∨ s.flag r ME_SPARE_INUSE then s
  else
    let s := s.setFld r ME_SPARE_TESTGO 0
    if pass then s.setFld r ME_SPARE_AVAIL 1
    else ((s.setFld r ME_SPARE_AVAIL 0).setFld r ME_SPARE_SPFAIL 1).raise modLog (srcDie d) 0x0109 []

def execSpareSelfTest (d : Nat) (pass : Bool) (s : State) : Res := .next (s.selfTest d pass)

end Sys2Proof.Machine
end

