-- ==== Sys2Proof/Machine/Ferry.lean ====
section
/-! DEFINITION. Ferries (10): descriptors, pieces, index streams, layouts, links, late rows and metering. A stream issues
its pieces when FSTR starts and whenever one of its own events is commanded, as far as its waits allow. -/

namespace Sys2Proof.Machine

/-! ### The descriptor (10 Table 10-2) -/

def dOp (d : List Byte) : Nat := bits (leAt d 0 1) 0 4
def dPair (d : List Byte) : Bool := bitAt (leAt d 0 1) 4
def dEos (d : List Byte) : Bool := bitAt (leAt d 0 1) 5
def dSrck (d : List Byte) : Nat := bits (leAt d 1 1) 0 2
def dDstk (d : List Byte) : Nat := bits (leAt d 1 1) 2 2
def dLayout (d : List Byte) : Nat := bits (leAt d 1 1) 4 2
def dEfmt (d : List Byte) : Nat := bits (leAt d 2 1) 0 4
def dIw (d : List Byte) : Nat := if bitAt (leAt d 3 1) 0 then 8 else 4
def dItable (d : List Byte) : Bool := bitAt (leAt d 3 1) 1
def dIstr (d : List Byte) : Nat := bits (leAt d 4 1) 0 6
def dFbmode (d : List Byte) : Nat := bits (leAt d 5 1) 0 2
def dAddt (d : List Byte) : Nat := bits (leAt d 5 1) 2 4
def dFsem (d : List Byte) : Nat := leAt d 6 1
def dEsem (d : List Byte) : Nat := leAt d 7 1
def dFquad (d : List Byte) : Nat := bits (leAt d 8 1) 0 7
def dFrem (d : List Byte) : Bool := bitAt (leAt d 8 1) 7
/-- Bytes of a link granule; 0 for none. -/
def dGran (d : List Byte) : Nat := 256 * leAt d 10 2
def dCount (d : List Byte) : Nat := leAt d 12 4
def dSrc (d : List Byte) : Nat := leAt d 16 8
def dDst (d : List Byte) : Nat := leAt d 24 8
def dRowb (d : List Byte) : Nat := leAt d 32 4
def dSpitch (d : List Byte) : Nat := leAt d 36 4
def dDpitch (d : List Byte) : Nat := leAt d 40 4
def dIshift (d : List Byte) : Nat := bits (leAt d 44 1) 0 6
def dIbits (d : List Byte) : Nat := bits (leAt d 45 1) 0 6
def dTshift (d : List Byte) : Nat := bits (leAt d 46 1) 0 6
def dTbits (d : List Byte) : Nat := bits (leAt d 47 1) 0 5
def dTbase (d : List Byte) : Nat := leAt d 48 8
def dFbsem (d : List Byte) : Nat := leAt d 56 1
def dModel (d : List Byte) : Nat := bits (leAt d 57 1) 0 6
def dGrace (d : List Byte) : Nat := leAt d 58 2
def dFlagw (d : List Byte) : Nat := leAt d 60 4

/-- The layout that converts its rows: bundles and notes have none (DESIGN CHOICE, log entry 93). -/
def dLay (d : List Byte) : Nat := if dOp d = 3 ∨ dOp d = 5 then 0 else dLayout d
/-- ADDT, of a SCATTER. -/
def dAdd (d : List Byte) : Nat := if dOp d = 2 then dAddt d else 0
/-- Does it deliver to its unit? -/
def dToUnit (d : List Byte) : Bool := dOp d ≠ 4 && dOp d ≠ 5 && dDstk d = 3

def dFm (d : List Byte) : Fm := (fmOf (dEfmt d)).getD .int8
/-- Elements of a row under a layout. -/
def dElems (d : List Byte) : Nat := dRowb d * 8 / (dFm d).width
/-- Bytes of a row after PAD32. -/
def dPadded (d : List Byte) : Nat := (dFm d).bytes (alignUp (dElems d) 32)

/-- May an address kind stand there, and is its field in form (10 Table 10-4)? -/
def dEndOk (op : Nat) (isSrc : Bool) (kind v : Nat) : Bool :=
  match kind with
  | 0 => decide (v < 2 ^ 40)
  | 1 => op ≠ 3 && decide (v < 2 ^ 52)
  | 2 => (isSrc && op = 1) || (!isSrc && op = 2)
  | _ => v = 0 && ((isSrc && op = 0) || (!isSrc && (op = 0 || op = 1 || op = 3)))

/-- The check of a descriptor by stream `n` (10 R217, R221, Tables 10-2, 10-3, 10-4); its failure is FRY_PARAM. -/
def dOk (d : List Byte) (n : Nat) : Bool :=
  let op := dOp d
  let moves := decide (op ≤ 2) || op = 4
  op ≤ 5 && bits (leAt d 0 1) 6 2 = 0 && bits (leAt d 1 1) 6 2 = 0 && bits (leAt d 2 1) 4 4 = 0 &&
  bits (leAt d 3 1) 2 6 = 0 && bits (leAt d 4 1) 6 2 = 0 && bits (leAt d 5 1) 6 2 = 0 && leAt d 9 1 = 0 &&
  bits (leAt d 44 1) 6 2 = 0 && bits (leAt d 45 1) 6 2 = 0 && bits (leAt d 46 1) 6 2 = 0 && bits (leAt d 47 1) 5 3 = 0 &&
  decide (dTbase d < 2 ^ 40) && bits (leAt d 57 1) 6 2 = 0 &&
  (!dPair d || n % 2 = 0) && dLayout d ≠ 3 && dFbmode d ≠ 3 && decide (dAddt d ≤ 7) && decide (dFquad d < 80) &&
  decide (dGran d ≤ 4096 * 256) && decide (dGrace d ≤ 5000) && dFlagw d % 4 = 0 && decide (dTbits d ≤ 16) &&
  (!moves || (decide (4 ≤ dRowb d) && decide (dRowb d ≤ 65536) && dRowb d % 4 = 0)) &&
  (!(op = 1 || op = 2) || (decide (dRowb d ≤ 4096) && decide (1 ≤ dIbits d) && decide (dIbits d ≤ 52))) &&
  (op = 4 || op = 5 || dEndOk op true (dSrck d) (if op = 1 && dItable d then 0 else dSrc d)) &&
  (op = 5 || dEndOk op false (dDstk d) (if op = 2 && dItable d then 0 else dDst d)) &&
  (op ≠ 0 || !(dSrck d = 3 && dDstk d = 3)) &&
  (op ≠ 2 || dAddt d = 0 || (decide (dRowb d ≤ 256) && dRowb d % addWidth (dAddt d) = 0)) &&
  (op ≠ 3 || (dSrck d = 0 && dDstk d = 3 && dIw d = 8)) &&
  (op ≠ 4 || dSrck d = 0) &&
  (op ≠ 5 || (dGran d = 0 && decide (1 ≤ dCount d) && decide (dCount d ≤ 65535))) &&
  (dLayout d = 0 || op = 3 || op = 5 || (fmOf (dEfmt d)).isSome) &&
  (dLayout d ≠ 1 || op = 3 || op = 5 || ((dFm d).width ≠ 6 && decide ((dFm d).width ≤ 16) && decide (dElems d ≤ 128)))

/-! ### Jobs and pieces -/

def State.job (s : State) (n : Nat) : Option Job := (s.stream n).job
def State.setJob (s : State) (n : Nat) (j : Option Job) : State := s.setStream n { s.stream n with job := j }
def State.mapJob (s : State) (n : Nat) (f : Job → Job) : State := s.setJob n ((s.job n).map f)
/-- Piece `k` of a stream. -/
def State.pc (s : State) (n k : Nat) : Option Pc := (s.job n).bind fun j => j.out.find? (·.k = k)
/-- A piece is over. -/
def State.dropPc (s : State) (n k : Nat) : State := s.mapJob n fun j => { j with out := j.out.filter (·.k ≠ k) }
def State.mapPc (s : State) (n k : Nat) (f : Pc → Pc) : State := s.mapJob n fun j => { j with out := mapIf (·.k = k) f j.out }
def State.addPc (s : State) (n : Nat) (p : Pc) : State := s.mapJob n fun j => { j with out := j.out ++ [p] }

/-- The source identifier of the ferry of a stream. -/
def frySrc (n : Nat) : Nat := srcUnit (n / 64) (8 + n / 16 % 4)

/-- The epoch of the instance of a quad. -/
def State.epoch (s : State) (q : Nat) : Nat := s.fld (.schQuad q) SCH_QUAD_EPOCH

/-- Does an end lie beyond Abdan Link: another module, or a group's window? -/
def PEnd.away : PEnd → Bool
  | .glob _ _ => true
  | .mem a => match regionOf a with
    | .window _ _ => true
    | _ => false
  | _ => false
/-- Its address, or 0 for an element. -/
def PEnd.base : PEnd → Nat
  | .mem a => a
  | .glob _ a => a
  | _ => 0

/-- Does a piece cross Abdan Link? -/
def Pc.remote (p : Pc) : Bool := p.src.away || p.dst.away
/-- Does a piece read memory? -/
def Pc.reads (p : Pc) : Bool :=
  match p.src with
  | .mem _ => true
  | .glob _ _ => true
  | .elem _ _ => true
  | _ => false

/-- Is its read credit taken: its data are not there, or not yet at their destination (10 Table 10-12)? -/
def Pc.creditTaken (p : Pc) : Bool := p.reads && !p.fell && (p.data.isNone || !p.direct || p.todo ≠ [] || p.dst.away)

/-- Read credits that a stream holds; a row replaced by a fallback row holds its own until it arrives (10 R229). -/
def StreamSt.credits (st : StreamSt) : Nat :=
  (match st.job with
   | some j => (j.out.filter Pc.creditTaken).length
   | none => 0) + st.late.length

/-- Read credits that a ferry's streams hold. -/
def State.ferryReads (s : State) (f : Nat) : Nat := ((List.range 16).map fun k => (s.stream (16 * f + k)).credits).sum

/-- Write credits that a ferry holds: bursts that a hub has not accepted. -/
def State.ferryWrites (s : State) (f : Nat) : Nat :=
  ((List.range 16).map fun k => match s.job (16 * f + k) with
    | some j => ((j.out.filter (·.held)).map fun p => p.todo.length).sum
    | none => 0).sum

/-- Remote credits that a ferry holds: its packets that wait for an acknowledgement. -/
def State.ferryRemote (s : State) (f : Nat) : Nat :=
  (s.fab.outst.filter fun o => o.srcid = srcUnit (f / 4) (8 + f % 4) && !o.stale).length

/-- The pieces of `[a, a + n)` within aligned 256-byte blocks: offset, address, length. -/
def blocks (a n : Nat) : List (Nat × Nat × Nat) :=
  if n = 0 then [] else
  (List.range ((a + n - 1) / 256 - a / 256 + 1)).map fun k =>
    let lo := max a ((a / 256 + k) * 256)
    (lo - a, lo, min (a + n) ((a / 256 + k + 1) * 256) - lo)

/-! ### Metering (10 R226, R227, 15 R348, R349) -/

/-- Bytes charged for a piece: every 32-byte block it touches (10 R226). -/
def pieceCost (a n : Nat) : Nat := if n = 0 then 0 else ((a + n - 1) / 32 - a / 32 + 1) * 32

/-- The FRY_SPLIT word in effect for a partition at a hub: one written during a window waits for the next. -/
def State.splitNow (s : State) (p h : Nat) : Word := (tgetO s.fry.split (4 * p + h)).getD (s.reg (.frySplit p))

/-- Bytes of the allowance of a class in one window of 1 µs, scaled by the fraction `num`/64 that the hub can deliver: DFLOOR units
of 16 GB/s times the class's share, or, for what the L-die sends (class 3), PFLOOR/64 of 187.5 GB/s on each UP port. -/
def State.allowance (s : State) (p h cls num : Nat) : Nat :=
  let w := s.splitNow p h
  if cls = 3 then
    s.fld (.ptFloor (4 * p + h)) PT_FLOOR_PFLOOR * 187500 * ((rangeFrom (4 * h) 4).filter s.portUp).length / 64 * num / 64
  else
    let share := fget w (if cls = 0 then FRY_SPLIT_READ else if cls = 1 then FRY_SPLIT_WRITE else FRY_SPLIT_REMOTE)
    s.fld (.ptFloor (4 * p + h)) PT_FLOOR_DFLOOR * 16000 * share / 64 * num / 64

/-- The key of a meter. -/
def meterKey (p h cls : Nat) : Nat := (4 * p + h) * 4 + cls

/-- Charge a class of a quad's partition at a hub. -/
def State.charge (s : State) (q h cls a n : Nat) : State :=
  match s.quadPart q with
  | some p =>
    let k := meterKey p h cls
    { s with fry := { s.fry with meter := tsetD 0 s.fry.meter k (tgetD 0 s.fry.meter k + pieceCost a n) } }
  | none => s

/-- Where an element lies, for the blocks it touches: in memory, or by its offset in the object or table. -/
def State.elemAt (s : State) (h v : Nat) : Nat :=
  match s.obj h, s.tableOf h with
  | some o, _ => (o.place (v * o.elemb)).getD (v * o.elemb)
  | none, some t => v * t.hotBytes
  | none, none => 0

/-- The hub whose memory an end lies in: a scratchpad has none. -/
def State.memHub (s : State) (e : PEnd) : Option Nat :=
  match e with
  | .mem a => match regionOf a with
    | .spad _ _ => none
    | _ => hubOf a
  | .elem h _ => some (s.handleHub h).1
  | _ => none

/-- Charge `len` bytes from `off` at an end of a piece: what crosses Abdan Link is remote traffic, metered by the L-die too. -/
def State.chargeEnd (s : State) (n cls : Nat) (remote : Bool) (e : PEnd) (off len : Nat) : State :=
  let q := n / 64
  if e.away then s.charge q (q / 20) 3 (e.base + off) len
  else match s.memHub e with
    | some h => s.charge q h (if remote then 2 else cls) ((match e with
      | .elem o v => s.elemAt o v
      | _ => e.base) + off) len
    | none => s

/-! ### Messages and bursts -/

/-- The fields that every message of a ferry carries. The spec gives a ferry no source for DPART (DESIGN CHOICE, log entry 13). -/
def State.fryMsg (s : State) (n m : Nat) : Msg :=
  { dst := m, srcid := frySrc n, spart := (s.quadPart (n / 64)).getD 0, dpart := Config.freeChoice s.fresh % 64 }

/-- Signal FSEM on FQUAD, of this or, with FREM, of another module (10 R223). -/
def State.signalFull (s : State) (n : Nat) (d : List Byte) (k : Nat) : State :=
  let q := n / 64
  let m := bits (dDst d) 40 12
  if dFrem d ∧ ¬ (s.assigned ∧ m = s.modNum) then
    let msg := s.fryMsg n m
    s.drew.post { msg with mtype := 4, epoch := s.epoch q, aux := dFquad d + dFsem d * 2 ^ 8 + k * 2 ^ 16 }
  else if dFquad d = q then s.addSem q (dFsem d) k (frySrc n)
  else if s.quadGone (dFquad d) then s.quadFault q (frySrc n) 0x030B []
  else { s with ctl := { s.ctl with sigs := s.ctl.sigs ++ [⟨dFquad d, dFsem d, k, s.epoch q, frySrc n, false⟩] } }

/-- A refusal of a burst or packet, as (offset, length): "domain off", which DOMAIN_OFF_RETRY carries on; ADDR; unreachable; or
FRY_MEMERR. The refused read of a row replaced by a fallback row gives its credit back. -/
def State.fryRefuse (s : State) (n k : Nat) (b : Nat × Nat) (st : Nat) : State :=
  match s.pc n k with
  | none => s.setStream n { s.stream n with late := dropFirst (· = k) (s.stream n).late }
  | some p =>
    match st with
    | 1 => s.mapPc n k fun _ => { p with refused := true, nak := p.nak ++ [(b.1, (if p.data.isSome then p.dst else p.src).base + b.1, b.2)] }
    | 3 => s.quadFault (n / 64) (frySrc n) 0x0306 []
    | 5 => s.fryFault n 0x0406
    | _ => s.fryFault n 0x0405

/-- A packet of a piece to module `m`: a read of 32-byte blocks, or a write or add of its data. -/
def State.sendPacket (s : State) (n : Nat) (p : Pc) (m addt : Nat) (b : Nat × Nat × Nat) : State × Acc :=
  let msg := s.fryMsg n m
  let piece := some (n, p.k, b.1, b.2.2, if p.data.isSome then 0 else b.2.1 % 32)
  let r := match p.data with
    | none =>
      let lo := b.2.1 / 32 * 32
      s.drew.request { msg with mtype := 1, addr := lo, len := alignUp (b.2.1 + b.2.2) 32 - lo } piece p.retried
    | some bs =>
      s.drew.request { msg with mtype := if addt = 0 then 2 else 3, addr := b.2.1, len := b.2.2, aux := addt,
                                data := (bs.drop b.1).take b.2.2 } piece p.retried
  (r.1, if r.2 then .queued else .no 5)

/-- Send one burst of a piece, or one packet of its read. -/
def State.sendBurst (s : State) (n : Nat) (p : Pc) (addt : Nat) (b : Nat × Nat × Nat) : State × Acc :=
  match p.data with
  | none => match p.src with
    | .glob m _ => s.sendPacket n p m addt b
    | _ => (s, .ok)
  | some bs =>
    let data := (bs.drop b.1).take b.2.2
    match p.dst with
    | .mem a => match regionOf a with
      | .window g o =>
        let r := s.windowWrite (frySrc n) g (o + b.1) (some data)
        (r.1, if r.2 then .ok else .no 3)
      | _ => s.writeEnd (frySrc n) (.addr b.2.1) addt data (some (.piece n p.k))
    | .elem h v => s.writeEnd (frySrc n) (.part h v b.1) addt data (some (.piece n p.k))
    | .glob m _ => s.sendPacket n p m addt b
    | _ => (s, .ok)

/-- Has the ferry no credit for a further burst or packet of the piece? -/
def State.noCredit (s : State) (n : Nat) (p : Pc) : Bool :=
  match (if p.data.isSome then p.dst else p.src) with
  | .glob _ _ => decide (32 ≤ s.ferryRemote (n / 16))
  | _ => !p.held && decide (64 ≤ s.ferryWrites (n / 16))

/-- A piece goes out burst by burst as far as credits and its destination allow: one held back or refused stops it. -/
def State.sendOut (n k : Nat) : Nat → State → State
  | 0, s => s
  | f + 1, s =>
    match s.job n, s.pc n k with
    | some j, some p =>
      match p.todo with
      | [] => s
      | b :: rest =>
        if p.refused ∨ s.noCredit n p then s
        else
          let r := s.sendBurst n p (dAdd j.d) b
          let e := if p.data.isSome then p.dst else p.src
          let t := r.1.mapPc n k fun p => { p with todo := rest, held := false }
          match r.2 with
          | .ok => State.sendOut n k f ((t.chargeEnd n 1 p.remote e b.1 b.2.2).ackTo (some (.piece n k)) b.2.2)
          | .queued => State.sendOut n k f (t.chargeEnd n 1 p.remote e b.1 b.2.2)
          | .held => r.1.mapPc n k fun p => { p with held := true }
          | .no st => t.fryRefuse n k (b.1, b.2.2) st
    | _, _ => s

/-- The bursts of an end: within aligned 256-byte blocks (10 R234). -/
def PEnd.bursts (e : PEnd) (len : Nat) : List (Nat × Nat × Nat) :=
  match e with
  | .mem a => blocks a len
  | .glob _ a => blocks a len
  | .elem _ _ => blocks 0 len
  | _ => []

/-- The bytes of a piece that goes straight to its destination are there: it is written, or sent to the other module. -/
def State.putPc (s : State) (n k : Nat) (bs : List Byte) : State :=
  match s.pc n k with
  | none => s
  | some p =>
    let out := p.dst.bursts bs.length
    if out = [] then s.dropPc n k
    else State.sendOut n k out.length (s.mapPc n k fun p => { p with data := some bs, todo := out, parts := [], acked := 0, nak := [], held := false })

/-- Pieces whose bursts wait for credits, or at a hub, try again. -/
def State.retryBursts (s : State) (n : Nat) : State :=
  match s.job n with
  | none => s
  | some j => (j.out.filter fun p => p.todo ≠ []).foldl (fun (s : State) (p : Pc) => State.sendOut n p.k p.todo.length s) s

/-! ### The unit's end of a stream (10 R219) -/

/-- The first run that is still open. -/
def mapOpen (f : RunQ → RunQ) : List RunQ → List RunQ
  | [] => []
  | r :: rs => if r.ended then r :: mapOpen f rs else f r :: rs

/-- Deliver bytes to the unit, in the oldest run that is open. -/
def State.deliver (s : State) (n : Nat) (bs : List Byte) : State :=
  let st := s.stream n
  s.setStream n { st with runs := mapOpen (fun (r : RunQ) => { r with left := r.left ++ bs }) st.runs }

/-- A run starts at the unit's end. -/
def State.openRun (s : State) (n : Nat) (d : List Byte) : State :=
  let st := s.stream n
  if dToUnit d then s.setStream n { st with runs := st.runs ++ [{ left := [], pair := dPair d }] } else s

/-- The last byte of the oldest open run has passed: its end mark follows when EOS = 1. -/
def State.closeRun (s : State) (n : Nat) (d : List Byte) : State :=
  let st := s.stream n
  if dToUnit d then
    s.setStream n { st with runs := mapOpen (fun (r : RunQ) => { r with ended := true, mark := dEos d, full := dCount d ≠ 0 }) st.runs }
  else s

/-! ### Layouts (10 Table 10-6) -/

/-- An end at an offset from a base, by its kind (10 Table 10-4). -/
def State.mkEnd (s : State) (kind base off v : Nat) : PEnd :=
  match kind with
  | 0 => .mem (base + off)
  | 1 => if s.assigned ∧ bits base 40 12 = s.modNum then .mem (bits base 0 40 + off) else .glob (bits base 40 12) (bits base 0 40 + off)
  | 2 => .elem base v
  | _ => .unit

/-- Is a local end inside the ferry's partition, or a group window as a destination? Moorings and registers judge the access
themselves (12 R271, 18 R411). -/
def State.endOk (s : State) (q : Nat) (isSrc : Bool) (e : PEnd) (len : Nat) : Bool :=
  match e with
  | .mem a => match regionOf a with
    | .window _ _ => !isSrc
    | .setAlias o => s.unitRange q (spBase + o % (20 * spSize)) len || (moorAt (o % spSize)).isSome
    | .clrAlias o => s.unitRange q (spBase + o % (20 * spSize)) len || (moorAt (o % spSize)).isSome
    | .regs _ => true
    | .spad _ o => (moorAt o).isSome || s.unitRange q a len
    | _ => s.unitRange q a len
  | .glob _ a => decide (a + len ≤ 2 ^ 40)
  | _ => true

/-- A row with zero elements up to a multiple of 32. -/
def padRow (d bs : List Byte) : List Byte :=
  (dFm d).pack ((dFm d).elems bs (dElems d) ++ List.replicate (alignUp (dElems d) 32 - dElems d) 0)

/-- A row that the transpose buffer emits for repetition `r`: to the unit, or to its place in memory. -/
def State.emitRow (s : State) (n r : Nat) (bs : List Byte) : State :=
  match s.job n with
  | none => s
  | some j =>
    let a := j.acc r
    let s := s.mapJob n fun j => j.mapAcc r fun a => { a with erow := a.erow + 1, all := a.all + bs.length }
    if dToUnit j.d then s.deliver n bs
    else
      let dst := s.mkEnd (dDstk j.d) (dDst j.d) (a.erow * dDpitch j.d) 0
      if ¬ s.endOk (n / 64) false dst bs.length then s.quadFault (n / 64) (frySrc n) 0x0306 []
      else
        let k := (s.stream n).nextK
        let s := s.setStream n { s.stream n with nextK := k + 1 }
        (s.addPc n { k, src := .bytes bs, dst, len := bs.length, off := a.all, direct := true, run := r }).putPc n k bs

/-- A block of rows, column by column. -/
def transposeRows (f : Fm) (c : Nat) (rows : List (List Byte)) : List (List Byte) :=
  let els := rows.map fun r => f.elems r c
  (List.range c).map fun i => f.pack (els.map fun r => r.getD i 0)

/-- The block gathered in the transpose buffer is emitted, and the buffer passes to the next stream (10 R221). -/
def State.flushBlock (s : State) (n : Nat) : State :=
  match s.job n with
  | none => s
  | some j =>
    let s := (transposeRows (dFm j.d) (dElems j.d) j.hold).foldl (fun (s : State) (r : List Byte) => s.emitRow n j.holdRun r)
      (s.mapJob n fun j => { j with hold := [] })
    { s with fry := { s.fry with tpose := tsetD 0 s.fry.tpose (n / 16) ((n + 1) % 16) } }

/-- Has the stream a row whose turn it is for the transpose buffer? -/
def Job.wantsBuffer (j : Job) : Bool :=
  dLay j.d = 1 && match j.out.find? fun p => !p.direct with
    | some p => p.data.isSome
    | none => false

/-- May the stream put a row into its ferry's transpose buffer: it holds the buffer, or none does and it is the first in rotation
of those that want it (10 R221)? -/
def State.tposeFree (s : State) (n : Nat) : Bool :=
  let f := n / 16
  let d (k : Nat) : Nat := rotDist 16 (tgetD 0 s.fry.tpose f) (k % 16)
  (s.job n).any (fun j => j.hold ≠ []) || (List.range 16).all fun k => match s.job (16 * f + k) with
    | some j => j.hold = [] && (!j.wantsBuffer || decide (d n ≤ d k))
    | none => true

/-- A row of repetition `r`, in its turn, goes to the unit or into the transpose buffer. -/
def State.passRow (s : State) (n r : Nat) (d : List Byte) (bs : List Byte) : State :=
  if dLay d = 1 then
    let s := s.mapJob n fun j => { j with hold := j.hold ++ [bs], holdRun := r }
    match s.job n with
    | some j => if j.hold.length = 128 then s.flushBlock n else s
    | none => s
  else s.deliver n (if dLay d = 2 then padRow d bs else bs)

/-- May a run be closed: its last piece is issued, and none of its rows is still to pass? -/
def Job.passed (j : Job) (a : RunAcc) : Bool := a.ended && j.out.all fun p => p.direct || p.run ≠ a.id

/-- Runs whose last byte has passed are closed, in order; the last block of a transposed run is emitted first. -/
def State.closeRuns (n : Nat) : List RunAcc → State → State
  | [], s => s
  | a :: as, s =>
    if a.closed then State.closeRuns n as s
    else match s.job n with
      | none => s
      | some j =>
        if j.passed a then
          let s := if j.hold ≠ [] ∧ j.holdRun = a.id then s.flushBlock n else s
          State.closeRuns n as ((s.closeRun n j.d).mapJob n fun j => j.mapAcc a.id fun a => { a with closed := true })
        else s

/-- Pieces that go in order pass as far as their data are there, and runs end behind their last. -/
def State.flow (n : Nat) : Nat → State → State
  | 0, s => s
  | f + 1, s =>
    match s.job n with
    | none => s
    | some j =>
      let s := State.closeRuns n j.accs s
      match j.out.find? fun p => !p.direct with
      | some p => match p.data with
        | some bs => if dLay j.d = 1 ∧ ¬ s.tposeFree n then s else State.flow n f ((s.dropPc n p.k).passRow n p.run j.d bs)
        | none => s
      | none => s

/-- A stream's rows pass as far as they can. -/
def State.flowAll (s : State) (n : Nat) : State :=
  match s.job n with
  | some j => State.flow n (j.out.length + 1) s
  | none => s

/-- The bytes of piece `k` are there. -/
def State.landPc (s : State) (n k : Nat) (bs : List Byte) : State :=
  match s.job n, s.pc n k with
  | some j, some p =>
    if p.direct then s.putPc n k (if dLay j.d = 2 ∧ p.dst ≠ .null then padRow j.d bs else bs)
    else (s.mapPc n k fun p => { p with data := some bs, todo := [] }).flowAll n
  | _, _ => s

/-! ### Late rows (10 R229, 04 R68) -/

/-- The mode (0 WAIT, 1 ZERO, 2 DEFAULT) and grace of a gather's piece: those of its table, or the descriptor's. -/
def State.lateRule (s : State) (d : List Byte) (src : PEnd) : Nat × Nat :=
  if dOp d ≠ 1 then (0, 0)
  else
    match src with
    | .elem h _ => match s.tableOf h with
      | some t => (t.late, t.grace)
      | none => (dFbmode d, dGrace d)
    | _ => (dFbmode d, dGrace d)

/-- The bytes of a fallback row: zeros, the table's default row, or, for a descriptor's DEFAULT, bytes whose source the
spec does not state (DESIGN CHOICE, log entry 7). -/
def State.fallbackRow (s : State) (j : Job) (src : PEnd) (len : Nat) : List Byte :=
  if (s.lateRule j.d src).1 = 2 then
    match src with
    | .elem h _ => match s.tableOf h with
      | some t => bytesAt t.dflt 0 len
      | none => leBytes len (Config.freeChoice j.dn)
    | _ => leBytes len (Config.freeChoice j.dn)
  else List.replicate len 0#8

/-- FBSEM is consumed when it is first signalled, for a gather with a fallback and for every gather from a table. -/
def State.takeFb (s : State) (n : Nat) : State :=
  match s.job n with
  | none => s
  | some j =>
    let q := n / 64
    if dOp j.d ≠ 1 ∨ j.fbSeen ∨ ¬ (dFbmode j.d ≠ 0 ∨ j.table) ∨ s.sem q (dFbsem j.d) = 0 then s
    else (s.setSem q (dFbsem j.d) (s.sem q (dFbsem j.d) - 1)).mapJob n fun j => { j with fbSeen := true }

/-- Is the piece's fallback point past? -/
def State.pastPoint (s : State) (j : Job) (src : PEnd) : Bool :=
  j.fbSeen && (s.lateRule j.d src).1 ≠ 0 && decide (j.start + (s.lateRule j.d src).2 * tickUs ≤ s.svcTime)

/-- A fallback row is used: counted in the model, noted for the query whose lookup it was (04 Table 4-4), bit 0 of the flag word set,
FRY_LATE once per FSTR. A flag word outside the scratchpad is ADDR. -/
def State.noteLate (s : State) (n : Nat) : State :=
  match s.job n with
  | none => s
  | some j =>
    let s := (s.incFld (.mdlStat (dModel j.d)) MDL_STAT_LATE 1).setFld (.mdlStat (dModel j.d)) MDL_STAT_DEGR 1
    let s : State := match s.stageOn n with
      | some (_, x) => if s.rank.degraded.contains x.id then s else { s with rank := { s.rank with degraded := s.rank.degraded ++ [x.id] } }
      | none => s
    let s := if spSize ≤ dFlagw j.d then s.quadFault (n / 64) (frySrc n) 0x0306 []
      else s.aliasWrite (frySrc n) true (n / 64 / 4 * spSize + dFlagw j.d) [1#8, 0#8, 0#8, 0#8]
    if j.lateSaid then s
    else ((s.mapJob n fun j => { j with lateSaid := true }).setFld (.fryStat (n / 16)) FRY_STAT_LATE 1).raise
      (s.quadLog (n / 64)) (frySrc n) 0x0408 []

/-- Piece `k` gets its fallback row; `arrives`: its own bytes are still to come and hold a credit until then. -/
def State.fallBack (s : State) (n k : Nat) (arrives : Bool) : State :=
  match s.job n, s.pc n k with
  | some j, some p =>
    let row := s.fallbackRow j p.src p.len
    let s := ((s.noteLate n).mapPc n k fun p => { p with refused := false, nak := [], fell := true }).landPc n k row
    if arrives then s.setStream n { s.stream n with late := (s.stream n).late ++ [k] } else s
  | _, _ => s

/-! ### Issue of pieces -/

/-- A piece starts: its bytes are given, or its fallback point is past, or its read goes to its hub or to the other module. -/
def State.startPc (s : State) (n k : Nat) (bs : Option (List Byte)) : State :=
  match s.job n, s.pc n k with
  | some j, some p =>
    match bs with
    | some b => s.landPc n k b
    | none =>
      if s.pastPoint j p.src then s.fallBack n k false
      else match p.src with
        | .glob _ a =>
          let out := blocks a p.len
          State.sendOut n k out.length (s.mapPc n k fun p => { p with todo := out })
        | _ => s
  | _, _ => s

/-- A piece of `rows` rows is issued: to its place in the destination of the present repetition, in order to the unit or the
transpose buffer. -/
def State.newPc (s : State) (n : Nat) (src dst : PEnd) (len rows : Nat) (bs : Option (List Byte)) : State :=
  match s.job n with
  | none => s
  | some j =>
    let q := n / 64
    let tr : Bool := dLay j.d = 1
    let out := if dLay j.d = 2 then dPadded j.d else len
    if ¬ s.endOk q true src len ∨ (tr = false ∧ ¬ s.endOk q false dst out) then s.quadFault q (frySrc n) 0x0306 []
    else
      let k := (s.stream n).nextK
      let p : Pc := { k, src, dst, len, off := if tr then 2 ^ 64 else (j.acc j.cur).all, run := j.cur,
                      direct := dst ≠ .unit && (!tr || dst = .null) }
      let s := s.setStream n { s.stream n with nextK := k + 1 }
      let s := s.mapJob n fun j => { j.mapAcc j.cur (fun a => { a with all := if tr then a.all else a.all + out }) with rows := j.rows + rows }
      ((s.incFld (.fryStat (n / 16)) FRY_STAT_PIECES 1).addPc n p).startPc n k bs

/-- Take `n` bytes of what a unit wrote, and whether they end inside a producing instruction's bytes. -/
def takeChunks (n : Nat) : List (List Byte) → Option (List Byte × List (List Byte) × Bool)
  | [] => if n = 0 then some ([], [], false) else none
  | c :: cs =>
    if n = 0 then some ([], c :: cs, false)
    else if n < c.length then some (c.take n, c.drop n :: cs, true)
    else match takeChunks (n - c.length) cs with
      | some (bs, rest, mid) => some (c ++ bs, rest, mid)
      | none => none

/-- What an index stream gives. -/
inductive Idx where
  | got (e : Nat) (s : State)
  | mark (s : State)
  | dry
  | short

/-- The next entry of `w` bytes of an index stream (10 R220): delivered to it, or written to it by a unit. -/
def State.takeIndex (s : State) (p w : Nat) : Idx :=
  let st := s.stream p
  match st.runs.dropWhile (fun r => r.over && !r.mark) with
  | r :: rs =>
    if r.over then .mark (s.setStream p { st with runs := rs })
    else match takeRuns' w (r :: rs) with
      | .got bs rest => .got (ofLE bs) (s.setStream p { st with runs := rest })
      | .dry => if s.streamHalted p then .short else .dry
      | .short => .short
  | [] =>
    match takeChunks w st.fromUnit with
    | some (bs, rest, _) => .got (ofLE bs) (s.setStream p { st with fromUnit := rest })
    | none =>
      if st.fromUnit = [] ∧ st.fromEnd then .mark (s.setStream p { st with fromEnd := false })
      else if s.streamHalted p then .short else .dry

/-- The end mark that stands next on an index stream is passed (10 Table 10-13). -/
def State.eatMark (s : State) (p w : Nat) : State :=
  match s.takeIndex p w with
  | .mark t => t
  | _ => s

/-- The present repetition's last piece is issued. Where COUNT is reached and the index stream's end mark stands next, both
coincide, and the mark is passed. -/
def State.endRun (s : State) (n : Nat) : State :=
  match s.job n with
  | none => s
  | some j =>
    let s := if (dOp j.d = 1 ∨ dOp j.d = 2 ∨ dOp j.d = 3) ∧ dCount j.d ≠ 0 then s.eatMark (portOf (n / 64) (dIstr j.d)) (dIw j.d) else s
    (s.mapJob n fun j => j.mapAcc j.cur fun a => { a with ended := true }).flowAll n

/-- The next repetition begins (10 R219, R225). -/
def State.nextRun (s : State) (n : Nat) : State :=
  match s.job n with
  | none => s
  | some j => (s.setJob n (some { j with runs := j.runs - 1, cur := j.cur + 1, accs := j.accs ++ [{ id := j.cur + 1 }],
                                         rows := 0, taken := 0 })).openRun n j.d

/-- Rows that one piece of a COPY takes, one at an alias or a register: else whole rows contiguous at both ends, at most 4,096 bytes and inside one 4 KiB
page at a memory end, and inside one link granule (10 Table 10-3). -/
def mergeRows (d : List Byte) (src dst : PEnd) (left all : Nat) : Nat :=
  let b := dRowb d
  let contS := dSpitch d = b || src = .unit
  let contD := dDpitch d = b || dst = .unit
  let page (e : PEnd) : Nat := match e with
    | .mem a => 4096 - a % 4096
    | .glob _ a => 4096 - a % 4096
    | _ => 4096
  let gran := if dGran d = 0 then 4096 else dGran d - all % dGran d
  let port (e : PEnd) : Bool := match e with
    | .mem a => match regionOf a with
      | .regs _ => true
      | .setAlias _ => true
      | .clrAlias _ => true
      | _ => false
    | _ => false
  if dLay d = 0 ∧ contS ∧ contD ∧ ¬ port src ∧ ¬ port dst then max 1 (min left (min (min (page src) (page dst)) gran / b)) else 1

/-- DIR and QADDR of a screen record are 32-byte aligned; else ADDR (09 Table 9-11). -/
def screenRecAligned (r : List Byte) : Bool := leAt r 0 8 % 32 = 0 && leAt r 24 8 % 32 = 0

/-- The bundles of one list entry (09 Table 9-8, R203; 10, BUNDLE): the header and the row addresses of each. A list in a
sketch-stack bank is read there as ordinary memory (05 R109). -/
def State.bundlesOf (s : State) (tbase e : Nat) : List (List Byte × List Nat) :=
  let rec_ := s.rd tbase 128
  let width := leAt rec_ 8 1 % 4
  let ncl := min 4 (leAt rec_ 9 1)
  let l := bits e 0 32
  let ord := bits e 32 12
  let dir := s.rd (bits (leAt rec_ 0 8) 0 40 + 32 * l) 32
  let start := leAt dir 2 2
  let count := leAt dir 4 2
  let gbase := leAt dir 6 2
  let stride := leAt dir 8 2
  let haddr := if bitAt (leAt dir 0 2) 12 then bits (leAt dir 16 8) 0 40 else skBase + bits (leAt dir 0 2) 0 12 * skBank
  let sp := 256 * 2 ^ width
  if count = 0 then []
  else
    (List.range ((start + count - 1) / sp - start / sp + 1)).map fun i =>
      let b := (start / sp + i) * sp
      let g := gbase + i * stride
      let first := max start b
      let last := min (start + count) (b + sp)
      let cl (c : Nat) : Nat := if c < ncl then leAt rec_ (16 + c) 1 else 0
      let clauses := (List.range ncl).flatMap fun c =>
        (List.range (cl c % 16)).map fun v => g + 1 + leAt rec_ (32 + 16 * c + 2 * v) 2
      let rows := [g] ++ clauses ++ rangeFrom first (last - first)
      (leBytes 2 ord ++ leBytes 1 width ++ leBytes 1 ncl ++ (List.range 4).flatMap (fun c => leBytes 1 (cl c)) ++
         leBytes 2 (first - start) ++ leBytes 2 (last - first) ++ leBytes 2 (first - b) ++ leBytes 18 0,
       rows.map fun r => haddr + 1024 * r)

/-- Why a ferry cannot read `n` bytes at `a`: ADDR outside its partition, lost data, or a bank that is off (10 Table 10-11). -/
def State.fryUnread (s : State) (n a len : Nat) : Option State :=
  if ¬ s.unitRange (n / 64) a len then some (s.quadFault (n / 64) (frySrc n) 0x0306 [])
  else (s.unreadable a len).map fun code => s.fryFault n code

/-- An entry of a BUNDLE descriptor: the header and the rows of its bundles are the pieces to issue next. A null entry gives none
(DESIGN CHOICE, log entry 93). -/
def State.bundleStep (s : State) (n e : Nat) : State :=
  let q := n / 64
  match s.job n with
  | none => s
  | some j =>
    let s := s.mapJob n fun j => { j with rows := j.rows + 1 }
    let tb := dTbase j.d
    let rec_ := s.rd tb 128
    let dir := bits (leAt rec_ 0 8) 0 40 + 32 * bits e 0 32
    if e = 2 ^ 64 - 1 then s
    else if tb % 128 ≠ 0 then s.quadFault q (frySrc n) 0x0306 []
    else match s.fryUnread n tb 128 with
      | some t => t
      | none =>
        if leAt rec_ 8 1 % 4 = 3 then s.fryFault n 0x0401
        else if screenRecAligned rec_ = false then s.quadFault q (frySrc n) 0x0306 []
        else match s.fryUnread n dir 32 with
          | some t => t
          | none =>
            let bs := s.bundlesOf tb e
            s.mapJob n fun j => { j with parts := bs.flatMap fun b => (.bytes b.1, 32) :: b.2.map fun a => (.mem a, 1024) }

/-- An entry of GATHER or SCATTER (10 R220). -/
def State.entryStep (s : State) (n e : Nat) : State :=
  match s.job n with
  | none => s
  | some j =>
    let d := j.d
    let null := e = 2 ^ (8 * dIw d) - 1
    let v := bits e (dIshift d) (dIbits d)
    let tEntry := dTbase d + 8 * bits e (dTshift d) (dTbits d)
    match (if ¬ null ∧ dItable d then s.fryUnread n tEntry 8 else none) with
    | some t => t
    | none =>
      let base := if dItable d then s.rdLE tEntry 8 else if dOp d = 1 then dSrc d else dDst d
      let kind := if dOp d = 1 then dSrck d else dDstk d
      if ¬ null ∧ kind = 1 ∧ 2 ^ 52 ≤ base then s.quadFault (n / 64) (frySrc n) 0x0306 []
      else if dOp d = 1 then
        let src := if null then .null else s.mkEnd kind base (v * dSpitch d) v
        let table : Bool := kind = 2 && !null && (s.tableOf base).isSome
        let s := if table then s.mapJob n fun j => { j with table := true } else s
        if table ∧ (dFbmode d ≠ 0 ∨ dGrace d ≠ 0) then s.fryFault n 0x0401
        else s.newPc n src (s.mkEnd (dDstk d) (dDst d) (j.rows * dDpitch d) 0) (dRowb d) 1
          (if null then some (List.replicate (dRowb d) 0#8) else none)
      else if null then s.newPc n .null .null (dRowb d) 1 (some [])
      else s.newPc n (s.mkEnd (dSrck d) (dSrc d) (j.rows * dSpitch d) 0) (s.mkEnd kind base (v * dDpitch d) v) (dRowb d) 1 none

/-- The ports (09 R185) that an instruction reads as it goes. -/
def portsOf (op o : Nat) : List Nat :=
  let p (k : Nat) : Nat := bits o k 6
  match op with
  | 0x30 => [p 12, p 12 + 1, p 18, p 18 + 1]
  | 0x31 => [p 12, p 12 + 1, p 18, p 18 + 1, p 60]
  | 0x61 => [p 0]
  | 0x90 => [p 14]
  | 0x91 => [p 0]
  | _ => []

/-- Does an instruction in progress take what the port gets as it comes? -/
def State.portDrains (s : State) (n : Nat) : Bool :=
  s.ctl.threads.any fun e => e.1 / 256 = n / 64 && e.2.any fun th => th.issued.any fun i => i.dry && (portsOf i.op i.o).contains (n % 64)

/-- Does a stream hold a port credit: fewer than eight of 256 bytes are delivered and not taken, or on their way (10 R219)? -/
def State.portFree (s : State) (n : Nat) : Bool :=
  let st := s.stream n
  let coming := match st.job with
    | some j => ((j.out.filter fun p => p.dst = .unit).map Pc.len).sum
    | none => 0
  decide ((st.runs.map fun r => r.left.length).sum + coming < 2048) || s.portDrains n

/-- How a step of a stream's issue ended: it waits, for a cause of FRY_SWAIT or, with 0, for what its pieces wait for; it went on; or it
issued a piece. -/
inductive Turn where
  | stop (cause : Nat)
  | on
  | piece
deriving DecidableEq, Repr

/-- Destination bytes of the present repetition once its next piece is issued. -/
def Job.reach (j : Job) : Nat :=
  let d := j.d
  let all := (j.acc j.cur).all
  match dLay d with
  | 0 => all + (if dOp d = 3 then (j.parts.map (·.2)).headD 32 else dRowb d)
  | 2 => (j.rows + 1) * dPadded d
  | _ => (if dCount d = 0 then j.rows + 1 else min ((j.rows / 128 + 1) * 128) (dCount d)) * dRowb d

/-- One step of a stream's issue (10 R217, R223, R225, R233). -/
def State.issueStep (s : State) (n : Nat) : State × Turn :=
  let q := n / 64
  match s.job n with
  | none => (s, .stop 0)
  | some j =>
    let d := j.d
    let op := dOp d
    if j.ended then (if j.runs ≠ 0 then (s.nextRun n, .on) else (s, .stop 0))
    else if op = 5 then
      let s := s.endRun n
      let s := match dDstk d, regionOf (dDst d) with
        | 0, .window g o =>
          let r := s.windowWrite (frySrc n) g o none
          if r.2 then r.1 else s.quadFault q (frySrc n) 0x0306 []
        | _, _ => s
      (s.signalFull n d (dCount d), .on)
    else if j.parts = [] ∧ j.rows = dCount d ∧ (dCount d ≠ 0 ∨ op = 0 ∨ op = 4) then (s.endRun n, .on)
    else if dGran d ≠ 0 ∧ j.taken < ceilDiv j.reach (dGran d) then
      if s.sem q (dEsem d) = 0 then (s, .stop 1)
      else ((s.setSem q (dEsem d) (s.sem q (dEsem d) - 1)).mapJob n fun j => { j with taken := j.taken + 1 }, .on)
    else if 64 ≤ (s.stream n).credits ∨ 128 ≤ s.ferryReads (n / 16) then (s, .stop 0)
    else if dToUnit d ∧ ¬ s.portFree n then (s, .stop 7)
    else if op = 1 ∧ s.gateHolds n then (s, .stop 0)
    else if op = 0 then
      let src := s.mkEnd (dSrck d) (dSrc d) (j.rows * dSpitch d) 0
      let dst := s.mkEnd (dDstk d) (dDst d) (j.rows * dDpitch d) 0
      let m := mergeRows d src dst (dCount d - j.rows) (j.acc j.cur).all
      if src = .unit then
        match takeChunks (m * dRowb d) (s.stream n).fromUnit with
        | none => (s, .stop 0)
        | some (bs, rest, mid) =>
          let s := s.setStream n { s.stream n with fromUnit := rest }
          if mid ∧ j.rows + m = dCount d then (s.fryFault n 0x0403, .stop 0) else (s.newPc n src dst (m * dRowb d) m (some bs), .piece)
      else (s.newPc n src dst (m * dRowb d) m none, .piece)
    else if op = 4 then
      let row := (List.replicate (dRowb d / 4) (leBytes 4 (dSrc d))).flatten
      (s.newPc n (.bytes row) (s.mkEnd (dDstk d) (dDst d) (j.rows * dDpitch d) 0) (dRowb d) 1 (some row), .piece)
    else
      match j.parts with
      | x :: rest =>
        ((s.setJob n (some { j with parts := rest })).newPc n x.1 .unit x.2 0 (match x.1 with
          | .bytes bs => some bs
          | _ => none), .piece)
      | [] =>
        match s.takeIndex (portOf q (dIstr d)) (dIw d) with
        | .got e s => if op = 3 then (s.bundleStep n e, .on) else (s.entryStep n e, .piece)
        | .mark s => if dCount d ≠ 0 then (s.fryFault n 0x0402, .stop 0) else (s.endRun n, .on)
        | .short => (s.fryFault n 0x0402, .stop 0)
        | .dry => (s, .stop 0)

/-- The first issued entry of a thread that runs a job no longer does. -/
def dropJob : List Issued → List Issued
  | [] => []
  | i :: is => if i.isJob then { i with isJob := false } :: is else i :: dropJob is

/-- Is a repetition over: every byte visible or passed to its unit, and every granule signalled (10 R224)? -/
def Job.runOver (j : Job) (a : RunAcc) : Bool :=
  a.closed && (j.out.all fun p => p.run ≠ a.id) && (dGran j.d = 0 || decide (ceilDiv a.all (dGran j.d) ≤ a.full))

/-- Repetitions that are over go, and the FSTR ends with its last once the unit has taken every byte. -/
def State.settle (s : State) (n : Nat) : State :=
  match s.job n with
  | none => s
  | some j =>
    let left := j.accs.filter fun a => !j.runOver a
    if left = [] ∧ j.ended ∧ j.runs = 0 ∧ ¬ (dToUnit j.d ∧ (s.stream n).runs.any (·.left ≠ [])) then
      let s := (s.setJob n none).mapThread (n / 64) (8 + n / 16 % 4) (n % 16) fun th => { th with issued := dropJob th.issued }
      (s.fryWait n 0).streamDone n (dOp j.d = 1)
    else s.setJob n (some { j with accs := j.accs.filter fun a => a.id = j.cur || !j.runOver a })

/-- What the oldest piece of a stream waits for (10 R238). -/
def State.pieceCause (s : State) (n : Nat) : Nat :=
  match s.job n with
  | none => 0
  | some j =>
    match j.out.find? fun p => p.reads && p.data.isNone with
    | none => if (j.out.any fun p => p.dst.away) then 5 else 0
    | some p =>
      let at_ (a : Nat) : Nat := match regionOf a with
        | .hbm _ _ => 2
        | .gddr _ _ => 3
        | .sketch _ _ => 6
        | _ => 0
      match p.src with
      | .mem a => at_ a
      | .glob _ _ => 5
      | .elem h v => match s.obj h with
        | some o => match o.place (v * o.elemb) with
          | some a => at_ a
          | none => 4
        | none => match s.tableOf h with
          | some t => if (t.find v).isSome then 2 else 4
          | none => 0
      | _ => 0

/-- A stream's steps up to its next piece; what it waits for when it has none. -/
def State.turnSteps (n : Nat) : Nat → State → State × Turn
  | 0, s => (s, .on)
  | f + 1, s =>
    let r := s.issueStep n
    match r.2 with
    | .on => State.turnSteps n f r.1
    | .piece => (r.1.fryWait n 0, .piece)
    | .stop c => (r.1.fryWait n (if c = 0 then r.1.pieceCause n else c), .stop c)

/-- A stream's turn at its ferry: what waits tries again, and its next piece is issued (10 R216). The answer says whether one was, or
whether repetitions are still to come. -/
def State.streamTurn (s : State) (n : Nat) : State × Bool :=
  let s := ((s.takeFb n).retryBursts n).flowAll n
  let r := State.turnSteps n 16 s
  let s := (r.1.flowAll n).settle n
  match r.2 with
  | .piece => ({ s with fry := { s.fry with next := tsetD 0 s.fry.next (n / 16) ((n + 1) % 16) } }, true)
  | .on => (s, true)
  | .stop _ => (s, false)

/-- The streams of a ferry that run an FSTR, from the first in rotation on. -/
def State.ferryTurns (s : State) (f : Nat) : List Nat :=
  ((List.range 16).map fun k => 16 * f + (tgetD 0 s.fry.next f + k) % 16).filter fun n => (s.job n).isSome

/-- The streams of a quad issue their pieces in turn as far as their waits and credits allow. -/
def State.pump (q : Nat) : Nat → State → State
  | 0, s => s
  | f + 1, s =>
    let r := ((rangeFrom (4 * q) 4).flatMap s.ferryTurns).foldl (fun (r : State × Bool) (n : Nat) =>
      let x := r.1.streamTurn n
      (x.1, r.2 || x.2)) (s, false)
    if r.2 then State.pump q f r.1 else r.1

/-- Rounds that one command lets a quad's streams take. -/
def pumpFuel : Nat := 4096

/-- The ferries of a stream's quad go on while its instance issues: no abort stops them. -/
def State.pumped (s : State) (n : Nat) : State := if s.quadRuns (n / 64) then State.pump (n / 64) pumpFuel s else s

/-! ### FSTR (09 R200) -/

/-- FSTR starts when no FSTR runs on its stream. -/
def State.fstr (s : State) (x : Iss) : Option State :=
  let n := 16 * (4 * x.q + (x.u - 8)) + x.t
  let r := s.spadRead x.q (64 * x.f 0 20) 64
  match r.2 with
  | none => some (r.1.fault x 0x0306)
  | some d =>
    let table : Bool := dOp d = 1 && dSrck d = 2 && !dItable d && (s.tableOf (dSrc d)).isSome
    if dOk d n = false ∨ (table ∧ (dFbmode d ≠ 0 ∨ dGrace d ≠ 0)) then some (r.1.fryFault n 0x0401)
    else
      let s := (r.1.setJob n (some { d, runs := x.f 20 16, start := s.svcTime, dn := s.fresh, table })).openRun n d
      some ((s.drew.join x { op := x.op, sig := x.sig, o := x.o, isJob := true }).pumped n)

def execFstr (q u t : Nat) (e : UnitErr) (s : State) : Res :=
  .next ((if 8 ≤ u ∧ u < 12 ∧ t < 16 then s.pumped (16 * (4 * q + (u - 8)) + t) else s).issue q u t e 0x80 State.fstr)

/-- INSTRUCTION_COMPLETE: the quad's streams first go as far as they can. -/
def execInstructionComplete (q u t n : Nat) (s : State) : Res := .next ((s.pumped (64 * q)).complete q u t n)

/-! ### Service at a hub (10 Table 10-9, R228) -/

/-- Does the instance of a quad hold a real-time task in flight: are its reads latency-critical? -/
def State.latencyCritical (s : State) (q : Nat) : Bool :=
  match (s.quadInst q).bind s.inst with
  | some i => i.tasks.any fun t => t.started && bitAt t.flags 0
  | none => false

/-- The reads that wait at a hub: stream and piece. -/
def State.waiters (s : State) (h : Nat) : List (Nat × Pc) :=
  s.fry.streams.flatMap fun e => match e.2.job with
    | some j => (j.out.filter fun p => p.data.isNone && !p.served && !p.refused && s.memHub p.src = some h).map fun p => (e.1, p)
    | none => []

/-- The place of a waiting read in the hub's order: those with allowance left before surplus, latency-critical ones before the others of
their partition's allowance or of the surplus, and surplus in rotation among partitions. -/
def State.serviceKey (s : State) (h : Nat) (x : Nat × Pc) : Nat :=
  let p := (s.quadPart (x.1 / 64)).getD 0
  let cls := if x.2.remote then 2 else 0
  let spent : Bool := decide (s.allowance p h cls 64 ≤ tgetD 0 s.fry.meter (meterKey p h cls))
  (if spent then 128 + rotDist 64 (tgetD 0 s.fry.surplus h) p else 0) + (if s.latencyCritical (x.1 / 64) then 0 else 64)

/-- The hub serves a read: it is charged, and surplus passes to the next partition. -/
def State.serveOne (s : State) (h : Nat) (x : Nat × Pc) : State :=
  let p := (s.quadPart (x.1 / 64)).getD 0
  let s : State := if 128 ≤ s.serviceKey h x then { s with fry := { s.fry with surplus := tsetD 0 s.fry.surplus h ((p + 1) % 64) } } else s
  (s.mapPc x.1 x.2.k fun y => { y with served := true }).chargeEnd x.1 0 x.2.remote x.2.src 0 x.2.len

/-- The hub serves the reads that wait there, in its order, up to piece `k` of stream `n`: what arrives was served. -/
def State.serveTo (n k h : Nat) : Nat → State → State
  | 0, s => s
  | f + 1, s =>
    match (s.waiters h).foldl (fun (b : Option (Nat × Pc)) (x : Nat × Pc) => match b with
        | some y => if s.serviceKey h x < s.serviceKey h y then some x else some y
        | none => some x) none with
    | none => s
    | some x => if x.1 = n ∧ x.2.k = k then s.serveOne h x else State.serveTo n k h f (s.serveOne h x)

/-! ### Responses, granules, refusals -/

/-- The answer to a local read of a piece's source. -/
def State.readPc (s : State) (n : Nat) (p : Pc) (e : MemErr) : State × Acc × List Byte :=
  match p.src with
  | .mem a => s.readEnd (frySrc n) (.addr a) p.len e
  | .elem h v => s.readEnd (frySrc n) (.elem h v) p.len e
  | _ => (s, .held, [])

/-- FERRY_PIECE_RESPONSE: the data of piece `k` of stream `n` arrive. An uncorrectable read of a table's row is late when
the table has a fallback (11 R243), else FRY_MEMERR. -/
def State.pieceResponse (s : State) (n k : Nat) (e : MemErr) : State :=
  let s := s.pumped n
  match s.job n, s.pc n k with
  | some j, some p =>
    if p.data.isSome ∨ p.refused ∨ ¬ s.quadRuns (n / 64) then s
    else
      let s := match s.memHub p.src with
        | some h => if p.served then s else State.serveTo n k h (s.waiters h).length s
        | none => s
      let r := s.readPc n p e
      match r.2.1 with
      | .ok | .queued => (r.1.landPc n k r.2.2).pumped n
      | .held => s
      | .no 4 =>
        let table : Bool := match p.src with
          | .elem h _ => (s.tableOf h).isSome
          | _ => false
        if table ∧ (s.lateRule j.d p.src).1 ≠ 0 then r.1.mapPc n k fun p => { p with refused := true, retried := true }
        else r.1.fryFault n 0x0405
      | .no st => r.1.fryRefuse n k (0, p.len) st
  | _, _ => s

def execFerryPieceResponse (n k : Nat) (err : MemErr) (s : State) : Res :=
  .next (if n < 5120 then s.pieceResponse n k err else s)

/-- The oldest repetition with a granule not yet signalled. -/
def Job.signalling (j : Job) : Option RunAcc :=
  j.accs.find? fun a => !(a.closed && decide (ceilDiv a.all (dGran j.d) ≤ a.full))

/-- Granules of a repetition that are whole in the destination. -/
def Job.fullGranules (j : Job) (a : RunAcc) : Nat :=
  let g := dGran j.d
  let out := j.out.filter (·.run = a.id)
  let vis := out.foldl (fun x p => min x p.off) a.all
  if a.closed ∧ out = [] then ceilDiv vis g else vis / g

/-- GRANULE_FULL_SIGNAL: the next granule's last byte is visible, and FSEM is signalled. -/
def State.granuleFull (s : State) (n : Nat) : State :=
  let s := s.pumped n
  match s.job n with
  | none => s
  | some j =>
    match j.signalling with
    | none => s
    | some a =>
      if dGran j.d = 0 ∨ j.fullGranules a ≤ a.full ∨ ¬ s.quadRuns (n / 64) then s
      else ((s.mapJob n fun j => j.mapAcc a.id fun a => { a with full := a.full + 1 }).signalFull n j.d 1).pumped n

def execGranuleFullSignal (n : Nat) (s : State) : Res := .next (if n < 5120 then s.granuleFull n else s)

/-- What becomes of a piece refused for good: late where the gather has a fallback that it does not carry yet, else FRY_DOMAIN. -/
def State.refusedPc (s : State) (n : Nat) (j : Job) (p : Pc) : State :=
  if (s.lateRule j.d p.src).1 ≠ 0 ∧ ¬ p.fell then s.mapPc n p.k fun p => { p with retried := true } else s.fryFault n 0x0406

/-- DOMAIN_OFF_RETRY: what of a piece was refused with "domain off" is retried once by an alternate route; `again`: it is refused
again (10 R230). -/
def State.domainRetry (s : State) (n k : Nat) (again : Bool) : State :=
  match s.job n, s.pc n k with
  | some j, some p =>
    if ¬ p.refused then s
    else if p.retried ∨ again then s.refusedPc n j p
    else
      let waits : Bool := p.data.isNone && !p.src.away
      let out := if waits then [] else p.nak ++ p.todo
      State.sendOut n k out.length (s.mapPc n k fun p => { p with refused := false, retried := true, nak := [], todo := out })
  | _, _ => s

def execDomainOffRetry (n k : Nat) (again : Bool) (s : State) : Res := .next (if n < 5120 then s.domainRetry n k again else s)

/-- A part of a remote read arrived: the piece lands once all of its bytes are there. The credit of a row replaced by a fallback row
returns with its last part. -/
def State.piecePart (s : State) (n k off : Nat) (bs : List Byte) : State :=
  let s := s.mapPc n k fun p => if p.data.isSome then p else { p with parts := p.parts.filter (·.1 ≠ off) ++ [(off, bs)] }
  let more : Bool := s.fab.outst.any fun o => match o.piece with
    | some x => x.1 = n && x.2.1 = k && o.kind = 1
    | none => false
  if (s.stream n).late.contains k then
    if more then s else (s.setStream n { s.stream n with late := dropFirst (· = k) (s.stream n).late }).pumped n
  else match s.pc n k with
    | none => s
    | some p =>
      if (p.parts.map (·.2.length)).sum < p.len ∨ p.data.isSome then s
      else
        let all := (List.range p.len).map fun i =>
          match p.parts.find? fun x => x.1 ≤ i && i < x.1 + x.2.length with
          | some x => x.2.getD (i - x.1) 0#8
          | none => 0#8
        (s.landPc n k all).pumped n

/-! ### Fallback point and late rows -/

/-- LOOKUP_FALLBACK_POINT of stream `n`: FBSEM has been signalled, and is consumed, and GRACE has passed since the start of
the stage. Every piece that has not arrived, or whose write was refused for good, gets its fallback row. -/
def State.fallbackPoint (s : State) (n : Nat) : State :=
  let s := if s.quadRuns (n / 64) then s.takeFb n else s
  match s.job n with
  | none => s
  | some j =>
    if ¬ s.quadRuns (n / 64) then s
    else
      let due (p : Pc) : Bool := p.reads && !p.fell && s.pastPoint j p.src && (p.data.isNone || (p.refused && p.retried))
      ((j.out.filter due).foldl (fun (s : State) (p : Pc) => s.fallBack n p.k (!p.refused)) s).pumped n

def execLookupFallbackPoint (n : Nat) (s : State) : Res := .next (if n < 5120 then s.fallbackPoint n else s)

/-- LATE_ROW_ARRIVAL: a row replaced by a fallback row arrives, is discarded, and its read credit returns. -/
def State.lateArrival (s : State) (n k : Nat) : State :=
  (s.setStream n { s.stream n with late := dropFirst (· = k) (s.stream n).late }).pumped n

def execLateRowArrival (n k : Nat) (s : State) : Res := .next (if n < 5120 then s.lateArrival n k else s)

/-! ### Metering windows (10 R227, 15 R349) -/

/-- FERRY_METER_WINDOW at hub `h`: a new window. `waited`: the partitions and classes that had waiting requests in the old
one; `scale`: the 64ths of its floors that the hub could deliver. A partition that waited and received less than its
scaled allowance has missed its floor. -/
def State.meterWindow (s : State) (h scale : Nat) (waited : List (Nat × Nat)) : State :=
  let missed := (List.range 64).filter fun p => waited.any fun w => w.1 = p && w.2 < 4 &&
    decide (tgetD 0 s.fry.meter (meterKey p h w.2) < s.allowance p h w.2 (min scale 64))
  let s := missed.foldl (fun (s : State) (p : Nat) =>
    let s := (s.setFld (.ptStat p) PT_STAT_FLOORMISS 1).incFld (.ptStat p) PT_STAT_MISSES 1
    if s.part.floorSaid.contains (4 * p + h) then s
    else ({ s with part := { s.part with floorSaid := s.part.floorSaid ++ [4 * p + h] } } : State).raise p (srcHub h) 0x0902 []) s
  { s with fry := { s.fry with split := tclear (fun k => k % 4 = h) s.fry.split, meter := tclear (fun k => k / 4 % 4 = h) s.fry.meter } }

def execFerryMeterWindow (h scale : Nat) (waited : List (Nat × Nat)) (s : State) : Res :=
  .next (if h < 4 then s.meterWindow h scale waited else s)

end Sys2Proof.Machine
end

