-- ==== Sys2Proof/Machine/Sketch.lean ====
section
/-! DEFINITION. Sketch stacks and near-bank units (05), the near-bank class NBCMD and NBLIST (09 R202, R203), and the
sketch units' SLQ and SSCR (09 R196, R197). -/

namespace Sys2Proof.Machine

/-! ### Banks and their rows (05 R83) -/

def State.nbu (s : State) (g : Nat) : Nbu := tgetD {} s.sk.nbus g
def State.setNbu (s : State) (g : Nat) (v : Nbu) : State := { s with sk := { s.sk with nbus := tsetD {} s.sk.nbus g v } }
def State.mapNbu (s : State) (g : Nat) (f : Nbu → Nbu) : State := s.setNbu g (f (s.nbu g))

/-- Rows of a bank, query rows included. -/
def bankRows : Nat := 49152
/-- The first query row, Q0. -/
def queryRow : Nat := 49136

/-- Is the row in a block under conversion, or in a protected one (05 R99, R100)? -/
def State.rowConverting (s : State) (g r : Nat) : Bool := s.sk.conv.contains (48 * (g / 512) + r / 1024)
def State.rowProtected (s : State) (g r : Nat) : Bool := !bitAt (s.reg (.skRegion (g / 512))).toNat (r / 1024)

/-- Does the bank's own unit screen: its stack's NBU_EN, the unit not retired, the stack in service (05 R109, R110)? -/
def State.nbuServes (s : State) (g : Nat) : Bool :=
  s.flag (.skCtl (g / 512)) SK_CTL_NBU_EN && !s.pwr.nbusOut.contains g && !s.tier.failed.contains (64 + g / 512)

/-! ### Commands (05 R90, R91) -/

/-- Latches of a LATCHMASK, ascending. -/
def latches (m : Nat) : List Nat := (List.range 8).filter (bitAt m)

/-- The rows that a command names. -/
def cmdRows (b : List Byte) : List Nat :=
  match leAt b 0 1 with
  | 0x01 => [queryRow + leAt b 6 2]
  | 0x03 => [leAt b 6 2]
  | 0x04 => (List.range (leAt b 4 1)).map fun n => leAt b (8 + 2 * n) 2
  | 0x05 => rangeFrom (leAt b 6 2) (min (leAt b 8 2) 512)
  | 0x06 => rangeFrom (leAt b 6 2) (min (leAt b 12 1) 64 * bits (leAt b 8 1) 0 4)
  | _ => []

/-- Reserved bytes and bits of a command are 0, and its opcode is assigned: else OPCODE. -/
def cmdForm (b : List Byte) : Bool :=
  leAt b 1 1 = 0 &&
  match leAt b 0 1 with
  | 0x01 => bits (leAt b 5 1) 4 4 = 0 && bits (leAt b 16 2) 10 6 = 0 && zeroRange b 18 32
  | 0x02 => leAt b 5 1 = 0 && bits (leAt b 6 2) 10 6 = 0 && zeroRange b 8 32
  | 0x03 => bits (leAt b 4 1) 1 7 = 0 && leAt b 5 1 = 0 && zeroRange b 10 32
  | 0x04 => bits (leAt b 5 1) 1 7 = 0 && zeroRange b 6 8 && zeroRange b 24 32
  | 0x05 => bits (leAt b 5 1) 1 7 = 0 && zeroRange b 12 32
  | 0x06 => leAt b 4 1 = 0 && bits (leAt b 5 1) 5 3 = 0 && bits (leAt b 8 1) 5 3 = 0 && bits (leAt b 9 1) 4 4 = 0 &&
      bits (leAt b 13 1) 1 7 = 0 && zeroRange b 14 32
  | 0x0F => zeroRange b 4 32
  | _ => false

/-- The fields lie in the ranges of Table 5-5, and the rows in the bank: else RANGE. OFFn of a latch that LATCHMASK does not name is
not read and not checked (DESIGN CHOICE, log entry 89). -/
def cmdRange (hub : Bool) (b : List Byte) : Bool :=
  let rows := cmdRows b
  rows.all (fun r => decide (r < bankRows) && (hub || decide (r < queryRow + 8))) &&
  match leAt b 0 1 with
  | 0x01 =>
    let k := bits (leAt b 5 1) 0 4
    leAt b 4 1 ≠ 0 && decide (k ≤ 8) && decide (leAt b 6 2 ≤ 15) &&
      (latches (leAt b 4 1)).all fun l => decide (leAt b (8 + l) 1 + 2 ^ k ≤ 256)
  | 0x04 =>
    let n := leAt b 4 1
    decide (1 ≤ n) && decide (n ≤ 8) && (rangeFrom n (8 - n)).all fun i => leAt b (8 + 2 * i) 2 = 0
  | 0x05 => decide (1 ≤ leAt b 8 2) && decide (leAt b 8 2 ≤ 512)
  | 0x06 =>
    let bq := bits (leAt b 5 1) 0 4
    let bk := bits (leAt b 8 1) 0 4
    (bq = 4 || bq = 8) && (bk = 4 || bk = 8) && decide (bits (leAt b 9 1) 0 4 ≤ 8) && decide (leAt b 10 2 ≤ 4095) &&
      decide (1 ≤ leAt b 12 1) && decide (leAt b 12 1 ≤ 64)
  | _ => true

/-- Rows per mask span. -/
def spanRows (seg512 : Bool) : Nat := if seg512 then 512 else 256

/-- Lanes of a row of a DOT. -/
def dotLanes (b : List Byte) : Nat := rowBits / (32 * 2 ^ bits (leAt b 9 1) 0 4)

/-- The status a command starts with (05 Table 5-6): 0 when it may run. -/
def State.cmdStatus (s : State) (g : Nat) (c : NbuCmd) : Nat :=
  let b := c.bytes
  let u := s.nbu g
  let op := leAt b 0 1
  if cmdForm b = false then 6
  else if cmdRange c.hub b = false then 2
  else if (cmdRows b).any (s.rowConverting g) then 9
  else if (cmdRows b).any (s.rowProtected g) then 1
  else if op = 5 ∧ (¬ u.maskOn ∨ u.seg512 ≠ bitAt (leAt b 5 1) 0 ∨ leAt b 6 2 < u.mbase ∨
      u.mbase + spanRows u.seg512 < leAt b 6 2 + leAt b 8 2) then 3
  else if op = 5 ∧ ¬ ((latches (leAt b 4 1)).all (bitAt u.loaded)) then 4
  else if op = 6 ∧ ¬ ((List.range (bits (leAt b 5 1) 0 4)).all (bitAt u.loaded)) then 4
  else if op = 6 ∧ 4096 < leAt b 10 2 + leAt b 12 1 * dotLanes b then 5
  else 0

/-- A command ends with OK: its tokens wait for the hub's poll. -/
def Nbu.okay (u : Nbu) (c : NbuCmd) : Nbu := { u with doneTok := leAt c.bytes 2 2, doneList := u.doneList ++ c.toks }

/-- The quads whose work a command is. -/
def NbuCmd.quads (c : NbuCmd) : List Nat := ((if c.who = [] then [c.src] else c.who.map (·.2.1)).map (· / 16)).eraseDups

/-- A command ends with another status: counted, reported in the issuing quad's log with the stack's source and the bank (17 R395), its
instance aborted; ABORTED only answers. A parity error is also counted, and a second one within 24 hours retires the unit (05 R92,
R109). -/
def State.nbuEnds (s : State) (g : Nat) (c : NbuCmd) (st : Nat) : State :=
  let s := s.mapNbu g fun u => { u with errTok := leAt c.bytes 2 2, err := st }
  if st = 8 then s
  else
    let n := g / 512
    let s := (s.incFld (.skErr n) SK_ERR_REFUSED 1).setFld (.skErr n) SK_ERR_LASTCODE st
    let s := if st = 7 then
        let again := withinDay s.sk.parity g s.svcTime
        let s := (s.incFld (.skErr n) SK_ERR_PARITY 1).setFld (.skErr n) SK_ERR_PARSEEN 1
        let s : State := { s with sk := { s.sk with parity := tins g s.svcTime s.sk.parity } }
        if again ∧ ¬ s.pwr.nbusOut.contains g then
          ({ s with pwr := { s.pwr with nbusOut := s.pwr.nbusOut ++ [g] } } : State).raise modLog (srcSk n) 0x0B09 (leBytes 2 g)
        else s
      else s
    c.quads.foldl (fun (s : State) q => s.quadFault q (srcSk n) 0x0309 (leBytes 2 g ++ leBytes 2 st ++ leBytes 2 (leAt c.bytes 2 2))) s

/-- A field of 32 · 2^k bits replicated across a row. -/
def replicate (k field : Nat) : Nat :=
  let w := 32 * 2 ^ k
  (List.range (rowBits / w)).foldl (fun a i => a + field * 2 ^ (w * i)) 0

/-- LOADQ. -/
def Nbu.loadq (u : Nbu) (b : List Byte) (row : Nat) : Nbu :=
  let k := bits (leAt b 5 1) 0 4
  (latches (leAt b 4 1)).foldl (fun (u : Nbu) l =>
    { u with
      latch := tsetD 0 u.latch l (replicate k (bits row (32 * leAt b (8 + l) 1) (32 * 2 ^ k)))
      thr := tsetD 0 u.thr l (leAt b 16 2 % 1024)
      loaded := putBits u.loaded l 1 1
      hist := tclear (fun i => i / 64 = l) u.hist }) u

/-- SETTHR. -/
def Nbu.setthr (u : Nbu) (b : List Byte) : Nbu :=
  (latches (leAt b 4 1)).foldl (fun (u : Nbu) l => { u with thr := tsetD 0 u.thr l (leAt b 6 2 % 1024) }) u

/-- MASKT: the mask is the complement of the tombstone row. -/
def Nbu.maskt (u : Nbu) (b : List Byte) (row : Nat) : Nbu :=
  { u with mask := 2 ^ rowBits - 1 - row, maskOn := true, mbase := leAt b 8 2, seg512 := bitAt (leAt b 4 1) 0 }

/-- One row of CLAUSE; with the last, the clause joins the mask. -/
def Nbu.clauseRow (u : Nbu) (b : List Byte) (row : Nat) : Nbu :=
  let cl := if u.prog = 0 then row else u.clause ||| row
  { u with clause := cl, prog := u.prog + 1, mask :=
      if u.prog + 1 < leAt b 4 1 then u.mask else u.mask &&& (if bitAt (leAt b 5 1) 0 then 2 ^ rowBits - 1 - cl else cl) }

/-- A hit record (05 R87). -/
def hitRec (row slot latch dist tag : Nat) : Nat :=
  row % 2 ^ 16 + slot * 2 ^ 16 + latch * 2 ^ 21 + dist * 2 ^ 24 + tag % 2 ^ 16 * 2 ^ 48

/-- A hit of a command: the hub forwards it to the query of its latch, under that query's tag. -/
def NbuCmd.hit (c : NbuCmd) (row slot latch dist : Nat) : NbuHit :=
  let r := hitRec row slot latch dist (leAt c.bytes 10 2)
  match c.who.find? (·.1 = latch) with
  | some w => ⟨r, w.2.1, hitRec row slot latch dist w.2.2⟩
  | none => ⟨r, c.src, r⟩

/-- One row operation of SCREEN on row `r`: every latch of the mask, every slot (05 R85). -/
def Nbu.screenRow (u : Nbu) (c : NbuCmd) (r row : Nat) : Nbu :=
  let w := if u.seg512 then 512 else 256
  let sh := if u.seg512 then 3 else 2
  let slots := rowBits / w
  (latches (leAt c.bytes 4 1)).foldl (fun (u : Nbu) l =>
    (List.range slots).foldl (fun (u : Nbu) i =>
      if bitAt u.mask ((r - u.mbase) * slots + i) then
        let d := popCount w (bits row (w * i) w ^^^ bits (tgetD 0 u.latch l) (w * i) w)
        let bin := 64 * l + min 63 (d >>> sh)
        let u := { u with hist := tsetD 0 u.hist bin (satAdd 0xFFFF (tgetD 0 u.hist bin) 1) }
        if d ≤ tgetD 0 u.thr l then { u with fifo := u.fifo ++ [c.hit r i l d] } else u
      else u) u) { u with prog := u.prog + 1 }

/-- Records that a row operation of SCREEN puts into the FIFO at most (05 R87). -/
def Nbu.mostHits (u : Nbu) (b : List Byte) : Nat := (if u.seg512 then 16 else 32) * (latches (leAt b 4 1)).length

/-- One row operation of DOT (05 R88), on plane `prog` modulo BK of its group: lanes wrap modulo 2^32; with CLEAR, the first zeroes the
lanes that the command writes. -/
def Nbu.dotRow (u : Nbu) (b : List Byte) (row : Nat) : Nbu :=
  let bq := bits (leAt b 5 1) 0 4
  let bk := bits (leAt b 8 1) 0 4
  let w := 32 * 2 ^ bits (leAt b 9 1) 0 4
  let lanes := dotLanes b
  let base := leAt b 10 2
  let g := u.prog / bk
  let p := u.prog % bk
  let sums := if u.prog = 0 ∧ bitAt (leAt b 13 1) 0 then tclear (fun i => base ≤ i && i < base + leAt b 12 1 * lanes) u.sums else u.sums
  let one (n : Nat) : Int := ((List.range bq).map fun a =>
    let c : Int := popCount w (bits row (w * n) w &&& bits (tgetD 0 u.latch a) (w * n) w)
    let neg := (bitAt (leAt b 5 1) 4 && a = bq - 1) != (bitAt (leAt b 8 1) 4 && p = bk - 1)
    (if neg then -1 else 1) * 2 ^ (a + p) * c).sum
  { u with prog := u.prog + 1, sums := (List.range lanes).foldl (fun t n =>
      let i := base + g * lanes + n
      tsetD 0 t i (toTwos 32 (tgetD 0 t i + one n))) sums }

/-! ### The read port (05 R94) -/

/-- Commands queued: the one in progress is not counted. -/
def Nbu.qdepth (u : Nbu) : Nat := u.cmds.length - if u.prog = 0 then 0 else 1

/-- The status bytes (05 Table 5-8). -/
def Nbu.status (u : Nbu) (throt : Bool) : List Byte :=
  leBytes 1 ((if u.qdepth < 4 then 1 else 0) + (if u.cmds = [] then 2 else 0) + if throt then 4 else 0) ++ leBytes 1 u.qdepth ++
    leBytes 2 u.fifo.length ++ leBytes 2 u.doneTok ++ leBytes 2 u.errTok ++ leBytes 1 u.err ++ leBytes 23 0

/-- A read of 32 bytes at an offset of the read port (05 Table 5-7). One of the FIFO window removes the four oldest records; slots
without one read as all ones. -/
def Nbu.port (u : Nbu) (throt : Bool) (off : Nat) : Nbu × List Byte :=
  if off < 0x100 then (u, u.status throt)
  else if off < 0x400 then
    ({ u with fifo := u.fifo.drop 4 }, (List.range 4).flatMap fun i => leBytes 8 (((u.fifo[i]?).map NbuHit.raw).getD (2 ^ 64 - 1)))
  else if off < 0x800 then (u, (List.range 16).flatMap fun i => leBytes 2 (tgetD 0 u.hist ((off - 0x400) / 2 + i)))
  else (u, (List.range 8).flatMap fun i => leBytes 4 (tgetD 0 u.sums ((off - 0x4000) / 4 + i)))

/-! ### Execution at a bank -/

/-- Is the opcode one of Table 5-4? -/
def nbuOpcode (op : Nat) : Bool := (1 ≤ op && op ≤ 6) || op = 0x0F

/-- May a new command start: not while the stack's hottest die is at its limit (05 R103)? -/
def State.nbuStarts (s : State) (g : Nat) : Bool := !(s.flag (.skTstat (g / 512)) SK_TSTAT_HTHROT)

/-- SETTHR and ABORT never enter a bank's queue (05 R90). -/
def NbuCmd.queued (c : NbuCmd) : Bool := leAt c.bytes 0 1 ≠ 2 && leAt c.bytes 0 1 ≠ 0x0F

/-- The first command that the hub holds back and that enters the queue, and the others. -/
def takeQueued : List NbuCmd → Option (NbuCmd × List NbuCmd)
  | [] => none
  | c :: cs => if c.queued then some (c, cs) else match takeQueued cs with
    | some (x, rest) => some (x, c :: rest)
    | none => none

/-- The hub's commands of a bank. -/
def State.hubCmds (s : State) (g : Nat) : List NbuCmd := tgetD [] s.sk.hubq g
def State.setHubCmds (s : State) (g : Nat) (cs : List NbuCmd) : State := { s with sk := { s.sk with hubq := tsetD [] s.sk.hubq g cs } }
def State.scansOf (s : State) (g : Nat) : List ListScan := tgetD [] s.sk.scans g
def State.setScans (s : State) (g : Nat) (l : List ListScan) : State := { s with sk := { s.sk with scans := tsetD [] s.sk.scans g l } }

/-- The hub gives a bank a command with a fresh token, which its bytes carry; `toks` gives the tokens that its end returns. -/
def State.nbuSend (s : State) (g : Nat) (c : NbuCmd) (toks : Nat → List (Nat × Nat)) : State × Nat :=
  let tok := s.sk.nextTok
  let c := { c with bytes := c.bytes.take 2 ++ leBytes 2 tok ++ bytesAt c.bytes 4 28, toks := toks tok }
  let s := s.setHubCmds g (s.hubCmds g ++ [c])
  ({ s with sk := { s.sk with nextTok := (tok + 1) % 65536 } }, tok)

/-- Bytes of a query sketch. -/
def sketchBytes (width : Nat) : Nat := 32 * 2 ^ width

/-- Two queries that one SCREEN may serve: the same list with the same clauses (05 R98). -/
def ListScan.mate (a b : ListScan) : Bool :=
  a.dir = b.dir && leAt a.rec_ 8 2 = leAt b.rec_ 8 2 && leAt a.rec_ 16 4 = leAt b.rec_ 16 4 && bytesAt a.rec_ 32 64 = bytesAt b.rec_ 32 64

/-- The commands of queries that probe one list together: a LOADQ of one latch each from query row Q8, whose places the hub chooses
(DESIGN CHOICE, log entry 14), and per span of the list MASKT, the CLAUSEs and SCREEN. -/
def scanCmds (ps : List ListScan) : List (List Byte) :=
  match ps with
  | [] => []
  | p :: _ =>
    let width := leAt p.rec_ 8 1
    let start := leAt p.dir 2 2
    let count := leAt p.dir 4 2
    let sp := spanRows (width = 1)
    let loadq (i : Nat) : List Byte :=
      [1#8, 0#8, 0#8, 0#8] ++ leBytes 1 (2 ^ i) ++ leBytes 1 (3 + width) ++ leBytes 2 8 ++
        ((List.range 8).flatMap fun k => leBytes 1 (if k = i then i * sketchBytes width / 4 else 0)) ++
        leBytes 2 (leAt ((ps[i]?).getD p).rec_ 10 2 % 1024)
    let span (i : Nat) : List (List Byte) :=
      let b := (start / sp + i) * sp
      let row := leAt p.dir 6 2 + i * leAt p.dir 8 2
      let first := max start b
      let last := min (start + count) (b + sp)
      [[3#8, 0#8, 0#8, 0#8] ++ leBytes 2 width ++ leBytes 2 row ++ leBytes 2 b] ++
      ((List.range (leAt p.rec_ 9 1)).map fun c =>
        let n := leAt p.rec_ (16 + c) 1 % 16
        [4#8, 0#8, 0#8, 0#8] ++ leBytes 1 n ++ leBytes 1 (bits (leAt p.rec_ (16 + c) 1) 4 1) ++ leBytes 2 0 ++
          (List.range n).flatMap fun v => leBytes 2 (row + 1 + leAt p.rec_ (32 + 16 * c + 2 * v) 2)) ++
      [[5#8, 0#8, 0#8, 0#8] ++ leBytes 1 (2 ^ ps.length - 1) ++ leBytes 1 width ++ leBytes 2 first ++ leBytes 2 (last - first) ++ leBytes 2 p.tag]
    (List.range ps.length).map loadq ++ (List.range ((start + count - 1) / sp - start / sp + 1)).flatMap span

/-- A free bank takes up to eight waiting queries of one list and clauses, in arrival order (05 R98, 09 R203). The last command returns
their tokens. -/
def State.startScans (s : State) (g : Nat) : State :=
  match s.scansOf g with
  | [] => s
  | p :: _ =>
    if (s.nbu g).cmds ≠ [] ∨ s.hubCmds g ≠ [] then s
    else
      let ps := ((s.scansOf g).filter (ListScan.mate p)).take 8
      let s := s.setScans g ((s.scansOf g).filter fun x => !(ps.contains x))
      let s := (List.range ps.length).foldl (fun (s : State) i => match ps[i]? with
        | some x => s.wr (rowAddr g (queryRow + 8) + i * x.sketch.length) x.sketch
        | none => s) s
      let who := (List.range ps.length).filterMap fun i => (ps[i]?).map fun x => (i, x.src, x.tag)
      let cmds := scanCmds ps
      (List.range cmds.length).foldl (fun (s : State) i =>
        (s.nbuSend g { bytes := cmds.getD i [], src := p.src, thr := p.thr, hub := true, who := who }
          fun _ => if i + 1 = cmds.length then ps.map fun x => (x.tok, x.src) else []).1) s

/-- The hub writes commands to a bank while the status port shows QDEPTH below 4 and the stack is below its limit (05 R90, R103), and
gives a free bank its waiting queries. -/
def State.feedBank (g : Nat) : Nat → State → State
  | 0, s => s
  | f + 1, s =>
    let s := s.startScans g
    match takeQueued (s.hubCmds g) with
    | some (c, rest) =>
      if ¬ s.nbuStarts g ∨ 4 ≤ (s.nbu g).qdepth then s
      else State.feedBank g f ((s.setHubCmds g rest).mapNbu g fun u => { u with cmds := u.cmds ++ [c] })
    | none => s
def State.fed (s : State) (g : Nat) : State := State.feedBank g 8 s

/-- The bank's front command executes when it is one of opcode `op`, or one of no assigned opcode; one in progress goes on whatever
the stack's temperature and its blocks' conversion (05 R103, Table 5-13). `parity`: an error is found in the unit's storage. `f` has the
command's effect, and whether it is over. -/
def State.nbuRun (s : State) (g op : Nat) (parity : Bool) (f : Nbu → NbuCmd → Nbu × Bool) : State :=
  let u := s.nbu g
  match u.cmds with
  | [] => s
  | c :: rest =>
    let mine := leAt c.bytes 0 1 = op ∨ nbuOpcode (leAt c.bytes 0 1) = false
    if ¬ mine ∨ (u.prog = 0 ∧ ¬ s.nbuStarts g) then s
    else
      let st := if parity then 7 else if u.prog = 0 then s.cmdStatus g c else 0
      if st ≠ 0 then ((s.mapNbu g fun u => { u with cmds := rest, prog := 0 }).nbuEnds g c st).fed g
      else
        let r := f u c
        if r.2 then (s.setNbu g ({ r.1 with cmds := rest, prog := 0 }.okay c)).fed g else s.setNbu g r.1

/-- Up to `ops` row operations of a command of `total`: `rows` gives the k-th row, and one runs while `room` holds. -/
def rowOps (total ops : Nat) (room : Nbu → Bool) (f : Nbu → Nat → Nbu) (u : Nbu) : Nbu × Bool :=
  let r := (List.range (min ops total)).foldl (fun (u : Nbu) _ => if u.prog < total ∧ room u then f u u.prog else u) u
  (r, r.prog = total)

def State.loadq (s : State) (g : Nat) (parity : Bool) : State :=
  s.nbuRun g 1 parity fun u c => (u.loadq c.bytes (s.skRow g (queryRow + leAt c.bytes 6 2)), true)
def State.maskt (s : State) (g : Nat) (parity : Bool) : State :=
  s.nbuRun g 3 parity fun u c => (u.maskt c.bytes (s.skRow g (leAt c.bytes 6 2)), true)
def State.clauseCmd (s : State) (g ops : Nat) (parity : Bool) : State :=
  s.nbuRun g 4 parity fun u c => rowOps (leAt c.bytes 4 1) ops (fun _ => true)
    (fun u k => u.clauseRow c.bytes (s.skRow g (leAt c.bytes (8 + 2 * k) 2))) u
def State.dotCmd (s : State) (g ops : Nat) (parity : Bool) : State :=
  s.nbuRun g 6 parity fun u c => rowOps (leAt c.bytes 12 1 * bits (leAt c.bytes 8 1) 0 4) ops (fun _ => true)
    (fun u k => u.dotRow c.bytes (s.skRow g (leAt c.bytes 6 2 + k))) u

/-- SCREEN: the row operations for which the FIFO has room (05 R87). -/
def State.screen (s : State) (g ops : Nat) (parity : Bool) : State :=
  s.nbuRun g 5 parity fun u c => rowOps (leAt c.bytes 8 2) ops (fun u => decide (u.fifo.length + u.mostHits c.bytes ≤ 512))
    (fun u k => u.screenRow c (leAt c.bytes 6 2 + k) (s.skRow g (leAt c.bytes 6 2 + k))) u

def execLoadq (g : Nat) (parity : Bool) (s : State) : Res := .next (if g < 4096 then s.loadq g parity else s)
def execMaskt (g : Nat) (parity : Bool) (s : State) : Res := .next (if g < 4096 then s.maskt g parity else s)
/-- `ops`: the row operations that run before the hub turns to another access of the bank (05 R104); the rest stays in progress. -/
def execClause (g ops : Nat) (parity : Bool) (s : State) : Res := .next (if g < 4096 then s.clauseCmd g ops parity else s)
def execScreen (g ops : Nat) (parity : Bool) (s : State) : Res := .next (if g < 4096 then s.screen g ops parity else s)
def execDot (g ops : Nat) (parity : Bool) (s : State) : Res := .next (if g < 4096 then s.dotCmd g ops parity else s)

/-- The first command of an opcode on its way to the bank, and the others. -/
def takeCmd (op : Nat) : List NbuCmd → Option (NbuCmd × List NbuCmd)
  | [] => none
  | c :: cs => if leAt c.bytes 0 1 = op then some (c, cs) else match takeCmd op cs with
    | some (x, rest) => some (x, c :: rest)
    | none => none

/-- SETTHR takes effect on arrival and never enters the queue (05 R90). -/
def State.setthr (s : State) (g : Nat) : State :=
  match takeCmd 2 (s.hubCmds g) with
  | none => s
  | some (c, rest) =>
    if ¬ s.nbuStarts g then s
    else
      let s := s.setHubCmds g rest
      let st := s.cmdStatus g c
      if st ≠ 0 then s.nbuEnds g c st else s.mapNbu g fun u => (u.setthr c.bytes).okay c

def execSetthr (g : Nat) (s : State) : Res := .next (if g < 4096 then s.setthr g else s)

/-- The command in progress and every queued one are discarded with ABORTED, and the FIFO emptied (05 R93). -/
def State.nbuDiscard (s : State) (g : Nat) : State :=
  let u := s.nbu g
  let s := s.setNbu g { u with cmds := [], prog := 0, fifo := [] }
  u.cmds.foldl (fun (s : State) (c : NbuCmd) => s.nbuEnds g c 8) s

/-- ABORT, on arrival. -/
def State.nbuAbort (s : State) (g : Nat) : State :=
  match takeCmd 0x0F (s.hubCmds g) with
  | none => s
  | some (c, rest) =>
    if ¬ s.nbuStarts g then s
    else
      let s := s.setHubCmds g rest
      let st := s.cmdStatus g c
      if st ≠ 0 then s.nbuEnds g c st else ((s.nbuDiscard g).mapNbu g fun u => u.okay c).fed g

/-- The hub sends ABORT to every bank that holds commands or hits of the masters `mine`, and drops what it holds back for them (05
R93). -/
def State.abortMaster (s : State) (mine : Nat → Bool) : State :=
  let has (c : NbuCmd) : Bool := mine c.src || c.who.any fun w => mine w.2.1
  let s : State := { s with sk := { s.sk with
    hubq := tmapD [] (fun _ cs => cs.filter fun c => !(has c)) s.sk.hubq
    scans := tmapD [] (fun _ l => l.filter fun x => !(mine x.src)) s.sk.scans } }
  let banks := (s.sk.nbus.filter fun e => e.2.cmds.any has || e.2.fifo.any fun h => mine h.src).map (·.1)
  banks.foldl (fun (s : State) g => (s.nbuDiscard g).fed g) s

/-- The units of banks, and what the hub holds for them, are cleared (05 R84). -/
def State.clearNbus (s : State) (out : Nat → Bool) : State :=
  { s with sk := { s.sk with nbus := tclear out s.sk.nbus, hubq := tclear out s.sk.hubq, scans := tclear out s.sk.scans } }

def execAbort (g : Nat) (s : State) : Res := .next (if g < 4096 then s.nbuAbort g else s)

/-! ### The hub's poll (05 R95) -/

def State.xu (s : State) (q : Nat) : XuSt := tgetD {} s.eng.xu q
def State.setXu (s : State) (q : Nat) (v : XuSt) : State := { s with eng := { s.eng with xu := tsetD {} s.eng.xu q v } }

/-- A hit goes to the port of its quad's select unit. -/
def State.hitTo (s : State) (q hit : Nat) : State := s.setXu q { s.xu q with port := (s.xu q).port ++ [hit] }

/-- A token is back: the instructions of the quad's sketch unit no longer wait for it. -/
def State.tokenBack (s : State) (src tok : Nat) : State :=
  (List.range 16).foldl (fun (s : State) (t : Nat) => s.mapThread (src / 16) (src % 16) t fun th =>
    { th with issued := th.issued.map fun i => { i with tokens := dropFirst (· = tok) i.tokens } }) s

/-- One read of the FIFO window: its records are forwarded. -/
def State.pollRead (s : State) (g : Nat) : State :=
  let u := s.nbu g
  (u.fifo.take 4).foldl (fun (s : State) h => s.hitTo (h.src / 16) h.out) (s.setNbu g (u.port false 0x100).1)

/-- NBU_STATUS_POLL of bank `g`: the hub reads the FIFO as often as the status asks, and then the tokens of commands completed with OK
return. -/
def State.poll (s : State) (g : Nat) : State :=
  let n := leAt ((s.nbu g).port (s.flag (.skTstat (g / 512)) SK_TSTAT_UTHROT) 0).2 2 2
  let s := (List.range (ceilDiv n 4)).foldl (fun (s : State) _ => s.pollRead g) s
  let u := s.nbu g
  u.doneList.foldl (fun (s : State) (d : Nat × Nat) => s.tokenBack d.2 d.1) (s.setNbu g { u with doneList := [] })

def execNbuStatusPoll (g : Nat) (s : State) : Res := .next (if g < 4096 then s.poll g else s)

/-! ### The near-bank class (09 R202, R203) -/

/-- A command of NBCMD: the hub delivers it, and its token is the answer. -/
def State.nbuIssue (s : State) (g src thr : Nat) (hub : Bool) (b : List Byte) : State × Nat :=
  let r := s.nbuSend g { bytes := b, src := src, thr := thr, hub := hub } fun tok => [(tok, src)]
  (r.1.fed g, r.2)

/-- RBASE is added to START, TROW, SPANBASE and ROW0-ROW7 of a template. -/
def relocate (b : List Byte) (rbase : Nat) : List Byte :=
  let add (off : Nat) (b : List Byte) : List Byte := b.take off ++ leBytes 2 (leAt b off 2 + rbase) ++ b.drop (off + 2)
  match leAt b 0 1 with
  | 0x03 => add 8 (add 6 b)
  | 0x04 => (List.range (min 8 (leAt b 4 1))).foldl (fun b n => add (8 + 2 * n) b) b
  | 0x05 => add 6 b
  | 0x06 => add 6 b
  | _ => b

/-- How a taking of entries or bundles stands: all are taken, more are to come, the stream ended too early, one is malformed. -/
inductive TakeEnd where
  | all
  | more
  | short
  | bad
deriving DecidableEq, Repr

/-- Entries of `w` bytes of an index stream that are there, at most `n` of them or, with 0, up to its end mark. -/
def State.takeEntries (s : State) (p w n : Nat) : Nat → List Nat → State × List Nat × TakeEnd
  | 0, acc => (s, acc, .more)
  | f + 1, acc =>
    if n ≠ 0 ∧ acc.length = n then (s, acc, .all)
    else match s.takeIndex p w with
      | .got e s => State.takeEntries s p w n f (acc ++ [e])
      | .mark s => (s, acc, if n = 0 then .all else .short)
      | .short => (s, acc, if n = 0 then .all else .short)
      | .dry => (s, acc, .more)

/-- An instruction of the near-bank class has issued its commands: their tokens end it. -/
def State.awaitTokens (s : State) (x : Iss) (toks : List Nat) : State := s.join x { op := x.op, sig := x.sig, o := x.o, tokens := toks }

/-- One command of NBCMD; `none`: its bank lies outside the quad's partition. -/
def State.nbcmdOne (s : State) (x : Iss) (b : List Byte) (g rb : Nat) (toks : List Nat) : Option (State × List Nat) :=
  if s.quadPart x.q ≠ some (s.owner 4 g) then none
  else
    let r := s.nbuIssue g x.src x.t false (if x.f 13 1 = 1 then relocate b rb else b)
    some (r.1, toks ++ [r.2])

/-- NBCMD: a command for its bank, or one for each entry as it arrives. A bank outside the quad's partition is ADDR. -/
def State.nbcmd (s : State) (x : Iss) : Option State :=
  let r := s.spadRead x.q (32 * x.f 20 21) 32
  match r.2 with
  | none => some (r.1.fault x 0x0306)
  | some b =>
    if x.f 12 1 = 0 then
      match r.1.nbcmdOne x b (x.f 0 12) 0 [] with
      | some (s, toks) => some (s.awaitTokens x toks)
      | none => some (r.1.fault x 0x0306)
    else
      let p := portOf x.q (x.f 14 6)
      let c := x.f 41 16
      let y := r.1.takeEntries p 4 (if c = 0 then 0 else c - x.k) 65537 []
      let res := y.2.1.foldl (fun (a : Option (State × List Nat)) e => a.bind fun a => a.1.nbcmdOne x b (bits e 0 12) (bits e 12 16) a.2)
        (some (y.1, x.toks))
      match res, y.2.2 with
      | none, _ => some (y.1.fault x 0x0306)
      | some (s, toks), .all => some (s.awaitTokens x toks)
      | some (s, toks), .more => some (s.stay { x with k := x.k + y.2.1.length, toks })
      | some (s, _), _ => some (s.fryFault p 0x0402)

def execNbcmd (q u t : Nat) (e : UnitErr) (s : State) : Res := .next (s.issue q u t e 0x90 State.nbcmd)

/-- The screen record's form (09 Table 9-9): WIDTH 0 or 1, NCL at most 4, clause sizes 1 to 8, reserved bits 0. -/
def screenRecOk (r : List Byte) : Bool :=
  decide (leAt r 8 1 ≤ 1) && decide (leAt r 9 1 ≤ 4) && bits (leAt r 10 2) 10 6 = 0 && zeroRange r 12 16 &&
  (List.range (leAt r 9 1)).all (fun c => decide (1 ≤ leAt r (16 + c) 1 % 16) && decide (leAt r (16 + c) 1 % 16 ≤ 8) && leAt r (16 + c) 1 / 32 = 0) &&
  zeroRange r 20 24 && decide (leAt r 0 8 < 2 ^ 40) && decide (leAt r 24 8 < 2 ^ 40) && zeroRange r 96 128

/-- One list of an NBLIST in its bank: the query waits for the bank, and starts at once where it is free. -/
def State.nblistBank (s : State) (src thr qtag ord : Nat) (rec_ dir sketch : List Byte) : State × Nat :=
  let g := bits (leAt dir 0 2) 0 12
  let tok := s.sk.nextTok
  let s : State := { s with sk := { s.sk with nextTok := (tok + 1) % 65536 } }
  ((s.setScans g (s.scansOf g ++ [⟨src, thr, tok, qtag * 4096 + ord % 4096, dir, rec_, sketch⟩])).fed g, tok)

/-- One list of NBLIST, with its directory entry at `a`: `none` is ADDR. A list with PLACE = 1, or whose bank's unit does not
serve, goes to HSTR (05 R109); a list of a lost stack is absent (02 Table 2-12). -/
def State.nblistOne (s : State) (x : Iss) (rec_ sketch : List Byte) (e a : Nat) (toks : List Nat) (ord : Nat) : Option (State × List Nat × Nat) :=
  if ¬ s.unitRange x.q a 32 then none
  else
    let dir := s.rd a 32
    let g := bits (leAt dir 0 2) 0 12
    let su := bitAt (leAt dir 0 2) 12
    if leAt dir 4 2 = 0 ∨ (¬ su ∧ s.tier.failed.contains (64 + g / 512)) then some (s, toks, ord + 1)
    else if su ∨ ¬ s.nbuServes g then some (s.putStream (portOf x.q (x.f 29 6)) (leBytes 8 (e + ord % 4096 * 2 ^ 32)), toks, ord + 1)
    else if s.quadPart x.q ≠ some (s.owner 4 g) then none
    else
      let r := s.nblistBank x.src x.t (x.f 25 4) ord rec_ dir sketch
      some (r.1, toks ++ [r.2], ord + 1)

/-- NBLIST: the lists of ISTR as they arrive, up to its end mark; HSTR gets an end mark when the lists are over (10 R219). -/
def State.nblist (s : State) (x : Iss) : Option State :=
  let r := s.spadRead x.q (128 * x.f 6 19) 128
  match r.2 with
  | none => some (r.1.fault x 0x0306)
  | some rec_ =>
    let dirA := bits (leAt rec_ 0 8) 0 40
    let sk := sketchBytes (leAt rec_ 8 1)
    let qa := bits (leAt rec_ 24 8) 0 40
    if screenRecOk rec_ = false then some (r.1.fault x 0x0301)
    else if screenRecAligned rec_ = false ∨ ¬ s.unitRange x.q qa sk then some (r.1.fault x 0x0306)
    else
      let y := r.1.takeEntries (portOf x.q (x.f 0 6)) 4 0 65537 []
      let res := y.2.1.foldl (fun (a : Option (State × List Nat × Nat)) e =>
        a.bind fun a => a.1.nblistOne x rec_ (y.1.rd qa sk) e (dirA + 32 * e) a.2.1 a.2.2) (some (y.1, x.toks, x.k))
      match res, y.2.2 with
      | none, _ => some (y.1.fault x 0x0306)
      | some (s, toks, k), .more => some (s.stay { x with k, toks })
      | some (s, toks, _), _ =>
        let hs := portOf x.q (x.f 29 6)
        some ((s.setStream hs { s.stream hs with fromEnd := true }).awaitTokens x toks)

def execNblist (q u t : Nat) (e : UnitErr) (s : State) : Res := .next (s.issue q u t e 0x91 State.nblist)

/-! ### The sketch unit (09 R196, R197) -/

def State.slot (s : State) (q k : Nat) : Option SuSlot := (tgetO s.eng.slots (8 * q + k)).join
def State.setSlot (s : State) (q k : Nat) (v : Option SuSlot) : State :=
  { s with eng := { s.eng with slots := tsetD none s.eng.slots (8 * q + k) v } }

/-- SLQ. -/
def State.slq (s : State) (x : Iss) : State :=
  let w := x.f 3 2
  let off := x.f 19 26
  if off % 32 ≠ 0 then s.fault x 0x0306
  else
    let r := s.spadRead x.q off (sketchBytes w)
    match r.2 with
    | none => r.1.fault x 0x0306
    | some bs => (r.1.setSlot x.q (x.f 0 3) (some ⟨ofLE bs, w, x.f 5 10, x.f 15 4⟩)).later x

def execSlq (q u t : Nat) (e : UnitErr) (s : State) : Res := .next (s.issue q u t e 0x60 fun s x => some (s.slq x))

/-- A bundle's header is well-formed for the slots in use (09 Table 9-8, R197). -/
def bundleOk (hdr : List Byte) (slots : List SuSlot) : Bool :=
  let width := leAt hdr 2 1 % 4
  let per := 32 / 2 ^ width
  bits (leAt hdr 0 2) 12 4 = 0 && width ≠ 3 && leAt hdr 2 1 / 8 = 0 && decide (leAt hdr 3 1 ≤ 4) &&
  (List.range 4).all (fun c => leAt hdr (4 + c) 1 / 32 = 0 &&
    (decide (leAt hdr 3 1 ≤ c) || (decide (1 ≤ leAt hdr (4 + c) 1 % 16) && decide (leAt hdr (4 + c) 1 % 16 ≤ 8)))) &&
  decide (1 ≤ leAt hdr 10 2) && decide (leAt hdr 12 2 + leAt hdr 10 2 ≤ rowBits / per) && zeroRange hdr 14 32 &&
  bitAt (leAt hdr 2 1) 2 = decide (0xC000 ≤ leAt hdr 8 2) && slots.all (·.width = width)

/-- The hits of a bundle, in the order of 05 R85: rows, then slots of the unit, then places. A distance of 1,024 counts as 1,023 (02 R20). -/
def bundleHits (hdr : List Byte) (rows : List Nat) (slots : List (Nat × SuSlot)) : List Nat :=
  let width := leAt hdr 2 1 % 4
  let w := 256 * 2 ^ width
  let per := rowBits / w
  let ncl := leAt hdr 3 1
  let mask0 := 2 ^ rowBits - 1 - rows.getD 0 0
  let st := (List.range ncl).foldl (fun (a : Nat × Nat) c =>
    let n := leAt hdr (4 + c) 1 % 16
    let cl := ((rows.drop a.2).take n).foldl (· ||| ·) 0
    (a.1 &&& (if bitAt (leAt hdr (4 + c) 1) 4 then 2 ^ rowBits - 1 - cl else cl), a.2 + n)) (mask0, 1)
  (List.range (leAt hdr 10 2)).flatMap fun i =>
    let row := rows.getD (st.2 + i) 0
    slots.flatMap fun sl =>
      (List.range per).filterMap fun p =>
        let d := min 1023 (popCount w (bits row (w * p) w ^^^ sl.2.bits))
        if bitAt st.1 ((leAt hdr 12 2 + i) * per + p) ∧ d ≤ sl.2.thr then
          some (hitRec (leAt hdr 8 2 + i) p sl.1 d (sl.2.qtag * 4096 + leAt hdr 0 2 % 4096))
        else none

/-- Bundles of a stream that are there whole, up to its end mark: header and rows of each. -/
def State.takeBundles (s : State) (p : Nat) : Nat → List (List Byte × List Nat) → State × List (List Byte × List Nat) × TakeEnd
  | 0, acc => (s, acc, .more)
  | f + 1, acc =>
    let runs := (s.stream p).runs.dropWhile fun r => r.over && !r.mark
    match runs with
    | [] => (s, acc, if s.streamHalted p then .all else .more)
    | r :: rs =>
      if r.over then (s.setStream p { s.stream p with runs := rs }, acc, .all)
      else match takeRuns' 32 runs with
        | .dry => (s, acc, if s.streamHalted p then .short else .more)
        | .short => (s, acc, .short)
        | .got hdr rest =>
          let n := 1 + ((List.range (min 4 (leAt hdr 3 1))).map fun c => leAt hdr (4 + c) 1 % 16).sum + leAt hdr 10 2
          if bundleOk hdr [] = false then (s, acc, .bad)
          else match takeRuns' (1024 * n) rest with
            | .dry => (s, acc, if s.streamHalted p then .short else .more)
            | .short => (s, acc, .short)
            | .got bs rest =>
              State.takeBundles (s.setStream p { s.stream p with runs := rest }) p f
                (acc ++ [(hdr, (List.range n).map fun i => leAt bs (1024 * i) 1024)])

/-- SSCR: every bundle as it arrives, up to the stream's end. A bundle that breaks its form, or whose WIDTH differs from a
slot's, is SU_BUNDLE; the hits of the bundles before it have gone to the XU. -/
def State.sscr (s : State) (x : Iss) : Option State :=
  let p := portOf x.q (x.f 0 6)
  let slots := (latches (x.f 6 8)).filterMap fun k => (s.slot x.q k).map fun v => (k, v)
  let y := s.takeBundles p 65537 []
  let good := y.2.1.takeWhile fun b => bundleOk b.1 (slots.map (·.2))
  let s := (good.flatMap fun b => bundleHits b.1 b.2 slots).foldl (fun (s : State) h => s.hitTo x.q h) y.1
  if good.length < y.2.1.length then some (s.fault x 0x030D)
  else match y.2.2 with
    | .all => some (s.later x)
    | .more => some (s.stay x)
    | .short => some (s.fryFault p 0x0402)
    | .bad => some (s.fault x 0x030D)

def execSscr (q u t : Nat) (e : UnitErr) (s : State) : Res := .next (s.issue q u t e 0x61 State.sscr)

/-! ### Regions, tide, temperature (05 R100, R101, R103) -/

/-- A write of SK_REGION: ignored while a conversion runs; each block that changes converts until CONVERSION_COMPLETE. -/
def State.wrSkRegion (s : State) (n : Nat) (h : Half) (v : Nat) : State :=
  let r := Reg.skRegion n
  if s.flag r SK_REGION_CONV then s
  else
    let old := s.fld r SK_REGION_PLAIN
    let s := s.plainWrite r h v
    let new := s.fld r SK_REGION_PLAIN
    let changed := (List.range 47).filter fun b => bitAt old b != bitAt new b
    if changed = [] then s
    else
      ({ s with sk := { s.sk with conv := s.sk.conv ++ changed.map (48 * n + ·) } } : State).setFld r SK_REGION_CONV 1

def execSkRegionWrite (n : Nat) (h : Half) (v : Nat) (s : State) : Res := .next (if n < 8 then s.onBus fun s => s.wrSkRegion n h v else s)

/-- CONVERSION_COMPLETE of stack `n`: the blocks that changed are zero in every bank, and the accesses held go on. A command in progress
on such a block runs to its end first (05 Table 5-13). -/
def State.convDone (s : State) (n : Nat) : State :=
  let busy (e : Nat × Nbu) : Bool := e.1 / 512 = n && e.2.prog ≠ 0 && (match e.2.cmds with
    | c :: _ => (cmdRows c.bytes).any (s.rowConverting e.1)
    | [] => false)
  let inIt (a : Nat) : Bool := match regionOf a with
    | .sketch m o => decide (m = n) && s.sk.conv.contains (48 * m + o % skBank / 2 ^ 20)
    | _ => false
  if s.sk.nbus.any busy then s
  else
    let s := s.clearMem inIt
    ((({ s with sk := { s.sk with conv := s.sk.conv.filter fun b => b / 48 ≠ n } } : State).setFld (.skRegion n) SK_REGION_CONV 0).freeAccs)

def execConversionComplete (n : Nat) (s : State) : Res := .next (if n < 8 then s.convDone n else s)

/-- The 1,024 bytes of a row's protected source: at a local address, or in a tier object, its flash home or residence included. -/
def State.tideSource (s : State) (t : Target) : List Byte :=
  let at_ (h v x : Nat) : List Byte := match s.obj h with
    | some o => s.objRead o (v * o.elemb + x) 1024
    | none => List.replicate 1024 0#8
  match t with
  | .addr a => s.rd a 1024
  | .elem h v => at_ h v 0
  | .part h v x => at_ h v x

/-- The time of a registered row's last rewrite, or of its registration. -/
def State.setTide (s : State) (row : Nat) (t : Nat) : State := { s with sk := { s.sk with tide := tsetD none s.sk.tide row (some t) } }

/-- A plain registered row is rewritten from its source; a lost source leaves it and raises TIDE_SOURCE (DESIGN CHOICE, log entry 2). -/
def State.tideRow (s : State) (n : Nat) (r : TideRow) : State :=
  let a := skBase + 1024 * r.row
  match regionOf a with
  | .sketch m o =>
    if m ≠ n ∨ ¬ s.plainBlock m o ∨ 1024 * queryRow ≤ o % skBank then s
    else if r.lost then
      (s.setTide r.row (((tgetO s.sk.tide r.row).join).getD s.svcTime)).raise (s.addrLog a) (srcHub (n / 2)) (Config.openCode 5 % 2 ^ 16) (leBytes 8 a)
    else
      let new := s.tideSource r.source
      let s := if s.rd a 1024 = new then s else s.incFld (.skTide n) SK_TIDE_MISMATCH 1
      (s.wr a new).setTide r.row s.svcTime
  | _ => s

/-- TIDE_PASS of stack `n` over the rows registered with a protected source (the run-time registers them; DESIGN CHOICE, log entry 15). A row that the
run-time no longer registers has no age. -/
def State.tidePass (s : State) (n : Nat) (rows : List TideRow) : State :=
  let r := Reg.skCtl n
  if ¬ s.flag r SK_CTL_TIDE_EN then s
  else
    let s := s.setFld r SK_CTL_TIDE_GO 0
    let gone (k : Nat) : Bool := k / (skSize / 1024) = n && !(rows.any fun x => x.row = k)
    let s : State := { s with sk := { s.sk with tide := tclear gone s.sk.tide } }
    let s := rows.foldl (fun (s : State) (x : TideRow) => s.tideRow n x) s
    s.incFld (.skTide n) SK_TIDE_PASSES 1

def execTidePass (n : Nat) (rows : List TideRow) (s : State) : Res := .next (if n < 8 then s.tidePass n rows else s)

/-- SK_TIDE.AGE of a stack: seconds since the oldest registered row was rewritten. -/
def State.tideAge (s : State) (n : Nat) : Nat :=
  let times := (s.sk.tide.filter fun e => e.1 / (skSize / 1024) = n).filterMap (·.2)
  min 0xFFFF (times.foldl (fun a t => max a ((s.svcTime - t) / tickS)) 0)

/-- THRTIME of stack `n` takes the time spent in throttling up to now (05 R112). -/
def State.countThrot (s : State) (n : Nat) : State :=
  match (tgetO s.sk.throtAt n).join with
  | some t0 =>
    let k := (s.svcTime - t0) / tickUs
    let s := s.incFld (.skTstat n) SK_TSTAT_THRTIME k
    { s with sk := { s.sk with throtAt := tsetD none s.sk.throtAt n (some (t0 + k * tickUs)) } }
  | none => s

/-- STACK_TEMPERATURE_REPORT (05 Table 5-12): the state is chosen from the report; THRTIME takes the time spent in unit or
hub throttling. Below the limit the hub goes on with the commands it held. -/
def State.stackTemp (s : State) (n t : Nat) : State :=
  let r := Reg.skTstat n
  let unit := 64 + n
  let old := tgetD 0 s.pwr.thermal unit
  let l := thermalNext [(86, 82), (96, 92), (105, 102)] old t
  let s : State := { s with pwr := { s.pwr with thermal := tsetD 0 s.pwr.thermal unit l } }
  let s := s.countThrot n
  let s : State := { s with sk := { s.sk with throtAt := tsetD none s.sk.throtAt n (if 2 ≤ l then some s.svcTime else none) } }
  let s := (s.setFld r SK_TSTAT_TEMP t).setFld r SK_TSTAT_REFX (min l 2)
  let s := (s.setFld r SK_TSTAT_UTHROT (if l = 2 then 1 else 0)).setFld r SK_TSTAT_HTHROT (if l = 3 then 1 else 0)
  let s := if old < 1 ∧ 1 ≤ l then s.setFld r SK_TSTAT_T85 1 else s
  let s := if old < 2 ∧ 2 ≤ l then s.setFld r SK_TSTAT_T95 1 else s
  let s := if old < 3 ∧ 3 ≤ l then s.setFld r SK_TSTAT_TLIM 1 else s
  if l < 3 then ((s.sk.hubq.map (·.1)) ++ s.sk.scans.map (·.1)).foldl (fun (s : State) g => if g / 512 = n then s.fed g else s) s else s

def execStackTemperatureReport (n t : Nat) (s : State) : Res := .next (if n < 8 ∧ t < 256 then s.stackTemp n t else s)

/-- BANK_REFRESH: the refresh of bank `g` that fell due is taken at a row-operation boundary. -/
def execBankRefresh (g : Nat) (s : State) : Res :=
  .next <| if 4096 ≤ g then s else { s with sk := { s.sk with refreshed := tsetD 0 s.sk.refreshed g (tgetD 0 s.sk.refreshed g + 1) } }

end Sys2Proof.Machine
end

