-- ==== Sys2Proof/Machine/Select.lean ====
section
/-! DEFINITION. Select units (08): the order of keys, the five modes, streaming candidate reduction and folds. -/

namespace Sys2Proof.Machine

/-! ### Keys and the order (08 R156, R157) -/

/-- An FP32 key mapped to KEY. -/
def fpKey (max : Bool) (x : Nat) : Nat :=
  if (Fm.fp32.val x).isNan then 0xFFFFFFFF
  else
    let b := if x = 0x80000000 then 0 else x
    let u := if bitAt b 31 then 0xFFFFFFFF - b else b ||| 0x80000000
    if max then 0xFFFFFFFF - u else u

/-- An element of a selection: KEY, SEC, IDX, original key and value. -/
structure El where
  key : Nat
  sec : Nat
  idx : Nat
  orig : Nat
  val : Nat
  nan : Bool
deriving DecidableEq, Repr

/-- The triple of `a` is not worse than that of `b`. -/
def El.le (a b : El) : Bool :=
  decide (a.key < b.key) || (a.key = b.key && (decide (a.sec < b.sec) || (a.sec = b.sec && decide (a.idx ≤ b.idx))))

def insertBy {α : Type} (le : α → α → Bool) (x : α) : List α → List α
  | [] => [x]
  | y :: ys => if le x y then x :: y :: ys else y :: insertBy le x ys

/-- Sorting by insertion. -/
def sortBy {α : Type} (le : α → α → Bool) : List α → List α
  | [] => []
  | x :: xs => insertBy le x (sortBy le xs)

/-! ### The descriptor (08 Table 8-2) -/

def xMode (d : List Byte) : Nat := bits (leAt d 0 1) 0 3
def xMax (d : List Byte) : Bool := bitAt (leAt d 0 1) 3
def xOrder (d : List Byte) : Bool := bitAt (leAt d 0 1) 4
def xSeckey (d : List Byte) : Bool := bitAt (leAt d 0 1) 5
def xSums (d : List Byte) : Bool := bitAt (leAt d 0 1) 6
def xFmt (d : List Byte) : Nat := leAt d 1 1
def xValsrc (d : List Byte) : Nat := leAt d 2 1
def xN (d : List Byte) : Nat := leAt d 4 4
def xK (d : List Byte) : Nat := leAt d 8 4
def xThr (d : List Byte) : Nat := leAt d 12 4
def xBase (d : List Byte) : Nat := leAt d 16 8
def xKeyoff (d : List Byte) : Nat := leAt d 24 4
def xSecoff (d : List Byte) : Nat := leAt d 28 4
def xValoff (d : List Byte) : Nat := leAt d 32 4
def xOutoff (d : List Byte) : Nat := leAt d 36 4
def xSideoff (d : List Byte) : Nat := leAt d 40 4
def xSidecap (d : List Byte) : Nat := leAt d 44 4
def xBsec (d : List Byte) : Nat := leAt d 48 8
def xBidx (d : List Byte) : Nat := leAt d 56 8

/-- Bytes of a key, and of an output record. -/
def xKeyw (d : List Byte) : Nat := if xFmt d = 2 then 4 else 2
def xRec (d : List Byte) : Nat := if xSeckey d then 24 else 16

/-- A key's bits that its format carries, and its KEY. -/
def xOrig (d : List Byte) (raw : Nat) : Nat := if xFmt d = 0 then raw % 512 else if xFmt d = 1 then raw % 1024 else raw
def xMap (d : List Byte) (o : Nat) : Nat := if xFmt d = 2 then fpKey (xMax d) o else o

/-- The check of a descriptor (08 R158, R168, Table 8-3): its failure is XU_PARAM. -/
def xOk (d : List Byte) : Bool :=
  let m := xMode d
  let area (off n : Nat) : Bool := decide (off < spSize) && decide (off + n ≤ spSize)
  let n := xN d
  let outRecs := if m = 4 then 0 else if m = 2 then xSidecap d else min (xK d) n
  m ≤ 4 && bits (leAt d 0 1) 7 1 = 0 && decide (xFmt d ≤ 2) && (xFmt d = 2 || !xMax d) && decide (xValsrc d ≤ 2) && leAt d 3 1 = 0 &&
  decide (1 ≤ n) && decide (n ≤ 2 ^ 22) && decide (1 ≤ xK d) && decide (xK d ≤ 65536) && decide (xBase d + n ≤ 2 ^ 40) &&
  decide (xSidecap d ≤ 2 ^ 20) &&
  area (xKeyoff d) (if m = 2 then 0 else if m = 3 then n * xRec d else n * xKeyw d) &&
  area (xSecoff d) (if xSeckey d && m ≠ 3 then 8 * n else 0) && area (xValoff d) (if xValsrc d = 2 then 4 * n else 0) &&
  area (xOutoff d) (64 + outRecs * xRec d) && area (xSideoff d) (24 * xSidecap d) &&
  decide (xBidx d < 2 ^ 40) && (m = 4 || (xBsec d = 0 && xBidx d = 0)) &&
  (m ≠ 1 || xFmt d ≠ 2 || !(Fm.fp32.val (xThr d)).isNan) &&
  (m ≠ 2 || (xFmt d ≠ 2 && !xOrder d && !xSeckey d && !xSums d && decide (xK d ≤ xSidecap d))) &&
  (m ≠ 3 || xBase d = 0) && (m ≠ 4 || (xSums d && xValsrc d ≠ 0))

/-! ### The passes (08 R161) -/

/-- The first digit of a KEY. -/
def xDigit (d : List Byte) (k : Nat) : Nat := if xFmt d = 2 then k >>> 24 else k

/-- The members of the first pass's boundary bucket, with how many of them are still to be taken: the last bucket that the
best `k1` reach; with `k1` = 0 that is bucket 0. -/
def firstBucket (d : List Byte) (els : List El) (k1 : Nat) : List El × Nat :=
  let b := if k1 = 0 then 0 else match (sortBy El.le els)[k1 - 1]? with
    | some e => xDigit d e.key
    | none => 0
  (els.filter fun e => xDigit d e.key = b, k1 - (els.filter fun e => xDigit d e.key < b).length)

/-- Do later passes run, and over how many members? They need a further digit, of KEY or of SEC. -/
def laterPasses (d : List Byte) (els : List El) (k1 : Nat) : Option Nat :=
  let r := firstBucket d els k1
  if (xFmt d = 2 ∨ xSeckey d) ∧ r.1.length ≠ r.2 then some r.1.length else none

/-- An FP64 sum in ascending IDX from +0. -/
def sumEls (els : List El) : Nat :=
  (sortBy (fun (a b : El) => decide (a.idx ≤ b.idx)) els).foldl (fun a e => if e.nan then a else Fm.fp64.fadd a e.val) 0

/-- The 64-byte summary (08 Table 8-4). -/
def summary (count flags sumsel sumout bkey bsec bidx : Nat) : List Byte :=
  leBytes 4 count ++ leBytes 4 flags ++ leBytes 8 sumsel ++ leBytes 8 sumout ++ leBytes 4 bkey ++ leBytes 4 0 ++
    leBytes 8 bsec ++ leBytes 8 (bidx % 2 ^ 40) ++ leBytes 16 0

/-- A record (08 Table 8-5). -/
def El.record (d : List Byte) (e : El) : List Byte :=
  leBytes 8 e.idx ++ leBytes 4 e.orig ++ leBytes 4 0 ++ (if xSeckey d then leBytes 8 e.sec else [])

/-- The elements of a segment, or the records of a MERGE. -/
def xEls (d keys secs vals : List Byte) : List El :=
  (List.range (xN d)).map fun i =>
    let merge := xMode d = 3
    let rec_ := keys.drop (i * xRec d)
    let o := xOrig d (if merge then leAt rec_ 8 4 else leAt (keys.drop (i * xKeyw d)) 0 (xKeyw d))
    let nan := xFmt d = 2 && (Fm.fp32.val o).isNan
    let own : Nat := if xFmt d = 2 then Fm.fp64.ieee (Fm.fp32.val o) else Fm.fp64.ieee (FV.ofInt o 0)
    { key := xMap d o
      sec := if xSeckey d then (if merge then leAt rec_ 16 8 else leAt (secs.drop (8 * i)) 0 8) else 0
      idx := if merge then leAt rec_ 0 8 % 2 ^ 40 else xBase d + i
      orig := o
      val := if xValsrc d = 1 then own else if xValsrc d = 2 then Fm.fp64.ieee (Fm.fp32.val (leAt (vals.drop (4 * i)) 0 4)) else 0
      nan }

/-- Bytes whose layout the spec does not give (DESIGN CHOICE, log entry 16). -/
def State.freeBytes (s : State) (n : Nat) : List Byte := leBytes n (Config.freeChoice s.fresh)

/-- TOPK, THRESH, MERGE and SPLITSUM over their elements: the state and the bytes at OUTOFF, or `none` where the side buffer is
refused. A MERGE's flags of its input selections, and whether they were of THRESH, are not in their records: free bits (log
entry 16). -/
def State.runSelect (s : State) (x : Iss) (d : List Byte) (els : List El) : State × Option (List Byte) :=
  let m := xMode d
  let sorted := sortBy El.le els
  let thr := xMap d (xOrig d (xThr d))
  let qual := (els.filter fun e => decide (e.key ≤ thr)).length
  let k1 := if m = 1 then min (xK d) qual else if m = 4 then 0 else min (xK d) (xN d)
  let best := sorted.take k1
  let sel (e : El) : Bool := if m = 4 then e.le ⟨thr, xBsec d, xBidx d, 0, 0, false⟩ else best.contains e
  let nans := (els.filter (·.nan)).length
  let later := if m = 4 then none else laterPasses d els k1
  let fall := match later with
    | some n => decide (xSidecap d < n)
    | none => false
  let free (i : Nat) : Bool := m = 3 && bitAt (Config.freeChoice s.fresh) i
  let bit (i : Nat) (b : Bool) : Nat := if b then 2 ^ i else 0
  let flags := bit 0 (decide (xN d < xK d)) + bit 1 ((m = 1 && decide (xK d < qual)) || free 0 || (free 3 && decide (xK d < xN d))) + bit 2 (nans ≠ 0 || free 1) +
    bit 3 (fall || free 2)
  let out := if xOrder d then best else sortBy (fun (a b : El) => decide (a.idx ≤ b.idx)) best
  let last := best.getLast?
  let sums := xSums d
  let bs := summary (if m = 4 then 0 else best.length) flags (if sums then sumEls (els.filter sel) else 0)
      (if sums then sumEls (els.filter fun e => !sel e) else 0)
      ((last.map El.orig).getD 0) ((last.map El.sec).getD 0) ((last.map El.idx).getD 0) ++
    (if m = 4 then [] else out.flatMap (El.record d))
  let s := if m = 3 then s.drew else s
  let w := match later with
    | some n => (s.spadWrite x.q (xSideoff d) (s.freeBytes (24 * min n (xSidecap d))))
    | none => (s, true)
  let s := (if later.isSome then w.1.drew else w.1).incFld (.xuStat x.q) XU_STAT_NANKEY nans
  let s := if fall then s.raise (s.quadLog x.q) x.src 0x0202 [] else s
  (if bitAt flags 3 then s.incFld (.xuStat x.q) XU_STAT_FALLBACKS 1 else s, if w.2 then some bs else none)

/-! ### STREAM (08 R163, R164) -/

/-- The distance of a hit, and its query tag. -/
def hitDist (h : Nat) : Nat := bits h 24 10
def hitQtag (h : Nat) : Nat := bits h 60 4

/-- The boundary distance over retained hits, once there are K of them. -/
def boundary (k : Nat) (hits : List (Nat × Nat)) : Option Nat :=
  ((sortBy (fun a b => decide (a ≤ b)) (hits.map (·.2)))[k - 1]?)

/-- XU_BOUND as the stream stands. -/
def State.showBound (s : State) (q k : Nat) (active : Bool) (hits : List (Nat × Nat)) : State :=
  let d := if active then boundary k hits else none
  let r := Reg.xuBound q
  (((s.setFld r XU_BOUND_D (d.getD 0x3FF)).setFld r XU_BOUND_DVALID (if d.isSome then 1 else 0)).setFld r XU_BOUND_ACTIVE
    (if active then 1 else 0)).setFld r XU_BOUND_RETAINED hits.length

/-- Latches that a SCREEN compares for the query `qtag` of the sketch unit `u`. -/
def NbuCmd.latchesOf (c : NbuCmd) (u qtag : Nat) : Nat :=
  if leAt c.bytes 0 1 ≠ 5 then 0
  else if c.who = [] then (if c.src = u ∧ leAt c.bytes 10 2 / 4096 = qtag then leAt c.bytes 4 1 else 0)
  else ((c.who.filter fun w => w.2.1 = u && w.2.2 / 4096 = qtag).map fun w => 2 ^ w.1).sum

/-- D fell: it is written into the SU slots of the query, and sent with SETTHR to every unit that still screens for it (02 R28); a query
that still waits for its bank gets it as its threshold. -/
def State.sendBound (s : State) (q qtag d : Nat) : State :=
  let s := (List.range 8).foldl (fun (s : State) k => match s.slot q k with
    | some v => if v.qtag = qtag then s.setSlot q k (some { v with thr := d }) else s
    | none => s) s
  let u := srcUnit q 5
  let wait (x : ListScan) : ListScan :=
    if x.src = u ∧ x.tag / 4096 = qtag then { x with rec_ := x.rec_.take 10 ++ leBytes 2 (d % 1024) ++ x.rec_.drop 12 } else x
  let s : State := { s with sk := { s.sk with scans := tmapD [] (fun _ l => l.map wait) s.sk.scans } }
  (s.sk.nbus.map (·.1)).foldl (fun (s : State) g =>
    match ((s.nbu g).cmds ++ s.hubCmds g).find? fun c => c.latchesOf u qtag ≠ 0 with
    | some c => (s.nbuIssue g c.src c.thr true ([2#8, 0#8, 0#8, 0#8] ++ leBytes 1 (c.latchesOf u qtag) ++ [0#8] ++ leBytes 2 (d % 1024))).1
    | none => s) s

/-- A list in an order that the spec leaves open. -/
def shuffle {α : Type} (n : Nat) : Nat → List α → List α
  | 0, l => l
  | f + 1, l =>
    let i := Config.freeChoice n % l.length
    match l[i]? with
    | some a => a :: shuffle (n + 1) f (l.eraseIdx i)
    | none => l

/-- Draw `n` free values at once. -/
def State.drewN (s : State) (n : Nat) : State := { s with fresh := s.fresh + n }

/-- The sure and the boundary group, in the order in which they are written. -/
def streamGroups (fresh : Nat) (k : Nat) (hits : List (Nat × Nat)) : List (Nat × Nat) × List (Nat × Nat) :=
  match boundary k hits with
  | some d =>
    let a := hits.filter fun h => decide (h.2 < d)
    let b := hits.filter fun h => h.2 = d
    (shuffle fresh a.length a, shuffle (fresh + a.length) b.length b)
  | none => (shuffle fresh hits.length hits, [])

/-- The stream's summary and records are written; its instruction is complete. A refused write is ADDR. -/
def State.writeStream (s : State) (q : Nat) (r : XuRun) (fold : Bool) : State :=
  let k := xK r.d
  let g := streamGroups s.fresh k r.hits
  let all := g.1 ++ g.2
  let worst := (sortBy (fun a b => decide (a ≤ b)) (all.map (·.2))).getLast?
  let s := s.drewN (r.hits.length + 1)
  let flags := (if all.length < k then 1 else 0) + (if fold ∨ r.resumed then 2 ^ 4 else 0)
  let bs := summary all.length flags 0 0 (worst.getD 0) 0 (if all = [] then 0 else Config.freeChoice (s.fresh - 1)) ++
    all.flatMap fun h => leBytes 8 h.1 ++ leBytes 4 h.2 ++ leBytes 4 0
  let w := s.spadWrite q (xOutoff r.d) bs
  let s := w.1.setXu q { w.1.xu q with run := none, folded := if fold then some g else none }
  if w.2 then
    let s := if fold then s else s.incFld (.xuStat q) XU_STAT_SELECTS 1
    (s.mapThread q 6 r.t fun th => { th with issued := dropJob th.issued }).showBound q k false []
  else (s.showBound q k false []).quadFault q (srcUnit q 6) 0x0306 []

/-- SELECT in STREAM mode begins. -/
def State.startStream (s : State) (x : Iss) (d : List Byte) : State :=
  let resume := x.f 20 1 = 1
  let res := s.spadRead x.q (64 * x.f 21 20) 64
  let n := match res.2 with
    | some b => leAt b 0 4
    | none => 0
  let recs := s.spadRead x.q (64 * x.f 21 20 + 64) (24 * n)
  if resume ∧ (res.2.isNone ∨ recs.2.isNone) then s.fault x 0x0306
  else
    let old := (s.xu x.q).folded.getD ([], [])
    let picks := (List.range n).filterMap fun i => old.2[leAt (recs.2.getD []) (24 * i) 8 % 2 ^ 40]?
    let hits := if resume then old.1 ++ picks else []
    let run : XuRun := { d, t := x.t, qtag := x.f 41 4, endsem := x.f 45 8, endcnt := x.f 53 8, hits, resumed := resume }
    let s := s.setXu x.q { s.xu x.q with run := some run, folded := none }
    (s.join x { op := x.op, sig := x.sig, o := x.o, isJob := true }).showBound x.q (xK d) true hits

/-- SELECT, ready while no STREAM runs (`classReady`). -/
def State.select (s : State) (x : Iss) : Option State :=
  let r := s.spadRead x.q (64 * x.f 0 20) 64
  match r.2 with
  | none => some (r.1.fault x 0x0306)
  | some d =>
    let s := r.1
    if xOk d = false then some (s.fault x 0x0201)
    else if xMode d = 2 ∧ x.f 53 8 = 0 then some (s.fault x 0x0301)
    else if xMode d = 2 then some (s.startStream x d)
    else
      let n := xN d
      let keys := s.spadRead x.q (xKeyoff d) (if xMode d = 3 then n * xRec d else n * xKeyw d)
      let secs := keys.1.spadRead x.q (xSecoff d) (if xSeckey d ∧ xMode d ≠ 3 then 8 * n else 0)
      let vals := secs.1.spadRead x.q (xValoff d) (if xValsrc d = 2 then 4 * n else 0)
      match keys.2, secs.2, vals.2 with
      | some ks, some ss, some vs =>
        let o := vals.1.runSelect x d (xEls d ks ss vs)
        let w := match o.2 with
          | some bs => o.1.spadWrite x.q (xOutoff d) bs
          | none => (o.1, false)
        some (if w.2 then (w.1.incFld (.xuStat x.q) XU_STAT_SELECTS 1).later x else w.1.fault x 0x0306)
      | _, _, _ => some (vals.1.fault x 0x0306)

def execSelect (q u t : Nat) (e : UnitErr) (s : State) : Res := .next (s.issue q u t e 0x70 State.select)

/-- The first hit of a query at the port, and the others. -/
def takeHit (qtag : Nat) : List Nat → Option (Nat × List Nat)
  | [] => none
  | h :: hs => if hitQtag h = qtag then some (h, hs) else match takeHit qtag hs with
    | some (x, rest) => some (x, h :: rest)
    | none => none

/-- STREAM_HIT_ARRIVAL at the select unit of quad `q`: the oldest hit of its query is taken. One worse than D is discarded;
one that would exceed SIDECAP makes the unit fold first and stays at the port, unless the stream's end has come too, which wins: the hit
is retained and nothing folds (08 Table 8-7; DESIGN CHOICE, log entry 16). -/
def State.hitArrival (s : State) (q : Nat) : State :=
  match (s.xu q).run with
  | none => s
  | some r =>
    match takeHit r.qtag (s.xu q).port with
    | none => s
    | some (h, rest) =>
      let d := boundary (xK r.d) r.hits
      let dist := if xFmt r.d = 0 then hitDist h % 512 else hitDist h
      if ¬ s.quadRuns q then s
      else if (match d with
          | some b => decide (b < dist)
          | none => false) then s.setXu q { s.xu q with port := rest }
      else if xSidecap r.d ≤ r.hits.length ∧ s.sem q r.endsem < r.endcnt then
        let s := (s.incFld (.xuStat q) XU_STAT_FOLDS 1).raise (s.quadLog q) (srcUnit q 6) 0x0203 []
        s.writeStream q r true
      else
        let r' := { r with hits := r.hits ++ [(h, dist)] }
        let w := if r.hits.length < xSidecap r.d then s.spadWrite q (xSideoff r.d + 24 * r.hits.length) (s.freeBytes 24) else (s, true)
        let s := if w.2 then w.1.drew else w.1.quadFault q (srcUnit q 6) 0x0306 []
        let s := (s.setXu q { s.xu q with port := rest, run := some r' }).showBound q (xK r.d) true r'.hits
        match d, boundary (xK r.d) r'.hits with
        | none, some b => s.sendBound q r.qtag b
        | some a, some b => if b < a then s.sendBound q r.qtag b else s
        | _, none => s

def execStreamHitArrival (q : Nat) (s : State) : Res := .next (if q < 80 then s.hitArrival q else s)

/-- STREAM_END: ENDSEM has received ENDCNT signals, which the stream consumes, and no hit of the query waits. -/
def State.streamEnd (s : State) (q : Nat) : State :=
  match (s.xu q).run with
  | none => s
  | some r =>
    if ¬ s.quadRuns q ∨ s.sem q r.endsem < r.endcnt ∨ (takeHit r.qtag (s.xu q).port).isSome then s
    else (s.setSem q r.endsem (s.sem q r.endsem - r.endcnt)).writeStream q r false

def execStreamEnd (q : Nat) (s : State) : Res := .next (if q < 80 then s.streamEnd q else s)

end Sys2Proof.Machine
end

