-- ==== Sys2Proof/Machine/Sched.lean ====
section
/-! DEFINITION. Plans, instances and tasks (09 R201, R205-R211): loading, starting, aborting and unloading. -/

namespace Sys2Proof.Machine

/-! ### What an abort, an unload or a reset clears of a quad -/

/-- Every stream of a quad is discarded. -/
def State.dropStreams (s : State) (q : Nat) : State :=
  (List.range 64).foldl (fun (s : State) k => (((s.setStream (64 * q + k) { nextK := (s.stream (64 * q + k)).nextK }).fryWait (64 * q + k) 0).streamGone (64 * q + k))) s

/-- The hub sends ABORT to every bank that holds commands of the quad; each bank discards its commands and hits (05 R93). -/
def State.abortBanks (s : State) (q : Nat) : State :=
  s.abortMaster fun src => src / 16 = q

/-- Requests of a quad to other modules: their responses are dropped when they come. -/
def State.dropRequests (s : State) (q : Nat) : State :=
  { s with fab := { s.fab with outst := mapIf (fun o => isQuadUnit o.srcid && o.srcid / 16 = q) (fun o => { o with stale := true }) s.fab.outst } }

/-- The reset sweep of every unit of a quad (10 R234, 12 R273). -/
def State.sweepQuad (s : State) (q : Nat) : State :=
  [0, 1, 2, 3, 4, 5, 6, 8, 9, 10, 11].foldl (fun (s : State) u => s.sweepSource (srcUnit q u)) (s.dropRequests q)

/-- SU slots and XU state are cleared. -/
def State.clearSel (s : State) (q : Nat) : State :=
  let s := (List.range 8).foldl (fun (s : State) k => s.setSlot q k none) s
  (s.setXu q {}).showBound q 1 false []

/-- The threads of a quad that hold a schedule start from their first instruction. -/
def State.restartThreads (s : State) (q : Nat) : State :=
  (s.ctl.threads.map (·.1)).foldl (fun (s : State) k =>
    if k / 256 = q then match (tgetO s.ctl.threads k).join with
      | some th => { s with ctl := { s.ctl with threads := tsetD none s.ctl.threads k (some { base := th.base, ninstr := th.ninstr }) } }
      | none => s
    else s) s

/-- Semaphores of a quad, from 256 values. -/
def State.loadSems (s : State) (q : Nat) (vs : List Nat) : State :=
  (List.range 256).foldl (fun (s : State) j => s.setSem q j (vs.getD j 0)) s

def State.setEpoch (s : State) (i : Nat) (inst : Inst) (e : Nat) : State :=
  inst.quads.foldl (fun (s : State) q => s.setFld (.schQuad q) SCH_QUAD_EPOCH e) (s.setFld (.schInst i) SCH_INST_EPOCH e)

/-! ### Tasks (09 R210) -/

/-- Tasks of an instance in flight. -/
def Inst.started (i : Inst) : List Task := i.tasks.filter (·.started)

/-- SCH_INST.INFLIGHT as the tasks stand. -/
def State.showInflight (s : State) (i : Nat) : State :=
  match s.inst i with
  | some v => s.setFld (.schInst i) SCH_INST_INFLIGHT v.started.length
  | none => s

/-- Write a task's start record into its ring slot and signal STARTSEM. -/
def State.writeStart (s : State) (i : Nat) (v : Inst) (t : Task) (restart : Bool) : State :=
  let q := v.quads.headD 0
  let slot := t.task % 16
  let rec_ := leBytes 4 t.task ++ leBytes 2 t.qp ++ leBytes 2 slot ++ leBytes 4 t.cid ++ leBytes 4 0 ++ leBytes 8 t.readPoint ++
    leBytes 4 t.gen ++ leBytes 4 (t.flags % 8 + if restart then 8 else 0) ++ leBytes 8 t.entry ++
    leBytes 8 t.deadline ++ leBytes 16 0
  let s := (s.touch (spadAt q (v.tring + 64 * slot))).1
  ((s.wr (spadAt q (v.tring + 64 * slot)) rec_).signal q v.startsem 1 srcQuay).showInflight i

/-- START_RECORD_WRITE for instance `i`: its first waiting task starts when its ring slot is free, fewer than INFLIGHT tasks
are in flight, and no abort or unload runs. -/
def State.startRecord (s : State) (i : Nat) : State :=
  match s.inst i, s.ctl.waiting.find? (·.1 = i) with
  | some v, some w =>
    let slotBusy := v.started.any fun t => t.task % 16 = v.nextTask % 16
    if ¬ s.quayUp ∨ v.unloading ∨ s.flag (.schInst i) SCH_INST_ABORTING ∨ slotBusy ∨ v.limit ≤ v.started.length then s
    else
      let t := { w.2 with task := v.nextTask, started := true }
      let s : State := { s with ctl := { s.ctl with waiting := dropFirst (· = w) s.ctl.waiting } }
      let v := { v with tasks := v.tasks ++ [t], nextTask := (v.nextTask + 1) % 2 ^ 32 }
      (s.setInst i (some v)).writeStart i v t false
  | _, _ => s

def execStartRecordWrite (inst : Nat) (s : State) : Res := .next (if inst < 80 then s.startRecord inst else s)

/-- Does an instance serve tasks of kind 0 (retrieval) or 1 (ranking) on the object of number `obj` (13 R294)? -/
def State.qualifies (s : State) (part kind obj i : Nat) : Bool :=
  match s.inst i with
  | some v => v.part = part && v.kind = kind && v.object = obj && !v.unloading
  | none => false

/-- The next qualifying instance in rotation. -/
def State.pickInst (s : State) (part kind obj : Nat) (except_ : Option Nat) : Option Nat :=
  let last := (tgetO s.ctl.rot (2 * obj + kind)).join
  let start := match last with
    | some i => i + 1
    | none => 0
  ((List.range 80).map fun k => (start + k) % 80).find? fun i => s.qualifies part kind obj i && except_ ≠ some i

/-- Bind a task to an instance: its start record waits in fetch order. -/
def State.bindTask (s : State) (kind obj i : Nat) (t : Task) : State :=
  { s with ctl := { s.ctl with waiting := s.ctl.waiting ++ [(i, t)], rot := tsetD none s.ctl.rot (2 * obj + kind) (some i) } }

/-- Start records that wait for an instance go to another that qualifies, in fetch order, or complete NO_PLAN (09 R211). -/
def State.moveWaiting (s : State) (v : Inst) (i : Nat) : State :=
  let mine := s.ctl.waiting.filter (·.1 = i)
  let s : State := { s with ctl := { s.ctl with waiting := s.ctl.waiting.filter (·.1 ≠ i) } }
  mine.foldl (fun (s : State) w => match s.pickInst v.part v.kind v.object (some i) with
    | some j => s.bindTask v.kind v.object j w.2
    | none => s.finish w.2.cmd stNoPlan 0 0 []) s

/-! ### Loading a plan (09 R207-R209) -/

/-- Fields of a plan header (09 Table 9-13). -/
def pKind (h : List Byte) : Nat := leAt h 6 2
def pNquad (h : List Byte) : Nat := leAt h 8 2
def pNsched (h : List Byte) : Nat := leAt h 10 2
def pInflight (h : List Byte) : Nat := leAt h 12 2
def pStartsem (h : List Byte) : Nat := leAt h 14 1
def pObject (h : List Byte) : Nat := leAt h 16 8
def pTring (h : List Byte) : Nat := leAt h 24 4
def pSchbytes (h : List Byte) : Nat := leAt h 28 4
def pQmap (h : List Byte) : Nat := leAt h 32 8
def pSchtab (h : List Byte) : Nat := leAt h 40 8
def pSeminit (h : List Byte) : Nat := leAt h 48 8
def pReloc (h : List Byte) : Nat := leAt h 56 8
def pNreloc (h : List Byte) : Nat := leAt h 64 4
def pImglen (h : List Byte) : Nat := leAt h 120 4

/-- A row of SCHTAB with its schedule's instruction count. -/
structure Sch where
  lq : Nat
  unit : Nat
  thr : Nat
  off : Nat
  n : Nat
deriving DecidableEq, Repr

def schRow (img : List Byte) (k : Nat) : Sch :=
  let r := img.drop (pSchtab img + 16 * k)
  let off := leAt r 4 4
  ⟨leAt r 0 2, leAt r 2 1, leAt r 3 1, off, leAt img (off + 8) 4⟩
def schRows (img : List Byte) : List Sch := (List.range (pNsched img)).map (schRow img)

/-- ERR 0x01: is the header well-formed, do its tables lie in the image, is every row and schedule header in form? -/
def planForm (img : List Byte) : Bool :=
  let len := pImglen img
  let rows := schRows img
  leAt img 0 4 = 0x4E414C50 && leAt img 4 2 = 1 && decide (pKind img ≤ 3) && decide (1 ≤ pNquad img) && decide (pNquad img ≤ 80) &&
  decide (1 ≤ pInflight img) && decide (pInflight img ≤ 16) && leAt img 15 1 = 0 && zeroRange img 68 120 &&
  pTring img % 64 = 0 && decide (pTring img + 1024 ≤ spSize) && decide (128 ≤ len) &&
  decide (pQmap img + 4 * pNquad img ≤ len) && decide (pSchtab img + 16 * pNsched img ≤ len) &&
  decide (pSeminit img + 512 * pNquad img ≤ len) && decide (pReloc img + 16 * pNreloc img ≤ len) &&
  (List.range (pNquad img)).all (fun k => let w := leAt img (pQmap img + 4 * k) 4; bits w 3 5 = 0 && bits w 16 16 = 0) &&
  (List.range (pNsched img)).all (fun k => zeroRange img (pSchtab img + 16 * k + 8) (pSchtab img + 16 * k + 16)) &&
  rows.all (fun r => decide (r.lq < pNquad img) && decide (r.thr < unitThreads r.unit) && decide (r.off + 32 ≤ len) &&
    leAt img r.off 4 = 0x44484353 && leAt img (r.off + 4) 2 = 1 && leAt img (r.off + 6) 1 = r.unit && leAt img (r.off + 7) 1 = r.thr &&
    decide (1 ≤ r.n) && decide (r.n ≤ 65536) && decide (r.off + 32 + 16 * r.n ≤ len) && zeroRange img (r.off + 12) (r.off + 28)) &&
  (rows.map fun r => (r.lq, r.unit, r.thr)).Nodup

/-- ERR 0x02: the CRC of the image, and of each schedule's instructions. -/
def planCrc (img : List Byte) : Bool :=
  crc32c (img.take 124 ++ leBytes 4 0 ++ img.drop 128) = leAt img 124 4 &&
  (schRows img).all fun r => crc32c ((img.drop (r.off + 32)).take (16 * r.n)) = leAt img (r.off + 28) 4

/-- ERR 0x03: each bound quad exists once, is unloaded and in service, lies in the partition and meets its QMAP. -/
def State.bindOk (s : State) (img : List Byte) (part : Nat) (qs : List Nat) : Bool :=
  let w (k : Nat) : Nat := leAt img (pQmap img + 4 * k) 4
  qs.Nodup &&
  (List.range qs.length).all fun k =>
    let q := qs.getD k 0
    decide (q < 80) && (s.quadInst q).isNone && s.quadPart q = some part && !s.quadGone q &&
    (bitAt (w k) 2 || bits (w k) 0 2 = q / 20) &&
    (List.range qs.length).all fun j => bits (w k) 8 8 = 0xFF || bits (w j) 8 8 ≠ bits (w k) 8 8 || qs.getD j 0 / 4 = q / 4

/-- ERR 0x06: a relocation entry in form and inside its schedule. KIND 0 names the QID of a SIGR; KIND 1 a 40-bit field. -/
def relocOk (img : List Byte) (base : Option Nat) (r : List Byte) : Bool :=
  let k := leAt r 0 4
  let sch := schRow img k
  let word := leAt img (sch.off + 32 + 16 * leAt r 4 4) 16
  decide (k < pNsched img) && decide (leAt r 4 4 < sch.n) && zeroRange r 10 16 &&
  ((leAt r 8 1 = 0 && iOpcode word = 0x13 && decide (bits word 25 7 < pNquad img)) ||
   (leAt r 8 1 = 1 && decide (leAt r 9 1 + 40 ≤ 92) && base.isSome))

def relocs (img : List Byte) : List (List Byte) := (List.range (pNreloc img)).map fun k => bytesAt img (pReloc img + 16 * k) 16

/-- The instructions of a schedule after relocation. -/
def relocated (img : List Byte) (qs : List Nat) (base k : Nat) : List Byte :=
  let sch := schRow img k
  let code := (img.drop (sch.off + 32)).take (16 * sch.n)
  ((relocs img).filter fun r => leAt r 0 4 = k).foldl (fun (code : List Byte) r =>
    let at_ := 16 * leAt r 4 4
    let w := leAt code at_ 16
    let w := if leAt r 8 1 = 0 then putBits w 25 7 (qs.getD (bits w 25 7) 0) else putBits w (leAt r 9 1) 40 (bits w (leAt r 9 1) 40 + base)
    code.take at_ ++ leBytes 16 w ++ code.drop (at_ + 16)) code

/-- The schedules of quad `q` in instance `v` are copied again from the image, where its form still holds (09 Table 9-11, 07
Table 7-10): row k of SCHTAB is the k-th schedule placed. -/
def State.reloadQuad (s : State) (v : Inst) (q : Nat) : State :=
  let img := s.rd v.image (pImglen (s.rd v.image 128))
  let base := ((s.obj (pObject img)).bind fun o => o.place 0).getD 0
  if planForm img = false ∨ planCrc img = false then s
  else v.scheds.zipIdx.foldl (fun (s : State) (x : (Nat × Nat × Nat) × Nat) =>
    if x.1.1 / 256 = q then s.wr (x.1.2.1 - 32) ((img.drop (schRow img x.2).off).take 32 ++ relocated img v.quads base x.2) else s) s

/-! ### Aborts (09 R205, R206, R464) -/

/-- The TASK_ABORT record of a task. -/
def State.abortRec (s : State) (i : Nat) (v : Inst) (t : Task) (restart : Bool) (cause : Nat) : State :=
  s.raise v.part srcQuay 0x030E (leBytes 1 i ++ leBytes 1 (if restart then 1 else 0) ++ leBytes 4 t.task ++ leBytes 2 cause ++
    leBytes 2 t.qp ++ leBytes 2 t.cid)

/-- A task in flight is over. -/
def State.endTask (s : State) (i cmd : Nat) : State :=
  (s.mapInst i fun v => { v with tasks := v.tasks.filter (·.cmd ≠ cmd) }).showInflight i

/-- Is an aborted task started again (09 R206)? Not the faulting one, not one aborted before, and only in KIND 0 and 1. -/
def restarts (v : Inst) (t : Task) (faulting : Option Nat) : Bool :=
  decide (v.kind ≤ 1) && t.aborts = 0 && faulting ≠ some t.task

/-- Carry out an abort of instance `i`: streams, bank commands, the sweep, epoch, semaphores, threads, SU and XU; then the
tasks. `faulting`: the task number of the faulting task. -/
def State.abortNow (s : State) (i cause : Nat) (faulting : Option Nat) : State :=
  match s.inst i with
  | none => s
  | some v =>
    let s := if s.ctl.aborting.any (fun a => a.inst = i && a.told) then s else s.sendAborts i none
    let s := v.quads.foldl (fun (s : State) q => ((s.dropStreams q).abortBanks q).sweepQuad q) s
    let e := s.fld (.schInst i) SCH_INST_EPOCH + 1
    let s := s.setEpoch i v (if e = 65536 then 1 else e)
    let s := s.incFld (.schInst i) SCH_INST_ABORTS 1
    let s := (List.range v.quads.length).foldl (fun (s : State) k =>
      let q := v.quads.getD k 0
      ((s.loadSems q ((v.seminit.drop (256 * k)).take 256)).restartThreads q).clearSel q) s
    let s := (s.ctl.reload.filter v.quads.contains).foldl (fun (s : State) q => s.reloadQuad v q) s
    let s : State := { s with ctl := { s.ctl with reload := s.ctl.reload.filter fun q => !v.quads.contains q } }
    let s := if v.kind = 2 then s.stopStep v.object else s
    let s := s.dropSteps i
    let s := v.started.foldl (fun (s : State) t =>
      let again := restarts v t faulting
      let s := s.abortRec i v t again cause
      if again then
        let s := s.mapInst i fun v => { v with tasks := mapIf (·.cmd = t.cmd) (fun t => { t with aborts := t.aborts + 1 }) v.tasks }
        s.writeStart i v t true
      else (s.endTask i t.cmd).finish t.cmd stTaskAborted 0 0 []) s
    let s : State := { s with ctl := { s.ctl with aborting := s.ctl.aborting.filter (·.inst ≠ i) } }
    (s.setFld (.schInst i) SCH_INST_ABORTING 0).showInflight i

/-- INSTANCE_ABORT: the abort that an event began is carried through. `task`: the faulting task, where the event belongs to
one. -/
def execInstanceAbort (inst : Nat) (task : Option Nat) (s : State) : Res :=
  .next (match s.ctl.aborting.find? (·.inst = inst) with
    | some a => s.abortNow inst a.cause task
    | none => s)

/-! ### Placing and binding a plan (09 R209) -/

/-- Offset and size of the schedule area of an E-die: banks 60-62. -/
def schArea : Nat × Nat := (60 * bankSize, 3 * bankSize)

/-- Free runs of an E-die's schedule area, as local addresses; a schedule takes its header and its instructions. -/
def State.schFree (s : State) (d : Nat) : List (Nat × Nat) :=
  let used := s.ctl.insts.flatMap fun e => match e.2 with
    | some v => v.scheds.filterMap fun x => if x.1 / 256 / 4 = d then some (x.2.1 - 32, 32 + 16 * x.2.2) else none
    | none => []
  used.foldl (fun rs u => rs.flatMap (cutRun u)) [(spBase + d * spSize + schArea.1, schArea.2)]

/-- Places for the schedules, first fit in ascending address: `none` is ERR 0x05. -/
def State.placeScheds (s : State) (qs : List Nat) : List (Nat × Sch) → List (Nat × List (Nat × Nat)) → Option (List (Nat × Nat))
  | [], _ => some []
  | (k, sch) :: rest, free =>
    let d := qs.getD sch.lq 0 / 4
    let rs := (free.find? (·.1 = d)).map (·.2) |>.getD (s.schFree d)
    let need := 32 + 16 * sch.n
    match rs.find? fun r => decide (need ≤ r.2) with
    | none => none
    | some r =>
      let rs := rs.flatMap (cutRun (r.1, need))
      match s.placeScheds qs rest ((d, rs) :: free.filter (·.1 ≠ d)) with
      | some l => some ((k, r.1) :: l)
      | none => none

/-- The local address that KIND 1 relocations add: that of the object's first byte. -/
def State.objBase (s : State) (h : Nat) : Option Nat := (s.obj h).bind fun o => o.place 0

/-- The form of an image: ERR 0x01, 0x02, 0x06, 0x05, or none. -/
def State.imageErr (s : State) (img : List Byte) : Option Nat :=
  if planForm img = false then some 0x01
  else if planCrc img = false then some 0x02
  else if (relocs img).all (relocOk img (s.objBase (pObject img))) = false then some 0x06
  else if schArea.2 < pSchbytes img then some 0x05
  else none

/-- The entry of a placed schedule in its instance: thread key, address of the first instruction, instructions. -/
def placed (img : List Byte) (qs : List Nat) (p : Nat × Nat) : Nat × Nat × Nat :=
  let c := schRow img p.1
  (thrKey (qs.getD c.lq 0) c.unit c.thr, p.2 + 32, c.n)

/-- A checked image is loaded as instance `i` on the quads `qs`; no room in a schedule area answers none. -/
def State.putInst (s : State) (img : List Byte) (l : LoadReq) (qs : List Nat) (i : Nat) : Option State :=
  let nq := pNquad img
  let sch := schRows img
  let base := (s.objBase (pObject img)).getD 0
  match s.placeScheds qs ((List.range sch.length).zip sch) [] with
  | none => none
  | some places =>
    let s := places.foldl (fun (s : State) (p : Nat × Nat) =>
      let c := schRow img p.1
      let s := s.wr p.2 ((img.drop c.off).take 32 ++ relocated img qs base p.1)
      s.setThread (qs.getD c.lq 0) c.unit c.thr { base := p.2 + 32, ninstr := c.n }) s
    let sems := (List.range nq).flatMap fun k => (List.range 256).map fun j => leAt img (pSeminit img + 512 * k + 2 * j) 2
    let v : Inst :=
      { part := l.part, kind := pKind img, object := pObject img % 2 ^ 32, limit := pInflight img, startsem := pStartsem img,
        tring := pTring img, quads := qs, image := l.image, bind := l.bind, seminit := sems, scheds := places.map (placed img qs) }
    let s := (List.range nq).foldl (fun (s : State) k =>
      let q := qs.getD k 0
      (s.loadSems q ((sems.drop (256 * k)).take 256)).setFld (.schQuad q) SCH_QUAD_INST i) (s.askWakes qs)
    let s := (s.setInst i (some v)).setFld (.schInst i) SCH_INST_RUN 1
    some ((s.setEpoch i v l.epoch).showInflight i)

/-- Can a module agent read the range for a load into partition `p`: the partition owns it, no byte of it is lost, and every
scratchpad bank of it serves (09 R209)? -/
def State.planReads (s : State) (p a n : Nat) : Bool :=
  s.ownsRange p a n && (s.unreadable a n).isNone

/-- A load that has begun: the instance it makes, or its error code. -/
def State.loadPlan (s : State) (l : LoadReq) : Except Nat (State × Nat) :=
  let readable (a n : Nat) : Bool := s.planReads l.part a n
  let hdr := s.rd l.image 128
  let img := s.rd l.image (pImglen hdr)
  let nq := pNquad hdr
  let qs := (List.range nq).map fun k => s.rdLE (l.bind + 2 * k) 2
  if ¬ s.partOn l.part then .error 0x09
  else if ¬ readable l.image 128 then .error 0x08
  else if leAt hdr 0 4 ≠ 0x4E414C50 ∨ leAt hdr 4 2 ≠ 1 ∨ pImglen hdr < 128 then .error 0x01
  else if ¬ readable l.image (pImglen hdr) then .error 0x08
  else match s.imageErr img with
    | some e => .error e
    | none =>
      if ¬ readable l.bind (2 * nq) then .error 0x08
      else if s.bindOk img l.part qs = false then .error 0x03
      else if l.epoch = 0 then .error 0x04
      else
        match pickFree (Config.freeChoice s.fresh) 80 ((List.range 80).filter fun i => (s.inst i).isSome) with
        | none => .error 0x07
        | some i => match s.drew.putInst img l qs i with
          | none => .error 0x05
          | some s => .ok (s, i)

/-- Hardware takes GO, and then UNLOAD, when nothing is in progress (09 R209, R211). -/
def State.ldTake (s : State) : State :=
  if s.flag .schLdstat SCH_LDSTAT_BUSY then s
  else if s.flag .schLdctl SCH_LDCTL_GO then
    let s := (s.setFld .schLdctl SCH_LDCTL_GO 0).setFld .schLdstat SCH_LDSTAT_BUSY 1
    let l : LoadReq := { image := s.fld .schLoad SCH_LOAD_ADDR, bind := s.fld .schBind SCH_BIND_ADDR,
                         part := s.fld .schLdctl SCH_LDCTL_PART, epoch := s.fld .schLdctl SCH_LDCTL_EPOCH }
    { s with ctl := { s.ctl with load := some l } }
  else if s.flag .schLdctl SCH_LDCTL_UNLOAD then
    let i := s.fld .schLdctl SCH_LDCTL_INST
    let s := s.setFld .schLdctl SCH_LDCTL_UNLOAD 0
    match s.inst i with
    | none => (s.setFld .schLdstat SCH_LDSTAT_FAIL 1).setFld .schLdstat SCH_LDSTAT_ERR 0x07
    | some v =>
      let s := (s.mapInst i fun v => { v with unloading := true }).setFld .schLdstat SCH_LDSTAT_BUSY 1
      ({ s with ctl := { s.ctl with unload := some i } } : State).moveWaiting v i
  else s

/-- A load ends: DONE, or FAIL with its error; then a GO or UNLOAD that waited is taken. -/
def State.loadDone (s : State) : State :=
  match s.ctl.load with
  | none => s
  | some l =>
    let s : State := { (s.setFld .schLdstat SCH_LDSTAT_BUSY 0) with ctl := { s.ctl with load := none } }
    (match s.loadPlan l with
     | .ok (s, i) => ((s.setFld .schLdstat SCH_LDSTAT_DONE 1).setFld .schLdstat SCH_LDSTAT_INST i).setFld .schLdstat SCH_LDSTAT_ERR 0
     | .error e => (s.setFld .schLdstat SCH_LDSTAT_FAIL 1).setFld .schLdstat SCH_LDSTAT_ERR e).ldTake

/-- A write of SCH_LDCTL. -/
def State.wrLdctl (s : State) (h : Half) (v : Nat) : State := (s.plainWrite .schLdctl h v).ldTake

def execSchLoadGo (part epoch : Nat) (s : State) : Res :=
  .next (s.onBus fun s => s.wrLdctl .low (1 + part % 64 * 4 + epoch % 65536 * 2 ^ 16))
def execSchLoadDone (s : State) : Res := .next s.loadDone
def execSchUnload (inst : Nat) (s : State) : Res :=
  .next (s.onBus fun s => s.wrLdctl .whole (putBits (putBits (putBits (s.reg .schLdctl).toNat 0 1 0) 1 1 1) 32 7 inst))

/-- A quad leaves its instance: berths, VP registers, SU, XU, streams, threads, semaphores are cleared. -/
def State.clearQuad (s : State) (q : Nat) : State :=
  let s := (s.dropStreams q).clearSel q
  let s : State := { s with
    eng := { s.eng with
      acc := tclear (fun k => k / 4096 / 256 / 8 = q) s.eng.acc
      accFmt := tclear (fun k => k / 256 / 8 = q) s.eng.accFmt
      spilled := s.eng.spilled.filter fun k => k / 256 / 8 ≠ q
      vreg := tclear (fun k => k / 32 / 8 = q) s.eng.vreg
      vmask := tclear (fun k => k / 4 / 8 = q) s.eng.vmask
      vq := tclear (fun k => k / 8 = q) s.eng.vq }
    ctl := { s.ctl with threads := tclear (fun k => k / 256 = q) s.ctl.threads } }
  (s.loadSems q []).setFld (.schQuad q) SCH_QUAD_INST 0x7F

/-- An instance is taken off its quads. -/
def State.dropInst (s : State) (i : Nat) : State :=
  match s.inst i with
  | none => s
  | some v =>
    let s := v.scheds.foldl (fun (s : State) x => s.wipe (x.2.1 - 32) (32 + 16 * x.2.2)) s
    let s := v.quads.foldl State.clearQuad s
    let s : State := { s with ctl := { s.ctl with aborting := s.ctl.aborting.filter (·.inst ≠ i) } }
    ((s.setInst i none).setFld (.schInst i) SCH_INST_RUN 0).setFld (.schInst i) SCH_INST_INFLIGHT 0 |>.setFld (.schInst i) SCH_INST_ABORTING 0

/-- UNLOAD_COMPLETE: after the instance's last task everything is cleared and its quads are free. -/
def State.unloadDone (s : State) : State :=
  match s.ctl.unload with
  | none => s
  | some i =>
    match s.inst i with
    | some v =>
      if v.tasks ≠ [] ∨ s.flag (.schInst i) SCH_INST_ABORTING then s
      else
        let s : State := { (s.dropInst i) with ctl := { (s.dropInst i).ctl with unload := none } }
        ((s.setFld .schLdstat SCH_LDSTAT_BUSY 0).setFld .schLdstat SCH_LDSTAT_DONE 1).ldTake
    | none =>
      let s : State := { s with ctl := { s.ctl with unload := none } }
      ((s.setFld .schLdstat SCH_LDSTAT_BUSY 0).setFld .schLdstat SCH_LDSTAT_DONE 1).ldTake

def execUnloadComplete (s : State) : Res := .next s.unloadDone

/-! ### Deadlines (10 R231) -/

/-- DEADLINE_TICK of the real-time task of command `n`: the stream of its instance that has waited longest, the lowest SINCE
and then the lowest number; 0xE when none waits, 0xF when the plan has not started the task. -/
def State.deadlineTick (s : State) (n : Nat) : State :=
  let note (w c i : Nat) : State := { s with ctl := { s.ctl with missed := s.ctl.missed.filter (·.1 ≠ n) ++ [(n, w, c, i)] } }
  let due (t : Task) : Bool := t.cmd = n && bitAt t.flags 0 && decide (t.deadline ≠ 0) && decide (t.deadline ≤ s.svcTime)
  match s.ctl.waiting.find? fun w => due w.2 with
  | some w => note 0x1FFF 0xF w.1
  | none =>
    match (List.range 80).find? fun i => match s.inst i with
        | some v => v.tasks.any due
        | none => false with
    | none => s
    | some i =>
      let streams := ((s.inst i).map Inst.quads).getD [] |>.flatMap fun q => (List.range 64).map (64 * q + ·)
      let waiting := streams.filter fun k => s.fld (.frySwait k) FRY_SWAIT_CAUSE ≠ 0
      let le (a b : Nat) : Bool :=
        let x := s.fld (.frySwait a) FRY_SWAIT_SINCE
        let y := s.fld (.frySwait b) FRY_SWAIT_SINCE
        decide (x < y) || (x = y && decide (a ≤ b))
      match (sortBy le waiting).head? with
      | some k => note k (s.fld (.frySwait k) FRY_SWAIT_CAUSE) i
      | none => note 0x1FFF 0xE i

def execDeadlineTick (n : Nat) (s : State) : Res := .next (s.deadlineTick n)

/-! ### A retired quad (17 R403) -/

/-- An instance is loaded again under its own number, with its tasks, which start again (09 R206, 17 R403, R404). -/
def State.reloadInst (s : State) (img : List Byte) (i : Nat) (old : Inst) (qs : List Nat) : Option State :=
  match s.putInst img ⟨old.image, old.bind, old.part, s.fld (.schInst i) SCH_INST_EPOCH⟩ qs i with
  | none => none
  | some s =>
    let s := (s.mapInst i fun w => { w with tasks := old.tasks, nextTask := old.nextTask, unloading := old.unloading }).showInflight i
    match s.inst i with
    | some w => some (w.started.foldl (fun (s : State) t => s.writeStart i w t true) s)
    | none => some s

/-- Quads for the positions `ks` of an instance's list: the lowest-numbered that the partition owns, that belong to no
instance, meet the QMAP and whose E-die has room. -/
def State.tryQuads (s : State) (img : List Byte) (i : Nat) (old : Inst) : List Nat → List Nat → Option State
  | [], qs => if s.bindOk img old.part qs then s.reloadInst img i old qs else none
  | k :: ks, qs =>
    ((List.range 80).filter fun p => s.quadPart p = some old.part && (s.quadInst p).isNone && !(s.quadGone p) && !(qs.contains p)).findSome?
      fun p => s.tryQuads img i old ks (qs.set k p)

/-- An instance, after its abort, loaded again with other quads in place of the lost ones `dead`; when no quads fit, it stays
unloaded and its tasks end with TASK_ABORTED. A DRAINING partition's instance is not rebound (17 R405). -/
def State.rebindInst (s : State) (i : Nat) (dead : List Nat) : State :=
  match s.inst i with
  | none => s
  | some v =>
    let img := s.rd v.image (pImglen (s.rd v.image 128))
    let ks := (List.range v.quads.length).filter fun k => dead.contains (v.quads.getD k 0)
    let s := s.dropInst i
    let again := if ¬ s.partOn v.part ∨ (s.imageErr img).isSome then none else s.tryQuads img i v ks v.quads
    match again with
    | some s => s
    | none => (v.tasks.foldl (fun (s : State) t => s.finish t.cmd stTaskAborted 0 0 []) s).moveWaiting v i

end Sys2Proof.Machine
end

