-- ==== Sys2Proof/Machine/Fabric.lean ====
section
/-! DEFINITION. The Abdan Link fabric (14): ports, flits, messages served and forwarded, management messages, collective
groups, and the exchange of time (16 R382, R383). -/

namespace Sys2Proof.Machine

/-! ### Ports (14 R315-R318, R335) -/

def portL (p : Nat) : Nat := srcL (p / 4)
/-- P12-P15 are cabled (19 R438). -/
def cabled (p : Nat) : Bool := 12 ≤ p && p < 16

/-- WIDTH of a number of good lanes (14 Table 14-2): 4 width 8, 3 width 4, 2 width 2, 6 FAILED. -/
def widthOf (good : Nat) : Nat := if 8 ≤ good then 4 else if 4 ≤ good then 3 else if 2 ≤ good then 2 else 6

/-- The record of a port event names the port. -/
def State.portEvent (s : State) (p code : Nat) : State := s.raise modLog (srcPort p) code (leBytes 1 p)

/-- The module follows no time source any more (16 Table 16-10a). -/
def State.loseSync (s : State) : State :=
  let said := s.pwr.syncSaid
  let s : State := { s with pwr := { s.pwr with syncSaid := true } }
  let s := ((s.setFld .svcSync SVC_SYNC_LOCKED 0).setFld .svcSync SVC_SYNC_HOPS 15).setFld .svcSync SVC_SYNC_SYNCLOST 1
  if said then s else s.raise modLog srcM 0x0A07 []

/-- Is port `p` one of two UP ports that report one MODNUM with different UIDs (14 R323)? -/
def State.dupOf (s : State) (p r : Nat) : Bool :=
  p ≠ r && s.portUp p && s.portUp r && s.fld (.abPort p) AB_PORT_PEERMOD = s.fld (.abPort r) AB_PORT_PEERMOD &&
    (s.port p).peerUid.isSome && (s.port r).peerUid.isSome && (s.port p).peerUid ≠ (s.port r).peerUid

/-- A duplicate that no longer holds lets its ports be chosen again. -/
def State.clearDups (s : State) : State :=
  (List.range 16).foldl (fun (s : State) p =>
    if (s.port p).dup ∧ ¬ (List.range 16).any (s.dupOf p) then s.setPort p { s.port p with dup := false } else s) s

/-- Messages of a port that are not acknowledged, or wait for credits, go by the ports that R325 now chooses. -/
def State.resend (s : State) (ms : List Msg) : State :=
  ms.foldl (fun (s : State) m => if m.mtype = 0x30 then s else (s.sendMsg m).1) s

/-- A port stops carrying traffic with WIDTH = `w`: its link layer starts again, and what it held is sent elsewhere. -/
def State.portStop (s : State) (p w : Nat) (trains : Bool) : State :=
  let st := s.port p
  let s := (s.setPort p { good := st.good, trains }).setFld (.abPort p) AB_PORT_WIDTH w
  let s := s.clearDups.resend (st.replay.map (·.2) ++ st.wait)
  if s.fld .svcSync SVC_SYNC_PORT = p ∧ ¬ s.flag .svcSync SVC_SYNC_MASTER then s.loseSync else s

/-- The port goes DOWN (or FAILED): DOWNEV, and AB_PORT_DOWN unless software drained it. -/
def State.portFall (s : State) (p w : Nat) (event : Bool) : State :=
  let was := s.fld (.abPort p) AB_PORT_WIDTH
  if was = 0 ∨ was = 6 then s.setFld (.abPort p) AB_PORT_WIDTH w
  else
    let s := (s.portStop p w false).setFld (.abPort p) AB_PORT_DOWNEV 1
    if event then s.portEvent p 0x0802 else s

/-- A port starts training: its routes fall back until it is UP. -/
def State.portTrain (s : State) (p : Nat) : State := s.portStop p 1 true

/-- PORT_TRAINING of port `p` up to flit lock: receiver detect finds `good` lanes, and `slow` says that the partner offers
only 106.25 Gb/s. -/
def State.training (s : State) (p good : Nat) (slow : Bool) : State :=
  let st := s.port p
  let g := min good (if cabled p then 8 else 9)
  let cage := tgetD {} s.hw.cages p
  if ¬ st.trains ∨ ¬ s.flag (.abPort p) AB_PORT_EN ∨ s.portUp p ∨ s.pwr.phase ≠ .up ∨ s.linkGone p ∨
      (cabled p = true ∧ (¬ cage.present ∨ cage.lowPower)) then s
  else
    let s := s.setFld (.abPort p) AB_PORT_PRES 1
    if g < 2 then (s.setPort p { good := g, trains := false }).setFld (.abPort p) AB_PORT_WIDTH 6 |>.portEvent p 0x0802
    else
      let s := s.setPort p { good := g, trains := true, locked := true }
      let s := (s.setFld (.abPort p) AB_PORT_RATE (if slow then 1 else 0)).setFld (.abPort p) AB_PORT_PEER2 (if slow then 1 else 0)
      (s.setFld (.abPort p) AB_PORT_SPARE (if ¬ cabled p ∧ g = 8 then 1 else 0)).setFld (.abPort p) AB_PORT_WIDTH 1

def execPortTraining (p good : Nat) (slow : Bool) (s : State) : Res := .next (if p < 16 then s.training p good slow else s)

/-- HELLO, the last step of training: the partner's port, MODNUM word and UID; the module sends its own, and the port is
UP. -/
def State.hello (s : State) (p peerPort modnum uid : Nat) : State :=
  let st := s.port p
  if (¬ st.locked ∧ ¬ s.portUp p) ∨ s.linkGone p = true then s
  else
    let s := s.setPort p { st with peerUid := some uid, left := false }
    let s := (s.setFld (.abPort p) AB_PORT_PEERMOD (modnum % 4096)).setFld (.abPort p) AB_PORT_PPORT peerPort
    let s := if st.locked then
        let s := s.setPort p { s.port p with locked := false, trains := false }
        let s := s.setFld (.abPort p) AB_PORT_WIDTH (widthOf st.good)
        (s.portSend p { mtype := 0x30, vc := 4, src := s.modNum, dst := modnum % 4096, srcid := portL p, len := 32, data := s.mgtData 0 0 0 0 0 }).portEvent p 0x0801
      else s
    s.clearDups

def execHello (p peerPort modnum uid : Nat) (s : State) : Res := .next (if p < 16 then s.hello p peerPort modnum (uid % 2 ^ 64) else s)

/-- AB_DUPID: ports `p` and `r` report one MODNUM with different UIDs; neither is chosen while that lasts. -/
def State.dupId (s : State) (p r : Nat) : State :=
  if s.dupOf p r ∧ ¬ ((s.port p).dup ∧ (s.port r).dup) then
    let s := s.setPort p { s.port p with dup := true }
    let s := s.setPort r { s.port r with dup := true }
    s.raise modLog (srcPort p) 0x0808 (leBytes 1 p ++ leBytes 1 r)
  else s

def execAbDupid (p r : Nat) (s : State) : Res := .next (if p < 16 ∧ r < 16 then s.dupId p r else s)

/-- TRAINING_TIMEOUT: no flit lock 25 ms after detect; training starts again and RETRAIN counts it. -/
def State.trainTimeout (s : State) (p : Nat) : State :=
  let st := s.port p
  if st.trains ∧ ¬ st.locked ∧ s.flag (.abPort p) AB_PORT_EN ∧ ¬ s.linkGone p then
    (s.incFld (.abPortc p) AB_PORTC_RETRAIN 1).setFld (.abPort p) AB_PORT_WIDTH 1
  else s

def execTrainingTimeout (p : Nat) (s : State) : Res := .next (if p < 16 then s.trainTimeout p else s)

/-- LANE_FAILURE on a port that is UP (14 Table 14-2): the spare replaces the lane, or the width falls and the port trains
again, or it is FAILED. -/
def State.laneFail (s : State) (p : Nat) : State :=
  let st := s.port p
  if ¬ s.portUp p then s
  else
    let g := st.good - 1
    let old := widthOf st.good
    let s := s.setPort p { st with good := g }
    if st.good = 9 then (s.setFld (.abPort p) AB_PORT_SPARE 1).portEvent p 0x0803
    else if widthOf g = old then s
    else if widthOf g = 6 then s.portFall p 6 true
    else ((s.incFld (.abPortc p) AB_PORTC_RETRAIN 1).portEvent p 0x0803).portTrain p

def execLaneFailure (p : Nat) (s : State) : Res := .next (if p < 16 then s.laneFail p else s)

/-- PORT_DOWN: loss of flit lock, or no flit for 2 µs. -/
def execPortDown (p : Nat) (s : State) : Res := .next (if p < 16 then s.portFall p 0 true else s)

/-- A cable goes into the cage of `p`: the port trains. -/
def State.cableIn (s : State) (p : Nat) : State :=
  let s := { s with hw := { s.hw with cages := tsetD {} s.hw.cages p { (tgetD ({} : Cage) s.hw.cages p) with present := true } } }
  let s := s.setFld (.abPort p) AB_PORT_PRES 1
  if s.flag (.abPort p) AB_PORT_EN ∧ ¬ s.portUp p ∧ ¬ (tgetD {} s.hw.cages p).lowPower ∧ ¬ s.linkGone p then
    (s.setPort p { s.port p with trains := true }).setFld (.abPort p) AB_PORT_WIDTH 1
  else s

def execCableInsert (p : Nat) (s : State) : Res := .next (if cabled p then s.cableIn p else s)

/-- A draining port that holds nothing more goes DOWN. -/
def State.drained (s : State) (p : Nat) : State :=
  let st := s.port p
  if s.fld (.abPort p) AB_PORT_WIDTH = 5 ∧ st.replay = [] ∧ st.wait = [] ∧ ¬ s.fab.landing.any (·.1 = p) then s.portFall p 0 false
  else s

/-- A write of AB_PORT: EN from 0 to 1 starts training, from 1 to 0 drains the port. -/
def State.wrAbPort (s : State) (p : Nat) (h : Half) (v : Nat) : State :=
  let was := s.flag (.abPort p) AB_PORT_EN
  let s := s.plainWrite (.abPort p) h v
  let now := s.flag (.abPort p) AB_PORT_EN
  if s.linkGone p then s
  else if now ∧ ¬ was then (s.setPort p { good := (s.port p).good, trains := true }).setFld (.abPort p) AB_PORT_WIDTH 1
  else if was ∧ ¬ now then
    if s.portUp p then (s.setFld (.abPort p) AB_PORT_WIDTH 5).drained p
    else if s.fld (.abPort p) AB_PORT_WIDTH = 5 then s
    else (s.setPort p { good := (s.port p).good, trains := false }).setFld (.abPort p) AB_PORT_WIDTH 0
  else s

/-- AB_PORT_EN_WRITE; ROUTE keeps its value. -/
def execAbPortEnWrite (p : Nat) (en : Bool) (s : State) : Res :=
  .next (if p < 16 then s.onBus fun s => s.wrAbPort p .high ((if en then 1 else 0) + 2 * s.fld (.abPort p) AB_PORT_ROUTE) else s)

/-! ### Flits (14 R319, R320) -/

/-- Does a port carry flits: it is UP or drains? -/
def State.carries (s : State) (p : Nat) : Bool := s.portUp p || s.fld (.abPort p) AB_PORT_WIDTH = 5

/-- Take flits out of the replay buffer up to and with FSEQ `a`, when it holds that flit. -/
def ackReplay (a : Nat) (r : List (Nat × Msg)) : List (Nat × Msg) :=
  if r.any (·.1 = a) then (r.dropWhile (·.1 ≠ a)).drop 1 else r

/-- Messages that wait on a port go as far as credits allow. -/
def State.drainWait (s : State) (p : Nat) : State :=
  let ws := (s.port p).wait
  ws.foldl (fun (s : State) m => s.portSend p m) (s.setPort p { s.port p with wait := [] })

/-- Acknowledgement and credits of a flit: a credit field names channel [2:0] and level [3] (DEDUCED, log entry 19). -/
def State.takeAck (s : State) (p ack : Nat) (creds : List (Nat × Nat)) : State :=
  let st := s.port p
  let sent := creds.foldl (fun (t : Tab Nat) c =>
    let k := 2 * (c.1 % 8) + credLvl (c.1 % 8) (c.1 / 8 % 2)
    tsetD 0 t k (tgetD 0 t k - c.2)) st.sent
  ((s.setPort p { st with replay := ackReplay (ack % 4096) st.replay, acked := ack % 4096, sent }).drainWait p).drained p

def isReq (m : Msg) : Bool := 1 ≤ m.mtype && m.mtype ≤ 3

/-- BADMSG counts a discarded message on its port. -/
def State.badMsg (s : State) (p : Nat) : State := s.incFld (.abPortc p) AB_PORTC_BADMSG 1

/-- The landing space of a message returns to the partner. -/
def State.credBack (s : State) (p : Nat) (m : Msg) : State := s.emit (.linkCred p m.vc (credLvl m.vc m.lvl))

/-- MTYPEs of 14 Table 14-6. -/
def mtypeOk (m : Msg) : Bool := [1, 2, 3, 4, 0x10, 0x11, 0x20, 0x30].contains m.mtype

/-- A message is read from a flit: one that is malformed, or that the port may not carry, is discarded and counted; one that
meets an L-die leaving the fabric is answered DOMAIN_OFF; any other lands. -/
def State.land (s : State) (p : Nat) (m : Msg) : State :=
  if ¬ mtypeOk m ∨ m.rsvd then
    let s := (s.badMsg p).credBack p m
    if isReq m then s.answer m 3 [] else s
  else if (m.mtype = 0x20 ∧ s.flag (.abPort p) AB_PORT_PEER2) ∨ (m.mtype ≠ 0x30 ∧ ¬ s.assigned) then (s.badMsg p).credBack p m
  else if isReq m ∧ m.dst = s.modNum ∧ s.fab.leaving.contains (p / 4) then (s.credBack p m).answer m 1 []
  else { s with fab := { s.fab with landing := s.fab.landing ++ [(p, m)] } }

/-- FLIT_RECEIVE on port `p`: ACKSEQ, returned credits, and, in a DATA flit, FSEQ and its message. -/
def State.flit (s : State) (p : Nat) (crcOk : Bool) (fseq ack : Nat) (creds : List (Nat × Nat)) (msg : Option Msg) : State :=
  if ¬ s.carries p then s
  else if ¬ crcOk then s.emit (.linkAck p (((s.port p).expSeq + 4095) % 4096) true)
  else
    let s := s.takeAck p ack creds
    match msg with
    | none => s
    | some m =>
      let st := s.port p
      if fseq = st.expSeq then
        ((s.setPort p { st with expSeq := (st.expSeq + 1) % 4096 }).emit (.linkAck p fseq false)).land p m
      else s.emit (.linkAck p ((st.expSeq + 4095) % 4096) true)

def execFlitReceive (p : Nat) (crcOk : Bool) (fseq ack : Nat) (creds : List (Nat × Nat)) (msg : Option Msg) (s : State) : Res :=
  .next (if p < 16 then s.flit p crcOk fseq ack creds msg else s)

/-- NAK_RESEND: a NAK with ACKSEQ `ack`; REPLAY counts it, and the flits after it are sent again. More than 64 in 1 ms
retrain the port. -/
def State.nak (s : State) (p ack : Nat) : State :=
  if ¬ s.carries p then s
  else
    let s := s.incFld (.abPortc p) AB_PORTC_REPLAY 1
    let st := s.port p
    let naks := (st.naks.filter fun t => decide (s.svcTime - t < tickMs)) ++ [s.svcTime]
    let s := s.setPort p { st with naks, replay := ackReplay (ack % 4096) st.replay, acked := ack % 4096 }
    if 64 < naks.length then ((s.incFld (.abPortc p) AB_PORTC_RETRAIN 1).portEvent p 0x0804).portTrain p
    else (s.port p).replay.foldl (fun (s : State) f => s.emit (.link p f.2)) s

def execNakResend (p ack : Nat) (s : State) : Res := .next (if p < 16 then s.nak p ack else s)

/-! ### Messages that landed (14 R321, R322, R327) -/

/-- The `k`-th landed message, when no earlier one of the same source, destination and channel waits before it. -/
def State.landed (s : State) (k : Nat) : Option (Nat × Msg) :=
  match s.fab.landing[k]? with
  | some (p, m) =>
    if (s.fab.landing.take k).any fun e => e.2.src = m.src && e.2.srcid = m.srcid && e.2.dst = m.dst && e.2.vc = m.vc then none
    else some (p, m)
  | none => none

/-- The `k`-th landed message leaves its landing. -/
def State.unland (s : State) (k p : Nat) (m : Msg) : State :=
  (({ s with fab := { s.fab with landing := s.fab.landing.eraseIdx k } } : State).credBack p m).drained p

/-- Run `f` on the `k`-th landed message when it is of type `t` and addressed to this module. -/
def State.onMsg (s : State) (k t : Nat) (f : State → Nat → Msg → State) : State :=
  match s.landed k with
  | some (p, m) => if m.mtype = t ∧ m.dst = s.modNum then f s p m else s
  | none => s

/-- The peer set of partition `p` admits the pair of SRC and SPART (15 R350). -/
def State.peerOk (s : State) (p src spart : Nat) : Bool :=
  s.partOn p && (List.range 8).any fun e =>
    let r := Reg.ptPeer (8 * p + e)
    s.flag r PT_PEER_VALID && decide (s.fld r PT_PEER_MODLO ≤ src) && decide (src ≤ s.fld r PT_PEER_MODHI) &&
      (s.flag r PT_PEER_ANY || s.fld r PT_PEER_RPART = spart)

/-- What ADDR of a request names: below 2^40 a local address, else a tier-object handle (its element 0). -/
def msgTarget (m : Msg) : Target := if m.addr < 2 ^ 40 then .addr m.addr else .elem m.addr 0

/-- Does DPART own what the request names? -/
def State.dpartOwns (s : State) (m : Msg) (n : Nat) : Bool :=
  let handlePart (h : Nat) : Bool := match s.obj h, s.tableOf h with
    | some o, _ => o.part = m.dpart
    | none, some t => t.part = m.dpart
    | none, none => false
  match msgTarget m with
  | .addr a => s.addrPart a = some m.dpart && s.addrPart (a + n - 1) = some m.dpart
  | .elem h _ => handlePart h
  | .part h _ _ => handlePart h

/-- The status that a request is refused with before it is served, if any: DOMAIN_OFF while DPART drains, ADDR outside the
peer set or DPART's memory. -/
def State.reqCheck (s : State) (m : Msg) (n : Nat) : Option Nat :=
  if s.ptState m.dpart = 2 then some 1
  else if ¬ s.peerOk m.dpart m.src m.spart ∨ ¬ s.dpartOwns m n then some 3
  else none

/-- A refused request: AB_PEER_ADDR goes to DPART's log. -/
def State.refuseReq (s : State) (p : Nat) (m : Msg) (st : Nat) : State :=
  (if st = 3 then s.raise m.dpart (portL p) 0x0807 [] else s).answer m st []

/-- RD: LEN bytes within one aligned 256-byte block. -/
def State.serveRd (s : State) (k : Nat) (e : MemErr) : State :=
  s.onMsg k 1 fun s p m =>
    if m.len < 32 ∨ 256 < m.len ∨ (m.addr < 2 ^ 40 ∧ 256 < m.addr % 256 + m.len) then (s.unland k p m).refuseReq p m 3
    else match s.reqCheck m m.len with
      | some st => (s.unland k p m).refuseReq p m st
      | none =>
        let r := s.readEnd (portL p) (msgTarget m) m.len e
        match r.2.1 with
        | .ok | .queued => (r.1.unland k p m).answer m 0 r.2.2
        | .no st => (r.1.unland k p m).refuseReq p m st
        | .held => s

def execRd (k : Nat) (err : MemErr) (s : State) : Res := .next (s.serveRd k err)

/-- WR (`t` 2, `addt` 0) and ADD (`t` 3): the bytes are applied, or the request is refused. -/
def State.serveWr (s : State) (k t : Nat) (fault : Bool) : State :=
  s.onMsg k t fun s p m =>
    let addt := if t = 3 then m.aux % 16 else 0
    let data := bytesAt m.data 0 m.len
    if m.len = 0 ∨ 256 < m.len ∨ (t = 3 ∧ (addt = 0 ∨ (addt ≤ 7 ∧ m.len % addWidth addt ≠ 0))) then (s.unland k p m).refuseReq p m 3
    else match s.reqCheck m m.len with
      | some st => (s.unland k p m).refuseReq p m st
      | none =>
        if fault then (s.unland k p m).answer m 4 []
        else
          let r := s.writeEnd (portL p) (msgTarget m) addt data (some (.msg m))
          match r.2 with
          | .ok => (r.1.unland k p m).answer m 0 []
          | .queued => r.1.unland k p m
          | .no st => (r.1.unland k p m).refuseReq p m st
          | .held => s

def execWr (k : Nat) (s : State) : Res := .next (s.serveWr k 2 false)
def execAdd (k : Nat) (fault : Bool) (s : State) : Res := .next (s.serveWr k 3 fault)

/-- SIG: a semaphore message for a quad of this module. From outside the peer set it is discarded and counted; a stale one is
dropped and its sender told. -/
def State.serveSig (s : State) (k : Nat) : State :=
  s.onMsg k 4 fun s p m =>
    let s := s.unland k p m
    let q := bits m.aux 0 7
    let j := bits m.aux 8 8
    let n := bits m.aux 16 16
    if ¬ s.peerOk m.dpart m.src m.spart ∨ 80 ≤ q then s.badMsg p
    else if s.quadGone q then s.answer m 1 []
    else
      let s := s.askWake q
      let has := (s.quadInst q).isSome
      if has ∧ (s.flag (.abPort p) AB_PORT_PEER2 ∨ (m.epoch ≠ 0 ∧ s.fld (.schQuad q) SCH_QUAD_EPOCH = m.epoch)) then s.addSem q j n (portL p)
      else (s.incFld (.schQuad q) SCH_QUAD_STALE 1).answer m 2 []

def execSig (k : Nat) (s : State) : Res := .next (s.serveSig k)

/-! ### Responses (14 R322) -/

/-- Is module `m` a child of a running step bound to an instance of the source's quad, and not ended? Its refusal makes it
absent (14 Table 14-12). -/
def State.childGone (s : State) (srcid m : Nat) : State :=
  (List.range 64).foldl (fun (s : State) g =>
    let d := s.group g
    let st := s.gst g
    if grEn d ∧ st.running ∧ isQuadUnit srcid ∧ s.quadInst (srcid / 16) = some (grInst d) then
      ((List.range (grNchild d)).filter fun c => grChild d c = m && !(tgetD {} st.slots c).ended).foldl (fun (s : State) c =>
        let st := s.gst g
        s.setGst g { st with slots := tsetD {} st.slots c { tgetD {} st.slots c with absent := true } }) s
    else s) s

/-- The requester takes a status that is not OK: DOMAIN_OFF follows R230; UNREACHABLE is FRY_DOMAIN at a ferry. -/
def State.reqFailed (s : State) (o : Outst) (st : Nat) : State :=
  let s := if st = 1 ∨ st = 5 then s.childGone o.srcid o.dst else s
  match o.piece with
  | some (n, k, off, len, _) => s.fryRefuse n k (off, len) st
  | none =>
    let s := s.emit (.fabricResp o.srcid o.tag st [])
    if isQuadUnit o.srcid then s.quadFault (o.srcid / 16) o.srcid (if st = 4 then 0x0405 else 0x0306) [] else s

/-- STALE_EPOCH for a SIG or COL of this module: it is reported in the sending quad's log. -/
def State.staleBack (s : State) (srcid : Nat) : State :=
  s.raise (if isQuadUnit srcid then s.quadLog (srcid / 16) else modLog) srcid 0x0307 []

/-- A response is taken by the request of its tag; one that answers none, or a stale one, is discarded. -/
def State.takeResp (s : State) (k t : Nat) : State :=
  s.onMsg k t fun s p m =>
    let s := s.unland k p m
    if m.status = 2 then s.staleBack m.srcid
    else match s.fab.outst.find? fun o => o.tag = m.tag && o.dst = m.src with
      | none => s
      | some o =>
        let s : State := { s with fab := { s.fab with outst := dropFirst (· = o) s.fab.outst } }
        if o.stale then s
        else if m.status ≠ 0 then s.reqFailed o m.status
        else match o.piece with
          | some (n, k, off, len, skip) => if o.kind = 1 then s.piecePart n k off (bytesAt m.data skip len) else s.ackTo (some (.piece n k)) len |>.pumped n
          | none => s.emit (.fabricResp o.srcid o.tag 0 m.data)

def execRdr (k : Nat) (s : State) : Res := .next (s.takeResp k 0x10)
def execAck (k : Nat) (s : State) : Res := .next (s.takeResp k 0x11)

/-- RTO_EXPIRY: AB_CTL.RTO µs passed since the request of `tag` was sent: its L-die generates UNREACHABLE, and a response
that comes later answers nothing. -/
def State.rtoExpiry (s : State) (tag : Nat) : State :=
  match s.fab.outst.find? (·.tag = tag) with
  | some o =>
    if s.svcTime < o.time + s.fld .abCtl AB_CTL_RTO * tickUs then s
    else
      let s : State := { s with fab := { s.fab with outst := dropFirst (· = o) s.fab.outst } }
      let s := s.raise modLog (lDie o.srcid) 0x0805 []
      if o.stale then s else s.reqFailed o 5
  | none => s

def execRtoExpiry (tag : Nat) (s : State) : Res := .next (s.rtoExpiry tag)

/-! ### Forwarding (14 R324, R325) -/

/-- MESSAGE_FORWARD of the `k`-th landed message: MGT by its source route, any other by AB_ROUTE. A module without a number forwards
nothing: its ports carry MGT of direct neighbours only (14 R323). -/
def State.forward (s : State) (k : Nat) : State :=
  match s.landed k with
  | none => s
  | some (p, m) =>
    if m.mtype = 0x30 ∧ m.rlen ≠ 0 then
      let out := m.aux % 16
      let n := leAt m.data 13 1
      let path := (leAt m.data 14 4 * 16 + p) % 2 ^ 32
      let data := m.data.take 13 ++ leBytes 1 (n + 1) ++ leBytes 4 path ++ m.data.drop 18
      let s := s.unland k p m
      if ¬ s.assigned then s.badMsg p
      else if s.portUp out then s.portSend out { m with aux := m.aux / 16, rlen := m.rlen - 1, data } else s
    else if m.dst = s.modNum ∨ (m.mtype = 0x30 ∧ leAt m.data 0 1 ≠ 5) then s
    else
      let s := s.unland k p m
      let fail (s : State) : State :=
        if isReq m then (s.raise modLog (portL p) 0x0805 []).answer m 5 [] else s
      if 15 ≤ m.hops then fail s
      else
        let r := s.sendMsg { m with hops := m.hops + 1 }
        if r.2 then r.1 else fail r.1

def execMessageForward (k : Nat) (s : State) : Res := .next (s.forward k)

/-! ### Collective groups (14 R329-R333) -/

/-- Does a partner at a 2-series port carry this module number? -/
def State.series2 (s : State) (m : Nat) : Bool :=
  (List.range 16).any fun p => s.flag (.abPort p) AB_PORT_PEER2 && s.portUp p && s.fld (.abPort p) AB_PORT_PEERMOD = m

/-- The check of a group descriptor at EN = 1. -/
def State.groupOk (s : State) (d : List Byte) : Bool :=
  let kids := (List.range (grNchild d)).map (grChild d)
  bits (leAt d 0 1) 3 4 = 0 && bits (leAt d 2 2) 12 3 = 0 && !(bitAt (leAt d 7 1) 7) && zeroRange d 38 40 && zeroRange d 58 64 &&
    grOp d ≤ 2 && grNchild d ≤ 15 && 1 ≤ leAt d 4 2 && leAt d 4 2 ≤ 4096 && grSlot d ≤ 14 &&
    10 ≤ grCto d && grCto d ≤ 1000000 && 256 ≤ grSlotsz d && grSlotsz d ≤ 2 ^ 22 && grSlotsz d % 256 = 0 &&
    grBuf d % 64 = 0 && grQuad d < 80 && (s.inst (grInst d)).isSome &&
    kids.all (fun m => m < 4096 && s.flag (.abRoute m) AB_ROUTE_VALID && !(s.series2 m)) &&
    (grRoot d || !(s.series2 (grParent d)))

/-- The log of a group's events: that of the bound instance's partition. -/
def State.groupLog (s : State) (d : List Byte) : Nat := ((s.inst (grInst d)).map Inst.part).getD modLog

/-- A write of a word of the group table; one that sets EN in word 0 checks the descriptor, or is refused with
AB_COLL_FAIL and leaves EN 0. -/
def State.wrAbGroup (s : State) (k : Nat) (h : Half) (v : Nat) : State :=
  let s := s.plainWrite (.abGroup k) h v
  if k % 8 ≠ 0 ∨ h = .high then s
  else
    let d := s.group (k / 8)
    let s := s.setGst (k / 8) {}
    if ¬ grEn d ∨ s.groupOk d then s
    else (s.setReg (.abGroup k) (BitVec.ofNat 64 (putBits (s.reg (.abGroup k)).toNat 7 1 0))).raise (s.groupLog d) (srcL 0) 0x0806 (leBytes 1 (k / 8))

/-- GROUP_ENABLE: word 0 of group `g` is written. -/
def execGroupEnable (g v : Nat) (s : State) : Res := .next (if g < 64 then s.onBus fun s => s.wrAbGroup (8 * g) .whole v else s)

/-- COLLECTIVE_WINDOW_WRITE: a ferry's COPY of `data`, or its NOTE, at offset `off` of the window of group `g`. -/
def State.windowCmd (s : State) (src g off : Nat) (data : Option (List Byte)) : State :=
  let r := s.windowWrite src g off data
  if r.2 then r.1 else s.addrFault src (winBase + winSize * (g % 64) + off)

def execCollectiveWindowWrite (src g off : Nat) (data : Option (List Byte)) (s : State) : Res := .next (s.windowCmd src g off data)

/-- COL: a child's bytes go into its slot, or END ends it. -/
def State.serveCol (s : State) (k : Nat) : State :=
  s.onMsg k 0x20 fun s p m =>
    let g := bits m.aux 0 6
    let c := bits m.aux 8 4
    let seq := bits m.aux 16 16
    let d := s.group g
    let st := s.gst g
    if ¬ s.peerOk m.dpart m.src m.spart ∨ ¬ grEn d ∨ grNchild d ≤ c ∨ grChild d c ≠ m.src ∨ st.done.contains seq then (s.unland k p m).badMsg p
    else if s.fld (.schInst (grInst d)) SCH_INST_EPOCH ≠ m.epoch then (s.unland k p m).answer m 2 []
    else if st.running ∧ st.seq ≠ seq then s
    else
      let s := s.unland k p m
      let s := if st.running then s else (s.setGst g { st with seq }).startStep g
      let st := s.gst g
      let sl := tgetD {} st.slots c
      if bitAt m.aux 12 then
        let part : Bool := sl.part || bitAt m.aux 13 || bitAt m.addr 13
        s.setGst g { st with slots := tsetD {} st.slots c { sl with ended := true, part, modResp := bits m.addr 0 13 } }
      else
        let off := m.addr % 2 ^ 40
        let keep := (bytesAt m.data 0 m.len).take (grSlotsz d - off)
        let cut : Bool := decide (keep.length < m.len)
        let s := s.setGst g { st with slots := tsetD {} st.slots c { sl with len := max sl.len (off + keep.length), part := sl.part || cut } }
        (s.writeAddr (portL p) (grBuf d + 64 + c * grSlotsz d + off) keep).1

def execCol (k : Nat) (s : State) : Res := .next (s.serveCol k)

/-- A barrier of a training instance ends: the model's pending window has it (04 R75). -/
def State.barrierEnds (s : State) (i : Nat) : State :=
  match s.inst i with
  | some v => if v.kind = 2 then s.mapGate v.object fun g => { g with barrier := g.pend } else s
  | none => s

/-- The step of group `g` ends: the arrival summary is written at BUF and SEM is signalled on QUAD. A SUM or BARRIER fails with a
child missing or partial, and with one missing the bound instance's task is aborted too (14 Table 14-12). -/
def State.endStep (s : State) (g : Nat) : State :=
  let d := s.group g
  let st := s.gst g
  let slot (c : Nat) := tgetD {} st.slots c
  let kids := List.range (grNchild d)
  let here := kids.filter fun c => (slot c).ended
  let lacks : Bool := kids.any fun c => !(slot c).ended
  let part : Bool := lacks || kids.any fun c => (slot c).part
  let fail : Bool := part && grOp d ≠ 0
  let sum := leBytes 4 st.seq ++ leBytes 2 (here.foldl (fun a c => a + 2 ^ c) 0) ++ leBytes 2 st.resp ++
    leBytes 1 ((if part then 1 else 0) + if fail then 2 else 0) ++ leBytes 7 0 ++
    (List.range 15).flatMap (fun c => leBytes 3 (slot c).len) ++ leBytes 3 0
  let owed := if st.sent then st.owed else st.owed ++ [(st.seq, st.resp, part)]
  let s := s.setGst g { seq := (st.seq + 1) % 65536, done := (st.seq :: st.done).take 256, owed }
  let s := (s.writeAddr (srcL 0) (grBuf d) sum).1
  let s := s.signal (grQuad d) (grSem d) 1 (srcL 0)
  let s := if fail ∨ grOp d ≠ 2 then s else s.barrierEnds (grInst d)
  if fail ∧ lacks then (s.raise (s.groupLog d) (srcL 0) 0x0806 (leBytes 1 g)).startAbort (grInst d) 0x0806 else s

/-- Has every child of a running step sent END, or been refused? -/
def State.stepWhole (s : State) (g : Nat) : Bool :=
  let d := s.group g
  (s.gst g).running && grEn d && (List.range (grNchild d)).all fun c =>
    let sl := tgetD {} (s.gst g).slots c
    sl.ended || sl.absent

def execCollectiveStepComplete (g : Nat) (s : State) : Res := .next (if g < 64 ∧ s.stepWhole g then s.endStep g else s)

/-- CTO_EXPIRY: CTO µs passed since the step began; it ends with the children present. -/
def State.ctoExpiry (s : State) (g : Nat) : State :=
  let st := s.gst g
  if st.running ∧ grEn (s.group g) ∧ st.since + grCto (s.group g) * tickUs ≤ s.svcTime then s.endStep g else s

def execCtoExpiry (g : Nat) (s : State) : Res := .next (if g < 64 then s.ctoExpiry g else s)

/-! ### Management messages (14 R324, R333, R336) -/

/-- The value an Abdan Link register shows: AB_UID is the T-die's. -/
def State.abRead (s : State) (r : Reg) : Nat := if r = .abUid then Config.abUid.toNat else (s.reg r).toNat

/-- A write of AB_CTL: an RTO below 10 is ignored. -/
def State.wrAbCtl (s : State) (h : Half) (v : Nat) : State :=
  let rto := s.fld .abCtl AB_CTL_RTO
  let s := s.plainWrite .abCtl h v
  if s.fld .abCtl AB_CTL_RTO < 10 then s.setFld .abCtl AB_CTL_RTO rto else s

/-- A write of a register of the Abdan Link block. -/
def State.abWrite (s : State) (r : Reg) (h : Half) (v : Nat) : State :=
  match r with
  | .abPort p => s.wrAbPort p h v
  | .abGroup k => s.wrAbGroup k h v
  | .abCtl => s.wrAbCtl h v
  | r => s.plainWrite r h v

/-- The register at an offset of the Abdan Link block, on an 8-byte boundary. -/
def abReg (off : Nat) : Option Reg := if off % 8 = 0 ∧ off < 0x20000 then regAt (0xE0000 + off) else none

/-- Run `f` on the `k`-th landed MGT message with OP `op`, when it is to be executed here. -/
def State.onMgt (s : State) (k op : Nat) (f : State → Nat → Msg → State) : State :=
  match s.landed k with
  | some (p, m) => if m.mtype = 0x30 ∧ m.rlen = 0 ∧ leAt m.data 0 1 = op then f (s.unland k p m) p m else s
  | none => s

/-- A REPLY along the path that the request recorded; STATUS ADDR stands in its header (DEDUCED, log entry 20). -/
def State.mgtReply (s : State) (p : Nat) (m : Msg) (status value : Nat) : State :=
  if s.portUp p then
    s.portSend p { mtype := 0x30, vc := 4, dst := m.src, src := s.modNum, srcid := m.srcid, tag := m.tag, aux := leAt m.data 14 4,
                   rlen := leAt m.data 13 1 % 16, status, len := 32, data := s.mgtData 3 0 0 (leAt m.data 20 4) value }
  else s

/-- While ASSIGNED = 0, MGT messages come only from a direct neighbour. -/
def State.mgtFar (s : State) (m : Msg) : Bool := !s.assigned && leAt m.data 13 1 ≠ 0

def State.mgtRead (s : State) (k : Nat) : State :=
  s.onMgt k 1 fun s p m =>
    if s.mgtFar m then s.badMsg p
    else match abReg (leAt m.data 20 4) with
      | some r => s.mgtReply p m 0 (s.abRead r)
      | none => s.mgtReply p m 3 0

def execMgtRead (k : Nat) (s : State) : Res := .next (s.mgtRead k)

/-- MGT_WRITE: executed when MGTWR = 1 and, once ASSIGNED = 1, when SRC is the fabric manager's module. -/
def State.mgtWrite (s : State) (k : Nat) : State :=
  s.onMgt k 2 fun s p m =>
    if s.mgtFar m then s.badMsg p
    else if ¬ s.flag .abCtl AB_CTL_MGTWR ∨ (s.assigned ∧ m.src ≠ s.fld .abCtl AB_CTL_MGR) then s.mgtReply p m 3 0
    else match abReg (leAt m.data 20 4) with
      | some r => s.abWrite r .whole (leAt m.data 24 8)
      | none => s.mgtReply p m 3 0

def execMgtWrite (k : Nat) (s : State) : Res := .next (s.mgtWrite k)

/-- MGT_REPLY at the requester: its value is delivered. -/
def execMgtReply (k : Nat) (s : State) : Res :=
  .next (s.onMgt k 3 fun s _ m => s.emit (.fabricResp m.srcid m.tag m.status (bytesAt m.data 24 8)))

/-- LEAVE from a neighbour: the ports towards it are not chosen any more. -/
def State.fabLeave (s : State) (k : Nat) : State :=
  s.onMgt k 4 fun s p _ =>
    (List.range 16).foldl (fun (s : State) r =>
      if r = p ∨ ((s.port p).peerUid.isSome ∧ (s.port r).peerUid = (s.port p).peerUid) then s.setPort r { s.port r with left := true } else s) s

def execLeave (k : Nat) (s : State) : Res := .next (s.fabLeave k)

/-- ABORT_INST: the instance bound to the group aborts, and the message goes on to the other neighbours of the tree; one that
finds the instance already aborting is not forwarded. -/
def State.abortInst (s : State) (k : Nat) : State :=
  match s.landed k with
  | some (_, m) =>
    if s.assigned ∧ m.dst ≠ s.modNum then s
    else s.onMgt k 5 fun s _ m =>
      let g := leAt m.data 24 8
      let d := s.group g
      let i := grInst d
      if 64 ≤ g ∨ ¬ grEn d ∨ (s.inst i).isNone ∨ s.flag (.schInst i) SCH_INST_ABORTING then s
      else
        let s := (s.startAbort i 0xFFFF).sendAborts i (some m.src)
        { s with ctl := { s.ctl with aborting := mapIf (·.inst = i) (fun a => { a with told := true }) s.ctl.aborting } }
  | none => s

def execAbortInst (k : Nat) (s : State) : Res := .next (s.abortInst k)

/-- FABRIC_DRAIN of one L-die, or of all (`none`): LEAVE goes out on every UP port and the ports drain; commanded again once
they drained or 100 µs passed, the ports are DOWN. -/
def State.fabricDrain (s : State) (l : Option Nat) : State :=
  let dies := match l with
    | some x => [x % 4]
    | none => [0, 1, 2, 3]
  let ports := (List.range 16).filter fun p => dies.contains (p / 4)
  let again := dies.all s.fab.leaving.contains
  let s : State := { s with fab := { s.fab with leaving := s.fab.leaving ++ dies.filter fun d => !(s.fab.leaving.contains d) } }
  if again then
    (ports.filter fun p => s.fld (.abPort p) AB_PORT_WIDTH = 5).foldl (fun (s : State) p => s.portFall p 0 false) s
  else
    (ports.filter s.portUp).foldl (fun (s : State) p =>
      (s.portSend p { mtype := 0x30, vc := 4, src := s.modNum, dst := s.fld (.abPort p) AB_PORT_PEERMOD, srcid := portL p, len := 32,
                      data := s.mgtData 4 0 0 0 0 }).setFld (.abPort p) AB_PORT_WIDTH 5) s

def execFabricDrain (l : Option Nat) (s : State) : Res := .next (s.fabricDrain l)

/-! ### The exchange of time (16 R382, R383) -/

/-- The hop count that SVC_SYNC shows: 0 on the source, 15 while unlocked. -/
def State.syncHops (s : State) : Nat :=
  if s.flag .svcSync SVC_SYNC_MASTER then 0 else if s.flag .svcSync SVC_SYNC_LOCKED then s.fld .svcSync SVC_SYNC_HOPS else 15

/-- The UID of the time source this module names, if any. -/
def State.timeUid (s : State) : Option Nat :=
  if s.flag .svcSync SVC_SYNC_MASTER then some Config.abUid.toNat
  else if s.flag .svcSync SVC_SYNC_LOCKED then some s.pwr.timeSrc else none

/-- A time flit names a second source: CONFLICT, and SVC_SYNCCONF at most once a second. -/
def State.syncConflict (s : State) (p uid : Nat) : State :=
  let s := s.setFld .svcSync SVC_SYNC_CONFLICT 1
  let due : Bool := match s.pwr.confTime with
    | some t => decide (tickS ≤ s.svcTime - t)
    | none => true
  if due then ({ s with pwr := { s.pwr with confTime := some s.svcTime } } : State).raise modLog srcM 0x0A0D (leBytes 8 uid ++ leBytes 1 p)
  else s

/-- Follow the neighbour's time: forward at first lock, and by at most 100 ppm of the 1 ms between exchanges (40 ticks) once
locked; never backward. `there` is the neighbour's time corrected by half the round trip. -/
def State.follow (s : State) (uid hops there : Nat) : State :=
  let fresh := ¬ s.flag .svcSync SVC_SYNC_LOCKED ∨ s.pwr.timeSrc ≠ uid
  let ahead := there - s.svcTime
  let off : Int := (5 * ((there : Int) - s.svcTime)) / 2
  let s : State := { s with svcTime := s.svcTime + (if fresh then ahead else min ahead 40) }
  let s : State := { s with pwr := { s.pwr with timeSrc := uid, syncAt := s.svcTime, syncSaid := false } }
  ((s.setFld .svcSync SVC_SYNC_LOCKED 1).setFld .svcSync SVC_SYNC_HOPS (hops + 1)).setFld .svcSync SVC_SYNC_OFFSET
    (toTwos 16 (clampInt (-32768) 32767 off))

/-- TIME_FLIT_EXCHANGE on port `p`: the module's own time flit, and what came: a source's UID, the sender's hop count and time,
and the measured round trip in ticks. -/
def State.timeFlit (s : State) (p : Nat) (rx : Option (Nat × Nat × Nat)) (trip : Nat) : State :=
  if ¬ s.portUp p then s
  else
    let s := match s.timeUid with
      | some u => s.emit (.timeFlit p u s.syncHops s.svcTime)
      | none => s
    match rx with
    | none => s
    | some (uid, hops, time) =>
      let sync : Bool := s.fld .svcSync SVC_SYNC_PORT = p && !(s.flag .svcSync SVC_SYNC_MASTER)
      let s := match s.timeUid with
        | some u => if u ≠ uid ∧ ¬ sync then s.syncConflict p uid else s
        | none => s
      if ¬ sync then s else if 14 ≤ hops then s.loseSync else s.follow uid hops (time + trip / 2)

def execTimeFlitExchange (p : Nat) (rx : Option (Nat × Nat × Nat)) (trip : Nat) (s : State) : Res :=
  .next (if p < 16 then s.timeFlit p rx trip else s)

/-- SYNC_SILENCE_TIMEOUT: no time flit on the sync port of a follower for 10 ms. -/
def State.syncSilence (s : State) : State :=
  if ¬ s.flag .svcSync SVC_SYNC_MASTER ∧ s.pwr.syncAt + 10 * tickMs ≤ s.svcTime then s.loseSync else s

def execSyncSilenceTimeout (s : State) : Res := .next s.syncSilence

end Sys2Proof.Machine
end

