-- ==== Sys2Proof/Machine/Part.lean ====
section
/-! DEFINITION. Partitions and tenants (15 R343-R353, R364-R368): the partition-configuration lock, partition states,
owners and their wipes, floors, tenants, their keys and quotas. -/

namespace Sys2Proof.Machine

/-! ### The lock and measurement 9 (15 R361, R364) -/

/-- The registers of measurement 9, in ascending register order (15 Table 15-9). -/
def measRegs : List Reg :=
  (List.range 64).map .frySplit ++ [.qwWin] ++ (List.range 64).map .ptCfg ++ (List.range 256).map .ptFloor ++
    (List.range 512).map .ptPeer ++ (List.range 10).map .ptOwnQ ++ (List.range 160).map .ptOwnB ++
    (List.range 54).map .ptOwnH ++ (List.range 18).map .ptOwnG ++ (List.range 512).map .ptOwnS ++ (List.range 1024).map .tnCfg

/-- The content of measurement 9: of QW_WIN, only ALL. -/
def State.partConfig (s : State) : List Byte :=
  measRegs.flatMap fun r => leBytes 8 (if r = .qwWin then s.fld .qwWin QW_WIN_ALL else (s.reg r).toNat)

def State.setMeas (s : State) (i : Nat) (bs : List Byte) : State :=
  { s with trust := { s.trust with meas := tsetD [] s.trust.meas i bs } }

/-- A write of PT_LOCK: an accepted close recomputes measurement 9. -/
def State.wrPtLock (s : State) (src : Nat) (h : Half) (v : Nat) : State :=
  let r := s.wrLock .ptLock src (wrote h PT_LOCK_OPEN && wval h v PT_LOCK_OPEN = 1) (wrote h PT_LOCK_CLOSE && wval h v PT_LOCK_CLOSE = 1)
  if r.2 then r.1.setMeas 9 (Config.sha384 r.1.partConfig) else r.1

def execPtLockOpen (src : Nat) (s : State) : Res := .next (s.onBus fun s => s.wrPtLock src .whole 1)
def execPtLockClose (src : Nat) (s : State) : Res := .next (s.onBus fun s => s.wrPtLock src .whole 2)

/-! ### Partition states (15 R347) -/

/-- Instances of a partition. -/
def State.instsOf (s : State) (p : Nat) : List Nat :=
  (List.range 80).filter fun i => match s.inst i with
    | some v => v.part = p
    | none => false

/-- May an OFF partition turn ON: the lock is open, a quad is owned, and no wipe is pending on its granules? -/
def State.mayTurnOn (s : State) (p : Nat) : Bool :=
  s.flag .ptLock PT_LOCK_OPEN && (List.range 80).any (fun q => s.owner 0 q = p) &&
    !(s.part.wipes.any fun g => s.owner g.1 g.2 = p)

/-- ON to DRAINING: every instance is to be unloaded, and its waiting tasks go elsewhere (09 R211). -/
def State.startDrain (s : State) (p : Nat) : State :=
  let s := (s.setFld (.ptCfg p) PT_CFG_STATE 2).setFld (.ptCfg p) PT_CFG_EN 0
  let is := s.instsOf p
  let s := is.foldl (fun (s : State) i => s.mapInst i fun v => { v with unloading := true }) s
  is.foldl (fun (s : State) i => match s.inst i with
    | some v => s.moveWaiting v i
    | none => s) s

/-- PT_CFG.EN is written (15 Table 15-3). -/
def State.wrPtEn (s : State) (p : Nat) (en : Bool) : State :=
  let refused := s.setFld (.ptStat p) PT_STAT_REFUSED 1
  match s.ptState p, en with
  | 0, true => if s.mayTurnOn p then (s.setFld (.ptCfg p) PT_CFG_STATE 1).setFld (.ptCfg p) PT_CFG_EN 1 else refused
  | 1, false => if s.flag .ptLock PT_LOCK_OPEN then s.startDrain p else s
  | 2, true => refused
  | _, _ => s

/-- A write of PT_CFG: DLOGQ within 1-384 and a sum of 384; FLASHGB within the module's user capacity (15 R365). -/
def State.wrPtCfg (s : State) (p : Nat) (h : Half) (v : Nat) : State :=
  let lock := s.flag .ptLock PT_LOCK_OPEN
  let sum (f : Fld) : Nat := (List.range 64).foldl (fun a k => if k = p then a else a + s.fld (.ptCfg k) f) 0
  let d := wval h v PT_CFG_DLOGQ
  let g := wval h v PT_CFG_FLASHGB
  let s1 := if lock ∧ wrote h PT_CFG_DLOGQ = true ∧ 1 ≤ d ∧ d ≤ 384 ∧ sum PT_CFG_DLOGQ + d ≤ 384 then s.setFld (.ptCfg p) PT_CFG_DLOGQ d else s
  let s2 := if lock ∧ wrote h PT_CFG_FLASHGB = true ∧ sum PT_CFG_FLASHGB + g ≤ s.fld .flStat FL_STAT_USERGB then s1.setFld (.ptCfg p) PT_CFG_FLASHGB g else s1
  if wrote h PT_CFG_EN then s2.wrPtEn p (wval h v PT_CFG_EN = 1) else s2

/-- PT_CFG_EN_WRITE: EN alone is written. -/
def execPtCfgEnWrite (p : Nat) (en : Bool) (s : State) : Res := .next (if p < 64 then s.onBus fun s => s.wrPtEn p en else s)

/-- PARTITION_DRAIN_COMPLETE: the instances whose tasks are over are unloaded; with the last of them the partition is OFF. -/
def State.drainDone (s : State) (p : Nat) : State :=
  if s.ptState p ≠ 2 then s
  else
    let s := (s.instsOf p).foldl (fun (s : State) i => match s.inst i with
      | some v => if v.tasks = [] ∧ ¬ s.flag (.schInst i) SCH_INST_ABORTING ∧ s.ctl.unload ≠ some i then s.dropInst i else s
      | none => s) s
    if s.instsOf p = [] then s.setFld (.ptCfg p) PT_CFG_STATE 0 else s

def execPartitionDrainComplete (p : Nat) (s : State) : Res := .next (if p < 64 then s.drainDone p else s)

/-! ### Owners (15 R345, R346, R367) -/

/-- Is a granule in use (15 R346)? -/
def State.inUse (s : State) (kind i : Nat) : Bool :=
  match kind with
  | 0 => (s.quadInst i).isSome
  | 1 => s.bankPooled (i / 64) (i % 64)
  | _ =>
    let g := granuleSpan kind i
    (s.liveRuns ++ s.segRuns).any fun r => decide (r.1 < g.1 + g.2) && decide (g.1 < r.1 + r.2)

/-- PT_CFG.QUADS as the owner bytes stand. -/
def State.showQuads (s : State) (p : Nat) : State :=
  if p < 64 then s.setFld (.ptCfg p) PT_CFG_QUADS ((List.range 80).filter fun q => s.owner 0 q = p).length else s

/-- A new owner byte of one granule; a byte with FREE = 1 names no partition. -/
def State.wrOwner (s : State) (kind i b : Nat) : State :=
  let old := s.owner kind i
  let new := if bitAt b 6 then 0x40 else b % 64
  if granuleCount kind ≤ i ∨ 0x80 ≤ old ∨ new = old then s
  else if s.inUse kind i then
    if old < 64 then (s.setFld (.ptStat old) PT_STAT_REFUSED 1).raise old srcM 0x0904 (leBytes 1 kind ++ leBytes 2 i)
    else s.raise modLog srcM 0x0904 (leBytes 1 kind ++ leBytes 2 i)
  else
    let s := s.setOwner kind i new
    let s : State := { s with part := { s.part with wipes := s.part.wipes.filter (· ≠ (kind, i)) ++ [(kind, i)] } }
    if kind = 0 then (s.showQuads old).showQuads new else s

/-- A write of a word of owner bytes, while the lock is open: byte by byte, each byte the access holds. -/
def State.wrOwn (s : State) (kind j : Nat) (h : Half) (v : Nat) : State :=
  if ¬ s.flag .ptLock PT_LOCK_OPEN then s
  else (List.range 8).foldl (fun (s : State) k =>
    let f : Fld := ⟨8 * k, 8, .lck, .pt, false, 0⟩
    if wrote h f then s.wrOwner kind (8 * j + k) (wval h v f) else s) s

def execPtOwnWrite (kind j : Nat) (h : Half) (v : Nat) (s : State) : Res := .next (if kind < 5 then s.onBus fun s => s.wrOwn kind j h v else s)

/-- The hub that wipes a granule of DRAM. -/
def wipeHub (kind i : Nat) : Nat := if kind = 2 then i / 108 else if kind = 3 then i / 36 else i / 1024

/-- May the wipe of a granule end now: a hub wipes one HBM3E or GDDR7 slice at a time, in the order of the owner writes
(DESIGN CHOICE, log entry 99), and beside it at most 16 of its sketch-stack banks, in ascending bank number (15 R345)? -/
def State.wipeTurn (s : State) (kind i : Nat) : Bool :=
  let mine (g : Nat × Nat) : Bool := wipeHub g.1 g.2 = wipeHub kind i
  if kind < 2 then true
  else if kind = 4 then decide ((s.part.wipes.filter fun g => g.1 = 4 && mine g && decide (g.2 < i)).length < 16)
  else (s.part.wipes.find? fun g => (g.1 = 2 || g.1 = 3) && mine g) = some (kind, i)

/-- PT_WIPE_DONE: the granule is wiped and serves its owner. -/
def State.wipeDone (s : State) (kind i : Nat) : State :=
  if ¬ s.part.wipes.contains (kind, i) ∨ ¬ s.wipeTurn kind i then s
  else
    let s : State := { s with part := { s.part with wipes := s.part.wipes.filter (· ≠ (kind, i)) } }
    let g := granuleSpan kind i
    let s := if kind = 0 then s.clearQuad i else (s.snoopRange g.1 g.2).wipe g.1 g.2
    let s : State := { s with tier := { s.tier with dirty := s.tier.dirty.flatMap fun d => (cutRun g d.2).map fun r => (d.1, r) } }
    (s.raise (if s.owner kind i < 64 then s.owner kind i else modLog) srcM 0x0901 (leBytes 1 kind ++ leBytes 2 i)).freeAccs

def execPtWipeDone (kind i : Nat) (s : State) : Res := .next (s.wipeDone kind i)

/-! ### Floors (15 R348, R366) -/

/-- A write of PT_FLOOR is ignored when the sums at its hub would exceed 432 and 56. -/
def State.wrPtFloor (s : State) (k : Nat) (h : Half) (v : Nat) : State :=
  let t := s.plainWrite (.ptFloor k) h v
  let sum (f : Fld) : Nat := (List.range 64).foldl (fun a p => a + t.fld (.ptFloor (4 * p + k % 4)) f) 0
  if 432 < sum PT_FLOOR_DFLOOR ∨ 56 < sum PT_FLOOR_PFLOOR then s else t

def execPtFloorWrite (k : Nat) (h : Half) (v : Nat) (s : State) : Res := .next (if k < 256 then s.onBus fun s => s.wrPtFloor k h v else s)

/-! ### Tenants (15 R352, R353, R368) -/

/-- Does the tenant own something in DRAM: an object there, a table, a model or a collection? Tables, models and
collections keep theirs charged to it. -/
def State.holdsDram (s : State) (t : Nat) : Bool :=
  (s.tier.objs.any fun o => o.tenant = t && o.pieces.any (·.addr.isSome)) || decide (0 < s.use t 0 + s.use t 1 + s.use t 2)

/-- EN from 0 to 1: the T-die generates the tenant's flash key. -/
def State.enTenant (s : State) (t : Nat) : State :=
  let s : State := { s with trust := { s.trust with keys := tins t s.trust.keyCount s.trust.keys, keyCount := s.trust.keyCount + 1 } }
  (s.setFld (.tnCfg t) TN_CFG_EN 1).setFld (.tnCfg t) TN_CFG_KEYV 1

/-- TN_CFG.EN is written while the partition lock is open, in a state that allows tenants (15 Table 15-5). -/
def State.wrTnEn (s : State) (t : Nat) (en : Bool) : State :=
  let was := s.flag (.tnCfg t) TN_CFG_EN
  if ¬ s.flag .ptLock PT_LOCK_OPEN ∨ (s.lc ≠ lcDevelopment ∧ s.lc ≠ lcProduction) then s
  else if en ∧ ¬ was ∧ ¬ s.flag (.tnCfg t) TN_CFG_ERASING then s.enTenant t
  else if ¬ en ∧ was ∧ s.fld (.tnCfg t) TN_CFG_QPS = 0 ∧ ¬ s.holdsDram t then
    (s.setFld (.tnCfg t) TN_CFG_EN 0).setFld (.tnCfg t) TN_CFG_ERASING 1
  else s

/-- A write of TN_CFG: PART by the EN in force before the write. -/
def State.wrTnCfg (s : State) (t : Nat) (h : Half) (v : Nat) : State :=
  let s1 := if wrote h TN_CFG_PART ∧ s.flag .ptLock PT_LOCK_OPEN ∧ ¬ s.flag (.tnCfg t) TN_CFG_EN then s.setFld (.tnCfg t) TN_CFG_PART (wval h v TN_CFG_PART) else s
  if wrote h TN_CFG_EN then s1.wrTnEn t (wval h v TN_CFG_EN = 1) else s1

def execTnCfgEnWrite (t : Nat) (en : Bool) (s : State) : Res := .next (if t < 1024 then s.onBus fun s => s.wrTnEn t en else s)

/-- KEY_ERASED: the destruction of a disabled tenant's key and the freeing of its flash objects end. -/
def State.keyErased (s : State) (t : Nat) : State :=
  if ¬ s.flag (.tnCfg t) TN_CFG_ERASING then s
  else
    let s : State := { s with trust := { s.trust with keys := tdel t s.trust.keys } }
    let s := ((s.tier.objs.filter (·.tenant = t)).map Obj.handle).foldl State.dropObj s
    ((s.setFld (.tnCfg t) TN_CFG_KEYV 0).setFld (.tnCfg t) TN_CFG_ERASING 0).raise (s.fld (.tnCfg t) TN_CFG_PART) srcT 0x0905 (leBytes 2 t)

def execKeyErased (t : Nat) (s : State) : Res := .next (if t < 1024 then s.keyErased t else s)

/-- A write of TN_TIER: a QUOTA below USE raises QUOTA_CUT, which names tenant, tier, USE and QUOTA. -/
def State.wrTnTier (s : State) (k : Nat) (h : Half) (v : Nat) : State :=
  let s := s.plainWrite (.tnTier k) h v
  let use := s.fld (.tnTier k) TN_TIER_USE
  let quota := s.fld (.tnTier k) TN_TIER_QUOTA
  let p := s.fld (.tnCfg (k / 4)) TN_CFG_PART
  if wrote h TN_TIER_QUOTA ∧ quota < use then
    (s.setFld (.ptStat p) PT_STAT_QCUT 1).raise p srcM 0x0903 (leBytes 2 (k / 4) ++ leBytes 1 (k % 4) ++ leBytes 1 0 ++ leBytes 4 use ++ leBytes 4 quota)
  else s

def execQuotaWrite (t k quota : Nat) (s : State) : Res := .next (if t < 1024 ∧ k < 4 then s.onBus fun s => s.wrTnTier (4 * t + k) .low quota else s)

end Sys2Proof.Machine
end

