-- ==== Sys2Proof/Machine/Vecs.lean ====
section
/-! DEFINITION. Stored vectors (02 R16-R21, R25-R30): the collection descriptor, sketches, coarse routing, distances and
scores, and how a vector is carried into a new generation (03 Table 3-7b). -/

namespace Sys2Proof.Machine

/-! ### The collection descriptor (13 Table 13-7) -/

def dDim (d : List Byte) : Nat := leAt d 0 2
def dElem (d : List Byte) : Nat := leAt d 2 1
def dMetric (d : List Byte) : Nat := leAt d 3 1
/-- SKETCH in bits. -/
def dSketch (d : List Byte) : Nat := 256 * 2 ^ leAt d 4 1
def dHost (d : List Byte) : Bool := bitAt (leAt d 5 1) 0
def dScaled (d : List Byte) : Bool := bitAt (leAt d 5 1) 1
def dNcent (d : List Byte) : Nat := 2 ^ leAt d 6 1
def dBattr (d : List Byte) : Nat := leAt d 7 1
def dNattr (d : List Byte) : Nat := leAt d 8 1
def dFloat (d : List Byte) (a : Nat) : Bool := bitAt (leAt d 10 2) a
/-- Values of bitmap attribute `a`. -/
def dNval (d : List Byte) (a : Nat) : Nat := leAt d (12 + a) 1 + 1
def dProj (d : List Byte) : Nat := leAt d 64 8
def dCent (d : List Byte) : Nat := leAt d 72 8
def dFmt (d : List Byte) : Fm := (fmOf (dElem d)).getD .int8
/-- Bitmap values stored: the rows of a span group beside its tombstone row. -/
def dValues (d : List Byte) : Nat := (List.range (dBattr d)).foldl (fun n a => n + dNval d a) 0
/-- Bytes of a vector and its block scales. -/
def dCopy (d : List Byte) : Nat := (dFmt d).bytes (dDim d) + (if dScaled d then dDim d / 32 else 0)
/-- Elements of a centroid: 32 more for L2 (02 R25). -/
def dWidth (d : List Byte) : Nat := dDim d + (if dMetric d = 1 then 32 else 0)

/-- Are all fields of a descriptor in their ranges (02 Tables 2-1, 2-2, 13 Table 13-7)? Block scales: required for the FP4
and FP6 types, none for the 16-bit ones. -/
def descOk (d : List Byte) : Bool :=
  decide (32 ≤ dDim d) && decide (dDim d ≤ 4096) && decide (dDim d % 32 = 0) && decide (dElem d ≤ 8) && decide (dMetric d ≤ 2) &&
    decide (leAt d 4 1 ≤ 2) && decide (leAt d 5 1 < 4) && decide (10 ≤ leAt d 6 1) && decide (leAt d 6 1 ≤ 22) && decide (dBattr d ≤ 48) &&
    decide (dNattr d ≤ 16) && leAt d 9 1 = 0 && decide (leAt d 10 2 < 2 ^ dNattr d) && zeroRange d (12 + dBattr d) 64 &&
    zeroRange d 80 128 && (!dHost d || dProj d = 0) &&
    (if 2 ≤ dElem d ∧ dElem d ≤ 4 then dScaled d else if 7 ≤ dElem d then !dScaled d else true)

/-- A descriptor's payload as a generation without vectors, when both tables lie in it. -/
def genOf (num : Nat) (bs : List Byte) : Option Gen :=
  let d := bytesAt bs 0 128
  let np := if dHost d then 0 else dSketch d * dDim d
  let nc := dNcent d * dWidth d
  if 128 ≤ bs.length ∧ descOk d ∧ (dHost d ∨ dProj d + np ≤ bs.length) ∧ dCent d + nc ≤ bs.length then
    some { num, desc := d, proj := (bs.drop (dProj d)).take np, cent := (bs.drop (dCent d)).take nc }
  else none

/-! ### Values, sketches and lists -/

/-- The values that a copy denotes: elements times their block scales (06 R117, R118). -/
def copyVals (d copy : List Byte) : List FV :=
  let f := dFmt d
  (List.range (dDim d)).map fun i =>
    let v := f.val (f.elem copy i)
    if dScaled d then v.mul (scaleVal 1 (leAt copy (f.bytes (dDim d) + i / 32) 1)).1 else v

/-- The chunk of a product over 16-bit elements, none on the exact path (02 Table 2-2). -/
def dChunk (d : List Byte) (c : Nat) : Option Nat := if 7 ≤ dElem d then some c else none

/-- The sketch of a copy (02 R19). -/
def sketchOf (d proj copy : List Byte) : Nat :=
  let x := copyVals d copy
  let n := dDim d
  (List.range (dSketch d)).foldl (fun s i =>
    let row := (List.range n).map fun j => Fm.int8.val (leAt proj (i * n + j) 1)
    match runTotal (dChunk d 256) (List.zipWith FV.mul row x) with
    | .fin v => if 0 < v then s + 2 ^ i else s
    | .inf false => s + 2 ^ i
    | _ => s) 0

/-- A vector as coarse routing sees it: FP8 E4M3, with the element 1.0 and zeros after it for L2 (02 R25). -/
def routeVals (d : List Byte) (x : List FV) : List FV :=
  x.map (fun v => Fm.e4m3.val (Fm.e4m3.conv .rne true v).1) ++
    (if dMetric d = 1 then FV.ofInt 1 0 :: List.replicate 31 FV.zero else [])

/-- The coarse score of centroid `c`: an FP32 code. -/
def coarse (g : Gen) (q : List FV) (c : Nat) : Nat :=
  let w := dWidth g.desc
  let row := (List.range w).map fun i => Fm.e4m3.val (leAt g.cent (c * w + i) 1)
  Fm.fp32.ieee (runTotal none (List.zipWith FV.mul q row)).val

/-- Greater scores first, NaN last (08 R157). -/
def better (a b : Nat × Nat) : Bool :=
  let x := fpKey true a.1
  let y := fpKey true b.1
  decide (x < y) || (x = y && decide (a.2 < b.2))

/-- The list that a vector joins: the greatest coarse score, the lower number on a tie (02 R21). -/
def Gen.listOf (g : Gen) (copy : List Byte) : Nat :=
  let q := routeVals g.desc (copyVals g.desc copy)
  ((rangeFrom 1 (dNcent g.desc - 1)).foldl (fun (b : Nat × Nat) c =>
    let x := (coarse g q c, c)
    if better x b then x else b) (coarse g q 0, 0)).2

/-- The `n` lists with the greatest coarse scores. -/
def Gen.probe (g : Gen) (x : List FV) (n : Nat) : List Nat :=
  let q := routeVals g.desc x
  ((sortBy better ((List.range (dNcent g.desc)).map fun c => (coarse g q c, c))).take n).map (·.2)

/-- The Hamming distance of two sketches, clamped to 1,023 (02 R20). -/
def hamming (bits a b : Nat) : Nat := min 1023 (popCount bits (a ^^^ b))

/-! ### Scores (02 R29, Table 2-5) -/

def WV.neg : WV → WV
  | .nan => .nan
  | .inf n => .inf (!n)
  | .fin v => .fin (-v)

/-- The score of a stored vector: an FP32 code and its OVF bit. -/
def score (d : List Byte) (q x : List FV) : Nat × Bool :=
  let dot (a b : List FV) : WV := runTotal (dChunk d (32 * 2 ^ (Config.scoreChunk % 4))) (List.zipWith FV.mul a b)
  let v := match dMetric d with
    | 0 => Fm.fp32.ieee (dot q x).val
    | 1 =>
      let p := dot q x
      Fm.fp32.ieee (((dot q q).add (p.add p).neg).add (dot x x)).val
    | _ =>
      let w (s : WV) : Nat := Fm.fp64.ieee s.val
      let norm := Fm.fp64.fsqrt (Fm.fp64.fmul (w (dot q q)) (w (dot x x)))
      Fm.fp32.ieee (Fm.fp64.val (Fm.fp64.fdiv (w (dot q x)) norm))
  let f := Fm.fp32.val v
  if f.isNan then (0x7FC00000, true) else (v, f.isInf)

/-- The order of R30: the better score first, NaN last, then ascending identifier. -/
def scoreKey (metric v : Nat) : Nat := fpKey (decide (metric ≠ 1)) v

/-! ### Write records (13 R298) -/

/-- A record of INSERT or UPSERT. -/
structure Rec where
  id : Nat
  copy : List Byte
  pres : Nat
  vals : List Nat
  nums : List Nat
  sketch : Nat
deriving DecidableEq, Repr

/-- Bytes of a record. -/
def recLen (d : List Byte) : Nat :=
  alignUp (16 + dCopy d + dBattr d + 4 * dNattr d + (if dHost d then dSketch d / 8 else 0)) 8

def recOf (d r : List Byte) : Rec :=
  let o := 8 + dCopy d
  let p := o + 8 + dBattr d
  { id := leAt r 0 8, copy := bytesAt r 8 (dCopy d), pres := leAt r o 8, vals := (List.range (dBattr d)).map fun a => leAt r (o + 8 + a) 1,
    nums := (List.range (dNattr d)).map fun a => leAt r (p + 4 * a) 4,
    sketch := if dHost d then leAt r (p + 4 * dNattr d) (dSketch d / 8) else 0 }

/-- Attributes as R298 requires them: a present value that has a bitmap, an absent one 0. -/
def attrsOk (d : List Byte) (r : Rec) : Bool :=
  decide (r.pres < 2 ^ dBattr d) && (List.range (dBattr d)).all fun a =>
    if bitAt r.pres a then decide (r.vals.getD a 0 < dNval d a) else r.vals.getD a 0 = 0

/-! ### A vector carried into a new generation (03 R459, Table 3-7b) -/

/-- A copy in the layout `d` as one in the layout `e`, with what its conversion counts. -/
def carryCopy (d e copy : List Byte) : List Byte × Cnt :=
  if dElem d = dElem e ∧ dScaled d = dScaled e then (copy, {})
  else
    let f := dFmt e
    let x := copyVals d copy
    let one (v : FV) : Nat × Cnt := f.conv .rne (!(dFmt d).isInt) v
    let out (cs : List (Nat × Cnt)) : List Byte × Cnt := (f.pack (cs.map (·.1)), cs.foldl (fun n c => n.add c.2) {})
    if dScaled e then
      let blocks := (chunksOf 32 x.length x).map fun vs => (blockScale f vs, vs)
      let r := out (blocks.flatMap fun b => b.2.map fun v => one (v.scale2 (-b.1.1)))
      (r.1 ++ blocks.flatMap (fun b => leBytes 1 (b.1.1 + 127).toNat), blocks.foldl (fun n b => n.add b.1.2) r.2)
    else out (x.map one)

/-- A numeric attribute whose type changes: INT32 to FP32, or FP32 to INT32 with saturation. The rule names no integer for a
NaN: `nan` is a free value (DESIGN CHOICE, log entry 41). -/
def carryNum (nan : Nat) (toFloat : Bool) (x : Nat) : Nat :=
  if toFloat then Fm.fp32.ieee (FV.ofInt (sext 32 x) 0)
  else match Fm.fp32.val x with
    | .nan => nan % 2 ^ 32
    | .inf n => if n then 2 ^ 31 else 2 ^ 31 - 1
    | .fin n m e => toTwos 32 (clampInt (-2 ^ 31) (2 ^ 31 - 1) (signed n (rneShift m e)))

/-- A record in the layout of generation `g`: attributes, copy and sketch. -/
def Gen.carry (g : Gen) (nan : Nat) (d : List Byte) (r : Rec) : Rec × Cnt :=
  let e := g.desc
  let c := carryCopy d e r.copy
  let keeps (a : Nat) : Bool := decide (a < dBattr d) && bitAt r.pres a && decide (r.vals.getD a 0 < dNval e a)
  ({ id := r.id, copy := c.1,
     pres := (List.range (dBattr e)).foldl (fun m a => if keeps a then m + 2 ^ a else m) 0,
     vals := (List.range (dBattr e)).map fun a => if keeps a then r.vals.getD a 0 else 0,
     nums := (List.range (dNattr e)).map fun a =>
       if a < dNattr d then
         (if dFloat d a = dFloat e a then r.nums.getD a 0 else carryNum nan (dFloat e a) (r.nums.getD a 0))
       else 0,
     sketch := if dHost e then r.sketch else sketchOf e g.proj c.1 }, c.2)

/-- A new version in generation `g` from a record in the layout `d`. -/
def Gen.version (g : Gen) (nan : Nat) (d : List Byte) (seq now : Nat) (dlog : Bool) (r : Rec) : Vec × Cnt :=
  let x := g.carry nan d r
  ({ id := r.id, seq := seq, list := g.listOf x.1.copy, copy := x.1.copy, pres := x.1.pres, vals := x.1.vals, nums := x.1.nums,
     sketch := x.1.sketch, dlog := dlog, at_ := now }, x.2)

/-- A stored version as a record again. -/
def Vec.rec_ (v : Vec) : Rec := { id := v.id, copy := v.copy, pres := v.pres, vals := v.vals, nums := v.nums, sketch := v.sketch }

/-- The sketch-stack bank that holds a list's rows; none while they are in HBM3E. -/
def Gen.bankOf (g : Gen) (l : Nat) : Option Nat := (tgetO g.bank l).join

end Sys2Proof.Machine
end

