-- ==== Sys2Proof/Machine/Store.lean ====
section
/-! DEFINITION. Where a collection's vectors lie (02 R21, 03 R48, R50, R53, R56): segments as tier objects and bank rows, what a
delete overwrites there, and generation records as flash holds them. -/

namespace Sys2Proof.Machine

/-! ### Generation records (03 R53, Table 3-7) -/

def recMagic : Nat := 0x4E45474F

/-- Bytes 0-123 of a record. -/
def GenRec.body (r : GenRec) : List Byte :=
  leBytes 4 recMagic ++ leBytes 2 1 ++ leBytes 2 r.kind ++ leBytes 4 r.object ++ leBytes 4 r.gen ++ leBytes 8 r.seq ++ leBytes 8 r.base ++
    leBytes 8 r.time ++ leBytes 8 r.root ++ leBytes 8 r.prev ++ leBytes 68 0

/-- A record as it is written: 128 bytes with their CRC. -/
def GenRec.bytes (r : GenRec) : List Byte := r.body ++ leBytes 4 (crc32c r.body)

/-- A copy is valid when MAGIC and CRC are correct. -/
def recValid (bs : List Byte) : Bool := bs.length = 128 && leAt bs 0 4 = recMagic && leAt bs 124 4 = crc32c (bs.take 124)

/-- The record that a copy holds; none where the copy is invalid. -/
def recAt (bs : List Byte) : Option GenRec :=
  if recValid bs then
    some { kind := leAt bs 6 2, object := leAt bs 8 4, gen := leAt bs 12 4, seq := leAt bs 16 8, base := leAt bs 24 8, time := leAt bs 32 8,
           root := leAt bs 40 8, prev := leAt bs 48 8 }
  else none

/-- What a write torn by power loss leaves in the copy: its first half. -/
def GenRec.torn (r : GenRec) : List Byte := r.bytes.take 64

/-- Does copy A name the live generation: the valid copy with the higher SEQUENCE? -/
def Recs.liveA (r : Recs) : Bool :=
  match recAt r.a, recAt r.b with
  | some x, some y => decide (y.seq ≤ x.seq)
  | some _, none => true
  | none, _ => false

def Recs.liveRec (r : Recs) : Option GenRec := recAt (if r.liveA then r.a else r.b)

/-- Write the copy that does not name the live generation. -/
def Recs.put (r : Recs) (bs : List Byte) : Recs := if r.liveA then { r with b := bs } else { r with a := bs }

/-- The record of a switch: SEQUENCE one higher. -/
def Recs.next (r : Recs) (kind object gen base time root : Nat) : GenRec :=
  { kind, object, gen, seq := ((r.liveRec.map GenRec.seq).getD 0) + 1, base, time, root, prev := (r.liveRec.map GenRec.root).getD 0 }

/-! ### The rows of a segment (03, Tombstones and filter bitmaps) -/

/-- Sketch rows of `n` slots, and all their rows: a span group of one tombstone row and one row for each stored bitmap value
follows for each 8,192 slots. -/
def sketchRows (d : List Byte) (n : Nat) : Nat := ceilDiv (n * (dSketch d / 8)) 1024
def rowCount (d : List Byte) (n : Nat) : Nat := sketchRows d n + ceilDiv n 8192 * (1 + dValues d)

/-- The bitmap rows, counted in a span group, in which a version has its bit: one for each attribute that has a value. -/
def valueRows (d : List Byte) (v : Vec) : List Nat :=
  ((List.range (dBattr d)).filter (bitAt v.pres)).map fun a =>
    (List.range a).foldl (fun n b => n + dNval d b) 0 + v.vals.getD a 0

/-- The local address of row `j` of a segment. -/
def State.segRow (s : State) (x : Seg) (j : Nat) : Option Nat :=
  match x.rowObj with
  | some h => (s.obj h).bind fun o => o.place (1024 * j)
  | none => x.rows[j]?

/-- Set bit `i` of row `j` of a segment. -/
def State.setRowBit (s : State) (x : Seg) (j i : Nat) : State :=
  match s.segRow x j with
  | some a => s.wr (a + i / 8) [memByte s.mem (a + i / 8) ||| BitVec.ofNat 8 (2 ^ (i % 8))]
  | none => s

/-- The tombstone bit of slot `i` is set. -/
def State.setTomb (s : State) (d : List Byte) (x : Seg) (i : Nat) : State :=
  s.setRowBit x (sketchRows d x.slots + i / 8192 * (1 + dValues d)) (i % 8192)

/-- The rows of slot `i` are written: its sketch and its bitmap bits. -/
def State.putSlot (s : State) (d : List Byte) (x : Seg) (i : Nat) (v : Vec) : State :=
  let w := dSketch d / 8
  let s := match s.segRow x (i * w / 1024) with
    | some a => s.wr (a + i * w % 1024) (leBytes w v.sketch)
    | none => s
  let base := sketchRows d x.slots + i / 8192 * (1 + dValues d) + 1
  (valueRows d v).foldl (fun (s : State) j => s.setRowBit x (base + j) (i % 8192)) s

/-- The bytes of an element: identifier, copy with block scales, numeric attributes. -/
def elemSize (d : List Byte) : Nat := 8 + dCopy d + 4 * dNattr d
def Vec.elem (v : Vec) : List Byte := leBytes 8 v.id ++ v.copy ++ v.nums.flatMap (leBytes 4)

/-- A version is deleted where it stands: its slot's tombstone bit is set and its identifier overwritten with ones (03 R48). -/
def State.bury (s : State) (g : Gen) (v : Vec) : State :=
  match v.slot with
  | none => s
  | some x =>
    let s := s.objWrite x.1 (x.2 * elemSize g.desc) (List.replicate 8 0xFF#8)
    match g.store.find? (·.store = x.1) with
    | some y => s.setTomb g.desc y x.2
    | none => s

/-! ### Allocation (02 R21, 11 R466) -/

/-- The places of tier `k` (TN_TIER's order) in ascending local address: tier, hub, stack. -/
def tierPlaces (k : Nat) : List (Tier × Nat × Nat) :=
  match k with
  | 0 => (List.range 12).map fun n => (.hbm, n / 3, n)
  | 2 => (List.range 4).map fun h => (.gddr, h, 0)
  | 3 => [(.flash, 0, 0)]
  | _ => []

/-- An object for a segment: `elems` elements of `elemb` bytes in the first of the places that has room. -/
def State.makeObj (s : State) (t p : Nat) (places : List (Tier × Nat × Nat)) (elemb elems : Nat) : Option (State × Nat) :=
  places.findSome? fun (x : Tier × Nat × Nat) =>
    match s.findRoom p x.1 x.2.1 x.2.2 (elemb * elems),
        pickFree (Config.freeChoice s.fresh) (2 ^ 20) ((s.tier.objs.filter (·.hub = x.2.1)).map Obj.number) with
    | some xs, some number =>
      let o : Obj := { hub := x.2.1, number, salt := tgetD 0 s.tier.salts (x.2.1 * 2 ^ 20 + number), tenant := t, part := p, elemb, elems,
                       tier := x.1, pieces := if x.1 = .flash then [⟨0, elemb * elems, none⟩] else toPieces 0 (elemb * elems) xs,
                       hasHome := true, coll := true }
      let s := s.drew.claim t xs
      let s := xs.foldl (fun (s : State) x => s.wipe x.1 x.2) s
      some ({ s with tier := { s.tier with objs := s.tier.objs ++ [o] } }, o.handle)
    | _, _ => none

/-- The flash home of a segment's object is brought up to its content (11 R458). -/
def State.syncHome (s : State) (h : Nat) : State :=
  match s.obj h with
  | some o =>
    let cells := s.objCells o 0 o.size
    (s.mapObj h fun o => { o with home := cells.foldl (fun t c => tsetD 0#8 t c.1 c.2) [] }).program o.size
  | none => s

/-- Free data rows of bank `g`, as runs of addresses: those of its plain blocks, without the query rows and what objects and
segments take (05 Table 5-1, R99). -/
def State.bankRuns (s : State) (g : Nat) : List (Nat × Nat) :=
  let base := (granuleSpan 4 g).1
  let plain := (List.range 48).filter fun b => bitAt (s.reg (.skRegion (g / 512))).toNat b
  let blocks := plain.map fun b => (base + b * 2 ^ 20, if b = 47 then 2 ^ 20 - 16 * 1024 else 2 ^ 20)
  (s.objRuns ++ s.segRuns).foldl (fun rs u => rs.flatMap (cutRun u)) blocks

/-- The first `n` rows of free runs. -/
def firstRows : Nat → List (Nat × Nat) → List Nat
  | _, [] => []
  | n, r :: rs =>
    let k := min n (r.2 / 1024)
    (List.range k).map (fun i => r.1 + 1024 * i) ++ firstRows (n - k) rs

/-- The rows of `n` slots: in the bank where one is named, else in HBM3E, in the first of the places that has room. -/
def State.makeRows (s : State) (t p : Nat) (d : List Byte) (bank : Option Nat) (places : List (Tier × Nat × Nat)) (n : Nat) :
    Option (State × Option Nat × List Nat) :=
  match bank with
  | some b =>
    let rows := firstRows (rowCount d n) (s.bankRuns b)
    if rows.length < rowCount d n then none
    else some (rows.foldl (fun (s : State) a => s.wipe a 1024) s, none, rows)
  | none => (s.makeObj t p places 1024 (rowCount d n)).map fun r => (r.1, some r.2, [])

/-- The tier that holds a list's copies: that of its newest segment, HBM3E where it has none (02 R21). -/
def Gen.copyTier (g : Gen) (l : Nat) : Nat := (((g.store.filter (·.list = l)).getLast?).map Seg.tier).getD 0

/-- A segment of list `l` is written: object, rows, and for each version its element and its row bits; their flash homes follow.
Answers the state, the segment and the versions with their slots; none where nothing has room. -/
def State.newSeg (s : State) (t p : Nat) (g : Gen) (l : Nat) (vs : List Vec) : Option (State × Seg × List Vec) :=
  let n := vs.length
  let k := g.copyTier l
  match s.makeObj t p (tierPlaces k) (elemSize g.desc) n with
  | none => none
  | some (s, h) =>
    match s.makeRows t p g.desc (g.bankOf l) (tierPlaces 0) n with
    | none => none
    | some (s, ro, rows) =>
      let x : Seg := { list := l, store := h, slots := n, tier := k, rowObj := ro, rows := rows }
      let new := (List.range n).zip vs |>.map fun v => { v.2 with dlog := false, slot := some (h, v.1) }
      let s := new.foldl (fun (s : State) v => match v.slot with
        | some y =>
          let s := (s.objWrite h (y.2 * elemSize g.desc) v.elem).putSlot g.desc x y.2 v
          if v.dead.isSome then s.bury { g with store := [x] } v else s
        | none => s) s
      let s := (s.syncHome h)
      some (match ro with | some r => s.syncHome r | none => s, x, new)

/-- A segment's memory is given up. Its rows in a bank are rewritten first, so that no unit reads them again (03 R55). -/
def State.dropSeg (s : State) (x : Seg) : State :=
  let s := x.rows.foldl (fun (s : State) a => s.wipe a 1024) (s.dropObj x.store)
  match x.rowObj with
  | some h => s.dropObj h
  | none => s

/-- One row copied whole: what is listed is copied, the rest reads 0. -/
def State.copyRow (s : State) (src dst : Nat) : State :=
  let cells := s.mem.filter fun c => src ≤ c.1 && c.1 < src + 1024
  cells.foldl (fun (s : State) c => s.wr (dst + (c.1 - src)) [c.2]) (s.wipe dst 1024)

/-- The rows of a segment move whole (02 R21, 13 LIST_PLACE): into a bank, or into the HBM3E stack `n`. -/
def State.moveRows (s : State) (t p : Nat) (d : List Byte) (bank : Option Nat) (n : Nat) (x : Seg) : Option (State × Seg) :=
  (s.makeRows t p d bank [(.hbm, n / 3, n)] x.slots).map fun r =>
    let y := { x with rowObj := r.2.1, rows := r.2.2 }
    let s := (List.range (rowCount d x.slots)).foldl (fun (s : State) j => match s.segRow x j, s.segRow y j with
      | some a, some b => s.copyRow a b
      | _, _ => s) r.1
    let s := x.rows.foldl (fun (s : State) a => s.wipe a 1024) s
    let s := match x.rowObj with
      | some h => s.dropObj h
      | none => s
    (match y.rowObj with
      | some h => s.syncHome h
      | none => s, y)

/-- The rows of every segment in turn; none where one finds no room. -/
def State.moveAll (s : State) (t p : Nat) (d : List Byte) (bank : Option Nat) (n : Nat) : List Seg → Option (State × List Seg)
  | [] => some (s, [])
  | x :: xs =>
    match s.moveRows t p d bank n x with
    | none => none
    | some r => (r.1.moveAll t p d bank n xs).map fun q => (q.1, r.2 :: q.2)

/-- A version whose list's rows lie in tier `k`. -/
def Vec.rowsIn (v : Vec) (k : Nat) : Vec := { v with cost := v.cost.set 0 (k, (v.cost.getD 0 (0, 0)).2) }

/-! ### Restore after a cold reset (11 R458) -/

/-- An object of a segment has its residence in DRAM again, copied from its flash home; without room it stays in flash. -/
def State.restoreObj (s : State) (k h : Nat) : State :=
  match s.obj h with
  | none => s
  | some o =>
    match (tierPlaces k).findSome? fun (x : Tier × Nat × Nat) =>
        if x.2.1 = o.hub ∧ x.1 ≠ .flash then (s.findRoom o.part x.1 x.2.1 x.2.2 o.size).map fun r => (x.1, r) else none with
    | none => s
    | some (t, xs) =>
      let ps := toPieces 0 o.size xs
      let s := (s.claim o.tenant xs).copyTile o 0 o.size ps false
      s.mapObj h fun o => { o with pieces := ps, tier := t, flash := [] }

/-- The segments of a generation are restored; rows that lay in a bank come back as an object in HBM3E, and deletes are carried
out again where their versions stand. -/
def State.restoreGen (s : State) (t p : Nat) (g : Gen) : State × Gen :=
  let step (a : State × List Seg) (x : Seg) : State × List Seg :=
    let s := a.1.restoreObj x.tier x.store
    match x.rowObj with
    | some h => (s.restoreObj 0 h, a.2 ++ [x])
    | none =>
      match s.makeObj t p (tierPlaces 0) 1024 (rowCount g.desc x.slots) with
      | none => (s, a.2 ++ [{ x with rows := [] }])
      | some (s, h) =>
        let y := { x with rowObj := some h, rows := [] }
        let s := (g.vecs.filterMap fun v => match v.slot with
          | some z => if z.1 = x.store then some (z.2, v) else none
          | none => none).foldl (fun (s : State) z => s.putSlot g.desc y z.1 z.2) s
        (s.syncHome h, a.2 ++ [y])
  let r := g.store.foldl step (s, [])
  let g := { g with store := r.2 }
  ((g.vecs.filter (·.dead.isSome)).foldl (fun (s : State) v => s.bury g v) r.1, g)

end Sys2Proof.Machine
end

