-- ==== Sys2Proof/Machine/Write.lean ====
section
/-! DEFINITION. Writes of collections and histories (03 R40-R50, R461-R463, 13 R298-R300): their checks, admission into the
delta log, durability, application, destaging, and folds and compactions. -/

namespace Sys2Proof.Machine

/-! ### Collections, the delta log and its quota -/

def State.setColl (s : State) (k : Nat) (v : Option Coll) : State := { s with coll := { s.coll with colls := tsetD none s.coll.colls k v } }
def State.mapColl (s : State) (k : Nat) (f : Coll → Coll) : State :=
  match s.collOf k with
  | some v => s.setColl k (some (f v))
  | none => s
def State.setCpart (s : State) (p : Nat) (v : CPart) : State := { s with coll := { s.coll with parts := tsetD {} s.coll.parts p v } }
def State.mapEntry (s : State) (p seq : Nat) (f : DEntry → DEntry) : State :=
  s.setCpart p { s.cpart p with entries := mapIf (·.seq = seq) f (s.cpart p).entries }

/-- The records of an entry. -/
def DEntry.recList (e : DEntry) : List (List Byte) :=
  (List.range e.count).map fun i => bytesAt e.recs (i * (e.recs.length / e.count)) (e.recs.length / e.count)
/-- The identifiers that an entry of a collection names. -/
def DEntry.ids (e : DEntry) : List Nat := if e.op = 0x30 ∨ e.op = 0x31 ∨ e.op = 0x32 then e.recList.map (leAt · 0 8) else []

/-- Vectors that an entry placed in the delta area and that no segment holds yet. -/
def State.openOf (s : State) (e : DEntry) : Nat :=
  if e.op = 0x30 ∨ e.op = 0x31 then
    match s.collOf e.obj with
    | some k => (k.live.vecs.filter fun v => v.seq = e.seq && v.dlog).length
    | none => 0
  else 0

/-- Does an entry count against the partition's quota (03 R461)? -/
def State.counts (s : State) (c : CPart) (e : DEntry) : Bool :=
  c.undestaged e || ((e.op = 0x30 || e.op = 0x31) && !e.lost && c.unapplied e) || decide (0 < s.openOf e)

/-- Bytes of the delta log that count against a partition's quota, the quota, and CM_PSTAT.OCC. -/
def State.dlogUsed (s : State) (p : Nat) : Nat := ((s.cpart p).entries.filter (s.counts (s.cpart p))).foldl (fun a e => a + e.size) 0
def State.dlogQuota (s : State) (p : Nat) : Nat := s.fld (.ptCfg p) PT_CFG_DLOGQ * 64 * 2 ^ 20
def State.occ (s : State) (p : Nat) : Nat := if s.dlogQuota p = 0 then 0 else min 100 (s.dlogUsed p * 100 / s.dlogQuota p)

/-- HIWAT is set when OCC reaches 75 from below (03 R58). -/
def State.noteOcc (s : State) (was p : Nat) : State :=
  if was < 75 ∧ 75 ≤ s.occ p then s.setFld (.cmPstat p) CM_PSTAT_HIWAT 1 else s

/-- Entries that nothing needs any more leave the log; the folding mode of 03 Table 3-6 follows the occupancy. -/
def State.tidy (s : State) (p : Nat) : State :=
  let c := s.cpart p
  let s := s.setCpart p { c with entries := c.entries.filter fun e => s.counts c e || !(e.posted || e.lost) }
  let c := s.cpart p
  s.setCpart p { c with folding := decide (75 ≤ s.occ p) || (c.folding && decide (50 < s.occ p)) }

/-! ### Charges (03 R462) -/

/-- What one version of a list costs, bytes by tier of TN_TIER: its rows, its copy with identifier and numeric attributes, and
its identifier index (03 R462). -/
def Gen.cost (g : Gen) (l : Nat) : List (Nat × Nat) :=
  [(if (g.bankOf l).isSome then 1 else 0, dSketch g.desc / 8 + ceilDiv (1 + dValues g.desc) 8), (g.copyTier l, elemSize g.desc), (0, 10)]

/-- A generation's memory and charges return (03 R55). -/
def State.freeGen (s : State) (t p : Nat) (g : Gen) : State :=
  g.store.foldl State.dropSeg (g.vecs.foldl (fun s v => s.freeAll t p v.cost) s)

def tierSum (k : Nat) (cs : List (Nat × Nat)) : Nat := (cs.filter (·.1 = k)).foldl (fun a c => a + c.2) 0

/-- Do the partition's granules of tier `k` lack room for `n` more bytes, beside its host's objects and what its versions and
histories are charged (15 R353)? -/
def State.overRoom (s : State) (t p k n : Nat) : Bool :=
  if n = 0 then false
  else if k = 3 then !(s.flashRoom p (s.moreUnits t k n))
  else
    let kind := if k = 0 then 2 else if k = 1 then 4 else 3
    let owned := ((List.range (granuleCount kind)).filter fun i => s.owner kind i = p).length * (granuleSpan kind 0).2
    let host := s.tier.objs.filter fun o => !o.coll
    let runs := host.flatMap (fun o => o.pieces.filterMap fun p => p.addr.map fun a => (a, alignUp p.len 65536)) ++
      s.tier.retired.map fun p => (p * 65536, 65536)
    let used := (runs.filter fun r => match granuleOf r.1 with
      | some g => g.1 = kind && s.owner kind g.2 = p
      | none => false).foldl (fun a r => a + r.2) 0
    decide (owned < used + tgetD 0 s.coll.pbytes (4 * p + k) + n)

/-- The first record, in order, at which the charges up to it cross a limit. -/
def crossAt (past : Nat → Nat → Bool) (costs : List (List (Nat × Nat))) : Option Nat :=
  (List.range costs.length).find? fun i => (List.range 4).any fun k => past k (tierSum k ((costs.take (i + 1)).flatMap id))

/-! ### The checks of a write -/

/-- Was a command fetched after the admission of the collection's drop (03 R463)? -/
def Coll.dropped (k : Coll) (n : Nat) : Bool :=
  match k.dropAt with
  | some d => decide (d.2 ≤ n)
  | none => false

/-- The collection that a command names, or its refusal (13 R296, 03 R463). -/
def State.cmdColl (s : State) (c : Cmd) : Except Nat Coll :=
  match s.collOf c.object with
  | none => .error stNoObject
  | some k =>
    if k.tenant ≠ c.tenant then .error stNotOwner
    else if k.dropped c.n then .error stNoObject else .ok k

/-- A record that breaks a rule of 13 R298 or of 02 R16-R19. `seen`: the identifiers of the records before it. -/
def badRec (c : Cmd) (d : List Byte) (seen : List Nat) (r : List Byte) : Bool :=
  let id := leAt r 0 8
  decide (id < c.fld 40 8) || decide (c.fld 48 8 < id) || id = 2 ^ 64 - 1 || seen.contains id || (c.op ≠ 0x32 && !(attrsOk d (recOf d r)))

/-- The layout of a command's records: the collection's, or, where LEN0 says so, the same with FP32 elements, which are converted
(02 R18; DEDUCED, log entry 79). -/
def inDesc (c : Cmd) (d : List Byte) : List Byte :=
  let f := (d.set 2 9#8).set 5 (BitVec.ofNat 8 (leAt d 5 1 % 2))
  if c.op ≠ 0x32 ∧ c.count ≠ 0 ∧ c.len0 ≠ c.count * recLen d ∧ c.len0 = c.count * recLen f then f else d

/-- The refusal of a write by its form: status, and the record at fault. -/
def State.writeErr (s : State) (c : Cmd) : Option (Nat × Option Nat) :=
  let form (w : Nat) (bad : Nat → List Nat → List Byte → Bool) : Option (Nat × Option Nat) :=
    if c.count = 0 ∨ 1024 < c.count ∨ c.len0 ≠ c.count * w then some (stInvalidParameter, none)
    else
      let rs := (List.range c.count).map fun i => bytesAt c.payload (i * w) w
      ((List.range c.count).find? fun i => bad i ((rs.take i).map (leAt · 0 8)) (rs.getD i [])).map fun i => (stInvalidParameter, some i)
  if c.op = 0x33 then
    match s.cmdModel c with
    | .error e => some (e, none)
    | .ok m => match m.hist with
      | none => some (stInvalidParameter, none)
      | some h => form h.entry fun _ _ _ => false
  else match s.cmdColl c with
    | .error e => some (e, none)
    | .ok k =>
      if c.op = 0x21 then
        if (List.range 80).any fun i => match s.inst i with
            | some v => v.kind = 0 && v.object = c.object && v.part = k.part
            | none => false
        then some (stBusy, none) else none
      else
        let d := inDesc c k.live.desc
        form (if c.op = 0x32 then 8 else recLen d) fun _ seen r => badRec c d seen r

/-- A refused write names its record; a refused COLL_DROP carries zeros (13 R302). -/
def State.refuseW (s : State) (c : Cmd) (e : Nat × Option Nat) : State :=
  if isDataWrite c.op then s.refuseWrite c.n e.1 e.2 else s.refuse c.n e.1

def State.startWrite (s : State) (c : Cmd) : State :=
  match s.writeErr c with
  | some e => s.refuseW c e
  | none => s.setCmd c.n fun c => { c with st := .running }

def execInsert (n : Nat) (s : State) : Res := .next (s.onCmd n 0x30 State.startWrite)
def execUpsert (n : Nat) (s : State) : Res := .next (s.onCmd n 0x31 State.startWrite)
def execDelete (n : Nat) (s : State) : Res := .next (s.onCmd n 0x32 State.startWrite)
def execHistAppend (n : Nat) (s : State) : Res := .next (s.onCmd n 0x33 State.startWrite)
def execCollDrop (n : Nat) (s : State) : Res := .next (s.onCmd n 0x21 State.startWrite)

/-- RANGE_LOCK_ADMIT: a write that waited goes on once no entry of an earlier write overlaps its own and no earlier write of
its queue pair waits (13 Table 13-8). -/
def State.lockAdmit (s : State) (n : Nat) : State :=
  match s.cmd n, s.quay.locks.find? (·.cmd = n) with
  | some c, some l => if c.st = .waiting ∧ s.lockWaits n c.qp l = false then s.setCmd n fun c => { c with st := .ready } else s
  | _, _ => s

def execRangeLockAdmit (n : Nat) (s : State) : Res := .next (s.lockAdmit n)

/-! ### Admission (03 R40-R42) -/

/-- Is an identifier present once every write with a lower sequence number is applied (03 R40)? -/
def State.present (s : State) (p obj id : Nat) : Bool :=
  let now := match s.collOf obj with
    | some k => k.live.vecs.any fun v => v.id = id && v.dead.isNone
    | none => false
  (s.cpart p).entries.foldl (fun b e =>
    if e.applied || e.lost || e.obj ≠ obj || !(e.ids.contains id) then b else e.op ≠ 0x32) now

/-- Vectors that the module holds or will hold once its log is applied: an upsert of a present identifier replaces one (03 Table
3-9; DESIGN CHOICE, log entry 78). -/
def State.vectors (s : State) : Nat :=
  let waits (e : DEntry) : Bool := !e.applied && !e.lost
  let gone := s.coll.parts.foldl (fun a p => p.2.entries.foldl (fun a e => if e.op = 0x32 ∧ waits e = true then a + (e.count - e.absent) else a) a) 0
  s.coll.colls.foldl (fun a k => match k.2 with
    | some v => a + (v.live.vecs.filter (·.dead.isNone)).length
    | none => a) 0 +
  s.coll.parts.foldl (fun a p => p.2.entries.foldl (fun a e =>
    if waits e then a + e.news else a) a) 0 - gone

/-- The first record of an INSERT or UPSERT that takes the module past 12 × 10^9 vectors, counted in record order. -/
def State.crossVectors (s : State) (c : Cmd) (rs : List (List Byte)) : Option Nat :=
  let new (r : List Byte) : Nat := if s.present c.part c.object (leAt r 0 8) then 0 else 1
  if c.op = 0x30 ∨ c.op = 0x31 then
    (List.range rs.length).find? fun i => new (rs.getD i []) = 1 && decide (12 * 10 ^ 9 < s.vectors + ((rs.take (i + 1)).map new).sum)
  else none

/-- Entries of a user's history once the log is applied, at most the ring's length (04 R69). -/
def State.histLen (s : State) (p m user : Nat) : Nat :=
  match s.model m with
  | none => 0
  | some v =>
    min ((v.hist.map HistParam.l).getD 0) ((tgetD {} v.users user).entries.length +
      ((s.cpart p).entries.filter fun e => e.op = 0x33 && e.obj = m && e.user = user && !e.applied && !e.lost).foldl (fun a e => a + e.count) 0)

/-- What a write is charged, record by record (03 R462). A history append is charged what it adds to the user's ring. -/
def State.writeCosts (s : State) (op p obj user count : Nat) (desc : List Byte) (rs : List (List Byte)) : List (List (Nat × Nat)) :=
  if op = 0x30 ∨ op = 0x31 then
    match s.collOf obj with
    | some k => rs.map fun r => k.live.cost (k.live.listOf (carryCopy desc k.live.desc (recOf desc r).copy).1)
    | none => []
  else if op = 0x33 then
    match s.model obj with
    | some v => match v.hist with
      | some h =>
        let n := s.histLen p obj user
        (List.range count).map fun i => if n + i < h.l then [(if Config.histFlash obj then 3 else 2, h.entry)] else []
      | none => []
    | none => []
  else []

/-- The refusal of a write at its admission, in this order: its form, ID_EXISTS, CAPACITY, QUOTA, DELTA_FULL. -/
def State.admitErr (s : State) (c : Cmd) (desc : List Byte) (rs : List (List Byte)) (size : Nat) : Option (Nat × Option Nat) :=
  let costs := s.writeCosts c.op c.part c.object (c.fld 40 8) c.count desc rs
  let exists_ := if c.op = 0x30 then (List.range rs.length).find? fun i => s.present c.part c.object (leAt (rs.getD i []) 0 8) else none
  let full := s.crossVectors c rs
  match s.writeErr c, exists_, full.orElse fun _ => crossAt (s.overRoom c.tenant c.part) costs, crossAt (s.overQuota c.tenant) costs with
  | some e, _, _, _ => some e
  | _, some i, _, _ => some (stIdExists, some i)
  | _, _, some i, _ => some (stCapacity, some i)
  | _, _, _, some i => some (stQuota, some i)
  | _, _, _, _ =>
    if s.dlogQuota c.part < s.dlogUsed c.part + size ∨ 24 * 2 ^ 30 < s.deltaBytes s.counts + size then some (stDeltaFull, none) else none

/-- What a build in progress wrote is freed. -/
def State.dropBuild (s : State) (k : Nat) : State :=
  match s.collOf k with
  | some v => match v.build with
    | some b => (s.freeGen v.tenant v.part b.gen).mapColl k fun v => { v with build := none }
    | none => s
  | none => s
/-- A build in progress ends: BUILD completes ABANDONED. -/
def State.endBuild (s : State) (k : Nat) : State :=
  match (s.collOf k).bind Coll.build with
  | some b => (s.dropBuild k).finish b.cmd stAbandoned 0 0 []
  | none => s
/-- A waiting SWITCH of a collection is cancelled: it completes ABANDONED. -/
def State.cancelSwitch (s : State) (k : Nat) : State :=
  match (s.collOf k).bind Coll.sw with
  | some w => (s.mapColl k fun v => { v with sw := none }).finish w.cmd stAbandoned 0 0 []
  | none => s
/-- A staged generation is cleared with its staging record, and its charges return. -/
def State.clearStaged (s : State) (k : Nat) : State :=
  match s.collOf k with
  | some v =>
    let s := match v.next with
      | some g => s.freeGen v.tenant v.part g
      | none => s
    s.mapColl k fun v => { v with next := none, recs := { v.recs with staging := [] } }
  | none => s

/-- Has the command's partition an entry of it? -/
def State.entryOf (s : State) (p n : Nat) : Option DEntry := (s.cpart p).entries.find? (·.cmd = n)

/-- Is it a write's turn: every earlier write of its queue pair is admitted or over (03 R41)? -/
def State.admitTurn (s : State) (c : Cmd) : Bool :=
  !(s.quay.cmds.any fun d => d.qp = c.qp && decide (d.n < c.n) && isWriteOp d.op && (s.entryOf d.part d.n).isNone && (match d.st with
    | .done _ _ _ _ => false
    | _ => true))

/-- WRITE_ADMISSION of command `n`: the write takes its partition's next sequence number, and its entry goes to the log. -/
def State.admitNow (s : State) (n : Nat) : State :=
  match s.cmd n with
  | none => s
  | some c =>
    if ¬ s.quayUp ∨ ¬ isWriteOp c.op ∨ c.st ≠ .running ∨ (s.entryOf c.part n).isSome ∨ ¬ s.admitTurn c then s
    else
      let desc := if c.op = 0x33 then [] else ((s.collOf c.object).map fun k => inDesc c k.live.desc).getD []
      let w := if c.count = 0 then 0 else c.len0 / c.count
      let rs := if c.op = 0x21 then [] else (List.range c.count).map fun i => bytesAt c.payload (i * w) w
      let size := if c.op = 0x21 then 64 else alignUp (64 + c.len0) 64
      match s.admitErr c desc rs size with
      | some e => (if e.1 = stDeltaFull then s.setFld (.cmPstat c.part) CM_PSTAT_FULL 1 else s).refuseW c e
      | none =>
        let p := s.cpart c.part
        let costs := s.writeCosts c.op c.part c.object (c.fld 40 8) c.count desc rs
        let absent := if c.op = 0x32 then (rs.filter fun r => !(s.present c.part c.object (leAt r 0 8))).length else 0
        let e : DEntry := { seq := p.next, op := c.op, obj := c.object, qp := c.qp, cid := c.cid, cmd := n, tenant := c.tenant,
                            user := c.fld 40 8, count := rs.length, desc := desc, recs := rs.flatMap id, absent := absent, size := size,
                            at_ := s.svcTime, costs := costs.flatMap id,
                            news := if c.op = 0x30 ∨ c.op = 0x31 then (rs.filter fun r => !(s.present c.part c.object (leAt r 0 8))).length else 0 }
        let was := s.occ c.part
        let s := s.setCpart c.part { p with next := p.next + 1, entries := p.entries ++ [e] }
        let s := s.chargeAll c.tenant c.part (costs.flatMap id)
        let s := (s.noteOcc was c.part).tidy c.part
        if c.op = 0x21 then
          (((s.endBuild c.object).cancelSwitch c.object).clearStaged c.object).mapColl c.object fun v =>
            { v with dropAt := some (n, s.quay.nextCmd) }
        else s

def execWriteAdmission (n : Nat) (s : State) : Res := .next (s.admitNow n)

/-- WRITE_DURABLE: both copies of the entry of command `n` are written; the write's result is known (13 Table 13-10). -/
def State.durable (s : State) (n : Nat) : State :=
  match s.cmd n with
  | none => s
  | some c =>
    match s.entryOf c.part n with
    | none => s
    | some e =>
      if ¬ s.quayUp ∨ e.durable ∨ e.lost then s
      else
        let s := s.mapEntry c.part e.seq fun e => { e with durable := true }
        let p := s.cpart c.part
        let s := s.setCpart c.part { p with writes := tsetD none p.writes e.qp (some ⟨e.cid, e.seq⟩), top := max p.top e.seq }
        if e.op = 0x21 then s
        else s.finish n (if e.op = 0x32 ∧ e.absent = e.count then stNotPresent else stSuccess) e.seq e.absent []

def execWriteDurable (n : Nat) (s : State) : Res := .next (s.durable n)

/-! ### Application (03 R43, R48, R49, R52) -/

/-- An entry applied to a generation: deletes and replaced versions get their tombstones, new versions are placed. -/
def Gen.apply (g : Gen) (nan now : Nat) (e : DEntry) : Gen × Cnt :=
  let vecs := mapIf (fun v => v.dead.isNone && e.ids.contains v.id) (fun v => { v with dead := some e.seq }) g.vecs
  let new := if e.op = 0x32 then [] else e.recList.map fun r => g.version nan e.desc e.seq now true (recOf e.desc r)
  let placed := new.map fun v => { v.1 with cost := g.cost v.1.list }
  ({ g with vecs := vecs ++ placed }, new.foldl (fun a v => a.add v.2) {})

/-- Conversions of carried vectors count at a hub, which the rule does not name (DESIGN CHOICE, log entry 42). -/
def State.countCarry (s : State) (p : Nat) (c : Cnt) : State :=
  if c.total = 0 then s
  else
    let h := Config.freeChoice s.fresh % 4
    s.drew.count (80 + h) p (srcHub h) c

/-- An entry is applied to one generation: versions it deletes are overwritten where they stand, conversions are counted, and what
it places is charged (03 R48, R49, R462). -/
def State.applyTo (s : State) (t p : Nat) (e : DEntry) (g : Gen) : State × Gen :=
  let a := g.apply (Config.freeChoice s.fresh) s.svcTime e
  let s := (g.vecs.filter fun v => v.dead.isNone && e.ids.contains v.id).foldl (fun (s : State) v => s.bury g v) s
  let s := s.drew.countCarry p a.2
  ((a.1.vecs.drop g.vecs.length).foldl (fun s v => s.chargeAll t p v.cost) s, a.1)

/-- An entry of a collection is applied: to the live generation, and to one in build or staged (03 R52, R56). What it was charged
at admission gives way to what its versions cost where they come to lie. -/
def State.applyVecs (s : State) (p : Nat) (e : DEntry) : State :=
  match s.collOf e.obj with
  | none => s
  | some k =>
    let s := s.freeAll k.tenant p e.costs
    let a := s.applyTo k.tenant p e k.live
    let s := a.1.mapColl e.obj fun k => { k with live := a.2 }
    let s := match k.build with
      | some b =>
        let r := s.applyTo k.tenant p e b.gen
        r.1.mapColl e.obj fun k => { k with build := some { b with gen := r.2 } }
      | none => s
    match k.next with
    | none => s
    | some g =>
      let r := s.applyTo k.tenant p e g
      r.1.mapColl e.obj fun k => { k with next := some r.2 }

/-- A history append: an append beyond L overwrites the oldest entry, and the working copy is updated with the home (04 R69). Entry i
counts from the oldest (DESIGN CHOICE, log entry 85). -/
def State.applyHist (s : State) (e : DEntry) : State :=
  match s.model e.obj with
  | none => s
  | some v =>
    let l := (v.hist.map HistParam.l).getD 0
    let es := (tgetD {} v.users e.user).entries ++ e.recList
    let ring := es.drop (es.length - l)
    let s := s.setModel e.obj { v with users := tsetD {} v.users e.user ⟨ring⟩ }
    match v.hist, workOf e.obj e.user with
    | some p, some w => s.writeWork p w ring
    | _, _ => s

/-- Should a fold (`some false`) or a compaction (`some true`) of a list start (03 Table 3-6)? `aged`: an entry is 60 s old. -/
def Coll.due (k : Coll) (folding aged : Bool) (l : Nat) : Option Bool :=
  let gone (v : Vec) : Bool := k.cuts.any fun c => c.compact && c.list = l && (match v.dead with
    | some d => decide (d ≤ c.cut)
    | none => false)
  let mine := k.live.vecs.filter fun v => v.list = l
  let delta := (mine.filter (·.dlog)).length
  let slots := mine.filter fun v => !v.dlog && !(gone v)
  let dead := (slots.filter (·.dead.isSome)).length
  if k.folds.any (·.list = l) then none
  else if 0 < dead ∧ slots.length ≤ 4 * dead then some true
  else if 32 ≤ delta ∨ (0 < delta ∧ (folding ∨ aged)) then some (decide (8 ≤ tgetD 1 k.live.segs l))
  else none

def State.startFold (s : State) (k l : Nat) (compact : Bool) (cmd : Option Nat) : State :=
  s.mapColl k fun v => { v with folds := v.folds ++ [{ list := l, cut := (s.cpart v.part).applied, compact, cmd }] }

/-- Start what is due in the lists of a collection. -/
def State.startFolds (s : State) (k : Nat) : State :=
  match s.collOf k with
  | none => s
  | some v =>
    ((v.live.vecs.map (·.list)).eraseDups).foldl (fun s l => match v.due (s.cpart v.part).folding false l with
      | some c => s.startFold k l c none
      | none => s) s

/-- Queries held for their queue pair's last write take their read point (03 R43). -/
def State.releaseHeld (s : State) (p : Nat) : State :=
  let a := (s.cpart p).applied
  let held (c : Cmd) : Bool := c.part = p && c.op = 0x40 && c.st = .waiting && c.rp.isNone && decide (c.hold ≤ a)
  { s with quay := { s.quay with cmds := mapIf held (fun c => { c with rp := some a, st := .ready }) s.quay.cmds } }

/-- Is the collection's or the model's storage still being restored (11 R458)? -/
def State.restoring (s : State) (e : DEntry) : Bool :=
  if e.op = 0x33 then (s.towersOf e.obj).restoring
  else match s.collOf e.obj with
    | some k => k.restoring
    | none => false

/-- WRITE_APPLY: the next sequence number of partition `p` is applied, or passed when its write is lost or never was
durable. -/
def State.applyNext (s : State) (p : Nat) : State :=
  let q := (s.cpart p).applied + 1
  let pass (s : State) : State := (((s.setCpart p { s.cpart p with applied := q }).releaseHeld p).tidy p)
  if ¬ s.quayUp ∨ (s.cpart p).next ≤ q then s
  else match (s.cpart p).entries.find? (·.seq = q) with
    | none => pass s
    | some e =>
      if e.lost then pass s
      else if ¬ e.durable ∨ s.restoring e then s
      else
        let s := if e.op = 0x33 then s.applyHist e else if e.op = 0x21 then s else s.applyVecs p e
        let s := pass (s.mapEntry p q fun e => { e with applied := true })
        if e.op = 0x33 then s else s.startFolds e.obj

def execWriteApply (p : Nat) (s : State) : Res := .next (s.applyNext p)

/-- DESTAGE: the next entry of partition `p` is written to flash. -/
def State.destageNext (s : State) (p : Nat) : State :=
  let q := (s.cpart p).destaged + 1
  let pass (s : State) : State := (s.setCpart p { s.cpart p with destaged := q }).tidy p
  if ¬ s.quayUp ∨ (s.cpart p).next ≤ q then s
  else match (s.cpart p).entries.find? (·.seq = q) with
    | none => pass s
    | some e =>
      if e.lost then pass s
      else if ¬ e.durable then s
      else pass ((s.mapEntry p q fun e => { e with destaged := true }).program e.size)

def execDestage (p : Nat) (s : State) : Res := .next (s.destageNext p)

/-! ### Folds and compactions (03 R50, Table 3-6) -/

/-- DELTA_AGE_TIMEOUT: an applied delta entry of the list is 60 s old. -/
def State.deltaAge (s : State) (k l : Nat) : State :=
  match s.collOf k with
  | none => s
  | some v =>
    if v.live.vecs.any fun x => x.list = l && x.dlog && decide (x.at_ + 60 * tickS ≤ s.svcTime) then
      match v.due (s.cpart v.part).folding true l with
      | some c => s.startFold k l c none
      | none => s
    else s

def execDeltaAgeTimeout (coll list : Nat) (s : State) : Res := .next (s.deltaAge coll list)

/-- Versions of list `l` that a fold with this cut moves, and those that a compaction keeps. -/
def Vec.folds (f : Fold) (x : Vec) : Bool := x.list = f.list && x.dlog && decide (x.seq ≤ f.cut)
def Vec.kept (f : Fold) (x : Vec) : Bool :=
  x.list = f.list && !x.dlog && !(match x.dead with
    | some d => decide (d ≤ f.cut)
    | none => false)

/-- The versions `vs` stand in a new segment, taken out of the list of `all` by sequence number and identifier. -/
def placeVecs (new all : List Vec) : List Vec :=
  all.map fun v => (new.find? fun n => n.id = v.id && n.seq = v.seq).getD v

/-- A fold's or compaction's new segment. A compacted list keeps its bank where the segment fits there; otherwise its rows go to
HBM3E and the run-time is told (03 R50; DESIGN CHOICE, log entry 80). Answers the state, the generation and the segments replaced. -/
def State.writeSeg (s : State) (t p : Nat) (g : Gen) (f : Fold) : Option (State × Gen × List Seg) :=
  let vs := if f.compact then g.vecs.filter (Vec.kept f) else g.vecs.filter (Vec.folds f)
  let old := if f.compact then g.store.filter (·.list = f.list) else []
  let done (s : State) (g : Gen) (x : List Seg) (new : List Vec) : State × Gen × List Seg :=
    let segs := tsetD 1 g.segs f.list (if f.compact then 1 else tgetD 1 g.segs f.list + 1)
    (s, { g with segs := segs, store := g.store.filter (fun y => !(old.contains y)) ++ x,
                 vecs := placeVecs (new.map fun v => { v with cut := if f.compact then v.cut else f.cut }) g.vecs }, old)
  if vs = [] then some (done s g [] [])
  else match s.newSeg t p g f.list vs with
    | some r => some (done r.1 g [r.2.1] r.2.2)
    | none =>
      if f.compact ∧ (g.bankOf f.list).isSome then
        let h := { g with bank := tsetD none g.bank f.list none }
        match s.newSeg t p h f.list vs with
        | some r =>
          let up (v : Vec) : Vec := v.rowsIn 0
          let s := r.2.2.foldl (fun (s : State) v => (s.freeAll t p v.cost).chargeAll t p (up v).cost) r.1
          some (done (s.raise p srcQuay (Config.openCode 6 % 2 ^ 16) (leBytes 4 f.list)) h [r.2.1] (r.2.2.map up))
        | none => none
      else none

/-- FOLD_COMPLETE: the fold or compaction of a list has written its new segment. One that finds no room stays as it is, for
DEFERRED to report (03 Table 3-8). -/
def State.foldDone (s : State) (k l : Nat) : State :=
  match s.collOf k with
  | none => s
  | some v =>
    match v.folds.find? (·.list = l) with
    | none => s
    | some f =>
      if ¬ s.quayUp then s
      else match s.writeSeg v.tenant v.part v.live f with
        | none => s
        | some r =>
          let rest := dropFirst (fun x => x.list = l) v.folds
          let s := r.1.mapColl k fun v => { v with live := r.2.1, folds := rest, cuts := v.cuts ++ [⟨l, f.cut, f.compact, r.2.2⟩] }
          let s := match f.cmd with
            | some n => if rest.any (·.cmd = some n) then s else s.finish n stSuccess 0 0 []
            | none => s
          (s.tidy v.part).startFolds k

def execFoldComplete (coll list : Nat) (s : State) : Res := .next (s.foldDone coll list)

/-- Queries of a collection that are fetched and not complete. -/
def State.queriesOf (s : State) (k : Nat) : List Cmd := s.quay.cmds.filter fun c => c.op = 0x40 && c.object = k

/-- CUT_RELEASE: cuts with no query below them release their old rows; a compaction's removed slots return their charges. -/
def State.cutRelease (s : State) (k : Nat) : State :=
  match s.collOf k with
  | none => s
  | some v =>
    let free (c : Cut) : Bool := !((s.queriesOf k).any fun q => match q.rp with
      | some r => decide (r < c.cut)
      | none => false)
    let gone (x : Vec) : Bool := v.cuts.any fun c => free c && c.compact && c.list = x.list && !x.dlog && (match x.dead with
      | some d => decide (d ≤ c.cut)
      | none => false)
    let s := (v.live.vecs.filter gone).foldl (fun s x => s.freeAll v.tenant v.part x.cost) s
    let s := ((v.cuts.filter free).flatMap Cut.segs).foldl State.dropSeg s
    s.mapColl k fun v => { v with live := { v.live with vecs := v.live.vecs.filter fun x => !(gone x) }, cuts := v.cuts.filter fun c => !(free c) }

def execCutRelease (coll : Nat) (s : State) : Res := .next (s.cutRelease coll)

/-- COMPACT: compaction of every list with a tombstoned slot; it completes when each has reached its cut (03 R460). -/
def State.compact (s : State) (c : Cmd) : State :=
  match s.cmdColl c with
  | .error e => s.refuse c.n e
  | .ok k =>
    let ls := ((k.live.vecs.filter fun v => v.dead.isSome && !v.dlog).map (·.list)).eraseDups
    if ls = [] then s.finish c.n stSuccess 0 0 []
    else (ls.foldl (fun s l => s.startFold c.object l true (some c.n)) s).setCmd c.n fun c => { c with st := .running }

def execCompact (n : Nat) (s : State) : Res := .next (s.onCmd n 0x25 State.compact)

end Sys2Proof.Machine
end

