-- ==== Sys2Proof/Machine/Gener.lean ====
section
/-! DEFINITION. Collections and their generations (02 R16, R21, 03 R51-R56, R459, R460, 13 Table 13-6): creation, build,
switch, abandon, placement of lists; and staged tower weights. -/

namespace Sys2Proof.Machine

/-- A generation, or root handle, that the collection manager allocates (DESIGN CHOICE, log entry 4). -/
def State.freshRoot (s : State) : Nat := Config.freeChoice s.fresh % 2 ^ 64

/-! ### Creation -/

/-- COLL_CREATE (02 R16, 03 R53, R60): every list in HBM3E, record copy A written. -/
def State.collCreate (s : State) (c : Cmd) : State :=
  match genOf 1 (c.payload.take c.len0) with
  | none => s.refuse c.n stInvalidParameter
  | some g =>
    let live := s.coll.colls.filter (·.2.isSome)
    let mine := live.filter fun k => match k.2 with
      | some v => v.part = c.part
      | none => false
    if 1024 ≤ live.length ∨ 256 ≤ mine.length then s.refuse c.n stCapacity
    else match pickFree (Config.freeChoice s.fresh) (2 ^ 32) (live.map (·.1)) with
      | none => s.refuse c.n stCapacity
      | some k =>
        let s := s.drew
        let root := s.freshRoot
        let s := s.drew
        let base := Config.freeChoice s.fresh % 2 ^ 64
        let r : GenRec := { kind := 0, object := k, gen := 1, seq := 1, base := base, time := 0, root := root, prev := 0 }
        let v : Coll := { tenant := c.tenant, part := c.part, live := { g with base := base, root := root }, recs := { a := r.bytes } }
        (s.drew.setColl k (some v)).finish c.n stSuccess k 0 []

def execCollCreate (n : Nat) (s : State) : Res := .next (s.onCmd n 0x20 State.collCreate)

/-! ### Build -/

/-- May a new generation have these parameters (03 Table 3-7b)? -/
def mayChange (d e : List Byte) : Bool :=
  dDim d = dDim e && dHost d = dHost e && (!dHost d || dSketch d = dSketch e)

/-- BUILD. A changed fixed parameter is reported before GEN_BUSY (DESIGN CHOICE, log entry 81). A BUILD that comes to run after the collection's
drop was admitted is abandoned (03 R463). -/
def State.buildStart (s : State) (c : Cmd) : State :=
  match s.cmdColl c with
  | .error e => s.refuse c.n e
  | .ok k =>
    if k.dropAt.isSome then s.finish c.n stAbandoned 0 0 []
    else match genOf (k.live.num + 1) (c.payload.take c.len0) with
    | none => s.refuse c.n stInvalidParameter
    | some g =>
      if mayChange k.live.desc g.desc = false then s.refuse c.n stInvalidParameter
      else if k.build.isSome ∨ k.next.isSome then s.refuse c.n stGenBusy
      else
        let g := { g with base := (s.cpart k.part).applied, root := s.freshRoot }
        (s.drew.mapColl c.object fun k => { k with build := some ⟨g, c.n⟩ }).setCmd c.n fun c => { c with st := .running }

def execBuild (n : Nat) (s : State) : Res := .next (s.onCmd n 0x22 State.buildStart)

/-- The versions that a build carries over: those live at the base point, with the delete that a later write made of one (03 R52). -/
def State.baseVecs (s : State) (v : Coll) (b : Build) : List (Vec × Cnt) :=
  let live (x : Vec) : Bool := decide (x.seq ≤ b.gen.base) && (match x.dead with
    | some d => decide (b.gen.base < d)
    | none => true)
  (v.live.vecs.filter live).map fun x =>
    let r := b.gen.version (Config.freeChoice s.fresh) v.live.desc x.seq x.at_ false x.rec_
    ({ r.1 with dead := x.dead, cost := b.gen.cost r.1.list }, r.2)

/-- The segments of a build: one for each list that has a version. None where one finds no room. -/
def State.writeGen (s : State) (t p : Nat) (g : Gen) (vs : List Vec) : Option (State × Gen) :=
  ((vs.map Vec.list).eraseDups).foldl (fun a l => match a with
    | none => none
    | some (s, g) => match s.newSeg t p g l (vs.filter fun v => v.list = l) with
      | some r => some (r.1, { g with store := g.store ++ [r.2.1], vecs := g.vecs ++ r.2.2 })
      | none => none) (some (s, g))

/-- BUILD_DONE: every vector live at the base point stands in the new generation, whose objects have their flash homes and whose
staging record is written, and BUILD completes (03 R52, R56). Without quota or room for it the build goes on (DESIGN CHOICE, log entry 81). -/
def State.buildDone (s : State) (k : Nat) : State :=
  match s.collOf k with
  | none => s
  | some v =>
    match v.build with
    | none => s
    | some b =>
      let new := s.baseVecs v b
      let costs := new.map fun x => x.1.cost
      if ¬ s.quayUp ∨ (crossAt (s.overQuota v.tenant) costs).isSome ∨ (crossAt (s.overRoom v.tenant v.part) costs).isSome then s
      else match s.drew.writeGen v.tenant v.part b.gen (new.map Prod.fst) with
        | none => s
        | some r =>
          let s := r.1.countCarry v.part (new.foldl (fun a x => a.add x.2) {})
          let s := s.chargeAll v.tenant v.part (costs.flatMap id)
          let g := r.2
          let x : GenRec := { kind := 2, object := k, gen := g.num, seq := 0, base := g.base, time := 0, root := g.root, prev := v.live.root }
          let s := s.mapColl k fun v => { v with build := none, next := some g, recs := { v.recs with staging := x.bytes } }
          s.finish b.cmd stBuildDone g.base g.num []

def execBuildDone (coll : Nat) (s : State) : Res := .next (s.buildDone coll)

/-- ABANDON (03 R51, Table 3-7a). -/
def State.abandon (s : State) (c : Cmd) : State :=
  match s.cmdColl c with
  | .error e => s.refuse c.n e
  | .ok k =>
    if k.build.isNone ∧ k.next.isNone then s.refuse c.n stNoBuild
    else (((s.endBuild c.object).cancelSwitch c.object).clearStaged c.object).finish c.n stSuccess 0 0 []

def execAbandon (n : Nat) (s : State) : Res := .next (s.onCmd n 0x23 State.abandon)

/-! ### Staged tower weights -/

/-- MODEL_LOAD: the weight set is staged as the model's next tower generation (13, MODEL_LOAD; 04 Table 4-9, 03 R56). The
spec gives a weight set no base point: a free value. -/
def State.modelLoad (s : State) (c : Cmd) : State :=
  match s.cmdModel c with
  | .error e => s.refuse c.n e
  | .ok m =>
    let t := s.towersOf c.object
    if (if m.trained then 8 else 64) * 10 ^ 9 < m.towers then s.refuse c.n stCapacity
    else if t.sw.isSome then s.refuse c.n stGenBusy
    else
      let root := s.freshRoot
      let s := s.drew
      let base := Config.freeChoice s.fresh % 2 ^ 64
      let r : GenRec := { kind := 3, object := c.object, gen := t.live + 1, seq := 0, base := base, time := 0, root := root, prev := 0 }
      (s.drew.setTowers c.object { t with next := some (c.payload.take c.len0), recs := { t.recs with staging := r.bytes } }).finish
        c.n stSuccess base (t.live + 1) []

def execModelLoad (n : Nat) (s : State) : Res := .next (s.onCmd n 0x52 State.modelLoad)

/-! ### Switch (03 R53, R54) -/

/-- SWITCH. One of a collection whose drop was admitted is cancelled (03 R463). -/
def State.switch (s : State) (c : Cmd) : State :=
  let w : Switch := ⟨c.n, c.fld 40 8⟩
  let run (s : State) : State := s.setCmd c.n fun c => { c with st := .running }
  if bitAt c.flags 0 then
    match s.cmdModel c with
    | .error e => s.refuse c.n e
    | .ok _ =>
      let t := s.towersOf c.object
      if t.sw.isSome then s.refuse c.n stGenBusy
      else if t.next.isNone then s.refuse c.n stNoBuild
      else run (s.setTowers c.object { t with sw := some w })
  else
    match s.cmdColl c with
    | .error e => s.refuse c.n e
    | .ok k =>
      if k.dropAt.isSome then s.finish c.n stAbandoned 0 0 []
      else if k.sw.isSome then s.refuse c.n stGenBusy
      else if k.next.isNone then s.refuse c.n stNoBuild
      else run (s.mapColl c.object fun k => { k with sw := some w })

def execSwitch (n : Nat) (s : State) : Res := .next (s.onCmd n 0x24 State.switch)

/-- May a switch write its copy: its time has come, nothing is being restored; and power stands, or tears the write. -/
def State.switchNow (s : State) (w : Switch) (restoring torn : Bool) : Bool :=
  decide (w.time ≤ s.svcTime) && !restoring && (if torn then (match s.pwr.phase with
    | .flushing _ => true
    | _ => false) else s.quayUp)

/-- COMPACT commands whose compactions ran on a generation that is replaced have nothing left to wait for. -/
def State.endFolds (s : State) (k : Nat) : State :=
  match s.collOf k with
  | none => s
  | some v => (v.folds.foldl (fun (s : State) f => match f.cmd with
      | some n => s.finish n stSuccess 0 0 []
      | none => s) s).mapColl k fun v => { v with folds := [], cuts := [] }

def State.switchColl (s : State) (k : Nat) (torn : Bool) : State :=
  match s.collOf k with
  | none => s
  | some v =>
    match v.sw, v.next with
    | some w, some g =>
      if s.switchNow w v.restoring torn = false then s
      else
        let r := v.recs.next 0 k g.num g.base w.time g.root
        if torn then s.mapColl k fun v => { v with sw := none, recs := v.recs.put r.torn }
        else
        let s := s.endFolds k
        let s := s.mapColl k fun v => { v with live := g, next := none, sw := none, old := v.old ++ [(v.live, s.quay.nextCmd)],
                                                recs := { v.recs.put r.bytes with staging := [] } }
        (s.tidy v.part).finish w.cmd stSuccess g.base g.num []
    | _, _ => s

/-- The tower weights of generation `gen` become live. Sets that no query in flight was fetched under are dropped: queries fetched
before the switch finish on the old towers (04 R78). -/
def State.liveTowers (s : State) (m gen : Nat) (bs : List Byte) : State :=
  let t := s.towersOf m
  let used (x : Nat × List Byte) : Bool := s.quay.cmds.any fun c => c.op = 0x40 && bitAt c.flags 2 && c.fld 48 2 = m && c.tgen = x.1
  s.setTowers m { t with live := gen, sets := t.sets.filter used ++ [(gen, bs)] }

def State.switchTowers (s : State) (m : Nat) (torn : Bool) : State :=
  let t := s.towersOf m
  match t.sw, t.next, recAt t.recs.staging with
  | some w, some bs, some st =>
    if s.switchNow w t.restoring torn = false then s
    else
      let r := t.recs.next 1 m st.gen st.base w.time st.root
      if torn then s.setTowers m { t with sw := none, recs := t.recs.put r.torn }
      else
      let s := s.setTowers m { t with sw := none, next := none, recs := { t.recs.put r.bytes with staging := [] } }
      (s.liveTowers m st.gen bs).finish w.cmd stSuccess st.base st.gen []
  | _, _, _ => s

/-- The serving weight set that the FP32 master weights give, rounded to nearest even (04 R78). -/
def State.masters (s : State) (m : Nat) (v : Model) : List Byte :=
  let f := (fmOf (Config.towerFormat m)).getD .bf16
  f.pack ((List.range v.towers).map fun i => (f.conv .rne true (Fm.fp32.val (s.rdLE (Config.masterAt m + 4 * i) 4))).1)

/-- A publication that is due: a new weight set from the masters, and the KIND 1 record is switched (04 Table 4-6; the spec gives the
record no base point: a free value, as at MODEL_LOAD). -/
def State.publishTowers (s : State) (m : Nat) (torn : Bool) : State :=
  let t := s.towersOf m
  match s.model m with
  | some v =>
    if s.switchNow ⟨0, s.svcTime⟩ t.restoring torn = false then s
    else
      let root := s.freshRoot
      let s := s.drew
      let r := t.recs.next 1 m (t.live + 1) (Config.freeChoice s.fresh % 2 ^ 64) s.svcTime root
      let s := s.drew
      if torn then s.setTowers m { t with pub := false, recs := t.recs.put r.torn }
      else (s.setTowers m { t with pub := false, recs := t.recs.put r.bytes }).liveTowers m (t.live + 1) (s.masters m v)
  | none => s

/-- A publication that is due, or the switch that a command asked for; a publication waits while a staged weight set has the next
generation number (DESIGN CHOICE, log entry 88). -/
def State.towersEffect (s : State) (m : Nat) (torn : Bool) : State :=
  let t := s.towersOf m
  if t.pub ∧ t.next.isNone then s.publishTowers m torn else s.switchTowers m torn

/-- SWITCH_TAKES_EFFECT at the first service tick at or after SWITCH_TIME. `torn`: power is lost while the copy is written. -/
def execSwitchTakesEffect (isModel : Bool) (obj : Nat) (torn : Bool) (s : State) : Res :=
  .next (if isModel then s.towersEffect obj torn else s.switchColl obj torn)

/-- GENERATION_RELEASE: replaced generations whose last query is complete return their storage (03 R55). -/
def State.genRelease (s : State) (k : Nat) : State :=
  match s.collOf k with
  | none => s
  | some v =>
    let busy (o : Gen × Nat) : Bool := (s.queriesOf k).any fun q => decide (q.n < o.2)
    let s := (v.old.filter fun o => !(busy o)).foldl (fun (s : State) o => s.freeGen v.tenant v.part o.1) s
    s.mapColl k fun v => { v with old := v.old.filter busy }

def execGenerationRelease (coll : Nat) (s : State) : Res := .next (s.genRelease coll)

/-! ### Placement of a list (02 R20, R21, 13 LIST_PLACE) -/

/-- Is a placement refused: by R20, into a bank or stack not owned or out of service? -/
def State.placeBad (s : State) (k : Coll) (dest : Option Nat) (stack : Nat) : Bool :=
  match dest with
  | some g => dSketch k.live.desc = 1024 || s.owner 4 g ≠ k.part || s.outOfService .sketch (g / 512 / 2) (g / 512)
  | none => !((List.range 36).any fun i => s.owner 2 (36 * stack + i) = k.part) || s.outOfService .hbm (stack / 3) stack

/-- LIST_PLACE. Rows that are there already stay; where they do not fit, the placement is refused and the list stays. A charge that
would pass the quota of the target tier refuses it (11 R255). -/
def State.listPlace (s : State) (c : Cmd) : State :=
  match s.collOf c.object with
  | none => s.refuse c.n stNoObject
  | some k =>
    let l := c.fld 40 4
    let g := c.fld 44 2
    let n := c.fld 46 1
    let dest := if bitAt c.flags 0 then some g else none
    let gen := { k.live with bank := tsetD none k.live.bank l dest }
    let vs := k.live.vecs.filter fun v => v.list = l
    let need := if dest.isSome = (k.live.bankOf l).isSome then 0 else vs.length * (dSketch k.live.desc / 8 + ceilDiv (1 + dValues k.live.desc) 8)
    let mine := k.live.store.filter fun x => x.list = l
    if k.dropped c.n then s.refuse c.n stNoObject
    else if dNcent k.live.desc ≤ l ∨ 4095 < g ∨ 11 < n then s.refuse c.n stInvalidParameter
    else if s.placeBad k dest n then s.refuse c.n stPlacementRefused
    else if s.overQuota k.tenant (if dest.isSome then 1 else 0) need then s.refuse c.n stQuota
    else if dest.isSome ∧ dest = k.live.bankOf l then s.finish c.n stSuccess 0 0 []
    else match s.moveAll k.tenant k.part k.live.desc dest n mine with
      | none => s.refuse c.n stPlacementRefused
      | some r =>
        let up (v : Vec) : Vec := if v.list = l then v.rowsIn (if dest.isSome then 1 else 0) else v
        let s := vs.foldl (fun s v => (s.freeAll k.tenant k.part v.cost).chargeAll k.tenant k.part (up v).cost) r.1
        let gen := { gen with vecs := gen.vecs.map up, store := gen.store.filter (fun x => !(mine.contains x)) ++ r.2 }
        (s.mapColl c.object fun k => { k with live := gen }).finish c.n stSuccess 0 0 []

def execListPlace (n : Nat) (s : State) : Res := .next (s.onCmd n 0x14 State.listPlace)

end Sys2Proof.Machine
end

