-- ==== Sys2Proof/Machine/Query.lean ====
section
/-! DEFINITION. Queries (02 R22-R37, R465, 13 R297), deferred errors (03 R57, 13 R304), GET_LOG (13 R305), and the posting of
completions (13 R301, R302). -/

namespace Sys2Proof.Machine

/-! ### The query command (02 Table 2-3) -/

def qProbe (c : Cmd) : Nat := c.fld 40 2
def qK (c : Cmd) : Nat := c.fld 42 2
def qCand (c : Cmd) : Nat := c.fld 44 4
def qModel (c : Cmd) : Nat := c.fld 48 2
def qRt (c : Cmd) : Bool := bitAt c.flags 0
def qAudit (c : Cmd) : Bool := bitAt c.flags 1
def qRank (c : Cmd) : Bool := bitAt c.flags 2
/-- MERGE = LOCAL (02 Table 2-11). -/
def qLocal (c : Cmd) : Bool := bitAt c.flags 3

/-- A bitmap clause (13 R297): attribute, negation, values. -/
structure Clause where
  attr : Nat
  neg : Bool
  vals : List Nat
deriving DecidableEq, Repr

/-- A range clause: attribute and bounds, as codes of its type. -/
structure Range where
  attr : Nat
  lo : Nat
  hi : Nat
deriving DecidableEq, Repr

def qClauses (c : Cmd) : List Clause :=
  ((List.range 4).map fun i => 64 + 10 * i).filterMap fun o =>
    if c.fld o 1 = 0xFF then none
    else some ⟨c.fld o 1, bitAt (c.fld (o + 1) 1) 4, (List.range (bits (c.fld (o + 1) 1) 0 4)).map fun j => c.fld (o + 2 + j) 1⟩

def qRanges (c : Cmd) : List Range :=
  ((List.range 2).map fun i => 104 + 10 * i).filterMap fun o =>
    if c.fld o 1 = 0xFF then none else some ⟨c.fld o 1, c.fld (o + 2) 4, c.fld (o + 6) 4⟩

/-- Are the filter bytes well formed: reserved bits and unused bytes 0, N from 1 to 8, attributes and values that exist (02
R27, 13 R295, R297)? -/
def filterOk (c : Cmd) (d : List Byte) : Bool :=
  ((List.range 4).map fun i => 64 + 10 * i).all (fun o =>
    let n := bits (c.fld (o + 1) 1) 0 4
    if c.fld o 1 = 0xFF then zeroRange c.entry (o + 1) (o + 10)
    else decide (c.fld (o + 1) 1 < 32) && decide (1 ≤ n) && decide (n ≤ 8) && decide (c.fld o 1 < dBattr d) &&
      zeroRange c.entry (o + 2 + n) (o + 10) && (List.range n).all fun j => decide (c.fld (o + 2 + j) 1 < dNval d (c.fld o 1))) &&
  ((List.range 2).map fun i => 104 + 10 * i).all fun o =>
    if c.fld o 1 = 0xFF then zeroRange c.entry (o + 1) (o + 10) else decide (c.fld o 1 < dNattr d) && c.fld (o + 1) 1 = 0

/-- Does the command come from an OQI v1 queue pair, so that it carries no filter (13 R297)? -/
def State.isV1 (s : State) (c : Cmd) : Bool := (s.qp c.qp).ver = 1

/-- Bytes of a query's input: vector and scales, host sketch, and the feature section of the model's plan. -/
def qBytes (c : Cmd) (d : List Byte) : Nat :=
  dCopy d + (if dHost d then dSketch d / 8 else 0) + (if qRank c then Config.featBytes (qModel c) else 0)

def qParamsOk (c : Cmd) (d : List Byte) (v1 : Bool) : Bool :=
  decide (1 ≤ qProbe c) && decide (qProbe c ≤ 4096) && decide (qProbe c ≤ dNcent d) && decide (16 ≤ qCand c) && decide (qCand c ≤ 65536) &&
    decide (1 ≤ qK c) && decide (qK c ≤ 4096) && decide (qK c ≤ qCand c) &&
    (c.deadline = 0 || (qRt c && decide (10 ≤ c.deadline) && decide (c.deadline ≤ 1000000))) && !(qRt c && qAudit c) &&
    c.len0 = qBytes c d && (v1 || filterOk c d) &&
    (!qRank c || (decide (Config.lookups (qModel c) c.payload ≤ 65536) && decide (Config.longestBag (qModel c) c.payload ≤ 256)))

/-- Bytes that the result buffer must hold (02, Result buffer). -/
def qBuffer (c : Cmd) : Nat := (64 + 16 * qK c) * (if qAudit c then 2 else 1)

/-- Is a query in flight beside command `n`: admitted and not completed, or fetched before it and not refused? -/
def Cmd.inFlight (d : Cmd) (n : Nat) : Bool :=
  match d.st with
  | .running => true
  | .done st _ _ _ => st = stSuccess
  | _ => decide (d.n < n)

/-- Is the collection sharded: does an enabled collective group belong to an instance of its plan (02 R38, 14 R329; DESIGN CHOICE, log entry 82)? -/
def State.sharded (s : State) (k : Nat) : Bool :=
  (List.range 64).any fun g => grEn (s.group g) && match s.inst (grInst (s.group g)) with
    | some i => i.kind = 0 && i.object = k
    | none => false

/-- QUERY: its checks, in this order, and its task's binding to an instance (02 R22, R37, 13 R294). -/
def State.query (s : State) (c : Cmd) : State :=
  match s.cmdColl c, c.rp with
  | .error e, _ => s.refuse c.n e
  | .ok _, none => s
  | .ok k, some rp =>
    let kind := if qRank c then 1 else 0
    let obj := if qRank c then qModel c else c.object
    let audits := (s.quay.cmds.filter fun d => d.op = 0x40 && d.part = c.part && d.n ≠ c.n && qAudit d && d.inFlight c.n).length
    match (if qRank c then s.model (qModel c) else none) with
    | none => if qRank c then s.refuse c.n stNoObject else go s k rp kind obj audits
    | some m => if m.tenant ≠ c.tenant then s.refuse c.n stNotOwner else go s k rp kind obj audits
where
  go (s : State) (k : Coll) (rp kind obj audits : Nat) : State :=
    if qParamsOk c k.live.desc (s.isV1 c) = false ∨ (qLocal c = true ∧ s.sharded c.object = false) then s.refuse c.n stInvalidParameter
    else if c.len1 < qBuffer c then s.refuse c.n stBufferSmall
    else if qAudit c ∧ 4 ≤ audits then s.refuse c.n stAuditBusy
    else match s.pickInst c.part kind obj none with
      | none => s.refuse c.n stNoPlan
      | some i =>
        let t : Task := { task := 0, cmd := c.n, qp := c.qp, cid := c.cid, readPoint := rp, gen := c.gen, flags := bits c.flags 0 3,
                          deadline := if c.deadline = 0 then 0 else c.at_ + c.deadline * tickUs
                          entry := Config.freeChoice s.fresh % 2 ^ 40 }
        (s.drew.bindTask kind obj i t).setCmd c.n fun c => { c with st := .running }

def execQuery (n : Nat) (s : State) : Res := .next (s.onCmd n 0x40 State.query)

/-! ### Its result (02 R23-R31, R465, Tables 2-7 to 2-9) -/

/-- What becomes of a version under a read point: 0 seen, 1 screened and then dropped at its gather, 2 not seen. A delete
applied after the read point may take either side (02 Table 2-4a, 03 R48). -/
def fateOf (draw rp : Nat) (i : Nat) (v : Vec) : Nat :=
  if rp < v.seq then 2
  else match v.dead with
    | none => 0
    | some d => if d ≤ rp then 2 else Config.lateDelete draw i % 3

/-- Does a version pass the bitmap clauses (02 Table 2-4)? -/
def passes (cs : List Clause) (v : Vec) : Bool :=
  cs.all fun c => (bitAt v.pres c.attr && c.vals.contains (v.vals.getD c.attr 0)) != c.neg

/-- Does it pass the range clauses? -/
def inRanges (d : List Byte) (rs : List Range) (v : Vec) : Bool :=
  rs.all fun r =>
    let x := v.nums.getD r.attr 0
    if dFloat d r.attr then (Fm.fp32.val r.lo).le (Fm.fp32.val x) && (Fm.fp32.val x).le (Fm.fp32.val r.hi)
    else decide (sext 32 r.lo ≤ sext 32 x) && decide (sext 32 x ≤ sext 32 r.hi)

/-- A record of a result before it is laid out: `tier` as Table 2-9 codes it. -/
structure Hit where
  id : Nat
  score : Nat
  ovf : Bool
  dist : Nat
  dlog : Bool
  modnum : Nat
  tier : Nat
deriving DecidableEq, Repr

/-- The order of R30. -/
def hitLe (metric : Nat) (a b : Hit) : Bool :=
  let x := scoreKey metric a.score
  let y := scoreKey metric b.score
  decide (x < y) || (x = y && decide (a.id ≤ b.id))

/-- A candidate: identifier and distance; `kept`: its gather found it; and its record, none where it fails a range clause. -/
structure Cand where
  id : Nat
  dist : Nat
  kept : Bool
  hit : Option Hit
deriving DecidableEq, Repr

/-- The order of R28. -/
def candLe (a b : Cand) : Bool := decide (a.dist < b.dist) || (a.dist = b.dist && decide (a.id ≤ b.id))

/-- A list's segments are absent while its sketch stack is out of service (02 Table 2-12). -/
def State.listLost (s : State) (g : Gen) (l : Nat) : Bool :=
  match g.bankOf l with
  | some b => s.tier.failed.contains (64 + b / 512)
  | none => false

/-- What one shard brings to a query: its candidates, what it screened, and whether some of its lists were absent; and of an audit
its scored vectors, none where it did not answer it (02 R38, R39). -/
structure Part where
  modnum : Nat
  rp : Nat
  gen : Nat
  probed : Nat
  screened : Nat
  hits : Nat
  part : Bool
  cands : List Cand
  exact : Option (List Hit)
  lists : Nat
  scanned : Nat
deriving DecidableEq, Repr

/-- A query's clauses; one from an OQI v1 queue pair has none (13 R297). -/
def State.qFilter (s : State) (c : Cmd) : List Clause × List Range := if s.isV1 c then ([], []) else (qClauses c, qRanges c)

/-- Does a query with this read point find the version in the delta log: no segment holds it yet, or its fold's cut lies above the
read point (03 R50)? -/
def Vec.inDelta (v : Vec) (rp : Nat) : Bool := v.dlog || decide (rp < v.cut)

/-- The tier code of a version's copy (02 Table 2-9). -/
def State.tierCode (s : State) (v : Vec) (rp : Nat) : Nat :=
  if v.inDelta rp then 3
  else match v.slot with
    | some x => match s.obj x.1 with
      | some o => match tierAt (o.place (x.2 * o.elemb)) with
        | .gddr => 1
        | .flash => 2
        | _ => 0
      | none => 0
    | none => 0

/-- The record of a version (02 R29, R30). -/
def State.hitOf (s : State) (d : List Byte) (q : List FV) (rp : Nat) (v : Vec) (dist : Nat) : Hit :=
  let r := score d q (copyVals d v.copy)
  { id := v.id, score := r.1, ovf := r.2, dist, dlog := v.inDelta rp, modnum := s.modNum, tier := s.tierCode v rp }

/-- Does this module hold the list: every list of an unsharded collection, its shard's lists of a sharded one (02 R38)? -/
def State.holdsList (s : State) (k l : Nat) : Bool := !(s.sharded k) || Config.shardHolds k l

/-- This module's part of the main search: routing, screening, candidates and exact re-ranking. `hits`: a free value, for it
depends on how thresholds moved. -/
def State.search (s : State) (c : Cmd) (g : Gen) (rp : Nat) : Part :=
  let d := g.desc
  let q := copyVals d (bytesAt c.payload 0 (dCopy d))
  let sk := if dHost d then leAt c.payload (dCopy d) (dSketch d / 8) else sketchOf d g.proj (bytesAt c.payload 0 (dCopy d))
  let fs := s.qFilter c
  let lists := (g.probe q (qProbe c)).filter (s.holdsList c.object)
  let vs := (List.range g.vecs.length).zip g.vecs
  let seen := vs.filter fun v => fateOf s.fresh rp v.1 v.2 ≠ 2 && lists.contains v.2.list && passes fs.1 v.2 &&
    (v.2.inDelta rp || !(s.listLost g v.2.list))
  let cand (v : Nat × Vec) : Cand :=
    let dist := hamming (dSketch d) sk v.2.sketch
    { id := v.2.id, dist, kept := fateOf s.fresh rp v.1 v.2 = 0, hit := if inRanges d fs.2 v.2 then some (s.hitOf d q rp v.2 dist) else none }
  { modnum := s.modNum, rp, gen := c.gen, probed := (lists.filter fun l => !(s.listLost g l)).length, screened := seen.length,
    hits := Config.freeChoice s.fresh % 2 ^ 32, part := lists.any (s.listLost g), cands := seen.map cand, exact := none, lists := 0, scanned := 0 }

/-- The exhaustive search of an audit over this module's shard (02 R36): every list, every vector eligible at the read point. -/
def State.auditSearch (s : State) (c : Cmd) (g : Gen) (rp : Nat) : List Hit × Nat × Nat :=
  let d := g.desc
  let q := copyVals d (bytesAt c.payload 0 (dCopy d))
  let fs := s.qFilter c
  let vs := ((List.range g.vecs.length).zip g.vecs).filter fun v =>
    fateOf (s.fresh + 1) rp v.1 v.2 = 0 && passes fs.1 v.2 && s.holdsList c.object v.2.list
  ((vs.filter fun v => inRanges d fs.2 v.2).map fun v => s.hitOf d q rp v.2 0, ((List.range (dNcent d)).filter (s.holdsList c.object)).length, vs.length)

/-- A candidate of another module. -/
def shardHit (x : ShardCand) (modnum dist : Nat) : Hit :=
  { id := x.id, score := x.score % 2 ^ 32, ovf := x.ovf, dist, dlog := x.dlog, modnum := modnum % 4096, tier := x.tier % 4 }
def shardCand (x : ShardCand) (modnum : Nat) : Cand :=
  { id := x.id, dist := min x.dist 1023, kept := x.kept, hit := if x.passes then some (shardHit x modnum (min x.dist 1023)) else none }
def shardPart (x : Shard) : Part :=
  { modnum := x.modnum, rp := x.readPoint, gen := x.gen, probed := x.probed, screened := x.screened, hits := x.hits, part := x.part,
    cands := x.cands.map (shardCand · x.modnum), exact := x.exact.map fun l => (l.filter (·.passes)).map (shardHit · x.modnum 0), lists := x.lists,
    scanned := x.scanned }

/-- The parts of a query: this module's where its shard answers, and those of the other shards that answered. -/
def mergeParts (m : Merge) (sharded : Bool) (own : Part) : List Part :=
  if sharded then (if m.own then [own] else []) ++ (m.shards.filter (·.answered)).map shardPart else [own]

/-- The candidates that are re-ranked (02 Table 2-11): the NCAND best of all shards, or of each shard with MERGE = LOCAL. -/
def rerank (c : Cmd) (ps : List Part) : List Cand :=
  let top (xs : List Cand) : List Cand := (sortBy candLe xs).take (qCand c)
  (if qLocal c then ps.flatMap fun p => top p.cands else top (ps.flatMap Part.cands)).filter (·.kept)

/-- The K best records. -/
def topHits (c : Cmd) (metric : Nat) (xs : List Hit) : List Hit := (sortBy (hitLe metric) xs).take (qK c)

/-- What a query found, merged over its shards. -/
structure Answer where
  hits : List Hit
  rp : Nat
  genLo : Nat
  genHi : Nat
  probed : Nat
  cands : Nat
  screened : Nat
  delivered : Nat
  part : Bool
  resp : Nat
  exp : Nat
deriving DecidableEq, Repr

/-- The merge of the parts (02 R38, R39, Tables 2-7, 2-12): the lowest READ_POINT and generation, and what the shards count together.
`none`: with no part at all, the query's own read point and generation. -/
def merged (c : Cmd) (metric rp exp : Nat) (ps : List Part) : Answer :=
  let cs := rerank c ps
  let least (f : Part → Nat) (z : Nat) : Nat := match ps with
    | [] => z
    | p :: rest => rest.foldl (fun a x => min a (f x)) (f p)
  { hits := topHits c metric (cs.filterMap Cand.hit), rp := least Part.rp rp, genLo := least Part.gen c.gen,
    genHi := if ps = [] then c.gen else ps.foldl (fun a p => max a p.gen) 0,
    probed := (ps.map Part.probed).sum, cands := cs.length, screened := (ps.map Part.screened).sum, delivered := (ps.map Part.hits).sum,
    part := ps.any Part.part || decide (ps.length < exp), resp := ps.length, exp }

/-- The merged exact answer of an audit, from the shards that answered it. -/
def mergedAudit (c : Cmd) (metric exp : Nat) (a : Answer) (ps : List Part) : Answer :=
  let qs := ps.filter fun p => p.exact.isSome
  { a with hits := topHits c metric (qs.flatMap fun p => p.exact.getD []), probed := (qs.map Part.lists).sum, cands := (qs.map Part.scanned).sum,
           screened := 0, delivered := 0, part := decide (qs.length < exp), resp := qs.length }

/-- A record of Table 2-9. -/
def hitBytes (h : Hit) : List Byte :=
  leBytes 8 h.id ++ leBytes 4 h.score ++ leBytes 2 (h.dist + if h.dlog then 1024 else 0) ++
    leBytes 2 (h.modnum + h.tier * 0x1000 + if h.ovf then 0x4000 else 0)

/-- The bits of Table 2-8. -/
def flagBits (short miss part degr audit ovf mixgen : Bool) : Nat :=
  (if short then 2 else 0) + (if miss then 4 else 0) + (if part then 8 else 0) + (if degr then 16 else 0) + (if audit then 32 else 0) +
    (if ovf then 64 else 0) + if mixgen then 128 else 0

/-- Header fields that both sections share: READ_POINT, GEN_LO, GEN_HI, ELAPSED. -/
def headMid (a : Answer) (elapsed : Nat) : List Byte := leBytes 8 a.rp ++ leBytes 4 a.genLo ++ leBytes 4 a.genHi ++ leBytes 4 elapsed

/-- The rest of a header from PROBED to MOD_EXP. -/
def headCounts (a : Answer) : List Byte :=
  leBytes 4 a.probed ++ leBytes 4 a.cands ++ leBytes 8 a.screened ++ leBytes 4 a.delivered ++ leBytes 2 a.resp ++ leBytes 2 a.exp

/-- Header and records of the main section (02 Table 2-7). -/
def mainBytes (c : Cmd) (a : Answer) (elapsed overrun : Nat) (miss degr : Bool) : List Byte :=
  leBytes 2 2 ++ leBytes 2 a.hits.length ++
    leBytes 4 (flagBits (a.hits.length < qK c) miss a.part degr (qAudit c) (a.hits.any (·.ovf)) (a.genLo ≠ a.genHi)) ++ headMid a elapsed ++
    leBytes 4 overrun ++ headCounts a ++ leBytes 8 0 ++ a.hits.flatMap hitBytes

/-- Header and records of the audit section (02 Table 2-15). -/
def auditBytes (c : Cmd) (m a : Answer) (elapsed : Nat) : List Byte :=
  leBytes 2 3 ++ leBytes 2 a.hits.length ++
    leBytes 4 (flagBits (a.hits.length < qK c) false a.part false true (a.hits.any (·.ovf)) (a.genLo ≠ a.genHi)) ++
    headMid a elapsed ++ leBytes 4 0 ++ headCounts a ++
    leBytes 4 (a.hits.filter fun h => m.hits.any (·.id = h.id)).length ++ leBytes 4 a.hits.length ++ a.hits.flatMap hitBytes

/-- The ranking plan's scores (04), by what the plan reads; the records stand in the order of R30 on them. -/
def rankHits (reads : List Byte) (hs : List Hit) : List Hit :=
  sortBy (hitLe 0) (hs.map fun h =>
    let v := Config.rankScore reads h.id % 2 ^ 32
    { h with score := v, ovf := (Fm.fp32.val v).isNan || (Fm.fp32.val v).isInf })

/-- The instance that runs a command's task. -/
def State.taskInst (s : State) (n : Nat) : Option Nat :=
  (List.range 80).find? fun i => match s.inst i with
    | some v => v.tasks.any fun t => t.cmd = n && t.started
    | none => false

/-- The generation a query uses: the one live at its fetch (03 R54). -/
def State.genFor (s : State) (c : Cmd) : Option Gen :=
  (s.collOf c.object).bind fun k => if k.live.num = c.gen then some k.live else (k.old.find? (·.1.num = c.gen)).map (·.1)

/-- Is the command a real-time query past its deadline? -/
def State.overdue (s : State) (c : Cmd) : Bool :=
  c.op = 0x40 && qRt c && c.deadline ≠ 0 && decide (c.deadline * tickUs < s.svcTime - c.at_)

/-- The DEADLINE_MISS record of a task whose completion, of `status`, is posted after its deadline (10 R231, Table 10-10). A task that
no plan started has CAUSE 0xF. -/
def State.deadlineMiss (s : State) (c : Cmd) (status : Nat) : State :=
  let w := (s.ctl.missed.find? (·.1 = c.n)).getD (c.n, 0x1FFF, if status = stNoPlan then 0xF else 0xE, 0)
  let overrun := min ((s.svcTime - c.at_) / tickUs) (2 ^ 32 - 1) - c.deadline
  s.raise c.part srcQuay 0x0409
    (leBytes 2 c.qp ++ leBytes 4 c.cid ++ leBytes 2 w.2.1 ++ leBytes 4 overrun ++ leBytes 1 w.2.2.1 ++ leBytes 1 w.2.2.2)

/-- Are completions of the command's queue pair posted (13 Table 13-4)? -/
def State.posts (s : State) (c : Cmd) : Bool := (s.qp c.qp).mode = .active || (s.qp c.qp).mode = .draining

/-- What a ranking plan's scores rest on: model, tower generation, MSTEP, the query and its history attention (04 R63, R70); where
fallback rows were used they may differ between executions, so the draw joins (02 R33). -/
def State.rankReads (s : State) (c : Cmd) (step : Nat) (degr : Bool) : List Byte :=
  let attn := ((tgetO s.rank.attn c.n).join).getD (s.attend (qModel c) c)
  leBytes 2 (qModel c) ++ leBytes 4 c.tgen ++ leBytes 8 step ++ c.payload ++ attn.out.flatMap (leBytes 4) ++ if degr then leBytes 8 s.fresh else []

/-- The end of a query whose task runs: its result. An audit query waits for its scan (02 R36, R37); its audit section stands
at byte 64 + 16 K, and what lies before it beyond the main section is not written (02 R34). When no shard answers, the query
completes SHARDS_UNAVAILABLE (02 Table 2-12). `m`: what the collectives of a sharded collection brought. -/
def State.endQuery (s : State) (c : Cmd) (m : Merge) : State :=
  match s.taskInst c.n, s.genFor c, c.rp with
  | some i, some g, some rp =>
    if qAudit c ∧ ¬ s.coll.audits.contains c.n then s
    else
      let ticks := s.svcTime - c.at_
      let elapsed := min (ticks / tickUs) (2 ^ 32 - 1)
      let miss := s.overdue c
      let overrun := if miss then elapsed - c.deadline else 0
      let sharded := s.sharded c.object
      let exp := if sharded then 1 + m.shards.length else 1
      let x := s.auditSearch c g rp
      let own := { s.search c g rp with exact := some x.1, lists := x.2.1, scanned := x.2.2 }
      let ps := mergeParts m sharded own
      let a := merged c (dMetric g.desc) rp exp ps
      let degr : Bool := qRank c && s.rank.degraded.contains c.n
      let step := ((tgetO s.rank.stepOf c.n).join).getD (s.mstep (qModel c))
      let r := if qRank c then { a with hits := rankHits (s.rankReads c step degr) a.hits } else a
      let main := mainBytes c r elapsed overrun miss degr
      let audit := if qAudit c then auditBytes c r (mergedAudit c (dMetric g.desc) exp a ps) elapsed else []
      let sp0 := if qRank c then step else r.rp
      let sp1 := if qRank c then c.tgen else r.hits.length
      let s : State := { s with
        coll := { s.coll with audits := s.coll.audits.filter (· ≠ c.n) }
        rank := { s.rank with stepOf := tsetD none s.rank.stepOf c.n none, attn := tsetD none s.rank.attn c.n none, degraded := s.rank.degraded.filter (· ≠ c.n) } }
      let s := if audit ≠ [] ∧ s.posts c then s.emit (.hostWrite (c.buf1 + 64 + 16 * qK c) audit) else s
      (s.drew.drew.endTask i c.n).finish c.n (if ps = [] then stShardsUnavailable else stSuccess) sp0 sp1 main
  | _, _, _ => s

/-- AUDIT_SCAN: the exhaustive search of audit query `n` has ended. -/
def State.auditScan (s : State) (n : Nat) : State :=
  match s.cmd n with
  | some c => if c.op = 0x40 ∧ qAudit c ∧ (s.taskInst n).isSome ∧ ¬ s.coll.audits.contains n then
      { s with coll := { s.coll with audits := s.coll.audits ++ [n] } } else s
  | none => s

def execAuditScan (n : Nat) (s : State) : Res := .next (s.auditScan n)

/-! ### The end of a drop (03 R463) -/

/-- A COLL_DROP that is applied ends once no query fetched before its admission is left: the collection is gone. -/
def State.endDrop (s : State) (c : Cmd) : State :=
  match s.collOf c.object, s.entryOf c.part c.n with
  | some k, some e =>
    match k.dropAt with
    | some d =>
      if d.1 ≠ c.n ∨ ¬ e.applied ∨ (s.queriesOf c.object).any (fun q => decide (q.n < d.2)) then s
      else
        let s := k.gens.foldl (fun s g => s.freeGen k.tenant k.part g) (s.endFolds c.object)
        (s.setColl c.object none).finish c.n stSuccess 0 0 []
    | none => s
  | _, _ => s

/-! ### TASK_COMPLETION_POST (13 R301) -/

/-- Posting marks the write's entry: its completion was posted to its queue pair (03 R47). -/
def State.markPosted (s : State) (c : Cmd) : State :=
  match s.entryOf c.part c.n with
  | some e => if s.posts c then
      (s.mapEntry c.part e.seq fun e => { e with posted := true }).tidy c.part else s
  | none => s

/-- The deadline of a task that is posted: what its streams waited for is read, if its tick has not been commanded, as it ends. -/
def State.tickPast (s : State) (c : Cmd) : State :=
  if s.overdue c ∧ ¬ s.ctl.missed.any (·.1 = c.n) then s.deadlineTick c.n else s

/-- A completion that is posted after its task's deadline raises DEADLINE_MISS. A command refused before it became a task has none. -/
def State.missPost (s : State) (c : Cmd) (status : Nat) : State :=
  let s := if s.overdue c ∧ s.posts c ∧ [stSuccess, stShardsUnavailable, stTaskAborted, stNoPlan].contains status then s.deadlineMiss c status else s
  { s with ctl := { s.ctl with missed := s.ctl.missed.filter (·.1 ≠ c.n) } }

/-- TASK_COMPLETION_POST of command `n`: what still runs ends here if it can, and its completion is posted. No completion is
posted once a power-loss flush began (03 Table 3-5). -/
def State.taskPost (s : State) (n : Nat) (m : Merge) : State :=
  if ¬ s.quayUp ∨ s.flag .qStat Q_STAT_PLSTOP then s
  else match s.cmd n with
    | none => s
    | some c =>
      let s := if c.st = .running then (if c.op = 0x40 then (s.tickPast c).endQuery c m else if c.op = 0x21 then s.endDrop c else s) else s
      match s.cmd n with
      | some ⟨_, _, _, _, _, _, _, _, _, .done st _ _ _, _, _, _, _⟩ => ((s.missPost c st).markPosted c).postCompletion n
      | _ => s

def execTaskCompletionPost (n : Nat) (m : Merge) (s : State) : Res := .next (s.taskPost n m)

/-! ### Deferred errors (03 R57, Table 3-8, 13 R304) -/

/-- The records that a source has detected are written, oldest first. -/
def State.flushRaised (s : State) (src : Nat) : State :=
  (s.evt.raised.filter (·.2.src = src)).foldl (fun s _ => s.writeRecord src) s

/-- When a deferred report is delivered: with the queue pair's next completion; once its number exists again after a boot; or
never, because the queue pair was deleted before (03 Table 3-8). -/
inductive Defer where
  | now | afterBoot | logOnly
deriving DecidableEq, Repr

/-- A DEFERRED record for queue pair `q`, and the report that carries its LSN. The record stays in the log also where no report
is delivered (13 R304). -/
def State.deferReport (s : State) (p q code obj first : Nat) (how : Defer) : State :=
  let seq := (s.srcSt srcQuay).seq
  let s := (s.raiseRec p srcQuay 0x0701 (leBytes 2 q ++ leBytes 2 code ++ leBytes 4 obj ++ leBytes 8 first)).flushRaised srcQuay
  let lsn := match (s.log p).getLast? with
    | some r => if r.ev.src = srcQuay ∧ r.ev.seq = seq then (s.fld (.evqLsn p) EVQ_LSN_LSN - 1) % 2 ^ 32 else 0
    | none => 0
  let s := if code = stDataLost then s.setFld (.cmPstat p) CM_PSTAT_DLOST 1 else s
  if how = .afterBoot then { s with coll := { s.coll with defers := tsetD [] s.coll.defers q (tgetD [] s.coll.defers q ++ [(code, lsn)]) } }
  else if how = .now ∧ ((s.qp q).mode = .active ∨ (s.qp q).mode = .draining) then s.setQp q { s.qp q with defers := (s.qp q).defers ++ [(code, lsn)] }
  else s

/-- The failure's own record: collection, sequence number or first identifier, cause (DESIGN CHOICE, log entry 2). -/
def State.failRec (s : State) (p obj what kind : Nat) : State :=
  s.raise p srcQuay (Config.openCode 4 % 2 ^ 16) (leBytes 4 obj ++ leBytes 8 what ++ leBytes 1 kind)

/-- DEFERRED, a failure of Table 3-8: 0 one copy of an entry, 1 both copies before application, 2 both after it, 3 a protected
source during a fold, compaction or build, 4 a fold or compaction that finds no room. -/
def State.deferred (s : State) (kind p seq k l : Nat) (ids : List Nat) : State :=
  if ¬ s.quayUp then s
  else match kind with
  | 0 | 1 | 2 =>
    match (s.cpart p).entries.find? (·.seq = seq) with
    | none => s
    | some e =>
      if ¬ e.durable ∨ e.lost ∨ e.applied ≠ decide (kind = 2) ∨ (kind = 2 ∧ e.destaged) then s
      else
        let s := s.failRec p e.obj seq kind
        if kind = 1 then
          let s := (s.freeAll e.tenant p e.costs).mapEntry p seq fun e => { e with lost := true }
          s.deferReport p e.qp stDataLost e.obj seq (if (s.qp e.qp).born ≤ e.cmd then .now else .logOnly)
        else s
  | 3 =>
    match s.collOf k with
    | none => s
    | some v =>
      let lost := v.live.vecs.filter fun x => ids.contains x.id && x.dead.isNone
      if lost = [] ∨ (v.folds = [] ∧ v.build.isNone) then s
      else
        let s := s.failRec v.part k (ids.headD 0) kind
        let s := lost.foldl (fun s x => s.freeAll v.tenant v.part x.cost) s
        let s := s.mapColl k fun v => { v with live := { v.live with vecs := v.live.vecs.filter fun x => !(lost.contains x) } }
        let qs := (s.quay.qps.filter fun e => decide (e.1 ≠ 0) && e.2.tenant = v.tenant && (e.2.mode = .active || e.2.mode = .draining)).map (·.1)
        let s := s.setFld (.cmPstat v.part) CM_PSTAT_DLOST 1
        qs.foldl (fun s q => s.deferReport v.part q stDataLost k 0 .now) s
  | _ =>
    match s.collOf k with
    | none => s
    | some v => if v.folds.any (·.list = l) then
        (s.failRec v.part k l kind).mapColl k fun v => { v with folds := dropFirst (fun x => x.list = l && x.cmd.isNone) v.folds } else s

def execDeferred (kind p seq coll list : Nat) (ids : List Nat) (s : State) : Res := .next (s.deferred kind p seq coll list ids)

/-! ### GET_LOG (13 R305) -/

/-- An event record as 32 bytes (17 Table 17-1). -/
def EvRec.bytes (r : EvRec) : List Byte := leBytes 2 r.src ++ leBytes 2 r.code ++ leBytes 4 r.seq ++ leBytes 8 r.time ++ bytesAt r.data 0 16

def State.getLog (s : State) (c : Cmd) : State :=
  let p := c.fld 41 1
  match c.fld 40 1 with
  | 0 =>
    if 64 < p ∨ c.fld 42 3 ≠ 0 then s.refuse c.n stInvalidParameter
    else
      let recs := s.log p
      let oldest := s.fld (.evqLsn p) EVQ_LSN_LSN - recs.length
      let first := max oldest (c.fld 48 8)
      let out := (recs.drop (first - oldest)).take (c.len1 / 32)
      s.finish c.n stSuccess (first + out.length) (out.length + if c.fld 48 8 < oldest then 2 ^ 31 else 0) (out.flatMap fun r => r.ev.bytes)
  | 1 =>
    if 63 < p ∨ c.fld 42 3 ≠ 0 ∨ c.fld 48 8 ≠ 0 then s.refuse c.n stInvalidParameter
    else
      let out := (tgetD [] s.quay.recTables p).take (c.len1 / 16)
      s.finish c.n stSuccess (tgetD 0 s.quay.seals p) out.length (out.flatMap fun r => leBytes 2 r.qp ++ leBytes 2 r.cid ++ leBytes 4 0 ++ leBytes 8 r.seq)
  | 2 =>
    if c.fld 48 8 ≠ 0 then s.refuse c.n stInvalidParameter
    else match s.table (c.fld 44 1) (c.fld 42 2) with
      | none => s.refuse c.n stNoObject
      | some t =>
        let out := t.ring.take (c.len1 / 8)
        (s.mapTable t.model t.num fun t => { t with ring := [], overwritten := false }).finish c.n stSuccess t.sampled
          (out.length + if t.overwritten then 2 ^ 31 else 0) (out.flatMap fun r => leBytes 8 (r.1 % 2 ^ 40 + r.2 * 2 ^ 40))
  | _ => s.refuse c.n stInvalidParameter

def execGetLog (n : Nat) (s : State) : Res := .next (s.onCmd n 0x03 State.getLog)

end Sys2Proof.Machine
end

