-- ==== Sys2Proof/Machine/Reset.lean ====
section
/-! DEFINITION. The power-loss flush (03 R46), cold and warm resets (16 R384, Table 16-11, 18 R414), recovery (03 R47) and the
restore of collections and models (11 R458). -/

namespace Sys2Proof.Machine

/-! ### The power-loss flush (03 R46, 16 R372) -/

/-- A trigger of the flush while the main domain is up: the quay stops fetching and posting, and PWR_LOSS is raised. -/
def State.flushStart (s : State) (restart : Bool) : State :=
  if s.pwr.phase ≠ .up then s
  else
    let s : State := { s with pwr := { s.pwr with phase := .flushing restart } }
    (s.setFld .qStat Q_STAT_PLSTOP 1).raise modLog srcM 0x0A01 []

/-- The highest sequence number S of a partition such that every entry up to S is in flash. `fails`: the entries whose
program and its retry failed. -/
def CPart.sealAt (c : CPart) (fails : List Nat) : Nat :=
  let bad := (c.entries.filter fun e => e.durable && !e.destaged && fails.contains e.seq).map (·.seq)
  let inFlash (q : Nat) : Bool := bad.all fun b => decide (q < b)
  max c.destaged (((c.entries.filter fun e => e.durable && !e.lost && inFlash e.seq).map (·.seq)).foldl max 0)

/-- The F-die writes a partition's entries above DESTAGED, and the seal names S; entries above S are lost. -/
def State.flushPart (s : State) (p : Nat) (fails : List Nat) : State :=
  let c := s.cpart p
  let top := c.sealAt fails
  let new := c.entries.filter fun e => e.durable && !e.lost && !e.destaged && !(fails.contains e.seq)
  let s := new.foldl (fun (s : State) e => s.program e.size) s
  let end_ (e : DEntry) : DEntry :=
    if ¬ e.durable ∨ e.lost then e else if e.seq ≤ top then { e with destaged := true } else { e with lost := true }
  s.setCpart p { c with entries := c.entries.map end_, sealed := some top, top := min c.top top }

/-- Ports and quads stop with the flush; what the ports hold is gone. -/
def State.stopPorts (s : State) : State :=
  (List.range 16).foldl (fun (s : State) p => (s.setPort p {}).setFld (.abPort p) AB_PORT_WIDTH 0)
    { s with fab := { s.fab with landing := [], groups := [] } }

/-- POWER_LOSS_FLUSH: everything but the F-die stops and the entries above DESTAGED are written. `fails`: (partition, sequence
number) of the entries that could not be. -/
def State.powerFlush (s : State) (fails : List (Nat × Nat)) : State :=
  match s.pwr.phase with
  | .flushing _ =>
    if s.coll.flushed then s
    else
      let s := (s.coll.parts.map (·.1)).foldl (fun (s : State) p => s.flushPart p ((fails.filter (·.1 = p)).map (·.2))) s.stopPorts
      { s with coll := { s.coll with flushed := true } }
  | _ => s

def execPowerLossFlush (fails : List (Nat × Nat)) (s : State) : Res := .next (s.powerFlush fails)

/-! ### What a cold reset leaves (16 Table 16-11, 11 R458) -/

/-- Every source of 12 Table 12-6. -/
def allSources : List Nat :=
  (List.range 80).flatMap (fun q => [0, 1, 2, 3, 4, 5, 6, 8, 9, 10, 11].map (srcUnit q)) ++
    [0x500, 0x501, 0x502, 0x503, srcQuay, srcHost, srcFlash, srcM, srcT, 0x540, 0x541, 0x542, 0x543]

/-- The reset epoch of every source advances (12 R273). -/
def State.allEpochs (s : State) : Tab Nat :=
  allSources.foldl (fun t src => tsetD 0 t src ((s.epochOf src + 1) % 2 ^ 16)) s.net.epochs

/-- A tier object after a cold reset: its residence is its flash home, or stays flash; bytes that lay in flash keep their
last write. -/
def Obj.cold (o : Obj) : Obj :=
  let there (i : Nat) : Bool := o.pieces.any fun p => p.addr.isNone && decide (p.off ≤ i) && decide (i < p.off + p.len)
  let kept := o.flash.filter fun c => there c.1
  let bytes := if o.hasHome then kept.foldl (fun t c => tsetD 0#8 t c.1 c.2) (tclear there o.home) else kept
  { o with pieces := [⟨0, o.size, none⟩], tier := .flash, flash := bytes, move := none, lost := false, charged := [] }

/-- Does an object survive a cold reset: has it a flash home or a flash residence? -/
def Obj.survives (o : Obj) : Bool := o.hasHome || o.pieces.all (·.addr.isNone)

/-- The tiers after a cold reset: other objects are freed, their SALT advanced; pages whose rows have spares return to
service (11 R244). -/
def State.coldTier (s : State) : TierState :=
  let t := s.tier
  { objs := (t.objs.filter Obj.survives).map Obj.cold
    salts := (t.objs.filter fun o => !o.survives).foldl (fun x o => tsetD 0 x (o.hub * 2 ^ 20 + o.number) ((o.salt + 1) % 2 ^ 14)) t.salts
    retired := t.retired.filter fun p => !(Config.rowSpare p)
    sparesUsed := t.sparesUsed, readOnly := t.readOnly, rebuilding := t.rebuilding, relocating := t.relocating
    programmed := t.programmed }

/-- A generation after a cold reset: without what lost writes did to it; its charges and its placement in sketch stacks are gone
with the memory (11 R458; DESIGN CHOICE, log entry 77). -/
def Gen.without (g : Gen) (lost : List Nat) : Gen :=
  let back (v : Vec) : Vec := match v.dead with
    | some d => if lost.contains d then { v with dead := none } else v
    | none => v
  { g with vecs := ((g.vecs.filter fun v => !(lost.contains v.seq)).map back).map fun v => { v with at_ := 0, cost := [], cut := 0 }, bank := [],
           store := g.store.map fun x => { x with rows := [] } }

/-- Sequence numbers of a partition's lost writes. -/
def CPart.lostSeqs (c : CPart) : List Nat := (c.entries.filter (·.lost)).map (·.seq)

/-- A collection after a cold reset: its build is gone, a staged generation stays, and its DRAM is still to be restored
(03 Table 3-7a). -/
def State.coldColl (s : State) (k : Coll) : Coll :=
  let lost := (s.cpart k.part).lostSeqs
  { k with live := k.live.without lost, next := k.next.map (·.without lost), build := none, old := [], sw := none, folds := [], cuts := [],
           restoring := true }

/-- The delta log of a partition after a cold reset. -/
def CPart.cold (c : CPart) : CPart :=
  { c with entries := c.entries.map (fun e => { e with at_ := 0, costs := [] }), folding := false, recovered := false }

/-- Histories without the entries that lost appends put at their ends. -/
def State.coldModel (s : State) (m : Nat) (v : Model) : Model :=
  let gone (u : Nat) : Nat :=
    ((s.cpart v.part).entries.filter fun e => e.op = 0x33 && e.obj = m && e.user = u && e.lost && e.applied).foldl (fun a e => a + e.count) 0
  { v with gate := {}, users := tmapD {} (fun u r => ⟨r.entries.take (r.entries.length - gone u)⟩) v.users }

/-- The collection manager after a cold reset. -/
def State.coldCollState (s : State) : CollState :=
  { colls := s.coll.colls.map fun k => (k.1, k.2.map s.coldColl)
    parts := s.coll.parts.map fun p => (p.1, p.2.cold)
    towers := (s.rank.models.map (·.1)).foldl (fun t m => tsetD {} t m { tgetD {} s.coll.towers m with sw := none, pub := false, restoring := true }) s.coll.towers
    defers := s.coll.defers
    recover := some false }

/-- Bytes of the history entries of a model, kept and still to be applied. -/
def State.histBytes (s : State) (m : Nat) : Nat :=
  match s.model m with
  | none => 0
  | some v => match v.hist with
    | none => 0
    | some h =>
      let waiting := ((s.cpart v.part).entries.filter fun e => e.op = 0x33 && e.obj = m && !e.applied && !e.lost).map (·.user)
      (((v.users.map (·.1)) ++ waiting).eraseDups).foldl (fun a u => a + s.histLen v.part m u * h.entry) 0

/-- USE after a cold reset: flash homes, flash residences and tables' cold copies (11 R458). -/
def State.coldUse (s : State) : State :=
  let s := (s.tier.objs.map Obj.handle).foldl State.recharge s
  let s := s.rank.tables.foldl (fun (s : State) t => s.chargeTo t.tenant 3 (ceilDiv (t.rows * t.coldBytes) (tierUnit 3))) s
  (s.rank.models.map (·.1)).foldl (fun (s : State) m => match s.model m with
    | some v => if Config.histFlash m then s.chargeBytes v.tenant v.part 3 (· + s.histBytes m) else s
    | none => s) s

/-- Pages in retirement, by stack and region, as the registers show them. -/
def State.showRetired (s : State) : State :=
  s.tier.retired.foldl (fun (s : State) p => match regionOf (p * 65536) with
    | .hbm n _ => s.incFld (.memHerr n) MEM_HERR_RETIRED 1
    | .gddr h _ => s.incFld (.memGret h) MEM_GRET_COUNT 1
    | _ => s) s

/-- Registers after a cold reset: every field at its reset value, but for those that fuses, flash or pins give. -/
def State.coldRegs (s0 s : State) : State :=
  let s := (s.setFld .lcStat LC_STAT_STATE s0.lc).setFld .lcStat LC_STAT_KEYEPOCH (s0.fld .lcStat LC_STAT_KEYEPOCH)
  let s := (s.setFld .fltHealth FLT_HEALTH_QRET (s0.fld .fltHealth FLT_HEALTH_QRET)).setFld .fltHealth FLT_HEALTH_SPUSED
    (s0.fld .fltHealth FLT_HEALTH_SPUSED)
  let s := (s.setFld .abId AB_ID_SLOT (s0.fld .abId AB_ID_SLOT)).setFld .pmStat PM_STAT_NOAUX (s0.fld .pmStat PM_STAT_NOAUX)
  let s := (s0.pwr.retired).foldl (fun (s : State) q => s.setOwner 0 q 0x80) s
  (s.flashDies.program 0).showRetired

/-- A cold reset: the module after every DRAM and SRAM byte is wiped and every register reset, before its boot. -/
def State.coldClear (s : State) : State :=
  let s : State := { s with quay := { s.quay with cmds := [] } }
  let s := (s.coll.colls.map (·.1)).foldl (fun (s : State) k => ((s.cutRelease k).dropBuild k).genRelease k) s
  let coll := s.coldCollState
  let models := s.rank.models.map fun e => (e.1, e.2.map (s.coldModel e.1))
  let t : State := { State.reset with
    pending := s.pending
    fresh := s.fresh
    outbox := s.outbox
    net := { epochs := s.allEpochs }
    trust := { s.trust with nonce := none, halted := none, meas := [], keys := s.trust.keys }
    pwr := { phase := .off false, p48 := s.pwr.p48, p12aux := s.pwr.p12aux, pwrEn := s.pwr.pwrEn, perstN := s.pwr.perstN,
             refclk := s.pwr.refclk, mgmtUp := s.pwr.mgmtUp, quayReady := false, retired := s.pwr.retired, svcFaults := s.pwr.svcFaults,
             wearSaid := s.pwr.wearSaid, smbus := s.pwr.smbus }
    hw := { s.hw with removal := false }
    dbg := { s.dbg with tmux := [] }
    tier := s.coldTier
    quay := { nextCmd := s.quay.nextCmd, bar2Log := s.quay.bar2Log, maxRate := s.quay.maxRate, maxWidth := s.quay.maxWidth }
    rank := { models := models, tables := s.rank.tables.map fun t => { t with hot := [], queue := [], misses := 0, ring := [], overwritten := false } }
    coll := coll }
  (State.coldRegs s t).coldUse

/-- FLUSH_SEAL: the seal is written, the rails fall and PWRGD goes low. A flush that a sideband cold reset began is followed
by a start at once; any other waits to see PWR_EN low (16 R372). -/
def State.flushSeal (s : State) : State :=
  match s.pwr.phase with
  | .flushing restart =>
    if ¬ s.coll.flushed then s
    else
      let t := s.coldClear
      { t with pwr := { t.pwr with phase := .off (!restart && s.pwr.pwrEn), mgmtUp := s.pwr.mgmtUp && (s.pwr.p12aux || s.pwr.p48) } }
  | _ => s

def execFlushSeal (s : State) : Res := .next s.flushSeal

/-! ### Warm reset (16 R384, Table 16-11, 18 R414) -/

/-- Does a field keep its value over a warm reset: sticky, governed by a configuration lock, or of kept state? -/
def warmKeeps (r : Reg) (f : Fld) : Bool :=
  f.acc = .stk || f.lock = .pt || f.lock = .fab || f.lock = .tenant ||
  match r with
  | .evqCfg _ | .evqLsn _ | .evqAck _ | .evqStat _ | .tnCfg _ | .tnTier _ | .abId | .abUid | .abCtl | .abRoute _ | .mdlStep _ | .lcStat |
    .skRegion _ | .ptCfg _ | .glbId => true
  | .ptLock | .fabLock => f = PT_LOCK_CLOSES
  | .fltHealth | .flStat | .memHstat _ | .memHerr _ | .memGstat _ | .memGret _ | .skTstat _ | .pmStat | .meSpare _ => f.acc = .ro
  | .meStat _ => f = ME_STAT_SUBST
  | .mdlStat _ => f = MDL_STAT_TGEN
  | _ => false

/-- A register word after a warm reset. -/
def warmWord (r : Reg) (w : Word) : Word :=
  (regFields r).foldl (fun x f => if warmKeeps r f then fput x f (fget w f) else x) (regRst r)

/-- Every listed register after a warm reset. -/
def State.warmRegs (s : State) : State :=
  s.regs.foldl (fun (t : State) e => match regAt e.1 with
    | some r => t.setReg r (warmWord r e.2)
    | none => t) s

/-- Scratchpads are wiped but for the mooring areas, whose HELD moorings turn BROKEN (12 R271, R273). -/
def State.warmSpad (s : State) : State :=
  let s := (List.range 20).foldl (fun (s : State) d => s.wipe (spBase + d * spSize) moorOff) s
  s.moorsListed.eraseDups.foldl (fun (s : State) dm =>
    if moorState (s.moor dm.1 dm.2) = 1 then s.setMoor dm.1 dm.2 (putBits (s.moor dm.1 dm.2) 0 2 2) else s) s

/-- Every write that was admitted completes both its copies (03 R47). -/
def CPart.allDurable (c : CPart) : CPart :=
  let new := c.entries.filter fun e => !e.durable && !e.lost
  { c with
    entries := mapIf (fun e => !e.durable && !e.lost) (fun e => { e with durable := true }) c.entries
    writes := new.foldl (fun t e => tsetD none t e.qp (some ⟨e.cid, e.seq⟩)) c.writes
    top := new.foldl (fun a e => max a e.seq) c.top
    sealed := none, recovered := false }

/-- A collection over a warm reset: its build is abandoned and a waiting SWITCH dropped (03 Table 3-7a). -/
def Coll.warm (k : Coll) : Coll := { k with build := none, sw := none, folds := k.folds.map fun f => { f with cmd := none } }

/-- A warm reset of the module, up to what PERST_N going high starts. -/
def State.warmReset (s : State) : State :=
  let s := (s.tier.objs.map Obj.handle).foldl (fun (s : State) h => s.endMove h stSuccess) s
  let s := (s.coll.colls.map (·.1)).foldl State.dropBuild s
  let s := s.ctl.insts.foldl (fun (s : State) (e : Nat × Option Inst) => match e.2 with
    | some v => v.started.foldl (fun (s : State) t => s.abortRec e.1 v t false 0) s
    | none => s) s
  let ports := s.fab.ports
  let s : State := { s with
    net := { epochs := s.allEpochs }
    part := { s.part with floorSaid := [] }
    trust := { s.trust with nonce := none }
    pwr := { s.pwr with quayReady := false, wakeReq := [], grants := [], recov := [], syncAt := s.svcTime, syncSaid := false }
    tier := { s.tier with heldW := [], heldAcc := [] }
    fab := { nextTag := s.fab.nextTag, ports := tmapD {} (fun _ p => { good := p.good }) ports }
    quay := { nextCmd := s.quay.nextCmd, bar2Log := s.quay.bar2Log, maxRate := s.quay.maxRate, maxWidth := s.quay.maxWidth,
              recTables := s.quay.recTables, seals := s.quay.seals }
    ctl := { fetchErr := s.ctl.fetchErr }
    arith := { s.arith with cvtNow := [] }
    rank := { s.rank with stepOf := [], attn := [], degraded := [], models := s.rank.models.map fun m => (m.1, m.2.map fun v => { v with gate := {} }) }
    fry := { parity := s.fry.parity }
    sk := { s.sk with nbus := [], hubq := [], scans := [] }
    eng := { meErr := s.eng.meErr, meFailed := s.eng.meFailed }
    evt := { s.evt with due := [] }
    coll := { s.coll with
      colls := s.coll.colls.map fun k => (k.1, k.2.map Coll.warm)
      parts := s.coll.parts.map fun p => (p.1, p.2.allDurable)
      towers := tmapD {} (fun _ t => { t with sw := none }) s.coll.towers
      audits := []
      recover := some true } }
  let s := s.warmRegs.warmSpad
  let s := (List.range 1024).foldl (fun (s : State) t => if s.fld (.tnCfg t) TN_CFG_QPS = 0 then s else s.setFld (.tnCfg t) TN_CFG_QPS 0) s
  let s := (List.range 16).foldl (fun (s : State) p => s.setFld (.abPort p) AB_PORT_WIDTH (if s.linkGone p then 0 else 1)) s
  s.setFld .glbStat GLB_STAT_WARM 1

/-- PERST_N goes low: a warm reset; during a flush, ignored; during a boot, the boot goes on (16 Table 16-12a). -/
def State.perstLow (s : State) : State :=
  if ¬ s.pwr.perstN then s
  else
    let s : State := { s with pwr := { s.pwr with perstN := false } }
    if s.pwr.phase = .up ∧ (s.pwr.quayReady ∨ s.coll.recover = some true) then
      let t := s.warmReset
      { t with pwr := { t.pwr with warmWait := true } }
    else s

def execPerstNLow (s : State) : Res := .next s.perstLow

/-- PERST_N goes high: the reference clock is there again, the PCIe endpoint trains, and what follows a warm reset goes on. -/
def execPerstNHigh (s : State) : Res :=
  .next { s with pwr := { s.pwr with perstN := true, refclk := true, warmWait := false } }

/-- The sideband serves: the management domain runs and no TAP instruction holds the M-die's pins (20 R451). -/
def State.sidebandUp (s : State) : Bool :=
  let m : Tap := tgetD {} s.dbg.taps 0
  s.pwr.mgmtUp && !m.drives && !m.hiZ

/-- SIDEBAND_WARM_RESET. -/
def execSidebandWarmReset (s : State) : Res :=
  .next (if s.sidebandUp ∧ s.pwr.phase = .up ∧ (s.pwr.quayReady ∨ s.coll.recover = some true) then s.warmReset else s)

/-! ### Recovery (03 R47, 13 R304, R305) -/

/-- A drop that was admitted and is recovered ends with the reset that took its command: the collection is gone once its
write is (03 R463). -/
def State.settleDrop (s : State) (k : Nat) : State :=
  match s.collOf k with
  | none => s
  | some v => match v.dropAt with
    | none => s
    | some d =>
      match (s.cpart v.part).entries.find? (·.cmd = d.1) with
      | some e =>
        if e.lost ∨ ¬ e.durable then s.mapColl k fun v => { v with dropAt := none }
        else
          let waiting := (s.cpart v.part).entries.filter fun e => e.obj = k && e.op ≠ 0x33 && !e.applied && !e.lost
          let s := waiting.foldl (fun (s : State) e => s.freeAll v.tenant v.part e.costs) s
          let s := v.gens.foldl (fun (s : State) g => s.freeGen v.tenant v.part g) s
          s.setColl k none
      | none => s.setColl k none

/-- The recovered write of a queue pair with the highest sequence number, for the recovery table. -/
def CPart.recovered? (c : CPart) (q : Nat) (w : QpWrites) : Option QpWrites :=
  if w.seq ≤ c.top then some w
  else ((c.entries.filter fun e => e.qp = q && e.durable && !e.lost).getLast?).map fun e => ⟨e.cid, e.seq⟩

/-- Recovery of one partition: its recovery table and its RECOVERY record; then RECOVERED reports for durable writes whose
completion was not posted, and DATA_LOST for lost ones whose completion was. -/
def State.recoverPart (s : State) (warm : Bool) (p : Nat) : State :=
  let c := s.cpart p
  if c.next ≤ 1 then s.setCpart p { c with recovered := true }
  else
    let top := if warm then c.top else c.sealed.getD c.top
    let table := c.writes.filterMap fun w => (w.2.bind (c.recovered? w.1)).map fun x => (⟨w.1, x.cid, x.seq⟩ : RecEntry)
    let s : State := { s with quay := { s.quay with recTables := tsetD [] s.quay.recTables p table, seals := tsetD 0 s.quay.seals p top } }
    let s := s.raise p srcQuay 0x0704 (leBytes 8 top ++ leBytes 4 table.length ++ leBytes 1 (if warm then 1 else 0))
    let found := c.entries.filter fun e => e.durable && !e.lost && !e.posted
    let lost := c.entries.filter fun e => e.lost && e.posted && e.durable && !warm
    let report (code : Nat) (s : State) (es : List DEntry) : State :=
      (es.map (·.qp)).eraseDups.foldl (fun (s : State) q => match es.find? (·.qp = q) with
        | some e => s.deferReport p q code e.obj e.seq .afterBoot
        | none => s) s
    let s := report stDataLost (report stRecovered s found) lost
    let keep := (c.entries.filter fun e => e.durable && !e.lost).map fun e => { e with posted := true }
    let s := s.setCpart p { c with entries := keep, writes := [], sealed := none, recovered := true, recTop := c.next - 1 }
    (s.noteOcc (if warm then s.occ p else 0) p).tidy p

/-- RECOVERY: before the quay fetches at a boot or after a warm reset, drops end and each partition is recovered; then the
quay is ready. -/
def State.recovery (s : State) : State :=
  match s.coll.recover with
  | none => s
  | some warm =>
    if s.mainUp = false ∨ s.pwr.warmWait then s
    else
      let s := (s.coll.colls.map (·.1)).foldl State.settleDrop s
      let s := (s.coll.parts.map (·.1)).foldl (fun (s : State) p => s.recoverPart warm p) s
      { s with coll := { s.coll with recover := none }, pwr := { s.pwr with quayReady := true } }

def execRecovery (s : State) : Res := .next s.recovery

/-! ### STAGED_RESTORE (11 R458) -/

/-- A generation is restored and its versions are charged where they lie. -/
def State.restoreGen' (s : State) (t p : Nat) (g : Gen) : State × Gen :=
  let r := s.restoreGen t p g
  let g : Gen := { r.2 with vecs := r.2.vecs.map fun v => { v with cost := r.2.cost v.list } }
  (g.vecs.foldl (fun (s : State) v => s.chargeAll t p v.cost) r.1, g)

/-- The restore of a collection's or a model's DRAM ends, once its partition is ON: what lies there is charged again. -/
def State.stagedRestore (s : State) (isModel : Bool) (obj : Nat) : State :=
  if ¬ s.quayUp then s
  else if isModel then
    match s.model obj with
    | none => s
    | some v =>
      if ¬ (s.towersOf obj).restoring ∨ ¬ s.partOn v.part then s
      else
        let s := if Config.histFlash obj then s else s.chargeBytes v.tenant v.part 2 (· + s.histBytes obj)
        let s := match v.hist with
          | some p => v.users.foldl (fun (s : State) (u : Nat × HistRing) => match workOf obj u.1 with
            | some w => s.writeWork p w u.2.entries
            | none => s) s
          | none => s
        s.setTowers obj { s.towersOf obj with restoring := false }
  else
    match s.collOf obj with
    | none => s
    | some k =>
      if ¬ k.restoring ∨ ¬ s.partOn k.part then s
      else
        let a := s.restoreGen' k.tenant k.part k.live
        let b := k.next.map (a.1.restoreGen' k.tenant k.part)
        let s := (b.map Prod.fst).getD a.1
        let waiting := (s.cpart k.part).entries.filter fun e => e.obj = obj && e.op ≠ 0x33 && !e.applied && !e.lost
        let s := s.mapColl obj fun k => { k with live := a.2, next := b.map Prod.snd, restoring := false }
        waiting.foldl (fun (s : State) e =>
          let costs := (s.writeCosts e.op k.part obj 0 e.count e.desc e.recList).flatMap id
          (s.chargeAll k.tenant k.part costs).mapEntry k.part e.seq fun e => { e with costs := costs }) s

def execStagedRestore (isModel : Bool) (obj : Nat) (s : State) : Res := .next (s.stagedRestore isModel obj)

end Sys2Proof.Machine
end

