-- ==== Sys2Proof/Machine/Power.lean ====
section
/-! DEFINITION. Power and management (16): inputs, hold-up energy, power and temperature limits, clocks, quad power states and
wake tokens, and resets through RST_REQ. -/

namespace Sys2Proof.Machine

/-! ### Inputs (16 R369, R372) -/

/-- The management domain follows its supplies: with neither it stops, and what its firmware held is gone. The hold-up bank
feeds it through a flush. -/
def State.mgmtPower (s : State) : State :=
  let on : Bool := s.pwr.p12aux || s.pwr.p48 || s.pwr.phase = .flushing true || s.pwr.phase = .flushing false
  let s : State := { s with pwr := { s.pwr with mgmtUp := on } }
  if on then s else { s with trust := { s.trust with nonce := none }, hw := { s.hw with identify := .off, removal := false }, dbg := { long := false } }

/-- P48 below 44 V for 5 µs: the flush runs from the hold-up bank; the supply counts as gone once the flush is over. -/
def State.p48Loss (s : State) : State :=
  let s : State := { s with pwr := { s.pwr with p48 := false } }
  match s.pwr.phase with
  | .up => s.flushStart false
  | .flushing _ => s
  | _ => s.mgmtPower

def execP48Loss (s : State) : Res := .next s.p48Loss

/-- PWR_EN goes low: a flush while the main domain is up; it ends the wait of R371 and R372 for PWR_EN low. -/
def State.pwrEnLow (s : State) : State :=
  let s : State := { s with pwr := { s.pwr with pwrEn := false } }
  match s.pwr.phase with
  | .up => s.flushStart false
  | .flushing _ => s
  | _ => { s with pwr := { s.pwr with phase := .off false } }

def execPwrEnLow (s : State) : Res := .next s.pwrEnLow

/-- SIDEBAND_COLD_RESET, while the main domain is up. -/
def execSidebandColdReset (s : State) : Res := .next (if s.sidebandUp then s.flushStart true else s)

/-- P12AUX_LOSS: the auxiliary domain moves to the 12 V bus of the main domain; without P48 the management domain stops. -/
def execP12auxLoss (s : State) : Res :=
  .next (({ s with pwr := { s.pwr with p12aux := false } } : State).mgmtPower.setFld .pmStat PM_STAT_NOAUX 1)

/-- P12AUX_RETURN. -/
def execP12auxReturn (s : State) : Res :=
  .next (({ s with pwr := { s.pwr with p12aux := true }, hw := { s.hw with j4 := true } } : State).mgmtPower.setFld .pmStat PM_STAT_NOAUX 0)

/-! ### Hold-up energy (16 R373) -/

/-- HOLDUP_MEASUREMENT of `e` tenths of a joule. -/
def State.holdup (s : State) (e : Nat) : State :=
  if s.pwr.phase ≠ .up then s
  else
    let s := s.setFld .pmStat PM_STAT_HOLDJ (min e 0xFFFF)
    if e < 100 then (s.setFld .pmStat PM_STAT_HOLDLOW 1).raise modLog srcM 0x0A02 []
    else if 105 ≤ e then s.setFld .pmStat PM_STAT_HOLDLOW 0 else s

def execHoldupMeasurement (e : Nat) (s : State) : Res := .next (s.holdup e)

/-! ### Power capping (16 R378, Table 16-7) -/

def State.duty (s : State) : Nat := s.fld .pmStat PM_STAT_DUTY

def State.setDuty (s : State) (d : Nat) : State :=
  { (s.setFld .pmStat PM_STAT_DUTY d) with pwr := { s.pwr with dutyTime := s.svcTime } }

/-- PWR_CAP, once per second at most. -/
def State.pwrCap (s : State) : State :=
  let due : Bool := match s.pwr.capTime with
    | some t => decide (tickS ≤ s.svcTime - t)
    | none => true
  if due then ({ s with pwr := { s.pwr with capTime := some s.svcTime } } : State).raise modLog srcM 0x0A03 [] else s

/-- The 10 ms average lies above LIMIT: DUTY falls by 1 per 100 µs, to no less than 4. -/
def State.dutyDown (s : State) : State :=
  let s := s.pwrCap.setFld .pmStat PM_STAT_CAPPED 1
  if 4 < s.duty ∧ s.pwr.dutyTime + 100 * tickUs ≤ s.svcTime then s.setDuty (s.duty - 1) else s

/-- CAPTIME takes the whole milliseconds that have passed with DUTY below 16 (16 R389). -/
def State.countCap (s : State) : State :=
  if s.duty < 16 then
    let k := (s.svcTime - s.pwr.capMark) / tickMs
    { (s.incFld .pmStat PM_STAT_CAPTIME k) with pwr := { s.pwr with capMark := s.pwr.capMark + k * tickMs } }
  else { s with pwr := { s.pwr with capMark := s.svcTime } }

/-- POWER_SAMPLE: the rolling 10 ms average and the newest sample, in watts. -/
def State.powerSample (s : State) (avg sample : Nat) : State :=
  if s.pwr.phase ≠ .up then s
  else
    let s := s.countCap.setFld .pmStat PM_STAT_PIN (min avg 0xFFFF)
    if s.duty ≤ 4 ∧ 4200 < avg then ((s.setFld .pmStat PM_STAT_CRIT 1).raise modLog srcM 0x0A04 []).flushStart false
    else
      let lim := s.fld .pmCtl PM_CTL_LIMIT
      let s := if lim < avg then s.dutyDown else s
      if 4200 < sample then
        if 8 < s.duty then (s.setDuty 8).setFld .pmStat PM_STAT_CAPPED 1 else s
      else if avg ≤ lim ∧ s.duty < 16 ∧ s.pwr.dutyTime + tickMs ≤ s.svcTime then s.setDuty (s.duty + 1) else s

def execPowerSample (avg sample : Nat) (s : State) : Res := .next (s.powerSample avg sample)

/-! ### Temperature limits (16 R379, Table 16-8) -/

/-- The DUTY cap of a thermal level of an E-die or H-die; level 3 is THERM_TRIP. -/
def dutyCap (level : Nat) : Nat := if level = 0 then 16 else if level = 1 then 12 else 4

/-- DIE_TEMPERATURE_SAMPLE of E-die `die` (0-19) or H-die `die` - 20: `pwr.caps` holds its level. -/
def State.dieTemp (s : State) (die t : Nat) : State :=
  if s.pwr.phase ≠ .up ∨ 24 ≤ die then s
  else
    let l := thermalNext [(101, 97), (110, 107), (120, 117)] (tgetD 0 s.pwr.caps die) t
    let s : State := { s with pwr := { s.pwr with caps := tsetD 0 s.pwr.caps die l } }
    if l = 3 then (s.raise modLog srcM 0x0A05 []).flushStart false else s

def execDieTemperatureSample (die t : Nat) (s : State) : Res := .next (s.dieTemp die t)

/-- Cycles out of 16 in which the engines of quad `q` may issue: DUTY and the caps of its E-die and of its H-die. -/
def State.quadDuty (s : State) (q : Nat) : Nat :=
  min s.duty (min (dutyCap (tgetD 0 s.pwr.caps (q / 4))) (dutyCap (tgetD 0 s.pwr.caps (20 + q / 20))))

/-! ### Clocks (16 R381) -/

/-- OSCILLATOR_FAIL: the module oscillator stops or leaves ±500 ppm. -/
def execOscillatorFail (s : State) : Res := .next (s.flushStart false)

/-- REFCLK_LOSS: the PCIe link goes down and the quay waits for PERST_N. -/
def execRefclkLoss (s : State) : Res :=
  .next (((({ s with pwr := { s.pwr with refclk := false } } : State).setFld .qStat Q_STAT_LINKGEN 0).setFld .qStat Q_STAT_LINKW 0))

/-! ### Quad power states and wake tokens (16 R375, R376, R392) -/

/-- A granted quad is ON. -/
def State.wakeQuad (s : State) (q : Nat) : State :=
  (((s.setFld (.pwrQuad q) PWR_QUAD_WAITTOK 0).setFld (.pwrQuad q) PWR_QUAD_STATE 0).incFld (.pwrQuad q) PWR_QUAD_WAKES 1)

/-- The M-die grants at most `n` waiting requests, in arrival order. -/
def State.grantUpTo (s : State) : Nat → State
  | 0 => s
  | n + 1 => match s.pwr.wakeReq with
    | [] => s
    | q :: rest =>
      let s : State := { s with pwr := { s.pwr with wakeReq := rest, wakePtr := (q + 1) % 80, grants := s.pwr.grants ++ [s.svcTime] } }
      (s.wakeQuad q).grantUpTo n

/-- WAKE_TOKEN_GRANT: at most four grants in any 2 µs. -/
def State.wakeGrant (s : State) : State :=
  if s.pwr.phase ≠ .up then s
  else
    let recent := s.pwr.grants.filter fun t => decide (s.svcTime < t + 2 * tickUs)
    ({ s with pwr := { s.pwr with grants := recent } } : State).grantUpTo (4 - recent.length)

def execWakeTokenGrant (s : State) : Res := .next s.wakeGrant

/-- Has every thread of the quad that holds a schedule waited for IDLE µs, or halted, and does no stream move? -/
def State.quadIdle (s : State) (q : Nat) : Bool :=
  let idle := s.fld .pmCtl PM_CTL_IDLE * tickUs
  let waits (th : Thread) : Bool := th.halted || match th.waitAt with
    | some t => decide (t + idle ≤ s.svcTime)
    | none => false
  (s.ctl.threads.filter fun e => e.1 / 256 = q).all (fun e => match e.2 with
    | some th => waits th
    | none => true) &&
  (List.range 64).all fun k => (s.stream (64 * q + k)).job.isNone || s.flag (.frySwait (64 * q + k)) FRY_SWAIT_CAUSE

/-- QUAD_IDLE_GATE: a quad that is ON with REQ = AUTO enters GATED. -/
def State.idleGate (s : State) (q : Nat) : State :=
  if s.pwr.phase = .up ∧ s.fld (.pwrQuad q) PWR_QUAD_REQ = 0 ∧ s.fld (.pwrQuad q) PWR_QUAD_STATE = 0 ∧ s.quadIdle q then
    s.setFld (.pwrQuad q) PWR_QUAD_STATE 1
  else s

def execQuadIdleGate (q : Nat) (s : State) : Res := .next (if q < 80 then s.idleGate q else s)

/-- REQ is written: 0b11 is ignored, and OFF on a quad of a loaded instance. ON wakes the quad, and AUTO wakes one that is
OFF. -/
def State.quadReq (s : State) (q req : Nat) : State :=
  let was := s.fld (.pwrQuad q) PWR_QUAD_STATE
  if req = 3 ∨ (req = 2 ∧ (s.quadInst q).isSome) then s
  else
    let s := s.setFld (.pwrQuad q) PWR_QUAD_REQ req
    if req = 2 then
      let s : State := { s with pwr := { s.pwr with wakeReq := s.pwr.wakeReq.filter (· ≠ q) } }
      ((s.clearQuad q).setFld (.pwrQuad q) PWR_QUAD_WAITTOK 0).setFld (.pwrQuad q) PWR_QUAD_STATE 2
    else if req = 1 ∨ was = 2 then s.askWake q else s

/-- A write of PWR_QUAD. -/
def State.wrPwrQuad (s : State) (q : Nat) (h : Half) (v : Nat) : State :=
  let s := if wrote h PWR_QUAD_WAKES then s.setFld (.pwrQuad q) PWR_QUAD_WAKES (wval h v PWR_QUAD_WAKES) else s
  if wrote h PWR_QUAD_REQ then s.quadReq q (wval h v PWR_QUAD_REQ) else s

def execPwrQuadWrite (q req : Nat) (s : State) : Res := .next (if q < 80 then s.onBus fun s => s.wrPwrQuad q .low (req % 4) else s)

/-! ### Resets of units, quads and partitions (16 R384, R391) -/

/-- A quad's wake request is dropped (16 R376). -/
def State.dropWake (s : State) (q : Nat) : State :=
  ({ s with pwr := { s.pwr with wakeReq := s.pwr.wakeReq.filter (· ≠ q) } } : State).setFld (.pwrQuad q) PWR_QUAD_WAITTOK 0

/-- A reset that reaches a quad aborts the instance that holds it. -/
def State.resetAborts (s : State) (q : Nat) : State :=
  match s.quadInst q with
  | some i => s.startAbort i 0
  | none => s

/-- The storage of one unit of a quad: an engine's accumulators, the VP's registers and queues, SU slots, the XU, a ferry's
streams. -/
def State.clearUnit (s : State) (q u : Nat) : State :=
  let s := (List.range 16).foldl (fun (s : State) t =>
    s.mapThread q u t fun th => { base := th.base, ninstr := th.ninstr }) s
  if u < 4 then
    let mine (k : Nat) : Bool := k / 512 = 4 * q + u
    { s with eng := { s.eng with acc := tclear (fun k => mine (k / 4096)) s.eng.acc, accFmt := tclear mine s.eng.accFmt,
                                 spilled := s.eng.spilled.filter fun k => !(mine k) } }
  else if u = 4 then
    { s with eng := { s.eng with vreg := tclear (fun k => k / 32 / 8 = q) s.eng.vreg, vmask := tclear (fun k => k / 4 / 8 = q) s.eng.vmask,
                                 vq := tclear (fun k => k / 8 = q) s.eng.vq } }
  else if u = 5 then (List.range 8).foldl (fun (s : State) k => s.setSlot q k none) s
  else if u = 6 then (s.setXu q {}).showBound q 1 false []
  else (List.range 16).foldl (fun (s : State) k =>
    let n := 16 * (4 * q + (u - 8)) + k
    ((s.setStream n {}).fryWait n 0).streamGone n) s

/-- A unit of a quad. -/
def unitOk (u : Nat) : Bool := u ≤ 6 || (8 ≤ u && u < 12)

/-- A unit reset: its threads and state; banks that hold commands of a sketch unit get ABORT (05 R93). -/
def State.resetUnit (s : State) (q u : Nat) : State :=
  if ¬ unitOk u then s
  else
    let s := s.resetAborts q
    let s : State := { s with fab := { s.fab with outst := mapIf (·.srcid = srcUnit q u) (fun o => { o with stale := true }) s.fab.outst } }
    let s := if u = 5 then s.abortMaster (· = srcUnit q 5) else s
    (s.sweepSource (srcUnit q u)).clearUnit q u

/-- A quad reset: its units, ferries and semaphores. -/
def State.resetQuad (s : State) (q : Nat) : State :=
  let s := (((s.resetAborts q).dropWake q).abortBanks q).sweepQuad q
  ([0, 1, 2, 3, 4, 5, 6, 8, 9, 10, 11].foldl (fun (s : State) u => s.clearUnit q u) s).loadSems q []

/-- An instance ends with a partition reset: its tasks complete TASK_ABORTED. -/
def State.endInst (s : State) (i cause : Nat) : State :=
  match s.inst i with
  | none => s
  | some v =>
    let s := v.quads.foldl (fun (s : State) q => ((s.dropWake q).abortBanks q).sweepQuad q) (s.sendAborts i none)
    let s := if v.kind = 2 then s.stopStep v.object else s
    let s := v.started.foldl (fun (s : State) t => s.abortRec i v t false cause) s
    let mine := s.ctl.waiting.filter (·.1 = i)
    let s : State := { s with ctl := { s.ctl with waiting := s.ctl.waiting.filter (·.1 ≠ i) } }
    let s := (v.tasks ++ mine.map (·.2)).foldl (fun (s : State) t => s.finish t.cmd stTaskAborted 0 0 []) s
    if s.ctl.unload = some i then (s.dropInst i).unloadDone else s.dropInst i

/-- A partition reset: its instances, its quads, the NBUs of its banks, the moorings of its sources; builds of its collections
are abandoned (03 Table 3-7a). -/
def State.resetPart (s : State) (p cause : Nat) : State :=
  let s := (s.instsOf p).foldl (fun (s : State) i => s.endInst i cause) s
  let quads := (List.range 80).filter fun q => s.owner 0 q = p
  let s := quads.foldl (fun (s : State) q => (((s.dropWake q).abortBanks q).sweepQuad q).clearQuad q) s
  let s := s.clearNbus fun g => s.owner 4 g = p
  ((s.coll.colls.filter fun e => match e.2 with
    | some k => k.part = p
    | none => false).map (·.1)).foldl State.endBuild s

/-- The reset that RST_REQ names: 0 unit, 1 quad, 2 partition. -/
def State.resetNow (s : State) : State :=
  let q := s.fld .rstReq RST_REQ_QUAD
  match s.fld .rstReq RST_REQ_LEVEL with
  | 0 => if q < 80 then s.resetUnit q (s.fld .rstReq RST_REQ_UNIT) else s
  | 1 => if q < 80 then s.resetQuad q else s
  | _ => s.resetPart (s.fld .rstReq RST_REQ_PART) 0

/-- A write of RST_REQ: one with a LEVEL above 2 is ignored; GO starts the reset, which clears it. -/
def State.wrRstReq (s : State) (h : Half) (v : Nat) : State :=
  if wrote h RST_REQ_LEVEL ∧ 2 < wval h v RST_REQ_LEVEL then s
  else
    let s := s.plainWrite .rstReq h v
    let go := s.flag .rstReq RST_REQ_GO
    let s := s.setFld .rstReq RST_REQ_GO 0
    if go ∧ s.pwr.phase = .up then s.resetNow else s

/-- RST_REQ_GO: the whole word is written with GO = 1. -/
def execRstReqGo (level quad unit part : Nat) (s : State) : Res :=
  .next (s.onBus fun s => s.wrRstReq .whole (level % 8 + quad % 128 * 2 ^ 8 + unit % 16 * 2 ^ 16 + part % 64 * 2 ^ 24 + 2 ^ 32))

/-! ### PM_CTL (16 R390) -/

/-- A write of PM_CTL: a LIMIT outside 2,000-3,600 or an IDLE of 0 is ignored, field by field; `plain` writes LIMIT whatever
the lock (a PLDM Type 2 write, 18 R415). -/
def State.wrPmCtl (s : State) (plain : Bool) (h : Half) (v : Nat) : State :=
  let l := wval h v PM_CTL_LIMIT
  let i := wval h v PM_CTL_IDLE
  let s := if wrote h PM_CTL_LIMIT ∧ 2000 ≤ l ∧ l ≤ 3600 ∧ (plain ∨ s.flag .ptLock PT_LOCK_OPEN) then s.setFld .pmCtl PM_CTL_LIMIT l else s
  if wrote h PM_CTL_IDLE ∧ i ≠ 0 then s.setFld .pmCtl PM_CTL_IDLE i else s

end Sys2Proof.Machine
end

