-- ==== Sys2Proof/Machine/Trust.lean ====
section
/-! DEFINITION. Trust and boot (15 R354-R362, 16 R371, R387): the life cycle, secure boot, firmware updates and the start of the
main domain. -/

namespace Sys2Proof.Machine

/-! ### The life cycle (15 R356-R358) -/

/-- Kinds of the sideband messages that the model names: 0 a rail that failed, 1 a boot that halted, 2 a nonce, 3 a refused
transition. -/
def sbRail : Nat := 0
def sbBoot : Nat := 1
def sbNonce : Nat := 2
def sbRefused : Nat := 3

/-- LIFE_CYCLE_NONCE: the T-die issues a nonce, in place of the one before. -/
def State.lcNonce (s : State) : State :=
  if ¬ s.sidebandUp ∨ s.lc = lcRetired then s
  else
    let n := bytesAt (Config.nonce s.fresh) 0 32
    ({ s.drew with trust := { s.trust with nonce := some n } } : State).emit (.sideband sbNonce n)

def execLifeCycleNonce (s : State) : Res := .next s.lcNonce

/-- What a transition needs: no token, or one signed by the manufacturing (0) or the Bryndal (1) authorisation key
(15 Table 15-6); any other transition is refused. -/
def lcNeeds (old new : Nat) : Option (Option Nat) :=
  if new = lcRetired ∧ old ≠ lcRetired then some none
  else if old = lcManufacturing ∧ (new = lcDevelopment ∨ new = lcProduction) then some (some 0)
  else if old = lcDevelopment ∧ new = lcProduction then some none
  else if old = lcProduction ∧ new = lcDevelopment then some (some 1)
  else if (old = lcDevelopment ∨ old = lcProduction) ∧ new = lcReturn then some none
  else if old = lcReturn ∧ new = lcProduction then some (some 1)
  else none

/-- Does a token of 144 bytes name this module, the target and the nonce last issued, and verify (15 R357)? -/
def State.tokenOk (s : State) (key target : Nat) (tok : List Byte) : Bool :=
  tok.length = 144 && leAt tok 0 8 = Config.abUid.toNat && leAt tok 8 1 = target &&
    s.trust.nonce = some (bytesAt tok 16 32) && Config.tokenVerifies key tok

/-- Steps 1 to 5 of an accepted transition: partitions OFF, everything wiped, every key destroyed and what they protected freed,
the key epoch advanced, LC_CHANGE, and a cold reset into the new state. -/
def State.lcApply (s : State) (target : Nat) : State :=
  let was := s.pwr.phase
  let s := (s.setFld .lcStat LC_STAT_KEYEPOCH (s.fld .lcStat LC_STAT_KEYEPOCH + 1)).setFld .lcStat LC_STAT_STATE target
  let s := (s.raise modLog srcT 0x0906 []).flushRaised srcT
  let s : State := { s with
    trust := { s.trust with keys := [], lcPending := none }
    tier := { s.tier with objs := s.tier.objs.map fun o => { o with hasHome := false, pieces := [⟨0, o.size, some 0⟩] } }
    rank := {}
    coll := { parts := s.coll.parts.map fun p => (p.1, { next := p.2.next, applied := p.2.applied, destaged := p.2.destaged, top := p.2.top }) } }
  let t := s.coldClear
  { t with pwr := { t.pwr with phase := was } }

/-- LIFE_CYCLE_TRANSITION with an optional token. `fails`: power fails before step 5, and the next boot completes it. -/
def State.lcTransition (s : State) (target : Nat) (tok : Option (List Byte)) (fails : Bool) : State :=
  let refused (s : State) : State := s.emit (.sideband sbRefused (leBytes 1 target))
  let spend (s : State) : State := match tok with
    | some t => if s.trust.nonce = some (bytesAt t 16 32) then { s with trust := { s.trust with nonce := none } } else s
    | none => s
  if ¬ s.sidebandUp ∨ s.pwr.phase = .flushing true ∨ s.pwr.phase = .flushing false then s
  else
    let ok : Bool := match lcNeeds s.lc target with
      | some none => true
      | some (some key) => (tok.map (s.tokenOk key target)).getD false
      | none => false
    if ¬ ok then refused (spend s)
    else
      let s := spend s
      if fails then
        let t := ({ s with trust := { s.trust with lcPending := some target } } : State).coldClear
        ({ t with pwr := { t.pwr with phase := .off false, p48 := false } } : State).mgmtPower.setFld .lcStat LC_STAT_PENDING 1
      else s.lcApply target

def execLifeCycleTransition (target : Nat) (tok : Option (List Byte)) (fails : Bool) (s : State) : Res :=
  .next (s.lcTransition target tok fails)

/-! ### Secure boot (15 R359-R361) -/

def State.image (s : State) (kind copy : Nat) : Image := tgetD {} s.trust.nor (2 * kind + copy)
/-- Fields of an image header (15 Table 15-8). -/
def Image.keyClass (i : Image) : Nat := leAt i.hdr 6 2
def Image.seq (i : Image) : Nat := leAt i.hdr 8 4
def Image.svn (i : Image) : Nat := leAt i.hdr 12 2
def Image.digest (i : Image) : List Byte := bytesAt i.hdr 64 48

/-- The image key classes that a life-cycle state accepts (15 Table 15-5). -/
def classAccepted (lc cls : Nat) : Bool :=
  if lc = lcManufacturing then cls = 0 || cls = 2
  else if lc = lcDevelopment then cls = 1 || cls = 2
  else (lc = lcProduction || lc = lcReturn) && cls = 2

/-- The values of a boot configuration lie inside their registers' ranges (16 R387). -/
def bootConfigOk (body : List Byte) : Bool :=
  let v := Config.bootConfig body
  [8, 16, 32, 64].contains (v 0) && [4, 8, 16].contains (v 1) && decide (30 ≤ v 2) && decide (v 2 ≤ 40) && decide (v 3 < 128) &&
    decide (2000 ≤ v 4) && decide (v 4 ≤ 3600) && decide (1 ≤ v 5) && decide (v 5 < 65536)

/-- Is a copy valid (15 R360)? -/
def State.imageOk (s : State) (kind : Nat) (i : Image) : Bool :=
  leAt i.hdr 0 4 = 0x4D494E4F && leAt i.hdr 4 2 = kind && leAt i.hdr 16 4 = i.body.length && i.digest = Config.sha384 i.body &&
    Config.imageVerifies i.keyClass i.hdr && classAccepted s.lc i.keyClass && decide (tgetD 0 s.trust.svnMin kind ≤ i.svn) &&
    (kind ≠ 7 || bootConfigOk i.body)

/-- The boot configuration takes effect: link ceilings, BAR2 size, SMBus address, PM_CTL. -/
def State.applyConfig (s : State) (body : List Byte) : State :=
  let v := Config.bootConfig body
  let s : State := { s with
    quay := { s.quay with maxRate := v 0, maxWidth := v 1, bar2Log := v 2 }
    pwr := { s.pwr with smbus := v 3 } }
  (s.setFld .pmCtl PM_CTL_LIMIT (v 4)).setFld .pmCtl PM_CTL_IDLE (v 5)

/-- One kind is booted: the valid copy with the higher SEQ, A when both are equal; each invalid copy raises BOOT_COPY; two
invalid copies halt the boot. -/
def State.bootKind (s : State) (kind : Nat) : State :=
  if s.trust.halted.isSome then s
  else
    let a := s.image kind 0
    let b := s.image kind 1
    let okA := s.imageOk kind a
    let okB := s.imageOk kind b
    let bad (s : State) (ok : Bool) : State := if ok then s else (s.setFld .glbStat GLB_STAT_BOOTC 1).raise modLog srcT 0x0907 []
    let s := bad (bad s okA) okB
    if ¬ okA ∧ ¬ okB then
      ({ s with trust := { s.trust with halted := some kind } } : State).emit (.sideband sbBoot (leBytes 1 kind))
    else
      let copy := if okA ∧ (¬ okB ∨ b.seq ≤ a.seq) then 0 else 1
      let i := if copy = 0 then a else b
      let s : State := { s with trust := { s.trust with
          taken := tsetD 0 s.trust.taken kind copy, runSvn := tsetD 0 s.trust.runSvn kind i.svn, meas := tsetD [] s.trust.meas kind i.digest } }
      if kind = 7 then s.applyConfig i.body else s

/-- Measurement 8: life-cycle state, key epoch and the seven SVN minima. -/
def State.meas8 (s : State) : State :=
  s.setMeas 8 (Config.sha384 (leBytes 1 s.lc ++ leBytes 4 (s.fld .lcStat LC_STAT_KEYEPOCH) ++
    (rangeFrom 1 7).flatMap fun k => leBytes 2 (tgetD 0 s.trust.svnMin k)))

/-- SECURE_BOOT: the images of a cold boot, or the reread of kinds 1-6 after a warm reset. -/
def State.secureBoot (s : State) (warm : Bool) : State :=
  if s.pwr.phase ≠ .up ∨ s.coll.recover ≠ some warm ∨ s.pwr.warmWait ∨ s.lc = lcRetired then s
  else ((rangeFrom 1 (if warm then 6 else 7)).foldl State.bootKind s).meas8

def execSecureBoot (warm : Bool) (s : State) : Res := .next (s.secureBoot warm)

/-- PLDM_FIRMWARE_UPDATE: the copy not taken at the last boot is written, with SEQ one higher than that of the copy taken;
a torn update leaves it invalid. -/
def State.firmwareUpdate (s : State) (kind : Nat) (hdr body : List Byte) (torn : Bool) : State :=
  if ¬ s.sidebandUp ∨ kind = 0 ∨ 7 < kind ∨ s.lc = lcRetired then s
  else
    let copy := tgetD 0 s.trust.taken kind
    let seq := leBytes 4 ((s.image kind copy).seq + 1)
    let i : Image := if torn then {} else ⟨bytesAt (hdr.take 8 ++ seq ++ hdr.drop 12) 0 256, body⟩
    { s with trust := { s.trust with nor := tsetD {} s.trust.nor (2 * kind + (1 - copy)) i } }

def execPldmFirmwareUpdate (kind : Nat) (hdr body : List Byte) (torn : Bool) (s : State) : Res :=
  .next (s.firmwareUpdate kind hdr body torn)

/-- SVN_COMMIT: a kind's fused minimum rises to the running image's SVN; nothing lowers it. -/
def State.svnCommit (s : State) (kind : Nat) : State :=
  if ¬ s.sidebandUp ∨ kind = 0 ∨ 7 < kind ∨ s.lc = lcRetired then s
  else { s with trust := { s.trust with svnMin := tsetD 0 s.trust.svnMin kind (max (tgetD 0 s.trust.svnMin kind) (tgetD 0 s.trust.runSvn kind)) } }

def execSvnCommit (kind : Nat) (s : State) : Res := .next (s.svnCommit kind)

/-! ### The start of the main domain (16 R371) -/

/-- MAIN_POWER_UP: the four conditions hold and the rails are raised; `rail`: one that does not come within range, 1-8. A
life-cycle transition left pending is completed first (15 R358). -/
def State.powerUp (s : State) (rail : Option Nat) : State :=
  if s.pwr.phase ≠ .off false then s
  else
    let s : State := { s with pwr := { s.pwr with p48 := true, pwrEn := true, mgmtUp := true }, hw := { s.hw with j4 := true } }
    let s := match s.trust.lcPending with
      | some t => s.lcApply t
      | none => s
    match rail with
    | some r => ({ s with pwr := { s.pwr with phase := .railFail r } } : State).emit (.sideband sbRail (leBytes 1 r))
    | none => { s with pwr := { s.pwr with phase := .up, quayReady := false } }

def execMainPowerUp (rail : Option Nat) (s : State) : Res := .next (s.powerUp rail)

end Sys2Proof.Machine
end

