-- ==== Sys2Proof/Machine/Faults.lean ====
section
/-! DEFINITION. Faults, spares and service continuity (17 R399-R408): retired quads, lost dies and hubs, resumption, and the
module's health. -/

namespace Sys2Proof.Machine

/-! ### Retired quads (17 R403, Table 17-6) -/

/-- The instances that hold one of the quads. -/
def State.instsOn (s : State) (qs : List Nat) : List Nat := (qs.filterMap s.quadInst).eraseDups

/-- The abort of an instance is carried through; `force`: one that no event began yet starts here. -/
def State.abortFor (s : State) (force : Bool) (code i : Nat) : State :=
  if s.ctl.aborting.any (·.inst = i) then s.abortNow i code none
  else if force then (s.startAbort i code).abortNow i code none else s

/-- A quad is fenced and reset, its owner byte turns module-owned, and QRET counts it. -/
def State.fenceQuad (s : State) (q : Nat) : State :=
  let old := s.owner 0 q
  let s := ((s.sweepQuad q).dropWake q).setOwner 0 q 0x80
  let s : State := { s with pwr := { s.pwr with retired := s.pwr.retired ++ [q], retireDue := s.pwr.retireDue.filter (·.1 ≠ q) } }
  (s.showQuads old).setFld .fltHealth FLT_HEALTH_QRET (s.fld .fltHealth FLT_HEALTH_QRET + 1)

/-- Quads are retired for the fault `code`: their instances' aborts end, the quads leave service, and the schedule loader
rebinds the instances. QUAD_RETIRED names the quad, the cause and the quad that took its place, 0xFFFF for none. -/
def State.retireQuads (s : State) (qs : List Nat) (code : Nat) (force : Bool) : State :=
  let qs := qs.filter fun q => !(s.pwr.retired.contains q)
  let insts := (s.instsOn qs).map fun i => (i, ((s.inst i).map Inst.quads).getD [])
  let logs := qs.map fun q => (q, s.quadLog q)
  let s := insts.foldl (fun (s : State) i => s.abortFor force code i.1) s
  let s := qs.foldl State.fenceQuad s
  let s := insts.foldl (fun (s : State) i => s.rebindInst i.1 qs) s
  let free := insts.flatMap Prod.snd
  let s := (qs.filter fun q => !(free.contains q)).foldl State.clearQuad s
  logs.foldl (fun (s : State) l =>
    let new := match insts.find? fun i => i.2.contains l.1 with
      | some i => match s.inst i.1 with
        | some v => v.quads.getD (i.2.idxOf l.1) 0xFFFF
        | none => 0xFFFF
      | none => 0xFFFF
    s.raise l.2 srcM 0x0B01 (leBytes 2 l.1 ++ leBytes 2 code ++ leBytes 2 new)) s

/-- QUAD_RETIRED of a quad whose retirement an event called for. -/
def State.quadRetired (s : State) (q : Nat) : State :=
  match s.pwr.retireDue.find? (·.1 = q) with
  | some d => s.retireQuads [q] d.2 false
  | none => s

def execQuadRetired (q : Nat) (s : State) : Res := .next (s.quadRetired q)

/-! ### Lost E-dies, hubs and link dies (17 Table 17-5, R404) -/

/-- What an E-die held of far lines goes with it; the hub answers its snoops itself (12 Table 12-7). -/
def State.dropFar (s : State) (d : Nat) : State :=
  let mine := s.net.snoops.filter (·.die = d)
  let s : State := { s with net := { s.net with
      lines := s.net.lines.filter (·.die ≠ d), fills := s.net.fills.filter (·.die ≠ d),
      dir := tmapD 0 (fun _ v => putBits v d 1 0) s.net.dir } }
  (mine.foldl State.snoopOver s).settleRanges

/-- An E-die leaves service: its quads are retired and its scratchpad's banks become module-owned. -/
def State.dieLost (s : State) (d code : Nat) : State :=
  if s.pwr.diesLost.contains d then s
  else
    let quads := rangeFrom (4 * d) 4
    let s := s.affectAll (s.ownersOf 0 (4 * d) 4) code
    let s := (s.raise modLog srcM 0x0B02 (leBytes 2 (srcDie d))).dropFar d
    let s : State := { s with pwr := { s.pwr with diesLost := s.pwr.diesLost ++ [d] } }
    let s := s.retireQuads quads code true
    (List.range 64).foldl (fun (s : State) b => s.setOwner 1 (64 * d + b) 0x80) s

/-- DIE_LOST: a die link that fails replay 64 times in 1 ms fails its E-die. -/
def execDieLost (d : Nat) (s : State) : Res := .next (if d < 20 then s.dieLost d 0x0B02 else s)

/-- An L-die costs its four ports. -/
def State.linkDieLost (s : State) (l : Nat) : State := (rangeFrom (4 * l) 4).foldl (fun (s : State) p => s.portFall p 0 true) s

/-- The whole module is lost: quay, flash die, M-die or T-die. -/
def State.loseModule (s : State) : State := { s with pwr := { s.pwr with moduleLost := true } }

/-- The granules of a hub: kind, first index and count. -/
def hubGranules (h : Nat) : List (Nat × Nat × Nat) :=
  [(0, 20 * h, 20), (1, 320 * h, 320), (2, 108 * h, 108), (3, 36 * h, 36), (4, 1024 * h, 1024)]

/-- The hub's stacks and devices leave service; what lay there is resolved at flash homes, or lost (11 R245). -/
def State.hubMemory (s : State) (h : Nat) : State :=
  let units := rangeFrom (3 * h) 3 ++ rangeFrom (16 + 12 * h) 12 ++ rangeFrom (64 + 2 * h) 2
  let s : State := { s with tier := { s.tier with failed := s.tier.failed ++ units.filter fun u => !(s.tier.failed.contains u) } }
  let s := (rangeFrom (3 * h) 3).foldl (fun (s : State) n =>
    (s.setFld (.memHstat n) MEM_HSTAT_CHFAIL 0xFFFF).setFld .fltHealth FLT_HEALTH_HSOUT (putBits (s.fld .fltHealth FLT_HEALTH_HSOUT) n 1 1)) s
  let s := (rangeFrom (12 * h) 12).foldl (fun (s : State) d => s.setFld (.memGstat d) MEM_GSTAT_FAILED 1) s
  let s := (rangeFrom (2 * h) 2).foldl (fun (s : State) n =>
    s.setFld .fltHealth FLT_HEALTH_SKOUT (putBits (s.fld .fltHealth FLT_HEALTH_SKOUT) n 1 1)) s
  s.loseObjects

/-- A partition that holds a granule of a lost hub is reset (16 Table 16-11): its instances' work is aborted, its other quads are
swept and unloaded, the NBUs of its banks are cleared and its builds abandoned. Its instances are loaded again by `hubLost`. -/
def State.hubPart (s : State) (p : Nat) : State :=
  let s := (s.instsOf p).foldl (fun (s : State) i => s.abortFor true 0x0B03 i) s
  let loose := (List.range 80).filter fun q => s.owner 0 q = p && (s.quadInst q).isNone
  let s := loose.foldl (fun (s : State) q => (((s.dropWake q).abortBanks q).sweepQuad q).clearQuad q) s
  let s := s.clearNbus fun g => s.owner 4 g = p
  ((s.coll.colls.filter fun e => match e.2 with
    | some k => k.part = p
    | none => false).map (·.1)).foldl State.endBuild s

/-- A hub leaves service. H0 and H1 together take the quay with them, H2 and H3 the flash tier (01 R12). -/
def State.hubLost (s : State) (h : Nat) : State :=
  if ¬ bitAt (s.fld .fltHealth FLT_HEALTH_HUBS) h then s
  else
    let s := (s.raise modLog srcM 0x0B03 (leBytes 1 h)).setFld .fltHealth FLT_HEALTH_HUBS (putBits (s.fld .fltHealth FLT_HEALTH_HUBS) h 1 0)
    let near (line : Nat) : Bool := hubOf (256 * line) = some h
    let s : State := { s with net := { s.net with
        lines := s.net.lines.filter (fun l => !(near l.line)), fills := s.net.fills.filter (fun l => !(near l.line)),
        dir := tclear near s.net.dir, snoops := s.net.snoops.filter (·.hub ≠ h), acks := s.net.acks.filter (·.hub ≠ h) } }
    let parts := ((hubGranules h).flatMap fun g => s.ownersOf g.1 g.2.1 g.2.2).eraseDups
    let s := s.affectAll parts 0x0B03
    let s := parts.foldl State.hubPart s
    let dies := rangeFrom (5 * h) 5
    let dead := rangeFrom (20 * h) 20
    let s := dies.foldl State.dropFar s
    let s := dead.foldl (fun (s : State) q => (s.sweepQuad q).dropWake q) s
    let s : State := { s with pwr := { s.pwr with diesLost := s.pwr.diesLost ++ dies.filter fun d => !(s.pwr.diesLost.contains d) } }
    let s := (hubGranules h).foldl (fun (s : State) g => (rangeFrom g.2.1 g.2.2).foldl (fun (s : State) i => s.setOwner g.1 i 0x80) s) s
    let s := (parts.foldl State.showQuads (s.hubMemory h)).linkDieLost h
    let s := (parts.flatMap s.instsOf).foldl (fun (s : State) i => s.rebindInst i dead) s
    let hubs := s.fld .fltHealth FLT_HEALTH_HUBS
    if (hubs % 4 = 0) ∨ (hubs / 4 % 4 = 0) then s.loseModule else s

def execHubLost (h : Nat) (s : State) : Res := .next (if h < 4 then s.hubLost h else s)

/-- CLK_LOCK: the root PLL of the die of source `src` loses lock, and the die is handled as failed (16 R381). -/
def State.clkLock (s : State) (src : Nat) : State :=
  if s.pwr.pllLost.contains src then s
  else
    let t := ({ s with pwr := { s.pwr with pllLost := s.pwr.pllLost ++ [src] } } : State).raise modLog srcM 0x0A06 []
    if 0x6A0 ≤ src ∧ src < 0x6B4 then t.dieLost (src - 0x6A0) 0x0A06
    else if 0x500 ≤ src ∧ src < 0x504 then t.hubLost (src - 0x500)
    else if 0x540 ≤ src ∧ src < 0x544 then t.linkDieLost (src - 0x540)
    else if src = srcQuay ∨ src = srcFlash ∨ src = srcM ∨ src = srcT then t.loseModule
    else s

def execClkLock (src : Nat) (s : State) : Res := .next (s.clkLock src)

/-! ### The quay and the service dies (13 R311, 17 Table 17-3) -/

/-- QUAY_FATAL: a parity error in queue state stops the quay. -/
def execQuayFatal (s : State) : Res := .next ((s.setFld .qStat Q_STAT_FATAL 1).setCause causeFatal)

/-- SERVICE_DIE_FAULT: a failed self-check resets the M-die or T-die, and a repeat costs the whole module. -/
def State.serviceFault (s : State) (src : Nat) : State :=
  if src ≠ srcM ∧ src ≠ srcT then s
  else if s.pwr.svcFaults.contains src then s.loseModule
  else
    let s : State := { s with pwr := { s.pwr with svcFaults := s.pwr.svcFaults ++ [src] } }
    let s := s.sweepSource src
    if src = srcT then { s with trust := { s.trust with nonce := none } } else s

def execServiceDieFault (src : Nat) (s : State) : Res := .next (s.serviceFault src)

/-! ### Resumption and health (17 R402, R407) -/

/-- Is every task of the partition restarted or over: no abort runs, no quad of it waits to be retired, and no engine to be
replaced? -/
def State.resumes (s : State) (p : Nat) : Bool :=
  (s.instsOf p).all (fun i => !(s.flag (.schInst i) SCH_INST_ABORTING)) &&
    s.pwr.retireDue.all (fun d => s.quadPart d.1 ≠ some p) && s.eng.meFailed.all (fun f => s.quadPart (f.1 / 4) ≠ some p)

/-- RESUMED: the record carries the detection TIME, the interruption in µs and the fault's code. -/
def State.resumed (s : State) (p : Nat) : State :=
  match s.pwr.recov.find? (·.part = p) with
  | none => s
  | some r =>
    if ¬ s.resumes p then s
    else
      let s : State := { s with pwr := { s.pwr with recov := s.pwr.recov.filter (·.part ≠ p) } }
      s.raise p srcM 0x0B06 (leBytes 8 r.time ++ leBytes 4 ((s.svcTime - r.time) / tickUs) ++ leBytes 2 r.code)

def execResumed (p : Nat) (s : State) : Res := .next (s.resumed p)

/-- Does a stack, channel, device or NBU stand out of service or at half width? -/
def State.memoryOut (s : State) : Bool :=
  s.tier.failed ≠ [] || s.pwr.nbusOut ≠ [] ||
    (List.range 12).any fun n => s.flag (.memHstat n) MEM_HSTAT_CHFAIL || s.flag (.memHstat n) MEM_HSTAT_HALFW

/-- A port below width 8: UP at 4 or 2, or FAILED. -/
def State.portNarrow (s : State) (p : Nat) : Bool := [2, 3, 6].contains (s.fld (.abPort p) AB_PORT_WIDTH)

/-- The health level: the highest row of 17 Table 17-10 whose condition holds. -/
def State.healthLevel (s : State) : Nat :=
  if s.pwr.moduleLost ∨ s.flag .qStat Q_STAT_FATAL then 3
  else if s.fld .fltHealth FLT_HEALTH_HUBS ≠ 0xF ∨ s.pwr.diesLost ≠ [] ∨ s.flag .flStat FL_STAT_CAPLOSS ∨ 100 ≤ s.fld .flStat FL_STAT_WEAR then 2
  else if s.flag .fltHealth FLT_HEALTH_QRET ∨ s.memoryOut ∨ (List.range 16).any s.portNarrow ∨ s.tier.readOnly ≠ [] ∨
      s.flag .pmStat PM_STAT_HOLDLOW then 1
  else 0

/-- HEALTH: a change of the level is recorded and sets CHANGED. -/
def State.health (s : State) : State :=
  let old := s.fld .fltHealth FLT_HEALTH_LEVEL
  let new := s.healthLevel
  if old = new then s
  else
    let s := (s.setFld .fltHealth FLT_HEALTH_LEVEL new).setFld .fltHealth FLT_HEALTH_CHANGED 1
    (s.setCause causeHealth).raise modLog srcM 0x0B07 (leBytes 1 old ++ leBytes 1 new)

def execHealth (s : State) : Res := .next s.health

end Sys2Proof.Machine
end

