-- ==== Sys2Proof/Machine/Hardware.lean ====
section
/-! DEFINITION. The module's own hardware (19) and its debug access (20): coolant, OSFP cages, front panel, management header,
the JTAG chain and the observation outputs. -/

namespace Sys2Proof.Machine

/-! ### Cooling and sensors (19 R432) -/

/-- COOL_LEAK: the leak sensor turns wet or dry; LEAK_N follows. -/
def State.coolLeak (s : State) (wet : Bool) : State :=
  if ¬ s.pwr.mgmtUp ∨ s.hw.leak = wet then s
  else ({ s with hw := { s.hw with leak := wet } } : State).raise modLog srcM 0x0A09 (leBytes 1 (if wet then 0 else 1))

def execCoolLeak (wet : Bool) (s : State) : Res := .next (s.coolLeak wet)

/-- COOLANT_SENSOR_READ: the temperatures that the PLDM sensors report; they throttle nothing. -/
def execCoolantSensorRead (inlet outlet : Nat) (s : State) : Res :=
  .next (if s.pwr.mgmtUp then { s with hw := { s.hw with inlet, outlet } } else s)

/-! ### Front panel (19 R439-R441) -/

/-- ATTN: a press of the attention button; its record carries the action of 19 Table 19-11. -/
def State.attn (s : State) : State :=
  if ¬ s.pwr.mgmtUp then s
  else
    let act := if s.pwr.phase ≠ .up then 2 else if s.hw.removal then 1 else 0
    let s : State := { s with hw := { s.hw with removal := if act = 2 then s.hw.removal else act = 0 } }
    s.raise modLog srcM 0x0A08 (leBytes 1 act)

def execAttn (s : State) : Res := .next s.attn

/-- IDENTIFY_LED: 0 off, 1 steady, 2 blinking at 2 Hz. -/
def State.identifyLed (s : State) (mode : Nat) : State :=
  if ¬ s.sidebandUp then s
  else match mode with
    | 0 => { s with hw := { s.hw with identify := .off } }
    | 1 => { s with hw := { s.hw with identify := .steady } }
    | 2 => { s with hw := { s.hw with identify := .blink2 } }
    | _ => s

def execIdentifyLed (mode : Nat) (s : State) : Res := .next (s.identifyLed mode)

/-- Patterns of the status LED. -/
inductive Led where
  | amber4 | off | amber | green1 | green4 | amber1 | alternate1 | green
deriving DecidableEq, Repr

/-- The status LED shows the first row of 19 Table 19-10 whose condition holds. -/
def State.statusLed (s : State) : Led :=
  let level := s.fld .fltHealth FLT_HEALTH_LEVEL
  if s.pwr.phase = .flushing true ∨ s.pwr.phase = .flushing false then .amber4
  else if s.pwr.phase ≠ .up then .off
  else if level = 3 then .amber
  else if s.hw.removal then .green1
  else if ¬ s.pwr.quayReady then .green4
  else if level = 2 then .amber1
  else if level = 1 then .alternate1
  else .green

/-- MOD_PRSNT_BREAK: J4 parts while powered; the flush runs from the hold-up bank. -/
def State.unplug (s : State) : State :=
  let s := ({ s with hw := { s.hw with j4 := false }, pwr := { s.pwr with p48 := false, p12aux := false } } : State).setFld .pmStat PM_STAT_NOAUX 1
  (s.flushStart false).mgmtPower

def execModPrsntBreak (s : State) : Res := .next s.unplug

/-- SLOT_ID_LATCH: the auxiliary domain starts; SLOT_ID is latched, 0xF when SLOT_VLD_N is open. -/
def execSlotIdLatch (slot : Nat) (valid : Bool) (s : State) : Res :=
  .next (({ s with hw := { s.hw with j4 := true, identify := .off } } : State).setFld .abId AB_ID_SLOT (if valid then slot % 8 else 0xF))

/-! ### OSFP cages (19 R438, 14 R335) -/

/-- What the poll finds in the cage of port `p`: no plug, or one that declares some watts. A plug above 5 W is held in low
power. -/
def State.pollCage (s : State) (p : Nat) (plug : Option Nat) : State :=
  let old : Cage := tgetD {} s.hw.cages p
  let cage (s : State) (c : Cage) : State := { s with hw := { s.hw with cages := tsetD {} s.hw.cages p c } }
  let out (s : State) : State := if old.present then ((cage s {}).setFld (.abPort p) AB_PORT_PRES 0).portFall p 0 true else s
  match plug with
  | none => out s
  | some w =>
    if old.present ∧ old.power = w then s.setFld (.abPort p) AB_PORT_PRES 1
    else
      let s := cage (out s) ⟨true, w, decide (5 < w)⟩
      if 5 < w then (s.setFld (.abPort p) AB_PORT_PRES 1).raise modLog srcM 0x0A0A (leBytes 1 p ++ leBytes 1 w) else s.cableIn p

/-- OSFP_PRESENCE_POLL: the plugs of P12-P15, in order. -/
def State.pollCages (s : State) (plugs : List (Option Nat)) : State :=
  if ¬ s.pwr.mgmtUp ∨ s.pwr.phase ≠ .up then s
  else (List.range 4).foldl (fun (s : State) k => s.pollCage (12 + k) (plugs.getD k none)) s

def execOsfpPresencePoll (plugs : List (Option Nat)) (s : State) : Res := .next (s.pollCages plugs)

/-! ### The probe and the JTAG chain (20 R447-R451, R456) -/

/-- DBG_ATTACH: DBG_PRSNT_N changes. -/
def State.dbgAttach (s : State) (on : Bool) : State :=
  if ¬ s.pwr.mgmtUp ∨ s.hw.probe = on then s
  else ({ s with hw := { s.hw with probe := on } } : State).raise modLog srcM 0x0A0B (leBytes 1 (if on then 1 else 0))

def execDbgAttach (on : Bool) (s : State) : Res := .next (s.dbgAttach on)

def State.tap (s : State) (t : Nat) : Tap := tgetD {} s.dbg.taps t
def State.setTap (s : State) (t : Nat) (v : Tap) : State := { s with dbg := { s.dbg with taps := tsetD {} s.dbg.taps t v } }

/-- The die class of a TAP by its position in the chain M, T, Q, F, H0-H3, L0-L3, E00-E19. -/
def tapClass (t : Nat) : Nat :=
  if t = 0 then 5 else if t = 1 then 6 else if t = 2 then 3 else if t = 3 then 4 else if t < 8 then 1 else if t < 12 then 2 else 0

/-- IDCODE of a TAP (20 R449). -/
def idcode (t : Nat) : Nat := 1 + 0x3A5 * 2 ^ 1 + (0x0300 + tapClass t) * 2 ^ 12 + 0xB * 2 ^ 28

/-- 20 Table 20-5: may an access of a class be made? 0 bypass, identification and sampling; 1 pin control; 2 TMUXSEL;
3 register reads; 4 register writes; 5 console st; 6 console log. -/
def State.dbgMay (s : State) (cls t : Nat) : Bool :=
  let dev : Bool := s.lc = lcManufacturing || s.lc = lcDevelopment
  match cls with
  | 0 => s.lc ≠ lcRetired || decide (t < 2)
  | 1 => dev || s.lc = lcReturn
  | 2 => dev || s.lc = lcProduction
  | 3 => dev || s.lc = lcReturn
  | 4 => dev
  | 5 => true
  | _ => s.lc ≠ lcRetired

/-- DBG_DENIED: the bypass register is selected. -/
def State.dbgDenied (s : State) (t code : Nat) : State :=
  let s := (s.setTap t { s.tap t with inst := 0xFF }).emit (.jtag t 0 1)
  if s.pwr.mgmtUp then s.raise modLog srcM 0x0A0C (leBytes 1 t ++ leBytes 1 code) else s

/-- The TAP at position `t` takes instruction `code`: it must stand in the chain's present shape; one without power shifts
ones (`w` bits); one that the life-cycle state does not permit selects bypass. -/
def State.tapDo (s : State) (t code cls w : Nat) (f : State → State) : State :=
  if (if s.dbg.long then 32 else 2) ≤ t ∨ ¬ s.pwr.mgmtUp then s
  else if 2 ≤ t ∧ ¬ s.pwrGood then s.emit (.jtag t (2 ^ w - 1) w)
  else if ¬ s.dbgMay cls t then s.dbgDenied t code
  else f (s.setTap t { s.tap t with inst := code })

/-- TEST_LOGIC_RESET: the chain takes the shape that PWRGD sets, and every die resumes. -/
def execTestLogicReset (s : State) : Res := .next { s with dbg := { s.dbg with long := s.pwrGood, taps := [] } }

def execBypass (t : Nat) (s : State) : Res := .next (s.tapDo t 0xFF 0 1 fun s => s.emit (.jtag t 0 1))

def execIdcode (t : Nat) (s : State) : Res := .next (s.tapDo t 0x01 0 32 fun s => s.emit (.jtag t (idcode t) 32))

/-- The boundary register: what the pins carry is captured, which the spec leaves to the board (a free value), and the bits
shifted in are loaded. -/
def State.boundary (s : State) (t cells : Nat) : State :=
  let w := Config.boundaryCells t
  (s.drew.setTap t { s.tap t with cells := cells % 2 ^ w }).emit (.jtag t (Config.freeChoice s.fresh % 2 ^ w) w)

def execSamplePreload (t cells : Nat) (s : State) : Res :=
  .next (s.tapDo t 0x02 0 (Config.boundaryCells t) fun s => s.boundary t cells)

/-- The die's pins follow its boundary cells, or float; the die's own outputs stop serving (20 R451). -/
def State.holdPins (s : State) (t : Nat) (float : Bool) : State := s.setTap t { s.tap t with drives := !float, hiZ := float }

def execExtest (t cells : Nat) (s : State) : Res :=
  .next (s.tapDo t 0x00 1 (Config.boundaryCells t) fun s => (s.boundary t cells).holdPins t false)

def execClamp (t : Nat) (s : State) : Res := .next (s.tapDo t 0x03 1 1 fun s => (s.holdPins t false).emit (.jtag t 0 1))

def execHighz (t : Nat) (s : State) : Res := .next (s.tapDo t 0x04 1 1 fun s => (s.holdPins t true).emit (.jtag t 0 1))

/-! ### Observation outputs (20 R453, R454) -/

/-- TMUXSEL: the words of the 16 outputs, output 0 first; bits 31-26 are ignored. On another die than the M-die the code is
unassigned and selects bypass. -/
def State.tmuxSel (s : State) (t : Nat) (ws : List Nat) : State :=
  if t = 0 then
    s.tapDo 0 0x20 2 512 fun s =>
      let old := (List.range 16).foldl (fun a k => a + tgetD 0 s.dbg.tmux k * 2 ^ (32 * k)) 0
      let new := (List.range 16).foldl (fun m k => tsetD 0 m k (ws.getD k 0 % 2 ^ 26)) []
      ({ s with dbg := { s.dbg with tmux := new } } : State).emit (.jtag 0 old 512)
  else s.tapDo t 0xFF 0 1 fun s => s.emit (.jtag t 0 1)

def execTmuxsel (t : Nat) (ws : List Nat) (s : State) : Res := .next (s.tmuxSel t ws)

/-- May the source be observed in this life-cycle state, and is it in service? -/
def State.tmuxOk (s : State) (src : Nat) : Bool :=
  let dev : Bool := s.lc = lcManufacturing || s.lc = lcDevelopment
  if src < 0x500 then dev && unitOk (src % 16) && !(s.quadGone (src / 16))
  else if src < 0x504 then (dev || s.lc = lcProduction) && bitAt (s.fld .fltHealth FLT_HEALTH_HUBS) (src - 0x500)
  else (dev || s.lc = lcProduction) && (src = srcM || (0x680 ≤ src && src < 0x690))

/-- The level of a signal of 20 Table 20-4 that the state shows; `none` for a signal that is a pulse within one step. -/
def State.tmuxSignal (s : State) (src sig : Nat) : Option Bool :=
  let f := 4 * (src / 16) + (src % 16 - 8)
  let jobs := (List.range 16).filterMap fun k => (s.stream (16 * f + k)).job
  if src < 0x500 ∧ 8 ≤ src % 16 then
    match sig with
    | 0 => none
    | 1 => some (decide (128 ≤ s.ferryReads f))
    | 2 => some (jobs.any (·.fbSeen))
    | 3 => some ((s.quadInst (src / 16)).any fun i => s.flag (.schInst i) SCH_INST_ABORTING)
    | _ => some false
  else if src < 0x500 then
    match sig with
    | 1 => some (s.ctl.threads.any fun e => e.1 / 16 = src && (e.2.map fun t => t.waitAt.isSome).getD false)
    | 3 => some ((s.quadInst (src / 16)).any fun i => s.flag (.schInst i) SCH_INST_ABORTING)
    | n => if n < 3 then none else some false
  else if src < 0x504 then (if sig < 4 then none else some false)
  else if src = srcM then
    match sig with
    | 0 => none
    | 1 => some (decide (s.fld .pmStat PM_STAT_DUTY < 16))
    | 2 => some (bitAt s.svcTime 8)
    | 3 => some (s.pwrGood && s.pwr.phase ≠ .up)
    | _ => some false
  else if sig < 2 then none else some (sig = 2 && !(s.portUp (src - 0x680)))

/-- Output `n`: low while PWRGD is low, while EN = 0, and for a source or signal that may not be seen; `none`: a pulse. -/
def State.tmuxOut (s : State) (n : Nat) : Option Bool :=
  let w := tgetD 0 s.dbg.tmux n
  let src := bits w 0 16
  let sig := bits w 16 8
  if ¬ s.pwrGood ∨ ¬ bitAt w 24 ∨ ¬ s.tmuxOk src ∨ 4 ≤ sig then some false
  else (s.tmuxSignal src sig).map fun b => if bitAt w 25 then !b else b

end Sys2Proof.Machine
end

