-- ==== Sys2Proof/Machine/Bus.lean ====
section
/-! DEFINITION. Accesses to registers (18 R410-R415): what a register shows, who may reach it, what a write does, and the
agents that bring accesses: the host through BAR0, the module's agents, DBGACC and the console (20 R452, R455). -/

namespace Sys2Proof.Machine

/-! ### What a register shows -/

/-- A word with one field replaced, as numbers. -/
def show1 (w : Nat) (f : Fld) (v : Nat) : Nat := putBits w f.lo f.w v

/-- ME_STAT.THRRDY of engine `k`: its threads whose next instruction is ready. -/
def State.thrReady (s : State) (k : Nat) : Nat :=
  (List.range 4).foldl (fun a t => if s.unitOn (k / 4) (k % 4) && s.ready (k / 4) (k % 4) t then a + 2 ^ t else a) 0

/-- The sweep of a ferry runs: its quad's instance is aborting (10 R234). -/
def State.sweeping (s : State) (f : Nat) : Bool := (s.quadInst (f / 4)).any fun i => s.flag (.schInst i) SCH_INST_ABORTING

/-- CM_PSTAT.LAG: the age of the oldest unapplied entry, in µs. -/
def State.applyLag (s : State) (p : Nat) : Nat :=
  let open_ := (s.cpart p).entries.filter (s.cpart p).unapplied
  min 0xFFFF (open_.foldl (fun a e => max a ((s.svcTime - e.at_) / tickUs)) 0)

/-- CM_PSTAT.UNDESTAGED, in KiB. -/
def State.undestaged (s : State) (p : Nat) : Nat :=
  ceilDiv (((s.cpart p).entries.filter (s.cpart p).undestaged).foldl (fun a e => a + e.size) 0) 1024

/-- The value a register shows: its stored word, with the fields that the state gives by another way. -/
def State.shown (s : State) (r : Reg) : Nat :=
  let w := (s.reg r).toNat
  match r with
  | .glbStat => show1 (show1 (show1 w GLB_STAT_HEALTH (s.fld .fltHealth FLT_HEALTH_LEVEL)) GLB_STAT_FATAL (s.fld .qStat Q_STAT_FATAL))
      GLB_STAT_LCSTATE s.lc
  | .prtCtl => if s.prtAllow then show1 w PRT_CTL_ALLOW 1 else 0
  | .prtSlot _ => if s.prtAllow then w else 0
  | .meStat k => show1 w ME_STAT_THRRDY (s.thrReady k)
  | .fryStat n => show1 w FRY_STAT_OUTST (min 128 (s.ferryReads n))
  | .fryCred n => show1 (show1 (show1 (show1 w FRY_CRED_RDCRED (128 - s.ferryReads n)) FRY_CRED_WRCRED (64 - s.ferryWrites n)) FRY_CRED_REMCRED
      (32 - s.ferryRemote n)) FRY_CRED_SWEEP (if s.sweeping n then 1 else 0)
  | .skTide n => show1 w SK_TIDE_AGE (s.tideAge n)
  | .skTstat n => show1 w SK_TSTAT_THRTIME ((s.countThrot n).fld (.skTstat n) SK_TSTAT_THRTIME)
  | .pmStat => show1 w PM_STAT_CAPTIME (s.countCap.fld .pmStat PM_STAT_CAPTIME)
  | .abUid => s.abRead .abUid
  | .svcTime => s.svcTime % 2 ^ 64
  | .svcSync => show1 w SVC_SYNC_HOPS s.syncHops
  | .cmPstat p => show1 (show1 (show1 (show1 w CM_PSTAT_OCC (s.occ p)) CM_PSTAT_WPAUSE (if s.writePaused then 1 else 0)) CM_PSTAT_LAG (s.applyLag p))
      CM_PSTAT_UNDESTAGED (s.undestaged p)
  | .cmApplied p => if (s.cpart p).recovered ∧ (s.cpart p).recTop ≤ (s.cpart p).applied then (s.cpart p).applied else 0
  | .mdlStat m => show1 w MDL_STAT_TGEN (s.towersOf m).live
  | .lcStat => show1 w LC_STAT_PENDING (if s.trust.lcPending.isSome then 1 else 0)
  | .poolAlloc _ => 0
  | .poolFree _ => 0
  | _ => w

/-- The part of a 64-bit value that an access of a half returns. -/
def halfOf (h : Half) (v : Nat) : Nat :=
  match h with
  | .whole => v
  | .low => v % 2 ^ 32
  | .high => v / 2 ^ 32

/-! ### Writes (18 R412, R415) -/

/-- A write of SK_CTL: a TIDE_MIN of 0 or above 60 is ignored. -/
def State.wrSkCtl (s : State) (n : Nat) (h : Half) (v : Nat) : State :=
  let old := s.fld (.skCtl n) SK_CTL_TIDE_MIN
  let s := s.plainWrite (.skCtl n) h v
  let new := s.fld (.skCtl n) SK_CTL_TIDE_MIN
  if new = 0 ∨ 60 < new then s.setFld (.skCtl n) SK_CTL_TIDE_MIN old else s

/-- A write of ME_SPARE: TESTGO is ignored while the spare serves a position. -/
def State.wrMeSpare (s : State) (d : Nat) (h : Half) (v : Nat) : State :=
  if s.flag (.meSpare d) ME_SPARE_INUSE then s else s.plainWrite (.meSpare d) h v

/-- A write of FRY_SPLIT: shares that do not sum to 64 are ignored; the word in force until now serves at each hub to the end of
its metering window (10 Table 10-13). -/
def State.wrFrySplit (s : State) (p : Nat) (h : Half) (v : Nat) : State :=
  let t := s.plainWrite (.frySplit p) h v
  let f (x : Fld) : Nat := t.fld (.frySplit p) x
  if f FRY_SPLIT_READ + f FRY_SPLIT_WRITE + f FRY_SPLIT_REMOTE ≠ 64 ∨ t.reg (.frySplit p) = s.reg (.frySplit p) then s
  else { t with fry := { t.fry with split := (List.range 4).foldl (fun x h => tins (4 * p + h) (s.splitNow p h) x) t.fry.split } }

/-- A write of a register by `src`: what its own rule makes of it, or its access types alone. -/
def State.regWrite (s : State) (src : Nat) (r : Reg) (h : Half) (v : Nat) : State :=
  match r with
  | .glbInt => s.wrGlbInt h v
  | .fabLock => s.wrFabLock src h v
  | .evqCfg l => s.wrEvqCfg l h v
  | .evqAck l => s.wrEvqAck l h v
  | .prtCtl => s.wrPrtCtl h v
  | .prtSlot n => if s.prtAllow then s.plainWrite (.prtSlot n) h v else s
  | .meSpare d => s.wrMeSpare d h v
  | .skCtl n => s.wrSkCtl n h v
  | .skRegion n => s.wrSkRegion n h v
  | .schLdctl => s.wrLdctl h v
  | .frySplit p => s.wrFrySplit p h v
  | .spadPwr0 d => s.wrSpadPwr d false h v
  | .spadPwr1 d => s.wrSpadPwr d true h v
  | .fcRange k => s.wrFcRange k h v
  | .poolCfg k => s.wrPoolCfg k h v
  | .poolAlloc _ => s
  | .poolFree k => if h = .whole then s.poolFree src k (v % 2 ^ 64) else s
  | .qCtl => s.wrQctl h v
  | .qaSqb => s.wrQa .qaSqb h v
  | .qaCqb => s.wrQa .qaCqb h v
  | .qaSize => s.wrQaSize h v
  | .msixData n => s.wrMsixData n h v
  | .abPort p => s.abWrite (.abPort p) h v
  | .abGroup k => s.abWrite (.abGroup k) h v
  | .abCtl => s.abWrite .abCtl h v
  | .ptLock => s.wrPtLock src h v
  | .ptCfg p => (s.wrPtCfg p h v).noteOcc (s.occ p) p
  | .ptFloor k => s.wrPtFloor k h v
  | .ptOwnQ j => s.wrOwn 0 j h v
  | .ptOwnB j => s.wrOwn 1 j h v
  | .ptOwnH j => s.wrOwn 2 j h v
  | .ptOwnG j => s.wrOwn 3 j h v
  | .ptOwnS j => s.wrOwn 4 j h v
  | .tnCfg t => s.wrTnCfg t h v
  | .tnTier k => s.wrTnTier k h v
  | .pmCtl => s.wrPmCtl false h v
  | .pmStat => s.countCap.plainWrite .pmStat h v
  | .skTstat n => (s.countThrot n).plainWrite (.skTstat n) h v
  | .rstReq => s.wrRstReq h v
  | .pwrQuad q => s.wrPwrQuad q h v
  | r => s.plainWrite r h v

/-! ### Accesses -/

/-- The quad whose own register it is: an access wakes it (16 R375). -/
def regQuad : Reg → Option Nat
  | .cvtSatcfg q | .cvtSatstat q | .cvtWincnt q | .xuStat q | .xuBound q | .schQuad q => some q
  | .meStat k | .fryStat k | .fryCred k => some (k / 4)
  | .meSrctx0 k | .meSrctx8 k => some (k / 16)
  | .semVal k | .frySwait k => some (k / 64)
  | _ => none

def State.wakeFor (s : State) (r : Reg) : State :=
  match regQuad r with
  | some q => s.askWake q
  | none => s

/-- May the source reach the register blocks (18 R411)? -/
def busSource (src : Nat) : Bool := src = srcHost || src = srcM || src = srcT || isAgent src || (0x540 ≤ src && src < 0x544)

/-- Are the registers served: the rails are up, and for the host the quay has ended its boot? -/
def State.busUp (s : State) (src : Nat) : Bool :=
  s.pwrGood && (src ≠ srcHost || (s.pwr.quayReady && s.trust.halted.isNone && s.lc ≠ lcRetired && !s.pwr.moduleLost))

/-- The register and the half that an access of `n` bytes at offset `o` names, if its size and alignment are good. -/
def accOf (o n : Nat) : Option (Nat × Half) :=
  if n = 8 ∧ o % 8 = 0 then some (o, .whole)
  else if n = 4 ∧ o % 4 = 0 then some (o / 8 * 8, if o % 8 = 0 then .low else .high)
  else none

/-- An access refused or ignored by R410 is counted. -/
def State.badReg (s : State) : State := s.incFld .glbStat GLB_STAT_BADREG 1

/-- A read of the register at offset `o` by a permitted source: the state after it, and all 64 bits. -/
def State.regRead (s : State) (src o : Nat) : State × Nat :=
  match regAt o with
  | none => (s.badReg, 0)
  | some (.poolAlloc k) => s.poolAlloc src k
  | some r => (s.wakeFor r, s.shown r)

/-- A write of the register at offset `o` by a permitted source. -/
def State.regStore (s : State) (src o : Nat) (h : Half) (v : Nat) : State :=
  match regAt o with
  | none => s.badReg
  | some r => (s.wakeFor r).regWrite src r h v

/-- A write into the register blocks: a quad unit reaches only POOL_FREE, and what is no permitted source, nothing. -/
def State.busWrite (s : State) (src o : Nat) (h : Half) (v : Nat) : State :=
  if isQuadUnit src then
    match regAt o with
    | some (.poolFree k) => if h = .whole then s.poolFree src k (v % 2 ^ 64) else s.addrFault src (regBase + o)
    | _ => s.addrFault src (regBase + o)
  else if ¬ busSource src ∨ 2 ^ 26 ≤ o then s.addrFault src (regBase + o)
  else if ¬ s.busUp src then s
  else s.regStore src o h v

/-- REGISTER_WRITE: source `src` writes a register, or one half of it. -/
def execRegisterWrite (src o : Nat) (h : Half) (v : Nat) (s : State) : Res := .next (s.busWrite src o h v)

/-- A host access through BAR0: `w` is the value of a write. One of bad size or alignment is refused or discarded, one to an
offset that holds no register reads 0 or is ignored, and both are counted; any other is served. -/
def State.bar0 (s : State) (o n : Nat) (w : Option Nat) : State :=
  if ¬ s.busUp srcHost then s
  else if 2 ^ 26 ≤ o then (if w.isSome then s else s.emit (.hostRead none))
  else match accOf o n, w with
    | none, some _ => s.badReg
    | none, none => s.badReg.emit (.hostRead none)
    | some a, some v => s.regStore srcHost a.1 a.2 v
    | some a, none =>
      let r := s.regRead srcHost a.1
      r.1.emit (.hostRead (some (halfOf a.2 r.2)))

/-- BAR0_ACCESS_INVALID: a BAR0 access, of any form. -/
def execBar0AccessInvalid (o n : Nat) (w : Option Nat) (s : State) : Res := .next (s.bar0 o n w)

/-! ### DBGACC and the console (20 R452, R455, R456) -/

/-- A read by source 0x530 of the register at a local address: 0 where no register block lies. -/
def State.mRead (s : State) (a : Nat) : State × Nat :=
  if ¬ s.pwrGood ∨ a < regBase ∨ regBase + 2 ^ 26 ≤ a then (s, 0)
  else if a % 8 ≠ 0 then (s.badReg, 0)
  else s.regRead srcM (a - regBase)

def State.mWrite (s : State) (a : Nat) (h : Half) (v : Nat) : State :=
  if ¬ s.pwrGood ∨ a < regBase ∨ regBase + 2 ^ 26 ≤ a then s
  else if a % 8 ≠ 0 then s.badReg
  else s.regStore srcM (a - regBase) h v

/-- DBGACC: `dr` is the data register at Update-DR; what the Capture-DR before it loaded is shifted out. -/
def State.dbgacc (s : State) (t dr : Nat) : State :=
  let write := bitAt dr 41
  let h : Half := if bitAt dr 40 then .high else .low
  s.tapDo t 0x21 (if write then 4 else 3) 96 fun s =>
    let s := s.emit (.jtag t (s.dbg.half * 2 ^ 64) 96)
    let keep (s : State) (v : Nat) : State := { s with dbg := { s.dbg with half := v } }
    if bits dr 42 22 ≠ 0 then s
    else if write then keep (s.mWrite (bits dr 0 40) h (bits dr 64 32)) 0
    else
      let r := s.mRead (bits dr 0 40)
      keep r.1 (halfOf h r.2)

def execDbgacc (t dr : Nat) (s : State) : Res := .next (s.dbgacc t dr)

/-- Kinds of the lines that the console prints: 0 status, 1 a new record, 2 "dropped", 3 a record of `log`, 4 a value read,
5 "denied". -/
def conDenied : Nat := 5

/-- A command of the console, when the M-die runs and the life-cycle state permits it. -/
def State.conDo (s : State) (cls : Nat) (f : State → State) : State :=
  if ¬ s.pwr.mgmtUp then s else if ¬ s.dbgMay cls 0 then s.emit (.console conDenied []) else f s

/-- CONSOLE_ST: GLB_ID, LC_STAT.STATE, FLT_HEALTH.LEVEL, PM_STAT.PIN, PWRGD. -/
def execConsoleSt (s : State) : Res :=
  .next (s.conDo 5 fun s => s.emit (.console 0 [(s.reg .glbId).toNat, s.lc, s.fld .fltHealth FLT_HEALTH_LEVEL, s.fld .pmStat PM_STAT_PIN,
    if s.pwrGood then 1 else 0]))

/-- CONSOLE_LOG: the last `n` records of the module log, oldest first. -/
def State.conLog (s : State) (n : Nat) : State :=
  if n = 0 ∨ 64 < n then s.emit (.console conDenied [])
  else
    let l := s.log modLog
    (l.drop (l.length - n)).foldl (fun (s : State) r => s.emit (.console 3 [r.ev.src, r.ev.code, r.ev.seq, r.ev.time, ofLE r.ev.data])) s

def execConsoleLog (n : Nat) (s : State) : Res := .next (s.conDo 6 fun s => s.conLog n)

/-- CONSOLE_RD: the register at BAR0 offset `o`. -/
def execConsoleRd (o : Nat) (s : State) : Res :=
  .next (s.conDo 3 fun s =>
    let r := s.mRead (regBase + o)
    r.1.emit (.console 4 [r.2]))

/-- CONSOLE_WR: `v` is written to the register at BAR0 offset `o`. -/
def execConsoleWr (o v : Nat) (s : State) : Res := .next (s.conDo 4 fun s => s.mWrite (regBase + o) .whole v)

end Sys2Proof.Machine
end

