-- ==== Sys2Proof/Machine/Vector.lean ====
section
/-! DEFINITION. Vector processors (09 R192-R195, 06 R130): registers, masks, lanes and the vector opcodes. -/

namespace Sys2Proof.Machine

/-! ### Registers and lanes -/

def State.vreg (s : State) (q t r : Nat) : Nat := tgetD 0 s.eng.vreg (32 * (8 * q + t) + r)
def State.setVreg (s : State) (q t r v : Nat) : State :=
  { s with eng := { s.eng with vreg := tsetD 0 s.eng.vreg (32 * (8 * q + t) + r) (v % 2 ^ 2048) } }
def State.vmask (s : State) (q t m : Nat) : Nat := tgetD 0 s.eng.vmask (4 * (8 * q + t) + m)
def State.setVmask (s : State) (q t m v : Nat) : State :=
  { s with eng := { s.eng with vmask := tsetD 0 s.eng.vmask (4 * (8 * q + t) + m) (v % 2 ^ 64) } }

/-- Bits of a lane of a TYPE, and lanes of a register (09 Table 9-6). -/
def laneBits (ty : Nat) : Nat := if ty = 4 then 128 else if ty % 2 = 1 then 64 else 32
def laneCount (ty : Nat) : Nat := 2048 / laneBits ty
/-- The mask bit of a lane. -/
def laneBit (ty n : Nat) : Nat := n * (laneBits ty / 32)

/-- The fields of a VEC instruction. -/
def Iss.vd (x : Iss) : Nat := x.f 0 5
def Iss.ty (x : Iss) : Nat := x.f 20 3
def Iss.imm (x : Iss) : Nat := x.f 32 32
def Iss.off (x : Iss) : Nat := x.f 64 26
def State.srcA (s : State) (x : Iss) : Nat := s.vreg x.q x.t (x.f 5 5)
def State.srcB (s : State) (x : Iss) : Nat := s.vreg x.q x.t (x.f 10 5)
def State.srcC (s : State) (x : Iss) : Nat := s.vreg x.q x.t (x.f 15 5)

/-- Is lane `n` active under MSK? -/
def State.active (s : State) (x : Iss) (n : Nat) : Bool :=
  x.f 23 2 = 0 || bitAt (s.vmask x.q x.t (x.f 23 2)) (laneBit x.ty n)

/-- Lane `n` of a register value. -/
def lane (ty v n : Nat) : Nat := bits v (n * laneBits ty) (laneBits ty)

/-- A register with its active lanes replaced. -/
def State.lanes (s : State) (x : Iss) (old : Nat) (f : Nat → Nat) : Nat :=
  (List.range (laneCount x.ty)).foldl (fun v n =>
    if s.active x n then putBits v (n * laneBits x.ty) (laneBits x.ty) (f n) else v) old

/-- Write the active lanes of VD; the instruction is in progress until its result is there. -/
def State.toVd (s : State) (x : Iss) (f : Nat → Nat) : State :=
  (s.setVreg x.q x.t x.vd (s.lanes x (s.vreg x.q x.t x.vd) f)).later x

/-- A VEC instruction whose TYPE must be one of a list: another one is VEC_PARAM (09 R194). -/
def State.vec (s : State) (q u t : Nat) (e : UnitErr) (op : Nat) (types : List Nat) (run : State → Iss → Option State) : State :=
  s.issue q u t e op fun s x => if types.contains x.ty then run s x else some (s.fault x 0x030C)

def anyType : List Nat := [0, 1, 2, 3, 4]
def numTypes : List Nat := [0, 1, 2, 3]

/-! ### Arithmetic by TYPE (06 R130) -/

/-- The float format of a TYPE. -/
def tyFm (ty : Nat) : Fm := if ty = 1 then .fp64 else .fp32
/-- Is the TYPE a float type? -/
def tyFloat (ty : Nat) : Bool := ty ≤ 1
/-- The signed value of an integer lane. -/
def laneInt (ty v : Nat) : Int := sext (laneBits ty) v
def intLane (ty : Nat) (i : Int) : Nat := toTwos (laneBits ty) i

def vAdd (ty a b : Nat) : Nat := if tyFloat ty then (tyFm ty).fadd a b else intLane ty (laneInt ty a + laneInt ty b)
def vSub (ty a b : Nat) : Nat := if tyFloat ty then (tyFm ty).fsub a b else intLane ty (laneInt ty a - laneInt ty b)
def vMul (ty a b : Nat) : Nat := if tyFloat ty then (tyFm ty).fmul a b else intLane ty (laneInt ty a * laneInt ty b)
def vFma (ty a b c : Nat) : Nat :=
  if tyFloat ty then (tyFm ty).fma a b c else intLane ty (laneInt ty a * laneInt ty b + laneInt ty c)

/-- Is a float value below another, with −0 below +0? -/
def fltBelow (x y : FV) : Bool := x.lt y || (x.isZero && y.isZero && x.neg? && !y.neg?)

/-- The larger (or smaller) of two lanes; any NaN gives the canonical NaN. -/
def vMax (ty : Nat) (smaller : Bool) (a b : Nat) : Nat :=
  if tyFloat ty then
    let f := tyFm ty
    if (f.val a).isNan || (f.val b).isNan then f.nan
    else if fltBelow (f.val a) (f.val b) != smaller then b else a
  else if decide (laneInt ty a < laneInt ty b) != smaller then b else a

/-- VCMP's relation: 0 EQ, 1 LT, 2 LE, 3 GT, 4 GE, 5 NE. -/
def vCmp (ty rel a b : Nat) : Bool :=
  if tyFloat ty then
    let x := (tyFm ty).val a
    let y := (tyFm ty).val b
    match rel with
    | 0 => x.eq y
    | 1 => x.lt y
    | 2 => x.le y
    | 3 => y.lt x
    | 4 => y.le x
    | _ => !(x.eq y)
  else
    let x := laneInt ty a
    let y := laneInt ty b
    match rel with
    | 0 => decide (x = y)
    | 1 => decide (x < y)
    | 2 => decide (x ≤ y)
    | 3 => decide (y < x)
    | 4 => decide (y ≤ x)
    | _ => decide (x ≠ y)

/-- A two-operand instruction. -/
def State.vec2 (s : State) (q u t : Nat) (e : UnitErr) (op : Nat) (types : List Nat) (f : Nat → Nat → Nat → Nat) : State :=
  s.vec q u t e op types fun s x =>
    let a := s.srcA x
    let b := s.srcB x
    some (s.toVd x fun n => f x.ty (lane x.ty a n) (lane x.ty b n))

/-- A one-operand instruction. -/
def State.vec1 (s : State) (q u t : Nat) (e : UnitErr) (op : Nat) (types : List Nat) (f : Nat → Nat → Nat) : State :=
  s.vec q u t e op types fun s x =>
    let a := s.srcA x
    some (s.toVd x fun n => f x.ty (lane x.ty a n))

def execVadd (q u t : Nat) (e : UnitErr) (s : State) : Res := .next (s.vec2 q u t e 0x44 numTypes vAdd)
def execVsub (q u t : Nat) (e : UnitErr) (s : State) : Res := .next (s.vec2 q u t e 0x45 numTypes vSub)
def execVmul (q u t : Nat) (e : UnitErr) (s : State) : Res := .next (s.vec2 q u t e 0x46 numTypes vMul)
def execVfma (q u t : Nat) (e : UnitErr) (s : State) : Res :=
  .next (s.vec q u t e 0x47 numTypes fun s x =>
    let a := s.srcA x
    let b := s.srcB x
    let c := s.srcC x
    some (s.toVd x fun n => vFma x.ty (lane x.ty a n) (lane x.ty b n) (lane x.ty c n)))
def execVdiv (q u t : Nat) (e : UnitErr) (s : State) : Res :=
  .next (s.vec2 q u t e 0x48 [0, 1] fun ty a b => (tyFm ty).fdiv a b)
def execVsqrt (q u t : Nat) (e : UnitErr) (s : State) : Res :=
  .next (s.vec1 q u t e 0x49 [0, 1] fun ty a => (tyFm ty).fsqrt a)
def execVmax (q u t : Nat) (e : UnitErr) (s : State) : Res :=
  .next (s.vec2 q u t e 0x4A numTypes fun ty a b => vMax ty false a b)
def execVmin (q u t : Nat) (e : UnitErr) (s : State) : Res :=
  .next (s.vec2 q u t e 0x4B numTypes fun ty a b => vMax ty true a b)
def execVexp (q u t : Nat) (e : UnitErr) (s : State) : Res := .next (s.vec1 q u t e 0x4C [0] fun _ a => vpExp a)
def execVtanh (q u t : Nat) (e : UnitErr) (s : State) : Res := .next (s.vec1 q u t e 0x4D [0] fun _ a => vpTanh a)

/-- VLOG: 0 AND, 1 OR, 2 XOR, 3 ANDNOT. -/
def vLog (k w a b : Nat) : Nat :=
  match k with
  | 0 => a &&& b
  | 1 => a ||| b
  | 2 => a ^^^ b
  | _ => a &&& (2 ^ w - 1 - b % 2 ^ w)

def execVlog (q u t : Nat) (e : UnitErr) (s : State) : Res :=
  .next (s.vec q u t e 0x50 anyType fun s x =>
    let a := s.srcA x
    let b := s.srcB x
    some (s.toVd x fun n => vLog (x.imm % 4) (laneBits x.ty) (lane x.ty a n) (lane x.ty b n)))

/-- VSHIFT: 0 left, 1 logical right, 2 arithmetic right. A count of the lane's width or more shifts every bit out. -/
def vShift (ty k n a : Nat) : Nat :=
  match k with
  | 0 => a * 2 ^ n % 2 ^ laneBits ty
  | 1 => a / 2 ^ n
  | _ => intLane ty (laneInt ty a / 2 ^ n)

def execVshift (q u t : Nat) (e : UnitErr) (s : State) : Res :=
  .next (s.vec q u t e 0x51 [2, 3] fun s x =>
    let a := s.srcA x
    if bits x.imm 7 2 = 3 then some (s.fault x 0x0301)
    else some (s.toVd x fun n => vShift x.ty (bits x.imm 7 2) (bits x.imm 0 7) (lane x.ty a n)))

/-- VCMP writes the active lanes' bits of M(VD[1:0]). -/
def execVcmp (q u t : Nat) (e : UnitErr) (s : State) : Res :=
  .next (s.vec q u t e 0x4E numTypes fun s x =>
    let a := s.srcA x
    let b := s.srcB x
    let m := x.vd
    if m = 0 then some (s.fault x 0x030C)
    else if 5 < x.imm then some (s.fault x 0x0301)
    else
      let new := (List.range (laneCount x.ty)).foldl (fun v n =>
        if s.active x n then putBits v (laneBit x.ty n) 1 (if vCmp x.ty x.imm (lane x.ty a n) (lane x.ty b n) then 1 else 0) else v)
        (s.vmask x.q x.t m)
      some ((s.setVmask x.q x.t m new).later x))

/-- VSEL: a lane of VA where M(IMM[1:0]) is 1, else of VB. -/
def execVsel (q u t : Nat) (e : UnitErr) (s : State) : Res :=
  .next (s.vec q u t e 0x4F anyType fun s x =>
    let a := s.srcA x
    let b := s.srcB x
    if x.imm = 0 then some (s.fault x 0x0301)
    else
      let m := s.vmask x.q x.t x.imm
      some (s.toVd x fun n => if bitAt m (laneBit x.ty n) then lane x.ty a n else lane x.ty b n))

/-- WADD: W128 sums by 06 Table 6-4. -/
def execWadd (q u t : Nat) (e : UnitErr) (s : State) : Res :=
  .next (s.vec2 q u t e 0x53 [4] fun _ a b => (w128Add (BitVec.ofNat 128 a) (BitVec.ofNat 128 b)).toNat)

/-- VW2D: the 16 W128 lanes to FP64 lanes 0-15, RNE; lanes 16-31 are not written. -/
def execVw2d (q u t : Nat) (e : UnitErr) (s : State) : Res :=
  .next (s.vec q u t e 0x54 [4] fun s x =>
    let a := s.srcA x
    let new := (List.range 16).foldl (fun v n =>
      if s.active x n then putBits v (64 * n) 64 (Fm.fp64.ieee (wOf (BitVec.ofNat 128 (lane 4 a n))).val) else v) (s.vreg x.q x.t x.vd)
    some ((s.setVreg x.q x.t x.vd new).later x))

/-- VRED: lane 0 ← the sum or maximum of VA's active lanes in ascending order, other lanes 0. With no active lane the
sum is 0, and the maximum is a value the spec does not state: a free value (DESIGN CHOICE, log entry 6). -/
def State.vred (s : State) (x : Iss) : State :=
  let a := s.srcA x
  let l := ((List.range (laneCount x.ty)).filter (s.active x)).map (lane x.ty a)
  match l with
  | [] =>
    if x.imm % 2 = 0 then (s.setVreg x.q x.t x.vd 0).later x
    else (s.drew.setVreg x.q x.t x.vd (Config.freeChoice s.fresh % 2 ^ laneBits x.ty)).later x
  | v :: vs =>
    let v := if tyFloat x.ty && ((tyFm x.ty).val v).isNan then (tyFm x.ty).nan else v
    let r := vs.foldl (fun r y => if x.imm % 2 = 0 then vAdd x.ty r y else vMax x.ty false r y) v
    (s.setVreg x.q x.t x.vd r).later x

def execVred (q u t : Nat) (e : UnitErr) (s : State) : Res :=
  .next (s.vec q u t e 0x55 numTypes fun s x => some (s.vred x))

/-- VIMM: IMM in every lane, sign-extended for 64-bit types. -/
def execVimm (q u t : Nat) (e : UnitErr) (s : State) : Res :=
  .next (s.vec q u t e 0x56 numTypes fun s x =>
    some (s.toVd x fun _ => if laneBits x.ty = 64 then toTwos 64 (sext 32 x.imm) else x.imm))

/-! ### Conversions (VCVT; 06 R126) -/

/-- The value of a lane. -/
def laneVal (ty v : Nat) : FV := if tyFloat ty then (tyFm ty).val v else FV.ofInt (laneInt ty v) 0

/-- A narrow element widened to a TYPE. To an integer type it is rounded and clamped, counted as Table 6-5 counts. -/
def widenTo (ty : Nat) (mode : RMode) (v : FV) : Nat × Cnt :=
  if tyFloat ty then ((tyFm ty).ieee v, {})
  else
    let hi : Int := 2 ^ (laneBits ty - 1)
    match v with
    | .nan => (0, { nanz := 1 })
    | .inf n => (intLane ty (if n then -hi else hi - 1), { sat := 1 })
    | .fin n m e =>
      let i := roundInt mode n m e
      if i < -hi ∨ hi ≤ i then (intLane ty (clampInt (-hi) (hi - 1) i), { sat := 1 }) else (intLane ty i, {})

/-- VCVT. SR takes the 24 low bits of VC's 32-bit lane that starts where the lane does. -/
def State.vcvt (s : State) (x : Iss) : State :=
  match fmOf (x.f 27 4) with
  | none => s.fault x 0x0301
  | some f =>
    let a := s.srcA x
    let c := s.srcC x
    let mode (n : Nat) : RMode := if x.f 25 2 = 0 then .rne else .sr (bits c (32 * laneBit x.ty n) 24)
    let on := (List.range (laneCount x.ty)).filter (s.active x)
    let old := s.vreg x.q x.t x.vd
    let r : Nat × Cnt :=
      if x.f 31 1 = 0 then
        let res := on.map fun n => (n, f.conv (mode n) (tyFloat x.ty) (laneVal x.ty (lane x.ty a n)))
        (res.foldl (fun v y => putBits v (f.width * y.1) f.width y.2.1) old, res.foldl (fun k y => k.add y.2.2) {})
      else
        let res := on.map fun n => (n, widenTo x.ty (mode n) (f.val (bits a (f.width * n) f.width)))
        (res.foldl (fun v y => putBits v (laneBits x.ty * y.1) (laneBits x.ty) y.2.1) old, res.foldl (fun k y => k.add y.2.2) {})
    ((s.setVreg x.q x.t x.vd r.1).count x.q (s.quadLog x.q) x.src r.2).later x

def execVcvt (q u t : Nat) (e : UnitErr) (s : State) : Res :=
  .next (s.vec q u t e 0x52 numTypes fun s x => some (s.vcvt x))

/-! ### Loads, stores and ports -/

/-- VLD: 256 bytes at a 32-byte-aligned scratchpad offset; a wrong offset is ADDR. -/
def execVld (q u t : Nat) (e : UnitErr) (s : State) : Res :=
  .next (s.vec q u t e 0x40 anyType fun s x =>
    if x.off % 32 ≠ 0 then some (s.fault x 0x0306)
    else
      let r := s.spadRead x.q x.off 256
      match r.2 with
      | none => some (r.1.fault x 0x0306)
      | some bs => let v := ofLE bs; some (r.1.toVd x fun n => lane x.ty v n))

/-- VST: the active lanes of VA into 256 bytes of scratchpad. -/
def execVst (q u t : Nat) (e : UnitErr) (s : State) : Res :=
  .next (s.vec q u t e 0x41 anyType fun s x =>
    if x.off % 32 ≠ 0 then some (s.fault x 0x0306)
    else
      let a := s.srcA x
      let r := s.spadRead x.q x.off 256
      match r.2 with
      | none => some (r.1.fault x 0x0306)
      | some bs => some ((r.1.wr (spadAt x.q x.off) (leBytes 256 (s.lanes x (ofLE bs) fun n => lane x.ty a n))).later x))

/-- VIN, ready while its input queue holds them (`classReady`): the next 256 bytes. -/
def execVin (q u t : Nat) (e : UnitErr) (s : State) : Res :=
  .next (s.vec q u t e 0x42 anyType fun s x =>
    let k := 8 * x.q + x.imm % 8
    let l := tgetD [] s.eng.vq k
    let v := ofLE (l.take 256)
    some (({ s with eng := { s.eng with vq := tsetD [] s.eng.vq k (l.drop 256) } } : State).toVd x fun n => lane x.ty v n))

/-- VOUT: the 256 bytes of VA to a stream. -/
def execVout (q u t : Nat) (e : UnitErr) (s : State) : Res :=
  .next (s.vec q u t e 0x43 anyType fun s x => some ((s.putStream (portOf x.q x.imm) (leBytes 256 (s.srcA x))).later x))

end Sys2Proof.Machine
end

