-- ==== Sys2Proof/Machine/Dispatch.lean ====
section
/-! DEFINITION. What each command does: one arm per constructor of Instr, each a call of the command's meaning. -/

namespace Sys2Proof.Machine

def exec (i : Instr) (s : State) : Host.Outcome State Fault Refusal :=
  match i with
  | .sqTailDoorbell n v => Sys2Proof.Machine.execSqTailDoorbell n v s
  | .cqHeadDoorbell n v => Sys2Proof.Machine.execCqHeadDoorbell n v s
  | .submissionFetch n raw payload payloadOk => Sys2Proof.Machine.execSubmissionFetch n raw payload payloadOk s
  | .qpError n cause => Sys2Proof.Machine.execQpError n cause s
  | .createQp n => Sys2Proof.Machine.execCreateQp n s
  | .deleteQp n => Sys2Proof.Machine.execDeleteQp n s
  | .getLog n => Sys2Proof.Machine.execGetLog n s
  | .objCreate n => Sys2Proof.Machine.execObjCreate n s
  | .objFree n => Sys2Proof.Machine.execObjFree n s
  | .objMove n => Sys2Proof.Machine.execObjMove n s
  | .moveTileSwitch handle ue => Sys2Proof.Machine.execMoveTileSwitch handle ue s
  | .objSync n => Sys2Proof.Machine.execObjSync n s
  | .listPlace n => Sys2Proof.Machine.execListPlace n s
  | .collCreate n => Sys2Proof.Machine.execCollCreate n s
  | .collDrop n => Sys2Proof.Machine.execCollDrop n s
  | .build n => Sys2Proof.Machine.execBuild n s
  | .buildDone coll => Sys2Proof.Machine.execBuildDone coll s
  | .abandon n => Sys2Proof.Machine.execAbandon n s
  | .switch n => Sys2Proof.Machine.execSwitch n s
  | .switchTakesEffect isModel obj torn => Sys2Proof.Machine.execSwitchTakesEffect isModel obj torn s
  | .compact n => Sys2Proof.Machine.execCompact n s
  | .insert n => Sys2Proof.Machine.execInsert n s
  | .upsert n => Sys2Proof.Machine.execUpsert n s
  | .delete n => Sys2Proof.Machine.execDelete n s
  | .histAppend n => Sys2Proof.Machine.execHistAppend n s
  | .query n => Sys2Proof.Machine.execQuery n s
  | .modelCreate n => Sys2Proof.Machine.execModelCreate n s
  | .tableCreate n => Sys2Proof.Machine.execTableCreate n s
  | .modelLoad n => Sys2Proof.Machine.execModelLoad n s
  | .promote n => Sys2Proof.Machine.execPromote n s
  | .demote n => Sys2Proof.Machine.execDemote n s
  | .rangeLockAdmit n => Sys2Proof.Machine.execRangeLockAdmit n s
  | .writeAdmission n => Sys2Proof.Machine.execWriteAdmission n s
  | .writeDurable n => Sys2Proof.Machine.execWriteDurable n s
  | .writeApply p => Sys2Proof.Machine.execWriteApply p s
  | .destage p => Sys2Proof.Machine.execDestage p s
  | .deltaAgeTimeout coll list => Sys2Proof.Machine.execDeltaAgeTimeout coll list s
  | .foldComplete coll list => Sys2Proof.Machine.execFoldComplete coll list s
  | .cutRelease coll => Sys2Proof.Machine.execCutRelease coll s
  | .generationRelease coll => Sys2Proof.Machine.execGenerationRelease coll s
  | .deferred kind p seq coll list ids => Sys2Proof.Machine.execDeferred kind p seq coll list ids s
  | .powerLossFlush fails => Sys2Proof.Machine.execPowerLossFlush fails s
  | .flushSeal => Sys2Proof.Machine.execFlushSeal s
  | .recovery => Sys2Proof.Machine.execRecovery s
  | .stagedRestore isModel obj => Sys2Proof.Machine.execStagedRestore isModel obj s
  | .startRecordWrite inst => Sys2Proof.Machine.execStartRecordWrite inst s
  | .taskCompletionPost n m => Sys2Proof.Machine.execTaskCompletionPost n m s
  | .deadlineTick n => Sys2Proof.Machine.execDeadlineTick n s
  | .auditScan n => Sys2Proof.Machine.execAuditScan n s
  | .cqInterrupt n => Sys2Proof.Machine.execCqInterrupt n s
  | .msixUnmask v => Sys2Proof.Machine.execMsixUnmask v s
  | .bar2Access x n data => Sys2Proof.Machine.execBar2Access x n data s
  | .qCtlEn en => Sys2Proof.Machine.execQCtlEn en s
  | .qCtlSreset => Sys2Proof.Machine.execQCtlSreset s
  | .pcieLinkTraining rate width => Sys2Proof.Machine.execPcieLinkTraining rate width s
  | .doeDiscovery => Sys2Proof.Machine.execDoeDiscovery s
  | .getVersion => Sys2Proof.Machine.execGetVersion s
  | .getCapabilities => Sys2Proof.Machine.execGetCapabilities s
  | .negotiateAlgorithms => Sys2Proof.Machine.execNegotiateAlgorithms s
  | .getDigests => Sys2Proof.Machine.execGetDigests s
  | .getCertificate off n => Sys2Proof.Machine.execGetCertificate off n s
  | .challenge nonce => Sys2Proof.Machine.execChallenge nonce s
  | .getMeasurements nonce => Sys2Proof.Machine.execGetMeasurements nonce s
  | .stepWindowRequest model touched => Sys2Proof.Machine.execStepWindowRequest model touched s
  | .stepWindowOpen model barrier => Sys2Proof.Machine.execStepWindowOpen model barrier s
  | .stepWindowClose model => Sys2Proof.Machine.execStepWindowClose model s
  | .demotionWindowTimer model => Sys2Proof.Machine.execDemotionWindowTimer model s
  | .lookupStageStart model id streams => Sys2Proof.Machine.execLookupStageStart model id streams s
  | .lookupFallbackPoint n => Sys2Proof.Machine.execLookupFallbackPoint n s
  | .lateRowArrival n k => Sys2Proof.Machine.execLateRowArrival n k s
  | .loadq g parity => Sys2Proof.Machine.execLoadq g parity s
  | .setthr g => Sys2Proof.Machine.execSetthr g s
  | .maskt g parity => Sys2Proof.Machine.execMaskt g parity s
  | .clause g ops parity => Sys2Proof.Machine.execClause g ops parity s
  | .screen g ops parity => Sys2Proof.Machine.execScreen g ops parity s
  | .dot g ops parity => Sys2Proof.Machine.execDot g ops parity s
  | .abort g => Sys2Proof.Machine.execAbort g s
  | .nbuStatusPoll g => Sys2Proof.Machine.execNbuStatusPoll g s
  | .tidePass n rows => Sys2Proof.Machine.execTidePass n rows s
  | .skRegionWrite n h v => Sys2Proof.Machine.execSkRegionWrite n h v s
  | .conversionComplete n => Sys2Proof.Machine.execConversionComplete n s
  | .stackTemperatureReport n t => Sys2Proof.Machine.execStackTemperatureReport n t s
  | .bankRefresh g => Sys2Proof.Machine.execBankRefresh g s
  | .nop q u t e => Sys2Proof.Machine.execNop q u t e s
  | .loop q u t e => Sys2Proof.Machine.execLoop q u t e s
  | .endl q u t e => Sys2Proof.Machine.execEndl q u t e s
  | .setp q u t e => Sys2Proof.Machine.execSetp q u t e s
  | .halt q u t e => Sys2Proof.Machine.execHalt q u t e s
  | .sset q u t e => Sys2Proof.Machine.execSset q u t e s
  | .sadd q u t e => Sys2Proof.Machine.execSadd q u t e s
  | .swait q u t e => Sys2Proof.Machine.execSwait q u t e s
  | .sigr q u t e => Sys2Proof.Machine.execSigr q u t e s
  | .signalArrival k => Sys2Proof.Machine.execSignalArrival k s
  | .flush q u t e => Sys2Proof.Machine.execFlush q u t e s
  | .fence q u t e => Sys2Proof.Machine.execFence q u t e s
  | .mma q u t e => Sys2Proof.Machine.execMma q u t e s
  | .mmax q u t e => Sys2Proof.Machine.execMmax q u t e s
  | .drain q u t e => Sys2Proof.Machine.execDrain q u t e s
  | .spill q u t e => Sys2Proof.Machine.execSpill q u t e s
  | .reload q u t e => Sys2Proof.Machine.execReload q u t e s
  | .xfer q u t e => Sys2Proof.Machine.execXfer q u t e s
  | .srctx q u t e => Sys2Proof.Machine.execSrctx q u t e s
  | .spareSubstitution d => Sys2Proof.Machine.execSpareSubstitution d s
  | .spareSelfTest d pass => Sys2Proof.Machine.execSpareSelfTest d pass s
  | .vld q u t e => Sys2Proof.Machine.execVld q u t e s
  | .vst q u t e => Sys2Proof.Machine.execVst q u t e s
  | .vin q u t e => Sys2Proof.Machine.execVin q u t e s
  | .vout q u t e => Sys2Proof.Machine.execVout q u t e s
  | .vadd q u t e => Sys2Proof.Machine.execVadd q u t e s
  | .vsub q u t e => Sys2Proof.Machine.execVsub q u t e s
  | .vmul q u t e => Sys2Proof.Machine.execVmul q u t e s
  | .vfma q u t e => Sys2Proof.Machine.execVfma q u t e s
  | .vdiv q u t e => Sys2Proof.Machine.execVdiv q u t e s
  | .vsqrt q u t e => Sys2Proof.Machine.execVsqrt q u t e s
  | .vmax q u t e => Sys2Proof.Machine.execVmax q u t e s
  | .vmin q u t e => Sys2Proof.Machine.execVmin q u t e s
  | .vexp q u t e => Sys2Proof.Machine.execVexp q u t e s
  | .vtanh q u t e => Sys2Proof.Machine.execVtanh q u t e s
  | .vcmp q u t e => Sys2Proof.Machine.execVcmp q u t e s
  | .vsel q u t e => Sys2Proof.Machine.execVsel q u t e s
  | .vlog q u t e => Sys2Proof.Machine.execVlog q u t e s
  | .vshift q u t e => Sys2Proof.Machine.execVshift q u t e s
  | .vcvt q u t e => Sys2Proof.Machine.execVcvt q u t e s
  | .wadd q u t e => Sys2Proof.Machine.execWadd q u t e s
  | .vw2d q u t e => Sys2Proof.Machine.execVw2d q u t e s
  | .vred q u t e => Sys2Proof.Machine.execVred q u t e s
  | .vimm q u t e => Sys2Proof.Machine.execVimm q u t e s
  | .slq q u t e => Sys2Proof.Machine.execSlq q u t e s
  | .sscr q u t e => Sys2Proof.Machine.execSscr q u t e s
  | .select q u t e => Sys2Proof.Machine.execSelect q u t e s
  | .streamHitArrival q => Sys2Proof.Machine.execStreamHitArrival q s
  | .streamEnd q => Sys2Proof.Machine.execStreamEnd q s
  | .fstr q u t e => Sys2Proof.Machine.execFstr q u t e s
  | .granuleFullSignal n => Sys2Proof.Machine.execGranuleFullSignal n s
  | .ferryPieceResponse n k err => Sys2Proof.Machine.execFerryPieceResponse n k err s
  | .domainOffRetry n k again => Sys2Proof.Machine.execDomainOffRetry n k again s
  | .ferryMeterWindow h scale waited => Sys2Proof.Machine.execFerryMeterWindow h scale waited s
  | .nbcmd q u t e => Sys2Proof.Machine.execNbcmd q u t e s
  | .nblist q u t e => Sys2Proof.Machine.execNblist q u t e s
  | .instructionComplete q u t n => Sys2Proof.Machine.execInstructionComplete q u t n s
  | .watchdog q u t => Sys2Proof.Machine.execWatchdog q u t s
  | .instanceAbort inst task => Sys2Proof.Machine.execInstanceAbort inst task s
  | .schLoadGo part epoch => Sys2Proof.Machine.execSchLoadGo part epoch s
  | .schLoadDone => Sys2Proof.Machine.execSchLoadDone s
  | .schUnload inst => Sys2Proof.Machine.execSchUnload inst s
  | .unloadComplete => Sys2Proof.Machine.execUnloadComplete s
  | .narrowPathAccess src tgt len data err => Sys2Proof.Machine.execNarrowPathAccess src tgt len data err s
  | .memorySideAdd src tgt addt data fault => Sys2Proof.Machine.execMemorySideAdd src tgt addt data fault s
  | .memChfail unit how => Sys2Proof.Machine.execMemChfail unit how s
  | .dramTemperatureReport unit t => Sys2Proof.Machine.execDramTemperatureReport unit t s
  | .flashRead src c handle u res => Sys2Proof.Machine.execFlashRead src c handle u res s
  | .flashProgramFail die noSpare => Sys2Proof.Machine.execFlashProgramFail die noSpare s
  | .flashDieFail die => Sys2Proof.Machine.execFlashDieFail die s
  | .spadPwrWrite d hi h v => Sys2Proof.Machine.execSpadPwrWrite d hi h v s
  | .bankWake d b => Sys2Proof.Machine.execBankWake d b s
  | .bankOnWipeDone d b => Sys2Proof.Machine.execBankOnWipeDone d b s
  | .aliasWrite src set o data err => Sys2Proof.Machine.execAliasWrite src set o data err s
  | .mooringAcquire src d m tag => Sys2Proof.Machine.execMooringAcquire src d m tag s
  | .mooringRelease src d m tag => Sys2Proof.Machine.execMooringRelease src d m tag s
  | .farRead src d a n inFlight => Sys2Proof.Machine.execFarRead src d a n inFlight s
  | .sharedLineWrite src a data => Sys2Proof.Machine.execSharedLineWrite src a data s
  | .snoopArrival d line => Sys2Proof.Machine.execSnoopArrival d line s
  | .evictionNotice d line => Sys2Proof.Machine.execEvictionNotice d line s
  | .fcRangeWrite k h v => Sys2Proof.Machine.execFcRangeWrite k h v s
  | .poolAlloc src k lost => Sys2Proof.Machine.execPoolAlloc src k lost s
  | .poolFree src k d => Sys2Proof.Machine.execPoolFree src k d s
  | .poolCfgWrite k h v => Sys2Proof.Machine.execPoolCfgWrite k h v s
  | .portTraining p good slow => Sys2Proof.Machine.execPortTraining p good slow s
  | .trainingTimeout p => Sys2Proof.Machine.execTrainingTimeout p s
  | .flitReceive p crcOk fseq ack creds msg => Sys2Proof.Machine.execFlitReceive p crcOk fseq ack creds msg s
  | .nakResend p ack => Sys2Proof.Machine.execNakResend p ack s
  | .laneFailure p => Sys2Proof.Machine.execLaneFailure p s
  | .portDown p => Sys2Proof.Machine.execPortDown p s
  | .cableInsert p => Sys2Proof.Machine.execCableInsert p s
  | .rd k err => Sys2Proof.Machine.execRd k err s
  | .wr k => Sys2Proof.Machine.execWr k s
  | .add k fault => Sys2Proof.Machine.execAdd k fault s
  | .sig k => Sys2Proof.Machine.execSig k s
  | .rdr k => Sys2Proof.Machine.execRdr k s
  | .ack k => Sys2Proof.Machine.execAck k s
  | .col k => Sys2Proof.Machine.execCol k s
  | .messageForward k => Sys2Proof.Machine.execMessageForward k s
  | .rtoExpiry tag => Sys2Proof.Machine.execRtoExpiry tag s
  | .hello p peerPort modnum uid => Sys2Proof.Machine.execHello p peerPort modnum uid s
  | .mgtRead k => Sys2Proof.Machine.execMgtRead k s
  | .mgtWrite k => Sys2Proof.Machine.execMgtWrite k s
  | .mgtReply k => Sys2Proof.Machine.execMgtReply k s
  | .leave k => Sys2Proof.Machine.execLeave k s
  | .abortInst k => Sys2Proof.Machine.execAbortInst k s
  | .collectiveWindowWrite src g off data => Sys2Proof.Machine.execCollectiveWindowWrite src g off data s
  | .ctoExpiry g => Sys2Proof.Machine.execCtoExpiry g s
  | .collectiveStepComplete g => Sys2Proof.Machine.execCollectiveStepComplete g s
  | .groupEnable g v => Sys2Proof.Machine.execGroupEnable g v s
  | .abPortEnWrite p en => Sys2Proof.Machine.execAbPortEnWrite p en s
  | .abDupid p r => Sys2Proof.Machine.execAbDupid p r s
  | .fabricDrain l => Sys2Proof.Machine.execFabricDrain l s
  | .timeFlitExchange p rx trip => Sys2Proof.Machine.execTimeFlitExchange p rx trip s
  | .syncSilenceTimeout => Sys2Proof.Machine.execSyncSilenceTimeout s
  | .ptLockOpen src => Sys2Proof.Machine.execPtLockOpen src s
  | .ptLockClose src => Sys2Proof.Machine.execPtLockClose src s
  | .ptCfgEnWrite p en => Sys2Proof.Machine.execPtCfgEnWrite p en s
  | .partitionDrainComplete p => Sys2Proof.Machine.execPartitionDrainComplete p s
  | .ptOwnWrite kind j h v => Sys2Proof.Machine.execPtOwnWrite kind j h v s
  | .ptWipeDone kind k => Sys2Proof.Machine.execPtWipeDone kind k s
  | .ptFloorWrite k h v => Sys2Proof.Machine.execPtFloorWrite k h v s
  | .tnCfgEnWrite t en => Sys2Proof.Machine.execTnCfgEnWrite t en s
  | .quotaWrite t k quota => Sys2Proof.Machine.execQuotaWrite t k quota s
  | .lifeCycleTransition target tok fails => Sys2Proof.Machine.execLifeCycleTransition target tok fails s
  | .svnCommit kind => Sys2Proof.Machine.execSvnCommit kind s
  | .secureBoot warm => Sys2Proof.Machine.execSecureBoot warm s
  | .pldmFirmwareUpdate kind hdr body torn => Sys2Proof.Machine.execPldmFirmwareUpdate kind hdr body torn s
  | .mainPowerUp rail => Sys2Proof.Machine.execMainPowerUp rail s
  | .p48Loss => Sys2Proof.Machine.execP48Loss s
  | .pwrEnLow => Sys2Proof.Machine.execPwrEnLow s
  | .sidebandColdReset => Sys2Proof.Machine.execSidebandColdReset s
  | .sidebandWarmReset => Sys2Proof.Machine.execSidebandWarmReset s
  | .perstNLow => Sys2Proof.Machine.execPerstNLow s
  | .holdupMeasurement e => Sys2Proof.Machine.execHoldupMeasurement e s
  | .powerSample avg sample => Sys2Proof.Machine.execPowerSample avg sample s
  | .dieTemperatureSample die t => Sys2Proof.Machine.execDieTemperatureSample die t s
  | .clkLock src => Sys2Proof.Machine.execClkLock src s
  | .oscillatorFail => Sys2Proof.Machine.execOscillatorFail s
  | .refclkLoss => Sys2Proof.Machine.execRefclkLoss s
  | .wakeTokenGrant => Sys2Proof.Machine.execWakeTokenGrant s
  | .quadIdleGate q => Sys2Proof.Machine.execQuadIdleGate q s
  | .pwrQuadWrite q req => Sys2Proof.Machine.execPwrQuadWrite q req s
  | .rstReqGo level quad unit part => Sys2Proof.Machine.execRstReqGo level quad unit part s
  | .eventWindowStart => Sys2Proof.Machine.execEventWindowStart s
  | .quadRetired q => Sys2Proof.Machine.execQuadRetired q s
  | .hubLost h => Sys2Proof.Machine.execHubLost h s
  | .resumed p => Sys2Proof.Machine.execResumed p s
  | .health => Sys2Proof.Machine.execHealth s
  | .bar0AccessInvalid o n w => Sys2Proof.Machine.execBar0AccessInvalid o n w s
  | .registerWrite src o h v => Sys2Proof.Machine.execRegisterWrite src o h v s
  | .glbIntCause c => Sys2Proof.Machine.execGlbIntCause c s
  | .fabLockOpen src => Sys2Proof.Machine.execFabLockOpen src s
  | .fabLockClose src => Sys2Proof.Machine.execFabLockClose src s
  | .evqAckWrite l h v => Sys2Proof.Machine.execEvqAckWrite l h v s
  | .evqInterrupt l => Sys2Proof.Machine.execEvqInterrupt l s
  | .eventRecordWrite src => Sys2Proof.Machine.execEventRecordWrite src s
  | .prtCtlEnWrite en => Sys2Proof.Machine.execPrtCtlEnWrite en s
  | .perturbHoldRelease target => Sys2Proof.Machine.execPerturbHoldRelease target s
  | .attn => Sys2Proof.Machine.execAttn s
  | .coolLeak wet => Sys2Proof.Machine.execCoolLeak wet s
  | .coolantSensorRead inlet outlet => Sys2Proof.Machine.execCoolantSensorRead inlet outlet s
  | .osfpPresencePoll plugs => Sys2Proof.Machine.execOsfpPresencePoll plugs s
  | .modPrsntBreak => Sys2Proof.Machine.execModPrsntBreak s
  | .slotIdLatch slot valid => Sys2Proof.Machine.execSlotIdLatch slot valid s
  | .dbgAttach on => Sys2Proof.Machine.execDbgAttach on s
  | .testLogicReset => Sys2Proof.Machine.execTestLogicReset s
  | .bypass t => Sys2Proof.Machine.execBypass t s
  | .idcode t => Sys2Proof.Machine.execIdcode t s
  | .samplePreload t cells => Sys2Proof.Machine.execSamplePreload t cells s
  | .extest t cells => Sys2Proof.Machine.execExtest t cells s
  | .clamp t => Sys2Proof.Machine.execClamp t s
  | .highz t => Sys2Proof.Machine.execHighz t s
  | .tmuxsel t ws => Sys2Proof.Machine.execTmuxsel t ws s
  | .dbgacc t dr => Sys2Proof.Machine.execDbgacc t dr s
  | .consoleSt => Sys2Proof.Machine.execConsoleSt s
  | .consoleLog n => Sys2Proof.Machine.execConsoleLog n s
  | .consoleRd o => Sys2Proof.Machine.execConsoleRd o s
  | .consoleWr o v => Sys2Proof.Machine.execConsoleWr o v s
  | .cvtWindowRestart k => Sys2Proof.Machine.execCvtWindowRestart k s
  | .perstNHigh => Sys2Proof.Machine.execPerstNHigh s
  | .p12auxLoss => Sys2Proof.Machine.execP12auxLoss s
  | .p12auxReturn => Sys2Proof.Machine.execP12auxReturn s
  | .nandTemperatureReport t => Sys2Proof.Machine.execNandTemperatureReport t s
  | .keyErased t => Sys2Proof.Machine.execKeyErased t s
  | .flashRelocationComplete die => Sys2Proof.Machine.execFlashRelocationComplete die s
  | .dieLost d => Sys2Proof.Machine.execDieLost d s
  | .quayFatal => Sys2Proof.Machine.execQuayFatal s
  | .serviceDieFault src => Sys2Proof.Machine.execServiceDieFault src s
  | .identifyLed mode => Sys2Proof.Machine.execIdentifyLed mode s
  | .lifeCycleNonce => Sys2Proof.Machine.execLifeCycleNonce s

end Sys2Proof.Machine
end

