-- ==== Sys2Proof/Machine/Step.lean ====
section
/-! DEFINITION. One step of the block: the command at the front of the queue has its effect; on an empty queue a
service tick passes. -/

namespace Sys2Proof.Machine

/-- A service tick (16 R382): SVC_TIME counts while the main domain is up (DESIGN CHOICE, log entry 1). -/
def State.tick (s : State) : State := if s.pwr.phase = .up then { s with svcTime := s.svcTime + 1 } else s

/-- Take the command at the front of the queue and run it with the queue's rest; an empty queue idles for a tick. -/
def step (s : State) : Host.Outcome State Fault Refusal :=
  match s.pending with
  | [] => .next s.tick
  | c :: rest => exec c { s with pending := rest }

/-- The command that a word spells, put at the front of the queue. -/
def State.withFetchWord (s : State) (nbits w : Nat) : State :=
  match decodeTableWord nbits w with
  | some c => { s with pending := c :: s.pending }
  | none => s

end Sys2Proof.Machine
end

