-- ==== Sys2Proof/Safety.lean ====
section
/-! DEFINITION. What a safe run is, in the terms that statements use: every command answers a next state, memory and
registers keep their canonical form, and what a command leaves as it was. -/

namespace Sys2Proof.Safety

open Sys2Proof.Machine

/-- A step of the block that answers a next state. -/
def StepsOn (s : State) : Prop := ∃ t, step s = .next t

/-- Memory lists its bytes in canonical form. -/
abbrev MemOk (s : State) : Prop := memWf s.mem = true

/-- The register table is in canonical form. -/
abbrev RegsOk (s : State) : Prop := twf regRstAt s.regs = true

/-- The invariant of the two address spaces: both in canonical form. -/
abbrev Canonical (s : State) : Prop := MemOk s ∧ RegsOk s

/-- Every register but those of `rs` holds the word it held. -/
def RegsBut (rs : List Reg) (s t : State) : Prop :=
  ∀ o, (∀ r ∈ rs, o ≠ regOff r) → tget regRstAt t.regs o = tget regRstAt s.regs o

/-- Every byte of memory outside `[a, a + n)` reads as it read. -/
def MemBut (a n : Nat) (s t : State) : Prop := ∀ x, x < a ∨ a + n ≤ x → memByte t.mem x = memByte s.mem x

/-- The record of an event that `src` raised into log `l` waits behind those that waited. -/
def Raised (l src code : Nat) (data : List Byte) (s t : State) : Prop :=
  t.evt.raised = s.evt.raised ++ [(l, ⟨src, code, (s.srcSt src).seq % 2 ^ 32, s.svcTime, bytesAt data 0 16⟩)]

/-- Command `n` is fetched, has opcode `op`, and waits for nothing. -/
abbrev Fetched (n op : Nat) (c : Cmd) (s : State) : Prop := s.cmd n = some c ∧ c.op = op ∧ c.st = .ready

/-- Of the commands in flight, `n` has its result, and the others are as they were. -/
def Ended (n st sp0 sp1 : Nat) (out : List Byte) (s t : State) : Prop :=
  t.quay.cmds = mapIf (·.n = n) (fun c => { c with st := .done st sp0 sp1 out }) s.quay.cmds

/-- The next word of thread `th` is `w`, an instruction of opcode `op` in form; its unit issues, and none of that opcode ran dry
on the thread (09 R176, R177). -/
abbrev Fits (q u t op w : Nat) (th : Thread) (s : State) : Prop :=
  s.thread q u t = some th ∧ th.dryOf op = none ∧ s.nextWord q u t = some w ∧ s.unitOn q u = true ∧ iOpcode w = op ∧
    classOf op = some (iClass w) ∧ unitRuns u (iClass w) = true ∧ iThread w = t ∧ formOk op (bits w 0 92) = true

/-- It fits, meets its class's conditions, and is the first in its unit's rotation (09 R174, R178). -/
abbrev Turns (q u t op w : Nat) (th : Thread) (s : State) : Prop :=
  Fits q u t op w th s ∧ s.classReady q u t w = true ∧ s.turn q u t w = true

/-- It has its turn, waits on no semaphore, is not predicated off and signals none: it executes now. -/
abbrev Issues (q u t op w : Nat) (th : Thread) (s : State) : Prop :=
  Turns q u t op w th s ∧ iWv w = false ∧ iSv w = false ∧ (iPred w = true → th.p = true)

/-- The schedule control after an instruction has issued that waits on no semaphore: the rotation starts behind its thread. -/
abbrev rotated (q u t w : Nat) (s : State) : CtlState :=
  { s.ctl with next := tsetD 0 s.ctl.next (4 * (16 * q + u) + resOf u w) ((t + 1) % unitThreads u) }

/-- The state with that rotation. -/
abbrev turned (q u t w : Nat) (s : State) : State := { s with ctl := rotated q u t w s }

/-- A register whose writes act by the access types of its fields alone (18 R412, R415): no rule of its own says more. -/
def plainReg : Reg → Bool
  | .glbInt | .fabLock | .evqCfg _ | .evqAck _ | .prtCtl | .prtSlot _ | .meSpare _ | .skCtl _ | .skRegion _ | .skTstat _ => false
  | .schLdctl | .frySplit _ | .spadPwr0 _ | .spadPwr1 _ | .fcRange _ | .poolCfg _ | .poolAlloc _ | .poolFree _ => false
  | .qCtl | .qaSqb | .qaCqb | .qaSize | .msixData _ | .abPort _ | .abGroup _ | .abCtl | .ptLock | .ptCfg _ | .ptFloor _ => false
  | .ptOwnQ _ | .ptOwnB _ | .ptOwnH _ | .ptOwnG _ | .ptOwnS _ | .tnCfg _ | .tnTier _ | .pmCtl | .pmStat | .rstReq | .pwrQuad _ => false
  | _ => true

/-- An access to the register wakes no quad: it is no quad's own, or its quad is ON (16 R375). -/
abbrev Awake (r : Reg) (s : State) : Prop := ∀ q, regQuad r = some q → s.fld (.pwrQuad q) PWR_QUAD_STATE = 0

/-- TAP `k` was refused instruction `code`: it selects bypass, DBG_DENIED is raised, and nothing else changes (20 R456). -/
def DeniedTap (k code : Nat) (s t : State) : Prop :=
  t.tap k = { s.tap k with inst := 0xFF } ∧ (∀ j, j ≠ k → t.tap j = s.tap j) ∧ Raised modLog srcM 0x0A0C (leBytes 1 k ++ leBytes 1 code) s t ∧
    t = { s with dbg := { s.dbg with taps := t.dbg.taps }, outbox := s.outbox ++ [.jtag k 0 1], evt := t.evt }

/-- The `i`-th thing that left the module, as a write into host memory: its address and bytes. -/
def written (s : State) (i : Nat) : Nat × List Byte :=
  match s.outbox[i]? with
  | some (.hostWrite a b) => (a, b)
  | _ => (0, [])

/-- The port table is in canonical form. -/
abbrev PortsOk (s : State) : Prop := twf (fun _ => ({} : PortSt)) s.fab.ports = true

/-- Port `p` is UP, holds nothing back, and has a credit of channel `chan` and level `lvl` and room in its replay buffer. -/
abbrev Free (p chan lvl : Nat) (s : State) : Prop :=
  p < 16 ∧ s.portUp p = true ∧ (s.port p).wait = [] ∧ (s.port p).replay.length < 1024 ∧
    tgetD 0 (s.port p).sent (2 * chan + credLvl chan lvl) < landCap chan (credLvl chan lvl)

/-- The one primary port of module `dst` is `p`, to be used at level `lvl`, and it may be chosen. -/
abbrev Leads (dst p lvl : Nat) (s : State) : Prop :=
  p < 16 ∧ s.portUp p = true ∧ s.flag (.abRoute (dst % 4096)) AB_ROUTE_VALID = true ∧ s.fld (.abRoute (dst % 4096)) AB_ROUTE_PRIM = 2 ^ p ∧
    s.fld (.abRoute (dst % 4096)) AB_ROUTE_PLVL = lvl ∧ s.flag (.abPort p) AB_PORT_ROUTE = true ∧ (s.port p).dup = false ∧
    (s.port p).left = false

/-- The `k`-th landed message `m` came by port `p`, which is UP, is of type `t`, and is for this module. -/
abbrev Landed (k p t : Nat) (m : Msg) (s : State) : Prop :=
  p < 16 ∧ s.portUp p = true ∧ s.landed k = some (p, m) ∧ m.mtype = t ∧ m.dst = s.modNum

/-- The same for a management message with opcode `op`, which has come to the end of its path. -/
abbrev Managed (k p op : Nat) (m : Msg) (s : State) : Prop :=
  p < 16 ∧ s.portUp p = true ∧ s.landed k = some (p, m) ∧ m.mtype = 0x30 ∧ m.rlen = 0 ∧ leAt m.data 0 1 = op

/-- The landing credit of a message returns by its port. -/
abbrev credOf (p : Nat) (m : Msg) : Out := .linkCred p m.vc (credLvl m.vc m.lvl)

/-- The response of type `t` to request `m`: it is the requester's channel 1, with the request's tag. -/
abbrev reply (t st lvl : Nat) (data : List Byte) (m : Msg) (s : State) : Msg :=
  { mtype := t, vc := 1, lvl := lvl, dst := m.src, src := s.modNum, srcid := m.srcid, tag := m.tag, spart := m.dpart, dpart := m.spart
    status := st, len := data.length, data := data }

/-- No other stream of its quad runs an FSTR. -/
abbrev Alone (n : Nat) (s : State) : Prop := ∀ m < 64, 64 * (n / 64) + m ≠ n → (s.stream (64 * (n / 64) + m)).job = none

/-- The streams' table is in canonical form. -/
abbrev StreamsOk (s : State) : Prop := twf (fun _ => ({} : StreamSt)) s.fry.streams = true

/-- A stream but for which of its reads its hub has served. -/
def unserved (st : StreamSt) : StreamSt :=
  { st with job := st.job.map fun j => { j with out := j.out.map fun p => { p with served := false } } }

/-- The thread past its instruction. -/
abbrev past (th : Thread) : Thread := { th with pos := th.pos + 1, waitAt := none }

end Sys2Proof.Safety
end

