-- ==== Sys2Proof/WellFormed.lean ====
section
/-! DEFINITION. Well-formed commands: operands in the ranges that the map of the module gives them (12 Table 12-6 for
units and dies, 18 Table 18-4 for register indices, 13, 14 and 15 for their tables). An ill-formed command names something the
module does not have; its meaning then changes nothing but what an access to nothing changes. -/

namespace Sys2Proof

/-- A value of `w` bits. -/
def fits (w n : Nat) : Bool := decide (n < 2 ^ w)

/-- The value of a register write fits its half. -/
def halfFits (h : Half) (v : Nat) : Bool :=
  match h with
  | .whole => fits 64 v
  | .low => fits 32 v
  | .high => fits 32 v

/-- Threads of a quad's unit: 4 in an engine, 8 in the VP, 4 in the SU, 2 in the XU, 16 in a ferry (09 R174). -/
def threadsOf (u : Nat) : Nat :=
  if u < 4 then 4 else if u = 4 then 8 else if u = 5 then 4 else if u = 6 then 2 else if 8 ≤ u ∧ u < 12 then 16 else 0

/-- The object of a switch or a restore: one of 64 models, or one of 1,024 collections. -/
def objFits (isModel : Bool) (obj : Nat) : Bool := if isModel then decide (obj < 64) else decide (obj < 1024)

/-- A write carries as many bytes as the access says. -/
def dataFits (n : Nat) (data : Option (List Byte)) : Bool :=
  match data with
  | none => true
  | some bs => decide (bs.length = n)

/-- The fields of a message fit its header (14 Table 14-5). -/
def msgFits (m : Msg) : Bool :=
  fits 8 m.mtype && fits 3 m.vc && fits 1 m.lvl && fits 4 m.hops && fits 12 m.dst && fits 12 m.src && fits 12 m.srcid &&
    fits 16 m.tag && fits 16 m.epoch && decide (m.len ≤ 256) && fits 6 m.spart && fits 6 m.dpart && fits 64 m.addr &&
    fits 32 m.aux && fits 8 m.status && fits 4 m.rlen && decide (m.data.length ≤ 256)

/-- Granules of a kind: quads, banks, HBM3E slices, GDDR7 slices, sketch-stack banks (15 Table 15-1). -/
def granulesOf (kind : Nat) : Nat :=
  match kind with
  | 0 => 80
  | 1 => 1280
  | 2 => 432
  | 3 => 144
  | 4 => 4096
  | _ => 0

/-- The operand ranges of each command. -/
def wellFormed (i : Instr) : Bool :=
  match i with
  | .sqTailDoorbell n v => decide (n < 4096) && fits 32 v
  | .cqHeadDoorbell n v => decide (n < 4096) && fits 32 v
  | .submissionFetch n raw _ _ => decide (n < 4096) && decide (raw.length = 64 ∨ raw.length = 128)
  | .qpError n cause => decide (n < 4096) && decide (cause < 4)
  | .createQp _ => true
  | .deleteQp _ => true
  | .getLog _ => true
  | .objCreate _ => true
  | .objFree _ => true
  | .objMove _ => true
  | .moveTileSwitch _ _ => true
  | .objSync _ => true
  | .listPlace _ => true
  | .collCreate _ => true
  | .collDrop _ => true
  | .build _ => true
  | .buildDone coll => decide (coll < 1024)
  | .abandon _ => true
  | .switch _ => true
  | .switchTakesEffect isModel obj _ => objFits isModel obj
  | .compact _ => true
  | .insert _ => true
  | .upsert _ => true
  | .delete _ => true
  | .histAppend _ => true
  | .query _ => true
  | .modelCreate _ => true
  | .tableCreate _ => true
  | .modelLoad _ => true
  | .promote _ => true
  | .demote _ => true
  | .rangeLockAdmit _ => true
  | .writeAdmission _ => true
  | .writeDurable _ => true
  | .writeApply p => decide (p < 64)
  | .destage p => decide (p < 64)
  | .deltaAgeTimeout coll _ => decide (coll < 1024)
  | .foldComplete coll _ => decide (coll < 1024)
  | .cutRelease coll => decide (coll < 1024)
  | .generationRelease coll => decide (coll < 1024)
  | .deferred _ _ _ _ _ _ => true
  | .powerLossFlush _ => true
  | .flushSeal => true
  | .recovery => true
  | .stagedRestore isModel obj => objFits isModel obj
  | .startRecordWrite inst => decide (inst < 80)
  | .taskCompletionPost _ m => m.shards.all fun x => fits 12 x.modnum
  | .deadlineTick _ => true
  | .auditScan _ => true
  | .cqInterrupt _ => true
  | .msixUnmask v => decide (v < 2048)
  | .bar2Access _ _ _ => true
  | .qCtlEn _ => true
  | .qCtlSreset => true
  | .pcieLinkTraining _ _ => true
  | .doeDiscovery => true
  | .getVersion => true
  | .getCapabilities => true
  | .negotiateAlgorithms => true
  | .getDigests => true
  | .getCertificate _ _ => true
  | .challenge nonce => decide (nonce.length = 32)
  | .getMeasurements nonce => decide (nonce.length = 32)
  | .stepWindowRequest model _ => decide (model < 64)
  | .stepWindowOpen model _ => decide (model < 64)
  | .stepWindowClose model => decide (model < 64)
  | .demotionWindowTimer model => decide (model < 64)
  | .lookupStageStart model _ _ => decide (model < 64)
  | .lookupFallbackPoint _ => true
  | .lateRowArrival _ _ => true
  | .loadq g _ => decide (g < 4096)
  | .setthr g => decide (g < 4096)
  | .maskt g _ => decide (g < 4096)
  | .clause g _ _ => decide (g < 4096)
  | .screen g _ _ => decide (g < 4096)
  | .dot g _ _ => decide (g < 4096)
  | .abort g => decide (g < 4096)
  | .nbuStatusPoll g => decide (g < 4096)
  | .tidePass n _ => decide (n < 8)
  | .skRegionWrite n h v => decide (n < 8) && halfFits h v
  | .conversionComplete n => decide (n < 8)
  | .stackTemperatureReport n t => decide (n < 8) && fits 8 t
  | .bankRefresh g => decide (g < 4096)
  | .nop q u t _ => decide (q < 80) && decide (t < threadsOf u)
  | .loop q u t _ => decide (q < 80) && decide (t < threadsOf u)
  | .endl q u t _ => decide (q < 80) && decide (t < threadsOf u)
  | .setp q u t _ => decide (q < 80) && decide (t < threadsOf u)
  | .halt q u t _ => decide (q < 80) && decide (t < threadsOf u)
  | .sset q u t _ => decide (q < 80) && decide (t < threadsOf u)
  | .sadd q u t _ => decide (q < 80) && decide (t < threadsOf u)
  | .swait q u t _ => decide (q < 80) && decide (t < threadsOf u)
  | .sigr q u t _ => decide (q < 80) && decide (t < threadsOf u)
  | .signalArrival _ => true
  | .flush q u t _ => decide (q < 80) && decide (t < threadsOf u)
  | .fence q u t _ => decide (q < 80) && decide (t < threadsOf u)
  | .mma q u t _ => decide (q < 80) && decide (t < threadsOf u)
  | .mmax q u t _ => decide (q < 80) && decide (t < threadsOf u)
  | .drain q u t _ => decide (q < 80) && decide (t < threadsOf u)
  | .spill q u t _ => decide (q < 80) && decide (t < threadsOf u)
  | .reload q u t _ => decide (q < 80) && decide (t < threadsOf u)
  | .xfer q u t _ => decide (q < 80) && decide (t < threadsOf u)
  | .srctx q u t _ => decide (q < 80) && decide (t < threadsOf u)
  | .spareSubstitution d => decide (d < 20)
  | .spareSelfTest d _ => decide (d < 20)
  | .vld q u t _ => decide (q < 80) && decide (t < threadsOf u)
  | .vst q u t _ => decide (q < 80) && decide (t < threadsOf u)
  | .vin q u t _ => decide (q < 80) && decide (t < threadsOf u)
  | .vout q u t _ => decide (q < 80) && decide (t < threadsOf u)
  | .vadd q u t _ => decide (q < 80) && decide (t < threadsOf u)
  | .vsub q u t _ => decide (q < 80) && decide (t < threadsOf u)
  | .vmul q u t _ => decide (q < 80) && decide (t < threadsOf u)
  | .vfma q u t _ => decide (q < 80) && decide (t < threadsOf u)
  | .vdiv q u t _ => decide (q < 80) && decide (t < threadsOf u)
  | .vsqrt q u t _ => decide (q < 80) && decide (t < threadsOf u)
  | .vmax q u t _ => decide (q < 80) && decide (t < threadsOf u)
  | .vmin q u t _ => decide (q < 80) && decide (t < threadsOf u)
  | .vexp q u t _ => decide (q < 80) && decide (t < threadsOf u)
  | .vtanh q u t _ => decide (q < 80) && decide (t < threadsOf u)
  | .vcmp q u t _ => decide (q < 80) && decide (t < threadsOf u)
  | .vsel q u t _ => decide (q < 80) && decide (t < threadsOf u)
  | .vlog q u t _ => decide (q < 80) && decide (t < threadsOf u)
  | .vshift q u t _ => decide (q < 80) && decide (t < threadsOf u)
  | .vcvt q u t _ => decide (q < 80) && decide (t < threadsOf u)
  | .wadd q u t _ => decide (q < 80) && decide (t < threadsOf u)
  | .vw2d q u t _ => decide (q < 80) && decide (t < threadsOf u)
  | .vred q u t _ => decide (q < 80) && decide (t < threadsOf u)
  | .vimm q u t _ => decide (q < 80) && decide (t < threadsOf u)
  | .slq q u t _ => decide (q < 80) && decide (t < threadsOf u)
  | .sscr q u t _ => decide (q < 80) && decide (t < threadsOf u)
  | .select q u t _ => decide (q < 80) && decide (t < threadsOf u)
  | .streamHitArrival q => decide (q < 80)
  | .streamEnd q => decide (q < 80)
  | .fstr q u t _ => decide (q < 80) && decide (t < threadsOf u)
  | .granuleFullSignal _ => true
  | .ferryPieceResponse _ _ _ => true
  | .domainOffRetry _ _ _ => true
  | .ferryMeterWindow h scale _ => decide (h < 4) && decide (scale ≤ 64)
  | .nbcmd q u t _ => decide (q < 80) && decide (t < threadsOf u)
  | .nblist q u t _ => decide (q < 80) && decide (t < threadsOf u)
  | .instructionComplete q u t _ => decide (q < 80) && decide (t < threadsOf u)
  | .watchdog q u t => decide (q < 80) && decide (t < threadsOf u)
  | .instanceAbort inst _ => decide (inst < 80)
  | .schLoadGo part epoch => decide (part < 64) && fits 16 epoch
  | .schLoadDone => true
  | .schUnload inst => decide (inst < 80)
  | .unloadComplete => true
  | .narrowPathAccess _ _ len data _ => decide (len ≤ 256) && dataFits len data
  | .memorySideAdd _ _ _ data _ => decide (data.length ≤ 256)
  | .memChfail unit _ => decide (unit < 64)
  | .dramTemperatureReport unit t => decide (unit < 64) && fits 8 t
  | .flashRead _ _ handle _ _ => fits 40 handle
  | .flashProgramFail _ _ => true
  | .flashDieFail _ => true
  | .spadPwrWrite d _ h v => decide (d < 20) && halfFits h v
  | .bankWake d b => decide (d < 20) && decide (b < 64)
  | .bankOnWipeDone d b => decide (d < 20) && decide (b < 64)
  | .aliasWrite _ _ _ data _ => decide (4 ≤ data.length) && decide (data.length ≤ 32) && decide (data.length % 4 = 0)
  | .mooringAcquire _ d m tag => decide (d < 20) && decide (m < 2048) && fits 16 tag
  | .mooringRelease _ d m tag => decide (d < 20) && decide (m < 2048) && fits 16 tag
  | .farRead _ d a _ _ => decide (d < 20) && fits 40 a
  | .sharedLineWrite _ a _ => fits 40 a
  | .snoopArrival d _ => decide (d < 20)
  | .evictionNotice d _ => decide (d < 20)
  | .fcRangeWrite k h v => decide (k < 64) && halfFits h v
  | .poolAlloc _ k _ => decide (k < 320)
  | .poolFree _ k d => decide (k < 320) && fits 64 d
  | .poolCfgWrite k h v => decide (k < 320) && halfFits h v
  | .portTraining p good _ => decide (p < 16) && fits 9 good
  | .trainingTimeout p => decide (p < 16)
  | .flitReceive p _ _ _ _ msg => decide (p < 16) && (msg.all msgFits)
  | .nakResend p _ => decide (p < 16)
  | .laneFailure p => decide (p < 16)
  | .portDown p => decide (p < 16)
  | .cableInsert p => decide (12 ≤ p ∧ p < 16)
  | .rd _ _ => true
  | .wr _ => true
  | .add _ _ => true
  | .sig _ => true
  | .rdr _ => true
  | .ack _ => true
  | .col _ => true
  | .messageForward _ => true
  | .rtoExpiry _ => true
  | .hello p peerPort modnum uid => decide (p < 16) && decide (peerPort < 16) && decide (modnum < 1024) && fits 64 uid
  | .mgtRead _ => true
  | .mgtWrite _ => true
  | .mgtReply _ => true
  | .leave _ => true
  | .abortInst _ => true
  | .collectiveWindowWrite _ g _ _ => decide (g < 64)
  | .ctoExpiry g => decide (g < 64)
  | .collectiveStepComplete g => decide (g < 64)
  | .groupEnable g v => decide (g < 64) && fits 64 v
  | .abPortEnWrite p _ => decide (p < 16)
  | .abDupid p r => decide (p < 16) && decide (r < 16)
  | .fabricDrain l => l.all fun n => decide (n < 4)
  | .timeFlitExchange p _ _ => decide (p < 16)
  | .syncSilenceTimeout => true
  | .ptLockOpen _ => true
  | .ptLockClose _ => true
  | .ptCfgEnWrite p _ => decide (p < 64)
  | .partitionDrainComplete p => decide (p < 64)
  | .ptOwnWrite kind j h v => decide (kind < 5) && decide (8 * j < granulesOf kind) && halfFits h v
  | .ptWipeDone kind i => decide (kind < 5) && decide (i < granulesOf kind)
  | .ptFloorWrite k h v => decide (k < 256) && halfFits h v
  | .tnCfgEnWrite t _ => decide (t < 1024)
  | .quotaWrite t k quota => decide (t < 1024) && decide (k < 4) && fits 32 quota
  | .lifeCycleTransition target tok _ => decide (target < 5) && (tok.all fun b => decide (b.length = 144))
  | .svnCommit kind => decide (1 ≤ kind ∧ kind < 8)
  | .secureBoot _ => true
  | .pldmFirmwareUpdate kind hdr _ _ => decide (1 ≤ kind ∧ kind < 8) && decide (hdr.length = 256)
  | .mainPowerUp _ => true
  | .p48Loss => true
  | .pwrEnLow => true
  | .sidebandColdReset => true
  | .sidebandWarmReset => true
  | .perstNLow => true
  | .holdupMeasurement _ => true
  | .powerSample _ _ => true
  | .dieTemperatureSample die t => decide (die < 24) && fits 8 t
  | .clkLock _ => true
  | .oscillatorFail => true
  | .refclkLoss => true
  | .wakeTokenGrant => true
  | .quadIdleGate q => decide (q < 80)
  | .pwrQuadWrite q req => decide (q < 80) && decide (req < 4)
  | .rstReqGo level quad unit part => decide (level < 4) && decide (quad < 80) && decide (unit < 16) && decide (part < 64)
  | .eventWindowStart => true
  | .quadRetired q => decide (q < 80)
  | .hubLost h => decide (h < 4)
  | .resumed p => decide (p < 64)
  | .health => true
  | .bar0AccessInvalid o n _ => decide (o < 2 ^ 26) && decide (1 ≤ n ∧ n ≤ 64)
  | .registerWrite _ o h v => decide (o < 2 ^ 26) && halfFits h v
  | .glbIntCause c => decide (c < 5)
  | .fabLockOpen _ => true
  | .fabLockClose _ => true
  | .evqAckWrite l h v => decide (l ≤ 64) && halfFits h v
  | .evqInterrupt l => decide (l ≤ 64)
  | .eventRecordWrite _ => true
  | .prtCtlEnWrite _ => true
  | .perturbHoldRelease _ => true
  | .attn => true
  | .coolLeak _ => true
  | .coolantSensorRead inlet outlet => fits 8 inlet && fits 8 outlet
  | .osfpPresencePoll plugs => decide (plugs.length = 4)
  | .modPrsntBreak => true
  | .slotIdLatch slot _ => decide (slot < 16)
  | .dbgAttach _ => true
  | .testLogicReset => true
  | .bypass t => decide (t < 32)
  | .idcode t => decide (t < 32)
  | .samplePreload t _ => decide (t < 32)
  | .extest t _ => decide (t < 32)
  | .clamp t => decide (t < 32)
  | .highz t => decide (t < 32)
  | .tmuxsel t ws => decide (t < 32) && decide (ws.length = 16)
  | .dbgacc t _ => decide (t < 32)
  | .consoleSt => true
  | .consoleLog n => decide (1 ≤ n ∧ n ≤ 64)
  | .consoleRd o => decide (o < 2 ^ 26)
  | .consoleWr o v => decide (o < 2 ^ 26) && fits 64 v
  | .cvtWindowRestart k => decide (k < 84)
  | .perstNHigh => true
  | .p12auxLoss => true
  | .p12auxReturn => true
  | .nandTemperatureReport t => fits 8 t
  | .keyErased t => decide (t < 1024)
  | .flashRelocationComplete _ => true
  | .dieLost d => decide (d < 20)
  | .quayFatal => true
  | .serviceDieFault src => decide (src = 0x510 ∨ src = 0x520 ∨ src = 0x530 ∨ src = 0x531)
  | .identifyLed mode => decide (mode < 3)
  | .lifeCycleNonce => true

end Sys2Proof
end

