-- ==== Sys2Proof/Certificates/Slice0/Obligations.lean ====
section
/-! DEFINITION. The statements about the model, family by family. Each says for which states and operands a command has
its own effect, what the next state then holds, and what it leaves as it was. -/

open Sys2Proof Sys2Proof.Machine Sys2Proof.Safety

/-- For every command, state and rest of the queue: a step of the state with that command in front is exec of the
command on the state with the rest as its queue; with an empty queue SVC_TIME counts one tick while the main domain is
up, and nothing else changes (the idle tick is the model's choice, log entry 1). -/
def Obligations.StepRunsTheFrontCommand : Prop :=
  (∀ (c : Instr) (s : State) (rest : List Instr),
    step { s with pending := c :: rest } = exec c { s with pending := rest }) ∧
  (∀ s : State, s.pending = [] → s.pwr.phase = .up →
    step s = .next { s with svcTime := s.svcTime + 1 }) ∧
  (∀ s : State, s.pending = [] → s.pwr.phase ≠ .up →
    step s = .next s)

/-- The state after reset has memory and registers in canonical form, no command waiting, nothing sent, and its
partitions, instances and queue pairs absent. -/
def Obligations.ResetIsCanonical : Prop :=
  Canonical State.reset ∧ State.reset.pending = [] ∧ State.reset.outbox = [] ∧
    (∀ p < 64, State.reset.partOn p = false) ∧ (∀ i, State.reset.inst i = none) ∧ (∀ n, State.reset.qp n = {})

/-- For every state whose memory and register table are in canonical form (keys rising, no entry equal to what an
unlisted key reads as), and every command at the front of its queue: the next state has both in canonical form too. With
it equal contents are equal data, and a register or byte written reads back. -/
def Obligations.StepKeepsCanonicalForm : Prop :=
  ∀ s t : State, Canonical s → step s = .next t →
    Canonical t

/-- For every state and its next state, with memory and registers in canonical form: the queue loses exactly its front
command (no command puts one in), the list of what left the module keeps all it held as its beginning, and the counter
of free values never falls, so that no free value is drawn a second time. -/
def Obligations.StepTakesExactlyTheFront : Prop :=
  ∀ s t : State, Canonical s → step s = .next t →
    t.pending = s.pending.tail ∧ s.outbox <+: t.outbox ∧ s.fresh ≤ t.fresh

/-- For every array of the register map and every index in its range: the register of that index has the offset base +
stride * index, that offset is a multiple of 8 below 64 MiB, and the register found at that offset is the register
itself; the four TN_TIER words of each tenant likewise. So no two registers share an offset. -/
def Obligations.RegisterMapIsOneToOne : Prop :=
  (∀ a ∈ regArrays, ∀ i < a.2.2.1, regOff (a.2.2.2 i) = a.1 + a.2.1 * i ∧
    regAt (a.1 + a.2.1 * i) = some (a.2.2.2 i) ∧ (a.1 + a.2.1 * i) % 8 = 0 ∧ a.1 + a.2.1 * i < 2 ^ 26) ∧
  (∀ k < 4096, regAt (regOff (.tnTier k)) = some (.tnTier k) ∧ regOff (.tnTier k) % 8 = 0)

/-- EVENT_RECORD_WRITE of a source takes its oldest raised record. Within 4,096 records a window it is appended to its
log with the tick of writing, the ring keeping its last 65,536 records, LSN advances by 1, and the source has written
one more; past the limit it is dropped and no log changes. No other log changes, no register but the log's EVQ_LSN and
EVQ_STAT, and no other part of the state but the console's and attention's and what leaves the module. -/
def Obligations.EventRecordReachesItsLog : Prop :=
  (∀ (s : State) (src l : Nat) (r : EvRec) (pre post : List (Nat × EvRec)), RegsOk s → s.evt.raised = pre ++ (l, r) ::
    post → (∀ e ∈ pre, e.2.src ≠ src) → r.src = src → (s.srcSt src).inWin < 4096 →
    ∃ t : State, exec (.eventRecordWrite src) s = .next t ∧ t.evt.raised = pre ++ post ∧
          t.log l = (s.log l ++ [LogRec.mk r s.svcTime]).drop ((s.log l).length + 1 - 65536) ∧ (∀ k, k ≠ l → t.log k = s.log k) ∧
          (t.srcSt src).inWin = (s.srcSt src).inWin + 1 ∧
          t.fld (.evqLsn l) EVQ_LSN_LSN = (s.fld (.evqLsn l) EVQ_LSN_LSN + 1) % 2 ^ 64 ∧
          RegsBut [.evqLsn l, .evqStat l] s t ∧
          t = { s with regs := t.regs, evt := t.evt, dbg := t.dbg, outbox := t.outbox }) ∧
  (∀ (s : State) (src l : Nat) (r : EvRec) (pre post : List (Nat × EvRec)), s.evt.raised = pre ++ (l, r) :: post → (∀
    e ∈ pre, e.2.src ≠ src) → r.src = src → 4096 ≤ (s.srcSt src).inWin →
    ∃ t : State, exec (.eventRecordWrite src) s = .next t ∧ t.evt.raised = pre ++ post ∧ t.evt.logs = s.evt.logs ∧
          t = { s with evt := t.evt })

/-- Once SVC_TIME has left the millisecond in which the counts run, EVENT_WINDOW_START makes the window that of SVC_TIME
and every source's count and drops zero; a source that alone had dropped records of one log puts an EVT_DROPPED record
(0x0B05) with the first SEQ and the count into that log. Memory stays. -/
def Obligations.EventWindowRestartsCounts : Prop :=
  (∀ s : State, (twf (fun _ => ({} : SrcSt)) s.evt.srcs = true) → s.evt.win < s.svcTime / 400000 →
    ∃ t : State, exec .eventWindowStart s = .next t ∧ t.evt.win = s.svcTime / 400000 ∧
          (∀ src, (t.srcSt src).inWin = 0 ∧ (t.srcSt src).drops = []) ∧ t.part.floorSaid = [] ∧
          t = { s with regs := t.regs, evt := t.evt, part := t.part, dbg := t.dbg, outbox := t.outbox }) ∧
  (∀ (s : State) (src : Nat) (k : SrcSt) (d : Dropped), s.evt.srcs = [(src, k)] → k.drops = [d] → s.evt.win <
    s.svcTime / 400000 →
    ∃ t : State, exec .eventWindowStart s = .next t ∧
          t.log d.log = (s.log d.log ++ [LogRec.mk ⟨src, 0x0B05, k.seq % 2 ^ 32, s.svcTime,
            bytesAt (leBytes 4 d.first ++ leBytes 4 d.count) 0 16⟩ s.svcTime]).drop ((s.log d.log).length + 1 - 65536))

/-- A whole write of EVQ_ACK not above LSN replaces ACK and clears PEND; one above LSN, or a 4-byte one, changes
nothing. With EN = 1 and PEND = 0, at THRESH unacknowledged records or once the oldest has waited ITIME (not 0),
EVQ_INTERRUPT sets PEND; with EN = 0, with PEND = 1, or while neither holds it changes nothing. GLB_INT_CAUSE takes the
message owed for its cause. Each sends its message on its vector (EVQ_CFG.VEC, GVEC), or sets that vector's pending bit
while it is masked. Nothing else changes. -/
def Obligations.EventQueuesAndGlobalInterrupts : Prop :=
  (∀ (s : State) (l v : Nat), RegsOk s → s.pwrGood = true → l ≤ 64 → v % 2 ^ 64 ≤ s.fld (.evqLsn l) EVQ_LSN_LSN →
    ∃ t : State, exec (.evqAckWrite l .whole v) s = .next t ∧ t.fld (.evqAck l) EVQ_ACK_ACK = v % 2 ^ 64 ∧
          t.fld (.evqStat l) EVQ_STAT_PEND = 0 ∧ t.fld (.evqStat l) EVQ_STAT_OVWR = s.fld (.evqStat l) EVQ_STAT_OVWR ∧
          RegsBut [.evqAck l, .evqStat l] s t ∧ t = { s with regs := t.regs }) ∧
  (∀ (s : State) (l v : Nat) (h : Half), l ≤ 64 → (h ≠ .whole ∨ s.fld (.evqLsn l) EVQ_LSN_LSN < v % 2 ^ 64) →
    exec (.evqAckWrite l h v) s = .next s) ∧
  (∀ (s : State) (l k : Nat), RegsOk s → l ≤ 64 → s.flag (.evqCfg l) EVQ_CFG_EN = true → s.flag (.evqStat l)
    EVQ_STAT_PEND = false → (s.fld (.evqCfg l) EVQ_CFG_THRESH ≤ s.fld (.evqLsn l) EVQ_LSN_LSN - s.fld (.evqAck l)
    EVQ_ACK_ACK ∨ (s.fld (.evqAck l) EVQ_ACK_ACK < s.fld (.evqLsn l) EVQ_LSN_LSN ∧ s.fld (.evqCfg l) EVQ_CFG_ITIME ≠ 0
    ∧ s.recTime l (s.fld (.evqAck l) EVQ_ACK_ACK) = some k ∧ s.fld (.evqCfg l) EVQ_CFG_ITIME * tickUs ≤ s.svcTime -
    k)) →
    ∃ t : State, exec (.evqInterrupt l) s = .next t ∧ t.fld (.evqStat l) EVQ_STAT_PEND = 1 ∧
          (if s.flag (.msixData (s.fld (.evqCfg l) EVQ_CFG_VEC)) MSIX_DATA_MASK then
             t.outbox = s.outbox ∧
             bitAt (t.reg (.msixPba (s.fld (.evqCfg l) EVQ_CFG_VEC / 64))).toNat (s.fld (.evqCfg l) EVQ_CFG_VEC % 64) = true ∧
             RegsBut [.evqStat l, .msixPba (s.fld (.evqCfg l) EVQ_CFG_VEC / 64)] s t
           else t.outbox = s.outbox ++ [Out.msix (s.reg (.msixAddr (s.fld (.evqCfg l) EVQ_CFG_VEC))).toNat
               (s.fld (.msixData (s.fld (.evqCfg l) EVQ_CFG_VEC)) MSIX_DATA_DATA)] ∧
             RegsBut [.evqStat l] s t) ∧
          t = { s with regs := t.regs, outbox := t.outbox }) ∧
  (∀ (s : State) (l : Nat), l ≤ 64 → (s.flag (.evqCfg l) EVQ_CFG_EN = false ∨ s.flag (.evqStat l) EVQ_STAT_PEND = true
    ∨ s.evqTrigger l = false) →
    exec (.evqInterrupt l) s = .next s) ∧
  (∀ (s : State) (c : Nat) (pre post : List Nat), RegsOk s → s.evt.due = pre ++ c :: post → c ∉ pre →
    ∃ t : State, exec (.glbIntCause c) s = .next t ∧ t.evt.due = pre ++ post ∧
          (if s.flag (.msixData (s.fld .glbCtl GLB_CTL_GVEC)) MSIX_DATA_MASK then
             t.outbox = s.outbox ∧ bitAt (t.reg (.msixPba (s.fld .glbCtl GLB_CTL_GVEC / 64))).toNat (s.fld .glbCtl GLB_CTL_GVEC % 64) = true ∧
             RegsBut [.msixPba (s.fld .glbCtl GLB_CTL_GVEC / 64)] s t
           else t.outbox = s.outbox ++ [Out.msix (s.reg (.msixAddr (s.fld .glbCtl GLB_CTL_GVEC))).toNat
               (s.fld (.msixData (s.fld .glbCtl GLB_CTL_GVEC)) MSIX_DATA_DATA)] ∧ t.regs = s.regs) ∧
          t = { s with regs := t.regs, evt := t.evt, outbox := t.outbox })

/-- From the host (0x511) or the M-die (0x530): OPEN opens a lock that is closed, or that the same source holds, and
records the holder; CLOSE closes an open lock and counts it, and closing the partition lock recomputes measurement 9
over the configuration as it then stands. From any other source, and while another source holds the lock, nothing
changes. -/
def Obligations.ConfigurationLocksOpenAndClose : Prop :=
  (∀ (s : State) (src : Nat), RegsOk s → s.pwrGood = true → (src = srcHost ∨ src = srcM) → (s.flag .fabLock
    FAB_LOCK_OPEN = false ∨ s.fld .fabLock FAB_LOCK_HOLDER = src) →
    ∃ t : State, exec (.fabLockOpen src) s = .next t ∧ t.fld .fabLock FAB_LOCK_OPEN = 1 ∧ t.fld .fabLock FAB_LOCK_HOLDER = src ∧
          t.fld .fabLock FAB_LOCK_CLOSES = s.fld .fabLock FAB_LOCK_CLOSES ∧ RegsBut [.fabLock] s t ∧ t = { s with regs := t.regs }) ∧
  (∀ (s : State) (src : Nat), RegsOk s → s.pwrGood = true → (src = srcHost ∨ src = srcM) → (s.flag .ptLock
    PT_LOCK_OPEN = false ∨ s.fld .ptLock PT_LOCK_HOLDER = src) →
    ∃ t : State, exec (.ptLockOpen src) s = .next t ∧ t.fld .ptLock PT_LOCK_OPEN = 1 ∧ t.fld .ptLock PT_LOCK_HOLDER = src ∧
          t.fld .ptLock PT_LOCK_CLOSES = s.fld .ptLock PT_LOCK_CLOSES ∧ RegsBut [.ptLock] s t ∧ t = { s with regs := t.regs }) ∧
  (∀ (s : State) (src : Nat), RegsOk s → s.pwrGood = true → (src = srcHost ∨ src = srcM) → s.flag .fabLock
    FAB_LOCK_OPEN = true →
    ∃ t : State, exec (.fabLockClose src) s = .next t ∧ t.fld .fabLock FAB_LOCK_OPEN = 0 ∧
          t.fld .fabLock FAB_LOCK_CLOSES = (s.fld .fabLock FAB_LOCK_CLOSES + 1) % 2 ^ 32 ∧ RegsBut [.fabLock] s t ∧ t = { s with regs := t.regs }) ∧
  (∀ (s : State) (src : Nat), RegsOk s → s.pwrGood = true → (src = srcHost ∨ src = srcM) → s.flag .ptLock PT_LOCK_OPEN
    = true →
    ∃ t : State, exec (.ptLockClose src) s = .next t ∧ t.fld .ptLock PT_LOCK_OPEN = 0 ∧
          t.fld .ptLock PT_LOCK_CLOSES = (s.fld .ptLock PT_LOCK_CLOSES + 1) % 2 ^ 32 ∧ t.trust = { s.trust with meas := tsetD [] s.trust.meas 9 (Config.sha384 t.partConfig) } ∧
          RegsBut [.ptLock] s t ∧ t = { s with regs := t.regs, trust := t.trust }) ∧
  (∀ (s : State) (src : Nat), src ≠ srcHost → src ≠ srcM →
    exec (.fabLockOpen src) s = .next s ∧ exec (.fabLockClose src) s = .next s ∧ exec (.ptLockOpen src) s = .next s ∧
          exec (.ptLockClose src) s = .next s) ∧
  (∀ (s : State) (src : Nat), s.flag .fabLock FAB_LOCK_OPEN = true → s.fld .fabLock FAB_LOCK_HOLDER ≠ src →
    exec (.fabLockOpen src) s = .next s) ∧
  (∀ (s : State) (src : Nat), s.flag .ptLock PT_LOCK_OPEN = true → s.fld .ptLock PT_LOCK_HOLDER ≠ src →
    exec (.ptLockOpen src) s = .next s)

/-- While ALLOW = 1, a write of PRT_CTL.EN sets it and changes nothing else, packets held among it; while ALLOW = 0 it
changes nothing. PERTURB_HOLD_RELEASE lets the oldest packet held at its target go once its hold has ended, and no
other; before that it changes nothing. -/
def Obligations.PerturbationHoldsAndReleases : Prop :=
  (∀ (s : State) (en : Bool), RegsOk s → s.pwrGood = true → s.prtAllow = true →
    ∃ t : State, exec (.prtCtlEnWrite en) s = .next t ∧ t.fld .prtCtl PRT_CTL_EN = (if en then 1 else 0) ∧
          RegsBut [.prtCtl] s t ∧ t = { s with regs := t.regs }) ∧
  (∀ (s : State) (en : Bool), s.prtAllow = false →
    exec (.prtCtlEnWrite en) s = .next s) ∧
  (∀ (s : State) (target : Nat) (p : Held) (pre post : List Held), s.net.held = pre ++ p :: post → (∀ e ∈ pre,
    e.target ≠ target) → p.target = target → p.until_ ≤ s.svcTime →
    exec (.perturbHoldRelease target) s = .next { s with net := { s.net with held := pre ++ post } }) ∧
  (∀ (s : State) (target : Nat) (p : Held) (pre post : List Held), s.net.held = pre ++ p :: post → (∀ e ∈ pre,
    e.target ≠ target) → p.target = target → s.svcTime < p.until_ →
    exec (.perturbHoldRelease target) s = .next s)

/-- A write of SPAD_PWR sets the state of a bank that a partition owns (other than bank 63, and not to OFF while an
enabled pool holds buffers in it): to ON or RET keeping its bytes, from OFF through a wipe in which it does not serve;
to OFF so that every byte of it then reads 0. No byte outside the E-die's scratchpad and no register but its SPAD_PWR
word changes. An access wakes a bank in RET and counts it. The end of the wipe lets the bank serve. -/
def Obligations.ScratchpadBankStates : Prop :=
  (∀ (s : State) (d b v : Nat), Canonical s → s.pwrGood = true → d < 20 → b < 63 → s.owner 1 (64 * d + b) < 64 → bits
    v (2 * (b % 32)) 2 ≠ 3 → (bits v (2 * (b % 32)) 2 = 2 → s.bankPooled d b = false) →
    ∃ t : State, exec (.spadPwrWrite d (decide (32 ≤ b)) .whole v) s = .next t ∧ t.bankSt d b = bits v (2 * (b % 32)) 2 ∧
          (s.bankSt d b ≠ 2 → bits v (2 * (b % 32)) 2 = 2 → ∀ x < 1048576,
            memByte t.mem (spBase + d * spSize + b * bankSize + x) = 0#8) ∧
          (bits v (2 * (b % 32)) 2 ≠ 2 → ∀ x < 1048576, memByte t.mem (spBase + d * spSize + b * bankSize + x) =
            memByte s.mem (spBase + d * spSize + b * bankSize + x)) ∧
          (s.bankSt d b = 2 → bits v (2 * (b % 32)) 2 ≠ 2 → t.bankServes d b = false) ∧
          MemBut (spBase + d * spSize) spSize s t ∧ RegsBut [spadReg d b] s t ∧
          t = { s with regs := t.regs, mem := t.mem, net := t.net }) ∧
  (∀ (s : State) (d b : Nat), RegsOk s → d < 20 → b < 64 → s.bankSt d b = 1 →
    ∃ t : State, exec (.bankWake d b) s = .next t ∧ t.bankSt d b = 0 ∧
          t.fld (.spadStat d) SPAD_STAT_WAKES = satAdd 65535 (s.fld (.spadStat d) SPAD_STAT_WAKES) 1 ∧
          RegsBut [spadReg d b, .spadStat d] s t ∧ t = { s with regs := t.regs }) ∧
  (∀ (s : State) (d b : Nat), s.net.onWipe.contains (64 * d + b) = true → s.bankSt d b = 0 →
    ∃ t : State, exec (.bankOnWipeDone d b) s = .next t ∧ t.bankServes d b = true ∧
          t = { s with net := { s.net with onWipe := s.net.onWipe.filter (· ≠ 64 * d + b) } })

/-- Of a served source, at a bank 63 that is ON and serves: an acquire of a FREE mooring writes HELD with OWNER, TAG and
the source's reset epoch; of a BROKEN one, or a HELD one whose owner's epoch has moved on, the same with WASBROKEN; of
one held by a live owner it changes only the MBUSY count. A release by OWNER and TAG frees it; by another it raises
MOOR_FOREIGN, of a FREE one MOOR_IDLE, in the mooring's log, and the word stays. The broken word's release is
MOOR_FOREIGN too. A bit-set or bit-clear alias write elsewhere ORs its data into the bytes, or clears them, one read-
modify-write; no other byte changes. A corrected error is counted. One that meets an uncorrectable error writes nothing,
and raises SPAD_UE; a quad unit's instance aborts with its cause, and any other requester gets a refusal. -/
def Obligations.MooringsAndAliasWrites : Prop :=
  (∀ (s : State) (src d m tag : Nat), MemOk s → d < 20 → m < 2048 → s.moorServes src m = true → s.bankServes d 63 =
    true → s.bankSt d 63 = 0 → moorState (s.moor d m) = 0 →
    ∃ t : State, exec (.mooringAcquire src d m tag) s = .next t ∧ t.moor d m = moorWord 1 0 src tag (s.epochOf src) ∧
          MemBut (moorAddr d m) 8 s t ∧ t = { s with mem := t.mem }) ∧
  (∀ (s : State) (src d m tag : Nat), MemOk s → d < 20 → m < 2048 → s.moorServes src m = true → s.bankServes d 63 =
    true → s.bankSt d 63 = 0 → (moorState (s.moor d m) = 2 ∨ (moorState (s.moor d m) = 1 ∧ moorEpoch (s.moor d m) ≠
    s.epochOf (moorOwner (s.moor d m)))) →
    ∃ t : State, exec (.mooringAcquire src d m tag) s = .next t ∧ t.moor d m = moorWord 1 1 src tag (s.epochOf src) ∧
          MemBut (moorAddr d m) 8 s t ∧ t = { s with mem := t.mem }) ∧
  (∀ (s : State) (src d m tag : Nat), RegsOk s → d < 20 → m < 2048 → s.moorServes src m = true → s.bankServes d 63 =
    true → s.bankSt d 63 = 0 → moorState (s.moor d m) = 1 → moorEpoch (s.moor d m) = s.epochOf (moorOwner (s.moor d
    m)) →
    ∃ t : State, exec (.mooringAcquire src d m tag) s = .next t ∧
          t.fld (.spadStat d) SPAD_STAT_MBUSY = satAdd 65535 (s.fld (.spadStat d) SPAD_STAT_MBUSY) 1 ∧ RegsBut [.spadStat d] s t ∧ t = { s with regs := t.regs }) ∧
  (∀ (s : State) (src d m tag : Nat), MemOk s → d < 20 → m < 2048 → s.moorServes src m = true → s.bankServes d 63 =
    true → s.bankSt d 63 = 0 → moorState (s.moor d m) = 1 → moorOwner (s.moor d m) = src % 2 ^ 12 → moorTag (s.moor d
    m) = tag →
    ∃ t : State, exec (.mooringRelease src d m tag) s = .next t ∧ t.moor d m = 0 ∧ MemBut (moorAddr d m) 8 s t ∧ t = { s with mem := t.mem }) ∧
  (∀ (s : State) (src d m tag : Nat), d < 20 → m < 2048 → s.moorServes src m = true → s.bankServes d 63 = true →
    s.bankSt d 63 = 0 → (moorState (s.moor d m) = 1 → ¬ (moorOwner (s.moor d m) = src % 2 ^ 12 ∧ moorTag (s.moor d m)
    = tag)) →
    ∃ t : State, exec (.mooringRelease src d m tag) s = .next t ∧
          Raised (moorLog m) src (if moorState (s.moor d m) = 0 then 0x0603 else 0x0602) [] s t ∧ t = { s with evt := t.evt }) ∧
  (∀ (s : State) (src o : Nat) (set : Bool) (data : List Byte) (err : MemErr), MemOk s → err ≠ .ue → (src < 0x540 ∨
    0x543 < src) → aliasOk o data.length = true → o < 20 * spSize → o % spSize < moorOff → s.mayReach src (spBase + o)
    = true → s.bankServes (o / spSize) (o % spSize / bankSize) = true →
    ∃ t : State, exec (.aliasWrite src set o data err) s = .next t ∧
          (∀ i < data.length, memByte t.mem (spBase + o + i) = (if set then memByte s.mem (spBase + o + i) ||| data.getD i 0#8
            else memByte s.mem (spBase + o + i) &&& ~~~(data.getD i 0#8))) ∧
          MemBut (spBase + o) data.length s t ∧ RegsBut [spadReg (o / spSize) (o % spSize / bankSize), .spadStat (o / spSize)] s t ∧
          t = { s with regs := t.regs, mem := t.mem, net := if err = .ce then { s.net with ce := t.net.ce } else s.net } ∧
          (err = .ce → tgetD 0 t.net.ce (o / spSize) = tgetD 0 s.net.ce (o / spSize) + 1)) ∧
  (∀ (s : State) (src o : Nat) (set : Bool) (data : List Byte), isQuadUnit src = false → aliasOk o data.length = true
    → o < 20 * spSize → o % spSize < moorOff → s.mayReach src (spBase + o) = true → s.bankServes (o / spSize) (o %
    spSize / bankSize) = true → s.bankSt (o / spSize) (o % spSize / bankSize) = 0 →
    ∃ t : State, exec (.aliasWrite src set o data .ue) s = .next t ∧ Raised (s.addrLog (spBase + o)) (srcDie (o / spSize)) 0x0601 [] s t ∧
          t.outbox = s.outbox ++ [.refusal src (spBase + o) 4] ∧ t = { s with evt := t.evt, outbox := t.outbox }) ∧
  (∀ (s : State) (src o i : Nat) (set : Bool) (data : List Byte), RegsOk s → isQuadUnit src = true → s.quadInst (src /
    16) = some i → i < 80 → s.flag (.schInst i) SCH_INST_RUN = true → s.flag (.schInst i) SCH_INST_ABORTING = false →
    aliasOk o data.length = true → o < 20 * spSize → o % spSize < moorOff → s.mayReach src (spBase + o) = true →
    s.bankServes (o / spSize) (o % spSize / bankSize) = true → s.bankSt (o / spSize) (o % spSize / bankSize) = 0 →
    ∃ t : State, exec (.aliasWrite src set o data .ue) s = .next t ∧ Raised (s.addrLog (spBase + o)) (srcDie (o / spSize)) 0x0601 [] s t ∧
          t.flag (.schInst i) SCH_INST_ABORTING = true ∧ t.ctl.aborting = s.ctl.aborting ++ [{ inst := i, cause := 0x0601, time := s.svcTime }] ∧
          RegsBut [.schInst i] s t ∧ t = { s with regs := t.regs, evt := t.evt, ctl := { s.ctl with aborting := t.ctl.aborting } })

/-- Of memory that is neither lost nor under conversion: a far read that hits answers from the line held, and changes
nothing else; with perturbation off, a miss outside every range answers from memory, and one on a cacheable line, with
room in the directory and the cache, sets the E-die's sharer bit and keeps the line, or leaves its fill in flight. A
write to a line without sharers writes exactly its bytes; one with sharers also sends each of them an invalidation and
holds its acknowledgement. A snoop drops the E-die's line and clears its sharer bit; so does an eviction notice that
meets no snoop. A write of a disabled FC_RANGE word takes effect at once; of one that would be enabled outside the hub's
DRAM, or with LIMIT below BASE, it is ignored. -/
def Obligations.FarLinesAndSharers : Prop :=
  (∀ (s : State) (src d a n : Nat) (f : Bool) (l : FarLine), d < 20 → s.mayReach src a = true → farKind a = true →
    isFar d a = true → 32 ≤ n → a % 256 + n ≤ 256 → (s.net.lines.find? (fun x => x.die = d ∧ x.line = a / 256) = some
    l) →
    exec (.farRead src d a n f) s = .next (s.emit (.readResp src a (bytesAt l.bytes (a % 256) n)))) ∧
  (∀ (s : State) (src d a n : Nat) (f : Bool), d < 20 → s.mayReach src a = true → farKind a = true → isFar d a = true
    → 32 ≤ n → a % 256 + n ≤ 256 → ((s.net.lines.any fun l => l.die = d ∧ l.line = a / 256) = false) →
    ((s.net.fills.any fun l => l.die = d ∧ l.line = a / 256) = false) → s.flag .prtCtl PRT_CTL_EN = false →
    s.converting a = false → s.servesAll src a n = true → s.lostIn a n = false → s.cacheable a = false →
    exec (.farRead src d a n f) s = .next (s.emit (.readResp src a (s.rd a n)))) ∧
  (∀ (s : State) (src d a n : Nat) (f : Bool), d < 20 → s.mayReach src a = true → farKind a = true → isFar d a = true
    → 32 ≤ n → a % 256 + n ≤ 256 → ((s.net.lines.any fun l => l.die = d ∧ l.line = a / 256) = false) →
    ((s.net.fills.any fun l => l.die = d ∧ l.line = a / 256) = false) → s.flag .prtCtl PRT_CTL_EN = false →
    s.converting a = false → (twf (fun _ => 0) s.net.dir = true) → s.cacheable a = true → s.lostIn (a / 256 * 256) 256
    = false → s.dirRoom (a / 256) = true → ((s.net.lines.filter fun l => l.die = d ∧ l.line % farSets = a / 256 %
    farSets).length < 8) →
    ∃ t : State, exec (.farRead src d a n f) s = .next t ∧ t.sharers (a / 256) = putBits (s.sharers (a / 256)) d 1 1 ∧
          (∀ k, k ≠ a / 256 → t.sharers k = s.sharers k) ∧
          (if f then t.net.fills = s.net.fills ++ [⟨d, a / 256, s.rd (a / 256 * 256) 256, true⟩] ∧ t.net.lines = s.net.lines ∧ t.outbox = s.outbox
           else t.net.lines = s.net.lines ++ [⟨d, a / 256, s.rd (a / 256 * 256) 256⟩] ∧ t.net.fills = s.net.fills ∧
             t.outbox = s.outbox ++ [.readResp src a (bytesAt (s.rd (a / 256 * 256) 256) (a % 256) n)]) ∧
          t = { s with net := { s.net with lines := t.net.lines, fills := t.net.fills, dir := t.net.dir }, outbox := t.outbox }) ∧
  (∀ (s : State) (src a : Nat) (data : List Byte), MemOk s → s.mayReach src a = true → s.mayReach src (a + data.length
    - 1) = true → a % 256 + data.length ≤ 256 → data ≠ [] → farKind a = true → s.lostIn a data.length = false →
    s.converting a = false → (twf (fun _ => 0) s.net.dir = true) → s.sharers (a / 256) = 0 →
    ∃ t : State, exec (.sharedLineWrite src a data) s = .next t ∧ memRead t.mem a data.length = data ∧ MemBut a data.length s t ∧
          t = { s with mem := t.mem }) ∧
  (∀ (s : State) (src a h : Nat) (data : List Byte), MemOk s → s.mayReach src a = true → s.mayReach src (a +
    data.length - 1) = true → a % 256 + data.length ≤ 256 → data ≠ [] → farKind a = true → s.lostIn a data.length =
    false → s.converting a = false → (twf (fun _ => 0) s.net.dir = true) → hubOf a = some h → s.sharers (a / 256) ≠ 0
    →
    ∃ t : State, exec (.sharedLineWrite src a data) s = .next t ∧ memRead t.mem a data.length = data ∧ MemBut a data.length s t ∧
          t.net.acks = s.net.acks ++ [⟨h, [a / 256], src, none, data.length⟩] ∧
          t.net.snoops = s.net.snoops ++ ((List.range 20).filter fun d => bitAt (s.sharers (a / 256)) d).map (Snoop.mk h · (a / 256) false) ∧
          RegsBut [.dirStat h] s t ∧ t = { s with regs := t.regs, mem := t.mem, net := { s.net with acks := t.net.acks, snoops := t.net.snoops } }) ∧
  (∀ (s : State) (d line : Nat) (sn : Snoop), (twf (fun _ => 0) s.net.dir = true) → s.net.snoops = [sn] → sn.die = d →
    sn.line = line → sn.gone = false → s.flag .prtCtl PRT_CTL_EN = false → s.net.rangeWait = [] → s.net.acks = [] →
    ∃ t : State, exec (.snoopArrival d line) s = .next t ∧ (t.net.lines.any fun l => l.die = d ∧ l.line = line) = false ∧
          t.net.snoops = [] ∧ t.sharers line = putBits (s.sharers line) d 1 0 ∧ (∀ k, k ≠ line → t.sharers k = s.sharers k) ∧
          t = { s with net := t.net }) ∧
  (∀ (s : State) (d line : Nat), (twf (fun _ => 0) s.net.dir = true) → s.net.snoops = [] → ((s.net.lines.any fun l =>
    l.die = d ∧ l.line = line) = true) →
    ∃ t : State, exec (.evictionNotice d line) s = .next t ∧ (t.net.lines.any fun l => l.die = d ∧ l.line = line) = false ∧
          t.sharers line = putBits (s.sharers line) d 1 0 ∧ (∀ k, k ≠ line → t.sharers k = s.sharers k) ∧ t = { s with net := t.net }) ∧
  (∀ (s : State) (k v b l : Nat), RegsOk s → s.pwrGood = true → k < 64 → s.flag (.fcRange k) FC_RANGE_EN = false → (∀
    e ∈ s.net.rangeWait, e.1 ≠ k) → b = bits v FC_RANGE_BASE.lo FC_RANGE_BASE.w → l = bits v FC_RANGE_LIMIT.lo
    FC_RANGE_LIMIT.w → (bits v FC_RANGE_EN.lo 1 = 1 → b ≤ l ∧ farKind (b * 65536) = true ∧ farKind (l * 65536) = true
    ∧ hubOf (b * 65536) = some (k / 16) ∧ hubOf (l * 65536) = some (k / 16) ∧ (b * 65536 < gdBase ↔ l * 65536 <
    gdBase)) →
    ∃ t : State, exec (.fcRangeWrite k .whole v) s = .next t ∧ t.fld (.fcRange k) FC_RANGE_EN = bits v FC_RANGE_EN.lo 1 ∧
          t.fld (.fcRange k) FC_RANGE_BASE = b ∧ t.fld (.fcRange k) FC_RANGE_LIMIT = l ∧ RegsBut [.fcRange k] s t ∧ t = { s with regs := t.regs }) ∧
  (∀ (s : State) (k v : Nat), k < 64 → s.flag (.fcRange k) FC_RANGE_EN = false → (∀ e ∈ s.net.rangeWait, e.1 ≠ k) →
    bits v FC_RANGE_EN.lo 1 = 1 → (bits v FC_RANGE_LIMIT.lo FC_RANGE_LIMIT.w < bits v FC_RANGE_BASE.lo FC_RANGE_BASE.w
    ∨ hubOf (bits v FC_RANGE_BASE.lo FC_RANGE_BASE.w * 65536) ≠ some (k / 16) ∨ hubOf (bits v FC_RANGE_LIMIT.lo
    FC_RANGE_LIMIT.w * 65536) ≠ some (k / 16)) →
    exec (.fcRangeWrite k .whole v) s = .next s)

/-- A read of POOL_ALLOC by a unit of the owning partition gives the lowest free buffer at or after the search point,
with its generation advanced, lists it as the requester's and takes 1 from FREE; with no buffer free the answer is
EMPTY, to another source FOREIGN, of a pool not enabled DISABLED, and to the loser of the last buffer RETRY, and nothing
else changes. The descriptor written to POOL_FREE frees that buffer and adds 1 to FREE; a stale or invalid one raises
BUF_DFREE, one of another partition BUF_FOREIGN, and frees nothing. POOL_CFG.EN = 1, while the lock is open and the pool
fits its partition's banks, makes every buffer free; of a pool that does not fit it is ignored. -/
def Obligations.BufferPools : Prop :=
  (∀ (s : State) (src k i : Nat), RegsOk s → k < 320 → s.flag (.poolCfg k) POOL_CFG_EN = true → s.poolMaster src k =
    true → nextFree (s.pool k).used (s.fld (.poolCfg k) POOL_CFG_COUNTM1 + 1) (s.pool k).search = some i → 1 ≤ s.fld
    (.poolCfg k) POOL_CFG_FREE →
    ∃ t : State, exec (.poolAlloc src k false) s = .next t ∧ (t.pool k).used = (s.pool k).used ++ [(i, src)] ∧
          t.fld (.poolCfg k) POOL_CFG_FREE = s.fld (.poolCfg k) POOL_CFG_FREE - 1 ∧
          (∀ j, j ≠ k → t.pool j = s.pool j) ∧
          t.outbox = s.outbox ++ [Out.readResp src (regBase + regOff (.poolAlloc k)) (leBytes 8 (poolDesc i (k % 16) (k / 16) 1
            (s.fld (.poolCfg k) POOL_CFG_PART) (src % 4096) ((tgetD 0 (s.pool k).gens i + 1) % 2 ^ 16)))] ∧
          RegsBut [.poolCfg k] s t ∧ t = { s with regs := t.regs, net := t.net, outbox := t.outbox }) ∧
  (∀ (s : State) (src k st : Nat) (lost : Bool), k < 320 → (st = if s.flag (.poolCfg k) POOL_CFG_EN = false then 4
    else if s.poolMaster src k = false then 3 else if lost = true then 2 else 1) → (s.flag (.poolCfg k) POOL_CFG_EN =
    false ∨ s.poolMaster src k = false ∨ lost = true ∨ nextFree (s.pool k).used (s.fld (.poolCfg k) POOL_CFG_COUNTM1 +
    1) (s.pool k).search = none) →
    exec (.poolAlloc src k lost) s = .next (s.emit (.readResp src (regBase + regOff (.poolAlloc k))
          (leBytes 8 (poolDesc st (k % 16) (k / 16) 0 (s.fld (.poolCfg k) POOL_CFG_PART) (src % 4096) 0))))) ∧
  (∀ (s : State) (src k d i : Nat), RegsOk s → (twf (fun _ => ({} : PoolSt)) s.net.pools = true) → k < 320 → bits d 25
    1 = 1 → bits d 20 5 = k / 16 → bits d 16 4 = k % 16 → bits d 0 16 = i → s.poolSrc src k = some (s.fld (.poolCfg k)
    POOL_CFG_PART) → (((s.pool k).used.any fun (u : Nat × Nat) => u.1 = i) = true) → tgetD 0 (s.pool k).gens i = bits
    d 44 16 →
    ∃ t : State, exec (.poolFree src k d) s = .next t ∧ (t.pool k).used = (s.pool k).used.filter (fun (u : Nat × Nat) => u.1 ≠ i) ∧
          t.fld (.poolCfg k) POOL_CFG_FREE = (s.fld (.poolCfg k) POOL_CFG_FREE + 1) % 2 ^ POOL_CFG_FREE.w ∧ RegsBut [.poolCfg k] s t ∧
          t = { s with regs := t.regs, net := t.net }) ∧
  (∀ (s : State) (src k d : Nat), k < 320 → bits d 25 1 = 1 → bits d 20 5 = k / 16 → bits d 16 4 = k % 16 → s.poolSrc
    src k ≠ some (s.fld (.poolCfg k) POOL_CFG_PART) →
    ∃ t : State, exec (.poolFree src k d) s = .next t ∧ Raised (s.fld (.poolCfg k) POOL_CFG_PART) src 0x0605 [] s t ∧ t = { s with evt := t.evt }) ∧
  (∀ (s : State) (src k d : Nat), k < 320 → s.poolSrc src k = some (s.fld (.poolCfg k) POOL_CFG_PART) → (bits d 25 1 =
    0 ∨ tgetD 0 (s.pool k).gens (bits d 0 16) ≠ bits d 44 16) →
    ∃ t : State, exec (.poolFree src k d) s = .next t ∧ Raised (s.fld (.poolCfg k) POOL_CFG_PART) src 0x0604 [] s t ∧ t = { s with evt := t.evt }) ∧
  (∀ (s : State) (k v : Nat) (n : Word), RegsOk s → (twf (fun _ => ({} : PoolSt)) s.net.pools = true) → s.pwrGood =
    true → k < 320 → s.flag .ptLock PT_LOCK_OPEN = true → s.flag (.poolCfg k) POOL_CFG_EN = false → (n = writeFlds
    (fun _ => true) (2 ^ 64 - 1) (v % 2 ^ 64) (regFields (.poolCfg k)) (s.reg (.poolCfg k))) → fget n POOL_CFG_EN = 1
    → s.poolFits k n = true →
    ∃ t : State, exec (.poolCfgWrite k .whole v) s = .next t ∧ t.fld (.poolCfg k) POOL_CFG_EN = 1 ∧
          t.fld (.poolCfg k) POOL_CFG_FREE = (fget n POOL_CFG_COUNTM1 + 1) % 2 ^ POOL_CFG_FREE.w ∧ (t.pool k).used = [] ∧ RegsBut [.poolCfg k] s t ∧
          t = { s with regs := t.regs, net := t.net }) ∧
  (∀ (s : State) (k v : Nat) (n : Word), k < 320 → s.flag .ptLock PT_LOCK_OPEN = true → s.flag (.poolCfg k)
    POOL_CFG_EN = false → (n = writeFlds (fun _ => true) (2 ^ 64 - 1) (v % 2 ^ 64) (regFields (.poolCfg k)) (s.reg
    (.poolCfg k))) → fget n POOL_CFG_EN = 1 → s.poolFits k n = false →
    exec (.poolCfgWrite k .whole v) s = .next s)

/-- EN = 1 turns an OFF partition ON when the lock is open, a quad is owned and no wipe is pending on its granules; else
it only sets REFUSED. EN = 0 with the lock open turns an ON partition, of which no task waits, DRAINING and marks its
instances, and no other, as unloading. EN = 1 while DRAINING only sets REFUSED; any other write of EN changes nothing.
PARTITION_DRAIN_COMPLETE makes a DRAINING partition that has no instance left OFF; while every instance left has tasks,
and of a partition that is not DRAINING, it changes nothing. In each case every other register, and all memory, is as it
was. -/
def Obligations.PartitionStatesAndDrain : Prop :=
  (∀ (s : State) (p : Nat), RegsOk s → p < 64 → s.pwrGood = true → s.ptState p = 0 → s.mayTurnOn p = true →
    ∃ t : State, exec (.ptCfgEnWrite p true) s = .next t ∧ t.ptState p = 1 ∧ t.flag (.ptCfg p) PT_CFG_EN = true ∧
          t.fld (.ptCfg p) PT_CFG_DLOGQ = s.fld (.ptCfg p) PT_CFG_DLOGQ ∧ RegsBut [.ptCfg p] s t ∧ t = { s with regs := t.regs }) ∧
  (∀ (s : State) (p : Nat), RegsOk s → p < 64 → s.pwrGood = true → ((s.ptState p = 0 ∧ s.mayTurnOn p = false) ∨
    s.ptState p = 2) →
    ∃ t : State, exec (.ptCfgEnWrite p true) s = .next t ∧ t.flag (.ptStat p) PT_STAT_REFUSED = true ∧ RegsBut [.ptStat p] s t ∧ t = { s with regs := t.regs }) ∧
  (∀ (s : State) (p : Nat), RegsOk s → p < 64 → s.pwrGood = true → s.ptState p = 1 → s.flag .ptLock PT_LOCK_OPEN =
    true → s.ctl.waiting = [] →
    ∃ t : State, exec (.ptCfgEnWrite p false) s = .next t ∧ t.ptState p = 2 ∧ t.flag (.ptCfg p) PT_CFG_EN = false ∧
          (∀ i < 80, t.inst i = (s.inst i).map fun (v : Inst) => if v.part = p then { v with unloading := true } else v) ∧
          RegsBut [.ptCfg p] s t ∧ t = { s with regs := t.regs, ctl := { s.ctl with insts := t.ctl.insts } }) ∧
  (∀ (s : State) (p : Nat) (en : Bool), p < 64 → s.ptState p < 3 → ((en = true ∧ s.ptState p = 1) ∨ (en = false ∧
    (s.ptState p ≠ 1 ∨ s.flag .ptLock PT_LOCK_OPEN = false))) →
    exec (.ptCfgEnWrite p en) s = .next s) ∧
  (∀ (s : State) (p : Nat), p < 64 → (s.ptState p ≠ 2 ∨ (s.instsOf p ≠ [] ∧ ∀ i < 80, ∀ v, s.inst i = some v → v.tasks
    ≠ [])) →
    exec (.partitionDrainComplete p) s = .next s) ∧
  (∀ (s : State) (p : Nat), RegsOk s → p < 64 → s.ptState p = 2 → s.instsOf p = [] →
    ∃ t : State, exec (.partitionDrainComplete p) s = .next t ∧ t.ptState p = 0 ∧ RegsBut [.ptCfg p] s t ∧ t = { s with regs := t.regs })

/-- With the lock open, a write of one owner byte of a granule that is not module-owned and not in use gives it the new
owner, or FREE, and puts it among the pending wipes; a quad's also counts in QUADS of both partitions; other owner bytes
and all memory are as they were. A granule in use keeps its byte, sets its owner's REFUSED and raises OWNER_REFUSED. The
end of a wipe, in its turn, of memory of which no line is shared and for which no access waits, zeroes every byte of the
granule and none outside it, and raises PT_WIPE_DONE in the owner's log. A PT_FLOOR write is ignored when a sum at its
hub would exceed 432 or 56. With the lock closed no write changes anything. -/
def Obligations.OwnersWipesAndFloors : Prop :=
  (∀ (s : State) (kind j k b : Nat), RegsOk s → s.pwrGood = true → s.flag .ptLock PT_LOCK_OPEN = true → 1 ≤ kind →
    kind < 5 → k < 8 → 8 * j + k < granuleCount kind → b ≤ 0x40 → s.owner kind (8 * j + k) < 0x80 → s.owner kind (8 *
    j + k) ≠ b → s.inUse kind (8 * j + k) = false → (∀ n < 8, n ≠ k → s.owner kind (8 * j + n) ≤ 0x40 ∨ 0x80 ≤ s.owner
    kind (8 * j + n)) →
    ∃ t : State, exec (.ptOwnWrite kind j .whole (putBits (s.reg (ownReg kind (8 * j + k))).toNat (8 * k) 8 b)) s = .next t ∧
          t.owner kind (8 * j + k) = b ∧ (∀ n < 8, n ≠ k → t.owner kind (8 * j + n) = s.owner kind (8 * j + n)) ∧
          t.part.wipes = s.part.wipes.filter (· ≠ (kind, 8 * j + k)) ++ [(kind, 8 * j + k)] ∧
          RegsBut [ownReg kind (8 * j)] s t ∧ t = { s with regs := t.regs, part := { s.part with wipes := t.part.wipes } }) ∧
  (∀ (s : State) (j k b p : Nat), RegsOk s → s.pwrGood = true → s.flag .ptLock PT_LOCK_OPEN = true → j < 10 → k < 8 →
    b ≤ 0x40 → p = s.owner 0 (8 * j + k) → p < 0x80 → p ≠ b → s.quadInst (8 * j + k) = none → (∀ n < 8, n ≠ k →
    s.owner 0 (8 * j + n) ≤ 0x40 ∨ 0x80 ≤ s.owner 0 (8 * j + n)) →
    ∃ t : State, exec (.ptOwnWrite 0 j .whole (putBits (s.reg (.ptOwnQ j)).toNat (8 * k) 8 b)) s = .next t ∧
          t.owner 0 (8 * j + k) = b ∧ (∀ n < 8, n ≠ k → t.owner 0 (8 * j + n) = s.owner 0 (8 * j + n)) ∧
          t.part.wipes = s.part.wipes.filter (· ≠ (0, 8 * j + k)) ++ [(0, 8 * j + k)] ∧
          (∀ x < 64, x = p ∨ x = b → t.fld (.ptCfg x) PT_CFG_QUADS = ((List.range 80).filter fun q => t.owner 0 q = x).length) ∧
          RegsBut [.ptOwnQ j, .ptCfg (p % 64), .ptCfg (b % 64)] s t ∧ t = { s with regs := t.regs, part := { s.part with wipes := t.part.wipes } }) ∧
  (∀ (s : State) (kind i : Nat), Canonical s → 1 ≤ kind → kind < 5 → i < granuleCount kind → s.part.wipes.contains
    (kind, i) = true → s.wipeTurn kind i = true → s.tier.heldAcc = [] → (∀ e ∈ s.net.dir, e.1 < (granuleSpan kind i).1
    / 256 ∨ (granuleSpan kind i).1 + (granuleSpan kind i).2 ≤ e.1 * 256) →
    ∃ t : State, exec (.ptWipeDone kind i) s = .next t ∧ (∀ x < (granuleSpan kind i).2, memByte t.mem ((granuleSpan kind i).1 + x) = 0#8) ∧
          MemBut (granuleSpan kind i).1 (granuleSpan kind i).2 s t ∧ t.part.wipes = s.part.wipes.filter (· ≠ (kind, i)) ∧
          Raised (if s.owner kind i < 64 then s.owner kind i else modLog) srcM 0x0901 (leBytes 1 kind ++ leBytes 2 i) s t ∧
          t = { s with mem := t.mem, part := { s.part with wipes := t.part.wipes }, evt := t.evt, tier := { s.tier with dirty := t.tier.dirty } }) ∧
  (∀ (s : State) (kind i o : Nat), RegsOk s → s.pwrGood = true → s.flag .ptLock PT_LOCK_OPEN = true → kind < 5 → i <
    granuleCount kind → o < 64 → s.owner kind i = o → s.inUse kind i = true → (∀ n < 8, n ≠ i % 8 → s.owner kind (8 *
    (i / 8) + n) ≤ 0x40 ∨ 0x80 ≤ s.owner kind (8 * (i / 8) + n)) →
    ∃ t : State, exec (.ptOwnWrite kind (i / 8) .whole (putBits (s.reg (ownReg kind i)).toNat (8 * (i % 8)) 8 0x40)) s = .next t ∧
          t.owner kind i = o ∧ t.flag (.ptStat o) PT_STAT_REFUSED = true ∧ Raised o srcM 0x0904 (leBytes 1 kind ++ leBytes 2 i) s t ∧
          RegsBut [.ptStat o] s t ∧ t = { s with regs := t.regs, evt := t.evt }) ∧
  (∀ (s : State) (kind j v : Nat) (h : Half), s.flag .ptLock PT_LOCK_OPEN = false → kind < 5 →
    exec (.ptOwnWrite kind j h v) s = .next s) ∧
  (∀ (s : State) (k v : Nat), RegsOk s → s.pwrGood = true → s.flag .ptLock PT_LOCK_OPEN = true → k < 256 → v < 2 ^ 64
    → (((List.range 64).foldl (fun a p => a + if 4 * p + k % 4 = k then bits v 0 9 else s.fld (.ptFloor (4 * p + k %
    4)) PT_FLOOR_DFLOOR) 0) ≤ 432) → (((List.range 64).foldl (fun a p => a + if 4 * p + k % 4 = k then bits v 16 6
    else s.fld (.ptFloor (4 * p + k % 4)) PT_FLOOR_PFLOOR) 0) ≤ 56) →
    ∃ t : State, exec (.ptFloorWrite k .whole v) s = .next t ∧ t.fld (.ptFloor k) PT_FLOOR_DFLOOR = bits v 0 9 ∧
          t.fld (.ptFloor k) PT_FLOOR_PFLOOR = bits v 16 6 ∧ RegsBut [.ptFloor k] s t ∧ t = { s with regs := t.regs }) ∧
  (∀ (s : State) (k v : Nat), RegsOk s → k < 256 → v < 2 ^ 64 → (432 < ((List.range 64).foldl (fun a p => a + if 4 * p
    + k % 4 = k then bits v 0 9 else s.fld (.ptFloor (4 * p + k % 4)) PT_FLOOR_DFLOOR) 0) ∨ 56 < ((List.range
    64).foldl (fun a p => a + if 4 * p + k % 4 = k then bits v 16 6 else s.fld (.ptFloor (4 * p + k % 4))
    PT_FLOOR_PFLOOR) 0)) → s.flag .ptLock PT_LOCK_OPEN = true →
    exec (.ptFloorWrite k .whole v) s = .next s)

/-- With the lock open in a state that allows tenants, EN from 0 to 1, unless an erasure runs, gives the tenant a new
key and sets KEYV; EN from 1 to 0, when it owns no queue pair and nothing in DRAM, starts the erasure; every other write
of EN changes nothing. KEY_ERASED then destroys its key, leaves it no object and raises 0x0905 in its partition's log;
other tenants' keys and objects stay. QUOTA takes the value written; one below USE also sets QCUT and raises QUOTA_CUT
naming tenant, tier, USE and QUOTA, and evicts nothing. -/
def Obligations.TenantsKeysAndQuotas : Prop :=
  (∀ (s : State) (t0 : Nat), RegsOk s → s.pwrGood = true → t0 < 1024 → s.flag .ptLock PT_LOCK_OPEN = true → (s.lc =
    lcDevelopment ∨ s.lc = lcProduction) → s.flag (.tnCfg t0) TN_CFG_EN = false → s.flag (.tnCfg t0) TN_CFG_ERASING =
    false →
    ∃ t : State, exec (.tnCfgEnWrite t0 true) s = .next t ∧ t.flag (.tnCfg t0) TN_CFG_EN = true ∧ t.flag (.tnCfg t0) TN_CFG_KEYV = true ∧
          tgetO t.trust.keys t0 = some s.trust.keyCount ∧ (∀ k, k ≠ t0 → tgetO t.trust.keys k = tgetO s.trust.keys k) ∧
          RegsBut [.tnCfg t0] s t ∧ t = { s with regs := t.regs, trust := { s.trust with keys := t.trust.keys, keyCount := s.trust.keyCount + 1 } }) ∧
  (∀ (s : State) (t0 : Nat), RegsOk s → s.pwrGood = true → t0 < 1024 → s.flag .ptLock PT_LOCK_OPEN = true → (s.lc =
    lcDevelopment ∨ s.lc = lcProduction) → s.flag (.tnCfg t0) TN_CFG_EN = true → s.fld (.tnCfg t0) TN_CFG_QPS = 0 →
    s.holdsDram t0 = false →
    ∃ t : State, exec (.tnCfgEnWrite t0 false) s = .next t ∧ t.flag (.tnCfg t0) TN_CFG_EN = false ∧ t.flag (.tnCfg t0) TN_CFG_ERASING = true ∧
          RegsBut [.tnCfg t0] s t ∧ t = { s with regs := t.regs }) ∧
  (∀ (s : State) (t0 : Nat) (en : Bool), t0 < 1024 → (s.flag .ptLock PT_LOCK_OPEN = false ∨ (s.lc ≠ lcDevelopment ∧
    s.lc ≠ lcProduction) ∨ (en = true ∧ (s.flag (.tnCfg t0) TN_CFG_EN = true ∨ s.flag (.tnCfg t0) TN_CFG_ERASING =
    true)) ∨ (en = false ∧ (s.flag (.tnCfg t0) TN_CFG_EN = false ∨ s.fld (.tnCfg t0) TN_CFG_QPS ≠ 0 ∨ s.holdsDram t0 =
    true))) →
    exec (.tnCfgEnWrite t0 en) s = .next s) ∧
  (∀ (s : State) (t0 : Nat), RegsOk s → t0 < 1024 → s.flag (.tnCfg t0) TN_CFG_ERASING = true → (∀ o ∈ s.tier.objs,
    o.tenant = t0 → s.obj o.handle = some o) → (s.trust.keys.map Prod.fst).Nodup →
    ∃ t : State, exec (.keyErased t0) s = .next t ∧ t.flag (.tnCfg t0) TN_CFG_KEYV = false ∧ t.flag (.tnCfg t0) TN_CFG_ERASING = false ∧
          tgetO t.trust.keys t0 = none ∧ (∀ k, k ≠ t0 → tgetO t.trust.keys k = tgetO s.trust.keys k) ∧ (∀ o ∈ t.tier.objs, o.tenant ≠ t0) ∧
          (∀ o ∈ s.tier.objs, o.tenant ≠ t0 → (∀ x ∈ s.tier.objs, x.tenant = t0 → x.handle ≠ o.handle) → o ∈ t.tier.objs) ∧
          Raised (s.fld (.tnCfg t0) TN_CFG_PART) srcT 0x0905 (leBytes 2 t0) s t ∧
          RegsBut [.tnCfg t0, .tnTier (4 * t0), .tnTier (4 * t0 + 1), .tnTier (4 * t0 + 2), .tnTier (4 * t0 + 3)] s t ∧
          t = { s with regs := t.regs, evt := t.evt, trust := { s.trust with keys := t.trust.keys }, tier := t.tier }) ∧
  (∀ (s : State) (t0 k q : Nat), RegsOk s → s.pwrGood = true → t0 < 1024 → k < 4 → q < 2 ^ 32 →
    ∃ t : State, exec (.quotaWrite t0 k q) s = .next t ∧ t.quota t0 k = q ∧ t.use t0 k = s.use t0 k ∧
          (s.use t0 k ≤ q → t = { s with regs := t.regs } ∧ RegsBut [.tnTier (4 * t0 + k)] s t) ∧
          (q < s.use t0 k → t.flag (.ptStat (s.fld (.tnCfg t0) TN_CFG_PART)) PT_STAT_QCUT = true ∧
            Raised (s.fld (.tnCfg t0) TN_CFG_PART) srcM 0x0903
              (leBytes 2 t0 ++ leBytes 1 k ++ leBytes 1 0 ++ leBytes 4 (s.use t0 k) ++ leBytes 4 q) s t ∧
            RegsBut [.tnTier (4 * t0 + k), .ptStat (s.fld (.tnCfg t0) TN_CFG_PART)] s t ∧ t = { s with regs := t.regs, evt := t.evt }))

/-- Of a register without a write rule of its own and that wakes no quad: a permitted source's write changes each field
that the access holds whole by its access type, and no other register; so SCH_CTL's WDOG takes the value written. The
writes of the console and of DBGACC are those of the M-die, a good BAR0 write is the host's. A write to an offset that
holds no register, and a BAR0 access of bad size or alignment, only count in BADREG (a read also answers Completer
Abort); BAR0 beyond the map answers Completer Abort or drops the write. A BAR0, console or DBGACC read answers what the
register shows, the last in the half that the next capture loads; with a bit of 63-42 set DBGACC performs no access. -/
def Obligations.RegisterAccesses : Prop :=
  (∀ (s : State) (src o v : Nat) (h : Half) (r : Reg), RegsOk s → busSource src = true → s.busUp src = true → o < 2 ^
    26 → regAt o = some r → plainReg r = true → (∀ q, regQuad r = some q → s.fld (.pwrQuad q) PWR_QUAD_STATE = 0) →
    ∃ t : State, exec (.registerWrite src o h v) s = .next t ∧
          t.reg r = writeFlds (s.lockOpen r) (halfMask h) (halfVal h v) (regFields r) (s.reg r) ∧ RegsBut [r] s t ∧ t = { s with regs := t.regs }) ∧
  (∀ (s : State) (src v : Nat) (h : Half), RegsOk s → busSource src = true → s.busUp src = true → (h = .whole ∨ h =
    .low) → v < 2 ^ 64 →
    ∃ t : State, exec (.registerWrite src (regOff .schCtl) h v) s = .next t ∧ t.fld .schCtl SCH_CTL_WDOG = bits v 0 16 ∧
          t.reg .schCtl = fput (s.reg .schCtl) SCH_CTL_WDOG (bits v 0 16) ∧ RegsBut [.schCtl] s t ∧ t = { s with regs := t.regs }) ∧
  (∀ (s : State) (src o v : Nat) (h : Half), RegsOk s → busSource src = true → s.busUp src = true → o < 2 ^ 26 → regAt
    o = none →
    ∃ t : State, exec (.registerWrite src o h v) s = .next t ∧
          t.fld .glbStat GLB_STAT_BADREG = satAdd (2 ^ GLB_STAT_BADREG.w - 1) (s.fld .glbStat GLB_STAT_BADREG) 1 ∧ RegsBut [.glbStat] s t ∧ t = { s with regs := t.regs }) ∧
  (∀ (s : State) (o n a v : Nat) (h : Half), s.busUp srcHost = true → o < 2 ^ 26 → accOf o n = some (a, h) →
    exec (.bar0AccessInvalid o n (some v)) s = exec (.registerWrite srcHost a h v) s) ∧
  (∀ (s : State) (o n a : Nat) (h : Half) (r : Reg), s.busUp srcHost = true → o < 2 ^ 26 → accOf o n = some (a, h) →
    regAt a = some r → (∀ q, regQuad r = some q → s.fld (.pwrQuad q) PWR_QUAD_STATE = 0) → (∀ j, r ≠ .poolAlloc j) →
    exec (.bar0AccessInvalid o n none) s = .next (s.emit (.hostRead (some (halfOf h (s.shown r)))))) ∧
  (∀ (s : State) (o n : Nat) (w : Option Nat), RegsOk s → s.busUp srcHost = true → o < 2 ^ 26 → accOf o n = none →
    ∃ t : State, exec (.bar0AccessInvalid o n w) s = .next t ∧
          t.fld .glbStat GLB_STAT_BADREG = satAdd (2 ^ GLB_STAT_BADREG.w - 1) (s.fld .glbStat GLB_STAT_BADREG) 1 ∧ RegsBut [.glbStat] s t ∧
          t.outbox = (if w.isSome then s.outbox else s.outbox ++ [Out.hostRead none]) ∧ t = { s with regs := t.regs, outbox := t.outbox }) ∧
  (∀ (s : State) (o n : Nat) (w : Option Nat), s.busUp srcHost = true → 2 ^ 26 ≤ o →
    exec (.bar0AccessInvalid o n w) s = .next (if w.isSome then s else s.emit (.hostRead none))) ∧
  (∀ (s : State) (k dr : Nat) (r : Reg), (k < (if s.dbg.long = true then 32 else 2)) → s.pwr.mgmtUp = true → s.pwrGood
    = true → s.dbgMay 3 k = true → bits dr 42 22 = 0 → bitAt dr 41 = false → regBase ≤ bits dr 0 40 → bits dr 0 40 <
    regBase + 2 ^ 26 → bits dr 0 40 % 8 = 0 → regAt (bits dr 0 40 - regBase) = some r → (∀ q, regQuad r = some q →
    s.fld (.pwrQuad q) PWR_QUAD_STATE = 0) → (∀ j, r ≠ .poolAlloc j) →
    ∃ t : State, exec (.dbgacc k dr) s = .next t ∧ t.dbg.half = halfOf (if bitAt dr 40 then .high else .low) (s.shown r) ∧
          t = { s with dbg := { s.dbg with half := t.dbg.half, taps := t.dbg.taps }, outbox := s.outbox ++ [Out.jtag k (s.dbg.half * 2 ^ 64) 96] }) ∧
  (∀ (s : State) (k dr : Nat) (r : Reg), RegsOk s → (k < (if s.dbg.long = true then 32 else 2)) → s.pwr.mgmtUp = true
    → s.pwrGood = true → s.dbgMay 4 k = true → bits dr 42 22 = 0 → bitAt dr 41 = true → regBase ≤ bits dr 0 40 → bits
    dr 0 40 < regBase + 2 ^ 26 → bits dr 0 40 % 8 = 0 → regAt (bits dr 0 40 - regBase) = some r → plainReg r = true →
    (∀ q, regQuad r = some q → s.fld (.pwrQuad q) PWR_QUAD_STATE = 0) →
    ∃ t : State, exec (.dbgacc k dr) s = .next t ∧ t.reg r = writeFlds (s.lockOpen r) (halfMask (if bitAt dr 40 then .high else .low))
            (halfVal (if bitAt dr 40 then .high else .low) (bits dr 64 32)) (regFields r) (s.reg r) ∧
          t.dbg.half = 0 ∧ RegsBut [r] s t ∧
          t = { s with regs := t.regs, dbg := { s.dbg with half := t.dbg.half, taps := t.dbg.taps }, outbox := s.outbox ++ [Out.jtag k (s.dbg.half * 2 ^ 64) 96] }) ∧
  (∀ (s : State) (k dr : Nat), (k < (if s.dbg.long = true then 32 else 2)) → s.pwr.mgmtUp = true → s.pwrGood = true →
    (s.dbgMay (if bitAt dr 41 then 4 else 3) k = true) → bits dr 42 22 ≠ 0 →
    ∃ t : State, exec (.dbgacc k dr) s = .next t ∧ t.dbg.half = s.dbg.half ∧ t = { s with dbg := { s.dbg with taps := t.dbg.taps }, outbox := t.outbox }) ∧
  (∀ (s : State) (o : Nat) (r : Reg), s.pwr.mgmtUp = true → s.pwrGood = true → s.dbgMay 3 0 = true → o < 2 ^ 26 → o %
    8 = 0 → regAt o = some r → (∀ q, regQuad r = some q → s.fld (.pwrQuad q) PWR_QUAD_STATE = 0) → (∀ j, r ≠
    .poolAlloc j) →
    exec (.consoleRd o) s = .next (s.emit (.console 4 [s.shown r]))) ∧
  (∀ (s : State) (o v : Nat) (r : Reg), RegsOk s → s.pwr.mgmtUp = true → s.pwrGood = true → s.dbgMay 4 0 = true → o <
    2 ^ 26 → o % 8 = 0 → regAt o = some r → plainReg r = true → (∀ q, regQuad r = some q → s.fld (.pwrQuad q)
    PWR_QUAD_STATE = 0) →
    ∃ t : State, exec (.consoleWr o v) s = .next t ∧ t.reg r = writeFlds (s.lockOpen r) (halfMask .whole) (halfVal .whole v) (regFields r) (s.reg r) ∧
          RegsBut [r] s t ∧ t = { s with regs := t.regs })

/-- When DBG_PRSNT_N falls (on) or rises while the management domain runs, one record of the M-die with code 0x0A0B and
DATA byte 16 = 1 for attach, 0 for detach waits for the module log behind those that waited; beside it the state changes
only in which way the pin stands and in the M-die's next SEQ. When the pin does not change, nothing does. -/
def Obligations.ProbeAttachAndDetach : Prop :=
  (∀ (s : State) (on : Bool), s.pwr.mgmtUp = true → s.hw.probe = !on →
    ∃ t : State, exec (.dbgAttach on) s = .next t ∧ t.hw.probe = on ∧
          t.evt.raised = s.evt.raised ++ [(modLog, EvRec.mk srcM 0x0A0B ((s.srcSt srcM).seq % 2 ^ 32) s.svcTime
            ((if on then 1#8 else 0#8) :: List.replicate 15 0#8))] ∧
          t = { s with hw := { s.hw with probe := on }, evt := { s.evt with raised := t.evt.raised, srcs := t.evt.srcs } } ∧
          (∀ src, src ≠ srcM → t.srcSt src = s.srcSt src)) ∧
  (∀ (s : State) (on : Bool), s.hw.probe = on →
    exec (.dbgAttach on) s = .next s)

/-- When TAP t of the chain M, T, Q, F, H0-H3, L0-L3, E00-E19 is powered and takes IDCODE in a life-cycle state that
permits it, it shifts 32 bits: bit 0 is 1, bits 11-1 are 0x3A5, bits 27-12 are 0x0300 plus the die class (0 E, 1 H, 2 L,
3 Q, 4 F, 5 M, 6 T), bits 31-28 are 0xB. Nothing but the TAPs changes. -/
def Obligations.TapIdentification : Prop :=
  ∀ (s : State) (k c : Nat), (k < (if s.dbg.long = true then 32 else 2)) → s.pwr.mgmtUp = true → (k < 2 ∨ s.pwrGood =
    true) → (s.lc ≠ lcRetired ∨ k < 2) → ((k, c) ∈ [(0, 5), (1, 6), (2, 3), (3, 4), (4, 1), (5, 1), (6, 1), (7, 1),
    (8, 2), (9, 2), (10, 2), (11, 2)] ∨ (12 ≤ k ∧ k < 32 ∧ c = 0)) →
    ∃ t : State, exec (.idcode k) s = .next t ∧
          t.outbox = s.outbox ++ [Out.jtag k (1 + 0x3A5 * 2 ^ 1 + (0x0300 + c) * 2 ^ 12 + 0xB * 2 ^ 28) 32] ∧
          t = { s with dbg := { s.dbg with taps := t.dbg.taps }, outbox := t.outbox }

/-- Test-Logic-Reset frees every TAP and gives the chain the shape of PWRGD. At a TAP of the chain whose die has power:
BYPASS, and TMUXSEL on another die than the M-die, selects the one-bit register. SAMPLE_PRELOAD loads the boundary cells
and leaves the pins; EXTEST and CLAMP drive the die's pins from its cells, HIGHZ floats them. An instruction that the
state does not permit selects bypass and raises DBG_DENIED with position and code. TMUXSEL of the M-die takes the 16
words, bits 31-26 ignored. A TAP without power shifts ones. No register and no byte of memory changes; the bits captured
from pins are free values. -/
def Obligations.TapInstructions : Prop :=
  (∀ (s : State),
    ∃ t : State, exec .testLogicReset s = .next t ∧ t.dbg.long = s.pwrGood ∧ (∀ k, t.tap k = ({} : Tap)) ∧
          t = { s with dbg := { s.dbg with long := t.dbg.long, taps := t.dbg.taps } }) ∧
  (∀ (s : State) (k : Nat), (twf (fun _ => ({} : Tap)) s.dbg.taps = true) → (k < (if s.dbg.long = true then 32 else
    2)) → s.pwr.mgmtUp = true → (k < 2 ∨ s.pwrGood = true) → (s.lc ≠ lcRetired ∨ k < 2) →
    ∃ t : State, exec (.bypass k) s = .next t ∧ (t.tap k).inst = 0xFF ∧ t.tap k = { s.tap k with inst := 0xFF } ∧
          (∀ j, j ≠ k → t.tap j = s.tap j) ∧ t = { s with dbg := { s.dbg with taps := t.dbg.taps }, outbox := s.outbox ++ [Out.jtag k 0 1] }) ∧
  (∀ (s : State) (k : Nat) (ws : List Nat), k ≠ 0 →
    exec (.tmuxsel k ws) s = exec (.bypass k) s) ∧
  (∀ (s : State) (k cells : Nat), (k < (if s.dbg.long = true then 32 else 2)) → s.pwr.mgmtUp = true → (k < 2 ∨
    s.pwrGood = true) → (s.lc ≠ lcRetired ∨ k < 2) →
    ∃ t : State, exec (.samplePreload k cells) s = .next t ∧ t.tap k = { s.tap k with inst := 2, cells := cells % 2 ^ Config.boundaryCells k } ∧
          (∀ j, j ≠ k → t.tap j = s.tap j) ∧ t = { s with dbg := { s.dbg with taps := t.dbg.taps }, outbox := t.outbox, fresh := s.fresh + 1 }) ∧
  (∀ (s : State) (k cells : Nat), (k < (if s.dbg.long = true then 32 else 2)) → s.pwr.mgmtUp = true → (k < 2 ∨
    s.pwrGood = true) → (s.lc = lcManufacturing ∨ s.lc = lcDevelopment ∨ s.lc = lcReturn) →
    ∃ t : State, exec (.extest k cells) s = .next t ∧ t.tap k = Tap.mk 0 (cells % 2 ^ Config.boundaryCells k) true false ∧
          (∀ j, j ≠ k → t.tap j = s.tap j) ∧ t = { s with dbg := { s.dbg with taps := t.dbg.taps }, outbox := t.outbox, fresh := s.fresh + 1 }) ∧
  (∀ (s : State) (k : Nat), (k < (if s.dbg.long = true then 32 else 2)) → s.pwr.mgmtUp = true → (k < 2 ∨ s.pwrGood =
    true) → (s.lc = lcManufacturing ∨ s.lc = lcDevelopment ∨ s.lc = lcReturn) →
    ∃ t : State, exec (.clamp k) s = .next t ∧ t.tap k = Tap.mk 3 ((s.tap k).cells) true false ∧ (∀ j, j ≠ k → t.tap j = s.tap j) ∧
          t = { s with dbg := { s.dbg with taps := t.dbg.taps }, outbox := s.outbox ++ [Out.jtag k 0 1] }) ∧
  (∀ (s : State) (k : Nat), (k < (if s.dbg.long = true then 32 else 2)) → s.pwr.mgmtUp = true → (k < 2 ∨ s.pwrGood =
    true) → (s.lc = lcManufacturing ∨ s.lc = lcDevelopment ∨ s.lc = lcReturn) →
    ∃ t : State, exec (.highz k) s = .next t ∧ t.tap k = Tap.mk 4 ((s.tap k).cells) false true ∧ (∀ j, j ≠ k → t.tap j = s.tap j) ∧
          t = { s with dbg := { s.dbg with taps := t.dbg.taps }, outbox := s.outbox ++ [Out.jtag k 0 1] }) ∧
  (∀ (s : State) (k : Nat), (twf (fun _ => ({} : Tap)) s.dbg.taps = true) → (k < (if s.dbg.long = true then 32 else
    2)) → s.pwr.mgmtUp = true → (k < 2 ∨ s.pwrGood = true) → (s.lc = lcRetired ∧ 2 ≤ k) →
    ∃ t : State, exec (.bypass k) s = .next t ∧ DeniedTap k 0xFF s t) ∧
  (∀ (s : State) (k : Nat), (twf (fun _ => ({} : Tap)) s.dbg.taps = true) → (k < (if s.dbg.long = true then 32 else
    2)) → s.pwr.mgmtUp = true → (k < 2 ∨ s.pwrGood = true) → (s.lc = lcRetired ∧ 2 ≤ k) →
    ∃ t : State, exec (.idcode k) s = .next t ∧ DeniedTap k 1 s t) ∧
  (∀ (s : State) (k n : Nat), (twf (fun _ => ({} : Tap)) s.dbg.taps = true) → (k < (if s.dbg.long = true then 32 else
    2)) → s.pwr.mgmtUp = true → (k < 2 ∨ s.pwrGood = true) → (s.lc = lcRetired ∧ 2 ≤ k) →
    ∃ t : State, exec (.samplePreload k n) s = .next t ∧ DeniedTap k 2 s t) ∧
  (∀ (s : State) (k n : Nat), (twf (fun _ => ({} : Tap)) s.dbg.taps = true) → (k < (if s.dbg.long = true then 32 else
    2)) → s.pwr.mgmtUp = true → (k < 2 ∨ s.pwrGood = true) → (s.lc = lcProduction ∨ s.lc = lcRetired) →
    ∃ t : State, exec (.extest k n) s = .next t ∧ DeniedTap k 0 s t) ∧
  (∀ (s : State) (k : Nat), (twf (fun _ => ({} : Tap)) s.dbg.taps = true) → (k < (if s.dbg.long = true then 32 else
    2)) → s.pwr.mgmtUp = true → (k < 2 ∨ s.pwrGood = true) → (s.lc = lcProduction ∨ s.lc = lcRetired) →
    ∃ t : State, exec (.clamp k) s = .next t ∧ DeniedTap k 3 s t) ∧
  (∀ (s : State) (k : Nat), (twf (fun _ => ({} : Tap)) s.dbg.taps = true) → (k < (if s.dbg.long = true then 32 else
    2)) → s.pwr.mgmtUp = true → (k < 2 ∨ s.pwrGood = true) → (s.lc = lcProduction ∨ s.lc = lcRetired) →
    ∃ t : State, exec (.highz k) s = .next t ∧ DeniedTap k 4 s t) ∧
  (∀ (s : State) (ws : List Nat), (twf (fun _ => ({} : Tap)) s.dbg.taps = true) → s.pwr.mgmtUp = true → (s.lc =
    lcReturn ∨ s.lc = lcRetired) →
    ∃ t : State, exec (.tmuxsel 0 ws) s = .next t ∧ DeniedTap 0 0x20 s t) ∧
  (∀ (s : State) (k n : Nat), s.dbg.long = true → 2 ≤ k → k < 32 → s.pwr.mgmtUp = true → s.pwrGood = false →
    exec (.bypass k) s = .next (s.emit (.jtag k 1 1)) ∧ exec (.clamp k) s = .next (s.emit (.jtag k 1 1)) ∧ exec (.highz k) s = .next (s.emit (.jtag k 1 1)) ∧
          exec (.idcode k) s = .next (s.emit (.jtag k (2 ^ 32 - 1) 32)) ∧
          exec (.samplePreload k n) s = .next (s.emit (.jtag k (2 ^ Config.boundaryCells k - 1) (Config.boundaryCells k))) ∧
          exec (.extest k n) s = .next (s.emit (.jtag k (2 ^ Config.boundaryCells k - 1) (Config.boundaryCells k)))) ∧
  (∀ (s : State) (ws : List Nat), s.pwr.mgmtUp = true → (s.lc = lcManufacturing ∨ s.lc = lcDevelopment ∨ s.lc =
    lcProduction) →
    ∃ t : State, exec (.tmuxsel 0 ws) s = .next t ∧ (∀ n < 16, tgetD 0 t.dbg.tmux n = ws.getD n 0 % 2 ^ 26) ∧
          (∀ n < 16, bitAt (ws.getD n 0) 24 = false → t.tmuxOut n = some false) ∧
          t = { s with dbg := { s.dbg with taps := t.dbg.taps, tmux := t.dbg.tmux }, outbox := t.outbox })

/-- The console prints status, and the last n records (1 to 64) of the module log, oldest first, else that it is denied,
without changing anything else. A press of the attention button while up toggles the removal request and raises ATTN
with action 0 or 1; while not up it raises it with 2 alone. The identify LED follows its command. A change of the leak
sensor raises COOL_LEAK with 0 wet, 1 dry; the coolant temperatures are kept. SLOT_ID is latched, 0xF when not valid.
Unmating J4 takes both supplies and, while up, starts the power-loss flush and stops new queries. Of one newly found
plug, the poll sets PRES; above 5 W it reports OSFP_POWER and holds the plug in low power. A poll that finds every cage
as it was changes no more than PRES. -/
def Obligations.ConsoleAndFrontPanel : Prop :=
  (∀ (s : State), s.pwr.mgmtUp = true →
    exec .consoleSt s = .next (s.emit (.console 0 [(s.reg .glbId).toNat, s.lc, s.fld .fltHealth FLT_HEALTH_LEVEL,
          s.fld .pmStat PM_STAT_PIN, if s.pwrGood then 1 else 0]))) ∧
  (∀ (s : State) (n : Nat), s.pwr.mgmtUp = true → s.lc ≠ lcRetired → 1 ≤ n → n ≤ 64 →
    exec (.consoleLog n) s = .next { s with outbox := s.outbox ++
          ((s.log modLog).drop ((s.log modLog).length - n)).map fun (r : LogRec) => Out.console 3 [r.ev.src, r.ev.code, r.ev.seq, r.ev.time, ofLE r.ev.data] }) ∧
  (∀ (s : State) (n : Nat), s.pwr.mgmtUp = true → (s.lc = lcRetired ∨ n = 0 ∨ 64 < n) →
    exec (.consoleLog n) s = .next (s.emit (.console conDenied []))) ∧
  (∀ (s : State) (act : Nat), s.pwr.mgmtUp = true → (act = if s.pwr.phase ≠ .up then 2 else if s.hw.removal then 1
    else 0) →
    ∃ t : State, exec .attn s = .next t ∧ t.hw.removal = (if act = 2 then s.hw.removal else !s.hw.removal) ∧ Raised modLog srcM 0x0A08 (leBytes 1 act) s t ∧
          t = { s with hw := { s.hw with removal := t.hw.removal }, evt := t.evt }) ∧
  (∀ (s : State) (m : Nat), s.sidebandUp = true → m < 3 →
    exec (.identifyLed m) s = .next { s with hw := { s.hw with identify := if m = 0 then .off else if m = 1 then .steady else .blink2 } }) ∧
  (∀ (s : State) (wet : Bool), s.pwr.mgmtUp = true → s.hw.leak = !wet →
    ∃ t : State, exec (.coolLeak wet) s = .next t ∧ t.hw.leak = wet ∧ Raised modLog srcM 0x0A09 (leBytes 1 (if wet then 0 else 1)) s t ∧
          t = { s with hw := { s.hw with leak := wet }, evt := t.evt }) ∧
  (∀ (s : State) (a b : Nat), s.pwr.mgmtUp = true →
    exec (.coolantSensorRead a b) s = .next { s with hw := { s.hw with inlet := a, outlet := b } }) ∧
  (∀ (s : State) (n : Nat) (v : Bool), RegsOk s →
    ∃ t : State, exec (.slotIdLatch n v) s = .next t ∧ t.fld .abId AB_ID_SLOT = (if v then n % 8 else 0xF) ∧ RegsBut [.abId] s t ∧
          t = { s with regs := t.regs, hw := { s.hw with j4 := true, identify := .off } }) ∧
  (∀ (s : State), RegsOk s →
    ∃ t : State, exec .modPrsntBreak s = .next t ∧ t.hw.j4 = false ∧ t.pwr.p48 = false ∧ t.pwr.p12aux = false ∧ t.flag .pmStat PM_STAT_NOAUX = true ∧
          (if s.pwr.phase = .up then t.pwr.phase = MainPhase.flushing false ∧ t.flag .qStat Q_STAT_PLSTOP = true ∧ Raised modLog srcM 0x0A01 [] s t ∧
             RegsBut [.pmStat, .qStat, .glbInt] s t
           else t.pwr.phase = s.pwr.phase ∧ t.evt = s.evt ∧ RegsBut [.pmStat] s t) ∧
          t = { s with regs := t.regs, evt := t.evt, hw := t.hw, pwr := t.pwr, trust := t.trust, dbg := t.dbg }) ∧
  (∀ (s : State) (w : Nat), RegsOk s → s.pwr.mgmtUp = true → s.pwr.phase = .up → (∀ k < 4, (tgetD ({} : Cage)
    s.hw.cages (12 + k)).present = false) →
    ∃ t : State, exec (.osfpPresencePoll [none, none, none, some w]) s = .next t ∧ tgetD ({} : Cage) t.hw.cages 15 = Cage.mk true w (decide (5 < w)) ∧
          t.flag (.abPort 15) AB_PORT_PRES = true ∧ (if 5 < w then Raised modLog srcM 0x0A0A (leBytes 1 15 ++ leBytes 1 w) s t else t.evt = s.evt) ∧
          RegsBut [.abPort 15] s t ∧ t = { s with regs := t.regs, hw := { s.hw with cages := t.hw.cages }, evt := t.evt, fab := if 5 < w then s.fab else t.fab }) ∧
  (∀ (s : State) (ps : List (Option Nat)), RegsOk s → s.pwr.mgmtUp = true → s.pwr.phase = .up → (∀ k < 4, ps.getD k
    none = if (tgetD ({} : Cage) s.hw.cages (12 + k)).present then some (tgetD ({} : Cage) s.hw.cages (12 + k)).power
    else none) →
    ∃ t : State, exec (.osfpPresencePoll ps) s = .next t ∧ (∀ k < 4, (ps.getD k none).isSome = true → t.flag (.abPort (12 + k)) AB_PORT_PRES = true) ∧
          RegsBut [.abPort 12, .abPort 13, .abPort 14, .abPort 15] s t ∧ t = { s with regs := t.regs })

/-- A doorbell of an ACTIVE queue pair takes a value inside its ring that is not behind what it holds, and changes
nothing else; one of a pair that is not ACTIVE, beyond the ring or behind raises DB_INVALID and moves nothing. A fetch
in its turn appends the entry (64 bytes of OQI v1, 128 of v2) as the next command with its queue pair's tenant and
partition, ready, or ended by the check it fails or by HOST_DMA when its payload cannot be read, and moves the fetch
index by one; a write also takes its range-lock entry, and waits behind an overlap; a query also takes its read point,
or waits for it. A write whose fetch is held passes the turn on; out of turn nothing changes. A due interrupt sends its
vector once, or sets the pending bit while masked; before it is due nothing changes. Unmasking a pending vector sends
it. -/
def Obligations.DoorbellsFetchAndInterrupts : Prop :=
  (∀ (s : State) (n v : Nat), s.quayUp = true → n < 4096 → (s.qp n).mode = .active → v < (s.qp n).sqDepth → ((s.qp
    n).tail + (s.qp n).sqDepth - (s.qp n).fetch) % (s.qp n).sqDepth ≤ (v + (s.qp n).sqDepth - (s.qp n).fetch) % (s.qp
    n).sqDepth →
    ∃ t : State, exec (.sqTailDoorbell n v) s = .next t ∧ t.qp n = { s.qp n with tail := v } ∧ (∀ m, m ≠ n → t.qp m = s.qp m) ∧
          t = { s with quay := { s.quay with qps := t.quay.qps } }) ∧
  (∀ (s : State) (n v : Nat), s.quayUp = true → n < 4096 → (s.qp n).mode = .active → v < (s.qp n).cqDepth → (v + (s.qp
    n).cqDepth - (s.qp n).head) % (s.qp n).cqDepth ≤ (s.qp n).unconsumed →
    ∃ t : State, exec (.cqHeadDoorbell n v) s = .next t ∧ t.qp n = { s.qp n with head := v } ∧ (∀ m, m ≠ n → t.qp m = s.qp m) ∧
          t = { s with quay := { s.quay with qps := t.quay.qps } }) ∧
  (∀ (s : State) (n v : Nat), s.quayUp = true → n < 4096 → ((s.qp n).mode ≠ .active ∨ (s.qp n).sqDepth ≤ v ∨ (v +
    (s.qp n).sqDepth - (s.qp n).fetch) % (s.qp n).sqDepth < ((s.qp n).tail + (s.qp n).sqDepth - (s.qp n).fetch) %
    (s.qp n).sqDepth) →
    ∃ t : State, exec (.sqTailDoorbell n v) s = .next t ∧ Raised (s.qpLog n) srcQuay 0x0702 (leBytes 2 n ++ leBytes 2 v ++ leBytes 1 0) s t ∧ t = { s with evt := t.evt }) ∧
  (∀ (s : State) (n v : Nat), s.quayUp = true → n < 4096 → ((s.qp n).mode ≠ .active ∨ (s.qp n).cqDepth ≤ v ∨ (s.qp
    n).unconsumed < (v + (s.qp n).cqDepth - (s.qp n).head) % (s.qp n).cqDepth) →
    ∃ t : State, exec (.cqHeadDoorbell n v) s = .next t ∧ Raised (s.qpLog n) srcQuay 0x0702 (leBytes 2 n ++ leBytes 2 v ++ leBytes 1 1) s t ∧ t = { s with evt := t.evt }) ∧
  (∀ (s : State) (n op : Nat) (raw payload entry : List Byte) (ok : Bool), s.quayUp = true → s.quay.stopped = false →
    s.flag .qStat Q_STAT_PLSTOP = false → s.turnOf = some n → s.quay.cmds.length < 65536 → (entry = bytesAt (raw.take
    (if (s.qp n).ver = 1 then 64 else 128)) 0 128) → op = leAt entry 0 1 → isWriteOp op = false → op ≠ 0x40 →
    ∃ t : State, exec (.submissionFetch n raw payload ok) s = .next t ∧
          t.quay.cmds = s.quay.cmds ++
            [{ n := s.quay.nextCmd, qp := n, cid := leAt entry 2 2, op := op, part := (s.qp n).part, tenant := (s.qp n).tenant,
               entry := entry, payload := payload.take (leAt entry 16 4), at_ := s.svcTime,
               st := match s.entryCheck n (s.qp n) entry with
                 | some e => .done e 0 0 []
                 | none => if ok = true then .ready else .done stHostDma 0 0 [] }] ∧
          t.quay.nextCmd = s.quay.nextCmd + 1 ∧ t.qp n = { s.qp n with fetch := ((s.qp n).fetch + 1) % (s.qp n).sqDepth } ∧
          t.quay.locks = s.quay.locks ∧ (∀ m, m ≠ n → t.qp m = s.qp m) ∧ t = { s with quay := t.quay }) ∧
  (∀ (s : State) (n op : Nat) (raw payload entry : List Byte) (ok : Bool), s.quayUp = true → s.quay.stopped = false →
    s.flag .qStat Q_STAT_PLSTOP = false → s.turnOf = some n → s.quay.cmds.length < 65536 → (entry = bytesAt (raw.take
    (if (s.qp n).ver = 1 then 64 else 128)) 0 128) → op = leAt entry 0 1 → isWriteOp op = true → (n = 0 ∨ s.writeHeld
    op = false) → (∀ c ∈ s.quay.cmds, c.n ≠ s.quay.nextCmd) → RegsOk s →
    ∃ t : State, exec (.submissionFetch n raw payload ok) s = .next t ∧
          t.quay.cmds = s.quay.cmds ++
            [{ n := s.quay.nextCmd, qp := n, cid := leAt entry 2 2, op := op, part := (s.qp n).part, tenant := (s.qp n).tenant,
               entry := entry, payload := payload.take (leAt entry 16 4), at_ := s.svcTime,
               st := match s.entryCheck n (s.qp n) entry with
                 | some e => .done e 0 (if isDataWrite op = true ∧ e ≠ stInvalidOpcode then 0xFFFFFFFF else 0) []
                 | none => if ok = true then if s.lockWaits s.quay.nextCmd n (lockOf s.quay.nextCmd op entry) = true then .waiting else .ready else .done stHostDma 0 0 [] }] ∧
          t.quay.nextCmd = s.quay.nextCmd + 1 ∧ t.qp n = { s.qp n with fetch := ((s.qp n).fetch + 1) % (s.qp n).sqDepth } ∧
          t.quay.locks = s.quay.locks ++ [lockOf s.quay.nextCmd op entry] ∧ (4095 ≤ s.quay.locks.length → t.flag .qStat Q_STAT_RLFULL = true) ∧ (∀ m, m ≠ n → t.qp m = s.qp m) ∧ RegsBut [.qStat] s t ∧ t = { s with regs := t.regs, quay := t.quay }) ∧
  (∀ (s : State) (n op : Nat) (raw payload entry : List Byte) (ok : Bool), s.quayUp = true → s.quay.stopped = false →
    s.flag .qStat Q_STAT_PLSTOP = false → s.turnOf = some n → s.quay.cmds.length < 65536 → (entry = bytesAt (raw.take
    (if (s.qp n).ver = 1 then 64 else 128)) 0 128) → op = leAt entry 0 1 → op = 0x40 → (∀ c ∈ s.quay.cmds, c.n ≠
    s.quay.nextCmd) →
    ∃ t : State, exec (.submissionFetch n raw payload ok) s = .next t ∧
          t.quay.cmds = s.quay.cmds ++
            [{ n := s.quay.nextCmd, qp := n, cid := leAt entry 2 2, op := op, part := (s.qp n).part, tenant := (s.qp n).tenant,
               entry := entry, payload := payload.take (leAt entry 16 4), at_ := s.svcTime,
               st := match s.entryCheck n (s.qp n) entry with
                 | some e => .done e 0 0 []
                 | none => if ok = true then if (s.cpart (s.qp n).part).applied < (s.qp n).lastSeq then .waiting else .ready else .done stHostDma 0 0 [],
               rp := if (s.cpart (s.qp n).part).applied < (s.qp n).lastSeq then none else some (s.cpart (s.qp n).part).applied,
               hold := (s.qp n).lastSeq, tgen := (s.towersOf (leAt entry 48 2)).live,
               gen := match s.collOf (leAt entry 4 4) with | some k => k.live.num | none => 0 }] ∧
          t.quay.nextCmd = s.quay.nextCmd + 1 ∧ t.qp n = { s.qp n with fetch := ((s.qp n).fetch + 1) % (s.qp n).sqDepth } ∧
          t.quay.locks = s.quay.locks ∧ (∀ m, m ≠ n → t.qp m = s.qp m) ∧ t = { s with quay := t.quay }) ∧
  (∀ (s : State) (n : Nat) (raw payload : List Byte) (ok : Bool), s.quayUp = true → s.quay.stopped = false → s.flag
    .qStat Q_STAT_PLSTOP = false → s.turnOf = some n → s.quay.cmds.length < 65536 → n ≠ 0 → (s.writeHeld (leAt
    (bytesAt (raw.take (if (s.qp n).ver = 1 then 64 else 128)) 0 128) 0 1) = true) →
    exec (.submissionFetch n raw payload ok) s = .next { s with quay := { s.quay with turn := n, taken := 8 } }) ∧
  (∀ (s : State) (n : Nat) (raw payload : List Byte) (ok : Bool), (s.quayUp = false ∨ s.quay.stopped = true ∨ s.flag
    .qStat Q_STAT_PLSTOP = true ∨ s.turnOf ≠ some n ∨ 65536 ≤ s.quay.cmds.length) →
    exec (.submissionFetch n raw payload ok) s = .next s) ∧
  (∀ (s : State) (n : Nat), RegsOk s → (s.qp n).mode ≠ .absent → (s.qp n).since ≠ 0 → ((s.qp n).icount + 1 ≤ (s.qp
    n).since ∨ (s.qp n).sinceAt + 400 * (s.qp n).itime ≤ s.svcTime) →
    ∃ t : State, exec (.cqInterrupt n) s = .next t ∧ t.qp n = { s.qp n with since := 0 } ∧ (∀ m, m ≠ n → t.qp m = s.qp m) ∧
          (if s.flag (.msixData (s.qp n).vec) MSIX_DATA_MASK = true then t.outbox = s.outbox ∧
             bitAt (t.reg (.msixPba ((s.qp n).vec / 64))).toNat ((s.qp n).vec % 64) = true ∧ RegsBut [.msixPba ((s.qp n).vec / 64)] s t
           else t.outbox = s.outbox ++ [Out.msix (s.reg (.msixAddr (s.qp n).vec)).toNat (s.fld (.msixData (s.qp n).vec) MSIX_DATA_DATA)] ∧ t.regs = s.regs) ∧
          t = { s with regs := t.regs, quay := { s.quay with qps := t.quay.qps }, outbox := t.outbox }) ∧
  (∀ (s : State) (n : Nat), ((s.qp n).since = 0 ∨ ((s.qp n).since < (s.qp n).icount + 1 ∧ s.svcTime < (s.qp n).sinceAt
    + 400 * (s.qp n).itime)) →
    exec (.cqInterrupt n) s = .next s) ∧
  (∀ (s : State) (v : Nat), RegsOk s → s.pwrGood = true → v < 2048 → s.flag (.msixData v) MSIX_DATA_MASK = true →
    bitAt (s.reg (.msixPba (v / 64))).toNat (v % 64) = true →
    ∃ t : State, exec (.msixUnmask v) s = .next t ∧ t.flag (.msixData v) MSIX_DATA_MASK = false ∧ bitAt (t.reg (.msixPba (v / 64))).toNat (v % 64) = false ∧
          t.fld (.msixData v) MSIX_DATA_DATA = s.fld (.msixData v) MSIX_DATA_DATA ∧ RegsBut [.msixData v, .msixPba (v / 64)] s t ∧
          t = { s with regs := t.regs, outbox := s.outbox ++ [Out.msix (s.reg (.msixAddr v)).toNat (s.fld (.msixData v) MSIX_DATA_DATA)] }) ∧
  (∀ (s : State) (v : Nat), RegsOk s → s.pwrGood = true → v < 2048 → (s.flag (.msixData v) MSIX_DATA_MASK = false ∨
    bitAt (s.reg (.msixPba (v / 64))).toNat (v % 64) = false) →
    ∃ t : State, exec (.msixUnmask v) s = .next t ∧ t.flag (.msixData v) MSIX_DATA_MASK = false ∧
          t.fld (.msixData v) MSIX_DATA_DATA = s.fld (.msixData v) MSIX_DATA_DATA ∧ RegsBut [.msixData v] s t ∧ t = { s with regs := t.regs })

/-- CREATE_QP whose partition is not ON ends with PARTITION_OFF, first of its checks; with bad parameters with
INVALID_PARAMETER, with no number free with CAPACITY; with good ones it makes an absent queue pair of 1-4,095 ACTIVE
with the depths, bases, vector, tenant and partition given, counts it in QPS, and ends with SUCCESS and its number.
DELETE_QP of an idle ACTIVE pair makes it ABSENT, one with commands in flight DRAINING; an absent number ends with
NO_OBJECT, a DRAINING one with BUSY, 0 or above 4,095 with INVALID_PARAMETER. An error makes an ACTIVE or DRAINING pair
ERROR and raises QP_ERROR; another it leaves. EN = 1 makes queue pair 0 as the QA registers say; EN = 0 or SRESET
deletes every queue pair; a write of the EN in force changes nothing. No byte of memory changes. -/
def Obligations.QueuePairsAndTheEngine : Prop :=
  (∀ (s : State) (n : Nat) (c : Cmd), Fetched n 0x01 c s → c.n = n → c.fld 65 1 < 64 → s.partOn (c.fld 65 1) = false →
    ∃ t : State, exec (.createQp n) s = .next t ∧ Ended n stPartitionOff 0 0 [] s t ∧ t = { s with quay := { s.quay with cmds := t.quay.cmds } }) ∧
  (∀ (s : State) (n m : Nat) (c : Cmd), RegsOk s → Fetched n 0x01 c s → c.n = n → c.fld 65 1 < 64 → s.partOn (c.fld 65
    1) = true → c.fld 40 8 % 4096 = 0 → c.fld 48 8 % 4096 = 0 → c.fld 56 2 ≠ 0 → c.fld 58 2 ≠ 0 → c.fld 60 2 ≤ 2047 →
    (c.fld 64 1 = 1 ∨ c.fld 64 1 = 2) → c.fld 66 2 ≤ 1023 → s.tenantOk (c.fld 66 2) (c.fld 65 1) = true → s.freeQp =
    some m →
    ∃ t : State, exec (.createQp n) s = .next t ∧ 1 ≤ m ∧ m ≤ 4095 ∧ (s.qp m).mode = .absent ∧ (t.qp m).mode = .active ∧
          (t.qp m).tenant = c.fld 66 2 ∧ (t.qp m).part = c.fld 65 1 ∧ (t.qp m).sqDepth = c.fld 56 2 + 1 ∧ (t.qp m).cqDepth = c.fld 58 2 + 1 ∧
          (t.qp m).sqBase = c.fld 40 8 ∧ (t.qp m).cqBase = c.fld 48 8 ∧ (t.qp m).vec = c.fld 60 2 ∧ (∀ k, k ≠ m → t.qp k = s.qp k) ∧
          t.fld (.tnCfg (c.fld 66 2)) TN_CFG_QPS = (s.fld (.tnCfg (c.fld 66 2)) TN_CFG_QPS + 1) % 2 ^ 13 ∧ Ended n stSuccess m 0 [] s t ∧
          RegsBut [.tnCfg (c.fld 66 2), .qStat] s t ∧ t.mem = s.mem ∧ t.evt = s.evt) ∧
  (∀ (s : State) (n st : Nat) (c : Cmd), Fetched n 0x01 c s → c.n = n → ((st = stInvalidParameter ∧ (63 < c.fld 65 1 ∨
    (s.partOn (c.fld 65 1) = true ∧ (c.fld 40 8 % 4096 ≠ 0 ∨ c.fld 48 8 % 4096 ≠ 0 ∨ c.fld 56 2 = 0 ∨ c.fld 58 2 = 0 ∨
    2047 < c.fld 60 2 ∨ (c.fld 64 1 ≠ 1 ∧ c.fld 64 1 ≠ 2) ∨ 1023 < c.fld 66 2 ∨ s.tenantOk (c.fld 66 2) (c.fld 65 1) =
    false)))) ∨ (st = stCapacity ∧ s.freeQp = none ∧ c.fld 65 1 < 64 ∧ s.partOn (c.fld 65 1) = true ∧ c.fld 40 8 %
    4096 = 0 ∧ c.fld 48 8 % 4096 = 0 ∧ c.fld 56 2 ≠ 0 ∧ c.fld 58 2 ≠ 0 ∧ c.fld 60 2 ≤ 2047 ∧ (c.fld 64 1 = 1 ∨ c.fld
    64 1 = 2) ∧ c.fld 66 2 ≤ 1023 ∧ s.tenantOk (c.fld 66 2) (c.fld 65 1) = true)) →
    ∃ t : State, exec (.createQp n) s = .next t ∧ Ended n st 0 0 [] s t ∧ t = { s with quay := { s.quay with cmds := t.quay.cmds } }) ∧
  (∀ (s : State) (n m : Nat) (c : Cmd), RegsOk s → (twf (fun _ => ({} : QP)) s.quay.qps = true) → Fetched n 0x02 c s →
    c.n = n → m = c.fld 40 2 → 1 ≤ m → m ≤ 4095 → (s.qp m).mode = .active → s.qpInflight m = 0 →
    ∃ t : State, exec (.deleteQp n) s = .next t ∧ (t.qp m).mode = .absent ∧ (∀ k, k ≠ m → t.qp k = s.qp k) ∧
          t.fld (.tnCfg (s.qp m).tenant) TN_CFG_QPS = s.fld (.tnCfg (s.qp m).tenant) TN_CFG_QPS - 1 ∧ Ended n stSuccess 0 0 [] s t ∧
          RegsBut [.tnCfg (s.qp m).tenant, .qStat] s t ∧ t.mem = s.mem ∧ t.evt = s.evt) ∧
  (∀ (s : State) (n m : Nat) (c : Cmd), RegsOk s → Fetched n 0x02 c s → c.n = n → m = c.fld 40 2 → 1 ≤ m → m ≤ 4095 →
    (s.qp m).mode = .active → s.qpInflight m ≠ 0 →
    ∃ t : State, exec (.deleteQp n) s = .next t ∧ (t.qp m).mode = .draining ∧ (t.qp m).delBy = some n ∧ (∀ k, k ≠ m → t.qp k = s.qp k) ∧
          t.quay.cmds = mapIf (·.n = n) (fun c => { c with st := .running }) s.quay.cmds ∧ RegsBut [.qStat] s t ∧
          t = { s with regs := t.regs, quay := { s.quay with qps := t.quay.qps, cmds := t.quay.cmds } }) ∧
  (∀ (s : State) (n m st : Nat) (c : Cmd), Fetched n 0x02 c s → c.n = n → m = c.fld 40 2 → ((st = stInvalidParameter ∧
    (m = 0 ∨ 4095 < m)) ∨ (st = stNoObject ∧ 1 ≤ m ∧ m ≤ 4095 ∧ (s.qp m).mode = .absent) ∨ (st = stBusy ∧ 1 ≤ m ∧ m ≤
    4095 ∧ (s.qp m).mode = .draining)) →
    ∃ t : State, exec (.deleteQp n) s = .next t ∧ Ended n st 0 0 [] s t ∧ t = { s with quay := { s.quay with cmds := t.quay.cmds } }) ∧
  (∀ (s : State) (n cause : Nat), RegsOk s → ((s.qp n).mode = .active ∨ (s.qp n).mode = .draining) →
    ∃ t : State, exec (.qpError n cause) s = .next t ∧ (t.qp n).mode = .error ∧ (∀ k, k ≠ n → t.qp k = s.qp k) ∧
          Raised (s.qpLog n) srcQuay 0x0703 (leBytes 2 n ++ leBytes 2 cause) s t ∧ (n = 0 → t.flag .qStat Q_STAT_RDY = false) ∧ RegsBut [.qStat] s t ∧
          t = { s with regs := t.regs, quay := { s.quay with qps := t.quay.qps }, evt := t.evt }) ∧
  (∀ (s : State) (n cause : Nat), ((s.qp n).mode = .absent ∨ (s.qp n).mode = .error) →
    exec (.qpError n cause) s = .next s) ∧
  (∀ (s : State) (en : Bool), (s.quayUp = false ∨ s.flag .qCtl Q_CTL_EN = en) →
    exec (.qCtlEn en) s = .next s) ∧
  (∀ (s : State), RegsOk s → s.pwrGood = true → s.quayUp = true → s.flag .qCtl Q_CTL_EN = false →
    ∃ t : State, exec (.qCtlEn true) s = .next t ∧ t.flag .qCtl Q_CTL_EN = true ∧ t.flag .qStat Q_STAT_RDY = true ∧ (t.qp 0).mode = .active ∧
          (t.qp 0).sqBase = s.fld .qaSqb QA_SQB_BASE * 4096 ∧ (t.qp 0).cqBase = s.fld .qaCqb QA_CQB_BASE * 4096 ∧
          (t.qp 0).sqDepth = s.fld .qaSize QA_SIZE_SQM1 + 1 ∧ (t.qp 0).cqDepth = s.fld .qaSize QA_SIZE_CQM1 + 1 ∧ (t.qp 0).ver = 2 ∧ (t.qp 0).vec = 0 ∧
          (∀ k, k ≠ 0 → t.qp k = s.qp k) ∧ RegsBut [.qCtl, .qStat] s t ∧ t = { s with regs := t.regs, quay := { s.quay with qps := t.quay.qps } }) ∧
  (∀ (s : State), RegsOk s → (twf (fun _ => ({} : QP)) s.quay.qps = true) → s.quayUp = true → s.flag .qCtl Q_CTL_EN =
    true →
    ∃ t : State, exec (.qCtlEn false) s = .next t ∧ exec .qCtlSreset s = .next t ∧ t.flag .qCtl Q_CTL_EN = false ∧ (∀ n, (t.qp n).mode = .absent) ∧
          t = { s with regs := t.regs, quay := { s.quay with qps := t.quay.qps, cmds := t.quay.cmds } })

/-- Of memory that serves the host: a BAR2 read of DRAM or of a scratchpad that the window reaches answers its bytes and
changes nothing else; a write stores exactly its bytes; one into an alias is the host's alias write. One of DRAM under
conversion or wipe waits at its hub. An address outside what the window reaches raises HOST_ADDR, changes no byte, and
answers a read with Completer Abort. Training sets LINKGEN and LINKW within the ceilings, and raises LINK_DEGRADED below
8 GT/s or x16; another rate or width trains no link. While the link is up, DOE and SPDM requests are answered: versions,
capabilities, algorithms, digest and part of the certificate chain, and the signed challenge and measurements. -/
def Obligations.WindowLinkAndResponder : Prop :=
  (∀ (s : State) (x n a : Nat), s.quayUp = true → x + n ≤ 2 ^ s.quay.bar2Log → a = s.bar2Addr x → a < spBase →
    regionOf a ≠ .unmapped → s.mayReach srcHost a = true → s.mayReach srcHost (a + n - 1) = true → s.converting a =
    false → s.converting (a + n - 1) = false → s.lostIn a n = false →
    exec (.bar2Access x n none) s = .next (s.emit (.hostRead (some (ofLE (s.rd a n)))))) ∧
  (∀ (s : State) (x a d o : Nat) (n : Nat) (w : Option (List Byte)), MemOk s → s.quayUp = true → x + (w.map
    List.length).getD n ≤ 2 ^ s.quay.bar2Log → a = s.bar2Addr x → regionOf a = .spad d o → o < moorOff → s.mayReach
    srcHost a = true → s.bankServes d (o / bankSize) = true → s.bankSt d (o / bankSize) = 0 → s.lostIn a n = false →
    ∃ t : State, exec (.bar2Access x n w) s = .next t ∧ (w = none → t = s.emit (.hostRead (some (ofLE (s.rd a n))))) ∧
          (∀ b, w = some b → memRead t.mem a b.length = b ∧ MemBut a b.length s t ∧ t = { s with mem := t.mem })) ∧
  (∀ (s : State) (x a o : Nat) (set : Bool) (b : List Byte), s.quayUp = true → x + b.length ≤ 2 ^ s.quay.bar2Log → a =
    s.bar2Addr x → (regionOf a = (if set = true then .setAlias o else .clrAlias o)) → o < 20 * spSize → aliasOk o
    b.length = true → (o % spSize < moorOff → s.mayReach srcHost (spBase + o) = true) → (moorOff ≤ o % spSize →
    s.moorServes srcHost ((o % spSize - moorOff) / 8) = true) →
    exec (.bar2Access x 0 (some b)) s = exec (.aliasWrite srcHost set o b .good) s) ∧
  (∀ (s : State) (x n a : Nat) (w : Option (List Byte)), s.quayUp = true → x + (w.map List.length).getD n ≤ 2 ^
    s.quay.bar2Log → a = s.bar2Addr x → a < spBase → regionOf a ≠ .unmapped → s.mayReach srcHost a = true → s.mayReach
    srcHost (a + (w.map List.length).getD n - 1) = true → s.converting a = true →
    exec (.bar2Access x n w) s = .next { s with tier := { s.tier with heldAcc := s.tier.heldAcc ++ [⟨srcHost, .addr a, n, w, 0, some x⟩] } }) ∧
  (∀ (s : State) (x a : Nat) (b : List Byte), MemOk s → s.quayUp = true → x + b.length ≤ 2 ^ s.quay.bar2Log → a =
    s.bar2Addr x → a < spBase → regionOf a ≠ .unmapped → s.mayReach srcHost a = true → s.mayReach srcHost (a +
    b.length - 1) = true → s.converting a = false → s.converting (a + b.length - 1) = false → s.lostIn a b.length =
    false → (∀ e ∈ s.net.dir, e.1 < a / 256 ∨ a + b.length ≤ e.1 * 256) →
    ∃ t : State, exec (.bar2Access x 0 (some b)) s = .next t ∧ memRead t.mem a b.length = b ∧ MemBut a b.length s t ∧ t = { s with mem := t.mem }) ∧
  (∀ (s : State) (x n a : Nat) (w : Option (List Byte)), s.quayUp = true → x + (w.map List.length).getD n ≤ 2 ^
    s.quay.bar2Log → a = s.bar2Addr x → a < spBase → s.mayReach srcHost a = false →
    ∃ t : State, exec (.bar2Access x n w) s = .next t ∧ t.outbox = s.outbox ++ (if w.isSome then [] else [Out.hostRead none]) ∧
          Raised modLog srcQuay 0x0705 (leBytes 8 x ++ leBytes 1 (if w.isSome then 1 else 0)) s t ∧ t = { s with evt := t.evt, outbox := t.outbox }) ∧
  (∀ (s : State) (rate width : Nat), RegsOk s → s.mainUp = true → s.pwr.perstN = true → s.pwr.refclk = true → rate ∈
    [64, 32, 16, 8, 5, 2] → width ∈ [16, 8, 4] → s.quay.maxRate < 256 → s.quay.maxWidth < 32 →
    ∃ t : State, exec (.pcieLinkTraining rate width) s = .next t ∧ t.fld .qStat Q_STAT_LINKGEN = min rate s.quay.maxRate ∧
          t.fld .qStat Q_STAT_LINKW = min width s.quay.maxWidth ∧ RegsBut [.qStat, .glbInt] s t ∧
          (8 ≤ min rate s.quay.maxRate → 16 ≤ min width s.quay.maxWidth → t.evt = s.evt) ∧
          (min rate s.quay.maxRate < 8 ∨ min width s.quay.maxWidth < 16 →
            Raised modLog srcQuay 0x0706 (leBytes 1 (min rate s.quay.maxRate) ++ leBytes 1 (min width s.quay.maxWidth)) s t) ∧
          t = { s with regs := t.regs, evt := t.evt }) ∧
  (∀ (s : State) (rate width : Nat), RegsOk s → s.mainUp = true → s.pwr.perstN = true → s.pwr.refclk = true → (rate ∉
    [64, 32, 16, 8, 5, 2] ∨ width ∉ [16, 8, 4]) →
    ∃ t : State, exec (.pcieLinkTraining rate width) s = .next t ∧ t.fld .qStat Q_STAT_LINKGEN = 0 ∧ t.fld .qStat Q_STAT_LINKW = 0 ∧
          RegsBut [.qStat] s t ∧ t = { s with regs := t.regs }) ∧
  (∀ (s : State) (nonce : List Byte) (off n : Nat), s.linkUp = true →
    exec .doeDiscovery s = .next (s.emit (.doe [0#8, 1#8])) ∧
          exec .getVersion s = .next ({ s with quay := { s.quay with spdm := { s.quay.spdm with version := true } } }.emit (.doe [0x12#8, 0x13#8])) ∧
          exec .getCapabilities s = .next ({ s with quay := { s.quay with spdm := { s.quay.spdm with caps := true } } }.emit (.doe [1#8, 1#8, 1#8, 0#8])) ∧
          exec .negotiateAlgorithms s = .next ({ s with quay := { s.quay with spdm := { s.quay.spdm with algs := true } } }.emit (.doe (leBytes 2 384 ++ leBytes 2 384))) ∧
          exec .getDigests s = .next (s.emit (.doe (Config.sha384 (Config.certChain s.measAll)))) ∧
          exec (.getCertificate off n) s = .next (s.emit (.doe (((Config.certChain s.measAll).drop off).take n))) ∧
          exec (.challenge nonce) s = .next (s.emit (.doe (Config.sha384 (Config.certChain s.measAll) ++
            Config.aliasSign s.measAll (nonce ++ Config.sha384 (Config.certChain s.measAll))))) ∧
          exec (.getMeasurements nonce) s = .next (s.emit (.doe (((rangeFrom 1 9).flatMap fun i => tgetD [] s.trust.meas i) ++
            Config.aliasSign s.measAll (nonce ++ ((rangeFrom 1 9).flatMap fun i => tgetD [] s.trust.meas i))))))

/-- OBJ_CREATE with a bad operand, or for a tenant that is disabled or foreign, ends with INVALID_PARAMETER, above a
quota with QUOTA, without room with CAPACITY; else with SUCCESS and the handle of a new object of the size, tier, hub
and flash home asked for, and other objects stay. OBJ_FREE of a resting object removes it and no other and releases its
charges; of a moving one it waits for the tile; an object of a collection is BUSY, an unknown handle NO_OBJECT. OBJ_MOVE
to any tier charges and starts, by the same refusals; while one runs a second ends with BUSY. What another tenant freed
of the room taken reads 0, other bytes stay. A tile, with no write held, moves the tile's places to the target and goes
on, or ends the move with SUCCESS after the last or FREED before a waiting OBJ_FREE; a tile that goes from one DRAM
piece to flash keeps its bytes. One whose copy met an uncorrectable error without a flash home ends the move with
DATA_LOST. OBJ_SYNC gives the flash home the bytes of an object of one piece; without a home it is INVALID_PARAMETER. -/
def Obligations.ObjectCommands : Prop :=
  (∀ (s : State) (n : Nat) (c : Cmd), Fetched n 0x10 c s → c.n = n → (tierOf (c.fld 48 1) = none ∨ c.fld 40 4 = 0 ∨
    65536 < c.fld 40 4 ∨ c.fld 44 4 = 0 ∨ 3 < c.fld 49 1 ∨ stackOk ((tierOf (c.fld 48 1)).getD .hbm) (c.fld 49 1)
    (c.fld 50 1) = false ∨ 63 < c.fld 51 1 ∨ 1023 < c.fld 52 2 ∨ s.tenantOk (c.fld 52 2) (c.fld 51 1) = false) →
    ∃ t : State, exec (.objCreate n) s = .next t ∧ Ended n stInvalidParameter 0 0 [] s t ∧ t = { s with quay := { s.quay with cmds := t.quay.cmds } }) ∧
  (∀ (s : State) (n p t0 h size fu : Nat) (c : Cmd) (tr : Tier), Fetched n 0x10 c s → c.n = n → p = c.fld 51 1 → t0 =
    c.fld 52 2 → h = c.fld 49 1 → size = c.fld 40 4 * c.fld 44 4 → tierOf (c.fld 48 1) = some tr → 1 ≤ c.fld 40 4 →
    c.fld 40 4 ≤ 65536 → 1 ≤ c.fld 44 4 → h ≤ 3 → p ≤ 63 → t0 ≤ 1023 → stackOk tr h (c.fld 50 1) = true → s.tenantOk
    t0 p = true → (fu = if tr = .flash ∨ bitAt c.flags 0 = true then ceilDiv size (2 ^ 20) else 0) → ((tr ≠ .flash ∧
    s.quotaOk t0 tr.k (ceilDiv size 65536) = false) ∨ s.quotaOk t0 3 fu = false) →
    ∃ t : State, exec (.objCreate n) s = .next t ∧ Ended n stQuota 0 0 [] s t ∧ t = { s with quay := { s.quay with cmds := t.quay.cmds } }) ∧
  (∀ (s : State) (n p t0 h size fu : Nat) (c : Cmd) (tr : Tier), Fetched n 0x10 c s → c.n = n → p = c.fld 51 1 → t0 =
    c.fld 52 2 → h = c.fld 49 1 → size = c.fld 40 4 * c.fld 44 4 → tierOf (c.fld 48 1) = some tr → 1 ≤ c.fld 40 4 →
    c.fld 40 4 ≤ 65536 → 1 ≤ c.fld 44 4 → h ≤ 3 → p ≤ 63 → t0 ≤ 1023 → stackOk tr h (c.fld 50 1) = true → s.tenantOk
    t0 p = true → (fu = if tr = .flash ∨ bitAt c.flags 0 = true then ceilDiv size (2 ^ 20) else 0) → (tr ≠ .flash →
    s.quotaOk t0 tr.k (ceilDiv size 65536) = true) → s.quotaOk t0 3 fu = true → (s.flashRoom p fu = false ∨ s.findRoom
    p tr h (c.fld 50 1) size = none ∨ pickFree (Config.freeChoice s.fresh) (2 ^ 20) ((s.tier.objs.filter (·.hub =
    h)).map Obj.number) = none) →
    ∃ t : State, exec (.objCreate n) s = .next t ∧ Ended n stCapacity 0 0 [] s t ∧ t = { s with quay := { s.quay with cmds := t.quay.cmds } }) ∧
  (∀ (s : State) (n p t0 h size fu m : Nat) (c : Cmd) (tr : Tier) (xs : List (Nat × Nat)), MemOk s → Fetched n 0x10 c
    s → c.n = n → p = c.fld 51 1 → t0 = c.fld 52 2 → h = c.fld 49 1 → size = c.fld 40 4 * c.fld 44 4 → tierOf (c.fld
    48 1) = some tr → 1 ≤ c.fld 40 4 → c.fld 40 4 ≤ 65536 → 1 ≤ c.fld 44 4 → h ≤ 3 → p ≤ 63 → t0 ≤ 1023 → stackOk tr h
    (c.fld 50 1) = true → s.tenantOk t0 p = true → (fu = if tr = .flash ∨ bitAt c.flags 0 = true then ceilDiv size (2
    ^ 20) else 0) → (tr ≠ .flash → s.quotaOk t0 tr.k (ceilDiv size 65536) = true) → s.quotaOk t0 3 fu = true →
    s.flashRoom p fu = true → s.findRoom p tr h (c.fld 50 1) size = some xs → pickFree (Config.freeChoice s.fresh) (2
    ^ 20) ((s.tier.objs.filter (·.hub = h)).map Obj.number) = some m → s.obj (handleBits t0 p h (tgetD 0 s.tier.salts
    (h * 2 ^ 20 + m)) m) = none →
    ∃ t : State, exec (.objCreate n) s = .next t ∧
          Ended n stSuccess (handleBits t0 p h (tgetD 0 s.tier.salts (h * 2 ^ 20 + m)) m) 0 [] s t ∧
          (t.obj (handleBits t0 p h (tgetD 0 s.tier.salts (h * 2 ^ 20 + m)) m)).map
            (fun o => (o.elemb, o.elems, o.tier)) = some (c.fld 40 4, c.fld 44 4, tr) ∧
          (t.obj (handleBits t0 p h (tgetD 0 s.tier.salts (h * 2 ^ 20 + m)) m)).map (fun o => (o.tenant, o.part, o.hub, o.hasHome)) =
            some (t0, p, h, bitAt c.flags 0) ∧
          t.tier.objs.dropLast = s.tier.objs ∧ (∀ x ∈ xs, ∀ d ∈ s.tier.dirty, d.1 ≠ t0 → ∀ a, x.1 ≤ a ∧ a < x.1 + x.2 ∧ d.2.1 ≤ a ∧ a < d.2.1 + d.2.2 → memByte t.mem a = 0#8) ∧
          (∀ a, (∀ x ∈ xs, a < x.1 ∨ x.1 + x.2 ≤ a) → memByte t.mem a = memByte s.mem a) ∧ RegsBut [.tnTier (4 * t0), .tnTier (4 * t0 + 1), .tnTier (4 * t0 + 2), .tnTier (4 * t0 + 3)] s t ∧ t.evt = s.evt) ∧
  (∀ (s : State) (n h : Nat) (c : Cmd) (o : Obj), RegsOk s → Fetched n 0x11 c s → c.n = n → h = c.fld 40 8 → s.obj h =
    some o → o.move = none → o.coll = false →
    ∃ t : State, exec (.objFree n) s = .next t ∧ Ended n stSuccess 0 0 [] s t ∧ t.obj h = none ∧ (∀ k, k ≠ h → t.obj k = s.obj k) ∧
          (∀ k < 4, t.use o.tenant k = s.use o.tenant k - tgetD 0 o.charged k) ∧
          RegsBut [.tnTier (4 * o.tenant), .tnTier (4 * o.tenant + 1), .tnTier (4 * o.tenant + 2), .tnTier (4 * o.tenant + 3)] s t ∧
          t = { s with regs := t.regs, quay := { s.quay with cmds := t.quay.cmds }, tier := t.tier }) ∧
  (∀ (s : State) (n h : Nat) (c : Cmd) (o : Obj) (m : Move), Fetched n 0x11 c s → c.n = n → h = c.fld 40 8 → s.obj h =
    some o → o.coll = false → o.move = some m → m.freeBy = none →
    ∃ t : State, exec (.objFree n) s = .next t ∧ (t.obj h).map Obj.move = some (some { m with freeBy := some n }) ∧ (∀ k, k ≠ h → t.obj k = s.obj k) ∧
          t.quay.cmds = mapIf (·.n = n) (fun c => { c with st := .running }) s.quay.cmds ∧
          t = { s with quay := { s.quay with cmds := t.quay.cmds }, tier := { s.tier with objs := t.tier.objs } }) ∧
  (∀ (s : State) (n h st : Nat) (c : Cmd), Fetched n 0x11 c s → c.n = n → h = c.fld 40 8 → ((st = stNoObject ∧ (s.obj
    h = none ∨ (s.obj h).any (fun o => !o.coll && o.move.any fun m => m.freeBy.isSome) = true)) ∨ (st = stBusy ∧
    (s.obj h).any Obj.coll = true)) →
    ∃ t : State, exec (.objFree n) s = .next t ∧ Ended n st 0 0 [] s t ∧ t = { s with quay := { s.quay with cmds := t.quay.cmds } }) ∧
  (∀ (s : State) (n h lo hi u : Nat) (c : Cmd) (o : Obj) (tr : Tier) (xs : List (Nat × Nat)), Canonical s → Fetched n
    0x12 c s → c.n = n → h = c.fld 40 8 → s.obj h = some o → tierOf (c.fld 60 1) = some tr → lo = c.fld 48 8 * o.elemb
    → hi = (c.fld 48 8 + c.fld 56 4) * o.elemb → 1 ≤ c.fld 56 4 → c.fld 48 8 + c.fld 56 4 ≤ o.elems → stackOk tr o.hub
    (c.fld 61 1) = true → s.tenantOk o.tenant o.part = true → (o.coll = true → tr ≠ .sketch ∧ s.holdsRows h = false) →
    o.move = none → (u = if o.coll = true ∨ (tr = .flash ∧ o.hasHome = true) then 0 else ceilDiv (hi - lo) (tierUnit
    tr.k)) → s.quotaOk o.tenant tr.k u = true → (o.coll = true → s.overQuota o.tenant tr.k (hi - lo) = false) → (tr =
    .flash → s.flashRoom o.part u = true) → s.findRoom o.part tr o.hub (c.fld 61 1) (hi - lo) = some xs →
    ∃ t : State, exec (.objMove n) s = .next t ∧
          (t.obj h).map Obj.move = some (some
            { lo, hi, tier := tr, next := lo, cmd := n, target := if tr = .flash then [⟨lo, hi - lo, none⟩] else toPieces lo (hi - lo) xs }) ∧ (t.obj h).map Obj.pieces = some o.pieces ∧
          (∀ k, k ≠ h → t.obj k = s.obj k) ∧ t.use o.tenant tr.k = min (s.use o.tenant tr.k + u) (2 ^ 32 - 1) ∧
          t.quay.cmds = mapIf (·.n = n) (fun c => { c with st := .running }) s.quay.cmds ∧ (∀ x ∈ xs, ∀ d ∈ s.tier.dirty, d.1 ≠ o.tenant → ∀ a, x.1 ≤ a ∧ a < x.1 + x.2 ∧ d.2.1 ≤ a ∧ a < d.2.1 + d.2.2 → memByte t.mem a = 0#8) ∧
          (∀ a, (∀ x ∈ xs, a < x.1 ∨ x.1 + x.2 ≤ a) → memByte t.mem a = memByte s.mem a) ∧
          RegsBut [.tnTier (4 * o.tenant + tr.k)] s t ∧ t.evt = s.evt) ∧
  (∀ (s : State) (n h st : Nat) (c : Cmd), Fetched n 0x12 c s → c.n = n → h = c.fld 40 8 → ((st = stNoObject ∧ s.obj h
    = none) ∨ (st = stInvalidParameter ∧ (s.obj h).any (fun o => (tierOf (c.fld 60 1)).isNone || decide (c.fld 56 4 =
    0) || decide (o.elems < c.fld 48 8 + c.fld 56 4) || !(stackOk ((tierOf (c.fld 60 1)).getD .hbm) o.hub (c.fld 61
    1)) || !(s.tenantOk o.tenant o.part)) = true)) →
    ∃ t : State, exec (.objMove n) s = .next t ∧ Ended n st 0 0 [] s t ∧ t = { s with quay := { s.quay with cmds := t.quay.cmds } }) ∧
  (∀ (s : State) (n h lo hi : Nat) (c : Cmd) (o : Obj) (tr : Tier), Fetched n 0x12 c s → c.n = n → h = c.fld 40 8 →
    s.obj h = some o → tierOf (c.fld 60 1) = some tr → lo = c.fld 48 8 * o.elemb → hi = (c.fld 48 8 + c.fld 56 4) *
    o.elemb → 1 ≤ c.fld 56 4 → c.fld 48 8 + c.fld 56 4 ≤ o.elems → stackOk tr o.hub (c.fld 61 1) = true → s.tenantOk
    o.tenant o.part = true → (o.coll = true → tr ≠ .sketch ∧ s.holdsRows h = false) → o.move ≠ none →
    ∃ t : State, exec (.objMove n) s = .next t ∧ Ended n stBusy 0 0 [] s t ∧ t = { s with quay := { s.quay with cmds := t.quay.cmds } }) ∧
  (∀ (s : State) (n h lo hi u : Nat) (c : Cmd) (o : Obj) (tr : Tier), Fetched n 0x12 c s → c.n = n → h = c.fld 40 8 →
    s.obj h = some o → tierOf (c.fld 60 1) = some tr → lo = c.fld 48 8 * o.elemb → hi = (c.fld 48 8 + c.fld 56 4) *
    o.elemb → 1 ≤ c.fld 56 4 → c.fld 48 8 + c.fld 56 4 ≤ o.elems → stackOk tr o.hub (c.fld 61 1) = true → s.tenantOk
    o.tenant o.part = true → (o.coll = true → tr ≠ .sketch ∧ s.holdsRows h = false) → o.move = none → (u = if o.coll =
    true ∨ (tr = .flash ∧ o.hasHome = true) then 0 else ceilDiv (hi - lo) (tierUnit tr.k)) → (s.quotaOk o.tenant tr.k
    u = false ∨ (o.coll = true ∧ s.overQuota o.tenant tr.k (hi - lo) = true)) →
    ∃ t : State, exec (.objMove n) s = .next t ∧ Ended n stQuota 0 0 [] s t ∧ t = { s with quay := { s.quay with cmds := t.quay.cmds } }) ∧
  (∀ (s : State) (n h lo hi u : Nat) (c : Cmd) (o : Obj) (tr : Tier), Fetched n 0x12 c s → c.n = n → h = c.fld 40 8 →
    s.obj h = some o → tierOf (c.fld 60 1) = some tr → lo = c.fld 48 8 * o.elemb → hi = (c.fld 48 8 + c.fld 56 4) *
    o.elemb → 1 ≤ c.fld 56 4 → c.fld 48 8 + c.fld 56 4 ≤ o.elems → stackOk tr o.hub (c.fld 61 1) = true → s.tenantOk
    o.tenant o.part = true → (o.coll = true → tr ≠ .sketch ∧ s.holdsRows h = false) → o.move = none → (u = if o.coll =
    true ∨ (tr = .flash ∧ o.hasHome = true) then 0 else ceilDiv (hi - lo) (tierUnit tr.k)) → s.quotaOk o.tenant tr.k u
    = true → (o.coll = true → s.overQuota o.tenant tr.k (hi - lo) = false) → ((tr = .flash ∧ s.flashRoom o.part u =
    false) ∨ s.findRoom o.part tr o.hub (c.fld 61 1) (hi - lo) = none) →
    ∃ t : State, exec (.objMove n) s = .next t ∧ Ended n stCapacity 0 0 [] s t ∧ t = { s with quay := { s.quay with cmds := t.quay.cmds } }) ∧
  (∀ (s : State) (h lo hi : Nat) (ue : Bool) (o : Obj) (m : Move), s.obj h = some o → o.move = some m → (ue = false ∨
    o.hasHome = true) → s.tier.heldW = [] → lo = m.next → hi = min (lo + 65536) m.hi → m.freeBy = none → hi < m.hi →
    ∃ t : State, exec (.moveTileSwitch h ue) s = .next t ∧ (t.obj h).map Obj.pieces = some (rePlace o.pieces lo hi m.target) ∧
          (t.obj h).map Obj.move = some (some { m with next := hi }) ∧ t.quay = s.quay ∧ t.coll = s.coll) ∧
  (∀ (s : State) (h lo hi : Nat) (ue : Bool) (o : Obj) (m : Move), s.obj h = some o → o.move = some m → (ue = false ∨
    o.hasHome = true) → s.tier.heldW = [] → lo = m.next → hi = min (lo + 65536) m.hi → m.freeBy = none → m.hi ≤ hi →
    o.coll = false →
    ∃ t : State, exec (.moveTileSwitch h ue) s = .next t ∧ (t.obj h).map Obj.pieces = some (rePlace o.pieces lo hi m.target) ∧
          (t.obj h).map Obj.move = some none ∧ Ended m.cmd stSuccess 0 0 [] s t ∧ t.coll = s.coll) ∧
  (∀ (s : State) (h lo hi : Nat) (ue : Bool) (o : Obj) (m : Move) (f : Nat), s.obj h = some o → o.move = some m → (ue
    = false ∨ o.hasHome = true) → s.tier.heldW = [] → lo = m.next → hi = min (lo + 65536) m.hi → m.freeBy = some f →
    o.coll = false →
    ∃ t : State, exec (.moveTileSwitch h ue) s = .next t ∧ t.obj h = none ∧ (∀ k, k ≠ h → t.obj k = s.obj k) ∧
          t.quay.cmds = mapIf (·.n = f) (fun c => { c with st := .done stSuccess 0 0 [] })
            (mapIf (·.n = m.cmd) (fun c => { c with st := .done stFreed 0 0 [] }) s.quay.cmds) ∧ t.coll = s.coll) ∧
  (∀ (s : State) (h lo hi : Nat) (ue : Bool) (o : Obj) (m : Move) (a : Nat), MemOk s → (twf (fun _ => 0#8) o.flash =
    true) → (twf (fun _ => 0#8) o.home = true) → s.obj h = some o → o.move = some m → (ue = false ∨ o.hasHome = true)
    → s.tier.heldW = [] → lo = m.next → hi = min (lo + 65536) m.hi → m.freeBy = none → hi < m.hi → ue = false → m.tier
    = .flash → m.target = [⟨m.lo, m.hi - m.lo, none⟩] → m.lo ≤ lo → o.pieces = [⟨0, o.size, some a⟩] → hi ≤ o.size →
    ∃ t : State, exec (.moveTileSwitch h ue) s = .next t ∧ (∀ i, lo ≤ i ∧ i < hi → (t.obj h).map (fun o => t.objByte o i) = some (s.objByte o i)) ∧ t.mem = s.mem) ∧
  (∀ (s : State) (h : Nat) (o : Obj) (m : Move), s.obj h = some o → o.move = some m → o.hasHome = false →
    ∃ t : State, exec (.moveTileSwitch h true) s = .next t ∧ (t.obj h).map Obj.move = some none ∧ (t.obj h).map Obj.pieces = some o.pieces ∧
          Ended m.cmd stDataLost 0 0 [] s t ∧ t.mem = s.mem ∧ t.evt = s.evt) ∧
  (∀ (s : State) (n h : Nat) (c : Cmd) (o : Obj) (pl : Option Nat), MemOk s → Fetched n 0x13 c s → c.n = n → h = c.fld
    40 8 → s.obj h = some o → (twf (fun _ => 0#8) o.home = true) → (twf (fun _ => 0#8) o.flash = true) → o.hasHome =
    true → o.pieces = [⟨0, o.size, pl⟩] →
    ∃ t : State, exec (.objSync n) s = .next t ∧ Ended n stSuccess 0 0 [] s t ∧
          (∀ i < o.size, (t.obj h).map (fun o => tgetD 0#8 o.home i) = some (s.objByte o i)) ∧ RegsBut [.flStat] s t ∧ t.mem = s.mem) ∧
  (∀ (s : State) (n h st : Nat) (c : Cmd), Fetched n 0x13 c s → c.n = n → h = c.fld 40 8 → ((st = stNoObject ∧ s.obj h
    = none) ∨ (st = stInvalidParameter ∧ (s.obj h).any (fun o => !o.hasHome) = true)) →
    ∃ t : State, exec (.objSync n) s = .next t ∧ Ended n st 0 0 [] s t ∧ t = { s with quay := { s.quay with cmds := t.quay.cmds } })

/-- A narrow-path read of DRAM that the requester may reach, with no error, answers its bytes and changes nothing else;
with a corrected error it answers them too; an uncorrectable one, or lost memory, refuses a requester that is no quad
unit. A write stores exactly its bytes; other modules' copies do not stop it. While its block is under conversion or its
granule under a wipe the access is held as it came. An access outside the requester's granules changes no byte: a quad
unit raises ADDR, another requester is refused. An add of types 1 to 7 replaces each element by the sum or maximum of
its type and counts one update with its overflows and clamps at its hub; no other byte and no other register changes. An
INT32 add gives the sum modulo 2^32. A reserved type raises MSA_REFUSED and changes no byte, as does an adder's fault,
which is refused. -/
def Obligations.MemoryPathsAndAdds : Prop :=
  (∀ (s : State) (src a n : Nat), 1 ≤ n → a % 256 + n ≤ 256 → a < spBase → regionOf a ≠ .unmapped → s.mayReach src a =
    true → s.mayReach src (a + n - 1) = true → s.converting a = false → s.lostIn a n = false →
    exec (.narrowPathAccess src (.addr a) n none .good) s = .next (s.emit (.readResp src a (s.rd a n)))) ∧
  (∀ (s : State) (src a n : Nat), 1 ≤ n → a % 256 + n ≤ 256 → a < spBase → regionOf a ≠ .unmapped → s.mayReach src a =
    true → s.mayReach src (a + n - 1) = true → s.converting a = false → s.lostIn a n = false → s.inPlain a = false →
    ∃ t : State, exec (.narrowPathAccess src (.addr a) n none .ce) s = .next t ∧ t.outbox = s.outbox ++ [Out.readResp src a (s.rd a n)] ∧ t.mem = s.mem) ∧
  (∀ (s : State) (src a n : Nat) (e : MemErr), 1 ≤ n → a % 256 + n ≤ 256 → a < spBase → regionOf a ≠ .unmapped →
    s.mayReach src a = true → s.mayReach src (a + n - 1) = true → s.converting a = false → s.inPlain a = false →
    isQuadUnit src = false → (e = .ue ∨ (e = .good ∧ s.lostIn a n = true)) →
    ∃ t : State, exec (.narrowPathAccess src (.addr a) n none e) s = .next t ∧ t.outbox = s.outbox ++ [Out.refusal src a 4] ∧ t.mem = s.mem) ∧
  (∀ (s : State) (src a : Nat) (b : List Byte), MemOk s → b ≠ [] → a % 256 + b.length ≤ 256 → a < spBase → regionOf a
    ≠ .unmapped → s.mayReach src a = true → s.mayReach src (a + b.length - 1) = true → s.converting a = false →
    s.lostIn a b.length = false → (∀ l ∈ s.net.dir, s.sharers l.1 = 0 ∨ l.1 * 256 + 256 ≤ a ∨ a + b.length ≤ l.1 *
    256) →
    ∃ t : State, exec (.narrowPathAccess src (.addr a) b.length (some b) .good) s = .next t ∧ memRead t.mem a b.length = b ∧ MemBut a b.length s t ∧
          t = { s with mem := t.mem }) ∧
  (∀ (s : State) (src a : Nat) (b : List Byte), MemOk s → b ≠ [] → a % 256 + b.length ≤ 256 → a < spBase → regionOf a
    ≠ .unmapped → s.mayReach src a = true → s.mayReach src (a + b.length - 1) = true → s.converting a = false →
    s.lostIn a b.length = false →
    ∃ t : State, exec (.narrowPathAccess src (.addr a) b.length (some b) .good) s = .next t ∧ memRead t.mem a b.length = b) ∧
  (∀ (s : State) (src a n : Nat) (d : Option (List Byte)) (e : MemErr), 1 ≤ n → a % 256 + n ≤ 256 → a < spBase →
    regionOf a ≠ .unmapped → s.mayReach src a = true → s.mayReach src (a + n - 1) = true → s.converting a = true →
    exec (.narrowPathAccess src (.addr a) n d e) s = .next (s.hold ⟨src, .addr a, n, d, 0, none⟩)) ∧
  (∀ (s : State) (src a n : Nat) (d : Option (List Byte)) (e : MemErr), 1 ≤ n → a % 256 + n ≤ 256 → (a < spBase ∨
    regionOf a = .unmapped) → isQuadUnit src = false → s.mayReach src a = false →
    exec (.narrowPathAccess src (.addr a) n d e) s = .next (s.emit (.refusal src a 3))) ∧
  (∀ (s : State) (src a n : Nat) (d : Option (List Byte)) (e : MemErr), 1 ≤ n → a % 256 + n ≤ 256 → (a < spBase ∨
    regionOf a = .unmapped) → isQuadUnit src = true → s.mayReach src a = false →
    ∃ t : State, exec (.narrowPathAccess src (.addr a) n d e) s = .next t ∧ t.mem = s.mem ∧ t.outbox = s.outbox ∧ Raised (s.quadLog (src / 16)) src 0x0306 [] s t) ∧
  (∀ (s : State) (src a k : Nat) (b : List Byte), MemOk s → RegsOk s → 1 ≤ k → k ≤ 7 → b ≠ [] → b.length ≤ 256 →
    b.length % addWidth k = 0 → a < spBase → regionOf a ≠ .unmapped → s.mayReach src a = true → s.mayReach src (a +
    b.length - 1) = true → s.converting a = false → s.lostIn a b.length = false → (∀ l ∈ s.net.dir, s.sharers l.1 = 0
    ∨ l.1 * 256 + 256 ≤ a ∨ a + b.length ≤ l.1 * 256) → (∀ n o, regionOf a = .sketch n o → s.plainBlock n o = false) →
    ∃ t : State, exec (.memorySideAdd src (.addr a) k b false) s = .next t ∧ memRead t.mem a b.length = (addBytes k (b.length / addWidth k) (s.rd a b.length) b).1 ∧
          MemBut a b.length s t ∧
          t.fld (.msaStat ((hubOf a).getD 0)) MSA_STAT_ADDS = (s.fld (.msaStat ((hubOf a).getD 0)) MSA_STAT_ADDS + 1) % 2 ^ MSA_STAT_ADDS.w ∧
          t.fld (.msaStat ((hubOf a).getD 0)) MSA_STAT_FOVF =
            satAdd 65535 (s.fld (.msaStat ((hubOf a).getD 0)) MSA_STAT_FOVF) (addBytes k (b.length / addWidth k) (s.rd a b.length) b).2.1 ∧
          t.fld (.msaStat ((hubOf a).getD 0)) MSA_STAT_ISAT =
            satAdd 65535 (s.fld (.msaStat ((hubOf a).getD 0)) MSA_STAT_ISAT) (addBytes k (b.length / addWidth k) (s.rd a b.length) b).2.2 ∧
          RegsBut [.msaStat ((hubOf a).getD 0)] s t ∧ t = { s with mem := t.mem, regs := t.regs }) ∧
  (∀ (s : State) (src a x : Nat), MemOk s → RegsOk s → a % 4 = 0 → a < 12 * hbmSize → s.mayReach src a = true →
    s.mayReach src (a + 3) = true → s.converting a = false → s.lostIn a 4 = false → (∀ l ∈ s.net.dir, s.sharers l.1 =
    0 ∨ l.1 * 256 + 256 ≤ a ∨ a + 4 ≤ l.1 * 256) → x < 2 ^ 32 →
    ∃ t : State, exec (.memorySideAdd src (.addr a) 4 (leBytes 4 x) false) s = .next t ∧ t.rdLE a 4 = (s.rdLE a 4 + x) % 2 ^ 32 ∧ MemBut a 4 s t ∧
          t.fld (.msaStat (a / gib / 108)) MSA_STAT_ADDS = (s.fld (.msaStat (a / gib / 108)) MSA_STAT_ADDS + 1) % 2 ^ MSA_STAT_ADDS.w ∧
          RegsBut [.msaStat (a / gib / 108)] s t ∧ t = { s with mem := t.mem, regs := t.regs }) ∧
  (∀ (s : State) (src a k : Nat) (b : List Byte), MemOk s → RegsOk s → 1 ≤ k → k ≤ 7 → b ≠ [] → b.length ≤ 256 →
    b.length % addWidth k = 0 → a < spBase → regionOf a ≠ .unmapped → s.mayReach src a = true → s.mayReach src (a +
    b.length - 1) = true → s.converting a = true → (∀ n o, regionOf a = .sketch n o → s.plainBlock n o = false) →
    exec (.memorySideAdd src (.addr a) k b false) s = .next (s.hold ⟨src, .addr a, b.length, some b, k, none⟩)) ∧
  (∀ (s : State) (src a k : Nat) (b : List Byte), 8 ≤ k → k ≤ 15 → b ≠ [] → b.length ≤ 256 → isQuadUnit src = false →
    ∃ t : State, exec (.memorySideAdd src (.addr a) k b false) s = .next t ∧ Raised (s.addrLog a) (srcHub ((hubOf a).getD 0)) 0x0507 [] s t ∧ t.outbox = s.outbox ++ [Out.refusal src a 4] ∧
          t = { s with evt := t.evt, outbox := t.outbox }) ∧
  (∀ (s : State) (src a k : Nat) (b : List Byte), 1 ≤ k → k ≤ 15 → b ≠ [] → b.length ≤ 256 → (k ≤ 7 → b.length %
    addWidth k = 0) → isQuadUnit src = false →
    exec (.memorySideAdd src (.addr a) k b true) s = .next (s.emit (.refusal src a 4)))

/-- A lane failure without a spare marks the HBM3E channel half width and raises MEM_CHFAIL, with a spare only the
event; no byte is lost. A failed channel, HBM3E stack, GDDR7 device or sketch stack has its bytes lost, and memory keeps
what it holds. A report records the temperature and sets the state by the thresholds of its memory and the state before,
raising the event when it rises; 86 or more from a cool HBM3E stack doubles refresh. A NAND report sets the state
likewise and throttles flash in any but the lowest; 71 or more does from cool. A flash read answers the 512 bytes of its
unit from the residence or the home; one that needed retries counts RETRY, a rebuilt one REBUILD too and raises the
event; one beyond rebuild answers a refusal and counts UE. A program failure is counted; without spare it makes its die
read-only and lowers the capacity beyond a sixteenth of the dies; of a die already read-only it changes nothing. A
failed die is under rebuild until its relocation completes, RELOC clearing with the last. The end of a counting window
clears WCOUNT and brings the written configuration into effect, and before its end nothing happens. -/
def Obligations.MemoryErrorsTemperaturesAndFlash : Prop :=
  (∀ (s : State) (u c : Nat), RegsOk s → u < 12 → c < 16 →
    ∃ t : State, exec (.memChfail u (.laneNoSpare c)) s = .next t ∧ bitAt (t.fld (.memHstat u) MEM_HSTAT_HALFW) c = true ∧
          (∀ a, t.byteLost a = s.byteLost a) ∧ Raised modLog (srcHs u) 0x0504 [] s t ∧ RegsBut [.memHstat u] s t ∧ t = { s with regs := t.regs, evt := t.evt }) ∧
  (∀ (s : State) (u : Nat), u < 12 →
    ∃ t : State, exec (.memChfail u .laneSpare) s = .next t ∧ Raised modLog (srcHs u) 0x0504 [] s t ∧ t = { s with evt := t.evt }) ∧
  (∀ (s : State) (u c : Nat), RegsOk s → u < 12 → c < 16 →
    ∃ t : State, exec (.memChfail u (.channel c)) s = .next t ∧ (∀ a o, regionOf a = .hbm u o → hbmChannel o = c → t.byteLost a = true) ∧ t.mem = s.mem) ∧
  (∀ (s : State) (u : Nat), RegsOk s → (u < 12 ∨ (16 ≤ u ∧ u < 64) ∨ (64 ≤ u ∧ u < 72)) →
    ∃ t : State, exec (.memChfail u .whole) s = .next t ∧ (∀ a n o, (regionOf a = .hbm n o ∧ u = n) ∨ (regionOf a = .gddr n o ∧ u = 16 + gddrDev n o) ∨ (regionOf a = .sketch n o ∧ u = 64 + n) →
            t.byteLost a = true) ∧ t.mem = s.mem) ∧
  (∀ (s : State) (u x : Nat), RegsOk s → u < 12 → tgetD 0 s.pwr.thermal u = 0 → 86 ≤ x → x < 96 → x < s.fld (.memHstat
    u) MEM_HSTAT_LIMIT →
    ∃ t : State, exec (.dramTemperatureReport u x) s = .next t ∧ t.fld (.memHstat u) MEM_HSTAT_TEMP = x ∧ t.fld (.memHstat u) MEM_HSTAT_REFX = 1 ∧
          t.flag (.memHstat u) MEM_HSTAT_T85 = true ∧ t.flag (.memHstat u) MEM_HSTAT_HTHROT = false ∧ tgetD 0 t.pwr.thermal u = 1 ∧
          Raised modLog (srcHs u) 0x0506 [] s t ∧ RegsBut [.memHstat u] s t ∧ t = { s with regs := t.regs, evt := t.evt, pwr := { s.pwr with thermal := t.pwr.thermal } }) ∧
  (∀ (s : State) (u x l : Nat), RegsOk s → (twf (fun _ => 0) s.pwr.thermal = true) → u < 12 → x < 256 → l =
    thermalNext [(86, 82), (96, 92), (s.fld (.memHstat u) MEM_HSTAT_LIMIT, s.fld (.memHstat u) MEM_HSTAT_LIMIT - 3)]
    (tgetD 0 s.pwr.thermal u) x →
    ∃ t : State, exec (.dramTemperatureReport u x) s = .next t ∧ t.fld (.memHstat u) MEM_HSTAT_TEMP = x ∧ t.fld (.memHstat u) MEM_HSTAT_REFX = min l 2 ∧
          t.flag (.memHstat u) MEM_HSTAT_HTHROT = decide (l = 3) ∧ tgetD 0 t.pwr.thermal u = l ∧ RegsBut [.memHstat u] s t ∧
          (if tgetD 0 s.pwr.thermal u < l then Raised modLog (srcHs u) 0x0506 [] s t else t.evt = s.evt) ∧
          t = { s with regs := t.regs, evt := t.evt, pwr := { s.pwr with thermal := t.pwr.thermal } }) ∧
  (∀ (s : State) (u x l : Nat), RegsOk s → (twf (fun _ => 0) s.pwr.thermal = true) → 16 ≤ u → u < 64 → x < 256 → l =
    thermalNext [(86, 82), (100, 97)] (tgetD 0 s.pwr.thermal u) x →
    ∃ t : State, exec (.dramTemperatureReport u x) s = .next t ∧ t.fld (.memGstat (u - 16)) MEM_GSTAT_TEMP = x ∧
          t.flag (.memGstat (u - 16)) MEM_GSTAT_THROT = decide (l = 2) ∧ tgetD 0 t.pwr.thermal u = l ∧ RegsBut [.memGstat (u - 16)] s t ∧
          (if tgetD 0 s.pwr.thermal u < l then Raised modLog (srcGddr (u - 16)) 0x0506 [] s t else t.evt = s.evt) ∧
          t = { s with regs := t.regs, evt := t.evt, pwr := { s.pwr with thermal := t.pwr.thermal } }) ∧
  (∀ (s : State) (x : Nat), RegsOk s → s.pwr.nand = 0 →
    ∃ t : State, exec (.nandTemperatureReport x) s = .next t ∧ t.flag .flStat FL_STAT_FTHROT = decide (71 ≤ x) ∧ RegsBut [.flStat] s t ∧
          t = { s with regs := t.regs, pwr := { s.pwr with nand := t.pwr.nand } }) ∧
  (∀ (s : State) (x : Nat), RegsOk s →
    ∃ t : State, exec (.nandTemperatureReport x) s = .next t ∧ t.pwr.nand = thermalNext [(71, 67), (81, 77), (85, 82)] s.pwr.nand x ∧
          t.flag .flStat FL_STAT_FTHROT = decide (t.pwr.nand ≠ 0) ∧ RegsBut [.flStat] s t ∧
          t = { s with regs := t.regs, pwr := { s.pwr with nand := t.pwr.nand } }) ∧
  (∀ (s : State) (src c h u : Nat) (r : FlashRes) (o : Obj), RegsOk s → s.obj h = some o → (r = .hard ∨ r = .retry) →
    ∃ t : State, exec (.flashRead src c h u r) s = .next t ∧
          t.outbox = s.outbox ++ [Out.readResp src h ((rangeFrom (512 * u) 512).map (tgetD 0#8 (if o.inFlash (512 * u) 512 then o.flash else o.home)))] ∧
          t.fld .flErr FL_ERR_RETRY = (s.fld .flErr FL_ERR_RETRY + if r = .retry then 1 else 0) % 2 ^ 32 ∧ RegsBut [.flErr] s t ∧
          t = { s with regs := t.regs, outbox := t.outbox }) ∧
  (∀ (s : State) (src c h u : Nat) (o : Obj), RegsOk s → s.obj h = some o →
    ∃ t : State, exec (.flashRead src c h u .rebuilt) s = .next t ∧
          t.outbox = s.outbox ++ [Out.readResp src h ((rangeFrom (512 * u) 512).map (tgetD 0#8 (if o.inFlash (512 * u) 512 then o.flash else o.home)))] ∧
          t.fld .flErr FL_ERR_RETRY = (s.fld .flErr FL_ERR_RETRY + 1) % 2 ^ 32 ∧ t.fld .flErr FL_ERR_REBUILD = satAdd 65535 (s.fld .flErr FL_ERR_REBUILD) 1 ∧
          Raised o.part (srcFc c) 0x0508 [] s t ∧ RegsBut [.flErr] s t ∧ t = { s with regs := t.regs, outbox := t.outbox, evt := t.evt }) ∧
  (∀ (s : State) (src c h u : Nat) (o : Obj), RegsOk s → s.obj h = some o →
    ∃ t : State, exec (.flashRead src c h u .fail) s = .next t ∧ t.outbox = s.outbox ++ [Out.refusal src h 4] ∧
          t.fld .flErr FL_ERR_UE = satAdd 65535 (s.fld .flErr FL_ERR_UE) 1 ∧ Raised o.part (srcFc c) 0x0501 (leBytes 8 (512 * u) ++ leBytes 8 h) s t ∧
          RegsBut [.flErr] s t ∧ t = { s with regs := t.regs, outbox := t.outbox, evt := t.evt }) ∧
  (∀ (s : State) (d : Nat), RegsOk s → d < nandDies → s.tier.readOnly.contains d = false → s.tier.readOnly.length <
    nandDies / 16 →
    ∃ t : State, exec (.flashProgramFail d true) s = .next t ∧ t.tier.readOnly = s.tier.readOnly ++ [d] ∧ t.tier.relocating = s.tier.relocating ++ [d] ∧
          t.fld .flStat FL_STAT_RODIES = s.tier.readOnly.length + 1 ∧ t.flag .flStat FL_STAT_RELOC = true ∧ t.fld .flStat FL_STAT_USERGB = ratedGb ∧
          t.flag .flStat FL_STAT_CAPLOSS = false ∧ tgetD 0 t.tier.sparesUsed d = tgetD 0 s.tier.sparesUsed d + 1 ∧ Raised modLog srcFlash 0x0509 [] s t ∧
          RegsBut [.flStat] s t ∧ t = { s with regs := t.regs, evt := t.evt, tier := t.tier }) ∧
  (∀ (s : State) (d : Nat), RegsOk s → d < nandDies → s.tier.readOnly.contains d = false → nandDies / 16 ≤
    s.tier.readOnly.length →
    ∃ t : State, exec (.flashProgramFail d true) s = .next t ∧ t.tier.readOnly = s.tier.readOnly ++ [d] ∧ t.tier.relocating = s.tier.relocating ++ [d] ∧
          t.flag .flStat FL_STAT_RELOC = true ∧ t.flag .flStat FL_STAT_CAPLOSS = true ∧
          t.fld .flStat FL_STAT_USERGB = (4 * ratedGb - 625 * (s.tier.readOnly.length + 1 - nandDies / 16)) / 4 ∧ RegsBut [.flStat] s t) ∧
  (∀ (s : State) (d : Nat), d < nandDies → s.tier.readOnly.contains d = false →
    exec (.flashProgramFail d false) s = .next { s with tier := { s.tier with sparesUsed := tsetD 0 s.tier.sparesUsed d (tgetD 0 s.tier.sparesUsed d + 1) } }) ∧
  (∀ (s : State) (d : Nat) (b : Bool), (nandDies ≤ d ∨ s.tier.readOnly.contains d = true) →
    exec (.flashProgramFail d b) s = .next s) ∧
  (∀ (s : State) (d : Nat), RegsOk s → d < nandDies → s.tier.rebuilding.contains d = false →
    ∃ t : State, exec (.flashDieFail d) s = .next t ∧ t.tier.rebuilding = s.tier.rebuilding ++ [d] ∧ t.flag .flStat FL_STAT_RELOC = true ∧
          Raised modLog srcFlash 0x0508 [] s t ∧ RegsBut [.flStat] s t ∧ t = { s with regs := t.regs, evt := t.evt, tier := { s.tier with rebuilding := t.tier.rebuilding } }) ∧
  (∀ (s : State) (d : Nat), RegsOk s →
    ∃ t : State, exec (.flashRelocationComplete d) s = .next t ∧ t.tier.relocating = s.tier.relocating.filter (· ≠ d) ∧ t.tier.rebuilding = s.tier.rebuilding.filter (· ≠ d) ∧
          t.flag .flStat FL_STAT_RELOC = decide (t.tier.relocating ++ t.tier.rebuilding ≠ []) ∧ RegsBut [.flStat] s t ∧
          t = { s with regs := t.regs, tier := { s.tier with relocating := t.tier.relocating, rebuilding := t.tier.rebuilding } }) ∧
  (∀ (s : State) (k : Nat), RegsOk s → k < 84 → (twf (fun _ => 0) s.arith.cvtStart = true) → (twf (fun _ => regRst
    (.cvtSatcfg 0)) s.arith.cvtNow = true) → tgetD 0 s.arith.cvtStart k + fget (s.cvtNow k) CVT_SATCFG_WINDOW * 400 ≤
    s.svcTime →
    ∃ t : State, exec (.cvtWindowRestart k) s = .next t ∧ t.fld (cvtWin k) CVT_WINCNT_WCOUNT = 0 ∧ tgetD 0 t.arith.cvtStart k = s.svcTime ∧
          t.cvtNow k = s.reg (cvtCfg k) ∧ RegsBut [cvtWin k] s t ∧ t = { s with regs := t.regs, arith := { s.arith with cvtStart := t.arith.cvtStart, cvtNow := t.arith.cvtNow } }) ∧
  (∀ (s : State) (k : Nat), (84 ≤ k ∨ s.svcTime < tgetD 0 s.arith.cvtStart k + fget (s.cvtNow k) CVT_SATCFG_WINDOW *
    400) →
    exec (.cvtWindowRestart k) s = .next s)

/-- LOADQ in front of a bank's queue fills each latch of its mask with the replicated query field, sets its threshold,
marks it loaded and clears its histogram; SETTHR, on arrival, replaces only thresholds; MASKT makes the mask the
complement of the tombstone row; CLAUSE, given time for its rows, ANDs into it the OR of its rows, or the complement;
given time for one row it ORs that row and stays in progress, the mask as it was. ABORT empties the queue and the FIFO.
Each ends OK with its token. One in front that may not run, or that meets a parity error, ends with its status, counted,
with its token. Then the hub gives the bank what it held back for it: with room, the next command that enters the queue.
A poll sends each hit to its quad's select unit, in order, and returns tokens. No byte of memory and no other bank
changes by the command, and by one that ends OK no register. -/
def Obligations.NearBankLatchesMasksAndThresholds : Prop :=
  (∀ (s : State) (g : Nat) (c : NbuCmd) (rest : List NbuCmd), g < 4096 → (s.nbu g).cmds = c :: rest → leAt c.bytes 0 1
    = 1 → s.nbuStarts g = true → s.cmdStatus g c = 0 → (twf (fun _ => 0) (s.nbu g).latch = true) → (twf (fun _ => 0)
    (s.nbu g).thr = true) →
    ∃ t : State, exec (.loadq g false) s = .next (t.fed g) ∧ (t.nbu g).cmds = rest ∧ (t.nbu g).doneTok = leAt c.bytes 2 2 ∧
          (∀ l < 8, bitAt (leAt c.bytes 4 1) l = true →
            tgetD 0 (t.nbu g).latch l = replicate (bits (leAt c.bytes 5 1) 0 4)
              (bits (s.skRow g (queryRow + leAt c.bytes 6 2)) (32 * leAt c.bytes (8 + l) 1) (32 * 2 ^ bits (leAt c.bytes 5 1) 0 4)) ∧
            tgetD 0 (t.nbu g).thr l = leAt c.bytes 16 2 % 1024 ∧ bitAt (t.nbu g).loaded l = true ∧ (∀ b < 64, tgetD 0 (t.nbu g).hist (64 * l + b) = 0)) ∧
          (∀ l < 8, bitAt (leAt c.bytes 4 1) l = false →
            tgetD 0 (t.nbu g).latch l = tgetD 0 (s.nbu g).latch l ∧ tgetD 0 (t.nbu g).thr l = tgetD 0 (s.nbu g).thr l) ∧
          (t.nbu g).mask = (s.nbu g).mask ∧ t = { s with sk := { s.sk with nbus := t.sk.nbus } } ∧ (∀ j, j ≠ g → t.nbu j = s.nbu j)) ∧
  (∀ (s : State) (g st : Nat) (b : Bool) (c : NbuCmd) (rest : List NbuCmd), RegsOk s → (twf (fun _ => ({} : Nbu))
    s.sk.nbus = true) → g < 4096 → (s.nbu g).cmds = c :: rest → (leAt c.bytes 0 1 = 1 ∨ nbuOpcode (leAt c.bytes 0 1) =
    false) → ((s.nbu g).prog ≠ 0 → b = true) → s.nbuStarts g = true → (st = (if b then 7 else s.cmdStatus g c)) → st ≠
    0 → st ≠ 8 →
    ∃ t : State, exec (.loadq g b) s = .next (t.fed g) ∧ (t.nbu g).cmds = rest ∧ (t.nbu g).errTok = leAt c.bytes 2 2 ∧ (t.nbu g).err = st ∧ (t.nbu g).fifo = (s.nbu g).fifo ∧
          t.fld (.skErr (g / 512)) SK_ERR_LASTCODE = st ∧ t.fld (.skErr (g / 512)) SK_ERR_REFUSED = satAdd 65535 (s.fld (.skErr (g / 512)) SK_ERR_REFUSED) 1 ∧
          t.flag (.skErr (g / 512)) SK_ERR_PARSEEN = (s.flag (.skErr (g / 512)) SK_ERR_PARSEEN || b) ∧ t.mem = s.mem ∧ (∀ j, j ≠ g → t.nbu j = s.nbu j)) ∧
  (∀ (s : State) (g : Nat) (c : NbuCmd) (rest : List NbuCmd) (d : NbuCmd), g < 4096 → (s.nbu g).cmds = c :: rest →
    leAt c.bytes 0 1 = 1 → s.nbuStarts g = true → s.cmdStatus g c = 0 → s.scansOf g = [] → s.hubCmds g = [d] →
    d.queued = true → rest.length ≤ 3 →
    ∃ t : State, exec (.loadq g false) s = .next t ∧ (t.nbu g).cmds = rest ++ [d]) ∧
  (∀ (s : State) (g : Nat) (c : NbuCmd) (rest : List NbuCmd), g < 4096 → (twf (fun _ => ({} : Nbu)) s.sk.nbus = true)
    → takeCmd 2 (s.hubCmds g) = some (c, rest) → (twf (fun _ => ([] : List NbuCmd)) s.sk.hubq = true) → s.nbuStarts g
    = true → s.cmdStatus g c = 0 → (twf (fun _ => 0) (s.nbu g).thr = true) →
    ∃ t : State, exec (.setthr g) s = .next t ∧ t.hubCmds g = rest ∧ (t.nbu g).cmds = (s.nbu g).cmds ∧ (t.nbu g).doneTok = leAt c.bytes 2 2 ∧ (t.nbu g).latch = (s.nbu g).latch ∧
          (∀ l < 8, tgetD 0 (t.nbu g).thr l = if bitAt (leAt c.bytes 4 1) l then leAt c.bytes 6 2 % 1024 else tgetD 0 (s.nbu g).thr l) ∧ t = { s with sk := { s.sk with nbus := t.sk.nbus, hubq := t.sk.hubq } } ∧ (∀ j, j ≠ g → t.nbu j = s.nbu j)) ∧
  (∀ (s : State) (g : Nat) (c : NbuCmd) (rest : List NbuCmd), g < 4096 → (s.nbu g).cmds = c :: rest → leAt c.bytes 0 1
    = 3 → s.nbuStarts g = true → s.cmdStatus g c = 0 →
    ∃ t : State, exec (.maskt g false) s = .next (t.fed g) ∧ (t.nbu g).cmds = rest ∧ (t.nbu g).doneTok = leAt c.bytes 2 2 ∧
          (∀ i < 8192, bitAt (t.nbu g).mask i = !bitAt (s.skRow g (leAt c.bytes 6 2)) i) ∧ (t.nbu g).maskOn = true ∧
          (t.nbu g).mbase = leAt c.bytes 8 2 ∧ (t.nbu g).seg512 = bitAt (leAt c.bytes 4 1) 0 ∧ (t.nbu g).latch = (s.nbu g).latch ∧ t = { s with sk := { s.sk with nbus := t.sk.nbus } } ∧ (∀ j, j ≠ g → t.nbu j = s.nbu j)) ∧
  (∀ (s : State) (g st : Nat) (b : Bool) (c : NbuCmd) (rest : List NbuCmd), RegsOk s → (twf (fun _ => ({} : Nbu))
    s.sk.nbus = true) → g < 4096 → (s.nbu g).cmds = c :: rest → (leAt c.bytes 0 1 = 3 ∨ nbuOpcode (leAt c.bytes 0 1) =
    false) → ((s.nbu g).prog ≠ 0 → b = true) → s.nbuStarts g = true → (st = (if b then 7 else s.cmdStatus g c)) → st ≠
    0 → st ≠ 8 →
    ∃ t : State, exec (.maskt g b) s = .next (t.fed g) ∧ (t.nbu g).cmds = rest ∧ (t.nbu g).errTok = leAt c.bytes 2 2 ∧ (t.nbu g).err = st ∧ (t.nbu g).fifo = (s.nbu g).fifo ∧
          t.fld (.skErr (g / 512)) SK_ERR_LASTCODE = st ∧ t.fld (.skErr (g / 512)) SK_ERR_REFUSED = satAdd 65535 (s.fld (.skErr (g / 512)) SK_ERR_REFUSED) 1 ∧
          t.flag (.skErr (g / 512)) SK_ERR_PARSEEN = (s.flag (.skErr (g / 512)) SK_ERR_PARSEEN || b) ∧ t.mem = s.mem ∧ (∀ j, j ≠ g → t.nbu j = s.nbu j)) ∧
  (∀ (s : State) (g m : Nat) (c : NbuCmd) (rest : List NbuCmd), g < 4096 → (s.nbu g).cmds = c :: rest → leAt c.bytes 0
    1 = 4 → s.nbuStarts g = true → s.cmdStatus g c = 0 → (twf (fun _ => ({} : Nbu)) s.sk.nbus = true) → (s.nbu g).prog
    = 0 → leAt c.bytes 4 1 ≤ m →
    ∃ t : State, exec (.clause g m false) s = .next (t.fed g) ∧ (t.nbu g).cmds = rest ∧ (t.nbu g).doneTok = leAt c.bytes 2 2 ∧
          (∀ i < 8192, bitAt (t.nbu g).mask i = (bitAt (s.nbu g).mask i &&
            (bitAt (leAt c.bytes 5 1) 0 != (List.range (leAt c.bytes 4 1)).any fun n => bitAt (s.skRow g (leAt c.bytes (8 + 2 * n) 2)) i))) ∧
          (t.nbu g).latch = (s.nbu g).latch ∧ (t.nbu g).thr = (s.nbu g).thr ∧ t = { s with sk := { s.sk with nbus := t.sk.nbus } } ∧ (∀ j, j ≠ g → t.nbu j = s.nbu j)) ∧
  (∀ (s : State) (g : Nat) (c : NbuCmd) (rest : List NbuCmd), g < 4096 → (s.nbu g).cmds = c :: rest → leAt c.bytes 0 1
    = 4 → ((s.nbu g).prog ≠ 0 ∨ (s.nbuStarts g = true ∧ s.cmdStatus g c = 0)) → (s.nbu g).prog + 1 < leAt c.bytes 4 1
    →
    ∃ t : State, exec (.clause g 1 false) s = .next t ∧ (t.nbu g).cmds = c :: rest ∧ (t.nbu g).prog = (s.nbu g).prog + 1 ∧ (t.nbu g).mask = (s.nbu g).mask ∧
          (t.nbu g).clause = (if (s.nbu g).prog = 0 then 0 else (s.nbu g).clause) ||| s.skRow g (leAt c.bytes (8 + 2 * (s.nbu g).prog) 2) ∧ t = { s with sk := { s.sk with nbus := t.sk.nbus } } ∧ (∀ j, j ≠ g → t.nbu j = s.nbu j)) ∧
  (∀ (s : State) (g : Nat) (c : NbuCmd) (rest : List NbuCmd), g < 4096 → (s.nbu g).cmds = c :: rest → leAt c.bytes 0 1
    = 4 → (twf (fun _ => ({} : Nbu)) s.sk.nbus = true) → (s.nbu g).prog ≠ 0 → (s.nbu g).prog + 1 = leAt c.bytes 4 1 →
    ∃ t : State, exec (.clause g 1 false) s = .next (t.fed g) ∧ (t.nbu g).cmds = rest ∧ (t.nbu g).doneTok = leAt c.bytes 2 2 ∧
          (∀ i < 8192, bitAt (t.nbu g).mask i = (bitAt (s.nbu g).mask i &&
            (bitAt (leAt c.bytes 5 1) 0 != bitAt ((s.nbu g).clause ||| s.skRow g (leAt c.bytes (8 + 2 * (s.nbu g).prog) 2)) i))) ∧ t = { s with sk := { s.sk with nbus := t.sk.nbus } } ∧ (∀ j, j ≠ g → t.nbu j = s.nbu j)) ∧
  (∀ (s : State) (g st : Nat) (b : Bool) (c : NbuCmd) (rest : List NbuCmd) (m : Nat), RegsOk s → (twf (fun _ => ({} :
    Nbu)) s.sk.nbus = true) → g < 4096 → (s.nbu g).cmds = c :: rest → (leAt c.bytes 0 1 = 4 ∨ nbuOpcode (leAt c.bytes
    0 1) = false) → ((s.nbu g).prog ≠ 0 → b = true) → s.nbuStarts g = true → (st = (if b then 7 else s.cmdStatus g c))
    → st ≠ 0 → st ≠ 8 →
    ∃ t : State, exec (.clause g m b) s = .next (t.fed g) ∧ (t.nbu g).cmds = rest ∧ (t.nbu g).errTok = leAt c.bytes 2 2 ∧ (t.nbu g).err = st ∧ (t.nbu g).fifo = (s.nbu g).fifo ∧
          t.fld (.skErr (g / 512)) SK_ERR_LASTCODE = st ∧ t.fld (.skErr (g / 512)) SK_ERR_REFUSED = satAdd 65535 (s.fld (.skErr (g / 512)) SK_ERR_REFUSED) 1 ∧
          t.flag (.skErr (g / 512)) SK_ERR_PARSEEN = (s.flag (.skErr (g / 512)) SK_ERR_PARSEEN || b) ∧ t.mem = s.mem ∧ (∀ j, j ≠ g → t.nbu j = s.nbu j)) ∧
  (∀ (s : State) (g : Nat) (c : NbuCmd) (rest : List NbuCmd), g < 4096 → (twf (fun _ => ({} : Nbu)) s.sk.nbus = true)
    → takeCmd 0x0F (s.hubCmds g) = some (c, rest) → (twf (fun _ => ([] : List NbuCmd)) s.sk.hubq = true) → s.nbuStarts
    g = true → s.cmdStatus g c = 0 →
    ∃ t : State, exec (.abort g) s = .next (t.fed g) ∧ t.hubCmds g = rest ∧ (t.nbu g).cmds = [] ∧ (t.nbu g).fifo = [] ∧ (t.nbu g).doneTok = leAt c.bytes 2 2 ∧
          (t.nbu g).latch = (s.nbu g).latch ∧ (t.nbu g).mask = (s.nbu g).mask ∧ t = { s with sk := { s.sk with nbus := t.sk.nbus, hubq := t.sk.hubq } } ∧ (∀ j, j ≠ g → t.nbu j = s.nbu j)) ∧
  (∀ (s : State) (g : Nat), g < 4096 → (twf (fun _ => ({} : Nbu)) s.sk.nbus = true) → (s.nbu g).fifo.length ≤ 512 →
    (s.nbu g).doneList = [] →
    ∃ t : State, exec (.nbuStatusPoll g) s = .next t ∧ t.nbu g = { s.nbu g with fifo := [] } ∧ (∀ j, j ≠ g → t.nbu j = s.nbu j) ∧
          (∀ k, t.xu k = { s.xu k with port := (s.xu k).port ++ ((s.nbu g).fifo.filter (·.src / 16 = k)).map NbuHit.out }) ∧
          t = { s with sk := { s.sk with nbus := t.sk.nbus }, eng := { s.eng with xu := t.eng.xu } }) ∧
  (∀ (s : State) (g q u t0 tok : Nat) (th : Thread), g < 4096 → (twf (fun _ => ({} : Nbu)) s.sk.nbus = true) → (s.nbu
    g).fifo = [] → (s.nbu g).doneList = [(tok, 16 * q + u)] → u < 16 → t0 < 16 → s.thread q u t0 = some th →
    ∃ t : State, exec (.nbuStatusPoll g) s = .next t ∧ (t.nbu g).doneList = [] ∧
          t.thread q u t0 = some { th with issued := th.issued.map fun i => { i with tokens := dropFirst (· = tok) i.tokens } })

/-- A row operation of SCREEN, with room in the FIFO for its hits, appends, latch by latch of its mask and in rising
slot order, exactly one hit record for each slot whose mask bit is 1 and whose Hamming distance to the latch is at most
the threshold, with row, slot, latch, distance and tag, and leaves latches, thresholds and mask; without room none
happens. A row operation of DOT gives each sum lane of its group the old sum (0 first, with the clear bit) plus that bit
plane's signed partial dot product, modulo 2^32, and leaves lanes that are not the command's. The last row operation
ends the command OK with its token. DOT of one group given time for all its planes gives each lane the whole product.
Given time for several, the row operations run one after another. One that may not run, or that meets a parity error,
ends with its status, counted. Then the hub gives the bank what it held back for it. -/
def Obligations.ScreenAndDotProducts : Prop :=
  (∀ (s : State) (g : Nat) (c : NbuCmd) (rest : List NbuCmd) (sz : Nat), g < 4096 → (s.nbu g).cmds = c :: rest → leAt
    c.bytes 0 1 = 5 → ((s.nbu g).prog ≠ 0 ∨ (s.nbuStarts g = true ∧ s.cmdStatus g c = 0)) → (s.nbu g).prog + 1 < leAt
    c.bytes 8 2 → (s.nbu g).fifo.length + (s.nbu g).mostHits c.bytes ≤ 512 → (sz = if (s.nbu g).seg512 then 512 else
    256) →
    ∃ t : State, exec (.screen g 1 false) s = .next t ∧ (t.nbu g).cmds = c :: rest ∧ (t.nbu g).prog = (s.nbu g).prog + 1 ∧
          (t.nbu g).fifo = (s.nbu g).fifo ++ (latches (leAt c.bytes 4 1)).flatMap (fun l => ((List.range (8192 / sz)).filter fun i =>
              bitAt (s.nbu g).mask ((leAt c.bytes 6 2 + (s.nbu g).prog - (s.nbu g).mbase) * (8192 / sz) + i) &&
              decide (popCount sz (bits (s.skRow g (leAt c.bytes 6 2 + (s.nbu g).prog)) (sz * i) sz ^^^ bits (tgetD 0 (s.nbu g).latch l) (sz * i) sz) ≤ tgetD 0 (s.nbu g).thr l)).map
            fun i => c.hit (leAt c.bytes 6 2 + (s.nbu g).prog) i l
              (popCount sz (bits (s.skRow g (leAt c.bytes 6 2 + (s.nbu g).prog)) (sz * i) sz ^^^ bits (tgetD 0 (s.nbu g).latch l) (sz * i) sz))) ∧
          (t.nbu g).latch = (s.nbu g).latch ∧ (t.nbu g).thr = (s.nbu g).thr ∧ (t.nbu g).mask = (s.nbu g).mask ∧ t = { s with sk := { s.sk with nbus := t.sk.nbus } } ∧ (∀ j, j ≠ g → t.nbu j = s.nbu j)) ∧
  (∀ (s : State) (g m : Nat) (c : NbuCmd) (rest : List NbuCmd) (sz : Nat), g < 4096 → (s.nbu g).cmds = c :: rest →
    leAt c.bytes 0 1 = 5 → ((s.nbu g).prog ≠ 0 ∨ (s.nbuStarts g = true ∧ s.cmdStatus g c = 0)) → (twf (fun _ => ({} :
    Nbu)) s.sk.nbus = true) → (s.nbu g).prog + 1 = leAt c.bytes 8 2 → 1 ≤ m → (s.nbu g).fifo.length + (s.nbu
    g).mostHits c.bytes ≤ 512 → (sz = if (s.nbu g).seg512 then 512 else 256) →
    ∃ t : State, exec (.screen g m false) s = .next (t.fed g) ∧ (t.nbu g).cmds = rest ∧ (t.nbu g).doneTok = leAt c.bytes 2 2 ∧
          (t.nbu g).fifo = (s.nbu g).fifo ++ (latches (leAt c.bytes 4 1)).flatMap (fun l => ((List.range (8192 / sz)).filter fun i =>
              bitAt (s.nbu g).mask ((leAt c.bytes 6 2 + (s.nbu g).prog - (s.nbu g).mbase) * (8192 / sz) + i) &&
              decide (popCount sz (bits (s.skRow g (leAt c.bytes 6 2 + (s.nbu g).prog)) (sz * i) sz ^^^ bits (tgetD 0 (s.nbu g).latch l) (sz * i) sz) ≤ tgetD 0 (s.nbu g).thr l)).map
            fun i => c.hit (leAt c.bytes 6 2 + (s.nbu g).prog) i l
              (popCount sz (bits (s.skRow g (leAt c.bytes 6 2 + (s.nbu g).prog)) (sz * i) sz ^^^ bits (tgetD 0 (s.nbu g).latch l) (sz * i) sz))) ∧
          (t.nbu g).latch = (s.nbu g).latch ∧ (t.nbu g).thr = (s.nbu g).thr ∧ (t.nbu g).mask = (s.nbu g).mask ∧ t = { s with sk := { s.sk with nbus := t.sk.nbus } } ∧ (∀ j, j ≠ g → t.nbu j = s.nbu j)) ∧
  (∀ (s : State) (g m : Nat) (c : NbuCmd) (rest : List NbuCmd), g < 4096 → (s.nbu g).cmds = c :: rest → leAt c.bytes 0
    1 = 5 → ((s.nbu g).prog ≠ 0 ∨ (s.nbuStarts g = true ∧ s.cmdStatus g c = 0)) → (twf (fun _ => ({} : Nbu)) s.sk.nbus
    = true) → (s.nbu g).prog < leAt c.bytes 8 2 → (m = 0 ∨ 512 < (s.nbu g).fifo.length + (s.nbu g).mostHits c.bytes) →
    ∃ t : State, exec (.screen g m false) s = .next t ∧ (∀ j, t.nbu j = s.nbu j) ∧ t = { s with sk := { s.sk with nbus := t.sk.nbus } }) ∧
  (∀ (s : State) (g m : Nat) (c : NbuCmd) (rest : List NbuCmd), g < 4096 → (s.nbu g).cmds = c :: rest → leAt c.bytes 0
    1 = 5 → ((s.nbu g).prog ≠ 0 ∨ (s.nbuStarts g = true ∧ s.cmdStatus g c = 0)) → (s.nbu g).prog + 1 < leAt c.bytes 8
    2 → (s.nbu g).fifo.length + (s.nbu g).mostHits c.bytes ≤ 512 →
    exec (.screen g (m + 1) false) s = (match exec (.screen g 1 false) s with | .next t => exec (.screen g m false) t | r => r)) ∧
  (∀ (s : State) (g st : Nat) (b : Bool) (c : NbuCmd) (rest : List NbuCmd) (m : Nat), RegsOk s → (twf (fun _ => ({} :
    Nbu)) s.sk.nbus = true) → g < 4096 → (s.nbu g).cmds = c :: rest → (leAt c.bytes 0 1 = 5 ∨ nbuOpcode (leAt c.bytes
    0 1) = false) → ((s.nbu g).prog ≠ 0 → b = true) → s.nbuStarts g = true → (st = (if b then 7 else s.cmdStatus g c))
    → st ≠ 0 → st ≠ 8 →
    ∃ t : State, exec (.screen g m b) s = .next (t.fed g) ∧ (t.nbu g).cmds = rest ∧ (t.nbu g).errTok = leAt c.bytes 2 2 ∧ (t.nbu g).err = st ∧ (t.nbu g).fifo = (s.nbu g).fifo ∧
          t.fld (.skErr (g / 512)) SK_ERR_LASTCODE = st ∧ t.fld (.skErr (g / 512)) SK_ERR_REFUSED = satAdd 65535 (s.fld (.skErr (g / 512)) SK_ERR_REFUSED) 1 ∧
          t.flag (.skErr (g / 512)) SK_ERR_PARSEEN = (s.flag (.skErr (g / 512)) SK_ERR_PARSEEN || b) ∧ t.mem = s.mem ∧ (∀ j, j ≠ g → t.nbu j = s.nbu j)) ∧
  (∀ (s : State) (g : Nat) (c : NbuCmd) (rest : List NbuCmd), g < 4096 → (s.nbu g).cmds = c :: rest → leAt c.bytes 0 1
    = 6 → ((s.nbu g).prog ≠ 0 ∨ (s.nbuStarts g = true ∧ s.cmdStatus g c = 0)) → (s.nbu g).prog + 1 < leAt c.bytes 12 1
    * bits (leAt c.bytes 8 1) 0 4 → (twf (fun _ => 0) (s.nbu g).sums = true) →
    ∃ t : State, exec (.dot g 1 false) s = .next t ∧ (t.nbu g).cmds = c :: rest ∧ (t.nbu g).prog = (s.nbu g).prog + 1 ∧
          (∀ n < dotLanes c.bytes, tgetD 0 (t.nbu g).sums ((leAt c.bytes 10 2 + (s.nbu g).prog / bits (leAt c.bytes 8 1) 0 4 * dotLanes c.bytes) + n) =
            toTwos 32 ((if (s.nbu g).prog = 0 ∧ bitAt (leAt c.bytes 13 1) 0 = true then 0 else ((tgetD 0 (s.nbu g).sums ((leAt c.bytes 10 2 + (s.nbu g).prog / bits (leAt c.bytes 8 1) 0 4 * dotLanes c.bytes) + n) : Nat) : Int)) + ((List.range (bits (leAt c.bytes 5 1) 0 4)).map fun a =>
                (if (bitAt (leAt c.bytes 5 1) 4 && a = bits (leAt c.bytes 5 1) 0 4 - 1) != (bitAt (leAt c.bytes 8 1) 4 && (s.nbu g).prog % bits (leAt c.bytes 8 1) 0 4 = bits (leAt c.bytes 8 1) 0 4 - 1)
                  then (-1 : Int) else 1) * 2 ^ (a + (s.nbu g).prog % bits (leAt c.bytes 8 1) 0 4) *
                (popCount (32 * 2 ^ bits (leAt c.bytes 9 1) 0 4) (bits (s.skRow g (leAt c.bytes 6 2 + (s.nbu g).prog)) ((32 * 2 ^ bits (leAt c.bytes 9 1) 0 4) * n) (32 * 2 ^ bits (leAt c.bytes 9 1) 0 4) &&& bits (tgetD 0 (s.nbu g).latch a) ((32 * 2 ^ bits (leAt c.bytes 9 1) 0 4) * n) (32 * 2 ^ bits (leAt c.bytes 9 1) 0 4)) : Int)).sum)) ∧
          (∀ i, i < leAt c.bytes 10 2 ∨ leAt c.bytes 10 2 + leAt c.bytes 12 1 * dotLanes c.bytes ≤ i → tgetD 0 (t.nbu g).sums i = tgetD 0 (s.nbu g).sums i) ∧
          (t.nbu g).latch = (s.nbu g).latch ∧ t = { s with sk := { s.sk with nbus := t.sk.nbus } } ∧ (∀ j, j ≠ g → t.nbu j = s.nbu j)) ∧
  (∀ (s : State) (g m : Nat) (c : NbuCmd) (rest : List NbuCmd), g < 4096 → (s.nbu g).cmds = c :: rest → leAt c.bytes 0
    1 = 6 → ((s.nbu g).prog ≠ 0 ∨ (s.nbuStarts g = true ∧ s.cmdStatus g c = 0)) → (twf (fun _ => ({} : Nbu)) s.sk.nbus
    = true) → (s.nbu g).prog + 1 = leAt c.bytes 12 1 * bits (leAt c.bytes 8 1) 0 4 → 1 ≤ m → (twf (fun _ => 0) (s.nbu
    g).sums = true) →
    ∃ t : State, exec (.dot g m false) s = .next (t.fed g) ∧ (t.nbu g).cmds = rest ∧ (t.nbu g).doneTok = leAt c.bytes 2 2 ∧
          (∀ n < dotLanes c.bytes, tgetD 0 (t.nbu g).sums ((leAt c.bytes 10 2 + (s.nbu g).prog / bits (leAt c.bytes 8 1) 0 4 * dotLanes c.bytes) + n) =
            toTwos 32 ((if (s.nbu g).prog = 0 ∧ bitAt (leAt c.bytes 13 1) 0 = true then 0 else ((tgetD 0 (s.nbu g).sums ((leAt c.bytes 10 2 + (s.nbu g).prog / bits (leAt c.bytes 8 1) 0 4 * dotLanes c.bytes) + n) : Nat) : Int)) + ((List.range (bits (leAt c.bytes 5 1) 0 4)).map fun a =>
                (if (bitAt (leAt c.bytes 5 1) 4 && a = bits (leAt c.bytes 5 1) 0 4 - 1) != (bitAt (leAt c.bytes 8 1) 4 && (s.nbu g).prog % bits (leAt c.bytes 8 1) 0 4 = bits (leAt c.bytes 8 1) 0 4 - 1)
                  then (-1 : Int) else 1) * 2 ^ (a + (s.nbu g).prog % bits (leAt c.bytes 8 1) 0 4) *
                (popCount (32 * 2 ^ bits (leAt c.bytes 9 1) 0 4) (bits (s.skRow g (leAt c.bytes 6 2 + (s.nbu g).prog)) ((32 * 2 ^ bits (leAt c.bytes 9 1) 0 4) * n) (32 * 2 ^ bits (leAt c.bytes 9 1) 0 4) &&& bits (tgetD 0 (s.nbu g).latch a) ((32 * 2 ^ bits (leAt c.bytes 9 1) 0 4) * n) (32 * 2 ^ bits (leAt c.bytes 9 1) 0 4)) : Int)).sum)) ∧
          (∀ i, i < leAt c.bytes 10 2 ∨ leAt c.bytes 10 2 + leAt c.bytes 12 1 * dotLanes c.bytes ≤ i → tgetD 0 (t.nbu g).sums i = tgetD 0 (s.nbu g).sums i) ∧
          (t.nbu g).latch = (s.nbu g).latch ∧ t = { s with sk := { s.sk with nbus := t.sk.nbus } } ∧ (∀ j, j ≠ g → t.nbu j = s.nbu j)) ∧
  (∀ (s : State) (g m : Nat) (c : NbuCmd) (rest : List NbuCmd), g < 4096 → (s.nbu g).cmds = c :: rest → leAt c.bytes 0
    1 = 6 → ((s.nbu g).prog ≠ 0 ∨ (s.nbuStarts g = true ∧ s.cmdStatus g c = 0)) → (s.nbu g).prog + 1 < leAt c.bytes 12
    1 * bits (leAt c.bytes 8 1) 0 4 →
    exec (.dot g (m + 1) false) s = (match exec (.dot g 1 false) s with | .next t => exec (.dot g m false) t | r => r)) ∧
  (∀ (s : State) (g m : Nat) (c : NbuCmd) (rest : List NbuCmd), g < 4096 → (s.nbu g).cmds = c :: rest → leAt c.bytes 0
    1 = 6 → s.nbuStarts g = true → s.cmdStatus g c = 0 → (twf (fun _ => ({} : Nbu)) s.sk.nbus = true) → (s.nbu g).prog
    = 0 → leAt c.bytes 12 1 = 1 → bits (leAt c.bytes 8 1) 0 4 ≤ m → (twf (fun _ => 0) (s.nbu g).sums = true) →
    ∃ t : State, exec (.dot g m false) s = .next (t.fed g) ∧ (t.nbu g).cmds = rest ∧ (t.nbu g).doneTok = leAt c.bytes 2 2 ∧
          (∀ n < dotLanes c.bytes, tgetD 0 (t.nbu g).sums (leAt c.bytes 10 2 + n) =
            toTwos 32 ((if bitAt (leAt c.bytes 13 1) 0 then 0 else ((tgetD 0 (s.nbu g).sums (leAt c.bytes 10 2 + n) : Nat) : Int)) +
              ((List.range (bits (leAt c.bytes 8 1) 0 4)).map fun p => ((List.range (bits (leAt c.bytes 5 1) 0 4)).map fun a =>
                (if (bitAt (leAt c.bytes 5 1) 4 && a = bits (leAt c.bytes 5 1) 0 4 - 1) != (bitAt (leAt c.bytes 8 1) 4 && p = bits (leAt c.bytes 8 1) 0 4 - 1)
                  then (-1 : Int) else 1) * 2 ^ (a + p) *
                (popCount (32 * 2 ^ bits (leAt c.bytes 9 1) 0 4) (bits (s.skRow g (leAt c.bytes 6 2 + p)) ((32 * 2 ^ bits (leAt c.bytes 9 1) 0 4) * n) (32 * 2 ^ bits (leAt c.bytes 9 1) 0 4) &&& bits (tgetD 0 (s.nbu g).latch a) ((32 * 2 ^ bits (leAt c.bytes 9 1) 0 4) * n) (32 * 2 ^ bits (leAt c.bytes 9 1) 0 4)) : Int)).sum).sum)) ∧
          (∀ i, i < leAt c.bytes 10 2 ∨ leAt c.bytes 10 2 + dotLanes c.bytes ≤ i → tgetD 0 (t.nbu g).sums i = tgetD 0 (s.nbu g).sums i) ∧
          (t.nbu g).latch = (s.nbu g).latch ∧ t = { s with sk := { s.sk with nbus := t.sk.nbus } } ∧ (∀ j, j ≠ g → t.nbu j = s.nbu j)) ∧
  (∀ (s : State) (g st : Nat) (b : Bool) (c : NbuCmd) (rest : List NbuCmd) (m : Nat), RegsOk s → (twf (fun _ => ({} :
    Nbu)) s.sk.nbus = true) → g < 4096 → (s.nbu g).cmds = c :: rest → (leAt c.bytes 0 1 = 6 ∨ nbuOpcode (leAt c.bytes
    0 1) = false) → ((s.nbu g).prog ≠ 0 → b = true) → s.nbuStarts g = true → (st = (if b then 7 else s.cmdStatus g c))
    → st ≠ 0 → st ≠ 8 →
    ∃ t : State, exec (.dot g m b) s = .next (t.fed g) ∧ (t.nbu g).cmds = rest ∧ (t.nbu g).errTok = leAt c.bytes 2 2 ∧ (t.nbu g).err = st ∧ (t.nbu g).fifo = (s.nbu g).fifo ∧
          t.fld (.skErr (g / 512)) SK_ERR_LASTCODE = st ∧ t.fld (.skErr (g / 512)) SK_ERR_REFUSED = satAdd 65535 (s.fld (.skErr (g / 512)) SK_ERR_REFUSED) 1 ∧
          t.flag (.skErr (g / 512)) SK_ERR_PARSEEN = (s.flag (.skErr (g / 512)) SK_ERR_PARSEEN || b) ∧ t.mem = s.mem ∧ (∀ j, j ≠ g → t.nbu j = s.nbu j))

/-- A write that changes blocks of a stack at rest sets PLAIN and CONV and puts the changed blocks under conversion;
with CONV = 1 a write changes nothing, nor does one of a half, which PLAIN crosses. The end of the conversion, with no
access held, zeroes the converted blocks in every bank, leaves every other byte, and clears CONV; while a bank's command
in progress uses such a block it waits. A tide pass of one row rewrites a plain registered row from its source, counts a
mismatch when it differed, and one pass; of a lost source it leaves the row and raises an event. A pass of any rows
counts one and leaves every byte outside them; one that is not enabled changes nothing. A report sets the state by the
thresholds and the state before: refresh, unit throttling and the limit; one of 96-104 degrees on a cool stack also sets
T85 and T95. A refresh taken is counted. -/
def Obligations.SketchRegionsTideAndTemperature : Prop :=
  (∀ (s : State) (n v p : Nat), RegsOk s → s.pwrGood = true → n < 8 → s.flag (.skRegion n) SK_REGION_CONV = false → p
    = bits v 0 47 → p ≠ s.fld (.skRegion n) SK_REGION_PLAIN →
    ∃ t : State, exec (.skRegionWrite n .whole v) s = .next t ∧ t.fld (.skRegion n) SK_REGION_PLAIN = p ∧ t.flag (.skRegion n) SK_REGION_CONV = true ∧
          t.sk.conv = s.sk.conv ++ ((List.range 47).filter fun b => bitAt (s.fld (.skRegion n) SK_REGION_PLAIN) b != bitAt p b).map (48 * n + ·) ∧
          RegsBut [.skRegion n] s t ∧ t = { s with regs := t.regs, sk := { s.sk with conv := t.sk.conv } }) ∧
  (∀ (s : State) (n v : Nat) (h : Half), RegsOk s → n < 8 → h ≠ .whole →
    ∃ t : State, exec (.skRegionWrite n h v) s = .next t ∧ RegsBut [] s t ∧ t = { s with regs := t.regs }) ∧
  (∀ (s : State) (n v : Nat) (h : Half), n < 8 → s.flag (.skRegion n) SK_REGION_CONV = true →
    exec (.skRegionWrite n h v) s = .next s) ∧
  (∀ (s : State) (n : Nat), Canonical s → n < 8 → s.tier.heldAcc = [] → (∀ e ∈ s.sk.nbus, e.2.prog = 0) →
    ∃ t : State, exec (.conversionComplete n) s = .next t ∧ t.flag (.skRegion n) SK_REGION_CONV = false ∧ t.sk.conv = s.sk.conv.filter (fun b => b / 48 ≠ n) ∧
          (∀ a, memByte t.mem a = if skBase + n * skSize ≤ a ∧ a < skBase + (n + 1) * skSize ∧ s.sk.conv.contains (48 * n + (a - skBase) % skBank / 1048576) = true then 0#8 else memByte s.mem a) ∧
          RegsBut [.skRegion n] s t ∧ t = { s with regs := t.regs, mem := t.mem, sk := { s.sk with conv := t.sk.conv } }) ∧
  (∀ (s : State) (n g : Nat) (u : Nbu) (c : NbuCmd) (rest : List NbuCmd), n < 8 → (g, u) ∈ s.sk.nbus → g / 512 = n →
    u.prog ≠ 0 → u.cmds = c :: rest → (cmdRows c.bytes).any (s.rowConverting g) = true →
    exec (.conversionComplete n) s = .next s) ∧
  (∀ (s : State) (n o : Nat) (x : TideRow), Canonical s → n < 8 → s.flag (.skCtl n) SK_CTL_TIDE_EN = true → regionOf
    (skBase + 1024 * x.row) = .sketch n o → s.plainBlock n o = true → o % skBank < 1024 * queryRow → x.lost = false →
    ∃ t : State, exec (.tidePass n [x]) s = .next t ∧ memRead t.mem (skBase + 1024 * x.row) 1024 = s.tideSource x.source ∧ MemBut (skBase + 1024 * x.row) 1024 s t ∧
          t.fld (.skTide n) SK_TIDE_MISMATCH = satAdd 65535 (s.fld (.skTide n) SK_TIDE_MISMATCH) (if s.rd (skBase + 1024 * x.row) 1024 = s.tideSource x.source then 0 else 1) ∧
          t.fld (.skTide n) SK_TIDE_PASSES = (s.fld (.skTide n) SK_TIDE_PASSES + 1) % 2 ^ 32 ∧ t.flag (.skCtl n) SK_CTL_TIDE_GO = false ∧
          RegsBut [.skTide n, .skCtl n] s t ∧ t = { s with regs := t.regs, mem := t.mem, sk := { s.sk with tide := t.sk.tide } }) ∧
  (∀ (s : State) (n o : Nat) (x : TideRow), RegsOk s → n < 8 → s.flag (.skCtl n) SK_CTL_TIDE_EN = true → regionOf
    (skBase + 1024 * x.row) = .sketch n o → s.plainBlock n o = true → o % skBank < 1024 * queryRow → x.lost = true →
    ∃ t : State, exec (.tidePass n [x]) s = .next t ∧ t.mem = s.mem ∧ t.fld (.skTide n) SK_TIDE_MISMATCH = s.fld (.skTide n) SK_TIDE_MISMATCH ∧
          Raised (s.addrLog (skBase + 1024 * x.row)) (srcHub (n / 2)) (Config.openCode 5 % 2 ^ 16) (leBytes 8 (skBase + 1024 * x.row)) s t) ∧
  (∀ (s : State) (n : Nat) (xs : List TideRow), Canonical s → n < 8 → s.flag (.skCtl n) SK_CTL_TIDE_EN = true →
    ∃ t : State, exec (.tidePass n xs) s = .next t ∧ (∀ a, (∀ x ∈ xs, a < skBase + 1024 * x.row ∨ skBase + 1024 * x.row + 1024 ≤ a) → memByte t.mem a = memByte s.mem a) ∧
          t.fld (.skTide n) SK_TIDE_PASSES = (s.fld (.skTide n) SK_TIDE_PASSES + 1) % 2 ^ 32 ∧ t.flag (.skCtl n) SK_CTL_TIDE_GO = false ∧ RegsBut [.skTide n, .skCtl n] s t) ∧
  (∀ (s : State) (n : Nat) (xs : List TideRow), n < 8 → s.flag (.skCtl n) SK_CTL_TIDE_EN = false →
    exec (.tidePass n xs) s = .next s) ∧
  (∀ (s : State) (n x : Nat), RegsOk s → n < 8 → tgetD 0 s.pwr.thermal (64 + n) = 0 → (tgetO s.sk.throtAt n).join =
    none → 96 ≤ x → x < 105 → s.sk.hubq = [] → s.sk.scans = [] →
    ∃ t : State, exec (.stackTemperatureReport n x) s = .next t ∧ t.fld (.skTstat n) SK_TSTAT_TEMP = x ∧ t.fld (.skTstat n) SK_TSTAT_REFX = 2 ∧
          t.flag (.skTstat n) SK_TSTAT_UTHROT = true ∧ t.flag (.skTstat n) SK_TSTAT_HTHROT = false ∧ t.flag (.skTstat n) SK_TSTAT_T85 = true ∧
          t.flag (.skTstat n) SK_TSTAT_T95 = true ∧ RegsBut [.skTstat n] s t ∧
          t = { s with regs := t.regs, pwr := { s.pwr with thermal := t.pwr.thermal }, sk := { s.sk with throtAt := t.sk.throtAt } }) ∧
  (∀ (s : State) (n x l : Nat), RegsOk s → (twf (fun _ => 0) s.pwr.thermal = true) → n < 8 → x < 256 → l = thermalNext
    [(86, 82), (96, 92), (105, 102)] (tgetD 0 s.pwr.thermal (64 + n)) x →
    ∃ t : State, exec (.stackTemperatureReport n x) s = .next t ∧ t.fld (.skTstat n) SK_TSTAT_TEMP = x ∧ t.fld (.skTstat n) SK_TSTAT_REFX = min l 2 ∧
          t.flag (.skTstat n) SK_TSTAT_UTHROT = decide (l = 2) ∧ t.flag (.skTstat n) SK_TSTAT_HTHROT = decide (l = 3) ∧ tgetD 0 t.pwr.thermal (64 + n) = l ∧
          RegsBut [.skTstat n] s t) ∧
  (∀ (s : State) (g : Nat), g < 4096 →
    ∃ t : State, exec (.bankRefresh g) s = .next t ∧ tgetD 0 t.sk.refreshed g = tgetD 0 s.sk.refreshed g + 1 ∧ (∀ j, j ≠ g → tgetD 0 t.sk.refreshed j = tgetD 0 s.sk.refreshed j) ∧
          t = { s with sk := { s.sk with refreshed := t.sk.refreshed } })

/-- For every instruction of Table 9-2, whose unit issues. Predicated off and in its turn, it moves its thread past it,
takes the count it waits on (unless WKEEP) and adds the one it signals, and does nothing else. With WV = 1 and its
semaphore 0, or with its class's condition unmet, it only starts the thread's wait. Ready, but not in its turn or not
granted its count, it changes nothing. With a THREAD field of another thread, or a nonzero reserved bit, it raises
THREAD or ILLEGAL in the partition's log and sets the instance's ABORTING, and no memory, thread or other register
changes. A ferry's wait also shows in FRY_SWAIT. A first parity error in the fetched word raises FETCH and sets ABORTING
in the same way. -/
def Obligations.InstructionsFollowTheIssueRules : Prop :=
  (∀ (c : Nat → Nat → Nat → UnitErr → Instr) (op : Nat), (c, op) ∈
      [(Instr.nop, 0x00), (Instr.loop, 0x01), (Instr.endl, 0x02), (Instr.setp, 0x03), (Instr.halt, 0x04),
      (Instr.sset, 0x10), (Instr.sadd, 0x11), (Instr.swait, 0x12), (Instr.sigr, 0x13), (Instr.flush, 0x20),
      (Instr.fence, 0x21), (Instr.mma, 0x30), (Instr.mmax, 0x31), (Instr.drain, 0x32), (Instr.spill, 0x33),
      (Instr.reload, 0x34), (Instr.xfer, 0x35), (Instr.srctx, 0x36), (Instr.vld, 0x40), (Instr.vst, 0x41),
      (Instr.vin, 0x42), (Instr.vout, 0x43), (Instr.vadd, 0x44), (Instr.vsub, 0x45), (Instr.vmul, 0x46),
      (Instr.vfma, 0x47), (Instr.vdiv, 0x48), (Instr.vsqrt, 0x49), (Instr.vmax, 0x4a), (Instr.vmin, 0x4b),
      (Instr.vexp, 0x4c), (Instr.vtanh, 0x4d), (Instr.vcmp, 0x4e), (Instr.vsel, 0x4f), (Instr.vlog, 0x50),
      (Instr.vshift, 0x51), (Instr.vcvt, 0x52), (Instr.wadd, 0x53), (Instr.vw2d, 0x54), (Instr.vred, 0x55),
      (Instr.vimm, 0x56), (Instr.slq, 0x60), (Instr.sscr, 0x61), (Instr.select, 0x70), (Instr.fstr, 0x80),
      (Instr.nbcmd, 0x90), (Instr.nblist, 0x91)] →
    (∀ (s : State) (q u t w : Nat) (th : Thread), RegsOk s → q < 80 → u < 8 → Turns q u t op w th s → s.granted q u t w = true → iPred w = true →
        th.p = false → (iWv w = true → 1 ≤ s.sem q (iWait w)) → (iSv w = true → s.sem q (iSignal w) < 0xFFFF) →
        ∃ s', exec (c q u t .good) s = .next s' ∧ s'.thread q u t = some (past th) ∧
          (∀ j < 256, s'.sem q j = s.sem q j - (if takesSem w j then 1 else 0) + (if iSv w ∧ iSignal w = j then 1 else 0)) ∧
          RegsBut [semReg q (iWait w), semReg q (iSignal w)] s s' ∧
          s' = { s with regs := s'.regs, ctl := { rotated q u t w s with threads := s'.ctl.threads, grant := s'.ctl.grant } }) ∧
    (∀ (s : State) (q u t w : Nat) (th : Thread), u < 8 → Fits q u t op w th s →
        (iWv w = true ∧ s.sem q (iWait w) = 0) ∨ s.classReady q u t w = false →
        exec (c q u t .good) s = .next (s.setThread q u t { th with waitAt := some (th.waitAt.getD s.svcTime) })) ∧
    (∀ (s : State) (q u t w : Nat) (th : Thread), Fits q u t op w th s → s.wordReady q u t w = true →
        s.turn q u t w = false ∨ s.granted q u t w = false → exec (c q u t .good) s = .next s) ∧
    (∀ (s : State) (q u t w i : Nat) (th : Thread), RegsOk s → s.thread q u t = some th → th.dryOf op = none → s.nextWord q u t = some w →
        s.unitOn q u = true → s.quadInst q = some i → s.flag (.schInst i) SCH_INST_RUN = true → iOpcode w = op →
        classOf op = some (iClass w) → unitRuns u (iClass w) = true → iThread w ≠ t ∨ formOk op (bits w 0 92) = false →
        ∃ s', exec (c q u t .good) s = .next s' ∧ Raised (s.quadLog q) (srcUnit q u) (if iThread w ≠ t then 0x0302 else 0x0301) [] s s' ∧
          s'.flag (.schInst i) SCH_INST_ABORTING = true ∧ RegsBut [.schInst i] s s' ∧ s'.mem = s.mem ∧ s'.ctl.threads = s.ctl.threads) ∧
    (∀ (s : State) (q u t w : Nat) (th : Thread), RegsOk s → q < 80 → 8 ≤ u → u < 12 → t < 16 → Turns q u t op w th s → s.granted q u t w = true →
        iPred w = true → th.p = false → (iWv w = true → 1 ≤ s.sem q (iWait w)) → (iSv w = true → s.sem q (iSignal w) < 0xFFFF) →
        ∃ s', exec (c q u t .good) s = .next s' ∧ s'.thread q u t = some (past th) ∧
          (∀ j < 256, s'.sem q j = s.sem q j - (if takesSem w j then 1 else 0) + (if iSv w ∧ iSignal w = j then 1 else 0)) ∧
          RegsBut [semReg q (iWait w), semReg q (iSignal w), .frySwait (16 * (4 * q + (u - 8)) + t)] s s' ∧ s'.mem = s.mem) ∧
    (∀ (s : State) (q u t w : Nat) (th : Thread), RegsOk s → q < 80 → 8 ≤ u → u < 12 → t < 16 → Fits q u t op w th s →
        (iWv w = true ∧ s.sem q (iWait w) = 0) ∨ s.classReady q u t w = false →
        ∃ s', exec (c q u t .good) s = .next s' ∧ s'.thread q u t = some { th with waitAt := some (th.waitAt.getD s.svcTime) } ∧
          s'.fld (.frySwait (16 * (4 * q + (u - 8)) + t)) FRY_SWAIT_CAUSE = 8 ∧ RegsBut [.frySwait (16 * (4 * q + (u - 8)) + t)] s s' ∧ s'.mem = s.mem) ∧
    (∀ (s : State) (q u t w i : Nat) (th : Thread), RegsOk s → s.thread q u t = some th → th.dryOf op = none → s.nextWord q u t = some w →
        s.unitOn q u = true → s.quadInst q = some i → s.flag (.schInst i) SCH_INST_RUN = true → withinDay s.ctl.fetchErr q s.svcTime = false →
        ∃ s', exec (c q u t .fetch) s = .next s' ∧ Raised (s.quadLog q) (srcUnit q u) 0x030A [] s s' ∧
          s'.flag (.schInst i) SCH_INST_ABORTING = true ∧ RegsBut [.schInst i] s s' ∧ s'.mem = s.mem ∧ s'.ctl.threads = s.ctl.threads))

/-- NOP consumes its wait, moves its thread and signals. LOOP opens the next free level at the address after it with its
counter 0; ENDL of the innermost level goes back while the count is not reached, else closes it; either at another level
raises LOOPDEPTH. SETP sets P to ((LC mod MOD) = VAL) XOR INV. HALT, whose class condition is that the thread has
nothing in progress, ends the thread. Completion takes the instruction off the thread and signals a semaphore below its
top; while the instruction runs a stream, lacks bytes or awaits tokens it does nothing. A wait beyond WDOG raises
WATCHDOG and aborts; one within it changes nothing. Nothing else changes. -/
def Obligations.ControlInstructionsAndCompletion : Prop :=
  (∀ (s : State) (q u t0 w : Nat) (th : Thread), RegsOk s → q < 80 → u < 8 → Turns q u t0 0 w th s → s.granted q u t0
    w = true → iWv w = true → iWkeep w = false → 1 ≤ s.sem q (iWait w) → iSv w = true → iSignal w ≠ iWait w → s.sem q
    (iSignal w) < 0xFFFF → iPred w = false →
    ∃ t : State, exec (.nop q u t0 .good) s = .next t ∧ t.sem q (iWait w) = s.sem q (iWait w) - 1 ∧ t.sem q (iSignal w) = s.sem q (iSignal w) + 1 ∧
          t.thread q u t0 = some (past th) ∧ RegsBut [semReg q (iWait w), semReg q (iSignal w)] s t ∧
          t = { s with regs := t.regs, ctl := { rotated q u t0 w s with threads := t.ctl.threads, grant := t.ctl.grant } }) ∧
  (∀ (s : State) (q u t0 w : Nat) (th : Thread), u < 8 → Issues q u t0 0 w th s →
    exec (.nop q u t0 .good) s = .next ((turned q u t0 w s).setThread q u t0 (past th))) ∧
  (∀ (s : State) (q u t0 w : Nat) (th : Thread), u < 8 → Issues q u t0 1 w th s → bits w 0 2 = th.loops.length →
    exec (.loop q u t0 .good) s = .next ((turned q u t0 w s).setThread q u t0 { past th with loops := th.loops ++ [⟨bits w 2 32, th.pos + 1⟩], lcs := th.lcs.set (bits w 0 2) 0 })) ∧
  (∀ (s : State) (q u t0 w : Nat) (th : Thread), RegsOk s → q < 80 → (∀ i, s.quadInst q = some i → i < 80) → u < 8 →
    ((Issues q u t0 1 w th s ∧ bits w 0 2 ≠ th.loops.length) ∨ (Issues q u t0 2 w th s ∧ bits w 0 2 + 1 ≠
    th.loops.length)) →
    ∃ t : State, exec (if iOpcode w = 1 then .loop q u t0 .good else .endl q u t0 .good) s = .next t ∧ Raised (s.quadLog q) (srcUnit q u) 0x0305 [] s t ∧
          t.thread q u t0 = some (past th) ∧ t.mem = s.mem) ∧
  (∀ (s : State) (q u t0 w : Nat) (th : Thread) (l : LoopLv), u < 8 → Issues q u t0 2 w th s → bits w 0 2 + 1 =
    th.loops.length → th.loops.getLast? = some l →
    exec (.endl q u t0 .good) s = .next ((turned q u t0 w s).setThread q u t0
          (if l.count = 0 ∨ th.lcs.getD (bits w 0 2) 0 + 1 < l.count then { past th with lcs := th.lcs.set (bits w 0 2) (th.lcs.getD (bits w 0 2) 0 + 1), pos := l.pos }
           else { past th with lcs := th.lcs.set (bits w 0 2) (th.lcs.getD (bits w 0 2) 0 + 1), loops := th.loops.dropLast }))) ∧
  (∀ (s : State) (q u t0 w : Nat) (th : Thread), u < 8 → Issues q u t0 3 w th s →
    exec (.setp q u t0 .good) s = .next ((turned q u t0 w s).setThread q u t0 { past th with p := (decide (th.lcs.getD (bits w 0 2) 0 % bits w 34 16 = bits w 50 16)) != bitAt w 66 })) ∧
  (∀ (s : State) (q u t0 w : Nat) (th : Thread), u < 8 → Issues q u t0 4 w th s →
    exec (.halt q u t0 .good) s = .next ((turned q u t0 w s).setThread q u t0 { past th with halted := true })) ∧
  (∀ (s : State) (q u t0 n : Nat) (th : Thread) (i : Issued), RegsOk s → s.thread q u t0 = some th → th.issued[n]? =
    some i → i.isJob = false → i.dry = false → i.tokens = [] → (∀ j, i.sig = some j → s.sem q j < 0xFFFF) →
    ∃ t : State, exec (.instructionComplete q u t0 n) s = .next t ∧ t.thread q u t0 = some { th with issued := th.issued.eraseIdx n } ∧
          (∀ j, i.sig = some j → t.sem q j = s.sem q j + 1 ∧ RegsBut [semReg q j] s t) ∧ (i.sig = none → t.regs = s.regs) ∧
          t = { s with regs := t.regs, ctl := { s.ctl with threads := t.ctl.threads } }) ∧
  (∀ (s : State) (q u t0 n : Nat) (th : Thread) (i : Issued), s.thread q u t0 = some th → th.issued[n]? = some i →
    (i.isJob = true ∨ i.dry = true ∨ i.tokens ≠ []) →
    exec (.instructionComplete q u t0 n) s = .next s) ∧
  (∀ (s : State) (q u t0 k i : Nat) (th : Thread), RegsOk s → s.thread q u t0 = some th → th.waitAt = some k →
    s.quadInst q = some i → s.flag (.schInst i) SCH_INST_RUN = true → s.flag (.schInst i) SCH_INST_ABORTING = false →
    s.fld .schCtl SCH_CTL_WDOG ≠ 0 → k + s.fld .schCtl SCH_CTL_WDOG * 40000 < s.svcTime →
    ∃ t : State, exec (.watchdog q u t0) s = .next t ∧ Raised (s.quadLog q) (srcUnit q u) 0x0308 [] s t ∧ t.flag (.schInst i) SCH_INST_ABORTING = true ∧
          t.ctl.aborting = s.ctl.aborting ++ [{ inst := i, cause := 0x0308, time := s.svcTime }] ∧ RegsBut [.schInst i] s t ∧
          t = { s with regs := t.regs, evt := t.evt, ctl := { s.ctl with aborting := t.ctl.aborting } }) ∧
  (∀ (s : State) (q u t0 k : Nat) (th : Thread), s.thread q u t0 = some th → th.waitAt = some k → s.svcTime ≤ k +
    s.fld .schCtl SCH_CTL_WDOG * 40000 →
    exec (.watchdog q u t0) s = .next s)

/-- Each instruction in its turn, with no wait and no signal of its own. SSET loads the semaphore. SADD adds the signed
delta; below 0 it keeps the value and raises SEM_UNDER, above 0xFFFF it leaves 0xFFFF and raises SEM_OVF. SWAIT whose
count is there goes on, and subtracts it when CONSUME; short of it, it only waits. SIGR sends a message with the
sender's epoch, or raises SIGR_REFUSED for a quad that is gone. A message that arrives wakes its quad; one of equal
epoch or of a 2-series partner is added, to 0xFFFF with SEM_OVF beyond it, one of another is dropped, counted in STALE
and raises STALE_EPOCH in the sender's log. FLUSH and FENCE of a range their partition owns are in progress, and a FENCE
range drops the die's cached lines there and no other; outside it they raise ADDR. Nothing else changes but the rotation
of the unit's threads. -/
def Obligations.SemaphoreAndFenceInstructions : Prop :=
  (∀ (s : State) (q u t0 w : Nat) (th : Thread), RegsOk s → u < 8 → Issues q u t0 16 w th s →
    ∃ t : State, exec (.sset q u t0 .good) s = .next t ∧ t.sem q (bits w 0 8) = bits w 8 16 ∧ t.thread q u t0 = some (past th) ∧ RegsBut [semReg q (bits w 0 8)] s t ∧
          t = { s with regs := t.regs, ctl := { rotated q u t0 w s with threads := t.ctl.threads } }) ∧
  (∀ (s : State) (q u t0 w : Nat) (th : Thread), RegsOk s → u < 8 → Issues q u t0 17 w th s → 0 ≤ (s.sem q (bits w 0
    8) : Int) + sext 16 (bits w 8 16) → (s.sem q (bits w 0 8) : Int) + sext 16 (bits w 8 16) ≤ 0xFFFF →
    ∃ t : State, exec (.sadd q u t0 .good) s = .next t ∧ (t.sem q (bits w 0 8) : Int) = (s.sem q (bits w 0 8) : Int) + sext 16 (bits w 8 16) ∧ t.thread q u t0 = some (past th) ∧
          RegsBut [semReg q (bits w 0 8)] s t ∧ t = { s with regs := t.regs, ctl := { rotated q u t0 w s with threads := t.ctl.threads } }) ∧
  (∀ (s : State) (q u t0 w : Nat) (th : Thread), RegsOk s → q < 80 → (∀ i, s.quadInst q = some i → i < 80) → u < 8 →
    Issues q u t0 17 w th s → (s.sem q (bits w 0 8) : Int) + sext 16 (bits w 8 16) < 0 →
    ∃ t : State, exec (.sadd q u t0 .good) s = .next t ∧ t.sem q (bits w 0 8) = s.sem q (bits w 0 8) ∧ Raised (s.quadLog q) (srcUnit q u) 0x0304 [] s t ∧ t.thread q u t0 = some (past th) ∧ t.mem = s.mem) ∧
  (∀ (s : State) (q u t0 w : Nat) (th : Thread), RegsOk s → q < 80 → (∀ i, s.quadInst q = some i → i < 80) → u < 8 →
    Issues q u t0 17 w th s → 0xFFFF < (s.sem q (bits w 0 8) : Int) + sext 16 (bits w 8 16) →
    ∃ t : State, exec (.sadd q u t0 .good) s = .next t ∧ t.sem q (bits w 0 8) = 0xFFFF ∧ Raised (s.quadLog q) (srcUnit q u) 0x0303 [] s t ∧ t.thread q u t0 = some (past th) ∧ t.mem = s.mem) ∧
  (∀ (s : State) (q u t0 w : Nat) (th : Thread), RegsOk s → u < 8 → Issues q u t0 18 w th s → bits w 8 16 ≤ s.sem q
    (bits w 0 8) →
    ∃ t : State, exec (.swait q u t0 .good) s = .next t ∧ t.sem q (bits w 0 8) = s.sem q (bits w 0 8) - (if bitAt w 24 then bits w 8 16 else 0) ∧ t.thread q u t0 = some (past th) ∧
          RegsBut [semReg q (bits w 0 8)] s t ∧ t = { s with regs := t.regs, ctl := { rotated q u t0 w s with threads := t.ctl.threads } }) ∧
  (∀ (s : State) (q u t0 w : Nat) (th : Thread), u < 8 → Fits q u t0 0x12 w th s → s.sem q (bits w 0 8) < bits w 8 16
    →
    exec (.swait q u t0 .good) s = .next (s.setThread q u t0 { th with waitAt := some (th.waitAt.getD s.svcTime) })) ∧
  (∀ (s : State) (q u t0 w : Nat) (th : Thread), u < 8 → Issues q u t0 19 w th s → s.quadGone (bits w 25 7) = false →
    ∃ t : State, exec (.sigr q u t0 .good) s = .next t ∧ t.thread q u t0 = some (past th) ∧
          t.ctl.sigs = s.ctl.sigs ++ [⟨bits w 25 7, bits w 0 8, bits w 8 16, s.fld (.schQuad q) SCH_QUAD_EPOCH, srcUnit q u, false⟩] ∧
          t = { s with ctl := { rotated q u t0 w s with threads := t.ctl.threads, sigs := t.ctl.sigs } }) ∧
  (∀ (s : State) (q u t0 w : Nat) (th : Thread), RegsOk s → q < 80 → (∀ i, s.quadInst q = some i → i < 80) → u < 8 →
    Issues q u t0 19 w th s → s.quadGone (bits w 25 7) = true →
    ∃ t : State, exec (.sigr q u t0 .good) s = .next t ∧ Raised (s.quadLog q) (srcUnit q u) 0x030B [] s t ∧ t.thread q u t0 = some (past th) ∧ t.ctl.sigs = s.ctl.sigs ∧ t.mem = s.mem) ∧
  (∀ (s : State) (k : Nat) (m : SigMsg), RegsOk s → s.ctl.sigs[k]? = some m → m.q < 80 → m.sem < 256 → (s.quadInst
    m.q).isSome = true → (m.peer2 = true ∨ s.fld (.schQuad m.q) SCH_QUAD_EPOCH = m.epoch) → s.sem m.q m.sem + m.n ≤
    0xFFFF →
    ∃ t : State, exec (.signalArrival k) s = .next t ∧ t.sem m.q m.sem = s.sem m.q m.sem + m.n ∧ RegsBut [semReg m.q m.sem, .pwrQuad m.q] s t ∧
          (s.fld (.pwrQuad m.q) PWR_QUAD_STATE = 1 ∨ s.fld (.pwrQuad m.q) PWR_QUAD_STATE = 2 → t.flag (.pwrQuad m.q) PWR_QUAD_WAITTOK = true) ∧
          t.fld (.pwrQuad m.q) PWR_QUAD_STATE = s.fld (.pwrQuad m.q) PWR_QUAD_STATE ∧
          t = { s with regs := t.regs, pwr := { s.pwr with wakeReq := t.pwr.wakeReq }, ctl := { s.ctl with sigs := s.ctl.sigs.eraseIdx k } }) ∧
  (∀ (s : State) (k : Nat) (m : SigMsg), RegsOk s → s.ctl.sigs[k]? = some m → m.q < 80 → m.sem < 256 → (s.quadInst
    m.q).isSome = true → (∀ i, s.quadInst m.q = some i → i < 80) → (m.peer2 = true ∨ s.fld (.schQuad m.q)
    SCH_QUAD_EPOCH = m.epoch) → 0xFFFF < s.sem m.q m.sem + m.n →
    ∃ t : State, exec (.signalArrival k) s = .next t ∧ t.sem m.q m.sem = 0xFFFF ∧ Raised (s.quadLog m.q) m.src 0x0303 [] s t ∧ t.mem = s.mem) ∧
  (∀ (s : State) (k : Nat) (m : SigMsg), RegsOk s → s.ctl.sigs[k]? = some m → isQuadUnit m.src = true → m.q < 80 →
    ((s.quadInst m.q).isSome = false ∨ (m.peer2 = false ∧ s.fld (.schQuad m.q) SCH_QUAD_EPOCH ≠ m.epoch)) →
    ∃ t : State, exec (.signalArrival k) s = .next t ∧ t.fld (.schQuad m.q) SCH_QUAD_STALE = satAdd (2 ^ 32 - 1) (s.fld (.schQuad m.q) SCH_QUAD_STALE) 1 ∧
          Raised (s.quadLog (m.src / 16)) m.src 0x0307 [] s t ∧ RegsBut [.schQuad m.q, .pwrQuad m.q] s t ∧
          t = { s with regs := t.regs, evt := t.evt, pwr := { s.pwr with wakeReq := t.pwr.wakeReq }, ctl := { s.ctl with sigs := s.ctl.sigs.eraseIdx k } }) ∧
  (∀ (s : State) (q u t0 w : Nat) (th : Thread), u < 8 → Issues q u t0 32 w th s → s.unitRange q (bits w 0 40) (bits w
    40 32) = true →
    exec (.flush q u t0 .good) s = .next ((turned q u t0 w s).setThread q u t0 { past th with issued := th.issued ++ [{ op := 0x20, sig := none, o := bits w 0 92 }] })) ∧
  (∀ (s : State) (q u t0 w : Nat) (th : Thread), u < 8 → Issues q u t0 33 w th s → s.unitRange q (bits w 0 40) (bits w
    40 32) = true →
    ∃ t : State, exec (.fence q u t0 .good) s = .next t ∧ t.thread q u t0 = some { past th with issued := th.issued ++ [{ op := 0x21, sig := none, o := bits w 0 92 }] } ∧
          t.net.lines = s.net.lines.filter (fun l => ¬ (l.die = q / 4 ∧ 0 < bits w 40 32 ∧ 256 * l.line < bits w 0 40 + bits w 40 32 ∧ bits w 0 40 < 256 * l.line + 256)) ∧
          t = { s with net := { s.net with lines := t.net.lines, dir := t.net.dir }, ctl := { rotated q u t0 w s with threads := t.ctl.threads } }) ∧
  (∀ (s : State) (q u t0 w : Nat) (th : Thread), RegsOk s → q < 80 → (∀ i, s.quadInst q = some i → i < 80) → u < 8 →
    (Issues q u t0 0x20 w th s ∨ Issues q u t0 0x21 w th s) → s.unitRange q (bits w 0 40) (bits w 40 32) = false →
    ∃ t : State, exec (if iOpcode w = 0x20 then .flush q u t0 .good else .fence q u t0 .good) s = .next t ∧ Raised (s.quadLog q) (srcUnit q u) 0x0306 [] s t ∧ t.thread q u t0 = some (past th) ∧
          t.net = s.net ∧ t.mem = s.mem)

/-- With its operands there, an MMA, now issued or going on after it ran dry, gives each element (i, j) of its tile the
products of its slabs, each scaled operand times its block's scale, added to the old code or in its place with OVW, in
W128 exactly or in FP32 rounded slab by slab, records the granules' format, and takes its bytes from its streams. For
one slab of unscaled operands these are the sums of the element products, and no register changes. An MMAX does so, step
by step, for the one row that each entry names. Accumulators outside the tile's or entries' rows and columns and memory
stay. While a stream lacks bytes the instruction stays in progress and changes no accumulator. A format pair that is not
allowed raises ME_FORMAT, a place ME_GRANULE, an entry out of range ME_INDEX. A first residue or uncorrectable
accumulator error of an MMA raises its event, sets FAULT and changes no accumulator. -/
def Obligations.MatrixProducts : Prop :=
  (∀ (s : State) (q u t0 w o nn : Nat) (th th1 : Thread) (ii : Issued) (sg : Option Nat) (m n kk za zb zc zd : Nat) (a
    b : OpForm) (tl : Tile) (ab as_ bb bs_ : List Byte), RegsOk s → u < 4 → ((Issues q u t0 0x30 w th s ∧ o = bits w 0
    92 ∧ sg = none ∧ th1 = past th) ∨ (s.thread q u t0 = some th ∧ s.unitOn q u = true ∧ th.dryOf 0x30 = some (nn, ii)
    ∧ o = ii.o ∧ sg = ii.sig ∧ ii.got = [] ∧ ii.k = 0 ∧ th1 = { th with issued := th.issued.eraseIdx nn })) →
    pairForms o = some (a, b) → m = bits o 24 7 + 1 → n = bits o 31 7 + 1 → kk = 32 * (bits o 38 11 + 1) → (¬ (bits o
    59 1 = 1 ∧ chunkOf a (bits o 60 2) = some 256)) → tileOk u (bits o 49 1) (bits o 50 8) (bits o 59 1 = 1) m = true
    → tl = ⟨granId q u (bits o 49 1) (bits o 50 8), bits o 59 1 = 1, m⟩ → (za = ((slabLens kk).map fun len => m *
    a.f.bytes len).sum) → (zb = ((slabLens kk).map fun len => len * b.f.bytes n).sum) → (zc = if a.scl = 0 then 0 else
    ((slabLens kk).map fun len => m * (len / 32)).sum) → (zd = if b.scl = 0 then 0 else ((slabLens kk).map fun len =>
    n * (len / 32)).sum) → (usedPorts [(portOf q (bits o 12 6), za), (portOf q (bits o 12 6) + 1, zc), (portOf q (bits
    o 18 6), zb), (portOf q (bits o 18 6) + 1, zd)]).Nodup → (s.stream (portOf q (bits o 12 6))).runs =
    [{ left := ab, ended := true, full := true, pair := decide (zc ≠ 0) }] → ab.length = za → (zc ≠ 0 → (s.stream
    (portOf q (bits o 12 6) + 1)).runs = [{ left := as_, ended := true, full := true, pair := false }]) → as_.length =
    zc → (s.stream (portOf q (bits o 18 6))).runs =
    [{ left := bb, ended := true, full := true, pair := decide (zd ≠ 0) }] → bb.length = zb → (zd ≠ 0 → (s.stream
    (portOf q (bits o 18 6) + 1)).runs = [{ left := bs_, ended := true, full := true, pair := false }]) → bs_.length =
    zd → (twf (fun _ => 0) s.eng.acc = true) → (twf (fun _ => 0) s.eng.accFmt = true) → (twf (fun _ => ({} :
    StreamSt)) s.fry.streams = true) →
    ∃ t : State, exec (.mma q u t0 .good) s = .next t ∧
          (∀ i < m, ∀ j < n, t.acc (tl.key i j) = mmaElem (bits o 59 1 = 1) (bits o 58 1 = 1) (chunkOf a (bits o 60 2)) (s.acc (tl.key i j))
            ((cutSlabs a b m n (slabLens kk) ab as_ bb bs_).map fun y => y.1.products a b i j)) ∧
          (∀ k, (∀ i < m, ∀ j < n, k ≠ tl.key i j) → t.acc k = s.acc k) ∧ (∀ g ∈ tl.grans, tgetD 0 t.eng.accFmt g = fmtCode tl.fp32) ∧
          (∀ g, g ∉ tl.grans → tgetD 0 t.eng.accFmt g = tgetD 0 s.eng.accFmt g) ∧ t.thread q u t0 = some { th1 with issued := th1.issued ++ [{ op := 0x30, sig := sg, o := o }] } ∧
          ((t.stream (portOf q (bits o 12 6))).runs.all RunQ.over) = true ∧ ((t.stream (portOf q (bits o 18 6))).runs.all RunQ.over) = true ∧
          RegsBut [cvtStat q, cvtWin q, .glbInt] s t ∧ t.mem = s.mem) ∧
  (∀ (s : State) (q u t0 w m n kk : Nat) (th : Thread) (a b : OpForm) (tl : Tile) (ab bb : List Byte), RegsOk s → u <
    4 → Issues q u t0 0x30 w th s → pairForms (bits w 0 92) = some (a, b) → a.scl = 0 → b.scl = 0 → m = bits w 24 7 +
    1 → n = bits w 31 7 + 1 → kk = 32 * (bits w 38 11 + 1) → kk ≤ 128 → (¬ (bits w 59 1 = 1 ∧ chunkOf a (bits w 60 2)
    = some 256)) → tileOk u (bits w 49 1) (bits w 50 8) (bits w 59 1 = 1) m = true → tl = ⟨granId q u (bits w 49 1)
    (bits w 50 8), bits w 59 1 = 1, m⟩ → portOf q (bits w 12 6) ≠ portOf q (bits w 18 6) → (s.stream (portOf q (bits w
    12 6))).runs = [{ left := ab, ended := true, full := true, pair := false }] → ab.length = m * a.f.bytes kk →
    (s.stream (portOf q (bits w 18 6))).runs = [{ left := bb, ended := true, full := true, pair := false }] →
    bb.length = kk * b.f.bytes n → (twf (fun _ => 0) s.eng.acc = true) → (twf (fun _ => 0) s.eng.accFmt = true) → (twf
    (fun _ => ({} : StreamSt)) s.fry.streams = true) →
    ∃ t : State, exec (.mma q u t0 .good) s = .next t ∧
          (∀ i < m, ∀ j < n, t.acc (tl.key i j) = mmaElem (bits w 59 1 = 1) (bits w 58 1 = 1) (chunkOf a (bits w 60 2)) (s.acc (tl.key i j))
            [(List.range kk).map fun k => (getFV (opRows a.f m kk ab) i k).mul (getFV (opRows b.f kk n bb) k j)]) ∧
          t.mem = s.mem ∧ t.regs = s.regs ∧ t.evt = s.evt) ∧
  (∀ (s : State) (q u t0 w o nn : Nat) (th th1 : Thread) (ii : Issued) (sg : Option Nat) (m n ks zb zd : Nat) (a b :
    OpForm) (ab as_ bb bs_ : List Byte) (es : List Nat), RegsOk s → u < 4 → ((Issues q u t0 0x31 w th s ∧ o = bits w 0
    92 ∧ sg = none ∧ th1 = past th) ∨ (s.thread q u t0 = some th ∧ s.unitOn q u = true ∧ th.dryOf 0x31 = some (nn, ii)
    ∧ o = ii.o ∧ sg = ii.sig ∧ ii.got = [] ∧ ii.k = 0 ∧ th1 = { th with issued := th.issued.eraseIdx nn })) →
    pairForms o = some (a, b) → m = bits o 24 7 + 1 → n = bits o 31 7 + 1 → ks = 32 * (bits o 38 2 + 1) → es.length =
    bits o 40 16 + 1 → (¬ (bits o 57 1 = 1 ∧ chunkOf a (bits o 58 2) = some 256)) → (bits o 56 1 = 0 ∨ u = 0) → (∀ e ∈
    es, bits e 0 7 < m ∧ bits e 15 5 < granRows (bits o 57 1 = 1) ∧ e < 2 ^ 21) → ab.length = m * a.f.bytes ks →
    (as_.length = if a.scl = 0 then 0 else m * (ks / 32)) → zb = ks * b.f.bytes n → (zd = if b.scl = 0 then 0 else n *
    (ks / 32)) → bb.length = es.length * zb → bs_.length = es.length * zd → (usedPorts [(portOf q (bits o 12 6),
    ab.length), (portOf q (bits o 12 6) + 1, as_.length), (portOf q (bits o 18 6), zb), (portOf q (bits o 18 6) + 1,
    zd), (portOf q (bits o 60 6), 4)]).Nodup → (s.stream (portOf q (bits o 12 6))).runs =
    [{ left := ab, ended := true, full := true, pair := decide (as_ ≠ []) }] → (as_ ≠ [] → (s.stream (portOf q (bits o
    12 6) + 1)).runs = [{ left := as_, ended := true, full := true, pair := false }]) → (s.stream (portOf q (bits o 18
    6))).runs = [{ left := bb, ended := true, full := true, pair := decide (zd ≠ 0) }] → (zd ≠ 0 → (s.stream (portOf q
    (bits o 18 6) + 1)).runs = [{ left := bs_, ended := true, full := true, pair := false }]) → (s.stream (portOf q
    (bits o 60 6))).runs = [{ left := es.flatMap (leBytes 4), ended := true, full := true, pair := false }] → (twf
    (fun _ => 0) s.eng.acc = true) → (twf (fun _ => 0) s.eng.accFmt = true) → (twf (fun _ => ({} : StreamSt))
    s.fry.streams = true) →
    ∃ t : State, exec (.mmax q u t0 .good) s = .next t ∧
          (∀ k, t.acc k = (es.zipIdx).foldl (fun v e =>
            if (Tile.mk (granId q u (bits o 56 1) (bits e.1 7 8)) (bits o 57 1 = 1) 1).key (bits e.1 15 5) 0 ≤ k ∧
                k < (Tile.mk (granId q u (bits o 56 1) (bits e.1 7 8)) (bits o 57 1 = 1) 1).key (bits e.1 15 5) 0 + n
            then mmaElem (bits o 57 1 = 1) (bitAt e.1 20) (chunkOf a (bits o 58 2)) v
              [(mkSlab a b m n ks ab as_ (bytesAt bb (e.2 * zb) zb) (bytesAt bs_ (e.2 * zd) zd)).1.products a b (bits e.1 0 7)
                (k - (Tile.mk (granId q u (bits o 56 1) (bits e.1 7 8)) (bits o 57 1 = 1) 1).key (bits e.1 15 5) 0)]
            else v) (s.acc k)) ∧
          (∀ e ∈ es, tgetD 0 t.eng.accFmt (granId q u (bits o 56 1) (bits e 7 8)) = fmtCode (bits o 57 1 = 1)) ∧
          t.thread q u t0 = some { th1 with issued := th1.issued ++ [{ op := 0x31, sig := sg, o := o }] } ∧ RegsBut [cvtStat q, cvtWin q, .glbInt] s t ∧ t.mem = s.mem) ∧
  (∀ (s : State) (q u t0 w : Nat) (th : Thread) (a b : OpForm), u < 4 → Issues q u t0 48 w th s → pairForms (bits w 0
    92) = some (a, b) → (¬ (bits w 59 1 = 1 ∧ chunkOf a (bits w 60 2) = some 256)) → tileOk u (bits w 49 1) (bits w 50
    8) (bits w 59 1 = 1) (bits w 24 7 + 1) = true → (s.stream (portOf q (bits w 12 6))).runs = [] → s.streamHalted
    (portOf q (bits w 12 6)) = false →
    ∃ t : State, exec (.mma q u t0 .good) s = .next t ∧ t.thread q u t0 = some { past th with issued := th.issued ++ [{ op := 0x30, sig := none, o := bits w 0 92, dry := true }] } ∧
          t = { s with ctl := { rotated q u t0 w s with threads := t.ctl.threads } }) ∧
  (∀ (s : State) (q u t0 w : Nat) (th : Thread) (a b : OpForm), u < 4 → Issues q u t0 49 w th s → pairForms (bits w 0
    92) = some (a, b) → (¬ (bits w 57 1 = 1 ∧ chunkOf a (bits w 58 2) = some 256)) → (bits w 56 1 = 0 ∨ u = 0) →
    (s.stream (portOf q (bits w 12 6))).runs = [] → s.streamHalted (portOf q (bits w 12 6)) = false →
    ∃ t : State, exec (.mmax q u t0 .good) s = .next t ∧ t.thread q u t0 = some { past th with issued := th.issued ++ [{ op := 0x31, sig := none, o := bits w 0 92, dry := true }] } ∧
          t = { s with ctl := { rotated q u t0 w s with threads := t.ctl.threads } }) ∧
  (∀ (s : State) (q u t0 w : Nat) (th : Thread), RegsOk s → q < 80 → (∀ i, s.quadInst q = some i → i < 80) → u < 4 →
    Issues q u t0 0x30 w th s → pairForms (bits w 0 92) = none →
    ∃ t : State, exec (.mma q u t0 .good) s = .next t ∧ Raised (s.quadLog q) (srcUnit q u) 0x0104 [] s t ∧ (∀ k, t.acc k = s.acc k) ∧ t.mem = s.mem) ∧
  (∀ (s : State) (q u t0 w : Nat) (th : Thread), RegsOk s → q < 80 → (∀ i, s.quadInst q = some i → i < 80) → u < 4 →
    Issues q u t0 0x31 w th s → pairForms (bits w 0 92) = none →
    ∃ t : State, exec (.mmax q u t0 .good) s = .next t ∧ Raised (s.quadLog q) (srcUnit q u) 0x0104 [] s t ∧ (∀ k, t.acc k = s.acc k) ∧ t.mem = s.mem) ∧
  (∀ (s : State) (q u t0 w : Nat) (th : Thread), RegsOk s → q < 80 → (∀ i, s.quadInst q = some i → i < 80) → u < 4 →
    Issues q u t0 0x30 w th s → pairForms (bits w 0 92) ≠ none → bits w 59 1 = 0 → tileOk u (bits w 49 1) (bits w 50
    8) false (bits w 24 7 + 1) = false →
    ∃ t : State, exec (.mma q u t0 .good) s = .next t ∧ Raised (s.quadLog q) (srcUnit q u) 0x0105 [] s t ∧ (∀ k, t.acc k = s.acc k) ∧ t.mem = s.mem) ∧
  (∀ (s : State) (q u t0 w : Nat) (th : Thread), RegsOk s → q < 80 → (∀ i, s.quadInst q = some i → i < 80) → u < 4 →
    Issues q u t0 0x31 w th s → pairForms (bits w 0 92) ≠ none → bits w 57 1 = 0 → bits w 56 1 = 1 → u ≠ 0 →
    ∃ t : State, exec (.mmax q u t0 .good) s = .next t ∧ Raised (s.quadLog q) (srcUnit q u) 0x0105 [] s t ∧ (∀ k, t.acc k = s.acc k) ∧ t.mem = s.mem) ∧
  (∀ (s : State) (q u t0 w e : Nat) (th : Thread) (a b : OpForm) (ab bb : List Byte), RegsOk s → q < 80 → (∀ i,
    s.quadInst q = some i → i < 80) → u < 4 → Issues q u t0 49 w th s → pairForms (bits w 0 92) = some (a, b) → a.scl
    = 0 → b.scl = 0 → (¬ (bits w 57 1 = 1 ∧ chunkOf a (bits w 58 2) = some 256)) → (bits w 56 1 = 0 ∨ u = 0) → e < 2 ^
    32 → (bits w 24 7 < bits e 0 7 ∨ granRows (bits w 57 1 = 1) ≤ bits e 15 5 ∨ bits e 21 11 ≠ 0) → [portOf q (bits w
    12 6), portOf q (bits w 18 6), portOf q (bits w 60 6)].Nodup → (s.stream (portOf q (bits w 12 6))).runs =
    [{ left := ab, ended := true, full := true, pair := false }] → ab.length = (bits w 24 7 + 1) * a.f.bytes (32 *
    (bits w 38 2 + 1)) → (s.stream (portOf q (bits w 18 6))).runs =
    [{ left := bb, ended := true, full := true, pair := false }] → bb.length = 32 * (bits w 38 2 + 1) * b.f.bytes
    (bits w 31 7 + 1) → (s.stream (portOf q (bits w 60 6))).runs =
    [{ left := leBytes 4 e, ended := true, full := true, pair := false }] →
    ∃ t : State, exec (.mmax q u t0 .good) s = .next t ∧ Raised (s.quadLog q) (srcUnit q u) 0x0106 [] s t ∧ (∀ k, t.acc k = s.acc k) ∧ t.mem = s.mem) ∧
  (∀ (s : State) (q u t0 w : Nat) (th : Thread) , RegsOk s → q < 80 → (∀ i, s.quadInst q = some i → i < 80) → u < 4 →
    Issues q u t0 0x30 w th s → pairForms (bits w 0 92) ≠ none → (¬ (bits w 59 1 = 1 ∧ ((pairForms (bits w 0 92)).bind
    fun a => chunkOf a.1 (bits w 60 2)) = some 256)) → tileOk u (bits w 49 1) (bits w 50 8) (bits w 59 1 = 1) (bits w
    24 7 + 1) = true → withinDay s.eng.meErr (4 * q + u) s.svcTime = false → (matTile 0x30 (bits w 0 92)).2.1 = bits w
    50 8 → s.eng.spilled = [] →
    ∃ t : State, exec (.mma q u t0 .parity) s = .next t ∧ Raised (s.quadLog q) (srcUnit q u) 0x0101 [] s t ∧ t.flag (.meStat (4 * q + u)) ME_STAT_FAULT = true ∧ (∀ k, t.acc k = s.acc k) ∧ t.mem = s.mem) ∧
  (∀ (s : State) (q u t0 w : Nat) (th : Thread) , RegsOk s → q < 80 → (∀ i, s.quadInst q = some i → i < 80) → u < 4 →
    Issues q u t0 0x30 w th s → pairForms (bits w 0 92) ≠ none → (¬ (bits w 59 1 = 1 ∧ ((pairForms (bits w 0 92)).bind
    fun a => chunkOf a.1 (bits w 60 2)) = some 256)) → tileOk u (bits w 49 1) (bits w 50 8) (bits w 59 1 = 1) (bits w
    24 7 + 1) = true → withinDay s.eng.meErr (4 * q + u) s.svcTime = false → (matTile 0x30 (bits w 0 92)).2.1 = bits w
    50 8 → s.eng.spilled = [] →
    ∃ t : State, exec (.mma q u t0 .accUe) s = .next t ∧ Raised (s.quadLog q) (srcUnit q u) 0x0103 [] s t ∧ t.flag (.meStat (4 * q + u)) ME_STAT_FAULT = true ∧ (∀ k, t.acc k = s.acc k) ∧ t.mem = s.mem)

/-- A DRAIN whose parameter window is readable and in form hands its output streams what its conversion makes of the
tile, of every format, epilogue, rounding mode, block scale and error record: the data to the first port, the records to
the second, the error records into the window, and leaves accumulators and every other byte. Without epilogue, in RNE,
without block scale or error records these are the tile's elements converted row by row to the format. SPILL writes the
tile's rows of 128 elements, 16 or 4 bytes each, to its scratchpad window and no other byte, and marks its granules
spilled; RELOAD brings such bytes back into the tile's accumulators and no other. XFER appends the W128 codes to the
input queue of the quad's VP. A place that is not allowed raises ME_GRANULE, a format that the granules' record
contradicts ME_FORMAT, a window outside the partition ADDR, a stochastic DRAIN without context or with a malformed block
ME_PARAM; accumulators and memory stay. -/
def Obligations.TilesDrainSpillReloadAndTransfer : Prop :=
  (∀ (s : State) (q u t0 w m n : Nat) (th : Thread) (f : Fm) (tl : Tile) (d : Drained), MemOk s → RegsOk s → u < 4 →
    Issues q u t0 0x32 w th s → fmOf (bits w 26 4) = some f → m = bits w 9 7 + 1 → n = bits w 16 7 + 1 → tl = ⟨granId
    q u (bits w 0 1) (bits w 1 8), bits w 23 1 = 1, m⟩ → tileOk u (bits w 0 1) (bits w 1 8) (bits w 23 1 = 1) m = true
    → s.fmtAgrees tl = true → (bits w 32 1 = 1 → f.width ≠ 16 ∧ f.width ≠ 32) → (bits w 24 2 = 1 → bits w 23 1 = 0 ∧
    (f = .fp32 ∨ f = .bf16) ∧ bits w 30 2 = 0) → (bits w 30 2 = 1 → s.flag (.meSrctx8 (16 * q + 4 * u + t0))
    ME_SRCTX8_VALID = true) → (bits w 24 2 = 2 ∨ bits w 30 2 = 2 ∨ bits w 33 2 ≠ 0 → s.unitRange q (spadAt q (4096 *
    bits w 38 14)) 4096 = true) → (∀ b < 64, s.bankSt (q / 4) b = 0) → s.net.onWipe = [] → (bits w 24 2 = 2 ∨ bits w
    30 2 = 2 → paramOk (s.rd (spadAt q (4096 * bits w 38 14)) 1600) = true) → (d.data = (drainTile
    { q, u, t := t0, op := 0x32, o := bits w 0 92, sig := none } f (if bits w 24 2 = 2 ∨ bits w 30 2 = 2 then s.rd
    (spadAt q (4096 * bits w 38 14)) 1600 else []) (if bits w 33 2 = 0 then [] else s.rd (spadAt q (4096 * bits w 38
    14 + 2048)) 2048) (s.drainSeed { q, u, t := t0, op := 0x32, o := bits w 0 92, sig := none } (if bits w 24 2 = 2 ∨
    bits w 30 2 = 2 then s.rd (spadAt q (4096 * bits w 38 14)) 1600 else [])) (s.tileRows tl n)).data) → (d.recs =
    (drainTile { q, u, t := t0, op := 0x32, o := bits w 0 92, sig := none } f (if bits w 24 2 = 2 ∨ bits w 30 2 = 2
    then s.rd (spadAt q (4096 * bits w 38 14)) 1600 else []) (if bits w 33 2 = 0 then [] else s.rd (spadAt q (4096 *
    bits w 38 14 + 2048)) 2048) (s.drainSeed { q, u, t := t0, op := 0x32, o := bits w 0 92, sig := none } (if bits w
    24 2 = 2 ∨ bits w 30 2 = 2 then s.rd (spadAt q (4096 * bits w 38 14)) 1600 else [])) (s.tileRows tl n)).recs) →
    (d.errs = (drainTile { q, u, t := t0, op := 0x32, o := bits w 0 92, sig := none } f (if bits w 24 2 = 2 ∨ bits w
    30 2 = 2 then s.rd (spadAt q (4096 * bits w 38 14)) 1600 else []) (if bits w 33 2 = 0 then [] else s.rd (spadAt q
    (4096 * bits w 38 14 + 2048)) 2048) (s.drainSeed { q, u, t := t0, op := 0x32, o := bits w 0 92, sig := none } (if
    bits w 24 2 = 2 ∨ bits w 30 2 = 2 then s.rd (spadAt q (4096 * bits w 38 14)) 1600 else [])) (s.tileRows tl
    n)).errs) →
    ∃ t : State, exec (.drain q u t0 .good) s = .next t ∧
          (t.stream (portOf q (16 * u + 2 * bits w 35 3))).fromUnit = (s.stream (portOf q (16 * u + 2 * bits w 35 3))).fromUnit ++ [d.data] ∧
          (t.stream ((portOf q (16 * u + 2 * bits w 35 3)) + 1)).fromUnit = (s.stream ((portOf q (16 * u + 2 * bits w 35 3)) + 1)).fromUnit ++ (if d.recs = [] then [] else [d.recs]) ∧
          (bits w 33 2 ≠ 0 → memRead t.mem (spadAt q (4096 * bits w 38 14 + 2048)) 2048 = d.errs) ∧
          MemBut (spadAt q (4096 * bits w 38 14 + 2048)) (if bits w 33 2 = 0 then 0 else 2048) s t ∧
          (∀ k, t.acc k = s.acc k) ∧ t.thread q u t0 = some { past th with issued := th.issued ++ [{ op := 0x32, sig := none, o := bits w 0 92 }] } ∧ RegsBut [cvtStat q, cvtWin q, .glbInt] s t) ∧
  (∀ (s : State) (q u t0 w m n : Nat) (th : Thread) (f : Fm) (tl : Tile), u < 4 → Issues q u t0 0x32 w th s → fmOf
    (bits w 26 4) = some f → m = bits w 9 7 + 1 → n = bits w 16 7 + 1 → tl = ⟨granId q u (bits w 0 1) (bits w 1 8),
    bits w 23 1 = 1, m⟩ → tileOk u (bits w 0 1) (bits w 1 8) (bits w 23 1 = 1) m = true → s.fmtAgrees tl = true → bits
    w 24 2 = 0 → bits w 30 2 = 0 → bits w 32 1 = 0 → bits w 33 2 = 0 →
    ∃ t : State, exec (.drain q u t0 .good) s = .next t ∧
          (t.stream (portOf q (16 * u + 2 * bits w 35 3))).fromUnit = (s.stream (portOf q (16 * u + 2 * bits w 35 3))).fromUnit ++
            [(s.tileRows tl n).flatMap fun r => bytesAt (f.pack (r.map fun c =>
              (f.conv .rne false (if bits w 23 1 = 1 then Fm.fp32.val c else (wOf (BitVec.ofNat 128 c)).val)).1)) 0 (f.bytes n)] ∧
          (∀ k, t.acc k = s.acc k) ∧ t.thread q u t0 = some { past th with issued := th.issued ++ [{ op := 0x32, sig := none, o := bits w 0 92 }] } ∧ RegsBut [cvtStat q, cvtWin q, .glbInt] s t ∧ t.mem = s.mem) ∧
  (∀ (s : State) (q u t0 w o : Nat) (th : Thread) (tl : Tile), MemOk s → u < 4 → Issues q u t0 0x33 w th s → tl =
    ⟨granId q u (bits w 0 1) (bits w 1 8), bits w 16 1 = 1, bits w 9 7 + 1⟩ → tileOk u (bits w 0 1) (bits w 1 8) (bits
    w 16 1 = 1) (bits w 9 7 + 1) = true → s.fmtAgrees tl = true → o = 512 * bits w 17 17 → (o + 128 * (if tl.fp32 then
    4 else 16) * tl.m ≤ spSize) → (s.unitRange q (spadAt q o) (128 * (if tl.fp32 then 4 else 16) * tl.m) = true) → (∀
    b < 64, s.bankSt (q / 4) b = 0) → s.net.onWipe = [] →
    ∃ t : State, exec (.spill q u t0 .good) s = .next t ∧
          (∀ i < tl.m, ∀ j < 128, t.rdLE (spadAt q o + (if tl.fp32 then 4 else 16) * (128 * i + j)) (if tl.fp32 then 4 else 16) =
            s.acc (tl.key i j) % 256 ^ (if tl.fp32 then 4 else 16)) ∧
          MemBut (spadAt q o) (128 * (if tl.fp32 then 4 else 16) * tl.m) s t ∧ (∀ g ∈ tl.grans, g ∈ t.eng.spilled) ∧ (∀ k, t.acc k = s.acc k) ∧
          t.thread q u t0 = some { past th with issued := th.issued ++ [{ op := 0x33, sig := none, o := bits w 0 92 }] } ∧ t.regs = s.regs ∧ t.evt = s.evt) ∧
  (∀ (s : State) (q u t0 w o : Nat) (th : Thread) (tl : Tile), u < 4 → Issues q u t0 0x34 w th s → tl = ⟨granId q u
    (bits w 0 1) (bits w 1 8), bits w 16 1 = 1, bits w 9 7 + 1⟩ → tileOk u (bits w 0 1) (bits w 1 8) (bits w 16 1 = 1)
    (bits w 9 7 + 1) = true → s.fmtAgrees tl = true → (twf (fun _ => 0) s.eng.acc = true) → (twf (fun _ => 0)
    s.eng.accFmt = true) → o = 512 * bits w 17 17 → (o + 128 * (if tl.fp32 then 4 else 16) * tl.m ≤ spSize) →
    (s.unitRange q (spadAt q o) (128 * (if tl.fp32 then 4 else 16) * tl.m) = true) → (∀ b < 64, s.bankSt (q / 4) b =
    0) → s.net.onWipe = [] →
    ∃ t : State, exec (.reload q u t0 .good) s = .next t ∧
          (∀ i < tl.m, ∀ j < 128, t.acc (tl.key i j) = s.rdLE (spadAt q o + (if tl.fp32 then 4 else 16) * (128 * i + j)) (if tl.fp32 then 4 else 16)) ∧
          (∀ k, (∀ i < tl.m, ∀ j < 128, k ≠ tl.key i j) → t.acc k = s.acc k) ∧ (∀ g ∈ tl.grans, tgetD 0 t.eng.accFmt g = fmtCode tl.fp32) ∧
          t.thread q u t0 = some { past th with issued := th.issued ++ [{ op := 0x34, sig := none, o := bits w 0 92 }] } ∧ t.mem = s.mem ∧ t.regs = s.regs ∧ t.evt = s.evt) ∧
  (∀ (s : State) (q u t0 w m n : Nat) (th : Thread) (tl : Tile), u < 4 → Issues q u t0 0x35 w th s → m = bits w 9 7 +
    1 → n = bits w 16 7 + 1 → tl = ⟨granId q u (bits w 0 1) (bits w 1 8), false, m⟩ → tileOk u (bits w 0 1) (bits w 1
    8) false m = true → s.fmtAgrees tl = true →
    ∃ t : State, exec (.xfer q u t0 .good) s = .next t ∧
          tgetD [] t.eng.vq (8 * q + bits w 24 3) = tgetD [] s.eng.vq (8 * q + bits w 24 3) ++
            (List.range m).flatMap (fun i => (List.range n).flatMap fun j => leBytes 16 (s.acc (tl.key i j))) ∧
          (∀ k, k ≠ 8 * q + bits w 24 3 → tgetD [] t.eng.vq k = tgetD [] s.eng.vq k) ∧ t.thread q u t0 = some { past th with issued := th.issued ++ [{ op := 0x35, sig := none, o := bits w 0 92 }] } ∧
          t = { s with eng := { s.eng with vq := t.eng.vq }, ctl := { rotated q u t0 w s with threads := t.ctl.threads } }) ∧
  (∀ (s : State) (q u t0 w : Nat) (th : Thread) (fp : Bool), RegsOk s → q < 80 → (∀ i, s.quadInst q = some i → i < 80)
    → u < 4 → (iOpcode w = 0x32 ∨ iOpcode w = 0x33 ∨ iOpcode w = 0x34 ∨ iOpcode w = 0x35) → Issues q u t0 (iOpcode w)
    w th s → (fp = decide (if iOpcode w = 0x32 then bits w 23 1 = 1 else if iOpcode w = 0x35 then False else bits w 16
    1 = 1)) → tileOk u (bits w 0 1) (bits w 1 8) fp (bits w 9 7 + 1) = false →
    ∃ t : State, exec (if iOpcode w = 0x32 then .drain q u t0 .good else if iOpcode w = 0x33 then .spill q u t0 .good else if iOpcode w = 0x34 then .reload q u t0 .good else .xfer q u t0 .good) s = .next t ∧ Raised (s.quadLog q) (srcUnit q u) 0x0105 [] s t ∧ (∀ k, t.acc k = s.acc k) ∧ t.mem = s.mem) ∧
  (∀ (s : State) (q u t0 w : Nat) (th : Thread) (fp : Bool), RegsOk s → q < 80 → (∀ i, s.quadInst q = some i → i < 80)
    → u < 4 → (iOpcode w = 0x32 ∨ iOpcode w = 0x33 ∨ iOpcode w = 0x34 ∨ iOpcode w = 0x35) → Issues q u t0 (iOpcode w)
    w th s → (fp = decide (if iOpcode w = 0x32 then bits w 23 1 = 1 else if iOpcode w = 0x35 then False else bits w 16
    1 = 1)) → tileOk u (bits w 0 1) (bits w 1 8) fp (bits w 9 7 + 1) = true → s.fmtAgrees ⟨granId q u (bits w 0 1)
    (bits w 1 8), fp, bits w 9 7 + 1⟩ = false →
    ∃ t : State, exec (if iOpcode w = 0x32 then .drain q u t0 .good else if iOpcode w = 0x33 then .spill q u t0 .good else if iOpcode w = 0x34 then .reload q u t0 .good else .xfer q u t0 .good) s = .next t ∧ Raised (s.quadLog q) (srcUnit q u) 0x0104 [] s t ∧ (∀ k, t.acc k = s.acc k) ∧ t.mem = s.mem) ∧
  (∀ (s : State) (q u t0 w : Nat) (th : Thread) (tl : Tile), RegsOk s → q < 80 → (∀ i, s.quadInst q = some i → i < 80)
    → u < 4 → (Issues q u t0 0x33 w th s ∨ Issues q u t0 0x34 w th s) → tl = ⟨granId q u (bits w 0 1) (bits w 1 8),
    bits w 16 1 = 1, bits w 9 7 + 1⟩ → tileOk u (bits w 0 1) (bits w 1 8) (bits w 16 1 = 1) (bits w 9 7 + 1) = true →
    s.fmtAgrees tl = true → (s.unitRange q (spadAt q (512 * bits w 17 17)) (128 * (if tl.fp32 then 4 else 16) * tl.m)
    = false) →
    ∃ t : State, exec (if iOpcode w = 0x33 then .spill q u t0 .good else .reload q u t0 .good) s = .next t ∧ Raised (s.quadLog q) (srcUnit q u) 0x0306 [] s t ∧ (∀ k, t.acc k = s.acc k) ∧ t.mem = s.mem) ∧
  (∀ (s : State) (q u t0 w : Nat) (th : Thread) (f : Fm) (tl : Tile), RegsOk s → q < 80 → (∀ i, s.quadInst q = some i
    → i < 80) → u < 4 → Issues q u t0 0x32 w th s → fmOf (bits w 26 4) = some f → tl = ⟨granId q u (bits w 0 1) (bits
    w 1 8), bits w 23 1 = 1, bits w 9 7 + 1⟩ → tileOk u (bits w 0 1) (bits w 1 8) (bits w 23 1 = 1) (bits w 9 7 + 1) =
    true → s.fmtAgrees tl = true → bits w 32 1 = 0 → bits w 24 2 ≠ 1 → bits w 30 2 = 1 → s.flag (.meSrctx8 (16 * q + 4
    * u + t0)) ME_SRCTX8_VALID = false →
    ∃ t : State, exec (.drain q u t0 .good) s = .next t ∧ Raised (s.quadLog q) (srcUnit q u) 0x0107 [] s t ∧ (∀ k, t.acc k = s.acc k) ∧ t.mem = s.mem) ∧
  (∀ (s : State) (q u t0 w : Nat) (th : Thread) (f : Fm) (tl : Tile), RegsOk s → q < 80 → (∀ i, s.quadInst q = some i
    → i < 80) → u < 4 → Issues q u t0 0x32 w th s → fmOf (bits w 26 4) = some f → tl = ⟨granId q u (bits w 0 1) (bits
    w 1 8), bits w 23 1 = 1, bits w 9 7 + 1⟩ → tileOk u (bits w 0 1) (bits w 1 8) (bits w 23 1 = 1) (bits w 9 7 + 1) =
    true → s.fmtAgrees tl = true → bits w 32 1 = 0 → (bits w 24 2 = 2 ∨ (bits w 24 2 = 0 ∧ bits w 30 2 = 2)) → bits w
    30 2 ≠ 1 → s.unitRange q (spadAt q (4096 * bits w 38 14)) 4096 = true → (∀ b < 64, s.bankSt (q / 4) b = 0) →
    s.net.onWipe = [] → paramOk (s.rd (spadAt q (4096 * bits w 38 14)) 1600) = false →
    ∃ t : State, exec (.drain q u t0 .good) s = .next t ∧ Raised (s.quadLog q) (srcUnit q u) 0x0107 [] s t ∧ (∀ k, t.acc k = s.acc k) ∧ t.mem = s.mem)

/-- SRCTX writes the issuing thread's ME_SRCTX: with CLEAR (bit 70) 0 it writes STEP (bits 63-0) and MODEL (bits 69-64)
and sets VALID; with CLEAR 1 it sets VALID to 0 and leaves STEP and MODEL; with a nonzero bit of 91-71 it does neither
and raises ILLEGAL. No other register, no memory and no other thread changes. -/
def Obligations.StepContextOfAThread : Prop :=
  (∀ (s : State) (q u t0 w : Nat) (th : Thread), RegsOk s → q < 80 → t0 < 4 → u < 4 → Issues q u t0 54 w th s →
    ∃ t : State, exec (.srctx q u t0 .good) s = .next t ∧
          t.fld (.meSrctx8 (16 * q + 4 * u + t0)) ME_SRCTX8_VALID = (if bitAt w 70 then 0 else 1) ∧
          t.fld (.meSrctx0 (16 * q + 4 * u + t0)) ME_SRCTX0_STEP =
            (if bitAt w 70 then s.fld (.meSrctx0 (16 * q + 4 * u + t0)) ME_SRCTX0_STEP else bits w 0 64) ∧
          t.fld (.meSrctx8 (16 * q + 4 * u + t0)) ME_SRCTX8_MODEL =
            (if bitAt w 70 then s.fld (.meSrctx8 (16 * q + 4 * u + t0)) ME_SRCTX8_MODEL else bits w 64 6) ∧
          t.thread q u t0 = some (past th) ∧ RegsBut [.meSrctx0 (16 * q + 4 * u + t0), .meSrctx8 (16 * q + 4 * u + t0)] s t ∧
          t = { s with regs := t.regs, ctl := { rotated q u t0 w s with threads := t.ctl.threads } }) ∧
  (∀ (s : State) (q u t0 w : Nat) (th : Thread), u < 4 → s.thread q u t0 = some th → th.dryOf 0x36 = none → s.nextWord
    q u t0 = some w → s.unitOn q u = true → iOpcode w = 0x36 → iClass w = 3 → iThread w = t0 → bits w 71 21 ≠ 0 →
    ∃ t : State, exec (.srctx q u t0 .good) s = .next t ∧ Raised (s.quadLog q) (srcUnit q u) 0x0301 [] s t ∧ t.mem = s.mem ∧ t.ctl.threads = s.ctl.threads ∧
          (∀ i, s.quadInst q = some i → RegsBut [.schInst i] s t))

/-- A substitution for a failed engine, while the die's spare is available, puts the spare in its place: AVAIL 0, INUSE
1, QUAD and ENGINE name it, SUBST is set, SPUSED counts it, its accumulators read 0 and other engines' stay, and
ME_SUBST is raised; without a spare its quad is due to retire, and without a failed engine nothing happens. A self-test
that passes makes an unused spare available; one that fails withdraws it, sets SPFAIL and raises ME_SPFAIL; one in use
is not tested. -/
def Obligations.SpareEngines : Prop :=
  (∀ (s : State) (d k c : Nat), RegsOk s → d < 20 → (s.eng.meFailed.find? (fun f => f.1 / 16 = d) = some (k, c)) →
    s.flag (.meSpare d) ME_SPARE_AVAIL = true →
    ∃ t : State, exec (.spareSubstitution d) s = .next t ∧ t.flag (.meSpare d) ME_SPARE_AVAIL = false ∧ t.flag (.meSpare d) ME_SPARE_INUSE = true ∧
          t.fld (.meSpare d) ME_SPARE_QUAD = k / 4 % 4 ∧ t.fld (.meSpare d) ME_SPARE_ENGINE = k % 4 ∧ t.flag (.meStat k) ME_STAT_SUBST = true ∧
          t.fld .fltHealth FLT_HEALTH_SPUSED = (s.fld .fltHealth FLT_HEALTH_SPUSED + 1) % 2 ^ FLT_HEALTH_SPUSED.w ∧
          (∀ a, t.acc a = if a / 4096 / 512 = k then 0 else s.acc a) ∧ t.eng.meFailed = s.eng.meFailed.filter (·.1 ≠ k) ∧
          Raised (s.quadLog (k / 4)) (srcUnit (k / 4) (k % 4)) 0x0108 (leBytes 2 (srcUnit (k / 4) (k % 4)) ++ leBytes 2 d) s t ∧
          RegsBut [.meSpare d, .meStat k, .fltHealth] s t ∧ t.mem = s.mem) ∧
  (∀ (s : State) (d k c : Nat), d < 20 → (s.eng.meFailed.find? (fun f => f.1 / 16 = d) = some (k, c)) → s.flag
    (.meSpare d) ME_SPARE_AVAIL = false → s.pwr.retireDue.any (·.1 = k / 4) = false → s.pwr.retired.contains (k / 4) =
    false →
    ∃ t : State, exec (.spareSubstitution d) s = .next t ∧ t.pwr.retireDue = s.pwr.retireDue ++ [(k / 4, c)] ∧ t.eng.meFailed = s.eng.meFailed.filter (·.1 ≠ k) ∧ t.regs = s.regs ∧ t.mem = s.mem ∧
          ∀ a, t.acc a = s.acc a) ∧
  (∀ (s : State) (d : Nat), (s.eng.meFailed.find? (fun f => f.1 / 16 = d) = none) →
    exec (.spareSubstitution d) s = .next s) ∧
  (∀ (s : State) (d : Nat) (p : Bool), (20 ≤ d ∨ s.flag (.meSpare d) ME_SPARE_INUSE = true) →
    exec (.spareSelfTest d p) s = .next s) ∧
  (∀ (s : State) (d : Nat) (p : Bool), RegsOk s → d < 20 → s.flag (.meSpare d) ME_SPARE_INUSE = false →
    ∃ t : State, exec (.spareSelfTest d p) s = .next t ∧ t.flag (.meSpare d) ME_SPARE_AVAIL = p ∧ t.flag (.meSpare d) ME_SPARE_TESTGO = false ∧
          (p = false → t.flag (.meSpare d) ME_SPARE_SPFAIL = true ∧ Raised modLog (srcDie d) 0x0109 [] s t) ∧ (p = true → t.evt = s.evt) ∧
          RegsBut [.meSpare d] s t ∧ t = { s with regs := t.regs, evt := t.evt })

/-- For each of these fourteen instructions in a TYPE it takes: every active lane of VD holds what the instruction makes
of the same lanes of VA, VB and VC (integers in two's complement modulo the lane's width; IEEE 754 in the lane's format;
W128 sums), every inactive lane keeps its bits, every other register, mask, memory byte and register stays, and the
instruction is in progress. VSHIFT with kind 3 raises ILLEGAL. Any of the 23 vector instructions in a TYPE that it does
not take raises VEC_PARAM, and a first parity error of the processor raises its event; no vector register, mask or
memory byte changes. -/
def Obligations.LanesOfTheVectorProcessor : Prop :=
  (∀ (c : Nat → Nat → Nat → UnitErr → Instr) (op : Nat) (types : List Nat) (f : Nat → Nat → Nat → Nat → Nat → Nat),
    (c, op, types, f) ∈
      [(Instr.vadd, 0x44, numTypes, fun _ ty a b _ => if ty ≤ 1 then (tyFm ty).fadd a b else toTwos (laneBits ty) (sext (laneBits ty) a + sext (laneBits ty) b)),
       (Instr.vsub, 0x45, numTypes, fun _ ty a b _ => if ty ≤ 1 then (tyFm ty).fsub a b else toTwos (laneBits ty) (sext (laneBits ty) a - sext (laneBits ty) b)),
       (Instr.vmul, 0x46, numTypes, fun _ ty a b _ => if ty ≤ 1 then (tyFm ty).fmul a b else toTwos (laneBits ty) (sext (laneBits ty) a * sext (laneBits ty) b)),
       (Instr.vfma, 0x47, numTypes, fun _ ty a b c => if ty ≤ 1 then (tyFm ty).fma a b c else toTwos (laneBits ty) (sext (laneBits ty) a * sext (laneBits ty) b + sext (laneBits ty) c)),
       (Instr.vdiv, 0x48, [0, 1], fun _ ty a b _ => (tyFm ty).fdiv a b),
       (Instr.vsqrt, 0x49, [0, 1], fun _ ty a _ _ => (tyFm ty).fsqrt a),
       (Instr.vmax, 0x4a, numTypes, fun _ ty a b _ => if ty ≤ 1 then vMax ty false a b else if sext (laneBits ty) a < sext (laneBits ty) b then b else a),
       (Instr.vmin, 0x4b, numTypes, fun _ ty a b _ => if ty ≤ 1 then vMax ty true a b else if sext (laneBits ty) a < sext (laneBits ty) b then a else b),
       (Instr.vexp, 0x4c, [0], fun _ _ a _ _ => vpExp a),
       (Instr.vtanh, 0x4d, [0], fun _ _ a _ _ => vpTanh a),
       (Instr.vlog, 0x50, anyType, fun k ty a b _ => if k = 0 then a &&& b else if k = 1 then a ||| b else if k = 2 then a ^^^ b else a &&& (2 ^ laneBits ty - 1 - b)),
       (Instr.vshift, 0x51, [2, 3], fun k ty a _ _ => if k / 128 = 0 then a * 2 ^ (k % 128) else if k / 128 = 1 then a / 2 ^ (k % 128) else toTwos (laneBits ty) (sext (laneBits ty) a / 2 ^ (k % 128))),
       (Instr.wadd, 0x53, [4], fun _ _ a b _ => (w128Add (BitVec.ofNat 128 a) (BitVec.ofNat 128 b)).toNat),
       (Instr.vimm, 0x56, numTypes, fun k ty _ _ _ => if laneBits ty = 64 then toTwos 64 (sext 32 k) else k)] →
    ∀ (s : State) (q t0 w ty : Nat) (th : Thread), Issues q 4 t0 op w th s → ty = bits w 20 3 → ty ∈ types →
      (op = 0x51 → bits w 39 2 ≠ 3) → twf (fun _ => 0) s.eng.vreg = true →
      ∃ t : State, exec (c q 4 t0 .good) s = .next t ∧
        (∀ n < laneCount ty, lane ty (t.vreg q t0 (bits w 0 5)) n =
          if bits w 23 2 = 0 ∨ bitAt (s.vmask q t0 (bits w 23 2)) (laneBit ty n) = true then
            f (bits w 32 32) ty (lane ty (s.vreg q t0 (bits w 5 5)) n) (lane ty (s.vreg q t0 (bits w 10 5)) n)
              (lane ty (s.vreg q t0 (bits w 15 5)) n) % 2 ^ laneBits ty
          else lane ty (s.vreg q t0 (bits w 0 5)) n) ∧
        (∀ k, k ≠ 32 * (8 * q + t0) + bits w 0 5 → tgetD 0 t.eng.vreg k = tgetD 0 s.eng.vreg k) ∧
        t.thread q 4 t0 = some { past th with issued := th.issued ++ [{ op := op, sig := none, o := bits w 0 92 }] } ∧
        t = { s with eng := { s.eng with vreg := t.eng.vreg }, ctl := { rotated q 4 t0 w s with threads := t.ctl.threads } }) ∧
  (∀ (c : Nat → Nat → Nat → UnitErr → Instr) (op : Nat) (types : List Nat), (c, op, types) ∈
      [(Instr.vadd, 0x44, numTypes), (Instr.vsub, 0x45, numTypes), (Instr.vmul, 0x46, numTypes), (Instr.vfma, 0x47,
      numTypes), (Instr.vdiv, 0x48, [0, 1]), (Instr.vsqrt, 0x49, [0, 1]), (Instr.vmax, 0x4a, numTypes), (Instr.vmin,
      0x4b, numTypes), (Instr.vexp, 0x4c, [0]), (Instr.vtanh, 0x4d, [0]), (Instr.vlog, 0x50, anyType),
      (Instr.vshift, 0x51, [2, 3]), (Instr.wadd, 0x53, [4]), (Instr.vimm, 0x56, numTypes), (Instr.vld, 0x40,
      anyType), (Instr.vst, 0x41, anyType), (Instr.vin, 0x42, anyType), (Instr.vout, 0x43, anyType), (Instr.vcmp,
      0x4e, numTypes), (Instr.vsel, 0x4f, anyType), (Instr.vcvt, 0x52, numTypes), (Instr.vw2d, 0x54, [4]),
      (Instr.vred, 0x55, numTypes)] →
    ∀ (s : State) (q t0 w : Nat) (th : Thread), RegsOk s → q < 80 → (∀ i, s.quadInst q = some i → i < 80) → Issues q 4 t0 op w th s →
      (bits w 20 3 ∉ types →
        ∃ t : State, exec (c q 4 t0 .good) s = .next t ∧ Raised (s.quadLog q) (srcUnit q 4) 0x030C [] s t ∧ t.eng = s.eng ∧ t.mem = s.mem) ∧
      (withinDay s.pwr.parity (srcUnit q 4) s.svcTime = false →
        ∃ t : State, exec (c q 4 t0 .parity) s = .next t ∧ Raised (s.quadLog q) (srcUnit q 4) 0x0B0A (leBytes 2 q) s t ∧ t.eng = s.eng ∧ t.mem = s.mem)) ∧
  (∀ (s : State) (q t0 w : Nat) (th : Thread), RegsOk s → q < 80 → (∀ i, s.quadInst q = some i → i < 80) → Issues q 4 t0 0x51 w th s →
    bits w 20 3 = 2 ∨ bits w 20 3 = 3 → bits w 39 2 = 3 →
    ∃ t : State, exec (.vshift q 4 t0 .good) s = .next t ∧ Raised (s.quadLog q) (srcUnit q 4) 0x0301 [] s t ∧ t.eng = s.eng ∧ t.mem = s.mem)

/-- VLD brings 256 bytes of the quad's scratchpad into the active lanes of VD; VST writes the active lanes of VA there
and leaves inactive lanes' bytes and all others; VIN takes the queue's next 256 bytes; VOUT hands VA to its stream. VCMP
writes the active lanes' bits of its mask by the relation named, LT of integers being signed; VSEL picks lanes by a
mask; VCVT narrows each active lane into its element or widens an element into its lane, in RNE or with the random bits
of VC; VW2D converts W128 lanes to FP64; VRED leaves the sum or maximum of the active lanes, taken in ascending order,
in lane 0, of integers the sum modulo the lane's width; with no active lane the sum is 0 and the maximum some value of a
lane. A misaligned offset, or one outside the partition, raises ADDR, mask 0 as a result VEC_PARAM, as a selector
ILLEGAL, as does an unassigned relation. -/
def Obligations.VectorMovesMasksAndConversions : Prop :=
  (∀ (s : State) (q t0 w ty : Nat) (th : Thread), Issues q 4 t0 64 w th s → ty = bits w 20 3 → ty ∈ anyType → (twf
    (fun _ => 0) s.eng.vreg = true) → bits w 64 26 % 32 = 0 → bits w 64 26 + 256 ≤ spSize → s.unitRange q (spadAt q
    (bits w 64 26)) 256 = true → (∀ b < 64, s.bankSt (q / 4) b = 0) → s.net.onWipe = [] →
    ∃ t : State, exec (.vld q 4 t0 .good) s = .next t ∧
          (∀ n < laneCount ty, lane ty (t.vreg q t0 (bits w 0 5)) n = if bits w 23 2 = 0 ∨ bitAt (s.vmask q t0 (bits w 23 2)) (laneBit ty n) = true then
              lane ty (s.rdLE (spadAt q (bits w 64 26)) 256) n else lane ty (s.vreg q t0 (bits w 0 5)) n) ∧ (∀ k, k ≠ 32 * (8 * q + t0) + bits w 0 5 → tgetD 0 t.eng.vreg k = tgetD 0 s.eng.vreg k) ∧ t.thread q 4 t0 = some { past th with issued := th.issued ++ [{ op := 0x40, sig := none, o := bits w 0 92 }] } ∧
          t = { s with eng := { s.eng with vreg := t.eng.vreg }, ctl := { rotated q 4 t0 w s with threads := t.ctl.threads } }) ∧
  (∀ (s : State) (q t0 w ty : Nat) (th : Thread), Issues q 4 t0 65 w th s → ty = bits w 20 3 → ty ∈ anyType → MemOk s
    → bits w 64 26 % 32 = 0 → bits w 64 26 + 256 ≤ spSize → s.unitRange q (spadAt q (bits w 64 26)) 256 = true → (∀ b
    < 64, s.bankSt (q / 4) b = 0) → s.net.onWipe = [] →
    ∃ t : State, exec (.vst q 4 t0 .good) s = .next t ∧
          (∀ n < laneCount ty, lane ty (t.rdLE (spadAt q (bits w 64 26)) 256) n = if bits w 23 2 = 0 ∨ bitAt (s.vmask q t0 (bits w 23 2)) (laneBit ty n) = true then
              lane ty (s.vreg q t0 (bits w 5 5)) n else lane ty (s.rdLE (spadAt q (bits w 64 26)) 256) n) ∧
          MemBut (spadAt q (bits w 64 26)) 256 s t ∧ t.thread q 4 t0 = some { past th with issued := th.issued ++ [{ op := 0x41, sig := none, o := bits w 0 92 }] } ∧ t = { s with mem := t.mem, ctl := { rotated q 4 t0 w s with threads := t.ctl.threads } }) ∧
  (∀ (s : State) (q t0 w ty : Nat) (th : Thread), Issues q 4 t0 66 w th s → ty = bits w 20 3 → ty ∈ anyType → (twf
    (fun _ => 0) s.eng.vreg = true) → (twf (fun _ => ([] : List Byte)) s.eng.vq = true) → 256 ≤ (tgetD [] s.eng.vq (8
    * q + bits w 32 32)).length →
    ∃ t : State, exec (.vin q 4 t0 .good) s = .next t ∧
          (∀ n < laneCount ty, lane ty (t.vreg q t0 (bits w 0 5)) n = if bits w 23 2 = 0 ∨ bitAt (s.vmask q t0 (bits w 23 2)) (laneBit ty n) = true then
              lane ty (ofLE ((tgetD [] s.eng.vq (8 * q + bits w 32 32)).take 256)) n else lane ty (s.vreg q t0 (bits w 0 5)) n) ∧ (∀ k, k ≠ 32 * (8 * q + t0) + bits w 0 5 → tgetD 0 t.eng.vreg k = tgetD 0 s.eng.vreg k) ∧
          tgetD [] t.eng.vq (8 * q + bits w 32 32) = (tgetD [] s.eng.vq (8 * q + bits w 32 32)).drop 256 ∧ t.thread q 4 t0 = some { past th with issued := th.issued ++ [{ op := 0x42, sig := none, o := bits w 0 92 }] } ∧
          t = { s with eng := { s.eng with vreg := t.eng.vreg, vq := t.eng.vq }, ctl := { rotated q 4 t0 w s with threads := t.ctl.threads } }) ∧
  (∀ (s : State) (q t0 w ty : Nat) (th : Thread), Issues q 4 t0 67 w th s → ty = bits w 20 3 → ty ∈ anyType →
    ∃ t : State, exec (.vout q 4 t0 .good) s = .next t ∧ (t.stream (portOf q (bits w 32 32))).fromUnit =
            (s.stream (portOf q (bits w 32 32))).fromUnit ++ [leBytes 256 (s.vreg q t0 (bits w 5 5))] ∧
          (∀ k, k ≠ portOf q (bits w 32 32) → t.stream k = s.stream k) ∧ t.thread q 4 t0 = some { past th with issued := th.issued ++ [{ op := 0x43, sig := none, o := bits w 0 92 }] } ∧
          t = { s with fry := { s.fry with streams := t.fry.streams }, ctl := { rotated q 4 t0 w s with threads := t.ctl.threads } }) ∧
  (∀ (s : State) (q t0 w ty : Nat) (th : Thread), Issues q 4 t0 78 w th s → ty = bits w 20 3 → ty ∈ numTypes → (twf
    (fun _ => 0) s.eng.vmask = true) → bits w 0 5 ≠ 0 → bits w 32 32 ≤ 5 →
    ∃ t : State, exec (.vcmp q 4 t0 .good) s = .next t ∧
          (∀ n < laneCount ty, bitAt (t.vmask q t0 (bits w 0 5)) (laneBit ty n) = if bits w 23 2 = 0 ∨ bitAt (s.vmask q t0 (bits w 23 2)) (laneBit ty n) = true then
              vCmp ty (bits w 32 32) (lane ty (s.vreg q t0 (bits w 5 5)) n) (lane ty (s.vreg q t0 (bits w 10 5)) n)
            else bitAt (s.vmask q t0 (bits w 0 5)) (laneBit ty n)) ∧
          (∀ k, k ≠ 4 * (8 * q + t0) + bits w 0 5 → tgetD 0 t.eng.vmask k = tgetD 0 s.eng.vmask k) ∧ t.thread q 4 t0 = some { past th with issued := th.issued ++ [{ op := 0x4E, sig := none, o := bits w 0 92 }] } ∧ t = { s with eng := { s.eng with vmask := t.eng.vmask }, ctl := { rotated q 4 t0 w s with threads := t.ctl.threads } }) ∧
  (∀ (s : State) (q t0 w ty : Nat) (th : Thread), Issues q 4 t0 78 w th s → ty = bits w 20 3 → ty ∈ numTypes → (twf
    (fun _ => 0) s.eng.vmask = true) → 2 ≤ ty → bits w 0 2 ≠ 0 → bits w 32 32 = 1 →
    ∃ t : State, exec (.vcmp q 4 t0 .good) s = .next t ∧
          (∀ n < laneCount ty, bitAt (t.vmask q t0 (bits w 0 2)) (laneBit ty n) = if bits w 23 2 = 0 ∨ bitAt (s.vmask q t0 (bits w 23 2)) (laneBit ty n) = true then
              decide (sext (laneBits ty) (lane ty (s.vreg q t0 (bits w 5 5)) n) < sext (laneBits ty) (lane ty (s.vreg q t0 (bits w 10 5)) n))
            else bitAt (s.vmask q t0 (bits w 0 2)) (laneBit ty n)) ∧
          (∀ k, k ≠ 4 * (8 * q + t0) + bits w 0 2 → tgetD 0 t.eng.vmask k = tgetD 0 s.eng.vmask k) ∧ t.thread q 4 t0 = some { past th with issued := th.issued ++ [{ op := 0x4E, sig := none, o := bits w 0 92 }] } ∧ t = { s with eng := { s.eng with vmask := t.eng.vmask }, ctl := { rotated q 4 t0 w s with threads := t.ctl.threads } }) ∧
  (∀ (s : State) (q t0 w ty : Nat) (th : Thread), Issues q 4 t0 79 w th s → ty = bits w 20 3 → ty ∈ anyType → (twf
    (fun _ => 0) s.eng.vreg = true) → bits w 32 32 ≠ 0 →
    ∃ t : State, exec (.vsel q 4 t0 .good) s = .next t ∧
          (∀ n < laneCount ty, lane ty (t.vreg q t0 (bits w 0 5)) n = if bits w 23 2 = 0 ∨ bitAt (s.vmask q t0 (bits w 23 2)) (laneBit ty n) = true then
              (if bitAt (s.vmask q t0 (bits w 32 32)) (laneBit ty n) then lane ty (s.vreg q t0 (bits w 5 5)) n else lane ty (s.vreg q t0 (bits w 10 5)) n)
              else lane ty (s.vreg q t0 (bits w 0 5)) n) ∧ (∀ k, k ≠ 32 * (8 * q + t0) + bits w 0 5 → tgetD 0 t.eng.vreg k = tgetD 0 s.eng.vreg k) ∧ t.thread q 4 t0 = some { past th with issued := th.issued ++ [{ op := 0x4F, sig := none, o := bits w 0 92 }] } ∧ t = { s with eng := { s.eng with vreg := t.eng.vreg }, ctl := { rotated q 4 t0 w s with threads := t.ctl.threads } }) ∧
  (∀ (s : State) (q t0 w ty : Nat) (th : Thread) (f : Fm), Issues q 4 t0 82 w th s → ty = bits w 20 3 → ty ∈ numTypes
    → (twf (fun _ => 0) s.eng.vreg = true) → fmOf (bits w 27 4) = some f → bits w 31 1 = 0 →
    ∃ t : State, exec (.vcvt q 4 t0 .good) s = .next t ∧
          (∀ n < laneCount ty, bits (t.vreg q t0 (bits w 0 5)) (f.width * n) f.width = if bits w 23 2 = 0 ∨ bitAt (s.vmask q t0 (bits w 23 2)) (laneBit ty n) = true then
              (f.conv (if bits w 25 2 = 0 then RMode.rne else RMode.sr (bits (s.vreg q t0 (bits w 15 5)) (32 * laneBit ty n) 24)) (tyFloat ty) (laneVal ty (lane ty (s.vreg q t0 (bits w 5 5)) n))).1 % 2 ^ f.width
            else bits (s.vreg q t0 (bits w 0 5)) (f.width * n) f.width) ∧ (∀ k, k ≠ 32 * (8 * q + t0) + bits w 0 5 → tgetD 0 t.eng.vreg k = tgetD 0 s.eng.vreg k) ∧ t.thread q 4 t0 = some { past th with issued := th.issued ++ [{ op := 0x52, sig := none, o := bits w 0 92 }] } ∧
          RegsBut [cvtStat q, cvtWin q, .glbInt] s t ∧ t.mem = s.mem ∧ t.eng = { s.eng with vreg := t.eng.vreg }) ∧
  (∀ (s : State) (q t0 w ty : Nat) (th : Thread) (f : Fm), Issues q 4 t0 82 w th s → ty = bits w 20 3 → ty ∈ numTypes
    → (twf (fun _ => 0) s.eng.vreg = true) → fmOf (bits w 27 4) = some f → bits w 31 1 = 1 →
    ∃ t : State, exec (.vcvt q 4 t0 .good) s = .next t ∧
          (∀ n < laneCount ty, lane ty (t.vreg q t0 (bits w 0 5)) n = if bits w 23 2 = 0 ∨ bitAt (s.vmask q t0 (bits w 23 2)) (laneBit ty n) = true then
              (widenTo ty (if bits w 25 2 = 0 then RMode.rne else RMode.sr (bits (s.vreg q t0 (bits w 15 5)) (32 * laneBit ty n) 24)) (f.val (bits (s.vreg q t0 (bits w 5 5)) (f.width * n) f.width))).1 % 2 ^ laneBits ty
              else lane ty (s.vreg q t0 (bits w 0 5)) n) ∧ (∀ k, k ≠ 32 * (8 * q + t0) + bits w 0 5 → tgetD 0 t.eng.vreg k = tgetD 0 s.eng.vreg k) ∧ t.thread q 4 t0 = some { past th with issued := th.issued ++ [{ op := 0x52, sig := none, o := bits w 0 92 }] } ∧
          RegsBut [cvtStat q, cvtWin q, .glbInt] s t ∧ t.mem = s.mem ∧ t.eng = { s.eng with vreg := t.eng.vreg }) ∧
  (∀ (s : State) (q t0 w ty : Nat) (th : Thread), Issues q 4 t0 84 w th s → ty = bits w 20 3 → ty ∈ [4] → (twf (fun _
    => 0) s.eng.vreg = true) →
    ∃ t : State, exec (.vw2d q 4 t0 .good) s = .next t ∧
          (∀ n < 16, bits (t.vreg q t0 (bits w 0 5)) (64 * n) 64 = if bits w 23 2 = 0 ∨ bitAt (s.vmask q t0 (bits w 23 2)) (laneBit ty n) = true then
              Fm.fp64.ieee (wOf (BitVec.ofNat 128 (lane 4 (s.vreg q t0 (bits w 5 5)) n))).val % 2 ^ 64 else bits (s.vreg q t0 (bits w 0 5)) (64 * n) 64) ∧
          bits (t.vreg q t0 (bits w 0 5)) 1024 1024 = bits (s.vreg q t0 (bits w 0 5)) 1024 1024 ∧ (∀ k, k ≠ 32 * (8 * q + t0) + bits w 0 5 → tgetD 0 t.eng.vreg k = tgetD 0 s.eng.vreg k) ∧ t.thread q 4 t0 = some { past th with issued := th.issued ++ [{ op := 0x54, sig := none, o := bits w 0 92 }] } ∧ t = { s with eng := { s.eng with vreg := t.eng.vreg }, ctl := { rotated q 4 t0 w s with threads := t.ctl.threads } }) ∧
  (∀ (s : State) (q t0 w ty : Nat) (th : Thread) (v : Nat) (vs : List Nat), Issues q 4 t0 85 w th s → ty = bits w 20 3
    → ty ∈ numTypes → (twf (fun _ => 0) s.eng.vreg = true) → (v :: vs = ((List.range (laneCount ty)).filter fun n =>
    decide (bits w 23 2 = 0 ∨ bitAt (s.vmask q t0 (bits w 23 2)) (laneBit ty n) = true)).map fun n => lane ty (s.vreg
    q t0 (bits w 5 5)) n) →
    ∃ t : State, exec (.vred q 4 t0 .good) s = .next t ∧
          t.vreg q t0 (bits w 0 5) = vs.foldl (fun r y => if bits w 32 1 = 0 then vAdd ty r y else vMax ty false r y)
            (if tyFloat ty = true ∧ ((tyFm ty).val v).isNan = true then (tyFm ty).nan else v) % 2 ^ 2048 ∧ (∀ k, k ≠ 32 * (8 * q + t0) + bits w 0 5 → tgetD 0 t.eng.vreg k = tgetD 0 s.eng.vreg k) ∧ t.thread q 4 t0 = some { past th with issued := th.issued ++ [{ op := 0x55, sig := none, o := bits w 0 92 }] } ∧ t = { s with eng := { s.eng with vreg := t.eng.vreg }, ctl := { rotated q 4 t0 w s with threads := t.ctl.threads } }) ∧
  (∀ (s : State) (q t0 w ty : Nat) (th : Thread), Issues q 4 t0 85 w th s → ty = bits w 20 3 → ty ∈ numTypes → (twf
    (fun _ => 0) s.eng.vreg = true) → (∀ n < laneCount ty, ¬ (bits w 23 2 = 0 ∨ bitAt (s.vmask q t0 (bits w 23 2))
    (laneBit ty n) = true)) →
    ∃ t : State, exec (.vred q 4 t0 .good) s = .next t ∧ t.vreg q t0 (bits w 0 5) < 2 ^ laneBits ty ∧ (bits w 32 1 = 0 → t.vreg q t0 (bits w 0 5) = 0) ∧ (∀ k, k ≠ 32 * (8 * q + t0) + bits w 0 5 → tgetD 0 t.eng.vreg k = tgetD 0 s.eng.vreg k) ∧ t.thread q 4 t0 = some { past th with issued := th.issued ++ [{ op := 0x55, sig := none, o := bits w 0 92 }] } ∧
          t = { s with eng := { s.eng with vreg := t.eng.vreg }, ctl := { rotated q 4 t0 w s with threads := t.ctl.threads }, fresh := t.fresh }) ∧
  (∀ (s : State) (q t0 w ty : Nat) (th : Thread) (v : Nat) (vs : List Nat), Issues q 4 t0 85 w th s → ty = bits w 20 3
    → ty ∈ [2, 3] → (twf (fun _ => 0) s.eng.vreg = true) → bits w 32 1 = 0 → (v :: vs = ((List.range (laneCount
    ty)).filter fun n => decide (bits w 23 2 = 0 ∨ bitAt (s.vmask q t0 (bits w 23 2)) (laneBit ty n) = true)).map fun
    n => lane ty (s.vreg q t0 (bits w 5 5)) n) →
    ∃ t : State, exec (.vred q 4 t0 .good) s = .next t ∧
          t.vreg q t0 (bits w 0 5) = vs.foldl (fun r y => toTwos (laneBits ty) (sext (laneBits ty) r + sext (laneBits ty) y)) v ∧ (∀ k, k ≠ 32 * (8 * q + t0) + bits w 0 5 → tgetD 0 t.eng.vreg k = tgetD 0 s.eng.vreg k) ∧ t.thread q 4 t0 = some { past th with issued := th.issued ++ [{ op := 0x55, sig := none, o := bits w 0 92 }] } ∧ t = { s with eng := { s.eng with vreg := t.eng.vreg }, ctl := { rotated q 4 t0 w s with threads := t.ctl.threads } }) ∧
  (∀ (s : State) (q t0 w ty : Nat) (th : Thread), RegsOk s → q < 80 → (∀ i, s.quadInst q = some i → i < 80) → Issues q
    4 t0 0x40 w th s → ty = bits w 20 3 → ty ∈ anyType → (bits w 64 26 % 32 ≠ 0 ∨ spSize < bits w 64 26 + 256 ∨
    s.unitRange q (spadAt q (bits w 64 26)) 256 = false) →
    ∃ t : State, exec (.vld q 4 t0 .good) s = .next t ∧ Raised (s.quadLog q) (srcUnit q 4) 0x0306 [] s t ∧ t.eng = s.eng ∧ t.mem = s.mem) ∧
  (∀ (s : State) (q t0 w ty : Nat) (th : Thread), RegsOk s → q < 80 → (∀ i, s.quadInst q = some i → i < 80) → Issues q
    4 t0 0x41 w th s → ty = bits w 20 3 → ty ∈ anyType → (bits w 64 26 % 32 ≠ 0 ∨ spSize < bits w 64 26 + 256 ∨
    s.unitRange q (spadAt q (bits w 64 26)) 256 = false) →
    ∃ t : State, exec (.vst q 4 t0 .good) s = .next t ∧ Raised (s.quadLog q) (srcUnit q 4) 0x0306 [] s t ∧ t.eng = s.eng ∧ t.mem = s.mem) ∧
  (∀ (s : State) (q t0 w ty : Nat) (th : Thread), RegsOk s → q < 80 → (∀ i, s.quadInst q = some i → i < 80) → Issues q
    4 t0 0x4E w th s → ty = bits w 20 3 → ty ∈ numTypes → bits w 0 5 = 0 →
    ∃ t : State, exec (.vcmp q 4 t0 .good) s = .next t ∧ Raised (s.quadLog q) (srcUnit q 4) 0x030C [] s t ∧ t.eng = s.eng ∧ t.mem = s.mem) ∧
  (∀ (s : State) (q t0 w ty : Nat) (th : Thread), RegsOk s → q < 80 → (∀ i, s.quadInst q = some i → i < 80) → Issues q
    4 t0 0x4E w th s → ty = bits w 20 3 → ty ∈ numTypes → bits w 0 5 ≠ 0 → 5 < bits w 32 32 →
    ∃ t : State, exec (.vcmp q 4 t0 .good) s = .next t ∧ Raised (s.quadLog q) (srcUnit q 4) 0x0301 [] s t ∧ t.eng = s.eng ∧ t.mem = s.mem) ∧
  (∀ (s : State) (q t0 w ty : Nat) (th : Thread), RegsOk s → q < 80 → (∀ i, s.quadInst q = some i → i < 80) → Issues q
    4 t0 0x4F w th s → ty = bits w 20 3 → ty ∈ anyType → bits w 32 32 = 0 →
    ∃ t : State, exec (.vsel q 4 t0 .good) s = .next t ∧ Raised (s.quadLog q) (srcUnit q 4) 0x0301 [] s t ∧ t.eng = s.eng ∧ t.mem = s.mem)

/-- A SELECT of mode TOPK, THRESH, MERGE or SPLITSUM over readable segments writes its summary, with the count, the sums
of the selected and of the other values and, but for a MERGE, the flags, and then the records of the best elements by
KEY, SEC and IDX, ordered as asked; no byte outside its output and side areas changes, and SELECTS counts it. TOPK over
9-bit or 10-bit distances writes at each place the element whose rank by key and then index that place is. Mode STREAM
makes the stream active, with the hits that RESUME picks. A hit of the query within the boundary distance D joins the
retained hits, and when their K-th distance falls it becomes the threshold of the query's slots and the register D; a
hit beyond D is dropped; one that finds SIDECAP hits retained before the end's signals are there folds the stream, which
writes its hits within D, and stays at the port; when ENDSEM holds ENDCNT and no hit waits, the stream consumes the
signals, writes every retained hit within D with their count, and is over; before that nothing happens. A descriptor out
of form raises XU_PARAM, one outside the partition ADDR, a STREAM with ENDCNT 0 ILLEGAL. -/
def Obligations.SelectUnits : Prop :=
  (∀ (s : State) (q t0 w : Nat) (th : Thread) (d : List Byte) (els : List El) (k1 : Nat), MemOk s → RegsOk s → Issues
    q 6 t0 0x70 w th s → d = s.rd (spadAt q (64 * bits w 0 20)) 64 → s.unitRange q (spadAt q (64 * bits w 0 20)) 64 =
    true → 64 * bits w 0 20 + 64 ≤ spSize → xOk d = true → xMode d ≠ 2 → (els = xEls d (s.rd (spadAt q (xKeyoff d))
    (if xMode d = 3 then xN d * xRec d else xN d * xKeyw d)) (s.rd (spadAt q (xSecoff d)) (if xSeckey d = true ∧ xMode
    d ≠ 3 then 8 * xN d else 0)) (s.rd (spadAt q (xValoff d)) (if xValsrc d = 2 then 4 * xN d else 0))) → (s.unitRange
    q (spadAt q (xKeyoff d)) (if xMode d = 3 then xN d * xRec d else xN d * xKeyw d) = true) → (s.unitRange q (spadAt
    q (xSecoff d)) (if xSeckey d = true ∧ xMode d ≠ 3 then 8 * xN d else 0) = true) → (s.unitRange q (spadAt q
    (xValoff d)) (if xValsrc d = 2 then 4 * xN d else 0) = true) → s.unitRange q (spadAt q (xSideoff d)) (24 *
    xSidecap d) = true → (k1 = if xMode d = 1 then min (xK d) ((els.filter fun e => decide (e.key ≤ xMap d (xOrig d
    (xThr d)))).length) else if xMode d = 4 then 0 else min (xK d) (xN d)) → s.unitRange q (spadAt q (xOutoff d)) (64
    + k1 * xRec d) = true → (∀ b < 64, s.bankSt (q / 4) b = 0) → s.net.onWipe = [] →
    ∃ t : State, exec (.select q 6 t0 .good) s = .next t ∧ t.rdLE (spadAt q (xOutoff d)) 4 = k1 ∧
          (xMode d ≠ 3 → t.rdLE (spadAt q (xOutoff d) + 4) 4 = (if xN d < xK d then 1 else 0) + (if xMode d = 1 ∧ xK d < (els.filter fun e => decide (e.key ≤ xMap d (xOrig d (xThr d)))).length then 2 else 0) +
            (if (els.filter (·.nan)).length ≠ 0 then 4 else 0) + (if (if xMode d = 4 then none else laterPasses d els k1).any fun n => decide (xSidecap d < n) then 8 else 0)) ∧
          t.rdLE (spadAt q (xOutoff d) + 8) 8 = (if xSums d then sumEls (els.filter (fun e => if xMode d = 4 then e.le ⟨xMap d (xOrig d (xThr d)), xBsec d, xBidx d, 0, 0, false⟩ else ((sortBy El.le els).take k1).contains e)) else 0) % 2 ^ 64 ∧
          t.rdLE (spadAt q (xOutoff d) + 16) 8 = (if xSums d then sumEls (els.filter fun e => !(fun e => if xMode d = 4 then e.le ⟨xMap d (xOrig d (xThr d)), xBsec d, xBidx d, 0, 0, false⟩ else ((sortBy El.le els).take k1).contains e) e) else 0) % 2 ^ 64 ∧
          memRead t.mem (spadAt q (xOutoff d) + 64) (k1 * xRec d) = (if xOrder d then ((sortBy El.le els).take k1) else sortBy (fun (a b : El) => decide (a.idx ≤ b.idx)) ((sortBy El.le els).take k1)).flatMap (El.record d) ∧
          (∀ a, (a < spadAt q (xOutoff d) ∨ spadAt q (xOutoff d) + 64 + k1 * xRec d ≤ a) → (a < spadAt q (xSideoff d) ∨ spadAt q (xSideoff d) + 24 * xSidecap d ≤ a) → memByte t.mem a = memByte s.mem a) ∧
          t.fld (.xuStat q) XU_STAT_SELECTS = (s.fld (.xuStat q) XU_STAT_SELECTS + 1) % 2 ^ XU_STAT_SELECTS.w ∧
          RegsBut [.xuStat q] s t ∧ t.thread q 6 t0 = some { past th with issued := th.issued ++ [{ op := 0x70, sig := none, o := bits w 0 92 }] } ∧
          t = { s with regs := t.regs, mem := t.mem, evt := t.evt, fresh := t.fresh, ctl := { rotated q 6 t0 w s with threads := t.ctl.threads } }) ∧
  (∀ (s : State) (q t0 w : Nat) (th : Thread) (d : List Byte), MemOk s → Issues q 6 t0 0x70 w th s → d = s.rd (spadAt
    q (64 * bits w 0 20)) 64 → s.unitRange q (spadAt q (64 * bits w 0 20)) 64 = true → 64 * bits w 0 20 + 64 ≤ spSize
    → xOk d = true → xMode d = 0 → xFmt d ≠ 2 → xOrder d = true → xSeckey d = false → xSums d = false → xValsrc d = 0
    → s.unitRange q (spadAt q (xKeyoff d)) (2 * xN d) = true → s.unitRange q (spadAt q (xOutoff d)) (64 + 16 * min (xK
    d) (xN d)) = true → (∀ b < 64, s.bankSt (q / 4) b = 0) → s.net.onWipe = [] →
    ∃ t : State, exec (.select q 6 t0 .good) s = .next t ∧ t.rdLE (spadAt q (xOutoff d)) 4 = min (xK d) (xN d) ∧
          (let k (i : Nat) : Nat := leAt ((s.rd (spadAt q (xKeyoff d)) (2 * xN d)).drop (2 * i)) 0 2 % (if xFmt d = 0 then 512 else 1024);
           let rank (i : Nat) : Nat := ((List.range (xN d)).filter fun m => decide (k m < k i ∨ (k m = k i ∧ m < i))).length;
           ∀ i < xN d, rank i < min (xK d) (xN d) →
             t.rdLE (spadAt q (xOutoff d) + 64 + 16 * rank i) 8 = xBase d + i ∧ t.rdLE (spadAt q (xOutoff d) + 72 + 16 * rank i) 4 = k i) ∧
          MemBut (spadAt q (xOutoff d)) (64 + 16 * min (xK d) (xN d)) s t ∧ RegsBut [.xuStat q] s t ∧
          t.thread q 6 t0 = some { past th with issued := th.issued ++ [{ op := 0x70, sig := none, o := bits w 0 92 }] } ∧ t = { s with regs := t.regs, mem := t.mem, ctl := { rotated q 6 t0 w s with threads := t.ctl.threads } }) ∧
  (∀ (s : State) (q t0 w : Nat) (th : Thread) (d : List Byte) (n : Nat), RegsOk s → q < 80 → Issues q 6 t0 0x70 w th s
    → d = s.rd (spadAt q (64 * bits w 0 20)) 64 → s.unitRange q (spadAt q (64 * bits w 0 20)) 64 = true → 64 * bits w
    0 20 + 64 ≤ spSize → xOk d = true → xMode d = 2 → bits w 53 8 ≠ 0 → (n = if bits w 20 1 = 1 then s.rdLE (spadAt q
    (64 * bits w 21 20)) 4 else 0) → (bits w 20 1 = 1 → 64 * bits w 21 20 + 64 + 24 * n ≤ spSize ∧ s.unitRange q
    (spadAt q (64 * bits w 21 20)) (64 + 24 * n) = true ∧ (24 * n ≠ 0 → s.unitRange q (spadAt q (64 * bits w 21 20 +
    64)) (24 * n) = true) ∧ s.unitRange q (spadAt q (64 * bits w 21 20)) 64 = true) → (64 * bits w 21 20 + 64 + 24 *
    s.rdLE (spadAt q (64 * bits w 21 20)) 4 ≤ spSize ∨ bits w 20 1 = 1 ∨ bits w 21 20 = 0) → (∀ b < 64, s.bankSt (q /
    4) b = 0) → s.net.onWipe = [] →
    ∃ t : State, exec (.select q 6 t0 .good) s = .next t ∧
          t.xu q = { s.xu q with folded := none, run := some { d := d, t := t0, qtag := bits w 41 4, endsem := bits w 45 8, endcnt := bits w 53 8, hits := if bits w 20 1 = 1 then ((s.xu q).folded.getD ([], [])).1 ++ ((List.range n).filterMap fun i => ((s.xu q).folded.getD ([], [])).2[leAt (s.rd (spadAt q (64 * bits w 21 20 + 64)) (24 * n)) (24 * i) 8 % 2 ^ 40]?) else [], resumed := decide (bits w 20 1 = 1) } } ∧
          (∀ k, k ≠ q → t.xu k = s.xu k) ∧ t.flag (.xuBound q) XU_BOUND_ACTIVE = true ∧ RegsBut [.xuBound q] s t ∧
          t.thread q 6 t0 = some { past th with issued := th.issued ++ [{ op := 0x70, sig := none, o := bits w 0 92, isJob := true }] } ∧ t.mem = s.mem ∧ t.evt = s.evt) ∧
  (∀ (s : State) (q t0 w : Nat) (th : Thread) (d : List Byte), RegsOk s → q < 80 → (∀ i, s.quadInst q = some i → i <
    80) → Issues q 6 t0 0x70 w th s → d = s.rd (spadAt q (64 * bits w 0 20)) 64 → s.unitRange q (spadAt q (64 * bits w
    0 20)) 64 = true → 64 * bits w 0 20 + 64 ≤ spSize → xOk d = false → (∀ b < 64, s.bankSt (q / 4) b = 0) →
    s.net.onWipe = [] →
    ∃ t : State, exec (.select q 6 t0 .good) s = .next t ∧ Raised (s.quadLog q) (srcUnit q 6) 0x0201 [] s t ∧ t.mem = s.mem ∧ t.eng = s.eng) ∧
  (∀ (s : State) (q t0 w : Nat) (th : Thread) (d : List Byte), RegsOk s → q < 80 → (∀ i, s.quadInst q = some i → i <
    80) → Issues q 6 t0 0x70 w th s → d = s.rd (spadAt q (64 * bits w 0 20)) 64 → s.unitRange q (spadAt q (64 * bits w
    0 20)) 64 = true → 64 * bits w 0 20 + 64 ≤ spSize → xOk d = true → xMode d = 2 → bits w 53 8 = 0 → (∀ b < 64,
    s.bankSt (q / 4) b = 0) → s.net.onWipe = [] →
    ∃ t : State, exec (.select q 6 t0 .good) s = .next t ∧ Raised (s.quadLog q) (srcUnit q 6) 0x0301 [] s t ∧ t.mem = s.mem ∧ t.eng = s.eng) ∧
  (∀ (s : State) (q t0 w : Nat) (th : Thread) (d : List Byte), RegsOk s → q < 80 → (∀ i, s.quadInst q = some i → i <
    80) → Issues q 6 t0 0x70 w th s → d = [] → (64 * bits w 0 20 + 64 ≤ spSize → s.unitRange q (spadAt q (64 * bits w
    0 20)) 64 = false) →
    ∃ t : State, exec (.select q 6 t0 .good) s = .next t ∧ Raised (s.quadLog q) (srcUnit q 6) 0x0306 [] s t ∧ t.mem = s.mem ∧ t.eng = s.eng) ∧
  (∀ (s : State) (q h : Nat) (rest : List Nat) (r : XuRun), RegsOk s → q < 80 → s.quadRuns q = true → (s.xu q).run =
    some r → takeHit r.qtag (s.xu q).port = some (h, rest) → (∀ b, boundary (xK r.d) r.hits = some b → (if xFmt r.d =
    0 then hitDist h % 512 else hitDist h) ≤ b) → ((r.hits.length < xSidecap r.d ∧ xSideoff r.d + 24 * r.hits.length +
    24 ≤ spSize ∧ s.unitRange q (spadAt q (xSideoff r.d + 24 * r.hits.length)) 24 = true) ∨ (xSidecap r.d ≤
    r.hits.length ∧ r.endcnt ≤ s.sem q r.endsem)) → (∀ b < 64, s.bankSt (q / 4) b = 0) → s.net.onWipe = [] →
    ∃ t : State, exec (.streamHitArrival q) s = .next t ∧
          t.xu q = { s.xu q with port := rest, run := some { r with hits := (r.hits ++ [(h, (if xFmt r.d = 0 then hitDist h % 512 else hitDist h))]) } } ∧ (∀ k, k ≠ q → t.xu k = s.xu k) ∧
          t.fld (.xuBound q) XU_BOUND_D = ((boundary (xK r.d) (r.hits ++ [(h, (if xFmt r.d = 0 then hitDist h % 512 else hitDist h))])).getD 0x3FF) % 2 ^ 10 ∧ t.flag (.xuBound q) XU_BOUND_DVALID = (boundary (xK r.d) (r.hits ++ [(h, (if xFmt r.d = 0 then hitDist h % 512 else hitDist h))])).isSome ∧
          (∀ k < 8, t.slot q k = (s.slot q k).map fun v => if v.qtag = r.qtag ∧ (match boundary (xK r.d) r.hits, boundary (xK r.d) (r.hits ++ [(h, (if xFmt r.d = 0 then hitDist h % 512 else hitDist h))]) with | none, some _ => true | some a, some b => decide (b < a) | _, none => false) = true then { v with thr := (boundary (xK r.d) (r.hits ++ [(h, (if xFmt r.d = 0 then hitDist h % 512 else hitDist h))])).getD 0 } else v) ∧ RegsBut [.xuBound q] s t ∧
          MemBut (spadAt q (xSideoff r.d + 24 * r.hits.length)) 24 s t ∧
          t = { s with regs := t.regs, mem := t.mem, fresh := t.fresh, eng := { s.eng with xu := t.eng.xu, slots := t.eng.slots }, sk := t.sk }) ∧
  (∀ (s : State) (q h b : Nat) (rest : List Nat) (r : XuRun), q < 80 → s.quadRuns q = true → (s.xu q).run = some r →
    takeHit r.qtag (s.xu q).port = some (h, rest) → boundary (xK r.d) r.hits = some b → (b < (if xFmt r.d = 0 then
    hitDist h % 512 else hitDist h)) →
    ∃ t : State, exec (.streamHitArrival q) s = .next t ∧ t.xu q = { s.xu q with port := rest } ∧ (∀ k, k ≠ q → t.xu k = s.xu k) ∧
          t = { s with eng := { s.eng with xu := t.eng.xu } }) ∧
  (∀ (s : State) (q h n : Nat) (rest : List Nat) (r : XuRun), Canonical s → q < 80 → s.quadRuns q = true → (s.xu
    q).run = some r → takeHit r.qtag (s.xu q).port = some (h, rest) → (∀ b, boundary (xK r.d) r.hits = some b → (if
    xFmt r.d = 0 then hitDist h % 512 else hitDist h) ≤ b) → xSidecap r.d ≤ r.hits.length → s.sem q r.endsem <
    r.endcnt → (n = (r.hits.filter fun h => (boundary (xK r.d) r.hits).all fun b => decide (h.2 ≤ b)).length) → n < 2
    ^ 32 → xOutoff r.d + 64 + 16 * n ≤ spSize → s.unitRange q (spadAt q (xOutoff r.d)) (64 + 16 * n) = true → (∀ b <
    64, s.bankSt (q / 4) b = 0) → s.net.onWipe = [] →
    ∃ t : State, exec (.streamHitArrival q) s = .next t ∧ (t.xu q).run = none ∧ (t.xu q).port = (s.xu q).port ∧ (t.xu q).folded.isSome = true ∧ (∀ k, k ≠ q → t.xu k = s.xu k) ∧
          Raised (s.quadLog q) (srcUnit q 6) 0x0203 [] s t ∧ t.rdLE (spadAt q (xOutoff r.d)) 4 = n ∧
          (∀ h ∈ r.hits, ((boundary (xK r.d) r.hits).all fun b => decide (h.2 ≤ b)) = true → ∃ j, j < n ∧
            t.rdLE (spadAt q (xOutoff r.d) + 64 + 16 * j) 8 = h.1 % 2 ^ 64 ∧ t.rdLE (spadAt q (xOutoff r.d) + 72 + 16 * j) 4 = h.2 % 2 ^ 32) ∧
          MemBut (spadAt q (xOutoff r.d)) (64 + 16 * n) s t ∧ RegsBut [.xuStat q, .xuBound q] s t ∧ t.sk = s.sk ∧ t.eng.slots = s.eng.slots) ∧
  (∀ (s : State) (q n : Nat) (r : XuRun), Canonical s → (twf (fun _ => ({} : XuSt)) s.eng.xu = true) → q < 80 →
    s.quadRuns q = true → (s.xu q).run = some r → r.endcnt ≤ s.sem q r.endsem → r.endsem < 256 → takeHit r.qtag (s.xu
    q).port = none → (n = (r.hits.filter fun h => (boundary (xK r.d) r.hits).all fun b => decide (h.2 ≤ b)).length) →
    n < 2 ^ 32 → xOutoff r.d + 64 + 16 * n ≤ spSize → s.unitRange q (spadAt q (xOutoff r.d)) (64 + 16 * n) = true → (∀
    b < 64, s.bankSt (q / 4) b = 0) → s.net.onWipe = [] →
    ∃ t : State, exec (.streamEnd q) s = .next t ∧ t.sem q r.endsem = s.sem q r.endsem - r.endcnt ∧ t.xu q = { port := (s.xu q).port } ∧
          (∀ k, k ≠ q → t.xu k = s.xu k) ∧ t.rdLE (spadAt q (xOutoff r.d)) 4 = n ∧
          (∀ h ∈ r.hits, ((boundary (xK r.d) r.hits).all fun b => decide (h.2 ≤ b)) = true → ∃ j, j < n ∧
            t.rdLE (spadAt q (xOutoff r.d) + 64 + 16 * j) 8 = h.1 % 2 ^ 64 ∧ t.rdLE (spadAt q (xOutoff r.d) + 72 + 16 * j) 4 = h.2 % 2 ^ 32) ∧
          MemBut (spadAt q (xOutoff r.d)) (64 + 16 * n) s t ∧ RegsBut [.xuStat q, .xuBound q, semReg q r.endsem] s t ∧
          t = { s with regs := t.regs, mem := t.mem, fresh := t.fresh, eng := { s.eng with xu := t.eng.xu }, ctl := { s.ctl with threads := t.ctl.threads } }) ∧
  (∀ (s : State) (q : Nat), ((s.xu q).run = none ∨ (s.xu q).run.any (fun r => decide (s.sem q r.endsem < r.endcnt) ||
    (takeHit r.qtag (s.xu q).port).isSome) = true) →
    exec (.streamEnd q) s = .next s)

/-- SLQ loads a slot with the query sketch, width, threshold and tag. SSCR, now issued or going on after it ran dry, of
well-formed bundles that are there with their end mark sends the select unit the hits of each in order; of one bundle of
one sketch row without clauses, one hit per place that the tombstone row leaves and whose Hamming distance to the slot's
sketch, at most 1023, is at most its threshold, in rising place. NBCMD without an index stream gives the named bank of
the quad's partition the 32-byte command with a fresh token, at once where the hub holds nothing back for it and the
bank has room, behind what it holds where it has none, and waits for that token; with an index stream that is there it
does so for each entry, relocated. NBLIST of one list that lies with PLACE = 1 or whose bank's unit does not serve sends
its entry and ordinal to the hub stream with an end mark, and no command; of one that is empty or on a lost stack, the
end mark alone; of one in a bank it makes the hub hold the query for it, with a fresh token. Each stays in progress
while its stream has nothing. A bundle or screen record out of form, or an address that the quad may not use, raises
SU_BUNDLE, ILLEGAL or ADDR, and nothing is sent. -/
def Obligations.SketchUnitsAndTheirBankCommands : Prop :=
  (∀ (s : State) (q t0 w : Nat) (th : Thread), Issues q 5 t0 0x60 w th s → bits w 19 26 % 32 = 0 → bits w 19 26 +
    sketchBytes (bits w 3 2) ≤ spSize → s.unitRange q (spadAt q (bits w 19 26)) (sketchBytes (bits w 3 2)) = true → (∀
    b < 64, s.bankSt (q / 4) b = 0) → s.net.onWipe = [] →
    ∃ t : State, exec (.slq q 5 t0 .good) s = .next t ∧
          t.slot q (bits w 0 3) = some ⟨s.rdLE (spadAt q (bits w 19 26)) (sketchBytes (bits w 3 2)), bits w 3 2, bits w 5 10, bits w 15 4⟩ ∧
          (∀ k < 8, k ≠ bits w 0 3 → t.slot q k = s.slot q k) ∧ t.thread q 5 t0 = some { past th with issued := th.issued ++ [{ op := 0x60, sig := none, o := bits w 0 92 }] } ∧
          t = { s with eng := { s.eng with slots := t.eng.slots }, ctl := { rotated q 5 t0 w s with threads := t.ctl.threads } }) ∧
  (∀ (s : State) (q t0 w : Nat) (th : Thread), RegsOk s → q < 80 → (∀ i, s.quadInst q = some i → i < 80) → Issues q 5
    t0 0x60 w th s → (bits w 19 26 % 32 ≠ 0 ∨ s.unitRange q (spadAt q (bits w 19 26)) (sketchBytes (bits w 3 2)) =
    false) →
    ∃ t : State, exec (.slq q 5 t0 .good) s = .next t ∧ Raised (s.quadLog q) (srcUnit q 5) 0x0306 [] s t ∧ t.mem = s.mem ∧ t.sk = s.sk ∧ t.eng = s.eng) ∧
  (∀ (s : State) (q t0 w o nn : Nat) (th th1 : Thread) (ii : Issued) (sg : Option Nat) (slots : List (Nat × SuSlot))
    (bs : List (List Byte × List Byte)), ((Issues q 5 t0 0x61 w th s ∧ o = bits w 0 92 ∧ sg = none ∧ th1 = past th) ∨
    (s.thread q 5 t0 = some th ∧ s.unitOn q 5 = true ∧ th.dryOf 0x61 = some (nn, ii) ∧ o = ii.o ∧ sg = ii.sig ∧ th1 =
    { th with issued := th.issued.eraseIdx nn })) → (slots = (latches (bits o 6 8)).filterMap fun k => (s.slot q
    k).map fun v => (k, v)) → bs.length ≤ 65535 → (∀ x ∈ bs, x.1.length = 32 ∧ x.2.length = 1024 * (1 + ((List.range
    (min 4 (leAt x.1 3 1))).map fun c => leAt x.1 (4 + c) 1 % 16).sum + leAt x.1 10 2) ∧ bundleOk x.1 (slots.map
    (·.2)) = true) → bs ≠ [] → ((s.stream (portOf q (bits o 0 6))).runs =
    [{ left := bs.flatMap (fun x => x.1 ++ x.2), ended := true, full := true },
    { left := [], ended := true, mark := true }]) →
    ∃ t : State, exec (.sscr q 5 t0 .good) s = .next t ∧ (t.stream (portOf q (bits o 0 6))).runs = [] ∧
          t.xu q = { s.xu q with port := (s.xu q).port ++ bs.flatMap fun x => bundleHits x.1 ((List.range (1 + ((List.range (min 4 (leAt x.1 3 1))).map fun c => leAt x.1 (4 + c) 1 % 16).sum + leAt x.1 10 2)).map fun i => leAt x.2 (1024 * i) 1024) slots } ∧
          (∀ j, j ≠ q → t.xu j = s.xu j) ∧ t.thread q 5 t0 = some { th1 with issued := th1.issued ++ [{ op := 0x61, sig := sg, o := o }] } ∧ t.regs = s.regs ∧ t.mem = s.mem ∧ t.evt = s.evt) ∧
  (∀ (s : State) (q t0 w k : Nat) (th : Thread) (v : SuSlot) (hdr tomb row : List Byte), Issues q 5 t0 0x61 w th s → k
    < 8 → bits w 6 8 = 2 ^ k → s.slot q k = some v → v.width ≤ 2 → hdr.length = 32 → tomb.length = 1024 → row.length =
    1024 → bundleOk hdr [v] = true → leAt hdr 3 1 = 0 → leAt hdr 10 2 = 1 → (s.stream (portOf q (bits w 0 6))).runs =
    [{ left := hdr ++ tomb ++ row, ended := true, full := true }, { left := [], ended := true, mark := true }] →
    ∃ t : State, exec (.sscr q 5 t0 .good) s = .next t ∧ (t.stream (portOf q (bits w 0 6))).runs = [] ∧
          (t.xu q).port = (s.xu q).port ++ ((List.range (32 / 2 ^ v.width)).filter fun p =>
              !bitAt (ofLE tomb) (leAt hdr 12 2 * (32 / 2 ^ v.width) + p) &&
              decide (min 1023 (popCount (256 * 2 ^ v.width) (bits (ofLE row) (256 * 2 ^ v.width * p) (256 * 2 ^ v.width) ^^^ v.bits)) ≤ v.thr)).map
            (fun p => hitRec (leAt hdr 8 2) p k (min 1023 (popCount (256 * 2 ^ v.width) (bits (ofLE row) (256 * 2 ^ v.width * p) (256 * 2 ^ v.width) ^^^ v.bits)))
              (v.qtag * 4096 + leAt hdr 0 2 % 4096)) ∧
          (t.xu q).run = (s.xu q).run ∧ (∀ j, j ≠ q → t.xu j = s.xu j) ∧ t.thread q 5 t0 = some { past th with issued := th.issued ++ [{ op := 0x61, sig := none, o := bits w 0 92 }] } ∧
          t = { s with eng := { s.eng with xu := t.eng.xu }, fry := { s.fry with streams := t.fry.streams }, ctl := { rotated q 5 t0 w s with threads := t.ctl.threads } }) ∧
  (∀ (s : State) (q t0 w : Nat) (th : Thread) (hdr more : List Byte), RegsOk s → q < 80 → (∀ i, s.quadInst q = some i
    → i < 80) → Issues q 5 t0 0x61 w th s → hdr.length = 32 → bundleOk hdr [] = false → (s.stream (portOf q (bits w 0
    6))).runs = [{ left := hdr ++ more, ended := true, full := true }] →
    ∃ t : State, exec (.sscr q 5 t0 .good) s = .next t ∧ Raised (s.quadLog q) (srcUnit q 5) 0x030D [] s t ∧ t.mem = s.mem ∧ t.sk = s.sk ∧ t.eng = s.eng) ∧
  (∀ (s : State) (q t0 w : Nat) (th : Thread), Issues q 5 t0 0x61 w th s → (s.stream (portOf q (bits w 0 6))).runs =
    [] → s.streamHalted (portOf q (bits w 0 6)) = false → (∀ b < 64, s.bankSt (q / 4) b = 0) → s.net.onWipe = [] →
    ∃ t : State, exec (.sscr q 5 t0 .good) s = .next t ∧ t.thread q 5 t0 = some { past th with issued := th.issued ++ [{ op := 0x61, sig := none, o := bits w 0 92, dry := true }] } ∧
          t = { s with ctl := { rotated q 5 t0 w s with threads := t.ctl.threads } }) ∧
  (∀ (s : State) (q t0 w : Nat) (th : Thread) (b : List Byte), Issues q 5 t0 0x90 w th s → bits w 12 1 = 0 → b = s.rd
    (spadAt q (32 * bits w 20 21)) 32 → 32 * bits w 20 21 + 32 ≤ spSize → s.unitRange q (spadAt q (32 * bits w 20 21))
    32 = true → s.quadPart q = some (s.owner 4 (bits w 0 12)) → (∀ b < 64, s.bankSt (q / 4) b = 0) → s.net.onWipe = []
    → s.hubCmds (bits w 0 12) = [] → s.scansOf (bits w 0 12) = [] → s.nbuStarts (bits w 0 12) = true → (s.nbu (bits w
    0 12)).qdepth ≤ 3 →
    ({ bytes := b.take 2 ++ leBytes 2 s.sk.nextTok ++ bytesAt b 4 28, src := srcUnit q 5, thr := t0, toks := [(s.sk.nextTok, srcUnit q 5)] }
    : NbuCmd).queued = true → (twf (fun _ => ([] : List NbuCmd)) s.sk.hubq = true) →
    ∃ t : State, exec (.nbcmd q 5 t0 .good) s = .next t ∧
          t.nbu (bits w 0 12) = { s.nbu (bits w 0 12) with
            cmds := (s.nbu (bits w 0 12)).cmds ++ [({ bytes := b.take 2 ++ leBytes 2 s.sk.nextTok ++ bytesAt b 4 28, src := srcUnit q 5, thr := t0, toks := [(s.sk.nextTok, srcUnit q 5)] } : NbuCmd)] } ∧
          (∀ j, j ≠ (bits w 0 12) → t.nbu j = s.nbu j) ∧ (∀ j, t.hubCmds j = s.hubCmds j) ∧ t.sk.nextTok = (s.sk.nextTok + 1) % 65536 ∧
          t.thread q 5 t0 = some { past th with issued := th.issued ++ [{ op := 0x90, sig := none, o := bits w 0 92, tokens := [s.sk.nextTok] }] } ∧
          t = { s with sk := { s.sk with nbus := t.sk.nbus, hubq := t.sk.hubq, nextTok := t.sk.nextTok }, ctl := { rotated q 5 t0 w s with threads := t.ctl.threads } }) ∧
  (∀ (s : State) (q t0 w : Nat) (th : Thread) (b : List Byte), Issues q 5 t0 0x90 w th s → bits w 12 1 = 0 → b = s.rd
    (spadAt q (32 * bits w 20 21)) 32 → 32 * bits w 20 21 + 32 ≤ spSize → s.unitRange q (spadAt q (32 * bits w 20 21))
    32 = true → s.quadPart q = some (s.owner 4 (bits w 0 12)) → (∀ b < 64, s.bankSt (q / 4) b = 0) → s.net.onWipe = []
    → (4 ≤ (s.nbu (bits w 0 12)).qdepth ∨ (s.hubCmds (bits w 0 12) = [] ∧ s.scansOf (bits w 0 12) = [] ∧
    ({ bytes := b.take 2 ++ leBytes 2 s.sk.nextTok ++ bytesAt b 4 28, src := srcUnit q 5, thr := t0, toks := [(s.sk.nextTok, srcUnit q 5)] }
    : NbuCmd).queued = false)) →
    ∃ t : State, exec (.nbcmd q 5 t0 .good) s = .next t ∧ t.hubCmds (bits w 0 12) = s.hubCmds (bits w 0 12) ++ [({ bytes := b.take 2 ++ leBytes 2 s.sk.nextTok ++ bytesAt b 4 28, src := srcUnit q 5, thr := t0, toks := [(s.sk.nextTok, srcUnit q 5)] } : NbuCmd)] ∧ t.sk.nextTok = (s.sk.nextTok + 1) % 65536 ∧
          t.thread q 5 t0 = some { past th with issued := th.issued ++ [{ op := 0x90, sig := none, o := bits w 0 92, tokens := [s.sk.nextTok] }] } ∧
          t = { s with sk := { s.sk with hubq := t.sk.hubq, nextTok := t.sk.nextTok }, ctl := { rotated q 5 t0 w s with threads := t.ctl.threads } }) ∧
  (∀ (s : State) (q t0 w : Nat) (th : Thread) (b : List Byte) (es : List Nat), Issues q 5 t0 0x90 w th s → bits w 12 1
    = 1 → b = s.rd (spadAt q (32 * bits w 20 21)) 32 → 32 * bits w 20 21 + 32 ≤ spSize → s.unitRange q (spadAt q (32 *
    bits w 20 21)) 32 = true → es.length = bits w 41 16 → es ≠ [] → (∀ e ∈ es, e < 2 ^ 32 ∧ s.quadPart q = some
    (s.owner 4 (bits e 0 12))) → (s.stream (portOf q (bits w 14 6))).runs =
    [{ left := es.flatMap (leBytes 4), ended := true, full := true }] → (∀ b < 64, s.bankSt (q / 4) b = 0) →
    s.net.onWipe = [] →
    ∃ t : State, exec (.nbcmd q 5 t0 .good) s = .next t ∧
          t.sk = (es.foldl (fun s e => (s.nbuIssue (bits e 0 12) (srcUnit q 5) t0 false (if bits w 13 1 = 1 then relocate b (bits e 12 16) else b)).1) s).sk ∧
          t.thread q 5 t0 = some { past th with issued := th.issued ++ [{ op := 0x90, sig := none, o := bits w 0 92, tokens := (List.range es.length).map fun i => (s.sk.nextTok + i) % 65536 }] } ∧ t.regs = s.regs ∧ t.evt = s.evt) ∧
  (∀ (s : State) (q t0 w : Nat) (th : Thread), RegsOk s → q < 80 → (∀ i, s.quadInst q = some i → i < 80) → Issues q 5
    t0 0x90 w th s → bits w 12 1 = 0 → 32 * bits w 20 21 + 32 ≤ spSize → s.unitRange q (spadAt q (32 * bits w 20 21))
    32 = true → s.quadPart q ≠ some (s.owner 4 (bits w 0 12)) → (∀ b < 64, s.bankSt (q / 4) b = 0) → s.net.onWipe = []
    →
    ∃ t : State, exec (.nbcmd q 5 t0 .good) s = .next t ∧ Raised (s.quadLog q) (srcUnit q 5) 0x0306 [] s t ∧ t.mem = s.mem ∧ t.sk = s.sk ∧ t.eng = s.eng) ∧
  (∀ (s : State) (q t0 w e : Nat) (th : Thread) (r dir : List Byte), Issues q 5 t0 0x91 w th s → portOf q (bits w 0 6)
    ≠ portOf q (bits w 29 6) → r = s.rd (spadAt q (128 * bits w 6 19)) 128 → 128 * bits w 6 19 + 128 ≤ spSize →
    s.unitRange q (spadAt q (128 * bits w 6 19)) 128 = true → screenRecOk r = true → screenRecAligned r = true →
    s.unitRange q (leAt r 24 8) (sketchBytes (leAt r 8 1)) = true → (s.stream (portOf q (bits w 0 6))).runs =
    [{ left := leBytes 4 e, ended := true, full := true }, { left := [], ended := true, mark := true }] → e < 2 ^ 32 →
    s.unitRange q (leAt r 0 8 + 32 * e) 32 = true → dir = s.rd (leAt r 0 8 + 32 * e) 32 → (leAt dir 4 2 ≠ 0 → (bitAt
    (leAt dir 0 2) 12 = true ∨ s.nbuServes (leAt dir 0 2 % 4096) = false)) → (∀ b < 64, s.bankSt (q / 4) b = 0) →
    s.net.onWipe = [] →
    ∃ t : State, exec (.nblist q 5 t0 .good) s = .next t ∧ (t.stream (portOf q (bits w 0 6))).runs = [] ∧ (t.stream (portOf q (bits w 29 6))).fromEnd = true ∧
          (t.stream (portOf q (bits w 29 6))).fromUnit = (s.stream (portOf q (bits w 29 6))).fromUnit ++
            (if leAt dir 4 2 = 0 ∨ (bitAt (leAt dir 0 2) 12 = false ∧ s.tier.failed.contains (64 + (leAt dir 0 2 % 4096) / 512) = true) then [] else [leBytes 8 e]) ∧
          t.sk = s.sk ∧ t.thread q 5 t0 = some { past th with issued := th.issued ++ [{ op := 0x91, sig := none, o := bits w 0 92 }] } ∧
          t = { s with fry := { s.fry with streams := t.fry.streams }, ctl := { rotated q 5 t0 w s with threads := t.ctl.threads } }) ∧
  (∀ (s : State) (q t0 w e g tok : Nat) (th : Thread) (r dir : List Byte), Issues q 5 t0 0x91 w th s → portOf q (bits
    w 0 6) ≠ portOf q (bits w 29 6) → r = s.rd (spadAt q (128 * bits w 6 19)) 128 → 128 * bits w 6 19 + 128 ≤ spSize →
    s.unitRange q (spadAt q (128 * bits w 6 19)) 128 = true → screenRecOk r = true → screenRecAligned r = true →
    s.unitRange q (leAt r 24 8) (sketchBytes (leAt r 8 1)) = true → (s.stream (portOf q (bits w 0 6))).runs =
    [{ left := leBytes 4 e, ended := true, full := true }, { left := [], ended := true, mark := true }] → e < 2 ^ 32 →
    s.unitRange q (leAt r 0 8 + 32 * e) 32 = true → dir = s.rd (leAt r 0 8 + 32 * e) 32 → leAt dir 4 2 ≠ 0 → bitAt
    (leAt dir 0 2) 12 = false → g = (leAt dir 0 2 % 4096) → s.nbuServes g = true → s.tier.failed.contains (64 + g /
    512) = false → s.quadPart q = some (s.owner 4 g) → tok = s.sk.nextTok → (∀ b < 64, s.bankSt (q / 4) b = 0) →
    s.net.onWipe = [] →
    ∃ t : State, exec (.nblist q 5 t0 .good) s = .next t ∧ (t.stream (portOf q (bits w 0 6))).runs = [] ∧ (t.stream (portOf q (bits w 29 6))).fromEnd = true ∧
          t.sk = ((({ s with sk := { s.sk with nextTok := (tok + 1) % 65536 } } : State).setScans g (s.scansOf g ++ [⟨srcUnit q 5, t0, tok, bits w 25 4 * 4096, dir, r, s.rd (leAt r 24 8) (sketchBytes (leAt r 8 1))⟩])).fed g).sk ∧
          t.thread q 5 t0 = some { past th with issued := th.issued ++ [{ op := 0x91, sig := none, o := bits w 0 92, tokens := [tok] }] } ∧ t.regs = s.regs ∧ t.evt = s.evt) ∧
  (∀ (s : State) (q t0 w : Nat) (th : Thread), RegsOk s → q < 80 → (∀ i, s.quadInst q = some i → i < 80) → Issues q 5
    t0 0x91 w th s → 128 * bits w 6 19 + 128 ≤ spSize → s.unitRange q (spadAt q (128 * bits w 6 19)) 128 = true →
    screenRecOk (s.rd (spadAt q (128 * bits w 6 19)) 128) = false → (∀ b < 64, s.bankSt (q / 4) b = 0) → s.net.onWipe
    = [] →
    ∃ t : State, exec (.nblist q 5 t0 .good) s = .next t ∧ Raised (s.quadLog q) (srcUnit q 5) 0x0301 [] s t ∧ t.mem = s.mem ∧ t.sk = s.sk ∧ t.eng = s.eng) ∧
  (∀ (s : State) (q t0 w : Nat) (th : Thread), RegsOk s → q < 80 → (∀ i, s.quadInst q = some i → i < 80) → Issues q 5
    t0 0x91 w th s → 128 * bits w 6 19 + 128 ≤ spSize → s.unitRange q (spadAt q (128 * bits w 6 19)) 128 = true →
    screenRecOk (s.rd (spadAt q (128 * bits w 6 19)) 128) = true → screenRecAligned (s.rd (spadAt q (128 * bits w 6
    19)) 128) = false → (∀ b < 64, s.bankSt (q / 4) b = 0) → s.net.onWipe = [] →
    ∃ t : State, exec (.nblist q 5 t0 .good) s = .next t ∧ Raised (s.quadLog q) (srcUnit q 5) 0x0306 [] s t ∧ t.mem = s.mem ∧ t.sk = s.sk ∧ t.eng = s.eng)

/-- On a quad whose other streams are idle: an FSTR of a signal descriptor adds COUNT to its semaphore and is over. An
FSTR of a one-row copy between local DRAM addresses has that one piece out, and no byte moves yet; a descriptor out of
form raises FRY_PARAM. The piece's good response copies the row exactly, charges it to its partition at the hub of its
destination, and ends the FSTR's last run. A granule that is whole is signalled once on FSEM, of the ferry's own quad or
by a message to another; after the last one the FSTR is over. A piece all of whose bytes were refused with "domain off"
is tried once more, and its data then land; refused again it raises FRY_DOMAIN, unless a gather's fallback can still
replace it: then it waits for that. At its fallback point a gather's missing row becomes zeros under FBMODE ZERO, FBSEM
is consumed, the late row is counted in its model, sets bit 0 of the flag word, and is reported once; its own bytes are
discarded when they come. A metering window in which a waiting partition received less than its allowance sets FLOORMISS
and counts the miss; the hub's meters restart, and a new FRY_SPLIT takes force. -/
def Obligations.FerryStreams : Prop :=
  (∀ (s : State) (q u t0 w n : Nat) (th : Thread) (d : List Byte), RegsOk s → q < 80 → Issues q u t0 0x80 w th s → 8 ≤
    u → u < 12 → n = 16 * (4 * q + (u - 8)) + t0 → StreamsOk s → Alone n s → (s.stream n).job = none → d = s.rd
    (spadAt q (64 * bits w 0 20)) 64 → 64 * bits w 0 20 + 64 ≤ spSize → s.unitRange q (spadAt q (64 * bits w 0 20)) 64
    = true → (∀ b < 64, s.bankSt (q / 4) b = 0) → s.net.onWipe = [] → dOk d n = true → bits w 20 16 = 0 → dOp d = 5 →
    dDstk d ≠ 0 → dFrem d = false → dFquad d = q → (∀ i ∈ th.issued, i.isJob = false) → s.sem q (dFsem d) + dCount d ≤
    0xFFFF →
    ∃ t : State, exec (.fstr q u t0 .good) s = .next t ∧ t.sem q (dFsem d) = s.sem q (dFsem d) + dCount d ∧ t.stream n = s.stream n ∧
          (∀ k, k ≠ n → t.stream k = s.stream k) ∧ t.thread q u t0 = some { past th with issued := th.issued ++ [{ op := 0x80, sig := none, o := bits w 0 92 }] } ∧
          RegsBut [semReg q (dFsem d), .frySwait n] s t ∧ t.rank = (s.streamDone n false).rank ∧
          t = { s with regs := t.regs, fresh := t.fresh, rank := t.rank, fry := { s.fry with streams := t.fry.streams, next := t.fry.next }, ctl := { rotated q u t0 w s with threads := t.ctl.threads } }) ∧
  (∀ (s : State) (q u t0 w n : Nat) (th : Thread) (d : List Byte), RegsOk s → q < 80 → Issues q u t0 0x80 w th s → 8 ≤
    u → u < 12 → n = 16 * (4 * q + (u - 8)) + t0 → StreamsOk s → Alone n s → (s.stream n).job = none → d = s.rd
    (spadAt q (64 * bits w 0 20)) 64 → 64 * bits w 0 20 + 64 ≤ spSize → s.unitRange q (spadAt q (64 * bits w 0 20)) 64
    = true → (∀ b < 64, s.bankSt (q / 4) b = 0) → s.net.onWipe = [] → dOk d n = true → bits w 20 16 = 0 → dOp d = 0 →
    dSrck d = 0 → dDstk d = 0 → dLayout d = 0 → dGran d = 0 → dCount d = 1 → dSrc d + dRowb d ≤ spBase → dDst d +
    dRowb d ≤ spBase → s.unitRange q (dSrc d) (dRowb d) = true → s.unitRange q (dDst d) (dRowb d) = true → (s.stream
    n).late.length < 64 → s.ferryReads (n / 16) < 128 →
    ∃ t : State, exec (.fstr q u t0 .good) s = .next t ∧
          t.stream n = { s.stream n with nextK := (s.stream n).nextK + 1, job := some {
            d := d, runs := 0, rows := 1, start := s.svcTime, dn := s.fresh, accs := [{ id := 0, all := dRowb d, ended := true, closed := true }],
            out := [{ k := (s.stream n).nextK, src := .mem (dSrc d), dst := .mem (dDst d), len := dRowb d, off := 0, direct := true }] } } ∧
          (∀ k, k ≠ n → t.stream k = s.stream k) ∧
          t.thread q u t0 = some { past th with issued := th.issued ++ [{ op := 0x80, sig := none, o := bits w 0 92, isJob := true }] } ∧
          t.fld (.fryStat (n / 16)) FRY_STAT_PIECES = (s.fld (.fryStat (n / 16)) FRY_STAT_PIECES + 1) % 2 ^ FRY_STAT_PIECES.w ∧
          t.fld (.frySwait n) FRY_SWAIT_CAUSE = (match regionOf (dSrc d) with | .hbm _ _ => 2 | .gddr _ _ => 3 | .sketch _ _ => 6 | _ => 0) ∧
          RegsBut [.fryStat (n / 16), .frySwait n] s t ∧ t.rank = s.rank ∧
          t = { s with regs := t.regs, fresh := t.fresh, rank := t.rank, fry := { s.fry with streams := t.fry.streams, next := t.fry.next }, ctl := { rotated q u t0 w s with threads := t.ctl.threads } }) ∧
  (∀ (s : State) (q u t0 w n : Nat) (th : Thread) (d : List Byte), RegsOk s → q < 80 → Issues q u t0 0x80 w th s → 8 ≤
    u → u < 12 → n = 16 * (4 * q + (u - 8)) + t0 → StreamsOk s → Alone n s → (s.stream n).job = none → d = s.rd
    (spadAt q (64 * bits w 0 20)) 64 → 64 * bits w 0 20 + 64 ≤ spSize → s.unitRange q (spadAt q (64 * bits w 0 20)) 64
    = true → (∀ b < 64, s.bankSt (q / 4) b = 0) → s.net.onWipe = [] → dOk d n = false →
    ∃ t : State, exec (.fstr q u t0 .good) s = .next t ∧ Raised (s.quadLog q) (frySrc n) 0x0401 [] s t ∧ t.flag (.fryStat (n / 16)) FRY_STAT_FAULT = true ∧ t.stream n = s.stream n ∧
          t.mem = s.mem ∧ t.fry = s.fry) ∧
  (∀ (s : State) (n k a b : Nat) (j : Job) (p : Pc) (r : RunAcc), Canonical s → n < 5120 → s.quadRuns (n / 64) = true
    → StreamsOk s → Alone n s → (s.stream n).job = some j → j.out = [p] → p.k = k → p.direct = true → p.dst = .mem b →
    p.fell = false → 1 ≤ p.len → p.len ≤ 65536 → j.accs = [r] → r.id = j.cur → r.ended = true → p.run = j.cur → j.runs
    = 0 → j.hold = [] → dGran j.d = 0 → dToUnit j.d = false → dLay j.d = 0 → dOp j.d = 0 → p.src = .mem a → p.todo =
    [] → p.data = none → p.refused = false → a + p.len ≤ spBase → (∀ i < p.len, s.mayReach (frySrc n) (a + i) = true ∧
    s.converting (a + i) = false) → s.lostIn a p.len = false → b + p.len ≤ spBase → (∀ i < p.len, s.mayReach (frySrc
    n) (b + i) = true ∧ s.converting (b + i) = false) → s.lostIn b p.len = false → (∀ l ∈ s.net.dir, s.sharers l.1 = 0
    ∨ l.1 * 256 + 256 ≤ b ∨ b + p.len ≤ l.1 * 256) → s.ferryWrites (n / 16) < 64 → (twf (fun _ => 0) s.fry.meter =
    true) →
    ∃ t : State, exec (.ferryPieceResponse n k .good) s = .next t ∧ memRead t.mem b p.len = s.rd a p.len ∧ MemBut b p.len s t ∧
          t.stream n = { s.stream n with job := none } ∧ (∀ m, m ≠ n → unserved (t.stream m) = unserved (s.stream m)) ∧
          (∀ pt h, s.quadPart (n / 64) = some pt → s.memHub (.mem b) = some h → tgetD 0 t.fry.meter (meterKey pt h (if p.remote then 2 else 1)) = tgetD 0 s.fry.meter (meterKey pt h (if p.remote then 2 else 1)) + pieceCost b p.len) ∧
          t.fld (.frySwait n) FRY_SWAIT_CAUSE = 0 ∧ RegsBut [.frySwait n] s t ∧ t.rank = (s.streamDone n false).rank ∧
          t = { s with regs := t.regs, mem := t.mem, rank := t.rank, ctl := { s.ctl with threads := t.ctl.threads },
                        fry := { s.fry with streams := t.fry.streams, meter := t.fry.meter, surplus := t.fry.surplus } }) ∧
  (∀ (s : State) (n q : Nat) (j : Job) (r : RunAcc), RegsOk s → n < 5120 → q = n / 64 → s.quadRuns q = true →
    StreamsOk s → Alone n s → (s.stream n).job = some j → j.accs = [r] → r.id = j.cur → r.ended = true → r.closed =
    true → j.out = [] → j.runs = 0 → dGran j.d ≠ 0 → r.full < ceilDiv r.all (dGran j.d) → (dOp j.d ≠ 1 ∨ j.fbSeen =
    true ∨ (dFbmode j.d = 0 ∧ j.table = false)) → dFrem j.d = false → dFquad j.d = q → s.sem q (dFsem j.d) < 0xFFFF →
    ∃ t : State, exec (.granuleFullSignal n) s = .next t ∧ t.sem q (dFsem j.d) = s.sem q (dFsem j.d) + 1 ∧
          t.stream n = { s.stream n with job := if r.full + 1 < ceilDiv r.all (dGran j.d) ∨ (dToUnit j.d = true ∧ (s.stream n).runs.any (fun x => decide (x.left ≠ [])) = true) then some { j with accs := [{ r with full := r.full + 1 }] } else none } ∧ (∀ m, m ≠ n → t.stream m = s.stream m) ∧ RegsBut [semReg q (dFsem j.d), .frySwait n] s t ∧
          t = { s with regs := t.regs, rank := if r.full + 1 < ceilDiv r.all (dGran j.d) ∨ (dToUnit j.d = true ∧ (s.stream n).runs.any (fun x => decide (x.left ≠ [])) = true) then s.rank else (s.streamDone n (decide (dOp j.d = 1))).rank, fry := { s.fry with streams := t.fry.streams }, ctl := { s.ctl with threads := t.ctl.threads } }) ∧
  (∀ (s : State) (n q : Nat) (j : Job) (r : RunAcc), RegsOk s → n < 5120 → q = n / 64 → s.quadRuns q = true →
    StreamsOk s → Alone n s → (s.stream n).job = some j → j.accs = [r] → r.id = j.cur → r.ended = true → r.closed =
    true → j.out = [] → j.runs = 0 → dGran j.d ≠ 0 → r.full < ceilDiv r.all (dGran j.d) → (dOp j.d ≠ 1 ∨ j.fbSeen =
    true ∨ (dFbmode j.d = 0 ∧ j.table = false)) → dFrem j.d = false → dFquad j.d ≠ q → s.quadGone (dFquad j.d) = false
    →
    ∃ t : State, exec (.granuleFullSignal n) s = .next t ∧ t.ctl.sigs = s.ctl.sigs ++ [⟨dFquad j.d, dFsem j.d, 1, s.epoch q, frySrc n, false⟩] ∧
          t.stream n = { s.stream n with job := if r.full + 1 < ceilDiv r.all (dGran j.d) ∨ (dToUnit j.d = true ∧ (s.stream n).runs.any (fun x => decide (x.left ≠ [])) = true) then some { j with accs := [{ r with full := r.full + 1 }] } else none } ∧ (∀ m, m ≠ n → t.stream m = s.stream m) ∧ RegsBut [.frySwait n] s t ∧
          t = { s with regs := t.regs, rank := if r.full + 1 < ceilDiv r.all (dGran j.d) ∨ (dToUnit j.d = true ∧ (s.stream n).runs.any (fun x => decide (x.left ≠ [])) = true) then s.rank else (s.streamDone n (decide (dOp j.d = 1))).rank, fry := { s.fry with streams := t.fry.streams }, ctl := { s.ctl with threads := t.ctl.threads, sigs := t.ctl.sigs } }) ∧
  (∀ (s : State) (n k b : Nat) (j : Job) (p : Pc) (bs : List Byte), MemOk s → n < 5120 → s.quadRuns (n / 64) = true →
    StreamsOk s → Alone n s → (s.stream n).job = some j → j.out = [p] → p.k = k → p.direct = true → p.dst = .mem b →
    p.fell = false → 1 ≤ p.len → p.len ≤ 65536 → dAdd j.d = 0 → p.refused = true → p.retried = false → p.data = some
    bs → bs.length = p.len → p.nak = (PEnd.mem b).bursts p.len → p.todo = [] → p.acked = 0 → b + p.len ≤ spBase → (∀ i
    < p.len, s.mayReach (frySrc n) (b + i) = true ∧ s.converting (b + i) = false) → s.lostIn b p.len = false → (∀ l ∈
    s.net.dir, s.sharers l.1 = 0 ∨ l.1 * 256 + 256 ≤ b ∨ b + p.len ≤ l.1 * 256) → s.ferryWrites (n / 16) < 64 → (twf
    (fun _ => 0) s.fry.meter = true) →
    ∃ t : State, exec (.domainOffRetry n k false) s = .next t ∧ memRead t.mem b p.len = bs ∧ MemBut b p.len s t ∧ t.stream n = { s.stream n with job := some { j with out := [] } } ∧
          (∀ m, m ≠ n → t.stream m = s.stream m) ∧ (∀ pt h, s.quadPart (n / 64) = some pt → s.memHub (.mem b) = some h → tgetD 0 t.fry.meter (meterKey pt h (if p.remote then 2 else 1)) = tgetD 0 s.fry.meter (meterKey pt h (if p.remote then 2 else 1)) + pieceCost b p.len) ∧ t = { s with mem := t.mem, fry := { s.fry with streams := t.fry.streams, meter := t.fry.meter } }) ∧
  (∀ (s : State) (n k : Nat) (again : Bool) (j : Job) (p : Pc), RegsOk s → n < 5120 → (s.stream n).job = some j →
    j.out = [p] → p.k = k → ((s.lateRule j.d p.src).1 = 0 ∨ p.fell = true) → p.refused = true → (p.retried = true ∨
    again = true) →
    ∃ t : State, exec (.domainOffRetry n k again) s = .next t ∧ Raised (s.quadLog (n / 64)) (frySrc n) 0x0406 [] s t ∧ t.flag (.fryStat (n / 16)) FRY_STAT_FAULT = true ∧
          RegsBut [.fryStat (n / 16), .schInst (s.fld (.schQuad (n / 64)) SCH_QUAD_INST)] s t ∧
          t = { s with regs := t.regs, evt := t.evt, ctl := { s.ctl with aborting := t.ctl.aborting } }) ∧
  (∀ (s : State) (n k : Nat) (again : Bool) (j : Job) (p : Pc), n < 5120 → (s.stream n).job = some j → j.out = [p] →
    p.k = k → (s.lateRule j.d p.src).1 ≠ 0 → p.fell = false → p.refused = true → (p.retried = true ∨ again = true) →
    exec (.domainOffRetry n k again) s = .next (s.setStream n { s.stream n with job := some { j with out := [{ p with retried := true }] } })) ∧
  (∀ (s : State) (n k q a b : Nat) (j : Job) (p : Pc) (r : RunAcc), Canonical s → n < 5120 → s.quadRuns (n / 64) =
    true → StreamsOk s → Alone n s → (s.stream n).job = some j → j.out = [p] → p.k = k → p.direct = true → p.dst =
    .mem b → p.fell = false → 1 ≤ p.len → p.len ≤ 65536 → j.accs = [r] → r.id = j.cur → r.ended = true → p.run = j.cur
    → j.runs = 0 → j.hold = [] → dGran j.d = 0 → dToUnit j.d = false → dLay j.d = 0 → q = n / 64 → dOp j.d = 1 →
    dFbmode j.d = 1 → j.fbSeen = false → j.lateSaid = false → s.sem q (dFbsem j.d) ≠ 0 → j.start + dGrace j.d * tickUs
    ≤ s.svcTime → p.src = .mem a → p.data = none → p.refused = false → dFlagw j.d % 4 = 0 → dFlagw j.d < moorOff →
    s.mayReach (frySrc n) (spadAt q (dFlagw j.d)) = true → s.mayReach (frySrc n) (spadAt q (dFlagw j.d + 3)) = true →
    s.lostIn (spadAt q (dFlagw j.d)) 4 = false → (∀ b < 64, s.bankSt (q / 4) b = 0) → s.net.onWipe = [] → b + p.len ≤
    spBase → (∀ i < p.len, s.mayReach (frySrc n) (b + i) = true ∧ s.converting (b + i) = false) → s.lostIn b p.len =
    false → (∀ l ∈ s.net.dir, s.sharers l.1 = 0 ∨ l.1 * 256 + 256 ≤ b ∨ b + p.len ≤ l.1 * 256) → s.ferryWrites (n /
    16) < 64 → (twf (fun _ => 0) s.fry.meter = true) →
    ∃ t : State, exec (.lookupFallbackPoint n) s = .next t ∧ memRead t.mem b p.len = List.replicate p.len 0#8 ∧
          t.sem q (dFbsem j.d) = s.sem q (dFbsem j.d) - 1 ∧ t.stream n = { s.stream n with job := none, late := (s.stream n).late ++ [k] } ∧
          (∀ m, m ≠ n → t.stream m = s.stream m) ∧
          t.fld (.mdlStat (dModel j.d)) MDL_STAT_LATE = satAdd (2 ^ MDL_STAT_LATE.w - 1) (s.fld (.mdlStat (dModel j.d)) MDL_STAT_LATE) 1 ∧
          t.flag (.mdlStat (dModel j.d)) MDL_STAT_DEGR = true ∧ (∀ x ∈ s.stageOn n, x.2.id ∈ t.rank.degraded) ∧
          Raised (s.quadLog q) (frySrc n) 0x0408 [] s t ∧ t.rdLE (spadAt q (dFlagw j.d)) 4 = s.rdLE (spadAt q (dFlagw j.d)) 4 ||| 1 ∧
          (∀ x, (x < b ∨ b + p.len ≤ x) → (x < spadAt q (dFlagw j.d) ∨ spadAt q (dFlagw j.d) + 4 ≤ x) → memByte t.mem x = memByte s.mem x) ∧
          RegsBut [semReg q (dFbsem j.d), .mdlStat (dModel j.d), .fryStat (n / 16), .frySwait n] s t ∧
          t = { s with regs := t.regs, mem := t.mem, evt := t.evt, rank := t.rank, ctl := { s.ctl with threads := t.ctl.threads },
                        fry := { s.fry with streams := t.fry.streams, meter := t.fry.meter } }) ∧
  (∀ (s : State) (n k : Nat), n < 5120 → Alone n s → (s.stream n).job = none → k ∈ (s.stream n).late →
    exec (.lateRowArrival n k) s = .next (s.setStream n { s.stream n with late := dropFirst (· = k) (s.stream n).late })) ∧
  (∀ (s : State) (h scale p c : Nat), RegsOk s → (twf (fun _ => 0) s.fry.meter = true) → h < 4 → p < 64 → c < 4 →
    tgetD 0 s.fry.meter (meterKey p h c) < s.allowance p h c (min scale 64) → s.part.floorSaid.contains (4 * p + h) =
    false →
    ∃ t : State, exec (.ferryMeterWindow h scale [(p, c)]) s = .next t ∧ t.flag (.ptStat p) PT_STAT_FLOORMISS = true ∧
          t.fld (.ptStat p) PT_STAT_MISSES = (let m := s.fld (.ptStat p) PT_STAT_MISSES; if PT_STAT_MISSES.sat then satAdd (2 ^ PT_STAT_MISSES.w - 1) m 1 else (m + 1) % 2 ^ PT_STAT_MISSES.w) ∧
          Raised p (srcHub h) 0x0902 [] s t ∧ RegsBut [.ptStat p] s t ∧
          (∀ k, tgetD 0 t.fry.meter k = if k / 4 % 4 = h then 0 else tgetD 0 s.fry.meter k) ∧
          (∀ k, tgetO t.fry.split k = if k % 4 = h then none else tgetO s.fry.split k) ∧
          t = { s with regs := t.regs, evt := t.evt, part := { s.part with floorSaid := s.part.floorSaid ++ [4 * p + h] }, fry := { s.fry with split := t.fry.split, meter := t.fry.meter } })

/-- MODEL_CREATE with no history cache or with parameters in range, in a partition with fewer than 16 models, makes a
free model of 0-63 the tenant's and ends with its number; parameters out of range end with INVALID_PARAMETER, and a
partition with 16 models with CAPACITY. TABLE_CREATE with parameters in range, quota and room appends one table of the
rows, dimension and cold type asked for, with its default row where it has one, charges its flash, and ends with its
number. PROMOTE of a row that is not hot gives it a free way of its set with its cold value widened, so that no row's
value changes; a full set refuses with CAPACITY, and a row that is hot already is left so. PROMOTE of an unknown model
or table ends with NO_OBJECT, of another tenant's model with NOT_OWNER, of a row beyond the table with
INVALID_PARAMETER. DEMOTE of a hot row queues it, once, and a queue of 4,096 rows refuses; of a row that is not hot it
does nothing (log entry 86). -/
def Obligations.RankingModelsAndTables : Prop :=
  (∀ (s : State) (n m : Nat) (c : Cmd), Fetched n 0x50 c s → c.n = n → (((c.fld 64 2 = 0 ∧ c.fld 66 1 = 0 ∧ c.fld 67 1
    = 0 ∧ c.fld 68 1 = 0) ∨ (16 ≤ c.fld 64 2 ∧ c.fld 64 2 ≤ 2048 ∧ 1 ≤ c.fld 66 1 ∧ c.fld 66 1 ≤ 8 ∧ (c.fld 67 1 = 32
    ∨ c.fld 67 1 = 64 ∨ c.fld 67 1 = 128) ∧ c.fld 68 1 ≤ 1))) → ((((List.range 64).filter fun k => (s.model
    k).isSome).filter fun k => decide ((s.model k).map Model.part = some c.part)).length < 16) → (pickFree
    (Config.freeChoice s.fresh) 64 ((List.range 64).filter fun k => (s.model k).isSome) = some m) →
    ∃ t : State, exec (.modelCreate n) s = .next t ∧ Ended n stSuccess m 0 [] s t ∧ m < 64 ∧ s.model m = none ∧
          (t.model m).map (fun v => (v.tenant, v.part, v.towers, v.trained)) = some (c.tenant, c.part, c.fld 40 8, bitAt c.flags 0) ∧
          (t.model m).map (fun v => v.hist.map fun p => (p.l, p.h, p.dh, p.int8, p.scales.length)) = some (if c.fld 64 2 = 0 then none else some (c.fld 64 2, c.fld 66 1, c.fld 67 1, decide (c.fld 68 1 = 1), c.fld 66 1)) ∧
          (t.model m).map (fun v => (v.users, v.gate)) = some ([], {}) ∧
          (∀ k, k ≠ m → t.model k = s.model k) ∧ t = { s with fresh := t.fresh, quay := { s.quay with cmds := t.quay.cmds }, rank := { s.rank with models := t.rank.models } }) ∧
  (∀ (s : State) (n : Nat) (c : Cmd), Fetched n 0x50 c s → c.n = n → (¬ ((c.fld 64 2 = 0 ∧ c.fld 66 1 = 0 ∧ c.fld 67 1
    = 0 ∧ c.fld 68 1 = 0) ∨ (16 ≤ c.fld 64 2 ∧ c.fld 64 2 ≤ 2048 ∧ 1 ≤ c.fld 66 1 ∧ c.fld 66 1 ≤ 8 ∧ (c.fld 67 1 = 32
    ∨ c.fld 67 1 = 64 ∨ c.fld 67 1 = 128) ∧ c.fld 68 1 ≤ 1))) →
    ∃ t : State, exec (.modelCreate n) s = .next t ∧ Ended n stInvalidParameter 0 0 [] s t ∧ t = { s with quay := { s.quay with cmds := t.quay.cmds } }) ∧
  (∀ (s : State) (n : Nat) (c : Cmd), Fetched n 0x50 c s → c.n = n → (((c.fld 64 2 = 0 ∧ c.fld 66 1 = 0 ∧ c.fld 67 1 =
    0 ∧ c.fld 68 1 = 0) ∨ (16 ≤ c.fld 64 2 ∧ c.fld 64 2 ≤ 2048 ∧ 1 ≤ c.fld 66 1 ∧ c.fld 66 1 ≤ 8 ∧ (c.fld 67 1 = 32 ∨
    c.fld 67 1 = 64 ∨ c.fld 67 1 = 128) ∧ c.fld 68 1 ≤ 1))) → (16 ≤ (((List.range 64).filter fun k => (s.model
    k).isSome).filter fun k => decide ((s.model k).map Model.part = some c.part)).length) →
    ∃ t : State, exec (.modelCreate n) s = .next t ∧ Ended n stCapacity 0 0 [] s t ∧ t = { s with quay := { s.quay with cmds := t.quay.cmds } }) ∧
  (∀ (s : State) (n h k i u : Nat) (c : Cmd) (v : Model) (f : Fm), RegsOk s → Fetched n 0x51 c s → c.n = n → s.model
    c.object = some v → v.tenant = c.tenant → 1 ≤ c.fld 64 8 → c.fld 64 8 ≤ 2 ^ 40 → 8 ≤ c.fld 72 2 → c.fld 72 2 ≤ 512
    → c.fld 72 2 % 8 = 0 → ((c.fld 74 1 = 0 ∨ c.fld 74 1 = 1 ∨ c.fld 74 1 = 5 ∨ c.fld 74 1 = 6)) → fmOf (c.fld 74 1) =
    some f → 4 ≤ c.fld 75 1 → c.fld 75 1 ≤ 19 → c.fld 76 1 ≤ 2 → c.fld 78 2 ≤ 5000 → (c.len0 = if c.fld 76 1 = 2 then
    alignUp (2 * c.fld 72 2 + ((if bitAt c.flags 0 then 1 else 0) + (if bitAt c.flags 1 then 4 else 0))) 4 else 0) →
    (u = ceilDiv (c.fld 64 8 * (f.bytes (c.fld 72 2) + ((if bitAt c.flags 0 then 1 else 0) + (if bitAt c.flags 1 then
    4 else 0)))) (2 ^ 20)) → s.quotaOk v.tenant 3 u = true → s.flashRoom v.part u = true → h = Config.freeChoice
    s.fresh % 4 → pickFree (Config.freeChoice (s.fresh + 1)) 4096 ((s.rank.tables.filter (·.model = c.object)).map
    Table.num) = some k → pickFree (Config.freeChoice (s.fresh + 2)) (2 ^ 20) (((s.tier.objs.filter (·.hub = h)).map
    Obj.number) ++ ((s.rank.tables.filter (·.hub = h)).map Table.number)) = some i →
    ∃ t : State, exec (.tableCreate n) s = .next t ∧ Ended n stSuccess k 0 [] s t ∧ t.rank.tables.dropLast = s.rank.tables ∧
          (t.rank.tables.getLast?).map (fun x => (x.model, x.num, x.tenant, x.part, x.hub, x.number)) = some (c.object, k, v.tenant, v.part, h, i) ∧
          (t.rank.tables.getLast?).map (fun x => (x.rows, x.dim, x.coldFmt, x.hasScale, x.hasAcc, x.logSets, x.late, x.grace)) =
            some (c.fld 64 8, c.fld 72 2, c.fld 74 1, bitAt c.flags 0, bitAt c.flags 1, c.fld 75 1, c.fld 76 1, c.fld 78 2) ∧
          (t.rank.tables.getLast?).map (fun x => (x.cold, x.hot, x.queue, x.dflt)) = some ([], [], [], if c.fld 76 1 = 2 then c.payload else []) ∧
          t.use v.tenant 3 = min (s.use v.tenant 3 + u) (2 ^ 32 - 1) ∧ RegsBut [.tnTier (4 * v.tenant + 3)] s t ∧
          t = { s with regs := t.regs, fresh := t.fresh, quay := { s.quay with cmds := t.quay.cmds }, rank := { s.rank with tables := t.rank.tables } }) ∧
  (∀ (s : State) (n m k row : Nat) (c : Cmd) (v : Model) (tb : Table) (w : Nat), Fetched n 0x53 c s → c.n = n → m =
    c.object → k = c.fld 48 2 → row = c.fld 40 8 → s.model m = some v → v.tenant = c.tenant → s.table m k = some tb →
    row < tb.rows → tb.find row = none → tb.freeWay row = some w →
    ∃ t : State, exec (.promote n) s = .next t ∧ Ended n stSuccess 0 0 [] s t ∧ (t.table m k).bind (fun x => x.find row) = some w ∧
          (t.table m k).map (fun x => (x.cold, x.queue)) = some (tb.cold, tb.queue) ∧
          (∀ r, (t.table m k).map (fun x => x.row r) = some (tb.row r)) ∧ (∀ j l, (j ≠ m ∨ l ≠ k) → t.table j l = s.table j l) ∧
          t = { s with fresh := t.fresh, quay := { s.quay with cmds := t.quay.cmds }, rank := { s.rank with tables := t.rank.tables } }) ∧
  (∀ (s : State) (n m k row : Nat) (c : Cmd) (v : Model) (tb : Table), Fetched n 0x53 c s → c.n = n → m = c.object → k
    = c.fld 48 2 → row = c.fld 40 8 → s.model m = some v → v.tenant = c.tenant → s.table m k = some tb → row < tb.rows
    → tb.find row = none → tb.freeWay row = none →
    ∃ t : State, exec (.promote n) s = .next t ∧ Ended n stCapacity 0 0 [] s t ∧ t = { s with quay := { s.quay with cmds := t.quay.cmds } }) ∧
  (∀ (s : State) (n m k row : Nat) (c : Cmd) (v : Model) (tb : Table), Fetched n 0x53 c s → c.n = n → m = c.object → k
    = c.fld 48 2 → row = c.fld 40 8 → s.model m = some v → v.tenant = c.tenant → s.table m k = some tb → row < tb.rows
    → (tb.find row).isSome = true →
    ∃ t : State, exec (.promote n) s = .next t ∧ Ended n stSuccess 0 0 [] s t ∧ t = { s with quay := { s.quay with cmds := t.quay.cmds } }) ∧
  (∀ (s : State) (n m k row : Nat) (c : Cmd) (v : Model) (tb : Table) (st : Nat), Fetched n 0x54 c s → c.n = n → m =
    c.object → k = c.fld 48 2 → row = c.fld 40 8 → s.model m = some v → v.tenant = c.tenant → s.table m k = some tb →
    row < tb.rows → ((st = stSuccess ∧ (tb.find row = none ∨ row ∈ tb.queue)) ∨ (st = stCapacity ∧ (tb.find
    row).isSome = true ∧ ¬ row ∈ tb.queue ∧ 4096 ≤ tb.queue.length)) →
    ∃ t : State, exec (.demote n) s = .next t ∧ Ended n st 0 0 [] s t ∧ t = { s with quay := { s.quay with cmds := t.quay.cmds } }) ∧
  (∀ (s : State) (n m k row : Nat) (c : Cmd) (v : Model) (tb : Table) (st : Nat), Fetched n 0x53 c s → c.n = n → m =
    c.object → k = c.fld 48 2 → row = c.fld 40 8 → ((st = stNoObject ∧ s.model m = none) ∨ (st = stNotOwner ∧ s.model
    m = some v ∧ v.tenant ≠ c.tenant) ∨ (s.model m = some v ∧ v.tenant = c.tenant ∧ ((st = stNoObject ∧ s.table m k =
    none) ∨ (st = stInvalidParameter ∧ s.table m k = some tb ∧ tb.rows ≤ row)))) →
    ∃ t : State, exec (.promote n) s = .next t ∧ Ended n st 0 0 [] s t ∧ t = { s with quay := { s.quay with cmds := t.quay.cmds } }) ∧
  (∀ (s : State) (n m k row : Nat) (c : Cmd) (v : Model) (tb : Table) (w : Nat), Fetched n 0x54 c s → c.n = n → m =
    c.object → k = c.fld 48 2 → row = c.fld 40 8 → s.model m = some v → v.tenant = c.tenant → s.table m k = some tb →
    row < tb.rows → tb.find row = some w → tb.queue.contains row = false → tb.queue.length < 4096 →
    ∃ t : State, exec (.demote n) s = .next t ∧ Ended n stSuccess 0 0 [] s t ∧ t.table m k = some { tb with queue := tb.queue ++ [row] } ∧
          (∀ j l, (j ≠ m ∨ l ≠ k) → t.table j l = s.table j l) ∧
          t.model m = some { v with gate := { v.gate with demoteAt := some (v.gate.demoteAt.getD s.svcTime) } } ∧ (∀ j, j ≠ m → t.model j = s.model j) ∧
          t = { s with quay := { s.quay with cmds := t.quay.cmds }, rank := { s.rank with models := t.rank.models, tables := t.rank.tables } })

/-- A lookup stage starts at once and reads step MSTEP while no window is pending or open, a query's attention stage
beside it, and waits behind the others otherwise. A request of at most 2^18 rows makes the window pending; each of them
is hot then, or its set full, and no row's value changes; one made while a window is pending or open changes nothing
(log entry 86). The window opens once no stage runs and the barrier has passed, and not before: PEND falls, OPEN rises,
and an add that was held for a hot row lands, an FP32 one on its accumulator, others on its elements. A close makes
MSTEP one more, clears OPEN, and starts the waiting stage at the new step, and at the publication interval of a loaded
training plan makes a publication due; a queued hot row goes back to its cold copy, each element rounded stochastically
with the seed of the table, step and row. Queued demotions of a model without a training plan get a pending window of
their own. -/
def Obligations.StepWindowsAndLookupStages : Prop :=
  (∀ (s : State) (m i : Nat) (st : List Nat) (v : Model), s.model m = some v → v.gate.pend = false → v.gate.open_ =
    false →
    ∃ t : State, exec (.lookupStageStart m i st) s = .next t ∧ (t.model m).map Model.gate = some { v.gate with running := if st = [] then v.gate.running else v.gate.running ++ [⟨i, st, st.eraseDups.filter (fun n => (s.stream n).job.isSome)⟩] } ∧
          (tgetO t.rank.stepOf i).join = some (s.mstep m) ∧ (∀ j, j ≠ i → tgetO t.rank.stepOf j = tgetO s.rank.stepOf j) ∧
          (∀ c, s.cmd i = some c → c.op = 0x40 → (tgetO t.rank.attn i).join = some (s.attend m c)) ∧ (∀ j, j ≠ i → tgetO t.rank.attn j = tgetO s.rank.attn j) ∧
          (∀ j, j ≠ m → t.model j = s.model j) ∧ t = { s with rank := { s.rank with models := t.rank.models, stepOf := t.rank.stepOf, attn := t.rank.attn } }) ∧
  (∀ (s : State) (m i : Nat) (st : List Nat) (v : Model), s.model m = some v → (v.gate.pend = true ∨ v.gate.open_ =
    true) →
    ∃ t : State, exec (.lookupStageStart m i st) s = .next t ∧ (t.model m).map Model.gate = some { v.gate with waiting := v.gate.waiting ++ [⟨i, st, st.eraseDups.filter (fun n => (s.stream n).job.isSome)⟩] } ∧ (∀ j, j ≠ m → t.model j = s.model j) ∧ t = { s with rank := { s.rank with models := t.rank.models } }) ∧
  (∀ (s : State) (m : Nat) (v : Model) (xs : List (Nat × Nat)), RegsOk s → m < 64 → s.model m = some v → v.gate.pend =
    false → v.gate.open_ = false → xs.length ≤ 2 ^ 18 →
    ∃ t : State, exec (.stepWindowRequest m xs) s = .next t ∧ (t.model m).map Model.gate = some { v.gate with pend := true, touched := xs.filter (fun (x : Nat × Nat) => (s.table m x.1).any fun (tb : Table) => decide (x.2 < tb.rows)), added := [], barrier := false } ∧ t.flag (.mdlStat m) MDL_STAT_PEND = true ∧
          (∀ j k r, (t.table j k).map (fun x => x.row r) = (s.table j k).map (fun x => x.row r)) ∧
          (∀ x ∈ xs.filter (fun (x : Nat × Nat) => (s.table m x.1).any fun (tb : Table) => decide (x.2 < tb.rows)), (t.table m x.1).all (fun (tb : Table) => (tb.find x.2).isSome || (tb.freeWay x.2).isNone) = true) ∧ (∀ j, j ≠ m → t.model j = s.model j) ∧ RegsBut [.mdlStat m] s t ∧
          t = { s with rank := { s.rank with models := t.rank.models, tables := t.rank.tables }, regs := t.regs, fresh := t.fresh }) ∧
  (∀ (s : State) (m : Nat) (xs : List (Nat × Nat)) (v : Model), s.model m = some v → (v.gate.pend = true ∨
    v.gate.open_ = true) →
    exec (.stepWindowRequest m xs) s = .next s) ∧
  (∀ (s : State) (m k row w : Nat) (rel : Bool) (v : Model) (tb : Table) (x : HotWay) (h : HeldAdd), RegsOk s → m < 64
    → s.model m = some v → v.gate.pend = true → v.gate.running = [] → s.barrierOver m v.gate rel = true →
    v.gate.touched = [(k, row)] → v.gate.held = [h] → h.table = k → h.row = row → s.table m k = some tb → tb.hub < 4 →
    tb.find row = some w → tb.way w = some x → h.addt = 1 → h.data.length = 4 → tb.hasAcc = true →
    ∃ t : State, exec (.stepWindowOpen m rel) s = .next (t.ackTo h.who h.data.length) ∧ (t.model m).map Model.gate = some { v.gate with pend := false, open_ := true, held := [], added := (k, row) :: v.gate.added } ∧
          t.flag (.mdlStat m) MDL_STAT_PEND = false ∧ t.flag (.mdlStat m) MDL_STAT_OPEN = true ∧
          (t.table m k).bind (fun y => y.way w) = some { x with last := s.mstep m + 1, val := { x.val with acc := leAt (addBytes 1 1 (leBytes 4 x.val.acc) h.data).1 0 4 } } ∧
          (∀ r, r ≠ row → (t.table m k).map (fun y => y.row r) = some (tb.row r)) ∧ (∀ j, j ≠ m → t.model j = s.model j) ∧ (∀ j l, (j ≠ m ∨ l ≠ k) → t.table j l = s.table j l) ∧
          RegsBut [.mdlStat m, .msaStat tb.hub] s t ∧ t = { s with rank := { s.rank with models := t.rank.models, tables := t.rank.tables }, regs := t.regs }) ∧
  (∀ (s : State) (m k row w : Nat) (rel : Bool) (v : Model) (tb : Table) (x : HotWay) (h : HeldAdd), RegsOk s → m < 64
    → s.model m = some v → v.gate.pend = true → v.gate.running = [] → s.barrierOver m v.gate rel = true →
    v.gate.touched = [(k, row)] → v.gate.held = [h] → h.table = k → h.row = row → s.table m k = some tb → tb.hub < 4 →
    tb.find row = some w → tb.way w = some x → (h.addt ≠ 1 ∨ tb.hasAcc = false ∨ h.data.length ≠ 4) → h.off +
    h.data.length ≤ 2 * tb.dim → h.data.length % addWidth h.addt = 0 →
    ∃ t : State, exec (.stepWindowOpen m rel) s = .next (t.ackTo h.who h.data.length) ∧ (t.model m).map Model.gate = some { v.gate with pend := false, open_ := true, held := [], added := (k, row) :: v.gate.added } ∧
          t.flag (.mdlStat m) MDL_STAT_PEND = false ∧ t.flag (.mdlStat m) MDL_STAT_OPEN = true ∧
          (t.table m k).bind (fun y => y.way w) = some { x with last := s.mstep m + 1, val := tb.ofBytes ((tb.rowBytes x.val).take h.off ++ (addBytes h.addt (h.data.length / addWidth h.addt) (((tb.rowBytes x.val).drop h.off).take h.data.length) h.data).1 ++ (tb.rowBytes x.val).drop (h.off + h.data.length)) } ∧
          (∀ r, r ≠ row → (t.table m k).map (fun y => y.row r) = some (tb.row r)) ∧ (∀ j, j ≠ m → t.model j = s.model j) ∧ (∀ j l, (j ≠ m ∨ l ≠ k) → t.table j l = s.table j l) ∧
          RegsBut [.mdlStat m, .msaStat tb.hub] s t ∧ t = { s with rank := { s.rank with models := t.rank.models, tables := t.rank.tables }, regs := t.regs }) ∧
  (∀ (s : State) (m : Nat) (v : Model) (barrier : Bool), s.model m = some v → (v.gate.pend = false ∨ v.gate.running ≠
    [] ∨ s.barrierOver m v.gate barrier = false) →
    exec (.stepWindowOpen m barrier) s = .next s) ∧
  (∀ (s : State) (m : Nat) (v : Model) (g : Stage), RegsOk s → m < 64 → s.model m = some v → v.gate.open_ = true →
    v.gate.waiting = [g] → (∀ tb ∈ s.rank.tables, tb.model = m → tb.queue = []) →
    ∃ t : State, exec (.stepWindowClose m) s = .next t ∧ t.mstep m = (s.mstep m + 1) % 2 ^ 64 ∧ t.flag (.mdlStat m) MDL_STAT_OPEN = false ∧
          (t.model m).map Model.gate = some { v.gate with open_ := false, touched := [], added := [], waiting := [], demoteAt := none, running := if g.streams = [] then v.gate.running else v.gate.running ++ [g] } ∧
          (tgetO t.rank.stepOf g.id).join = some (t.mstep m) ∧
          t.towersOf m = (if s.trainsNow m = true ∧ Config.pubInterval m ≠ 0 ∧ t.mstep m % Config.pubInterval m = 0 then { s.towersOf m with pub := true } else s.towersOf m) ∧
          t.rank.tables = s.rank.tables ∧ (∀ j, j ≠ m → t.model j = s.model j) ∧ RegsBut [.mdlStat m, .mdlStep m] s t ∧
          t = { s with rank := { s.rank with models := t.rank.models, tables := t.rank.tables, stepOf := t.rank.stepOf, attn := t.rank.attn }, regs := t.regs, coll := { s.coll with towers := t.coll.towers } }) ∧
  (∀ (s : State) (m k row w : Nat) (v : Model) (tb : Table) (x : HotWay), RegsOk s → m < 64 → s.model m = some v →
    v.gate.open_ = true → v.gate.waiting = [] → s.rank.tables.filter (·.model = m) = [tb] → tb.model = m → k = tb.num
    → tb.queue = [row] → tb.find row = some w → tb.way w = some x → (twf (fun _ => ({} : RowVal)) tb.cold = true) →
    tb.hub < 4 →
    ∃ t : State, exec (.stepWindowClose m) s = .next t ∧ t.mstep m = (s.mstep m + 1) % 2 ^ 64 ∧
          (t.table m k).map (fun y => (y.way w, y.queue)) = some (none, []) ∧
          (t.table m k).map (fun y => ((List.range tb.dim).map (y.coldRow row).elem)) = some ((List.range tb.dim).map fun j =>
            (tb.fm.conv (.sr (srVal (srSeed m k (s.mstep m + 1) row) 0 j)) true (Fm.bf16.val (x.val.elem j))).1) ∧
          (∀ r, r ≠ row → (t.table m k).map (fun y => y.coldRow r) = some (tb.coldRow r)) ∧ (∀ j, j ≠ m → t.model j = s.model j) ∧ t.mem = s.mem) ∧
  (∀ (s : State) (m : Nat) (v : Model), RegsOk s → m < 64 → s.model m = some v → v.gate.demoteAt ≠ none → s.trainsNow
    m = false → v.gate.pend = false → v.gate.open_ = false →
    ∃ t : State, exec (.demotionWindowTimer m) s = .next t ∧ (t.model m).map Model.gate = some { v.gate with pend := true, touched := [], added := [], barrier := false } ∧ t.flag (.mdlStat m) MDL_STAT_PEND = true ∧ (∀ j, j ≠ m → t.model j = s.model j) ∧
          RegsBut [.mdlStat m] s t ∧ t = { s with rank := { s.rank with models := t.rank.models }, regs := t.regs }) ∧
  (∀ (s : State) (m : Nat) (v : Model), s.model m = some v → (v.gate.demoteAt = none ∨ s.trainsNow m = true ∨
    v.gate.pend = true ∨ v.gate.open_ = true) →
    exec (.demotionWindowTimer m) s = .next s)

/-- A write on a collection of its tenant, of 1 to 1,024 records of the right length whose identifiers are distinct, in
its range and not 2^64 - 1, and whose attributes are in form, goes on; a DELETE with a bad record names the first.
Likewise a history append of whole entries, and a drop while no query plan names the collection; else it ends BUSY. An
INSERT on an unknown collection ends with NO_OBJECT naming no record. A waiting write goes on when its lock entry no
longer waits. Its admission, when nothing refuses it, takes the next sequence number of its partition and appends its
entry, and drops no entry that is still unposted; a drop's admission abandons the collection's build, staged generation
and waiting switch. A log without room refuses it with DELTA_FULL. Once durable, a write ends with its sequence number:
NOT_PRESENT when a DELETE found none of its identifiers, else SUCCESS; a drop's entry alone does not end it. -/
def Obligations.WriteCommandsAdmissionAndDurability : Prop :=
  (∀ (s : State) (n w : Nat) (c : Cmd) (k : Coll) (ids : List Nat) (d : List Byte), Fetched n 0x30 c s → c.n = n →
    s.collOf c.object = some k → k.tenant = c.tenant → k.dropped c.n = false → d = inDesc c k.live.desc → w = recLen d
    → 1 ≤ c.count → c.count ≤ 1024 → (ids = (List.range c.count).map (fun i => leAt c.payload (i * w) 8)) → ids.Nodup
    → (∀ x ∈ ids, c.fld 40 8 ≤ x ∧ x ≤ c.fld 48 8 ∧ x ≠ 2 ^ 64 - 1) → c.len0 = c.count * w → (∀ i < c.count, attrsOk d
    (recOf d (bytesAt c.payload (i * w) w)) = true) →
    ∃ t : State, exec (.insert n) s = .next t ∧ t.quay.cmds = mapIf (·.n = n) (fun c => { c with st := .running }) s.quay.cmds ∧ t = { s with quay := { s.quay with cmds := t.quay.cmds } }) ∧
  (∀ (s : State) (n w : Nat) (c : Cmd) (k : Coll) (ids : List Nat) (d : List Byte), Fetched n 0x31 c s → c.n = n →
    s.collOf c.object = some k → k.tenant = c.tenant → k.dropped c.n = false → d = inDesc c k.live.desc → w = recLen d
    → 1 ≤ c.count → c.count ≤ 1024 → (ids = (List.range c.count).map (fun i => leAt c.payload (i * w) 8)) → ids.Nodup
    → (∀ x ∈ ids, c.fld 40 8 ≤ x ∧ x ≤ c.fld 48 8 ∧ x ≠ 2 ^ 64 - 1) → c.len0 = c.count * w → (∀ i < c.count, attrsOk d
    (recOf d (bytesAt c.payload (i * w) w)) = true) →
    ∃ t : State, exec (.upsert n) s = .next t ∧ t.quay.cmds = mapIf (·.n = n) (fun c => { c with st := .running }) s.quay.cmds ∧ t = { s with quay := { s.quay with cmds := t.quay.cmds } }) ∧
  (∀ (s : State) (n w : Nat) (c : Cmd) (k : Coll) (ids : List Nat), Fetched n 0x32 c s → c.n = n → s.collOf c.object =
    some k → k.tenant = c.tenant → k.dropped c.n = false → w = 8 → 1 ≤ c.count → c.count ≤ 1024 → (ids = (List.range
    c.count).map (fun i => leAt c.payload (i * w) 8)) → ids.Nodup → (∀ x ∈ ids, c.fld 40 8 ≤ x ∧ x ≤ c.fld 48 8 ∧ x ≠
    2 ^ 64 - 1) → c.len0 = c.count * w →
    ∃ t : State, exec (.delete n) s = .next t ∧ t.quay.cmds = mapIf (·.n = n) (fun c => { c with st := .running }) s.quay.cmds ∧ t = { s with quay := { s.quay with cmds := t.quay.cmds } }) ∧
  (∀ (s : State) (n i : Nat) (c : Cmd) (k : Coll) (rs : List (List Byte)), Fetched n 0x32 c s → c.n = n → s.collOf
    c.object = some k → k.tenant = c.tenant → k.dropped c.n = false → 1 ≤ c.count → c.count ≤ 1024 → c.len0 = c.count
    * 8 → (rs = (List.range c.count).map (fun j => bytesAt c.payload (j * 8) 8)) → i < c.count → (∀ j < c.count, j ≤ i
    → (badRec c k.live.desc ((rs.take j).map (leAt · 0 8)) (rs.getD j []) = true ↔ j = i)) →
    ∃ t : State, exec (.delete n) s = .next t ∧ Ended n stInvalidParameter 0 i [] s t ∧ t = { s with quay := { s.quay with cmds := t.quay.cmds } }) ∧
  (∀ (s : State) (n : Nat) (c : Cmd), Fetched n 0x30 c s → c.n = n → s.collOf c.object = none →
    ∃ t : State, exec (.insert n) s = .next t ∧ Ended n stNoObject 0 0xFFFFFFFF [] s t ∧ t = { s with quay := { s.quay with cmds := t.quay.cmds } }) ∧
  (∀ (s : State) (n : Nat) (c : Cmd) (v : Model) (h : HistParam), Fetched n 0x33 c s → c.n = n → s.model c.object =
    some v → v.tenant = c.tenant → v.hist = some h → 1 ≤ c.count → c.count ≤ 1024 → c.len0 = c.count * h.entry →
    ∃ t : State, exec (.histAppend n) s = .next t ∧ t.quay.cmds = mapIf (·.n = n) (fun c => { c with st := .running }) s.quay.cmds ∧ t = { s with quay := { s.quay with cmds := t.quay.cmds } }) ∧
  (∀ (s : State) (n : Nat) (c : Cmd) (k : Coll), Fetched n 0x21 c s → c.n = n → s.collOf c.object = some k → k.tenant
    = c.tenant → k.dropped c.n = false → (∀ i < 80, (s.inst i).all (fun v => v.kind ≠ 0 || v.object ≠ c.object ||
    v.part ≠ k.part) = true) →
    ∃ t : State, exec (.collDrop n) s = .next t ∧ t.quay.cmds = mapIf (·.n = n) (fun c => { c with st := .running }) s.quay.cmds ∧ t = { s with quay := { s.quay with cmds := t.quay.cmds } }) ∧
  (∀ (s : State) (n i : Nat) (c : Cmd) (k : Coll) (v : Inst), Fetched n 0x21 c s → c.n = n → s.collOf c.object = some
    k → k.tenant = c.tenant → k.dropped c.n = false → i < 80 → s.inst i = some v → v.kind = 0 → v.object = c.object →
    v.part = k.part →
    ∃ t : State, exec (.collDrop n) s = .next t ∧ Ended n stBusy 0 0 [] s t ∧ t = { s with quay := { s.quay with cmds := t.quay.cmds } }) ∧
  (∀ (s : State) (n : Nat) (c : Cmd) (l : RangeLock), s.cmd n = some c → c.st = .waiting → s.quay.locks.find? (·.cmd =
    n) = some l → (∀ x ∈ s.quay.locks, x.cmd < n → x.isModel = l.isModel → x.obj = l.obj → (l.hi < x.lo ∨ x.hi <
    l.lo)) → (∀ x ∈ s.quay.cmds, x.qp = c.qp → x.n < n → isWriteOp x.op = true → x.st ≠ .waiting) →
    ∃ t : State, exec (.rangeLockAdmit n) s = .next t ∧ t.quay.cmds = mapIf (·.n = n) (fun c => { c with st := .ready }) s.quay.cmds ∧ t = { s with quay := { s.quay with cmds := t.quay.cmds } }) ∧
  (∀ (s : State) (n p : Nat) (c : Cmd) (d : List Byte) (rs : List (List Byte)) (k : Coll), s.cmd n = some c → c.n = n
    → p = c.part → c.st = .running → s.quayUp = true → s.entryOf p n = none → s.admitTurn c = true → (c.op = 0x30 ∨
    c.op = 0x31 ∨ c.op = 0x32) → s.collOf c.object = some k → d = inDesc c k.live.desc → 1 ≤ c.count → (rs =
    (List.range c.count).map (fun i => bytesAt c.payload (i * (c.len0 / c.count)) (c.len0 / c.count))) → s.admitErr c
    d rs (alignUp (64 + c.len0) 64) = none →
    ∃ t : State, exec (.writeAdmission n) s = .next t ∧ (t.cpart p).next = (s.cpart p).next + 1 ∧
          ((t.cpart p).entries.getLast?).map (fun e => (e.seq, e.op, e.obj, e.qp, e.cid, e.cmd, e.tenant)) =
            some ((s.cpart p).next, c.op, c.object, c.qp, c.cid, n, c.tenant) ∧
          ((t.cpart p).entries.getLast?).map (fun e => (e.count, e.desc, e.recs, e.size, e.at_, e.absent)) =
            some (c.count, d, rs.flatMap fun x => x, alignUp (64 + c.len0) 64, s.svcTime, if c.op = 0x32 then (rs.filter fun r => !(s.present p c.object (leAt r 0 8))).length else 0) ∧
          ((t.cpart p).entries.getLast?).map (fun e => (e.durable, e.applied, e.destaged, e.lost)) = some (false, false, false, false) ∧
          (∀ e ∈ (s.cpart p).entries, e.posted = false → e.lost = false → e ∈ (t.cpart p).entries) ∧ (∀ j, j ≠ p → t.cpart j = s.cpart j) ∧
          t.mem = s.mem ∧ t.evt = s.evt ∧
          t.quay = s.quay ∧ t.coll.colls = s.coll.colls) ∧
  (∀ (s : State) (n p : Nat) (c : Cmd) (d : List Byte) (rs : List (List Byte)), s.cmd n = some c → c.n = n → p =
    c.part → c.st = .running → s.quayUp = true → s.entryOf p n = none → s.admitTurn c = true → c.op = 0x33 → d = [] →
    1 ≤ c.count → (rs = (List.range c.count).map (fun i => bytesAt c.payload (i * (c.len0 / c.count)) (c.len0 /
    c.count))) → s.admitErr c d rs (alignUp (64 + c.len0) 64) = none →
    ∃ t : State, exec (.writeAdmission n) s = .next t ∧ (t.cpart p).next = (s.cpart p).next + 1 ∧
          ((t.cpart p).entries.getLast?).map (fun e => (e.seq, e.op, e.obj, e.qp, e.cid, e.cmd, e.tenant)) =
            some ((s.cpart p).next, c.op, c.object, c.qp, c.cid, n, c.tenant) ∧
          ((t.cpart p).entries.getLast?).map (fun e => (e.count, e.desc, e.recs, e.size, e.at_, e.user)) =
            some (c.count, d, rs.flatMap fun x => x, alignUp (64 + c.len0) 64, s.svcTime, c.fld 40 8) ∧
          ((t.cpart p).entries.getLast?).map (fun e => (e.durable, e.applied, e.destaged, e.lost)) = some (false, false, false, false) ∧
          (∀ e ∈ (s.cpart p).entries, e.posted = false → e.lost = false → e ∈ (t.cpart p).entries) ∧ (∀ j, j ≠ p → t.cpart j = s.cpart j) ∧
          t.mem = s.mem ∧ t.evt = s.evt ∧
          t.quay = s.quay ∧ t.coll.colls = s.coll.colls ∧ t.rank = s.rank) ∧
  (∀ (s : State) (n p : Nat) (c : Cmd) (d : List Byte) (rs : List (List Byte)) (k : Coll), s.cmd n = some c → c.n = n
    → p = c.part → c.st = .running → s.quayUp = true → s.entryOf p n = none → s.admitTurn c = true → c.op = 0x21 →
    s.collOf c.object = some k → d = inDesc c k.live.desc → rs = [] → s.admitErr c d rs 64 = none →
    ∃ t : State, exec (.writeAdmission n) s = .next t ∧ (t.cpart p).next = (s.cpart p).next + 1 ∧
          ((t.cpart p).entries.getLast?).map (fun e => (e.seq, e.op, e.obj, e.qp, e.cid, e.cmd, e.tenant, e.count, e.recs, e.size)) =
            some ((s.cpart p).next, c.op, c.object, c.qp, c.cid, n, c.tenant, 0, [], 64) ∧
          (t.collOf c.object).map (fun v => (v.dropAt, v.build.isNone, v.sw, v.next.isNone, v.recs.staging)) = some (some (n, s.quay.nextCmd), true, none, true, []) ∧
          (∀ b ∈ k.build, ∀ x ∈ t.quay.cmds, x.n = b.cmd → x.st = .done stAbandoned 0 0 []) ∧ (∀ w ∈ k.sw, ∀ x ∈ t.quay.cmds, x.n = w.cmd → x.st = .done stAbandoned 0 0 []) ∧
          (∀ e ∈ (s.cpart p).entries, e.posted = false → e.lost = false → e ∈ (t.cpart p).entries) ∧ (∀ j, j ≠ p → t.cpart j = s.cpart j) ∧
          (∀ j, j ≠ c.object → t.collOf j = s.collOf j)) ∧
  (∀ (s : State) (n p : Nat) (c : Cmd) (d : List Byte) (rs : List (List Byte)), RegsOk s → s.cmd n = some c → c.n = n
    → p = c.part → c.st = .running → s.quayUp = true → s.entryOf p n = none → s.admitTurn c = true → isWriteOp c.op =
    true → (d = if c.op = 0x33 then [] else ((s.collOf c.object).map fun k => inDesc c k.live.desc).getD []) → (rs =
    if c.op = 0x21 then [] else (List.range c.count).map (fun i => bytesAt c.payload (i * (c.len0 / c.count)) (c.len0
    / c.count))) → s.writeErr c = none → (c.op = 0x30 → ∀ r ∈ rs, s.present p c.object (leAt r 0 8) = false) →
    s.crossVectors c rs = none → crossAt (s.overRoom c.tenant p) (s.writeCosts c.op p c.object (c.fld 40 8) c.count d
    rs) = none → crossAt (s.overQuota c.tenant) (s.writeCosts c.op p c.object (c.fld 40 8) c.count d rs) = none →
    (s.dlogQuota p < s.dlogUsed p + (if c.op = 0x21 then 64 else alignUp (64 + c.len0) 64) ∨ 24 * 2 ^ 30 <
    s.deltaBytes s.counts + (if c.op = 0x21 then 64 else alignUp (64 + c.len0) 64)) →
    ∃ t : State, exec (.writeAdmission n) s = .next t ∧ Ended n stDeltaFull 0 (if c.op = 0x21 then 0 else 0xFFFFFFFF) [] s t ∧ t.flag (.cmPstat p) CM_PSTAT_FULL = true ∧ RegsBut [.cmPstat p] s t ∧
          t = { s with regs := t.regs, quay := { s.quay with cmds := t.quay.cmds } }) ∧
  (∀ (s : State) (n p : Nat) (c : Cmd) (e : DEntry), s.cmd n = some c → c.n = n → p = c.part → s.entryOf p n = some e
    → s.quayUp = true → e.durable = false → e.lost = false → e.op ≠ 0x21 → (∀ x ∈ (s.cpart p).entries, x.seq = e.seq →
    x = e) →
    ∃ t : State, exec (.writeDurable n) s = .next t ∧ Ended n (if e.op = 0x32 ∧ e.absent = e.count then stNotPresent else stSuccess) e.seq e.absent [] s t ∧
          (t.cpart p).entries = mapIf (·.seq = e.seq) (fun x => { x with durable := true }) (s.cpart p).entries ∧
          (tgetO (t.cpart p).writes e.qp).join = some ⟨e.cid, e.seq⟩ ∧ (t.cpart p).next = (s.cpart p).next ∧ (t.cpart p).applied = (s.cpart p).applied ∧
          (∀ j, j ≠ p → t.cpart j = s.cpart j) ∧
          t = { s with quay := { s.quay with cmds := t.quay.cmds }, coll := { s.coll with parts := t.coll.parts } }) ∧
  (∀ (s : State) (n p : Nat) (c : Cmd) (e : DEntry), s.cmd n = some c → c.n = n → p = c.part → s.entryOf p n = some e
    → s.quayUp = true → e.durable = false → e.lost = false → e.op = 0x21 → (∀ x ∈ (s.cpart p).entries, x.seq = e.seq →
    x = e) →
    ∃ t : State, exec (.writeDurable n) s = .next t ∧ (t.cpart p).entries = mapIf (·.seq = e.seq) (fun x => { x with durable := true }) (s.cpart p).entries ∧
          (∀ j, j ≠ p → t.cpart j = s.cpart j) ∧ t = { s with coll := { s.coll with parts := t.coll.parts } })

/-- Applying the next durable entry of a partition makes its sequence number the applied one: a DELETE puts its number
as tombstone on the live versions of its identifiers and on no others, and overwrites such a version's identifier with
ones and sets its tombstone bit where it stands; an INSERT or UPSERT also adds one version per record; a history append
keeps the user's last L entries. An entry that is not durable is not applied, and none is destaged out of turn. A list
with a delta entry 60 s old starts a fold, or at 8 segments a compaction, with the applied number as its cut. A finished
fold that finds room moves the entries up to its cut out of the delta area into one more segment, and a finished
compaction leaves one segment and ends the COMPACT that has no other; no version is lost; without room nothing changes.
A released compaction's cut drops exactly the list's slots that died at or before it, and while a query below it runs,
none. COMPACT without tombstones ends at once. -/
def Obligations.ApplicationDestagingFoldsAndCuts : Prop :=
  (∀ (s : State) (p q : Nat) (e : DEntry) (k : Coll), s.quayUp = true → q = (s.cpart p).applied + 1 → q < (s.cpart
    p).next → (s.cpart p).entries.find? (·.seq = q) = some e → e.lost = false → e.durable = true → s.collOf e.obj =
    some k → k.restoring = false → e.op = 0x32 →
    ∃ t : State, exec (.writeApply p) s = .next t ∧ (t.cpart p).applied = q ∧
          (t.collOf e.obj).map (fun v => v.live.vecs) = some (mapIf (fun v => v.dead.isNone && e.ids.contains v.id) (fun v => { v with dead := some e.seq }) k.live.vecs) ∧
          (∀ j, j ≠ e.obj → t.collOf j = s.collOf j) ∧ (∀ j, j ≠ p → t.cpart j = s.cpart j) ∧
          ((k.live.vecs ++ ((k.build.map (·.gen.vecs)).getD []) ++ ((k.next.map Gen.vecs).getD [])).all (·.slot.isNone) = true → t.mem = s.mem) ∧ t.evt = s.evt) ∧
  (∀ (s : State) (p q : Nat) (e : DEntry) (k : Coll) (v : Vec) (h i a r : Nat) (o : Obj) (y : Seg) (d : List Byte),
    MemOk s → s.quayUp = true → q = (s.cpart p).applied + 1 → q < (s.cpart p).next → (s.cpart p).entries.find? (·.seq
    = q) = some e → e.lost = false → e.durable = true → s.collOf e.obj = some k → k.restoring = false → e.op = 0x32 →
    d = k.live.desc → k.live.vecs = [v] → k.build = none → k.next = none → v.dead = none → v.id ∈ e.ids → v.slot =
    some (h, i) → s.obj h = some o → o.pieces = [⟨0, o.size, some a⟩] → i * elemSize d + 8 ≤ o.size → k.live.store =
    [y] → y.store = h → y.rowObj = none → y.rows[sketchRows d y.slots + i / 8192 * (1 + dValues d)]? = some r → (r +
    1024 ≤ a ∨ a + o.size ≤ r) →
    ∃ t : State, exec (.writeApply p) s = .next t ∧ memRead t.mem (a + i * elemSize d) 8 = List.replicate 8 0xFF#8 ∧
          memByte t.mem (r + i % 8192 / 8) = memByte s.mem (r + i % 8192 / 8) ||| BitVec.ofNat 8 (2 ^ (i % 8192 % 8)) ∧
          (∀ x, (x < a + i * elemSize d ∨ a + i * elemSize d + 8 ≤ x) → x ≠ r + i % 8192 / 8 → memByte t.mem x = memByte s.mem x)) ∧
  (∀ (s : State) (p q : Nat) (e : DEntry) (k : Coll), s.quayUp = true → q = (s.cpart p).applied + 1 → q < (s.cpart
    p).next → (s.cpart p).entries.find? (·.seq = q) = some e → e.lost = false → e.durable = true → s.collOf e.obj =
    some k → k.restoring = false → (e.op = 0x30 ∨ e.op = 0x31) →
    ∃ t : State, exec (.writeApply p) s = .next t ∧ (t.cpart p).applied = q ∧
          ((t.collOf e.obj).map (fun v => v.live.vecs)).map (fun l => l.take k.live.vecs.length) =
            some (mapIf (fun v => v.dead.isNone && e.ids.contains v.id) (fun v => { v with dead := some e.seq }) k.live.vecs) ∧
          ((t.collOf e.obj).map (fun v => v.live.vecs)).map (fun l => (l.drop k.live.vecs.length).map fun v => (v.id, v.seq, v.dead, v.dlog)) =
            some (e.ids.map fun i => (i, e.seq, none, true)) ∧
          ((t.collOf e.obj).map (fun v => v.live.vecs)).all (fun l => (l.drop k.live.vecs.length).all fun v => decide (v.cost = k.live.cost v.list)) = true ∧ (∀ j, j ≠ e.obj → t.collOf j = s.collOf j) ∧ (∀ j, j ≠ p → t.cpart j = s.cpart j)) ∧
  (∀ (s : State) (p q : Nat) (e : DEntry) (v : Model) (h : HistParam), s.quayUp = true → q = (s.cpart p).applied + 1 →
    q < (s.cpart p).next → (s.cpart p).entries.find? (·.seq = q) = some e → e.lost = false → e.durable = true → e.op =
    0x33 → s.model e.obj = some v → v.hist = some h → (s.towersOf e.obj).restoring = false → 1 ≤ h.l → e.recList ≠ []
    →
    ∃ t : State, exec (.writeApply p) s = .next t ∧ (t.cpart p).applied = q ∧
          (t.model e.obj).map (fun m => (tgetD {} m.users e.user).entries) =
            some (((tgetD {} v.users e.user).entries ++ e.recList).drop (((tgetD {} v.users e.user).entries ++ e.recList).length - h.l)) ∧
          (∀ u, u ≠ e.user → (t.model e.obj).map (fun m => tgetD {} m.users u) = some (tgetD {} v.users u)) ∧ (∀ j, j ≠ e.obj → t.model j = s.model j) ∧
          (workOf e.obj e.user = none → t.mem = s.mem) ∧ t.evt = s.evt) ∧
  (∀ (s : State) (p q : Nat) (e : DEntry), q = (s.cpart p).applied + 1 → (s.cpart p).entries.find? (·.seq = q) = some
    e → e.lost = false → e.durable = false →
    exec (.writeApply p) s = .next s) ∧
  (∀ (s : State) (p q : Nat) (e : DEntry), s.quayUp = true → q = (s.cpart p).destaged + 1 → q < (s.cpart p).next →
    (s.cpart p).entries.find? (·.seq = q) = some e → e.lost = false → e.durable = true →
    ∃ t : State, exec (.destage p) s = .next t ∧ (t.cpart p).destaged = q ∧ (t.cpart p).applied = (s.cpart p).applied ∧ t.tier.programmed = s.tier.programmed + e.size ∧
          (∀ x ∈ (s.cpart p).entries, x.seq ≠ q → x.posted = false → x.lost = false → x ∈ (t.cpart p).entries) ∧ (∀ j, j ≠ p → t.cpart j = s.cpart j) ∧
          t.coll.colls = s.coll.colls ∧ t.quay = s.quay ∧ t.mem = s.mem ∧ RegsBut [.flStat] s t) ∧
  (∀ (s : State) (k l : Nat) (v : Coll), s.collOf k = some v → (v.live.vecs.any (fun x => x.list = l && x.dlog &&
    decide (x.at_ + 60 * tickS ≤ s.svcTime)) = true) → v.folds.any (·.list = l) = false → (∀ x ∈ v.live.vecs, x.list =
    l → x.dlog = false → x.dead = none) →
    ∃ t : State, exec (.deltaAgeTimeout k l) s = .next t ∧
          t.collOf k = some { v with folds := v.folds ++
            [{ list := l, cut := (s.cpart v.part).applied, compact := decide (8 ≤ tgetD 1 v.live.segs l) }] } ∧ (∀ j, j ≠ k → t.collOf j = s.collOf j) ∧
          t = { s with coll := { s.coll with colls := t.coll.colls } }) ∧
  (∀ (s : State) (k l : Nat) (v : Coll) (f : Fold), s.quayUp = true → s.collOf k = some v → v.folds.find? (·.list = l)
    = some f → (twf (fun _ => 1) v.live.segs = true) → ((v.live.vecs.map fun x => (x.id, x.seq)).Nodup) → (s.writeSeg
    v.tenant v.part v.live f).isSome = true →
    ∃ t : State, exec (.foldComplete k l) s = .next t ∧
          ((t.collOf k).map (fun v => v.live.vecs)).map (fun vs => vs.map fun x => (x.id, x.seq, x.dead, x.list)) = some (v.live.vecs.map fun x => (x.id, x.seq, x.dead, x.list)) ∧
          ((t.collOf k).map (fun v => v.live.vecs)).map (fun vs => vs.map Vec.dlog) = some (v.live.vecs.map fun x => x.dlog && !(!f.compact && x.list = l && decide (x.seq ≤ f.cut))) ∧
          (t.collOf k).map (fun v => tgetD 1 v.live.segs l) = some (if f.compact then 1 else tgetD 1 v.live.segs l + 1) ∧
          (∀ j, j ≠ l → (t.collOf k).map (fun v => tgetD 1 v.live.segs j) = some (tgetD 1 v.live.segs j)) ∧
          (t.collOf k).map Coll.cuts = some (v.cuts ++ [⟨l, f.cut, f.compact, if f.compact then v.live.store.filter (·.list = l) else []⟩]) ∧ (∀ j, j ≠ k → t.collOf j = s.collOf j) ∧
          t.quay = { s.quay with cmds := match f.cmd with
            | some n => if (dropFirst (fun x => x.list = l) v.folds).any (·.cmd = some n) then s.quay.cmds else mapIf (·.n = n) (fun c => { c with st := .done stSuccess 0 0 [] }) s.quay.cmds
            | none => s.quay.cmds } ∧
          RegsBut [.flStat, .tnTier (4 * v.tenant), .tnTier (4 * v.tenant + 1), .tnTier (4 * v.tenant + 2), .tnTier (4 * v.tenant + 3)] s t) ∧
  (∀ (s : State) (k l : Nat) (v : Coll) (f : Fold), s.collOf k = some v → v.folds.find? (·.list = l) = some f →
    s.writeSeg v.tenant v.part v.live f = none →
    exec (.foldComplete k l) s = .next s) ∧
  (∀ (s : State) (k l cut : Nat) (v : Coll) (xs : List Seg), s.collOf k = some v → v.cuts = [⟨l, cut, true, xs⟩] → (∀
    c ∈ s.quay.cmds, c.op = 0x40 → c.object = k → ∀ r ∈ c.rp, cut ≤ r) →
    ∃ t : State, exec (.cutRelease k) s = .next t ∧
          (t.collOf k).map (fun v => v.live.vecs) = some (v.live.vecs.filter fun x => !(x.list = l && !x.dlog && x.dead.any fun d => decide (d ≤ cut))) ∧
          (t.collOf k).map Coll.cuts = some [] ∧ (∀ j, j ≠ k → t.collOf j = s.collOf j) ∧ t.quay = s.quay ∧ (xs = [] → t.mem = s.mem) ∧
          (xs = [] → RegsBut [.tnTier (4 * v.tenant), .tnTier (4 * v.tenant + 1), .tnTier (4 * v.tenant + 2), .tnTier (4 * v.tenant + 3)] s t)) ∧
  (∀ (s : State) (k l cut : Nat) (v : Coll) (xs : List Seg), s.collOf k = some v → v.cuts = [⟨l, cut, true, xs⟩] →
    ((s.queriesOf k).any (fun c => c.rp.any fun r => decide (r < cut)) = true) →
    ∃ t : State, exec (.cutRelease k) s = .next t ∧ (∀ j, t.collOf j = s.collOf j) ∧ t.quay = s.quay ∧ t.mem = s.mem ∧ t.regs = s.regs) ∧
  (∀ (s : State) (n : Nat) (c : Cmd) (k : Coll), Fetched n 0x25 c s → c.n = n → s.collOf c.object = some k → k.tenant
    = c.tenant → k.dropped c.n = false → (∀ x ∈ k.live.vecs, x.dead = none ∨ x.dlog = true) →
    ∃ t : State, exec (.compact n) s = .next t ∧ Ended n stSuccess 0 0 [] s t ∧ t = { s with quay := { s.quay with cmds := t.quay.cmds } }) ∧
  (∀ (s : State) (n l : Nat) (c : Cmd) (k : Coll), Fetched n 0x25 c s → c.n = n → s.collOf c.object = some k →
    k.tenant = c.tenant → k.dropped c.n = false → (((k.live.vecs.filter fun x => x.dead.isSome && !x.dlog).map
    (·.list)).eraseDups = [l]) →
    ∃ t : State, exec (.compact n) s = .next t ∧ t.quay.cmds = mapIf (·.n = n) (fun c => { c with st := .running }) s.quay.cmds ∧
          t.collOf c.object = some { k with folds := k.folds ++ [{ list := l, cut := (s.cpart k.part).applied, compact := true, cmd := some n }] } ∧
          (∀ j, j ≠ c.object → t.collOf j = s.collOf j) ∧ t = { s with quay := { s.quay with cmds := t.quay.cmds }, coll := { s.coll with colls := t.coll.colls } })

/-- COLL_CREATE with a descriptor in form makes an unused number the tenant's empty collection at generation 1 and ends
with that number; a descriptor out of form ends with INVALID_PARAMETER, a full module or partition with CAPACITY. BUILD
starts the next generation, and is refused for a changed fixed parameter or beside another (log entry 81); BUILD_DONE
stages it with every vector live at the base point and ends the BUILD with its base and number, or waits for room;
ABANDON ends the build or the staged generation, a waiting switch, and itself, and with neither ends with NO_BUILD.
MODEL_LOAD stages a weight set of a model within its limit. A SWITCH of what is staged waits for its time, before which
nothing changes; then the staged generation is the live one, the old one is kept for its queries, the copy that was not
live holds the record of the new one with the next SEQUENCE, and the SWITCH ends; a write torn by power loss leaves the
old one live. Towers switch likewise, older sets staying for their queries, and a publication that is due makes a set
from the masters. An old generation leaves once no earlier query remains, its segments' objects with it, and not before.
LIST_PLACE moves a list's rows, or is refused. -/
def Obligations.GenerationsAndTowers : Prop :=
  (∀ (s : State) (n k : Nat) (c : Cmd) (g : Gen), Fetched n 0x20 c s → c.n = n → genOf 1 (c.payload.take c.len0) =
    some g → (s.coll.colls.filter (·.2.isSome)).length < 1024 → (((s.coll.colls.filter (·.2.isSome)).filter fun k =>
    decide (k.2.map Coll.part = some c.part)).length < 256) → pickFree (Config.freeChoice s.fresh) (2 ^ 32)
    ((s.coll.colls.filter (·.2.isSome)).map (·.1)) = some k →
    ∃ t : State, exec (.collCreate n) s = .next t ∧ Ended n stSuccess k 0 [] s t ∧
          (t.collOf k).map (fun v => (v.tenant, v.part, v.live.num, v.live.desc, v.live.vecs)) = some (c.tenant, c.part, 1, g.desc, []) ∧
          (t.collOf k).map (fun v => (v.live.proj, v.live.cent, v.build, v.next, v.dropAt)) = some (g.proj, g.cent, none, none, none) ∧
          (t.collOf k).map (fun v => (v.recs.a, v.recs.b, v.recs.staging)) = (t.collOf k).map (fun v => (GenRec.bytes ⟨0, k, 1, 1, v.live.base, 0, v.live.root, 0⟩, [], [])) ∧
          (t.collOf k).map (fun v => (v.folds, v.cuts, v.old.length, v.restoring)) = some ([], [], 0, false) ∧
          (∀ j, j ≠ k → t.collOf j = s.collOf j) ∧ t = { s with fresh := t.fresh, quay := { s.quay with cmds := t.quay.cmds }, coll := { s.coll with colls := t.coll.colls } }) ∧
  (∀ (s : State) (n : Nat) (c : Cmd), Fetched n 0x20 c s → c.n = n → descOk (bytesAt (c.payload.take c.len0) 0 128) =
    false →
    ∃ t : State, exec (.collCreate n) s = .next t ∧ Ended n stInvalidParameter 0 0 [] s t ∧ t = { s with quay := { s.quay with cmds := t.quay.cmds } }) ∧
  (∀ (s : State) (n : Nat) (c : Cmd) (g : Gen), Fetched n 0x20 c s → c.n = n → genOf 1 (c.payload.take c.len0) = some
    g → (1024 ≤ (s.coll.colls.filter (·.2.isSome)).length ∨ 256 ≤ ((s.coll.colls.filter (·.2.isSome)).filter fun k =>
    decide (k.2.map Coll.part = some c.part)).length) →
    ∃ t : State, exec (.collCreate n) s = .next t ∧ Ended n stCapacity 0 0 [] s t ∧ t = { s with quay := { s.quay with cmds := t.quay.cmds } }) ∧
  (∀ (s : State) (n st : Nat) (c : Cmd) (k : Coll) (g : Gen), Fetched n 0x22 c s → c.n = n → s.collOf c.object = some
    k → k.tenant = c.tenant → k.dropped c.n = false → k.dropAt = none → genOf (k.live.num + 1) (c.payload.take c.len0)
    = some g → ((st = stInvalidParameter ∧ mayChange k.live.desc g.desc = false) ∨ (st = stGenBusy ∧ mayChange
    k.live.desc g.desc = true ∧ (k.build.isSome = true ∨ k.next.isSome = true))) →
    ∃ t : State, exec (.build n) s = .next t ∧ Ended n st 0 0 [] s t ∧ t = { s with quay := { s.quay with cmds := t.quay.cmds } }) ∧
  (∀ (s : State) (n : Nat) (c : Cmd) (k : Coll) (g : Gen), Fetched n 0x22 c s → c.n = n → s.collOf c.object = some k →
    k.tenant = c.tenant → k.dropped c.n = false → k.dropAt = none → genOf (k.live.num + 1) (c.payload.take c.len0) =
    some g → mayChange k.live.desc g.desc = true → k.build = none → k.next = none →
    ∃ t : State, exec (.build n) s = .next t ∧ t.quay.cmds = mapIf (·.n = n) (fun c => { c with st := .running }) s.quay.cmds ∧
          t.collOf c.object = some { k with build := some ⟨{ g with base := (s.cpart k.part).applied, root := s.freshRoot }, n⟩ } ∧
          (∀ j, j ≠ c.object → t.collOf j = s.collOf j) ∧ t = { s with fresh := t.fresh, quay := { s.quay with cmds := t.quay.cmds }, coll := { s.coll with colls := t.coll.colls } }) ∧
  (∀ (s : State) (k : Nat) (v : Coll) (b : Build) (cs : List (List (Nat × Nat))), s.collOf k = some v → v.build = some
    b → s.quayUp = true → (cs = (v.live.vecs.filter fun x => decide (x.seq ≤ b.gen.base) && x.dead.all fun d => decide
    (b.gen.base < d)).map (fun x => b.gen.cost (b.gen.version (Config.freeChoice s.fresh) v.live.desc x.seq x.at_
    false x.rec_).1.list)) → crossAt (s.overQuota v.tenant) cs = none → crossAt (s.overRoom v.tenant v.part) cs = none
    → (s.drew.writeGen v.tenant v.part b.gen ((s.baseVecs v b).map (·.1))).isSome = true →
    ∃ t : State, exec (.buildDone k) s = .next t ∧ Ended b.cmd stBuildDone b.gen.base b.gen.num [] s t ∧
          (t.collOf k).map (fun v => (v.live, v.build, v.old, v.sw)) = some (v.live, none, v.old, v.sw) ∧
          (t.collOf k).map (fun v => v.next.map fun g => (g.num, g.desc, g.base)) = some (some (b.gen.num, b.gen.desc, b.gen.base)) ∧
          ((t.collOf k).bind Coll.next).all (fun g => (g.vecs.map fun x => (x.id, x.seq, x.dead)).isPerm ((b.gen.vecs ++ (v.live.vecs.filter fun x => decide (x.seq ≤ b.gen.base) && x.dead.all fun d => decide (b.gen.base < d))).map fun x => (x.id, x.seq, x.dead))) = true ∧
          (t.collOf k).map (fun v => (v.recs.a, v.recs.b, v.recs.staging)) =
            some (v.recs.a, v.recs.b, GenRec.bytes ⟨2, k, b.gen.num, 0, b.gen.base, 0, b.gen.root, v.live.root⟩) ∧ (∀ j, j ≠ k → t.collOf j = s.collOf j)) ∧
  (∀ (s : State) (k : Nat) (v : Coll) (b : Build) (cs : List (List (Nat × Nat))), s.collOf k = some v → v.build = some
    b → (cs = (v.live.vecs.filter fun x => decide (x.seq ≤ b.gen.base) && x.dead.all fun d => decide (b.gen.base <
    d)).map (fun x => b.gen.cost (b.gen.version (Config.freeChoice s.fresh) v.live.desc x.seq x.at_ false
    x.rec_).1.list)) → ((crossAt (s.overQuota v.tenant) cs).isSome = true ∨ (crossAt (s.overRoom v.tenant v.part)
    cs).isSome = true ∨ s.drew.writeGen v.tenant v.part b.gen ((s.baseVecs v b).map (·.1)) = none) →
    exec (.buildDone k) s = .next s) ∧
  (∀ (s : State) (n : Nat) (c : Cmd) (k : Coll), Fetched n 0x23 c s → c.n = n → s.collOf c.object = some k → k.tenant
    = c.tenant → k.dropped c.n = false → (k.build.isSome = true ∨ k.next.isSome = true) →
    ∃ t : State, exec (.abandon n) s = .next t ∧
          t.quay.cmds = mapIf (·.n = n) (fun c => { c with st := .done stSuccess 0 0 [] }) ((k.sw.map fun (w : Switch) => w.cmd).elim id (fun m => mapIf (·.n = m) (fun c => { c with st := .done stAbandoned 0 0 [] })) ((k.build.map fun (b : Build) => b.cmd).elim id (fun m => mapIf (·.n = m) (fun c => { c with st := .done stAbandoned 0 0 [] })) s.quay.cmds)) ∧
          t.collOf c.object = some { k with build := none, next := none, sw := none, recs := { k.recs with staging := [] } } ∧ (∀ j, j ≠ c.object → t.collOf j = s.collOf j) ∧
          ((k.build.toList.map Build.gen ++ k.next.toList).all (fun g => g.vecs = [] && g.store = []) = true → t = { s with quay := { s.quay with cmds := t.quay.cmds }, coll := { s.coll with colls := t.coll.colls } })) ∧
  (∀ (s : State) (n : Nat) (c : Cmd) (k : Coll), Fetched n 0x23 c s → c.n = n → s.collOf c.object = some k → k.tenant
    = c.tenant → k.dropped c.n = false → k.build = none → k.next = none →
    ∃ t : State, exec (.abandon n) s = .next t ∧ Ended n stNoBuild 0 0 [] s t ∧ t = { s with quay := { s.quay with cmds := t.quay.cmds } }) ∧
  (∀ (s : State) (n : Nat) (c : Cmd) (v : Model), Fetched n 0x52 c s → c.n = n → s.model c.object = some v → v.tenant
    = c.tenant → (v.towers ≤ (if v.trained then 8 else 64) * 10 ^ 9) → (s.towersOf c.object).sw = none →
    ∃ t : State, exec (.modelLoad n) s = .next t ∧ Ended n stSuccess (Config.freeChoice (s.fresh + 1) % 2 ^ 64) ((s.towersOf c.object).live + 1) [] s t ∧
          (t.towersOf c.object).next = some (c.payload.take c.len0) ∧ (t.towersOf c.object).live = (s.towersOf c.object).live ∧
          (t.towersOf c.object).recs.staging = GenRec.bytes ⟨3, c.object, (s.towersOf c.object).live + 1, 0, Config.freeChoice (s.fresh + 1) % 2 ^ 64, 0, s.freshRoot, 0⟩ ∧
          t.towersOf c.object = { s.towersOf c.object with next := (t.towersOf c.object).next, recs := { (s.towersOf c.object).recs with staging := (t.towersOf c.object).recs.staging } } ∧ (∀ j, j ≠ c.object → t.towersOf j = s.towersOf j) ∧
          t = { s with fresh := t.fresh, quay := { s.quay with cmds := t.quay.cmds }, coll := { s.coll with towers := t.coll.towers } }) ∧
  (∀ (s : State) (n st : Nat) (c : Cmd) (v : Model), Fetched n 0x52 c s → c.n = n → s.model c.object = some v →
    v.tenant = c.tenant → ((st = stCapacity ∧ (if v.trained then 8 else 64) * 10 ^ 9 < v.towers) ∨ (st = stGenBusy ∧
    v.towers ≤ (if v.trained then 8 else 64) * 10 ^ 9 ∧ (s.towersOf c.object).sw ≠ none)) →
    ∃ t : State, exec (.modelLoad n) s = .next t ∧ Ended n st 0 0 [] s t ∧ t = { s with quay := { s.quay with cmds := t.quay.cmds } }) ∧
  (∀ (s : State) (n st : Nat) (c : Cmd) (k : Coll), Fetched n 0x24 c s → c.n = n → s.collOf c.object = some k →
    k.tenant = c.tenant → k.dropped c.n = false → k.dropAt = none → bitAt c.flags 0 = false → ((st = stGenBusy ∧ k.sw
    ≠ none) ∨ (st = stNoBuild ∧ k.sw = none ∧ k.next = none)) →
    ∃ t : State, exec (.switch n) s = .next t ∧ Ended n st 0 0 [] s t ∧ t = { s with quay := { s.quay with cmds := t.quay.cmds } }) ∧
  (∀ (s : State) (n : Nat) (c : Cmd) (v : Model), Fetched n 0x24 c s → c.n = n → bitAt c.flags 0 = true → s.model
    c.object = some v → v.tenant = c.tenant → (s.towersOf c.object).sw = none → (s.towersOf c.object).next ≠ none →
    ∃ t : State, exec (.switch n) s = .next t ∧ t.quay.cmds = mapIf (·.n = n) (fun c => { c with st := .running }) s.quay.cmds ∧ t.towersOf c.object = { s.towersOf c.object with sw := some ⟨n, c.fld 40 8⟩ } ∧ (∀ j, j ≠ c.object → t.towersOf j = s.towersOf j) ∧
          t = { s with quay := { s.quay with cmds := t.quay.cmds }, coll := { s.coll with towers := t.coll.towers } }) ∧
  (∀ (s : State) (n : Nat) (c : Cmd) (k : Coll), Fetched n 0x24 c s → c.n = n → s.collOf c.object = some k → k.tenant
    = c.tenant → k.dropped c.n = false → k.dropAt = none → bitAt c.flags 0 = false → k.sw = none → k.next ≠ none →
    ∃ t : State, exec (.switch n) s = .next t ∧ t.quay.cmds = mapIf (·.n = n) (fun c => { c with st := .running }) s.quay.cmds ∧ t.collOf c.object = some { k with sw := some ⟨n, c.fld 40 8⟩ } ∧ (∀ j, j ≠ c.object → t.collOf j = s.collOf j) ∧
          t = { s with quay := { s.quay with cmds := t.quay.cmds }, coll := { s.coll with colls := t.coll.colls } }) ∧
  (∀ (s : State) (k : Nat) (torn : Bool) (v : Coll) (w : Switch), s.collOf k = some v → v.sw = some w → s.svcTime <
    w.time →
    exec (.switchTakesEffect false k torn) s = .next s) ∧
  (∀ (s : State) (k : Nat) (v : Coll) (w : Switch) (g : Gen) (a : GenRec), s.collOf k = some v → v.sw = some w →
    v.next = some g → w.time ≤ s.svcTime → s.quayUp = true → v.restoring = false → v.folds = [] → v.recs.liveRec =
    some a →
    ∃ t : State, exec (.switchTakesEffect false k false) s = .next t ∧ Ended w.cmd stSuccess g.base g.num [] s t ∧
          (t.collOf k).map (fun x => (x.live, x.next, x.sw, x.old)) = some (g, none, none, v.old ++ [(v.live, s.quay.nextCmd)]) ∧
          (let r := GenRec.bytes ⟨0, k, g.num, a.seq + 1, g.base, w.time, g.root, a.root⟩;
           (t.collOf k).map (fun x => (x.recs.a, x.recs.b, x.recs.staging)) = some (if v.recs.liveA then v.recs.a else r, if v.recs.liveA then r else v.recs.b, [])) ∧
          (∀ j, j ≠ k → t.collOf j = s.collOf j) ∧ t.mem = s.mem ∧ t.evt = s.evt ∧ t.regs = s.regs) ∧
  (∀ (s : State) (k : Nat) (v : Coll) (w : Switch) (g : Gen) (a : GenRec) (b : Bool), s.collOf k = some v → v.sw =
    some w → v.next = some g → w.time ≤ s.svcTime → s.pwr.phase = .flushing b → v.restoring = false → v.recs.liveRec =
    some a →
    ∃ t : State, exec (.switchTakesEffect false k true) s = .next t ∧
          (let r := (GenRec.bytes ⟨0, k, g.num, a.seq + 1, g.base, w.time, g.root, a.root⟩).take 64;
           t.collOf k = some { v with sw := none, recs := { v.recs with a := if v.recs.liveA then v.recs.a else r, b := if v.recs.liveA then r else v.recs.b } }) ∧
          (∀ j, j ≠ k → t.collOf j = s.collOf j) ∧ t = { s with coll := { s.coll with colls := t.coll.colls } }) ∧
  (∀ (s : State) (k : Nat) (w : Switch) (bs : List Byte) (st a : GenRec), (s.towersOf k).sw = some w → (s.towersOf
    k).next = some bs → (s.towersOf k).pub = false → recAt (s.towersOf k).recs.staging = some st → w.time ≤ s.svcTime
    → s.quayUp = true → (s.towersOf k).restoring = false → (s.towersOf k).recs.liveRec = some a →
    ∃ t : State, exec (.switchTakesEffect true k false) s = .next t ∧ Ended w.cmd stSuccess st.base st.gen [] s t ∧
          (t.towersOf k).live = st.gen ∧ (t.towersOf k).sets.getLast? = some (st.gen, bs) ∧ (t.towersOf k).next = none ∧ (t.towersOf k).sw = none ∧
          (∀ x ∈ (s.towersOf k).sets, (∃ c ∈ s.quay.cmds, c.op = 0x40 ∧ bitAt c.flags 2 = true ∧ c.fld 48 2 = k ∧ c.tgen = x.1) → x ∈ (t.towersOf k).sets) ∧
          (let r := GenRec.bytes ⟨1, k, st.gen, a.seq + 1, st.base, w.time, st.root, a.root⟩;
           (t.towersOf k).recs = { a := if (s.towersOf k).recs.liveA then (s.towersOf k).recs.a else r, b := if (s.towersOf k).recs.liveA then r else (s.towersOf k).recs.b }) ∧
          (∀ j, j ≠ k → t.towersOf j = s.towersOf j) ∧ t = { s with quay := { s.quay with cmds := t.quay.cmds }, coll := { s.coll with towers := t.coll.towers } }) ∧
  (∀ (s : State) (k : Nat) (v : Model), s.model k = some v → (s.towersOf k).pub = true → (s.towersOf k).next = none →
    s.quayUp = true → (s.towersOf k).restoring = false →
    ∃ t : State, exec (.switchTakesEffect true k false) s = .next t ∧ (t.towersOf k).live = (s.towersOf k).live + 1 ∧ (t.towersOf k).pub = false ∧
          (t.towersOf k).sets.getLast? = some ((s.towersOf k).live + 1, s.masters k v) ∧ (t.towersOf k).sw = (s.towersOf k).sw ∧
          (∀ j, j ≠ k → t.towersOf j = s.towersOf j) ∧ t = { s with fresh := t.fresh, coll := { s.coll with towers := t.coll.towers } }) ∧
  (∀ (s : State) (k i : Nat) (v : Coll) (g : Gen), s.collOf k = some v → v.old = [(g, i)] → (∀ c ∈ s.quay.cmds, c.op =
    0x40 → c.object = k → i ≤ c.n) →
    ∃ t : State, exec (.generationRelease k) s = .next t ∧ t.collOf k = some { v with old := [] } ∧ (∀ j, j ≠ k → t.collOf j = s.collOf j) ∧ t.quay = s.quay ∧ (g.store = [] → t.mem = s.mem) ∧
          (∀ x ∈ g.store, t.obj x.store = none) ∧
          (g.store = [] → RegsBut [.tnTier (4 * v.tenant), .tnTier (4 * v.tenant + 1), .tnTier (4 * v.tenant + 2), .tnTier (4 * v.tenant + 3)] s t)) ∧
  (∀ (s : State) (k i : Nat) (v : Coll) (g : Gen), s.collOf k = some v → v.old = [(g, i)] → ((s.queriesOf k).any (fun
    c => decide (c.n < i)) = true) →
    ∃ t : State, exec (.generationRelease k) s = .next t ∧ (∀ j, t.collOf j = s.collOf j) ∧ t.quay = s.quay ∧ t.mem = s.mem ∧ t.regs = s.regs) ∧
  (∀ (s : State) (n l : Nat) (c : Cmd) (k : Coll) (dest : Option Nat), Fetched n 0x14 c s → c.n = n → s.collOf
    c.object = some k → k.dropped c.n = false → l = c.fld 40 4 → (dest = (if bitAt c.flags 0 then some (c.fld 44 2)
    else none)) → l < dNcent k.live.desc → c.fld 44 2 ≤ 4095 → c.fld 46 1 ≤ 11 → s.placeBad k dest (c.fld 46 1) =
    false → (s.overQuota k.tenant (if dest.isSome then 1 else 0) (if dest.isSome = (k.live.bankOf l).isSome then 0
    else (k.live.vecs.filter fun v => v.list = l).length * (dSketch k.live.desc / 8 + ceilDiv (1 + dValues
    k.live.desc) 8)) = false) → ((s.moveAll k.tenant k.part k.live.desc dest (c.fld 46 1) (k.live.store.filter fun x
    => x.list = l)).isSome = true) → (twf (fun _ => (none : Option Nat)) k.live.bank = true) →
    ∃ t : State, exec (.listPlace n) s = .next t ∧ Ended n stSuccess 0 0 [] s t ∧ (t.collOf c.object).map (fun v => v.live.bankOf l) = some dest ∧
          (∀ j, j ≠ l → (t.collOf c.object).map (fun v => v.live.bankOf j) = some (k.live.bankOf j)) ∧
          (t.collOf c.object).map (fun v => v.live.vecs.map fun x => { x with cost := [] }) = some (k.live.vecs.map fun x => { x with cost := [] }) ∧
          (∀ j, j ≠ c.object → t.collOf j = s.collOf j) ∧
          ((∀ x ∈ k.live.vecs, x.list ≠ l) → (∀ x ∈ k.live.store, x.list ≠ l) → t = { s with quay := { s.quay with cmds := t.quay.cmds }, coll := { s.coll with colls := t.coll.colls } })) ∧
  (∀ (s : State) (n g : Nat) (c : Cmd) (k : Coll), Fetched n 0x14 c s → c.n = n → s.collOf c.object = some k →
    k.dropped c.n = false → g = c.fld 44 2 → c.fld 40 4 < dNcent k.live.desc → g ≤ 4095 → c.fld 46 1 ≤ 11 → ((bitAt
    c.flags 0 = true ∧ (dSketch k.live.desc = 1024 ∨ s.owner 4 g ≠ k.part)) ∨ (bitAt c.flags 0 = false ∧ ∀ i < 36,
    s.owner 2 (36 * c.fld 46 1 + i) ≠ k.part)) →
    ∃ t : State, exec (.listPlace n) s = .next t ∧ Ended n stPlacementRefused 0 0 [] s t ∧ t = { s with quay := { s.quay with cmds := t.quay.cmds } })

/-- A QUERY in form on its tenant's collection, and model, binds its task to the next qualifying instance and runs; out
of range it ends with INVALID_PARAMETER, with a short buffer BUFFER_SMALL, as a fifth audit AUDIT_BUSY, and without an
instance NO_PLAN. A query of an unsharded collection over all lists whose candidates may be all vectors, without filter,
ranking or audit, writes to its buffer a result with min(K, eligible) records, in which each eligible vector among the K
best by score and then identifier stands at its rank, with its identifier and score; then its completion with the read
point. The completion of a known result is the output, if any, and then one 32-byte entry at the next place of the
completion queue, whose phase turns at the end of the ring; a queue pair in ERROR gets neither, and a task past its
deadline raises DEADLINE_MISS. An audit's scan is noted. GET_LOG answers the records of a log from the number asked for,
a recovery table, or a table's sampled misses. Both copies of an unapplied entry lost loses the write, sets DLOST, and
owes its queue pair, if it is still the same, a DATA_LOST report; one copy is told by an event; a lost source takes its
vectors out, and a fold without room ends. -/
def Obligations.QueriesAndTheirCompletions : Prop :=
  (∀ (s : State) (n rp : Nat) (c : Cmd) (k : Coll) (i : Nat), Fetched n 0x40 c s → c.n = n → c.rp = some rp → s.collOf
    c.object = some k → k.tenant = c.tenant → k.dropped c.n = false → (qRank c = true → (s.model (qModel c)).any (fun
    m => decide (m.tenant = c.tenant)) = true) → (qParamsOk c k.live.desc (s.isV1 c) = true ∧ (qLocal c = true →
    s.sharded c.object = true) ∧ qBuffer c ≤ c.len1) → ((if qAudit c then (s.quay.cmds.filter fun d => d.op = 0x40 &&
    d.part = c.part && d.n ≠ n && qAudit d && d.inFlight n).length else 0) < 4) → (s.pickInst c.part (if qRank c then
    1 else 0) (if qRank c then qModel c else c.object) none = some i) →
    ∃ t : State, exec (.query n) s = .next t ∧ t.quay.cmds = mapIf (·.n = n) (fun c => { c with st := .running }) s.quay.cmds ∧
          t.ctl.waiting.dropLast = s.ctl.waiting ∧ (t.ctl.waiting.getLast?).map (fun w => (w.1, w.2.cmd, w.2.qp, w.2.cid, w.2.readPoint, w.2.started)) =
            some (i, n, c.qp, c.cid, rp, false) ∧ (t.ctl.waiting.getLast?).map (fun w => (w.2.deadline, w.2.gen, w.2.flags)) = some (if c.deadline = 0 then 0 else c.at_ + c.deadline * tickUs, c.gen, c.flags % 8) ∧
          (tgetO t.ctl.rot (2 * (if qRank c then qModel c else c.object) + if qRank c then 1 else 0)).join = some i ∧
          t = { s with fresh := t.fresh, quay := { s.quay with cmds := t.quay.cmds }, ctl := { s.ctl with waiting := t.ctl.waiting, rot := t.ctl.rot } }) ∧
  (∀ (s : State) (n rp : Nat) (c : Cmd) (k : Coll) (x : Nat), Fetched n 0x40 c s → c.n = n → c.rp = some rp → s.collOf
    c.object = some k → k.tenant = c.tenant → k.dropped c.n = false → qRank c = false → x = dNcent k.live.desc →
    (qProbe c = 0 ∨ 4096 < qProbe c ∨ x < qProbe c ∨ qCand c < 16 ∨ 65536 < qCand c ∨ qK c = 0 ∨ 4096 < qK c ∨ qCand c
    < qK c ∨ (c.deadline ≠ 0 ∧ (qRt c = false ∨ c.deadline < 10 ∨ 1000000 < c.deadline)) ∨ (qRt c = true ∧ qAudit c =
    true) ∨ c.len0 ≠ qBytes c k.live.desc ∨ (s.isV1 c = false ∧ filterOk c k.live.desc = false) ∨ (qLocal c = true ∧
    s.sharded c.object = false)) →
    ∃ t : State, exec (.query n) s = .next t ∧ Ended n stInvalidParameter 0 0 [] s t ∧ t = { s with quay := { s.quay with cmds := t.quay.cmds } }) ∧
  (∀ (s : State) (n rp : Nat) (c : Cmd) (k : Coll) (st : Nat), Fetched n 0x40 c s → c.n = n → c.rp = some rp →
    s.collOf c.object = some k → k.tenant = c.tenant → k.dropped c.n = false → (qRank c = true → (s.model (qModel
    c)).any (fun m => decide (m.tenant = c.tenant)) = true) → qParamsOk c k.live.desc (s.isV1 c) = true → (qLocal c =
    true → s.sharded c.object = true) → ((st = stBufferSmall ∧ c.len1 < qBuffer c) ∨ (st = stAuditBusy ∧ qBuffer c ≤
    c.len1 ∧ qAudit c = true ∧ 4 ≤ (s.quay.cmds.filter fun d => d.op = 0x40 && d.part = c.part && d.n ≠ n && qAudit d
    && d.inFlight n).length) ∨ (st = stNoPlan ∧ qBuffer c ≤ c.len1 ∧ ((if qAudit c then (s.quay.cmds.filter fun d =>
    d.op = 0x40 && d.part = c.part && d.n ≠ n && qAudit d && d.inFlight n).length else 0) < 4) ∧ ∀ i < 80, s.qualifies
    c.part (if qRank c then 1 else 0) (if qRank c then qModel c else c.object) i = false)) →
    ∃ t : State, exec (.query n) s = .next t ∧ Ended n st 0 0 [] s t ∧ t = { s with quay := { s.quay with cmds := t.quay.cmds } }) ∧
  (∀ (s : State) (n rp : Nat) (c : Cmd) (k : Coll) (st : Nat), Fetched n 0x40 c s → c.n = n → c.rp = some rp →
    s.collOf c.object = some k → k.tenant = c.tenant → k.dropped c.n = false → qRank c = true → ((st = stNoObject ∧
    s.model (qModel c) = none) ∨ (st = stNotOwner ∧ (s.model (qModel c)).any (fun m => decide (m.tenant ≠ c.tenant)) =
    true)) →
    ∃ t : State, exec (.query n) s = .next t ∧ Ended n st 0 0 [] s t ∧ t = { s with quay := { s.quay with cmds := t.quay.cmds } }) ∧
  (∀ (s : State) (n rp i : Nat) (m : Merge) (c : Cmd) (g : Gen), s.quayUp = true → s.flag .qStat Q_STAT_PLSTOP = false
    → s.cmd n = some c → c.n = n → c.op = 0x40 → c.st = .running → s.taskInst n = some i → s.genFor c = some g → c.rp
    = some rp → qAudit c = false → s.overdue c = false → qRank c = false → s.sharded c.object = false → (s.qp
    c.qp).mode = .active → (s.qp c.qp).delBy = none → s.qFilter c = ([], []) → qProbe c = dNcent g.desc →
    g.vecs.length ≤ qCand c → (∀ v ∈ g.vecs, v.list < dNcent g.desc) → (∀ v ∈ g.vecs, ∀ x ∈ v.dead, x ≤ rp) →
    (g.vecs.map Vec.id).Nodup → s.tier.failed = [] →
    ∃ t : State, exec (.taskCompletionPost n m) s = .next t ∧ t.outbox.length = s.outbox.length + 2 ∧ (written t s.outbox.length).1 = c.buf1 ∧
          leAt (written t s.outbox.length).2 2 2 = min (qK c) (g.vecs.filter fun v => decide (v.seq ≤ rp) && v.dead.isNone).length % 65536 ∧
          leAt (written t s.outbox.length).2 8 8 = rp % 2 ^ 64 ∧ leAt (written t s.outbox.length).2 16 4 = c.gen % 2 ^ 32 ∧ leAt (written t s.outbox.length).2 20 4 = c.gen % 2 ^ 32 ∧
          leAt (written t s.outbox.length).2 52 2 = 1 ∧ leAt (written t s.outbox.length).2 54 2 = 1 ∧ leAt (written t s.outbox.length).2 32 4 = dNcent g.desc ∧
          (let key (v : Vec) : Nat := scoreKey (dMetric g.desc) (score g.desc (copyVals g.desc (bytesAt c.payload 0 (dCopy g.desc))) (copyVals g.desc v.copy)).1;
           let rank (v : Vec) : Nat := (g.vecs.filter fun u => decide (u.seq ≤ rp) && u.dead.isNone && decide (key u < key v ∨ (key u = key v ∧ u.id < v.id))).length;
           ∀ v ∈ g.vecs, v.seq ≤ rp → v.dead = none → rank v < qK c →
             leAt (written t s.outbox.length).2 (64 + 16 * rank v) 8 = v.id % 2 ^ 64 ∧ leAt (written t s.outbox.length).2 (72 + 16 * rank v) 4 = (score g.desc (copyVals g.desc (bytesAt c.payload 0 (dCopy g.desc))) (copyVals g.desc v.copy)).1 % 2 ^ 32) ∧
          leAt (written t (s.outbox.length + 1)).2 0 8 = rp % 2 ^ 64 ∧ leAt (written t (s.outbox.length + 1)).2 16 2 = c.cid % 65536 ∧
          leAt (written t (s.outbox.length + 1)).2 28 2 = stSuccess ∧ t.cmd n = none ∧ t.mem = s.mem) ∧
  (∀ (s : State) (n st sp0 sp1 : Nat) (m : Merge) (c : Cmd) (out : List Byte) (q : QP), s.quayUp = true → s.flag
    .qStat Q_STAT_PLSTOP = false → s.cmd n = some c → c.st = .done st sp0 sp1 out → s.overdue c = false → q = s.qp
    c.qp → q.mode = .active → q.delBy = none → q.posted < q.cqDepth →
    ∃ t : State, exec (.taskCompletionPost n m) s = .next t ∧
          t.outbox = s.outbox ++ (if out = [] then [] else [Out.hostWrite c.buf1 out]) ++ [Out.hostWrite (q.cqBase + 32 * q.posted)
            (leBytes 8 sp0 ++ leBytes 4 sp1 ++ leBytes 2 q.fetch ++ leBytes 2 c.qp ++ leBytes 2 c.cid ++ leBytes 2 (q.defers.headD (0, 0)).1 ++
              leBytes 4 (q.defers.headD (0, 0)).2 ++ leBytes 4 0 ++ leBytes 2 st ++
              leBytes 2 ((if q.phase then 1 else 0) + (if 1 < q.defers.length then 2 else 0) + 4 * statusDnr st))] ∧
          t.quay.cmds = s.quay.cmds.filter (·.n ≠ n) ∧ (t.qp c.qp).posted = (q.posted + 1) % q.cqDepth ∧
          (t.qp c.qp).phase = (if q.posted + 1 = q.cqDepth then !q.phase else q.phase) ∧ (t.qp c.qp).defers = q.defers.drop 1 ∧
          (∀ k, k ≠ c.qp → t.qp k = s.qp k) ∧ t.quay.locks = s.quay.locks.filter (·.cmd ≠ n) ∧ t.mem = s.mem ∧ t.evt = s.evt ∧ RegsBut [.qStat] s t) ∧
  (∀ (s : State) (n st sp0 sp1 : Nat) (m : Merge) (c : Cmd) (out : List Byte), s.quayUp = true → s.flag .qStat
    Q_STAT_PLSTOP = false → s.cmd n = some c → c.st = .done st sp0 sp1 out → ((s.qp c.qp).mode = .error ∨ (s.qp
    c.qp).mode = .absent) → (s.qp c.qp).delBy = none →
    ∃ t : State, exec (.taskCompletionPost n m) s = .next t ∧ t.outbox = s.outbox ∧ t.quay.cmds = s.quay.cmds.filter (·.n ≠ n) ∧ t.evt = s.evt ∧ t.mem = s.mem) ∧
  (∀ (s : State) (n st sp0 sp1 : Nat) (m : Merge) (c : Cmd) (out : List Byte) (w : Nat × Nat × Nat × Nat), s.quayUp =
    true → s.flag .qStat Q_STAT_PLSTOP = false → s.cmd n = some c → c.n = n → c.st = .done st sp0 sp1 out → s.overdue
    c = true → (st = stSuccess ∨ st = stShardsUnavailable ∨ st = stTaskAborted ∨ st = stNoPlan) → (s.qp c.qp).mode =
    .active → (s.qp c.qp).delBy = none → s.ctl.missed.find? (·.1 = n) = some w →
    ∃ t : State, exec (.taskCompletionPost n m) s = .next t ∧ Raised c.part srcQuay 0x0409 (leBytes 2 c.qp ++ leBytes 4 c.cid ++ leBytes 2 w.2.1 ++ leBytes 4 (min ((s.svcTime - c.at_) / tickUs) (2 ^ 32 - 1) - c.deadline) ++ leBytes 1 w.2.2.1 ++ leBytes 1 w.2.2.2) s t ∧
          t.ctl.missed = s.ctl.missed.filter (·.1 ≠ n) ∧ t.quay.cmds = s.quay.cmds.filter (·.n ≠ n) ∧ t.mem = s.mem) ∧
  (∀ (s : State) (n : Nat) (c : Cmd), s.cmd n = some c → c.op = 0x40 → qAudit c = true → (s.taskInst n).isSome = true
    → n ∉ s.coll.audits →
    ∃ t : State, exec (.auditScan n) s = .next t ∧ t = { s with coll := { s.coll with audits := s.coll.audits ++ [n] } }) ∧
  (∀ (s : State) (n p old from_ : Nat) (c : Cmd) (rs : List LogRec), Fetched n 0x03 c s → c.n = n → c.fld 40 1 = 0 → p
    = c.fld 41 1 → p ≤ 64 → c.fld 42 3 = 0 → old = s.fld (.evqLsn p) EVQ_LSN_LSN - (s.log p).length → from_ = max old
    (c.fld 48 8) → rs = ((s.log p).drop (from_ - old)).take (c.len1 / 32) →
    ∃ t : State, exec (.getLog n) s = .next t ∧ Ended n stSuccess (from_ + rs.length) (rs.length + if c.fld 48 8 < old then 2 ^ 31 else 0) (rs.flatMap fun r =>
            leBytes 2 r.ev.src ++ leBytes 2 r.ev.code ++ leBytes 4 r.ev.seq ++ leBytes 8 r.ev.time ++ bytesAt r.ev.data 0 16) s t ∧ t = { s with quay := { s.quay with cmds := t.quay.cmds } }) ∧
  (∀ (s : State) (n p : Nat) (c : Cmd), Fetched n 0x03 c s → c.n = n → c.fld 40 1 = 1 → p = c.fld 41 1 → p ≤ 63 →
    c.fld 42 3 = 0 → c.fld 48 8 = 0 →
    ∃ t : State, exec (.getLog n) s = .next t ∧ Ended n stSuccess (tgetD 0 s.quay.seals p) ((tgetD [] s.quay.recTables p).take (c.len1 / 16)).length
            (((tgetD [] s.quay.recTables p).take (c.len1 / 16)).flatMap fun r => leBytes 2 r.qp ++ leBytes 2 r.cid ++ leBytes 4 0 ++ leBytes 8 r.seq) s t ∧ t = { s with quay := { s.quay with cmds := t.quay.cmds } }) ∧
  (∀ (s : State) (n : Nat) (c : Cmd) (tb : Table), Fetched n 0x03 c s → c.n = n → c.fld 40 1 = 2 → c.fld 48 8 = 0 →
    s.table (c.fld 44 1) (c.fld 42 2) = some tb →
    ∃ t : State, exec (.getLog n) s = .next t ∧ Ended n stSuccess tb.sampled ((tb.ring.take (c.len1 / 8)).length + if tb.overwritten then 2 ^ 31 else 0)
            ((tb.ring.take (c.len1 / 8)).flatMap fun r => leBytes 8 (r.1 % 2 ^ 40 + r.2 * 2 ^ 40)) s t ∧
          t.table (c.fld 44 1) (c.fld 42 2) = some { tb with ring := [], overwritten := false } ∧ (∀ j l, (j ≠ c.fld 44 1 ∨ l ≠ c.fld 42 2) → t.table j l = s.table j l) ∧
          t = { s with quay := { s.quay with cmds := t.quay.cmds }, rank := { s.rank with tables := t.rank.tables } }) ∧
  (∀ (s : State) (n : Nat) (c : Cmd), Fetched n 0x03 c s → c.n = n → ((c.fld 40 1 = 0 ∧ (64 < c.fld 41 1 ∨ c.fld 42 3
    ≠ 0)) ∨ (c.fld 40 1 = 1 ∧ (63 < c.fld 41 1 ∨ c.fld 42 3 ≠ 0 ∨ c.fld 48 8 ≠ 0)) ∨ (c.fld 40 1 = 2 ∧ c.fld 48 8 ≠ 0)
    ∨ 2 < c.fld 40 1) →
    ∃ t : State, exec (.getLog n) s = .next t ∧ Ended n stInvalidParameter 0 0 [] s t ∧ t = { s with quay := { s.quay with cmds := t.quay.cmds } }) ∧
  (∀ (s : State) (p seq k l : Nat) (e : DEntry) (xs : List Nat), RegsOk s → s.quayUp = true → (s.cpart
    p).entries.find? (·.seq = seq) = some e → e.durable = true → e.lost = false → e.applied = false → (s.qp e.qp).born
    ≤ e.cmd → (s.qp e.qp).mode = .active →
    ∃ t : State, exec (.deferred 1 p seq k l xs) s = .next t ∧ (t.cpart p).entries = mapIf (·.seq = seq) (fun x => { x with lost := true }) (s.cpart p).entries ∧
          t.flag (.cmPstat p) CM_PSTAT_DLOST = true ∧ (t.qp e.qp).defers.map (·.1) = (s.qp e.qp).defers.map (·.1) ++ [stDataLost] ∧
          (∀ j, j ≠ e.qp → t.qp j = s.qp j) ∧ (∀ j, j ≠ p → t.cpart j = s.cpart j) ∧ t.coll.colls = s.coll.colls ∧ t.mem = s.mem ∧ t.quay.cmds = s.quay.cmds) ∧
  (∀ (s : State) (p seq k l : Nat) (e : DEntry) (xs : List Nat), RegsOk s → s.quayUp = true → (s.cpart
    p).entries.find? (·.seq = seq) = some e → e.durable = true → e.lost = false → e.applied = false → (e.cmd < (s.qp
    e.qp).born ∨ (s.qp e.qp).mode = .absent ∨ (s.qp e.qp).mode = .error) →
    ∃ t : State, exec (.deferred 1 p seq k l xs) s = .next t ∧ (t.cpart p).entries = mapIf (·.seq = seq) (fun x => { x with lost := true }) (s.cpart p).entries ∧
          t.flag (.cmPstat p) CM_PSTAT_DLOST = true ∧ (∀ j, t.qp j = s.qp j) ∧ (∀ j, j ≠ p → t.cpart j = s.cpart j) ∧ t.coll.colls = s.coll.colls ∧ t.mem = s.mem ∧ t.quay.cmds = s.quay.cmds) ∧
  (∀ (s : State) (kind p seq k l : Nat) (e : DEntry) (xs : List Nat), s.quayUp = true → (s.cpart p).entries.find?
    (·.seq = seq) = some e → e.durable = true → e.lost = false → ((kind = 0 ∧ e.applied = false) ∨ (kind = 2 ∧
    e.applied = true ∧ e.destaged = false)) →
    exec (.deferred kind p seq k l xs) s = .next (s.failRec p e.obj seq kind)) ∧
  (∀ (s : State) (p seq k l : Nat) (v : Coll) (xs : List Nat), s.quayUp = true → s.collOf k = some v →
    ((v.live.vecs.filter fun x => xs.contains x.id && x.dead.isNone) ≠ []) → (v.folds ≠ [] ∨ v.build.isSome = true) →
    RegsOk s → v.part < 64 →
    ∃ t : State, exec (.deferred 3 p seq k l xs) s = .next t ∧ t.collOf k = some { v with live := { v.live with vecs := v.live.vecs.filter fun x => !((v.live.vecs.filter fun y => xs.contains y.id && y.dead.isNone).contains x) } } ∧
          (∀ j, j ≠ k → t.collOf j = s.collOf j) ∧ t.flag (.cmPstat v.part) CM_PSTAT_DLOST = true ∧ t.quay.cmds = s.quay.cmds ∧ t.mem = s.mem) ∧
  (∀ (s : State) (p seq k l : Nat) (v : Coll) (xs : List Nat), s.quayUp = true → s.collOf k = some v → v.folds.any
    (·.list = l) = true →
    ∃ t : State, exec (.deferred 4 p seq k l xs) s = .next t ∧ t.collOf k = some { v with folds := dropFirst (fun x => x.list = l && x.cmd.isNone) v.folds } ∧ (∀ j, j ≠ k → t.collOf j = s.collOf j) ∧
          t.evt = (s.failRec v.part k l 4).evt ∧ t.regs = (s.failRec v.part k l 4).regs ∧ t.quay = s.quay ∧ t.mem = s.mem)

/-- Carrying an abort of a loaded instance through gives the instance, and each of its quads, the old role epoch plus 1,
and 1 after 65,535. -/
def Obligations.EveryAbortAdvancesTheEpoch : Prop :=
  ∀ (s : State) (i : Nat) (task : Option Nat) (a : AbortReq) (v : Inst), RegsOk s → i < 80 → s.ctl.aborting.find?
    (·.inst = i) = some a → s.inst i = some v → (∀ q ∈ v.quads, q < 80) →
    ∃ t : State, exec (.instanceAbort i task) s = .next t ∧
          t.fld (.schInst i) SCH_INST_EPOCH = (if s.fld (.schInst i) SCH_INST_EPOCH = 65535 then 1 else s.fld (.schInst i) SCH_INST_EPOCH + 1) ∧
          (∀ q ∈ v.quads, t.fld (.schQuad q) SCH_QUAD_EPOCH = t.fld (.schInst i) SCH_INST_EPOCH)

/-- A GO while the loader rests takes the addresses, partition and epoch and sets BUSY; while BUSY it waits. A load
whose partition is not ON fails with ERR 0x09 and loads nothing; one whose image, binding, epoch, number and space are
good makes the instance on exactly its quads, RUN, and says DONE. An unload waits for the last task, and then frees
every quad and the number. An abort of an instance without tasks reloads the semaphores of its quads from the plan, puts
their threads at their first instruction, and ends ABORTING; the faulting task ends with TASK_ABORTED. A start record is
written only to a free slot below the limit: it holds the task, queue pair, slot, command identifier and read point, and
STARTSEM is signalled. A real-time task is noted at its deadline, with the cause of the stream of its instance that
waits longest, or 0xE for none, or 0xF while no plan has started it. -/
def Obligations.InstancesTasksAndAborts : Prop :=
  (∀ (s : State) (p e : Nat), RegsOk s → s.pwrGood = true → s.flag .schLdstat SCH_LDSTAT_BUSY = false →
    ∃ t : State, exec (.schLoadGo p e) s = .next t ∧ t.flag .schLdstat SCH_LDSTAT_BUSY = true ∧ t.flag .schLdctl SCH_LDCTL_GO = false ∧
          t.ctl.load = some { image := s.fld .schLoad SCH_LOAD_ADDR, bind := s.fld .schBind SCH_BIND_ADDR, part := p % 64, epoch := e % 65536 } ∧
          RegsBut [.schLdctl, .schLdstat] s t ∧ t = { s with regs := t.regs, ctl := { s.ctl with load := t.ctl.load } }) ∧
  (∀ (s : State) (p e : Nat), RegsOk s → s.pwrGood = true → s.flag .schLdstat SCH_LDSTAT_BUSY = true →
    ∃ t : State, exec (.schLoadGo p e) s = .next t ∧ t.flag .schLdctl SCH_LDCTL_GO = true ∧ RegsBut [.schLdctl] s t ∧ t = { s with regs := t.regs }) ∧
  (∀ (s : State) (l : LoadReq), RegsOk s → s.ctl.load = some l → s.partOn l.part = false → s.flag .schLdctl
    SCH_LDCTL_GO = false → s.flag .schLdctl SCH_LDCTL_UNLOAD = false →
    ∃ t : State, exec .schLoadDone s = .next t ∧ t.flag .schLdstat SCH_LDSTAT_BUSY = false ∧ t.flag .schLdstat SCH_LDSTAT_FAIL = true ∧ t.fld .schLdstat SCH_LDSTAT_ERR = 0x09 ∧ RegsBut [.schLdstat] s t ∧
          t = { s with regs := t.regs, ctl := { s.ctl with load := none } }) ∧
  (∀ (s : State) (l : LoadReq) (i nq : Nat) (img : List Byte) (qs : List Nat), RegsOk s → s.ctl.load = some l →
    s.partOn l.part = true → s.tier.failed = [] → (∀ k < 12, s.fld (.memHstat k) MEM_HSTAT_CHFAIL = 0) → l.image < 12
    * hbmSize → l.bind < 12 * hbmSize → img = s.rd l.image (pImglen (s.rd l.image 128)) → s.ownsRange l.part l.image
    128 = true → s.ownsRange l.part l.image (pImglen img) = true → l.image + pImglen img ≤ 12 * hbmSize → l.bind + 2 *
    pNquad img ≤ 12 * hbmSize → s.imageErr img = none → nq = pNquad img → (qs = (List.range nq).map (fun k => s.rdLE
    (l.bind + 2 * k) 2)) → s.ownsRange l.part l.bind (2 * nq) = true → s.bindOk img l.part qs = true → l.epoch ≠ 0 →
    (pickFree (Config.freeChoice s.fresh) 80 ((List.range 80).filter fun k => (s.inst k).isSome) = some i) →
    (s.placeScheds qs ((List.range (schRows img).length).zip (schRows img)) []).isSome = true → s.flag .schLdctl
    SCH_LDCTL_GO = false → s.flag .schLdctl SCH_LDCTL_UNLOAD = false →
    ∃ t : State, exec .schLoadDone s = .next t ∧ t.flag .schLdstat SCH_LDSTAT_BUSY = false ∧ t.flag .schLdstat SCH_LDSTAT_DONE = true ∧ t.fld .schLdstat SCH_LDSTAT_INST = i ∧ i < 80 ∧
          (t.inst i).map (fun v => (v.part, v.kind, v.object, v.limit, v.quads, v.tasks)) =
            some (l.part, pKind img, pObject img % 2 ^ 32, pInflight img, qs, []) ∧
          (∀ q ∈ qs, t.quadInst q = some i) ∧ t.flag (.schInst i) SCH_INST_RUN = true ∧ t.fld (.schInst i) SCH_INST_EPOCH = l.epoch % 65536 ∧
          (∀ j, j ≠ i → t.inst j = s.inst j) ∧ t.ctl.load = none ∧ t.evt = s.evt) ∧
  (∀ (s : State) (i : Nat) (v : Inst), RegsOk s → s.pwrGood = true → i < 80 → s.inst i = some v → s.flag .schLdstat
    SCH_LDSTAT_BUSY = false → s.flag .schLdctl SCH_LDCTL_GO = false → (∀ w ∈ s.ctl.waiting, w.1 ≠ i) →
    ∃ t : State, exec (.schUnload i) s = .next t ∧ t.flag .schLdstat SCH_LDSTAT_BUSY = true ∧ t.inst i = some { v with unloading := true } ∧ (∀ j, j ≠ i → t.inst j = s.inst j) ∧ t.ctl.unload = some i ∧
          RegsBut [.schLdctl, .schLdstat] s t ∧ t.ctl.waiting = s.ctl.waiting ∧ t.mem = s.mem) ∧
  (∀ (s : State) (i : Nat) (v : Inst), RegsOk s → s.ctl.unload = some i → i < 80 → s.inst i = some v → (twf (fun _ =>
    (none : Option Inst)) s.ctl.insts = true) → v.tasks = [] → (∀ q ∈ v.quads, q < 80) → s.flag (.schInst i)
    SCH_INST_ABORTING = false → s.flag .schLdctl SCH_LDCTL_GO = false → s.flag .schLdctl SCH_LDCTL_UNLOAD = false →
    ∃ t : State, exec .unloadComplete s = .next t ∧ t.inst i = none ∧ (∀ j, j ≠ i → t.inst j = s.inst j) ∧ (∀ q ∈ v.quads, t.quadInst q = none) ∧
          t.flag (.schInst i) SCH_INST_RUN = false ∧ t.flag .schLdstat SCH_LDSTAT_BUSY = false ∧ t.flag .schLdstat SCH_LDSTAT_DONE = true ∧ t.ctl.unload = none ∧ t.evt = s.evt) ∧
  (∀ (s : State) (i : Nat) (v : Inst), s.ctl.unload = some i → s.inst i = some v → v.tasks ≠ [] →
    exec .unloadComplete s = .next s) ∧
  (∀ (s : State) (i q : Nat) (task : Option Nat) (a : AbortReq) (v : Inst), RegsOk s → i < 80 → q < 80 →
    s.ctl.aborting.find? (·.inst = i) = some a → s.inst i = some v → v.quads = [q] → (twf (fun _ => (none : Option
    SuSlot)) s.eng.slots = true) → v.tasks = [] → v.kind ≠ 2 →
    ∃ t : State, exec (.instanceAbort i task) s = .next t ∧ (∀ j < 256, t.sem q j = v.seminit.getD j 0 % 65536) ∧
          (∀ u < 16, ∀ k < 16, t.thread q u k = (s.thread q u k).map fun th => { base := th.base, ninstr := th.ninstr }) ∧ (∀ k < 8, t.slot q k = none) ∧
          t.flag (.schInst i) SCH_INST_ABORTING = false ∧ t.ctl.aborting = s.ctl.aborting.filter (·.inst ≠ i) ∧ t.inst i = some v ∧ t.quay = s.quay) ∧
  (∀ (s : State) (i : Nat) (a : AbortReq) (v : Inst) (tk : Task), RegsOk s → i < 80 → s.ctl.aborting.find? (·.inst =
    i) = some a → s.inst i = some v → v.tasks = [tk] → tk.started = true → v.kind ≠ 2 →
    ∃ t : State, exec (.instanceAbort i (some tk.task)) s = .next t ∧ Ended tk.cmd stTaskAborted 0 0 [] s t ∧ (t.inst i).map Inst.tasks = some [] ∧
          t.flag (.schInst i) SCH_INST_ABORTING = false ∧ t.fld (.schInst i) SCH_INST_INFLIGHT = 0) ∧
  (∀ (s : State) (i q : Nat) (v : Inst) (w : Nat × Task), Canonical s → i < 80 → q < 80 → s.inst i = some v →
    v.quads.head? = some q → s.ctl.waiting.find? (·.1 = i) = some w → s.quayUp = true → v.unloading = false → s.flag
    (.schInst i) SCH_INST_ABORTING = false → (∀ x ∈ v.tasks, x.started = true → x.task % 16 ≠ v.nextTask % 16) →
    v.started.length < v.limit → v.tring + 1024 ≤ spSize → v.startsem < 256 → s.sem q v.startsem < 0xFFFF → s.fld
    (.pwrQuad q) PWR_QUAD_STATE = 0 → (∀ b < 64, s.bankSt (q / 4) b = 0) → s.net.onWipe = [] →
    ∃ t : State, exec (.startRecordWrite i) s = .next t ∧
          (let a := spadAt q (v.tring + 64 * (v.nextTask % 16));
           t.rdLE a 4 = v.nextTask % 2 ^ 32 ∧ t.rdLE (a + 4) 2 = w.2.qp % 65536 ∧ t.rdLE (a + 6) 2 = v.nextTask % 16 ∧ t.rdLE (a + 8) 4 = w.2.cid % 2 ^ 32 ∧
           t.rdLE (a + 16) 8 = w.2.readPoint % 2 ^ 64 ∧ t.rdLE (a + 24) 4 = w.2.gen % 2 ^ 32 ∧ t.rdLE (a + 28) 4 = w.2.flags % 8 ∧ t.rdLE (a + 32) 8 = w.2.entry % 2 ^ 64 ∧ t.rdLE (a + 40) 8 = w.2.deadline % 2 ^ 64 ∧ MemBut a 64 s t) ∧
          t.sem q v.startsem = s.sem q v.startsem + 1 ∧
          (t.inst i).map Inst.tasks = some (v.tasks ++ [{ w.2 with task := v.nextTask, started := true }]) ∧
          t.ctl.waiting = dropFirst (· = w) s.ctl.waiting ∧ RegsBut [semReg q v.startsem, .schInst i] s t ∧ t.quay = s.quay ∧ t.evt = s.evt) ∧
  (∀ (s : State) (n : Nat) (w : Nat × Task), (s.ctl.waiting.find? (fun w => w.2.cmd = n && bitAt w.2.flags 0 && decide
    (w.2.deadline ≠ 0) && decide (w.2.deadline ≤ s.svcTime)) = some w) →
    ∃ t : State, exec (.deadlineTick n) s = .next t ∧
          t = { s with ctl := { s.ctl with missed := s.ctl.missed.filter (·.1 ≠ n) ++ [(n, 0x1FFF, 0xF, w.1)] } }) ∧
  (∀ (s : State) (n i k : Nat) (v : Inst), (s.ctl.waiting.find? (fun w => w.2.cmd = n && bitAt w.2.flags 0 && decide
    (w.2.deadline ≠ 0) && decide (w.2.deadline ≤ s.svcTime)) = none) → i < 80 → s.inst i = some v → (v.tasks.any (fun
    w => w.cmd = n && bitAt w.flags 0 && decide (w.deadline ≠ 0) && decide (w.deadline ≤ s.svcTime)) = true) → (∀ j <
    i, (s.inst j).all (fun v => !(v.tasks.any (fun w => w.cmd = n && bitAt w.flags 0 && decide (w.deadline ≠ 0) &&
    decide (w.deadline ≤ s.svcTime)))) = true) → k / 64 ∈ v.quads → s.fld (.frySwait k) FRY_SWAIT_CAUSE ≠ 0 → (∀ q ∈
    v.quads, ∀ j < 64, s.fld (.frySwait (64 * q + j)) FRY_SWAIT_CAUSE ≠ 0 → (s.fld (.frySwait k) FRY_SWAIT_SINCE <
    s.fld (.frySwait (64 * q + j)) FRY_SWAIT_SINCE ∨ (s.fld (.frySwait k) FRY_SWAIT_SINCE = s.fld (.frySwait (64 * q +
    j)) FRY_SWAIT_SINCE ∧ k ≤ 64 * q + j))) →
    ∃ t : State, exec (.deadlineTick n) s = .next t ∧
          t = { s with ctl := { s.ctl with missed := s.ctl.missed.filter (·.1 ≠ n) ++ [(n, k, s.fld (.frySwait k) FRY_SWAIT_CAUSE, i)] } }) ∧
  (∀ (s : State) (n i : Nat) (v : Inst), (s.ctl.waiting.find? (fun w => w.2.cmd = n && bitAt w.2.flags 0 && decide
    (w.2.deadline ≠ 0) && decide (w.2.deadline ≤ s.svcTime)) = none) → i < 80 → s.inst i = some v → (v.tasks.any (fun
    w => w.cmd = n && bitAt w.flags 0 && decide (w.deadline ≠ 0) && decide (w.deadline ≤ s.svcTime)) = true) → (∀ j <
    i, (s.inst j).all (fun v => !(v.tasks.any (fun w => w.cmd = n && bitAt w.flags 0 && decide (w.deadline ≠ 0) &&
    decide (w.deadline ≤ s.svcTime)))) = true) → (∀ q ∈ v.quads, ∀ j < 64, s.fld (.frySwait (64 * q + j))
    FRY_SWAIT_CAUSE = 0) →
    ∃ t : State, exec (.deadlineTick n) s = .next t ∧
          t = { s with ctl := { s.ctl with missed := s.ctl.missed.filter (·.1 ≠ n) ++ [(n, 0x1FFF, 0xE, i)] } })

/-- Training that finds 2 good lanes or more takes the rate of its partner and a spare lane and leaves WIDTH 1 until
HELLO; with fewer the port is FAILED with its event. HELLO after flit lock gives the width of the good lanes, the
partner's port and number, and sends the module's own where a credit and the replay buffer let it go; on a port that is
UP it names the partner anew. Two UP ports with one number and different UIDs are duplicates. A lane failure uses the
spare, or trains again at a lower width, or fails the port. PORT_DOWN sends what was not acknowledged by the alternate
route. EN and FABRIC_DRAIN, of one L-die or all, drain and train ports. A flit in sequence is acknowledged, its credits
return and its message lands; a bad or out-of-sequence one is answered NAK; a message that waits goes when its credit
returns; a NAK sends the held flits again, and more than 64 in 1 ms train the port again. LEAVE takes the partner's
ports out of the choice. -/
def Obligations.PortsAndFlits : Prop :=
  (∀ (s : State) (p good : Nat) (slow : Bool), RegsOk s → PortsOk s → p < 16 → 2 ≤ good → (s.port p).trains = true →
    s.flag (.abPort p) AB_PORT_EN = true → s.portUp p = false → s.pwr.phase = .up → s.linkGone p = false → (12 ≤ p →
    (tgetD ({} : Cage) s.hw.cages p).present = true ∧ (tgetD ({} : Cage) s.hw.cages p).lowPower = false) →
    ∃ t : State, exec (.portTraining p good slow) s = .next t ∧ t.fld (.abPort p) AB_PORT_WIDTH = 1 ∧ t.flag (.abPort p) AB_PORT_RATE = slow ∧ t.flag (.abPort p) AB_PORT_PEER2 = slow ∧
          t.flag (.abPort p) AB_PORT_PRES = true ∧ t.flag (.abPort p) AB_PORT_SPARE = decide (p < 12 ∧ good = 8) ∧
          t.port p = { good := min good (if p < 12 then 9 else 8), trains := true, locked := true } ∧ (∀ r, r ≠ p → t.port r = s.port r) ∧ RegsBut [.abPort p] s t ∧
          t = { s with regs := t.regs, fab := t.fab }) ∧
  (∀ (s : State) (p good : Nat) (slow : Bool), RegsOk s → PortsOk s → p < 16 → good < 2 → (s.port p).trains = true →
    s.flag (.abPort p) AB_PORT_EN = true → s.portUp p = false → s.pwr.phase = .up → s.linkGone p = false → (12 ≤ p →
    (tgetD ({} : Cage) s.hw.cages p).present = true ∧ (tgetD ({} : Cage) s.hw.cages p).lowPower = false) →
    ∃ t : State, exec (.portTraining p good slow) s = .next t ∧ t.fld (.abPort p) AB_PORT_WIDTH = 6 ∧ t.port p = { s.port p with good := good, trains := false } ∧ (∀ r, r ≠ p → t.port r = s.port r) ∧
          Raised modLog (srcPort p) 0x0802 (leBytes 1 p) s t ∧ RegsBut [.abPort p, .glbInt] s t) ∧
  (∀ (s : State) (p pp m uid : Nat), RegsOk s → PortsOk s → p < 16 → s.linkGone p = false → (s.port p).locked = true →
    (s.port p).wait = [] → tgetD 0 (s.port p).sent 8 < 32 → (s.port p).replay.length < 1024 →
    ∃ t : State, exec (.hello p pp m uid) s = .next t ∧ t.fld (.abPort p) AB_PORT_WIDTH = widthOf (s.port p).good ∧ t.fld (.abPort p) AB_PORT_PEERMOD = m % 4096 ∧
          t.fld (.abPort p) AB_PORT_PPORT = pp % 16 ∧ (t.port p).peerUid = some (uid % 2 ^ 64) ∧ (t.port p).locked = false ∧ (t.port p).trains = false ∧
          t.outbox = s.outbox ++ [Out.link p {
            mtype := 0x30, vc := 4, src := s.modNum, dst := m % 4096, srcid := srcL (p / 4), len := 32,
            data := (s.mgtData 0 0 0 0 0).set 1 (BitVec.ofNat 8 p) }] ∧
          Raised modLog (srcPort p) 0x0801 (leBytes 1 p) s t ∧ RegsBut [.abPort p] s t ∧ (∀ r, r ≠ p → { t.port r with dup := false } = { s.port r with dup := false })) ∧
  (∀ (s : State) (p pp m uid : Nat), RegsOk s → PortsOk s → p < 16 → s.linkGone p = false → (s.port p).locked = false
    → s.portUp p = true →
    ∃ t : State, exec (.hello p pp m uid) s = .next t ∧ t.fld (.abPort p) AB_PORT_PEERMOD = m % 4096 ∧ t.fld (.abPort p) AB_PORT_PPORT = pp % 16 ∧
          (t.port p).peerUid = some (uid % 2 ^ 64) ∧ (t.port p).left = false ∧ t.fld (.abPort p) AB_PORT_WIDTH = s.fld (.abPort p) AB_PORT_WIDTH ∧ RegsBut [.abPort p] s t ∧
          (∀ r, r ≠ p → { t.port r with dup := false } = { s.port r with dup := false }) ∧ t = { s with regs := t.regs, fab := t.fab }) ∧
  (∀ (s : State) (p r : Nat), PortsOk s → p < 16 → r < 16 → s.dupOf p r = true → ((s.port p).dup = false ∨ (s.port
    r).dup = false) →
    ∃ t : State, exec (.abDupid p r) s = .next t ∧ (t.port p).dup = true ∧ (t.port r).dup = true ∧ (∀ k, k ≠ p → k ≠ r → t.port k = s.port k) ∧
          Raised modLog (srcPort p) 0x0808 (leBytes 1 p ++ leBytes 1 r) s t ∧ t.regs = s.regs) ∧
  (∀ (s : State) (p : Nat), RegsOk s → p < 16 → (s.port p).trains = true → (s.port p).locked = false → s.flag (.abPort
    p) AB_PORT_EN = true → s.linkGone p = false →
    ∃ t : State, exec (.trainingTimeout p) s = .next t ∧ t.fld (.abPortc p) AB_PORTC_RETRAIN = satAdd 65535 (s.fld (.abPortc p) AB_PORTC_RETRAIN) 1 ∧ t.fld (.abPort p) AB_PORT_WIDTH = 1 ∧
          RegsBut [.abPortc p, .abPort p] s t ∧ t = { s with regs := t.regs }) ∧
  (∀ (s : State) (p : Nat), RegsOk s → PortsOk s → p < 16 → s.portUp p = true → (s.port p).good = 9 →
    ∃ t : State, exec (.laneFailure p) s = .next t ∧ t.flag (.abPort p) AB_PORT_SPARE = true ∧ t.fld (.abPort p) AB_PORT_WIDTH = s.fld (.abPort p) AB_PORT_WIDTH ∧ t.port p = { s.port p with good := 8 } ∧ (∀ r, r ≠ p → t.port r = s.port r) ∧
          Raised modLog (srcPort p) 0x0803 (leBytes 1 p) s t ∧ RegsBut [.abPort p] s t ∧ t.outbox = s.outbox) ∧
  (∀ (s : State) (p : Nat), PortsOk s → p < 16 → s.portUp p = true → (s.port p).good ≠ 9 → widthOf ((s.port p).good -
    1) = widthOf (s.port p).good →
    ∃ t : State, exec (.laneFailure p) s = .next t ∧ t.port p = { s.port p with good := (s.port p).good - 1 } ∧ (∀ r, r ≠ p → t.port r = s.port r) ∧ t = { s with fab := t.fab }) ∧
  (∀ (s : State) (p : Nat), RegsOk s → PortsOk s → p < 16 → s.portUp p = true → (s.port p).good ≠ 9 → widthOf ((s.port
    p).good - 1) ≠ widthOf (s.port p).good → widthOf ((s.port p).good - 1) ≠ 6 → (s.fld .svcSync SVC_SYNC_PORT ≠ p ∨
    s.flag .svcSync SVC_SYNC_MASTER = true) →
    ∃ t : State, exec (.laneFailure p) s = .next t ∧ t.fld (.abPort p) AB_PORT_WIDTH = 1 ∧ t.fld (.abPortc p) AB_PORTC_RETRAIN = satAdd 65535 (s.fld (.abPortc p) AB_PORTC_RETRAIN) 1 ∧
          t.port p = { good := (s.port p).good - 1, trains := true } ∧ Raised modLog (srcPort p) 0x0803 (leBytes 1 p) s t) ∧
  (∀ (s : State) (p : Nat), RegsOk s → PortsOk s → p < 16 → s.portUp p = true → widthOf ((s.port p).good - 1) = 6 →
    widthOf (s.port p).good ≠ 6 → (s.fld .svcSync SVC_SYNC_PORT ≠ p ∨ s.flag .svcSync SVC_SYNC_MASTER = true) →
    ∃ t : State, exec (.laneFailure p) s = .next t ∧ t.fld (.abPort p) AB_PORT_WIDTH = 6 ∧ t.flag (.abPort p) AB_PORT_DOWNEV = true ∧
          t.port p = { good := (s.port p).good - 1, trains := false } ∧ Raised modLog (srcPort p) 0x0802 (leBytes 1 p) s t) ∧
  (∀ (s : State) (p : Nat), RegsOk s → PortsOk s → p < 16 → s.fld (.abPort p) AB_PORT_WIDTH ≠ 0 → s.fld (.abPort p)
    AB_PORT_WIDTH ≠ 6 → (s.fld .svcSync SVC_SYNC_PORT ≠ p ∨ s.flag .svcSync SVC_SYNC_MASTER = true) →
    ∃ t : State, exec (.portDown p) s = .next t ∧ t.fld (.abPort p) AB_PORT_WIDTH = 0 ∧ t.flag (.abPort p) AB_PORT_DOWNEV = true ∧ t.port p = { good := (s.port p).good, trains := false } ∧
          (∀ r < 16, r ≠ p → t.portUp r = s.portUp r) ∧ Raised modLog (srcPort p) 0x0802 (leBytes 1 p) s t) ∧
  (∀ (s : State) (p q n : Nat) (m : Msg), RegsOk s → PortsOk s → p < 16 → q < 16 → q ≠ p → s.portUp p = true → (s.fld
    .svcSync SVC_SYNC_PORT ≠ p ∨ s.flag .svcSync SVC_SYNC_MASTER = true) → (s.port p).replay = [(n, m)] → (s.port
    p).wait = [] → m.mtype ≠ 0x30 → m.mtype ≠ 0x20 → s.flag (.abRoute (m.dst % 4096)) AB_ROUTE_VALID = true → s.fld
    (.abRoute (m.dst % 4096)) AB_ROUTE_PRIM = 2 ^ p → s.fld (.abRoute (m.dst % 4096)) AB_ROUTE_ALT = 2 ^ q → s.flag
    (.abPort q) AB_PORT_ROUTE = true → (s.port q).dup = false → (s.port q).left = false → Free q m.vc (max m.lvl
    (s.fld (.abRoute (m.dst % 4096)) AB_ROUTE_ALVL)) s →
    ∃ t : State, exec (.portDown p) s = .next t ∧ t.flag (.abRoute (m.dst % 4096)) AB_ROUTE_ONALT = true ∧
          t.outbox = s.outbox ++ [Out.link q { m with lvl := max m.lvl (s.fld (.abRoute (m.dst % 4096)) AB_ROUTE_ALVL) }]) ∧
  (∀ (s : State) (p : Nat), RegsOk s → PortsOk s → p < 16 → 12 ≤ p → s.flag (.abPort p) AB_PORT_EN = true → s.portUp p
    = false → (tgetD ({} : Cage) s.hw.cages p).lowPower = false → s.linkGone p = false →
    ∃ t : State, exec (.cableInsert p) s = .next t ∧ t.flag (.abPort p) AB_PORT_PRES = true ∧ t.fld (.abPort p) AB_PORT_WIDTH = 1 ∧ t.port p = { s.port p with trains := true } ∧ (∀ r, r ≠ p → t.port r = s.port r) ∧
          (tgetD ({} : Cage) t.hw.cages p).present = true ∧ RegsBut [.abPort p] s t ∧ t.outbox = s.outbox) ∧
  (∀ (s : State) (p : Nat), RegsOk s → PortsOk s → p < 16 → s.pwrGood = true → s.flag (.abPort p) AB_PORT_EN = false →
    s.linkGone p = false →
    ∃ t : State, exec (.abPortEnWrite p true) s = .next t ∧ t.flag (.abPort p) AB_PORT_EN = true ∧ t.flag (.abPort p) AB_PORT_ROUTE = s.flag (.abPort p) AB_PORT_ROUTE ∧
          t.fld (.abPort p) AB_PORT_WIDTH = 1 ∧ (t.port p).trains = true ∧ (∀ r, r ≠ p → t.port r = s.port r) ∧ RegsBut [.abPort p] s t ∧ t = { s with regs := t.regs, fab := t.fab }) ∧
  (∀ (s : State) (p : Nat), RegsOk s → PortsOk s → p < 16 → s.pwrGood = true → s.portUp p = true → s.flag (.abPort p)
    AB_PORT_EN = true → (s.port p).replay = [] → (s.port p).wait = [] → (∀ e ∈ s.fab.landing, e.1 ≠ p) → (s.fld
    .svcSync SVC_SYNC_PORT ≠ p ∨ s.flag .svcSync SVC_SYNC_MASTER = true) → s.linkGone p = false →
    ∃ t : State, exec (.abPortEnWrite p false) s = .next t ∧ t.flag (.abPort p) AB_PORT_EN = false ∧ t.fld (.abPort p) AB_PORT_WIDTH = 0 ∧ t.flag (.abPort p) AB_PORT_DOWNEV = true ∧
          t.evt = s.evt ∧ RegsBut [.abPort p] s t ∧ t.outbox = s.outbox) ∧
  (∀ (s : State) (p : Nat), RegsOk s → PortsOk s → p < 16 → s.pwrGood = true → s.portUp p = true → s.flag (.abPort p)
    AB_PORT_EN = true → ((s.port p).replay ≠ [] ∨ (s.port p).wait ≠ [] ∨ s.fab.landing.any (·.1 = p) = true) →
    s.linkGone p = false →
    ∃ t : State, exec (.abPortEnWrite p false) s = .next t ∧ t.flag (.abPort p) AB_PORT_EN = false ∧ t.fld (.abPort p) AB_PORT_WIDTH = 5 ∧ RegsBut [.abPort p] s t ∧ t = { s with regs := t.regs }) ∧
  (∀ (s : State) (p f a : Nat) (cr : List (Nat × Nat)) (m : Option Msg), p < 16 → s.carries p = true →
    exec (.flitReceive p false f a cr m) s = .next { s with outbox := s.outbox ++ [Out.linkAck p (((s.port p).expSeq + 4095) % 4096) true] }) ∧
  (∀ (s : State) (p f a : Nat) (cr : List (Nat × Nat)) (m : Msg), RegsOk s → PortsOk s → p < 16 → s.portUp p = true →
    (s.port p).wait = [] → f = (s.port p).expSeq → mtypeOk m = true → m.rsvd = false → (m.mtype = 0x20 → s.flag
    (.abPort p) AB_PORT_PEER2 = false) → (m.mtype = 0x30 ∨ s.assigned = true) → s.fab.leaving = [] →
    ∃ t : State, exec (.flitReceive p true f a cr (some m)) s = .next t ∧
          t.port p = { s.port p with expSeq := (f + 1) % 4096, acked := a % 4096, replay := ackReplay (a % 4096) (s.port p).replay, sent := (cr.foldl (fun u c => tsetD 0 u (2 * (c.1 % 8) + credLvl (c.1 % 8) (c.1 / 8 % 2)) (tgetD 0 u (2 * (c.1 % 8) + credLvl (c.1 % 8) (c.1 / 8 % 2)) - c.2)) (s.port p).sent) } ∧ (∀ r, r ≠ p → t.port r = s.port r) ∧
          t.fab.landing = s.fab.landing ++ [(p, m)] ∧ t.outbox = s.outbox ++ [Out.linkAck p f false] ∧ t = { s with fab := t.fab, outbox := t.outbox }) ∧
  (∀ (s : State) (p f a : Nat) (cr : List (Nat × Nat)) (m : Msg), p < 16 → s.portUp p = true → (s.port p).wait = [] →
    f ≠ (s.port p).expSeq →
    ∃ t : State, exec (.flitReceive p true f a cr (some m)) s = .next t ∧ t.fab.landing = s.fab.landing ∧ t.outbox = s.outbox ++ [Out.linkAck p (((s.port p).expSeq + 4095) % 4096) true] ∧
          t = { s with fab := t.fab, outbox := t.outbox }) ∧
  (∀ (s : State) (p f a c l : Nat) (m : Msg), RegsOk s → PortsOk s → p < 16 → s.portUp p = true → (s.port p).wait =
    [m] → c < 5 → l < 2 → m.vc = c → credLvl c m.lvl = credLvl c l → m.mtype ≠ 0x30 → landCap c (credLvl c l) = tgetD
    0 (s.port p).sent (2 * c + credLvl c l) → 0 < landCap c (credLvl c l) → (s.port p).replay.length < 1024 →
    ∃ t : State, exec (.flitReceive p true f a [(c + 8 * l, 1)] none) s = .next t ∧ (t.port p).wait = [] ∧ t.outbox = s.outbox ++ [Out.link p m] ∧
          (t.port p).replay = ackReplay (a % 4096) (s.port p).replay ++ [((s.port p).nextSeq, m)] ∧ tgetD 0 (t.port p).sent (2 * c + credLvl c l) = landCap c (credLvl c l)) ∧
  (∀ (s : State) (p a : Nat), RegsOk s → PortsOk s → p < 16 → s.carries p = true → (((s.port p).naks.filter fun x =>
    decide (s.svcTime - x < tickMs)).length < 64) →
    ∃ t : State, exec (.nakResend p a) s = .next t ∧ t.fld (.abPortc p) AB_PORTC_REPLAY = satAdd 65535 (s.fld (.abPortc p) AB_PORTC_REPLAY) 1 ∧
          t.outbox = s.outbox ++ (ackReplay (a % 4096) (s.port p).replay).map (fun f => Out.link p f.2) ∧ (t.port p).replay = ackReplay (a % 4096) (s.port p).replay ∧
          RegsBut [.abPortc p] s t ∧ t = { s with regs := t.regs, fab := t.fab, outbox := t.outbox }) ∧
  (∀ (s : State) (p a : Nat), RegsOk s → PortsOk s → p < 16 → s.carries p = true → (64 ≤ ((s.port p).naks.filter fun x
    => decide (s.svcTime - x < tickMs)).length) → (s.fld .svcSync SVC_SYNC_PORT ≠ p ∨ s.flag .svcSync SVC_SYNC_MASTER
    = true) →
    ∃ t : State, exec (.nakResend p a) s = .next t ∧ t.fld (.abPortc p) AB_PORTC_RETRAIN = satAdd 65535 (s.fld (.abPortc p) AB_PORTC_RETRAIN) 1 ∧ t.fld (.abPort p) AB_PORT_WIDTH = 1 ∧
          Raised modLog (srcPort p) 0x0804 (leBytes 1 p) s t) ∧
  (∀ (s : State) (l : Option Nat), RegsOk s → PortsOk s → (¬ (∀ x < 4, (l = none ∨ l = some x) → x ∈ s.fab.leaving)) →
    l.getD 0 < 4 →
    ∃ t : State, exec (.fabricDrain l) s = .next t ∧ (∀ x < 4, x ∈ t.fab.leaving ↔ x ∈ s.fab.leaving ∨ l = none ∨ l = some x) ∧
          (∀ r < 16, t.fld (.abPort r) AB_PORT_WIDTH = if (l = none ∨ l = some (r / 4)) ∧ s.portUp r = true then 5 else s.fld (.abPort r) AB_PORT_WIDTH) ∧
          (∀ r < 16, ((l = none ∨ l = some (r / 4)) ∧ Free r 4 0 s) → Out.link r {
            mtype := 0x30, vc := 4, src := s.modNum, dst := s.fld (.abPort r) AB_PORT_PEERMOD, srcid := srcL (r / 4),
            len := 32, data := (s.mgtData 4 0 0 0 0).set 1 (BitVec.ofNat 8 r) } ∈ t.outbox) ∧ t.evt = s.evt ∧ t = { s with regs := t.regs, fab := t.fab, outbox := t.outbox }) ∧
  (∀ (s : State) (l : Option Nat), RegsOk s → (∀ x < 4, (l = none ∨ l = some x) → x ∈ s.fab.leaving) → l.getD 0 < 4 →
    ∃ t : State, exec (.fabricDrain l) s = .next t ∧ (∀ r < 16, t.fld (.abPort r) AB_PORT_WIDTH =
            if (l = none ∨ l = some (r / 4)) ∧ s.fld (.abPort r) AB_PORT_WIDTH = 5 then 0 else s.fld (.abPort r) AB_PORT_WIDTH) ∧ t.fab.leaving = s.fab.leaving) ∧
  (∀ (s : State) (k p : Nat) (m : Msg), PortsOk s → p < 16 → s.portUp p = true → s.landed k = some (p, m) → m.mtype =
    0x30 → m.rlen = 0 → leAt m.data 0 1 = 4 →
    ∃ t : State, exec (.leave k) s = .next t ∧ (t.port p).left = true ∧ t.fab.landing = s.fab.landing.eraseIdx k ∧
          (∀ r < 16, r ≠ p → t.port r = if (s.port p).peerUid ≠ none ∧ (s.port r).peerUid = (s.port p).peerUid then { s.port r with left := true } else s.port r) ∧ t = { s with fab := t.fab, outbox := s.outbox ++ [Out.linkCred p m.vc (credLvl m.vc m.lvl)] })

/-- A read, write or add from the peer set of DPART to DRAM of DPART without an error is served and answered OK by the
route back, with the request's tag, and its landing credit returns; where E-dies share a line the answer waits. What any
other memory or handle answers, the request answers. While DPART drains the answer is DOMAIN_OFF; from outside the peer
set, or out of form, it is ADDR with an event; memory stays, as it does under an adder's fault. A SIG of the right epoch
is added to its semaphore; a stale one is counted and answered; one for a quad out of service is answered DOMAIN_OFF;
one from outside the peer set is counted on its port. A response ends the request of its tag, for a ferry with its
piece; without one it is discarded. RTO ends a request as UNREACHABLE; a quad unit's instance aborts. A message for
another module leaves by its route with one more hop; a request's 16th hop is UNREACHABLE; MGT follows its source route,
in a module with a number. MGT_READ answers the register, or ADDR; MGT_WRITE writes it when it is permitted. -/
def Obligations.MessagesServedForwardedAndManaged : Prop :=
  (∀ (s : State) (k p q l : Nat) (m : Msg), Landed k p 1 m s → 32 ≤ m.len → m.addr % 256 + m.len ≤ 256 → s.ptState
    m.dpart ≠ 2 → s.peerOk m.dpart m.src m.spart = true → s.addrPart m.addr = some m.dpart → s.addrPart (m.addr +
    m.len - 1) = some m.dpart → m.addr + m.len ≤ spBase → s.converting m.addr = false → s.lostIn m.addr m.len = false
    → Leads m.src q l s → Free q 1 l s →
    ∃ t : State, exec (.rd k .good) s = .next t ∧ t.outbox = s.outbox ++ [credOf p m, Out.link q (reply 0x10 0 l (s.rd m.addr m.len) m s)] ∧ t.fab.landing = s.fab.landing.eraseIdx k ∧
          t = { s with fab := t.fab, outbox := t.outbox }) ∧
  (∀ (s : State) (k p q l : Nat) (m : Msg), MemOk s → Landed k p 2 m s → 1 ≤ m.len → m.len ≤ 256 → (∀ l ∈ s.net.dir,
    s.sharers l.1 = 0 ∨ l.1 * 256 + 256 ≤ m.addr ∨ m.addr + m.len ≤ l.1 * 256) → s.ptState m.dpart ≠ 2 → s.peerOk
    m.dpart m.src m.spart = true → s.addrPart m.addr = some m.dpart → s.addrPart (m.addr + m.len - 1) = some m.dpart →
    m.addr + m.len ≤ spBase → s.converting m.addr = false → s.lostIn m.addr m.len = false → Leads m.src q l s → Free q
    1 l s →
    ∃ t : State, exec (.wr k) s = .next t ∧ memRead t.mem m.addr m.len = bytesAt m.data 0 m.len ∧ MemBut m.addr m.len s t ∧ t.outbox = s.outbox ++ [credOf p m, Out.link q (reply 0x11 0 l [] m s)] ∧
          t.fab.landing = s.fab.landing.eraseIdx k ∧ t = { s with mem := t.mem, fab := t.fab, outbox := t.outbox }) ∧
  (∀ (s : State) (k p : Nat) (m : Msg), MemOk s → Landed k p 2 m s → 1 ≤ m.len → m.len ≤ 256 → (s.net.dir.any (fun l
    => s.sharers l.1 ≠ 0 && m.addr / 256 ≤ l.1 && l.1 * 256 < m.addr + m.len) = true) → s.ptState m.dpart ≠ 2 →
    s.peerOk m.dpart m.src m.spart = true → s.addrPart m.addr = some m.dpart → s.addrPart (m.addr + m.len - 1) = some
    m.dpart → m.addr + m.len ≤ spBase → s.converting m.addr = false → s.lostIn m.addr m.len = false →
    ∃ t : State, exec (.wr k) s = .next t ∧ memRead t.mem m.addr m.len = bytesAt m.data 0 m.len ∧ MemBut m.addr m.len s t ∧ t.outbox = s.outbox ++ [credOf p m] ∧
          t.fab.landing = s.fab.landing.eraseIdx k ∧ (∃ a ∈ t.net.acks, a.src = srcL (p / 4) ∧ a.len = m.len ∧ a.who = some (.msg m))) ∧
  (∀ (s : State) (k p q l : Nat) (m : Msg), Canonical s → Landed k p 3 m s → 1 ≤ m.len → m.len ≤ 256 → m.aux % 16 ≠ 0
    → (m.aux % 16 ≤ 7 → m.len % addWidth (m.aux % 16) = 0) → m.aux % 16 ≤ 7 → (∀ l ∈ s.net.dir, s.sharers l.1 = 0 ∨
    l.1 * 256 + 256 ≤ m.addr ∨ m.addr + m.len ≤ l.1 * 256) → (∀ n o, regionOf m.addr = .sketch n o → s.plainBlock n o
    = false) → s.ptState m.dpart ≠ 2 → s.peerOk m.dpart m.src m.spart = true → s.addrPart m.addr = some m.dpart →
    s.addrPart (m.addr + m.len - 1) = some m.dpart → m.addr + m.len ≤ spBase → s.converting m.addr = false → s.lostIn
    m.addr m.len = false → Leads m.src q l s → Free q 1 l s →
    ∃ t : State, exec (.add k false) s = .next t ∧ memRead t.mem m.addr m.len = (addBytes (m.aux % 16) (m.len / addWidth (m.aux % 16)) (s.rd m.addr m.len) (bytesAt m.data 0 m.len)).1 ∧ MemBut m.addr m.len s t ∧ t.outbox = s.outbox ++ [credOf p m, Out.link q (reply 0x11 0 l [] m s)] ∧
          t.fld (.msaStat ((hubOf m.addr).getD 0)) MSA_STAT_ADDS = (s.fld (.msaStat ((hubOf m.addr).getD 0)) MSA_STAT_ADDS + 1) % 2 ^ MSA_STAT_ADDS.w ∧
          RegsBut [.msaStat ((hubOf m.addr).getD 0)] s t ∧ t.fab.landing = s.fab.landing.eraseIdx k) ∧
  (∀ (s : State) (k p q l x : Nat) (m : Msg), Canonical s → Landed k p 3 m s → m.aux % 16 = 4 → m.len = 4 → m.addr % 4
    = 0 → m.data = leBytes 4 x → (∀ l ∈ s.net.dir, s.sharers l.1 = 0 ∨ l.1 * 256 + 256 ≤ m.addr ∨ m.addr + m.len ≤ l.1
    * 256) → m.addr < 12 * hbmSize → s.ptState m.dpart ≠ 2 → s.peerOk m.dpart m.src m.spart = true → s.addrPart m.addr
    = some m.dpart → s.addrPart (m.addr + m.len - 1) = some m.dpart → m.addr + m.len ≤ spBase → s.converting m.addr =
    false → s.lostIn m.addr m.len = false → Leads m.src q l s → Free q 1 l s →
    ∃ t : State, exec (.add k false) s = .next t ∧ t.rdLE m.addr 4 = (s.rdLE m.addr 4 + x) % 2 ^ 32 ∧ MemBut m.addr 4 s t ∧ t.outbox = s.outbox ++ [credOf p m, Out.link q (reply 0x11 0 l [] m s)] ∧
          RegsBut [.msaStat (m.addr / gib / 108)] s t ∧ t.fab.landing = s.fab.landing.eraseIdx k) ∧
  (∀ (s : State) (k p q l : Nat) (m : Msg), Landed k p 3 m s → 1 ≤ m.len → m.len ≤ 256 → m.aux % 16 ≠ 0 → (m.aux % 16
    ≤ 7 → m.len % addWidth (m.aux % 16) = 0) → s.reqCheck m m.len = none → Leads m.src q l s → Free q 1 l s →
    ∃ t : State, exec (.add k true) s = .next t ∧ t.outbox = s.outbox ++ [credOf p m, Out.link q (reply 0x11 4 l [] m s)] ∧ t.fab.landing = s.fab.landing.eraseIdx k ∧ t = { s with fab := t.fab, outbox := t.outbox }) ∧
  (∀ (s u : State) (k p q l st : Nat) (m : Msg) (x : List Byte) (e : MemErr), Landed k p 1 m s → 32 ≤ m.len → m.len ≤
    256 → (m.addr < 2 ^ 40 → m.addr % 256 + m.len ≤ 256) → s.reqCheck m m.len = none → s.readEnd (srcL (p / 4))
    (msgTarget m) m.len e = (u, .ok, x) → st = 0 → u.portUp p = true → Leads m.src q l u → Free q 1 l u →
    ∃ t : State, exec (.rd k e) s = .next t ∧ t.outbox = u.outbox ++ [credOf p m, Out.link q (reply 0x10 st l x m u)] ∧ t.fab.landing = u.fab.landing.eraseIdx k ∧
          t = { u with fab := t.fab, outbox := t.outbox }) ∧
  (∀ (s u : State) (k p q l st : Nat) (m : Msg) (x : List Byte) (e : MemErr), Landed k p 1 m s → 32 ≤ m.len → m.len ≤
    256 → (m.addr < 2 ^ 40 → m.addr % 256 + m.len ≤ 256) → s.reqCheck m m.len = none → s.readEnd (srcL (p / 4))
    (msgTarget m) m.len e = (u, .no st, x) → st ≠ 3 → u.portUp p = true → Leads m.src q l u → Free q 1 l u →
    ∃ t : State, exec (.rd k e) s = .next t ∧ t.outbox = u.outbox ++ [credOf p m, Out.link q (reply 0x10 st l [] m u)] ∧ t.fab.landing = u.fab.landing.eraseIdx k ∧
          t = { u with fab := t.fab, outbox := t.outbox }) ∧
  (∀ (s u : State) (k p q l st : Nat) (m : Msg), Landed k p 2 m s → 1 ≤ m.len → m.len ≤ 256 → s.reqCheck m m.len =
    none → s.writeEnd (srcL (p / 4)) (msgTarget m) 0 (bytesAt m.data 0 m.len) (some (.msg m)) = (u, .ok) → st = 0 →
    u.portUp p = true → Leads m.src q l u → Free q 1 l u →
    ∃ t : State, exec (.wr k) s = .next t ∧ t.outbox = u.outbox ++ [credOf p m, Out.link q (reply 0x11 st l [] m u)] ∧ t.fab.landing = u.fab.landing.eraseIdx k ∧
          t = { u with fab := t.fab, outbox := t.outbox }) ∧
  (∀ (s u : State) (k p q l st : Nat) (m : Msg), Landed k p 2 m s → 1 ≤ m.len → m.len ≤ 256 → s.reqCheck m m.len =
    none → s.writeEnd (srcL (p / 4)) (msgTarget m) 0 (bytesAt m.data 0 m.len) (some (.msg m)) = (u, .no st) → st ≠ 3 →
    u.portUp p = true → Leads m.src q l u → Free q 1 l u →
    ∃ t : State, exec (.wr k) s = .next t ∧ t.outbox = u.outbox ++ [credOf p m, Out.link q (reply 0x11 st l [] m u)] ∧ t.fab.landing = u.fab.landing.eraseIdx k ∧
          t = { u with fab := t.fab, outbox := t.outbox }) ∧
  (∀ (s u : State) (k p q l st : Nat) (m : Msg), Landed k p 3 m s → 1 ≤ m.len → m.len ≤ 256 → m.aux % 16 ≠ 0 → (m.aux
    % 16 ≤ 7 → m.len % addWidth (m.aux % 16) = 0) → s.reqCheck m m.len = none → s.writeEnd (srcL (p / 4)) (msgTarget
    m) (m.aux % 16) (bytesAt m.data 0 m.len) (some (.msg m)) = (u, .ok) → st = 0 → u.portUp p = true → Leads m.src q l
    u → Free q 1 l u →
    ∃ t : State, exec (.add k false) s = .next t ∧ t.outbox = u.outbox ++ [credOf p m, Out.link q (reply 0x11 st l [] m u)] ∧ t.fab.landing = u.fab.landing.eraseIdx k ∧
          t = { u with fab := t.fab, outbox := t.outbox }) ∧
  (∀ (s u : State) (k p q l st : Nat) (m : Msg), Landed k p 3 m s → 1 ≤ m.len → m.len ≤ 256 → m.aux % 16 ≠ 0 → (m.aux
    % 16 ≤ 7 → m.len % addWidth (m.aux % 16) = 0) → s.reqCheck m m.len = none → s.writeEnd (srcL (p / 4)) (msgTarget
    m) (m.aux % 16) (bytesAt m.data 0 m.len) (some (.msg m)) = (u, .no st) → st ≠ 3 → u.portUp p = true → Leads m.src
    q l u → Free q 1 l u →
    ∃ t : State, exec (.add k false) s = .next t ∧ t.outbox = u.outbox ++ [credOf p m, Out.link q (reply 0x11 st l [] m u)] ∧ t.fab.landing = u.fab.landing.eraseIdx k ∧
          t = { u with fab := t.fab, outbox := t.outbox }) ∧
  (∀ (s : State) (k p q l : Nat) (m : Msg) (e : MemErr), Landed k p 1 m s → 32 ≤ m.len → m.len ≤ 256 → (m.addr < 2 ^
    40 → m.addr % 256 + m.len ≤ 256) → s.ptState m.dpart = 2 → Leads m.src q l s → Free q 1 l s →
    ∃ t : State, exec (.rd k e) s = .next t ∧ t.outbox = s.outbox ++ [credOf p m, Out.link q (reply 0x10 1 l [] m s)] ∧ t.fab.landing = s.fab.landing.eraseIdx k ∧ t = { s with fab := t.fab, outbox := t.outbox }) ∧
  (∀ (s : State) (k p q l : Nat) (m : Msg), Landed k p 2 m s → 1 ≤ m.len → m.len ≤ 256 → s.ptState m.dpart = 2 → Leads
    m.src q l s → Free q 1 l s →
    ∃ t : State, exec (.wr k) s = .next t ∧ t.outbox = s.outbox ++ [credOf p m, Out.link q (reply 0x11 1 l [] m s)] ∧ t.fab.landing = s.fab.landing.eraseIdx k ∧ t = { s with fab := t.fab, outbox := t.outbox }) ∧
  (∀ (s : State) (k p q l : Nat) (m : Msg) (f : Bool), Landed k p 3 m s → 1 ≤ m.len → m.len ≤ 256 → m.aux % 16 ≠ 0 →
    (m.aux % 16 ≤ 7 → m.len % addWidth (m.aux % 16) = 0) → s.ptState m.dpart = 2 → Leads m.src q l s → Free q 1 l s →
    ∃ t : State, exec (.add k f) s = .next t ∧ t.outbox = s.outbox ++ [credOf p m, Out.link q (reply 0x11 1 l [] m s)] ∧ t.fab.landing = s.fab.landing.eraseIdx k ∧ t = { s with fab := t.fab, outbox := t.outbox }) ∧
  (∀ (s : State) (k p q l : Nat) (m : Msg) (e : MemErr), Landed k p 1 m s → (m.len < 32 ∨ 256 < m.len ∨ (m.addr < 2 ^
    40 ∧ 256 < m.addr % 256 + m.len) ∨ (s.ptState m.dpart ≠ 2 ∧ (s.peerOk m.dpart m.src m.spart = false ∨ s.dpartOwns
    m m.len = false))) → Leads m.src q l s → Free q 1 l s →
    ∃ t : State, exec (.rd k e) s = .next t ∧ t.outbox = s.outbox ++ [credOf p m, Out.link q (reply 0x10 3 l [] m s)] ∧ Raised m.dpart (srcL (p / 4)) 0x0807 [] s t ∧ t.mem = s.mem ∧ t.regs = s.regs ∧
          t.fab.landing = s.fab.landing.eraseIdx k) ∧
  (∀ (s : State) (k p q l : Nat) (m : Msg), Landed k p 2 m s → (m.len = 0 ∨ 256 < m.len ∨ (s.ptState m.dpart ≠ 2 ∧
    (s.peerOk m.dpart m.src m.spart = false ∨ s.dpartOwns m m.len = false))) → Leads m.src q l s → Free q 1 l s →
    ∃ t : State, exec (.wr k) s = .next t ∧ t.outbox = s.outbox ++ [credOf p m, Out.link q (reply 0x11 3 l [] m s)] ∧ Raised m.dpart (srcL (p / 4)) 0x0807 [] s t ∧ t.mem = s.mem ∧ t.regs = s.regs ∧
          t.fab.landing = s.fab.landing.eraseIdx k) ∧
  (∀ (s : State) (k p q l : Nat) (m : Msg) (f : Bool), Landed k p 3 m s → (m.len = 0 ∨ 256 < m.len ∨ m.aux % 16 = 0 ∨
    (m.aux % 16 ≤ 7 ∧ m.len % addWidth (m.aux % 16) ≠ 0) ∨ (s.ptState m.dpart ≠ 2 ∧ (s.peerOk m.dpart m.src m.spart =
    false ∨ s.dpartOwns m m.len = false))) → Leads m.src q l s → Free q 1 l s →
    ∃ t : State, exec (.add k f) s = .next t ∧ t.outbox = s.outbox ++ [credOf p m, Out.link q (reply 0x11 3 l [] m s)] ∧ Raised m.dpart (srcL (p / 4)) 0x0807 [] s t ∧ t.mem = s.mem ∧ t.regs = s.regs ∧
          t.fab.landing = s.fab.landing.eraseIdx k) ∧
  (∀ (s : State) (k p e j n : Nat) (m : Msg), RegsOk s → Landed k p 4 m s → e = bits m.aux 0 7 → e < 80 → j = bits
    m.aux 8 8 → n = bits m.aux 16 16 → s.peerOk m.dpart m.src m.spart = true → s.quadGone e = false → s.fld (.pwrQuad
    e) PWR_QUAD_STATE = 0 → s.quadInst e ≠ none → (s.flag (.abPort p) AB_PORT_PEER2 = true ∨ (m.epoch ≠ 0 ∧ s.fld
    (.schQuad e) SCH_QUAD_EPOCH = m.epoch)) → s.sem e j + n ≤ 0xFFFF →
    ∃ t : State, exec (.sig k) s = .next t ∧ t.sem e j = s.sem e j + n ∧ RegsBut [semReg e j] s t ∧ t = { s with regs := t.regs, fab := { s.fab with landing := s.fab.landing.eraseIdx k }, outbox := s.outbox ++ [credOf p m] }) ∧
  (∀ (s : State) (k p q l e : Nat) (m : Msg), RegsOk s → Landed k p 4 m s → e = bits m.aux 0 7 → e < 80 → s.peerOk
    m.dpart m.src m.spart = true → s.quadGone e = false → s.fld (.pwrQuad e) PWR_QUAD_STATE = 0 → (s.quadInst e = none
    ∨ (s.flag (.abPort p) AB_PORT_PEER2 = false ∧ (m.epoch = 0 ∨ s.fld (.schQuad e) SCH_QUAD_EPOCH ≠ m.epoch))) →
    Leads m.src q l s → Free q 1 l s →
    ∃ t : State, exec (.sig k) s = .next t ∧ t.fld (.schQuad e) SCH_QUAD_STALE = satAdd (2 ^ 32 - 1) (s.fld (.schQuad e) SCH_QUAD_STALE) 1 ∧
          t.outbox = s.outbox ++ [credOf p m, Out.link q (reply 0x11 2 l [] m s)] ∧ RegsBut [.schQuad e] s t ∧ t.evt = s.evt) ∧
  (∀ (s : State) (k p q l e : Nat) (m : Msg), RegsOk s → Landed k p 4 m s → e = bits m.aux 0 7 → e < 80 → s.peerOk
    m.dpart m.src m.spart = true → s.quadGone e = true → Leads m.src q l s → Free q 1 l s →
    ∃ t : State, exec (.sig k) s = .next t ∧ t.outbox = s.outbox ++ [credOf p m, Out.link q (reply 0x11 1 l [] m s)] ∧ t.regs = s.regs ∧ t.evt = s.evt) ∧
  (∀ (s : State) (k p : Nat) (m : Msg), RegsOk s → Landed k p 4 m s → (s.peerOk m.dpart m.src m.spart = false ∨ 80 ≤
    bits m.aux 0 7) →
    ∃ t : State, exec (.sig k) s = .next t ∧ t.fld (.abPortc p) AB_PORTC_BADMSG = satAdd 65535 (s.fld (.abPortc p) AB_PORTC_BADMSG) 1 ∧ RegsBut [.abPortc p] s t ∧
          t = { s with regs := t.regs, fab := { s.fab with landing := s.fab.landing.eraseIdx k }, outbox := s.outbox ++ [credOf p m] }) ∧
  (∀ (s : State) (k p : Nat) (m : Msg) (o : Outst), Landed k p 16 m s → m.status = 0 → (s.fab.outst.find? (fun o =>
    o.tag = m.tag && o.dst = m.src) = some o) → o.piece = none → o.stale = false →
    exec (.rdr k) s = .next { s with
            fab := { s.fab with landing := s.fab.landing.eraseIdx k, outst := dropFirst (· = o) s.fab.outst },
            outbox := s.outbox ++ [credOf p m, Out.fabricResp o.srcid o.tag 0 m.data] }) ∧
  (∀ (s : State) (k p : Nat) (m : Msg) (o : Outst), Landed k p 17 m s → m.status = 0 → (s.fab.outst.find? (fun o =>
    o.tag = m.tag && o.dst = m.src) = some o) → o.piece = none → o.stale = false →
    exec (.ack k) s = .next { s with
            fab := { s.fab with landing := s.fab.landing.eraseIdx k, outst := dropFirst (· = o) s.fab.outst },
            outbox := s.outbox ++ [credOf p m, Out.fabricResp o.srcid o.tag 0 m.data] }) ∧
  (∀ (s : State) (k p : Nat) (m : Msg) (o : Outst), Landed k p 16 m s → m.status ≠ 2 → (s.fab.outst.find? (fun o =>
    o.tag = m.tag && o.dst = m.src) = some o) → o.stale = true →
    exec (.rdr k) s = .next { s with
            fab := { s.fab with landing := s.fab.landing.eraseIdx k, outst := dropFirst (· = o) s.fab.outst },
            outbox := s.outbox ++ [credOf p m] }) ∧
  (∀ (s : State) (k p : Nat) (m : Msg) (o : Outst), Landed k p 17 m s → m.status ≠ 2 → (s.fab.outst.find? (fun o =>
    o.tag = m.tag && o.dst = m.src) = some o) → o.stale = true →
    exec (.ack k) s = .next { s with
            fab := { s.fab with landing := s.fab.landing.eraseIdx k, outst := dropFirst (· = o) s.fab.outst },
            outbox := s.outbox ++ [credOf p m] }) ∧
  (∀ (s : State) (k p : Nat) (m : Msg), Landed k p 16 m s → m.status ≠ 2 → (∀ o ∈ s.fab.outst, o.tag ≠ m.tag ∨ o.dst ≠
    m.src) →
    exec (.rdr k) s = .next { s with fab := { s.fab with landing := s.fab.landing.eraseIdx k }, outbox := s.outbox ++ [credOf p m] }) ∧
  (∀ (s : State) (k p : Nat) (m : Msg), Landed k p 17 m s → m.status ≠ 2 → (∀ o ∈ s.fab.outst, o.tag ≠ m.tag ∨ o.dst ≠
    m.src) →
    exec (.ack k) s = .next { s with fab := { s.fab with landing := s.fab.landing.eraseIdx k }, outbox := s.outbox ++ [credOf p m] }) ∧
  (∀ (s : State) (k p : Nat) (m : Msg) (o : Outst), Landed k p 16 m s → m.status ≠ 0 → m.status ≠ 2 →
    (s.fab.outst.find? (fun o => o.tag = m.tag && o.dst = m.src) = some o) → o.piece = none → o.stale = false →
    isQuadUnit o.srcid = false →
    exec (.rdr k) s = .next { s with
            fab := { s.fab with landing := s.fab.landing.eraseIdx k, outst := dropFirst (· = o) s.fab.outst },
            outbox := s.outbox ++ [credOf p m, Out.fabricResp o.srcid o.tag m.status []] }) ∧
  (∀ (s : State) (k p : Nat) (m : Msg) (o : Outst), Landed k p 17 m s → m.status ≠ 0 → m.status ≠ 2 →
    (s.fab.outst.find? (fun o => o.tag = m.tag && o.dst = m.src) = some o) → o.piece = none → o.stale = false →
    isQuadUnit o.srcid = false →
    exec (.ack k) s = .next { s with
            fab := { s.fab with landing := s.fab.landing.eraseIdx k, outst := dropFirst (· = o) s.fab.outst },
            outbox := s.outbox ++ [credOf p m, Out.fabricResp o.srcid o.tag m.status []] }) ∧
  (∀ (s : State) (k p n j off len skip : Nat) (m : Msg) (o : Outst), Landed k p 16 m s → m.status = 0 →
    (s.fab.outst.find? (fun o => o.tag = m.tag && o.dst = m.src) = some o) → o.piece = some (n, j, off, len, skip) →
    o.stale = false → o.kind = 1 →
    exec (.rdr k) s = .next (({ s with
            fab := { s.fab with landing := s.fab.landing.eraseIdx k, outst := dropFirst (· = o) s.fab.outst },
            outbox := s.outbox ++ [credOf p m] } : State).piecePart n j off (bytesAt m.data skip len))) ∧
  (∀ (s : State) (k p n j off len skip : Nat) (m : Msg) (o : Outst), Landed k p 17 m s → m.status = 0 →
    (s.fab.outst.find? (fun o => o.tag = m.tag && o.dst = m.src) = some o) → o.piece = some (n, j, off, len, skip) →
    o.stale = false → o.kind ≠ 1 →
    exec (.ack k) s = .next (({ s with
            fab := { s.fab with landing := s.fab.landing.eraseIdx k, outst := dropFirst (· = o) s.fab.outst },
            outbox := s.outbox ++ [credOf p m] } : State).ackTo (some (.piece n j)) len |>.pumped n)) ∧
  (∀ (s : State) (k p : Nat) (m : Msg), Landed k p 16 m s → m.status = 2 →
    ∃ t : State, exec (.rdr k) s = .next t ∧ Raised (if isQuadUnit m.srcid then s.quadLog (m.srcid / 16) else modLog) m.srcid 0x0307 [] s t ∧ t.regs = s.regs ∧ t.mem = s.mem ∧
          t.fab.landing = s.fab.landing.eraseIdx k) ∧
  (∀ (s : State) (k p : Nat) (m : Msg), Landed k p 17 m s → m.status = 2 →
    ∃ t : State, exec (.ack k) s = .next t ∧ Raised (if isQuadUnit m.srcid then s.quadLog (m.srcid / 16) else modLog) m.srcid 0x0307 [] s t ∧ t.regs = s.regs ∧ t.mem = s.mem ∧
          t.fab.landing = s.fab.landing.eraseIdx k) ∧
  (∀ (s : State) (tag : Nat), (∀ o ∈ s.fab.outst, o.tag = tag → s.svcTime < o.time + s.fld .abCtl AB_CTL_RTO * 400) →
    exec (.rtoExpiry tag) s = .next s) ∧
  (∀ (s : State) (tag : Nat) (o : Outst), s.fab.outst.find? (·.tag = tag) = some o → o.time + s.fld .abCtl AB_CTL_RTO
    * 400 ≤ s.svcTime → o.stale = false → o.piece = none → isQuadUnit o.srcid = false →
    ∃ t : State, exec (.rtoExpiry tag) s = .next t ∧ Raised modLog (lDie o.srcid) 0x0805 [] s t ∧
          t = { s with evt := t.evt, fab := { s.fab with outst := dropFirst (· = o) s.fab.outst }, outbox := s.outbox ++ [Out.fabricResp o.srcid o.tag 5 []] }) ∧
  (∀ (s : State) (tag : Nat) (o : Outst), s.fab.outst.find? (·.tag = tag) = some o → o.time + s.fld .abCtl AB_CTL_RTO
    * 400 ≤ s.svcTime → o.stale = true →
    ∃ t : State, exec (.rtoExpiry tag) s = .next t ∧ Raised modLog (lDie o.srcid) 0x0805 [] s t ∧ t = { s with evt := t.evt, fab := { s.fab with outst := dropFirst (· = o) s.fab.outst } }) ∧
  (∀ (s : State) (tag i : Nat) (o : Outst), RegsOk s → s.fab.outst.find? (·.tag = tag) = some o → o.time + s.fld
    .abCtl AB_CTL_RTO * 400 ≤ s.svcTime → o.stale = false → o.piece = none → isQuadUnit o.srcid = true → s.quadInst
    (o.srcid / 16) = some i → i < 80 → s.flag (.schInst i) SCH_INST_RUN = true →
    ∃ t : State, exec (.rtoExpiry tag) s = .next t ∧ t.outbox = s.outbox ++ [Out.fabricResp o.srcid o.tag 5 []] ∧ t.fab.outst = dropFirst (· = o) s.fab.outst ∧
          t.flag (.schInst i) SCH_INST_ABORTING = true ∧ RegsBut [.schInst i] s t ∧
          t.evt.raised.map (fun r => (r.1, r.2.src, r.2.code)) = s.evt.raised.map (fun r => (r.1, r.2.src, r.2.code)) ++ [(modLog, lDie o.srcid, 0x0805), (s.quadLog (o.srcid / 16), o.srcid, 0x0306)]) ∧
  (∀ (s : State) (k p q l : Nat) (m : Msg), p < 16 → s.portUp p = true → s.landed k = some (p, m) → m.dst ≠ s.modNum →
    (m.mtype ≠ 0x30 ∨ (m.rlen = 0 ∧ leAt m.data 0 1 = 5 ∧ m.src ≠ s.modNum)) → (m.mtype = 0x20 → s.flag (.abPort q)
    AB_PORT_PEER2 = false) → m.hops < 15 → Leads m.dst q l s → Free q m.vc (max m.lvl l) s →
    ∃ t : State, exec (.messageForward k) s = .next t ∧ t.fab.landing = s.fab.landing.eraseIdx k ∧
          t.outbox = s.outbox ++ [credOf p m, Out.link q { m with hops := m.hops + 1, lvl := max m.lvl l }] ∧ t = { s with fab := t.fab, outbox := t.outbox }) ∧
  (∀ (s : State) (k p q l : Nat) (m : Msg), p < 16 → s.portUp p = true → s.landed k = some (p, m) → m.dst ≠ s.modNum →
    isReq m = true → 15 ≤ m.hops → Leads m.src q l s → Free q 1 l s →
    ∃ t : State, exec (.messageForward k) s = .next t ∧ t.fab.landing = s.fab.landing.eraseIdx k ∧ Raised modLog (srcL (p / 4)) 0x0805 [] s t ∧
          t.outbox = s.outbox ++ [credOf p m, Out.link q (reply (if m.mtype = 1 then 0x10 else 0x11) 5 l [] m s)]) ∧
  (∀ (s : State) (k p q : Nat) (m : Msg), p < 16 → s.portUp p = true → s.landed k = some (p, m) → m.mtype = 0x30 →
    m.rlen ≠ 0 → q = m.aux % 16 → m.src ≠ s.modNum → s.assigned = true → Free q m.vc m.lvl s →
    ∃ t : State, exec (.messageForward k) s = .next t ∧ t.fab.landing = s.fab.landing.eraseIdx k ∧
          t.outbox = s.outbox ++ [credOf p m, Out.link q { m with
            aux := m.aux / 16, rlen := m.rlen - 1,
            data := m.data.take 13 ++ leBytes 1 (leAt m.data 13 1 + 1) ++ leBytes 4 ((leAt m.data 14 4 * 16 + p) % 2 ^ 32) ++ m.data.drop 18 }]) ∧
  (∀ (s : State) (k p : Nat) (m : Msg), RegsOk s → p < 16 → s.portUp p = true → s.landed k = some (p, m) → m.mtype =
    0x30 → m.rlen ≠ 0 → s.assigned = false →
    ∃ t : State, exec (.messageForward k) s = .next t ∧ t.fld (.abPortc p) AB_PORTC_BADMSG = satAdd 65535 (s.fld (.abPortc p) AB_PORTC_BADMSG) 1 ∧ RegsBut [.abPortc p] s t ∧
          t = { s with regs := t.regs, fab := { s.fab with landing := s.fab.landing.eraseIdx k }, outbox := s.outbox ++ [credOf p m] }) ∧
  (∀ (s : State) (k p off : Nat) (r : Reg) (m : Msg), Managed k p 1 m s → off = leAt m.data 20 4 → abReg off = some r
    → (s.assigned = true ∨ leAt m.data 13 1 = 0) → Free p 4 0 s →
    ∃ t : State, exec (.mgtRead k) s = .next t ∧ t.fab.landing = s.fab.landing.eraseIdx k ∧ t.outbox = s.outbox ++ [credOf p m, Out.link p {
            mtype := 0x30, vc := 4, dst := m.src, src := s.modNum, srcid := m.srcid, tag := m.tag, aux := leAt m.data 14 4, rlen := leAt m.data 13 1 % 16, len := 32,
            data := (s.mgtData 3 0 0 off (s.abRead r)).set 1 (BitVec.ofNat 8 p) }] ∧ t.regs = s.regs) ∧
  (∀ (s : State) (k p off : Nat) (m : Msg), Managed k p 1 m s → off = leAt m.data 20 4 → abReg off = none →
    (s.assigned = true ∨ leAt m.data 13 1 = 0) → Free p 4 0 s →
    ∃ t : State, exec (.mgtRead k) s = .next t ∧ t.fab.landing = s.fab.landing.eraseIdx k ∧ t.outbox = s.outbox ++ [credOf p m, Out.link p {
            mtype := 0x30, vc := 4, dst := m.src, src := s.modNum, srcid := m.srcid, tag := m.tag, aux := leAt m.data 14 4, rlen := leAt m.data 13 1 % 16, status := 3, len := 32,
            data := (s.mgtData 3 0 0 off 0).set 1 (BitVec.ofNat 8 p) }] ∧ t.regs = s.regs) ∧
  (∀ (s : State) (k p : Nat) (r : Reg) (m : Msg), Managed k p 2 m s → abReg (leAt m.data 20 4) = some r → (s.assigned
    = true ∨ leAt m.data 13 1 = 0) → s.flag .abCtl AB_CTL_MGTWR = true → (s.assigned = true → m.src = s.fld .abCtl
    AB_CTL_MGR) →
    exec (.mgtWrite k) s = .next (({ s with fab := { s.fab with landing := s.fab.landing.eraseIdx k }, outbox := s.outbox ++ [credOf p m] } : State).abWrite r .whole (leAt m.data 24 8))) ∧
  (∀ (s : State) (k p j v : Nat) (m : Msg), RegsOk s → Managed k p 2 m s → j < 4096 → abReg (leAt m.data 20 4) = some
    (.abRoute j) → v = leAt m.data 24 8 → (s.assigned = true ∨ leAt m.data 13 1 = 0) → s.flag .abCtl AB_CTL_MGTWR =
    true → (s.assigned = true → m.src = s.fld .abCtl AB_CTL_MGR) →
    ∃ t : State, exec (.mgtWrite k) s = .next t ∧ t.fld (.abRoute j) AB_ROUTE_PRIM = bits v 0 16 ∧ t.fld (.abRoute j) AB_ROUTE_ALT = bits v 16 16 ∧
          t.fld (.abRoute j) AB_ROUTE_PLVL = bits v 32 1 ∧ t.flag (.abRoute j) AB_ROUTE_VALID = bitAt v 34 ∧ RegsBut [.abRoute j] s t ∧
          t = { s with regs := t.regs, fab := { s.fab with landing := s.fab.landing.eraseIdx k }, outbox := s.outbox ++ [credOf p m] }) ∧
  (∀ (s : State) (k p : Nat) (m : Msg), Managed k p 2 m s → (s.assigned = true ∨ leAt m.data 13 1 = 0) → (s.flag
    .abCtl AB_CTL_MGTWR = false ∨ (s.assigned = true ∧ m.src ≠ s.fld .abCtl AB_CTL_MGR)) → Free p 4 0 s →
    ∃ t : State, exec (.mgtWrite k) s = .next t ∧ t.regs = s.regs ∧ t.outbox = s.outbox ++ [credOf p m, Out.link p {
            mtype := 0x30, vc := 4, dst := m.src, src := s.modNum, srcid := m.srcid, tag := m.tag, aux := leAt m.data 14 4, rlen := leAt m.data 13 1 % 16, status := 3, len := 32,
            data := (s.mgtData 3 0 0 (leAt m.data 20 4) 0).set 1 (BitVec.ofNat 8 p) }]) ∧
  (∀ (s : State) (k p : Nat) (m : Msg), Managed k p 3 m s →
    exec (.mgtReply k) s = .next { s with fab := { s.fab with landing := s.fab.landing.eraseIdx k }, outbox := s.outbox ++ [credOf p m, Out.fabricResp m.srcid m.tag m.status (bytesAt m.data 24 8)] })

/-- Enabling a descriptor in form, or clearing EN, keeps the word; one out of form leaves EN 0 with AB_COLL_FAIL. A
window write of the bound instance, of at most 256 bytes, goes to the parent as COL bytes, a NOTE as END with the
modules heard, both of the oldest step whose END is owed, else of the step that runs or starts; a root sends nothing. A
write to another window aborts a quad unit and is refused to others. A child's COL bytes go to its slot of the buffer,
END ends it, one of a later step waits, one from no child or of a past step is counted and a stale one answered. A step
whose children ended writes its summary and signals; before that, and before CTO, nothing ends, and then, or when the
child refused, a SUM or BARRIER with a child missing fails and aborts. ABORT_INST aborts the bound instance once. A
follower takes its neighbour's time forward only: at once when unlocked or for a new source, by at most 40 ticks when
locked; a hop count of 14 or silence for 10 ms loses synchronization, and another source on another port is a conflict,
said once a second. -/
def Obligations.CollectiveGroupsAndTheExchangeOfTime : Prop :=
  (∀ (s : State) (g v : Nat), RegsOk s → (twf (fun _ => ({} : GroupSt)) s.fab.groups = true) → s.pwrGood = true → g <
    64 → (grEn ((s.setReg (.abGroup (8 * g)) (BitVec.ofNat 64 v)).group g) = false ∨ (s.setReg (.abGroup (8 * g))
    (BitVec.ofNat 64 v)).groupOk ((s.setReg (.abGroup (8 * g)) (BitVec.ofNat 64 v)).group g) = true) →
    ∃ t : State, exec (.groupEnable g v) s = .next t ∧ t.reg (.abGroup (8 * g)) = BitVec.ofNat 64 v ∧ t.gst g = {} ∧ RegsBut [.abGroup (8 * g)] s t ∧
          t = { s with regs := t.regs, fab := t.fab }) ∧
  (∀ (s : State) (g v : Nat) (d : List Byte), RegsOk s → s.pwrGood = true → g < 64 → d = (s.setReg (.abGroup (8 * g))
    (BitVec.ofNat 64 v)).group g → grEn d = true → (15 < grNchild d ∨ grSlot d = 15 ∨ grCto d < 10 ∨ grSlotsz d % 256
    ≠ 0 ∨ grBuf d % 64 ≠ 0 ∨ 80 ≤ grQuad d ∨ s.inst (grInst d) = none ∨ (s.setReg (.abGroup (8 * g)) (BitVec.ofNat 64
    v)).groupOk d = false) →
    ∃ t : State, exec (.groupEnable g v) s = .next t ∧ t.reg (.abGroup (8 * g)) = BitVec.ofNat 64 v &&& ~~~(0x80#64) ∧ Raised (s.groupLog d) (srcL 0) 0x0806 (leBytes 1 g) s t ∧
          RegsBut [.abGroup (8 * g)] s t) ∧
  (∀ (s : State) (src g off q l : Nat) (i : Inst) (d bs : List Byte), g < 64 → d = s.group g → grEn d = true →
    isQuadUnit src = true → s.inst (grInst d) = some i → s.quadPart (src / 16) = some i.part → grRoot d = false → 1 ≤
    bs.length → bs.length ≤ 256 → (s.gst g).owed = [] → s.assigned = true → Leads (grParent d) q l s → Free q 3 l s →
    s.flag (.abPort q) AB_PORT_PEER2 = false → (twf (fun _ => ({} : GroupSt)) s.fab.groups = true) →
    ∃ t : State, exec (.collectiveWindowWrite src g off (some bs)) s = .next t ∧ (t.gst g).running = true ∧ t.outbox = s.outbox ++ [Out.link q {
            mtype := 0x20, vc := 3, lvl := l, dst := grParent d, src := s.modNum, srcid := src, epoch := s.fld (.schInst (grInst d)) SCH_INST_EPOCH, len := bs.length,
            addr := off, aux := g + grSlot d % 16 * 2 ^ 8 + 0 + (s.gst g).seq % 2 ^ 16 * 2 ^ 16, data := bs }] ∧ t.regs = s.regs ∧ t.mem = s.mem) ∧
  (∀ (s : State) (src g off q l w : Nat) (i : Inst) (d bs : List Byte) (e : Nat × Nat × Bool) (r : List (Nat × Nat ×
    Bool)), g < 64 → d = s.group g → grEn d = true → isQuadUnit src = true → s.inst (grInst d) = some i → s.quadPart
    (src / 16) = some i.part → grRoot d = false → 1 ≤ bs.length → bs.length ≤ 256 → (s.gst g).owed = e :: r → w = e.1
    → s.assigned = true → Leads (grParent d) q l s → Free q 3 l s → s.flag (.abPort q) AB_PORT_PEER2 = false →
    ∃ t : State, exec (.collectiveWindowWrite src g off (some bs)) s = .next t ∧ t.fab.groups = s.fab.groups ∧ t.outbox = s.outbox ++ [Out.link q {
            mtype := 0x20, vc := 3, lvl := l, dst := grParent d, src := s.modNum, srcid := src, epoch := s.fld (.schInst (grInst d)) SCH_INST_EPOCH, len := bs.length,
            addr := off, aux := g + grSlot d % 16 * 2 ^ 8 + 0 + w % 2 ^ 16 * 2 ^ 16, data := bs }] ∧ t.regs = s.regs ∧ t.mem = s.mem) ∧
  (∀ (s : State) (src g off q l w n : Nat) (b : Bool) (i : Inst) (d bs : List Byte), g < 64 → d = s.group g → grEn d =
    true → isQuadUnit src = true → s.inst (grInst d) = some i → s.quadPart (src / 16) = some i.part → grRoot d = false
    → bs = [] → (w, n, b) = (s.gst g).owed.headD ((s.gst g).seq, (s.gst g).resp, (s.gst g).missing) → s.assigned =
    true → Leads (grParent d) q l s → Free q 3 l s → s.flag (.abPort q) AB_PORT_PEER2 = false → (twf (fun _ => ({} :
    GroupSt)) s.fab.groups = true) →
    ∃ t : State, exec (.collectiveWindowWrite src g off none) s = .next t ∧
          t.outbox = s.outbox ++ [Out.link q {
            mtype := 0x20, vc := 3, lvl := l, dst := grParent d, src := s.modNum, srcid := src, epoch := s.fld (.schInst (grInst d)) SCH_INST_EPOCH, len := bs.length,
            addr := n % 2 ^ 13 + (if b = true then 2 ^ 13 else 0), aux := g + grSlot d % 16 * 2 ^ 8 + 2 ^ 12 + (if b = true then 2 ^ 13 else 0) + w % 2 ^ 16 * 2 ^ 16, data := bs }] ∧
          ((s.gst g).owed = [] → (t.gst g).running = true ∧ (t.gst g).sent = true) ∧ ((s.gst g).owed ≠ [] → t.gst g = { s.gst g with owed := (s.gst g).owed.drop 1 }) ∧
          t.regs = s.regs ∧ t.mem = s.mem) ∧
  (∀ (s : State) (src g off : Nat) (i : Inst) (d : List Byte) (x : Option (List Byte)), g < 64 → d = s.group g → grEn
    d = true → isQuadUnit src = true → s.inst (grInst d) = some i → s.quadPart (src / 16) = some i.part → grRoot d =
    true → (s.gst g).running = false → (s.gst g).owed = [] → (twf (fun _ => ({} : GroupSt)) s.fab.groups = true) →
    ∃ t : State, exec (.collectiveWindowWrite src g off x) s = .next t ∧
          t.gst g = { s.gst g with running := true, since := s.svcTime, sent := x.isNone || (s.gst g).sent } ∧ t = { s with fab := t.fab }) ∧
  (∀ (s : State) (src g off : Nat) (x : Option (List Byte)), isQuadUnit src = true → (64 ≤ g ∨ grEn (s.group g) =
    false ∨ (s.inst (grInst (s.group g))).any (fun i => s.quadPart (src / 16) == some i.part) = false) →
    ∃ t : State, exec (.collectiveWindowWrite src g off x) s = .next t ∧ Raised (s.quadLog (src / 16)) src 0x0306 [] s t ∧ t.outbox = s.outbox ∧ t.fab = s.fab ∧ t.mem = s.mem) ∧
  (∀ (s : State) (src g off : Nat) (x : Option (List Byte)), isQuadUnit src = false →
    exec (.collectiveWindowWrite src g off x) s = .next (s.emit (.refusal src (winBase + winSize * (g % 64) + off) 3))) ∧
  (∀ (s : State) (k p g c off : Nat) (m : Msg) (d : List Byte), MemOk s → RegsOk s → Landed k p 0x20 m s → g = bits
    m.aux 0 6 → c = bits m.aux 8 4 → d = s.group g → s.peerOk m.dpart m.src m.spart = true → grEn d = true → c <
    grNchild d → grChild d c = m.src → (s.gst g).done.contains (bits m.aux 16 16) = false → (twf (fun _ => ({} :
    GroupSt)) s.fab.groups = true) → (twf (fun _ => ({} : SlotSt)) (s.gst g).slots = true) → s.fld (.schInst (grInst
    d)) SCH_INST_EPOCH = m.epoch → ((s.gst g).running = false ∨ (s.gst g).seq = bits m.aux 16 16) → bitAt m.aux 12 =
    false → off = m.addr → 1 ≤ m.len → m.data.length = m.len → off + m.len ≤ grSlotsz d → grBuf d + 64 + c * grSlotsz
    d + off + m.len ≤ spBase → granuleOf (grBuf d + 64 + c * grSlotsz d + off) ≠ none → granuleOf (grBuf d + 64 + c *
    grSlotsz d + off + m.len - 1) ≠ none → s.converting (grBuf d + 64 + c * grSlotsz d + off) = false → s.lostIn
    (grBuf d + 64 + c * grSlotsz d + off) m.len = false → (∀ l ∈ s.net.dir, s.sharers l.1 = 0 ∨ l.1 * 256 + 256 ≤
    grBuf d + 64 + c * grSlotsz d + off ∨ grBuf d + 64 + c * grSlotsz d + off + m.len ≤ l.1 * 256) →
    ∃ t : State, exec (.col k) s = .next t ∧ memRead t.mem (grBuf d + 64 + c * grSlotsz d + off) m.len = m.data ∧ MemBut (grBuf d + 64 + c * grSlotsz d + off) m.len s t ∧
          (t.gst g).running = true ∧ (t.gst g).seq = bits m.aux 16 16 ∧
          tgetD {} (t.gst g).slots c = { tgetD ({} : SlotSt) (s.gst g).slots c with len := max (tgetD ({} : SlotSt) (s.gst g).slots c).len (off + m.len) } ∧
          t.outbox = s.outbox ++ [credOf p m] ∧ t.regs = s.regs ∧ t.fab.landing = s.fab.landing.eraseIdx k) ∧
  (∀ (s : State) (k p g c : Nat) (m : Msg) (d : List Byte), RegsOk s → Landed k p 0x20 m s → g = bits m.aux 0 6 → c =
    bits m.aux 8 4 → d = s.group g → s.peerOk m.dpart m.src m.spart = true → grEn d = true → c < grNchild d → grChild
    d c = m.src → (s.gst g).done.contains (bits m.aux 16 16) = false → (twf (fun _ => ({} : GroupSt)) s.fab.groups =
    true) → (twf (fun _ => ({} : SlotSt)) (s.gst g).slots = true) → s.fld (.schInst (grInst d)) SCH_INST_EPOCH =
    m.epoch → ((s.gst g).running = false ∨ (s.gst g).seq = bits m.aux 16 16) → bitAt m.aux 12 = true →
    ∃ t : State, exec (.col k) s = .next t ∧ (t.gst g).running = true ∧ (tgetD ({} : SlotSt) (t.gst g).slots c).ended = true ∧ (tgetD ({} : SlotSt) (t.gst g).slots c).modResp = bits m.addr 0 13 ∧
          t = { s with fab := t.fab, outbox := s.outbox ++ [credOf p m] }) ∧
  (∀ (s : State) (k p q l g c : Nat) (m : Msg) (d : List Byte), RegsOk s → Landed k p 0x20 m s → g = bits m.aux 0 6 →
    c = bits m.aux 8 4 → d = s.group g → s.peerOk m.dpart m.src m.spart = true → grEn d = true → c < grNchild d →
    grChild d c = m.src → (s.gst g).done.contains (bits m.aux 16 16) = false → s.fld (.schInst (grInst d))
    SCH_INST_EPOCH ≠ m.epoch → Leads m.src q l s → Free q 1 l s →
    ∃ t : State, exec (.col k) s = .next t ∧ t.outbox = s.outbox ++ [credOf p m, Out.link q (reply 0x11 2 l [] m s)] ∧ t.fab.groups = s.fab.groups ∧ t.mem = s.mem ∧ t.regs = s.regs) ∧
  (∀ (s : State) (k p g c : Nat) (m : Msg) (d : List Byte), RegsOk s → Landed k p 0x20 m s → g = bits m.aux 0 6 → c =
    bits m.aux 8 4 → d = s.group g → s.peerOk m.dpart m.src m.spart = true → grEn d = true → c < grNchild d → grChild
    d c = m.src → (s.gst g).done.contains (bits m.aux 16 16) = false → s.fld (.schInst (grInst d)) SCH_INST_EPOCH =
    m.epoch → (s.gst g).running = true → (s.gst g).seq ≠ bits m.aux 16 16 →
    exec (.col k) s = .next s) ∧
  (∀ (s : State) (k p g : Nat) (m : Msg), RegsOk s → Landed k p 0x20 m s → g = bits m.aux 0 6 → (s.peerOk m.dpart
    m.src m.spart = false ∨ (s.gst g).done.contains (bits m.aux 16 16) = true ∨ grEn (s.group g) = false ∨ grNchild
    (s.group g) ≤ bits m.aux 8 4 ∨ grChild (s.group g) (bits m.aux 8 4) ≠ m.src) →
    ∃ t : State, exec (.col k) s = .next t ∧ t.fld (.abPortc p) AB_PORTC_BADMSG = satAdd 65535 (s.fld (.abPortc p) AB_PORTC_BADMSG) 1 ∧ RegsBut [.abPortc p] s t ∧
          t.fab.groups = s.fab.groups ∧ t.mem = s.mem ∧ t.outbox = s.outbox ++ [credOf p m]) ∧
  (∀ (s : State) (g : Nat) (d : List Byte), Canonical s → g < 64 → d = s.group g → grBuf d + 64 ≤ spBase → granuleOf
    (grBuf d) ≠ none → granuleOf (grBuf d + 64 - 1) ≠ none → s.converting (grBuf d) = false → s.lostIn (grBuf d) 64 =
    false → (∀ l ∈ s.net.dir, s.sharers l.1 = 0 ∨ l.1 * 256 + 256 ≤ grBuf d ∨ grBuf d + 64 ≤ l.1 * 256) → grQuad d <
    80 → s.fld (.pwrQuad (grQuad d)) PWR_QUAD_STATE = 0 → s.sem (grQuad d) (grSem d) < 0xFFFF → grEn d = true → (s.gst
    g).running = true → (∀ c < grNchild d, (tgetD ({} : SlotSt) (s.gst g).slots c).ended = true ∧ (tgetD ({} : SlotSt)
    (s.gst g).slots c).part = false) → (twf (fun _ => ({} : GroupSt)) s.fab.groups = true) →
    ∃ t : State, exec (.collectiveStepComplete g) s = .next t ∧ t.rdLE (grBuf d) 4 = (s.gst g).seq % 2 ^ 32 ∧ t.rdLE (grBuf d + 4) 2 = (2 ^ grNchild d - 1) % 2 ^ 16 ∧
          t.rdLE (grBuf d + 6) 2 = (s.gst g).resp % 2 ^ 16 ∧ t.rdLE (grBuf d + 8) 1 = 0 ∧ MemBut (grBuf d) 64 s t ∧ t.sem (grQuad d) (grSem d) = s.sem (grQuad d) (grSem d) + 1 ∧ RegsBut [semReg (grQuad d) (grSem d)] s t ∧
          t.gst g = {
            seq := ((s.gst g).seq + 1) % 65536, done := ((s.gst g).seq :: (s.gst g).done).take 256,
            owed := if (s.gst g).sent = true then (s.gst g).owed else (s.gst g).owed ++ [((s.gst g).seq, (s.gst g).resp, false)] } ∧ t.evt = s.evt ∧ t.ctl = s.ctl) ∧
  (∀ (s : State) (g c : Nat) (d : List Byte), Canonical s → g < 64 → d = s.group g → grBuf d + 64 ≤ spBase → granuleOf
    (grBuf d) ≠ none → granuleOf (grBuf d + 64 - 1) ≠ none → s.converting (grBuf d) = false → s.lostIn (grBuf d) 64 =
    false → (∀ l ∈ s.net.dir, s.sharers l.1 = 0 ∨ l.1 * 256 + 256 ≤ grBuf d ∨ grBuf d + 64 ≤ l.1 * 256) → grQuad d <
    80 → s.fld (.pwrQuad (grQuad d)) PWR_QUAD_STATE = 0 → s.sem (grQuad d) (grSem d) < 0xFFFF → grEn d = true → (s.gst
    g).running = true → (∀ c < grNchild d, (tgetD ({} : SlotSt) (s.gst g).slots c).ended = true ∨ (tgetD ({} : SlotSt)
    (s.gst g).slots c).absent = true) → c < grNchild d → (tgetD ({} : SlotSt) (s.gst g).slots c).ended = false → grOp
    d ≠ 0 → grInst d < 80 → s.flag (.schInst (grInst d)) SCH_INST_RUN = true →
    ∃ t : State, exec (.collectiveStepComplete g) s = .next t ∧ Raised (s.groupLog d) (srcL 0) 0x0806 (leBytes 1 g) s t ∧ t.flag (.schInst (grInst d)) SCH_INST_ABORTING = true ∧
          t.rdLE (grBuf d + 8) 1 = 3 ∧ MemBut (grBuf d) 64 s t ∧ t.sem (grQuad d) (grSem d) = s.sem (grQuad d) (grSem d) + 1) ∧
  (∀ (s : State) (g : Nat), (64 ≤ g ∨ s.stepWhole g = false) →
    exec (.collectiveStepComplete g) s = .next s) ∧
  (∀ (s : State) (g : Nat), ((s.gst g).running = false ∨ s.svcTime < (s.gst g).since + grCto (s.group g) * 400) →
    exec (.ctoExpiry g) s = .next s) ∧
  (∀ (s : State) (g c : Nat) (d : List Byte), Canonical s → g < 64 → d = s.group g → grBuf d + 64 ≤ spBase → granuleOf
    (grBuf d) ≠ none → granuleOf (grBuf d + 64 - 1) ≠ none → s.converting (grBuf d) = false → s.lostIn (grBuf d) 64 =
    false → (∀ l ∈ s.net.dir, s.sharers l.1 = 0 ∨ l.1 * 256 + 256 ≤ grBuf d ∨ grBuf d + 64 ≤ l.1 * 256) → grQuad d <
    80 → s.fld (.pwrQuad (grQuad d)) PWR_QUAD_STATE = 0 → s.sem (grQuad d) (grSem d) < 0xFFFF → grEn d = true → (s.gst
    g).running = true → (s.gst g).since + grCto d * 400 ≤ s.svcTime → c < grNchild d → (tgetD ({} : SlotSt) (s.gst
    g).slots c).ended = false → grOp d ≠ 0 → grInst d < 80 → s.flag (.schInst (grInst d)) SCH_INST_RUN = true →
    ∃ t : State, exec (.ctoExpiry g) s = .next t ∧ Raised (s.groupLog d) (srcL 0) 0x0806 (leBytes 1 g) s t ∧ t.flag (.schInst (grInst d)) SCH_INST_ABORTING = true ∧
          t.rdLE (grBuf d + 8) 1 = 3 ∧ MemBut (grBuf d) 64 s t ∧ t.sem (grQuad d) (grSem d) = s.sem (grQuad d) (grSem d) + 1) ∧
  (∀ (s : State) (g c : Nat) (d : List Byte), Canonical s → g < 64 → d = s.group g → grBuf d + 64 ≤ spBase → granuleOf
    (grBuf d) ≠ none → granuleOf (grBuf d + 64 - 1) ≠ none → s.converting (grBuf d) = false → s.lostIn (grBuf d) 64 =
    false → (∀ l ∈ s.net.dir, s.sharers l.1 = 0 ∨ l.1 * 256 + 256 ≤ grBuf d ∨ grBuf d + 64 ≤ l.1 * 256) → grQuad d <
    80 → s.fld (.pwrQuad (grQuad d)) PWR_QUAD_STATE = 0 → s.sem (grQuad d) (grSem d) < 0xFFFF → grEn d = true → (s.gst
    g).running = true → (s.gst g).since + grCto d * 400 ≤ s.svcTime → c < grNchild d → (tgetD ({} : SlotSt) (s.gst
    g).slots c).ended = false → grOp d = 0 →
    ∃ t : State, exec (.ctoExpiry g) s = .next t ∧ t.evt = s.evt ∧ t.ctl = s.ctl ∧ t.rdLE (grBuf d + 8) 1 = 1 ∧ MemBut (grBuf d) 64 s t ∧
          t.sem (grQuad d) (grSem d) = s.sem (grQuad d) (grSem d) + 1 ∧ RegsBut [semReg (grQuad d) (grSem d)] s t) ∧
  (∀ (s : State) (k p g i : Nat) (m : Msg), RegsOk s → i < 80 → Managed k p 5 m s → (s.assigned = true → m.dst =
    s.modNum) → g = leAt m.data 24 8 → g < 64 → grEn (s.group g) = true → i = grInst (s.group g) → s.inst i ≠ none →
    s.flag (.schInst i) SCH_INST_RUN = true → s.flag (.schInst i) SCH_INST_ABORTING = false →
    ∃ t : State, exec (.abortInst k) s = .next t ∧ t.flag (.schInst i) SCH_INST_ABORTING = true ∧ t.fab.landing = s.fab.landing.eraseIdx k ∧
          (∃ a ∈ t.ctl.aborting, a.inst = i ∧ a.told = true) ∧ t.mem = s.mem ∧ t.evt = s.evt) ∧
  (∀ (s : State) (k p i : Nat) (m : Msg), Managed k p 5 m s → (s.assigned = true → m.dst = s.modNum) → i = grInst
    (s.group (leAt m.data 24 8)) → (64 ≤ leAt m.data 24 8 ∨ grEn (s.group (leAt m.data 24 8)) = false ∨ s.inst i =
    none ∨ s.flag (.schInst i) SCH_INST_ABORTING = true) →
    exec (.abortInst k) s = .next { s with fab := { s.fab with landing := s.fab.landing.eraseIdx k }, outbox := s.outbox ++ [credOf p m] }) ∧
  (∀ (s : State) (p trip : Nat), p < 16 → s.portUp p = true → s.flag .svcSync SVC_SYNC_MASTER = true →
    exec (.timeFlitExchange p none trip) s = .next { s with outbox := s.outbox ++ [Out.timeFlit p Config.abUid.toNat 0 s.svcTime] }) ∧
  (∀ (s : State) (p uid hops time trip : Nat), RegsOk s → p < 16 → s.portUp p = true → s.fld .svcSync SVC_SYNC_PORT =
    p → s.flag .svcSync SVC_SYNC_MASTER = false → (s.flag .svcSync SVC_SYNC_LOCKED = false ∨ s.pwr.timeSrc ≠ uid) →
    hops < 14 →
    ∃ t : State, exec (.timeFlitExchange p (some (uid, hops, time)) trip) s = .next t ∧ t.svcTime = max s.svcTime (time + trip / 2) ∧ t.flag .svcSync SVC_SYNC_LOCKED = true ∧
          t.fld .svcSync SVC_SYNC_HOPS = hops + 1 ∧ t.pwr.timeSrc = uid ∧ RegsBut [.svcSync] s t ∧ (s.flag .svcSync SVC_SYNC_LOCKED = false → t.outbox = s.outbox) ∧ t.evt = s.evt) ∧
  (∀ (s : State) (p uid hops time trip : Nat), RegsOk s → p < 16 → s.portUp p = true → s.fld .svcSync SVC_SYNC_PORT =
    p → s.flag .svcSync SVC_SYNC_MASTER = false → s.flag .svcSync SVC_SYNC_LOCKED = true → s.pwr.timeSrc = uid → hops
    < 14 →
    ∃ t : State, exec (.timeFlitExchange p (some (uid, hops, time)) trip) s = .next t ∧ t.svcTime = s.svcTime + min (time + trip / 2 - s.svcTime) 40 ∧ t.flag .svcSync SVC_SYNC_LOCKED = true ∧
          t.fld .svcSync SVC_SYNC_HOPS = hops + 1 ∧ RegsBut [.svcSync] s t ∧ t.outbox = s.outbox ++ [Out.timeFlit p uid (s.fld .svcSync SVC_SYNC_HOPS) s.svcTime] ∧ t.evt = s.evt) ∧
  (∀ (s : State) (p uid hops time trip : Nat), RegsOk s → p < 16 → s.portUp p = true → s.fld .svcSync SVC_SYNC_PORT ≠
    p → s.flag .svcSync SVC_SYNC_MASTER = false → s.flag .svcSync SVC_SYNC_LOCKED = true → s.pwr.timeSrc ≠ uid →
    (s.pwr.confTime.all (fun c => decide (400000000 ≤ s.svcTime - c)) = true) →
    ∃ t : State, exec (.timeFlitExchange p (some (uid, hops, time)) trip) s = .next t ∧ t.flag .svcSync SVC_SYNC_CONFLICT = true ∧ Raised modLog srcM 0x0A0D (leBytes 8 uid ++ leBytes 1 p) s t ∧
          t.svcTime = s.svcTime ∧ RegsBut [.svcSync] s t ∧ t.flag .svcSync SVC_SYNC_LOCKED = true) ∧
  (∀ (s : State) (p uid hops time trip : Nat), RegsOk s → p < 16 → s.portUp p = true → s.fld .svcSync SVC_SYNC_PORT =
    p → s.flag .svcSync SVC_SYNC_MASTER = false → 14 ≤ hops → s.pwr.syncSaid = false →
    ∃ t : State, exec (.timeFlitExchange p (some (uid, hops, time)) trip) s = .next t ∧ t.flag .svcSync SVC_SYNC_LOCKED = false ∧ t.fld .svcSync SVC_SYNC_HOPS = 15 ∧ t.flag .svcSync SVC_SYNC_SYNCLOST = true ∧ Raised modLog srcM 0x0A07 [] s t ∧ RegsBut [.svcSync] s t ∧ t.svcTime = s.svcTime) ∧
  (∀ s : State, RegsOk s → s.flag .svcSync SVC_SYNC_MASTER = false → s.pwr.syncAt + 4000000 ≤ s.svcTime →
    s.pwr.syncSaid = false →
    ∃ t : State, exec .syncSilenceTimeout s = .next t ∧ t.flag .svcSync SVC_SYNC_LOCKED = false ∧ t.fld .svcSync SVC_SYNC_HOPS = 15 ∧ t.flag .svcSync SVC_SYNC_SYNCLOST = true ∧ Raised modLog srcM 0x0A07 [] s t ∧ RegsBut [.svcSync] s t) ∧
  (∀ s : State, (s.flag .svcSync SVC_SYNC_MASTER = true ∨ s.svcTime < s.pwr.syncAt + 4000000) →
    exec .syncSilenceTimeout s = .next s)

/-- Losing P12AUX sets NOAUX; without P48 too, the management domain and what it held are gone. While the main domain is
up: a hold-up measurement below 10.0 J sets HOLDLOW with PWR_HOLDUP; 10.5 J clears it. An average above LIMIT lowers
DUTY by 1 per 100 us to no less than 4, with PWR_CAP once a second; a sample above 4,200 W sets it to 8; below LIMIT it
rises by 1 per ms; an average above 4,200 W at DUTY 4 starts the flush. A die's level caps its quads' duty at 12 and 4
and is left 4 degrees, or 3, below where it began, and level 3 starts the flush. At most four wake tokens are granted in
2 us, in order of arrival; a granted quad is ON. A quad idle for IDLE us with REQ AUTO is GATED. A write of REQ that
turns a sleeping quad on asks for a token; OFF clears a free quad. REQ 0b11, and OFF of a loaded quad, are ignored. -/
def Obligations.PowerTemperatureClocksAndWakeTokens : Prop :=
  (∀ s : State, RegsOk s → (s.pwr.p48 = true ∨ s.pwr.phase = .flushing true ∨ s.pwr.phase = .flushing false) →
    ∃ t : State, exec .p12auxLoss s = .next t ∧ t.flag .pmStat PM_STAT_NOAUX = true ∧ RegsBut [.pmStat] s t ∧ t = { s with regs := t.regs, pwr := { s.pwr with p12aux := false, mgmtUp := true } }) ∧
  (∀ s : State, RegsOk s → s.pwr.p48 = false → s.pwr.phase ≠ .flushing true → s.pwr.phase ≠ .flushing false →
    ∃ t : State, exec .p12auxLoss s = .next t ∧ t.flag .pmStat PM_STAT_NOAUX = true ∧ t.pwr.mgmtUp = false ∧ t.trust.nonce = none ∧ t.hw.identify = .off ∧ RegsBut [.pmStat] s t ∧ t.mem = s.mem) ∧
  (∀ s : State, RegsOk s →
    ∃ t : State, exec .p12auxReturn s = .next t ∧ t.flag .pmStat PM_STAT_NOAUX = false ∧ RegsBut [.pmStat] s t ∧
          t = { s with regs := t.regs, pwr := { s.pwr with p12aux := true, mgmtUp := true }, hw := { s.hw with j4 := true } }) ∧
  (∀ (s : State) (e : Nat), RegsOk s → s.pwr.phase = .up → e < 100 →
    ∃ t : State, exec (.holdupMeasurement e) s = .next t ∧ t.fld .pmStat PM_STAT_HOLDJ = e ∧ t.flag .pmStat PM_STAT_HOLDLOW = true ∧ Raised modLog srcM 0x0A02 [] s t ∧
          RegsBut [.pmStat, .glbInt] s t ∧ t = { s with regs := t.regs, evt := t.evt }) ∧
  (∀ (s : State) (e : Nat), RegsOk s → s.pwr.phase = .up → 100 ≤ e →
    ∃ t : State, exec (.holdupMeasurement e) s = .next t ∧ t.fld .pmStat PM_STAT_HOLDJ = min e 65535 ∧
          t.flag .pmStat PM_STAT_HOLDLOW = (decide (e < 105) && s.flag .pmStat PM_STAT_HOLDLOW) ∧ RegsBut [.pmStat] s t ∧ t = { s with regs := t.regs }) ∧
  (∀ (s : State) (a x : Nat), RegsOk s → s.pwr.phase = .up → s.duty ≤ 4 → 4200 < a →
    ∃ t : State, exec (.powerSample a x) s = .next t ∧ t.fld .pmStat PM_STAT_PIN = min a 65535 ∧ t.flag .pmStat PM_STAT_CRIT = true ∧ t.pwr.phase = .flushing false ∧
          t.flag .qStat Q_STAT_PLSTOP = true ∧ t.evt.raised.map (fun e => e.2.code) = s.evt.raised.map (fun e => e.2.code) ++ [0x0A04, 0x0A01] ∧ RegsBut [.pmStat, .qStat, .glbInt] s t) ∧
  (∀ (s : State) (a x : Nat), RegsOk s → s.pwr.phase = .up → 4 < s.duty → s.fld .pmCtl PM_CTL_LIMIT < a → (x ≤ 4200 ∨
    s.duty ≤ 9) →
    ∃ t : State, exec (.powerSample a x) s = .next t ∧ t.duty = (if s.pwr.dutyTime + 40000 ≤ s.svcTime then s.duty - 1 else if 4200 < x then min s.duty 8 else s.duty) ∧
          t.flag .pmStat PM_STAT_CAPPED = true ∧ t.fld .pmStat PM_STAT_PIN = min a 65535 ∧ (s.pwr.dutyTime + 40000 ≤ s.svcTime → t.pwr.dutyTime = s.svcTime) ∧
          (s.pwr.capTime.all (fun c => decide (400000000 ≤ s.svcTime - c)) = true → Raised modLog srcM 0x0A03 [] s t) ∧ (s.pwr.capTime.all (fun c => decide (400000000 ≤ s.svcTime - c)) = false → t.evt = s.evt) ∧ RegsBut [.pmStat, .glbInt] s t ∧ t.pwr.phase = .up) ∧
  (∀ (s : State) (a x : Nat), RegsOk s → s.pwr.phase = .up → s.duty = 4 → s.fld .pmCtl PM_CTL_LIMIT < a → a ≤ 4200 →
    ∃ t : State, exec (.powerSample a x) s = .next t ∧ t.duty = 4 ∧ t.flag .pmStat PM_STAT_CAPPED = true ∧ t.pwr.phase = .up) ∧
  (∀ (s : State) (a x : Nat), RegsOk s → s.pwr.phase = .up → 8 < s.duty → 4200 < x →
    ∃ t : State, exec (.powerSample a x) s = .next t ∧ t.duty = 8 ∧ t.flag .pmStat PM_STAT_CAPPED = true ∧ RegsBut [.pmStat, .glbInt] s t ∧
          (a ≤ s.fld .pmCtl PM_CTL_LIMIT → t.evt = s.evt) ∧ t.pwr.phase = .up) ∧
  (∀ (s : State) (a x : Nat), RegsOk s → s.pwr.phase = .up → a ≤ s.fld .pmCtl PM_CTL_LIMIT → (a ≤ 4200 ∨ 4 < s.duty) →
    (s.duty ≤ 8 ∨ x ≤ 4200) →
    ∃ t : State, exec (.powerSample a x) s = .next t ∧ t.duty = (if s.duty < 16 ∧ x ≤ 4200 ∧ s.pwr.dutyTime + 400000 ≤ s.svcTime then s.duty + 1 else s.duty) ∧
          RegsBut [.pmStat] s t ∧ t.evt = s.evt ∧ t.pwr.phase = .up) ∧
  (∀ (s : State) (d x q : Nat), s.pwr.phase = .up → d < 24 → (twf (fun _ => 0) s.pwr.caps = true) → tgetD 0 s.pwr.caps
    d = 0 → 101 ≤ x → x < 110 → q < 80 → (d = q / 4 ∨ d = 20 + q / 20) →
    ∃ t : State, exec (.dieTemperatureSample d x) s = .next t ∧ tgetD 0 t.pwr.caps d = 1 ∧ t.quadDuty q ≤ 12 ∧ t = { s with pwr := t.pwr }) ∧
  (∀ (s : State) (d x q : Nat), s.pwr.phase = .up → d < 24 → (twf (fun _ => 0) s.pwr.caps = true) → 110 ≤ x → x < 120
    → tgetD 0 s.pwr.caps d ≤ 2 → q < 80 → (d = q / 4 ∨ d = 20 + q / 20) →
    ∃ t : State, exec (.dieTemperatureSample d x) s = .next t ∧ tgetD 0 t.pwr.caps d = 2 ∧ t.quadDuty q ≤ 4 ∧ t = { s with pwr := t.pwr }) ∧
  (∀ (s : State) (d x : Nat), s.pwr.phase = .up → d < 24 → (twf (fun _ => 0) s.pwr.caps = true) → ((tgetD 0 s.pwr.caps
    d = 1 ∧ 98 ≤ x ∧ x < 101) ∨ (tgetD 0 s.pwr.caps d = 2 ∧ 108 ≤ x ∧ x < 110)) →
    ∃ t : State, exec (.dieTemperatureSample d x) s = .next t ∧ tgetD 0 t.pwr.caps d = tgetD 0 s.pwr.caps d ∧ t = { s with pwr := t.pwr }) ∧
  (∀ (s : State) (d x : Nat), s.pwr.phase = .up → d < 24 → (twf (fun _ => 0) s.pwr.caps = true) → x ≤ 97 →
    ∃ t : State, exec (.dieTemperatureSample d x) s = .next t ∧ tgetD 0 t.pwr.caps d = 0 ∧ t = { s with pwr := t.pwr }) ∧
  (∀ (s : State) (d x : Nat), RegsOk s → s.pwr.phase = .up → d < 24 → 120 ≤ x →
    ∃ t : State, exec (.dieTemperatureSample d x) s = .next t ∧ t.pwr.phase = .flushing false ∧ t.flag .qStat Q_STAT_PLSTOP = true ∧
          t.evt.raised.map (fun e => e.2.code) = s.evt.raised.map (fun e => e.2.code) ++ [0x0A05, 0x0A01] ∧ RegsBut [.qStat, .glbInt] s t) ∧
  (∀ s : State, RegsOk s →
    ∃ t : State, exec .refclkLoss s = .next t ∧ t.fld .qStat Q_STAT_LINKGEN = 0 ∧ t.fld .qStat Q_STAT_LINKW = 0 ∧ t.pwr.refclk = false ∧ RegsBut [.qStat] s t ∧
          t = { s with regs := t.regs, pwr := { s.pwr with refclk := false } }) ∧
  (∀ (s : State) (n : Nat), RegsOk s → s.pwr.phase = .up → (∀ q ∈ s.pwr.wakeReq, q < 80) → (n = (s.pwr.grants.filter
    fun x => decide (s.svcTime < x + 800)).length) →
    ∃ t : State, exec .wakeTokenGrant s = .next t ∧ t.pwr.wakeReq = s.pwr.wakeReq.drop (4 - n) ∧
          (∀ q ∈ s.pwr.wakeReq.take (4 - n), t.fld (.pwrQuad q) PWR_QUAD_STATE = 0 ∧ t.flag (.pwrQuad q) PWR_QUAD_WAITTOK = false) ∧
          RegsBut ((s.pwr.wakeReq.take (4 - n)).map .pwrQuad) s t ∧ t = { s with regs := t.regs, pwr := t.pwr }) ∧
  (∀ (s : State) (q : Nat), RegsOk s → q < 80 → s.pwr.phase = .up → s.fld (.pwrQuad q) PWR_QUAD_REQ = 0 → s.fld
    (.pwrQuad q) PWR_QUAD_STATE = 0 → s.quadIdle q = true →
    ∃ t : State, exec (.quadIdleGate q) s = .next t ∧ t.fld (.pwrQuad q) PWR_QUAD_STATE = 1 ∧ RegsBut [.pwrQuad q] s t ∧ t = { s with regs := t.regs }) ∧
  (∀ (s : State) (q : Nat), (80 ≤ q ∨ s.pwr.phase ≠ .up ∨ s.quadIdle q = false ∨ s.fld (.pwrQuad q) PWR_QUAD_REQ ≠ 0 ∨
    s.fld (.pwrQuad q) PWR_QUAD_STATE ≠ 0) →
    exec (.quadIdleGate q) s = .next s) ∧
  (∀ (s : State) (q r : Nat), (r % 4 = 3 ∨ (r % 4 = 2 ∧ s.quadInst q ≠ none)) →
    exec (.pwrQuadWrite q r) s = .next s) ∧
  (∀ (s : State) (q r : Nat), RegsOk s → s.pwrGood = true → q < 80 → ((r = 1 ∧ s.fld (.pwrQuad q) PWR_QUAD_STATE = 1)
    ∨ (r < 2 ∧ s.fld (.pwrQuad q) PWR_QUAD_STATE = 2)) → s.flag (.pwrQuad q) PWR_QUAD_WAITTOK = false →
    ∃ t : State, exec (.pwrQuadWrite q r) s = .next t ∧ t.fld (.pwrQuad q) PWR_QUAD_REQ = r ∧ t.flag (.pwrQuad q) PWR_QUAD_WAITTOK = true ∧ t.pwr.wakeReq = s.pwr.wakeReq ++ [q] ∧
          t.fld (.pwrQuad q) PWR_QUAD_STATE = s.fld (.pwrQuad q) PWR_QUAD_STATE ∧ RegsBut [.pwrQuad q] s t ∧ t = { s with regs := t.regs, pwr := t.pwr }) ∧
  (∀ (s : State) (q r : Nat), RegsOk s → s.pwrGood = true → q < 80 → r < 2 → (s.fld (.pwrQuad q) PWR_QUAD_STATE = 0 ∨
    s.flag (.pwrQuad q) PWR_QUAD_WAITTOK = true ∨ (r = 0 ∧ s.fld (.pwrQuad q) PWR_QUAD_STATE = 1)) →
    ∃ t : State, exec (.pwrQuadWrite q r) s = .next t ∧ t.fld (.pwrQuad q) PWR_QUAD_REQ = r ∧ t.flag (.pwrQuad q) PWR_QUAD_WAITTOK = s.flag (.pwrQuad q) PWR_QUAD_WAITTOK ∧
          t.fld (.pwrQuad q) PWR_QUAD_STATE = s.fld (.pwrQuad q) PWR_QUAD_STATE ∧ RegsBut [.pwrQuad q] s t ∧ t = { s with regs := t.regs }) ∧
  (∀ (s : State) (q : Nat), RegsOk s → s.pwrGood = true → q < 80 → s.quadInst q = none →
    ∃ t : State, exec (.pwrQuadWrite q 2) s = .next t ∧ t.fld (.pwrQuad q) PWR_QUAD_REQ = 2 ∧ t.fld (.pwrQuad q) PWR_QUAD_STATE = 2 ∧ q ∉ t.pwr.wakeReq ∧ t.mem = s.mem ∧ t.quay = s.quay)

/-- Losing P48 or the oscillator, PWR_EN low, and a sideband cold reset start the flush once: PLSTOP is set and PWR_LOSS
raised. The flush seals each partition at the highest sequence number in flash: durable writes at or below it are
destaged, those above lost. The seal ends in a cold reset: memory, commands, instances and partitions are gone, the life
cycle stays, and a cold reset over the sideband starts again at once. A warm reset keeps DRAM (but for what a move or
build in progress gives up), owners, partitions and SVC_TIME; commands, queue pairs, instances and threads are gone,
scratchpads are zero, and WARM is set. RECOVERY makes the quay ready and raises a record per partition that wrote, with
its seal. A restore ends once its partition is ON. RST_REQ resets a unit, a quad or a partition, whose tasks end
TASK_ABORTED. -/
def Obligations.ResetsTheFlushAndRecovery : Prop :=
  (∀ s : State, RegsOk s → s.pwr.phase = .up →
    ∃ t : State, exec .p48Loss s = .next t ∧ t.pwr.p48 = false ∧ t.pwr.phase = .flushing false ∧ t.flag .qStat Q_STAT_PLSTOP = true ∧ Raised modLog srcM 0x0A01 [] s t ∧ RegsBut [.qStat, .glbInt] s t ∧ t.mem = s.mem ∧ t.coll = s.coll) ∧
  (∀ s : State, RegsOk s → s.pwr.phase = .up →
    ∃ t : State, exec .pwrEnLow s = .next t ∧ t.pwr.pwrEn = false ∧ t.pwr.phase = .flushing false ∧ t.flag .qStat Q_STAT_PLSTOP = true ∧ Raised modLog srcM 0x0A01 [] s t ∧ RegsBut [.qStat, .glbInt] s t ∧ t.mem = s.mem) ∧
  (∀ (s : State) (b : Bool), s.pwr.phase = .off b →
    exec .pwrEnLow s = .next { s with pwr := { s.pwr with pwrEn := false, phase := .off false } }) ∧
  (∀ s : State, RegsOk s → s.pwr.phase = .up →
    ∃ t : State, exec .oscillatorFail s = .next t ∧ t.pwr.phase = .flushing false ∧ t.flag .qStat Q_STAT_PLSTOP = true ∧ Raised modLog srcM 0x0A01 [] s t ∧ RegsBut [.qStat, .glbInt] s t) ∧
  (∀ s : State, RegsOk s → s.pwr.phase = .up → s.sidebandUp = true →
    ∃ t : State, exec .sidebandColdReset s = .next t ∧ t.pwr.phase = .flushing true ∧ t.flag .qStat Q_STAT_PLSTOP = true ∧ Raised modLog srcM 0x0A01 [] s t ∧ RegsBut [.qStat, .glbInt] s t) ∧
  (∀ (s : State) (b : Bool), s.pwr.phase = .flushing b →
    exec .oscillatorFail s = .next s ∧ exec .sidebandColdReset s = .next s) ∧
  (∀ (s : State) (b : Bool) (p : Nat) (c : CPart) (fs : List (Nat × Nat)), RegsOk s → s.pwr.phase = .flushing b →
    s.coll.flushed = false → (twf (fun _ => ({} : CPart)) s.coll.parts = true) → s.cpart p = c → c ≠ {} →
    ∃ t : State, exec (.powerLossFlush fs) s = .next t ∧ t.coll.flushed = true ∧ (t.cpart p).sealed = some (c.sealAt ((fs.filter (·.1 = p)).map (·.2))) ∧
          (t.cpart p).entries = c.entries.map (fun (e : DEntry) =>
            if e.durable = true ∧ e.lost = false then
              (if e.seq ≤ c.sealAt ((fs.filter (·.1 = p)).map (·.2)) then { e with destaged := true } else { e with lost := true })
            else e) ∧
          (∀ r < 16, t.fld (.abPort r) AB_PORT_WIDTH = 0) ∧ t.fab.landing = [] ∧ t.pwr.phase = s.pwr.phase ∧ t.mem = s.mem) ∧
  (∀ (s : State) (fs : List (Nat × Nat)), (s.coll.flushed = true ∨ (s.pwr.phase ≠ .flushing true ∧ s.pwr.phase ≠
    .flushing false)) →
    exec (.powerLossFlush fs) s = .next s) ∧
  (∀ s : State, (s.coll.flushed = false ∨ (s.pwr.phase ≠ .flushing true ∧ s.pwr.phase ≠ .flushing false)) →
    exec .flushSeal s = .next s) ∧
  (∀ (s : State) (b : Bool), RegsOk s → s.pwr.phase = .flushing b → s.coll.flushed = true →
    ∃ t : State, exec .flushSeal s = .next t ∧ t.pwr.phase = .off (!b && s.pwr.pwrEn) ∧ t.mem = [] ∧ t.quay.cmds = [] ∧ t.ctl = {} ∧ t.lc = s.lc ∧ (∀ p < 64, t.ptState p = 0) ∧ (∀ n, t.qp n = {}) ∧
          t.trust.nonce = none ∧ t.trust.nor = s.trust.nor ∧ t.trust.svnMin = s.trust.svnMin ∧ t.pwr.retired = s.pwr.retired ∧ t.pending = s.pending ∧ t.outbox = s.outbox) ∧
  (∀ s : State, Canonical s → s.pwr.phase = .up → (s.pwr.quayReady = true ∨ s.coll.recover = some true) → (twf (fun _
    => ({} : PortSt)) s.fab.ports = true) → s.pwr.perstN = true →
    ∃ t : State, exec .perstNLow s = .next t ∧ t.pwr.perstN = false ∧ t.pwr.warmWait = true ∧ t.pwr.quayReady = false ∧ t.coll.recover = some true ∧ t.flag .glbStat GLB_STAT_WARM = true ∧ t.quay.cmds = [] ∧ t.ctl.insts = [] ∧ t.ctl.threads = [] ∧ (∀ n, t.qp n = {}) ∧
          (∀ p, t.port p = { good := (s.port p).good }) ∧ (∀ p < 16, t.fld (.abPort p) AB_PORT_WIDTH = if s.linkGone p = true then 0 else 1) ∧ (∀ p < 64, t.ptState p = s.ptState p) ∧ t.svcTime = s.svcTime ∧
          (∀ q < 80, t.owner 0 q = s.owner 0 q) ∧ (∀ a, t.addrPart a = s.addrPart a) ∧
          (((∀ o ∈ s.tier.objs, o.move = none) ∧ (∀ k ∈ s.coll.colls, k.2.all (fun k => k.build.isNone) = true)) → ∀ a, spBase ≤ a ∨ memByte t.mem a = memByte s.mem a) ∧
          (∀ d < 20, ∀ o, moorOff ≤ o ∨ memByte t.mem (spBase + d * spSize + o) = 0#8)) ∧
  (∀ s : State, Canonical s → s.pwr.phase = .up → (s.pwr.quayReady = true ∨ s.coll.recover = some true) → (twf (fun _
    => ({} : PortSt)) s.fab.ports = true) → s.sidebandUp = true →
    ∃ t : State, exec .sidebandWarmReset s = .next t ∧ t.pwr.warmWait = s.pwr.warmWait ∧ t.pwr.quayReady = false ∧ t.coll.recover = some true ∧ t.flag .glbStat GLB_STAT_WARM = true ∧ t.quay.cmds = [] ∧ t.ctl.insts = [] ∧ t.ctl.threads = [] ∧ (∀ n, t.qp n = {}) ∧
          (∀ p, t.port p = { good := (s.port p).good }) ∧ (∀ p < 16, t.fld (.abPort p) AB_PORT_WIDTH = if s.linkGone p = true then 0 else 1) ∧ (∀ p < 64, t.ptState p = s.ptState p) ∧ t.svcTime = s.svcTime ∧
          (∀ q < 80, t.owner 0 q = s.owner 0 q) ∧ (∀ a, t.addrPart a = s.addrPart a) ∧
          (((∀ o ∈ s.tier.objs, o.move = none) ∧ (∀ k ∈ s.coll.colls, k.2.all (fun k => k.build.isNone) = true)) → ∀ a, spBase ≤ a ∨ memByte t.mem a = memByte s.mem a) ∧
          (∀ d < 20, ∀ o, moorOff ≤ o ∨ memByte t.mem (spBase + d * spSize + o) = 0#8)) ∧
  (∀ s : State, (s.pwr.perstN = false ∨ s.pwr.phase ≠ .up ∨ (s.pwr.quayReady = false ∧ s.coll.recover ≠ some true)) →
    exec .perstNLow s = .next { s with pwr := { s.pwr with perstN := false } }) ∧
  (∀ s : State,
    exec .perstNHigh s = .next { s with pwr := { s.pwr with perstN := true, refclk := true, warmWait := false } }) ∧
  (∀ (s : State) (w : Bool), s.coll.recover = some w → s.mainUp = true → s.pwr.warmWait = false → s.coll.parts = [] →
    s.coll.colls = [] →
    exec .recovery s = .next { s with coll := { s.coll with recover := none }, pwr := { s.pwr with quayReady := true } }) ∧
  (∀ (s : State) (w : Bool) (p : Nat), s.coll.recover = some w → s.mainUp = true → s.pwr.warmWait = false → (twf (fun
    _ => ({} : CPart)) s.coll.parts = true) → 1 < (s.cpart p).next → (twf (fun _ => 0) s.quay.seals = true) →
    ∃ t : State, exec .recovery s = .next t ∧ t.coll.recover = none ∧ t.pwr.quayReady = true ∧ (t.cpart p).recovered = true ∧ (t.cpart p).sealed = none ∧
          tgetD 0 t.quay.seals p = (if w = true then (s.cpart p).top else (s.cpart p).sealed.getD (s.cpart p).top) ∧
          ((∀ c ∈ s.coll.parts, ∀ e ∈ c.2.entries, e.posted = true ∧ e.durable = true ∧ e.lost = false) →
            (t.evt.raised.map fun r => (r.1, r.2.src, r.2.code)).contains (p, srcQuay, 0x0704) = true)) ∧
  (∀ (s : State) (w : Bool) (p : Nat) (c : CPart), s.coll.recover = some w → s.mainUp = true → s.pwr.warmWait = false
    → s.coll.parts = [(p, c)] → s.coll.colls = [] → 1 < c.next → (∀ e ∈ c.entries, e.posted = true ∧ e.durable = true
    ∧ e.lost = false) → (twf (fun _ => 0) s.quay.seals = true) →
    ∃ t : State, exec .recovery s = .next t ∧ t.coll.recover = none ∧ t.pwr.quayReady = true ∧ (t.cpart p).recovered = true ∧ (t.cpart p).sealed = none ∧
          tgetD 0 t.quay.seals p = (if w = true then c.top else c.sealed.getD c.top) ∧
          Raised p srcQuay 0x0704 (leBytes 8 (if w = true then c.top else c.sealed.getD c.top) ++ leBytes 4 (c.writes.filterMap fun x => x.2.bind (c.recovered? x.1)).length ++ leBytes 1 (if w then 1 else 0)) s t ∧ RegsBut [.cmPstat p] s t ∧ t.mem = s.mem) ∧
  (∀ (s : State) (w : Bool), s.coll.recover = some w → (s.mainUp = false ∨ s.pwr.warmWait = true) →
    exec .recovery s = .next s) ∧
  (∀ (s : State) (n : Nat) (k : Coll), s.quayUp = true → s.collOf n = some k → k.restoring = true → s.partOn k.part =
    true →
    ∃ t : State, exec (.stagedRestore false n) s = .next t ∧ (t.collOf n).map Coll.restoring = some false ∧ (∀ k, k ≠ n → t.collOf k = s.collOf k) ∧ t.quay = s.quay) ∧
  (∀ (s : State) (n : Nat) (v : Model), s.quayUp = true → s.model n = some v → (s.towersOf n).restoring = true →
    s.partOn v.part = true → (twf (fun _ => ({} : Towers)) s.coll.towers = true) →
    ∃ t : State, exec (.stagedRestore true n) s = .next t ∧ t.towersOf n = { s.towersOf n with restoring := false } ∧ (v.hist = none → t.mem = s.mem) ∧ t.quay = s.quay) ∧
  (∀ (s : State) (n : Nat), (s.quayUp = false ∨ (s.collOf n).any (fun k => k.restoring && s.partOn k.part) = false) →
    exec (.stagedRestore false n) s = .next s) ∧
  (∀ (s : State) (n : Nat), (s.quayUp = false ∨ (s.towersOf n).restoring = false ∨ (s.model n).any (fun v => s.partOn
    v.part) = false) →
    exec (.stagedRestore true n) s = .next s) ∧
  (∀ (s : State) (l q u p : Nat), 2 < l % 8 →
    exec (.rstReqGo l q u p) s = .next s) ∧
  (∀ (s : State) (q u p i j : Nat), RegsOk s → s.pwr.phase = .up → q < 80 → unitOk u = true → i < 80 → j < 16 →
    s.quadInst q = some i → s.flag (.schInst i) SCH_INST_RUN = true → (twf (fun _ => 0) s.net.epochs = true) →
    ∃ t : State, exec (.rstReqGo 0 q u p) s = .next t ∧ t.flag .rstReq RST_REQ_GO = false ∧ t.flag (.schInst i) SCH_INST_ABORTING = true ∧
          t.thread q u j = (s.thread q u j).map (fun th => { base := th.base, ninstr := th.ninstr }) ∧ t.epochOf (srcUnit q u) = (s.epochOf (srcUnit q u) + 1) % 2 ^ 16 ∧
          (∀ v < 16, ∀ k < 16, v ≠ u → t.thread q v k = s.thread q v k) ∧ t.quay = s.quay) ∧
  (∀ (s : State) (q u p : Nat), s.pwr.phase = .up → (unitOk (u % 16) = false ∨ 80 ≤ q % 128) →
    ∃ t : State, exec (.rstReqGo 0 q u p) s = .next t ∧ RegsBut [.rstReq] s t ∧ t = { s with regs := t.regs }) ∧
  (∀ (s : State) (q u p j : Nat), RegsOk s → s.pwr.phase = .up → q < 80 → j < 256 → (twf (fun _ => (none : Option
    SuSlot)) s.eng.slots = true) →
    ∃ t : State, exec (.rstReqGo 1 q u p) s = .next t ∧ t.flag .rstReq RST_REQ_GO = false ∧ t.sem q j = 0 ∧ q ∉ t.pwr.wakeReq ∧ (∀ k < 8, t.slot q k = none) ∧ t.quay = s.quay) ∧
  (∀ (s : State) (p i : Nat) (v : Inst) (k : Task), RegsOk s → s.pwr.phase = .up → p < 64 → (twf (fun _ => (none :
    Option Inst)) s.ctl.insts = true) → s.instsOf p = [i] → s.inst i = some v → v.kind ≠ 2 → v.tasks = [k] → k.started
    = false → s.ctl.waiting = [] → (∀ q ∈ v.quads, q < 80) → s.coll.colls = [] →
    ∃ t : State, exec (.rstReqGo 2 0 0 p) s = .next t ∧ t.inst i = none ∧ Ended k.cmd stTaskAborted 0 0 [] s t ∧ t.flag (.schInst i) SCH_INST_RUN = false ∧ (∀ q ∈ v.quads, t.quadInst q = none))

/-- A nonce replaces the one before and goes out over the sideband. A transition that Table 15-6 does not list, or whose
token does not verify, is refused and changes no state but the nonce that its token names; an accepted one advances the
key epoch, destroys every key, wipes memory and turns every partition OFF; where power fails first it is pending and the
next start completes it. A boot that is not halted took, for every kind, a valid copy with no valid copy of a higher
SEQ; two invalid copies of kind 1 halt it. An update writes the other copy with the next SEQ, and a torn one leaves it
empty. A minimum SVN never falls. The start of the main domain ends with it up, or with the rail that failed. -/
def Obligations.LifeCycleBootAndFirmware : Prop :=
  (∀ s : State, s.sidebandUp = true → s.lc ≠ lcRetired →
    exec .lifeCycleNonce s = .next { s with fresh := s.fresh + 1, trust := { s.trust with nonce := some (bytesAt (Config.nonce s.fresh) 0 32) }, outbox := s.outbox ++ [Out.sideband 2 (bytesAt (Config.nonce s.fresh) 0 32)] }) ∧
  (∀ (s : State) (x : Nat) (tok : Option (List Byte)) (f : Bool), s.sidebandUp = true → s.pwr.phase ≠ .flushing true →
    s.pwr.phase ≠ .flushing false → (lcNeeds s.lc x = none ∨ (lcNeeds s.lc x ≠ some none ∧ tok = none)) →
    ∃ t : State, exec (.lifeCycleTransition x tok f) s = .next t ∧ t.outbox = s.outbox ++ [Out.sideband 3 (leBytes 1 x)] ∧
          t.trust.nonce = (if s.trust.nonce ≠ none ∧ s.trust.nonce = tok.map (fun t => bytesAt t 16 32) then none else s.trust.nonce) ∧
          t = { s with outbox := t.outbox, trust := { s.trust with nonce := t.trust.nonce } }) ∧
  (∀ (s : State) (x k : Nat) (tok : List Byte) (f : Bool), RegsOk s → s.sidebandUp = true → s.pwr.phase ≠ .flushing
    true → s.pwr.phase ≠ .flushing false → lcNeeds s.lc x = some (some k) →
    ∃ t : State, exec (.lifeCycleTransition x (some tok) f) s = .next t ∧ (s.tokenOk k x tok = false → t.outbox = s.outbox ++ [Out.sideband 3 (leBytes 1 x)] ∧ t.regs = s.regs ∧ t.mem = s.mem) ∧
          (s.tokenOk k x tok = true → f = false → t.lc = x ∧ t.mem = [] ∧ t.trust.keys = [] ∧ (∀ p < 64, t.ptState p = 0) ∧
            t.fld .lcStat LC_STAT_KEYEPOCH = (s.fld .lcStat LC_STAT_KEYEPOCH + 1) % 2 ^ LC_STAT_KEYEPOCH.w) ∧
          (s.tokenOk k x tok = true → f = true → t.lc = s.lc ∧ t.trust.lcPending = some x ∧ t.flag .lcStat LC_STAT_PENDING = true) ∧
          (s.trust.nonce = some (bytesAt tok 16 32) → t.trust.nonce = none)) ∧
  (∀ (s : State) (x : Nat) (tok : Option (List Byte)), RegsOk s → s.sidebandUp = true → s.pwr.phase ≠ .flushing true →
    s.pwr.phase ≠ .flushing false → lcNeeds s.lc x = some none →
    ∃ t : State, exec (.lifeCycleTransition x tok false) s = .next t ∧ t.lc = x ∧ t.fld .lcStat LC_STAT_KEYEPOCH = (s.fld .lcStat LC_STAT_KEYEPOCH + 1) % 2 ^ LC_STAT_KEYEPOCH.w ∧ t.trust.keys = [] ∧
          t.mem = [] ∧ (∀ p < 64, t.ptState p = 0) ∧ t.pwr.phase = s.pwr.phase ∧ t.rank.models = [] ∧ t.coll.colls = [] ∧ t.tier.objs = [] ∧ t.trust.lcPending = none) ∧
  (∀ (s : State) (x : Nat) (tok : Option (List Byte)), RegsOk s → s.sidebandUp = true → s.pwr.phase ≠ .flushing true →
    s.pwr.phase ≠ .flushing false → lcNeeds s.lc x = some none →
    ∃ t : State, exec (.lifeCycleTransition x tok true) s = .next t ∧ t.lc = s.lc ∧ t.trust.lcPending = some x ∧ t.flag .lcStat LC_STAT_PENDING = true ∧ t.pwr.phase = .off false) ∧
  (∀ (s : State) (w : Bool), RegsOk s → s.pwr.phase = .up → s.coll.recover = some w → s.pwr.warmWait = false → s.lc ≠
    lcRetired → s.trust.halted = none → (twf (fun _ => 0) s.trust.taken = true) →
    ∃ t : State, exec (.secureBoot w) s = .next t ∧
          (t.trust.halted = none → ∀ k < (if w then 7 else 8), 1 ≤ k →
            s.imageOk k (s.image k (tgetD 0 t.trust.taken k)) = true ∧
            (s.imageOk k (s.image k (1 - tgetD 0 t.trust.taken k)) = true → (s.image k (1 - tgetD 0 t.trust.taken k)).seq ≤ (s.image k (tgetD 0 t.trust.taken k)).seq)) ∧
          ((s.imageOk 1 (s.image 1 0) = false ∧ s.imageOk 1 (s.image 1 1) = false) →
            t.trust.halted = some 1 ∧ t.flag .glbStat GLB_STAT_BOOTC = true ∧ t.outbox = s.outbox ++ [Out.sideband 1 (leBytes 1 1)] ∧ t.trust.taken = s.trust.taken) ∧
          t.mem = s.mem ∧ t.trust.nor = s.trust.nor ∧ t.trust.svnMin = s.trust.svnMin) ∧
  (∀ (s : State) (w : Bool), (s.pwr.phase ≠ .up ∨ s.coll.recover ≠ some w ∨ s.pwr.warmWait = true ∨ s.lc = lcRetired)
    →
    exec (.secureBoot w) s = .next s) ∧
  (∀ (s : State) (k c : Nat) (h b : List Byte), s.sidebandUp = true → 1 ≤ k → k ≤ 7 → s.lc ≠ lcRetired → (twf (fun _
    => ({} : Image)) s.trust.nor = true) → c = tgetD 0 s.trust.taken k → c ≤ 1 → 12 ≤ h.length → (s.image k c).seq + 1
    < 2 ^ 32 →
    ∃ t : State, exec (.pldmFirmwareUpdate k h b false) s = .next t ∧ (t.image k (1 - c)).seq = (s.image k c).seq + 1 ∧ (t.image k (1 - c)).body = b ∧ t.image k c = s.image k c ∧
          (∀ j, j ≠ k → t.image j 0 = s.image j 0 ∧ t.image j 1 = s.image j 1) ∧ t = { s with trust := { s.trust with nor := t.trust.nor } }) ∧
  (∀ (s : State) (k c : Nat) (h b : List Byte), s.sidebandUp = true → 1 ≤ k → k ≤ 7 → s.lc ≠ lcRetired → (twf (fun _
    => ({} : Image)) s.trust.nor = true) → c = tgetD 0 s.trust.taken k → c ≤ 1 →
    ∃ t : State, exec (.pldmFirmwareUpdate k h b true) s = .next t ∧ t.image k (1 - c) = {} ∧ t.image k c = s.image k c ∧ t = { s with trust := { s.trust with nor := t.trust.nor } }) ∧
  (∀ (s : State) (k : Nat), s.sidebandUp = true → 1 ≤ k → k ≤ 7 → s.lc ≠ lcRetired → (twf (fun _ => 0) s.trust.svnMin
    = true) →
    ∃ t : State, exec (.svnCommit k) s = .next t ∧ tgetD 0 t.trust.svnMin k = max (tgetD 0 s.trust.svnMin k) (tgetD 0 s.trust.runSvn k) ∧ (∀ j, j ≠ k → tgetD 0 t.trust.svnMin j = tgetD 0 s.trust.svnMin j) ∧
          t = { s with trust := { s.trust with svnMin := t.trust.svnMin } }) ∧
  (∀ (s : State), s.pwr.phase = .off false → s.trust.lcPending = none →
    exec (.mainPowerUp none) s = .next { s with pwr := { s.pwr with p48 := true, pwrEn := true, mgmtUp := true, phase := .up, quayReady := false }, hw := { s.hw with j4 := true } }) ∧
  (∀ (s : State) (r : Nat), s.pwr.phase = .off false → s.trust.lcPending = none →
    ∃ t : State, exec (.mainPowerUp (some r)) s = .next t ∧ t.pwr.phase = .railFail r ∧ t.outbox = s.outbox ++ [Out.sideband 0 (leBytes 1 r)] ∧ t.mem = s.mem ∧ t.regs = s.regs) ∧
  (∀ (s : State) (x : Nat), RegsOk s → s.pwr.phase = .off false → s.trust.lcPending = some x → x ≤ 4 →
    ∃ t : State, exec (.mainPowerUp none) s = .next t ∧ t.pwr.phase = .up ∧ t.lc = x ∧ t.trust.lcPending = none ∧ t.trust.keys = [] ∧ t.mem = []) ∧
  (∀ (s : State) (r : Option Nat), s.pwr.phase ≠ .off false →
    exec (.mainPowerUp r) s = .next s)

/-- A quad due for retirement becomes module-owned, is counted, and QUAD_RETIRED names it. A lost E-die's quads retire
and its quads and banks become module-owned; an event says which die. A lost hub leaves FLT_HEALTH, its quads, banks and
memory become module-owned, its stacks' channels fail and its ports go DOWN; both hubs of a side lost cost the module. A
PLL that loses lock fails its die, once. A quay parity error sets FATAL. A second self-check failure of a service die
costs the module. RESUMED reports the interruption of a partition once its aborts are over. HEALTH shows the highest row
that holds, and records a change. -/
def Obligations.FaultsSparesAndHealth : Prop :=
  (∀ (s : State) (q c : Nat), RegsOk s → q < 80 → s.pwr.retireDue.find? (·.1 = q) = some (q, c) → q ∉ s.pwr.retired →
    s.quadInst q = none → s.fld .fltHealth FLT_HEALTH_QRET < 127 →
    ∃ t : State, exec (.quadRetired q) s = .next t ∧ t.owner 0 q = 0x80 ∧ t.pwr.retired = s.pwr.retired ++ [q] ∧ t.pwr.retireDue = s.pwr.retireDue.filter (·.1 ≠ q) ∧
          t.fld .fltHealth FLT_HEALTH_QRET = s.fld .fltHealth FLT_HEALTH_QRET + 1 ∧ Raised (s.quadLog q) srcM 0x0B01 (leBytes 2 q ++ leBytes 2 c ++ leBytes 2 0xFFFF) s t ∧
          (∀ k < 80, k ≠ q → t.owner 0 k = s.owner 0 k) ∧ t.quay = s.quay) ∧
  (∀ (s : State) (q c i : Nat), RegsOk s → q < 80 → s.pwr.retireDue.find? (·.1 = q) = some (q, c) → q ∉ s.pwr.retired
    → s.quadInst q = some i →
    ∃ t : State, exec (.quadRetired q) s = .next t ∧ t.owner 0 q = 0x80 ∧ q ∈ t.pwr.retired ∧
          (t.evt.raised.map fun r => (r.1, r.2.src, r.2.code)).contains (s.quadLog q, srcM, 0x0B01) = true) ∧
  (∀ (s : State) (q : Nat), (∀ d ∈ s.pwr.retireDue, d.1 ≠ q) →
    exec (.quadRetired q) s = .next s) ∧
  (∀ (s : State) (d : Nat), RegsOk s → d < 20 → d ∉ s.pwr.diesLost → s.moorsListed = [] → s.net.rangeWait = [] → (∀ q
    < 80, s.quadInst q = none) → s.ctl.aborting = [] → s.fld .fltHealth FLT_HEALTH_QRET + 4 ≤ 127 → (∀ k ∈
    s.pwr.retired, k / 4 ≠ d) → (∀ x ∈ s.net.snoops, x.die ≠ d) →
    ∃ t : State, exec (.dieLost d) s = .next t ∧ t.pwr.diesLost = s.pwr.diesLost ++ [d] ∧ (∀ k < 4, t.owner 0 (4 * d + k) = 0x80) ∧ (∀ b < 64, t.owner 1 (64 * d + b) = 0x80) ∧
          t.fld .fltHealth FLT_HEALTH_QRET = s.fld .fltHealth FLT_HEALTH_QRET + 4 ∧ t.evt.raised.map (fun e => e.2.code) = s.evt.raised.map (fun e => e.2.code) ++ [0x0B02, 0x0B01, 0x0B01, 0x0B01, 0x0B01] ∧
          t.mem = s.mem ∧ t.quay = s.quay) ∧
  (∀ (s : State) (d : Nat), RegsOk s → d < 20 → d ∉ s.pwr.diesLost →
    ∃ t : State, exec (.dieLost d) s = .next t ∧ d ∈ t.pwr.diesLost ∧ (∀ k < 4, 4 * d + k ∉ s.pwr.retired → t.owner 0 (4 * d + k) = 0x80 ∧ 4 * d + k ∈ t.pwr.retired) ∧
          (∀ b < 64, t.owner 1 (64 * d + b) = 0x80) ∧ (t.evt.raised.map fun r => (r.1, r.2.src, r.2.code, r.2.data)).contains (modLog, srcM, 0x0B02, bytesAt (leBytes 2 (srcDie d)) 0 16) = true) ∧
  (∀ (s : State) (d : Nat), (20 ≤ d ∨ d ∈ s.pwr.diesLost) →
    exec (.dieLost d) s = .next s) ∧
  (∀ (s : State) (h : Nat), RegsOk s → h < 4 → bitAt (s.fld .fltHealth FLT_HEALTH_HUBS) h = true →
    ∃ t : State, exec (.hubLost h) s = .next t ∧ t.fld .fltHealth FLT_HEALTH_HUBS = s.fld .fltHealth FLT_HEALTH_HUBS - 2 ^ h ∧ (∀ k < 20, t.owner 0 (20 * h + k) = 0x80) ∧ (∀ k < 320, t.owner 1 (320 * h + k) = 0x80) ∧
          (∀ k < 108, t.owner 2 (108 * h + k) = 0x80) ∧ (∀ k < 3, t.fld (.memHstat (3 * h + k)) MEM_HSTAT_CHFAIL = 0xFFFF) ∧ (∀ k < 4, t.fld (.abPort (4 * h + k)) AB_PORT_WIDTH = 0) ∧
          (s.pwr.moduleLost = false → t.pwr.moduleLost = !(bitAt (s.fld .fltHealth FLT_HEALTH_HUBS) (h / 2 * 2 + (1 - h % 2)) &&
            (bitAt (s.fld .fltHealth FLT_HEALTH_HUBS) (2 - h / 2 * 2) || bitAt (s.fld .fltHealth FLT_HEALTH_HUBS) (3 - h / 2 * 2)))) ∧
          (∀ k < 5, 5 * h + k ∈ t.pwr.diesLost) ∧ (s.ctl.insts = [] ∧ s.coll.colls = [] ∧ s.tier.objs = [] → t.quay = s.quay)) ∧
  (∀ (s : State) (h : Nat), (4 ≤ h ∨ bitAt (s.fld .fltHealth FLT_HEALTH_HUBS) h = false) →
    exec (.hubLost h) s = .next s) ∧
  (∀ (s : State) (x : Nat), x ∉ s.pwr.pllLost → (x = srcQuay ∨ x = srcFlash ∨ x = srcM ∨ x = srcT) →
    ∃ t : State, exec (.clkLock x) s = .next t ∧ t.pwr = { s.pwr with pllLost := s.pwr.pllLost ++ [x], moduleLost := true } ∧ Raised modLog srcM 0x0A06 [] s t ∧ t.regs = s.regs ∧ t.mem = s.mem) ∧
  (∀ (s : State) (l : Nat), RegsOk s → l < 4 → srcL l ∉ s.pwr.pllLost →
    ∃ t : State, exec (.clkLock (srcL l)) s = .next t ∧ t.pwr.pllLost = s.pwr.pllLost ++ [srcL l] ∧ (∀ k < 4, t.fld (.abPort (4 * l + k)) AB_PORT_WIDTH = 0) ∧ t.mem = s.mem ∧ t.quay = s.quay) ∧
  (∀ (s : State) (d : Nat), RegsOk s → d < 20 → d ∉ s.pwr.diesLost → srcDie d ∉ s.pwr.pllLost →
    ∃ t : State, exec (.clkLock (srcDie d)) s = .next t ∧ d ∈ t.pwr.diesLost ∧ srcDie d ∈ t.pwr.pllLost ∧ (∀ b < 64, t.owner 1 (64 * d + b) = 0x80)) ∧
  (∀ (s : State) (h : Nat), RegsOk s → h < 4 → srcHub h ∉ s.pwr.pllLost → bitAt (s.fld .fltHealth FLT_HEALTH_HUBS) h =
    true →
    ∃ t : State, exec (.clkLock (srcHub h)) s = .next t ∧ t.fld .fltHealth FLT_HEALTH_HUBS = s.fld .fltHealth FLT_HEALTH_HUBS - 2 ^ h ∧ srcHub h ∈ t.pwr.pllLost) ∧
  (∀ (s : State) (x : Nat), x ∈ s.pwr.pllLost →
    exec (.clkLock x) s = .next s) ∧
  (∀ s : State, RegsOk s →
    ∃ t : State, exec .quayFatal s = .next t ∧ t.flag .qStat Q_STAT_FATAL = true ∧ RegsBut [.qStat, .glbInt] s t ∧ t = { s with regs := t.regs, evt := t.evt }) ∧
  (∀ (s : State) (x : Nat), (x = srcM ∨ x = srcT) → x ∉ s.pwr.svcFaults → (twf (fun _ => 0) s.net.epochs = true) →
    ∃ t : State, exec (.serviceDieFault x) s = .next t ∧ t.pwr = { s.pwr with svcFaults := s.pwr.svcFaults ++ [x] } ∧ t.epochOf x = (s.epochOf x + 1) % 2 ^ 16 ∧ (x = srcT → t.trust.nonce = none) ∧ t.regs = s.regs ∧ t.quay = s.quay) ∧
  (∀ (s : State) (x : Nat), (x = srcM ∨ x = srcT) → x ∈ s.pwr.svcFaults →
    exec (.serviceDieFault x) s = .next { s with pwr := { s.pwr with moduleLost := true } }) ∧
  (∀ (s : State) (p : Nat) (r : Recovery), s.pwr.recov.find? (·.part = p) = some r → s.resumes p = true →
    ∃ t : State, exec (.resumed p) s = .next t ∧ Raised p srcM 0x0B06 (leBytes 8 r.time ++ leBytes 4 ((s.svcTime - r.time) / 400) ++ leBytes 2 r.code) s t ∧
          t.pwr = { s.pwr with recov := s.pwr.recov.filter (·.part ≠ p) } ∧ t.regs = s.regs ∧ t.mem = s.mem) ∧
  (∀ (s : State) (p : Nat), (s.pwr.recov.find? (·.part = p) = none ∨ s.resumes p = false) →
    exec (.resumed p) s = .next s) ∧
  (∀ s : State, RegsOk s → s.healthLevel ≠ s.fld .fltHealth FLT_HEALTH_LEVEL →
    ∃ t : State, exec .health s = .next t ∧ t.fld .fltHealth FLT_HEALTH_LEVEL = s.healthLevel ∧ t.flag .fltHealth FLT_HEALTH_CHANGED = true ∧
          Raised modLog srcM 0x0B07 (leBytes 1 (s.fld .fltHealth FLT_HEALTH_LEVEL) ++ leBytes 1 s.healthLevel) s t ∧ RegsBut [.fltHealth, .glbInt] s t ∧
          (s.healthLevel = 3 ↔ (s.pwr.moduleLost = true ∨ s.flag .qStat Q_STAT_FATAL = true)) ∧
          (s.pwr.diesLost ≠ [] → 2 ≤ s.healthLevel) ∧ (s.tier.readOnly ≠ [] → 1 ≤ s.healthLevel) ∧ t = { s with regs := t.regs, evt := t.evt }) ∧
  (∀ s : State, s.healthLevel = s.fld .fltHealth FLT_HEALTH_LEVEL →
    exec .health s = .next s)
end

