-- ==== Sys2Proof/Laws/Bits.lean ====
section
/-! SUPPORT. Laws of bit fields: a field reads back what was put into it, and leaves every disjoint field as it was. -/

namespace Sys2Proof.Machine

theorem bits_eq (n lo w : Nat) : bits n lo w = n / 2 ^ lo % 2 ^ w := by rw [bits, Nat.shiftRight_eq_div_pow]

theorem bits_lt (n lo w : Nat) : bits n lo w < 2 ^ w := Nat.mod_lt _ (Nat.two_pow_pos w)

theorem testBit_bits (n lo w i : Nat) : (bits n lo w).testBit i = (decide (i < w) && n.testBit (lo + i)) := by
  rw [bits, Nat.testBit_mod_two_pow, Nat.testBit_shiftRight]

theorem testBit_putBits (n lo w v i : Nat) : (putBits n lo w v).testBit i =
    if i < lo then n.testBit i else if i < lo + w then v.testBit (i - lo) else n.testBit i := by
  have e : putBits n lo w v = 2 ^ lo * (2 ^ w * (n >>> (lo + w)) + v % 2 ^ w) + n % 2 ^ lo := by
    rw [putBits, Nat.pow_add]
    ring
  rw [e, Nat.testBit_two_pow_mul_add _ (Nat.mod_lt _ (Nat.two_pow_pos lo))]
  split
  · rename_i h
    rw [Nat.testBit_mod_two_pow]
    simp [h]
  · rename_i h
    rw [Nat.testBit_two_pow_mul_add _ (Nat.mod_lt _ (Nat.two_pow_pos w))]
    by_cases hw : i - lo < w
    · rw [if_pos hw, if_pos (by omega), Nat.testBit_mod_two_pow]
      simp [hw]
    · rw [if_neg hw, if_neg (by omega), Nat.testBit_shiftRight]
      congr 1
      omega

/-- A field holds the value put into it, modulo its width. -/
theorem bits_putBits_self (n lo w v : Nat) : bits (putBits n lo w v) lo w = v % 2 ^ w := by
  apply Nat.eq_of_testBit_eq
  intro i
  rw [testBit_bits, testBit_putBits, Nat.testBit_mod_two_pow]
  by_cases h : i < w
  · simp [h]
  · simp [h]

/-- A field that lies wholly below or above another is as it was. -/
theorem bits_putBits_ne (n lo w v lo' w' : Nat) (h : lo' + w' ≤ lo ∨ lo + w ≤ lo') :
    bits (putBits n lo w v) lo' w' = bits n lo' w' := by
  apply Nat.eq_of_testBit_eq
  intro i
  rw [testBit_bits, testBit_bits, testBit_putBits]
  by_cases hi : i < w'
  · simp only [hi, decide_true, Bool.true_and]
    rcases h with h | h
    · rw [if_pos (by omega)]
    · rw [if_neg (by omega), if_neg (by omega)]
  · simp [hi]

theorem putBits_lt (n lo w v m : Nat) (hn : n < 2 ^ m) (h : lo + w ≤ m) : putBits n lo w v < 2 ^ m := by
  apply Nat.lt_pow_two_of_testBit
  intro i hi
  rw [testBit_putBits, if_neg (by omega), if_neg (by omega)]
  exact Nat.testBit_lt_two_pow (lt_of_lt_of_le hn (Nat.pow_le_pow_right (by omega) hi))

/-- A field of a register word reads back what was put into it. -/
theorem fget_fput_self (w : Word) (f : Fld) (v : Nat) (h : f.lo + f.w ≤ 64) : fget (fput w f v) f = v % 2 ^ f.w := by
  rw [fget, fput, BitVec.toNat_ofNat, Nat.mod_eq_of_lt (putBits_lt _ _ _ _ _ w.isLt h), bits_putBits_self]

/-- A disjoint field of a register word is as it was. -/
theorem fget_fput_ne (w : Word) (f g : Fld) (v : Nat) (h : f.lo + f.w ≤ 64)
    (hd : g.lo + g.w ≤ f.lo ∨ f.lo + f.w ≤ g.lo) : fget (fput w f v) g = fget w g := by
  rw [fget, fput, BitVec.toNat_ofNat, Nat.mod_eq_of_lt (putBits_lt _ _ _ _ _ w.isLt h), bits_putBits_ne _ _ _ _ _ _ hd, fget]

theorem fget_lt (w : Word) (f : Fld) : fget w f < 2 ^ f.w := bits_lt _ _ _

end Sys2Proof.Machine
end

