-- ==== Sys2Proof/Laws/Tab.lean ====
section
/-! SUPPORT. Laws of tables: a read after a write, and the canonical form, which every operation keeps. -/

namespace Sys2Proof.Machine

variable {α : Type}

theorem tget_tins_self (d : Nat → α) (t : Tab α) (k : Nat) (v : α) : tget d (tins k v t) k = v := by
  induction t with
  | nil => simp [tins, tget]
  | cons e t ih =>
    rw [tins]
    split
    · simp [tget]
    · split
      · simp [tget]
      · rename_i h
        simp [tget, h, ih]

theorem tget_tins_ne (d : Nat → α) (t : Tab α) {k j : Nat} (v : α) (h : j ≠ k) : tget d (tins k v t) j = tget d t j := by
  induction t with
  | nil => simp [tins, tget, h]
  | cons e t ih =>
    rw [tins]
    split
    · simp [tget, h]
    · split
      · rename_i e1
        subst e1
        simp [tget, h]
      · simp [tget, ih]

theorem tget_tdel_ne (d : Nat → α) (t : Tab α) {k j : Nat} (h : j ≠ k) : tget d (tdel k t) j = tget d t j := by
  induction t with
  | nil => rfl
  | cons e t ih =>
    rw [tdel]
    split
    · rename_i e1
      subst e1
      simp [tget, h]
    · simp [tget, ih]

/-- A write leaves every other key as it was. -/
theorem tget_tset_ne [DecidableEq α] (d : Nat → α) (t : Tab α) {k j : Nat} (v : α) (h : j ≠ k) :
    tget d (tset d t k v) j = tget d t j := by
  unfold tset
  split
  · exact tget_tdel_ne d t h
  · exact tget_tins_ne d t v h

/-! ### The canonical form -/

/-- Every key of the table lies above `b`. -/
def above (b : Option Nat) (k : Nat) : Bool :=
  match b with
  | none => true
  | some n => decide (n < k)

theorem twfFrom_cons [DecidableEq α] (d : Nat → α) (b : Option Nat) (e : Nat × α) (t : Tab α) :
    twfFrom d b (e :: t) = true ↔ above b e.1 = true ∧ e.2 ≠ d e.1 ∧ twfFrom d (some e.1) t = true := by
  cases b <;> simp [twfFrom, above, and_assoc]

theorem above_trans {b : Option Nat} {k j : Nat} (h : above b k = true) (g : k < j) : above b j = true := by
  cases b with
  | none => rfl
  | some n => simp [above] at *; omega

theorem twfFrom_weaken [DecidableEq α] (d : Nat → α) {t : Tab α} {b : Option Nat} {k : Nat} (hb : above b k = true)
    (h : twfFrom d (some k) t = true) : twfFrom d b t = true := by
  cases t with
  | nil => rfl
  | cons e t =>
    rw [twfFrom_cons] at *
    exact ⟨above_trans hb (by simpa [above] using h.1), h.2⟩

theorem twfFrom_tdel [DecidableEq α] (d : Nat → α) (k : Nat) {t : Tab α} {b : Option Nat} (h : twfFrom d b t = true) :
    twfFrom d b (tdel k t) = true := by
  induction t generalizing b with
  | nil => rfl
  | cons e t ih =>
    rw [twfFrom_cons] at h
    rw [tdel]
    split
    · exact twfFrom_weaken d h.1 h.2.2
    · rw [twfFrom_cons]
      exact ⟨h.1, h.2.1, ih h.2.2⟩

theorem twfFrom_tins [DecidableEq α] (d : Nat → α) {k : Nat} {v : α} (hv : v ≠ d k) {t : Tab α} {b : Option Nat}
    (hb : above b k = true) (h : twfFrom d b t = true) : twfFrom d b (tins k v t) = true := by
  induction t generalizing b with
  | nil =>
    rw [tins, twfFrom_cons]
    exact ⟨hb, hv, rfl⟩
  | cons e t ih =>
    rw [twfFrom_cons] at h
    rw [tins]
    split
    · rename_i hk
      rw [twfFrom_cons, twfFrom_cons]
      exact ⟨hb, hv, by simpa [above] using hk, h.2⟩
    · split
      · rename_i e1
        subst e1
        rw [twfFrom_cons]
        exact ⟨hb, hv, h.2.2⟩
      · rw [twfFrom_cons]
        exact ⟨h.1, h.2.1, ih (by simp [above]; omega) h.2.2⟩

theorem twf_tset [DecidableEq α] (d : Nat → α) (t : Tab α) (k : Nat) (v : α) (h : twf d t = true) :
    twf d (tset d t k v) = true := by
  unfold tset
  split
  · exact twfFrom_tdel d k h
  · rename_i hv
    exact twfFrom_tins d hv rfl h

theorem twfFrom_filter [DecidableEq α] (d : Nat → α) (p : Nat × α → Bool) {t : Tab α} {b : Option Nat}
    (h : twfFrom d b t = true) : twfFrom d b (t.filter p) = true := by
  induction t generalizing b with
  | nil => rfl
  | cons e t ih =>
    rw [twfFrom_cons] at h
    rw [List.filter_cons]
    split
    · rw [twfFrom_cons]
      exact ⟨h.1, h.2.1, ih h.2.2⟩
    · exact ih (twfFrom_weaken d h.1 h.2.2)

theorem twf_tclear [DecidableEq α] (d : Nat → α) (p : Nat → Bool) (t : Tab α) (h : twf d t = true) :
    twf d (tclear p t) = true := twfFrom_filter d _ h

theorem tget_of_below [DecidableEq α] (d : Nat → α) {t : Tab α} {j k : Nat} (hk : k ≤ j) (h : twfFrom d (some j) t = true) :
    tget d t k = d k := by
  induction t generalizing j with
  | nil => rfl
  | cons e t ih =>
    rw [twfFrom_cons] at h
    have h1 : j < e.1 := by simpa [above] using h.1
    rw [tget, if_neg (by omega)]
    exact ih (by omega) h.2.2

theorem tget_tdel_self [DecidableEq α] (d : Nat → α) (k : Nat) {t : Tab α} {b : Option Nat} (h : twfFrom d b t = true) :
    tget d (tdel k t) k = d k := by
  induction t generalizing b with
  | nil => rfl
  | cons e t ih =>
    rw [twfFrom_cons] at h
    rw [tdel]
    split
    · rename_i e1
      subst e1
      exact tget_of_below d (Nat.le_refl _) h.2.2
    · rename_i hk
      rw [tget, if_neg hk]
      exact ih h.2.2

/-- A read after a write of the same key gives the value written, in a table in canonical form. -/
theorem tget_tset_self [DecidableEq α] (d : Nat → α) (t : Tab α) (k : Nat) (v : α) (h : twf d t = true) :
    tget d (tset d t k v) k = v := by
  unfold tset
  split
  · rename_i hv
    rw [hv]
    exact tget_tdel_self d k h
  · exact tget_tins_self d t k v

/-- The same without the canonical form, for a value that is kept. -/
theorem tget_tset_kept [DecidableEq α] (d : Nat → α) (t : Tab α) (k : Nat) (v : α) (h : v ≠ d k) :
    tget d (tset d t k v) k = v := by
  unfold tset
  rw [if_neg h]
  exact tget_tins_self d t k v

theorem tget_tclear (d : Nat → α) (p : Nat → Bool) (t : Tab α) (k : Nat) :
    tget d (tclear p t) k = if p k then d k else tget d t k := by
  unfold tclear
  induction t with
  | nil => simp [tget]
  | cons e t ih =>
    rw [List.filter_cons]
    by_cases hp : p e.1
    · simp only [hp, Bool.not_true, Bool.false_eq_true, if_false, ih]
      by_cases hk : k = e.1
      · subst hk; simp [hp]
      · simp [tget, hk]
    · simp only [hp, Bool.not_false, if_true, tget, ih]
      by_cases hk : k = e.1
      · subst hk; simp [hp]
      · simp [hk]

/-- Two tables in canonical form that read alike are the same list. -/
theorem twf_ext [DecidableEq α] (d : Nat → α) {t u : Tab α} {b c : Option Nat} (ht : twfFrom d b t = true)
    (hu : twfFrom d c u = true) (h : ∀ k, tget d t k = tget d u k) : t = u := by
  induction t generalizing u b c with
  | nil =>
    cases u with
    | nil => rfl
    | cons e u =>
      rw [twfFrom_cons] at hu
      have := h e.1
      simp [tget] at this
      exact absurd this.symm hu.2.1
  | cons e t ih =>
    rw [twfFrom_cons] at ht
    cases u with
    | nil =>
      have := h e.1
      simp [tget] at this
      exact absurd this ht.2.1
    | cons f u =>
      rw [twfFrom_cons] at hu
      have key : e.1 = f.1 := by
        rcases Nat.lt_trichotomy e.1 f.1 with g | g | g
        · have h1 := h e.1
          rw [tget, if_pos rfl, tget, if_neg (by omega), tget_of_below d (by omega) hu.2.2] at h1
          exact absurd h1 ht.2.1
        · exact g
        · have h1 := h f.1
          rw [tget, if_neg (by omega), tget, if_pos rfl, tget_of_below d (by omega) ht.2.2] at h1
          exact absurd h1.symm hu.2.1
      have val : e.2 = f.2 := by
        have h1 := h e.1
        rwa [tget, if_pos rfl, tget, if_pos key] at h1
      have tail : t = u := by
        refine ih ht.2.2 hu.2.2 fun k => ?_
        by_cases hk : k = e.1
        · subst hk
          rw [tget_of_below d (Nat.le_refl _) ht.2.2, key, tget_of_below d (Nat.le_refl _) hu.2.2]
        · have h1 := h k
          rwa [tget, if_neg hk, tget, if_neg (by omega)] at h1
      rw [tail]
      congr 1
      exact Prod.ext key val

/-! ### Reads of optional values -/

theorem tgetO_tins_self (t : Tab α) (k : Nat) (v : α) : tgetO (tins k v t) k = some v := by
  induction t with
  | nil => simp [tins, tgetO]
  | cons e t ih =>
    rw [tins]
    split
    · simp [tgetO]
    · split
      · simp [tgetO]
      · rename_i h
        simp [tgetO, h, ih]

theorem tgetO_tins_ne (t : Tab α) {k j : Nat} (v : α) (h : j ≠ k) : tgetO (tins k v t) j = tgetO t j := by
  induction t with
  | nil => simp [tins, tgetO, h]
  | cons e t ih =>
    rw [tins]
    split
    · simp [tgetO, h]
    · split
      · rename_i e1
        subst e1
        simp [tgetO, h]
      · simp [tgetO, ih]

theorem tgetO_tdel_ne (t : Tab α) {k j : Nat} (h : j ≠ k) : tgetO (tdel k t) j = tgetO t j := by
  induction t with
  | nil => rfl
  | cons e t ih =>
    rw [tdel]
    split
    · rename_i e1
      subst e1
      simp [tgetO, h]
    · simp [tgetO, ih]

/-- A kept write of an option table reads back. -/
theorem tgetO_tset_some [DecidableEq α] (t : Tab (Option α)) (k : Nat) (v : α) :
    (tgetO (tset (fun _ => none) t k (some v)) k).join = some v := by
  simp [tset, tgetO_tins_self]

theorem tgetO_tset_ne [DecidableEq α] (d : Nat → α) (t : Tab α) {k j : Nat} (v : α) (h : j ≠ k) :
    tgetO (tset d t k v) j = tgetO t j := by
  unfold tset
  split
  · exact tgetO_tdel_ne t h
  · exact tgetO_tins_ne t v h

end Sys2Proof.Machine
end

