-- ==== Sys2Proof/Laws/Mem.lean ====
section
/-! SUPPORT. Laws of memory: a byte written reads back, every other byte is as it was, and every operation keeps the
canonical form. -/

namespace Sys2Proof.Machine

theorem memByte_memPut_self (m : List Host.Cell) (a : Nat) (b : Byte) (h : memWf m = true) : memByte (memPut m a b) a = b :=
  tget_tset_self _ _ _ _ h

theorem memByte_memPut_ne (m : List Host.Cell) {a x : Nat} (b : Byte) (h : x ≠ a) : memByte (memPut m a b) x = memByte m x :=
  tget_tset_ne _ _ _ h

theorem memWf_memPut (m : List Host.Cell) (a : Nat) (b : Byte) (h : memWf m = true) : memWf (memPut m a b) = true :=
  twf_tset _ _ _ _ h

theorem memWf_memWrite (m : List Host.Cell) (a : Nat) (bs : List Byte) (h : memWf m = true) :
    memWf (memWrite m a bs) = true := by
  induction bs generalizing m a with
  | nil => exact h
  | cons b bs ih => exact ih _ _ (memWf_memPut _ _ _ h)

theorem memWf_memWipe (m : List Host.Cell) (a n : Nat) (h : memWf m = true) : memWf (memWipe m a n) = true :=
  twf_tclear _ _ _ h

/-- A write leaves every byte outside it as it was. -/
theorem memByte_memWrite_out (m : List Host.Cell) (a : Nat) (bs : List Byte) (x : Nat) (h : x < a ∨ a + bs.length ≤ x) :
    memByte (memWrite m a bs) x = memByte m x := by
  induction bs generalizing m a with
  | nil => rfl
  | cons b bs ih =>
    rw [List.length_cons] at h
    rw [memWrite, ih _ _ (by omega), memByte_memPut_ne _ _ (by omega)]

/-- A byte written reads back. -/
theorem memByte_memWrite_in (m : List Host.Cell) (a : Nat) (bs : List Byte) (i : Nat) (hi : i < bs.length)
    (h : memWf m = true) : memByte (memWrite m a bs) (a + i) = bs[i] := by
  induction bs generalizing m a i with
  | nil => simp at hi
  | cons b bs ih =>
    rw [memWrite]
    cases i with
    | zero =>
      rw [memByte_memWrite_out _ _ _ _ (by omega), Nat.add_zero, memByte_memPut_self _ _ _ h, List.getElem_cons_zero]
    | succ i =>
      have := ih (memPut m a b) (a + 1) i (by simpa using hi) (memWf_memPut _ _ _ h)
      rw [List.getElem_cons_succ, ← this]
      congr 1
      omega

theorem memByte_memWipe (m : List Host.Cell) (a n x : Nat) :
    memByte (memWipe m a n) x = if a ≤ x ∧ x < a + n then 0#8 else memByte m x := by
  rw [memByte, memWipe, tget_tclear]
  simp [memDefault, memByte]

theorem memRead_length (m : List Host.Cell) (a n : Nat) : (memRead m a n).length = n := by
  induction n generalizing a with
  | zero => rfl
  | succ n ih => simp [memRead, ih]

theorem memRead_getElem (m : List Host.Cell) (a n i : Nat) (h : i < (memRead m a n).length) :
    (memRead m a n)[i] = memByte m (a + i) := by
  induction n generalizing a i with
  | zero => simp [memRead] at h
  | succ n ih =>
    cases i with
    | zero => simp [memRead]
    | succ i =>
      simp only [memRead, List.getElem_cons_succ]
      rw [ih]
      congr 1
      omega

/-- The bytes of a write read back. -/
theorem memRead_memWrite (m : List Host.Cell) (a : Nat) (bs : List Byte) (h : memWf m = true) :
    memRead (memWrite m a bs) a bs.length = bs := by
  apply List.ext_getElem (memRead_length _ _ _)
  intro i h1 h2
  rw [memRead_getElem, memByte_memWrite_in _ _ _ _ h2 h]

/-- Bytes outside a write read as before. -/
theorem memRead_memWrite_out (m : List Host.Cell) (a : Nat) (bs : List Byte) (x n : Nat) (h : x + n ≤ a ∨ a + bs.length ≤ x) :
    memRead (memWrite m a bs) x n = memRead m x n := by
  induction n generalizing x with
  | zero => rfl
  | succ n ih => rw [memRead, memRead, memByte_memWrite_out _ _ _ _ (by omega), ih _ (by omega)]

end Sys2Proof.Machine
end

