-- ==== Sys2Proof/Laws/Keeps.lean ====
section
/-! SUPPORT. What every operation of the model keeps, whatever it does to the state: the queue of waiting commands, the canonical form of
memory and of the register table, what has left the module as the beginning of what will have, and the free values drawn. First the
predicate and its rules, then the shared operations, global state, and scratchpads. -/

namespace Sys2Proof.Laws

set_option autoImplicit true
set_option linter.unusedTactic false
set_option linter.unreachableTactic false

open Sys2Proof.Machine

/-- What there was to keep: the commands that wait, what left the module, and the count of free values drawn. -/
structure Kept where
  pending : List Instr
  out : List Out
  fresh : Nat

/-- A state that keeps it. -/
def Keeps (K : Kept) (s : State) : Prop := s.pending = K.pending ∧ memWf s.mem = true ∧ twf regRstAt s.regs = true ∧
  K.out <+: s.outbox ∧ K.fresh ≤ s.fresh
/-- The same of an operation that may answer nothing. -/
def KeepsOpt (K : Kept) : Option State → Prop
  | none => True
  | some t => Keeps K t
theorem Keeps.mk_eq {K : Kept} {s : State} {sv ev ne pa tr pw hw db fa ti qu ct ar ra fry sk en co} :
  Keeps K ⟨s.pending, s.regs, s.mem, sv, s.fresh, s.outbox, ev, ne, pa, tr, pw, hw, db, fa, ti, qu, ct, ar, ra, fry, sk, en,
      co⟩ = Keeps K s := propext Iff.rfl
theorem Keeps.reset {K : Kept} {s : State} {sv ev ne pa tr pw hw db fa ti qu ct ar ra fry sk en co} (h : Keeps K s) :
  Keeps K ⟨s.pending, [], [], sv, s.fresh, s.outbox, ev, ne, pa, tr, pw, hw, db, fa, ti, qu, ct, ar, ra, fry, sk, en, co⟩ :=
      ⟨h.1, rfl, rfl, h.2.2.2.1, h.2.2.2.2⟩
theorem Keeps.ite {K : Kept} {c : Prop} [Decidable c] {a b : State} (ha : c → Keeps K a) (hb : ¬ c → Keeps K b) : Keeps K (if c
    then a else b) := by
  split <;> simp_all
theorem Keeps.iteP {K : Kept} {α : Type} {c : Prop} [Decidable c] {a b : State × α} (ha : c → Keeps K a.1) (hb : ¬ c → Keeps K
    b.1) : Keeps K (if c then a else b).1 := by
  split <;> simp_all
theorem Keeps.foldl {K : Kept} {α : Type} {f : State → α → State} {l : List α} {s : State} (hf : ∀ s a, Keeps K s → Keeps K (f
    s a)) (h : Keeps K s) : Keeps K (l.foldl f s) := by
  induction l generalizing s with
  | nil => exact h
  | cons a l ih => exact ih (hf _ _ h)
theorem Keeps.fst {K : Kept} {α : Type} {r : State × α} {t : State} {b : α} (e : r = (t, b)) (h : Keeps K r.1) : Keeps K t := by
  subst e; exact h
theorem Keeps.some {K : Kept} {r : Option State} {t : State} (e : r = some t) (h : KeepsOpt K r) : Keeps K t := by
  subst e; exact h
/-- The same of one that answers a value too, or nothing. -/
def KeepsPair {α : Type} (K : Kept) : Option (State × α) → Prop
  | none => True
  | some r => Keeps K r.1
theorem Keeps.someP {α : Type} {K : Kept} {r : Option (State × α)} {t : State} {b : α} (e : r = Option.some (t, b)) (h :
    KeepsPair K r) : Keeps K t := by
  subst e; exact h
theorem KeepsPair.ite {α : Type} {K : Kept} {c : Prop} [Decidable c] {a b : Option (State × α)} (ha : c → KeepsPair K a) (hb :
    ¬ c → KeepsPair K b) : KeepsPair K (if c then a else b) := by
  split <;> simp_all
theorem KeepsPair.none {α : Type} {K : Kept} : KeepsPair K (Option.none : Option (State × α)) := trivial
theorem KeepsPair.some {α : Type} {K : Kept} {a : State} {b : α} (ha : Keeps K a) : KeepsPair K (Option.some (a, b)) := ha
theorem KeepsPair.get {α : Type} {K : Kept} {a : State} {b : α} (h : KeepsPair K (Option.some (a, b))) : Keeps K a := h
theorem Keeps.foldlP {α β : Type} {K : Kept} {f : State × β → α → State × β} {l : List α} {r : State × β} (hf : ∀ r a, Keeps K
    r.1 → Keeps K (f r a).1)
    (h : Keeps K r.1) : Keeps K (l.foldl f r).1 := by
  induction l generalizing r with
  | nil => exact h
  | cons a l ih => exact ih (hf _ _ h)
theorem KeepsPair.foldl {α β : Type} {K : Kept} {f : Option (State × β) → α → Option (State × β)} {l : List α} {r : Option
    (State × β)}
    (hf : ∀ r a, KeepsPair K r → KeepsPair K (f r a)) (h : KeepsPair K r) : KeepsPair K (l.foldl f r) := by
  induction l generalizing r with
  | nil => exact h
  | cons a l ih => exact ih (hf _ _ h)
theorem KeepsOpt.ite {K : Kept} {c : Prop} [Decidable c] {a b : Option State} (ha : c → KeepsOpt K a) (hb : ¬ c → KeepsOpt K b)
    : KeepsOpt K (if c then a else b) := by
  split <;> simp_all
theorem KeepsOpt.some {K : Kept} {a : State} (ha : Keeps K a) : KeepsOpt K (some a) := ha
theorem KeepsOpt.none {K : Kept} : KeepsOpt K none := trivial
theorem KeepsOpt.findSome {K : Kept} {α : Type} {f : α → Option State} {l : List α} (hf : ∀ a, KeepsOpt K (f a)) : KeepsOpt K
    (l.findSome? f) := by
  induction l with
  | nil => exact trivial
  | cons a l ih =>
    have h := hf a
    rw [List.findSome?_cons]
    cases e : f a with
    | none => exact ih
    | some t => rw [e] at h; exact h
theorem Keeps.getD {K : Kept} {r : Option State} {t : State} (h : KeepsOpt K r) (ht : Keeps K t) : Keeps K (r.getD t) := by
  cases r with
  | none => exact ht
  | some a => exact h
theorem Keeps.getDmap {K : Kept} {α β : Type} {f : α → State × β} {o : Option α} {t : State} (hf : ∀ a, Keeps K (f a).1) (ht :
    Keeps K t) :
    Keeps K (((o.map f).map Prod.fst).getD t) := by
  cases o with
  | none => exact ht
  | some a => exact hf a
theorem KeepsOpt.map {K : Kept} {α : Type} {f : α → State} {o : Option α} (hf : ∀ a, Keeps K (f a)) : KeepsOpt K (o.map f) := by
  cases o with
  | none => exact trivial
  | some a => exact hf a
theorem KeepsOpt.bindP {K : Kept} {α : Type} {f : State × α → Option State} {o : Option (State × α)} (h : KeepsPair K o)
    (hf : ∀ r, Keeps K r.1 → KeepsOpt K (f r)) : KeepsOpt K (o.bind f) := by
  cases o with
  | none => exact trivial
  | some a => exact hf a h
theorem KeepsPair.map {K : Kept} {α β : Type} {f : State × α → State × β} {o : Option (State × α)} (h : KeepsPair K o)
    (hf : ∀ r, Keeps K r.1 → Keeps K (f r).1) : KeepsPair K (o.map f) := by
  cases o with
  | none => exact trivial
  | some a => exact hf a h
theorem KeepsPair.bind {K : Kept} {α β : Type} {f : State × α → Option (State × β)} {o : Option (State × α)} (h : KeepsPair K o)
    (hf : ∀ r, Keeps K r.1 → KeepsPair K (f r)) : KeepsPair K (o.bind f) := by
  cases o with
  | none => exact trivial
  | some a => exact hf a h
theorem KeepsPair.findSome {K : Kept} {α β : Type} {f : α → Option (State × β)} {l : List α} (hf : ∀ a, KeepsPair K (f a)) :
    KeepsPair K (l.findSome? f) := by
  induction l with
  | nil => exact trivial
  | cons a l ih =>
    have h := hf a
    rw [List.findSome?_cons]
    cases e : f a with
    | none => exact ih
    | some t => rw [e] at h; exact h
/-- The same of what a meaning answers. -/
def KeepsRes (K : Kept) : Res → Prop
  | .next t => Keeps K t
  | _ => True
theorem KeepsRes.next {K : Kept} {a : State} (ha : Keeps K a) : KeepsRes K (.next a) := ha

theorem keeps_setPort (h : Keeps K s) : Keeps K (State.setPort s b c) := by
  unfold State.setPort
  repeat' with_reducible first | assumption | (simp only [↓Keeps.mk_eq])

theorem keeps_setReg (h : Keeps K s) : Keeps K (State.setReg s b c) :=
  ⟨h.1, h.2.1, twf_tset _ _ _ _ h.2.2.1, h.2.2.2⟩

theorem keeps_setFld (h : Keeps K s) : Keeps K (State.setFld s b c d) := by
  unfold State.setFld
  repeat' with_reducible first | assumption | apply keeps_setReg

theorem keeps_plainWrite (h : Keeps K s) : Keeps K (State.plainWrite s b c d) := by
  unfold State.plainWrite
  repeat' with_reducible first | assumption | apply keeps_setReg

theorem keeps_route (h : Keeps K s) : Keeps K (State.route s b c).1 := by
  unfold State.route
  try dsimp only
  repeat' with_reducible first
    | assumption | apply keeps_setFld | (apply Keeps.ite <;> intro _) | (apply Keeps.iteP <;> intro _)
    | (apply Keeps.foldl; intro _ _ _) | (refine Keeps.fst (by assumption) ?_) | (simp only [↓Keeps.mk_eq]) | (split)
    | (intro _) | (dsimp only)

theorem keeps_emit (h : Keeps K s) : Keeps K (State.emit s b) :=
  ⟨h.1, h.2.1, h.2.2.1, h.2.2.2.1.trans (List.prefix_append _ _), h.2.2.2.2⟩

theorem keeps_portSend (h : Keeps K s) : Keeps K (State.portSend s b c) := by
  unfold State.portSend
  try dsimp only
  repeat' with_reducible first | assumption | apply keeps_setPort | apply keeps_emit | (split) | (intro _) | (dsimp only)

theorem keeps_sendMsg (h : Keeps K s) : Keeps K (State.sendMsg s b c).1 := by
  unfold State.sendMsg
  repeat' with_reducible first
    | assumption | apply keeps_route | apply keeps_portSend | (refine Keeps.fst (by assumption) ?_) | (split)

theorem keeps_owe (h : Keeps K s) : Keeps K (State.owe s b) := by
  unfold State.owe
  try dsimp only
  repeat' with_reducible first | assumption | (simp only [↓Keeps.mk_eq]) | (split) | (intro _) | (dsimp only)

theorem keeps_setCause (h : Keeps K s) : Keeps K (State.setCause s b) := by
  unfold State.setCause
  try dsimp only
  repeat' with_reducible first | assumption | apply keeps_setFld | apply keeps_owe | (split) | (intro _) | (dsimp only)

theorem keeps_setSrcSt (h : Keeps K s) : Keeps K (State.setSrcSt s b c) := by
  unfold State.setSrcSt
  repeat' with_reducible first | assumption | (simp only [↓Keeps.mk_eq])

theorem keeps_raiseRec (h : Keeps K s) : Keeps K (State.raiseRec s b c d e) := by
  unfold State.raiseRec
  repeat' with_reducible first | assumption | apply keeps_setSrcSt | (simp only [↓Keeps.mk_eq])

theorem keeps_raise (h : Keeps K s) : Keeps K (State.raise s b c d e) := by
  unfold State.raise
  repeat' with_reducible first | assumption | apply keeps_setCause | apply keeps_raiseRec | (split)

theorem keeps_setGst (h : Keeps K s) : Keeps K (State.setGst s b c) := by
  unfold State.setGst
  repeat' with_reducible first | assumption | (simp only [↓Keeps.mk_eq])

theorem keeps_wipe (h : Keeps K s) : Keeps K (State.wipe s b c) :=
  ⟨h.1, memWf_memWipe _ _ _ h.2.1, h.2.2⟩

theorem keeps_incFld (h : Keeps K s) : Keeps K (State.incFld s b c d) := by
  unfold State.incFld
  repeat' with_reducible first | assumption | apply keeps_setFld

theorem keeps_startAbort (h : Keeps K s) : Keeps K (State.startAbort s b c) := by
  unfold State.startAbort
  try dsimp only
  repeat' with_reducible first
    | assumption | apply keeps_setFld | (simp only [↓Keeps.mk_eq]) | (split) | (intro _) | (dsimp only)

theorem keeps_quadFault (h : Keeps K s) : Keeps K (State.quadFault s b c d e) := by
  unfold State.quadFault
  try dsimp only
  repeat' with_reducible first | assumption | apply keeps_startAbort | apply keeps_raise | (split)

theorem keeps_wr (h : Keeps K s) : Keeps K (State.wr s b c) :=
  ⟨h.1, memWf_memWrite _ _ _ h.2.1, h.2.2⟩

theorem keeps_answer (h : Keeps K s) : Keeps K (State.answer s b c d) := by
  unfold State.answer
  repeat' with_reducible first | assumption | apply keeps_sendMsg

theorem keeps_ackTo (h : Keeps K s) : Keeps K (State.ackTo s b c) := by
  unfold State.ackTo
  repeat' with_reducible first | assumption | apply keeps_answer | (simp only [↓Keeps.mk_eq]) | (split)

theorem keeps_count (h : Keeps K s) : Keeps K (State.count s b c d e) := by
  unfold State.count
  try dsimp only
  repeat' with_reducible first
    | assumption | apply keeps_incFld | apply keeps_setFld | apply keeps_raiseRec | (split) | (intro _) | (dsimp only)

theorem keeps_setSem (h : Keeps K s) : Keeps K (State.setSem s b c d) := by
  unfold State.setSem
  repeat' with_reducible first | assumption | apply keeps_setFld

theorem keeps_setMoor (h : Keeps K s) : Keeps K (State.setMoor s b c d) := by
  unfold State.setMoor
  repeat' with_reducible first | assumption | apply keeps_wr

theorem keeps_breakMoor (h : Keeps K s) : Keeps K (breakMoor a s c) := by
  unfold breakMoor
  try dsimp only
  repeat' with_reducible first | assumption | apply keeps_setMoor | (split) | (intro _) | (dsimp only)

theorem keeps_sweepSource (h : Keeps K s) : Keeps K (State.sweepSource s b) := by
  unfold State.sweepSource
  repeat' with_reducible first
    | assumption | apply keeps_breakMoor | (apply Keeps.foldl; intro _ _ _) | (simp only [↓Keeps.mk_eq])

theorem keeps_dropSteps (h : Keeps K s) : Keeps K (State.dropSteps s b) := by
  unfold State.dropSteps
  try dsimp only
  repeat' with_reducible first
    | assumption | apply keeps_setGst | (apply Keeps.foldl; intro _ _ _) | (split) | (intro _) | (dsimp only)

theorem keeps_setInst (h : Keeps K s) : Keeps K (State.setInst s b c) := by
  unfold State.setInst
  repeat' with_reducible first | assumption | (simp only [↓Keeps.mk_eq])

theorem keeps_mapInst (h : Keeps K s) : Keeps K (State.mapInst s b c) := by
  unfold State.mapInst
  repeat' with_reducible first | assumption | apply keeps_setInst | (split)

theorem keeps_wakeBank (h : Keeps K s) : Keeps K (State.wakeBank s b c) := by
  unfold State.wakeBank
  try dsimp only
  repeat' with_reducible first | assumption | apply keeps_incFld | apply keeps_setFld | (split) | (intro _) | (dsimp only)

theorem keeps_touchSpad (h : Keeps K s) : Keeps K (State.touchSpad s b c).1 := by
  unfold State.touchSpad
  try dsimp only
  repeat' with_reducible first | assumption | apply keeps_incFld | apply keeps_wakeBank | (split) | (intro _) | (dsimp only)

theorem keeps_touch (h : Keeps K s) : Keeps K (State.touch s b).1 := by
  unfold State.touch
  repeat' with_reducible first | assumption | apply keeps_touchSpad | (split)

theorem keeps_post (h : Keeps K s) : Keeps K (State.post s b) := by
  unfold State.post
  try dsimp only
  repeat' with_reducible first | assumption | apply keeps_sendMsg | (split) | (intro _) | (dsimp only)

theorem keeps_sendAborts (h : Keeps K s) : Keeps K (State.sendAborts s b c) := by
  unfold State.sendAborts
  try dsimp only
  repeat' with_reducible first
    | assumption | apply keeps_post | (apply Keeps.foldl; intro _ _ _) | (split) | (intro _) | (dsimp only)

theorem keeps_snoopLine (h : Keeps K s) : Keeps K (State.snoopLine s b c) := by
  unfold State.snoopLine
  try dsimp only
  repeat' with_reducible first
    | assumption | apply keeps_incFld | (apply Keeps.foldl; intro _ _ _) | (simp only [↓Keeps.mk_eq]) | (split) | (intro _)
    | (dsimp only)

theorem keeps_sharedWrite (h : Keeps K s) (h_f : ∀ y0, Keeps K y0 → Keeps K (f y0)) : Keeps K (State.sharedWrite s b c d e f).1
    := by
  unfold State.sharedWrite
  repeat' with_reducible first
    | assumption | apply h_f | apply keeps_snoopLine | (apply Keeps.foldl; intro _ _ _) | (simp only [↓Keeps.mk_eq]) | (split)

theorem keeps_addrFault (h : Keeps K s) : Keeps K (State.addrFault s b c) := by
  unfold State.addrFault
  try dsimp only
  repeat' with_reducible first | assumption | apply keeps_quadFault | apply keeps_emit | (split) | (intro _) | (dsimp only)

theorem keeps_affect (h : Keeps K s) : Keeps K (State.affect s b c) := by
  unfold State.affect
  repeat' with_reducible first | assumption | (simp only [↓Keeps.mk_eq])

theorem keeps_affectAll (h : Keeps K s) : Keeps K (State.affectAll s b c) := by
  unfold State.affectAll
  repeat' with_reducible first | assumption | apply keeps_affect | (apply Keeps.foldl; intro _ _ _)

theorem keeps_spadCe (h : Keeps K s) : Keeps K (State.spadCe s b) := by
  unfold State.spadCe
  repeat' with_reducible first | assumption | (simp only [↓Keeps.mk_eq])

theorem keeps_domainOff (h : Keeps K s) : Keeps K (State.domainOff s b c) := by
  unfold State.domainOff
  try dsimp only
  repeat' with_reducible first | assumption | apply keeps_quadFault | apply keeps_emit | (split) | (intro _) | (dsimp only)

theorem keeps_aliasFault (h : Keeps K s) : Keeps K (State.aliasFault s b c d) := by
  unfold State.aliasFault
  try dsimp only
  repeat' with_reducible first | assumption | apply keeps_addrFault | apply keeps_raise | (split) | (intro _) | (dsimp only)

theorem keeps_refuseAlias (h : Keeps K s) : Keeps K (State.refuseAlias s b c d e) := by
  unfold State.refuseAlias
  repeat' with_reducible first | assumption | apply keeps_domainOff | apply keeps_aliasFault | (split)

theorem keeps_moorRelease (h : Keeps K s) : Keeps K (State.moorRelease s b c d e) := by
  unfold State.moorRelease
  try dsimp only
  repeat' with_reducible first | assumption | apply keeps_setMoor | apply keeps_raise | (split) | (intro _) | (dsimp only)

theorem keeps_moorAcquire (h : Keeps K s) : Keeps K (State.moorAcquire s b c d e) := by
  unfold State.moorAcquire
  try dsimp only
  repeat' with_reducible first | assumption | apply keeps_incFld | apply keeps_setMoor | (split) | (intro _) | (dsimp only)

theorem keeps_moorOp (h : Keeps K s) : Keeps K (State.moorOp s b c d e f).1 := by
  unfold State.moorOp
  try dsimp only
  repeat' with_reducible first
    | assumption | apply keeps_moorRelease | apply keeps_touchSpad | apply keeps_moorAcquire | (split) | (intro _)
    | (dsimp only)

theorem keeps_aliasPut (h : Keeps K s) : Keeps K (State.aliasPut s b c d e).1 := by
  unfold State.aliasPut
  try dsimp only
  repeat' with_reducible first
    | assumption | apply keeps_incFld | apply keeps_touchSpad | apply keeps_wr | apply keeps_moorOp | (split)

theorem keeps_aliasWrite (h : Keeps K s) : Keeps K (State.aliasWrite s b c d e) := by
  unfold State.aliasWrite
  try dsimp only
  repeat' with_reducible first
    | assumption | apply keeps_refuseAlias | apply keeps_aliasPut | (apply Keeps.ite <;> intro _)
    | (apply Keeps.foldl; intro _ _ _) | (refine Keeps.fst (by assumption) ?_) | (simp only [↓Keeps.mk_eq]) | (split)
    | (intro _) | (dsimp only)

theorem keeps_aliasUe (h : Keeps K s) : Keeps K (State.aliasUe s b c) := by
  unfold State.aliasUe
  try dsimp only
  repeat' with_reducible first
    | assumption | apply keeps_touchSpad | apply keeps_startAbort | apply keeps_raise | apply keeps_emit | (split)

theorem keeps_aliasCmd (h : Keeps K s) : Keeps K (State.aliasCmd s b c d e f) := by
  unfold State.aliasCmd
  try dsimp only
  repeat' with_reducible first
    | assumption | apply keeps_spadCe | apply keeps_aliasWrite | apply keeps_aliasUe | (split) | (intro _) | (dsimp only)

theorem keeps_drew (h : Keeps K s) : Keeps K (State.drew s) :=
  ⟨h.1, h.2.1, h.2.2.1, h.2.2.2.1, Nat.le_succ_of_le h.2.2.2.2⟩

theorem keeps_setPool (h : Keeps K s) : Keeps K (State.setPool s b c) := by
  unfold State.setPool
  repeat' with_reducible first | assumption | (simp only [↓Keeps.mk_eq])

theorem keeps_poolAlloc (h : Keeps K s) : Keeps K (State.poolAlloc s b c).1 := by
  unfold State.poolAlloc
  try dsimp only
  repeat' with_reducible first | assumption | apply keeps_setFld | apply keeps_setPool | (split)

theorem keeps_wrGlbInt (h : Keeps K s) : Keeps K (State.wrGlbInt s b c) := by
  unfold State.wrGlbInt
  try dsimp only
  repeat' with_reducible first
    | assumption | apply keeps_plainWrite | (apply Keeps.foldl; intro _ _ _) | (simp only [↓Keeps.mk_eq]) | (split)
    | (intro _) | (dsimp only)

theorem keeps_wrBank (h : Keeps K s) : Keeps K (State.wrBank s b c d) := by
  unfold State.wrBank
  try dsimp only
  repeat' with_reducible first
    | assumption | apply keeps_setFld | apply keeps_wipe | (simp only [↓Keeps.mk_eq]) | (split) | (intro _) | (dsimp only)

theorem keeps_wrSpadPwr (h : Keeps K s) : Keeps K (State.wrSpadPwr s b c d e) := by
  unfold State.wrSpadPwr
  try dsimp only
  repeat' with_reducible first
    | assumption | apply keeps_wrBank | (apply Keeps.foldl; intro _ _ _) | (split) | (intro _) | (dsimp only)

theorem keeps_wrPoolCfg (h : Keeps K s) : Keeps K (State.wrPoolCfg s b c d) := by
  unfold State.wrPoolCfg
  try dsimp only
  repeat' with_reducible first | assumption | apply keeps_setReg | apply keeps_setPool | (split) | (intro _) | (dsimp only)

theorem keeps_wrEvqCfg (h : Keeps K s) : Keeps K (State.wrEvqCfg s b c d) := by
  unfold State.wrEvqCfg
  try dsimp only
  repeat' with_reducible first | assumption | apply keeps_plainWrite | (split) | (intro _) | (dsimp only)

theorem keeps_wrEvqAck (h : Keeps K s) : Keeps K (State.wrEvqAck s b c d) := by
  unfold State.wrEvqAck
  try dsimp only
  repeat' with_reducible first | assumption | apply keeps_setFld | (split) | (intro _) | (dsimp only)

theorem keeps_wrLock (h : Keeps K s) : Keeps K (State.wrLock s b c d e).1 := by
  unfold State.wrLock
  try dsimp only
  repeat' with_reducible first | assumption | apply keeps_incFld | apply keeps_setFld | (split) | (intro _) | (dsimp only)

theorem keeps_wrFabLock (h : Keeps K s) : Keeps K (State.wrFabLock s b c d) := by
  unfold State.wrFabLock
  repeat' with_reducible first | assumption | apply keeps_wrLock

theorem keeps_wrPrtCtl (h : Keeps K s) : Keeps K (State.wrPrtCtl s b c) := by
  unfold State.wrPrtCtl
  try dsimp only
  repeat' with_reducible first | assumption | apply keeps_plainWrite | (split) | (intro _) | (dsimp only)

theorem keeps_poolFree (h : Keeps K s) : Keeps K (State.poolFree s b c d) := by
  unfold State.poolFree
  try dsimp only
  repeat' with_reducible first
    | assumption | apply keeps_setFld | apply keeps_raise | apply keeps_setPool | (split) | (intro _) | (dsimp only)

theorem keeps_settleRanges (h : Keeps K s) : Keeps K (State.settleRanges s) := by
  unfold State.settleRanges
  try dsimp only
  repeat' with_reducible first
    | assumption | apply keeps_setReg | (apply Keeps.foldl; intro _ _ _) | (simp only [↓Keeps.mk_eq]) | (split) | (intro _)
    | (dsimp only)

theorem keeps_wrFcRange (h : Keeps K s) : Keeps K (State.wrFcRange s b c d) := by
  unfold State.wrFcRange
  try dsimp only
  repeat' with_reducible first
    | assumption | apply keeps_snoopLine | apply keeps_setReg | apply keeps_settleRanges | (apply Keeps.foldl; intro _ _ _)
    | (simp only [↓Keeps.mk_eq]) | (split) | (intro _) | (dsimp only)

theorem keeps_msix (h : Keeps K s) : Keeps K (State.msix s b) := by
  unfold State.msix
  try dsimp only
  repeat' with_reducible first | assumption | apply keeps_setReg | apply keeps_emit | (split) | (intro _) | (dsimp only)

theorem keeps_setOwner (h : Keeps K s) : Keeps K (State.setOwner s b c d) := by
  unfold State.setOwner
  repeat' with_reducible first | assumption | apply keeps_setReg

theorem keeps_snoopRange (h : Keeps K s) : Keeps K (State.snoopRange s b c) := by
  unfold State.snoopRange
  repeat' with_reducible first | assumption | apply keeps_snoopLine | (apply Keeps.foldl; intro _ _ _) | (split)

theorem keeps_clearMem (h : Keeps K s) : Keeps K (State.clearMem s b) :=
  ⟨h.1, twf_tclear _ _ _ h.2.1, h.2.2⟩

theorem keeps_setSharers (h : Keeps K s) : Keeps K (State.setSharers s b c) := by
  unfold State.setSharers
  repeat' with_reducible first | assumption | (simp only [↓Keeps.mk_eq])

theorem keeps_snoopOver (h : Keeps K s) : Keeps K (State.snoopOver s b) := by
  unfold State.snoopOver
  try dsimp only
  repeat' with_reducible first
    | assumption | apply keeps_setSharers | apply keeps_ackTo | apply keeps_emit | (apply Keeps.foldl; intro _ _ _)
    | (simp only [↓Keeps.mk_eq]) | (split) | (intro _) | (dsimp only)

theorem keeps_sendCol (h : Keeps K s) : Keeps K (State.sendCol s b c d e f g) := by
  unfold State.sendCol
  repeat' with_reducible first | assumption | apply keeps_post

theorem keeps_startStep (h : Keeps K s) : Keeps K (State.startStep s b) := by
  unfold State.startStep
  try dsimp only
  repeat' with_reducible first | assumption | apply keeps_setGst | (split) | (intro _) | (dsimp only)

theorem keeps_windowWrite (h : Keeps K s) : Keeps K (State.windowWrite s b c d e).1 := by
  unfold State.windowWrite
  try dsimp only
  repeat' with_reducible first
    | assumption | apply keeps_sendCol | apply keeps_startStep | apply keeps_setGst | (apply Keeps.foldl; intro _ _ _) | (split)

theorem keeps_unreach (h : Keeps K s) : Keeps K (State.unreach s b) := by
  unfold State.unreach
  repeat' with_reducible first | assumption | apply keeps_raise

theorem keeps_request (h : Keeps K s) : Keeps K (State.request s b c d).1 := by
  unfold State.request
  try dsimp only
  repeat' with_reducible first
    | assumption | apply keeps_unreach | apply keeps_sendMsg | (simp only [↓Keeps.mk_eq]) | (split) | (intro _) | (dsimp only)

theorem keeps_cvtRestart (h : Keeps K s) : Keeps K (State.cvtRestart s b) := by
  unfold State.cvtRestart
  try dsimp only
  repeat' with_reducible first
    | assumption | apply keeps_setFld | (simp only [↓Keeps.mk_eq]) | (split) | (intro _) | (dsimp only)

theorem keeps_printRec (h : Keeps K s) : Keeps K (State.printRec s b c) := by
  unfold State.printRec
  try dsimp only
  repeat' with_reducible first | assumption | apply keeps_emit | (simp only [↓Keeps.mk_eq]) | (split) | (intro _) | (dsimp only)

theorem keeps_putRec (h : Keeps K s) : Keeps K (State.putRec s b c) := by
  unfold State.putRec
  try dsimp only
  repeat' with_reducible first
    | assumption | apply keeps_incFld | apply keeps_setFld | apply keeps_printRec | (simp only [↓Keeps.mk_eq]) | (split)
    | (intro _) | (dsimp only)

theorem keeps_writeRecord (h : Keeps K s) : Keeps K (State.writeRecord s b) := by
  unfold State.writeRecord
  repeat' with_reducible first | assumption | apply keeps_putRec | apply keeps_setSrcSt | (simp only [↓Keeps.mk_eq]) | (split)

theorem keeps_evictionNotice (h : Keeps K s) : Keeps K (State.evictionNotice s b c) := by
  unfold State.evictionNotice
  repeat' with_reducible first
    | assumption | apply keeps_incFld | apply keeps_setSharers | apply keeps_settleRanges | apply keeps_snoopOver
    | (simp only [↓Keeps.mk_eq]) | (split)

theorem keeps_evqInterrupt (h : Keeps K s) : Keeps K (State.evqInterrupt s b) := by
  unfold State.evqInterrupt
  try dsimp only
  repeat' with_reducible first | assumption | apply keeps_setFld | apply keeps_msix | (split) | (intro _) | (dsimp only)

theorem keeps_slotHold (h : Keeps K s) : Keeps K (State.slotHold s b c).1 := by
  unfold State.slotHold
  try dsimp only
  repeat' with_reducible first | assumption | apply keeps_incFld | (split) | (intro _) | (dsimp only)

theorem keeps_holds (h : Keeps K s) : Keeps K (State.holds s b c).1 := by
  induction c generalizing s with
  | nil =>
    unfold State.holds
    try dsimp only
    repeat' with_reducible first
      | assumption | apply keeps_slotHold | (apply Keeps.ite <;> intro _) | (apply Keeps.iteP <;> intro _)
      | (apply Keeps.foldl; intro _ _ _) | (refine Keeps.fst (by assumption) ?_) | (simp only [↓Keeps.mk_eq]) | (split)
      | (intro _) | (dsimp only)
  | cons x xs ih =>
    unfold State.holds
    try dsimp only
    repeat' with_reducible first
      | assumption | apply ih | apply keeps_slotHold | (apply Keeps.ite <;> intro _) | (apply Keeps.iteP <;> intro _)
      | (apply Keeps.foldl; intro _ _ _) | (refine Keeps.fst (by assumption) ?_) | (simp only [↓Keeps.mk_eq]) | (split)
      | (intro _) | (dsimp only)

theorem keeps_perturb (h : Keeps K s) : Keeps K (State.perturb s b) := by
  unfold State.perturb
  try dsimp only
  repeat' with_reducible first
    | assumption | apply keeps_holds | (simp only [↓Keeps.mk_eq]) | (split) | (intro _) | (dsimp only)

theorem keeps_keepLine (h : Keeps K s) : Keeps K (State.keepLine s b c d) := by
  unfold State.keepLine
  repeat' with_reducible first | assumption | apply keeps_setSharers | apply keeps_drew | (simp only [↓Keeps.mk_eq]) | (split)

theorem keeps_glbIntCause (h : Keeps K s) : Keeps K (State.glbIntCause s b) := by
  unfold State.glbIntCause
  try dsimp only
  repeat' with_reducible first | assumption | apply keeps_msix | (simp only [↓Keeps.mk_eq]) | (split) | (intro _) | (dsimp only)

theorem keeps_holdRelease (h : Keeps K s) : Keeps K (State.holdRelease s b) := by
  unfold State.holdRelease
  repeat' with_reducible first | assumption | (simp only [↓Keeps.mk_eq]) | (split)

theorem keeps_mooring (h : Keeps K s) : Keeps K (State.mooring s b c d e f) := by
  unfold State.mooring
  try dsimp only
  repeat' with_reducible first
    | assumption | apply keeps_refuseAlias | apply keeps_moorOp | (apply Keeps.ite <;> intro _)
    | (apply Keeps.foldl; intro _ _ _) | (refine Keeps.fst (by assumption) ?_) | (simp only [↓Keeps.mk_eq]) | (split)
    | (intro _) | (dsimp only)

theorem keeps_onBus (h : Keeps K s) (h_b : ∀ y0, Keeps K y0 → Keeps K (b y0)) : Keeps K (State.onBus s b) := by
  unfold State.onBus
  try dsimp only
  repeat' with_reducible first | assumption | apply h_b | (split) | (intro _) | (dsimp only)

theorem keeps_onWipeDone (h : Keeps K s) : Keeps K (State.onWipeDone s b c) := by
  unfold State.onWipeDone
  repeat' with_reducible first | assumption | (simp only [↓Keeps.mk_eq])

theorem keeps_poolAllocRead (h : Keeps K s) : Keeps K (State.poolAllocRead s b c d) := by
  unfold State.poolAllocRead
  try dsimp only
  repeat' with_reducible first | assumption | apply keeps_poolAlloc | apply keeps_emit | (split) | (intro _) | (dsimp only)

theorem keeps_rollConsole (h : Keeps K s) : Keeps K (State.rollConsole s) := by
  unfold State.rollConsole
  try dsimp only
  repeat' with_reducible first | assumption | apply keeps_emit | (simp only [↓Keeps.mk_eq]) | (split) | (intro _) | (dsimp only)

theorem keeps_writeDrops (h : Keeps K s) : Keeps K (State.writeDrops s b c) := by
  induction c generalizing s with
  | nil =>
    unfold State.writeDrops
    try dsimp only
    repeat' with_reducible first
      | assumption | apply keeps_putRec | apply keeps_setSrcSt | (apply Keeps.ite <;> intro _)
      | (apply Keeps.foldl; intro _ _ _) | (refine Keeps.fst (by assumption) ?_) | (simp only [↓Keeps.mk_eq]) | (split)
      | (intro _) | (dsimp only)
  | cons x xs ih =>
    unfold State.writeDrops
    try dsimp only
    repeat' with_reducible first
      | assumption | apply ih | apply keeps_putRec | apply keeps_setSrcSt | (apply Keeps.ite <;> intro _)
      | (apply Keeps.foldl; intro _ _ _) | (refine Keeps.fst (by assumption) ?_) | (simp only [↓Keeps.mk_eq]) | (split)
      | (intro _) | (dsimp only)

theorem keeps_rollSrc (h : Keeps K s) : Keeps K (State.rollSrc s b) := by
  unfold State.rollSrc
  repeat' with_reducible first | assumption | apply keeps_writeDrops | apply keeps_setSrcSt

theorem keeps_snoopArrival (h : Keeps K s) : Keeps K (State.snoopArrival s b c) := by
  unfold State.snoopArrival
  repeat' with_reducible first
    | assumption | apply keeps_perturb | apply keeps_settleRanges | apply keeps_snoopOver | (simp only [↓Keeps.mk_eq]) | (split)

theorem keeps_windowStart (h : Keeps K s) : Keeps K (State.windowStart s) := by
  unfold State.windowStart
  try dsimp only
  repeat' with_reducible first
    | assumption | apply keeps_rollSrc | apply keeps_rollConsole | (apply Keeps.foldl; intro _ _ _)
    | (simp only [↓Keeps.mk_eq]) | (split) | (intro _) | (dsimp only)

end Sys2Proof.Laws
end

