-- ==== Sys2Proof/Laws/KeepsMem.lean ====
section
/-! SUPPORT. Queues, tiers, tables, issue and stream operations keep what `Keeps` says. -/

namespace Sys2Proof.Laws

set_option autoImplicit true
set_option linter.unusedTactic false
set_option linter.unreachableTactic false

open Sys2Proof.Machine

theorem keeps_setCmd (h : Keeps K s) : Keeps K (State.setCmd s b c) := by
  unfold State.setCmd
  repeat' with_reducible first | assumption | (simp only [↓Keeps.mk_eq])

theorem keeps_finish (h : Keeps K s) : Keeps K (State.finish s b c d e f) := by
  unfold State.finish
  repeat' with_reducible first | assumption | apply keeps_setCmd

theorem keeps_setUse (h : Keeps K s) : Keeps K (State.setUse s b c d) := by
  unfold State.setUse
  repeat' with_reducible first | assumption | apply keeps_setFld

theorem keeps_chargeTo (h : Keeps K s) : Keeps K (State.chargeTo s b c d) := by
  unfold State.chargeTo
  repeat' with_reducible first | assumption | apply keeps_setUse

theorem keeps_release (h : Keeps K s) : Keeps K (State.release s b c d) := by
  unfold State.release
  repeat' with_reducible first | assumption | apply keeps_setUse

theorem keeps_chargeBytes (h : Keeps K s) : Keeps K (State.chargeBytes s b c d e) := by
  unfold State.chargeBytes
  repeat' with_reducible first | assumption | apply keeps_chargeTo | apply keeps_release | (simp only [↓Keeps.mk_eq])

theorem keeps_freeAll (h : Keeps K s) : Keeps K (State.freeAll s b c d) := by
  unfold State.freeAll
  repeat' with_reducible first | assumption | apply keeps_chargeBytes | (apply Keeps.foldl; intro _ _ _)

theorem keeps_giveUp (h : Keeps K s) : Keeps K (State.giveUp s b c) := by
  unfold State.giveUp
  repeat' with_reducible first | assumption | (simp only [↓Keeps.mk_eq])

theorem keeps_dropObj (h : Keeps K s) : Keeps K (State.dropObj s b) := by
  unfold State.dropObj
  repeat' with_reducible first
    | assumption | apply keeps_giveUp | apply keeps_release | (apply Keeps.foldl; intro _ _ _) | (simp only [↓Keeps.mk_eq])
    | (split)

theorem keeps_refuse (h : Keeps K s) : Keeps K (State.refuse s b c) := by
  unfold State.refuse
  repeat' with_reducible first | assumption | apply keeps_finish

theorem keeps_setModel (h : Keeps K s) : Keeps K (State.setModel s b c) := by
  unfold State.setModel
  repeat' with_reducible first | assumption | (simp only [↓Keeps.mk_eq])

theorem keeps_mapModel (h : Keeps K s) : Keeps K (State.mapModel s b c) := by
  unfold State.mapModel
  repeat' with_reducible first | assumption | apply keeps_setModel | (split)

theorem keeps_mapGate (h : Keeps K s) : Keeps K (State.mapGate s b c) := by
  unfold State.mapGate
  repeat' with_reducible first | assumption | apply keeps_mapModel

theorem keeps_ackHeld (h : Keeps K s) : Keeps K (State.ackHeld s b) := by
  unfold State.ackHeld
  repeat' with_reducible first | assumption | apply keeps_ackTo | (apply Keeps.foldl; intro _ _ _)

theorem keeps_runStage (h : Keeps K s) : Keeps K (State.runStage s b c) := by
  unfold State.runStage
  try dsimp only
  repeat' with_reducible first
    | assumption | apply keeps_mapGate | (simp only [↓Keeps.mk_eq]) | (split) | (intro _) | (dsimp only)

theorem keeps_mapTable (h : Keeps K s) : Keeps K (State.mapTable s b c d) := by
  unfold State.mapTable
  repeat' with_reducible first | assumption | (simp only [↓Keeps.mk_eq])

theorem keeps_program (h : Keeps K s) : Keeps K (State.program s b) := by
  unfold State.program
  try dsimp only
  repeat' with_reducible first
    | assumption | apply keeps_setFld | apply keeps_raise | (simp only [↓Keeps.mk_eq]) | (split) | (intro _) | (dsimp only)

theorem keeps_demoteWay (h : Keeps K s) : Keeps K (State.demoteWay s b c d) := by
  unfold State.demoteWay
  repeat' with_reducible first | assumption | apply keeps_mapTable | apply keeps_count | apply keeps_program | (split)

theorem keeps_demoteQueue (h : Keeps K s) : Keeps K (State.demoteQueue s b) := by
  unfold State.demoteQueue
  repeat' with_reducible first
    | assumption | apply keeps_mapTable | apply keeps_demoteWay | (apply Keeps.foldl; intro _ _ _) | (split)

theorem keeps_setTowers (h : Keeps K s) : Keeps K (State.setTowers s b c) := by
  unfold State.setTowers
  repeat' with_reducible first | assumption | (simp only [↓Keeps.mk_eq])

theorem keeps_windowClose (h : Keeps K s) : Keeps K (State.windowClose s b) := by
  unfold State.windowClose
  repeat' with_reducible first
    | assumption | apply keeps_demoteQueue | apply keeps_setTowers | apply keeps_mapGate | apply keeps_setFld
    | apply keeps_runStage | (apply Keeps.foldl; intro _ _ _) | (split)

theorem keeps_stopStep (h : Keeps K s) : Keeps K (State.stopStep s b) := by
  unfold State.stopStep
  repeat' with_reducible first
    | assumption | apply keeps_mapGate | apply keeps_setFld | apply keeps_ackHeld | apply keeps_runStage
    | apply keeps_windowClose | (apply Keeps.foldl; intro _ _ _) | (split)

theorem keeps_streamGone (h : Keeps K s) : Keeps K (State.streamGone s b) := by
  unfold State.streamGone
  repeat' with_reducible first | assumption | apply keeps_mapGate | (apply Keeps.foldl; intro _ _ _)

theorem keeps_setStream (h : Keeps K s) : Keeps K (State.setStream s b c) := by
  unfold State.setStream
  repeat' with_reducible first | assumption | (simp only [↓Keeps.mk_eq])

theorem keeps_fryWait (h : Keeps K s) : Keeps K (State.fryWait s b c) := by
  unfold State.fryWait
  try dsimp only
  repeat' with_reducible first | assumption | apply keeps_setFld | (split) | (intro _) | (dsimp only)

theorem keeps_addSem (h : Keeps K s) : Keeps K (State.addSem s b c d e) := by
  unfold State.addSem
  try dsimp only
  repeat' with_reducible first | assumption | apply keeps_quadFault | apply keeps_setSem | (split) | (intro _) | (dsimp only)

theorem keeps_askWake (h : Keeps K s) : Keeps K (State.askWake s b) := by
  unfold State.askWake
  try dsimp only
  repeat' with_reducible first
    | assumption | apply keeps_setFld | (simp only [↓Keeps.mk_eq]) | (split) | (intro _) | (dsimp only)

theorem keeps_signal (h : Keeps K s) : Keeps K (State.signal s b c d e) := by
  unfold State.signal
  repeat' with_reducible first | assumption | apply keeps_addSem | apply keeps_askWake

theorem keeps_countAdd (h : Keeps K s) : Keeps K (State.countAdd s b c d) := by
  unfold State.countAdd
  repeat' with_reducible first | assumption | apply keeps_incFld

theorem keeps_addAddr (h : Keeps K s) : Keeps K (State.addAddr s b c d e f).1 := by
  unfold State.addAddr
  try dsimp only
  repeat' with_reducible first
    | assumption | apply keeps_sharedWrite | apply keeps_wr | apply keeps_countAdd | (intro _) | (split) | (dsimp only)

theorem keeps_chargeAll (h : Keeps K s) : Keeps K (State.chargeAll s b c d) := by
  unfold State.chargeAll
  repeat' with_reducible first | assumption | apply keeps_chargeBytes | (apply Keeps.foldl; intro _ _ _)

theorem keeps_refuseWrite (h : Keeps K s) : Keeps K (State.refuseWrite s b c d) := by
  unfold State.refuseWrite
  repeat' with_reducible first | assumption | apply keeps_finish

theorem keeps_writeWork (h : Keeps K s) : Keeps K (State.writeWork s b c d) := by
  unfold State.writeWork
  repeat' with_reducible first | assumption | apply keeps_wr | (apply Keeps.foldl; intro _ _ _)

theorem keeps_mapObj (h : Keeps K s) : Keeps K (State.mapObj s b c) := by
  unfold State.mapObj
  repeat' with_reducible first | assumption | (simp only [↓Keeps.mk_eq])

theorem keeps_objWrite (h : Keeps K s) : Keeps K (State.objWrite s b c d) := by
  induction d generalizing s c with
  | nil =>
    unfold State.objWrite
    try dsimp only
    repeat' with_reducible first
      | assumption | apply keeps_wr | apply keeps_mapObj | (apply Keeps.ite <;> intro _) | (apply Keeps.foldl; intro _ _ _)
      | (refine Keeps.fst (by assumption) ?_) | (simp only [↓Keeps.mk_eq]) | (split) | (intro _) | (dsimp only)
  | cons x xs ih =>
    unfold State.objWrite
    try dsimp only
    repeat' with_reducible first
      | assumption | apply ih | apply keeps_wr | apply keeps_mapObj | (apply Keeps.ite <;> intro _)
      | (apply Keeps.foldl; intro _ _ _) | (refine Keeps.fst (by assumption) ?_) | (simp only [↓Keeps.mk_eq]) | (split)
      | (intro _) | (dsimp only)

theorem keeps_askWakes (h : Keeps K s) : Keeps K (State.askWakes s b) := by
  unfold State.askWakes
  repeat' with_reducible first | assumption | apply keeps_askWake | (apply Keeps.foldl; intro _ _ _)

theorem keeps_setThread (h : Keeps K s) : Keeps K (State.setThread s b c d e) := by
  unfold State.setThread
  repeat' with_reducible first | assumption | (simp only [↓Keeps.mk_eq])

theorem keeps_mapThread (h : Keeps K s) : Keeps K (State.mapThread s b c d e) := by
  unfold State.mapThread
  repeat' with_reducible first | assumption | apply keeps_setThread | (split)

theorem keeps_join (h : Keeps K s) : Keeps K (State.join s b c) := by
  unfold State.join
  repeat' with_reducible first | assumption | apply keeps_mapThread

theorem keeps_wrQa (h : Keeps K s) : Keeps K (State.wrQa s b c d) := by
  unfold State.wrQa
  try dsimp only
  repeat' with_reducible first | assumption | apply keeps_plainWrite | (split) | (intro _) | (dsimp only)

theorem keeps_setQp (h : Keeps K s) : Keeps K (State.setQp s b c) := by
  unfold State.setQp
  repeat' with_reducible first | assumption | (simp only [↓Keeps.mk_eq])

theorem keeps_qStat (h : Keeps K s) : Keeps K (State.qStat s) := by
  unfold State.qStat
  repeat' with_reducible first | assumption | apply keeps_setFld

theorem keeps_dropQp (h : Keeps K s) : Keeps K (State.dropQp s b) := by
  unfold State.dropQp
  try dsimp only
  repeat' with_reducible first
    | assumption | apply keeps_setFld | apply keeps_setQp | apply keeps_qStat | (simp only [↓Keeps.mk_eq]) | (split)
    | (intro _) | (dsimp only)

theorem keeps_dropAllQps (h : Keeps K s) : Keeps K (State.dropAllQps s) := by
  unfold State.dropAllQps
  repeat' with_reducible first | assumption | apply keeps_dropQp | (apply Keeps.foldl; intro _ _ _)

theorem keeps_qEnable (h : Keeps K s) : Keeps K (State.qEnable s b) := by
  unfold State.qEnable
  try dsimp only
  repeat' with_reducible first
    | assumption | apply keeps_setFld | apply keeps_dropAllQps | apply keeps_setQp | apply keeps_qStat | (split) | (intro _)
    | (dsimp only)

theorem keeps_qReset (h : Keeps K s) : Keeps K (State.qReset s) := by
  unfold State.qReset
  repeat' with_reducible first | assumption | apply keeps_setFld | apply keeps_dropAllQps

theorem keeps_wrQctl (h : Keeps K s) : Keeps K (State.wrQctl s b c) := by
  unfold State.wrQctl
  try dsimp only
  repeat' with_reducible first | assumption | apply keeps_qEnable | apply keeps_qReset | (split) | (intro _) | (dsimp only)

theorem keeps_wrMsixData (h : Keeps K s) : Keeps K (State.wrMsixData s b c d) := by
  unfold State.wrMsixData
  try dsimp only
  repeat' with_reducible first
    | assumption | apply keeps_setReg | apply keeps_plainWrite | apply keeps_msix | (split) | (intro _) | (dsimp only)

theorem keeps_wrQaSize (h : Keeps K s) : Keeps K (State.wrQaSize s b c) := by
  unfold State.wrQaSize
  try dsimp only
  repeat' with_reducible first | assumption | apply keeps_wrQa | (split) | (intro _) | (dsimp only)

theorem keeps_bar2Read (h : Keeps K s) : Keeps K (State.bar2Read s b c) := by
  unfold State.bar2Read
  repeat' with_reducible first | assumption | apply keeps_touch | apply keeps_emit

theorem keeps_bar2Refuse (h : Keeps K s) : Keeps K (State.bar2Refuse s b c) := by
  unfold State.bar2Refuse
  try dsimp only
  repeat' with_reducible first | assumption | apply keeps_raise | apply keeps_emit | (split) | (intro _) | (dsimp only)

theorem keeps_bar2Alias (h : Keeps K s) : Keeps K (State.bar2Alias s b c d e f) := by
  unfold State.bar2Alias
  try dsimp only
  repeat' with_reducible first | assumption | apply keeps_bar2Read | apply keeps_aliasWrite | apply keeps_bar2Refuse | (split)

theorem keeps_bar2Write (h : Keeps K s) : Keeps K (State.bar2Write s b c) := by
  unfold State.bar2Write
  try dsimp only
  repeat' with_reducible first | assumption | apply keeps_touch | apply keeps_wr | (split) | (intro _) | (dsimp only)

theorem keeps_hold (h : Keeps K s) : Keeps K (State.hold s b) := by
  unfold State.hold
  repeat' with_reducible first | assumption | (simp only [↓Keeps.mk_eq])

theorem keeps_bar2Serve (h : Keeps K s) : Keeps K (State.bar2Serve s b c d e f) := by
  unfold State.bar2Serve
  repeat' with_reducible first
    | assumption | apply keeps_incFld | apply keeps_bar2Alias | apply keeps_snoopRange | apply keeps_wr
    | apply keeps_bar2Write | apply keeps_bar2Read | apply keeps_bar2Refuse | apply keeps_hold | apply keeps_emit | (split)

theorem keeps_bar2 (h : Keeps K s) : Keeps K (State.bar2 s b c d) := by
  unfold State.bar2
  try dsimp only
  repeat' with_reducible first | assumption | apply keeps_bar2Serve | apply keeps_emit | (split) | (intro _) | (dsimp only)

theorem keeps_claim (h : Keeps K s) : Keeps K (State.claim s b c) := by
  unfold State.claim
  try dsimp only
  repeat' with_reducible first
    | assumption | apply keeps_wipe | (apply Keeps.foldl; intro _ _ _) | (simp only [↓Keeps.mk_eq]) | (split) | (intro _)
    | (dsimp only)

theorem keeps_fryFault (h : Keeps K s) : Keeps K (State.fryFault s b c) := by
  unfold State.fryFault
  repeat' with_reducible first | assumption | apply keeps_quadFault | apply keeps_setFld

theorem keeps_loseObjects (h : Keeps K s) : Keeps K (State.loseObjects s) := by
  unfold State.loseObjects
  try dsimp only
  repeat' with_reducible first
    | assumption | apply keeps_mapObj | apply keeps_raise | (apply Keeps.foldl; intro _ _ _) | (split) | (intro _)
    | (dsimp only)

theorem keeps_chFail (h : Keeps K s) : Keeps K (State.chFail s b c) := by
  unfold State.chFail
  repeat' with_reducible first
    | assumption | apply keeps_setFld | apply keeps_raise | apply keeps_affectAll | apply keeps_loseObjects
    | (simp only [↓Keeps.mk_eq]) | (split)

theorem keeps_touchRange (h : Keeps K s) : Keeps K (State.touchRange s b c).1 := by
  unfold State.touchRange
  try dsimp only
  repeat' with_reducible first | assumption | apply keeps_touch | (split) | (intro _) | (dsimp only)

theorem keeps_writePlain (h : Keeps K s) : Keeps K (State.writePlain s b c d e).1 := by
  unfold State.writePlain
  try dsimp only
  repeat' with_reducible first
    | assumption | apply keeps_incFld | apply keeps_sharedWrite | apply keeps_touchRange | apply keeps_wr | (split) | (intro _)

theorem keeps_writeAddr (h : Keeps K s) : Keeps K (State.writeAddr s b c d e).1 := by
  unfold State.writeAddr
  repeat' with_reducible first | assumption | apply keeps_writePlain | apply keeps_aliasPut | apply keeps_poolFree | (split)

theorem keeps_spillRow (h : Keeps K s) : Keeps K (State.spillRow s b c d) := by
  unfold State.spillRow
  repeat' with_reducible first | assumption | apply keeps_setFld | apply keeps_raise | (split)

theorem keeps_rowAdd (h : Keeps K s) : Keeps K (State.rowAdd s b c d e f g) := by
  unfold State.rowAdd
  try dsimp only
  repeat' with_reducible first
    | assumption | apply keeps_mapTable | apply keeps_mapGate | apply keeps_spillRow | apply keeps_countAdd | (split)

theorem keeps_objPut (h : Keeps K s) : Keeps K (State.objPut s b c d e) := by
  unfold State.objPut
  repeat' with_reducible first | assumption | apply keeps_countAdd | apply keeps_objWrite | (split)

theorem keeps_putElem (h : Keeps K s) : Keeps K (State.putElem s b c d e f g i).1 := by
  unfold State.putElem
  repeat' with_reducible first
    | assumption | apply keeps_mapTable | apply keeps_sharedWrite | apply keeps_mapGate | apply keeps_rowAdd
    | apply keeps_objPut | apply keeps_count | apply keeps_program | (simp only [↓Keeps.mk_eq]) | (split) | (intro _)

theorem keeps_writeEnd (h : Keeps K s) : Keeps K (State.writeEnd s b c d e f).1 := by
  unfold State.writeEnd
  repeat' with_reducible first
    | assumption | apply keeps_addAddr | apply keeps_writeAddr | apply keeps_raise | apply keeps_putElem | (split)

theorem keeps_recharge (h : Keeps K s) : Keeps K (State.recharge s b) := by
  unfold State.recharge
  repeat' with_reducible first
    | assumption | apply keeps_mapObj | apply keeps_chargeTo | apply keeps_release | (apply Keeps.foldl; intro _ _ _) | (split)

theorem keeps_flashDies (h : Keeps K s) : Keeps K (State.flashDies s) := by
  unfold State.flashDies
  repeat' with_reducible first | assumption | apply keeps_setFld

theorem keeps_done (h : Keeps K s) : Keeps K (State.done s b) := by
  unfold State.done
  repeat' with_reducible first | assumption | apply keeps_addSem | (split)

theorem keeps_complete (h : Keeps K s) : Keeps K (State.complete s b c d e) := by
  unfold State.complete
  repeat' with_reducible first | assumption | apply keeps_done | apply keeps_setThread | (split)

theorem keeps_leaveAll (h : Keeps K s) : Keeps K (State.leaveAll s b) := by
  unfold State.leaveAll
  try dsimp only
  repeat' with_reducible first
    | assumption | apply keeps_setStream | (apply Keeps.foldl; intro _ _ _) | (split) | (intro _) | (dsimp only)

theorem keeps_consume (h : Keeps K s) (h_c : ∀ y0 y1, Keeps K y0 → Keeps K (c y0 y1)) : KeepsOpt K (State.consume s b c) := by
  unfold State.consume
  repeat' with_reducible first
    | assumption | exact KeepsOpt.none | apply h_c | apply keeps_fryFault | apply keeps_leaveAll | (apply KeepsOpt.some)
    | (split)

theorem keeps_refuseEnd (h : Keeps K s) : Keeps K (State.refuseEnd s b c d) := by
  unfold State.refuseEnd
  repeat' with_reducible first
    | assumption | apply keeps_domainOff | apply keeps_addrFault | apply keeps_quadFault | apply keeps_setFld
    | apply keeps_emit | (split)

theorem keeps_retirePage (h : Keeps K s) : Keeps K (State.retirePage s b) := by
  unfold State.retirePage
  repeat' with_reducible first
    | assumption | apply keeps_incFld | apply keeps_setFld | apply keeps_raise | (simp only [↓Keeps.mk_eq]) | (split)

theorem keeps_memUe (h : Keeps K s) : Keeps K (State.memUe s b) := by
  unfold State.memUe
  repeat' with_reducible first
    | assumption | apply keeps_incFld | apply keeps_retirePage | apply keeps_setFld | apply keeps_raise | (split)

theorem keeps_memCrc (h : Keeps K s) : Keeps K (State.memCrc s b c) := by
  unfold State.memCrc
  repeat' with_reducible first | assumption | apply keeps_incFld | apply keeps_memUe | (split)

theorem keeps_memCe (h : Keeps K s) : Keeps K (State.memCe s b) := by
  unfold State.memCe
  repeat' with_reducible first | assumption | apply keeps_incFld | apply keeps_retirePage | (simp only [↓Keeps.mk_eq]) | (split)

theorem keeps_readErr (h : Keeps K s) : Keeps K (State.readErr s b c) := by
  unfold State.readErr
  repeat' with_reducible first
    | assumption | apply keeps_spadCe | apply keeps_memUe | apply keeps_memCrc | apply keeps_raise | apply keeps_memCe | (split)

theorem keeps_readPlain (h : Keeps K s) : Keeps K (State.readPlain s b c d e).1 := by
  unfold State.readPlain
  try dsimp only
  repeat' with_reducible first
    | assumption | apply keeps_touchRange | apply keeps_drew | apply keeps_readErr | (split) | (intro _) | (dsimp only)

theorem keeps_readAddr (h : Keeps K s) : Keeps K (State.readAddr s b c d e).1 := by
  unfold State.readAddr
  try dsimp only
  repeat' with_reducible first | assumption | apply keeps_poolAlloc | apply keeps_readPlain | (split)

theorem keeps_noteMiss (h : Keeps K s) : Keeps K (State.noteMiss s b c) := by
  unfold State.noteMiss
  repeat' with_reducible first | assumption | apply keeps_mapTable

theorem keeps_readElem (h : Keeps K s) : Keeps K (State.readElem s b c d e f g).1 := by
  unfold State.readElem
  try dsimp only
  repeat' with_reducible first | assumption | apply keeps_noteMiss | apply keeps_readErr | (split)

theorem keeps_readEnd (h : Keeps K s) : Keeps K (State.readEnd s b c d e).1 := by
  unfold State.readEnd
  repeat' with_reducible first | assumption | apply keeps_readAddr | apply keeps_readElem | (split)

theorem keeps_narrow (h : Keeps K s) : Keeps K (State.narrow s b c d e f) := by
  unfold State.narrow
  try dsimp only
  repeat' with_reducible first
    | assumption | apply keeps_refuseEnd | apply keeps_writeEnd | apply keeps_readEnd | apply keeps_hold | apply keeps_emit
    | (split)

theorem keeps_notApplied (h : Keeps K s) : Keeps K (State.notApplied s b c) := by
  unfold State.notApplied
  repeat' with_reducible first | assumption | apply keeps_raise | (apply Keeps.foldl; intro _ _ _) | (split)

theorem keeps_memAdd (h : Keeps K s) : Keeps K (State.memAdd s b c d e f) := by
  unfold State.memAdd
  try dsimp only
  repeat' with_reducible first
    | assumption | apply keeps_refuseEnd | apply keeps_startAbort | apply keeps_writeEnd | apply keeps_hold
    | apply keeps_windowClose | apply keeps_notApplied | (apply Keeps.foldl; intro _ _ _) | (split)

theorem keeps_freeAccs (h : Keeps K s) : Keeps K (State.freeAccs s) := by
  unfold State.freeAccs
  repeat' with_reducible first
    | assumption | apply keeps_narrow | apply keeps_memAdd | apply keeps_bar2 | (apply Keeps.foldl; intro _ _ _)
    | (simp only [↓Keeps.mk_eq]) | (split)

theorem keeps_copyTile (h : Keeps K s) : Keeps K (State.copyTile s b c d e f) := by
  unfold State.copyTile
  repeat' with_reducible first
    | assumption | apply keeps_snoopRange | apply keeps_wr | apply keeps_mapObj | apply keeps_wipe
    | (apply Keeps.foldl; intro _ _ _) | (split)

theorem keeps_dbInvalid (h : Keeps K s) : Keeps K (State.dbInvalid s b c d) := by
  unfold State.dbInvalid
  repeat' with_reducible first | assumption | apply keeps_raise

theorem keeps_cqDoorbell (h : Keeps K s) : Keeps K (State.cqDoorbell s b c) := by
  unfold State.cqDoorbell
  try dsimp only
  repeat' with_reducible first | assumption | apply keeps_dbInvalid | apply keeps_setQp | (split) | (intro _) | (dsimp only)

theorem keeps_cqInterrupt (h : Keeps K s) : Keeps K (State.cqInterrupt s b) := by
  unfold State.cqInterrupt
  try dsimp only
  repeat' with_reducible first | assumption | apply keeps_setQp | apply keeps_msix | (split) | (intro _) | (dsimp only)

theorem keeps_createQp (h : Keeps K s) : Keeps K (State.createQp s b) := by
  unfold State.createQp
  repeat' with_reducible first
    | assumption | apply keeps_setFld | apply keeps_refuse | apply keeps_finish | apply keeps_drew | apply keeps_setQp
    | apply keeps_qStat | (simp only [↓Keeps.mk_eq]) | (split)

theorem keeps_settleDrain (h : Keeps K s) : Keeps K (State.settleDrain s b) := by
  unfold State.settleDrain
  repeat' with_reducible first | assumption | apply keeps_dropQp | apply keeps_finish | (split)

theorem keeps_deleteQp (h : Keeps K s) : Keeps K (State.deleteQp s b) := by
  unfold State.deleteQp
  try dsimp only
  repeat' with_reducible first
    | assumption | apply keeps_setCmd | apply keeps_dropQp | apply keeps_refuse | apply keeps_finish | apply keeps_setQp
    | apply keeps_settleDrain | apply keeps_qStat | (split)

theorem keeps_deliverSig (h : Keeps K s) : Keeps K (State.deliverSig s b) := by
  unfold State.deliverSig
  try dsimp only
  repeat' with_reducible first
    | assumption | apply keeps_incFld | apply keeps_addSem | apply keeps_askWake | apply keeps_raise | (split) | (intro _)
    | (dsimp only)

theorem keeps_demote (h : Keeps K s) : Keeps K (State.demote s b) := by
  unfold State.demote
  try dsimp only
  repeat' with_reducible first
    | assumption | apply keeps_mapTable | apply keeps_refuse | apply keeps_mapModel | apply keeps_finish | (split)

theorem keeps_pendWindow (h : Keeps K s) : Keeps K (State.pendWindow s b c) := by
  unfold State.pendWindow
  repeat' with_reducible first | assumption | apply keeps_mapGate | apply keeps_setFld

theorem keeps_demotionTimer (h : Keeps K s) : Keeps K (State.demotionTimer s b) := by
  unfold State.demotionTimer
  repeat' with_reducible first | assumption | apply keeps_pendWindow | (split)

theorem keeps_doeAnswer (h : Keeps K s) : Keeps K (State.doeAnswer s b) := by
  unfold State.doeAnswer
  try dsimp only
  repeat' with_reducible first | assumption | apply keeps_emit | (split) | (intro _) | (dsimp only)

theorem keeps_fault (h : Keeps K s) : Keeps K (State.fault s b c) := by
  unfold State.fault
  repeat' with_reducible first | assumption | apply keeps_quadFault

theorem keeps_dueRetire (h : Keeps K s) : Keeps K (State.dueRetire s b c) := by
  unfold State.dueRetire
  repeat' with_reducible first | assumption | apply keeps_affect | (simp only [↓Keeps.mk_eq]) | (split)

theorem keeps_touchBanks (h : Keeps K s) : Keeps K (State.touchBanks s b c d).1 := by
  unfold State.touchBanks
  repeat' with_reducible first | assumption | apply keeps_touchSpad | (apply Keeps.foldlP; intro _ _ _)

theorem keeps_spadRead (h : Keeps K s) : Keeps K (State.spadRead s b c d).1 := by
  unfold State.spadRead
  try dsimp only
  repeat' with_reducible first | assumption | apply keeps_touchBanks | (split) | (intro _) | (dsimp only)

theorem keeps_putStream (h : Keeps K s) : Keeps K (State.putStream s b c) := by
  unfold State.putStream
  repeat' with_reducible first | assumption | apply keeps_setStream

theorem keeps_later (h : Keeps K s) : Keeps K (State.later s b) := by
  unfold State.later
  repeat' with_reducible first | assumption | apply keeps_join

theorem keeps_dramTemp (h : Keeps K s) : Keeps K (State.dramTemp s b c) := by
  unfold State.dramTemp
  try dsimp only
  repeat' with_reducible first
    | assumption | apply keeps_setFld | apply keeps_raise | (simp only [↓Keeps.mk_eq]) | (split) | (intro _) | (dsimp only)

theorem keeps_followColl (h : Keeps K s) : Keeps K (State.followColl a s c) := by
  unfold State.followColl
  repeat' with_reducible first
    | assumption | apply keeps_chargeAll | apply keeps_freeAll | (apply Keeps.foldl; intro _ _ _) | (simp only [↓Keeps.mk_eq])
    | (split)

theorem keeps_followMove (h : Keeps K s) : Keeps K (State.followMove s b) := by
  unfold State.followMove
  repeat' with_reducible first | assumption | apply keeps_followColl | (apply Keeps.foldl; intro _ _ _) | (split)

theorem keeps_endMove (h : Keeps K s) : Keeps K (State.endMove s b c) := by
  unfold State.endMove
  repeat' with_reducible first
    | assumption | apply keeps_followMove | apply keeps_giveUp | apply keeps_finish | apply keeps_recharge
    | apply keeps_mapObj | (split)

theorem keeps_endl (h : Keeps K s) : Keeps K (State.endl s b) := by
  unfold State.endl
  try dsimp only
  repeat' with_reducible first | assumption | apply keeps_fault | apply keeps_setThread | (split)

theorem keeps_streamDone (h : Keeps K s) : Keeps K (State.streamDone s b c) := by
  unfold State.streamDone
  repeat' with_reducible first | assumption | apply keeps_mapGate | (apply Keeps.foldl; intro _ _ _) | (split)

theorem keeps_farRead (h : Keeps K s) : Keeps K (State.farRead s b c d e f) := by
  unfold State.farRead
  try dsimp only
  repeat' with_reducible first
    | assumption | apply keeps_incFld | apply keeps_perturb | apply keeps_setSharers | apply keeps_narrow
    | apply keeps_addrFault | apply keeps_keepLine | apply keeps_emit | (apply Keeps.ite <;> intro _)
    | (apply Keeps.foldl; intro _ _ _) | (refine Keeps.fst (by assumption) ?_) | (simp only [↓Keeps.mk_eq]) | (split)
    | (intro _) | (dsimp only)

theorem keeps_fence (h : Keeps K s) : Keeps K (State.fence s b) := by
  unfold State.fence
  try dsimp only
  repeat' with_reducible first
    | assumption | apply keeps_fault | apply keeps_setSharers | apply keeps_later | (apply Keeps.foldl; intro _ _ _)
    | (simp only [↓Keeps.mk_eq]) | (split) | (intro _) | (dsimp only)

theorem keeps_takeLock (h : Keeps K s) : Keeps K (State.takeLock s b) := by
  unfold State.takeLock
  try dsimp only
  repeat' with_reducible first
    | assumption | apply keeps_setCmd | apply keeps_setFld | (simp only [↓Keeps.mk_eq]) | (split) | (intro _) | (dsimp only)

theorem keeps_takeReadPoint (h : Keeps K s) : Keeps K (State.takeReadPoint s b) := by
  unfold State.takeReadPoint
  try dsimp only
  repeat' with_reducible first | assumption | apply keeps_setCmd | (split) | (intro _) | (dsimp only)

theorem keeps_fetch (h : Keeps K s) : Keeps K (State.fetch s b c d e) := by
  unfold State.fetch
  try dsimp only
  repeat' with_reducible first
    | assumption | apply keeps_setQp | apply keeps_takeLock | apply keeps_takeReadPoint | (apply Keeps.ite <;> intro _)
    | (apply Keeps.foldl; intro _ _ _) | (refine Keeps.fst (by assumption) ?_) | (simp only [↓Keeps.mk_eq]) | (split)
    | (intro _) | (dsimp only)

theorem keeps_fetchParity (h : Keeps K s) : Keeps K (State.fetchParity s b c) := by
  unfold State.fetchParity
  try dsimp only
  repeat' with_reducible first
    | assumption | apply keeps_quadFault | apply keeps_dueRetire | (simp only [↓Keeps.mk_eq]) | (split) | (intro _)
    | (dsimp only)

theorem keeps_fillWay (h : Keeps K s) : Keeps K (State.fillWay s b c d e) := by
  unfold State.fillWay
  repeat' with_reducible first | assumption | apply keeps_mapTable | apply keeps_drew | (split)

theorem keeps_flashDieFail (h : Keeps K s) : Keeps K (State.flashDieFail s b) := by
  unfold State.flashDieFail
  try dsimp only
  repeat' with_reducible first
    | assumption | apply keeps_raise | apply keeps_flashDies | (simp only [↓Keeps.mk_eq]) | (split) | (intro _) | (dsimp only)

theorem keeps_flashRead (h : Keeps K s) : Keeps K (State.flashRead s b c d e f) := by
  unfold State.flashRead
  repeat' with_reducible first
    | assumption | apply keeps_incFld | apply keeps_addrFault | apply keeps_raise | apply keeps_emit | (split)

theorem keeps_flush (h : Keeps K s) : Keeps K (State.flush s b) := by
  unfold State.flush
  try dsimp only
  repeat' with_reducible first | assumption | apply keeps_fault | apply keeps_later | (split) | (intro _) | (dsimp only)

theorem keeps_halt (h : Keeps K s) : KeepsOpt K (State.halt s b) := by
  unfold State.halt
  repeat' with_reducible first
    | assumption | exact KeepsOpt.none | apply keeps_done | apply keeps_setThread | (apply KeepsOpt.some) | (split)

theorem keeps_spadWrite (h : Keeps K s) : Keeps K (State.spadWrite s b c d).1 := by
  unfold State.spadWrite
  try dsimp only
  repeat' with_reducible first | assumption | apply keeps_wr | apply keeps_spadRead | (split)

theorem keeps_waits (h : Keeps K s) : Keeps K (State.waits s b c d) := by
  unfold State.waits
  try dsimp only
  repeat' with_reducible first | assumption | apply keeps_mapThread | apply keeps_fryWait | (split) | (intro _) | (dsimp only)

theorem keeps_taken (h : Keeps K s) : Keeps K (State.taken s b c d e) := by
  unfold State.taken
  try dsimp only
  repeat' with_reducible first
    | assumption | apply keeps_mapThread | apply keeps_setSem | apply keeps_fryWait | (simp only [↓Keeps.mk_eq]) | (split)
    | (intro _) | (dsimp only)

theorem keeps_unitParity (h : Keeps K s) : Keeps K (State.unitParity s b c d e) := by
  unfold State.unitParity
  try dsimp only
  repeat' with_reducible first
    | assumption | apply keeps_quadFault | apply keeps_dueRetire | (simp only [↓Keeps.mk_eq]) | (split) | (intro _)
    | (dsimp only)

theorem keeps_unitErr (h : Keeps K s) : Keeps K (State.unitErr s b c) := by
  unfold State.unitErr
  try dsimp only
  repeat' with_reducible first | assumption | apply keeps_unitParity | apply keeps_setFld | (split) | (intro _) | (dsimp only)

theorem keeps_stay (h : Keeps K s) : Keeps K (State.stay s b) := by
  unfold State.stay
  repeat' with_reducible first | assumption | apply keeps_join

theorem keeps_issue (h : Keeps K s) (h_g : ∀ y0 y1, Keeps K y0 → KeepsOpt K (g y0 y1)) : Keeps K (State.issue s b c d e f g) :=
    by
  unfold State.issue
  repeat' with_reducible first
    | assumption | apply h_g | apply keeps_mapThread | apply keeps_fault | apply keeps_waits | apply keeps_taken
    | apply keeps_fetchParity | apply keeps_done | apply keeps_unitErr | apply keeps_stay | (apply Keeps.ite <;> intro _)
    | (apply Keeps.getD) | (split)

theorem keeps_issueNow (h : Keeps K s) (h_g : ∀ y0 y1, Keeps K y0 → Keeps K (g y0 y1)) : Keeps K (State.issueNow s b c d e f g)
    := by
  unfold State.issueNow
  repeat' with_reducible first
    | assumption | apply h_g | apply keeps_issue | apply keeps_done | (apply KeepsOpt.some) | (intro _)

theorem keeps_linkTrain (h : Keeps K s) : Keeps K (State.linkTrain s b c) := by
  unfold State.linkTrain
  try dsimp only
  repeat' with_reducible first | assumption | apply keeps_setFld | apply keeps_raise | (split) | (intro _) | (dsimp only)

theorem keeps_loop (h : Keeps K s) : Keeps K (State.loop s b) := by
  unfold State.loop
  try dsimp only
  repeat' with_reducible first | assumption | apply keeps_fault | apply keeps_setThread | (split)

theorem keeps_wholeRuns (h : Keeps K s) (h_c : ∀ y0, Keeps K y0 → Keeps K (c y0)) : Keeps K (State.wholeRuns s b c) := by
  unfold State.wholeRuns
  repeat' with_reducible first | assumption | apply h_c | apply keeps_fryFault | (split)

theorem keeps_modelCreate (h : Keeps K s) : Keeps K (State.modelCreate s b) := by
  unfold State.modelCreate
  try dsimp only
  repeat' with_reducible first
    | assumption | apply keeps_refuse | apply keeps_finish | apply keeps_drew | apply keeps_setModel | (split)

theorem keeps_nandTemp (h : Keeps K s) : Keeps K (State.nandTemp s b) := by
  unfold State.nandTemp
  repeat' with_reducible first | assumption | apply keeps_setFld | (simp only [↓Keeps.mk_eq])

theorem keeps_objCreate (h : Keeps K s) : Keeps K (State.objCreate s b) := by
  unfold State.objCreate
  repeat' with_reducible first
    | assumption | apply keeps_refuse | apply keeps_finish | apply keeps_drew | apply keeps_claim | apply keeps_recharge
    | (simp only [↓Keeps.mk_eq]) | (split)

theorem keeps_objFree (h : Keeps K s) : Keeps K (State.objFree s b) := by
  unfold State.objFree
  try dsimp only
  repeat' with_reducible first
    | assumption | apply keeps_setCmd | apply keeps_dropObj | apply keeps_refuse | apply keeps_finish | apply keeps_mapObj
    | (split)

theorem keeps_objMove (h : Keeps K s) : Keeps K (State.objMove s b) := by
  unfold State.objMove
  try dsimp only
  repeat' with_reducible first
    | assumption | apply keeps_setCmd | apply keeps_refuse | apply keeps_claim | apply keeps_mapObj | apply keeps_chargeTo
    | (split)

theorem keeps_objSync (h : Keeps K s) : Keeps K (State.objSync s b) := by
  unfold State.objSync
  try dsimp only
  repeat' with_reducible first
    | assumption | apply keeps_refuse | apply keeps_finish | apply keeps_mapObj | apply keeps_program | (split)

theorem keeps_onCmd (h : Keeps K s) (h_d : ∀ y0 y1, Keeps K y0 → Keeps K (d y0 y1)) : Keeps K (State.onCmd s b c d) := by
  unfold State.onCmd
  repeat' with_reducible first | assumption | apply h_d | (split)

theorem keeps_placeTouched (h : Keeps K s) : Keeps K (State.placeTouched s b c d e) := by
  unfold State.placeTouched
  try dsimp only
  repeat' with_reducible first
    | assumption | apply keeps_mapTable | apply keeps_demoteWay | apply keeps_spillRow | apply keeps_fillWay | (split)

theorem keeps_unlock (h : Keeps K s) : Keeps K (State.unlock s b) := by
  unfold State.unlock
  try dsimp only
  repeat' with_reducible first
    | assumption | apply keeps_setFld | (simp only [↓Keeps.mk_eq]) | (split) | (intro _) | (dsimp only)

theorem keeps_postCompletion (h : Keeps K s) : Keeps K (State.postCompletion s b) := by
  unfold State.postCompletion
  repeat' with_reducible first
    | assumption | apply keeps_setQp | apply keeps_settleDrain | apply keeps_unlock | apply keeps_emit
    | (simp only [↓Keeps.mk_eq]) | (split)

theorem keeps_programFail (h : Keeps K s) : Keeps K (State.programFail s b c) := by
  unfold State.programFail
  try dsimp only
  repeat' with_reducible first
    | assumption | apply keeps_raise | apply keeps_flashDies | (simp only [↓Keeps.mk_eq]) | (split) | (intro _) | (dsimp only)

theorem keeps_promote (h : Keeps K s) : Keeps K (State.promote s b) := by
  unfold State.promote
  try dsimp only
  repeat' with_reducible first | assumption | apply keeps_refuse | apply keeps_finish | apply keeps_fillWay | (split)

theorem keeps_promoteRow (h : Keeps K s) : Keeps K (State.promoteRow s b c d) := by
  unfold State.promoteRow
  repeat' with_reducible first | assumption | apply keeps_fillWay | (split)

theorem keeps_qpError (h : Keeps K s) : Keeps K (State.qpError s b c) := by
  unfold State.qpError
  try dsimp only
  repeat' with_reducible first
    | assumption | apply keeps_raise | apply keeps_setQp | apply keeps_qStat | (split) | (intro _) | (dsimp only)

theorem keeps_relocDone (h : Keeps K s) : Keeps K (State.relocDone s b) := by
  unfold State.relocDone
  repeat' with_reducible first | assumption | apply keeps_flashDies | (simp only [↓Keeps.mk_eq])

theorem keeps_sadd (h : Keeps K s) : Keeps K (State.sadd s b) := by
  unfold State.sadd
  try dsimp only
  repeat' with_reducible first | assumption | apply keeps_fault | apply keeps_setSem | (split) | (intro _) | (dsimp only)

theorem keeps_setp (h : Keeps K s) : Keeps K (State.setp s b) := by
  unfold State.setp
  repeat' with_reducible first | assumption | apply keeps_mapThread

theorem keeps_sharedLineWrite (h : Keeps K s) : Keeps K (State.sharedLineWrite s b c d) := by
  unfold State.sharedLineWrite
  try dsimp only
  repeat' with_reducible first
    | assumption | apply keeps_narrow | (apply Keeps.ite <;> intro _) | (apply Keeps.foldl; intro _ _ _)
    | (refine Keeps.fst (by assumption) ?_) | (simp only [↓Keeps.mk_eq]) | (split) | (intro _) | (dsimp only)

theorem keeps_sigArrival (h : Keeps K s) : Keeps K (State.sigArrival s b) := by
  unfold State.sigArrival
  repeat' with_reducible first | assumption | apply keeps_deliverSig | (simp only [↓Keeps.mk_eq]) | (split)

theorem keeps_sigr (h : Keeps K s) : Keeps K (State.sigr s b) := by
  unfold State.sigr
  try dsimp only
  repeat' with_reducible first
    | assumption | apply keeps_fault | (simp only [↓Keeps.mk_eq]) | (split) | (intro _) | (dsimp only)

theorem keeps_sqDoorbell (h : Keeps K s) : Keeps K (State.sqDoorbell s b c) := by
  unfold State.sqDoorbell
  try dsimp only
  repeat' with_reducible first | assumption | apply keeps_dbInvalid | apply keeps_setQp | (split) | (intro _) | (dsimp only)

theorem keeps_stageStart (h : Keeps K s) : Keeps K (State.stageStart s b c d) := by
  unfold State.stageStart
  repeat' with_reducible first | assumption | apply keeps_mapGate | apply keeps_runStage | (split)

theorem keeps_swait (h : Keeps K s) : KeepsOpt K (State.swait s b) := by
  unfold State.swait
  try dsimp only
  repeat' with_reducible first
    | assumption | exact KeepsOpt.none | apply keeps_setSem | apply keeps_done | (apply KeepsOpt.some) | (split) | (intro _)
    | (dsimp only)

theorem keeps_tableCreate (h : Keeps K s) : Keeps K (State.tableCreate s b) := by
  unfold State.tableCreate
  repeat' with_reducible first
    | assumption | apply keeps_refuse | apply keeps_finish | apply keeps_drew | apply keeps_chargeTo
    | (simp only [↓Keeps.mk_eq]) | (split)

theorem keeps_tileSwitch (h : Keeps K s) : Keeps K (State.tileSwitch s b c) := by
  unfold State.tileSwitch
  repeat' with_reducible first
    | assumption | apply keeps_copyTile | apply keeps_ackTo | apply keeps_dropObj | apply keeps_objPut | apply keeps_giveUp
    | apply keeps_finish | apply keeps_mapObj | apply keeps_program | apply keeps_endMove | (apply Keeps.foldl; intro _ _ _)
    | (simp only [↓Keeps.mk_eq]) | (split)

theorem keeps_watchdog (h : Keeps K s) : Keeps K (State.watchdog s b c d) := by
  unfold State.watchdog
  try dsimp only
  repeat' with_reducible first | assumption | apply keeps_quadFault | (split)

theorem keeps_windowOpen (h : Keeps K s) : Keeps K (State.windowOpen s b c) := by
  unfold State.windowOpen
  repeat' with_reducible first
    | assumption | apply keeps_ackTo | apply keeps_mapGate | apply keeps_setFld | apply keeps_rowAdd
    | apply keeps_placeTouched | (apply Keeps.foldl; intro _ _ _) | (split)

theorem keeps_windowRequest (h : Keeps K s) : Keeps K (State.windowRequest s b c) := by
  unfold State.windowRequest
  repeat' with_reducible first
    | assumption | apply keeps_mapGate | apply keeps_raise | apply keeps_ackHeld | apply keeps_promoteRow
    | apply keeps_pendWindow | (apply Keeps.foldl; intro _ _ _) | (split)

end Sys2Proof.Laws
end

