-- ==== Sys2Proof/Laws/KeepsQuad.lean ====
section
/-! SUPPORT. The operations of quad units, ferries, sketch stacks and schedules keep what `Keeps` says. -/

namespace Sys2Proof.Laws

set_option autoImplicit true
set_option linter.unusedTactic false
set_option linter.unreachableTactic false

open Sys2Proof.Machine

/-- The same of an index read from a port. -/
def KeepsIdx (K : Kept) : Idx → Prop
  | .got _ t => Keeps K t
  | .mark t => Keeps K t
  | _ => True
theorem KeepsIdx.got {K : Kept} {r : Idx} {n : Nat} {t : State} (e : r = .got n t) (h : KeepsIdx K r) : Keeps K t := by
  subst e; exact h
theorem KeepsIdx.mark {K : Kept} {r : Idx} {t : State} (e : r = .mark t) (h : KeepsIdx K r) : Keeps K t := by
  subst e; exact h
theorem keeps_takeIndex (h : Keeps K s) : KeepsIdx K (s.takeIndex b c) := by
  unfold State.takeIndex State.setStream
  dsimp only
  repeat' split
  all_goals first | exact trivial | exact h

theorem keeps_setNbu (h : Keeps K s) : Keeps K (State.setNbu s b c) := by
  unfold State.setNbu
  repeat' with_reducible first | assumption | (simp only [↓Keeps.mk_eq])

theorem keeps_mapNbu (h : Keeps K s) : Keeps K (State.mapNbu s b c) := by
  unfold State.mapNbu
  repeat' with_reducible first | assumption | apply keeps_setNbu

theorem keeps_nbuEnds (h : Keeps K s) : Keeps K (State.nbuEnds s b c d) := by
  unfold State.nbuEnds
  try dsimp only
  repeat' with_reducible first
    | assumption | apply keeps_incFld | apply keeps_mapNbu | apply keeps_quadFault | apply keeps_setFld | apply keeps_raise
    | (apply Keeps.foldl; intro _ _ _) | (simp only [↓Keeps.mk_eq]) | (split) | (intro _) | (dsimp only)

theorem keeps_nbuDiscard (h : Keeps K s) : Keeps K (State.nbuDiscard s b) := by
  unfold State.nbuDiscard
  repeat' with_reducible first | assumption | apply keeps_setNbu | apply keeps_nbuEnds | (apply Keeps.foldl; intro _ _ _)

theorem keeps_setHubCmds (h : Keeps K s) : Keeps K (State.setHubCmds s b c) := by
  unfold State.setHubCmds
  repeat' with_reducible first | assumption | (simp only [↓Keeps.mk_eq])

theorem keeps_nbuSend (h : Keeps K s) : Keeps K (State.nbuSend s b c d).1 := by
  unfold State.nbuSend
  repeat' with_reducible first | assumption | apply keeps_setHubCmds | (simp only [↓Keeps.mk_eq])

theorem keeps_setScans (h : Keeps K s) : Keeps K (State.setScans s b c) := by
  unfold State.setScans
  repeat' with_reducible first | assumption | (simp only [↓Keeps.mk_eq])

theorem keeps_startScans (h : Keeps K s) : Keeps K (State.startScans s b) := by
  unfold State.startScans
  repeat' with_reducible first
    | assumption | apply keeps_wr | apply keeps_nbuSend | apply keeps_setScans | (apply Keeps.foldl; intro _ _ _) | (split)

theorem keeps_feedBank (h : Keeps K s) : Keeps K (State.feedBank a b s) := by
  induction b generalizing s with
  | zero =>
    unfold State.feedBank
    try dsimp only
    repeat' with_reducible first
      | assumption | apply keeps_setHubCmds | apply keeps_mapNbu | apply keeps_startScans | (apply Keeps.ite <;> intro _)
      | (apply Keeps.foldl; intro _ _ _) | (refine Keeps.fst (by assumption) ?_) | (simp only [↓Keeps.mk_eq]) | (split)
      | (intro _) | (dsimp only)
  | succ f ih =>
    unfold State.feedBank
    try dsimp only
    repeat' with_reducible first
      | assumption | apply ih | apply keeps_setHubCmds | apply keeps_mapNbu | apply keeps_startScans
      | (apply Keeps.ite <;> intro _) | (apply Keeps.foldl; intro _ _ _) | (refine Keeps.fst (by assumption) ?_)
      | (simp only [↓Keeps.mk_eq]) | (split) | (intro _) | (dsimp only)

theorem keeps_fed (h : Keeps K s) : Keeps K (State.fed s b) := by
  unfold State.fed
  repeat' with_reducible first | assumption | apply keeps_feedBank

theorem keeps_abortMaster (h : Keeps K s) : Keeps K (State.abortMaster s b) := by
  unfold State.abortMaster
  repeat' with_reducible first
    | assumption | apply keeps_nbuDiscard | apply keeps_fed | (apply Keeps.foldl; intro _ _ _) | (simp only [↓Keeps.mk_eq])

theorem keeps_abortBanks (h : Keeps K s) : Keeps K (State.abortBanks s b) := by
  unfold State.abortBanks
  repeat' with_reducible first | assumption | apply keeps_abortMaster

theorem keeps_loadSems (h : Keeps K s) : Keeps K (State.loadSems s b c) := by
  unfold State.loadSems
  repeat' with_reducible first | assumption | apply keeps_setSem | (apply Keeps.foldl; intro _ _ _)

theorem keeps_dropRequests (h : Keeps K s) : Keeps K (State.dropRequests s b) := by
  unfold State.dropRequests
  repeat' with_reducible first | assumption | (simp only [↓Keeps.mk_eq])

theorem keeps_sweepQuad (h : Keeps K s) : Keeps K (State.sweepQuad s b) := by
  unfold State.sweepQuad
  repeat' with_reducible first
    | assumption | apply keeps_dropRequests | apply keeps_sweepSource | (apply Keeps.foldl; intro _ _ _)

theorem keeps_showInflight (h : Keeps K s) : Keeps K (State.showInflight s b) := by
  unfold State.showInflight
  repeat' with_reducible first | assumption | apply keeps_setFld | (split)

theorem keeps_reloadQuad (h : Keeps K s) : Keeps K (State.reloadQuad s b c) := by
  unfold State.reloadQuad
  try dsimp only
  repeat' with_reducible first
    | assumption | apply keeps_wr | (apply Keeps.foldl; intro _ _ _) | (split) | (intro _) | (dsimp only)

theorem keeps_setSlot (h : Keeps K s) : Keeps K (State.setSlot s b c d) := by
  unfold State.setSlot
  repeat' with_reducible first | assumption | (simp only [↓Keeps.mk_eq])

theorem keeps_showBound (h : Keeps K s) : Keeps K (State.showBound s b c d e) := by
  unfold State.showBound
  repeat' with_reducible first | assumption | apply keeps_setFld

theorem keeps_setXu (h : Keeps K s) : Keeps K (State.setXu s b c) := by
  unfold State.setXu
  repeat' with_reducible first | assumption | (simp only [↓Keeps.mk_eq])

theorem keeps_clearSel (h : Keeps K s) : Keeps K (State.clearSel s b) := by
  unfold State.clearSel
  repeat' with_reducible first
    | assumption | apply keeps_setSlot | apply keeps_showBound | apply keeps_setXu | (apply Keeps.foldl; intro _ _ _)

theorem keeps_dropStreams (h : Keeps K s) : Keeps K (State.dropStreams s b) := by
  unfold State.dropStreams
  repeat' with_reducible first
    | assumption | apply keeps_streamGone | apply keeps_setStream | apply keeps_fryWait | (apply Keeps.foldl; intro _ _ _)

theorem keeps_setEpoch (h : Keeps K s) : Keeps K (State.setEpoch s b c d) := by
  unfold State.setEpoch
  repeat' with_reducible first | assumption | apply keeps_setFld | (apply Keeps.foldl; intro _ _ _)

theorem keeps_restartThreads (h : Keeps K s) : Keeps K (State.restartThreads s b) := by
  unfold State.restartThreads
  repeat' with_reducible first | assumption | (apply Keeps.foldl; intro _ _ _) | (simp only [↓Keeps.mk_eq]) | (split)

theorem keeps_writeStart (h : Keeps K s) : Keeps K (State.writeStart s b c d e) := by
  unfold State.writeStart
  repeat' with_reducible first
    | assumption | apply keeps_touch | apply keeps_showInflight | apply keeps_wr | apply keeps_drew | apply keeps_signal

theorem keeps_endTask (h : Keeps K s) : Keeps K (State.endTask s b c) := by
  unfold State.endTask
  repeat' with_reducible first | assumption | apply keeps_showInflight | apply keeps_mapInst

theorem keeps_abortRec (h : Keeps K s) : Keeps K (State.abortRec s b c d e f) := by
  unfold State.abortRec
  repeat' with_reducible first | assumption | apply keeps_raise

theorem keeps_abortNow (h : Keeps K s) : Keeps K (State.abortNow s b c d) := by
  unfold State.abortNow
  repeat' with_reducible first
    | assumption | apply keeps_incFld | apply keeps_stopStep | apply keeps_loadSems | apply keeps_sweepQuad
    | apply keeps_showInflight | apply keeps_dropSteps | apply keeps_reloadQuad | apply keeps_clearSel
    | apply keeps_dropStreams | apply keeps_setFld | apply keeps_mapInst | apply keeps_setEpoch | apply keeps_finish
    | apply keeps_restartThreads | apply keeps_writeStart | apply keeps_endTask | apply keeps_abortBanks
    | apply keeps_abortRec | apply keeps_sendAborts | (apply Keeps.foldl; intro _ _ _) | (simp only [↓Keeps.mk_eq]) | (split)

theorem keeps_abortPart (h : Keeps K s) : Keeps K (State.abortPart s b c) := by
  unfold State.abortPart
  repeat' with_reducible first | assumption | apply keeps_startAbort | (apply Keeps.foldl; intro _ _ _) | (split)

theorem keeps_setJob (h : Keeps K s) : Keeps K (State.setJob s b c) := by
  unfold State.setJob
  repeat' with_reducible first | assumption | apply keeps_setStream

theorem keeps_mapJob (h : Keeps K s) : Keeps K (State.mapJob s b c) := by
  unfold State.mapJob
  repeat' with_reducible first | assumption | apply keeps_setJob

theorem keeps_addPc (h : Keeps K s) : Keeps K (State.addPc s b c) := by
  unfold State.addPc
  repeat' with_reducible first | assumption | apply keeps_mapJob

theorem keeps_awaitTokens (h : Keeps K s) : Keeps K (State.awaitTokens s b c) := by
  unfold State.awaitTokens
  repeat' with_reducible first | assumption | apply keeps_join

theorem keeps_countThrot (h : Keeps K s) : Keeps K (State.countThrot s b) := by
  unfold State.countThrot
  repeat' with_reducible first | assumption | apply keeps_incFld | (simp only [↓Keeps.mk_eq]) | (split)

theorem keeps_bindTask (h : Keeps K s) : Keeps K (State.bindTask s b c d e) := by
  unfold State.bindTask
  repeat' with_reducible first | assumption | (simp only [↓Keeps.mk_eq])

theorem keeps_moveWaiting (h : Keeps K s) : Keeps K (State.moveWaiting s b c) := by
  unfold State.moveWaiting
  repeat' with_reducible first
    | assumption | apply keeps_finish | apply keeps_bindTask | (apply Keeps.foldl; intro _ _ _) | (simp only [↓Keeps.mk_eq])
    | (split)

theorem keeps_ldTake (h : Keeps K s) : Keeps K (State.ldTake s) := by
  unfold State.ldTake
  repeat' with_reducible first
    | assumption | apply keeps_moveWaiting | apply keeps_setFld | apply keeps_mapInst | (simp only [↓Keeps.mk_eq]) | (split)

theorem keeps_wrLdctl (h : Keeps K s) : Keeps K (State.wrLdctl s b c) := by
  unfold State.wrLdctl
  repeat' with_reducible first | assumption | apply keeps_ldTake | apply keeps_plainWrite

theorem keeps_wrSkRegion (h : Keeps K s) : Keeps K (State.wrSkRegion s b c d) := by
  unfold State.wrSkRegion
  try dsimp only
  repeat' with_reducible first
    | assumption | apply keeps_setFld | apply keeps_plainWrite | apply keeps_clearMem | (simp only [↓Keeps.mk_eq]) | (split)
    | (intro _) | (dsimp only)

theorem keeps_clearQuad (h : Keeps K s) : Keeps K (State.clearQuad s b) := by
  unfold State.clearQuad
  repeat' with_reducible first
    | assumption | apply keeps_loadSems | apply keeps_clearSel | apply keeps_dropStreams | apply keeps_setFld
    | (simp only [↓Keeps.mk_eq])

theorem keeps_dropInst (h : Keeps K s) : Keeps K (State.dropInst s b) := by
  unfold State.dropInst
  repeat' with_reducible first
    | assumption | apply keeps_setFld | apply keeps_clearQuad | apply keeps_setInst | apply keeps_wipe
    | (apply Keeps.foldl; intro _ _ _) | (simp only [↓Keeps.mk_eq]) | (split)

theorem keeps_unloadDone (h : Keeps K s) : Keeps K (State.unloadDone s) := by
  unfold State.unloadDone
  repeat' with_reducible first
    | assumption | apply keeps_setFld | apply keeps_ldTake | apply keeps_dropInst | (simp only [↓Keeps.mk_eq]) | (split)

theorem keeps_clearNbus (h : Keeps K s) : Keeps K (State.clearNbus s b) := by
  unfold State.clearNbus
  repeat' with_reducible first | assumption | (simp only [↓Keeps.mk_eq])

theorem keeps_fryUnread (h : Keeps K s) : KeepsOpt K (State.fryUnread s b c d) := by
  unfold State.fryUnread
  try dsimp only
  repeat' with_reducible first
    | assumption | apply keeps_fryFault | apply keeps_quadFault | (apply KeepsOpt.some) | (apply KeepsOpt.map; intro _)
    | (split) | (intro _) | (dsimp only)

theorem keeps_bundleStep (h : Keeps K s) : Keeps K (State.bundleStep s b c) := by
  unfold State.bundleStep
  try dsimp only
  repeat' with_reducible first
    | assumption | apply keeps_fryFault | apply keeps_quadFault | apply keeps_mapJob | apply keeps_fryUnread
    | (refine Keeps.some (by assumption) ?_) | (split)

theorem keeps_charge (h : Keeps K s) : Keeps K (State.charge s b c d e f) := by
  unfold State.charge
  repeat' with_reducible first | assumption | (simp only [↓Keeps.mk_eq]) | (split)

theorem keeps_chargeEnd (h : Keeps K s) : Keeps K (State.chargeEnd s b c d e f g) := by
  unfold State.chargeEnd
  repeat' with_reducible first | assumption | apply keeps_charge | (split)

theorem keeps_nbuRun (h : Keeps K s) : Keeps K (State.nbuRun s b c d e) := by
  unfold State.nbuRun
  try dsimp only
  repeat' with_reducible first
    | assumption | apply keeps_mapNbu | apply keeps_setNbu | apply keeps_nbuEnds | apply keeps_fed | (split)

theorem keeps_clauseCmd (h : Keeps K s) : Keeps K (State.clauseCmd s b c d) := by
  unfold State.clauseCmd
  repeat' with_reducible first | assumption | apply keeps_nbuRun

theorem keeps_putInst (h : Keeps K s) : KeepsOpt K (State.putInst s b c d e) := by
  unfold State.putInst
  try dsimp only
  repeat' with_reducible first
    | assumption | exact KeepsOpt.none | apply keeps_askWakes | apply keeps_loadSems | apply keeps_showInflight
    | apply keeps_setFld | apply keeps_wr | apply keeps_setEpoch | apply keeps_setInst | apply keeps_setThread
    | (apply Keeps.foldl; intro _ _ _) | (apply KeepsOpt.some) | (split)

theorem keeps_reloadInst (h : Keeps K s) : KeepsOpt K (State.reloadInst s b c d e) := by
  unfold State.reloadInst
  try dsimp only
  repeat' with_reducible first
    | assumption | exact KeepsOpt.none | apply keeps_showInflight | apply keeps_mapInst | apply keeps_writeStart
    | apply keeps_putInst | (apply Keeps.foldl; intro _ _ _) | (refine Keeps.some (by assumption) ?_) | (apply KeepsOpt.some)
    | (split)

theorem keeps_tryQuads (h : Keeps K s) : KeepsOpt K (State.tryQuads s b c d e f) := by
  induction e generalizing f with
  | nil =>
    unfold State.tryQuads
    try dsimp only
    repeat' with_reducible first
      | assumption | exact KeepsOpt.none | apply keeps_reloadInst | (apply Keeps.ite <;> intro _)
      | (apply Keeps.foldl; intro _ _ _) | (refine Keeps.fst (by assumption) ?_) | (apply KeepsOpt.ite <;> intro _)
      | (refine Keeps.some (by assumption) ?_) | (apply KeepsOpt.some) | (apply KeepsOpt.map; intro _) | (apply Keeps.getD)
      | (apply KeepsOpt.findSome; intro _) | (simp only [↓Keeps.mk_eq]) | (split) | (intro _) | (dsimp only)
  | cons x xs ih =>
    unfold State.tryQuads
    try dsimp only
    repeat' with_reducible first
      | assumption | exact KeepsOpt.none | apply ih | apply keeps_reloadInst | (apply Keeps.ite <;> intro _)
      | (apply Keeps.foldl; intro _ _ _) | (refine Keeps.fst (by assumption) ?_) | (apply KeepsOpt.ite <;> intro _)
      | (refine Keeps.some (by assumption) ?_) | (apply KeepsOpt.some) | (apply KeepsOpt.map; intro _) | (apply Keeps.getD)
      | (apply KeepsOpt.findSome; intro _) | (simp only [↓Keeps.mk_eq]) | (split) | (intro _) | (dsimp only)

theorem keeps_rebindInst (h : Keeps K s) : Keeps K (State.rebindInst s b c) := by
  unfold State.rebindInst
  try dsimp only
  repeat' with_reducible first
    | assumption | exact KeepsOpt.none | apply keeps_moveWaiting | apply keeps_tryQuads | apply keeps_finish
    | apply keeps_dropInst | (apply Keeps.foldl; intro _ _ _) | (refine Keeps.some (by assumption) ?_) | (split)

theorem keeps_closeRun (h : Keeps K s) : Keeps K (State.closeRun s b c) := by
  unfold State.closeRun
  try dsimp only
  repeat' with_reducible first | assumption | apply keeps_setStream | (split) | (intro _) | (dsimp only)

theorem keeps_sendPacket (h : Keeps K s) : Keeps K (State.sendPacket s b c d e f).1 := by
  unfold State.sendPacket
  repeat' with_reducible first | assumption | apply keeps_drew | apply keeps_request | (split)

theorem keeps_sendBurst (h : Keeps K s) : Keeps K (State.sendBurst s b c d e).1 := by
  unfold State.sendBurst
  repeat' with_reducible first | assumption | apply keeps_windowWrite | apply keeps_sendPacket | apply keeps_writeEnd | (split)

theorem keeps_mapPc (h : Keeps K s) : Keeps K (State.mapPc s b c d) := by
  unfold State.mapPc
  repeat' with_reducible first | assumption | apply keeps_mapJob

theorem keeps_fryRefuse (h : Keeps K s) : Keeps K (State.fryRefuse s b c d e) := by
  unfold State.fryRefuse
  repeat' with_reducible first
    | assumption | apply keeps_setStream | apply keeps_fryFault | apply keeps_quadFault | apply keeps_mapPc | (split)

theorem keeps_sendOut (h : Keeps K s) : Keeps K (State.sendOut a b c s) := by
  induction c generalizing s with
  | zero =>
    unfold State.sendOut
    try dsimp only
    repeat' with_reducible first
      | assumption | apply keeps_chargeEnd | apply keeps_ackTo | apply keeps_sendBurst | apply keeps_mapPc
      | apply keeps_fryRefuse | (apply Keeps.ite <;> intro _) | (apply Keeps.foldl; intro _ _ _)
      | (refine Keeps.fst (by assumption) ?_) | (simp only [↓Keeps.mk_eq]) | (split) | (intro _) | (dsimp only)
  | succ f ih =>
    unfold State.sendOut
    try dsimp only
    repeat' with_reducible first
      | assumption | apply ih | apply keeps_chargeEnd | apply keeps_ackTo | apply keeps_sendBurst | apply keeps_mapPc
      | apply keeps_fryRefuse | (apply Keeps.ite <;> intro _) | (apply Keeps.foldl; intro _ _ _)
      | (refine Keeps.fst (by assumption) ?_) | (simp only [↓Keeps.mk_eq]) | (split) | (intro _) | (dsimp only)

theorem keeps_dropPc (h : Keeps K s) : Keeps K (State.dropPc s b c) := by
  unfold State.dropPc
  repeat' with_reducible first | assumption | apply keeps_mapJob

theorem keeps_putPc (h : Keeps K s) : Keeps K (State.putPc s b c d) := by
  unfold State.putPc
  try dsimp only
  repeat' with_reducible first | assumption | apply keeps_sendOut | apply keeps_mapPc | apply keeps_dropPc | (split)

theorem keeps_deliver (h : Keeps K s) : Keeps K (State.deliver s b c) := by
  unfold State.deliver
  repeat' with_reducible first | assumption | apply keeps_setStream

theorem keeps_emitRow (h : Keeps K s) : Keeps K (State.emitRow s b c d) := by
  unfold State.emitRow
  try dsimp only
  repeat' with_reducible first
    | assumption | apply keeps_setStream | apply keeps_quadFault | apply keeps_putPc | apply keeps_mapJob | apply keeps_addPc
    | apply keeps_deliver | (split)

theorem keeps_flushBlock (h : Keeps K s) : Keeps K (State.flushBlock s b) := by
  unfold State.flushBlock
  repeat' with_reducible first
    | assumption | apply keeps_mapJob | apply keeps_emitRow | (apply Keeps.foldl; intro _ _ _) | (simp only [↓Keeps.mk_eq])
    | (split)

theorem keeps_closeRuns (h : Keeps K s) : Keeps K (State.closeRuns a b s) := by
  induction b generalizing s with
  | nil =>
    unfold State.closeRuns
    try dsimp only
    repeat' with_reducible first
      | assumption | apply keeps_flushBlock | apply keeps_mapJob | apply keeps_closeRun | (apply Keeps.ite <;> intro _)
      | (apply Keeps.foldl; intro _ _ _) | (refine Keeps.fst (by assumption) ?_) | (simp only [↓Keeps.mk_eq]) | (split)
      | (intro _) | (dsimp only)
  | cons x xs ih =>
    unfold State.closeRuns
    try dsimp only
    repeat' with_reducible first
      | assumption | apply ih | apply keeps_flushBlock | apply keeps_mapJob | apply keeps_closeRun
      | (apply Keeps.ite <;> intro _) | (apply Keeps.foldl; intro _ _ _) | (refine Keeps.fst (by assumption) ?_)
      | (simp only [↓Keeps.mk_eq]) | (split) | (intro _) | (dsimp only)

theorem keeps_convDone (h : Keeps K s) : Keeps K (State.convDone s b) := by
  unfold State.convDone
  try dsimp only
  repeat' with_reducible first
    | assumption | apply keeps_setFld | apply keeps_freeAccs | apply keeps_clearMem | (simp only [↓Keeps.mk_eq]) | (split)
    | (intro _) | (dsimp only)

theorem keeps_deadlineTick (h : Keeps K s) : Keeps K (State.deadlineTick s b) := by
  unfold State.deadlineTick
  repeat' with_reducible first | assumption | (simp only [↓Keeps.mk_eq]) | (split)

theorem keeps_refusedPc (h : Keeps K s) : Keeps K (State.refusedPc s b c d) := by
  unfold State.refusedPc
  try dsimp only
  repeat' with_reducible first | assumption | apply keeps_fryFault | apply keeps_mapPc | (split) | (intro _) | (dsimp only)

theorem keeps_domainRetry (h : Keeps K s) : Keeps K (State.domainRetry s b c d) := by
  unfold State.domainRetry
  repeat' with_reducible first | assumption | apply keeps_sendOut | apply keeps_mapPc | apply keeps_refusedPc | (split)

theorem keeps_dotCmd (h : Keeps K s) : Keeps K (State.dotCmd s b c d) := by
  unfold State.dotCmd
  repeat' with_reducible first | assumption | apply keeps_nbuRun

theorem keeps_meFault (h : Keeps K s) : Keeps K (State.meFault s b c d e) := by
  unfold State.meFault
  repeat' with_reducible first
    | assumption | apply keeps_affect | apply keeps_setFld | apply keeps_dueRetire | apply keeps_raise | apply keeps_abortPart
    | (simp only [↓Keeps.mk_eq]) | (split)

theorem keeps_meErrAt (h : Keeps K s) (h_e : ∀ y0, Keeps K y0 → KeepsOpt K (e y0)) : KeepsOpt K (State.meErrAt s b c d e) := by
  unfold State.meErrAt
  repeat' with_reducible first
    | assumption | apply h_e | apply keeps_meFault | apply keeps_setFld | apply keeps_raise | (apply KeepsOpt.some) | (split)

theorem keeps_putDrained (h : Keeps K s) : Keeps K (State.putDrained s b c) := by
  unfold State.putDrained
  try dsimp only
  repeat' with_reducible first
    | assumption | apply keeps_putStream | apply keeps_wr | apply keeps_later | apply keeps_count | (split) | (intro _)
    | (dsimp only)

theorem keeps_drainRun (h : Keeps K s) : KeepsOpt K (State.drainRun s b c d) := by
  unfold State.drainRun
  try dsimp only
  repeat' with_reducible first
    | assumption | apply keeps_fault | apply keeps_spadRead | apply keeps_putDrained | (apply KeepsOpt.some) | (split)

set_option maxRecDepth 20000 in
theorem keeps_drain (h : Keeps K s) : KeepsOpt K (State.drain s b c) := by
  unfold State.drain
  try dsimp only
  repeat' with_reducible first
    | assumption | apply keeps_fault | apply keeps_meErrAt | apply keeps_drainRun | (apply KeepsOpt.some) | (split) | (intro _)

theorem keeps_drewN (h : Keeps K s) : Keeps K (State.drewN s b) :=
  ⟨h.1, h.2.1, h.2.2.1, h.2.2.2.1, Nat.le_add_right_of_le h.2.2.2.2⟩

theorem keeps_eatMark (h : Keeps K s) : Keeps K (State.eatMark s b c) := by
  unfold State.eatMark
  repeat' with_reducible first | assumption | (refine KeepsIdx.mark (by assumption) ?_; apply keeps_takeIndex) | (split)

theorem keeps_passRow (h : Keeps K s) : Keeps K (State.passRow s b c d e) := by
  unfold State.passRow
  try dsimp only
  repeat' with_reducible first | assumption | apply keeps_flushBlock | apply keeps_mapJob | apply keeps_deliver | (split)

theorem keeps_flow (h : Keeps K s) : Keeps K (State.flow a b s) := by
  induction b generalizing s with
  | zero =>
    unfold State.flow
    try dsimp only
    repeat' with_reducible first
      | assumption | apply keeps_closeRuns | apply keeps_passRow | apply keeps_dropPc | (apply Keeps.ite <;> intro _)
      | (apply Keeps.foldl; intro _ _ _) | (refine Keeps.fst (by assumption) ?_) | (simp only [↓Keeps.mk_eq]) | (split)
      | (intro _) | (dsimp only)
  | succ f ih =>
    unfold State.flow
    try dsimp only
    repeat' with_reducible first
      | assumption | apply ih | apply keeps_closeRuns | apply keeps_passRow | apply keeps_dropPc
      | (apply Keeps.ite <;> intro _) | (apply Keeps.foldl; intro _ _ _) | (refine Keeps.fst (by assumption) ?_)
      | (simp only [↓Keeps.mk_eq]) | (split) | (intro _) | (dsimp only)

theorem keeps_flowAll (h : Keeps K s) : Keeps K (State.flowAll s b) := by
  unfold State.flowAll
  repeat' with_reducible first | assumption | apply keeps_flow | (split)

theorem keeps_endRun (h : Keeps K s) : Keeps K (State.endRun s b) := by
  unfold State.endRun
  repeat' with_reducible first | assumption | apply keeps_mapJob | apply keeps_flowAll | apply keeps_eatMark | (split)

theorem keeps_landPc (h : Keeps K s) : Keeps K (State.landPc s b c d) := by
  unfold State.landPc
  repeat' with_reducible first | assumption | apply keeps_putPc | apply keeps_mapPc | apply keeps_flowAll | (split)

theorem keeps_noteLate (h : Keeps K s) : Keeps K (State.noteLate s b) := by
  unfold State.noteLate
  repeat' with_reducible first
    | assumption | apply keeps_incFld | apply keeps_quadFault | apply keeps_setFld | apply keeps_mapJob | apply keeps_raise
    | apply keeps_aliasWrite | (simp only [↓Keeps.mk_eq]) | (split)

theorem keeps_fallBack (h : Keeps K s) : Keeps K (State.fallBack s b c d) := by
  unfold State.fallBack
  repeat' with_reducible first
    | assumption | apply keeps_setStream | apply keeps_mapPc | apply keeps_landPc | apply keeps_noteLate | (split)

theorem keeps_startPc (h : Keeps K s) : Keeps K (State.startPc s b c d) := by
  unfold State.startPc
  repeat' with_reducible first
    | assumption | apply keeps_sendOut | apply keeps_fallBack | apply keeps_mapPc | apply keeps_landPc | (split)

theorem keeps_newPc (h : Keeps K s) : Keeps K (State.newPc s b c d e f g) := by
  unfold State.newPc
  try dsimp only
  repeat' with_reducible first
    | assumption | apply keeps_incFld | apply keeps_setStream | apply keeps_quadFault | apply keeps_startPc
    | apply keeps_mapJob | apply keeps_addPc | (split)

theorem keeps_entryStep (h : Keeps K s) : Keeps K (State.entryStep s b c) := by
  unfold State.entryStep
  try dsimp only
  repeat' with_reducible first
    | assumption | exact KeepsOpt.none | apply keeps_fryFault | apply keeps_quadFault | apply keeps_mapJob
    | apply keeps_fryUnread | apply keeps_newPc | (refine Keeps.some (by assumption) ?_) | (split)

theorem keeps_takeFb (h : Keeps K s) : Keeps K (State.takeFb s b) := by
  unfold State.takeFb
  try dsimp only
  repeat' with_reducible first | assumption | apply keeps_mapJob | apply keeps_setSem | (split)

theorem keeps_signalFull (h : Keeps K s) : Keeps K (State.signalFull s b c d) := by
  unfold State.signalFull
  try dsimp only
  repeat' with_reducible first
    | assumption | apply keeps_post | apply keeps_addSem | apply keeps_quadFault | apply keeps_drew
    | (simp only [↓Keeps.mk_eq]) | (split) | (intro _) | (dsimp only)

theorem keeps_openRun (h : Keeps K s) : Keeps K (State.openRun s b c) := by
  unfold State.openRun
  try dsimp only
  repeat' with_reducible first | assumption | apply keeps_setStream | (split) | (intro _) | (dsimp only)

theorem keeps_nextRun (h : Keeps K s) : Keeps K (State.nextRun s b) := by
  unfold State.nextRun
  repeat' with_reducible first | assumption | apply keeps_setJob | apply keeps_openRun | (split)

theorem keeps_issueStep (h : Keeps K s) : Keeps K (State.issueStep s b).1 := by
  unfold State.issueStep
  try dsimp only
  repeat' with_reducible first
    | assumption | apply keeps_signalFull | apply keeps_setStream | apply keeps_fryFault | apply keeps_quadFault
    | apply keeps_windowWrite | apply keeps_mapJob | apply keeps_setSem | apply keeps_nextRun | apply keeps_bundleStep
    | apply keeps_endRun | apply keeps_setJob | apply keeps_newPc | apply keeps_entryStep | (apply Keeps.ite <;> intro _)
    | (apply Keeps.iteP <;> intro _) | (apply Keeps.foldl; intro _ _ _) | (refine Keeps.fst (by assumption) ?_)
    | (refine KeepsIdx.got (by assumption) ?_; apply keeps_takeIndex)
    | (refine KeepsIdx.mark (by assumption) ?_; apply keeps_takeIndex) | (simp only [↓Keeps.mk_eq]) | (split) | (intro _)
    | (dsimp only)

theorem keeps_turnSteps (h : Keeps K s) : Keeps K (State.turnSteps a b s).1 := by
  induction b generalizing s with
  | zero =>
    unfold State.turnSteps
    try dsimp only
    repeat' with_reducible first
      | assumption | apply keeps_issueStep | apply keeps_fryWait | (apply Keeps.ite <;> intro _)
      | (apply Keeps.iteP <;> intro _) | (apply Keeps.foldl; intro _ _ _) | (refine Keeps.fst (by assumption) ?_)
      | (simp only [↓Keeps.mk_eq]) | (split) | (intro _) | (dsimp only)
  | succ f ih =>
    unfold State.turnSteps
    try dsimp only
    repeat' with_reducible first
      | assumption | apply ih | apply keeps_issueStep | apply keeps_fryWait | (apply Keeps.ite <;> intro _)
      | (apply Keeps.iteP <;> intro _) | (apply Keeps.foldl; intro _ _ _) | (refine Keeps.fst (by assumption) ?_)
      | (simp only [↓Keeps.mk_eq]) | (split) | (intro _) | (dsimp only)

theorem keeps_settle (h : Keeps K s) : Keeps K (State.settle s b) := by
  unfold State.settle
  try dsimp only
  repeat' with_reducible first
    | assumption | apply keeps_mapThread | apply keeps_setJob | apply keeps_fryWait | apply keeps_streamDone | (split)

theorem keeps_retryBursts (h : Keeps K s) : Keeps K (State.retryBursts s b) := by
  unfold State.retryBursts
  repeat' with_reducible first | assumption | apply keeps_sendOut | (apply Keeps.foldl; intro _ _ _) | (split)

theorem keeps_streamTurn (h : Keeps K s) : Keeps K (State.streamTurn s b).1 := by
  unfold State.streamTurn
  repeat' with_reducible first
    | assumption | apply keeps_turnSteps | apply keeps_settle | apply keeps_takeFb | apply keeps_retryBursts
    | apply keeps_flowAll | (simp only [↓Keeps.mk_eq]) | (split)

theorem keeps_pump (h : Keeps K s) : Keeps K (State.pump a b s) := by
  induction b generalizing s with
  | zero =>
    unfold State.pump
    try dsimp only
    repeat' with_reducible first
      | assumption | apply keeps_streamTurn | (apply Keeps.ite <;> intro _) | (apply Keeps.foldl; intro _ _ _)
      | (apply Keeps.foldlP; intro _ _ _) | (refine Keeps.fst (by assumption) ?_) | (simp only [↓Keeps.mk_eq]) | (split)
      | (intro _) | (dsimp only)
  | succ f ih =>
    unfold State.pump
    try dsimp only
    repeat' with_reducible first
      | assumption | apply ih | apply keeps_streamTurn | (apply Keeps.ite <;> intro _) | (apply Keeps.foldl; intro _ _ _)
      | (apply Keeps.foldlP; intro _ _ _) | (refine Keeps.fst (by assumption) ?_) | (simp only [↓Keeps.mk_eq]) | (split)
      | (intro _) | (dsimp only)

theorem keeps_pumped (h : Keeps K s) : Keeps K (State.pumped s b) := by
  unfold State.pumped
  try dsimp only
  repeat' with_reducible first | assumption | apply keeps_pump | (split) | (intro _) | (dsimp only)

theorem keeps_fallbackPoint (h : Keeps K s) : Keeps K (State.fallbackPoint s b) := by
  unfold State.fallbackPoint
  try dsimp only
  repeat' with_reducible first
    | assumption | apply keeps_takeFb | apply keeps_fallBack | apply keeps_pumped | (apply Keeps.foldl; intro _ _ _) | (split)

theorem keeps_fstr (h : Keeps K s) : KeepsOpt K (State.fstr s b) := by
  unfold State.fstr
  try dsimp only
  repeat' with_reducible first
    | assumption | apply keeps_fault | apply keeps_fryFault | apply keeps_join | apply keeps_drew | apply keeps_spadRead
    | apply keeps_setJob | apply keeps_openRun | apply keeps_pumped | (apply KeepsOpt.some) | (split)

theorem keeps_granuleFull (h : Keeps K s) : Keeps K (State.granuleFull s b) := by
  unfold State.granuleFull
  try dsimp only
  repeat' with_reducible first | assumption | apply keeps_signalFull | apply keeps_mapJob | apply keeps_pumped | (split)

theorem keeps_writeStream (h : Keeps K s) : Keeps K (State.writeStream s b c d) := by
  unfold State.writeStream
  try dsimp only
  repeat' with_reducible first
    | assumption | apply keeps_incFld | apply keeps_mapThread | apply keeps_spadWrite | apply keeps_quadFault
    | apply keeps_drewN | apply keeps_showBound | apply keeps_setXu | (split) | (intro _) | (dsimp only)

theorem keeps_nbuIssue (h : Keeps K s) : Keeps K (State.nbuIssue s b c d e f).1 := by
  unfold State.nbuIssue
  repeat' with_reducible first | assumption | apply keeps_fed | apply keeps_nbuSend

theorem keeps_sendBound (h : Keeps K s) : Keeps K (State.sendBound s b c d) := by
  unfold State.sendBound
  repeat' with_reducible first
    | assumption | apply keeps_nbuIssue | apply keeps_setSlot | (apply Keeps.foldl; intro _ _ _) | (simp only [↓Keeps.mk_eq])
    | (split)

theorem keeps_hitArrival (h : Keeps K s) : Keeps K (State.hitArrival s b) := by
  unfold State.hitArrival
  try dsimp only
  repeat' with_reducible first
    | assumption | apply keeps_incFld | apply keeps_spadWrite | apply keeps_writeStream | apply keeps_quadFault
    | apply keeps_drew | apply keeps_raise | apply keeps_sendBound | apply keeps_showBound | apply keeps_setXu | (split)

theorem keeps_hitTo (h : Keeps K s) : Keeps K (State.hitTo s b c) := by
  unfold State.hitTo
  repeat' with_reducible first | assumption | apply keeps_setXu

theorem keeps_lateArrival (h : Keeps K s) : Keeps K (State.lateArrival s b c) := by
  unfold State.lateArrival
  repeat' with_reducible first | assumption | apply keeps_setStream | apply keeps_pumped

theorem keeps_loadPlan (h : Keeps K s) (e : State.loadPlan s b = .ok (t, i)) : Keeps K t := by
  unfold State.loadPlan at e
  dsimp only at e
  repeat' split at e
  all_goals first | cases e | skip
  exact Keeps.some (by assumption) (keeps_putInst (keeps_drew h))
theorem keeps_loadDone (h : Keeps K s) : Keeps K (State.loadDone s) := by
  unfold State.loadDone
  split
  · exact h
  · apply keeps_ldTake
    have h1 : Keeps K (s.setFld .schLdstat SCH_LDSTAT_BUSY 0) := keeps_setFld h
    split
    · rename_i e
      exact keeps_setFld (keeps_setFld (keeps_setFld (keeps_loadPlan (by simp only [↓Keeps.mk_eq]; exact h1) e)))
    · apply keeps_setFld
      apply keeps_setFld
      simp only [↓Keeps.mk_eq]
      exact h1

theorem keeps_loadq (h : Keeps K s) : Keeps K (State.loadq s b c) := by
  unfold State.loadq
  repeat' with_reducible first | assumption | apply keeps_nbuRun

theorem keeps_markSpilled (h : Keeps K s) : Keeps K (State.markSpilled s b) := by
  unfold State.markSpilled
  repeat' with_reducible first | assumption | (simp only [↓Keeps.mk_eq])

theorem keeps_maskt (h : Keeps K s) : Keeps K (State.maskt s b c) := by
  unfold State.maskt
  repeat' with_reducible first | assumption | apply keeps_nbuRun

theorem keeps_meterWindow (h : Keeps K s) : Keeps K (State.meterWindow s b c d) := by
  unfold State.meterWindow
  try dsimp only
  repeat' with_reducible first
    | assumption | apply keeps_incFld | apply keeps_setFld | apply keeps_raise | (apply Keeps.foldl; intro _ _ _)
    | (simp only [↓Keeps.mk_eq]) | (split) | (intro _) | (dsimp only)

theorem keeps_setAccs (h : Keeps K s) : Keeps K (State.setAccs s b) := by
  unfold State.setAccs
  repeat' with_reducible first | assumption | (simp only [↓Keeps.mk_eq])

theorem keeps_unspill (h : Keeps K s) : Keeps K (State.unspill s b) := by
  unfold State.unspill
  repeat' with_reducible first | assumption | (simp only [↓Keeps.mk_eq])

theorem keeps_recordFmt (h : Keeps K s) : Keeps K (State.recordFmt s b c) := by
  unfold State.recordFmt
  repeat' with_reducible first | assumption | (simp only [↓Keeps.mk_eq])

theorem keeps_mma (h : Keeps K s) : KeepsOpt K (State.mma s b c) := by
  unfold State.mma
  try dsimp only
  repeat' with_reducible first
    | assumption | exact KeepsOpt.none | apply keeps_fault | apply keeps_wholeRuns | apply keeps_setAccs | apply keeps_meErrAt
    | apply keeps_later | apply keeps_unspill | apply keeps_consume | apply keeps_count | apply keeps_recordFmt
    | (apply Keeps.ite <;> intro _) | (apply Keeps.foldl; intro _ _ _) | (refine Keeps.fst (by assumption) ?_)
    | (apply KeepsOpt.ite <;> intro _) | (refine Keeps.some (by assumption) ?_) | (apply KeepsOpt.some)
    | (apply KeepsOpt.map; intro _) | (apply Keeps.getD) | (simp only [↓Keeps.mk_eq]) | (split) | (intro _) | (dsimp only)

theorem keeps_mmaxStep (h : Keeps K s) : Keeps K (State.mmaxStep s b c d e f g i j k l).1 := by
  unfold State.mmaxStep
  try dsimp only
  repeat' with_reducible first
    | assumption | apply keeps_setAccs | apply keeps_unspill | apply keeps_recordFmt | (split) | (intro _) | (dsimp only)

theorem keeps_mmaxSteps (h : Keeps K s) : Keeps K (State.mmaxSteps a b c d e f g i j s l m) := by
  induction j generalizing s l m with
  | zero => exact keeps_wholeRuns h fun _ h => keeps_later h
  | succ r ih =>
    unfold State.mmaxSteps
    refine Keeps.getD (keeps_consume h fun t y ht => ?_) (keeps_stay h)
    refine Keeps.getD (keeps_meErrAt (keeps_count ht) fun u hu => KeepsOpt.some ?_) (keeps_count ht)
    exact Keeps.ite (fun _ => ih (keeps_mmaxStep hu)) (fun _ => keeps_fault (keeps_mmaxStep hu))

theorem keeps_mmax (h : Keeps K s) : KeepsOpt K (State.mmax s b c) := by
  unfold State.mmax
  try dsimp only
  repeat' with_reducible first
    | assumption | apply keeps_fault | apply keeps_consume | apply keeps_count | apply keeps_mmaxSteps | (apply KeepsOpt.some)
    | (split) | (intro _)

theorem keeps_nbcmdOne (h : Keeps K s) : KeepsPair K (State.nbcmdOne s b c d e f) := by
  unfold State.nbcmdOne
  try dsimp only
  repeat' with_reducible first
    | assumption | apply keeps_nbuIssue | exact KeepsPair.none | apply KeepsPair.some | (split) | (intro _) | (dsimp only)

theorem keeps_takeEntries (h : Keeps K s) : Keeps K (State.takeEntries s b c d e f).1 := by
  induction e generalizing s f with
  | zero =>
    unfold State.takeEntries
    try dsimp only
    repeat' with_reducible first
      | assumption | (apply Keeps.ite <;> intro _) | (apply Keeps.iteP <;> intro _) | (apply Keeps.foldl; intro _ _ _)
      | (refine Keeps.fst (by assumption) ?_) | (refine KeepsIdx.got (by assumption) ?_; apply keeps_takeIndex)
      | (refine KeepsIdx.mark (by assumption) ?_; apply keeps_takeIndex) | (simp only [↓Keeps.mk_eq]) | (split) | (intro _)
      | (dsimp only)
  | succ f ih =>
    unfold State.takeEntries
    try dsimp only
    repeat' with_reducible first
      | assumption | apply ih | (apply Keeps.ite <;> intro _) | (apply Keeps.iteP <;> intro _)
      | (apply Keeps.foldl; intro _ _ _) | (refine Keeps.fst (by assumption) ?_)
      | (refine KeepsIdx.got (by assumption) ?_; apply keeps_takeIndex)
      | (refine KeepsIdx.mark (by assumption) ?_; apply keeps_takeIndex) | (simp only [↓Keeps.mk_eq]) | (split) | (intro _)
      | (dsimp only)

theorem keeps_nbcmd (h : Keeps K s) : KeepsOpt K (State.nbcmd s b) := by
  unfold State.nbcmd
  try dsimp only
  repeat' with_reducible first
    | assumption | apply keeps_fault | apply keeps_nbcmdOne | apply keeps_fryFault | apply keeps_takeEntries
    | apply keeps_spadRead | apply keeps_awaitTokens | apply keeps_stay | (apply KeepsOpt.some)
    | (refine Keeps.someP (by assumption) ?_) | apply KeepsPair.some | (apply KeepsPair.foldl; intro _ _ _)
    | (apply KeepsPair.bind <;> intros) | (split)

theorem keeps_nblistBank (h : Keeps K s) : Keeps K (State.nblistBank s b c d e f g i).1 := by
  unfold State.nblistBank
  repeat' with_reducible first | assumption | apply keeps_fed | apply keeps_setScans | (simp only [↓Keeps.mk_eq])

theorem keeps_nblistOne (h : Keeps K s) : KeepsPair K (State.nblistOne s b c d e f g i) := by
  unfold State.nblistOne
  try dsimp only
  repeat' with_reducible first
    | assumption | apply keeps_putStream | apply keeps_nblistBank | exact KeepsPair.none | apply KeepsPair.some | (split)
    | (intro _) | (dsimp only)

theorem keeps_nblist (h : Keeps K s) : KeepsOpt K (State.nblist s b) := by
  have h1 : Keeps K (s.spadRead b.q (128 * b.f 6 19) 128).1 := keeps_spadRead h
  unfold State.nblist
  revert h1
  generalize s.spadRead b.q (128 * b.f 6 19) 128 = r
  intro h1
  cases hr : r.2 with
  | none =>
    dsimp only
    rw [hr]
    exact keeps_fault h1
  | some x =>
    dsimp only
    rw [hr]
    have hy := keeps_takeEntries (b := portOf b.q (b.f 0 6)) (c := 4) (d := 0) (e := 65537) (f := []) h1
    revert hy
    generalize State.takeEntries r.1 (portOf b.q (b.f 0 6)) 4 0 65537 [] = y
    intro hy
    refine KeepsOpt.ite (fun _ => keeps_fault h1) fun _ => KeepsOpt.ite (fun _ => keeps_fault h1) fun _ => ?_
    split
    · exact keeps_fault hy
    · rename_i e _
      exact keeps_stay (Keeps.someP e (KeepsPair.foldl (fun _ _ hr => KeepsPair.bind hr fun _ hr => keeps_nblistOne hr)
          (KeepsPair.some hy)))
    · rename_i e _
      exact keeps_awaitTokens (keeps_setStream (Keeps.someP e (KeepsPair.foldl (fun _ _ hr => KeepsPair.bind hr fun _ hr =>
          keeps_nblistOne hr) (KeepsPair.some hy))))

theorem keeps_nbuAbort (h : Keeps K s) : Keeps K (State.nbuAbort s b) := by
  unfold State.nbuAbort
  try dsimp only
  repeat' with_reducible first
    | assumption | apply keeps_setHubCmds | apply keeps_mapNbu | apply keeps_nbuEnds | apply keeps_nbuDiscard
    | apply keeps_fed | (split)

theorem keeps_piecePart (h : Keeps K s) : Keeps K (State.piecePart s b c d e) := by
  unfold State.piecePart
  try dsimp only
  repeat' with_reducible first
    | assumption | apply keeps_chargeEnd | apply keeps_setStream | apply keeps_mapPc | apply keeps_landPc | apply keeps_pumped
    | (split)

theorem keeps_serveOne (h : Keeps K s) : Keeps K (State.serveOne s b c) := by
  unfold State.serveOne
  try dsimp only
  repeat' with_reducible first
    | assumption | apply keeps_chargeEnd | apply keeps_mapPc | (simp only [↓Keeps.mk_eq]) | (split) | (intro _) | (dsimp only)

theorem keeps_serveTo (h : Keeps K s) : Keeps K (State.serveTo a b c d s) := by
  induction d generalizing s with
  | zero =>
    unfold State.serveTo
    try dsimp only
    repeat' with_reducible first
      | assumption | apply keeps_serveOne | (apply Keeps.ite <;> intro _) | (apply Keeps.foldl; intro _ _ _)
      | (refine Keeps.fst (by assumption) ?_) | (simp only [↓Keeps.mk_eq]) | (split) | (intro _) | (dsimp only)
  | succ f ih =>
    unfold State.serveTo
    try dsimp only
    repeat' with_reducible first
      | assumption | apply ih | apply keeps_serveOne | (apply Keeps.ite <;> intro _) | (apply Keeps.foldl; intro _ _ _)
      | (refine Keeps.fst (by assumption) ?_) | (simp only [↓Keeps.mk_eq]) | (split) | (intro _) | (dsimp only)

theorem keeps_readPc (h : Keeps K s) : Keeps K (State.readPc s b c d).1 := by
  unfold State.readPc
  repeat' with_reducible first | assumption | apply keeps_readEnd | (apply Keeps.foldlP; intro _ _ _) | (split)

theorem keeps_pieceResponse (h : Keeps K s) : Keeps K (State.pieceResponse s b c d) := by
  unfold State.pieceResponse
  try dsimp only
  repeat' with_reducible first
    | assumption | apply keeps_fryFault | apply keeps_serveTo | apply keeps_mapPc | apply keeps_landPc | apply keeps_fryRefuse
    | apply keeps_readPc | apply keeps_pumped | (split)

theorem keeps_tokenBack (h : Keeps K s) : Keeps K (State.tokenBack s b c) := by
  unfold State.tokenBack
  repeat' with_reducible first | assumption | apply keeps_mapThread | (apply Keeps.foldl; intro _ _ _)

theorem keeps_pollRead (h : Keeps K s) : Keeps K (State.pollRead s b) := by
  unfold State.pollRead
  repeat' with_reducible first | assumption | apply keeps_setNbu | apply keeps_hitTo | (apply Keeps.foldl; intro _ _ _)

theorem keeps_poll (h : Keeps K s) : Keeps K (State.poll s b) := by
  unfold State.poll
  repeat' with_reducible first
    | assumption | apply keeps_setNbu | apply keeps_tokenBack | apply keeps_pollRead | (apply Keeps.foldl; intro _ _ _)

theorem keeps_reload (h : Keeps K s) : KeepsOpt K (State.reload s b) := by
  unfold State.reload
  try dsimp only
  repeat' with_reducible first
    | assumption | apply keeps_fault | apply keeps_setAccs | apply keeps_spadRead | apply keeps_later | apply keeps_recordFmt
    | (apply KeepsOpt.some) | (split)

theorem keeps_runSelect (h : Keeps K s) : Keeps K (State.runSelect s b c d).1 := by
  unfold State.runSelect
  repeat' with_reducible first
    | assumption | apply keeps_incFld | apply keeps_spadWrite | apply keeps_drew | apply keeps_raise
    | (apply Keeps.ite <;> intro _) | (split)

theorem keeps_screen (h : Keeps K s) : Keeps K (State.screen s b c d) := by
  unfold State.screen
  repeat' with_reducible first | assumption | apply keeps_nbuRun

theorem keeps_startStream (h : Keeps K s) : Keeps K (State.startStream s b c) := by
  unfold State.startStream
  try dsimp only
  repeat' with_reducible first
    | assumption | apply keeps_fault | apply keeps_join | apply keeps_showBound | apply keeps_setXu | (split) | (intro _)
    | (dsimp only)

theorem keeps_select (h : Keeps K s) : KeepsOpt K (State.select s b) := by
  unfold State.select
  try dsimp only
  repeat' with_reducible first
    | assumption | apply keeps_incFld | apply keeps_fault | apply keeps_spadWrite | apply keeps_spadRead | apply keeps_later
    | apply keeps_startStream | apply keeps_runSelect | (apply KeepsOpt.some) | (split)

theorem keeps_selfTest (h : Keeps K s) : Keeps K (State.selfTest s b c) := by
  unfold State.selfTest
  try dsimp only
  repeat' with_reducible first | assumption | apply keeps_setFld | apply keeps_raise | (split) | (intro _) | (dsimp only)

theorem keeps_setAcc (h : Keeps K s) : Keeps K (State.setAcc s b c) := by
  unfold State.setAcc
  repeat' with_reducible first | assumption | (simp only [↓Keeps.mk_eq])

theorem keeps_setTide (h : Keeps K s) : Keeps K (State.setTide s b c) := by
  unfold State.setTide
  repeat' with_reducible first | assumption | (simp only [↓Keeps.mk_eq])

theorem keeps_setVmask (h : Keeps K s) : Keeps K (State.setVmask s b c d e) := by
  unfold State.setVmask
  repeat' with_reducible first | assumption | (simp only [↓Keeps.mk_eq])

theorem keeps_setVreg (h : Keeps K s) : Keeps K (State.setVreg s b c d e) := by
  unfold State.setVreg
  repeat' with_reducible first | assumption | (simp only [↓Keeps.mk_eq])

theorem keeps_setthr (h : Keeps K s) : Keeps K (State.setthr s b) := by
  unfold State.setthr
  try dsimp only
  repeat' with_reducible first | assumption | apply keeps_setHubCmds | apply keeps_mapNbu | apply keeps_nbuEnds | (split)

theorem keeps_slq (h : Keeps K s) : Keeps K (State.slq s b) := by
  unfold State.slq
  try dsimp only
  repeat' with_reducible first
    | assumption | apply keeps_fault | apply keeps_setSlot | apply keeps_spadRead | apply keeps_later | (split)

theorem keeps_spill (h : Keeps K s) : KeepsOpt K (State.spill s b c) := by
  unfold State.spill
  try dsimp only
  repeat' with_reducible first
    | assumption | apply keeps_fault | apply keeps_spadWrite | apply keeps_markSpilled | apply keeps_meErrAt
    | apply keeps_later | (apply KeepsOpt.some) | (intro _) | (split) | (dsimp only)

theorem keeps_srctx (h : Keeps K s) : Keeps K (State.srctx s b) := by
  unfold State.srctx
  try dsimp only
  repeat' with_reducible first | assumption | apply keeps_setFld | (split) | (intro _) | (dsimp only)

theorem keeps_takeBundles (h : Keeps K s) : Keeps K (State.takeBundles s b c d).1 := by
  induction c generalizing s d with
  | zero =>
    unfold State.takeBundles
    try dsimp only
    repeat' with_reducible first
      | assumption | apply keeps_setStream | (apply Keeps.ite <;> intro _) | (apply Keeps.iteP <;> intro _)
      | (apply Keeps.foldl; intro _ _ _) | (refine Keeps.fst (by assumption) ?_) | (simp only [↓Keeps.mk_eq]) | (split)
      | (intro _) | (dsimp only)
  | succ f ih =>
    unfold State.takeBundles
    try dsimp only
    repeat' with_reducible first
      | assumption | apply ih | apply keeps_setStream | (apply Keeps.ite <;> intro _) | (apply Keeps.iteP <;> intro _)
      | (apply Keeps.foldl; intro _ _ _) | (refine Keeps.fst (by assumption) ?_) | (simp only [↓Keeps.mk_eq]) | (split)
      | (intro _) | (dsimp only)

theorem keeps_sscr (h : Keeps K s) : KeepsOpt K (State.sscr s b) := by
  unfold State.sscr
  try dsimp only
  repeat' with_reducible first
    | assumption | apply keeps_fault | apply keeps_fryFault | apply keeps_hitTo | apply keeps_takeBundles | apply keeps_later
    | apply keeps_stay | (apply Keeps.foldl; intro _ _ _) | (apply KeepsOpt.some) | (split)

theorem keeps_stackTemp (h : Keeps K s) : Keeps K (State.stackTemp s b c) := by
  unfold State.stackTemp
  try dsimp only
  repeat' with_reducible first
    | assumption | apply keeps_countThrot | apply keeps_setFld | apply keeps_fed | (apply Keeps.ite <;> intro _)
    | (apply Keeps.foldl; intro _ _ _) | (refine Keeps.fst (by assumption) ?_) | (simp only [↓Keeps.mk_eq]) | (split)
    | (intro _) | (dsimp only)

theorem keeps_startRecord (h : Keeps K s) : Keeps K (State.startRecord s b) := by
  unfold State.startRecord
  repeat' with_reducible first
    | assumption | apply keeps_setInst | apply keeps_writeStart | (simp only [↓Keeps.mk_eq]) | (split)

theorem keeps_streamEnd (h : Keeps K s) : Keeps K (State.streamEnd s b) := by
  unfold State.streamEnd
  repeat' with_reducible first | assumption | apply keeps_incFld | apply keeps_writeStream | apply keeps_setSem | (split)

theorem keeps_wipeEngine (h : Keeps K s) : Keeps K (State.wipeEngine s b) := by
  unfold State.wipeEngine
  repeat' with_reducible first | assumption | (simp only [↓Keeps.mk_eq])

theorem keeps_substitute (h : Keeps K s) : Keeps K (State.substitute s b) := by
  unfold State.substitute
  repeat' with_reducible first
    | assumption | apply keeps_setFld | apply keeps_dueRetire | apply keeps_raise | apply keeps_wipeEngine
    | (simp only [↓Keeps.mk_eq]) | (split)

theorem keeps_tideRow (h : Keeps K s) : Keeps K (State.tideRow s b c) := by
  unfold State.tideRow
  try dsimp only
  repeat' with_reducible first
    | assumption | apply keeps_incFld | apply keeps_wr | apply keeps_raise | apply keeps_setTide | (split)

theorem keeps_tidePass (h : Keeps K s) : Keeps K (State.tidePass s b c) := by
  unfold State.tidePass
  try dsimp only
  repeat' with_reducible first
    | assumption | apply keeps_incFld | apply keeps_tideRow | apply keeps_setFld | (apply Keeps.foldl; intro _ _ _)
    | (simp only [↓Keeps.mk_eq]) | (split) | (intro _) | (dsimp only)

theorem keeps_toVd (h : Keeps K s) : Keeps K (State.toVd s b c) := by
  unfold State.toVd
  repeat' with_reducible first | assumption | apply keeps_setVreg | apply keeps_later

theorem keeps_vcvt (h : Keeps K s) : Keeps K (State.vcvt s b) := by
  unfold State.vcvt
  repeat' with_reducible first
    | assumption | apply keeps_fault | apply keeps_setVreg | apply keeps_later | apply keeps_count | (split)

theorem keeps_vec (h : Keeps K s) (h_i : ∀ y0 y1, Keeps K y0 → KeepsOpt K (i y0 y1)) : Keeps K (State.vec s b c d e f g i) := by
  unfold State.vec
  try dsimp only
  repeat' with_reducible first
    | assumption | apply h_i | apply keeps_fault | apply keeps_issue | (apply KeepsOpt.some) | (intro _) | (split)
    | (dsimp only)

theorem keeps_vec1 (h : Keeps K s) : Keeps K (State.vec1 s b c d e f g i) := by
  unfold State.vec1
  repeat' with_reducible first | assumption | apply keeps_toVd | apply keeps_vec | (apply KeepsOpt.some) | (intro _)

theorem keeps_vec2 (h : Keeps K s) : Keeps K (State.vec2 s b c d e f g i) := by
  unfold State.vec2
  repeat' with_reducible first | assumption | apply keeps_toVd | apply keeps_vec | (apply KeepsOpt.some) | (intro _)

theorem keeps_vred (h : Keeps K s) : Keeps K (State.vred s b) := by
  unfold State.vred
  try dsimp only
  repeat' with_reducible first | assumption | apply keeps_setVreg | apply keeps_drew | apply keeps_later | (split)

theorem keeps_xfer (h : Keeps K s) : KeepsOpt K (State.xfer s b c) := by
  unfold State.xfer
  try dsimp only
  repeat' with_reducible first
    | assumption | apply keeps_fault | apply keeps_meErrAt | apply keeps_later | (apply KeepsOpt.some)
    | (simp only [↓Keeps.mk_eq]) | (intro _) | (split) | (dsimp only)

end Sys2Proof.Laws
end

