-- ==== Sys2Proof/Laws/KeepsFabric.lean ====
section
/-! SUPPORT. The operations of the fabric, partitions and collections keep what `Keeps` says. -/

namespace Sys2Proof.Laws

set_option autoImplicit true
set_option linter.unusedTactic false
set_option linter.unreachableTactic false

open Sys2Proof.Machine

theorem keeps_clearDups (h : Keeps K s) : Keeps K (State.clearDups s) := by
  unfold State.clearDups
  try dsimp only
  repeat' with_reducible first
    | assumption | apply keeps_setPort | (apply Keeps.foldl; intro _ _ _) | (split) | (intro _) | (dsimp only)

theorem keeps_resend (h : Keeps K s) : Keeps K (State.resend s b) := by
  unfold State.resend
  try dsimp only
  repeat' with_reducible first
    | assumption | apply keeps_sendMsg | (apply Keeps.foldl; intro _ _ _) | (split) | (intro _) | (dsimp only)

theorem keeps_loseSync (h : Keeps K s) : Keeps K (State.loseSync s) := by
  unfold State.loseSync
  try dsimp only
  repeat' with_reducible first
    | assumption | apply keeps_setFld | apply keeps_raise | (simp only [↓Keeps.mk_eq]) | (split) | (intro _) | (dsimp only)

theorem keeps_portStop (h : Keeps K s) : Keeps K (State.portStop s b c d) := by
  unfold State.portStop
  try dsimp only
  repeat' with_reducible first
    | assumption | apply keeps_setPort | apply keeps_clearDups | apply keeps_resend | apply keeps_setFld
    | apply keeps_loseSync | (split) | (intro _) | (dsimp only)

theorem keeps_portEvent (h : Keeps K s) : Keeps K (State.portEvent s b c) := by
  unfold State.portEvent
  repeat' with_reducible first | assumption | apply keeps_raise

theorem keeps_portFall (h : Keeps K s) : Keeps K (State.portFall s b c d) := by
  unfold State.portFall
  try dsimp only
  repeat' with_reducible first
    | assumption | apply keeps_setFld | apply keeps_portStop | apply keeps_portEvent | (split) | (intro _) | (dsimp only)

theorem keeps_drained (h : Keeps K s) : Keeps K (State.drained s b) := by
  unfold State.drained
  try dsimp only
  repeat' with_reducible first | assumption | apply keeps_portFall | (split) | (intro _) | (dsimp only)

theorem keeps_wrAbPort (h : Keeps K s) : Keeps K (State.wrAbPort s b c d) := by
  unfold State.wrAbPort
  try dsimp only
  repeat' with_reducible first
    | assumption | apply keeps_setPort | apply keeps_setFld | apply keeps_plainWrite | apply keeps_drained | (split)
    | (intro _) | (dsimp only)

theorem keeps_wrAbGroup (h : Keeps K s) : Keeps K (State.wrAbGroup s b c d) := by
  unfold State.wrAbGroup
  try dsimp only
  repeat' with_reducible first
    | assumption | apply keeps_setReg | apply keeps_plainWrite | apply keeps_raise | apply keeps_setGst | (split) | (intro _)
    | (dsimp only)

theorem keeps_wrAbCtl (h : Keeps K s) : Keeps K (State.wrAbCtl s b c) := by
  unfold State.wrAbCtl
  try dsimp only
  repeat' with_reducible first | assumption | apply keeps_setFld | apply keeps_plainWrite | (split) | (intro _) | (dsimp only)

theorem keeps_abWrite (h : Keeps K s) : Keeps K (State.abWrite s b c d) := by
  unfold State.abWrite
  repeat' with_reducible first
    | assumption | apply keeps_wrAbPort | apply keeps_plainWrite | apply keeps_wrAbGroup | apply keeps_wrAbCtl | (split)

theorem keeps_setColl (h : Keeps K s) : Keeps K (State.setColl s b c) := by
  unfold State.setColl
  repeat' with_reducible first | assumption | (simp only [↓Keeps.mk_eq])

theorem keeps_mapColl (h : Keeps K s) : Keeps K (State.mapColl s b c) := by
  unfold State.mapColl
  repeat' with_reducible first | assumption | apply keeps_setColl | (split)

theorem keeps_dropSeg (h : Keeps K s) : Keeps K (State.dropSeg s b) := by
  unfold State.dropSeg
  repeat' with_reducible first
    | assumption | apply keeps_dropObj | apply keeps_wipe | (apply Keeps.foldl; intro _ _ _) | (split)

theorem keeps_freeGen (h : Keeps K s) : Keeps K (State.freeGen s b c d) := by
  unfold State.freeGen
  repeat' with_reducible first | assumption | apply keeps_freeAll | apply keeps_dropSeg | (apply Keeps.foldl; intro _ _ _)

theorem keeps_dropBuild (h : Keeps K s) : Keeps K (State.dropBuild s b) := by
  unfold State.dropBuild
  repeat' with_reducible first | assumption | apply keeps_mapColl | apply keeps_freeGen | (split)

theorem keeps_endBuild (h : Keeps K s) : Keeps K (State.endBuild s b) := by
  unfold State.endBuild
  repeat' with_reducible first | assumption | apply keeps_finish | apply keeps_dropBuild | (split)

theorem keeps_clearStaged (h : Keeps K s) : Keeps K (State.clearStaged s b) := by
  unfold State.clearStaged
  repeat' with_reducible first | assumption | apply keeps_mapColl | apply keeps_freeGen | (split)

theorem keeps_cancelSwitch (h : Keeps K s) : Keeps K (State.cancelSwitch s b) := by
  unfold State.cancelSwitch
  repeat' with_reducible first | assumption | apply keeps_mapColl | apply keeps_finish | (split)

theorem keeps_abandon (h : Keeps K s) : Keeps K (State.abandon s b) := by
  unfold State.abandon
  repeat' with_reducible first
    | assumption | apply keeps_endBuild | apply keeps_refuse | apply keeps_finish | apply keeps_clearStaged
    | apply keeps_cancelSwitch | (split)

theorem keeps_credBack (h : Keeps K s) : Keeps K (State.credBack s b c) := by
  unfold State.credBack
  repeat' with_reducible first | assumption | apply keeps_emit

theorem keeps_unland (h : Keeps K s) : Keeps K (State.unland s b c d) := by
  unfold State.unland
  repeat' with_reducible first | assumption | apply keeps_credBack | apply keeps_drained | (simp only [↓Keeps.mk_eq])

theorem keeps_onMgt (h : Keeps K s) (h_d : ∀ y0 y1 y2, Keeps K y0 → Keeps K (d y0 y1 y2)) : Keeps K (State.onMgt s b c d) := by
  unfold State.onMgt
  repeat' with_reducible first | assumption | apply h_d | apply keeps_unland | (split)

theorem keeps_abortInst (h : Keeps K s) : Keeps K (State.abortInst s b) := by
  unfold State.abortInst
  repeat' with_reducible first
    | assumption | apply keeps_startAbort | apply keeps_onMgt | apply keeps_sendAborts | (simp only [↓Keeps.mk_eq]) | (split)
    | (intro _)

theorem keeps_setCpart (h : Keeps K s) : Keeps K (State.setCpart s b c) := by
  unfold State.setCpart
  repeat' with_reducible first | assumption | (simp only [↓Keeps.mk_eq])

theorem keeps_tidy (h : Keeps K s) : Keeps K (State.tidy s b) := by
  unfold State.tidy
  repeat' with_reducible first | assumption | apply keeps_setCpart

theorem keeps_noteOcc (h : Keeps K s) : Keeps K (State.noteOcc s b c) := by
  unfold State.noteOcc
  try dsimp only
  repeat' with_reducible first | assumption | apply keeps_setFld | (split) | (intro _) | (dsimp only)

theorem keeps_refuseW (h : Keeps K s) : Keeps K (State.refuseW s b c) := by
  unfold State.refuseW
  try dsimp only
  repeat' with_reducible first | assumption | apply keeps_refuseWrite | apply keeps_refuse | (split) | (intro _) | (dsimp only)

theorem keeps_admitNow (h : Keeps K s) : Keeps K (State.admitNow s b) := by
  unfold State.admitNow
  try dsimp only
  repeat' with_reducible first
    | assumption | apply keeps_tidy | apply keeps_endBuild | apply keeps_chargeAll | apply keeps_noteOcc | apply keeps_setFld
    | apply keeps_mapColl | apply keeps_setCpart | apply keeps_refuseW | apply keeps_clearStaged | apply keeps_cancelSwitch
    | (split)

theorem keeps_applyHist (h : Keeps K s) : Keeps K (State.applyHist s b) := by
  unfold State.applyHist
  repeat' with_reducible first | assumption | apply keeps_writeWork | apply keeps_setModel | (split)

theorem keeps_countCarry (h : Keeps K s) : Keeps K (State.countCarry s b c) := by
  unfold State.countCarry
  try dsimp only
  repeat' with_reducible first | assumption | apply keeps_drew | apply keeps_count | (split) | (intro _) | (dsimp only)

theorem keeps_setRowBit (h : Keeps K s) : Keeps K (State.setRowBit s b c d) := by
  unfold State.setRowBit
  repeat' with_reducible first | assumption | apply keeps_wr | (split)

theorem keeps_setTomb (h : Keeps K s) : Keeps K (State.setTomb s b c d) := by
  unfold State.setTomb
  repeat' with_reducible first | assumption | apply keeps_setRowBit

theorem keeps_bury (h : Keeps K s) : Keeps K (State.bury s b c) := by
  unfold State.bury
  repeat' with_reducible first | assumption | apply keeps_setTomb | apply keeps_objWrite | (split)

theorem keeps_applyTo (h : Keeps K s) : Keeps K (State.applyTo s b c d e).1 := by
  unfold State.applyTo
  repeat' with_reducible first
    | assumption | apply keeps_countCarry | apply keeps_chargeAll | apply keeps_bury | apply keeps_drew
    | (apply Keeps.foldl; intro _ _ _)

theorem keeps_applyVecs (h : Keeps K s) : Keeps K (State.applyVecs s b c) := by
  unfold State.applyVecs
  repeat' with_reducible first | assumption | apply keeps_freeAll | apply keeps_mapColl | apply keeps_applyTo | (split)

theorem keeps_startFold (h : Keeps K s) : Keeps K (State.startFold s b c d e) := by
  unfold State.startFold
  repeat' with_reducible first | assumption | apply keeps_mapColl

theorem keeps_startFolds (h : Keeps K s) : Keeps K (State.startFolds s b) := by
  unfold State.startFolds
  repeat' with_reducible first | assumption | apply keeps_startFold | (apply Keeps.foldl; intro _ _ _) | (split)

theorem keeps_mapEntry (h : Keeps K s) : Keeps K (State.mapEntry s b c d) := by
  unfold State.mapEntry
  repeat' with_reducible first | assumption | apply keeps_setCpart

theorem keeps_releaseHeld (h : Keeps K s) : Keeps K (State.releaseHeld s b) := by
  unfold State.releaseHeld
  repeat' with_reducible first | assumption | (simp only [↓Keeps.mk_eq])

theorem keeps_applyNext (h : Keeps K s) : Keeps K (State.applyNext s b) := by
  unfold State.applyNext
  try dsimp only
  repeat' with_reducible first
    | assumption | apply keeps_tidy | apply keeps_applyVecs | apply keeps_startFolds | apply keeps_mapEntry
    | apply keeps_releaseHeld | apply keeps_setCpart | apply keeps_applyHist | (split)

theorem keeps_auditScan (h : Keeps K s) : Keeps K (State.auditScan s b) := by
  unfold State.auditScan
  repeat' with_reducible first | assumption | (simp only [↓Keeps.mk_eq]) | (split)

theorem keeps_badMsg (h : Keeps K s) : Keeps K (State.badMsg s b) := by
  unfold State.badMsg
  repeat' with_reducible first | assumption | apply keeps_incFld

theorem keeps_wrTnTier (h : Keeps K s) : Keeps K (State.wrTnTier s b c d) := by
  unfold State.wrTnTier
  try dsimp only
  repeat' with_reducible first
    | assumption | apply keeps_setFld | apply keeps_plainWrite | apply keeps_raise | (split) | (intro _) | (dsimp only)

theorem keeps_setMeas (h : Keeps K s) : Keeps K (State.setMeas s b c) := by
  unfold State.setMeas
  repeat' with_reducible first | assumption | (simp only [↓Keeps.mk_eq])

theorem keeps_wrPtLock (h : Keeps K s) : Keeps K (State.wrPtLock s b c d) := by
  unfold State.wrPtLock
  try dsimp only
  repeat' with_reducible first | assumption | apply keeps_wrLock | apply keeps_setMeas | (split) | (intro _) | (dsimp only)

theorem keeps_startDrain (h : Keeps K s) : Keeps K (State.startDrain s b) := by
  unfold State.startDrain
  repeat' with_reducible first
    | assumption | apply keeps_moveWaiting | apply keeps_setFld | apply keeps_mapInst | (apply Keeps.foldl; intro _ _ _)
    | (split)

theorem keeps_wrPtEn (h : Keeps K s) : Keeps K (State.wrPtEn s b c) := by
  unfold State.wrPtEn
  repeat' with_reducible first | assumption | apply keeps_setFld | apply keeps_startDrain | (split)

theorem keeps_wrPtCfg (h : Keeps K s) : Keeps K (State.wrPtCfg s b c d) := by
  unfold State.wrPtCfg
  try dsimp only
  repeat' with_reducible first | assumption | apply keeps_wrPtEn | apply keeps_setFld | (split) | (intro _) | (dsimp only)

theorem keeps_wrPtFloor (h : Keeps K s) : Keeps K (State.wrPtFloor s b c d) := by
  unfold State.wrPtFloor
  try dsimp only
  repeat' with_reducible first | assumption | apply keeps_plainWrite | (split) | (intro _) | (dsimp only)

theorem keeps_enTenant (h : Keeps K s) : Keeps K (State.enTenant s b) := by
  unfold State.enTenant
  repeat' with_reducible first | assumption | apply keeps_setFld | (simp only [↓Keeps.mk_eq])

theorem keeps_wrTnEn (h : Keeps K s) : Keeps K (State.wrTnEn s b c) := by
  unfold State.wrTnEn
  try dsimp only
  repeat' with_reducible first | assumption | apply keeps_setFld | apply keeps_enTenant | (split) | (intro _) | (dsimp only)

theorem keeps_wrTnCfg (h : Keeps K s) : Keeps K (State.wrTnCfg s b c d) := by
  unfold State.wrTnCfg
  try dsimp only
  repeat' with_reducible first | assumption | apply keeps_wrTnEn | apply keeps_setFld | (split) | (intro _) | (dsimp only)

theorem keeps_showQuads (h : Keeps K s) : Keeps K (State.showQuads s b) := by
  unfold State.showQuads
  try dsimp only
  repeat' with_reducible first | assumption | apply keeps_setFld | (split) | (intro _) | (dsimp only)

theorem keeps_wrOwner (h : Keeps K s) : Keeps K (State.wrOwner s b c d) := by
  unfold State.wrOwner
  try dsimp only
  repeat' with_reducible first
    | assumption | apply keeps_setFld | apply keeps_setOwner | apply keeps_showQuads | apply keeps_raise
    | (simp only [↓Keeps.mk_eq]) | (split) | (intro _) | (dsimp only)

theorem keeps_wrOwn (h : Keeps K s) : Keeps K (State.wrOwn s b c d e) := by
  unfold State.wrOwn
  try dsimp only
  repeat' with_reducible first
    | assumption | apply keeps_wrOwner | (apply Keeps.foldl; intro _ _ _) | (split) | (intro _) | (dsimp only)

theorem keeps_barrierEnds (h : Keeps K s) : Keeps K (State.barrierEnds s b) := by
  unfold State.barrierEnds
  repeat' with_reducible first | assumption | apply keeps_mapGate | (split)

theorem keeps_syncHome (h : Keeps K s) : Keeps K (State.syncHome s b) := by
  unfold State.syncHome
  repeat' with_reducible first | assumption | apply keeps_mapObj | apply keeps_program | (split)

theorem keeps_putSlot (h : Keeps K s) : Keeps K (State.putSlot s b c d e) := by
  unfold State.putSlot
  repeat' with_reducible first
    | assumption | apply keeps_setRowBit | apply keeps_wr | (apply Keeps.foldl; intro _ _ _) | (split)

theorem keeps_makeObj (h : Keeps K s) : KeepsPair K (State.makeObj s b c d e f) := by
  unfold State.makeObj
  repeat' with_reducible first
    | assumption | apply keeps_drew | apply keeps_claim | apply keeps_wipe | (apply Keeps.foldl; intro _ _ _)
    | exact KeepsPair.none | apply KeepsPair.some | (apply KeepsPair.findSome; intro _) | (simp only [↓Keeps.mk_eq]) | (split)

theorem keeps_makeRows (h : Keeps K s) : KeepsPair K (State.makeRows s b c d e f g) := by
  unfold State.makeRows
  try dsimp only
  repeat' with_reducible first
    | assumption | apply keeps_wipe | apply keeps_makeObj | (apply Keeps.foldl; intro _ _ _) | exact KeepsPair.none
    | apply KeepsPair.some | (apply KeepsPair.map <;> intros) | (split)

theorem keeps_newSeg (h : Keeps K s) : KeepsPair K (State.newSeg s b c d e f) := by
  unfold State.newSeg
  try dsimp only
  repeat' with_reducible first
    | assumption | apply keeps_bury | apply keeps_syncHome | apply keeps_putSlot | apply keeps_objWrite | apply keeps_makeObj
    | apply keeps_makeRows | (apply Keeps.foldl; intro _ _ _) | (refine Keeps.someP (by assumption) ?_) | exact KeepsPair.none
    | apply KeepsPair.some | (split)

theorem keeps_writeGen (h : Keeps K s) : KeepsPair K (State.writeGen s b c d e) := by
  unfold State.writeGen
  repeat' with_reducible first
    | assumption | apply keeps_newSeg | (refine Keeps.someP (by assumption) ?_) | exact KeepsPair.none
    | exact KeepsPair.get (by assumption) | apply KeepsPair.some | (apply KeepsPair.foldl; intro _ _ _) | (split)

theorem keeps_buildDone (h : Keeps K s) : Keeps K (State.buildDone s b) := by
  unfold State.buildDone
  try dsimp only
  repeat' with_reducible first
    | assumption | apply keeps_countCarry | apply keeps_chargeAll | apply keeps_mapColl | apply keeps_finish
    | apply keeps_drew | apply keeps_writeGen | (refine Keeps.someP (by assumption) ?_) | (split)

theorem keeps_buildStart (h : Keeps K s) : Keeps K (State.buildStart s b) := by
  unfold State.buildStart
  repeat' with_reducible first
    | assumption | apply keeps_setCmd | apply keeps_refuse | apply keeps_mapColl | apply keeps_finish | apply keeps_drew
    | (split)

theorem keeps_cableIn (h : Keeps K s) : Keeps K (State.cableIn s b) := by
  unfold State.cableIn
  try dsimp only
  repeat' with_reducible first
    | assumption | apply keeps_setPort | apply keeps_setFld | (simp only [↓Keeps.mk_eq]) | (split) | (intro _) | (dsimp only)

theorem keeps_childGone (h : Keeps K s) : Keeps K (State.childGone s b c) := by
  unfold State.childGone
  try dsimp only
  repeat' with_reducible first
    | assumption | apply keeps_setGst | (apply Keeps.foldl; intro _ _ _) | (split) | (intro _) | (dsimp only)

theorem keeps_cutRelease (h : Keeps K s) : Keeps K (State.cutRelease s b) := by
  unfold State.cutRelease
  repeat' with_reducible first
    | assumption | apply keeps_freeAll | apply keeps_mapColl | apply keeps_dropSeg | (apply Keeps.foldl; intro _ _ _) | (split)

theorem keeps_genRelease (h : Keeps K s) : Keeps K (State.genRelease s b) := by
  unfold State.genRelease
  repeat' with_reducible first
    | assumption | apply keeps_mapColl | apply keeps_freeGen | (apply Keeps.foldl; intro _ _ _) | (split)

theorem keeps_collCreate (h : Keeps K s) : Keeps K (State.collCreate s b) := by
  unfold State.collCreate
  try dsimp only
  repeat' with_reducible first
    | assumption | apply keeps_setColl | apply keeps_refuse | apply keeps_finish | apply keeps_drew | (split)

theorem keeps_compact (h : Keeps K s) : Keeps K (State.compact s b) := by
  unfold State.compact
  try dsimp only
  repeat' with_reducible first
    | assumption | apply keeps_setCmd | apply keeps_refuse | apply keeps_finish | apply keeps_startFold
    | (apply Keeps.foldl; intro _ _ _) | (split)

theorem keeps_copyRow (h : Keeps K s) : Keeps K (State.copyRow s b c) := by
  unfold State.copyRow
  repeat' with_reducible first | assumption | apply keeps_wr | apply keeps_wipe | (apply Keeps.foldl; intro _ _ _)

theorem keeps_endStep (h : Keeps K s) : Keeps K (State.endStep s b) := by
  unfold State.endStep
  try dsimp only
  repeat' with_reducible first
    | assumption | apply keeps_writeAddr | apply keeps_startAbort | apply keeps_raise | apply keeps_signal
    | apply keeps_barrierEnds | apply keeps_setGst | (split) | (intro _) | (dsimp only)

theorem keeps_ctoExpiry (h : Keeps K s) : Keeps K (State.ctoExpiry s b) := by
  unfold State.ctoExpiry
  try dsimp only
  repeat' with_reducible first | assumption | apply keeps_endStep | (split) | (intro _) | (dsimp only)

theorem keeps_deadlineMiss (h : Keeps K s) : Keeps K (State.deadlineMiss s b c) := by
  unfold State.deadlineMiss
  try dsimp only
  repeat' with_reducible first | assumption | apply keeps_deadlineTick | apply keeps_raise | (split) | (intro _) | (dsimp only)

theorem keeps_flushRaised (h : Keeps K s) : Keeps K (State.flushRaised s b) := by
  unfold State.flushRaised
  repeat' with_reducible first | assumption | apply keeps_writeRecord | (apply Keeps.foldl; intro _ _ _)

theorem keeps_deferReport (h : Keeps K s) : Keeps K (State.deferReport s b c d e f g) := by
  unfold State.deferReport
  try dsimp only
  repeat' with_reducible first
    | assumption | apply keeps_setFld | apply keeps_flushRaised | apply keeps_setQp | apply keeps_raiseRec
    | (simp only [↓Keeps.mk_eq]) | (split) | (intro _) | (dsimp only)

theorem keeps_failRec (h : Keeps K s) : Keeps K (State.failRec s b c d e) := by
  unfold State.failRec
  repeat' with_reducible first | assumption | apply keeps_raise

theorem keeps_deferred (h : Keeps K s) : Keeps K (State.deferred s b c d e f g) := by
  unfold State.deferred
  try dsimp only
  repeat' with_reducible first
    | assumption | apply keeps_deferReport | apply keeps_freeAll | apply keeps_setFld | apply keeps_mapColl
    | apply keeps_mapEntry | apply keeps_failRec | (apply Keeps.ite <;> intro _) | (apply Keeps.foldl; intro _ _ _)
    | (refine Keeps.fst (by assumption) ?_) | (split) | (intro _) | (dsimp only)

theorem keeps_deltaAge (h : Keeps K s) : Keeps K (State.deltaAge s b c) := by
  unfold State.deltaAge
  repeat' with_reducible first | assumption | apply keeps_startFold | (split)

theorem keeps_destageNext (h : Keeps K s) : Keeps K (State.destageNext s b) := by
  unfold State.destageNext
  try dsimp only
  repeat' with_reducible first
    | assumption | apply keeps_tidy | apply keeps_mapEntry | apply keeps_setCpart | apply keeps_program | (split)

theorem keeps_drainDone (h : Keeps K s) : Keeps K (State.drainDone s b) := by
  unfold State.drainDone
  try dsimp only
  repeat' with_reducible first
    | assumption | apply keeps_setFld | apply keeps_dropInst | (apply Keeps.foldl; intro _ _ _) | (split)

theorem keeps_drainWait (h : Keeps K s) : Keeps K (State.drainWait s b) := by
  unfold State.drainWait
  repeat' with_reducible first | assumption | apply keeps_setPort | apply keeps_portSend | (apply Keeps.foldl; intro _ _ _)

theorem keeps_dupId (h : Keeps K s) : Keeps K (State.dupId s b c) := by
  unfold State.dupId
  try dsimp only
  repeat' with_reducible first | assumption | apply keeps_setPort | apply keeps_raise | (split) | (intro _) | (dsimp only)

theorem keeps_durable (h : Keeps K s) : Keeps K (State.durable s b) := by
  unfold State.durable
  repeat' with_reducible first | assumption | apply keeps_mapEntry | apply keeps_finish | apply keeps_setCpart | (split)

theorem keeps_endFolds (h : Keeps K s) : Keeps K (State.endFolds s b) := by
  unfold State.endFolds
  repeat' with_reducible first
    | assumption | apply keeps_mapColl | apply keeps_finish | (apply Keeps.foldl; intro _ _ _) | (split)

theorem keeps_endDrop (h : Keeps K s) : Keeps K (State.endDrop s b) := by
  unfold State.endDrop
  repeat' with_reducible first
    | assumption | apply keeps_setColl | apply keeps_endFolds | apply keeps_freeGen | apply keeps_finish
    | (apply Keeps.foldl; intro _ _ _) | (split)

theorem keeps_endQuery (h : Keeps K s) : Keeps K (State.endQuery s b c) := by
  unfold State.endQuery
  try dsimp only
  repeat' with_reducible first
    | assumption | apply keeps_finish | apply keeps_drew | apply keeps_endTask | apply keeps_emit
    | (apply Keeps.ite <;> intro _) | (apply Keeps.foldl; intro _ _ _) | (refine Keeps.fst (by assumption) ?_)
    | (simp only [↓Keeps.mk_eq]) | (split) | (intro _) | (dsimp only)

theorem keeps_fabLeave (h : Keeps K s) : Keeps K (State.fabLeave s b) := by
  unfold State.fabLeave
  try dsimp only
  repeat' with_reducible first
    | assumption | apply keeps_setPort | apply keeps_onMgt | (apply Keeps.foldl; intro _ _ _) | (intro _) | (split)
    | (dsimp only)

theorem keeps_fabricDrain (h : Keeps K s) : Keeps K (State.fabricDrain s b) := by
  unfold State.fabricDrain
  try dsimp only
  repeat' with_reducible first
    | assumption | apply keeps_portSend | apply keeps_portFall | apply keeps_setFld | (apply Keeps.foldl; intro _ _ _)
    | (simp only [↓Keeps.mk_eq]) | (split) | (intro _) | (dsimp only)

theorem keeps_takeAck (h : Keeps K s) : Keeps K (State.takeAck s b c d) := by
  unfold State.takeAck
  repeat' with_reducible first | assumption | apply keeps_drainWait | apply keeps_setPort | apply keeps_drained

theorem keeps_land (h : Keeps K s) : Keeps K (State.land s b c) := by
  unfold State.land
  try dsimp only
  repeat' with_reducible first
    | assumption | apply keeps_answer | apply keeps_credBack | apply keeps_badMsg | (simp only [↓Keeps.mk_eq]) | (split)
    | (intro _) | (dsimp only)

theorem keeps_flit (h : Keeps K s) : Keeps K (State.flit s b c d e f g) := by
  unfold State.flit
  try dsimp only
  repeat' with_reducible first
    | assumption | apply keeps_takeAck | apply keeps_setPort | apply keeps_land | apply keeps_emit | (split)

theorem keeps_writeSeg (h : Keeps K s) : KeepsPair K (State.writeSeg s b c d e) := by
  unfold State.writeSeg
  try dsimp only
  repeat' with_reducible first
    | assumption | apply keeps_newSeg | apply keeps_chargeAll | apply keeps_freeAll | apply keeps_raise
    | (apply Keeps.foldl; intro _ _ _) | (refine Keeps.someP (by assumption) ?_) | exact KeepsPair.none | apply KeepsPair.some
    | (split)

theorem keeps_foldDone (h : Keeps K s) : Keeps K (State.foldDone s b c) := by
  unfold State.foldDone
  repeat' with_reducible first
    | assumption | apply keeps_tidy | apply keeps_writeSeg | apply keeps_startFolds | apply keeps_mapColl | apply keeps_finish
    | (refine Keeps.someP (by assumption) ?_) | (split)

theorem keeps_follow (h : Keeps K s) : Keeps K (State.follow s b c d) := by
  unfold State.follow
  repeat' with_reducible first | assumption | apply keeps_setFld | (simp only [↓Keeps.mk_eq])

theorem keeps_forward (h : Keeps K s) : Keeps K (State.forward s b) := by
  unfold State.forward
  try dsimp only
  repeat' with_reducible first
    | assumption | apply keeps_answer | apply keeps_portSend | apply keeps_badMsg | apply keeps_raise | apply keeps_sendMsg
    | apply keeps_unland | (split)

theorem keeps_getLog (h : Keeps K s) : Keeps K (State.getLog s b) := by
  unfold State.getLog
  try dsimp only
  repeat' with_reducible first | assumption | apply keeps_mapTable | apply keeps_refuse | apply keeps_finish | (split)

theorem keeps_hello (h : Keeps K s) : Keeps K (State.hello s b c d e) := by
  unfold State.hello
  try dsimp only
  repeat' with_reducible first
    | assumption | apply keeps_setPort | apply keeps_portSend | apply keeps_clearDups | apply keeps_setFld
    | apply keeps_portEvent | (split) | (intro _) | (dsimp only)

theorem keeps_keyErased (h : Keeps K s) : Keeps K (State.keyErased s b) := by
  unfold State.keyErased
  try dsimp only
  repeat' with_reducible first
    | assumption | apply keeps_dropObj | apply keeps_setFld | apply keeps_raise | (apply Keeps.foldl; intro _ _ _)
    | (simp only [↓Keeps.mk_eq]) | (split) | (intro _) | (dsimp only)

theorem keeps_portTrain (h : Keeps K s) : Keeps K (State.portTrain s b) := by
  unfold State.portTrain
  repeat' with_reducible first | assumption | apply keeps_portStop

theorem keeps_laneFail (h : Keeps K s) : Keeps K (State.laneFail s b) := by
  unfold State.laneFail
  try dsimp only
  repeat' with_reducible first
    | assumption | apply keeps_incFld | apply keeps_setPort | apply keeps_portFall | apply keeps_setFld
    | apply keeps_portTrain | apply keeps_portEvent | (split) | (intro _) | (dsimp only)

theorem keeps_moveRows (h : Keeps K s) : KeepsPair K (State.moveRows s b c d e f g) := by
  unfold State.moveRows
  try dsimp only
  repeat' with_reducible first
    | assumption | apply keeps_dropObj | apply keeps_syncHome | apply keeps_wipe | apply keeps_makeRows | apply keeps_copyRow
    | (apply Keeps.foldl; intro _ _ _) | (apply KeepsPair.map <;> intros) | (split)

theorem keeps_moveAll (h : Keeps K s) : KeepsPair K (State.moveAll s b c d e f g) := by
  induction g generalizing s with
  | nil =>
    unfold State.moveAll
    try dsimp only
    repeat' with_reducible first
      | assumption | apply keeps_moveRows | (apply Keeps.ite <;> intro _) | (apply Keeps.foldl; intro _ _ _)
      | (refine Keeps.fst (by assumption) ?_) | (refine Keeps.someP (by assumption) ?_) | exact KeepsPair.none
      | exact KeepsPair.get (by assumption) | apply KeepsPair.some | (apply KeepsPair.ite <;> intro _)
      | (apply KeepsPair.foldl; intro _ _ _) | (apply KeepsPair.map <;> intros) | (apply KeepsPair.bind <;> intros)
      | (apply KeepsPair.findSome; intro _) | (simp only [↓Keeps.mk_eq]) | (split) | (intro _) | (dsimp only)
  | cons x xs ih =>
    unfold State.moveAll
    try dsimp only
    repeat' with_reducible first
      | assumption | apply ih | apply keeps_moveRows | (apply Keeps.ite <;> intro _) | (apply Keeps.foldl; intro _ _ _)
      | (refine Keeps.fst (by assumption) ?_) | (refine Keeps.someP (by assumption) ?_) | exact KeepsPair.none
      | exact KeepsPair.get (by assumption) | apply KeepsPair.some | (apply KeepsPair.ite <;> intro _)
      | (apply KeepsPair.foldl; intro _ _ _) | (apply KeepsPair.map <;> intros) | (apply KeepsPair.bind <;> intros)
      | (apply KeepsPair.findSome; intro _) | (simp only [↓Keeps.mk_eq]) | (split) | (intro _) | (dsimp only)

theorem keeps_listPlace (h : Keeps K s) : Keeps K (State.listPlace s b) := by
  unfold State.listPlace
  try dsimp only
  repeat' with_reducible first
    | assumption | apply keeps_chargeAll | apply keeps_freeAll | apply keeps_refuse | apply keeps_mapColl | apply keeps_finish
    | apply keeps_moveAll | (apply Keeps.ite <;> intro _) | (apply Keeps.foldl; intro _ _ _)
    | (refine Keeps.fst (by assumption) ?_) | (refine Keeps.someP (by assumption) ?_) | exact KeepsPair.none
    | exact KeepsPair.get (by assumption) | apply KeepsPair.some | (apply KeepsPair.ite <;> intro _)
    | (apply KeepsPair.foldl; intro _ _ _) | (apply KeepsPair.map <;> intros) | (apply KeepsPair.bind <;> intros)
    | (apply KeepsPair.findSome; intro _) | (simp only [↓Keeps.mk_eq]) | (split) | (intro _) | (dsimp only)

theorem keeps_liveTowers (h : Keeps K s) : Keeps K (State.liveTowers s b c d) := by
  unfold State.liveTowers
  repeat' with_reducible first | assumption | apply keeps_setTowers

theorem keeps_lockAdmit (h : Keeps K s) : Keeps K (State.lockAdmit s b) := by
  unfold State.lockAdmit
  repeat' with_reducible first | assumption | apply keeps_setCmd | (split)

theorem keeps_markPosted (h : Keeps K s) : Keeps K (State.markPosted s b) := by
  unfold State.markPosted
  repeat' with_reducible first | assumption | apply keeps_tidy | apply keeps_mapEntry | (split)

theorem keeps_mgtReply (h : Keeps K s) : Keeps K (State.mgtReply s b c d e) := by
  unfold State.mgtReply
  try dsimp only
  repeat' with_reducible first | assumption | apply keeps_portSend | (split) | (intro _) | (dsimp only)

theorem keeps_mgtRead (h : Keeps K s) : Keeps K (State.mgtRead s b) := by
  unfold State.mgtRead
  repeat' with_reducible first
    | assumption | apply keeps_badMsg | apply keeps_mgtReply | apply keeps_onMgt | (split) | (intro _)

theorem keeps_mgtWrite (h : Keeps K s) : Keeps K (State.mgtWrite s b) := by
  unfold State.mgtWrite
  repeat' with_reducible first
    | assumption | apply keeps_badMsg | apply keeps_mgtReply | apply keeps_onMgt | apply keeps_abWrite | (split) | (intro _)

theorem keeps_missPost (h : Keeps K s) : Keeps K (State.missPost s b c) := by
  unfold State.missPost
  try dsimp only
  repeat' with_reducible first
    | assumption | apply keeps_deadlineMiss | (simp only [↓Keeps.mk_eq]) | (split) | (intro _) | (dsimp only)

theorem keeps_modelLoad (h : Keeps K s) : Keeps K (State.modelLoad s b) := by
  unfold State.modelLoad
  try dsimp only
  repeat' with_reducible first
    | assumption | apply keeps_setTowers | apply keeps_refuse | apply keeps_finish | apply keeps_drew | (split)

theorem keeps_nak (h : Keeps K s) : Keeps K (State.nak s b c) := by
  unfold State.nak
  try dsimp only
  repeat' with_reducible first
    | assumption | apply keeps_incFld | apply keeps_setPort | apply keeps_portTrain | apply keeps_portEvent | apply keeps_emit
    | (apply Keeps.foldl; intro _ _ _) | (split) | (intro _) | (dsimp only)

theorem keeps_onMsg (h : Keeps K s) (h_d : ∀ y0 y1 y2, Keeps K y0 → Keeps K (d y0 y1 y2)) : Keeps K (State.onMsg s b c d) := by
  unfold State.onMsg
  repeat' with_reducible first | assumption | apply h_d | (split)

theorem keeps_publishTowers (h : Keeps K s) : Keeps K (State.publishTowers s b c) := by
  unfold State.publishTowers
  try dsimp only
  repeat' with_reducible first | assumption | apply keeps_setTowers | apply keeps_drew | apply keeps_liveTowers | (split)

theorem keeps_query_go (h : Keeps K s) : Keeps K (State.query.go a s c d e f g) := by
  unfold State.query.go
  repeat' with_reducible first
    | assumption | apply keeps_setCmd | apply keeps_refuse | apply keeps_drew | apply keeps_bindTask | (split)

theorem keeps_query (h : Keeps K s) : Keeps K (State.query s b) := by
  unfold State.query
  repeat' with_reducible first | assumption | apply keeps_refuse | apply keeps_query_go | (split)

theorem keeps_refuseReq (h : Keeps K s) : Keeps K (State.refuseReq s b c d) := by
  unfold State.refuseReq
  try dsimp only
  repeat' with_reducible first | assumption | apply keeps_answer | apply keeps_raise | (split) | (intro _) | (dsimp only)

theorem keeps_reqFailed (h : Keeps K s) : Keeps K (State.reqFailed s b c) := by
  unfold State.reqFailed
  repeat' with_reducible first
    | assumption | apply keeps_fryFault | apply keeps_quadFault | apply keeps_fryRefuse | apply keeps_childGone
    | apply keeps_emit | (split)

theorem keeps_restoreObj (h : Keeps K s) : Keeps K (State.restoreObj s b c) := by
  unfold State.restoreObj
  repeat' with_reducible first | assumption | apply keeps_copyTile | apply keeps_claim | apply keeps_mapObj | (split)

theorem keeps_restoreGen (h : Keeps K s) : Keeps K (State.restoreGen s b c d).1 := by
  unfold State.restoreGen
  try dsimp only
  repeat' with_reducible first
    | assumption | apply keeps_restoreObj | apply keeps_bury | apply keeps_syncHome | apply keeps_putSlot
    | apply keeps_makeObj | (apply Keeps.foldl; intro _ _ _) | (apply Keeps.foldlP; intro _ _ _)
    | (refine Keeps.someP (by assumption) ?_) | (split)

theorem keeps_rtoExpiry (h : Keeps K s) : Keeps K (State.rtoExpiry s b) := by
  unfold State.rtoExpiry
  repeat' with_reducible first | assumption | apply keeps_reqFailed | apply keeps_raise | (simp only [↓Keeps.mk_eq]) | (split)

theorem keeps_serveCol (h : Keeps K s) : Keeps K (State.serveCol s b) := by
  unfold State.serveCol
  try dsimp only
  repeat' with_reducible first
    | assumption | apply keeps_answer | apply keeps_writeAddr | apply keeps_badMsg | apply keeps_onMsg | apply keeps_startStep
    | apply keeps_unland | apply keeps_setGst | (intro _) | (split) | (dsimp only)

theorem keeps_serveRd (h : Keeps K s) : Keeps K (State.serveRd s b c) := by
  unfold State.serveRd
  try dsimp only
  repeat' with_reducible first
    | assumption | apply keeps_answer | apply keeps_refuseReq | apply keeps_onMsg | apply keeps_readEnd | apply keeps_unland
    | (split) | (intro _)

theorem keeps_serveSig (h : Keeps K s) : Keeps K (State.serveSig s b) := by
  unfold State.serveSig
  try dsimp only
  repeat' with_reducible first
    | assumption | apply keeps_incFld | apply keeps_answer | apply keeps_addSem | apply keeps_askWake | apply keeps_badMsg
    | apply keeps_onMsg | apply keeps_unland | (intro _) | (split) | (dsimp only)

theorem keeps_serveWr (h : Keeps K s) : Keeps K (State.serveWr s b c d) := by
  unfold State.serveWr
  try dsimp only
  repeat' with_reducible first
    | assumption | apply keeps_answer | apply keeps_refuseReq | apply keeps_onMsg | apply keeps_writeEnd | apply keeps_unland
    | (split) | (intro _)

theorem keeps_staleBack (h : Keeps K s) : Keeps K (State.staleBack s b) := by
  unfold State.staleBack
  repeat' with_reducible first | assumption | apply keeps_raise

theorem keeps_startWrite (h : Keeps K s) : Keeps K (State.startWrite s b) := by
  unfold State.startWrite
  repeat' with_reducible first | assumption | apply keeps_setCmd | apply keeps_refuseW | (split)

theorem keeps_switch (h : Keeps K s) : Keeps K (State.switch s b) := by
  unfold State.switch
  try dsimp only
  repeat' with_reducible first
    | assumption | apply keeps_setCmd | apply keeps_setTowers | apply keeps_refuse | apply keeps_mapColl | apply keeps_finish
    | (split)

theorem keeps_switchColl (h : Keeps K s) : Keeps K (State.switchColl s b c) := by
  unfold State.switchColl
  repeat' with_reducible first
    | assumption | apply keeps_tidy | apply keeps_endFolds | apply keeps_mapColl | apply keeps_finish | (split)

theorem keeps_switchTowers (h : Keeps K s) : Keeps K (State.switchTowers s b c) := by
  unfold State.switchTowers
  try dsimp only
  repeat' with_reducible first | assumption | apply keeps_setTowers | apply keeps_finish | apply keeps_liveTowers | (split)

theorem keeps_syncConflict (h : Keeps K s) : Keeps K (State.syncConflict s b c) := by
  unfold State.syncConflict
  try dsimp only
  repeat' with_reducible first
    | assumption | apply keeps_setFld | apply keeps_raise | (simp only [↓Keeps.mk_eq]) | (split) | (intro _) | (dsimp only)

theorem keeps_syncSilence (h : Keeps K s) : Keeps K (State.syncSilence s) := by
  unfold State.syncSilence
  try dsimp only
  repeat' with_reducible first | assumption | apply keeps_loseSync | (split) | (intro _) | (dsimp only)

theorem keeps_takeResp (h : Keeps K s) : Keeps K (State.takeResp s b c) := by
  unfold State.takeResp
  repeat' with_reducible first
    | assumption | apply keeps_piecePart | apply keeps_ackTo | apply keeps_reqFailed | apply keeps_onMsg
    | apply keeps_staleBack | apply keeps_unland | apply keeps_pumped | apply keeps_emit | (simp only [↓Keeps.mk_eq])
    | (split) | (intro _)

theorem keeps_tickPast (h : Keeps K s) : Keeps K (State.tickPast s b) := by
  unfold State.tickPast
  try dsimp only
  repeat' with_reducible first | assumption | apply keeps_deadlineTick | (split) | (intro _) | (dsimp only)

theorem keeps_taskPost (h : Keeps K s) : Keeps K (State.taskPost s b c) := by
  unfold State.taskPost
  try dsimp only
  repeat' with_reducible first
    | assumption | apply keeps_postCompletion | apply keeps_missPost | apply keeps_markPosted | apply keeps_endDrop
    | apply keeps_endQuery | apply keeps_tickPast | (split)

theorem keeps_timeFlit (h : Keeps K s) : Keeps K (State.timeFlit s b c d) := by
  unfold State.timeFlit
  try dsimp only
  repeat' with_reducible first
    | assumption | apply keeps_follow | apply keeps_syncConflict | apply keeps_loseSync | apply keeps_emit | (split)

theorem keeps_towersEffect (h : Keeps K s) : Keeps K (State.towersEffect s b c) := by
  unfold State.towersEffect
  try dsimp only
  repeat' with_reducible first
    | assumption | apply keeps_switchTowers | apply keeps_publishTowers | (split) | (intro _) | (dsimp only)

theorem keeps_trainTimeout (h : Keeps K s) : Keeps K (State.trainTimeout s b) := by
  unfold State.trainTimeout
  try dsimp only
  repeat' with_reducible first | assumption | apply keeps_incFld | apply keeps_setFld | (split) | (intro _) | (dsimp only)

theorem keeps_training (h : Keeps K s) : Keeps K (State.training s b c d) := by
  unfold State.training
  try dsimp only
  repeat' with_reducible first
    | assumption | apply keeps_setPort | apply keeps_setFld | apply keeps_portEvent | (split) | (intro _) | (dsimp only)

theorem keeps_windowCmd (h : Keeps K s) : Keeps K (State.windowCmd s b c d e) := by
  unfold State.windowCmd
  try dsimp only
  repeat' with_reducible first
    | assumption | apply keeps_addrFault | apply keeps_windowWrite | (split) | (intro _) | (dsimp only)

theorem keeps_wipeDone (h : Keeps K s) : Keeps K (State.wipeDone s b c) := by
  unfold State.wipeDone
  try dsimp only
  repeat' with_reducible first
    | assumption | apply keeps_snoopRange | apply keeps_clearQuad | apply keeps_freeAccs | apply keeps_raise
    | apply keeps_wipe | (simp only [↓Keeps.mk_eq]) | (split) | (intro _) | (dsimp only)

end Sys2Proof.Laws
end

