-- ==== Sys2Proof/Laws/KeepsModule.lean ====
section
/-! SUPPORT. Resets, power, trust, faults, hardware and register accesses keep what `Keeps` says. -/

namespace Sys2Proof.Laws

set_option autoImplicit true
set_option linter.unusedTactic false
set_option linter.unreachableTactic false

open Sys2Proof.Machine

theorem keeps_abortFor (h : Keeps K s) : Keeps K (State.abortFor s b c d) := by
  unfold State.abortFor
  try dsimp only
  repeat' with_reducible first | assumption | apply keeps_abortNow | apply keeps_startAbort | (split) | (intro _) | (dsimp only)

theorem keeps_applyConfig (h : Keeps K s) : Keeps K (State.applyConfig s b) := by
  unfold State.applyConfig
  repeat' with_reducible first | assumption | apply keeps_setFld | (simp only [↓Keeps.mk_eq])

theorem keeps_attn (h : Keeps K s) : Keeps K (State.attn s) := by
  unfold State.attn
  try dsimp only
  repeat' with_reducible first
    | assumption | apply keeps_raise | (simp only [↓Keeps.mk_eq]) | (split) | (intro _) | (dsimp only)

theorem keeps_badReg (h : Keeps K s) : Keeps K (State.badReg s) := by
  unfold State.badReg
  repeat' with_reducible first | assumption | apply keeps_incFld

theorem keeps_wakeFor (h : Keeps K s) : Keeps K (State.wakeFor s b) := by
  unfold State.wakeFor
  repeat' with_reducible first | assumption | apply keeps_askWake | (split)

theorem keeps_regRead (h : Keeps K s) : Keeps K (State.regRead s b c).1 := by
  unfold State.regRead
  repeat' with_reducible first | assumption | apply keeps_poolAlloc | apply keeps_wakeFor | apply keeps_badReg | (split)

theorem keeps_wrSkCtl (h : Keeps K s) : Keeps K (State.wrSkCtl s b c d) := by
  unfold State.wrSkCtl
  try dsimp only
  repeat' with_reducible first | assumption | apply keeps_setFld | apply keeps_plainWrite | (split) | (intro _) | (dsimp only)

theorem keeps_wrPmCtl (h : Keeps K s) : Keeps K (State.wrPmCtl s b c d) := by
  unfold State.wrPmCtl
  try dsimp only
  repeat' with_reducible first | assumption | apply keeps_setFld | (split) | (intro _) | (dsimp only)

theorem keeps_wrMeSpare (h : Keeps K s) : Keeps K (State.wrMeSpare s b c d) := by
  unfold State.wrMeSpare
  try dsimp only
  repeat' with_reducible first | assumption | apply keeps_plainWrite | (split) | (intro _) | (dsimp only)

theorem keeps_wrFrySplit (h : Keeps K s) : Keeps K (State.wrFrySplit s b c d) := by
  unfold State.wrFrySplit
  try dsimp only
  repeat' with_reducible first
    | assumption | apply keeps_plainWrite | (simp only [↓Keeps.mk_eq]) | (split) | (intro _) | (dsimp only)

theorem keeps_quadReq (h : Keeps K s) : Keeps K (State.quadReq s b c) := by
  unfold State.quadReq
  try dsimp only
  repeat' with_reducible first
    | assumption | apply keeps_askWake | apply keeps_setFld | apply keeps_clearQuad | (simp only [↓Keeps.mk_eq]) | (split)
    | (intro _) | (dsimp only)

theorem keeps_wrPwrQuad (h : Keeps K s) : Keeps K (State.wrPwrQuad s b c d) := by
  unfold State.wrPwrQuad
  try dsimp only
  repeat' with_reducible first | assumption | apply keeps_setFld | apply keeps_quadReq | (split) | (intro _) | (dsimp only)

theorem keeps_countCap (h : Keeps K s) : Keeps K (State.countCap s) := by
  unfold State.countCap
  try dsimp only
  repeat' with_reducible first
    | assumption | apply keeps_incFld | (simp only [↓Keeps.mk_eq]) | (split) | (intro _) | (dsimp only)

theorem keeps_dropWake (h : Keeps K s) : Keeps K (State.dropWake s b) := by
  unfold State.dropWake
  repeat' with_reducible first | assumption | apply keeps_setFld | (simp only [↓Keeps.mk_eq])

theorem keeps_endInst (h : Keeps K s) : Keeps K (State.endInst s b c) := by
  unfold State.endInst
  repeat' with_reducible first
    | assumption | apply keeps_stopStep | apply keeps_sweepQuad | apply keeps_unloadDone | apply keeps_finish
    | apply keeps_dropWake | apply keeps_dropInst | apply keeps_abortBanks | apply keeps_abortRec | apply keeps_sendAborts
    | (apply Keeps.foldl; intro _ _ _) | (simp only [↓Keeps.mk_eq]) | (split)

theorem keeps_resetPart (h : Keeps K s) : Keeps K (State.resetPart s b c) := by
  unfold State.resetPart
  repeat' with_reducible first
    | assumption | apply keeps_endBuild | apply keeps_sweepQuad | apply keeps_endInst | apply keeps_clearQuad
    | apply keeps_dropWake | apply keeps_clearNbus | apply keeps_abortBanks | (apply Keeps.foldl; intro _ _ _)

theorem keeps_clearUnit (h : Keeps K s) : Keeps K (State.clearUnit s b c) := by
  unfold State.clearUnit
  try dsimp only
  repeat' with_reducible first
    | assumption | apply keeps_mapThread | apply keeps_streamGone | apply keeps_setStream | apply keeps_setSlot
    | apply keeps_fryWait | apply keeps_showBound | apply keeps_setXu | (apply Keeps.foldl; intro _ _ _)
    | (simp only [↓Keeps.mk_eq]) | (split) | (intro _) | (dsimp only)

theorem keeps_resetAborts (h : Keeps K s) : Keeps K (State.resetAborts s b) := by
  unfold State.resetAborts
  repeat' with_reducible first | assumption | apply keeps_startAbort | (split)

theorem keeps_resetUnit (h : Keeps K s) : Keeps K (State.resetUnit s b c) := by
  unfold State.resetUnit
  try dsimp only
  repeat' with_reducible first
    | assumption | apply keeps_clearUnit | apply keeps_abortMaster | apply keeps_resetAborts | apply keeps_sweepSource
    | (simp only [↓Keeps.mk_eq]) | (split) | (intro _) | (dsimp only)

theorem keeps_resetQuad (h : Keeps K s) : Keeps K (State.resetQuad s b) := by
  unfold State.resetQuad
  repeat' with_reducible first
    | assumption | apply keeps_clearUnit | apply keeps_loadSems | apply keeps_sweepQuad | apply keeps_dropWake
    | apply keeps_resetAborts | apply keeps_abortBanks | (apply Keeps.foldl; intro _ _ _)

theorem keeps_resetNow (h : Keeps K s) : Keeps K (State.resetNow s) := by
  unfold State.resetNow
  try dsimp only
  repeat' with_reducible first | assumption | apply keeps_resetPart | apply keeps_resetUnit | apply keeps_resetQuad | (split)

theorem keeps_wrRstReq (h : Keeps K s) : Keeps K (State.wrRstReq s b c) := by
  unfold State.wrRstReq
  try dsimp only
  repeat' with_reducible first
    | assumption | apply keeps_setFld | apply keeps_plainWrite | apply keeps_resetNow | (split) | (intro _) | (dsimp only)

theorem keeps_regWrite (h : Keeps K s) : Keeps K (State.regWrite s b c d e) := by
  unfold State.regWrite
  try dsimp only
  repeat' with_reducible first
    | assumption | apply keeps_countThrot | apply keeps_wrSkCtl | apply keeps_wrTnTier | apply keeps_wrGlbInt
    | apply keeps_wrSpadPwr | apply keeps_noteOcc | apply keeps_wrPoolCfg | apply keeps_wrEvqCfg | apply keeps_wrLdctl
    | apply keeps_wrEvqAck | apply keeps_wrFabLock | apply keeps_wrPtLock | apply keeps_wrPrtCtl | apply keeps_wrPmCtl
    | apply keeps_plainWrite | apply keeps_wrSkRegion | apply keeps_wrMeSpare | apply keeps_wrQa | apply keeps_wrQctl
    | apply keeps_wrFrySplit | apply keeps_poolFree | apply keeps_wrPtCfg | apply keeps_wrFcRange | apply keeps_wrPwrQuad
    | apply keeps_wrMsixData | apply keeps_wrPtFloor | apply keeps_wrQaSize | apply keeps_countCap | apply keeps_wrRstReq
    | apply keeps_abWrite | apply keeps_wrTnCfg | apply keeps_wrOwn | (apply Keeps.ite <;> intro _)
    | (apply Keeps.foldl; intro _ _ _) | (refine Keeps.fst (by assumption) ?_) | (simp only [↓Keeps.mk_eq]) | (split)
    | (intro _) | (dsimp only)

theorem keeps_regStore (h : Keeps K s) : Keeps K (State.regStore s b c d e) := by
  unfold State.regStore
  repeat' with_reducible first | assumption | apply keeps_regWrite | apply keeps_wakeFor | apply keeps_badReg | (split)

theorem keeps_bar0 (h : Keeps K s) : Keeps K (State.bar0 s b c d) := by
  unfold State.bar0
  repeat' with_reducible first
    | assumption | apply keeps_regRead | apply keeps_regStore | apply keeps_badReg | apply keeps_emit | (split)

theorem keeps_bootKind (h : Keeps K s) : Keeps K (State.bootKind s b) := by
  unfold State.bootKind
  try dsimp only
  repeat' with_reducible first
    | assumption | apply keeps_setFld | apply keeps_raise | apply keeps_applyConfig | apply keeps_emit
    | (simp only [↓Keeps.mk_eq]) | (split) | (intro _) | (dsimp only)

theorem keeps_setTap (h : Keeps K s) : Keeps K (State.setTap s b c) := by
  unfold State.setTap
  repeat' with_reducible first | assumption | (simp only [↓Keeps.mk_eq])

theorem keeps_boundary (h : Keeps K s) : Keeps K (State.boundary s b c) := by
  unfold State.boundary
  repeat' with_reducible first | assumption | apply keeps_setTap | apply keeps_drew | apply keeps_emit

theorem keeps_busWrite (h : Keeps K s) : Keeps K (State.busWrite s b c d e) := by
  unfold State.busWrite
  repeat' with_reducible first | assumption | apply keeps_addrFault | apply keeps_poolFree | apply keeps_regStore | (split)

theorem keeps_dropFar (h : Keeps K s) : Keeps K (State.dropFar s b) := by
  unfold State.dropFar
  repeat' with_reducible first
    | assumption | apply keeps_settleRanges | apply keeps_snoopOver | (apply Keeps.foldl; intro _ _ _)
    | (simp only [↓Keeps.mk_eq])

theorem keeps_fenceQuad (h : Keeps K s) : Keeps K (State.fenceQuad s b) := by
  unfold State.fenceQuad
  repeat' with_reducible first
    | assumption | apply keeps_sweepQuad | apply keeps_setFld | apply keeps_dropWake | apply keeps_setOwner
    | apply keeps_showQuads | (simp only [↓Keeps.mk_eq])

theorem keeps_retireQuads (h : Keeps K s) : Keeps K (State.retireQuads s b c d) := by
  unfold State.retireQuads
  repeat' with_reducible first
    | assumption | apply keeps_abortFor | apply keeps_clearQuad | apply keeps_raise | apply keeps_rebindInst
    | apply keeps_fenceQuad | (apply Keeps.foldl; intro _ _ _)

theorem keeps_dieLost (h : Keeps K s) : Keeps K (State.dieLost s b c) := by
  unfold State.dieLost
  try dsimp only
  repeat' with_reducible first
    | assumption | apply keeps_setOwner | apply keeps_raise | apply keeps_dropFar | apply keeps_retireQuads
    | apply keeps_affectAll | (apply Keeps.foldl; intro _ _ _) | (simp only [↓Keeps.mk_eq]) | (split) | (intro _) | (dsimp only)

theorem keeps_hubMemory (h : Keeps K s) : Keeps K (State.hubMemory s b) := by
  unfold State.hubMemory
  repeat' with_reducible first
    | assumption | apply keeps_setFld | apply keeps_loseObjects | (apply Keeps.foldl; intro _ _ _) | (simp only [↓Keeps.mk_eq])

theorem keeps_hubPart (h : Keeps K s) : Keeps K (State.hubPart s b) := by
  unfold State.hubPart
  repeat' with_reducible first
    | assumption | apply keeps_abortFor | apply keeps_endBuild | apply keeps_sweepQuad | apply keeps_clearQuad
    | apply keeps_dropWake | apply keeps_clearNbus | apply keeps_abortBanks | (apply Keeps.foldl; intro _ _ _)

theorem keeps_loseModule (h : Keeps K s) : Keeps K (State.loseModule s) := by
  unfold State.loseModule
  repeat' with_reducible first | assumption | (simp only [↓Keeps.mk_eq])

theorem keeps_linkDieLost (h : Keeps K s) : Keeps K (State.linkDieLost s b) := by
  unfold State.linkDieLost
  repeat' with_reducible first | assumption | apply keeps_portFall | (apply Keeps.foldl; intro _ _ _)

theorem keeps_hubLost (h : Keeps K s) : Keeps K (State.hubLost s b) := by
  unfold State.hubLost
  try dsimp only
  repeat' with_reducible first
    | assumption | apply keeps_hubMemory | apply keeps_sweepQuad | apply keeps_setFld | apply keeps_dropWake
    | apply keeps_setOwner | apply keeps_showQuads | apply keeps_raise | apply keeps_dropFar | apply keeps_hubPart
    | apply keeps_rebindInst | apply keeps_loseModule | apply keeps_affectAll | apply keeps_linkDieLost
    | (apply Keeps.foldl; intro _ _ _) | (simp only [↓Keeps.mk_eq]) | (split) | (intro _) | (dsimp only)

theorem keeps_clkLock (h : Keeps K s) : Keeps K (State.clkLock s b) := by
  unfold State.clkLock
  try dsimp only
  repeat' with_reducible first
    | assumption | apply keeps_dieLost | apply keeps_raise | apply keeps_hubLost | apply keeps_loseModule
    | apply keeps_linkDieLost | (simp only [↓Keeps.mk_eq]) | (split) | (intro _) | (dsimp only)

theorem keeps_coldUse (h : Keeps K s) : Keeps K (State.coldUse s) := by
  unfold State.coldUse
  repeat' with_reducible first
    | assumption | apply keeps_recharge | apply keeps_chargeTo | apply keeps_chargeBytes | (apply Keeps.foldl; intro _ _ _)
    | (split)

theorem keeps_showRetired (h : Keeps K s) : Keeps K (State.showRetired s) := by
  unfold State.showRetired
  repeat' with_reducible first | assumption | apply keeps_incFld | (apply Keeps.foldl; intro _ _ _) | (split)

theorem keeps_coldRegs (_ : Keeps K s) (h : Keeps K s1) : Keeps K (State.coldRegs s s1) := by
  unfold State.coldRegs
  repeat' with_reducible first
    | assumption | apply keeps_showRetired | apply keeps_setFld | apply keeps_setOwner | apply keeps_flashDies
    | apply keeps_program | (apply Keeps.foldl; intro _ _ _)

theorem keeps_coldClear (h : Keeps K s) : Keeps K (State.coldClear s) := by
  unfold State.coldClear
  dsimp only
  have h0 : Keeps K ({ s with quay := { s.quay with cmds := [] } } : State) := by
    simp only [↓Keeps.mk_eq]; exact h
  have h1 := Keeps.foldl (l := ({ s with quay := { s.quay with cmds := [] } } : State).coll.colls.map (·.1))
    (fun s c h => keeps_genRelease (b := c) (keeps_dropBuild (b := c) (keeps_cutRelease (b := c) h))) h0
  refine keeps_coldUse (keeps_coldRegs h1 ?_)
  exact Keeps.reset h1

theorem keeps_conDo (h : Keeps K s) (h_c : ∀ y0, Keeps K y0 → Keeps K (c y0)) : Keeps K (State.conDo s b c) := by
  unfold State.conDo
  try dsimp only
  repeat' with_reducible first | assumption | apply h_c | apply keeps_emit | (split) | (intro _) | (dsimp only)

theorem keeps_conLog (h : Keeps K s) : Keeps K (State.conLog s b) := by
  unfold State.conLog
  try dsimp only
  repeat' with_reducible first
    | assumption | apply keeps_emit | (apply Keeps.foldl; intro _ _ _) | (split) | (intro _) | (dsimp only)

theorem keeps_coolLeak (h : Keeps K s) : Keeps K (State.coolLeak s b) := by
  unfold State.coolLeak
  try dsimp only
  repeat' with_reducible first
    | assumption | apply keeps_raise | (simp only [↓Keeps.mk_eq]) | (split) | (intro _) | (dsimp only)

theorem keeps_dbgAttach (h : Keeps K s) : Keeps K (State.dbgAttach s b) := by
  unfold State.dbgAttach
  try dsimp only
  repeat' with_reducible first
    | assumption | apply keeps_raise | (simp only [↓Keeps.mk_eq]) | (split) | (intro _) | (dsimp only)

theorem keeps_dbgDenied (h : Keeps K s) : Keeps K (State.dbgDenied s b c) := by
  unfold State.dbgDenied
  try dsimp only
  repeat' with_reducible first
    | assumption | apply keeps_setTap | apply keeps_raise | apply keeps_emit | (split) | (intro _) | (dsimp only)

theorem keeps_tapDo (h : Keeps K s) (h_f : ∀ y0, Keeps K y0 → Keeps K (f y0)) : Keeps K (State.tapDo s b c d e f) := by
  unfold State.tapDo
  try dsimp only
  repeat' with_reducible first
    | assumption | apply h_f | apply keeps_setTap | apply keeps_dbgDenied | apply keeps_emit | (split) | (intro _)
    | (dsimp only)

theorem keeps_mWrite (h : Keeps K s) : Keeps K (State.mWrite s b c d) := by
  unfold State.mWrite
  try dsimp only
  repeat' with_reducible first | assumption | apply keeps_regStore | apply keeps_badReg | (split) | (intro _) | (dsimp only)

theorem keeps_mRead (h : Keeps K s) : Keeps K (State.mRead s b).1 := by
  unfold State.mRead
  try dsimp only
  repeat' with_reducible first | assumption | apply keeps_regRead | apply keeps_badReg | (split) | (intro _) | (dsimp only)

theorem keeps_dbgacc (h : Keeps K s) : Keeps K (State.dbgacc s b c) := by
  unfold State.dbgacc
  try dsimp only
  repeat' with_reducible first
    | assumption | apply keeps_tapDo | apply keeps_mWrite | apply keeps_mRead | apply keeps_emit | (simp only [↓Keeps.mk_eq])
    | (intro _) | (split) | (dsimp only)

theorem keeps_flushStart (h : Keeps K s) : Keeps K (State.flushStart s b) := by
  unfold State.flushStart
  try dsimp only
  repeat' with_reducible first
    | assumption | apply keeps_setFld | apply keeps_raise | (simp only [↓Keeps.mk_eq]) | (split) | (intro _) | (dsimp only)

theorem keeps_dieTemp (h : Keeps K s) : Keeps K (State.dieTemp s b c) := by
  unfold State.dieTemp
  try dsimp only
  repeat' with_reducible first
    | assumption | apply keeps_raise | apply keeps_flushStart | (simp only [↓Keeps.mk_eq]) | (split) | (intro _) | (dsimp only)

theorem keeps_setDuty (h : Keeps K s) : Keeps K (State.setDuty s b) := by
  unfold State.setDuty
  repeat' with_reducible first | assumption | apply keeps_setFld | (simp only [↓Keeps.mk_eq])

theorem keeps_pwrCap (h : Keeps K s) : Keeps K (State.pwrCap s) := by
  unfold State.pwrCap
  try dsimp only
  repeat' with_reducible first
    | assumption | apply keeps_raise | (simp only [↓Keeps.mk_eq]) | (split) | (intro _) | (dsimp only)

theorem keeps_dutyDown (h : Keeps K s) : Keeps K (State.dutyDown s) := by
  unfold State.dutyDown
  try dsimp only
  repeat' with_reducible first
    | assumption | apply keeps_setFld | apply keeps_setDuty | apply keeps_pwrCap | (split) | (intro _) | (dsimp only)

theorem keeps_firmwareUpdate (h : Keeps K s) : Keeps K (State.firmwareUpdate s b c d e) := by
  unfold State.firmwareUpdate
  try dsimp only
  repeat' with_reducible first | assumption | (simp only [↓Keeps.mk_eq]) | (split) | (intro _) | (dsimp only)

theorem keeps_flushPart (h : Keeps K s) : Keeps K (State.flushPart s b c) := by
  unfold State.flushPart
  repeat' with_reducible first | assumption | apply keeps_setCpart | apply keeps_program | (apply Keeps.foldl; intro _ _ _)

theorem keeps_flushSeal (h : Keeps K s) : Keeps K (State.flushSeal s) := by
  unfold State.flushSeal
  repeat' with_reducible first | assumption | apply keeps_coldClear | (simp only [↓Keeps.mk_eq]) | (split)

theorem keeps_wakeQuad (h : Keeps K s) : Keeps K (State.wakeQuad s b) := by
  unfold State.wakeQuad
  repeat' with_reducible first | assumption | apply keeps_incFld | apply keeps_setFld

theorem keeps_grantUpTo (h : Keeps K s) : Keeps K (State.grantUpTo s b) := by
  induction b generalizing s with
  | zero =>
    unfold State.grantUpTo
    try dsimp only
    repeat' with_reducible first
      | assumption | apply keeps_wakeQuad | (apply Keeps.ite <;> intro _) | (apply Keeps.foldl; intro _ _ _)
      | (refine Keeps.fst (by assumption) ?_) | (simp only [↓Keeps.mk_eq]) | (split) | (intro _) | (dsimp only)
  | succ f ih =>
    unfold State.grantUpTo
    try dsimp only
    repeat' with_reducible first
      | assumption | apply ih | apply keeps_wakeQuad | (apply Keeps.ite <;> intro _) | (apply Keeps.foldl; intro _ _ _)
      | (refine Keeps.fst (by assumption) ?_) | (simp only [↓Keeps.mk_eq]) | (split) | (intro _) | (dsimp only)

theorem keeps_health (h : Keeps K s) : Keeps K (State.health s) := by
  unfold State.health
  try dsimp only
  repeat' with_reducible first
    | assumption | apply keeps_setFld | apply keeps_setCause | apply keeps_raise | (split) | (intro _) | (dsimp only)

theorem keeps_holdPins (h : Keeps K s) : Keeps K (State.holdPins s b c) := by
  unfold State.holdPins
  repeat' with_reducible first | assumption | apply keeps_setTap

theorem keeps_holdup (h : Keeps K s) : Keeps K (State.holdup s b) := by
  unfold State.holdup
  try dsimp only
  repeat' with_reducible first | assumption | apply keeps_setFld | apply keeps_raise | (split) | (intro _) | (dsimp only)

theorem keeps_identifyLed (h : Keeps K s) : Keeps K (State.identifyLed s b) := by
  unfold State.identifyLed
  repeat' with_reducible first | assumption | (simp only [↓Keeps.mk_eq]) | (split)

theorem keeps_idleGate (h : Keeps K s) : Keeps K (State.idleGate s b) := by
  unfold State.idleGate
  try dsimp only
  repeat' with_reducible first | assumption | apply keeps_setFld | (split) | (intro _) | (dsimp only)

theorem keeps_lcApply (h : Keeps K s) : Keeps K (State.lcApply s b) := by
  unfold State.lcApply
  repeat' with_reducible first
    | assumption | apply keeps_coldClear | apply keeps_setFld | apply keeps_raise | apply keeps_flushRaised
    | (simp only [↓Keeps.mk_eq])

theorem keeps_lcNonce (h : Keeps K s) : Keeps K (State.lcNonce s) := by
  unfold State.lcNonce
  try dsimp only
  repeat' with_reducible first
    | assumption | apply keeps_drew | apply keeps_emit | (simp only [↓Keeps.mk_eq]) | (split) | (intro _) | (dsimp only)

theorem keeps_mgmtPower (h : Keeps K s) : Keeps K (State.mgmtPower s) := by
  unfold State.mgmtPower
  try dsimp only
  repeat' with_reducible first | assumption | (simp only [↓Keeps.mk_eq]) | (split) | (intro _) | (dsimp only)

theorem keeps_lcTransition (h : Keeps K s) : Keeps K (State.lcTransition s b c d) := by
  unfold State.lcTransition
  repeat' with_reducible first
    | assumption | apply keeps_mgmtPower | apply keeps_coldClear | apply keeps_setFld | apply keeps_emit | apply keeps_lcApply
    | (simp only [↓Keeps.mk_eq]) | (split)

theorem keeps_meas8 (h : Keeps K s) : Keeps K (State.meas8 s) := by
  unfold State.meas8
  repeat' with_reducible first | assumption | apply keeps_setMeas

theorem keeps_p48Loss (h : Keeps K s) : Keeps K (State.p48Loss s) := by
  unfold State.p48Loss
  repeat' with_reducible first
    | assumption | apply keeps_mgmtPower | apply keeps_flushStart | (simp only [↓Keeps.mk_eq]) | (split)

theorem keeps_warmSpad (h : Keeps K s) : Keeps K (State.warmSpad s) := by
  unfold State.warmSpad
  try dsimp only
  repeat' with_reducible first
    | assumption | apply keeps_setMoor | apply keeps_wipe | (apply Keeps.foldl; intro _ _ _) | (split) | (intro _)
    | (dsimp only)

theorem keeps_warmRegs (h : Keeps K s) : Keeps K (State.warmRegs s) := by
  unfold State.warmRegs
  repeat' with_reducible first | assumption | apply keeps_setReg | (apply Keeps.foldl; intro _ _ _) | (split)

theorem keeps_warmReset (h : Keeps K s) : Keeps K (State.warmReset s) := by
  unfold State.warmReset
  repeat' with_reducible first
    | assumption | apply keeps_setFld | apply keeps_warmSpad | apply keeps_dropBuild | apply keeps_warmRegs
    | apply keeps_abortRec | apply keeps_endMove | (apply Keeps.foldl; intro _ _ _) | (simp only [↓Keeps.mk_eq]) | (split)

theorem keeps_perstLow (h : Keeps K s) : Keeps K (State.perstLow s) := by
  unfold State.perstLow
  try dsimp only
  repeat' with_reducible first
    | assumption | apply keeps_warmReset | (simp only [↓Keeps.mk_eq]) | (split) | (intro _) | (dsimp only)

theorem keeps_pollCage (h : Keeps K s) : Keeps K (State.pollCage s b c) := by
  unfold State.pollCage
  repeat' with_reducible first
    | assumption | apply keeps_portFall | apply keeps_setFld | apply keeps_cableIn | apply keeps_raise
    | (simp only [↓Keeps.mk_eq]) | (split)

theorem keeps_pollCages (h : Keeps K s) : Keeps K (State.pollCages s b) := by
  unfold State.pollCages
  try dsimp only
  repeat' with_reducible first
    | assumption | apply keeps_pollCage | (apply Keeps.foldl; intro _ _ _) | (split) | (intro _) | (dsimp only)

theorem keeps_stopPorts (h : Keeps K s) : Keeps K (State.stopPorts s) := by
  unfold State.stopPorts
  repeat' with_reducible first
    | assumption | apply keeps_setPort | apply keeps_setFld | (apply Keeps.foldl; intro _ _ _) | (simp only [↓Keeps.mk_eq])

theorem keeps_powerFlush (h : Keeps K s) : Keeps K (State.powerFlush s b) := by
  unfold State.powerFlush
  repeat' with_reducible first
    | assumption | apply keeps_flushPart | apply keeps_stopPorts | (apply Keeps.foldl; intro _ _ _)
    | (simp only [↓Keeps.mk_eq]) | (split)

theorem keeps_powerSample (h : Keeps K s) : Keeps K (State.powerSample s b c) := by
  unfold State.powerSample
  try dsimp only
  repeat' with_reducible first
    | assumption | apply keeps_setFld | apply keeps_setDuty | apply keeps_raise | apply keeps_flushStart
    | apply keeps_dutyDown | apply keeps_countCap | (apply Keeps.ite <;> intro _) | (apply Keeps.foldl; intro _ _ _)
    | (refine Keeps.fst (by assumption) ?_) | (simp only [↓Keeps.mk_eq]) | (split) | (intro _) | (dsimp only)

theorem keeps_powerUp (h : Keeps K s) : Keeps K (State.powerUp s b) := by
  unfold State.powerUp
  repeat' with_reducible first | assumption | apply keeps_emit | apply keeps_lcApply | (simp only [↓Keeps.mk_eq]) | (split)

theorem keeps_pwrEnLow (h : Keeps K s) : Keeps K (State.pwrEnLow s) := by
  unfold State.pwrEnLow
  repeat' with_reducible first | assumption | apply keeps_flushStart | (simp only [↓Keeps.mk_eq]) | (split)

theorem keeps_quadRetired (h : Keeps K s) : Keeps K (State.quadRetired s b) := by
  unfold State.quadRetired
  repeat' with_reducible first | assumption | apply keeps_retireQuads | (split)

theorem keeps_recoverPart (h : Keeps K s) : Keeps K (State.recoverPart s b c) := by
  unfold State.recoverPart
  repeat' with_reducible first
    | assumption | apply keeps_tidy | apply keeps_noteOcc | apply keeps_deferReport | apply keeps_raise | apply keeps_setCpart
    | (apply Keeps.foldl; intro _ _ _) | (simp only [↓Keeps.mk_eq]) | (split)

theorem keeps_settleDrop (h : Keeps K s) : Keeps K (State.settleDrop s b) := by
  unfold State.settleDrop
  repeat' with_reducible first
    | assumption | apply keeps_setColl | apply keeps_freeAll | apply keeps_mapColl | apply keeps_freeGen
    | (apply Keeps.foldl; intro _ _ _) | (split)

theorem keeps_recovery (h : Keeps K s) : Keeps K (State.recovery s) := by
  unfold State.recovery
  repeat' with_reducible first
    | assumption | apply keeps_settleDrop | apply keeps_recoverPart | (apply Keeps.foldl; intro _ _ _)
    | (simp only [↓Keeps.mk_eq]) | (split)

theorem keeps_restoreGen' (h : Keeps K s) : Keeps K (State.restoreGen' s b c d).1 := by
  unfold State.restoreGen'
  repeat' with_reducible first | assumption | apply keeps_chargeAll | apply keeps_restoreGen | (apply Keeps.foldl; intro _ _ _)

theorem keeps_resumed (h : Keeps K s) : Keeps K (State.resumed s b) := by
  unfold State.resumed
  repeat' with_reducible first | assumption | apply keeps_raise | (simp only [↓Keeps.mk_eq]) | (split)

theorem keeps_secureBoot (h : Keeps K s) : Keeps K (State.secureBoot s b) := by
  unfold State.secureBoot
  try dsimp only
  repeat' with_reducible first
    | assumption | apply keeps_bootKind | apply keeps_meas8 | (apply Keeps.foldl; intro _ _ _) | (split) | (intro _)
    | (dsimp only)

theorem keeps_serviceFault (h : Keeps K s) : Keeps K (State.serviceFault s b) := by
  unfold State.serviceFault
  try dsimp only
  repeat' with_reducible first
    | assumption | apply keeps_loseModule | apply keeps_sweepSource | (simp only [↓Keeps.mk_eq]) | (split) | (intro _)
    | (dsimp only)

theorem keeps_stagedRestore (h : Keeps K s) : Keeps K (State.stagedRestore s b c) := by
  unfold State.stagedRestore
  repeat' with_reducible first
    | assumption | apply keeps_chargeAll | apply keeps_setTowers | apply keeps_mapColl | apply keeps_mapEntry
    | apply keeps_writeWork | apply keeps_restoreGen' | apply keeps_chargeBytes | (apply Keeps.foldl; intro _ _ _)
    | (apply Keeps.getDmap <;> intros) | (split)

theorem keeps_svnCommit (h : Keeps K s) : Keeps K (State.svnCommit s b) := by
  unfold State.svnCommit
  try dsimp only
  repeat' with_reducible first | assumption | (simp only [↓Keeps.mk_eq]) | (split) | (intro _) | (dsimp only)

theorem keeps_tmuxSel (h : Keeps K s) : Keeps K (State.tmuxSel s b c) := by
  unfold State.tmuxSel
  try dsimp only
  repeat' with_reducible first
    | assumption | apply keeps_tapDo | apply keeps_emit | (simp only [↓Keeps.mk_eq]) | (intro _) | (split) | (dsimp only)

theorem keeps_unplug (h : Keeps K s) : Keeps K (State.unplug s) := by
  unfold State.unplug
  repeat' with_reducible first
    | assumption | apply keeps_mgmtPower | apply keeps_setFld | apply keeps_flushStart | (simp only [↓Keeps.mk_eq])

theorem keeps_wakeGrant (h : Keeps K s) : Keeps K (State.wakeGrant s) := by
  unfold State.wakeGrant
  try dsimp only
  repeat' with_reducible first
    | assumption | apply keeps_grantUpTo | (simp only [↓Keeps.mk_eq]) | (split) | (intro _) | (dsimp only)

end Sys2Proof.Laws
end

