-- ==== Sys2Proof/Laws/State.lean ====
section
/-! SUPPORT. What the updates of the state leave as it was, field by field, and reads after writes of registers. -/

namespace Sys2Proof.Machine

open Sys2Proof.Safety

/-! ### State.setReg -/

@[simp] theorem State.setReg_pending (s : State) (r : Reg) (w : Word) : (s.setReg r w).pending = s.pending := rfl
@[simp] theorem State.setReg_mem (s : State) (r : Reg) (w : Word) : (s.setReg r w).mem = s.mem := rfl
@[simp] theorem State.setReg_svcTime (s : State) (r : Reg) (w : Word) : (s.setReg r w).svcTime = s.svcTime := rfl
@[simp] theorem State.setReg_fresh (s : State) (r : Reg) (w : Word) : (s.setReg r w).fresh = s.fresh := rfl
@[simp] theorem State.setReg_outbox (s : State) (r : Reg) (w : Word) : (s.setReg r w).outbox = s.outbox := rfl
@[simp] theorem State.setReg_evt (s : State) (r : Reg) (w : Word) : (s.setReg r w).evt = s.evt := rfl
@[simp] theorem State.setReg_net (s : State) (r : Reg) (w : Word) : (s.setReg r w).net = s.net := rfl
@[simp] theorem State.setReg_part (s : State) (r : Reg) (w : Word) : (s.setReg r w).part = s.part := rfl
@[simp] theorem State.setReg_trust (s : State) (r : Reg) (w : Word) : (s.setReg r w).trust = s.trust := rfl
@[simp] theorem State.setReg_pwr (s : State) (r : Reg) (w : Word) : (s.setReg r w).pwr = s.pwr := rfl
@[simp] theorem State.setReg_hw (s : State) (r : Reg) (w : Word) : (s.setReg r w).hw = s.hw := rfl
@[simp] theorem State.setReg_dbg (s : State) (r : Reg) (w : Word) : (s.setReg r w).dbg = s.dbg := rfl
@[simp] theorem State.setReg_fab (s : State) (r : Reg) (w : Word) : (s.setReg r w).fab = s.fab := rfl
@[simp] theorem State.setReg_tier (s : State) (r : Reg) (w : Word) : (s.setReg r w).tier = s.tier := rfl
@[simp] theorem State.setReg_quay (s : State) (r : Reg) (w : Word) : (s.setReg r w).quay = s.quay := rfl
@[simp] theorem State.setReg_ctl (s : State) (r : Reg) (w : Word) : (s.setReg r w).ctl = s.ctl := rfl
@[simp] theorem State.setReg_arith (s : State) (r : Reg) (w : Word) : (s.setReg r w).arith = s.arith := rfl
@[simp] theorem State.setReg_rank (s : State) (r : Reg) (w : Word) : (s.setReg r w).rank = s.rank := rfl
@[simp] theorem State.setReg_fry (s : State) (r : Reg) (w : Word) : (s.setReg r w).fry = s.fry := rfl
@[simp] theorem State.setReg_sk (s : State) (r : Reg) (w : Word) : (s.setReg r w).sk = s.sk := rfl
@[simp] theorem State.setReg_eng (s : State) (r : Reg) (w : Word) : (s.setReg r w).eng = s.eng := rfl
@[simp] theorem State.setReg_coll (s : State) (r : Reg) (w : Word) : (s.setReg r w).coll = s.coll := rfl

/-! ### State.setFld -/

@[simp] theorem State.setFld_pending (s : State) (r : Reg) (f : Fld) (v : Nat) : (s.setFld r f v).pending = s.pending := State.setReg_pending ..
@[simp] theorem State.setFld_mem (s : State) (r : Reg) (f : Fld) (v : Nat) : (s.setFld r f v).mem = s.mem := State.setReg_mem ..
@[simp] theorem State.setFld_svcTime (s : State) (r : Reg) (f : Fld) (v : Nat) : (s.setFld r f v).svcTime = s.svcTime := State.setReg_svcTime ..
@[simp] theorem State.setFld_fresh (s : State) (r : Reg) (f : Fld) (v : Nat) : (s.setFld r f v).fresh = s.fresh := State.setReg_fresh ..
@[simp] theorem State.setFld_outbox (s : State) (r : Reg) (f : Fld) (v : Nat) : (s.setFld r f v).outbox = s.outbox := State.setReg_outbox ..
@[simp] theorem State.setFld_evt (s : State) (r : Reg) (f : Fld) (v : Nat) : (s.setFld r f v).evt = s.evt := State.setReg_evt ..
@[simp] theorem State.setFld_net (s : State) (r : Reg) (f : Fld) (v : Nat) : (s.setFld r f v).net = s.net := State.setReg_net ..
@[simp] theorem State.setFld_part (s : State) (r : Reg) (f : Fld) (v : Nat) : (s.setFld r f v).part = s.part := State.setReg_part ..
@[simp] theorem State.setFld_trust (s : State) (r : Reg) (f : Fld) (v : Nat) : (s.setFld r f v).trust = s.trust := State.setReg_trust ..
@[simp] theorem State.setFld_pwr (s : State) (r : Reg) (f : Fld) (v : Nat) : (s.setFld r f v).pwr = s.pwr := State.setReg_pwr ..
@[simp] theorem State.setFld_hw (s : State) (r : Reg) (f : Fld) (v : Nat) : (s.setFld r f v).hw = s.hw := State.setReg_hw ..
@[simp] theorem State.setFld_dbg (s : State) (r : Reg) (f : Fld) (v : Nat) : (s.setFld r f v).dbg = s.dbg := State.setReg_dbg ..
@[simp] theorem State.setFld_fab (s : State) (r : Reg) (f : Fld) (v : Nat) : (s.setFld r f v).fab = s.fab := State.setReg_fab ..
@[simp] theorem State.setFld_tier (s : State) (r : Reg) (f : Fld) (v : Nat) : (s.setFld r f v).tier = s.tier := State.setReg_tier ..
@[simp] theorem State.setFld_quay (s : State) (r : Reg) (f : Fld) (v : Nat) : (s.setFld r f v).quay = s.quay := State.setReg_quay ..
@[simp] theorem State.setFld_ctl (s : State) (r : Reg) (f : Fld) (v : Nat) : (s.setFld r f v).ctl = s.ctl := State.setReg_ctl ..
@[simp] theorem State.setFld_arith (s : State) (r : Reg) (f : Fld) (v : Nat) : (s.setFld r f v).arith = s.arith := State.setReg_arith ..
@[simp] theorem State.setFld_rank (s : State) (r : Reg) (f : Fld) (v : Nat) : (s.setFld r f v).rank = s.rank := State.setReg_rank ..
@[simp] theorem State.setFld_fry (s : State) (r : Reg) (f : Fld) (v : Nat) : (s.setFld r f v).fry = s.fry := State.setReg_fry ..
@[simp] theorem State.setFld_sk (s : State) (r : Reg) (f : Fld) (v : Nat) : (s.setFld r f v).sk = s.sk := State.setReg_sk ..
@[simp] theorem State.setFld_eng (s : State) (r : Reg) (f : Fld) (v : Nat) : (s.setFld r f v).eng = s.eng := State.setReg_eng ..
@[simp] theorem State.setFld_coll (s : State) (r : Reg) (f : Fld) (v : Nat) : (s.setFld r f v).coll = s.coll := State.setReg_coll ..

/-! ### State.incFld -/

@[simp] theorem State.incFld_pending (s : State) (r : Reg) (f : Fld) (n : Nat) : (s.incFld r f n).pending = s.pending := State.setFld_pending ..
@[simp] theorem State.incFld_mem (s : State) (r : Reg) (f : Fld) (n : Nat) : (s.incFld r f n).mem = s.mem := State.setFld_mem ..
@[simp] theorem State.incFld_svcTime (s : State) (r : Reg) (f : Fld) (n : Nat) : (s.incFld r f n).svcTime = s.svcTime := State.setFld_svcTime ..
@[simp] theorem State.incFld_fresh (s : State) (r : Reg) (f : Fld) (n : Nat) : (s.incFld r f n).fresh = s.fresh := State.setFld_fresh ..
@[simp] theorem State.incFld_outbox (s : State) (r : Reg) (f : Fld) (n : Nat) : (s.incFld r f n).outbox = s.outbox := State.setFld_outbox ..
@[simp] theorem State.incFld_evt (s : State) (r : Reg) (f : Fld) (n : Nat) : (s.incFld r f n).evt = s.evt := State.setFld_evt ..
@[simp] theorem State.incFld_net (s : State) (r : Reg) (f : Fld) (n : Nat) : (s.incFld r f n).net = s.net := State.setFld_net ..
@[simp] theorem State.incFld_part (s : State) (r : Reg) (f : Fld) (n : Nat) : (s.incFld r f n).part = s.part := State.setFld_part ..
@[simp] theorem State.incFld_trust (s : State) (r : Reg) (f : Fld) (n : Nat) : (s.incFld r f n).trust = s.trust := State.setFld_trust ..
@[simp] theorem State.incFld_pwr (s : State) (r : Reg) (f : Fld) (n : Nat) : (s.incFld r f n).pwr = s.pwr := State.setFld_pwr ..
@[simp] theorem State.incFld_hw (s : State) (r : Reg) (f : Fld) (n : Nat) : (s.incFld r f n).hw = s.hw := State.setFld_hw ..
@[simp] theorem State.incFld_dbg (s : State) (r : Reg) (f : Fld) (n : Nat) : (s.incFld r f n).dbg = s.dbg := State.setFld_dbg ..
@[simp] theorem State.incFld_fab (s : State) (r : Reg) (f : Fld) (n : Nat) : (s.incFld r f n).fab = s.fab := State.setFld_fab ..
@[simp] theorem State.incFld_tier (s : State) (r : Reg) (f : Fld) (n : Nat) : (s.incFld r f n).tier = s.tier := State.setFld_tier ..
@[simp] theorem State.incFld_quay (s : State) (r : Reg) (f : Fld) (n : Nat) : (s.incFld r f n).quay = s.quay := State.setFld_quay ..
@[simp] theorem State.incFld_ctl (s : State) (r : Reg) (f : Fld) (n : Nat) : (s.incFld r f n).ctl = s.ctl := State.setFld_ctl ..
@[simp] theorem State.incFld_arith (s : State) (r : Reg) (f : Fld) (n : Nat) : (s.incFld r f n).arith = s.arith := State.setFld_arith ..
@[simp] theorem State.incFld_rank (s : State) (r : Reg) (f : Fld) (n : Nat) : (s.incFld r f n).rank = s.rank := State.setFld_rank ..
@[simp] theorem State.incFld_fry (s : State) (r : Reg) (f : Fld) (n : Nat) : (s.incFld r f n).fry = s.fry := State.setFld_fry ..
@[simp] theorem State.incFld_sk (s : State) (r : Reg) (f : Fld) (n : Nat) : (s.incFld r f n).sk = s.sk := State.setFld_sk ..
@[simp] theorem State.incFld_eng (s : State) (r : Reg) (f : Fld) (n : Nat) : (s.incFld r f n).eng = s.eng := State.setFld_eng ..
@[simp] theorem State.incFld_coll (s : State) (r : Reg) (f : Fld) (n : Nat) : (s.incFld r f n).coll = s.coll := State.setFld_coll ..

/-! ### State.setSem -/

@[simp] theorem State.setSem_pending (s : State) (q j v : Nat) : (s.setSem q j v).pending = s.pending := State.setFld_pending ..
@[simp] theorem State.setSem_mem (s : State) (q j v : Nat) : (s.setSem q j v).mem = s.mem := State.setFld_mem ..
@[simp] theorem State.setSem_svcTime (s : State) (q j v : Nat) : (s.setSem q j v).svcTime = s.svcTime := State.setFld_svcTime ..
@[simp] theorem State.setSem_fresh (s : State) (q j v : Nat) : (s.setSem q j v).fresh = s.fresh := State.setFld_fresh ..
@[simp] theorem State.setSem_outbox (s : State) (q j v : Nat) : (s.setSem q j v).outbox = s.outbox := State.setFld_outbox ..
@[simp] theorem State.setSem_evt (s : State) (q j v : Nat) : (s.setSem q j v).evt = s.evt := State.setFld_evt ..
@[simp] theorem State.setSem_net (s : State) (q j v : Nat) : (s.setSem q j v).net = s.net := State.setFld_net ..
@[simp] theorem State.setSem_part (s : State) (q j v : Nat) : (s.setSem q j v).part = s.part := State.setFld_part ..
@[simp] theorem State.setSem_trust (s : State) (q j v : Nat) : (s.setSem q j v).trust = s.trust := State.setFld_trust ..
@[simp] theorem State.setSem_pwr (s : State) (q j v : Nat) : (s.setSem q j v).pwr = s.pwr := State.setFld_pwr ..
@[simp] theorem State.setSem_hw (s : State) (q j v : Nat) : (s.setSem q j v).hw = s.hw := State.setFld_hw ..
@[simp] theorem State.setSem_dbg (s : State) (q j v : Nat) : (s.setSem q j v).dbg = s.dbg := State.setFld_dbg ..
@[simp] theorem State.setSem_fab (s : State) (q j v : Nat) : (s.setSem q j v).fab = s.fab := State.setFld_fab ..
@[simp] theorem State.setSem_tier (s : State) (q j v : Nat) : (s.setSem q j v).tier = s.tier := State.setFld_tier ..
@[simp] theorem State.setSem_quay (s : State) (q j v : Nat) : (s.setSem q j v).quay = s.quay := State.setFld_quay ..
@[simp] theorem State.setSem_ctl (s : State) (q j v : Nat) : (s.setSem q j v).ctl = s.ctl := State.setFld_ctl ..
@[simp] theorem State.setSem_arith (s : State) (q j v : Nat) : (s.setSem q j v).arith = s.arith := State.setFld_arith ..
@[simp] theorem State.setSem_rank (s : State) (q j v : Nat) : (s.setSem q j v).rank = s.rank := State.setFld_rank ..
@[simp] theorem State.setSem_fry (s : State) (q j v : Nat) : (s.setSem q j v).fry = s.fry := State.setFld_fry ..
@[simp] theorem State.setSem_sk (s : State) (q j v : Nat) : (s.setSem q j v).sk = s.sk := State.setFld_sk ..
@[simp] theorem State.setSem_eng (s : State) (q j v : Nat) : (s.setSem q j v).eng = s.eng := State.setFld_eng ..
@[simp] theorem State.setSem_coll (s : State) (q j v : Nat) : (s.setSem q j v).coll = s.coll := State.setFld_coll ..

/-! ### State.setOwner -/

@[simp] theorem State.setOwner_pending (s : State) (kind i b : Nat) : (s.setOwner kind i b).pending = s.pending := State.setReg_pending ..
@[simp] theorem State.setOwner_mem (s : State) (kind i b : Nat) : (s.setOwner kind i b).mem = s.mem := State.setReg_mem ..
@[simp] theorem State.setOwner_svcTime (s : State) (kind i b : Nat) : (s.setOwner kind i b).svcTime = s.svcTime := State.setReg_svcTime ..
@[simp] theorem State.setOwner_fresh (s : State) (kind i b : Nat) : (s.setOwner kind i b).fresh = s.fresh := State.setReg_fresh ..
@[simp] theorem State.setOwner_outbox (s : State) (kind i b : Nat) : (s.setOwner kind i b).outbox = s.outbox := State.setReg_outbox ..
@[simp] theorem State.setOwner_evt (s : State) (kind i b : Nat) : (s.setOwner kind i b).evt = s.evt := State.setReg_evt ..
@[simp] theorem State.setOwner_net (s : State) (kind i b : Nat) : (s.setOwner kind i b).net = s.net := State.setReg_net ..
@[simp] theorem State.setOwner_part (s : State) (kind i b : Nat) : (s.setOwner kind i b).part = s.part := State.setReg_part ..
@[simp] theorem State.setOwner_trust (s : State) (kind i b : Nat) : (s.setOwner kind i b).trust = s.trust := State.setReg_trust ..
@[simp] theorem State.setOwner_pwr (s : State) (kind i b : Nat) : (s.setOwner kind i b).pwr = s.pwr := State.setReg_pwr ..
@[simp] theorem State.setOwner_hw (s : State) (kind i b : Nat) : (s.setOwner kind i b).hw = s.hw := State.setReg_hw ..
@[simp] theorem State.setOwner_dbg (s : State) (kind i b : Nat) : (s.setOwner kind i b).dbg = s.dbg := State.setReg_dbg ..
@[simp] theorem State.setOwner_fab (s : State) (kind i b : Nat) : (s.setOwner kind i b).fab = s.fab := State.setReg_fab ..
@[simp] theorem State.setOwner_tier (s : State) (kind i b : Nat) : (s.setOwner kind i b).tier = s.tier := State.setReg_tier ..
@[simp] theorem State.setOwner_quay (s : State) (kind i b : Nat) : (s.setOwner kind i b).quay = s.quay := State.setReg_quay ..
@[simp] theorem State.setOwner_ctl (s : State) (kind i b : Nat) : (s.setOwner kind i b).ctl = s.ctl := State.setReg_ctl ..
@[simp] theorem State.setOwner_arith (s : State) (kind i b : Nat) : (s.setOwner kind i b).arith = s.arith := State.setReg_arith ..
@[simp] theorem State.setOwner_rank (s : State) (kind i b : Nat) : (s.setOwner kind i b).rank = s.rank := State.setReg_rank ..
@[simp] theorem State.setOwner_fry (s : State) (kind i b : Nat) : (s.setOwner kind i b).fry = s.fry := State.setReg_fry ..
@[simp] theorem State.setOwner_sk (s : State) (kind i b : Nat) : (s.setOwner kind i b).sk = s.sk := State.setReg_sk ..
@[simp] theorem State.setOwner_eng (s : State) (kind i b : Nat) : (s.setOwner kind i b).eng = s.eng := State.setReg_eng ..
@[simp] theorem State.setOwner_coll (s : State) (kind i b : Nat) : (s.setOwner kind i b).coll = s.coll := State.setReg_coll ..

/-! ### State.setSrcSt -/

@[simp] theorem State.setSrcSt_pending (s : State) (src : Nat) (v : SrcSt) : (s.setSrcSt src v).pending = s.pending := rfl
@[simp] theorem State.setSrcSt_regs (s : State) (src : Nat) (v : SrcSt) : (s.setSrcSt src v).regs = s.regs := rfl
@[simp] theorem State.setSrcSt_mem (s : State) (src : Nat) (v : SrcSt) : (s.setSrcSt src v).mem = s.mem := rfl
@[simp] theorem State.setSrcSt_svcTime (s : State) (src : Nat) (v : SrcSt) : (s.setSrcSt src v).svcTime = s.svcTime := rfl
@[simp] theorem State.setSrcSt_fresh (s : State) (src : Nat) (v : SrcSt) : (s.setSrcSt src v).fresh = s.fresh := rfl
@[simp] theorem State.setSrcSt_outbox (s : State) (src : Nat) (v : SrcSt) : (s.setSrcSt src v).outbox = s.outbox := rfl
@[simp] theorem State.setSrcSt_net (s : State) (src : Nat) (v : SrcSt) : (s.setSrcSt src v).net = s.net := rfl
@[simp] theorem State.setSrcSt_part (s : State) (src : Nat) (v : SrcSt) : (s.setSrcSt src v).part = s.part := rfl
@[simp] theorem State.setSrcSt_trust (s : State) (src : Nat) (v : SrcSt) : (s.setSrcSt src v).trust = s.trust := rfl
@[simp] theorem State.setSrcSt_pwr (s : State) (src : Nat) (v : SrcSt) : (s.setSrcSt src v).pwr = s.pwr := rfl
@[simp] theorem State.setSrcSt_hw (s : State) (src : Nat) (v : SrcSt) : (s.setSrcSt src v).hw = s.hw := rfl
@[simp] theorem State.setSrcSt_dbg (s : State) (src : Nat) (v : SrcSt) : (s.setSrcSt src v).dbg = s.dbg := rfl
@[simp] theorem State.setSrcSt_fab (s : State) (src : Nat) (v : SrcSt) : (s.setSrcSt src v).fab = s.fab := rfl
@[simp] theorem State.setSrcSt_tier (s : State) (src : Nat) (v : SrcSt) : (s.setSrcSt src v).tier = s.tier := rfl
@[simp] theorem State.setSrcSt_quay (s : State) (src : Nat) (v : SrcSt) : (s.setSrcSt src v).quay = s.quay := rfl
@[simp] theorem State.setSrcSt_ctl (s : State) (src : Nat) (v : SrcSt) : (s.setSrcSt src v).ctl = s.ctl := rfl
@[simp] theorem State.setSrcSt_arith (s : State) (src : Nat) (v : SrcSt) : (s.setSrcSt src v).arith = s.arith := rfl
@[simp] theorem State.setSrcSt_rank (s : State) (src : Nat) (v : SrcSt) : (s.setSrcSt src v).rank = s.rank := rfl
@[simp] theorem State.setSrcSt_fry (s : State) (src : Nat) (v : SrcSt) : (s.setSrcSt src v).fry = s.fry := rfl
@[simp] theorem State.setSrcSt_sk (s : State) (src : Nat) (v : SrcSt) : (s.setSrcSt src v).sk = s.sk := rfl
@[simp] theorem State.setSrcSt_eng (s : State) (src : Nat) (v : SrcSt) : (s.setSrcSt src v).eng = s.eng := rfl
@[simp] theorem State.setSrcSt_coll (s : State) (src : Nat) (v : SrcSt) : (s.setSrcSt src v).coll = s.coll := rfl
@[simp] theorem State.setSrcSt_reg (s : State) (src : Nat) (v : SrcSt) (x : Reg) : (s.setSrcSt src v).reg x = s.reg x := rfl
@[simp] theorem State.setSrcSt_fld (s : State) (src : Nat) (v : SrcSt) (x : Reg) (y : Fld) : (s.setSrcSt src v).fld x y = s.fld x y := rfl
@[simp] theorem State.setSrcSt_flag (s : State) (src : Nat) (v : SrcSt) (x : Reg) (y : Fld) : (s.setSrcSt src v).flag x y = s.flag x y := rfl

/-! ### State.raiseRec -/

@[simp] theorem State.raiseRec_pending (s : State) (log src code : Nat) (data : List Byte) : (s.raiseRec log src code data).pending = s.pending := rfl
@[simp] theorem State.raiseRec_regs (s : State) (log src code : Nat) (data : List Byte) : (s.raiseRec log src code data).regs = s.regs := rfl
@[simp] theorem State.raiseRec_mem (s : State) (log src code : Nat) (data : List Byte) : (s.raiseRec log src code data).mem = s.mem := rfl
@[simp] theorem State.raiseRec_svcTime (s : State) (log src code : Nat) (data : List Byte) : (s.raiseRec log src code data).svcTime = s.svcTime := rfl
@[simp] theorem State.raiseRec_fresh (s : State) (log src code : Nat) (data : List Byte) : (s.raiseRec log src code data).fresh = s.fresh := rfl
@[simp] theorem State.raiseRec_outbox (s : State) (log src code : Nat) (data : List Byte) : (s.raiseRec log src code data).outbox = s.outbox := rfl
@[simp] theorem State.raiseRec_net (s : State) (log src code : Nat) (data : List Byte) : (s.raiseRec log src code data).net = s.net := rfl
@[simp] theorem State.raiseRec_part (s : State) (log src code : Nat) (data : List Byte) : (s.raiseRec log src code data).part = s.part := rfl
@[simp] theorem State.raiseRec_trust (s : State) (log src code : Nat) (data : List Byte) : (s.raiseRec log src code data).trust = s.trust := rfl
@[simp] theorem State.raiseRec_pwr (s : State) (log src code : Nat) (data : List Byte) : (s.raiseRec log src code data).pwr = s.pwr := rfl
@[simp] theorem State.raiseRec_hw (s : State) (log src code : Nat) (data : List Byte) : (s.raiseRec log src code data).hw = s.hw := rfl
@[simp] theorem State.raiseRec_dbg (s : State) (log src code : Nat) (data : List Byte) : (s.raiseRec log src code data).dbg = s.dbg := rfl
@[simp] theorem State.raiseRec_fab (s : State) (log src code : Nat) (data : List Byte) : (s.raiseRec log src code data).fab = s.fab := rfl
@[simp] theorem State.raiseRec_tier (s : State) (log src code : Nat) (data : List Byte) : (s.raiseRec log src code data).tier = s.tier := rfl
@[simp] theorem State.raiseRec_quay (s : State) (log src code : Nat) (data : List Byte) : (s.raiseRec log src code data).quay = s.quay := rfl
@[simp] theorem State.raiseRec_ctl (s : State) (log src code : Nat) (data : List Byte) : (s.raiseRec log src code data).ctl = s.ctl := rfl
@[simp] theorem State.raiseRec_arith (s : State) (log src code : Nat) (data : List Byte) : (s.raiseRec log src code data).arith = s.arith := rfl
@[simp] theorem State.raiseRec_rank (s : State) (log src code : Nat) (data : List Byte) : (s.raiseRec log src code data).rank = s.rank := rfl
@[simp] theorem State.raiseRec_fry (s : State) (log src code : Nat) (data : List Byte) : (s.raiseRec log src code data).fry = s.fry := rfl
@[simp] theorem State.raiseRec_sk (s : State) (log src code : Nat) (data : List Byte) : (s.raiseRec log src code data).sk = s.sk := rfl
@[simp] theorem State.raiseRec_eng (s : State) (log src code : Nat) (data : List Byte) : (s.raiseRec log src code data).eng = s.eng := rfl
@[simp] theorem State.raiseRec_coll (s : State) (log src code : Nat) (data : List Byte) : (s.raiseRec log src code data).coll = s.coll := rfl
@[simp] theorem State.raiseRec_reg (s : State) (log src code : Nat) (data : List Byte) (x : Reg) : (s.raiseRec log src code data).reg x = s.reg x := rfl
@[simp] theorem State.raiseRec_fld (s : State) (log src code : Nat) (data : List Byte) (x : Reg) (y : Fld) : (s.raiseRec log src code data).fld x y = s.fld x y := rfl
@[simp] theorem State.raiseRec_flag (s : State) (log src code : Nat) (data : List Byte) (x : Reg) (y : Fld) : (s.raiseRec log src code data).flag x y = s.flag x y := rfl

/-! ### State.emit -/

@[simp] theorem State.emit_pending (s : State) (o : Out) : (s.emit o).pending = s.pending := rfl
@[simp] theorem State.emit_regs (s : State) (o : Out) : (s.emit o).regs = s.regs := rfl
@[simp] theorem State.emit_mem (s : State) (o : Out) : (s.emit o).mem = s.mem := rfl
@[simp] theorem State.emit_svcTime (s : State) (o : Out) : (s.emit o).svcTime = s.svcTime := rfl
@[simp] theorem State.emit_fresh (s : State) (o : Out) : (s.emit o).fresh = s.fresh := rfl
@[simp] theorem State.emit_evt (s : State) (o : Out) : (s.emit o).evt = s.evt := rfl
@[simp] theorem State.emit_net (s : State) (o : Out) : (s.emit o).net = s.net := rfl
@[simp] theorem State.emit_part (s : State) (o : Out) : (s.emit o).part = s.part := rfl
@[simp] theorem State.emit_trust (s : State) (o : Out) : (s.emit o).trust = s.trust := rfl
@[simp] theorem State.emit_pwr (s : State) (o : Out) : (s.emit o).pwr = s.pwr := rfl
@[simp] theorem State.emit_hw (s : State) (o : Out) : (s.emit o).hw = s.hw := rfl
@[simp] theorem State.emit_dbg (s : State) (o : Out) : (s.emit o).dbg = s.dbg := rfl
@[simp] theorem State.emit_fab (s : State) (o : Out) : (s.emit o).fab = s.fab := rfl
@[simp] theorem State.emit_tier (s : State) (o : Out) : (s.emit o).tier = s.tier := rfl
@[simp] theorem State.emit_quay (s : State) (o : Out) : (s.emit o).quay = s.quay := rfl
@[simp] theorem State.emit_ctl (s : State) (o : Out) : (s.emit o).ctl = s.ctl := rfl
@[simp] theorem State.emit_arith (s : State) (o : Out) : (s.emit o).arith = s.arith := rfl
@[simp] theorem State.emit_rank (s : State) (o : Out) : (s.emit o).rank = s.rank := rfl
@[simp] theorem State.emit_fry (s : State) (o : Out) : (s.emit o).fry = s.fry := rfl
@[simp] theorem State.emit_sk (s : State) (o : Out) : (s.emit o).sk = s.sk := rfl
@[simp] theorem State.emit_eng (s : State) (o : Out) : (s.emit o).eng = s.eng := rfl
@[simp] theorem State.emit_coll (s : State) (o : Out) : (s.emit o).coll = s.coll := rfl
@[simp] theorem State.emit_reg (s : State) (o : Out) (x : Reg) : (s.emit o).reg x = s.reg x := rfl
@[simp] theorem State.emit_fld (s : State) (o : Out) (x : Reg) (y : Fld) : (s.emit o).fld x y = s.fld x y := rfl
@[simp] theorem State.emit_flag (s : State) (o : Out) (x : Reg) (y : Fld) : (s.emit o).flag x y = s.flag x y := rfl

/-! ### State.drew -/

@[simp] theorem State.drew_pending (s : State) : s.drew.pending = s.pending := rfl
@[simp] theorem State.drew_regs (s : State) : s.drew.regs = s.regs := rfl
@[simp] theorem State.drew_mem (s : State) : s.drew.mem = s.mem := rfl
@[simp] theorem State.drew_svcTime (s : State) : s.drew.svcTime = s.svcTime := rfl
@[simp] theorem State.drew_outbox (s : State) : s.drew.outbox = s.outbox := rfl
@[simp] theorem State.drew_evt (s : State) : s.drew.evt = s.evt := rfl
@[simp] theorem State.drew_net (s : State) : s.drew.net = s.net := rfl
@[simp] theorem State.drew_part (s : State) : s.drew.part = s.part := rfl
@[simp] theorem State.drew_trust (s : State) : s.drew.trust = s.trust := rfl
@[simp] theorem State.drew_pwr (s : State) : s.drew.pwr = s.pwr := rfl
@[simp] theorem State.drew_hw (s : State) : s.drew.hw = s.hw := rfl
@[simp] theorem State.drew_dbg (s : State) : s.drew.dbg = s.dbg := rfl
@[simp] theorem State.drew_fab (s : State) : s.drew.fab = s.fab := rfl
@[simp] theorem State.drew_tier (s : State) : s.drew.tier = s.tier := rfl
@[simp] theorem State.drew_quay (s : State) : s.drew.quay = s.quay := rfl
@[simp] theorem State.drew_ctl (s : State) : s.drew.ctl = s.ctl := rfl
@[simp] theorem State.drew_arith (s : State) : s.drew.arith = s.arith := rfl
@[simp] theorem State.drew_rank (s : State) : s.drew.rank = s.rank := rfl
@[simp] theorem State.drew_fry (s : State) : s.drew.fry = s.fry := rfl
@[simp] theorem State.drew_sk (s : State) : s.drew.sk = s.sk := rfl
@[simp] theorem State.drew_eng (s : State) : s.drew.eng = s.eng := rfl
@[simp] theorem State.drew_coll (s : State) : s.drew.coll = s.coll := rfl
@[simp] theorem State.drew_reg (s : State) (x : Reg) : s.drew.reg x = s.reg x := rfl
@[simp] theorem State.drew_fld (s : State) (x : Reg) (y : Fld) : s.drew.fld x y = s.fld x y := rfl
@[simp] theorem State.drew_flag (s : State) (x : Reg) (y : Fld) : s.drew.flag x y = s.flag x y := rfl

/-! ### State.drewN -/

@[simp] theorem State.drewN_pending (s : State) (n : Nat) : (s.drewN n).pending = s.pending := rfl
@[simp] theorem State.drewN_regs (s : State) (n : Nat) : (s.drewN n).regs = s.regs := rfl
@[simp] theorem State.drewN_mem (s : State) (n : Nat) : (s.drewN n).mem = s.mem := rfl
@[simp] theorem State.drewN_svcTime (s : State) (n : Nat) : (s.drewN n).svcTime = s.svcTime := rfl
@[simp] theorem State.drewN_outbox (s : State) (n : Nat) : (s.drewN n).outbox = s.outbox := rfl
@[simp] theorem State.drewN_evt (s : State) (n : Nat) : (s.drewN n).evt = s.evt := rfl
@[simp] theorem State.drewN_net (s : State) (n : Nat) : (s.drewN n).net = s.net := rfl
@[simp] theorem State.drewN_part (s : State) (n : Nat) : (s.drewN n).part = s.part := rfl
@[simp] theorem State.drewN_trust (s : State) (n : Nat) : (s.drewN n).trust = s.trust := rfl
@[simp] theorem State.drewN_pwr (s : State) (n : Nat) : (s.drewN n).pwr = s.pwr := rfl
@[simp] theorem State.drewN_hw (s : State) (n : Nat) : (s.drewN n).hw = s.hw := rfl
@[simp] theorem State.drewN_dbg (s : State) (n : Nat) : (s.drewN n).dbg = s.dbg := rfl
@[simp] theorem State.drewN_fab (s : State) (n : Nat) : (s.drewN n).fab = s.fab := rfl
@[simp] theorem State.drewN_tier (s : State) (n : Nat) : (s.drewN n).tier = s.tier := rfl
@[simp] theorem State.drewN_quay (s : State) (n : Nat) : (s.drewN n).quay = s.quay := rfl
@[simp] theorem State.drewN_ctl (s : State) (n : Nat) : (s.drewN n).ctl = s.ctl := rfl
@[simp] theorem State.drewN_arith (s : State) (n : Nat) : (s.drewN n).arith = s.arith := rfl
@[simp] theorem State.drewN_rank (s : State) (n : Nat) : (s.drewN n).rank = s.rank := rfl
@[simp] theorem State.drewN_fry (s : State) (n : Nat) : (s.drewN n).fry = s.fry := rfl
@[simp] theorem State.drewN_sk (s : State) (n : Nat) : (s.drewN n).sk = s.sk := rfl
@[simp] theorem State.drewN_eng (s : State) (n : Nat) : (s.drewN n).eng = s.eng := rfl
@[simp] theorem State.drewN_coll (s : State) (n : Nat) : (s.drewN n).coll = s.coll := rfl
@[simp] theorem State.drewN_reg (s : State) (n : Nat) (x : Reg) : (s.drewN n).reg x = s.reg x := rfl
@[simp] theorem State.drewN_fld (s : State) (n : Nat) (x : Reg) (y : Fld) : (s.drewN n).fld x y = s.fld x y := rfl
@[simp] theorem State.drewN_flag (s : State) (n : Nat) (x : Reg) (y : Fld) : (s.drewN n).flag x y = s.flag x y := rfl

/-! ### State.wr -/

@[simp] theorem State.wr_pending (s : State) (a : Nat) (bs : List Byte) : (s.wr a bs).pending = s.pending := rfl
@[simp] theorem State.wr_regs (s : State) (a : Nat) (bs : List Byte) : (s.wr a bs).regs = s.regs := rfl
@[simp] theorem State.wr_svcTime (s : State) (a : Nat) (bs : List Byte) : (s.wr a bs).svcTime = s.svcTime := rfl
@[simp] theorem State.wr_fresh (s : State) (a : Nat) (bs : List Byte) : (s.wr a bs).fresh = s.fresh := rfl
@[simp] theorem State.wr_outbox (s : State) (a : Nat) (bs : List Byte) : (s.wr a bs).outbox = s.outbox := rfl
@[simp] theorem State.wr_evt (s : State) (a : Nat) (bs : List Byte) : (s.wr a bs).evt = s.evt := rfl
@[simp] theorem State.wr_net (s : State) (a : Nat) (bs : List Byte) : (s.wr a bs).net = s.net := rfl
@[simp] theorem State.wr_part (s : State) (a : Nat) (bs : List Byte) : (s.wr a bs).part = s.part := rfl
@[simp] theorem State.wr_trust (s : State) (a : Nat) (bs : List Byte) : (s.wr a bs).trust = s.trust := rfl
@[simp] theorem State.wr_pwr (s : State) (a : Nat) (bs : List Byte) : (s.wr a bs).pwr = s.pwr := rfl
@[simp] theorem State.wr_hw (s : State) (a : Nat) (bs : List Byte) : (s.wr a bs).hw = s.hw := rfl
@[simp] theorem State.wr_dbg (s : State) (a : Nat) (bs : List Byte) : (s.wr a bs).dbg = s.dbg := rfl
@[simp] theorem State.wr_fab (s : State) (a : Nat) (bs : List Byte) : (s.wr a bs).fab = s.fab := rfl
@[simp] theorem State.wr_tier (s : State) (a : Nat) (bs : List Byte) : (s.wr a bs).tier = s.tier := rfl
@[simp] theorem State.wr_quay (s : State) (a : Nat) (bs : List Byte) : (s.wr a bs).quay = s.quay := rfl
@[simp] theorem State.wr_ctl (s : State) (a : Nat) (bs : List Byte) : (s.wr a bs).ctl = s.ctl := rfl
@[simp] theorem State.wr_arith (s : State) (a : Nat) (bs : List Byte) : (s.wr a bs).arith = s.arith := rfl
@[simp] theorem State.wr_rank (s : State) (a : Nat) (bs : List Byte) : (s.wr a bs).rank = s.rank := rfl
@[simp] theorem State.wr_fry (s : State) (a : Nat) (bs : List Byte) : (s.wr a bs).fry = s.fry := rfl
@[simp] theorem State.wr_sk (s : State) (a : Nat) (bs : List Byte) : (s.wr a bs).sk = s.sk := rfl
@[simp] theorem State.wr_eng (s : State) (a : Nat) (bs : List Byte) : (s.wr a bs).eng = s.eng := rfl
@[simp] theorem State.wr_coll (s : State) (a : Nat) (bs : List Byte) : (s.wr a bs).coll = s.coll := rfl
@[simp] theorem State.wr_reg (s : State) (a : Nat) (bs : List Byte) (x : Reg) : (s.wr a bs).reg x = s.reg x := rfl
@[simp] theorem State.wr_fld (s : State) (a : Nat) (bs : List Byte) (x : Reg) (y : Fld) : (s.wr a bs).fld x y = s.fld x y := rfl
@[simp] theorem State.wr_flag (s : State) (a : Nat) (bs : List Byte) (x : Reg) (y : Fld) : (s.wr a bs).flag x y = s.flag x y := rfl

/-! ### State.wipe -/

@[simp] theorem State.wipe_pending (s : State) (a n : Nat) : (s.wipe a n).pending = s.pending := rfl
@[simp] theorem State.wipe_regs (s : State) (a n : Nat) : (s.wipe a n).regs = s.regs := rfl
@[simp] theorem State.wipe_svcTime (s : State) (a n : Nat) : (s.wipe a n).svcTime = s.svcTime := rfl
@[simp] theorem State.wipe_fresh (s : State) (a n : Nat) : (s.wipe a n).fresh = s.fresh := rfl
@[simp] theorem State.wipe_outbox (s : State) (a n : Nat) : (s.wipe a n).outbox = s.outbox := rfl
@[simp] theorem State.wipe_evt (s : State) (a n : Nat) : (s.wipe a n).evt = s.evt := rfl
@[simp] theorem State.wipe_net (s : State) (a n : Nat) : (s.wipe a n).net = s.net := rfl
@[simp] theorem State.wipe_part (s : State) (a n : Nat) : (s.wipe a n).part = s.part := rfl
@[simp] theorem State.wipe_trust (s : State) (a n : Nat) : (s.wipe a n).trust = s.trust := rfl
@[simp] theorem State.wipe_pwr (s : State) (a n : Nat) : (s.wipe a n).pwr = s.pwr := rfl
@[simp] theorem State.wipe_hw (s : State) (a n : Nat) : (s.wipe a n).hw = s.hw := rfl
@[simp] theorem State.wipe_dbg (s : State) (a n : Nat) : (s.wipe a n).dbg = s.dbg := rfl
@[simp] theorem State.wipe_fab (s : State) (a n : Nat) : (s.wipe a n).fab = s.fab := rfl
@[simp] theorem State.wipe_tier (s : State) (a n : Nat) : (s.wipe a n).tier = s.tier := rfl
@[simp] theorem State.wipe_quay (s : State) (a n : Nat) : (s.wipe a n).quay = s.quay := rfl
@[simp] theorem State.wipe_ctl (s : State) (a n : Nat) : (s.wipe a n).ctl = s.ctl := rfl
@[simp] theorem State.wipe_arith (s : State) (a n : Nat) : (s.wipe a n).arith = s.arith := rfl
@[simp] theorem State.wipe_rank (s : State) (a n : Nat) : (s.wipe a n).rank = s.rank := rfl
@[simp] theorem State.wipe_fry (s : State) (a n : Nat) : (s.wipe a n).fry = s.fry := rfl
@[simp] theorem State.wipe_sk (s : State) (a n : Nat) : (s.wipe a n).sk = s.sk := rfl
@[simp] theorem State.wipe_eng (s : State) (a n : Nat) : (s.wipe a n).eng = s.eng := rfl
@[simp] theorem State.wipe_coll (s : State) (a n : Nat) : (s.wipe a n).coll = s.coll := rfl
@[simp] theorem State.wipe_reg (s : State) (a n : Nat) (x : Reg) : (s.wipe a n).reg x = s.reg x := rfl
@[simp] theorem State.wipe_fld (s : State) (a n : Nat) (x : Reg) (y : Fld) : (s.wipe a n).fld x y = s.fld x y := rfl
@[simp] theorem State.wipe_flag (s : State) (a n : Nat) (x : Reg) (y : Fld) : (s.wipe a n).flag x y = s.flag x y := rfl

/-! ### State.clearMem -/

@[simp] theorem State.clearMem_pending (s : State) (p : Nat → Bool) : (s.clearMem p).pending = s.pending := rfl
@[simp] theorem State.clearMem_regs (s : State) (p : Nat → Bool) : (s.clearMem p).regs = s.regs := rfl
@[simp] theorem State.clearMem_svcTime (s : State) (p : Nat → Bool) : (s.clearMem p).svcTime = s.svcTime := rfl
@[simp] theorem State.clearMem_fresh (s : State) (p : Nat → Bool) : (s.clearMem p).fresh = s.fresh := rfl
@[simp] theorem State.clearMem_outbox (s : State) (p : Nat → Bool) : (s.clearMem p).outbox = s.outbox := rfl
@[simp] theorem State.clearMem_evt (s : State) (p : Nat → Bool) : (s.clearMem p).evt = s.evt := rfl
@[simp] theorem State.clearMem_net (s : State) (p : Nat → Bool) : (s.clearMem p).net = s.net := rfl
@[simp] theorem State.clearMem_part (s : State) (p : Nat → Bool) : (s.clearMem p).part = s.part := rfl
@[simp] theorem State.clearMem_trust (s : State) (p : Nat → Bool) : (s.clearMem p).trust = s.trust := rfl
@[simp] theorem State.clearMem_pwr (s : State) (p : Nat → Bool) : (s.clearMem p).pwr = s.pwr := rfl
@[simp] theorem State.clearMem_hw (s : State) (p : Nat → Bool) : (s.clearMem p).hw = s.hw := rfl
@[simp] theorem State.clearMem_dbg (s : State) (p : Nat → Bool) : (s.clearMem p).dbg = s.dbg := rfl
@[simp] theorem State.clearMem_fab (s : State) (p : Nat → Bool) : (s.clearMem p).fab = s.fab := rfl
@[simp] theorem State.clearMem_tier (s : State) (p : Nat → Bool) : (s.clearMem p).tier = s.tier := rfl
@[simp] theorem State.clearMem_quay (s : State) (p : Nat → Bool) : (s.clearMem p).quay = s.quay := rfl
@[simp] theorem State.clearMem_ctl (s : State) (p : Nat → Bool) : (s.clearMem p).ctl = s.ctl := rfl
@[simp] theorem State.clearMem_arith (s : State) (p : Nat → Bool) : (s.clearMem p).arith = s.arith := rfl
@[simp] theorem State.clearMem_rank (s : State) (p : Nat → Bool) : (s.clearMem p).rank = s.rank := rfl
@[simp] theorem State.clearMem_fry (s : State) (p : Nat → Bool) : (s.clearMem p).fry = s.fry := rfl
@[simp] theorem State.clearMem_sk (s : State) (p : Nat → Bool) : (s.clearMem p).sk = s.sk := rfl
@[simp] theorem State.clearMem_eng (s : State) (p : Nat → Bool) : (s.clearMem p).eng = s.eng := rfl
@[simp] theorem State.clearMem_coll (s : State) (p : Nat → Bool) : (s.clearMem p).coll = s.coll := rfl
@[simp] theorem State.clearMem_reg (s : State) (p : Nat → Bool) (x : Reg) : (s.clearMem p).reg x = s.reg x := rfl
@[simp] theorem State.clearMem_fld (s : State) (p : Nat → Bool) (x : Reg) (y : Fld) : (s.clearMem p).fld x y = s.fld x y := rfl
@[simp] theorem State.clearMem_flag (s : State) (p : Nat → Bool) (x : Reg) (y : Fld) : (s.clearMem p).flag x y = s.flag x y := rfl

/-! ### State.setMoor -/

@[simp] theorem State.setMoor_pending (s : State) (d m w : Nat) : (s.setMoor d m w).pending = s.pending := State.wr_pending ..
@[simp] theorem State.setMoor_regs (s : State) (d m w : Nat) : (s.setMoor d m w).regs = s.regs := State.wr_regs ..
@[simp] theorem State.setMoor_svcTime (s : State) (d m w : Nat) : (s.setMoor d m w).svcTime = s.svcTime := State.wr_svcTime ..
@[simp] theorem State.setMoor_fresh (s : State) (d m w : Nat) : (s.setMoor d m w).fresh = s.fresh := State.wr_fresh ..
@[simp] theorem State.setMoor_outbox (s : State) (d m w : Nat) : (s.setMoor d m w).outbox = s.outbox := State.wr_outbox ..
@[simp] theorem State.setMoor_evt (s : State) (d m w : Nat) : (s.setMoor d m w).evt = s.evt := State.wr_evt ..
@[simp] theorem State.setMoor_net (s : State) (d m w : Nat) : (s.setMoor d m w).net = s.net := State.wr_net ..
@[simp] theorem State.setMoor_part (s : State) (d m w : Nat) : (s.setMoor d m w).part = s.part := State.wr_part ..
@[simp] theorem State.setMoor_trust (s : State) (d m w : Nat) : (s.setMoor d m w).trust = s.trust := State.wr_trust ..
@[simp] theorem State.setMoor_pwr (s : State) (d m w : Nat) : (s.setMoor d m w).pwr = s.pwr := State.wr_pwr ..
@[simp] theorem State.setMoor_hw (s : State) (d m w : Nat) : (s.setMoor d m w).hw = s.hw := State.wr_hw ..
@[simp] theorem State.setMoor_dbg (s : State) (d m w : Nat) : (s.setMoor d m w).dbg = s.dbg := State.wr_dbg ..
@[simp] theorem State.setMoor_fab (s : State) (d m w : Nat) : (s.setMoor d m w).fab = s.fab := State.wr_fab ..
@[simp] theorem State.setMoor_tier (s : State) (d m w : Nat) : (s.setMoor d m w).tier = s.tier := State.wr_tier ..
@[simp] theorem State.setMoor_quay (s : State) (d m w : Nat) : (s.setMoor d m w).quay = s.quay := State.wr_quay ..
@[simp] theorem State.setMoor_ctl (s : State) (d m w : Nat) : (s.setMoor d m w).ctl = s.ctl := State.wr_ctl ..
@[simp] theorem State.setMoor_arith (s : State) (d m w : Nat) : (s.setMoor d m w).arith = s.arith := State.wr_arith ..
@[simp] theorem State.setMoor_rank (s : State) (d m w : Nat) : (s.setMoor d m w).rank = s.rank := State.wr_rank ..
@[simp] theorem State.setMoor_fry (s : State) (d m w : Nat) : (s.setMoor d m w).fry = s.fry := State.wr_fry ..
@[simp] theorem State.setMoor_sk (s : State) (d m w : Nat) : (s.setMoor d m w).sk = s.sk := State.wr_sk ..
@[simp] theorem State.setMoor_eng (s : State) (d m w : Nat) : (s.setMoor d m w).eng = s.eng := State.wr_eng ..
@[simp] theorem State.setMoor_coll (s : State) (d m w : Nat) : (s.setMoor d m w).coll = s.coll := State.wr_coll ..
@[simp] theorem State.setMoor_reg (s : State) (d m w : Nat) (x : Reg) : (s.setMoor d m w).reg x = s.reg x := State.wr_reg ..
@[simp] theorem State.setMoor_fld (s : State) (d m w : Nat) (x : Reg) (y : Fld) : (s.setMoor d m w).fld x y = s.fld x y := State.wr_fld ..
@[simp] theorem State.setMoor_flag (s : State) (d m w : Nat) (x : Reg) (y : Fld) : (s.setMoor d m w).flag x y = s.flag x y := State.wr_flag ..

/-! ### State.setPort -/

@[simp] theorem State.setPort_pending (s : State) (p : Nat) (v : PortSt) : (s.setPort p v).pending = s.pending := rfl
@[simp] theorem State.setPort_regs (s : State) (p : Nat) (v : PortSt) : (s.setPort p v).regs = s.regs := rfl
@[simp] theorem State.setPort_mem (s : State) (p : Nat) (v : PortSt) : (s.setPort p v).mem = s.mem := rfl
@[simp] theorem State.setPort_svcTime (s : State) (p : Nat) (v : PortSt) : (s.setPort p v).svcTime = s.svcTime := rfl
@[simp] theorem State.setPort_fresh (s : State) (p : Nat) (v : PortSt) : (s.setPort p v).fresh = s.fresh := rfl
@[simp] theorem State.setPort_outbox (s : State) (p : Nat) (v : PortSt) : (s.setPort p v).outbox = s.outbox := rfl
@[simp] theorem State.setPort_evt (s : State) (p : Nat) (v : PortSt) : (s.setPort p v).evt = s.evt := rfl
@[simp] theorem State.setPort_net (s : State) (p : Nat) (v : PortSt) : (s.setPort p v).net = s.net := rfl
@[simp] theorem State.setPort_part (s : State) (p : Nat) (v : PortSt) : (s.setPort p v).part = s.part := rfl
@[simp] theorem State.setPort_trust (s : State) (p : Nat) (v : PortSt) : (s.setPort p v).trust = s.trust := rfl
@[simp] theorem State.setPort_pwr (s : State) (p : Nat) (v : PortSt) : (s.setPort p v).pwr = s.pwr := rfl
@[simp] theorem State.setPort_hw (s : State) (p : Nat) (v : PortSt) : (s.setPort p v).hw = s.hw := rfl
@[simp] theorem State.setPort_dbg (s : State) (p : Nat) (v : PortSt) : (s.setPort p v).dbg = s.dbg := rfl
@[simp] theorem State.setPort_tier (s : State) (p : Nat) (v : PortSt) : (s.setPort p v).tier = s.tier := rfl
@[simp] theorem State.setPort_quay (s : State) (p : Nat) (v : PortSt) : (s.setPort p v).quay = s.quay := rfl
@[simp] theorem State.setPort_ctl (s : State) (p : Nat) (v : PortSt) : (s.setPort p v).ctl = s.ctl := rfl
@[simp] theorem State.setPort_arith (s : State) (p : Nat) (v : PortSt) : (s.setPort p v).arith = s.arith := rfl
@[simp] theorem State.setPort_rank (s : State) (p : Nat) (v : PortSt) : (s.setPort p v).rank = s.rank := rfl
@[simp] theorem State.setPort_fry (s : State) (p : Nat) (v : PortSt) : (s.setPort p v).fry = s.fry := rfl
@[simp] theorem State.setPort_sk (s : State) (p : Nat) (v : PortSt) : (s.setPort p v).sk = s.sk := rfl
@[simp] theorem State.setPort_eng (s : State) (p : Nat) (v : PortSt) : (s.setPort p v).eng = s.eng := rfl
@[simp] theorem State.setPort_coll (s : State) (p : Nat) (v : PortSt) : (s.setPort p v).coll = s.coll := rfl
@[simp] theorem State.setPort_reg (s : State) (p : Nat) (v : PortSt) (x : Reg) : (s.setPort p v).reg x = s.reg x := rfl
@[simp] theorem State.setPort_fld (s : State) (p : Nat) (v : PortSt) (x : Reg) (y : Fld) : (s.setPort p v).fld x y = s.fld x y := rfl
@[simp] theorem State.setPort_flag (s : State) (p : Nat) (v : PortSt) (x : Reg) (y : Fld) : (s.setPort p v).flag x y = s.flag x y := rfl

/-! ### State.setGst -/

@[simp] theorem State.setGst_pending (s : State) (g : Nat) (v : GroupSt) : (s.setGst g v).pending = s.pending := rfl
@[simp] theorem State.setGst_regs (s : State) (g : Nat) (v : GroupSt) : (s.setGst g v).regs = s.regs := rfl
@[simp] theorem State.setGst_mem (s : State) (g : Nat) (v : GroupSt) : (s.setGst g v).mem = s.mem := rfl
@[simp] theorem State.setGst_svcTime (s : State) (g : Nat) (v : GroupSt) : (s.setGst g v).svcTime = s.svcTime := rfl
@[simp] theorem State.setGst_fresh (s : State) (g : Nat) (v : GroupSt) : (s.setGst g v).fresh = s.fresh := rfl
@[simp] theorem State.setGst_outbox (s : State) (g : Nat) (v : GroupSt) : (s.setGst g v).outbox = s.outbox := rfl
@[simp] theorem State.setGst_evt (s : State) (g : Nat) (v : GroupSt) : (s.setGst g v).evt = s.evt := rfl
@[simp] theorem State.setGst_net (s : State) (g : Nat) (v : GroupSt) : (s.setGst g v).net = s.net := rfl
@[simp] theorem State.setGst_part (s : State) (g : Nat) (v : GroupSt) : (s.setGst g v).part = s.part := rfl
@[simp] theorem State.setGst_trust (s : State) (g : Nat) (v : GroupSt) : (s.setGst g v).trust = s.trust := rfl
@[simp] theorem State.setGst_pwr (s : State) (g : Nat) (v : GroupSt) : (s.setGst g v).pwr = s.pwr := rfl
@[simp] theorem State.setGst_hw (s : State) (g : Nat) (v : GroupSt) : (s.setGst g v).hw = s.hw := rfl
@[simp] theorem State.setGst_dbg (s : State) (g : Nat) (v : GroupSt) : (s.setGst g v).dbg = s.dbg := rfl
@[simp] theorem State.setGst_tier (s : State) (g : Nat) (v : GroupSt) : (s.setGst g v).tier = s.tier := rfl
@[simp] theorem State.setGst_quay (s : State) (g : Nat) (v : GroupSt) : (s.setGst g v).quay = s.quay := rfl
@[simp] theorem State.setGst_ctl (s : State) (g : Nat) (v : GroupSt) : (s.setGst g v).ctl = s.ctl := rfl
@[simp] theorem State.setGst_arith (s : State) (g : Nat) (v : GroupSt) : (s.setGst g v).arith = s.arith := rfl
@[simp] theorem State.setGst_rank (s : State) (g : Nat) (v : GroupSt) : (s.setGst g v).rank = s.rank := rfl
@[simp] theorem State.setGst_fry (s : State) (g : Nat) (v : GroupSt) : (s.setGst g v).fry = s.fry := rfl
@[simp] theorem State.setGst_sk (s : State) (g : Nat) (v : GroupSt) : (s.setGst g v).sk = s.sk := rfl
@[simp] theorem State.setGst_eng (s : State) (g : Nat) (v : GroupSt) : (s.setGst g v).eng = s.eng := rfl
@[simp] theorem State.setGst_coll (s : State) (g : Nat) (v : GroupSt) : (s.setGst g v).coll = s.coll := rfl
@[simp] theorem State.setGst_reg (s : State) (g : Nat) (v : GroupSt) (x : Reg) : (s.setGst g v).reg x = s.reg x := rfl
@[simp] theorem State.setGst_fld (s : State) (g : Nat) (v : GroupSt) (x : Reg) (y : Fld) : (s.setGst g v).fld x y = s.fld x y := rfl
@[simp] theorem State.setGst_flag (s : State) (g : Nat) (v : GroupSt) (x : Reg) (y : Fld) : (s.setGst g v).flag x y = s.flag x y := rfl

/-! ### State.setColl -/

@[simp] theorem State.setColl_pending (s : State) (k : Nat) (v : Option Coll) : (s.setColl k v).pending = s.pending := rfl
@[simp] theorem State.setColl_regs (s : State) (k : Nat) (v : Option Coll) : (s.setColl k v).regs = s.regs := rfl
@[simp] theorem State.setColl_mem (s : State) (k : Nat) (v : Option Coll) : (s.setColl k v).mem = s.mem := rfl
@[simp] theorem State.setColl_svcTime (s : State) (k : Nat) (v : Option Coll) : (s.setColl k v).svcTime = s.svcTime := rfl
@[simp] theorem State.setColl_fresh (s : State) (k : Nat) (v : Option Coll) : (s.setColl k v).fresh = s.fresh := rfl
@[simp] theorem State.setColl_outbox (s : State) (k : Nat) (v : Option Coll) : (s.setColl k v).outbox = s.outbox := rfl
@[simp] theorem State.setColl_evt (s : State) (k : Nat) (v : Option Coll) : (s.setColl k v).evt = s.evt := rfl
@[simp] theorem State.setColl_net (s : State) (k : Nat) (v : Option Coll) : (s.setColl k v).net = s.net := rfl
@[simp] theorem State.setColl_part (s : State) (k : Nat) (v : Option Coll) : (s.setColl k v).part = s.part := rfl
@[simp] theorem State.setColl_trust (s : State) (k : Nat) (v : Option Coll) : (s.setColl k v).trust = s.trust := rfl
@[simp] theorem State.setColl_pwr (s : State) (k : Nat) (v : Option Coll) : (s.setColl k v).pwr = s.pwr := rfl
@[simp] theorem State.setColl_hw (s : State) (k : Nat) (v : Option Coll) : (s.setColl k v).hw = s.hw := rfl
@[simp] theorem State.setColl_dbg (s : State) (k : Nat) (v : Option Coll) : (s.setColl k v).dbg = s.dbg := rfl
@[simp] theorem State.setColl_fab (s : State) (k : Nat) (v : Option Coll) : (s.setColl k v).fab = s.fab := rfl
@[simp] theorem State.setColl_tier (s : State) (k : Nat) (v : Option Coll) : (s.setColl k v).tier = s.tier := rfl
@[simp] theorem State.setColl_quay (s : State) (k : Nat) (v : Option Coll) : (s.setColl k v).quay = s.quay := rfl
@[simp] theorem State.setColl_ctl (s : State) (k : Nat) (v : Option Coll) : (s.setColl k v).ctl = s.ctl := rfl
@[simp] theorem State.setColl_arith (s : State) (k : Nat) (v : Option Coll) : (s.setColl k v).arith = s.arith := rfl
@[simp] theorem State.setColl_rank (s : State) (k : Nat) (v : Option Coll) : (s.setColl k v).rank = s.rank := rfl
@[simp] theorem State.setColl_fry (s : State) (k : Nat) (v : Option Coll) : (s.setColl k v).fry = s.fry := rfl
@[simp] theorem State.setColl_sk (s : State) (k : Nat) (v : Option Coll) : (s.setColl k v).sk = s.sk := rfl
@[simp] theorem State.setColl_eng (s : State) (k : Nat) (v : Option Coll) : (s.setColl k v).eng = s.eng := rfl
@[simp] theorem State.setColl_reg (s : State) (k : Nat) (v : Option Coll) (x : Reg) : (s.setColl k v).reg x = s.reg x := rfl
@[simp] theorem State.setColl_fld (s : State) (k : Nat) (v : Option Coll) (x : Reg) (y : Fld) : (s.setColl k v).fld x y = s.fld x y := rfl
@[simp] theorem State.setColl_flag (s : State) (k : Nat) (v : Option Coll) (x : Reg) (y : Fld) : (s.setColl k v).flag x y = s.flag x y := rfl

/-! ### State.setCpart -/

@[simp] theorem State.setCpart_pending (s : State) (p : Nat) (v : CPart) : (s.setCpart p v).pending = s.pending := rfl
@[simp] theorem State.setCpart_regs (s : State) (p : Nat) (v : CPart) : (s.setCpart p v).regs = s.regs := rfl
@[simp] theorem State.setCpart_mem (s : State) (p : Nat) (v : CPart) : (s.setCpart p v).mem = s.mem := rfl
@[simp] theorem State.setCpart_svcTime (s : State) (p : Nat) (v : CPart) : (s.setCpart p v).svcTime = s.svcTime := rfl
@[simp] theorem State.setCpart_fresh (s : State) (p : Nat) (v : CPart) : (s.setCpart p v).fresh = s.fresh := rfl
@[simp] theorem State.setCpart_outbox (s : State) (p : Nat) (v : CPart) : (s.setCpart p v).outbox = s.outbox := rfl
@[simp] theorem State.setCpart_evt (s : State) (p : Nat) (v : CPart) : (s.setCpart p v).evt = s.evt := rfl
@[simp] theorem State.setCpart_net (s : State) (p : Nat) (v : CPart) : (s.setCpart p v).net = s.net := rfl
@[simp] theorem State.setCpart_part (s : State) (p : Nat) (v : CPart) : (s.setCpart p v).part = s.part := rfl
@[simp] theorem State.setCpart_trust (s : State) (p : Nat) (v : CPart) : (s.setCpart p v).trust = s.trust := rfl
@[simp] theorem State.setCpart_pwr (s : State) (p : Nat) (v : CPart) : (s.setCpart p v).pwr = s.pwr := rfl
@[simp] theorem State.setCpart_hw (s : State) (p : Nat) (v : CPart) : (s.setCpart p v).hw = s.hw := rfl
@[simp] theorem State.setCpart_dbg (s : State) (p : Nat) (v : CPart) : (s.setCpart p v).dbg = s.dbg := rfl
@[simp] theorem State.setCpart_fab (s : State) (p : Nat) (v : CPart) : (s.setCpart p v).fab = s.fab := rfl
@[simp] theorem State.setCpart_tier (s : State) (p : Nat) (v : CPart) : (s.setCpart p v).tier = s.tier := rfl
@[simp] theorem State.setCpart_quay (s : State) (p : Nat) (v : CPart) : (s.setCpart p v).quay = s.quay := rfl
@[simp] theorem State.setCpart_ctl (s : State) (p : Nat) (v : CPart) : (s.setCpart p v).ctl = s.ctl := rfl
@[simp] theorem State.setCpart_arith (s : State) (p : Nat) (v : CPart) : (s.setCpart p v).arith = s.arith := rfl
@[simp] theorem State.setCpart_rank (s : State) (p : Nat) (v : CPart) : (s.setCpart p v).rank = s.rank := rfl
@[simp] theorem State.setCpart_fry (s : State) (p : Nat) (v : CPart) : (s.setCpart p v).fry = s.fry := rfl
@[simp] theorem State.setCpart_sk (s : State) (p : Nat) (v : CPart) : (s.setCpart p v).sk = s.sk := rfl
@[simp] theorem State.setCpart_eng (s : State) (p : Nat) (v : CPart) : (s.setCpart p v).eng = s.eng := rfl
@[simp] theorem State.setCpart_reg (s : State) (p : Nat) (v : CPart) (x : Reg) : (s.setCpart p v).reg x = s.reg x := rfl
@[simp] theorem State.setCpart_fld (s : State) (p : Nat) (v : CPart) (x : Reg) (y : Fld) : (s.setCpart p v).fld x y = s.fld x y := rfl
@[simp] theorem State.setCpart_flag (s : State) (p : Nat) (v : CPart) (x : Reg) (y : Fld) : (s.setCpart p v).flag x y = s.flag x y := rfl

/-! ### State.setTowers -/

@[simp] theorem State.setTowers_pending (s : State) (m : Nat) (v : Towers) : (s.setTowers m v).pending = s.pending := rfl
@[simp] theorem State.setTowers_regs (s : State) (m : Nat) (v : Towers) : (s.setTowers m v).regs = s.regs := rfl
@[simp] theorem State.setTowers_mem (s : State) (m : Nat) (v : Towers) : (s.setTowers m v).mem = s.mem := rfl
@[simp] theorem State.setTowers_svcTime (s : State) (m : Nat) (v : Towers) : (s.setTowers m v).svcTime = s.svcTime := rfl
@[simp] theorem State.setTowers_fresh (s : State) (m : Nat) (v : Towers) : (s.setTowers m v).fresh = s.fresh := rfl
@[simp] theorem State.setTowers_outbox (s : State) (m : Nat) (v : Towers) : (s.setTowers m v).outbox = s.outbox := rfl
@[simp] theorem State.setTowers_evt (s : State) (m : Nat) (v : Towers) : (s.setTowers m v).evt = s.evt := rfl
@[simp] theorem State.setTowers_net (s : State) (m : Nat) (v : Towers) : (s.setTowers m v).net = s.net := rfl
@[simp] theorem State.setTowers_part (s : State) (m : Nat) (v : Towers) : (s.setTowers m v).part = s.part := rfl
@[simp] theorem State.setTowers_trust (s : State) (m : Nat) (v : Towers) : (s.setTowers m v).trust = s.trust := rfl
@[simp] theorem State.setTowers_pwr (s : State) (m : Nat) (v : Towers) : (s.setTowers m v).pwr = s.pwr := rfl
@[simp] theorem State.setTowers_hw (s : State) (m : Nat) (v : Towers) : (s.setTowers m v).hw = s.hw := rfl
@[simp] theorem State.setTowers_dbg (s : State) (m : Nat) (v : Towers) : (s.setTowers m v).dbg = s.dbg := rfl
@[simp] theorem State.setTowers_fab (s : State) (m : Nat) (v : Towers) : (s.setTowers m v).fab = s.fab := rfl
@[simp] theorem State.setTowers_tier (s : State) (m : Nat) (v : Towers) : (s.setTowers m v).tier = s.tier := rfl
@[simp] theorem State.setTowers_quay (s : State) (m : Nat) (v : Towers) : (s.setTowers m v).quay = s.quay := rfl
@[simp] theorem State.setTowers_ctl (s : State) (m : Nat) (v : Towers) : (s.setTowers m v).ctl = s.ctl := rfl
@[simp] theorem State.setTowers_arith (s : State) (m : Nat) (v : Towers) : (s.setTowers m v).arith = s.arith := rfl
@[simp] theorem State.setTowers_rank (s : State) (m : Nat) (v : Towers) : (s.setTowers m v).rank = s.rank := rfl
@[simp] theorem State.setTowers_fry (s : State) (m : Nat) (v : Towers) : (s.setTowers m v).fry = s.fry := rfl
@[simp] theorem State.setTowers_sk (s : State) (m : Nat) (v : Towers) : (s.setTowers m v).sk = s.sk := rfl
@[simp] theorem State.setTowers_eng (s : State) (m : Nat) (v : Towers) : (s.setTowers m v).eng = s.eng := rfl
@[simp] theorem State.setTowers_reg (s : State) (m : Nat) (v : Towers) (x : Reg) : (s.setTowers m v).reg x = s.reg x := rfl
@[simp] theorem State.setTowers_fld (s : State) (m : Nat) (v : Towers) (x : Reg) (y : Fld) : (s.setTowers m v).fld x y = s.fld x y := rfl
@[simp] theorem State.setTowers_flag (s : State) (m : Nat) (v : Towers) (x : Reg) (y : Fld) : (s.setTowers m v).flag x y = s.flag x y := rfl

/-! ### State.setModel -/

@[simp] theorem State.setModel_pending (s : State) (m : Nat) (v : Model) : (s.setModel m v).pending = s.pending := rfl
@[simp] theorem State.setModel_regs (s : State) (m : Nat) (v : Model) : (s.setModel m v).regs = s.regs := rfl
@[simp] theorem State.setModel_mem (s : State) (m : Nat) (v : Model) : (s.setModel m v).mem = s.mem := rfl
@[simp] theorem State.setModel_svcTime (s : State) (m : Nat) (v : Model) : (s.setModel m v).svcTime = s.svcTime := rfl
@[simp] theorem State.setModel_fresh (s : State) (m : Nat) (v : Model) : (s.setModel m v).fresh = s.fresh := rfl
@[simp] theorem State.setModel_outbox (s : State) (m : Nat) (v : Model) : (s.setModel m v).outbox = s.outbox := rfl
@[simp] theorem State.setModel_evt (s : State) (m : Nat) (v : Model) : (s.setModel m v).evt = s.evt := rfl
@[simp] theorem State.setModel_net (s : State) (m : Nat) (v : Model) : (s.setModel m v).net = s.net := rfl
@[simp] theorem State.setModel_part (s : State) (m : Nat) (v : Model) : (s.setModel m v).part = s.part := rfl
@[simp] theorem State.setModel_trust (s : State) (m : Nat) (v : Model) : (s.setModel m v).trust = s.trust := rfl
@[simp] theorem State.setModel_pwr (s : State) (m : Nat) (v : Model) : (s.setModel m v).pwr = s.pwr := rfl
@[simp] theorem State.setModel_hw (s : State) (m : Nat) (v : Model) : (s.setModel m v).hw = s.hw := rfl
@[simp] theorem State.setModel_dbg (s : State) (m : Nat) (v : Model) : (s.setModel m v).dbg = s.dbg := rfl
@[simp] theorem State.setModel_fab (s : State) (m : Nat) (v : Model) : (s.setModel m v).fab = s.fab := rfl
@[simp] theorem State.setModel_tier (s : State) (m : Nat) (v : Model) : (s.setModel m v).tier = s.tier := rfl
@[simp] theorem State.setModel_quay (s : State) (m : Nat) (v : Model) : (s.setModel m v).quay = s.quay := rfl
@[simp] theorem State.setModel_ctl (s : State) (m : Nat) (v : Model) : (s.setModel m v).ctl = s.ctl := rfl
@[simp] theorem State.setModel_arith (s : State) (m : Nat) (v : Model) : (s.setModel m v).arith = s.arith := rfl
@[simp] theorem State.setModel_fry (s : State) (m : Nat) (v : Model) : (s.setModel m v).fry = s.fry := rfl
@[simp] theorem State.setModel_sk (s : State) (m : Nat) (v : Model) : (s.setModel m v).sk = s.sk := rfl
@[simp] theorem State.setModel_eng (s : State) (m : Nat) (v : Model) : (s.setModel m v).eng = s.eng := rfl
@[simp] theorem State.setModel_coll (s : State) (m : Nat) (v : Model) : (s.setModel m v).coll = s.coll := rfl
@[simp] theorem State.setModel_reg (s : State) (m : Nat) (v : Model) (x : Reg) : (s.setModel m v).reg x = s.reg x := rfl
@[simp] theorem State.setModel_fld (s : State) (m : Nat) (v : Model) (x : Reg) (y : Fld) : (s.setModel m v).fld x y = s.fld x y := rfl
@[simp] theorem State.setModel_flag (s : State) (m : Nat) (v : Model) (x : Reg) (y : Fld) : (s.setModel m v).flag x y = s.flag x y := rfl

/-! ### State.setQp -/

@[simp] theorem State.setQp_pending (s : State) (n : Nat) (q : QP) : (s.setQp n q).pending = s.pending := rfl
@[simp] theorem State.setQp_regs (s : State) (n : Nat) (q : QP) : (s.setQp n q).regs = s.regs := rfl
@[simp] theorem State.setQp_mem (s : State) (n : Nat) (q : QP) : (s.setQp n q).mem = s.mem := rfl
@[simp] theorem State.setQp_svcTime (s : State) (n : Nat) (q : QP) : (s.setQp n q).svcTime = s.svcTime := rfl
@[simp] theorem State.setQp_fresh (s : State) (n : Nat) (q : QP) : (s.setQp n q).fresh = s.fresh := rfl
@[simp] theorem State.setQp_outbox (s : State) (n : Nat) (q : QP) : (s.setQp n q).outbox = s.outbox := rfl
@[simp] theorem State.setQp_evt (s : State) (n : Nat) (q : QP) : (s.setQp n q).evt = s.evt := rfl
@[simp] theorem State.setQp_net (s : State) (n : Nat) (q : QP) : (s.setQp n q).net = s.net := rfl
@[simp] theorem State.setQp_part (s : State) (n : Nat) (q : QP) : (s.setQp n q).part = s.part := rfl
@[simp] theorem State.setQp_trust (s : State) (n : Nat) (q : QP) : (s.setQp n q).trust = s.trust := rfl
@[simp] theorem State.setQp_pwr (s : State) (n : Nat) (q : QP) : (s.setQp n q).pwr = s.pwr := rfl
@[simp] theorem State.setQp_hw (s : State) (n : Nat) (q : QP) : (s.setQp n q).hw = s.hw := rfl
@[simp] theorem State.setQp_dbg (s : State) (n : Nat) (q : QP) : (s.setQp n q).dbg = s.dbg := rfl
@[simp] theorem State.setQp_fab (s : State) (n : Nat) (q : QP) : (s.setQp n q).fab = s.fab := rfl
@[simp] theorem State.setQp_tier (s : State) (n : Nat) (q : QP) : (s.setQp n q).tier = s.tier := rfl
@[simp] theorem State.setQp_ctl (s : State) (n : Nat) (q : QP) : (s.setQp n q).ctl = s.ctl := rfl
@[simp] theorem State.setQp_arith (s : State) (n : Nat) (q : QP) : (s.setQp n q).arith = s.arith := rfl
@[simp] theorem State.setQp_rank (s : State) (n : Nat) (q : QP) : (s.setQp n q).rank = s.rank := rfl
@[simp] theorem State.setQp_fry (s : State) (n : Nat) (q : QP) : (s.setQp n q).fry = s.fry := rfl
@[simp] theorem State.setQp_sk (s : State) (n : Nat) (q : QP) : (s.setQp n q).sk = s.sk := rfl
@[simp] theorem State.setQp_eng (s : State) (n : Nat) (q : QP) : (s.setQp n q).eng = s.eng := rfl
@[simp] theorem State.setQp_coll (s : State) (n : Nat) (q : QP) : (s.setQp n q).coll = s.coll := rfl
@[simp] theorem State.setQp_reg (s : State) (n : Nat) (q : QP) (x : Reg) : (s.setQp n q).reg x = s.reg x := rfl
@[simp] theorem State.setQp_fld (s : State) (n : Nat) (q : QP) (x : Reg) (y : Fld) : (s.setQp n q).fld x y = s.fld x y := rfl
@[simp] theorem State.setQp_flag (s : State) (n : Nat) (q : QP) (x : Reg) (y : Fld) : (s.setQp n q).flag x y = s.flag x y := rfl

/-! ### State.setCmd -/

@[simp] theorem State.setCmd_pending (s : State) (n : Nat) (f : Cmd → Cmd) : (s.setCmd n f).pending = s.pending := rfl
@[simp] theorem State.setCmd_regs (s : State) (n : Nat) (f : Cmd → Cmd) : (s.setCmd n f).regs = s.regs := rfl
@[simp] theorem State.setCmd_mem (s : State) (n : Nat) (f : Cmd → Cmd) : (s.setCmd n f).mem = s.mem := rfl
@[simp] theorem State.setCmd_svcTime (s : State) (n : Nat) (f : Cmd → Cmd) : (s.setCmd n f).svcTime = s.svcTime := rfl
@[simp] theorem State.setCmd_fresh (s : State) (n : Nat) (f : Cmd → Cmd) : (s.setCmd n f).fresh = s.fresh := rfl
@[simp] theorem State.setCmd_outbox (s : State) (n : Nat) (f : Cmd → Cmd) : (s.setCmd n f).outbox = s.outbox := rfl
@[simp] theorem State.setCmd_evt (s : State) (n : Nat) (f : Cmd → Cmd) : (s.setCmd n f).evt = s.evt := rfl
@[simp] theorem State.setCmd_net (s : State) (n : Nat) (f : Cmd → Cmd) : (s.setCmd n f).net = s.net := rfl
@[simp] theorem State.setCmd_part (s : State) (n : Nat) (f : Cmd → Cmd) : (s.setCmd n f).part = s.part := rfl
@[simp] theorem State.setCmd_trust (s : State) (n : Nat) (f : Cmd → Cmd) : (s.setCmd n f).trust = s.trust := rfl
@[simp] theorem State.setCmd_pwr (s : State) (n : Nat) (f : Cmd → Cmd) : (s.setCmd n f).pwr = s.pwr := rfl
@[simp] theorem State.setCmd_hw (s : State) (n : Nat) (f : Cmd → Cmd) : (s.setCmd n f).hw = s.hw := rfl
@[simp] theorem State.setCmd_dbg (s : State) (n : Nat) (f : Cmd → Cmd) : (s.setCmd n f).dbg = s.dbg := rfl
@[simp] theorem State.setCmd_fab (s : State) (n : Nat) (f : Cmd → Cmd) : (s.setCmd n f).fab = s.fab := rfl
@[simp] theorem State.setCmd_tier (s : State) (n : Nat) (f : Cmd → Cmd) : (s.setCmd n f).tier = s.tier := rfl
@[simp] theorem State.setCmd_ctl (s : State) (n : Nat) (f : Cmd → Cmd) : (s.setCmd n f).ctl = s.ctl := rfl
@[simp] theorem State.setCmd_arith (s : State) (n : Nat) (f : Cmd → Cmd) : (s.setCmd n f).arith = s.arith := rfl
@[simp] theorem State.setCmd_rank (s : State) (n : Nat) (f : Cmd → Cmd) : (s.setCmd n f).rank = s.rank := rfl
@[simp] theorem State.setCmd_fry (s : State) (n : Nat) (f : Cmd → Cmd) : (s.setCmd n f).fry = s.fry := rfl
@[simp] theorem State.setCmd_sk (s : State) (n : Nat) (f : Cmd → Cmd) : (s.setCmd n f).sk = s.sk := rfl
@[simp] theorem State.setCmd_eng (s : State) (n : Nat) (f : Cmd → Cmd) : (s.setCmd n f).eng = s.eng := rfl
@[simp] theorem State.setCmd_coll (s : State) (n : Nat) (f : Cmd → Cmd) : (s.setCmd n f).coll = s.coll := rfl
@[simp] theorem State.setCmd_reg (s : State) (n : Nat) (f : Cmd → Cmd) (x : Reg) : (s.setCmd n f).reg x = s.reg x := rfl
@[simp] theorem State.setCmd_fld (s : State) (n : Nat) (f : Cmd → Cmd) (x : Reg) (y : Fld) : (s.setCmd n f).fld x y = s.fld x y := rfl
@[simp] theorem State.setCmd_flag (s : State) (n : Nat) (f : Cmd → Cmd) (x : Reg) (y : Fld) : (s.setCmd n f).flag x y = s.flag x y := rfl

/-! ### State.setInst -/

@[simp] theorem State.setInst_pending (s : State) (i : Nat) (v : Option Inst) : (s.setInst i v).pending = s.pending := rfl
@[simp] theorem State.setInst_regs (s : State) (i : Nat) (v : Option Inst) : (s.setInst i v).regs = s.regs := rfl
@[simp] theorem State.setInst_mem (s : State) (i : Nat) (v : Option Inst) : (s.setInst i v).mem = s.mem := rfl
@[simp] theorem State.setInst_svcTime (s : State) (i : Nat) (v : Option Inst) : (s.setInst i v).svcTime = s.svcTime := rfl
@[simp] theorem State.setInst_fresh (s : State) (i : Nat) (v : Option Inst) : (s.setInst i v).fresh = s.fresh := rfl
@[simp] theorem State.setInst_outbox (s : State) (i : Nat) (v : Option Inst) : (s.setInst i v).outbox = s.outbox := rfl
@[simp] theorem State.setInst_evt (s : State) (i : Nat) (v : Option Inst) : (s.setInst i v).evt = s.evt := rfl
@[simp] theorem State.setInst_net (s : State) (i : Nat) (v : Option Inst) : (s.setInst i v).net = s.net := rfl
@[simp] theorem State.setInst_part (s : State) (i : Nat) (v : Option Inst) : (s.setInst i v).part = s.part := rfl
@[simp] theorem State.setInst_trust (s : State) (i : Nat) (v : Option Inst) : (s.setInst i v).trust = s.trust := rfl
@[simp] theorem State.setInst_pwr (s : State) (i : Nat) (v : Option Inst) : (s.setInst i v).pwr = s.pwr := rfl
@[simp] theorem State.setInst_hw (s : State) (i : Nat) (v : Option Inst) : (s.setInst i v).hw = s.hw := rfl
@[simp] theorem State.setInst_dbg (s : State) (i : Nat) (v : Option Inst) : (s.setInst i v).dbg = s.dbg := rfl
@[simp] theorem State.setInst_fab (s : State) (i : Nat) (v : Option Inst) : (s.setInst i v).fab = s.fab := rfl
@[simp] theorem State.setInst_tier (s : State) (i : Nat) (v : Option Inst) : (s.setInst i v).tier = s.tier := rfl
@[simp] theorem State.setInst_quay (s : State) (i : Nat) (v : Option Inst) : (s.setInst i v).quay = s.quay := rfl
@[simp] theorem State.setInst_arith (s : State) (i : Nat) (v : Option Inst) : (s.setInst i v).arith = s.arith := rfl
@[simp] theorem State.setInst_rank (s : State) (i : Nat) (v : Option Inst) : (s.setInst i v).rank = s.rank := rfl
@[simp] theorem State.setInst_fry (s : State) (i : Nat) (v : Option Inst) : (s.setInst i v).fry = s.fry := rfl
@[simp] theorem State.setInst_sk (s : State) (i : Nat) (v : Option Inst) : (s.setInst i v).sk = s.sk := rfl
@[simp] theorem State.setInst_eng (s : State) (i : Nat) (v : Option Inst) : (s.setInst i v).eng = s.eng := rfl
@[simp] theorem State.setInst_coll (s : State) (i : Nat) (v : Option Inst) : (s.setInst i v).coll = s.coll := rfl
@[simp] theorem State.setInst_reg (s : State) (i : Nat) (v : Option Inst) (x : Reg) : (s.setInst i v).reg x = s.reg x := rfl
@[simp] theorem State.setInst_fld (s : State) (i : Nat) (v : Option Inst) (x : Reg) (y : Fld) : (s.setInst i v).fld x y = s.fld x y := rfl
@[simp] theorem State.setInst_flag (s : State) (i : Nat) (v : Option Inst) (x : Reg) (y : Fld) : (s.setInst i v).flag x y = s.flag x y := rfl

/-! ### State.setThread -/

@[simp] theorem State.setThread_pending (s : State) (q u t : Nat) (v : Thread) : (s.setThread q u t v).pending = s.pending := rfl
@[simp] theorem State.setThread_regs (s : State) (q u t : Nat) (v : Thread) : (s.setThread q u t v).regs = s.regs := rfl
@[simp] theorem State.setThread_mem (s : State) (q u t : Nat) (v : Thread) : (s.setThread q u t v).mem = s.mem := rfl
@[simp] theorem State.setThread_svcTime (s : State) (q u t : Nat) (v : Thread) : (s.setThread q u t v).svcTime = s.svcTime := rfl
@[simp] theorem State.setThread_fresh (s : State) (q u t : Nat) (v : Thread) : (s.setThread q u t v).fresh = s.fresh := rfl
@[simp] theorem State.setThread_outbox (s : State) (q u t : Nat) (v : Thread) : (s.setThread q u t v).outbox = s.outbox := rfl
@[simp] theorem State.setThread_evt (s : State) (q u t : Nat) (v : Thread) : (s.setThread q u t v).evt = s.evt := rfl
@[simp] theorem State.setThread_net (s : State) (q u t : Nat) (v : Thread) : (s.setThread q u t v).net = s.net := rfl
@[simp] theorem State.setThread_part (s : State) (q u t : Nat) (v : Thread) : (s.setThread q u t v).part = s.part := rfl
@[simp] theorem State.setThread_trust (s : State) (q u t : Nat) (v : Thread) : (s.setThread q u t v).trust = s.trust := rfl
@[simp] theorem State.setThread_pwr (s : State) (q u t : Nat) (v : Thread) : (s.setThread q u t v).pwr = s.pwr := rfl
@[simp] theorem State.setThread_hw (s : State) (q u t : Nat) (v : Thread) : (s.setThread q u t v).hw = s.hw := rfl
@[simp] theorem State.setThread_dbg (s : State) (q u t : Nat) (v : Thread) : (s.setThread q u t v).dbg = s.dbg := rfl
@[simp] theorem State.setThread_fab (s : State) (q u t : Nat) (v : Thread) : (s.setThread q u t v).fab = s.fab := rfl
@[simp] theorem State.setThread_tier (s : State) (q u t : Nat) (v : Thread) : (s.setThread q u t v).tier = s.tier := rfl
@[simp] theorem State.setThread_quay (s : State) (q u t : Nat) (v : Thread) : (s.setThread q u t v).quay = s.quay := rfl
@[simp] theorem State.setThread_arith (s : State) (q u t : Nat) (v : Thread) : (s.setThread q u t v).arith = s.arith := rfl
@[simp] theorem State.setThread_rank (s : State) (q u t : Nat) (v : Thread) : (s.setThread q u t v).rank = s.rank := rfl
@[simp] theorem State.setThread_fry (s : State) (q u t : Nat) (v : Thread) : (s.setThread q u t v).fry = s.fry := rfl
@[simp] theorem State.setThread_sk (s : State) (q u t : Nat) (v : Thread) : (s.setThread q u t v).sk = s.sk := rfl
@[simp] theorem State.setThread_eng (s : State) (q u t : Nat) (v : Thread) : (s.setThread q u t v).eng = s.eng := rfl
@[simp] theorem State.setThread_coll (s : State) (q u t : Nat) (v : Thread) : (s.setThread q u t v).coll = s.coll := rfl
@[simp] theorem State.setThread_reg (s : State) (q u t : Nat) (v : Thread) (x : Reg) : (s.setThread q u t v).reg x = s.reg x := rfl
@[simp] theorem State.setThread_fld (s : State) (q u t : Nat) (v : Thread) (x : Reg) (y : Fld) : (s.setThread q u t v).fld x y = s.fld x y := rfl
@[simp] theorem State.setThread_flag (s : State) (q u t : Nat) (v : Thread) (x : Reg) (y : Fld) : (s.setThread q u t v).flag x y = s.flag x y := rfl

/-! ### State.setStream -/

@[simp] theorem State.setStream_pending (s : State) (n : Nat) (v : StreamSt) : (s.setStream n v).pending = s.pending := rfl
@[simp] theorem State.setStream_regs (s : State) (n : Nat) (v : StreamSt) : (s.setStream n v).regs = s.regs := rfl
@[simp] theorem State.setStream_mem (s : State) (n : Nat) (v : StreamSt) : (s.setStream n v).mem = s.mem := rfl
@[simp] theorem State.setStream_svcTime (s : State) (n : Nat) (v : StreamSt) : (s.setStream n v).svcTime = s.svcTime := rfl
@[simp] theorem State.setStream_fresh (s : State) (n : Nat) (v : StreamSt) : (s.setStream n v).fresh = s.fresh := rfl
@[simp] theorem State.setStream_outbox (s : State) (n : Nat) (v : StreamSt) : (s.setStream n v).outbox = s.outbox := rfl
@[simp] theorem State.setStream_evt (s : State) (n : Nat) (v : StreamSt) : (s.setStream n v).evt = s.evt := rfl
@[simp] theorem State.setStream_net (s : State) (n : Nat) (v : StreamSt) : (s.setStream n v).net = s.net := rfl
@[simp] theorem State.setStream_part (s : State) (n : Nat) (v : StreamSt) : (s.setStream n v).part = s.part := rfl
@[simp] theorem State.setStream_trust (s : State) (n : Nat) (v : StreamSt) : (s.setStream n v).trust = s.trust := rfl
@[simp] theorem State.setStream_pwr (s : State) (n : Nat) (v : StreamSt) : (s.setStream n v).pwr = s.pwr := rfl
@[simp] theorem State.setStream_hw (s : State) (n : Nat) (v : StreamSt) : (s.setStream n v).hw = s.hw := rfl
@[simp] theorem State.setStream_dbg (s : State) (n : Nat) (v : StreamSt) : (s.setStream n v).dbg = s.dbg := rfl
@[simp] theorem State.setStream_fab (s : State) (n : Nat) (v : StreamSt) : (s.setStream n v).fab = s.fab := rfl
@[simp] theorem State.setStream_tier (s : State) (n : Nat) (v : StreamSt) : (s.setStream n v).tier = s.tier := rfl
@[simp] theorem State.setStream_quay (s : State) (n : Nat) (v : StreamSt) : (s.setStream n v).quay = s.quay := rfl
@[simp] theorem State.setStream_ctl (s : State) (n : Nat) (v : StreamSt) : (s.setStream n v).ctl = s.ctl := rfl
@[simp] theorem State.setStream_arith (s : State) (n : Nat) (v : StreamSt) : (s.setStream n v).arith = s.arith := rfl
@[simp] theorem State.setStream_rank (s : State) (n : Nat) (v : StreamSt) : (s.setStream n v).rank = s.rank := rfl
@[simp] theorem State.setStream_sk (s : State) (n : Nat) (v : StreamSt) : (s.setStream n v).sk = s.sk := rfl
@[simp] theorem State.setStream_eng (s : State) (n : Nat) (v : StreamSt) : (s.setStream n v).eng = s.eng := rfl
@[simp] theorem State.setStream_coll (s : State) (n : Nat) (v : StreamSt) : (s.setStream n v).coll = s.coll := rfl
@[simp] theorem State.setStream_reg (s : State) (n : Nat) (v : StreamSt) (x : Reg) : (s.setStream n v).reg x = s.reg x := rfl
@[simp] theorem State.setStream_fld (s : State) (n : Nat) (v : StreamSt) (x : Reg) (y : Fld) : (s.setStream n v).fld x y = s.fld x y := rfl
@[simp] theorem State.setStream_flag (s : State) (n : Nat) (v : StreamSt) (x : Reg) (y : Fld) : (s.setStream n v).flag x y = s.flag x y := rfl

/-! ### State.setJob -/

@[simp] theorem State.setJob_pending (s : State) (n : Nat) (j : Option Job) : (s.setJob n j).pending = s.pending := State.setStream_pending ..
@[simp] theorem State.setJob_regs (s : State) (n : Nat) (j : Option Job) : (s.setJob n j).regs = s.regs := State.setStream_regs ..
@[simp] theorem State.setJob_mem (s : State) (n : Nat) (j : Option Job) : (s.setJob n j).mem = s.mem := State.setStream_mem ..
@[simp] theorem State.setJob_svcTime (s : State) (n : Nat) (j : Option Job) : (s.setJob n j).svcTime = s.svcTime := State.setStream_svcTime ..
@[simp] theorem State.setJob_fresh (s : State) (n : Nat) (j : Option Job) : (s.setJob n j).fresh = s.fresh := State.setStream_fresh ..
@[simp] theorem State.setJob_outbox (s : State) (n : Nat) (j : Option Job) : (s.setJob n j).outbox = s.outbox := State.setStream_outbox ..
@[simp] theorem State.setJob_evt (s : State) (n : Nat) (j : Option Job) : (s.setJob n j).evt = s.evt := State.setStream_evt ..
@[simp] theorem State.setJob_net (s : State) (n : Nat) (j : Option Job) : (s.setJob n j).net = s.net := State.setStream_net ..
@[simp] theorem State.setJob_part (s : State) (n : Nat) (j : Option Job) : (s.setJob n j).part = s.part := State.setStream_part ..
@[simp] theorem State.setJob_trust (s : State) (n : Nat) (j : Option Job) : (s.setJob n j).trust = s.trust := State.setStream_trust ..
@[simp] theorem State.setJob_pwr (s : State) (n : Nat) (j : Option Job) : (s.setJob n j).pwr = s.pwr := State.setStream_pwr ..
@[simp] theorem State.setJob_hw (s : State) (n : Nat) (j : Option Job) : (s.setJob n j).hw = s.hw := State.setStream_hw ..
@[simp] theorem State.setJob_dbg (s : State) (n : Nat) (j : Option Job) : (s.setJob n j).dbg = s.dbg := State.setStream_dbg ..
@[simp] theorem State.setJob_fab (s : State) (n : Nat) (j : Option Job) : (s.setJob n j).fab = s.fab := State.setStream_fab ..
@[simp] theorem State.setJob_tier (s : State) (n : Nat) (j : Option Job) : (s.setJob n j).tier = s.tier := State.setStream_tier ..
@[simp] theorem State.setJob_quay (s : State) (n : Nat) (j : Option Job) : (s.setJob n j).quay = s.quay := State.setStream_quay ..
@[simp] theorem State.setJob_ctl (s : State) (n : Nat) (j : Option Job) : (s.setJob n j).ctl = s.ctl := State.setStream_ctl ..
@[simp] theorem State.setJob_arith (s : State) (n : Nat) (j : Option Job) : (s.setJob n j).arith = s.arith := State.setStream_arith ..
@[simp] theorem State.setJob_rank (s : State) (n : Nat) (j : Option Job) : (s.setJob n j).rank = s.rank := State.setStream_rank ..
@[simp] theorem State.setJob_sk (s : State) (n : Nat) (j : Option Job) : (s.setJob n j).sk = s.sk := State.setStream_sk ..
@[simp] theorem State.setJob_eng (s : State) (n : Nat) (j : Option Job) : (s.setJob n j).eng = s.eng := State.setStream_eng ..
@[simp] theorem State.setJob_coll (s : State) (n : Nat) (j : Option Job) : (s.setJob n j).coll = s.coll := State.setStream_coll ..
@[simp] theorem State.setJob_reg (s : State) (n : Nat) (j : Option Job) (x : Reg) : (s.setJob n j).reg x = s.reg x := State.setStream_reg ..
@[simp] theorem State.setJob_fld (s : State) (n : Nat) (j : Option Job) (x : Reg) (y : Fld) : (s.setJob n j).fld x y = s.fld x y := State.setStream_fld ..
@[simp] theorem State.setJob_flag (s : State) (n : Nat) (j : Option Job) (x : Reg) (y : Fld) : (s.setJob n j).flag x y = s.flag x y := State.setStream_flag ..

/-! ### State.putStream -/

@[simp] theorem State.putStream_pending (s : State) (n : Nat) (bs : List Byte) : (s.putStream n bs).pending = s.pending := State.setStream_pending ..
@[simp] theorem State.putStream_regs (s : State) (n : Nat) (bs : List Byte) : (s.putStream n bs).regs = s.regs := State.setStream_regs ..
@[simp] theorem State.putStream_mem (s : State) (n : Nat) (bs : List Byte) : (s.putStream n bs).mem = s.mem := State.setStream_mem ..
@[simp] theorem State.putStream_svcTime (s : State) (n : Nat) (bs : List Byte) : (s.putStream n bs).svcTime = s.svcTime := State.setStream_svcTime ..
@[simp] theorem State.putStream_fresh (s : State) (n : Nat) (bs : List Byte) : (s.putStream n bs).fresh = s.fresh := State.setStream_fresh ..
@[simp] theorem State.putStream_outbox (s : State) (n : Nat) (bs : List Byte) : (s.putStream n bs).outbox = s.outbox := State.setStream_outbox ..
@[simp] theorem State.putStream_evt (s : State) (n : Nat) (bs : List Byte) : (s.putStream n bs).evt = s.evt := State.setStream_evt ..
@[simp] theorem State.putStream_net (s : State) (n : Nat) (bs : List Byte) : (s.putStream n bs).net = s.net := State.setStream_net ..
@[simp] theorem State.putStream_part (s : State) (n : Nat) (bs : List Byte) : (s.putStream n bs).part = s.part := State.setStream_part ..
@[simp] theorem State.putStream_trust (s : State) (n : Nat) (bs : List Byte) : (s.putStream n bs).trust = s.trust := State.setStream_trust ..
@[simp] theorem State.putStream_pwr (s : State) (n : Nat) (bs : List Byte) : (s.putStream n bs).pwr = s.pwr := State.setStream_pwr ..
@[simp] theorem State.putStream_hw (s : State) (n : Nat) (bs : List Byte) : (s.putStream n bs).hw = s.hw := State.setStream_hw ..
@[simp] theorem State.putStream_dbg (s : State) (n : Nat) (bs : List Byte) : (s.putStream n bs).dbg = s.dbg := State.setStream_dbg ..
@[simp] theorem State.putStream_fab (s : State) (n : Nat) (bs : List Byte) : (s.putStream n bs).fab = s.fab := State.setStream_fab ..
@[simp] theorem State.putStream_tier (s : State) (n : Nat) (bs : List Byte) : (s.putStream n bs).tier = s.tier := State.setStream_tier ..
@[simp] theorem State.putStream_quay (s : State) (n : Nat) (bs : List Byte) : (s.putStream n bs).quay = s.quay := State.setStream_quay ..
@[simp] theorem State.putStream_ctl (s : State) (n : Nat) (bs : List Byte) : (s.putStream n bs).ctl = s.ctl := State.setStream_ctl ..
@[simp] theorem State.putStream_arith (s : State) (n : Nat) (bs : List Byte) : (s.putStream n bs).arith = s.arith := State.setStream_arith ..
@[simp] theorem State.putStream_rank (s : State) (n : Nat) (bs : List Byte) : (s.putStream n bs).rank = s.rank := State.setStream_rank ..
@[simp] theorem State.putStream_sk (s : State) (n : Nat) (bs : List Byte) : (s.putStream n bs).sk = s.sk := State.setStream_sk ..
@[simp] theorem State.putStream_eng (s : State) (n : Nat) (bs : List Byte) : (s.putStream n bs).eng = s.eng := State.setStream_eng ..
@[simp] theorem State.putStream_coll (s : State) (n : Nat) (bs : List Byte) : (s.putStream n bs).coll = s.coll := State.setStream_coll ..
@[simp] theorem State.putStream_reg (s : State) (n : Nat) (bs : List Byte) (x : Reg) : (s.putStream n bs).reg x = s.reg x := State.setStream_reg ..
@[simp] theorem State.putStream_fld (s : State) (n : Nat) (bs : List Byte) (x : Reg) (y : Fld) : (s.putStream n bs).fld x y = s.fld x y := State.setStream_fld ..
@[simp] theorem State.putStream_flag (s : State) (n : Nat) (bs : List Byte) (x : Reg) (y : Fld) : (s.putStream n bs).flag x y = s.flag x y := State.setStream_flag ..

/-! ### State.setNbu -/

@[simp] theorem State.setNbu_pending (s : State) (g : Nat) (v : Nbu) : (s.setNbu g v).pending = s.pending := rfl
@[simp] theorem State.setNbu_regs (s : State) (g : Nat) (v : Nbu) : (s.setNbu g v).regs = s.regs := rfl
@[simp] theorem State.setNbu_mem (s : State) (g : Nat) (v : Nbu) : (s.setNbu g v).mem = s.mem := rfl
@[simp] theorem State.setNbu_svcTime (s : State) (g : Nat) (v : Nbu) : (s.setNbu g v).svcTime = s.svcTime := rfl
@[simp] theorem State.setNbu_fresh (s : State) (g : Nat) (v : Nbu) : (s.setNbu g v).fresh = s.fresh := rfl
@[simp] theorem State.setNbu_outbox (s : State) (g : Nat) (v : Nbu) : (s.setNbu g v).outbox = s.outbox := rfl
@[simp] theorem State.setNbu_evt (s : State) (g : Nat) (v : Nbu) : (s.setNbu g v).evt = s.evt := rfl
@[simp] theorem State.setNbu_net (s : State) (g : Nat) (v : Nbu) : (s.setNbu g v).net = s.net := rfl
@[simp] theorem State.setNbu_part (s : State) (g : Nat) (v : Nbu) : (s.setNbu g v).part = s.part := rfl
@[simp] theorem State.setNbu_trust (s : State) (g : Nat) (v : Nbu) : (s.setNbu g v).trust = s.trust := rfl
@[simp] theorem State.setNbu_pwr (s : State) (g : Nat) (v : Nbu) : (s.setNbu g v).pwr = s.pwr := rfl
@[simp] theorem State.setNbu_hw (s : State) (g : Nat) (v : Nbu) : (s.setNbu g v).hw = s.hw := rfl
@[simp] theorem State.setNbu_dbg (s : State) (g : Nat) (v : Nbu) : (s.setNbu g v).dbg = s.dbg := rfl
@[simp] theorem State.setNbu_fab (s : State) (g : Nat) (v : Nbu) : (s.setNbu g v).fab = s.fab := rfl
@[simp] theorem State.setNbu_tier (s : State) (g : Nat) (v : Nbu) : (s.setNbu g v).tier = s.tier := rfl
@[simp] theorem State.setNbu_quay (s : State) (g : Nat) (v : Nbu) : (s.setNbu g v).quay = s.quay := rfl
@[simp] theorem State.setNbu_ctl (s : State) (g : Nat) (v : Nbu) : (s.setNbu g v).ctl = s.ctl := rfl
@[simp] theorem State.setNbu_arith (s : State) (g : Nat) (v : Nbu) : (s.setNbu g v).arith = s.arith := rfl
@[simp] theorem State.setNbu_rank (s : State) (g : Nat) (v : Nbu) : (s.setNbu g v).rank = s.rank := rfl
@[simp] theorem State.setNbu_fry (s : State) (g : Nat) (v : Nbu) : (s.setNbu g v).fry = s.fry := rfl
@[simp] theorem State.setNbu_eng (s : State) (g : Nat) (v : Nbu) : (s.setNbu g v).eng = s.eng := rfl
@[simp] theorem State.setNbu_coll (s : State) (g : Nat) (v : Nbu) : (s.setNbu g v).coll = s.coll := rfl
@[simp] theorem State.setNbu_reg (s : State) (g : Nat) (v : Nbu) (x : Reg) : (s.setNbu g v).reg x = s.reg x := rfl
@[simp] theorem State.setNbu_fld (s : State) (g : Nat) (v : Nbu) (x : Reg) (y : Fld) : (s.setNbu g v).fld x y = s.fld x y := rfl
@[simp] theorem State.setNbu_flag (s : State) (g : Nat) (v : Nbu) (x : Reg) (y : Fld) : (s.setNbu g v).flag x y = s.flag x y := rfl

/-! ### State.setAcc -/

@[simp] theorem State.setAcc_pending (s : State) (k v : Nat) : (s.setAcc k v).pending = s.pending := rfl
@[simp] theorem State.setAcc_regs (s : State) (k v : Nat) : (s.setAcc k v).regs = s.regs := rfl
@[simp] theorem State.setAcc_mem (s : State) (k v : Nat) : (s.setAcc k v).mem = s.mem := rfl
@[simp] theorem State.setAcc_svcTime (s : State) (k v : Nat) : (s.setAcc k v).svcTime = s.svcTime := rfl
@[simp] theorem State.setAcc_fresh (s : State) (k v : Nat) : (s.setAcc k v).fresh = s.fresh := rfl
@[simp] theorem State.setAcc_outbox (s : State) (k v : Nat) : (s.setAcc k v).outbox = s.outbox := rfl
@[simp] theorem State.setAcc_evt (s : State) (k v : Nat) : (s.setAcc k v).evt = s.evt := rfl
@[simp] theorem State.setAcc_net (s : State) (k v : Nat) : (s.setAcc k v).net = s.net := rfl
@[simp] theorem State.setAcc_part (s : State) (k v : Nat) : (s.setAcc k v).part = s.part := rfl
@[simp] theorem State.setAcc_trust (s : State) (k v : Nat) : (s.setAcc k v).trust = s.trust := rfl
@[simp] theorem State.setAcc_pwr (s : State) (k v : Nat) : (s.setAcc k v).pwr = s.pwr := rfl
@[simp] theorem State.setAcc_hw (s : State) (k v : Nat) : (s.setAcc k v).hw = s.hw := rfl
@[simp] theorem State.setAcc_dbg (s : State) (k v : Nat) : (s.setAcc k v).dbg = s.dbg := rfl
@[simp] theorem State.setAcc_fab (s : State) (k v : Nat) : (s.setAcc k v).fab = s.fab := rfl
@[simp] theorem State.setAcc_tier (s : State) (k v : Nat) : (s.setAcc k v).tier = s.tier := rfl
@[simp] theorem State.setAcc_quay (s : State) (k v : Nat) : (s.setAcc k v).quay = s.quay := rfl
@[simp] theorem State.setAcc_ctl (s : State) (k v : Nat) : (s.setAcc k v).ctl = s.ctl := rfl
@[simp] theorem State.setAcc_arith (s : State) (k v : Nat) : (s.setAcc k v).arith = s.arith := rfl
@[simp] theorem State.setAcc_rank (s : State) (k v : Nat) : (s.setAcc k v).rank = s.rank := rfl
@[simp] theorem State.setAcc_fry (s : State) (k v : Nat) : (s.setAcc k v).fry = s.fry := rfl
@[simp] theorem State.setAcc_sk (s : State) (k v : Nat) : (s.setAcc k v).sk = s.sk := rfl
@[simp] theorem State.setAcc_coll (s : State) (k v : Nat) : (s.setAcc k v).coll = s.coll := rfl
@[simp] theorem State.setAcc_reg (s : State) (k v : Nat) (x : Reg) : (s.setAcc k v).reg x = s.reg x := rfl
@[simp] theorem State.setAcc_fld (s : State) (k v : Nat) (x : Reg) (y : Fld) : (s.setAcc k v).fld x y = s.fld x y := rfl
@[simp] theorem State.setAcc_flag (s : State) (k v : Nat) (x : Reg) (y : Fld) : (s.setAcc k v).flag x y = s.flag x y := rfl

/-! ### State.setVreg -/

@[simp] theorem State.setVreg_pending (s : State) (q t r v : Nat) : (s.setVreg q t r v).pending = s.pending := rfl
@[simp] theorem State.setVreg_regs (s : State) (q t r v : Nat) : (s.setVreg q t r v).regs = s.regs := rfl
@[simp] theorem State.setVreg_mem (s : State) (q t r v : Nat) : (s.setVreg q t r v).mem = s.mem := rfl
@[simp] theorem State.setVreg_svcTime (s : State) (q t r v : Nat) : (s.setVreg q t r v).svcTime = s.svcTime := rfl
@[simp] theorem State.setVreg_fresh (s : State) (q t r v : Nat) : (s.setVreg q t r v).fresh = s.fresh := rfl
@[simp] theorem State.setVreg_outbox (s : State) (q t r v : Nat) : (s.setVreg q t r v).outbox = s.outbox := rfl
@[simp] theorem State.setVreg_evt (s : State) (q t r v : Nat) : (s.setVreg q t r v).evt = s.evt := rfl
@[simp] theorem State.setVreg_net (s : State) (q t r v : Nat) : (s.setVreg q t r v).net = s.net := rfl
@[simp] theorem State.setVreg_part (s : State) (q t r v : Nat) : (s.setVreg q t r v).part = s.part := rfl
@[simp] theorem State.setVreg_trust (s : State) (q t r v : Nat) : (s.setVreg q t r v).trust = s.trust := rfl
@[simp] theorem State.setVreg_pwr (s : State) (q t r v : Nat) : (s.setVreg q t r v).pwr = s.pwr := rfl
@[simp] theorem State.setVreg_hw (s : State) (q t r v : Nat) : (s.setVreg q t r v).hw = s.hw := rfl
@[simp] theorem State.setVreg_dbg (s : State) (q t r v : Nat) : (s.setVreg q t r v).dbg = s.dbg := rfl
@[simp] theorem State.setVreg_fab (s : State) (q t r v : Nat) : (s.setVreg q t r v).fab = s.fab := rfl
@[simp] theorem State.setVreg_tier (s : State) (q t r v : Nat) : (s.setVreg q t r v).tier = s.tier := rfl
@[simp] theorem State.setVreg_quay (s : State) (q t r v : Nat) : (s.setVreg q t r v).quay = s.quay := rfl
@[simp] theorem State.setVreg_ctl (s : State) (q t r v : Nat) : (s.setVreg q t r v).ctl = s.ctl := rfl
@[simp] theorem State.setVreg_arith (s : State) (q t r v : Nat) : (s.setVreg q t r v).arith = s.arith := rfl
@[simp] theorem State.setVreg_rank (s : State) (q t r v : Nat) : (s.setVreg q t r v).rank = s.rank := rfl
@[simp] theorem State.setVreg_fry (s : State) (q t r v : Nat) : (s.setVreg q t r v).fry = s.fry := rfl
@[simp] theorem State.setVreg_sk (s : State) (q t r v : Nat) : (s.setVreg q t r v).sk = s.sk := rfl
@[simp] theorem State.setVreg_coll (s : State) (q t r v : Nat) : (s.setVreg q t r v).coll = s.coll := rfl
@[simp] theorem State.setVreg_reg (s : State) (q t r v : Nat) (x : Reg) : (s.setVreg q t r v).reg x = s.reg x := rfl
@[simp] theorem State.setVreg_fld (s : State) (q t r v : Nat) (x : Reg) (y : Fld) : (s.setVreg q t r v).fld x y = s.fld x y := rfl
@[simp] theorem State.setVreg_flag (s : State) (q t r v : Nat) (x : Reg) (y : Fld) : (s.setVreg q t r v).flag x y = s.flag x y := rfl

/-! ### State.setVmask -/

@[simp] theorem State.setVmask_pending (s : State) (q t m v : Nat) : (s.setVmask q t m v).pending = s.pending := rfl
@[simp] theorem State.setVmask_regs (s : State) (q t m v : Nat) : (s.setVmask q t m v).regs = s.regs := rfl
@[simp] theorem State.setVmask_mem (s : State) (q t m v : Nat) : (s.setVmask q t m v).mem = s.mem := rfl
@[simp] theorem State.setVmask_svcTime (s : State) (q t m v : Nat) : (s.setVmask q t m v).svcTime = s.svcTime := rfl
@[simp] theorem State.setVmask_fresh (s : State) (q t m v : Nat) : (s.setVmask q t m v).fresh = s.fresh := rfl
@[simp] theorem State.setVmask_outbox (s : State) (q t m v : Nat) : (s.setVmask q t m v).outbox = s.outbox := rfl
@[simp] theorem State.setVmask_evt (s : State) (q t m v : Nat) : (s.setVmask q t m v).evt = s.evt := rfl
@[simp] theorem State.setVmask_net (s : State) (q t m v : Nat) : (s.setVmask q t m v).net = s.net := rfl
@[simp] theorem State.setVmask_part (s : State) (q t m v : Nat) : (s.setVmask q t m v).part = s.part := rfl
@[simp] theorem State.setVmask_trust (s : State) (q t m v : Nat) : (s.setVmask q t m v).trust = s.trust := rfl
@[simp] theorem State.setVmask_pwr (s : State) (q t m v : Nat) : (s.setVmask q t m v).pwr = s.pwr := rfl
@[simp] theorem State.setVmask_hw (s : State) (q t m v : Nat) : (s.setVmask q t m v).hw = s.hw := rfl
@[simp] theorem State.setVmask_dbg (s : State) (q t m v : Nat) : (s.setVmask q t m v).dbg = s.dbg := rfl
@[simp] theorem State.setVmask_fab (s : State) (q t m v : Nat) : (s.setVmask q t m v).fab = s.fab := rfl
@[simp] theorem State.setVmask_tier (s : State) (q t m v : Nat) : (s.setVmask q t m v).tier = s.tier := rfl
@[simp] theorem State.setVmask_quay (s : State) (q t m v : Nat) : (s.setVmask q t m v).quay = s.quay := rfl
@[simp] theorem State.setVmask_ctl (s : State) (q t m v : Nat) : (s.setVmask q t m v).ctl = s.ctl := rfl
@[simp] theorem State.setVmask_arith (s : State) (q t m v : Nat) : (s.setVmask q t m v).arith = s.arith := rfl
@[simp] theorem State.setVmask_rank (s : State) (q t m v : Nat) : (s.setVmask q t m v).rank = s.rank := rfl
@[simp] theorem State.setVmask_fry (s : State) (q t m v : Nat) : (s.setVmask q t m v).fry = s.fry := rfl
@[simp] theorem State.setVmask_sk (s : State) (q t m v : Nat) : (s.setVmask q t m v).sk = s.sk := rfl
@[simp] theorem State.setVmask_coll (s : State) (q t m v : Nat) : (s.setVmask q t m v).coll = s.coll := rfl
@[simp] theorem State.setVmask_reg (s : State) (q t m v : Nat) (x : Reg) : (s.setVmask q t m v).reg x = s.reg x := rfl
@[simp] theorem State.setVmask_fld (s : State) (q t m v : Nat) (x : Reg) (y : Fld) : (s.setVmask q t m v).fld x y = s.fld x y := rfl
@[simp] theorem State.setVmask_flag (s : State) (q t m v : Nat) (x : Reg) (y : Fld) : (s.setVmask q t m v).flag x y = s.flag x y := rfl

/-! ### State.setXu -/

@[simp] theorem State.setXu_pending (s : State) (q : Nat) (v : XuSt) : (s.setXu q v).pending = s.pending := rfl
@[simp] theorem State.setXu_regs (s : State) (q : Nat) (v : XuSt) : (s.setXu q v).regs = s.regs := rfl
@[simp] theorem State.setXu_mem (s : State) (q : Nat) (v : XuSt) : (s.setXu q v).mem = s.mem := rfl
@[simp] theorem State.setXu_svcTime (s : State) (q : Nat) (v : XuSt) : (s.setXu q v).svcTime = s.svcTime := rfl
@[simp] theorem State.setXu_fresh (s : State) (q : Nat) (v : XuSt) : (s.setXu q v).fresh = s.fresh := rfl
@[simp] theorem State.setXu_outbox (s : State) (q : Nat) (v : XuSt) : (s.setXu q v).outbox = s.outbox := rfl
@[simp] theorem State.setXu_evt (s : State) (q : Nat) (v : XuSt) : (s.setXu q v).evt = s.evt := rfl
@[simp] theorem State.setXu_net (s : State) (q : Nat) (v : XuSt) : (s.setXu q v).net = s.net := rfl
@[simp] theorem State.setXu_part (s : State) (q : Nat) (v : XuSt) : (s.setXu q v).part = s.part := rfl
@[simp] theorem State.setXu_trust (s : State) (q : Nat) (v : XuSt) : (s.setXu q v).trust = s.trust := rfl
@[simp] theorem State.setXu_pwr (s : State) (q : Nat) (v : XuSt) : (s.setXu q v).pwr = s.pwr := rfl
@[simp] theorem State.setXu_hw (s : State) (q : Nat) (v : XuSt) : (s.setXu q v).hw = s.hw := rfl
@[simp] theorem State.setXu_dbg (s : State) (q : Nat) (v : XuSt) : (s.setXu q v).dbg = s.dbg := rfl
@[simp] theorem State.setXu_fab (s : State) (q : Nat) (v : XuSt) : (s.setXu q v).fab = s.fab := rfl
@[simp] theorem State.setXu_tier (s : State) (q : Nat) (v : XuSt) : (s.setXu q v).tier = s.tier := rfl
@[simp] theorem State.setXu_quay (s : State) (q : Nat) (v : XuSt) : (s.setXu q v).quay = s.quay := rfl
@[simp] theorem State.setXu_ctl (s : State) (q : Nat) (v : XuSt) : (s.setXu q v).ctl = s.ctl := rfl
@[simp] theorem State.setXu_arith (s : State) (q : Nat) (v : XuSt) : (s.setXu q v).arith = s.arith := rfl
@[simp] theorem State.setXu_rank (s : State) (q : Nat) (v : XuSt) : (s.setXu q v).rank = s.rank := rfl
@[simp] theorem State.setXu_fry (s : State) (q : Nat) (v : XuSt) : (s.setXu q v).fry = s.fry := rfl
@[simp] theorem State.setXu_sk (s : State) (q : Nat) (v : XuSt) : (s.setXu q v).sk = s.sk := rfl
@[simp] theorem State.setXu_coll (s : State) (q : Nat) (v : XuSt) : (s.setXu q v).coll = s.coll := rfl
@[simp] theorem State.setXu_reg (s : State) (q : Nat) (v : XuSt) (x : Reg) : (s.setXu q v).reg x = s.reg x := rfl
@[simp] theorem State.setXu_fld (s : State) (q : Nat) (v : XuSt) (x : Reg) (y : Fld) : (s.setXu q v).fld x y = s.fld x y := rfl
@[simp] theorem State.setXu_flag (s : State) (q : Nat) (v : XuSt) (x : Reg) (y : Fld) : (s.setXu q v).flag x y = s.flag x y := rfl

/-! ### State.setSlot -/

@[simp] theorem State.setSlot_pending (s : State) (q k : Nat) (v : Option SuSlot) : (s.setSlot q k v).pending = s.pending := rfl
@[simp] theorem State.setSlot_regs (s : State) (q k : Nat) (v : Option SuSlot) : (s.setSlot q k v).regs = s.regs := rfl
@[simp] theorem State.setSlot_mem (s : State) (q k : Nat) (v : Option SuSlot) : (s.setSlot q k v).mem = s.mem := rfl
@[simp] theorem State.setSlot_svcTime (s : State) (q k : Nat) (v : Option SuSlot) : (s.setSlot q k v).svcTime = s.svcTime := rfl
@[simp] theorem State.setSlot_fresh (s : State) (q k : Nat) (v : Option SuSlot) : (s.setSlot q k v).fresh = s.fresh := rfl
@[simp] theorem State.setSlot_outbox (s : State) (q k : Nat) (v : Option SuSlot) : (s.setSlot q k v).outbox = s.outbox := rfl
@[simp] theorem State.setSlot_evt (s : State) (q k : Nat) (v : Option SuSlot) : (s.setSlot q k v).evt = s.evt := rfl
@[simp] theorem State.setSlot_net (s : State) (q k : Nat) (v : Option SuSlot) : (s.setSlot q k v).net = s.net := rfl
@[simp] theorem State.setSlot_part (s : State) (q k : Nat) (v : Option SuSlot) : (s.setSlot q k v).part = s.part := rfl
@[simp] theorem State.setSlot_trust (s : State) (q k : Nat) (v : Option SuSlot) : (s.setSlot q k v).trust = s.trust := rfl
@[simp] theorem State.setSlot_pwr (s : State) (q k : Nat) (v : Option SuSlot) : (s.setSlot q k v).pwr = s.pwr := rfl
@[simp] theorem State.setSlot_hw (s : State) (q k : Nat) (v : Option SuSlot) : (s.setSlot q k v).hw = s.hw := rfl
@[simp] theorem State.setSlot_dbg (s : State) (q k : Nat) (v : Option SuSlot) : (s.setSlot q k v).dbg = s.dbg := rfl
@[simp] theorem State.setSlot_fab (s : State) (q k : Nat) (v : Option SuSlot) : (s.setSlot q k v).fab = s.fab := rfl
@[simp] theorem State.setSlot_tier (s : State) (q k : Nat) (v : Option SuSlot) : (s.setSlot q k v).tier = s.tier := rfl
@[simp] theorem State.setSlot_quay (s : State) (q k : Nat) (v : Option SuSlot) : (s.setSlot q k v).quay = s.quay := rfl
@[simp] theorem State.setSlot_ctl (s : State) (q k : Nat) (v : Option SuSlot) : (s.setSlot q k v).ctl = s.ctl := rfl
@[simp] theorem State.setSlot_arith (s : State) (q k : Nat) (v : Option SuSlot) : (s.setSlot q k v).arith = s.arith := rfl
@[simp] theorem State.setSlot_rank (s : State) (q k : Nat) (v : Option SuSlot) : (s.setSlot q k v).rank = s.rank := rfl
@[simp] theorem State.setSlot_fry (s : State) (q k : Nat) (v : Option SuSlot) : (s.setSlot q k v).fry = s.fry := rfl
@[simp] theorem State.setSlot_sk (s : State) (q k : Nat) (v : Option SuSlot) : (s.setSlot q k v).sk = s.sk := rfl
@[simp] theorem State.setSlot_coll (s : State) (q k : Nat) (v : Option SuSlot) : (s.setSlot q k v).coll = s.coll := rfl
@[simp] theorem State.setSlot_reg (s : State) (q k : Nat) (v : Option SuSlot) (x : Reg) : (s.setSlot q k v).reg x = s.reg x := rfl
@[simp] theorem State.setSlot_fld (s : State) (q k : Nat) (v : Option SuSlot) (x : Reg) (y : Fld) : (s.setSlot q k v).fld x y = s.fld x y := rfl
@[simp] theorem State.setSlot_flag (s : State) (q k : Nat) (v : Option SuSlot) (x : Reg) (y : Fld) : (s.setSlot q k v).flag x y = s.flag x y := rfl

/-! ### State.setSharers -/

@[simp] theorem State.setSharers_pending (s : State) (line v : Nat) : (s.setSharers line v).pending = s.pending := rfl
@[simp] theorem State.setSharers_regs (s : State) (line v : Nat) : (s.setSharers line v).regs = s.regs := rfl
@[simp] theorem State.setSharers_mem (s : State) (line v : Nat) : (s.setSharers line v).mem = s.mem := rfl
@[simp] theorem State.setSharers_svcTime (s : State) (line v : Nat) : (s.setSharers line v).svcTime = s.svcTime := rfl
@[simp] theorem State.setSharers_fresh (s : State) (line v : Nat) : (s.setSharers line v).fresh = s.fresh := rfl
@[simp] theorem State.setSharers_outbox (s : State) (line v : Nat) : (s.setSharers line v).outbox = s.outbox := rfl
@[simp] theorem State.setSharers_evt (s : State) (line v : Nat) : (s.setSharers line v).evt = s.evt := rfl
@[simp] theorem State.setSharers_part (s : State) (line v : Nat) : (s.setSharers line v).part = s.part := rfl
@[simp] theorem State.setSharers_trust (s : State) (line v : Nat) : (s.setSharers line v).trust = s.trust := rfl
@[simp] theorem State.setSharers_pwr (s : State) (line v : Nat) : (s.setSharers line v).pwr = s.pwr := rfl
@[simp] theorem State.setSharers_hw (s : State) (line v : Nat) : (s.setSharers line v).hw = s.hw := rfl
@[simp] theorem State.setSharers_dbg (s : State) (line v : Nat) : (s.setSharers line v).dbg = s.dbg := rfl
@[simp] theorem State.setSharers_fab (s : State) (line v : Nat) : (s.setSharers line v).fab = s.fab := rfl
@[simp] theorem State.setSharers_tier (s : State) (line v : Nat) : (s.setSharers line v).tier = s.tier := rfl
@[simp] theorem State.setSharers_quay (s : State) (line v : Nat) : (s.setSharers line v).quay = s.quay := rfl
@[simp] theorem State.setSharers_ctl (s : State) (line v : Nat) : (s.setSharers line v).ctl = s.ctl := rfl
@[simp] theorem State.setSharers_arith (s : State) (line v : Nat) : (s.setSharers line v).arith = s.arith := rfl
@[simp] theorem State.setSharers_rank (s : State) (line v : Nat) : (s.setSharers line v).rank = s.rank := rfl
@[simp] theorem State.setSharers_fry (s : State) (line v : Nat) : (s.setSharers line v).fry = s.fry := rfl
@[simp] theorem State.setSharers_sk (s : State) (line v : Nat) : (s.setSharers line v).sk = s.sk := rfl
@[simp] theorem State.setSharers_eng (s : State) (line v : Nat) : (s.setSharers line v).eng = s.eng := rfl
@[simp] theorem State.setSharers_coll (s : State) (line v : Nat) : (s.setSharers line v).coll = s.coll := rfl
@[simp] theorem State.setSharers_reg (s : State) (line v : Nat) (x : Reg) : (s.setSharers line v).reg x = s.reg x := rfl
@[simp] theorem State.setSharers_fld (s : State) (line v : Nat) (x : Reg) (y : Fld) : (s.setSharers line v).fld x y = s.fld x y := rfl
@[simp] theorem State.setSharers_flag (s : State) (line v : Nat) (x : Reg) (y : Fld) : (s.setSharers line v).flag x y = s.flag x y := rfl

/-! ### State.setPool -/

@[simp] theorem State.setPool_pending (s : State) (k : Nat) (p : PoolSt) : (s.setPool k p).pending = s.pending := rfl
@[simp] theorem State.setPool_regs (s : State) (k : Nat) (p : PoolSt) : (s.setPool k p).regs = s.regs := rfl
@[simp] theorem State.setPool_mem (s : State) (k : Nat) (p : PoolSt) : (s.setPool k p).mem = s.mem := rfl
@[simp] theorem State.setPool_svcTime (s : State) (k : Nat) (p : PoolSt) : (s.setPool k p).svcTime = s.svcTime := rfl
@[simp] theorem State.setPool_fresh (s : State) (k : Nat) (p : PoolSt) : (s.setPool k p).fresh = s.fresh := rfl
@[simp] theorem State.setPool_outbox (s : State) (k : Nat) (p : PoolSt) : (s.setPool k p).outbox = s.outbox := rfl
@[simp] theorem State.setPool_evt (s : State) (k : Nat) (p : PoolSt) : (s.setPool k p).evt = s.evt := rfl
@[simp] theorem State.setPool_part (s : State) (k : Nat) (p : PoolSt) : (s.setPool k p).part = s.part := rfl
@[simp] theorem State.setPool_trust (s : State) (k : Nat) (p : PoolSt) : (s.setPool k p).trust = s.trust := rfl
@[simp] theorem State.setPool_pwr (s : State) (k : Nat) (p : PoolSt) : (s.setPool k p).pwr = s.pwr := rfl
@[simp] theorem State.setPool_hw (s : State) (k : Nat) (p : PoolSt) : (s.setPool k p).hw = s.hw := rfl
@[simp] theorem State.setPool_dbg (s : State) (k : Nat) (p : PoolSt) : (s.setPool k p).dbg = s.dbg := rfl
@[simp] theorem State.setPool_fab (s : State) (k : Nat) (p : PoolSt) : (s.setPool k p).fab = s.fab := rfl
@[simp] theorem State.setPool_tier (s : State) (k : Nat) (p : PoolSt) : (s.setPool k p).tier = s.tier := rfl
@[simp] theorem State.setPool_quay (s : State) (k : Nat) (p : PoolSt) : (s.setPool k p).quay = s.quay := rfl
@[simp] theorem State.setPool_ctl (s : State) (k : Nat) (p : PoolSt) : (s.setPool k p).ctl = s.ctl := rfl
@[simp] theorem State.setPool_arith (s : State) (k : Nat) (p : PoolSt) : (s.setPool k p).arith = s.arith := rfl
@[simp] theorem State.setPool_rank (s : State) (k : Nat) (p : PoolSt) : (s.setPool k p).rank = s.rank := rfl
@[simp] theorem State.setPool_fry (s : State) (k : Nat) (p : PoolSt) : (s.setPool k p).fry = s.fry := rfl
@[simp] theorem State.setPool_sk (s : State) (k : Nat) (p : PoolSt) : (s.setPool k p).sk = s.sk := rfl
@[simp] theorem State.setPool_eng (s : State) (k : Nat) (p : PoolSt) : (s.setPool k p).eng = s.eng := rfl
@[simp] theorem State.setPool_coll (s : State) (k : Nat) (p : PoolSt) : (s.setPool k p).coll = s.coll := rfl
@[simp] theorem State.setPool_reg (s : State) (k : Nat) (p : PoolSt) (x : Reg) : (s.setPool k p).reg x = s.reg x := rfl
@[simp] theorem State.setPool_fld (s : State) (k : Nat) (p : PoolSt) (x : Reg) (y : Fld) : (s.setPool k p).fld x y = s.fld x y := rfl
@[simp] theorem State.setPool_flag (s : State) (k : Nat) (p : PoolSt) (x : Reg) (y : Fld) : (s.setPool k p).flag x y = s.flag x y := rfl

/-! ### State.setTap -/

@[simp] theorem State.setTap_pending (s : State) (t : Nat) (v : Tap) : (s.setTap t v).pending = s.pending := rfl
@[simp] theorem State.setTap_regs (s : State) (t : Nat) (v : Tap) : (s.setTap t v).regs = s.regs := rfl
@[simp] theorem State.setTap_mem (s : State) (t : Nat) (v : Tap) : (s.setTap t v).mem = s.mem := rfl
@[simp] theorem State.setTap_svcTime (s : State) (t : Nat) (v : Tap) : (s.setTap t v).svcTime = s.svcTime := rfl
@[simp] theorem State.setTap_fresh (s : State) (t : Nat) (v : Tap) : (s.setTap t v).fresh = s.fresh := rfl
@[simp] theorem State.setTap_outbox (s : State) (t : Nat) (v : Tap) : (s.setTap t v).outbox = s.outbox := rfl
@[simp] theorem State.setTap_evt (s : State) (t : Nat) (v : Tap) : (s.setTap t v).evt = s.evt := rfl
@[simp] theorem State.setTap_net (s : State) (t : Nat) (v : Tap) : (s.setTap t v).net = s.net := rfl
@[simp] theorem State.setTap_part (s : State) (t : Nat) (v : Tap) : (s.setTap t v).part = s.part := rfl
@[simp] theorem State.setTap_trust (s : State) (t : Nat) (v : Tap) : (s.setTap t v).trust = s.trust := rfl
@[simp] theorem State.setTap_pwr (s : State) (t : Nat) (v : Tap) : (s.setTap t v).pwr = s.pwr := rfl
@[simp] theorem State.setTap_hw (s : State) (t : Nat) (v : Tap) : (s.setTap t v).hw = s.hw := rfl
@[simp] theorem State.setTap_fab (s : State) (t : Nat) (v : Tap) : (s.setTap t v).fab = s.fab := rfl
@[simp] theorem State.setTap_tier (s : State) (t : Nat) (v : Tap) : (s.setTap t v).tier = s.tier := rfl
@[simp] theorem State.setTap_quay (s : State) (t : Nat) (v : Tap) : (s.setTap t v).quay = s.quay := rfl
@[simp] theorem State.setTap_ctl (s : State) (t : Nat) (v : Tap) : (s.setTap t v).ctl = s.ctl := rfl
@[simp] theorem State.setTap_arith (s : State) (t : Nat) (v : Tap) : (s.setTap t v).arith = s.arith := rfl
@[simp] theorem State.setTap_rank (s : State) (t : Nat) (v : Tap) : (s.setTap t v).rank = s.rank := rfl
@[simp] theorem State.setTap_fry (s : State) (t : Nat) (v : Tap) : (s.setTap t v).fry = s.fry := rfl
@[simp] theorem State.setTap_sk (s : State) (t : Nat) (v : Tap) : (s.setTap t v).sk = s.sk := rfl
@[simp] theorem State.setTap_eng (s : State) (t : Nat) (v : Tap) : (s.setTap t v).eng = s.eng := rfl
@[simp] theorem State.setTap_coll (s : State) (t : Nat) (v : Tap) : (s.setTap t v).coll = s.coll := rfl
@[simp] theorem State.setTap_reg (s : State) (t : Nat) (v : Tap) (x : Reg) : (s.setTap t v).reg x = s.reg x := rfl
@[simp] theorem State.setTap_fld (s : State) (t : Nat) (v : Tap) (x : Reg) (y : Fld) : (s.setTap t v).fld x y = s.fld x y := rfl
@[simp] theorem State.setTap_flag (s : State) (t : Nat) (v : Tap) (x : Reg) (y : Fld) : (s.setTap t v).flag x y = s.flag x y := rfl

/-! ### State.affect -/

@[simp] theorem State.affect_pending (s : State) (p code : Nat) : (s.affect p code).pending = s.pending := rfl
@[simp] theorem State.affect_regs (s : State) (p code : Nat) : (s.affect p code).regs = s.regs := rfl
@[simp] theorem State.affect_mem (s : State) (p code : Nat) : (s.affect p code).mem = s.mem := rfl
@[simp] theorem State.affect_svcTime (s : State) (p code : Nat) : (s.affect p code).svcTime = s.svcTime := rfl
@[simp] theorem State.affect_fresh (s : State) (p code : Nat) : (s.affect p code).fresh = s.fresh := rfl
@[simp] theorem State.affect_outbox (s : State) (p code : Nat) : (s.affect p code).outbox = s.outbox := rfl
@[simp] theorem State.affect_evt (s : State) (p code : Nat) : (s.affect p code).evt = s.evt := rfl
@[simp] theorem State.affect_net (s : State) (p code : Nat) : (s.affect p code).net = s.net := rfl
@[simp] theorem State.affect_part (s : State) (p code : Nat) : (s.affect p code).part = s.part := rfl
@[simp] theorem State.affect_trust (s : State) (p code : Nat) : (s.affect p code).trust = s.trust := rfl
@[simp] theorem State.affect_hw (s : State) (p code : Nat) : (s.affect p code).hw = s.hw := rfl
@[simp] theorem State.affect_dbg (s : State) (p code : Nat) : (s.affect p code).dbg = s.dbg := rfl
@[simp] theorem State.affect_fab (s : State) (p code : Nat) : (s.affect p code).fab = s.fab := rfl
@[simp] theorem State.affect_tier (s : State) (p code : Nat) : (s.affect p code).tier = s.tier := rfl
@[simp] theorem State.affect_quay (s : State) (p code : Nat) : (s.affect p code).quay = s.quay := rfl
@[simp] theorem State.affect_ctl (s : State) (p code : Nat) : (s.affect p code).ctl = s.ctl := rfl
@[simp] theorem State.affect_arith (s : State) (p code : Nat) : (s.affect p code).arith = s.arith := rfl
@[simp] theorem State.affect_rank (s : State) (p code : Nat) : (s.affect p code).rank = s.rank := rfl
@[simp] theorem State.affect_fry (s : State) (p code : Nat) : (s.affect p code).fry = s.fry := rfl
@[simp] theorem State.affect_sk (s : State) (p code : Nat) : (s.affect p code).sk = s.sk := rfl
@[simp] theorem State.affect_eng (s : State) (p code : Nat) : (s.affect p code).eng = s.eng := rfl
@[simp] theorem State.affect_coll (s : State) (p code : Nat) : (s.affect p code).coll = s.coll := rfl
@[simp] theorem State.affect_reg (s : State) (p code : Nat) (x : Reg) : (s.affect p code).reg x = s.reg x := rfl
@[simp] theorem State.affect_fld (s : State) (p code : Nat) (x : Reg) (y : Fld) : (s.affect p code).fld x y = s.fld x y := rfl
@[simp] theorem State.affect_flag (s : State) (p code : Nat) (x : Reg) (y : Fld) : (s.affect p code).flag x y = s.flag x y := rfl

/-! ### State.mapNbu -/

@[simp] theorem State.mapNbu_pending (s : State) (g : Nat) (f : Nbu → Nbu) : (s.mapNbu g f).pending = s.pending := State.setNbu_pending ..
@[simp] theorem State.mapNbu_regs (s : State) (g : Nat) (f : Nbu → Nbu) : (s.mapNbu g f).regs = s.regs := State.setNbu_regs ..
@[simp] theorem State.mapNbu_mem (s : State) (g : Nat) (f : Nbu → Nbu) : (s.mapNbu g f).mem = s.mem := State.setNbu_mem ..
@[simp] theorem State.mapNbu_svcTime (s : State) (g : Nat) (f : Nbu → Nbu) : (s.mapNbu g f).svcTime = s.svcTime := State.setNbu_svcTime ..
@[simp] theorem State.mapNbu_fresh (s : State) (g : Nat) (f : Nbu → Nbu) : (s.mapNbu g f).fresh = s.fresh := State.setNbu_fresh ..
@[simp] theorem State.mapNbu_outbox (s : State) (g : Nat) (f : Nbu → Nbu) : (s.mapNbu g f).outbox = s.outbox := State.setNbu_outbox ..
@[simp] theorem State.mapNbu_evt (s : State) (g : Nat) (f : Nbu → Nbu) : (s.mapNbu g f).evt = s.evt := State.setNbu_evt ..
@[simp] theorem State.mapNbu_net (s : State) (g : Nat) (f : Nbu → Nbu) : (s.mapNbu g f).net = s.net := State.setNbu_net ..
@[simp] theorem State.mapNbu_part (s : State) (g : Nat) (f : Nbu → Nbu) : (s.mapNbu g f).part = s.part := State.setNbu_part ..
@[simp] theorem State.mapNbu_trust (s : State) (g : Nat) (f : Nbu → Nbu) : (s.mapNbu g f).trust = s.trust := State.setNbu_trust ..
@[simp] theorem State.mapNbu_pwr (s : State) (g : Nat) (f : Nbu → Nbu) : (s.mapNbu g f).pwr = s.pwr := State.setNbu_pwr ..
@[simp] theorem State.mapNbu_hw (s : State) (g : Nat) (f : Nbu → Nbu) : (s.mapNbu g f).hw = s.hw := State.setNbu_hw ..
@[simp] theorem State.mapNbu_dbg (s : State) (g : Nat) (f : Nbu → Nbu) : (s.mapNbu g f).dbg = s.dbg := State.setNbu_dbg ..
@[simp] theorem State.mapNbu_fab (s : State) (g : Nat) (f : Nbu → Nbu) : (s.mapNbu g f).fab = s.fab := State.setNbu_fab ..
@[simp] theorem State.mapNbu_tier (s : State) (g : Nat) (f : Nbu → Nbu) : (s.mapNbu g f).tier = s.tier := State.setNbu_tier ..
@[simp] theorem State.mapNbu_quay (s : State) (g : Nat) (f : Nbu → Nbu) : (s.mapNbu g f).quay = s.quay := State.setNbu_quay ..
@[simp] theorem State.mapNbu_ctl (s : State) (g : Nat) (f : Nbu → Nbu) : (s.mapNbu g f).ctl = s.ctl := State.setNbu_ctl ..
@[simp] theorem State.mapNbu_arith (s : State) (g : Nat) (f : Nbu → Nbu) : (s.mapNbu g f).arith = s.arith := State.setNbu_arith ..
@[simp] theorem State.mapNbu_rank (s : State) (g : Nat) (f : Nbu → Nbu) : (s.mapNbu g f).rank = s.rank := State.setNbu_rank ..
@[simp] theorem State.mapNbu_fry (s : State) (g : Nat) (f : Nbu → Nbu) : (s.mapNbu g f).fry = s.fry := State.setNbu_fry ..
@[simp] theorem State.mapNbu_eng (s : State) (g : Nat) (f : Nbu → Nbu) : (s.mapNbu g f).eng = s.eng := State.setNbu_eng ..
@[simp] theorem State.mapNbu_coll (s : State) (g : Nat) (f : Nbu → Nbu) : (s.mapNbu g f).coll = s.coll := State.setNbu_coll ..
@[simp] theorem State.mapNbu_reg (s : State) (g : Nat) (f : Nbu → Nbu) (x : Reg) : (s.mapNbu g f).reg x = s.reg x := State.setNbu_reg ..
@[simp] theorem State.mapNbu_fld (s : State) (g : Nat) (f : Nbu → Nbu) (x : Reg) (y : Fld) : (s.mapNbu g f).fld x y = s.fld x y := State.setNbu_fld ..
@[simp] theorem State.mapNbu_flag (s : State) (g : Nat) (f : Nbu → Nbu) (x : Reg) (y : Fld) : (s.mapNbu g f).flag x y = s.flag x y := State.setNbu_flag ..

/-! ### State.setHubCmds -/

@[simp] theorem State.setHubCmds_pending (s : State) (g : Nat) (cs : List NbuCmd) : (s.setHubCmds g cs).pending = s.pending := rfl
@[simp] theorem State.setHubCmds_regs (s : State) (g : Nat) (cs : List NbuCmd) : (s.setHubCmds g cs).regs = s.regs := rfl
@[simp] theorem State.setHubCmds_mem (s : State) (g : Nat) (cs : List NbuCmd) : (s.setHubCmds g cs).mem = s.mem := rfl
@[simp] theorem State.setHubCmds_svcTime (s : State) (g : Nat) (cs : List NbuCmd) : (s.setHubCmds g cs).svcTime = s.svcTime := rfl
@[simp] theorem State.setHubCmds_fresh (s : State) (g : Nat) (cs : List NbuCmd) : (s.setHubCmds g cs).fresh = s.fresh := rfl
@[simp] theorem State.setHubCmds_outbox (s : State) (g : Nat) (cs : List NbuCmd) : (s.setHubCmds g cs).outbox = s.outbox := rfl
@[simp] theorem State.setHubCmds_evt (s : State) (g : Nat) (cs : List NbuCmd) : (s.setHubCmds g cs).evt = s.evt := rfl
@[simp] theorem State.setHubCmds_net (s : State) (g : Nat) (cs : List NbuCmd) : (s.setHubCmds g cs).net = s.net := rfl
@[simp] theorem State.setHubCmds_part (s : State) (g : Nat) (cs : List NbuCmd) : (s.setHubCmds g cs).part = s.part := rfl
@[simp] theorem State.setHubCmds_trust (s : State) (g : Nat) (cs : List NbuCmd) : (s.setHubCmds g cs).trust = s.trust := rfl
@[simp] theorem State.setHubCmds_pwr (s : State) (g : Nat) (cs : List NbuCmd) : (s.setHubCmds g cs).pwr = s.pwr := rfl
@[simp] theorem State.setHubCmds_hw (s : State) (g : Nat) (cs : List NbuCmd) : (s.setHubCmds g cs).hw = s.hw := rfl
@[simp] theorem State.setHubCmds_dbg (s : State) (g : Nat) (cs : List NbuCmd) : (s.setHubCmds g cs).dbg = s.dbg := rfl
@[simp] theorem State.setHubCmds_fab (s : State) (g : Nat) (cs : List NbuCmd) : (s.setHubCmds g cs).fab = s.fab := rfl
@[simp] theorem State.setHubCmds_tier (s : State) (g : Nat) (cs : List NbuCmd) : (s.setHubCmds g cs).tier = s.tier := rfl
@[simp] theorem State.setHubCmds_quay (s : State) (g : Nat) (cs : List NbuCmd) : (s.setHubCmds g cs).quay = s.quay := rfl
@[simp] theorem State.setHubCmds_ctl (s : State) (g : Nat) (cs : List NbuCmd) : (s.setHubCmds g cs).ctl = s.ctl := rfl
@[simp] theorem State.setHubCmds_arith (s : State) (g : Nat) (cs : List NbuCmd) : (s.setHubCmds g cs).arith = s.arith := rfl
@[simp] theorem State.setHubCmds_rank (s : State) (g : Nat) (cs : List NbuCmd) : (s.setHubCmds g cs).rank = s.rank := rfl
@[simp] theorem State.setHubCmds_fry (s : State) (g : Nat) (cs : List NbuCmd) : (s.setHubCmds g cs).fry = s.fry := rfl
@[simp] theorem State.setHubCmds_eng (s : State) (g : Nat) (cs : List NbuCmd) : (s.setHubCmds g cs).eng = s.eng := rfl
@[simp] theorem State.setHubCmds_coll (s : State) (g : Nat) (cs : List NbuCmd) : (s.setHubCmds g cs).coll = s.coll := rfl
@[simp] theorem State.setHubCmds_reg (s : State) (g : Nat) (cs : List NbuCmd) (x : Reg) : (s.setHubCmds g cs).reg x = s.reg x := rfl
@[simp] theorem State.setHubCmds_fld (s : State) (g : Nat) (cs : List NbuCmd) (x : Reg) (y : Fld) : (s.setHubCmds g cs).fld x y = s.fld x y := rfl
@[simp] theorem State.setHubCmds_flag (s : State) (g : Nat) (cs : List NbuCmd) (x : Reg) (y : Fld) : (s.setHubCmds g cs).flag x y = s.flag x y := rfl

/-! ### State.setScans -/

@[simp] theorem State.setScans_pending (s : State) (g : Nat) (l : List ListScan) : (s.setScans g l).pending = s.pending := rfl
@[simp] theorem State.setScans_regs (s : State) (g : Nat) (l : List ListScan) : (s.setScans g l).regs = s.regs := rfl
@[simp] theorem State.setScans_mem (s : State) (g : Nat) (l : List ListScan) : (s.setScans g l).mem = s.mem := rfl
@[simp] theorem State.setScans_svcTime (s : State) (g : Nat) (l : List ListScan) : (s.setScans g l).svcTime = s.svcTime := rfl
@[simp] theorem State.setScans_fresh (s : State) (g : Nat) (l : List ListScan) : (s.setScans g l).fresh = s.fresh := rfl
@[simp] theorem State.setScans_outbox (s : State) (g : Nat) (l : List ListScan) : (s.setScans g l).outbox = s.outbox := rfl
@[simp] theorem State.setScans_evt (s : State) (g : Nat) (l : List ListScan) : (s.setScans g l).evt = s.evt := rfl
@[simp] theorem State.setScans_net (s : State) (g : Nat) (l : List ListScan) : (s.setScans g l).net = s.net := rfl
@[simp] theorem State.setScans_part (s : State) (g : Nat) (l : List ListScan) : (s.setScans g l).part = s.part := rfl
@[simp] theorem State.setScans_trust (s : State) (g : Nat) (l : List ListScan) : (s.setScans g l).trust = s.trust := rfl
@[simp] theorem State.setScans_pwr (s : State) (g : Nat) (l : List ListScan) : (s.setScans g l).pwr = s.pwr := rfl
@[simp] theorem State.setScans_hw (s : State) (g : Nat) (l : List ListScan) : (s.setScans g l).hw = s.hw := rfl
@[simp] theorem State.setScans_dbg (s : State) (g : Nat) (l : List ListScan) : (s.setScans g l).dbg = s.dbg := rfl
@[simp] theorem State.setScans_fab (s : State) (g : Nat) (l : List ListScan) : (s.setScans g l).fab = s.fab := rfl
@[simp] theorem State.setScans_tier (s : State) (g : Nat) (l : List ListScan) : (s.setScans g l).tier = s.tier := rfl
@[simp] theorem State.setScans_quay (s : State) (g : Nat) (l : List ListScan) : (s.setScans g l).quay = s.quay := rfl
@[simp] theorem State.setScans_ctl (s : State) (g : Nat) (l : List ListScan) : (s.setScans g l).ctl = s.ctl := rfl
@[simp] theorem State.setScans_arith (s : State) (g : Nat) (l : List ListScan) : (s.setScans g l).arith = s.arith := rfl
@[simp] theorem State.setScans_rank (s : State) (g : Nat) (l : List ListScan) : (s.setScans g l).rank = s.rank := rfl
@[simp] theorem State.setScans_fry (s : State) (g : Nat) (l : List ListScan) : (s.setScans g l).fry = s.fry := rfl
@[simp] theorem State.setScans_eng (s : State) (g : Nat) (l : List ListScan) : (s.setScans g l).eng = s.eng := rfl
@[simp] theorem State.setScans_coll (s : State) (g : Nat) (l : List ListScan) : (s.setScans g l).coll = s.coll := rfl
@[simp] theorem State.setScans_reg (s : State) (g : Nat) (l : List ListScan) (x : Reg) : (s.setScans g l).reg x = s.reg x := rfl
@[simp] theorem State.setScans_fld (s : State) (g : Nat) (l : List ListScan) (x : Reg) (y : Fld) : (s.setScans g l).fld x y = s.fld x y := rfl
@[simp] theorem State.setScans_flag (s : State) (g : Nat) (l : List ListScan) (x : Reg) (y : Fld) : (s.setScans g l).flag x y = s.flag x y := rfl

/-! ### State.setTide -/

@[simp] theorem State.setTide_pending (s : State) (row t : Nat) : (s.setTide row t).pending = s.pending := rfl
@[simp] theorem State.setTide_regs (s : State) (row t : Nat) : (s.setTide row t).regs = s.regs := rfl
@[simp] theorem State.setTide_mem (s : State) (row t : Nat) : (s.setTide row t).mem = s.mem := rfl
@[simp] theorem State.setTide_svcTime (s : State) (row t : Nat) : (s.setTide row t).svcTime = s.svcTime := rfl
@[simp] theorem State.setTide_fresh (s : State) (row t : Nat) : (s.setTide row t).fresh = s.fresh := rfl
@[simp] theorem State.setTide_outbox (s : State) (row t : Nat) : (s.setTide row t).outbox = s.outbox := rfl
@[simp] theorem State.setTide_evt (s : State) (row t : Nat) : (s.setTide row t).evt = s.evt := rfl
@[simp] theorem State.setTide_net (s : State) (row t : Nat) : (s.setTide row t).net = s.net := rfl
@[simp] theorem State.setTide_part (s : State) (row t : Nat) : (s.setTide row t).part = s.part := rfl
@[simp] theorem State.setTide_trust (s : State) (row t : Nat) : (s.setTide row t).trust = s.trust := rfl
@[simp] theorem State.setTide_pwr (s : State) (row t : Nat) : (s.setTide row t).pwr = s.pwr := rfl
@[simp] theorem State.setTide_hw (s : State) (row t : Nat) : (s.setTide row t).hw = s.hw := rfl
@[simp] theorem State.setTide_dbg (s : State) (row t : Nat) : (s.setTide row t).dbg = s.dbg := rfl
@[simp] theorem State.setTide_fab (s : State) (row t : Nat) : (s.setTide row t).fab = s.fab := rfl
@[simp] theorem State.setTide_tier (s : State) (row t : Nat) : (s.setTide row t).tier = s.tier := rfl
@[simp] theorem State.setTide_quay (s : State) (row t : Nat) : (s.setTide row t).quay = s.quay := rfl
@[simp] theorem State.setTide_ctl (s : State) (row t : Nat) : (s.setTide row t).ctl = s.ctl := rfl
@[simp] theorem State.setTide_arith (s : State) (row t : Nat) : (s.setTide row t).arith = s.arith := rfl
@[simp] theorem State.setTide_rank (s : State) (row t : Nat) : (s.setTide row t).rank = s.rank := rfl
@[simp] theorem State.setTide_fry (s : State) (row t : Nat) : (s.setTide row t).fry = s.fry := rfl
@[simp] theorem State.setTide_eng (s : State) (row t : Nat) : (s.setTide row t).eng = s.eng := rfl
@[simp] theorem State.setTide_coll (s : State) (row t : Nat) : (s.setTide row t).coll = s.coll := rfl
@[simp] theorem State.setTide_reg (s : State) (row t : Nat) (x : Reg) : (s.setTide row t).reg x = s.reg x := rfl
@[simp] theorem State.setTide_fld (s : State) (row t : Nat) (x : Reg) (y : Fld) : (s.setTide row t).fld x y = s.fld x y := rfl
@[simp] theorem State.setTide_flag (s : State) (row t : Nat) (x : Reg) (y : Fld) : (s.setTide row t).flag x y = s.flag x y := rfl

/-! ### State.setUse -/

@[simp] theorem State.setUse_pending (s : State) (t k u : Nat) : (s.setUse t k u).pending = s.pending := State.setFld_pending ..
@[simp] theorem State.setUse_mem (s : State) (t k u : Nat) : (s.setUse t k u).mem = s.mem := State.setFld_mem ..
@[simp] theorem State.setUse_svcTime (s : State) (t k u : Nat) : (s.setUse t k u).svcTime = s.svcTime := State.setFld_svcTime ..
@[simp] theorem State.setUse_fresh (s : State) (t k u : Nat) : (s.setUse t k u).fresh = s.fresh := State.setFld_fresh ..
@[simp] theorem State.setUse_outbox (s : State) (t k u : Nat) : (s.setUse t k u).outbox = s.outbox := State.setFld_outbox ..
@[simp] theorem State.setUse_evt (s : State) (t k u : Nat) : (s.setUse t k u).evt = s.evt := State.setFld_evt ..
@[simp] theorem State.setUse_net (s : State) (t k u : Nat) : (s.setUse t k u).net = s.net := State.setFld_net ..
@[simp] theorem State.setUse_part (s : State) (t k u : Nat) : (s.setUse t k u).part = s.part := State.setFld_part ..
@[simp] theorem State.setUse_trust (s : State) (t k u : Nat) : (s.setUse t k u).trust = s.trust := State.setFld_trust ..
@[simp] theorem State.setUse_pwr (s : State) (t k u : Nat) : (s.setUse t k u).pwr = s.pwr := State.setFld_pwr ..
@[simp] theorem State.setUse_hw (s : State) (t k u : Nat) : (s.setUse t k u).hw = s.hw := State.setFld_hw ..
@[simp] theorem State.setUse_dbg (s : State) (t k u : Nat) : (s.setUse t k u).dbg = s.dbg := State.setFld_dbg ..
@[simp] theorem State.setUse_fab (s : State) (t k u : Nat) : (s.setUse t k u).fab = s.fab := State.setFld_fab ..
@[simp] theorem State.setUse_tier (s : State) (t k u : Nat) : (s.setUse t k u).tier = s.tier := State.setFld_tier ..
@[simp] theorem State.setUse_quay (s : State) (t k u : Nat) : (s.setUse t k u).quay = s.quay := State.setFld_quay ..
@[simp] theorem State.setUse_ctl (s : State) (t k u : Nat) : (s.setUse t k u).ctl = s.ctl := State.setFld_ctl ..
@[simp] theorem State.setUse_arith (s : State) (t k u : Nat) : (s.setUse t k u).arith = s.arith := State.setFld_arith ..
@[simp] theorem State.setUse_rank (s : State) (t k u : Nat) : (s.setUse t k u).rank = s.rank := State.setFld_rank ..
@[simp] theorem State.setUse_fry (s : State) (t k u : Nat) : (s.setUse t k u).fry = s.fry := State.setFld_fry ..
@[simp] theorem State.setUse_sk (s : State) (t k u : Nat) : (s.setUse t k u).sk = s.sk := State.setFld_sk ..
@[simp] theorem State.setUse_eng (s : State) (t k u : Nat) : (s.setUse t k u).eng = s.eng := State.setFld_eng ..
@[simp] theorem State.setUse_coll (s : State) (t k u : Nat) : (s.setUse t k u).coll = s.coll := State.setFld_coll ..

/-! ### State.mapObj -/

@[simp] theorem State.mapObj_pending (s : State) (h : Nat) (f : Obj → Obj) : (s.mapObj h f).pending = s.pending := rfl
@[simp] theorem State.mapObj_regs (s : State) (h : Nat) (f : Obj → Obj) : (s.mapObj h f).regs = s.regs := rfl
@[simp] theorem State.mapObj_mem (s : State) (h : Nat) (f : Obj → Obj) : (s.mapObj h f).mem = s.mem := rfl
@[simp] theorem State.mapObj_svcTime (s : State) (h : Nat) (f : Obj → Obj) : (s.mapObj h f).svcTime = s.svcTime := rfl
@[simp] theorem State.mapObj_fresh (s : State) (h : Nat) (f : Obj → Obj) : (s.mapObj h f).fresh = s.fresh := rfl
@[simp] theorem State.mapObj_outbox (s : State) (h : Nat) (f : Obj → Obj) : (s.mapObj h f).outbox = s.outbox := rfl
@[simp] theorem State.mapObj_evt (s : State) (h : Nat) (f : Obj → Obj) : (s.mapObj h f).evt = s.evt := rfl
@[simp] theorem State.mapObj_net (s : State) (h : Nat) (f : Obj → Obj) : (s.mapObj h f).net = s.net := rfl
@[simp] theorem State.mapObj_part (s : State) (h : Nat) (f : Obj → Obj) : (s.mapObj h f).part = s.part := rfl
@[simp] theorem State.mapObj_trust (s : State) (h : Nat) (f : Obj → Obj) : (s.mapObj h f).trust = s.trust := rfl
@[simp] theorem State.mapObj_pwr (s : State) (h : Nat) (f : Obj → Obj) : (s.mapObj h f).pwr = s.pwr := rfl
@[simp] theorem State.mapObj_hw (s : State) (h : Nat) (f : Obj → Obj) : (s.mapObj h f).hw = s.hw := rfl
@[simp] theorem State.mapObj_dbg (s : State) (h : Nat) (f : Obj → Obj) : (s.mapObj h f).dbg = s.dbg := rfl
@[simp] theorem State.mapObj_fab (s : State) (h : Nat) (f : Obj → Obj) : (s.mapObj h f).fab = s.fab := rfl
@[simp] theorem State.mapObj_quay (s : State) (h : Nat) (f : Obj → Obj) : (s.mapObj h f).quay = s.quay := rfl
@[simp] theorem State.mapObj_ctl (s : State) (h : Nat) (f : Obj → Obj) : (s.mapObj h f).ctl = s.ctl := rfl
@[simp] theorem State.mapObj_arith (s : State) (h : Nat) (f : Obj → Obj) : (s.mapObj h f).arith = s.arith := rfl
@[simp] theorem State.mapObj_rank (s : State) (h : Nat) (f : Obj → Obj) : (s.mapObj h f).rank = s.rank := rfl
@[simp] theorem State.mapObj_fry (s : State) (h : Nat) (f : Obj → Obj) : (s.mapObj h f).fry = s.fry := rfl
@[simp] theorem State.mapObj_sk (s : State) (h : Nat) (f : Obj → Obj) : (s.mapObj h f).sk = s.sk := rfl
@[simp] theorem State.mapObj_eng (s : State) (h : Nat) (f : Obj → Obj) : (s.mapObj h f).eng = s.eng := rfl
@[simp] theorem State.mapObj_coll (s : State) (h : Nat) (f : Obj → Obj) : (s.mapObj h f).coll = s.coll := rfl
@[simp] theorem State.mapObj_reg (s : State) (h : Nat) (f : Obj → Obj) (x : Reg) : (s.mapObj h f).reg x = s.reg x := rfl
@[simp] theorem State.mapObj_fld (s : State) (h : Nat) (f : Obj → Obj) (x : Reg) (y : Fld) : (s.mapObj h f).fld x y = s.fld x y := rfl
@[simp] theorem State.mapObj_flag (s : State) (h : Nat) (f : Obj → Obj) (x : Reg) (y : Fld) : (s.mapObj h f).flag x y = s.flag x y := rfl

/-! ### State.mapJob -/

@[simp] theorem State.mapJob_pending (s : State) (n : Nat) (f : Job → Job) : (s.mapJob n f).pending = s.pending := State.setJob_pending ..
@[simp] theorem State.mapJob_regs (s : State) (n : Nat) (f : Job → Job) : (s.mapJob n f).regs = s.regs := State.setJob_regs ..
@[simp] theorem State.mapJob_mem (s : State) (n : Nat) (f : Job → Job) : (s.mapJob n f).mem = s.mem := State.setJob_mem ..
@[simp] theorem State.mapJob_svcTime (s : State) (n : Nat) (f : Job → Job) : (s.mapJob n f).svcTime = s.svcTime := State.setJob_svcTime ..
@[simp] theorem State.mapJob_fresh (s : State) (n : Nat) (f : Job → Job) : (s.mapJob n f).fresh = s.fresh := State.setJob_fresh ..
@[simp] theorem State.mapJob_outbox (s : State) (n : Nat) (f : Job → Job) : (s.mapJob n f).outbox = s.outbox := State.setJob_outbox ..
@[simp] theorem State.mapJob_evt (s : State) (n : Nat) (f : Job → Job) : (s.mapJob n f).evt = s.evt := State.setJob_evt ..
@[simp] theorem State.mapJob_net (s : State) (n : Nat) (f : Job → Job) : (s.mapJob n f).net = s.net := State.setJob_net ..
@[simp] theorem State.mapJob_part (s : State) (n : Nat) (f : Job → Job) : (s.mapJob n f).part = s.part := State.setJob_part ..
@[simp] theorem State.mapJob_trust (s : State) (n : Nat) (f : Job → Job) : (s.mapJob n f).trust = s.trust := State.setJob_trust ..
@[simp] theorem State.mapJob_pwr (s : State) (n : Nat) (f : Job → Job) : (s.mapJob n f).pwr = s.pwr := State.setJob_pwr ..
@[simp] theorem State.mapJob_hw (s : State) (n : Nat) (f : Job → Job) : (s.mapJob n f).hw = s.hw := State.setJob_hw ..
@[simp] theorem State.mapJob_dbg (s : State) (n : Nat) (f : Job → Job) : (s.mapJob n f).dbg = s.dbg := State.setJob_dbg ..
@[simp] theorem State.mapJob_fab (s : State) (n : Nat) (f : Job → Job) : (s.mapJob n f).fab = s.fab := State.setJob_fab ..
@[simp] theorem State.mapJob_tier (s : State) (n : Nat) (f : Job → Job) : (s.mapJob n f).tier = s.tier := State.setJob_tier ..
@[simp] theorem State.mapJob_quay (s : State) (n : Nat) (f : Job → Job) : (s.mapJob n f).quay = s.quay := State.setJob_quay ..
@[simp] theorem State.mapJob_ctl (s : State) (n : Nat) (f : Job → Job) : (s.mapJob n f).ctl = s.ctl := State.setJob_ctl ..
@[simp] theorem State.mapJob_arith (s : State) (n : Nat) (f : Job → Job) : (s.mapJob n f).arith = s.arith := State.setJob_arith ..
@[simp] theorem State.mapJob_rank (s : State) (n : Nat) (f : Job → Job) : (s.mapJob n f).rank = s.rank := State.setJob_rank ..
@[simp] theorem State.mapJob_sk (s : State) (n : Nat) (f : Job → Job) : (s.mapJob n f).sk = s.sk := State.setJob_sk ..
@[simp] theorem State.mapJob_eng (s : State) (n : Nat) (f : Job → Job) : (s.mapJob n f).eng = s.eng := State.setJob_eng ..
@[simp] theorem State.mapJob_coll (s : State) (n : Nat) (f : Job → Job) : (s.mapJob n f).coll = s.coll := State.setJob_coll ..
@[simp] theorem State.mapJob_reg (s : State) (n : Nat) (f : Job → Job) (x : Reg) : (s.mapJob n f).reg x = s.reg x := State.setJob_reg ..
@[simp] theorem State.mapJob_fld (s : State) (n : Nat) (f : Job → Job) (x : Reg) (y : Fld) : (s.mapJob n f).fld x y = s.fld x y := State.setJob_fld ..
@[simp] theorem State.mapJob_flag (s : State) (n : Nat) (f : Job → Job) (x : Reg) (y : Fld) : (s.mapJob n f).flag x y = s.flag x y := State.setJob_flag ..

/-! ### State.mapPc -/

@[simp] theorem State.mapPc_pending (s : State) (n k : Nat) (f : Pc → Pc) : (s.mapPc n k f).pending = s.pending := State.mapJob_pending ..
@[simp] theorem State.mapPc_regs (s : State) (n k : Nat) (f : Pc → Pc) : (s.mapPc n k f).regs = s.regs := State.mapJob_regs ..
@[simp] theorem State.mapPc_mem (s : State) (n k : Nat) (f : Pc → Pc) : (s.mapPc n k f).mem = s.mem := State.mapJob_mem ..
@[simp] theorem State.mapPc_svcTime (s : State) (n k : Nat) (f : Pc → Pc) : (s.mapPc n k f).svcTime = s.svcTime := State.mapJob_svcTime ..
@[simp] theorem State.mapPc_fresh (s : State) (n k : Nat) (f : Pc → Pc) : (s.mapPc n k f).fresh = s.fresh := State.mapJob_fresh ..
@[simp] theorem State.mapPc_outbox (s : State) (n k : Nat) (f : Pc → Pc) : (s.mapPc n k f).outbox = s.outbox := State.mapJob_outbox ..
@[simp] theorem State.mapPc_evt (s : State) (n k : Nat) (f : Pc → Pc) : (s.mapPc n k f).evt = s.evt := State.mapJob_evt ..
@[simp] theorem State.mapPc_net (s : State) (n k : Nat) (f : Pc → Pc) : (s.mapPc n k f).net = s.net := State.mapJob_net ..
@[simp] theorem State.mapPc_part (s : State) (n k : Nat) (f : Pc → Pc) : (s.mapPc n k f).part = s.part := State.mapJob_part ..
@[simp] theorem State.mapPc_trust (s : State) (n k : Nat) (f : Pc → Pc) : (s.mapPc n k f).trust = s.trust := State.mapJob_trust ..
@[simp] theorem State.mapPc_pwr (s : State) (n k : Nat) (f : Pc → Pc) : (s.mapPc n k f).pwr = s.pwr := State.mapJob_pwr ..
@[simp] theorem State.mapPc_hw (s : State) (n k : Nat) (f : Pc → Pc) : (s.mapPc n k f).hw = s.hw := State.mapJob_hw ..
@[simp] theorem State.mapPc_dbg (s : State) (n k : Nat) (f : Pc → Pc) : (s.mapPc n k f).dbg = s.dbg := State.mapJob_dbg ..
@[simp] theorem State.mapPc_fab (s : State) (n k : Nat) (f : Pc → Pc) : (s.mapPc n k f).fab = s.fab := State.mapJob_fab ..
@[simp] theorem State.mapPc_tier (s : State) (n k : Nat) (f : Pc → Pc) : (s.mapPc n k f).tier = s.tier := State.mapJob_tier ..
@[simp] theorem State.mapPc_quay (s : State) (n k : Nat) (f : Pc → Pc) : (s.mapPc n k f).quay = s.quay := State.mapJob_quay ..
@[simp] theorem State.mapPc_ctl (s : State) (n k : Nat) (f : Pc → Pc) : (s.mapPc n k f).ctl = s.ctl := State.mapJob_ctl ..
@[simp] theorem State.mapPc_arith (s : State) (n k : Nat) (f : Pc → Pc) : (s.mapPc n k f).arith = s.arith := State.mapJob_arith ..
@[simp] theorem State.mapPc_rank (s : State) (n k : Nat) (f : Pc → Pc) : (s.mapPc n k f).rank = s.rank := State.mapJob_rank ..
@[simp] theorem State.mapPc_sk (s : State) (n k : Nat) (f : Pc → Pc) : (s.mapPc n k f).sk = s.sk := State.mapJob_sk ..
@[simp] theorem State.mapPc_eng (s : State) (n k : Nat) (f : Pc → Pc) : (s.mapPc n k f).eng = s.eng := State.mapJob_eng ..
@[simp] theorem State.mapPc_coll (s : State) (n k : Nat) (f : Pc → Pc) : (s.mapPc n k f).coll = s.coll := State.mapJob_coll ..
@[simp] theorem State.mapPc_reg (s : State) (n k : Nat) (f : Pc → Pc) (x : Reg) : (s.mapPc n k f).reg x = s.reg x := State.mapJob_reg ..
@[simp] theorem State.mapPc_fld (s : State) (n k : Nat) (f : Pc → Pc) (x : Reg) (y : Fld) : (s.mapPc n k f).fld x y = s.fld x y := State.mapJob_fld ..
@[simp] theorem State.mapPc_flag (s : State) (n k : Nat) (f : Pc → Pc) (x : Reg) (y : Fld) : (s.mapPc n k f).flag x y = s.flag x y := State.mapJob_flag ..

/-! ### Registers: reads after writes -/

theorem State.regsOk_setReg (s : State) (r : Reg) (w : Word) (h : RegsOk s) : RegsOk (s.setReg r w) := twf_tset _ _ _ _ h

theorem State.regsOk_setFld (s : State) (r : Reg) (f : Fld) (v : Nat) (h : RegsOk s) : RegsOk (s.setFld r f v) :=
  s.regsOk_setReg _ _ h

theorem State.reg_setReg_self (s : State) (r : Reg) (w : Word) (h : RegsOk s) : (s.setReg r w).reg r = w :=
  tget_tset_self _ _ _ _ h

theorem State.reg_setReg_ne (s : State) (r x : Reg) (w : Word) (h : regOff x ≠ regOff r) : (s.setReg r w).reg x = s.reg x :=
  tget_tset_ne _ _ _ h

/-- A write of one register leaves every other offset as it was. -/
theorem State.tget_setReg_ne (s : State) (r : Reg) (w : Word) (o : Nat) (h : o ≠ regOff r) :
    tget regRstAt (s.setReg r w).regs o = tget regRstAt s.regs o := tget_tset_ne _ _ _ h

theorem State.tget_setFld_ne (s : State) (r : Reg) (f : Fld) (v o : Nat) (h : o ≠ regOff r) :
    tget regRstAt (s.setFld r f v).regs o = tget regRstAt s.regs o := tget_tset_ne _ _ _ h

theorem State.fld_setFld_self (s : State) (r : Reg) (f : Fld) (v : Nat) (h : RegsOk s) (hf : f.lo + f.w ≤ 64) :
    (s.setFld r f v).fld r f = v % 2 ^ f.w := by
  rw [State.fld, State.setFld, State.reg_setReg_self _ _ _ h, fget_fput_self _ _ _ hf]

theorem State.fld_setFld_fld (s : State) (r : Reg) (f g : Fld) (v : Nat) (h : RegsOk s) (hf : f.lo + f.w ≤ 64)
    (hd : g.lo + g.w ≤ f.lo ∨ f.lo + f.w ≤ g.lo) : (s.setFld r f v).fld r g = s.fld r g := by
  rw [State.fld, State.setFld, State.reg_setReg_self _ _ _ h, fget_fput_ne _ _ _ _ hf hd, State.fld]

theorem State.fld_setFld_ne (s : State) (r x : Reg) (f g : Fld) (v : Nat) (h : regOff x ≠ regOff r) :
    (s.setFld r f v).fld x g = s.fld x g := by
  rw [State.fld, State.setFld, State.reg_setReg_ne _ _ _ _ h, State.fld]

theorem State.fld_lt (s : State) (r : Reg) (f : Fld) : s.fld r f < 2 ^ f.w := fget_lt _ _

end Sys2Proof.Machine
end

