-- ==== Sys2Proof/Tests/Slice0.lean ====
section
/-! SUPPORT. Tests: for every statement with hypotheses, a state and operands that meet them; ill-formed commands that
WellFormed refuses; worked values of the spec. -/




namespace Sys2Proof.Tests

set_option Elab.async false
set_option linter.unusedVariables false

open Sys2Proof Sys2Proof.Machine Sys2Proof.Safety

def z : State := State.reset
def qpC : Cmd := { n := 3, qp := 0, cid := 1, op := 1, part := 0, tenant := 0, payload := [], at_ := 0, st := .ready, entry := List.replicate 56 0#8 ++ [63#8, 0#8, 63#8, 0#8, 5#8, 0#8, 0#8, 0#8, 2#8, 63#8, 9#8, 0#8] ++ List.replicate 60 0#8 }
def delC : Cmd := { qpC with op := 2, entry := List.replicate 40 0#8 ++ [0xFF#8, 0x0F#8] ++ List.replicate 86 0#8 }
def cpO : Cmd := { n := 3, qp := 0, cid := 1, op := 1, part := 0, tenant := 0, entry := [], payload := [], at_ := 0, st := .ready }
def qpZ : State := ((({ z with quay := { z.quay with cmds := [qpC] } }).setFld (.ptCfg 63) PT_CFG_STATE 1).setFld (.tnCfg 9) TN_CFG_EN 1).setFld (.tnCfg 9) TN_CFG_PART 63
def w4 (o : Nat) (l : List (Nat × Nat × Nat)) : List Byte :=
  (List.range 128).map fun i => if i = 0 then BitVec.ofNat 8 o else
    l.foldl (fun a e => if e.1 ≤ i ∧ i < e.1 + e.2.1 then BitVec.ofNat 8 (e.2.2 / 256 ^ (i - e.1)) else a) 0#8
/-- a fetched command -/
def cm (op part tenant : Nat) (l : List (Nat × Nat × Nat)) (payload : List Byte := []) : Cmd :=
  { n := 3, qp := 1, cid := 1, op := op, part := part, tenant := tenant, entry := w4 op l, payload := payload, at_ := 0, st := .ready }
def withCmd (s : State) (c : Cmd) : State := { s with quay := { s.quay with cmds := s.quay.cmds ++ [c] } }
def tz : State := (((((z.setFld (.tnCfg 9) TN_CFG_EN 1).setFld (.tnCfg 9) TN_CFG_PART 5).setFld (.ptCfg 5) PT_CFG_STATE 1).setFld (.ptCfg 5) PT_CFG_FLASHGB 100).setFld
  (.tnTier 36) TN_TIER_QUOTA 1000).setFld (.tnTier 39) TN_TIER_QUOTA 1000
def oA : Obj := { hub := 0, number := 7, salt := 1, tenant := 9, part := 5, elemb := 64, elems := 2000, tier := .hbm, pieces := [⟨0, 128000, some 65536⟩], hasHome := true, charged := [(0, 2), (3, 1)] }
def oZ : State := ((({ tz with tier := { tz.tier with objs := [oA] } }).setOwner 2 0 5).setUse 9 0 2).setUse 9 3 1 |>.wr 65540 [7#8]
def mvA : Move := { lo := 0, hi := 128000, tier := .flash, target := [⟨0, 128000, none⟩], next := 65536, cmd := 8 }
def nbC (l : List Nat) : NbuCmd := { bytes := (l ++ List.replicate (32 - l.length) 0).map (BitVec.ofNat 8), src := 0x054, thr := 3 }
def nbZ (l : List Nat) : State := z.setNbu 4095 { cmds := [nbC l] }
/-- the hub holds that command for the bank -/
def hubZ (l : List Nat) : State := { z with sk := { z.sk with hubq := [(4095, [nbC l])] } }
/-- an instruction word -/
def iw (op cls thr o : Nat) (flags wait sig : Nat := 0) : Nat := op * 2 ^ 120 + cls * 2 ^ 116 + thr * 2 ^ 112 + wait * 2 ^ 104 + sig * 2 ^ 96 + flags * 2 ^ 92 + o
def inZ : Inst := ⟨5, 0, 1, 4, 0, 0, [79], 0, 0, [], [], 0, [], false⟩
/-- quad 79 belongs to instance 0 of partition 5, and its thread t of unit u has the word w next -/
def runZ (u t w : Nat) (th : Thread := {}) : State :=
  ((((z.setOwner 0 79 5).setInst 0 (some inZ)).setFld (.schInst 0) SCH_INST_RUN 1).setFld (.schQuad 79) SCH_QUAD_INST 0 |>.setFld (.pwrQuad 79) PWR_QUAD_STATE 0
    |>.wr (0x100000 + 16 * th.pos) (leBytes 16 w)).setThread 79 u t { th with base := 0x100000, ninstr := 9 }
def thZ (th : Thread := {}) : Thread := { th with base := 0x100000, ninstr := 9 }
def mmW : Nat := iw 0x30 3 3 (0x11 + 2 * 2 ^ 12 + 4 * 2 ^ 18 + 8 * 2 ^ 50)
def mxW : Nat := iw 0x31 3 3 (0x11 + 2 * 2 ^ 12 + 4 * 2 ^ 18 + 6 * 2 ^ 60)
def mmZ (op w : Nat) (a b : List Byte) : State :=
  let f (s : State) (p : Nat) (l : List Byte) : State := s.setStream (portOf 79 p) { runs := [{ left := l, ended := true, full := true }] }
  f (f (f (runZ 3 3 w) 2 (a ++ List.replicate 30 255#8)) 4 (b ++ List.replicate 30 255#8)) 6 (if op = 0x31 then leBytes 4 (3 * 128 + 7 * 2 ^ 15) else [])
def mmV : Nat := 0x11 + 1 * 2 ^ 8 + 2 * 2 ^ 12 + 4 * 2 ^ 18 + 4 * 2 ^ 38 + 8 * 2 ^ 50
def mmY : State :=
  let f (s : State) (p : Nat) (l : List Byte) (pr : Bool) : State := s.setStream (portOf 79 p) { runs := [{ left := l, ended := true, full := true, pair := pr }] }
  f (f (f (runZ 3 3 0 { issued := [{ op := 0x30, sig := some 7, o := mmV, dry := true }] }) 2 (leBytes 160 (2 ^ 1200 + 5)) true) 3 [127#8, 128#8, 127#8, 127#8, 130#8] false) 4 (leBytes 160 (2 ^ 1200 + 9)) false
def mxV : Nat := mxW + 2 ^ 40
def mmX : State :=
  let a := [1#8, 2#8] ++ List.replicate 30 255#8
  let b := [3#8, 4#8] ++ List.replicate 30 255#8
  let f (s : State) (p : Nat) (l : List Byte) : State := s.setStream (portOf 79 p) { runs := [{ left := l, ended := true, full := true }] }
  f (f (f (runZ 3 3 mxV) 2 a) 4 (b ++ a)) 6 (leBytes 4 (3 * 128 + 7 * 2 ^ 15) ++ leBytes 4 (3 * 128 + 7 * 2 ^ 15))
def drW : Nat := iw 0x32 3 3 (1 * 2 ^ 26 + 8 * 2 + 1 * 2 ^ 9 + 2 * 2 ^ 16)
def drR : List (List Nat) := [[5 * 2 ^ 64, 0, 0], [7 * 2 ^ 64, 0, 0]]
def drD (f : Fm) (w seed : Nat) (p old : List Byte := []) : Drained := drainTile { q := 79, u := 3, t := 3, op := 0x32, o := bits w 0 92, sig := none } f p old seed drR
/-- LARGE, block scale, error records -/
def drU : Nat := iw 0x32 3 3 (8 * 2 + 1 * 2 ^ 9 + 2 * 2 ^ 16 + 2 * 2 ^ 24 + 5 * 2 ^ 26 + 2 ^ 32 + 2 ^ 33)
def drE : Drained := drD .e4m3 drU 0 (leBytes 1600 0) (leBytes 2048 0)
def drV : State := ((runZ 3 3 drU).setAccs [(4096 * granId 79 3 0 8, 5 * 2 ^ 64), (4096 * granId 79 3 0 8 + 128, 7 * 2 ^ 64)]).setOwner 1 1216 5
def spW : Nat := iw 0x33 3 3 (8 * 2 + 1 * 2 ^ 9 + 2 * 2 ^ 17)
def reW : Nat := iw 0x34 3 3 (8 * 2 + 1 * 2 ^ 9 + 1 * 2 ^ 16 + 2 * 2 ^ 17)
def xfW : Nat := iw 0x35 3 3 (8 * 2 + 1 * 2 ^ 9 + 2 * 2 ^ 16 + 5 * 2 ^ 24)
def vw (op vd va ty o : Nat) : Nat := iw op 4 3 (vd + va * 2 ^ 5 + ty * 2 ^ 20 + o)
def xuD (n k : Nat) : List Byte := [0x10#8, 0#8, 0#8, 0#8] ++ leBytes 4 n ++ leBytes 4 k ++ leBytes 4 0 ++ leBytes 8 100 ++ leBytes 4 1024 ++ leBytes 8 0 ++ leBytes 4 4096 ++ leBytes 24 0
def xuW : Nat := iw 0x70 6 3 3
def xuZ : State := ((runZ 6 3 xuW).setOwner 1 1216 5).wr (spadAt 79 192) (xuD 4 3) |>.wr (spadAt 79 1024) [9#8, 0#8, 5#8, 1#8, 7#8, 0#8, 7#8, 0#8]
def hitW (d t : Nat) : Nat := d * 2 ^ 24 + t * 2 ^ 60
def xsR (hits : List (Nat × Nat)) : XuRun := { d := [2#8, 1#8, 0#8, 0#8] ++ leBytes 4 1 ++ leBytes 4 2 ++ leBytes 24 0 ++ leBytes 4 4096 ++ leBytes 4 65536 ++ leBytes 4 4 ++ leBytes 16 0, t := 3, qtag := 2, endsem := 255, endcnt := 3, hits := hits }
def xsZ (port : List Nat) (hits : List (Nat × Nat)) : State := ((runZ 6 3 xuW).setOwner 1 1216 5).setXu 79 { port := port, run := some (xsR hits) }
/-- THRESH over FP32 keys, at most 1.0; SPLITSUM-free MERGE of one record -/
def xuE : List Byte := [0x19#8, 2#8, 0#8, 0#8] ++ leBytes 4 3 ++ leBytes 4 4 ++ leBytes 4 0x00000000 ++ leBytes 8 100 ++ leBytes 4 1024 ++ leBytes 8 0 ++ leBytes 4 4096 ++ leBytes 24 0
def xuT : State := ((runZ 6 3 xuW).setOwner 1 1216 5).wr (spadAt 79 192) xuE |>.wr (spadAt 79 1024) (leBytes 4 0x40000000 ++ leBytes 4 0xBF800000 ++ leBytes 4 0x7FC00000)
def xuF : List Byte := [0x13#8, 1#8, 0#8, 0#8] ++ leBytes 4 2 ++ leBytes 4 1 ++ leBytes 4 0 ++ leBytes 8 0 ++ leBytes 4 1024 ++ leBytes 8 0 ++ leBytes 4 4096 ++ leBytes 24 0
def xuM : State := ((runZ 6 3 xuW).setOwner 1 1216 5).wr (spadAt 79 192) xuF |>.wr (spadAt 79 1024) (leBytes 8 9 ++ leBytes 8 7 ++ leBytes 8 5 ++ leBytes 8 3)
def xsD : List Byte := [2#8, 1#8, 0#8, 0#8] ++ leBytes 4 1 ++ leBytes 4 2 ++ leBytes 24 0 ++ leBytes 4 4096 ++ leBytes 4 65536 ++ leBytes 4 4 ++ leBytes 16 0
def xuV (res : Nat) : Nat := iw 0x70 6 3 (3 + res * 2 ^ 20 + 4 * 2 ^ 21 + 9 * 2 ^ 41 + 255 * 2 ^ 45 + 2 * 2 ^ 53)
def xuS (res : Nat) : State := (((runZ 6 3 (xuV res)).setOwner 1 1216 5).wr (spadAt 79 192) xsD |>.wr (spadAt 79 256) [1#8] |>.wr (spadAt 79 320) [1#8]).setXu 79 { folded := some ([(5, 6)], [(7, 8), (9, 10)]) }
def slW (op o : Nat) : Nat := iw op (if op < 0x90 then 5 else 8) 3 o
def buH : List Byte := [5#8, 0#8, 1#8] ++ leBytes 5 0 ++ [3#8, 0#8, 1#8, 0#8, 2#8, 0#8] ++ leBytes 18 0
def buT : List Byte := [0#8, 0#8, 0#8, 0#8, 2#8] ++ leBytes 1019 0
def buR : List Byte := leBytes 64 7 ++ leBytes 64 5 ++ leBytes 64 (2 ^ 500) ++ leBytes 64 (2 ^ 500 - 1) ++ leBytes 768 0
def nlR : List Byte := leBytes 8 spBase ++ [0#8, 0#8, 0#8, 0#8] ++ leBytes 12 0 ++ leBytes 8 (spBase + 1024 + 19 * spSize) ++ leBytes 96 0
def nlD (n : Nat) : List Byte := [0#8, 0x10#8] ++ leBytes 2 0 ++ leBytes 2 n ++ leBytes 26 0
def nlZ (n : Nat) : State := (((runZ 5 3 (slW 0x91 (63 + 2 * 2 ^ 6 + 5 * 2 ^ 29))).setOwner 1 1216 5).setOwner 1 0 5).wr (spadAt 79 256) nlR |>.wr (spBase + 192) (nlD n) |>.setStream (portOf 79 63) { runs := [{ left := leBytes 4 6, ended := true, full := true }, { left := [], ended := true, mark := true }] }
def nlB : State := ((nlZ 9).wr (spBase + 192) ([255#8, 15#8] ++ leBytes 2 0 ++ leBytes 2 9 ++ leBytes 26 0)).setOwner 4 4095 5
def fyW : Nat := iw 0x80 7 3 1
def fyD (op kinds count src dst rowb : Nat) : List Byte := [BitVec.ofNat 8 op, BitVec.ofNat 8 kinds, 0#8, 0#8, 0#8, 0#8, 255#8, 0#8, 79#8, 0#8, 0#8, 0#8] ++ leBytes 4 count ++ leBytes 8 src ++ leBytes 8 dst ++ leBytes 4 rowb ++ leBytes 4 rowb ++ leBytes 4 rowb ++ leBytes 20 (if op = 1 then 0x100 else 0)
def fyS (d : List Byte) : State := (((runZ 11 3 fyW).setOwner 1 1216 5).setOwner 2 0 5).wr (spadAt 79 64) d
def fyP : Pc := { k := 0, src := .mem 65536, dst := .mem 131072, len := 320, off := 0, direct := true }
def fyR : Pc := { fyP with len := 4, refused := true, data := some [1#8, 2#8, 3#8, 4#8], nak := [(0, 131072, 4)] }
def fyJob : Job := { d := fyD 0 0 1 65536 131072 320, runs := 0, rows := 1, out := [fyP], accs := [{ id := 0, all := 320, ended := true }] }
def fyG (f : Nat) : Job := { fyJob with out := [], accs := [{ id := 0, all := 320, full := f, ended := true, closed := true }], d := (fyD 0 0 1 65536 131072 320).set 10 1#8 }
def fyF : Job := { fyJob with d := (fyD 1 0 1 65536 131072 320).set 5 1#8 |>.set 57 63#8 |>.set 62 0x10#8 }
def fyJ (j : Job) : State := (fyS []).setStream 5107 { job := some j }
def mdZ : Model := { tenant := 9, part := 5, towers := 0, trained := true, hist := none }
def tbZ : Table := { model := 63, num := 7, tenant := 9, part := 5, hub := 3, number := 12, salt := 1, rows := 100, dim := 8, coldFmt := 1, hasScale := false, hasAcc := true, logSets := 4, late := 0, grace := 0, dflt := [], cold := [(21, ⟨[1, 2], 0, 7⟩)] }
def tbH : Table := tbZ.setWay 90 (some ⟨21, 3, ⟨[0x3F80], 0, 0x3F800000⟩, 0⟩)
def tbF : Table := (rangeFrom 80 16).foldl (fun (t : Table) k => t.setWay k (some ⟨5 + 16 * (k - 79), k, {}, 0⟩)) { tbZ with rows := 1000 } |>.setWay 80 (some ⟨5, 3, {}, 0⟩)
def gtZ : Gate := { pend := true, touched := [(7, 21)], held := [⟨7, 21, 0, 1, 9, [0#8, 0#8, 0x80#8, 0x3F#8], none⟩] }
def gtY (ty off : Nat) : Gate := { pend := true, touched := [(7, 21)], held := [⟨7, 21, off, ty, 9, [0#8, 0#8, 0x80#8, 0x3F#8], none⟩] }
def rkZ : State := let s := tz.setModel 63 mdZ; { s with rank := { s.rank with tables := [tbZ] } }
/-- descriptor: 32 INT8 elements, inner product, host sketch of 256 bits, 1,024 lists -/
def deD : List Byte := [32#8, 0#8, 1#8, 0#8, 0#8, 1#8, 10#8] ++ List.replicate 121 0#8
def veA (i : Nat) (dead : Option Nat) (l : Nat) (dlog : Bool) : Vec := { id := i, seq := 1, dead := dead, list := l, copy := List.replicate 32 0#8, pres := 0, vals := [], nums := [], sketch := 0, dlog := dlog, at_ := 0 }
def coA : Coll := { tenant := 9, part := 5, live := { num := 1, desc := deD, proj := [], cent := [], vecs := [veA 5 none 3 true, veA 7 none 3 true] } }
def coS : Coll := { coA with live := { coA.live with desc := deD, vecs := [veA 5 (some 8) 3 false, veA 6 none 3 false] } }
def coD : Coll := { coA with live := { coA.live with segs := [(3, 8)] } }
def obT : Obj := { hub := 0, number := 7, salt := 1, tenant := 9, part := 5, elemb := 72, elems := 10, tier := .hbm, pieces := [⟨0, 720, some 65536⟩], hasHome := true, coll := true }
def sgT : Seg := { list := 3, store := obT.handle, slots := 10, rows := [69206016 - 1024, 69206016, 69206016 + 1024] }
def veT : Vec := { veA 5 none 3 false with slot := some (obT.handle, 9) }
def coT : Coll := { coA with live := { coA.live with vecs := [veT], store := [sgT] } }
def coZ (k : Coll) : State := tz.setColl 7 (some k)
def coW : Coll := { coA with live := { coA.live with desc := coA.live.desc.set 0 64#8 } }
def rcZ (n : Nat) : List Byte := GenRec.bytes ⟨0, 7, 1, n, 0, 0, 0, 0⟩
def twZ : Towers := { next := some [1#8], recs := { a := rcZ 1, staging := GenRec.bytes ⟨3, 7, 2, 0, 0, 0, 0, 0⟩ }, live := 1, sets := [(1, [5#8])] }
def hiM : Model := { tenant := 9, part := 5, towers := 0, trained := true, hist := some ⟨16, 1, 32, false, []⟩, users := [(4, ⟨List.replicate 15 [7#8]⟩)] }
def hiF : Model := { hiM with users := [(4, ⟨List.replicate 16 [7#8]⟩)] }
def deZ : DEntry := { seq := 1, op := 0x32, obj := 7, qp := 1, cid := 1, cmd := 3, tenant := 9, user := 0, count := 2, desc := [], recs := leBytes 8 5 ++ leBytes 8 6, absent := 1, size := 128, at_ := 0 }
def deI : DEntry := { deZ with op := 0x31, desc := deD, recs := [5#8] ++ leBytes 79 0 ++ [9#8] ++ leBytes 79 0, durable := true, size := 256 }
def deH : DEntry := { deZ with op := 0x33, user := 4, recs := [1#8, 2#8], durable := true }
def cpZ : CPart := { next := 2, entries := [deZ] }
def ccD : List Byte := deD.set 72 128#8
def ccP : List Byte := ccD ++ List.replicate 32768 0#8
def ccC : Cmd := cm 0x20 5 9 [(16, 4, 32896)] ccP
def buC : Cmd := cm 0x22 5 9 [(4, 4, 7), (16, 4, 32896)] ccP
def coB : Coll := { coA with live := { coA.live with vecs := [] }, build := some ⟨{ coA.live with num := 2, base := 6, vecs := [] }, 3⟩ }
def coC : Coll := { coA with build := some ⟨{ coA.live with num := 2, base := 6, vecs := [] }, 3⟩ }
def coN : Coll := { coA with next := some { coA.live with num := 2, base := 6 } }
def qp0 : List Byte := [1#8, 2#8] ++ leBytes 30 0
def veQ (i x : Nat) : Vec := { veA i none 3 true with copy := [BitVec.ofNat 8 x, 1#8] ++ leBytes 30 0, list := i % 1024, dlog := decide (i = 5) }
def coQ : Coll := { coA with live := { coA.live with cent := [], vecs := [veQ 5 3, veQ 6 9, veQ 7 3, { veQ 8 10 with dead := some 2 }, { veQ 9 11 with seq := 9 }] } }
def quZ (c : Cmd) : State := withCmd ((runZ 3 3 0).setInst 0 (some { inZ with object := 7 })) c |>.setColl 7 (some coQ) |>.setQp 1 { mode := .active, ver := 1, cqDepth := 4 }
def tkZ : Task := { task := 20, cmd := 4, qp := 1, cid := 2, readPoint := 4, gen := 1, flags := 0, deadline := 0, started := true }
def quR : State := (quZ { cm 0x40 5 9 [(4, 4, 7), (16, 4, 64), (20, 4, 4096), (40, 2, 1024), (42, 2, 2), (44, 4, 16)] qp0 with rp := some 4, st := .running, gen := 1 }).setInst 0 (some { inZ with object := 7, tasks := [{ tkZ with cmd := 3 }] })
def dropFirstCmd (s : State) : State := { s with quay := { s.quay with cmds := [] } }
def abZ (ts : List Task) (e : Nat) : State := let r := (((runZ 3 3 0).setFld (.schInst 0) SCH_INST_ABORTING 1).setFld (.schInst 0) SCH_INST_EPOCH e).setSem 79 255 5
  { r with ctl := { r.ctl with insts := [(0, some { inZ with tasks := ts })], aborting := [⟨0, 0x301, 0, false⟩] }, quay := { r.quay with cmds := [{ cm 0x40 5 9 [] with n := 4 }] } }
def ldH (crc : Nat) : List Byte := leBytes 4 0x4E414C50 ++ leBytes 2 1 ++ leBytes 2 0 ++ leBytes 2 1 ++ leBytes 2 0 ++ leBytes 2 4 ++ leBytes 2 9 ++ leBytes 8 7 ++ leBytes 4 64 ++ leBytes 4 0 ++ leBytes 8 128 ++ leBytes 8 132 ++ leBytes 8 132 ++ leBytes 8 128 ++ leBytes 52 0 ++ leBytes 4 0 ++ leBytes 4 644 ++ leBytes 4 crc
def ldB : List Byte := leBytes 4 0xFF04 ++ leBytes 512 0x70005
def ldI : List Byte := (ldH (crc32c ((ldH 0).take 124 ++ leBytes 4 0 ++ ldB)) ++ ldB)
def ldZ : State := let r := ((((z.setFld (.ptCfg 5) PT_CFG_STATE 1).setOwner 2 0 5).setOwner 0 79 5).wr 0x1000 ldI).wr 0x800 [79#8]; { r with ctl := { r.ctl with load := some ⟨0x1000, 0x800, 5, 7⟩ } }
def upP (s : State) (p pm : Nat) : State := ((s.setFld (.abPort p) AB_PORT_WIDTH 4).setFld (.abPort p) AB_PORT_ROUTE 1).setFld (.abPort p) AB_PORT_PEERMOD pm
def rtP (s : State) (m p lvl : Nat) : State := ((s.setFld (.abRoute m) AB_ROUTE_PRIM (2 ^ p)).setFld (.abRoute m) AB_ROUTE_VALID 1).setFld (.abRoute m) AB_ROUTE_PLVL lvl
/-- module 100 with ports 5 (to 200) and 0 (to 300) UP -/
def fbZ : State := rtP (rtP (upP (upP ((z.setFld .abId AB_ID_ASSIGNED 1).setFld .abId AB_ID_MODNUM 100) 5 200) 0 300) 200 5 1) 300 0 0
def lnd (s : State) (p : Nat) (m : Msg) : State := { s with fab := { s.fab with landing := s.fab.landing ++ [(p, m)] } }
/-- as fbZ, partition 5 owns HBM granule 0, quad 79 of instance 0, and module 200's partition 3 is its peer -/
def fcZ : State := (((((rtP (rtP (upP (upP (((runZ 3 3 0).setFld .abId AB_ID_ASSIGNED 1).setFld .abId AB_ID_MODNUM 100) 5 200) 0 300) 200 5 1) 300 0 0).setOwner 2 0 5).setFld (.ptCfg 5) PT_CFG_STATE 1).setFld (.ptPeer 47) PT_PEER_VALID 1).setFld (.ptPeer 47) PT_PEER_MODLO 150
  |>.setFld (.ptPeer 47) PT_PEER_MODHI 200 |>.setFld (.ptPeer 47) PT_PEER_RPART 3).wr 65536 [1#8, 2#8, 255#8, 255#8]
def rqM (t : Nat) : Msg := { mtype := t, dst := 100, src := 200, srcid := 0x501, tag := 77, spart := 3, dpart := 5, addr := 65536, len := if t = 3 then 4 else 32, data := [3#8, 0#8, 0#8, 0#8], aux := 4 }
/-- as fcZ, with partition 5's object oA -/
def foZ : State := { fcZ with tier := { fcZ.tier with objs := [oA] } }
def rqO (t : Nat) : Msg := { rqM t with addr := oA.handle }
def sgM : Msg := { mtype := 4, vc := 2, dst := 100, src := 200, srcid := 0x501, spart := 3, dpart := 5, epoch := 7, aux := 79 + 255 * 2 ^ 8 + 0xFFFF * 2 ^ 16 }
def rsM (t st : Nat) : Msg := { mtype := t, vc := 1, dst := 100, src := 200, srcid := 0x501, tag := 77, status := st, len := 4, data := [1#8, 2#8, 3#8, 4#8] }
def osZ (src : Nat) (stale : Bool) : Outst := ⟨77, src, 200, 1, 5, 0, stale, none⟩
def outZ (o : Outst) (s : State) : State := { s with fab := { s.fab with outst := s.fab.outst ++ [o] } }
def mgM (op rlen aux off v : Nat) (n : Nat := 0) : Msg := {
  mtype := 0x30, vc := 4, dst := 100, src := 200, srcid := 0x541, tag := 77, rlen := rlen, aux := aux, len := 32,
  data := [BitVec.ofNat 8 op, 9#8] ++ leBytes 10 0 ++ [7#8, BitVec.ofNat 8 n] ++ leBytes 4 6 ++ leBytes 2 0 ++ leBytes 4 off ++ leBytes 8 v }
/-- group 63's words: op, NCHILD, parent word, slot, instance, child, buffer -/
def grD (op n par slot : Nat) : List Byte := [BitVec.ofNat 8 (op + 128), BitVec.ofNat 8 n] ++ leBytes 2 par ++ leBytes 2 1 ++ [BitVec.ofNat 8 slot, 0#8] ++ leBytes 30 200 ++ leBytes 2 0 ++ leBytes 4 10 ++ leBytes 4 256 ++ leBytes 8 65536 ++ [79#8, 255#8] ++ leBytes 6 0
def grZ (d : List Byte) : State := (List.range 8).foldl (fun (s : State) k => s.setReg (.abGroup (8 * 63 + k)) (BitVec.ofNat 64 (leAt d (8 * k) 8))) (fcZ.setFld (.schInst 0) SCH_INST_EPOCH 7)
def gsZ (op : Nat) (g : GroupSt) : State := (grZ (grD op 1 0x8000 0)).setGst 63 g
def clM (e : Bool) : Msg := { mtype := 0x20, vc := 3, dst := 100, src := 200, srcid := 0x10, spart := 3, dpart := 5, epoch := 7, addr := if e then 9 else 254, aux := 63 + (if e then 2 ^ 12 else 0) + 5 * 2 ^ 16, len := if e then 0 else 2, data := if e then [] else [8#8, 9#8] }
def syZ (l : Nat) (src : Nat) : State := let s := (fbZ.setFld .svcSync SVC_SYNC_PORT 5).setFld .svcSync SVC_SYNC_LOCKED l; { s with svcTime := 1000, pwr := { s.pwr with timeSrc := src } }
def up (d t : Nat) : State := { z.setFld .pmStat PM_STAT_DUTY d with svcTime := t }
def coX : Coll := { coN with sw := some ⟨3, 0⟩, recs := { a := rcZ 1 } }
def fz (b : Bool) : State := { z.setFld (.ptCfg 5) PT_CFG_STATE 1 with pwr := { z.pwr with phase := .flushing b }, mem := [(7, 9#8)], coll := { parts := [(5, { cpZ with entries := [{ deZ with durable := true }, { deZ with seq := 2, durable := true }, { deZ with seq := 3 }] })] } }
def imZ (sq : Nat) : Image := ⟨leBytes 8 0 ++ leBytes 4 sq ++ leBytes 244 0, []⟩
def fyMt : State :=
  let r := (z.setFld (.ptFloor 255) PT_FLOOR_DFLOOR 4).setFld (.frySplit 63) FRY_SPLIT_READ 32
  { r with fry := { r.fry with meter := [(4, 9), (1020, 100)] } }

theorem noSketch (a : Nat) (p : Nat → Nat → Prop) (h : (match regionOf a with | .sketch _ _ => true | _ => false) = false) :
    ∀ n o, regionOf a = .sketch n o → p n o := by
  intro n o e
  rw [e] at h
  cases h

theorem sketchAt (a i j : Nat) (p : Nat → Nat → Prop) (h : regionOf a = .sketch i j) (hp : p i j) :
    ∀ n o, regionOf a = .sketch n o → p n o := by
  intro n o e
  rw [h] at e
  cases e
  exact hp

theorem pickFree_nil (c n : Nat) (used : List Nat) (hu : used = []) (hn : 0 < n) : pickFree c n used = some (c % n) := by
  subst hu
  have h : min n 1 = 1 := by omega
  simp [pickFree, h, List.range_succ]

theorem nandDies_pos : 0 < nandDies := by unfold nandDies ratedGb; split <;> decide

theorem freeQp_qpZ : qpZ.freeQp = some (Config.freeChoice 0 % 4095 + 1) := by
  unfold State.freeQp
  rw [show qpZ.quay.qps = [] from rfl, show qpZ.fresh = 0 from rfl]
  simp only [List.filter_nil, List.map_nil, pickFree_nil _ 4095 [] rfl (by decide), Option.map_some]

theorem genOf_cc (n : Nat) (r : List Byte) (hr : r.length = 32768) :
    genOf n (ccD ++ r) = some ⟨n, ccD, [], r, 0, 0, [], [], [], []⟩ := by
  have hl : ccD.length = 128 := by decide +kernel
  have hd : bytesAt (ccD ++ r) 0 128 = ccD := by
    have h3 : ((ccD ++ r).drop 0).take 128 = ccD := List.take_left' hl
    unfold bytesAt
    simp only [h3, hl, Nat.sub_self, List.replicate_zero, List.append_nil]
  have hH : dHost ccD = true := by decide +kernel
  have hc : dCent ccD = 128 := by decide +kernel
  have hn : dNcent ccD * dWidth ccD = 32768 := by decide +kernel
  have hp : dProj ccD = 0 := by decide +kernel
  have hk : descOk ccD = true := by decide +kernel
  have hL : (ccD ++ r).length = 32896 := by rw [List.length_append, hl, hr]
  have hx : ((ccD ++ r).drop 128).take 32768 = r := by rw [List.drop_left' hl, List.take_of_length_le (by omega)]
  unfold genOf
  simp only [hd, hH, hc, hn, hp, hk, hL, hx]
  rw [if_pos (by simp)]
  simp

theorem genOf_ccP (n : Nat) : genOf n (ccC.payload.take ccC.len0) = some ⟨n, ccD, [], List.replicate 32768 0#8, 0, 0, [], [], [], []⟩ := by
  have hL : ccC.payload.length ≤ ccC.len0 := by
    rw [show ccC.len0 = 32896 by decide +kernel, show ccC.payload = ccD ++ List.replicate 32768 0#8 from rfl, List.length_append,
      List.length_replicate, show ccD.length = 128 by decide +kernel]
  rw [List.take_of_length_le hL]
  exact genOf_cc n _ List.length_replicate

theorem genOf_buC : genOf 2 (buC.payload.take buC.len0) = some ⟨2, ccD, [], List.replicate 32768 0#8, 0, 0, [], [], [], []⟩ := by
  rw [show buC.len0 = ccC.len0 by decide +kernel]
  exact genOf_ccP 2

/-- what the flash of the module is rated does not show in the proofs: either order holds 1 MiB -/
theorem userGb : 20000 ≤ fget (BitVec.ofNat 64 (ratedGb * 2 ^ 32)) FL_STAT_USERGB := by unfold ratedGb; split <;> decide

def taS : State := withCmd (tz.setModel 63 mdZ) (cm 0x51 5 9 [(1, 1, 3), (4, 4, 63), (64, 8, 1000), (72, 2, 8), (74, 1, 1), (75, 1, 4), (76, 1, 1)])

theorem filter_fold_le (f : Nat → Nat) (p : Nat → Bool) :
    ∀ (l : List Nat) (a b : Nat), a ≤ b → (l.filter p).foldl (fun a t => a + f t) a ≤ l.foldl (fun a t => a + f t) b
  | [], _, _, h => h
  | x :: l, a, b, h => by
    rw [List.filter_cons]
    split
    · exact filter_fold_le f p l _ _ (Nat.add_le_add_right h _)
    · exact filter_fold_le f p l _ _ (Nat.le_trans h (Nat.le_add_right _ _))

theorem flashRoom_of (s : State) (p u A F G : Nat) (ha : s.flashAll = A) (hp : s.fld (.ptCfg p) PT_CFG_FLASHGB = F)
    (hg : G ≤ s.fld .flStat FL_STAT_USERGB) (h1 : A + u * 2 ^ 20 ≤ F * 10 ^ 9) (h2 : A + u * 2 ^ 20 ≤ G * 10 ^ 9) :
    s.flashRoom p u = true := by
  have h : s.flashOf p ≤ s.flashAll := filter_fold_le _ _ _ 0 0 (Nat.le_refl 0)
  have k1 : s.flashOf p + u * 2 ^ 20 ≤ s.fld (.ptCfg p) PT_CFG_FLASHGB * 10 ^ 9 :=
    hp.symm ▸ Nat.le_trans (Nat.add_le_add_right (ha ▸ h) _) h1
  have k2 : s.flashAll + u * 2 ^ 20 ≤ s.fld .flStat FL_STAT_USERGB * 10 ^ 9 :=
    ha.symm ▸ Nat.le_trans h2 (Nat.mul_le_mul_right _ hg)
  unfold State.flashRoom
  simp only [k1, k2, decide_true, Bool.and_true, Bool.or_true]

theorem userGb_taS : 20000 ≤ taS.fld .flStat FL_STAT_USERGB := userGb

theorem flashRoom_taS : taS.flashRoom 5 1 = true :=
  flashRoom_of taS 5 1 0 100 20000 (by decide +kernel) (by decide +kernel) userGb_taS (by decide) (by decide)

theorem witness_stepRunsTheFrontCommand :
    (∃ s : State, s.pending = [] ∧ s.pwr.phase = .up) ∧
    (∃ s : State, s.pending = [] ∧ s.pwr.phase ≠ .up) :=
  ⟨⟨z, by decide +kernel⟩,
   ⟨{ z with pwr := { z.pwr with phase := .off false } }, by decide +kernel⟩⟩

theorem witness_eventRecordReachesItsLog :
    (∃ (s : State) (src l : Nat) (r : EvRec) (pre post : List (Nat × EvRec)), RegsOk s ∧ s.evt.raised = pre ++ (l,
      r) :: post ∧ (∀ e ∈ pre, e.2.src ≠ src) ∧ r.src = src ∧ (s.srcSt src).inWin < 4096) ∧
    (∃ (s : State) (src l : Nat) (r : EvRec) (pre post : List (Nat × EvRec)), s.evt.raised = pre ++ (l, r) :: post ∧
      (∀ e ∈ pre, e.2.src ≠ src) ∧ r.src = src ∧ 4096 ≤ (s.srcSt src).inWin) :=
  ⟨⟨(z.raiseRec 3 7 0x601 []).raiseRec 64 0x530 0x802 [], 0x530, 64, ⟨0x530, 0x802, 0, 0, List.replicate 16 0⟩, [(3, ⟨7, 0x601, 0, 0, List.replicate 16 0⟩)], [], by decide +kernel⟩,
   ⟨(z.setSrcSt 7 { inWin := 4096 }).raiseRec 3 7 0x601 [], 7, 3, ⟨7, 0x601, 0, 0, List.replicate 16 0⟩, [], [], by decide +kernel⟩⟩

theorem witness_eventWindowRestartsCounts :
    (∃ s : State, (twf (fun _ => ({} : SrcSt)) s.evt.srcs = true) ∧ s.evt.win < s.svcTime / 400000) ∧
    (∃ (s : State) (src : Nat) (k : SrcSt) (d : Dropped), s.evt.srcs = [(src, k)] ∧ k.drops = [d] ∧ s.evt.win <
      s.svcTime / 400000) :=
  ⟨⟨{ z.setSrcSt 7 { seq := 4, inWin := 9 } with svcTime := 400000 }, by decide +kernel⟩,
   ⟨{ z.setSrcSt 7 { seq := 4, inWin := 4096, drops := [⟨3, 2, 2⟩] } with svcTime := 400000 }, 7, { seq := 4, inWin := 4096, drops := [⟨3, 2, 2⟩] }, ⟨3, 2, 2⟩, by decide +kernel⟩⟩

theorem witness_eventQueuesAndGlobalInterrupts :
    (∃ (s : State) (l v : Nat), RegsOk s ∧ s.pwrGood = true ∧ l ≤ 64 ∧ v % 2 ^ 64 ≤ s.fld (.evqLsn l) EVQ_LSN_LSN) ∧
    (∃ (s : State) (l v : Nat) (h : Half), l ≤ 64 ∧ (h ≠ .whole ∨ s.fld (.evqLsn l) EVQ_LSN_LSN < v % 2 ^ 64)) ∧
    (∃ (s : State) (l k : Nat), RegsOk s ∧ l ≤ 64 ∧ s.flag (.evqCfg l) EVQ_CFG_EN = true ∧ s.flag (.evqStat l)
      EVQ_STAT_PEND = false ∧ (s.fld (.evqCfg l) EVQ_CFG_THRESH ≤ s.fld (.evqLsn l) EVQ_LSN_LSN - s.fld (.evqAck
      l) EVQ_ACK_ACK ∨ (s.fld (.evqAck l) EVQ_ACK_ACK < s.fld (.evqLsn l) EVQ_LSN_LSN ∧ s.fld (.evqCfg l)
      EVQ_CFG_ITIME ≠ 0 ∧ s.recTime l (s.fld (.evqAck l) EVQ_ACK_ACK) = some k ∧ s.fld (.evqCfg l) EVQ_CFG_ITIME
      * tickUs ≤ s.svcTime - k))) ∧
    (∃ (s : State) (l : Nat), l ≤ 64 ∧ (s.flag (.evqCfg l) EVQ_CFG_EN = false ∨ s.flag (.evqStat l) EVQ_STAT_PEND =
      true ∨ s.evqTrigger l = false)) ∧
    (∃ (s : State) (c : Nat) (pre post : List Nat), RegsOk s ∧ s.evt.due = pre ++ c :: post ∧ c ∉ pre) :=
  ⟨⟨(z.setFld (.evqLsn 64) EVQ_LSN_LSN 9).setFld (.evqStat 64) EVQ_STAT_PEND 1, 64, 9, by decide +kernel⟩,
   ⟨z, 0, 1, .whole, by decide +kernel⟩,
   ⟨((z.setFld (.evqCfg 64) EVQ_CFG_EN 1).setFld (.evqLsn 64) EVQ_LSN_LSN 2000).setFld (.evqCfg 64) EVQ_CFG_VEC 2047, 64, 0, by decide +kernel⟩,
   ⟨(z.setFld (.evqCfg 64) EVQ_CFG_EN 1).setFld (.evqCfg 64) EVQ_CFG_THRESH 1, 64, by decide +kernel⟩,
   ⟨{ z.setFld (.msixData 0) MSIX_DATA_MASK 0 with evt := { due := [3, 0] } }, 0, [3], [], by decide +kernel⟩⟩

theorem witness_configurationLocksOpenAndClose :
    (∃ (s : State) (src : Nat), RegsOk s ∧ s.pwrGood = true ∧ (src = srcHost ∨ src = srcM) ∧ (s.flag .fabLock
      FAB_LOCK_OPEN = false ∨ s.fld .fabLock FAB_LOCK_HOLDER = src)) ∧
    (∃ (s : State) (src : Nat), RegsOk s ∧ s.pwrGood = true ∧ (src = srcHost ∨ src = srcM) ∧ (s.flag .ptLock
      PT_LOCK_OPEN = false ∨ s.fld .ptLock PT_LOCK_HOLDER = src)) ∧
    (∃ (s : State) (src : Nat), RegsOk s ∧ s.pwrGood = true ∧ (src = srcHost ∨ src = srcM) ∧ s.flag .fabLock
      FAB_LOCK_OPEN = true) ∧
    (∃ (s : State) (src : Nat), RegsOk s ∧ s.pwrGood = true ∧ (src = srcHost ∨ src = srcM) ∧ s.flag .ptLock
      PT_LOCK_OPEN = true) ∧
    (∃ (s : State) (src : Nat), src ≠ srcHost ∧ src ≠ srcM) ∧
    (∃ (s : State) (src : Nat), s.flag .fabLock FAB_LOCK_OPEN = true ∧ s.fld .fabLock FAB_LOCK_HOLDER ≠ src) ∧
    (∃ (s : State) (src : Nat), s.flag .ptLock PT_LOCK_OPEN = true ∧ s.fld .ptLock PT_LOCK_HOLDER ≠ src) :=
  ⟨⟨z, srcM, by decide +kernel⟩,
   ⟨z, srcM, by decide +kernel⟩,
   ⟨z.setFld .fabLock FAB_LOCK_OPEN 1, srcM, by decide +kernel⟩,
   ⟨z.setFld .ptLock PT_LOCK_OPEN 1, srcM, by decide +kernel⟩,
   ⟨z, 0x510, by decide +kernel⟩,
   ⟨z.setFld .fabLock FAB_LOCK_OPEN 1, srcM, by decide +kernel⟩,
   ⟨z.setFld .ptLock PT_LOCK_OPEN 1, srcHost, by decide +kernel⟩⟩

theorem witness_perturbationHoldsAndReleases :
    (∃ (s : State) (en : Bool), RegsOk s ∧ s.pwrGood = true ∧ s.prtAllow = true) ∧
    (∃ (s : State) (en : Bool), s.prtAllow = false) ∧
    (∃ (s : State) (target : Nat) (p : Held) (pre post : List Held), s.net.held = pre ++ p :: post ∧ (∀ e ∈ pre,
      e.target ≠ target) ∧ p.target = target ∧ p.until_ ≤ s.svcTime) ∧
    (∃ (s : State) (target : Nat) (p : Held) (pre post : List Held), s.net.held = pre ++ p :: post ∧ (∀ e ∈ pre,
      e.target ≠ target) ∧ p.target = target ∧ s.svcTime < p.until_) :=
  ⟨⟨z.setFld .lcStat LC_STAT_STATE 1, true, by decide +kernel⟩,
   ⟨z, true, by decide +kernel⟩,
   ⟨{ z with svcTime := 40, net := { held := [⟨0x500, 8⟩, ⟨0x501, 40⟩] } }, 0x501, ⟨0x501, 40⟩, [⟨0x500, 8⟩], [], by decide +kernel⟩,
   ⟨{ z with net := { held := [⟨0x501, 1⟩] } }, 0x501, ⟨0x501, 1⟩, [], [], by decide +kernel⟩⟩

theorem witness_scratchpadBankStates :
    (∃ (s : State) (d b v : Nat), Canonical s ∧ s.pwrGood = true ∧ d < 20 ∧ b < 63 ∧ s.owner 1 (64 * d + b) < 64 ∧
      bits v (2 * (b % 32)) 2 ≠ 3 ∧ (bits v (2 * (b % 32)) 2 = 2 → s.bankPooled d b = false)) ∧
    (∃ (s : State) (d b : Nat), RegsOk s ∧ d < 20 ∧ b < 64 ∧ s.bankSt d b = 1) ∧
    (∃ (s : State) (d b : Nat), s.net.onWipe.contains (64 * d + b) = true ∧ s.bankSt d b = 0) :=
  ⟨⟨(z.setOwner 1 98 5).wr (spBase + spSize + 34 * bankSize) [7#8], 1, 34, 2 * 2 ^ 4, by decide +kernel⟩,
   ⟨z.setFld (spadReg 19 63) (spadFld 63) 1, 19, 63, by decide +kernel⟩,
   ⟨{ z with net := { onWipe := [70] } }, 1, 6, by decide +kernel⟩⟩

theorem witness_mooringsAndAliasWrites :
    (∃ (s : State) (src d m tag : Nat), MemOk s ∧ d < 20 ∧ m < 2048 ∧ s.moorServes src m = true ∧ s.bankServes d 63
      = true ∧ s.bankSt d 63 = 0 ∧ moorState (s.moor d m) = 0) ∧
    (∃ (s : State) (src d m tag : Nat), MemOk s ∧ d < 20 ∧ m < 2048 ∧ s.moorServes src m = true ∧ s.bankServes d 63
      = true ∧ s.bankSt d 63 = 0 ∧ (moorState (s.moor d m) = 2 ∨ (moorState (s.moor d m) = 1 ∧ moorEpoch (s.moor
      d m) ≠ s.epochOf (moorOwner (s.moor d m))))) ∧
    (∃ (s : State) (src d m tag : Nat), RegsOk s ∧ d < 20 ∧ m < 2048 ∧ s.moorServes src m = true ∧ s.bankServes d 63
      = true ∧ s.bankSt d 63 = 0 ∧ moorState (s.moor d m) = 1 ∧ moorEpoch (s.moor d m) = s.epochOf (moorOwner
      (s.moor d m))) ∧
    (∃ (s : State) (src d m tag : Nat), MemOk s ∧ d < 20 ∧ m < 2048 ∧ s.moorServes src m = true ∧ s.bankServes d 63
      = true ∧ s.bankSt d 63 = 0 ∧ moorState (s.moor d m) = 1 ∧ moorOwner (s.moor d m) = src % 2 ^ 12 ∧ moorTag
      (s.moor d m) = tag) ∧
    (∃ (s : State) (src d m tag : Nat), d < 20 ∧ m < 2048 ∧ s.moorServes src m = true ∧ s.bankServes d 63 = true ∧
      s.bankSt d 63 = 0 ∧ (moorState (s.moor d m) = 1 → ¬ (moorOwner (s.moor d m) = src % 2 ^ 12 ∧ moorTag
      (s.moor d m) = tag))) ∧
    (∃ (s : State) (src o : Nat) (set : Bool) (data : List Byte) (err : MemErr), MemOk s ∧ err ≠ .ue ∧ (src < 0x540
      ∨ 0x543 < src) ∧ aliasOk o data.length = true ∧ o < 20 * spSize ∧ o % spSize < moorOff ∧ s.mayReach src
      (spBase + o) = true ∧ s.bankServes (o / spSize) (o % spSize / bankSize) = true) ∧
    (∃ (s : State) (src o : Nat) (set : Bool) (data : List Byte), isQuadUnit src = false ∧ aliasOk o data.length =
      true ∧ o < 20 * spSize ∧ o % spSize < moorOff ∧ s.mayReach src (spBase + o) = true ∧ s.bankServes (o /
      spSize) (o % spSize / bankSize) = true ∧ s.bankSt (o / spSize) (o % spSize / bankSize) = 0) ∧
    (∃ (s : State) (src o i : Nat) (set : Bool) (data : List Byte), RegsOk s ∧ isQuadUnit src = true ∧ s.quadInst
      (src / 16) = some i ∧ i < 80 ∧ s.flag (.schInst i) SCH_INST_RUN = true ∧ s.flag (.schInst i)
      SCH_INST_ABORTING = false ∧ aliasOk o data.length = true ∧ o < 20 * spSize ∧ o % spSize < moorOff ∧
      s.mayReach src (spBase + o) = true ∧ s.bankServes (o / spSize) (o % spSize / bankSize) = true ∧ s.bankSt
      (o / spSize) (o % spSize / bankSize) = 0) :=
  ⟨⟨z, srcHost, 19, 2047, 0x100, by decide +kernel⟩,
   ⟨z.setMoor 3 5 (moorWord 2 0 0x0C9 0x42 7), srcHub 1, 3, 5, 0x100, by decide +kernel⟩,
   ⟨z.setMoor 3 5 (moorWord 1 0 0x0C9 0x42 0), srcHub 0, 3, 5, 0x100, by decide +kernel⟩,
   ⟨z.setMoor 3 2047 (moorWord 1 1 srcHost 0x42 7), srcHost, 3, 2047, 0x42, by decide +kernel⟩,
   ⟨z, srcHost, 0, 0, 0, by decide +kernel⟩,
   ⟨(z.wr (spBase + 8) [6#8, 1#8, 2#8, 3#8]).setFld (spadReg 0 0) (spadFld 0) 1, srcHub 0, 8, false, [2#8, 1#8, 0#8, 0#8], .ce, by decide +kernel⟩,
   ⟨z, srcHub 0, 8, false, [2#8, 1#8, 0#8, 0#8], by decide +kernel⟩,
   ⟨(runZ 5 3 0).setOwner 1 1216 5, srcUnit 79 5, 19 * spSize, 0, false, [2#8, 1#8, 0#8, 0#8], by decide +kernel⟩⟩

theorem witness_farLinesAndSharers :
    (∃ (s : State) (src d a n : Nat) (f : Bool) (l : FarLine), d < 20 ∧ s.mayReach src a = true ∧ farKind a = true ∧
      isFar d a = true ∧ 32 ≤ n ∧ a % 256 + n ≤ 256 ∧ (s.net.lines.find? (fun x => x.die = d ∧ x.line = a / 256)
      = some l)) ∧
    (∃ (s : State) (src d a n : Nat) (f : Bool), d < 20 ∧ s.mayReach src a = true ∧ farKind a = true ∧ isFar d a =
      true ∧ 32 ≤ n ∧ a % 256 + n ≤ 256 ∧ ((s.net.lines.any fun l => l.die = d ∧ l.line = a / 256) = false) ∧
      ((s.net.fills.any fun l => l.die = d ∧ l.line = a / 256) = false) ∧ s.flag .prtCtl PRT_CTL_EN = false ∧
      s.converting a = false ∧ s.servesAll src a n = true ∧ s.lostIn a n = false ∧ s.cacheable a = false) ∧
    (∃ (s : State) (src d a n : Nat) (f : Bool), d < 20 ∧ s.mayReach src a = true ∧ farKind a = true ∧ isFar d a =
      true ∧ 32 ≤ n ∧ a % 256 + n ≤ 256 ∧ ((s.net.lines.any fun l => l.die = d ∧ l.line = a / 256) = false) ∧
      ((s.net.fills.any fun l => l.die = d ∧ l.line = a / 256) = false) ∧ s.flag .prtCtl PRT_CTL_EN = false ∧
      s.converting a = false ∧ (twf (fun _ => 0) s.net.dir = true) ∧ s.cacheable a = true ∧ s.lostIn (a / 256 *
      256) 256 = false ∧ s.dirRoom (a / 256) = true ∧ ((s.net.lines.filter fun l => l.die = d ∧ l.line % farSets
      = a / 256 % farSets).length < 8)) ∧
    (∃ (s : State) (src a : Nat) (data : List Byte), MemOk s ∧ s.mayReach src a = true ∧ s.mayReach src (a +
      data.length - 1) = true ∧ a % 256 + data.length ≤ 256 ∧ data ≠ [] ∧ farKind a = true ∧ s.lostIn a
      data.length = false ∧ s.converting a = false ∧ (twf (fun _ => 0) s.net.dir = true) ∧ s.sharers (a / 256) =
      0) ∧
    (∃ (s : State) (src a h : Nat) (data : List Byte), MemOk s ∧ s.mayReach src a = true ∧ s.mayReach src (a +
      data.length - 1) = true ∧ a % 256 + data.length ≤ 256 ∧ data ≠ [] ∧ farKind a = true ∧ s.lostIn a
      data.length = false ∧ s.converting a = false ∧ (twf (fun _ => 0) s.net.dir = true) ∧ hubOf a = some h ∧
      s.sharers (a / 256) ≠ 0) ∧
    (∃ (s : State) (d line : Nat) (sn : Snoop), (twf (fun _ => 0) s.net.dir = true) ∧ s.net.snoops = [sn] ∧ sn.die =
      d ∧ sn.line = line ∧ sn.gone = false ∧ s.flag .prtCtl PRT_CTL_EN = false ∧ s.net.rangeWait = [] ∧
      s.net.acks = []) ∧
    (∃ (s : State) (d line : Nat), (twf (fun _ => 0) s.net.dir = true) ∧ s.net.snoops = [] ∧ ((s.net.lines.any fun l
      => l.die = d ∧ l.line = line) = true)) ∧
    (∃ (s : State) (k v b l : Nat), RegsOk s ∧ s.pwrGood = true ∧ k < 64 ∧ s.flag (.fcRange k) FC_RANGE_EN = false ∧
      ((∀ e ∈ s.net.rangeWait, e.1 ≠ k)) ∧ b = bits v FC_RANGE_BASE.lo FC_RANGE_BASE.w ∧ l = bits v
      FC_RANGE_LIMIT.lo FC_RANGE_LIMIT.w ∧ (bits v FC_RANGE_EN.lo 1 = 1 → b ≤ l ∧ farKind (b * 65536) = true ∧
      farKind (l * 65536) = true ∧ hubOf (b * 65536) = some (k / 16) ∧ hubOf (l * 65536) = some (k / 16) ∧ (b *
      65536 < gdBase ↔ l * 65536 < gdBase))) ∧
    (∃ (s : State) (k v : Nat), k < 64 ∧ s.flag (.fcRange k) FC_RANGE_EN = false ∧ ((∀ e ∈ s.net.rangeWait, e.1 ≠
      k)) ∧ bits v FC_RANGE_EN.lo 1 = 1 ∧ (bits v FC_RANGE_LIMIT.lo FC_RANGE_LIMIT.w < bits v FC_RANGE_BASE.lo
      FC_RANGE_BASE.w ∨ hubOf (bits v FC_RANGE_BASE.lo FC_RANGE_BASE.w * 65536) ≠ some (k / 16) ∨ hubOf (bits v
      FC_RANGE_LIMIT.lo FC_RANGE_LIMIT.w * 65536) ≠ some (k / 16))) :=
  ⟨⟨{ z with net := { lines := [⟨4, 1, []⟩, ⟨5, 1, List.replicate 256 7⟩] } }, srcHub 1, 5, 256 + 224, 32, false, ⟨5, 1, List.replicate 256 7⟩, by decide +kernel⟩,
   ⟨z, srcHub 1, 5, 256, 32, false, by decide +kernel⟩,
   ⟨(z.setFld (.fcRange 0) FC_RANGE_EN 1).setFld (.fcRange 0) FC_RANGE_LIMIT 1, srcHub 1, 5, 256 + 32, 64, false, by decide +kernel⟩,
   ⟨z, srcHub 0, 0xC000000000, [1#8, 2#8], by decide +kernel⟩,
   ⟨z.setSharers 2 33, srcHub 0, 2 * 256, 0, [1#8, 2#8], by decide +kernel⟩,
   ⟨{ z with net := { lines := [⟨5, 1, List.replicate 256 7⟩], snoops := [⟨0, 5, 1, false⟩], dir := [(1, 32)] } }, 5, 1, ⟨0, 5, 1, false⟩, by decide +kernel⟩,
   ⟨{ z with net := { lines := [⟨5, 1, List.replicate 256 7⟩], dir := [(1, 32)] } }, 5, 1, by decide +kernel⟩,
   ⟨z, 63, 0x12345, bits 0x12345 FC_RANGE_BASE.lo FC_RANGE_BASE.w, bits 0x12345 FC_RANGE_LIMIT.lo FC_RANGE_LIMIT.w, by decide +kernel⟩,
   ⟨z, 63, 2 ^ FC_RANGE_EN.lo + 3 * 2 ^ FC_RANGE_LIMIT.lo, by decide +kernel⟩⟩

theorem witness_bufferPools :
    (∃ (s : State) (src k i : Nat), RegsOk s ∧ k < 320 ∧ s.flag (.poolCfg k) POOL_CFG_EN = true ∧ s.poolMaster src k
      = true ∧ nextFree (s.pool k).used (s.fld (.poolCfg k) POOL_CFG_COUNTM1 + 1) (s.pool k).search = some i ∧ 1
      ≤ s.fld (.poolCfg k) POOL_CFG_FREE) ∧
    (∃ (s : State) (src k st : Nat) (lost : Bool), k < 320 ∧ (st = if s.flag (.poolCfg k) POOL_CFG_EN = false then 4
      else if s.poolMaster src k = false then 3 else if lost = true then 2 else 1) ∧ (s.flag (.poolCfg k)
      POOL_CFG_EN = false ∨ s.poolMaster src k = false ∨ lost = true ∨ nextFree (s.pool k).used (s.fld (.poolCfg
      k) POOL_CFG_COUNTM1 + 1) (s.pool k).search = none)) ∧
    (∃ (s : State) (src k d i : Nat), RegsOk s ∧ (twf (fun _ => ({} : PoolSt)) s.net.pools = true) ∧ k < 320 ∧ bits
      d 25 1 = 1 ∧ bits d 20 5 = k / 16 ∧ bits d 16 4 = k % 16 ∧ bits d 0 16 = i ∧ s.poolSrc src k = some (s.fld
      (.poolCfg k) POOL_CFG_PART) ∧ (((s.pool k).used.any fun (u : Nat × Nat) => u.1 = i) = true) ∧ tgetD 0
      (s.pool k).gens i = bits d 44 16) ∧
    (∃ (s : State) (src k d : Nat), k < 320 ∧ bits d 25 1 = 1 ∧ bits d 20 5 = k / 16 ∧ bits d 16 4 = k % 16 ∧
      s.poolSrc src k ≠ some (s.fld (.poolCfg k) POOL_CFG_PART)) ∧
    (∃ (s : State) (src k d : Nat), k < 320 ∧ s.poolSrc src k = some (s.fld (.poolCfg k) POOL_CFG_PART) ∧ (bits d 25
      1 = 0 ∨ tgetD 0 (s.pool k).gens (bits d 0 16) ≠ bits d 44 16)) ∧
    (∃ (s : State) (k v : Nat) (n : Word), RegsOk s ∧ (twf (fun _ => ({} : PoolSt)) s.net.pools = true) ∧ s.pwrGood
      = true ∧ k < 320 ∧ s.flag .ptLock PT_LOCK_OPEN = true ∧ s.flag (.poolCfg k) POOL_CFG_EN = false ∧ (n =
      writeFlds (fun _ => true) (2 ^ 64 - 1) (v % 2 ^ 64) (regFields (.poolCfg k)) (s.reg (.poolCfg k))) ∧ fget
      n POOL_CFG_EN = 1 ∧ s.poolFits k n = true) ∧
    (∃ (s : State) (k v : Nat) (n : Word), k < 320 ∧ s.flag .ptLock PT_LOCK_OPEN = true ∧ s.flag (.poolCfg k)
      POOL_CFG_EN = false ∧ (n = writeFlds (fun _ => true) (2 ^ 64 - 1) (v % 2 ^ 64) (regFields (.poolCfg k))
      (s.reg (.poolCfg k))) ∧ fget n POOL_CFG_EN = 1 ∧ s.poolFits k n = false) :=
  ⟨⟨(((z.setFld (.poolCfg 319) POOL_CFG_EN 1).setFld (.poolCfg 319) POOL_CFG_COUNTM1 3).setFld (.poolCfg 319) POOL_CFG_FREE 4).setOwner 0 79 0, srcUnit 79 5, 319, 0, by decide +kernel⟩,
   ⟨((z.setFld (.poolCfg 0) POOL_CFG_EN 1).setPool 0 { used := [(0, 7)] }).setOwner 0 79 0, srcUnit 79 5, 0, 1, false, by decide +kernel⟩,
   ⟨z.setPool 17 { used := [(2, 7)], gens := [(2, 9)] }, srcHost, 17, poolDesc 2 1 1 1 0 7 9, 2, by decide +kernel⟩,
   ⟨z, srcUnit 79 5, 17, poolDesc 2 1 1 1 0 7 9, by decide +kernel⟩,
   ⟨z, srcHost, 0, 0, by decide +kernel⟩,
   ⟨((z.setFld .ptLock PT_LOCK_OPEN 1).setOwner 1 0 0).setOwner 1 1 0, 0, 6 * 2 ^ POOL_CFG_LOG2SZ.lo + 2 ^ POOL_CFG_EN.lo, writeFlds (fun _ => true) (2 ^ 64 - 1) ((6 * 2 ^ POOL_CFG_LOG2SZ.lo + 2 ^ POOL_CFG_EN.lo) % 2 ^ 64) (regFields (.poolCfg 0)) ((((z.setFld .ptLock PT_LOCK_OPEN 1).setOwner 1 0 0).setOwner 1 1 0).reg (.poolCfg 0)), by decide +kernel⟩,
   ⟨z.setFld .ptLock PT_LOCK_OPEN 1, 0, 6 * 2 ^ POOL_CFG_LOG2SZ.lo + 2 ^ POOL_CFG_EN.lo, writeFlds (fun _ => true) (2 ^ 64 - 1) ((6 * 2 ^ POOL_CFG_LOG2SZ.lo + 2 ^ POOL_CFG_EN.lo) % 2 ^ 64) (regFields (.poolCfg 0)) ((z.setFld .ptLock PT_LOCK_OPEN 1).reg (.poolCfg 0)), by decide +kernel⟩⟩

theorem witness_partitionStatesAndDrain :
    (∃ (s : State) (p : Nat), RegsOk s ∧ p < 64 ∧ s.pwrGood = true ∧ s.ptState p = 0 ∧ s.mayTurnOn p = true) ∧
    (∃ (s : State) (p : Nat), RegsOk s ∧ p < 64 ∧ s.pwrGood = true ∧ ((s.ptState p = 0 ∧ s.mayTurnOn p = false) ∨
      s.ptState p = 2)) ∧
    (∃ (s : State) (p : Nat), RegsOk s ∧ p < 64 ∧ s.pwrGood = true ∧ s.ptState p = 1 ∧ s.flag .ptLock PT_LOCK_OPEN =
      true ∧ s.ctl.waiting = []) ∧
    (∃ (s : State) (p : Nat) (en : Bool), p < 64 ∧ s.ptState p < 3 ∧ ((en = true ∧ s.ptState p = 1) ∨ (en = false ∧
      (s.ptState p ≠ 1 ∨ s.flag .ptLock PT_LOCK_OPEN = false)))) ∧
    (∃ (s : State) (p : Nat), p < 64 ∧ (s.ptState p ≠ 2 ∨ (s.instsOf p ≠ [] ∧ ∀ i < 80, ∀ v, s.inst i = some v →
      v.tasks ≠ []))) ∧
    (∃ (s : State) (p : Nat), RegsOk s ∧ p < 64 ∧ s.ptState p = 2 ∧ s.instsOf p = []) :=
  ⟨⟨(z.setFld .ptLock PT_LOCK_OPEN 1).setOwner 0 79 63, 63, by decide +kernel⟩,
   ⟨z, 0, by decide +kernel⟩,
   ⟨((z.setFld .ptLock PT_LOCK_OPEN 1).setFld (.ptCfg 5) PT_CFG_STATE 1).setInst 79 (some ⟨5, 0, 1, 4, 0, 0, [], 0, 0, [], [], 0, [], false⟩), 5, by decide +kernel⟩,
   ⟨z, 63, false, by decide +kernel⟩,
   ⟨z, 63, by decide +kernel⟩,
   ⟨z.setFld (.ptCfg 63) PT_CFG_STATE 2, 63, by decide +kernel⟩⟩

theorem witness_ownersWipesAndFloors :
    (∃ (s : State) (kind j k b : Nat), RegsOk s ∧ s.pwrGood = true ∧ s.flag .ptLock PT_LOCK_OPEN = true ∧ 1 ≤ kind ∧
      kind < 5 ∧ k < 8 ∧ 8 * j + k < granuleCount kind ∧ b ≤ 0x40 ∧ s.owner kind (8 * j + k) < 0x80 ∧ s.owner
      kind (8 * j + k) ≠ b ∧ s.inUse kind (8 * j + k) = false ∧ (∀ n < 8, n ≠ k → s.owner kind (8 * j + n) ≤
      0x40 ∨ 0x80 ≤ s.owner kind (8 * j + n))) ∧
    (∃ (s : State) (j k b p : Nat), RegsOk s ∧ s.pwrGood = true ∧ s.flag .ptLock PT_LOCK_OPEN = true ∧ j < 10 ∧ k <
      8 ∧ b ≤ 0x40 ∧ p = s.owner 0 (8 * j + k) ∧ p < 0x80 ∧ p ≠ b ∧ s.quadInst (8 * j + k) = none ∧ (∀ n < 8, n
      ≠ k → s.owner 0 (8 * j + n) ≤ 0x40 ∨ 0x80 ≤ s.owner 0 (8 * j + n))) ∧
    (∃ (s : State) (kind i : Nat), Canonical s ∧ 1 ≤ kind ∧ kind < 5 ∧ i < granuleCount kind ∧ s.part.wipes.contains
      (kind, i) = true ∧ s.wipeTurn kind i = true ∧ s.tier.heldAcc = [] ∧ (∀ e ∈ s.net.dir, e.1 < (granuleSpan
      kind i).1 / 256 ∨ (granuleSpan kind i).1 + (granuleSpan kind i).2 ≤ e.1 * 256)) ∧
    (∃ (s : State) (kind i o : Nat), RegsOk s ∧ s.pwrGood = true ∧ s.flag .ptLock PT_LOCK_OPEN = true ∧ kind < 5 ∧ i
      < granuleCount kind ∧ o < 64 ∧ s.owner kind i = o ∧ s.inUse kind i = true ∧ (∀ n < 8, n ≠ i % 8 → s.owner
      kind (8 * (i / 8) + n) ≤ 0x40 ∨ 0x80 ≤ s.owner kind (8 * (i / 8) + n))) ∧
    (∃ (s : State) (kind j v : Nat) (h : Half), s.flag .ptLock PT_LOCK_OPEN = false ∧ kind < 5) ∧
    (∃ (s : State) (k v : Nat), RegsOk s ∧ s.pwrGood = true ∧ s.flag .ptLock PT_LOCK_OPEN = true ∧ k < 256 ∧ v < 2 ^
      64 ∧ (((List.range 64).foldl (fun a p => a + if 4 * p + k % 4 = k then bits v 0 9 else s.fld (.ptFloor (4
      * p + k % 4)) PT_FLOOR_DFLOOR) 0) ≤ 432) ∧ (((List.range 64).foldl (fun a p => a + if 4 * p + k % 4 = k
      then bits v 16 6 else s.fld (.ptFloor (4 * p + k % 4)) PT_FLOOR_PFLOOR) 0) ≤ 56)) ∧
    (∃ (s : State) (k v : Nat), RegsOk s ∧ k < 256 ∧ v < 2 ^ 64 ∧ (432 < ((List.range 64).foldl (fun a p => a + if 4
      * p + k % 4 = k then bits v 0 9 else s.fld (.ptFloor (4 * p + k % 4)) PT_FLOOR_DFLOOR) 0) ∨ 56 <
      ((List.range 64).foldl (fun a p => a + if 4 * p + k % 4 = k then bits v 16 6 else s.fld (.ptFloor (4 * p +
      k % 4)) PT_FLOOR_PFLOOR) 0)) ∧ s.flag .ptLock PT_LOCK_OPEN = true) :=
  ⟨⟨(z.setFld .ptLock PT_LOCK_OPEN 1).setOwner 1 1274 7, 1, 159, 2, 0x40, by decide +kernel⟩,
   ⟨(z.setFld .ptLock PT_LOCK_OPEN 1).setOwner 0 79 5, 9, 7, 63, 5, by decide +kernel⟩,
   ⟨{ (z.setOwner 1 3 5).wr (spBase + 3 * bankSize + 7) [9#8] with part := { wipes := [(1, 3)] } }, 1, 3, by decide +kernel⟩,
   ⟨(((z.setFld .ptLock PT_LOCK_OPEN 1).setOwner 1 65 5).setFld (.poolCfg 16) POOL_CFG_EN 1).setFld (.poolCfg 16) POOL_CFG_BASE 256, 1, 65, 5, by decide +kernel⟩,
   ⟨z, 4, 511, 0, .whole, by decide +kernel⟩,
   ⟨z.setFld .ptLock PT_LOCK_OPEN 1, 255, 432 + 56 * 65536, by decide +kernel⟩,
   ⟨(z.setFld .ptLock PT_LOCK_OPEN 1).setFld (.ptFloor 7) PT_FLOOR_DFLOOR 432, 3, 1, by decide +kernel⟩⟩

theorem witness_tenantsKeysAndQuotas :
    (∃ (s : State) (t0 : Nat), RegsOk s ∧ s.pwrGood = true ∧ t0 < 1024 ∧ s.flag .ptLock PT_LOCK_OPEN = true ∧ (s.lc
      = lcDevelopment ∨ s.lc = lcProduction) ∧ s.flag (.tnCfg t0) TN_CFG_EN = false ∧ s.flag (.tnCfg t0)
      TN_CFG_ERASING = false) ∧
    (∃ (s : State) (t0 : Nat), RegsOk s ∧ s.pwrGood = true ∧ t0 < 1024 ∧ s.flag .ptLock PT_LOCK_OPEN = true ∧ (s.lc
      = lcDevelopment ∨ s.lc = lcProduction) ∧ s.flag (.tnCfg t0) TN_CFG_EN = true ∧ s.fld (.tnCfg t0)
      TN_CFG_QPS = 0 ∧ s.holdsDram t0 = false) ∧
    (∃ (s : State) (t0 : Nat) (en : Bool), t0 < 1024 ∧ (s.flag .ptLock PT_LOCK_OPEN = false ∨ (s.lc ≠ lcDevelopment
      ∧ s.lc ≠ lcProduction) ∨ (en = true ∧ (s.flag (.tnCfg t0) TN_CFG_EN = true ∨ s.flag (.tnCfg t0)
      TN_CFG_ERASING = true)) ∨ (en = false ∧ (s.flag (.tnCfg t0) TN_CFG_EN = false ∨ s.fld (.tnCfg t0)
      TN_CFG_QPS ≠ 0 ∨ s.holdsDram t0 = true)))) ∧
    (∃ (s : State) (t0 : Nat), RegsOk s ∧ t0 < 1024 ∧ s.flag (.tnCfg t0) TN_CFG_ERASING = true ∧ (∀ o ∈ s.tier.objs,
      o.tenant = t0 → s.obj o.handle = some o) ∧ (s.trust.keys.map Prod.fst).Nodup) ∧
    (∃ (s : State) (t0 k q : Nat), RegsOk s ∧ s.pwrGood = true ∧ t0 < 1024 ∧ k < 4 ∧ q < 2 ^ 32) :=
  ⟨⟨z.setFld .ptLock PT_LOCK_OPEN 1, 1023, by decide +kernel⟩,
   ⟨(z.setFld .ptLock PT_LOCK_OPEN 1).setFld (.tnCfg 1023) TN_CFG_EN 1, 1023, by decide +kernel⟩,
   ⟨z, 1023, true, by decide +kernel⟩,
   ⟨(z.setFld (.tnCfg 0) TN_CFG_ERASING 1).setFld (.tnCfg 0) TN_CFG_PART 63, 0, by decide +kernel⟩,
   ⟨z, 1023, 3, 2 ^ 32 - 1, by decide +kernel⟩⟩

theorem witness_registerAccesses :
    (∃ (s : State) (src o v : Nat) (h : Half) (r : Reg), RegsOk s ∧ busSource src = true ∧ s.busUp src = true ∧ o <
      2 ^ 26 ∧ regAt o = some r ∧ plainReg r = true ∧ (∀ q, regQuad r = some q → s.fld (.pwrQuad q)
      PWR_QUAD_STATE = 0)) ∧
    (∃ (s : State) (src v : Nat) (h : Half), RegsOk s ∧ busSource src = true ∧ s.busUp src = true ∧ (h = .whole ∨ h
      = .low) ∧ v < 2 ^ 64) ∧
    (∃ (s : State) (src o v : Nat) (h : Half), RegsOk s ∧ busSource src = true ∧ s.busUp src = true ∧ o < 2 ^ 26 ∧
      regAt o = none) ∧
    (∃ (s : State) (o n a v : Nat) (h : Half), s.busUp srcHost = true ∧ o < 2 ^ 26 ∧ accOf o n = some (a, h)) ∧
    (∃ (s : State) (o n a : Nat) (h : Half) (r : Reg), s.busUp srcHost = true ∧ o < 2 ^ 26 ∧ accOf o n = some (a, h)
      ∧ regAt a = some r ∧ (∀ q, regQuad r = some q → s.fld (.pwrQuad q) PWR_QUAD_STATE = 0) ∧ (∀ j, r ≠
      .poolAlloc j)) ∧
    (∃ (s : State) (o n : Nat) (w : Option Nat), RegsOk s ∧ s.busUp srcHost = true ∧ o < 2 ^ 26 ∧ accOf o n = none) ∧
    (∃ (s : State) (o n : Nat) (w : Option Nat), s.busUp srcHost = true ∧ 2 ^ 26 ≤ o) ∧
    (∃ (s : State) (k dr : Nat) (r : Reg), (k < (if s.dbg.long = true then 32 else 2)) ∧ s.pwr.mgmtUp = true ∧
      s.pwrGood = true ∧ s.dbgMay 3 k = true ∧ bits dr 42 22 = 0 ∧ bitAt dr 41 = false ∧ regBase ≤ bits dr 0 40
      ∧ bits dr 0 40 < regBase + 2 ^ 26 ∧ bits dr 0 40 % 8 = 0 ∧ regAt (bits dr 0 40 - regBase) = some r ∧ (∀ q,
      regQuad r = some q → s.fld (.pwrQuad q) PWR_QUAD_STATE = 0) ∧ (∀ j, r ≠ .poolAlloc j)) ∧
    (∃ (s : State) (k dr : Nat) (r : Reg), RegsOk s ∧ (k < (if s.dbg.long = true then 32 else 2)) ∧ s.pwr.mgmtUp =
      true ∧ s.pwrGood = true ∧ s.dbgMay 4 k = true ∧ bits dr 42 22 = 0 ∧ bitAt dr 41 = true ∧ regBase ≤ bits dr
      0 40 ∧ bits dr 0 40 < regBase + 2 ^ 26 ∧ bits dr 0 40 % 8 = 0 ∧ regAt (bits dr 0 40 - regBase) = some r ∧
      plainReg r = true ∧ (∀ q, regQuad r = some q → s.fld (.pwrQuad q) PWR_QUAD_STATE = 0)) ∧
    (∃ (s : State) (k dr : Nat), (k < (if s.dbg.long = true then 32 else 2)) ∧ s.pwr.mgmtUp = true ∧ s.pwrGood =
      true ∧ (s.dbgMay (if bitAt dr 41 then 4 else 3) k = true) ∧ bits dr 42 22 ≠ 0) ∧
    (∃ (s : State) (o : Nat) (r : Reg), s.pwr.mgmtUp = true ∧ s.pwrGood = true ∧ s.dbgMay 3 0 = true ∧ o < 2 ^ 26 ∧
      o % 8 = 0 ∧ regAt o = some r ∧ (∀ q, regQuad r = some q → s.fld (.pwrQuad q) PWR_QUAD_STATE = 0) ∧ (∀ j, r
      ≠ .poolAlloc j)) ∧
    (∃ (s : State) (o v : Nat) (r : Reg), RegsOk s ∧ s.pwr.mgmtUp = true ∧ s.pwrGood = true ∧ s.dbgMay 4 0 = true ∧
      o < 2 ^ 26 ∧ o % 8 = 0 ∧ regAt o = some r ∧ plainReg r = true ∧ (∀ q, regQuad r = some q → s.fld (.pwrQuad
      q) PWR_QUAD_STATE = 0)) :=
  ⟨⟨z.setFld .ptLock PT_LOCK_OPEN 1, srcHost, regOff (.ptPeer 511), 5, .whole, .ptPeer 511, by decide +kernel⟩,
   ⟨z, srcM, 2 ^ 64 - 2, .low, by decide +kernel⟩,
   ⟨z, srcHub 3, 2 ^ 26 - 8, 1, .high, by decide +kernel⟩,
   ⟨z, regOff .schCtl + 4, 4, regOff .schCtl, 7, .high, by decide +kernel⟩,
   by (refine ⟨z, regOff .glbId + 4, 4, regOff .glbId, .high, .glbId, ?_⟩; (iterate 5 refine ⟨by decide +kernel, ?_⟩); exact by simp),
   ⟨z, 2, 4, none, by decide +kernel⟩,
   ⟨z, 2 ^ 26, 8, none, by decide +kernel⟩,
   by (refine ⟨z.setFld .lcStat LC_STAT_STATE lcReturn, 31, regBase + regOff .schCtl, .schCtl, ?_⟩; (iterate 11 refine ⟨by decide +kernel, ?_⟩); exact by simp),
   ⟨z.setFld .lcStat LC_STAT_STATE lcDevelopment, 0, regBase + regOff .schCtl + 2 ^ 41 + (2 ^ 32 - 1) * 2 ^ 64, .schCtl, by decide +kernel⟩,
   ⟨z.setFld .lcStat LC_STAT_STATE lcDevelopment, 5, 2 ^ 42 + 2 ^ 41, by decide +kernel⟩,
   by (refine ⟨z.setFld .lcStat LC_STAT_STATE lcReturn, regOff .glbId, .glbId, ?_⟩; (iterate 7 refine ⟨by decide +kernel, ?_⟩); exact by simp),
   ⟨z.setFld .lcStat LC_STAT_STATE lcManufacturing, regOff .schCtl, 0x12345, .schCtl, by decide +kernel⟩⟩

theorem witness_probeAttachAndDetach :
    (∃ (s : State) (on : Bool), s.pwr.mgmtUp = true ∧ s.hw.probe = !on) ∧
    (∃ (s : State) (on : Bool), s.hw.probe = on) :=
  ⟨⟨z, true, by decide +kernel⟩,
   ⟨z, false, by decide +kernel⟩⟩

theorem witness_tapIdentification :
    (∃ (s : State) (k c : Nat), (k < (if s.dbg.long = true then 32 else 2)) ∧ s.pwr.mgmtUp = true ∧ (k < 2 ∨
      s.pwrGood = true) ∧ (s.lc ≠ lcRetired ∨ k < 2) ∧ ((k, c) ∈ [(0, 5), (1, 6), (2, 3), (3, 4), (4, 1), (5,
      1), (6, 1), (7, 1), (8, 2), (9, 2), (10, 2), (11, 2)] ∨ (12 ≤ k ∧ k < 32 ∧ c = 0))) :=
  ⟨z, 31, 0, by decide +kernel⟩

theorem witness_tapInstructions :
    (∃ (s : State) (k : Nat), (twf (fun _ => ({} : Tap)) s.dbg.taps = true) ∧ (k < (if s.dbg.long = true then 32
      else 2)) ∧ s.pwr.mgmtUp = true ∧ (k < 2 ∨ s.pwrGood = true) ∧ (s.lc ≠ lcRetired ∨ k < 2)) ∧
    (∃ (s : State) (k : Nat) (ws : List Nat), k ≠ 0) ∧
    (∃ (s : State) (k cells : Nat), (k < (if s.dbg.long = true then 32 else 2)) ∧ s.pwr.mgmtUp = true ∧ (k < 2 ∨
      s.pwrGood = true) ∧ (s.lc ≠ lcRetired ∨ k < 2)) ∧
    (∃ (s : State) (k cells : Nat), (k < (if s.dbg.long = true then 32 else 2)) ∧ s.pwr.mgmtUp = true ∧ (k < 2 ∨
      s.pwrGood = true) ∧ (s.lc = lcManufacturing ∨ s.lc = lcDevelopment ∨ s.lc = lcReturn)) ∧
    (∃ (s : State) (k : Nat), (k < (if s.dbg.long = true then 32 else 2)) ∧ s.pwr.mgmtUp = true ∧ (k < 2 ∨ s.pwrGood
      = true) ∧ (s.lc = lcManufacturing ∨ s.lc = lcDevelopment ∨ s.lc = lcReturn)) ∧
    (∃ (s : State) (k : Nat), (k < (if s.dbg.long = true then 32 else 2)) ∧ s.pwr.mgmtUp = true ∧ (k < 2 ∨ s.pwrGood
      = true) ∧ (s.lc = lcManufacturing ∨ s.lc = lcDevelopment ∨ s.lc = lcReturn)) ∧
    (∃ (s : State) (k : Nat), (twf (fun _ => ({} : Tap)) s.dbg.taps = true) ∧ (k < (if s.dbg.long = true then 32
      else 2)) ∧ s.pwr.mgmtUp = true ∧ (k < 2 ∨ s.pwrGood = true) ∧ s.lc = lcRetired ∧ 2 ≤ k) ∧
    (∃ (s : State) (k : Nat), (twf (fun _ => ({} : Tap)) s.dbg.taps = true) ∧ (k < (if s.dbg.long = true then 32
      else 2)) ∧ s.pwr.mgmtUp = true ∧ (k < 2 ∨ s.pwrGood = true) ∧ s.lc = lcRetired ∧ 2 ≤ k) ∧
    (∃ (s : State) (k n : Nat), (twf (fun _ => ({} : Tap)) s.dbg.taps = true) ∧ (k < (if s.dbg.long = true then 32
      else 2)) ∧ s.pwr.mgmtUp = true ∧ (k < 2 ∨ s.pwrGood = true) ∧ s.lc = lcRetired ∧ 2 ≤ k) ∧
    (∃ (s : State) (k n : Nat), (twf (fun _ => ({} : Tap)) s.dbg.taps = true) ∧ (k < (if s.dbg.long = true then 32
      else 2)) ∧ s.pwr.mgmtUp = true ∧ (k < 2 ∨ s.pwrGood = true) ∧ (s.lc = lcProduction ∨ s.lc = lcRetired)) ∧
    (∃ (s : State) (k : Nat), (twf (fun _ => ({} : Tap)) s.dbg.taps = true) ∧ (k < (if s.dbg.long = true then 32
      else 2)) ∧ s.pwr.mgmtUp = true ∧ (k < 2 ∨ s.pwrGood = true) ∧ (s.lc = lcProduction ∨ s.lc = lcRetired)) ∧
    (∃ (s : State) (k : Nat), (twf (fun _ => ({} : Tap)) s.dbg.taps = true) ∧ (k < (if s.dbg.long = true then 32
      else 2)) ∧ s.pwr.mgmtUp = true ∧ (k < 2 ∨ s.pwrGood = true) ∧ (s.lc = lcProduction ∨ s.lc = lcRetired)) ∧
    (∃ (s : State) (ws : List Nat), (twf (fun _ => ({} : Tap)) s.dbg.taps = true) ∧ s.pwr.mgmtUp = true ∧ (s.lc =
      lcReturn ∨ s.lc = lcRetired)) ∧
    (∃ (s : State) (k n : Nat), s.dbg.long = true ∧ 2 ≤ k ∧ k < 32 ∧ s.pwr.mgmtUp = true ∧ s.pwrGood = false) ∧
    (∃ (s : State) (ws : List Nat), s.pwr.mgmtUp = true ∧ (s.lc = lcManufacturing ∨ s.lc = lcDevelopment ∨ s.lc =
      lcProduction)) :=
  ⟨⟨z, 31, by decide +kernel⟩,
   ⟨z, 31, [5], by decide +kernel⟩,
   ⟨z.setFld .lcStat LC_STAT_STATE lcReturn, 31, 5, by decide +kernel⟩,
   ⟨z.setFld .lcStat LC_STAT_STATE lcReturn, 31, 5, by decide +kernel⟩,
   ⟨z.setFld .lcStat LC_STAT_STATE lcReturn, 31, by decide +kernel⟩,
   ⟨z.setFld .lcStat LC_STAT_STATE lcReturn, 31, by decide +kernel⟩,
   ⟨z.setFld .lcStat LC_STAT_STATE lcRetired, 31, by decide +kernel⟩,
   ⟨z.setFld .lcStat LC_STAT_STATE lcRetired, 2, by decide +kernel⟩,
   ⟨z.setFld .lcStat LC_STAT_STATE lcRetired, 31, 5, by decide +kernel⟩,
   ⟨z.setFld .lcStat LC_STAT_STATE lcProduction, 0, 5, by decide +kernel⟩,
   ⟨z.setFld .lcStat LC_STAT_STATE lcRetired, 1, by decide +kernel⟩,
   ⟨z.setFld .lcStat LC_STAT_STATE lcProduction, 31, by decide +kernel⟩,
   ⟨z.setFld .lcStat LC_STAT_STATE lcReturn, [1], by decide +kernel⟩,
   ⟨{ z with pwr := { z.pwr with phase := .off false } }, 31, 0, by decide +kernel⟩,
   ⟨z, [2 ^ 31 + 2 ^ 24 + srcM, 5], by decide +kernel⟩⟩

theorem witness_consoleAndFrontPanel :
    (∃ (s : State), s.pwr.mgmtUp = true) ∧
    (∃ (s : State) (n : Nat), s.pwr.mgmtUp = true ∧ s.lc ≠ lcRetired ∧ 1 ≤ n ∧ n ≤ 64) ∧
    (∃ (s : State) (n : Nat), s.pwr.mgmtUp = true ∧ (s.lc = lcRetired ∨ n = 0 ∨ 64 < n)) ∧
    (∃ (s : State) (act : Nat), s.pwr.mgmtUp = true ∧ (act = if s.pwr.phase ≠ .up then 2 else if s.hw.removal then 1
      else 0)) ∧
    (∃ (s : State) (m : Nat), s.sidebandUp = true ∧ m < 3) ∧
    (∃ (s : State) (wet : Bool), s.pwr.mgmtUp = true ∧ s.hw.leak = !wet) ∧
    (∃ (s : State) (a b : Nat), s.pwr.mgmtUp = true) ∧
    (∃ (s : State) (n : Nat) (v : Bool), RegsOk s) ∧
    (∃ (s : State), RegsOk s) ∧
    (∃ (s : State) (w : Nat), RegsOk s ∧ s.pwr.mgmtUp = true ∧ s.pwr.phase = .up ∧ (∀ k < 4, (tgetD ({} : Cage)
      s.hw.cages (12 + k)).present = false)) ∧
    (∃ (s : State) (ps : List (Option Nat)), RegsOk s ∧ s.pwr.mgmtUp = true ∧ s.pwr.phase = .up ∧ (∀ k < 4, ps.getD
      k none = if (tgetD ({} : Cage) s.hw.cages (12 + k)).present then some (tgetD ({} : Cage) s.hw.cages (12 +
      k)).power else none)) :=
  ⟨⟨z, by decide +kernel⟩,
   ⟨z, 64, by decide +kernel⟩,
   ⟨z, 65, by decide +kernel⟩,
   ⟨z, 0, by decide +kernel⟩,
   ⟨z, 2, by decide +kernel⟩,
   ⟨z, true, by decide +kernel⟩,
   ⟨z, 30, 45, by decide +kernel⟩,
   ⟨z, 7, true, by decide +kernel⟩,
   ⟨z, by decide +kernel⟩,
   ⟨z, 12, by decide +kernel⟩,
   ⟨z, [], by decide +kernel⟩⟩

theorem witness_doorbellsFetchAndInterrupts :
    (∃ (s : State) (n v : Nat), s.quayUp = true ∧ n < 4096 ∧ (s.qp n).mode = .active ∧ v < (s.qp n).sqDepth ∧ ((s.qp
      n).tail + (s.qp n).sqDepth - (s.qp n).fetch) % (s.qp n).sqDepth ≤ (v + (s.qp n).sqDepth - (s.qp n).fetch)
      % (s.qp n).sqDepth) ∧
    (∃ (s : State) (n v : Nat), s.quayUp = true ∧ n < 4096 ∧ (s.qp n).mode = .active ∧ v < (s.qp n).cqDepth ∧ (v +
      (s.qp n).cqDepth - (s.qp n).head) % (s.qp n).cqDepth ≤ (s.qp n).unconsumed) ∧
    (∃ (s : State) (n v : Nat), s.quayUp = true ∧ n < 4096 ∧ ((s.qp n).mode ≠ .active ∨ (s.qp n).sqDepth ≤ v ∨ (v +
      (s.qp n).sqDepth - (s.qp n).fetch) % (s.qp n).sqDepth < ((s.qp n).tail + (s.qp n).sqDepth - (s.qp
      n).fetch) % (s.qp n).sqDepth)) ∧
    (∃ (s : State) (n v : Nat), s.quayUp = true ∧ n < 4096 ∧ ((s.qp n).mode ≠ .active ∨ (s.qp n).cqDepth ≤ v ∨ (s.qp
      n).unconsumed < (v + (s.qp n).cqDepth - (s.qp n).head) % (s.qp n).cqDepth)) ∧
    (∃ (s : State) (n op : Nat) (raw payload entry : List Byte) (ok : Bool), s.quayUp = true ∧ s.quay.stopped =
      false ∧ s.flag .qStat Q_STAT_PLSTOP = false ∧ s.turnOf = some n ∧ s.quay.cmds.length < 65536 ∧ (entry =
      bytesAt (raw.take (if (s.qp n).ver = 1 then 64 else 128)) 0 128) ∧ op = leAt entry 0 1 ∧ isWriteOp op =
      false ∧ op ≠ 0x40) ∧
    (∃ (s : State) (n op : Nat) (raw payload entry : List Byte) (ok : Bool), s.quayUp = true ∧ s.quay.stopped =
      false ∧ s.flag .qStat Q_STAT_PLSTOP = false ∧ s.turnOf = some n ∧ s.quay.cmds.length < 65536 ∧ (entry =
      bytesAt (raw.take (if (s.qp n).ver = 1 then 64 else 128)) 0 128) ∧ op = leAt entry 0 1 ∧ isWriteOp op =
      true ∧ (n = 0 ∨ s.writeHeld op = false) ∧ (∀ c ∈ s.quay.cmds, c.n ≠ s.quay.nextCmd) ∧ RegsOk s) ∧
    (∃ (s : State) (n op : Nat) (raw payload entry : List Byte) (ok : Bool), s.quayUp = true ∧ s.quay.stopped =
      false ∧ s.flag .qStat Q_STAT_PLSTOP = false ∧ s.turnOf = some n ∧ s.quay.cmds.length < 65536 ∧ (entry =
      bytesAt (raw.take (if (s.qp n).ver = 1 then 64 else 128)) 0 128) ∧ op = leAt entry 0 1 ∧ op = 0x40 ∧ (∀ c
      ∈ s.quay.cmds, c.n ≠ s.quay.nextCmd)) ∧
    (∃ (s : State) (n : Nat) (raw payload : List Byte) (ok : Bool), s.quayUp = true ∧ s.quay.stopped = false ∧
      s.flag .qStat Q_STAT_PLSTOP = false ∧ s.turnOf = some n ∧ s.quay.cmds.length < 65536 ∧ n ≠ 0 ∧
      (s.writeHeld (leAt (bytesAt (raw.take (if (s.qp n).ver = 1 then 64 else 128)) 0 128) 0 1) = true)) ∧
    (∃ (s : State) (n : Nat) (raw payload : List Byte) (ok : Bool), (s.quayUp = false ∨ s.quay.stopped = true ∨
      s.flag .qStat Q_STAT_PLSTOP = true ∨ s.turnOf ≠ some n ∨ 65536 ≤ s.quay.cmds.length)) ∧
    (∃ (s : State) (n : Nat), RegsOk s ∧ (s.qp n).mode ≠ .absent ∧ (s.qp n).since ≠ 0 ∧ ((s.qp n).icount + 1 ≤ (s.qp
      n).since ∨ (s.qp n).sinceAt + 400 * (s.qp n).itime ≤ s.svcTime)) ∧
    (∃ (s : State) (n : Nat), ((s.qp n).since = 0 ∨ ((s.qp n).since < (s.qp n).icount + 1 ∧ s.svcTime < (s.qp
      n).sinceAt + 400 * (s.qp n).itime))) ∧
    (∃ (s : State) (v : Nat), RegsOk s ∧ s.pwrGood = true ∧ v < 2048 ∧ s.flag (.msixData v) MSIX_DATA_MASK = true ∧
      bitAt (s.reg (.msixPba (v / 64))).toNat (v % 64) = true) ∧
    (∃ (s : State) (v : Nat), RegsOk s ∧ s.pwrGood = true ∧ v < 2048 ∧ (s.flag (.msixData v) MSIX_DATA_MASK = false
      ∨ bitAt (s.reg (.msixPba (v / 64))).toNat (v % 64) = false)) :=
  ⟨⟨z.setQp 4095 { mode := .active, sqDepth := 8, tail := 7, fetch := 6 }, 4095, 5, by decide +kernel⟩,
   ⟨z.setQp 4095 { mode := .active, cqDepth := 8, posted := 1, head := 6 }, 4095, 1, by decide +kernel⟩,
   ⟨z, 0, 1, by decide +kernel⟩,
   ⟨z, 0, 1, by decide +kernel⟩,
   ⟨z.setQp 0 { mode := .active, sqDepth := 64, cqDepth := 64, tail := 1 }, 0, 2, [2#8, 0#8, 5#8, 0#8] ++ List.replicate 124 0#8, [], [2#8, 0#8, 5#8, 0#8] ++ List.replicate 124 0#8, true, by decide +kernel⟩,
   ⟨(z.setFld (.ptCfg 0) PT_CFG_STATE 1).setQp 9 { mode := .active, sqDepth := 64, cqDepth := 64, tail := 1 }, 9, 0x32, [0x32#8, 0#8, 5#8, 0#8] ++ List.replicate 124 0#8, [], [0x32#8, 0#8, 5#8, 0#8] ++ List.replicate 124 0#8, true, by decide +kernel⟩,
   ⟨((z.setFld (.ptCfg 0) PT_CFG_STATE 1).setColl 7 (some coA)).setQp 9 { mode := .active, sqDepth := 64, cqDepth := 64, tail := 1 }, 9, 0x40, [0x40#8, 0#8, 5#8, 0#8, 7#8] ++ List.replicate 123 0#8, [], [0x40#8, 0#8, 5#8, 0#8, 7#8] ++ List.replicate 123 0#8, true, by decide +kernel⟩,
   ⟨((z.setFld (.ptCfg 0) PT_CFG_STATE 1).setFld .pmStat PM_STAT_HOLDLOW 1).setQp 9 { mode := .active, sqDepth := 64, cqDepth := 64, tail := 1 }, 9, [0x32#8], [], true, by decide +kernel⟩,
   ⟨z, 9, [0x32#8], [], true, by decide +kernel⟩,
   ⟨(z.setQp 3 { mode := .active, vec := 2047, since := 1 }).setReg (.msixData 2047) 5, 3, by decide +kernel⟩,
   ⟨z, 3, by decide +kernel⟩,
   ⟨z.setReg (.msixPba 31) (BitVec.ofNat 64 (2 ^ 63)), 2047, by decide +kernel⟩,
   ⟨z, 2047, by decide +kernel⟩⟩

theorem witness_queuePairsAndTheEngine :
    (∃ (s : State) (n : Nat) (c : Cmd), Fetched n 0x01 c s ∧ c.n = n ∧ c.fld 65 1 < 64 ∧ s.partOn (c.fld 65 1) =
      false) ∧
    (∃ (s : State) (n m : Nat) (c : Cmd), RegsOk s ∧ Fetched n 0x01 c s ∧ c.n = n ∧ c.fld 65 1 < 64 ∧ s.partOn
      (c.fld 65 1) = true ∧ c.fld 40 8 % 4096 = 0 ∧ c.fld 48 8 % 4096 = 0 ∧ c.fld 56 2 ≠ 0 ∧ c.fld 58 2 ≠ 0 ∧
      c.fld 60 2 ≤ 2047 ∧ (c.fld 64 1 = 1 ∨ c.fld 64 1 = 2) ∧ c.fld 66 2 ≤ 1023 ∧ s.tenantOk (c.fld 66 2) (c.fld
      65 1) = true ∧ s.freeQp = some m) ∧
    (∃ (s : State) (n st : Nat) (c : Cmd), Fetched n 0x01 c s ∧ c.n = n ∧ ((st = stInvalidParameter ∧ (63 < c.fld 65
      1 ∨ (s.partOn (c.fld 65 1) = true ∧ (c.fld 40 8 % 4096 ≠ 0 ∨ c.fld 48 8 % 4096 ≠ 0 ∨ c.fld 56 2 = 0 ∨
      c.fld 58 2 = 0 ∨ 2047 < c.fld 60 2 ∨ (c.fld 64 1 ≠ 1 ∧ c.fld 64 1 ≠ 2) ∨ 1023 < c.fld 66 2 ∨ s.tenantOk
      (c.fld 66 2) (c.fld 65 1) = false)))) ∨ (st = stCapacity ∧ s.freeQp = none ∧ c.fld 65 1 < 64 ∧ s.partOn
      (c.fld 65 1) = true ∧ c.fld 40 8 % 4096 = 0 ∧ c.fld 48 8 % 4096 = 0 ∧ c.fld 56 2 ≠ 0 ∧ c.fld 58 2 ≠ 0 ∧
      c.fld 60 2 ≤ 2047 ∧ (c.fld 64 1 = 1 ∨ c.fld 64 1 = 2) ∧ c.fld 66 2 ≤ 1023 ∧ s.tenantOk (c.fld 66 2) (c.fld
      65 1) = true))) ∧
    (∃ (s : State) (n m : Nat) (c : Cmd), RegsOk s ∧ (twf (fun _ => ({} : QP)) s.quay.qps = true) ∧ Fetched n 0x02 c
      s ∧ c.n = n ∧ m = c.fld 40 2 ∧ 1 ≤ m ∧ m ≤ 4095 ∧ (s.qp m).mode = .active ∧ s.qpInflight m = 0) ∧
    (∃ (s : State) (n m : Nat) (c : Cmd), RegsOk s ∧ Fetched n 0x02 c s ∧ c.n = n ∧ m = c.fld 40 2 ∧ 1 ≤ m ∧ m ≤
      4095 ∧ (s.qp m).mode = .active ∧ s.qpInflight m ≠ 0) ∧
    (∃ (s : State) (n m st : Nat) (c : Cmd), Fetched n 0x02 c s ∧ c.n = n ∧ m = c.fld 40 2 ∧ ((st =
      stInvalidParameter ∧ (m = 0 ∨ 4095 < m)) ∨ (st = stNoObject ∧ 1 ≤ m ∧ m ≤ 4095 ∧ (s.qp m).mode = .absent)
      ∨ (st = stBusy ∧ 1 ≤ m ∧ m ≤ 4095 ∧ (s.qp m).mode = .draining))) ∧
    (∃ (s : State) (n cause : Nat), RegsOk s ∧ ((s.qp n).mode = .active ∨ (s.qp n).mode = .draining)) ∧
    (∃ (s : State) (n cause : Nat), ((s.qp n).mode = .absent ∨ (s.qp n).mode = .error)) ∧
    (∃ (s : State) (en : Bool), (s.quayUp = false ∨ s.flag .qCtl Q_CTL_EN = en)) ∧
    (∃ (s : State), RegsOk s ∧ s.pwrGood = true ∧ s.quayUp = true ∧ s.flag .qCtl Q_CTL_EN = false) ∧
    (∃ (s : State), RegsOk s ∧ (twf (fun _ => ({} : QP)) s.quay.qps = true) ∧ s.quayUp = true ∧ s.flag .qCtl
      Q_CTL_EN = true) :=
  ⟨⟨{ z with quay := { z.quay with cmds := [cpO] } }, 3, cpO, by decide +kernel⟩,
   by (refine ⟨qpZ, 3, Config.freeChoice 0 % 4095 + 1, qpC, ?_⟩; (iterate 13 refine ⟨by decide +kernel, ?_⟩); exact freeQp_qpZ),
   ⟨{ z with quay := { z.quay with cmds := [{ cpO with entry := List.replicate 128 255#8 }] } }, 3, stInvalidParameter, { cpO with entry := List.replicate 128 255#8 }, by decide +kernel⟩,
   ⟨(({ z with quay := { z.quay with cmds := [delC] } }).setQp 4095 { mode := .active, tenant := 7 }).setFld (.tnCfg 7) TN_CFG_QPS 1, 3, 4095, delC, by decide +kernel⟩,
   ⟨({ z with quay := { z.quay with cmds := [delC, { cpO with n := 5, qp := 4095 }] } }).setQp 4095 { mode := .active, tenant := 7 }, 3, 4095, delC, by decide +kernel⟩,
   ⟨{ z with quay := { z.quay with cmds := [delC] } }, 3, 4095, stNoObject, delC, by decide +kernel⟩,
   ⟨z.setQp 0 { mode := .active }, 0, 1, by decide +kernel⟩,
   ⟨z, 9, 2, by decide +kernel⟩,
   ⟨z, false, by decide +kernel⟩,
   ⟨z, by decide +kernel⟩,
   ⟨(z.setQp 0 { mode := .active }).setFld .qCtl Q_CTL_EN 1, by decide +kernel⟩⟩

theorem witness_windowLinkAndResponder :
    (∃ (s : State) (x n a : Nat), s.quayUp = true ∧ x + n ≤ 2 ^ s.quay.bar2Log ∧ a = s.bar2Addr x ∧ a < spBase ∧
      regionOf a ≠ .unmapped ∧ s.mayReach srcHost a = true ∧ s.mayReach srcHost (a + n - 1) = true ∧
      s.converting a = false ∧ s.converting (a + n - 1) = false ∧ s.lostIn a n = false) ∧
    (∃ (s : State) (x a d o : Nat) (n : Nat) (w : Option (List Byte)), MemOk s ∧ s.quayUp = true ∧ x + (w.map
      List.length).getD n ≤ 2 ^ s.quay.bar2Log ∧ a = s.bar2Addr x ∧ regionOf a = .spad d o ∧ o < moorOff ∧
      s.mayReach srcHost a = true ∧ s.bankServes d (o / bankSize) = true ∧ s.bankSt d (o / bankSize) = 0 ∧
      s.lostIn a n = false) ∧
    (∃ (s : State) (x a o : Nat) (set : Bool) (b : List Byte), s.quayUp = true ∧ x + b.length ≤ 2 ^ s.quay.bar2Log ∧
      a = s.bar2Addr x ∧ (regionOf a = (if set = true then .setAlias o else .clrAlias o)) ∧ o < 20 * spSize ∧
      aliasOk o b.length = true ∧ (o % spSize < moorOff → s.mayReach srcHost (spBase + o) = true) ∧ (moorOff ≤ o
      % spSize → s.moorServes srcHost ((o % spSize - moorOff) / 8) = true)) ∧
    (∃ (s : State) (x n a : Nat) (w : Option (List Byte)), s.quayUp = true ∧ x + (w.map List.length).getD n ≤ 2 ^
      s.quay.bar2Log ∧ a = s.bar2Addr x ∧ a < spBase ∧ regionOf a ≠ .unmapped ∧ s.mayReach srcHost a = true ∧
      s.mayReach srcHost (a + (w.map List.length).getD n - 1) = true ∧ s.converting a = true) ∧
    (∃ (s : State) (x a : Nat) (b : List Byte), MemOk s ∧ s.quayUp = true ∧ x + b.length ≤ 2 ^ s.quay.bar2Log ∧ a =
      s.bar2Addr x ∧ a < spBase ∧ regionOf a ≠ .unmapped ∧ s.mayReach srcHost a = true ∧ s.mayReach srcHost (a +
      b.length - 1) = true ∧ s.converting a = false ∧ s.converting (a + b.length - 1) = false ∧ s.lostIn a
      b.length = false ∧ (∀ e ∈ s.net.dir, e.1 < a / 256 ∨ a + b.length ≤ e.1 * 256)) ∧
    (∃ (s : State) (x n a : Nat) (w : Option (List Byte)), s.quayUp = true ∧ x + (w.map List.length).getD n ≤ 2 ^
      s.quay.bar2Log ∧ a = s.bar2Addr x ∧ a < spBase ∧ s.mayReach srcHost a = false) ∧
    (∃ (s : State) (rate width : Nat), RegsOk s ∧ s.mainUp = true ∧ s.pwr.perstN = true ∧ s.pwr.refclk = true ∧ rate
      ∈ [64, 32, 16, 8, 5, 2] ∧ width ∈ [16, 8, 4] ∧ s.quay.maxRate < 256 ∧ s.quay.maxWidth < 32) ∧
    (∃ (s : State) (rate width : Nat), RegsOk s ∧ s.mainUp = true ∧ s.pwr.perstN = true ∧ s.pwr.refclk = true ∧
      (rate ∉ [64, 32, 16, 8, 5, 2] ∨ width ∉ [16, 8, 4])) ∧
    (∃ (s : State) (nonce : List Byte) (off n : Nat), s.linkUp = true) :=
  ⟨⟨(z.setOwner 2 0 5).setFld .qwWin QW_WIN_PART 5, 256, 8, 256, by decide +kernel⟩,
   ⟨((z.setOwner 1 0 5).setFld .qwWin QW_WIN_PART 5).setFld .qwWin QW_WIN_BASE (spBase / gib), 256, spBase + 256, 0, 256, 8, none, by decide +kernel⟩,
   ⟨((z.setOwner 1 0 5).setFld .qwWin QW_WIN_PART 5).setFld .qwWin QW_WIN_BASE (setBase / gib), setBase % 2 ^ 36 + 256, setBase + 256, 256, true, [7#8, 8#8, 0#8, 0#8], by decide +kernel⟩,
   ⟨{ ((z.setOwner 2 0 5).setFld .qwWin QW_WIN_PART 5) with part := { wipes := [(2, 0)] } }, 256, 0, 256, some [7#8], by decide +kernel⟩,
   ⟨(z.setOwner 2 0 5).setFld .qwWin QW_WIN_PART 5, 256, 256, [1#8, 2#8], by decide +kernel⟩,
   ⟨z, 0, 4, 0, none, by decide +kernel⟩,
   ⟨{ z with pwr := { z.pwr with perstN := true } }, 64, 16, by decide +kernel⟩,
   ⟨{ z with pwr := { z.pwr with perstN := true } }, 64, 2, by decide +kernel⟩,
   ⟨z.setFld .qStat Q_STAT_LINKW 16, [7#8], 3, 5, by decide +kernel⟩⟩

theorem witness_objectCommands :
    (∃ (s : State) (n : Nat) (c : Cmd), Fetched n 0x10 c s ∧ c.n = n ∧ (tierOf (c.fld 48 1) = none ∨ c.fld 40 4 = 0
      ∨ 65536 < c.fld 40 4 ∨ c.fld 44 4 = 0 ∨ 3 < c.fld 49 1 ∨ stackOk ((tierOf (c.fld 48 1)).getD .hbm) (c.fld
      49 1) (c.fld 50 1) = false ∨ 63 < c.fld 51 1 ∨ 1023 < c.fld 52 2 ∨ s.tenantOk (c.fld 52 2) (c.fld 51 1) =
      false)) ∧
    (∃ (s : State) (n p t0 h size fu : Nat) (c : Cmd) (tr : Tier), Fetched n 0x10 c s ∧ c.n = n ∧ p = c.fld 51 1 ∧
      t0 = c.fld 52 2 ∧ h = c.fld 49 1 ∧ size = c.fld 40 4 * c.fld 44 4 ∧ tierOf (c.fld 48 1) = some tr ∧ 1 ≤
      c.fld 40 4 ∧ c.fld 40 4 ≤ 65536 ∧ 1 ≤ c.fld 44 4 ∧ h ≤ 3 ∧ p ≤ 63 ∧ t0 ≤ 1023 ∧ stackOk tr h (c.fld 50 1)
      = true ∧ s.tenantOk t0 p = true ∧ (fu = if tr = .flash ∨ bitAt c.flags 0 = true then ceilDiv size (2 ^ 20)
      else 0) ∧ ((tr ≠ .flash ∧ s.quotaOk t0 tr.k (ceilDiv size 65536) = false) ∨ s.quotaOk t0 3 fu = false)) ∧
    (∃ (s : State) (n p t0 h size fu : Nat) (c : Cmd) (tr : Tier), Fetched n 0x10 c s ∧ c.n = n ∧ p = c.fld 51 1 ∧
      t0 = c.fld 52 2 ∧ h = c.fld 49 1 ∧ size = c.fld 40 4 * c.fld 44 4 ∧ tierOf (c.fld 48 1) = some tr ∧ 1 ≤
      c.fld 40 4 ∧ c.fld 40 4 ≤ 65536 ∧ 1 ≤ c.fld 44 4 ∧ h ≤ 3 ∧ p ≤ 63 ∧ t0 ≤ 1023 ∧ stackOk tr h (c.fld 50 1)
      = true ∧ s.tenantOk t0 p = true ∧ (fu = if tr = .flash ∨ bitAt c.flags 0 = true then ceilDiv size (2 ^ 20)
      else 0) ∧ (tr ≠ .flash → s.quotaOk t0 tr.k (ceilDiv size 65536) = true) ∧ s.quotaOk t0 3 fu = true ∧
      (s.flashRoom p fu = false ∨ s.findRoom p tr h (c.fld 50 1) size = none ∨ pickFree (Config.freeChoice
      s.fresh) (2 ^ 20) ((s.tier.objs.filter (·.hub = h)).map Obj.number) = none)) ∧
    (∃ (s : State) (n p t0 h size fu m : Nat) (c : Cmd) (tr : Tier) (xs : List (Nat × Nat)), MemOk s ∧ Fetched n
      0x10 c s ∧ c.n = n ∧ p = c.fld 51 1 ∧ t0 = c.fld 52 2 ∧ h = c.fld 49 1 ∧ size = c.fld 40 4 * c.fld 44 4 ∧
      tierOf (c.fld 48 1) = some tr ∧ 1 ≤ c.fld 40 4 ∧ c.fld 40 4 ≤ 65536 ∧ 1 ≤ c.fld 44 4 ∧ h ≤ 3 ∧ p ≤ 63 ∧ t0
      ≤ 1023 ∧ stackOk tr h (c.fld 50 1) = true ∧ s.tenantOk t0 p = true ∧ (fu = if tr = .flash ∨ bitAt c.flags
      0 = true then ceilDiv size (2 ^ 20) else 0) ∧ (tr ≠ .flash → s.quotaOk t0 tr.k (ceilDiv size 65536) =
      true) ∧ s.quotaOk t0 3 fu = true ∧ s.flashRoom p fu = true ∧ s.findRoom p tr h (c.fld 50 1) size = some xs
      ∧ pickFree (Config.freeChoice s.fresh) (2 ^ 20) ((s.tier.objs.filter (·.hub = h)).map Obj.number) = some m
      ∧ s.obj (handleBits t0 p h (tgetD 0 s.tier.salts (h * 2 ^ 20 + m)) m) = none) ∧
    (∃ (s : State) (n h : Nat) (c : Cmd) (o : Obj), RegsOk s ∧ Fetched n 0x11 c s ∧ c.n = n ∧ h = c.fld 40 8 ∧ s.obj
      h = some o ∧ o.move = none ∧ o.coll = false) ∧
    (∃ (s : State) (n h : Nat) (c : Cmd) (o : Obj) (m : Move), Fetched n 0x11 c s ∧ c.n = n ∧ h = c.fld 40 8 ∧ s.obj
      h = some o ∧ o.coll = false ∧ o.move = some m ∧ m.freeBy = none) ∧
    (∃ (s : State) (n h st : Nat) (c : Cmd), Fetched n 0x11 c s ∧ c.n = n ∧ h = c.fld 40 8 ∧ ((st = stNoObject ∧
      (s.obj h = none ∨ (s.obj h).any (fun o => !o.coll && o.move.any fun m => m.freeBy.isSome) = true)) ∨ (st =
      stBusy ∧ (s.obj h).any Obj.coll = true))) ∧
    (∃ (s : State) (n h lo hi u : Nat) (c : Cmd) (o : Obj) (tr : Tier) (xs : List (Nat × Nat)), Canonical s ∧
      Fetched n 0x12 c s ∧ c.n = n ∧ h = c.fld 40 8 ∧ s.obj h = some o ∧ tierOf (c.fld 60 1) = some tr ∧ lo =
      c.fld 48 8 * o.elemb ∧ hi = (c.fld 48 8 + c.fld 56 4) * o.elemb ∧ 1 ≤ c.fld 56 4 ∧ c.fld 48 8 + c.fld 56 4
      ≤ o.elems ∧ stackOk tr o.hub (c.fld 61 1) = true ∧ s.tenantOk o.tenant o.part = true ∧ (o.coll = true → tr
      ≠ .sketch ∧ s.holdsRows h = false) ∧ o.move = none ∧ (u = if o.coll = true ∨ (tr = .flash ∧ o.hasHome =
      true) then 0 else ceilDiv (hi - lo) (tierUnit tr.k)) ∧ s.quotaOk o.tenant tr.k u = true ∧ (o.coll = true →
      s.overQuota o.tenant tr.k (hi - lo) = false) ∧ (tr = .flash → s.flashRoom o.part u = true) ∧ s.findRoom
      o.part tr o.hub (c.fld 61 1) (hi - lo) = some xs) ∧
    (∃ (s : State) (n h st : Nat) (c : Cmd), Fetched n 0x12 c s ∧ c.n = n ∧ h = c.fld 40 8 ∧ ((st = stNoObject ∧
      s.obj h = none) ∨ (st = stInvalidParameter ∧ (s.obj h).any (fun o => (tierOf (c.fld 60 1)).isNone ||
      decide (c.fld 56 4 = 0) || decide (o.elems < c.fld 48 8 + c.fld 56 4) || !(stackOk ((tierOf (c.fld 60
      1)).getD .hbm) o.hub (c.fld 61 1)) || !(s.tenantOk o.tenant o.part)) = true))) ∧
    (∃ (s : State) (n h lo hi : Nat) (c : Cmd) (o : Obj) (tr : Tier), Fetched n 0x12 c s ∧ c.n = n ∧ h = c.fld 40 8
      ∧ s.obj h = some o ∧ tierOf (c.fld 60 1) = some tr ∧ lo = c.fld 48 8 * o.elemb ∧ hi = (c.fld 48 8 + c.fld
      56 4) * o.elemb ∧ 1 ≤ c.fld 56 4 ∧ c.fld 48 8 + c.fld 56 4 ≤ o.elems ∧ stackOk tr o.hub (c.fld 61 1) =
      true ∧ s.tenantOk o.tenant o.part = true ∧ (o.coll = true → tr ≠ .sketch ∧ s.holdsRows h = false) ∧ o.move
      ≠ none) ∧
    (∃ (s : State) (n h lo hi u : Nat) (c : Cmd) (o : Obj) (tr : Tier), Fetched n 0x12 c s ∧ c.n = n ∧ h = c.fld 40
      8 ∧ s.obj h = some o ∧ tierOf (c.fld 60 1) = some tr ∧ lo = c.fld 48 8 * o.elemb ∧ hi = (c.fld 48 8 +
      c.fld 56 4) * o.elemb ∧ 1 ≤ c.fld 56 4 ∧ c.fld 48 8 + c.fld 56 4 ≤ o.elems ∧ stackOk tr o.hub (c.fld 61 1)
      = true ∧ s.tenantOk o.tenant o.part = true ∧ (o.coll = true → tr ≠ .sketch ∧ s.holdsRows h = false) ∧
      o.move = none ∧ (u = if o.coll = true ∨ (tr = .flash ∧ o.hasHome = true) then 0 else ceilDiv (hi - lo)
      (tierUnit tr.k)) ∧ (s.quotaOk o.tenant tr.k u = false ∨ (o.coll = true ∧ s.overQuota o.tenant tr.k (hi -
      lo) = true))) ∧
    (∃ (s : State) (n h lo hi u : Nat) (c : Cmd) (o : Obj) (tr : Tier), Fetched n 0x12 c s ∧ c.n = n ∧ h = c.fld 40
      8 ∧ s.obj h = some o ∧ tierOf (c.fld 60 1) = some tr ∧ lo = c.fld 48 8 * o.elemb ∧ hi = (c.fld 48 8 +
      c.fld 56 4) * o.elemb ∧ 1 ≤ c.fld 56 4 ∧ c.fld 48 8 + c.fld 56 4 ≤ o.elems ∧ stackOk tr o.hub (c.fld 61 1)
      = true ∧ s.tenantOk o.tenant o.part = true ∧ (o.coll = true → tr ≠ .sketch ∧ s.holdsRows h = false) ∧
      o.move = none ∧ (u = if o.coll = true ∨ (tr = .flash ∧ o.hasHome = true) then 0 else ceilDiv (hi - lo)
      (tierUnit tr.k)) ∧ s.quotaOk o.tenant tr.k u = true ∧ (o.coll = true → s.overQuota o.tenant tr.k (hi - lo)
      = false) ∧ ((tr = .flash ∧ s.flashRoom o.part u = false) ∨ s.findRoom o.part tr o.hub (c.fld 61 1) (hi -
      lo) = none)) ∧
    (∃ (s : State) (h lo hi : Nat) (ue : Bool) (o : Obj) (m : Move), s.obj h = some o ∧ o.move = some m ∧ (ue =
      false ∨ o.hasHome = true) ∧ s.tier.heldW = [] ∧ lo = m.next ∧ hi = min (lo + 65536) m.hi ∧ m.freeBy = none
      ∧ hi < m.hi) ∧
    (∃ (s : State) (h lo hi : Nat) (ue : Bool) (o : Obj) (m : Move), s.obj h = some o ∧ o.move = some m ∧ (ue =
      false ∨ o.hasHome = true) ∧ s.tier.heldW = [] ∧ lo = m.next ∧ hi = min (lo + 65536) m.hi ∧ m.freeBy = none
      ∧ m.hi ≤ hi ∧ o.coll = false) ∧
    (∃ (s : State) (h lo hi : Nat) (ue : Bool) (o : Obj) (m : Move) (f : Nat), s.obj h = some o ∧ o.move = some m ∧
      (ue = false ∨ o.hasHome = true) ∧ s.tier.heldW = [] ∧ lo = m.next ∧ hi = min (lo + 65536) m.hi ∧ m.freeBy
      = some f ∧ o.coll = false) ∧
    (∃ (s : State) (h lo hi : Nat) (ue : Bool) (o : Obj) (m : Move) (a : Nat), MemOk s ∧ (twf (fun _ => 0#8) o.flash
      = true) ∧ (twf (fun _ => 0#8) o.home = true) ∧ s.obj h = some o ∧ o.move = some m ∧ (ue = false ∨
      o.hasHome = true) ∧ s.tier.heldW = [] ∧ lo = m.next ∧ hi = min (lo + 65536) m.hi ∧ m.freeBy = none ∧ hi <
      m.hi ∧ ue = false ∧ m.tier = .flash ∧ m.target = [⟨m.lo, m.hi - m.lo, none⟩] ∧ m.lo ≤ lo ∧ o.pieces = [⟨0,
      o.size, some a⟩] ∧ hi ≤ o.size) ∧
    (∃ (s : State) (h : Nat) (o : Obj) (m : Move), s.obj h = some o ∧ o.move = some m ∧ o.hasHome = false) ∧
    (∃ (s : State) (n h : Nat) (c : Cmd) (o : Obj) (pl : Option Nat), MemOk s ∧ Fetched n 0x13 c s ∧ c.n = n ∧ h =
      c.fld 40 8 ∧ s.obj h = some o ∧ (twf (fun _ => 0#8) o.home = true) ∧ (twf (fun _ => 0#8) o.flash = true) ∧
      o.hasHome = true ∧ o.pieces = [⟨0, o.size, pl⟩]) ∧
    (∃ (s : State) (n h st : Nat) (c : Cmd), Fetched n 0x13 c s ∧ c.n = n ∧ h = c.fld 40 8 ∧ ((st = stNoObject ∧
      s.obj h = none) ∨ (st = stInvalidParameter ∧ (s.obj h).any (fun o => !o.hasHome) = true))) :=
  ⟨⟨withCmd z (cm 0x10 0 0 [(40, 4, 64), (44, 4, 2), (51, 1, 5), (52, 2, 9)]), 3, cm 0x10 0 0 [(40, 4, 64), (44, 4, 2), (51, 1, 5), (52, 2, 9)], by decide +kernel⟩,
   ⟨withCmd (tz.setFld (.tnTier 36) TN_TIER_QUOTA 0) (cm 0x10 0 0 [(1, 1, 0), (40, 4, 64), (44, 4, 2), (48, 1, 0), (51, 1, 5), (52, 2, 9)]), 3, 5, 9, 0, 128, 0, cm 0x10 0 0 [(1, 1, 0), (40, 4, 64), (44, 4, 2), (48, 1, 0), (51, 1, 5), (52, 2, 9)], .hbm, by decide +kernel⟩,
   by (refine ⟨withCmd tz (cm 0x10 0 0 [(1, 1, 0), (40, 4, 64), (44, 4, 2), (48, 1, 0), (51, 1, 5), (52, 2, 9)]), 3, 5, 9, 0, 128, 0, cm 0x10 0 0 [(1, 1, 0), (40, 4, 64), (44, 4, 2), (48, 1, 0), (51, 1, 5), (52, 2, 9)], .hbm, ?_⟩; and_intros <;> decide +kernel),
   by (refine ⟨withCmd (tz.setOwner 2 0 5) (cm 0x10 0 0 [(1, 1, 0), (40, 4, 64), (44, 4, 2), (48, 1, 0), (51, 1, 5), (52, 2, 9)]), 3, 5, 9, 0, 128, 0, Config.freeChoice 0 % 2 ^ 20, cm 0x10 0 0 [(1, 1, 0), (40, 4, 64), (44, 4, 2), (48, 1, 0), (51, 1, 5), (52, 2, 9)], .hbm, [(0, 65536)], ?_⟩; (iterate 21 refine ⟨by decide +kernel, ?_⟩); refine ⟨pickFree_nil _ _ _ (by decide +kernel) (by decide), ?_⟩; decide +kernel),
   ⟨withCmd oZ (cm 0x11 5 9 [(40, 8, oA.handle)]), 3, oA.handle, cm 0x11 5 9 [(40, 8, oA.handle)], oA, by decide +kernel⟩,
   ⟨withCmd (oZ.mapObj oA.handle fun o => { o with move := some mvA }) (cm 0x11 5 9 [(40, 8, oA.handle)]), 3, oA.handle, cm 0x11 5 9 [(40, 8, oA.handle)], { oA with move := some mvA }, mvA, by decide +kernel⟩,
   ⟨withCmd z (cm 0x11 5 9 []), 3, 0, stNoObject, cm 0x11 5 9 [], by decide +kernel⟩,
   by (refine ⟨withCmd oZ (cm 0x12 5 9 [(40, 8, oA.handle), (48, 8, 5), (56, 4, 1995), (60, 1, 3)]), 3, oA.handle, 320, 128000, 0, cm 0x12 5 9 [(40, 8, oA.handle), (48, 8, 5), (56, 4, 1995), (60, 1, 3)], oA, .flash, [], ?_⟩; and_intros <;> decide +kernel),
   ⟨withCmd z (cm 0x12 5 9 []), 3, 0, stNoObject, cm 0x12 5 9 [], by decide +kernel⟩,
   ⟨withCmd (oZ.mapObj oA.handle fun o => { o with move := some mvA }) (cm 0x12 5 9 [(40, 8, oA.handle), (48, 8, 5), (56, 4, 1995), (60, 1, 3)]), 3, oA.handle, 320, 128000, cm 0x12 5 9 [(40, 8, oA.handle), (48, 8, 5), (56, 4, 1995), (60, 1, 3)], { oA with move := some mvA }, .flash, by decide +kernel⟩,
   ⟨withCmd (oZ.setOwner 3 0 5) (cm 0x12 5 9 [(40, 8, oA.handle), (48, 8, 5), (56, 4, 1995), (60, 1, 1)]), 3, oA.handle, 320, 128000, 2, cm 0x12 5 9 [(40, 8, oA.handle), (48, 8, 5), (56, 4, 1995), (60, 1, 1)], oA, .gddr, by decide +kernel⟩,
   ⟨withCmd (oZ.setFld (.tnTier 38) TN_TIER_QUOTA 9) (cm 0x12 5 9 [(40, 8, oA.handle), (48, 8, 5), (56, 4, 1995), (60, 1, 1)]), 3, oA.handle, 320, 128000, 2, cm 0x12 5 9 [(40, 8, oA.handle), (48, 8, 5), (56, 4, 1995), (60, 1, 1)], oA, .gddr, by decide +kernel⟩,
   ⟨oZ.mapObj oA.handle fun o => { o with move := some { mvA with next := 0 } }, oA.handle, 0, 65536, true, { oA with move := some { mvA with next := 0 } }, { mvA with next := 0 }, by decide +kernel⟩,
   ⟨{ oZ with tier := { oZ.tier with objs := [{ oA with pieces := [⟨0, 65536, none⟩, ⟨65536, 62464, some 131072⟩], move := some mvA }] } }, oA.handle, 65536, 128000, false, { oA with pieces := [⟨0, 65536, none⟩, ⟨65536, 62464, some 131072⟩], move := some mvA }, mvA, by decide +kernel⟩,
   ⟨{ oZ with tier := { oZ.tier with objs := [{ oA with pieces := [⟨0, 65536, none⟩, ⟨65536, 62464, some 131072⟩], move := some { mvA with freeBy := some 9 } }] } }, oA.handle, 65536, 128000, false, { oA with pieces := [⟨0, 65536, none⟩, ⟨65536, 62464, some 131072⟩], move := some { mvA with freeBy := some 9 } }, { mvA with freeBy := some 9 }, 9, by decide +kernel⟩,
   ⟨oZ.mapObj oA.handle fun o => { o with pieces := [⟨0, 128000, some 65536⟩], move := some { mvA with next := 0 } }, oA.handle, 0, 65536, false, { oA with pieces := [⟨0, 128000, some 65536⟩], move := some { mvA with next := 0 } }, { mvA with next := 0 }, 65536, by decide +kernel⟩,
   ⟨{ z with tier := { z.tier with objs := [{ oA with hasHome := false, move := some mvA, pieces := [⟨0, 128000, none⟩], tier := .flash }] } }, oA.handle, { oA with hasHome := false, move := some mvA, pieces := [⟨0, 128000, none⟩], tier := .flash }, mvA, by decide +kernel⟩,
   ⟨withCmd oZ (cm 0x13 5 9 [(40, 8, oA.handle)]), 3, oA.handle, cm 0x13 5 9 [(40, 8, oA.handle)], oA, some 65536, by decide +kernel⟩,
   ⟨withCmd z (cm 0x13 5 9 []), 3, 0, stNoObject, cm 0x13 5 9 [], by decide +kernel⟩⟩

theorem witness_memoryPathsAndAdds :
    (∃ (s : State) (src a n : Nat), 1 ≤ n ∧ a % 256 + n ≤ 256 ∧ a < spBase ∧ regionOf a ≠ .unmapped ∧ s.mayReach src
      a = true ∧ s.mayReach src (a + n - 1) = true ∧ s.converting a = false ∧ s.lostIn a n = false) ∧
    (∃ (s : State) (src a n : Nat), 1 ≤ n ∧ a % 256 + n ≤ 256 ∧ a < spBase ∧ regionOf a ≠ .unmapped ∧ s.mayReach src
      a = true ∧ s.mayReach src (a + n - 1) = true ∧ s.converting a = false ∧ s.lostIn a n = false ∧ s.inPlain a
      = false) ∧
    (∃ (s : State) (src a n : Nat) (e : MemErr), 1 ≤ n ∧ a % 256 + n ≤ 256 ∧ a < spBase ∧ regionOf a ≠ .unmapped ∧
      s.mayReach src a = true ∧ s.mayReach src (a + n - 1) = true ∧ s.converting a = false ∧ s.inPlain a = false
      ∧ isQuadUnit src = false ∧ (e = .ue ∨ (e = .good ∧ s.lostIn a n = true))) ∧
    (∃ (s : State) (src a : Nat) (b : List Byte), MemOk s ∧ b ≠ [] ∧ a % 256 + b.length ≤ 256 ∧ a < spBase ∧
      regionOf a ≠ .unmapped ∧ s.mayReach src a = true ∧ s.mayReach src (a + b.length - 1) = true ∧ s.converting
      a = false ∧ s.lostIn a b.length = false ∧ (∀ l ∈ s.net.dir, s.sharers l.1 = 0 ∨ l.1 * 256 + 256 ≤ a ∨ a +
      b.length ≤ l.1 * 256)) ∧
    (∃ (s : State) (src a : Nat) (b : List Byte), MemOk s ∧ b ≠ [] ∧ a % 256 + b.length ≤ 256 ∧ a < spBase ∧
      regionOf a ≠ .unmapped ∧ s.mayReach src a = true ∧ s.mayReach src (a + b.length - 1) = true ∧ s.converting
      a = false ∧ s.lostIn a b.length = false) ∧
    (∃ (s : State) (src a n : Nat) (d : Option (List Byte)) (e : MemErr), 1 ≤ n ∧ a % 256 + n ≤ 256 ∧ a < spBase ∧
      regionOf a ≠ .unmapped ∧ s.mayReach src a = true ∧ s.mayReach src (a + n - 1) = true ∧ s.converting a =
      true) ∧
    (∃ (s : State) (src a n : Nat) (d : Option (List Byte)) (e : MemErr), 1 ≤ n ∧ a % 256 + n ≤ 256 ∧ (a < spBase ∨
      regionOf a = .unmapped) ∧ isQuadUnit src = false ∧ s.mayReach src a = false) ∧
    (∃ (s : State) (src a n : Nat) (d : Option (List Byte)) (e : MemErr), 1 ≤ n ∧ a % 256 + n ≤ 256 ∧ (a < spBase ∨
      regionOf a = .unmapped) ∧ isQuadUnit src = true ∧ s.mayReach src a = false) ∧
    (∃ (s : State) (src a k : Nat) (b : List Byte), MemOk s ∧ RegsOk s ∧ 1 ≤ k ∧ k ≤ 7 ∧ b ≠ [] ∧ b.length ≤ 256 ∧
      b.length % addWidth k = 0 ∧ a < spBase ∧ regionOf a ≠ .unmapped ∧ s.mayReach src a = true ∧ s.mayReach src
      (a + b.length - 1) = true ∧ s.converting a = false ∧ s.lostIn a b.length = false ∧ (∀ l ∈ s.net.dir,
      s.sharers l.1 = 0 ∨ l.1 * 256 + 256 ≤ a ∨ a + b.length ≤ l.1 * 256) ∧ (∀ n o, regionOf a = .sketch n o →
      s.plainBlock n o = false)) ∧
    (∃ (s : State) (src a x : Nat), MemOk s ∧ RegsOk s ∧ a % 4 = 0 ∧ a < 12 * hbmSize ∧ s.mayReach src a = true ∧
      s.mayReach src (a + 3) = true ∧ s.converting a = false ∧ s.lostIn a 4 = false ∧ (∀ l ∈ s.net.dir,
      s.sharers l.1 = 0 ∨ l.1 * 256 + 256 ≤ a ∨ a + 4 ≤ l.1 * 256) ∧ x < 2 ^ 32) ∧
    (∃ (s : State) (src a k : Nat) (b : List Byte), MemOk s ∧ RegsOk s ∧ 1 ≤ k ∧ k ≤ 7 ∧ b ≠ [] ∧ b.length ≤ 256 ∧
      b.length % addWidth k = 0 ∧ a < spBase ∧ regionOf a ≠ .unmapped ∧ s.mayReach src a = true ∧ s.mayReach src
      (a + b.length - 1) = true ∧ s.converting a = true ∧ (∀ n o, regionOf a = .sketch n o → s.plainBlock n o =
      false)) ∧
    (∃ (s : State) (src a k : Nat) (b : List Byte), 8 ≤ k ∧ k ≤ 15 ∧ b ≠ [] ∧ b.length ≤ 256 ∧ isQuadUnit src =
      false) ∧
    (∃ (s : State) (src a k : Nat) (b : List Byte), 1 ≤ k ∧ k ≤ 15 ∧ b ≠ [] ∧ b.length ≤ 256 ∧ (k ≤ 7 → b.length %
      addWidth k = 0) ∧ isQuadUnit src = false) :=
  ⟨⟨z, srcHub 0, gdBase + 224, 32, by decide +kernel⟩,
   ⟨z, srcHub 0, gdBase + 224, 32, by decide +kernel⟩,
   ⟨z, srcHub 0, gdBase + 224, 32, .ue, by decide +kernel⟩,
   ⟨{ z with net := { z.net with dir := [(4, 1)] } }, srcHub 0, gdBase + 254, [1#8, 2#8], by decide +kernel⟩,
   ⟨{ z with net := { z.net with dir := [(4, 1)] } }, srcHub 0, 1024, [1#8, 2#8], by decide +kernel⟩,
   ⟨{ z with sk := { z.sk with conv := [0] } }, srcHub 0, skBase, 4, some [1#8, 1#8, 1#8, 1#8], .good, by decide +kernel⟩,
   ⟨z, srcHost, 0, 4, none, .good, by decide +kernel⟩,
   ⟨z, 5, 0, 4, none, .good, by decide +kernel⟩,
   by (refine ⟨z.wr (12 * hbmSize - 4) [255#8, 255#8, 255#8, 127#8], srcHub 0, 12 * hbmSize - 4, 6, [2#8, 0#8, 0#8, 0#8], ?_⟩; (iterate 14 refine ⟨by decide +kernel, ?_⟩); exact noSketch _ _ (by decide +kernel)),
   ⟨z.wr (12 * hbmSize - 4) [255#8, 255#8, 255#8, 255#8], srcHub 0, 12 * hbmSize - 4, 2, by decide +kernel⟩,
   by (refine ⟨{ (z.setFld (.skRegion 0) SK_REGION_PLAIN 0) with sk := { z.sk with conv := [0] } }, srcHub 0, skBase, 4, [1#8, 1#8, 1#8, 1#8], ?_⟩; (iterate 12 refine ⟨by decide +kernel, ?_⟩); exact sketchAt _ 0 0 _ (by decide +kernel) (by decide +kernel)),
   ⟨z, srcHub 0, gdBase, 8, [1#8], by decide +kernel⟩,
   ⟨z, srcHub 0, gdBase, 15, [1#8], by decide +kernel⟩⟩

theorem witness_memoryErrorsTemperaturesAndFlash :
    (∃ (s : State) (u c : Nat), RegsOk s ∧ u < 12 ∧ c < 16) ∧
    (∃ (s : State) (u : Nat), u < 12) ∧
    (∃ (s : State) (u c : Nat), RegsOk s ∧ u < 12 ∧ c < 16) ∧
    (∃ (s : State) (u : Nat), RegsOk s ∧ (u < 12 ∨ (16 ≤ u ∧ u < 64) ∨ (64 ≤ u ∧ u < 72))) ∧
    (∃ (s : State) (u x : Nat), RegsOk s ∧ u < 12 ∧ tgetD 0 s.pwr.thermal u = 0 ∧ 86 ≤ x ∧ x < 96 ∧ x < s.fld
      (.memHstat u) MEM_HSTAT_LIMIT) ∧
    (∃ (s : State) (u x l : Nat), RegsOk s ∧ (twf (fun _ => 0) s.pwr.thermal = true) ∧ u < 12 ∧ x < 256 ∧ l =
      thermalNext [(86, 82), (96, 92), (s.fld (.memHstat u) MEM_HSTAT_LIMIT, s.fld (.memHstat u) MEM_HSTAT_LIMIT
      - 3)] (tgetD 0 s.pwr.thermal u) x) ∧
    (∃ (s : State) (u x l : Nat), RegsOk s ∧ (twf (fun _ => 0) s.pwr.thermal = true) ∧ 16 ≤ u ∧ u < 64 ∧ x < 256 ∧ l
      = thermalNext [(86, 82), (100, 97)] (tgetD 0 s.pwr.thermal u) x) ∧
    (∃ (s : State) (x : Nat), RegsOk s ∧ s.pwr.nand = 0) ∧
    (∃ (s : State) (x : Nat), RegsOk s) ∧
    (∃ (s : State) (src c h u : Nat) (r : FlashRes) (o : Obj), RegsOk s ∧ s.obj h = some o ∧ (r = .hard ∨ r =
      .retry)) ∧
    (∃ (s : State) (src c h u : Nat) (o : Obj), RegsOk s ∧ s.obj h = some o) ∧
    (∃ (s : State) (src c h u : Nat) (o : Obj), RegsOk s ∧ s.obj h = some o) ∧
    (∃ (s : State) (d : Nat), RegsOk s ∧ d < nandDies ∧ s.tier.readOnly.contains d = false ∧ s.tier.readOnly.length
      < nandDies / 16) ∧
    (∃ (s : State) (d : Nat), RegsOk s ∧ d < nandDies ∧ s.tier.readOnly.contains d = false ∧ nandDies / 16 ≤
      s.tier.readOnly.length) ∧
    (∃ (s : State) (d : Nat), d < nandDies ∧ s.tier.readOnly.contains d = false) ∧
    (∃ (s : State) (d : Nat) (b : Bool), (nandDies ≤ d ∨ s.tier.readOnly.contains d = true)) ∧
    (∃ (s : State) (d : Nat), RegsOk s ∧ d < nandDies ∧ s.tier.rebuilding.contains d = false) ∧
    (∃ (s : State) (d : Nat), RegsOk s) ∧
    (∃ (s : State) (k : Nat), RegsOk s ∧ k < 84 ∧ (twf (fun _ => 0) s.arith.cvtStart = true) ∧ (twf (fun _ => regRst
      (.cvtSatcfg 0)) s.arith.cvtNow = true) ∧ tgetD 0 s.arith.cvtStart k + fget (s.cvtNow k) CVT_SATCFG_WINDOW
      * 400 ≤ s.svcTime) ∧
    (∃ (s : State) (k : Nat), (84 ≤ k ∨ s.svcTime < tgetD 0 s.arith.cvtStart k + fget (s.cvtNow k) CVT_SATCFG_WINDOW
      * 400)) :=
  ⟨⟨z, 11, 15, by decide +kernel⟩,
   ⟨z, 11, by decide +kernel⟩,
   ⟨z, 11, 15, by decide +kernel⟩,
   ⟨z, 11, by decide +kernel⟩,
   ⟨z, 11, 86, by decide +kernel⟩,
   ⟨z, 11, 86, 1, by decide +kernel⟩,
   ⟨z, 63, 100, 2, by decide +kernel⟩,
   ⟨z, 70, by decide +kernel⟩,
   ⟨z, 85, by decide +kernel⟩,
   ⟨{ z with tier := { z.tier with objs := [{ oA with pieces := [⟨0, 128000, none⟩], flash := [(600, 5)] }] } }, srcHub 0, 0, oA.handle, 1, .hard, { oA with pieces := [⟨0, 128000, none⟩], flash := [(600, 5)] }, by decide +kernel⟩,
   ⟨oZ, srcHub 0, 3, oA.handle, 1, oA, by decide +kernel⟩,
   ⟨oZ, srcHub 0, 3, oA.handle, 1, oA, by decide +kernel⟩,
   by (refine ⟨z, 0, ?_⟩; refine ⟨by decide +kernel, ?_⟩; refine ⟨nandDies_pos, ?_⟩; refine ⟨by decide +kernel, ?_⟩; exact by unfold nandDies ratedGb; split <;> decide +kernel),
   by (refine ⟨{ z with tier := { z.tier with readOnly := rangeFrom 1 16 } }, 0, ?_⟩; refine ⟨by decide +kernel, ?_⟩; refine ⟨nandDies_pos, ?_⟩; refine ⟨by decide +kernel, ?_⟩; exact by unfold nandDies ratedGb; split <;> decide +kernel),
   by (refine ⟨z, 0, ?_⟩; refine ⟨nandDies_pos, ?_⟩; decide +kernel),
   ⟨{ z with tier := { z.tier with readOnly := [3] } }, 3, true, .inr (by decide +kernel)⟩,
   by (refine ⟨z, 0, ?_⟩; refine ⟨by decide +kernel, ?_⟩; refine ⟨nandDies_pos, ?_⟩; decide +kernel),
   ⟨{ z with tier := { z.tier with relocating := [4], readOnly := [4] } }, 4, by decide +kernel⟩,
   ⟨{ z with svcTime := 2 ^ 40 }, 79, by decide +kernel⟩,
   ⟨z, 84, by decide +kernel⟩⟩

theorem witness_nearBankLatchesMasksAndThresholds :
    (∃ (s : State) (g : Nat) (c : NbuCmd) (rest : List NbuCmd), g < 4096 ∧ (s.nbu g).cmds = c :: rest ∧ leAt c.bytes
      0 1 = 1 ∧ s.nbuStarts g = true ∧ s.cmdStatus g c = 0 ∧ (twf (fun _ => 0) (s.nbu g).latch = true) ∧ (twf
      (fun _ => 0) (s.nbu g).thr = true)) ∧
    (∃ (s : State) (g st : Nat) (b : Bool) (c : NbuCmd) (rest : List NbuCmd), RegsOk s ∧ (twf (fun _ => ({} : Nbu))
      s.sk.nbus = true) ∧ g < 4096 ∧ (s.nbu g).cmds = c :: rest ∧ (leAt c.bytes 0 1 = 1 ∨ nbuOpcode (leAt
      c.bytes 0 1) = false) ∧ ((s.nbu g).prog ≠ 0 → b = true) ∧ s.nbuStarts g = true ∧ (st = (if b then 7 else
      s.cmdStatus g c)) ∧ st ≠ 0 ∧ st ≠ 8) ∧
    (∃ (s : State) (g : Nat) (c : NbuCmd) (rest : List NbuCmd) (d : NbuCmd), g < 4096 ∧ (s.nbu g).cmds = c :: rest ∧
      leAt c.bytes 0 1 = 1 ∧ s.nbuStarts g = true ∧ s.cmdStatus g c = 0 ∧ s.scansOf g = [] ∧ s.hubCmds g = [d] ∧
      d.queued = true ∧ rest.length ≤ 3) ∧
    (∃ (s : State) (g : Nat) (c : NbuCmd) (rest : List NbuCmd), g < 4096 ∧ (twf (fun _ => ({} : Nbu)) s.sk.nbus =
      true) ∧ takeCmd 2 (s.hubCmds g) = some (c, rest) ∧ (twf (fun _ => ([] : List NbuCmd)) s.sk.hubq = true) ∧
      s.nbuStarts g = true ∧ s.cmdStatus g c = 0 ∧ (twf (fun _ => 0) (s.nbu g).thr = true)) ∧
    (∃ (s : State) (g : Nat) (c : NbuCmd) (rest : List NbuCmd), g < 4096 ∧ (s.nbu g).cmds = c :: rest ∧ leAt c.bytes
      0 1 = 3 ∧ s.nbuStarts g = true ∧ s.cmdStatus g c = 0) ∧
    (∃ (s : State) (g st : Nat) (b : Bool) (c : NbuCmd) (rest : List NbuCmd), RegsOk s ∧ (twf (fun _ => ({} : Nbu))
      s.sk.nbus = true) ∧ g < 4096 ∧ (s.nbu g).cmds = c :: rest ∧ (leAt c.bytes 0 1 = 3 ∨ nbuOpcode (leAt
      c.bytes 0 1) = false) ∧ ((s.nbu g).prog ≠ 0 → b = true) ∧ s.nbuStarts g = true ∧ (st = (if b then 7 else
      s.cmdStatus g c)) ∧ st ≠ 0 ∧ st ≠ 8) ∧
    (∃ (s : State) (g m : Nat) (c : NbuCmd) (rest : List NbuCmd), g < 4096 ∧ (s.nbu g).cmds = c :: rest ∧ leAt
      c.bytes 0 1 = 4 ∧ s.nbuStarts g = true ∧ s.cmdStatus g c = 0 ∧ (twf (fun _ => ({} : Nbu)) s.sk.nbus =
      true) ∧ (s.nbu g).prog = 0 ∧ leAt c.bytes 4 1 ≤ m) ∧
    (∃ (s : State) (g : Nat) (c : NbuCmd) (rest : List NbuCmd), g < 4096 ∧ (s.nbu g).cmds = c :: rest ∧ leAt c.bytes
      0 1 = 4 ∧ ((s.nbu g).prog ≠ 0 ∨ (s.nbuStarts g = true ∧ s.cmdStatus g c = 0)) ∧ (s.nbu g).prog + 1 < leAt
      c.bytes 4 1) ∧
    (∃ (s : State) (g : Nat) (c : NbuCmd) (rest : List NbuCmd), g < 4096 ∧ (s.nbu g).cmds = c :: rest ∧ leAt c.bytes
      0 1 = 4 ∧ (twf (fun _ => ({} : Nbu)) s.sk.nbus = true) ∧ (s.nbu g).prog ≠ 0 ∧ (s.nbu g).prog + 1 = leAt
      c.bytes 4 1) ∧
    (∃ (s : State) (g st : Nat) (b : Bool) (c : NbuCmd) (rest : List NbuCmd) (m : Nat), RegsOk s ∧ (twf (fun _ =>
      ({} : Nbu)) s.sk.nbus = true) ∧ g < 4096 ∧ (s.nbu g).cmds = c :: rest ∧ (leAt c.bytes 0 1 = 4 ∨ nbuOpcode
      (leAt c.bytes 0 1) = false) ∧ ((s.nbu g).prog ≠ 0 → b = true) ∧ s.nbuStarts g = true ∧ (st = (if b then 7
      else s.cmdStatus g c)) ∧ st ≠ 0 ∧ st ≠ 8) ∧
    (∃ (s : State) (g : Nat) (c : NbuCmd) (rest : List NbuCmd), g < 4096 ∧ (twf (fun _ => ({} : Nbu)) s.sk.nbus =
      true) ∧ takeCmd 0x0F (s.hubCmds g) = some (c, rest) ∧ (twf (fun _ => ([] : List NbuCmd)) s.sk.hubq = true)
      ∧ s.nbuStarts g = true ∧ s.cmdStatus g c = 0) ∧
    (∃ (s : State) (g : Nat), g < 4096 ∧ (twf (fun _ => ({} : Nbu)) s.sk.nbus = true) ∧ (s.nbu g).fifo.length ≤ 512
      ∧ (s.nbu g).doneList = []) ∧
    (∃ (s : State) (g q u t0 tok : Nat) (th : Thread), g < 4096 ∧ (twf (fun _ => ({} : Nbu)) s.sk.nbus = true) ∧
      (s.nbu g).fifo = [] ∧ (s.nbu g).doneList = [(tok, 16 * q + u)] ∧ u < 16 ∧ t0 < 16 ∧ s.thread q u t0 = some
      th) :=
  ⟨⟨(nbZ [1, 0, 9, 0, 6, 3, 0, 0, 0, 0, 8, 0, 0, 0, 0, 0, 100, 0]).wr (rowAddr 4095 queryRow) [1#8, 2#8], 4095, nbC [1, 0, 9, 0, 6, 3, 0, 0, 0, 0, 8, 0, 0, 0, 0, 0, 100, 0], [], by decide +kernel⟩,
   ⟨nbZ [1, 0, 9, 0, 0, 3], 4095, 2, false, nbC [1, 0, 9, 0, 0, 3], [], by decide +kernel⟩,
   ⟨{ nbZ [1, 0, 9, 0, 6, 3] with sk := { (nbZ [1, 0, 9, 0, 6, 3]).sk with hubq := [(4095, [nbC [5]])] } }, 4095, nbC [1, 0, 9, 0, 6, 3], [], nbC [5], by decide +kernel⟩,
   ⟨hubZ [2, 0, 9, 0, 0x81, 0, 0xFF, 3], 4095, nbC [2, 0, 9, 0, 0x81, 0, 0xFF, 3], [], by decide +kernel⟩,
   ⟨(nbZ [3, 0, 9, 0, 1, 0, 5, 0, 0, 2]).wr (rowAddr 4095 5) [1#8, 2#8], 4095, nbC [3, 0, 9, 0, 1, 0, 5, 0, 0, 2], [], by decide +kernel⟩,
   ⟨nbZ [3, 1, 9, 0, 1, 0, 5, 0, 0, 2], 4095, 6, false, nbC [3, 1, 9, 0, 1, 0, 5, 0, 0, 2], [], by decide +kernel⟩,
   ⟨((nbZ [4, 0, 9, 0, 2, 1, 0, 0, 5, 0, 6, 0]).wr (rowAddr 4095 5) [1#8, 2#8]).mapNbu 4095 fun u => { u with mask := 0x7F0F }, 4095, 2, nbC [4, 0, 9, 0, 2, 1, 0, 0, 5, 0, 6, 0], [], by decide +kernel⟩,
   ⟨((nbZ [4, 0, 9, 0, 3, 1, 0, 0, 5, 0, 6, 0, 7, 0]).wr (rowAddr 4095 6) [1#8, 2#8]).mapNbu 4095 fun u => { u with prog := 1, clause := 5 }, 4095, nbC [4, 0, 9, 0, 3, 1, 0, 0, 5, 0, 6, 0, 7, 0], [], by decide +kernel⟩,
   ⟨((nbZ [4, 0, 9, 0, 2, 1, 0, 0, 5, 0, 6, 0]).wr (rowAddr 4095 6) [1#8, 2#8]).mapNbu 4095 fun u => { u with prog := 1, clause := 5, mask := 0x7F0F }, 4095, nbC [4, 0, 9, 0, 2, 1, 0, 0, 5, 0, 6, 0], [], by decide +kernel⟩,
   ⟨nbZ [4, 0, 9, 0, 9], 4095, 2, false, nbC [4, 0, 9, 0, 9], [], 3, by decide +kernel⟩,
   ⟨(hubZ [15, 0, 9]).mapNbu 4095 fun u => { u with fifo := [⟨1, 2, 3⟩], cmds := [nbC [5]] }, 4095, nbC [15, 0, 9], [], by decide +kernel⟩,
   ⟨z.setNbu 7 { fifo := [⟨0, 85, 2⟩, ⟨0, 85, 1⟩, ⟨0, 36, 9⟩] }, 7, by decide +kernel⟩,
   ⟨(runZ 4 3 0 { issued := [{ op := 0x90, sig := none, tokens := [8, 7] }] }).setNbu 7 { doneList := [(7, 79 * 16 + 4)] }, 7, 79, 4, 3, 7, thZ { issued := [{ op := 0x90, sig := none, tokens := [8, 7] }] }, by decide +kernel⟩⟩

theorem witness_screenAndDotProducts :
    (∃ (s : State) (g : Nat) (c : NbuCmd) (rest : List NbuCmd) (sz : Nat), g < 4096 ∧ (s.nbu g).cmds = c :: rest ∧
      leAt c.bytes 0 1 = 5 ∧ ((s.nbu g).prog ≠ 0 ∨ (s.nbuStarts g = true ∧ s.cmdStatus g c = 0)) ∧ (s.nbu
      g).prog + 1 < leAt c.bytes 8 2 ∧ (s.nbu g).fifo.length + (s.nbu g).mostHits c.bytes ≤ 512 ∧ (sz = if
      (s.nbu g).seg512 then 512 else 256)) ∧
    (∃ (s : State) (g m : Nat) (c : NbuCmd) (rest : List NbuCmd) (sz : Nat), g < 4096 ∧ (s.nbu g).cmds = c :: rest ∧
      leAt c.bytes 0 1 = 5 ∧ ((s.nbu g).prog ≠ 0 ∨ (s.nbuStarts g = true ∧ s.cmdStatus g c = 0)) ∧ (twf (fun _
      => ({} : Nbu)) s.sk.nbus = true) ∧ (s.nbu g).prog + 1 = leAt c.bytes 8 2 ∧ 1 ≤ m ∧ (s.nbu g).fifo.length +
      (s.nbu g).mostHits c.bytes ≤ 512 ∧ (sz = if (s.nbu g).seg512 then 512 else 256)) ∧
    (∃ (s : State) (g m : Nat) (c : NbuCmd) (rest : List NbuCmd), g < 4096 ∧ (s.nbu g).cmds = c :: rest ∧ leAt
      c.bytes 0 1 = 5 ∧ ((s.nbu g).prog ≠ 0 ∨ (s.nbuStarts g = true ∧ s.cmdStatus g c = 0)) ∧ (twf (fun _ => ({}
      : Nbu)) s.sk.nbus = true) ∧ (s.nbu g).prog < leAt c.bytes 8 2 ∧ (m = 0 ∨ 512 < (s.nbu g).fifo.length +
      (s.nbu g).mostHits c.bytes)) ∧
    (∃ (s : State) (g m : Nat) (c : NbuCmd) (rest : List NbuCmd), g < 4096 ∧ (s.nbu g).cmds = c :: rest ∧ leAt
      c.bytes 0 1 = 5 ∧ ((s.nbu g).prog ≠ 0 ∨ (s.nbuStarts g = true ∧ s.cmdStatus g c = 0)) ∧ (s.nbu g).prog + 1
      < leAt c.bytes 8 2 ∧ (s.nbu g).fifo.length + (s.nbu g).mostHits c.bytes ≤ 512) ∧
    (∃ (s : State) (g st : Nat) (b : Bool) (c : NbuCmd) (rest : List NbuCmd) (m : Nat), RegsOk s ∧ (twf (fun _ =>
      ({} : Nbu)) s.sk.nbus = true) ∧ g < 4096 ∧ (s.nbu g).cmds = c :: rest ∧ (leAt c.bytes 0 1 = 5 ∨ nbuOpcode
      (leAt c.bytes 0 1) = false) ∧ ((s.nbu g).prog ≠ 0 → b = true) ∧ s.nbuStarts g = true ∧ (st = (if b then 7
      else s.cmdStatus g c)) ∧ st ≠ 0 ∧ st ≠ 8) ∧
    (∃ (s : State) (g : Nat) (c : NbuCmd) (rest : List NbuCmd), g < 4096 ∧ (s.nbu g).cmds = c :: rest ∧ leAt c.bytes
      0 1 = 6 ∧ ((s.nbu g).prog ≠ 0 ∨ (s.nbuStarts g = true ∧ s.cmdStatus g c = 0)) ∧ (s.nbu g).prog + 1 < leAt
      c.bytes 12 1 * bits (leAt c.bytes 8 1) 0 4 ∧ (twf (fun _ => 0) (s.nbu g).sums = true)) ∧
    (∃ (s : State) (g m : Nat) (c : NbuCmd) (rest : List NbuCmd), g < 4096 ∧ (s.nbu g).cmds = c :: rest ∧ leAt
      c.bytes 0 1 = 6 ∧ ((s.nbu g).prog ≠ 0 ∨ (s.nbuStarts g = true ∧ s.cmdStatus g c = 0)) ∧ (twf (fun _ => ({}
      : Nbu)) s.sk.nbus = true) ∧ (s.nbu g).prog + 1 = leAt c.bytes 12 1 * bits (leAt c.bytes 8 1) 0 4 ∧ 1 ≤ m ∧
      (twf (fun _ => 0) (s.nbu g).sums = true)) ∧
    (∃ (s : State) (g m : Nat) (c : NbuCmd) (rest : List NbuCmd), g < 4096 ∧ (s.nbu g).cmds = c :: rest ∧ leAt
      c.bytes 0 1 = 6 ∧ ((s.nbu g).prog ≠ 0 ∨ (s.nbuStarts g = true ∧ s.cmdStatus g c = 0)) ∧ (s.nbu g).prog + 1
      < leAt c.bytes 12 1 * bits (leAt c.bytes 8 1) 0 4) ∧
    (∃ (s : State) (g m : Nat) (c : NbuCmd) (rest : List NbuCmd), g < 4096 ∧ (s.nbu g).cmds = c :: rest ∧ leAt
      c.bytes 0 1 = 6 ∧ s.nbuStarts g = true ∧ s.cmdStatus g c = 0 ∧ (twf (fun _ => ({} : Nbu)) s.sk.nbus =
      true) ∧ (s.nbu g).prog = 0 ∧ leAt c.bytes 12 1 = 1 ∧ bits (leAt c.bytes 8 1) 0 4 ≤ m ∧ (twf (fun _ => 0)
      (s.nbu g).sums = true)) ∧
    (∃ (s : State) (g st : Nat) (b : Bool) (c : NbuCmd) (rest : List NbuCmd) (m : Nat), RegsOk s ∧ (twf (fun _ =>
      ({} : Nbu)) s.sk.nbus = true) ∧ g < 4096 ∧ (s.nbu g).cmds = c :: rest ∧ (leAt c.bytes 0 1 = 6 ∨ nbuOpcode
      (leAt c.bytes 0 1) = false) ∧ ((s.nbu g).prog ≠ 0 → b = true) ∧ s.nbuStarts g = true ∧ (st = (if b then 7
      else s.cmdStatus g c)) ∧ st ≠ 0 ∧ st ≠ 8) :=
  ⟨⟨(nbZ [5, 0, 9, 0, 6, 0, 7, 0, 2, 0, 0x34, 0x12]).mapNbu 4095 fun u => { u with mask := 2 ^ 8192 - 5, maskOn := true, mbase := 0, loaded := 6, thr := [(2, 3)], latch := [(2, 31)] }, 4095, nbC [5, 0, 9, 0, 6, 0, 7, 0, 2, 0, 0x34, 0x12], [], 256, by decide +kernel⟩,
   ⟨(nbZ [5, 0, 9, 0, 6, 0, 7, 0, 2, 0, 0x34, 0x12]).mapNbu 4095 fun u => { u with mask := 2 ^ 8192 - 5, maskOn := true, mbase := 0, loaded := 6, thr := [(2, 3)], latch := [(2, 31)], prog := 1 }, 4095, 3, nbC [5, 0, 9, 0, 6, 0, 7, 0, 2, 0, 0x34, 0x12], [], 256, by decide +kernel⟩,
   ⟨(nbZ [5, 0, 9, 0, 6, 0, 7, 0, 2, 0, 0x34, 0x12]).mapNbu 4095 fun u => { u with mask := 2 ^ 8192 - 5, maskOn := true, mbase := 0, loaded := 6, thr := [(2, 3)], latch := [(2, 31)], fifo := List.replicate 450 ⟨1, 2, 3⟩ }, 4095, 3, nbC [5, 0, 9, 0, 6, 0, 7, 0, 2, 0, 0x34, 0x12], [], by decide +kernel⟩,
   ⟨(nbZ [5, 0, 9, 0, 6, 0, 7, 0, 2, 0, 0x34, 0x12]).mapNbu 4095 fun u => { u with mask := 2 ^ 8192 - 5, maskOn := true, mbase := 0, loaded := 6, thr := [(2, 3)], latch := [(2, 31)] }, 4095, 1, nbC [5, 0, 9, 0, 6, 0, 7, 0, 2, 0, 0x34, 0x12], [], by decide +kernel⟩,
   ⟨nbZ [5, 0, 9, 0, 6, 0, 7, 0, 2, 0, 0x34, 0x12], 4095, 3, false, nbC [5, 0, 9, 0, 6, 0, 7, 0, 2, 0, 0x34, 0x12], [], 3, by decide +kernel⟩,
   ⟨((nbZ [6, 0, 9, 0, 0, 0x14, 5, 0, 4, 8, 7, 0, 1, 0]).mapNbu 4095 fun u => { u with prog := 0, loaded := 255, latch := [(0, 7), (3, 6)], sums := [(7, 100), (8, 3)] }).wr (rowAddr 4095 5) [7#8, 1#8], 4095, nbC [6, 0, 9, 0, 0, 0x14, 5, 0, 4, 8, 7, 0, 1, 0], [], by decide +kernel⟩,
   ⟨((nbZ [6, 0, 9, 0, 0, 0x14, 5, 0, 4, 8, 7, 0, 1, 0]).mapNbu 4095 fun u => { u with prog := 3, loaded := 255, latch := [(0, 7), (3, 6)], sums := [(7, 100), (8, 3)] }).wr (rowAddr 4095 5) [7#8, 1#8], 4095, 2, nbC [6, 0, 9, 0, 0, 0x14, 5, 0, 4, 8, 7, 0, 1, 0], [], by decide +kernel⟩,
   ⟨((nbZ [6, 0, 9, 0, 0, 0x14, 5, 0, 4, 8, 7, 0, 1, 0]).mapNbu 4095 fun u => { u with prog := 0, loaded := 255, latch := [(0, 7), (3, 6)], sums := [(7, 100), (8, 3)] }).wr (rowAddr 4095 5) [7#8, 1#8], 4095, 2, nbC [6, 0, 9, 0, 0, 0x14, 5, 0, 4, 8, 7, 0, 1, 0], [], by decide +kernel⟩,
   ⟨((nbZ [6, 0, 9, 0, 0, 0x14, 5, 0, 4, 8, 7, 0, 1, 0]).mapNbu 4095 fun u => { u with prog := 0, loaded := 255, latch := [(0, 7), (3, 6)], sums := [(7, 100), (8, 3)] }).wr (rowAddr 4095 5) [7#8, 1#8], 4095, 4, nbC [6, 0, 9, 0, 0, 0x14, 5, 0, 4, 8, 7, 0, 1, 0], [], by decide +kernel⟩,
   ⟨nbZ [6, 0, 9, 0, 0, 0x13, 5, 0, 4, 8, 7, 0, 1, 0], 4095, 2, false, nbC [6, 0, 9, 0, 0, 0x13, 5, 0, 4, 8, 7, 0, 1, 0], [], 3, by decide +kernel⟩⟩

theorem witness_sketchRegionsTideAndTemperature :
    (∃ (s : State) (n v p : Nat), RegsOk s ∧ s.pwrGood = true ∧ n < 8 ∧ s.flag (.skRegion n) SK_REGION_CONV = false
      ∧ p = bits v 0 47 ∧ p ≠ s.fld (.skRegion n) SK_REGION_PLAIN) ∧
    (∃ (s : State) (n v : Nat) (h : Half), RegsOk s ∧ n < 8 ∧ h ≠ .whole) ∧
    (∃ (s : State) (n v : Nat) (h : Half), n < 8 ∧ s.flag (.skRegion n) SK_REGION_CONV = true) ∧
    (∃ (s : State) (n : Nat), Canonical s ∧ n < 8 ∧ s.tier.heldAcc = [] ∧ (∀ e ∈ s.sk.nbus, e.2.prog = 0)) ∧
    (∃ (s : State) (n g : Nat) (u : Nbu) (c : NbuCmd) (rest : List NbuCmd), n < 8 ∧ (g, u) ∈ s.sk.nbus ∧ g / 512 = n
      ∧ u.prog ≠ 0 ∧ u.cmds = c :: rest ∧ (cmdRows c.bytes).any (s.rowConverting g) = true) ∧
    (∃ (s : State) (n o : Nat) (x : TideRow), Canonical s ∧ n < 8 ∧ s.flag (.skCtl n) SK_CTL_TIDE_EN = true ∧
      regionOf (skBase + 1024 * x.row) = .sketch n o ∧ s.plainBlock n o = true ∧ o % skBank < 1024 * queryRow ∧
      x.lost = false) ∧
    (∃ (s : State) (n o : Nat) (x : TideRow), RegsOk s ∧ n < 8 ∧ s.flag (.skCtl n) SK_CTL_TIDE_EN = true ∧ regionOf
      (skBase + 1024 * x.row) = .sketch n o ∧ s.plainBlock n o = true ∧ o % skBank < 1024 * queryRow ∧ x.lost =
      true) ∧
    (∃ (s : State) (n : Nat) (xs : List TideRow), Canonical s ∧ n < 8 ∧ s.flag (.skCtl n) SK_CTL_TIDE_EN = true) ∧
    (∃ (s : State) (n : Nat) (xs : List TideRow), n < 8 ∧ s.flag (.skCtl n) SK_CTL_TIDE_EN = false) ∧
    (∃ (s : State) (n x : Nat), RegsOk s ∧ n < 8 ∧ tgetD 0 s.pwr.thermal (64 + n) = 0 ∧ (tgetO s.sk.throtAt n).join
      = none ∧ 96 ≤ x ∧ x < 105 ∧ s.sk.hubq = [] ∧ s.sk.scans = []) ∧
    (∃ (s : State) (n x l : Nat), RegsOk s ∧ (twf (fun _ => 0) s.pwr.thermal = true) ∧ n < 8 ∧ x < 256 ∧ l =
      thermalNext [(86, 82), (96, 92), (105, 102)] (tgetD 0 s.pwr.thermal (64 + n)) x) ∧
    (∃ (s : State) (g : Nat), g < 4096) :=
  ⟨⟨z, 7, 2 ^ 47 - 2, 2 ^ 47 - 2, by decide +kernel⟩,
   ⟨z, 7, 3, .low, by decide +kernel⟩,
   ⟨z.setFld (.skRegion 3) SK_REGION_CONV 1, 3, 0, .low, by decide +kernel⟩,
   ⟨{ ((z.wr (skBase + 7 * skSize + 5) [1#8]).wr (skBase + 7 * skSize + 1048576) [1#8]).setFld (.skRegion 7) SK_REGION_CONV 1 with sk := { z.sk with conv := [337, 47] } }, 7, by decide +kernel⟩,
   ⟨{ (nbZ [3, 0, 9, 0, 1, 0, 5, 0, 0, 2]) with sk := { (z.setNbu 4095 { cmds := [nbC [3, 0, 9, 0, 1, 0, 5, 0, 0, 2]], prog := 1 }).sk with conv := [336] } }, 7, 4095, { cmds := [nbC [3, 0, 9, 0, 1, 0, 5, 0, 0, 2]], prog := 1 }, nbC [3, 0, 9, 0, 1, 0, 5, 0, 0, 2], [], by decide +kernel⟩,
   ⟨z.wr 5000 [1#8, 9#8], 7, 7000 * 1024, { row := 7 * (skSize / 1024) + 7000, source := .addr 4096, lost := false }, by decide +kernel⟩,
   ⟨z, 7, 7000 * 1024, { row := 7 * (skSize / 1024) + 7000, source := .addr 4096, lost := true }, by decide +kernel⟩,
   ⟨z.wr 5000 [1#8, 9#8], 7, [{ row := 7 * (skSize / 1024) + 7000, source := .addr 4096, lost := false }, { row := 3, source := .addr 0, lost := false }], by decide +kernel⟩,
   ⟨z.setFld (.skCtl 2) SK_CTL_TIDE_EN 0, 2, [], by decide +kernel⟩,
   ⟨z, 7, 96, by decide +kernel⟩,
   ⟨z, 7, 105, 3, by decide +kernel⟩,
   ⟨z, 4095, by decide +kernel⟩⟩

theorem witness_controlInstructionsAndCompletion :
    (∃ (s : State) (q u t0 w : Nat) (th : Thread), RegsOk s ∧ q < 80 ∧ u < 8 ∧ Turns q u t0 0 w th s ∧ s.granted q u
      t0 w = true ∧ iWv w = true ∧ iWkeep w = false ∧ 1 ≤ s.sem q (iWait w) ∧ iSv w = true ∧ iSignal w ≠ iWait w
      ∧ s.sem q (iSignal w) < 0xFFFF ∧ iPred w = false) ∧
    (∃ (s : State) (q u t0 w : Nat) (th : Thread), u < 8 ∧ Issues q u t0 0 w th s) ∧
    (∃ (s : State) (q u t0 w : Nat) (th : Thread), u < 8 ∧ Issues q u t0 1 w th s ∧ bits w 0 2 = th.loops.length) ∧
    (∃ (s : State) (q u t0 w : Nat) (th : Thread), RegsOk s ∧ q < 80 ∧ (∀ i, s.quadInst q = some i → i < 80) ∧ u < 8
      ∧ ((Issues q u t0 1 w th s ∧ bits w 0 2 ≠ th.loops.length) ∨ (Issues q u t0 2 w th s ∧ bits w 0 2 + 1 ≠
      th.loops.length))) ∧
    (∃ (s : State) (q u t0 w : Nat) (th : Thread) (l : LoopLv), u < 8 ∧ Issues q u t0 2 w th s ∧ bits w 0 2 + 1 =
      th.loops.length ∧ th.loops.getLast? = some l) ∧
    (∃ (s : State) (q u t0 w : Nat) (th : Thread), u < 8 ∧ Issues q u t0 3 w th s) ∧
    (∃ (s : State) (q u t0 w : Nat) (th : Thread), u < 8 ∧ Issues q u t0 4 w th s) ∧
    (∃ (s : State) (q u t0 n : Nat) (th : Thread) (i : Issued), RegsOk s ∧ s.thread q u t0 = some th ∧ th.issued[n]?
      = some i ∧ i.isJob = false ∧ i.dry = false ∧ i.tokens = [] ∧ (∀ j, i.sig = some j → s.sem q j < 0xFFFF)) ∧
    (∃ (s : State) (q u t0 n : Nat) (th : Thread) (i : Issued), s.thread q u t0 = some th ∧ th.issued[n]? = some i ∧
      (i.isJob = true ∨ i.dry = true ∨ i.tokens ≠ [])) ∧
    (∃ (s : State) (q u t0 k i : Nat) (th : Thread), RegsOk s ∧ s.thread q u t0 = some th ∧ th.waitAt = some k ∧
      s.quadInst q = some i ∧ s.flag (.schInst i) SCH_INST_RUN = true ∧ s.flag (.schInst i) SCH_INST_ABORTING =
      false ∧ s.fld .schCtl SCH_CTL_WDOG ≠ 0 ∧ k + s.fld .schCtl SCH_CTL_WDOG * 40000 < s.svcTime) ∧
    (∃ (s : State) (q u t0 k : Nat) (th : Thread), s.thread q u t0 = some th ∧ th.waitAt = some k ∧ s.svcTime ≤ k +
      s.fld .schCtl SCH_CTL_WDOG * 40000) :=
  ⟨⟨(runZ 4 3 (iw 0 0 3 0 3 254 255)).setSem 79 254 1, 79, 4, 3, iw 0 0 3 0 3 254 255, thZ, by decide +kernel⟩,
   ⟨runZ 4 3 (iw 0 0 3 0), 79, 4, 3, iw 0 0 3 0, thZ, by decide +kernel⟩,
   ⟨runZ 4 3 (iw 1 0 3 12), 79, 4, 3, iw 1 0 3 12, thZ, by decide +kernel⟩,
   ⟨runZ 4 3 (iw 1 0 3 1), 79, 4, 3, iw 1 0 3 1, thZ, by decide +kernel⟩,
   ⟨runZ 4 3 (iw 2 0 3 0) { pos := 3, loops := [⟨2, 1⟩] }, 79, 4, 3, iw 2 0 3 0, thZ { pos := 3, loops := [⟨2, 1⟩] }, ⟨2, 1⟩, by decide +kernel⟩,
   ⟨runZ 4 3 (iw 3 0 3 (2 ^ 66 + 2 * 2 ^ 34 + 1 * 2 ^ 50)), 79, 4, 3, iw 3 0 3 (2 ^ 66 + 2 * 2 ^ 34 + 1 * 2 ^ 50), thZ, by decide +kernel⟩,
   ⟨runZ 4 3 (iw 4 0 3 0), 79, 4, 3, iw 4 0 3 0, thZ, by decide +kernel⟩,
   ⟨runZ 4 3 0 { issued := [{ op := 0x20, sig := some 7, o := 0 }] }, 79, 4, 3, 0, thZ { issued := [{ op := 0x20, sig := some 7, o := 0 }] }, { op := 0x20, sig := some 7, o := 0 }, by decide +kernel⟩,
   ⟨runZ 4 3 0 { issued := [{ op := 0x90, sig := some 7, tokens := [3] }] }, 79, 4, 3, 0, thZ { issued := [{ op := 0x90, sig := some 7, tokens := [3] }] }, { op := 0x90, sig := some 7, tokens := [3] }, by decide +kernel⟩,
   ⟨{ runZ 4 3 0 { waitAt := some 5 } with svcTime := 10 ^ 8 }, 79, 4, 3, 5, 0, thZ { waitAt := some 5 }, by decide +kernel⟩,
   ⟨runZ 4 3 0 { waitAt := some 0 }, 79, 4, 3, 0, thZ { waitAt := some 0 }, by decide +kernel⟩⟩

theorem witness_semaphoreAndFenceInstructions :
    (∃ (s : State) (q u t0 w : Nat) (th : Thread), RegsOk s ∧ u < 8 ∧ Issues q u t0 16 w th s) ∧
    (∃ (s : State) (q u t0 w : Nat) (th : Thread), RegsOk s ∧ u < 8 ∧ Issues q u t0 17 w th s ∧ 0 ≤ (s.sem q (bits w
      0 8) : Int) + sext 16 (bits w 8 16) ∧ (s.sem q (bits w 0 8) : Int) + sext 16 (bits w 8 16) ≤ 0xFFFF) ∧
    (∃ (s : State) (q u t0 w : Nat) (th : Thread), RegsOk s ∧ q < 80 ∧ (∀ i, s.quadInst q = some i → i < 80) ∧ u < 8
      ∧ Issues q u t0 17 w th s ∧ (s.sem q (bits w 0 8) : Int) + sext 16 (bits w 8 16) < 0) ∧
    (∃ (s : State) (q u t0 w : Nat) (th : Thread), RegsOk s ∧ q < 80 ∧ (∀ i, s.quadInst q = some i → i < 80) ∧ u < 8
      ∧ Issues q u t0 17 w th s ∧ 0xFFFF < (s.sem q (bits w 0 8) : Int) + sext 16 (bits w 8 16)) ∧
    (∃ (s : State) (q u t0 w : Nat) (th : Thread), RegsOk s ∧ u < 8 ∧ Issues q u t0 18 w th s ∧ bits w 8 16 ≤ s.sem
      q (bits w 0 8)) ∧
    (∃ (s : State) (q u t0 w : Nat) (th : Thread), u < 8 ∧ Fits q u t0 0x12 w th s ∧ s.sem q (bits w 0 8) < bits w 8
      16) ∧
    (∃ (s : State) (q u t0 w : Nat) (th : Thread), u < 8 ∧ Issues q u t0 19 w th s ∧ s.quadGone (bits w 25 7) =
      false) ∧
    (∃ (s : State) (q u t0 w : Nat) (th : Thread), RegsOk s ∧ q < 80 ∧ (∀ i, s.quadInst q = some i → i < 80) ∧ u < 8
      ∧ Issues q u t0 19 w th s ∧ s.quadGone (bits w 25 7) = true) ∧
    (∃ (s : State) (k : Nat) (m : SigMsg), RegsOk s ∧ s.ctl.sigs[k]? = some m ∧ m.q < 80 ∧ m.sem < 256 ∧ (s.quadInst
      m.q).isSome = true ∧ (m.peer2 = true ∨ s.fld (.schQuad m.q) SCH_QUAD_EPOCH = m.epoch) ∧ s.sem m.q m.sem +
      m.n ≤ 0xFFFF) ∧
    (∃ (s : State) (k : Nat) (m : SigMsg), RegsOk s ∧ s.ctl.sigs[k]? = some m ∧ m.q < 80 ∧ m.sem < 256 ∧ (s.quadInst
      m.q).isSome = true ∧ (∀ i, s.quadInst m.q = some i → i < 80) ∧ (m.peer2 = true ∨ s.fld (.schQuad m.q)
      SCH_QUAD_EPOCH = m.epoch) ∧ 0xFFFF < s.sem m.q m.sem + m.n) ∧
    (∃ (s : State) (k : Nat) (m : SigMsg), RegsOk s ∧ s.ctl.sigs[k]? = some m ∧ isQuadUnit m.src = true ∧ m.q < 80 ∧
      ((s.quadInst m.q).isSome = false ∨ (m.peer2 = false ∧ s.fld (.schQuad m.q) SCH_QUAD_EPOCH ≠ m.epoch))) ∧
    (∃ (s : State) (q u t0 w : Nat) (th : Thread), u < 8 ∧ Issues q u t0 32 w th s ∧ s.unitRange q (bits w 0 40)
      (bits w 40 32) = true) ∧
    (∃ (s : State) (q u t0 w : Nat) (th : Thread), u < 8 ∧ Issues q u t0 33 w th s ∧ s.unitRange q (bits w 0 40)
      (bits w 40 32) = true) ∧
    (∃ (s : State) (q u t0 w : Nat) (th : Thread), RegsOk s ∧ q < 80 ∧ (∀ i, s.quadInst q = some i → i < 80) ∧ u < 8
      ∧ (Issues q u t0 0x20 w th s ∨ Issues q u t0 0x21 w th s) ∧ s.unitRange q (bits w 0 40) (bits w 40 32) =
      false) :=
  ⟨⟨runZ 4 3 (iw 0x10 1 3 0xFFFFFF), 79, 4, 3, iw 0x10 1 3 0xFFFFFF, thZ, by decide +kernel⟩,
   ⟨(runZ 4 3 (iw 0x11 1 3 0xFFFE07)).setSem 79 7 2, 79, 4, 3, iw 0x11 1 3 0xFFFE07, thZ, by decide +kernel⟩,
   ⟨(runZ 4 3 (iw 0x11 1 3 0xFFFE07)).setSem 79 7 1, 79, 4, 3, iw 0x11 1 3 0xFFFE07, thZ, by decide +kernel⟩,
   ⟨(runZ 4 3 (iw 0x11 1 3 0x7FFF07)).setSem 79 7 0x8001, 79, 4, 3, iw 0x11 1 3 0x7FFF07, thZ, by decide +kernel⟩,
   ⟨(runZ 4 3 (iw 0x12 1 3 0x1000307)).setSem 79 7 4, 79, 4, 3, iw 0x12 1 3 0x1000307, thZ, by decide +kernel⟩,
   ⟨runZ 4 3 (iw 0x12 1 3 0x1000307), 79, 4, 3, iw 0x12 1 3 0x1000307, thZ, by decide +kernel⟩,
   ⟨runZ 4 3 (iw 0x13 1 3 (0x307 + 79 * 2 ^ 25)), 79, 4, 3, iw 0x13 1 3 (0x307 + 79 * 2 ^ 25), thZ, by decide +kernel⟩,
   ⟨{ runZ 4 3 (iw 0x13 1 3 (0x307 + 78 * 2 ^ 25)) with pwr := { (runZ 4 3 0).pwr with retired := [78] } }, 79, 4, 3, iw 0x13 1 3 (0x307 + 78 * 2 ^ 25), thZ, by decide +kernel⟩,
   ⟨{ runZ 4 3 0 with ctl := { (runZ 4 3 0).ctl with sigs := [⟨79, 7, 65535, 0, 1, false⟩] } }, 0, ⟨79, 7, 65535, 0, 1, false⟩, by decide +kernel⟩,
   ⟨{ (runZ 4 3 0).setSem 79 7 1 with ctl := { (runZ 4 3 0).ctl with sigs := [⟨79, 7, 65535, 0, 1, false⟩] } }, 0, ⟨79, 7, 65535, 0, 1, false⟩, by decide +kernel⟩,
   ⟨{ runZ 4 3 0 with ctl := { (runZ 4 3 0).ctl with sigs := [⟨79, 7, 65535, 2, 1, false⟩] } }, 0, ⟨79, 7, 65535, 2, 1, false⟩, by decide +kernel⟩,
   ⟨(runZ 4 3 (iw 0x20 2 3 (2 ^ 40 + 5))).setOwner 2 0 5, 79, 4, 3, iw 0x20 2 3 (2 ^ 40 + 5), thZ, by decide +kernel⟩,
   ⟨{ (runZ 4 3 (iw 0x21 2 3 (255 * 2 ^ 40 + 256))).setOwner 2 0 5 with net := { lines := [⟨19, 1, []⟩, ⟨19, 2, []⟩, ⟨18, 1, []⟩] } }, 79, 4, 3, iw 0x21 2 3 (255 * 2 ^ 40 + 256), thZ, by decide +kernel⟩,
   ⟨runZ 4 3 (iw 0x21 2 3 (255 * 2 ^ 40 + 256)), 79, 4, 3, iw 0x21 2 3 (255 * 2 ^ 40 + 256), thZ, by decide +kernel⟩⟩

theorem witness_matrixProducts :
    (∃ (s : State) (q u t0 w o nn : Nat) (th th1 : Thread) (ii : Issued) (sg : Option Nat) (m n kk za zb zc zd :
      Nat) (a b : OpForm) (tl : Tile) (ab as_ bb bs_ : List Byte), RegsOk s ∧ u < 4 ∧ ((Issues q u t0 0x30 w th
      s ∧ o = bits w 0 92 ∧ sg = none ∧ th1 = past th) ∨ (s.thread q u t0 = some th ∧ s.unitOn q u = true ∧
      th.dryOf 0x30 = some (nn, ii) ∧ o = ii.o ∧ sg = ii.sig ∧ ii.got = [] ∧ ii.k = 0 ∧ th1 =
      { th with issued := th.issued.eraseIdx nn })) ∧ pairForms o = some (a, b) ∧ m = bits o 24 7 + 1 ∧ n = bits
      o 31 7 + 1 ∧ kk = 32 * (bits o 38 11 + 1) ∧ ¬ (bits o 59 1 = 1 ∧ chunkOf a (bits o 60 2) = some 256) ∧
      tileOk u (bits o 49 1) (bits o 50 8) (bits o 59 1 = 1) m = true ∧ tl = ⟨granId q u (bits o 49 1) (bits o
      50 8), bits o 59 1 = 1, m⟩ ∧ (za = ((slabLens kk).map fun len => m * a.f.bytes len).sum) ∧ (zb =
      ((slabLens kk).map fun len => len * b.f.bytes n).sum) ∧ (zc = if a.scl = 0 then 0 else ((slabLens kk).map
      fun len => m * (len / 32)).sum) ∧ (zd = if b.scl = 0 then 0 else ((slabLens kk).map fun len => n * (len /
      32)).sum) ∧ (usedPorts [(portOf q (bits o 12 6), za), (portOf q (bits o 12 6) + 1, zc), (portOf q (bits o
      18 6), zb), (portOf q (bits o 18 6) + 1, zd)]).Nodup ∧ (s.stream (portOf q (bits o 12 6))).runs =
      [{ left := ab, ended := true, full := true, pair := decide (zc ≠ 0) }] ∧ ab.length = za ∧ (zc ≠ 0 →
      (s.stream (portOf q (bits o 12 6) + 1)).runs =
      [{ left := as_, ended := true, full := true, pair := false }]) ∧ as_.length = zc ∧ (s.stream (portOf q
      (bits o 18 6))).runs = [{ left := bb, ended := true, full := true, pair := decide (zd ≠ 0) }] ∧ bb.length
      = zb ∧ (zd ≠ 0 → (s.stream (portOf q (bits o 18 6) + 1)).runs =
      [{ left := bs_, ended := true, full := true, pair := false }]) ∧ bs_.length = zd ∧ (twf (fun _ => 0)
      s.eng.acc = true) ∧ (twf (fun _ => 0) s.eng.accFmt = true) ∧ (twf (fun _ => ({} : StreamSt)) s.fry.streams
      = true)) ∧
    (∃ (s : State) (q u t0 w m n kk : Nat) (th : Thread) (a b : OpForm) (tl : Tile) (ab bb : List Byte), RegsOk s ∧
      u < 4 ∧ Issues q u t0 0x30 w th s ∧ pairForms (bits w 0 92) = some (a, b) ∧ a.scl = 0 ∧ b.scl = 0 ∧ m =
      bits w 24 7 + 1 ∧ n = bits w 31 7 + 1 ∧ kk = 32 * (bits w 38 11 + 1) ∧ kk ≤ 128 ∧ ¬ (bits w 59 1 = 1 ∧
      chunkOf a (bits w 60 2) = some 256) ∧ tileOk u (bits w 49 1) (bits w 50 8) (bits w 59 1 = 1) m = true ∧ tl
      = ⟨granId q u (bits w 49 1) (bits w 50 8), bits w 59 1 = 1, m⟩ ∧ portOf q (bits w 12 6) ≠ portOf q (bits w
      18 6) ∧ (s.stream (portOf q (bits w 12 6))).runs =
      [{ left := ab, ended := true, full := true, pair := false }] ∧ ab.length = m * a.f.bytes kk ∧ (s.stream
      (portOf q (bits w 18 6))).runs = [{ left := bb, ended := true, full := true, pair := false }] ∧ bb.length
      = kk * b.f.bytes n ∧ (twf (fun _ => 0) s.eng.acc = true) ∧ (twf (fun _ => 0) s.eng.accFmt = true) ∧ (twf
      (fun _ => ({} : StreamSt)) s.fry.streams = true)) ∧
    (∃ (s : State) (q u t0 w o nn : Nat) (th th1 : Thread) (ii : Issued) (sg : Option Nat) (m n ks zb zd : Nat) (a b
      : OpForm) (ab as_ bb bs_ : List Byte) (es : List Nat), RegsOk s ∧ u < 4 ∧ ((Issues q u t0 0x31 w th s ∧ o
      = bits w 0 92 ∧ sg = none ∧ th1 = past th) ∨ (s.thread q u t0 = some th ∧ s.unitOn q u = true ∧ th.dryOf
      0x31 = some (nn, ii) ∧ o = ii.o ∧ sg = ii.sig ∧ ii.got = [] ∧ ii.k = 0 ∧ th1 =
      { th with issued := th.issued.eraseIdx nn })) ∧ pairForms o = some (a, b) ∧ m = bits o 24 7 + 1 ∧ n = bits
      o 31 7 + 1 ∧ ks = 32 * (bits o 38 2 + 1) ∧ es.length = bits o 40 16 + 1 ∧ ¬ (bits o 57 1 = 1 ∧ chunkOf a
      (bits o 58 2) = some 256) ∧ (bits o 56 1 = 0 ∨ u = 0) ∧ (∀ e ∈ es, bits e 0 7 < m ∧ bits e 15 5 < granRows
      (bits o 57 1 = 1) ∧ e < 2 ^ 21) ∧ ab.length = m * a.f.bytes ks ∧ (as_.length = if a.scl = 0 then 0 else m
      * (ks / 32)) ∧ zb = ks * b.f.bytes n ∧ (zd = if b.scl = 0 then 0 else n * (ks / 32)) ∧ bb.length =
      es.length * zb ∧ bs_.length = es.length * zd ∧ (usedPorts [(portOf q (bits o 12 6), ab.length), (portOf q
      (bits o 12 6) + 1, as_.length), (portOf q (bits o 18 6), zb), (portOf q (bits o 18 6) + 1, zd), (portOf q
      (bits o 60 6), 4)]).Nodup ∧ (s.stream (portOf q (bits o 12 6))).runs =
      [{ left := ab, ended := true, full := true, pair := decide (as_ ≠ []) }] ∧ (as_ ≠ [] → (s.stream (portOf q
      (bits o 12 6) + 1)).runs = [{ left := as_, ended := true, full := true, pair := false }]) ∧ (s.stream
      (portOf q (bits o 18 6))).runs = [{ left := bb, ended := true, full := true, pair := decide (zd ≠ 0) }] ∧
      (zd ≠ 0 → (s.stream (portOf q (bits o 18 6) + 1)).runs =
      [{ left := bs_, ended := true, full := true, pair := false }]) ∧ (s.stream (portOf q (bits o 60 6))).runs
      = [{ left := es.flatMap (leBytes 4), ended := true, full := true, pair := false }] ∧ (twf (fun _ => 0)
      s.eng.acc = true) ∧ (twf (fun _ => 0) s.eng.accFmt = true) ∧ (twf (fun _ => ({} : StreamSt)) s.fry.streams
      = true)) ∧
    (∃ (s : State) (q u t0 w : Nat) (th : Thread) (a b : OpForm), u < 4 ∧ Issues q u t0 48 w th s ∧ pairForms (bits
      w 0 92) = some (a, b) ∧ ¬ (bits w 59 1 = 1 ∧ chunkOf a (bits w 60 2) = some 256) ∧ tileOk u (bits w 49 1)
      (bits w 50 8) (bits w 59 1 = 1) (bits w 24 7 + 1) = true ∧ (s.stream (portOf q (bits w 12 6))).runs = [] ∧
      s.streamHalted (portOf q (bits w 12 6)) = false) ∧
    (∃ (s : State) (q u t0 w : Nat) (th : Thread) (a b : OpForm), u < 4 ∧ Issues q u t0 49 w th s ∧ pairForms (bits
      w 0 92) = some (a, b) ∧ ¬ (bits w 57 1 = 1 ∧ chunkOf a (bits w 58 2) = some 256) ∧ (bits w 56 1 = 0 ∨ u =
      0) ∧ (s.stream (portOf q (bits w 12 6))).runs = [] ∧ s.streamHalted (portOf q (bits w 12 6)) = false) ∧
    (∃ (s : State) (q u t0 w : Nat) (th : Thread), RegsOk s ∧ q < 80 ∧ (∀ i, s.quadInst q = some i → i < 80) ∧ u < 4
      ∧ Issues q u t0 0x30 w th s ∧ pairForms (bits w 0 92) = none) ∧
    (∃ (s : State) (q u t0 w : Nat) (th : Thread), RegsOk s ∧ q < 80 ∧ (∀ i, s.quadInst q = some i → i < 80) ∧ u < 4
      ∧ Issues q u t0 0x31 w th s ∧ pairForms (bits w 0 92) = none) ∧
    (∃ (s : State) (q u t0 w : Nat) (th : Thread), RegsOk s ∧ q < 80 ∧ (∀ i, s.quadInst q = some i → i < 80) ∧ u < 4
      ∧ Issues q u t0 0x30 w th s ∧ pairForms (bits w 0 92) ≠ none ∧ bits w 59 1 = 0 ∧ tileOk u (bits w 49 1)
      (bits w 50 8) false (bits w 24 7 + 1) = false) ∧
    (∃ (s : State) (q u t0 w : Nat) (th : Thread), RegsOk s ∧ q < 80 ∧ (∀ i, s.quadInst q = some i → i < 80) ∧ u < 4
      ∧ Issues q u t0 0x31 w th s ∧ pairForms (bits w 0 92) ≠ none ∧ bits w 57 1 = 0 ∧ bits w 56 1 = 1 ∧ u ≠ 0) ∧
    (∃ (s : State) (q u t0 w e : Nat) (th : Thread) (a b : OpForm) (ab bb : List Byte), RegsOk s ∧ q < 80 ∧ (∀ i,
      s.quadInst q = some i → i < 80) ∧ u < 4 ∧ Issues q u t0 49 w th s ∧ pairForms (bits w 0 92) = some (a, b)
      ∧ a.scl = 0 ∧ b.scl = 0 ∧ ¬ (bits w 57 1 = 1 ∧ chunkOf a (bits w 58 2) = some 256) ∧ (bits w 56 1 = 0 ∨ u
      = 0) ∧ e < 2 ^ 32 ∧ (bits w 24 7 < bits e 0 7 ∨ granRows (bits w 57 1 = 1) ≤ bits e 15 5 ∨ bits e 21 11 ≠
      0) ∧ [portOf q (bits w 12 6), portOf q (bits w 18 6), portOf q (bits w 60 6)].Nodup ∧ (s.stream (portOf q
      (bits w 12 6))).runs = [{ left := ab, ended := true, full := true, pair := false }] ∧ ab.length = (bits w
      24 7 + 1) * a.f.bytes (32 * (bits w 38 2 + 1)) ∧ (s.stream (portOf q (bits w 18 6))).runs =
      [{ left := bb, ended := true, full := true, pair := false }] ∧ bb.length = 32 * (bits w 38 2 + 1) *
      b.f.bytes (bits w 31 7 + 1) ∧ (s.stream (portOf q (bits w 60 6))).runs =
      [{ left := leBytes 4 e, ended := true, full := true, pair := false }]) ∧
    (∃ (s : State) (q u t0 w : Nat) (th : Thread) , RegsOk s ∧ q < 80 ∧ (∀ i, s.quadInst q = some i → i < 80) ∧ u <
      4 ∧ Issues q u t0 0x30 w th s ∧ pairForms (bits w 0 92) ≠ none ∧ (¬ (bits w 59 1 = 1 ∧ ((pairForms (bits w
      0 92)).bind fun a => chunkOf a.1 (bits w 60 2)) = some 256)) ∧ tileOk u (bits w 49 1) (bits w 50 8) (bits
      w 59 1 = 1) (bits w 24 7 + 1) = true ∧ withinDay s.eng.meErr (4 * q + u) s.svcTime = false ∧ (matTile 0x30
      (bits w 0 92)).2.1 = bits w 50 8 ∧ s.eng.spilled = []) ∧
    (∃ (s : State) (q u t0 w : Nat) (th : Thread) , RegsOk s ∧ q < 80 ∧ (∀ i, s.quadInst q = some i → i < 80) ∧ u <
      4 ∧ Issues q u t0 0x30 w th s ∧ pairForms (bits w 0 92) ≠ none ∧ (¬ (bits w 59 1 = 1 ∧ ((pairForms (bits w
      0 92)).bind fun a => chunkOf a.1 (bits w 60 2)) = some 256)) ∧ tileOk u (bits w 49 1) (bits w 50 8) (bits
      w 59 1 = 1) (bits w 24 7 + 1) = true ∧ withinDay s.eng.meErr (4 * q + u) s.svcTime = false ∧ (matTile 0x30
      (bits w 0 92)).2.1 = bits w 50 8 ∧ s.eng.spilled = []) :=
  ⟨by (refine ⟨mmZ 0x30 mmW [1#8, 2#8] [3#8, 4#8], 79, 3, 3, mmW, bits mmW 0 92, 0, thZ, past thZ, { op := 0, sig := none }, none, 1, 1, 32, 32, 32, 0, 0, ⟨.int8, 0⟩, ⟨.int8, 0⟩, ⟨granId 79 3 0 8, false, 1⟩, [1#8, 2#8] ++ List.replicate 30 255#8, [], [3#8, 4#8] ++ List.replicate 30 255#8, [], ?_⟩; and_intros <;> decide +kernel),
   by (refine ⟨mmZ 0x30 mmW [1#8, 2#8] [3#8, 4#8], 79, 3, 3, mmW, 1, 1, 32, thZ, ⟨.int8, 0⟩, ⟨.int8, 0⟩, ⟨granId 79 3 0 8, false, 1⟩, [1#8, 2#8] ++ List.replicate 30 255#8, [3#8, 4#8] ++ List.replicate 30 255#8, ?_⟩; and_intros <;> decide +kernel),
   by (refine ⟨mmX, 79, 3, 3, mxV, bits mxV 0 92, 0, thZ, past thZ, { op := 0, sig := none }, none, 1, 1, 32, 32, 0, ⟨.int8, 0⟩, ⟨.int8, 0⟩, [1#8, 2#8] ++ List.replicate 30 255#8, [], ([3#8, 4#8] ++ List.replicate 30 255#8) ++ ([1#8, 2#8] ++ List.replicate 30 255#8), [], [3 * 128 + 7 * 2 ^ 15, 3 * 128 + 7 * 2 ^ 15], ?_⟩; and_intros <;> decide +kernel),
   ⟨mmZ 0x30 mmW [] [] |>.setStream (portOf 79 2) {}, 79, 3, 3, mmW, thZ, ⟨.int8, 0⟩, ⟨.int8, 0⟩, by decide +kernel⟩,
   ⟨mmZ 0x31 mxW [] [] |>.setStream (portOf 79 2) {}, 79, 3, 3, mxW, thZ, ⟨.int8, 0⟩, ⟨.int8, 0⟩, by decide +kernel⟩,
   ⟨runZ 3 3 (iw 0x30 3 3 0x71), 79, 3, 3, iw 0x30 3 3 0x71, thZ, by decide +kernel⟩,
   ⟨runZ 3 3 (iw 0x31 3 3 0x71), 79, 3, 3, iw 0x31 3 3 0x71, thZ, by decide +kernel⟩,
   ⟨runZ 3 3 (mmW + 2 ^ 49), 79, 3, 3, mmW + 2 ^ 49, thZ, by decide +kernel⟩,
   ⟨runZ 3 3 (mxW + 2 ^ 56), 79, 3, 3, mxW + 2 ^ 56, thZ, by decide +kernel⟩,
   by (refine ⟨mmZ 0x31 mxW [1#8, 2#8] [3#8, 4#8] |>.setStream (portOf 79 6) { runs := [{ left := leBytes 4 (2 ^ 21), ended := true, full := true }] }, 79, 3, 3, mxW, 2 ^ 21, thZ, ⟨.int8, 0⟩, ⟨.int8, 0⟩, [1#8, 2#8] ++ List.replicate 30 255#8, [3#8, 4#8] ++ List.replicate 30 255#8, ?_⟩; and_intros <;> decide +kernel),
   ⟨runZ 3 3 mmW, 79, 3, 3, mmW, thZ, by decide +kernel⟩,
   ⟨runZ 3 3 mmW, 79, 3, 3, mmW, thZ, by decide +kernel⟩⟩

theorem witness_tilesDrainSpillReloadAndTransfer :
    (∃ (s : State) (q u t0 w m n : Nat) (th : Thread) (f : Fm) (tl : Tile) (d : Drained), MemOk s ∧ RegsOk s ∧ u < 4
      ∧ Issues q u t0 0x32 w th s ∧ fmOf (bits w 26 4) = some f ∧ m = bits w 9 7 + 1 ∧ n = bits w 16 7 + 1 ∧ tl
      = ⟨granId q u (bits w 0 1) (bits w 1 8), bits w 23 1 = 1, m⟩ ∧ tileOk u (bits w 0 1) (bits w 1 8) (bits w
      23 1 = 1) m = true ∧ s.fmtAgrees tl = true ∧ (bits w 32 1 = 1 → f.width ≠ 16 ∧ f.width ≠ 32) ∧ (bits w 24
      2 = 1 → bits w 23 1 = 0 ∧ (f = .fp32 ∨ f = .bf16) ∧ bits w 30 2 = 0) ∧ (bits w 30 2 = 1 → s.flag
      (.meSrctx8 (16 * q + 4 * u + t0)) ME_SRCTX8_VALID = true) ∧ (bits w 24 2 = 2 ∨ bits w 30 2 = 2 ∨ bits w 33
      2 ≠ 0 → s.unitRange q (spadAt q (4096 * bits w 38 14)) 4096 = true) ∧ (∀ b < 64, s.bankSt (q / 4) b = 0) ∧
      s.net.onWipe = [] ∧ (bits w 24 2 = 2 ∨ bits w 30 2 = 2 → paramOk (s.rd (spadAt q (4096 * bits w 38 14))
      1600) = true) ∧ (d.data = (drainTile { q, u, t := t0, op := 0x32, o := bits w 0 92, sig := none } f (if
      bits w 24 2 = 2 ∨ bits w 30 2 = 2 then s.rd (spadAt q (4096 * bits w 38 14)) 1600 else []) (if bits w 33 2
      = 0 then [] else s.rd (spadAt q (4096 * bits w 38 14 + 2048)) 2048) (s.drainSeed
      { q, u, t := t0, op := 0x32, o := bits w 0 92, sig := none } (if bits w 24 2 = 2 ∨ bits w 30 2 = 2 then
      s.rd (spadAt q (4096 * bits w 38 14)) 1600 else [])) (s.tileRows tl n)).data) ∧ (d.recs = (drainTile
      { q, u, t := t0, op := 0x32, o := bits w 0 92, sig := none } f (if bits w 24 2 = 2 ∨ bits w 30 2 = 2 then
      s.rd (spadAt q (4096 * bits w 38 14)) 1600 else []) (if bits w 33 2 = 0 then [] else s.rd (spadAt q (4096
      * bits w 38 14 + 2048)) 2048) (s.drainSeed { q, u, t := t0, op := 0x32, o := bits w 0 92, sig := none }
      (if bits w 24 2 = 2 ∨ bits w 30 2 = 2 then s.rd (spadAt q (4096 * bits w 38 14)) 1600 else []))
      (s.tileRows tl n)).recs) ∧ (d.errs = (drainTile
      { q, u, t := t0, op := 0x32, o := bits w 0 92, sig := none } f (if bits w 24 2 = 2 ∨ bits w 30 2 = 2 then
      s.rd (spadAt q (4096 * bits w 38 14)) 1600 else []) (if bits w 33 2 = 0 then [] else s.rd (spadAt q (4096
      * bits w 38 14 + 2048)) 2048) (s.drainSeed { q, u, t := t0, op := 0x32, o := bits w 0 92, sig := none }
      (if bits w 24 2 = 2 ∨ bits w 30 2 = 2 then s.rd (spadAt q (4096 * bits w 38 14)) 1600 else []))
      (s.tileRows tl n)).errs)) ∧
    (∃ (s : State) (q u t0 w m n : Nat) (th : Thread) (f : Fm) (tl : Tile), u < 4 ∧ Issues q u t0 0x32 w th s ∧ fmOf
      (bits w 26 4) = some f ∧ m = bits w 9 7 + 1 ∧ n = bits w 16 7 + 1 ∧ tl = ⟨granId q u (bits w 0 1) (bits w
      1 8), bits w 23 1 = 1, m⟩ ∧ tileOk u (bits w 0 1) (bits w 1 8) (bits w 23 1 = 1) m = true ∧ s.fmtAgrees tl
      = true ∧ bits w 24 2 = 0 ∧ bits w 30 2 = 0 ∧ bits w 32 1 = 0 ∧ bits w 33 2 = 0) ∧
    (∃ (s : State) (q u t0 w o : Nat) (th : Thread) (tl : Tile), MemOk s ∧ u < 4 ∧ Issues q u t0 0x33 w th s ∧ tl =
      ⟨granId q u (bits w 0 1) (bits w 1 8), bits w 16 1 = 1, bits w 9 7 + 1⟩ ∧ tileOk u (bits w 0 1) (bits w 1
      8) (bits w 16 1 = 1) (bits w 9 7 + 1) = true ∧ s.fmtAgrees tl = true ∧ o = 512 * bits w 17 17 ∧ (o + 128 *
      (if tl.fp32 then 4 else 16) * tl.m ≤ spSize) ∧ (s.unitRange q (spadAt q o) (128 * (if tl.fp32 then 4 else
      16) * tl.m) = true) ∧ (∀ b < 64, s.bankSt (q / 4) b = 0) ∧ s.net.onWipe = []) ∧
    (∃ (s : State) (q u t0 w o : Nat) (th : Thread) (tl : Tile), u < 4 ∧ Issues q u t0 0x34 w th s ∧ tl = ⟨granId q
      u (bits w 0 1) (bits w 1 8), bits w 16 1 = 1, bits w 9 7 + 1⟩ ∧ tileOk u (bits w 0 1) (bits w 1 8) (bits w
      16 1 = 1) (bits w 9 7 + 1) = true ∧ s.fmtAgrees tl = true ∧ (twf (fun _ => 0) s.eng.acc = true) ∧ (twf
      (fun _ => 0) s.eng.accFmt = true) ∧ o = 512 * bits w 17 17 ∧ (o + 128 * (if tl.fp32 then 4 else 16) * tl.m
      ≤ spSize) ∧ (s.unitRange q (spadAt q o) (128 * (if tl.fp32 then 4 else 16) * tl.m) = true) ∧ (∀ b < 64,
      s.bankSt (q / 4) b = 0) ∧ s.net.onWipe = []) ∧
    (∃ (s : State) (q u t0 w m n : Nat) (th : Thread) (tl : Tile), u < 4 ∧ Issues q u t0 0x35 w th s ∧ m = bits w 9
      7 + 1 ∧ n = bits w 16 7 + 1 ∧ tl = ⟨granId q u (bits w 0 1) (bits w 1 8), false, m⟩ ∧ tileOk u (bits w 0
      1) (bits w 1 8) false m = true ∧ s.fmtAgrees tl = true) ∧
    (∃ (s : State) (q u t0 w : Nat) (th : Thread) (fp : Bool), RegsOk s ∧ q < 80 ∧ (∀ i, s.quadInst q = some i → i <
      80) ∧ u < 4 ∧ (iOpcode w = 0x32 ∨ iOpcode w = 0x33 ∨ iOpcode w = 0x34 ∨ iOpcode w = 0x35) ∧ Issues q u t0
      (iOpcode w) w th s ∧ (fp = decide (if iOpcode w = 0x32 then bits w 23 1 = 1 else if iOpcode w = 0x35 then
      False else bits w 16 1 = 1)) ∧ tileOk u (bits w 0 1) (bits w 1 8) fp (bits w 9 7 + 1) = false) ∧
    (∃ (s : State) (q u t0 w : Nat) (th : Thread) (fp : Bool), RegsOk s ∧ q < 80 ∧ (∀ i, s.quadInst q = some i → i <
      80) ∧ u < 4 ∧ (iOpcode w = 0x32 ∨ iOpcode w = 0x33 ∨ iOpcode w = 0x34 ∨ iOpcode w = 0x35) ∧ Issues q u t0
      (iOpcode w) w th s ∧ (fp = decide (if iOpcode w = 0x32 then bits w 23 1 = 1 else if iOpcode w = 0x35 then
      False else bits w 16 1 = 1)) ∧ tileOk u (bits w 0 1) (bits w 1 8) fp (bits w 9 7 + 1) = true ∧ s.fmtAgrees
      ⟨granId q u (bits w 0 1) (bits w 1 8), fp, bits w 9 7 + 1⟩ = false) ∧
    (∃ (s : State) (q u t0 w : Nat) (th : Thread) (tl : Tile), RegsOk s ∧ q < 80 ∧ (∀ i, s.quadInst q = some i → i <
      80) ∧ u < 4 ∧ (Issues q u t0 0x33 w th s ∨ Issues q u t0 0x34 w th s) ∧ tl = ⟨granId q u (bits w 0 1)
      (bits w 1 8), bits w 16 1 = 1, bits w 9 7 + 1⟩ ∧ tileOk u (bits w 0 1) (bits w 1 8) (bits w 16 1 = 1)
      (bits w 9 7 + 1) = true ∧ s.fmtAgrees tl = true ∧ (s.unitRange q (spadAt q (512 * bits w 17 17)) (128 *
      (if tl.fp32 then 4 else 16) * tl.m) = false)) ∧
    (∃ (s : State) (q u t0 w : Nat) (th : Thread) (f : Fm) (tl : Tile), RegsOk s ∧ q < 80 ∧ (∀ i, s.quadInst q =
      some i → i < 80) ∧ u < 4 ∧ Issues q u t0 0x32 w th s ∧ fmOf (bits w 26 4) = some f ∧ tl = ⟨granId q u
      (bits w 0 1) (bits w 1 8), bits w 23 1 = 1, bits w 9 7 + 1⟩ ∧ tileOk u (bits w 0 1) (bits w 1 8) (bits w
      23 1 = 1) (bits w 9 7 + 1) = true ∧ s.fmtAgrees tl = true ∧ bits w 32 1 = 0 ∧ bits w 24 2 ≠ 1 ∧ bits w 30
      2 = 1 ∧ s.flag (.meSrctx8 (16 * q + 4 * u + t0)) ME_SRCTX8_VALID = false) ∧
    (∃ (s : State) (q u t0 w : Nat) (th : Thread) (f : Fm) (tl : Tile), RegsOk s ∧ q < 80 ∧ (∀ i, s.quadInst q =
      some i → i < 80) ∧ u < 4 ∧ Issues q u t0 0x32 w th s ∧ fmOf (bits w 26 4) = some f ∧ tl = ⟨granId q u
      (bits w 0 1) (bits w 1 8), bits w 23 1 = 1, bits w 9 7 + 1⟩ ∧ tileOk u (bits w 0 1) (bits w 1 8) (bits w
      23 1 = 1) (bits w 9 7 + 1) = true ∧ s.fmtAgrees tl = true ∧ bits w 32 1 = 0 ∧ (bits w 24 2 = 2 ∨ (bits w
      24 2 = 0 ∧ bits w 30 2 = 2)) ∧ bits w 30 2 ≠ 1 ∧ s.unitRange q (spadAt q (4096 * bits w 38 14)) 4096 =
      true ∧ (∀ b < 64, s.bankSt (q / 4) b = 0) ∧ s.net.onWipe = [] ∧ paramOk (s.rd (spadAt q (4096 * bits w 38
      14)) 1600) = false) :=
  ⟨by (refine ⟨(runZ 3 3 drW).setAccs [(4096 * granId 79 3 0 8, 5 * 2 ^ 64), (4096 * granId 79 3 0 8 + 128, 7 * 2 ^ 64)], 79, 3, 3, drW, 2, 3, thZ, .int8, ⟨granId 79 3 0 8, false, 2⟩, drD .int8 drW 2, ?_⟩; and_intros <;> decide +kernel),
   ⟨(runZ 3 3 drW).setAccs [(4096 * granId 79 3 0 8, 5 * 2 ^ 64), (4096 * granId 79 3 0 8 + 128, 7 * 2 ^ 64)], 79, 3, 3, drW, 2, 3, thZ, .int8, ⟨granId 79 3 0 8, false, 2⟩, by decide +kernel⟩,
   ⟨((runZ 3 3 spW).setAccs [(4096 * granId 79 3 0 8, 5 * 2 ^ 64), (4096 * granId 79 3 0 8 + 128, 7 * 2 ^ 64)]).setOwner 1 1216 5, 79, 3, 3, spW, 1024, thZ, ⟨granId 79 3 0 8, false, 2⟩, by decide +kernel⟩,
   ⟨((runZ 3 3 reW).setOwner 1 1216 5).wr (spadAt 79 1024) [5#8], 79, 3, 3, reW, 1024, thZ, ⟨granId 79 3 0 8, true, 2⟩, by decide +kernel⟩,
   ⟨(runZ 3 3 xfW).setAccs [(4096 * granId 79 3 0 8, 5 * 2 ^ 64), (4096 * granId 79 3 0 8 + 128, 7 * 2 ^ 64)], 79, 3, 3, xfW, 2, 3, thZ, ⟨granId 79 3 0 8, false, 2⟩, by decide +kernel⟩,
   ⟨runZ 3 3 (drW + 1), 79, 3, 3, drW + 1, thZ, false, by decide +kernel⟩,
   ⟨let r := runZ 3 3 (drW); { r with eng := { r.eng with accFmt := [(granId 79 3 0 8, 2)] } }, 79, 3, 3, drW, thZ, false, by decide +kernel⟩,
   ⟨runZ 3 3 spW, 79, 3, 3, spW, thZ, ⟨granId 79 3 0 8, false, 2⟩, by decide +kernel⟩,
   ⟨runZ 3 3 (drW + 2 ^ 30), 79, 3, 3, drW + 2 ^ 30, thZ, .int8, ⟨granId 79 3 0 8, false, 2⟩, by decide +kernel⟩,
   ⟨((runZ 3 3 (drW + 2 ^ 25)).setOwner 1 1216 5).wr (spadAt 79 0) [9#8], 79, 3, 3, drW + 2 ^ 25, thZ, .int8, ⟨granId 79 3 0 8, false, 2⟩, by decide +kernel⟩⟩

theorem witness_stepContextOfAThread :
    (∃ (s : State) (q u t0 w : Nat) (th : Thread), RegsOk s ∧ q < 80 ∧ t0 < 4 ∧ u < 4 ∧ Issues q u t0 54 w th s) ∧
    (∃ (s : State) (q u t0 w : Nat) (th : Thread), u < 4 ∧ s.thread q u t0 = some th ∧ th.dryOf 0x36 = none ∧
      s.nextWord q u t0 = some w ∧ s.unitOn q u = true ∧ iOpcode w = 0x36 ∧ iClass w = 3 ∧ iThread w = t0 ∧ bits
      w 71 21 ≠ 0) :=
  ⟨⟨runZ 3 3 (iw 0x36 3 3 (5 * 2 ^ 64 + 77)), 79, 3, 3, iw 0x36 3 3 (5 * 2 ^ 64 + 77), thZ, by decide +kernel⟩,
   ⟨runZ 3 3 (iw 0x36 3 3 (2 ^ 71)), 79, 3, 3, iw 0x36 3 3 (2 ^ 71), thZ, by decide +kernel⟩⟩

theorem witness_spareEngines :
    (∃ (s : State) (d k c : Nat), RegsOk s ∧ d < 20 ∧ (s.eng.meFailed.find? (fun f => f.1 / 16 = d) = some (k, c)) ∧
      s.flag (.meSpare d) ME_SPARE_AVAIL = true) ∧
    (∃ (s : State) (d k c : Nat), d < 20 ∧ (s.eng.meFailed.find? (fun f => f.1 / 16 = d) = some (k, c)) ∧ s.flag
      (.meSpare d) ME_SPARE_AVAIL = false ∧ s.pwr.retireDue.any (·.1 = k / 4) = false ∧ s.pwr.retired.contains
      (k / 4) = false) ∧
    (∃ (s : State) (d : Nat), (s.eng.meFailed.find? (fun f => f.1 / 16 = d) = none)) ∧
    (∃ (s : State) (d : Nat) (p : Bool), (20 ≤ d ∨ s.flag (.meSpare d) ME_SPARE_INUSE = true)) ∧
    (∃ (s : State) (d : Nat) (p : Bool), RegsOk s ∧ d < 20 ∧ s.flag (.meSpare d) ME_SPARE_INUSE = false) :=
  ⟨⟨{ (z.setFld (.meSpare 19) ME_SPARE_AVAIL 1).setAccs [(4096 * 512 * 319 + 7, 8), (5, 6)] with eng := { ((z.setAccs [(5, 6), (4096 * 512 * 319 + 7, 8)]).eng) with meFailed := [(319, 0x0101)] } }, 19, 319, 0x0101, by decide +kernel⟩,
   ⟨{ z with eng := { z.eng with meFailed := [(319, 0x0101)] } }, 19, 319, 0x0101, by decide +kernel⟩,
   ⟨z, 3, by decide +kernel⟩,
   ⟨z.setFld (.meSpare 19) ME_SPARE_INUSE 1, 19, true, by decide +kernel⟩,
   ⟨z, 19, true, by decide +kernel⟩⟩

theorem witness_vectorMovesMasksAndConversions :
    (∃ (s : State) (q t0 w ty : Nat) (th : Thread), Issues q 4 t0 64 w th s ∧ ty = bits w 20 3 ∧ ty ∈ anyType ∧ (twf
      (fun _ => 0) s.eng.vreg = true) ∧ bits w 64 26 % 32 = 0 ∧ bits w 64 26 + 256 ≤ spSize ∧ s.unitRange q
      (spadAt q (bits w 64 26)) 256 = true ∧ (∀ b < 64, s.bankSt (q / 4) b = 0) ∧ s.net.onWipe = []) ∧
    (∃ (s : State) (q t0 w ty : Nat) (th : Thread), Issues q 4 t0 65 w th s ∧ ty = bits w 20 3 ∧ ty ∈ anyType ∧
      MemOk s ∧ bits w 64 26 % 32 = 0 ∧ bits w 64 26 + 256 ≤ spSize ∧ s.unitRange q (spadAt q (bits w 64 26))
      256 = true ∧ (∀ b < 64, s.bankSt (q / 4) b = 0) ∧ s.net.onWipe = []) ∧
    (∃ (s : State) (q t0 w ty : Nat) (th : Thread), Issues q 4 t0 66 w th s ∧ ty = bits w 20 3 ∧ ty ∈ anyType ∧ (twf
      (fun _ => 0) s.eng.vreg = true) ∧ (twf (fun _ => ([] : List Byte)) s.eng.vq = true) ∧ 256 ≤ (tgetD []
      s.eng.vq (8 * q + bits w 32 32)).length) ∧
    (∃ (s : State) (q t0 w ty : Nat) (th : Thread), Issues q 4 t0 67 w th s ∧ ty = bits w 20 3 ∧ ty ∈ anyType) ∧
    (∃ (s : State) (q t0 w ty : Nat) (th : Thread), Issues q 4 t0 78 w th s ∧ ty = bits w 20 3 ∧ ty ∈ numTypes ∧
      (twf (fun _ => 0) s.eng.vmask = true) ∧ bits w 0 5 ≠ 0 ∧ bits w 32 32 ≤ 5) ∧
    (∃ (s : State) (q t0 w ty : Nat) (th : Thread), Issues q 4 t0 78 w th s ∧ ty = bits w 20 3 ∧ ty ∈ numTypes ∧
      (twf (fun _ => 0) s.eng.vmask = true) ∧ 2 ≤ ty ∧ bits w 0 2 ≠ 0 ∧ bits w 32 32 = 1) ∧
    (∃ (s : State) (q t0 w ty : Nat) (th : Thread), Issues q 4 t0 79 w th s ∧ ty = bits w 20 3 ∧ ty ∈ anyType ∧ (twf
      (fun _ => 0) s.eng.vreg = true) ∧ bits w 32 32 ≠ 0) ∧
    (∃ (s : State) (q t0 w ty : Nat) (th : Thread) (f : Fm), Issues q 4 t0 82 w th s ∧ ty = bits w 20 3 ∧ ty ∈
      numTypes ∧ (twf (fun _ => 0) s.eng.vreg = true) ∧ fmOf (bits w 27 4) = some f ∧ bits w 31 1 = 0) ∧
    (∃ (s : State) (q t0 w ty : Nat) (th : Thread) (f : Fm), Issues q 4 t0 82 w th s ∧ ty = bits w 20 3 ∧ ty ∈
      numTypes ∧ (twf (fun _ => 0) s.eng.vreg = true) ∧ fmOf (bits w 27 4) = some f ∧ bits w 31 1 = 1) ∧
    (∃ (s : State) (q t0 w ty : Nat) (th : Thread), Issues q 4 t0 84 w th s ∧ ty = bits w 20 3 ∧ ty ∈ [4] ∧ (twf
      (fun _ => 0) s.eng.vreg = true)) ∧
    (∃ (s : State) (q t0 w ty : Nat) (th : Thread) (v : Nat) (vs : List Nat), Issues q 4 t0 85 w th s ∧ ty = bits w
      20 3 ∧ ty ∈ numTypes ∧ (twf (fun _ => 0) s.eng.vreg = true) ∧ (v :: vs = ((List.range (laneCount
      ty)).filter fun n => decide (bits w 23 2 = 0 ∨ bitAt (s.vmask q t0 (bits w 23 2)) (laneBit ty n) =
      true)).map fun n => lane ty (s.vreg q t0 (bits w 5 5)) n)) ∧
    (∃ (s : State) (q t0 w ty : Nat) (th : Thread), Issues q 4 t0 85 w th s ∧ ty = bits w 20 3 ∧ ty ∈ numTypes ∧
      (twf (fun _ => 0) s.eng.vreg = true) ∧ (∀ n < laneCount ty, ¬ (bits w 23 2 = 0 ∨ bitAt (s.vmask q t0 (bits
      w 23 2)) (laneBit ty n) = true))) ∧
    (∃ (s : State) (q t0 w ty : Nat) (th : Thread) (v : Nat) (vs : List Nat), Issues q 4 t0 85 w th s ∧ ty = bits w
      20 3 ∧ ty ∈ [2, 3] ∧ (twf (fun _ => 0) s.eng.vreg = true) ∧ bits w 32 1 = 0 ∧ (v :: vs = ((List.range
      (laneCount ty)).filter fun n => decide (bits w 23 2 = 0 ∨ bitAt (s.vmask q t0 (bits w 23 2)) (laneBit ty
      n) = true)).map fun n => lane ty (s.vreg q t0 (bits w 5 5)) n)) ∧
    (∃ (s : State) (q t0 w ty : Nat) (th : Thread), RegsOk s ∧ q < 80 ∧ (∀ i, s.quadInst q = some i → i < 80) ∧
      Issues q 4 t0 0x40 w th s ∧ ty = bits w 20 3 ∧ ty ∈ anyType ∧ (bits w 64 26 % 32 ≠ 0 ∨ spSize < bits w 64
      26 + 256 ∨ s.unitRange q (spadAt q (bits w 64 26)) 256 = false)) ∧
    (∃ (s : State) (q t0 w ty : Nat) (th : Thread), RegsOk s ∧ q < 80 ∧ (∀ i, s.quadInst q = some i → i < 80) ∧
      Issues q 4 t0 0x41 w th s ∧ ty = bits w 20 3 ∧ ty ∈ anyType ∧ (bits w 64 26 % 32 ≠ 0 ∨ spSize < bits w 64
      26 + 256 ∨ s.unitRange q (spadAt q (bits w 64 26)) 256 = false)) ∧
    (∃ (s : State) (q t0 w ty : Nat) (th : Thread), RegsOk s ∧ q < 80 ∧ (∀ i, s.quadInst q = some i → i < 80) ∧
      Issues q 4 t0 0x4E w th s ∧ ty = bits w 20 3 ∧ ty ∈ numTypes ∧ bits w 0 5 = 0) ∧
    (∃ (s : State) (q t0 w ty : Nat) (th : Thread), RegsOk s ∧ q < 80 ∧ (∀ i, s.quadInst q = some i → i < 80) ∧
      Issues q 4 t0 0x4E w th s ∧ ty = bits w 20 3 ∧ ty ∈ numTypes ∧ bits w 0 5 ≠ 0 ∧ 5 < bits w 32 32) ∧
    (∃ (s : State) (q t0 w ty : Nat) (th : Thread), RegsOk s ∧ q < 80 ∧ (∀ i, s.quadInst q = some i → i < 80) ∧
      Issues q 4 t0 0x4F w th s ∧ ty = bits w 20 3 ∧ ty ∈ anyType ∧ bits w 32 32 = 0) :=
  ⟨⟨((runZ 4 3 (vw 0x40 3 0 2 (1024 * 2 ^ 64))).setOwner 1 1216 5).wr (spadAt 79 1024) [5#8, 6#8], 79, 3, vw 0x40 3 0 2 (1024 * 2 ^ 64), 2, thZ, by decide +kernel⟩,
   ⟨(((runZ 4 3 (vw 0x41 0 3 2 (1024 * 2 ^ 64 + 2 ^ 23))).setOwner 1 1216 5).setVreg 79 3 3 (2 ^ 64 - 5)).setVmask 79 3 1 1, 79, 3, vw 0x41 0 3 2 (1024 * 2 ^ 64 + 2 ^ 23), 2, thZ, by decide +kernel⟩,
   ⟨let r := runZ 4 3 (vw 0x42 3 0 4 (5 * 2 ^ 32)); { r with eng := { r.eng with vq := [(8 * 79 + 5, List.replicate 257 9#8)] } }, 79, 3, vw 0x42 3 0 4 (5 * 2 ^ 32), 4, thZ, by decide +kernel⟩,
   ⟨(runZ 4 3 (vw 0x43 0 3 0 (63 * 2 ^ 32))).setVreg 79 3 3 (2 ^ 64 - 5), 79, 3, vw 0x43 0 3 0 (63 * 2 ^ 32), 0, thZ, by decide +kernel⟩,
   ⟨(runZ 4 3 (vw 0x4E 3 4 0 (5 * 2 ^ 10 + 5 * 2 ^ 32))).setVreg 79 3 4 (2 ^ 63), 79, 3, vw 0x4E 3 4 0 (5 * 2 ^ 10 + 5 * 2 ^ 32), 0, thZ, by decide +kernel⟩,
   ⟨(runZ 4 3 (vw 0x4E 3 4 2 (5 * 2 ^ 10 + 2 ^ 32))).setVreg 79 3 4 (2 ^ 64 - 5), 79, 3, vw 0x4E 3 4 2 (5 * 2 ^ 10 + 2 ^ 32), 2, thZ, by decide +kernel⟩,
   ⟨((runZ 4 3 (vw 0x4F 3 4 2 (5 * 2 ^ 10 + 2 * 2 ^ 32))).setVreg 79 3 4 (2 ^ 64 - 5)).setVmask 79 3 2 1, 79, 3, vw 0x4F 3 4 2 (5 * 2 ^ 10 + 2 * 2 ^ 32), 2, thZ, by decide +kernel⟩,
   ⟨(runZ 4 3 (vw 0x52 3 4 2 (1 * 2 ^ 27))).setVreg 79 3 4 (2 ^ 64 - 5), 79, 3, vw 0x52 3 4 2 (1 * 2 ^ 27), 2, thZ, .int8, by decide +kernel⟩,
   ⟨(runZ 4 3 (vw 0x52 3 4 0 (2 ^ 31 + 5 * 2 ^ 27))).setVreg 79 3 4 (2 ^ 64 - 5), 79, 3, vw 0x52 3 4 0 (2 ^ 31 + 5 * 2 ^ 27), 0, thZ, .e4m3, by decide +kernel⟩,
   ⟨(runZ 4 3 (vw 0x54 3 4 4 0)).setVreg 79 3 4 (2 ^ 128 - 5), 79, 3, vw 0x54 3 4 4 0, 4, thZ, by decide +kernel⟩,
   ⟨((runZ 4 3 (vw 0x55 3 4 0 (2 ^ 23 + 2 ^ 32))).setVreg 79 3 4 (2 ^ 64 - 5)).setVmask 79 3 1 1, 79, 3, vw 0x55 3 4 0 (2 ^ 23 + 2 ^ 32), 0, thZ, 2 ^ 32 - 5, [], by decide +kernel⟩,
   ⟨(runZ 4 3 (vw 0x55 3 4 0 (2 ^ 23))).setVreg 79 3 4 (2 ^ 64 - 5), 79, 3, vw 0x55 3 4 0 (2 ^ 23), 0, thZ, by decide +kernel⟩,
   ⟨((runZ 4 3 (vw 0x55 3 4 2 (2 ^ 23))).setVreg 79 3 4 (2 ^ 64 - 5)).setVmask 79 3 1 3, 79, 3, vw 0x55 3 4 2 (2 ^ 23), 2, thZ, 2 ^ 32 - 5, [2 ^ 32 - 1], by decide +kernel⟩,
   ⟨runZ 4 3 (vw 0x40 3 0 2 (1024 * 2 ^ 64)), 79, 3, vw 0x40 3 0 2 (1024 * 2 ^ 64), 2, thZ, by decide +kernel⟩,
   ⟨runZ 4 3 (vw 0x41 0 3 2 (1024 * 2 ^ 64)), 79, 3, vw 0x41 0 3 2 (1024 * 2 ^ 64), 2, thZ, by decide +kernel⟩,
   ⟨runZ 4 3 (vw 0x4E 0 4 2 0), 79, 3, vw 0x4E 0 4 2 0, 2, thZ, by decide +kernel⟩,
   ⟨runZ 4 3 (vw 0x4E 1 4 2 (6 * 2 ^ 32)), 79, 3, vw 0x4E 1 4 2 (6 * 2 ^ 32), 2, thZ, by decide +kernel⟩,
   ⟨runZ 4 3 (vw 0x4F 3 4 2 0), 79, 3, vw 0x4F 3 4 2 0, 2, thZ, by decide +kernel⟩⟩

theorem witness_selectUnits :
    (∃ (s : State) (q t0 w : Nat) (th : Thread) (d : List Byte) (els : List El) (k1 : Nat), MemOk s ∧ RegsOk s ∧
      Issues q 6 t0 0x70 w th s ∧ d = s.rd (spadAt q (64 * bits w 0 20)) 64 ∧ s.unitRange q (spadAt q (64 * bits
      w 0 20)) 64 = true ∧ 64 * bits w 0 20 + 64 ≤ spSize ∧ xOk d = true ∧ xMode d ≠ 2 ∧ (els = xEls d (s.rd
      (spadAt q (xKeyoff d)) (if xMode d = 3 then xN d * xRec d else xN d * xKeyw d)) (s.rd (spadAt q (xSecoff
      d)) (if xSeckey d = true ∧ xMode d ≠ 3 then 8 * xN d else 0)) (s.rd (spadAt q (xValoff d)) (if xValsrc d =
      2 then 4 * xN d else 0))) ∧ (s.unitRange q (spadAt q (xKeyoff d)) (if xMode d = 3 then xN d * xRec d else
      xN d * xKeyw d) = true) ∧ (s.unitRange q (spadAt q (xSecoff d)) (if xSeckey d = true ∧ xMode d ≠ 3 then 8
      * xN d else 0) = true) ∧ (s.unitRange q (spadAt q (xValoff d)) (if xValsrc d = 2 then 4 * xN d else 0) =
      true) ∧ s.unitRange q (spadAt q (xSideoff d)) (24 * xSidecap d) = true ∧ (k1 = if xMode d = 1 then min (xK
      d) ((els.filter fun e => decide (e.key ≤ xMap d (xOrig d (xThr d)))).length) else if xMode d = 4 then 0
      else min (xK d) (xN d)) ∧ s.unitRange q (spadAt q (xOutoff d)) (64 + k1 * xRec d) = true ∧ (∀ b < 64,
      s.bankSt (q / 4) b = 0) ∧ s.net.onWipe = []) ∧
    (∃ (s : State) (q t0 w : Nat) (th : Thread) (d : List Byte), MemOk s ∧ Issues q 6 t0 0x70 w th s ∧ d = s.rd
      (spadAt q (64 * bits w 0 20)) 64 ∧ s.unitRange q (spadAt q (64 * bits w 0 20)) 64 = true ∧ 64 * bits w 0
      20 + 64 ≤ spSize ∧ xOk d = true ∧ xMode d = 0 ∧ xFmt d ≠ 2 ∧ xOrder d = true ∧ xSeckey d = false ∧ xSums d
      = false ∧ xValsrc d = 0 ∧ s.unitRange q (spadAt q (xKeyoff d)) (2 * xN d) = true ∧ s.unitRange q (spadAt q
      (xOutoff d)) (64 + 16 * min (xK d) (xN d)) = true ∧ (∀ b < 64, s.bankSt (q / 4) b = 0) ∧ s.net.onWipe =
      []) ∧
    (∃ (s : State) (q t0 w : Nat) (th : Thread) (d : List Byte) (n : Nat), RegsOk s ∧ q < 80 ∧ Issues q 6 t0 0x70 w
      th s ∧ d = s.rd (spadAt q (64 * bits w 0 20)) 64 ∧ s.unitRange q (spadAt q (64 * bits w 0 20)) 64 = true ∧
      64 * bits w 0 20 + 64 ≤ spSize ∧ xOk d = true ∧ xMode d = 2 ∧ bits w 53 8 ≠ 0 ∧ (n = if bits w 20 1 = 1
      then s.rdLE (spadAt q (64 * bits w 21 20)) 4 else 0) ∧ (bits w 20 1 = 1 → 64 * bits w 21 20 + 64 + 24 * n
      ≤ spSize ∧ s.unitRange q (spadAt q (64 * bits w 21 20)) (64 + 24 * n) = true ∧ (24 * n ≠ 0 → s.unitRange q
      (spadAt q (64 * bits w 21 20 + 64)) (24 * n) = true) ∧ s.unitRange q (spadAt q (64 * bits w 21 20)) 64 =
      true) ∧ (64 * bits w 21 20 + 64 + 24 * s.rdLE (spadAt q (64 * bits w 21 20)) 4 ≤ spSize ∨ bits w 20 1 = 1
      ∨ bits w 21 20 = 0) ∧ (∀ b < 64, s.bankSt (q / 4) b = 0) ∧ s.net.onWipe = []) ∧
    (∃ (s : State) (q t0 w : Nat) (th : Thread) (d : List Byte), RegsOk s ∧ q < 80 ∧ ((∀ i, s.quadInst q = some i →
      i < 80)) ∧ Issues q 6 t0 0x70 w th s ∧ d = s.rd (spadAt q (64 * bits w 0 20)) 64 ∧ s.unitRange q (spadAt q
      (64 * bits w 0 20)) 64 = true ∧ 64 * bits w 0 20 + 64 ≤ spSize ∧ xOk d = false ∧ (∀ b < 64, s.bankSt (q /
      4) b = 0) ∧ s.net.onWipe = []) ∧
    (∃ (s : State) (q t0 w : Nat) (th : Thread) (d : List Byte), RegsOk s ∧ q < 80 ∧ ((∀ i, s.quadInst q = some i →
      i < 80)) ∧ Issues q 6 t0 0x70 w th s ∧ d = s.rd (spadAt q (64 * bits w 0 20)) 64 ∧ s.unitRange q (spadAt q
      (64 * bits w 0 20)) 64 = true ∧ 64 * bits w 0 20 + 64 ≤ spSize ∧ xOk d = true ∧ xMode d = 2 ∧ bits w 53 8
      = 0 ∧ (∀ b < 64, s.bankSt (q / 4) b = 0) ∧ s.net.onWipe = []) ∧
    (∃ (s : State) (q t0 w : Nat) (th : Thread) (d : List Byte), RegsOk s ∧ q < 80 ∧ ((∀ i, s.quadInst q = some i →
      i < 80)) ∧ Issues q 6 t0 0x70 w th s ∧ d = [] ∧ (64 * bits w 0 20 + 64 ≤ spSize → s.unitRange q (spadAt q
      (64 * bits w 0 20)) 64 = false)) ∧
    (∃ (s : State) (q h : Nat) (rest : List Nat) (r : XuRun), RegsOk s ∧ q < 80 ∧ s.quadRuns q = true ∧ (s.xu q).run
      = some r ∧ takeHit r.qtag (s.xu q).port = some (h, rest) ∧ (∀ b, boundary (xK r.d) r.hits = some b → (if
      xFmt r.d = 0 then hitDist h % 512 else hitDist h) ≤ b) ∧ ((r.hits.length < xSidecap r.d ∧ xSideoff r.d +
      24 * r.hits.length + 24 ≤ spSize ∧ s.unitRange q (spadAt q (xSideoff r.d + 24 * r.hits.length)) 24 = true)
      ∨ (xSidecap r.d ≤ r.hits.length ∧ r.endcnt ≤ s.sem q r.endsem)) ∧ (∀ b < 64, s.bankSt (q / 4) b = 0) ∧
      s.net.onWipe = []) ∧
    (∃ (s : State) (q h b : Nat) (rest : List Nat) (r : XuRun), q < 80 ∧ s.quadRuns q = true ∧ (s.xu q).run = some r
      ∧ takeHit r.qtag (s.xu q).port = some (h, rest) ∧ boundary (xK r.d) r.hits = some b ∧ (b < (if xFmt r.d =
      0 then hitDist h % 512 else hitDist h))) ∧
    (∃ (s : State) (q h n : Nat) (rest : List Nat) (r : XuRun), Canonical s ∧ q < 80 ∧ s.quadRuns q = true ∧ (s.xu
      q).run = some r ∧ takeHit r.qtag (s.xu q).port = some (h, rest) ∧ (∀ b, boundary (xK r.d) r.hits = some b
      → (if xFmt r.d = 0 then hitDist h % 512 else hitDist h) ≤ b) ∧ xSidecap r.d ≤ r.hits.length ∧ s.sem q
      r.endsem < r.endcnt ∧ (n = (r.hits.filter fun h => (boundary (xK r.d) r.hits).all fun b => decide (h.2 ≤
      b)).length) ∧ n < 2 ^ 32 ∧ xOutoff r.d + 64 + 16 * n ≤ spSize ∧ s.unitRange q (spadAt q (xOutoff r.d)) (64
      + 16 * n) = true ∧ (∀ b < 64, s.bankSt (q / 4) b = 0) ∧ s.net.onWipe = []) ∧
    (∃ (s : State) (q n : Nat) (r : XuRun), Canonical s ∧ (twf (fun _ => ({} : XuSt)) s.eng.xu = true) ∧ q < 80 ∧
      s.quadRuns q = true ∧ (s.xu q).run = some r ∧ r.endcnt ≤ s.sem q r.endsem ∧ r.endsem < 256 ∧ takeHit
      r.qtag (s.xu q).port = none ∧ (n = (r.hits.filter fun h => (boundary (xK r.d) r.hits).all fun b => decide
      (h.2 ≤ b)).length) ∧ n < 2 ^ 32 ∧ xOutoff r.d + 64 + 16 * n ≤ spSize ∧ s.unitRange q (spadAt q (xOutoff
      r.d)) (64 + 16 * n) = true ∧ (∀ b < 64, s.bankSt (q / 4) b = 0) ∧ s.net.onWipe = []) ∧
    (∃ (s : State) (q : Nat), ((s.xu q).run = none ∨ (s.xu q).run.any (fun r => decide (s.sem q r.endsem < r.endcnt)
      || (takeHit r.qtag (s.xu q).port).isSome) = true)) :=
  ⟨⟨xuZ, 79, 3, xuW, thZ, xuD 4 3, xEls (xuD 4 3) [9#8, 0#8, 5#8, 1#8, 7#8, 0#8, 7#8, 0#8] [] [], 3, by decide +kernel⟩,
   ⟨xuZ, 79, 3, xuW, thZ, xuD 4 3, by decide +kernel⟩,
   ⟨xuS 0, 79, 3, xuV 0, thZ, xsD, 0, by decide +kernel⟩,
   ⟨(runZ 6 3 xuW).setOwner 1 1216 5, 79, 3, xuW, thZ, List.replicate 64 0#8, by decide +kernel⟩,
   ⟨((runZ 6 3 xuW).setOwner 1 1216 5).wr (spadAt 79 192) xsD, 79, 3, xuW, thZ, xsD, by decide +kernel⟩,
   ⟨runZ 6 3 xuW, 79, 3, xuW, thZ, [], by decide +kernel⟩,
   ⟨(xsZ [hitW 7 1, hitW 5 2, hitW 4 2] [(1, 3)]).setSlot 79 7 (some ⟨5, 0, 9, 2⟩), 79, hitW 5 2, [hitW 7 1, hitW 4 2], xsR [(1, 3)], by decide +kernel⟩,
   ⟨xsZ [hitW 7 1, hitW 5 2, hitW 4 2] [(1, 3), (2, 4)], 79, hitW 5 2, 4, [hitW 7 1, hitW 4 2], xsR [(1, 3), (2, 4)], by decide +kernel⟩,
   ⟨xsZ [hitW 7 1, hitW 3 2] [(1, 3), (2, 4), (5, 3), (6, 4)], 79, hitW 3 2, 2, [hitW 7 1], xsR [(1, 3), (2, 4), (5, 3), (6, 4)], by decide +kernel⟩,
   ⟨(xsZ [hitW 7 1] [(1, 3), (2, 5), (8, 4), (9, 4)]).setSem 79 255 3, 79, 3, xsR [(1, 3), (2, 5), (8, 4), (9, 4)], by decide +kernel⟩,
   ⟨xsZ [] [(1, 3)], 79, by decide +kernel⟩⟩

set_option maxRecDepth 20000 in
theorem witness_sketchUnitsAndTheirBankCommands :
    (∃ (s : State) (q t0 w : Nat) (th : Thread), Issues q 5 t0 0x60 w th s ∧ bits w 19 26 % 32 = 0 ∧ bits w 19 26 +
      sketchBytes (bits w 3 2) ≤ spSize ∧ s.unitRange q (spadAt q (bits w 19 26)) (sketchBytes (bits w 3 2)) =
      true ∧ (∀ b < 64, s.bankSt (q / 4) b = 0) ∧ s.net.onWipe = []) ∧
    (∃ (s : State) (q t0 w : Nat) (th : Thread), RegsOk s ∧ q < 80 ∧ ((∀ i, s.quadInst q = some i → i < 80)) ∧
      Issues q 5 t0 0x60 w th s ∧ (bits w 19 26 % 32 ≠ 0 ∨ s.unitRange q (spadAt q (bits w 19 26)) (sketchBytes
      (bits w 3 2)) = false)) ∧
    (∃ (s : State) (q t0 w o nn : Nat) (th th1 : Thread) (ii : Issued) (sg : Option Nat) (slots : List (Nat ×
      SuSlot)) (bs : List (List Byte × List Byte)), ((Issues q 5 t0 0x61 w th s ∧ o = bits w 0 92 ∧ sg = none ∧
      th1 = past th) ∨ (s.thread q 5 t0 = some th ∧ s.unitOn q 5 = true ∧ th.dryOf 0x61 = some (nn, ii) ∧ o =
      ii.o ∧ sg = ii.sig ∧ th1 = { th with issued := th.issued.eraseIdx nn })) ∧ (slots = (latches (bits o 6
      8)).filterMap fun k => (s.slot q k).map fun v => (k, v)) ∧ bs.length ≤ 65535 ∧ (∀ x ∈ bs, x.1.length = 32
      ∧ x.2.length = 1024 * (1 + ((List.range (min 4 (leAt x.1 3 1))).map fun c => leAt x.1 (4 + c) 1 % 16).sum
      + leAt x.1 10 2) ∧ bundleOk x.1 (slots.map (·.2)) = true) ∧ bs ≠ [] ∧ ((s.stream (portOf q (bits o 0
      6))).runs = [{ left := bs.flatMap (fun x => x.1 ++ x.2), ended := true, full := true },
      { left := [], ended := true, mark := true }])) ∧
    (∃ (s : State) (q t0 w k : Nat) (th : Thread) (v : SuSlot) (hdr tomb row : List Byte), Issues q 5 t0 0x61 w th s
      ∧ k < 8 ∧ bits w 6 8 = 2 ^ k ∧ s.slot q k = some v ∧ v.width ≤ 2 ∧ hdr.length = 32 ∧ tomb.length = 1024 ∧
      row.length = 1024 ∧ bundleOk hdr [v] = true ∧ leAt hdr 3 1 = 0 ∧ leAt hdr 10 2 = 1 ∧ (s.stream (portOf q
      (bits w 0 6))).runs = [{ left := hdr ++ tomb ++ row, ended := true, full := true },
      { left := [], ended := true, mark := true }]) ∧
    (∃ (s : State) (q t0 w : Nat) (th : Thread) (hdr more : List Byte), RegsOk s ∧ q < 80 ∧ ((∀ i, s.quadInst q =
      some i → i < 80)) ∧ Issues q 5 t0 0x61 w th s ∧ hdr.length = 32 ∧ bundleOk hdr [] = false ∧ (s.stream
      (portOf q (bits w 0 6))).runs = [{ left := hdr ++ more, ended := true, full := true }]) ∧
    (∃ (s : State) (q t0 w : Nat) (th : Thread), Issues q 5 t0 0x61 w th s ∧ (s.stream (portOf q (bits w 0 6))).runs
      = [] ∧ s.streamHalted (portOf q (bits w 0 6)) = false ∧ (∀ b < 64, s.bankSt (q / 4) b = 0) ∧ s.net.onWipe
      = []) ∧
    (∃ (s : State) (q t0 w : Nat) (th : Thread) (b : List Byte), Issues q 5 t0 0x90 w th s ∧ bits w 12 1 = 0 ∧ b =
      s.rd (spadAt q (32 * bits w 20 21)) 32 ∧ 32 * bits w 20 21 + 32 ≤ spSize ∧ s.unitRange q (spadAt q (32 *
      bits w 20 21)) 32 = true ∧ s.quadPart q = some (s.owner 4 (bits w 0 12)) ∧ (∀ b < 64, s.bankSt (q / 4) b =
      0) ∧ s.net.onWipe = [] ∧ s.hubCmds (bits w 0 12) = [] ∧ s.scansOf (bits w 0 12) = [] ∧ s.nbuStarts (bits w
      0 12) = true ∧ (s.nbu (bits w 0 12)).qdepth ≤ 3 ∧
      ({ bytes := b.take 2 ++ leBytes 2 s.sk.nextTok ++ bytesAt b 4 28, src := srcUnit q 5, thr := t0, toks := [(s.sk.nextTok, srcUnit q 5)] }
      : NbuCmd).queued = true ∧ (twf (fun _ => ([] : List NbuCmd)) s.sk.hubq = true)) ∧
    (∃ (s : State) (q t0 w : Nat) (th : Thread) (b : List Byte), Issues q 5 t0 0x90 w th s ∧ bits w 12 1 = 0 ∧ b =
      s.rd (spadAt q (32 * bits w 20 21)) 32 ∧ 32 * bits w 20 21 + 32 ≤ spSize ∧ s.unitRange q (spadAt q (32 *
      bits w 20 21)) 32 = true ∧ s.quadPart q = some (s.owner 4 (bits w 0 12)) ∧ (∀ b < 64, s.bankSt (q / 4) b =
      0) ∧ s.net.onWipe = [] ∧ (4 ≤ (s.nbu (bits w 0 12)).qdepth ∨ (s.hubCmds (bits w 0 12) = [] ∧ s.scansOf
      (bits w 0 12) = [] ∧
      ({ bytes := b.take 2 ++ leBytes 2 s.sk.nextTok ++ bytesAt b 4 28, src := srcUnit q 5, thr := t0, toks := [(s.sk.nextTok, srcUnit q 5)] }
      : NbuCmd).queued = false))) ∧
    (∃ (s : State) (q t0 w : Nat) (th : Thread) (b : List Byte) (es : List Nat), Issues q 5 t0 0x90 w th s ∧ bits w
      12 1 = 1 ∧ b = s.rd (spadAt q (32 * bits w 20 21)) 32 ∧ 32 * bits w 20 21 + 32 ≤ spSize ∧ s.unitRange q
      (spadAt q (32 * bits w 20 21)) 32 = true ∧ es.length = bits w 41 16 ∧ es ≠ [] ∧ (∀ e ∈ es, e < 2 ^ 32 ∧
      s.quadPart q = some (s.owner 4 (bits e 0 12))) ∧ (s.stream (portOf q (bits w 14 6))).runs =
      [{ left := es.flatMap (leBytes 4), ended := true, full := true }] ∧ (∀ b < 64, s.bankSt (q / 4) b = 0) ∧
      s.net.onWipe = []) ∧
    (∃ (s : State) (q t0 w : Nat) (th : Thread), RegsOk s ∧ q < 80 ∧ ((∀ i, s.quadInst q = some i → i < 80)) ∧
      Issues q 5 t0 0x90 w th s ∧ bits w 12 1 = 0 ∧ 32 * bits w 20 21 + 32 ≤ spSize ∧ s.unitRange q (spadAt q
      (32 * bits w 20 21)) 32 = true ∧ s.quadPart q ≠ some (s.owner 4 (bits w 0 12)) ∧ (∀ b < 64, s.bankSt (q /
      4) b = 0) ∧ s.net.onWipe = []) ∧
    (∃ (s : State) (q t0 w e : Nat) (th : Thread) (r dir : List Byte), Issues q 5 t0 0x91 w th s ∧ portOf q (bits w
      0 6) ≠ portOf q (bits w 29 6) ∧ r = s.rd (spadAt q (128 * bits w 6 19)) 128 ∧ 128 * bits w 6 19 + 128 ≤
      spSize ∧ s.unitRange q (spadAt q (128 * bits w 6 19)) 128 = true ∧ screenRecOk r = true ∧ screenRecAligned
      r = true ∧ s.unitRange q (leAt r 24 8) (sketchBytes (leAt r 8 1)) = true ∧ (s.stream (portOf q (bits w 0
      6))).runs = [{ left := leBytes 4 e, ended := true, full := true },
      { left := [], ended := true, mark := true }] ∧ e < 2 ^ 32 ∧ s.unitRange q (leAt r 0 8 + 32 * e) 32 = true
      ∧ dir = s.rd (leAt r 0 8 + 32 * e) 32 ∧ (leAt dir 4 2 ≠ 0 → (bitAt (leAt dir 0 2) 12 = true ∨ s.nbuServes
      (leAt dir 0 2 % 4096) = false)) ∧ (∀ b < 64, s.bankSt (q / 4) b = 0) ∧ s.net.onWipe = []) ∧
    (∃ (s : State) (q t0 w e g tok : Nat) (th : Thread) (r dir : List Byte), Issues q 5 t0 0x91 w th s ∧ portOf q
      (bits w 0 6) ≠ portOf q (bits w 29 6) ∧ r = s.rd (spadAt q (128 * bits w 6 19)) 128 ∧ 128 * bits w 6 19 +
      128 ≤ spSize ∧ s.unitRange q (spadAt q (128 * bits w 6 19)) 128 = true ∧ screenRecOk r = true ∧
      screenRecAligned r = true ∧ s.unitRange q (leAt r 24 8) (sketchBytes (leAt r 8 1)) = true ∧ (s.stream
      (portOf q (bits w 0 6))).runs = [{ left := leBytes 4 e, ended := true, full := true },
      { left := [], ended := true, mark := true }] ∧ e < 2 ^ 32 ∧ s.unitRange q (leAt r 0 8 + 32 * e) 32 = true
      ∧ dir = s.rd (leAt r 0 8 + 32 * e) 32 ∧ leAt dir 4 2 ≠ 0 ∧ bitAt (leAt dir 0 2) 12 = false ∧ g = (leAt dir
      0 2 % 4096) ∧ s.nbuServes g = true ∧ s.tier.failed.contains (64 + g / 512) = false ∧ s.quadPart q = some
      (s.owner 4 g) ∧ tok = s.sk.nextTok ∧ (∀ b < 64, s.bankSt (q / 4) b = 0) ∧ s.net.onWipe = []) ∧
    (∃ (s : State) (q t0 w : Nat) (th : Thread), RegsOk s ∧ q < 80 ∧ ((∀ i, s.quadInst q = some i → i < 80)) ∧
      Issues q 5 t0 0x91 w th s ∧ 128 * bits w 6 19 + 128 ≤ spSize ∧ s.unitRange q (spadAt q (128 * bits w 6
      19)) 128 = true ∧ screenRecOk (s.rd (spadAt q (128 * bits w 6 19)) 128) = false ∧ (∀ b < 64, s.bankSt (q /
      4) b = 0) ∧ s.net.onWipe = []) ∧
    (∃ (s : State) (q t0 w : Nat) (th : Thread), RegsOk s ∧ q < 80 ∧ ((∀ i, s.quadInst q = some i → i < 80)) ∧
      Issues q 5 t0 0x91 w th s ∧ 128 * bits w 6 19 + 128 ≤ spSize ∧ s.unitRange q (spadAt q (128 * bits w 6
      19)) 128 = true ∧ screenRecOk (s.rd (spadAt q (128 * bits w 6 19)) 128) = true ∧ screenRecAligned (s.rd
      (spadAt q (128 * bits w 6 19)) 128) = false ∧ (∀ b < 64, s.bankSt (q / 4) b = 0) ∧ s.net.onWipe = []) :=
  ⟨⟨((runZ 5 3 (slW 0x60 (7 + 8 + 100 * 32 + 9 * 2 ^ 15 + 96 * 2 ^ 19))).setOwner 1 1216 5).wr (spadAt 79 100) [3#8], 79, 3, slW 0x60 (7 + 8 + 100 * 32 + 9 * 2 ^ 15 + 96 * 2 ^ 19), thZ, by decide +kernel⟩,
   ⟨runZ 5 3 (slW 0x60 (7 + 8 + 100 * 32 + 9 * 2 ^ 15 + 97 * 2 ^ 19)), 79, 3, slW 0x60 (7 + 8 + 100 * 32 + 9 * 2 ^ 15 + 97 * 2 ^ 19), thZ, by decide +kernel⟩,
   ⟨(((runZ 5 3 (slW 0x61 (63 + 128 * 2 ^ 6))).setSlot 79 7 (some ⟨5, 1, 3, 9⟩)).setStream (portOf 79 63) { runs := [{ left := buH ++ buT ++ buR ++ buH ++ buR ++ buT, ended := true, full := true }, { left := [], ended := true, mark := true }] }), 79, 3, slW 0x61 (63 + 128 * 2 ^ 6), 63 + 128 * 2 ^ 6, 0, thZ, past thZ, { op := 0, sig := none }, none, [(7, ⟨5, 1, 3, 9⟩)], [(buH, buT ++ buR), (buH, buR ++ buT)], by decide +kernel⟩,
   ⟨(((runZ 5 3 (slW 0x61 (63 + 128 * 2 ^ 6))).setSlot 79 7 (some ⟨5, 1, 3, 9⟩)).setStream (portOf 79 63) { runs := [{ left := buH ++ buT ++ buR, ended := true, full := true }, { left := [], ended := true, mark := true }] }), 79, 3, slW 0x61 (63 + 128 * 2 ^ 6), 7, thZ, ⟨5, 1, 3, 9⟩, buH, buT, buR, by decide +kernel⟩,
   ⟨(runZ 5 3 (slW 0x61 (63 + 128 * 2 ^ 6))).setStream (portOf 79 63) { runs := [{ left := List.replicate 32 0#8 ++ [1#8], ended := true, full := true }] }, 79, 3, slW 0x61 (63 + 128 * 2 ^ 6), thZ, List.replicate 32 0#8, [1#8], by decide +kernel⟩,
   ⟨runZ 5 3 (slW 0x61 (63 + 128 * 2 ^ 6)), 79, 3, slW 0x61 (63 + 128 * 2 ^ 6), thZ, by decide +kernel⟩,
   ⟨(((runZ 5 3 (slW 0x90 (4095 + 3 * 2 ^ 20))).setOwner 1 1216 5).setOwner 4 4095 5).wr (spadAt 79 96) [5#8, 0#8, 7#8, 0#8, 8#8, 1#8, 0xFF#8, 0xFF#8], 79, 3, slW 0x90 (4095 + 3 * 2 ^ 20), thZ, [5#8, 0#8, 7#8, 0#8, 8#8, 1#8, 0xFF#8, 0xFF#8] ++ List.replicate 24 0#8, by decide +kernel⟩,
   ⟨((((runZ 5 3 (slW 0x90 (4095 + 3 * 2 ^ 20))).setOwner 1 1216 5).setOwner 4 4095 5).wr (spadAt 79 96) [2#8, 0#8]).setNbu 4095 {}, 79, 3, slW 0x90 (4095 + 3 * 2 ^ 20), thZ, [2#8] ++ List.replicate 31 0#8, by decide +kernel⟩,
   ⟨((((runZ 5 3 (slW 0x90 (2 ^ 12 + 2 ^ 13 + 9 * 2 ^ 14 + 3 * 2 ^ 20 + 2 * 2 ^ 41))).setOwner 1 1216 5).setOwner 4 4095 5).wr (spadAt 79 96) [5#8, 0#8]).setStream (portOf 79 9) { runs := [{ left := leBytes 4 (4095 + 9 * 4096) ++ leBytes 4 4095, ended := true, full := true }] }, 79, 3, slW 0x90 (2 ^ 12 + 2 ^ 13 + 9 * 2 ^ 14 + 3 * 2 ^ 20 + 2 * 2 ^ 41), thZ, [5#8] ++ List.replicate 31 0#8, [4095 + 9 * 4096, 4095], by decide +kernel⟩,
   ⟨(runZ 5 3 (slW 0x90 (4095 + 3 * 2 ^ 20))).setOwner 1 1216 5, 79, 3, slW 0x90 (4095 + 3 * 2 ^ 20), thZ, by decide +kernel⟩,
   ⟨nlZ 9, 79, 3, slW 0x91 (63 + 2 * 2 ^ 6 + 5 * 2 ^ 29), 6, thZ, nlR, nlD 9, by decide +kernel⟩,
   by (refine ⟨(nlB), 79, 3, slW 0x91 (63 + 2 * 2 ^ 6 + 5 * 2 ^ 29), 6, 4095, 1, thZ, nlR, [255#8, 15#8] ++ leBytes 2 0 ++ leBytes 2 9 ++ leBytes 26 0, ?_⟩; and_intros <;> decide +kernel),
   ⟨(nlZ 9).wr (spadAt 79 256) (List.replicate 16 9#8), 79, 3, slW 0x91 (63 + 2 * 2 ^ 6 + 5 * 2 ^ 29), thZ, by decide +kernel⟩,
   ⟨(nlZ 9).wr (spadAt 79 256) [1#8], 79, 3, slW 0x91 (63 + 2 * 2 ^ 6 + 5 * 2 ^ 29), thZ, by decide +kernel⟩⟩

set_option maxRecDepth 20000 in
theorem witness_ferryStreams_1 :
    (∃ (s : State) (q u t0 w n : Nat) (th : Thread) (d : List Byte), RegsOk s ∧ q < 80 ∧ Issues q u t0 0x80 w th s ∧
      8 ≤ u ∧ u < 12 ∧ n = 16 * (4 * q + (u - 8)) + t0 ∧ StreamsOk s ∧ Alone n s ∧ (s.stream n).job = none ∧ d =
      s.rd (spadAt q (64 * bits w 0 20)) 64 ∧ 64 * bits w 0 20 + 64 ≤ spSize ∧ s.unitRange q (spadAt q (64 *
      bits w 0 20)) 64 = true ∧ (∀ b < 64, s.bankSt (q / 4) b = 0) ∧ s.net.onWipe = [] ∧ dOk d n = true ∧ bits w
      20 16 = 0 ∧ dOp d = 5 ∧ dDstk d ≠ 0 ∧ dFrem d = false ∧ dFquad d = q ∧ (∀ i ∈ th.issued, i.isJob = false)
      ∧ s.sem q (dFsem d) + dCount d ≤ 0xFFFF) ∧
    (∃ (s : State) (q u t0 w n : Nat) (th : Thread) (d : List Byte), RegsOk s ∧ q < 80 ∧ Issues q u t0 0x80 w th s ∧
      8 ≤ u ∧ u < 12 ∧ n = 16 * (4 * q + (u - 8)) + t0 ∧ StreamsOk s ∧ Alone n s ∧ (s.stream n).job = none ∧ d =
      s.rd (spadAt q (64 * bits w 0 20)) 64 ∧ 64 * bits w 0 20 + 64 ≤ spSize ∧ s.unitRange q (spadAt q (64 *
      bits w 0 20)) 64 = true ∧ (∀ b < 64, s.bankSt (q / 4) b = 0) ∧ s.net.onWipe = [] ∧ dOk d n = true ∧ bits w
      20 16 = 0 ∧ dOp d = 0 ∧ dSrck d = 0 ∧ dDstk d = 0 ∧ dLayout d = 0 ∧ dGran d = 0 ∧ dCount d = 1 ∧ dSrc d +
      dRowb d ≤ spBase ∧ dDst d + dRowb d ≤ spBase ∧ s.unitRange q (dSrc d) (dRowb d) = true ∧ s.unitRange q
      (dDst d) (dRowb d) = true ∧ (s.stream n).late.length < 64 ∧ s.ferryReads (n / 16) < 128) ∧
    (∃ (s : State) (q u t0 w n : Nat) (th : Thread) (d : List Byte), RegsOk s ∧ q < 80 ∧ Issues q u t0 0x80 w th s ∧
      8 ≤ u ∧ u < 12 ∧ n = 16 * (4 * q + (u - 8)) + t0 ∧ StreamsOk s ∧ Alone n s ∧ (s.stream n).job = none ∧ d =
      s.rd (spadAt q (64 * bits w 0 20)) 64 ∧ 64 * bits w 0 20 + 64 ≤ spSize ∧ s.unitRange q (spadAt q (64 *
      bits w 0 20)) 64 = true ∧ (∀ b < 64, s.bankSt (q / 4) b = 0) ∧ s.net.onWipe = [] ∧ dOk d n = false) ∧
    (∃ (s : State) (n k a b : Nat) (j : Job) (p : Pc) (r : RunAcc), Canonical s ∧ n < 5120 ∧ s.quadRuns (n / 64) =
      true ∧ StreamsOk s ∧ Alone n s ∧ (s.stream n).job = some j ∧ j.out = [p] ∧ p.k = k ∧ p.direct = true ∧
      p.dst = .mem b ∧ p.fell = false ∧ 1 ≤ p.len ∧ p.len ≤ 65536 ∧ j.accs = [r] ∧ r.id = j.cur ∧ r.ended = true
      ∧ p.run = j.cur ∧ j.runs = 0 ∧ j.hold = [] ∧ dGran j.d = 0 ∧ dToUnit j.d = false ∧ dLay j.d = 0 ∧ dOp j.d
      = 0 ∧ p.src = .mem a ∧ p.todo = [] ∧ p.data = none ∧ p.refused = false ∧ a + p.len ≤ spBase ∧ ((∀ i <
      p.len, s.mayReach (frySrc n) (a + i) = true ∧ s.converting (a + i) = false)) ∧ s.lostIn a p.len = false ∧
      b + p.len ≤ spBase ∧ ((∀ i < p.len, s.mayReach (frySrc n) (b + i) = true ∧ s.converting (b + i) = false))
      ∧ s.lostIn b p.len = false ∧ (∀ l ∈ s.net.dir, s.sharers l.1 = 0 ∨ l.1 * 256 + 256 ≤ b ∨ b + p.len ≤ l.1 *
      256) ∧ s.ferryWrites (n / 16) < 64 ∧ (twf (fun _ => 0) s.fry.meter = true)) :=
  ⟨by (refine ⟨fyS (fyD 5 0xF 5 0 0 0), 79, 11, 3, fyW, 5107, thZ, fyD 5 0xF 5 0 0 0, ?_⟩; and_intros <;> decide +kernel),
   by (refine ⟨fyS (fyD 0 0 1 65536 131072 320), 79, 11, 3, fyW, 5107, thZ, fyD 0 0 1 65536 131072 320, ?_⟩; and_intros <;> decide +kernel),
   ⟨fyS (fyD 6 0 1 65536 131072 320), 79, 11, 3, fyW, 5107, thZ, fyD 6 0 1 65536 131072 320, by decide +kernel⟩,
   by (refine ⟨(fyJ fyJob).wr 65852 [3#8, 4#8, 5#8, 6#8], 5107, 0, 65536, 131072, fyJob, fyP, { id := 0, all := 320, ended := true }, ?_⟩; and_intros <;> decide +kernel)⟩

set_option maxRecDepth 20000 in
theorem witness_ferryStreams_2 :
    (∃ (s : State) (n q : Nat) (j : Job) (r : RunAcc), RegsOk s ∧ n < 5120 ∧ q = n / 64 ∧ s.quadRuns q = true ∧
      StreamsOk s ∧ Alone n s ∧ (s.stream n).job = some j ∧ j.accs = [r] ∧ r.id = j.cur ∧ r.ended = true ∧
      r.closed = true ∧ j.out = [] ∧ j.runs = 0 ∧ dGran j.d ≠ 0 ∧ r.full < ceilDiv r.all (dGran j.d) ∧ (dOp j.d
      ≠ 1 ∨ j.fbSeen = true ∨ (dFbmode j.d = 0 ∧ j.table = false)) ∧ dFrem j.d = false ∧ dFquad j.d = q ∧ s.sem
      q (dFsem j.d) < 0xFFFF) ∧
    (∃ (s : State) (n q : Nat) (j : Job) (r : RunAcc), RegsOk s ∧ n < 5120 ∧ q = n / 64 ∧ s.quadRuns q = true ∧
      StreamsOk s ∧ Alone n s ∧ (s.stream n).job = some j ∧ j.accs = [r] ∧ r.id = j.cur ∧ r.ended = true ∧
      r.closed = true ∧ j.out = [] ∧ j.runs = 0 ∧ dGran j.d ≠ 0 ∧ r.full < ceilDiv r.all (dGran j.d) ∧ (dOp j.d
      ≠ 1 ∨ j.fbSeen = true ∨ (dFbmode j.d = 0 ∧ j.table = false)) ∧ dFrem j.d = false ∧ dFquad j.d ≠ q ∧
      s.quadGone (dFquad j.d) = false) ∧
    (∃ (s : State) (n k b : Nat) (j : Job) (p : Pc) (bs : List Byte), MemOk s ∧ n < 5120 ∧ s.quadRuns (n / 64) =
      true ∧ StreamsOk s ∧ Alone n s ∧ (s.stream n).job = some j ∧ j.out = [p] ∧ p.k = k ∧ p.direct = true ∧
      p.dst = .mem b ∧ p.fell = false ∧ 1 ≤ p.len ∧ p.len ≤ 65536 ∧ dAdd j.d = 0 ∧ p.refused = true ∧ p.retried
      = false ∧ p.data = some bs ∧ bs.length = p.len ∧ p.nak = (PEnd.mem b).bursts p.len ∧ p.todo = [] ∧ p.acked
      = 0 ∧ b + p.len ≤ spBase ∧ ((∀ i < p.len, s.mayReach (frySrc n) (b + i) = true ∧ s.converting (b + i) =
      false)) ∧ s.lostIn b p.len = false ∧ (∀ l ∈ s.net.dir, s.sharers l.1 = 0 ∨ l.1 * 256 + 256 ≤ b ∨ b + p.len
      ≤ l.1 * 256) ∧ s.ferryWrites (n / 16) < 64 ∧ (twf (fun _ => 0) s.fry.meter = true)) ∧
    (∃ (s : State) (n k : Nat) (again : Bool) (j : Job) (p : Pc), RegsOk s ∧ n < 5120 ∧ (s.stream n).job = some j ∧
      j.out = [p] ∧ p.k = k ∧ ((s.lateRule j.d p.src).1 = 0 ∨ p.fell = true) ∧ p.refused = true ∧ (p.retried =
      true ∨ again = true)) :=
  ⟨by (refine ⟨fyJ (fyG 0), 5107, 79, fyG 0, { id := 0, all := 320, full := 0, ended := true, closed := true }, ?_⟩; and_intros <;> decide +kernel),
   by (refine ⟨(fyJ { fyG 0 with d := (fyG 0).d.set 8 7#8 }).setFld (.schQuad 7) SCH_QUAD_INST 3, 5107, 79, { fyG 0 with d := (fyG 0).d.set 8 7#8 }, { id := 0, all := 320, full := 0, ended := true, closed := true }, ?_⟩; and_intros <;> decide +kernel),
   by (refine ⟨fyJ { fyJob with out := [fyR] }, 5107, 0, 131072, { fyJob with out := [fyR] }, fyR, [1#8, 2#8, 3#8, 4#8], ?_⟩; and_intros <;> decide +kernel),
   ⟨fyJ { fyJob with out := [{ fyP with refused := true }] }, 5107, 0, true, { fyJob with out := [{ fyP with refused := true }] }, { fyP with refused := true }, by decide +kernel⟩⟩

set_option maxRecDepth 20000 in
theorem witness_ferryStreams_3 :
    (∃ (s : State) (n k : Nat) (again : Bool) (j : Job) (p : Pc), n < 5120 ∧ (s.stream n).job = some j ∧ j.out = [p]
      ∧ p.k = k ∧ (s.lateRule j.d p.src).1 ≠ 0 ∧ p.fell = false ∧ p.refused = true ∧ (p.retried = true ∨ again =
      true)) ∧
    (∃ (s : State) (n k q a b : Nat) (j : Job) (p : Pc) (r : RunAcc), Canonical s ∧ n < 5120 ∧ s.quadRuns (n / 64) =
      true ∧ StreamsOk s ∧ Alone n s ∧ (s.stream n).job = some j ∧ j.out = [p] ∧ p.k = k ∧ p.direct = true ∧
      p.dst = .mem b ∧ p.fell = false ∧ 1 ≤ p.len ∧ p.len ≤ 65536 ∧ j.accs = [r] ∧ r.id = j.cur ∧ r.ended = true
      ∧ p.run = j.cur ∧ j.runs = 0 ∧ j.hold = [] ∧ dGran j.d = 0 ∧ dToUnit j.d = false ∧ dLay j.d = 0 ∧ q = n /
      64 ∧ dOp j.d = 1 ∧ dFbmode j.d = 1 ∧ j.fbSeen = false ∧ j.lateSaid = false ∧ s.sem q (dFbsem j.d) ≠ 0 ∧
      j.start + dGrace j.d * tickUs ≤ s.svcTime ∧ p.src = .mem a ∧ p.data = none ∧ p.refused = false ∧ dFlagw
      j.d % 4 = 0 ∧ dFlagw j.d < moorOff ∧ s.mayReach (frySrc n) (spadAt q (dFlagw j.d)) = true ∧ s.mayReach
      (frySrc n) (spadAt q (dFlagw j.d + 3)) = true ∧ s.lostIn (spadAt q (dFlagw j.d)) 4 = false ∧ (∀ b < 64,
      s.bankSt (q / 4) b = 0) ∧ s.net.onWipe = [] ∧ b + p.len ≤ spBase ∧ ((∀ i < p.len, s.mayReach (frySrc n) (b
      + i) = true ∧ s.converting (b + i) = false)) ∧ s.lostIn b p.len = false ∧ (∀ l ∈ s.net.dir, s.sharers l.1
      = 0 ∨ l.1 * 256 + 256 ≤ b ∨ b + p.len ≤ l.1 * 256) ∧ s.ferryWrites (n / 16) < 64 ∧ (twf (fun _ => 0)
      s.fry.meter = true)) ∧
    (∃ (s : State) (n k : Nat), n < 5120 ∧ Alone n s ∧ (s.stream n).job = none ∧ k ∈ (s.stream n).late) ∧
    (∃ (s : State) (h scale p c : Nat), RegsOk s ∧ (twf (fun _ => 0) s.fry.meter = true) ∧ h < 4 ∧ p < 64 ∧ c < 4 ∧
      tgetD 0 s.fry.meter (meterKey p h c) < s.allowance p h c (min scale 64) ∧ s.part.floorSaid.contains (4 * p
      + h) = false) :=
  ⟨⟨fyJ { fyF with out := [{ fyP with refused := true }] }, 5107, 0, true, { fyF with out := [{ fyP with refused := true }] }, { fyP with refused := true }, by decide +kernel⟩,
   by (refine ⟨((fyJ fyF).setSem 79 0 2).setOwner 1 1217 5 |>.wr 131072 [3#8, 4#8], 5107, 0, 79, 65536, 131072, fyF, fyP, { id := 0, all := 320, ended := true }, ?_⟩; and_intros <;> decide +kernel),
   ⟨(runZ 11 3 fyW).setStream 5107 { late := [5, 4] }, 5107, 4, by decide +kernel⟩,
   ⟨fyMt, 3, 64, 63, 0, by decide +kernel⟩⟩

set_option maxRecDepth 20000 in
theorem witness_rankingModelsAndTables :
    (∃ (s : State) (n m : Nat) (c : Cmd), Fetched n 0x50 c s ∧ c.n = n ∧ (((c.fld 64 2 = 0 ∧ c.fld 66 1 = 0 ∧ c.fld
      67 1 = 0 ∧ c.fld 68 1 = 0) ∨ (16 ≤ c.fld 64 2 ∧ c.fld 64 2 ≤ 2048 ∧ 1 ≤ c.fld 66 1 ∧ c.fld 66 1 ≤ 8 ∧
      (c.fld 67 1 = 32 ∨ c.fld 67 1 = 64 ∨ c.fld 67 1 = 128) ∧ c.fld 68 1 ≤ 1))) ∧ ((((List.range 64).filter fun
      k => (s.model k).isSome).filter fun k => decide ((s.model k).map Model.part = some c.part)).length < 16) ∧
      (pickFree (Config.freeChoice s.fresh) 64 ((List.range 64).filter fun k => (s.model k).isSome) = some m)) ∧
    (∃ (s : State) (n : Nat) (c : Cmd), Fetched n 0x50 c s ∧ c.n = n ∧ (¬ ((c.fld 64 2 = 0 ∧ c.fld 66 1 = 0 ∧ c.fld
      67 1 = 0 ∧ c.fld 68 1 = 0) ∨ (16 ≤ c.fld 64 2 ∧ c.fld 64 2 ≤ 2048 ∧ 1 ≤ c.fld 66 1 ∧ c.fld 66 1 ≤ 8 ∧
      (c.fld 67 1 = 32 ∨ c.fld 67 1 = 64 ∨ c.fld 67 1 = 128) ∧ c.fld 68 1 ≤ 1)))) ∧
    (∃ (s : State) (n : Nat) (c : Cmd), Fetched n 0x50 c s ∧ c.n = n ∧ (((c.fld 64 2 = 0 ∧ c.fld 66 1 = 0 ∧ c.fld 67
      1 = 0 ∧ c.fld 68 1 = 0) ∨ (16 ≤ c.fld 64 2 ∧ c.fld 64 2 ≤ 2048 ∧ 1 ≤ c.fld 66 1 ∧ c.fld 66 1 ≤ 8 ∧ (c.fld
      67 1 = 32 ∨ c.fld 67 1 = 64 ∨ c.fld 67 1 = 128) ∧ c.fld 68 1 ≤ 1))) ∧ (16 ≤ (((List.range 64).filter fun k
      => (s.model k).isSome).filter fun k => decide ((s.model k).map Model.part = some c.part)).length)) ∧
    (∃ (s : State) (n h k i u : Nat) (c : Cmd) (v : Model) (f : Fm), RegsOk s ∧ Fetched n 0x51 c s ∧ c.n = n ∧
      s.model c.object = some v ∧ v.tenant = c.tenant ∧ 1 ≤ c.fld 64 8 ∧ c.fld 64 8 ≤ 2 ^ 40 ∧ 8 ≤ c.fld 72 2 ∧
      c.fld 72 2 ≤ 512 ∧ c.fld 72 2 % 8 = 0 ∧ ((c.fld 74 1 = 0 ∨ c.fld 74 1 = 1 ∨ c.fld 74 1 = 5 ∨ c.fld 74 1 =
      6)) ∧ fmOf (c.fld 74 1) = some f ∧ 4 ≤ c.fld 75 1 ∧ c.fld 75 1 ≤ 19 ∧ c.fld 76 1 ≤ 2 ∧ c.fld 78 2 ≤ 5000 ∧
      (c.len0 = if c.fld 76 1 = 2 then alignUp (2 * c.fld 72 2 + ((if bitAt c.flags 0 then 1 else 0) + (if bitAt
      c.flags 1 then 4 else 0))) 4 else 0) ∧ (u = ceilDiv (c.fld 64 8 * (f.bytes (c.fld 72 2) + ((if bitAt
      c.flags 0 then 1 else 0) + (if bitAt c.flags 1 then 4 else 0)))) (2 ^ 20)) ∧ s.quotaOk v.tenant 3 u = true
      ∧ s.flashRoom v.part u = true ∧ h = Config.freeChoice s.fresh % 4 ∧ pickFree (Config.freeChoice (s.fresh +
      1)) 4096 ((s.rank.tables.filter (·.model = c.object)).map Table.num) = some k ∧ pickFree
      (Config.freeChoice (s.fresh + 2)) (2 ^ 20) (((s.tier.objs.filter (·.hub = h)).map Obj.number) ++
      ((s.rank.tables.filter (·.hub = h)).map Table.number)) = some i) ∧
    (∃ (s : State) (n m k row : Nat) (c : Cmd) (v : Model) (tb : Table) (w : Nat), Fetched n 0x53 c s ∧ c.n = n ∧ m
      = c.object ∧ k = c.fld 48 2 ∧ row = c.fld 40 8 ∧ s.model m = some v ∧ v.tenant = c.tenant ∧ s.table m k =
      some tb ∧ row < tb.rows ∧ tb.find row = none ∧ tb.freeWay row = some w) ∧
    (∃ (s : State) (n m k row : Nat) (c : Cmd) (v : Model) (tb : Table), Fetched n 0x53 c s ∧ c.n = n ∧ m = c.object
      ∧ k = c.fld 48 2 ∧ row = c.fld 40 8 ∧ s.model m = some v ∧ v.tenant = c.tenant ∧ s.table m k = some tb ∧
      row < tb.rows ∧ tb.find row = none ∧ tb.freeWay row = none) ∧
    (∃ (s : State) (n m k row : Nat) (c : Cmd) (v : Model) (tb : Table), Fetched n 0x53 c s ∧ c.n = n ∧ m = c.object
      ∧ k = c.fld 48 2 ∧ row = c.fld 40 8 ∧ s.model m = some v ∧ v.tenant = c.tenant ∧ s.table m k = some tb ∧
      row < tb.rows ∧ (tb.find row).isSome = true) ∧
    (∃ (s : State) (n m k row : Nat) (c : Cmd) (v : Model) (tb : Table) (st : Nat), Fetched n 0x54 c s ∧ c.n = n ∧ m
      = c.object ∧ k = c.fld 48 2 ∧ row = c.fld 40 8 ∧ s.model m = some v ∧ v.tenant = c.tenant ∧ s.table m k =
      some tb ∧ row < tb.rows ∧ ((st = stSuccess ∧ (tb.find row = none ∨ row ∈ tb.queue)) ∨ (st = stCapacity ∧
      (tb.find row).isSome = true ∧ ¬ row ∈ tb.queue ∧ 4096 ≤ tb.queue.length))) ∧
    (∃ (s : State) (n m k row : Nat) (c : Cmd) (v : Model) (tb : Table) (st : Nat), Fetched n 0x53 c s ∧ c.n = n ∧ m
      = c.object ∧ k = c.fld 48 2 ∧ row = c.fld 40 8 ∧ ((st = stNoObject ∧ s.model m = none) ∨ (st = stNotOwner
      ∧ s.model m = some v ∧ v.tenant ≠ c.tenant) ∨ (s.model m = some v ∧ v.tenant = c.tenant ∧ ((st =
      stNoObject ∧ s.table m k = none) ∨ (st = stInvalidParameter ∧ s.table m k = some tb ∧ tb.rows ≤ row))))) ∧
    (∃ (s : State) (n m k row : Nat) (c : Cmd) (v : Model) (tb : Table) (w : Nat), Fetched n 0x54 c s ∧ c.n = n ∧ m
      = c.object ∧ k = c.fld 48 2 ∧ row = c.fld 40 8 ∧ s.model m = some v ∧ v.tenant = c.tenant ∧ s.table m k =
      some tb ∧ row < tb.rows ∧ tb.find row = some w ∧ tb.queue.contains row = false ∧ tb.queue.length < 4096) :=
  ⟨by (refine ⟨withCmd z (cm 0x50 5 9 [(40, 8, 3)]), 3, Config.freeChoice 0 % 64, cm 0x50 5 9 [(40, 8, 3)], ?_⟩; (iterate 4 refine ⟨by decide +kernel, ?_⟩); exact pickFree_nil _ _ _ (by decide +kernel) (by decide)),
   ⟨withCmd z (cm 0x50 5 9 [(64, 2, 15), (66, 1, 8), (67, 1, 128)]), 3, cm 0x50 5 9 [(64, 2, 15), (66, 1, 8), (67, 1, 128)], by decide +kernel⟩,
   ⟨withCmd ((List.range 16).foldl (fun s m => s.setModel m mdZ) z) (cm 0x50 5 9 []), 3, cm 0x50 5 9 [], by decide +kernel⟩,
   by (refine ⟨taS, 3, Config.freeChoice 0 % 4, Config.freeChoice 1 % 4096, Config.freeChoice 2 % 2 ^ 20, 1, cm 0x51 5 9 [(1, 1, 3), (4, 4, 63), (64, 8, 1000), (72, 2, 8), (74, 1, 1), (75, 1, 4), (76, 1, 1)], mdZ, .int8, ?_⟩; (iterate 19 refine ⟨by decide +kernel, ?_⟩); refine ⟨flashRoom_taS, ?_⟩; refine ⟨rfl, ?_⟩; refine ⟨pickFree_nil _ _ _ (by decide +kernel) (by decide), ?_⟩; exact pickFree_nil _ _ _ (by decide +kernel) (by decide)),
   ⟨withCmd rkZ (cm 0x53 5 9 [(4, 4, 63), (40, 8, 21), (48, 2, 7)]), 3, 63, 7, 21, cm 0x53 5 9 [(4, 4, 63), (40, 8, 21), (48, 2, 7)], mdZ, tbZ, 80, by decide +kernel⟩,
   ⟨withCmd { rkZ with rank := { rkZ.rank with tables := [tbF] } } (cm 0x53 5 9 [(4, 4, 63), (40, 8, 21), (48, 2, 7)]), 3, 63, 7, 21, cm 0x53 5 9 [(4, 4, 63), (40, 8, 21), (48, 2, 7)], mdZ, tbF, by decide +kernel⟩,
   ⟨withCmd { rkZ with rank := { rkZ.rank with tables := [tbH] } } (cm 0x53 5 9 [(4, 4, 63), (40, 8, 21), (48, 2, 7)]), 3, 63, 7, 21, cm 0x53 5 9 [(4, 4, 63), (40, 8, 21), (48, 2, 7)], mdZ, tbH, by decide +kernel⟩,
   ⟨withCmd rkZ (cm 0x54 5 9 [(4, 4, 63), (40, 8, 21), (48, 2, 7)]), 3, 63, 7, 21, cm 0x54 5 9 [(4, 4, 63), (40, 8, 21), (48, 2, 7)], mdZ, tbZ, stSuccess, by decide +kernel⟩,
   ⟨withCmd tz (cm 0x53 5 9 [(4, 4, 63), (40, 8, 21), (48, 2, 7)]), 3, 63, 7, 21, cm 0x53 5 9 [(4, 4, 63), (40, 8, 21), (48, 2, 7)], mdZ, tbZ, stNoObject, by decide +kernel⟩,
   ⟨withCmd { rkZ with rank := { rkZ.rank with tables := [tbH] } } (cm 0x54 5 9 [(4, 4, 63), (40, 8, 21), (48, 2, 7)]), 3, 63, 7, 21, cm 0x54 5 9 [(4, 4, 63), (40, 8, 21), (48, 2, 7)], mdZ, tbH, 90, by decide +kernel⟩⟩

theorem witness_stepWindowsAndLookupStages :
    (∃ (s : State) (m i : Nat) (st : List Nat) (v : Model), s.model m = some v ∧ v.gate.pend = false ∧ v.gate.open_
      = false) ∧
    (∃ (s : State) (m i : Nat) (st : List Nat) (v : Model), s.model m = some v ∧ (v.gate.pend = true ∨ v.gate.open_
      = true)) ∧
    (∃ (s : State) (m : Nat) (v : Model) (xs : List (Nat × Nat)), RegsOk s ∧ m < 64 ∧ s.model m = some v ∧
      v.gate.pend = false ∧ v.gate.open_ = false ∧ xs.length ≤ 2 ^ 18) ∧
    (∃ (s : State) (m : Nat) (xs : List (Nat × Nat)) (v : Model), s.model m = some v ∧ (v.gate.pend = true ∨
      v.gate.open_ = true)) ∧
    (∃ (s : State) (m k row w : Nat) (rel : Bool) (v : Model) (tb : Table) (x : HotWay) (h : HeldAdd), RegsOk s ∧ m
      < 64 ∧ s.model m = some v ∧ v.gate.pend = true ∧ v.gate.running = [] ∧ s.barrierOver m v.gate rel = true ∧
      v.gate.touched = [(k, row)] ∧ v.gate.held = [h] ∧ h.table = k ∧ h.row = row ∧ s.table m k = some tb ∧
      tb.hub < 4 ∧ tb.find row = some w ∧ tb.way w = some x ∧ h.addt = 1 ∧ h.data.length = 4 ∧ tb.hasAcc = true) ∧
    (∃ (s : State) (m k row w : Nat) (rel : Bool) (v : Model) (tb : Table) (x : HotWay) (h : HeldAdd), RegsOk s ∧ m
      < 64 ∧ s.model m = some v ∧ v.gate.pend = true ∧ v.gate.running = [] ∧ s.barrierOver m v.gate rel = true ∧
      v.gate.touched = [(k, row)] ∧ v.gate.held = [h] ∧ h.table = k ∧ h.row = row ∧ s.table m k = some tb ∧
      tb.hub < 4 ∧ tb.find row = some w ∧ tb.way w = some x ∧ (h.addt ≠ 1 ∨ tb.hasAcc = false ∨ h.data.length ≠
      4) ∧ h.off + h.data.length ≤ 2 * tb.dim ∧ h.data.length % addWidth h.addt = 0) ∧
    (∃ (s : State) (m : Nat) (v : Model) (barrier : Bool), s.model m = some v ∧ (v.gate.pend = false ∨
      v.gate.running ≠ [] ∨ s.barrierOver m v.gate barrier = false)) ∧
    (∃ (s : State) (m : Nat) (v : Model) (g : Stage), RegsOk s ∧ m < 64 ∧ s.model m = some v ∧ v.gate.open_ = true ∧
      v.gate.waiting = [g] ∧ (∀ tb ∈ s.rank.tables, tb.model = m → tb.queue = [])) ∧
    (∃ (s : State) (m k row w : Nat) (v : Model) (tb : Table) (x : HotWay), RegsOk s ∧ m < 64 ∧ s.model m = some v ∧
      v.gate.open_ = true ∧ v.gate.waiting = [] ∧ s.rank.tables.filter (·.model = m) = [tb] ∧ tb.model = m ∧ k =
      tb.num ∧ tb.queue = [row] ∧ tb.find row = some w ∧ tb.way w = some x ∧ (twf (fun _ => ({} : RowVal))
      tb.cold = true) ∧ tb.hub < 4) ∧
    (∃ (s : State) (m : Nat) (v : Model), RegsOk s ∧ m < 64 ∧ s.model m = some v ∧ v.gate.demoteAt ≠ none ∧
      s.trainsNow m = false ∧ v.gate.pend = false ∧ v.gate.open_ = false) ∧
    (∃ (s : State) (m : Nat) (v : Model), s.model m = some v ∧ (v.gate.demoteAt = none ∨ s.trainsNow m = true ∨
      v.gate.pend = true ∨ v.gate.open_ = true)) :=
  ⟨⟨rkZ.setStream 5 { job := some fyJob }, 63, 4, [5, 6], mdZ, by decide +kernel⟩,
   ⟨z.setModel 63 { mdZ with gate := { pend := true } }, 63, 4, [5], { mdZ with gate := { pend := true } }, by decide +kernel⟩,
   ⟨rkZ, 63, mdZ, [(7, 21), (7, 5), (7, 100), (8, 0)], by decide +kernel⟩,
   ⟨rkZ.setModel 63 { mdZ with gate := { pend := true } }, 63, [(7, 21)], { mdZ with gate := { pend := true } }, by decide +kernel⟩,
   ⟨(rkZ.setModel 63 { mdZ with gate := gtY 1 0 }).mapTable 63 7 fun _ => tbH, 63, 7, 21, 90, true, { mdZ with gate := gtY 1 0 }, tbH, ⟨21, 3, ⟨[0x3F80], 0, 0x3F800000⟩, 0⟩, ⟨7, 21, 0, 1, 9, [0#8, 0#8, 0x80#8, 0x3F#8], none⟩, by decide +kernel⟩,
   ⟨(rkZ.setModel 63 { mdZ with gate := gtY 2 12 }).mapTable 63 7 fun _ => tbH, 63, 7, 21, 90, true, { mdZ with gate := gtY 2 12 }, tbH, ⟨21, 3, ⟨[0x3F80], 0, 0x3F800000⟩, 0⟩, ⟨7, 21, 12, 2, 9, [0#8, 0#8, 0x80#8, 0x3F#8], none⟩, by decide +kernel⟩,
   ⟨rkZ.setModel 63 { mdZ with gate := { pend := true, running := [⟨1, [2], []⟩] } }, 63, { mdZ with gate := { pend := true, running := [⟨1, [2], []⟩] } }, true, by decide +kernel⟩,
   ⟨(rkZ.setModel 63 { mdZ with gate := { gtZ with open_ := true, waiting := [⟨4, [6], []⟩] } }).setReg (.mdlStep 63) (BitVec.ofNat 64 (2 ^ 64 - 1)), 63, { mdZ with gate := { gtZ with open_ := true, waiting := [⟨4, [6], []⟩] } }, ⟨4, [6], []⟩, by decide +kernel⟩,
   ⟨(rkZ.setModel 63 { mdZ with gate := { gtZ with open_ := true } }).mapTable 63 7 fun _ => { tbH with queue := [21] }, 63, 7, 21, 90, { mdZ with gate := { gtZ with open_ := true } }, { tbH with queue := [21] }, ⟨21, 3, ⟨[0x3F80], 0, 0x3F800000⟩, 0⟩, by decide +kernel⟩,
   ⟨rkZ.setModel 63 { mdZ with gate := { demoteAt := some 5 } }, 63, { mdZ with gate := { demoteAt := some 5 } }, by decide +kernel⟩,
   ⟨rkZ.setModel 63 mdZ, 63, mdZ, by decide +kernel⟩⟩

theorem witness_writeCommandsAdmissionAndDurability :
    (∃ (s : State) (n w : Nat) (c : Cmd) (k : Coll) (ids : List Nat) (d : List Byte), Fetched n 0x30 c s ∧ c.n = n ∧
      s.collOf c.object = some k ∧ k.tenant = c.tenant ∧ k.dropped c.n = false ∧ d = inDesc c k.live.desc ∧ w =
      recLen d ∧ 1 ≤ c.count ∧ c.count ≤ 1024 ∧ (ids = (List.range c.count).map (fun i => leAt c.payload (i * w)
      8)) ∧ ids.Nodup ∧ (∀ x ∈ ids, c.fld 40 8 ≤ x ∧ x ≤ c.fld 48 8 ∧ x ≠ 2 ^ 64 - 1) ∧ c.len0 = c.count * w ∧
      (∀ i < c.count, attrsOk d (recOf d (bytesAt c.payload (i * w) w)) = true)) ∧
    (∃ (s : State) (n w : Nat) (c : Cmd) (k : Coll) (ids : List Nat) (d : List Byte), Fetched n 0x31 c s ∧ c.n = n ∧
      s.collOf c.object = some k ∧ k.tenant = c.tenant ∧ k.dropped c.n = false ∧ d = inDesc c k.live.desc ∧ w =
      recLen d ∧ 1 ≤ c.count ∧ c.count ≤ 1024 ∧ (ids = (List.range c.count).map (fun i => leAt c.payload (i * w)
      8)) ∧ ids.Nodup ∧ (∀ x ∈ ids, c.fld 40 8 ≤ x ∧ x ≤ c.fld 48 8 ∧ x ≠ 2 ^ 64 - 1) ∧ c.len0 = c.count * w ∧
      (∀ i < c.count, attrsOk d (recOf d (bytesAt c.payload (i * w) w)) = true)) ∧
    (∃ (s : State) (n w : Nat) (c : Cmd) (k : Coll) (ids : List Nat), Fetched n 0x32 c s ∧ c.n = n ∧ s.collOf
      c.object = some k ∧ k.tenant = c.tenant ∧ k.dropped c.n = false ∧ w = 8 ∧ 1 ≤ c.count ∧ c.count ≤ 1024 ∧
      (ids = (List.range c.count).map (fun i => leAt c.payload (i * w) 8)) ∧ ids.Nodup ∧ (∀ x ∈ ids, c.fld 40 8
      ≤ x ∧ x ≤ c.fld 48 8 ∧ x ≠ 2 ^ 64 - 1) ∧ c.len0 = c.count * w) ∧
    (∃ (s : State) (n i : Nat) (c : Cmd) (k : Coll) (rs : List (List Byte)), Fetched n 0x32 c s ∧ c.n = n ∧ s.collOf
      c.object = some k ∧ k.tenant = c.tenant ∧ k.dropped c.n = false ∧ 1 ≤ c.count ∧ c.count ≤ 1024 ∧ c.len0 =
      c.count * 8 ∧ (rs = (List.range c.count).map (fun j => bytesAt c.payload (j * 8) 8)) ∧ i < c.count ∧ (∀ j
      < c.count, j ≤ i → (badRec c k.live.desc ((rs.take j).map (leAt · 0 8)) (rs.getD j []) = true ↔ j = i))) ∧
    (∃ (s : State) (n : Nat) (c : Cmd), Fetched n 0x30 c s ∧ c.n = n ∧ s.collOf c.object = none) ∧
    (∃ (s : State) (n : Nat) (c : Cmd) (v : Model) (h : HistParam), Fetched n 0x33 c s ∧ c.n = n ∧ s.model c.object
      = some v ∧ v.tenant = c.tenant ∧ v.hist = some h ∧ 1 ≤ c.count ∧ c.count ≤ 1024 ∧ c.len0 = c.count *
      h.entry) ∧
    (∃ (s : State) (n : Nat) (c : Cmd) (k : Coll), Fetched n 0x21 c s ∧ c.n = n ∧ s.collOf c.object = some k ∧
      k.tenant = c.tenant ∧ k.dropped c.n = false ∧ (∀ i < 80, (s.inst i).all (fun v => v.kind ≠ 0 || v.object ≠
      c.object || v.part ≠ k.part) = true)) ∧
    (∃ (s : State) (n i : Nat) (c : Cmd) (k : Coll) (v : Inst), Fetched n 0x21 c s ∧ c.n = n ∧ s.collOf c.object =
      some k ∧ k.tenant = c.tenant ∧ k.dropped c.n = false ∧ i < 80 ∧ s.inst i = some v ∧ v.kind = 0 ∧ v.object
      = c.object ∧ v.part = k.part) ∧
    (∃ (s : State) (n : Nat) (c : Cmd) (l : RangeLock), s.cmd n = some c ∧ c.st = .waiting ∧ s.quay.locks.find?
      (·.cmd = n) = some l ∧ (∀ x ∈ s.quay.locks, x.cmd < n → x.isModel = l.isModel → x.obj = l.obj → (l.hi <
      x.lo ∨ x.hi < l.lo)) ∧ (∀ x ∈ s.quay.cmds, x.qp = c.qp → x.n < n → isWriteOp x.op = true → x.st ≠
      .waiting)) ∧
    (∃ (s : State) (n p : Nat) (c : Cmd) (d : List Byte) (rs : List (List Byte)) (k : Coll), s.cmd n = some c ∧ c.n
      = n ∧ p = c.part ∧ c.st = .running ∧ s.quayUp = true ∧ s.entryOf p n = none ∧ s.admitTurn c = true ∧ (c.op
      = 0x30 ∨ c.op = 0x31 ∨ c.op = 0x32) ∧ s.collOf c.object = some k ∧ d = inDesc c k.live.desc ∧ 1 ≤ c.count
      ∧ (rs = (List.range c.count).map (fun i => bytesAt c.payload (i * (c.len0 / c.count)) (c.len0 / c.count)))
      ∧ s.admitErr c d rs (alignUp (64 + c.len0) 64) = none) ∧
    (∃ (s : State) (n p : Nat) (c : Cmd) (d : List Byte) (rs : List (List Byte)), s.cmd n = some c ∧ c.n = n ∧ p =
      c.part ∧ c.st = .running ∧ s.quayUp = true ∧ s.entryOf p n = none ∧ s.admitTurn c = true ∧ c.op = 0x33 ∧ d
      = [] ∧ 1 ≤ c.count ∧ (rs = (List.range c.count).map (fun i => bytesAt c.payload (i * (c.len0 / c.count))
      (c.len0 / c.count))) ∧ s.admitErr c d rs (alignUp (64 + c.len0) 64) = none) ∧
    (∃ (s : State) (n p : Nat) (c : Cmd) (d : List Byte) (rs : List (List Byte)) (k : Coll), s.cmd n = some c ∧ c.n
      = n ∧ p = c.part ∧ c.st = .running ∧ s.quayUp = true ∧ s.entryOf p n = none ∧ s.admitTurn c = true ∧ c.op
      = 0x21 ∧ s.collOf c.object = some k ∧ d = inDesc c k.live.desc ∧ rs = [] ∧ s.admitErr c d rs 64 = none) ∧
    (∃ (s : State) (n p : Nat) (c : Cmd) (d : List Byte) (rs : List (List Byte)), RegsOk s ∧ s.cmd n = some c ∧ c.n
      = n ∧ p = c.part ∧ c.st = .running ∧ s.quayUp = true ∧ s.entryOf p n = none ∧ s.admitTurn c = true ∧
      isWriteOp c.op = true ∧ (d = if c.op = 0x33 then [] else ((s.collOf c.object).map fun k => inDesc c
      k.live.desc).getD []) ∧ (rs = if c.op = 0x21 then [] else (List.range c.count).map (fun i => bytesAt
      c.payload (i * (c.len0 / c.count)) (c.len0 / c.count))) ∧ s.writeErr c = none ∧ (c.op = 0x30 → ∀ r ∈ rs,
      s.present p c.object (leAt r 0 8) = false) ∧ s.crossVectors c rs = none ∧ crossAt (s.overRoom c.tenant p)
      (s.writeCosts c.op p c.object (c.fld 40 8) c.count d rs) = none ∧ crossAt (s.overQuota c.tenant)
      (s.writeCosts c.op p c.object (c.fld 40 8) c.count d rs) = none ∧ (s.dlogQuota p < s.dlogUsed p + (if c.op
      = 0x21 then 64 else alignUp (64 + c.len0) 64) ∨ 24 * 2 ^ 30 < s.deltaBytes s.counts + (if c.op = 0x21 then
      64 else alignUp (64 + c.len0) 64))) ∧
    (∃ (s : State) (n p : Nat) (c : Cmd) (e : DEntry), s.cmd n = some c ∧ c.n = n ∧ p = c.part ∧ s.entryOf p n =
      some e ∧ s.quayUp = true ∧ e.durable = false ∧ e.lost = false ∧ e.op ≠ 0x21 ∧ (∀ x ∈ (s.cpart p).entries,
      x.seq = e.seq → x = e)) ∧
    (∃ (s : State) (n p : Nat) (c : Cmd) (e : DEntry), s.cmd n = some c ∧ c.n = n ∧ p = c.part ∧ s.entryOf p n =
      some e ∧ s.quayUp = true ∧ e.durable = false ∧ e.lost = false ∧ e.op = 0x21 ∧ (∀ x ∈ (s.cpart p).entries,
      x.seq = e.seq → x = e)) :=
  ⟨⟨withCmd (coZ coA) (cm 0x30 5 9 [(4, 4, 7), (16, 4, 160), (36, 4, 2), (40, 8, 1), (48, 8, 9)] ([5#8] ++ leBytes 79 0 ++ [6#8] ++ leBytes 79 0)), 3, 80, cm 0x30 5 9 [(4, 4, 7), (16, 4, 160), (36, 4, 2), (40, 8, 1), (48, 8, 9)] ([5#8] ++ leBytes 79 0 ++ [6#8] ++ leBytes 79 0), coA, [5, 6], coA.live.desc, by decide +kernel⟩,
   ⟨withCmd (coZ coA) (cm 0x31 5 9 [(4, 4, 7), (16, 4, 160), (36, 4, 2), (40, 8, 1), (48, 8, 9)] ([5#8] ++ leBytes 79 0 ++ [6#8] ++ leBytes 79 0)), 3, 80, cm 0x31 5 9 [(4, 4, 7), (16, 4, 160), (36, 4, 2), (40, 8, 1), (48, 8, 9)] ([5#8] ++ leBytes 79 0 ++ [6#8] ++ leBytes 79 0), coA, [5, 6], coA.live.desc, by decide +kernel⟩,
   ⟨withCmd (coZ coA) (cm 0x32 5 9 [(4, 4, 7), (16, 4, 16), (36, 4, 2), (40, 8, 1), (48, 8, 9)] (leBytes 8 5 ++ leBytes 8 6)), 3, 8, cm 0x32 5 9 [(4, 4, 7), (16, 4, 16), (36, 4, 2), (40, 8, 1), (48, 8, 9)] (leBytes 8 5 ++ leBytes 8 6), coA, [5, 6], by decide +kernel⟩,
   ⟨withCmd (coZ coA) (cm 0x32 5 9 [(4, 4, 7), (16, 4, 16), (36, 4, 2), (40, 8, 1), (48, 8, 9)] (leBytes 8 5 ++ leBytes 8 5)), 3, 1, cm 0x32 5 9 [(4, 4, 7), (16, 4, 16), (36, 4, 2), (40, 8, 1), (48, 8, 9)] (leBytes 8 5 ++ leBytes 8 5), coA, [leBytes 8 5, leBytes 8 5], by decide +kernel⟩,
   ⟨withCmd z (cm 0x30 5 9 [(4, 4, 7), (16, 4, 160), (36, 4, 2), (40, 8, 1), (48, 8, 9)] ([5#8] ++ leBytes 79 0 ++ [6#8] ++ leBytes 79 0)), 3, cm 0x30 5 9 [(4, 4, 7), (16, 4, 160), (36, 4, 2), (40, 8, 1), (48, 8, 9)] ([5#8] ++ leBytes 79 0 ++ [6#8] ++ leBytes 79 0), by decide +kernel⟩,
   ⟨withCmd (z.setModel 7 hiM) (cm 0x33 5 9 [(4, 4, 7), (16, 4, 64), (36, 4, 2)]), 3, cm 0x33 5 9 [(4, 4, 7), (16, 4, 64), (36, 4, 2)], hiM, ⟨16, 1, 32, false, []⟩, by decide +kernel⟩,
   ⟨withCmd ((coZ coA).setInst 3 (some { inZ with kind := 1 })) (cm 0x21 5 9 [(4, 4, 7)]), 3, cm 0x21 5 9 [(4, 4, 7)], coA, by decide +kernel⟩,
   ⟨withCmd ((coZ coA).setInst 3 (some { inZ with kind := 0, object := 7 })) (cm 0x21 5 9 [(4, 4, 7)]), 3, 3, cm 0x21 5 9 [(4, 4, 7)], coA, { inZ with kind := 0, object := 7 }, by decide +kernel⟩,
   ⟨let c := { cm 0x32 5 9 [] with st := .waiting }; { withCmd z c with quay := { (withCmd z c).quay with locks := [⟨false, 1, 0, 4, 2⟩, ⟨false, 1, 5, 9, 3⟩, ⟨false, 1, 9, 9, 4⟩] } }, 3, { cm 0x32 5 9 [] with st := .waiting }, ⟨false, 1, 5, 9, 3⟩, by decide +kernel⟩,
   ⟨withCmd ((coZ coA).setFld (.ptCfg 5) PT_CFG_DLOGQ 1) { cm 0x32 5 9 [(4, 4, 7), (16, 4, 16), (36, 4, 2), (40, 8, 1), (48, 8, 9)] (leBytes 8 5 ++ leBytes 8 6) with st := .running }, 3, 5, { cm 0x32 5 9 [(4, 4, 7), (16, 4, 16), (36, 4, 2), (40, 8, 1), (48, 8, 9)] (leBytes 8 5 ++ leBytes 8 6) with st := .running }, coA.live.desc, [leBytes 8 5, leBytes 8 6], coA, by decide +kernel⟩,
   ⟨withCmd ((z.setModel 7 hiF).setFld (.ptCfg 5) PT_CFG_DLOGQ 1) { cm 0x33 5 9 [(4, 4, 7), (16, 4, 32), (36, 4, 1), (40, 8, 4)] with st := .running }, 3, 5, { cm 0x33 5 9 [(4, 4, 7), (16, 4, 32), (36, 4, 1), (40, 8, 4)] with st := .running }, [], [List.replicate 32 0#8], by decide +kernel⟩,
   ⟨withCmd ((coZ coB).setFld (.ptCfg 5) PT_CFG_DLOGQ 1) { cm 0x21 5 9 [(4, 4, 7)] with st := .running }, 3, 5, { cm 0x21 5 9 [(4, 4, 7)] with st := .running }, coB.live.desc, [], coB, by decide +kernel⟩,
   ⟨withCmd ((coZ coA).setFld (.ptCfg 5) PT_CFG_DLOGQ 0) { cm 0x32 5 9 [(4, 4, 7), (16, 4, 16), (36, 4, 2), (40, 8, 1), (48, 8, 9)] (leBytes 8 5 ++ leBytes 8 6) with st := .running }, 3, 5, { cm 0x32 5 9 [(4, 4, 7), (16, 4, 16), (36, 4, 2), (40, 8, 1), (48, 8, 9)] (leBytes 8 5 ++ leBytes 8 6) with st := .running }, coA.live.desc, [leBytes 8 5, leBytes 8 6], by decide +kernel⟩,
   ⟨withCmd ((coZ coA).setCpart 5 cpZ) { cm 0x32 5 9 [(4, 4, 7), (16, 4, 16), (36, 4, 2), (40, 8, 1), (48, 8, 9)] (leBytes 8 5 ++ leBytes 8 6) with st := .running }, 3, 5, { cm 0x32 5 9 [(4, 4, 7), (16, 4, 16), (36, 4, 2), (40, 8, 1), (48, 8, 9)] (leBytes 8 5 ++ leBytes 8 6) with st := .running }, deZ, by decide +kernel⟩,
   ⟨withCmd ((coZ coA).setCpart 5 { cpZ with entries := [{ deZ with op := 0x21 }] }) { cm 0x21 5 9 [(4, 4, 7)] with st := .running }, 3, 5, { cm 0x21 5 9 [(4, 4, 7)] with st := .running }, { deZ with op := 0x21 }, by decide +kernel⟩⟩

theorem witness_applicationDestagingFoldsAndCuts :
    (∃ (s : State) (p q : Nat) (e : DEntry) (k : Coll), s.quayUp = true ∧ q = (s.cpart p).applied + 1 ∧ q < (s.cpart
      p).next ∧ (s.cpart p).entries.find? (·.seq = q) = some e ∧ e.lost = false ∧ e.durable = true ∧ s.collOf
      e.obj = some k ∧ k.restoring = false ∧ e.op = 0x32) ∧
    (∃ (s : State) (p q : Nat) (e : DEntry) (k : Coll) (v : Vec) (h i a r : Nat) (o : Obj) (y : Seg) (d : List
      Byte), MemOk s ∧ s.quayUp = true ∧ q = (s.cpart p).applied + 1 ∧ q < (s.cpart p).next ∧ (s.cpart
      p).entries.find? (·.seq = q) = some e ∧ e.lost = false ∧ e.durable = true ∧ s.collOf e.obj = some k ∧
      k.restoring = false ∧ e.op = 0x32 ∧ d = k.live.desc ∧ k.live.vecs = [v] ∧ k.build = none ∧ k.next = none ∧
      v.dead = none ∧ v.id ∈ e.ids ∧ v.slot = some (h, i) ∧ s.obj h = some o ∧ o.pieces = [⟨0, o.size, some a⟩]
      ∧ i * elemSize d + 8 ≤ o.size ∧ k.live.store = [y] ∧ y.store = h ∧ y.rowObj = none ∧ y.rows[sketchRows d
      y.slots + i / 8192 * (1 + dValues d)]? = some r ∧ (r + 1024 ≤ a ∨ a + o.size ≤ r)) ∧
    (∃ (s : State) (p q : Nat) (e : DEntry) (k : Coll), s.quayUp = true ∧ q = (s.cpart p).applied + 1 ∧ q < (s.cpart
      p).next ∧ (s.cpart p).entries.find? (·.seq = q) = some e ∧ e.lost = false ∧ e.durable = true ∧ s.collOf
      e.obj = some k ∧ k.restoring = false ∧ (e.op = 0x30 ∨ e.op = 0x31)) ∧
    (∃ (s : State) (p q : Nat) (e : DEntry) (v : Model) (h : HistParam), s.quayUp = true ∧ q = (s.cpart p).applied +
      1 ∧ q < (s.cpart p).next ∧ (s.cpart p).entries.find? (·.seq = q) = some e ∧ e.lost = false ∧ e.durable =
      true ∧ e.op = 0x33 ∧ s.model e.obj = some v ∧ v.hist = some h ∧ (s.towersOf e.obj).restoring = false ∧ 1 ≤
      h.l ∧ e.recList ≠ []) ∧
    (∃ (s : State) (p q : Nat) (e : DEntry), q = (s.cpart p).applied + 1 ∧ (s.cpart p).entries.find? (·.seq = q) =
      some e ∧ e.lost = false ∧ e.durable = false) ∧
    (∃ (s : State) (p q : Nat) (e : DEntry), s.quayUp = true ∧ q = (s.cpart p).destaged + 1 ∧ q < (s.cpart p).next ∧
      (s.cpart p).entries.find? (·.seq = q) = some e ∧ e.lost = false ∧ e.durable = true) ∧
    (∃ (s : State) (k l : Nat) (v : Coll), s.collOf k = some v ∧ (v.live.vecs.any (fun x => x.list = l && x.dlog &&
      decide (x.at_ + 60 * tickS ≤ s.svcTime)) = true) ∧ v.folds.any (·.list = l) = false ∧ (∀ x ∈ v.live.vecs,
      x.list = l → x.dlog = false → x.dead = none)) ∧
    (∃ (s : State) (k l : Nat) (v : Coll) (f : Fold), s.quayUp = true ∧ s.collOf k = some v ∧ v.folds.find? (·.list
      = l) = some f ∧ (twf (fun _ => 1) v.live.segs = true) ∧ ((v.live.vecs.map fun x => (x.id, x.seq)).Nodup) ∧
      (s.writeSeg v.tenant v.part v.live f).isSome = true) ∧
    (∃ (s : State) (k l : Nat) (v : Coll) (f : Fold), s.collOf k = some v ∧ v.folds.find? (·.list = l) = some f ∧
      s.writeSeg v.tenant v.part v.live f = none) ∧
    (∃ (s : State) (k l cut : Nat) (v : Coll) (xs : List Seg), s.collOf k = some v ∧ v.cuts = [⟨l, cut, true, xs⟩] ∧
      (∀ c ∈ s.quay.cmds, c.op = 0x40 → c.object = k → ∀ r ∈ c.rp, cut ≤ r)) ∧
    (∃ (s : State) (k l cut : Nat) (v : Coll) (xs : List Seg), s.collOf k = some v ∧ v.cuts = [⟨l, cut, true, xs⟩] ∧
      ((s.queriesOf k).any (fun c => c.rp.any fun r => decide (r < cut)) = true)) ∧
    (∃ (s : State) (n : Nat) (c : Cmd) (k : Coll), Fetched n 0x25 c s ∧ c.n = n ∧ s.collOf c.object = some k ∧
      k.tenant = c.tenant ∧ k.dropped c.n = false ∧ (∀ x ∈ k.live.vecs, x.dead = none ∨ x.dlog = true)) ∧
    (∃ (s : State) (n l : Nat) (c : Cmd) (k : Coll), Fetched n 0x25 c s ∧ c.n = n ∧ s.collOf c.object = some k ∧
      k.tenant = c.tenant ∧ k.dropped c.n = false ∧ (((k.live.vecs.filter fun x => x.dead.isSome && !x.dlog).map
      (·.list)).eraseDups = [l])) :=
  ⟨⟨(coZ coA).setCpart 5 { cpZ with entries := [{ deZ with durable := true }] }, 5, 1, { deZ with durable := true }, coA, by decide +kernel⟩,
   by (refine ⟨({ coZ coT with tier := { (coZ coT).tier with objs := [obT] } }).setCpart 5 { cpZ with entries := [{ deZ with durable := true }] }, 5, 1, { deZ with durable := true }, coT, veT, obT.handle, 9, 65536, 69206016, obT, sgT, coA.live.desc, ?_⟩; and_intros <;> decide +kernel),
   ⟨(coZ coS).setCpart 5 { cpZ with entries := [deI] }, 5, 1, deI, coS, by decide +kernel⟩,
   ⟨(z.setModel 7 hiM).setCpart 5 { cpZ with entries := [deH] }, 5, 1, deH, hiM, ⟨16, 1, 32, false, []⟩, by decide +kernel⟩,
   ⟨(coZ coA).setCpart 5 cpZ, 5, 1, deZ, by decide +kernel⟩,
   ⟨(coZ coA).setCpart 5 { cpZ with entries := [{ deZ with durable := true }] }, 5, 1, { deZ with durable := true }, by decide +kernel⟩,
   ⟨{ (coZ coD) with svcTime := 60 * tickS }, 7, 3, coD, by decide +kernel⟩,
   ⟨coZ { coA with folds := [⟨3, 0, false, none⟩] }, 7, 3, { coA with folds := [⟨3, 0, false, none⟩] }, ⟨3, 0, false, none⟩, by decide +kernel⟩,
   ⟨coZ { coA with folds := [⟨3, 1, false, none⟩] }, 7, 3, { coA with folds := [⟨3, 1, false, none⟩] }, ⟨3, 1, false, none⟩, by decide +kernel⟩,
   ⟨coZ { coS with cuts := [⟨3, 9, true, []⟩] }, 7, 3, 9, { coS with cuts := [⟨3, 9, true, []⟩] }, [], by decide +kernel⟩,
   ⟨withCmd (coZ { coS with cuts := [⟨3, 9, true, []⟩] }) { cm 0x40 5 9 [(4, 4, 7)] with rp := some 8 }, 7, 3, 9, { coS with cuts := [⟨3, 9, true, []⟩] }, [], by decide +kernel⟩,
   ⟨withCmd (coZ coD) (cm 0x25 5 9 [(4, 4, 7)]), 3, cm 0x25 5 9 [(4, 4, 7)], coD, by decide +kernel⟩,
   ⟨withCmd (coZ coS) (cm 0x25 5 9 [(4, 4, 7)]), 3, 3, cm 0x25 5 9 [(4, 4, 7)], coS, by decide +kernel⟩⟩

theorem witness_generationsAndTowers :
    (∃ (s : State) (n k : Nat) (c : Cmd) (g : Gen), Fetched n 0x20 c s ∧ c.n = n ∧ genOf 1 (c.payload.take c.len0) =
      some g ∧ (s.coll.colls.filter (·.2.isSome)).length < 1024 ∧ (((s.coll.colls.filter (·.2.isSome)).filter
      fun k => decide (k.2.map Coll.part = some c.part)).length < 256) ∧ pickFree (Config.freeChoice s.fresh) (2
      ^ 32) ((s.coll.colls.filter (·.2.isSome)).map (·.1)) = some k) ∧
    (∃ (s : State) (n : Nat) (c : Cmd), Fetched n 0x20 c s ∧ c.n = n ∧ descOk (bytesAt (c.payload.take c.len0) 0
      128) = false) ∧
    (∃ (s : State) (n : Nat) (c : Cmd) (g : Gen), Fetched n 0x20 c s ∧ c.n = n ∧ genOf 1 (c.payload.take c.len0) =
      some g ∧ (1024 ≤ (s.coll.colls.filter (·.2.isSome)).length ∨ 256 ≤ ((s.coll.colls.filter
      (·.2.isSome)).filter fun k => decide (k.2.map Coll.part = some c.part)).length)) ∧
    (∃ (s : State) (n st : Nat) (c : Cmd) (k : Coll) (g : Gen), Fetched n 0x22 c s ∧ c.n = n ∧ s.collOf c.object =
      some k ∧ k.tenant = c.tenant ∧ k.dropped c.n = false ∧ k.dropAt = none ∧ genOf (k.live.num + 1)
      (c.payload.take c.len0) = some g ∧ ((st = stInvalidParameter ∧ mayChange k.live.desc g.desc = false) ∨ (st
      = stGenBusy ∧ mayChange k.live.desc g.desc = true ∧ (k.build.isSome = true ∨ k.next.isSome = true)))) ∧
    (∃ (s : State) (n : Nat) (c : Cmd) (k : Coll) (g : Gen), Fetched n 0x22 c s ∧ c.n = n ∧ s.collOf c.object = some
      k ∧ k.tenant = c.tenant ∧ k.dropped c.n = false ∧ k.dropAt = none ∧ genOf (k.live.num + 1) (c.payload.take
      c.len0) = some g ∧ mayChange k.live.desc g.desc = true ∧ k.build = none ∧ k.next = none) ∧
    (∃ (s : State) (k : Nat) (v : Coll) (b : Build) (cs : List (List (Nat × Nat))), s.collOf k = some v ∧ v.build =
      some b ∧ s.quayUp = true ∧ (cs = (v.live.vecs.filter fun x => decide (x.seq ≤ b.gen.base) && x.dead.all
      fun d => decide (b.gen.base < d)).map (fun x => b.gen.cost (b.gen.version (Config.freeChoice s.fresh)
      v.live.desc x.seq x.at_ false x.rec_).1.list)) ∧ crossAt (s.overQuota v.tenant) cs = none ∧ crossAt
      (s.overRoom v.tenant v.part) cs = none ∧ (s.drew.writeGen v.tenant v.part b.gen ((s.baseVecs v b).map
      (·.1))).isSome = true) ∧
    (∃ (s : State) (k : Nat) (v : Coll) (b : Build) (cs : List (List (Nat × Nat))), s.collOf k = some v ∧ v.build =
      some b ∧ (cs = (v.live.vecs.filter fun x => decide (x.seq ≤ b.gen.base) && x.dead.all fun d => decide
      (b.gen.base < d)).map (fun x => b.gen.cost (b.gen.version (Config.freeChoice s.fresh) v.live.desc x.seq
      x.at_ false x.rec_).1.list)) ∧ ((crossAt (s.overQuota v.tenant) cs).isSome = true ∨ (crossAt (s.overRoom
      v.tenant v.part) cs).isSome = true ∨ s.drew.writeGen v.tenant v.part b.gen ((s.baseVecs v b).map (·.1)) =
      none)) ∧
    (∃ (s : State) (n : Nat) (c : Cmd) (k : Coll), Fetched n 0x23 c s ∧ c.n = n ∧ s.collOf c.object = some k ∧
      k.tenant = c.tenant ∧ k.dropped c.n = false ∧ (k.build.isSome = true ∨ k.next.isSome = true)) ∧
    (∃ (s : State) (n : Nat) (c : Cmd) (k : Coll), Fetched n 0x23 c s ∧ c.n = n ∧ s.collOf c.object = some k ∧
      k.tenant = c.tenant ∧ k.dropped c.n = false ∧ k.build = none ∧ k.next = none) ∧
    (∃ (s : State) (n : Nat) (c : Cmd) (v : Model), Fetched n 0x52 c s ∧ c.n = n ∧ s.model c.object = some v ∧
      v.tenant = c.tenant ∧ (v.towers ≤ (if v.trained then 8 else 64) * 10 ^ 9) ∧ (s.towersOf c.object).sw =
      none) ∧
    (∃ (s : State) (n st : Nat) (c : Cmd) (v : Model), Fetched n 0x52 c s ∧ c.n = n ∧ s.model c.object = some v ∧
      v.tenant = c.tenant ∧ ((st = stCapacity ∧ (if v.trained then 8 else 64) * 10 ^ 9 < v.towers) ∨ (st =
      stGenBusy ∧ v.towers ≤ (if v.trained then 8 else 64) * 10 ^ 9 ∧ (s.towersOf c.object).sw ≠ none))) ∧
    (∃ (s : State) (n st : Nat) (c : Cmd) (k : Coll), Fetched n 0x24 c s ∧ c.n = n ∧ s.collOf c.object = some k ∧
      k.tenant = c.tenant ∧ k.dropped c.n = false ∧ k.dropAt = none ∧ bitAt c.flags 0 = false ∧ ((st = stGenBusy
      ∧ k.sw ≠ none) ∨ (st = stNoBuild ∧ k.sw = none ∧ k.next = none))) ∧
    (∃ (s : State) (n : Nat) (c : Cmd) (v : Model), Fetched n 0x24 c s ∧ c.n = n ∧ bitAt c.flags 0 = true ∧ s.model
      c.object = some v ∧ v.tenant = c.tenant ∧ (s.towersOf c.object).sw = none ∧ (s.towersOf c.object).next ≠
      none) ∧
    (∃ (s : State) (n : Nat) (c : Cmd) (k : Coll), Fetched n 0x24 c s ∧ c.n = n ∧ s.collOf c.object = some k ∧
      k.tenant = c.tenant ∧ k.dropped c.n = false ∧ k.dropAt = none ∧ bitAt c.flags 0 = false ∧ k.sw = none ∧
      k.next ≠ none) ∧
    (∃ (s : State) (k : Nat) (torn : Bool) (v : Coll) (w : Switch), s.collOf k = some v ∧ v.sw = some w ∧ s.svcTime
      < w.time) ∧
    (∃ (s : State) (k : Nat) (v : Coll) (w : Switch) (g : Gen) (a : GenRec), s.collOf k = some v ∧ v.sw = some w ∧
      v.next = some g ∧ w.time ≤ s.svcTime ∧ s.quayUp = true ∧ v.restoring = false ∧ v.folds = [] ∧
      v.recs.liveRec = some a) ∧
    (∃ (s : State) (k : Nat) (v : Coll) (w : Switch) (g : Gen) (a : GenRec) (b : Bool), s.collOf k = some v ∧ v.sw =
      some w ∧ v.next = some g ∧ w.time ≤ s.svcTime ∧ s.pwr.phase = .flushing b ∧ v.restoring = false ∧
      v.recs.liveRec = some a) ∧
    (∃ (s : State) (k : Nat) (w : Switch) (bs : List Byte) (st a : GenRec), (s.towersOf k).sw = some w ∧ (s.towersOf
      k).next = some bs ∧ (s.towersOf k).pub = false ∧ recAt (s.towersOf k).recs.staging = some st ∧ w.time ≤
      s.svcTime ∧ s.quayUp = true ∧ (s.towersOf k).restoring = false ∧ (s.towersOf k).recs.liveRec = some a) ∧
    (∃ (s : State) (k : Nat) (v : Model), s.model k = some v ∧ (s.towersOf k).pub = true ∧ (s.towersOf k).next =
      none ∧ s.quayUp = true ∧ (s.towersOf k).restoring = false) ∧
    (∃ (s : State) (k i : Nat) (v : Coll) (g : Gen), s.collOf k = some v ∧ v.old = [(g, i)] ∧ (∀ c ∈ s.quay.cmds,
      c.op = 0x40 → c.object = k → i ≤ c.n)) ∧
    (∃ (s : State) (k i : Nat) (v : Coll) (g : Gen), s.collOf k = some v ∧ v.old = [(g, i)] ∧ ((s.queriesOf k).any
      (fun c => decide (c.n < i)) = true)) ∧
    (∃ (s : State) (n l : Nat) (c : Cmd) (k : Coll) (dest : Option Nat), Fetched n 0x14 c s ∧ c.n = n ∧ s.collOf
      c.object = some k ∧ k.dropped c.n = false ∧ l = c.fld 40 4 ∧ (dest = (if bitAt c.flags 0 then some (c.fld
      44 2) else none)) ∧ l < dNcent k.live.desc ∧ c.fld 44 2 ≤ 4095 ∧ c.fld 46 1 ≤ 11 ∧ s.placeBad k dest
      (c.fld 46 1) = false ∧ (s.overQuota k.tenant (if dest.isSome then 1 else 0) (if dest.isSome =
      (k.live.bankOf l).isSome then 0 else (k.live.vecs.filter fun v => v.list = l).length * (dSketch
      k.live.desc / 8 + ceilDiv (1 + dValues k.live.desc) 8)) = false) ∧ ((s.moveAll k.tenant k.part k.live.desc
      dest (c.fld 46 1) (k.live.store.filter fun x => x.list = l)).isSome = true) ∧ (twf (fun _ => (none :
      Option Nat)) k.live.bank = true)) ∧
    (∃ (s : State) (n g : Nat) (c : Cmd) (k : Coll), Fetched n 0x14 c s ∧ c.n = n ∧ s.collOf c.object = some k ∧
      k.dropped c.n = false ∧ g = c.fld 44 2 ∧ c.fld 40 4 < dNcent k.live.desc ∧ g ≤ 4095 ∧ c.fld 46 1 ≤ 11 ∧
      ((bitAt c.flags 0 = true ∧ (dSketch k.live.desc = 1024 ∨ s.owner 4 g ≠ k.part)) ∨ (bitAt c.flags 0 = false
      ∧ ∀ i < 36, s.owner 2 (36 * c.fld 46 1 + i) ≠ k.part))) :=
  ⟨by (refine ⟨withCmd z ccC, 3, Config.freeChoice 0 % 2 ^ 32, ccC, ⟨1, ccD, [], List.replicate 32768 0#8, 0, 0, [], [], [], []⟩, ?_⟩; refine ⟨⟨rfl, rfl, rfl⟩, ?_⟩; refine ⟨by decide +kernel, ?_⟩; refine ⟨genOf_ccP 1, ?_⟩; (iterate 2 refine ⟨by decide +kernel, ?_⟩); exact pickFree_nil _ _ _ (by decide +kernel) (by decide)),
   ⟨withCmd z (cm 0x20 5 9 []), 3, cm 0x20 5 9 [], by decide +kernel⟩,
   by (refine ⟨withCmd { z with coll := { z.coll with colls := (List.range 256).map fun i => (i, some coA) } } ccC, 3, ccC, ⟨1, ccD, [], List.replicate 32768 0#8, 0, 0, [], [], [], []⟩, ?_⟩; refine ⟨⟨rfl, rfl, rfl⟩, ?_⟩; refine ⟨by decide +kernel, ?_⟩; refine ⟨genOf_ccP 1, ?_⟩; decide +kernel),
   by (refine ⟨withCmd (coZ coB) buC, 3, stGenBusy, buC, coB, ⟨2, ccD, [], List.replicate 32768 0#8, 0, 0, [], [], [], []⟩, ?_⟩; refine ⟨⟨rfl, rfl, rfl⟩, ?_⟩; (iterate 5 refine ⟨by decide +kernel, ?_⟩); refine ⟨genOf_buC, ?_⟩; decide +kernel),
   by (refine ⟨withCmd (coZ coA) buC, 3, buC, coA, ⟨2, ccD, [], List.replicate 32768 0#8, 0, 0, [], [], [], []⟩, ?_⟩; refine ⟨⟨rfl, rfl, rfl⟩, ?_⟩; (iterate 5 refine ⟨by decide +kernel, ?_⟩); refine ⟨genOf_buC, ?_⟩; decide +kernel),
   ⟨coZ coB, 7, coB, ⟨{ coA.live with num := 2, base := 6, vecs := [] }, 3⟩, [], by decide +kernel⟩,
   ⟨coZ coC, 7, coC, ⟨{ coA.live with num := 2, base := 6, vecs := [] }, 3⟩, [[(0, 33), (0, 40), (0, 10)], [(0, 33), (0, 40), (0, 10)]], by decide +kernel⟩,
   ⟨withCmd (coZ coB) (cm 0x23 5 9 [(4, 4, 7)]), 3, cm 0x23 5 9 [(4, 4, 7)], coB, by decide +kernel⟩,
   ⟨withCmd (coZ coA) (cm 0x23 5 9 [(4, 4, 7)]), 3, cm 0x23 5 9 [(4, 4, 7)], coA, by decide +kernel⟩,
   ⟨withCmd (z.setModel 7 hiM) (cm 0x52 5 9 [(4, 4, 7), (16, 4, 2)] [1#8, 2#8, 3#8]), 3, cm 0x52 5 9 [(4, 4, 7), (16, 4, 2)] [1#8, 2#8, 3#8], hiM, by decide +kernel⟩,
   ⟨withCmd (z.setModel 7 { hiM with towers := 8 * 10 ^ 9 + 1 }) (cm 0x52 5 9 [(4, 4, 7)]), 3, stCapacity, cm 0x52 5 9 [(4, 4, 7)], { hiM with towers := 8 * 10 ^ 9 + 1 }, by decide +kernel⟩,
   ⟨withCmd (coZ coA) (cm 0x24 5 9 [(4, 4, 7), (40, 8, 5)]), 3, stNoBuild, cm 0x24 5 9 [(4, 4, 7), (40, 8, 5)], coA, by decide +kernel⟩,
   ⟨withCmd ((z.setModel 7 hiM).setTowers 7 twZ) (cm 0x24 5 9 [(1, 1, 1), (4, 4, 7), (40, 8, 5)]), 3, cm 0x24 5 9 [(1, 1, 1), (4, 4, 7), (40, 8, 5)], hiM, by decide +kernel⟩,
   ⟨withCmd (coZ coN) (cm 0x24 5 9 [(4, 4, 7), (40, 8, 5)]), 3, cm 0x24 5 9 [(4, 4, 7), (40, 8, 5)], coN, by decide +kernel⟩,
   ⟨coZ { coN with sw := some ⟨3, 1⟩ }, 7, false, { coN with sw := some ⟨3, 1⟩ }, ⟨3, 1⟩, by decide +kernel⟩,
   ⟨coZ { coN with sw := some ⟨3, 0⟩, recs := { a := rcZ 1 } }, 7, { coN with sw := some ⟨3, 0⟩, recs := { a := rcZ 1 } }, ⟨3, 0⟩, { coA.live with num := 2, base := 6 }, ⟨0, 7, 1, 1, 0, 0, 0, 0⟩, by decide +kernel⟩,
   ⟨{ coZ coX with pwr := { z.pwr with phase := .flushing true } }, 7, coX, ⟨3, 0⟩, { coA.live with num := 2, base := 6 }, ⟨0, 7, 1, 1, 0, 0, 0, 0⟩, true, by decide +kernel⟩,
   ⟨(z.setModel 7 hiM).setTowers 7 { twZ with sw := some ⟨3, 0⟩ }, 7, ⟨3, 0⟩, [1#8], ⟨3, 7, 2, 0, 0, 0, 0, 0⟩, ⟨0, 7, 1, 1, 0, 0, 0, 0⟩, by decide +kernel⟩,
   ⟨(z.setModel 7 hiM).setTowers 7 { pub := true }, 7, hiM, by decide +kernel⟩,
   ⟨coZ { coA with old := [(coS.live, 3)] }, 7, 3, { coA with old := [(coS.live, 3)] }, coS.live, by decide +kernel⟩,
   ⟨withCmd (coZ { coA with old := [(coS.live, 4)] }) (cm 0x40 5 9 [(4, 4, 7)]), 7, 4, { coA with old := [(coS.live, 4)] }, coS.live, by decide +kernel⟩,
   ⟨withCmd ((coZ coA).setOwner 4 4095 5) (cm 0x14 5 9 [(1, 1, 1), (4, 4, 7), (40, 4, 1023), (44, 2, 4095)]), 3, 1023, cm 0x14 5 9 [(1, 1, 1), (4, 4, 7), (40, 4, 1023), (44, 2, 4095)], coA, some 4095, by decide +kernel⟩,
   ⟨withCmd (coZ coA) (cm 0x14 5 9 [(1, 1, 1), (4, 4, 7), (40, 4, 1023), (44, 2, 4095)]), 3, 4095, cm 0x14 5 9 [(1, 1, 1), (4, 4, 7), (40, 4, 1023), (44, 2, 4095)], coA, by decide +kernel⟩⟩

theorem witness_queriesAndTheirCompletions :
    (∃ (s : State) (n rp : Nat) (c : Cmd) (k : Coll) (i : Nat), Fetched n 0x40 c s ∧ c.n = n ∧ c.rp = some rp ∧
      s.collOf c.object = some k ∧ k.tenant = c.tenant ∧ k.dropped c.n = false ∧ (qRank c = true → (s.model
      (qModel c)).any (fun m => decide (m.tenant = c.tenant)) = true) ∧ (qParamsOk c k.live.desc (s.isV1 c) =
      true ∧ (qLocal c = true → s.sharded c.object = true) ∧ qBuffer c ≤ c.len1) ∧ ((if qAudit c then
      (s.quay.cmds.filter fun d => d.op = 0x40 && d.part = c.part && d.n ≠ n && qAudit d && d.inFlight n).length
      else 0) < 4) ∧ (s.pickInst c.part (if qRank c then 1 else 0) (if qRank c then qModel c else c.object) none
      = some i)) ∧
    (∃ (s : State) (n rp : Nat) (c : Cmd) (k : Coll) (x : Nat), Fetched n 0x40 c s ∧ c.n = n ∧ c.rp = some rp ∧
      s.collOf c.object = some k ∧ k.tenant = c.tenant ∧ k.dropped c.n = false ∧ qRank c = false ∧ x = dNcent
      k.live.desc ∧ (qProbe c = 0 ∨ 4096 < qProbe c ∨ x < qProbe c ∨ qCand c < 16 ∨ 65536 < qCand c ∨ qK c = 0 ∨
      4096 < qK c ∨ qCand c < qK c ∨ (c.deadline ≠ 0 ∧ (qRt c = false ∨ c.deadline < 10 ∨ 1000000 < c.deadline))
      ∨ (qRt c = true ∧ qAudit c = true) ∨ c.len0 ≠ qBytes c k.live.desc ∨ (s.isV1 c = false ∧ filterOk c
      k.live.desc = false) ∨ (qLocal c = true ∧ s.sharded c.object = false))) ∧
    (∃ (s : State) (n rp : Nat) (c : Cmd) (k : Coll) (st : Nat), Fetched n 0x40 c s ∧ c.n = n ∧ c.rp = some rp ∧
      s.collOf c.object = some k ∧ k.tenant = c.tenant ∧ k.dropped c.n = false ∧ (qRank c = true → (s.model
      (qModel c)).any (fun m => decide (m.tenant = c.tenant)) = true) ∧ qParamsOk c k.live.desc (s.isV1 c) =
      true ∧ (qLocal c = true → s.sharded c.object = true) ∧ ((st = stBufferSmall ∧ c.len1 < qBuffer c) ∨ (st =
      stAuditBusy ∧ qBuffer c ≤ c.len1 ∧ qAudit c = true ∧ 4 ≤ (s.quay.cmds.filter fun d => d.op = 0x40 &&
      d.part = c.part && d.n ≠ n && qAudit d && d.inFlight n).length) ∨ (st = stNoPlan ∧ qBuffer c ≤ c.len1 ∧
      ((if qAudit c then (s.quay.cmds.filter fun d => d.op = 0x40 && d.part = c.part && d.n ≠ n && qAudit d &&
      d.inFlight n).length else 0) < 4) ∧ ∀ i < 80, s.qualifies c.part (if qRank c then 1 else 0) (if qRank c
      then qModel c else c.object) i = false))) ∧
    (∃ (s : State) (n rp : Nat) (c : Cmd) (k : Coll) (st : Nat), Fetched n 0x40 c s ∧ c.n = n ∧ c.rp = some rp ∧
      s.collOf c.object = some k ∧ k.tenant = c.tenant ∧ k.dropped c.n = false ∧ qRank c = true ∧ ((st =
      stNoObject ∧ s.model (qModel c) = none) ∨ (st = stNotOwner ∧ (s.model (qModel c)).any (fun m => decide
      (m.tenant ≠ c.tenant)) = true))) ∧
    (∃ (s : State) (n rp i : Nat) (m : Merge) (c : Cmd) (g : Gen), s.quayUp = true ∧ s.flag .qStat Q_STAT_PLSTOP =
      false ∧ s.cmd n = some c ∧ c.n = n ∧ c.op = 0x40 ∧ c.st = .running ∧ s.taskInst n = some i ∧ s.genFor c =
      some g ∧ c.rp = some rp ∧ qAudit c = false ∧ s.overdue c = false ∧ qRank c = false ∧ s.sharded c.object =
      false ∧ (s.qp c.qp).mode = .active ∧ (s.qp c.qp).delBy = none ∧ s.qFilter c = ([], []) ∧ qProbe c = dNcent
      g.desc ∧ g.vecs.length ≤ qCand c ∧ (∀ v ∈ g.vecs, v.list < dNcent g.desc) ∧ (∀ v ∈ g.vecs, ∀ x ∈ v.dead, x
      ≤ rp) ∧ (g.vecs.map Vec.id).Nodup ∧ s.tier.failed = []) ∧
    (∃ (s : State) (n st sp0 sp1 : Nat) (m : Merge) (c : Cmd) (out : List Byte) (q : QP), s.quayUp = true ∧ s.flag
      .qStat Q_STAT_PLSTOP = false ∧ s.cmd n = some c ∧ c.st = .done st sp0 sp1 out ∧ s.overdue c = false ∧ q =
      s.qp c.qp ∧ q.mode = .active ∧ q.delBy = none ∧ q.posted < q.cqDepth) ∧
    (∃ (s : State) (n st sp0 sp1 : Nat) (m : Merge) (c : Cmd) (out : List Byte), s.quayUp = true ∧ s.flag .qStat
      Q_STAT_PLSTOP = false ∧ s.cmd n = some c ∧ c.st = .done st sp0 sp1 out ∧ ((s.qp c.qp).mode = .error ∨
      (s.qp c.qp).mode = .absent) ∧ (s.qp c.qp).delBy = none) ∧
    (∃ (s : State) (n st sp0 sp1 : Nat) (m : Merge) (c : Cmd) (out : List Byte) (w : Nat × Nat × Nat × Nat),
      s.quayUp = true ∧ s.flag .qStat Q_STAT_PLSTOP = false ∧ s.cmd n = some c ∧ c.n = n ∧ c.st = .done st sp0
      sp1 out ∧ s.overdue c = true ∧ (st = stSuccess ∨ st = stShardsUnavailable ∨ st = stTaskAborted ∨ st =
      stNoPlan) ∧ (s.qp c.qp).mode = .active ∧ (s.qp c.qp).delBy = none ∧ s.ctl.missed.find? (·.1 = n) = some w) ∧
    (∃ (s : State) (n : Nat) (c : Cmd), s.cmd n = some c ∧ c.op = 0x40 ∧ qAudit c = true ∧ (s.taskInst n).isSome =
      true ∧ n ∉ s.coll.audits) ∧
    (∃ (s : State) (n p old from_ : Nat) (c : Cmd) (rs : List LogRec), Fetched n 0x03 c s ∧ c.n = n ∧ c.fld 40 1 = 0
      ∧ p = c.fld 41 1 ∧ p ≤ 64 ∧ c.fld 42 3 = 0 ∧ old = s.fld (.evqLsn p) EVQ_LSN_LSN - (s.log p).length ∧
      from_ = max old (c.fld 48 8) ∧ rs = ((s.log p).drop (from_ - old)).take (c.len1 / 32)) ∧
    (∃ (s : State) (n p : Nat) (c : Cmd), Fetched n 0x03 c s ∧ c.n = n ∧ c.fld 40 1 = 1 ∧ p = c.fld 41 1 ∧ p ≤ 63 ∧
      c.fld 42 3 = 0 ∧ c.fld 48 8 = 0) ∧
    (∃ (s : State) (n : Nat) (c : Cmd) (tb : Table), Fetched n 0x03 c s ∧ c.n = n ∧ c.fld 40 1 = 2 ∧ c.fld 48 8 = 0
      ∧ s.table (c.fld 44 1) (c.fld 42 2) = some tb) ∧
    (∃ (s : State) (n : Nat) (c : Cmd), Fetched n 0x03 c s ∧ c.n = n ∧ ((c.fld 40 1 = 0 ∧ (64 < c.fld 41 1 ∨ c.fld
      42 3 ≠ 0)) ∨ (c.fld 40 1 = 1 ∧ (63 < c.fld 41 1 ∨ c.fld 42 3 ≠ 0 ∨ c.fld 48 8 ≠ 0)) ∨ (c.fld 40 1 = 2 ∧
      c.fld 48 8 ≠ 0) ∨ 2 < c.fld 40 1)) ∧
    (∃ (s : State) (p seq k l : Nat) (e : DEntry) (xs : List Nat), RegsOk s ∧ s.quayUp = true ∧ (s.cpart
      p).entries.find? (·.seq = seq) = some e ∧ e.durable = true ∧ e.lost = false ∧ e.applied = false ∧ (s.qp
      e.qp).born ≤ e.cmd ∧ (s.qp e.qp).mode = .active) ∧
    (∃ (s : State) (p seq k l : Nat) (e : DEntry) (xs : List Nat), RegsOk s ∧ s.quayUp = true ∧ (s.cpart
      p).entries.find? (·.seq = seq) = some e ∧ e.durable = true ∧ e.lost = false ∧ e.applied = false ∧ (e.cmd <
      (s.qp e.qp).born ∨ (s.qp e.qp).mode = .absent ∨ (s.qp e.qp).mode = .error)) ∧
    (∃ (s : State) (kind p seq k l : Nat) (e : DEntry) (xs : List Nat), s.quayUp = true ∧ (s.cpart p).entries.find?
      (·.seq = seq) = some e ∧ e.durable = true ∧ e.lost = false ∧ ((kind = 0 ∧ e.applied = false) ∨ (kind = 2 ∧
      e.applied = true ∧ e.destaged = false))) ∧
    (∃ (s : State) (p seq k l : Nat) (v : Coll) (xs : List Nat), s.quayUp = true ∧ s.collOf k = some v ∧
      ((v.live.vecs.filter fun x => xs.contains x.id && x.dead.isNone) ≠ []) ∧ (v.folds ≠ [] ∨ v.build.isSome =
      true) ∧ RegsOk s ∧ v.part < 64) ∧
    (∃ (s : State) (p seq k l : Nat) (v : Coll) (xs : List Nat), s.quayUp = true ∧ s.collOf k = some v ∧ v.folds.any
      (·.list = l) = true) :=
  ⟨⟨quZ { cm 0x40 5 9 [(4, 4, 7), (16, 4, 64), (20, 4, 4096), (40, 2, 1024), (42, 2, 2), (44, 4, 16)] qp0 with rp := some 4 }, 3, 4, { cm 0x40 5 9 [(4, 4, 7), (16, 4, 64), (20, 4, 4096), (40, 2, 1024), (42, 2, 2), (44, 4, 16)] qp0 with rp := some 4 }, coQ, 0, by decide +kernel⟩,
   ⟨quZ { cm 0x40 5 9 [(4, 4, 7)] with rp := some 4 }, 3, 4, { cm 0x40 5 9 [(4, 4, 7)] with rp := some 4 }, coQ, 1024, by decide +kernel⟩,
   ⟨(quZ { cm 0x40 5 9 [(4, 4, 7), (16, 4, 64), (20, 4, 4096), (40, 2, 1024), (42, 2, 2), (44, 4, 16)] qp0 with rp := some 4 }).setInst 0 none, 3, 4, { cm 0x40 5 9 [(4, 4, 7), (16, 4, 64), (20, 4, 4096), (40, 2, 1024), (42, 2, 2), (44, 4, 16)] qp0 with rp := some 4 }, coQ, stNoPlan, by decide +kernel⟩,
   ⟨quZ { cm 0x40 5 9 [(1, 1, 4), (4, 4, 7), (16, 4, 64), (20, 4, 4096), (40, 2, 1024), (42, 2, 2), (44, 4, 16)] qp0 with rp := some 4 }, 3, 4, { cm 0x40 5 9 [(1, 1, 4), (4, 4, 7), (16, 4, 64), (20, 4, 4096), (40, 2, 1024), (42, 2, 2), (44, 4, 16)] qp0 with rp := some 4 }, coQ, stNoObject, by decide +kernel⟩,
   by (refine ⟨quR, 3, 4, 0, { own := false }, { cm 0x40 5 9 [(4, 4, 7), (16, 4, 64), (20, 4, 4096), (40, 2, 1024), (42, 2, 2), (44, 4, 16)] qp0 with rp := some 4, st := .running, gen := 1 }, coQ.live, ?_⟩; and_intros <;> decide +kernel),
   ⟨withCmd (z.setQp 1 { mode := .active, cqDepth := 4, posted := 3, cqBase := 4096, defers := [(0x25, 7), (0x25, 8)] }) { cm 0x30 5 9 [] with st := .done 0x18 7 8 [5#8] }, 3, 0x18, 7, 8, {}, { cm 0x30 5 9 [] with st := .done 0x18 7 8 [5#8] }, [5#8], { mode := .active, cqDepth := 4, posted := 3, cqBase := 4096, defers := [(0x25, 7), (0x25, 8)] }, by decide +kernel⟩,
   ⟨withCmd (z.setQp 1 { mode := .error }) { cm 0x30 5 9 [] with st := .done 0x18 7 8 [] }, 3, 0x18, 7, 8, {}, { cm 0x30 5 9 [] with st := .done 0x18 7 8 [] }, [], by decide +kernel⟩,
   ⟨{ withCmd (z.setQp 1 { mode := .active, cqDepth := 4 }) { cm 0x40 5 9 [(1, 1, 1), (32, 4, 10)] with st := .done stNoPlan 0 0 [] } with svcTime := 20 * tickUs, ctl := { z.ctl with missed := [(3, 0x1FFF, 0xF, 4)] } }, 3, stNoPlan, 0, 0, {}, { cm 0x40 5 9 [(1, 1, 1), (32, 4, 10)] with st := .done stNoPlan 0 0 [] }, [], (3, 0x1FFF, 0xF, 4), by decide +kernel⟩,
   ⟨withCmd ((dropFirstCmd quR)) { cm 0x40 5 9 [(4, 4, 7), (16, 4, 64), (20, 4, 4096), (40, 2, 1024), (42, 2, 2), (44, 4, 16)] qp0 with entry := (w4 0x40 [(1, 1, 2)]) }, 3, { cm 0x40 5 9 [(4, 4, 7), (16, 4, 64), (20, 4, 4096), (40, 2, 1024), (42, 2, 2), (44, 4, 16)] qp0 with entry := (w4 0x40 [(1, 1, 2)]) }, by decide +kernel⟩,
   ⟨withCmd (((z.putRec 64 ⟨1, 2, 3, 4, [5#8]⟩).putRec 64 ⟨6, 2, 3, 4, []⟩)) (cm 3 0 0 [(41, 1, 64), (20, 4, 4096), (48, 8, 1)]), 3, 64, 0, 1, cm 3 0 0 [(41, 1, 64), (20, 4, 4096), (48, 8, 1)], [⟨⟨6, 2, 3, 4, []⟩, 0⟩], by decide +kernel⟩,
   ⟨withCmd { z with quay := { z.quay with recTables := [(5, [⟨1, 2, 3⟩])], seals := [(5, 9)] } } (cm 3 0 0 [(40, 1, 1), (41, 1, 5), (20, 4, 4096)]), 3, 5, cm 3 0 0 [(40, 1, 1), (41, 1, 5), (20, 4, 4096)], by decide +kernel⟩,
   ⟨withCmd { rkZ with rank := { rkZ.rank with tables := [{ tbZ with ring := [(21, 5), (7, 6)], sampled := 9 }] } } (cm 3 0 0 [(40, 1, 2), (42, 2, 7), (44, 1, 63), (20, 4, 8)]), 3, cm 3 0 0 [(40, 1, 2), (42, 2, 7), (44, 1, 63), (20, 4, 8)], { tbZ with ring := [(21, 5), (7, 6)], sampled := 9 }, by decide +kernel⟩,
   ⟨withCmd z (cm 3 0 0 [(40, 1, 3)]), 3, cm 3 0 0 [(40, 1, 3)], by decide +kernel⟩,
   ⟨((coZ coA).setCpart 5 { cpZ with entries := [{ deZ with durable := true }] }).setQp 1 { mode := .active, tenant := 9 }, 5, 1, 0, 0, { deZ with durable := true }, [], by decide +kernel⟩,
   ⟨((coZ coA).setCpart 5 { cpZ with entries := [{ deZ with durable := true }] }), 5, 1, 0, 0, { deZ with durable := true }, [], by decide +kernel⟩,
   ⟨(coZ coA).setCpart 5 { cpZ with entries := [{ deZ with durable := true }] }, 0, 5, 1, 0, 0, { deZ with durable := true }, [], by decide +kernel⟩,
   ⟨coZ { coA with folds := [⟨3, 1, false, none⟩] }, 0, 0, 7, 0, { coA with folds := [⟨3, 1, false, none⟩] }, [5], by decide +kernel⟩,
   ⟨coZ { coA with folds := [⟨3, 1, false, none⟩] }, 0, 0, 7, 3, { coA with folds := [⟨3, 1, false, none⟩] }, [], by decide +kernel⟩⟩

theorem witness_everyAbortAdvancesTheEpoch :
    (∃ (s : State) (i : Nat) (task : Option Nat) (a : AbortReq) (v : Inst), RegsOk s ∧ i < 80 ∧ s.ctl.aborting.find?
      (·.inst = i) = some a ∧ s.inst i = some v ∧ (∀ q ∈ v.quads, q < 80)) :=
  ⟨abZ [tkZ] 65535, 0, none, ⟨0, 0x301, 0, false⟩, { inZ with tasks := [tkZ] }, by decide +kernel⟩

set_option maxRecDepth 20000 in
theorem witness_instancesTasksAndAborts :
    (∃ (s : State) (p e : Nat), RegsOk s ∧ s.pwrGood = true ∧ s.flag .schLdstat SCH_LDSTAT_BUSY = false) ∧
    (∃ (s : State) (p e : Nat), RegsOk s ∧ s.pwrGood = true ∧ s.flag .schLdstat SCH_LDSTAT_BUSY = true) ∧
    (∃ (s : State) (l : LoadReq), RegsOk s ∧ s.ctl.load = some l ∧ s.partOn l.part = false ∧ s.flag .schLdctl
      SCH_LDCTL_GO = false ∧ s.flag .schLdctl SCH_LDCTL_UNLOAD = false) ∧
    (∃ (s : State) (l : LoadReq) (i nq : Nat) (img : List Byte) (qs : List Nat), RegsOk s ∧ s.ctl.load = some l ∧
      s.partOn l.part = true ∧ s.tier.failed = [] ∧ (∀ k < 12, s.fld (.memHstat k) MEM_HSTAT_CHFAIL = 0) ∧
      l.image < 12 * hbmSize ∧ l.bind < 12 * hbmSize ∧ img = s.rd l.image (pImglen (s.rd l.image 128)) ∧
      s.ownsRange l.part l.image 128 = true ∧ s.ownsRange l.part l.image (pImglen img) = true ∧ l.image +
      pImglen img ≤ 12 * hbmSize ∧ l.bind + 2 * pNquad img ≤ 12 * hbmSize ∧ s.imageErr img = none ∧ nq = pNquad
      img ∧ (qs = (List.range nq).map (fun k => s.rdLE (l.bind + 2 * k) 2)) ∧ s.ownsRange l.part l.bind (2 * nq)
      = true ∧ s.bindOk img l.part qs = true ∧ l.epoch ≠ 0 ∧ (pickFree (Config.freeChoice s.fresh) 80
      ((List.range 80).filter fun k => (s.inst k).isSome) = some i) ∧ (s.placeScheds qs ((List.range (schRows
      img).length).zip (schRows img)) []).isSome = true ∧ s.flag .schLdctl SCH_LDCTL_GO = false ∧ s.flag
      .schLdctl SCH_LDCTL_UNLOAD = false) ∧
    (∃ (s : State) (i : Nat) (v : Inst), RegsOk s ∧ s.pwrGood = true ∧ i < 80 ∧ s.inst i = some v ∧ s.flag
      .schLdstat SCH_LDSTAT_BUSY = false ∧ s.flag .schLdctl SCH_LDCTL_GO = false ∧ (∀ w ∈ s.ctl.waiting, w.1 ≠
      i)) ∧
    (∃ (s : State) (i : Nat) (v : Inst), RegsOk s ∧ s.ctl.unload = some i ∧ i < 80 ∧ s.inst i = some v ∧ (twf (fun _
      => (none : Option Inst)) s.ctl.insts = true) ∧ v.tasks = [] ∧ (∀ q ∈ v.quads, q < 80) ∧ s.flag (.schInst
      i) SCH_INST_ABORTING = false ∧ s.flag .schLdctl SCH_LDCTL_GO = false ∧ s.flag .schLdctl SCH_LDCTL_UNLOAD =
      false) ∧
    (∃ (s : State) (i : Nat) (v : Inst), s.ctl.unload = some i ∧ s.inst i = some v ∧ v.tasks ≠ []) ∧
    (∃ (s : State) (i q : Nat) (task : Option Nat) (a : AbortReq) (v : Inst), RegsOk s ∧ i < 80 ∧ q < 80 ∧
      s.ctl.aborting.find? (·.inst = i) = some a ∧ s.inst i = some v ∧ v.quads = [q] ∧ (twf (fun _ => (none :
      Option SuSlot)) s.eng.slots = true) ∧ v.tasks = [] ∧ v.kind ≠ 2) ∧
    (∃ (s : State) (i : Nat) (a : AbortReq) (v : Inst) (tk : Task), RegsOk s ∧ i < 80 ∧ s.ctl.aborting.find? (·.inst
      = i) = some a ∧ s.inst i = some v ∧ v.tasks = [tk] ∧ tk.started = true ∧ v.kind ≠ 2) ∧
    (∃ (s : State) (i q : Nat) (v : Inst) (w : Nat × Task), Canonical s ∧ i < 80 ∧ q < 80 ∧ s.inst i = some v ∧
      v.quads.head? = some q ∧ s.ctl.waiting.find? (·.1 = i) = some w ∧ s.quayUp = true ∧ v.unloading = false ∧
      s.flag (.schInst i) SCH_INST_ABORTING = false ∧ (∀ x ∈ v.tasks, x.started = true → x.task % 16 ≠
      v.nextTask % 16) ∧ v.started.length < v.limit ∧ v.tring + 1024 ≤ spSize ∧ v.startsem < 256 ∧ s.sem q
      v.startsem < 0xFFFF ∧ s.fld (.pwrQuad q) PWR_QUAD_STATE = 0 ∧ (∀ b < 64, s.bankSt (q / 4) b = 0) ∧
      s.net.onWipe = []) ∧
    (∃ (s : State) (n : Nat) (w : Nat × Task), (s.ctl.waiting.find? (fun w => w.2.cmd = n && bitAt w.2.flags 0 &&
      decide (w.2.deadline ≠ 0) && decide (w.2.deadline ≤ s.svcTime)) = some w)) ∧
    (∃ (s : State) (n i k : Nat) (v : Inst), (s.ctl.waiting.find? (fun w => w.2.cmd = n && bitAt w.2.flags 0 &&
      decide (w.2.deadline ≠ 0) && decide (w.2.deadline ≤ s.svcTime)) = none) ∧ i < 80 ∧ s.inst i = some v ∧
      (v.tasks.any (fun w => w.cmd = n && bitAt w.flags 0 && decide (w.deadline ≠ 0) && decide (w.deadline ≤
      s.svcTime)) = true) ∧ (∀ j < i, (s.inst j).all (fun v => !(v.tasks.any (fun w => w.cmd = n && bitAt
      w.flags 0 && decide (w.deadline ≠ 0) && decide (w.deadline ≤ s.svcTime)))) = true) ∧ k / 64 ∈ v.quads ∧
      s.fld (.frySwait k) FRY_SWAIT_CAUSE ≠ 0 ∧ (∀ q ∈ v.quads, ∀ j < 64, s.fld (.frySwait (64 * q + j))
      FRY_SWAIT_CAUSE ≠ 0 → (s.fld (.frySwait k) FRY_SWAIT_SINCE < s.fld (.frySwait (64 * q + j))
      FRY_SWAIT_SINCE ∨ (s.fld (.frySwait k) FRY_SWAIT_SINCE = s.fld (.frySwait (64 * q + j)) FRY_SWAIT_SINCE ∧
      k ≤ 64 * q + j)))) ∧
    (∃ (s : State) (n i : Nat) (v : Inst), (s.ctl.waiting.find? (fun w => w.2.cmd = n && bitAt w.2.flags 0 && decide
      (w.2.deadline ≠ 0) && decide (w.2.deadline ≤ s.svcTime)) = none) ∧ i < 80 ∧ s.inst i = some v ∧
      (v.tasks.any (fun w => w.cmd = n && bitAt w.flags 0 && decide (w.deadline ≠ 0) && decide (w.deadline ≤
      s.svcTime)) = true) ∧ (∀ j < i, (s.inst j).all (fun v => !(v.tasks.any (fun w => w.cmd = n && bitAt
      w.flags 0 && decide (w.deadline ≠ 0) && decide (w.deadline ≤ s.svcTime)))) = true) ∧ (∀ q ∈ v.quads, ∀ j <
      64, s.fld (.frySwait (64 * q + j)) FRY_SWAIT_CAUSE = 0)) :=
  ⟨⟨z, 63, 65535, by decide +kernel⟩,
   ⟨z.setFld .schLdstat SCH_LDSTAT_BUSY 1, 63, 65535, by decide +kernel⟩,
   ⟨{ z with ctl := { z.ctl with load := some ⟨0, 0, 5, 1⟩ } }, ⟨0, 0, 5, 1⟩, by decide +kernel⟩,
   by (refine ⟨ldZ, ⟨0x1000, 0x800, 5, 7⟩, Config.freeChoice 0 % 80, 1, ldI, [79], ?_⟩; (iterate 18 refine ⟨by decide +kernel, ?_⟩); refine ⟨pickFree_nil _ _ _ (by decide +kernel) (by decide), ?_⟩; decide +kernel),
   ⟨runZ 3 3 0, 0, inZ, by decide +kernel⟩,
   ⟨let r := runZ 3 3 0; { r with ctl := { r.ctl with unload := some 0, insts := [(0, some { inZ with unloading := true })] } }, 0, { inZ with unloading := true }, by decide +kernel⟩,
   ⟨let r := runZ 3 3 0; { r with ctl := { r.ctl with unload := some 0, insts := [(0, some { inZ with tasks := [tkZ] })] } }, 0, { inZ with tasks := [tkZ] }, by decide +kernel⟩,
   ⟨abZ [] 7, 0, 79, none, ⟨0, 0x301, 0, false⟩, inZ, by decide +kernel⟩,
   ⟨abZ [tkZ] 7, 0, ⟨0, 0x301, 0, false⟩, { inZ with tasks := [tkZ] }, tkZ, by decide +kernel⟩,
   ⟨let r := runZ 3 3 0; { r with ctl := { r.ctl with insts := [(0, some { inZ with nextTask := 31 })], waiting := [(0, { tkZ with started := false })] } }, 0, 79, { inZ with nextTask := 31 }, (0, { tkZ with started := false }), by decide +kernel⟩,
   ⟨let r := runZ 3 3 0; { r with svcTime := 100, ctl := { r.ctl with waiting := [(0, { tkZ with flags := 1, deadline := 100 })] } }, 4, (0, { tkZ with flags := 1, deadline := 100 }), by decide +kernel⟩,
   ⟨let r := runZ 3 3 0; ({ r with svcTime := 100, ctl := { r.ctl with insts := [(0, some { inZ with tasks := [{ tkZ with flags := 1, deadline := 100 }] })] } }).setFld (.frySwait 5107) FRY_SWAIT_CAUSE 2, 4, 0, 5107, { inZ with tasks := [{ tkZ with flags := 1, deadline := 100 }] }, by decide +kernel⟩,
   ⟨let r := runZ 3 3 0; { r with svcTime := 100, ctl := { r.ctl with insts := [(0, some { inZ with tasks := [{ tkZ with flags := 1, deadline := 100 }] })] } }, 4, 0, { inZ with tasks := [{ tkZ with flags := 1, deadline := 100 }] }, by decide +kernel⟩⟩

theorem witness_portsAndFlits :
    (∃ (s : State) (p good : Nat) (slow : Bool), RegsOk s ∧ PortsOk s ∧ p < 16 ∧ 2 ≤ good ∧ (s.port p).trains = true
      ∧ s.flag (.abPort p) AB_PORT_EN = true ∧ s.portUp p = false ∧ s.pwr.phase = .up ∧ s.linkGone p = false ∧
      (12 ≤ p → (tgetD ({} : Cage) s.hw.cages p).present = true ∧ (tgetD ({} : Cage) s.hw.cages p).lowPower =
      false)) ∧
    (∃ (s : State) (p good : Nat) (slow : Bool), RegsOk s ∧ PortsOk s ∧ p < 16 ∧ good < 2 ∧ (s.port p).trains = true
      ∧ s.flag (.abPort p) AB_PORT_EN = true ∧ s.portUp p = false ∧ s.pwr.phase = .up ∧ s.linkGone p = false ∧
      (12 ≤ p → (tgetD ({} : Cage) s.hw.cages p).present = true ∧ (tgetD ({} : Cage) s.hw.cages p).lowPower =
      false)) ∧
    (∃ (s : State) (p pp m uid : Nat), RegsOk s ∧ PortsOk s ∧ p < 16 ∧ s.linkGone p = false ∧ (s.port p).locked =
      true ∧ (s.port p).wait = [] ∧ tgetD 0 (s.port p).sent 8 < 32 ∧ (s.port p).replay.length < 1024) ∧
    (∃ (s : State) (p pp m uid : Nat), RegsOk s ∧ PortsOk s ∧ p < 16 ∧ s.linkGone p = false ∧ (s.port p).locked =
      false ∧ s.portUp p = true) ∧
    (∃ (s : State) (p r : Nat), PortsOk s ∧ p < 16 ∧ r < 16 ∧ s.dupOf p r = true ∧ ((s.port p).dup = false ∨ (s.port
      r).dup = false)) ∧
    (∃ (s : State) (p : Nat), RegsOk s ∧ p < 16 ∧ (s.port p).trains = true ∧ (s.port p).locked = false ∧ s.flag
      (.abPort p) AB_PORT_EN = true ∧ s.linkGone p = false) ∧
    (∃ (s : State) (p : Nat), RegsOk s ∧ PortsOk s ∧ p < 16 ∧ s.portUp p = true ∧ (s.port p).good = 9) ∧
    (∃ (s : State) (p : Nat), PortsOk s ∧ p < 16 ∧ s.portUp p = true ∧ (s.port p).good ≠ 9 ∧ widthOf ((s.port
      p).good - 1) = widthOf (s.port p).good) ∧
    (∃ (s : State) (p : Nat), RegsOk s ∧ PortsOk s ∧ p < 16 ∧ s.portUp p = true ∧ (s.port p).good ≠ 9 ∧ widthOf
      ((s.port p).good - 1) ≠ widthOf (s.port p).good ∧ widthOf ((s.port p).good - 1) ≠ 6 ∧ (s.fld .svcSync
      SVC_SYNC_PORT ≠ p ∨ s.flag .svcSync SVC_SYNC_MASTER = true)) ∧
    (∃ (s : State) (p : Nat), RegsOk s ∧ PortsOk s ∧ p < 16 ∧ s.portUp p = true ∧ widthOf ((s.port p).good - 1) = 6
      ∧ widthOf (s.port p).good ≠ 6 ∧ (s.fld .svcSync SVC_SYNC_PORT ≠ p ∨ s.flag .svcSync SVC_SYNC_MASTER =
      true)) ∧
    (∃ (s : State) (p : Nat), RegsOk s ∧ PortsOk s ∧ p < 16 ∧ s.fld (.abPort p) AB_PORT_WIDTH ≠ 0 ∧ s.fld (.abPort
      p) AB_PORT_WIDTH ≠ 6 ∧ (s.fld .svcSync SVC_SYNC_PORT ≠ p ∨ s.flag .svcSync SVC_SYNC_MASTER = true)) ∧
    (∃ (s : State) (p q n : Nat) (m : Msg), RegsOk s ∧ PortsOk s ∧ p < 16 ∧ q < 16 ∧ q ≠ p ∧ s.portUp p = true ∧
      (s.fld .svcSync SVC_SYNC_PORT ≠ p ∨ s.flag .svcSync SVC_SYNC_MASTER = true) ∧ (s.port p).replay = [(n, m)]
      ∧ (s.port p).wait = [] ∧ m.mtype ≠ 0x30 ∧ m.mtype ≠ 0x20 ∧ s.flag (.abRoute (m.dst % 4096)) AB_ROUTE_VALID
      = true ∧ s.fld (.abRoute (m.dst % 4096)) AB_ROUTE_PRIM = 2 ^ p ∧ s.fld (.abRoute (m.dst % 4096))
      AB_ROUTE_ALT = 2 ^ q ∧ s.flag (.abPort q) AB_PORT_ROUTE = true ∧ (s.port q).dup = false ∧ (s.port q).left
      = false ∧ Free q m.vc (max m.lvl (s.fld (.abRoute (m.dst % 4096)) AB_ROUTE_ALVL)) s) ∧
    (∃ (s : State) (p : Nat), RegsOk s ∧ PortsOk s ∧ p < 16 ∧ 12 ≤ p ∧ s.flag (.abPort p) AB_PORT_EN = true ∧
      s.portUp p = false ∧ (tgetD ({} : Cage) s.hw.cages p).lowPower = false ∧ s.linkGone p = false) ∧
    (∃ (s : State) (p : Nat), RegsOk s ∧ PortsOk s ∧ p < 16 ∧ s.pwrGood = true ∧ s.flag (.abPort p) AB_PORT_EN =
      false ∧ s.linkGone p = false) ∧
    (∃ (s : State) (p : Nat), RegsOk s ∧ PortsOk s ∧ p < 16 ∧ s.pwrGood = true ∧ s.portUp p = true ∧ s.flag (.abPort
      p) AB_PORT_EN = true ∧ (s.port p).replay = [] ∧ (s.port p).wait = [] ∧ (∀ e ∈ s.fab.landing, e.1 ≠ p) ∧
      (s.fld .svcSync SVC_SYNC_PORT ≠ p ∨ s.flag .svcSync SVC_SYNC_MASTER = true) ∧ s.linkGone p = false) ∧
    (∃ (s : State) (p : Nat), RegsOk s ∧ PortsOk s ∧ p < 16 ∧ s.pwrGood = true ∧ s.portUp p = true ∧ s.flag (.abPort
      p) AB_PORT_EN = true ∧ ((s.port p).replay ≠ [] ∨ (s.port p).wait ≠ [] ∨ s.fab.landing.any (·.1 = p) =
      true) ∧ s.linkGone p = false) ∧
    (∃ (s : State) (p f a : Nat) (cr : List (Nat × Nat)) (m : Option Msg), p < 16 ∧ s.carries p = true) ∧
    (∃ (s : State) (p f a : Nat) (cr : List (Nat × Nat)) (m : Msg), RegsOk s ∧ PortsOk s ∧ p < 16 ∧ s.portUp p =
      true ∧ (s.port p).wait = [] ∧ f = (s.port p).expSeq ∧ mtypeOk m = true ∧ m.rsvd = false ∧ (m.mtype = 0x20
      → s.flag (.abPort p) AB_PORT_PEER2 = false) ∧ (m.mtype = 0x30 ∨ s.assigned = true) ∧ s.fab.leaving = []) ∧
    (∃ (s : State) (p f a : Nat) (cr : List (Nat × Nat)) (m : Msg), p < 16 ∧ s.portUp p = true ∧ (s.port p).wait =
      [] ∧ f ≠ (s.port p).expSeq) ∧
    (∃ (s : State) (p f a c l : Nat) (m : Msg), RegsOk s ∧ PortsOk s ∧ p < 16 ∧ s.portUp p = true ∧ (s.port p).wait
      = [m] ∧ c < 5 ∧ l < 2 ∧ m.vc = c ∧ credLvl c m.lvl = credLvl c l ∧ m.mtype ≠ 0x30 ∧ landCap c (credLvl c
      l) = tgetD 0 (s.port p).sent (2 * c + credLvl c l) ∧ 0 < landCap c (credLvl c l) ∧ (s.port
      p).replay.length < 1024) ∧
    (∃ (s : State) (p a : Nat), RegsOk s ∧ PortsOk s ∧ p < 16 ∧ s.carries p = true ∧ (((s.port p).naks.filter fun x
      => decide (s.svcTime - x < tickMs)).length < 64)) ∧
    (∃ (s : State) (p a : Nat), RegsOk s ∧ PortsOk s ∧ p < 16 ∧ s.carries p = true ∧ (64 ≤ ((s.port p).naks.filter
      fun x => decide (s.svcTime - x < tickMs)).length) ∧ (s.fld .svcSync SVC_SYNC_PORT ≠ p ∨ s.flag .svcSync
      SVC_SYNC_MASTER = true)) ∧
    (∃ (s : State) (l : Option Nat), RegsOk s ∧ PortsOk s ∧ (¬ (∀ x < 4, (l = none ∨ l = some x) → x ∈
      s.fab.leaving)) ∧ l.getD 0 < 4) ∧
    (∃ (s : State) (l : Option Nat), RegsOk s ∧ (∀ x < 4, (l = none ∨ l = some x) → x ∈ s.fab.leaving) ∧ l.getD 0 <
      4) ∧
    (∃ (s : State) (k p : Nat) (m : Msg), PortsOk s ∧ p < 16 ∧ s.portUp p = true ∧ s.landed k = some (p, m) ∧
      m.mtype = 0x30 ∧ m.rlen = 0 ∧ leAt m.data 0 1 = 4) :=
  ⟨⟨z, 5, 9, false, by decide +kernel⟩,
   ⟨z, 11, 1, false, by decide +kernel⟩,
   ⟨z.setPort 15 { good := 5, trains := true, locked := true }, 15, 3, 4097, 0x1234, by decide +kernel⟩,
   ⟨fbZ, 5, 3, 4097, 0x1234, by decide +kernel⟩,
   ⟨((upP fbZ 9 200).setPort 5 { peerUid := some 7 }).setPort 9 { peerUid := some 8 }, 5, 9, by decide +kernel⟩,
   ⟨z, 5, by decide +kernel⟩,
   ⟨fbZ, 5, by decide +kernel⟩,
   ⟨fbZ.setPort 5 { good := 7, trains := false }, 5, by decide +kernel⟩,
   ⟨fbZ.setPort 5 { good := 8, trains := false, replay := [(1, { mtype := 1, dst := 200 })] }, 5, by decide +kernel⟩,
   ⟨fbZ.setPort 5 { good := 2, trains := false }, 5, by decide +kernel⟩,
   ⟨fbZ, 5, by decide +kernel⟩,
   by (refine ⟨((fbZ.setFld (.abRoute 200) AB_ROUTE_ALT 1).setFld (.abRoute 200) AB_ROUTE_ALVL 1).setPort 5 { replay := [(9, { mtype := 1, dst := 200, len := 64 })] }, 5, 0, 9, { mtype := 1, dst := 200, len := 64 }, ?_⟩; and_intros <;> decide +kernel),
   ⟨z.setPort 15 { trains := false }, 15, by decide +kernel⟩,
   ⟨(fbZ.setFld (.abPort 5) AB_PORT_EN 0).setFld (.abPort 5) AB_PORT_WIDTH 0, 5, by decide +kernel⟩,
   ⟨fbZ, 5, by decide +kernel⟩,
   ⟨fbZ.setPort 5 { replay := [(9, {})] }, 5, by decide +kernel⟩,
   ⟨fbZ, 5, 7, 8, [], some {}, by decide +kernel⟩,
   ⟨fbZ.setPort 5 { expSeq := 4095, replay := [(3, {}), (4, {})], sent := [(3, 9), (4, 8)] }, 5, 4095, 3, [(9, 2), (2, 7)], { mtype := 1, dst := 9 }, by decide +kernel⟩,
   ⟨fbZ.setPort 5 { expSeq := 0 }, 5, 4095, 3, [(9, 2)], { mtype := 1, dst := 9 }, by decide +kernel⟩,
   ⟨fbZ.setPort 5 { wait := [{ mtype := 1, dst := 9, lvl := 1 }], sent := [(1, 192)], nextSeq := 4 }, 5, 9, 3, 0, 1, { mtype := 1, dst := 9, lvl := 1 }, by decide +kernel⟩,
   ⟨fbZ.setPort 5 { replay := [(3, {}), (4, { dst := 1 }), (5, { dst := 2 })] }, 5, 3, by decide +kernel⟩,
   ⟨fbZ.setPort 5 { naks := List.replicate 64 0 }, 5, 3, by decide +kernel⟩,
   ⟨fbZ, some 1, by decide +kernel⟩,
   ⟨{ fbZ.setFld (.abPort 5) AB_PORT_WIDTH 5 with fab := { fbZ.fab with leaving := [1] } }, some 1, by decide +kernel⟩,
   ⟨lnd fbZ 5 { mtype := 0x30, vc := 4, data := [4#8] }, 0, 5, { mtype := 0x30, vc := 4, data := [4#8] }, by decide +kernel⟩⟩

theorem witness_messagesServedForwardedAndManaged :
    (∃ (s : State) (k p q l : Nat) (m : Msg), Landed k p 1 m s ∧ 32 ≤ m.len ∧ m.addr % 256 + m.len ≤ 256 ∧ s.ptState
      m.dpart ≠ 2 ∧ s.peerOk m.dpart m.src m.spart = true ∧ s.addrPart m.addr = some m.dpart ∧ s.addrPart
      (m.addr + m.len - 1) = some m.dpart ∧ m.addr + m.len ≤ spBase ∧ s.converting m.addr = false ∧ s.lostIn
      m.addr m.len = false ∧ Leads m.src q l s ∧ Free q 1 l s) ∧
    (∃ (s : State) (k p q l : Nat) (m : Msg), MemOk s ∧ Landed k p 2 m s ∧ 1 ≤ m.len ∧ m.len ≤ 256 ∧ (∀ l ∈
      s.net.dir, s.sharers l.1 = 0 ∨ l.1 * 256 + 256 ≤ m.addr ∨ m.addr + m.len ≤ l.1 * 256) ∧ s.ptState m.dpart
      ≠ 2 ∧ s.peerOk m.dpart m.src m.spart = true ∧ s.addrPart m.addr = some m.dpart ∧ s.addrPart (m.addr +
      m.len - 1) = some m.dpart ∧ m.addr + m.len ≤ spBase ∧ s.converting m.addr = false ∧ s.lostIn m.addr m.len
      = false ∧ Leads m.src q l s ∧ Free q 1 l s) ∧
    (∃ (s : State) (k p : Nat) (m : Msg), MemOk s ∧ Landed k p 2 m s ∧ 1 ≤ m.len ∧ m.len ≤ 256 ∧ (s.net.dir.any (fun
      l => s.sharers l.1 ≠ 0 && m.addr / 256 ≤ l.1 && l.1 * 256 < m.addr + m.len) = true) ∧ s.ptState m.dpart ≠
      2 ∧ s.peerOk m.dpart m.src m.spart = true ∧ s.addrPart m.addr = some m.dpart ∧ s.addrPart (m.addr + m.len
      - 1) = some m.dpart ∧ m.addr + m.len ≤ spBase ∧ s.converting m.addr = false ∧ s.lostIn m.addr m.len =
      false) ∧
    (∃ (s : State) (k p q l : Nat) (m : Msg), Canonical s ∧ Landed k p 3 m s ∧ 1 ≤ m.len ∧ m.len ≤ 256 ∧ m.aux % 16
      ≠ 0 ∧ (m.aux % 16 ≤ 7 → m.len % addWidth (m.aux % 16) = 0) ∧ m.aux % 16 ≤ 7 ∧ (∀ l ∈ s.net.dir, s.sharers
      l.1 = 0 ∨ l.1 * 256 + 256 ≤ m.addr ∨ m.addr + m.len ≤ l.1 * 256) ∧ (∀ n o, regionOf m.addr = .sketch n o →
      s.plainBlock n o = false) ∧ s.ptState m.dpart ≠ 2 ∧ s.peerOk m.dpart m.src m.spart = true ∧ s.addrPart
      m.addr = some m.dpart ∧ s.addrPart (m.addr + m.len - 1) = some m.dpart ∧ m.addr + m.len ≤ spBase ∧
      s.converting m.addr = false ∧ s.lostIn m.addr m.len = false ∧ Leads m.src q l s ∧ Free q 1 l s) ∧
    (∃ (s : State) (k p q l x : Nat) (m : Msg), Canonical s ∧ Landed k p 3 m s ∧ m.aux % 16 = 4 ∧ m.len = 4 ∧ m.addr
      % 4 = 0 ∧ m.data = leBytes 4 x ∧ (∀ l ∈ s.net.dir, s.sharers l.1 = 0 ∨ l.1 * 256 + 256 ≤ m.addr ∨ m.addr +
      m.len ≤ l.1 * 256) ∧ m.addr < 12 * hbmSize ∧ s.ptState m.dpart ≠ 2 ∧ s.peerOk m.dpart m.src m.spart = true
      ∧ s.addrPart m.addr = some m.dpart ∧ s.addrPart (m.addr + m.len - 1) = some m.dpart ∧ m.addr + m.len ≤
      spBase ∧ s.converting m.addr = false ∧ s.lostIn m.addr m.len = false ∧ Leads m.src q l s ∧ Free q 1 l s) ∧
    (∃ (s : State) (k p q l : Nat) (m : Msg), Landed k p 3 m s ∧ 1 ≤ m.len ∧ m.len ≤ 256 ∧ m.aux % 16 ≠ 0 ∧ (m.aux %
      16 ≤ 7 → m.len % addWidth (m.aux % 16) = 0) ∧ s.reqCheck m m.len = none ∧ Leads m.src q l s ∧ Free q 1 l
      s) ∧
    (∃ (s u : State) (k p q l st : Nat) (m : Msg) (x : List Byte) (e : MemErr), Landed k p 1 m s ∧ 32 ≤ m.len ∧
      m.len ≤ 256 ∧ (m.addr < 2 ^ 40 → m.addr % 256 + m.len ≤ 256) ∧ s.reqCheck m m.len = none ∧ s.readEnd (srcL
      (p / 4)) (msgTarget m) m.len e = (u, .ok, x) ∧ st = 0 ∧ u.portUp p = true ∧ Leads m.src q l u ∧ Free q 1 l
      u) ∧
    (∃ (s u : State) (k p q l st : Nat) (m : Msg) (x : List Byte) (e : MemErr), Landed k p 1 m s ∧ 32 ≤ m.len ∧
      m.len ≤ 256 ∧ (m.addr < 2 ^ 40 → m.addr % 256 + m.len ≤ 256) ∧ s.reqCheck m m.len = none ∧ s.readEnd (srcL
      (p / 4)) (msgTarget m) m.len e = (u, .no st, x) ∧ st ≠ 3 ∧ u.portUp p = true ∧ Leads m.src q l u ∧ Free q
      1 l u) ∧
    (∃ (s u : State) (k p q l st : Nat) (m : Msg), Landed k p 2 m s ∧ 1 ≤ m.len ∧ m.len ≤ 256 ∧ s.reqCheck m m.len =
      none ∧ s.writeEnd (srcL (p / 4)) (msgTarget m) 0 (bytesAt m.data 0 m.len) (some (.msg m)) = (u, .ok) ∧ st
      = 0 ∧ u.portUp p = true ∧ Leads m.src q l u ∧ Free q 1 l u) ∧
    (∃ (s u : State) (k p q l st : Nat) (m : Msg), Landed k p 2 m s ∧ 1 ≤ m.len ∧ m.len ≤ 256 ∧ s.reqCheck m m.len =
      none ∧ s.writeEnd (srcL (p / 4)) (msgTarget m) 0 (bytesAt m.data 0 m.len) (some (.msg m)) = (u, .no st) ∧
      st ≠ 3 ∧ u.portUp p = true ∧ Leads m.src q l u ∧ Free q 1 l u) ∧
    (∃ (s u : State) (k p q l st : Nat) (m : Msg), Landed k p 3 m s ∧ 1 ≤ m.len ∧ m.len ≤ 256 ∧ m.aux % 16 ≠ 0 ∧
      (m.aux % 16 ≤ 7 → m.len % addWidth (m.aux % 16) = 0) ∧ s.reqCheck m m.len = none ∧ s.writeEnd (srcL (p /
      4)) (msgTarget m) (m.aux % 16) (bytesAt m.data 0 m.len) (some (.msg m)) = (u, .ok) ∧ st = 0 ∧ u.portUp p =
      true ∧ Leads m.src q l u ∧ Free q 1 l u) ∧
    (∃ (s u : State) (k p q l st : Nat) (m : Msg), Landed k p 3 m s ∧ 1 ≤ m.len ∧ m.len ≤ 256 ∧ m.aux % 16 ≠ 0 ∧
      (m.aux % 16 ≤ 7 → m.len % addWidth (m.aux % 16) = 0) ∧ s.reqCheck m m.len = none ∧ s.writeEnd (srcL (p /
      4)) (msgTarget m) (m.aux % 16) (bytesAt m.data 0 m.len) (some (.msg m)) = (u, .no st) ∧ st ≠ 3 ∧ u.portUp
      p = true ∧ Leads m.src q l u ∧ Free q 1 l u) ∧
    (∃ (s : State) (k p q l : Nat) (m : Msg) (e : MemErr), Landed k p 1 m s ∧ 32 ≤ m.len ∧ m.len ≤ 256 ∧ (m.addr < 2
      ^ 40 → m.addr % 256 + m.len ≤ 256) ∧ s.ptState m.dpart = 2 ∧ Leads m.src q l s ∧ Free q 1 l s) ∧
    (∃ (s : State) (k p q l : Nat) (m : Msg), Landed k p 2 m s ∧ 1 ≤ m.len ∧ m.len ≤ 256 ∧ s.ptState m.dpart = 2 ∧
      Leads m.src q l s ∧ Free q 1 l s) ∧
    (∃ (s : State) (k p q l : Nat) (m : Msg) (f : Bool), Landed k p 3 m s ∧ 1 ≤ m.len ∧ m.len ≤ 256 ∧ m.aux % 16 ≠ 0
      ∧ (m.aux % 16 ≤ 7 → m.len % addWidth (m.aux % 16) = 0) ∧ s.ptState m.dpart = 2 ∧ Leads m.src q l s ∧ Free
      q 1 l s) ∧
    (∃ (s : State) (k p q l : Nat) (m : Msg) (e : MemErr), Landed k p 1 m s ∧ (m.len < 32 ∨ 256 < m.len ∨ (m.addr <
      2 ^ 40 ∧ 256 < m.addr % 256 + m.len) ∨ (s.ptState m.dpart ≠ 2 ∧ (s.peerOk m.dpart m.src m.spart = false ∨
      s.dpartOwns m m.len = false))) ∧ Leads m.src q l s ∧ Free q 1 l s) ∧
    (∃ (s : State) (k p q l : Nat) (m : Msg), Landed k p 2 m s ∧ (m.len = 0 ∨ 256 < m.len ∨ (s.ptState m.dpart ≠ 2 ∧
      (s.peerOk m.dpart m.src m.spart = false ∨ s.dpartOwns m m.len = false))) ∧ Leads m.src q l s ∧ Free q 1 l
      s) ∧
    (∃ (s : State) (k p q l : Nat) (m : Msg) (f : Bool), Landed k p 3 m s ∧ (m.len = 0 ∨ 256 < m.len ∨ m.aux % 16 =
      0 ∨ (m.aux % 16 ≤ 7 ∧ m.len % addWidth (m.aux % 16) ≠ 0) ∨ (s.ptState m.dpart ≠ 2 ∧ (s.peerOk m.dpart
      m.src m.spart = false ∨ s.dpartOwns m m.len = false))) ∧ Leads m.src q l s ∧ Free q 1 l s) ∧
    (∃ (s : State) (k p e j n : Nat) (m : Msg), RegsOk s ∧ Landed k p 4 m s ∧ e = bits m.aux 0 7 ∧ e < 80 ∧ j = bits
      m.aux 8 8 ∧ n = bits m.aux 16 16 ∧ s.peerOk m.dpart m.src m.spart = true ∧ s.quadGone e = false ∧ s.fld
      (.pwrQuad e) PWR_QUAD_STATE = 0 ∧ s.quadInst e ≠ none ∧ (s.flag (.abPort p) AB_PORT_PEER2 = true ∨
      (m.epoch ≠ 0 ∧ s.fld (.schQuad e) SCH_QUAD_EPOCH = m.epoch)) ∧ s.sem e j + n ≤ 0xFFFF) ∧
    (∃ (s : State) (k p q l e : Nat) (m : Msg), RegsOk s ∧ Landed k p 4 m s ∧ e = bits m.aux 0 7 ∧ e < 80 ∧ s.peerOk
      m.dpart m.src m.spart = true ∧ s.quadGone e = false ∧ s.fld (.pwrQuad e) PWR_QUAD_STATE = 0 ∧ (s.quadInst
      e = none ∨ (s.flag (.abPort p) AB_PORT_PEER2 = false ∧ (m.epoch = 0 ∨ s.fld (.schQuad e) SCH_QUAD_EPOCH ≠
      m.epoch))) ∧ Leads m.src q l s ∧ Free q 1 l s) ∧
    (∃ (s : State) (k p q l e : Nat) (m : Msg), RegsOk s ∧ Landed k p 4 m s ∧ e = bits m.aux 0 7 ∧ e < 80 ∧ s.peerOk
      m.dpart m.src m.spart = true ∧ s.quadGone e = true ∧ Leads m.src q l s ∧ Free q 1 l s) ∧
    (∃ (s : State) (k p : Nat) (m : Msg), RegsOk s ∧ Landed k p 4 m s ∧ (s.peerOk m.dpart m.src m.spart = false ∨ 80
      ≤ bits m.aux 0 7)) ∧
    (∃ (s : State) (k p : Nat) (m : Msg) (o : Outst), Landed k p 16 m s ∧ m.status = 0 ∧ (s.fab.outst.find? (fun o
      => o.tag = m.tag && o.dst = m.src) = some o) ∧ o.piece = none ∧ o.stale = false) ∧
    (∃ (s : State) (k p : Nat) (m : Msg) (o : Outst), Landed k p 17 m s ∧ m.status = 0 ∧ (s.fab.outst.find? (fun o
      => o.tag = m.tag && o.dst = m.src) = some o) ∧ o.piece = none ∧ o.stale = false) ∧
    (∃ (s : State) (k p : Nat) (m : Msg) (o : Outst), Landed k p 16 m s ∧ m.status ≠ 2 ∧ (s.fab.outst.find? (fun o
      => o.tag = m.tag && o.dst = m.src) = some o) ∧ o.stale = true) ∧
    (∃ (s : State) (k p : Nat) (m : Msg) (o : Outst), Landed k p 17 m s ∧ m.status ≠ 2 ∧ (s.fab.outst.find? (fun o
      => o.tag = m.tag && o.dst = m.src) = some o) ∧ o.stale = true) ∧
    (∃ (s : State) (k p : Nat) (m : Msg), Landed k p 16 m s ∧ m.status ≠ 2 ∧ (∀ o ∈ s.fab.outst, o.tag ≠ m.tag ∨
      o.dst ≠ m.src)) ∧
    (∃ (s : State) (k p : Nat) (m : Msg), Landed k p 17 m s ∧ m.status ≠ 2 ∧ (∀ o ∈ s.fab.outst, o.tag ≠ m.tag ∨
      o.dst ≠ m.src)) ∧
    (∃ (s : State) (k p : Nat) (m : Msg) (o : Outst), Landed k p 16 m s ∧ m.status ≠ 0 ∧ m.status ≠ 2 ∧
      (s.fab.outst.find? (fun o => o.tag = m.tag && o.dst = m.src) = some o) ∧ o.piece = none ∧ o.stale = false
      ∧ isQuadUnit o.srcid = false) ∧
    (∃ (s : State) (k p : Nat) (m : Msg) (o : Outst), Landed k p 17 m s ∧ m.status ≠ 0 ∧ m.status ≠ 2 ∧
      (s.fab.outst.find? (fun o => o.tag = m.tag && o.dst = m.src) = some o) ∧ o.piece = none ∧ o.stale = false
      ∧ isQuadUnit o.srcid = false) ∧
    (∃ (s : State) (k p n j off len skip : Nat) (m : Msg) (o : Outst), Landed k p 16 m s ∧ m.status = 0 ∧
      (s.fab.outst.find? (fun o => o.tag = m.tag && o.dst = m.src) = some o) ∧ o.piece = some (n, j, off, len,
      skip) ∧ o.stale = false ∧ o.kind = 1) ∧
    (∃ (s : State) (k p n j off len skip : Nat) (m : Msg) (o : Outst), Landed k p 17 m s ∧ m.status = 0 ∧
      (s.fab.outst.find? (fun o => o.tag = m.tag && o.dst = m.src) = some o) ∧ o.piece = some (n, j, off, len,
      skip) ∧ o.stale = false ∧ o.kind ≠ 1) ∧
    (∃ (s : State) (k p : Nat) (m : Msg), Landed k p 16 m s ∧ m.status = 2) ∧
    (∃ (s : State) (k p : Nat) (m : Msg), Landed k p 17 m s ∧ m.status = 2) ∧
    (∃ (s : State) (tag : Nat), (∀ o ∈ s.fab.outst, o.tag = tag → s.svcTime < o.time + s.fld .abCtl AB_CTL_RTO *
      400)) ∧
    (∃ (s : State) (tag : Nat) (o : Outst), s.fab.outst.find? (·.tag = tag) = some o ∧ o.time + s.fld .abCtl
      AB_CTL_RTO * 400 ≤ s.svcTime ∧ o.stale = false ∧ o.piece = none ∧ isQuadUnit o.srcid = false) ∧
    (∃ (s : State) (tag : Nat) (o : Outst), s.fab.outst.find? (·.tag = tag) = some o ∧ o.time + s.fld .abCtl
      AB_CTL_RTO * 400 ≤ s.svcTime ∧ o.stale = true) ∧
    (∃ (s : State) (tag i : Nat) (o : Outst), RegsOk s ∧ s.fab.outst.find? (·.tag = tag) = some o ∧ o.time + s.fld
      .abCtl AB_CTL_RTO * 400 ≤ s.svcTime ∧ o.stale = false ∧ o.piece = none ∧ isQuadUnit o.srcid = true ∧
      s.quadInst (o.srcid / 16) = some i ∧ i < 80 ∧ s.flag (.schInst i) SCH_INST_RUN = true) ∧
    (∃ (s : State) (k p q l : Nat) (m : Msg), p < 16 ∧ s.portUp p = true ∧ s.landed k = some (p, m) ∧ m.dst ≠
      s.modNum ∧ (m.mtype ≠ 0x30 ∨ (m.rlen = 0 ∧ leAt m.data 0 1 = 5 ∧ m.src ≠ s.modNum)) ∧ (m.mtype = 0x20 →
      s.flag (.abPort q) AB_PORT_PEER2 = false) ∧ m.hops < 15 ∧ Leads m.dst q l s ∧ Free q m.vc (max m.lvl l) s) ∧
    (∃ (s : State) (k p q l : Nat) (m : Msg), p < 16 ∧ s.portUp p = true ∧ s.landed k = some (p, m) ∧ m.dst ≠
      s.modNum ∧ isReq m = true ∧ 15 ≤ m.hops ∧ Leads m.src q l s ∧ Free q 1 l s) ∧
    (∃ (s : State) (k p q : Nat) (m : Msg), p < 16 ∧ s.portUp p = true ∧ s.landed k = some (p, m) ∧ m.mtype = 0x30 ∧
      m.rlen ≠ 0 ∧ q = m.aux % 16 ∧ m.src ≠ s.modNum ∧ s.assigned = true ∧ Free q m.vc m.lvl s) ∧
    (∃ (s : State) (k p : Nat) (m : Msg), RegsOk s ∧ p < 16 ∧ s.portUp p = true ∧ s.landed k = some (p, m) ∧ m.mtype
      = 0x30 ∧ m.rlen ≠ 0 ∧ s.assigned = false) ∧
    (∃ (s : State) (k p off : Nat) (r : Reg) (m : Msg), Managed k p 1 m s ∧ off = leAt m.data 20 4 ∧ abReg off =
      some r ∧ (s.assigned = true ∨ leAt m.data 13 1 = 0) ∧ Free p 4 0 s) ∧
    (∃ (s : State) (k p off : Nat) (m : Msg), Managed k p 1 m s ∧ off = leAt m.data 20 4 ∧ abReg off = none ∧
      (s.assigned = true ∨ leAt m.data 13 1 = 0) ∧ Free p 4 0 s) ∧
    (∃ (s : State) (k p : Nat) (r : Reg) (m : Msg), Managed k p 2 m s ∧ abReg (leAt m.data 20 4) = some r ∧
      (s.assigned = true ∨ leAt m.data 13 1 = 0) ∧ s.flag .abCtl AB_CTL_MGTWR = true ∧ (s.assigned = true →
      m.src = s.fld .abCtl AB_CTL_MGR)) ∧
    (∃ (s : State) (k p j v : Nat) (m : Msg), RegsOk s ∧ Managed k p 2 m s ∧ j < 4096 ∧ abReg (leAt m.data 20 4) =
      some (.abRoute j) ∧ v = leAt m.data 24 8 ∧ (s.assigned = true ∨ leAt m.data 13 1 = 0) ∧ s.flag .abCtl
      AB_CTL_MGTWR = true ∧ (s.assigned = true → m.src = s.fld .abCtl AB_CTL_MGR)) ∧
    (∃ (s : State) (k p : Nat) (m : Msg), Managed k p 2 m s ∧ (s.assigned = true ∨ leAt m.data 13 1 = 0) ∧ (s.flag
      .abCtl AB_CTL_MGTWR = false ∨ (s.assigned = true ∧ m.src ≠ s.fld .abCtl AB_CTL_MGR)) ∧ Free p 4 0 s) ∧
    (∃ (s : State) (k p : Nat) (m : Msg), Managed k p 3 m s) :=
  ⟨⟨lnd fcZ 0 (rqM 1), 0, 0, 5, 1, rqM 1, by decide +kernel⟩,
   ⟨lnd fcZ 5 (rqM 2), 0, 5, 5, 1, rqM 2, by decide +kernel⟩,
   ⟨lnd { fcZ with net := { fcZ.net with dir := [(256, 1)] } } 5 (rqM 2), 0, 5, rqM 2, by decide +kernel⟩,
   by (refine ⟨lnd fcZ 5 { rqM 3 with aux := 6 }, 0, 5, 5, 1, { rqM 3 with aux := 6 }, ?_⟩; (iterate 8 refine ⟨by decide +kernel, ?_⟩); refine ⟨noSketch _ _ (by decide +kernel), ?_⟩; decide +kernel),
   ⟨lnd fcZ 5 (rqM 3), 0, 5, 5, 1, 3, rqM 3, by decide +kernel⟩,
   ⟨lnd fcZ 5 (rqM 3), 0, 5, 5, 1, rqM 3, by decide +kernel⟩,
   ⟨lnd foZ 5 (rqO 1), lnd foZ 5 (rqO 1), 0, 5, 5, 1, 0, rqO 1, foZ.objRead oA 0 32, .good, by decide +kernel⟩,
   ⟨lnd { foZ with tier := { foZ.tier with objs := [{ oA with lost := true }] } } 5 (rqO 1), lnd { foZ with tier := { foZ.tier with objs := [{ oA with lost := true }] } } 5 (rqO 1), 0, 5, 5, 1, 4, rqO 1, [], .good, by decide +kernel⟩,
   ⟨lnd foZ 5 (rqO 2), ((lnd foZ 5 (rqO 2)).writeEnd (srcL 1) (msgTarget (rqO 2)) 0 (bytesAt (rqO 2).data 0 (rqO 2).len) (some (.msg (rqO 2)))).1, 0, 5, 5, 1, 0, rqO 2, by decide +kernel⟩,
   ⟨lnd { foZ with tier := { foZ.tier with objs := [{ oA with lost := true }] } } 5 (rqO 2), ((lnd { foZ with tier := { foZ.tier with objs := [{ oA with lost := true }] } } 5 (rqO 2)).writeEnd (srcL 1) (msgTarget (rqO 2)) 0 (bytesAt (rqO 2).data 0 (rqO 2).len) (some (.msg (rqO 2)))).1, 0, 5, 5, 1, 4, rqO 2, by decide +kernel⟩,
   ⟨lnd foZ 5 (rqO 3), ((lnd foZ 5 (rqO 3)).writeEnd (srcL 1) (msgTarget (rqO 3)) 4 (bytesAt (rqO 3).data 0 (rqO 3).len) (some (.msg (rqO 3)))).1, 0, 5, 5, 1, 0, rqO 3, by decide +kernel⟩,
   ⟨lnd { foZ with tier := { foZ.tier with objs := [{ oA with lost := true }] } } 5 (rqO 3), ((lnd { foZ with tier := { foZ.tier with objs := [{ oA with lost := true }] } } 5 (rqO 3)).writeEnd (srcL 1) (msgTarget (rqO 3)) 4 (bytesAt (rqO 3).data 0 (rqO 3).len) (some (.msg (rqO 3)))).1, 0, 5, 5, 1, 4, rqO 3, by decide +kernel⟩,
   ⟨lnd (fcZ.setFld (.ptCfg 5) PT_CFG_STATE 2) 5 (rqM 1), 0, 5, 5, 1, rqM 1, .ue, by decide +kernel⟩,
   ⟨lnd (fcZ.setFld (.ptCfg 5) PT_CFG_STATE 2) 5 (rqM 2), 0, 5, 5, 1, rqM 2, by decide +kernel⟩,
   ⟨lnd (fcZ.setFld (.ptCfg 5) PT_CFG_STATE 2) 5 (rqM 3), 0, 5, 5, 1, rqM 3, true, by decide +kernel⟩,
   ⟨lnd fcZ 5 { rqM 1 with spart := 4 }, 0, 5, 5, 1, { rqM 1 with spart := 4 }, .ue, by decide +kernel⟩,
   ⟨lnd fcZ 5 { rqM 2 with spart := 4 }, 0, 5, 5, 1, { rqM 2 with spart := 4 }, by decide +kernel⟩,
   ⟨lnd fcZ 5 { rqM 3 with spart := 4 }, 0, 5, 5, 1, { rqM 3 with spart := 4 }, true, by decide +kernel⟩,
   ⟨lnd (fcZ.setFld (.schQuad 79) SCH_QUAD_EPOCH 7) 5 sgM, 0, 5, 79, 255, 0xFFFF, sgM, by decide +kernel⟩,
   ⟨lnd fcZ 5 sgM, 0, 5, 5, 1, 79, sgM, by decide +kernel⟩,
   ⟨lnd { fcZ with pwr := { fcZ.pwr with retired := [79] } } 5 sgM, 0, 5, 5, 1, 79, sgM, by decide +kernel⟩,
   ⟨lnd fcZ 5 { sgM with src := 201 }, 0, 5, { sgM with src := 201 }, by decide +kernel⟩,
   ⟨outZ (osZ 0x501 false) (lnd fcZ 5 (rsM 16 0)), 0, 5, rsM 16 0, osZ 0x501 false, by decide +kernel⟩,
   ⟨outZ (osZ 0x501 false) (lnd fcZ 5 (rsM 17 0)), 0, 5, rsM 17 0, osZ 0x501 false, by decide +kernel⟩,
   ⟨outZ (osZ 0x501 true) (lnd fcZ 5 (rsM 16 1)), 0, 5, rsM 16 1, osZ 0x501 true, by decide +kernel⟩,
   ⟨outZ (osZ 0x501 true) (lnd fcZ 5 (rsM 17 1)), 0, 5, rsM 17 1, osZ 0x501 true, by decide +kernel⟩,
   ⟨lnd fcZ 5 (rsM 16 0), 0, 5, rsM 16 0, by decide +kernel⟩,
   ⟨lnd fcZ 5 (rsM 17 0), 0, 5, rsM 17 0, by decide +kernel⟩,
   ⟨outZ (osZ 0x501 false) (lnd fcZ 5 (rsM 16 1)), 0, 5, rsM 16 1, osZ 0x501 false, by decide +kernel⟩,
   ⟨outZ (osZ 0x501 false) (lnd fcZ 5 (rsM 17 1)), 0, 5, rsM 17 1, osZ 0x501 false, by decide +kernel⟩,
   ⟨outZ { osZ 5 false with piece := some (3, 2, 0, 4, 0), kind := 1 } (lnd fcZ 5 (rsM 16 0)), 0, 5, 3, 2, 0, 4, 0, rsM 16 0, { osZ 5 false with piece := some (3, 2, 0, 4, 0), kind := 1 }, by decide +kernel⟩,
   ⟨outZ { osZ 5 false with piece := some (3, 2, 0, 4, 0), kind := 2 } (lnd fcZ 5 (rsM 17 0)), 0, 5, 3, 2, 0, 4, 0, rsM 17 0, { osZ 5 false with piece := some (3, 2, 0, 4, 0), kind := 2 }, by decide +kernel⟩,
   ⟨lnd fcZ 5 (rsM 16 2), 0, 5, rsM 16 2, by decide +kernel⟩,
   ⟨lnd fcZ 5 (rsM 17 2), 0, 5, rsM 17 2, by decide +kernel⟩,
   ⟨{ outZ (osZ 0x501 false) fcZ with svcTime := 39999 }, 77, by decide +kernel⟩,
   ⟨{ outZ (osZ 0x501 false) fcZ with svcTime := 40000 }, 77, osZ 0x501 false, by decide +kernel⟩,
   ⟨{ outZ (osZ 5 true) fcZ with svcTime := 40000 }, 77, osZ 5 true, by decide +kernel⟩,
   ⟨{ outZ (osZ (79 * 16) false) fcZ with svcTime := 40000 }, 77, 0, osZ (79 * 16) false, by decide +kernel⟩,
   ⟨lnd fcZ 0 { rqM 1 with dst := 200, hops := 14 }, 0, 0, 5, 1, { rqM 1 with dst := 200, hops := 14 }, by decide +kernel⟩,
   ⟨lnd fcZ 0 { rqM 1 with dst := 300, hops := 15 }, 0, 0, 5, 1, { rqM 1 with dst := 300, hops := 15 }, by decide +kernel⟩,
   ⟨lnd fcZ 5 (mgM 1 2 0x30 0 0 1), 0, 5, 0, mgM 1 2 0x30 0 0 1, by decide +kernel⟩,
   ⟨lnd (fcZ.setFld .abId AB_ID_ASSIGNED 0) 5 (mgM 1 2 0x30 0 0 1), 0, 5, mgM 1 2 0x30 0 0 1, by decide +kernel⟩,
   ⟨lnd fcZ 5 (mgM 1 0 0 8 0), 0, 5, 8, .abUid, mgM 1 0 0 8 0, by decide +kernel⟩,
   ⟨lnd fcZ 5 (mgM 1 0 0 9 0), 0, 5, 9, mgM 1 0 0 9 0, by decide +kernel⟩,
   ⟨lnd ((fcZ.setFld .abCtl AB_CTL_MGTWR 1).setFld .abCtl AB_CTL_MGR 200) 5 (mgM 2 0 0 (regOff (.abPort 5) - 0xE0000) 3), 0, 5, .abPort 5, (mgM 2 0 0 (regOff (.abPort 5) - 0xE0000) 3), by decide +kernel⟩,
   ⟨lnd ((fcZ.setFld .abCtl AB_CTL_MGTWR 1).setFld .abCtl AB_CTL_MGR 200) 5 (mgM 2 0 0 (regOff (.abRoute 4095) - 0xE0000) (2 ^ 34 + 0x10002)), 0, 5, 4095, 2 ^ 34 + 0x10002, (mgM 2 0 0 (regOff (.abRoute 4095) - 0xE0000) (2 ^ 34 + 0x10002)), by decide +kernel⟩,
   ⟨lnd fcZ 5 (mgM 2 0 0 8 0), 0, 5, mgM 2 0 0 8 0, by decide +kernel⟩,
   ⟨lnd fcZ 5 (mgM 3 0 0 8 5), 0, 5, mgM 3 0 0 8 5, by decide +kernel⟩⟩

theorem witness_collectiveGroupsAndTheExchangeOfTime :
    (∃ (s : State) (g v : Nat), RegsOk s ∧ (twf (fun _ => ({} : GroupSt)) s.fab.groups = true) ∧ s.pwrGood = true ∧
      g < 64 ∧ (grEn ((s.setReg (.abGroup (8 * g)) (BitVec.ofNat 64 v)).group g) = false ∨ (s.setReg (.abGroup
      (8 * g)) (BitVec.ofNat 64 v)).groupOk ((s.setReg (.abGroup (8 * g)) (BitVec.ofNat 64 v)).group g) = true)) ∧
    (∃ (s : State) (g v : Nat) (d : List Byte), RegsOk s ∧ s.pwrGood = true ∧ g < 64 ∧ d = (s.setReg (.abGroup (8 *
      g)) (BitVec.ofNat 64 v)).group g ∧ grEn d = true ∧ (15 < grNchild d ∨ grSlot d = 15 ∨ grCto d < 10 ∨
      grSlotsz d % 256 ≠ 0 ∨ grBuf d % 64 ≠ 0 ∨ 80 ≤ grQuad d ∨ s.inst (grInst d) = none ∨ (s.setReg (.abGroup
      (8 * g)) (BitVec.ofNat 64 v)).groupOk d = false)) ∧
    (∃ (s : State) (src g off q l : Nat) (i : Inst) (d bs : List Byte), g < 64 ∧ d = s.group g ∧ grEn d = true ∧
      isQuadUnit src = true ∧ s.inst (grInst d) = some i ∧ s.quadPart (src / 16) = some i.part ∧ grRoot d =
      false ∧ 1 ≤ bs.length ∧ bs.length ≤ 256 ∧ (s.gst g).owed = [] ∧ s.assigned = true ∧ Leads (grParent d) q l
      s ∧ Free q 3 l s ∧ s.flag (.abPort q) AB_PORT_PEER2 = false ∧ (twf (fun _ => ({} : GroupSt)) s.fab.groups
      = true)) ∧
    (∃ (s : State) (src g off q l w : Nat) (i : Inst) (d bs : List Byte) (e : Nat × Nat × Bool) (r : List (Nat × Nat
      × Bool)), g < 64 ∧ d = s.group g ∧ grEn d = true ∧ isQuadUnit src = true ∧ s.inst (grInst d) = some i ∧
      s.quadPart (src / 16) = some i.part ∧ grRoot d = false ∧ 1 ≤ bs.length ∧ bs.length ≤ 256 ∧ (s.gst g).owed
      = e :: r ∧ w = e.1 ∧ s.assigned = true ∧ Leads (grParent d) q l s ∧ Free q 3 l s ∧ s.flag (.abPort q)
      AB_PORT_PEER2 = false) ∧
    (∃ (s : State) (src g off q l w n : Nat) (b : Bool) (i : Inst) (d bs : List Byte), g < 64 ∧ d = s.group g ∧ grEn
      d = true ∧ isQuadUnit src = true ∧ s.inst (grInst d) = some i ∧ s.quadPart (src / 16) = some i.part ∧
      grRoot d = false ∧ bs = [] ∧ (w, n, b) = (s.gst g).owed.headD ((s.gst g).seq, (s.gst g).resp, (s.gst
      g).missing) ∧ s.assigned = true ∧ Leads (grParent d) q l s ∧ Free q 3 l s ∧ s.flag (.abPort q)
      AB_PORT_PEER2 = false ∧ (twf (fun _ => ({} : GroupSt)) s.fab.groups = true)) ∧
    (∃ (s : State) (src g off : Nat) (i : Inst) (d : List Byte) (x : Option (List Byte)), g < 64 ∧ d = s.group g ∧
      grEn d = true ∧ isQuadUnit src = true ∧ s.inst (grInst d) = some i ∧ s.quadPart (src / 16) = some i.part ∧
      grRoot d = true ∧ (s.gst g).running = false ∧ (s.gst g).owed = [] ∧ (twf (fun _ => ({} : GroupSt))
      s.fab.groups = true)) ∧
    (∃ (s : State) (src g off : Nat) (x : Option (List Byte)), isQuadUnit src = true ∧ (64 ≤ g ∨ grEn (s.group g) =
      false ∨ (s.inst (grInst (s.group g))).any (fun i => s.quadPart (src / 16) == some i.part) = false)) ∧
    (∃ (s : State) (src g off : Nat) (x : Option (List Byte)), isQuadUnit src = false) ∧
    (∃ (s : State) (k p g c off : Nat) (m : Msg) (d : List Byte), MemOk s ∧ RegsOk s ∧ Landed k p 0x20 m s ∧ g =
      bits m.aux 0 6 ∧ c = bits m.aux 8 4 ∧ d = s.group g ∧ s.peerOk m.dpart m.src m.spart = true ∧ grEn d =
      true ∧ c < grNchild d ∧ grChild d c = m.src ∧ (s.gst g).done.contains (bits m.aux 16 16) = false ∧ (twf
      (fun _ => ({} : GroupSt)) s.fab.groups = true) ∧ (twf (fun _ => ({} : SlotSt)) (s.gst g).slots = true) ∧
      s.fld (.schInst (grInst d)) SCH_INST_EPOCH = m.epoch ∧ ((s.gst g).running = false ∨ (s.gst g).seq = bits
      m.aux 16 16) ∧ bitAt m.aux 12 = false ∧ off = m.addr ∧ 1 ≤ m.len ∧ m.data.length = m.len ∧ off + m.len ≤
      grSlotsz d ∧ grBuf d + 64 + c * grSlotsz d + off + m.len ≤ spBase ∧ granuleOf (grBuf d + 64 + c * grSlotsz
      d + off) ≠ none ∧ granuleOf (grBuf d + 64 + c * grSlotsz d + off + m.len - 1) ≠ none ∧ s.converting (grBuf
      d + 64 + c * grSlotsz d + off) = false ∧ s.lostIn (grBuf d + 64 + c * grSlotsz d + off) m.len = false ∧ (∀
      l ∈ s.net.dir, s.sharers l.1 = 0 ∨ l.1 * 256 + 256 ≤ grBuf d + 64 + c * grSlotsz d + off ∨ grBuf d + 64 +
      c * grSlotsz d + off + m.len ≤ l.1 * 256)) ∧
    (∃ (s : State) (k p g c : Nat) (m : Msg) (d : List Byte), RegsOk s ∧ Landed k p 0x20 m s ∧ g = bits m.aux 0 6 ∧
      c = bits m.aux 8 4 ∧ d = s.group g ∧ s.peerOk m.dpart m.src m.spart = true ∧ grEn d = true ∧ c < grNchild
      d ∧ grChild d c = m.src ∧ (s.gst g).done.contains (bits m.aux 16 16) = false ∧ (twf (fun _ => ({} :
      GroupSt)) s.fab.groups = true) ∧ (twf (fun _ => ({} : SlotSt)) (s.gst g).slots = true) ∧ s.fld (.schInst
      (grInst d)) SCH_INST_EPOCH = m.epoch ∧ ((s.gst g).running = false ∨ (s.gst g).seq = bits m.aux 16 16) ∧
      bitAt m.aux 12 = true) ∧
    (∃ (s : State) (k p q l g c : Nat) (m : Msg) (d : List Byte), RegsOk s ∧ Landed k p 0x20 m s ∧ g = bits m.aux 0
      6 ∧ c = bits m.aux 8 4 ∧ d = s.group g ∧ s.peerOk m.dpart m.src m.spart = true ∧ grEn d = true ∧ c <
      grNchild d ∧ grChild d c = m.src ∧ (s.gst g).done.contains (bits m.aux 16 16) = false ∧ s.fld (.schInst
      (grInst d)) SCH_INST_EPOCH ≠ m.epoch ∧ Leads m.src q l s ∧ Free q 1 l s) ∧
    (∃ (s : State) (k p g c : Nat) (m : Msg) (d : List Byte), RegsOk s ∧ Landed k p 0x20 m s ∧ g = bits m.aux 0 6 ∧
      c = bits m.aux 8 4 ∧ d = s.group g ∧ s.peerOk m.dpart m.src m.spart = true ∧ grEn d = true ∧ c < grNchild
      d ∧ grChild d c = m.src ∧ (s.gst g).done.contains (bits m.aux 16 16) = false ∧ s.fld (.schInst (grInst d))
      SCH_INST_EPOCH = m.epoch ∧ (s.gst g).running = true ∧ (s.gst g).seq ≠ bits m.aux 16 16) ∧
    (∃ (s : State) (k p g : Nat) (m : Msg), RegsOk s ∧ Landed k p 0x20 m s ∧ g = bits m.aux 0 6 ∧ (s.peerOk m.dpart
      m.src m.spart = false ∨ (s.gst g).done.contains (bits m.aux 16 16) = true ∨ grEn (s.group g) = false ∨
      grNchild (s.group g) ≤ bits m.aux 8 4 ∨ grChild (s.group g) (bits m.aux 8 4) ≠ m.src)) ∧
    (∃ (s : State) (g : Nat) (d : List Byte), Canonical s ∧ g < 64 ∧ d = s.group g ∧ grBuf d + 64 ≤ spBase ∧
      granuleOf (grBuf d) ≠ none ∧ granuleOf (grBuf d + 64 - 1) ≠ none ∧ s.converting (grBuf d) = false ∧
      s.lostIn (grBuf d) 64 = false ∧ (∀ l ∈ s.net.dir, s.sharers l.1 = 0 ∨ l.1 * 256 + 256 ≤ grBuf d ∨ grBuf d
      + 64 ≤ l.1 * 256) ∧ grQuad d < 80 ∧ s.fld (.pwrQuad (grQuad d)) PWR_QUAD_STATE = 0 ∧ s.sem (grQuad d)
      (grSem d) < 0xFFFF ∧ grEn d = true ∧ (s.gst g).running = true ∧ (∀ c < grNchild d, (tgetD ({} : SlotSt)
      (s.gst g).slots c).ended = true ∧ (tgetD ({} : SlotSt) (s.gst g).slots c).part = false) ∧ (twf (fun _ =>
      ({} : GroupSt)) s.fab.groups = true)) ∧
    (∃ (s : State) (g c : Nat) (d : List Byte), Canonical s ∧ g < 64 ∧ d = s.group g ∧ grBuf d + 64 ≤ spBase ∧
      granuleOf (grBuf d) ≠ none ∧ granuleOf (grBuf d + 64 - 1) ≠ none ∧ s.converting (grBuf d) = false ∧
      s.lostIn (grBuf d) 64 = false ∧ (∀ l ∈ s.net.dir, s.sharers l.1 = 0 ∨ l.1 * 256 + 256 ≤ grBuf d ∨ grBuf d
      + 64 ≤ l.1 * 256) ∧ grQuad d < 80 ∧ s.fld (.pwrQuad (grQuad d)) PWR_QUAD_STATE = 0 ∧ s.sem (grQuad d)
      (grSem d) < 0xFFFF ∧ grEn d = true ∧ (s.gst g).running = true ∧ (∀ c < grNchild d, (tgetD ({} : SlotSt)
      (s.gst g).slots c).ended = true ∨ (tgetD ({} : SlotSt) (s.gst g).slots c).absent = true) ∧ c < grNchild d
      ∧ (tgetD ({} : SlotSt) (s.gst g).slots c).ended = false ∧ grOp d ≠ 0 ∧ grInst d < 80 ∧ s.flag (.schInst
      (grInst d)) SCH_INST_RUN = true) ∧
    (∃ (s : State) (g : Nat), (64 ≤ g ∨ s.stepWhole g = false)) ∧
    (∃ (s : State) (g : Nat), ((s.gst g).running = false ∨ s.svcTime < (s.gst g).since + grCto (s.group g) * 400)) ∧
    (∃ (s : State) (g c : Nat) (d : List Byte), Canonical s ∧ g < 64 ∧ d = s.group g ∧ grBuf d + 64 ≤ spBase ∧
      granuleOf (grBuf d) ≠ none ∧ granuleOf (grBuf d + 64 - 1) ≠ none ∧ s.converting (grBuf d) = false ∧
      s.lostIn (grBuf d) 64 = false ∧ (∀ l ∈ s.net.dir, s.sharers l.1 = 0 ∨ l.1 * 256 + 256 ≤ grBuf d ∨ grBuf d
      + 64 ≤ l.1 * 256) ∧ grQuad d < 80 ∧ s.fld (.pwrQuad (grQuad d)) PWR_QUAD_STATE = 0 ∧ s.sem (grQuad d)
      (grSem d) < 0xFFFF ∧ grEn d = true ∧ (s.gst g).running = true ∧ (s.gst g).since + grCto d * 400 ≤
      s.svcTime ∧ c < grNchild d ∧ (tgetD ({} : SlotSt) (s.gst g).slots c).ended = false ∧ grOp d ≠ 0 ∧ grInst d
      < 80 ∧ s.flag (.schInst (grInst d)) SCH_INST_RUN = true) ∧
    (∃ (s : State) (g c : Nat) (d : List Byte), Canonical s ∧ g < 64 ∧ d = s.group g ∧ grBuf d + 64 ≤ spBase ∧
      granuleOf (grBuf d) ≠ none ∧ granuleOf (grBuf d + 64 - 1) ≠ none ∧ s.converting (grBuf d) = false ∧
      s.lostIn (grBuf d) 64 = false ∧ (∀ l ∈ s.net.dir, s.sharers l.1 = 0 ∨ l.1 * 256 + 256 ≤ grBuf d ∨ grBuf d
      + 64 ≤ l.1 * 256) ∧ grQuad d < 80 ∧ s.fld (.pwrQuad (grQuad d)) PWR_QUAD_STATE = 0 ∧ s.sem (grQuad d)
      (grSem d) < 0xFFFF ∧ grEn d = true ∧ (s.gst g).running = true ∧ (s.gst g).since + grCto d * 400 ≤
      s.svcTime ∧ c < grNchild d ∧ (tgetD ({} : SlotSt) (s.gst g).slots c).ended = false ∧ grOp d = 0) ∧
    (∃ (s : State) (k p g i : Nat) (m : Msg), RegsOk s ∧ i < 80 ∧ Managed k p 5 m s ∧ (s.assigned = true → m.dst =
      s.modNum) ∧ g = leAt m.data 24 8 ∧ g < 64 ∧ grEn (s.group g) = true ∧ i = grInst (s.group g) ∧ s.inst i ≠
      none ∧ s.flag (.schInst i) SCH_INST_RUN = true ∧ s.flag (.schInst i) SCH_INST_ABORTING = false) ∧
    (∃ (s : State) (k p i : Nat) (m : Msg), Managed k p 5 m s ∧ (s.assigned = true → m.dst = s.modNum) ∧ i = grInst
      (s.group (leAt m.data 24 8)) ∧ (64 ≤ leAt m.data 24 8 ∨ grEn (s.group (leAt m.data 24 8)) = false ∨ s.inst
      i = none ∨ s.flag (.schInst i) SCH_INST_ABORTING = true)) ∧
    (∃ (s : State) (p trip : Nat), p < 16 ∧ s.portUp p = true ∧ s.flag .svcSync SVC_SYNC_MASTER = true) ∧
    (∃ (s : State) (p uid hops time trip : Nat), RegsOk s ∧ p < 16 ∧ s.portUp p = true ∧ s.fld .svcSync
      SVC_SYNC_PORT = p ∧ s.flag .svcSync SVC_SYNC_MASTER = false ∧ (s.flag .svcSync SVC_SYNC_LOCKED = false ∨
      s.pwr.timeSrc ≠ uid) ∧ hops < 14) ∧
    (∃ (s : State) (p uid hops time trip : Nat), RegsOk s ∧ p < 16 ∧ s.portUp p = true ∧ s.fld .svcSync
      SVC_SYNC_PORT = p ∧ s.flag .svcSync SVC_SYNC_MASTER = false ∧ s.flag .svcSync SVC_SYNC_LOCKED = true ∧
      s.pwr.timeSrc = uid ∧ hops < 14) ∧
    (∃ (s : State) (p uid hops time trip : Nat), RegsOk s ∧ p < 16 ∧ s.portUp p = true ∧ s.fld .svcSync
      SVC_SYNC_PORT ≠ p ∧ s.flag .svcSync SVC_SYNC_MASTER = false ∧ s.flag .svcSync SVC_SYNC_LOCKED = true ∧
      s.pwr.timeSrc ≠ uid ∧ (s.pwr.confTime.all (fun c => decide (400000000 ≤ s.svcTime - c)) = true)) ∧
    (∃ (s : State) (p uid hops time trip : Nat), RegsOk s ∧ p < 16 ∧ s.portUp p = true ∧ s.fld .svcSync
      SVC_SYNC_PORT = p ∧ s.flag .svcSync SVC_SYNC_MASTER = false ∧ 14 ≤ hops ∧ s.pwr.syncSaid = false) ∧
    (∃ s : State, RegsOk s ∧ s.flag .svcSync SVC_SYNC_MASTER = false ∧ s.pwr.syncAt + 4000000 ≤ s.svcTime ∧
      s.pwr.syncSaid = false) ∧
    (∃ s : State, (s.flag .svcSync SVC_SYNC_MASTER = true ∨ s.svcTime < s.pwr.syncAt + 4000000)) :=
  ⟨⟨grZ ((grD 1 1 0x8000 0).set 0 1#8), 63, leAt (grD 1 1 0x8000 14) 0 8, by decide +kernel⟩,
   ⟨grZ ((grD 1 1 0x8000 0).set 0 1#8), 63, leAt (grD 1 16 0x8000 0) 0 8, grD 1 16 0x8000 0, by decide +kernel⟩,
   ⟨(grZ (grD 1 1 200 14)).setGst 63 { seq := 9 }, 79 * 16 + 11, 63, 256, 5, 1, inZ, grD 1 1 200 14, [1#8, 2#8], by decide +kernel⟩,
   ⟨(grZ (grD 1 1 200 14)).setGst 63 { seq := 9, owed := [(8, 2, true)] }, 79 * 16 + 11, 63, 256, 5, 1, 8, inZ, grD 1 1 200 14, [1#8, 2#8], (8, 2, true), [], by decide +kernel⟩,
   ⟨(grZ (grD 1 1 200 14)).setGst 63 { seq := 9 }, 79 * 16 + 11, 63, 256, 5, 1, 9, 1, false, inZ, grD 1 1 200 14, [], by decide +kernel⟩,
   ⟨grZ (grD 1 1 0x8000 14), 79 * 16 + 11, 63, 256, inZ, grD 1 1 0x8000 14, none, by decide +kernel⟩,
   ⟨grZ (grD 1 1 0x8000 14), 79 * 16 + 11, 62, 256, none, by decide +kernel⟩,
   ⟨grZ (grD 1 1 0x8000 14), 0x510, 63, 256, none, by decide +kernel⟩,
   by (refine ⟨lnd (gsZ 1 {}) 5 (clM false), 0, 5, 63, 0, 254, clM false, grD 1 1 0x8000 0, ?_⟩; and_intros <;> decide +kernel),
   ⟨lnd (gsZ 1 { seq := 5, running := true }) 5 (clM true), 0, 5, 63, 0, clM true, grD 1 1 0x8000 0, by decide +kernel⟩,
   ⟨lnd (gsZ 1 {}) 5 { clM true with epoch := 8 }, 0, 5, 5, 1, 63, 0, { clM true with epoch := 8 }, grD 1 1 0x8000 0, by decide +kernel⟩,
   ⟨lnd (gsZ 1 { seq := 4, running := true }) 5 (clM true), 0, 5, 63, 0, clM true, grD 1 1 0x8000 0, by decide +kernel⟩,
   ⟨lnd (gsZ 1 {}) 5 { clM true with src := 150 }, 0, 5, 63, { clM true with src := 150 }, by decide +kernel⟩,
   ⟨gsZ 2 { seq := 65535, running := true, slots := [(0, { ended := true, len := 70000, modResp := 3 })] }, 63, grD 2 1 0x8000 0, by decide +kernel⟩,
   by (refine ⟨gsZ 2 { running := true, slots := [(0, { absent := true })] }, 63, 0, grD 2 1 0x8000 0, ?_⟩; and_intros <;> decide +kernel),
   ⟨gsZ 2 { running := true }, 63, by decide +kernel⟩,
   ⟨{ gsZ 2 { running := true } with svcTime := 3999 }, 63, by decide +kernel⟩,
   by (refine ⟨{ gsZ 2 { running := true } with svcTime := 4000 }, 63, 0, grD 2 1 0x8000 0, ?_⟩; and_intros <;> decide +kernel),
   by (refine ⟨{ gsZ 0 { running := true } with svcTime := 4000 }, 63, 0, grD 0 1 0x8000 0, ?_⟩; and_intros <;> decide +kernel),
   ⟨lnd (gsZ 1 {}) 5 (mgM 5 0 0 0 63), 0, 5, 63, 0, mgM 5 0 0 0 63, by decide +kernel⟩,
   ⟨lnd ((gsZ 1 {}).setFld (.schInst 0) SCH_INST_ABORTING 1) 5 (mgM 5 0 0 0 63), 0, 5, 0, mgM 5 0 0 0 63, by decide +kernel⟩,
   ⟨fbZ.setFld .svcSync SVC_SYNC_MASTER 1, 5, 7, by decide +kernel⟩,
   ⟨syZ 0 0, 5, 77, 13, 5000, 7, by decide +kernel⟩,
   ⟨syZ 1 77, 5, 77, 13, 5000, 7, by decide +kernel⟩,
   ⟨syZ 1 77, 0, 78, 1, 5000, 7, by decide +kernel⟩,
   ⟨syZ 1 77, 5, 77, 14, 5000, 7, by decide +kernel⟩,
   ⟨{ syZ 1 77 with svcTime := 4000000 }, by decide +kernel⟩,
   ⟨{ syZ 1 77 with svcTime := 3999999 }, by decide +kernel⟩⟩

theorem witness_powerTemperatureClocksAndWakeTokens :
    (∃ s : State, RegsOk s ∧ (s.pwr.p48 = true ∨ s.pwr.phase = .flushing true ∨ s.pwr.phase = .flushing false)) ∧
    (∃ s : State, RegsOk s ∧ s.pwr.p48 = false ∧ s.pwr.phase ≠ .flushing true ∧ s.pwr.phase ≠ .flushing false) ∧
    (∃ s : State, RegsOk s) ∧
    (∃ (s : State) (e : Nat), RegsOk s ∧ s.pwr.phase = .up ∧ e < 100) ∧
    (∃ (s : State) (e : Nat), RegsOk s ∧ s.pwr.phase = .up ∧ 100 ≤ e) ∧
    (∃ (s : State) (a x : Nat), RegsOk s ∧ s.pwr.phase = .up ∧ s.duty ≤ 4 ∧ 4200 < a) ∧
    (∃ (s : State) (a x : Nat), RegsOk s ∧ s.pwr.phase = .up ∧ 4 < s.duty ∧ s.fld .pmCtl PM_CTL_LIMIT < a ∧ (x ≤
      4200 ∨ s.duty ≤ 9)) ∧
    (∃ (s : State) (a x : Nat), RegsOk s ∧ s.pwr.phase = .up ∧ s.duty = 4 ∧ s.fld .pmCtl PM_CTL_LIMIT < a ∧ a ≤
      4200) ∧
    (∃ (s : State) (a x : Nat), RegsOk s ∧ s.pwr.phase = .up ∧ 8 < s.duty ∧ 4200 < x) ∧
    (∃ (s : State) (a x : Nat), RegsOk s ∧ s.pwr.phase = .up ∧ a ≤ s.fld .pmCtl PM_CTL_LIMIT ∧ (a ≤ 4200 ∨ 4 <
      s.duty) ∧ (s.duty ≤ 8 ∨ x ≤ 4200)) ∧
    (∃ (s : State) (d x q : Nat), s.pwr.phase = .up ∧ d < 24 ∧ (twf (fun _ => 0) s.pwr.caps = true) ∧ tgetD 0
      s.pwr.caps d = 0 ∧ 101 ≤ x ∧ x < 110 ∧ q < 80 ∧ (d = q / 4 ∨ d = 20 + q / 20)) ∧
    (∃ (s : State) (d x q : Nat), s.pwr.phase = .up ∧ d < 24 ∧ (twf (fun _ => 0) s.pwr.caps = true) ∧ 110 ≤ x ∧ x <
      120 ∧ tgetD 0 s.pwr.caps d ≤ 2 ∧ q < 80 ∧ (d = q / 4 ∨ d = 20 + q / 20)) ∧
    (∃ (s : State) (d x : Nat), s.pwr.phase = .up ∧ d < 24 ∧ (twf (fun _ => 0) s.pwr.caps = true) ∧ ((tgetD 0
      s.pwr.caps d = 1 ∧ 98 ≤ x ∧ x < 101) ∨ (tgetD 0 s.pwr.caps d = 2 ∧ 108 ≤ x ∧ x < 110))) ∧
    (∃ (s : State) (d x : Nat), s.pwr.phase = .up ∧ d < 24 ∧ (twf (fun _ => 0) s.pwr.caps = true) ∧ x ≤ 97) ∧
    (∃ (s : State) (d x : Nat), RegsOk s ∧ s.pwr.phase = .up ∧ d < 24 ∧ 120 ≤ x) ∧
    (∃ s : State, RegsOk s) ∧
    (∃ (s : State) (n : Nat), RegsOk s ∧ s.pwr.phase = .up ∧ (∀ q ∈ s.pwr.wakeReq, q < 80) ∧ (n =
      (s.pwr.grants.filter fun x => decide (s.svcTime < x + 800)).length)) ∧
    (∃ (s : State) (q : Nat), RegsOk s ∧ q < 80 ∧ s.pwr.phase = .up ∧ s.fld (.pwrQuad q) PWR_QUAD_REQ = 0 ∧ s.fld
      (.pwrQuad q) PWR_QUAD_STATE = 0 ∧ s.quadIdle q = true) ∧
    (∃ (s : State) (q : Nat), (80 ≤ q ∨ s.pwr.phase ≠ .up ∨ s.quadIdle q = false ∨ s.fld (.pwrQuad q) PWR_QUAD_REQ ≠
      0 ∨ s.fld (.pwrQuad q) PWR_QUAD_STATE ≠ 0)) ∧
    (∃ (s : State) (q r : Nat), (r % 4 = 3 ∨ (r % 4 = 2 ∧ s.quadInst q ≠ none))) ∧
    (∃ (s : State) (q r : Nat), RegsOk s ∧ s.pwrGood = true ∧ q < 80 ∧ ((r = 1 ∧ s.fld (.pwrQuad q) PWR_QUAD_STATE =
      1) ∨ (r < 2 ∧ s.fld (.pwrQuad q) PWR_QUAD_STATE = 2)) ∧ s.flag (.pwrQuad q) PWR_QUAD_WAITTOK = false) ∧
    (∃ (s : State) (q r : Nat), RegsOk s ∧ s.pwrGood = true ∧ q < 80 ∧ r < 2 ∧ (s.fld (.pwrQuad q) PWR_QUAD_STATE =
      0 ∨ s.flag (.pwrQuad q) PWR_QUAD_WAITTOK = true ∨ (r = 0 ∧ s.fld (.pwrQuad q) PWR_QUAD_STATE = 1))) ∧
    (∃ (s : State) (q : Nat), RegsOk s ∧ s.pwrGood = true ∧ q < 80 ∧ s.quadInst q = none) :=
  ⟨⟨z, by decide +kernel⟩,
   ⟨{ z with pwr := { z.pwr with p48 := false, phase := .off true } }, by decide +kernel⟩,
   ⟨{ z.setFld .pmStat PM_STAT_NOAUX 1 with pwr := { z.pwr with mgmtUp := false } }, by decide +kernel⟩,
   ⟨z, 99, by decide +kernel⟩,
   ⟨z.setFld .pmStat PM_STAT_HOLDLOW 1, 104, by decide +kernel⟩,
   ⟨up 4 0, 4201, 0, by decide +kernel⟩,
   ⟨up 5 40000, 3601, 4200, by decide +kernel⟩,
   ⟨up 4 40000, 3601, 4201, by decide +kernel⟩,
   ⟨z, 3600, 4201, by decide +kernel⟩,
   ⟨up 15 400000, 3600, 4200, by decide +kernel⟩,
   ⟨z, 19, 101, 79, by decide +kernel⟩,
   ⟨z, 19, 110, 79, by decide +kernel⟩,
   ⟨{ z with pwr := { z.pwr with caps := [(19, 1)] } }, 19, 98, by decide +kernel⟩,
   ⟨{ z with pwr := { z.pwr with caps := [(19, 2)] } }, 19, 97, by decide +kernel⟩,
   ⟨z, 20, 120, by decide +kernel⟩,
   ⟨z.setFld .qStat Q_STAT_LINKW 16, by decide +kernel⟩,
   ⟨{ ((z.setFld (.pwrQuad 79) PWR_QUAD_STATE 1).setFld (.pwrQuad 79) PWR_QUAD_WAITTOK 1) with svcTime := 1000, pwr := { z.pwr with grants := [150, 201, 900], wakeReq := [79, 5, 6] } }, 2, by decide +kernel⟩,
   ⟨{ (runZ 3 3 0 { waitAt := some 0 }) with svcTime := 20000 }, 79, by decide +kernel⟩,
   ⟨{ (runZ 3 3 0 { waitAt := some 0 }) with svcTime := 19999 }, 79, by decide +kernel⟩,
   ⟨z, 79, 7, by decide +kernel⟩,
   ⟨z.setFld (.pwrQuad 79) PWR_QUAD_STATE 2, 79, 1, by decide +kernel⟩,
   ⟨z, 79, 1, by decide +kernel⟩,
   ⟨{ z with pwr := { z.pwr with wakeReq := [79] } }, 79, by decide +kernel⟩⟩

theorem witness_resetsTheFlushAndRecovery :
    (∃ s : State, RegsOk s ∧ s.pwr.phase = .up) ∧
    (∃ s : State, RegsOk s ∧ s.pwr.phase = .up) ∧
    (∃ (s : State) (b : Bool), s.pwr.phase = .off b) ∧
    (∃ s : State, RegsOk s ∧ s.pwr.phase = .up) ∧
    (∃ s : State, RegsOk s ∧ s.pwr.phase = .up ∧ s.sidebandUp = true) ∧
    (∃ (s : State) (b : Bool), s.pwr.phase = .flushing b) ∧
    (∃ (s : State) (b : Bool) (p : Nat) (c : CPart) (fs : List (Nat × Nat)), RegsOk s ∧ s.pwr.phase = .flushing b ∧
      s.coll.flushed = false ∧ (twf (fun _ => ({} : CPart)) s.coll.parts = true) ∧ s.cpart p = c ∧ c ≠ {}) ∧
    (∃ (s : State) (fs : List (Nat × Nat)), (s.coll.flushed = true ∨ (s.pwr.phase ≠ .flushing true ∧ s.pwr.phase ≠
      .flushing false))) ∧
    (∃ s : State, (s.coll.flushed = false ∨ (s.pwr.phase ≠ .flushing true ∧ s.pwr.phase ≠ .flushing false))) ∧
    (∃ (s : State) (b : Bool), RegsOk s ∧ s.pwr.phase = .flushing b ∧ s.coll.flushed = true) ∧
    (∃ s : State, Canonical s ∧ s.pwr.phase = .up ∧ (s.pwr.quayReady = true ∨ s.coll.recover = some true) ∧ (twf
      (fun _ => ({} : PortSt)) s.fab.ports = true) ∧ s.pwr.perstN = true) ∧
    (∃ s : State, Canonical s ∧ s.pwr.phase = .up ∧ (s.pwr.quayReady = true ∨ s.coll.recover = some true) ∧ (twf
      (fun _ => ({} : PortSt)) s.fab.ports = true) ∧ s.sidebandUp = true) ∧
    (∃ s : State, (s.pwr.perstN = false ∨ s.pwr.phase ≠ .up ∨ (s.pwr.quayReady = false ∧ s.coll.recover ≠ some
      true))) ∧
    (∃ (s : State) (w : Bool), s.coll.recover = some w ∧ s.mainUp = true ∧ s.pwr.warmWait = false ∧ s.coll.parts =
      [] ∧ s.coll.colls = []) ∧
    (∃ (s : State) (w : Bool) (p : Nat), s.coll.recover = some w ∧ s.mainUp = true ∧ s.pwr.warmWait = false ∧ (twf
      (fun _ => ({} : CPart)) s.coll.parts = true) ∧ 1 < (s.cpart p).next ∧ (twf (fun _ => 0) s.quay.seals =
      true)) ∧
    (∃ (s : State) (w : Bool) (p : Nat) (c : CPart), s.coll.recover = some w ∧ s.mainUp = true ∧ s.pwr.warmWait =
      false ∧ s.coll.parts = [(p, c)] ∧ s.coll.colls = [] ∧ 1 < c.next ∧ (∀ e ∈ c.entries, e.posted = true ∧
      e.durable = true ∧ e.lost = false) ∧ (twf (fun _ => 0) s.quay.seals = true)) ∧
    (∃ (s : State) (w : Bool), s.coll.recover = some w ∧ (s.mainUp = false ∨ s.pwr.warmWait = true)) ∧
    (∃ (s : State) (n : Nat) (k : Coll), s.quayUp = true ∧ s.collOf n = some k ∧ k.restoring = true ∧ s.partOn
      k.part = true) ∧
    (∃ (s : State) (n : Nat) (v : Model), s.quayUp = true ∧ s.model n = some v ∧ (s.towersOf n).restoring = true ∧
      s.partOn v.part = true ∧ (twf (fun _ => ({} : Towers)) s.coll.towers = true)) ∧
    (∃ (s : State) (n : Nat), (s.quayUp = false ∨ (s.collOf n).any (fun k => k.restoring && s.partOn k.part) =
      false)) ∧
    (∃ (s : State) (n : Nat), (s.quayUp = false ∨ (s.towersOf n).restoring = false ∨ (s.model n).any (fun v =>
      s.partOn v.part) = false)) ∧
    (∃ (s : State) (l q u p : Nat), 2 < l % 8) ∧
    (∃ (s : State) (q u p i j : Nat), RegsOk s ∧ s.pwr.phase = .up ∧ q < 80 ∧ unitOk u = true ∧ i < 80 ∧ j < 16 ∧
      s.quadInst q = some i ∧ s.flag (.schInst i) SCH_INST_RUN = true ∧ (twf (fun _ => 0) s.net.epochs = true)) ∧
    (∃ (s : State) (q u p : Nat), s.pwr.phase = .up ∧ (unitOk (u % 16) = false ∨ 80 ≤ q % 128)) ∧
    (∃ (s : State) (q u p j : Nat), RegsOk s ∧ s.pwr.phase = .up ∧ q < 80 ∧ j < 256 ∧ (twf (fun _ => (none : Option
      SuSlot)) s.eng.slots = true)) ∧
    (∃ (s : State) (p i : Nat) (v : Inst) (k : Task), RegsOk s ∧ s.pwr.phase = .up ∧ p < 64 ∧ (twf (fun _ => (none :
      Option Inst)) s.ctl.insts = true) ∧ s.instsOf p = [i] ∧ s.inst i = some v ∧ v.kind ≠ 2 ∧ v.tasks = [k] ∧
      k.started = false ∧ s.ctl.waiting = [] ∧ (∀ q ∈ v.quads, q < 80) ∧ s.coll.colls = []) :=
  ⟨⟨z, by decide +kernel⟩,
   ⟨z, by decide +kernel⟩,
   ⟨{ z with pwr := { z.pwr with phase := .off true } }, true, by decide +kernel⟩,
   ⟨z, by decide +kernel⟩,
   ⟨z, by decide +kernel⟩,
   ⟨fz true, true, by decide +kernel⟩,
   ⟨fz true, true, 5, ({ cpZ with entries := [{ deZ with durable := true }, { deZ with seq := 2, durable := true }, { deZ with seq := 3 }] }), [], by decide +kernel⟩,
   ⟨z, [], by decide +kernel⟩,
   ⟨fz true, by decide +kernel⟩,
   ⟨{ fz true with coll := { (fz true).coll with flushed := true } }, true, by decide +kernel⟩,
   ⟨{ (z.wr 7 [9#8]).wr (spBase) [9#8] with pwr := { z.pwr with perstN := true } }, by decide +kernel⟩,
   ⟨{ (z.wr 7 [9#8]).wr (spBase) [9#8] with pwr := { z.pwr with perstN := true } }, by decide +kernel⟩,
   ⟨z, by decide +kernel⟩,
   ⟨{ z with coll := { recover := some true } }, true, by decide +kernel⟩,
   ⟨{ z with coll := { recover := some true, parts := [(5, { next := 4, top := 3, sealed := some 2, entries := [{ deZ with durable := true }] }), (6, { next := 2 })] } }, true, 5, by decide +kernel⟩,
   ⟨{ z with coll := { recover := some true, parts := [(5, { next := 4, top := 3, sealed := some 2, entries := [{ deZ with durable := true, posted := true }] })] } }, true, 5, { next := 4, top := 3, sealed := some 2, entries := [{ deZ with durable := true, posted := true }] }, by decide +kernel⟩,
   ⟨{ z with coll := { recover := some true }, pwr := { z.pwr with warmWait := true } }, true, by decide +kernel⟩,
   ⟨coZ { coA with restoring := true }, 7, { coA with restoring := true }, by decide +kernel⟩,
   ⟨let r := tz.setModel 7 mdZ; { r with coll := { towers := [(7, { restoring := true })] } }, 7, mdZ, by decide +kernel⟩,
   ⟨coZ coA, 7, by decide +kernel⟩,
   ⟨coZ coA, 7, by decide +kernel⟩,
   ⟨z, 3, 0, 0, 0, by decide +kernel⟩,
   ⟨runZ 3 3 0 { pos := 4, p := true }, 79, 3, 9, 0, 3, by decide +kernel⟩,
   ⟨z, 79, 7, 0, by decide +kernel⟩,
   ⟨(runZ 3 3 0).setSem 79 255 9, 79, 0, 0, 255, by decide +kernel⟩,
   ⟨let r := runZ 3 3 0; { r with ctl := { r.ctl with insts := [(0, some { inZ with tasks := [{ tkZ with started := false }] })] }, quay := { r.quay with cmds := [{ cm 0x40 5 9 [] with n := 4 }] } }, 5, 0, { inZ with tasks := [{ tkZ with started := false }] }, { tkZ with started := false }, by decide +kernel⟩⟩

theorem witness_lifeCycleBootAndFirmware :
    (∃ s : State, s.sidebandUp = true ∧ s.lc ≠ lcRetired) ∧
    (∃ (s : State) (x : Nat) (tok : Option (List Byte)) (f : Bool), s.sidebandUp = true ∧ s.pwr.phase ≠ .flushing
      true ∧ s.pwr.phase ≠ .flushing false ∧ (lcNeeds s.lc x = none ∨ (lcNeeds s.lc x ≠ some none ∧ tok =
      none))) ∧
    (∃ (s : State) (x k : Nat) (tok : List Byte) (f : Bool), RegsOk s ∧ s.sidebandUp = true ∧ s.pwr.phase ≠
      .flushing true ∧ s.pwr.phase ≠ .flushing false ∧ lcNeeds s.lc x = some (some k)) ∧
    (∃ (s : State) (x : Nat) (tok : Option (List Byte)), RegsOk s ∧ s.sidebandUp = true ∧ s.pwr.phase ≠ .flushing
      true ∧ s.pwr.phase ≠ .flushing false ∧ lcNeeds s.lc x = some none) ∧
    (∃ (s : State) (x : Nat) (tok : Option (List Byte)), RegsOk s ∧ s.sidebandUp = true ∧ s.pwr.phase ≠ .flushing
      true ∧ s.pwr.phase ≠ .flushing false ∧ lcNeeds s.lc x = some none) ∧
    (∃ (s : State) (w : Bool), RegsOk s ∧ s.pwr.phase = .up ∧ s.coll.recover = some w ∧ s.pwr.warmWait = false ∧
      s.lc ≠ lcRetired ∧ s.trust.halted = none ∧ (twf (fun _ => 0) s.trust.taken = true)) ∧
    (∃ (s : State) (w : Bool), (s.pwr.phase ≠ .up ∨ s.coll.recover ≠ some w ∨ s.pwr.warmWait = true ∨ s.lc =
      lcRetired)) ∧
    (∃ (s : State) (k c : Nat) (h b : List Byte), s.sidebandUp = true ∧ 1 ≤ k ∧ k ≤ 7 ∧ s.lc ≠ lcRetired ∧ (twf (fun
      _ => ({} : Image)) s.trust.nor = true) ∧ c = tgetD 0 s.trust.taken k ∧ c ≤ 1 ∧ 12 ≤ h.length ∧ (s.image k
      c).seq + 1 < 2 ^ 32) ∧
    (∃ (s : State) (k c : Nat) (h b : List Byte), s.sidebandUp = true ∧ 1 ≤ k ∧ k ≤ 7 ∧ s.lc ≠ lcRetired ∧ (twf (fun
      _ => ({} : Image)) s.trust.nor = true) ∧ c = tgetD 0 s.trust.taken k ∧ c ≤ 1) ∧
    (∃ (s : State) (k : Nat), s.sidebandUp = true ∧ 1 ≤ k ∧ k ≤ 7 ∧ s.lc ≠ lcRetired ∧ (twf (fun _ => 0)
      s.trust.svnMin = true)) ∧
    (∃ (s : State), s.pwr.phase = .off false ∧ s.trust.lcPending = none) ∧
    (∃ (s : State) (r : Nat), s.pwr.phase = .off false ∧ s.trust.lcPending = none) ∧
    (∃ (s : State) (x : Nat), RegsOk s ∧ s.pwr.phase = .off false ∧ s.trust.lcPending = some x ∧ x ≤ 4) ∧
    (∃ (s : State) (r : Option Nat), s.pwr.phase ≠ .off false) :=
  ⟨⟨z, by decide +kernel⟩,
   ⟨z, 0, none, false, by decide +kernel⟩,
   ⟨z, 1, 1, List.replicate 144 0#8, false, by decide +kernel⟩,
   ⟨{ coZ coA with mem := [(5, 5#8)] }, 3, none, by decide +kernel⟩,
   ⟨z, 3, none, by decide +kernel⟩,
   ⟨{ z with coll := { recover := some true } }, true, by decide +kernel⟩,
   ⟨z, true, by decide +kernel⟩,
   ⟨let r := z; { r with trust := { r.trust with taken := [(7, 1)], nor := [(15, imZ 9)] } }, 7, 1, List.replicate 256 1#8, [5#8], by decide +kernel⟩,
   ⟨let r := z; { r with trust := { r.trust with taken := [(7, 1)], nor := [(14, imZ 3), (15, imZ 9)] } }, 7, 1, List.replicate 256 1#8, [5#8], by decide +kernel⟩,
   ⟨let r := z; { r with trust := { r.trust with svnMin := [(7, 2)], runSvn := [(7, 5)] } }, 7, by decide +kernel⟩,
   ⟨{ z with pwr := { z.pwr with phase := .off false } }, by decide +kernel⟩,
   ⟨{ z with pwr := { z.pwr with phase := .off false } }, 8, by decide +kernel⟩,
   ⟨{ z with pwr := { z.pwr with phase := .off false }, trust := { lcPending := some 3 } }, 3, by decide +kernel⟩,
   ⟨{ z with pwr := { z.pwr with phase := .off true } }, none, by decide +kernel⟩⟩

theorem witness_faultsSparesAndHealth :
    (∃ (s : State) (q c : Nat), RegsOk s ∧ q < 80 ∧ s.pwr.retireDue.find? (·.1 = q) = some (q, c) ∧ q ∉
      s.pwr.retired ∧ s.quadInst q = none ∧ s.fld .fltHealth FLT_HEALTH_QRET < 127) ∧
    (∃ (s : State) (q c i : Nat), RegsOk s ∧ q < 80 ∧ s.pwr.retireDue.find? (·.1 = q) = some (q, c) ∧ q ∉
      s.pwr.retired ∧ s.quadInst q = some i) ∧
    (∃ (s : State) (q : Nat), (∀ d ∈ s.pwr.retireDue, d.1 ≠ q)) ∧
    (∃ (s : State) (d : Nat), RegsOk s ∧ d < 20 ∧ d ∉ s.pwr.diesLost ∧ s.moorsListed = [] ∧ s.net.rangeWait = [] ∧
      (∀ q < 80, s.quadInst q = none) ∧ s.ctl.aborting = [] ∧ s.fld .fltHealth FLT_HEALTH_QRET + 4 ≤ 127 ∧ (∀ k
      ∈ s.pwr.retired, k / 4 ≠ d) ∧ (∀ x ∈ s.net.snoops, x.die ≠ d)) ∧
    (∃ (s : State) (d : Nat), RegsOk s ∧ d < 20 ∧ d ∉ s.pwr.diesLost) ∧
    (∃ (s : State) (d : Nat), (20 ≤ d ∨ d ∈ s.pwr.diesLost)) ∧
    (∃ (s : State) (h : Nat), RegsOk s ∧ h < 4 ∧ bitAt (s.fld .fltHealth FLT_HEALTH_HUBS) h = true) ∧
    (∃ (s : State) (h : Nat), (4 ≤ h ∨ bitAt (s.fld .fltHealth FLT_HEALTH_HUBS) h = false)) ∧
    (∃ (s : State) (x : Nat), x ∉ s.pwr.pllLost ∧ (x = srcQuay ∨ x = srcFlash ∨ x = srcM ∨ x = srcT)) ∧
    (∃ (s : State) (l : Nat), RegsOk s ∧ l < 4 ∧ srcL l ∉ s.pwr.pllLost) ∧
    (∃ (s : State) (d : Nat), RegsOk s ∧ d < 20 ∧ d ∉ s.pwr.diesLost ∧ srcDie d ∉ s.pwr.pllLost) ∧
    (∃ (s : State) (h : Nat), RegsOk s ∧ h < 4 ∧ srcHub h ∉ s.pwr.pllLost ∧ bitAt (s.fld .fltHealth FLT_HEALTH_HUBS)
      h = true) ∧
    (∃ (s : State) (x : Nat), x ∈ s.pwr.pllLost) ∧
    (∃ s : State, RegsOk s) ∧
    (∃ (s : State) (x : Nat), (x = srcM ∨ x = srcT) ∧ x ∉ s.pwr.svcFaults ∧ (twf (fun _ => 0) s.net.epochs = true)) ∧
    (∃ (s : State) (x : Nat), (x = srcM ∨ x = srcT) ∧ x ∈ s.pwr.svcFaults) ∧
    (∃ (s : State) (p : Nat) (r : Recovery), s.pwr.recov.find? (·.part = p) = some r ∧ s.resumes p = true) ∧
    (∃ (s : State) (p : Nat), (s.pwr.recov.find? (·.part = p) = none ∨ s.resumes p = false)) ∧
    (∃ s : State, RegsOk s ∧ s.healthLevel ≠ s.fld .fltHealth FLT_HEALTH_LEVEL) ∧
    (∃ s : State, s.healthLevel = s.fld .fltHealth FLT_HEALTH_LEVEL) :=
  ⟨⟨let r := z.setOwner 0 79 5; { r with pwr := { r.pwr with retireDue := [(79, 0x301)] } }, 79, 0x301, by decide +kernel⟩,
   ⟨let r := runZ 3 3 0; { r with pwr := { r.pwr with retireDue := [(79, 0x301)] } }, 79, 0x301, 0, by decide +kernel⟩,
   ⟨z, 5, by decide +kernel⟩,
   ⟨(z.setOwner 0 79 5).setOwner 1 1216 5, 19, by decide +kernel⟩,
   ⟨runZ 3 3 0, 19, by decide +kernel⟩,
   ⟨z, 20, by decide +kernel⟩,
   ⟨z.setFld .fltHealth FLT_HEALTH_HUBS 15, 0, by decide +kernel⟩,
   ⟨z.setFld .fltHealth FLT_HEALTH_HUBS 7, 3, by decide +kernel⟩,
   ⟨z, srcT, by decide +kernel⟩,
   ⟨fbZ, 1, by decide +kernel⟩,
   ⟨z.setOwner 1 1216 5, 19, by decide +kernel⟩,
   ⟨z, 2, by decide +kernel⟩,
   ⟨{ z with pwr := { z.pwr with pllLost := [srcM] } }, srcM, by decide +kernel⟩,
   ⟨z, by decide +kernel⟩,
   ⟨z, srcT, by decide +kernel⟩,
   ⟨{ z with pwr := { z.pwr with svcFaults := [srcM] } }, srcM, by decide +kernel⟩,
   ⟨{ z with svcTime := 4000, pwr := { z.pwr with recov := [{ part := 5, time := 400, code := 0x0B01 }] } }, 5, { part := 5, time := 400, code := 0x0B01 }, by decide +kernel⟩,
   ⟨z, 5, by decide +kernel⟩,
   ⟨{ z with pwr := { z.pwr with moduleLost := true } }, by decide +kernel⟩,
   ⟨{ z.setFld .fltHealth FLT_HEALTH_LEVEL 3 with pwr := { z.pwr with moduleLost := true } }, by decide +kernel⟩⟩


theorem witness_stepKeepsCanonicalForm : ∃ s t : State, Canonical s ∧ step s = .next t :=
  ⟨z, { z with svcTime := 1 }, ⟨by decide +kernel, by decide +kernel⟩, rfl⟩

theorem witness_stepTakesExactlyTheFront : ∃ s t : State, Canonical s ∧ s.pending ≠ [] ∧ step s = .next t :=
  ⟨{ z with pending := [.nop 0 0 0 .good] }, _, ⟨by decide +kernel, by decide +kernel⟩, by decide, rfl⟩

theorem witness_instructionsFollowTheIssueRules :
    (∃ (s : State) (q u t w : Nat) (th : Thread), u < 8 ∧ Fits q u t 0 w th s ∧ iWv w = false ∧ iSv w = false ∧ iPred w = true ∧ th.p = false) ∧
    (∃ (s : State) (q u t w : Nat) (th : Thread), u < 8 ∧ Fits q u t 0 w th s ∧ iWv w = true ∧ s.sem q (iWait w) = 0) ∧
    (∃ (s : State) (q u t w i : Nat), RegsOk s ∧ s.nextWord q u t = some w ∧ s.quadRuns q = true ∧ s.quadInst q = some i ∧
      s.flag (.schInst i) SCH_INST_RUN = true ∧ iOpcode w = 0 ∧ classOf 0 = some (iClass w) ∧ unitRuns u (iClass w) = true ∧
      (iThread w ≠ t ∨ formOk 0 (bits w 0 92) = false)) :=
  ⟨⟨runZ 2 3 (iw 0 0 3 0 4) { p := false }, 79, 2, 3, iw 0 0 3 0 4, thZ { p := false }, by decide +kernel⟩,
   ⟨runZ 2 3 (iw 0 0 3 0 1 9), 79, 2, 3, iw 0 0 3 0 1 9, thZ {}, by decide +kernel⟩,
   ⟨runZ 2 3 (iw 0 0 2 0), 79, 2, 3, iw 0 0 2 0, 0, by decide +kernel⟩⟩

theorem witness_lanesOfTheVectorProcessor :
    ∃ (s : State) (q t0 w ty : Nat) (th : Thread), Issues q 4 t0 0x44 w th s ∧ ty = bits w 20 3 ∧ ty ∈ numTypes ∧
      ((0x44 : Nat) = 0x51 → bits w 39 2 ≠ 3) ∧ twf (fun _ => 0) s.eng.vreg = true :=
  ⟨runZ 4 3 (vw 0x44 1 2 1 (3 * 2 ^ 10)), 79, 3, vw 0x44 1 2 1 (3 * 2 ^ 10), 1, thZ {}, by decide +kernel⟩

/-! ### Ill-formed commands are refused; the same commands with every operand at the end of its range are not -/

theorem test_illFormed1 : ([.sqTailDoorbell 4096 (2 ^ 32 - 1), .sqTailDoorbell 4095 (2 ^ 32), .cqHeadDoorbell 4096 (2
    ^ 32 - 1), .cqHeadDoorbell 4095 (2 ^ 32), .submissionFetch 4096 (List.replicate 128 0) [] false, .submissionFetch
    4095 (List.replicate 127 0) [] false, .qpError 4096 3, .qpError 4095 4, .buildDone 1024, .switchTakesEffect true
    64 false, .switchTakesEffect false 1024 false, .writeApply 64, .destage 64, .deltaAgeTimeout 1024 0, .foldComplete
    1024 0, .cutRelease 1024, .generationRelease 1024, .stagedRestore true 64, .stagedRestore false 1024,
    .startRecordWrite 80, .taskCompletionPost 0 { shards := [{ modnum := 4096 }] }, .msixUnmask 2048, .challenge
    (List.replicate 31 0), .getMeasurements (List.replicate 31 0), .stepWindowRequest 64 [], .stepWindowOpen 64 false,
    .stepWindowClose 64, .demotionWindowTimer 64, .lookupStageStart 64 0 [], .loadq 4096 false] : List Instr).all (fun
    i => !wellFormed i) = true := by
  decide +kernel

theorem test_illFormed2 : ([.setthr 4096, .maskt 4096 false, .clause 4096 0 false, .screen 4096 0 false, .dot 4096 0
    false, .abort 4096, .nbuStatusPoll 4096, .tidePass 8 [], .skRegionWrite 8 .whole (2 ^ 64 - 1), .skRegionWrite 7
    .whole (2 ^ 64), .skRegionWrite 7 .low (2 ^ 32), .skRegionWrite 7 .high (2 ^ 32), .conversionComplete 8,
    .stackTemperatureReport 8 (2 ^ 8 - 1), .stackTemperatureReport 7 (2 ^ 8), .bankRefresh 4096, .nop 80 4 7 .good,
    .nop 79 0 4 .good, .nop 79 4 8 .good, .nop 79 5 4 .good, .nop 79 6 2 .good, .nop 79 7 0 .good, .nop 79 8 16 .good,
    .nop 79 12 0 .good, .loop 80 4 7 .good, .loop 79 0 4 .good, .endl 80 4 7 .good, .endl 79 0 4 .good, .setp 80 4 7
    .good, .setp 79 0 4 .good] : List Instr).all (fun i => !wellFormed i) = true := by
  decide +kernel

theorem test_illFormed3 : ([.halt 80 4 7 .good, .halt 79 0 4 .good, .sset 80 4 7 .good, .sset 79 0 4 .good, .sadd 80 4
    7 .good, .sadd 79 0 4 .good, .swait 80 4 7 .good, .swait 79 0 4 .good, .sigr 80 4 7 .good, .sigr 79 0 4 .good,
    .flush 80 4 7 .good, .flush 79 0 4 .good, .fence 80 4 7 .good, .fence 79 0 4 .good, .mma 80 4 7 .good, .mma 79 0 4
    .good, .mmax 80 4 7 .good, .mmax 79 0 4 .good, .drain 80 4 7 .good, .drain 79 0 4 .good, .spill 80 4 7 .good,
    .spill 79 0 4 .good, .reload 80 4 7 .good, .reload 79 0 4 .good, .xfer 80 4 7 .good, .xfer 79 0 4 .good, .srctx 80
    4 7 .good, .srctx 79 0 4 .good, .spareSubstitution 20, .spareSelfTest 20 false] : List Instr).all (fun i =>
    !wellFormed i) = true := by
  decide +kernel

theorem test_illFormed4 : ([.vld 80 4 7 .good, .vld 79 0 4 .good, .vst 80 4 7 .good, .vst 79 0 4 .good, .vin 80 4 7
    .good, .vin 79 0 4 .good, .vout 80 4 7 .good, .vout 79 0 4 .good, .vadd 80 4 7 .good, .vadd 79 0 4 .good, .vsub 80
    4 7 .good, .vsub 79 0 4 .good, .vmul 80 4 7 .good, .vmul 79 0 4 .good, .vfma 80 4 7 .good, .vfma 79 0 4 .good,
    .vdiv 80 4 7 .good, .vdiv 79 0 4 .good, .vsqrt 80 4 7 .good, .vsqrt 79 0 4 .good, .vmax 80 4 7 .good, .vmax 79 0 4
    .good, .vmin 80 4 7 .good, .vmin 79 0 4 .good, .vexp 80 4 7 .good, .vexp 79 0 4 .good, .vtanh 80 4 7 .good, .vtanh
    79 0 4 .good, .vcmp 80 4 7 .good, .vcmp 79 0 4 .good] : List Instr).all (fun i => !wellFormed i) = true := by
  decide +kernel

theorem test_illFormed5 : ([.vsel 80 4 7 .good, .vsel 79 0 4 .good, .vlog 80 4 7 .good, .vlog 79 0 4 .good, .vshift 80
    4 7 .good, .vshift 79 0 4 .good, .vcvt 80 4 7 .good, .vcvt 79 0 4 .good, .wadd 80 4 7 .good, .wadd 79 0 4 .good,
    .vw2d 80 4 7 .good, .vw2d 79 0 4 .good, .vred 80 4 7 .good, .vred 79 0 4 .good, .vimm 80 4 7 .good, .vimm 79 0 4
    .good, .slq 80 4 7 .good, .slq 79 0 4 .good, .sscr 80 4 7 .good, .sscr 79 0 4 .good, .select 80 4 7 .good, .select
    79 0 4 .good, .streamHitArrival 80, .streamEnd 80, .fstr 80 4 7 .good, .fstr 79 0 4 .good, .ferryMeterWindow 4 64
    [], .ferryMeterWindow 3 65 [], .nbcmd 80 4 7 .good, .nbcmd 79 0 4 .good] : List Instr).all (fun i => !wellFormed
    i) = true := by
  decide +kernel

theorem test_illFormed6 : ([.nblist 80 4 7 .good, .nblist 79 0 4 .good, .instructionComplete 80 4 7 0,
    .instructionComplete 79 0 4 0, .watchdog 80 4 7, .watchdog 79 0 4, .instanceAbort 80 none, .schLoadGo 64 (2 ^ 16 -
    1), .schLoadGo 63 (2 ^ 16), .schUnload 80, .narrowPathAccess 0 (.addr 0) 257 none .good, .narrowPathAccess 0
    (.addr 0) 4 (some [0]) .good, .memorySideAdd 0 (.addr 0) 0 (List.replicate 257 0) false, .memChfail 64 .whole,
    .dramTemperatureReport 64 (2 ^ 8 - 1), .dramTemperatureReport 63 (2 ^ 8), .flashRead 0 0 (2 ^ 40) 0 .hard,
    .spadPwrWrite 20 false .whole (2 ^ 64 - 1), .spadPwrWrite 19 false .whole (2 ^ 64), .spadPwrWrite 19 false .low (2
    ^ 32), .spadPwrWrite 19 false .high (2 ^ 32), .bankWake 20 63, .bankWake 19 64, .bankOnWipeDone 20 63,
    .bankOnWipeDone 19 64, .aliasWrite 0 false 0 [] .good, .aliasWrite 0 false 0 (List.replicate 33 0) .good,
    .aliasWrite 0 false 0 (List.replicate 6 0) .good, .mooringAcquire 0 20 2047 (2 ^ 16 - 1), .mooringAcquire 0 19
    2048 (2 ^ 16 - 1)] : List Instr).all (fun i => !wellFormed i) = true := by
  decide +kernel

theorem test_illFormed7 : ([.mooringAcquire 0 19 2047 (2 ^ 16), .mooringRelease 0 20 2047 (2 ^ 16 - 1),
    .mooringRelease 0 19 2048 (2 ^ 16 - 1), .mooringRelease 0 19 2047 (2 ^ 16), .farRead 0 20 (2 ^ 40 - 1) 0 false,
    .farRead 0 19 (2 ^ 40) 0 false, .sharedLineWrite 0 (2 ^ 40) [], .snoopArrival 20 0, .evictionNotice 20 0,
    .fcRangeWrite 64 .whole (2 ^ 64 - 1), .fcRangeWrite 63 .whole (2 ^ 64), .fcRangeWrite 63 .low (2 ^ 32),
    .fcRangeWrite 63 .high (2 ^ 32), .poolAlloc 0 320 false, .poolFree 0 320 (2 ^ 64 - 1), .poolFree 0 319 (2 ^ 64),
    .poolCfgWrite 320 .whole (2 ^ 64 - 1), .poolCfgWrite 319 .whole (2 ^ 64), .poolCfgWrite 319 .low (2 ^ 32),
    .poolCfgWrite 319 .high (2 ^ 32), .portTraining 16 (2 ^ 9 - 1) false, .portTraining 15 (2 ^ 9) false,
    .trainingTimeout 16, .flitReceive 16 false 0 0 [] (some { len := 256, dst := 4095 }), .flitReceive 15 false 0 0 []
    (some { len := 257 }), .flitReceive 15 false 0 0 [] (some { dst := 4096 }), .nakResend 16 0, .laneFailure 16,
    .portDown 16, .cableInsert 11] : List Instr).all (fun i => !wellFormed i) = true := by
  decide +kernel

theorem test_illFormed8 : ([.cableInsert 16, .hello 16 15 1023 (2 ^ 64 - 1), .hello 15 16 1023 (2 ^ 64 - 1), .hello 15
    15 1024 (2 ^ 64 - 1), .hello 15 15 1023 (2 ^ 64), .collectiveWindowWrite 0 64 0 none, .ctoExpiry 64,
    .collectiveStepComplete 64, .groupEnable 64 (2 ^ 64 - 1), .groupEnable 63 (2 ^ 64), .abPortEnWrite 16 false,
    .abDupid 16 15, .abDupid 15 16, .fabricDrain (some 4), .timeFlitExchange 16 none 0, .ptCfgEnWrite 64 false,
    .partitionDrainComplete 64, .ptOwnWrite 5 511 .whole (2 ^ 64 - 1), .ptOwnWrite 0 10 .whole (2 ^ 64 - 1),
    .ptOwnWrite 4 512 .whole (2 ^ 64 - 1), .ptOwnWrite 4 511 .whole (2 ^ 64), .ptOwnWrite 4 511 .low (2 ^ 32),
    .ptOwnWrite 4 511 .high (2 ^ 32), .ptWipeDone 5 4095, .ptWipeDone 0 80, .ptWipeDone 1 1280, .ptWipeDone 2 432,
    .ptWipeDone 3 144, .ptWipeDone 4 4096, .ptFloorWrite 256 .whole (2 ^ 64 - 1)] : List Instr).all (fun i =>
    !wellFormed i) = true := by
  decide +kernel

theorem test_illFormed9 : ([.ptFloorWrite 255 .whole (2 ^ 64), .ptFloorWrite 255 .low (2 ^ 32), .ptFloorWrite 255
    .high (2 ^ 32), .tnCfgEnWrite 1024 false, .quotaWrite 1024 3 (2 ^ 32 - 1), .quotaWrite 1023 4 (2 ^ 32 - 1),
    .quotaWrite 1023 3 (2 ^ 32), .lifeCycleTransition 5 (some (List.replicate 144 0)) false, .lifeCycleTransition 4
    (some []) false, .svnCommit 0, .svnCommit 8, .pldmFirmwareUpdate 0 (List.replicate 256 0) [] false,
    .pldmFirmwareUpdate 8 (List.replicate 256 0) [] false, .pldmFirmwareUpdate 7 (List.replicate 255 0) [] false,
    .dieTemperatureSample 24 (2 ^ 8 - 1), .dieTemperatureSample 23 (2 ^ 8), .quadIdleGate 80, .pwrQuadWrite 80 3,
    .pwrQuadWrite 79 4, .rstReqGo 4 79 15 63, .rstReqGo 3 80 15 63, .rstReqGo 3 79 16 63, .rstReqGo 3 79 15 64,
    .quadRetired 80, .hubLost 4, .resumed 64, .bar0AccessInvalid 67108864 64 none, .bar0AccessInvalid 67108863 0 none,
    .bar0AccessInvalid 67108863 65 none, .registerWrite 0 67108864 .whole (2 ^ 64 - 1)] : List Instr).all (fun i =>
    !wellFormed i) = true := by
  decide +kernel

theorem test_illFormed10 : ([.registerWrite 0 67108863 .whole (2 ^ 64), .registerWrite 0 67108863 .low (2 ^ 32),
    .registerWrite 0 67108863 .high (2 ^ 32), .glbIntCause 5, .evqAckWrite 65 .whole (2 ^ 64 - 1), .evqAckWrite 64
    .whole (2 ^ 64), .evqAckWrite 64 .low (2 ^ 32), .evqAckWrite 64 .high (2 ^ 32), .evqInterrupt 65,
    .coolantSensorRead (2 ^ 8) (2 ^ 8 - 1), .coolantSensorRead (2 ^ 8 - 1) (2 ^ 8), .osfpPresencePoll (List.replicate
    3 none), .slotIdLatch 16 false, .bypass 32, .idcode 32, .samplePreload 32 0, .extest 32 0, .clamp 32, .highz 32,
    .tmuxsel 32 (List.replicate 16 0), .tmuxsel 31 (List.replicate 15 0), .dbgacc 32 0, .consoleLog 0, .consoleLog 65,
    .consoleRd 67108864, .consoleWr 67108864 (2 ^ 64 - 1), .consoleWr 67108863 (2 ^ 64), .cvtWindowRestart 84,
    .nandTemperatureReport (2 ^ 8), .keyErased 1024] : List Instr).all (fun i => !wellFormed i) = true := by
  decide +kernel

theorem test_illFormed11 : ([.dieLost 20, .serviceDieFault 0x511, .identifyLed 3] : List Instr).all (fun i =>
    !wellFormed i) = true := by
  decide +kernel

theorem test_wellFormed1 : ([.sqTailDoorbell 4095 (2 ^ 32 - 1), .cqHeadDoorbell 4095 (2 ^ 32 - 1), .submissionFetch
    4095 (List.replicate 128 0) [] false, .qpError 4095 3, .buildDone 1023, .switchTakesEffect false 1023 false,
    .writeApply 63, .destage 63, .deltaAgeTimeout 1023 0, .foldComplete 1023 0, .cutRelease 1023, .generationRelease
    1023, .stagedRestore false 1023, .startRecordWrite 79, .taskCompletionPost 0 { shards := [{ modnum := 4095 }] },
    .msixUnmask 2047, .challenge (List.replicate 32 0), .getMeasurements (List.replicate 32 0), .stepWindowRequest 63
    [], .stepWindowOpen 63 false, .stepWindowClose 63, .demotionWindowTimer 63, .lookupStageStart 63 0 [], .loadq 4095
    false, .setthr 4095, .maskt 4095 false, .clause 4095 0 false, .screen 4095 0 false, .dot 4095 0 false, .abort
    4095] : List Instr).all (fun i => wellFormed i) = true := by
  decide +kernel

theorem test_wellFormed2 : ([.nbuStatusPoll 4095, .tidePass 7 [], .skRegionWrite 7 .whole (2 ^ 64 - 1),
    .conversionComplete 7, .stackTemperatureReport 7 (2 ^ 8 - 1), .bankRefresh 4095, .nop 79 4 7 .good, .loop 79 4 7
    .good, .endl 79 4 7 .good, .setp 79 4 7 .good, .halt 79 4 7 .good, .sset 79 4 7 .good, .sadd 79 4 7 .good, .swait
    79 4 7 .good, .sigr 79 4 7 .good, .flush 79 4 7 .good, .fence 79 4 7 .good, .mma 79 4 7 .good, .mmax 79 4 7 .good,
    .drain 79 4 7 .good, .spill 79 4 7 .good, .reload 79 4 7 .good, .xfer 79 4 7 .good, .srctx 79 4 7 .good,
    .spareSubstitution 19, .spareSelfTest 19 false, .vld 79 4 7 .good, .vst 79 4 7 .good, .vin 79 4 7 .good, .vout 79
    4 7 .good] : List Instr).all (fun i => wellFormed i) = true := by
  decide +kernel

theorem test_wellFormed3 : ([.vadd 79 4 7 .good, .vsub 79 4 7 .good, .vmul 79 4 7 .good, .vfma 79 4 7 .good, .vdiv 79
    4 7 .good, .vsqrt 79 4 7 .good, .vmax 79 4 7 .good, .vmin 79 4 7 .good, .vexp 79 4 7 .good, .vtanh 79 4 7 .good,
    .vcmp 79 4 7 .good, .vsel 79 4 7 .good, .vlog 79 4 7 .good, .vshift 79 4 7 .good, .vcvt 79 4 7 .good, .wadd 79 4 7
    .good, .vw2d 79 4 7 .good, .vred 79 4 7 .good, .vimm 79 4 7 .good, .slq 79 4 7 .good, .sscr 79 4 7 .good, .select
    79 4 7 .good, .streamHitArrival 79, .streamEnd 79, .fstr 79 4 7 .good, .ferryMeterWindow 3 64 [], .nbcmd 79 4 7
    .good, .nblist 79 4 7 .good, .instructionComplete 79 4 7 0, .watchdog 79 4 7] : List Instr).all (fun i =>
    wellFormed i) = true := by
  decide +kernel

theorem test_wellFormed4 : ([.instanceAbort 79 none, .schLoadGo 63 (2 ^ 16 - 1), .schUnload 79, .narrowPathAccess 0
    (.addr 0) 256 none .good, .memorySideAdd 0 (.addr 0) 0 (List.replicate 256 0) false, .memChfail 63 .whole,
    .dramTemperatureReport 63 (2 ^ 8 - 1), .flashRead 0 0 (2 ^ 40 - 1) 0 .hard, .spadPwrWrite 19 false .whole (2 ^ 64
    - 1), .bankWake 19 63, .bankOnWipeDone 19 63, .aliasWrite 0 false 0 (List.replicate 32 0) .good, .mooringAcquire 0
    19 2047 (2 ^ 16 - 1), .mooringRelease 0 19 2047 (2 ^ 16 - 1), .farRead 0 19 (2 ^ 40 - 1) 0 false, .sharedLineWrite
    0 (2 ^ 40 - 1) [], .snoopArrival 19 0, .evictionNotice 19 0, .fcRangeWrite 63 .whole (2 ^ 64 - 1), .poolAlloc 0
    319 false, .poolFree 0 319 (2 ^ 64 - 1), .poolCfgWrite 319 .whole (2 ^ 64 - 1), .portTraining 15 (2 ^ 9 - 1)
    false, .trainingTimeout 15, .flitReceive 15 false 0 0 [] (some { len := 256, dst := 4095 }), .nakResend 15 0,
    .laneFailure 15, .portDown 15, .cableInsert 15, .hello 15 15 1023 (2 ^ 64 - 1)] : List Instr).all (fun i =>
    wellFormed i) = true := by
  decide +kernel

theorem test_wellFormed5 : ([.collectiveWindowWrite 0 63 0 none, .ctoExpiry 63, .collectiveStepComplete 63,
    .groupEnable 63 (2 ^ 64 - 1), .abPortEnWrite 15 false, .abDupid 15 15, .fabricDrain (some 3), .timeFlitExchange 15
    none 0, .ptCfgEnWrite 63 false, .partitionDrainComplete 63, .ptOwnWrite 4 511 .whole (2 ^ 64 - 1), .ptWipeDone 4
    4095, .ptFloorWrite 255 .whole (2 ^ 64 - 1), .tnCfgEnWrite 1023 false, .quotaWrite 1023 3 (2 ^ 32 - 1),
    .lifeCycleTransition 4 (some (List.replicate 144 0)) false, .svnCommit 7, .pldmFirmwareUpdate 7 (List.replicate
    256 0) [] false, .dieTemperatureSample 23 (2 ^ 8 - 1), .quadIdleGate 79, .pwrQuadWrite 79 3, .rstReqGo 3 79 15 63,
    .quadRetired 79, .hubLost 3, .resumed 63, .bar0AccessInvalid 67108863 64 none, .registerWrite 0 67108863 .whole (2
    ^ 64 - 1), .glbIntCause 4, .evqAckWrite 64 .whole (2 ^ 64 - 1), .evqInterrupt 64] : List Instr).all (fun i =>
    wellFormed i) = true := by
  decide +kernel

theorem test_wellFormed6 : ([.coolantSensorRead (2 ^ 8 - 1) (2 ^ 8 - 1), .osfpPresencePoll (List.replicate 4 none),
    .slotIdLatch 15 false, .bypass 31, .idcode 31, .samplePreload 31 0, .extest 31 0, .clamp 31, .highz 31, .tmuxsel
    31 (List.replicate 16 0), .dbgacc 31 0, .consoleLog 64, .consoleRd 67108863, .consoleWr 67108863 (2 ^ 64 - 1),
    .cvtWindowRestart 83, .nandTemperatureReport (2 ^ 8 - 1), .keyErased 1023, .dieLost 19, .serviceDieFault 0x531,
    .identifyLed 2] : List Instr).all (fun i => wellFormed i) = true := by
  decide +kernel


/-- each field of a message one past its width (14 Table 14-5) -/
theorem test_illFormedMessages : ([{ mtype := 256 }, { vc := 8 }, { lvl := 2 }, { hops := 16 }, { dst := 4096 }, { src := 4096 },
    { srcid := 4096 }, { tag := 65536 }, { epoch := 65536 }, { len := 257 }, { spart := 64 }, { dpart := 64 }, { addr := 2 ^ 64 },
    { aux := 2 ^ 32 }, { status := 256 }, { rlen := 16 }, { data := List.replicate 257 0 }] : List Msg).all
    (fun m => !wellFormed (.flitReceive 0 true 0 0 [] (some m))) = true := by decide +kernel

/-! ### Worked values of the spec -/

/-- 06, "one element rounded to BF16": 1 + 3 * 2^-10, by RNE and by SR with two generator values. -/
theorem test_bf16_rne : (Fm.conv .bf16 .rne false (wOf 0x000000000000000100C0000000000000#128).val).1 = 0x3F80 := by decide +kernel
theorem test_bf16_sr_up : (Fm.conv .bf16 (.sr 0x400000) false (wOf 0x000000000000000100C0000000000000#128).val).1 = 0x3F81 := by
  decide +kernel
theorem test_bf16_sr_down : (Fm.conv .bf16 (.sr 0xA00000) false (wOf 0x000000000000000100C0000000000000#128).val).1 = 0x3F80 := by
  decide +kernel

/-- 06, "one sum, two placements": 2^40 + 1 and -2^40 sum to 1 (Table 6-8), which drains to 1.0. -/
theorem test_w128_placement : w128Add 0x00000100000000010000000000000000#128 0xFFFFFF00000000000000000000000000#128 =
    0x00000000000000010000000000000000#128 := by decide +kernel
theorem test_w128_drain : (Fm.conv .fp32 .rne false (wOf 0x00000000000000010000000000000000#128).val).1 = 0x3F800000 := by
  decide +kernel

/-- 06, "the effect of a run boundary": 2^20 and 2^-40 in one run, and each in its own. -/
theorem test_chunk_one_run : chunkRun [.fin false 1 20, .fin false 1 (-40)] = .fin (2 ^ 84) := by decide +kernel
theorem test_chunk_two_runs : (chunkRun [.fin false 1 20]).add (chunkRun [.fin false 1 (-40)]) = .fin (2 ^ 84 + 2 ^ 24) := by
  decide +kernel

/-- 09 Table 9-14: the header and operands of the MMA and the DRAIN of the example. -/
def mmaEx : Nat := 0x30312140300000000400_00FF80402011
def drainEx : Nat := 0x323140413000000000000008247F0000
theorem test_mma_fields : iOpcode mmaEx = 0x30 ∧ iClass mmaEx = 3 ∧ iThread mmaEx = 1 ∧ iWait mmaEx = 0x21 ∧ iSignal mmaEx = 0x40 ∧
    iWv mmaEx = true ∧ iSv mmaEx = true ∧ iPred mmaEx = false ∧ iWkeep mmaEx = false ∧ formOk 0x30 (bits mmaEx 0 92) = true := by
  decide +kernel
theorem test_drain_fields : iOpcode drainEx = 0x32 ∧ iClass drainEx = 3 ∧ iThread drainEx = 1 ∧ iWait drainEx = 0x40 ∧
    iSignal drainEx = 0x41 ∧ formOk 0x32 (bits drainEx 0 92) = true := by decide +kernel
/-- the stored bytes of the MMA -/
theorem test_mma_bytes : leBytes 16 mmaEx = [0x11#8, 0x20#8, 0x40#8, 0x80#8, 0xFF#8, 0#8, 0#8, 4#8, 0#8, 0#8, 0#8, 0x30#8, 0x40#8,
    0x21#8, 0x31#8, 0x30#8] := by decide +kernel

/-- 08 Table 8-10: keys of R157 for DIR = MAX. -/
theorem test_keys : [0x3F400000, 0x40200000, 0xBF800000, 0x80000000, 0x40400000, 0x7FC00000, 0].map (fpKey true) =
    [0x40BFFFFF, 0x3FDFFFFF, 0xBF800000, 0x7FFFFFFF, 0x3FBFFFFF, 0xFFFFFFFF, 0x7FFFFFFF] := by decide +kernel

/-- 18, after Table 18-4: FRY_SWAIT of stream 5 of E09.Q3.F2. -/
theorem test_frySwait : regOff (.frySwait 2533) = 0x66F28 := by decide

/-- 12 Table 12-10: Haldav takes the BROKEN mooring M5 of E03 with TAG 0x0100 at epoch 3. -/
theorem test_mooring : let r := z.setMoor 3 5 0x0000700420C90002
    let s : State := { r with net := { r.net with epochs := [(0x511, 3)] } }
    (s.moorAcquire 0x511 3 5 0x100).moor 3 5 = 0x0000301005110005 := by decide +kernel

end Sys2Proof.Tests
end

