-- ==== Sys2Proof/Proofs/FaultsSparesAndHealth.lean ====
section
/-! Refutation of O58. Its second clause takes any state with a canonical register table, whatever quads its instances list. QUAD_RETIRED
ends with the instance loaded anew, which first clears every quad that the instance lists. A listed number past the 80 quads has its
SCH_QUAD "register" on top of another register, here the owner bytes: the owner byte that the retirement had set is overwritten. -/

namespace Sys2Proof.Proofs.FaultsSparesAndHealth

open Sys2Proof Sys2Proof.Machine Sys2Proof.Safety Sys2Proof.Laws

/-! ### A cleared quad belongs to no instance -/

theorem fld_clearQuad_inst {K : Kept} {s : State} (h : Keeps K s) (q : Nat) :
    (s.clearQuad q).fld (.schQuad q) SCH_QUAD_INST = 0x7F := by
  unfold State.clearQuad
  refine State.fld_setFld_self _ _ _ _ ?_ (by decide)
  have hk : Keeps K ((s.dropStreams q).clearSel q) := keeps_clearSel (keeps_dropStreams h)
  exact (keeps_loadSems (K := K) (by simpa only [Keeps.mk_eq] using hk)).2.2.1

/-- Of an instance that is taken off its quads, the last one listed was cleared last. -/
theorem fld_dropInst_lastQuad {K : Kept} {s : State} (h : Keeps K s) {i q : Nat} {v : Inst} {qs : List Nat} (hv : s.inst i = some v)
    (hq : v.quads = qs ++ [q]) (hne : regOff (.schQuad q) ≠ regOff (.schInst i)) :
    (s.dropInst i).fld (.schQuad q) SCH_QUAD_INST = 0x7F := by
  simp only [State.dropInst, hv, hq, List.foldl_append, List.foldl_cons, List.foldl_nil]
  rw [State.fld_setFld_ne _ _ _ _ _ _ hne, State.fld_setFld_ne _ _ _ _ _ _ hne, State.fld_setFld_ne _ _ _ _ _ _ hne, State.setInst_fld, State.fld, State.reg]
  have hwiped : Keeps K (v.scheds.foldl (fun (s : State) x => s.wipe (x.2.1 - 32) (32 + 16 * x.2.2)) s) :=
    Keeps.foldl (fun _ _ => keeps_wipe) h
  have hcleared : Keeps K (qs.foldl State.clearQuad _) := Keeps.foldl (fun _ _ => keeps_clearQuad) hwiped
  have hlast := fld_clearQuad_inst hcleared q
  rw [State.fld, State.reg] at hlast
  exact hlast

/-! ### What follows the clearing leaves the registers as they are -/

theorem moveWaiting_regs (s : State) (v : Inst) (i : Nat) : (s.moveWaiting v i).regs = s.regs := by
  unfold State.moveWaiting
  refine List.foldlRecOn (motive := fun t : State => t.regs = s.regs) _ _ rfl fun t ht w _ => ?_
  split
  · exact ht
  · exact ht

/-- An instance without tasks whose image is no plan stays unloaded. -/
theorem rebindInst_regs_of_noPlan {s : State} {i : Nat} {v : Inst} (dead : List Nat) (hv : s.inst i = some v) (ht : v.tasks = [])
    (hp : planForm (s.rd v.image (pImglen (s.rd v.image 128))) = false) : (s.rebindInst i dead).regs = (s.dropInst i).regs := by
  have he (t : State) : t.imageErr (s.rd v.image (pImglen (s.rd v.image 128))) = some 0x01 := by
    simp only [State.imageErr, hp, if_true]
  simp [State.rebindInst, hv, he, ht, moveWaiting_regs]

/-- A quad of an instance whose abort is over: it is fenced, and the instance is loaded anew. -/
theorem quadRetired_regs {s : State} {q c i : Nat} {v : Inst} (hd : s.pwr.retireDue.find? (·.1 = q) = some (q, c))
    (hr : q ∉ s.pwr.retired) (hi : s.quadInst q = some i) (hv : s.inst i = some v) (hm : q ∈ v.quads) (ha : s.ctl.aborting = []) :
    (s.quadRetired q).regs = ((s.fenceQuad q).rebindInst i [q]).regs := by
  have hab : s.abortFor false c i = s := by simp [State.abortFor, ha]
  have hon : s.instsOn [q] = [i] := by simp [State.instsOn, hi, List.eraseDups_cons]
  simp [State.quadRetired, hd, State.retireQuads, hr, hon, hv, hm, hab, State.raise, causeOf]

/-! ### The counterexample -/

/-- No quad of the module: where its SCH_QUAD word would lie, the first word of PT_OWNQ lies. -/
def strayQuad : Nat := 99072

theorem regOff_strayQuad : regOff (.schQuad strayQuad) = regOff (.ptOwnQ 0) := rfl

/-- INST of the stray number is the low part of quad 2's owner byte. -/
theorem fld_strayQuad (s : State) : s.fld (.schQuad strayQuad) SCH_QUAD_INST = s.owner 0 2 % 128 := by
  have hreg : s.reg (.schQuad strayQuad) = s.reg (.ptOwnQ 0) := by rw [State.reg, State.reg, regOff_strayQuad]
  show bits (s.reg (.schQuad strayQuad)).toNat 16 7 = bits (s.reg (.ptOwnQ 0)).toNat 16 8 % 128
  rw [hreg, bits_eq, bits_eq]
  omega

/-- An instance that lists the stray number behind quad 2. -/
def strayInst : Inst where
  part := 0
  kind := 0
  object := 0
  limit := 0
  startsem := 0
  tring := 0
  quads := [2, strayQuad]
  image := 0
  bind := 0
  seminit := []
  scheds := []

/-- After reset, but quad 2 belongs to that instance and is due for retirement. -/
def strayState : State :=
  ({ State.reset with pwr := { retireDue := [(2, 0x0301)] }, ctl := { insts := [(0, some strayInst)] } } : State).setFld
    (.schQuad 2) SCH_QUAD_INST 0

theorem keeps_strayState : Keeps ⟨[], [], 0⟩ strayState := ⟨rfl, rfl, by decide +kernel, List.nil_prefix, Nat.le_refl 0⟩

theorem quadInst_strayState : strayState.quadInst 2 = some 0 := by decide +kernel

theorem fenceQuad_strayState_inst : (strayState.fenceQuad 2).inst 0 = some strayInst := rfl

theorem fenceQuad_strayState_mem : (strayState.fenceQuad 2).mem = [] := rfl

theorem owner_quadRetired_strayState : (strayState.quadRetired 2).owner 0 2 % 128 = 0x7F := by
  have hregs : (strayState.quadRetired 2).regs = ((strayState.fenceQuad 2).dropInst 0).regs := by
    rw [quadRetired_regs (c := 0x0301) rfl (by decide) quadInst_strayState (v := strayInst) rfl (by decide) rfl]
    refine rebindInst_regs_of_noPlan [2] fenceQuad_strayState_inst rfl ?_
    rw [State.rd, State.rd, fenceQuad_strayState_mem]
    decide +kernel
  have hlast : ((strayState.fenceQuad 2).dropInst 0).fld (.schQuad strayQuad) SCH_QUAD_INST = 0x7F :=
    fld_dropInst_lastQuad (keeps_fenceQuad keeps_strayState) fenceQuad_strayState_inst (qs := [2]) rfl (by decide)
  rw [← fld_strayQuad, State.fld, State.reg, hregs]
  exact hlast

end Sys2Proof.Proofs.FaultsSparesAndHealth

open Sys2Proof Sys2Proof.Machine Sys2Proof.Safety Sys2Proof.Proofs.FaultsSparesAndHealth

/-- Refutes O58: its second clause asks nothing of the quads that an instance lists. `strayState` is reset but for quad 2, which is due
for retirement and belongs to an instance that also lists the number 99072; clearing that number overwrites quad 2's owner byte, which
ends with its low seven bits set and is not 0x80. (No load makes such an instance: 09 R209 admits quads below 80 only. The clause
wants that as a hypothesis.) -/
theorem not_faultsSparesAndHealth : ¬ Obligations.FaultsSparesAndHealth := by
  unfold Obligations.FaultsSparesAndHealth
  rintro ⟨-, hretired, -⟩
  obtain ⟨t, hstep, howner, -⟩ := hretired strayState 2 0x0301 0 keeps_strayState.2.2.1 (by decide) rfl (by decide) quadInst_strayState
  obtain rfl : strayState.quadRetired 2 = t := by injection hstep
  have hlow := owner_quadRetired_strayState
  rw [howner] at hlow
  exact absurd hlow (by decide)
end

/-! Proof of O49: queries, their results and completions, GET_LOG and deferred errors. The lemmas go from the bytes of a result and the
order of its records, over the search whose candidates may be all vectors, to posting, the checks of QUERY, GET_LOG, and what a failure
record leaves as it was. -/

namespace Sys2Proof.Proofs.QueriesAndTheirCompletions

open Sys2Proof Sys2Proof.Machine Sys2Proof.Safety Sys2Proof.Laws

/-! ### Bytes of a record that is laid out field by field -/

theorem length_leBytes (k n : Nat) : (leBytes k n).length = k := by
  induction k generalizing n with
  | zero => rfl
  | succ k ih => simp [leBytes, ih]

theorem ofLE_leBytes (k n : Nat) : ofLE (leBytes k n) = n % 256 ^ k := by
  induction k generalizing n with
  | zero => simp [leBytes, ofLE, Nat.mod_one]
  | succ k ih =>
    rw [leBytes, ofLE, ih, BitVec.toNat_ofNat, Nat.shiftRight_eq_div_pow, pow_succ' 256 k, Nat.mod_mul]

theorem leAt_append_right (a r : List Byte) (o k : Nat) : leAt (a ++ r) (a.length + o) k = leAt r o k := by
  rw [leAt, leAt, bytesAt, bytesAt, List.drop_append, List.drop_eq_nil_of_le (by omega), Nat.add_sub_cancel_left, List.nil_append]

theorem leAt_append_left (a r : List Byte) (o k : Nat) (h : o + k ≤ a.length) : leAt (a ++ r) o k = leAt a o k := by
  rw [leAt, leAt, bytesAt, bytesAt, List.drop_append_of_le_length (by omega), List.take_append_of_le_length (by simp; omega)]

/-- A field that lies behind the first one. -/
theorem leAt_skip (j x : Nat) (r : List Byte) (o k : Nat) (h : j ≤ o) : leAt (leBytes j x ++ r) o k = leAt r (o - j) k := by
  have he := leAt_append_right (leBytes j x) r (o - j) k
  rwa [length_leBytes, Nat.add_sub_cancel' h] at he

theorem leAt_leBytes (k x : Nat) : leAt (leBytes k x) 0 k = x % 256 ^ k := by
  have hl := length_leBytes k x
  rw [leAt, bytesAt, List.drop_zero, List.take_of_length_le (by omega), hl, Nat.sub_self, List.replicate_zero, List.append_nil, ofLE_leBytes]

/-- The first field. -/
theorem leAt_first (k x : Nat) (r : List Byte) : leAt (leBytes k x ++ r) 0 k = x % 256 ^ k := by
  rw [leAt_append_left _ _ _ _ (by simp [length_leBytes]), leAt_leBytes]

/-- A field of the `i`-th of records of one length. -/
theorem leAt_flatMap {α : Type} (f : α → List Byte) (w : Nat) (hf : ∀ x, (f x).length = w) (o k : Nat) (h : o + k ≤ w) {l : List α}
    {i : Nat} {x : α} (hi : l[i]? = some x) : leAt (l.flatMap f) (w * i + o) k = leAt (f x) o k := by
  induction l generalizing i with
  | nil => simp at hi
  | cons y l ih =>
    rw [List.flatMap_cons]
    cases i with
    | zero =>
      obtain rfl : y = x := by simpa using hi
      rw [Nat.mul_zero, Nat.zero_add, leAt_append_left _ _ _ _ (by rw [hf]; exact h)]
    | succ i =>
      have hw : w * (i + 1) + o = (f y).length + (w * i + o) := by rw [hf, Nat.mul_succ]; omega
      rw [hw, leAt_append_right, ih (by simpa using hi)]

theorem leAt_lt (bs : List Byte) (o k : Nat) : leAt bs o k < 256 ^ k := by
  have hle (l : List Byte) : ofLE l < 256 ^ l.length := by
    induction l with
    | nil => simp [ofLE]
    | cons b l ih =>
      have hb := b.isLt
      rw [ofLE, List.length_cons, pow_succ' 256]
      omega
  have hlen : (bytesAt bs o k).length = k := by simp [bytesAt]
  exact (hle (bytesAt bs o k)).trans_eq (by rw [hlen])

/-! ### Sorting -/

theorem sortBy_eq_insertionSort {α : Type} (le : α → α → Bool) (l : List α) :
    sortBy le l = l.insertionSort (fun a b => le a b = true) := by
  have hins (x : α) (l : List α) : insertBy le x l = l.orderedInsert (fun a b => le a b = true) x := by
    induction l with
    | nil => rfl
    | cons y l ih => rw [insertBy, List.orderedInsert_cons, ih]
  induction l with
  | nil => rfl
  | cons x l ih => rw [sortBy, hins, ih, List.insertionSort_cons]

theorem sortBy_perm {α : Type} (le : α → α → Bool) (l : List α) : (sortBy le l).Perm l := by
  rw [sortBy_eq_insertionSort]
  exact List.perm_insertionSort _ l

theorem pairwise_sortBy {α : Type} (le : α → α → Bool) (htot : ∀ a b, le a b = true ∨ le b a = true)
    (htr : ∀ a b c, le a b = true → le b c = true → le a c = true) (l : List α) : (sortBy le l).Pairwise fun a b => le a b = true := by
  have : Std.Total fun a b : α => le a b = true := ⟨htot⟩
  have : IsTrans α fun a b => le a b = true := ⟨htr⟩
  rw [sortBy_eq_insertionSort]
  exact List.pairwise_insertionSort _ l

/-- In a strictly ordered list an element stands behind exactly those that are better. -/
theorem getElem?_countP_of_strict {α : Type} {le : α → α → Bool} (hrefl : ∀ a, le a a = true) {l : List α} {x : α}
    (hl : l.Pairwise fun a b => le a b = true ∧ le b a = false) (hx : x ∈ l) : l[l.countP fun b => !(le x b)]? = some x := by
  induction l with
  | nil => simp at hx
  | cons y l ih =>
    obtain ⟨hy, hl⟩ := List.pairwise_cons.1 hl
    rcases List.mem_cons.1 hx with rfl | hx
    · have hz : l.countP (fun b => !(le x b)) = 0 := List.countP_eq_zero.2 fun b hb => by simp [(hy b hb).1]
      simp [hrefl, hz]
    · simpa [List.countP_cons, (hy x hx).2] using ih hl hx

/-! ### The order of the result (02 R30) -/

theorem hitLe_iff (m : Nat) (a b : Hit) : hitLe m a b = true ↔
    scoreKey m a.score < scoreKey m b.score ∨ (scoreKey m a.score = scoreKey m b.score ∧ a.id ≤ b.id) := by
  simp [hitLe]

/-- Strictly before in the order of R30. -/
theorem not_hitLe (m : Nat) (a b : Hit) : (!(hitLe m b a)) =
    decide (scoreKey m a.score < scoreKey m b.score ∨ (scoreKey m a.score = scoreKey m b.score ∧ a.id < b.id)) := by
  rw [Bool.eq_iff_iff, Bool.not_eq_true', ← Bool.not_eq_true, hitLe_iff, decide_eq_true_iff]
  omega

theorem hitLe_refl (m : Nat) (a : Hit) : hitLe m a a = true := (hitLe_iff m a a).2 (Or.inr ⟨rfl, Nat.le_refl _⟩)

/-- Hits of distinct identifiers are ordered strictly. -/
theorem strict_sortBy_hitLe (m : Nat) {l : List Hit} (hid : (l.map Hit.id).Nodup) :
    (sortBy (hitLe m) l).Pairwise fun a b => hitLe m a b = true ∧ hitLe m b a = false := by
  have hle : (sortBy (hitLe m) l).Pairwise fun a b => hitLe m a b = true := by
    refine pairwise_sortBy _ (fun a b => ?_) (fun a b c => ?_) l
    · simp only [hitLe_iff]; omega
    · simp only [hitLe_iff]; omega
  have hne : (sortBy (hitLe m) l).Pairwise fun a b => a.id ≠ b.id :=
    List.pairwise_map.1 (((sortBy_perm (hitLe m) l).map Hit.id).nodup_iff.2 hid)
  refine hle.imp₂ (fun a b h g => ⟨h, ?_⟩) hne
  rw [hitLe_iff] at h
  rw [← Bool.not_eq_true, hitLe_iff]
  omega

/-- Among hits of distinct identifiers, each of the K best stands behind those that are better. -/
theorem getElem?_topHits (c : Cmd) (m : Nat) {l l' : List Hit} (hl : l.Perm l') (hid : (l'.map Hit.id).Nodup) {h : Hit} (hh : h ∈ l')
    (hk : (l'.countP fun b => !(hitLe m h b)) < qK c) : (topHits c m l)[l'.countP fun b => !(hitLe m h b)]? = some h := by
  have hp : (sortBy (hitLe m) l).Perm l' := (sortBy_perm _ l).trans hl
  rw [topHits, List.getElem?_take_of_lt hk, ← hp.countP_eq]
  exact getElem?_countP_of_strict (hitLe_refl m) (strict_sortBy_hitLe m ((hl.map Hit.id).nodup_iff.2 hid)) (hp.mem_iff.2 hh)

theorem length_topHits (c : Cmd) (m : Nat) (l : List Hit) : (topHits c m l).length = min (qK c) l.length := by
  rw [topHits, List.length_take, (sortBy_perm _ l).length_eq]

/-! ### A search over all lists whose candidates may be all vectors -/

/-- The query reads every list of an unsharded collection without a filter, may re-rank every vector, and finds nothing lost or
deleted after its read point. -/
structure Exhaustive (s : State) (c : Cmd) (g : Gen) (rp : Nat) : Prop where
  unsharded : s.sharded c.object = false
  noFilter : s.qFilter c = ([], [])
  allLists : qProbe c = dNcent g.desc
  allCands : g.vecs.length ≤ qCand c
  listed : ∀ v ∈ g.vecs, v.list < dNcent g.desc
  deadBefore : ∀ v ∈ g.vecs, ∀ x ∈ v.dead, x ≤ rp
  distinct : (g.vecs.map Vec.id).Nodup
  noneFailed : s.tier.failed = []

/-- Written at or before the read point and not deleted. -/
def eligible (rp : Nat) (v : Vec) : Bool := decide (v.seq ≤ rp) && v.dead.isNone

/-- The query's vector. -/
def queryVals (c : Cmd) (g : Gen) : List FV := copyVals g.desc (bytesAt c.payload 0 (dCopy g.desc))

/-- The query's sketch. -/
def querySketch (c : Cmd) (g : Gen) : Nat :=
  if dHost g.desc then leAt c.payload (dCopy g.desc) (dSketch g.desc / 8) else sketchOf g.desc g.proj (bytesAt c.payload 0 (dCopy g.desc))

/-- The hit that an eligible vector gives. -/
def hitFor (s : State) (c : Cmd) (g : Gen) (rp : Nat) (v : Vec) : Hit :=
  s.hitOf g.desc (queryVals c g) rp v (hamming (dSketch g.desc) (querySketch c g) v.sketch)

/-- The candidate that an eligible vector gives. -/
def candFor (s : State) (c : Cmd) (g : Gen) (rp : Nat) (v : Vec) : Cand :=
  ⟨v.id, hamming (dSketch g.desc) (querySketch c g) v.sketch, true, some (hitFor s c g rp v)⟩

theorem fateOf_of_deadBefore (draw i : Nat) {rp : Nat} {v : Vec} (hd : ∀ x ∈ v.dead, x ≤ rp) :
    fateOf draw rp i v = if eligible rp v then 0 else 2 := by
  unfold fateOf eligible
  split
  · simp; omega
  · cases hv : v.dead with
    | none => simp; omega
    | some d => simp [hd d hv]

theorem probe_all_perm (g : Gen) (q : List FV) : (g.probe q (dNcent g.desc)).Perm (List.range (dNcent g.desc)) := by
  simp only [Gen.probe]
  rw [List.take_of_length_le (by rw [(sortBy_perm _ _).length_eq]; simp)]
  refine ((sortBy_perm _ _).map Prod.snd).trans ?_
  simp [List.map_map, Function.comp_def]

theorem listLost_eq_false {s : State} (hf : s.tier.failed = []) (g : Gen) (l : Nat) : s.listLost g l = false := by
  unfold State.listLost
  split
  · rw [hf]; rfl
  · rfl

section
variable {s : State} {c : Cmd} {g : Gen} {rp : Nat} (h : Exhaustive s c g rp)
include h

/-- Every list is probed. -/
theorem Exhaustive.lists : ((g.probe (queryVals c g) (qProbe c)).filter (s.holdsList c.object)).Perm (List.range (dNcent g.desc)) := by
  have hall : (g.probe (queryVals c g) (qProbe c)).filter (s.holdsList c.object) = g.probe (queryVals c g) (qProbe c) :=
    List.filter_eq_self.2 fun l _ => by simp [State.holdsList, h.unsharded]
  rw [hall, h.allLists]
  exact probe_all_perm g _

theorem Exhaustive.probed : (s.search c g rp).probed = dNcent g.desc := by
  show (((g.probe (queryVals c g) (qProbe c)).filter (s.holdsList c.object)).filter fun l => !(s.listLost g l)).length = _
  rw [List.filter_eq_self.2 fun l _ => by rw [listLost_eq_false h.noneFailed]; rfl, h.lists.length_eq, List.length_range]

/-- Every eligible vector is a candidate, and no other. -/
theorem Exhaustive.cands : (s.search c g rp).cands = (g.vecs.filter (eligible rp)).map (candFor s c g rp) := by
  have hzip : ((List.range g.vecs.length).zip g.vecs).map Prod.snd = g.vecs := List.map_snd_zip (by simp)
  have hmem (v : Nat × Vec) (hv : v ∈ (List.range g.vecs.length).zip g.vecs) : v.2 ∈ g.vecs := hzip ▸ List.mem_map_of_mem hv
  have hseen (v : Nat × Vec) (hv : v ∈ (List.range g.vecs.length).zip g.vecs) :
      (fateOf s.fresh rp v.1 v.2 ≠ 2 && ((g.probe (queryVals c g) (qProbe c)).filter (s.holdsList c.object)).contains v.2.list &&
        passes (s.qFilter c).1 v.2 && (v.2.inDelta rp || !(s.listLost g v.2.list))) = eligible rp v.2 := by
    have hl : ((g.probe (queryVals c g) (qProbe c)).filter (s.holdsList c.object)).contains v.2.list = true :=
      List.contains_iff_mem.2 (h.lists.mem_iff.2 (List.mem_range.2 (h.listed _ (hmem v hv))))
    rw [fateOf_of_deadBefore _ _ (h.deadBefore _ (hmem v hv)), hl, h.noFilter, listLost_eq_false h.noneFailed]
    cases eligible rp v.2 <;> simp [passes]
  show List.map _ (List.filter _ ((List.range g.vecs.length).zip g.vecs)) = _
  rw [← hzip, List.filter_map, List.map_map, hzip]
  refine (List.map_congr_left fun v hv => ?_).trans (congrArg _ (List.filter_congr hseen))
  have hv' : eligible rp v.2 = true := by
    rw [← hseen v (List.mem_filter.1 hv).1]
    exact (List.mem_filter.1 hv).2
  simp only [fateOf_of_deadBefore _ _ (h.deadBefore _ (hmem v (List.mem_filter.1 hv).1)), hv', h.noFilter, inRanges, List.all_nil, if_true]
  rfl

end

/-- All candidates of the one part are re-ranked. -/
theorem rerank_one {c : Cmd} {p : Part} (hk : ∀ x ∈ p.cands, x.kept = true) (hl : p.cands.length ≤ qCand c) :
    (rerank c [p]).Perm p.cands := by
  have htop : (sortBy candLe p.cands).take (qCand c) = sortBy candLe p.cands :=
    List.take_of_length_le (by rwa [(sortBy_perm _ _).length_eq])
  have hone : rerank c [p] = (sortBy candLe p.cands).filter (·.kept) := by
    simp [rerank, htop]
  rw [hone, List.filter_eq_self.2 fun x hx => hk x ((sortBy_perm _ _).mem_iff.1 hx)]
  exact sortBy_perm _ _

/-- The hits of the one part of an exhaustive search are those of the eligible vectors. -/
theorem Exhaustive.hits {s : State} {c : Cmd} {g : Gen} {rp : Nat} (h : Exhaustive s c g rp) {p : Part} (hp : p.cands = (s.search c g rp).cands) :
    ((rerank c [p]).filterMap Cand.hit).Perm ((g.vecs.filter (eligible rp)).map (hitFor s c g rp)) := by
  rw [h.cands] at hp
  have hr : (rerank c [p]).Perm p.cands := by
    refine rerank_one (fun x hx => ?_) ?_
    · rw [hp] at hx
      obtain ⟨v, -, rfl⟩ := List.mem_map.1 hx
      rfl
    · rw [hp, List.length_map]
      exact (List.length_filter_le _ _).trans h.allCands
  refine (hr.filterMap _).trans (List.Perm.of_eq ?_)
  rw [hp, List.filterMap_map]
  exact List.filterMap_eq_map (f := hitFor s c g rp) ▸ rfl

/-- The hits of the eligible vectors have distinct identifiers. -/
theorem Exhaustive.distinct_hits {s : State} {c : Cmd} {g : Gen} {rp : Nat} (h : Exhaustive s c g rp) :
    (((g.vecs.filter (eligible rp)).map (hitFor s c g rp)).map Hit.id).Nodup := by
  rw [List.map_map]
  exact h.distinct.sublist (List.filter_sublist.map Vec.id)

/-! ### The bytes of a result (02 Tables 2-7, 2-9) -/

/-- What the statement reads of a main section's header. -/
theorem mainBytes_header (c : Cmd) (a : Answer) (elapsed overrun : Nat) (miss degr : Bool) :
    let b := mainBytes c a elapsed overrun miss degr
    leAt b 2 2 = a.hits.length % 65536 ∧ leAt b 8 8 = a.rp % 2 ^ 64 ∧ leAt b 16 4 = a.genLo % 2 ^ 32 ∧ leAt b 20 4 = a.genHi % 2 ^ 32 ∧
      leAt b 32 4 = a.probed % 2 ^ 32 ∧ leAt b 52 2 = a.resp % 65536 ∧ leAt b 54 2 = a.exp % 65536 := by
  simp [mainBytes, headMid, headCounts, List.append_assoc, leAt_skip, leAt_first]

/-- The records stand behind 64 bytes of header, 16 bytes each. -/
theorem mainBytes_record (c : Cmd) (a : Answer) (elapsed overrun : Nat) (miss degr : Bool) {i : Nat} {x : Hit} (hi : a.hits[i]? = some x) :
    leAt (mainBytes c a elapsed overrun miss degr) (64 + 16 * i) 8 = x.id % 2 ^ 64 ∧
      leAt (mainBytes c a elapsed overrun miss degr) (72 + 16 * i) 4 = x.score % 2 ^ 32 := by
  obtain ⟨head, hlen, hb⟩ : ∃ head : List Byte, head.length = 64 ∧ mainBytes c a elapsed overrun miss degr = head ++ a.hits.flatMap hitBytes :=
    ⟨_, by simp [length_leBytes, headMid, headCounts], rfl⟩
  have hrec (o k : Nat) (ho : o + k ≤ 16) : leAt (head ++ a.hits.flatMap hitBytes) (64 + (16 * i + o)) k = leAt (hitBytes x) o k := by
    rw [← hlen, leAt_append_right]
    exact leAt_flatMap hitBytes 16 (fun y => by simp [hitBytes, length_leBytes]) o k ho hi
  have hid := hrec 0 8 (by omega)
  have hscore := hrec 8 4 (by omega)
  rw [Nat.add_zero] at hid
  rw [show 64 + (16 * i + 8) = 72 + 16 * i by omega] at hscore
  rw [hb, hid, hscore]
  simp [hitBytes, List.append_assoc, leAt_skip, leAt_first]

/-! ### Commands in flight -/

theorem cmd_n {s : State} {n : Nat} {c : Cmd} (hc : s.cmd n = some c) : c.n = n := by
  simpa using List.find?_some hc

theorem find?_mapIf {α : Type} (p : α → Bool) (f : α → α) (hf : ∀ a, p (f a) = p a) (l : List α) :
    (mapIf p f l).find? p = (l.find? p).map f := by
  induction l with
  | nil => rfl
  | cons a l ih =>
    rw [mapIf, List.map_cons, List.find?_cons, List.find?_cons, ← mapIf, ih]
    by_cases hp : p a = true
    · simp [hp, hf]
    · simp [hp]

theorem cmd_finish {s : State} {n : Nat} {c : Cmd} (hc : s.cmd n = some c) (st sp0 sp1 : Nat) (out : List Byte) :
    (s.finish n st sp0 sp1 out).cmd n = some { c with st := .done st sp0 sp1 out } := by
  have hf := find?_mapIf (fun c : Cmd => decide (c.n = n)) (fun c => { c with st := .done st sp0 sp1 out }) (fun _ => rfl) s.quay.cmds
  exact hf.trans (by rw [show s.quay.cmds.find? (fun c => decide (c.n = n)) = some c from hc]; rfl)

/-- A command that is fetched and waits for nothing runs. -/
theorem onCmd_fetched {s : State} {n op : Nat} {c : Cmd} (h : Fetched n op c s) (f : State → Cmd → State) : s.onCmd n op f = f s c := by
  obtain ⟨hc, hop, hst⟩ := h
  simp [State.onCmd, hc, hop, hst]

/-! ### Posting a completion (13 R301) -/

/-- A release takes the command's range locks, and shows in Q_STAT whether the table is full. -/
theorem unlock_eq (s : State) (n : Nat) : ∃ rs : Tab Word, RegsBut [.qStat] s { s with regs := rs } ∧
    s.unlock n = { s with regs := rs, quay := { s.quay with locks := s.quay.locks.filter (·.cmd ≠ n) } } := by
  simp only [State.unlock]
  split
  · exact ⟨_, fun o ho => State.tget_setFld_ne s .qStat Q_STAT_RLFULL 0 o (ho _ (List.mem_singleton_self _)), rfl⟩
  · exact ⟨_, fun _ _ => rfl, rfl⟩

theorem settleDrain_of_none {s : State} {k : Nat} (h : (s.qp k).delBy = none) : s.settleDrain k = s := by
  simp only [State.settleDrain, h]

/-- A queue pair after a completion of opcode `op` and status `st` was posted to it at tick `now`. -/
def afterPost (q : QP) (op st sp0 now : Nat) : QP :=
  { q with
    posted := if q.posted + 1 = q.cqDepth then 0 else q.posted + 1
    phase := if q.posted + 1 = q.cqDepth then !q.phase else q.phase
    defers := q.defers.drop 1
    since := q.since + 1
    lastSeq := if isWriteOp op then max q.lastSeq (if st < 0x10 then sp0 else 0) else q.lastSeq
    sinceAt := if q.since = 0 then now else q.sinceAt }

/-- What a posting sends: the output, if any, and then the entry. -/
def postedOut (q : QP) (c : Cmd) (st sp0 sp1 : Nat) (out : List Byte) : List Out :=
  (if out = [] then [] else [Out.hostWrite c.buf1 out]) ++ [Out.hostWrite (q.cqBase + 32 * q.posted) (cqEntry q c.qp c.cid st sp0 sp1)]

theorem qp_setQp_self_of_active {s : State} {k : Nat} {q : QP} (h : q.mode = .active) : (s.setQp k q).qp k = q :=
  tget_tset_kept _ _ _ _ fun he => by rw [he] at h; cases h

theorem qp_setQp_ne (s : State) {k j : Nat} (q : QP) (h : j ≠ k) : (s.setQp k q).qp j = s.qp j := tget_tset_ne _ _ _ h

/-- Posting to an ACTIVE queue pair that no DELETE_QP drains. -/
theorem postCompletion_active {s : State} {n st sp0 sp1 : Nat} {c : Cmd} {out : List Byte} (hc : s.cmd n = some c)
    (hst : c.st = .done st sp0 sp1 out) (hm : (s.qp c.qp).mode = .active) (hd : (s.qp c.qp).delBy = none) :
    ∃ rs : Tab Word, RegsBut [.qStat] s { s with regs := rs } ∧ s.postCompletion n = { s with
      regs := rs
      outbox := s.outbox ++ postedOut (s.qp c.qp) c st sp0 sp1 out
      quay := { s.quay with
        cmds := s.quay.cmds.filter (·.n ≠ n)
        locks := s.quay.locks.filter (·.cmd ≠ n)
        qps := tsetD {} s.quay.qps c.qp (afterPost (s.qp c.qp) c.op st sp0 s.svcTime) } } := by
  obtain ⟨rs, hrs, hu⟩ := unlock_eq { s with quay := { s.quay with cmds := s.quay.cmds.filter (·.n ≠ n) } } n
  refine ⟨rs, hrs, ?_⟩
  have hpost : s.postCompletion n = (({ s with
      regs := rs
      outbox := s.outbox ++ postedOut (s.qp c.qp) c st sp0 sp1 out
      quay := { s.quay with
        cmds := s.quay.cmds.filter (·.n ≠ n)
        locks := s.quay.locks.filter (·.cmd ≠ n) } } : State).setQp c.qp (afterPost (s.qp c.qp) c.op st sp0 s.svcTime)).settleDrain c.qp := by
    simp only [State.postCompletion, hc, hst]
    rw [if_pos (Or.inl hm), hu]
    by_cases ho : out = []
    · simp only [postedOut, ho, if_true, List.nil_append]
      rfl
    · simp only [postedOut, ho, if_false, State.emit, List.append_assoc]
      rfl
  rw [hpost, settleDrain_of_none]
  · rfl
  · rw [qp_setQp_self_of_active (by exact hm)]
    exact hd

/-- Of a queue pair in ERROR, or of none, nothing is sent. -/
theorem postCompletion_silent {s : State} {n st sp0 sp1 : Nat} {c : Cmd} {out : List Byte} (hc : s.cmd n = some c)
    (hst : c.st = .done st sp0 sp1 out) (hm : (s.qp c.qp).mode = .error ∨ (s.qp c.qp).mode = .absent) (hd : (s.qp c.qp).delBy = none) :
    ∃ rs : Tab Word, s.postCompletion n = { s with
      regs := rs
      quay := { s.quay with cmds := s.quay.cmds.filter (·.n ≠ n), locks := s.quay.locks.filter (·.cmd ≠ n) } } := by
  obtain ⟨rs, -, hu⟩ := unlock_eq { s with quay := { s.quay with cmds := s.quay.cmds.filter (·.n ≠ n) } } n
  have hno : ¬ ((s.qp c.qp).mode = .active ∨ (s.qp c.qp).mode = .draining) := by
    rcases hm with hm | hm <;> simp [hm]
  refine ⟨rs, ?_⟩
  simp only [State.postCompletion, hc, hst]
  rw [if_neg hno, hu, settleDrain_of_none (by exact hd)]

/-- Marking an entry posted touches the delta logs alone. -/
theorem markPosted_eq (s : State) (c : Cmd) : ∃ ps : Tab CPart, s.markPosted c = { s with coll := { s.coll with parts := ps } } := by
  refine ⟨(s.markPosted c).coll.parts, ?_⟩
  unfold State.markPosted
  split
  · split <;> rfl
  · rfl

/-- A missed deadline touches the events and what is noted of misses. -/
theorem missPost_eq (s : State) (c : Cmd) (st : Nat) :
    s.missPost c st = { s with evt := (s.missPost c st).evt, ctl := { s.ctl with missed := s.ctl.missed.filter (·.1 ≠ c.n) } } := by
  unfold State.missPost
  simp only
  split <;> rfl

theorem missPost_evt_of_not_overdue {s : State} {c : Cmd} (h : s.overdue c = false) (st : Nat) : (s.missPost c st).evt = s.evt := by
  simp [State.missPost, h]

theorem missPost_evt_of_not_posts {s : State} {c : Cmd} (h : s.posts c = false) (st : Nat) : (s.missPost c st).evt = s.evt := by
  simp [State.missPost, h]

/-- A known result of a command of an ACTIVE queue pair is posted. `c`: the command as it stood when the posting began. -/
theorem posted_active {s : State} {n st sp0 sp1 : Nat} {c : Cmd} {out : List Byte}
    (hc : s.cmd n = some { c with st := .done st sp0 sp1 out }) (hm : (s.qp c.qp).mode = .active) (hd : (s.qp c.qp).delBy = none) :
    ∃ (rs : Tab Word) (ps : Tab CPart), RegsBut [.qStat] s { s with regs := rs } ∧
      ((s.missPost c st).markPosted c).postCompletion n = { s with
        regs := rs
        evt := (s.missPost c st).evt
        ctl := { s.ctl with missed := s.ctl.missed.filter (·.1 ≠ c.n) }
        coll := { s.coll with parts := ps }
        outbox := s.outbox ++ postedOut (s.qp c.qp) c st sp0 sp1 out
        quay := { s.quay with
          cmds := s.quay.cmds.filter (·.n ≠ n)
          locks := s.quay.locks.filter (·.cmd ≠ n)
          qps := tsetD {} s.quay.qps c.qp (afterPost (s.qp c.qp) c.op st sp0 s.svcTime) } } := by
  obtain ⟨ps, hps⟩ := markPosted_eq (s.missPost c st) c
  rw [hps, missPost_eq]
  obtain ⟨rs, hrs, hpost⟩ := postCompletion_active
    (s := { s with
      evt := (s.missPost c st).evt
      ctl := { s.ctl with missed := s.ctl.missed.filter (·.1 ≠ c.n) }
      coll := { s.coll with parts := ps } }) hc rfl hm hd
  exact ⟨rs, ps, hrs, hpost⟩

/-- Of a command of a queue pair in ERROR, or of none, it is dropped. -/
theorem posted_silent {s : State} {n st sp0 sp1 : Nat} {c : Cmd} {out : List Byte}
    (hc : s.cmd n = some c) (hst : c.st = .done st sp0 sp1 out) (hm : (s.qp c.qp).mode = .error ∨ (s.qp c.qp).mode = .absent)
    (hd : (s.qp c.qp).delBy = none) :
    ∃ (rs : Tab Word) (ps : Tab CPart), ((s.missPost c st).markPosted c).postCompletion n = { s with
      regs := rs
      ctl := { s.ctl with missed := s.ctl.missed.filter (·.1 ≠ c.n) }
      coll := { s.coll with parts := ps }
      quay := { s.quay with cmds := s.quay.cmds.filter (·.n ≠ n), locks := s.quay.locks.filter (·.cmd ≠ n) } } := by
  have hp : s.posts c = false := by
    rcases hm with hm | hm <;> simp [State.posts, hm]
  obtain ⟨ps, hps⟩ := markPosted_eq (s.missPost c st) c
  rw [hps, missPost_eq, missPost_evt_of_not_posts hp]
  obtain ⟨rs, hpost⟩ := postCompletion_silent
    (s := { s with
      ctl := { s.ctl with missed := s.ctl.missed.filter (·.1 ≠ c.n) }
      coll := { s.coll with parts := ps } }) hc hst hm hd
  exact ⟨rs, ps, hpost⟩

/-- TASK_COMPLETION_POST of a command whose result is known. -/
theorem taskPost_done {s : State} {n st sp0 sp1 : Nat} {m : Merge} {c : Cmd} {out : List Byte} (hq : s.quayUp = true)
    (hp : s.flag .qStat Q_STAT_PLSTOP = false) (hc : s.cmd n = some c) (hst : c.st = .done st sp0 sp1 out) :
    s.taskPost n m = ((s.missPost c st).markPosted c).postCompletion n := by
  simp only [State.taskPost, hq, hp, hc, hst, not_true_eq_false, Bool.false_eq_true, or_self, if_false, reduceCtorEq]
  obtain ⟨_, _, _, _, _, _, _, _, _, _, _, _, _, _⟩ := c
  subst hst
  rfl

/-- The completion of a known result, to an ACTIVE queue pair. -/
theorem exec_post_active {s : State} {n st sp0 sp1 : Nat} {m : Merge} {c : Cmd} {out : List Byte} (hq : s.quayUp = true)
    (hp : s.flag .qStat Q_STAT_PLSTOP = false) (hc : s.cmd n = some c) (hst : c.st = .done st sp0 sp1 out)
    (hm : (s.qp c.qp).mode = .active) (hd : (s.qp c.qp).delBy = none) :
    ∃ (rs : Tab Word) (ps : Tab CPart), RegsBut [.qStat] s { s with regs := rs } ∧
      exec (.taskCompletionPost n m) s = .next { s with
        regs := rs
        evt := (s.missPost c st).evt
        ctl := { s.ctl with missed := s.ctl.missed.filter (·.1 ≠ c.n) }
        coll := { s.coll with parts := ps }
        outbox := s.outbox ++ postedOut (s.qp c.qp) c st sp0 sp1 out
        quay := { s.quay with
          cmds := s.quay.cmds.filter (·.n ≠ n)
          locks := s.quay.locks.filter (·.cmd ≠ n)
          qps := tsetD {} s.quay.qps c.qp (afterPost (s.qp c.qp) c.op st sp0 s.svcTime) } } := by
  obtain ⟨rs, ps, hrs, hpost⟩ := posted_active (sp0 := sp0) (sp1 := sp1) (out := out) (by rw [hc, ← hst]) hm hd
  exact ⟨rs, ps, hrs, congrArg Host.Outcome.next ((taskPost_done hq hp hc hst).trans hpost)⟩

/-- The end of a command with a known result whose queue pair is in ERROR, or gone. -/
theorem exec_post_silent {s : State} {n st sp0 sp1 : Nat} {m : Merge} {c : Cmd} {out : List Byte} (hq : s.quayUp = true)
    (hp : s.flag .qStat Q_STAT_PLSTOP = false) (hc : s.cmd n = some c) (hst : c.st = .done st sp0 sp1 out)
    (hm : (s.qp c.qp).mode = .error ∨ (s.qp c.qp).mode = .absent) (hd : (s.qp c.qp).delBy = none) :
    ∃ (rs : Tab Word) (ps : Tab CPart), exec (.taskCompletionPost n m) s = .next { s with
      regs := rs
      ctl := { s.ctl with missed := s.ctl.missed.filter (·.1 ≠ c.n) }
      coll := { s.coll with parts := ps }
      quay := { s.quay with cmds := s.quay.cmds.filter (·.n ≠ n), locks := s.quay.locks.filter (·.cmd ≠ n) } } := by
  obtain ⟨rs, ps, hpost⟩ := posted_silent hc hst hm hd
  exact ⟨rs, ps, congrArg Host.Outcome.next ((taskPost_done hq hp hc hst).trans hpost)⟩

/-- The DEADLINE_MISS record of a completion that is posted late (10 R231). -/
theorem missPost_raised {s : State} {c : Cmd} {st : Nat} {w : Nat × Nat × Nat × Nat} (ho : s.overdue c = true) (hm : (s.qp c.qp).mode = .active)
    (hst : st = stSuccess ∨ st = stShardsUnavailable ∨ st = stTaskAborted ∨ st = stNoPlan) (hw : s.ctl.missed.find? (·.1 = c.n) = some w) :
    Raised c.part srcQuay 0x0409 (leBytes 2 c.qp ++ leBytes 4 c.cid ++ leBytes 2 w.2.1 ++
      leBytes 4 (min ((s.svcTime - c.at_) / tickUs) (2 ^ 32 - 1) - c.deadline) ++ leBytes 1 w.2.2.1 ++ leBytes 1 w.2.2.2) s (s.missPost c st) := by
  have hin : [stSuccess, stShardsUnavailable, stTaskAborted, stNoPlan].contains st = true := by
    rcases hst with rfl | rfl | rfl | rfl <;> decide
  have hp : s.posts c = true := by simp [State.posts, hm]
  simp only [State.missPost, ho, hp, hin, and_self, if_true, State.deadlineMiss, hw, Option.getD_some]
  rfl

/-- TASK_COMPLETION_POST of a query whose task runs and has its deadline before it, once its end gives the result. -/
theorem taskPost_query {s : State} {n st sp0 sp1 : Nat} {m : Merge} {c : Cmd} {out : List Byte} (hq : s.quayUp = true)
    (hp : s.flag .qStat Q_STAT_PLSTOP = false) (hc : s.cmd n = some c) (hop : c.op = 0x40) (hst : c.st = .running)
    (hover : s.overdue c = false) (hend : (s.endQuery c m).cmd n = some { c with st := .done st sp0 sp1 out }) :
    s.taskPost n m = (((s.endQuery c m).missPost c st).markPosted c).postCompletion n := by
  have htick : s.tickPast c = s := by simp [State.tickPast, hover]
  simp only [State.taskPost, hq, hp, hc, hst, hop, htick, hend, not_true_eq_false, Bool.false_eq_true, or_self, if_false, if_true]

/-! ### The end of a query that neither ranks nor is audited -/

theorem endTask_eq (s : State) (i n : Nat) :
    s.endTask i n = { s with regs := (s.endTask i n).regs, ctl := (s.endTask i n).ctl } := by
  have hmap (f : Inst → Inst) : s.mapInst i f = { s with ctl := (s.mapInst i f).ctl } := by
    unfold State.mapInst
    split <;> rfl
  have hshow (t : State) : t.showInflight i = { t with regs := (t.showInflight i).regs } := by
    unfold State.showInflight
    split <;> rfl
  rw [State.endTask, hshow, hmap]

/-- This module's part of a query. -/
def ownPart (s : State) (c : Cmd) (g : Gen) (rp : Nat) : Part :=
  let x := s.auditSearch c g rp
  { s.search c g rp with exact := some x.1, lists := x.2.1, scanned := x.2.2 }

/-- What this module alone answers to a query. -/
def soleAnswer (s : State) (c : Cmd) (g : Gen) (rp : Nat) : Answer := merged c (dMetric g.desc) rp 1 [ownPart s c g rp]

/-- The query's result is the main section of the sole answer, with the read point and the number of hits. -/
theorem endQuery_sole {s : State} {c : Cmd} {g : Gen} {i rp : Nat} (m : Merge) (hi : s.taskInst c.n = some i) (hg : s.genFor c = some g)
    (hrp : c.rp = some rp) (ha : qAudit c = false) (hr : qRank c = false) (ho : s.overdue c = false) (hs : s.sharded c.object = false) :
    ∃ (rs : Tab Word) (ct : CtlState) (fr el : Nat) (co : CollState) (ra : RankState),
      s.endQuery c m = ({ s with regs := rs, ctl := ct, fresh := fr, coll := co, rank := ra } : State).finish c.n stSuccess rp
        (soleAnswer s c g rp).hits.length (mainBytes c (soleAnswer s c g rp) el 0 false false) := by
  simp only [State.endQuery, hi, hg, hrp, ha, hr, ho, hs, mergeParts, Bool.false_eq_true, false_and, if_false, ne_eq, not_true_eq_false,
    List.cons_ne_self, Bool.false_and]
  exact ⟨_, _, _, _, _, _, congrArg (fun t : State => t.finish c.n stSuccess rp _ (mainBytes c _ _ 0 false false)) (endTask_eq _ i c.n)⟩

section
variable {s : State} {c : Cmd} {g : Gen} {rp : Nat} (h : Exhaustive s c g rp)
include h

theorem Exhaustive.hits_length : (soleAnswer s c g rp).hits.length = min (qK c) (g.vecs.filter (eligible rp)).length := by
  rw [soleAnswer, merged, length_topHits, (h.hits (p := ownPart s c g rp) rfl).length_eq, List.length_map]

/-- An eligible vector among the K best stands at its rank. -/
theorem Exhaustive.hit_at {v : Vec} (hv : v ∈ g.vecs) (he : eligible rp v = true) {r : Nat}
    (hr : r = (g.vecs.filter fun u => eligible rp u && !(hitLe (dMetric g.desc) (hitFor s c g rp v) (hitFor s c g rp u))).length) (hk : r < qK c) :
    (soleAnswer s c g rp).hits[r]? = some (hitFor s c g rp v) := by
  have hcount : ((g.vecs.filter (eligible rp)).map (hitFor s c g rp)).countP (fun b => !(hitLe (dMetric g.desc) (hitFor s c g rp v) b)) = r := by
    rw [hr, List.countP_map, List.countP_eq_length_filter, List.filter_filter]
    exact congrArg List.length (List.filter_congr fun u _ => Bool.and_comm _ _)
  rw [soleAnswer, merged, ← hcount]
  exact getElem?_topHits c _ (h.hits (p := ownPart s c g rp) rfl) h.distinct_hits (List.mem_map_of_mem (List.mem_filter.2 ⟨hv, he⟩)) (hcount ▸ hk)

/-- PROBED fits its field, as the command's own field of lists holds it. -/
theorem Exhaustive.probed_lt : dNcent g.desc < 65536 := by
  rw [← h.allLists]
  exact leAt_lt _ _ 2

end

/-- What the statement reads of a completion entry (13 Table 13-9). -/
theorem cqEntry_fields (q : QP) (n cid st sp0 sp1 : Nat) :
    let b := cqEntry q n cid st sp0 sp1
    leAt b 0 8 = sp0 % 2 ^ 64 ∧ leAt b 16 2 = cid % 65536 ∧ leAt b 28 2 = st % 65536 := by
  simp [cqEntry, List.append_assoc, leAt_skip, leAt_first]

/-- A query whose task runs posts its result and then its entry. -/
theorem sole_query_posts {s : State} {n i rp : Nat} (m : Merge) {c : Cmd} {g : Gen} (hq : s.quayUp = true)
    (hp : s.flag .qStat Q_STAT_PLSTOP = false) (hc : s.cmd n = some c) (hop : c.op = 0x40) (hst : c.st = .running)
    (hi : s.taskInst n = some i) (hg : s.genFor c = some g) (hrp : c.rp = some rp) (ha : qAudit c = false) (ho : s.overdue c = false)
    (hr : qRank c = false) (hs : s.sharded c.object = false) (hm : (s.qp c.qp).mode = .active) (hd : (s.qp c.qp).delBy = none) :
    ∃ (t : State) (el : Nat), exec (.taskCompletionPost n m) s = .next t ∧
      t.outbox = s.outbox ++ [Out.hostWrite c.buf1 (mainBytes c (soleAnswer s c g rp) el 0 false false),
        Out.hostWrite ((s.qp c.qp).cqBase + 32 * (s.qp c.qp).posted)
          (cqEntry (s.qp c.qp) c.qp c.cid stSuccess rp (soleAnswer s c g rp).hits.length)] ∧
      t.cmd n = none ∧ t.mem = s.mem := by
  obtain rfl := cmd_n hc
  obtain ⟨rs, ct, fr, el, co, ra, hend⟩ := endQuery_sole m hi hg hrp ha hr ho hs
  have hcmd : (s.endQuery c m).cmd c.n = some { c with
      st := .done stSuccess rp (soleAnswer s c g rp).hits.length (mainBytes c (soleAnswer s c g rp) el 0 false false) } := by
    rw [hend]
    exact cmd_finish (s := { s with regs := rs, ctl := ct, fresh := fr, coll := co, rank := ra }) hc _ _ _ _
  obtain ⟨rs', ps, -, hpost⟩ := posted_active (s := s.endQuery c m) (c := c) hcmd (by rw [hend]; exact hm) (by rw [hend]; exact hd)
  have hstep : exec (.taskCompletionPost c.n m) s = .next (s.taskPost c.n m) := rfl
  rw [taskPost_query hq hp hc hop hst ho hcmd, hpost, hend] at hstep
  have hne : mainBytes c (soleAnswer s c g rp) el 0 false false ≠ [] := by
    simp [mainBytes, leBytes]
  refine ⟨_, el, hstep, ?_, ?_, rfl⟩
  · simp only [postedOut, if_neg hne]
    rfl
  · exact List.find?_eq_none.2 fun d hd => by simpa using (List.mem_filter.1 hd).2

/-! ### QUERY (02 R22, 13 R294) -/

theorem cmdColl_ok {s : State} {c : Cmd} {k : Coll} (hk : s.collOf c.object = some k) (ht : k.tenant = c.tenant)
    (hd : k.dropped c.n = false) : s.cmdColl c = .ok k := by
  simp [State.cmdColl, hk, ht, hd]

/-- Audits of the partition in flight beside command `c`. -/
def auditsBeside (s : State) (c : Cmd) : Nat :=
  (s.quay.cmds.filter fun d => d.op = 0x40 && d.part = c.part && d.n ≠ c.n && qAudit d && d.inFlight c.n).length

section
variable {s : State} {n rp : Nat} {c : Cmd} {k : Coll} (hf : Fetched n 0x40 c s) (hrp : c.rp = some rp) (hk : s.collOf c.object = some k)
  (ht : k.tenant = c.tenant) (hd : k.dropped c.n = false)
include hf hrp hk ht hd

/-- A QUERY on its tenant's collection, and model, comes to the checks of its parameters. -/
theorem exec_query_eq_go (hm : qRank c = true → (s.model (qModel c)).any (fun m => decide (m.tenant = c.tenant)) = true) :
    exec (.query n) s = .next (State.query.go c s k rp (if qRank c then 1 else 0) (if qRank c then qModel c else c.object) (auditsBeside s c)) := by
  show Host.Outcome.next (s.onCmd n 0x40 State.query) = _
  rw [onCmd_fetched hf]
  simp only [State.query, cmdColl_ok hk ht hd, hrp]
  by_cases hr : qRank c = true
  · obtain ⟨m, hmod, hten⟩ := (Option.any_eq_true _ _).1 (hm hr)
    simp only [hr, if_true, hmod, of_decide_eq_true hten, ne_eq, not_true_eq_false, if_false]
    rfl
  · simp only [hr]
    rfl

/-- A QUERY that ranks by no model of its tenant is refused. -/
theorem exec_query_model {st : Nat} (hr : qRank c = true) (hst : (st = stNoObject ∧ s.model (qModel c) = none) ∨
    (st = stNotOwner ∧ (s.model (qModel c)).any (fun m => decide (m.tenant ≠ c.tenant)) = true)) :
    exec (.query n) s = .next (s.refuse c.n st) := by
  show Host.Outcome.next (s.onCmd n 0x40 State.query) = _
  rw [onCmd_fetched hf]
  simp only [State.query, cmdColl_ok hk ht hd, hrp, hr, if_true]
  rcases hst with ⟨rfl, hmod⟩ | ⟨rfl, hany⟩
  · simp only [hmod]
  · obtain ⟨m, hmod, hten⟩ := (Option.any_eq_true _ _).1 hany
    simp only [hmod, if_pos (of_decide_eq_true hten)]

end

/-- The task of a QUERY. -/
def queryTask (s : State) (c : Cmd) (rp : Nat) : Task :=
  { task := 0, cmd := c.n, qp := c.qp, cid := c.cid, readPoint := rp, gen := c.gen, flags := bits c.flags 0 3
    deadline := if c.deadline = 0 then 0 else c.at_ + c.deadline * tickUs
    entry := Config.freeChoice s.fresh % 2 ^ 40 }

section
variable {s : State} {c : Cmd} {k : Coll} {rp kind obj audits : Nat}

theorem form_ok (hp : qParamsOk c k.live.desc (s.isV1 c) = true) (hl : qLocal c = true → s.sharded c.object = true) :
    ¬ (qParamsOk c k.live.desc (s.isV1 c) = false ∨ (qLocal c = true ∧ s.sharded c.object = false)) := by
  rintro (h | ⟨h, h'⟩)
  · simp [hp] at h
  · simp [hl h] at h'

theorem audits_ok (ha : (if qAudit c then audits else 0) < 4) : ¬ (qAudit c = true ∧ 4 ≤ audits) := by
  rintro ⟨h, h'⟩
  rw [if_pos h] at ha
  omega

/-- A QUERY in form binds its task to the next plan that qualifies, and runs. -/
theorem go_binds {i : Nat} (hp : qParamsOk c k.live.desc (s.isV1 c) = true) (hl : qLocal c = true → s.sharded c.object = true)
    (hb : qBuffer c ≤ c.len1) (ha : (if qAudit c then audits else 0) < 4) (hi : s.pickInst c.part kind obj none = some i) :
    State.query.go c s k rp kind obj audits =
      (s.drew.bindTask kind obj i (queryTask s c rp)).setCmd c.n fun c => { c with st := .running } := by
  simp only [State.query.go, if_neg (form_ok hp hl), if_neg (Nat.not_lt.2 hb), if_neg (audits_ok ha), hi]
  rfl

theorem go_invalid (h : qParamsOk c k.live.desc (s.isV1 c) = false ∨ (qLocal c = true ∧ s.sharded c.object = false)) :
    State.query.go c s k rp kind obj audits = s.refuse c.n stInvalidParameter := by
  simp only [State.query.go, if_pos h]

theorem pickInst_eq_none {part : Nat} (h : ∀ i < 80, s.qualifies part kind obj i = false) : s.pickInst part kind obj none = none := by
  simp only [State.pickInst, List.find?_eq_none, List.mem_map, List.mem_range]
  rintro x ⟨j, -, rfl⟩
  simp [h _ (Nat.mod_lt _ (by decide : 0 < 80))]

theorem go_refuses {st : Nat} (hp : qParamsOk c k.live.desc (s.isV1 c) = true) (hl : qLocal c = true → s.sharded c.object = true)
    (h : (st = stBufferSmall ∧ c.len1 < qBuffer c) ∨ (st = stAuditBusy ∧ qBuffer c ≤ c.len1 ∧ qAudit c = true ∧ 4 ≤ audits) ∨
      (st = stNoPlan ∧ qBuffer c ≤ c.len1 ∧ (if qAudit c then audits else 0) < 4 ∧ ∀ i < 80, s.qualifies c.part kind obj i = false)) :
    State.query.go c s k rp kind obj audits = s.refuse c.n st := by
  rcases h with ⟨rfl, hb⟩ | ⟨rfl, hb, ha, hn⟩ | ⟨rfl, hb, ha, hq⟩
  · simp only [State.query.go, if_neg (form_ok hp hl), if_pos hb]
  · simp only [State.query.go, if_neg (form_ok hp hl), if_neg (Nat.not_lt.2 hb), if_pos (And.intro ha hn)]
  · simp only [State.query.go, if_neg (form_ok hp hl), if_neg (Nat.not_lt.2 hb), if_neg (audits_ok ha), pickInst_eq_none hq]

end

/-- A parameter out of its range fails the check; so it does beside another ground of refusal, `p`. -/
theorem form_bad {c : Cmd} {d : List Byte} {v1 : Bool} {p : Prop} (h : qProbe c = 0 ∨ 4096 < qProbe c ∨ dNcent d < qProbe c ∨ qCand c < 16 ∨
    65536 < qCand c ∨ qK c = 0 ∨ 4096 < qK c ∨ qCand c < qK c ∨
    (c.deadline ≠ 0 ∧ (qRt c = false ∨ c.deadline < 10 ∨ 1000000 < c.deadline)) ∨ (qRt c = true ∧ qAudit c = true) ∨
    c.len0 ≠ qBytes c d ∨ (v1 = false ∧ filterOk c d = false) ∨ p) : qParamsOk c d v1 = false ∨ p := by
  rw [or_iff_not_imp_right, ← Bool.not_eq_true]
  intro hp hok
  simp only [qParamsOk, Bool.and_eq_true, Bool.or_eq_true, decide_eq_true_eq, Bool.not_eq_true', Bool.and_eq_false_iff] at hok
  grind

/-! ### GET_LOG (13 R305) -/

theorem exec_getLog {s : State} {n : Nat} {c : Cmd} (hf : Fetched n 0x03 c s) : exec (.getLog n) s = .next (s.getLog c) := by
  show Host.Outcome.next (s.onCmd n 0x03 State.getLog) = _
  rw [onCmd_fetched hf]

/-- KIND 0: records of a log. -/
theorem getLog_records {s : State} {c : Cmd} (hkind : c.fld 40 1 = 0) (hp : c.fld 41 1 ≤ 64) (hz : c.fld 42 3 = 0) :
    let oldest := s.fld (.evqLsn (c.fld 41 1)) EVQ_LSN_LSN - (s.log (c.fld 41 1)).length
    let first := max oldest (c.fld 48 8)
    let out := ((s.log (c.fld 41 1)).drop (first - oldest)).take (c.len1 / 32)
    s.getLog c = s.finish c.n stSuccess (first + out.length) (out.length + if c.fld 48 8 < oldest then 2 ^ 31 else 0)
      (out.flatMap fun r => r.ev.bytes) := by
  have hok : ¬ (64 < c.fld 41 1 ∨ c.fld 42 3 ≠ 0) := by omega
  simp only [State.getLog, hkind, if_neg hok]

/-- KIND 1: a partition's recovery table. -/
theorem getLog_recovery {s : State} {c : Cmd} (hkind : c.fld 40 1 = 1) (hp : c.fld 41 1 ≤ 63) (hz : c.fld 42 3 = 0) (hz' : c.fld 48 8 = 0) :
    let out := (tgetD [] s.quay.recTables (c.fld 41 1)).take (c.len1 / 16)
    s.getLog c = s.finish c.n stSuccess (tgetD 0 s.quay.seals (c.fld 41 1)) out.length
      (out.flatMap fun r => leBytes 2 r.qp ++ leBytes 2 r.cid ++ leBytes 4 0 ++ leBytes 8 r.seq) := by
  have hok : ¬ (63 < c.fld 41 1 ∨ c.fld 42 3 ≠ 0 ∨ c.fld 48 8 ≠ 0) := by omega
  simp only [State.getLog, hkind, if_neg hok]

theorem table_key {s : State} {m k : Nat} {tb : Table} (ht : s.table m k = some tb) : tb.model = m ∧ tb.num = k := by
  simpa using List.find?_some ht

/-- KIND 2: a table's sampled misses, whose ring empties. -/
theorem getLog_misses {s : State} {c : Cmd} {tb : Table} (hkind : c.fld 40 1 = 2) (hz : c.fld 48 8 = 0)
    (ht : s.table (c.fld 44 1) (c.fld 42 2) = some tb) :
    let out := tb.ring.take (c.len1 / 8)
    s.getLog c = (s.mapTable (c.fld 44 1) (c.fld 42 2) fun t => { t with ring := [], overwritten := false }).finish c.n stSuccess tb.sampled
      (out.length + if tb.overwritten then 2 ^ 31 else 0) (out.flatMap fun r => leBytes 8 (r.1 % 2 ^ 40 + r.2 * 2 ^ 40)) := by
  obtain ⟨hm, hn⟩ := table_key ht
  simp only [State.getLog, hkind, hz, ne_eq, not_true_eq_false, if_false, ht, hm, hn]

/-- A page of KIND 0 or 1 of no log, with an unused field, of KIND 2 with a start, or of no kind. -/
theorem getLog_invalid {s : State} {c : Cmd} (h : (c.fld 40 1 = 0 ∧ (64 < c.fld 41 1 ∨ c.fld 42 3 ≠ 0)) ∨
    (c.fld 40 1 = 1 ∧ (63 < c.fld 41 1 ∨ c.fld 42 3 ≠ 0 ∨ c.fld 48 8 ≠ 0)) ∨ (c.fld 40 1 = 2 ∧ c.fld 48 8 ≠ 0) ∨ 2 < c.fld 40 1) :
    s.getLog c = s.refuse c.n stInvalidParameter := by
  rcases h with ⟨hkind, h⟩ | ⟨hkind, h⟩ | ⟨hkind, h⟩ | hkind
  · simp only [State.getLog, hkind, if_pos h]
  · simp only [State.getLog, hkind, if_pos h]
  · simp only [State.getLog, hkind, if_pos h]
  · simp only [State.getLog]
    split
    case h_4 => rfl
    all_goals omega

/-- Taking a table's ring leaves every other table. -/
theorem table_mapTable {s : State} {m k : Nat} {tb : Table} (ht : s.table m k = some tb) (f : Table → Table)
    (hm : ∀ t, (f t).model = t.model) (hn : ∀ t, (f t).num = t.num) :
    (s.mapTable m k f).table m k = some (f tb) ∧ ∀ j l, (j ≠ m ∨ l ≠ k) → (s.mapTable m k f).table j l = s.table j l := by
  refine ⟨?_, fun j l hne => ?_⟩
  · have hfind := find?_mapIf (fun t : Table => t.model = m && t.num = k) f (fun t => by simp only [hm, hn]) s.rank.tables
    rw [State.table] at ht
    rw [State.table, State.mapTable, hfind, ht]
    rfl
  · simp only [State.table, State.mapTable, mapIf]
    induction s.rank.tables with
    | nil => rfl
    | cons t ts ih =>
      rw [List.map_cons, List.find?_cons, List.find?_cons, ih]
      by_cases hp : (t.model = m && t.num = k) = true
      · have hkey : t.model = m ∧ t.num = k := by simpa using hp
        have hno : (decide (t.model = j) && decide (t.num = l)) = false := by
          rw [hkey.1, hkey.2]
          rcases hne with hne | hne <;> simp [Ne.symm hne]
        rw [if_pos hp, hm, hn, hno]
      · rw [if_neg hp]

/-! ### What a record and a charge leave as it was -/

/-- Only registers, events, what left the module, the console and the charges may differ, and the registers keep their form. -/
structure Undisturbed (s t : State) : Prop where
  quay : t.quay = s.quay
  colls : t.coll.colls = s.coll.colls
  parts : t.coll.parts = s.coll.parts
  mem : t.mem = s.mem
  regsOk : RegsOk s → RegsOk t

theorem Undisturbed.refl (s : State) : Undisturbed s s := ⟨rfl, rfl, rfl, rfl, id⟩

theorem Undisturbed.trans {s t u : State} (h : Undisturbed s t) (g : Undisturbed t u) : Undisturbed s u :=
  ⟨g.quay.trans h.quay, g.colls.trans h.colls, g.parts.trans h.parts, g.mem.trans h.mem, g.regsOk ∘ h.regsOk⟩

theorem Undisturbed.foldl {α : Type} {f : State → α → State} (hf : ∀ s a, Undisturbed s (f s a)) (l : List α) (s : State) :
    Undisturbed s (l.foldl f s) := by
  induction l generalizing s with
  | nil => exact .refl s
  | cons a l ih => exact (hf s a).trans (ih _)

theorem Undisturbed.ite {s t u : State} {p : Prop} [Decidable p] (h : Undisturbed s t) (g : Undisturbed s u) :
    Undisturbed s (if p then t else u) := by
  split
  · exact h
  · exact g

theorem undisturbed_setFld (s : State) (r : Reg) (f : Fld) (v : Nat) : Undisturbed s (s.setFld r f v) :=
  ⟨rfl, rfl, rfl, rfl, s.regsOk_setFld r f v⟩

theorem undisturbed_evt (s : State) (ev : EvState) : Undisturbed s { s with evt := ev } := ⟨rfl, rfl, rfl, rfl, id⟩

theorem undisturbed_raiseRec (s : State) (l src code : Nat) (data : List Byte) : Undisturbed s (s.raiseRec l src code data) :=
  undisturbed_evt s _

theorem undisturbed_setCause (s : State) (c : Nat) : Undisturbed s (s.setCause c) := by
  unfold State.setCause State.owe
  split
  · exact .refl s
  · split
    · exact (undisturbed_setFld s _ _ _).trans (undisturbed_evt _ _)
    · exact undisturbed_setFld s _ _ _

theorem undisturbed_raise (s : State) (l src code : Nat) (data : List Byte) : Undisturbed s (s.raise l src code data) := by
  simp only [State.raise]
  split
  · exact (undisturbed_raiseRec s _ _ _ _).trans (undisturbed_setCause _ _)
  · exact undisturbed_raiseRec s _ _ _ _

theorem undisturbed_failRec (s : State) (p obj what kind : Nat) : Undisturbed s (s.failRec p obj what kind) := undisturbed_raise ..

theorem undisturbed_setUse (s : State) (t k u : Nat) : Undisturbed s (s.setUse t k u) := undisturbed_setFld ..

theorem undisturbed_chargeBytes (s : State) (t p k : Nat) (f : Nat → Nat) : Undisturbed s (s.chargeBytes t p k f) := by
  unfold State.chargeBytes State.chargeTo State.release
  refine .trans ?_ (undisturbed_setUse _ _ _ _)
  refine .trans ?_ (undisturbed_setUse _ _ _ _)
  exact ⟨rfl, rfl, rfl, rfl, id⟩

theorem undisturbed_freeAll (s : State) (t p : Nat) (cs : List (Nat × Nat)) : Undisturbed s (s.freeAll t p cs) := by
  unfold State.freeAll
  refine .foldl (fun s c => ?_) cs s
  exact undisturbed_chargeBytes s t p c.1 (· - c.2)

theorem undisturbed_printRec (s : State) (l : Nat) (r : EvRec) : Undisturbed s (s.printRec l r) := by
  unfold State.printRec
  split
  · split <;> exact ⟨rfl, rfl, rfl, rfl, id⟩
  · exact .refl s

theorem undisturbed_putRec (s : State) (l : Nat) (r : EvRec) : Undisturbed s (s.putRec l r) := by
  unfold State.putRec
  refine .trans ?_ (undisturbed_printRec _ _ _)
  have hlsn (t : State) : Undisturbed t (t.incFld (.evqLsn l) EVQ_LSN_LSN 1) := undisturbed_setFld ..
  refine .ite (.trans ?_ (undisturbed_setFld _ _ _ _)) ?_
  · exact .trans (undisturbed_evt s _) (hlsn _)
  · exact .trans (undisturbed_evt s _) (hlsn _)

theorem undisturbed_writeRecord (s : State) (src : Nat) : Undisturbed s (s.writeRecord src) := by
  unfold State.writeRecord
  split
  · exact .refl s
  · simp only
    split
    · refine .trans ?_ (undisturbed_putRec _ _ _)
      exact undisturbed_evt s _
    · exact undisturbed_evt s _

theorem undisturbed_flushRaised (s : State) (src : Nat) : Undisturbed s (s.flushRaised src) :=
  .foldl (fun s _ => undisturbed_writeRecord s src) _ s

/-! ### Deferred reports (03 R57, 13 R304) -/

/-- DATA_LOST is recorded, and shown in the partition's register. -/
def recorded (s : State) (p q obj first : Nat) : State :=
  ((s.raiseRec p srcQuay 0x0701 (leBytes 2 q ++ leBytes 2 stDataLost ++ leBytes 4 obj ++ leBytes 8 first)).flushRaised srcQuay).setFld
    (.cmPstat p) CM_PSTAT_DLOST 1

theorem undisturbed_recorded (s : State) (p q obj first : Nat) : Undisturbed s (recorded s p q obj first) :=
  ((undisturbed_raiseRec s _ _ _ _).trans (undisturbed_flushRaised _ _)).trans (undisturbed_setFld _ _ _ _)

theorem flag_dlost_setFld {s : State} (h : RegsOk s) (p : Nat) : (s.setFld (.cmPstat p) CM_PSTAT_DLOST 1).flag (.cmPstat p) CM_PSTAT_DLOST = true := by
  rw [State.flag, State.fld_setFld_self _ _ _ _ h (by decide)]
  rfl

theorem flag_dlost_recorded {s : State} (h : RegsOk s) (p q obj first : Nat) :
    (recorded s p q obj first).flag (.cmPstat p) CM_PSTAT_DLOST = true :=
  flag_dlost_setFld (((undisturbed_raiseRec s _ _ _ _).trans (undisturbed_flushRaised _ _)).regsOk h) p

/-- A DATA_LOST report that is due now is owed to a queue pair that takes completions; any other stays in the log alone. -/
theorem deferReport_eq (s : State) (p q obj first : Nat) {how : Defer} (hb : how ≠ .afterBoot) :
    ∃ lsn : Nat, s.deferReport p q stDataLost obj first how =
      if how = .now ∧ ((s.qp q).mode = .active ∨ (s.qp q).mode = .draining) then
        (recorded s p q obj first).setQp q { s.qp q with defers := (s.qp q).defers ++ [(stDataLost, lsn)] }
      else recorded s p q obj first := by
  have hqp : (recorded s p q obj first).qp q = s.qp q := by
    rw [State.qp, (undisturbed_recorded s p q obj first).quay, State.qp]
  simp only [State.deferReport, if_true, if_neg hb]
  rw [← hqp]
  exact ⟨_, rfl⟩

/-! ### Both copies of an entry are lost -/

theorem cpart_mapEntry {s : State} {p seq : Nat} {e : DEntry} (he : (s.cpart p).entries.find? (·.seq = seq) = some e) (f : DEntry → DEntry) :
    ((s.mapEntry p seq f).cpart p).entries = mapIf (·.seq = seq) f (s.cpart p).entries ∧ ∀ j, j ≠ p → (s.mapEntry p seq f).cpart j = s.cpart j := by
  refine ⟨?_, fun j hj => tget_tset_ne _ _ _ hj⟩
  have hne : ({ s.cpart p with entries := mapIf (·.seq = seq) f (s.cpart p).entries } : CPart) ≠ {} := by
    intro h0
    have hnil : mapIf (fun x : DEntry => decide (x.seq = seq)) f (s.cpart p).entries = [] := congrArg CPart.entries h0
    rw [List.map_eq_nil_iff.1 hnil] at he
    cases he
  exact congrArg CPart.entries (tget_tset_kept (fun _ => ({} : CPart)) s.coll.parts p _ hne)

/-- The write is lost: the failure is recorded, its charges return, and its queue pair's report is due, if it is still the same. -/
theorem exec_deferred_lost {s : State} {p seq : Nat} {e : DEntry} (hq : s.quayUp = true)
    (he : (s.cpart p).entries.find? (·.seq = seq) = some e) (hd : e.durable = true) (hl : e.lost = false) (ha : e.applied = false)
    (k l : Nat) (xs : List Nat) : ∃ u : State, Undisturbed s u ∧ exec (.deferred 1 p seq k l xs) s =
      .next ((u.mapEntry p seq fun e => { e with lost := true }).deferReport p e.qp stDataLost e.obj seq
        (if (s.qp e.qp).born ≤ e.cmd then .now else .logOnly)) := by
  have hu := (undisturbed_failRec s p e.obj seq 1).trans (undisturbed_freeAll _ e.tenant p e.costs)
  have hqp : ((s.failRec p e.obj seq 1).freeAll e.tenant p e.costs).qp e.qp = s.qp e.qp := by
    rw [State.qp, hu.quay, State.qp]
  refine ⟨_, hu, ?_⟩
  rw [← hqp]
  show Host.Outcome.next (s.deferred 1 p seq k l xs) = _
  simp only [State.deferred, hq, he, hd, hl, ha, not_true_eq_false, Bool.false_eq_true, if_false, OfNat.one_ne_ofNat, decide_false,
    ne_eq, false_and, or_self, if_true]
  rfl

theorem qp_mapEntry {s u : State} (hu : Undisturbed s u) (p seq : Nat) (f : DEntry → DEntry) (q : Nat) : (u.mapEntry p seq f).qp q = s.qp q :=
  congrArg (fun y : QuayState => tgetD ({} : QP) y.qps q) hu.quay

/-- The report is owed to the queue pair of the write. -/
theorem exec_deferred_owed {s : State} {p seq : Nat} {e : DEntry} (hq : s.quayUp = true)
    (he : (s.cpart p).entries.find? (·.seq = seq) = some e) (hd : e.durable = true) (hl : e.lost = false) (ha : e.applied = false)
    (hb : (s.qp e.qp).born ≤ e.cmd) (hm : (s.qp e.qp).mode = .active) (k l : Nat) (xs : List Nat) :
    ∃ (u : State) (lsn : Nat), Undisturbed s u ∧ exec (.deferred 1 p seq k l xs) s =
      .next ((recorded (u.mapEntry p seq fun e => { e with lost := true }) p e.qp e.obj seq).setQp e.qp
        { s.qp e.qp with defers := (s.qp e.qp).defers ++ [(stDataLost, lsn)] }) := by
  obtain ⟨u, hu, hstep⟩ := exec_deferred_lost hq he hd hl ha k l xs
  obtain ⟨lsn, hrep⟩ := deferReport_eq (u.mapEntry p seq fun e => { e with lost := true }) p e.qp e.obj seq (how := .now) (by decide)
  rw [if_pos hb, hrep, qp_mapEntry hu, if_pos ⟨rfl, Or.inl hm⟩] at hstep
  exact ⟨u, lsn, hu, hstep⟩

/-- The report stays in the log: the queue pair is another one, or takes no completions. -/
theorem exec_deferred_logged {s : State} {p seq : Nat} {e : DEntry} (hq : s.quayUp = true)
    (he : (s.cpart p).entries.find? (·.seq = seq) = some e) (hd : e.durable = true) (hl : e.lost = false) (ha : e.applied = false)
    (hgone : e.cmd < (s.qp e.qp).born ∨ (s.qp e.qp).mode = .absent ∨ (s.qp e.qp).mode = .error) (k l : Nat) (xs : List Nat) :
    ∃ u : State, Undisturbed s u ∧ exec (.deferred 1 p seq k l xs) s =
      .next (recorded (u.mapEntry p seq fun e => { e with lost := true }) p e.qp e.obj seq) := by
  obtain ⟨u, hu, hstep⟩ := exec_deferred_lost hq he hd hl ha k l xs
  obtain ⟨lsn, hrep⟩ := deferReport_eq (u.mapEntry p seq fun e => { e with lost := true }) p e.qp e.obj seq
    (how := if (s.qp e.qp).born ≤ e.cmd then .now else .logOnly) (by split <;> decide)
  have hno : ¬ ((if (s.qp e.qp).born ≤ e.cmd then Defer.now else .logOnly) = .now ∧
      ((s.qp e.qp).mode = .active ∨ (s.qp e.qp).mode = .draining)) := by
    rintro ⟨hnow, hm⟩
    rcases hgone with hb | hg | hg
    · rw [if_neg (Nat.not_le.2 hb)] at hnow
      cases hnow
    · simp [hg] at hm
    · simp [hg] at hm
  rw [hrep, qp_mapEntry hu, if_neg hno] at hstep
  exact ⟨u, hu, hstep⟩

/-- What the loss and its record change. -/
theorem recorded_lost {s u : State} (hu : Undisturbed s u) {p seq : Nat} {e : DEntry} (hr : RegsOk s)
    (he : (s.cpart p).entries.find? (·.seq = seq) = some e) (q obj first : Nat) :
    let t := recorded (u.mapEntry p seq fun e => { e with lost := true }) p q obj first
    (t.cpart p).entries = mapIf (·.seq = seq) (fun x => { x with lost := true }) (s.cpart p).entries ∧
      t.flag (.cmPstat p) CM_PSTAT_DLOST = true ∧ (∀ j, j ≠ p → t.cpart j = s.cpart j) ∧ t.coll.colls = s.coll.colls ∧ t.mem = s.mem ∧
      t.quay = s.quay := by
  intro t
  have hcpart (j : Nat) : u.cpart j = s.cpart j := by rw [State.cpart, hu.parts, State.cpart]
  obtain ⟨hentries, hothers⟩ := cpart_mapEntry (by rw [hcpart]; exact he) (fun e => { e with lost := true })
  have ht := undisturbed_recorded (u.mapEntry p seq fun e => { e with lost := true }) p q obj first
  have htcpart (j : Nat) : t.cpart j = (u.mapEntry p seq fun e => { e with lost := true }).cpart j := by
    rw [State.cpart, ht.parts, State.cpart]
  have hregs : RegsOk (u.mapEntry p seq fun e => { e with lost := true }) := hu.regsOk hr
  refine ⟨?_, flag_dlost_recorded hregs p q obj first, fun j hj => ?_, ht.colls.trans hu.colls, ht.mem.trans hu.mem, ht.quay.trans hu.quay⟩
  · rw [htcpart, ← hcpart]
    exact hentries
  · rw [htcpart, ← hcpart]
    exact hothers j hj

/-! ### A protected source is lost -/

theorem collOf_setColl (s : State) (k : Nat) (v : Coll) :
    (s.setColl k (some v)).collOf k = some v ∧ ∀ j, j ≠ k → (s.setColl k (some v)).collOf j = s.collOf j := by
  refine ⟨tgetO_tset_some _ _ _, fun j hj => ?_⟩
  rw [State.collOf, State.setColl, tsetD, tgetO_tset_ne _ _ _ hj, State.collOf]

/-- A change of a present collection. -/
theorem collOf_mapColl {s : State} {k : Nat} {v : Coll} (hv : s.collOf k = some v) (f : Coll → Coll) :
    (s.mapColl k f).collOf k = some (f v) ∧ ∀ j, j ≠ k → (s.mapColl k f).collOf j = s.collOf j := by
  rw [State.mapColl, hv]
  exact collOf_setColl s k (f v)

theorem mapColl_eq (s : State) (k : Nat) (f : Coll → Coll) :
    ∃ cs : Tab (Option Coll), s.mapColl k f = { s with coll := { s.coll with colls := cs } } := by
  unfold State.mapColl
  split
  · exact ⟨_, rfl⟩
  · exact ⟨_, rfl⟩

theorem Undisturbed.collOf {s t : State} (h : Undisturbed s t) (k : Nat) : t.collOf k = s.collOf k := by
  rw [State.collOf, h.colls, State.collOf]

/-- The loss is shown, and collections, commands and memory are as they were. -/
structure Told (p : Nat) (s t : State) : Prop where
  regsOk : RegsOk t
  dlost : t.flag (.cmPstat p) CM_PSTAT_DLOST = true
  colls : t.coll.colls = s.coll.colls
  cmds : t.quay.cmds = s.quay.cmds
  mem : t.mem = s.mem

theorem Told.deferReport {p : Nat} {s t : State} (h : Told p s t) (q obj first : Nat) :
    Told p s (t.deferReport p q stDataLost obj first .now) := by
  have hu := undisturbed_recorded t p q obj first
  have hrec : Told p s (recorded t p q obj first) :=
    ⟨hu.regsOk h.regsOk, flag_dlost_recorded h.regsOk p q obj first, hu.colls.trans h.colls, (congrArg QuayState.cmds hu.quay).trans h.cmds,
      hu.mem.trans h.mem⟩
  obtain ⟨lsn, hd⟩ := deferReport_eq t p q obj first (how := .now) (by decide)
  rw [hd]
  split
  · exact ⟨hrec.regsOk, hrec.dlost, hrec.colls, hrec.cmds, hrec.mem⟩
  · exact hrec

/-- The live vectors that a lost source held. -/
def lostVecs (v : Coll) (xs : List Nat) : List Vec := v.live.vecs.filter fun x => xs.contains x.id && x.dead.isNone

/-- The collection without what a lost source held. -/
def withoutLost (v : Coll) (xs : List Nat) (v' : Coll) : Coll :=
  { v' with live := { v'.live with vecs := v'.live.vecs.filter fun x => !((lostVecs v xs).contains x) } }

/-- A source is lost: the failure is recorded, the vectors' charges return, they leave, and queue pairs are told. -/
theorem exec_deferred_source {s : State} {k : Nat} {v : Coll} {xs : List Nat} (hq : s.quayUp = true) (hv : s.collOf k = some v)
    (hl : lostVecs v xs ≠ []) (hb : v.folds ≠ [] ∨ v.build.isSome = true) (p seq l : Nat) :
    ∃ (u : State) (qs : List Nat), Undisturbed s u ∧ exec (.deferred 3 p seq k l xs) s = .next (qs.foldl
      (fun s q => s.deferReport v.part q stDataLost k 0 .now) ((u.mapColl k (withoutLost v xs)).setFld (.cmPstat v.part) CM_PSTAT_DLOST 1)) := by
  have hu : Undisturbed s ((lostVecs v xs).foldl (fun s x => s.freeAll v.tenant v.part x.cost) (s.failRec v.part k (xs.headD 0) 3)) :=
    (undisturbed_failRec s v.part k (xs.headD 0) 3).trans (.foldl (fun s (x : Vec) => undisturbed_freeAll s v.tenant v.part x.cost) _ _)
  have hrun : ¬ (lostVecs v xs = [] ∨ (v.folds = [] ∧ v.build.isNone = true)) := by
    rintro (h | ⟨h, h'⟩)
    · exact hl h
    · rcases hb with hb | hb
      · exact hb h
      · rw [Option.isNone_iff_eq_none.1 h'] at hb
        cases hb
  have hstep : exec (.deferred 3 p seq k l xs) s = .next (s.deferred 3 p seq k l xs) := rfl
  simp only [State.deferred, hq, hv, not_true_eq_false, if_false] at hstep
  unfold lostVecs at hrun
  rw [if_neg hrun] at hstep
  exact ⟨_, _, hu, hstep⟩

/-- What the loss of a source changes, with every report of it. -/
theorem told_source {s u : State} (hu : Undisturbed s u) {k : Nat} {v : Coll} (hr : RegsOk s) (hv : s.collOf k = some v) (xs qs : List Nat) :
    let t := qs.foldl (fun s q => s.deferReport v.part q stDataLost k 0 .now)
      ((u.mapColl k (withoutLost v xs)).setFld (.cmPstat v.part) CM_PSTAT_DLOST 1)
    t.collOf k = some (withoutLost v xs v) ∧ (∀ j, j ≠ k → t.collOf j = s.collOf j) ∧ t.flag (.cmPstat v.part) CM_PSTAT_DLOST = true ∧
      t.quay.cmds = s.quay.cmds ∧ t.mem = s.mem := by
  intro t
  obtain ⟨hself, hothers⟩ := collOf_mapColl ((hu.collOf k).trans hv) (withoutLost v xs)
  obtain ⟨cs, hcs⟩ := mapColl_eq u k (withoutLost v xs)
  have hregs : RegsOk (u.mapColl k (withoutLost v xs)) := by
    rw [hcs]
    exact hu.regsOk hr
  have hstart : Told v.part (u.mapColl k (withoutLost v xs)) ((u.mapColl k (withoutLost v xs)).setFld (.cmPstat v.part) CM_PSTAT_DLOST 1) :=
    ⟨State.regsOk_setFld _ _ _ _ hregs, flag_dlost_setFld hregs _, rfl, rfl, rfl⟩
  have ht : Told v.part (u.mapColl k (withoutLost v xs)) t := List.foldlRecOn qs _ hstart fun w hw q _ => hw.deferReport q k 0
  have hcoll (j : Nat) : t.collOf j = (u.mapColl k (withoutLost v xs)).collOf j := by
    rw [State.collOf, ht.colls, State.collOf]
  refine ⟨(hcoll k).trans hself, fun j hj => ?_, ht.dlost, ?_, ?_⟩
  · rw [hcoll, hothers j hj, hu.collOf j]
  · rw [ht.cmds, hcs]
    exact congrArg QuayState.cmds hu.quay
  · rw [ht.mem, hcs]
    exact hu.mem

/-- A failure that only its own event tells: of one copy, or of both after application and before destaging. -/
theorem exec_deferred_told {s : State} {kind p seq : Nat} {e : DEntry} (hq : s.quayUp = true)
    (he : (s.cpart p).entries.find? (·.seq = seq) = some e) (hd : e.durable = true) (hl : e.lost = false)
    (h : (kind = 0 ∧ e.applied = false) ∨ (kind = 2 ∧ e.applied = true ∧ e.destaged = false)) (k l : Nat) (xs : List Nat) :
    exec (.deferred kind p seq k l xs) s = .next (s.failRec p e.obj seq kind) := by
  show Host.Outcome.next (s.deferred kind p seq k l xs) = _
  rcases h with ⟨rfl, ha⟩ | ⟨rfl, ha, hs⟩
  · simp [State.deferred, hq, he, hd, hl, ha]
  · simp [State.deferred, hq, he, hd, hl, ha, hs]

/-- A fold that finds no room ends. -/
theorem exec_deferred_noRoom {s : State} {k l : Nat} {v : Coll} (hq : s.quayUp = true) (hv : s.collOf k = some v)
    (hf : v.folds.any (·.list = l) = true) (p seq : Nat) (xs : List Nat) :
    exec (.deferred 4 p seq k l xs) s = .next ((s.failRec v.part k l 4).mapColl k fun v =>
      { v with folds := dropFirst (fun x => x.list = l && x.cmd.isNone) v.folds }) := by
  show Host.Outcome.next (s.deferred 4 p seq k l xs) = _
  simp only [State.deferred, hq, hv, hf, not_true_eq_false, if_false, if_true]

/-! ### Ring, writes and ranks as the statement reads them -/

/-- The place behind the last of a ring is its first. -/
theorem posted_mod {q : QP} (h : q.posted < q.cqDepth) :
    (if q.posted + 1 = q.cqDepth then 0 else q.posted + 1) = (q.posted + 1) % q.cqDepth := by
  split
  · rename_i hl
    rw [hl, Nat.mod_self]
  · rw [Nat.mod_eq_of_lt (by omega)]

/-- The two last things that left the module, as writes into host memory. -/
theorem written_last_two {s t : State} {a b : Nat} {x y : List Byte} (h : t.outbox = s.outbox ++ [Out.hostWrite a x, Out.hostWrite b y]) :
    written t s.outbox.length = (a, x) ∧ written t (s.outbox.length + 1) = (b, y) := by
  simp [written, h]

/-- The key of a vector's score in the order of R30. -/
def vecKey (c : Cmd) (g : Gen) (v : Vec) : Nat :=
  scoreKey (dMetric g.desc) (score g.desc (queryVals c g) (copyVals g.desc v.copy)).1

/-- Eligible vectors that are better than `v`. -/
def vecRank (c : Cmd) (g : Gen) (rp : Nat) (v : Vec) : Nat :=
  (g.vecs.filter fun u => decide (u.seq ≤ rp) && u.dead.isNone &&
    decide (vecKey c g u < vecKey c g v ∨ (vecKey c g u = vecKey c g v ∧ u.id < v.id))).length

/-- An eligible vector among the K best has its record at its rank. -/
theorem Exhaustive.record_at {s : State} {c : Cmd} {g : Gen} {rp : Nat} (h : Exhaustive s c g rp) {v : Vec} (hv : v ∈ g.vecs)
    (hseq : v.seq ≤ rp) (hlive : v.dead = none) (hk : vecRank c g rp v < qK c) (el : Nat) :
    leAt (mainBytes c (soleAnswer s c g rp) el 0 false false) (64 + 16 * vecRank c g rp v) 8 = v.id % 2 ^ 64 ∧
      leAt (mainBytes c (soleAnswer s c g rp) el 0 false false) (72 + 16 * vecRank c g rp v) 4 =
        (score g.desc (queryVals c g) (copyVals g.desc v.copy)).1 % 2 ^ 32 := by
  have hkey (u : Vec) : vecKey c g u = scoreKey (dMetric g.desc) (hitFor s c g rp u).score := rfl
  have hrank : vecRank c g rp v =
      (g.vecs.filter fun u => eligible rp u && !(hitLe (dMetric g.desc) (hitFor s c g rp v) (hitFor s c g rp u))).length := by
    simp only [vecRank, eligible, not_hitLe, hkey]
    rfl
  exact mainBytes_record c _ el 0 false false (h.hit_at hv (by simp [eligible, hseq, hlive]) hrank hk)

end Sys2Proof.Proofs.QueriesAndTheirCompletions

section

open Sys2Proof Sys2Proof.Machine Sys2Proof.Safety Sys2Proof.Proofs.QueriesAndTheirCompletions

/-- Settles O49, clause by clause: the checks of QUERY run as `State.query.go` states them; an exhaustive search's candidates are the
eligible vectors, and in a list sorted by R30 each stands behind the hits that are better; a completion is posted by one equation;
GET_LOG finishes its command; and a loss leaves all but registers, events and charges to the report that tells of it. -/
theorem queriesAndTheirCompletions : Obligations.QueriesAndTheirCompletions := by
  unfold Obligations.QueriesAndTheirCompletions
  refine ⟨?_, ?_, ?_, ?_, ?_, ?_, ?_, ?_, ?_, ?_, ?_, ?_, ?_, ?_, ?_, ?_, ?_, ?_⟩
  · intro s n rp c k i hf hn hrp hk ht hd hm ⟨hp, hl, hb⟩ ha hi
    subst hn
    refine ⟨_, (exec_query_eq_go hf hrp hk ht hd hm).trans (congrArg _ (go_binds hp hl hb ha hi)), rfl, ?_, ?_, ?_, ?_, rfl⟩
    · exact List.dropLast_concat
    · simp [State.bindTask, queryTask]
    · simp [State.bindTask, queryTask, bits_eq]
    · exact tgetO_tset_some _ _ _
  · intro s n rp c k x hf hn hrp hk ht hd hr hx hbad
    subst hn hx
    refine ⟨_, (exec_query_eq_go hf hrp hk ht hd fun h => ?_).trans (congrArg _ (go_invalid ?_)), rfl, rfl⟩
    · rw [hr] at h
      cases h
    · exact form_bad hbad
  · intro s n rp c k st hf hn hrp hk ht hd hm hp hl hst
    subst hn
    exact ⟨_, (exec_query_eq_go hf hrp hk ht hd hm).trans (congrArg _ (go_refuses hp hl hst)), rfl, rfl⟩
  · intro s n rp c k st hf hn hrp hk ht hd hr hst
    subst hn
    exact ⟨_, exec_query_model hf hrp hk ht hd hr hst, rfl, rfl⟩
  · intro s n rp i m c g hq hp hc hn hop hst hi hg hrp ha ho hr hs hm hd hf hall hcand hlist hdead hid hfail
    have h : Exhaustive s c g rp := ⟨hs, hf, hall, hcand, hlist, hdead, hid, hfail⟩
    obtain ⟨t, el, hstep, hout, hcmd, hmem⟩ := sole_query_posts m hq hp hc hop hst hi hg hrp ha ho hr hs hm hd
    obtain ⟨hres, hent⟩ := written_last_two hout
    obtain ⟨hcount, hread, hlo, hhi, hprobed, hresp, hexp⟩ := mainBytes_header c (soleAnswer s c g rp) el 0 false false
    obtain ⟨hsp0, hcid, hstat⟩ := cqEntry_fields (s.qp c.qp) c.qp c.cid stSuccess rp (soleAnswer s c g rp).hits.length
    refine ⟨t, hstep, by simp [hout], by rw [hres], ?_⟩
    rw [hres, hent]
    refine ⟨?_, hread, hlo, hhi.trans ?_, hresp, hexp, ?_, fun v hv hseq hlive hk => h.record_at hv hseq hlive hk el, hsp0, hcid, hstat,
      hcmd, hmem⟩
    · rw [hcount, h.hits_length]
      rfl
    · exact congrArg (· % 2 ^ 32) (Nat.zero_max c.gen)
    · rw [hprobed, show (soleAnswer s c g rp).probed = dNcent g.desc from h.probed]
      exact Nat.mod_eq_of_lt (h.probed_lt.trans (by decide))
  · intro s n st sp0 sp1 m c out q hq hp hc hst ho hqp hm hd hroom
    subst hqp
    obtain ⟨rs, ps, hrs, hstep⟩ := exec_post_active (m := m) hq hp hc hst hm hd
    have hqp : tgetD {} (tsetD {} s.quay.qps c.qp (afterPost (s.qp c.qp) c.op st sp0 s.svcTime)) c.qp = afterPost (s.qp c.qp) c.op st sp0 s.svcTime :=
      qp_setQp_self_of_active (by exact hm)
    refine ⟨_, hstep, (List.append_assoc _ _ _).symm, rfl, ?_, congrArg QP.phase hqp, congrArg QP.defers hqp,
      fun k hk => qp_setQp_ne s _ hk, rfl, rfl, missPost_evt_of_not_overdue ho st, hrs⟩
    rw [State.qp, hqp]
    exact posted_mod hroom
  · intro s n st sp0 sp1 m c out hq hp hc hst hm hd
    obtain ⟨rs, ps, hstep⟩ := exec_post_silent (m := m) hq hp hc hst hm hd
    exact ⟨_, hstep, rfl, rfl, rfl, rfl⟩
  · intro s n st sp0 sp1 m c out w hq hp hc hn hst ho hres hm hd hw
    subst hn
    obtain ⟨rs, ps, -, hstep⟩ := exec_post_active (m := m) hq hp hc hst hm hd
    exact ⟨_, hstep, missPost_raised ho hm hres hw, rfl, rfl, rfl⟩
  · intro s n c hc hop ha hi hn
    refine ⟨_, congrArg Host.Outcome.next ?_, rfl⟩
    simp [State.auditScan, hc, hop, ha, hi, hn]
  · intro s n p old from_ c rs hf hn hkind hp hp64 hz hold hfrom hrs
    subst hn hp hold hfrom hrs
    refine ⟨_, (exec_getLog hf).trans (congrArg _ (getLog_records hkind hp64 hz)), rfl, rfl⟩
  · intro s n p c hf hn hkind hp hp63 hz hz'
    subst hn hp
    refine ⟨_, (exec_getLog hf).trans (congrArg _ (getLog_recovery hkind hp63 hz hz')), rfl, rfl⟩
  · intro s n c tb hf hn hkind hz ht
    subst hn
    obtain ⟨hself, hothers⟩ := table_mapTable ht (fun t => { t with ring := [], overwritten := false }) (fun _ => rfl) (fun _ => rfl)
    exact ⟨_, (exec_getLog hf).trans (congrArg _ (getLog_misses hkind hz ht)), rfl, hself, hothers, rfl⟩
  · intro s n c hf hn hbad
    subst hn
    exact ⟨_, (exec_getLog hf).trans (congrArg _ (getLog_invalid hbad)), rfl, rfl⟩
  · intro s p seq k l e xs hr hq he hd hl ha hb hm
    obtain ⟨u, lsn, hu, hstep⟩ := exec_deferred_owed hq he hd hl ha hb hm k l xs
    obtain ⟨hentries, hdlost, hothers, hcolls, hmem, hquay⟩ := recorded_lost hu hr he e.qp e.obj seq
    have hcmds := congrArg QuayState.cmds hquay
    refine ⟨_, hstep, hentries, hdlost, ?_, fun j hj => ?_, hothers, hcolls, hmem, hcmds⟩
    · rw [qp_setQp_self_of_active (by exact hm)]
      exact List.map_append
    · rw [qp_setQp_ne _ _ hj, State.qp, hquay, State.qp]
  · intro s p seq k l e xs hr hq he hd hl ha hgone
    obtain ⟨u, hu, hstep⟩ := exec_deferred_logged hq he hd hl ha hgone k l xs
    obtain ⟨hentries, hdlost, hothers, hcolls, hmem, hquay⟩ := recorded_lost hu hr he e.qp e.obj seq
    refine ⟨_, hstep, hentries, hdlost, fun j => ?_, hothers, hcolls, hmem, congrArg QuayState.cmds hquay⟩
    rw [State.qp, hquay, State.qp]
  · intro s kind p seq k l e xs hq he hd hl h
    exact exec_deferred_told hq he hd hl h k l xs
  · intro s p seq k l v xs hq hv hl hb hr hp
    obtain ⟨u, qs, hu, hstep⟩ := exec_deferred_source hq hv hl hb p seq l
    exact ⟨_, hstep, told_source hu hr hv xs qs⟩
  · intro s p seq k l v xs hq hv hf
    have hu := undisturbed_failRec s v.part k l 4
    obtain ⟨hself, hothers⟩ := collOf_mapColl ((hu.collOf k).trans hv) fun v =>
      { v with folds := dropFirst (fun x => x.list = l && x.cmd.isNone) v.folds }
    obtain ⟨cs, hcs⟩ := mapColl_eq (s.failRec v.part k l 4) k fun v =>
      { v with folds := dropFirst (fun x => x.list = l && x.cmd.isNone) v.folds }
    refine ⟨_, exec_deferred_noRoom hq hv hf p seq xs, hself, fun j hj => (hothers j hj).trans (hu.collOf j), ?_, ?_, ?_, ?_⟩
    · rw [hcs]
    · rw [hcs]
    · rw [hcs]
      exact hu.quay
    · rw [hcs]
      exact hu.mem

end

/-! Refutations of O47 and O48. Their clauses on CUT_RELEASE and GENERATION_RELEASE say that returned charges change no register but the four
TN_TIER words of the collection's tenant, and take any versions, whatever tiers their costs name. A cost in "tier 4" of a tenant is
counted in the word that follows its four: the HBM3E use of the next tenant. -/

namespace Sys2Proof.Proofs.ChargesOutsideTheTiers

open Sys2Proof Sys2Proof.Machine Sys2Proof.Safety

/-- A dead version that is charged 64 KiB in a tier that TN_TIER does not have. -/
def strayVec : Vec where
  id := 0
  seq := 0
  dead := some 0
  list := 0
  copy := []
  pres := 0
  vals := []
  nums := []
  sketch := 0
  dlog := false
  at_ := 0
  cost := [(4, 65536)]

def bareGen : Gen where
  num := 1
  desc := []
  proj := []
  cent := []

def strayGen : Gen := { bareGen with vecs := [strayVec] }

/-- A collection of tenant 0 with a finished compaction, at whose cut the stray version was dead. -/
def cutColl : Coll where
  tenant := 0
  part := 0
  live := strayGen
  cuts := [⟨0, 0, true, []⟩]

/-- A collection of tenant 0 that has replaced the generation of the stray version. -/
def switchedColl : Coll where
  tenant := 0
  part := 0
  live := bareGen
  old := [(strayGen, 0)]

/-- After reset, but `v` is collection 0, the stray charge is booked, and tenant 1 uses one unit of HBM3E. -/
def withColl (v : Coll) : State :=
  ({ State.reset with coll := { colls := [(0, some v)], bytes := [(4 * 0 + 4, 65536)] } } : State).setUse 1 0 1

theorem use_withColl_cutColl : (withColl cutColl).use 1 0 = 1 ∧ ((withColl cutColl).cutRelease 0).use 1 0 = 0 := by decide +kernel

theorem use_withColl_switchedColl : (withColl switchedColl).use 1 0 = 1 ∧ ((withColl switchedColl).genRelease 0).use 1 0 = 0 := by
  decide +kernel

/-- The four words of one tenant are none of the next tenant's. -/
theorem use_eq_of_regsBut {s t : State} {u : Nat}
    (h : RegsBut [.tnTier (4 * u), .tnTier (4 * u + 1), .tnTier (4 * u + 2), .tnTier (4 * u + 3)] s t) : t.use (u + 1) 0 = s.use (u + 1) 0 := by
  have hreg : t.reg (.tnTier (4 * (u + 1) + 0)) = s.reg (.tnTier (4 * (u + 1) + 0)) := by
    refine h _ fun r hr => ?_
    simp only [List.mem_cons, List.not_mem_nil, or_false] at hr
    rcases hr with rfl | rfl | rfl | rfl
    all_goals
      simp only [regOff]
      omega
  rw [State.use, State.fld, hreg, State.use, State.fld]

end Sys2Proof.Proofs.ChargesOutsideTheTiers

section

open Sys2Proof Sys2Proof.Machine Sys2Proof.Safety Sys2Proof.Proofs.ChargesOutsideTheTiers

/-- Refutes O47: its clause on a released compaction's cut asks nothing of the tiers in which the dropped slots are charged. In
`withColl cutColl` a slot is charged in tier 4 of tenant 0, and CUT_RELEASE returns that charge to tenant 1's HBM3E word. (The model
charges versions in tiers below 4 only. The clause wants that as a hypothesis.) -/
theorem not_applicationDestagingFoldsAndCuts : ¬ Obligations.ApplicationDestagingFoldsAndCuts := by
  unfold Obligations.ApplicationDestagingFoldsAndCuts
  rintro ⟨-, -, -, -, -, -, -, -, -, hcut, -⟩
  obtain ⟨t, hstep, -, -, -, -, -, hregs⟩ := hcut (withColl cutColl) 0 0 0 cutColl [] rfl rfl (fun c hc => absurd hc List.not_mem_nil)
  obtain rfl : (withColl cutColl).cutRelease 0 = t := by injection hstep
  have huse := use_eq_of_regsBut (hregs rfl)
  obtain ⟨hbefore, hafter⟩ := use_withColl_cutColl
  rw [show cutColl.tenant + 1 = 1 from rfl, hbefore, hafter] at huse
  exact absurd huse (by decide)

/-- Refutes O48: its clause on a generation that leaves asks nothing of the tiers in which its versions are charged. In
`withColl switchedColl` one is charged in tier 4 of tenant 0, and GENERATION_RELEASE returns that charge to tenant 1's HBM3E word. (The
model charges versions in tiers below 4 only. The clause wants that as a hypothesis.) -/
theorem not_generationsAndTowers : ¬ Obligations.GenerationsAndTowers := by
  unfold Obligations.GenerationsAndTowers
  rintro ⟨-, -, -, -, -, -, -, -, -, -, -, -, -, -, -, -, -, -, -, hrelease, -⟩
  obtain ⟨t, hstep, -, -, -, -, -, hregs⟩ := hrelease (withColl switchedColl) 0 0 switchedColl strayGen rfl rfl
    (fun c hc => absurd hc List.not_mem_nil)
  obtain rfl : (withColl switchedColl).genRelease 0 = t := by injection hstep
  have huse := use_eq_of_regsBut (hregs rfl)
  obtain ⟨hbefore, hafter⟩ := use_withColl_switchedColl
  rw [show switchedColl.tenant + 1 = 1 from rfl, hbefore, hafter] at huse
  exact absurd huse (by decide)

end

/-! Refutation of O56. Its clause on FLUSH_SEAL takes any state in which the flush is over, whatever numbers its list of retired quads
holds. The cold reset sets the owner byte of each retired quad to 0x80; that of a number past the 80 quads lies on top of another
register, here LC_STAT, and the life-cycle state that the reset had kept is overwritten. -/

namespace Sys2Proof.Proofs.ResetsTheFlushAndRecovery

open Sys2Proof Sys2Proof.Machine Sys2Proof.Safety Sys2Proof.Laws

/-! ### What leaves the life-cycle state as it was -/

theorem lc_setFld (s : State) {r : Reg} (f : Fld) (v : Nat) (h : regOff .lcStat ≠ regOff r) : (s.setFld r f v).lc = s.lc :=
  State.fld_setFld_ne s r .lcStat f LC_STAT_STATE v h

/-- Bytes programmed into flash: the total stands in the tier, the wear in FL_STAT. -/
theorem program_eq (s : State) (n : Nat) : ∃ (w : Nat) (ev : EvState) (pw : PwrState), s.program n =
    { s.setFld .flStat FL_STAT_WEAR w with tier := { s.tier with programmed := s.tier.programmed + n }, evt := ev, pwr := pw } := by
  have hwear (wear : Nat) : ∃ (w : Nat) (ev : EvState) (pw : PwrState),
      (let t := ({ s with tier := { s.tier with programmed := s.tier.programmed + n } } : State).setFld .flStat FL_STAT_WEAR (min wear 0xFF)
      if 100 ≤ wear ∧ t.pwr.wearSaid = false then
        ({ t with pwr := { t.pwr with wearSaid := true } } : State).raise modLog srcM 0x0B08 (leBytes 8 ((s.tier.programmed + n) / 10 ^ 9))
      else t) =
        { s.setFld .flStat FL_STAT_WEAR w with tier := { s.tier with programmed := s.tier.programmed + n }, evt := ev, pwr := pw } := by
    dsimp only
    split
    · exact ⟨_, _, _, rfl⟩
    · exact ⟨_, _, _, rfl⟩
  exact hwear _

theorem lc_program (s : State) (n : Nat) : (s.program n).lc = s.lc := by
  obtain ⟨w, ev, pw, h⟩ := program_eq s n
  rw [h]
  exact lc_setFld s _ _ (by decide)

theorem lc_flashDies (s : State) : s.flashDies.lc = s.lc := by
  simp only [State.flashDies]
  rw [lc_setFld _ _ _ (by decide), lc_setFld _ _ _ (by decide), lc_setFld _ _ _ (by decide), lc_setFld _ _ _ (by decide)]

theorem retired_program (s : State) (n : Nat) : (s.program n).tier.retired = s.tier.retired := by
  obtain ⟨w, ev, pw, h⟩ := program_eq s n
  rw [h]

theorem flashDies_tier (s : State) : s.flashDies.tier = s.tier := by simp only [State.flashDies, State.setFld_tier]

theorem showRetired_of_none {s : State} (h : s.tier.retired = []) : s.showRetired = s := by
  rw [State.showRetired, h, List.foldl_nil]

/-- TN_TIER words lie off LC_STAT, whatever tenant and tier. -/
theorem regOff_lcStat_ne_tnTier (k : Nat) : regOff .lcStat ≠ regOff (.tnTier k) := by
  simp only [regOff]
  omega

theorem lc_release (s : State) (t k u : Nat) : (s.release t k u).lc = s.lc := lc_setFld s _ _ (regOff_lcStat_ne_tnTier _)

theorem lc_chargeTo (s : State) (t k u : Nat) : (s.chargeTo t k u).lc = s.lc := lc_setFld s _ _ (regOff_lcStat_ne_tnTier _)

theorem lc_chargeBytes (s : State) (t p k : Nat) (f : Nat → Nat) : (s.chargeBytes t p k f).lc = s.lc := by
  simp only [State.chargeBytes]
  rw [lc_chargeTo, lc_release]
  rfl

theorem lc_foldl {α : Type} {f : State → α → State} (hf : ∀ s a, (f s a).lc = s.lc) (l : List α) (s : State) : (l.foldl f s).lc = s.lc :=
  List.foldlRecOn (motive := fun t : State => t.lc = s.lc) l f rfl fun t ht a _ => (hf t a).trans ht

theorem lc_recharge (s : State) (h : Nat) : (s.recharge h).lc = s.lc := by
  simp only [State.recharge]
  split
  · rw [State.lc, State.mapObj_fld]
    exact lc_foldl (fun s k => (lc_chargeTo _ _ _ _).trans (lc_release s _ _ _)) (List.range 4) s
  · rfl

theorem lc_coldUse (s : State) : s.coldUse.lc = s.lc := by
  simp only [State.coldUse]
  refine (lc_foldl (fun s m => ?_) _ _).trans ((lc_foldl (fun s t => lc_chargeTo s _ _ _) _ _).trans (lc_foldl lc_recharge _ s))
  split
  · split
    · exact lc_chargeBytes s _ _ _ _
    · rfl
  · rfl

theorem lc_setPwr (s : State) (pw : PwrState) : ({ s with pwr := pw } : State).lc = s.lc := rfl

/-- The seal of a flush ends in a cold reset. -/
theorem lc_flushSeal {s : State} {b : Bool} (hp : s.pwr.phase = .flushing b) (hf : s.coll.flushed = true) :
    s.flushSeal.lc = s.coldClear.lc := by
  simp only [State.flushSeal, hp, hf, not_true_eq_false, if_false]
  exact lc_setPwr _ _

/-! ### The counterexample -/

/-- No quad of the module: where its owner byte would lie, the low byte of LC_STAT lies. -/
def strayRetired : Nat := 122880

theorem regOff_ownReg_strayRetired : regOff (ownReg 0 strayRetired) = regOff .lcStat := rfl

/-- Owner byte 0x80 in the low byte of LC_STAT reads as life-cycle state 0. -/
theorem lc_setOwner_strayRetired {s : State} (h : RegsOk s) : (s.setOwner 0 strayRetired 0x80).lc = 0 := by
  have hreg : (s.setOwner 0 strayRetired 0x80).reg .lcStat = BitVec.ofNat 64 (putBits (s.reg (ownReg 0 strayRetired)).toNat 0 8 0x80) :=
    State.reg_setReg_self s (ownReg 0 strayRetired) _ h
  have hlow : bits (putBits (s.reg (ownReg 0 strayRetired)).toNat 0 8 0x80) 0 8 = 0x80 := bits_putBits_self _ _ _ _
  rw [State.lc, State.fld, hreg, fget, BitVec.toNat_ofNat, Nat.mod_eq_of_lt (putBits_lt _ _ _ _ _ (BitVec.isLt _) (by decide))]
  rw [bits_eq] at hlow ⊢
  simp only [LC_STAT_STATE]
  omega

theorem lc_coldRegs_strayRetired {s0 s : State} (h : RegsOk s) (h0 : s0.pwr.retired = [strayRetired]) (hr : s.tier.retired = []) :
    (State.coldRegs s0 s).lc = 0 := by
  simp only [State.coldRegs, h0, List.foldl_cons, List.foldl_nil]
  rw [showRetired_of_none, lc_program, lc_flashDies, lc_setOwner_strayRetired]
  · exact State.regsOk_setFld _ _ _ _ (State.regsOk_setFld _ _ _ _ (State.regsOk_setFld _ _ _ _ (State.regsOk_setFld _ _ _ _
      (State.regsOk_setFld _ _ _ _ (State.regsOk_setFld _ _ _ _ h)))))
  · simp only [retired_program, flashDies_tier, State.setOwner_tier, State.setFld_tier, hr]

theorem lc_coldClear_strayRetired {s : State} (h0 : s.pwr.retired = [strayRetired]) (hr : s.tier.retired = []) (hc : s.coll.colls = []) :
    s.coldClear.lc = 0 := by
  simp only [State.coldClear, hc, List.map_nil, List.foldl_nil]
  rw [lc_coldUse]
  refine lc_coldRegs_strayRetired rfl h0 ?_
  simp only [State.coldTier, hr, List.filter_nil]

/-- After reset, but a flush has written its entries, and the list of retired quads names the stray number. -/
def sealingState : State :=
  { State.reset with pwr := { phase := .flushing false, retired := [strayRetired] }, coll := { flushed := true } }

theorem lc_sealingState : sealingState.lc = 2 := by decide +kernel

theorem lc_flushSeal_sealingState : sealingState.flushSeal.lc = 0 := by
  rw [lc_flushSeal rfl rfl, lc_coldClear_strayRetired rfl rfl rfl]

end Sys2Proof.Proofs.ResetsTheFlushAndRecovery

section

open Sys2Proof Sys2Proof.Machine Sys2Proof.Safety Sys2Proof.Proofs.ResetsTheFlushAndRecovery

/-- Refutes O56: its clause on FLUSH_SEAL asks nothing of the list of retired quads. `sealingState` is reset but for a flush that has
written its entries and for the number 122880 among the retired quads; the seal's cold reset writes that number's owner byte into
LC_STAT, and life-cycle state 2 turns into 0. (No command retires such a quad: the list names quads below 80 only. The clause wants
that as a hypothesis.) -/
theorem not_resetsTheFlushAndRecovery : ¬ Obligations.ResetsTheFlushAndRecovery := by
  unfold Obligations.ResetsTheFlushAndRecovery
  rintro ⟨-, -, -, -, -, -, -, -, -, hseal, -⟩
  obtain ⟨t, hstep, -, -, -, -, hlc, -⟩ := hseal sealingState false rfl rfl rfl
  obtain rfl : sealingState.flushSeal = t := by injection hstep
  rw [lc_flushSeal_sealingState, lc_sealingState] at hlc
  exact absurd hlc (by decide)

end

/-! Proof of O46: the writes of collections and histories. The lemmas go from the form of a write (13 R298) over its start and its range
lock to its admission into the delta log (03 R40-R42), what the admission of a drop abandons (03 R463), and durability. -/

namespace Sys2Proof.Proofs.WriteCommandsAdmissionAndDurability

open Sys2Proof Sys2Proof.Machine Sys2Proof.Safety Sys2Proof.Laws Sys2Proof.Proofs.QueriesAndTheirCompletions

/-! ### Records of a payload -/

/-- A record's first `k` bytes, read in the record or in the payload. -/
theorem leAt_bytesAt {k w : Nat} (h : k ≤ w) (bs : List Byte) (o : Nat) : leAt (bytesAt bs o w) 0 k = leAt bs o k := by
  have hlen : (bytesAt bs o w).length = w := by
    simp only [bytesAt, List.length_append, List.length_replicate, List.length_take, List.length_drop]
    omega
  have hbytes : bytesAt (bytesAt bs o w) 0 k = bytesAt bs o k := by
    rw [bytesAt, List.drop_zero, List.length_take, hlen, Nat.min_eq_left h, Nat.sub_self, List.replicate_zero, List.append_nil, bytesAt,
      List.take_append, List.take_take, List.take_replicate, bytesAt, Nat.min_eq_left h]
    congr 2
    simp only [List.length_take, List.length_drop]
    omega
  rw [leAt, hbytes, leAt]

/-- The records of a payload, `w` bytes each. -/
abbrev recsOf (c : Cmd) (w : Nat) : List (List Byte) := (List.range c.count).map fun i => bytesAt c.payload (i * w) w

/-- The identifiers before a record are the first of all identifiers. -/
theorem ids_before {c : Cmd} {w : Nat} (hw : 8 ≤ w) (i : Nat) :
    ((recsOf c w).take i).map (leAt · 0 8) = ((List.range c.count).map fun i => leAt c.payload (i * w) 8).take i := by
  rw [← List.map_take, ← List.map_take, List.map_map]
  exact List.map_congr_left fun j _ => leAt_bytesAt hw _ _

theorem recsOf_getD {c : Cmd} {w i : Nat} (hi : i < c.count) : (recsOf c w).getD i [] = bytesAt c.payload (i * w) w := by
  simp [hi]

/-- Of distinct identifiers none stands among those before it. -/
theorem not_mem_take_of_nodup {ids : List Nat} (h : ids.Nodup) {i : Nat} (hi : i < ids.length) : ids[i] ∉ ids.take i := by
  intro hm
  obtain ⟨j, hj, he⟩ := List.mem_take_iff_getElem.1 hm
  have hji := (h.getElem_inj_iff).1 he
  omega

/-- A record whose identifier is new and in range, and whose attributes are in form, breaks no rule. -/
theorem badRec_eq_false {c : Cmd} {d r : List Byte} {seen : List Nat}
    (hr : c.fld 40 8 ≤ leAt r 0 8 ∧ leAt r 0 8 ≤ c.fld 48 8 ∧ leAt r 0 8 ≠ 2 ^ 64 - 1)
    (hs : leAt r 0 8 ∉ seen) (ha : c.op = 0x32 ∨ attrsOk d (recOf d r) = true) : badRec c d seen r = false := by
  obtain ⟨hlo, hhi, hne⟩ := hr
  have hattr : (decide (c.op ≠ 0x32) && !(attrsOk d (recOf d r))) = false := by
    rcases ha with ha | ha <;> simp [ha]
  rw [badRec, hattr]
  simpa [Nat.not_lt.2 hlo, Nat.not_lt.2 hhi, hs] using hne

/-- A list of records of which each breaks no rule when its identifiers are distinct and in range. -/
theorem badRec_of_distinct {c : Cmd} {d : List Byte} {w : Nat} {ids : List Nat} (hw : 8 ≤ w)
    (hids : ids = (List.range c.count).map fun i => leAt c.payload (i * w) 8) (hnd : ids.Nodup)
    (hr : ∀ x ∈ ids, c.fld 40 8 ≤ x ∧ x ≤ c.fld 48 8 ∧ x ≠ 2 ^ 64 - 1)
    (ha : c.op = 0x32 ∨ ∀ i < c.count, attrsOk d (recOf d (bytesAt c.payload (i * w) w)) = true) :
    ∀ i < c.count, badRec c d (((recsOf c w).take i).map (leAt · 0 8)) ((recsOf c w).getD i []) = false := by
  intro i hi
  have hlen : i < ids.length := by simpa [hids] using hi
  have hid : leAt (bytesAt c.payload (i * w) w) 0 8 = ids[i] := by
    rw [leAt_bytesAt hw]
    simp [hids]
  rw [recsOf_getD hi, ids_before hw, ← hids]
  refine badRec_eq_false ?_ ?_ (ha.imp_right fun h => h i hi)
  · rw [hid]
    exact hr _ (List.getElem_mem hlen)
  · rw [hid]
    exact not_mem_take_of_nodup hnd hlen

/-! ### The form of a write (13 R298, R302) -/

/-- The refusal of a write by the number, the length and the records of its payload. -/
def formErr (c : Cmd) (w : Nat) (bad : List Nat → List Byte → Bool) : Option (Nat × Option Nat) :=
  if c.count = 0 ∨ 1024 < c.count ∨ c.len0 ≠ c.count * w then some (stInvalidParameter, none)
  else ((List.range c.count).find? fun i => bad (((recsOf c w).take i).map (leAt · 0 8)) ((recsOf c w).getD i [])).map fun i =>
    (stInvalidParameter, some i)

theorem formErr_eq_none {c : Cmd} {w : Nat} {bad : List Nat → List Byte → Bool} (h1 : 1 ≤ c.count) (h2 : c.count ≤ 1024)
    (hl : c.len0 = c.count * w) (hb : ∀ i < c.count, bad (((recsOf c w).take i).map (leAt · 0 8)) ((recsOf c w).getD i []) = false) :
    formErr c w bad = none := by
  rw [formErr, if_neg (by omega), List.find?_eq_none.2 fun i hi => ?_]
  · rfl
  · rw [hb i (List.mem_range.1 hi)]
    decide

/-- The first record at fault is named. -/
theorem formErr_eq_some {c : Cmd} {w i : Nat} {bad : List Nat → List Byte → Bool} (h1 : 1 ≤ c.count) (h2 : c.count ≤ 1024)
    (hl : c.len0 = c.count * w) (hi : i < c.count)
    (hb : ∀ j < c.count, j ≤ i → (bad (((recsOf c w).take j).map (leAt · 0 8)) ((recsOf c w).getD j []) = true ↔ j = i)) :
    formErr c w bad = some (stInvalidParameter, some i) := by
  rw [formErr, if_neg (by omega), List.find?_range_eq_some.2 ⟨(hb i hi le_rfl).2 rfl, List.mem_range.2 hi, fun j hj => ?_⟩]
  · rfl
  · have hne := mt (hb j (hj.trans hi) hj.le).1 hj.ne
    simpa using hne

/-- A write of vectors of a collection that its tenant may write is refused by its form alone. -/
theorem writeErr_vectors {s : State} {c : Cmd} {k : Coll} (hop : c.op = 0x30 ∨ c.op = 0x31 ∨ c.op = 0x32) (hk : s.cmdColl c = .ok k) :
    s.writeErr c = formErr c (if c.op = 0x32 then 8 else recLen (inDesc c k.live.desc)) (badRec c (inDesc c k.live.desc)) := by
  have h33 : c.op ≠ 0x33 := by omega
  have h21 : c.op ≠ 0x21 := by omega
  simp only [State.writeErr, hk, if_neg h33, if_neg h21]
  rfl

theorem writeErr_histAppend {s : State} {c : Cmd} {m : Model} {h : HistParam} (hop : c.op = 0x33) (hm : s.cmdModel c = .ok m)
    (hh : m.hist = some h) : s.writeErr c = formErr c h.entry fun _ _ => false := by
  simp only [State.writeErr, hm, if_pos hop, hh]
  rfl

/-- A drop is refused while a query plan of the collection's partition names the collection. -/
theorem writeErr_collDrop {s : State} {c : Cmd} {k : Coll} (hop : c.op = 0x21) (hk : s.cmdColl c = .ok k) :
    s.writeErr c = if (List.range 80).any fun i => (s.inst i).any fun v => v.kind = 0 && v.object = c.object && v.part = k.part
      then some (stBusy, none) else none := by
  have h33 : c.op ≠ 0x33 := by omega
  simp only [State.writeErr, hk, if_neg h33, if_pos hop]
  congr 2
  refine congrArg (List.any _) (funext fun i => ?_)
  cases s.inst i with
  | none => rfl
  | some v => rfl

theorem inDesc_delete {c : Cmd} (hop : c.op = 0x32) (d : List Byte) : inDesc c d = d := by simp [inDesc, hop]

theorem eight_le_recLen (d : List Byte) : 8 ≤ recLen d := by
  simp only [recLen, alignUp, ceilDiv]
  omega

/-! ### The start of a write -/

/-- A write that nothing refuses goes on, and nothing else changes. -/
theorem write_goes_on {s : State} {n op : Nat} {c : Cmd} (hf : Fetched n op c s) (hn : c.n = n) (he : s.writeErr c = none) :
    ∃ t : State, Host.Outcome.next (φ := Fault) (ρ := Refusal) (s.onCmd n op State.startWrite) = .next t ∧
      t.quay.cmds = mapIf (·.n = n) (fun c => { c with st := .running }) s.quay.cmds ∧
      t = { s with quay := { s.quay with cmds := t.quay.cmds } } := by
  refine ⟨_, rfl, ?_⟩
  rw [onCmd_fetched hf, State.startWrite, he, ← hn]
  exact ⟨rfl, rfl⟩

/-- A write that is refused ends, and nothing else changes. -/
theorem write_refused {s : State} {n op : Nat} {c : Cmd} {e : Nat × Option Nat} (hf : Fetched n op c s) (hn : c.n = n)
    (he : s.writeErr c = some e) : ∃ t : State, Host.Outcome.next (φ := Fault) (ρ := Refusal) (s.onCmd n op State.startWrite) = .next t ∧
      Ended n e.1 0 (if isDataWrite op then e.2.getD 0xFFFFFFFF else 0) [] s t ∧ t = { s with quay := { s.quay with cmds := t.quay.cmds } } := by
  refine ⟨_, rfl, ?_⟩
  rw [onCmd_fetched hf, State.startWrite, he, ← hn, ← hf.2.1]
  simp only [State.refuseW]
  split
  · exact ⟨rfl, rfl⟩
  · exact ⟨rfl, rfl⟩

/-- A write of vectors in form goes on. -/
theorem vectors_go_on {s : State} {n op w : Nat} {c : Cmd} {k : Coll} {ids : List Nat} {d : List Byte} (hf : Fetched n op c s) (hn : c.n = n)
    (hop : op = 0x30 ∨ op = 0x31 ∨ op = 0x32) (hk : s.collOf c.object = some k) (ht : k.tenant = c.tenant) (hd : k.dropped c.n = false)
    (hdesc : d = inDesc c k.live.desc) (hw : w = if op = 0x32 then 8 else recLen d) (h1 : 1 ≤ c.count) (h2 : c.count ≤ 1024)
    (hids : ids = (List.range c.count).map (fun i => leAt c.payload (i * w) 8)) (hnd : ids.Nodup)
    (hr : ∀ x ∈ ids, c.fld 40 8 ≤ x ∧ x ≤ c.fld 48 8 ∧ x ≠ 2 ^ 64 - 1) (hl : c.len0 = c.count * w)
    (ha : op = 0x32 ∨ ∀ i < c.count, attrsOk d (recOf d (bytesAt c.payload (i * w) w)) = true) :
    ∃ t : State, Host.Outcome.next (φ := Fault) (ρ := Refusal) (s.onCmd n op State.startWrite) = .next t ∧
      t.quay.cmds = mapIf (·.n = n) (fun c => { c with st := .running }) s.quay.cmds ∧
      t = { s with quay := { s.quay with cmds := t.quay.cmds } } := by
  have hcop : c.op = op := hf.2.1
  have hw8 : 8 ≤ w := by
    rw [hw]
    split
    · exact le_rfl
    · exact eight_le_recLen d
  refine write_goes_on hf hn ?_
  rw [writeErr_vectors (hcop ▸ hop) (cmdColl_ok hk ht hd), ← hdesc, hcop, ← hw]
  exact formErr_eq_none h1 h2 hl (badRec_of_distinct hw8 hids hnd hr (hcop ▸ ha))

/-! ### The range lock (13 R300, Table 13-8) -/

theorem lockWaits_eq_false {s : State} {n qp : Nat} {l : RangeLock}
    (hl : ∀ x ∈ s.quay.locks, x.cmd < n → x.isModel = l.isModel → x.obj = l.obj → (l.hi < x.lo ∨ x.hi < l.lo))
    (hw : ∀ x ∈ s.quay.cmds, x.qp = qp → x.n < n → isWriteOp x.op = true → x.st ≠ .waiting) : s.lockWaits n qp l = false := by
  rw [State.lockWaits, Bool.or_eq_false_iff]
  constructor
  · refine List.any_eq_false.2 fun x hx h => ?_
    simp only [RangeLock.overlaps, Bool.and_eq_true, decide_eq_true_eq] at h
    obtain ⟨hcmd, ⟨⟨hmodel, hobj⟩, hlo⟩, hhi⟩ := h
    have := hl x hx hcmd hmodel hobj
    omega
  · refine List.any_eq_false.2 fun x hx h => ?_
    simp only [Bool.and_eq_true, decide_eq_true_eq] at h
    obtain ⟨⟨⟨hqp, hn⟩, hop⟩, hst⟩ := h
    exact hw x hx hqp hn hop hst

/-! ### The delta log of a partition -/

/-- A log with an entry is listed as it is written. -/
theorem cpart_setCpart_self (s : State) (p : Nat) {v : CPart} (h : v.entries ≠ []) : (s.setCpart p v).cpart p = v :=
  tget_tset_kept _ _ _ _ fun h0 => h (congrArg CPart.entries h0)

theorem cpart_setCpart_ne (s : State) {p j : Nat} (v : CPart) (h : j ≠ p) : (s.setCpart p v).cpart j = s.cpart j := tget_tset_ne _ _ _ h

theorem tidy_eq_setCpart (s : State) (p : Nat) : ∃ v : CPart, ∃ folding : Bool,
    v = { s.cpart p with entries := (s.cpart p).entries.filter fun e => s.counts (s.cpart p) e || !(e.posted || e.lost) } ∧
      s.tidy p = (s.setCpart p v).setCpart p { (s.setCpart p v).cpart p with folding := folding } := ⟨_, _, rfl, rfl⟩

/-- Only entries that are posted or lost may leave a log that holds another one. -/
theorem tidy_cpart {s : State} {p : Nat} {e : DEntry} (he : e ∈ (s.cpart p).entries) (hp : e.posted = false) (hl : e.lost = false) :
    ∃ (f : DEntry → Bool) (folding : Bool), (s.tidy p).cpart p = { s.cpart p with entries := (s.cpart p).entries.filter f, folding := folding } ∧
      ∀ x : DEntry, x.posted = false → x.lost = false → f x = true := by
  obtain ⟨v, folding, hv, ht⟩ := tidy_eq_setCpart s p
  have hne : v.entries ≠ [] := by
    rw [hv]
    exact List.ne_nil_of_mem (List.mem_filter.2 ⟨he, by simp [hp, hl]⟩)
  refine ⟨fun e => s.counts (s.cpart p) e || !(e.posted || e.lost), folding, ?_, fun x hp hl => by simp [hp, hl]⟩
  rw [ht, cpart_setCpart_self s p hne]
  exact (cpart_setCpart_self _ p (v := { v with folding := folding }) hne).trans (by rw [hv])

theorem tidy_cpart_ne (s : State) {p j : Nat} (h : j ≠ p) : (s.tidy p).cpart j = s.cpart j := by
  obtain ⟨v, folding, -, ht⟩ := tidy_eq_setCpart s p
  rw [ht, cpart_setCpart_ne _ _ h, cpart_setCpart_ne _ _ h]

theorem tidy_eq (s : State) (p : Nat) : ∃ ps : Tab CPart, s.tidy p = { s with coll := { s.coll with parts := ps } } := by
  obtain ⟨v, folding, -, ht⟩ := tidy_eq_setCpart s p
  exact ⟨_, ht⟩

/-! ### What charges leave as it was -/

/-- Only registers and charges may differ. -/
structure Billed (s t : State) : Prop where
  undisturbed : Undisturbed s t
  evt : t.evt = s.evt
  rank : t.rank = s.rank

theorem Billed.refl (s : State) : Billed s s := ⟨.refl s, rfl, rfl⟩

theorem Billed.trans {s t u : State} (h : Billed s t) (g : Billed t u) : Billed s u :=
  ⟨h.undisturbed.trans g.undisturbed, g.evt.trans h.evt, g.rank.trans h.rank⟩

theorem billed_setFld (s : State) (r : Reg) (f : Fld) (v : Nat) : Billed s (s.setFld r f v) := ⟨undisturbed_setFld s r f v, rfl, rfl⟩

theorem billed_chargeBytes (s : State) (t p k : Nat) (f : Nat → Nat) : Billed s (s.chargeBytes t p k f) := by
  refine ⟨undisturbed_chargeBytes s t p k f, ?_, ?_⟩
  · simp only [State.chargeBytes, State.chargeTo, State.release, State.setUse, State.setFld_evt]
  · simp only [State.chargeBytes, State.chargeTo, State.release, State.setUse, State.setFld_rank]

theorem billed_chargeAll (s : State) (t p : Nat) (cs : List (Nat × Nat)) : Billed s (s.chargeAll t p cs) :=
  List.foldlRecOn (motive := Billed s) cs _ (.refl s) fun u h c _ => h.trans (billed_chargeBytes u t p c.1 (· + c.2))

theorem billed_noteOcc (s : State) (was p : Nat) : Billed s (s.noteOcc was p) := by
  unfold State.noteOcc
  split
  · exact billed_setFld ..
  · exact .refl s

/-! ### Admission into the log (03 R40-R42) -/

/-- The entry of a write at its admission: `rs` are its records in the layout `d`, `size` the bytes it counts. -/
def entryFor (s : State) (c : Cmd) (d : List Byte) (rs : List (List Byte)) (size : Nat) : DEntry where
  seq := (s.cpart c.part).next
  op := c.op
  obj := c.object
  qp := c.qp
  cid := c.cid
  cmd := c.n
  tenant := c.tenant
  user := c.fld 40 8
  count := rs.length
  desc := d
  recs := rs.flatMap id
  absent := if c.op = 0x32 then (rs.filter fun r => !(s.present c.part c.object (leAt r 0 8))).length else 0
  size := size
  at_ := s.svcTime
  costs := (s.writeCosts c.op c.part c.object (c.fld 40 8) c.count d rs).flatMap id
  news := if c.op = 0x30 ∨ c.op = 0x31 then (rs.filter fun r => !(s.present c.part c.object (leAt r 0 8))).length else 0

/-- The state once the entry `e` stands in the log of partition `p` and is charged. -/
def logged (s : State) (p : Nat) (e : DEntry) : State :=
  (((s.setCpart p { s.cpart p with next := (s.cpart p).next + 1, entries := (s.cpart p).entries ++ [e] }).chargeAll e.tenant p e.costs).noteOcc
    (s.occ p) p).tidy p

/-- The admission of a drop begins: what was in progress on the collection ends. -/
def dropStarted (s : State) (k n : Nat) : State :=
  (((s.endBuild k).cancelSwitch k).clearStaged k).mapColl k fun v => { v with dropAt := some (n, s.quay.nextCmd) }

section
variable {s : State} {n : Nat} {c : Cmd} {d : List Byte} {rs : List (List Byte)} {size : Nat}
  (hc : s.cmd n = some c) (hst : c.st = .running) (hq : s.quayUp = true) (hnew : s.entryOf c.part n = none)
  (hturn : s.admitTurn c = true) (hw : isWriteOp c.op = true)
  (hd : d = if c.op = 0x33 then [] else ((s.collOf c.object).map fun k => inDesc c k.live.desc).getD [])
  (hrs : rs = if c.op = 0x21 then [] else (List.range c.count).map fun i => bytesAt c.payload (i * (c.len0 / c.count)) (c.len0 / c.count))
  (hsize : size = if c.op = 0x21 then 64 else alignUp (64 + c.len0) 64)
include hc hst hq hnew hturn hw hd hrs hsize

/-- A write whose turn it is is admitted when nothing refuses it, and refused else. -/
theorem admitNow_eq : s.admitNow n = match s.admitErr c d rs size with
    | some e => (if e.1 = stDeltaFull then s.setFld (.cmPstat c.part) CM_PSTAT_FULL 1 else s).refuseW c e
    | none => if c.op = 0x21 then dropStarted (logged s c.part (entryFor s c d rs size)) c.object n else logged s c.part (entryFor s c d rs size) := by
  have hwidth : (if c.count = 0 then 0 else c.len0 / c.count) = c.len0 / c.count := by
    split
    · rename_i h0
      rw [h0, Nat.div_zero]
    · rfl
  subst hd hrs hsize
  have hcn := cmd_n hc
  simp only [State.admitNow, hc, hq, hw, hst, hnew, hturn, hwidth, not_true_eq_false, ne_eq, Option.isSome_none, Bool.false_eq_true, or_self, if_false]
  rw [← hcn]
  rfl

end

/-- The entry `e` has been admitted into the log of partition `p`. -/
structure Admitted (p : Nat) (e : DEntry) (s t : State) : Prop where
  next : (t.cpart p).next = (s.cpart p).next + 1
  last : (t.cpart p).entries.getLast? = some e
  kept : ∀ x ∈ (s.cpart p).entries, x.posted = false → x.lost = false → x ∈ (t.cpart p).entries
  others : ∀ j, j ≠ p → t.cpart j = s.cpart j

theorem admitted_logged (s : State) (p : Nat) {e : DEntry} (hp : e.posted = false) (hl : e.lost = false) : Admitted p e s (logged s p e) := by
  let v : CPart := { s.cpart p with next := (s.cpart p).next + 1, entries := (s.cpart p).entries ++ [e] }
  have hv : v.entries ≠ [] := List.append_ne_nil_of_right_ne_nil _ (List.cons_ne_nil _ _)
  have hb : Billed (s.setCpart p v) (((s.setCpart p v).chargeAll e.tenant p e.costs).noteOcc (s.occ p) p) :=
    (billed_chargeAll _ _ _ _).trans (billed_noteOcc _ _ _)
  have hcpart (j : Nat) : (((s.setCpart p v).chargeAll e.tenant p e.costs).noteOcc (s.occ p) p).cpart j = (s.setCpart p v).cpart j := by
    rw [State.cpart, hb.undisturbed.parts, State.cpart]
  have hself := (hcpart p).trans (cpart_setCpart_self s p hv)
  obtain ⟨f, folding, ht, hf⟩ := tidy_cpart (s := ((s.setCpart p v).chargeAll e.tenant p e.costs).noteOcc (s.occ p) p) (p := p) (e := e)
    (by rw [hself]; exact List.mem_append_right _ (List.mem_singleton_self e)) hp hl
  rw [hself] at ht
  have hentries : ((logged s p e).cpart p).entries = (s.cpart p).entries.filter f ++ [e] := by
    rw [logged, ht, List.filter_append, List.filter_cons_of_pos (hf e hp hl), List.filter_nil]
  refine ⟨?_, ?_, fun x hx hxp hxl => ?_, fun j hj => ?_⟩
  · rw [logged, ht]
  · rw [hentries, List.getLast?_append_of_ne_nil _ (List.cons_ne_nil _ _), List.getLast?_singleton]
  · rw [hentries]
    exact List.mem_append_left _ (List.mem_filter.2 ⟨hx, hf x hxp hxl⟩)
  · rw [logged, tidy_cpart_ne _ hj, hcpart, cpart_setCpart_ne _ _ hj]

theorem setCpart_colls (s : State) (p : Nat) (v : CPart) : (s.setCpart p v).coll.colls = s.coll.colls := rfl

/-- The bookkeeping of a log changes nothing beside the logs. -/
theorem tidy_frame (s : State) (p : Nat) : (s.tidy p).mem = s.mem ∧ (s.tidy p).evt = s.evt ∧ (s.tidy p).quay = s.quay ∧
    (s.tidy p).coll.colls = s.coll.colls ∧ (s.tidy p).rank = s.rank := by
  obtain ⟨ps, ht⟩ := tidy_eq s p
  rw [ht]
  exact ⟨rfl, rfl, rfl, rfl, rfl⟩

/-- An entry's charges touch registers and charges alone. -/
theorem charged_frame (s : State) (p t was : Nat) (v : CPart) (costs : List (Nat × Nat)) :
    Billed (s.setCpart p v) (((s.setCpart p v).chargeAll t p costs).noteOcc was p) :=
  (billed_chargeAll _ _ _ _).trans (billed_noteOcc _ _ _)

theorem tidy_charged_frame {s u : State} (p : Nat) (v : CPart) (hb : Billed (s.setCpart p v) u) : (u.tidy p).mem = s.mem ∧ (u.tidy p).evt = s.evt ∧
    (u.tidy p).quay = s.quay ∧ (u.tidy p).coll.colls = s.coll.colls ∧ (u.tidy p).rank = s.rank := by
  obtain ⟨hmem, hevt, hquay, hcolls, hrank⟩ := tidy_frame u p
  exact ⟨hmem.trans (hb.undisturbed.mem.trans (s.setCpart_mem p v)), hevt.trans (hb.evt.trans (s.setCpart_evt p v)),
    hquay.trans (hb.undisturbed.quay.trans (s.setCpart_quay p v)), hcolls.trans (hb.undisturbed.colls.trans (setCpart_colls s p v)),
    hrank.trans (hb.rank.trans (s.setCpart_rank p v))⟩

/-- Beside the log, the admission of an entry changes only registers and charges. -/
theorem logged_frame (s : State) (p : Nat) (e : DEntry) : (logged s p e).mem = s.mem ∧ (logged s p e).evt = s.evt ∧
    (logged s p e).quay = s.quay ∧ (logged s p e).coll.colls = s.coll.colls ∧ (logged s p e).rank = s.rank :=
  tidy_charged_frame p _ (charged_frame s p e.tenant (s.occ p) { s.cpart p with
    next := (s.cpart p).next + 1
    entries := (s.cpart p).entries ++ [e] } e.costs)

/-! ### What the admission of a drop abandons (03 R463) -/

/-- Queue, collections and delta logs are as they were. -/
structure SameLogs (s t : State) : Prop where
  quay : t.quay = s.quay
  colls : t.coll.colls = s.coll.colls
  parts : t.coll.parts = s.coll.parts

theorem SameLogs.refl (s : State) : SameLogs s s := ⟨rfl, rfl, rfl⟩

theorem SameLogs.trans {s t u : State} (h : SameLogs s t) (g : SameLogs t u) : SameLogs s u :=
  ⟨g.quay.trans h.quay, g.colls.trans h.colls, g.parts.trans h.parts⟩

theorem SameLogs.foldl {α : Type} {f : State → α → State} (hf : ∀ s a, SameLogs s (f s a)) (l : List α) (s : State) : SameLogs s (l.foldl f s) :=
  List.foldlRecOn (motive := SameLogs s) l f (.refl s) fun u h a _ => h.trans (hf u a)

theorem sameLogs_release (s : State) (t k b : Nat) : SameLogs s (s.release t k b) := by
  obtain ⟨hquay, hcolls, hparts, -, -⟩ := undisturbed_setUse s t k (s.use t k - b)
  exact ⟨hquay, hcolls, hparts⟩

theorem sameLogs_wipe (s : State) (a n : Nat) : SameLogs s (s.wipe a n) := ⟨rfl, rfl, rfl⟩

theorem sameLogs_tier (s : State) (t : TierState) : SameLogs s { s with tier := t } := ⟨rfl, rfl, rfl⟩

theorem sameLogs_dropObj (s : State) (h : Nat) : SameLogs s (s.dropObj h) := by
  unfold State.dropObj
  split
  · exact .refl s
  · rename_i o ho
    have hfree : SameLogs s ((List.range 4).foldl (fun (s : State) (k : Nat) => s.release o.tenant k (tgetD 0 o.charged k)) s) :=
      .foldl (fun s k => sameLogs_release s o.tenant k _) _ s
    exact (hfree.trans (sameLogs_tier _ _)).trans (sameLogs_tier _ _)

theorem sameLogs_dropSeg (s : State) (x : Seg) : SameLogs s (s.dropSeg x) := by
  have hrows : SameLogs s (x.rows.foldl (fun (s : State) a => s.wipe a 1024) (s.dropObj x.store)) :=
    (sameLogs_dropObj s _).trans (.foldl (fun s a => sameLogs_wipe s a 1024) _ _)
  unfold State.dropSeg
  split
  · exact hrows.trans (sameLogs_dropObj _ _)
  · exact hrows

theorem sameLogs_freeGen (s : State) (t p : Nat) (g : Gen) : SameLogs s (s.freeGen t p g) := by
  refine .trans (.foldl (fun s v => ?_) g.vecs s) (.foldl sameLogs_dropSeg _ _)
  have hu := undisturbed_freeAll s t p v.cost
  exact ⟨hu.quay, hu.colls, hu.parts⟩

/-- The command `n`, where there is one, ends ABANDONED. -/
def abandonCmd (n : Option Nat) (cs : List Cmd) : List Cmd :=
  n.elim cs fun n => mapIf (·.n = n) (fun c => { c with st := .done stAbandoned 0 0 [] }) cs

theorem st_of_mem_abandonCmd {n : Nat} {cs : List Cmd} {x : Cmd} (hx : x ∈ abandonCmd (some n) cs) (hn : x.n = n) :
    x.st = .done stAbandoned 0 0 [] := by
  obtain ⟨y, -, rfl⟩ := List.mem_map.1 hx
  split
  · rfl
  · rename_i hy
    rw [if_neg hy] at hn
    exact absurd (decide_eq_true hn) hy

/-- What has ended ABANDONED stays so when another command does. -/
theorem st_of_mem_abandonCmd_mono {n : Nat} {m : Option Nat} {cs : List Cmd} (h : ∀ x ∈ cs, x.n = n → x.st = .done stAbandoned 0 0 []) :
    ∀ x ∈ abandonCmd m cs, x.n = n → x.st = .done stAbandoned 0 0 [] := by
  intro x hx hn
  cases m with
  | none => exact h x hx hn
  | some m =>
    obtain ⟨y, hy, rfl⟩ := List.mem_map.1 hx
    split
    · rfl
    · rename_i hym
      rw [if_neg hym] at hn
      exact h y hy hn

/-- Collection `k` becomes `v`, and of the commands in flight `n` ends ABANDONED, where there is one. -/
structure Abandoned (k : Nat) (v : Coll) (n : Option Nat) (s t : State) : Prop where
  coll : t.collOf k = some v
  others : ∀ j, j ≠ k → t.collOf j = s.collOf j
  parts : t.coll.parts = s.coll.parts
  quay : t.quay = { s.quay with cmds := abandonCmd n s.quay.cmds }

theorem abandoned_mapColl {s u : State} {k : Nat} {v : Coll} (hu : SameLogs s u) (hv : s.collOf k = some v) (f : Coll → Coll) :
    Abandoned k (f v) none s (u.mapColl k f) := by
  have hcoll (j : Nat) : u.collOf j = s.collOf j := by rw [State.collOf, hu.colls, State.collOf]
  obtain ⟨hself, hothers⟩ := collOf_mapColl ((hcoll k).trans hv) f
  obtain ⟨cs, hcs⟩ := mapColl_eq u k f
  refine ⟨hself, fun j hj => (hothers j hj).trans (hcoll j), ?_, ?_⟩
  · rw [hcs]
    exact hu.parts
  · rw [hcs]
    exact hu.quay

theorem Abandoned.finish {s t : State} {k n : Nat} {v : Coll} (h : Abandoned k v none s t) :
    Abandoned k v (some n) s (t.finish n stAbandoned 0 0 []) := by
  refine ⟨h.coll, h.others, h.parts, ?_⟩
  rw [State.finish, State.setCmd, h.quay]
  rfl

theorem abandoned_endBuild {s : State} {k : Nat} {v : Coll} (hv : s.collOf k = some v) :
    Abandoned k { v with build := none } (v.build.map Build.cmd) s (s.endBuild k) := by
  obtain ⟨build, hb⟩ : ∃ b, v.build = b := ⟨_, rfl⟩
  simp only [State.endBuild, State.dropBuild, hv, Option.bind_some, hb]
  cases build with
  | none =>
    rw [show ({ v with build := none } : Coll) = v by rw [← hb]]
    exact ⟨hv, fun _ _ => rfl, rfl, rfl⟩
  | some b => exact (abandoned_mapColl (sameLogs_freeGen s v.tenant v.part b.gen) hv fun v => { v with build := none }).finish

theorem abandoned_cancelSwitch {s : State} {k : Nat} {v : Coll} (hv : s.collOf k = some v) :
    Abandoned k { v with sw := none } (v.sw.map Switch.cmd) s (s.cancelSwitch k) := by
  obtain ⟨sw, hw⟩ : ∃ w, v.sw = w := ⟨_, rfl⟩
  simp only [State.cancelSwitch, hv, Option.bind_some, hw]
  cases sw with
  | none =>
    rw [show ({ v with sw := none } : Coll) = v by rw [← hw]]
    exact ⟨hv, fun _ _ => rfl, rfl, rfl⟩
  | some w => exact (abandoned_mapColl (.refl s) hv fun v => { v with sw := none }).finish

theorem abandoned_clearStaged {s : State} {k : Nat} {v : Coll} (hv : s.collOf k = some v) :
    Abandoned k { v with next := none, recs := { v.recs with staging := [] } } none s (s.clearStaged k) := by
  simp only [State.clearStaged, hv]
  refine abandoned_mapColl ?_ hv fun v => { v with next := none, recs := { v.recs with staging := [] } }
  split
  · exact sameLogs_freeGen s _ _ _
  · exact .refl s

/-- The admission of a drop ends a build, a waiting switch and a staged generation of the collection, and marks the collection. -/
theorem dropStarted_coll {s : State} {k n : Nat} {v : Coll} (hv : s.collOf k = some v) :
    (dropStarted s k n).collOf k = some { v with
          build := none
          sw := none
          next := none
          recs := { v.recs with staging := [] }
          dropAt := some (n, s.quay.nextCmd) } ∧
      (∀ j, j ≠ k → (dropStarted s k n).collOf j = s.collOf j) ∧ (dropStarted s k n).coll.parts = s.coll.parts ∧
      (dropStarted s k n).quay.cmds = abandonCmd (v.sw.map Switch.cmd) (abandonCmd (v.build.map Build.cmd) s.quay.cmds) := by
  have hbuild := abandoned_endBuild hv
  have hsw := abandoned_cancelSwitch hbuild.coll
  have hstaged := abandoned_clearStaged hsw.coll
  have hmark := abandoned_mapColl (.refl _) hstaged.coll fun v => { v with dropAt := some (n, s.quay.nextCmd) }
  refine ⟨hmark.coll, fun j hj => ?_, ?_, ?_⟩
  · exact (hmark.others j hj).trans ((hstaged.others j hj).trans ((hsw.others j hj).trans (hbuild.others j hj)))
  · exact hmark.parts.trans (hstaged.parts.trans (hsw.parts.trans hbuild.parts))
  · have hq := hmark.quay
    rw [hstaged.quay, hsw.quay, hbuild.quay] at hq
    exact congrArg QuayState.cmds hq

/-! ### A log without room (03 R40) -/

theorem setFull_eq {s : State} (h : RegsOk s) (p : Nat) : ∃ rs : Tab Word, s.setFld (.cmPstat p) CM_PSTAT_FULL 1 = { s with regs := rs } ∧
    ({ s with regs := rs } : State).flag (.cmPstat p) CM_PSTAT_FULL = true ∧ RegsBut [.cmPstat p] s { s with regs := rs } := by
  have hflag : (s.setFld (.cmPstat p) CM_PSTAT_FULL 1).flag (.cmPstat p) CM_PSTAT_FULL = true := by
    rw [State.flag, State.fld_setFld_self _ _ _ _ h (by decide)]
    rfl
  exact ⟨_, rfl, hflag, fun o ho => State.tget_setFld_ne s _ _ _ o (ho _ (List.mem_singleton_self _))⟩

/-- What nothing else refuses is refused when its entry has no room. -/
theorem admitErr_deltaFull {s : State} {c : Cmd} {d : List Byte} {rs : List (List Byte)} {size : Nat} (hform : s.writeErr c = none)
    (hnew : c.op = 0x30 → ∀ r ∈ rs, s.present c.part c.object (leAt r 0 8) = false) (hvec : s.crossVectors c rs = none)
    (hroom : crossAt (s.overRoom c.tenant c.part) (s.writeCosts c.op c.part c.object (c.fld 40 8) c.count d rs) = none)
    (hquota : crossAt (s.overQuota c.tenant) (s.writeCosts c.op c.part c.object (c.fld 40 8) c.count d rs) = none)
    (hfull : s.dlogQuota c.part < s.dlogUsed c.part + size ∨ 24 * 2 ^ 30 < s.deltaBytes s.counts + size) :
    s.admitErr c d rs size = some (stDeltaFull, none) := by
  have hexists : (if c.op = 0x30 then (List.range rs.length).find? fun i => s.present c.part c.object (leAt (rs.getD i []) 0 8) else none) = none := by
    split
    · rename_i hop
      refine List.find?_eq_none.2 fun i hi => ?_
      have hi := List.mem_range.1 hi
      rw [List.getD_eq_getElem _ _ hi, hnew hop _ (List.getElem_mem hi)]
      decide
    · rfl
  simp only [State.admitErr, hform, hexists, hvec, hroom, hquota, Option.orElse_none]
  exact if_pos hfull

/-! ### Durability (03 R42, 13 Table 13-10) -/

/-- The state once the entry `e` of partition `p` is durable. -/
def written (s : State) (p : Nat) (e : DEntry) : State :=
  let u := s.mapEntry p e.seq fun e => { e with durable := true }
  u.setCpart p { u.cpart p with writes := tsetD none (u.cpart p).writes e.qp (some ⟨e.cid, e.seq⟩), top := max (u.cpart p).top e.seq }

theorem written_cpart {s : State} {p : Nat} {e : DEntry} (he : e ∈ (s.cpart p).entries) : (written s p e).cpart p =
    { s.cpart p with
      entries := mapIf (·.seq = e.seq) (fun x => { x with durable := true }) (s.cpart p).entries
      writes := tsetD none (s.cpart p).writes e.qp (some ⟨e.cid, e.seq⟩)
      top := max (s.cpart p).top e.seq } := by
  have hne : mapIf (fun x : DEntry => decide (x.seq = e.seq)) (fun x => { x with durable := true }) (s.cpart p).entries ≠ [] :=
    List.ne_nil_of_mem (List.mem_map_of_mem he)
  have hself := cpart_setCpart_self s p (v := { s.cpart p with
    entries := mapIf (fun x : DEntry => decide (x.seq = e.seq)) (fun x => { x with durable := true }) (s.cpart p).entries }) hne
  rw [written, State.mapEntry, hself]
  exact cpart_setCpart_self _ p hne

theorem written_cpart_ne (s : State) {p j : Nat} (e : DEntry) (h : j ≠ p) : (written s p e).cpart j = s.cpart j := by
  rw [written, cpart_setCpart_ne _ _ h, State.mapEntry, cpart_setCpart_ne _ _ h]

theorem written_eq (s : State) (p : Nat) (e : DEntry) :
    ∃ ps : Tab CPart, written s p e = { s with coll := { s.coll with parts := ps } } := ⟨_, rfl⟩

/-- The write of an entry that becomes durable ends with its sequence number, unless it is a drop. -/
theorem durable_eq {s : State} {n : Nat} {c : Cmd} {e : DEntry} (hc : s.cmd n = some c) (he : s.entryOf c.part n = some e) (hq : s.quayUp = true)
    (hd : e.durable = false) (hl : e.lost = false) : s.durable n = if e.op = 0x21 then written s c.part e
      else (written s c.part e).finish n (if e.op = 0x32 ∧ e.absent = e.count then stNotPresent else stSuccess) e.seq e.absent [] := by
  simp only [State.durable, hc, he, hq, hd, hl, not_true_eq_false, Bool.false_eq_true, or_self, if_false]
  rfl

/-! ### What each command does -/

/-- A waiting write goes on once its lock entry no longer waits. -/
theorem lockAdmit_eq {s : State} {n : Nat} {c : Cmd} {l : RangeLock} (hc : s.cmd n = some c) (hst : c.st = .waiting)
    (hl : s.quay.locks.find? (·.cmd = n) = some l) (hw : s.lockWaits n c.qp l = false) :
    s.lockAdmit n = s.setCmd n fun c => { c with st := .ready } := by
  simp only [State.lockAdmit, hc, hl, hst, hw, and_self, if_true]

section
variable {s : State} {n : Nat} {c : Cmd} {d : List Byte} {rs : List (List Byte)} {size : Nat}
  (hc : s.cmd n = some c) (hst : c.st = .running) (hq : s.quayUp = true) (hnew : s.entryOf c.part n = none)
  (hturn : s.admitTurn c = true) (hw : isWriteOp c.op = true)
  (hd : d = if c.op = 0x33 then [] else ((s.collOf c.object).map fun k => inDesc c k.live.desc).getD [])
  (hrs : rs = if c.op = 0x21 then [] else (List.range c.count).map fun i => bytesAt c.payload (i * (c.len0 / c.count)) (c.len0 / c.count))
  (hsize : size = if c.op = 0x21 then 64 else alignUp (64 + c.len0) 64)
include hc hst hq hnew hturn hw hd hrs hsize

/-- A write of vectors or of a history that nothing refuses stands in the log, and beside it only registers and charges change. -/
theorem write_admitted (hop : c.op ≠ 0x21) (herr : s.admitErr c d rs size = none) :
    Admitted c.part (entryFor s c d rs size) s (s.admitNow n) ∧ (s.admitNow n).mem = s.mem ∧ (s.admitNow n).evt = s.evt ∧
      (s.admitNow n).quay = s.quay ∧ (s.admitNow n).coll.colls = s.coll.colls ∧ (s.admitNow n).rank = s.rank := by
  have heq : s.admitNow n = logged s c.part (entryFor s c d rs size) := by
    rw [admitNow_eq hc hst hq hnew hturn hw hd hrs hsize, herr]
    exact if_neg hop
  rw [heq]
  exact ⟨admitted_logged s c.part rfl rfl, logged_frame s c.part _⟩

/-- A drop that nothing refuses stands in the log, and what was in progress on its collection has ended. -/
theorem drop_admitted {k : Coll} (hop : c.op = 0x21) (hk : s.collOf c.object = some k) (herr : s.admitErr c d rs size = none) :
    Admitted c.part (entryFor s c d rs size) s (s.admitNow n) ∧
      (s.admitNow n).collOf c.object = some { k with
          build := none
          sw := none
          next := none
          recs := { k.recs with staging := [] }
          dropAt := some (n, s.quay.nextCmd) } ∧
      (∀ j, j ≠ c.object → (s.admitNow n).collOf j = s.collOf j) ∧
      (s.admitNow n).quay.cmds = abandonCmd (k.sw.map Switch.cmd) (abandonCmd (k.build.map Build.cmd) s.quay.cmds) := by
  have heq : s.admitNow n = dropStarted (logged s c.part (entryFor s c d rs size)) c.object n := by
    rw [admitNow_eq hc hst hq hnew hturn hw hd hrs hsize, herr]
    exact if_pos hop
  have hadm := admitted_logged s c.part (e := entryFor s c d rs size) rfl rfl
  obtain ⟨-, -, hquay, hcolls, -⟩ := logged_frame s c.part (entryFor s c d rs size)
  rw [heq]
  generalize logged s c.part (entryFor s c d rs size) = u at hadm hquay hcolls ⊢
  have hcoll (j : Nat) : u.collOf j = s.collOf j := by rw [State.collOf, hcolls, State.collOf]
  obtain ⟨hself, hothers, hparts, hcmds⟩ := dropStarted_coll (n := n) ((hcoll c.object).trans hk)
  have hcpart (j : Nat) : (dropStarted u c.object n).cpart j = u.cpart j := by rw [State.cpart, hparts, State.cpart]
  rw [hquay] at hself hcmds
  refine ⟨⟨?_, ?_, ?_, fun j hj => ?_⟩, hself, fun j hj => (hothers j hj).trans (hcoll j), hcmds⟩
  · rw [hcpart]
    exact hadm.next
  · rw [hcpart]
    exact hadm.last
  · rw [hcpart]
    exact hadm.kept
  · rw [hcpart]
    exact hadm.others j hj

/-- A write whose entry has no room ends DELTA_FULL, and CM_PSTAT shows it. -/
theorem write_full (hr : RegsOk s) (herr : s.admitErr c d rs size = some (stDeltaFull, none)) :
    Ended n stDeltaFull 0 (if c.op = 0x21 then 0 else 0xFFFFFFFF) [] s (s.admitNow n) ∧
      (s.admitNow n).flag (.cmPstat c.part) CM_PSTAT_FULL = true ∧ RegsBut [.cmPstat c.part] s (s.admitNow n) ∧
      s.admitNow n = { s with regs := (s.admitNow n).regs, quay := { s.quay with cmds := (s.admitNow n).quay.cmds } } := by
  obtain ⟨regs, hset, hflag, hregs⟩ := setFull_eq hr c.part
  have heq : s.admitNow n = ({ s with regs := regs } : State).refuseW c (stDeltaFull, none) := by
    rw [admitNow_eq hc hst hq hnew hturn hw hd hrs hsize, herr, ← hset]
    exact congrArg (State.refuseW · c _) (if_pos rfl)
  have hkind : isDataWrite c.op = true ↔ c.op ≠ 0x21 := by
    simp only [isWriteOp, isDataWrite, Bool.or_eq_true, decide_eq_true_eq] at hw ⊢
    omega
  have hcn := cmd_n hc
  rw [heq]
  simp only [State.refuseW, hcn]
  by_cases hop : c.op = 0x21
  · rw [if_neg fun h => hkind.1 h hop, if_pos hop]
    exact ⟨rfl, hflag, hregs, rfl⟩
  · rw [if_pos (hkind.2 hop), if_neg hop]
    exact ⟨rfl, hflag, hregs, rfl⟩

end

/-- A DELETE ends INVALID_PARAMETER and names the first record that breaks a rule. -/
theorem delete_names_bad_record {s : State} {n i : Nat} {c : Cmd} {k : Coll} (hf : Fetched n 0x32 c s) (hn : c.n = n)
    (hk : s.collOf c.object = some k) (ht : k.tenant = c.tenant) (hd : k.dropped c.n = false) (h1 : 1 ≤ c.count) (h2 : c.count ≤ 1024)
    (hl : c.len0 = c.count * 8) (hi : i < c.count)
    (hbad : ∀ j < c.count, j ≤ i →
      (badRec c k.live.desc (((recsOf c 8).take j).map (leAt · 0 8)) ((recsOf c 8).getD j []) = true ↔ j = i)) :
    ∃ t : State, exec (.delete n) s = .next t ∧ Ended n stInvalidParameter 0 i [] s t ∧ t = { s with quay := { s.quay with cmds := t.quay.cmds } } := by
  have hop : c.op = 0x32 := hf.2.1
  have herr : s.writeErr c = some (stInvalidParameter, some i) := by
    rw [writeErr_vectors (.inr (.inr hop)) (cmdColl_ok hk ht hd), inDesc_delete hop, if_pos hop]
    exact formErr_eq_some h1 h2 hl hi hbad
  exact write_refused hf hn herr

/-- An INSERT on an unknown collection ends NO_OBJECT and names no record. -/
theorem insert_unknown {s : State} {n : Nat} {c : Cmd} (hf : Fetched n 0x30 c s) (hn : c.n = n) (hk : s.collOf c.object = none) :
    ∃ t : State, exec (.insert n) s = .next t ∧ Ended n stNoObject 0 0xFFFFFFFF [] s t ∧ t = { s with quay := { s.quay with cmds := t.quay.cmds } } := by
  have hop : c.op = 0x30 := hf.2.1
  have herr : s.writeErr c = some (stNoObject, none) := by
    have hcoll : s.cmdColl c = .error stNoObject := by rw [State.cmdColl, hk]
    simp only [State.writeErr, hcoll, hop, Nat.reduceEqDiff, if_false]
  exact write_refused hf hn herr

/-- A history append of whole entries goes on. -/
theorem histAppend_goes_on {s : State} {n : Nat} {c : Cmd} {v : Model} {h : HistParam} (hf : Fetched n 0x33 c s) (hn : c.n = n)
    (hm : s.model c.object = some v) (ht : v.tenant = c.tenant) (hh : v.hist = some h) (h1 : 1 ≤ c.count) (h2 : c.count ≤ 1024)
    (hl : c.len0 = c.count * h.entry) :
    ∃ t : State, exec (.histAppend n) s = .next t ∧ t.quay.cmds = mapIf (·.n = n) (fun c => { c with st := .running }) s.quay.cmds ∧
      t = { s with quay := { s.quay with cmds := t.quay.cmds } } := by
  have hmodel : s.cmdModel c = .ok v := by simp only [State.cmdModel, hm, ht, if_true]
  refine write_goes_on hf hn ?_
  rw [writeErr_histAppend hf.2.1 hmodel hh]
  exact formErr_eq_none h1 h2 hl fun _ _ => rfl

/-- A drop goes on while no query plan names its collection. -/
theorem collDrop_goes_on {s : State} {n : Nat} {c : Cmd} {k : Coll} (hf : Fetched n 0x21 c s) (hn : c.n = n)
    (hk : s.collOf c.object = some k) (ht : k.tenant = c.tenant) (hd : k.dropped c.n = false)
    (hplans : ∀ i < 80, (s.inst i).all (fun v => v.kind ≠ 0 || v.object ≠ c.object || v.part ≠ k.part) = true) :
    ∃ t : State, exec (.collDrop n) s = .next t ∧ t.quay.cmds = mapIf (·.n = n) (fun c => { c with st := .running }) s.quay.cmds ∧
      t = { s with quay := { s.quay with cmds := t.quay.cmds } } := by
  refine write_goes_on hf hn ?_
  rw [writeErr_collDrop hf.2.1 (cmdColl_ok hk ht hd), if_neg]
  simp only [List.any_eq_true, List.mem_range, Option.any_eq_true, not_exists, not_and]
  intro i hi v hv hnamed
  have hother := hplans i hi
  simp only [Bool.and_eq_true, decide_eq_true_eq] at hnamed
  obtain ⟨⟨hkind, hobj⟩, hpart⟩ := hnamed
  simp [hv, hkind, hobj, hpart] at hother

/-- A drop ends BUSY while a query plan names its collection. -/
theorem collDrop_busy {s : State} {n i : Nat} {c : Cmd} {k : Coll} {v : Inst} (hf : Fetched n 0x21 c s) (hn : c.n = n)
    (hk : s.collOf c.object = some k) (ht : k.tenant = c.tenant) (hd : k.dropped c.n = false) (hi : i < 80) (hv : s.inst i = some v)
    (hkind : v.kind = 0) (hobj : v.object = c.object) (hpart : v.part = k.part) :
    ∃ t : State, exec (.collDrop n) s = .next t ∧ Ended n stBusy 0 0 [] s t ∧ t = { s with quay := { s.quay with cmds := t.quay.cmds } } := by
  have herr : s.writeErr c = some (stBusy, none) := by
    rw [writeErr_collDrop hf.2.1 (cmdColl_ok hk ht hd), if_pos]
    exact List.any_eq_true.2 ⟨i, List.mem_range.2 hi, by simp [hv, hkind, hobj, hpart]⟩
  exact write_refused hf hn herr

/-- The entry of a write of vectors or of a history says what the write is, and nothing has happened to it yet. -/
theorem last_entry {s t : State} {n : Nat} {c : Cmd} {d : List Byte} {rs : List (List Byte)} {size : Nat} (hn : c.n = n)
    (hlast : (t.cpart c.part).entries.getLast? = some (entryFor s c d rs size)) :
    ((t.cpart c.part).entries.getLast?).map (fun e => (e.seq, e.op, e.obj, e.qp, e.cid, e.cmd, e.tenant)) =
        some ((s.cpart c.part).next, c.op, c.object, c.qp, c.cid, n, c.tenant) ∧
      ((t.cpart c.part).entries.getLast?).map (fun e => (e.durable, e.applied, e.destaged, e.lost)) = some (false, false, false, false) := by
  rw [hlast, ← hn]
  exact ⟨rfl, rfl⟩

/-- A write that becomes durable ends, and its entry and its queue pair's last write say so. -/
theorem durable_ends {s : State} {n : Nat} {c : Cmd} {e : DEntry} (hc : s.cmd n = some c) (he : s.entryOf c.part n = some e)
    (hq : s.quayUp = true) (hd : e.durable = false) (hl : e.lost = false) (hop : e.op ≠ 0x21) :
    ∃ t : State, exec (.writeDurable n) s = .next t ∧
      Ended n (if e.op = 0x32 ∧ e.absent = e.count then stNotPresent else stSuccess) e.seq e.absent [] s t ∧
      (t.cpart c.part).entries = mapIf (·.seq = e.seq) (fun x => { x with durable := true }) (s.cpart c.part).entries ∧
      (tgetO (t.cpart c.part).writes e.qp).join = some ⟨e.cid, e.seq⟩ ∧ (t.cpart c.part).next = (s.cpart c.part).next ∧
      (t.cpart c.part).applied = (s.cpart c.part).applied ∧ (∀ j, j ≠ c.part → t.cpart j = s.cpart j) ∧
      t = { s with quay := { s.quay with cmds := t.quay.cmds }, coll := { s.coll with parts := t.coll.parts } } := by
  have hself := written_cpart (List.mem_of_find?_eq_some he)
  have hothers (j : Nat) (hj : j ≠ c.part) := written_cpart_ne s e hj
  obtain ⟨ps, hps⟩ := written_eq s c.part e
  refine ⟨_, congrArg Host.Outcome.next ((durable_eq hc he hq hd hl).trans (if_neg hop)), ?_⟩
  rw [hps] at hself hothers ⊢
  have hnext := congrArg CPart.next hself
  have happlied := congrArg CPart.applied hself
  have hwrites := congrArg (fun p : CPart => (tgetO p.writes e.qp).join) hself
  exact ⟨rfl, congrArg CPart.entries hself, hwrites.trans (tgetO_tset_some _ _ _), hnext, happlied, hothers, rfl⟩

/-- A drop's entry becomes durable, and that alone does not end the drop. -/
theorem drop_durable {s : State} {n : Nat} {c : Cmd} {e : DEntry} (hc : s.cmd n = some c) (he : s.entryOf c.part n = some e)
    (hq : s.quayUp = true) (hd : e.durable = false) (hl : e.lost = false) (hop : e.op = 0x21) :
    ∃ t : State, exec (.writeDurable n) s = .next t ∧
      (t.cpart c.part).entries = mapIf (·.seq = e.seq) (fun x => { x with durable := true }) (s.cpart c.part).entries ∧
      (∀ j, j ≠ c.part → t.cpart j = s.cpart j) ∧ t = { s with coll := { s.coll with parts := t.coll.parts } } := by
  have hself := written_cpart (List.mem_of_find?_eq_some he)
  have hothers (j : Nat) (hj : j ≠ c.part) := written_cpart_ne s e hj
  obtain ⟨ps, hps⟩ := written_eq s c.part e
  refine ⟨_, congrArg Host.Outcome.next ((durable_eq hc he hq hd hl).trans (if_pos hop)), ?_⟩
  rw [hps] at hself hothers ⊢
  exact ⟨congrArg CPart.entries hself, hothers, rfl⟩

end Sys2Proof.Proofs.WriteCommandsAdmissionAndDurability

section
open Sys2Proof Sys2Proof.Machine Sys2Proof.Safety Sys2Proof.Proofs.WriteCommandsAdmissionAndDurability
  Sys2Proof.Proofs.QueriesAndTheirCompletions

/-- Settles O46: what a write's form decides at its start (13 R298), what its admission appends to the log or refuses (03 R40, R463), and
what durability ends. -/
theorem writeCommandsAdmissionAndDurability : Obligations.WriteCommandsAdmissionAndDurability := by
  unfold Obligations.WriteCommandsAdmissionAndDurability
  refine ⟨?insert, ?upsert, ?delete, ?deleteBad, ?insertUnknown, ?histAppend, ?drop, ?dropBusy, ?lock, ?admitVectors, ?admitHist, ?admitDrop, ?full,
    ?durable, ?dropDurable⟩
  case insert =>
    intro s n w c k ids d hf hn hk ht hd hdesc hw h1 h2 hids hnd hr hl ha
    exact vectors_go_on hf hn (.inl rfl) hk ht hd hdesc hw h1 h2 hids hnd hr hl (.inr ha)
  case upsert =>
    intro s n w c k ids d hf hn hk ht hd hdesc hw h1 h2 hids hnd hr hl ha
    exact vectors_go_on hf hn (.inr (.inl rfl)) hk ht hd hdesc hw h1 h2 hids hnd hr hl (.inr ha)
  case delete =>
    intro s n w c k ids hf hn hk ht hd hw h1 h2 hids hnd hr hl
    exact vectors_go_on hf hn (.inr (.inr rfl)) hk ht hd rfl hw h1 h2 hids hnd hr hl (.inl rfl)
  case deleteBad =>
    intro s n i c k rs hf hn hk ht hd h1 h2 hl hrs hi hbad
    subst hrs
    exact delete_names_bad_record hf hn hk ht hd h1 h2 hl hi hbad
  case insertUnknown => exact fun s n c hf hn hk => insert_unknown hf hn hk
  case histAppend => exact fun s n c v h hf hn hm ht hh h1 h2 hl => histAppend_goes_on hf hn hm ht hh h1 h2 hl
  case drop => exact fun s n c k hf hn hk ht hd hplans => collDrop_goes_on hf hn hk ht hd hplans
  case dropBusy => exact fun s n i c k v hf hn hk ht hd hi hv hkind hobj hpart => collDrop_busy hf hn hk ht hd hi hv hkind hobj hpart
  case lock =>
    intro s n c l hc hst hl hlocks hcmds
    exact ⟨_, congrArg Host.Outcome.next (lockAdmit_eq hc hst hl (lockWaits_eq_false hlocks hcmds)), rfl, rfl⟩
  case admitVectors =>
    intro s n p c d rs k hc hn hp hst hq hnew hturn hop hk hd h1 hrs herr
    subst hp
    have h33 : c.op ≠ 0x33 := by omega
    have h21 : c.op ≠ 0x21 := by omega
    have hw : isWriteOp c.op = true := by
      rcases hop with h | h | h <;> rw [h] <;> decide
    obtain ⟨hadm, hmem, hevt, hquay, hcolls, -⟩ := write_admitted hc hst hq hnew hturn hw
      (by simpa [h33, hk] using hd) (by rw [if_neg h21]; exact hrs) (if_neg h21).symm h21 herr
    obtain ⟨hwho, hflags⟩ := last_entry hn hadm.last
    refine ⟨_, rfl, hadm.next, hwho, ?_, hflags, hadm.kept, hadm.others, hmem, hevt, hquay, hcolls⟩
    have hcount : rs.length = c.count := by simp [hrs]
    rw [hadm.last, ← hcount]
    rfl
  case admitHist =>
    intro s n p c d rs hc hn hp hst hq hnew hturn hop hd h1 hrs herr
    subst hp
    have h21 : c.op ≠ 0x21 := by omega
    have hw : isWriteOp c.op = true := by rw [hop]; decide
    obtain ⟨hadm, hmem, hevt, hquay, hcolls, hrank⟩ := write_admitted hc hst hq hnew hturn hw
      (by rw [if_pos hop]; exact hd) (by rw [if_neg h21]; exact hrs) (if_neg h21).symm h21 herr
    obtain ⟨hwho, hflags⟩ := last_entry hn hadm.last
    refine ⟨_, rfl, hadm.next, hwho, ?_, hflags, hadm.kept, hadm.others, hmem, hevt, hquay, hcolls, hrank⟩
    have hcount : rs.length = c.count := by simp [hrs]
    rw [hadm.last, ← hcount]
    rfl
  case admitDrop =>
    intro s n p c d rs k hc hn hp hst hq hnew hturn hop hk hd hrs herr
    subst hp
    have h33 : c.op ≠ 0x33 := by omega
    have hw : isWriteOp c.op = true := by rw [hop]; decide
    obtain ⟨hadm, hself, hothers, hcmds⟩ := drop_admitted hc hst hq hnew hturn hw
      (by simpa [h33, hk] using hd) (by rw [if_pos hop]; exact hrs) (if_pos hop).symm hop hk herr
    refine ⟨_, rfl, hadm.next, ?_, ?_, fun b hb => ?_, fun w hw => ?_, hadm.kept, hadm.others, hothers⟩
    · rw [hadm.last, ← hn, hrs]
      rfl
    · rw [hself]
      rfl
    · rw [hcmds, Option.mem_def.1 hb]
      exact fun x hx hxn => st_of_mem_abandonCmd_mono (fun x hx hxn => st_of_mem_abandonCmd hx hxn) x hx hxn
    · rw [hcmds, Option.mem_def.1 hw]
      exact fun x hx hxn => st_of_mem_abandonCmd hx hxn
  case full =>
    intro s n p c d rs hr hc hn hp hst hq hnew hturn hw hd hrs hform hexists hvec hroom hquota hfull
    subst hp
    exact ⟨_, rfl, write_full hc hst hq hnew hturn hw hd hrs rfl hr (admitErr_deltaFull hform hexists hvec hroom hquota hfull)⟩
  case durable =>
    intro s n p c e hc hn hp he hq hd hl hop _
    subst hp
    exact durable_ends hc he hq hd hl hop
  case dropDurable =>
    intro s n p c e hc hn hp he hq hd hl hop _
    subst hp
    exact drop_durable hc he hq hd hl hop

end

/-! Proof of O44: MODEL_CREATE, TABLE_CREATE, PROMOTE and DEMOTE. The lemmas go from the hot-row directory of one table (04 R66) over what each
command answers, case by case, to the states they leave. -/

namespace Sys2Proof.Proofs.RankingModelsAndTables

open Sys2Proof Sys2Proof.Machine Sys2Proof.Safety Sys2Proof.Proofs.QueriesAndTheirCompletions

/-! ### The hot-row directory (04 R66) -/

theorem way_setWay_self (t : Table) (k : Nat) (x : HotWay) : (t.setWay k (some x)).way k = some x := tgetO_tset_some t.hot k x

theorem way_setWay_ne (t : Table) {k j : Nat} (x : Option HotWay) (h : j ≠ k) : (t.setWay k x).way j = t.way j :=
  congrArg Option.join (tgetO_tset_ne (fun _ => none) t.hot x h)

/-- Does way `k` hold the row? -/
def holds (t : Table) (row k : Nat) : Bool :=
  match t.way k with
  | some w => w.row = row
  | none => false

theorem find_eq (t : Table) (row : Nat) : t.find row = (t.ways row).find? (holds t row) := rfl

theorem holds_setWay_self (t : Table) (row k : Nat) (x : HotWay) : holds (t.setWay k (some x)) row k = decide (x.row = row) := by
  rw [holds, way_setWay_self]

theorem holds_setWay_ne (t : Table) (row : Nat) {k j : Nat} (x : Option HotWay) (h : j ≠ k) : holds (t.setWay k x) row j = holds t row j := by
  rw [holds, way_setWay_ne t x h, holds]

theorem holds_of_free {t : Table} {k : Nat} (h : t.way k = none) (row : Nat) : holds t row k = false := by rw [holds, h]

theorem free_of_freeWay {t : Table} {row w : Nat} (h : t.freeWay row = some w) : w ∈ t.ways row ∧ t.way w = none :=
  ⟨List.mem_of_find?_eq_some h, by simpa using List.find?_some h⟩

theorem holds_of_find {t : Table} {row w : Nat} (h : t.find row = some w) : holds t row w = true := List.find?_some h

/-- A free way does not hold the row that another way holds. -/
theorem ne_of_find {t : Table} {row k w : Nat} (hk : t.find row = some k) (hw : t.way w = none) : k ≠ w := by
  rintro rfl
  have hold := holds_of_find hk
  rw [holds_of_free hw] at hold
  exact Bool.noConfusion hold

/-- A row that is not hot and is put into a way of its set is found there. -/
theorem find_setWay_self {t : Table} {row w : Nat} {x : HotWay} (hx : x.row = row) (hf : t.find row = none) (hw : w ∈ t.ways row) :
    (t.setWay w (some x)).find row = some w := by
  rw [find_eq] at hf ⊢
  have hno := List.find?_eq_none.1 hf
  have hself : holds (t.setWay w (some x)) row w = true := by rw [holds_setWay_self, hx, decide_eq_true rfl]
  obtain ⟨k, hk⟩ := Option.isSome_iff_exists.1 (List.find?_isSome.2 ⟨w, hw, hself⟩)
  have hkw : k = w := by
    by_contra hne
    have hold := List.find?_some hk
    rw [holds_setWay_ne t row _ hne] at hold
    exact hno k (List.mem_of_find?_eq_some hk) hold
  exact hk.trans (congrArg some hkw)

/-- Another row is found where it was. -/
theorem find_setWay_ne {t : Table} {row r w : Nat} {x : HotWay} (hx : x.row = row) (hr : r ≠ row) (hw : t.way w = none) :
    (t.setWay w (some x)).find r = t.find r := by
  rw [find_eq, find_eq]
  refine List.find?_congr fun j _ => ?_
  by_cases hj : j = w
  · rw [hj, holds_setWay_self, holds_of_free hw, hx, decide_eq_false (Ne.symm hr)]
  · rw [holds_setWay_ne t r _ hj]

theorem row_of_find {t : Table} {row k : Nat} (h : t.find row = some k) : t.row row = ((t.way k).map HotWay.val).getD {} := by
  rw [Table.row, h]

theorem row_of_find_none {t : Table} {row : Nat} (h : t.find row = none) : t.row row = t.widen (t.coldRow row) := by
  rw [Table.row, h]

/-- A cold row whose widened value goes into a free way of its set: no row changes its value (04 R65). -/
theorem row_setWay {t : Table} {row w : Nat} {x : HotWay} (hx : x.row = row) (hv : x.val = t.widen (t.coldRow row)) (hf : t.find row = none)
    (hw : t.freeWay row = some w) (r : Nat) : (t.setWay w (some x)).row r = t.row r := by
  obtain ⟨hmem, hfree⟩ := free_of_freeWay hw
  by_cases hr : r = row
  · rw [hr, row_of_find (find_setWay_self hx hf hmem), way_setWay_self, row_of_find_none hf]
    exact hv
  · have hfind := find_setWay_ne hx hr hfree
    cases hk : t.find r with
    | none =>
      rw [row_of_find_none hk, row_of_find_none (hfind.trans hk)]
      rfl
    | some k => rw [row_of_find hk, row_of_find (hfind.trans hk), way_setWay_ne t _ (ne_of_find hk hfree)]

/-! ### What a row's promotion does to its table -/

/-- The slot of the hot area that a promotion takes. -/
def freeSlot (s : State) (t : Table) : Nat :=
  (pickFree (Config.freeChoice s.fresh) (2 ^ 23) (t.hot.filterMap fun e => e.2.map HotWay.slot)).getD 0

/-- The hot copy that a promotion makes of a table's row. -/
def hotCopy (slot : Nat) (t : Table) (row : Nat) : HotWay := ⟨row, slot, t.widen (t.coldRow row), 0⟩

theorem fillWay_eq {s : State} {m k : Nat} {tb : Table} (ht : s.table m k = some tb) (row w : Nat) :
    s.fillWay m k row w = s.drew.mapTable m k fun t => t.setWay w (some (hotCopy (freeSlot s tb) t row)) := by
  rw [State.fillWay, ht]
  rfl

/-- Of all tables the promoted row's one alone changes, by its new way. -/
theorem table_fillWay {s : State} {m k : Nat} {tb : Table} (ht : s.table m k = some tb) (row w : Nat) :
    (s.fillWay m k row w).table m k = some (tb.setWay w (some (hotCopy (freeSlot s tb) tb row))) ∧
      ∀ j l, (j ≠ m ∨ l ≠ k) → (s.fillWay m k row w).table j l = s.table j l := by
  rw [fillWay_eq ht]
  exact table_mapTable (s := s.drew) ht (fun t => t.setWay w (some (hotCopy (freeSlot s tb) t row))) (fun _ => rfl) fun _ => rfl

/-- The promoted row is hot, and no row of its table changes its value. -/
theorem rows_fillWay {s : State} {m k row w : Nat} {tb : Table} (ht : s.table m k = some tb) (hf : tb.find row = none) (hw : tb.freeWay row = some w) :
    ((s.fillWay m k row w).table m k).bind (fun x => x.find row) = some w ∧
      ((s.fillWay m k row w).table m k).map (fun x => (x.cold, x.queue)) = some (tb.cold, tb.queue) ∧
      ∀ r, ((s.fillWay m k row w).table m k).map (fun x => x.row r) = some (tb.row r) := by
  rw [(table_fillWay ht row w).1]
  exact ⟨find_setWay_self (x := hotCopy (freeSlot s tb) tb row) rfl hf (free_of_freeWay hw).1, rfl,
    fun r => congrArg some (row_setWay (x := hotCopy (freeSlot s tb) tb row) rfl rfl hf hw r)⟩

theorem fillWay_frame {s : State} {m k : Nat} {tb : Table} (ht : s.table m k = some tb) (row w : Nat) : s.fillWay m k row w =
    { s with fresh := s.fresh + 1, rank := { s.rank with tables := (s.fillWay m k row w).rank.tables } } := by
  rw [fillWay_eq ht]
  rfl

/-! ### Models -/

theorem model_setModel_self (s : State) (m : Nat) (v : Model) : (s.setModel m v).model m = some v := tgetO_tset_some s.rank.models m v

theorem model_setModel_ne (s : State) {m j : Nat} (v : Model) (h : j ≠ m) : (s.setModel m v).model j = s.model j :=
  congrArg Option.join (tgetO_tset_ne (fun _ => none) s.rank.models (some v) h)

theorem mapModel_eq {s : State} {m : Nat} {v : Model} (h : s.model m = some v) (f : Model → Model) : s.mapModel m f = s.setModel m (f v) := by
  rw [State.mapModel, h]

/-! ### MODEL_CREATE (04 R69, Table 4-5) -/

/-- No history cache, or one in form. -/
abbrev HistOk (c : Cmd) : Prop :=
  (c.fld 64 2 = 0 ∧ c.fld 66 1 = 0 ∧ c.fld 67 1 = 0 ∧ c.fld 68 1 = 0) ∨
    (16 ≤ c.fld 64 2 ∧ c.fld 64 2 ≤ 2048 ∧ 1 ≤ c.fld 66 1 ∧ c.fld 66 1 ≤ 8 ∧
      (c.fld 67 1 = 32 ∨ c.fld 67 1 = 64 ∨ c.fld 67 1 = 128) ∧ c.fld 68 1 ≤ 1)

/-- The numbers of the models. -/
abbrev liveModels (s : State) : List Nat := (List.range 64).filter fun k => (s.model k).isSome

/-- Those of a partition. -/
abbrev modelsIn (s : State) (p : Nat) : List Nat := (liveModels s).filter fun k => decide ((s.model k).map Model.part = some p)

/-- The model that MODEL_CREATE makes. -/
def newModel (s : State) (c : Cmd) : Model where
  tenant := c.tenant
  part := c.part
  towers := c.fld 40 8
  trained := bitAt c.flags 0
  hist := if c.fld 64 2 = 0 then none else some ⟨c.fld 64 2, c.fld 66 1, c.fld 67 1, c.fld 68 1 = 1, (List.range (c.fld 66 1)).map fun i =>
    (Config.freeChoice (s.fresh + 1) / 2 ^ (64 * i) % 2 ^ 32, Config.freeChoice (s.fresh + 1) / 2 ^ (64 * i + 32) % 2 ^ 32)⟩

theorem modelCreate_eq (s : State) (c : Cmd) : s.modelCreate c =
    if ¬ HistOk c then s.refuse c.n stInvalidParameter
    else if 16 ≤ (modelsIn s c.part).length then s.refuse c.n stCapacity
    else match pickFree (Config.freeChoice s.fresh) 64 (liveModels s) with
      | none => s.refuse c.n stCapacity
      | some m => (s.drew.drew.setModel m (newModel s c)).finish c.n stSuccess m 0 [] := by
  have hform : (if c.fld 64 2 = 0 then decide (c.fld 66 1 = 0 ∧ c.fld 67 1 = 0 ∧ c.fld 68 1 = 0)
      else decide (16 ≤ c.fld 64 2 ∧ c.fld 64 2 ≤ 2048 ∧ 1 ≤ c.fld 66 1 ∧ c.fld 66 1 ≤ 8 ∧
        (c.fld 67 1 = 32 ∨ c.fld 67 1 = 64 ∨ c.fld 67 1 = 128) ∧ c.fld 68 1 ≤ 1)) = false ↔ ¬ HistOk c := by
    split
    · rw [decide_eq_false_iff_not]
      omega
    · rw [decide_eq_false_iff_not]
      omega
  have hmine : (fun m => match s.model m with | some v => decide (v.part = c.part) | none => false) =
      fun k => decide ((s.model k).map Model.part = some c.part) := by
    funext k
    cases s.model k <;> simp
  simp only [State.modelCreate, hform]
  rw [modelsIn, ← hmine]
  rfl

/-- A number that is picked among the free ones is in range and free. -/
theorem pickFree_spec {start count m : Nat} {used : List Nat} (h : pickFree start count used = some m) : m < count ∧ m ∉ used := by
  have hmem := List.mem_of_find?_eq_some h
  have hfree := List.find?_some h
  obtain ⟨i, hi, rfl⟩ := List.mem_map.1 hmem
  rw [List.mem_range] at hi
  exact ⟨Nat.mod_lt _ (by omega), by simpa using hfree⟩

theorem model_none_of_not_live {s : State} {m : Nat} (hlt : m < 64) (h : m ∉ liveModels s) : s.model m = none := by
  by_contra hne
  exact h (List.mem_filter.2 ⟨List.mem_range.2 hlt, Option.isSome_iff_ne_none.2 hne⟩)

theorem newModel_hist (s : State) (c : Cmd) :
    (newModel s c).hist.map (fun p => (p.l, p.h, p.dh, p.int8, p.scales.length)) =
      if c.fld 64 2 = 0 then none else some (c.fld 64 2, c.fld 66 1, c.fld 67 1, decide (c.fld 68 1 = 1), c.fld 66 1) := by
  simp only [newModel]
  split
  · rfl
  · simp

/-! ### TABLE_CREATE (04 R64, Table 4-2) -/

/-- Extra bytes of a row by the command's flags. -/
abbrev extraOf (c : Cmd) : Nat := (if bitAt c.flags 0 then 1 else 0) + (if bitAt c.flags 1 then 4 else 0)

/-- The parameters of TABLE_CREATE are in range. -/
structure TableOk (c : Cmd) : Prop where
  rows : 1 ≤ c.fld 64 8 ∧ c.fld 64 8 ≤ 2 ^ 40
  dim : 8 ≤ c.fld 72 2 ∧ c.fld 72 2 ≤ 512 ∧ c.fld 72 2 % 8 = 0
  fmt : c.fld 74 1 = 0 ∨ c.fld 74 1 = 1 ∨ c.fld 74 1 = 5 ∨ c.fld 74 1 = 6
  sets : 4 ≤ c.fld 75 1 ∧ c.fld 75 1 ≤ 19
  late : c.fld 76 1 ≤ 2
  grace : c.fld 78 2 ≤ 5000
  len : c.len0 = if c.fld 76 1 = 2 then alignUp (2 * c.fld 72 2 + extraOf c) 4 else 0

/-- The table that TABLE_CREATE appends: number `k` of its model, object `i` of hub `h`. -/
def newTable (s : State) (c : Cmd) (v : Model) (h k i : Nat) : Table where
  model := c.object
  num := k
  tenant := v.tenant
  part := v.part
  hub := h
  number := i
  salt := tgetD 0 s.tier.salts (h * 2 ^ 20 + i)
  rows := c.fld 64 8
  dim := c.fld 72 2
  coldFmt := c.fld 74 1
  hasScale := bitAt c.flags 0
  hasAcc := bitAt c.flags 1
  logSets := c.fld 75 1
  late := c.fld 76 1
  grace := c.fld 78 2
  dflt := if c.fld 76 1 = 2 then c.payload else []

/-- The flash that a table's rows take, in MiB. -/
abbrev flashUnits (c : Cmd) (f : Fm) : Nat := ceilDiv (c.fld 64 8 * (f.bytes (c.fld 72 2) + extraOf c)) (2 ^ 20)

/-- The module after a table was charged and appended. -/
def withTable (s : State) (t : Table) (u : Nat) : State :=
  let s := s.drew.drew.drew.chargeTo t.tenant 3 u
  { s with rank := { s.rank with tables := s.rank.tables ++ [t] } }

theorem cmdModel_ok {s : State} {c : Cmd} {v : Model} (hv : s.model c.object = some v) (ht : v.tenant = c.tenant) : s.cmdModel c = .ok v := by
  simp only [State.cmdModel, hv, if_pos ht]

theorem tableCreate_eq {s : State} {c : Cmd} {v : Model} {f : Fm} {k i : Nat} (hv : s.cmdModel c = .ok v) (hok : TableOk c)
    (hf : fmOf (c.fld 74 1) = some f) (hquota : s.quotaOk v.tenant 3 (flashUnits c f) = true) (hroom : s.flashRoom v.part (flashUnits c f) = true)
    (hk : pickFree (Config.freeChoice (s.fresh + 1)) 4096 ((s.rank.tables.filter (·.model = c.object)).map Table.num) = some k)
    (hi : pickFree (Config.freeChoice (s.fresh + 2)) (2 ^ 20) (((s.tier.objs.filter (·.hub = Config.freeChoice s.fresh % 4)).map Obj.number) ++
      ((s.rank.tables.filter (·.hub = Config.freeChoice s.fresh % 4)).map Table.number)) = some i) :
    s.tableCreate c = (withTable s (newTable s c v (Config.freeChoice s.fresh % 4) k i) (flashUnits c f)).finish c.n stSuccess k 0 [] := by
  obtain ⟨⟨hr1, hr2⟩, ⟨hd1, hd2, hd3⟩, hfmt, ⟨hs1, hs2⟩, hlate, hgrace, hlen⟩ := hok
  have hparams : ¬ (c.fld 64 8 = 0 ∨ 2 ^ 40 < c.fld 64 8 ∨ c.fld 72 2 < 8 ∨ 512 < c.fld 72 2 ∨ c.fld 72 2 % 8 ≠ 0 ∨
      ¬ (c.fld 74 1 = 0 ∨ c.fld 74 1 = 1 ∨ c.fld 74 1 = 5 ∨ c.fld 74 1 = 6) ∨ c.fld 75 1 < 4 ∨ 19 < c.fld 75 1 ∨ 2 < c.fld 76 1 ∨
      5000 < c.fld 78 2 ∨ c.len0 ≠ if c.fld 76 1 = 2 then alignUp (2 * c.fld 72 2 + extraOf c) 4 else 0) := by
    have hno : ¬ c.len0 ≠ if c.fld 76 1 = 2 then alignUp (2 * c.fld 72 2 + extraOf c) 4 else 0 := not_not_intro hlen
    omega
  simp only [State.tableCreate, hv, Table.hotBytes, Table.coldBytes, Table.extra, Table.fm, hf, Option.getD_some, if_neg hparams, tierUnit, if_true,
    hquota, hroom, Bool.true_eq_false, if_false, hk, hi]
  rfl

theorem chargeTo_eq (s : State) (t k u : Nat) :
    s.chargeTo t k u = s.setFld (.tnTier (4 * t + k)) TN_TIER_USE (min (s.use t k + u) (2 ^ 32 - 1)) := rfl

theorem use_chargeTo_self {s : State} (h : RegsOk s) (t k u : Nat) : (s.chargeTo t k u).use t k = min (s.use t k + u) (2 ^ 32 - 1) := by
  have hlt : min (s.use t k + u) (2 ^ 32 - 1) < 2 ^ TN_TIER_USE.w := by
    simp only [TN_TIER_USE]
    omega
  rw [chargeTo_eq, State.use, State.fld_setFld_self _ _ _ _ h (by decide), Nat.mod_eq_of_lt hlt]

theorem regsBut_setFld (s : State) (r : Reg) (f : Fld) (v : Nat) : RegsBut [r] s (s.setFld r f v) :=
  fun o ho => State.tget_setFld_ne s r f v o (ho r (List.mem_singleton_self r))

theorem regsBut_chargeTo (s : State) (t k u : Nat) : RegsBut [.tnTier (4 * t + k)] s (s.chargeTo t k u) := by
  rw [chargeTo_eq]
  exact regsBut_setFld s (.tnTier (4 * t + k)) TN_TIER_USE _

theorem use_drew (s : State) (t k : Nat) : s.drew.use t k = s.use t k := rfl

theorem drew_setFld (s : State) (r : Reg) (f : Fld) (v : Nat) : s.drew.setFld r f v = (s.setFld r f v).drew := by
  have hset (w : Word) : s.drew.setReg r w = (s.setReg r w).drew := rfl
  exact hset _

theorem drew_chargeTo (s : State) (t k u : Nat) : s.drew.chargeTo t k u = (s.chargeTo t k u).drew := by
  rw [chargeTo_eq, chargeTo_eq, use_drew, drew_setFld]

/-- Beside the charge, which changes registers alone, the new table and three draws. -/
theorem withTable_eq (s : State) (t : Table) (u : Nat) : ∃ rs : Tab Word, s.chargeTo t.tenant 3 u = { s with regs := rs } ∧
    withTable s t u = { s with regs := rs, fresh := s.fresh + 3, rank := { s.rank with tables := s.rank.tables ++ [t] } } := by
  obtain ⟨rs, hcharge⟩ : ∃ rs : Tab Word, s.chargeTo t.tenant 3 u = { s with regs := rs } := ⟨_, rfl⟩
  refine ⟨rs, hcharge, ?_⟩
  simp only [withTable, drew_chargeTo, hcharge]
  rfl

/-! ### PROMOTE and DEMOTE (04 R66, R67) -/

/-- The refusals of a command that names a row. -/
theorem cmdRow_error {s : State} {c : Cmd} {st : Nat} {v : Model} {tb : Table}
    (h : (st = stNoObject ∧ s.model c.object = none) ∨ (st = stNotOwner ∧ s.model c.object = some v ∧ v.tenant ≠ c.tenant) ∨
      (s.model c.object = some v ∧ v.tenant = c.tenant ∧ ((st = stNoObject ∧ s.table c.object (c.fld 48 2) = none) ∨
        (st = stInvalidParameter ∧ s.table c.object (c.fld 48 2) = some tb ∧ tb.rows ≤ c.fld 40 8)))) : s.cmdRow c = .error st := by
  rcases h with ⟨rfl, hv⟩ | ⟨rfl, hv, ht⟩ | ⟨hv, ht, h⟩
  · simp only [State.cmdRow, State.cmdModel, hv]
  · simp only [State.cmdRow, State.cmdModel, hv, if_neg ht]
  · rcases h with ⟨rfl, htb⟩ | ⟨rfl, htb, hrow⟩
    · simp only [State.cmdRow, cmdModel_ok hv ht, htb]
    · simp only [State.cmdRow, cmdModel_ok hv ht, htb, if_neg (Nat.not_lt.2 hrow)]

theorem cmdRow_ok {s : State} {c : Cmd} {v : Model} {tb : Table} (hv : s.model c.object = some v) (ht : v.tenant = c.tenant)
    (htb : s.table c.object (c.fld 48 2) = some tb) (hrow : c.fld 40 8 < tb.rows) : s.cmdRow c = .ok tb := by
  simp only [State.cmdRow, cmdModel_ok hv ht, htb, if_pos hrow]

section

variable {s : State} {c : Cmd} {tb : Table}

theorem promote_error {e : Nat} (h : s.cmdRow c = .error e) : s.promote c = s.refuse c.n e := by simp only [State.promote, h]

theorem promote_hot (h : s.cmdRow c = .ok tb) (hf : (tb.find (c.fld 40 8)).isSome = true) : s.promote c = s.finish c.n stSuccess 0 0 [] := by
  obtain ⟨k, hk⟩ := Option.isSome_iff_exists.1 hf
  simp only [State.promote, h, hk]

theorem promote_full (h : s.cmdRow c = .ok tb) (hf : tb.find (c.fld 40 8) = none) (hw : tb.freeWay (c.fld 40 8) = none) :
    s.promote c = s.refuse c.n stCapacity := by
  simp only [State.promote, h, hf, hw]

theorem promote_cold {w : Nat} (h : s.cmdRow c = .ok tb) (hf : tb.find (c.fld 40 8) = none) (hw : tb.freeWay (c.fld 40 8) = some w) :
    s.promote c = (s.fillWay tb.model tb.num (c.fld 40 8) w).finish c.n stSuccess 0 0 [] := by
  simp only [State.promote, h, hf, hw]

theorem demote_done (h : s.cmdRow c = .ok tb) (hq : tb.find (c.fld 40 8) = none ∨ c.fld 40 8 ∈ tb.queue) :
    s.demote c = s.finish c.n stSuccess 0 0 [] := by
  have hdone : (tb.find (c.fld 40 8)).isNone = true ∨ tb.queue.contains (c.fld 40 8) = true := by simpa using hq
  simp only [State.demote, h, if_pos hdone]

theorem demote_full (h : s.cmdRow c = .ok tb) (hf : (tb.find (c.fld 40 8)).isSome = true) (hq : c.fld 40 8 ∉ tb.queue)
    (hl : 4096 ≤ tb.queue.length) : s.demote c = s.refuse c.n stCapacity := by
  have hnew : ¬ ((tb.find (c.fld 40 8)).isNone = true ∨ tb.queue.contains (c.fld 40 8) = true) := by
    obtain ⟨k, hk⟩ := Option.isSome_iff_exists.1 hf
    simpa [hk] using hq
  simp only [State.demote, h, if_neg hnew, if_pos hl]

/-- A row of a table queued at its hub. -/
def queued (s : State) (t : Table) (row : Nat) : State := s.mapTable t.model t.num fun t => { t with queue := t.queue ++ [row] }

theorem table_queued {m k : Nat} (ht : s.table m k = some tb) (row : Nat) :
    (queued s tb row).table m k = some { tb with queue := tb.queue ++ [row] } ∧
      ∀ j l, (j ≠ m ∨ l ≠ k) → (queued s tb row).table j l = s.table j l := by
  obtain ⟨rfl, rfl⟩ := table_key ht
  exact table_mapTable ht (fun t => { t with queue := t.queue ++ [row] }) (fun _ => rfl) fun _ => rfl

/-- A model whose first demotion since its last window came by now. -/
def demoting (s : State) (v : Model) : Model := { v with gate := { v.gate with demoteAt := some (v.gate.demoteAt.getD s.svcTime) } }

theorem demote_hot {w : Nat} {v : Model} (h : s.cmdRow c = .ok tb) (hf : tb.find (c.fld 40 8) = some w)
    (hq : tb.queue.contains (c.fld 40 8) = false) (hl : tb.queue.length < 4096) (hv : s.model tb.model = some v) :
    s.demote c = ((queued s tb (c.fld 40 8)).setModel tb.model (demoting s v)).finish c.n stSuccess 0 0 [] := by
  have hnew : ¬ ((tb.find (c.fld 40 8)).isNone = true ∨ tb.queue.contains (c.fld 40 8) = true) := by
    rw [hf, hq]
    simp
  simp only [State.demote, h, if_neg hnew, if_neg (Nat.not_le.2 hl)]
  rw [mapModel_eq (s := s.mapTable tb.model tb.num _) hv]
  rfl

end

/-! ### Answers of a command -/

theorem exec_onCmd {s : State} {n op : Nat} {c : Cmd} (h : Fetched n op c s) {f : State → Cmd → State} {t : State} (he : f s c = t) :
    (Host.Outcome.next (s.onCmd n op f) : Res) = .next t := congrArg _ ((onCmd_fetched h f).trans he)

/-- A command that only ends changes nothing else. -/
theorem exec_ends {s : State} {n op st : Nat} {c : Cmd} {f : State → Cmd → State} (h : Fetched n op c s) (hn : c.n = n)
    (he : f s c = s.finish c.n st 0 0 []) : ∃ t : State, (Host.Outcome.next (s.onCmd n op f) : Res) = .next t ∧ Ended n st 0 0 [] s t ∧
      t = { s with quay := { s.quay with cmds := t.quay.cmds } } := by
  subst hn
  exact ⟨_, exec_onCmd h he, rfl, rfl⟩

end Sys2Proof.Proofs.RankingModelsAndTables

section

open Sys2Proof Sys2Proof.Machine Sys2Proof.Safety Sys2Proof.Proofs.RankingModelsAndTables Sys2Proof.Proofs.QueriesAndTheirCompletions

/-- Settles O44: each command's answer is read off its parameters and the row or table that it names; a promotion keeps every row's value
because the way that it fills held nothing. -/
theorem rankingModelsAndTables : Obligations.RankingModelsAndTables := by
  unfold Obligations.RankingModelsAndTables
  refine ⟨?create, ?createBad, ?createFull, ?table, ?promote, ?promoteFull, ?promoteHot, ?demoteNot, ?promoteBad, ?demote⟩
  case create =>
    intro s n m c hf hn hform hmine hm
    subst hn
    obtain ⟨hlt, hfree⟩ := pickFree_spec hm
    have he : s.modelCreate c = (s.drew.drew.setModel m (newModel s c)).finish c.n stSuccess m 0 [] := by
      rw [modelCreate_eq, if_neg (not_not_intro hform), if_neg (Nat.not_le.2 hmine), hm]
    have hself : ((s.drew.drew.setModel m (newModel s c)).finish c.n stSuccess m 0 []).model m = some (newModel s c) :=
      model_setModel_self s.drew.drew m (newModel s c)
    refine ⟨_, exec_onCmd hf he, rfl, hlt, model_none_of_not_live hlt hfree, ?_, ?_, ?_,
      fun k hk => model_setModel_ne s.drew.drew (newModel s c) hk, rfl⟩
    · rw [hself]
      rfl
    · rw [hself, Option.map_some, newModel_hist]
    · rw [hself]
      rfl
  case createBad =>
    intro s n c hf hn hform
    have he : s.modelCreate c = s.refuse c.n stInvalidParameter := by rw [modelCreate_eq, if_pos hform]
    exact exec_ends hf hn he
  case createFull =>
    intro s n c hf hn hform hmine
    have he : s.modelCreate c = s.refuse c.n stCapacity := by rw [modelCreate_eq, if_neg (not_not_intro hform), if_pos hmine]
    exact exec_ends hf hn he
  case table =>
    intro s n h k i u c v f hr hf hn hv ht hr1 hr2 hd1 hd2 hd3 hfmt hfm hs1 hs2 hlate hgrace hlen hu hquota hroom hh hk hi
    subst hn hh hu
    have he := tableCreate_eq (cmdModel_ok hv ht) ⟨⟨hr1, hr2⟩, ⟨hd1, hd2, hd3⟩, hfmt, ⟨hs1, hs2⟩, hlate, hgrace, hlen⟩ hfm
      hquota hroom hk hi
    have hlast : (withTable s (newTable s c v (Config.freeChoice s.fresh % 4) k i) (flashUnits c f)).rank.tables.getLast? =
        some (newTable s c v (Config.freeChoice s.fresh % 4) k i) := List.getLast?_concat
    obtain ⟨rs, hcharge, htable⟩ := withTable_eq s (newTable s c v (Config.freeChoice s.fresh % 4) k i) (flashUnits c f)
    have huse := use_chargeTo_self hr v.tenant 3 (flashUnits c f)
    have hregs := regsBut_chargeTo s v.tenant 3 (flashUnits c f)
    rw [show s.chargeTo v.tenant 3 (flashUnits c f) = _ from hcharge] at huse hregs
    rw [htable] at he hlast
    exact ⟨_, exec_onCmd hf he, rfl, List.dropLast_concat, congrArg (Option.map _) hlast,
      congrArg (Option.map _) hlast, congrArg (Option.map _) hlast, huse, hregs, rfl⟩
  case promote =>
    intro s n m k row c v tb w hf hn hm hk hrow hv ht htb hlt hcold hfree
    subst hn hm hk hrow
    have he := promote_cold (cmdRow_ok hv ht htb hlt) hcold hfree
    obtain ⟨hmodel, hnum⟩ := table_key htb
    rw [hmodel, hnum] at he
    obtain ⟨hfind, hkept, hrows⟩ := rows_fillWay htb hcold hfree
    obtain ⟨-, hothers⟩ := table_fillWay htb (c.fld 40 8) w
    refine ⟨_, exec_onCmd hf he, ?_, hfind, hkept, hrows, hothers, ?_⟩
    · rw [fillWay_frame htb]
      rfl
    · rw [fillWay_frame htb]
      rfl
  case promoteFull =>
    intro s n m k row c v tb hf hn hm hk hrow hv ht htb hlt hcold hfull
    subst hm hk hrow
    exact exec_ends hf hn (promote_full (cmdRow_ok hv ht htb hlt) hcold hfull)
  case promoteHot =>
    intro s n m k row c v tb hf hn hm hk hrow hv ht htb hlt hhot
    subst hm hk hrow
    exact exec_ends hf hn (promote_hot (cmdRow_ok hv ht htb hlt) hhot)
  case demoteNot =>
    intro s n m k row c v tb st hf hn hm hk hrow hv ht htb hlt hst
    subst hm hk hrow
    have hok := cmdRow_ok hv ht htb hlt
    rcases hst with ⟨rfl, hdone⟩ | ⟨rfl, hhot, hnew, hfull⟩
    · exact exec_ends hf hn (demote_done hok hdone)
    · exact exec_ends hf hn (demote_full hok hhot hnew hfull)
  case promoteBad =>
    intro s n m k row c v tb st hf hn hm hk hrow hbad
    subst hm hk hrow
    exact exec_ends hf hn (promote_error (cmdRow_error hbad))
  case demote =>
    intro s n m k row c v tb w hf hn hm hk hrow hv ht htb hlt hhot hnew hroom
    subst hn hm hk hrow
    obtain ⟨hmodel, hnum⟩ := table_key htb
    have he := demote_hot (cmdRow_ok hv ht htb hlt) hhot hnew hroom (hmodel ▸ hv)
    rw [hmodel] at he
    obtain ⟨hself, hothers⟩ := table_queued htb (c.fld 40 8)
    exact ⟨_, exec_onCmd hf he, rfl, hself, hothers, model_setModel_self _ _ _,
      fun j hj => model_setModel_ne (queued s tb _) _ hj, rfl⟩

end

/-! Refutation of O45. Its clause on a queued row's demotion takes any hot-row directory, where it asks of the cold rows that their table
is in canonical form. A directory that lists one way twice loses its first entry, and reads the second. -/

namespace Sys2Proof.Proofs.StepWindowsAndLookupStages

open Sys2Proof Sys2Proof.Machine Sys2Proof.Safety Sys2Proof.Proofs.QueriesAndTheirCompletions Sys2Proof.Proofs.ResetsTheFlushAndRecovery

/-! ### What a demotion takes out of the directory (04 R67) -/

theorem rank_ite {p : Prop} [Decidable p] {s a b : State} (ha : a.rank = s.rank) (hb : b.rank = s.rank) : (if p then a else b).rank = s.rank := by
  split
  · exact ha
  · exact hb

theorem count_rank (s : State) (k log src : Nat) (c : Cnt) : (s.count k log src c).rank = s.rank := by
  unfold State.count
  refine rank_ite rfl (rank_ite ?_ ?_)
  · rw [State.raiseRec_rank, State.setFld_rank, State.incFld_rank, State.setFld_rank, State.incFld_rank, State.incFld_rank, State.incFld_rank]
  · rw [State.setFld_rank, State.incFld_rank, State.incFld_rank, State.incFld_rank]

theorem program_rank (s : State) (n : Nat) : (s.program n).rank = s.rank := by
  obtain ⟨w, ev, pw, h⟩ := program_eq s n
  rw [h]
  exact State.setFld_rank s .flStat FL_STAT_WEAR w

theorem table_of_tables {s t : State} (h : t.rank.tables = s.rank.tables) (m k : Nat) : t.table m k = s.table m k := by
  rw [State.table, h, State.table]

theorem mapModel_tables (s : State) (m : Nat) (f : Model → Model) : (s.mapModel m f).rank.tables = s.rank.tables := by
  rw [State.mapModel]
  split
  · rfl
  · rfl

section

variable {s : State} {m k row w : Nat} {tb : Table} {x : HotWay}

/-- A demotion writes nothing into its way. -/
theorem hot_demoteWay (ht : s.table m k = some tb) (hx : tb.way w = some x) :
    ((s.demoteWay m k w).table m k).map Table.hot = some (tb.setWay w none).hot := by
  obtain ⟨f, hrank, hf, hm, hn⟩ : ∃ f : Table → Table, (s.demoteWay m k w).rank = (s.mapTable m k f).rank ∧
      (f tb).hot = (tb.setWay w none).hot ∧ (∀ t, (f t).model = t.model) ∧ ∀ t, (f t).num = t.num := by
    simp only [State.demoteWay, ht, hx, program_rank, count_rank]
    exact ⟨_, rfl, rfl, fun _ => rfl, fun _ => rfl⟩
  rw [table_of_tables (congrArg RankState.tables hrank), (table_mapTable ht f hm hn).1, Option.map_some, hf]

/-- The one queued row of a table is demoted. -/
theorem hot_demoteQueue (ht : s.table tb.model tb.num = some tb) (hq : tb.queue = [row]) (hf : tb.find row = some w) (hx : tb.way w = some x) :
    ((s.demoteQueue tb).table tb.model tb.num).map Table.hot = some (tb.setWay w none).hot := by
  obtain ⟨u, hu, hhot⟩ := Option.map_eq_some_iff.1 (hot_demoteWay ht hx)
  simp only [State.demoteQueue, hq, List.foldl_cons, List.foldl_nil, ht, Option.bind_some, hf]
  rw [(table_mapTable hu (fun t => { t with queue := [] }) (fun _ => rfl) fun _ => rfl).1, ← hhot]
  rfl

/-- A close that starts no stage changes the tables by the queued demotions alone. -/
theorem tables_windowClose {v : Model} (hv : s.model m = some v) (hopen : v.gate.open_ = true) (hwait : v.gate.waiting = []) :
    (s.windowClose m).rank.tables = ((s.rank.tables.filter (·.model = m)).foldl State.demoteQueue s).rank.tables := by
  simp only [State.windowClose, hv, hopen, hwait, not_true_eq_false, if_false, List.foldl_nil]
  split
  · exact (mapModel_tables ..).trans (by simp only [State.setFld_rank])
  · exact (mapModel_tables ..).trans (by simp only [State.setFld_rank])

/-- A close of a model whose one table has one queued row. -/
theorem hot_windowClose {v : Model} (hv : s.model m = some v) (hopen : v.gate.open_ = true) (hwait : v.gate.waiting = [])
    (htabs : s.rank.tables.filter (·.model = m) = [tb]) (ht : s.table m tb.num = some tb) (hm : tb.model = m) (hq : tb.queue = [row])
    (hf : tb.find row = some w) (hx : tb.way w = some x) : ((s.windowClose m).table m tb.num).map Table.hot = some (tb.setWay w none).hot := by
  have htables := tables_windowClose hv hopen hwait
  subst hm
  rw [htabs, List.foldl_cons, List.foldl_nil] at htables
  rw [table_of_tables htables, hot_demoteQueue ht hq hf hx]

end

/-! ### The counterexample -/

/-- The hot copy of row 0 in a slot of the hot area. -/
def copyAt (slot : Nat) : HotWay := ⟨0, slot, {}, 0⟩

/-- Table 0 of model 0, whose row 0 is queued for demotion; its directory lists way 0 twice. -/
def doubledTable : Table where
  model := 0
  num := 0
  tenant := 0
  part := 0
  hub := 0
  number := 0
  salt := 0
  rows := 1
  dim := 8
  coldFmt := 1
  hasScale := false
  hasAcc := false
  logSets := 4
  late := 0
  grace := 0
  dflt := []
  hot := [(0, some (copyAt 0)), (0, some (copyAt 1))]
  queue := [0]

/-- Model 0, whose window is open. -/
def openModel : Model where
  tenant := 0
  part := 0
  towers := 0
  trained := true
  hist := none
  gate := { open_ := true }

/-- After reset, but with that model and table. -/
def doubledState : State := { State.reset with rank := { models := [(0, some openModel)], tables := [doubledTable] } }

/-- The demotion takes one entry of the way out, and the other one is left. -/
theorem hot_windowClose_doubledState : ((doubledState.windowClose 0).table 0 0).map Table.hot = some [(0, some (copyAt 1))] :=
  hot_windowClose (v := openModel) (tb := doubledTable) (row := 0) (w := 0) (x := copyAt 0) rfl rfl rfl rfl rfl rfl rfl (by decide) rfl

theorem way_of_hot {t : Table} (h : t.hot = [(0, some (copyAt 1))]) : t.way 0 = some (copyAt 1) := by
  rw [Table.way, h]
  rfl

end Sys2Proof.Proofs.StepWindowsAndLookupStages

section

open Sys2Proof Sys2Proof.Machine Sys2Proof.Safety Sys2Proof.Proofs.StepWindowsAndLookupStages

/-- Refutes O45: its clause on the demotion of a queued row asks nothing of the table's hot-row directory. `doubledState` is reset but for
a model with an open window and a table whose directory lists way 0 twice; the close takes the first entry out, and way 0 then holds the
second one's copy and not nothing. (No command lists a way twice: every write of the directory keeps its canonical form. The clause
wants `twf` of `tb.hot` as a hypothesis, as it has it of `tb.cold`.) -/
theorem not_stepWindowsAndLookupStages : ¬ Obligations.StepWindowsAndLookupStages := by
  unfold Obligations.StepWindowsAndLookupStages
  rintro ⟨-, -, -, -, -, -, -, -, hdemoted, -⟩
  obtain ⟨t, hstep, -, hway, -⟩ := hdemoted doubledState 0 0 0 0 openModel doubledTable (copyAt 0) (by decide) (by decide) rfl rfl rfl rfl rfl rfl
    rfl rfl rfl rfl (by decide)
  obtain rfl : doubledState.windowClose 0 = t := by injection hstep
  obtain ⟨u, hu, hhot⟩ := Option.map_eq_some_iff.1 hot_windowClose_doubledState
  rw [hu, Option.map_some, way_of_hot hhot] at hway
  exact Option.some_ne_none _ (congrArg Prod.fst (Option.some_injective _ hway))

end

/-! Refutation of O29. Its clause on what the hub gives a bank after a LOADQ asks nothing of the table of the commands that the hub holds
back. One that lists a bank twice gives it the same command twice: the first to enter the queue takes one entry out, and the other is left. -/

namespace Sys2Proof.Proofs.NearBankLatchesMasksAndThresholds

open Sys2Proof Sys2Proof.Machine

theorem exec_loadq {g : Nat} (hg : g < 4096) (b : Bool) (s : State) : exec (.loadq g b) s = .next (s.loadq g b) := by
  show execLoadq g b s = _
  rw [execLoadq, if_pos hg]

/-- A LOADQ of latch 0 with all 8,192 bits of query row Q0 (05 Table 5-5). -/
def loadqCmd : NbuCmd where
  bytes := [1#8, 0#8, 0#8, 0#8, 1#8, 8#8] ++ List.replicate 26 0#8
  src := 0
  thr := 0

/-- A MASKT, which enters a bank's queue (05 R90). -/
def masktCmd : NbuCmd where
  bytes := 3#8 :: List.replicate 31 0#8
  src := 0
  thr := 0

/-- After reset, but a LOADQ stands in bank 0's queue, and the table of what the hub holds back lists the bank twice, with a MASKT each. -/
def doubledState : State :=
  { State.reset with sk := { nbus := [(0, { cmds := [loadqCmd] })], hubq := [(0, [masktCmd]), (0, [masktCmd])] } }

theorem cmdStatus_doubledState : doubledState.cmdStatus 0 loadqCmd = 0 := by decide +kernel

theorem cmds_loadq_doubledState : ((doubledState.loadq 0 false).nbu 0).cmds = [masktCmd, masktCmd] := by decide +kernel

end Sys2Proof.Proofs.NearBankLatchesMasksAndThresholds

section

open Sys2Proof Sys2Proof.Machine Sys2Proof.Proofs.NearBankLatchesMasksAndThresholds

/-- Refutes O29: its third clause wants one command in the bank's queue, and after the LOADQ of `doubledState` two stand there. (No
command lists a bank twice: every write of the table keeps its canonical form. The clause wants `twf` of `s.sk.hubq` as a hypothesis,
as those of SETTHR and ABORT have it.) -/
theorem not_nearBankLatchesMasksAndThresholds : ¬ Obligations.NearBankLatchesMasksAndThresholds := by
  unfold Obligations.NearBankLatchesMasksAndThresholds
  rintro ⟨-, -, hfed, -⟩
  obtain ⟨t, hstep, hcmds⟩ := hfed doubledState 0 loadqCmd [] masktCmd (by decide) rfl rfl (by decide) cmdStatus_doubledState rfl rfl rfl (by decide)
  rw [exec_loadq (by decide), Host.Outcome.next.injEq] at hstep
  rw [← hstep, cmds_loadq_doubledState] at hcmds
  exact absurd (congrArg List.length hcmds) (by decide)

end

/-! Refutation of O30. Its clause that cuts a SCREEN into its row operations asks nothing of the order of the units' table. In a table
out of order the first row operation writes an entry of its own before the bank's, and the one that ends the command takes that one out;
done in one go, the command takes out the bank's entry itself. -/

namespace Sys2Proof.Proofs.ScreenAndDotProducts

open Sys2Proof Sys2Proof.Machine

theorem exec_screen {g : Nat} (hg : g < 4096) (ops : Nat) (b : Bool) (s : State) : exec (.screen g ops b) s = .next (s.screen g ops b) := by
  show execScreen g ops b s = _
  rw [execScreen, if_pos hg]

/-- A SCREEN of three rows that names no latch (05 Table 5-5), with token 0. -/
def screenCmd : NbuCmd where
  bytes := [5#8, 0#8, 0#8, 0#8, 0#8, 0#8, 0#8, 0#8, 3#8] ++ List.replicate 23 0#8
  src := 0
  thr := 0

/-- A unit as after reset, but that command is in front and has done one row operation: its end leaves the unit as after reset. -/
def busyUnit : Nbu where
  cmds := [screenCmd]
  prog := 1

/-- After reset, but banks 0 and 1 have such units, and the units' table lists bank 1 first. -/
def unsortedState : State := { State.reset with sk := { nbus := [(1, busyUnit), (0, busyUnit)] } }

theorem cmds_screen_at_once : ((unsortedState.screen 0 2 false).nbu 0).cmds = [] := by decide +kernel

theorem cmds_screen_one_by_one : (((unsortedState.screen 0 1 false).screen 0 1 false).nbu 0).cmds = [screenCmd] := by decide +kernel

end Sys2Proof.Proofs.ScreenAndDotProducts

section

open Sys2Proof Sys2Proof.Machine Sys2Proof.Proofs.ScreenAndDotProducts

/-- Refutes O30: by its fourth clause two row operations at once do what they do one after the other. In `unsortedState` the two at once
end the command of bank 0, and one after the other they leave it in progress. (No command leaves the units' table out of order: every
write of it keeps its canonical form. The clause, and DOT's like it, wants `twf` of `s.sk.nbus` as a hypothesis, as the clauses before it
have it.) -/
theorem not_screenAndDotProducts : ¬ Obligations.ScreenAndDotProducts := by
  unfold Obligations.ScreenAndDotProducts
  rintro ⟨-, -, -, hsplit, -⟩
  have hstep := hsplit unsortedState 0 1 screenCmd [] (by decide) rfl (by decide) (Or.inl (by decide)) (by decide) (by decide)
  simp only [exec_screen (show 0 < 4096 by decide), Host.Outcome.next.injEq] at hstep
  have hcmds := cmds_screen_one_by_one
  rw [← hstep, cmds_screen_at_once] at hcmds
  exact List.cons_ne_nil _ _ hcmds.symm

end

/-! O31 stays open: it holds exactly if the code of TIDE_SOURCE sets no global interrupt cause. Its clause on a pass of any rows keeps every
register but SK_TIDE and SK_CTL, also where a row's source is lost; the pass then raises TIDE_SOURCE, and an event whose code has a cause
(18 R421) sets a bit of GLB_INT. The spec gives that event no code, so that the model takes it from a constant without a value
(`Config.openCode`, log entry 2), and neither O31 nor its negation follows. Every other clause is proved here. -/

namespace Sys2Proof.Proofs.SketchRegionsTideAndTemperature

open Sys2Proof Sys2Proof.Machine Sys2Proof.Safety
open Sys2Proof.Proofs.RankingModelsAndTables (regsBut_setFld)

/-! ### Registers that a change leaves as they were -/

theorem regsBut_trans {rs : List Reg} {s t u : State} (h : RegsBut rs s t) (g : RegsBut rs t u) : RegsBut rs s u :=
  fun o ho => (g o ho).trans (h o ho)

theorem regsBut_mono {rs qs : List Reg} {s t : State} (h : RegsBut rs s t) (hs : rs ⊆ qs) : RegsBut qs s t :=
  fun o ho => h o fun r hr => ho r (hs hr)

theorem regsBut_of_regs {s t : State} (rs : List Reg) (h : t.regs = s.regs) : RegsBut rs s t := fun o _ => by rw [h]

theorem reg_of_regsBut {rs : List Reg} {s t : State} (h : RegsBut rs s t) {r : Reg} (hr : ∀ x ∈ rs, regOff r ≠ regOff x) : t.reg r = s.reg r :=
  h _ hr

theorem fld_of_regsBut {rs : List Reg} {s t : State} (h : RegsBut rs s t) {r : Reg} (hr : ∀ x ∈ rs, regOff r ≠ regOff x) (f : Fld) :
    t.fld r f = s.fld r f := by
  rw [State.fld, reg_of_regsBut h hr, State.fld]

theorem flag_of_regsBut {rs : List Reg} {s t : State} (h : RegsBut rs s t) {r : Reg} (hr : ∀ x ∈ rs, regOff r ≠ regOff x) (f : Fld) :
    t.flag r f = s.flag r f := by
  rw [State.flag, fld_of_regsBut h hr, State.flag]

theorem flag_setFld_self {s : State} (h : RegsOk s) (r : Reg) (f : Fld) (b : Prop) [Decidable b] (hf : f.lo + f.w ≤ 64) (hw : 0 < f.w) :
    (s.setFld r f (if b then 1 else 0)).flag r f = decide b := by
  have hone : 1 % 2 ^ f.w = 1 := Nat.mod_eq_of_lt (Nat.one_lt_two_pow (by omega))
  rw [State.flag, State.fld_setFld_self _ _ _ _ h hf]
  by_cases hb : b <;> simp [hb, hone]

/-- Nothing but registers changed. -/
def OnlyRegs (s t : State) : Prop := ∃ rs : Tab Word, t = { s with regs := rs }

theorem OnlyRegs.trans {s t u : State} (h : OnlyRegs s t) (g : OnlyRegs t u) : OnlyRegs s u := by
  obtain ⟨_, rfl⟩ := h
  obtain ⟨rs, rfl⟩ := g
  exact ⟨rs, rfl⟩

theorem onlyRegs_setFld (s : State) (r : Reg) (f : Fld) (v : Nat) : OnlyRegs s (s.setFld r f v) := ⟨_, rfl⟩

/-! ### SK_REGION (05 R100, R111) -/

theorem writeFlds_skRegion (ok : LockKind → Bool) (mask v n : Nat) (w : Word) : writeFlds ok mask v (regFields (.skRegion n)) w =
    if fhit mask SK_REGION_PLAIN then fput w SK_REGION_PLAIN (bits v 0 47) else w := by
  simp [regFields, writeFlds, writeFld, SK_REGION_PLAIN, SK_REGION_PLAIN47, SK_REGION_CONV]
  rfl

theorem plainWrite_skRegion_whole (s : State) (n v : Nat) :
    s.plainWrite (.skRegion n) .whole v = s.setFld (.skRegion n) SK_REGION_PLAIN (bits v 0 47) := by
  have hhit : fhit (halfMask .whole) SK_REGION_PLAIN = true := by decide
  have hval : bits (halfVal .whole v) 0 47 = bits v 0 47 := by
    simp only [halfVal, bits_eq]
    omega
  rw [State.plainWrite, writeFlds_skRegion, if_pos hhit, hval, State.setFld]

theorem plainWrite_skRegion_half (s : State) (n v : Nat) {h : Half} (hh : h ≠ .whole) :
    s.plainWrite (.skRegion n) h v = s.setReg (.skRegion n) (s.reg (.skRegion n)) := by
  have hmiss : ¬ fhit (halfMask h) SK_REGION_PLAIN = true := by
    cases h with
    | whole => exact absurd rfl hh
    | low => decide
    | high => decide
  rw [State.plainWrite, writeFlds_skRegion, if_neg hmiss]

theorem regsBut_setReg_same {s : State} (h : RegsOk s) (r : Reg) : RegsBut [] s (s.setReg r (s.reg r)) := by
  intro o _
  by_cases ho : o = regOff r
  · subst ho
    exact tget_tset_self _ _ _ _ h
  · exact State.tget_setReg_ne s r _ o ho

/-- The blocks of a stack whose kind a write of PLAIN changes. -/
def changedBlocks (old new : Nat) : List Nat := (List.range 47).filter fun b => bitAt old b != bitAt new b

theorem changedBlocks_self (p : Nat) : changedBlocks p p = [] := by simp [changedBlocks]

theorem changedBlocks_ne_nil {p q : Nat} (hp : p < 2 ^ 47) (hq : q < 2 ^ 47) (h : p ≠ q) : changedBlocks p q ≠ [] := by
  intro he
  refine h (Nat.eq_of_testBit_eq fun i => ?_)
  by_cases hi : i < 47
  · have := List.filter_eq_nil_iff.1 he i (List.mem_range.2 hi)
    simpa [bitAt] using this
  · have hle : 2 ^ 47 ≤ 2 ^ i := Nat.pow_le_pow_right (by decide) (by omega)
    rw [Nat.testBit_lt_two_pow (hp.trans_le hle), Nat.testBit_lt_two_pow (hq.trans_le hle)]

theorem wrSkRegion_conv {s : State} {n : Nat} (h : s.flag (.skRegion n) SK_REGION_CONV = true) (x : Half) (v : Nat) : s.wrSkRegion n x v = s := by
  simp only [State.wrSkRegion, h, if_true]

theorem wrSkRegion_rest {s : State} {n : Nat} (h : s.flag (.skRegion n) SK_REGION_CONV = false) (x : Half) (v : Nat) : s.wrSkRegion n x v =
    let u := s.plainWrite (.skRegion n) x v
    let ch := changedBlocks (s.fld (.skRegion n) SK_REGION_PLAIN) (u.fld (.skRegion n) SK_REGION_PLAIN)
    if ch = [] then u
    else ({ u with sk := { u.sk with conv := u.sk.conv ++ ch.map (48 * n + ·) } } : State).setFld (.skRegion n) SK_REGION_CONV 1 := by
  rw [State.wrSkRegion, if_neg (by rw [h]; decide)]
  rfl

theorem wrSkRegion_half {s : State} (hr : RegsOk s) (n v : Nat) {x : Half} (hx : x ≠ .whole) :
    s.wrSkRegion n x v = s ∨ s.wrSkRegion n x v = s.setReg (.skRegion n) (s.reg (.skRegion n)) := by
  cases h : s.flag (.skRegion n) SK_REGION_CONV with
  | true => exact .inl (wrSkRegion_conv h x v)
  | false =>
    right
    have hfld : (s.setReg (.skRegion n) (s.reg (.skRegion n))).fld (.skRegion n) SK_REGION_PLAIN = s.fld (.skRegion n) SK_REGION_PLAIN := by
      rw [State.fld, State.reg_setReg_self _ _ _ hr, State.fld]
    simp only [wrSkRegion_rest h, plainWrite_skRegion_half s n v hx, hfld, changedBlocks_self, if_true]

theorem wrSkRegion_whole {s : State} (hr : RegsOk s) {n v : Nat} (h : s.flag (.skRegion n) SK_REGION_CONV = false)
    (hp : bits v 0 47 ≠ s.fld (.skRegion n) SK_REGION_PLAIN) : s.wrSkRegion n .whole v =
      ({ s.setFld (.skRegion n) SK_REGION_PLAIN (bits v 0 47) with sk := { s.sk with
          conv := s.sk.conv ++ (changedBlocks (s.fld (.skRegion n) SK_REGION_PLAIN) (bits v 0 47)).map (48 * n + ·) } } : State).setFld
        (.skRegion n) SK_REGION_CONV 1 := by
  have hnew : (s.setFld (.skRegion n) SK_REGION_PLAIN (bits v 0 47)).fld (.skRegion n) SK_REGION_PLAIN = bits v 0 47 := by
    rw [State.fld_setFld_self _ _ _ _ hr (by decide)]
    exact Nat.mod_eq_of_lt (bits_lt v 0 47)
  have hch := changedBlocks_ne_nil (State.fld_lt s (.skRegion n) SK_REGION_PLAIN) (bits_lt v 0 47) hp.symm
  simp only [wrSkRegion_rest h, plainWrite_skRegion_whole, hnew, if_neg hch, State.setFld_sk]

/-! ### The end of a conversion (05 R100) -/

theorem regionOf_sketch_iff (a n o : Nat) : regionOf a = .sketch n o ↔
    (skBase ≤ a ∧ a < skBase + 8 * skSize) ∧ n = (a - skBase) / skSize ∧ o = (a - skBase) % skSize := by
  have hhbm : 12 * hbmSize ≤ skBase := by norm_num [hbmSize, skBase, gib]
  unfold regionOf
  constructor
  · intro h
    split at h
    · exact Region.noConfusion h
    · split at h
      next hin =>
        injection h with hn ho
        exact ⟨hin, hn.symm, ho.symm⟩
      next => repeat' split at h
              all_goals exact Region.noConfusion h
  · rintro ⟨hin, hn, ho⟩
    rw [if_neg (by omega), if_pos hin, hn, ho]

/-- The bytes of stack `n` in the blocks under conversion, as the model picks them. -/
def inConv (conv : List Nat) (n a : Nat) : Bool :=
  match regionOf a with
  | .sketch m o => decide (m = n) && conv.contains (48 * m + o % skBank / 2 ^ 20)
  | _ => false

theorem inConv_iff {n : Nat} (hn : n < 8) (conv : List Nat) (a : Nat) : inConv conv n a = true ↔
    skBase + n * skSize ≤ a ∧ a < skBase + (n + 1) * skSize ∧ conv.contains (48 * n + (a - skBase) % skBank / 1048576) = true := by
  have hsize : skSize = 25769803776 := rfl
  have hbank : skBank = 50331648 := rfl
  have hbase : skBase = 549755813888 := rfl
  have hmod (x : Nat) : x % skSize % skBank = x % skBank := Nat.mod_mod_of_dvd x ⟨512, by rw [hsize, hbank]⟩
  constructor
  · intro h
    unfold inConv at h
    split at h
    next m o hr =>
      obtain ⟨⟨hlo, hhi⟩, hm, ho⟩ := (regionOf_sketch_iff a m o).1 hr
      rw [Bool.and_eq_true, decide_eq_true_eq, ho, hmod] at h
      obtain ⟨rfl, hc⟩ := h
      refine ⟨?_, ?_, hc⟩
      · simp only [hsize, hbase] at hm hlo ⊢
        omega
      · simp only [hsize, hbase] at hm hlo ⊢
        omega
    next => exact absurd h Bool.false_ne_true
  · rintro ⟨hlo, hhi, hc⟩
    have hq : (a - skBase) / skSize = n := by
      simp only [hsize, hbase] at hlo hhi ⊢
      omega
    have hr : regionOf a = .sketch n ((a - skBase) % skSize) :=
      (regionOf_sketch_iff _ _ _).2 ⟨by simp only [hsize, hbase] at hlo hhi ⊢; omega, hq.symm, rfl⟩
    simp only [inConv, hr, hmod]
    simpa using hc

theorem convDone_idle {s : State} {n : Nat} (hidle : ∀ e ∈ s.sk.nbus, e.2.prog = 0) (hheld : s.tier.heldAcc = []) : s.convDone n =
    ({ s with mem := tclear (inConv s.sk.conv n) s.mem, sk := { s.sk with conv := s.sk.conv.filter fun b => b / 48 ≠ n } } : State).setFld
      (.skRegion n) SK_REGION_CONV 0 := by
  have htier : ({ s.tier with heldAcc := [] } : TierState) = s.tier := by rw [← hheld]
  rw [State.convDone, if_neg]
  · show State.freeAccs _ = _
    rw [State.freeAccs]
    simp only [State.setFld_tier, State.clearMem, hheld, List.foldl_nil]
    rw [htier]
    rfl
  · rw [List.any_eq_true]
    rintro ⟨e, he, hb⟩
    simp [hidle e he] at hb

theorem convDone_busy {s : State} {n g : Nat} {u : Nbu} {c : NbuCmd} {rest : List NbuCmd} (hm : (g, u) ∈ s.sk.nbus) (hg : g / 512 = n)
    (hp : u.prog ≠ 0) (hc : u.cmds = c :: rest) (hconv : (cmdRows c.bytes).any (s.rowConverting g) = true) : s.convDone n = s := by
  rw [State.convDone, if_pos]
  refine List.any_eq_true.2 ⟨(g, u), hm, ?_⟩
  simp only [hg, hc, hconv]
  simp [hp]

/-! ### The tide (05 R101) -/

theorem length_tideSource (s : State) (t : Target) : (s.tideSource t).length = 1024 := by
  have hread (o : Obj) (x : Nat) : (s.objRead o x 1024).length = 1024 := by simp only [State.objRead, rangeFrom, List.length_map, List.length_range]
  unfold State.tideSource
  split
  · exact memRead_length _ _ _
  · dsimp only
    split
    · exact hread _ _
    · exact List.length_replicate
  · dsimp only
    split
    · exact hread _ _
    · exact List.length_replicate

/-- The state in which a pass takes its rows: TIDE_GO is cleared, and rows that are no longer registered have no age. -/
def passStart (s : State) (n : Nat) (rows : List TideRow) : State :=
  { s.setFld (.skCtl n) SK_CTL_TIDE_GO 0 with
    sk := { s.sk with tide := tclear (fun k => k / (skSize / 1024) = n && !(rows.any fun x => x.row = k)) s.sk.tide } }

theorem tidePass_off {s : State} {n : Nat} (h : s.flag (.skCtl n) SK_CTL_TIDE_EN = false) (rows : List TideRow) : s.tidePass n rows = s := by
  rw [State.tidePass, if_pos (by rw [h]; decide)]

theorem tidePass_on {s : State} {n : Nat} (h : s.flag (.skCtl n) SK_CTL_TIDE_EN = true) (rows : List TideRow) : s.tidePass n rows =
    (rows.foldl (fun s x => s.tideRow n x) (passStart s n rows)).incFld (.skTide n) SK_TIDE_PASSES 1 := by
  rw [State.tidePass, if_neg (by rw [h]; decide)]
  rfl

section
variable (s : State) {n : Nat} (rows : List TideRow)

theorem regsBut_passStart : RegsBut [.skCtl n] s (passStart s n rows) := regsBut_setFld s _ SK_CTL_TIDE_GO 0

theorem mem_passStart : (passStart s n rows).mem = s.mem := rfl

theorem regsOk_passStart (h : RegsOk s) : RegsOk (passStart s n rows) := State.regsOk_setFld s (.skCtl n) SK_CTL_TIDE_GO 0 h

theorem flag_go_passStart (h : RegsOk s) : (passStart s n rows).flag (.skCtl n) SK_CTL_TIDE_GO = false := by
  have hgo : (s.setFld (.skCtl n) SK_CTL_TIDE_GO 0).fld (.skCtl n) SK_CTL_TIDE_GO = 0 := State.fld_setFld_self _ _ _ _ h (by decide)
  rw [State.flag]
  exact decide_eq_false (not_not_intro hgo)

theorem byteLost_passStart (hn : n < 8) (a : Nat) : (passStart s n rows).byteLost a = s.byteLost a := by
  have hh (m : Nat) (f : Fld) : (passStart s n rows).fld (.memHstat m) f = s.fld (.memHstat m) f :=
    fld_of_regsBut (regsBut_passStart s rows) (by simp only [List.mem_singleton, forall_eq, regOff]; omega) f
  have hg (m : Nat) (f : Fld) : (passStart s n rows).fld (.memGstat m) f = s.fld (.memGstat m) f :=
    fld_of_regsBut (regsBut_passStart s rows) (by simp only [List.mem_singleton, forall_eq, regOff]; omega) f
  simp only [State.byteLost, State.flag, hh, hg]
  rfl

theorem tideSource_passStart (hn : n < 8) (t : Target) : (passStart s n rows).tideSource t = s.tideSource t := by
  have hbyte (o : Obj) (i : Nat) : (passStart s n rows).objByte o i = s.objByte o i := by
    simp only [State.objByte, byteLost_passStart s rows hn]
    rfl
  have hread (o : Obj) (x k : Nat) : (passStart s n rows).objRead o x k = s.objRead o x k := by
    simp only [State.objRead, funext (hbyte o)]
  simp only [State.tideSource, hread]
  rfl

theorem fld_skTide_passStart (f : Fld) : (passStart s n rows).fld (.skTide n) f = s.fld (.skTide n) f :=
  fld_of_regsBut (regsBut_passStart s rows) (by simp only [List.mem_singleton, forall_eq, regOff]; omega) f

theorem plainBlock_passStart (o : Nat) : (passStart s n rows).plainBlock n o = s.plainBlock n o := by
  have hreg : (passStart s n rows).reg (.skRegion n) = s.reg (.skRegion n) :=
    reg_of_regsBut (regsBut_passStart s rows) (by simp only [List.mem_singleton, forall_eq, regOff]; omega)
  rw [State.plainBlock, hreg, State.plainBlock]

theorem addrLog_passStart (hn : n < 8) {a m o : Nat} (ha : regionOf a = .sketch m o) : (passStart s n rows).addrLog a = s.addrLog a := by
  have hreg (j : Nat) : (passStart s n rows).reg (.ptOwnS j) = s.reg (.ptOwnS j) :=
    reg_of_regsBut (regsBut_passStart s rows) (by simp only [List.mem_singleton, forall_eq, regOff]; omega)
  simp only [State.addrLog, State.addrPart, granuleOf, ha, State.owner, ownReg, hreg]

end

/-- The address of a row. -/
def rowAt (r : TideRow) : Nat := skBase + 1024 * r.row

/-- The state after a row is compared with its source, and a mismatch counted. -/
def compared (s : State) (n : Nat) (r : TideRow) : State :=
  if s.rd (rowAt r) 1024 = s.tideSource r.source then s else s.incFld (.skTide n) SK_TIDE_MISMATCH 1

/-- The state after a row is rewritten from its source. -/
def rewritten (s : State) (n : Nat) (r : TideRow) : State :=
  ((compared s n r).wr (rowAt r) (s.tideSource r.source)).setTide r.row (compared s n r).svcTime

/-- The state after a row whose source is lost. -/
def lostRow (s : State) (n : Nat) (r : TideRow) : State :=
  (s.setTide r.row (((tgetO s.sk.tide r.row).join).getD s.svcTime)).raise (s.addrLog (rowAt r)) (srcHub (n / 2)) (Config.openCode 5 % 2 ^ 16)
    (leBytes 8 (rowAt r))

theorem setTide_mem (s : State) (row t : Nat) : (s.setTide row t).mem = s.mem := rfl

theorem setTide_regs (s : State) (row t : Nat) : (s.setTide row t).regs = s.regs := rfl

theorem tideRow_sketch {s : State} {n m o : Nat} {r : TideRow} (ha : regionOf (rowAt r) = .sketch m o) : s.tideRow n r =
    if m ≠ n ∨ ¬ s.plainBlock m o ∨ 1024 * queryRow ≤ o % skBank then s else if r.lost then lostRow s n r else rewritten s n r := by
  rw [rowAt] at ha
  simp only [State.tideRow, ha]
  rfl

/-- What a pass does with one row. -/
theorem tideRow_cases (s : State) (n : Nat) (r : TideRow) :
    s.tideRow n r = s ∨ s.tideRow n r = lostRow s n r ∨ s.tideRow n r = rewritten s n r := by
  cases ha : regionOf (rowAt r) with
  | sketch m o =>
    rw [tideRow_sketch ha]
    split
    · exact .inl rfl
    · split
      · exact .inr (.inl rfl)
      · exact .inr (.inr rfl)
  | _ =>
    left
    rw [rowAt] at ha
    simp only [State.tideRow, ha]

section
variable {s : State} {n m o : Nat} {r : TideRow} (ha : regionOf (rowAt r) = .sketch n o) (hp : s.plainBlock n o = true)
  (hq : o % skBank < 1024 * queryRow)
include ha hp hq

theorem tideRow_lost (hl : r.lost = true) : s.tideRow n r = lostRow s n r := by
  rw [tideRow_sketch ha, if_neg (by simp [hp, hq]), if_pos hl]

theorem tideRow_rewritten (hl : r.lost = false) : s.tideRow n r = rewritten s n r := by
  rw [tideRow_sketch ha, if_neg (by simp [hp, hq]), if_neg (by simp [hl])]

end

/-! #### What a row's turn leaves as it was -/

/-- From `s` on, rows `rs` of stack `n` had their turn: no byte outside them changed, no register but SK_TIDE, and not its PASSES. -/
structure Turned (n : Nat) (rs : List TideRow) (s t : State) : Prop where
  mem : ∀ a, (∀ x ∈ rs, a < rowAt x ∨ rowAt x + 1024 ≤ a) → memByte t.mem a = memByte s.mem a
  regs : RegsBut [.skTide n] s t
  ok : RegsOk t
  passes : t.fld (.skTide n) SK_TIDE_PASSES = s.fld (.skTide n) SK_TIDE_PASSES

theorem regs_compared (s : State) (n : Nat) (r : TideRow) : RegsBut [.skTide n] s (compared s n r) := by
  unfold compared
  split
  · exact regsBut_of_regs _ rfl
  · exact regsBut_setFld _ _ _ _

theorem regsOk_compared {s : State} (h : RegsOk s) (n : Nat) (r : TideRow) : RegsOk (compared s n r) := by
  unfold compared
  split
  · exact h
  · exact State.regsOk_setFld _ _ _ _ h

theorem passes_compared {s : State} (h : RegsOk s) (n : Nat) (r : TideRow) :
    (compared s n r).fld (.skTide n) SK_TIDE_PASSES = s.fld (.skTide n) SK_TIDE_PASSES := by
  unfold compared
  split
  · rfl
  · exact State.fld_setFld_fld _ _ _ _ _ h (by decide) (by decide)

theorem mem_compared (s : State) (n : Nat) (r : TideRow) : (compared s n r).mem = s.mem := by
  unfold compared
  split
  · rfl
  · exact State.incFld_mem ..

theorem turned_rewritten {s : State} (h : RegsOk s) (n : Nat) (r : TideRow) : Turned n [r] s (rewritten s n r) where
  mem a ha := by
    rw [show (rewritten s n r).mem = memWrite (compared s n r).mem (rowAt r) (s.tideSource r.source) from rfl, mem_compared,
      memByte_memWrite_out _ _ _ _ (by rw [length_tideSource]; exact ha r (List.mem_singleton_self r))]
  regs := regs_compared s n r
  ok := regsOk_compared h n r
  passes := passes_compared h n r

theorem raised_raiseRec {s u : State} (he : u.evt = s.evt) (ht : u.svcTime = s.svcTime) (log src code : Nat) (data : List Byte) :
    Raised log src code data s (u.raiseRec log src code data) := by
  have hsrc : u.srcSt src = s.srcSt src := by rw [State.srcSt, he, State.srcSt]
  rw [Raised, ← hsrc, ← ht, ← he]
  rfl

theorem raise_silent {code : Nat} (h : causeOf code = none) (s : State) (log src : Nat) (data : List Byte) :
    s.raise log src code data = s.raiseRec log src code data := by
  rw [State.raise, h]

section
variable (hcode : causeOf (Config.openCode 5 % 2 ^ 16) = none)
include hcode

theorem turned_tideRow {s : State} (h : RegsOk s) (n : Nat) (r : TideRow) : Turned n [r] s (s.tideRow n r) := by
  rcases tideRow_cases s n r with e | e | e <;> rw [e]
  · exact ⟨fun _ _ => rfl, regsBut_of_regs _ rfl, h, rfl⟩
  · rw [lostRow, raise_silent hcode]
    exact ⟨fun _ _ => rfl, regsBut_of_regs _ rfl, h, rfl⟩
  · exact turned_rewritten h n r

theorem turned_tideRows (n : Nat) (rs : List TideRow) {s : State} (h : RegsOk s) : Turned n rs s (rs.foldl (fun s x => s.tideRow n x) s) := by
  induction rs generalizing s with
  | nil => exact ⟨fun _ _ => rfl, regsBut_of_regs _ rfl, h, rfl⟩
  | cons r rs ih =>
    have hr := turned_tideRow hcode h n r
    have hrs := ih hr.ok
    refine ⟨fun a ha => ?_, regsBut_trans hr.regs hrs.regs, hrs.ok, hrs.passes.trans hr.passes⟩
    exact (hrs.mem a fun x hx => ha x (List.mem_cons_of_mem r hx)).trans (hr.mem a fun x hx => ha x (by
      rw [List.mem_singleton.1 hx]
      exact List.mem_cons_self))

end

/-! #### A pass -/

theorem exec_tidePass {n : Nat} (hn : n < 8) (rows : List TideRow) (s : State) : exec (.tidePass n rows) s = .next (s.tidePass n rows) := by
  show execTidePass n rows s = _
  rw [execTidePass, if_pos hn]

/-- A pass is over: counted, and TIDE_GO cleared. -/
structure Passed (n : Nat) (s t : State) : Prop where
  passes : t.fld (.skTide n) SK_TIDE_PASSES = (s.fld (.skTide n) SK_TIDE_PASSES + 1) % 2 ^ 32
  go : t.flag (.skCtl n) SK_CTL_TIDE_GO = false
  regs : RegsBut [.skTide n, .skCtl n] s t

theorem passed_turned {s t : State} {n : Nat} {rs qs : List TideRow} (h : RegsOk s) (ht : Turned n rs (passStart s n qs) t) :
    Passed n s (t.incFld (.skTide n) SK_TIDE_PASSES 1) where
  passes := by
    rw [State.incFld, State.fld_setFld_self _ _ _ _ ht.ok (by decide), ht.passes, fld_skTide_passStart]
    rfl
  go := by
    rw [State.incFld, flag_of_regsBut (regsBut_setFld t _ _ _)
        (by simp only [List.mem_singleton, forall_eq, regOff]; omega),
      flag_of_regsBut ht.regs (by simp only [List.mem_singleton, forall_eq, regOff]; omega), flag_go_passStart s qs h]
  regs := regsBut_trans (regsBut_mono (regsBut_passStart s qs) (by simp))
    (regsBut_trans (regsBut_mono ht.regs (by simp)) (regsBut_mono (regsBut_setFld t _ _ _) (by simp)))

theorem onlyRegs_compared (s : State) (n : Nat) (r : TideRow) : OnlyRegs s (compared s n r) := by
  unfold compared
  split
  · exact ⟨s.regs, rfl⟩
  · exact onlyRegs_setFld ..

theorem mismatch_compared {s : State} (h : RegsOk s) (n : Nat) (r : TideRow) : (compared s n r).fld (.skTide n) SK_TIDE_MISMATCH =
    satAdd 65535 (s.fld (.skTide n) SK_TIDE_MISMATCH) (if s.rd (rowAt r) 1024 = s.tideSource r.source then 0 else 1) := by
  have hlt : s.fld (.skTide n) SK_TIDE_MISMATCH < 65536 := State.fld_lt s _ SK_TIDE_MISMATCH
  have hsat : satAdd 65535 (s.fld (.skTide n) SK_TIDE_MISMATCH) 1 < 65536 := by
    rw [satAdd]
    split <;> omega
  unfold compared
  split
  · rw [satAdd, if_neg (by omega), Nat.add_zero]
  · rw [State.incFld, State.fld_setFld_self _ _ _ _ h (by decide)]
    exact Nat.mod_eq_of_lt hsat

theorem tidePass_rewrites {s : State} {n o : Nat} {x : TideRow} (hc : Canonical s) (hn : n < 8)
    (hen : s.flag (.skCtl n) SK_CTL_TIDE_EN = true) (ha : regionOf (rowAt x) = .sketch n o) (hp : s.plainBlock n o = true)
    (hq : o % skBank < 1024 * queryRow) (hl : x.lost = false) :
    let t := s.tidePass n [x]
    memRead t.mem (rowAt x) 1024 = s.tideSource x.source ∧ MemBut (rowAt x) 1024 s t ∧
      t.fld (.skTide n) SK_TIDE_MISMATCH =
        satAdd 65535 (s.fld (.skTide n) SK_TIDE_MISMATCH) (if s.rd (rowAt x) 1024 = s.tideSource x.source then 0 else 1) ∧
      Passed n s t ∧ t = { s with regs := t.regs, mem := t.mem, sk := { s.sk with tide := t.sk.tide } } := by
  obtain ⟨hm, hr⟩ := hc
  have hok : RegsOk (passStart s n [x]) := regsOk_passStart s [x] hr
  have hpass : s.tidePass n [x] = (rewritten (passStart s n [x]) n x).incFld (.skTide n) SK_TIDE_PASSES 1 := by
    rw [tidePass_on hen, List.foldl_cons, List.foldl_nil, tideRow_rewritten ha ((plainBlock_passStart s [x] o).trans hp) hq hl]
  have hturned := turned_rewritten hok n x
  have hmem : (s.tidePass n [x]).mem = memWrite s.mem (rowAt x) (s.tideSource x.source) := by
    rw [hpass, ← tideSource_passStart s [x] hn]
    exact congrArg (memWrite · (rowAt x) _) (mem_compared (passStart s n [x]) n x)
  refine ⟨?_, fun a h => ?_, ?_, hpass ▸ passed_turned hr hturned, ?_⟩
  · rw [hmem, ← length_tideSource s x.source]
    exact memRead_memWrite _ _ _ hm
  · rw [hmem, memByte_memWrite_out _ _ _ _ (by rwa [length_tideSource])]
  · have hrd : (passStart s n [x]).rd (rowAt x) 1024 = s.rd (rowAt x) 1024 := rfl
    rw [← hrd, ← tideSource_passStart s [x] hn, ← fld_skTide_passStart s [x], ← mismatch_compared hok, hpass]
    exact State.fld_setFld_fld _ _ _ _ _ hturned.ok (by decide) (by decide)
  · obtain ⟨rs, hrs⟩ := onlyRegs_compared (passStart s n [x]) n x
    rw [hpass, rewritten, hrs]
    rfl

section
variable (hcode : causeOf (Config.openCode 5 % 2 ^ 16) = none)
include hcode

theorem tidePass_leaves_lost {s : State} {n o : Nat} {x : TideRow} (hr : RegsOk s) (hn : n < 8)
    (hen : s.flag (.skCtl n) SK_CTL_TIDE_EN = true) (ha : regionOf (rowAt x) = .sketch n o) (hp : s.plainBlock n o = true)
    (hq : o % skBank < 1024 * queryRow) (hl : x.lost = true) :
    let t := s.tidePass n [x]
    t.mem = s.mem ∧ t.fld (.skTide n) SK_TIDE_MISMATCH = s.fld (.skTide n) SK_TIDE_MISMATCH ∧
      Raised (s.addrLog (rowAt x)) (srcHub (n / 2)) (Config.openCode 5 % 2 ^ 16) (leBytes 8 (rowAt x)) s t := by
  have hok : RegsOk (passStart s n [x]) := regsOk_passStart s [x] hr
  rw [tidePass_on hen, List.foldl_cons, List.foldl_nil, tideRow_lost ha ((plainBlock_passStart s [x] o).trans hp) hq hl, lostRow,
    raise_silent hcode, addrLog_passStart s [x] hn ha]
  show _ ∧ _ ∧ _
  refine ⟨?_, (State.fld_setFld_fld _ _ _ _ _ ?_ (by decide) (by decide)).trans ?_, ?_⟩
  · rw [State.incFld_mem, State.raiseRec_mem, setTide_mem, mem_passStart]
  · rw [RegsOk, State.raiseRec_regs, setTide_regs]
    exact hok
  · rw [State.raiseRec_fld, State.fld, State.reg, setTide_regs]
    exact fld_skTide_passStart s [x] SK_TIDE_MISMATCH
  · rw [Raised, State.incFld_evt]
    exact raised_raiseRec (u := (passStart s n [x]).setTide _ _) rfl rfl _ _ _ _

theorem tidePass_rows {s : State} {n : Nat} (hr : RegsOk s) (hen : s.flag (.skCtl n) SK_CTL_TIDE_EN = true) (xs : List TideRow) :
    (∀ a, (∀ x ∈ xs, a < rowAt x ∨ rowAt x + 1024 ≤ a) → memByte (s.tidePass n xs).mem a = memByte s.mem a) ∧ Passed n s (s.tidePass n xs) := by
  have hturned := turned_tideRows hcode n xs (regsOk_passStart s (n := n) xs hr)
  rw [tidePass_on hen]
  refine ⟨fun a ha => ?_, passed_turned hr hturned⟩
  rw [State.incFld_mem, hturned.mem a ha, mem_passStart]

end

/-! ### Temperature (05 R103, Table 5-12) -/

/-- A field of SK_TSTAT that a report sets on a condition. -/
def setIf (b : Prop) [Decidable b] (r : Reg) (f : Fld) (s : State) : State := if b then s.setFld r f 1 else s

section
variable (b : Prop) [Decidable b] {r : Reg} {f g : Fld} {s : State}

theorem regsOk_setIf (h : RegsOk s) : RegsOk (setIf b r f s) := by
  unfold setIf
  split
  · exact State.regsOk_setFld _ _ _ _ h
  · exact h

theorem fld_setIf (h : RegsOk s) (hf : f.lo + f.w ≤ 64) (hd : g.lo + g.w ≤ f.lo ∨ f.lo + f.w ≤ g.lo) : (setIf b r f s).fld r g = s.fld r g := by
  unfold setIf
  split
  · exact State.fld_setFld_fld _ _ _ _ _ h hf hd
  · rfl

theorem regsBut_setIf : RegsBut [r] s (setIf b r f s) := by
  unfold setIf
  split
  · exact regsBut_setFld s r f 1
  · exact regsBut_of_regs _ rfl

theorem onlyRegs_setIf : OnlyRegs s (setIf b r f s) := by
  unfold setIf
  split
  · exact ⟨_, rfl⟩
  · exact ⟨s.regs, rfl⟩

end

/-- The state of a stack's temperature after a report of `x`, from the state before. -/
def newLevel (s : State) (n x : Nat) : Nat := thermalNext [(86, 82), (96, 92), (105, 102)] (tgetD 0 s.pwr.thermal (64 + n)) x

/-- SK_TSTAT takes the temperature and what its state calls for. -/
def withLevel (s : State) (n x l : Nat) : State :=
  (((s.setFld (.skTstat n) SK_TSTAT_TEMP x).setFld (.skTstat n) SK_TSTAT_REFX (min l 2)).setFld (.skTstat n) SK_TSTAT_UTHROT
    (if l = 2 then 1 else 0)).setFld (.skTstat n) SK_TSTAT_HTHROT (if l = 3 then 1 else 0)

/-- The stack's new state is kept. -/
def heated (s : State) (n x : Nat) : State := { s with pwr := { s.pwr with thermal := tsetD 0 s.pwr.thermal (64 + n) (newLevel s n x) } }

/-- The same, with the time in throttling counted. -/
def timed (s : State) (n x : Nat) : State :=
  let u := (heated s n x).countThrot n
  { u with sk := { u.sk with throtAt := tsetD none u.sk.throtAt n (if 2 ≤ newLevel s n x then some u.svcTime else none) } }

/-- The state after a report, but for the sticky bits and what the hub then gives its banks. -/
def levelled (s : State) (n x : Nat) : State := withLevel (timed s n x) n x (newLevel s n x)

/-- The same with the sticky bits of the states newly entered. -/
def reported (s : State) (n x : Nat) : State :=
  let l := newLevel s n x
  let old := tgetD 0 s.pwr.thermal (64 + n)
  setIf (old < 3 ∧ 3 ≤ l) (.skTstat n) SK_TSTAT_TLIM (setIf (old < 2 ∧ 2 ≤ l) (.skTstat n) SK_TSTAT_T95
    (setIf (old < 1 ∧ 1 ≤ l) (.skTstat n) SK_TSTAT_T85 (levelled s n x)))

/-- The hub goes on with the commands it held for the banks of stack `n`. -/
def feedStack (n : Nat) (s : State) : State :=
  ((s.sk.hubq.map (·.1)) ++ s.sk.scans.map (·.1)).foldl (fun (s : State) g => if g / 512 = n then s.fed g else s) s

theorem stackTemp_eq (s : State) (n x : Nat) : s.stackTemp n x = if newLevel s n x < 3 then feedStack n (reported s n x) else reported s n x := rfl

/-! #### What the hub's feeding of banks leaves as it was -/

/-- Same registers, same thermal states. -/
def SameHeat (s t : State) : Prop := t.regs = s.regs ∧ t.pwr = s.pwr

theorem SameHeat.trans {s t u : State} (h : SameHeat s t) (g : SameHeat t u) : SameHeat s u := ⟨g.1.trans h.1, g.2.trans h.2⟩

theorem sameHeat_foldl {α : Type} {f : State → α → State} (hf : ∀ s a, SameHeat s (f s a)) (l : List α) (s : State) : SameHeat s (l.foldl f s) :=
  List.foldlRecOn (motive := SameHeat s) l f ⟨rfl, rfl⟩ fun t ht a _ => ht.trans (hf t a)

theorem sameHeat_nbuSend (s : State) (g : Nat) (c : NbuCmd) (toks : Nat → List (Nat × Nat)) : SameHeat s (s.nbuSend g c toks).1 := ⟨rfl, rfl⟩

theorem sameHeat_setScans (s : State) (g : Nat) (l : List ListScan) : SameHeat s (s.setScans g l) := ⟨rfl, rfl⟩

theorem sameHeat_startScans (s : State) (g : Nat) : SameHeat s (s.startScans g) := by
  unfold State.startScans
  split
  · exact ⟨rfl, rfl⟩
  · split
    · exact ⟨rfl, rfl⟩
    · refine .trans ?_ (sameHeat_foldl (fun u i => sameHeat_nbuSend u g _ _) _ _)
      refine (sameHeat_setScans s g _).trans (sameHeat_foldl (fun u i => ?_) _ _)
      split <;> exact ⟨rfl, rfl⟩

theorem sameHeat_feedBank (g f : Nat) (s : State) : SameHeat s (State.feedBank g f s) := by
  induction f generalizing s with
  | zero => exact ⟨rfl, rfl⟩
  | succ f ih =>
    have hs := sameHeat_startScans s g
    rw [State.feedBank]
    split
    · split
      · exact hs
      · exact hs.trans (ih _)
    · exact hs

theorem sameHeat_feedStack (n : Nat) (s : State) : SameHeat s (feedStack n s) := by
  refine sameHeat_foldl (fun u g => ?_) _ s
  split
  · exact sameHeat_feedBank g 8 u
  · exact ⟨rfl, rfl⟩

/-! #### The fields of SK_TSTAT after a report -/

/-- The time in throttling goes into SK_TSTAT and changes no other register. -/
theorem countThrot_eq {s : State} (h : RegsOk s) (n : Nat) : ∃ (rs : Tab Word) (ta : Tab (Option Nat)),
    s.countThrot n = { s with regs := rs, sk := { s.sk with throtAt := ta } } ∧ RegsBut [.skTstat n] s { s with regs := rs } ∧
      RegsOk { s with regs := rs } := by
  unfold State.countThrot
  split
  next t _ =>
    generalize hk : (s.svcTime - t) / tickUs = k
    obtain ⟨rs, hrs⟩ : OnlyRegs s (s.incFld (.skTstat n) SK_TSTAT_THRTIME k) := onlyRegs_setFld ..
    simp only [hrs]
    exact ⟨rs, _, rfl, hrs ▸ regsBut_setFld s _ _ _, hrs ▸ s.regsOk_setFld _ _ _ h⟩
  · exact ⟨s.regs, s.sk.throtAt, rfl, regsBut_of_regs _ rfl, h⟩

/-- SK_TSTAT of stack `n` shows a temperature of `x` and state `l`. -/
structure Shows (n x l : Nat) (t : State) : Prop where
  ok : RegsOk t
  temp : t.fld (.skTstat n) SK_TSTAT_TEMP = x
  refx : t.fld (.skTstat n) SK_TSTAT_REFX = min l 2
  uthrot : t.flag (.skTstat n) SK_TSTAT_UTHROT = decide (l = 2)
  hthrot : t.flag (.skTstat n) SK_TSTAT_HTHROT = decide (l = 3)

theorem flag_setFld_fld {s : State} (h : RegsOk s) (r : Reg) (f g : Fld) (v : Nat) (hf : f.lo + f.w ≤ 64)
    (hd : g.lo + g.w ≤ f.lo ∨ f.lo + f.w ≤ g.lo) : (s.setFld r f v).flag r g = s.flag r g := by
  rw [State.flag, State.fld_setFld_fld _ _ _ _ _ h hf hd, State.flag]

theorem shows_withLevel {s : State} (h : RegsOk s) (n : Nat) {x : Nat} (hx : x < 256) (l : Nat) : Shows n x l (withLevel s n x l) := by
  have h1 := s.regsOk_setFld (.skTstat n) SK_TSTAT_TEMP x h
  have h2 := State.regsOk_setFld _ (.skTstat n) SK_TSTAT_REFX (min l 2) h1
  have h3 := State.regsOk_setFld _ (.skTstat n) SK_TSTAT_UTHROT (if l = 2 then 1 else 0) h2
  have hl : min l 2 < 4 := (min_le_right l 2).trans_lt (by decide)
  unfold withLevel
  constructor
  · exact State.regsOk_setFld _ _ _ _ h3
  · rw [State.fld_setFld_fld _ _ _ _ _ h3 (by decide) (by decide), State.fld_setFld_fld _ _ _ _ _ h2 (by decide) (by decide),
      State.fld_setFld_fld _ _ _ _ _ h1 (by decide) (by decide), State.fld_setFld_self _ _ _ _ h (by decide)]
    exact Nat.mod_eq_of_lt hx
  · rw [State.fld_setFld_fld _ _ _ _ _ h3 (by decide) (by decide), State.fld_setFld_fld _ _ _ _ _ h2 (by decide) (by decide),
      State.fld_setFld_self _ _ _ _ h1 (by decide)]
    exact Nat.mod_eq_of_lt hl
  · rw [flag_setFld_fld h3 _ _ _ _ (by decide) (by decide)]
    exact flag_setFld_self h2 _ _ _ (by decide) (by decide)
  · exact flag_setFld_self h3 _ _ _ (by decide) (by decide)

theorem Shows.setIf {n x l : Nat} {s : State} (h : Shows n x l s) (b : Prop) [Decidable b] {f : Fld} (hf : f.lo + f.w ≤ 64) (hlo : 20 ≤ f.lo) :
    Shows n x l (setIf b (.skTstat n) f s) where
  ok := regsOk_setIf b h.ok
  temp := (fld_setIf b h.ok hf (.inl (Nat.le_trans (by decide) hlo))).trans h.temp
  refx := (fld_setIf b h.ok hf (.inl (Nat.le_trans (by decide) hlo))).trans h.refx
  uthrot := by rw [State.flag, fld_setIf b h.ok hf (.inl (Nat.le_trans (by decide) hlo)), ← State.flag, h.uthrot]
  hthrot := by rw [State.flag, fld_setIf b h.ok hf (.inl (Nat.le_trans (by decide) hlo)), ← State.flag, h.hthrot]

theorem regsOk_timed {s : State} (h : RegsOk s) (n x : Nat) : RegsOk (timed s n x) := by
  obtain ⟨rs, ta, heq, -, hok⟩ := countThrot_eq (s := heated s n x) h n
  rw [timed, heq]
  exact hok

theorem regsBut_timed {s : State} (h : RegsOk s) (n x : Nat) : RegsBut [.skTstat n] s (timed s n x) := by
  obtain ⟨rs, ta, heq, hregs, -⟩ := countThrot_eq (s := heated s n x) h n
  rw [timed, heq]
  exact hregs

theorem shows_reported {s : State} (h : RegsOk s) (n : Nat) {x : Nat} (hx : x < 256) : Shows n x (newLevel s n x) (reported s n x) :=
  (((shows_withLevel (regsOk_timed h n x) n hx _).setIf _ (by decide) (by decide)).setIf _ (by decide) (by decide)).setIf _ (by decide) (by decide)

theorem regsBut_withLevel (s : State) (n x l : Nat) : RegsBut [.skTstat n] s (withLevel s n x l) := by
  have hset (u : State) (f : Fld) (v : Nat) : RegsBut [.skTstat n] u (u.setFld (.skTstat n) f v) := regsBut_setFld u _ f v
  exact regsBut_trans (regsBut_trans (regsBut_trans (hset s _ _) (hset _ _ _)) (hset _ _ _)) (hset _ _ _)

theorem regsBut_reported {s : State} (h : RegsOk s) (n x : Nat) : RegsBut [.skTstat n] s (reported s n x) :=
  regsBut_trans (regsBut_trans (regsBut_trans (regsBut_trans (regsBut_timed h n x) (regsBut_withLevel _ n x _)) (regsBut_setIf _))
    (regsBut_setIf _)) (regsBut_setIf _)

theorem onlyRegs_withLevel (s : State) (n x l : Nat) : OnlyRegs s (withLevel s n x l) :=
  (((onlyRegs_setFld ..).trans (onlyRegs_setFld ..)).trans (onlyRegs_setFld ..)).trans (onlyRegs_setFld ..)

/-- A report changes registers, the thermal state and the time in throttling. -/
theorem reported_eq {s : State} (h : RegsOk s) (n x : Nat) : ∃ (rs : Tab Word) (ta : Tab (Option Nat)),
    reported s n x = { heated s n x with regs := rs, sk := { s.sk with throtAt := ta } } := by
  obtain ⟨_, _, heq, -, -⟩ := countThrot_eq (s := heated s n x) h n
  obtain ⟨rs, hrs⟩ : OnlyRegs (timed s n x) (reported s n x) :=
    (((onlyRegs_withLevel ..).trans (onlyRegs_setIf _)).trans (onlyRegs_setIf _)).trans (onlyRegs_setIf _)
  rw [hrs, timed, heq]
  exact ⟨rs, _, rfl⟩

theorem flag_setIf_self {b : Prop} [Decidable b] {s : State} (h : RegsOk s) (hb : b) (r : Reg) (f : Fld) (hf : f.lo + f.w ≤ 64) (hw : 0 < f.w) :
    (setIf b r f s).flag r f = true := by
  rw [setIf, if_pos hb]
  exact (flag_setFld_self h r f True hf hw).trans (decide_true ..)

theorem flag_setIf_fld (b : Prop) [Decidable b] {s : State} {r : Reg} {f g : Fld} (h : RegsOk s) (hf : f.lo + f.w ≤ 64)
    (hd : g.lo + g.w ≤ f.lo ∨ f.lo + f.w ≤ g.lo) : (setIf b r f s).flag r g = s.flag r g := by
  rw [State.flag, fld_setIf b h hf hd, State.flag]

/-- The sticky bits of the states up to 2, entered from below. -/
theorem sticky_reported {s : State} (h : RegsOk s) (n : Nat) {x : Nat} (hx : x < 256) (hold : tgetD 0 s.pwr.thermal (64 + n) = 0)
    (hl : 2 ≤ newLevel s n x) : (reported s n x).flag (.skTstat n) SK_TSTAT_T85 = true ∧ (reported s n x).flag (.skTstat n) SK_TSTAT_T95 = true := by
  have h0 := shows_withLevel (regsOk_timed h n x) n hx (newLevel s n x)
  have h1 := h0.setIf (tgetD 0 s.pwr.thermal (64 + n) < 1 ∧ 1 ≤ newLevel s n x) (f := SK_TSTAT_T85) (by decide) (by decide)
  have h2 := h1.setIf (tgetD 0 s.pwr.thermal (64 + n) < 2 ∧ 2 ≤ newLevel s n x) (f := SK_TSTAT_T95) (by decide) (by decide)
  simp only [reported, levelled]
  constructor
  · rw [flag_setIf_fld _ h2.ok (by decide) (by decide), flag_setIf_fld _ h1.ok (by decide) (by decide)]
    exact flag_setIf_self h0.ok (by omega) _ _ (by decide) (by decide)
  · rw [flag_setIf_fld _ h2.ok (by decide) (by decide)]
    exact flag_setIf_self h1.ok (by omega) _ _ (by decide) (by decide)

theorem stackTemp_nothingHeld {s : State} (h : RegsOk s) (n x : Nat) (hq : s.sk.hubq = []) (hs : s.sk.scans = []) :
    s.stackTemp n x = reported s n x := by
  obtain ⟨rs, ta, heq⟩ := reported_eq h n x
  have hfeed : feedStack n (reported s n x) = reported s n x := by
    rw [feedStack, heq]
    simp only [hq, hs, List.map_nil, List.append_nil, List.foldl_nil]
  rw [stackTemp_eq, hfeed, ite_self]

theorem sameHeat_stackTemp (s : State) (n x : Nat) : SameHeat (reported s n x) (s.stackTemp n x) := by
  rw [stackTemp_eq]
  split
  · exact sameHeat_feedStack n _
  · exact ⟨rfl, rfl⟩

theorem exec_stackTemp {n x : Nat} (hn : n < 8) (hx : x < 256) (s : State) : exec (.stackTemperatureReport n x) s = .next (s.stackTemp n x) := by
  show execStackTemperatureReport n x s = _
  rw [execStackTemperatureReport, if_pos ⟨hn, hx⟩]

theorem newLevel_cold {s : State} {n x : Nat} (hold : tgetD 0 s.pwr.thermal (64 + n) = 0) (hlo : 96 ≤ x) (hhi : x < 105) : newLevel s n x = 2 := by
  have h86 : 86 ≤ x := by omega
  have h105 : ¬ 105 ≤ x := by omega
  rw [newLevel, hold]
  simp [thermalNext, h86, hlo, h105]

/-- A report of 96 to 104 degrees on a cool stack for which the hub holds nothing. -/
theorem report_hot {s : State} {n x : Nat} (hr : RegsOk s) (hn : n < 8) (hold : tgetD 0 s.pwr.thermal (64 + n) = 0) (hlo : 96 ≤ x)
    (hhi : x < 105) (hq : s.sk.hubq = []) (hs : s.sk.scans = []) :
    ∃ t : State, exec (.stackTemperatureReport n x) s = .next t ∧ t.fld (.skTstat n) SK_TSTAT_TEMP = x ∧ t.fld (.skTstat n) SK_TSTAT_REFX = 2 ∧
          t.flag (.skTstat n) SK_TSTAT_UTHROT = true ∧ t.flag (.skTstat n) SK_TSTAT_HTHROT = false ∧ t.flag (.skTstat n) SK_TSTAT_T85 = true ∧
          t.flag (.skTstat n) SK_TSTAT_T95 = true ∧ RegsBut [.skTstat n] s t ∧
          t = { s with regs := t.regs, pwr := { s.pwr with thermal := t.pwr.thermal }, sk := { s.sk with throtAt := t.sk.throtAt } } := by
  have hx : x < 256 := by omega
  have hl := newLevel_cold hold hlo hhi
  have hshows := shows_reported hr n hx
  obtain ⟨ht85, ht95⟩ := sticky_reported hr n hx hold hl.ge
  rw [hl] at hshows
  obtain ⟨rs, ta, heq⟩ := reported_eq hr n x
  refine ⟨_, by rw [exec_stackTemp hn hx, stackTemp_nothingHeld hr n x hq hs], hshows.temp, hshows.refx, hshows.uthrot, hshows.hthrot,
    ht85, ht95, regsBut_reported hr n x, ?_⟩
  rw [heq]
  rfl

theorem report_any {s : State} {n x : Nat} (hr : RegsOk s) (hwf : twf (fun _ => 0) s.pwr.thermal = true) (hn : n < 8) (hx : x < 256) :
    ∃ t : State, exec (.stackTemperatureReport n x) s = .next t ∧ t.fld (.skTstat n) SK_TSTAT_TEMP = x ∧
          t.fld (.skTstat n) SK_TSTAT_REFX = min (newLevel s n x) 2 ∧ t.flag (.skTstat n) SK_TSTAT_UTHROT = decide (newLevel s n x = 2) ∧
          t.flag (.skTstat n) SK_TSTAT_HTHROT = decide (newLevel s n x = 3) ∧ tgetD 0 t.pwr.thermal (64 + n) = newLevel s n x ∧
          RegsBut [.skTstat n] s t := by
  have hshows := shows_reported hr n hx
  have hheat := sameHeat_stackTemp s n x
  have hfld (f : Fld) : (s.stackTemp n x).fld (.skTstat n) f = (reported s n x).fld (.skTstat n) f := by
    rw [State.fld, State.reg, hheat.1, State.fld, State.reg]
  have hflag (f : Fld) : (s.stackTemp n x).flag (.skTstat n) f = (reported s n x).flag (.skTstat n) f := by rw [State.flag, hfld, State.flag]
  obtain ⟨rs, ta, heq⟩ := reported_eq hr n x
  refine ⟨_, exec_stackTemp hn hx s, (hfld _).trans hshows.temp, (hfld _).trans hshows.refx, (hflag _).trans hshows.uthrot,
    (hflag _).trans hshows.hthrot, ?_, regsBut_trans (regsBut_reported hr n x) (regsBut_of_regs _ hheat.1)⟩
  rw [hheat.2, heq]
  exact tget_tset_self _ _ _ _ hwf

/-! ### The other commands, as the statement has them -/

theorem refresh_counted {s : State} {g : Nat} (hg : g < 4096) :
    ∃ t : State, exec (.bankRefresh g) s = .next t ∧ tgetD 0 t.sk.refreshed g = tgetD 0 s.sk.refreshed g + 1 ∧
      (∀ j, j ≠ g → tgetD 0 t.sk.refreshed j = tgetD 0 s.sk.refreshed j) ∧ t = { s with sk := { s.sk with refreshed := t.sk.refreshed } } := by
  have hexec : exec (.bankRefresh g) s =
      .next { s with sk := { s.sk with refreshed := tsetD 0 s.sk.refreshed g (tgetD 0 s.sk.refreshed g + 1) } } := by
    show execBankRefresh g s = _
    rw [execBankRefresh, if_neg (by omega)]
  refine ⟨_, hexec, ?_, fun j hj => ?_, rfl⟩
  · exact tget_tset_kept (fun _ => 0) s.sk.refreshed g _ (Nat.succ_ne_zero _)
  · simp only [tgetD, tsetD]
    exact tget_tset_ne _ _ _ hj

theorem exec_skRegionWrite {n : Nat} (hn : n < 8) (h : Half) (v : Nat) (s : State) :
    exec (.skRegionWrite n h v) s = .next (if s.pwrGood then s.wrSkRegion n h v else s) := by
  show execSkRegionWrite n h v s = _
  rw [execSkRegionWrite, if_pos hn, State.onBus]

theorem write_changes {s : State} {n v : Nat} (hr : RegsOk s) (hp : s.pwrGood = true) (hn : n < 8)
    (hc : s.flag (.skRegion n) SK_REGION_CONV = false) (hne : bits v 0 47 ≠ s.fld (.skRegion n) SK_REGION_PLAIN) :
    ∃ t : State, exec (.skRegionWrite n .whole v) s = .next t ∧ t.fld (.skRegion n) SK_REGION_PLAIN = bits v 0 47 ∧
      t.flag (.skRegion n) SK_REGION_CONV = true ∧
      t.sk.conv = s.sk.conv ++ (changedBlocks (s.fld (.skRegion n) SK_REGION_PLAIN) (bits v 0 47)).map (48 * n + ·) ∧
      RegsBut [.skRegion n] s t ∧ t = { s with regs := t.regs, sk := { s.sk with conv := t.sk.conv } } := by
  have hok := s.regsOk_setFld (.skRegion n) SK_REGION_PLAIN (bits v 0 47) hr
  have hbut := regsBut_setFld s (.skRegion n) SK_REGION_PLAIN (bits v 0 47)
  have hplain : (s.setFld (.skRegion n) SK_REGION_PLAIN (bits v 0 47)).fld (.skRegion n) SK_REGION_PLAIN = bits v 0 47 :=
    (State.fld_setFld_self s (.skRegion n) SK_REGION_PLAIN _ hr (by decide)).trans (Nat.mod_eq_of_lt (bits_lt v 0 47))
  generalize hch : (changedBlocks (s.fld (.skRegion n) SK_REGION_PLAIN) (bits v 0 47)).map (48 * n + ·) = ch
  rw [exec_skRegionWrite hn, if_pos hp, wrSkRegion_whole hr hc hne, hch]
  obtain ⟨rs, hrs⟩ := onlyRegs_setFld s (.skRegion n) SK_REGION_PLAIN (bits v 0 47)
  rw [hrs] at hok hbut hplain ⊢
  refine ⟨_, rfl, ?_, ?_, ?_, ?_, rfl⟩
  · exact (State.fld_setFld_fld _ (.skRegion n) SK_REGION_CONV SK_REGION_PLAIN 1 (by exact hok) (by decide) (by decide)).trans hplain
  · exact flag_setFld_self hok (.skRegion n) SK_REGION_CONV True (by decide) (by decide)
  · rw [State.setFld_sk]
  · exact regsBut_trans hbut (regsBut_setFld _ _ _ _)

theorem write_ofHalf {s : State} {n v : Nat} {h : Half} (hr : RegsOk s) (hn : n < 8) (hh : h ≠ .whole) :
    ∃ t : State, exec (.skRegionWrite n h v) s = .next t ∧ RegsBut [] s t ∧ t = { s with regs := t.regs } := by
  rw [exec_skRegionWrite hn]
  refine ⟨_, rfl, ?_⟩
  split
  · rcases wrSkRegion_half hr n v hh with e | e <;> rw [e]
    · exact ⟨regsBut_of_regs _ rfl, rfl⟩
    · exact ⟨regsBut_setReg_same hr _, rfl⟩
  · exact ⟨regsBut_of_regs _ rfl, rfl⟩

theorem exec_conversionComplete {n : Nat} (hn : n < 8) (s : State) : exec (.conversionComplete n) s = .next (s.convDone n) := by
  show execConversionComplete n s = _
  rw [execConversionComplete, if_pos hn]

theorem conversion_ends {s : State} {n : Nat} (hr : RegsOk s) (hn : n < 8) (hheld : s.tier.heldAcc = []) (hidle : ∀ e ∈ s.sk.nbus, e.2.prog = 0) :
    ∃ t : State, exec (.conversionComplete n) s = .next t ∧ t.flag (.skRegion n) SK_REGION_CONV = false ∧
      t.sk.conv = s.sk.conv.filter (fun b => b / 48 ≠ n) ∧
      (∀ a, memByte t.mem a = if skBase + n * skSize ≤ a ∧ a < skBase + (n + 1) * skSize ∧
        s.sk.conv.contains (48 * n + (a - skBase) % skBank / 1048576) = true then 0#8 else memByte s.mem a) ∧
      RegsBut [.skRegion n] s t ∧ t = { s with regs := t.regs, mem := t.mem, sk := { s.sk with conv := t.sk.conv } } := by
  generalize hcv : s.sk.conv.filter (fun b => b / 48 ≠ n) = cv
  rw [exec_conversionComplete hn, convDone_idle hidle hheld, hcv]
  refine ⟨_, rfl, ?_, ?_, fun a => ?_, ?_, ?_⟩
  · exact flag_setFld_self hr (.skRegion n) SK_REGION_CONV False (by decide) (by decide)
  · rw [State.setFld_sk]
  · rw [State.setFld_mem, memByte, tget_tclear]
    exact if_congr (inConv_iff hn s.sk.conv a) rfl rfl
  · exact regsBut_setFld { s with mem := _, sk := _ } _ _ _
  · rfl

/-! ### The one thing that the model leaves open -/

/-- A pass over a row whose source is lost: row 0 of the first stack, a plain one after reset. -/
def lostPass : State := State.reset.tidePass 0 [⟨0, .addr 0, true⟩]

theorem causeFld_le {code c : Nat} (h : causeOf code = some c) : (causeFld c).lo + (causeFld c).w ≤ 64 := by
  unfold causeOf at h
  simp only [causeFld]
  split_ifs at h with h1 h2 h3
  all_goals
    obtain rfl := Option.some.inj h
    decide

theorem flag_setCause {s : State} (h : RegsOk s) {c : Nat} (hc : (causeFld c).lo + (causeFld c).w ≤ 64) :
    (s.setCause c).flag .glbInt (causeFld c) = true := by
  have hset : (s.setFld .glbInt (causeFld c) 1).flag .glbInt (causeFld c) = true := flag_setFld_self h .glbInt (causeFld c) True hc Nat.one_pos
  unfold State.setCause State.owe
  split
  next hs => exact hs
  · split
    · exact hset
    · exact hset

theorem flag_glbInt_reset (c : Nat) : (State.reset).flag .glbInt (causeFld c) = false := by
  have hreg : (State.reset).reg .glbInt = 0#64 := by decide +kernel
  have hfld : (State.reset).fld .glbInt (causeFld c) = 0 := by
    rw [State.fld, hreg, fget, bits_eq]
    simp
  rw [State.flag, hfld]
  decide

/-- The pass sets the global interrupt cause of TIDE_SOURCE, if the code that the event has is one that sets a cause. -/
theorem flag_lostPass {c : Nat} (hc : causeOf (Config.openCode 5 % 2 ^ 16) = some c) : lostPass.flag .glbInt (causeFld c) = true := by
  have hok : RegsOk (passStart State.reset 0 [⟨0, .addr 0, true⟩]) := regsOk_passStart _ _ rfl
  have ha : regionOf (rowAt ⟨0, .addr 0, true⟩) = .sketch 0 0 := by decide +kernel
  have hp : (passStart State.reset 0 [⟨0, .addr 0, true⟩]).plainBlock 0 0 = true := by decide +kernel
  rw [lostPass, tidePass_on (by decide +kernel), List.foldl_cons, List.foldl_nil, tideRow_lost ha hp (by decide +kernel) rfl, lostRow, State.incFld,
    flag_of_regsBut (regsBut_setFld _ (.skTide 0) _ _) (by simp [regOff])]
  simp only [State.raise, hc]
  refine flag_setCause ?_ (causeFld_le hc)
  rw [RegsOk, State.raiseRec_regs, setTide_regs]
  exact hok

end Sys2Proof.Proofs.SketchRegionsTideAndTemperature

section

open Sys2Proof Sys2Proof.Machine Sys2Proof.Safety Sys2Proof.Proofs.SketchRegionsTideAndTemperature

/-- What O31 comes to: `State.raise` sets no cause for the code of TIDE_SOURCE. Where it sets one, `lostPass` changes GLB_INT after reset,
against the clause on a pass of any rows; where it sets none, each clause is one of the lemmas above. (That clause wants `x.lost = false` of
its rows, or GLB_INT among the registers that may change.) -/
theorem sketchRegionsTideAndTemperature_iff :
    Obligations.SketchRegionsTideAndTemperature ↔ causeOf (Config.openCode 5 % 2 ^ 16) = none := by
  unfold Obligations.SketchRegionsTideAndTemperature
  constructor
  · rintro ⟨-, -, -, -, -, -, -, hpass, -⟩
    obtain ⟨t, hstep, -, -, -, hregs⟩ := hpass State.reset 0 [⟨0, .addr 0, true⟩] ⟨rfl, rfl⟩ (by decide) (by decide +kernel)
    rw [exec_tidePass (by decide), Host.Outcome.next.injEq] at hstep
    cases hc : causeOf (Config.openCode 5 % 2 ^ 16) with
    | none => rfl
    | some c =>
      have hflag := flag_lostPass hc
      rw [lostPass, hstep, flag_of_regsBut hregs (by simp [regOff]), flag_glbInt_reset] at hflag
      exact absurd hflag Bool.false_ne_true
  · intro hcode
    refine ⟨?_, ?_, ?_, ?_, ?_, ?_, ?_, ?_, ?_, ?_, ?_, ?_⟩
    · rintro s n v p hr hp hn hc rfl hne
      exact write_changes hr hp hn hc hne
    · intro s n v h hr hn hh
      exact write_ofHalf hr hn hh
    · intro s n v h hn hc
      rw [exec_skRegionWrite hn, wrSkRegion_conv hc, ite_self]
    · rintro s n ⟨-, hr⟩ hn hheld hidle
      exact conversion_ends hr hn hheld hidle
    · intro s n g u c rest hn hm hg hp hc hconv
      rw [exec_conversionComplete hn, convDone_busy hm hg hp hc hconv]
    · intro s n o x hcan hn hen ha hp hq hl
      obtain ⟨hmem, hbut, hmis, hpass, heq⟩ := tidePass_rewrites hcan hn hen ha hp hq hl
      exact ⟨_, exec_tidePass hn _ s, hmem, hbut, hmis, hpass.passes, hpass.go, hpass.regs, heq⟩
    · intro s n o x hr hn hen ha hp hq hl
      exact ⟨_, exec_tidePass hn _ s, tidePass_leaves_lost hcode hr hn hen ha hp hq hl⟩
    · rintro s n xs ⟨-, hr⟩ hn hen
      obtain ⟨hmem, hpass⟩ := tidePass_rows hcode hr hen xs
      exact ⟨_, exec_tidePass hn _ s, hmem, hpass.passes, hpass.go, hpass.regs⟩
    · intro s n xs hn hen
      rw [exec_tidePass hn, tidePass_off hen]
    · intro s n x hr hn hold _ hlo hhi hq hs
      exact report_hot hr hn hold hlo hhi hq hs
    · rintro s n x l hr hwf hn hx rfl
      exact report_any hr hwf hn hx
    · intro s g hg
      exact refresh_counted hg

end

/-! Refutation of O36. Its clauses that reach the scratchpad ask that every bank of the quad's E-die is ON and in no wipe, and nothing of the
die itself. A bank of an E-die that left service refuses all the same (17 Table 17-5), so that the instruction ends in ADDR. -/

namespace Sys2Proof.Proofs.TilesDrainSpillReloadAndTransfer

open Sys2Proof Sys2Proof.Machine Sys2Proof.Safety

/-! ### The scratchpad of an E-die that left service -/

theorem touchSpad_of_dieLost {s : State} {d : Nat} (hd : d ∈ s.pwr.diesLost) (o : Nat) : (s.touchSpad d o).2 = false := by
  have hserves : s.bankServes d (o / bankSize) = false := by simp [State.bankServes, hd]
  simp [State.touchSpad, hserves]

/-- Whatever else is touched, the first bank refuses. -/
theorem touchBanks_of_dieLost {s : State} {d : Nat} (hd : d ∈ s.pwr.diesLost) (off n : Nat) : (s.touchBanks d off n).2 = false := by
  rw [State.touchBanks, List.range_succ_eq_map, List.foldl_cons]
  refine List.foldlRecOn (motive := fun r : State × Bool => r.2 = false) _ _ ?_ fun r hr k _ => ?_
  · exact (Bool.true_and _).trans (touchSpad_of_dieLost hd _)
  · rw [hr, Bool.false_and]

theorem spadRead_of_dieLost {s : State} {q : Nat} (hd : q / 4 ∈ s.pwr.diesLost) (off : Nat) {n : Nat} (hn : n ≠ 0) :
    (s.spadRead q off n).2 = none := by
  simp only [State.spadRead, if_neg hn, touchBanks_of_dieLost hd, Bool.false_eq_true, if_false]
  split <;> rfl

/-! ### An instruction that has its turn -/

section
variable {s : State} {q u t op w : Nat} {th : Thread}

/-- Issue moves the thread past its word and the rotation behind the thread. -/
theorem taken_of_issues (h : Issues q u t op w th s) (hu : u < 4) : s.taken q u t w = (turned q u t w s).setThread q u t (past th) := by
  obtain ⟨⟨⟨hth, -⟩, -⟩, hwv, -⟩ := h
  have htakes : takesSem w (iWait w) = false := by simp [takesSem, hwv]
  have hferry : ¬ (8 ≤ u ∧ u < 12) := by omega
  have hturned : (turned q u t w s).thread q u t = some th := hth
  simp only [State.taken, htakes, Bool.false_eq_true, if_false, if_neg hferry, State.mapThread]
  exact hturned ▸ rfl

/-- It executes. -/
theorem issue_of_issues (h : Issues q u t op w th s) (run : State → Iss → Option State) : s.issue q u t .good op run =
    (run (s.taken q u t w) { q, u, t, op, o := bits w 0 92, sig := none }).getD
      ((s.taken q u t w).stay { q, u, t, op, o := bits w 0 92, sig := none }) := by
  obtain ⟨⟨⟨hth, hdry, hword, hon, hop, hclass, hruns, hthr, hform⟩, hready, hturn⟩, hwv, hsv, hpred⟩ := h
  have hw : s.wordReady q u t w = true := by simp [State.wordReady, hwv, hready]
  have hg : s.granted q u t w = true := by simp [State.granted, takesSem, hwv]
  subst hop
  simp [State.issue, hth, hdry, hword, hon, hclass, hruns, hthr, hform, hw, hturn, hg, hsv]
  intro hi hp
  rw [hpred hi] at hp
  cases hp

end

/-! ### A RELOAD from there -/

/-- A RELOAD in place and of the recorded format ends in ADDR. -/
theorem reload_of_dieLost {s : State} {x : Iss} (hd : x.q / 4 ∈ s.pwr.diesLost) (hok : spillOk x = true) (hf : s.fmtAgrees (spillTile x) = true) :
    ∃ u : State, s.reload x = some (u.fault x 0x0306) := by
  have hlen : 128 * (if (spillTile x).fp32 = true then 4 else 16) * (spillTile x).m ≠ 0 := by
    have hm : (spillTile x).m ≠ 0 := Nat.succ_ne_zero _
    split <;> simp [hm]
  simp only [State.reload, hok, hf, Bool.true_eq_false, not_true_eq_false, if_false, spadRead_of_dieLost hd _ hlen]
  exact ⟨_, rfl⟩

theorem raised_fault (s : State) (x : Iss) : (s.fault x 0x0306).evt.raised ≠ [] := by
  have hraise : (s.raise (s.quadLog x.q) x.src 0x0306 []).evt.raised ≠ [] := List.append_ne_nil_of_right_ne_nil _ (by simp)
  rw [State.fault, State.quadFault]
  split
  · unfold State.startAbort
    split
    · exact hraise
    · exact hraise
  · exact hraise

/-- RELOAD of a tile in place and of the recorded format leaves an event behind. -/
theorem raised_exec_reload {s t : State} {q u t0 w : Nat} {th : Thread} (hd : q / 4 ∈ s.pwr.diesLost) (hu : u < 4)
    (h : Issues q u t0 0x34 w th s) (hok : spillOk { q, u, t := t0, op := 0x34, o := bits w 0 92, sig := none } = true)
    (hf : s.fmtAgrees (spillTile { q, u, t := t0, op := 0x34, o := bits w 0 92, sig := none }) = true)
    (hstep : exec (.reload q u t0 .good) s = .next t) : t.evt.raised ≠ [] := by
  have htaken := taken_of_issues h hu
  obtain ⟨v, hv⟩ := reload_of_dieLost (s := s.taken q u t0 w) (x := { q, u, t := t0, op := 0x34, o := bits w 0 92, sig := none })
    (htaken ▸ hd) hok (htaken ▸ hf)
  have hexec : exec (.reload q u t0 .good) s = .next (v.fault { q, u, t := t0, op := 0x34, o := bits w 0 92, sig := none } 0x0306) :=
    congrArg Host.Outcome.next ((issue_of_issues h _).trans (by rw [hv, Option.getD_some]))
  obtain rfl := Host.Outcome.next.inj (hexec.symm.trans hstep)
  exact raised_fault v _

/-! ### The counterexample -/

/-- RELOAD of one row of W128 values into granule 0, from the scratchpad's first bytes: thread 0's word. -/
def reloadWord : Nat := 0x34 * 2 ^ 120 + 3 * 2 ^ 116

/-- A thread with that word alone, at address 0. -/
def reloadThread : Thread := { base := 0, ninstr := 1 }

/-- What runs on quad 0. -/
def lostInst : Inst where
  part := 0
  kind := 0
  object := 0
  limit := 0
  startsem := 0
  tring := 0
  quads := [0]
  image := 0
  bind := 0
  seminit := []
  scheds := []

/-- After reset, but partition 0 has quad 0, which is in use, and the first bank of E-die 0, and the E-die has left service. -/
def lostDieState : State :=
  (((({ State.reset with
      mem := [(14, 0x30#8), (15, 0x34#8)]
      pwr := { diesLost := [0] }
      ctl := { insts := [(0, some lostInst)], threads := [(thrKey 0 0 0, some reloadThread)] } } : State).setFld
    (.schQuad 0) SCH_QUAD_INST 0).setFld (.pwrQuad 0) PWR_QUAD_STATE 0).setOwner 0 0 0).setOwner 1 0 0

theorem issues_lostDieState : Issues 0 0 0 0x34 reloadWord reloadThread lostDieState := by decide +kernel

/-- The whole window lies in the first bank, which is partition 0's, as the quad is. -/
theorem unitRange_lostDieState : lostDieState.unitRange 0 (spadAt 0 0) 2048 = true := by decide +kernel

theorem bankSt_lostDieState : ∀ b < 64, lostDieState.bankSt 0 b = 0 := by decide +kernel

end Sys2Proof.Proofs.TilesDrainSpillReloadAndTransfer

section

open Sys2Proof Sys2Proof.Machine Sys2Proof.Safety Sys2Proof.Proofs.TilesDrainSpillReloadAndTransfer

/-- Refutes O36: its clause on RELOAD wants the tile's bytes out of the scratchpad and no event, with every bank ON and no wipe under way.
`lostDieState` meets that, but its E-die has left service: the bank refuses, and the RELOAD raises ADDR (12 R268, 17 Table 17-5). (A die
that is lost gives up its quads with its banks, and then none of its quads issues. The clauses on RELOAD, SPILL and DRAIN want
`q / 4 ∉ s.pwr.diesLost` as a hypothesis.) -/
theorem not_tilesDrainSpillReloadAndTransfer : ¬ Obligations.TilesDrainSpillReloadAndTransfer := by
  unfold Obligations.TilesDrainSpillReloadAndTransfer
  rintro ⟨-, -, -, hreload, -⟩
  obtain ⟨t, hstep, -, -, -, -, -, -, hevt⟩ := hreload lostDieState 0 0 0 reloadWord 0 reloadThread ⟨granId 0 0 0 0, false, 1⟩ (by decide)
    issues_lostDieState (by decide) (by decide) (by decide) rfl rfl (by decide) (by decide) unitRange_lostDieState bankSt_lostDieState rfl
  refine raised_exec_reload (by decide) (by decide) issues_lostDieState (by decide) (by decide) hstep ?_
  rw [hevt]
  rfl

end

/-! Proof of O28: failures of memory, thermal states, flash and the counting windows. The lemmas go from fields written to one register over
what a failure leaves as it was to each report and each flash command. -/

namespace Sys2Proof.Proofs.MemoryErrorsTemperaturesAndFlash

open Sys2Proof Sys2Proof.Machine Sys2Proof.Safety
open Sys2Proof.Proofs.RankingModelsAndTables (regsBut_setFld)
open Sys2Proof.Proofs.SketchRegionsTideAndTemperature (regsBut_trans regsBut_of_regs OnlyRegs OnlyRegs.trans onlyRegs_setFld setIf
  regsOk_setIf fld_setIf regsBut_setIf onlyRegs_setIf flag_setIf_self flag_setIf_fld flag_setFld_self raise_silent raised_raiseRec fld_of_regsBut)

/-! ### Several fields of one register -/

/-- Fields of register `r` take values, one after the other. -/
def setFlds (r : Reg) (l : List (Fld × Nat)) (s : State) : State := l.foldl (fun s e => s.setFld r e.1 e.2) s

/-- The fields lie in a word and do not meet. -/
def tidy : List Fld → Bool
  | [] => true
  | f :: fs => decide (f.lo + f.w ≤ 64) && fs.all (fun g => decide (f.lo + f.w ≤ g.lo ∨ g.lo + g.w ≤ f.lo)) && tidy fs

theorem tidy_cons {f : Fld} {fs : List Fld} : tidy (f :: fs) = true ↔
    f.lo + f.w ≤ 64 ∧ (∀ g ∈ fs, f.lo + f.w ≤ g.lo ∨ g.lo + g.w ≤ f.lo) ∧ tidy fs = true := by
  simp [tidy, and_assoc]

section
variable {r : Reg} {s : State}

theorem regsOk_setFlds (h : RegsOk s) (l : List (Fld × Nat)) : RegsOk (setFlds r l s) :=
  List.foldlRecOn (motive := fun t : State => RegsOk t) l _ h fun t ht _ _ => t.regsOk_setFld _ _ _ ht

theorem regsBut_setFlds (l : List (Fld × Nat)) : RegsBut [r] s (setFlds r l s) :=
  List.foldlRecOn (motive := RegsBut [r] s) l _ (regsBut_of_regs _ rfl) fun t ht _ _ => regsBut_trans ht (regsBut_setFld t _ _ _)

theorem onlyRegs_setFlds (l : List (Fld × Nat)) : OnlyRegs s (setFlds r l s) :=
  List.foldlRecOn (motive := OnlyRegs s) l _ ⟨s.regs, rfl⟩ fun t ht _ _ => ht.trans (onlyRegs_setFld t _ _ _)

theorem fld_setFlds_apart (h : RegsOk s) {l : List (Fld × Nat)} {f : Fld} (hl : tidy (l.map Prod.fst) = true)
    (hf : ∀ g ∈ l.map Prod.fst, f.lo + f.w ≤ g.lo ∨ g.lo + g.w ≤ f.lo) : (setFlds r l s).fld r f = s.fld r f := by
  induction l generalizing s with
  | nil => rfl
  | cons e l ih =>
    rw [List.map_cons] at hl hf
    obtain ⟨he, -, hl⟩ := tidy_cons.1 hl
    refine (ih (s.regsOk_setFld _ _ _ h) hl fun g hg => hf g (List.mem_cons_of_mem _ hg)).trans ?_
    exact State.fld_setFld_fld _ _ _ _ _ h he (hf e.1 List.mem_cons_self)

/-- Each field holds its value. -/
theorem fld_setFlds (h : RegsOk s) {l : List (Fld × Nat)} (hl : tidy (l.map Prod.fst) = true) {f : Fld} {v : Nat} (hm : (f, v) ∈ l) :
    (setFlds r l s).fld r f = v % 2 ^ f.w := by
  induction l generalizing s with
  | nil => exact absurd hm List.not_mem_nil
  | cons e l ih =>
    rw [List.map_cons] at hl
    obtain ⟨he, hne, hl'⟩ := tidy_cons.1 hl
    rcases List.mem_cons.1 hm with rfl | hm
    · exact (fld_setFlds_apart (s.regsOk_setFld _ _ _ h) hl' hne).trans (State.fld_setFld_self _ _ _ _ h he)
    · exact ih (s.regsOk_setFld _ _ _ h) hl' hm

/-- A field of one bit that shows whether `b` holds. -/
theorem flag_setFlds (h : RegsOk s) {l : List (Fld × Nat)} (hl : tidy (l.map Prod.fst) = true) {f : Fld} {b : Prop} [Decidable b]
    (hm : (f, if b then 1 else 0) ∈ l) (hw : 0 < f.w) : (setFlds r l s).flag r f = decide b := by
  have hone : 1 % 2 ^ f.w = 1 := Nat.mod_eq_of_lt (Nat.one_lt_two_pow (by omega))
  rw [State.flag, fld_setFlds h hl hm]
  by_cases hb : b <;> simp [hb, hone]

end

theorem fld_of_regOff (s : State) {r x : Reg} (h : regOff x = regOff r) (f : Fld) : s.fld x f = s.fld r f := by
  rw [State.fld, State.reg, h, State.fld, State.reg]

theorem fld_of_sameRegs {s t : State} (h : t.regs = s.regs) (r : Reg) (f : Fld) : t.fld r f = s.fld r f := by
  rw [State.fld, State.reg, h, State.fld, State.reg]

theorem flag_of_sameRegs {s t : State} (h : t.regs = s.regs) (r : Reg) (f : Fld) : t.flag r f = s.flag r f := by
  rw [State.flag, fld_of_sameRegs h, State.flag]

theorem flag_setFld_one {s : State} (h : RegsOk s) (r : Reg) (f : Fld) (hf : f.lo + f.w ≤ 64) (hw : 0 < f.w) : (s.setFld r f 1).flag r f = true :=
  (flag_setFld_self h r f True hf hw).trans (decide_true ..)

/-- A bit of a field of 16 that is put to 1. -/
theorem bitAt_putBits_one (n : Nat) {c w : Nat} (hc : c < w) : bitAt (putBits n c 1 1 % 2 ^ w) c = true := by
  rw [bitAt, Nat.testBit_mod_two_pow, testBit_putBits, decide_eq_true hc, if_neg (Nat.lt_irrefl c), if_pos (Nat.lt_succ_self c), Nat.sub_self]
  rfl

/-! ### Counters -/

section
variable {r : Reg} {f g : Fld} {s : State} {n : Nat}

theorem fld_incFld_wrap (h : RegsOk s) (hf : f.lo + f.w ≤ 64) (hs : f.sat = false) : (s.incFld r f n).fld r f = (s.fld r f + n) % 2 ^ f.w := by
  rw [State.incFld, State.fld_setFld_self _ _ _ _ h hf, hs, if_neg Bool.false_ne_true]

theorem fld_incFld_sat (h : RegsOk s) (hf : f.lo + f.w ≤ 64) (hs : f.sat = true) :
    (s.incFld r f n).fld r f = satAdd (2 ^ f.w - 1) (s.fld r f) n := by
  have hpos : 0 < 2 ^ f.w := Nat.two_pow_pos _
  rw [State.incFld, State.fld_setFld_self _ _ _ _ h hf, hs, if_pos rfl]
  refine Nat.mod_eq_of_lt ?_
  unfold satAdd
  split <;> omega

theorem fld_incFld_fld (h : RegsOk s) (hf : f.lo + f.w ≤ 64) (hd : g.lo + g.w ≤ f.lo ∨ f.lo + f.w ≤ g.lo) :
    (s.incFld r f n).fld r g = s.fld r g := State.fld_setFld_fld _ _ _ _ _ h hf hd

end

/-! ### Failures of channels, stacks and devices (11 R245) -/

theorem regionOf_hbm_lt {a n o : Nat} (h : regionOf a = .hbm n o) : n < 12 := by
  unfold regionOf at h
  split at h
  next ha =>
    obtain ⟨rfl, -⟩ := Region.hbm.inj h
    exact Nat.div_lt_of_lt_mul (by rwa [Nat.mul_comm])
  next => repeat' split at h
          all_goals exact Region.noConfusion h

theorem regionOf_gddr_lt {a n o : Nat} (h : regionOf a = .gddr n o) : n < 4 := by
  unfold regionOf at h
  split at h
  · exact Region.noConfusion h
  split at h
  · exact Region.noConfusion h
  split at h
  next ha =>
    obtain ⟨rfl, -⟩ := Region.gddr.inj h
    exact Nat.div_lt_of_lt_mul (by omega)
  next => repeat' split at h
          all_goals exact Region.noConfusion h

theorem gddrDev_lt {n o : Nat} (hn : n < 4) : gddrDev n o < 48 := by
  unfold gddrDev
  omega

/-- What decides which bytes are lost, and memory, are as they were. -/
structure SameLoss (s t : State) : Prop where
  regs : t.regs = s.regs
  failed : t.tier.failed = s.tier.failed
  mem : t.mem = s.mem

theorem SameLoss.trans {s t u : State} (h : SameLoss s t) (g : SameLoss t u) : SameLoss s u :=
  ⟨g.regs.trans h.regs, g.failed.trans h.failed, g.mem.trans h.mem⟩

theorem SameLoss.foldl {α : Type} {f : State → α → State} (hf : ∀ s a, SameLoss s (f s a)) (l : List α) (s : State) : SameLoss s (l.foldl f s) :=
  List.foldlRecOn (motive := SameLoss s) l f ⟨rfl, rfl, rfl⟩ fun t ht a _ => ht.trans (hf t a)

theorem sameLoss_affectAll (s : State) (ps : List Nat) (code : Nat) : SameLoss s (s.affectAll ps code) :=
  SameLoss.foldl (f := fun s p => s.affect p code) (fun _ _ => ⟨rfl, rfl, rfl⟩) ps s

theorem sameLoss_raise {code : Nat} (h : causeOf code = none) (s : State) (log src : Nat) (data : List Byte) :
    SameLoss s (s.raise log src code data) := by
  rw [raise_silent h]
  exact ⟨rfl, rfl, rfl⟩

theorem sameLoss_loseObjects (s : State) : SameLoss s s.loseObjects := by
  refine SameLoss.foldl (fun s o => ?_) s.tier.objs s
  split
  · exact SameLoss.trans (t := s.mapObj o.handle _) ⟨rfl, rfl, rfl⟩ (sameLoss_raise (code := 0x0505) (by decide) _ _ _ _)
  · exact ⟨rfl, rfl, rfl⟩

theorem byteLost_congr {s t : State} (hf : t.tier.failed = s.tier.failed)
    (hh : ∀ n, t.fld (.memHstat n) MEM_HSTAT_CHFAIL = s.fld (.memHstat n) MEM_HSTAT_CHFAIL)
    (hg : ∀ d, t.flag (.memGstat d) MEM_GSTAT_FAILED = s.flag (.memGstat d) MEM_GSTAT_FAILED) (a : Nat) : t.byteLost a = s.byteLost a := by
  simp only [State.byteLost, hf, hh, hg]

theorem byteLost_of_sameLoss {s t : State} (h : SameLoss s t) (a : Nat) : t.byteLost a = s.byteLost a :=
  byteLost_congr h.failed (fun _ => fld_of_sameRegs h.regs _ _) (fun _ => flag_of_sameRegs h.regs _ _) a

theorem byteLost_of_channel {s : State} {a n o : Nat} (ha : regionOf a = .hbm n o)
    (h : bitAt (s.fld (.memHstat n) MEM_HSTAT_CHFAIL) (hbmChannel o) = true) : s.byteLost a = true := by
  simp [State.byteLost, ha, h]

/-- The units' numbers in the list of failed ones and in the failed device's register. -/
theorem byteLost_of_unit {s : State} {u : Nat} (hlist : u < 12 ∨ 64 ≤ u → u ∈ s.tier.failed)
    (hflag : 16 ≤ u → u < 64 → s.flag (.memGstat (u - 16)) MEM_GSTAT_FAILED = true) {a n o : Nat}
    (h : (regionOf a = .hbm n o ∧ u = n) ∨ (regionOf a = .gddr n o ∧ u = 16 + gddrDev n o) ∨ (regionOf a = .sketch n o ∧ u = 64 + n)) :
    s.byteLost a = true := by
  rcases h with ⟨ha, rfl⟩ | ⟨ha, rfl⟩ | ⟨ha, rfl⟩
  · simp [State.byteLost, ha, hlist (.inl (regionOf_hbm_lt ha))]
  · have hdev := gddrDev_lt (o := o) (regionOf_gddr_lt ha)
    have hf := hflag (by omega) (by omega)
    rw [Nat.add_sub_cancel_left] at hf
    simp [State.byteLost, ha, hf]
  · simp [State.byteLost, ha, hlist (.inr (by omega))]

/-- The unit is among the failed ones. -/
def fenced (u : Nat) (s : State) : State :=
  if s.tier.failed.contains u then s else { s with tier := { s.tier with failed := s.tier.failed ++ [u] } }

theorem mem_fenced (u : Nat) (s : State) : u ∈ (fenced u s).tier.failed := by
  unfold fenced
  split
  next h => exact List.contains_iff_mem.1 h
  next => exact List.mem_append_right _ (List.mem_singleton_self u)

theorem fenced_regs (u : Nat) (s : State) : (fenced u s).regs = s.regs := by
  unfold fenced
  split <;> rfl

theorem fenced_mem (u : Nat) (s : State) : (fenced u s).mem = s.mem := by
  unfold fenced
  split <;> rfl

/-- The state in which the failure of a unit has raised its event. -/
def failing (src : Nat) (s : State) : State := s.raise modLog src 0x0504 []

theorem failing_eq (src : Nat) (s : State) : failing src s = s.raiseRec modLog src 0x0504 [] := raise_silent (by decide) ..

theorem raised_failing (src : Nat) (s : State) : Raised modLog src 0x0504 [] s (failing src s) := by
  rw [failing_eq]
  exact raised_raiseRec rfl rfl _ _ _ _

theorem onlyEvt_failing (src : Nat) (s : State) : ∃ ev : EvState, failing src s = { s with evt := ev } := ⟨_, failing_eq src s⟩

theorem sameLoss_failing (src : Nat) (s : State) : SameLoss s (failing src s) := sameLoss_raise (by decide) s _ _ _

section
variable {s : State} {u : Nat}

theorem exec_memChfail (u : Nat) (how : ChFail) (s : State) : exec (.memChfail u how) s = .next (s.chFail u how) := rfl

theorem chFail_laneSpare (hu : u < 12) : s.chFail u .laneSpare = failing (srcHs u) s := by
  simp [State.chFail, hu, failing]

theorem chFail_laneNoSpare (hu : u < 12) (c : Nat) : s.chFail u (.laneNoSpare c) =
    (failing (srcHs u) s).setFld (.memHstat u) MEM_HSTAT_HALFW (putBits ((failing (srcHs u) s).fld (.memHstat u) MEM_HSTAT_HALFW) c 1 1) := by
  simp [State.chFail, hu, failing]

theorem chFail_channel (hu : u < 12) (c : Nat) : ∃ ps, s.chFail u (.channel c) =
    (((failing (srcHs u) s).affectAll ps 0x0504).setFld (.memHstat u) MEM_HSTAT_CHFAIL
      (putBits ((failing (srcHs u) s).fld (.memHstat u) MEM_HSTAT_CHFAIL) c 1 1)).loseObjects := by
  refine ⟨(failing (srcHs u) s).ownersOf 2 (36 * u) 36, ?_⟩
  simp [State.chFail, hu, failing]

/-- An HBM3E stack leaves service. -/
def hbmOut (u : Nat) (s : State) : State :=
  let v := fenced u (s.setFld (.memHstat u) MEM_HSTAT_CHFAIL 0xFFFF)
  v.setFld .fltHealth FLT_HEALTH_HSOUT (putBits (v.fld .fltHealth FLT_HEALTH_HSOUT) u 1 1)

/-- A sketch stack leaves service. -/
def sketchOut (u : Nat) (s : State) : State :=
  let v := fenced u s
  v.setFld .fltHealth FLT_HEALTH_SKOUT (putBits (v.fld .fltHealth FLT_HEALTH_SKOUT) (u - 64) 1 1)

/-- What follows when a stack is out: its partitions are affected, STACK_LOST is raised, and objects without a home are lost. -/
def stackLost (ps : List Nat) (src : Nat) (s : State) : State :=
  ((s.affectAll ps 0x0B04).raise modLog srcM 0x0B04 (leBytes 2 src)).loseObjects

theorem chFail_whole_hbm (hu : u < 12) : ∃ ps, s.chFail u .whole = stackLost ps (srcHs u) (hbmOut u (failing (srcHs u) s)) := by
  refine ⟨(hbmOut u (failing (srcHs u) s)).ownersOf 2 (36 * u) 36, ?_⟩
  simp only [State.chFail, hu, true_or, not_true_eq_false, if_false, if_true]
  rfl

theorem chFail_whole_gddr (hlo : 16 ≤ u) (hhi : u < 64) : ∃ ps, s.chFail u .whole =
    (fenced u (((failing (srcGddr (u - 16)) s).affectAll ps 0x0504).setFld (.memGstat (u - 16)) MEM_GSTAT_FAILED 1)).loseObjects := by
  have hu : ¬ u < 12 := by omega
  refine ⟨(failing (srcGddr (u - 16)) s).ownersOf 3 (36 * ((u - 16) / 12)) 36, ?_⟩
  simp only [State.chFail, hu, hlo, hhi, true_and, true_or, or_true, not_true_eq_false, if_false, if_true]
  rfl

theorem chFail_whole_sketch (hlo : 64 ≤ u) (hhi : u < 72) : ∃ ps, s.chFail u .whole =
    stackLost ps (srcSk (u - 64)) (sketchOut u (failing (srcSk (u - 64)) s)) := by
  have hu : ¬ u < 12 := by omega
  have hg : ¬ u < 64 := by omega
  refine ⟨(sketchOut u (failing (srcSk (u - 64)) s)).ownersOf 4 (512 * (u - 64)) 512, ?_⟩
  simp only [State.chFail, hu, hg, hlo, hhi, true_and, or_true, not_true_eq_false, if_false]
  rfl

theorem sameLoss_stackLost (ps : List Nat) (src : Nat) (s : State) : SameLoss s (stackLost ps src s) :=
  ((sameLoss_affectAll s ps 0x0B04).trans (sameLoss_raise (by decide) _ _ _ _)).trans (sameLoss_loseObjects _)

theorem failing_mem (src : Nat) (s : State) : (failing src s).mem = s.mem := by rw [failing_eq, State.raiseRec_mem]

theorem hbmOut_mem (u : Nat) (s : State) : (hbmOut u s).mem = s.mem := by
  simp only [hbmOut, State.setFld_mem, fenced_mem]

theorem mem_hbmOut (u : Nat) (s : State) : u ∈ (hbmOut u s).tier.failed := by
  simp only [hbmOut, State.setFld_tier, mem_fenced]

theorem sketchOut_mem (u : Nat) (s : State) : (sketchOut u s).mem = s.mem := by
  simp only [sketchOut, State.setFld_mem, fenced_mem]

theorem mem_sketchOut (u : Nat) (s : State) : u ∈ (sketchOut u s).tier.failed := by
  simp only [sketchOut, State.setFld_tier, mem_fenced]

/-- A whole unit: a stack is among the failed ones, a device is so in its register, and memory keeps what it holds. -/
theorem chFail_whole (hr : RegsOk s) (hu : u < 12 ∨ (16 ≤ u ∧ u < 64) ∨ (64 ≤ u ∧ u < 72)) :
    (u < 12 ∨ 64 ≤ u → u ∈ (s.chFail u .whole).tier.failed) ∧
      (16 ≤ u → u < 64 → (s.chFail u .whole).flag (.memGstat (u - 16)) MEM_GSTAT_FAILED = true) ∧ (s.chFail u .whole).mem = s.mem := by
  rcases hu with hu | ⟨hlo, hhi⟩ | ⟨hlo, hhi⟩
  · obtain ⟨ps, hps⟩ := chFail_whole_hbm (s := s) hu
    have hsame := sameLoss_stackLost ps (srcHs u) (hbmOut u (failing (srcHs u) s))
    rw [hps, hsame.failed, hsame.mem, hbmOut_mem, failing_mem]
    exact ⟨fun _ => mem_hbmOut u _, fun _ _ => by omega, rfl⟩
  · obtain ⟨ps, hps⟩ := chFail_whole_gddr (s := s) hlo hhi
    have haff := sameLoss_affectAll (failing (srcGddr (u - 16)) s) ps 0x0504
    generalize (failing (srcGddr (u - 16)) s).affectAll ps 0x0504 = v at hps haff
    have hok : RegsOk v := by
      rw [RegsOk, haff.regs, failing_eq]
      exact hr
    have hsame := sameLoss_loseObjects (fenced u (v.setFld (.memGstat (u - 16)) MEM_GSTAT_FAILED 1))
    rw [hps, hsame.mem, fenced_mem, State.setFld_mem, haff.mem, failing_mem]
    refine ⟨fun h => by omega, fun _ _ => ?_, rfl⟩
    rw [flag_of_sameRegs (hsame.regs.trans (fenced_regs u _))]
    exact flag_setFld_one hok _ _ (by decide) (by decide)
  · obtain ⟨ps, hps⟩ := chFail_whole_sketch (s := s) hlo hhi
    have hsame := sameLoss_stackLost ps (srcSk (u - 64)) (sketchOut u (failing (srcSk (u - 64)) s))
    rw [hps, hsame.failed, hsame.mem, sketchOut_mem, failing_mem]
    exact ⟨fun _ => mem_sketchOut u _, fun _ _ => by omega, rfl⟩

/-- A lane that fails without a spare. -/
theorem laneNoSpare_halves (hr : RegsOk s) (hu : u < 12) {c : Nat} (hc : c < 16) :
    ∃ t : State, exec (.memChfail u (.laneNoSpare c)) s = .next t ∧ bitAt (t.fld (.memHstat u) MEM_HSTAT_HALFW) c = true ∧
      (∀ a, t.byteLost a = s.byteLost a) ∧ Raised modLog (srcHs u) 0x0504 [] s t ∧ RegsBut [.memHstat u] s t ∧
        t = { s with regs := t.regs, evt := t.evt } := by
  have hg (d : Nat) : regOff (.memGstat d) ≠ regOff (.memHstat u) := by
    simp only [regOff]
    omega
  have hok : RegsOk (failing (srcHs u) s) := by
    rw [failing_eq]
    exact hr
  rw [exec_memChfail, chFail_laneNoSpare hu]
  generalize hx : putBits ((failing (srcHs u) s).fld (.memHstat u) MEM_HSTAT_HALFW) c 1 1 = x
  have hlost (a : Nat) : ((failing (srcHs u) s).setFld (.memHstat u) MEM_HSTAT_HALFW x).byteLost a = (failing (srcHs u) s).byteLost a := by
    refine byteLost_congr (congrArg TierState.failed (State.setFld_tier ..)) (fun n => ?_) (fun d => ?_) a
    · by_cases hn : regOff (.memHstat n) = regOff (.memHstat u)
      · rw [fld_of_regOff _ hn, fld_of_regOff _ hn, State.fld_setFld_fld _ _ _ _ _ hok (by decide) (by decide)]
      · rw [State.fld_setFld_ne _ _ _ _ _ _ hn]
    · rw [State.flag, State.fld_setFld_ne _ _ _ _ _ _ (hg d), ← State.flag]
  refine ⟨_, rfl, ?_, fun a => (hlost a).trans (byteLost_of_sameLoss (sameLoss_failing _ s) a), ?_, ?_, ?_⟩
  · rw [State.fld_setFld_self _ _ _ _ hok (by decide), ← hx]
    exact bitAt_putBits_one _ hc
  · rw [Raised, State.setFld_evt]
    exact raised_failing (srcHs u) s
  · exact regsBut_trans (regsBut_of_regs _ (sameLoss_failing (srcHs u) s).regs) (regsBut_setFld _ _ _ _)
  · obtain ⟨rs, hrs⟩ := onlyRegs_setFld (failing (srcHs u) s) (.memHstat u) MEM_HSTAT_HALFW x
    obtain ⟨ev, hev⟩ := onlyEvt_failing (srcHs u) s
    rw [hrs, hev]

/-- A failed channel. -/
theorem channel_loses (hr : RegsOk s) (hu : u < 12) {c : Nat} (hc : c < 16) :
    ∃ t : State, exec (.memChfail u (.channel c)) s = .next t ∧
      (∀ a o, regionOf a = .hbm u o → hbmChannel o = c → t.byteLost a = true) ∧ t.mem = s.mem := by
  obtain ⟨ps, hps⟩ := chFail_channel (s := s) hu c
  have haff := sameLoss_affectAll (failing (srcHs u) s) ps 0x0504
  generalize (failing (srcHs u) s).affectAll ps 0x0504 = v at hps haff
  have hok : RegsOk v := by
    rw [RegsOk, haff.regs, failing_eq]
    exact hr
  generalize hx : putBits ((failing (srcHs u) s).fld (.memHstat u) MEM_HSTAT_CHFAIL) c 1 1 = x at hps
  have hsame := sameLoss_loseObjects (v.setFld (.memHstat u) MEM_HSTAT_CHFAIL x)
  rw [exec_memChfail, hps]
  refine ⟨_, rfl, fun a o ha ho => ?_, ?_⟩
  · refine byteLost_of_channel ha ?_
    rw [fld_of_sameRegs hsame.regs, State.fld_setFld_self _ _ _ _ hok (by decide), ho, ← hx]
    exact bitAt_putBits_one _ hc
  · rw [hsame.mem, State.setFld_mem, haff.mem, failing_mem]

end

/-! ### Thermal states (11 R246, 16 Table 16-8) -/

/-- The unit's thermal state is kept. -/
def keptAt (u l : Nat) (s : State) : State := { s with pwr := { s.pwr with thermal := tsetD 0 s.pwr.thermal u l } }

/-- The event of a state that is higher than the one before. -/
def risen (b : Prop) [Decidable b] (src : Nat) (s : State) : State := if b then s.raise modLog src 0x0506 [] else s

section
variable {b : Prop} [Decidable b] {src : Nat} {s v : State} {u l : Nat}

theorem risen_eq : ∃ ev : EvState, risen b src v = { v with evt := ev } := by
  unfold risen
  split
  · exact ⟨_, raise_silent (by decide) ..⟩
  · exact ⟨v.evt, rfl⟩

theorem risen_fld (r : Reg) (f : Fld) : (risen b src v).fld r f = v.fld r f := by
  obtain ⟨ev, hev⟩ := risen_eq (b := b) (src := src) (v := v)
  rw [hev]
  rfl

theorem risen_flag (r : Reg) (f : Fld) : (risen b src v).flag r f = v.flag r f := by
  rw [State.flag, risen_fld, State.flag]

theorem risen_regsBut {rs : List Reg} (h : RegsBut rs s v) : RegsBut rs s (risen b src v) := by
  obtain ⟨ev, hev⟩ := risen_eq (b := b) (src := src) (v := v)
  rw [hev]
  exact h

/-- The event rises in a state that differs in registers and in the unit's thermal state. -/
theorem risen_raised (h : OnlyRegs (keptAt u l s) v) :
    if b then Raised modLog src 0x0506 [] s (risen b src v) else (risen b src v).evt = s.evt := by
  obtain ⟨rs, rfl⟩ := h
  unfold risen
  split
  · rw [raise_silent (by decide)]
    exact raised_raiseRec rfl rfl ..
  · rfl

theorem risen_frame (h : OnlyRegs (keptAt u l s) v) : risen b src v =
    { s with regs := (risen b src v).regs, evt := (risen b src v).evt, pwr := { s.pwr with thermal := (risen b src v).pwr.thermal } } := by
  obtain ⟨ev, hev⟩ := risen_eq (b := b) (src := src) (v := v)
  obtain ⟨rs, rfl⟩ := h
  rw [hev]
  rfl

theorem risen_thermal (h : OnlyRegs (keptAt u l s) v) : (risen b src v).pwr.thermal = tsetD 0 s.pwr.thermal u l := by
  obtain ⟨ev, hev⟩ := risen_eq (b := b) (src := src) (v := v)
  obtain ⟨rs, rfl⟩ := h
  rw [hev]
  rfl

end

/-! #### HBM3E -/

/-- The state of an HBM3E stack after a report. -/
def hbmLevel (s : State) (u x : Nat) : Nat :=
  thermalNext [(86, 82), (96, 92), (s.fld (.memHstat u) MEM_HSTAT_LIMIT, s.fld (.memHstat u) MEM_HSTAT_LIMIT - 3)] (tgetD 0 s.pwr.thermal u) x

/-- MEM_HSTAT takes the temperature and what state `l` calls for. -/
def hbmShown (u x l : Nat) (s : State) : State :=
  setFlds (.memHstat u) [(MEM_HSTAT_TEMP, x), (MEM_HSTAT_REFX, min l 2), (MEM_HSTAT_HTHROT, if l = 3 then 1 else 0)] s

/-- The same with the sticky bits of the states newly entered from state `old`. -/
def hbmSticky (u x old l : Nat) (s : State) : State :=
  setIf (old < 3 ∧ 3 ≤ l) (.memHstat u) MEM_HSTAT_TLIM (setIf (old < 2 ∧ 2 ≤ l) (.memHstat u) MEM_HSTAT_T95
    (setIf (old < 1 ∧ 1 ≤ l) (.memHstat u) MEM_HSTAT_T85 (hbmShown u x l s)))

theorem dramTemp_hbm {u : Nat} (hu : u < 12) (s : State) (x : Nat) : s.dramTemp u x =
    risen (tgetD 0 s.pwr.thermal u < hbmLevel s u x) (srcHs u)
      (hbmSticky u x (tgetD 0 s.pwr.thermal u) (hbmLevel s u x) (keptAt u (hbmLevel s u x) s)) := by
  simp only [State.dramTemp, if_pos hu]
  rfl

section
variable {s : State} {u x old l : Nat}

theorem regsOk_hbmShown (h : RegsOk s) : RegsOk (hbmShown u x l s) := regsOk_setFlds h _

theorem onlyRegs_hbmSticky : OnlyRegs s (hbmSticky u x old l s) :=
  (((onlyRegs_setFlds _).trans (onlyRegs_setIf _)).trans (onlyRegs_setIf _)).trans (onlyRegs_setIf _)

theorem regsBut_hbmSticky : RegsBut [.memHstat u] s (hbmSticky u x old l s) :=
  regsBut_trans (regsBut_trans (regsBut_trans (regsBut_setFlds _) (regsBut_setIf _)) (regsBut_setIf _)) (regsBut_setIf _)

/-- A field below the sticky bits. -/
theorem fld_hbmSticky (h : RegsOk s) {f : Fld} (hf : f.lo + f.w ≤ 19) : (hbmSticky u x old l s).fld (.memHstat u) f = (hbmShown u x l s).fld (.memHstat u) f := by
  have h0 : RegsOk (hbmShown u x l s) := regsOk_hbmShown h
  have h1 := regsOk_setIf (old < 1 ∧ 1 ≤ l) (r := .memHstat u) (f := MEM_HSTAT_T85) h0
  have h2 := regsOk_setIf (old < 2 ∧ 2 ≤ l) (r := .memHstat u) (f := MEM_HSTAT_T95) h1
  rw [hbmSticky, fld_setIf _ h2 (by decide) (.inl (hf.trans (by decide))), fld_setIf _ h1 (by decide) (.inl (hf.trans (by decide))),
    fld_setIf _ h0 (by decide) (.inl (hf.trans (by decide)))]

/-- Entered from the lowest state, the first sticky bit is set. -/
theorem t85_hbmSticky (h : RegsOk s) (hl : old < 1 ∧ 1 ≤ l) : (hbmSticky u x old l s).flag (.memHstat u) MEM_HSTAT_T85 = true := by
  have h0 : RegsOk (hbmShown u x l s) := regsOk_hbmShown h
  have h1 := regsOk_setIf (old < 1 ∧ 1 ≤ l) (r := .memHstat u) (f := MEM_HSTAT_T85) h0
  have h2 := regsOk_setIf (old < 2 ∧ 2 ≤ l) (r := .memHstat u) (f := MEM_HSTAT_T95) h1
  rw [hbmSticky, flag_setIf_fld _ h2 (by decide) (by decide), flag_setIf_fld _ h1 (by decide) (by decide)]
  exact flag_setIf_self h0 hl _ _ (by decide) (by decide)

theorem temp_hbmShown (h : RegsOk s) (hx : x < 256) : (hbmShown u x l s).fld (.memHstat u) MEM_HSTAT_TEMP = x :=
  (fld_setFlds h rfl (by simp)).trans (Nat.mod_eq_of_lt hx)

theorem refx_hbmShown (h : RegsOk s) : (hbmShown u x l s).fld (.memHstat u) MEM_HSTAT_REFX = min l 2 :=
  (fld_setFlds h rfl (by simp)).trans (Nat.mod_eq_of_lt ((min_le_right l 2).trans_lt (by decide)))

theorem hthrot_hbmShown (h : RegsOk s) : (hbmShown u x l s).flag (.memHstat u) MEM_HSTAT_HTHROT = decide (l = 3) :=
  flag_setFlds h rfl (by simp) (by decide)

end

/-- Registers, events and the unit's thermal state may differ, the thermal state being `l` now, and the event is raised if it rose. -/
structure Reported (r : Reg) (src u l : Nat) (s t : State) : Prop where
  thermal : t.pwr.thermal = tsetD 0 s.pwr.thermal u l
  regs : RegsBut [r] s t
  evt : if tgetD 0 s.pwr.thermal u < l then Raised modLog src 0x0506 [] s t else t.evt = s.evt
  frame : t = { s with regs := t.regs, evt := t.evt, pwr := { s.pwr with thermal := t.pwr.thermal } }

theorem reported_risen {r : Reg} {src u l : Nat} {s v : State} (h : OnlyRegs (keptAt u l s) v) (hr : RegsBut [r] (keptAt u l s) v) :
    Reported r src u l s (risen (tgetD 0 s.pwr.thermal u < l) src v) :=
  ⟨risen_thermal h, risen_regsBut hr, risen_raised h, risen_frame h⟩

/-- MEM_HSTAT shows a temperature of `x` and state `l`. -/
structure HbmShows (u x l : Nat) (t : State) : Prop where
  temp : t.fld (.memHstat u) MEM_HSTAT_TEMP = x
  refx : t.fld (.memHstat u) MEM_HSTAT_REFX = min l 2
  hthrot : t.flag (.memHstat u) MEM_HSTAT_HTHROT = decide (l = 3)

section
variable {s : State} {u x : Nat}

theorem hbm_reported (hu : u < 12) (x : Nat) : Reported (.memHstat u) (srcHs u) u (hbmLevel s u x) s (s.dramTemp u x) := by
  rw [dramTemp_hbm hu]
  exact reported_risen onlyRegs_hbmSticky regsBut_hbmSticky

theorem hbm_shows (hr : RegsOk s) (hu : u < 12) (hx : x < 256) : HbmShows u x (hbmLevel s u x) (s.dramTemp u x) := by
  have hk (l : Nat) : RegsOk (keptAt u l s) := hr
  rw [dramTemp_hbm hu]
  constructor
  · rw [risen_fld, fld_hbmSticky (hk _) (by decide), temp_hbmShown (hk _) hx]
  · rw [risen_fld, fld_hbmSticky (hk _) (by decide), refx_hbmShown (hk _)]
  · rw [risen_flag, State.flag, fld_hbmSticky (hk _) (by decide), ← State.flag, hthrot_hbmShown (hk _)]

theorem hbm_t85 (hr : RegsOk s) (hu : u < 12) (hold : tgetD 0 s.pwr.thermal u = 0) (hl : 1 ≤ hbmLevel s u x) :
    (s.dramTemp u x).flag (.memHstat u) MEM_HSTAT_T85 = true := by
  have hk (l : Nat) : RegsOk (keptAt u l s) := hr
  rw [dramTemp_hbm hu, risen_flag]
  exact t85_hbmSticky (hk _) ⟨by omega, hl⟩

/-- 86 to 95 degrees below the limit, on a cool stack. -/
theorem hbmLevel_cool (hold : tgetD 0 s.pwr.thermal u = 0) (hlo : 86 ≤ x) (hhi : x < 96) (hlim : x < s.fld (.memHstat u) MEM_HSTAT_LIMIT) :
    hbmLevel s u x = 1 := by
  have h96 : ¬ 96 ≤ x := by omega
  have hl : ¬ s.fld (.memHstat u) MEM_HSTAT_LIMIT ≤ x := by omega
  rw [hbmLevel, hold]
  simp [thermalNext, hlo, h96, hl]

/-! #### GDDR7 -/

/-- The state of a GDDR7 device after a report. -/
def gddrLevel (s : State) (u x : Nat) : Nat := thermalNext [(86, 82), (100, 97)] (tgetD 0 s.pwr.thermal u) x

/-- MEM_GSTAT takes the temperature and what state `l` calls for. -/
def gddrShown (d x l : Nat) (s : State) : State :=
  setFlds (.memGstat d) [(MEM_GSTAT_TEMP, x), (MEM_GSTAT_THROT, if l = 2 then 1 else 0)] s

theorem dramTemp_gddr (hlo : 16 ≤ u) (hhi : u < 64) (s : State) (x : Nat) : s.dramTemp u x =
    risen (tgetD 0 s.pwr.thermal u < gddrLevel s u x) (srcGddr (u - 16)) (gddrShown (u - 16) x (gddrLevel s u x) (keptAt u (gddrLevel s u x) s)) := by
  have hu : ¬ u < 12 := by omega
  simp only [State.dramTemp, if_neg hu, if_pos (And.intro hlo hhi)]
  rfl

theorem gddr_reported (hlo : 16 ≤ u) (hhi : u < 64) (x : Nat) :
    Reported (.memGstat (u - 16)) (srcGddr (u - 16)) u (gddrLevel s u x) s (s.dramTemp u x) := by
  rw [dramTemp_gddr hlo hhi]
  exact reported_risen (onlyRegs_setFlds _) (regsBut_setFlds _)

theorem gddr_shows (hr : RegsOk s) (hlo : 16 ≤ u) (hhi : u < 64) (hx : x < 256) :
    (s.dramTemp u x).fld (.memGstat (u - 16)) MEM_GSTAT_TEMP = x ∧
      (s.dramTemp u x).flag (.memGstat (u - 16)) MEM_GSTAT_THROT = decide (gddrLevel s u x = 2) := by
  have hk (l : Nat) : RegsOk (keptAt u l s) := hr
  rw [dramTemp_gddr hlo hhi, risen_fld, risen_flag]
  exact ⟨(fld_setFlds (hk _) rfl (by simp)).trans (Nat.mod_eq_of_lt hx), flag_setFlds (hk _) rfl (by simp) (by decide)⟩

end

/-! #### NAND -/

/-- The state of flash after a report. -/
def nandLevel (s : State) (x : Nat) : Nat := thermalNext [(71, 67), (81, 77), (85, 82)] s.pwr.nand x

/-- The state of flash is kept. -/
def nandKept (l : Nat) (s : State) : State := { s with pwr := { s.pwr with nand := l } }

theorem nandTemp_eq (s : State) (x : Nat) : s.nandTemp x =
    (nandKept (nandLevel s x) s).setFld .flStat FL_STAT_FTHROT (if nandLevel s x ≠ 0 then 1 else 0) := by
  rw [ite_not]
  rfl

theorem nandTemp_reports {s : State} (hr : RegsOk s) (x : Nat) :
    ∃ t : State, exec (.nandTemperatureReport x) s = .next t ∧ t.pwr.nand = nandLevel s x ∧
      t.flag .flStat FL_STAT_FTHROT = decide (t.pwr.nand ≠ 0) ∧ RegsBut [.flStat] s t ∧
        t = { s with regs := t.regs, pwr := { s.pwr with nand := t.pwr.nand } } := by
  have hk : RegsOk (nandKept (nandLevel s x) s) := hr
  obtain ⟨rs, hrs⟩ := onlyRegs_setFld (nandKept (nandLevel s x) s) .flStat FL_STAT_FTHROT (if nandLevel s x ≠ 0 then 1 else 0)
  refine ⟨_, congrArg Host.Outcome.next (nandTemp_eq s x), ?_, ?_, regsBut_setFld _ _ _ _, ?_⟩
  · rw [State.setFld_pwr]
    rfl
  · rw [State.setFld_pwr]
    exact flag_setFld_self hk _ _ _ (by decide) (by decide)
  · rw [hrs]
    rfl

/-- From the lowest state, flash throttles at 71 degrees and more. -/
theorem nandLevel_ne_zero {s : State} (h : s.pwr.nand = 0) (x : Nat) : nandLevel s x ≠ 0 ↔ 71 ≤ x := by
  rw [nandLevel, h]
  by_cases h71 : 71 ≤ x
  · simp [thermalNext, h71]
  · have h81 : ¬ 81 ≤ x := by omega
    have h85 : ¬ 85 ≤ x := by omega
    simp [thermalNext, h71, h81, h85]

/-! ### Flash reads (11 R258) -/

/-- The 512 bytes of unit `u` of an object, from its residence or its home. -/
def unitBytes (o : Obj) (u : Nat) : List Byte := (rangeFrom (512 * u) 512).map (tgetD 0#8 (if o.inFlash (512 * u) 512 then o.flash else o.home))

theorem exec_flashRead (src c h u : Nat) (r : FlashRes) (s : State) : exec (.flashRead src c h u r) s = .next (s.flashRead src c h u r) := rfl

section
variable {s : State} {h : Nat} {o : Obj} (ho : s.obj h = some o) (src c u : Nat)
include ho

theorem flashRead_hard : s.flashRead src c h u .hard = s.emit (.readResp src h (unitBytes o u)) := by
  simp [State.flashRead, ho, unitBytes]

theorem flashRead_retry : s.flashRead src c h u .retry = (s.incFld .flErr FL_ERR_RETRY 1).emit (.readResp src h (unitBytes o u)) := by
  simp [State.flashRead, ho, unitBytes]

theorem flashRead_rebuilt : s.flashRead src c h u .rebuilt =
    (((s.incFld .flErr FL_ERR_RETRY 1).incFld .flErr FL_ERR_REBUILD 1).raiseRec o.part (srcFc c) 0x0508 []).emit
      (.readResp src h (unitBytes o u)) := by
  simp [State.flashRead, ho, unitBytes, raise_silent (code := 0x0508) (by decide)]

theorem flashRead_fail : s.flashRead src c h u .fail =
    (((s.incFld .flErr FL_ERR_RETRY 1).incFld .flErr FL_ERR_UE 1).raiseRec o.part (srcFc c) 0x0501 (leBytes 8 (512 * u) ++ leBytes 8 h)).emit
      (.refusal src h 4) := by
  simp [State.flashRead, ho, raise_silent (code := 0x0501) (by decide)]

end

/-- A counter of FL_ERR that is not RETRY. -/
structure BesideRetry (f : Fld) : Prop where
  inWord : f.lo + f.w ≤ 64
  sat : f.sat = true
  width : f.w = 16
  apart : FL_ERR_RETRY.lo + FL_ERR_RETRY.w ≤ f.lo

theorem besideRetry_rebuild : BesideRetry FL_ERR_REBUILD := ⟨by decide, rfl, rfl, by decide⟩

theorem besideRetry_ue : BesideRetry FL_ERR_UE := ⟨by decide, rfl, rfl, by decide⟩

/-- A read that its retries did not help: RETRY counts, and `f` beside it. -/
def retriedAnd (f : Fld) (s : State) : State := (s.incFld .flErr FL_ERR_RETRY 1).incFld .flErr f 1

theorem retriedAnd_counts {s : State} (hr : RegsOk s) {f : Fld} (hf : BesideRetry f) :
    (retriedAnd f s).fld .flErr FL_ERR_RETRY = (s.fld .flErr FL_ERR_RETRY + 1) % 2 ^ 32 ∧
      (retriedAnd f s).fld .flErr f = satAdd 65535 (s.fld .flErr f) 1 := by
  obtain ⟨hw, hsat, hwidth, hap⟩ := hf
  have hr' : RegsOk (s.incFld .flErr FL_ERR_RETRY 1) := s.regsOk_setFld _ _ _ hr
  constructor
  · exact (fld_incFld_fld hr' hw (.inl hap)).trans (fld_incFld_wrap hr (by decide) rfl)
  · refine (fld_incFld_sat hr' hw hsat).trans ?_
    rw [fld_incFld_fld hr (by decide) (.inr hap), hwidth]
    rfl

theorem regsBut_retriedAnd (f : Fld) (s : State) : RegsBut [.flErr] s (retriedAnd f s) :=
  regsBut_trans (regsBut_setFld s _ _ _) (regsBut_setFld _ _ _ _)

theorem onlyRegs_retriedAnd (f : Fld) (s : State) : OnlyRegs s (retriedAnd f s) := (onlyRegs_setFld s _ _ _).trans (onlyRegs_setFld _ _ _ _)

section
variable {s : State} {h : Nat} {o : Obj} (ho : s.obj h = some o) (src c u : Nat)
include ho

/-- A read that is answered without an event. -/
theorem flashRead_answers (hr : RegsOk s) {r : FlashRes} (hres : r = .hard ∨ r = .retry) :
    ∃ t : State, exec (.flashRead src c h u r) s = .next t ∧ t.outbox = s.outbox ++ [Out.readResp src h (unitBytes o u)] ∧
      t.fld .flErr FL_ERR_RETRY = (s.fld .flErr FL_ERR_RETRY + if r = .retry then 1 else 0) % 2 ^ 32 ∧ RegsBut [.flErr] s t ∧
        t = { s with regs := t.regs, outbox := t.outbox } := by
  rcases hres with rfl | rfl
  · have hexec : exec (.flashRead src c h u .hard) s = .next (s.emit (.readResp src h (unitBytes o u))) := by
      rw [exec_flashRead, flashRead_hard ho]
    exact ⟨_, hexec, rfl, (Nat.mod_eq_of_lt (State.fld_lt s .flErr FL_ERR_RETRY)).symm, regsBut_of_regs _ rfl, rfl⟩
  · have hcount : (s.incFld .flErr FL_ERR_RETRY 1).fld .flErr FL_ERR_RETRY = (s.fld .flErr FL_ERR_RETRY + 1) % 2 ^ 32 :=
      fld_incFld_wrap hr (by decide) rfl
    have hbut : RegsBut [.flErr] s (s.incFld .flErr FL_ERR_RETRY 1) := regsBut_setFld s _ _ _
    have honly : OnlyRegs s (s.incFld .flErr FL_ERR_RETRY 1) := onlyRegs_setFld s _ _ _
    obtain ⟨rs, hrs⟩ := honly
    have hexec := (exec_flashRead src c h u .retry s).trans (congrArg Host.Outcome.next (flashRead_retry ho src c u))
    rw [hrs] at hexec hcount hbut
    exact ⟨_, hexec, rfl, hcount, hbut, rfl⟩

/-- A read that the other dies rebuilt. -/
theorem flashRead_rebuilds (hr : RegsOk s) :
    ∃ t : State, exec (.flashRead src c h u .rebuilt) s = .next t ∧ t.outbox = s.outbox ++ [Out.readResp src h (unitBytes o u)] ∧
      t.fld .flErr FL_ERR_RETRY = (s.fld .flErr FL_ERR_RETRY + 1) % 2 ^ 32 ∧ t.fld .flErr FL_ERR_REBUILD = satAdd 65535 (s.fld .flErr FL_ERR_REBUILD) 1 ∧
        Raised o.part (srcFc c) 0x0508 [] s t ∧ RegsBut [.flErr] s t ∧ t = { s with regs := t.regs, outbox := t.outbox, evt := t.evt } := by
  obtain ⟨hretry, hrebuild⟩ := retriedAnd_counts hr besideRetry_rebuild
  have hbut := regsBut_retriedAnd FL_ERR_REBUILD s
  obtain ⟨rs, hrs⟩ := onlyRegs_retriedAnd FL_ERR_REBUILD s
  have hexec : exec (.flashRead src c h u .rebuilt) s =
      .next (((retriedAnd FL_ERR_REBUILD s).raiseRec o.part (srcFc c) 0x0508 []).emit (.readResp src h (unitBytes o u))) := by
    rw [exec_flashRead, flashRead_rebuilt ho, retriedAnd]
  rw [hrs] at hretry hrebuild hbut hexec
  have hraised := raised_raiseRec (s := s) (u := { s with regs := rs }) rfl rfl o.part (srcFc c) 0x0508 []
  exact ⟨_, hexec, rfl, hretry, hrebuild, hraised, hbut, rfl⟩

/-- A read beyond rebuild. -/
theorem flashRead_fails (hr : RegsOk s) :
    ∃ t : State, exec (.flashRead src c h u .fail) s = .next t ∧ t.outbox = s.outbox ++ [Out.refusal src h 4] ∧
      t.fld .flErr FL_ERR_UE = satAdd 65535 (s.fld .flErr FL_ERR_UE) 1 ∧ Raised o.part (srcFc c) 0x0501 (leBytes 8 (512 * u) ++ leBytes 8 h) s t ∧
        RegsBut [.flErr] s t ∧ t = { s with regs := t.regs, outbox := t.outbox, evt := t.evt } := by
  obtain ⟨-, hue⟩ := retriedAnd_counts hr besideRetry_ue
  have hbut := regsBut_retriedAnd FL_ERR_UE s
  obtain ⟨rs, hrs⟩ := onlyRegs_retriedAnd FL_ERR_UE s
  have hexec : exec (.flashRead src c h u .fail) s =
      .next (((retriedAnd FL_ERR_UE s).raiseRec o.part (srcFc c) 0x0501 (leBytes 8 (512 * u) ++ leBytes 8 h)).emit (.refusal src h 4)) := by
    rw [exec_flashRead, flashRead_fail ho, retriedAnd]
  rw [hrs] at hue hbut hexec
  have hraised := raised_raiseRec (s := s) (u := { s with regs := rs }) rfl rfl o.part (srcFc c) 0x0501 (leBytes 8 (512 * u) ++ leBytes 8 h)
  exact ⟨_, hexec, rfl, hue, hraised, hbut, rfl⟩

end

/-! ### Dies of flash (11 R259) -/

theorem ratedGb_cases : ratedGb = 20000 ∨ ratedGb = 40000 := by
  unfold ratedGb
  split
  · exact .inl rfl
  · exact .inr rfl

theorem nandDies_div_le : nandDies / 16 ≤ 16 := by
  rcases ratedGb_cases with h | h <;> simp [nandDies, h]

/-- Capacity left without `k` dies' worth. -/
theorem userGb_lt (k : Nat) : (4 * ratedGb - 625 * k) / 4 < 2 ^ 32 := by
  rcases ratedGb_cases with h | h <;> rw [h] <;> omega

/-- Read-only dies beyond a sixteenth of all. -/
def excessDies (s : State) : Nat := s.tier.readOnly.length - nandDies / 16

theorem flashDies_eq (s : State) : s.flashDies = setFlds .flStat [(FL_STAT_RODIES, min s.tier.readOnly.length 0xFF),
    (FL_STAT_RELOC, if s.tier.relocating ++ s.tier.rebuilding ≠ [] then 1 else 0), (FL_STAT_USERGB, (4 * ratedGb - 625 * excessDies s) / 4),
    (FL_STAT_CAPLOSS, if excessDies s ≠ 0 then 1 else 0)] s := by
  rw [ite_not, ite_not]
  rfl

/-- FL_STAT shows the dies. -/
structure DiesShown (s t : State) : Prop where
  rodies : t.fld .flStat FL_STAT_RODIES = min s.tier.readOnly.length 0xFF
  reloc : t.flag .flStat FL_STAT_RELOC = decide (s.tier.relocating ++ s.tier.rebuilding ≠ [])
  usergb : t.fld .flStat FL_STAT_USERGB = (4 * ratedGb - 625 * excessDies s) / 4
  caploss : t.flag .flStat FL_STAT_CAPLOSS = decide (excessDies s ≠ 0)
  regs : RegsBut [.flStat] s t

theorem diesShown_flashDies {s : State} (hr : RegsOk s) : DiesShown s s.flashDies := by
  rw [flashDies_eq]
  refine ⟨?_, ?_, ?_, ?_, regsBut_setFlds _⟩
  · exact (fld_setFlds hr rfl (by simp)).trans (Nat.mod_eq_of_lt ((min_le_right _ _).trans_lt (by decide)))
  · exact flag_setFlds hr rfl (by simp) (by decide)
  · exact (fld_setFlds hr rfl (by simp)).trans (Nat.mod_eq_of_lt (userGb_lt _))
  · exact flag_setFlds hr rfl (by simp) (by decide)

theorem onlyRegs_flashDies (s : State) : OnlyRegs s s.flashDies := by
  rw [flashDies_eq]
  exact onlyRegs_setFlds _

theorem DiesShown.raiseRec {s t : State} (h : DiesShown s t) (log src code : Nat) (data : List Byte) : DiesShown s (t.raiseRec log src code data) := by
  obtain ⟨hro, hre, hgb, hca, hregs⟩ := h
  refine ⟨?_, ?_, ?_, ?_, hregs⟩
  · rw [State.raiseRec_fld, hro]
  · rw [State.raiseRec_flag, hre]
  · rw [State.raiseRec_fld, hgb]
  · rw [State.raiseRec_flag, hca]

/-- A block of die `d` is retired. -/
def blockRetired (d : Nat) (s : State) : State :=
  { s with tier := { s.tier with sparesUsed := tsetD 0 s.tier.sparesUsed d (tgetD 0 s.tier.sparesUsed d + 1) } }

/-- It was the last spare: the die turns read-only, and its content moves. -/
def dieReadOnly (d : Nat) (s : State) : State :=
  { blockRetired d s with tier := { (blockRetired d s).tier with readOnly := s.tier.readOnly ++ [d], relocating := s.tier.relocating ++ [d] } }

section
variable {s : State} {d : Nat}

theorem programFail_ignored (h : nandDies ≤ d ∨ s.tier.readOnly.contains d = true) (b : Bool) : s.programFail d b = s := by
  rw [State.programFail, if_pos h]

theorem not_ignored (hd : d < nandDies) (ho : s.tier.readOnly.contains d = false) : ¬ (nandDies ≤ d ∨ s.tier.readOnly.contains d = true) := by
  rw [ho]
  simp [hd]

theorem programFail_spare (hd : d < nandDies) (ho : s.tier.readOnly.contains d = false) : s.programFail d false = blockRetired d s := by
  rw [State.programFail, if_neg (not_ignored hd ho)]
  rfl

theorem programFail_noSpare (hd : d < nandDies) (ho : s.tier.readOnly.contains d = false) : s.programFail d true =
    if nandDies / 16 < s.tier.readOnly.length + 1 then
      ((dieReadOnly d s).flashDies.raiseRec modLog srcFlash 0x0509 []).raiseRec modLog srcFlash 0x050A []
    else (dieReadOnly d s).flashDies.raiseRec modLog srcFlash 0x0509 [] := by
  have hlen : (dieReadOnly d s).flashDies.tier.readOnly.length = s.tier.readOnly.length + 1 := by
    obtain ⟨rs, hrs⟩ := onlyRegs_flashDies (dieReadOnly d s)
    rw [hrs]
    exact List.length_append
  rw [← hlen, ← State.raiseRec_tier (dieReadOnly d s).flashDies modLog srcFlash 0x0509 [], State.programFail, if_neg (not_ignored hd ho), if_pos rfl,
    ← raise_silent (by decide), ← raise_silent (by decide)]
  rfl

theorem exec_programFail (d : Nat) (b : Bool) (s : State) : exec (.flashProgramFail d b) s = .next (s.programFail d b) := rfl

/-- The last spare of a die, while a sixteenth of the dies holds the others. -/
theorem noSpare_within (hr : RegsOk s) (hd : d < nandDies) (ho : s.tier.readOnly.contains d = false) (hn : s.tier.readOnly.length < nandDies / 16) :
    ∃ t : State, exec (.flashProgramFail d true) s = .next t ∧ t.tier.readOnly = s.tier.readOnly ++ [d] ∧ t.tier.relocating = s.tier.relocating ++ [d] ∧
      t.fld .flStat FL_STAT_RODIES = s.tier.readOnly.length + 1 ∧ t.flag .flStat FL_STAT_RELOC = true ∧ t.fld .flStat FL_STAT_USERGB = ratedGb ∧
        t.flag .flStat FL_STAT_CAPLOSS = false ∧ tgetD 0 t.tier.sparesUsed d = tgetD 0 s.tier.sparesUsed d + 1 ∧ Raised modLog srcFlash 0x0509 [] s t ∧
          RegsBut [.flStat] s t ∧ t = { s with regs := t.regs, evt := t.evt, tier := t.tier } := by
  have hk : RegsOk (dieReadOnly d s) := hr
  have hlen : (dieReadOnly d s).tier.readOnly.length = s.tier.readOnly.length + 1 := List.length_append
  have hle := nandDies_div_le
  have hexcess : excessDies (dieReadOnly d s) = 0 := by
    rw [excessDies, hlen]
    omega
  obtain ⟨hro, hre, hgb, hca, hregs⟩ := (diesShown_flashDies hk).raiseRec modLog srcFlash 0x0509 []
  obtain ⟨rs, hrs⟩ := onlyRegs_flashDies (dieReadOnly d s)
  rw [hrs] at hro hre hgb hca hregs
  have hexec : exec (.flashProgramFail d true) s = .next (({ dieReadOnly d s with regs := rs } : State).raiseRec modLog srcFlash 0x0509 []) := by
    rw [exec_programFail, programFail_noSpare hd ho, if_neg (by omega), hrs]
  refine ⟨_, hexec, rfl, rfl, ?_, ?_, ?_, ?_, tget_tset_kept (fun _ => 0) _ _ _ (Nat.succ_ne_zero _), raised_raiseRec rfl rfl .., hregs, rfl⟩
  · rw [hro, hlen]
    omega
  · rw [hre]
    simp [dieReadOnly]
  · rw [hgb, hexcess]
    omega
  · rw [hca, hexcess]
    rfl

/-- The last spare of a die beyond that. -/
theorem noSpare_beyond (hr : RegsOk s) (hd : d < nandDies) (ho : s.tier.readOnly.contains d = false) (hn : nandDies / 16 ≤ s.tier.readOnly.length) :
    ∃ t : State, exec (.flashProgramFail d true) s = .next t ∧ t.tier.readOnly = s.tier.readOnly ++ [d] ∧ t.tier.relocating = s.tier.relocating ++ [d] ∧
      t.flag .flStat FL_STAT_RELOC = true ∧ t.flag .flStat FL_STAT_CAPLOSS = true ∧
        t.fld .flStat FL_STAT_USERGB = (4 * ratedGb - 625 * (s.tier.readOnly.length + 1 - nandDies / 16)) / 4 ∧ RegsBut [.flStat] s t := by
  have hk : RegsOk (dieReadOnly d s) := hr
  have hlen : (dieReadOnly d s).tier.readOnly.length = s.tier.readOnly.length + 1 := List.length_append
  have hexcess : excessDies (dieReadOnly d s) = s.tier.readOnly.length + 1 - nandDies / 16 := by rw [excessDies, hlen]
  obtain ⟨-, hre, hgb, hca, hregs⟩ := ((diesShown_flashDies hk).raiseRec modLog srcFlash 0x0509 []).raiseRec modLog srcFlash 0x050A []
  obtain ⟨rs, hrs⟩ := onlyRegs_flashDies (dieReadOnly d s)
  rw [hrs] at hre hgb hca hregs
  have hexec : exec (.flashProgramFail d true) s =
      .next ((({ dieReadOnly d s with regs := rs } : State).raiseRec modLog srcFlash 0x0509 []).raiseRec modLog srcFlash 0x050A []) := by
    rw [exec_programFail, programFail_noSpare hd ho, if_pos (by omega), hrs]
  refine ⟨_, hexec, rfl, rfl, ?_, ?_, hgb.trans (by rw [hexcess]), hregs⟩
  · rw [hre]
    simp [dieReadOnly]
  · rw [hca, hexcess]
    exact decide_eq_true (by omega)

theorem flashDieFail_eq (hd : d < nandDies) (hb : s.tier.rebuilding.contains d = false) : s.flashDieFail d =
    ({ s with tier := { s.tier with rebuilding := s.tier.rebuilding ++ [d] } } : State).flashDies.raiseRec modLog srcFlash 0x0508 [] := by
  have hnot : ¬ (nandDies ≤ d ∨ s.tier.rebuilding.contains d = true) := by
    rw [hb]
    simp [hd]
  rw [State.flashDieFail, if_neg hnot, ← raise_silent (by decide)]

/-- A failed die is under rebuild. -/
theorem dieFail_rebuilds (hr : RegsOk s) (hd : d < nandDies) (hb : s.tier.rebuilding.contains d = false) :
    ∃ t : State, exec (.flashDieFail d) s = .next t ∧ t.tier.rebuilding = s.tier.rebuilding ++ [d] ∧ t.flag .flStat FL_STAT_RELOC = true ∧
      Raised modLog srcFlash 0x0508 [] s t ∧ RegsBut [.flStat] s t ∧
        t = { s with regs := t.regs, evt := t.evt, tier := { s.tier with rebuilding := t.tier.rebuilding } } := by
  have hexec : exec (.flashDieFail d) s = .next _ := congrArg Host.Outcome.next (flashDieFail_eq hd hb)
  have hk : RegsOk ({ s with tier := { s.tier with rebuilding := s.tier.rebuilding ++ [d] } } : State) := hr
  obtain ⟨-, hreloc, -, -, hbut⟩ := diesShown_flashDies hk
  obtain ⟨rs, hrs⟩ := onlyRegs_flashDies ({ s with tier := { s.tier with rebuilding := s.tier.rebuilding ++ [d] } } : State)
  rw [hrs] at hexec hreloc hbut
  refine ⟨_, hexec, rfl, hreloc.trans ?_, raised_raiseRec rfl rfl .., hbut, rfl⟩
  simp

/-- Nothing of die `d` is left to move. -/
def dieMoved (d : Nat) (s : State) : State :=
  { s with tier := { s.tier with relocating := s.tier.relocating.filter (· ≠ d), rebuilding := s.tier.rebuilding.filter (· ≠ d) } }

theorem exec_relocationComplete (d : Nat) (s : State) : exec (.flashRelocationComplete d) s = .next (dieMoved d s).flashDies := rfl

theorem relocation_completes (hr : RegsOk s) (d : Nat) :
    ∃ t : State, exec (.flashRelocationComplete d) s = .next t ∧ t.tier.relocating = s.tier.relocating.filter (· ≠ d) ∧
      t.tier.rebuilding = s.tier.rebuilding.filter (· ≠ d) ∧ t.flag .flStat FL_STAT_RELOC = decide (t.tier.relocating ++ t.tier.rebuilding ≠ []) ∧
        RegsBut [.flStat] s t ∧
          t = { s with regs := t.regs, tier := { s.tier with relocating := t.tier.relocating, rebuilding := t.tier.rebuilding } } := by
  have hk : RegsOk (dieMoved d s) := hr
  have hexec := exec_relocationComplete d s
  obtain ⟨-, hreloc, -, -, hbut⟩ := diesShown_flashDies hk
  obtain ⟨rs, hrs⟩ := onlyRegs_flashDies (dieMoved d s)
  rw [hrs] at hexec hreloc hbut
  exact ⟨_, hexec, rfl, rfl, hreloc, hbut, rfl⟩

end

/-! ### Counting windows (06 R131, R132) -/

theorem cvtCfg_ne_cvtWin (k : Nat) : regOff (cvtCfg k) ≠ regOff (cvtWin k) := by
  unfold cvtCfg cvtWin
  split
  · simp only [regOff]
    omega
  · simp only [regOff]
    omega

/-- A new window starts, with the configuration that was written. -/
def windowStarted (k : Nat) (s : State) : State :=
  { s with arith := { s.arith with
      cvtStart := tsetD 0 s.arith.cvtStart k s.svcTime
      cvtNow := tsetD (regRst (.cvtSatcfg 0)) s.arith.cvtNow k (s.reg (cvtCfg k)) } }

theorem cvtRestart_ends {s : State} {k : Nat} (h : tgetD 0 s.arith.cvtStart k + fget (s.cvtNow k) CVT_SATCFG_WINDOW * 400 ≤ s.svcTime) :
    s.cvtRestart k = windowStarted k (s.setFld (cvtWin k) CVT_WINCNT_WCOUNT 0) := by
  unfold State.cvtRestart
  exact if_pos h

theorem cvtRestart_runs {s : State} {k : Nat} (h : s.svcTime < tgetD 0 s.arith.cvtStart k + fget (s.cvtNow k) CVT_SATCFG_WINDOW * 400) :
    s.cvtRestart k = s := by
  unfold State.cvtRestart
  exact if_neg (Nat.not_le.2 h)

/-- The end of a window. -/
theorem window_ends {s : State} {k : Nat} (hr : RegsOk s) (hk : k < 84) (hs : twf (fun _ => 0) s.arith.cvtStart = true)
    (hn : twf (fun _ => regRst (.cvtSatcfg 0)) s.arith.cvtNow = true)
    (h : tgetD 0 s.arith.cvtStart k + fget (s.cvtNow k) CVT_SATCFG_WINDOW * 400 ≤ s.svcTime) :
    ∃ t : State, exec (.cvtWindowRestart k) s = .next t ∧ t.fld (cvtWin k) CVT_WINCNT_WCOUNT = 0 ∧ tgetD 0 t.arith.cvtStart k = s.svcTime ∧
      t.cvtNow k = s.reg (cvtCfg k) ∧ RegsBut [cvtWin k] s t ∧
        t = { s with regs := t.regs, arith := { s.arith with cvtStart := t.arith.cvtStart, cvtNow := t.arith.cvtNow } } := by
  have hzero : (s.setFld (cvtWin k) CVT_WINCNT_WCOUNT 0).fld (cvtWin k) CVT_WINCNT_WCOUNT = 0 := State.fld_setFld_self _ _ _ _ hr (by decide)
  have hcfg : (s.setFld (cvtWin k) CVT_WINCNT_WCOUNT 0).reg (cvtCfg k) = s.reg (cvtCfg k) :=
    State.reg_setReg_ne _ _ _ _ (cvtCfg_ne_cvtWin k)
  have hbut := regsBut_setFld s (cvtWin k) CVT_WINCNT_WCOUNT 0
  obtain ⟨rs, hrs⟩ := onlyRegs_setFld s (cvtWin k) CVT_WINCNT_WCOUNT 0
  have hexec : exec (.cvtWindowRestart k) s = .next (windowStarted k (s.setFld (cvtWin k) CVT_WINCNT_WCOUNT 0)) := by
    show execCvtWindowRestart k s = _
    rw [execCvtWindowRestart, if_pos hk, cvtRestart_ends h]
  rw [hrs] at hexec hzero hcfg hbut
  exact ⟨_, hexec, hzero, tget_tset_self _ _ _ _ hs, (tget_tset_self _ _ _ _ hn).trans hcfg, hbut, rfl⟩

end Sys2Proof.Proofs.MemoryErrorsTemperaturesAndFlash

section

open Sys2Proof Sys2Proof.Machine Sys2Proof.Safety Sys2Proof.Proofs.MemoryErrorsTemperaturesAndFlash
open Sys2Proof.Proofs.RankingModelsAndTables (regsBut_setFld)
open Sys2Proof.Proofs.SketchRegionsTideAndTemperature (raised_raiseRec)

/-- Settles O28: a failure is read off the list of failed units and the failed channel's or device's register, which nothing that follows it
changes; a temperature report and the flash commands write the fields of one register that do not meet, so that each reads back. -/
theorem memoryErrorsTemperaturesAndFlash : Obligations.MemoryErrorsTemperaturesAndFlash := by
  unfold Obligations.MemoryErrorsTemperaturesAndFlash
  refine ⟨?_, ?_, ?_, ?_, ?_, ?_, ?_, ?_, ?_, ?_, ?_, ?_, ?_, ?_, ?_, ?_, ?_, ?_, ?_, ?_⟩
  · intro s u c hr hu hc
    exact laneNoSpare_halves hr hu hc
  · intro s u hu
    refine ⟨_, (exec_memChfail u _ s).trans (congrArg _ (chFail_laneSpare hu)), raised_failing (srcHs u) s, ?_⟩
    obtain ⟨ev, hev⟩ := onlyEvt_failing (srcHs u) s
    rw [hev]
  · intro s u c hr hu hc
    exact channel_loses hr hu hc
  · intro s u hr hu
    obtain ⟨hfailed, hflag, hmem⟩ := chFail_whole hr hu
    exact ⟨_, exec_memChfail u _ s, fun a n o h => byteLost_of_unit hfailed hflag h, hmem⟩
  · intro s u x hr hu hold hlo hhi hlim
    have hl := hbmLevel_cool hold hlo hhi hlim
    have hrep := hbm_reported (s := s) hu x
    have hshow := hbm_shows hr hu (x := x) (by omega)
    have hevt := hrep.evt
    rw [hl, hold, if_pos Nat.one_pos] at hevt
    refine ⟨_, rfl, hshow.temp, hshow.refx.trans (by rw [hl]; rfl), hbm_t85 hr hu hold hl.ge, hshow.hthrot.trans (by rw [hl]; rfl), ?_, hevt, hrep.regs, hrep.frame⟩
    rw [hrep.thermal, hl]
    exact tget_tset_kept (fun _ => 0) _ _ _ Nat.one_ne_zero
  · rintro s u x l hr hwf hu hx rfl
    have hrep := hbm_reported (s := s) hu x
    have hshow := hbm_shows hr hu hx
    refine ⟨_, rfl, hshow.temp, hshow.refx, hshow.hthrot, ?_, hrep.regs, hrep.evt, hrep.frame⟩
    rw [hrep.thermal]
    exact tget_tset_self _ _ _ _ hwf
  · rintro s u x l hr hwf hlo hhi hx rfl
    have hrep := gddr_reported (s := s) hlo hhi x
    obtain ⟨htemp, hthrot⟩ := gddr_shows hr hlo hhi hx
    refine ⟨_, rfl, htemp, hthrot, ?_, hrep.regs, hrep.evt, hrep.frame⟩
    rw [hrep.thermal]
    exact tget_tset_self _ _ _ _ hwf
  · intro s x hr hcool
    obtain ⟨t, hexec, hnand, hthrot, hregs, hframe⟩ := nandTemp_reports hr x
    exact ⟨t, hexec, hthrot.trans (by rw [hnand]; exact decide_eq_decide.2 (nandLevel_ne_zero hcool x)), hregs, hframe⟩
  · intro s x hr
    exact nandTemp_reports hr x
  · intro s src c h u r o hr ho hres
    exact flashRead_answers ho src c u hr hres
  · intro s src c h u o hr ho
    exact flashRead_rebuilds ho src c u hr
  · intro s src c h u o hr ho
    exact flashRead_fails ho src c u hr
  · intro s d hr hd ho hn
    exact noSpare_within hr hd ho hn
  · intro s d hr hd ho hn
    exact noSpare_beyond hr hd ho hn
  · intro s d hd ho
    exact congrArg Host.Outcome.next (programFail_spare hd ho)
  · intro s d b h
    exact congrArg Host.Outcome.next (programFail_ignored h b)
  · intro s d hr hd hb
    exact dieFail_rebuilds hr hd hb
  · intro s d hr
    exact relocation_completes hr d
  · intro s k hr hk hs hn h
    exact window_ends hr hk hs hn h
  · rintro s k (hk | h)
    · exact congrArg Host.Outcome.next (if_neg (Nat.not_lt.2 hk))
    · exact congrArg Host.Outcome.next ((congrArg (ite _ · s) (cvtRestart_runs h)).trans (ite_self s))

end

/-! Refutation of O35. Its clause on an MMA that stays in progress asks that A's stream holds nothing, and asks nothing of B's streams. Where
B's scale stream has ended before B's data stream, the MMA ends in FRY_SCALE (10 R222), whatever else is missing. -/

namespace Sys2Proof.Proofs.MatrixProducts

open Sys2Proof Sys2Proof.Machine Sys2Proof.Safety
open Sys2Proof.Proofs.TilesDrainSpillReloadAndTransfer (taken_of_issues issue_of_issues lostInst reloadThread)

/-! ### An event that aborts leaves its record -/

theorem startAbort_evt (s : State) (i cause : Nat) : (s.startAbort i cause).evt = s.evt := by
  unfold State.startAbort
  split
  · exact State.setFld_evt s (.schInst i) SCH_INST_ABORTING 1
  · rfl

theorem raised_quadFault_ne_nil (s : State) (q src code : Nat) (data : List Byte) (h : causeOf code = none) :
    (s.quadFault q src code data).evt.raised ≠ [] := by
  have hraise : (s.raise (s.quadLog q) src code data).evt.raised ≠ [] := by
    rw [State.raise, h]
    exact List.append_ne_nil_of_right_ne_nil _ (List.cons_ne_nil _ _)
  rw [State.quadFault]
  split
  · rwa [startAbort_evt]
  · exact hraise

/-! ### An MMA whose scales do not match their data -/

/-- What an MMA takes of its streams: A, its scales, B, its scales. -/
def mmaNeeds (x : Iss) (a b : OpForm) : List (Nat × Nat) :=
  let z := (slabLens (32 * (x.f 38 11 + 1))).foldl (fun (r : Nat × Nat × Nat × Nat) len =>
    let y := slabBytes a b (x.f 24 7 + 1) (x.f 31 7 + 1) len
    (r.1 + y.1, r.2.1 + y.2.1, r.2.2.1 + y.2.2.1, r.2.2.2 + y.2.2.2)) (0, 0, 0, 0)
  [(portOf x.q (x.f 12 6), z.1), (portOf x.q (x.f 12 6) + 1, z.2.1), (portOf x.q (x.f 18 6), z.2.2.1), (portOf x.q (x.f 18 6) + 1, z.2.2.2)]

theorem consume_of_badScale {s : State} {needs : List (Nat × Nat)} {p : Nat} (h : s.badScale needs = some p)
    (f : State → List (List Byte) → State) : s.consume needs f = some (s.fryFault p 0x0404) := by
  rw [State.consume, h]

/-- It ends in FRY_SCALE, before it looks whether its bytes are there. -/
theorem mma_of_badScale {s : State} {x : Iss} {a b : OpForm} {p : Nat} (hpair : pairForms x.o = some (a, b))
    (hchunk : ¬ (x.f 59 1 = 1 ∧ chunkOf a (x.f 60 2) = some 256)) (htile : tileOk x.u (x.f 49 1) (x.f 50 8) (x.f 59 1 = 1) (x.f 24 7 + 1) = true)
    (hbad : s.badScale (mmaNeeds x a b) = some p) : s.mma x .good = some (s.fryFault p 0x0404) := by
  have hchunk' : ¬ (decide (x.f 59 1 = 1) = true ∧ chunkOf a (x.f 60 2) = some 256) := by rwa [decide_eq_true_iff]
  simp only [State.mma, hpair, if_neg hchunk', htile, Bool.true_eq_false, if_false, State.meErrAt]
  exact consume_of_badScale hbad _

/-- The MMA of word `w` as it executes, without a signal. -/
abbrev mmaOf (q u t w : Nat) : Iss := { q, u, t, op := 0x30, o := bits w 0 92, sig := none }

/-- An MMA that has its turn and whose scales do not match their data leaves an event behind. -/
theorem raised_exec_mma {s t : State} {q u t0 w p : Nat} {th : Thread} {a b : OpForm} (hu : u < 4) (h : Issues q u t0 0x30 w th s)
    (hpair : pairForms (bits w 0 92) = some (a, b)) (hchunk : ¬ ((mmaOf q u t0 w).f 59 1 = 1 ∧ chunkOf a ((mmaOf q u t0 w).f 60 2) = some 256))
    (htile : tileOk u ((mmaOf q u t0 w).f 49 1) ((mmaOf q u t0 w).f 50 8) ((mmaOf q u t0 w).f 59 1 = 1) ((mmaOf q u t0 w).f 24 7 + 1) = true)
    (hbad : s.badScale (mmaNeeds (mmaOf q u t0 w) a b) = some p) (hstep : exec (.mma q u t0 .good) s = .next t) : t.evt.raised ≠ [] := by
  have hmma : (s.taken q u t0 w).mma (mmaOf q u t0 w) .good = some ((s.taken q u t0 w).fryFault p 0x0404) :=
    mma_of_badScale hpair hchunk htile (by rw [taken_of_issues h hu]; exact hbad)
  have hexec : exec (.mma q u t0 .good) s = .next ((s.taken q u t0 w).fryFault p 0x0404) :=
    congrArg Host.Outcome.next ((issue_of_issues h _).trans (by rw [hmma, Option.getD_some]))
  obtain rfl := Host.Outcome.next.inj (hexec.symm.trans hstep)
  exact raised_quadFault_ne_nil _ _ _ _ _ (by decide)

/-! ### The counterexample -/

/-- MMA of one row by one column of E4M3, K = 32: A from port 0, B from port 2 with its E8M0 scales from port 3. -/
def scaledWord : Nat := 0x30 * 2 ^ 120 + 3 * 2 ^ 116 + 2 * 2 ^ 18 + 2 ^ 10 + 5 * 2 ^ 4 + 5

/-- After reset, but quad 0 is in use, and the thread's first word is that MMA. A's stream is empty; B's holds a byte, and its scales'
stream ended without one. -/
def lateScaleState : State :=
  (({ State.reset with
      mem := [(0, 0x55#8), (1, 0x04#8), (2, 0x08#8), (14, 0x30#8), (15, 0x30#8)]
      ctl := { insts := [(0, some lostInst)], threads := [(thrKey 0 0 0, some reloadThread)] }
      fry := { streams := [(2, { runs := [{ left := [0x38#8], pair := true }] }), (3, { runs := [{ left := [], ended := true }] })] } } : State).setFld
    (.schQuad 0) SCH_QUAD_INST 0).setFld (.pwrQuad 0) PWR_QUAD_STATE 0

theorem issues_lateScaleState : Issues 0 0 0 0x30 scaledWord reloadThread lateScaleState := by decide +kernel

/-- The scales' stream, of port 3, is the one that does not match. -/
theorem badScale_lateScaleState : lateScaleState.badScale (mmaNeeds (mmaOf 0 0 0 scaledWord) ⟨.e4m3, 0⟩ ⟨.e4m3, 1⟩) = some 3 := by
  decide +kernel

end Sys2Proof.Proofs.MatrixProducts

section

open Sys2Proof Sys2Proof.Machine Sys2Proof.Safety Sys2Proof.Proofs.MatrixProducts
open Sys2Proof.Proofs.TilesDrainSpillReloadAndTransfer (reloadThread)

/-- Refutes O35: its clause on an MMA that finds A's stream empty wants it in progress, with nothing changed but the schedule control.
`lateScaleState` meets what the clause asks, but there B's scale stream has ended before its data stream: the MMA ends in FRY_SCALE and
raises its event (10 R222). (The clause wants the scale streams to match their data, or no scaled operand, as a hypothesis.) -/
theorem not_matrixProducts : ¬ Obligations.MatrixProducts := by
  unfold Obligations.MatrixProducts
  rintro ⟨-, -, -, hdry, -⟩
  obtain ⟨t, hstep, -, hframe⟩ := hdry lateScaleState 0 0 0 scaledWord reloadThread ⟨.e4m3, 0⟩ ⟨.e4m3, 1⟩ (by decide)
    issues_lateScaleState (by decide) (by decide) (by decide) rfl (by decide +kernel)
  refine raised_exec_mma (by decide) issues_lateScaleState (by decide) (by decide) (by decide) badScale_lateScaleState hstep ?_
  rw [hframe]
  rfl

end

/-! Proof of O38: the spare engine of an E-die. The lemmas say what a substitution with an available spare, one without, and a self-test make
of the state; the fields of ME_SPARE are written as one list. -/

namespace Sys2Proof.Proofs.SpareEngines

open Sys2Proof Sys2Proof.Machine Sys2Proof.Safety
open Sys2Proof.Proofs.RankingModelsAndTables (regsBut_setFld)
open Sys2Proof.Proofs.SketchRegionsTideAndTemperature (regsBut_trans regsBut_mono regsBut_of_regs fld_of_regsBut flag_of_regsBut reg_of_regsBut
  OnlyRegs raise_silent)
open Sys2Proof.Proofs.MemoryErrorsTemperaturesAndFlash (setFlds tidy regsOk_setFlds regsBut_setFlds onlyRegs_setFlds fld_setFlds flag_setFld_one)

/-- The log of a quad depends on its owner byte alone. -/
theorem quadLog_of_regsBut {rs : List Reg} {s t : State} (h : RegsBut rs s t) {q : Nat} (hq : ∀ x ∈ rs, regOff (ownReg 0 q) ≠ regOff x) :
    t.quadLog q = s.quadLog q := by
  have howner : t.owner 0 q = s.owner 0 q := by rw [State.owner, reg_of_regsBut h hq, State.owner]
  rw [State.quadLog, State.quadPart, howner, State.quadLog, State.quadPart]

/-- A field that takes the value `v`, as a flag. -/
theorem flag_setFlds_eq {s : State} {r : Reg} (h : RegsOk s) {l : List (Fld × Nat)} (hl : tidy (l.map Prod.fst) = true)
    {f : Fld} {v : Nat} (hm : (f, v) ∈ l) : (setFlds r l s).flag r f = decide (v % 2 ^ f.w ≠ 0) := by
  rw [State.flag, fld_setFlds h hl hm]

/-! ### SPARE_SUBSTITUTION (07 R152) -/

/-- Engine `k` is no longer one that failed. -/
def repaired (k : Nat) (s : State) : State :=
  { s with eng := { s.eng with meFailed := s.eng.meFailed.filter (·.1 ≠ k), meErr := s.eng.meErr.filter (·.1 ≠ k) } }

/-- The die's ME_SPARE once its spare serves the position of engine `k`. -/
def servesPosition (k : Nat) : List (Fld × Nat) :=
  [(ME_SPARE_AVAIL, 0), (ME_SPARE_INUSE, 1), (ME_SPARE_QUAD, k / 4 % 4), (ME_SPARE_ENGINE, k % 4)]

theorem tidy_servesPosition (k : Nat) : tidy ((servesPosition k).map Prod.fst) = true := rfl

/-- The spare of E-die `d` is assigned to that position. -/
def placed (d k : Nat) (s : State) : State := setFlds (.meSpare d) (servesPosition k) (repaired k s)

/-- Engine `k` with its sets wiped and SUBST set. -/
def renewed (k : Nat) (s : State) : State := (s.wipeEngine k).setFld (.meStat k) ME_STAT_SUBST 1

/-- One more spare in use. -/
def spareCounted (s : State) : State := s.setFld .fltHealth FLT_HEALTH_SPUSED (s.fld .fltHealth FLT_HEALTH_SPUSED + 1)

/-- The spare of E-die `d` in the place of engine `k`. -/
def substituted (d k : Nat) (s : State) : State := spareCounted (renewed k (placed d k s))

theorem regsBut_placed (d k : Nat) (s : State) : RegsBut [.meSpare d] s (placed d k s) :=
  regsBut_trans (regsBut_of_regs _ rfl) (regsBut_setFlds _)

theorem regsBut_renewed (k : Nat) (s : State) : RegsBut [.meStat k] s (renewed k s) :=
  regsBut_trans (regsBut_of_regs _ rfl) (regsBut_setFld _ _ _ _)

theorem regsBut_spareCounted (s : State) : RegsBut [.fltHealth] s (spareCounted s) := regsBut_setFld _ _ _ _

section
variable {s : State} {d k c : Nat}

theorem regsOk_placed (h : RegsOk s) (d k : Nat) : RegsOk (placed d k s) := regsOk_setFlds (s := repaired k s) h _

theorem regsOk_renewed (h : RegsOk s) (k : Nat) : RegsOk (renewed k s) := State.regsOk_setFld (s.wipeEngine k) _ _ _ h

/-- The engines of a die are numbered from 16 times its number on (07 Table 7-9). -/
theorem die_of_find (h : s.eng.meFailed.find? (fun f => f.1 / 16 = d) = some (k, c)) : k / 16 = d := by simpa using List.find?_some h

theorem exec_spareSubstitution (d : Nat) (s : State) : exec (.spareSubstitution d) s = .next (s.substitute d) := rfl

theorem substitute_none (h : s.eng.meFailed.find? (fun f => f.1 / 16 = d) = none) : s.substitute d = s := by rw [State.substitute, h]

theorem substitute_noSpare (h : s.eng.meFailed.find? (fun f => f.1 / 16 = d) = some (k, c)) (ha : s.flag (.meSpare d) ME_SPARE_AVAIL = false) :
    s.substitute d = (repaired k s).dueRetire (k / 4) c := by
  have hrep : (repaired k s).flag (.meSpare d) ME_SPARE_AVAIL = false := ha
  rw [State.substitute, h]
  exact if_neg (ne_true_of_eq_false hrep)

theorem fld_renewed_fltHealth (hk : k < 320) : (renewed k s).fld .fltHealth FLT_HEALTH_SPUSED = s.fld .fltHealth FLT_HEALTH_SPUSED :=
  State.fld_setFld_ne (s.wipeEngine k) _ _ _ _ _ (by simp only [regOff]; omega)

theorem substitute_spare (h : s.eng.meFailed.find? (fun f => f.1 / 16 = d) = some (k, c)) (hd : d < 20)
    (ha : s.flag (.meSpare d) ME_SPARE_AVAIL = true) : s.substitute d = (substituted d k s).raiseRec ((substituted d k s).quadLog (k / 4))
      (srcUnit (k / 4) (k % 4)) 0x0108 (leBytes 2 (srcUnit (k / 4) (k % 4)) ++ leBytes 2 d) := by
  have hk : k < 320 := by have := die_of_find h; omega
  have hrep : (repaired k s).flag (.meSpare d) ME_SPARE_AVAIL = true := ha
  rw [State.substitute, h, ← raise_silent (by decide), substituted, spareCounted, fld_renewed_fltHealth hk]
  exact if_pos hrep

theorem regsBut_substituted (d k : Nat) (s : State) : RegsBut [.meSpare d, .meStat k, .fltHealth] s (substituted d k s) :=
  regsBut_trans (regsBut_mono (regsBut_placed d k s) (by simp))
    (regsBut_trans (regsBut_mono (regsBut_renewed k _) (by simp)) (regsBut_mono (regsBut_spareCounted _) (by simp)))

/-- Beside registers only the engines' state changes. -/
theorem substituted_eq (d k : Nat) (s : State) : ∃ rs : Tab Word, substituted d k s = { (repaired k s).wipeEngine k with regs := rs } := by
  obtain ⟨rs, hrs⟩ : OnlyRegs (repaired k s) (placed d k s) := onlyRegs_setFlds _
  rw [substituted, hrs]
  exact ⟨_, rfl⟩

theorem acc_substituted (d k : Nat) (s : State) (a : Nat) : (substituted d k s).acc a = if a / 4096 / 512 = k then 0 else s.acc a := by
  obtain ⟨rs, hrs⟩ := substituted_eq d k s
  have hclear := tget_tclear (fun _ => 0) (fun a => decide (a / 4096 / 512 = k)) s.eng.acc a
  simp only [decide_eq_true_eq] at hclear
  rw [hrs]
  exact hclear

section
variable (hr : RegsOk s) (hd : d < 20) (hk : k < 320)

include hr hd hk in
theorem spare_substituted {f : Fld} {v : Nat} (hm : (f, v) ∈ servesPosition k) : (substituted d k s).fld (.meSpare d) f = v % 2 ^ f.w := by
  have hlate : RegsBut [.meStat k, .fltHealth] (placed d k s) (substituted d k s) :=
    regsBut_trans (regsBut_mono (regsBut_renewed k _) (by simp)) (regsBut_mono (regsBut_spareCounted _) (by simp))
  rw [fld_of_regsBut hlate (by simp [regOff]; omega)]
  exact fld_setFlds (s := repaired k s) hr (tidy_servesPosition k) hm

include hr hk in
theorem subst_substituted : (substituted d k s).flag (.meStat k) ME_STAT_SUBST = true := by
  rw [substituted, flag_of_regsBut (regsBut_spareCounted _) (by simp [regOff]; omega)]
  exact flag_setFld_one (s := (placed d k s).wipeEngine k) (regsOk_placed hr d k) _ _ (by decide) (by decide)

include hr hd hk in
theorem spused_substituted : (substituted d k s).fld .fltHealth FLT_HEALTH_SPUSED =
    (s.fld .fltHealth FLT_HEALTH_SPUSED + 1) % 2 ^ FLT_HEALTH_SPUSED.w := by
  rw [substituted, spareCounted, State.fld_setFld_self _ _ _ _ (regsOk_renewed (regsOk_placed hr d k) k) (by decide), fld_renewed_fltHealth hk,
    fld_of_regsBut (regsBut_placed d k s) (by simp [regOff]; omega)]

include hd hk in
theorem quadLog_substituted : (substituted d k s).quadLog (k / 4) = s.quadLog (k / 4) :=
  quadLog_of_regsBut (regsBut_substituted d k s) (by simp [regOff, ownReg]; omega)

end

/-- Without a spare the quad is due to retire, unless it was (17 R403). -/
theorem dueRetire_new {q : Nat} (hdue : s.pwr.retireDue.any (·.1 = q) = false) (hret : s.pwr.retired.contains q = false) (code : Nat) :
    ∃ pw : PwrState, pw.retireDue = s.pwr.retireDue ++ [(q, code)] ∧ s.dueRetire q code = { s with pwr := pw } := by
  have hnew : ¬ (s.pwr.retireDue.any (·.1 = q) = true ∨ s.pwr.retired.contains q = true) := by rw [hdue, hret]; decide
  rw [State.dueRetire, if_neg hnew]
  dsimp only
  split
  · exact ⟨_, rfl, rfl⟩
  · exact ⟨_, rfl, rfl⟩

end

/-! ### SPARE_SELF_TEST (07 Table 7-9) -/

/-- The fields of ME_SPARE that a self-test writes. -/
def tested (pass : Bool) : List (Fld × Nat) :=
  if pass then [(ME_SPARE_TESTGO, 0), (ME_SPARE_AVAIL, 1)] else [(ME_SPARE_TESTGO, 0), (ME_SPARE_AVAIL, 0), (ME_SPARE_SPFAIL, 1)]

section
variable {s : State} {d : Nat}

theorem exec_spareSelfTest (d : Nat) (p : Bool) (s : State) : exec (.spareSelfTest d p) s = .next (s.selfTest d p) := rfl

theorem selfTest_ignored {p : Bool} (h : 20 ≤ d ∨ s.flag (.meSpare d) ME_SPARE_INUSE = true) : s.selfTest d p = s := if_pos h

theorem selfTest_pass (hd : d < 20) (hu : s.flag (.meSpare d) ME_SPARE_INUSE = false) : s.selfTest d true = setFlds (.meSpare d) (tested true) s :=
  if_neg (not_or.2 ⟨Nat.not_le.2 hd, ne_true_of_eq_false hu⟩)

theorem selfTest_fail (hd : d < 20) (hu : s.flag (.meSpare d) ME_SPARE_INUSE = false) :
    s.selfTest d false = (setFlds (.meSpare d) (tested false) s).raiseRec modLog (srcDie d) 0x0109 [] := by
  rw [← raise_silent (by decide)]
  exact if_neg (not_or.2 ⟨Nat.not_le.2 hd, ne_true_of_eq_false hu⟩)

end

end Sys2Proof.Proofs.SpareEngines

section

open Sys2Proof Sys2Proof.Machine Sys2Proof.Safety Sys2Proof.Proofs.SpareEngines
open Sys2Proof.Proofs.SketchRegionsTideAndTemperature (raised_raiseRec regsBut_trans regsBut_of_regs)
open Sys2Proof.Proofs.MemoryErrorsTemperaturesAndFlash (setFlds regsBut_setFlds onlyRegs_setFlds)

/-- Settles O38, over the spare available, the spare missing, no failed engine, and the two ends of a self-test. -/
theorem spareEngines : Obligations.SpareEngines := by
  unfold Obligations.SpareEngines
  refine ⟨?_, ?_, ?_, ?_, ?_⟩
  · intro s d k c hr hd hf ha
    have hk : k < 320 := by have := die_of_find hf; omega
    obtain ⟨rs, hrs⟩ := substituted_eq d k s
    have hspare {f : Fld} {v : Nat} (hm : (f, v) ∈ servesPosition k) := spare_substituted hr hd hk hm
    rw [exec_spareSubstitution, substitute_spare hf hd ha]
    refine ⟨_, rfl, ?_, ?_, ?_, ?_, ?_, ?_, fun a => ?_, ?_, ?_, ?_, ?_⟩
    · rw [State.raiseRec_flag, State.flag, hspare (f := ME_SPARE_AVAIL) (v := 0) (by simp [servesPosition])]
      rfl
    · rw [State.raiseRec_flag, State.flag, hspare (f := ME_SPARE_INUSE) (v := 1) (by simp [servesPosition])]
      rfl
    · rw [State.raiseRec_fld, hspare (f := ME_SPARE_QUAD) (v := k / 4 % 4) (by simp [servesPosition])]
      exact Nat.mod_mod _ 4
    · rw [State.raiseRec_fld, hspare (f := ME_SPARE_ENGINE) (v := k % 4) (by simp [servesPosition])]
      exact Nat.mod_mod _ 4
    · rw [State.raiseRec_flag, subst_substituted hr hk]
    · rw [State.raiseRec_fld, spused_substituted hr hd hk]
    · rw [State.acc, State.raiseRec_eng, ← State.acc, acc_substituted]
    · rw [State.raiseRec_eng, hrs]
      rfl
    · rw [quadLog_substituted hd hk]
      exact raised_raiseRec (by rw [hrs]; rfl) (by rw [hrs]; rfl) ..
    · exact regsBut_trans (regsBut_substituted d k s) (regsBut_of_regs _ (State.raiseRec_regs ..))
    · rw [State.raiseRec_mem, hrs]
      rfl
  · intro s d k c hd hf ha hdue hret
    obtain ⟨pw, hpw, hstate⟩ := dueRetire_new (s := repaired k s) hdue hret c
    rw [exec_spareSubstitution, substitute_noSpare hf ha, hstate]
    exact ⟨_, rfl, hpw, rfl, rfl, rfl, fun _ => rfl⟩
  · intro s d hf
    rw [exec_spareSubstitution, substitute_none hf]
  · intro s d p h
    rw [exec_spareSelfTest, selfTest_ignored h]
  · intro s d p hr hd hu
    obtain ⟨rs, hrs⟩ := onlyRegs_setFlds (r := .meSpare d) (s := s) (tested p)
    cases p with
    | true =>
      rw [exec_spareSelfTest, selfTest_pass hd hu]
      refine ⟨_, rfl, flag_setFlds_eq (v := 1) hr (by decide) (by simp [tested]),
        flag_setFlds_eq (v := 0) hr (by decide) (by simp [tested]), nofun, fun _ => by rw [hrs], regsBut_setFlds _, by rw [hrs]⟩
    | false =>
      rw [exec_spareSelfTest, selfTest_fail hd hu]
      refine ⟨_, rfl, flag_setFlds_eq (v := 0) hr (by decide) (by simp [tested]),
        flag_setFlds_eq (v := 0) hr (by decide) (by simp [tested]), fun _ => ⟨?_, ?_⟩, nofun, regsBut_setFlds _, by rw [hrs]; rfl⟩
      · exact flag_setFlds_eq (v := 1) hr (by decide) (by simp [tested])
      · exact raised_raiseRec (by rw [hrs]) (by rw [hrs]) ..

end

/-! Refutation of O41. Its clauses that reach the scratchpad ask that every bank of the quad's E-die is ON and in no wipe, and nothing of the
die itself. A bank of an E-die that left service refuses all the same (12 R268, 17 Table 17-5), so that a SELECT ends in ADDR before its
descriptor is looked at. -/

namespace Sys2Proof.Proofs.SelectUnits

open Sys2Proof Sys2Proof.Machine Sys2Proof.Safety
open Sys2Proof.Proofs.TilesDrainSpillReloadAndTransfer (issue_of_issues spadRead_of_dieLost lostDieState reloadThread)
open Sys2Proof.Proofs.MatrixProducts (startAbort_evt)

/-! ### What an instruction's issue and its aborting event leave -/

theorem mapThread_pwr (s : State) (q u t : Nat) (f : Thread → Thread) : (s.mapThread q u t f).pwr = s.pwr := by
  unfold State.mapThread
  split
  · exact State.setThread_pwr ..
  · rfl

/-- Issue on a unit that is no ferry leaves the E-dies as they are. -/
theorem taken_pwr (s : State) {q u : Nat} (hu : ¬ (8 ≤ u ∧ u < 12)) (t w : Nat) : (s.taken q u t w).pwr = s.pwr := by
  simp only [State.taken, if_neg hu, mapThread_pwr]
  split
  · exact State.setSem_pwr ..
  · rfl

/-- An event that sets no global interrupt cause has its record behind those that waited. -/
theorem fault_raised (s : State) (x : Iss) {code : Nat} (h : causeOf code = none) :
    Raised (s.quadLog x.q) x.src code [] s (s.fault x code) := by
  have hraise : Raised (s.quadLog x.q) x.src code [] s (s.raise (s.quadLog x.q) x.src code []) := by
    rw [State.raise, h]
    rfl
  rw [State.fault, State.quadFault]
  split
  · rwa [Raised, startAbort_evt]
  · exact hraise

/-- The last record that waits says which event was raised. -/
theorem code_eq_of_raised {s s' t : State} {l l' src src' code code' : Nat} {data data' : List Byte}
    (h : Raised l src code data s t) (h' : Raised l' src' code' data' s' t) : code = code' := by
  have hlast := congrArg (fun r => r.getLast?.map fun e => e.2.code) (h.symm.trans h')
  simpa using hlast

/-! ### A SELECT there -/

/-- It raises ADDR, whatever its descriptor. -/
theorem select_of_dieLost {s : State} {x : Iss} (hd : x.q / 4 ∈ s.pwr.diesLost) : ∃ v : State, s.select x = some (v.fault x 0x0306) := by
  simp only [State.select, spadRead_of_dieLost hd _ (show 64 ≠ 0 by decide)]
  exact ⟨_, rfl⟩

theorem exec_select_of_dieLost {s : State} {q t0 w : Nat} {th : Thread} (hd : q / 4 ∈ s.pwr.diesLost) (h : Issues q 6 t0 0x70 w th s) :
    ∃ v : State, exec (.select q 6 t0 .good) s =
      .next (v.fault { q, u := 6, t := t0, op := 0x70, o := bits w 0 92, sig := none } 0x0306) := by
  have hdie : q / 4 ∈ (s.taken q 6 t0 w).pwr.diesLost := by rwa [taken_pwr s (by decide)]
  obtain ⟨v, hv⟩ := select_of_dieLost (x := { q, u := 6, t := t0, op := 0x70, o := bits w 0 92, sig := none }) hdie
  exact ⟨v, congrArg Host.Outcome.next ((issue_of_issues h _).trans (by rw [hv, Option.getD_some]))⟩

/-! ### The counterexample -/

/-- SELECT of the descriptor at the scratchpad's first bytes: thread 0's word. -/
def selectWord : Nat := 0x70 * 2 ^ 120 + 6 * 2 ^ 116

/-- After reset, but E-die 0 has left service, and quad 0 of partition 0 is in use: its select unit's next word is that SELECT. The
descriptor is all zeros, and out of form with N = 0 (08 Table 8-2). -/
def lostSelectState : State :=
  { lostDieState with
    mem := [(14, 0x60#8), (15, 0x70#8)]
    ctl := { lostDieState.ctl with threads := [(thrKey 0 6 0, some reloadThread)] } }

theorem issues_lostSelectState : Issues 0 6 0 0x70 selectWord reloadThread lostSelectState := by decide +kernel

theorem quadInst_lostSelectState : ∀ i, lostSelectState.quadInst 0 = some i → i < 80 := by
  have h0 : lostSelectState.quadInst 0 = some 0 := by decide +kernel
  intro i hi
  obtain rfl := Option.some.inj (h0.symm.trans hi)
  decide

/-- The descriptor lies in the first bank, which is partition 0's, as the quad is. -/
theorem unitRange_lostSelectState : lostSelectState.unitRange 0 (spadAt 0 0) 64 = true := by decide +kernel

theorem xOk_lostSelectState : xOk (lostSelectState.rd (spadAt 0 0) 64) = false := by decide +kernel

end Sys2Proof.Proofs.SelectUnits

section

open Sys2Proof Sys2Proof.Machine Sys2Proof.Safety Sys2Proof.Proofs.SelectUnits
open Sys2Proof.Proofs.TilesDrainSpillReloadAndTransfer (reloadThread bankSt_lostDieState)

/-- Refutes O41: its clause on a descriptor out of form wants XU_PARAM, with every bank ON and no wipe under way. `lostSelectState` meets
that, but its E-die has left service: the bank refuses the descriptor's bytes, and the SELECT raises ADDR (12 R268, 17 Table 17-5). (A die
that is lost gives up its quads with its banks, and then none of its quads issues. The clauses that read or write the
scratchpad want `q / 4 ∉ s.pwr.diesLost` as a hypothesis.) -/
theorem not_selectUnits : ¬ Obligations.SelectUnits := by
  unfold Obligations.SelectUnits
  rintro ⟨-, -, -, hform, -⟩
  obtain ⟨t, hstep, hparam, -⟩ := hform lostSelectState 0 0 selectWord reloadThread _ (by decide +kernel) (by decide)
    quadInst_lostSelectState issues_lostSelectState rfl unitRange_lostSelectState (by decide) xOk_lostSelectState bankSt_lostDieState rfl
  obtain ⟨v, hexec⟩ := exec_select_of_dieLost (by decide) issues_lostSelectState
  obtain rfl := Host.Outcome.next.inj (hexec.symm.trans hstep)
  have hcode : 0x0306 = 0x0201 := code_eq_of_raised (fault_raised v _ (by decide)) hparam
  exact absurd hcode (by decide)

end

/-! How an instruction of a unit that is no ferry executes, and what an event that aborts changes: the rules that the proofs of O34, O37 and
O39 share. -/

namespace Sys2Proof.Proofs.IssueOfInstructions

open Sys2Proof Sys2Proof.Machine Sys2Proof.Safety
open Sys2Proof.Proofs.RankingModelsAndTables (regsBut_setFld)
open Sys2Proof.Proofs.SketchRegionsTideAndTemperature (regsBut_of_regs fld_of_regsBut raised_raiseRec raise_silent onlyRegs_setFld)
open Sys2Proof.Proofs.TilesDrainSpillReloadAndTransfer (issue_of_issues)

/-! ### Operands -/

/-- A field of a field of a word is a field of the word. -/
theorem bits_bits_add {lo k m : Nat} (h : lo + k ≤ m) (w a : Nat) : bits (bits w a m) lo k = bits w (a + lo) k := by
  apply Nat.eq_of_testBit_eq
  intro i
  rw [testBit_bits, testBit_bits, testBit_bits, Nat.add_assoc]
  by_cases hi : i < k
  · simp [hi, show lo + i < m by omega]
  · simp [hi]

theorem bits_bits {lo k m : Nat} (h : lo + k ≤ m) (w : Nat) : bits (bits w 0 m) lo k = bits w lo k :=
  (bits_bits_add h w 0).trans (by rw [Nat.zero_add])

theorem bits_one (w i : Nat) : bits w i 1 = if bitAt w i = true then 1 else 0 := by
  rw [bits, bitAt, Nat.pow_one, Nat.testBit_eq_decide_div_mod_eq, Nat.shiftRight_eq_div_pow]
  split <;> simp_all

/-- The instruction of word `w` as it executes when it signals no semaphore. -/
abbrev bare (q u t op w : Nat) : Iss := { q, u, t, op, o := bits w 0 92, sig := none }

theorem bare_f {lo k : Nat} (h : lo + k ≤ 92) (q u t op w : Nat) : (bare q u t op w).f lo k = bits w lo k := bits_bits h w

/-! ### A thread's record -/

theorem tins_tins {α : Type} (k : Nat) (v v' : α) (t : Tab α) : tins k v (tins k v' t) = tins k v t := by
  induction t with
  | nil => simp [tins]
  | cons e t ih =>
    rcases Nat.lt_trichotomy k e.1 with hk | hk | hk
    · simp [tins, hk]
    · simp [tins, hk]
    · simp [tins, show ¬ k < e.1 by omega, show k ≠ e.1 by omega, ih]

theorem thread_setThread (s : State) (q u t : Nat) (v : Thread) : (s.setThread q u t v).thread q u t = some v := tgetO_tset_some _ _ _

theorem setThread_setThread (s : State) (q u t : Nat) (v v' : Thread) : (s.setThread q u t v').setThread q u t v = s.setThread q u t v := by
  simp only [State.setThread, tsetD, tset, reduceCtorEq, if_false, tins_tins]

theorem mapThread_of_thread {s : State} {q u t : Nat} {v : Thread} (h : s.thread q u t = some v) (f : Thread → Thread) :
    s.mapThread q u t f = s.setThread q u t (f v) := by
  rw [State.mapThread, h]

/-- An instruction joins those of its thread. -/
theorem join_of_thread {s : State} {x : Iss} {v : Thread} (h : s.thread x.q x.u x.t = some v) (i : Issued) :
    s.join x i = s.setThread x.q x.u x.t { v with issued := v.issued ++ [i] } := mapThread_of_thread h _

/-! ### The turn of an instruction -/

/-- The state in which an instruction that has its turn executes: the rotation is behind its thread, and the thread past it. -/
abbrev begun (q u t w : Nat) (th : Thread) (s : State) : State := (turned q u t w s).setThread q u t (past th)

section
variable {s : State} {q u t op w : Nat} {th : Thread}

theorem taken_eq_begun (h : Issues q u t op w th s) (hu : u < 8) : s.taken q u t w = begun q u t w th s := by
  obtain ⟨⟨⟨hth, -⟩, -⟩, hwv, -⟩ := h
  have htakes : takesSem w (iWait w) = false := by simp [takesSem, hwv]
  have hferry : ¬ (8 ≤ u ∧ u < 12) := by omega
  have hturned : (turned q u t w s).thread q u t = some th := hth
  simp only [State.taken, htakes, Bool.false_eq_true, if_false, if_neg hferry]
  exact mapThread_of_thread hturned _

theorem issue_eq (h : Issues q u t op w th s) (hu : u < 8) (run : State → Iss → Option State) : s.issue q u t .good op run =
    (run (begun q u t w th s) (bare q u t op w)).getD ((begun q u t w th s).stay (bare q u t op w)) := by
  rw [issue_of_issues h, taken_eq_begun h hu]

theorem issueNow_eq (h : Issues q u t op w th s) (hu : u < 8) (f : State → Iss → State) :
    s.issueNow q u t .good op f = f (begun q u t w th s) (bare q u t op w) := issue_eq h hu _

/-- The record of an instruction in progress. -/
abbrev inProgress (op w : Nat) (th : Thread) : Thread := { past th with issued := th.issued ++ [{ op, sig := none, o := bits w 0 92 }] }

theorem later_of_thread {r : State} {v : Thread} (h : r.thread q u t = some v) : r.later (bare q u t op w) =
    r.setThread q u t { v with issued := v.issued ++ [{ op, sig := none, o := bits w 0 92 }] } := join_of_thread h _

theorem later_begun : (begun q u t w th s).later (bare q u t op w) = (turned q u t w s).setThread q u t (inProgress op w th) :=
  (later_of_thread (thread_setThread _ _ _ _ _)).trans (setThread_setThread _ _ _ _ _ _)

end

/-! ### An event that aborts (09 R204) -/

/-- The instance of a quad has its SCH_INST. -/
abbrev instRegs (q : Nat) (s : State) : List Reg := (s.quadInst q).toList.map Reg.schInst

/-- The event `code` of a unit of quad `q` was raised, and its instance aborts: nothing else changed. -/
structure Faulted (q src code : Nat) (data : List Byte) (s t : State) : Prop where
  raised : Raised (s.quadLog q) src code data s t
  regs : RegsBut (instRegs q s) s t
  frame : t = { s with regs := t.regs, evt := t.evt, ctl := { s.ctl with aborting := t.ctl.aborting } }

/-- An abort begins, or it does not: the instance does not run, or it aborts already. -/
theorem startAbort_changes (s : State) (i cause : Nat) : ∃ (rs : Tab Word) (l : List AbortReq), RegsBut [.schInst i] s { s with regs := rs } ∧
    s.startAbort i cause = { s with regs := rs, ctl := { s.ctl with aborting := l } } := by
  unfold State.startAbort
  split
  · obtain ⟨rs, hrs⟩ := onlyRegs_setFld s (.schInst i) SCH_INST_ABORTING 1
    have h := regsBut_setFld s (.schInst i) SCH_INST_ABORTING 1
    rw [hrs] at h ⊢
    exact ⟨rs, _, h, rfl⟩
  · exact ⟨s.regs, s.ctl.aborting, regsBut_of_regs _ rfl, rfl⟩

theorem faulted_quadFault {code : Nat} (h : causeOf code = none) (s : State) (q src : Nat) (data : List Byte) :
    Faulted q src code data s (s.quadFault q src code data) := by
  have hraised := raised_raiseRec (s := s) rfl rfl (s.quadLog q) src code data
  rw [State.quadFault, raise_silent h]
  cases hi : (s.raiseRec (s.quadLog q) src code data).quadInst q with
  | none => exact ⟨hraised, regsBut_of_regs _ rfl, rfl⟩
  | some i =>
    have hinst : instRegs q s = [.schInst i] := by rw [instRegs, show s.quadInst q = some i from hi]; rfl
    obtain ⟨rs, l, hregs, habort⟩ := startAbort_changes (s.raiseRec (s.quadLog q) src code data) i code
    dsimp only
    rw [habort]
    exact ⟨hraised, hinst ▸ hregs, rfl⟩

theorem faulted_fault {code : Nat} (h : causeOf code = none) (s : State) (x : Iss) : Faulted x.q x.src code [] s (s.fault x code) :=
  faulted_quadFault h s x.q x.src []

section
variable {q src code : Nat} {data : List Byte} {s t : State}

theorem Faulted.thread (h : Faulted q src code data s t) (q' u' t' : Nat) : t.thread q' u' t' = s.thread q' u' t' := by rw [h.frame]; rfl

theorem Faulted.mem (h : Faulted q src code data s t) : t.mem = s.mem := by rw [h.frame]

theorem Faulted.eng (h : Faulted q src code data s t) : t.eng = s.eng := by rw [h.frame]

theorem Faulted.net (h : Faulted q src code data s t) : t.net = s.net := by rw [h.frame]

theorem Faulted.sigs (h : Faulted q src code data s t) : t.ctl.sigs = s.ctl.sigs := by rw [h.frame]

/-- The semaphores of the quads lie apart from the instances' registers. -/
theorem Faulted.sem (h : Faulted q src code data s t) (hi : ∀ i, s.quadInst q = some i → i < 80) (q' j : Nat) : t.sem q' j = s.sem q' j := by
  refine fld_of_regsBut h.regs (fun x hx => ?_) _
  obtain ⟨i, hm, rfl⟩ := List.mem_map.1 hx
  have := hi i (Option.mem_toList.1 hm)
  simp only [semReg, regOff]
  omega

end

end Sys2Proof.Proofs.IssueOfInstructions

/-! Proof of O37: SRCTX over its thread's ME_SRCTX. -/

namespace Sys2Proof.Proofs.StepContextOfAThread

open Sys2Proof Sys2Proof.Machine Sys2Proof.Safety Sys2Proof.Proofs.IssueOfInstructions
open Sys2Proof.Proofs.RankingModelsAndTables (regsBut_setFld)
open Sys2Proof.Proofs.SketchRegionsTideAndTemperature (regsBut_trans regsBut_mono fld_of_regsBut OnlyRegs onlyRegs_setFld)
open Sys2Proof.Proofs.MemoryErrorsTemperaturesAndFlash (setFlds regsBut_setFlds onlyRegs_setFlds fld_setFlds)

/-- The step context of thread `k` is not valid. -/
def cleared (k : Nat) (s : State) : State := s.setFld (.meSrctx8 k) ME_SRCTX8_VALID 0

/-- The step context of thread `k` is step `n` of `model`. -/
def written (k n model : Nat) (s : State) : State :=
  setFlds (.meSrctx8 k) [(ME_SRCTX8_MODEL, model), (ME_SRCTX8_VALID, 1)] (s.setFld (.meSrctx0 k) ME_SRCTX0_STEP n)

/-- The two words of a thread lie apart. -/
theorem regOff_meSrctx_ne (k : Nat) : regOff (.meSrctx0 k) ≠ regOff (.meSrctx8 k) := by simp only [regOff]; omega

section
variable {s : State} {q u t0 w : Nat} {th : Thread}

theorem exec_srctx (h : Issues q u t0 54 w th s) (hu : u < 8) : exec (.srctx q u t0 .good) s = .next
    (if bitAt w 70 then cleared (16 * q + 4 * u + t0) (begun q u t0 w th s)
     else written (16 * q + 4 * u + t0) (bits w 0 64) (bits w 64 6) (begun q u t0 w th s)) := by
  refine congrArg Host.Outcome.next ((issueNow_eq h hu _).trans ?_)
  rw [State.srctx, bare_f (by decide), bare_f (by decide), bare_f (by decide), bits_one]
  by_cases hclear : bitAt w 70 = true
  · simp only [hclear, if_true]
    rfl
  · simp only [hclear, Bool.false_eq_true, if_false, zero_ne_one]
    rfl

/-- SRCTX writes the two words of the thread alone, and STEP and MODEL only without CLEAR. -/
structure Writes (k n model : Nat) (clear : Bool) (s t : State) : Prop where
  valid : t.fld (.meSrctx8 k) ME_SRCTX8_VALID = if clear then 0 else 1
  step : t.fld (.meSrctx0 k) ME_SRCTX0_STEP = if clear then s.fld (.meSrctx0 k) ME_SRCTX0_STEP else n
  model : t.fld (.meSrctx8 k) ME_SRCTX8_MODEL = if clear then s.fld (.meSrctx8 k) ME_SRCTX8_MODEL else model
  regs : RegsBut [.meSrctx0 k, .meSrctx8 k] s t
  only : OnlyRegs s t

theorem writes_cleared (hr : RegsOk s) (k n model : Nat) : Writes k n model true s (cleared k s) where
  valid := State.fld_setFld_self _ _ _ _ hr (by decide)
  step := State.fld_setFld_ne _ _ _ _ _ _ (regOff_meSrctx_ne k)
  model := State.fld_setFld_fld _ _ _ _ _ hr (by decide) (by decide)
  regs := regsBut_mono (regsBut_setFld _ _ _ _) (by simp)
  only := onlyRegs_setFld _ _ _ _

theorem writes_written (hr : RegsOk s) (k : Nat) {n model : Nat} (hn : n < 2 ^ 64) (hm : model < 2 ^ 6) :
    Writes k n model false s (written k n model s) := by
  have hstep : RegsOk (s.setFld (.meSrctx0 k) ME_SRCTX0_STEP n) := s.regsOk_setFld _ _ _ hr
  refine ⟨?_, ?_, ?_, ?_, (onlyRegs_setFld _ _ _ _).trans (onlyRegs_setFlds _)⟩
  · exact (fld_setFlds hstep (f := ME_SRCTX8_VALID) (v := 1) rfl (by simp)).trans rfl
  · rw [written, fld_of_regsBut (regsBut_setFlds _) (by simp [regOff_meSrctx_ne]), State.fld_setFld_self _ _ _ _ hr (by decide)]
    exact Nat.mod_eq_of_lt hn
  · exact (fld_setFlds hstep (f := ME_SRCTX8_MODEL) (v := model) rfl (by simp)).trans (Nat.mod_eq_of_lt hm)
  · exact regsBut_trans (regsBut_mono (regsBut_setFld _ _ _ _) (by simp)) (regsBut_mono (regsBut_setFlds _) (by simp))

/-- What SRCTX makes of the state in which it executes. -/
theorem exec_srctx_writes (h : Issues q u t0 54 w th s) (hu : u < 8) (hr : RegsOk s) : ∃ t : State, exec (.srctx q u t0 .good) s = .next t ∧
    Writes (16 * q + 4 * u + t0) (bits w 0 64) (bits w 64 6) (bitAt w 70) (begun q u t0 w th s) t := by
  refine ⟨_, exec_srctx h hu, ?_⟩
  cases hclear : bitAt w 70 with
  | true => exact writes_cleared (s := begun q u t0 w th s) hr _ _ _
  | false => exact writes_written (s := begun q u t0 w th s) hr _ (bits_lt w 0 64) (bits_lt w 64 6)

end

/-- A word of an SRCTX with a reserved bit set changes nothing but what its event does. -/
theorem exec_srctx_reserved {s : State} {q u t0 w : Nat} {th : Thread} (hth : s.thread q u t0 = some th) (hdry : th.dryOf 0x36 = none)
    (hword : s.nextWord q u t0 = some w) (hon : s.unitOn q u = true) (hu : u < 4) (hop : iOpcode w = 0x36) (hclass : iClass w = 3)
    (hthr : iThread w = t0) (hres : bits w 71 21 ≠ 0) : exec (.srctx q u t0 .good) s =
      .next (s.fault { q, u, t := t0, op := 0x36, o := bits w 0 92, sig := if iSv w then some (iSignal w) else none } 0x0301) := by
  have hform : formOk 0x36 (bits w 0 92) = false := decide_eq_false (by rwa [bits_bits (by decide)])
  have hruns : unitRuns u 3 = true := by simp [unitRuns, hu]
  refine congrArg Host.Outcome.next ?_
  simp [State.issueNow, State.issue, hth, hdry, hword, hon, hop, classOf, hclass, hruns, hthr, hform]

end Sys2Proof.Proofs.StepContextOfAThread

section

open Sys2Proof Sys2Proof.Machine Sys2Proof.Safety Sys2Proof.Proofs.StepContextOfAThread
open Sys2Proof.Proofs.IssueOfInstructions

/-- Settles O37, by the value of CLEAR: a cleared context keeps STEP and MODEL, a written one reads back. -/
theorem stepContextOfAThread : Obligations.StepContextOfAThread := by
  unfold Obligations.StepContextOfAThread
  refine ⟨?_, ?_⟩
  · intro s q u t0 w th hr hq ht hu h
    obtain ⟨t, hexec, hwrites⟩ := exec_srctx_writes h (by omega) hr
    obtain ⟨rs, hrs⟩ := hwrites.only
    refine ⟨t, hexec, hwrites.valid, hwrites.step, hwrites.model, ?_, hwrites.regs, ?_⟩
    · rw [hrs]
      exact thread_setThread (turned q u t0 w s) q u t0 _
    · rw [hrs]
      rfl
  · intro s q u t0 w th hu hth hdry hword hon hop hclass hthr hres
    have hfault := faulted_fault (code := 0x0301) (by decide) s
      { q, u, t := t0, op := 0x36, o := bits w 0 92, sig := if iSv w then some (iSignal w) else none }
    refine ⟨_, exec_srctx_reserved hth hdry hword hon hu hop hclass hthr hres, hfault.raised, hfault.mem, ?_, fun i hi => ?_⟩
    · rw [hfault.frame]
    · have hregs := hfault.regs
      rwa [instRegs, hi] at hregs

end

/-! Refutation of O40. Its clauses on VLD and VST ask that every bank of the quad's E-die is ON and in no wipe, and nothing of the die
itself. A bank of an E-die that left service refuses all the same (12 R268, 17 Table 17-5), so that a VLD ends in ADDR. -/

namespace Sys2Proof.Proofs.VectorMovesMasksAndConversions

open Sys2Proof Sys2Proof.Machine Sys2Proof.Safety
open Sys2Proof.Proofs.TilesDrainSpillReloadAndTransfer (issue_of_issues spadRead_of_dieLost lostDieState reloadThread)
open Sys2Proof.Proofs.SelectUnits (taken_pwr)
open Sys2Proof.Proofs.IssueOfInstructions (bare)

/-! ### A VLD there -/

/-- It raises ADDR, at an aligned offset too. -/
theorem vld_of_dieLost {s : State} {q t0 w : Nat} {th : Thread} (hd : q / 4 ∈ s.pwr.diesLost) (h : Issues q 4 t0 0x40 w th s)
    (hty : anyType.contains (bare q 4 t0 0x40 w).ty = true)
    (hoff : (bare q 4 t0 0x40 w).off % 32 = 0) :
    ∃ v : State, exec (.vld q 4 t0 .good) s =
      .next (v.fault (bare q 4 t0 0x40 w) 0x0306) := by
  have hdie : q / 4 ∈ (s.taken q 4 t0 w).pwr.diesLost := by rwa [taken_pwr s (by decide)]
  rw [show exec (.vld q 4 t0 .good) s = _ from congrArg Host.Outcome.next (issue_of_issues h _)]
  simp only [hty, hoff, if_true, ne_eq, not_true_eq_false, if_false, spadRead_of_dieLost hdie _ (show 256 ≠ 0 by decide), Option.getD_some]
  exact ⟨_, rfl⟩

/-! ### The counterexample -/

/-- VLD of 32-bit lanes from the scratchpad's first bytes into V0: thread 0's word. -/
def loadWord : Nat := 0x40 * 2 ^ 120 + 4 * 2 ^ 116

/-- After reset, but E-die 0 has left service, and quad 0 of partition 0 is in use: its vector processor's next word is that VLD. -/
def lostLoadState : State :=
  { lostDieState with
    mem := [(14, 0x40#8), (15, 0x40#8)]
    ctl := { lostDieState.ctl with threads := [(thrKey 0 4 0, some reloadThread)] } }

theorem issues_lostLoadState : Issues 0 4 0 0x40 loadWord reloadThread lostLoadState := by decide +kernel

/-- The 256 bytes lie in the first bank, which is partition 0's, as the quad is. -/
theorem unitRange_lostLoadState : lostLoadState.unitRange 0 (spadAt 0 0) 256 = true := by decide +kernel

end Sys2Proof.Proofs.VectorMovesMasksAndConversions

section

open Sys2Proof Sys2Proof.Machine Sys2Proof.Safety Sys2Proof.Proofs.VectorMovesMasksAndConversions
open Sys2Proof.Proofs.TilesDrainSpillReloadAndTransfer (reloadThread bankSt_lostDieState raised_fault)
open Sys2Proof.Proofs.IssueOfInstructions (bare)

/-- Refutes O40: its clause on VLD wants the bytes in VD and no event, with every bank ON and no wipe under way. `lostLoadState` meets
that, but its E-die has left service: the bank refuses, and the VLD raises ADDR (12 R268, 17 Table 17-5). (A die that is lost gives up
its quads with its banks, and then none of its quads issues. The clauses on VLD and VST want `q / 4 ∉ s.pwr.diesLost` as a hypothesis.) -/
theorem not_vectorMovesMasksAndConversions : ¬ Obligations.VectorMovesMasksAndConversions := by
  unfold Obligations.VectorMovesMasksAndConversions
  rintro ⟨hload, -⟩
  obtain ⟨t, hstep, -, -, -, hframe⟩ := hload lostLoadState 0 0 loadWord 0 reloadThread issues_lostLoadState (by decide) (by decide)
    (by decide) (by decide) (by decide) unitRange_lostLoadState bankSt_lostDieState rfl
  obtain ⟨v, hexec⟩ := vld_of_dieLost (by decide) issues_lostLoadState (by decide) (by decide)
  obtain rfl := Host.Outcome.next.inj (hexec.symm.trans hstep)
  refine raised_fault v (bare 0 4 0 0x40 loadWord) ?_
  rw [hframe]
  rfl

end

/-! Refutation of O42. Its clauses on SLQ, NBCMD and NBLIST ask that every bank of the quad's E-die is ON and in no wipe, and nothing of
the die itself. A bank of an E-die that left service refuses all the same (12 R268, 17 Table 17-5), so that an SLQ ends in ADDR. -/

namespace Sys2Proof.Proofs.SketchUnitsAndTheirBankCommands

open Sys2Proof Sys2Proof.Machine Sys2Proof.Safety
open Sys2Proof.Proofs.TilesDrainSpillReloadAndTransfer (issue_of_issues spadRead_of_dieLost lostDieState reloadThread)
open Sys2Proof.Proofs.SelectUnits (taken_pwr)
open Sys2Proof.Proofs.IssueOfInstructions (bare)

/-! ### An SLQ there -/

/-- It raises ADDR, at an aligned offset too. -/
theorem slq_of_dieLost {s : State} {x : Iss} (hd : x.q / 4 ∈ s.pwr.diesLost) (hoff : x.f 19 26 % 32 = 0) :
    ∃ v : State, s.slq x = v.fault x 0x0306 := by
  have hlen : sketchBytes (x.f 3 2) ≠ 0 := by simp [sketchBytes]
  simp only [State.slq, hoff, ne_eq, not_true_eq_false, if_false, spadRead_of_dieLost hd _ hlen]
  exact ⟨_, rfl⟩

theorem exec_slq_of_dieLost {s : State} {q t0 w : Nat} {th : Thread} (hd : q / 4 ∈ s.pwr.diesLost) (h : Issues q 5 t0 0x60 w th s)
    (hoff : (bare q 5 t0 0x60 w).f 19 26 % 32 = 0) :
    ∃ v : State, exec (.slq q 5 t0 .good) s =
      .next (v.fault (bare q 5 t0 0x60 w) 0x0306) := by
  have hdie : q / 4 ∈ (s.taken q 5 t0 w).pwr.diesLost := by rwa [taken_pwr s (by decide)]
  obtain ⟨v, hv⟩ := slq_of_dieLost (x := bare q 5 t0 0x60 w) hdie hoff
  exact ⟨v, congrArg Host.Outcome.next ((issue_of_issues h _).trans (by rw [hv, Option.getD_some]))⟩

/-! ### The counterexample -/

/-- SLQ of the sketch in the scratchpad's first bytes into slot 0: thread 0's word. -/
def slotWord : Nat := 0x60 * 2 ^ 120 + 5 * 2 ^ 116

/-- After reset, but E-die 0 has left service, and quad 0 of partition 0 is in use: its sketch unit's next word is that SLQ. -/
def lostSketchState : State :=
  { lostDieState with
    mem := [(14, 0x50#8), (15, 0x60#8)]
    ctl := { lostDieState.ctl with threads := [(thrKey 0 5 0, some reloadThread)] } }

theorem issues_lostSketchState : Issues 0 5 0 0x60 slotWord reloadThread lostSketchState := by decide +kernel

/-- The sketch lies in the first bank, which is partition 0's, as the quad is. -/
theorem unitRange_lostSketchState : lostSketchState.unitRange 0 (spadAt 0 0) (sketchBytes 0) = true := by decide +kernel

end Sys2Proof.Proofs.SketchUnitsAndTheirBankCommands

section

open Sys2Proof Sys2Proof.Machine Sys2Proof.Safety Sys2Proof.Proofs.SketchUnitsAndTheirBankCommands
open Sys2Proof.Proofs.IssueOfInstructions (bare)
open Sys2Proof.Proofs.TilesDrainSpillReloadAndTransfer (reloadThread bankSt_lostDieState raised_fault)

/-- Refutes O42: its clause on SLQ wants the slot loaded and no event, with every bank ON and no wipe under way. `lostSketchState` meets
that, but its E-die has left service: the bank refuses, and the SLQ raises ADDR (12 R268, 17 Table 17-5). (A die that is lost gives up
its quads with its banks, and then none of its quads issues. The clauses that read the scratchpad want `q / 4 ∉ s.pwr.diesLost` as a
hypothesis.) -/
theorem not_sketchUnitsAndTheirBankCommands : ¬ Obligations.SketchUnitsAndTheirBankCommands := by
  unfold Obligations.SketchUnitsAndTheirBankCommands
  rintro ⟨hload, -⟩
  obtain ⟨t, hstep, -, -, -, hframe⟩ := hload lostSketchState 0 0 slotWord reloadThread issues_lostSketchState (by decide) (by decide)
    unitRange_lostSketchState bankSt_lostDieState rfl
  obtain ⟨v, hexec⟩ := exec_slq_of_dieLost (by decide) issues_lostSketchState (by decide)
  obtain rfl := Host.Outcome.next.inj (hexec.symm.trans hstep)
  refine raised_fault v (bare 0 5 0 0x60 slotWord) ?_
  rw [hframe]
  rfl

end

/-! Refutations of O32 and O33. FSTR and INSTRUCTION_COMPLETE first let the streams of the quad go as far as they can (10 R216), so that a
stream that waited for a count that has come since takes the count and issues its piece, whatever becomes of the instruction itself. -/

namespace Sys2Proof.Proofs.InstructionsFollowTheIssueRules

open Sys2Proof Sys2Proof.Machine Sys2Proof.Safety
open Sys2Proof.Proofs.TilesDrainSpillReloadAndTransfer (lostInst)

/-! ### The counterexample -/

/-- COPY of one row of 4 bytes from HBM3E address 0 onto itself, in granules of 256 bytes: a granule needs a count of semaphore 4. -/
def copyDesc : List Byte := leBytes 64 (4 * 2 ^ 56 + 2 ^ 80 + 2 ^ 96 + 4 * 2 ^ 256)

theorem dOk_copyDesc : dOk copyDesc 1 = true := by decide +kernel

/-- FSTR of the descriptor at the scratchpad's first bytes, predicated: thread 0's word. -/
def startWord : Nat := 0x80 * 2 ^ 120 + 7 * 2 ^ 116 + 2 ^ 94

/-- A thread with that word alone, at address 0. -/
def startThread : Thread := { base := 0, ninstr := 1 }

/-- A thread past its FSTR, whose stream still runs. -/
def copyThread : Thread := { base := 16, ninstr := 1, pos := 1, issued := [{ op := 0x80, sig := none, isJob := true }] }

/-- After reset, but quad 0 of partition 0 is in use. Thread 0 of its first ferry has that FSTR before it; stream 1 runs the COPY and waited for
semaphore 4, which has a count now. -/
def ferryState : State :=
  (((((({ State.reset with
      mem := [(11, 0x40#8), (14, 0x70#8), (15, 0x80#8)]
      ctl := { insts := [(0, some lostInst)], threads := [(thrKey 0 8 0, some startThread), (thrKey 0 8 1, some copyThread)] }
      fry := { streams := [(1, { job := some { d := copyDesc, runs := 0 } })] } } : State).setFld
    (.schQuad 0) SCH_QUAD_INST 0).setFld (.pwrQuad 0) PWR_QUAD_STATE 0).setOwner 0 0 0).setOwner 2 0 0).setFld
    (.frySwait 1) FRY_SWAIT_CAUSE 1).setSem 0 4 1

theorem regsOk_ferryState : RegsOk ferryState := by decide +kernel

theorem turns_ferryState : Turns 0 8 0 0x80 startWord startThread ferryState := by decide +kernel

theorem granted_ferryState : ferryState.granted 0 8 0 startWord = true := by decide +kernel

theorem sem_ferryState : ferryState.sem 0 4 = 1 := by decide +kernel

/-- The stream takes the count when FSTR lets the quad's streams go on. -/
theorem sem_fstr_ferryState : ((ferryState.pumped 0).issue 0 8 0 .good 0x80 State.fstr).sem 0 4 = 0 := by decide +kernel

/-- It takes the count when INSTRUCTION_COMPLETE does. -/
theorem sem_complete_ferryState : ((ferryState.pumped 0).complete 0 8 1 0).sem 0 4 = 0 := by decide +kernel

end Sys2Proof.Proofs.InstructionsFollowTheIssueRules

section

open Sys2Proof Sys2Proof.Machine Sys2Proof.Safety Sys2Proof.Proofs.InstructionsFollowTheIssueRules
open Sys2Proof.Proofs.SketchRegionsTideAndTemperature (reg_of_regsBut)

/-- Refutes O32: its clause on an instruction of a ferry that is predicated off wants no register changed but the thread's FRY_SWAIT and the
semaphores that the instruction names. In `ferryState` that instruction is an FSTR, and stream 1 of the ferry waits for a count of semaphore
4 that is there: FSTR lets the quad's streams go on first, and stream 1 takes the count. (The clauses that leave the rest of the state
alone want of FSTR that the quad's other streams are idle.) -/
theorem not_instructionsFollowTheIssueRules : ¬ Obligations.InstructionsFollowTheIssueRules := by
  unfold Obligations.InstructionsFollowTheIssueRules
  intro hall
  obtain ⟨-, -, -, -, hpred, -⟩ := hall Instr.fstr 0x80 (by simp)
  obtain ⟨t, hstep, -, -, hregs, -⟩ := hpred ferryState 0 8 0 startWord startThread regsOk_ferryState (by decide) (by decide) (by decide)
    (by decide) turns_ferryState granted_ferryState (by decide) rfl (by decide) (by decide)
  obtain rfl : (ferryState.pumped 0).issue 0 8 0 .good 0x80 State.fstr = t := Host.Outcome.next.inj hstep
  have hsem := sem_fstr_ferryState
  rw [State.sem, State.fld, reg_of_regsBut hregs (by decide), ← State.fld, ← State.sem, sem_ferryState] at hsem
  exact absurd hsem (by decide)

/-- Refutes O33: its clause on an instruction whose stream still runs wants INSTRUCTION_COMPLETE to change nothing. In `ferryState` that stream
waits for a count of semaphore 4 that is there: INSTRUCTION_COMPLETE lets the quad's streams go on first, and the stream takes the
count. (The clause wants the quad's streams to have gone as far as they can.) -/
theorem not_controlInstructionsAndCompletion : ¬ Obligations.ControlInstructionsAndCompletion := by
  unfold Obligations.ControlInstructionsAndCompletion
  rintro ⟨-, -, -, -, -, -, -, -, hrunning, -⟩
  have hstep := hrunning ferryState 0 8 1 0 copyThread { op := 0x80, sig := none, isJob := true } (by decide +kernel) rfl (.inl rfl)
  have hsem := sem_complete_ferryState
  rw [show (ferryState.pumped 0).complete 0 8 1 0 = ferryState from Host.Outcome.next.inj hstep, sem_ferryState] at hsem
  exact absurd hsem (by decide)

end

/-! Refutation of O51. Its clause on a start record asks that every bank of the quad's E-die is ON and in no wipe, and nothing of the die
itself. A bank of an E-die that left service refuses the record and counts the refusal (12 R268, 17 Table 17-5). -/

namespace Sys2Proof.Proofs.InstancesTasksAndAborts

open Sys2Proof Sys2Proof.Machine Sys2Proof.Safety
open Sys2Proof.Proofs.TilesDrainSpillReloadAndTransfer (lostInst lostDieState)

/-- An instance on quad 0 that takes one task at a time. -/
def taskInst : Inst := { lostInst with limit := 1 }

/-- The task whose start record waits for it. -/
def waitingTask : Task where
  task := 0
  cmd := 0
  qp := 0
  cid := 0
  readPoint := 0
  gen := 0
  flags := 0
  deadline := 0

/-- After reset, but E-die 0 has left service, and the instance on its quad 0 has a task waiting. -/
def lostTaskState : State := { lostDieState with mem := [], ctl := { insts := [(0, some taskInst)], waiting := [(0, waitingTask)] } }

theorem canonical_lostTaskState : Canonical lostTaskState := by decide +kernel

theorem sem_lostTaskState : lostTaskState.sem 0 0 < 0xFFFF := by decide +kernel

theorem pwrQuad_lostTaskState : lostTaskState.fld (.pwrQuad 0) PWR_QUAD_STATE = 0 := by decide +kernel

theorem refusals_lostTaskState : lostTaskState.fld (.spadStat 0) SPAD_STAT_DOMOFF = 0 := by decide +kernel

/-- The bank refuses the record. -/
theorem refusals_startRecord : (lostTaskState.startRecord 0).fld (.spadStat 0) SPAD_STAT_DOMOFF = 1 := by decide +kernel

end Sys2Proof.Proofs.InstancesTasksAndAborts

section

open Sys2Proof Sys2Proof.Machine Sys2Proof.Safety Sys2Proof.Proofs.InstancesTasksAndAborts
open Sys2Proof.Proofs.SketchRegionsTideAndTemperature (fld_of_regsBut)
open Sys2Proof.Proofs.TilesDrainSpillReloadAndTransfer (bankSt_lostDieState)

/-- Refutes O51: its clause on a start record wants no register changed but the semaphore and SCH_INST, with every bank ON and no wipe under
way. `lostTaskState` meets that, but its E-die has left service: the bank refuses, and SPAD_STAT counts the refusal (12 R268, 17 Table
17-5). (A die that is lost gives up its quads with its banks. The clause wants `q / 4 ∉ s.pwr.diesLost` as a hypothesis.) -/
theorem not_instancesTasksAndAborts : ¬ Obligations.InstancesTasksAndAborts := by
  unfold Obligations.InstancesTasksAndAborts
  rintro ⟨-, -, -, -, -, -, -, -, -, hstart, -⟩
  obtain ⟨t, hstep, -, -, -, -, hregs, -⟩ := hstart lostTaskState 0 0 taskInst (0, waitingTask) canonical_lostTaskState (by decide) (by decide)
    rfl rfl rfl (by decide) rfl (by decide) nofun (by decide) (by decide) (by decide) sem_lostTaskState pwrQuad_lostTaskState
    bankSt_lostDieState rfl
  obtain rfl : lostTaskState.startRecord 0 = t := Host.Outcome.next.inj hstep
  have hrefused := refusals_startRecord
  rw [fld_of_regsBut hregs (by decide), refusals_lostTaskState] at hrefused
  exact absurd hrefused (by decide)

end

/-! Proof of O34: the semaphore instructions, a semaphore message that arrives, FLUSH and FENCE. The lemmas say what each makes of the state in
which it executes. -/

namespace Sys2Proof.Proofs.SemaphoreAndFenceInstructions

open Sys2Proof Sys2Proof.Machine Sys2Proof.Safety Sys2Proof.Proofs.IssueOfInstructions
open Sys2Proof.Proofs.RankingModelsAndTables (regsBut_setFld)
open Sys2Proof.Proofs.SketchRegionsTideAndTemperature (regsBut_trans regsBut_mono regsBut_of_regs fld_of_regsBut flag_of_regsBut OnlyRegs
  onlyRegs_setFld raise_silent)
open Sys2Proof.Proofs.MemoryErrorsTemperaturesAndFlash (flag_setFld_one fld_incFld_sat)
open Sys2Proof.Proofs.SpareEngines (quadLog_of_regsBut)

/-! ### One semaphore -/

/-- Semaphore `j` of quad `q` has `v`; nothing beside its word changed. -/
structure SetsSem (q j v : Nat) (s t : State) : Prop where
  sem : t.sem q j = v
  regs : RegsBut [semReg q j] s t
  only : OnlyRegs s t

theorem setsSem {s : State} (hr : RegsOk s) (q j : Nat) {v : Nat} (hv : v ≤ 0xFFFF) : SetsSem q j v s (s.setSem q j v) where
  sem := (State.fld_setFld_self _ _ _ _ hr (by simp only [semFld]; omega)).trans (Nat.mod_eq_of_lt (by simp only [semFld]; omega))
  regs := regsBut_setFld _ _ _ _
  only := onlyRegs_setFld _ _ _ _

/-- A register at or beyond the semaphores' end, or before their beginning, is no semaphore of a quad. -/
theorem regOff_semReg_ne {q j o : Nat} (hq : q < 80) (hj : j < 256) (ho : o < 0x48000 ∨ 0x52000 ≤ o) : o ≠ regOff (semReg q j) := by
  simp only [semReg, regOff]
  omega

/-- The quad's own registers and its owner byte lie apart from its semaphores. -/
theorem quadInst_of_regsBut {rs : List Reg} {s t : State} (h : RegsBut rs s t) {q : Nat} (hq : ∀ x ∈ rs, regOff (.schQuad q) ≠ regOff x) :
    t.quadInst q = s.quadInst q := by
  rw [State.quadInst, fld_of_regsBut h hq, State.quadInst]

theorem regOff_ownReg (q : Nat) : regOff (ownReg 0 q) = 0x102000 + 8 * (q / 8) := rfl

/-- Semaphore `j` stays at its top, and the overflow is raised (09 R182). -/
structure Overflows (q j src : Nat) (s t : State) : Prop where
  sem : t.sem q j = 0xFFFF
  raised : Raised (s.quadLog q) src 0x0303 [] s t
  mem : t.mem = s.mem
  threads : t.ctl.threads = s.ctl.threads

theorem overflows_of_setsSem {s t : State} {q j : Nat} (h : SetsSem q j 0xFFFF s t) (hq : q < 80) (hj : j < 256)
    (hi : ∀ i, s.quadInst q = some i → i < 80) (src : Nat) : Overflows q j src s (t.quadFault q src 0x0303 []) := by
  have hinst : t.quadInst q = s.quadInst q :=
    quadInst_of_regsBut h.regs (by simpa using regOff_semReg_ne hq hj (by simp only [regOff]; omega))
  have hlog : t.quadLog q = s.quadLog q := quadLog_of_regsBut h.regs (by simpa using regOff_semReg_ne hq hj (by rw [regOff_ownReg]; omega))
  obtain ⟨rs, hrs⟩ := h.only
  have hfault := faulted_quadFault (code := 0x0303) (by decide) t q src []
  have hraised := hfault.raised
  rw [hlog] at hraised
  refine ⟨(hfault.sem (by rwa [hinst]) q j).trans h.sem, ?_, ?_, ?_⟩
  · rw [hrs] at hraised ⊢
    exact hraised
  · rw [hfault.mem, hrs]
  · rw [hfault.frame, hrs]

theorem overflows {s : State} (hr : RegsOk s) {q j : Nat} (hq : q < 80) (hj : j < 256) (hi : ∀ i, s.quadInst q = some i → i < 80) (src : Nat) :
    Overflows q j src s ((s.setSem q j 0xFFFF).quadFault q src 0x0303 []) := overflows_of_setsSem (setsSem hr q j (by decide)) hq hj hi src

theorem thread_of_threads {s t : State} (h : t.ctl.threads = s.ctl.threads) (q u k : Nat) : t.thread q u k = s.thread q u k := by
  rw [State.thread, h, State.thread]

section
variable {s t : State} {q u t0 w j v : Nat} {th : Thread} (h : SetsSem q j v (begun q u t0 w th s) t)

include h

theorem thread_of_setsSem : t.thread q u t0 = some (past th) := by
  obtain ⟨rs, hrs⟩ := h.only
  rw [hrs]
  exact thread_setThread (turned q u t0 w s) q u t0 _

theorem frame_of_setsSem : t = { s with regs := t.regs, ctl := { rotated q u t0 w s with threads := t.ctl.threads } } := by
  obtain ⟨rs, hrs⟩ := h.only
  rw [hrs]
  rfl

end

/-! ### SSET, SADD, SWAIT (09 R182) -/

section
variable {s : State} {q u t0 w : Nat} {th : Thread}

theorem exec_sset (h : Issues q u t0 16 w th s) (hu : u < 8) :
    exec (.sset q u t0 .good) s = .next ((begun q u t0 w th s).setSem q (bits w 0 8) (bits w 8 16)) := by
  refine congrArg Host.Outcome.next ((issueNow_eq h hu _).trans ?_)
  rw [bare_f (by decide), bare_f (by decide)]

theorem exec_sadd (h : Issues q u t0 17 w th s) (hu : u < 8) :
    exec (.sadd q u t0 .good) s = .next ((begun q u t0 w th s).sadd (bare q u t0 17 w)) := congrArg Host.Outcome.next (issueNow_eq h hu _)

/-- The sum of a semaphore and SADD's signed delta. -/
def sumOf (q w : Nat) (s : State) : Int := (s.sem q (bits w 0 8) : Int) + sext 16 (bits w 8 16)

theorem sadd_within (h0 : 0 ≤ sumOf q w s) (h1 : sumOf q w s ≤ 0xFFFF) :
    s.sadd (bare q u t0 17 w) = s.setSem q (bits w 0 8) (sumOf q w s).toNat := by
  rw [State.sadd, bare_f (by decide), bare_f (by decide)]
  exact (if_neg (not_lt.2 h0)).trans (if_neg (not_lt.2 h1))

theorem sadd_under (h : sumOf q w s < 0) : s.sadd (bare q u t0 17 w) = s.fault (bare q u t0 17 w) 0x0304 := by
  rw [State.sadd, bare_f (by decide), bare_f (by decide)]
  exact if_pos h

theorem sadd_over (h : 0xFFFF < sumOf q w s) :
    s.sadd (bare q u t0 17 w) = (s.setSem q (bits w 0 8) 0xFFFF).quadFault q (srcUnit q u) 0x0303 [] := by
  rw [State.sadd, bare_f (by decide), bare_f (by decide)]
  have h0 : ¬ sumOf q w s < 0 := by omega
  exact (if_neg h0).trans (if_pos h)

theorem exec_swait (h : Issues q u t0 18 w th s) (hu : u < 8) : exec (.swait q u t0 .good) s = .next
    (if bitAt w 24 then (begun q u t0 w th s).setSem q (bits w 0 8) (s.sem q (bits w 0 8) - bits w 8 16) else begun q u t0 w th s) := by
  refine congrArg Host.Outcome.next ((issue_eq h hu _).trans ?_)
  rw [State.swait, bare_f (by decide), bare_f (by decide), bare_f (by decide), bits_one, Option.getD_some]
  by_cases hc : bitAt w 24 = true
  · simp only [hc, if_true]
    rfl
  · simp only [hc, Bool.false_eq_true, if_false, zero_ne_one]
    rfl

/-- A SWAIT whose count is not there starts its thread's wait (09 R178). -/
theorem exec_swait_short (h : Fits q u t0 0x12 w th s) (hu : u < 8) (hshort : s.sem q (bits w 0 8) < bits w 8 16) :
    exec (.swait q u t0 .good) s = .next (s.setThread q u t0 { th with waitAt := some (th.waitAt.getD s.svcTime) }) := by
  obtain ⟨hth, hdry, hword, hon, hop, hclass, hruns, hthr, hform⟩ := h
  have hclassReady : s.classReady q u t0 w = false := by
    rw [State.classReady, hop]
    refine decide_eq_false fun hle => ?_
    rw [bits_bits (by decide), bits_bits (by decide)] at hle
    omega
  have hready : s.wordReady q u t0 w = false := by rw [State.wordReady, hclassReady, Bool.and_false]
  have hferry : ¬ (8 ≤ u ∧ u < 12) := by omega
  refine congrArg Host.Outcome.next (Eq.trans ?_ (mapThread_of_thread hth fun v => { v with waitAt := some (v.waitAt.getD s.svcTime) }))
  simp [State.issue, hth, hdry, hword, hon, hop, hclass, hruns, hthr, hform, hready, State.waits, hferry]

end

/-- What a SWAIT subtracts leaves a count. -/
theorem setsSem_taken {s : State} (hr : RegsOk s) (q j n : Nat) (c : Bool) :
    SetsSem q j (s.sem q j - if c then n else 0) s (if c then s.setSem q j (s.sem q j - n) else s) := by
  have hle : s.sem q j < 2 ^ 16 := bits_lt _ _ _
  cases c with
  | true => exact setsSem hr q j (by omega)
  | false => exact ⟨rfl, regsBut_of_regs _ rfl, s.regs, rfl⟩

/-! ### SIGR and the messages that arrive (09 R183) -/

section
variable {s : State} {q u t0 w : Nat} {th : Thread}

theorem exec_sigr (h : Issues q u t0 19 w th s) (hu : u < 8) :
    exec (.sigr q u t0 .good) s = .next ((begun q u t0 w th s).sigr (bare q u t0 19 w)) := congrArg Host.Outcome.next (issueNow_eq h hu _)

theorem sigr_gone (h : s.quadGone (bits w 25 7) = true) : s.sigr (bare q u t0 19 w) = s.fault (bare q u t0 19 w) 0x030B := by
  rw [State.sigr, bare_f (by decide)]
  exact if_pos h

theorem sigr_sends (h : s.quadGone (bits w 25 7) = false) : s.sigr (bare q u t0 19 w) = { s with ctl := { s.ctl with
    sigs := s.ctl.sigs ++ [⟨bits w 25 7, bits w 0 8, bits w 8 16, s.fld (.schQuad q) SCH_QUAD_EPOCH, srcUnit q u, false⟩] } } := by
  rw [State.sigr, bare_f (by decide), bare_f (by decide), bare_f (by decide)]
  exact if_neg (by rw [h]; decide)

end

/-- Quad `q` was named: when it is GATED or OFF, it waits for its token (16 R375). Its state stays. -/
structure Named (q : Nat) (s t : State) : Prop where
  waits : s.fld (.pwrQuad q) PWR_QUAD_STATE = 1 ∨ s.fld (.pwrQuad q) PWR_QUAD_STATE = 2 → t.flag (.pwrQuad q) PWR_QUAD_WAITTOK = true
  state : t.fld (.pwrQuad q) PWR_QUAD_STATE = s.fld (.pwrQuad q) PWR_QUAD_STATE
  ok : RegsOk t
  regs : RegsBut [.pwrQuad q] s t
  frame : t = { s with regs := t.regs, pwr := { s.pwr with wakeReq := t.pwr.wakeReq } }

theorem named_askWake {s : State} (hr : RegsOk s) (q : Nat) : Named q s (s.askWake q) := by
  unfold State.askWake
  dsimp only
  split
  · have hflag := flag_setFld_one hr (.pwrQuad q) PWR_QUAD_WAITTOK (by decide) (by decide)
    have hstate := State.fld_setFld_fld s (.pwrQuad q) PWR_QUAD_WAITTOK PWR_QUAD_STATE 1 hr (by decide) (by decide)
    have hok : RegsOk (s.setFld (.pwrQuad q) PWR_QUAD_WAITTOK 1) := s.regsOk_setFld _ _ _ hr
    have hregs := regsBut_setFld s (.pwrQuad q) PWR_QUAD_WAITTOK 1
    obtain ⟨rs, hrs⟩ := onlyRegs_setFld s (.pwrQuad q) PWR_QUAD_WAITTOK 1
    rw [hrs] at hflag hstate hok hregs ⊢
    exact ⟨fun _ => hflag, hstate, hok, hregs, rfl⟩
  · rename_i hno
    exact ⟨fun h => by simpa [h] using hno, rfl, hr, regsBut_of_regs _ rfl, rfl⟩

/-- The message is not dropped: its quad has an instance, of the sender's epoch or a 2-series one's partner. -/
abbrev Takes (m : SigMsg) (s : State) : Prop :=
  (s.quadInst m.q).isSome = true ∧ (m.peer2 = true ∨ s.fld (.schQuad m.q) SCH_QUAD_EPOCH = m.epoch)

/-- The message is no longer under way. -/
abbrev without (k : Nat) (s : State) : State := { s with ctl := { s.ctl with sigs := s.ctl.sigs.eraseIdx k } }

section
variable {s t : State} {k : Nat} {m : SigMsg}

theorem exec_signalArrival (hm : s.ctl.sigs[k]? = some m) : exec (.signalArrival k) s = .next ((without k s).deliverSig m) := by
  refine congrArg Host.Outcome.next ?_
  rw [State.sigArrival, hm]

/-- The power registers lie apart from the schedule's. -/
theorem regOff_schQuad_ne_pwrQuad {q : Nat} (hq : q < 80) (q' : Nat) : regOff (.schQuad q) ≠ regOff (.pwrQuad q') := by
  simp only [regOff]
  omega

theorem Named.quadInst (h : Named m.q s t) (hq : m.q < 80) : t.quadInst m.q = s.quadInst m.q :=
  quadInst_of_regsBut h.regs (by simpa using regOff_schQuad_ne_pwrQuad hq _)

theorem Named.epoch (h : Named m.q s t) (hq : m.q < 80) : t.fld (.schQuad m.q) SCH_QUAD_EPOCH = s.fld (.schQuad m.q) SCH_QUAD_EPOCH :=
  fld_of_regsBut h.regs (by simpa using regOff_schQuad_ne_pwrQuad hq _) _

theorem Named.takes (h : Named m.q s t) (hq : m.q < 80) : Takes m t ↔ Takes m s := by
  rw [Takes, h.quadInst hq, h.epoch hq]

theorem Named.sem (h : Named m.q s t) (hq : m.q < 80) (j : Nat) (hj : j < 256) : t.sem m.q j = s.sem m.q j := by
  refine fld_of_regsBut h.regs ?_ _
  simpa using (regOff_semReg_ne hq hj (o := regOff (.pwrQuad m.q)) (by simp only [regOff]; omega)).symm

/-- The owner bytes lie below the power registers. -/
theorem Named.quadLog (h : Named m.q s t) (q : Nat) (hq : q < 80) : t.quadLog q = s.quadLog q :=
  quadLog_of_regsBut h.regs (by simp only [List.mem_singleton, forall_eq, regOff_ownReg]; simp only [regOff]; omega)

theorem Named.stale (h : Named m.q s t) (hq : m.q < 80) : t.fld (.schQuad m.q) SCH_QUAD_STALE = s.fld (.schQuad m.q) SCH_QUAD_STALE :=
  fld_of_regsBut h.regs (by simpa using regOff_schQuad_ne_pwrQuad hq _) _

/-- What is raised behind a request for a token is raised all the same. -/
theorem raised_of_named {t' : State} {q l src code : Nat} {data : List Byte} (h : Named q (without k s) t) (hraised : Raised l src code data t t') :
    Raised l src code data s t' := by
  rw [h.frame] at hraised
  exact hraised

theorem regOff_pwrQuad_ne_semReg (hq : m.q < 80) (hj : m.sem < 256) : ∀ x ∈ [semReg m.q m.sem], regOff (.pwrQuad m.q) ≠ regOff x := by
  simpa using regOff_semReg_ne hq hj (o := regOff (.pwrQuad m.q)) (by simp only [regOff]; omega)

/-- A message of no instance, or of another epoch, is not taken. -/
theorem not_takes (h : (s.quadInst m.q).isSome = false ∨ (m.peer2 = false ∧ s.fld (.schQuad m.q) SCH_QUAD_EPOCH ≠ m.epoch)) : ¬ Takes m s := by
  rintro ⟨hinst, hepoch⟩
  rcases h with hnone | ⟨hpeer, hne⟩
  · simp [hinst] at hnone
  · simp [hpeer, hne] at hepoch

theorem deliverSig_taken (h : Named m.q s (s.askWake m.q)) (hq : m.q < 80) (hk : Takes m s) :
    s.deliverSig m = (s.askWake m.q).addSem m.q m.sem m.n m.src := if_pos ((h.takes hq).2 hk)

theorem deliverSig_dropped (h : Named m.q s (s.askWake m.q)) (hq : m.q < 80) (hk : ¬ Takes m s) (hsrc : isQuadUnit m.src = true) :
    s.deliverSig m = ((s.askWake m.q).incFld (.schQuad m.q) SCH_QUAD_STALE 1).raise (s.quadLog (m.src / 16)) m.src 0x0307 [] := by
  rw [State.deliverSig, ← h.quadLog (m.src / 16) (by simp only [isQuadUnit, decide_eq_true_eq] at hsrc; omega)]
  refine (if_neg (fun h' => hk ((h.takes hq).1 h'))).trans ?_
  rw [hsrc]
  rfl

/-- A message that was taken adds its count, while the sum fits. -/
theorem sum_of_taken (h : Named m.q s t) (hq : m.q < 80) (hj : m.sem < 256) (hsum : s.sem m.q m.sem + m.n ≤ 0xFFFF) :
    SetsSem m.q m.sem (s.sem m.q m.sem + m.n) t (t.addSem m.q m.sem m.n m.src) := by
  have hsem := h.sem hq _ hj
  rw [State.addSem, hsem]
  exact (if_pos hsum : ite _ _ _ = _) ▸ setsSem h.ok m.q m.sem hsum

/-- A message that was taken leaves its semaphore at the top, when the sum does not fit. -/
theorem overflow_of_taken (h : Named m.q s t) (hq : m.q < 80) (hj : m.sem < 256) (hi : ∀ i, s.quadInst m.q = some i → i < 80)
    (hsum : 0xFFFF < s.sem m.q m.sem + m.n) : Overflows m.q m.sem m.src t (t.addSem m.q m.sem m.n m.src) := by
  rw [State.addSem, h.sem hq _ hj]
  exact (if_neg (not_le.2 hsum) : ite _ _ _ = _) ▸ overflows h.ok hq hj (by rwa [h.quadInst hq]) m.src

/-- A message that was dropped is counted, and its sender's log has it. -/
structure Dropped (m : SigMsg) (l : Nat) (s t : State) : Prop where
  stale : t.fld (.schQuad m.q) SCH_QUAD_STALE = satAdd (2 ^ 32 - 1) (s.fld (.schQuad m.q) SCH_QUAD_STALE) 1
  raised : Raised l m.src 0x0307 [] s t
  regs : RegsBut [.schQuad m.q] s t
  frame : t = { s with regs := t.regs, evt := t.evt }

theorem dropped (hr : RegsOk s) (m : SigMsg) (l : Nat) : Dropped m l s ((s.incFld (.schQuad m.q) SCH_QUAD_STALE 1).raise l m.src 0x0307 []) := by
  have hstale := fld_incFld_sat (n := 1) (r := .schQuad m.q) (f := SCH_QUAD_STALE) hr (by decide) rfl
  have hregs : RegsBut [.schQuad m.q] s (s.incFld (.schQuad m.q) SCH_QUAD_STALE 1) := regsBut_setFld _ _ _ _
  obtain ⟨rs, hrs⟩ : OnlyRegs s (s.incFld (.schQuad m.q) SCH_QUAD_STALE 1) := onlyRegs_setFld _ _ _ _
  rw [raise_silent (by decide)]
  rw [hrs] at hstale hregs ⊢
  exact ⟨hstale, rfl, hregs, rfl⟩

end

/-! ### FLUSH and FENCE (09 R184) -/

section
variable {s : State} {q u t0 op w : Nat} {th : Thread}

/-! Which ranges a unit may name depends on the registers alone. -/

section
variable {s t : State} (h : t.regs = s.regs)

include h

theorem owner_of_regs (k i : Nat) : t.owner k i = s.owner k i := by rw [State.owner, State.reg, h, State.owner, State.reg]

theorem addrPart_of_regs (a : Nat) : t.addrPart a = s.addrPart a := by
  unfold State.addrPart
  split
  · rw [owner_of_regs h]
  · rfl

theorem ownsRange_of_regs (p a len : Nat) : t.ownsRange p a len = s.ownsRange p a len := by
  simp only [State.ownsRange, addrPart_of_regs h]

theorem unitRange_of_regs (q a len : Nat) : t.unitRange q a len = s.unitRange q a len := by
  have hpart : t.quadPart q = s.quadPart q := by rw [State.quadPart, owner_of_regs h, State.quadPart]
  simp only [State.unitRange, hpart, ownsRange_of_regs h]

end

theorem unitRange_begun (a len : Nat) : (begun q u t0 w th s).unitRange q a len = s.unitRange q a len :=
  unitRange_of_regs (s := s) (t := begun q u t0 w th s) rfl q a len

theorem exec_flush (h : Issues q u t0 32 w th s) (hu : u < 8) :
    exec (.flush q u t0 .good) s = .next ((begun q u t0 w th s).flush (bare q u t0 32 w)) := congrArg Host.Outcome.next (issue_eq h hu _)

theorem exec_fence (h : Issues q u t0 33 w th s) (hu : u < 8) :
    exec (.fence q u t0 .good) s = .next ((begun q u t0 w th s).fence (bare q u t0 33 w)) := congrArg Host.Outcome.next (issue_eq h hu _)

theorem flush_within (h : s.unitRange q (bits w 0 40) (bits w 40 32) = true) :
    s.flush (bare q u t0 op w) = s.later (bare q u t0 op w) := by
  rw [State.flush, bare_f (by decide), bare_f (by decide)]
  exact if_pos h

theorem flush_outside (h : s.unitRange q (bits w 0 40) (bits w 40 32) = false) :
    s.flush (bare q u t0 op w) = s.fault (bare q u t0 op w) 0x0306 := by
  rw [State.flush, bare_f (by decide), bare_f (by decide)]
  exact if_neg (by rw [h]; decide)

theorem fence_outside (h : s.unitRange q (bits w 0 40) (bits w 40 32) = false) :
    s.fence (bare q u t0 op w) = s.fault (bare q u t0 op w) 0x0306 := by
  rw [State.fence, bare_f (by decide), bare_f (by decide)]
  exact if_pos h

/-- A FLUSH or a FENCE outside its partition. -/
theorem exec_outside (hu : u < 8) (h : Issues q u t0 0x20 w th s ∨ Issues q u t0 0x21 w th s)
    (hrange : s.unitRange q (bits w 0 40) (bits w 40 32) = false) :
    exec (if iOpcode w = 0x20 then .flush q u t0 .good else .fence q u t0 .good) s =
      .next ((begun q u t0 w th s).fault (bare q u t0 (iOpcode w) w) 0x0306) := by
  have hopcode {op : Nat} (h : Issues q u t0 op w th s) : iOpcode w = op := by
    obtain ⟨⟨⟨-, -, -, -, hop, -⟩, -⟩, -⟩ := h
    exact hop
  rcases h with hflush | hfence
  · rw [hopcode hflush, if_pos rfl]
    exact (exec_flush hflush hu).trans (congrArg Host.Outcome.next (flush_outside ((unitRange_begun _ _).trans hrange)))
  · rw [hopcode hfence, if_neg (by decide)]
    exact (exec_fence hfence hu).trans (congrArg Host.Outcome.next (fence_outside ((unitRange_begun _ _).trans hrange)))

/-- Sharer bits of lines in turn: the directory alone changes. -/
theorem foldl_setSharers (f : State → Nat → Nat) (l : List Nat) (s : State) :
    ∃ d, l.foldl (fun (s : State) (n : Nat) => s.setSharers n (f s n)) s = { s with net := { s.net with dir := d } } := by
  induction l generalizing s with
  | nil => exact ⟨s.net.dir, rfl⟩
  | cons n l ih =>
    obtain ⟨d, hd⟩ := ih (s.setSharers n (f s n))
    exact ⟨d, hd⟩

/-- A far line of the die lies in the range of a FENCE. -/
abbrev Fenced (q w : Nat) (l : FarLine) : Prop :=
  l.die = q / 4 ∧ 0 < bits w 40 32 ∧ 256 * l.line < bits w 0 40 + bits w 40 32 ∧ bits w 0 40 < 256 * l.line + 256

/-- FENCE drops its lines, and the directory forgets the die's copies. -/
theorem fence_within (h : s.unitRange q (bits w 0 40) (bits w 40 32) = true) : ∃ d, s.fence (bare q u t0 op w) =
    ({ s with net := { s.net with lines := s.net.lines.filter (fun l => ¬ Fenced q w l), dir := d } } : State).later (bare q u t0 op w) := by
  rw [State.fence, bare_f (by decide), bare_f (by decide)]
  dsimp only
  rw [if_neg (by rw [h]; decide)]
  generalize List.map FarLine.line _ = gone
  obtain ⟨d, hd⟩ := foldl_setSharers (fun s n => putBits (s.sharers n) (q / 4) 1 0) gone s
  refine ⟨d, ?_⟩
  have hdie : (bare q u t0 op w).die = q / 4 := rfl
  rw [hdie, hd]
  have hkeep : (fun l : FarLine => !(decide (l.die = q / 4) && decide (bits w 0 40 < bits w 0 40 + bits w 40 32) &&
      decide (256 * l.line < bits w 0 40 + bits w 40 32) && decide (bits w 0 40 < 256 * l.line + 256))) = fun l => decide (¬ Fenced q w l) := by
    funext l
    simp only [Fenced, ← Bool.decide_and, decide_not, Nat.lt_add_right_iff_pos, and_assoc]
  rw [hkeep]

end

end Sys2Proof.Proofs.SemaphoreAndFenceInstructions

section

open Sys2Proof Sys2Proof.Machine Sys2Proof.Safety Sys2Proof.Proofs.IssueOfInstructions Sys2Proof.Proofs.SemaphoreAndFenceInstructions
open Sys2Proof.Proofs.SketchRegionsTideAndTemperature (regsBut_trans regsBut_mono fld_of_regsBut flag_of_regsBut)

/-- Settles O34, by what each instruction makes of the state in which its thread is past it, and the rotation behind its thread. -/
theorem semaphoreAndFenceInstructions : Obligations.SemaphoreAndFenceInstructions := by
  unfold Obligations.SemaphoreAndFenceInstructions
  refine ⟨?sset, ?within, ?below, ?above, ?swait, ?short, ?sigr, ?refused, ?taken, ?overflow, ?dropped, ?flush, ?fence, ?outside⟩
  case sset =>
    intro s q u t0 w th hr hu h
    have hset := setsSem (s := begun q u t0 w th s) hr q (bits w 0 8) (v := bits w 8 16) (by have := bits_lt w 8 16; omega)
    exact ⟨_, exec_sset h hu, hset.sem, thread_of_setsSem hset, hset.regs, frame_of_setsSem hset⟩
  case within =>
    intro s q u t0 w th hr hu h h0 h1
    have hset := setsSem (s := begun q u t0 w th s) hr q (bits w 0 8) (v := (sumOf q w s).toNat) (by unfold sumOf; omega)
    refine ⟨_, (exec_sadd h hu).trans (congrArg Host.Outcome.next (sadd_within (s := begun q u t0 w th s) h0 h1)), ?_,
      thread_of_setsSem hset, hset.regs, frame_of_setsSem hset⟩
    exact (congrArg Int.ofNat hset.sem).trans (Int.toNat_of_nonneg h0)
  case below =>
    intro s q u t0 w th hr hq hi hu h hneg
    have hfault := faulted_fault (code := 0x0304) (by decide) (begun q u t0 w th s) (bare q u t0 17 w)
    exact ⟨_, (exec_sadd h hu).trans (congrArg Host.Outcome.next (sadd_under (s := begun q u t0 w th s) hneg)), hfault.sem hi q _, hfault.raised,
      (hfault.thread q u t0).trans (thread_setThread _ _ _ _ _), hfault.mem⟩
  case above =>
    intro s q u t0 w th hr hq hi hu h hover
    have hoverflows := overflows (s := begun q u t0 w th s) hr hq (bits_lt w 0 8) hi (srcUnit q u)
    exact ⟨_, (exec_sadd h hu).trans (congrArg Host.Outcome.next (sadd_over (s := begun q u t0 w th s) hover)), hoverflows.sem,
      hoverflows.raised, (thread_of_threads hoverflows.threads q u t0).trans (thread_setThread _ _ _ _ _), hoverflows.mem⟩
  case swait =>
    intro s q u t0 w th hr hu h hle
    have htakes := setsSem_taken (s := begun q u t0 w th s) hr q (bits w 0 8) (bits w 8 16) (bitAt w 24)
    exact ⟨_, exec_swait h hu, htakes.sem, thread_of_setsSem htakes, htakes.regs, frame_of_setsSem htakes⟩
  case short =>
    intro s q u t0 w th hu h hlt
    exact exec_swait_short h hu hlt
  case sigr =>
    intro s q u t0 w th hu h hgone
    exact ⟨_, (exec_sigr h hu).trans (congrArg Host.Outcome.next (sigr_sends (s := begun q u t0 w th s) hgone)), thread_setThread _ _ _ _ _, rfl, rfl⟩
  case refused =>
    intro s q u t0 w th hr hq hi hu h hgone
    have hfault := faulted_fault (code := 0x030B) (by decide) (begun q u t0 w th s) (bare q u t0 19 w)
    exact ⟨_, (exec_sigr h hu).trans (congrArg Host.Outcome.next (sigr_gone (s := begun q u t0 w th s) hgone)), hfault.raised,
      (hfault.thread q u t0).trans (thread_setThread _ _ _ _ _), hfault.sigs, hfault.mem⟩
  case taken =>
    intro s k m hr hm hq hj hinst hepoch hsum
    have hnamed := named_askWake (s := without k s) hr m.q
    have hsum' := sum_of_taken hnamed hq hj hsum
    refine ⟨_, (exec_signalArrival hm).trans (congrArg Host.Outcome.next (deliverSig_taken hnamed hq ⟨hinst, hepoch⟩)), hsum'.sem,
      regsBut_trans (regsBut_mono (rs := [.pwrQuad m.q]) hnamed.regs (by simp)) (regsBut_mono hsum'.regs (by simp)), ?_, ?_, ?_⟩
    · intro hstate
      exact (flag_of_regsBut hsum'.regs (regOff_pwrQuad_ne_semReg hq hj) _).trans (hnamed.waits hstate)
    · exact (fld_of_regsBut hsum'.regs (regOff_pwrQuad_ne_semReg hq hj) _).trans hnamed.state
    · obtain ⟨rs, hrs⟩ := hsum'.only
      rw [hrs, hnamed.frame]
  case overflow =>
    intro s k m hr hm hq hj hinst hi hepoch hsum
    have hnamed := named_askWake (s := without k s) hr m.q
    have hover := overflow_of_taken hnamed hq hj hi hsum
    have hraised := hover.raised
    rw [hnamed.quadLog m.q hq] at hraised
    refine ⟨_, (exec_signalArrival hm).trans (congrArg Host.Outcome.next (deliverSig_taken hnamed hq ⟨hinst, hepoch⟩)), hover.sem, ?_, ?_⟩
    · exact raised_of_named hnamed hraised
    · rw [hover.mem, hnamed.frame]
  case dropped =>
    intro s k m hr hm hsrc hq hdrop
    have hnamed := named_askWake (s := without k s) hr m.q
    have hdropped := dropped hnamed.ok m ((without k s).quadLog (m.src / 16))
    have hstale := hdropped.stale
    rw [hnamed.stale hq] at hstale
    refine ⟨_, (exec_signalArrival hm).trans (congrArg Host.Outcome.next (deliverSig_dropped hnamed hq (not_takes hdrop) hsrc)), hstale,
      raised_of_named hnamed hdropped.raised, ?_, ?_⟩
    · exact regsBut_trans (regsBut_mono (rs := [.pwrQuad m.q]) hnamed.regs (by simp)) (regsBut_mono hdropped.regs (by simp))
    · rw [hdropped.frame, hnamed.frame]
  case flush =>
    intro s q u t0 w th hu h hrange
    exact (exec_flush h hu).trans (congrArg Host.Outcome.next ((flush_within ((unitRange_begun _ _).trans hrange)).trans later_begun))
  case fence =>
    intro s q u t0 w th hu h hrange
    obtain ⟨d, hd⟩ := fence_within (op := 33) (u := u) (t0 := t0) ((unitRange_begun (u := u) (t0 := t0) (th := th) _ _).trans hrange)
    refine ⟨_, (exec_fence h hu).trans (congrArg Host.Outcome.next (hd.trans (later_of_thread (thread_setThread (turned q u t0 w s) q u t0 _)))),
      thread_setThread _ _ _ _ _, rfl, rfl⟩
  case outside =>
    intro s q u t0 w th hr hq hi hu h hrange
    have hfault (op : Nat) := faulted_fault (code := 0x0306) (by decide) (begun q u t0 w th s) (bare q u t0 op w)
    refine ⟨_, exec_outside hu h hrange, (hfault _).raised, ((hfault _).thread q u t0).trans (thread_setThread _ _ _ _ _), (hfault _).net,
      (hfault _).mem⟩

end

/-! Proof of O39: the lanes of a register under a mask, and the fourteen instructions that compute lane by lane. -/

namespace Sys2Proof.Proofs.LanesOfTheVectorProcessor

open Sys2Proof Sys2Proof.Machine Sys2Proof.Safety Sys2Proof.Proofs.IssueOfInstructions

/-! ### Lanes of a register (09 R192) -/

/-- A lane lies in the 2048 bits of its register. -/
theorem lane_fits {ty n : Nat} (h : n < laneCount ty) : n * laneBits ty + laneBits ty ≤ 2048 := by
  have hle : (n + 1) * laneBits ty ≤ laneCount ty * laneBits ty := Nat.mul_le_mul_right _ h
  rw [Nat.succ_mul] at hle
  exact hle.trans (Nat.div_mul_le_self _ _)

theorem lane_mod {ty n : Nat} (h : n < laneCount ty) (v : Nat) : lane ty (v % 2 ^ 2048) n = lane ty v n := bits_bits (lane_fits h) v

/-- Lanes put one after another into a register: each takes its value when it is active. -/
theorem lane_foldl (ty old : Nat) (act : Nat → Bool) (f : Nat → Nat) (n m : Nat) :
    lane ty ((List.range m).foldl (fun v k => if act k then putBits v (k * laneBits ty) (laneBits ty) (f k) else v) old) n =
      if n < m ∧ act n = true then f n % 2 ^ laneBits ty else lane ty old n := by
  induction m with
  | zero => simp
  | succ m ih =>
    rw [List.range_succ, List.foldl_append, List.foldl_cons, List.foldl_nil]
    by_cases hact : act m = true
    · rw [if_pos hact]
      rcases Nat.lt_trichotomy n m with hlt | rfl | hgt
      · have hle : (n + 1) * laneBits ty ≤ m * laneBits ty := Nat.mul_le_mul_right _ hlt
        rw [lane, bits_putBits_ne _ _ _ _ _ _ (Or.inl (by rwa [Nat.succ_mul] at hle)), ← lane, ih]
        simp [hlt, Nat.lt_succ_of_lt hlt]
      · rw [lane, bits_putBits_self]
        simp [hact]
      · have hle : (m + 1) * laneBits ty ≤ n * laneBits ty := Nat.mul_le_mul_right _ hgt
        rw [lane, bits_putBits_ne _ _ _ _ _ _ (Or.inr (by rwa [Nat.succ_mul] at hle)), ← lane, ih]
        simp [show ¬ n < m by omega, show ¬ n < m + 1 by omega]
    · rw [if_neg hact, ih]
      have hiff : (n < m ∧ act n = true) ↔ (n < m + 1 ∧ act n = true) := by
        refine and_congr_left fun hn => ⟨Nat.lt_succ_of_lt, fun hlt => ?_⟩
        have hne : n ≠ m := by
          rintro rfl
          exact hact hn
        omega
      simp only [hiff]

theorem lane_lanes (s : State) (x : Iss) (old : Nat) (f : Nat → Nat) {n : Nat} (h : n < laneCount x.ty) :
    lane x.ty (s.lanes x old f) n = if s.active x n = true then f n % 2 ^ laneBits x.ty else lane x.ty old n := by
  refine (lane_foldl x.ty old (s.active x) f n (laneCount x.ty)).trans ?_
  simp only [h, true_and]

/-! ### An instruction that writes its lanes -/

section
variable {s : State} {q t0 op w : Nat} {th : Thread}

theorem bare_ty : (bare q 4 t0 op w).ty = bits w 20 3 := bare_f (by decide) ..

theorem bare_imm : (bare q 4 t0 op w).imm = bits w 32 32 := bare_f (by decide) ..

theorem srcA_begun : (begun q 4 t0 w th s).srcA (bare q 4 t0 op w) = s.vreg q t0 (bits w 5 5) :=
  congrArg (s.vreg q t0) (bare_f (by decide) ..)

theorem srcB_begun : (begun q 4 t0 w th s).srcB (bare q 4 t0 op w) = s.vreg q t0 (bits w 10 5) :=
  congrArg (s.vreg q t0) (bare_f (by decide) ..)

theorem srcC_begun : (begun q 4 t0 w th s).srcC (bare q 4 t0 op w) = s.vreg q t0 (bits w 15 5) :=
  congrArg (s.vreg q t0) (bare_f (by decide) ..)

/-- Lane `n` is active: without a mask, or by its bit of the mask. -/
theorem active_begun (n : Nat) : (begun q 4 t0 w th s).active (bare q 4 t0 op w) n = true ↔
    bits w 23 2 = 0 ∨ bitAt (s.vmask q t0 (bits w 23 2)) (laneBit (bits w 20 3) n) = true := by
  rw [State.active, bare_ty, bare_f (by decide), Bool.or_eq_true, decide_eq_true_eq]
  rfl

/-- The active lanes of VD are written, and the instruction is in progress. -/
theorem toVd_begun (f : Nat → Nat) : (begun q 4 t0 w th s).toVd (bare q 4 t0 op w) f =
    ((turned q 4 t0 w s).setVreg q t0 (bits w 0 5)
      ((begun q 4 t0 w th s).lanes (bare q 4 t0 op w) (s.vreg q t0 (bits w 0 5)) f)).setThread q 4 t0 (inProgress op w th) := by
  have hvd : (bare q 4 t0 op w).vd = bits w 0 5 := bare_f (by decide) ..
  rw [State.toVd, hvd]
  change ((begun q 4 t0 w th s).setVreg q t0 (bits w 0 5) ((begun q 4 t0 w th s).lanes (bare q 4 t0 op w) (s.vreg q t0 (bits w 0 5)) f)).later
    (bare q 4 t0 op w) = _
  generalize State.lanes _ _ _ _ = new
  have hthread : ((begun q 4 t0 w th s).setVreg q t0 (bits w 0 5) new).thread q 4 t0 = some (past th) := thread_setThread _ _ _ _ _
  exact (later_of_thread hthread).trans (setThread_setThread ((turned q 4 t0 w s).setVreg q t0 (bits w 0 5) new) q 4 t0 _ _)

end

/-! ### What an instruction makes of its lanes -/

/-- In a TYPE of `types`, the instruction `c` of opcode `op` writes lane by lane what `f` makes of IMM, TYPE and the lanes of its sources. -/
def Computes (c : Nat → Nat → Nat → UnitErr → Instr) (op : Nat) (types : List Nat) (f : Nat → Nat → Nat → Nat → Nat → Nat) : Prop :=
  ∀ (s : State) (q t0 w : Nat) (th : Thread), Issues q 4 t0 op w th s → bits w 20 3 ∈ types → (op = 0x51 → bits w 39 2 ≠ 3) →
    ∃ g : Nat → Nat, exec (c q 4 t0 .good) s = .next ((begun q 4 t0 w th s).toVd (bare q 4 t0 op w) g) ∧
      ∀ n, g n % 2 ^ laneBits (bits w 20 3) = f (bits w 32 32) (bits w 20 3) (lane (bits w 20 3) (s.vreg q t0 (bits w 5 5)) n)
        (lane (bits w 20 3) (s.vreg q t0 (bits w 10 5)) n) (lane (bits w 20 3) (s.vreg q t0 (bits w 15 5)) n) % 2 ^ laneBits (bits w 20 3)

/-- An instruction's value at a lane of its three sources. -/
abbrev laneOf (g : Iss → Nat → Nat → Nat → Nat) (s : State) (x : Iss) (n : Nat) : Nat :=
  g x (lane x.ty (s.srcA x) n) (lane x.ty (s.srcB x) n) (lane x.ty (s.srcC x) n)

section
variable {c : Nat → Nat → Nat → UnitErr → Instr} {op : Nat} {types : List Nat} {f : Nat → Nat → Nat → Nat → Nat → Nat}

/-- The instruction is one of the vector processor's that names its types. -/
abbrev RunsAs (c : Nat → Nat → Nat → UnitErr → Instr) (op : Nat) (types : List Nat) (run : State → Iss → Option State) : Prop :=
  ∀ (s : State) (q t0 : Nat) (e : UnitErr), exec (c q 4 t0 e) s = .next (s.vec q 4 t0 e op types run)

theorem exec_vec {run : State → Iss → Option State} (hc : RunsAs c op types run) {s : State} {q t0 w : Nat} {th : Thread}
    (h : Issues q 4 t0 op w th s) : exec (c q 4 t0 .good) s =
      .next ((if types.contains (bits w 20 3) then run (begun q 4 t0 w th s) (bare q 4 t0 op w)
        else some ((begun q 4 t0 w th s).fault (bare q 4 t0 op w) 0x030C)).getD ((begun q 4 t0 w th s).stay (bare q 4 t0 op w))) := by
  rw [hc, State.vec, issue_eq h (by decide), bare_ty]

/-- An instruction computes what its run computes in form and in a TYPE it takes. -/
theorem computes_of_run {run : State → Iss → Option State} {g : Iss → Nat → Nat → Nat → Nat} (hc : RunsAs c op types run)
    (hrun : ∀ s x, (op = 0x51 → bits x.o 39 2 ≠ 3) → run s x = some (s.toVd x (laneOf g s x)))
    (hg : ∀ x a b c, formOk op x.o = true → x.ty ∈ types → b < 2 ^ laneBits x.ty →
      g x a b c % 2 ^ laneBits x.ty = f x.imm x.ty a b c % 2 ^ laneBits x.ty) : Computes c op types f := by
  intro s q t0 w th h hty hkind
  obtain ⟨⟨⟨-, -, -, -, -, -, -, -, hform⟩, -⟩, -⟩ := id h
  refine ⟨laneOf g (begun q 4 t0 w th s) (bare q 4 t0 op w), ?_, fun n => ?_⟩
  · rw [exec_vec hc h, if_pos (List.contains_iff_mem.2 hty), hrun _ _ (fun hop => by rw [bits_bits (by decide)]; exact hkind hop), Option.getD_some]
  · have hlane := hg (bare q 4 t0 op w) (lane (bits w 20 3) (s.vreg q t0 (bits w 5 5)) n) (lane (bits w 20 3) (s.vreg q t0 (bits w 10 5)) n)
      (lane (bits w 20 3) (s.vreg q t0 (bits w 15 5)) n) hform (by rwa [bare_ty]) (by rw [bare_ty]; exact bits_lt _ _ _)
    rw [bare_ty, bare_imm] at hlane
    rw [laneOf, bare_ty, srcA_begun, srcB_begun, srcC_begun, hlane]

/-- The registers after an instruction that computes. -/
theorem exec_of_computes (hc : Computes c op types f) {s : State} {q t0 w : Nat} {th : Thread} (h : Issues q 4 t0 op w th s)
    (hty : bits w 20 3 ∈ types) (hkind : op = 0x51 → bits w 39 2 ≠ 3) (hv : twf (fun _ => 0) s.eng.vreg = true) :
    ∃ t : State, exec (c q 4 t0 .good) s = .next t ∧
      (∀ n < laneCount (bits w 20 3), lane (bits w 20 3) (t.vreg q t0 (bits w 0 5)) n =
        if bits w 23 2 = 0 ∨ bitAt (s.vmask q t0 (bits w 23 2)) (laneBit (bits w 20 3) n) = true then
          f (bits w 32 32) (bits w 20 3) (lane (bits w 20 3) (s.vreg q t0 (bits w 5 5)) n) (lane (bits w 20 3) (s.vreg q t0 (bits w 10 5)) n)
            (lane (bits w 20 3) (s.vreg q t0 (bits w 15 5)) n) % 2 ^ laneBits (bits w 20 3)
        else lane (bits w 20 3) (s.vreg q t0 (bits w 0 5)) n) ∧
      (∀ k, k ≠ 32 * (8 * q + t0) + bits w 0 5 → tgetD 0 t.eng.vreg k = tgetD 0 s.eng.vreg k) ∧
      t.thread q 4 t0 = some (inProgress op w th) ∧
      t = { s with eng := { s.eng with vreg := t.eng.vreg }, ctl := { rotated q 4 t0 w s with threads := t.ctl.threads } } := by
  obtain ⟨g, hexec, hg⟩ := hc s q t0 w th h hty hkind
  rw [toVd_begun] at hexec
  refine ⟨_, hexec, fun n hn => ?_, fun k hk => tget_tset_ne _ _ _ hk, thread_setThread _ _ _ _ _, rfl⟩
  refine (congrArg (lane (bits w 20 3) · n) (tget_tset_self (fun _ => 0) s.eng.vreg _ _ hv)).trans ?_
  have hlanes := lane_lanes (begun q 4 t0 w th s) (bare q 4 t0 op w) (s.vreg q t0 (bits w 0 5)) g (n := n)
  rw [bare_ty] at hlanes
  rw [lane_mod hn, hlanes hn, hg]
  simp only [active_begun]

end

/-! ### The fourteen instructions (09 Table 9-7) -/

theorem tyFloat_eq_true {ty : Nat} : tyFloat ty = true ↔ ty ≤ 1 := decide_eq_true_iff

theorem computes_vadd : Computes .vadd 0x44 numTypes fun _ ty a b _ =>
    if ty ≤ 1 then (tyFm ty).fadd a b else toTwos (laneBits ty) (sext (laneBits ty) a + sext (laneBits ty) b) := by
  refine computes_of_run (g := fun x a b _ => vAdd x.ty a b) (fun _ _ _ _ => rfl) (fun _ _ _ => rfl) fun x a b c _ _ _ => ?_
  simp only [vAdd, tyFloat_eq_true, laneInt, intLane]

theorem computes_vsub : Computes .vsub 0x45 numTypes fun _ ty a b _ =>
    if ty ≤ 1 then (tyFm ty).fsub a b else toTwos (laneBits ty) (sext (laneBits ty) a - sext (laneBits ty) b) := by
  refine computes_of_run (g := fun x a b _ => vSub x.ty a b) (fun _ _ _ _ => rfl) (fun _ _ _ => rfl) fun x a b c _ _ _ => ?_
  simp only [vSub, tyFloat_eq_true, laneInt, intLane]

theorem computes_vmul : Computes .vmul 0x46 numTypes fun _ ty a b _ =>
    if ty ≤ 1 then (tyFm ty).fmul a b else toTwos (laneBits ty) (sext (laneBits ty) a * sext (laneBits ty) b) := by
  refine computes_of_run (g := fun x a b _ => vMul x.ty a b) (fun _ _ _ _ => rfl) (fun _ _ _ => rfl) fun x a b c _ _ _ => ?_
  simp only [vMul, tyFloat_eq_true, laneInt, intLane]

theorem computes_vfma : Computes .vfma 0x47 numTypes fun _ ty a b c =>
    if ty ≤ 1 then (tyFm ty).fma a b c else toTwos (laneBits ty) (sext (laneBits ty) a * sext (laneBits ty) b + sext (laneBits ty) c) := by
  refine computes_of_run (g := fun x a b c => vFma x.ty a b c) (fun _ _ _ _ => rfl) (fun _ _ _ => rfl) fun x a b c _ _ _ => ?_
  simp only [vFma, tyFloat_eq_true, laneInt, intLane]

theorem computes_vdiv : Computes .vdiv 0x48 [0, 1] fun _ ty a b _ => (tyFm ty).fdiv a b :=
  computes_of_run (g := fun x a b _ => (tyFm x.ty).fdiv a b) (fun _ _ _ _ => rfl) (fun _ _ _ => rfl) fun _ _ _ _ _ _ _ => rfl

theorem computes_vsqrt : Computes .vsqrt 0x49 [0, 1] fun _ ty a _ _ => (tyFm ty).fsqrt a :=
  computes_of_run (g := fun x a _ _ => (tyFm x.ty).fsqrt a) (fun _ _ _ _ => rfl) (fun _ _ _ => rfl) fun _ _ _ _ _ _ _ => rfl

/-- The larger or smaller of two integers. -/
theorem vMax_of_int {ty : Nat} (h : ¬ ty ≤ 1) (smaller : Bool) (a b : Nat) : vMax ty smaller a b =
    if sext (laneBits ty) a < sext (laneBits ty) b then (if smaller then a else b) else (if smaller then b else a) := by
  rw [vMax, if_neg (tyFloat_eq_true.not.2 h), laneInt, laneInt]
  by_cases hlt : sext (laneBits ty) a < sext (laneBits ty) b <;> cases smaller <;> simp [hlt]

theorem computes_vmax : Computes .vmax 0x4a numTypes fun _ ty a b _ =>
    if ty ≤ 1 then vMax ty false a b else if sext (laneBits ty) a < sext (laneBits ty) b then b else a := by
  refine computes_of_run (g := fun x a b _ => vMax x.ty false a b) (fun _ _ _ _ => rfl) (fun _ _ _ => rfl) fun x a b c _ _ _ => ?_
  split
  · rfl
  · rename_i hty
    rw [vMax_of_int hty]
    rfl

theorem computes_vmin : Computes .vmin 0x4b numTypes fun _ ty a b _ =>
    if ty ≤ 1 then vMax ty true a b else if sext (laneBits ty) a < sext (laneBits ty) b then a else b := by
  refine computes_of_run (g := fun x a b _ => vMax x.ty true a b) (fun _ _ _ _ => rfl) (fun _ _ _ => rfl) fun x a b c _ _ _ => ?_
  split
  · rfl
  · rename_i hty
    rw [vMax_of_int hty]
    rfl

theorem computes_vexp : Computes .vexp 0x4c [0] fun _ _ a _ _ => vpExp a :=
  computes_of_run (g := fun _ a _ _ => vpExp a) (fun _ _ _ _ => rfl) (fun _ _ _ => rfl) fun _ _ _ _ _ _ _ => rfl

theorem computes_vtanh : Computes .vtanh 0x4d [0] fun _ _ a _ _ => vpTanh a :=
  computes_of_run (g := fun _ a _ _ => vpTanh a) (fun _ _ _ _ => rfl) (fun _ _ _ => rfl) fun _ _ _ _ _ _ _ => rfl

/-- In form, IMM has only the bits that the opcode uses. -/
theorem imm_lt_of_formOk {op : Nat} (hop : op = 0x50 ∨ op = 0x51) {x : Iss} (h : formOk op x.o = true) : x.imm < 2 ^ (vecUse op).imm := by
  have hshape : ∃ a b c d e : Bool, (a && decide (x.imm < 2 ^ (vecUse op).imm) && b && c && d && e) = true := by
    rcases hop with rfl | rfl
    · exact ⟨_, _, _, _, _, h⟩
    · exact ⟨_, _, _, _, _, h⟩
  obtain ⟨a, b, c, d, e, hand⟩ := hshape
  simp only [Bool.and_eq_true, decide_eq_true_eq] at hand
  obtain ⟨⟨⟨⟨⟨-, himm⟩, -⟩, -⟩, -⟩, -⟩ := hand
  exact himm

theorem computes_vlog : Computes .vlog 0x50 anyType fun k ty a b _ =>
    if k = 0 then a &&& b else if k = 1 then a ||| b else if k = 2 then a ^^^ b else a &&& (2 ^ laneBits ty - 1 - b) := by
  refine computes_of_run (g := fun x a b _ => vLog (x.imm % 4) (laneBits x.ty) a b) (fun _ _ _ _ => rfl) (fun _ _ _ => rfl)
    fun x a b c hform _ hb => ?_
  have himm : x.imm < 4 := imm_lt_of_formOk (.inl rfl) hform
  rw [Nat.mod_eq_of_lt himm]
  generalize x.imm = k at himm
  interval_cases k
  · rfl
  · rfl
  · rfl
  · simp [vLog, Nat.mod_eq_of_lt hb]

theorem computes_vshift : Computes .vshift 0x51 [2, 3] fun k ty a _ _ => if k / 128 = 0 then a * 2 ^ (k % 128) else
    if k / 128 = 1 then a / 2 ^ (k % 128) else toTwos (laneBits ty) (sext (laneBits ty) a / 2 ^ (k % 128)) := by
  refine computes_of_run (g := fun x a _ _ => vShift x.ty (bits x.imm 7 2) (bits x.imm 0 7) a) (fun _ _ _ _ => rfl) (fun s x hkind => ?_)
    fun x a b c hform _ _ => ?_
  · have hbits : bits x.imm 7 2 = bits x.o 39 2 := bits_bits_add (by decide) x.o 32
    dsimp only
    rw [if_neg (hbits ▸ hkind rfl)]
  · have himm : x.imm < 512 := imm_lt_of_formOk (.inr rfl) hform
    have hcount : bits x.imm 0 7 = x.imm % 128 := rfl
    have hkind : bits x.imm 7 2 = x.imm / 128 := by
      rw [bits, Nat.shiftRight_eq_div_pow]
      omega
    rw [hcount, hkind]
    have hlt : x.imm / 128 < 4 := by omega
    generalize x.imm / 128 = k at hlt
    interval_cases k
    · exact Nat.mod_mod _ _
    · rfl
    · rfl
    · rfl

theorem computes_wadd : Computes .wadd 0x53 [4] fun _ _ a b _ => (w128Add (BitVec.ofNat 128 a) (BitVec.ofNat 128 b)).toNat :=
  computes_of_run (g := fun _ a b _ => (w128Add (BitVec.ofNat 128 a) (BitVec.ofNat 128 b)).toNat) (fun _ _ _ _ => rfl) (fun _ _ _ => rfl)
    fun _ _ _ _ _ _ _ => rfl

theorem computes_vimm : Computes .vimm 0x56 numTypes fun k ty _ _ _ => if laneBits ty = 64 then toTwos 64 (sext 32 k) else k :=
  computes_of_run (g := fun x _ _ _ => if laneBits x.ty = 64 then toTwos 64 (sext 32 x.imm) else x.imm) (fun _ _ _ _ => rfl)
    (fun _ _ _ => rfl) fun _ _ _ _ _ _ _ => rfl

/-! ### A TYPE that an instruction does not take, and a parity error (09 R194, 17 Table 17-3) -/

/-- An event that raises and aborts changes neither registers of the processor nor memory. -/
structure RaisedAlone (q code : Nat) (data : List Byte) (s t : State) : Prop where
  raised : Raised (s.quadLog q) (srcUnit q 4) code data s t
  eng : t.eng = s.eng
  mem : t.mem = s.mem

section
variable {s : State} {q t0 op w : Nat} {th : Thread}

theorem raisedAlone_fault {code : Nat} (h : causeOf code = none) :
    RaisedAlone q code [] s ((begun q 4 t0 w th s).fault (bare q 4 t0 op w) code) := by
  have hfault := faulted_fault h (begun q 4 t0 w th s) (bare q 4 t0 op w)
  exact ⟨hfault.raised, hfault.eng, hfault.mem⟩

/-- A first parity error of the vector processor. -/
theorem raisedAlone_unitErr (h : withinDay s.pwr.parity (srcUnit q 4) s.svcTime = false) : RaisedAlone q 0x0B0A (leBytes 2 q) s (s.unitErr q 4) := by
  have hfault := faulted_quadFault (code := 0x0B0A) (by decide)
    { s with pwr := { s.pwr with parity := tins (srcUnit q 4) s.svcTime s.pwr.parity } } q (srcUnit q 4) (leBytes 2 q)
  have hunit : s.unitErr q 4 =
      ({ s with pwr := { s.pwr with parity := tins (srcUnit q 4) s.svcTime s.pwr.parity } } : State).quadFault q (srcUnit q 4) 0x0B0A (leBytes 2 q) := by
    rw [State.unitErr, if_pos rfl, State.unitParity]
    dsimp only
    rw [h]
    rfl
  rw [hunit]
  exact ⟨hfault.raised, hfault.eng, hfault.mem⟩

theorem issue_parity (h : Issues q 4 t0 op w th s) (run : State → Iss → Option State) : s.issue q 4 t0 .parity op run = s.unitErr q 4 := by
  obtain ⟨⟨⟨hth, hdry, hword, hon, hop, hclass, hruns, hthr, hform⟩, -⟩, -⟩ := h
  simp [State.issue, hth, hdry, hword, hon, hop, hclass, hruns, hthr, hform]

end

section
variable {c : Nat → Nat → Nat → UnitErr → Instr} {op : Nat} {types : List Nat} {run : State → Iss → Option State}
  {s : State} {q t0 w : Nat} {th : Thread}

theorem exec_badType (hc : RunsAs c op types run) (h : Issues q 4 t0 op w th s) (hty : bits w 20 3 ∉ types) :
    ∃ t : State, exec (c q 4 t0 .good) s = .next t ∧ RaisedAlone q 0x030C [] s t := by
  refine ⟨_, ?_, raisedAlone_fault (t0 := t0) (op := op) (w := w) (th := th) (by decide)⟩
  rw [exec_vec hc h, if_neg (fun hm => hty (List.contains_iff_mem.1 hm)), Option.getD_some]

theorem exec_parity (hc : RunsAs c op types run) (h : Issues q 4 t0 op w th s)
    (hday : withinDay s.pwr.parity (srcUnit q 4) s.svcTime = false) :
    ∃ t : State, exec (c q 4 t0 .parity) s = .next t ∧ RaisedAlone q 0x0B0A (leBytes 2 q) s t := by
  refine ⟨_, ?_, raisedAlone_unitErr hday⟩
  rw [hc, State.vec, issue_parity h]

/-- VSHIFT of kind 3 is ILLEGAL. -/
theorem exec_vshift_illegal (h : Issues q 4 t0 0x51 w th s) (hty : bits w 20 3 = 2 ∨ bits w 20 3 = 3) (hkind : bits w 39 2 = 3) :
    ∃ t : State, exec (.vshift q 4 t0 .good) s = .next t ∧ RaisedAlone q 0x0301 [] s t := by
  have hbits : bits (bare q 4 t0 0x51 w).imm 7 2 = 3 := by rw [bare_imm, bits_bits_add (by decide), hkind]
  have hmem : bits w 20 3 ∈ [2, 3] := by simpa using hty
  refine ⟨_, ?_, raisedAlone_fault (t0 := t0) (op := 0x51) (w := w) (th := th) (by decide)⟩
  rw [exec_vec (fun _ _ _ _ => rfl) h, if_pos (List.contains_iff_mem.2 hmem)]
  dsimp only
  rw [if_pos hbits, Option.getD_some]

end

end Sys2Proof.Proofs.LanesOfTheVectorProcessor

section

open Sys2Proof Sys2Proof.Machine Sys2Proof.Safety Sys2Proof.Proofs.LanesOfTheVectorProcessor

/-- Settles O39. Each of the fourteen instructions computes its lanes (`Computes`), whose registers `exec_of_computes` gives; each of the
23 runs under its list of types (`RunsAs`), and outside it, as with a parity error, only an event is raised. -/
theorem lanesOfTheVectorProcessor : Obligations.LanesOfTheVectorProcessor := by
  unfold Obligations.LanesOfTheVectorProcessor
  refine ⟨?_, ?_, ?_⟩
  · intro c op types f hmem s q t0 w ty th h hty hin hkind hv
    have hc : Computes c op types f := by
      simp only [List.mem_cons, Prod.mk.injEq, List.not_mem_nil, or_false] at hmem
      rcases hmem with ⟨rfl, rfl, rfl, rfl⟩ | ⟨rfl, rfl, rfl, rfl⟩ | ⟨rfl, rfl, rfl, rfl⟩ | ⟨rfl, rfl, rfl, rfl⟩ | ⟨rfl, rfl, rfl, rfl⟩ |
        ⟨rfl, rfl, rfl, rfl⟩ | ⟨rfl, rfl, rfl, rfl⟩ | ⟨rfl, rfl, rfl, rfl⟩ | ⟨rfl, rfl, rfl, rfl⟩ | ⟨rfl, rfl, rfl, rfl⟩ |
        ⟨rfl, rfl, rfl, rfl⟩ | ⟨rfl, rfl, rfl, rfl⟩ | ⟨rfl, rfl, rfl, rfl⟩ | ⟨rfl, rfl, rfl, rfl⟩
      exacts [computes_vadd, computes_vsub, computes_vmul, computes_vfma, computes_vdiv, computes_vsqrt, computes_vmax, computes_vmin,
        computes_vexp, computes_vtanh, computes_vlog, computes_vshift, computes_wadd, computes_vimm]
    subst hty
    exact exec_of_computes hc h hin hkind hv
  · intro c op types hmem s q t0 w th hr hq hi h
    have hc : ∃ run, RunsAs c op types run := by
      simp only [List.mem_cons, Prod.mk.injEq, List.not_mem_nil, or_false] at hmem
      rcases hmem with ⟨rfl, rfl, rfl⟩ | ⟨rfl, rfl, rfl⟩ | ⟨rfl, rfl, rfl⟩ | ⟨rfl, rfl, rfl⟩ | ⟨rfl, rfl, rfl⟩ | ⟨rfl, rfl, rfl⟩ |
        ⟨rfl, rfl, rfl⟩ | ⟨rfl, rfl, rfl⟩ | ⟨rfl, rfl, rfl⟩ | ⟨rfl, rfl, rfl⟩ | ⟨rfl, rfl, rfl⟩ | ⟨rfl, rfl, rfl⟩ | ⟨rfl, rfl, rfl⟩ |
        ⟨rfl, rfl, rfl⟩ | ⟨rfl, rfl, rfl⟩ | ⟨rfl, rfl, rfl⟩ | ⟨rfl, rfl, rfl⟩ | ⟨rfl, rfl, rfl⟩ | ⟨rfl, rfl, rfl⟩ | ⟨rfl, rfl, rfl⟩ |
        ⟨rfl, rfl, rfl⟩ | ⟨rfl, rfl, rfl⟩ | ⟨rfl, rfl, rfl⟩
      all_goals exact ⟨_, fun _ _ _ _ => rfl⟩
    obtain ⟨run, hrun⟩ := hc
    refine ⟨fun hty => ?_, fun hday => ?_⟩
    · obtain ⟨t, hexec, halone⟩ := exec_badType hrun h hty
      exact ⟨t, hexec, halone.raised, halone.eng, halone.mem⟩
    · obtain ⟨t, hexec, halone⟩ := exec_parity hrun h hday
      exact ⟨t, hexec, halone.raised, halone.eng, halone.mem⟩
  · intro s q t0 w th hr hq hi h hty hkind
    obtain ⟨t, hexec, halone⟩ := exec_vshift_illegal h hty hkind
    exact ⟨t, hexec, halone.raised, halone.eng, halone.mem⟩

end

/-! Proof of O50. An abort writes the role epochs in one step, and nothing that it does before or after touches the epoch of any instance
or quad: `KeepsEpochs` says so, operation by operation. -/

namespace Sys2Proof.Proofs.EveryAbortAdvancesTheEpoch

open Sys2Proof Sys2Proof.Machine Sys2Proof.Safety

/-! ### The role epochs -/

/-- The offsets of the SCH_INST and SCH_QUAD registers, whose low 16 bits are role epochs. -/
abbrev EpochAt (o : Nat) : Prop := 0x40100 ≤ o ∧ o < 0x40A80

/-- The role epoch at offset `o`. -/
def epochOfReg (o : Nat) (s : State) : Nat := bits (tget regRstAt s.regs o).toNat 0 16

theorem epochOfReg_schInst (i : Nat) (s : State) : epochOfReg (regOff (.schInst i)) s = s.fld (.schInst i) SCH_INST_EPOCH := rfl

theorem epochOfReg_schQuad (q : Nat) (s : State) : epochOfReg (regOff (.schQuad q)) s = s.fld (.schQuad q) SCH_QUAD_EPOCH := rfl

theorem epochOfReg_setFld_ne (s : State) {r : Reg} {o : Nat} (h : o ≠ regOff r) (f : Fld) (v : Nat) :
    epochOfReg o (s.setFld r f v) = epochOfReg o s := by
  rw [epochOfReg, State.tget_setFld_ne _ _ _ _ _ h, epochOfReg]

/-- No role epoch differs from `s` to `t`, and the table of registers stays in canonical form. -/
structure KeepsEpochs (s t : State) : Prop where
  ok : RegsOk s → RegsOk t
  epochs : RegsOk s → ∀ o, EpochAt o → epochOfReg o t = epochOfReg o s

section
variable {s t u : State}

theorem KeepsEpochs.of_regs (h : t.regs = s.regs) : KeepsEpochs s t where
  ok hs := by rwa [RegsOk, h]
  epochs _ o _ := by rw [epochOfReg, h, epochOfReg]

theorem KeepsEpochs.refl (s : State) : KeepsEpochs s s := .of_regs rfl

theorem KeepsEpochs.trans (h : KeepsEpochs s t) (h' : KeepsEpochs t u) : KeepsEpochs s u where
  ok hs := h'.ok (h.ok hs)
  epochs hs o ho := (h'.epochs (h.ok hs) o ho).trans (h.epochs hs o ho)

/-- `trans`, from the last step back. -/
theorem KeepsEpochs.after (h' : KeepsEpochs t u) (h : KeepsEpochs s t) : KeepsEpochs s u := h.trans h'

/-- What keeps the epochs, and then other parts than the registers change. -/
theorem KeepsEpochs.then (h : KeepsEpochs s t) (hu : u.regs = t.regs) : KeepsEpochs s u := h.trans (.of_regs hu)

theorem KeepsEpochs.ite {c : Prop} [Decidable c] (ht : c → KeepsEpochs s t) (hu : ¬ c → KeepsEpochs s u) : KeepsEpochs s (if c then t else u) := by
  split
  · exact ht ‹_›
  · exact hu ‹_›

theorem KeepsEpochs.foldl {α : Type} {f : State → α → State} {l : List α} (hf : ∀ s, ∀ x ∈ l, KeepsEpochs s (f s x)) :
    KeepsEpochs s (l.foldl f s) := by
  induction l generalizing s with
  | nil => exact .refl s
  | cons x l ih => exact (hf s x (by simp)).trans (ih fun s y hy => hf s y (by simp [hy]))

end

/-- A field that is no role epoch: above the low 16 bits, or of another register. -/
abbrev NoEpoch (r : Reg) (f : Fld) : Prop := ¬ EpochAt (regOff r) ∨ (16 ≤ f.lo ∧ f.lo + f.w ≤ 64)

theorem keepsEpochs_setFld {r : Reg} {f : Fld} (h : NoEpoch r f) (s : State) (v : Nat) : KeepsEpochs s (s.setFld r f v) where
  ok hs := s.regsOk_setFld _ _ _ hs
  epochs hs o ho := by
    by_cases hne : o = regOff r
    · rcases h with hr | ⟨hlo, htop⟩
      · exact absurd (hne ▸ ho) hr
      · subst hne
        exact State.fld_setFld_fld s r f SCH_INST_EPOCH v hs htop (Or.inl hlo)
    · exact epochOfReg_setFld_ne s hne f v

theorem keepsEpochs_incFld {r : Reg} {f : Fld} (h : NoEpoch r f) (s : State) (n : Nat) : KeepsEpochs s (s.incFld r f n) :=
  keepsEpochs_setFld h s _

/-- A register beyond the schedule's, or before them, holds no role epoch. -/
theorem noEpoch_of_above {r : Reg} (h : 0x40A80 ≤ regOff r) (f : Fld) : NoEpoch r f := .inl fun ho => by omega

theorem noEpoch_of_below {r : Reg} (h : regOff r < 0x40100) (f : Fld) : NoEpoch r f := .inl fun ho => by omega

/-! ### Events and semaphores -/

theorem keepsEpochs_raise (s : State) (log src code : Nat) (data : List Byte) : KeepsEpochs s (s.raise log src code data) := by
  unfold State.raise
  dsimp only
  split
  · rename_i c _
    unfold State.setCause State.owe
    refine .trans (.of_regs (State.raiseRec_regs ..)) (.ite (fun _ => .refl _) fun _ => ?_)
    exact (keepsEpochs_setFld (noEpoch_of_below (by decide) _) _ _).trans (.ite (fun _ => .of_regs rfl) fun _ => .refl _)
  · exact .of_regs (State.raiseRec_regs ..)

theorem keepsEpochs_startAbort (s : State) (i cause : Nat) : KeepsEpochs s (s.startAbort i cause) :=
  .ite (fun _ => (keepsEpochs_setFld (.inr ⟨by decide, by decide⟩) s 1).then rfl) fun _ => .refl s

theorem keepsEpochs_quadFault (s : State) (q src code : Nat) (data : List Byte) : KeepsEpochs s (s.quadFault q src code data) := by
  unfold State.quadFault
  dsimp only
  split
  · exact (keepsEpochs_raise ..).trans (keepsEpochs_startAbort ..)
  · exact keepsEpochs_raise ..

theorem keepsEpochs_setSem (s : State) (q j v : Nat) : KeepsEpochs s (s.setSem q j v) :=
  keepsEpochs_setFld (noEpoch_of_above (by simp only [semReg, regOff]; omega) _) s v

theorem keepsEpochs_addSem (s : State) (q j n src : Nat) : KeepsEpochs s (s.addSem q j n src) :=
  .ite (fun _ => keepsEpochs_setSem ..) fun _ => (keepsEpochs_setSem ..).trans (keepsEpochs_quadFault ..)

theorem keepsEpochs_askWake (s : State) (q : Nat) : KeepsEpochs s (s.askWake q) :=
  .ite (fun _ => (keepsEpochs_setFld (noEpoch_of_above (by simp only [regOff]; omega) _) s 1).then rfl) fun _ => .refl s

theorem keepsEpochs_signal (s : State) (q j n src : Nat) : KeepsEpochs s (s.signal q j n src) :=
  (keepsEpochs_askWake ..).trans (keepsEpochs_addSem ..)

/-! ### Messages to other modules -/

theorem keepsEpochs_route (s : State) (m : Msg) (alt : Bool) : KeepsEpochs s (s.route m alt).1 := by
  have hset : KeepsEpochs s (s.setFld (.abRoute (m.dst % 4096)) AB_ROUTE_ONALT 1) := keepsEpochs_setFld (.inr ⟨by decide, by decide⟩) s 1
  unfold State.route
  dsimp only
  split
  · exact .refl s
  · generalize (if alt = true ∧ s.usable (s.fld (.abRoute (m.dst % 4096)) AB_ROUTE_ALT) ≠ [] then [] else _) = c
    split
    · exact .refl s
    · split
      · exact hset
      · exact hset

theorem regs_portSend (s : State) (p : Nat) (m : Msg) : (s.portSend p m).regs = s.regs := by
  unfold State.portSend
  dsimp only
  split
  · rfl
  · rfl

theorem keepsEpochs_sendMsg (s : State) (m : Msg) (alt : Bool) : KeepsEpochs s (s.sendMsg m alt).1 := by
  have hroute := keepsEpochs_route s m alt
  unfold State.sendMsg
  split
  · rename_i heq
    rwa [heq] at hroute
  · rename_i heq
    rw [heq] at hroute
    split
    · exact hroute
    · exact hroute.then (regs_portSend ..)

theorem keepsEpochs_post (s : State) (m : Msg) : KeepsEpochs s (s.post m) :=
  .ite (fun _ => keepsEpochs_sendMsg ..) fun _ => .refl s

theorem keepsEpochs_sendAborts (s : State) (i : Nat) (except_ : Option Nat) : KeepsEpochs s (s.sendAborts i except_) :=
  .foldl fun _ _ _ => .ite (fun _ => .foldl fun _ _ _ => keepsEpochs_post ..) fun _ => .refl _

theorem keepsEpochs_ackHeld (s : State) (held : List HeldAdd) : KeepsEpochs s (s.ackHeld held) := by
  refine .foldl fun s h _ => ?_
  unfold State.ackTo
  split
  · exact .refl s
  · exact keepsEpochs_sendMsg ..
  · exact .of_regs rfl

/-! ### Streams and bank commands -/

theorem regs_mapGate (s : State) (m : Nat) (f : Gate → Gate) : (s.mapGate m f).regs = s.regs := by
  unfold State.mapGate State.mapModel
  split
  · rfl
  · rfl

theorem keepsEpochs_streamGone (s : State) (n : Nat) : KeepsEpochs s (s.streamGone n) :=
  .foldl fun _ _ _ => .of_regs (regs_mapGate ..)

theorem noEpoch_frySwait (n : Nat) (f : Fld) : NoEpoch (.frySwait n) f := noEpoch_of_above (by simp only [regOff]; omega) f

theorem keepsEpochs_fryWait (s : State) (n cause : Nat) : KeepsEpochs s (s.fryWait n cause) :=
  .ite (fun _ => .refl s) fun _ => (keepsEpochs_setFld (noEpoch_frySwait ..) ..).trans (keepsEpochs_setFld (noEpoch_frySwait ..) ..)

theorem keepsEpochs_dropStreams (s : State) (q : Nat) : KeepsEpochs s (s.dropStreams q) :=
  .foldl fun _ _ _ => .after (keepsEpochs_streamGone ..) (.after (keepsEpochs_fryWait ..) (.of_regs rfl))

/-- The commands of a bank that an abort discards end without an event. -/
theorem keepsEpochs_nbuDiscard (s : State) (g : Nat) : KeepsEpochs s (s.nbuDiscard g) := by
  unfold State.nbuDiscard
  dsimp only
  exact .after (.foldl fun _ _ _ => .of_regs rfl) (.of_regs rfl)

theorem keepsEpochs_startScans (s : State) (g : Nat) : KeepsEpochs s (s.startScans g) := by
  unfold State.startScans
  split
  · exact .refl s
  · refine .ite (fun _ => .refl s) fun _ => ?_
    dsimp only
    refine .after (.foldl fun _ _ _ => .of_regs rfl) (.after (.foldl fun s x _ => ?_) (.of_regs rfl))
    split
    · exact .of_regs rfl
    · exact .refl s

theorem keepsEpochs_feedBank (s : State) (g n : Nat) : KeepsEpochs s (State.feedBank g n s) := by
  induction n generalizing s with
  | zero => exact .refl s
  | succ n ih =>
    unfold State.feedBank
    refine (keepsEpochs_startScans s g).trans ?_
    dsimp only
    split
    · exact .ite (fun _ => .refl _) fun _ => .after (ih _) (.of_regs rfl)
    · exact .refl _

theorem keepsEpochs_abortBanks (s : State) (q : Nat) : KeepsEpochs s (s.abortBanks q) := by
  unfold State.abortBanks State.abortMaster
  dsimp only
  exact .after (.foldl fun _ _ _ => .after (keepsEpochs_feedBank ..) (keepsEpochs_nbuDiscard ..)) (.of_regs rfl)

theorem regs_breakMoor (src : Nat) (s : State) (dm : Nat × Nat) : (breakMoor src s dm).regs = s.regs := by
  unfold breakMoor
  dsimp only
  split
  · rfl
  · rfl

theorem keepsEpochs_sweepSource (s : State) (src : Nat) : KeepsEpochs s (s.sweepSource src) := by
  unfold State.sweepSource
  dsimp only
  exact .after (.foldl fun _ _ _ => .of_regs (regs_breakMoor ..)) (.of_regs rfl)

theorem keepsEpochs_sweepQuad (s : State) (q : Nat) : KeepsEpochs s (s.sweepQuad q) :=
  .after (.foldl fun _ _ _ => keepsEpochs_sweepSource ..) (.of_regs rfl)

/-! ### The quads' units and plan -/

theorem keepsEpochs_loadSems (s : State) (q : Nat) (vs : List Nat) : KeepsEpochs s (s.loadSems q vs) :=
  .foldl fun _ _ _ => keepsEpochs_setSem ..

theorem keepsEpochs_restartThreads (s : State) (q : Nat) : KeepsEpochs s (s.restartThreads q) := by
  refine .foldl fun s k _ => .ite (fun _ => ?_) fun _ => .refl _
  split
  · exact .of_regs rfl
  · exact .refl s

theorem noEpoch_xuBound {q : Nat} (hq : q < 80) (f : Fld) : NoEpoch (.xuBound q) f := noEpoch_of_below (by simp only [regOff]; omega) f

theorem keepsEpochs_showBound {q : Nat} (hq : q < 80) (s : State) (k : Nat) (active : Bool) (hits : List (Nat × Nat)) :
    KeepsEpochs s (s.showBound q k active hits) :=
  .after (keepsEpochs_setFld (noEpoch_xuBound hq _) ..) (.after (keepsEpochs_setFld (noEpoch_xuBound hq _) ..)
    (.after (keepsEpochs_setFld (noEpoch_xuBound hq _) ..) (keepsEpochs_setFld (noEpoch_xuBound hq _) ..)))

theorem keepsEpochs_clearSel {q : Nat} (hq : q < 80) (s : State) : KeepsEpochs s (s.clearSel q) :=
  .after (keepsEpochs_showBound hq ..) (.after (t := (List.range 8).foldl (fun s k => s.setSlot q k none) s)
    (.of_regs (State.setXu_regs ..)) (.foldl fun _ _ _ => .of_regs (State.setSlot_regs ..)))

theorem keepsEpochs_reloadQuad (s : State) (v : Inst) (q : Nat) : KeepsEpochs s (s.reloadQuad v q) := by
  unfold State.reloadQuad
  dsimp only
  exact .ite (fun _ => .refl s) fun _ => .foldl fun _ _ _ => .ite (fun _ => .of_regs (State.wr_regs ..)) fun _ => .refl _

/-! ### The step of a training plan -/

theorem noEpoch_cvt (k : Nat) (f : Fld) : NoEpoch (cvtStat k) f ∧ NoEpoch (cvtWin k) f := by
  unfold cvtStat cvtWin
  split
  · exact ⟨noEpoch_of_below (by simp only [regOff]; omega) f, noEpoch_of_below (by simp only [regOff]; omega) f⟩
  · exact ⟨noEpoch_of_above (by simp only [regOff]; omega) f, noEpoch_of_above (by simp only [regOff]; omega) f⟩

theorem keepsEpochs_count (s : State) (k log src : Nat) (c : Cnt) : KeepsEpochs s (s.count k log src c) := by
  have hstat (s : State) (f : Fld) (n : Nat) := keepsEpochs_incFld (noEpoch_cvt k f).1 s n
  unfold State.count
  refine .ite (fun _ => .refl s) fun _ => ?_
  dsimp only
  refine .after (t := State.setFld _ _ _ _) (.ite (fun _ => ?_) fun _ => .refl _)
    (.after (keepsEpochs_setFld (noEpoch_cvt k _).2 ..) (.after (hstat ..) (.after (hstat ..) (hstat ..))))
  exact .then (.after (keepsEpochs_setFld (noEpoch_cvt k _).1 ..) (hstat ..)) (State.raiseRec_regs ..)

theorem keepsEpochs_program (s : State) (n : Nat) : KeepsEpochs s (s.program n) := by
  unfold State.program
  dsimp only
  generalize (s.tier.programmed + n) * 100 / _ = wear
  have hwear (s : State) : KeepsEpochs s (s.setFld .flStat FL_STAT_WEAR (min wear 0xFF)) :=
    keepsEpochs_setFld (noEpoch_of_above (by decide) _) ..
  split
  · refine .after (keepsEpochs_raise ..) ?_
    refine .then (t := State.setFld _ _ _ _) (.after (hwear _) ?_) rfl
    exact .of_regs rfl
  · refine .after (hwear _) (.of_regs rfl)

theorem regs_mapTable (s : State) (m k : Nat) (f : Table → Table) : (s.mapTable m k f).regs = s.regs := rfl

theorem keepsEpochs_demoteWay (s : State) (m k way : Nat) : KeepsEpochs s (s.demoteWay m k way) := by
  unfold State.demoteWay
  split
  · exact .refl s
  · split
    · exact .refl s
    · dsimp only
      exact .after (keepsEpochs_program ..) (.after (keepsEpochs_count ..) (.of_regs (regs_mapTable ..)))

theorem keepsEpochs_demoteQueue (s : State) (t : Table) : KeepsEpochs s (s.demoteQueue t) := by
  unfold State.demoteQueue
  dsimp only
  refine .then (.foldl fun s row _ => ?_) rfl
  split
  · exact keepsEpochs_demoteWay ..
  · exact .refl s

theorem regs_runStage (s : State) (m : Nat) (g : Stage) : (s.runStage m g).regs = s.regs := by
  unfold State.runStage
  dsimp only
  rw [apply_ite State.regs, regs_mapGate, ite_self]
  split
  · split
    · rfl
    · rfl
  · rfl

theorem noEpoch_mdl (m : Nat) (f : Fld) : NoEpoch (.mdlStep m) f ∧ NoEpoch (.mdlStat m) f :=
  ⟨noEpoch_of_above (by simp only [regOff]; omega) f, noEpoch_of_above (by simp only [regOff]; omega) f⟩

theorem keepsEpochs_runStages (s : State) (m : Nat) (l : List Stage) : KeepsEpochs s (l.foldl (fun s g => s.runStage m g) s) :=
  .foldl fun _ _ _ => .of_regs (regs_runStage ..)

theorem keepsEpochs_windowClose (s : State) (m : Nat) : KeepsEpochs s (s.windowClose m) := by
  unfold State.windowClose
  split
  · exact .refl s
  · refine .ite (fun _ => .refl s) fun _ => ?_
    dsimp only
    refine .after (keepsEpochs_runStages ..) (.after (.ite (fun _ => .of_regs (State.setTowers_regs ..)) fun _ => .refl _) ?_)
    exact .then (.after (keepsEpochs_setFld (noEpoch_mdl m _).2 ..) (.after (keepsEpochs_setFld (noEpoch_mdl m _).1 ..)
      (.foldl fun _ _ _ => keepsEpochs_demoteQueue ..))) (regs_mapGate ..)

theorem keepsEpochs_stopStep (s : State) (m : Nat) : KeepsEpochs s (s.stopStep m) := by
  unfold State.stopStep
  split
  · exact .refl s
  · refine .ite (fun _ => keepsEpochs_windowClose s m) fun _ => .ite (fun _ => ?_) fun _ => .refl s
    exact .after (keepsEpochs_runStages ..) (.after (keepsEpochs_ackHeld ..) (.after (keepsEpochs_setFld (noEpoch_mdl m _).2 ..)
      (.of_regs (regs_mapGate ..))))

theorem keepsEpochs_dropSteps (s : State) (i : Nat) : KeepsEpochs s (s.dropSteps i) :=
  .foldl fun _ _ _ => .ite (fun _ => .of_regs (State.setGst_regs ..)) fun _ => .refl _

/-! ### Tasks -/

theorem regs_mapInst (s : State) (i : Nat) (f : Inst → Inst) : (s.mapInst i f).regs = s.regs := by
  unfold State.mapInst
  split
  · rfl
  · rfl

theorem keepsEpochs_showInflight (s : State) (i : Nat) : KeepsEpochs s (s.showInflight i) := by
  unfold State.showInflight
  split
  · exact keepsEpochs_setFld (.inr ⟨by decide, by decide⟩) ..
  · exact .refl s

theorem noEpoch_spad (d b : Nat) (f : Fld) : NoEpoch (spadReg d b) f ∧ NoEpoch (.spadStat d) f := by
  unfold spadReg
  refine ⟨?_, noEpoch_of_above (by simp only [regOff]; omega) f⟩
  split
  · exact noEpoch_of_above (by simp only [regOff]; omega) f
  · exact noEpoch_of_above (by simp only [regOff]; omega) f

theorem keepsEpochs_wakeBank (s : State) (d b : Nat) : KeepsEpochs s (s.wakeBank d b) :=
  .ite (fun _ => .after (keepsEpochs_incFld (noEpoch_spad d b _).2 ..) (keepsEpochs_setFld (noEpoch_spad d b _).1 ..)) fun _ => .refl s

theorem keepsEpochs_touch (s : State) (a : Nat) : KeepsEpochs s (s.touch a).1 := by
  unfold State.touch
  split
  · rename_i d o _
    unfold State.touchSpad
    dsimp only
    split
    · exact keepsEpochs_wakeBank ..
    · exact keepsEpochs_incFld (noEpoch_spad d 0 _).2 ..
  · exact .refl s

theorem keepsEpochs_writeStart (s : State) (i : Nat) (v : Inst) (t : Task) (restart : Bool) : KeepsEpochs s (s.writeStart i v t restart) := by
  unfold State.writeStart
  dsimp only
  exact .after (keepsEpochs_showInflight ..) (.after (keepsEpochs_signal ..) (.then (keepsEpochs_touch ..) (State.wr_regs ..)))

theorem keepsEpochs_endTask (s : State) (i cmd : Nat) : KeepsEpochs s (s.endTask i cmd) :=
  .after (keepsEpochs_showInflight ..) (.of_regs (regs_mapInst ..))

theorem regs_finish (s : State) (n st sp0 sp1 : Nat) (out : List Byte) : (s.finish n st sp0 sp1 out).regs = s.regs := rfl

/-! ### The new epoch -/

/-- A write of a role epoch is read wherever an epoch has that value, and where it is written. -/
theorem epochOfReg_setFld {s : State} (hs : RegsOk s) {e o : Nat} (r : Reg) {f : Fld} (hlo : f.lo = 0) (hw : f.w = 16)
    (h : o = regOff r ∨ epochOfReg o s = e % 2 ^ 16) : epochOfReg o (s.setFld r f e) = e % 2 ^ 16 := by
  by_cases hne : o = regOff r
  · have hself := State.fld_setFld_self s r f e hs (by omega)
    rw [State.fld, fget, hlo, hw] at hself
    rw [hne]
    exact hself
  · rw [epochOfReg_setFld_ne s hne f e]
    exact h.resolve_left hne

/-- The quads take the epoch, and none that has it loses it. -/
theorem epochOfReg_setQuads (qs : List Nat) {s : State} (hs : RegsOk s) {e o : Nat}
    (h : epochOfReg o s = e % 2 ^ 16 ∨ ∃ q ∈ qs, o = regOff (.schQuad q)) :
    epochOfReg o (qs.foldl (fun s q => s.setFld (.schQuad q) SCH_QUAD_EPOCH e) s) = e % 2 ^ 16 := by
  induction qs generalizing s with
  | nil => exact h.resolve_right (by simp)
  | cons q qs ih =>
    refine ih (s.regsOk_setFld _ _ _ hs) ?_
    rcases h with hhas | ⟨q', hmem, ho⟩
    · exact .inl (epochOfReg_setFld hs _ rfl rfl (.inr hhas))
    · rcases List.mem_cons.1 hmem with rfl | hmem
      · exact .inl (epochOfReg_setFld hs _ rfl rfl (.inl ho))
      · exact .inr ⟨q', hmem, ho⟩

/-- The instance and each of its quads have the epoch `e`. -/
structure HasEpoch (i : Nat) (v : Inst) (e : Nat) (s : State) : Prop where
  inst : epochOfReg (regOff (.schInst i)) s = e % 2 ^ 16
  quads : ∀ q ∈ v.quads, epochOfReg (regOff (.schQuad q)) s = e % 2 ^ 16

theorem hasEpoch_setEpoch {s : State} (hs : RegsOk s) (i : Nat) (v : Inst) (e : Nat) : HasEpoch i v e (s.setEpoch i v e) := by
  have hok : RegsOk (s.setFld (.schInst i) SCH_INST_EPOCH e) := s.regsOk_setFld _ _ _ hs
  exact ⟨epochOfReg_setQuads _ hok (.inl (epochOfReg_setFld hs _ rfl rfl (.inl rfl))), fun q hq => epochOfReg_setQuads _ hok (.inr ⟨q, hq, rfl⟩)⟩

theorem regsOk_setEpoch {s : State} (hs : RegsOk s) (i : Nat) (v : Inst) (e : Nat) : RegsOk (s.setEpoch i v e) := by
  unfold State.setEpoch
  generalize hs' : s.setFld (.schInst i) SCH_INST_EPOCH e = s'
  have hok : RegsOk s' := hs' ▸ s.regsOk_setFld _ _ _ hs
  clear hs'
  induction v.quads generalizing s' with
  | nil => exact hok
  | cons q qs ih => exact ih _ (s'.regsOk_setFld _ _ _ hok)

/-- Where an abort keeps the epochs, it keeps the instance's. -/
theorem HasEpoch.of_keeps {s t : State} {i e : Nat} {v : Inst} (h : HasEpoch i v e s) (hk : KeepsEpochs s t) (hs : RegsOk s) (hi : i < 80)
    (hq : ∀ q ∈ v.quads, q < 80) : HasEpoch i v e t where
  inst := (hk.epochs hs _ (by simp only [EpochAt, regOff]; omega)).trans h.inst
  quads q hm := (hk.epochs hs _ (by have := hq q hm; simp only [EpochAt, regOff]; omega)).trans (h.quads q hm)

/-! ### The abort -/

/-- The epoch after `e`, with 0 skipped (09 R201). -/
def nextEpoch (e : Nat) : Nat := if e + 1 = 65536 then 1 else e + 1

theorem nextEpoch_lt {e : Nat} (h : e < 2 ^ 16) : nextEpoch e < 2 ^ 16 := by
  unfold nextEpoch
  split <;> omega

/-- An abort before the new epoch: its message to the module's partners, and the quads' streams, bank commands and requests. -/
def beforeEpoch (i : Nat) (v : Inst) (s : State) : State :=
  v.quads.foldl (fun s q => ((s.dropStreams q).abortBanks q).sweepQuad q)
    (if s.ctl.aborting.any (fun a => a.inst = i && a.told) then s else s.sendAborts i none)

theorem keepsEpochs_beforeEpoch (i : Nat) (v : Inst) (s : State) : KeepsEpochs s (beforeEpoch i v s) :=
  .after (.foldl fun _ _ _ => .after (keepsEpochs_sweepQuad ..) (.after (keepsEpochs_abortBanks ..) (keepsEpochs_dropStreams ..)))
    (.ite (fun _ => .refl s) fun _ => keepsEpochs_sendAborts ..)

/-- The quads of an instance at their start: semaphores as in the plan, threads at their first instruction, the select units clear. -/
def quadsRestarted (v : Inst) (s : State) : State :=
  (List.range v.quads.length).foldl (fun s k =>
    ((s.loadSems (v.quads.getD k 0) ((v.seminit.drop (256 * k)).take 256)).restartThreads (v.quads.getD k 0)).clearSel (v.quads.getD k 0)) s

theorem keepsEpochs_quadsRestarted {v : Inst} (hq : ∀ q ∈ v.quads, q < 80) (s : State) : KeepsEpochs s (quadsRestarted v s) := by
  refine .foldl fun s k hk => ?_
  have hlt : k < v.quads.length := List.mem_range.1 hk
  have hquad : v.quads.getD k 0 < 80 := by
    rw [List.getD_eq_getElem _ _ hlt]
    exact hq _ (List.getElem_mem hlt)
  exact .after (keepsEpochs_clearSel hquad ..) (.after (keepsEpochs_restartThreads ..) (keepsEpochs_loadSems ..))

/-- The schedules that wait for it are copied again. -/
def quadsReloaded (v : Inst) (s : State) : State :=
  let r := (s.ctl.reload.filter v.quads.contains).foldl (fun s q => s.reloadQuad v q) s
  { r with ctl := { r.ctl with reload := r.ctl.reload.filter fun q => !v.quads.contains q } }

theorem keepsEpochs_quadsReloaded (v : Inst) (s : State) : KeepsEpochs s (quadsReloaded v s) :=
  .then (t := (s.ctl.reload.filter v.quads.contains).foldl (fun s q => s.reloadQuad v q) s) (.foldl fun _ _ _ => keepsEpochs_reloadQuad ..) rfl

/-- The step of a training plan stops, and those of its groups. -/
def stepsStopped (i : Nat) (v : Inst) (s : State) : State := (if v.kind = 2 then s.stopStep v.object else s).dropSteps i

theorem keepsEpochs_stepsStopped (i : Nat) (v : Inst) (s : State) : KeepsEpochs s (stepsStopped i v s) :=
  .after (keepsEpochs_dropSteps ..) (.ite (fun _ => keepsEpochs_stopStep ..) fun _ => .refl s)

/-- A task that had started starts again, or ends with its command. -/
def taskAborted (i cause : Nat) (faulting : Option Nat) (v : Inst) (s : State) (t : Task) : State :=
  let s := s.abortRec i v t (restarts v t faulting) cause
  if restarts v t faulting then
    (s.mapInst i fun v => { v with tasks := mapIf (·.cmd = t.cmd) (fun t => { t with aborts := t.aborts + 1 }) v.tasks }).writeStart i v t true
  else (s.endTask i t.cmd).finish t.cmd stTaskAborted 0 0 []

theorem keepsEpochs_taskAborted (i cause : Nat) (faulting : Option Nat) (v : Inst) (s : State) (t : Task) :
    KeepsEpochs s (taskAborted i cause faulting v s t) := by
  have hrec : KeepsEpochs s (s.abortRec i v t (restarts v t faulting) cause) := keepsEpochs_raise ..
  unfold taskAborted
  dsimp only
  split
  · exact .after (keepsEpochs_writeStart ..) (.then hrec (regs_mapInst ..))
  · exact .then (.after (keepsEpochs_endTask ..) hrec) (regs_finish ..)

/-- The instance no longer aborts. -/
def abortEnded (i : Nat) (s : State) : State :=
  (({ s with ctl := { s.ctl with aborting := s.ctl.aborting.filter (·.inst ≠ i) } } : State).setFld (.schInst i) SCH_INST_ABORTING 0).showInflight i

theorem keepsEpochs_abortEnded (i : Nat) (s : State) : KeepsEpochs s (abortEnded i s) :=
  .after (keepsEpochs_showInflight ..) (.after (keepsEpochs_setFld (.inr ⟨by decide, by decide⟩) ..) (.of_regs rfl))

/-- An abort, step by step. -/
theorem abortNow_eq {s : State} {i : Nat} {v : Inst} (hv : s.inst i = some v) (cause : Nat) (task : Option Nat) :
    s.abortNow i cause task = abortEnded i (v.started.foldl (taskAborted i cause task v) (stepsStopped i v (quadsReloaded v (quadsRestarted v
      (((beforeEpoch i v s).setEpoch i v (nextEpoch ((beforeEpoch i v s).fld (.schInst i) SCH_INST_EPOCH))).incFld (.schInst i)
        SCH_INST_ABORTS 1))))) := by
  rw [State.abortNow, hv]
  rfl

/-- After the new epoch, an abort keeps it. -/
theorem abortNow_keeps {s : State} {i : Nat} {v : Inst} (hv : s.inst i = some v) (hq : ∀ q ∈ v.quads, q < 80) (cause : Nat) (task : Option Nat) :
    KeepsEpochs ((beforeEpoch i v s).setEpoch i v (nextEpoch ((beforeEpoch i v s).fld (.schInst i) SCH_INST_EPOCH))) (s.abortNow i cause task) := by
  rw [abortNow_eq hv]
  exact .after (keepsEpochs_abortEnded ..) (.after (.foldl fun _ _ _ => keepsEpochs_taskAborted ..) (.after (keepsEpochs_stepsStopped ..)
    (.after (keepsEpochs_quadsReloaded ..) (.after (keepsEpochs_quadsRestarted hq _) (keepsEpochs_incFld (.inr ⟨by decide, by decide⟩) ..)))))

/-- The instance and its quads have the next epoch after an abort. -/
theorem hasEpoch_abortNow {s : State} {i : Nat} {v : Inst} (hr : RegsOk s) (hi : i < 80) (hv : s.inst i = some v) (hq : ∀ q ∈ v.quads, q < 80)
    (cause : Nat) (task : Option Nat) :
    HasEpoch i v (nextEpoch (s.fld (.schInst i) SCH_INST_EPOCH)) (s.abortNow i cause task) := by
  have hbefore := keepsEpochs_beforeEpoch i v s
  have hold : (beforeEpoch i v s).fld (.schInst i) SCH_INST_EPOCH = s.fld (.schInst i) SCH_INST_EPOCH :=
    hbefore.epochs hr (regOff (.schInst i)) (by simp only [EpochAt, regOff]; omega)
  have hkeeps := abortNow_keeps hv hq cause task
  rw [hold] at hkeeps
  have hok := hbefore.ok hr
  exact (hasEpoch_setEpoch hok i v _).of_keeps hkeeps (regsOk_setEpoch hok i v _) hi hq

end Sys2Proof.Proofs.EveryAbortAdvancesTheEpoch

section

open Sys2Proof Sys2Proof.Machine Sys2Proof.Safety Sys2Proof.Proofs.EveryAbortAdvancesTheEpoch

/-- Settles O50: the abort's one write of the epochs is read after it, as all that comes before and after keeps them. -/
theorem everyAbortAdvancesTheEpoch : Obligations.EveryAbortAdvancesTheEpoch := by
  unfold Obligations.EveryAbortAdvancesTheEpoch
  intro s i task a v hr hi ha hv hq
  have hhas := hasEpoch_abortNow hr hi hv hq a.cause task
  have hlt : s.fld (.schInst i) SCH_INST_EPOCH < 2 ^ 16 := State.fld_lt _ _ _
  have hinst : (s.abortNow i a.cause task).fld (.schInst i) SCH_INST_EPOCH = nextEpoch (s.fld (.schInst i) SCH_INST_EPOCH) :=
    hhas.inst.trans (Nat.mod_eq_of_lt (nextEpoch_lt hlt))
  refine ⟨s.abortNow i a.cause task, ?_, hinst.trans ?_, fun q hm => ?_⟩
  · refine congrArg Host.Outcome.next ?_
    rw [ha]
  · simp only [nextEpoch, Nat.reduceEqDiff]
  · exact (hhas.quads q hm).trans hhas.inst.symm

end

/-! Refutation of O43. Its clauses on FSTR ask that every bank of the quad's E-die is ON and in no wipe, and nothing of the die itself. A bank
of an E-die that left service refuses all the same (17 Table 17-5), so that an FSTR, whose descriptor lies there (10 R217), ends in ADDR before
the descriptor is looked at. -/

namespace Sys2Proof.Proofs.FerryStreams

open Sys2Proof Sys2Proof.Machine Sys2Proof.Safety
open Sys2Proof.Proofs.TilesDrainSpillReloadAndTransfer (issue_of_issues spadRead_of_dieLost lostDieState reloadThread)
open Sys2Proof.Proofs.SelectUnits (mapThread_pwr taken_pwr)
open Sys2Proof.Proofs.IssueOfInstructions (bare)

/-! ### A quad whose streams run no FSTR -/

/-- None of its ferries has a stream to give a turn. -/
theorem ferryTurns_of_idle {s : State} {f : Nat} (h : ∀ k < 16, s.job (16 * f + k) = none) : s.ferryTurns f = [] := by
  refine List.filter_eq_nil_iff.2 fun n hn => ?_
  obtain ⟨k, -, rfl⟩ := List.mem_map.1 hn
  simp [h _ (Nat.mod_lt _ (by decide : 0 < 16))]

/-- Letting its streams go on changes nothing. -/
theorem pump_of_idle {s : State} {q : Nat} (h : ∀ m < 64, s.job (64 * q + m) = none) (fuel : Nat) : State.pump q fuel s = s := by
  have hturns : (rangeFrom (4 * q) 4).flatMap s.ferryTurns = [] := by
    refine List.flatMap_eq_nil_iff.2 fun f hf => ferryTurns_of_idle fun k hk => ?_
    obtain ⟨i, hi, rfl⟩ := List.mem_map.1 hf
    rw [show 16 * (4 * q + i) + k = 64 * q + (16 * i + k) by omega]
    exact h _ (by have := List.mem_range.1 hi; omega)
  cases fuel with
  | zero => rfl
  | succ fuel => simp [State.pump, hturns]

theorem pumped_of_alone {s : State} {n : Nat} (ha : Alone n s) (hn : (s.stream n).job = none) : s.pumped n = s := by
  have hidle : ∀ m < 64, s.job (64 * (n / 64) + m) = none := by
    intro m hm
    by_cases hmn : 64 * (n / 64) + m = n
    · rw [hmn]
      exact hn
    · exact ha m hm hmn
  rw [State.pumped, pump_of_idle hidle, ite_self]

/-! ### An FSTR there -/

theorem fryWait_pwr (s : State) (n cause : Nat) : (s.fryWait n cause).pwr = s.pwr := by
  unfold State.fryWait
  split
  · rfl
  · rw [State.setFld_pwr, State.setFld_pwr]

/-- Issue on a ferry leaves the E-dies as they are. -/
theorem taken_pwr_of_ferry (s : State) {q u : Nat} (hu : 8 ≤ u ∧ u < 12) (t w : Nat) : (s.taken q u t w).pwr = s.pwr := by
  simp only [State.taken, if_pos hu, fryWait_pwr, mapThread_pwr]
  split
  · exact State.setSem_pwr ..
  · rfl

/-- It raises ADDR, whatever its descriptor. -/
theorem fstr_of_dieLost {s : State} {x : Iss} (hd : x.q / 4 ∈ s.pwr.diesLost) : ∃ v : State, s.fstr x = some (v.fault x 0x0306) := by
  simp only [State.fstr, spadRead_of_dieLost hd _ (show 64 ≠ 0 by decide)]
  exact ⟨_, rfl⟩

theorem exec_fstr_of_dieLost {s : State} {q u t0 w : Nat} {th : Thread} (hd : q / 4 ∈ s.pwr.diesLost) (hu : 8 ≤ u ∧ u < 12)
    (h : Issues q u t0 0x80 w th s) (ha : Alone (16 * (4 * q + (u - 8)) + t0) s)
    (hn : (s.stream (16 * (4 * q + (u - 8)) + t0)).job = none) :
    ∃ v : State, exec (.fstr q u t0 .good) s = .next (v.fault (bare q u t0 0x80 w) 0x0306) := by
  have hdie : q / 4 ∈ (s.taken q u t0 w).pwr.diesLost := by rwa [taken_pwr_of_ferry s hu]
  obtain ⟨v, hv⟩ := fstr_of_dieLost (x := bare q u t0 0x80 w) hdie
  refine ⟨v, congrArg Host.Outcome.next ?_⟩
  rw [pumped_of_alone ha hn, ite_self, issue_of_issues h, hv, Option.getD_some]

/-! ### The counterexample -/

/-- FSTR of the descriptor at the scratchpad's first bytes: thread 0's word. -/
def lostWord : Nat := 0x80 * 2 ^ 120 + 7 * 2 ^ 116

/-- After reset, but E-die 0 has left service, and quad 0 of partition 0 is in use: its first ferry's next word is that FSTR. The
descriptor is all zeros, and out of form with ROWB = 0 (10 Table 10-2). -/
def lostFerryState : State :=
  { lostDieState with
    mem := [(14, 0x70#8), (15, 0x80#8)]
    ctl := { lostDieState.ctl with threads := [(thrKey 0 8 0, some reloadThread)] } }

theorem regsOk_lostFerryState : RegsOk lostFerryState := by decide +kernel

theorem issues_lostFerryState : Issues 0 8 0 0x80 lostWord reloadThread lostFerryState := by decide +kernel

/-- No stream runs an FSTR. -/
theorem job_lostFerryState (n : Nat) : (lostFerryState.stream n).job = none := rfl

/-- The descriptor lies in the first bank, which is partition 0's, as the quad is. -/
theorem unitRange_lostFerryState : lostFerryState.unitRange 0 (spadAt 0 0) 64 = true := by decide +kernel

theorem dOk_lostFerryState : dOk (lostFerryState.rd (spadAt 0 0) 64) 0 = false := by decide +kernel

end Sys2Proof.Proofs.FerryStreams

section

open Sys2Proof Sys2Proof.Machine Sys2Proof.Safety Sys2Proof.Proofs.FerryStreams
open Sys2Proof.Proofs.TilesDrainSpillReloadAndTransfer (reloadThread bankSt_lostDieState)
open Sys2Proof.Proofs.SelectUnits (fault_raised code_eq_of_raised)

/-- Refutes O43: its clause on a descriptor out of form wants FRY_PARAM, with every bank ON and no wipe under way. `lostFerryState` meets
that, but its E-die has left service: the bank refuses the descriptor's bytes (17 Table 17-5), and the FSTR raises ADDR instead. (A die
that is lost gives up its quads with its banks, and then none of its quads issues. The clauses that reach the scratchpad, those on FSTR and
the fallback's flag word, want `q / 4 ∉ s.pwr.diesLost` as a hypothesis.) -/
theorem not_ferryStreams : ¬ Obligations.FerryStreams := by
  unfold Obligations.FerryStreams
  rintro ⟨-, -, hform, -⟩
  obtain ⟨t, hstep, hparam, -⟩ := hform lostFerryState 0 8 0 lostWord 0 reloadThread _ regsOk_lostFerryState (by decide)
    issues_lostFerryState (by decide) (by decide) rfl (by decide) (fun _ _ _ => job_lostFerryState _) (job_lostFerryState _) rfl (by decide)
    unitRange_lostFerryState bankSt_lostDieState rfl dOk_lostFerryState
  obtain ⟨v, hexec⟩ := exec_fstr_of_dieLost (by decide) (by decide) issues_lostFerryState (fun _ _ _ => job_lostFerryState _)
    (job_lostFerryState _)
  obtain rfl := Host.Outcome.next.inj (hexec.symm.trans hstep)
  have hcode : 0x0306 = 0x0401 := code_eq_of_raised (fault_raised v _ (by decide)) hparam
  exact absurd hcode (by decide)

end

/-! Proof of O3, and of O2. Every command's meaning is made of the shared operations of Laws/Keeps*, which keep the canonical form of
memory and registers; `keepsRes_exec` says so of each command, and `keeps_step` of a step: what it does to the queue, the outbox and the
counter of free values comes with it. -/

namespace Sys2Proof.Proofs.CanonicalForm

open Sys2Proof.Machine Sys2Proof.Safety Sys2Proof.Laws

variable {K : Kept} {s : State}

/-- Of a command that chooses between two operations. -/
theorem keepsRes_ite {c : Prop} [Decidable c] {a b : State} (ha : Keeps K a) (hb : Keeps K b) :
    KeepsRes K (.next (if c then a else b)) := .next (.ite (fun _ => ha) fun _ => hb)

/-! ### Commands whose meaning is more than one call -/

theorem keepsRes_instanceAbort {i : Nat} {task : Option Nat} (h : Keeps K s) : KeepsRes K (execInstanceAbort i task s) := by
  refine .next ?_
  split
  · exact keeps_abortNow h
  · exact h

theorem keepsRes_vld {q u t : Nat} {e : UnitErr} (h : Keeps K s) : KeepsRes K (execVld q u t e s) := by
  refine .next (keeps_vec h fun v x h => .ite (fun _ => .some (keeps_fault h)) fun _ => ?_)
  have hread : Keeps K (v.spadRead x.q x.off 256).1 := keeps_spadRead h
  dsimp only
  split
  · exact .some (keeps_fault hread)
  · exact .some (keeps_toVd hread)

theorem keepsRes_vst {q u t : Nat} {e : UnitErr} (h : Keeps K s) : KeepsRes K (execVst q u t e s) := by
  refine .next (keeps_vec h fun v x h => .ite (fun _ => .some (keeps_fault h)) fun _ => ?_)
  have hread : Keeps K (v.spadRead x.q x.off 256).1 := keeps_spadRead h
  dsimp only
  split
  · exact .some (keeps_fault hread)
  · exact .some (keeps_later (keeps_wr hread))

/-! ### Every command, every step -/

theorem keepsRes_exec (c : Instr) (h : Keeps K s) : KeepsRes K (exec c s) := by
  cases c with
  | sqTailDoorbell => exact keepsRes_ite (keeps_sqDoorbell h) h
  | cqHeadDoorbell => exact keepsRes_ite (keeps_cqDoorbell h) h
  | submissionFetch => exact .next (keeps_fetch h)
  | qpError => exact .next (keeps_qpError h)
  | createQp => exact .next (keeps_onCmd h fun _ _ h => keeps_createQp h)
  | deleteQp => exact .next (keeps_onCmd h fun _ _ h => keeps_deleteQp h)
  | getLog => exact .next (keeps_onCmd h fun _ _ h => keeps_getLog h)
  | objCreate => exact .next (keeps_onCmd h fun _ _ h => keeps_objCreate h)
  | objFree => exact .next (keeps_onCmd h fun _ _ h => keeps_objFree h)
  | objMove => exact .next (keeps_onCmd h fun _ _ h => keeps_objMove h)
  | moveTileSwitch => exact .next (keeps_tileSwitch h)
  | objSync => exact .next (keeps_onCmd h fun _ _ h => keeps_objSync h)
  | listPlace => exact .next (keeps_onCmd h fun _ _ h => keeps_listPlace h)
  | collCreate => exact .next (keeps_onCmd h fun _ _ h => keeps_collCreate h)
  | collDrop | insert | upsert | delete | histAppend => exact .next (keeps_onCmd h fun _ _ h => keeps_startWrite h)
  | build => exact .next (keeps_onCmd h fun _ _ h => keeps_buildStart h)
  | buildDone => exact .next (keeps_buildDone h)
  | abandon => exact .next (keeps_onCmd h fun _ _ h => keeps_abandon h)
  | switch => exact .next (keeps_onCmd h fun _ _ h => keeps_switch h)
  | switchTakesEffect => exact keepsRes_ite (keeps_towersEffect h) (keeps_switchColl h)
  | compact => exact .next (keeps_onCmd h fun _ _ h => keeps_compact h)
  | query => exact .next (keeps_onCmd h fun _ _ h => keeps_query h)
  | modelCreate => exact .next (keeps_onCmd h fun _ _ h => keeps_modelCreate h)
  | tableCreate => exact .next (keeps_onCmd h fun _ _ h => keeps_tableCreate h)
  | modelLoad => exact .next (keeps_onCmd h fun _ _ h => keeps_modelLoad h)
  | promote => exact .next (keeps_onCmd h fun _ _ h => keeps_promote h)
  | demote => exact .next (keeps_onCmd h fun _ _ h => keeps_demote h)
  | rangeLockAdmit => exact .next (keeps_lockAdmit h)
  | writeAdmission => exact .next (keeps_admitNow h)
  | writeDurable => exact .next (keeps_durable h)
  | writeApply => exact .next (keeps_applyNext h)
  | destage => exact .next (keeps_destageNext h)
  | deltaAgeTimeout => exact .next (keeps_deltaAge h)
  | foldComplete => exact .next (keeps_foldDone h)
  | cutRelease => exact .next (keeps_cutRelease h)
  | generationRelease => exact .next (keeps_genRelease h)
  | deferred => exact .next (keeps_deferred h)
  | powerLossFlush => exact .next (keeps_powerFlush h)
  | flushSeal => exact .next (keeps_flushSeal h)
  | recovery => exact .next (keeps_recovery h)
  | stagedRestore => exact .next (keeps_stagedRestore h)
  | startRecordWrite => exact keepsRes_ite (keeps_startRecord h) h
  | taskCompletionPost => exact .next (keeps_taskPost h)
  | deadlineTick => exact .next (keeps_deadlineTick h)
  | auditScan => exact .next (keeps_auditScan h)
  | cqInterrupt => exact .next (keeps_cqInterrupt h)
  | msixUnmask => exact keepsRes_ite (keeps_onBus h fun _ h => keeps_wrMsixData h) h
  | bar2Access => exact .next (keeps_bar2 h)
  | qCtlEn | qCtlSreset => exact .next (keeps_wrQctl h)
  | pcieLinkTraining => exact .next (keeps_linkTrain h)
  | doeDiscovery | getVersion | getCapabilities | negotiateAlgorithms | getDigests | getCertificate | challenge | getMeasurements =>
    exact .next (keeps_doeAnswer h)
  | stepWindowRequest => exact .next (keeps_windowRequest h)
  | stepWindowOpen => exact .next (keeps_windowOpen h)
  | stepWindowClose => exact .next (keeps_windowClose h)
  | demotionWindowTimer => exact .next (keeps_demotionTimer h)
  | lookupStageStart => exact .next (keeps_stageStart h)
  | lookupFallbackPoint => exact keepsRes_ite (keeps_fallbackPoint h) h
  | lateRowArrival => exact keepsRes_ite (keeps_lateArrival h) h
  | loadq => exact keepsRes_ite (keeps_loadq h) h
  | setthr => exact keepsRes_ite (keeps_setthr h) h
  | maskt => exact keepsRes_ite (keeps_maskt h) h
  | clause => exact keepsRes_ite (keeps_clauseCmd h) h
  | screen => exact keepsRes_ite (keeps_screen h) h
  | dot => exact keepsRes_ite (keeps_dotCmd h) h
  | abort => exact keepsRes_ite (keeps_nbuAbort h) h
  | nbuStatusPoll => exact keepsRes_ite (keeps_poll h) h
  | tidePass => exact keepsRes_ite (keeps_tidePass h) h
  | skRegionWrite => exact keepsRes_ite (keeps_onBus h fun _ h => keeps_wrSkRegion h) h
  | conversionComplete => exact keepsRes_ite (keeps_convDone h) h
  | stackTemperatureReport => exact keepsRes_ite (keeps_stackTemp h) h
  | bankRefresh | coolantSensorRead => exact keepsRes_ite h h
  | nop => exact .next (keeps_issueNow h fun _ _ h => h)
  | loop => exact .next (keeps_issueNow h fun _ _ h => keeps_loop h)
  | endl => exact .next (keeps_issueNow h fun _ _ h => keeps_endl h)
  | setp => exact .next (keeps_issueNow h fun _ _ h => keeps_setp h)
  | halt => exact .next (keeps_issue h fun _ _ h => keeps_halt h)
  | sset => exact .next (keeps_issueNow h fun _ _ h => keeps_setSem h)
  | sadd => exact .next (keeps_issueNow h fun _ _ h => keeps_sadd h)
  | swait => exact .next (keeps_issue h fun _ _ h => keeps_swait h)
  | sigr => exact .next (keeps_issueNow h fun _ _ h => keeps_sigr h)
  | signalArrival => exact .next (keeps_sigArrival h)
  | flush => exact .next (keeps_issue h fun _ _ h => .some (keeps_flush h))
  | fence => exact .next (keeps_issue h fun _ _ h => .some (keeps_fence h))
  | mma => exact .next (keeps_issue h fun _ _ h => keeps_mma h)
  | mmax => exact .next (keeps_issue h fun _ _ h => keeps_mmax h)
  | drain => exact .next (keeps_issue h fun _ _ h => keeps_drain h)
  | spill => exact .next (keeps_issue h fun _ _ h => keeps_spill h)
  | reload => exact .next (keeps_issue h fun _ _ h => keeps_reload h)
  | xfer => exact .next (keeps_issue h fun _ _ h => keeps_xfer h)
  | srctx => exact .next (keeps_issueNow h fun _ _ h => keeps_srctx h)
  | spareSubstitution => exact .next (keeps_substitute h)
  | spareSelfTest => exact .next (keeps_selfTest h)
  | vld => exact keepsRes_vld h
  | vst => exact keepsRes_vst h
  | vin | vfma | vlog | vimm => exact .next (keeps_vec h fun _ _ h => .some (keeps_toVd h))
  | vout => exact .next (keeps_vec h fun _ _ h => .some (keeps_later (keeps_putStream h)))
  | vadd | vsub | vmul | vdiv | vmax | vmin | wadd => exact .next (keeps_vec2 h)
  | vsqrt | vexp | vtanh => exact .next (keeps_vec1 h)
  | vcmp => exact .next (keeps_vec h fun _ _ h => .ite (fun _ => .some (keeps_fault h)) fun _ =>
      .ite (fun _ => .some (keeps_fault h)) fun _ => .some (keeps_later (keeps_setVmask h)))
  | vsel | vshift => exact .next (keeps_vec h fun _ _ h => .ite (fun _ => .some (keeps_fault h)) fun _ => .some (keeps_toVd h))
  | vcvt => exact .next (keeps_vec h fun _ _ h => .some (keeps_vcvt h))
  | vw2d => exact .next (keeps_vec h fun _ _ h => .some (keeps_later (keeps_setVreg h)))
  | vred => exact .next (keeps_vec h fun _ _ h => .some (keeps_vred h))
  | slq => exact .next (keeps_issue h fun _ _ h => .some (keeps_slq h))
  | sscr => exact .next (keeps_issue h fun _ _ h => keeps_sscr h)
  | select => exact .next (keeps_issue h fun _ _ h => keeps_select h)
  | streamHitArrival => exact keepsRes_ite (keeps_hitArrival h) h
  | streamEnd => exact keepsRes_ite (keeps_streamEnd h) h
  | fstr => exact .next (keeps_issue (.ite (fun _ => keeps_pumped h) fun _ => h) fun _ _ h => keeps_fstr h)
  | granuleFullSignal => exact keepsRes_ite (keeps_granuleFull h) h
  | ferryPieceResponse => exact keepsRes_ite (keeps_pieceResponse h) h
  | domainOffRetry => exact keepsRes_ite (keeps_domainRetry h) h
  | ferryMeterWindow => exact keepsRes_ite (keeps_meterWindow h) h
  | nbcmd => exact .next (keeps_issue h fun _ _ h => keeps_nbcmd h)
  | nblist => exact .next (keeps_issue h fun _ _ h => keeps_nblist h)
  | instructionComplete => exact .next (keeps_complete (keeps_pumped h))
  | watchdog => exact .next (keeps_watchdog h)
  | instanceAbort => exact keepsRes_instanceAbort h
  | schLoadGo | schUnload => exact .next (keeps_onBus h fun _ h => keeps_wrLdctl h)
  | schLoadDone => exact .next (keeps_loadDone h)
  | unloadComplete => exact .next (keeps_unloadDone h)
  | narrowPathAccess => exact .next (keeps_narrow h)
  | memorySideAdd => exact .next (keeps_memAdd h)
  | memChfail => exact .next (keeps_chFail h)
  | dramTemperatureReport => exact .next (keeps_dramTemp h)
  | flashRead => exact .next (keeps_flashRead h)
  | flashProgramFail => exact .next (keeps_programFail h)
  | flashDieFail => exact .next (keeps_flashDieFail h)
  | spadPwrWrite => exact keepsRes_ite (keeps_onBus h fun _ h => keeps_wrSpadPwr h) h
  | bankWake => exact keepsRes_ite (keeps_wakeBank h) h
  | bankOnWipeDone => exact .next (keeps_onWipeDone h)
  | aliasWrite => exact .next (keeps_aliasCmd h)
  | mooringAcquire | mooringRelease => exact keepsRes_ite (keeps_mooring h) h
  | farRead => exact keepsRes_ite (keeps_farRead h) h
  | sharedLineWrite => exact .next (keeps_sharedLineWrite h)
  | snoopArrival => exact .next (keeps_snoopArrival h)
  | evictionNotice => exact .next (keeps_evictionNotice h)
  | fcRangeWrite => exact keepsRes_ite (keeps_onBus h fun _ h => keeps_wrFcRange h) h
  | poolAlloc => exact keepsRes_ite (keeps_poolAllocRead h) h
  | poolFree => exact keepsRes_ite (keeps_poolFree h) h
  | poolCfgWrite => exact keepsRes_ite (keeps_onBus h fun _ h => keeps_wrPoolCfg h) h
  | portTraining => exact keepsRes_ite (keeps_training h) h
  | trainingTimeout => exact keepsRes_ite (keeps_trainTimeout h) h
  | flitReceive => exact keepsRes_ite (keeps_flit h) h
  | nakResend => exact keepsRes_ite (keeps_nak h) h
  | laneFailure => exact keepsRes_ite (keeps_laneFail h) h
  | portDown => exact keepsRes_ite (keeps_portFall h) h
  | cableInsert => exact keepsRes_ite (keeps_cableIn h) h
  | rd => exact .next (keeps_serveRd h)
  | wr | add => exact .next (keeps_serveWr h)
  | sig => exact .next (keeps_serveSig h)
  | rdr | ack => exact .next (keeps_takeResp h)
  | col => exact .next (keeps_serveCol h)
  | messageForward => exact .next (keeps_forward h)
  | rtoExpiry => exact .next (keeps_rtoExpiry h)
  | hello => exact keepsRes_ite (keeps_hello h) h
  | mgtRead => exact .next (keeps_mgtRead h)
  | mgtWrite => exact .next (keeps_mgtWrite h)
  | mgtReply => exact .next (keeps_onMgt h fun _ _ _ h => keeps_emit h)
  | leave => exact .next (keeps_fabLeave h)
  | abortInst => exact .next (keeps_abortInst h)
  | collectiveWindowWrite => exact .next (keeps_windowCmd h)
  | ctoExpiry => exact keepsRes_ite (keeps_ctoExpiry h) h
  | collectiveStepComplete => exact keepsRes_ite (keeps_endStep h) h
  | groupEnable => exact keepsRes_ite (keeps_onBus h fun _ h => keeps_wrAbGroup h) h
  | abPortEnWrite => exact keepsRes_ite (keeps_onBus h fun _ h => keeps_wrAbPort h) h
  | abDupid => exact keepsRes_ite (keeps_dupId h) h
  | fabricDrain => exact .next (keeps_fabricDrain h)
  | timeFlitExchange => exact keepsRes_ite (keeps_timeFlit h) h
  | syncSilenceTimeout => exact .next (keeps_syncSilence h)
  | ptLockOpen | ptLockClose => exact .next (keeps_onBus h fun _ h => keeps_wrPtLock h)
  | ptCfgEnWrite => exact keepsRes_ite (keeps_onBus h fun _ h => keeps_wrPtEn h) h
  | partitionDrainComplete => exact keepsRes_ite (keeps_drainDone h) h
  | ptOwnWrite => exact keepsRes_ite (keeps_onBus h fun _ h => keeps_wrOwn h) h
  | ptWipeDone => exact .next (keeps_wipeDone h)
  | ptFloorWrite => exact keepsRes_ite (keeps_onBus h fun _ h => keeps_wrPtFloor h) h
  | tnCfgEnWrite => exact keepsRes_ite (keeps_onBus h fun _ h => keeps_wrTnEn h) h
  | quotaWrite => exact keepsRes_ite (keeps_onBus h fun _ h => keeps_wrTnTier h) h
  | lifeCycleTransition => exact .next (keeps_lcTransition h)
  | svnCommit => exact .next (keeps_svnCommit h)
  | secureBoot => exact .next (keeps_secureBoot h)
  | pldmFirmwareUpdate => exact .next (keeps_firmwareUpdate h)
  | mainPowerUp => exact .next (keeps_powerUp h)
  | p48Loss => exact .next (keeps_p48Loss h)
  | pwrEnLow => exact .next (keeps_pwrEnLow h)
  | sidebandColdReset => exact keepsRes_ite (keeps_flushStart h) h
  | sidebandWarmReset => exact keepsRes_ite (keeps_warmReset h) h
  | perstNLow => exact .next (keeps_perstLow h)
  | holdupMeasurement => exact .next (keeps_holdup h)
  | powerSample => exact .next (keeps_powerSample h)
  | dieTemperatureSample => exact .next (keeps_dieTemp h)
  | clkLock => exact .next (keeps_clkLock h)
  | oscillatorFail => exact .next (keeps_flushStart h)
  | refclkLoss => exact .next (keeps_setFld (keeps_setFld h))
  | wakeTokenGrant => exact .next (keeps_wakeGrant h)
  | quadIdleGate => exact keepsRes_ite (keeps_idleGate h) h
  | pwrQuadWrite => exact keepsRes_ite (keeps_onBus h fun _ h => keeps_wrPwrQuad h) h
  | rstReqGo => exact .next (keeps_onBus h fun _ h => keeps_wrRstReq h)
  | eventWindowStart => exact .next (keeps_windowStart h)
  | quadRetired => exact .next (keeps_quadRetired h)
  | hubLost => exact keepsRes_ite (keeps_hubLost h) h
  | resumed => exact .next (keeps_resumed h)
  | health => exact .next (keeps_health h)
  | bar0AccessInvalid => exact .next (keeps_bar0 h)
  | registerWrite => exact .next (keeps_busWrite h)
  | glbIntCause => exact .next (keeps_glbIntCause h)
  | fabLockOpen | fabLockClose => exact .next (keeps_onBus h fun _ h => keeps_wrFabLock h)
  | evqAckWrite => exact keepsRes_ite (keeps_onBus h fun _ h => keeps_wrEvqAck h) h
  | evqInterrupt => exact keepsRes_ite (keeps_evqInterrupt h) h
  | eventRecordWrite => exact .next (keeps_writeRecord h)
  | prtCtlEnWrite => exact .next (keeps_onBus h fun _ h => keeps_wrPrtCtl h)
  | perturbHoldRelease => exact .next (keeps_holdRelease h)
  | attn => exact .next (keeps_attn h)
  | coolLeak => exact .next (keeps_coolLeak h)
  | osfpPresencePoll => exact .next (keeps_pollCages h)
  | modPrsntBreak => exact .next (keeps_unplug h)
  | slotIdLatch => exact .next (keeps_setFld h)
  | dbgAttach => exact .next (keeps_dbgAttach h)
  | testLogicReset | perstNHigh => exact .next h
  | bypass | idcode => exact .next (keeps_tapDo h fun _ h => keeps_emit h)
  | samplePreload => exact .next (keeps_tapDo h fun _ h => keeps_boundary h)
  | extest => exact .next (keeps_tapDo h fun _ h => keeps_holdPins (keeps_boundary h))
  | clamp | highz => exact .next (keeps_tapDo h fun _ h => keeps_emit (keeps_holdPins h))
  | tmuxsel => exact .next (keeps_tmuxSel h)
  | dbgacc => exact .next (keeps_dbgacc h)
  | consoleSt => exact .next (keeps_conDo h fun _ h => keeps_emit h)
  | consoleLog => exact .next (keeps_conDo h fun _ h => keeps_conLog h)
  | consoleRd => exact .next (keeps_conDo h fun _ h => keeps_emit (keeps_mRead h))
  | consoleWr => exact .next (keeps_conDo h fun _ h => keeps_mWrite h)
  | cvtWindowRestart => exact keepsRes_ite (keeps_cvtRestart h) h
  | p12auxLoss | p12auxReturn => exact .next (keeps_setFld (keeps_mgmtPower h))
  | nandTemperatureReport => exact .next (keeps_nandTemp h)
  | keyErased => exact keepsRes_ite (keeps_keyErased h) h
  | flashRelocationComplete => exact .next (keeps_relocDone h)
  | dieLost => exact keepsRes_ite (keeps_dieLost h) h
  | quayFatal => exact .next (keeps_setCause (keeps_setFld h))
  | serviceDieFault => exact .next (keeps_serviceFault h)
  | identifyLed => exact .next (keeps_identifyLed h)
  | lifeCycleNonce => exact .next (keeps_lcNonce h)

/-- A step takes the front command off the queue, keeps memory and registers canonical, only adds to what left the module, and draws
free values upwards. -/
theorem keeps_step {t : State} (h : Canonical s) (hstep : step s = .next t) : Keeps ⟨s.pending.tail, s.outbox, s.fresh⟩ t := by
  unfold step at hstep
  split at hstep
  · next hp =>
    obtain rfl := Host.Outcome.next.inj hstep
    have hs : Keeps ⟨s.pending.tail, s.outbox, s.fresh⟩ s := ⟨by rw [hp]; rfl, h.1, h.2, List.prefix_refl _, le_rfl⟩
    exact .ite (fun _ => hs) fun _ => hs
  · next c rest hp =>
    have hs : Keeps ⟨s.pending.tail, s.outbox, s.fresh⟩ { s with pending := rest } := ⟨by rw [hp]; rfl, h.1, h.2, List.prefix_refl _, le_rfl⟩
    have ht := keepsRes_exec c hs
    rwa [hstep] at ht

end Sys2Proof.Proofs.CanonicalForm

section

open Sys2Proof.Machine Sys2Proof.Safety Sys2Proof.Laws Sys2Proof.Proofs.CanonicalForm

/-- Settles O3: every command keeps what `Keeps` says, the canonical form with it. -/
theorem stepKeepsCanonicalForm : Obligations.StepKeepsCanonicalForm := by
  unfold Obligations.StepKeepsCanonicalForm
  intro s t hs hstep
  obtain ⟨-, hmem, hregs, -⟩ := keeps_step hs hstep
  exact ⟨hmem, hregs⟩

/-- Settles O2: after reset every table is empty, and every register has its reset value. -/
theorem resetIsCanonical : Obligations.ResetIsCanonical := by
  unfold Obligations.ResetIsCanonical
  exact ⟨⟨rfl, rfl⟩, rfl, rfl, by decide, fun _ => rfl, fun _ => rfl⟩

end

/-! Proof of O27: the narrow path and memory-side adds at DRAM addresses. The lemmas go from the regions below the scratchpads over what
an error met leaves as it was to a read, a write and an add at an address. -/

namespace Sys2Proof.Proofs.MemoryPathsAndAdds

open Sys2Proof Sys2Proof.Machine Sys2Proof.Safety
open Sys2Proof.Proofs.QueriesAndTheirCompletions (length_leBytes leAt_leBytes)
open Sys2Proof.Proofs.RankingModelsAndTables (regsBut_setFld)
open Sys2Proof.Proofs.SketchRegionsTideAndTemperature (regsBut_trans OnlyRegs OnlyRegs.trans onlyRegs_setFld raise_silent
  regionOf_sketch_iff)
open Sys2Proof.Proofs.IssueOfInstructions (faulted_quadFault)
open Sys2Proof.Proofs.MemoryErrorsTemperaturesAndFlash (fld_incFld_wrap fld_incFld_sat fld_incFld_fld regionOf_hbm_lt regionOf_gddr_lt gddrDev_lt)

/-! ### Addresses below the scratchpads (11 Table 11-1) -/

/-- The address is one of DRAM or of no memory: no scratchpad, register, alias or window lies there. -/
inductive OffDies (a : Nat) : Prop
  | hbm {n o : Nat} (h : regionOf a = .hbm n o)
  | sketch {n o : Nat} (h : regionOf a = .sketch n o)
  | gddr {n o : Nat} (h : regionOf a = .gddr n o)
  | unmapped (h : regionOf a = .unmapped)

theorem offDies_of_lt {a : Nat} (h : a < spBase) : OffDies a := by
  have hsp : ¬ spBase ≤ a := Nat.not_le.2 h
  have habove (b : Nat) (hb : spBase ≤ b) : ¬ b ≤ a := fun hba => hsp (hb.trans hba)
  by_cases h1 : a < 12 * hbmSize
  · exact .hbm (by rw [regionOf, if_pos h1])
  by_cases h2 : skBase ≤ a ∧ a < skBase + 8 * skSize
  · exact .sketch (by rw [regionOf, if_neg h1, if_pos h2])
  by_cases h3 : gdBase ≤ a ∧ a < gdBase + 4 * gdSize
  · exact .gddr (by rw [regionOf, if_neg h1, if_neg h2, if_pos h3])
  · refine .unmapped ?_
    rw [regionOf, if_neg h1, if_neg h2, if_neg h3, if_neg fun hx => hsp hx.1, if_neg fun hx => habove _ (by decide) hx.1,
      if_neg fun hx => habove _ (by decide) hx.1, if_neg fun hx => habove _ (by decide) hx.1, if_neg fun hx => habove _ (by decide) hx.1]

/-- An access within one block of 256 bytes does not reach the scratchpads from below. -/
theorem last_lt_spBase {a n : Nat} (h : a < spBase) (hn : 1 ≤ n) (hb : a % 256 + n ≤ 256) : a + n - 1 < spBase := by
  have hsp : spBase = 256 * 0xF0000000 := by decide
  omega

theorem offDies_of_dram {a : Nat} (h : a < spBase ∨ regionOf a = .unmapped) : OffDies a := h.elim offDies_of_lt .unmapped

section
variable {s : State} {a : Nat}

theorem touch_of_offDies (h : OffDies a) : s.touch a = (s, true) := by
  rcases h with h | h | h | h <;> rw [State.touch, h]

theorem touchRange_of_offDies {n : Nat} (h : OffDies a) (hl : OffDies (a + n - 1)) : s.touchRange a n = (s, true) := by
  rw [State.touchRange, touch_of_offDies h]
  dsimp only
  split
  · exact touch_of_offDies hl
  · rfl

theorem servesAll_of_offDies {src n : Nat} (h : OffDies a) (hl : OffDies (a + n - 1)) :
    s.servesAll src a n = (s.mayReach src a && s.mayReach src (a + n - 1)) := by
  have hserves {x : Nat} (hx : OffDies x) : s.serves src x = s.mayReach src x := by
    rcases hx with hx | hx | hx | hx <;> rw [State.serves, hx]
  rw [State.servesAll, hserves h, hserves hl]
  rcases hl with hl | hl | hl | hl <;> rw [hl, Bool.and_true]

theorem readAddr_of_offDies {src n : Nat} {e : MemErr} (h : OffDies a) : s.readAddr src a n e = s.readPlain src a n e := by
  rcases h with h | h | h | h <;> simp only [State.readAddr, h]

theorem writeAddr_of_offDies {src : Nat} {b : List Byte} {who : Option AckTo} (h : OffDies a) :
    s.writeAddr src a b who = s.writePlain src a b who := by
  rcases h with h | h | h | h <;> simp only [State.writeAddr, h]

theorem readErr_good (h : OffDies a) : s.readErr a .good = s := by
  rcases h with h | h | h | h <;> simp only [State.readErr, h, ite_self]

end

/-! ### What an error met by a read leaves as it was (11 R243, R244) -/

/-- Memory, what left the module, which bytes are lost, and the registers below those of the memories are as they were. -/
structure Noted (s t : State) : Prop where
  mem : t.mem = s.mem
  outbox : t.outbox = s.outbox
  loss : ∀ x, t.byteLost x = s.byteLost x
  low : ∀ o < 0x70000, tget regRstAt t.regs o = tget regRstAt s.regs o

theorem Noted.trans {s t u : State} (h : Noted s t) (g : Noted t u) : Noted s u :=
  ⟨g.mem.trans h.mem, g.outbox.trans h.outbox, fun x => (g.loss x).trans (h.loss x), fun o ho => (g.low o ho).trans (h.low o ho)⟩

theorem byteLost_eq {s t : State} (hf : t.tier.failed = s.tier.failed)
    (hh : ∀ n < 12, t.fld (.memHstat n) MEM_HSTAT_CHFAIL = s.fld (.memHstat n) MEM_HSTAT_CHFAIL)
    (hg : ∀ d < 48, t.fld (.memGstat d) MEM_GSTAT_FAILED = s.fld (.memGstat d) MEM_GSTAT_FAILED) (x : Nat) : t.byteLost x = s.byteLost x := by
  cases hx : regionOf x with
  | hbm n o => simp only [State.byteLost, hx, hf, hh n (regionOf_hbm_lt hx)]
  | gddr n o => simp only [State.byteLost, hx, State.flag, hg _ (gddrDev_lt (regionOf_gddr_lt hx))]
  | _ => simp only [State.byteLost, hx, hf]

theorem noted_of_regs {s t : State} (hr : t.regs = s.regs) (hf : t.tier.failed = s.tier.failed) (hm : t.mem = s.mem) (ho : t.outbox = s.outbox) :
    Noted s t :=
  ⟨hm, ho, byteLost_eq hf (fun _ _ => by rw [State.fld, State.reg, hr, State.fld, State.reg]) fun _ _ => by
    rw [State.fld, State.reg, hr, State.fld, State.reg], fun _ _ => by rw [hr]⟩

theorem noted_raise {code : Nat} (h : causeOf code = none) (s : State) (log src : Nat) (data : List Byte) : Noted s (s.raise log src code data) := by
  rw [raise_silent h]
  exact noted_of_regs rfl rfl rfl rfl

/-- A field written to a value that is not its reset value leaves the other fields of its register, in any table. -/
theorem fld_setFld_kept {s : State} {r : Reg} {f g : Fld} {v : Nat} (hf : f.lo + f.w ≤ 64)
    (hv : v % 2 ^ f.w ≠ fget (regRstAt (regOff r)) f) (hd : g.lo + g.w ≤ f.lo ∨ f.lo + f.w ≤ g.lo) : (s.setFld r f v).fld r g = s.fld r g := by
  have hw : fput (s.reg r) f v ≠ regRstAt (regOff r) := fun he => hv (by rw [← he, fget_fput_self _ _ _ hf])
  have hreg : (s.setFld r f v).reg r = fput (s.reg r) f v := tget_tset_kept _ _ _ _ hw
  rw [State.fld, hreg, fget_fput_ne _ _ _ _ hf hd, State.fld]

theorem noted_setFld {s : State} {r : Reg} {f : Fld} {v : Nat} (hlow : 0x70000 ≤ regOff r)
    (hh : ∀ n < 12, (s.setFld r f v).fld (.memHstat n) MEM_HSTAT_CHFAIL = s.fld (.memHstat n) MEM_HSTAT_CHFAIL)
    (hg : ∀ d < 48, (s.setFld r f v).fld (.memGstat d) MEM_GSTAT_FAILED = s.fld (.memGstat d) MEM_GSTAT_FAILED) : Noted s (s.setFld r f v) :=
  ⟨rfl, rfl, byteLost_eq rfl hh hg, fun o ho => State.tget_setFld_ne _ _ _ _ _ (by omega)⟩

section
variable {s : State} {n v : Nat} {f : Fld}

theorem noted_memHerr (hn : n < 12) : Noted s (s.setFld (.memHerr n) f v) := by
  refine noted_setFld ?_ (fun m _ => State.fld_setFld_ne _ _ _ _ _ _ ?_) fun d _ => State.fld_setFld_ne _ _ _ _ _ _ ?_
  all_goals
    simp only [regOff]
    omega

theorem noted_memGret : Noted s (s.setFld (.memGret n) f v) := by
  refine noted_setFld ?_ (fun m hm => State.fld_setFld_ne _ _ _ _ _ _ ?_) fun d hd => State.fld_setFld_ne _ _ _ _ _ _ ?_
  all_goals
    simp only [regOff]
    omega

theorem noted_degraded (hn : n < 12) : Noted s (s.setFld (.memHstat n) MEM_HSTAT_DEGRADED 1) := by
  have hrst : ∀ m < 12, fget (regRstAt (regOff (.memHstat m))) MEM_HSTAT_DEGRADED = 0 := by decide +kernel
  refine noted_setFld ?_ (fun m _ => ?_) fun d _ => State.fld_setFld_ne _ _ _ _ _ _ ?_
  · simp only [regOff]
    omega
  · by_cases hm : m = n
    · subst hm
      exact fld_setFld_kept (by decide) (by rw [hrst m hn]; decide) (by decide)
    · exact State.fld_setFld_ne _ _ _ _ _ _ (by simp only [regOff]; omega)
  · simp only [regOff]
    omega

/-- A field of a GDDR7 device's register beside FAILED takes a value that is not 0. -/
theorem noted_memGstat (hn : n < 48) (hf : f ∈ [MEM_GSTAT_CE, MEM_GSTAT_UE, MEM_GSTAT_UESEEN]) (hv : v % 2 ^ f.w ≠ 0) :
    Noted s (s.setFld (.memGstat n) f v) := by
  have hrst : ∀ m < 48, ∀ f ∈ [MEM_GSTAT_CE, MEM_GSTAT_UE, MEM_GSTAT_UESEEN], fget (regRstAt (regOff (.memGstat m))) f = 0 := by decide +kernel
  have hfit : ∀ f ∈ [MEM_GSTAT_CE, MEM_GSTAT_UE, MEM_GSTAT_UESEEN], f.lo + f.w ≤ 64 ∧
      (MEM_GSTAT_FAILED.lo + MEM_GSTAT_FAILED.w ≤ f.lo ∨ f.lo + f.w ≤ MEM_GSTAT_FAILED.lo) := by decide
  obtain ⟨hw, hd⟩ := hfit f hf
  refine noted_setFld ?_ (fun m hm => State.fld_setFld_ne _ _ _ _ _ _ ?_) fun d _ => ?_
  · simp only [regOff]
    omega
  · simp only [regOff]
    omega
  · by_cases hdn : d = n
    · subst hdn
      exact fld_setFld_kept hw (by rwa [hrst d hn f hf]) hd
    · exact State.fld_setFld_ne _ _ _ _ _ _ (by simp only [regOff]; omega)

/-- A saturating counter of a GDDR7 device counts one. -/
theorem noted_gddrCount (hn : n < 48) (hf : f ∈ [MEM_GSTAT_CE, MEM_GSTAT_UE]) : Noted s (s.incFld (.memGstat n) f 1) := by
  have hfits : ∀ f ∈ [MEM_GSTAT_CE, MEM_GSTAT_UE], f.sat = true ∧ f.w = 16 ∧ f ∈ [MEM_GSTAT_CE, MEM_GSTAT_UE, MEM_GSTAT_UESEEN] := by decide
  obtain ⟨hs, hw, hm⟩ := hfits f hf
  have hlt := s.fld_lt (.memGstat n) f
  refine noted_memGstat hn hm ?_
  rw [if_pos hs, hw, satAdd]
  rw [hw] at hlt
  split <;> omega

end

theorem noted_retirePage (s : State) (a : Nat) : Noted s (s.retirePage a) := by
  unfold State.retirePage
  dsimp only
  split
  · exact noted_of_regs rfl rfl rfl rfl
  · have hlisted (l : List Nat) : Noted s { s with tier := { s.tier with retired := l } } := noted_of_regs rfl rfl rfl rfl
    split
    · refine .trans ?_ (noted_raise (by decide) _ _ _ _)
      split
      next h => exact (hlisted _).trans (noted_memHerr (regionOf_hbm_lt h))
      next => exact (hlisted _).trans noted_memGret
      next => exact hlisted _
    · refine .trans ?_ (noted_raise (by decide) _ _ _ _)
      split
      next h => exact noted_degraded (regionOf_hbm_lt h)
      next => exact noted_memGret
      next => exact noted_of_regs rfl rfl rfl rfl

theorem noted_retireIf {s t : State} (h : Noted s t) (c : Prop) [Decidable c] (a : Nat) : Noted s (if c then t.retirePage a else t) := by
  split
  · exact h.trans (noted_retirePage t a)
  · exact h

theorem Noted.stamped {s t : State} (h : Noted s t) (l : Tab Nat) : Noted s { t with tier := { t.tier with ceTimes := l } } :=
  h.trans (noted_of_regs rfl rfl rfl rfl)

theorem noted_memCe (s : State) (a : Nat) : Noted s (s.memCe a) := by
  unfold State.memCe
  refine noted_retireIf (Noted.stamped ?_ _) _ a
  split
  next n _ h => exact noted_memHerr (regionOf_hbm_lt h)
  next n o h => exact noted_gddrCount (gddrDev_lt (regionOf_gddr_lt h)) (by decide)
  next => exact noted_of_regs rfl rfl rfl rfl
  next => exact noted_of_regs rfl rfl rfl rfl

theorem noted_memUe (s : State) (a : Nat) : Noted s (s.memUe a) := by
  unfold State.memUe
  dsimp only
  refine .trans (.trans ?_ (noted_raise (by decide) _ _ _ _)) (noted_retirePage _ _)
  split
  next h => exact (noted_memHerr (regionOf_hbm_lt h)).trans (noted_memHerr (regionOf_hbm_lt h))
  next n o h =>
    have hd := gddrDev_lt (o := o) (regionOf_gddr_lt h)
    exact (noted_gddrCount hd (by decide)).trans (noted_memGstat hd (by decide) (by decide))
  next => exact noted_of_regs rfl rfl rfl rfl

theorem regionOf_sketch_lt {a n o : Nat} (h : regionOf a = .sketch n o) : n < 8 := by
  obtain ⟨⟨hlo, hhi⟩, rfl, -⟩ := (regionOf_sketch_iff a n o).1 h
  exact Nat.div_lt_of_lt_mul (by omega)

/-- Of memory without plain blocks there, a corrected or uncorrectable error is noted. -/
theorem noted_readErr {s : State} {a : Nat} {e : MemErr} (ha : OffDies a) (he : e = .good ∨ e = .ce ∨ e = .ue) : Noted s (s.readErr a e) := by
  have hsame : Noted s s := noted_of_regs rfl rfl rfl rfl
  rcases he with rfl | rfl | rfl
  · rw [readErr_good ha]
    exact hsame
  · rcases ha with h | h | h | h <;> simp only [State.readErr, h]
    all_goals
      split
      · exact hsame
      · exact noted_memCe s a
  · rcases ha with h | h | h | h <;> simp only [State.readErr, h]
    all_goals
      split
      · exact hsame
      · exact noted_memUe s a

theorem Noted.inPlain {s t : State} (h : Noted s t) (a : Nat) : t.inPlain a = s.inPlain a := by
  unfold State.inPlain
  split
  next n o hr =>
    have hn := regionOf_sketch_lt hr
    have hreg : t.reg (.skRegion n) = s.reg (.skRegion n) := h.low _ (by simp only [regOff]; omega)
    rw [State.plainBlock, hreg, State.plainBlock]
  next => rfl

theorem Noted.lostIn {s t : State} (h : Noted s t) (a n : Nat) : t.lostIn a n = s.lostIn a n := by
  simp only [State.lostIn, h.loss]

/-! ### Reads of DRAM -/

section
variable {s : State} {src a n : Nat}

/-- What an access at an address ends with, by what its end `t` answered. -/
def settled (src a : Nat) (waiting : HeldAcc) (served : State → State) (t : State) : Acc → State
  | .ok | .queued => served t
  | .no st => t.refuseEnd src a st
  | .held => t.hold waiting

theorem exec_narrow (src : Nat) (tgt : Target) (n : Nat) (b : Option (List Byte)) (e : MemErr) (s : State) :
    exec (.narrowPathAccess src tgt n b e) s = .next (s.narrow src tgt n b e) := rfl

theorem readPlain_refused {e : MemErr} (h : s.servesAll src a n = false) : s.readPlain src a n e = (s, .no 3, []) := by
  simp only [State.readPlain, h, Bool.false_eq_true, not_false_eq_true, if_true]

theorem readPlain_held {e : MemErr} (h : s.servesAll src a n = true) (hc : s.converting a = true) : s.readPlain src a n e = (s, .held, []) := by
  simp only [State.readPlain, h, hc, not_true_eq_false, if_false, if_true]

/-- A read that DRAM serves, of which no error goes undetected. -/
theorem readPlain_served {e : MemErr} (ha : OffDies a) (hl : OffDies (a + n - 1)) (h : s.servesAll src a n = true)
    (hc : s.converting a = false) (hp : (s.readErr a e).inPlain a = false ∨ e = .good) :
    s.readPlain src a n e = (s.readErr a e, if uncorrectable a e = true ∨ (s.readErr a e).lostIn a n = true then (.no 4, [])
      else (.ok, (s.readErr a e).rd a n)) := by
  have hdetected : ¬ ((s.readErr a e).inPlain a = true ∧ e ≠ .good) := fun hx => hp.elim (fun hf => by simp [hf] at hx) hx.2
  simp only [State.readPlain, h, hc, touchRange_of_offDies ha hl, not_true_eq_false, Bool.false_eq_true, if_false, if_neg hdetected]
  split <;> rfl

theorem narrow_read {e : MemErr} (hn : 1 ≤ n) (hb : a % 256 + n ≤ 256) (ha : OffDies a) {t : State} {acc : Acc} {bs : List Byte}
    (h : s.readPlain src a n e = (t, acc, bs)) : s.narrow src (.addr a) n none e =
      settled src a ⟨src, .addr a, n, none, 0, none⟩ (fun t => t.emit (.readResp src a bs)) t acc := by
  simp only [State.narrow, State.readEnd, readAddr_of_offDies ha, h, hn, hb, and_self, decide_true, Bool.true_eq_false, if_false, tgtNum]
  cases acc <;> rfl

theorem narrow_write {b : List Byte} {e : MemErr} (hn : 1 ≤ n) (hb : a % 256 + n ≤ 256) (ha : OffDies a) {t : State} {acc : Acc}
    (h : s.writePlain src a (bytesAt b 0 n) none = (t, acc)) :
    s.narrow src (.addr a) n (some b) e =
      settled src a ⟨src, .addr a, n, some b, 0, none⟩ id t acc := by
  simp only [State.narrow, State.writeEnd, State.flashWrite, ne_eq, not_true_eq_false, if_false, Bool.false_eq_true, if_true,
    writeAddr_of_offDies ha, h, hn, hb, and_self, decide_true, Bool.true_eq_false, tgtNum]
  cases acc <;> rfl

end

/-! ### Writes of DRAM -/

theorem length_bytesAt (b : List Byte) (o n : Nat) : (bytesAt b o n).length = n := by
  simp only [bytesAt, List.length_append, List.length_take, List.length_drop, List.length_replicate]
  omega

theorem bytesAt_self (b : List Byte) : bytesAt b 0 b.length = b := by
  simp [bytesAt]

/-- No line of the directory with a sharer meets the range. -/
abbrev Unshared (a n : Nat) (s : State) : Prop := ∀ l ∈ s.net.dir, s.sharers l.1 = 0 ∨ l.1 * 256 + 256 ≤ a ∨ a + n ≤ l.1 * 256

section
variable {s : State} {src a n : Nat} {who : Option AckTo} {f : State → State}

theorem sharedWrite_unshared (h : Unshared a n s) : s.sharedWrite src n [(a, n)] who f = (f s, .ok) := by
  have hnone : (s.net.dir.map (·.1)).filter (fun l => s.sharers l ≠ 0 && [(a, n)].any fun x => x.1 / 256 ≤ l && l * 256 < x.1 + x.2) = [] := by
    refine List.filter_eq_nil_iff.2 fun l hl => ?_
    obtain ⟨e, he, rfl⟩ := List.mem_map.1 hl
    simp only [List.any_cons, List.any_nil, Bool.or_false, Bool.and_eq_true, decide_eq_true_eq]
    rcases h e he with h | h | h <;> omega
  simp only [State.sharedWrite, hnone]

theorem snoopLine_mem (s : State) (h l : Nat) : (s.snoopLine h l).mem = s.mem := by
  unfold State.snoopLine
  refine List.foldlRecOn (motive := fun t : State => t.mem = s.mem) _ _ rfl fun t ht d _ => ?_
  dsimp only
  split
  · rw [State.incFld_mem]
    exact ht
  · exact ht

/-- Other modules' copies are snooped before the write; the write itself is the same. -/
theorem sharedWrite_mem (s : State) (spans : List (Nat × Nat)) :
    ((s.sharedWrite src n spans who f).2 = .ok ∨ (s.sharedWrite src n spans who f).2 = .queued) ∧
      ∃ v : State, v.mem = s.mem ∧ (s.sharedWrite src n spans who f).1.mem = (f v).mem := by
  unfold State.sharedWrite
  dsimp only
  split
  · exact ⟨.inl rfl, s, rfl, rfl⟩
  · refine ⟨.inr rfl, _, ?_, rfl⟩
    exact List.foldlRecOn (motive := fun t : State => t.mem = s.mem) _ _ rfl fun t ht l _ => (snoopLine_mem t _ l).trans ht

theorem writePlain_refused {b : List Byte} (hb : b ≠ []) (ha : OffDies a) (h : s.mayReach src a = false) :
    s.writePlain src a b who = (s, .no 3) := by
  rcases ha with hr | hr | hr | hr <;>
    simp only [State.writePlain, hr, hb, h, if_false, Bool.false_eq_true, not_false_eq_true, true_or, if_true]

theorem writePlain_held {b : List Byte} (hb : b ≠ []) (ha : OffDies a) (h : s.mayReach src a = true)
    (hl : s.mayReach src (a + b.length - 1) = true) (hc : s.converting a = true) : s.writePlain src a b who = (s, .held) := by
  rcases ha with hr | hr | hr | hr <;>
    simp only [State.writePlain, hr, hb, h, hl, hc, if_false, not_true_eq_false, or_self, if_true]

theorem writePlain_served {b : List Byte} (hb : b ≠ []) (ha : OffDies a) (hal : OffDies (a + b.length - 1)) (h : s.mayReach src a = true)
    (hl : s.mayReach src (a + b.length - 1) = true) (hc : s.converting a = false) (hlost : s.lostIn a b.length = false) :
    s.writePlain src a b who = s.sharedWrite src b.length [(a, b.length)] who fun s => s.wr a b := by
  have htouch : s.touchRange a b.length = (s, true) := touchRange_of_offDies ha hal
  rcases ha with hr | hr | hr | hr <;>
    simp only [State.writePlain, hr, hb, h, hl, hc, hlost, htouch, if_false, not_true_eq_false, or_self, Bool.false_eq_true]

end

theorem memBut_wr (s : State) (a : Nat) (b : List Byte) : MemBut a b.length s (s.wr a b) := fun x hx => memByte_memWrite_out s.mem a b x hx

/-! ### Memory-side adds (11 R249, Table 11-7) -/

theorem length_addBytes (k m : Nat) (old new : List Byte) : (addBytes k m old new).1.length = m * addWidth k := by
  induction m generalizing old new with
  | zero => rw [addBytes, Nat.zero_mul, List.length_nil]
  | succ m ih =>
    rw [addBytes, List.length_append, ih, length_leBytes, Nat.succ_mul]
    omega

/-- An update of INT32 is one sum. -/
theorem addBytes_int32 {old : List Byte} (h : old.length = 4) {x : Nat} (hx : x < 2 ^ 32) :
    addBytes 4 1 old (leBytes 4 x) = (leBytes 4 ((ofLE old + x) % 2 ^ 32), 0, 0) := by
  have hold : leAt old 0 4 = ofLE old := by rw [leAt, ← h, bytesAt_self]
  have hnew : leAt (leBytes 4 x) 0 4 = x := by
    rw [leAt_leBytes]
    exact Nat.mod_eq_of_lt hx
  simp only [addBytes, addElem, show addWidth 4 = 4 from rfl, hold, hnew, List.append_nil]

section
variable {s : State}

theorem onlyRegs_countAdd (s : State) (hub x y : Nat) : OnlyRegs s (s.countAdd hub x y) :=
  OnlyRegs.trans (.trans (onlyRegs_setFld s _ _ _) (onlyRegs_setFld _ _ _ _)) (onlyRegs_setFld _ _ _ _)

theorem regsBut_countAdd (s : State) (hub x y : Nat) : RegsBut [.msaStat hub] s (s.countAdd hub x y) :=
  regsBut_trans (regsBut_trans (regsBut_setFld s _ _ _) (regsBut_setFld _ _ _ _)) (regsBut_setFld _ _ _ _)

/-- ADDS wraps; FOVF and ISAT saturate. -/
theorem fld_countAdd (h : RegsOk s) (hub x y : Nat) :
    (s.countAdd hub x y).fld (.msaStat hub) MSA_STAT_ADDS = (s.fld (.msaStat hub) MSA_STAT_ADDS + 1) % 2 ^ MSA_STAT_ADDS.w ∧
      (s.countAdd hub x y).fld (.msaStat hub) MSA_STAT_FOVF = satAdd 65535 (s.fld (.msaStat hub) MSA_STAT_FOVF) x ∧
      (s.countAdd hub x y).fld (.msaStat hub) MSA_STAT_ISAT = satAdd 65535 (s.fld (.msaStat hub) MSA_STAT_ISAT) y := by
  have h1 : RegsOk (s.incFld (.msaStat hub) MSA_STAT_ADDS 1) := s.regsOk_setFld _ _ _ h
  have h2 : RegsOk ((s.incFld (.msaStat hub) MSA_STAT_ADDS 1).incFld (.msaStat hub) MSA_STAT_FOVF x) := State.regsOk_setFld _ _ _ _ h1
  rw [State.countAdd]
  refine ⟨?_, ?_, ?_⟩
  · rw [fld_incFld_fld h2 (by decide) (by decide), fld_incFld_fld h1 (by decide) (by decide), fld_incFld_wrap h (by decide) rfl]
  · rw [fld_incFld_fld h2 (by decide) (by decide), fld_incFld_sat h1 (by decide) rfl, fld_incFld_fld h (by decide) (by decide)]
    rfl
  · rw [fld_incFld_sat h2 (by decide) rfl, fld_incFld_fld h1 (by decide) (by decide), fld_incFld_fld h (by decide) (by decide)]
    rfl

end

/-- The update of type `k` that the adder of the owning hub applies at `a`. -/
def updated (a k : Nat) (b : List Byte) (s : State) : State :=
  let r := addBytes k (b.length / addWidth k) (s.rd a b.length) b
  (s.wr a r.1).countAdd ((hubOf a).getD 0) r.2.1 r.2.2

section
variable {s : State} {src a k : Nat} {b : List Byte}

theorem exec_memAdd (src : Nat) (tgt : Target) (k : Nat) (b : List Byte) (fault : Bool) (s : State) :
    exec (.memorySideAdd src tgt k b fault) s = .next (s.memAdd src tgt k b fault) := rfl

/-- An add in form is refused by an adder's fault, and else is what its write end answers. -/
theorem memAdd_inForm (hk : 1 ≤ k) (hk' : k ≤ 15) (hb : b ≠ []) (hlen : b.length ≤ 256) (hw : k ≤ 7 → b.length % addWidth k = 0) :
    s.memAdd src (.addr a) k b true = s.refuseEnd src a 4 ∧ ∀ (t : State) (acc : Acc), s.writeEnd src (.addr a) k b = (t, acc) →
      s.memAdd src (.addr a) k b false = settled src a ⟨src, .addr a, b.length, some b, k, none⟩ id t acc := by
  have hform : ¬ (k = 0 ∨ 15 < k ∨ b = [] ∨ 256 < b.length ∨ (k ≤ 7 ∧ b.length % addWidth k ≠ 0)) := by
    rintro (h | h | h | h | ⟨h7, h⟩)
    · omega
    · omega
    · exact hb h
    · omega
    · exact h (hw h7)
  refine ⟨by simp only [State.memAdd, if_neg hform, tgtNum], fun t acc h => ?_⟩
  simp only [State.memAdd, if_neg hform, h, tgtNum]
  cases acc <;> rfl

/-- An add of a type that is not reserved, at an address of no scratchpad and no plain block, goes to the adder. -/
theorem writeEnd_add (hk : 1 ≤ k) (hk' : k ≤ 7) (ha : OffDies a) (hp : ∀ n o, regionOf a = .sketch n o → s.plainBlock n o = false) :
    s.writeEnd src (.addr a) k b = s.addAddr src a k b none := by
  have hmsa : s.msaRefused (.addr a) k b.length = false := by
    have h8 : decide (8 ≤ k) = false := decide_eq_false (by omega)
    rcases ha with hr | hr | hr | hr
    · simp only [State.msaRefused, h8, hr, Bool.or_self]
    · simp only [State.msaRefused, h8, hr, hp _ _ hr, Bool.or_self]
    · simp only [State.msaRefused, h8, hr, Bool.or_self]
    · simp only [State.msaRefused, h8, hr, Bool.or_self]
  have hk0 : k ≠ 0 := by omega
  simp only [State.writeEnd, hmsa, ne_eq, hk0, not_false_eq_true, if_true, Bool.false_eq_true, if_false]

theorem addAddr_served {who : Option AckTo} (hb : b ≠ []) (h : s.mayReach src a = true) (hl : s.mayReach src (a + b.length - 1) = true)
    (hc : s.converting a = false) (hlost : s.lostIn a b.length = false) (hu : Unshared a b.length s) :
    s.addAddr src a k b who = (updated a k b s, .ok) := by
  simp only [State.addAddr, hb, h, hl, hc, hlost, not_true_eq_false, or_self, if_false, Bool.false_eq_true]
  exact sharedWrite_unshared hu

theorem addAddr_held {who : Option AckTo} (hb : b ≠ []) (h : s.mayReach src a = true) (hl : s.mayReach src (a + b.length - 1) = true)
    (hc : s.converting a = true) : s.addAddr src a k b who = (s, .held) := by
  simp only [State.addAddr, hb, h, hl, hc, not_true_eq_false, or_self, if_false, if_true]

theorem writeEnd_reserved (hk : 8 ≤ k) : s.writeEnd src (.addr a) k b =
    (s.raise (s.addrLog a) (srcHub ((hubOf a).getD 0)) 0x0507 [], .no 4) := by
  have hk0 : k ≠ 0 := by omega
  have hmsa : s.msaRefused (.addr a) k b.length = true := by simp only [State.msaRefused, hk, decide_true, Bool.true_or]
  simp only [State.writeEnd, ne_eq, hk0, not_false_eq_true, if_true, hmsa, State.endHub]

theorem refuseEnd_unserved (hq : isQuadUnit src = false) : s.refuseEnd src a 4 = s.emit (.refusal src a 4) := by
  simp only [State.refuseEnd, hq, Bool.false_eq_true, if_false]

end

theorem updated_eq (a k : Nat) (b : List Byte) (s : State) :
    ∃ rs : Tab Word, updated a k b s = { s with mem := memWrite s.mem a (addBytes k (b.length / addWidth k) (s.rd a b.length) b).1, regs := rs } := by
  obtain ⟨rs, h⟩ := onlyRegs_countAdd (s.wr a (addBytes k (b.length / addWidth k) (s.rd a b.length) b).1) ((hubOf a).getD 0)
    (addBytes k (b.length / addWidth k) (s.rd a b.length) b).2.1 (addBytes k (b.length / addWidth k) (s.rd a b.length) b).2.2
  exact ⟨rs, h⟩

/-- Of whole elements, the update replaces exactly its bytes. -/
theorem updated_mem {a k : Nat} {b : List Byte} {s : State} (hm : MemOk s) (hw : b.length % addWidth k = 0) :
    memRead (updated a k b s).mem a b.length = (addBytes k (b.length / addWidth k) (s.rd a b.length) b).1 ∧ MemBut a b.length s (updated a k b s) := by
  obtain ⟨rs, he⟩ := updated_eq a k b s
  have hlen : (addBytes k (b.length / addWidth k) (s.rd a b.length) b).1.length = b.length := by
    rw [length_addBytes]
    exact Nat.div_mul_cancel (Nat.dvd_of_mod_eq_zero hw)
  have hread := memRead_memWrite s.mem a (addBytes k (b.length / addWidth k) (s.rd a b.length) b).1 hm
  have hrest := memBut_wr s a (addBytes k (b.length / addWidth k) (s.rd a b.length) b).1
  rw [hlen] at hread hrest
  rw [he]
  exact ⟨hread, hrest⟩

/-- It counts at its hub alone. -/
theorem updated_counts {a k : Nat} {b : List Byte} {s : State} (hr : RegsOk s) {hub : Nat} (hh : (hubOf a).getD 0 = hub) :
    (updated a k b s).fld (.msaStat hub) MSA_STAT_ADDS = (s.fld (.msaStat hub) MSA_STAT_ADDS + 1) % 2 ^ MSA_STAT_ADDS.w ∧
      (updated a k b s).fld (.msaStat hub) MSA_STAT_FOVF =
        satAdd 65535 (s.fld (.msaStat hub) MSA_STAT_FOVF) (addBytes k (b.length / addWidth k) (s.rd a b.length) b).2.1 ∧
      (updated a k b s).fld (.msaStat hub) MSA_STAT_ISAT =
        satAdd 65535 (s.fld (.msaStat hub) MSA_STAT_ISAT) (addBytes k (b.length / addWidth k) (s.rd a b.length) b).2.2 ∧
      RegsBut [.msaStat hub] s (updated a k b s) := by
  subst hh
  obtain ⟨hadds, hfovf, hisat⟩ := fld_countAdd (s := s.wr a (addBytes k (b.length / addWidth k) (s.rd a b.length) b).1) hr ((hubOf a).getD 0) _ _
  exact ⟨hadds, hfovf, hisat, regsBut_countAdd (s.wr a _) _ _ _⟩

theorem hubOf_hbm {a : Nat} (h : a < 12 * hbmSize) : (hubOf a).getD 0 = a / gib / 108 := by
  have hr : regionOf a = .hbm (a / hbmSize) (a % hbmSize) := by rw [regionOf, if_pos h]
  have hsize : hbmSize * 3 = gib * 108 := by decide
  rw [hubOf, hr, Option.getD_some, Nat.div_div_eq_div_mul, hsize, Nat.div_div_eq_div_mul]

/-! ### What a read and a write within one block of DRAM do -/

section
variable {s : State} {src a n : Nat} {e : MemErr}

theorem servesAll_of_reach (hn : 1 ≤ n) (hb : a % 256 + n ≤ 256) (ha : a < spBase) (h : s.mayReach src a = true)
    (hl : s.mayReach src (a + n - 1) = true) : s.servesAll src a n = true := by
  rw [servesAll_of_offDies (offDies_of_lt ha) (offDies_of_lt (last_lt_spBase ha hn hb)), h, hl, Bool.and_self]

/-- A read that meets no error, or an error that the hardware notes. -/
theorem narrow_read_served (hn : 1 ≤ n) (hb : a % 256 + n ≤ 256) (ha : a < spBase) (h : s.mayReach src a = true)
    (hl : s.mayReach src (a + n - 1) = true) (hc : s.converting a = false) (he : e = .good ∨ s.inPlain a = false ∧ (e = .ce ∨ e = .ue)) :
    Noted s (s.readErr a e) ∧ s.narrow src (.addr a) n none e = if uncorrectable a e = true ∨ s.lostIn a n = true
      then (s.readErr a e).refuseEnd src a 4 else (s.readErr a e).emit (.readResp src a (s.rd a n)) := by
  have hnoted : Noted s (s.readErr a e) := noted_readErr (offDies_of_lt ha) (he.imp id And.right)
  have hplain : (s.readErr a e).inPlain a = false ∨ e = .good := by
    rw [hnoted.inPlain]
    exact he.symm.imp And.left id
  have hread := readPlain_served (offDies_of_lt ha) (offDies_of_lt (last_lt_spBase ha hn hb)) (servesAll_of_reach hn hb ha h hl) hc hplain
  have hrd : (s.readErr a e).rd a n = s.rd a n := by rw [State.rd, hnoted.mem, State.rd]
  rw [hnoted.lostIn, hrd] at hread
  refine ⟨hnoted, ?_⟩
  split
  next hno =>
    rw [if_pos hno] at hread
    exact narrow_read hn hb (offDies_of_lt ha) hread
  next hno =>
    rw [if_neg hno] at hread
    exact narrow_read hn hb (offDies_of_lt ha) hread

theorem one_le_length {b : List Byte} (hb : b ≠ []) : 1 ≤ b.length := List.length_pos_iff.2 hb

theorem narrow_write_served {b : List Byte} (hb : b ≠ []) (hblk : a % 256 + b.length ≤ 256) (ha : a < spBase) (h : s.mayReach src a = true)
    (hl : s.mayReach src (a + b.length - 1) = true) (hc : s.converting a = false) (hlost : s.lostIn a b.length = false) :
    s.narrow src (.addr a) b.length (some b) e = (s.sharedWrite src b.length [(a, b.length)] none fun s => s.wr a b).1 := by
  have hn := one_le_length hb
  have hplain : s.writePlain src a (bytesAt b 0 b.length) none = s.sharedWrite src b.length [(a, b.length)] none fun s => s.wr a b := by
    rw [bytesAt_self]
    exact writePlain_served hb (offDies_of_lt ha) (offDies_of_lt (last_lt_spBase ha hn hblk)) h hl hc hlost
  have hacc := (sharedWrite_mem (src := src) (n := b.length) (who := none) (f := fun s => s.wr a b) s [(a, b.length)]).1
  generalize s.sharedWrite src b.length [(a, b.length)] none (fun s => s.wr a b) = r at hplain hacc ⊢
  obtain ⟨t, acc⟩ := r
  rw [narrow_write hn hblk (offDies_of_lt ha) hplain]
  rcases hacc with rfl | rfl <;> rfl

theorem bytesAt_ne_nil {b : List Byte} (hn : 1 ≤ n) : bytesAt b 0 n ≠ [] := fun h => by
  have hlen := length_bytesAt b 0 n
  rw [h, List.length_nil] at hlen
  omega

theorem narrow_held (hn : 1 ≤ n) (hb : a % 256 + n ≤ 256) (ha : a < spBase) (h : s.mayReach src a = true)
    (hl : s.mayReach src (a + n - 1) = true) (hc : s.converting a = true) (d : Option (List Byte)) :
    s.narrow src (.addr a) n d e = s.hold ⟨src, .addr a, n, d, 0, none⟩ := by
  cases d with
  | none => exact narrow_read hn hb (offDies_of_lt ha) (readPlain_held (servesAll_of_reach hn hb ha h hl) hc)
  | some b =>
    exact narrow_write hn hb (offDies_of_lt ha) (writePlain_held (bytesAt_ne_nil hn) (offDies_of_lt ha) h (by rwa [length_bytesAt]) hc)

theorem narrow_refused (hn : 1 ≤ n) (hb : a % 256 + n ≤ 256) (ha : OffDies a) (h : s.mayReach src a = false) (d : Option (List Byte)) :
    s.narrow src (.addr a) n d e = s.addrFault src a := by
  cases d with
  | none =>
    have hserves : s.servesAll src a n = false := by
      have hfirst : s.serves src a = false := by rcases ha with hr | hr | hr | hr <;> simp only [State.serves, hr, h]
      rw [State.servesAll, hfirst, Bool.false_and, Bool.false_and]
    exact narrow_read hn hb ha (readPlain_refused hserves)
  | some b => exact narrow_write hn hb ha (writePlain_refused (bytesAt_ne_nil hn) ha h)

end

/-- An access outside the requester's granules, of a unit of a quad. -/
theorem addrFault_quad (s : State) {src : Nat} (hq : isQuadUnit src = true) (a : Nat) :
    (s.addrFault src a).mem = s.mem ∧ (s.addrFault src a).outbox = s.outbox ∧ Raised (s.quadLog (src / 16)) src 0x0306 [] s (s.addrFault src a) := by
  obtain ⟨hraised, -, hframe⟩ := faulted_quadFault (code := 0x0306) (by decide) s (src / 16) src []
  rw [State.addrFault, if_pos hq]
  exact ⟨by rw [hframe], by rw [hframe], hraised⟩

end Sys2Proof.Proofs.MemoryPathsAndAdds

section

open Sys2Proof Sys2Proof.Machine Sys2Proof.Safety Sys2Proof.Proofs.MemoryPathsAndAdds
open Sys2Proof.Proofs.QueriesAndTheirCompletions (length_leBytes ofLE_leBytes)
open Sys2Proof.Proofs.SketchRegionsTideAndTemperature (raise_silent raised_raiseRec)

/-- Settles O27, clause by clause: reads (served, with a corrected error, refused), writes (alone, and with sharers), what waits, what is
refused, and adds (served, of INT32, waiting, of a reserved type, with a fault). -/
theorem memoryPathsAndAdds : Obligations.MemoryPathsAndAdds := by
  unfold Obligations.MemoryPathsAndAdds
  refine ⟨?_, ?_, ?_, ?_, ?_, ?_, ?_, ?_, ?_, ?_, ?_, ?_, ?_⟩
  · intro s src a n hn hb ha _ h hl hc hlost
    have hread := (narrow_read_served (e := .good) hn hb ha h hl hc (.inl rfl)).2
    rw [if_neg (by simp [uncorrectable, hlost]), readErr_good (offDies_of_lt ha)] at hread
    rw [exec_narrow, hread]
  · intro s src a n hn hb ha _ h hl hc hlost hp
    obtain ⟨hnoted, hread⟩ := narrow_read_served (e := .ce) hn hb ha h hl hc (.inr ⟨hp, .inl rfl⟩)
    rw [if_neg (by simp [uncorrectable, hlost])] at hread
    refine ⟨_, (exec_narrow ..).trans (congrArg _ hread), ?_, hnoted.mem⟩
    rw [State.emit, hnoted.outbox]
  · intro s src a n e hn hb ha _ h hl hc hp hq he
    have herr : e = .good ∨ s.inPlain a = false ∧ (e = .ce ∨ e = .ue) := he.elim (fun h => .inr ⟨hp, .inr h⟩) fun h => .inl h.1
    have hno : uncorrectable a e = true ∨ s.lostIn a n = true := he.elim (fun h => .inl (by rw [h]; rfl)) fun h => .inr h.2
    obtain ⟨hnoted, hread⟩ := narrow_read_served hn hb ha h hl hc herr
    rw [if_pos hno, refuseEnd_unserved hq] at hread
    refine ⟨_, (exec_narrow ..).trans (congrArg _ hread), ?_, hnoted.mem⟩
    rw [State.emit, hnoted.outbox]
  · intro s src a b hm hb hblk ha _ h hl hc hlost hu
    refine ⟨s.wr a b, ?_, memRead_memWrite _ _ _ hm, memBut_wr s a b, rfl⟩
    rw [exec_narrow, narrow_write_served hb hblk ha h hl hc hlost, sharedWrite_unshared hu]
  · intro s src a b hm hb hblk ha _ h hl hc hlost
    obtain ⟨-, v, hv, hmem⟩ := sharedWrite_mem (src := src) (n := b.length) (who := none) (f := fun s => s.wr a b) s [(a, b.length)]
    refine ⟨_, (exec_narrow ..).trans (congrArg _ (narrow_write_served hb hblk ha h hl hc hlost)), ?_⟩
    rw [hmem]
    exact memRead_memWrite _ _ _ (by rwa [hv])
  · intro s src a n d e hn hb ha _ h hl hc
    rw [exec_narrow, narrow_held hn hb ha h hl hc d]
  · intro s src a n d e hn hb ha hq h
    rw [exec_narrow, narrow_refused hn hb (offDies_of_dram ha) h d, State.addrFault, hq, if_neg Bool.false_ne_true]
  · intro s src a n d e hn hb ha hq h
    exact ⟨_, (exec_narrow ..).trans (congrArg _ (narrow_refused hn hb (offDies_of_dram ha) h d)), addrFault_quad s hq a⟩
  · intro s src a k b hm hr hk hk' hb hlen hw ha _ h hl hc hlost hu hp
    have hadd := (memAdd_inForm hk (by omega) hb hlen fun _ => hw).2 _ _
      ((writeEnd_add hk hk' (offDies_of_lt ha) hp).trans (addAddr_served hb h hl hc hlost hu))
    obtain ⟨hread, hrest⟩ := updated_mem (a := a) hm hw
    obtain ⟨hadds, hfovf, hisat, hregs⟩ := updated_counts (a := a) (k := k) (b := b) hr rfl
    obtain ⟨rs, he⟩ := updated_eq a k b s
    exact ⟨updated a k b s, (exec_memAdd ..).trans (congrArg _ hadd), hread, hrest, hadds, hfovf, hisat, hregs, by rw [he]⟩
  · intro s src a x hm hr hal ha h hl hc hlost hu hx
    have hsp : a < spBase := ha.trans (by decide)
    have hlen : (leBytes 4 x).length = 4 := length_leBytes 4 x
    have hone : (leBytes 4 x).length / addWidth 4 = 1 := by rw [hlen]; rfl
    have hb : leBytes 4 x ≠ [] := fun hnil => by simp [hnil] at hlen
    have hp : ∀ n o, regionOf a = .sketch n o → s.plainBlock n o = false := fun n o ho => by
      rw [regionOf, if_pos ha] at ho
      exact Region.noConfusion ho
    have hadd := (memAdd_inForm (k := 4) (by decide) (by decide) hb (by omega) fun _ => by rw [hlen]; rfl).2 _ _
      ((writeEnd_add (by decide) (by decide) (offDies_of_lt hsp) hp).trans
        (addAddr_served hb h (by rwa [hlen]) hc (by rwa [hlen]) (by rwa [hlen])))
    obtain ⟨hread, hrest⟩ := updated_mem (a := a) (k := 4) (b := leBytes 4 x) hm (by rw [hlen]; rfl)
    obtain ⟨hadds, -, -, hregs⟩ := updated_counts (k := 4) (b := leBytes 4 x) hr (hubOf_hbm ha)
    obtain ⟨rs, he⟩ := updated_eq a 4 (leBytes 4 x) s
    have hold : (s.rd a 4).length = 4 := memRead_length _ _ _
    rw [hone, hlen, addBytes_int32 hold hx] at hread
    rw [hlen] at hrest
    refine ⟨updated a 4 (leBytes 4 x) s, (exec_memAdd ..).trans (congrArg _ hadd), ?_, hrest, hadds, hregs, by rw [he]⟩
    rw [State.rdLE, State.rd, hread, ofLE_leBytes]
    exact Nat.mod_mod _ _
  · intro s src a k b _ _ hk hk' hb hlen hw ha _ h hl hc hp
    have hadd := (memAdd_inForm hk (by omega) hb hlen fun _ => hw).2 _ _
      ((writeEnd_add hk hk' (offDies_of_lt ha) hp).trans (addAddr_held hb h hl hc))
    exact (exec_memAdd ..).trans (congrArg _ hadd)
  · intro s src a k b hk hk' hb hlen hq
    have hadd := (memAdd_inForm (s := s) (src := src) (a := a) (by omega) hk' hb hlen fun h7 => absurd h7 (by omega)).2 _ _ (writeEnd_reserved hk)
    rw [raise_silent (by decide)] at hadd
    exact ⟨_, (exec_memAdd ..).trans (congrArg _ (hadd.trans (refuseEnd_unserved hq))), raised_raiseRec rfl rfl _ _ _ _, rfl, rfl⟩
  · intro s src a k b hk hk' hb hlen hw hq
    rw [exec_memAdd, (memAdd_inForm hk hk' hb hlen hw).1, refuseEnd_unserved hq]

end

/-! Proof of O26: OBJ_CREATE, OBJ_FREE, OBJ_MOVE, MOVE_TILE_SWITCH and OBJ_SYNC. The lemmas go from the table of objects over charges,
room that is claimed and a tile's copy to the answers of each command. -/

namespace Sys2Proof.Proofs.ObjectCommands

open Sys2Proof Sys2Proof.Machine Sys2Proof.Safety
open Sys2Proof.Proofs.QueriesAndTheirCompletions (find?_mapIf)
open Sys2Proof.Proofs.RankingModelsAndTables (regsBut_setFld regsBut_chargeTo use_chargeTo_self)
open Sys2Proof.Proofs.SketchRegionsTideAndTemperature (regsBut_trans regsBut_mono regsBut_of_regs OnlyRegs onlyRegs_setFld)
open Sys2Proof.Proofs.ResetsTheFlushAndRecovery (program_eq)

/-! ### Objects by their handles (11 R251) -/

theorem handle_of_obj {s : State} {h : Nat} {o : Obj} (ho : s.obj h = some o) : o.handle = h := by simpa using List.find?_some ho

section
variable {s : State} {h : Nat} {f : Obj → Obj}

theorem obj_of_objs {t : State} (he : t.tier.objs = s.tier.objs) (k : Nat) : t.obj k = s.obj k := by rw [State.obj, he, State.obj]

/-- The first element of a key, of a list in which those of that key changed and kept it. -/
theorem find?_mapIf_key {α : Type} (key : α → Nat) (f : α → α) (hf : ∀ a, key (f a) = key a) (k : Nat) (l : List α) :
    (mapIf (fun a => decide (key a = k)) f l).find? (fun a => decide (key a = k)) = (l.find? fun a => decide (key a = k)).map f :=
  find?_mapIf _ f (fun a => by rw [hf]) l

theorem obj_mapObj_self (hf : ∀ o, (f o).handle = o.handle) : (s.mapObj h f).obj h = (s.obj h).map f :=
  find?_mapIf_key Obj.handle f hf h s.tier.objs

/-- The first element of another key is as it was. -/
theorem find?_mapIf_key_ne {α : Type} (key : α → Nat) (f : α → α) (hf : ∀ a, key (f a) = key a) {j k : Nat} (hjk : j ≠ k) (l : List α) :
    (mapIf (fun a => decide (key a = k)) f l).find? (fun a => decide (key a = j)) = l.find? fun a => decide (key a = j) := by
  induction l with
  | nil => rfl
  | cons a l ih =>
    rw [mapIf, List.map_cons, ← mapIf, List.find?_cons, List.find?_cons, ih]
    by_cases ha : key a = k <;> simp [ha, hf, hjk.symm]

theorem obj_mapObj_ne (hf : ∀ o, (f o).handle = o.handle) {k : Nat} (hk : k ≠ h) : (s.mapObj h f).obj k = s.obj k :=
  find?_mapIf_key_ne Obj.handle f hf hk s.tier.objs

theorem mapIf_of_none (ho : s.obj h = none) : mapIf (·.handle = h) f s.tier.objs = s.tier.objs := by
  refine (List.map_congr_left fun o hm => ?_).trans (List.map_id _)
  exact if_neg (List.find?_eq_none.1 ho o hm)

end

/-! ### Charges (11 R255) -/

/-- The words of a tenant's four tiers. -/
abbrev tierRegs (t : Nat) : List Reg := [.tnTier (4 * t), .tnTier (4 * t + 1), .tnTier (4 * t + 2), .tnTier (4 * t + 3)]

theorem tnTier_mem_tierRegs (t : Nat) {k : Nat} (hk : k < 4) : Reg.tnTier (4 * t + k) ∈ tierRegs t := by
  rcases (by omega : k = 0 ∨ k = 1 ∨ k = 2 ∨ k = 3) with rfl | rfl | rfl | rfl <;> simp

theorem regOff_tnTier_ne {i j : Nat} (h : i ≠ j) : regOff (.tnTier i) ≠ regOff (.tnTier j) := by
  simp only [regOff]
  omega

section
variable {s : State}

theorem onlyRegs_setUse (s : State) (t k u : Nat) : OnlyRegs s (s.setUse t k u) := onlyRegs_setFld s _ _ _

theorem regsBut_setUse (s : State) (t k u : Nat) : RegsBut [.tnTier (4 * t + k)] s (s.setUse t k u) := regsBut_setFld s _ _ _

theorem use_lt (s : State) (t k : Nat) : s.use t k < 2 ^ 32 := s.fld_lt _ _

theorem use_setUse_ne (s : State) (t u : Nat) {j k : Nat} (h : j ≠ k) : (s.setUse t k u).use t j = s.use t j :=
  State.fld_setFld_ne _ _ _ _ _ _ (regOff_tnTier_ne (by omega))

theorem use_release_self (h : RegsOk s) (t k u : Nat) : (s.release t k u).use t k = s.use t k - u := by
  have hlt := use_lt s t k
  have hw : min (s.use t k - u) (2 ^ 32 - 1) < 2 ^ TN_TIER_USE.w := by
    simp only [TN_TIER_USE]
    omega
  rw [State.release, State.setUse, State.use, State.fld_setFld_self _ _ _ _ h (by decide), Nat.mod_eq_of_lt hw]
  omega

/-- The charges of an object, by tier, are released. -/
def released (t : Nat) (charged : Tab Nat) (n : Nat) (s : State) : State :=
  (List.range n).foldl (fun (s : State) k => s.release t k (tgetD 0 charged k)) s

theorem released_succ (t : Nat) (charged : Tab Nat) (n : Nat) (s : State) :
    released t charged (n + 1) s = (released t charged n s).release t n (tgetD 0 charged n) := by
  rw [released, List.range_succ, List.foldl_append]
  rfl

theorem onlyRegs_released (t : Nat) (charged : Tab Nat) (n : Nat) (s : State) : OnlyRegs s (released t charged n s) := by
  induction n with
  | zero => exact ⟨s.regs, rfl⟩
  | succ n ih =>
    rw [released_succ]
    exact ih.trans (onlyRegs_setUse _ _ _ _)

theorem regsOk_released (h : RegsOk s) (t : Nat) (charged : Tab Nat) (n : Nat) : RegsOk (released t charged n s) :=
  List.foldlRecOn (motive := fun t : State => RegsOk t) _ _ h fun u hu _ _ => u.regsOk_setFld _ _ _ hu

theorem regsBut_released (t : Nat) (charged : Tab Nat) {n : Nat} (hn : n ≤ 4) (s : State) : RegsBut (tierRegs t) s (released t charged n s) := by
  induction n with
  | zero => exact regsBut_of_regs _ rfl
  | succ n ih =>
    rw [released_succ]
    refine regsBut_trans (ih (by omega)) (regsBut_mono (regsBut_setUse _ _ _ _) ?_)
    exact List.cons_subset.2 ⟨tnTier_mem_tierRegs t (by omega), List.nil_subset _⟩

/-- A tier's charge is released once. -/
theorem use_released (h : RegsOk s) (t : Nat) (charged : Tab Nat) (n j : Nat) :
    (released t charged n s).use t j = if j < n then s.use t j - tgetD 0 charged j else s.use t j := by
  induction n with
  | zero => rfl
  | succ n ih =>
    rw [released_succ]
    by_cases hj : j = n
    · subst hj
      rw [use_release_self (regsOk_released h t charged j), ih, if_neg (Nat.lt_irrefl j), if_pos (Nat.lt_succ_self j)]
    · rw [State.release, use_setUse_ne _ _ _ hj, ih]
      simp only [show j < n + 1 ↔ j < n by omega]

/-- The charges of object `o` brought to what its places say. -/
def recharged (o : Obj) (s : State) : State :=
  (List.range 4).foldl (fun (s : State) k => (s.release o.tenant k (tgetD 0 o.charged k)).chargeTo o.tenant k (o.units k)) s

/-- The object with the charges that its places say. -/
def withCharges (o : Obj) : Obj := { o with charged := (List.range 4).foldl (fun t k => tsetD 0 t k (o.units k)) [] }

theorem recharge_of_obj {h : Nat} {o : Obj} (ho : s.obj h = some o) : s.recharge h = (recharged o s).mapObj h withCharges := by
  rw [State.recharge, ho]
  rfl

theorem onlyRegs_recharged (o : Obj) (s : State) : OnlyRegs s (recharged o s) :=
  List.foldlRecOn (motive := OnlyRegs s) _ _ ⟨s.regs, rfl⟩ fun u hu _ _ => hu.trans ((onlyRegs_setUse u _ _ _).trans (onlyRegs_setUse _ _ _ _))

theorem regsBut_recharged (o : Obj) (s : State) : RegsBut (tierRegs o.tenant) s (recharged o s) := by
  refine List.foldlRecOn (motive := RegsBut (tierRegs o.tenant) s) _ _ (regsBut_of_regs _ rfl) fun u hu k hk => regsBut_trans hu ?_
  have hword : ([.tnTier (4 * o.tenant + k)] : List Reg) ⊆ tierRegs o.tenant :=
    List.cons_subset.2 ⟨tnTier_mem_tierRegs _ (List.mem_range.1 hk), List.nil_subset _⟩
  exact regsBut_mono (regsBut_trans (regsBut_setUse u _ _ _) (regsBut_chargeTo _ _ _ _)) hword

end

/-! ### Room that is claimed (15 R352) -/

/-- The address lies in the extent. -/
abbrev Within (a : Nat) (x : Nat × Nat) : Prop := x.1 ≤ a ∧ a < x.1 + x.2

/-- Another tenant than `t` freed the address, and nobody wiped it. -/
def Freed (t a : Nat) (ds : List (Nat × Nat × Nat)) : Prop := ∃ d ∈ ds, d.1 ≠ t ∧ Within a d.2

/-- What one freed extent `d` has of the extent `x` is wiped for tenant `t`. -/
def wipeFreed (t : Nat) (x : Nat × Nat) (s : State) (d : Nat × Nat × Nat) : State :=
  if d.1 ≠ t ∧ max d.2.1 x.1 < min (d.2.1 + d.2.2) (x.1 + x.2) then
    s.wipe (max d.2.1 x.1) (min (d.2.1 + d.2.2) (x.1 + x.2) - max d.2.1 x.1)
  else s

/-- Extent `x` is taken for tenant `t`. -/
def claimOne (t : Nat) (s : State) (x : Nat × Nat) : State :=
  let v := s.tier.dirty.foldl (wipeFreed t x) s
  { v with tier := { v.tier with dirty := v.tier.dirty.flatMap fun d => (cutRun x d.2).map fun r => (d.1, r) } }

theorem claim_eq (s : State) (t : Nat) (xs : List (Nat × Nat)) : s.claim t xs = xs.foldl (claimOne t) s := rfl

section
variable {s : State} {t a : Nat} {x : Nat × Nat}

theorem memByte_wipeFreed (d : Nat × Nat × Nat) : memByte (wipeFreed t x s d).mem a =
    if d.1 ≠ t ∧ Within a d.2 ∧ Within a x then 0#8 else memByte s.mem a := by
  unfold wipeFreed
  split
  next h =>
    rw [State.wipe, memByte_memWipe]
    refine if_congr ?_ rfl rfl
    omega
  next h => rw [if_neg (by omega)]

theorem memByte_wipeAll (ds : List (Nat × Nat × Nat)) : (Within a x ∧ Freed t a ds → memByte (ds.foldl (wipeFreed t x) s).mem a = 0#8) ∧
    (¬ (Within a x ∧ Freed t a ds) → memByte (ds.foldl (wipeFreed t x) s).mem a = memByte s.mem a) ∧
    (memByte s.mem a = 0#8 → memByte (ds.foldl (wipeFreed t x) s).mem a = 0#8) := by
  induction ds generalizing s with
  | nil => exact ⟨fun ⟨_, _, hd, _⟩ => absurd hd List.not_mem_nil, fun _ => rfl, id⟩
  | cons d ds ih =>
    obtain ⟨hin, hout, hzero⟩ := ih (s := wipeFreed t x s d)
    have hd := memByte_wipeFreed (s := s) (t := t) (a := a) (x := x) d
    rw [List.foldl_cons]
    by_cases hhit : d.1 ≠ t ∧ Within a d.2 ∧ Within a x
    · rw [if_pos hhit] at hd
      exact ⟨fun _ => hzero hd, fun hno => absurd ⟨hhit.2.2, d, List.mem_cons_self, hhit.1, hhit.2.1⟩ hno, fun _ => hzero hd⟩
    · rw [if_neg hhit] at hd
      refine ⟨?_, fun hno => (hout fun ⟨hx, e, he, h⟩ => hno ⟨hx, e, List.mem_cons_of_mem _ he, h⟩).trans hd, fun h0 => hzero (hd.trans h0)⟩
      rintro ⟨hx, e, he, ht, hw⟩
      rcases List.mem_cons.1 he with rfl | he
      · exact absurd ⟨ht, hw, hx⟩ hhit
      · exact hin ⟨hx, e, he, ht, hw⟩

theorem wipeAll_eq (ds : List (Nat × Nat × Nat)) : ∃ m : List Host.Cell, ds.foldl (wipeFreed t x) s = { s with mem := m } := by
  refine List.foldlRecOn (motive := fun u : State => ∃ m, u = { s with mem := m }) ds _ ⟨s.mem, rfl⟩ fun u hu d _ => ?_
  obtain ⟨m, rfl⟩ := hu
  unfold wipeFreed
  split
  · exact ⟨_, rfl⟩
  · exact ⟨m, rfl⟩

theorem mem_cutRun {u r : Nat × Nat} (h : Within a r) (hu : ¬ Within a u) : ∃ c ∈ cutRun u r, Within a c := by
  unfold cutRun
  split
  · exact ⟨r, List.mem_singleton_self r, h⟩
  · by_cases hlow : a < u.1
    · refine ⟨(r.1, u.1 - r.1), List.mem_append_left _ ?_, by omega⟩
      rw [if_pos (by omega)]
      exact List.mem_singleton_self _
    · refine ⟨(u.1 + u.2, r.1 + r.2 - (u.1 + u.2)), List.mem_append_right _ ?_, by omega⟩
      rw [if_pos (by omega)]
      exact List.mem_singleton_self _

/-- A freed address outside the extent stays freed. -/
theorem freed_claimOne (hx : ¬ Within a x) (h : Freed t a s.tier.dirty) : Freed t a (claimOne t s x).tier.dirty := by
  obtain ⟨d, hd, ht, hw⟩ := h
  obtain ⟨c, hc, hac⟩ := mem_cutRun hw hx
  obtain ⟨m, hm⟩ := wipeAll_eq (s := s) (t := t) (x := x) s.tier.dirty
  rw [claimOne, hm]
  exact ⟨(d.1, c), List.mem_flatMap.2 ⟨d, hd, List.mem_map.2 ⟨c, hc, rfl⟩⟩, ht, hac⟩

theorem claim_eq_frame (s : State) (t : Nat) (xs : List (Nat × Nat)) : ∃ (m : List Host.Cell) (ds : List (Nat × Nat × Nat)),
    s.claim t xs = { s with mem := m, tier := { s.tier with dirty := ds } } := by
  rw [claim_eq]
  refine List.foldlRecOn (motive := fun u : State => ∃ m ds, u = { s with mem := m, tier := { s.tier with dirty := ds } }) xs _
    ⟨s.mem, s.tier.dirty, rfl⟩ fun u hu x _ => ?_
  obtain ⟨m, ds, rfl⟩ := hu
  obtain ⟨m', hm'⟩ := wipeAll_eq (s := { s with mem := m, tier := { s.tier with dirty := ds } }) (t := t) (x := x) ds
  rw [claimOne, hm']
  exact ⟨m', _, rfl⟩

theorem memByte_claim_zero {xs : List (Nat × Nat)} (h : memByte s.mem a = 0#8) : memByte (s.claim t xs).mem a = 0#8 := by
  rw [claim_eq]
  exact List.foldlRecOn (motive := fun u : State => memByte u.mem a = 0#8) xs _ h fun u hu x _ => (memByte_wipeAll u.tier.dirty).2.2 hu

/-- Of the room taken, what another tenant freed reads 0. -/
theorem memByte_claim_freed {xs : List (Nat × Nat)} {x : Nat × Nat} (hx : x ∈ xs) (hax : Within a x) (h : Freed t a s.tier.dirty) :
    memByte (s.claim t xs).mem a = 0#8 := by
  induction xs generalizing s with
  | nil => exact absurd hx List.not_mem_nil
  | cons y xs ih =>
    rw [claim_eq, List.foldl_cons, ← claim_eq]
    by_cases hay : Within a y
    · exact memByte_claim_zero ((memByte_wipeAll s.tier.dirty).1 ⟨hay, h⟩)
    · have hxs : x ∈ xs := (List.mem_cons.1 hx).resolve_left fun he => hay (he ▸ hax)
      exact ih hxs (freed_claimOne hay h)

theorem memByte_claim_out {xs : List (Nat × Nat)} (h : ∀ x ∈ xs, ¬ Within a x) : memByte (s.claim t xs).mem a = memByte s.mem a := by
  rw [claim_eq]
  refine List.foldlRecOn (motive := fun u : State => memByte u.mem a = memByte s.mem a) xs _ rfl fun u hu x hx => ?_
  exact ((memByte_wipeAll u.tier.dirty).2.1 fun hw => h x hx hw.1).trans hu

end

/-! ### OBJ_CREATE (13 Table 13-6) -/

/-- The bytes of the object that OBJ_CREATE asks for. -/
abbrev askedSize (c : Cmd) : Nat := c.fld 40 4 * c.fld 44 4

/-- What OBJ_CREATE charges to flash: a residence there, a home there, or both as one. -/
abbrev askedFlash (c : Cmd) (tr : Tier) : Nat := if tr = .flash ∨ bitAt c.flags 0 = true then ceilDiv (askedSize c) (2 ^ 20) else 0

/-- The operands of OBJ_CREATE are good, for tier `tr`. -/
structure CreateOk (s : State) (c : Cmd) (tr : Tier) : Prop where
  tier : tierOf (c.fld 48 1) = some tr
  elemb : 1 ≤ c.fld 40 4
  elembMax : c.fld 40 4 ≤ 65536
  elems : 1 ≤ c.fld 44 4
  hub : c.fld 49 1 ≤ 3
  part : c.fld 51 1 ≤ 63
  tenant : c.fld 52 2 ≤ 1023
  stack : stackOk tr (c.fld 49 1) (c.fld 50 1) = true
  tenantOn : s.tenantOk (c.fld 52 2) (c.fld 51 1) = true

theorem tierUnit_of_ne_flash {tr : Tier} (h : tr ≠ .flash) : tierUnit tr.k = 65536 := by
  cases tr
  case flash => exact absurd rfl h
  all_goals rfl

theorem askedFlash_eq (c : Cmd) (tr : Tier) :
    (if tr = .flash then max (ceilDiv (askedSize c) (tierUnit tr.k)) (if bitAt c.flags 0 = true then ceilDiv (askedSize c) (tierUnit 3) else 0)
      else if bitAt c.flags 0 = true then ceilDiv (askedSize c) (tierUnit 3) else 0) = askedFlash c tr := by
  by_cases hf : tr = .flash <;> by_cases hb : bitAt c.flags 0 = true <;> simp [askedFlash, hf, hb, Tier.k, tierUnit]

section
variable {s : State} {c : Cmd} {tr : Tier}

theorem CreateOk.not_bad (h : CreateOk s c tr) : ¬ (c.fld 40 4 = 0 ∨ 65536 < c.fld 40 4 ∨ c.fld 44 4 = 0 ∨ 3 < c.fld 49 1 ∨
    stackOk tr (c.fld 49 1) (c.fld 50 1) = false ∨ 63 < c.fld 51 1 ∨ 1023 < c.fld 52 2 ∨ s.tenantOk (c.fld 52 2) (c.fld 51 1) = false) := by
  obtain ⟨_, _, _, _, _, _, _, hst, hon⟩ := h
  rw [hst, hon]
  simp only [Bool.true_eq_false, false_or, or_false]
  omega

theorem objCreate_invalid (h : tierOf (c.fld 48 1) = none ∨ c.fld 40 4 = 0 ∨
    65536 < c.fld 40 4 ∨ c.fld 44 4 = 0 ∨ 3 < c.fld 49 1 ∨ stackOk ((tierOf (c.fld 48 1)).getD .hbm) (c.fld 49 1)
    (c.fld 50 1) = false ∨ 63 < c.fld 51 1 ∨ 1023 < c.fld 52 2 ∨ s.tenantOk (c.fld 52 2) (c.fld 51 1) = false) :
    s.objCreate c = s.finish c.n stInvalidParameter 0 0 [] := by
  rw [State.objCreate]
  cases htr : tierOf (c.fld 48 1) with
  | none => rfl
  | some tr =>
    rw [htr] at h
    exact if_pos (h.resolve_left (Option.some_ne_none tr))

/-- The quotas that OBJ_CREATE asks of the tier and of flash. -/
abbrev AskedQuota (s : State) (c : Cmd) (tr : Tier) : Prop :=
  (tr ≠ .flash ∧ s.quotaOk (c.fld 52 2) tr.k (ceilDiv (askedSize c) 65536) = false) ∨ s.quotaOk (c.fld 52 2) 3 (askedFlash c tr) = false

theorem askedQuota_iff : ((tr ≠ .flash ∧ s.quotaOk (c.fld 52 2) tr.k (ceilDiv (askedSize c) (tierUnit tr.k)) = false) ∨
    s.quotaOk (c.fld 52 2) 3 (askedFlash c tr) = false) ↔ AskedQuota s c tr :=
  or_congr_left (and_congr_right fun h => by rw [tierUnit_of_ne_flash h])

theorem objCreate_quota (hc : CreateOk s c tr) (hq : AskedQuota s c tr) : s.objCreate c = s.finish c.n stQuota 0 0 [] := by
  simp only [State.objCreate, hc.tier, if_neg hc.not_bad, askedFlash_eq]
  exact if_pos (askedQuota_iff.2 hq)

theorem objCreate_capacity (hc : CreateOk s c tr) (hq : ¬ AskedQuota s c tr) (hr : s.flashRoom (c.fld 51 1) (askedFlash c tr) = false ∨
    s.findRoom (c.fld 51 1) tr (c.fld 49 1) (c.fld 50 1) (askedSize c) = none ∨
    pickFree (Config.freeChoice s.fresh) (2 ^ 20) ((s.tier.objs.filter (·.hub = c.fld 49 1)).map Obj.number) = none) :
    s.objCreate c = s.finish c.n stCapacity 0 0 [] := by
  simp only [State.objCreate, hc.tier, if_neg hc.not_bad, askedFlash_eq]
  rw [if_neg (mt askedQuota_iff.1 hq)]
  by_cases hf : s.flashRoom (c.fld 51 1) (askedFlash c tr) = false
  · exact if_pos hf
  rw [if_neg hf]
  split
  next xs m hx hm => exact absurd (hr.resolve_left hf) (not_or.2 ⟨by simp [hx], fun h => Option.some_ne_none m (hm.symm.trans h)⟩)
  next => rfl

/-- The object that OBJ_CREATE makes of number `m` over the extents `xs`. -/
def newObj (s : State) (c : Cmd) (tr : Tier) (xs : List (Nat × Nat)) (m : Nat) : Obj :=
  { hub := c.fld 49 1, number := m, salt := tgetD 0 s.tier.salts (c.fld 49 1 * 2 ^ 20 + m), tenant := c.fld 52 2, part := c.fld 51 1,
    elemb := c.fld 40 4, elems := c.fld 44 4, tier := tr,
    pieces := if tr = .flash then [⟨0, askedSize c, none⟩] else toPieces 0 (askedSize c) xs, hasHome := bitAt c.flags 0 }

/-- The room is the object's, and nothing is charged yet. -/
def placed (s : State) (t : Nat) (xs : List (Nat × Nat)) (o : Obj) : State :=
  { s.drew.claim t xs with tier := { (s.drew.claim t xs).tier with objs := (s.drew.claim t xs).tier.objs ++ [o] } }

theorem objCreate_success {xs : List (Nat × Nat)} {m : Nat} (hc : CreateOk s c tr) (hq : ¬ AskedQuota s c tr)
    (hr : s.flashRoom (c.fld 51 1) (askedFlash c tr) = true)
    (hx : s.findRoom (c.fld 51 1) tr (c.fld 49 1) (c.fld 50 1) (askedSize c) = some xs)
    (hm : pickFree (Config.freeChoice s.fresh) (2 ^ 20) ((s.tier.objs.filter (·.hub = c.fld 49 1)).map Obj.number) = some m) :
    s.objCreate c = ((placed s (c.fld 52 2) xs (newObj s c tr xs m)).recharge (newObj s c tr xs m).handle).finish c.n stSuccess
      (newObj s c tr xs m).handle 0 [] := by
  have hroom : ¬ s.flashRoom (c.fld 51 1) (askedFlash c tr) = false := by simp [hr]
  simp only [State.objCreate, hc.tier, if_neg hc.not_bad, askedFlash_eq]
  rw [if_neg (mt askedQuota_iff.1 hq), if_neg hroom]
  simp only [hx, hm]
  rfl

end

section
variable {s t : State} {o : Obj}

/-- Beside the freed extents and memory, room that is claimed changes nothing. -/
theorem claim_frame (s : State) (t : Nat) (xs : List (Nat × Nat)) : (s.claim t xs).regs = s.regs ∧ (s.claim t xs).evt = s.evt ∧
    (s.claim t xs).quay = s.quay ∧ (s.claim t xs).tier.objs = s.tier.objs := by
  obtain ⟨m, ds, h⟩ := claim_eq_frame s t xs
  rw [h]
  exact ⟨rfl, rfl, rfl, rfl⟩

theorem use_of_regs (h : t.regs = s.regs) (e k : Nat) : t.use e k = s.use e k := by
  rw [State.use, State.fld, State.reg, h]
  rfl

/-- An object of a new handle, put last, is the one that the handle names. -/
theorem obj_append (ht : t.tier.objs = s.tier.objs ++ [o]) (hn : s.obj o.handle = none) : t.obj o.handle = some o := by
  have hs : (s.tier.objs.find? fun x => decide (x.handle = o.handle)) = none := hn
  rw [State.obj, ht, List.find?_append, hs]
  simp

theorem objs_placed (s : State) (e : Nat) (xs : List (Nat × Nat)) (o : Obj) : (placed s e xs o).tier.objs = s.tier.objs ++ [o] :=
  congrArg (· ++ [o]) (claim_frame s.drew e xs).2.2.2

theorem recharge_frame (ho : s.obj o.handle = some o) : (s.recharge o.handle).mem = s.mem ∧ (s.recharge o.handle).evt = s.evt ∧
    (s.recharge o.handle).quay = s.quay ∧ RegsBut (tierRegs o.tenant) s (s.recharge o.handle) := by
  rw [recharge_of_obj ho]
  have hregs := regsBut_recharged o s
  obtain ⟨rs, hrs⟩ := onlyRegs_recharged o s
  rw [hrs] at hregs ⊢
  exact ⟨rfl, rfl, rfl, hregs⟩

theorem objs_recharge (ho : s.obj o.handle = some o) : (s.recharge o.handle).tier.objs = mapIf (·.handle = o.handle) withCharges s.tier.objs := by
  rw [recharge_of_obj ho]
  obtain ⟨rs, hrs⟩ := onlyRegs_recharged o s
  rw [hrs]
  rfl

/-- The charges of a new object make it the last of the table, after the others as they were. -/
theorem objs_recharge_last (hn : s.obj o.handle = none) (ht : t.tier.objs = s.tier.objs ++ [o]) :
    (t.recharge o.handle).tier.objs = s.tier.objs ++ [withCharges o] := by
  have hrest := mapIf_of_none (f := withCharges) hn
  rw [mapIf] at hrest
  rw [objs_recharge (obj_append ht hn), ht, mapIf, List.map_append, hrest]
  simp

end

/-! ### OBJ_FREE -/

section
variable {s : State} {h : Nat} {o : Obj}

theorem obj_filter_self {t : State} (ht : t.tier.objs = s.tier.objs.filter (·.handle ≠ h)) : t.obj h = none := by
  rw [State.obj, ht, List.find?_eq_none]
  intro x hx
  simpa using (List.mem_filter.1 hx).2

theorem obj_filter_ne {t : State} (ht : t.tier.objs = s.tier.objs.filter (·.handle ≠ h)) {k : Nat} (hk : k ≠ h) : t.obj k = s.obj k := by
  rw [State.obj, ht, List.find?_filter, State.obj]
  refine congrArg (s.tier.objs.find? ·) (funext fun x => ?_)
  by_cases hx : x.handle = k <;> simp [hx, hk]

/-- An object that is dropped releases its charges and leaves the table. -/
theorem dropObj_eq (ho : s.obj h = some o) : ∃ (rs : Tab Word) (tr : TierState), released o.tenant o.charged 4 s = { s with regs := rs } ∧
    s.dropObj h = { s with regs := rs, tier := tr } ∧ tr.objs = s.tier.objs.filter (·.handle ≠ h) := by
  obtain ⟨rs, hrs⟩ := onlyRegs_released o.tenant o.charged 4 s
  have hfold := hrs
  rw [released] at hfold
  simp only [State.dropObj, ho, hfold]
  exact ⟨rs, _, hrs, rfl, rfl⟩

theorem objFree_unknown {c : Cmd} (ho : s.obj (c.fld 40 8) = none) : s.objFree c = s.finish c.n stNoObject 0 0 [] := by
  rw [State.objFree, ho]
  rfl

theorem objFree_coll {c : Cmd} (ho : s.obj (c.fld 40 8) = some o) (hc : o.coll = true) : s.objFree c = s.finish c.n stBusy 0 0 [] := by
  simp only [State.objFree, ho, hc, if_true]
  rfl

theorem objFree_resting {c : Cmd} (ho : s.obj (c.fld 40 8) = some o) (hc : o.coll = false) (hm : o.move = none) :
    s.objFree c = (s.dropObj (c.fld 40 8)).finish c.n stSuccess 0 0 [] := by
  simp [State.objFree, ho, hc, hm]

theorem objFree_freed {c : Cmd} {m : Move} (ho : s.obj (c.fld 40 8) = some o) (hc : o.coll = false) (hm : o.move = some m)
    (hf : m.freeBy.isSome = true) : s.objFree c = s.finish c.n stNoObject 0 0 [] := by
  simp [State.objFree, ho, hc, hm, hf, State.refuse]

/-- OBJ_FREE `n` waits for the tile of move `m`. -/
def awaited (m : Move) (n : Nat) (o : Obj) : Obj := { o with move := some { m with freeBy := some n } }

theorem objFree_moving {c : Cmd} {m : Move} (ho : s.obj (c.fld 40 8) = some o) (hc : o.coll = false) (hm : o.move = some m)
    (hf : m.freeBy = none) : s.objFree c = (s.mapObj (c.fld 40 8) (awaited m c.n)).setCmd c.n fun c => { c with st := .running } := by
  simp only [State.objFree, ho, hc, hm, hf, Bool.false_eq_true, if_false, Option.isSome_none]
  rfl

end

/-! ### OBJ_MOVE (11 R253) -/

/-- The first byte, and the one behind the last, of what OBJ_MOVE moves. -/
abbrev moveLo (c : Cmd) (o : Obj) : Nat := c.fld 48 8 * o.elemb
abbrev moveHi (c : Cmd) (o : Obj) : Nat := (c.fld 48 8 + c.fld 56 4) * o.elemb

/-- What OBJ_MOVE charges at its start. -/
abbrev moveUnits (c : Cmd) (o : Obj) (tr : Tier) : Nat :=
  if o.coll = true ∨ (tr = .flash ∧ o.hasHome = true) then 0 else ceilDiv (moveHi c o - moveLo c o) (tierUnit tr.k)

/-- The operands of OBJ_MOVE are good, for object `o` and tier `tr`. -/
structure MoveOk (s : State) (c : Cmd) (o : Obj) (tr : Tier) : Prop where
  obj : s.obj (c.fld 40 8) = some o
  tier : tierOf (c.fld 60 1) = some tr
  count : 1 ≤ c.fld 56 4
  within : c.fld 48 8 + c.fld 56 4 ≤ o.elems
  stack : stackOk tr o.hub (c.fld 61 1) = true
  tenantOn : s.tenantOk o.tenant o.part = true
  coll : o.coll = true → tr ≠ .sketch ∧ s.holdsRows (c.fld 40 8) = false

/-- The quotas that OBJ_MOVE needs and does not have. -/
abbrev MoveQuota (s : State) (c : Cmd) (o : Obj) (tr : Tier) : Prop :=
  s.quotaOk o.tenant tr.k (moveUnits c o tr) = false ∨ (o.coll = true ∧ s.overQuota o.tenant tr.k (moveHi c o - moveLo c o) = true)

/-- The move that OBJ_MOVE starts to the extents `xs`. -/
def moveOf (c : Cmd) (o : Obj) (tr : Tier) (xs : List (Nat × Nat)) : Move :=
  { lo := moveLo c o, hi := moveHi c o, tier := tr, next := moveLo c o, cmd := c.n,
    target := if tr = .flash then [⟨moveLo c o, moveHi c o - moveLo c o, none⟩] else toPieces (moveLo c o) (moveHi c o - moveLo c o) xs }

/-- An object that move `m` takes, which charges `u` units more. -/
def taken (m : Move) (u : Nat) (o : Obj) : Obj :=
  { o with move := some m, charged := tsetD 0 o.charged m.tier.k (tgetD 0 o.charged m.tier.k + u) }

section
variable {s : State} {c : Cmd} {o : Obj} {tr : Tier}

theorem MoveOk.not_bad (h : MoveOk s c o tr) : ¬ (c.fld 56 4 = 0 ∨ o.elems < c.fld 48 8 + c.fld 56 4 ∨ stackOk tr o.hub (c.fld 61 1) = false ∨
    s.tenantOk o.tenant o.part = false ∨ (o.coll = true ∧ (tr = .sketch ∨ s.holdsRows (c.fld 40 8) = true))) := by
  obtain ⟨_, _, hcount, hwithin, hst, hon, hcoll⟩ := h
  rw [hst, hon]
  rintro (h0 | h0 | h0 | h0 | ⟨hc, h0 | h0⟩)
  · omega
  · omega
  · exact absurd h0 Bool.true_eq_false.mp
  · exact absurd h0 Bool.true_eq_false.mp
  · exact (hcoll hc).1 h0
  · exact absurd ((hcoll hc).2.symm.trans h0) Bool.false_ne_true

theorem objMove_unknown (ho : s.obj (c.fld 40 8) = none) : s.objMove c = s.finish c.n stNoObject 0 0 [] := by
  simp only [State.objMove, ho]
  rfl

theorem objMove_invalid (ho : s.obj (c.fld 40 8) = some o) (h : ((tierOf (c.fld 60 1)).isNone || decide (c.fld 56 4 = 0) ||
    decide (o.elems < c.fld 48 8 + c.fld 56 4) || !(stackOk ((tierOf (c.fld 60 1)).getD .hbm) o.hub (c.fld 61 1)) ||
    !(s.tenantOk o.tenant o.part)) = true) : s.objMove c = s.finish c.n stInvalidParameter 0 0 [] := by
  cases htr : tierOf (c.fld 60 1) with
  | none =>
    simp only [State.objMove, ho, htr]
    rfl
  | some tr =>
    simp only [htr, Option.isNone_some, Option.getD_some, Bool.false_or, Bool.or_eq_true, decide_eq_true_eq, Bool.not_eq_true', or_assoc] at h
    simp only [State.objMove, ho, htr]
    refine if_pos ?_
    rcases h with h | h | h | h
    · exact .inl h
    · exact .inr (.inl h)
    · exact .inr (.inr (.inl h))
    · exact .inr (.inr (.inr (.inl h)))

theorem objMove_busy (h : MoveOk s c o tr) (hm : o.move ≠ none) : s.objMove c = s.finish c.n stBusy 0 0 [] := by
  simp only [State.objMove, h.obj, h.tier, if_neg h.not_bad]
  exact if_pos (Option.isSome_iff_ne_none.2 hm)

theorem objMove_quota (h : MoveOk s c o tr) (hm : o.move = none) (hq : MoveQuota s c o tr) : s.objMove c = s.finish c.n stQuota 0 0 [] := by
  simp only [State.objMove, h.obj, h.tier, if_neg h.not_bad, hm, Option.isSome_none, Bool.false_eq_true, if_false]
  exact if_pos hq

theorem objMove_capacity (h : MoveOk s c o tr) (hm : o.move = none) (hq : ¬ MoveQuota s c o tr)
    (hr : (tr = .flash ∧ s.flashRoom o.part (moveUnits c o tr) = false) ∨
      s.findRoom o.part tr o.hub (c.fld 61 1) (moveHi c o - moveLo c o) = none) : s.objMove c = s.finish c.n stCapacity 0 0 [] := by
  simp only [State.objMove, h.obj, h.tier, if_neg h.not_bad, hm, Option.isSome_none, Bool.false_eq_true, if_false]
  rw [if_neg hq]
  by_cases hf : tr = .flash ∧ s.flashRoom o.part (moveUnits c o tr) = false
  · exact if_pos hf
  · rw [if_neg hf]
    simp only [hr.resolve_left hf]
    rfl

theorem objMove_starts {xs : List (Nat × Nat)} (h : MoveOk s c o tr) (hm : o.move = none) (hq : ¬ MoveQuota s c o tr)
    (hf : tr = .flash → s.flashRoom o.part (moveUnits c o tr) = true)
    (hx : s.findRoom o.part tr o.hub (c.fld 61 1) (moveHi c o - moveLo c o) = some xs) :
    s.objMove c = (((s.claim o.tenant xs).chargeTo o.tenant tr.k (moveUnits c o tr)).mapObj (c.fld 40 8)
      (taken (moveOf c o tr xs) (moveUnits c o tr))).setCmd c.n fun c => { c with st := .running } := by
  have hroom : ¬ (tr = .flash ∧ s.flashRoom o.part (moveUnits c o tr) = false) := fun hno => by simp [hf hno.1] at hno
  simp only [State.objMove, h.obj, h.tier, if_neg h.not_bad, hm, Option.isSome_none, Bool.false_eq_true, if_false]
  rw [if_neg hq, if_neg hroom]
  simp only [hx]
  rfl

end

/-! ### A tile of a move (11 R253) -/

/-- Of objects, commands, collections and writes that wait, only the content of `h`'s flash residence may differ. -/
structure TileStep (h : Nat) (s t : State) : Prop where
  quay : t.quay = s.quay
  coll : t.coll = s.coll
  heldW : t.tier.heldW = s.tier.heldW
  others : ∀ k, k ≠ h → t.obj k = s.obj k
  own : ∀ o, s.obj h = some o → ∃ F : Tab Byte, t.obj h = some { o with flash := F }

section
variable {s t u : State} {h : Nat}

theorem tileStep_of_objs (hq : t.quay = s.quay) (hc : t.coll = s.coll) (hw : t.tier.heldW = s.tier.heldW) (ho : t.tier.objs = s.tier.objs) :
    TileStep h s t :=
  ⟨hq, hc, hw, fun k _ => obj_of_objs ho k, fun o hs => ⟨o.flash, (obj_of_objs ho h).trans hs⟩⟩

theorem TileStep.refl (s : State) : TileStep h s s := tileStep_of_objs rfl rfl rfl rfl

theorem TileStep.trans (a : TileStep h s t) (b : TileStep h t u) : TileStep h s u := by
  refine ⟨b.quay.trans a.quay, b.coll.trans a.coll, b.heldW.trans a.heldW, fun k hk => (b.others k hk).trans (a.others k hk), fun o ho => ?_⟩
  obtain ⟨F, hF⟩ := a.own o ho
  exact b.own { o with flash := F } hF

/-- The content of the flash residence, changed by `g`. -/
def flashed (g : Tab Byte → Tab Byte) (o : Obj) : Obj := { o with flash := g o.flash }

theorem handle_flashed (g : Tab Byte → Tab Byte) (o : Obj) : (flashed g o).handle = o.handle := rfl

theorem obj_flashed (s : State) (g : Tab Byte → Tab Byte) : (s.mapObj h (flashed g)).obj h = (s.obj h).map (flashed g) :=
  obj_mapObj_self (handle_flashed g)

theorem tileStep_flashed (s : State) (g : Tab Byte → Tab Byte) : TileStep h s (s.mapObj h (flashed g)) :=
  ⟨rfl, rfl, rfl, fun _ hk => obj_mapObj_ne (handle_flashed g) hk, fun o ho => ⟨g o.flash, by rw [obj_flashed, ho]; rfl⟩⟩

theorem tileStep_snoopLine (s : State) (b l : Nat) : TileStep h s (s.snoopLine b l) := by
  unfold State.snoopLine
  refine List.foldlRecOn (motive := TileStep h s) _ _ (.refl s) fun u hu d _ => hu.trans ?_
  split
  · exact tileStep_of_objs (State.incFld_quay ..) (State.incFld_coll ..) (by simp) (by simp)
  · exact .refl u

theorem tileStep_snoopRange (s : State) (a n : Nat) : TileStep h s (s.snoopRange a n) := by
  unfold State.snoopRange
  split
  · exact List.foldlRecOn (motive := TileStep h s) _ _ (.refl s) fun u hu l _ => hu.trans (tileStep_snoopLine u _ l)
  · exact .refl s

/-- A tile's copy changes memory and its object's flash residence. -/
theorem tileStep_copyTile (s : State) {o : Obj} (ho : o.handle = h) (lo hi : Nat) (target : List Piece) (home : Bool) :
    TileStep h s (s.copyTile o lo hi target home) := by
  subst ho
  unfold State.copyTile
  refine List.foldlRecOn (motive := TileStep o.handle s) _ _ ?_ fun u hu c _ => hu.trans ?_
  · refine List.foldlRecOn (motive := TileStep o.handle s) _ _ (.refl s) fun u hu p _ => hu.trans ?_
    split
    · exact (tileStep_snoopRange u _ _).trans (tileStep_of_objs rfl rfl rfl rfl)
    · exact tileStep_flashed u (tclear fun k => p.off ≤ k && k < p.off + p.len)
  · split
    · split
      · exact tileStep_of_objs rfl rfl rfl rfl
      · exact tileStep_flashed u fun F => tsetD 0#8 F c.1 c.2
    · exact .refl u

/-- Beside flash's registers, its wear and events, bytes programmed change nothing. -/
theorem program_frame (s : State) (n : Nat) : TileStep h s (s.program n) ∧ (s.program n).mem = s.mem ∧ RegsBut [.flStat] s (s.program n) ∧
    (s.program n).quay = s.quay ∧ (s.program n).tier.objs = s.tier.objs := by
  obtain ⟨w, ev, pw, hp⟩ := program_eq s n
  rw [hp]
  exact ⟨tileStep_of_objs rfl rfl rfl rfl, rfl, regsBut_setFld s .flStat FL_STAT_WEAR w, rfl, rfl⟩

end

/-- The object whose move has its tile `[lo, hi)` at its target. -/
def retiled (m : Move) (lo hi : Nat) (o : Obj) : Obj :=
  { o with pieces := rePlace o.pieces lo hi m.target, move := some { m with next := hi },
           flash := if m.tier = .flash then o.flash else tclear (fun k => lo ≤ k && k < hi) o.flash }

theorem handle_retiled (m : Move) (lo hi : Nat) (o : Obj) : (retiled m lo hi o).handle = o.handle := rfl

/-- The tile `[lo, hi)` is copied, and its old places are given up. -/
def copied (o : Obj) (m : Move) (lo hi : Nat) (ue : Bool) (s : State) : State :=
  (if m.tier = .flash then (s.copyTile o lo hi m.target ue).program (hi - lo) else s.copyTile o lo hi m.target ue).giveUp o.tenant
    (o.pieces.flatMap (clipPiece lo hi))

/-- The tile's bytes resolve at the target. -/
def switched (h : Nat) (o : Obj) (m : Move) (lo hi : Nat) (ue : Bool) (s : State) : State :=
  (copied o m lo hi ue s).mapObj h (retiled m lo hi)

section
variable {s : State} {h lo hi : Nat} {o : Obj} {m : Move} {ue : Bool}

theorem tileStep_copied (ho : o.handle = h) : TileStep h s (copied o m lo hi ue s) := by
  have hgive (u : State) : TileStep h u (u.giveUp o.tenant (o.pieces.flatMap (clipPiece lo hi))) := tileStep_of_objs rfl rfl rfl rfl
  refine .trans ?_ (hgive _)
  split
  · exact (tileStep_copyTile s ho _ _ _ _).trans (program_frame _ _).1
  · exact tileStep_copyTile s ho _ _ _ _

/-- The object after its tile's switch, and what the switch leaves. -/
theorem switched_spec (ho : s.obj h = some o) : (∃ F : Tab Byte, (switched h o m lo hi ue s).obj h = some (retiled m lo hi { o with flash := F })) ∧
    (∀ k, k ≠ h → (switched h o m lo hi ue s).obj k = s.obj k) ∧ (switched h o m lo hi ue s).quay = s.quay ∧
    (switched h o m lo hi ue s).coll = s.coll ∧ (switched h o m lo hi ue s).tier.heldW = s.tier.heldW := by
  have hc : TileStep h s (copied o m lo hi ue s) := tileStep_copied (handle_of_obj ho)
  obtain ⟨F, hF⟩ := hc.own o ho
  refine ⟨⟨F, ?_⟩, fun k hk => (obj_mapObj_ne (handle_retiled m lo hi) hk).trans (hc.others k hk), hc.quay, hc.coll, hc.heldW⟩
  rw [switched, obj_mapObj_self (handle_retiled m lo hi), hF]
  rfl

theorem heldW_nil_eta {v : State} (hv : v.tier.heldW = []) : ({ v with tier := { v.tier with heldW := [] } } : State) = v := by rw [← hv]

/-- What follows the switch of a tile, where no write was held for it. -/
def settled (h hi : Nat) (m : Move) (v : State) : State :=
  match m.freeBy with
  | some f => ((v.endMove h stFreed).dropObj h).finish f stSuccess 0 0 []
  | none => if m.hi ≤ hi then v.endMove h stSuccess else v

theorem tileSwitch_eq (ho : s.obj h = some o) (hm : o.move = some m) (hue : ue = false ∨ o.hasHome = true) (hheld : s.tier.heldW = [])
    (hlo : lo = m.next) (hhi : hi = min (lo + 65536) m.hi) : s.tileSwitch h ue = settled h hi m (switched h o m lo hi ue s) := by
  subst hlo hhi
  have hv := (switched_spec (m := m) (lo := m.next) (hi := min (m.next + 65536) m.hi) (ue := ue) ho).2.2.2.2.trans hheld
  have hno : ¬ ((ue = true) ∧ ¬ o.hasHome = true) := fun ⟨h1, h2⟩ => hue.elim (fun h0 => by simp [h0] at h1) h2
  have heta := heldW_nil_eta hv
  unfold switched copied retiled at hv heta ⊢
  simp only [State.tileSwitch, ho, hm, if_neg hno, hv, List.filter_nil, List.foldl_nil, heta]
  rfl

end

/-! ### The end of a move -/

/-- The charges of versions and what they say of their segments' places may differ. -/
structure Followed (s t : State) : Prop where
  quay : t.quay = s.quay
  mem : t.mem = s.mem
  evt : t.evt = s.evt
  tier : t.tier = s.tier

theorem Followed.refl (s : State) : Followed s s := ⟨rfl, rfl, rfl, rfl⟩

theorem Followed.trans {s t u : State} (a : Followed s t) (b : Followed t u) : Followed s u :=
  ⟨b.quay.trans a.quay, b.mem.trans a.mem, b.evt.trans a.evt, b.tier.trans a.tier⟩

theorem followed_chargeBytes (s : State) (t p k : Nat) (f : Nat → Nat) : Followed s (s.chargeBytes t p k f) := by
  constructor <;> simp [State.chargeBytes, State.chargeTo, State.release]

theorem followed_freeAll (s : State) (t p : Nat) (cs : List (Nat × Nat)) : Followed s (s.freeAll t p cs) :=
  List.foldlRecOn (motive := Followed s) cs _ (.refl s) fun u h c _ => h.trans (followed_chargeBytes u t p c.1 (· - c.2))

theorem followed_chargeAll (s : State) (t p : Nat) (cs : List (Nat × Nat)) : Followed s (s.chargeAll t p cs) :=
  List.foldlRecOn (motive := Followed s) cs _ (.refl s) fun u h c _ => h.trans (followed_chargeBytes u t p c.1 (· + c.2))

theorem followed_followColl (o : Obj) (s : State) (e : Nat × Option Coll) : Followed s (State.followColl o s e) := by
  unfold State.followColl
  split
  · exact .refl s
  · refine .trans ?_ (t := List.foldl _ s _) ⟨rfl, rfl, rfl, rfl⟩
    exact List.foldlRecOn (motive := Followed s) _ _ (.refl s) fun u h v _ => h.trans ((followed_freeAll u ..).trans (followed_chargeAll _ ..))

theorem followed_followMove (s : State) (h : Nat) : Followed s (s.followMove h) := by
  unfold State.followMove
  split
  · split
    · exact List.foldlRecOn (motive := Followed s) _ _ (.refl s) fun u h e _ => h.trans (followed_followColl _ u e)
    · exact .refl s
  · exact .refl s

/-- An object of no collection has no versions whose charges follow it. -/
theorem followMove_plain {s : State} {h : Nat} {o : Obj} (ho : s.obj h = some o) (hc : o.coll = false) : s.followMove h = s := by
  simp [State.followMove, ho, hc]

/-- The object after its move `m`. -/
def rested (m : Move) (o : Obj) : Obj := { o with move := none, tier := if m.hi ≤ m.next ∧ m.lo = 0 ∧ m.hi = o.size then m.tier else o.tier }

theorem handle_rested (m : Move) (o : Obj) : (rested m o).handle = o.handle := rfl

theorem handle_withCharges (o : Obj) : (withCharges o).handle = o.handle := rfl

/-- The move of `o` has ended, and its charges are brought to its places. -/
def movedIn (h : Nat) (o : Obj) (m : Move) (s : State) : State :=
  ((s.giveUp o.tenant (m.target.flatMap (clipPiece m.next m.hi))).mapObj h (rested m)).recharge h

section
variable {s : State} {h : Nat} {o : Obj} {m : Move}

theorem endMove_eq (ho : s.obj h = some o) (hm : o.move = some m) (st : Nat) :
    s.endMove h st = ((movedIn h o m s).followMove h).finish m.cmd st 0 0 [] := by
  simp only [State.endMove, ho, hm]
  rfl

theorem movedIn_spec (ho : s.obj h = some o) : (movedIn h o m s).obj h = some (withCharges (rested m o)) ∧
    (∀ k, k ≠ h → (movedIn h o m s).obj k = s.obj k) ∧ (movedIn h o m s).quay = s.quay ∧ (movedIn h o m s).mem = s.mem ∧
    (movedIn h o m s).evt = s.evt ∧ (movedIn h o m s).coll = s.coll := by
  have hgive : (s.giveUp o.tenant (m.target.flatMap (clipPiece m.next m.hi))).obj h = some o := (obj_of_objs rfl h).trans ho
  have hrest : ((s.giveUp o.tenant (m.target.flatMap (clipPiece m.next m.hi))).mapObj h (rested m)).obj h = some (rested m o) := by
    rw [obj_mapObj_self (handle_rested m), hgive]
    rfl
  rw [movedIn, recharge_of_obj hrest]
  obtain ⟨rs, hrs⟩ := onlyRegs_recharged (rested m o) ((s.giveUp o.tenant (m.target.flatMap (clipPiece m.next m.hi))).mapObj h (rested m))
  rw [hrs]
  refine ⟨?_, fun k hk => ?_, rfl, rfl, rfl, rfl⟩
  · rw [obj_mapObj_self handle_withCharges]
    exact congrArg (Option.map withCharges) hrest
  · exact (obj_mapObj_ne handle_withCharges hk).trans (obj_mapObj_ne (handle_rested m) hk)

/-- A move that ends answers its command; its object rests where it is, and no other changes. -/
theorem endMove_spec (ho : s.obj h = some o) (hm : o.move = some m) (st : Nat) : (s.endMove h st).obj h = some (withCharges (rested m o)) ∧
    (∀ k, k ≠ h → (s.endMove h st).obj k = s.obj k) ∧ Ended m.cmd st 0 0 [] s (s.endMove h st) ∧ (s.endMove h st).mem = s.mem ∧
    (s.endMove h st).evt = s.evt ∧ (o.coll = false → (s.endMove h st).coll = s.coll) := by
  obtain ⟨hself, hothers, hquay, hmem, hevt, hcoll⟩ := movedIn_spec (m := m) ho
  have hf := followed_followMove (movedIn h o m s) h
  have hobjs : (s.endMove h st).tier.objs = (movedIn h o m s).tier.objs := by
    rw [endMove_eq ho hm]
    exact congrArg TierState.objs hf.tier
  refine ⟨(obj_of_objs hobjs h).trans hself, fun k hk => (obj_of_objs hobjs k).trans (hothers k hk), ?_, ?_, ?_, fun hc => ?_⟩
  · rw [endMove_eq ho hm, Ended, ← hquay, ← hf.quay]
    rfl
  · rw [endMove_eq ho hm]
    exact hf.mem.trans hmem
  · rw [endMove_eq ho hm]
    exact hf.evt.trans hevt
  · rw [endMove_eq ho hm, followMove_plain hself hc]
    exact hcoll

end

/-! ### The bytes of an object -/

/-- What a table in canonical form lists is what it reads. -/
theorem tget_of_mem {α : Type} [DecidableEq α] (d : Nat → α) {t : Tab α} {b : Option Nat} (h : twfFrom d b t = true) {e : Nat × α} (he : e ∈ t) :
    tget d t e.1 = e.2 ∧ e.2 ≠ d e.1 := by
  induction t generalizing b with
  | nil => exact absurd he List.not_mem_nil
  | cons x t ih =>
    obtain ⟨_, hne, ht⟩ := (twfFrom_cons d b x t).1 h
    rcases List.mem_cons.1 he with rfl | he
    · exact ⟨by simp [tget], hne⟩
    · obtain ⟨hget, hval⟩ := ih ht he
      refine ⟨?_, hval⟩
      rw [tget, if_neg, hget]
      intro hk
      exact hval (hget.symm.trans (tget_of_below d hk.le ht))

/-- A value that is not the default is listed. -/
theorem mem_of_tget_ne {α : Type} (d : Nat → α) {t : Tab α} {k : Nat} (h : tget d t k ≠ d k) : (k, tget d t k) ∈ t := by
  induction t with
  | nil => exact absurd rfl h
  | cons x t ih =>
    rw [tget] at h ⊢
    split
    next hk => exact hk ▸ List.mem_cons_self
    next hk => exact List.mem_cons_of_mem _ (ih (by rwa [if_neg hk] at h))

/-- The listed bytes written into a table, one after another. -/
def putCells (cells : List (Nat × Byte)) (F : Tab Byte) : Tab Byte := cells.foldl (fun t c => tsetD 0#8 t c.1 c.2) F

/-- Where the listed bytes of place `i` are all `v`, and one is listed unless the table reads `v`, it reads `v`. -/
theorem tgetD_putCells {cells : List (Nat × Byte)} {F : Tab Byte} {i : Nat} {v : Byte} (hne : ∀ c ∈ cells, c.2 ≠ 0#8)
    (hall : ∀ c ∈ cells, c.1 = i → c.2 = v) (hex : (∃ c ∈ cells, c.1 = i) ∨ tgetD 0#8 F i = v) : tgetD 0#8 (putCells cells F) i = v := by
  induction cells generalizing F with
  | nil => exact hex.resolve_left fun ⟨_, hc, _⟩ => absurd hc List.not_mem_nil
  | cons c cells ih =>
    refine ih (fun x hx => hne x (List.mem_cons_of_mem _ hx)) (fun x hx => hall x (List.mem_cons_of_mem _ hx)) ?_
    by_cases hci : c.1 = i
    · refine .inr ?_
      subst hci
      exact (tget_tset_kept (fun _ => 0#8) F _ _ (hne c List.mem_cons_self)).trans (hall c List.mem_cons_self rfl)
    · refine hex.imp (fun ⟨x, hx, hxi⟩ => ⟨x, (List.mem_cons.1 hx).resolve_left fun hxc => hci (hxc ▸ hxi), hxi⟩) fun hF => ?_
      exact (tget_tset_ne (fun _ => 0#8) F _ (Ne.symm hci)).trans hF

section
variable {s : State} {o : Obj} {lo hi i : Nat}

theorem place_one {pl : Option Nat} (hp : o.pieces = [⟨0, o.size, pl⟩]) (hi : i < o.size) : o.place i = pl.map (· + i) := by
  simp [Obj.place, hp, hi]

theorem mem_objCells_flash (hp : o.pieces = [⟨0, o.size, none⟩]) {c : Nat × Byte} :
    c ∈ s.objCells o lo hi ↔ (c ∈ o.flash ∧ c.1 < o.size) ∧ lo ≤ c.1 ∧ c.1 < hi := by
  simp only [State.objCells, hp, List.flatMap_cons, List.flatMap_nil, List.append_nil, List.mem_filter, Bool.and_eq_true, decide_eq_true_eq,
    Nat.zero_add, Nat.zero_le, true_and]

theorem mem_objCells_dram {a : Nat} (hp : o.pieces = [⟨0, o.size, some a⟩]) {c : Nat × Byte} : c ∈ s.objCells o lo hi ↔
    (((a + c.1, c.2) ∈ s.mem ∧ c.1 < o.size ∧ s.byteLost (a + c.1) = false) ∨ (c ∈ o.home ∧ c.1 < o.size ∧ s.byteLost (a + c.1) = true)) ∧
      lo ≤ c.1 ∧ c.1 < hi := by
  simp only [State.objCells, hp, List.flatMap_cons, List.flatMap_nil, List.append_nil, List.mem_filter, List.mem_append, List.mem_map,
    Bool.and_eq_true, decide_eq_true_eq, Bool.not_eq_true', Nat.zero_add, Nat.sub_zero, Nat.zero_le, true_and]
  refine and_congr_left fun _ => or_congr_left ⟨?_, fun ⟨hm, hlt, hlost⟩ => ?_⟩
  · rintro ⟨x, ⟨hm, ⟨hle, hlt⟩, hlost⟩, rfl⟩
    have hx : a + (x.1 - a) = x.1 := by omega
    exact ⟨by rwa [hx], by omega, by rwa [hx]⟩
  · exact ⟨(a + c.1, c.2), ⟨hm, ⟨by simp, by simpa using hlt⟩, hlost⟩, by simp⟩

/-- The listed bytes of an object of one piece are its bytes that are not 0. -/
theorem objCells_spec (hmem : MemOk s) (hhome : twf (fun _ => 0#8) o.home = true) (hflash : twf (fun _ => 0#8) o.flash = true) {pl : Option Nat}
    (hp : o.pieces = [⟨0, o.size, pl⟩]) : (∀ c ∈ s.objCells o lo hi, c.2 ≠ 0#8 ∧ c.2 = s.objByte o c.1) ∧
    ∀ i, lo ≤ i → i < hi → i < o.size → s.objByte o i ≠ 0#8 → ∃ c ∈ s.objCells o lo hi, c.1 = i := by
  have hplace {i : Nat} (hi : i < o.size) := place_one hp hi
  cases pl with
  | none =>
    have hbyte {i : Nat} (hi : i < o.size) : s.objByte o i = tgetD 0#8 o.flash i := by simp [State.objByte, hplace hi]
    refine ⟨fun c hc => ?_, fun i hlo hhi hi hne => ?_⟩
    · obtain ⟨⟨hm, hlt⟩, _⟩ := (mem_objCells_flash hp).1 hc
      obtain ⟨hget, hne⟩ := tget_of_mem _ hflash hm
      exact ⟨hne, hget.symm.trans (hbyte hlt).symm⟩
    · rw [hbyte hi] at hne
      exact ⟨_, (mem_objCells_flash hp).2 ⟨⟨mem_of_tget_ne _ hne, hi⟩, hlo, hhi⟩, rfl⟩
  | some a =>
    have hbyte {i : Nat} (hi : i < o.size) : s.objByte o i = if s.byteLost (a + i) then tgetD 0#8 o.home i else memByte s.mem (a + i) := by
      simp [State.objByte, hplace hi, Nat.add_comm]
    refine ⟨fun c hc => ?_, fun i hlo hhi hi hne => ?_⟩
    · obtain ⟨⟨hm, hlt, hlost⟩ | ⟨hm, hlt, hlost⟩, _⟩ := (mem_objCells_dram hp).1 hc
      · obtain ⟨hget, hne⟩ := tget_of_mem _ hmem hm
        exact ⟨hne, by rw [hbyte hlt, hlost]; exact hget.symm⟩
      · obtain ⟨hget, hne⟩ := tget_of_mem _ hhome hm
        exact ⟨hne, by rw [hbyte hlt, hlost]; exact hget.symm⟩
    · rw [hbyte hi] at hne
      by_cases hlost : s.byteLost (a + i) = true
      · rw [if_pos hlost] at hne
        exact ⟨_, (mem_objCells_dram hp).2 ⟨.inr ⟨mem_of_tget_ne _ hne, hi, hlost⟩, hlo, hhi⟩, rfl⟩
      · rw [if_neg hlost] at hne
        exact ⟨(i, memByte s.mem (a + i)), (mem_objCells_dram hp).2
          ⟨.inl ⟨mem_of_tget_ne memDefault hne, hi, Bool.eq_false_iff.2 hlost⟩, hlo, hhi⟩, rfl⟩

/-- Written into a table that reads 0 there, they make it read the object's bytes. -/
theorem tgetD_putCells_objCells (hmem : MemOk s) (hhome : twf (fun _ => 0#8) o.home = true) (hflash : twf (fun _ => 0#8) o.flash = true)
    {pl : Option Nat} (hp : o.pieces = [⟨0, o.size, pl⟩]) {F : Tab Byte} (hF : tgetD 0#8 F i = 0#8) (hlo : lo ≤ i) (hhi : i < hi)
    (hsize : i < o.size) : tgetD 0#8 (putCells (s.objCells o lo hi) F) i = s.objByte o i := by
  obtain ⟨hall, hex⟩ := objCells_spec (lo := lo) (hi := hi) hmem hhome hflash hp
  refine tgetD_putCells (fun c hc => (hall c hc).1) (fun c hc hci => hci ▸ (hall c hc).2) ?_
  by_cases h0 : s.objByte o i = 0#8
  · exact .inr (hF.trans h0.symm)
  · exact .inl (hex i hlo hhi hsize h0)

end

/-! ### A tile that goes to flash -/

section
variable {s : State} {h : Nat} {o : Obj}

theorem foldl_flashed (cells : List (Nat × Byte)) {F : Tab Byte} (hs : s.obj h = some { o with flash := F }) :
    (cells.foldl (fun u c => u.mapObj h (flashed fun F => tsetD 0#8 F c.1 c.2)) s).obj h = some { o with flash := putCells cells F } ∧
      (cells.foldl (fun u c => u.mapObj h (flashed fun F => tsetD 0#8 F c.1 c.2)) s).mem = s.mem := by
  induction cells generalizing s F with
  | nil => exact ⟨hs, rfl⟩
  | cons c cells ih =>
    have hstep := obj_flashed (h := h) s fun F => tsetD 0#8 F c.1 c.2
    rw [hs] at hstep
    exact ih hstep

/-- The content of the flash residence of `o` behind a tile: its place there is cleared, and its listed bytes are written. -/
def tileFlash (s : State) (o : Obj) (lo hi : Nat) : Tab Byte :=
  putCells (s.objCells o lo hi) (tclear (fun k => lo ≤ k && k < lo + (hi - lo)) o.flash)

theorem copyTile_flash {lo hi : Nat} {target : List Piece} (htarget : target.flatMap (clipPiece lo hi) = [⟨lo, hi - lo, none⟩])
    (ho : s.obj h = some o) : (s.copyTile o lo hi target false).obj h =
        some { o with flash := tileFlash s o lo hi } ∧
      (s.copyTile o lo hi target false).mem = s.mem := by
  have hin (c : Nat × Byte) (hc : c ∈ s.objCells o lo hi) : lo ≤ c.1 ∧ c.1 < hi := by simpa using (List.mem_filter.1 hc).2
  have hclear := obj_flashed (h := h) s (tclear fun k => lo ≤ k && k < lo + (hi - lo))
  rw [ho] at hclear
  obtain ⟨hobj, hmem⟩ := foldl_flashed (s.objCells o lo hi) hclear
  simp only [State.copyTile, htarget, List.foldl_cons, List.foldl_nil, handle_of_obj ho, Bool.false_eq_true, if_false]
  rw [List.foldl_ext (g := fun u c => u.mapObj h (flashed fun F => tsetD 0#8 F c.1 c.2))]
  · exact ⟨hobj, hmem⟩
  · intro u c hc
    obtain ⟨hlo, hhi⟩ := hin c hc
    have hlen : c.1 < lo + (hi - lo) := by omega
    simp only [List.find?_cons, hlo, hlen, decide_true, Bool.and_self]
    rfl

theorem find?_insPiece {P : Piece} {p : Piece → Bool} (hP : p P = true) {qs : List Piece} (hqs : ∀ q ∈ qs, p q = false) :
    (insPiece P qs).find? p = some P := by
  induction qs with
  | nil => simp [insPiece, hP]
  | cons q qs ih =>
    rw [insPiece]
    split
    · simp [hP]
    · simp [hqs q List.mem_cons_self, ih fun x hx => hqs x (List.mem_cons_of_mem _ hx)]

/-- What is left of a piece outside a tile holds no byte of the tile. -/
theorem cutPiece_avoids {lo hi i : Nat} (hlo : lo ≤ i) (hhi : i < hi) {p q : Piece} (hq : q ∈ cutPiece lo hi p) :
    (decide (q.off ≤ i) && decide (i < q.off + q.len)) = false := by
  suffices hout : ¬ (q.off ≤ i ∧ i < q.off + q.len) by simpa using hout
  unfold cutPiece at hq
  split at hq
  next h =>
    cases List.mem_singleton.1 hq
    omega
  next h =>
    rcases List.mem_append.1 hq with hq | hq
    · split at hq
      · cases List.mem_singleton.1 hq
        simp only
        omega
      · exact absurd hq List.not_mem_nil
    · split at hq
      · cases List.mem_singleton.1 hq
        simp only
        omega
      · exact absurd hq List.not_mem_nil

/-- The bytes of a tile that went to flash lie in flash. -/
theorem place_retiled {m : Move} {lo hi i : Nat} (htarget : m.target.flatMap (clipPiece lo hi) = [⟨lo, hi - lo, none⟩]) (hlo : lo ≤ i)
    (hhi : i < hi) (o : Obj) : (retiled m lo hi o).place i = none := by
  have hfind : (rePlace o.pieces lo hi m.target).find? (fun p => decide (p.off ≤ i) && decide (i < p.off + p.len)) = some ⟨lo, hi - lo, none⟩ := by
    rw [rePlace, htarget]
    refine find?_insPiece ?_ fun q hq => ?_
    · simp only [Bool.and_eq_true, decide_eq_true_eq]
      omega
    · obtain ⟨p, _, hq⟩ := List.mem_flatMap.1 hq
      exact cutPiece_avoids hlo hhi hq
  simp only [Obj.place, retiled, hfind]
  rfl

/-- A target in flash covers the whole of a tile. -/
theorem clip_flashTarget {m : Move} {lo hi : Nat} (ht : m.target = [⟨m.lo, m.hi - m.lo, none⟩]) (hm : m.lo ≤ lo) (hlt : lo < hi) (hhi : hi < m.hi) :
    m.target.flatMap (clipPiece lo hi) = [⟨lo, hi - lo, none⟩] := by
  have hmax : max lo m.lo = lo := Nat.max_eq_left hm
  have hmin : min hi (m.lo + (m.hi - m.lo)) = hi := Nat.min_eq_left (by omega)
  simp [ht, clipPiece, hmax, hmin, hlt]

theorem obj_giveUp (s : State) (t : Nat) (ps : List Piece) (k : Nat) : (s.giveUp t ps).obj k = s.obj k := rfl

theorem mem_giveUp (s : State) (t : Nat) (ps : List Piece) : (s.giveUp t ps).mem = s.mem := rfl

/-- A tile that goes from one piece to flash keeps its bytes, and memory does not change. -/
theorem switched_flash_keeps {m : Move} {lo hi : Nat} {pl : Option Nat} (hmem : MemOk s) (hflash : twf (fun _ => 0#8) o.flash = true)
    (hhome : twf (fun _ => 0#8) o.home = true) (ho : s.obj h = some o) (htier : m.tier = .flash)
    (htarget : m.target.flatMap (clipPiece lo hi) = [⟨lo, hi - lo, none⟩]) (hp : o.pieces = [⟨0, o.size, pl⟩]) (hsize : hi ≤ o.size) :
    (∀ i, lo ≤ i ∧ i < hi → ((switched h o m lo hi false s).obj h).map (fun x => (switched h o m lo hi false s).objByte x i) =
      some (s.objByte o i)) ∧ (switched h o m lo hi false s).mem = s.mem := by
  obtain ⟨hobj, hcopy⟩ := copyTile_flash htarget ho
  obtain ⟨_, hprog, _, _, hobjs⟩ := program_frame (h := h) (s.copyTile o lo hi m.target false) (hi - lo)
  have hcopied : (copied o m lo hi false s).obj h = some { o with flash := tileFlash s o lo hi } := by
    rw [copied, if_pos htier, obj_giveUp, obj_of_objs hobjs h, hobj]
  have hswitched : (switched h o m lo hi false s).obj h = some (retiled m lo hi { o with flash := tileFlash s o lo hi }) := by
    rw [switched, obj_mapObj_self (handle_retiled m lo hi), hcopied, Option.map_some]
  refine ⟨fun i ⟨hlo, hhi⟩ => ?_, ?_⟩
  · rw [hswitched, Option.map_some, State.objByte, place_retiled htarget hlo hhi]
    simp only [retiled, if_pos htier]
    refine congrArg some (tgetD_putCells_objCells hmem hhome hflash hp ?_ hlo hhi (by omega))
    rw [tgetD, tget_tclear, if_pos]
    simp only [Bool.and_eq_true, decide_eq_true_eq]
    omega
  · rw [switched, copied, if_pos htier, State.mapObj_mem, mem_giveUp, hprog, hcopy]

end

/-! ### OBJ_SYNC (11 R252) -/

/-- The flash home holds the bytes listed. -/
def homed (cells : List (Nat × Byte)) (o : Obj) : Obj := { o with home := putCells cells [] }

theorem handle_homed (cells : List (Nat × Byte)) (o : Obj) : (homed cells o).handle = o.handle := rfl

section
variable {s : State} {c : Cmd} {o : Obj}

theorem objSync_unknown (ho : s.obj (c.fld 40 8) = none) : s.objSync c = s.finish c.n stNoObject 0 0 [] := by
  rw [State.objSync, ho]
  rfl

theorem objSync_homeless (ho : s.obj (c.fld 40 8) = some o) (hh : o.hasHome = false) : s.objSync c = s.finish c.n stInvalidParameter 0 0 [] := by
  simp [State.objSync, ho, hh, State.refuse]

theorem objSync_eq (ho : s.obj (c.fld 40 8) = some o) (hh : o.hasHome = true) :
    s.objSync c = ((s.mapObj (c.fld 40 8) (homed (s.objCells o 0 o.size))).program o.size).finish c.n stSuccess 0 0 [] := by
  simp only [State.objSync, ho, hh, not_true_eq_false, if_false]
  rfl

end

/-! ### What the commands leave -/

section
variable {s : State} {h : Nat} {o : Obj}

/-- OBJ_CREATE's object is the last of the table, and its charges and its room are all that changes. -/
theorem created_spec {t : Nat} {xs : List (Nat × Nat)} (ho : s.obj o.handle = none) : let v := (placed s t xs o).recharge o.handle
    v.obj o.handle = some (withCharges o) ∧ v.tier.objs.dropLast = s.tier.objs ∧ v.mem = (s.drew.claim t xs).mem ∧
    RegsBut (tierRegs o.tenant) s v ∧ v.evt = s.evt ∧ v.quay = s.quay := by
  obtain ⟨hregs, hevt, hquay, _⟩ := claim_frame s.drew t xs
  have hlast := objs_recharge_last ho (objs_placed s t xs o)
  obtain ⟨hmem, hrevt, hrquay, hrregs⟩ := recharge_frame (obj_append (objs_placed s t xs o) ho)
  refine ⟨obj_append hlast ho, ?_, hmem, regsBut_trans (regsBut_of_regs _ hregs) hrregs, hrevt.trans hevt, hrquay.trans hquay⟩
  rw [hlast, List.dropLast_concat]

/-- OBJ_FREE of a resting object takes it out of the table and releases its charges. -/
theorem dropped_spec (hr : RegsOk s) (ho : s.obj h = some o) : (s.dropObj h).obj h = none ∧ (∀ k, k ≠ h → (s.dropObj h).obj k = s.obj k) ∧
    (∀ k < 4, (s.dropObj h).use o.tenant k = s.use o.tenant k - tgetD 0 o.charged k) ∧ RegsBut (tierRegs o.tenant) s (s.dropObj h) ∧
    s.dropObj h = { s with regs := (s.dropObj h).regs, tier := (s.dropObj h).tier } := by
  obtain ⟨rs, tr, hrel, hdrop, hobjs⟩ := dropObj_eq ho
  have huse := use_released hr o.tenant o.charged 4
  have hbut := regsBut_released o.tenant o.charged (Nat.le_refl 4) s
  rw [hrel] at huse hbut
  rw [hdrop]
  refine ⟨obj_filter_self hobjs, fun k hk => obj_filter_ne hobjs hk, fun k hk => ?_, hbut, rfl⟩
  exact (huse k).trans (if_pos hk)

/-- The other fields, for an object that leaves the table. -/
theorem dropped_frame (ho : s.obj h = some o) : (s.dropObj h).obj h = none ∧ (∀ k, k ≠ h → (s.dropObj h).obj k = s.obj k) ∧
    (s.dropObj h).quay = s.quay ∧ (s.dropObj h).coll = s.coll := by
  obtain ⟨rs, tr, _, hdrop, hobjs⟩ := dropObj_eq ho
  rw [hdrop]
  exact ⟨obj_filter_self hobjs, fun k hk => obj_filter_ne hobjs hk, rfl, rfl⟩

theorem handle_awaited (m : Move) (n : Nat) (o : Obj) : (awaited m n o).handle = o.handle := rfl

theorem handle_taken (m : Move) (u : Nat) (o : Obj) : (taken m u o).handle = o.handle := rfl

/-- OBJ_MOVE has taken its room, charged it and started. -/
theorem started_spec {m : Move} {u k : Nat} {xs : List (Nat × Nat)} (hr : RegsOk s) (ho : s.obj h = some o) :
    let v := ((s.claim o.tenant xs).chargeTo o.tenant k u).mapObj h (taken m u)
    v.obj h = some (taken m u o) ∧ (∀ j, j ≠ h → v.obj j = s.obj j) ∧ v.use o.tenant k = min (s.use o.tenant k + u) (2 ^ 32 - 1) ∧
    v.mem = (s.claim o.tenant xs).mem ∧ RegsBut [.tnTier (4 * o.tenant + k)] s v ∧ v.evt = s.evt ∧ v.quay = s.quay := by
  obtain ⟨hregs, hevt, hquay, hobjs⟩ := claim_frame s o.tenant xs
  have hok : RegsOk (s.claim o.tenant xs) := by rwa [RegsOk, hregs]
  have hcharge : ((s.claim o.tenant xs).chargeTo o.tenant k u).tier.objs = s.tier.objs := by rw [State.chargeTo, State.setUse_tier, hobjs]
  refine ⟨?_, fun j hj => ?_, ?_, ?_, ?_, ?_, ?_⟩
  · rw [obj_mapObj_self (handle_taken m u), obj_of_objs hcharge, ho, Option.map_some]
  · rw [obj_mapObj_ne (handle_taken m u) hj, obj_of_objs hcharge]
  · rw [use_of_regs (State.mapObj_regs ..), use_chargeTo_self hok, use_of_regs hregs]
  · rw [State.mapObj_mem, State.chargeTo, State.setUse_mem]
  · exact regsBut_trans (regsBut_trans (regsBut_of_regs _ hregs) (regsBut_chargeTo _ _ _ _)) (regsBut_of_regs _ (State.mapObj_regs ..))
  · rw [State.mapObj_evt, State.chargeTo, State.setUse_evt, hevt]
  · rw [State.mapObj_quay, State.chargeTo, State.setUse_quay, hquay]

end

/-- OBJ_SYNC has written the object's flash home. -/
theorem synced_spec {s : State} {h n : Nat} {o : Obj} (cells : List (Nat × Byte)) (ho : s.obj h = some o) :
    ((s.mapObj h (homed cells)).program n).obj h = some (homed cells o) ∧ ((s.mapObj h (homed cells)).program n).quay = s.quay ∧
    ((s.mapObj h (homed cells)).program n).mem = s.mem ∧ RegsBut [.flStat] s ((s.mapObj h (homed cells)).program n) := by
  obtain ⟨-, hmem, hregs, hquay, hobjs⟩ := program_frame (h := h) (s.mapObj h (homed cells)) n
  refine ⟨?_, hquay.trans (State.mapObj_quay ..), hmem.trans (State.mapObj_mem ..), ?_⟩
  · rw [obj_of_objs hobjs, obj_mapObj_self (handle_homed _), ho, Option.map_some]
  · exact regsBut_trans (regsBut_of_regs _ (State.mapObj_regs ..)) hregs

/-! ### The answers -/

section
variable {s v : State}

theorem ended_finish (hq : v.quay = s.quay) (n st sp0 sp1 : Nat) (out : List Byte) : Ended n st sp0 sp1 out s (v.finish n st sp0 sp1 out) := by
  rw [Ended, ← hq]
  rfl

theorem obj_setCmd (s : State) (n : Nat) (f : Cmd → Cmd) (k : Nat) : (s.setCmd n f).obj k = s.obj k := rfl

theorem use_setCmd (s : State) (n : Nat) (f : Cmd → Cmd) (t k : Nat) : (s.setCmd n f).use t k = s.use t k := rfl

theorem cmds_setCmd (s : State) (n : Nat) (f : Cmd → Cmd) : (s.setCmd n f).quay.cmds = mapIf (·.n = n) f s.quay.cmds := rfl

theorem not_askedQuota {c : Cmd} {tr : Tier} (h : tr ≠ .flash → s.quotaOk (c.fld 52 2) tr.k (ceilDiv (askedSize c) 65536) = true)
    (hf : s.quotaOk (c.fld 52 2) 3 (askedFlash c tr) = true) : ¬ AskedQuota s c tr := by
  rintro (⟨htr, hno⟩ | hno)
  · simp [h htr] at hno
  · simp [hf] at hno

theorem not_moveQuota {c : Cmd} {o : Obj} {tr : Tier} (h : s.quotaOk o.tenant tr.k (moveUnits c o tr) = true)
    (hc : o.coll = true → s.overQuota o.tenant tr.k (moveHi c o - moveLo c o) = false) : ¬ MoveQuota s c o tr := by
  rintro (hno | ⟨hcoll, hno⟩)
  · simp [h] at hno
  · simp [hc hcoll] at hno

/-- Of the room taken, what another tenant freed reads 0, and no other byte changes. -/
theorem claim_bytes (s : State) (t : Nat) (xs : List (Nat × Nat)) :
    (∀ x ∈ xs, ∀ d ∈ s.tier.dirty, d.1 ≠ t → ∀ a, x.1 ≤ a ∧ a < x.1 + x.2 ∧ d.2.1 ≤ a ∧ a < d.2.1 + d.2.2 →
      memByte (s.claim t xs).mem a = 0#8) ∧
    ∀ a, (∀ x ∈ xs, a < x.1 ∨ x.1 + x.2 ≤ a) → memByte (s.claim t xs).mem a = memByte s.mem a := by
  refine ⟨fun x hx d hd hne a ⟨h1, h2, h3, h4⟩ => memByte_claim_freed hx ⟨h1, h2⟩ ⟨d, hd, hne, h3, h4⟩, fun a h => ?_⟩
  exact memByte_claim_out fun x hx hw => by
    have := h x hx
    omega

theorem exec_tile {h : Nat} {ue : Bool} (hs : s.tileSwitch h ue = v) : exec (.moveTileSwitch h ue) s = .next v := congrArg Host.Outcome.next hs

theorem settled_goesOn {h hi : Nat} {m : Move} (hf : m.freeBy = none) (hlt : hi < m.hi) : settled h hi m v = v := by
  simp only [settled, hf]
  exact if_neg (by omega)

theorem settled_ends {h hi : Nat} {m : Move} (hf : m.freeBy = none) (hle : m.hi ≤ hi) : settled h hi m v = v.endMove h stSuccess := by
  simp only [settled, hf]
  exact if_pos hle

theorem settled_frees {h hi f : Nat} {m : Move} (hf : m.freeBy = some f) :
    settled h hi m v = ((v.endMove h stFreed).dropObj h).finish f stSuccess 0 0 [] := by
  simp only [settled, hf]

end

end Sys2Proof.Proofs.ObjectCommands

section

open Sys2Proof Sys2Proof.Machine Sys2Proof.Safety
open Sys2Proof.Proofs.ObjectCommands
open Sys2Proof.Proofs.RankingModelsAndTables (exec_onCmd exec_ends)
open Sys2Proof.Proofs.SketchRegionsTideAndTemperature (regsBut_trans regsBut_of_regs)

/-- Settles O26, command by command: OBJ_CREATE (its operands, quotas and room, and the object made), OBJ_FREE (at rest, of a move, refused),
OBJ_MOVE (started, and refused in the order of its checks), a tile (on, the last, before a waiting OBJ_FREE, to flash, lost) and OBJ_SYNC. -/
theorem objectCommands : Obligations.ObjectCommands := by
  unfold Obligations.ObjectCommands
  refine ⟨?_, ?_, ?_, ?_, ?_, ?_, ?_, ?_, ?_, ?_, ?_, ?_, ?_, ?_, ?_, ?_, ?_, ?_, ?_⟩
  · intro s n c hf hn hbad
    exact exec_ends hf hn (objCreate_invalid hbad)
  · rintro s n p t0 h size fu c tr hf hn rfl rfl rfl rfl htr he1 he2 he3 hhub hpart ht hst hon rfl hq
    exact exec_ends hf hn (objCreate_quota ⟨htr, he1, he2, he3, hhub, hpart, ht, hst, hon⟩ hq)
  · rintro s n p t0 h size fu c tr hf hn rfl rfl rfl rfl htr he1 he2 he3 hhub hpart ht hst hon rfl hq hqf hr
    exact exec_ends hf hn (objCreate_capacity ⟨htr, he1, he2, he3, hhub, hpart, ht, hst, hon⟩ (not_askedQuota hq hqf) hr)
  · rintro s n p t0 h size fu m c tr xs - hf rfl rfl rfl rfl rfl htr he1 he2 he3 hhub hpart ht hst hon rfl hq hqf hr hx hm hno
    have hmade := objCreate_success ⟨htr, he1, he2, he3, hhub, hpart, ht, hst, hon⟩ (not_askedQuota hq hqf) hr hx hm
    obtain ⟨hobj, hrest, hmem, hregs, hevt, hquay⟩ := created_spec (o := newObj s c tr xs m) (t := c.fld 52 2) (xs := xs) hno
    obtain ⟨hfreed, hkept⟩ := claim_bytes s.drew (c.fld 52 2) xs
    refine ⟨_, exec_onCmd hf hmade, ended_finish hquay .., ?_, ?_, hrest, ?_, ?_, hregs, hevt⟩
    · exact congrArg (Option.map _) hobj
    · exact congrArg (Option.map _) hobj
    · exact fun x hx d hd hne a ha => (congrArg (memByte · a) hmem).trans (hfreed x hx d hd hne a ha)
    · exact fun a ha => (congrArg (memByte · a) hmem).trans (hkept a ha)
  · rintro s n h c o hr hf rfl rfl ho hm hc
    obtain ⟨hself, hothers, huse, hregs, heq⟩ := dropped_spec hr ho
    have hfree := objFree_resting ho hc hm
    refine ⟨_, exec_onCmd hf hfree, ended_finish (by rw [heq]) .., hself, hothers, huse, hregs, ?_⟩
    rw [heq]
    rfl
  · rintro s n h c o m hf rfl rfl ho hc hm hfree
    refine ⟨_, exec_onCmd hf (objFree_moving ho hc hm hfree), ?_, fun k hk => obj_mapObj_ne (handle_awaited m c.n) hk, rfl, rfl⟩
    have hobj := obj_mapObj_self (s := s) (h := c.fld 40 8) (handle_awaited m c.n)
    rw [ho] at hobj
    exact congrArg (Option.map Obj.move) hobj
  · rintro s n h st c hf hn rfl (⟨rfl, hno | hno⟩ | ⟨rfl, hc⟩)
    · exact exec_ends hf hn (objFree_unknown hno)
    · obtain ⟨o, ho, hfreed⟩ := (Option.any_eq_true _ _).1 hno
      obtain ⟨hc, hmove⟩ := Bool.and_eq_true_iff.1 hfreed
      obtain ⟨m, hm, hby⟩ := (Option.any_eq_true _ _).1 hmove
      exact exec_ends hf hn (objFree_freed ho (by simpa using hc) hm hby)
    · obtain ⟨o, ho, hcoll⟩ := (Option.any_eq_true _ _).1 hc
      exact exec_ends hf hn (objFree_coll ho hcoll)
  · rintro s n h lo hi u c o tr xs ⟨-, hr⟩ hf rfl rfl ho htr rfl rfl h1 h2 hst hon hcoll hm rfl hq hover hroom hx
    have hstart := objMove_starts ⟨ho, htr, h1, h2, hst, hon, hcoll⟩ hm (not_moveQuota hq hover) hroom hx
    obtain ⟨hobj, hothers, huse, hmem, hregs, hevt, hquay⟩ := started_spec (m := moveOf c o tr xs) (u := moveUnits c o tr) (k := tr.k) (xs := xs) hr ho
    obtain ⟨hfreed, hkept⟩ := claim_bytes s o.tenant xs
    refine ⟨_, exec_onCmd hf hstart, ?_, ?_, fun k hk => (obj_setCmd ..).trans (hothers k hk), (use_setCmd ..).trans huse, ?_, ?_, ?_,
      regsBut_trans hregs (regsBut_of_regs _ (State.setCmd_regs ..)), (State.setCmd_evt ..).trans hevt⟩
    · rw [obj_setCmd, hobj]
      rfl
    · rw [obj_setCmd, hobj]
      rfl
    · rw [cmds_setCmd, hquay]
    · intro x hx d hd hne a ha
      rw [State.setCmd_mem, hmem]
      exact hfreed x hx d hd hne a ha
    · intro a ha
      rw [State.setCmd_mem, hmem]
      exact hkept a ha
  · rintro s n h st c hf hn rfl (⟨rfl, hno⟩ | ⟨rfl, hbad⟩)
    · exact exec_ends hf hn (objMove_unknown hno)
    · obtain ⟨o, ho, hany⟩ := (Option.any_eq_true _ _).1 hbad
      exact exec_ends hf hn (objMove_invalid ho hany)
  · rintro s n h lo hi c o tr hf hn rfl ho htr rfl rfl h1 h2 hst hon hcoll hm
    exact exec_ends hf hn (objMove_busy ⟨ho, htr, h1, h2, hst, hon, hcoll⟩ hm)
  · rintro s n h lo hi u c o tr hf hn rfl ho htr rfl rfl h1 h2 hst hon hcoll hm rfl hq
    exact exec_ends hf hn (objMove_quota ⟨ho, htr, h1, h2, hst, hon, hcoll⟩ hm hq)
  · rintro s n h lo hi u c o tr hf hn rfl ho htr rfl rfl h1 h2 hst hon hcoll hm rfl hq hover hr
    exact exec_ends hf hn (objMove_capacity ⟨ho, htr, h1, h2, hst, hon, hcoll⟩ hm (not_moveQuota hq hover) hr)
  · intro s h lo hi ue o m ho hm hue hheld hlo hhi hfree hlt
    obtain ⟨⟨F, hself⟩, -, hquay, hcoll, -⟩ := switched_spec (m := m) (lo := lo) (hi := hi) (ue := ue) ho
    have hswitch := (tileSwitch_eq ho hm hue hheld hlo hhi).trans (settled_goesOn hfree hlt)
    exact ⟨_, exec_tile hswitch, congrArg (Option.map Obj.pieces) hself, congrArg (Option.map Obj.move) hself, hquay, hcoll⟩
  · intro s h lo hi ue o m ho hm hue hheld hlo hhi hfree hle hc
    obtain ⟨⟨F, hself⟩, -, hquay, hcoll, -⟩ := switched_spec (m := m) (lo := lo) (hi := hi) (ue := ue) ho
    have hswitch := (tileSwitch_eq ho hm hue hheld hlo hhi).trans (settled_ends hfree hle)
    obtain ⟨hend, -, hended, -, -, hecoll⟩ := endMove_spec hself rfl stSuccess
    refine ⟨_, exec_tile hswitch, congrArg (Option.map Obj.pieces) hend, congrArg (Option.map Obj.move) hend, ?_, (hecoll hc).trans hcoll⟩
    rwa [Ended, hquay] at hended
  · intro s h lo hi ue o m f ho hm hue hheld hlo hhi hfree hc
    obtain ⟨⟨F, hself⟩, hothers, hquay, hcoll, -⟩ := switched_spec (m := m) (lo := lo) (hi := hi) (ue := ue) ho
    have hswitch := (tileSwitch_eq ho hm hue hheld hlo hhi).trans (settled_frees hfree)
    obtain ⟨hend, heothers, hended, -, -, hecoll⟩ := endMove_spec hself rfl stFreed
    obtain ⟨hgone, hdothers, hdquay, hdcoll⟩ := dropped_frame hend
    refine ⟨_, exec_tile hswitch, hgone, fun k hk => (hdothers k hk).trans ((heothers k hk).trans (hothers k hk)), ?_,
      hdcoll.trans ((hecoll hc).trans hcoll)⟩
    rw [Ended, hquay] at hended
    exact (ended_finish hdquay ..).trans (congrArg _ hended)
  · rintro s h lo hi ue o m a hmem hflash hhome ho hm hue hheld hlo hhi hfree hlt rfl htier htarget hle hp hsize
    have hclip := clip_flashTarget (lo := lo) (hi := hi) htarget hle (by omega) hlt
    have hswitch := (tileSwitch_eq ho hm hue hheld hlo hhi).trans (settled_goesOn hfree hlt)
    exact ⟨_, exec_tile hswitch, switched_flash_keeps hmem hflash hhome ho htier hclip hp hsize⟩
  · intro s h o m ho hm hhome
    obtain ⟨hend, -, hended, hmem, hevt, -⟩ := endMove_spec ho hm stDataLost
    have hlost : s.tileSwitch h true = s.endMove h stDataLost := by simp [State.tileSwitch, ho, hm, hhome]
    exact ⟨_, exec_tile hlost, congrArg (Option.map Obj.move) hend, congrArg (Option.map Obj.pieces) hend, hended, hmem, hevt⟩
  · rintro s n h c o pl hmem hf rfl rfl ho hhome hflash hh hp
    obtain ⟨hobj, hquay, hkeeps, hregs⟩ := synced_spec (n := o.size) (s.objCells o 0 o.size) ho
    have hsync := objSync_eq ho hh
    refine ⟨_, exec_onCmd hf hsync, ended_finish hquay .., fun i hi => ?_,
      regsBut_trans hregs (regsBut_of_regs _ (State.setCmd_regs ..)), (State.setCmd_mem ..).trans hkeeps⟩
    rw [State.finish, obj_setCmd, hobj, Option.map_some]
    exact congrArg some (tgetD_putCells_objCells hmem hhome hflash hp rfl (Nat.zero_le i) hi hi)
  · rintro s n h st c hf hn rfl (⟨rfl, hno⟩ | ⟨rfl, hbad⟩)
    · exact exec_ends hf hn (objSync_unknown hno)
    · obtain ⟨o, ho, hh⟩ := (Option.any_eq_true _ _).1 hbad
      exact exec_ends hf hn (objSync_homeless ho (by simpa using hh))

end

/-! Proofs of O4 and O1: what every step takes, adds and runs. -/

section

open Sys2Proof.Machine Sys2Proof.Safety Sys2Proof.Laws Sys2Proof.Proofs.CanonicalForm

/-- Settles O4: it is part of what the invariant of canonical form says of a step. -/
theorem stepTakesExactlyTheFront : Obligations.StepTakesExactlyTheFront := by
  unfold Obligations.StepTakesExactlyTheFront
  intro s t hs hstep
  obtain ⟨hpending, -, -, houtbox, hfresh⟩ := keeps_step hs hstep
  exact ⟨hpending, houtbox, hfresh⟩

/-- Settles O1: the step function, by its definition. -/
theorem stepRunsTheFrontCommand : Obligations.StepRunsTheFrontCommand := by
  unfold Obligations.StepRunsTheFrontCommand
  refine ⟨fun c s rest => rfl, fun s hp hup => ?_, fun s hp hup => ?_⟩
  · simp [step, hp, State.tick, hup]
  · simp [step, hp, State.tick, hup]

end

/-! What event records leave as they were: the rules that the proofs of O6, O7 and O57 share. -/

namespace Sys2Proof.Proofs.EventRecords

open Sys2Proof Sys2Proof.Machine Sys2Proof.Safety

/-- Only registers, events, the console and what left the module may differ. -/
def OnlyRecords (s t : State) : Prop :=
  ∃ (rs : Tab Word) (ev : EvState) (db : DbgState) (ob : List Out), t = { s with regs := rs, evt := ev, dbg := db, outbox := ob }

variable {s t u : State}

theorem OnlyRecords.refl (s : State) : OnlyRecords s s := ⟨s.regs, s.evt, s.dbg, s.outbox, rfl⟩

theorem OnlyRecords.trans (h : OnlyRecords s t) (g : OnlyRecords t u) : OnlyRecords s u := by
  obtain ⟨_, _, _, _, rfl⟩ := h
  obtain ⟨rs, ev, db, ob, rfl⟩ := g
  exact ⟨rs, ev, db, ob, rfl⟩

theorem OnlyRecords.ite {p : Prop} [Decidable p] (h : OnlyRecords s t) (g : OnlyRecords s u) : OnlyRecords s (if p then t else u) := by
  split
  · exact h
  · exact g

theorem OnlyRecords.foldl {α : Type} {f : State → α → State} (hf : ∀ s a, OnlyRecords s (f s a)) (l : List α) (s : State) :
    OnlyRecords s (l.foldl f s) :=
  List.foldlRecOn (motive := OnlyRecords s) l f (.refl s) fun t ht a _ => ht.trans (hf t a)

theorem OnlyRecords.eq (h : OnlyRecords s t) : t = { s with regs := t.regs, evt := t.evt, dbg := t.dbg, outbox := t.outbox } := by
  obtain ⟨_, _, _, _, rfl⟩ := h
  rfl

theorem OnlyRecords.keeps (h : OnlyRecords s t) : t.pwr = s.pwr ∧ t.tier = s.tier := by
  obtain ⟨_, _, _, _, rfl⟩ := h
  exact ⟨rfl, rfl⟩

theorem onlyRecords_setFld (s : State) (r : Reg) (f : Fld) (v : Nat) : OnlyRecords s (s.setFld r f v) := ⟨_, _, _, _, rfl⟩

theorem onlyRecords_evt (s : State) (ev : EvState) : OnlyRecords s { s with evt := ev } := ⟨_, _, _, _, rfl⟩

theorem onlyRecords_setCause (s : State) (c : Nat) : OnlyRecords s (s.setCause c) := by
  refine .ite (.refl s) ((onlyRecords_setFld s .glbInt (causeFld c) 1).trans ?_)
  exact .ite (onlyRecords_evt _ _) (.refl _)

theorem onlyRecords_raise (s : State) (l src code : Nat) (data : List Byte) : OnlyRecords s (s.raise l src code data) := by
  have hrec : OnlyRecords s (s.raiseRec l src code data) := onlyRecords_evt s _
  simp only [State.raise]
  split
  · exact hrec.trans (onlyRecords_setCause _ _)
  · exact hrec

theorem onlyRecords_printRec (s : State) (l : Nat) (r : EvRec) : OnlyRecords s (s.printRec l r) :=
  .ite (.ite ⟨_, _, _, _, rfl⟩ ⟨_, _, _, _, rfl⟩) (.refl s)

/-- A log with one record more: the ring keeps the last 65,536. -/
def ringWith (l : Nat) (r : EvRec) (s : State) : List LogRec :=
  (s.log l ++ [LogRec.mk r s.svcTime]).drop ((s.log l ++ [LogRec.mk r s.svcTime]).length - logRing)

/-- The logs are these. (Its lemmas are for any logs, so that no proof computes a ring.) -/
def withLogs (m : Tab (List LogRec)) (s : State) : State := { s with evt := { s.evt with logs := m } }

theorem regs_withLogs (m : Tab (List LogRec)) (s : State) : (withLogs m s).regs = s.regs := rfl

theorem regsOk_withLogs {s : State} (h : RegsOk s) (m : Tab (List LogRec)) : RegsOk (withLogs m s) := h

theorem evt_withLogs (m : Tab (List LogRec)) (s : State) : (withLogs m s).evt = { s.evt with logs := m } := rfl

theorem onlyRecords_withLogs (m : Tab (List LogRec)) (s : State) : OnlyRecords s (withLogs m s) := onlyRecords_evt s _

/-- A record stands at the end of its log, and is counted in the log's LSN. -/
def listed (l : Nat) (r : EvRec) (s : State) : State :=
  (withLogs (tsetD [] s.evt.logs l (ringWith l r s)) s).incFld (.evqLsn l) EVQ_LSN_LSN 1

/-- The same, with OVWR where the ring lost a record that was not acknowledged. -/
def overwritten (l : Nat) (r : EvRec) (s : State) : State :=
  if logRing < (listed l r s).fld (.evqLsn l) EVQ_LSN_LSN - (listed l r s).fld (.evqAck l) EVQ_ACK_ACK then
    (listed l r s).setFld (.evqStat l) EVQ_STAT_OVWR 1 else listed l r s

theorem putRec_eq (s : State) (l : Nat) (r : EvRec) : s.putRec l r = (overwritten l r s).printRec l r := by
  with_reducible
    unfold State.putRec overwritten listed withLogs ringWith
    rfl

theorem onlyRecords_overwritten (s : State) (l : Nat) (r : EvRec) : OnlyRecords s (overwritten l r s) := by
  have hlisted : OnlyRecords s (listed l r s) := (onlyRecords_withLogs _ s).trans (onlyRecords_setFld _ _ _ _)
  exact .ite (hlisted.trans (onlyRecords_setFld _ _ _ _)) hlisted

theorem onlyRecords_putRec (s : State) (l : Nat) (r : EvRec) : OnlyRecords s (s.putRec l r) := by
  rw [putRec_eq]
  exact (onlyRecords_overwritten s l r).trans (onlyRecords_printRec _ _ _)

theorem onlyRecords_writeRecord (s : State) (src : Nat) : OnlyRecords s (s.writeRecord src) := by
  unfold State.writeRecord
  split
  · exact .refl s
  · exact .ite ((onlyRecords_evt s _).trans (onlyRecords_putRec _ _ _)) (onlyRecords_evt s _)

theorem onlyRecords_flushRaised (s : State) (src : Nat) : OnlyRecords s (s.flushRaised src) :=
  .foldl (fun s _ => onlyRecords_writeRecord s src) _ s

end Sys2Proof.Proofs.EventRecords

/-! Refutation of O11. Its clause on the end of a bank's zero wipe asks nothing of the E-die; a bank of an E-die that left service never
serves (17 Table 17-5), whether or not its wipe is over. -/

namespace Sys2Proof.Proofs.ScratchpadBankStates

open Sys2Proof Sys2Proof.Machine

/-- After reset, but bank 0 of E-die 0 is in its wipe, and the E-die has left service. -/
def wipingOnLostDie : State :=
  { State.reset with net := { onWipe := [0] }, pwr := { diesLost := [0] } }

theorem bankSt_wipingOnLostDie : wipingOnLostDie.bankSt 0 0 = 0 := by decide +kernel

/-- No bank of a lost E-die serves. -/
theorem bankServes_of_dieLost {s : State} {d : Nat} (b : Nat) (h : s.pwr.diesLost.contains d = true) : s.bankServes d b = false := by
  simp only [State.bankServes, h, Bool.not_true, Bool.and_false]

end Sys2Proof.Proofs.ScratchpadBankStates

section

open Sys2Proof Sys2Proof.Machine Sys2Proof.Safety Sys2Proof.Proofs.ScratchpadBankStates

/-- Refutes O11: its clause on BANK_ON_WIPE_DONE says that the bank serves, and leaves out that its E-die must be in service. In
`wipingOnLostDie` the wipe of bank 0 ends on a lost E-die. -/
theorem not_scratchpadBankStates : ¬ Obligations.ScratchpadBankStates := by
  unfold Obligations.ScratchpadBankStates
  rintro ⟨-, -, hdone⟩
  obtain ⟨t, hstep, hserves, -⟩ := hdone wipingOnLostDie 0 0 rfl bankSt_wipingOnLostDie
  obtain rfl : wipingOnLostDie.onWipeDone 0 0 = t := by injection hstep
  rw [bankServes_of_dieLost 0 rfl] at hserves
  exact Bool.false_ne_true hserves

end

/-! Refutation of O52. Its clause on training that finds fewer than two good lanes says that the port keeps all but its lanes and its
training. The model starts the port's link layer anew, so that a port that had reached flit lock loses the lock. -/

namespace Sys2Proof.Proofs.PortsAndFlits

open Sys2Proof Sys2Proof.Machine Sys2Proof.Safety

/-- After reset, but port 0 trains and has flit lock. -/
def lockedState : State :=
  { State.reset with fab := { ports := [(0, { trains := true, locked := true })] } }

theorem port_lockedState : lockedState.port 0 = { trains := true, locked := true } := by decide +kernel

/-- Training that finds no good lane takes the lock away. -/
theorem port_training_lockedState : (lockedState.training 0 0 false).port 0 = { good := 0, trains := false } := by decide +kernel

end Sys2Proof.Proofs.PortsAndFlits

section

open Sys2Proof Sys2Proof.Machine Sys2Proof.Safety Sys2Proof.Proofs.PortsAndFlits

/-- Refutes O52: its clause on training with fewer than two good lanes keeps the rest of the port. In `lockedState` the port has flit lock,
and loses it with its training. (The clause should say that the port is as new but for its lanes.) -/
theorem not_portsAndFlits : ¬ Obligations.PortsAndFlits := by
  unfold Obligations.PortsAndFlits
  rintro ⟨-, hfails, -⟩
  obtain ⟨t, hstep, -, hport, -⟩ := hfails lockedState 0 0 false rfl rfl (by decide) (by decide) rfl (by decide +kernel) (by decide +kernel) rfl
    (by decide +kernel) (fun h => absurd h (by decide))
  obtain rfl : lockedState.training 0 0 false = t := by injection hstep
  rw [port_training_lockedState, port_lockedState] at hport
  exact absurd hport (by decide)

end

/-! Refutation of O57. Its clause on a start that completes a pending transition takes any state, whatever numbers its list of retired quads
holds. As in the refutation of O56, the cold reset sets the owner byte of a number past the 80 quads on top of LC_STAT, and the
life-cycle state just entered is overwritten. -/

namespace Sys2Proof.Proofs.LifeCycleBootAndFirmware

open Sys2Proof Sys2Proof.Machine Sys2Proof.Safety Sys2Proof.Proofs.ResetsTheFlushAndRecovery Sys2Proof.Proofs.EventRecords

/-- After reset, but without power, with a transition to state 4 pending, and with the stray number among the retired quads. -/
def pendingState : State :=
  { State.reset with pwr := { phase := .off false, retired := [strayRetired] }, trust := { lcPending := some 4 } }

/-- A transition's new key epoch and state, and its record. -/
def entered (x : Nat) (s : State) : State :=
  (((s.setFld .lcStat LC_STAT_KEYEPOCH (s.fld .lcStat LC_STAT_KEYEPOCH + 1)).setFld .lcStat LC_STAT_STATE x).raise modLog srcT 0x0906
    []).flushRaised srcT

/-- What a transition destroys beside memory: keys, the objects' pieces, models and collections. -/
def shed (s : State) : State :=
  { s with
    trust := { s.trust with keys := [], lcPending := none }
    tier := { s.tier with objs := s.tier.objs.map fun o => { o with hasHome := false, pieces := [⟨0, o.size, some 0⟩] } }
    rank := {}
    coll := { parts := s.coll.parts.map fun p => (p.1, { next := p.2.next, applied := p.2.applied, destaged := p.2.destaged, top := p.2.top }) } }

theorem lcApply_eq (s : State) (x : Nat) :
    s.lcApply x = { (shed (entered x s)).coldClear with pwr := { (shed (entered x s)).coldClear.pwr with phase := s.pwr.phase } } := by
  with_reducible
    unfold State.lcApply shed entered
    rfl

theorem onlyRecords_entered (s : State) (x : Nat) : OnlyRecords s (entered x s) :=
  ((onlyRecords_setFld s _ _ _).trans (onlyRecords_setFld _ _ _ _)).trans ((onlyRecords_raise _ _ _ _ _).trans (onlyRecords_flushRaised _ _))

/-- A transition leaves the lists of retired quads and pages until its cold reset. -/
theorem lc_lcApply_strayRetired {s : State} {x : Nat} (hquads : s.pwr.retired = [strayRetired]) (hpages : s.tier.retired = []) :
    (s.lcApply x).lc = 0 := by
  obtain ⟨hpwr, htier⟩ := (onlyRecords_entered s x).keeps
  rw [lcApply_eq, lc_setPwr]
  exact lc_coldClear_strayRetired ((congrArg PwrState.retired hpwr).trans hquads) ((congrArg TierState.retired htier).trans hpages) rfl

/-- A start ends in the state that the pending transition entered. -/
theorem lc_powerUp_pending {s : State} {x : Nat} (hp : s.pwr.phase = .off false) (hx : s.trust.lcPending = some x) :
    (s.powerUp none).lc =
      (({ s with pwr := { s.pwr with p48 := true, pwrEn := true, mgmtUp := true }, hw := { s.hw with j4 := true } } : State).lcApply x).lc := by
  simp only [State.powerUp, hp, hx, ne_eq, not_true_eq_false, if_false]
  exact lc_setPwr _ _

end Sys2Proof.Proofs.LifeCycleBootAndFirmware

section

open Sys2Proof Sys2Proof.Machine Sys2Proof.Safety Sys2Proof.Proofs.ResetsTheFlushAndRecovery Sys2Proof.Proofs.LifeCycleBootAndFirmware

/-- Refutes O57: its clause on MAIN_POWER_UP with a transition pending asks nothing of the list of retired quads. `pendingState` is to enter
state 4; the cold reset that ends the transition writes the owner byte of quad 122880 into LC_STAT, which then shows state 0. (No command
retires such a quad. The clauses on transitions want the list below 80 as a hypothesis.) -/
theorem not_lifeCycleBootAndFirmware : ¬ Obligations.LifeCycleBootAndFirmware := by
  unfold Obligations.LifeCycleBootAndFirmware
  rintro ⟨-, -, -, -, -, -, -, -, -, -, -, -, hpending, -⟩
  obtain ⟨t, hstep, -, hlc, -⟩ := hpending pendingState 4 rfl rfl rfl (by decide)
  obtain rfl : pendingState.powerUp none = t := by injection hstep
  rw [lc_powerUp_pending rfl rfl] at hlc
  exact absurd ((lc_lcApply_strayRetired rfl rfl).symm.trans hlc) (by decide)

end

/-! Writes of one register: what a write by access types alone gives each field. The rules that several statements share. -/

namespace Sys2Proof.Proofs.RegisterWrites

open Sys2Proof Sys2Proof.Machine Sys2Proof.Safety
open Sys2Proof.Proofs.SketchRegionsTideAndTemperature (regsBut_trans regsBut_mono regsBut_of_regs OnlyRegs)
open Sys2Proof.Proofs.MemoryErrorsTemperaturesAndFlash (tidy tidy_cons)

variable {s t : State}

theorem dropFirst_append {α : Type} {p : α → Bool} {pre : List α} {a : α} (post : List α) (hpre : ∀ e ∈ pre, p e = false) (ha : p a = true) :
    dropFirst p (pre ++ a :: post) = pre ++ post := by
  induction pre with
  | nil => exact if_pos ha
  | cons e pre ih =>
    have he : p e = false := hpre e List.mem_cons_self
    simp only [List.cons_append, dropFirst, he, ih fun x hx => hpre x (List.mem_cons_of_mem _ hx)]
    rfl

theorem find?_pre {α : Type} {p : α → Bool} {pre : List α} {a : α} (post : List α) (hpre : ∀ e ∈ pre, p e = false) (ha : p a = true) :
    (pre ++ a :: post).find? p = some a := by
  rw [List.find?_append, List.find?_eq_none.2 fun e he => by simp [hpre e he], List.find?_cons_of_pos ha]
  rfl

theorem foldl_idle {α β : Type} {f : β → α → β} {b : β} {l : List α} (h : ∀ a ∈ l, f b a = b) : l.foldl f b = b :=
  List.foldlRecOn (motive := fun t => t = b) l f rfl fun _ ht a ha => ht ▸ h a ha

theorem onBus_up (h : s.pwrGood = true) (f : State → State) : s.onBus f = f s := if_pos h

theorem onBus_idle {f : State → State} (h : f s = s) : s.onBus f = s := by rw [State.onBus, h, ite_self]

theorem eq_of_onlyRegs (h : OnlyRegs s t) : t = { s with regs := t.regs } := by
  obtain ⟨_, rfl⟩ := h
  rfl

theorem outbox_of_onlyRegs (h : OnlyRegs s t) : t.outbox = s.outbox := by
  obtain ⟨_, rfl⟩ := h
  rfl

theorem onlyRegs_setReg (s : State) (r : Reg) (w : Word) : OnlyRegs s (s.setReg r w) := ⟨_, rfl⟩

theorem onlyRegs_plainWrite (s : State) (r : Reg) (h : Half) (v : Nat) : OnlyRegs s (s.plainWrite r h v) := ⟨_, rfl⟩

theorem regsBut_setReg (s : State) (r : Reg) (w : Word) : RegsBut [r] s (s.setReg r w) :=
  fun o ho => State.tget_setReg_ne s r w o (ho r List.mem_cons_self)

theorem regsBut_plainWrite (s : State) (r : Reg) (h : Half) (v : Nat) : RegsBut [r] s (s.plainWrite r h v) := regsBut_setReg s r _

theorem regsOk_plainWrite (hs : RegsOk s) (r : Reg) (h : Half) (v : Nat) : RegsOk (s.plainWrite r h v) := s.regsOk_setReg _ _ hs

theorem reg_plainWrite (hs : RegsOk s) (r : Reg) (h : Half) (v : Nat) :
    (s.plainWrite r h v).reg r = writeFlds (s.lockOpen r) (halfMask h) (halfVal h v) (regFields r) (s.reg r) := s.reg_setReg_self _ _ hs

section
variable (ok : LockKind → Bool) (m v : Nat) (w : Word)

/-- A field's write leaves the word, or puts a value into the field. -/
theorem writeFld_cases (f : Fld) : writeFld ok m v w f = w ∨ ∃ x, writeFld ok m v w f = fput w f x := by
  simp only [writeFld]
  split
  · cases f.acc with
    | lck =>
      by_cases h : ok f.lock = true
      · exact .inr ⟨_, if_pos h⟩
      · exact .inl (if_neg h)
    | rw | cnt | w1c | w1s => exact .inr ⟨_, rfl⟩
    | _ => exact .inl rfl
  · exact .inl rfl

theorem fget_writeFld_apart {f g : Fld} (hg : g.lo + g.w ≤ 64) (h : f.lo + f.w ≤ g.lo ∨ g.lo + g.w ≤ f.lo) :
    fget (writeFld ok m v w g) f = fget w f := by
  rcases writeFld_cases ok m v w g with heq | ⟨x, heq⟩
  · rw [heq]
  · rw [heq, fget_fput_ne _ _ _ _ hg h]

theorem fget_writeFlds_apart {f : Fld} {l : List Fld} (hl : tidy l = true) (h : ∀ g ∈ l, f.lo + f.w ≤ g.lo ∨ g.lo + g.w ≤ f.lo) :
    fget (writeFlds ok m v l w) f = fget w f := by
  induction l generalizing w with
  | nil => rfl
  | cons g l ih =>
    obtain ⟨hg, -, hl⟩ := tidy_cons.1 hl
    exact (ih _ hl fun x hx => h x (List.mem_cons_of_mem _ hx)).trans (fget_writeFld_apart _ _ _ _ hg (h g List.mem_cons_self))

/-- What a field holds depends only on what it held. -/
theorem fget_writeFld_congr {w u : Word} {f : Fld} (hf : f.lo + f.w ≤ 64) (h : fget w f = fget u f) :
    fget (writeFld ok m v w f) f = fget (writeFld ok m v u f) f := by
  have hbits : bits w.toNat f.lo f.w = bits u.toNat f.lo f.w := h
  have hput (x : Nat) : fget (fput w f x) f = fget (fput u f x) f := by rw [fget_fput_self _ _ _ hf, fget_fput_self _ _ _ hf]
  simp only [writeFld]
  split
  · cases f.acc with
    | lck =>
      by_cases ho : ok f.lock = true
      · simpa only [if_pos ho] using hput _
      · simpa only [if_neg ho] using h
    | rw | cnt => exact hput _
    | w1c | w1s => simpa only [hbits] using hput _
    | _ => exact h
  · exact h

theorem le_of_tidy {f : Fld} {l : List Fld} (hl : tidy l = true) (hf : f ∈ l) : f.lo + f.w ≤ 64 := by
  induction l with
  | nil => exact absurd hf List.not_mem_nil
  | cons g l ih =>
    obtain ⟨hg, -, hl⟩ := tidy_cons.1 hl
    rcases List.mem_cons.1 hf with rfl | hf
    · exact hg
    · exact ih hl hf

/-- A write treats each field of the register on its own. -/
theorem fget_writeFlds {f : Fld} {l : List Fld} (hl : tidy l = true) (hf : f ∈ l) :
    fget (writeFlds ok m v l w) f = fget (writeFld ok m v w f) f := by
  induction l generalizing w with
  | nil => exact absurd hf List.not_mem_nil
  | cons g l ih =>
    obtain ⟨hg, hne, hrest⟩ := tidy_cons.1 hl
    rcases List.mem_cons.1 hf with rfl | hf
    · exact fget_writeFlds_apart ok m v _ hrest hne
    · have hapart := hne f hf
      exact (ih _ hrest hf).trans (fget_writeFld_congr ok m v (le_of_tidy hrest hf) (fget_writeFld_apart ok m v w hg hapart.symm))

end

/-- A plain write treats each field of the register on its own. -/
theorem fld_plainWrite (hs : RegsOk s) {r : Reg} {f : Fld} (hl : tidy (regFields r) = true) (hf : f ∈ regFields r) (h : Half) (v : Nat) :
    (s.plainWrite r h v).fld r f = fget (writeFld (s.lockOpen r) (halfMask h) (halfVal h v) (s.reg r) f) f := by
  rw [State.fld, reg_plainWrite hs, fget_writeFlds _ _ _ _ hl hf]

end Sys2Proof.Proofs.RegisterWrites

/-! Proofs of O10 and O9: perturbation, and the two configuration locks. -/

namespace Sys2Proof.Proofs.PerturbationAndLocks

open Sys2Proof Sys2Proof.Machine Sys2Proof.Safety
open Sys2Proof.Proofs.RankingModelsAndTables (regsBut_setFld)
open Sys2Proof.Proofs.SketchRegionsTideAndTemperature (regsBut_trans regsBut_of_regs OnlyRegs)
open Sys2Proof.Proofs.RegisterWrites
open Sys2Proof.Proofs.MemoryErrorsTemperaturesAndFlash (fld_incFld_wrap)

variable {s : State}

/-! ### Perturbation -/

theorem fld_prtCtl_plainWrite (h : RegsOk s) (en : Bool) :
    (s.plainWrite .prtCtl .whole (if en then 1 else 0)).fld .prtCtl PRT_CTL_EN = if en then 1 else 0 := by
  rw [fld_plainWrite h (by decide) (by decide), show writeFld (s.lockOpen .prtCtl) (halfMask .whole) (halfVal .whole (if en then 1 else 0))
    (s.reg .prtCtl) PRT_CTL_EN = fput (s.reg .prtCtl) PRT_CTL_EN (bits (halfVal .whole (if en then 1 else 0)) 0 1) from rfl,
    fget_fput_self _ _ _ (by decide)]
  cases en <;> rfl

theorem holdRelease_oldest {target : Nat} {p : Held} {pre post : List Held} (h : s.net.held = pre ++ p :: post)
    (hpre : ∀ e ∈ pre, e.target ≠ target) (hp : p.target = target) :
    s.holdRelease target = if p.until_ ≤ s.svcTime then { s with net := { s.net with held := pre ++ post } } else s := by
  have hpre' : ∀ e ∈ pre, decide (e.target = target) = false := fun e he => decide_eq_false (hpre e he)
  simp only [State.holdRelease, h, find?_pre post hpre' (decide_eq_true hp), dropFirst_append post hpre' (decide_eq_true hp)]

/-! ### The locks -/

/-- An opened lock, with its holder. -/
def opened (r : Reg) (src : Nat) (s : State) : State := (s.setFld r PT_LOCK_OPEN 1).setFld r PT_LOCK_HOLDER src

/-- A closed lock, with its closing counted. -/
def closed (r : Reg) (s : State) : State := (s.setFld r PT_LOCK_OPEN 0).incFld r PT_LOCK_CLOSES 1

section
variable {r : Reg} {src : Nat}

theorem wrLock_open (hsrc : src = srcHost ∨ src = srcM) (h : s.flag r PT_LOCK_OPEN = false ∨ s.fld r PT_LOCK_HOLDER = src) :
    s.wrLock r src true false = (opened r src s, false) := by
  have hfree : ¬ (s.flag r PT_LOCK_OPEN = true ∧ s.fld r PT_LOCK_HOLDER ≠ src) := by
    rintro ⟨hopen, hother⟩
    rcases h with h | h
    · exact absurd (h.symm.trans hopen) Bool.false_ne_true
    · exact hother h
  rw [State.wrLock, if_pos ⟨hsrc, by decide⟩, if_pos rfl, if_neg hfree, opened]

theorem wrLock_open_held (h : s.flag r PT_LOCK_OPEN = true) (hother : s.fld r PT_LOCK_HOLDER ≠ src) :
    s.wrLock r src true false = (s, false) := by
  simp only [State.wrLock, if_true, if_pos (And.intro h hother), ite_self]

theorem wrLock_close (hsrc : src = srcHost ∨ src = srcM) (h : s.flag r PT_LOCK_OPEN = true) :
    s.wrLock r src false true = (closed r s, true) := by
  rw [State.wrLock, if_pos ⟨hsrc, by decide⟩, if_neg Bool.false_ne_true, if_pos h, closed]

theorem wrLock_foreign (hhost : src ≠ srcHost) (hm : src ≠ srcM) (o c : Bool) : s.wrLock r src o c = (s, false) :=
  if_neg fun h => h.1.elim hhost hm

/-- An opened lock is OPEN, names its holder, and its closings are as counted. -/
theorem fld_opened (h : RegsOk s) (hsrc : src = srcHost ∨ src = srcM) :
    (opened r src s).fld r PT_LOCK_OPEN = 1 ∧ (opened r src s).fld r PT_LOCK_HOLDER = src ∧
      (opened r src s).fld r PT_LOCK_CLOSES = s.fld r PT_LOCK_CLOSES := by
  have hok := s.regsOk_setFld r PT_LOCK_OPEN 1 h
  have hlt : src < 2 ^ 12 := by
    rcases hsrc with rfl | rfl <;> decide
  refine ⟨?_, ?_, ?_⟩
  · exact (State.fld_setFld_fld _ _ _ _ _ hok (by decide) (by decide)).trans (State.fld_setFld_self _ _ _ _ h (by decide))
  · exact (State.fld_setFld_self _ _ _ _ hok (by decide)).trans (Nat.mod_eq_of_lt hlt)
  · exact (State.fld_setFld_fld _ _ _ _ _ hok (by decide) (by decide)).trans (State.fld_setFld_fld _ _ _ _ _ h (by decide) (by decide))

/-- A closed lock is not OPEN, and one closing more is counted. -/
theorem fld_closed (h : RegsOk s) :
    (closed r s).fld r PT_LOCK_OPEN = 0 ∧ (closed r s).fld r PT_LOCK_CLOSES = (s.fld r PT_LOCK_CLOSES + 1) % 2 ^ 32 := by
  have hok := s.regsOk_setFld r PT_LOCK_OPEN 0 h
  constructor
  · exact (State.fld_setFld_fld _ _ _ _ _ hok (by decide) (by decide)).trans (State.fld_setFld_self _ _ _ _ h (by decide))
  · rw [closed, fld_incFld_wrap hok (by decide) rfl, State.fld_setFld_fld _ _ _ _ _ h (by decide) (by decide)]
    rfl

theorem regsBut_opened : RegsBut [r] s (opened r src s) := regsBut_trans (regsBut_setFld s _ _ _) (regsBut_setFld _ _ _ _)

theorem regsBut_closed : RegsBut [r] s (closed r s) := regsBut_trans (regsBut_setFld s _ _ _) (regsBut_setFld _ _ _ _)

end

theorem partConfig_setMeas (s : State) (i : Nat) (bs : List Byte) : (s.setMeas i bs).partConfig = s.partConfig := by
  unfold State.partConfig
  rfl

/-- Measurement 9 of a closed partition lock covers the configuration as it then stands. -/
theorem trust_setMeas (s : State) (i : Nat) (bs : List Byte) :
    (s.setMeas i bs).trust = { s.trust with meas := tsetD [] s.trust.meas i bs } := rfl

theorem trust_measured {s t : State} (h : t.trust = s.trust) : (t.setMeas 9 (Config.sha384 t.partConfig)).trust =
    { s.trust with meas := tsetD [] s.trust.meas 9 (Config.sha384 (t.setMeas 9 (Config.sha384 t.partConfig)).partConfig) } := by
  rw [trust_setMeas, partConfig_setMeas, h]

theorem fld_setMeas (s : State) (i : Nat) (bs : List Byte) (r : Reg) (f : Fld) : (s.setMeas i bs).fld r f = s.fld r f := rfl

theorem regsBut_setMeas {rs : List Reg} {s t : State} (h : RegsBut rs s t) (i : Nat) (bs : List Byte) : RegsBut rs s (t.setMeas i bs) :=
  regsBut_trans h (regsBut_of_regs rs rfl)

theorem onlyRegs_closed (r : Reg) (s : State) : OnlyRegs s (closed r s) := ⟨_, rfl⟩

theorem trust_of_onlyRegs {s t : State} (h : OnlyRegs s t) : t.trust = s.trust := by
  obtain ⟨_, rfl⟩ := h
  rfl

/-- Beside registers, a measurement changes what the module holds of trust. -/
theorem setMeas_of_onlyRegs {s t : State} (h : OnlyRegs s t) (i : Nat) (bs : List Byte) :
    t.setMeas i bs = { s with regs := (t.setMeas i bs).regs, trust := (t.setMeas i bs).trust } := by
  obtain ⟨_, rfl⟩ := h
  rfl

theorem wrFabLock_open (src : Nat) : s.wrFabLock src .whole 1 = (s.wrLock .fabLock src true false).1 := rfl

theorem wrFabLock_close (src : Nat) : s.wrFabLock src .whole 2 = (s.wrLock .fabLock src false true).1 := rfl

theorem wrPtLock_open {src : Nat} {t : State} (h : s.wrLock .ptLock src true false = (t, false)) : s.wrPtLock src .whole 1 = t := by
  have hbits : (wrote .whole PT_LOCK_OPEN && wval .whole 1 PT_LOCK_OPEN = 1) = true ∧
    (wrote .whole PT_LOCK_CLOSE && wval .whole 1 PT_LOCK_CLOSE = 1) = false := by decide
  simp only [State.wrPtLock, hbits.1, hbits.2, h, Bool.false_eq_true, if_false]

theorem wrPtLock_close {src : Nat} {t : State} {b : Bool} (h : s.wrLock .ptLock src false true = (t, b)) :
    s.wrPtLock src .whole 2 = if b then t.setMeas 9 (Config.sha384 t.partConfig) else t := by
  have hbits : (wrote .whole PT_LOCK_OPEN && wval .whole 2 PT_LOCK_OPEN = 1) = false ∧
    (wrote .whole PT_LOCK_CLOSE && wval .whole 2 PT_LOCK_CLOSE = 1) = true := by decide
  simp only [State.wrPtLock, hbits.1, hbits.2, h]

end Sys2Proof.Proofs.PerturbationAndLocks

section

open Sys2Proof Sys2Proof.Machine Sys2Proof.Safety
open Sys2Proof.Proofs.RegisterWrites Sys2Proof.Proofs.PerturbationAndLocks

/-- Settles O10: the write of PRT_CTL by its field, the release by the oldest packet held at its target. -/
theorem perturbationHoldsAndReleases : Obligations.PerturbationHoldsAndReleases := by
  unfold Obligations.PerturbationHoldsAndReleases
  refine ⟨fun s en hs hup hallow => ?_, fun s en hallow => ?_, fun s target p pre post h hpre hp ht => ?_,
    fun s target p pre post h hpre hp ht => ?_⟩
  · have hwrite : exec (.prtCtlEnWrite en) s = .next (s.plainWrite .prtCtl .whole (if en then 1 else 0)) :=
      congrArg Host.Outcome.next ((onBus_up hup _).trans (if_pos hallow))
    exact ⟨_, hwrite, fld_prtCtl_plainWrite hs en, regsBut_plainWrite _ _ _ _, rfl⟩
  · have hsame (v : Nat) : s.wrPrtCtl .whole v = s := if_neg (by simp [hallow])
    exact congrArg Host.Outcome.next (onBus_idle (hsame _))
  · exact congrArg Host.Outcome.next ((holdRelease_oldest h hpre hp).trans (if_pos ht))
  · exact congrArg Host.Outcome.next ((holdRelease_oldest h hpre hp).trans (if_neg (Nat.not_le.2 ht)))

/-- Settles O9: the two locks share one rule, of which each clause is a branch. -/
theorem configurationLocksOpenAndClose : Obligations.ConfigurationLocksOpenAndClose := by
  unfold Obligations.ConfigurationLocksOpenAndClose
  refine ⟨fun s src hs hup hsrc h => ?_, fun s src hs hup hsrc h => ?_, fun s src hs hup hsrc h => ?_, fun s src hs hup hsrc h => ?_,
    fun s src hhost hm => ?_, fun s src h hother => ?_, fun s src h hother => ?_⟩
  · have hopen : exec (.fabLockOpen src) s = .next (opened .fabLock src s) := by
      refine congrArg Host.Outcome.next ((onBus_up hup _).trans ?_)
      rw [wrFabLock_open, wrLock_open hsrc h]
    obtain ⟨hset, hholder, hcount⟩ := fld_opened (r := .fabLock) hs hsrc
    exact ⟨_, hopen, hset, hholder, hcount, regsBut_opened, rfl⟩
  · have hopen : exec (.ptLockOpen src) s = .next (opened .ptLock src s) := by
      refine congrArg Host.Outcome.next ((onBus_up hup _).trans ?_)
      exact wrPtLock_open (wrLock_open hsrc h)
    obtain ⟨hset, hholder, hcount⟩ := fld_opened (r := .ptLock) hs hsrc
    exact ⟨_, hopen, hset, hholder, hcount, regsBut_opened, rfl⟩
  · have hclose : exec (.fabLockClose src) s = .next (closed .fabLock s) := by
      refine congrArg Host.Outcome.next ((onBus_up hup _).trans ?_)
      rw [wrFabLock_close, wrLock_close hsrc h]
    obtain ⟨hclear, hcount⟩ := fld_closed (r := .fabLock) hs
    exact ⟨_, hclose, hclear, hcount, regsBut_closed, rfl⟩
  · have hclose : exec (.ptLockClose src) s = .next ((closed .ptLock s).setMeas 9 (Config.sha384 (closed .ptLock s).partConfig)) := by
      refine congrArg Host.Outcome.next ((onBus_up hup _).trans ?_)
      exact (wrPtLock_close (wrLock_close hsrc h)).trans (if_pos rfl)
    obtain ⟨hclear, hcount⟩ := fld_closed (r := .ptLock) hs
    exact ⟨_, hclose, (fld_setMeas ..).trans hclear, (fld_setMeas ..).trans hcount, trust_measured (trust_of_onlyRegs (onlyRegs_closed ..)),
      regsBut_setMeas regsBut_closed 9 _, setMeas_of_onlyRegs (onlyRegs_closed ..) ..⟩
  · refine ⟨congrArg Host.Outcome.next (onBus_idle ?_), congrArg Host.Outcome.next (onBus_idle ?_), congrArg Host.Outcome.next (onBus_idle ?_), congrArg Host.Outcome.next (onBus_idle ?_)⟩
    · rw [wrFabLock_open, wrLock_foreign hhost hm]
    · rw [wrFabLock_close, wrLock_foreign hhost hm]
    · exact wrPtLock_open (wrLock_foreign hhost hm _ _)
    · exact (wrPtLock_close (wrLock_foreign hhost hm _ _)).trans (if_neg Bool.false_ne_true)
  · refine congrArg Host.Outcome.next (onBus_idle ?_)
    rw [wrFabLock_open, wrLock_open_held h hother]
  · refine congrArg Host.Outcome.next (onBus_idle ?_)
    exact wrPtLock_open (wrLock_open_held h hother)

end

/-! Proof of O5: the register map. The arrays of Table 18-4 lie apart from one another, so that the array found for an offset of one of
them is that one. -/

namespace Sys2Proof.Proofs.RegisterMap

open Sys2Proof Sys2Proof.Machine

/-- The arrays lie in ranges of their own, or interleave with one stride. -/
def Apart (a b : Nat × Nat × Nat × (Nat → Reg)) : Prop :=
  a.1 + a.2.1 * (a.2.2.1 - 1) < b.1 ∨ b.1 + b.2.1 * (b.2.2.1 - 1) < a.1 ∨ (a.2.1 = b.2.1 ∧ a.1 % a.2.1 ≠ b.1 % b.2.1)

theorem arrIdx_self {base stride n i : Nat} (hs : 0 < stride) (hi : i < n) : arrIdx base stride n (base + stride * i) = some i := by
  have hsub : base + stride * i - base = stride * i := Nat.add_sub_cancel_left ..
  have hdiv : stride * i / stride = i := Nat.mul_div_cancel_left i hs
  rw [arrIdx, hsub, hdiv, if_pos ⟨Nat.le_add_right .., Nat.mul_mod_right .., hi⟩]

theorem mul_le_of_lt {stride n i : Nat} (hi : i < n) : stride * i + stride ≤ stride * n := Nat.mul_le_mul_left stride hi

/-- An offset of one array is of no array apart from it. -/
theorem arrIdx_of_apart {a b : Nat × Nat × Nat × (Nat → Reg)} (h : Apart a b) (hb : 0 < b.2.1) {i : Nat} (hi : i < a.2.2.1) :
    arrIdx b.1 b.2.1 b.2.2.1 (a.1 + a.2.1 * i) = none := by
  refine if_neg ?_
  rintro ⟨hle, hmod, hlt⟩
  obtain ⟨q, hq⟩ := Nat.dvd_of_mod_eq_zero hmod
  rw [hq, Nat.mul_div_cancel_left q hb] at hlt
  have hlast : a.2.1 * i ≤ a.2.1 * (a.2.2.1 - 1) := Nat.mul_le_mul_left _ (Nat.le_sub_one_of_lt hi)
  have hblast : b.2.1 * q ≤ b.2.1 * (b.2.2.1 - 1) := Nat.mul_le_mul_left _ (Nat.le_sub_one_of_lt hlt)
  rcases h with h | h | ⟨hstride, hne⟩
  · omega
  · omega
  · have heq : a.1 + a.2.1 * i = b.1 + a.2.1 * q := by
      rw [hstride]
      rw [hstride] at hq hle
      omega
    refine hne ?_
    rw [← hstride, ← Nat.add_mul_mod_self_left a.1 a.2.1 i, heq, Nat.add_mul_mod_self_left]

theorem findArr_self {l : List (Nat × Nat × Nat × (Nat → Reg))} (hl : l.Pairwise Apart) (hpos : ∀ b ∈ l, 0 < b.2.1)
    {a : Nat × Nat × Nat × (Nat → Reg)} (ha : a ∈ l) {i : Nat} (hi : i < a.2.2.1) : findArr (a.1 + a.2.1 * i) l = some (a.2.2.2 i) := by
  induction l with
  | nil => exact absurd ha List.not_mem_nil
  | cons b l ih =>
    obtain ⟨hb, hl⟩ := List.pairwise_cons.1 hl
    rcases List.mem_cons.1 ha with rfl | ha
    · simp only [findArr, arrIdx_self (hpos a List.mem_cons_self) hi]
    · have hapart : Apart a b := by
        rcases hb a ha with h | h | ⟨hstride, hne⟩
        · exact .inr (.inl h)
        · exact .inl h
        · exact .inr (.inr ⟨hstride.symm, hstride ▸ hne.symm⟩)
      simp only [findArr, arrIdx_of_apart hapart (hpos b List.mem_cons_self) hi]
      exact ih hl (fun x hx => hpos x (List.mem_cons_of_mem _ hx)) ha

/-- What the map's arrays keep: a stride of words, a place below 64 MiB, and no word of TN_TIER. -/
def Placed (a : Nat × Nat × Nat × (Nat → Reg)) : Prop :=
  0 < a.2.1 ∧ a.2.1 % 8 = 0 ∧ a.1 % 8 = 0 ∧ a.1 + a.2.1 * a.2.2.1 ≤ 2 ^ 26 ∧
    (a.1 + a.2.1 * a.2.2.1 ≤ 0x110000 ∨ 0x120000 ≤ a.1 ∨ (a.1 = 0x110000 ∧ a.2.1 = 0x40))

theorem placed_regArrays : ∀ a ∈ regArrays, Placed a := by
  unfold Placed
  decide +kernel

theorem apart_regArrays : regArrays.Pairwise Apart := by
  unfold Apart
  decide +kernel

/-- A register that stands alone has its array's base. -/
theorem regOff_single : ∀ a ∈ regArrays, a.2.2.1 = 1 → regOff (a.2.2.2 0) = a.1 := by decide +kernel

theorem regOff_many : ∀ a ∈ regArrays, a.2.2.1 ≠ 1 → ∀ i, regOff (a.2.2.2 i) = a.1 + a.2.1 * i := by
  refine List.forall_iff_forall_mem.1 ?_
  unfold regArrays
  and_intros
  any_goals exact fun hmany => absurd rfl hmany
  all_goals exact fun _ _ => rfl

theorem regOff_regArrays {a : Nat × Nat × Nat × (Nat → Reg)} (ha : a ∈ regArrays) {i : Nat} (hi : i < a.2.2.1) :
    regOff (a.2.2.2 i) = a.1 + a.2.1 * i := by
  by_cases h : a.2.2.1 = 1
  · obtain rfl : i = 0 := by omega
    exact regOff_single a ha h
  · exact regOff_many a ha h i

theorem regAt_of_array {a : Nat × Nat × Nat × (Nat → Reg)} (ha : a ∈ regArrays) {i : Nat} (hi : i < a.2.2.1) :
    regAt (a.1 + a.2.1 * i) = some (a.2.2.2 i) := by
  obtain ⟨-, -, -, -, hplace⟩ := placed_regArrays a ha
  have hin := mul_le_of_lt (stride := a.2.1) hi
  have houtside : ¬ (0x110000 ≤ a.1 + a.2.1 * i ∧ a.1 + a.2.1 * i < 0x120000 ∧ 8 ≤ (a.1 + a.2.1 * i - 0x110000) % 0x40 ∧
      (a.1 + a.2.1 * i - 0x110000) % 0x40 < 0x28 ∧ (a.1 + a.2.1 * i) % 8 = 0) := by
    rcases hplace with h | h | ⟨hbase, hstride⟩
    · omega
    · omega
    · rw [hbase, hstride]
      omega
  rw [regAt, if_neg houtside]
  exact findArr_self apart_regArrays (fun b hb => (placed_regArrays b hb).1) ha hi

theorem offset_of_array {a : Nat × Nat × Nat × (Nat → Reg)} (ha : a ∈ regArrays) {i : Nat} (hi : i < a.2.2.1) :
    (a.1 + a.2.1 * i) % 8 = 0 ∧ a.1 + a.2.1 * i < 2 ^ 26 := by
  obtain ⟨hpos, hstride, hbase, hend, -⟩ := placed_regArrays a ha
  have hin := mul_le_of_lt (stride := a.2.1) hi
  have hmul : a.2.1 * i % 8 = 0 := by rw [Nat.mul_mod, hstride, Nat.zero_mul, Nat.zero_mod]
  omega

theorem regAt_tnTier {k : Nat} (hk : k < 4096) : regAt (regOff (.tnTier k)) = some (.tnTier k) := by
  have hin : 0x110000 ≤ regOff (.tnTier k) ∧ regOff (.tnTier k) < 0x120000 ∧ 8 ≤ (regOff (.tnTier k) - 0x110000) % 0x40 ∧
      (regOff (.tnTier k) - 0x110000) % 0x40 < 0x28 ∧ regOff (.tnTier k) % 8 = 0 := by
    simp only [regOff]
    omega
  rw [regAt, if_pos hin]
  refine congrArg (fun n => some (Reg.tnTier n)) ?_
  simp only [regOff]
  omega

end Sys2Proof.Proofs.RegisterMap

section

open Sys2Proof Sys2Proof.Machine Sys2Proof.Safety Sys2Proof.Proofs.RegisterMap

/-- Settles O5: the arrays lie apart, and TN_TIER between the words of TN_CFG. -/
theorem registerMapIsOneToOne : Obligations.RegisterMapIsOneToOne := by
  unfold Obligations.RegisterMapIsOneToOne
  refine ⟨fun a ha i hi => ⟨regOff_regArrays ha hi, regAt_of_array ha hi, offset_of_array ha hi⟩, fun k hk => ⟨regAt_tnTier hk, ?_⟩⟩
  simp only [regOff]
  omega

end

/-! Proofs of O19, O20 and O21: the probe and the chain of TAPs. -/

namespace Sys2Proof.Proofs.TapsAndProbe

open Sys2Proof Sys2Proof.Machine Sys2Proof.Safety Sys2Proof.Laws
open Sys2Proof.Proofs.SketchRegionsTideAndTemperature (raised_raiseRec raise_silent)

variable {s : State} {k : Nat}

/-! ### A TAP's table -/

theorem tap_setTap_ne (s : State) (v : Tap) {j : Nat} (h : j ≠ k) : (s.setTap k v).tap j = s.tap j := tget_tset_ne _ _ _ h

theorem tap_setTap_kept (s : State) {v : Tap} (h : v.inst ≠ 0xFF) : (s.setTap k v).tap k = v :=
  tget_tset_kept _ _ _ _ fun hv => h (congrArg Tap.inst hv)

theorem tap_setTap_self (h : twf (fun _ => ({} : Tap)) s.dbg.taps = true) (v : Tap) : (s.setTap k v).tap k = v := tget_tset_self _ _ _ _ h

/-! ### What an instruction meets at a TAP -/

section
variable {code cls w : Nat} {f : State → State}

theorem tapDo_served (hk : k < if s.dbg.long = true then 32 else 2) (hup : s.pwr.mgmtUp = true) (hpwr : k < 2 ∨ s.pwrGood = true)
    (hmay : s.dbgMay cls k = true) : s.tapDo k code cls w f = f (s.setTap k { s.tap k with inst := code }) := by
  have hdark : ¬ (2 ≤ k ∧ ¬ s.pwrGood = true) := fun h => hpwr.elim (Nat.not_lt.2 h.1) h.2
  rw [State.tapDo, if_neg (by simp [hup, hk]), if_neg hdark, if_neg (by simp [hmay])]

theorem tapDo_denied (hk : k < if s.dbg.long = true then 32 else 2) (hup : s.pwr.mgmtUp = true) (hpwr : k < 2 ∨ s.pwrGood = true)
    (hmay : s.dbgMay cls k = false) : s.tapDo k code cls w f = s.dbgDenied k code := by
  have hdark : ¬ (2 ≤ k ∧ ¬ s.pwrGood = true) := fun h => hpwr.elim (Nat.not_lt.2 h.1) h.2
  rw [State.tapDo, if_neg (by simp [hup, hk]), if_neg hdark, if_pos (by simp [hmay])]

theorem tapDo_dark (hlong : s.dbg.long = true) (hk2 : 2 ≤ k) (hk : k < 32) (hup : s.pwr.mgmtUp = true) (hpwr : s.pwrGood = false) :
    s.tapDo k code cls w f = s.emit (.jtag k (2 ^ w - 1) w) := by
  rw [State.tapDo, if_neg (by simp [hup, hlong, hk]), if_pos ⟨hk2, by simp [hpwr]⟩]

end

theorem dbgMay_identification (h : s.lc ≠ lcRetired ∨ k < 2) : s.dbgMay 0 k = true := by
  simpa [State.dbgMay] using h

theorem dbgMay_identification_retired (h : s.lc = lcRetired ∧ 2 ≤ k) : s.dbgMay 0 k = false := by
  simp [State.dbgMay, h.1, Nat.not_lt.2 h.2]

theorem dbgMay_pins (h : s.lc = lcManufacturing ∨ s.lc = lcDevelopment ∨ s.lc = lcReturn) : s.dbgMay 1 k = true := by
  simpa [State.dbgMay, or_assoc] using h

theorem dbgMay_pins_closed (h : s.lc = lcProduction ∨ s.lc = lcRetired) : s.dbgMay 1 k = false := by
  rcases h with h | h
  · simp only [State.dbgMay, h]
    decide
  · simp only [State.dbgMay, h]
    decide

theorem dbgMay_tmux (h : s.lc = lcManufacturing ∨ s.lc = lcDevelopment ∨ s.lc = lcProduction) : s.dbgMay 2 k = true := by
  simpa [State.dbgMay, or_assoc] using h

theorem dbgMay_tmux_closed (h : s.lc = lcReturn ∨ s.lc = lcRetired) : s.dbgMay 2 k = false := by
  rcases h with h | h
  · simp only [State.dbgMay, h]
    decide
  · simp only [State.dbgMay, h]
    decide

theorem deniedTap_dbgDenied (ht : twf (fun _ => ({} : Tap)) s.dbg.taps = true) (hup : s.pwr.mgmtUp = true) (code : Nat) :
    DeniedTap k code s (s.dbgDenied k code) := by
  have heq : s.dbgDenied k code =
      ((s.setTap k { s.tap k with inst := 0xFF }).emit (.jtag k 0 1)).raiseRec modLog srcM 0x0A0C (leBytes 1 k ++ leBytes 1 code) := by
    simp only [State.dbgDenied]
    exact (if_pos hup).trans (raise_silent rfl _ _ _ _)
  rw [heq]
  exact ⟨tap_setTap_self ht _, fun j hj => tap_setTap_ne s _ hj, raised_raiseRec rfl rfl _ _ _ _, rfl⟩

/-- What an instruction that is not permitted leaves. -/
theorem exec_denied {code cls w : Nat} {f : State → State} (ht : twf (fun _ => ({} : Tap)) s.dbg.taps = true)
    (hk : k < if s.dbg.long = true then 32 else 2) (hup : s.pwr.mgmtUp = true) (hpwr : k < 2 ∨ s.pwrGood = true)
    (hmay : s.dbgMay cls k = false) :
    ∃ t : State, (Host.Outcome.next (s.tapDo k code cls w f) : Res) = .next t ∧ DeniedTap k code s t :=
  ⟨_, rfl, (tapDo_denied hk hup hpwr hmay).symm ▸ deniedTap_dbgDenied ht hup code⟩

/-! ### The boundary register -/

/-- What SAMPLE_PRELOAD and EXTEST load. -/
theorem tap_boundary (s : State) (k code cells : Nat) (h : code ≠ 0xFF) :
    ((s.setTap k { s.tap k with inst := code }).boundary k cells).tap k =
      { s.tap k with inst := code, cells := cells % 2 ^ Config.boundaryCells k } ∧
    ∀ j, j ≠ k → ((s.setTap k { s.tap k with inst := code }).boundary k cells).tap j = s.tap j := by
  have hset : (s.setTap k { s.tap k with inst := code }).tap k = { s.tap k with inst := code } := tap_setTap_kept s h
  refine ⟨?_, fun j hj => (tap_setTap_ne _ _ hj).trans (tap_setTap_ne s _ hj)⟩
  rw [State.boundary, hset]
  exact tap_setTap_kept _ h

/-- The pins of a die that an instruction takes. -/
theorem tap_holdPins (s : State) (k : Nat) (float : Bool) (h : (s.tap k).inst ≠ 0xFF) :
    (s.holdPins k float).tap k = { s.tap k with drives := !float, hiZ := float } ∧ ∀ j, j ≠ k → (s.holdPins k float).tap j = s.tap j :=
  ⟨tap_setTap_kept s h, fun _ hj => tap_setTap_ne s _ hj⟩

/-! ### Observation outputs -/

/-- A table filled with the values of `f` for the first `n` keys. -/
def filled (f : Nat → Nat) (n : Nat) : Tab Nat := (List.range n).foldl (fun m k => tsetD 0 m k (f k)) []

theorem filled_succ (f : Nat → Nat) (n : Nat) : filled f (n + 1) = tsetD 0 (filled f n) n (f n) := by
  simp only [filled, List.range_succ, List.foldl_append, List.foldl_cons, List.foldl_nil]

theorem twf_filled (f : Nat → Nat) (n : Nat) : twf (fun _ => 0) (filled f n) = true := by
  induction n with
  | zero => rfl
  | succ n ih => exact filled_succ f n ▸ twf_tset _ _ _ _ ih

theorem tgetD_filled (f : Nat → Nat) {i n : Nat} (h : i < n) : tgetD 0 (filled f n) i = f i := by
  induction n with
  | zero => exact absurd h (Nat.not_lt_zero i)
  | succ n ih =>
    rw [filled_succ]
    rcases Nat.lt_succ_iff_lt_or_eq.1 h with h | rfl
    · exact (tget_tset_ne _ _ _ h.ne).trans (ih h)
    · exact tget_tset_self _ _ _ _ (twf_filled f i)

theorem tmuxOut_disabled {n : Nat} (h : bitAt (tgetD 0 s.dbg.tmux n) 24 = false) : s.tmuxOut n = some false := by
  rw [State.tmuxOut, if_pos (.inr (.inl (by simp [h])))]

end Sys2Proof.Proofs.TapsAndProbe

section

open Sys2Proof Sys2Proof.Machine Sys2Proof.Safety Sys2Proof.Laws Sys2Proof.Proofs.TapsAndProbe
open Sys2Proof.Proofs.SketchRegionsTideAndTemperature (raise_silent)

/-- Settles O19: a change of the pin is one record of the M-die. -/
theorem probeAttachAndDetach : Obligations.ProbeAttachAndDetach := by
  unfold Obligations.ProbeAttachAndDetach
  refine ⟨fun s on hup hpin => ?_, fun s on hpin => congrArg Host.Outcome.next (if_pos (.inr hpin))⟩
  have hbytes : bytesAt (leBytes 1 (if on then 1 else 0)) 0 16 = (if on then 1#8 else 0#8) :: List.replicate 15 0#8 := by
    cases on <;> decide
  have heq : s.dbgAttach on =
      ({ s with hw := { s.hw with probe := on } } : State).raiseRec modLog srcM 0x0A0B (leBytes 1 (if on then 1 else 0)) := by
    rw [State.dbgAttach, if_neg (by simp [hup, hpin]), raise_silent rfl]
  refine ⟨_, congrArg Host.Outcome.next heq, rfl, ?_, rfl, fun src hsrc => tget_tset_ne _ _ _ hsrc⟩
  rw [← hbytes]
  rfl

/-- Settles O20: a permitted IDCODE, by the die class of the TAP's position. -/
theorem tapIdentification : Obligations.TapIdentification := by
  unfold Obligations.TapIdentification
  intro s k c hk hup hpwr hlc hclass
  have hc : tapClass k = c := by
    rcases hclass with hclass | ⟨hlo, hhi, rfl⟩
    · simp only [List.mem_cons, Prod.mk.injEq, List.not_mem_nil, or_false] at hclass
      rcases hclass with ⟨rfl, rfl⟩ | ⟨rfl, rfl⟩ | ⟨rfl, rfl⟩ | ⟨rfl, rfl⟩ | ⟨rfl, rfl⟩ | ⟨rfl, rfl⟩ | ⟨rfl, rfl⟩ | ⟨rfl, rfl⟩ | ⟨rfl, rfl⟩ |
        ⟨rfl, rfl⟩ | ⟨rfl, rfl⟩ | ⟨rfl, rfl⟩ <;> rfl
    · simp only [tapClass]
      split_ifs <;> omega
  refine ⟨_, congrArg Host.Outcome.next (tapDo_served hk hup hpwr (dbgMay_identification hlc)), ?_, rfl⟩
  rw [← hc]
  rfl

/-- Settles O21: an instruction is served, denied, or meets a die without power; then by what each loads. -/
theorem tapInstructions : Obligations.TapInstructions := by
  unfold Obligations.TapInstructions
  refine ⟨fun s => ⟨_, rfl, rfl, fun _ => rfl, rfl⟩, ?_, fun s k ws hk => congrArg Host.Outcome.next (if_neg hk), ?_, ?_, ?_, ?_,
    fun s k ht hk hup hpwr hlc => exec_denied ht hk hup hpwr (dbgMay_identification_retired hlc),
    fun s k ht hk hup hpwr hlc => exec_denied ht hk hup hpwr (dbgMay_identification_retired hlc),
    fun s k n ht hk hup hpwr hlc => exec_denied ht hk hup hpwr (dbgMay_identification_retired hlc),
    fun s k n ht hk hup hpwr hlc => exec_denied ht hk hup hpwr (dbgMay_pins_closed hlc),
    fun s k ht hk hup hpwr hlc => exec_denied ht hk hup hpwr (dbgMay_pins_closed hlc),
    fun s k ht hk hup hpwr hlc => exec_denied ht hk hup hpwr (dbgMay_pins_closed hlc), ?_, ?_, ?_⟩
  · intro s k ht hk hup hpwr hlc
    have hset : (s.setTap k { s.tap k with inst := 0xFF }).tap k = { s.tap k with inst := 0xFF } := tap_setTap_self ht _
    exact ⟨_, congrArg Host.Outcome.next (tapDo_served hk hup hpwr (dbgMay_identification hlc)), congrArg Tap.inst hset, hset,
      fun j hj => tap_setTap_ne s _ hj, rfl⟩
  · intro s k cells hk hup hpwr hlc
    obtain ⟨hself, hothers⟩ := tap_boundary s k 2 cells (by decide)
    exact ⟨_, congrArg Host.Outcome.next (tapDo_served hk hup hpwr (dbgMay_identification hlc)), hself, hothers, rfl⟩
  · intro s k cells hk hup hpwr hlc
    obtain ⟨hself, hothers⟩ := tap_boundary s k 0 cells (by decide)
    obtain ⟨hpins, hrest⟩ := tap_holdPins ((s.setTap k { s.tap k with inst := 0 }).boundary k cells) k false (by simp [hself])
    exact ⟨_, congrArg Host.Outcome.next (tapDo_served hk hup hpwr (dbgMay_pins hlc)), by rw [hpins, hself]; rfl,
      fun j hj => (hrest j hj).trans (hothers j hj), rfl⟩
  · intro s k hk hup hpwr hlc
    have hset : (s.setTap k { s.tap k with inst := 3 }).tap k = { s.tap k with inst := 3 } := tap_setTap_kept s (by simp)
    obtain ⟨hpins, hrest⟩ := tap_holdPins (s.setTap k { s.tap k with inst := 3 }) k false (by simp [hset])
    exact ⟨_, congrArg Host.Outcome.next (tapDo_served hk hup hpwr (dbgMay_pins hlc)), hpins.trans (by rw [hset]; rfl),
      fun j hj => (hrest j hj).trans (tap_setTap_ne s _ hj), rfl⟩
  · intro s k hk hup hpwr hlc
    have hset : (s.setTap k { s.tap k with inst := 4 }).tap k = { s.tap k with inst := 4 } := tap_setTap_kept s (by simp)
    obtain ⟨hpins, hrest⟩ := tap_holdPins (s.setTap k { s.tap k with inst := 4 }) k true (by simp [hset])
    exact ⟨_, congrArg Host.Outcome.next (tapDo_served hk hup hpwr (dbgMay_pins hlc)), hpins.trans (by rw [hset]; rfl),
      fun j hj => (hrest j hj).trans (tap_setTap_ne s _ hj), rfl⟩
  · intro s ws ht hup hlc
    rw [show exec (.tmuxsel 0 ws) s = .next (s.tmuxSel 0 ws) from rfl, State.tmuxSel, if_pos rfl]
    exact exec_denied (k := 0) ht (by split <;> decide) hup (.inl Nat.two_pos) (dbgMay_tmux_closed hlc)
  · intro s k n hlong hk2 hk hup hpwr
    exact ⟨congrArg Host.Outcome.next (tapDo_dark hlong hk2 hk hup hpwr), congrArg Host.Outcome.next (tapDo_dark hlong hk2 hk hup hpwr),
      congrArg Host.Outcome.next (tapDo_dark hlong hk2 hk hup hpwr), congrArg Host.Outcome.next (tapDo_dark hlong hk2 hk hup hpwr),
      congrArg Host.Outcome.next (tapDo_dark hlong hk2 hk hup hpwr), congrArg Host.Outcome.next (tapDo_dark hlong hk2 hk hup hpwr)⟩
  · intro s ws hup hlc
    have hword (n : Nat) (hn : n < 16) := tgetD_filled (fun k => ws.getD k 0 % 2 ^ 26) hn
    refine ⟨_, congrArg Host.Outcome.next ((if_pos rfl).trans (tapDo_served (k := 0) (by split <;> decide) hup (.inl Nat.two_pos)
      (dbgMay_tmux hlc))), hword,
      fun n hn hbit => tmuxOut_disabled ?_, rfl⟩
    refine (congrArg (bitAt · 24) (hword n hn)).trans ?_
    show (ws.getD n 0 % 2 ^ 26).testBit 24 = false
    rw [Nat.testBit_mod_two_pow, show (ws.getD n 0).testBit 24 = false from hbit, Bool.and_false]

end

/-! Proofs of O6, O7 and O8: event records into logs, the window of a source's counts, event queues and global interrupts. -/

namespace Sys2Proof.Proofs.EventRecords

open Sys2Proof Sys2Proof.Machine Sys2Proof.Safety Sys2Proof.Laws
open Sys2Proof.Proofs.RankingModelsAndTables (regsBut_setFld)
open Sys2Proof.Proofs.SketchRegionsTideAndTemperature (regsBut_trans regsBut_mono regsBut_of_regs OnlyRegs)
open Sys2Proof.Proofs.MemoryErrorsTemperaturesAndFlash (fld_of_sameRegs fld_incFld_wrap bitAt_putBits_one)
open Sys2Proof.Proofs.RegisterWrites
open Sys2Proof.Proofs.ObjectCommands (mem_of_tget_ne)

variable {s : State}

/-! ### A record written into its log -/

theorem evt_printRec (s : State) (l : Nat) (r : EvRec) : (s.printRec l r).evt = s.evt := by
  unfold State.printRec
  split_ifs <;> rfl

theorem regs_printRec (s : State) (l : Nat) (r : EvRec) : (s.printRec l r).regs = s.regs := by
  unfold State.printRec
  split_ifs <;> rfl

theorem evt_putRec (s : State) (l : Nat) (r : EvRec) : (s.putRec l r).evt = { s.evt with logs := tsetD [] s.evt.logs l (ringWith l r s) } := by
  have hlisted : (listed l r s).evt = { s.evt with logs := tsetD [] s.evt.logs l (ringWith l r s) } := (State.incFld_evt ..).trans (evt_withLogs ..)
  rw [putRec_eq, evt_printRec, overwritten]
  split
  · exact (State.setFld_evt ..).trans hlisted
  · exact hlisted

theorem ringWith_ne_nil (l : Nat) (r : EvRec) (s : State) : ringWith l r s ≠ [] := by
  have hring : 0 < logRing := by decide
  rw [ringWith, ne_eq, List.drop_eq_nil_iff, List.length_append, List.length_singleton]
  omega

/-- One log changed. -/
theorem log_of_evt {s t : State} {l : Nat} {v : List LogRec} (h : t.evt = { s.evt with logs := tsetD [] s.evt.logs l v }) (hv : v ≠ []) :
    t.log l = v ∧ ∀ k, k ≠ l → t.log k = s.log k := by
  simp only [State.log, h]
  exact ⟨tget_tset_kept _ _ _ _ hv, fun k hk => tget_tset_ne _ _ _ hk⟩

theorem log_putRec (s : State) (l : Nat) (r : EvRec) :
    (s.putRec l r).log l = ringWith l r s ∧ ∀ k, k ≠ l → (s.putRec l r).log k = s.log k :=
  log_of_evt (evt_putRec s l r) (ringWith_ne_nil l r s)

theorem srcSt_putRec (s : State) (l : Nat) (r : EvRec) (src : Nat) : (s.putRec l r).srcSt src = s.srcSt src := by
  rw [State.srcSt, evt_putRec, State.srcSt]

theorem regsBut_overwritten (l : Nat) (r : EvRec) (s : State) : RegsBut [.evqLsn l, .evqStat l] s (overwritten l r s) := by
  have hlisted : RegsBut [.evqLsn l, .evqStat l] s (listed l r s) :=
    regsBut_trans (regsBut_of_regs _ (regs_withLogs ..)) (regsBut_mono (regsBut_setFld _ _ _ _) (by simp))
  rw [overwritten]
  split
  · exact regsBut_trans hlisted (regsBut_mono (regsBut_setFld _ _ _ _) (by simp))
  · exact hlisted

theorem regsBut_putRec (s : State) (l : Nat) (r : EvRec) : RegsBut [.evqLsn l, .evqStat l] s (s.putRec l r) := by
  rw [putRec_eq]
  exact regsBut_trans (regsBut_overwritten l r s) (regsBut_of_regs _ (regs_printRec ..))

theorem fld_evqLsn_putRec (h : RegsOk s) (l : Nat) (r : EvRec) :
    (s.putRec l r).fld (.evqLsn l) EVQ_LSN_LSN = (s.fld (.evqLsn l) EVQ_LSN_LSN + 1) % 2 ^ 64 := by
  have hlisted : (listed l r s).fld (.evqLsn l) EVQ_LSN_LSN = (s.fld (.evqLsn l) EVQ_LSN_LSN + 1) % 2 ^ 64 :=
    (fld_incFld_wrap (regsOk_withLogs h _) (by decide) rfl).trans (by rw [fld_of_sameRegs (regs_withLogs ..)]; rfl)
  rw [putRec_eq, fld_of_sameRegs (regs_printRec ..), overwritten]
  split
  · exact (State.fld_setFld_ne _ _ _ _ _ _ (by simp [regOff])).trans hlisted
  · exact hlisted

/-! ### The oldest raised record of a source -/

theorem takeRaised_oldest {src l : Nat} {r : EvRec} {pre post : List (Nat × EvRec)} (hpre : ∀ e ∈ pre, e.2.src ≠ src) (hr : r.src = src) :
    takeRaised src (pre ++ (l, r) :: post) = some ((l, r), pre ++ post) := by
  induction pre with
  | nil => exact if_pos hr
  | cons e pre ih =>
    simp only [List.cons_append, takeRaised, if_neg (hpre e List.mem_cons_self), ih fun x hx => hpre x (List.mem_cons_of_mem _ hx)]

/-- A source's oldest record leaves those that wait. -/
def taken (rest : List (Nat × EvRec)) (s : State) : State := { s with evt := { s.evt with raised := rest } }

/-- A source has written one record more in this window. -/
def counted (src : Nat) (s : State) : State := s.setSrcSt src { s.srcSt src with inWin := (s.srcSt src).inWin + 1 }

theorem writeRecord_written {src l : Nat} {r : EvRec} {rest : List (Nat × EvRec)} (h : takeRaised src s.evt.raised = some ((l, r), rest))
    (hwin : (s.srcSt src).inWin < 4096) : s.writeRecord src = (counted src (taken rest s)).putRec l r := by
  simp only [State.writeRecord, h]
  exact if_pos hwin

theorem writeRecord_dropped {src l : Nat} {r : EvRec} {rest : List (Nat × EvRec)} (h : takeRaised src s.evt.raised = some ((l, r), rest))
    (hwin : 4096 ≤ (s.srcSt src).inWin) :
    s.writeRecord src = (taken rest s).setSrcSt src { s.srcSt src with drops := noteDrop l r.seq (s.srcSt src).drops } := by
  simp only [State.writeRecord, h]
  exact if_neg (Nat.not_lt.2 hwin)

theorem inWin_counted (src : Nat) (s : State) : ((counted src s).srcSt src).inWin = (s.srcSt src).inWin + 1 :=
  congrArg SrcSt.inWin (tget_tset_kept _ _ _ _ fun h => Nat.succ_ne_zero _ (congrArg SrcSt.inWin h))

/-! ### The next window -/

/-- A source has written and dropped nothing in this window. -/
def Clean (s : State) (src : Nat) : Prop := (s.srcSt src).inWin = 0 ∧ (s.srcSt src).drops = []

/-- What the start of a window does before the sources' counts: the console's second, the window's number, the floors reported. -/
def windowed (s : State) : State :=
  let t := if s.evt.win / 1000 < s.svcTime / tickMs / 1000 then s.rollConsole else s
  { t with evt := { t.evt with win := s.svcTime / tickMs }, part := { t.part with floorSaid := [] } }

theorem windowStart_eq (h : s.evt.win < s.svcTime / 400000) : s.windowStart = (s.evt.srcs.map (·.1)).foldl State.rollSrc (windowed s) := by
  have hkeys : (windowed s).evt.srcs = s.evt.srcs := by
    simp only [windowed, State.rollConsole]
    split_ifs <;> rfl
  rw [← hkeys]
  exact if_pos h

theorem evt_windowed (s : State) : (windowed s).evt = { s.evt with win := s.svcTime / tickMs } := by
  simp only [windowed, State.rollConsole]
  split_ifs <;> rfl

theorem windowed_frame (s : State) :
    windowed s = { s with evt := (windowed s).evt, part := { s.part with floorSaid := [] }, dbg := (windowed s).dbg, outbox := (windowed s).outbox } := by
  simp only [windowed, State.rollConsole]
  split_ifs <;> rfl

/-- What the drops of source `src` leave: the counts of the others, the window, and the table in order. -/
structure Rolls (src : Nat) (s t : State) : Prop where
  ok : twf (fun _ => ({} : SrcSt)) s.evt.srcs = true → twf (fun _ => ({} : SrcSt)) t.evt.srcs = true
  others : ∀ x, x ≠ src → t.srcSt x = s.srcSt x
  win : t.evt.win = s.evt.win
  records : OnlyRecords s t

theorem Rolls.trans {src : Nat} {s t u : State} (h : Rolls src s t) (g : Rolls src t u) : Rolls src s u :=
  ⟨fun hs => g.ok (h.ok hs), fun x hx => (g.others x hx).trans (h.others x hx), g.win.trans h.win, h.records.trans g.records⟩

theorem rolls_setSrcSt (s : State) (src : Nat) (v : SrcSt) : Rolls src s (s.setSrcSt src v) :=
  ⟨twf_tset _ _ _ _, fun _ hx => tget_tset_ne _ _ _ hx, rfl, onlyRecords_evt ..⟩

theorem rolls_putRec (s : State) (src l : Nat) (r : EvRec) : Rolls src s (s.putRec l r) :=
  ⟨fun hs => by rwa [evt_putRec], fun x _ => srcSt_putRec s l r x, by rw [evt_putRec], onlyRecords_putRec ..⟩

theorem rolls_writeDrops (src : Nat) (ds : List Dropped) (s : State) : Rolls src s (s.writeDrops src ds) := by
  induction ds generalizing s with
  | nil => exact ⟨id, fun _ _ => rfl, rfl, .refl s⟩
  | cons d ds ih => exact ((rolls_setSrcSt s src _).trans (rolls_putRec _ src _ _)).trans (ih _)

theorem rolls_rollSrc (s : State) (src : Nat) : Rolls src s (s.rollSrc src) := (rolls_writeDrops src _ s).trans (rolls_setSrcSt _ _ _)

theorem clean_rollSrc (h : twf (fun _ => ({} : SrcSt)) s.evt.srcs = true) (src : Nat) : Clean (s.rollSrc src) src := by
  have hself : (s.rollSrc src).srcSt src = _ := tget_tset_self _ _ _ _ ((rolls_writeDrops src (s.srcSt src).drops s).ok h)
  rw [Clean, hself]
  exact ⟨rfl, rfl⟩

/-- Every source of the list is clean after its turn, and the others stay as they were. -/
theorem clean_foldl (l : List Nat) {s : State} (h : twf (fun _ => ({} : SrcSt)) s.evt.srcs = true) {src : Nat} (hsrc : src ∈ l ∨ Clean s src) :
    Clean (l.foldl State.rollSrc s) src := by
  induction l generalizing s with
  | nil => exact hsrc.resolve_left List.not_mem_nil
  | cons x l ih =>
    refine ih ((rolls_rollSrc s x).ok h) ?_
    by_cases hx : src = x
    · exact .inr (hx ▸ clean_rollSrc h x)
    · rcases hsrc with hmem | hclean
      · exact .inl ((List.mem_cons.1 hmem).resolve_left hx)
      · exact .inr (by rwa [Clean, (rolls_rollSrc s x).others src hx])

theorem foldl_rollSrc (l : List Nat) (s : State) :
    (l.foldl State.rollSrc s).evt.win = s.evt.win ∧ OnlyRecords s (l.foldl State.rollSrc s) :=
  List.foldlRecOn (motive := fun t : State => t.evt.win = s.evt.win ∧ OnlyRecords s t) l _ ⟨rfl, .refl s⟩ fun t ht x _ =>
    ⟨(rolls_rollSrc t x).win.trans ht.1, ht.2.trans (rolls_rollSrc t x).records⟩

theorem clean_of_not_listed {src : Nat} (h : src ∉ s.evt.srcs.map (·.1)) : Clean s src := by
  have hdefault : s.srcSt src = {} := by
    by_contra hne
    exact h (List.mem_map.2 ⟨_, mem_of_tget_ne _ hne, rfl⟩)
  rw [Clean, hdefault]
  exact ⟨rfl, rfl⟩

theorem ringWith_eq {s u : State} (hlogs : u.evt.logs = s.evt.logs) (ht : u.svcTime = s.svcTime) (l : Nat) (r : EvRec) :
    ringWith l r u = (s.log l ++ [LogRec.mk r s.svcTime]).drop ((s.log l).length + 1 - 65536) := by
  simp only [ringWith, State.log, hlogs, ht, List.length_append, List.length_singleton, logRing]

/-- What a record written within the limit leaves. -/
theorem writeRecord_spec {src l : Nat} {r : EvRec} {rest : List (Nat × EvRec)} (h : takeRaised src s.evt.raised = some ((l, r), rest))
    (hs : RegsOk s) (hwin : (s.srcSt src).inWin < 4096) :
    (s.writeRecord src).evt.raised = rest ∧
      (s.writeRecord src).log l = (s.log l ++ [LogRec.mk r s.svcTime]).drop ((s.log l).length + 1 - 65536) ∧
      (∀ k, k ≠ l → (s.writeRecord src).log k = s.log k) ∧ ((s.writeRecord src).srcSt src).inWin = (s.srcSt src).inWin + 1 ∧
      (s.writeRecord src).fld (.evqLsn l) EVQ_LSN_LSN = (s.fld (.evqLsn l) EVQ_LSN_LSN + 1) % 2 ^ 64 ∧
      RegsBut [.evqLsn l, .evqStat l] s (s.writeRecord src) := by
  obtain ⟨u, hu⟩ : ∃ u, u = counted src (taken rest s) := ⟨_, rfl⟩
  have hlogs : u.evt.logs = s.evt.logs := by rw [hu]; rfl
  have hraised : u.evt.raised = rest := by rw [hu]; rfl
  have htime : u.svcTime = s.svcTime := by rw [hu]; rfl
  have hregs : u.regs = s.regs := by rw [hu]; rfl
  have hcount : (u.srcSt src).inWin = (s.srcSt src).inWin + 1 := by rw [hu]; exact inWin_counted src _
  rw [writeRecord_written h hwin, ← hu]
  obtain ⟨hself, hothers⟩ := log_putRec u l r
  refine ⟨?_, hself.trans (ringWith_eq hlogs htime l r), fun k hk => (hothers k hk).trans ?_, ?_, ?_, ?_⟩
  · rw [evt_putRec, hraised]
  · rw [State.log, hlogs, State.log]
  · rw [srcSt_putRec, hcount]
  · rw [fld_evqLsn_putRec ((congrArg (twf regRstAt) hregs).trans hs), fld_of_sameRegs hregs]
  · exact regsBut_trans (regsBut_of_regs _ hregs) (regsBut_putRec u l r)

/-- The EVT_DROPPED record of a source's drops from one log. -/
theorem logs_writeDrops_single (s : State) (src : Nat) (d : Dropped) :
    (s.writeDrops src [d]).log d.log = (s.log d.log ++ [LogRec.mk ⟨src, 0x0B05, (s.srcSt src).seq % 2 ^ 32, s.svcTime,
      bytesAt (leBytes 4 d.first ++ leBytes 4 d.count) 0 16⟩ s.svcTime]).drop ((s.log d.log).length + 1 - 65536) :=
  (log_putRec _ _ _).1.trans (ringWith_eq rfl rfl _ _)

/-! ### Messages and pending bits -/

/-- A vector's message is sent, or its pending bit is set while it is masked; registers change in the second case only. -/
def Messaged (v : Nat) (s t : State) : Prop :=
  if s.flag (.msixData v) MSIX_DATA_MASK then
    t.outbox = s.outbox ∧ bitAt (t.reg (.msixPba (v / 64))).toNat (v % 64) = true ∧ RegsBut [.msixPba (v / 64)] s t
  else t.outbox = s.outbox ++ [Out.msix (s.reg (.msixAddr v)).toNat (s.fld (.msixData v) MSIX_DATA_DATA)] ∧ t.regs = s.regs

theorem messaged_msix (h : RegsOk s) (v : Nat) : Messaged v s (s.msix v) := by
  unfold Messaged State.msix
  by_cases hm : s.flag (.msixData v) MSIX_DATA_MASK = true
  · rw [if_pos hm, if_pos hm]
    refine ⟨rfl, ?_, regsBut_setReg _ _ _⟩
    rw [State.reg_setReg_self _ _ _ h, BitVec.toNat_ofNat]
    exact bitAt_putBits_one _ (Nat.mod_lt v (by decide))
  · rw [if_neg hm, if_neg hm]
    exact ⟨rfl, rfl⟩

theorem msix_frame (s : State) (v : Nat) : s.msix v = { s with regs := (s.msix v).regs, outbox := (s.msix v).outbox } := by
  unfold State.msix
  split <;> rfl

theorem msix_of_onlyRegs {s t : State} (h : OnlyRegs s t) (v : Nat) : t.msix v = { s with regs := (t.msix v).regs, outbox := (t.msix v).outbox } := by
  obtain ⟨_, rfl⟩ := h
  exact msix_frame _ v

/-- An event queue's status lies below the message table. -/
theorem regOff_msix_ne_evqStat {l : Nat} (hl : l ≤ 64) (v : Nat) :
    regOff (.msixData v) ≠ regOff (.evqStat l) ∧ regOff (.msixAddr v) ≠ regOff (.evqStat l) ∧ regOff (.evqStat l) ≠ regOff (.msixPba v) := by
  simp only [regOff]
  omega

theorem evqTrigger_of {l k : Nat} (h : s.fld (.evqCfg l) EVQ_CFG_THRESH ≤ s.fld (.evqLsn l) EVQ_LSN_LSN - s.fld (.evqAck l) EVQ_ACK_ACK ∨
    (s.fld (.evqAck l) EVQ_ACK_ACK < s.fld (.evqLsn l) EVQ_LSN_LSN ∧ s.fld (.evqCfg l) EVQ_CFG_ITIME ≠ 0 ∧
      s.recTime l (s.fld (.evqAck l) EVQ_ACK_ACK) = some k ∧ s.fld (.evqCfg l) EVQ_CFG_ITIME * tickUs ≤ s.svcTime - k)) :
    s.evqTrigger l = true := by
  rcases h with h | ⟨hopen, htime, hrec, hwait⟩
  · simp [State.evqTrigger, h]
  · simp [State.evqTrigger, hopen, htime, hrec, hwait]

end Sys2Proof.Proofs.EventRecords

section

open Sys2Proof Sys2Proof.Machine Sys2Proof.Safety Sys2Proof.Laws Sys2Proof.Proofs.EventRecords
open Sys2Proof.Proofs.RankingModelsAndTables (regsBut_setFld)
open Sys2Proof.Proofs.SketchRegionsTideAndTemperature (regsBut_trans regsBut_mono regsBut_of_regs reg_of_regsBut fld_of_regsBut flag_of_regsBut
  onlyRegs_setFld OnlyRegs.trans)
open Sys2Proof.Proofs.RegisterWrites

/-- Settles O6: the source's oldest record, written into its log or dropped. -/
theorem eventRecordReachesItsLog : Obligations.EventRecordReachesItsLog := by
  unfold Obligations.EventRecordReachesItsLog
  refine ⟨fun s src l r pre post hs hraised hpre hr hwin => ?_, fun s src l r pre post hraised hpre hr hwin => ?_⟩
  · have htaken : takeRaised src s.evt.raised = some ((l, r), pre ++ post) := hraised ▸ takeRaised_oldest hpre hr
    obtain ⟨hrest, hself, hothers, hcount, hlsn, hregs⟩ := writeRecord_spec htaken hs hwin
    exact ⟨_, rfl, hrest, hself, hothers, hcount, hlsn, hregs, (onlyRecords_writeRecord s src).eq⟩
  · have htaken : takeRaised src s.evt.raised = some ((l, r), pre ++ post) := hraised ▸ takeRaised_oldest hpre hr
    exact ⟨_, congrArg Host.Outcome.next (writeRecord_dropped htaken hwin), rfl, rfl, rfl⟩

/-- Settles O7: each source's counts start anew in its turn. -/
theorem eventWindowRestartsCounts : Obligations.EventWindowRestartsCounts := by
  unfold Obligations.EventWindowRestartsCounts
  refine ⟨fun s hsrcs hwin => ?_, fun s src k d hsrcs hdrops hwin => ?_⟩
  · have hevt := evt_windowed s
    obtain ⟨hwindow, hrecords⟩ := foldl_rollSrc (s.evt.srcs.map (·.1)) (windowed s)
    refine ⟨_, congrArg Host.Outcome.next (windowStart_eq hwin), ?_, fun src => clean_foldl _ (by rwa [hevt]) ?_, ?_, ?_⟩
    · rw [hwindow, hevt]
      rfl
    · by_cases hlisted : src ∈ s.evt.srcs.map (·.1)
      · exact .inl hlisted
      · have hclean : Clean s src := clean_of_not_listed hlisted
        refine .inr ?_
        rwa [Clean, State.srcSt, hevt]
    · rw [hrecords.eq, windowed_frame]
    · rw [hrecords.eq, windowed_frame]
  · have hevt := evt_windowed s
    have hsrc : (windowed s).srcSt src = k := by
      rw [State.srcSt, hevt]
      simp only [tgetD, hsrcs, tget, if_true]
    have hlogs : (windowed s).log d.log = s.log d.log := by rw [State.log, hevt, State.log]
    have htime : (windowed s).svcTime = s.svcTime := by rw [windowed_frame]
    have hroll : s.windowStart = (windowed s).rollSrc src := by
      rw [windowStart_eq hwin, hsrcs]
      rfl
    refine ⟨_, congrArg Host.Outcome.next hroll, ?_⟩
    have hdrop : ((windowed s).rollSrc src).log d.log = ((windowed s).writeDrops src [d]).log d.log := by
      rw [State.rollSrc, hsrc, hdrops]
      rfl
    rw [hdrop, logs_writeDrops_single, hsrc, hlogs, htime]

/-- Settles O8: an acknowledgement, and messages that go or stay pending. -/
theorem eventQueuesAndGlobalInterrupts : Obligations.EventQueuesAndGlobalInterrupts := by
  unfold Obligations.EventQueuesAndGlobalInterrupts
  refine ⟨fun s l v hs hup hl hv => ?_, fun s l v h hl hno => ?_, fun s l k hs hl hen hpend htrig => ?_, fun s l hl hno => ?_,
    fun s c pre post hs hdue hpre => ?_⟩
  · have hok := s.regsOk_setFld (.evqAck l) EVQ_ACK_ACK v hs
    have hoff : regOff (.evqAck l) ≠ regOff (.evqStat l) := by simp [regOff]
    have hwrite : exec (.evqAckWrite l .whole v) s = .next ((s.setFld (.evqAck l) EVQ_ACK_ACK v).setFld (.evqStat l) EVQ_STAT_PEND 0) :=
      congrArg Host.Outcome.next ((if_pos hl).trans ((onBus_up hup _).trans (if_pos ⟨rfl, hv⟩)))
    refine ⟨_, hwrite, ?_, State.fld_setFld_self _ _ _ _ hok (by decide), ?_,
      regsBut_trans (regsBut_mono (regsBut_setFld s _ _ _) (by simp)) (regsBut_mono (regsBut_setFld _ _ _ _) (by simp)),
      eq_of_onlyRegs ((onlyRegs_setFld s _ _ _).trans (onlyRegs_setFld _ _ _ _))⟩
    · exact (State.fld_setFld_ne _ _ _ _ _ _ hoff).trans (State.fld_setFld_self _ _ _ _ hs (by decide))
    · exact (State.fld_setFld_fld _ _ _ _ _ hok (by decide) (by decide)).trans (State.fld_setFld_ne _ _ _ _ _ _ hoff.symm)
  · have hsame : s.wrEvqAck l h v = s := by
      refine if_neg fun hyes => ?_
      rcases hno with hhalf | habove
      · exact hhalf hyes.1
      · exact Nat.not_le.2 habove hyes.2
    exact congrArg Host.Outcome.next ((if_pos hl).trans (onBus_idle hsame))
  · obtain ⟨hdata, haddr, hpba⟩ := regOff_msix_ne_evqStat hl (s.fld (.evqCfg l) EVQ_CFG_VEC)
    obtain ⟨-, -, hpba⟩ := regOff_msix_ne_evqStat hl (s.fld (.evqCfg l) EVQ_CFG_VEC / 64)
    have hset := regsBut_setFld s (.evqStat l) EVQ_STAT_PEND 1
    have hok := s.regsOk_setFld (.evqStat l) EVQ_STAT_PEND 1 hs
    have hsend : exec (.evqInterrupt l) s = .next ((s.setFld (.evqStat l) EVQ_STAT_PEND 1).msix (s.fld (.evqCfg l) EVQ_CFG_VEC)) := by
      refine congrArg Host.Outcome.next ((if_pos hl).trans ((if_pos ?_).trans ?_))
      · simp [hen, hpend, evqTrigger_of htrig]
      · rfl
    have hmsg := messaged_msix hok (s.fld (.evqCfg l) EVQ_CFG_VEC)
    have hpending : (s.setFld (.evqStat l) EVQ_STAT_PEND 1).fld (.evqStat l) EVQ_STAT_PEND = 1 := State.fld_setFld_self _ _ _ _ hs (by decide)
    refine ⟨_, hsend, ?_, ?_, ?_⟩
    · rw [Messaged] at hmsg
      split at hmsg
      · obtain ⟨-, -, hregs⟩ := hmsg
        exact (fld_of_regsBut hregs (by simpa using hpba) _).trans hpending
      · obtain ⟨-, hregs⟩ := hmsg
        exact (fld_of_regsBut (regsBut_of_regs [] hregs) (by simp) _).trans hpending
    · rw [Messaged, flag_of_regsBut hset (by simpa using hdata)] at hmsg
      split
      next hmask =>
        rw [if_pos hmask] at hmsg
        obtain ⟨hout, hbit, hregs⟩ := hmsg
        exact ⟨hout, hbit, regsBut_trans (regsBut_mono hset (by simp)) (regsBut_mono hregs (by simp))⟩
      next hmask =>
        rw [if_neg hmask, reg_of_regsBut hset (by simpa using haddr), fld_of_regsBut hset (by simpa using hdata)] at hmsg
        obtain ⟨hout, hregs⟩ := hmsg
        exact ⟨hout, regsBut_trans hset (regsBut_of_regs _ hregs)⟩
    · exact msix_of_onlyRegs (onlyRegs_setFld s _ _ _) _
  · have hidle : s.evqInterrupt l = s := by
      refine if_neg ?_
      rcases hno with h | h | h
      · simp [h]
      · simp [h]
      · simp [h]
    exact congrArg Host.Outcome.next ((if_pos hl).trans hidle)
  · have hpre' : ∀ e ∈ pre, decide (e = c) = false := fun e he => decide_eq_false fun h => hpre (h ▸ he)
    have hsend : exec (.glbIntCause c) s =
        .next (({ s with evt := { s.evt with due := pre ++ post } } : State).msix (s.fld .glbCtl GLB_CTL_GVEC)) := by
      have hmem : s.evt.due.contains c = true := by simp [hdue]
      refine congrArg Host.Outcome.next ((if_pos hmem).trans ?_)
      rw [hdue, dropFirst_append post hpre' (decide_eq_true rfl)]
    have hmsg := messaged_msix (s := { s with evt := { s.evt with due := pre ++ post } }) hs (s.fld .glbCtl GLB_CTL_GVEC)
    refine ⟨_, hsend, ?_, hmsg, ?_⟩
    · rw [msix_frame]
    · rw [msix_frame]

end

/-! Proof of O18: accesses to a register. A register without a write rule of its own takes what its fields' access types say, whichever
agent brings the write. -/

namespace Sys2Proof.Proofs.RegisterAccess

open Sys2Proof Sys2Proof.Machine Sys2Proof.Safety
open Sys2Proof.Proofs.RegisterWrites Sys2Proof.Proofs.RegisterMap
open Sys2Proof.Proofs.TapsAndProbe (tapDo_served)
open Sys2Proof.Proofs.SketchRegionsTideAndTemperature (OnlyRegs)
open Sys2Proof.Proofs.RankingModelsAndTables (regsBut_setFld)
open Sys2Proof.Proofs.MemoryErrorsTemperaturesAndFlash (fld_incFld_sat)

variable {s : State} {src o a v : Nat} {h : Half} {r : Reg}

/-! ### What one register answers and takes -/

theorem regWrite_plain (hr : plainReg r = true) (s : State) (src : Nat) (h : Half) (v : Nat) : s.regWrite src r h v = s.plainWrite r h v := by
  cases r
  all_goals simp only [plainReg, Bool.false_eq_true] at hr
  all_goals rfl

theorem wakeFor_awake (hr : Awake r s) : s.wakeFor r = s := by
  rw [State.wakeFor]
  split
  next q hq => exact if_neg fun hasleep => by simp [hr q hq] at hasleep
  next => rfl

theorem regStore_plain (hat : regAt o = some r) (hr : plainReg r = true) (hawake : Awake r s) :
    s.regStore src o h v = s.plainWrite r h v := by
  rw [State.regStore, hat]
  exact (congrArg (State.regWrite · src r h v) (wakeFor_awake hawake)).trans (regWrite_plain hr ..)

theorem regStore_none (hat : regAt o = none) : s.regStore src o h v = s.badReg := by rw [State.regStore, hat]

theorem regRead_shown (hat : regAt o = some r) (hawake : Awake r s) (hpool : ∀ j, r ≠ .poolAlloc j) :
    s.regRead src o = (s, s.shown r) := by
  rw [State.regRead, hat]
  split
  next heq => exact absurd heq (by simp)
  next j heq => exact absurd (Option.some.inj heq) (hpool j)
  next x _ heq =>
    obtain rfl := Option.some.inj heq
    rw [wakeFor_awake hawake]

theorem isQuadUnit_of_busSource (h : busSource src = true) : isQuadUnit src = false := by
  simp only [busSource, isAgent, Bool.or_eq_true, Bool.and_eq_true, decide_eq_true_eq] at h
  simp only [srcHost, srcM, srcT, srcQuay, srcFlash] at h
  simp only [isQuadUnit, decide_eq_false_iff_not]
  omega

theorem busWrite_served (hsrc : busSource src = true) (hup : s.busUp src = true) (ho : o < 2 ^ 26) :
    s.busWrite src o h v = s.regStore src o h v := by
  rw [State.busWrite, if_neg (by simp [isQuadUnit_of_busSource hsrc]), if_neg (by simp [hsrc]; omega), if_neg (by simp [hup])]

/-- A refused access is counted in BADREG. -/
theorem badReg_spec (hs : RegsOk s) :
    s.badReg.fld .glbStat GLB_STAT_BADREG = satAdd (2 ^ GLB_STAT_BADREG.w - 1) (s.fld .glbStat GLB_STAT_BADREG) 1 ∧ RegsBut [.glbStat] s s.badReg ∧
      OnlyRegs s s.badReg :=
  ⟨fld_incFld_sat hs (by decide) rfl, regsBut_setFld _ _ _ _, ⟨_, rfl⟩⟩

/-- An answer leaves the registers, and follows what left the module before. -/
theorem emit_spec {rs : List Reg} {s u : State} (hregs : RegsBut rs s u) (honly : OnlyRegs s u) (x : Out) :
    (∀ r f, (u.emit x).fld r f = u.fld r f) ∧ RegsBut rs s (u.emit x) ∧ (u.emit x).outbox = s.outbox ++ [x] ∧
      u.emit x = { s with regs := (u.emit x).regs, outbox := (u.emit x).outbox } := by
  refine ⟨fun r f => State.emit_fld .., hregs, ?_, ?_⟩
  · exact congrArg (· ++ [x]) (outbox_of_onlyRegs honly)
  · obtain ⟨rs, rfl⟩ := honly
    rfl

theorem eq_of_onlyRegs_outbox {s u : State} (h : OnlyRegs s u) : u = { s with regs := u.regs, outbox := u.outbox } := by
  obtain ⟨_, rfl⟩ := h
  rfl

/-! ### SCH_CTL -/

theorem regAt_schCtl : regAt (regOff .schCtl) = some .schCtl := regAt_of_array (a := (0x40000, 8, 1, fun _ => .schCtl)) (i := 0) (by simp [regArrays]) Nat.one_pos

theorem writeFlds_schCtl (hh : h = .whole ∨ h = .low) (hv : v < 2 ^ 64) (ok : LockKind → Bool) (w : Word) :
    writeFlds ok (halfMask h) (halfVal h v) (regFields .schCtl) w = fput w SCH_CTL_WDOG (bits v 0 16) := by
  have hhit : fhit (halfMask h) SCH_CTL_WDOG = true := by
    rcases hh with rfl | rfl
    · decide
    · decide
  have hval : bits (halfVal h v) 0 16 = bits v 0 16 := by
    rcases hh with rfl | rfl
    · rw [halfVal, Nat.mod_eq_of_lt hv]
    · simp only [halfVal, bits, Nat.shiftRight_zero]
      omega
  show writeFld ok (halfMask h) (halfVal h v) w SCH_CTL_WDOG = _
  rw [writeFld, if_pos hhit]
  exact congrArg (fput w SCH_CTL_WDOG) hval

/-! ### DBGACC and the console -/

/-- The state with other TAPs, and more that left the module. -/
def beside (d : DbgState) (ob : List Out) (s : State) : State := { s with dbg := d, outbox := ob }

theorem incFld_beside (d : DbgState) (ob : List Out) (s : State) (r : Reg) (f : Fld) (n : Nat) :
    (beside d ob s).incFld r f n = beside d ob (s.incFld r f n) := rfl

theorem fld_beside (d : DbgState) (ob : List Out) (s : State) (r : Reg) (f : Fld) : (beside d ob s).fld r f = s.fld r f := rfl

theorem fld_withSk (s : State) (k : SkState) (r : Reg) (f : Fld) : ({ s with sk := k } : State).fld r f = s.fld r f := rfl

theorem fld_withPwr (s : State) (p : PwrState) (r : Reg) (f : Fld) : ({ s with pwr := p } : State).fld r f = s.fld r f := rfl

theorem svcTime_beside (d : DbgState) (ob : List Out) (s : State) : (beside d ob s).svcTime = s.svcTime := rfl

theorem sk_beside (d : DbgState) (ob : List Out) (s : State) : (beside d ob s).sk = s.sk := rfl

theorem pwr_beside (d : DbgState) (ob : List Out) (s : State) : (beside d ob s).pwr = s.pwr := rfl

theorem duty_beside (d : DbgState) (ob : List Out) (s : State) : (beside d ob s).duty = s.duty := rfl

theorem fld_incFld_beside (d : DbgState) (ob : List Out) (s : State) (r x : Reg) (f g : Fld) (n : Nat) :
    ((beside d ob s).incFld r f n).fld x g = (s.incFld r f n).fld x g := by rw [incFld_beside, fld_beside]

theorem fld_countThrot (s : State) (n : Nat) (r : Reg) (f : Fld) : (s.countThrot n).fld r f =
    match (tgetO s.sk.throtAt n).join with
    | some t0 => (s.incFld (.skTstat n) SK_TSTAT_THRTIME ((s.svcTime - t0) / tickUs)).fld r f
    | none => s.fld r f := by
  rw [State.countThrot]
  cases (tgetO s.sk.throtAt n).join with
  | none => rfl
  | some t0 => exact fld_withSk ..

theorem fld_countCap (s : State) (r : Reg) (f : Fld) : s.countCap.fld r f =
    if s.duty < 16 then (s.incFld .pmStat PM_STAT_CAPTIME ((s.svcTime - s.pwr.capMark) / tickMs)).fld r f else s.fld r f := by
  rw [State.countCap]
  split
  · exact fld_withPwr ..
  · exact fld_withPwr ..

theorem fld_countThrot_beside (d : DbgState) (ob : List Out) (s : State) (n : Nat) (r : Reg) (f : Fld) :
    ((beside d ob s).countThrot n).fld r f = (s.countThrot n).fld r f := by
  rw [fld_countThrot, fld_countThrot, sk_beside]
  cases (tgetO s.sk.throtAt n).join with
  | none => exact fld_beside ..
  | some t0 => exact (svcTime_beside d ob s ▸ fld_incFld_beside ..)

theorem fld_countCap_beside (d : DbgState) (ob : List Out) (s : State) (r : Reg) (f : Fld) :
    (beside d ob s).countCap.fld r f = s.countCap.fld r f := by
  rw [fld_countCap, fld_countCap, duty_beside, svcTime_beside, pwr_beside, fld_incFld_beside, fld_beside]

/-- What a register shows does not depend on the TAPs and on what left the module. -/
theorem shown_beside (d : DbgState) (ob : List Out) (s : State) (r : Reg) : (beside d ob s).shown r = s.shown r := by
  cases r
  case skTstat n => exact congrArg (show1 _ SK_TSTAT_THRTIME) (fld_countThrot_beside d ob s n _ _)
  case pmStat => exact congrArg (show1 _ PM_STAT_CAPTIME) (fld_countCap_beside d ob s _ _)
  all_goals rfl

/-- The state in which DBGACC makes its access: its TAP has taken the instruction, and shifted out what it captured. -/
def accessing (k : Nat) (s : State) : State :=
  (s.setTap k { s.tap k with inst := 0x21 }).emit (.jtag k (s.dbg.half * 2 ^ 64) 96)

theorem dbgacc_served {k dr : Nat} (hk : k < if s.dbg.long = true then 32 else 2) (hm : s.pwr.mgmtUp = true) (hup : s.pwrGood = true)
    (hmay : s.dbgMay (if bitAt dr 41 then 4 else 3) k = true) : s.dbgacc k dr =
      if bits dr 42 22 ≠ 0 then accessing k s
      else if bitAt dr 41 then
        let t := (accessing k s).mWrite (bits dr 0 40) (if bitAt dr 40 then .high else .low) (bits dr 64 32)
        { t with dbg := { t.dbg with half := 0 } }
      else
        let r := (accessing k s).mRead (bits dr 0 40)
        { r.1 with dbg := { r.1.dbg with half := halfOf (if bitAt dr 40 then .high else .low) r.2 } } := by
  unfold State.dbgacc
  rw [tapDo_served hk hm (.inr hup) hmay]
  rfl

theorem accessing_eq (k : Nat) (s : State) : accessing k s =
    beside { s.dbg with taps := (accessing k s).dbg.taps } (s.outbox ++ [Out.jtag k (s.dbg.half * 2 ^ 64) 96]) s := rfl

theorem shown_accessing (k : Nat) (s : State) (r : Reg) : (accessing k s).shown r = s.shown r := by
  rw [accessing_eq, shown_beside]

theorem conDo_served {cls : Nat} {f : State → State} (hm : s.pwr.mgmtUp = true) (hmay : s.dbgMay cls 0 = true) : s.conDo cls f = f s := by
  rw [State.conDo, if_neg (by simp [hm]), if_neg (by simp [hmay])]

/-! ### BAR0 -/

theorem accOf_le {n : Nat} (hacc : accOf o n = some (a, h)) : a ≤ o := by
  unfold accOf at hacc
  split_ifs at hacc
  · obtain ⟨rfl, -⟩ := Prod.mk.inj (Option.some.inj hacc)
    exact Nat.le_refl o
  all_goals
    obtain ⟨rfl, -⟩ := Prod.mk.inj (Option.some.inj hacc)
    exact Nat.div_mul_le_self o 8

theorem bar0_inside {n : Nat} (hup : s.busUp srcHost = true) (ho : o < 2 ^ 26) (w : Option Nat) : s.bar0 o n w =
    match accOf o n, w with
    | none, some _ => s.badReg
    | none, none => s.badReg.emit (.hostRead none)
    | some a, some v => s.regStore srcHost a.1 a.2 v
    | some a, none =>
      let r := s.regRead srcHost a.1
      r.1.emit (.hostRead (some (halfOf a.2 r.2))) :=
  (if_neg (by simp [hup])).trans (if_neg (Nat.not_le.2 ho))

theorem mRead_served (hup : s.pwrGood = true) (hlo : regBase ≤ a) (hhi : a < regBase + 2 ^ 26) (hal : a % 8 = 0) :
    s.mRead a = s.regRead srcM (a - regBase) := by
  rw [State.mRead, if_neg (by simp [hup]; omega), if_neg (by simp [hal])]

theorem mWrite_served (hup : s.pwrGood = true) (hlo : regBase ≤ a) (hhi : a < regBase + 2 ^ 26) (hal : a % 8 = 0) :
    s.mWrite a h v = s.regStore srcM (a - regBase) h v := by
  rw [State.mWrite, if_neg (by simp [hup]; omega), if_neg (by simp [hal])]

end Sys2Proof.Proofs.RegisterAccess

section

open Sys2Proof Sys2Proof.Machine Sys2Proof.Safety Sys2Proof.Proofs.RegisterAccess Sys2Proof.Proofs.RegisterWrites
open Sys2Proof.Proofs.TapsAndProbe (tapDo_served)
open Sys2Proof.Proofs.SketchRegionsTideAndTemperature (regsBut_of_regs)

/-- Settles O18: every agent's access comes down to one read or one write of the register at the offset. -/
theorem registerAccesses : Obligations.RegisterAccesses := by
  unfold Obligations.RegisterAccesses
  refine ⟨fun s src o v h r hs hsrc hup ho hat hr hawake => ?_, fun s src v h hs hsrc hup hh hv => ?_, fun s src o v h hs hsrc hup ho hat => ?_,
    fun s o n a v h hup ho hacc => ?_, fun s o n a h r hup ho hacc hat hawake hpool => ?_, fun s o n w hs hup ho hacc => ?_,
    fun s o n w hup ho => ?_, fun s k dr r hk hm hup hmay hhi hrd hlo hend hal hat hawake hpool => ?_,
    fun s k dr r hs hk hm hup hmay hhi hwr hlo hend hal hat hr hawake => ?_, fun s k dr hk hm hup hmay hhi => ?_,
    fun s o r hm hup hmay ho hal hat hawake hpool => ?_, fun s o v r hs hm hup hmay ho hal hat hr hawake => ?_⟩
  · have hwrite := (busWrite_served (h := h) (v := v) hsrc hup ho).trans (regStore_plain hat hr hawake)
    exact ⟨_, congrArg Host.Outcome.next hwrite, reg_plainWrite hs r h v, regsBut_plainWrite s r h v, rfl⟩
  · have hwrite := (busWrite_served (h := h) (v := v) hsrc hup (by decide)).trans
      (regStore_plain regAt_schCtl rfl fun q hq => absurd hq (by simp [regQuad]))
    have hreg := (reg_plainWrite hs .schCtl h v).trans (writeFlds_schCtl hh hv _ _)
    refine ⟨_, congrArg Host.Outcome.next hwrite, ?_, hreg, regsBut_plainWrite s _ h v, eq_of_onlyRegs (onlyRegs_plainWrite s _ h v)⟩
    rw [State.fld, hreg, fget_fput_self _ _ _ (by decide)]
    exact Nat.mod_mod _ _
  · have hwrite := (busWrite_served (h := h) (v := v) hsrc hup ho).trans (regStore_none hat)
    obtain ⟨hcount, hregs, honly⟩ := badReg_spec hs
    exact ⟨_, congrArg Host.Outcome.next hwrite, hcount, hregs, eq_of_onlyRegs honly⟩
  · have hwrite : s.bar0 o n (some v) = s.regStore srcHost a h v := by rw [bar0_inside hup ho, hacc]
    exact congrArg Host.Outcome.next (hwrite.trans (busWrite_served rfl hup (Nat.lt_of_le_of_lt (accOf_le hacc) ho)).symm)
  · have hread : s.bar0 o n none = s.emit (.hostRead (some (halfOf h (s.shown r)))) := by
      rw [bar0_inside hup ho, hacc]
      simp only [regRead_shown hat hawake hpool]
    exact congrArg Host.Outcome.next hread
  · obtain ⟨hcount, hregs, honly⟩ := badReg_spec hs
    cases w with
    | some v =>
      have hbad : s.bar0 o n (some v) = s.badReg := by rw [bar0_inside hup ho, hacc]
      exact ⟨_, congrArg Host.Outcome.next hbad, hcount, hregs, outbox_of_onlyRegs honly, eq_of_onlyRegs_outbox honly⟩
    | none =>
      have hbad : s.bar0 o n none = s.badReg.emit (.hostRead none) := by rw [bar0_inside hup ho, hacc]
      obtain ⟨hfld, hkept, hout, hframe⟩ := emit_spec hregs honly (.hostRead none)
      exact ⟨_, congrArg Host.Outcome.next hbad, (hfld _ _).trans hcount, hkept, hout, hframe⟩
  · have hbeyond : s.bar0 o n w = if w.isSome then s else s.emit (.hostRead none) :=
      (if_neg (by simp [hup])).trans (if_pos ho)
    exact congrArg Host.Outcome.next hbeyond
  · have hread : s.dbgacc k dr = { accessing k s with dbg := { (accessing k s).dbg with half := (halfOf (if bitAt dr 40 then .high else .low)
        (s.shown r)) } } := by
      rw [dbgacc_served hk hm hup (by simpa [hrd] using hmay), if_neg (by simp [hhi]), if_neg (by simp [hrd])]
      simp only [mRead_served (s := accessing k s) hup hlo hend hal, regRead_shown (s := accessing k s) hat hawake hpool, shown_accessing]
    exact ⟨_, congrArg Host.Outcome.next hread, rfl, rfl⟩
  · have hwrite : s.dbgacc k dr = { (accessing k s).plainWrite r (if bitAt dr 40 then .high else .low) (bits dr 64 32) with
        dbg := { (accessing k s).dbg with half := 0 } } := by
      rw [dbgacc_served hk hm hup (by simpa [hwr] using hmay), if_neg (by simp [hhi]), if_pos hwr]
      simp only [mWrite_served (s := accessing k s) hup hlo hend hal, regStore_plain (s := accessing k s) hat hr hawake]
      rfl
    exact ⟨_, congrArg Host.Outcome.next hwrite, reg_plainWrite (s := accessing k s) hs r _ _, rfl,
      regsBut_plainWrite (accessing k s) r _ _, rfl⟩
  · have hnone : s.dbgacc k dr = accessing k s := by rw [dbgacc_served hk hm hup hmay, if_pos hhi]
    exact ⟨_, congrArg Host.Outcome.next hnone, rfl, rfl⟩
  · refine congrArg Host.Outcome.next ((conDo_served hm hmay).trans ?_)
    have hread : s.mRead (regBase + o) = (s, s.shown r) := by
      rw [mRead_served hup (Nat.le_add_right ..) (Nat.add_lt_add_left ho _) (by simp only [regBase]; omega), Nat.add_sub_cancel_left,
        regRead_shown hat hawake hpool]
    rw [hread]
  · have hwrite : s.mWrite (regBase + o) .whole v = s.plainWrite r .whole v := by
      rw [mWrite_served hup (Nat.le_add_right ..) (Nat.add_lt_add_left ho _) (by simp only [regBase]; omega), Nat.add_sub_cancel_left,
        regStore_plain hat hr hawake]
    exact ⟨_, congrArg Host.Outcome.next ((conDo_served hm hmay).trans hwrite), reg_plainWrite hs r _ _, regsBut_plainWrite s r _ _, rfl⟩

end

/-! Proof of O15: the states of a partition (15 Table 15-3) and its drain. -/

namespace Sys2Proof.Proofs.PartitionStates

open Sys2Proof Sys2Proof.Machine Sys2Proof.Safety Sys2Proof.Laws
open Sys2Proof.Proofs.RegisterWrites
open Sys2Proof.Proofs.SketchRegionsTideAndTemperature (OnlyRegs)
open Sys2Proof.Proofs.MemoryErrorsTemperaturesAndFlash (setFlds onlyRegs_setFlds fld_setFlds flag_setFlds)

variable {s t : State} {p i : Nat}

/-! ### Marking instances -/

/-- The instance is to be unloaded. -/
def marked (v : Inst) : Inst := { v with unloading := true }

/-- Nothing but registers and the table of instances changed. -/
def OnlyInsts (s t : State) : Prop := ∃ (rs : Tab Word) (is : Tab (Option Inst)), t = { s with regs := rs, ctl := { s.ctl with insts := is } }

theorem OnlyInsts.trans {u : State} (h : OnlyInsts s t) (g : OnlyInsts t u) : OnlyInsts s u := by
  obtain ⟨_, _, rfl⟩ := h
  obtain ⟨rs, is, rfl⟩ := g
  exact ⟨rs, is, rfl⟩

theorem OnlyInsts.eq (h : OnlyInsts s t) : t = { s with regs := t.regs, ctl := { s.ctl with insts := t.ctl.insts } } := by
  obtain ⟨_, _, rfl⟩ := h
  rfl

theorem OnlyInsts.waiting (h : OnlyInsts s t) : t.ctl.waiting = s.ctl.waiting := by
  obtain ⟨_, _, rfl⟩ := h
  rfl

theorem onlyInsts_of_onlyRegs (h : OnlyRegs s t) : OnlyInsts s t := by
  obtain ⟨rs, rfl⟩ := h
  exact ⟨rs, s.ctl.insts, rfl⟩

theorem onlyInsts_mapInst (s : State) (i : Nat) (f : Inst → Inst) : OnlyInsts s (s.mapInst i f) := by
  unfold State.mapInst
  split
  · exact ⟨_, _, rfl⟩
  · exact ⟨_, _, rfl⟩

theorem regs_mapInst (s : State) (i : Nat) (f : Inst → Inst) : (s.mapInst i f).regs = s.regs := by
  unfold State.mapInst
  split <;> rfl

theorem inst_mapInst_self (s : State) (i : Nat) (f : Inst → Inst) : (s.mapInst i f).inst i = (s.inst i).map f := by
  unfold State.mapInst
  cases h : s.inst i with
  | none => exact h
  | some v => exact tgetO_tset_some _ _ _

theorem inst_mapInst_ne (s : State) {i j : Nat} (f : Inst → Inst) (h : j ≠ i) : (s.mapInst i f).inst j = s.inst j := by
  unfold State.mapInst
  split
  · simp only [State.inst, State.setInst, tsetD, tgetO_tset_ne _ _ _ h]
  · rfl

/-- The listed instances are marked. -/
def markAll (l : List Nat) (s : State) : State := l.foldl (fun (s : State) i => s.mapInst i marked) s

theorem regs_markAll (l : List Nat) (s : State) : (markAll l s).regs = s.regs :=
  List.foldlRecOn (motive := fun t : State => t.regs = s.regs) l _ rfl fun t ht i _ => (regs_mapInst t i marked).trans ht

theorem onlyInsts_markAll (l : List Nat) (s : State) : OnlyInsts s (markAll l s) :=
  List.foldlRecOn (motive := OnlyInsts s) l _ ⟨s.regs, s.ctl.insts, rfl⟩ fun t ht i _ => ht.trans (onlyInsts_mapInst t i marked)

theorem inst_markAll (l : List Nat) (s : State) (i : Nat) : (markAll l s).inst i = if i ∈ l then (s.inst i).map marked else s.inst i := by
  induction l generalizing s with
  | nil => rfl
  | cons j l ih =>
    rw [markAll, List.foldl_cons, ← markAll, ih]
    by_cases hj : i = j
    · subst hj
      have hagain : (s.inst i).map (marked ∘ marked) = (s.inst i).map marked := rfl
      rw [inst_mapInst_self, Option.map_map, hagain, ite_self, if_pos List.mem_cons_self]
    · rw [inst_mapInst_ne s marked hj]
      simp only [List.mem_cons, hj, false_or]

/-! ### A drain starts -/

theorem mem_instsOf : i ∈ s.instsOf p ↔ i < 80 ∧ ∃ v, s.inst i = some v ∧ v.part = p := by
  rw [State.instsOf, List.mem_filter, List.mem_range]
  cases s.inst i with
  | none => simp
  | some v => simp

/-- Without waiting tasks, none moves. -/
theorem moveWaiting_idle (h : s.ctl.waiting = []) (v : Inst) (i : Nat) : s.moveWaiting v i = s := by
  simp only [State.moveWaiting, h, List.filter_nil, List.foldl_nil]
  rw [← h]

/-- The partition's word while it drains. -/
def drainFlds : List (Fld × Nat) := [(PT_CFG_STATE, 2), (PT_CFG_EN, 0)]

theorem startDrain_eq (h : s.ctl.waiting = []) (p : Nat) : s.startDrain p = markAll (s.instsOf p) (setFlds (.ptCfg p) drainFlds s) := by
  have hset : (setFlds (.ptCfg p) drainFlds s).ctl.waiting = [] :=
    (onlyInsts_of_onlyRegs (onlyRegs_setFlds (r := .ptCfg p) (s := s) drainFlds)).waiting.trans h
  have hmarked := (onlyInsts_markAll (s.instsOf p) _).waiting.trans hset
  refine foldl_idle fun i _ => ?_
  split
  · exact moveWaiting_idle hmarked _ _
  · rfl

theorem inst_of_onlyRegs (h : OnlyRegs s t) (i : Nat) : t.inst i = s.inst i := by
  obtain ⟨_, rfl⟩ := h
  rfl

theorem fld_drainFlds (h : RegsOk s) (p : Nat) :
    (setFlds (.ptCfg p) drainFlds s).fld (.ptCfg p) PT_CFG_STATE = 2 ∧ (setFlds (.ptCfg p) drainFlds s).flag (.ptCfg p) PT_CFG_EN = false :=
  ⟨fld_setFlds h (by decide) List.mem_cons_self,
    flag_setFlds (b := False) h (by decide) (List.mem_cons_of_mem _ List.mem_cons_self) Nat.one_pos⟩

theorem inst_startDrain (h : s.ctl.waiting = []) (p : Nat) {i : Nat} (hi : i < 80) :
    (s.startDrain p).inst i = (s.inst i).map fun (v : Inst) => if v.part = p then { v with unloading := true } else v := by
  rw [startDrain_eq h, inst_markAll, inst_of_onlyRegs (onlyRegs_setFlds drainFlds)]
  cases hv : s.inst i with
  | none => rw [Option.map_none, Option.map_none, ite_self]
  | some v =>
    have hmem : i ∈ s.instsOf p ↔ v.part = p := by
      rw [mem_instsOf, hv]
      simp [hi]
    by_cases hp : v.part = p
    · rw [if_pos (hmem.2 hp), Option.map_some, Option.map_some, if_pos hp, marked]
    · rw [if_neg (mt hmem.1 hp), Option.map_some, if_neg hp]

/-- EN = 0 of a partition that is OFF or DRAINING says nothing new. -/
theorem wrPtEn_off (h : s.ptState p = 0 ∨ s.ptState p = 2) : s.wrPtEn p false = s := by
  rcases h with h | h
  · simp only [State.wrPtEn, h]
  · simp only [State.wrPtEn, h]

/-! ### A drain ends -/

theorem drainDone_unless (h : s.ptState p ≠ 2) : s.drainDone p = s := if_pos h

theorem drainDone_busy (h : s.instsOf p ≠ []) (htasks : ∀ i < 80, ∀ v, s.inst i = some v → v.tasks ≠ []) : s.drainDone p = s := by
  by_cases hst : s.ptState p = 2
  · rw [State.drainDone, if_neg (not_not.2 hst), foldl_idle fun i hi => ?_]
    · exact if_neg h
    · split
      next v hv => exact if_neg fun hdrop => htasks i (mem_instsOf.1 hi).1 v hv hdrop.1
      next => rfl
  · exact drainDone_unless hst

theorem drainDone_last (hst : s.ptState p = 2) (h : s.instsOf p = []) : s.drainDone p = s.setFld (.ptCfg p) PT_CFG_STATE 0 := by
  rw [State.drainDone, if_neg (not_not.2 hst), h]
  exact if_pos h

end Sys2Proof.Proofs.PartitionStates

section

open Sys2Proof Sys2Proof.Machine Sys2Proof.Safety Sys2Proof.Proofs.PartitionStates Sys2Proof.Proofs.RegisterWrites
open Sys2Proof.Proofs.RankingModelsAndTables (regsBut_setFld)
open Sys2Proof.Proofs.SketchRegionsTideAndTemperature (regsBut_trans regsBut_of_regs onlyRegs_setFld)
open Sys2Proof.Proofs.MemoryErrorsTemperaturesAndFlash (setFlds fld_setFlds fld_setFlds_apart regsBut_setFlds onlyRegs_setFlds fld_of_sameRegs
  flag_of_sameRegs flag_setFld_one)

/-- Settles O15: EN by the partition's state, and the drain by its instances. -/
theorem partitionStatesAndDrain : Obligations.PartitionStatesAndDrain := by
  unfold Obligations.PartitionStatesAndDrain
  refine ⟨fun s p hs hp hup hst hmay => ?_, fun s p hs hp hup hno => ?_, fun s p hs hp hup hst hlock hwait => ?_, fun s p en hp hlt hno => ?_,
    fun s p hp hno => ?_, fun s p hs hp hst hinsts => ?_⟩
  · have hwrite : exec (.ptCfgEnWrite p true) s = .next (setFlds (.ptCfg p) [(PT_CFG_STATE, 1), (PT_CFG_EN, 1)] s) := by
      refine congrArg Host.Outcome.next ((if_pos hp).trans ((onBus_up hup _).trans ?_))
      simp only [State.wrPtEn, hst, hmay, if_true]
      rfl
    refine ⟨_, hwrite, fld_setFlds hs (by decide) List.mem_cons_self, ?_, fld_setFlds_apart hs (by decide) (by decide), regsBut_setFlds _,
      eq_of_onlyRegs (onlyRegs_setFlds _)⟩
    rw [State.flag, fld_setFlds hs (by decide) (List.mem_cons_of_mem _ List.mem_cons_self)]
    rfl
  · have hwrite : exec (.ptCfgEnWrite p true) s = .next (s.setFld (.ptStat p) PT_STAT_REFUSED 1) := by
      refine congrArg Host.Outcome.next ((if_pos hp).trans ((onBus_up hup _).trans ?_))
      rcases hno with ⟨hst, hmay⟩ | hst
      · simp only [State.wrPtEn, hst, hmay, Bool.false_eq_true, if_false]
      · simp only [State.wrPtEn, hst]
    exact ⟨_, hwrite, flag_setFld_one hs _ _ (by decide) (by decide), regsBut_setFld _ _ _ _, eq_of_onlyRegs (onlyRegs_setFld _ _ _ _)⟩
  · have hwrite : exec (.ptCfgEnWrite p false) s = .next (s.startDrain p) := by
      refine congrArg Host.Outcome.next ((if_pos hp).trans ((onBus_up hup _).trans ?_))
      simp only [State.wrPtEn, hst, hlock, if_true]
    have hregs : (s.startDrain p).regs = (setFlds (.ptCfg p) drainFlds s).regs := by rw [startDrain_eq hwait, regs_markAll]
    obtain ⟨hstate, hen⟩ := fld_drainFlds hs p
    refine ⟨_, hwrite, (fld_of_sameRegs hregs _ _).trans hstate, (flag_of_sameRegs hregs _ _).trans hen, fun i hi => inst_startDrain hwait p hi, regsBut_trans (regsBut_setFlds drainFlds) (regsBut_of_regs _ hregs), ?_⟩
    rw [startDrain_eq hwait]
    exact ((onlyInsts_of_onlyRegs (onlyRegs_setFlds drainFlds)).trans (onlyInsts_markAll _ _)).eq
  · refine congrArg Host.Outcome.next ((if_pos hp).trans (onBus_idle ?_))
    rcases hno with ⟨rfl, hst⟩ | ⟨rfl, hst | hlock⟩
    · simp only [State.wrPtEn, hst]
    · exact wrPtEn_off (by omega)
    · by_cases hst : s.ptState p = 1
      · simp only [State.wrPtEn, hst, hlock, Bool.false_eq_true, if_false]
      · exact wrPtEn_off (by omega)
  · refine congrArg Host.Outcome.next ((if_pos hp).trans ?_)
    rcases hno with hst | ⟨hinsts, htasks⟩
    · exact drainDone_unless hst
    · exact drainDone_busy hinsts htasks
  · have hdone : exec (.partitionDrainComplete p) s = .next (s.setFld (.ptCfg p) PT_CFG_STATE 0) :=
      congrArg Host.Outcome.next ((if_pos hp).trans (drainDone_last hst hinsts))
    exact ⟨_, hdone, State.fld_setFld_self _ _ _ _ hs (by decide), regsBut_setFld _ _ _ _, eq_of_onlyRegs (onlyRegs_setFld _ _ _ _)⟩

end

/-! Proof of O17: a tenant, its flash key and its quotas. -/

namespace Sys2Proof.Proofs.TenantsKeysAndQuotas

open Sys2Proof Sys2Proof.Machine Sys2Proof.Safety Sys2Proof.Laws
open Sys2Proof.Proofs.RegisterWrites
open Sys2Proof.Proofs.ObjectCommands
open Sys2Proof.Proofs.SketchRegionsTideAndTemperature (regsBut_trans regsBut_of_regs regsBut_mono OnlyRegs raised_raiseRec raise_silent onlyRegs_setFld
  fld_of_regsBut)
open Sys2Proof.Proofs.RankingModelsAndTables (regsBut_setFld)
open Sys2Proof.Proofs.MemoryErrorsTemperaturesAndFlash (setFlds onlyRegs_setFlds fld_setFlds regsBut_setFlds regsOk_setFlds flag_setFlds
  flag_setFld_one)

variable {s : State} {t0 k : Nat}

/-! ### The keys -/

theorem tgetO_tdel_self {α : Type} {t : Tab α} (h : (t.map Prod.fst).Nodup) (k : Nat) : tgetO (tdel k t) k = none := by
  induction t with
  | nil => rfl
  | cons e t ih =>
    rw [List.map_cons, List.nodup_cons] at h
    obtain ⟨hnew, hrest⟩ := h
    by_cases hk : k = e.1
    · rw [tdel, if_pos hk]
      have habsent : ∀ x ∈ t, k ≠ x.1 := fun x hx hkx => hnew (List.mem_map.2 ⟨x, hx, hkx.symm.trans hk⟩)
      clear ih hnew hrest
      induction t with
      | nil => rfl
      | cons x t ih => rw [tgetO, if_neg (habsent x List.mem_cons_self), ih fun y hy => habsent y (List.mem_cons_of_mem _ hy)]
    · rw [tdel, if_neg hk, tgetO, if_neg hk, ih hrest]

/-! ### EN -/

/-- The tenant has the next key. -/
def keyed (t : Nat) (s : State) : State :=
  { s with trust := { s.trust with keys := tins t s.trust.keyCount s.trust.keys, keyCount := s.trust.keyCount + 1 } }

theorem wrTnEn_enables (hlock : s.flag .ptLock PT_LOCK_OPEN = true) (hlc : s.lc = lcDevelopment ∨ s.lc = lcProduction)
    (hen : s.flag (.tnCfg t0) TN_CFG_EN = false) (herase : s.flag (.tnCfg t0) TN_CFG_ERASING = false) :
    s.wrTnEn t0 true = setFlds (.tnCfg t0) [(TN_CFG_EN, 1), (TN_CFG_KEYV, 1)] (keyed t0 s) := by
  have hmay : ¬ (¬ s.flag .ptLock PT_LOCK_OPEN = true ∨ (s.lc ≠ lcDevelopment ∧ s.lc ≠ lcProduction)) := by
    rintro (hclosed | ⟨hdev, hprod⟩)
    · exact hclosed hlock
    · exact hlc.elim hdev hprod
  simp only [State.wrTnEn]
  exact (if_neg hmay).trans (if_pos (by simp [hen, herase]))

theorem wrTnEn_disables (hlock : s.flag .ptLock PT_LOCK_OPEN = true) (hlc : s.lc = lcDevelopment ∨ s.lc = lcProduction)
    (hen : s.flag (.tnCfg t0) TN_CFG_EN = true) (hqps : s.fld (.tnCfg t0) TN_CFG_QPS = 0) (hdram : s.holdsDram t0 = false) :
    s.wrTnEn t0 false = setFlds (.tnCfg t0) [(TN_CFG_EN, 0), (TN_CFG_ERASING, 1)] s := by
  have hmay : ¬ (¬ s.flag .ptLock PT_LOCK_OPEN = true ∨ (s.lc ≠ lcDevelopment ∧ s.lc ≠ lcProduction)) := by
    rintro (hclosed | ⟨hdev, hprod⟩)
    · exact hclosed hlock
    · exact hlc.elim hdev hprod
  simp only [State.wrTnEn]
  exact (if_neg hmay).trans ((if_neg (by simp)).trans (if_pos (by simp [hen, hqps, hdram])))

theorem wrTnEn_ignored {en : Bool} (h : s.flag .ptLock PT_LOCK_OPEN = false ∨ (s.lc ≠ lcDevelopment ∧ s.lc ≠ lcProduction) ∨
    (en = true ∧ (s.flag (.tnCfg t0) TN_CFG_EN = true ∨ s.flag (.tnCfg t0) TN_CFG_ERASING = true)) ∨
    (en = false ∧ (s.flag (.tnCfg t0) TN_CFG_EN = false ∨ s.fld (.tnCfg t0) TN_CFG_QPS ≠ 0 ∨ s.holdsDram t0 = true))) : s.wrTnEn t0 en = s := by
  simp only [State.wrTnEn]
  rcases h with h | h | ⟨rfl, h⟩ | ⟨rfl, h⟩
  · exact if_pos (.inl (by simp [h]))
  · exact if_pos (.inr h)
  · refine (congrArg (ite _ s) ((if_neg ?_).trans (if_neg (by simp)))).trans (ite_self _)
    rcases h with h | h
    · simp [h]
    · simp [h]
  · refine (congrArg (ite _ s) ((if_neg (by simp)).trans (if_neg ?_))).trans (ite_self _)
    rcases h with h | h | h
    · simp [h]
    · simp [h]
    · simp [h]

/-! ### The objects of an erased tenant -/

theorem objs_filter_of_none {h : Nat} (ho : s.obj h = none) : s.tier.objs.filter (·.handle ≠ h) = s.tier.objs := by
  refine List.filter_eq_self.2 fun o hm => ?_
  simpa using List.find?_eq_none.1 ho o hm

/-- Objects of tenant `t0` with the handles `l` are dropped. -/
structure Drops (t0 : Nat) (l : List Nat) (s u : State) : Prop where
  frame : ∃ (rs : Tab Word) (tr : TierState), u = { s with regs := rs, tier := tr }
  regs : RegsBut (tierRegs t0) s u
  ok : RegsOk u
  objs : u.tier.objs = s.tier.objs.filter fun o => decide (o.handle ∉ l)

theorem drops_dropObj {h : Nat} (hs : RegsOk s) (ht : ∀ o, s.obj h = some o → o.tenant = t0) : Drops t0 [h] s (s.dropObj h) := by
  have hkeep : s.tier.objs.filter (fun o => decide (o.handle ∉ [h])) = s.tier.objs.filter (·.handle ≠ h) := by simp
  cases ho : s.obj h with
  | none =>
    have heq : s.dropObj h = s := by rw [State.dropObj, ho]
    rw [heq]
    exact ⟨⟨s.regs, s.tier, rfl⟩, regsBut_of_regs _ rfl, hs, hkeep.symm ▸ (objs_filter_of_none ho).symm⟩
  | some o =>
    obtain ⟨rs, tr, hrel, hdrop, hobjs⟩ := dropObj_eq ho
    have hregs := regsBut_released o.tenant o.charged (Nat.le_refl 4) s
    have hok := regsOk_released hs o.tenant o.charged 4
    rw [hrel] at hregs hok
    rw [ht o ho] at hregs
    rw [hdrop]
    exact ⟨⟨rs, tr, rfl⟩, hregs, hok, hobjs.trans hkeep.symm⟩

theorem obj_dropped {h j : Nat} {u : State} (hd : Drops t0 [h] s u) {o : Obj} (ho : u.obj j = some o) : s.obj j = some o := by
  have hobjs : u.tier.objs = s.tier.objs.filter (·.handle ≠ h) := by simpa using hd.objs
  by_cases hj : j = h
  · subst hj
    exact absurd ((obj_filter_self hobjs).symm.trans ho) (by simp)
  · exact (obj_filter_ne hobjs hj).symm.trans ho

theorem Drops.cons {h : Nat} {l : List Nat} {u v : State} (hd : Drops t0 [h] s u) (hl : Drops t0 l u v) : Drops t0 (h :: l) s v := by
  obtain ⟨_, _, rfl⟩ := hd.frame
  obtain ⟨rs, tr, hv⟩ := hl.frame
  refine ⟨⟨rs, tr, hv⟩, regsBut_trans hd.regs hl.regs, hl.ok, ?_⟩
  rw [hl.objs, hd.objs, List.filter_filter]
  refine List.filter_congr fun o _ => ?_
  by_cases ho : o.handle = h
  · simp [ho]
  · simp [ho]

theorem drops_foldl (l : List Nat) {s : State} (hs : RegsOk s) (ht : ∀ h ∈ l, ∀ o, s.obj h = some o → o.tenant = t0) :
    Drops t0 l s (l.foldl State.dropObj s) := by
  induction l generalizing s with
  | nil => exact ⟨⟨s.regs, s.tier, rfl⟩, regsBut_of_regs _ rfl, hs, by simp⟩
  | cons h l ih =>
    have hd := drops_dropObj hs (ht h List.mem_cons_self)
    exact hd.cons (ih hd.ok fun j hj o ho => ht j (List.mem_cons_of_mem _ hj) o (obj_dropped hd ho))

/-! ### KEY_ERASED -/

/-- The tenant has no key and no object. -/
def erased (t : Nat) (s : State) : State :=
  ((s.tier.objs.filter (·.tenant = t)).map Obj.handle).foldl State.dropObj { s with trust := { s.trust with keys := tdel t s.trust.keys } }

/-- What TN_CFG shows of an erased tenant. -/
def erasedFlds : List (Fld × Nat) := [(TN_CFG_KEYV, 0), (TN_CFG_ERASING, 0)]

theorem keyErased_eq (h : s.flag (.tnCfg t0) TN_CFG_ERASING = true) : s.keyErased t0 =
    (setFlds (.tnCfg t0) erasedFlds (erased t0 s)).raiseRec ((erased t0 s).fld (.tnCfg t0) TN_CFG_PART) srcT 0x0905 (leBytes 2 t0) := by
  rw [State.keyErased, if_neg (by simp [h])]
  exact raise_silent rfl _ _ _ _

theorem drops_erased (hs : RegsOk s) (hobjs : ∀ o ∈ s.tier.objs, o.tenant = t0 → s.obj o.handle = some o) :
    Drops t0 ((s.tier.objs.filter (·.tenant = t0)).map Obj.handle) { s with trust := { s.trust with keys := tdel t0 s.trust.keys } } (erased t0 s) := by
  refine drops_foldl _ hs fun h hh o ho => ?_
  obtain ⟨x, hx, rfl⟩ := List.mem_map.1 hh
  obtain ⟨hmem, hten⟩ := List.mem_filter.1 hx
  have hten : x.tenant = t0 := by simpa using hten
  have heq : some o = some x := ho.symm.trans (hobjs x hmem hten)
  rw [Option.some.inj heq, hten]

theorem regOff_tnCfg_ne_tnTier (t j : Nat) : regOff (.tnCfg t) ≠ regOff (.tnTier j) := by
  simp only [regOff]
  omega

/-! ### QUOTA -/

theorem fld_tnTier_write (hs : RegsOk s) {q : Nat} (hq : q < 2 ^ 32) :
    (s.plainWrite (.tnTier k) .low q).fld (.tnTier k) TN_TIER_QUOTA = q ∧
      (s.plainWrite (.tnTier k) .low q).fld (.tnTier k) TN_TIER_USE = s.fld (.tnTier k) TN_TIER_USE := by
  have htidy : Proofs.MemoryErrorsTemperaturesAndFlash.tidy (regFields (.tnTier k)) = true :=
    (by decide : Proofs.MemoryErrorsTemperaturesAndFlash.tidy [TN_TIER_QUOTA, TN_TIER_USE] = true)
  constructor
  · rw [fld_plainWrite hs htidy List.mem_cons_self]
    refine (fget_fput_self _ TN_TIER_QUOTA (bits (halfVal .low q) 0 32) (by decide)).trans ?_
    simp only [halfVal, bits, Nat.shiftRight_zero, TN_TIER_QUOTA]
    omega
  · rw [fld_plainWrite hs htidy (List.mem_cons_of_mem _ List.mem_cons_self)]
    refine congrArg (fget · TN_TIER_USE) ?_
    rw [writeFld]
    exact ite_self _

/-- QUOTA is cut below USE: QCUT, and its record. -/
def quotaCut (t k q : Nat) (s : State) : State :=
  (s.setFld (.ptStat (s.fld (.tnCfg t) TN_CFG_PART)) PT_STAT_QCUT 1).raiseRec (s.fld (.tnCfg t) TN_CFG_PART) srcM 0x0903
    (leBytes 2 t ++ leBytes 1 k ++ leBytes 1 0 ++ leBytes 4 (s.use t k) ++ leBytes 4 q)

theorem wrTnTier_eq (hs : RegsOk s) {q : Nat} (hk : k < 4) (hq : q < 2 ^ 32) : s.wrTnTier (4 * t0 + k) .low q =
    if q < s.use t0 k then quotaCut t0 k q (s.plainWrite (.tnTier (4 * t0 + k)) .low q) else s.plainWrite (.tnTier (4 * t0 + k)) .low q := by
  obtain ⟨hquota, huse⟩ := fld_tnTier_write (k := 4 * t0 + k) hs hq
  have hdiv : (4 * t0 + k) / 4 = t0 := by omega
  have hmod : (4 * t0 + k) % 4 = k := by omega
  have hwrote : wrote .low TN_TIER_QUOTA = true := by decide
  have hcut : (s.plainWrite (.tnTier (4 * t0 + k)) .low q).use t0 k = s.use t0 k := huse
  simp only [State.wrTnTier, hquota, huse, hdiv, hmod, hwrote, true_and, quotaCut, hcut]
  split
  next hlt => exact (raise_silent rfl _ _ _ _).trans (if_pos hlt).symm
  next hle => exact (if_neg hle).symm

end Sys2Proof.Proofs.TenantsKeysAndQuotas

section

open Sys2Proof Sys2Proof.Machine Sys2Proof.Safety Sys2Proof.Laws Sys2Proof.Proofs.TenantsKeysAndQuotas Sys2Proof.Proofs.RegisterWrites
open Sys2Proof.Proofs.ObjectCommands (tierRegs)
open Sys2Proof.Proofs.SketchRegionsTideAndTemperature (regsBut_trans regsBut_of_regs regsBut_mono raised_raiseRec onlyRegs_setFld fld_of_regsBut)
open Sys2Proof.Proofs.RankingModelsAndTables (regsBut_setFld)
open Sys2Proof.Proofs.MemoryErrorsTemperaturesAndFlash (setFlds onlyRegs_setFlds fld_setFlds regsBut_setFlds regsOk_setFlds flag_setFlds
  flag_setFld_one)

/-- Settles O17: EN by the tenant's state, the erasure object by object, and a quota by the use it is written over. -/
theorem tenantsKeysAndQuotas : Obligations.TenantsKeysAndQuotas := by
  unfold Obligations.TenantsKeysAndQuotas
  refine ⟨fun s t0 hs hup ht hlock hlc hen herase => ?_, fun s t0 hs hup ht hlock hlc hen hqps hdram => ?_, fun s t0 en ht hno => ?_,
    fun s t0 hs ht herase hobjs hkeys => ?_, fun s t0 k q hs hup ht hk hq => ?_⟩
  · have hwrite : exec (.tnCfgEnWrite t0 true) s = .next (setFlds (.tnCfg t0) [(TN_CFG_EN, 1), (TN_CFG_KEYV, 1)] (keyed t0 s)) :=
      congrArg Host.Outcome.next ((if_pos ht).trans ((onBus_up hup _).trans (wrTnEn_enables hlock hlc hen herase)))
    obtain ⟨rs, hframe⟩ := onlyRegs_setFlds (r := .tnCfg t0) (s := keyed t0 s) [(TN_CFG_EN, 1), (TN_CFG_KEYV, 1)]
    have hset := regsBut_setFlds (r := .tnCfg t0) (s := keyed t0 s) [(TN_CFG_EN, 1), (TN_CFG_KEYV, 1)]
    have hon := flag_setFlds (r := .tnCfg t0) (s := keyed t0 s) (l := [(TN_CFG_EN, 1), (TN_CFG_KEYV, 1)]) (b := True) hs (by decide)
      List.mem_cons_self Nat.one_pos
    have hkey := flag_setFlds (r := .tnCfg t0) (s := keyed t0 s) (l := [(TN_CFG_EN, 1), (TN_CFG_KEYV, 1)]) (b := True) hs (by decide)
      (List.mem_cons_of_mem _ List.mem_cons_self) Nat.one_pos
    rw [hframe] at hwrite hset hon hkey
    exact ⟨_, hwrite, hon, hkey, tgetO_tins_self _ _ _, fun k hk => tgetO_tins_ne _ _ hk, hset, rfl⟩
  · have hwrite : exec (.tnCfgEnWrite t0 false) s = .next (setFlds (.tnCfg t0) [(TN_CFG_EN, 0), (TN_CFG_ERASING, 1)] s) :=
      congrArg Host.Outcome.next ((if_pos ht).trans ((onBus_up hup _).trans (wrTnEn_disables hlock hlc hen hqps hdram)))
    exact ⟨_, hwrite, flag_setFlds (b := False) hs (by decide) List.mem_cons_self Nat.one_pos,
      flag_setFlds (b := True) hs (by decide) (List.mem_cons_of_mem _ List.mem_cons_self) Nat.one_pos, regsBut_setFlds _,
      eq_of_onlyRegs (onlyRegs_setFlds _)⟩
  · exact congrArg Host.Outcome.next ((if_pos ht).trans (onBus_idle (wrTnEn_ignored hno)))
  · have hd := drops_erased hs hobjs
    have hpart : (erased t0 s).fld (.tnCfg t0) TN_CFG_PART = s.fld (.tnCfg t0) TN_CFG_PART :=
      fld_of_regsBut hd.regs (by simp [regOff_tnCfg_ne_tnTier]) _
    have hwrite : exec (.keyErased t0) s = .next ((setFlds (.tnCfg t0) erasedFlds (erased t0 s)).raiseRec (s.fld (.tnCfg t0) TN_CFG_PART) srcT
        0x0905 (leBytes 2 t0)) := by
      rw [← hpart, ← keyErased_eq herase]
      exact congrArg Host.Outcome.next (if_pos ht)
    have hset := regsBut_setFlds (r := .tnCfg t0) (s := erased t0 s) erasedFlds
    have hkey := flag_setFlds (r := .tnCfg t0) (b := False) hd.ok (l := erasedFlds) (by decide) List.mem_cons_self Nat.one_pos
    have hdone := flag_setFlds (r := .tnCfg t0) (b := False) hd.ok (l := erasedFlds) (by decide) (List.mem_cons_of_mem _ List.mem_cons_self) Nat.one_pos
    obtain ⟨rs, hframe⟩ := onlyRegs_setFlds (r := .tnCfg t0) (s := erased t0 s) erasedFlds
    have hregs := hd.regs
    have hleft := hd.objs
    obtain ⟨rs0, tr, hdrop⟩ := hd.frame
    rw [hframe, hdrop] at hwrite hset hkey hdone
    rw [hdrop] at hregs hleft
    refine ⟨_, hwrite, hkey, hdone, tgetO_tdel_self hkeys t0, fun k hk => tgetO_tdel_ne _ hk, fun o ho hten => ?_, fun o ho hten hapart => ?_,
      raised_raiseRec rfl rfl _ _ _ _, regsBut_trans (regsBut_mono hregs (by simp)) (regsBut_mono hset (by simp)), rfl⟩
    · have ho : o ∈ tr.objs := ho
      rw [hleft] at ho
      obtain ⟨hmem, hgone⟩ := List.mem_filter.1 ho
      exact of_decide_eq_true hgone (List.mem_map.2 ⟨o, List.mem_filter.2 ⟨hmem, decide_eq_true hten⟩, rfl⟩)
    · show o ∈ tr.objs
      rw [hleft]
      refine List.mem_filter.2 ⟨ho, decide_eq_true fun hin => ?_⟩
      obtain ⟨x, hx, hsame⟩ := List.mem_map.1 hin
      obtain ⟨hmem, hxt⟩ := List.mem_filter.1 hx
      exact hapart x hmem (of_decide_eq_true hxt) hsame
  · obtain ⟨hquota, huse⟩ := fld_tnTier_write (k := 4 * t0 + k) hs hq
    have hcut : (s.plainWrite (.tnTier (4 * t0 + k)) .low q).use t0 k = s.use t0 k := huse
    have hset := regsBut_plainWrite s (.tnTier (4 * t0 + k)) .low q
    have hok := regsOk_plainWrite hs (.tnTier (4 * t0 + k)) .low q
    have hpart : (s.plainWrite (.tnTier (4 * t0 + k)) .low q).fld (.tnCfg t0) TN_CFG_PART = s.fld (.tnCfg t0) TN_CFG_PART :=
      fld_of_regsBut hset (by simp [regOff_tnCfg_ne_tnTier]) _
    obtain ⟨rs, hframe⟩ := onlyRegs_plainWrite s (.tnTier (4 * t0 + k)) .low q
    have hwrite : exec (.quotaWrite t0 k q) s = .next (s.wrTnTier (4 * t0 + k) .low q) :=
      congrArg Host.Outcome.next ((if_pos ⟨ht, hk⟩).trans (onBus_up hup _))
    rw [wrTnTier_eq hs hk hq, hframe] at hwrite
    rw [hframe] at hquota huse hset hok hpart hcut
    by_cases hlt : q < s.use t0 k
    · rw [if_pos hlt, quotaCut, hpart, hcut] at hwrite
      have hp : s.fld (.tnCfg t0) TN_CFG_PART < 64 := s.fld_lt _ _
      generalize hpn : s.fld (.tnCfg t0) TN_CFG_PART = p at *
      have hne : regOff (.tnTier (4 * t0 + k)) ≠ regOff (.ptStat p) := by
        simp only [regOff]
        omega
      have hflag := flag_setFld_one hok (.ptStat p) PT_STAT_QCUT (by decide) (by decide)
      have hsetq := regsBut_setFld ({ s with regs := rs }) (.ptStat p) PT_STAT_QCUT 1
      have hq' := (State.fld_setFld_ne ({ s with regs := rs }) (.ptStat p) (.tnTier (4 * t0 + k)) PT_STAT_QCUT TN_TIER_QUOTA 1 hne).trans hquota
      have hu' := (State.fld_setFld_ne ({ s with regs := rs }) (.ptStat p) (.tnTier (4 * t0 + k)) PT_STAT_QCUT TN_TIER_USE 1 hne).trans huse
      obtain ⟨rs2, hframe2⟩ := onlyRegs_setFld ({ s with regs := rs }) (.ptStat p) PT_STAT_QCUT 1
      rw [hframe2] at hwrite hflag hsetq hq' hu'
      exact ⟨_, hwrite, hq', hu', fun hle => absurd hlt (Nat.not_lt.2 hle), fun _ => ⟨hflag, raised_raiseRec rfl rfl _ _ _ _,
        regsBut_trans (regsBut_mono hset (by simp)) (regsBut_mono hsetq (by simp)), rfl⟩⟩
    · rw [if_neg hlt] at hwrite
      exact ⟨_, hwrite, hquota, huse, fun _ => ⟨rfl, hset⟩, fun hlt' => absurd hlt' hlt⟩

end

/-! Proof of O16: owner bytes, the wipe of a granule, and floors. -/

namespace Sys2Proof.Proofs.OwnersWipesAndFloors

open Sys2Proof Sys2Proof.Machine Sys2Proof.Safety Sys2Proof.Laws
open Sys2Proof.Proofs.RegisterWrites
open Sys2Proof.Proofs.SketchRegionsTideAndTemperature (regsBut_trans regsBut_of_regs regsBut_mono OnlyRegs raised_raiseRec raise_silent onlyRegs_setFld
  fld_of_regsBut reg_of_regsBut)
open Sys2Proof.Proofs.RankingModelsAndTables (regsBut_setFld)
open Sys2Proof.Proofs.MemoryErrorsTemperaturesAndFlash (tidy)

variable {s : State} {kind i j k b : Nat}

/-! ### Owner bytes -/

/-- Owner byte `k` of a word. -/
def ownFld (k : Nat) : Fld := ⟨8 * k, 8, .lck, .pt, false, 0⟩

theorem ownReg_byte (kind j : Nat) (hk : k < 8) : ownReg kind (8 * j + k) = ownReg kind (8 * j) := by
  have hword : (8 * j + k) / 8 = 8 * j / 8 := by omega
  simp only [ownReg, hword]

theorem owner_byte (s : State) (kind j : Nat) (hk : k < 8) : s.owner kind (8 * j + k) = s.fld (ownReg kind (8 * j)) (ownFld k) := by
  have hbyte : (8 * j + k) % 8 = k := by omega
  rw [State.owner, ownReg_byte kind j hk, hbyte]
  rfl

theorem setOwner_byte (s : State) (kind j b : Nat) (hk : k < 8) : s.setOwner kind (8 * j + k) b = s.setFld (ownReg kind (8 * j)) (ownFld k) b := by
  have hbyte : (8 * j + k) % 8 = k := by omega
  rw [State.setOwner, ownReg_byte kind j hk, hbyte]
  rfl

theorem ownFld_le (hk : k < 8) : (ownFld k).lo + (ownFld k).w ≤ 64 := by
  simp only [ownFld]
  omega

theorem ownFld_apart {n : Nat} (h : n ≠ k) : (ownFld n).lo + (ownFld n).w ≤ (ownFld k).lo ∨ (ownFld k).lo + (ownFld k).w ≤ (ownFld n).lo := by
  simp only [ownFld]
  omega

theorem owner_setFld_self (hs : RegsOk s) (kind j : Nat) (hk : k < 8) (hb : b ≤ 0x40) :
    (s.setFld (ownReg kind (8 * j)) (ownFld k) b).owner kind (8 * j + k) = b := by
  rw [owner_byte _ _ _ hk, State.fld_setFld_self _ _ _ _ hs (ownFld_le hk)]
  exact Nat.mod_eq_of_lt (Nat.lt_of_le_of_lt hb (show 0x40 < 2 ^ 8 by decide))

theorem owner_setFld_ne (hs : RegsOk s) (kind j b : Nat) (hk : k < 8) {n : Nat} (hn : n < 8) (h : n ≠ k) :
    (s.setFld (ownReg kind (8 * j)) (ownFld k) b).owner kind (8 * j + n) = s.owner kind (8 * j + n) := by
  rw [owner_byte _ _ _ hn, owner_byte _ _ _ hn, State.fld_setFld_fld _ _ _ _ _ hs (ownFld_le hk) (ownFld_apart h)]

/-- The byte that a written byte becomes: one with FREE = 1 names no partition. -/
def newOwner (b : Nat) : Nat := if bitAt b 6 then 0x40 else b % 64

theorem newOwner_of_le (h : b ≤ 0x40) : newOwner b = b := by
  rcases Nat.lt_or_eq_of_le h with hlt | rfl
  · rw [newOwner, bitAt, Nat.testBit_lt_two_pow (show b < 2 ^ 6 from hlt), if_neg Bool.false_ne_true, Nat.mod_eq_of_lt hlt]
  · rfl

/-- A byte written as it stands changes nothing. -/
theorem wrOwner_same (h : s.owner kind i ≤ 0x40 ∨ 0x80 ≤ s.owner kind i) : s.wrOwner kind i (s.owner kind i) = s := by
  refine if_pos (.inr ?_)
  rcases h with h | h
  · exact .inr (newOwner_of_le h)
  · exact .inl h

/-- The granule has its new owner, and its wipe is pending. -/
def owned (kind j k b : Nat) (s : State) : State :=
  { s.setFld (ownReg kind (8 * j)) (ownFld k) b with
    part := { s.part with wipes := s.part.wipes.filter (· ≠ (kind, 8 * j + k)) ++ [(kind, 8 * j + k)] } }

theorem regsOk_owned (hs : RegsOk s) (kind j k b : Nat) : RegsOk (owned kind j k b s) := s.regsOk_setFld _ _ _ hs

theorem owned_frame (kind j k b : Nat) (s : State) : RegsBut [ownReg kind (8 * j)] s (owned kind j k b s) ∧
    (owned kind j k b s).part.wipes = s.part.wipes.filter (· ≠ (kind, 8 * j + k)) ++ [(kind, 8 * j + k)] ∧
    owned kind j k b s = { s with
      regs := (owned kind j k b s).regs, part := { s.part with wipes := (owned kind j k b s).part.wipes } } := by
  have hset := regsBut_setFld s (ownReg kind (8 * j)) (ownFld k) b
  obtain ⟨rs, hframe⟩ := onlyRegs_setFld s (ownReg kind (8 * j)) (ownFld k) b
  rw [owned, hframe]
  rw [hframe] at hset
  exact ⟨hset, rfl, rfl⟩

theorem wipes_of_onlyRegs {v u : State} (hv : v = { s with regs := v.regs, part := { s.part with wipes := v.part.wipes } }) (h : OnlyRegs v u) :
    u.part.wipes = v.part.wipes ∧ u = { s with regs := u.regs, part := { s.part with wipes := u.part.wipes } } := by
  obtain ⟨rs, rfl⟩ := h
  exact ⟨rfl, congrArg (fun x : State => { x with regs := rs }) hv⟩

theorem owner_owned (kind j k b : Nat) (s : State) (x q : Nat) :
    (owned kind j k b s).owner x q = (s.setFld (ownReg kind (8 * j)) (ownFld k) b).owner x q := rfl

section
variable (hi : 8 * j + k < granuleCount kind) (hold : s.owner kind (8 * j + k) < 0x80) (hb : b ≤ 0x40)
  (hne : s.owner kind (8 * j + k) ≠ b)
include hi hold hb hne

theorem wrOwner_guard : ¬ (granuleCount kind ≤ 8 * j + k ∨ 0x80 ≤ s.owner kind (8 * j + k) ∨
    (if bitAt b 6 then 0x40 else b % 64) = s.owner kind (8 * j + k)) := by
  rintro (h | h | h)
  · exact Nat.not_le.2 hi h
  · exact Nat.not_le.2 hold h
  · exact hne ((newOwner_of_le hb).symm.trans h).symm

theorem wrOwner_free (hk : k < 8) (huse : s.inUse kind (8 * j + k) = false) (hkind : kind ≠ 0) : s.wrOwner kind (8 * j + k) b = owned kind j k b s := by
  rw [State.wrOwner]
  refine (if_neg (wrOwner_guard hi hold hb hne)).trans ((if_neg (by simp [huse])).trans ((if_neg hkind).trans ?_))
  rw [show (if bitAt b 6 then 0x40 else b % 64) = b from newOwner_of_le hb, setOwner_byte _ _ _ _ hk]
  rfl

theorem wrOwner_used (huse : s.inUse kind (8 * j + k) = true) (hp : s.owner kind (8 * j + k) < 64) : s.wrOwner kind (8 * j + k) b =
    (s.setFld (.ptStat (s.owner kind (8 * j + k))) PT_STAT_REFUSED 1).raiseRec (s.owner kind (8 * j + k)) srcM 0x0904
      (leBytes 1 kind ++ leBytes 2 (8 * j + k)) := by
  rw [State.wrOwner]
  refine (if_neg (wrOwner_guard hi hold hb hne)).trans ((if_pos huse).trans ((if_pos hp).trans ?_))
  exact raise_silent rfl _ _ _ _

end

theorem wrOwner_quad (hk : k < 8) (hi : 8 * j + k < 80) (hold : s.owner 0 (8 * j + k) < 0x80) (hb : b ≤ 0x40)
    (hne : s.owner 0 (8 * j + k) ≠ b) (huse : s.inUse 0 (8 * j + k) = false) :
    s.wrOwner 0 (8 * j + k) b = ((owned 0 j k b s).showQuads (s.owner 0 (8 * j + k))).showQuads b := by
  rw [State.wrOwner]
  refine (if_neg (wrOwner_guard hi hold hb hne)).trans ((if_neg (by simp [huse])).trans ((if_pos rfl).trans ?_))
  rw [show (if bitAt b 6 then 0x40 else b % 64) = b from newOwner_of_le hb, setOwner_byte _ _ _ _ hk]
  rfl

/-! ### A word of eight bytes of which one is new -/

theorem foldl_single {α : Type} {f : State → α → State} {l : List α} {s t : State} {a : α} (hnd : l.Nodup) (ha : a ∈ l) (hst : f s a = t)
    (h : ∀ x ∈ l, x ≠ a → f s x = s ∧ f t x = t) : l.foldl f s = t := by
  induction l with
  | nil => exact absurd ha List.not_mem_nil
  | cons x l ih =>
    obtain ⟨hx, hl⟩ := List.nodup_cons.1 hnd
    rw [List.foldl_cons]
    by_cases hxa : x = a
    · rw [hxa, hst]
      exact foldl_idle fun y hy => (h y (List.mem_cons_of_mem _ hy) fun hya => hx (hxa ▸ hya ▸ hy)).2
    · rw [(h x List.mem_cons_self hxa).1]
      exact ih hl ((List.mem_cons.1 ha).resolve_left fun heq => hxa heq.symm) fun y hy => h y (List.mem_cons_of_mem _ hy)

theorem wrote_byte {n : Nat} (hn : n < 8) : wrote .whole (ownFld n) = true := by
  have hall : ∀ n < 8, wrote .whole (ownFld n) = true := by decide
  exact hall n hn

theorem wval_byte (w : Word) (hk : k < 8) (b n : Nat) :
    wval .whole (putBits w.toNat (8 * k) 8 b) (ownFld n) = if n = k then b % 2 ^ 8 else fget w (ownFld n) := by
  have hlt : putBits w.toNat (8 * k) 8 b < 2 ^ 64 := putBits_lt _ _ _ _ _ w.isLt (by omega)
  rw [wval, halfVal, Nat.mod_eq_of_lt hlt]
  split
  next h =>
    subst h
    exact bits_putBits_self _ _ _ _
  next h => exact bits_putBits_ne _ _ _ _ _ _ (ownFld_apart h)

/-- A write of the word in which only byte `k` is new comes down to the write of that byte. -/
theorem wrOwn_byte (hlock : s.flag .ptLock PT_LOCK_OPEN = true) (hk : k < 8) (hb : b ≤ 0x40)
    (hrest : ∀ n < 8, n ≠ k → s.owner kind (8 * j + n) ≤ 0x40 ∨ 0x80 ≤ s.owner kind (8 * j + n)) {t : State}
    (ht : s.wrOwner kind (8 * j + k) b = t) (hkept : ∀ n < 8, n ≠ k → t.owner kind (8 * j + n) = s.owner kind (8 * j + n)) :
    s.wrOwn kind j .whole (putBits (s.reg (ownReg kind (8 * j + k))).toNat (8 * k) 8 b) = t := by
  refine (if_neg (by simp [hlock])).trans (foldl_single List.nodup_range (List.mem_range.2 hk) ?_ fun n hn hnk => ?_)
  · refine (if_pos (wrote_byte hk)).trans ?_
    have hval := wval_byte (s.reg (ownReg kind (8 * j + k))) hk b k
    rw [if_pos rfl, Nat.mod_eq_of_lt (Nat.lt_of_le_of_lt hb (by decide))] at hval
    rw [← ht]
    exact congrArg (s.wrOwner kind (8 * j + k)) hval
  · have hn := List.mem_range.1 hn
    have hval := wval_byte (s.reg (ownReg kind (8 * j + k))) hk b n
    rw [if_neg hnk, ownReg_byte _ _ hk] at hval
    have hsame : wval .whole (putBits (s.reg (ownReg kind (8 * j + k))).toNat (8 * k) 8 b) (ownFld n) = s.owner kind (8 * j + n) := by
      rw [ownReg_byte _ _ hk, hval, owner_byte _ _ _ hn, State.fld]
    have hidle (u : State) (hu : u.owner kind (8 * j + n) = s.owner kind (8 * j + n)) :
        u.wrOwner kind (8 * j + n) (wval .whole (putBits (s.reg (ownReg kind (8 * j + k))).toNat (8 * k) 8 b) (ownFld n)) = u := by
      rw [hsame, ← hu]
      exact wrOwner_same (hu ▸ hrest n hn hnk)
    exact ⟨(if_pos (wrote_byte hn)).trans (hidle s rfl), (if_pos (wrote_byte hn)).trans (hidle t (hkept n hn hnk))⟩

/-! ### QUADS -/

theorem owner_of_regsBut {rs : List Reg} {t : State} (h : RegsBut rs s t) (hr : ∀ x ∈ rs, regOff (ownReg kind i) ≠ regOff x) :
    t.owner kind i = s.owner kind i := by
  rw [State.owner, reg_of_regsBut h hr, State.owner]

theorem ownReg_ne_ptStat (kind q : Nat) {x : Nat} (hx : x < 64) : regOff (ownReg kind q) ≠ regOff (.ptStat x) := by
  unfold ownReg
  split <;> simp only [regOff] <;> omega

theorem ownQ_ne_ptCfg (x : Nat) {q : Nat} (hq : q < 80) (hx : x < 64) : regOff (ownReg 0 q) ≠ regOff (.ptCfg x) := by
  simp only [ownReg, regOff]
  omega

theorem onlyRegs_showQuads (s : State) (p : Nat) : OnlyRegs s (s.showQuads p) := by
  unfold State.showQuads
  split
  · exact onlyRegs_setFld _ _ _ _
  · exact ⟨s.regs, rfl⟩

theorem regsBut_showQuads (s : State) (p : Nat) : RegsBut [.ptCfg (p % 64)] s (s.showQuads p) := by
  unfold State.showQuads
  split
  next hp =>
    rw [Nat.mod_eq_of_lt hp]
    exact regsBut_setFld _ _ _ _
  next => exact regsBut_of_regs _ rfl

theorem owner_showQuads (s : State) (p : Nat) {q : Nat} (hq : q < 80) : (s.showQuads p).owner 0 q = s.owner 0 q :=
  owner_of_regsBut (regsBut_showQuads s p) (by simpa using ownQ_ne_ptCfg _ hq (Nat.mod_lt p (by decide)))

/-- QUADS as the owner bytes stand. -/
def quads (s : State) (x : Nat) : Nat := ((List.range 80).filter fun q => s.owner 0 q = x).length

theorem quads_of_owner {t : State} (h : ∀ q < 80, t.owner 0 q = s.owner 0 q) (x : Nat) : quads t x = quads s x := by
  refine congrArg List.length (List.filter_congr fun q hq => ?_)
  rw [h q (List.mem_range.1 hq)]

theorem quads_le (s : State) (x : Nat) : quads s x ≤ 80 := (List.length_filter_le _ _).trans (by simp)

theorem regsOk_showQuads (hs : RegsOk s) (p : Nat) : RegsOk (s.showQuads p) := by
  unfold State.showQuads
  split
  · exact s.regsOk_setFld _ _ _ hs
  · exact hs

theorem fld_showQuads_self (hs : RegsOk s) {p : Nat} (hp : p < 64) : (s.showQuads p).fld (.ptCfg p) PT_CFG_QUADS = quads s p := by
  rw [State.showQuads, if_pos hp, State.fld_setFld_self _ _ _ _ hs (by decide)]
  exact Nat.mod_eq_of_lt (Nat.lt_of_le_of_lt (quads_le s p) (by decide))

theorem fld_showQuads_ne (s : State) {p x : Nat} (h : x ≠ p) (f : Fld) : (s.showQuads p).fld (.ptCfg x) f = s.fld (.ptCfg x) f := by
  unfold State.showQuads
  split
  · refine State.fld_setFld_ne _ _ _ _ _ _ ?_
    simp only [regOff]
    omega
  · rfl

/-- Both partitions of a quad that changed hands show their counts. -/
theorem fld_quads_shown (hs : RegsOk s) {p b x : Nat} (hx : x < 64) (h : x = p ∨ x = b) :
    ((s.showQuads p).showQuads b).fld (.ptCfg x) PT_CFG_QUADS = quads ((s.showQuads p).showQuads b) x := by
  have hsame : quads ((s.showQuads p).showQuads b) x = quads (s.showQuads p) x := quads_of_owner (fun q hq => owner_showQuads _ _ hq) x
  by_cases hxb : x = b
  · subst hxb
    rw [hsame, fld_showQuads_self (regsOk_showQuads hs p) hx]
  · have hxp := h.resolve_right hxb
    subst hxp
    rw [hsame, fld_showQuads_ne _ hxb, fld_showQuads_self hs hx, quads_of_owner (fun q hq => owner_showQuads _ _ hq) x]

/-! ### The end of a wipe -/

theorem snoopRange_unshared {a n : Nat} (h : ∀ e ∈ s.net.dir, e.1 < a / 256 ∨ a + n ≤ e.1 * 256) : s.snoopRange a n = s := by
  have hnone : (s.net.dir.map (·.1)).filter (fun l => a / 256 ≤ l && l * 256 < a + n) = [] := by
    refine List.filter_eq_nil_iff.2 fun l hl => ?_
    obtain ⟨e, he, rfl⟩ := List.mem_map.1 hl
    have := h e he
    simp
    omega
  unfold State.snoopRange
  split
  · rw [hnone, List.foldl_nil]
  · rfl

theorem freeAccs_none (h : s.tier.heldAcc = []) : s.freeAccs = s := by
  rw [State.freeAccs, h, List.foldl_nil, ← h]

/-- The granule is wiped, and no freed extent of it waits for a wipe. -/
def wiped (kind i : Nat) (s : State) : State :=
  { s with
    part := { s.part with wipes := s.part.wipes.filter (· ≠ (kind, i)) }
    mem := memWipe s.mem (granuleSpan kind i).1 (granuleSpan kind i).2
    tier := { s.tier with dirty := s.tier.dirty.flatMap fun d => (cutRun (granuleSpan kind i) d.2).map fun r => (d.1, r) } }

theorem wipeDone_eq (hkind : kind ≠ 0) (hwipe : s.part.wipes.contains (kind, i) = true) (hturn : s.wipeTurn kind i = true)
    (hheld : s.tier.heldAcc = [])
    (hdir : ∀ e ∈ s.net.dir, e.1 < (granuleSpan kind i).1 / 256 ∨ (granuleSpan kind i).1 + (granuleSpan kind i).2 ≤ e.1 * 256) :
    s.wipeDone kind i = (wiped kind i s).raiseRec (if s.owner kind i < 64 then s.owner kind i else modLog) srcM 0x0901
      (leBytes 1 kind ++ leBytes 2 i) := by
  have hsnoop := snoopRange_unshared (s := { s with part := { s.part with wipes := s.part.wipes.filter (· ≠ (kind, i)) } }) hdir
  rw [State.wipeDone, if_neg (by rw [hwipe, hturn]; decide)]
  simp only [if_neg hkind, hsnoop]
  rw [raise_silent rfl]
  exact freeAccs_none (s := (wiped kind i s).raiseRec _ _ _ _) hheld

/-! ### Floors -/

/-- A sum of a floor field at a hub, with the value written in place of the word's own. -/
def floorSum (s : State) (k : Nat) (f : Fld) (v : Nat) : Nat :=
  (List.range 64).foldl (fun a p => a + if 4 * p + k % 4 = k then v else s.fld (.ptFloor (4 * p + k % 4)) f) 0

theorem fld_floor_write (hs : RegsOk s) (hlock : s.flag .ptLock PT_LOCK_OPEN = true) {v : Nat} (hv : v < 2 ^ 64) :
    (s.plainWrite (.ptFloor k) .whole v).fld (.ptFloor k) PT_FLOOR_DFLOOR = bits v 0 9 ∧
      (s.plainWrite (.ptFloor k) .whole v).fld (.ptFloor k) PT_FLOOR_PFLOOR = bits v 16 6 := by
  have htidy : tidy (regFields (.ptFloor k)) = true := (by decide : tidy [PT_FLOOR_DFLOOR, PT_FLOOR_PFLOOR] = true)
  have hhit : fhit (halfMask .whole) PT_FLOOR_DFLOOR = true ∧ fhit (halfMask .whole) PT_FLOOR_PFLOOR = true := by decide
  have hval : halfVal .whole v = v := Nat.mod_eq_of_lt hv
  constructor
  · rw [fld_plainWrite hs htidy List.mem_cons_self, hval, writeFld, if_pos hhit.1]
    refine (congrArg (fget · PT_FLOOR_DFLOOR) (if_pos hlock)).trans ((fget_fput_self _ _ _ (by decide)).trans ?_)
    exact Nat.mod_eq_of_lt (bits_lt ..)
  · rw [fld_plainWrite hs htidy (List.mem_cons_of_mem _ List.mem_cons_self), hval, writeFld, if_pos hhit.2]
    refine (congrArg (fget · PT_FLOOR_PFLOOR) (if_pos hlock)).trans ((fget_fput_self _ _ _ (by decide)).trans ?_)
    exact Nat.mod_eq_of_lt (bits_lt ..)

/-- The sum over the state after the write. -/
theorem floorSum_write {f : Fld} {v : Nat} {h : Half} {x : Nat} (hf : (s.plainWrite (.ptFloor k) h v).fld (.ptFloor k) f = x) :
    (List.range 64).foldl (fun a p => a + (s.plainWrite (.ptFloor k) h v).fld (.ptFloor (4 * p + k % 4)) f) 0 = floorSum s k f x := by
  refine congrArg (fun g => List.foldl g 0 (List.range 64)) (funext fun a => funext fun p => congrArg (a + ·) ?_)
  split
  next hp => rw [hp, hf]
  next hp =>
    refine fld_of_regsBut (regsBut_plainWrite s (.ptFloor k) h v) ?_ f
    simp only [List.mem_singleton, forall_eq, regOff]
    omega

theorem wrPtFloor_eq (hs : RegsOk s) (hlock : s.flag .ptLock PT_LOCK_OPEN = true) {v : Nat} (hv : v < 2 ^ 64) : s.wrPtFloor k .whole v =
    if 432 < floorSum s k PT_FLOOR_DFLOOR (bits v 0 9) ∨ 56 < floorSum s k PT_FLOOR_PFLOOR (bits v 16 6) then s
    else s.plainWrite (.ptFloor k) .whole v := by
  obtain ⟨hd, hp⟩ := fld_floor_write (k := k) hs hlock hv
  simp only [State.wrPtFloor, floorSum_write hd, floorSum_write hp]

end Sys2Proof.Proofs.OwnersWipesAndFloors

section

open Sys2Proof Sys2Proof.Machine Sys2Proof.Safety Sys2Proof.Laws Sys2Proof.Proofs.OwnersWipesAndFloors Sys2Proof.Proofs.RegisterWrites
open Sys2Proof.Proofs.SketchRegionsTideAndTemperature (regsBut_trans regsBut_of_regs regsBut_mono raised_raiseRec onlyRegs_setFld OnlyRegs.trans)
open Sys2Proof.Proofs.RankingModelsAndTables (regsBut_setFld)
open Sys2Proof.Proofs.MemoryErrorsTemperaturesAndFlash (flag_setFld_one)

/-- Settles O16: a word's write by its one new byte, the wipe by its range, and a floor by the sums at its hub. -/
theorem ownersWipesAndFloors : Obligations.OwnersWipesAndFloors := by
  unfold Obligations.OwnersWipesAndFloors
  refine ⟨fun s kind j k b hs hup hlock h1 h5 hk hi hb hold hne huse hrest => ?_, fun s j k b p hs hup hlock hj hk hb hp hold hne huse hrest => ?_,
    fun s kind i hs h1 h5 hi hwipe hturn hheld hdir => ?_, fun s kind i o hs hup hlock h5 hi ho howner huse hrest => ?_,
    fun s kind j v h hlock h5 => ?_, fun s k v hs hup hlock hk hv hd hp => ?_, fun s k v hs hk hv hover hlock => ?_⟩
  · have hself := (owner_owned kind j k b s ..).trans (owner_setFld_self hs kind j hk hb)
    have hothers (n : Nat) (hn : n < 8) (hnk : n ≠ k) := (owner_owned kind j k b s ..).trans (owner_setFld_ne hs kind j b hk hn hnk)
    have hwrite := wrOwn_byte hlock hk hb hrest (wrOwner_free hi hold hb hne hk huse (by omega)) hothers
    obtain ⟨hset, hwipes, hframe⟩ := owned_frame kind j k b s
    exact ⟨_, congrArg Host.Outcome.next ((if_pos h5).trans ((onBus_up hup _).trans hwrite)), hself, hothers, hwipes, hset, hframe⟩
  · subst hp
    have hok := regsOk_owned hs 0 j k b
    have hq : 8 * j + k < 80 := by omega
    have hset : RegsBut [.ptOwnQ j] s (owned 0 j k b s) := by
      have hword : ownReg 0 (8 * j) = .ptOwnQ j := congrArg Reg.ptOwnQ (by omega)
      exact hword ▸ (owned_frame 0 j k b s).1
    have hshow (n : Nat) (hn : n < 8) : (((owned 0 j k b s).showQuads (s.owner 0 (8 * j + k))).showQuads b).owner 0 (8 * j + n) =
        (s.setFld (ownReg 0 (8 * j)) (ownFld k) b).owner 0 (8 * j + n) :=
      (owner_showQuads _ _ (by omega)).trans ((owner_showQuads _ _ (by omega)).trans (owner_owned ..))
    have hself := (hshow k hk).trans (owner_setFld_self hs 0 j hk hb)
    have hothers (n : Nat) (hn : n < 8) (hnk : n ≠ k) := (hshow n hn).trans (owner_setFld_ne hs 0 j b hk hn hnk)
    have hwrite := wrOwn_byte hlock hk hb hrest (wrOwner_quad hk hq hold hb hne (by simp [State.inUse, huse])) hothers
    have hword : ownReg 0 (8 * j + k) = .ptOwnQ j := congrArg Reg.ptOwnQ (by omega)
    rw [hword] at hwrite
    obtain ⟨-, hwipes, hframe⟩ := owned_frame 0 j k b s
    obtain ⟨hkeeps, hrest⟩ := wipes_of_onlyRegs hframe
      ((onlyRegs_showQuads (owned 0 j k b s) (s.owner 0 (8 * j + k))).trans (onlyRegs_showQuads _ b))
    refine ⟨_, congrArg Host.Outcome.next ((if_pos (by decide)).trans ((onBus_up hup _).trans hwrite)), hself, hothers, hkeeps.trans hwipes,
      fun x hx hxpb => fld_quads_shown hok hx hxpb, ?_, hrest⟩
    exact regsBut_trans (regsBut_mono hset (by simp)) (regsBut_trans (regsBut_mono (regsBut_showQuads _ _) (by simp))
      (regsBut_mono (regsBut_showQuads _ _) (by simp)))
  · have hdone := wipeDone_eq (by omega) hwipe hturn hheld hdir
    refine ⟨_, congrArg Host.Outcome.next hdone, fun x hx => ?_, fun x hx => ?_, rfl, raised_raiseRec rfl rfl _ _ _ _, rfl⟩
    · refine (memByte_memWipe _ _ _ _).trans (if_pos ?_)
      omega
    · refine (memByte_memWipe _ _ _ _).trans (if_neg ?_)
      omega
  · have hk : i % 8 < 8 := Nat.mod_lt _ (by decide)
    have hidx : 8 * (i / 8) + i % 8 = i := Nat.div_add_mod i 8
    rw [← hidx] at hi howner huse
    have hne : s.owner kind (8 * (i / 8) + i % 8) ≠ 0x40 := by omega
    have hused := wrOwner_used hi (by omega) (Nat.le_refl 0x40) hne huse (by omega)
    rw [howner] at hused
    have hset := regsBut_setFld s (.ptStat o) PT_STAT_REFUSED 1
    have hkept (q : Nat) : (s.setFld (.ptStat o) PT_STAT_REFUSED 1).owner kind q = s.owner kind q :=
      owner_of_regsBut hset (by simpa using ownReg_ne_ptStat kind q ho)
    have hwrite := wrOwn_byte hlock hk (Nat.le_refl 0x40) hrest hused fun n _ _ => hkept _
    rw [hidx] at hwrite howner
    have hflag := flag_setFld_one hs (.ptStat o) PT_STAT_REFUSED (by decide) (by decide)
    obtain ⟨rs, hframe⟩ := onlyRegs_setFld s (.ptStat o) PT_STAT_REFUSED 1
    have howner' := (hkept i).trans howner
    rw [hframe] at hwrite hflag hset howner'
    exact ⟨_, congrArg Host.Outcome.next ((if_pos h5).trans ((onBus_up hup _).trans hwrite)), howner', hflag, raised_raiseRec rfl rfl _ _ _ _,
      hset, rfl⟩
  · exact congrArg Host.Outcome.next ((if_pos h5).trans (onBus_idle (if_pos (by simp [hlock]))))
  · obtain ⟨hdf, hpf⟩ := fld_floor_write (k := k) hs hlock hv
    have hwrite := (wrPtFloor_eq (k := k) hs hlock hv).trans (if_neg (not_or.2 ⟨Nat.not_lt.2 hd, Nat.not_lt.2 hp⟩))
    exact ⟨_, congrArg Host.Outcome.next ((if_pos hk).trans ((onBus_up hup _).trans hwrite)), hdf, hpf, regsBut_plainWrite s _ _ _,
      eq_of_onlyRegs (onlyRegs_plainWrite s _ _ _)⟩
  · exact congrArg Host.Outcome.next ((if_pos hk).trans (onBus_idle ((wrPtFloor_eq hs hlock hv).trans (if_pos hover))))

end

/-! What raising an event changes, whatever its code: the rule that several statements share. -/

namespace Sys2Proof.Proofs.RaisedCauses

open Sys2Proof Sys2Proof.Machine Sys2Proof.Safety
open Sys2Proof.Proofs.SketchRegionsTideAndTemperature (regsBut_trans regsBut_of_regs OnlyRegs onlyRegs_setFld raised_raiseRec)
open Sys2Proof.Proofs.RankingModelsAndTables (regsBut_setFld)

variable {s u : State}

/-- A cause is set, and its message owed. -/
theorem setCause_spec (s : State) (c : Nat) : ∃ (rs : Tab Word) (ev : EvState), s.setCause c = { s with regs := rs, evt := ev } ∧
    ev.raised = s.evt.raised ∧ RegsBut [.glbInt] s { s with regs := rs } := by
  unfold State.setCause
  split
  · exact ⟨s.regs, s.evt, rfl, rfl, regsBut_of_regs _ rfl⟩
  · have hset := regsBut_setFld s .glbInt (causeFld c) 1
    obtain ⟨rs, hframe⟩ := onlyRegs_setFld s .glbInt (causeFld c) 1
    rw [hframe] at hset ⊢
    unfold State.owe
    split
    · exact ⟨rs, _, rfl, rfl, hset⟩
    · exact ⟨rs, s.evt, rfl, rfl, hset⟩

/-- An event's record waits for its log; beside the events only the global interrupt's causes may change. -/
theorem raise_spec (he : u.evt = s.evt) (ht : u.svcTime = s.svcTime) (log src code : Nat) (data : List Byte) :
    ∃ (rs : Tab Word) (ev : EvState), u.raise log src code data = { u with regs := rs, evt := ev } ∧
      Raised log src code data s (u.raise log src code data) ∧ RegsBut [.glbInt] u { u with regs := rs } := by
  have hraised := raised_raiseRec he ht log src code data
  unfold State.raise
  dsimp only
  split
  next c _ =>
    obtain ⟨rs, ev, heq, hkept, hset⟩ := setCause_spec (u.raiseRec log src code data) c
    rw [heq]
    exact ⟨rs, ev, rfl, hkept.trans hraised, hset⟩
  next => exact ⟨u.regs, _, rfl, hraised, regsBut_of_regs _ rfl⟩

theorem regsOk_raise (hs : RegsOk s) (log src code : Nat) (data : List Byte) : RegsOk (s.raise log src code data) := by
  have hrec : RegsOk (s.raiseRec log src code data) := hs
  unfold State.raise
  dsimp only
  split
  next c _ =>
    unfold State.setCause State.owe
    split
    · exact hrec
    · have hok := State.regsOk_setFld (s.raiseRec log src code data) .glbInt (causeFld c) 1 hrec
      generalize (s.raiseRec log src code data).setFld .glbInt (causeFld c) 1 = u at hok ⊢
      split
      · exact hok
      · exact hok
  next => exact hrec

theorem codes_of_raised {t : State} {log src code : Nat} {data : List Byte} (h : Raised log src code data s t) :
    t.evt.raised.map (fun e => e.2.code) = s.evt.raised.map (fun e => e.2.code) ++ [code] := by
  rw [show t.evt.raised = _ from h, List.map_append]
  rfl

/-- What the write of one field does to its register, and that it does nothing else. -/
theorem setFld_spec (hs : RegsOk s) (r : Reg) (f : Fld) (v : Nat) (hf : f.lo + f.w ≤ 64) : ∃ rs : Tab Word, s.setFld r f v = { s with regs := rs } ∧
    RegsOk { s with regs := rs } ∧ ({ s with regs := rs } : State).fld r f = v % 2 ^ f.w ∧
    (∀ g : Fld, (g.lo + g.w ≤ f.lo ∨ f.lo + f.w ≤ g.lo) → ({ s with regs := rs } : State).fld r g = s.fld r g) ∧
    RegsBut [r] s { s with regs := rs } := by
  have hok := s.regsOk_setFld r f v hs
  have hself := State.fld_setFld_self s r f v hs hf
  have hkept (g : Fld) (h : g.lo + g.w ≤ f.lo ∨ f.lo + f.w ≤ g.lo) := State.fld_setFld_fld s r f g v hs hf h
  have hset := regsBut_setFld s r f v
  obtain ⟨rs, hframe⟩ := onlyRegs_setFld s r f v
  rw [hframe] at hok hself hset
  exact ⟨rs, hframe, hok, hself, fun g h => by rw [← hframe]; exact hkept g h, hset⟩

/-- A count changes its field alone. -/
theorem incFld_spec (hs : RegsOk s) (r : Reg) (f : Fld) (n : Nat) (hf : f.lo + f.w ≤ 64) : ∃ rs : Tab Word, s.incFld r f n = { s with regs := rs } ∧
    RegsOk { s with regs := rs } ∧
    (∀ g : Fld, (g.lo + g.w ≤ f.lo ∨ f.lo + f.w ≤ g.lo) → ({ s with regs := rs } : State).fld r g = s.fld r g) ∧
    RegsBut [r] s { s with regs := rs } := by
  obtain ⟨rs, hset, hok, -, hkept, hbut⟩ := setFld_spec hs r f (if f.sat then satAdd (2 ^ f.w - 1) (s.fld r f) n else s.fld r f + n) hf
  exact ⟨rs, hset, hok, hkept, hbut⟩

end Sys2Proof.Proofs.RaisedCauses

/-! Proof of O12: moorings, and writes through the aliases. -/

namespace Sys2Proof.Proofs.MooringsAndAliases

open Sys2Proof Sys2Proof.Machine Sys2Proof.Safety
open Sys2Proof.Proofs.RegisterWrites
open Sys2Proof.Proofs.QueriesAndTheirCompletions (length_leBytes ofLE_leBytes)
open Sys2Proof.Proofs.SketchRegionsTideAndTemperature (regsBut_trans regsBut_of_regs regsBut_mono OnlyRegs onlyRegs_setFld raise_silent)
open Sys2Proof.Proofs.RankingModelsAndTables (regsBut_setFld)

variable {s : State} {src d m o : Nat} {acquire set : Bool} {data : List Byte}

/-! ### An access to a bank -/

theorem wakeBank_on {b : Nat} (h : s.bankSt d b = 0) : s.wakeBank d b = s := if_neg (by omega)

theorem touchSpad_serves (h : s.bankServes d (o / bankSize) = true) : s.touchSpad d o = (s.wakeBank d (o / bankSize), true) := if_pos h

theorem touchSpad_on (h : s.bankServes d (o / bankSize) = true) (hon : s.bankSt d (o / bankSize) = 0) : s.touchSpad d o = (s, true) := by
  rw [touchSpad_serves h, wakeBank_on hon]

theorem onlyRegs_wakeBank (s : State) (d b : Nat) : OnlyRegs s (s.wakeBank d b) := by
  unfold State.wakeBank
  split
  · exact ⟨_, rfl⟩
  · exact ⟨s.regs, rfl⟩

theorem regsBut_wakeBank (s : State) (d b : Nat) : RegsBut [spadReg d b, .spadStat d] s (s.wakeBank d b) := by
  unfold State.wakeBank
  split
  · exact regsBut_trans (regsBut_mono (regsBut_setFld s (spadReg d b) (spadFld b) 0) (by simp)) (regsBut_mono (regsBut_setFld _ _ _ _) (by simp))
  · exact regsBut_of_regs _ rfl

/-! ### The mooring's word -/

theorem moor_setMoor (hm : MemOk s) (d m : Nat) {w : Nat} (hw : w < 2 ^ 64) : (s.setMoor d m w).moor d m = w := by
  have hread : memRead (memWrite s.mem (moorAddr d m) (leBytes 8 w)) (moorAddr d m) 8 = leBytes 8 w := by
    have h := memRead_memWrite s.mem (moorAddr d m) (leBytes 8 w) hm
    rwa [length_leBytes] at h
  refine (congrArg ofLE hread).trans ((ofLE_leBytes 8 w).trans (Nat.mod_eq_of_lt ?_))
  omega

theorem memBut_setMoor (s : State) (d m w : Nat) : MemBut (moorAddr d m) 8 s (s.setMoor d m w) := by
  intro x hx
  refine memByte_memWrite_out _ _ _ _ ?_
  rwa [length_leBytes]

theorem moorWord_lt {wb : Nat} (hwb : wb ≤ 1) (owner tag epoch : Nat) : moorWord 1 wb owner tag epoch < 2 ^ 64 := by
  unfold moorWord
  omega

/-- A mooring operation of a served source at a bank that is ON. -/
theorem mooring_served (hserves : s.moorServes src m = true) (hbank : s.bankServes d 63 = true) (hon : s.bankSt d 63 = 0) (tag : Nat) :
    s.mooring acquire src d m tag = if acquire then s.moorAcquire src d m tag else s.moorRelease src d m tag := by
  have htouch : s.touchSpad d moorOff = (s, true) := touchSpad_on hbank hon
  simp only [State.mooring, State.moorOp, if_neg (show ¬ s.moorServes src m = false by simp [hserves]), htouch, if_true]
  rfl

theorem acquire_served (hd : d < 20) (hm : m < 2048) (hserves : s.moorServes src m = true) (hbank : s.bankServes d 63 = true)
    (hon : s.bankSt d 63 = 0) (tag : Nat) : exec (.mooringAcquire src d m tag) s = .next (s.moorAcquire src d m tag) :=
  congrArg Host.Outcome.next ((if_pos ⟨hd, hm⟩).trans ((mooring_served hserves hbank hon tag).trans (if_pos rfl)))

theorem release_served (hd : d < 20) (hm : m < 2048) (hserves : s.moorServes src m = true) (hbank : s.bankServes d 63 = true)
    (hon : s.bankSt d 63 = 0) (tag : Nat) : exec (.mooringRelease src d m tag) s = .next (s.moorRelease src d m tag) :=
  congrArg Host.Outcome.next ((if_pos ⟨hd, hm⟩).trans ((mooring_served hserves hbank hon tag).trans (if_neg Bool.false_ne_true)))

theorem moorAcquire_free {tag : Nat} (h : moorState (s.moor d m) = 0) :
    s.moorAcquire src d m tag = s.setMoor d m (moorWord 1 0 src tag (s.epochOf src)) := by
  simp only [State.moorAcquire, if_pos h]

theorem moorAcquire_broken {tag : Nat} (h : moorState (s.moor d m) = 2 ∨ (moorState (s.moor d m) = 1 ∧
    moorEpoch (s.moor d m) ≠ s.epochOf (moorOwner (s.moor d m)))) :
    s.moorAcquire src d m tag = s.setMoor d m (moorWord 1 1 src tag (s.epochOf src)) := by
  rcases h with h | ⟨h, hepoch⟩
  · simp only [State.moorAcquire, h, if_neg (show ¬ (2 = 0) by decide), if_true]
  · simp only [State.moorAcquire, h, if_neg (show ¬ (1 = 0) by decide), if_neg (show ¬ (1 = 2) by decide), if_neg hepoch]

theorem moorAcquire_held {tag : Nat} (h : moorState (s.moor d m) = 1) (hepoch : moorEpoch (s.moor d m) = s.epochOf (moorOwner (s.moor d m))) :
    s.moorAcquire src d m tag = s.incFld (.spadStat d) SPAD_STAT_MBUSY 1 := by
  simp only [State.moorAcquire, h, if_neg (show ¬ (1 = 0) by decide), if_neg (show ¬ (1 = 2) by decide), if_pos hepoch]

theorem moorRelease_refused {tag : Nat} (h : moorState (s.moor d m) = 1 → ¬ (moorOwner (s.moor d m) = src % 2 ^ 12 ∧ moorTag (s.moor d m) = tag)) :
    s.moorRelease src d m tag = s.raiseRec (moorLog m) src (if moorState (s.moor d m) = 0 then 0x0603 else 0x0602) [] := by
  by_cases hfree : moorState (s.moor d m) = 0
  · simp only [State.moorRelease, if_pos hfree, raise_silent (code := 0x0603) rfl]
  · have hother : ¬ (moorState (s.moor d m) = 1 ∧ moorOwner (s.moor d m) = src % 2 ^ 12 ∧ moorTag (s.moor d m) = tag) := fun hown => h hown.1 hown.2
    simp only [State.moorRelease, if_neg hfree, if_neg hother, raise_silent (code := 0x0602) rfl]

theorem moorRelease_owned {tag : Nat} (h : moorState (s.moor d m) = 1) (hown : moorOwner (s.moor d m) = src % 2 ^ 12)
    (htag : moorTag (s.moor d m) = tag) : s.moorRelease src d m tag = s.setMoor d m 0 := by
  have hmine : moorState (s.moor d m) = 1 ∧ moorOwner (s.moor d m) = src % 2 ^ 12 ∧ moorTag (s.moor d m) = tag := ⟨h, hown, htag⟩
  have hheld : moorState (s.moor d m) ≠ 0 := by omega
  simp only [State.moorRelease, if_neg hheld, if_pos hmine]

/-! ### Aliases -/

theorem length_aliasBytes (set : Bool) {old new : List Byte} (h : old.length = new.length) : (aliasBytes set old new).length = new.length := by
  simp [aliasBytes, h]

/-- What a served alias write does: the bank wakes, and the bytes are read, modified and written. -/
theorem aliasWrite_served (hsrc : src < 0x540 ∨ 0x543 < src) (hform : aliasOk o data.length = true) (ho : o < 20 * spSize)
    (hoff : o % spSize < moorOff) (hreach : s.mayReach src (spBase + o) = true) (hbank : s.bankServes (o / spSize) (o % spSize / bankSize) = true) :
    s.aliasWrite src set o data = (s.wakeBank (o / spSize) (o % spSize / bankSize)).wr (spBase + o)
      (aliasBytes set (s.rd (spBase + o) data.length) data) := by
  have hmoor : moorAt (o % spSize) = none := if_neg (by omega)
  have hserved : ¬ (aliasOk o data.length = false ∨ 20 * spSize ≤ o ∨ (0x540 ≤ src ∧ src ≤ 0x543)) := by
    simp only [hform, Bool.true_eq_false, false_or]
    omega
  obtain ⟨rs, hwake⟩ := onlyRegs_wakeBank s (o / spSize) (o % spSize / bankSize)
  simp only [State.aliasWrite, State.aliasPut, if_neg hserved, hmoor, if_neg (show ¬ s.mayReach src (spBase + o) = false by simp [hreach]),
    touchSpad_serves hbank, if_true, State.refuseAlias, hwake, State.rd]

theorem memByte_aliasBytes (hm : MemOk s) (a : Nat) {i : Nat} (hi : i < data.length) :
    memByte (memWrite s.mem a (aliasBytes set (s.rd a data.length) data)) (a + i) =
      (if set then memByte s.mem (a + i) ||| data.getD i 0#8 else memByte s.mem (a + i) &&& ~~~(data.getD i 0#8)) := by
  have hlen := length_aliasBytes set (memRead_length s.mem a data.length)
  rw [memByte_memWrite_in _ _ _ _ (hlen.symm ▸ hi) hm]
  have hget : data.getD i 0#8 = data[i] := by simp [hi]
  simp only [aliasBytes, List.getElem_zipWith, State.rd, memRead_getElem, hget]

theorem aliasCmd_met {err : MemErr} (hform : aliasOk o data.length = true) (ho : o < 20 * spSize) (hoff : o % spSize < moorOff)
    (hreach : s.mayReach src (spBase + o) = true) (hbank : s.bankServes (o / spSize) (o % spSize / bankSize) = true) :
    s.aliasCmd src set o data err = if err = .ue then s.aliasUe src o else
      (if err = .ce then s.spadCe (o / spSize) else s).aliasWrite src set o data := by
  have hmet : (aliasOk o data.length && decide (o < 20 * spSize) && decide (o % spSize < moorOff) && s.mayReach src (spBase + o) &&
      s.bankServes (o / spSize) (o % spSize / bankSize)) = true := by simp [hform, ho, hoff, hreach, hbank]
  simp only [State.aliasCmd, hmet, true_and]

/-- What a served alias write changes. -/
theorem aliasWrite_spec (hsrc : src < 0x540 ∨ 0x543 < src) (hform : aliasOk o data.length = true) (ho : o < 20 * spSize)
    (hoff : o % spSize < moorOff) (hreach : s.mayReach src (spBase + o) = true) (hbank : s.bankServes (o / spSize) (o % spSize / bankSize) = true) :
    ∃ rs, s.aliasWrite src set o data = { s with regs := rs, mem := memWrite s.mem (spBase + o) (aliasBytes set (s.rd (spBase + o) data.length) data) } ∧
      RegsBut [spadReg (o / spSize) (o % spSize / bankSize), .spadStat (o / spSize)] s { s with regs := rs } := by
  have hregs := regsBut_wakeBank s (o / spSize) (o % spSize / bankSize)
  have hwrite := aliasWrite_served (set := set) hsrc hform ho hoff hreach hbank
  obtain ⟨rs, hwake⟩ := onlyRegs_wakeBank s (o / spSize) (o % spSize / bankSize)
  rw [hwake] at hwrite hregs
  exact ⟨rs, hwrite, hregs⟩

theorem aliasUe_on (hbank : s.bankServes (o / spSize) (o % spSize / bankSize) = true) (hon : s.bankSt (o / spSize) (o % spSize / bankSize) = 0) :
    s.aliasUe src o = (match if isQuadUnit src then s.quadInst (src / 16) else none with
      | some i => (s.raiseRec (s.addrLog (spBase + o)) (srcDie (o / spSize)) 0x0601 []).startAbort i 0x0601
      | none => if isQuadUnit src then s.raiseRec (s.addrLog (spBase + o)) (srcDie (o / spSize)) 0x0601 []
        else (s.raiseRec (s.addrLog (spBase + o)) (srcDie (o / spSize)) 0x0601 []).emit (.refusal src (spBase + o) 4)) := by
  unfold State.aliasUe
  rw [touchSpad_on hbank hon]
  dsimp only
  rw [raise_silent rfl]
  rfl

/-- A running instance begins to abort. -/
theorem startAbort_running {i cause : Nat} (hrun : s.flag (.schInst i) SCH_INST_RUN = true) (hab : s.flag (.schInst i) SCH_INST_ABORTING = false) :
    s.startAbort i cause = { s.setFld (.schInst i) SCH_INST_ABORTING 1 with
      ctl := { s.ctl with aborting := s.ctl.aborting ++ [{ inst := i, cause, time := s.svcTime }] } } := by
  have hmay : (s.flag (.schInst i) SCH_INST_RUN && !s.flag (.schInst i) SCH_INST_ABORTING) = true := by rw [hrun, hab]; rfl
  rw [State.startAbort, if_pos hmay]
  obtain ⟨rs, hframe⟩ := onlyRegs_setFld s (.schInst i) SCH_INST_ABORTING 1
  rw [hframe]

end Sys2Proof.Proofs.MooringsAndAliases

section

open Sys2Proof Sys2Proof.Machine Sys2Proof.Safety Sys2Proof.Laws Sys2Proof.Proofs.MooringsAndAliases Sys2Proof.Proofs.RegisterWrites
open Sys2Proof.Proofs.SketchRegionsTideAndTemperature (raised_raiseRec onlyRegs_setFld)
open Sys2Proof.Proofs.RankingModelsAndTables (regsBut_setFld)
open Sys2Proof.Proofs.MemoryErrorsTemperaturesAndFlash (fld_incFld_sat flag_setFld_one)

/-- Settles O12: a mooring by what its word holds, an alias write by the error met. -/
theorem mooringsAndAliasWrites : Obligations.MooringsAndAliasWrites := by
  unfold Obligations.MooringsAndAliasWrites
  refine ⟨fun s src d m tag hm hd hmn hserves hbank hon hst => ?_, fun s src d m tag hm hd hmn hserves hbank hon hst => ?_,
    fun s src d m tag hs hd hmn hserves hbank hon hst hepoch => ?_, fun s src d m tag hm hd hmn hserves hbank hon hst hown htag => ?_,
    fun s src d m tag hd hmn hserves hbank hon hst => ?_, fun s src o set data err hm herr hsrc hform ho hoff hreach hbank => ?_,
    fun s src o set data hquad hform ho hoff hreach hbank hon => ?_,
    fun s src o i set data hs hquad hinst hi hrun hab hform ho hoff hreach hbank hon => ?_⟩
  · refine ⟨_, (acquire_served hd hmn hserves hbank hon tag).trans (congrArg Host.Outcome.next (moorAcquire_free hst)),
      moor_setMoor hm d m (moorWord_lt (Nat.zero_le 1) _ _ _), memBut_setMoor s d m _, rfl⟩
  · refine ⟨_, (acquire_served hd hmn hserves hbank hon tag).trans (congrArg Host.Outcome.next (moorAcquire_broken hst)),
      moor_setMoor hm d m (moorWord_lt (Nat.le_refl 1) _ _ _), memBut_setMoor s d m _, rfl⟩
  · exact ⟨_, (acquire_served hd hmn hserves hbank hon tag).trans (congrArg Host.Outcome.next (moorAcquire_held hst hepoch)),
      fld_incFld_sat hs (by decide) rfl, regsBut_setFld _ _ _ _, rfl⟩
  · exact ⟨_, (release_served hd hmn hserves hbank hon tag).trans (congrArg Host.Outcome.next (moorRelease_owned hst hown htag)), moor_setMoor hm d m (by decide),
      memBut_setMoor s d m _, rfl⟩
  · exact ⟨_, (release_served hd hmn hserves hbank hon tag).trans (congrArg Host.Outcome.next (moorRelease_refused hst)),
      raised_raiseRec rfl rfl _ _ _ _, rfl⟩
  · have hcmd := aliasCmd_met (set := set) (err := err) hform ho hoff hreach hbank
    rw [if_neg herr] at hcmd
    have hlen := length_aliasBytes set (memRead_length s.mem (spBase + o) data.length)
    have hout : MemBut (spBase + o) data.length s (s.wr (spBase + o) (aliasBytes set (s.rd (spBase + o) data.length) data)) := fun x hx =>
      memByte_memWrite_out _ _ _ _ (by rwa [State.rd, hlen])
    by_cases hce : err = .ce
    · rw [if_pos hce] at hcmd
      obtain ⟨rs, hwrite, hregs⟩ := aliasWrite_spec (s := s.spadCe (o / spSize)) (set := set) hsrc hform ho hoff hreach hbank
      refine ⟨_, congrArg Host.Outcome.next (hcmd.trans hwrite), fun i hi => memByte_aliasBytes hm _ hi, hout, hregs, ?_, fun _ => ?_⟩
      · rw [if_pos hce]
        rfl
      · exact tget_tset_kept (fun _ => 0) s.net.ce (o / spSize) _ (Nat.succ_ne_zero _)
    · rw [if_neg hce] at hcmd
      obtain ⟨rs, hwrite, hregs⟩ := aliasWrite_spec (set := set) hsrc hform ho hoff hreach hbank
      refine ⟨_, congrArg Host.Outcome.next (hcmd.trans hwrite), fun i hi => memByte_aliasBytes hm _ hi, hout, hregs, ?_, fun h => absurd h hce⟩
      rw [if_neg hce]
  · have hcmd := (aliasCmd_met (set := set) (err := .ue) hform ho hoff hreach hbank).trans (if_pos rfl)
    have hue := aliasUe_on (src := src) hbank hon
    rw [hquad] at hue
    exact ⟨_, congrArg Host.Outcome.next (hcmd.trans hue), raised_raiseRec rfl rfl _ _ _ _, rfl, rfl⟩
  · have hcmd := (aliasCmd_met (set := set) (err := .ue) hform ho hoff hreach hbank).trans (if_pos rfl)
    have hue := aliasUe_on (src := src) hbank hon
    rw [hquad, if_pos rfl, hinst] at hue
    have hrun' := startAbort_running (s := s.raiseRec (s.addrLog (spBase + o)) (srcDie (o / spSize)) 0x0601 []) (cause := 0x0601) hrun hab
    have hflag := flag_setFld_one hs (.schInst i) SCH_INST_ABORTING (by decide) (by decide)
    have hset := regsBut_setFld s (.schInst i) SCH_INST_ABORTING 1
    obtain ⟨rs, hframe⟩ := onlyRegs_setFld s (.schInst i) SCH_INST_ABORTING 1
    have hframe' : (s.raiseRec (s.addrLog (spBase + o)) (srcDie (o / spSize)) 0x0601 []).setFld (.schInst i) SCH_INST_ABORTING 1 =
        { s.raiseRec (s.addrLog (spBase + o)) (srcDie (o / spSize)) 0x0601 [] with regs := rs } := by
      have h := congrArg State.regs hframe
      exact congrArg (fun x => { s.raiseRec (s.addrLog (spBase + o)) (srcDie (o / spSize)) 0x0601 [] with regs := x }) h
    rw [hframe'] at hrun'
    rw [hframe] at hflag hset
    exact ⟨_, congrArg Host.Outcome.next (hcmd.trans (hue.trans hrun')), raised_raiseRec (s := s) rfl rfl _ _ _ _, hflag, rfl, hset, rfl⟩

end

/-! Proof of O14: buffer pools. -/

namespace Sys2Proof.Proofs.BufferPoolsOfAnEDie

open Sys2Proof Sys2Proof.Machine Sys2Proof.Safety
open Sys2Proof.Proofs.RegisterWrites
open Sys2Proof.Proofs.SketchRegionsTideAndTemperature (OnlyRegs onlyRegs_setFld raise_silent)

variable {s : State} {src k i : Nat}

/-! ### POOL_ALLOC -/

/-- The descriptor of an allocation that gives no buffer. -/
def noBuffer (s : State) (src k st : Nat) : Nat := poolDesc st (k % 16) (k / 16) 0 (s.fld (.poolCfg k) POOL_CFG_PART) (src % 4096) 0

/-- The generation of buffer `i` when it is next given. -/
def nextGen (s : State) (k i : Nat) : Nat := (tgetD 0 (s.pool k).gens i + 1) % 2 ^ 16

/-- The pool after its buffer `i` was given. -/
def givenPool (s : State) (src k i : Nat) : PoolSt :=
  { used := (s.pool k).used ++ [(i, src)], gens := tsetD 0 (s.pool k).gens i (nextGen s k i),
    search := (i + 1) % (s.fld (.poolCfg k) POOL_CFG_COUNTM1 + 1) }

theorem poolAlloc_gives (hen : s.flag (.poolCfg k) POOL_CFG_EN = true) (hmaster : s.poolMaster src k = true)
    (hfree : nextFree (s.pool k).used (s.fld (.poolCfg k) POOL_CFG_COUNTM1 + 1) (s.pool k).search = some i) :
    s.poolAlloc src k = ((s.setPool k (givenPool s src k i)).setFld (.poolCfg k) POOL_CFG_FREE (s.fld (.poolCfg k) POOL_CFG_FREE - 1),
      poolDesc i (k % 16) (k / 16) 1 (s.fld (.poolCfg k) POOL_CFG_PART) (src % 4096) (nextGen s k i)) := by
  have hen' : ¬ s.flag (.poolCfg k) POOL_CFG_EN = false := by simp [hen]
  simp only [State.poolAlloc, if_neg hen', hmaster, not_true_eq_false, if_false, hfree]
  rfl

theorem poolAlloc_refuses {lost : Bool} (hno : s.flag (.poolCfg k) POOL_CFG_EN = false ∨ s.poolMaster src k = false ∨ lost = true ∨
    nextFree (s.pool k).used (s.fld (.poolCfg k) POOL_CFG_COUNTM1 + 1) (s.pool k).search = none)
    (hlost : ¬ (lost = true ∧ s.flag (.poolCfg k) POOL_CFG_EN = true ∧ s.poolMaster src k = true)) :
    s.poolAlloc src k = (s, noBuffer s src k (if s.flag (.poolCfg k) POOL_CFG_EN = false then 4 else if s.poolMaster src k = false then 3 else 1)) := by
  unfold State.poolAlloc
  by_cases hen : s.flag (.poolCfg k) POOL_CFG_EN = false
  · simp only [if_pos hen]
    rfl
  · by_cases hmaster : s.poolMaster src k = false
    · simp only [if_neg hen, hmaster, Bool.false_eq_true, not_false_eq_true, if_true]
      rfl
    · have hen' : s.flag (.poolCfg k) POOL_CFG_EN = true := by simpa using hen
      have hmaster' : s.poolMaster src k = true := by simpa using hmaster
      have hnone := ((hno.resolve_left hen).resolve_left hmaster).resolve_left fun h => hlost ⟨h, hen', hmaster'⟩
      simp only [if_neg hen, hmaster', not_true_eq_false, if_false, hnone, Bool.true_eq_false]
      rfl

theorem poolAllocRead_refuses {lost : Bool} (hno : s.flag (.poolCfg k) POOL_CFG_EN = false ∨ s.poolMaster src k = false ∨ lost = true ∨
    nextFree (s.pool k).used (s.fld (.poolCfg k) POOL_CFG_COUNTM1 + 1) (s.pool k).search = none) :
    s.poolAllocRead src k lost = s.emit (.readResp src (regBase + regOff (.poolAlloc k)) (leBytes 8 (noBuffer s src k
      (if s.flag (.poolCfg k) POOL_CFG_EN = false then 4 else if s.poolMaster src k = false then 3 else if lost = true then 2 else 1)))) := by
  by_cases hlost : lost = true ∧ s.flag (.poolCfg k) POOL_CFG_EN = true ∧ s.poolMaster src k = true
  · obtain ⟨rfl, hen, hmaster⟩ := hlost
    simp only [State.poolAllocRead, hen, hmaster, and_self, if_true, Bool.true_eq_false, if_false]
    rfl
  · simp only [State.poolAllocRead, if_neg hlost, poolAlloc_refuses hno hlost]
    by_cases hen : s.flag (.poolCfg k) POOL_CFG_EN = false
    · simp only [hen, if_true]
    · by_cases hmaster : s.poolMaster src k = false
      · simp only [hmaster, if_true]
      · have hnot : lost ≠ true := fun h => hlost ⟨h, by simpa using hen, by simpa using hmaster⟩
        simp only [if_neg hen, if_neg hmaster, if_neg hnot]

/-! ### POOL_FREE -/

theorem poolFree_frees {d : Nat} (hvalid : bits d 25 1 = 1) (hdie : bits d 20 5 = k / 16) (hpool : bits d 16 4 = k % 16)
    (hsrc : s.poolSrc src k = some (s.fld (.poolCfg k) POOL_CFG_PART)) (hused : ((s.pool k).used.any fun u => u.1 = bits d 0 16) = true)
    (hgen : tgetD 0 (s.pool k).gens (bits d 0 16) = bits d 44 16) : s.poolFree src k d =
      (s.setPool k { s.pool k with used := (s.pool k).used.filter fun u => u.1 ≠ bits d 0 16 }).setFld (.poolCfg k) POOL_CFG_FREE
        (s.fld (.poolCfg k) POOL_CFG_FREE + 1) := by
  have hform : ¬ (bits d 25 1 = 0 ∨ bits d 20 5 ≠ k / 16 ∨ bits d 16 4 ≠ k % 16) := by omega
  have hheld : ((s.pool k).used.any (fun u => u.1 = bits d 0 16) && decide (tgetD 0 (s.pool k).gens (bits d 0 16) = bits d 44 16)) = true := by
    rw [hused, hgen, decide_eq_true rfl]
    rfl
  simp only [State.poolFree, if_neg hform, hsrc, ne_eq, not_true_eq_false, if_false, hheld, if_true]

theorem poolFree_foreign {d : Nat} (hvalid : bits d 25 1 = 1) (hdie : bits d 20 5 = k / 16) (hpool : bits d 16 4 = k % 16)
    (hsrc : s.poolSrc src k ≠ some (s.fld (.poolCfg k) POOL_CFG_PART)) :
    s.poolFree src k d = s.raiseRec (s.fld (.poolCfg k) POOL_CFG_PART) src 0x0605 [] := by
  have hform : ¬ (bits d 25 1 = 0 ∨ bits d 20 5 ≠ k / 16 ∨ bits d 16 4 ≠ k % 16) := by omega
  simp only [State.poolFree, if_neg hform, if_pos hsrc, raise_silent (code := 0x0605) rfl]

theorem poolFree_stale {d : Nat} (hsrc : s.poolSrc src k = some (s.fld (.poolCfg k) POOL_CFG_PART))
    (hstale : bits d 25 1 = 0 ∨ tgetD 0 (s.pool k).gens (bits d 0 16) ≠ bits d 44 16) :
    s.poolFree src k d = s.raiseRec (s.fld (.poolCfg k) POOL_CFG_PART) src 0x0604 [] := by
  by_cases hform : bits d 25 1 = 0 ∨ bits d 20 5 ≠ k / 16 ∨ bits d 16 4 ≠ k % 16
  · simp only [State.poolFree, if_pos hform, hsrc, Option.getD_some, raise_silent (code := 0x0604) rfl]
  · have hgen := hstale.resolve_left fun h => hform (.inl h)
    simp only [State.poolFree, if_neg hform, hsrc, ne_eq, not_true_eq_false, if_false, decide_eq_false hgen, Bool.and_false, Bool.false_eq_true,
      raise_silent (code := 0x0604) rfl]

/-! ### POOL_CFG -/

/-- The lock takes part only in the fields that it locks. -/
theorem writeFlds_congr {ok ok' : LockKind → Bool} {l : List Fld} (h : ∀ f ∈ l, ok f.lock = ok' f.lock) (m v : Nat) (w : Word) :
    writeFlds ok m v l w = writeFlds ok' m v l w := by
  induction l generalizing w with
  | nil => rfl
  | cons f l ih =>
    have hfld : writeFld ok m v w f = writeFld ok' m v w f := by simp only [writeFld, h f List.mem_cons_self]
    rw [writeFlds, writeFlds, hfld, ih fun x hx => h x (List.mem_cons_of_mem _ hx)]

/-- With the lock open and EN = 0, a write takes every field. -/
theorem writeFlds_poolCfg (hlock : s.flag .ptLock PT_LOCK_OPEN = true) (hen : s.flag (.poolCfg k) POOL_CFG_EN = false) (v : Nat) :
    writeFlds (s.lockOpen (.poolCfg k)) (halfMask .whole) (halfVal .whole v) (regFields (.poolCfg k)) (s.reg (.poolCfg k)) =
      writeFlds (fun _ => true) (2 ^ 64 - 1) (v % 2 ^ 64) (regFields (.poolCfg k)) (s.reg (.poolCfg k)) := by
  refine writeFlds_congr (fun f hf => ?_) _ _ _
  have hopen (x : LockKind) (hx : x = .pool ∨ x = .pt ∨ x = .none) : s.lockOpen (.poolCfg k) x = true := by
    rcases hx with rfl | rfl | rfl
    · simp only [State.lockOpen, hen, Bool.not_false]
    · exact hlock
    · rfl
  have hkinds : ∀ f ∈ [POOL_CFG_BASE, POOL_CFG_LOG2SZ, POOL_CFG_COUNTM1, POOL_CFG_PART, POOL_CFG_EN, POOL_CFG_FREE],
      f.lock = .pool ∨ f.lock = .pt ∨ f.lock = .none := by decide
  exact hopen _ (hkinds f hf)

theorem en_of_flag (hen : s.flag (.poolCfg k) POOL_CFG_EN = false) : fget (s.reg (.poolCfg k)) POOL_CFG_EN = 0 := by
  exact Decidable.not_not.1 (of_decide_eq_false hen)

/-- The pool is enabled, and every buffer of it is free. -/
def enabledPool (s : State) (k : Nat) (n : Word) : State :=
  (s.setReg (.poolCfg k) (fput n POOL_CFG_FREE (fget n POOL_CFG_COUNTM1 + 1))).setPool k { s.pool k with used := [], search := 0 }

theorem wrPoolCfg_enables {v : Nat} {n : Word} (hlock : s.flag .ptLock PT_LOCK_OPEN = true) (hen : s.flag (.poolCfg k) POOL_CFG_EN = false)
    (hn : n = writeFlds (fun _ => true) (2 ^ 64 - 1) (v % 2 ^ 64) (regFields (.poolCfg k)) (s.reg (.poolCfg k))) (hone : fget n POOL_CFG_EN = 1) :
    s.wrPoolCfg k .whole v = if s.poolFits k n then enabledPool s k n else s := by
  have hnew := (writeFlds_poolCfg hlock hen v).trans hn.symm
  rw [State.wrPoolCfg]
  simp only [hnew]
  exact if_pos ⟨en_of_flag hen, hone⟩

theorem fget_fput_free (n : Word) (x : Nat) : fget (fput n POOL_CFG_FREE x) POOL_CFG_EN = fget n POOL_CFG_EN :=
  fget_fput_ne _ _ _ _ (by decide) (by decide)

end Sys2Proof.Proofs.BufferPoolsOfAnEDie

section

open Sys2Proof Sys2Proof.Machine Sys2Proof.Safety Sys2Proof.Proofs.BufferPoolsOfAnEDie Sys2Proof.Proofs.RegisterWrites
open Sys2Proof.Proofs.SketchRegionsTideAndTemperature (raised_raiseRec onlyRegs_setFld)
open Sys2Proof.Proofs.RankingModelsAndTables (regsBut_setFld)

/-- Settles O14: an allocation by the lowest free buffer, a free by its descriptor, and POOL_CFG by what fits. -/
theorem bufferPools : Obligations.BufferPools := by
  unfold Obligations.BufferPools
  refine ⟨fun s src k i hs hk hen hmaster hfree hcount => ?_, fun s src k st lost hk hst hno => ?_,
    fun s src k d i hs hp hk hvalid hdie hpool hi hsrc hused hgen => ?_, fun s src k d hk hvalid hdie hpool hsrc => ?_,
    fun s src k d hk hsrc hstale => ?_, fun s k v n hs hp hup hk hlock hen hn hone hfits => ?_, fun s k v n hk hlock hen hn hone hfits => ?_⟩
  · have hlost : ¬ (false = true ∧ s.flag (.poolCfg k) POOL_CFG_EN = true ∧ s.poolMaster src k = true) := fun h => Bool.false_ne_true h.1
    have hread : s.poolAllocRead src k false = ((s.setPool k (givenPool s src k i)).setFld (.poolCfg k) POOL_CFG_FREE
        (s.fld (.poolCfg k) POOL_CFG_FREE - 1)).emit (.readResp src (regBase + regOff (.poolAlloc k))
          (leBytes 8 (poolDesc i (k % 16) (k / 16) 1 (s.fld (.poolCfg k) POOL_CFG_PART) (src % 4096) (nextGen s k i)))) := by
      simp only [State.poolAllocRead, if_neg hlost, poolAlloc_gives hen hmaster hfree]
    have hget : (s.setPool k (givenPool s src k i)).pool k = givenPool s src k i := by
      refine tget_tset_kept _ _ _ _ fun h => ?_
      have hempty : (s.pool k).used ++ [(i, src)] = [] := congrArg PoolSt.used h
      exact List.append_ne_nil_of_right_ne_nil _ (by simp) hempty
    have hcnt := State.fld_setFld_self (s.setPool k (givenPool s src k i)) (.poolCfg k) POOL_CFG_FREE (s.fld (.poolCfg k) POOL_CFG_FREE - 1) hs (by decide)
    have hlt : s.fld (.poolCfg k) POOL_CFG_FREE < 2 ^ POOL_CFG_FREE.w := s.fld_lt _ _
    rw [Nat.mod_eq_of_lt (by omega)] at hcnt
    have hset := regsBut_setFld (s.setPool k (givenPool s src k i)) (.poolCfg k) POOL_CFG_FREE (s.fld (.poolCfg k) POOL_CFG_FREE - 1)
    obtain ⟨rs, hframe⟩ := onlyRegs_setFld (s.setPool k (givenPool s src k i)) (.poolCfg k) POOL_CFG_FREE (s.fld (.poolCfg k) POOL_CFG_FREE - 1)
    rw [hframe] at hread hcnt hset
    exact ⟨_, congrArg Host.Outcome.next ((if_pos hk).trans hread), congrArg PoolSt.used hget, hcnt, fun j hj => tget_tset_ne _ _ _ hj, rfl, hset, rfl⟩
  · rw [hst]
    exact congrArg Host.Outcome.next ((if_pos hk).trans (poolAllocRead_refuses hno))
  · subst hi
    have hfree := poolFree_frees hvalid hdie hpool hsrc hused hgen
    generalize hp' : { s.pool k with used := (s.pool k).used.filter fun u => u.1 ≠ bits d 0 16 } = p at hfree
    have hget : (s.setPool k p).pool k = p := tget_tset_self _ _ _ _ hp
    have hcnt := State.fld_setFld_self (s.setPool k p) (.poolCfg k) POOL_CFG_FREE (s.fld (.poolCfg k) POOL_CFG_FREE + 1) hs (by decide)
    have hset := regsBut_setFld (s.setPool k p) (.poolCfg k) POOL_CFG_FREE (s.fld (.poolCfg k) POOL_CFG_FREE + 1)
    obtain ⟨rs, hframe⟩ := onlyRegs_setFld (s.setPool k p) (.poolCfg k) POOL_CFG_FREE (s.fld (.poolCfg k) POOL_CFG_FREE + 1)
    rw [hframe] at hfree hcnt hset
    exact ⟨_, congrArg Host.Outcome.next ((if_pos hk).trans hfree), (congrArg PoolSt.used hget).trans (congrArg PoolSt.used hp').symm, hcnt, hset, rfl⟩
  · exact ⟨_, congrArg Host.Outcome.next ((if_pos hk).trans (poolFree_foreign hvalid hdie hpool hsrc)), raised_raiseRec rfl rfl _ _ _ _, rfl⟩
  · exact ⟨_, congrArg Host.Outcome.next ((if_pos hk).trans (poolFree_stale hsrc hstale)), raised_raiseRec rfl rfl _ _ _ _, rfl⟩
  · have hwrite := (wrPoolCfg_enables hlock hen hn hone).trans (if_pos hfits)
    have hreg := s.reg_setReg_self (.poolCfg k) (fput n POOL_CFG_FREE (fget n POOL_CFG_COUNTM1 + 1)) hs
    have hset := regsBut_setReg s (.poolCfg k) (fput n POOL_CFG_FREE (fget n POOL_CFG_COUNTM1 + 1))
    obtain ⟨rs, hframe⟩ := onlyRegs_setReg s (.poolCfg k) (fput n POOL_CFG_FREE (fget n POOL_CFG_COUNTM1 + 1))
    rw [hframe] at hreg hset
    rw [enabledPool, hframe] at hwrite
    have hget : (({ s with regs := rs } : State).setPool k { s.pool k with used := [], search := 0 }).pool k =
        { s.pool k with used := [], search := 0 } := tget_tset_self _ _ _ _ hp
    refine ⟨_, congrArg Host.Outcome.next ((if_pos hk).trans ((onBus_up hup _).trans hwrite)), ?_, ?_, congrArg PoolSt.used hget, hset, rfl⟩
    · exact (congrArg (fget · POOL_CFG_EN) hreg).trans ((fget_fput_free _ _).trans hone)
    · exact (congrArg (fget · POOL_CFG_FREE) hreg).trans (fget_fput_self _ _ _ (by decide))
  · have hwrite := (wrPoolCfg_enables hlock hen hn hone).trans (if_neg (by simp [hfits]))
    exact congrArg Host.Outcome.next ((if_pos hk).trans (onBus_idle hwrite))

end

/-! Proof of O25: the host's window, the link and its responder. -/

namespace Sys2Proof.Proofs.WindowAndLink

open Sys2Proof Sys2Proof.Machine Sys2Proof.Safety
open Sys2Proof.Proofs.MemoryPathsAndAdds (OffDies offDies_of_lt touch_of_offDies)
open Sys2Proof.Proofs.OwnersWipesAndFloors (snoopRange_unshared)
open Sys2Proof.Proofs.SketchRegionsTideAndTemperature (raise_silent)
open Sys2Proof.Proofs.MemoryErrorsTemperaturesAndFlash (setFlds)
open Sys2Proof.Proofs.MooringsAndAliases (touchSpad_on)

variable {s : State} {x n a o : Nat} {w : Option (List Byte)} {set : Bool} {b : List Byte}

/-- The bytes that an access covers. -/
abbrev accLen (n : Nat) (w : Option (List Byte)) : Nat := (w.map List.length).getD n

/-! ### BAR2 -/

theorem bar2_inside (hup : s.quayUp = true) (hin : x + accLen n w ≤ 2 ^ s.quay.bar2Log) (ha : a = s.bar2Addr x) :
    exec (.bar2Access x n w) s = .next (s.bar2Serve x n (accLen n w) a w) := by
  subst ha
  have hlen : (match w with | some d => d.length | none => n) = accLen n w := by cases w <;> rfl
  have hout : ¬ 2 ^ s.quay.bar2Log < x + accLen n w := Nat.not_lt.2 hin
  refine congrArg Host.Outcome.next ?_
  simp only [State.bar2, if_neg (show ¬ s.quayUp = false by simp [hup])]
  cases w with
  | none => exact if_neg hout
  | some d => exact if_neg hout

/-- An access to DRAM: refused, held, or served. -/
theorem bar2Serve_dram (h : OffDies a) (hmap : regionOf a ≠ .unmapped) (len : Nat) : s.bar2Serve x n len a w =
    if s.mayReach srcHost a = false ∨ s.mayReach srcHost (a + len - 1) = false then s.bar2Refuse x w.isSome
    else if s.converting a = true ∨ s.converting (a + len - 1) = true then s.hold ⟨srcHost, .addr a, n, w, 0, some x⟩
    else match w with
      | some b => if s.lostIn a len then s else (s.snoopRange a len).wr a b
      | none => s.bar2Read a n := by
  rcases h with hr | hr | hr | hr
  · unfold State.bar2Serve
    rw [hr] <;> rfl
  · unfold State.bar2Serve
    rw [hr] <;> rfl
  · unfold State.bar2Serve
    rw [hr] <;> rfl
  · exact absurd hr hmap

theorem bar2Serve_served (ha : a < spBase) (hmap : regionOf a ≠ .unmapped) {len : Nat} (hreach : s.mayReach srcHost a = true)
    (hlast : s.mayReach srcHost (a + len - 1) = true) (hconv : s.converting a = false) (hconvl : s.converting (a + len - 1) = false) :
    s.bar2Serve x n len a w = (match w with
      | some b => if s.lostIn a len then s else (s.snoopRange a len).wr a b
      | none => s.bar2Read a n) := by
  rw [bar2Serve_dram (offDies_of_lt ha) hmap, if_neg (by simp [hreach, hlast]), if_neg (by simp [hconv, hconvl])]

theorem bar2Read_answers (htouch : s.touch a = (s, true)) (hlost : s.lostIn a n = false) :
    s.bar2Read a n = s.emit (.hostRead (some (ofLE (s.rd a n)))) := by
  simp only [State.bar2Read, htouch, hlost, and_self, if_true]

theorem bar2Write_stores (htouch : s.touch a = (s, true)) : s.bar2Write a b = s.wr a b := by
  simp only [State.bar2Write, htouch, if_true]

theorem bar2Serve_spad {d len : Nat} (hr : regionOf a = .spad d o) (ho : o < moorOff) (hreach : s.mayReach srcHost a = true) :
    s.bar2Serve x n len a w = (match w with
      | some b => s.bar2Write a b
      | none => s.bar2Read a n) := by
  have hmoor : moorAt o = none := if_neg (by omega)
  unfold State.bar2Serve
  rw [hr]
  dsimp only
  rw [hmoor]
  exact if_neg (by simp [hreach])

theorem touch_spad_on {d : Nat} (hr : regionOf a = .spad d o) (hbank : s.bankServes d (o / bankSize) = true) (hon : s.bankSt d (o / bankSize) = 0) :
    s.touch a = (s, true) := by
  rw [State.touch, hr]
  exact touchSpad_on hbank hon

theorem bar2Alias_served {data : List Byte} (ho : o < 20 * spSize) (hform : aliasOk o data.length = true)
    (hreach : o % spSize < moorOff → s.mayReach srcHost (spBase + o) = true)
    (hmoor : moorOff ≤ o % spSize → s.moorServes srcHost ((o % spSize - moorOff) / 8) = true) :
    s.bar2Alias x n (some data) set o = s.aliasWrite srcHost set o data := by
  have hin : ¬ 20 * spSize ≤ o := Nat.not_le.2 ho
  by_cases hoff : moorOff ≤ o % spSize
  · simp only [State.bar2Alias, moorAt, if_pos hoff, hmoor hoff, hin, hform, Bool.true_eq_false, or_self, if_false, if_true]
  · simp only [State.bar2Alias, moorAt, if_neg hoff, hreach (Nat.not_le.1 hoff), hin, hform, Bool.true_eq_false, or_self, if_false, if_true]

theorem aliasCmd_good {src : Nat} {data : List Byte} : s.aliasCmd src set o data .good = s.aliasWrite src set o data := by
  simp only [State.aliasCmd, reduceCtorEq, and_false, if_false]

theorem bar2Refuse_eq {wr : Bool} : s.bar2Refuse x wr = (if wr = true then
      s.raiseRec modLog srcQuay 0x0705 (leBytes 8 x ++ leBytes 1 (if wr = true then 1 else 0))
    else (s.raiseRec modLog srcQuay 0x0705 (leBytes 8 x ++ leBytes 1 (if wr = true then 1 else 0))).emit (.hostRead none)) := by
  simp only [State.bar2Refuse, raise_silent (code := 0x0705) rfl]

theorem bar2Serve_unreached (ha : a < spBase) (hreach : s.mayReach srcHost a = false) (len : Nat) :
    s.bar2Serve x n len a w = s.bar2Refuse x w.isSome := by
  by_cases hmap : regionOf a = .unmapped
  · unfold State.bar2Serve
    rw [hmap]
  · rw [bar2Serve_dram (offDies_of_lt ha) hmap, if_pos (.inl hreach)]

/-! ### Training -/

theorem linkTrain_trains {rate width : Nat} (hmain : s.mainUp = true) (hperst : s.pwr.perstN = true) (hclk : s.pwr.refclk = true)
    (hrate : rate ∈ [64, 32, 16, 8, 5, 2]) (hwidth : width ∈ [16, 8, 4]) : s.linkTrain rate width =
      if min rate s.quay.maxRate < 8 ∨ min width s.quay.maxWidth < 16 then
        (setFlds .qStat [(Q_STAT_LINKGEN, min rate s.quay.maxRate), (Q_STAT_LINKW, min width s.quay.maxWidth)] s).raise modLog srcQuay 0x0706
          (leBytes 1 (min rate s.quay.maxRate) ++ leBytes 1 (min width s.quay.maxWidth))
      else setFlds .qStat [(Q_STAT_LINKGEN, min rate s.quay.maxRate), (Q_STAT_LINKW, min width s.quay.maxWidth)] s := by
  have hready : ¬ (s.mainUp = false ∨ s.pwr.perstN = false ∨ s.pwr.refclk = false) := by simp [hmain, hperst, hclk]
  have hknown : ¬ ([64, 32, 16, 8, 5, 2].contains rate = false ∨ [16, 8, 4].contains width = false) := by
    rw [List.contains_iff_mem.2 hrate, List.contains_iff_mem.2 hwidth]
    decide
  rw [State.linkTrain, if_neg hready, if_neg hknown]
  rfl

theorem linkTrain_fails {rate width : Nat} (hmain : s.mainUp = true) (hperst : s.pwr.perstN = true) (hclk : s.pwr.refclk = true)
    (hno : rate ∉ [64, 32, 16, 8, 5, 2] ∨ width ∉ [16, 8, 4]) :
    s.linkTrain rate width = setFlds .qStat [(Q_STAT_LINKGEN, 0), (Q_STAT_LINKW, 0)] s := by
  have hready : ¬ (s.mainUp = false ∨ s.pwr.perstN = false ∨ s.pwr.refclk = false) := by simp [hmain, hperst, hclk]
  have hunknown : [64, 32, 16, 8, 5, 2].contains rate = false ∨ [16, 8, 4].contains width = false :=
    hno.imp (fun h => by simpa using h) fun h => by simpa using h
  rw [State.linkTrain, if_neg hready, if_pos hunknown]
  rfl

/-! ### The responder -/

theorem doeAnswer_up (h : s.linkUp = true) (bs : List Byte) : s.doeAnswer bs = s.emit (.doe bs) := if_pos h

/-- The requester is a step further. -/
def withSpdm (p : Spdm) (s : State) : State := { s with quay := { s.quay with spdm := p } }

theorem doeAnswer_withSpdm (h : s.linkUp = true) {p q : Spdm} (hp : p = q) (bs : List Byte) :
    (withSpdm p s).doeAnswer bs = (withSpdm q s).emit (.doe bs) := by
  subst hp
  exact doeAnswer_up (s := withSpdm p s) h bs

end Sys2Proof.Proofs.WindowAndLink

section

open Sys2Proof Sys2Proof.Machine Sys2Proof.Safety Sys2Proof.Proofs.WindowAndLink Sys2Proof.Proofs.RegisterWrites
open Sys2Proof.Proofs.RaisedCauses (raise_spec)
open Sys2Proof.Proofs.MemoryPathsAndAdds (OffDies offDies_of_lt touch_of_offDies memBut_wr)
open Sys2Proof.Proofs.OwnersWipesAndFloors (snoopRange_unshared)
open Sys2Proof.Proofs.SketchRegionsTideAndTemperature (raised_raiseRec regsBut_trans regsBut_mono fld_of_regsBut)
open Sys2Proof.Proofs.MemoryErrorsTemperaturesAndFlash (setFlds tidy onlyRegs_setFlds fld_setFlds regsBut_setFlds)

/-- Settles O25: an access by the region its address lies in, training by the rate and width, and an answer for each request. -/
theorem windowLinkAndResponder : Obligations.WindowLinkAndResponder := by
  unfold Obligations.WindowLinkAndResponder
  refine ⟨fun s x n a hup hin ha hdram hmap hreach hlast hconv hconvl hlost => ?_, fun s x a d o n w hm hup hin ha hr ho hreach hbank hon hlost => ?_,
    fun s x a o set b hup hin ha hr ho hform hreach hmoor => ?_, fun s x n a w hup hin ha hdram hmap hreach hlast hconv => ?_,
    fun s x a b hm hup hin ha hdram hmap hreach hlast hconv hconvl hlost hdir => ?_, fun s x n a w hup hin ha hdram hreach => ?_,
    fun s rate width hs hmain hperst hclk hrate hwidth hrmax hwmax => ?_, fun s rate width hs hmain hperst hclk hno => ?_,
    fun s nonce off n hup => ?_⟩
  · have hserve := bar2Serve_served (x := x) (n := n) (w := none) hdram hmap hreach hlast hconv hconvl
    have hread : s.bar2Read a n = s.emit (.hostRead (some (ofLE (s.rd a n)))) := bar2Read_answers (touch_of_offDies (offDies_of_lt hdram)) hlost
    exact (bar2_inside (w := none) hup hin ha).trans (congrArg Host.Outcome.next (hserve.trans hread))
  · have htouch := touch_spad_on hr hbank hon
    rw [bar2_inside hup hin ha, bar2Serve_spad hr ho hreach]
    cases w with
    | none => exact ⟨_, rfl, fun _ => bar2Read_answers htouch hlost, fun b hb => absurd hb (by simp)⟩
    | some b =>
      refine ⟨_, congrArg Host.Outcome.next (bar2Write_stores htouch), fun h => absurd h (by simp), fun c hc => ?_⟩
      obtain rfl := Option.some.inj hc
      exact ⟨memRead_memWrite _ _ _ hm, memBut_wr s a b, rfl⟩
  · rw [bar2_inside (w := some b) hup hin ha]
    refine congrArg Host.Outcome.next (Eq.trans ?_ aliasCmd_good.symm)
    cases set with
    | true =>
      unfold State.bar2Serve
      rw [show regionOf a = .setAlias o from hr]
      exact bar2Alias_served ho hform hreach hmoor
    | false =>
      unfold State.bar2Serve
      rw [show regionOf a = .clrAlias o from hr]
      exact bar2Alias_served ho hform hreach hmoor
  · rw [bar2_inside hup hin ha, bar2Serve_dram (offDies_of_lt hdram) hmap, if_neg (by simp [hreach, hlast]), if_pos (.inl hconv)]
    rfl
  · rw [bar2_inside (w := some b) hup hin ha]
    have hserve := bar2Serve_served (x := x) (n := 0) (w := some b) hdram hmap hreach hlast hconv hconvl
    have hwrite : s.bar2Serve x 0 b.length a (some b) = s.wr a b := by
      rw [hserve]
      dsimp only
      rw [if_neg (by simp [hlost]), snoopRange_unshared hdir]
    exact ⟨_, congrArg Host.Outcome.next hwrite, memRead_memWrite _ _ _ hm, memBut_wr s a b, rfl⟩
  · rw [bar2_inside hup hin ha, bar2Serve_unreached hdram hreach, bar2Refuse_eq]
    cases w with
    | none => exact ⟨_, rfl, rfl, raised_raiseRec rfl rfl _ _ _ _, rfl⟩
    | some b => exact ⟨_, rfl, (List.append_nil _).symm, raised_raiseRec rfl rfl _ _ _ _, rfl⟩
  · have hgen : min rate s.quay.maxRate < 2 ^ Q_STAT_LINKGEN.w := Nat.lt_of_le_of_lt (Nat.min_le_right _ _) hrmax
    have hwid : min width s.quay.maxWidth < 2 ^ Q_STAT_LINKW.w := Nat.lt_of_le_of_lt (Nat.min_le_right _ _) hwmax
    have htrain := linkTrain_trains hmain hperst hclk hrate hwidth
    generalize min rate s.quay.maxRate = g at *
    generalize min width s.quay.maxWidth = l at *
    have htidy : tidy [Q_STAT_LINKGEN, Q_STAT_LINKW] = true := by decide
    have hg := fld_setFlds (r := .qStat) hs (l := [(Q_STAT_LINKGEN, g), (Q_STAT_LINKW, l)]) htidy List.mem_cons_self
    have hl := fld_setFlds (r := .qStat) hs (l := [(Q_STAT_LINKGEN, g), (Q_STAT_LINKW, l)]) htidy (List.mem_cons_of_mem _ List.mem_cons_self)
    have hset := regsBut_setFlds (r := .qStat) (s := s) [(Q_STAT_LINKGEN, g), (Q_STAT_LINKW, l)]
    rw [Nat.mod_eq_of_lt hgen] at hg
    rw [Nat.mod_eq_of_lt hwid] at hl
    obtain ⟨rs, hframe⟩ := onlyRegs_setFlds (r := .qStat) (s := s) [(Q_STAT_LINKGEN, g), (Q_STAT_LINKW, l)]
    rw [hframe] at htrain hg hl hset
    by_cases hlow : g < 8 ∨ l < 16
    · rw [if_pos hlow] at htrain
      obtain ⟨rs', ev, heq, hraised, hcause⟩ := raise_spec (s := s) (u := { s with regs := rs }) rfl rfl modLog srcQuay 0x0706 (leBytes 1 g ++ leBytes 1 l)
      rw [heq] at htrain hraised
      have hapart : ∀ y ∈ [Reg.glbInt], regOff .qStat ≠ regOff y := by decide
      exact ⟨_, congrArg Host.Outcome.next htrain, (fld_of_regsBut hcause hapart _).trans hg, (fld_of_regsBut hcause hapart _).trans hl,
        regsBut_trans (regsBut_mono hset (by simp)) (regsBut_mono hcause (by simp)), fun h8 h16 => absurd hlow (by omega), fun _ => hraised, rfl⟩
    · rw [if_neg hlow] at htrain
      exact ⟨_, congrArg Host.Outcome.next htrain, hg, hl, regsBut_mono hset (by simp), fun _ _ => rfl, fun h => absurd h hlow, rfl⟩
  · have htrain := linkTrain_fails hmain hperst hclk hno
    have hg := fld_setFlds (r := .qStat) hs (l := [(Q_STAT_LINKGEN, 0), (Q_STAT_LINKW, 0)]) (by decide) List.mem_cons_self
    have hl := fld_setFlds (r := .qStat) hs (l := [(Q_STAT_LINKGEN, 0), (Q_STAT_LINKW, 0)]) (by decide) (List.mem_cons_of_mem _ List.mem_cons_self)
    exact ⟨_, congrArg Host.Outcome.next htrain, hg, hl, regsBut_setFlds _, eq_of_onlyRegs (onlyRegs_setFlds _)⟩
  · have hseen (b : Bool) : (s.linkUp || b) = true := by rw [hup, Bool.true_or]
    have hver := doeAnswer_withSpdm hup (congrArg (fun v => { s.quay.spdm with version := v }) (hseen s.quay.spdm.version)) [0x12#8, 0x13#8]
    have hcaps := doeAnswer_withSpdm hup (congrArg (fun v => { s.quay.spdm with caps := v }) (hseen s.quay.spdm.caps)) [1#8, 1#8, 1#8, 0#8]
    have halgs := doeAnswer_withSpdm hup (congrArg (fun v => { s.quay.spdm with algs := v }) (hseen s.quay.spdm.algs))
      (leBytes 2 384 ++ leBytes 2 384)
    exact ⟨congrArg Host.Outcome.next (doeAnswer_up hup _), congrArg Host.Outcome.next hver, congrArg Host.Outcome.next hcaps,
      congrArg Host.Outcome.next halgs, congrArg Host.Outcome.next (doeAnswer_up hup _),
      congrArg Host.Outcome.next (doeAnswer_up hup _), congrArg Host.Outcome.next (doeAnswer_up hup _), congrArg Host.Outcome.next (doeAnswer_up hup _)⟩

end

/-! Proof of O22: the console's prints, and the front panel. -/

namespace Sys2Proof.Proofs.ConsoleAndPanel

open Sys2Proof Sys2Proof.Machine Sys2Proof.Safety
open Sys2Proof.Proofs.RegisterWrites
open Sys2Proof.Proofs.RaisedCauses (raise_spec)
open Sys2Proof.Proofs.RegisterAccess (conDo_served)
open Sys2Proof.Proofs.SketchRegionsTideAndTemperature (regsBut_trans regsBut_of_regs regsBut_mono OnlyRegs OnlyRegs.trans onlyRegs_setFld
  raise_silent raised_raiseRec flag_of_regsBut)
open Sys2Proof.Proofs.RankingModelsAndTables (regsBut_setFld)
open Sys2Proof.Proofs.MemoryErrorsTemperaturesAndFlash (flag_setFld_one)

variable {s : State}

/-! ### The console -/

theorem conDo_denied {cls : Nat} {f : State → State} (hm : s.pwr.mgmtUp = true) (hmay : s.dbgMay cls 0 = false) :
    s.conDo cls f = s.emit (.console conDenied []) := by
  rw [State.conDo, if_neg (by simp [hm]), if_pos (by simp [hmay])]

theorem foldl_emit {α : Type} (f : α → Out) (l : List α) (s : State) :
    l.foldl (fun (s : State) a => s.emit (f a)) s = { s with outbox := s.outbox ++ l.map f } := by
  induction l generalizing s with
  | nil => simp
  | cons a l ih =>
    rw [List.foldl_cons, ih]
    simp [State.emit]

theorem dbgMay_log (s : State) : s.dbgMay 6 0 = decide (s.lc ≠ lcRetired) := rfl

/-! ### J4 parts -/

/-- Both supplies are gone. -/
def parted (s : State) : State := { s with hw := { s.hw with j4 := false }, pwr := { s.pwr with p48 := false, p12aux := false } }

theorem unplug_eq (s : State) : s.unplug = (((parted s).setFld .pmStat PM_STAT_NOAUX 1).flushStart false).mgmtPower := rfl

theorem flushStart_up {restart : Bool} (h : s.pwr.phase = .up) : s.flushStart restart =
    (({ s with pwr := { s.pwr with phase := .flushing restart } } : State).setFld .qStat Q_STAT_PLSTOP 1).raise modLog srcM 0x0A01 [] :=
  if_neg (by simp [h])

theorem flushStart_down {restart : Bool} (h : s.pwr.phase ≠ .up) : s.flushStart restart = s := if_pos h

/-- The hold-up bank feeds the management domain through the flush. -/
theorem mgmtPower_flushing (h : s.pwr.phase = .flushing false) : s.mgmtPower = { s with pwr := { s.pwr with mgmtUp := true } } := by
  have hon : (s.pwr.p12aux || s.pwr.p48 || decide (s.pwr.phase = .flushing true) || decide (s.pwr.phase = .flushing false)) = true := by
    rw [h]
    simp
  rw [State.mgmtPower]
  simp only [hon]
  rfl

/-- What follows the management domain's supplies. -/
theorem mgmtPower_spec (s : State) : s.mgmtPower.hw.j4 = s.hw.j4 ∧ s.mgmtPower.pwr.p48 = s.pwr.p48 ∧ s.mgmtPower.pwr.p12aux = s.pwr.p12aux ∧
    s.mgmtPower.pwr.phase = s.pwr.phase ∧
    s.mgmtPower = { s with hw := s.mgmtPower.hw, pwr := s.mgmtPower.pwr, trust := s.mgmtPower.trust, dbg := s.mgmtPower.dbg } := by
  rw [State.mgmtPower]
  dsimp only
  split
  · exact ⟨rfl, rfl, rfl, rfl, rfl⟩
  · exact ⟨rfl, rfl, rfl, rfl, rfl⟩

/-! ### The cages -/

/-- The cage of port `p` holds a plug. -/
def caged (p : Nat) (c : Cage) (s : State) : State := { s with hw := { s.hw with cages := tsetD {} s.hw.cages p c } }

theorem cage_caged {p : Nat} {c : Cage} (h : c.present = true) : tgetD ({} : Cage) (caged p c s).hw.cages p = c := by
  refine tget_tset_kept _ _ _ _ fun hc => ?_
  rw [hc] at h
  exact Bool.false_ne_true h

theorem caged_setFld (p : Nat) (c : Cage) (s : State) (r : Reg) (f : Fld) (v : Nat) : (caged p c s).setFld r f v = caged p c (s.setFld r f v) := rfl

theorem caged_setPort_setFld (p : Nat) (c : Cage) (s : State) (st : PortSt) (r : Reg) (f : Fld) (v : Nat) :
    ((caged p c s).setPort p st).setFld r f v = caged p c { s.setFld r f v with fab := (s.setPort p st).fab } := rfl

/-- A cable is found: the port shows it, and may begin to train. -/
theorem cableIn_spec (hs : RegsOk s) (p : Nat) : ∃ (rs : Tab Word) (fb : FabState),
    s.cableIn p = caged p { (tgetD ({} : Cage) s.hw.cages p) with present := true } { s with regs := rs, fab := fb } ∧
    ({ s with regs := rs } : State).flag (.abPort p) AB_PORT_PRES = true ∧ RegsBut [.abPort p] s { s with regs := rs } := by
  have hset := regsBut_setFld s (.abPort p) AB_PORT_PRES 1
  have hflag := flag_setFld_one hs (.abPort p) AB_PORT_PRES (by decide) (by decide)
  have hok := s.regsOk_setFld (.abPort p) AB_PORT_PRES 1 hs
  obtain ⟨rs, hframe⟩ := onlyRegs_setFld s (.abPort p) AB_PORT_PRES 1
  rw [hframe] at hset hflag hok
  have htrain := regsBut_setFld ({ s with regs := rs } : State) (.abPort p) AB_PORT_WIDTH 1
  have hkept : (({ s with regs := rs } : State).setFld (.abPort p) AB_PORT_WIDTH 1).flag (.abPort p) AB_PORT_PRES = true := by
    rw [State.flag, State.fld_setFld_fld _ _ _ _ _ hok (by decide) (by decide)]
    exact hflag
  obtain ⟨rs', hframe'⟩ := onlyRegs_setFld ({ s with regs := rs } : State) (.abPort p) AB_PORT_WIDTH 1
  rw [hframe'] at htrain hkept
  unfold State.cableIn
  generalize ({ (tgetD ({} : Cage) s.hw.cages p) with present := true } : Cage) = c
  rw [show ({ s with hw := { s.hw with cages := tsetD {} s.hw.cages p c } } : State) = caged p c s from rfl]
  dsimp only
  rw [caged_setFld, hframe]
  split
  · rw [caged_setPort_setFld, hframe']
    exact ⟨rs', _, rfl, hkept, regsBut_trans hset htrain⟩
  · exact ⟨rs, s.fab, rfl, hflag, hset⟩

/-- A plug that the poll finds for the first time. -/
theorem pollCage_new {p w : Nat} (h : (tgetD ({} : Cage) s.hw.cages p).present = false) : s.pollCage p (some w) =
    if 5 < w then ((caged p ⟨true, w, decide (5 < w)⟩ s).setFld (.abPort p) AB_PORT_PRES 1).raiseRec modLog srcM 0x0A0A (leBytes 1 p ++ leBytes 1 w)
    else (caged p ⟨true, w, decide (5 < w)⟩ s).cableIn p := by
  simp only [State.pollCage, h, Bool.false_eq_true, false_and, if_false, raise_silent (code := 0x0A0A) rfl]
  rfl

theorem pollCage_none {p : Nat} (h : (tgetD ({} : Cage) s.hw.cages p).present = false) : s.pollCage p none = s := by
  simp only [State.pollCage, h, Bool.false_eq_true, if_false]

theorem pollCage_same {p : Nat} (h : (tgetD ({} : Cage) s.hw.cages p).present = true) :
    s.pollCage p (some (tgetD ({} : Cage) s.hw.cages p).power) = s.setFld (.abPort p) AB_PORT_PRES 1 := by
  simp only [State.pollCage, h, and_self, if_true]

/-- What the poll finds where nothing changed. -/
def asBefore (s : State) (p : Nat) : Option Nat :=
  if (tgetD ({} : Cage) s.hw.cages p).present then some (tgetD ({} : Cage) s.hw.cages p).power else none

theorem asBefore_of_onlyRegs {t : State} (h : OnlyRegs s t) (p : Nat) : asBefore t p = asBefore s p := by
  obtain ⟨_, rfl⟩ := h
  rfl

/-- A poll of a cage that is as it was shows the plug. -/
theorem pollCage_asBefore (hs : RegsOk s) (p : Nat) : OnlyRegs s (s.pollCage p (asBefore s p)) ∧ RegsOk (s.pollCage p (asBefore s p)) ∧
    RegsBut [.abPort p] s (s.pollCage p (asBefore s p)) ∧
    ((asBefore s p).isSome = true → (s.pollCage p (asBefore s p)).flag (.abPort p) AB_PORT_PRES = true) := by
  cases h : (tgetD ({} : Cage) s.hw.cages p).present with
  | false =>
    have hnone : asBefore s p = none := by rw [asBefore, h]; rfl
    rw [hnone, pollCage_none h]
    exact ⟨⟨s.regs, rfl⟩, hs, regsBut_of_regs _ rfl, fun h => absurd h (by simp)⟩
  | true =>
    have hsome : asBefore s p = some (tgetD ({} : Cage) s.hw.cages p).power := by rw [asBefore, h]; rfl
    rw [hsome, pollCage_same h]
    exact ⟨onlyRegs_setFld _ _ _ _, s.regsOk_setFld _ _ _ hs, regsBut_setFld _ _ _ _, fun _ => flag_setFld_one hs _ _ (by decide) (by decide)⟩

theorem regOff_abPort_ne {p q : Nat} (h : p ≠ q) : regOff (.abPort p) ≠ regOff (.abPort q) := by
  simp only [regOff]
  omega

/-- A poll of several cages that are as they were. -/
theorem foldl_pollCage_asBefore {ps : List (Option Nat)} {l : List Nat} (hnd : l.Nodup) (hs : RegsOk s)
    (h : ∀ k ∈ l, ps.getD k none = asBefore s (12 + k)) {t : State} (ht : l.foldl (fun (s : State) k => s.pollCage (12 + k) (ps.getD k none)) s = t) :
    OnlyRegs s t ∧ RegsBut (l.map fun k => .abPort (12 + k)) s t ∧ ∀ k ∈ l, (ps.getD k none).isSome = true → t.flag (.abPort (12 + k)) AB_PORT_PRES = true := by
  induction l generalizing s with
  | nil =>
    subst ht
    exact ⟨⟨s.regs, rfl⟩, regsBut_of_regs _ rfl, fun k hk => absurd hk List.not_mem_nil⟩
  | cons k l ih =>
    obtain ⟨hk, hl⟩ := List.nodup_cons.1 hnd
    rw [List.foldl_cons, h k List.mem_cons_self] at ht
    obtain ⟨honly, hok, hbut, hflag⟩ := pollCage_asBefore hs (12 + k)
    obtain ⟨honly', hbut', hflags⟩ := ih hl hok (fun j hj => (h j (List.mem_cons_of_mem _ hj)).trans (asBefore_of_onlyRegs honly _).symm) ht
    refine ⟨honly.trans honly', regsBut_trans (regsBut_mono hbut (by simp)) (regsBut_mono hbut' (by simp)), fun j hj hsome => ?_⟩
    rcases List.mem_cons.1 hj with rfl | hj
    · rw [h j List.mem_cons_self] at hsome
      refine (flag_of_regsBut hbut' (fun x hx => ?_) _).trans (hflag hsome)
      obtain ⟨i, hi, rfl⟩ := List.mem_map.1 hx
      exact regOff_abPort_ne fun heq => hk (by rwa [show j = i by omega])
    · exact hflags j hj hsome

end Sys2Proof.Proofs.ConsoleAndPanel

section

open Sys2Proof Sys2Proof.Machine Sys2Proof.Safety Sys2Proof.Proofs.ConsoleAndPanel Sys2Proof.Proofs.RegisterWrites
open Sys2Proof.Proofs.RaisedCauses (raise_spec)
open Sys2Proof.Proofs.RegisterAccess (conDo_served)
open Sys2Proof.Proofs.SketchRegionsTideAndTemperature (regsBut_trans regsBut_mono onlyRegs_setFld raise_silent raised_raiseRec flag_of_regsBut)
open Sys2Proof.Proofs.RankingModelsAndTables (regsBut_setFld)
open Sys2Proof.Proofs.MemoryErrorsTemperaturesAndFlash (flag_setFld_one)

/-- Settles O22: the console's lines, each panel signal by its record, and the poll cage by cage. -/
theorem consoleAndFrontPanel : Obligations.ConsoleAndFrontPanel := by
  unfold Obligations.ConsoleAndFrontPanel
  refine ⟨fun s hm => ?_, fun s n hm hlc h1 h64 => ?_, fun s n hm hno => ?_, fun s act hm hact => ?_, fun s m hup hm => ?_, fun s wet hm hleak => ?_,
    fun s a b hm => ?_, fun s n v hs => ?_, fun s hs => ?_, fun s w hs hm hup hempty => ?_, fun s ps hs hm hup hsame => ?_⟩
  · exact congrArg Host.Outcome.next (conDo_served hm rfl)
  · refine congrArg Host.Outcome.next ((conDo_served hm (by rw [dbgMay_log]; simpa using hlc)).trans ?_)
    rw [State.conLog, if_neg (by omega)]
    exact foldl_emit _ _ _
  · refine congrArg Host.Outcome.next ?_
    by_cases hlc : s.lc = lcRetired
    · exact conDo_denied hm (by rw [dbgMay_log]; simpa using hlc)
    · exact (conDo_served hm (by rw [dbgMay_log]; simpa using hlc)).trans (if_pos (hno.resolve_left hlc))
  · have hattn : s.attn = ({ s with hw := { s.hw with removal := if act = 2 then s.hw.removal else act = 0 } } : State).raiseRec modLog srcM 0x0A08
        (leBytes 1 act) := by
      simp only [State.attn, hm, not_true_eq_false, if_false, raise_silent (code := 0x0A08) rfl, hact]
    refine ⟨_, congrArg Host.Outcome.next hattn, ?_, raised_raiseRec rfl rfl _ _ _ _, rfl⟩
    show (if act = 2 then s.hw.removal else decide (act = 0)) = _
    by_cases hphase : s.pwr.phase ≠ .up
    · rw [hact, if_pos hphase]
      rfl
    · rw [hact, if_neg hphase]
      cases s.hw.removal
      · rfl
      · rfl
  · have hserved : ¬ ¬ s.sidebandUp = true := not_not_intro hup
    match m, hm with
    | 0, _ => exact congrArg Host.Outcome.next (if_neg hserved)
    | 1, _ => exact congrArg Host.Outcome.next (if_neg hserved)
    | 2, _ => exact congrArg Host.Outcome.next (if_neg hserved)
  · have hwet : ¬ (¬ s.pwr.mgmtUp = true ∨ s.hw.leak = wet) := by simp [hm, hleak]
    have hset : s.coolLeak wet = ({ s with hw := { s.hw with leak := wet } } : State).raiseRec modLog srcM 0x0A09 (leBytes 1 (if wet then 0 else 1)) :=
      (if_neg hwet).trans (raise_silent rfl _ _ _ _)
    exact ⟨_, congrArg Host.Outcome.next hset, rfl, raised_raiseRec rfl rfl _ _ _ _, rfl⟩
  · exact congrArg Host.Outcome.next (if_pos hm)
  · have hslot : (if v = true then n % 8 else 0xF) < 2 ^ AB_ID_SLOT.w := by
      have h16 : (2 : Nat) ^ AB_ID_SLOT.w = 16 := rfl
      rw [h16]
      split <;> omega
    have hfld := State.fld_setFld_self s .abId AB_ID_SLOT (if v then n % 8 else 0xF) hs (by decide)
    have hset := regsBut_setFld s .abId AB_ID_SLOT (if v then n % 8 else 0xF)
    rw [Nat.mod_eq_of_lt hslot] at hfld
    have hlatch : exec (.slotIdLatch n v) s = .next { (s.setFld .abId AB_ID_SLOT (if v then n % 8 else 0xF)) with
      hw := { s.hw with j4 := true, identify := .off } } := rfl
    obtain ⟨rs, hframe⟩ := onlyRegs_setFld s .abId AB_ID_SLOT (if v then n % 8 else 0xF)
    rw [hframe] at hfld hset hlatch
    exact ⟨_, hlatch, hfld, hset, rfl⟩
  · have hnoaux := flag_setFld_one (s := parted s) hs .pmStat PM_STAT_NOAUX (by decide) (by decide)
    have hset := regsBut_setFld (parted s) .pmStat PM_STAT_NOAUX 1
    have hok := (parted s).regsOk_setFld .pmStat PM_STAT_NOAUX 1 hs
    have hunplug : exec .modPrsntBreak s = .next s.unplug := rfl
    rw [unplug_eq] at hunplug
    obtain ⟨rs, hframe⟩ := onlyRegs_setFld (parted s) .pmStat PM_STAT_NOAUX 1
    rw [hframe] at hnoaux hset hok hunplug
    by_cases hphase : s.pwr.phase = .up
    · rw [flushStart_up (s := { parted s with regs := rs }) hphase] at hunplug
      generalize hu : ({ parted s with regs := rs, pwr := { (parted s).pwr with phase := .flushing false } } : State) = u at hunplug
      have huok : RegsOk u := hu ▸ hok
      have hstop := flag_setFld_one huok .qStat Q_STAT_PLSTOP (by decide) (by decide)
      have hqset := regsBut_setFld u .qStat Q_STAT_PLSTOP 1
      obtain ⟨rs', hframe'⟩ := onlyRegs_setFld u .qStat Q_STAT_PLSTOP 1
      rw [hframe'] at hstop hqset hunplug
      subst hu
      obtain ⟨rs2, ev, heq, hraised, hcause⟩ := raise_spec (s := s)
        (u := { parted s with regs := rs', pwr := { (parted s).pwr with phase := .flushing false } }) rfl rfl modLog srcM 0x0A01 []
      have hphase' : ({ parted s with regs := rs2, evt := ev, pwr := { (parted s).pwr with phase := .flushing false } } : State).pwr.phase = .flushing false := rfl
      rw [heq] at hraised
      refine ⟨_, hunplug.trans (congrArg Host.Outcome.next ((congrArg State.mgmtPower heq).trans (mgmtPower_flushing hphase'))), rfl, rfl, rfl, ?_, ?_, rfl⟩
      · refine (flag_of_regsBut hcause (by decide) _).trans ((flag_of_regsBut hqset (by decide) _).trans hnoaux)
      · rw [if_pos hphase]
        exact ⟨rfl, (flag_of_regsBut hcause (by decide) _).trans hstop, hraised,
          regsBut_trans (regsBut_mono hset (by simp)) (regsBut_trans (regsBut_mono hqset (by simp)) (regsBut_mono hcause (by simp)))⟩
    · rw [flushStart_down (s := { parted s with regs := rs }) hphase] at hunplug
      obtain ⟨hj4, h48, h12, hph, hrest⟩ := mgmtPower_spec { parted s with regs := rs }
      generalize State.mgmtPower { parted s with regs := rs } = t at hunplug hj4 h48 h12 hph hrest
      refine ⟨t, hunplug, hj4, h48, h12, ?_, ?_, ?_⟩
      · rw [hrest]
        exact hnoaux
      · rw [if_neg hphase]
        refine ⟨hph, ?_, ?_⟩
        · rw [hrest]
          rfl
        · rw [hrest]
          exact hset
      · have hregs : t.regs = rs := by rw [hrest]
        have hevt : t.evt = s.evt := by rw [hrest]; rfl
        rw [hregs, hevt]
        exact hrest
  · have hpoll : s.pollCages [none, none, none, some w] = s.pollCage 15 (some w) := by
      have h12 := pollCage_none (hempty 0 (by decide))
      have h13 := pollCage_none (hempty 1 (by decide))
      have h14 := pollCage_none (hempty 2 (by decide))
      refine (if_neg (by simp [hm, hup])).trans ?_
      show (((s.pollCage 12 none).pollCage 13 none).pollCage 14 none).pollCage 15 (some w) = _
      rw [h12, h13, h14]
    rw [pollCage_new (hempty 3 (by decide))] at hpoll
    have hcage : tgetD ({} : Cage) (caged 15 ⟨true, w, decide (5 < w)⟩ s).hw.cages 15 = ⟨true, w, decide (5 < w)⟩ := cage_caged rfl
    by_cases hw : 5 < w
    · have hpres := flag_setFld_one (s := caged 15 ⟨true, w, decide (5 < w)⟩ s) hs (.abPort 15) AB_PORT_PRES (by decide) (by decide)
      have hset := regsBut_setFld (caged 15 ⟨true, w, decide (5 < w)⟩ s) (.abPort 15) AB_PORT_PRES 1
      obtain ⟨rs, hframe⟩ := onlyRegs_setFld (caged 15 ⟨true, w, decide (5 < w)⟩ s) (.abPort 15) AB_PORT_PRES 1
      rw [if_pos hw, hframe] at hpoll
      rw [hframe] at hpres hset
      refine ⟨_, congrArg Host.Outcome.next hpoll, hcage, hpres, ?_, hset, ?_⟩
      · rw [if_pos hw]
        exact raised_raiseRec rfl rfl _ _ _ _
      · rw [if_pos hw]
        rfl
    · rw [if_neg hw] at hpoll
      obtain ⟨rs, fb, hcable, hpres, hset⟩ := cableIn_spec (s := caged 15 ⟨true, w, decide (5 < w)⟩ s) hs 15
      refine ⟨_, congrArg Host.Outcome.next (hpoll.trans hcable), ?_, hpres, ?_, hset, ?_⟩
      · refine (cage_caged rfl).trans ?_
        rw [hcage]
      · rw [if_neg hw]
        rfl
      · rw [if_neg hw]
        rfl
  · have hpoll : s.pollCages ps = (List.range 4).foldl (fun (s : State) k => s.pollCage (12 + k) (ps.getD k none)) s := if_neg (by simp [hm, hup])
    obtain ⟨honly, hbut, hflags⟩ := foldl_pollCage_asBefore List.nodup_range hs (fun k hk => hsame k (List.mem_range.1 hk)) hpoll.symm
    exact ⟨_, rfl, fun k hk => hflags k (List.mem_range.2 hk), hbut, eq_of_onlyRegs honly⟩

end

/-! Proof of O13: lines of far memory, their sharers, and the ranges that may be cached. -/

namespace Sys2Proof.Proofs.FarLines

open Sys2Proof Sys2Proof.Machine Sys2Proof.Safety
open Sys2Proof.Proofs.RegisterWrites
open Sys2Proof.Proofs.MemoryPathsAndAdds
open Sys2Proof.Proofs.SketchRegionsTideAndTemperature (regsBut_trans regsBut_of_regs regsBut_mono OnlyRegs onlyRegs_setFld)
open Sys2Proof.Proofs.RankingModelsAndTables (regsBut_setFld)
open Sys2Proof.Proofs.MemoryErrorsTemperaturesAndFlash (tidy)
open Sys2Proof.Proofs.ObjectCommands (mem_of_tget_ne)

variable {s : State} {src d a n line : Nat}

/-! ### Addresses -/

theorem farKind_lt (h : farKind a = true) : a < spBase := by
  have hhbm : 12 * hbmSize ≤ spBase := by decide
  have hgd : gdBase + 4 * gdSize ≤ spBase := by decide
  unfold farKind regionOf at h
  split_ifs at h with h1 h2 h3
  · omega
  · omega

/-- Far memory lies in HBM3E below the GDDR7. -/
theorem hbm_iff_of_farKind (h : farKind a = true) : (regionOf a matches .hbm _ _) = decide (a < gdBase) := by
  have hhbm : 12 * hbmSize ≤ gdBase := by decide
  unfold farKind at h
  unfold regionOf at h ⊢
  split_ifs at h ⊢ with h1 h2 h3
  · exact (decide_eq_true (by omega)).symm
  · exact (decide_eq_false (by omega)).symm

theorem hubOf_line (h : farKind a = true) : hubOf (a / 256 * 256) = hubOf a := by
  have hh : hbmSize = 256 * (hbmSize / 256) := by decide
  have hg : gdSize = 256 * (gdSize / 256) := by decide
  have hb : gdBase = 256 * (gdBase / 256) := by decide
  have hs : skBase + 8 * skSize = 256 * ((skBase + 8 * skSize) / 256) := by decide
  have hk : skBase = 256 * (skBase / 256) := by decide
  have hbelow : skBase + 8 * skSize ≤ gdBase ∨ gdBase + 4 * gdSize ≤ skBase := by decide
  have hdiv (x y : Nat) : x / 256 * 256 / (256 * y) = x / (256 * y) := by
    rw [← Nat.div_div_eq_div_mul, ← Nat.div_div_eq_div_mul, Nat.mul_div_cancel _ (by decide)]
  unfold farKind regionOf at h
  split_ifs at h with h1 h2 h3
  · have h1' : a / 256 * 256 < 12 * hbmSize := by omega
    simp only [hubOf, regionOf, if_pos h1, if_pos h1']
    rw [hh, hdiv]
  · have h1' : ¬ a / 256 * 256 < 12 * hbmSize := by omega
    have h2' : ¬ (skBase ≤ a / 256 * 256 ∧ a / 256 * 256 < skBase + 8 * skSize) := by omega
    have h3' : gdBase ≤ a / 256 * 256 ∧ a / 256 * 256 < gdBase + 4 * gdSize := by omega
    have hoff : a / 256 * 256 - gdBase = (a - gdBase) / 256 * 256 := by omega
    simp only [hubOf, regionOf, if_neg h1, if_neg h2, if_pos h3, if_neg h1', if_neg h2', if_pos h3', hoff]
    rw [hg, hdiv]

/-! ### Reads -/

theorem perturb_off (h : s.flag .prtCtl PRT_CTL_EN = false) (t : Nat) : s.perturb t = s := by
  rw [State.perturb, h]
  rfl

theorem find?_none_of_any {α : Type} {p : α → Bool} {l : List α} (h : l.any p = false) : l.find? p = none := by
  rw [List.find?_eq_none]
  intro x hx hp
  exact Bool.false_ne_true (h.symm.trans (List.any_eq_true.2 ⟨x, hx, hp⟩))

section
variable {f : Bool} (hreach : s.mayReach src a = true) (hfar : farKind a = true) (hd : isFar d a = true) (hn : 32 ≤ n) (hb : a % 256 + n ≤ 256)
include hreach hfar hd hn hb

theorem farRead_hit {l : FarLine} (hl : s.net.lines.find? (fun x => x.die = d ∧ x.line = a / 256) = some l) :
    s.farRead src d a n f = s.emit (.readResp src a (bytesAt l.bytes (a % 256) n)) := by
  have hform : ¬ (farKind a = false ∨ isFar d a = false ∨ n < 32 ∨ 256 < a % 256 + n) := by
    simp only [hfar, hd, Bool.true_eq_false, false_or]
    omega
  have hfind : s.net.lines.find? (fun l => l.die = d ∧ l.line = lineOf a) = some l := hl
  unfold State.farRead
  dsimp only
  rw [if_neg hform, if_neg (by simp [hreach]), hfind]

theorem farRead_miss (hlines : (s.net.lines.any fun l => l.die = d ∧ l.line = a / 256) = false)
    (hfills : (s.net.fills.any fun l => l.die = d ∧ l.line = a / 256) = false) (hprt : s.flag .prtCtl PRT_CTL_EN = false) :
    s.farRead src d a n f =
      if s.cacheable a = false ∨ s.lostIn (a / 256 * 256) 256 ∨ s.converting a then s.narrow src (.addr a) n none .good
      else if s.dirRoom (a / 256) = false then (s.incFld (.dirStat ((hubOf a).getD 0)) DIR_STAT_NOALLOC 1).narrow src (.addr a) n none .good
      else if f then { (s.setSharers (a / 256) (putBits (s.sharers (a / 256)) d 1 1)) with net :=
          { (s.setSharers (a / 256) (putBits (s.sharers (a / 256)) d 1 1)).net with
            fills := s.net.fills ++ [⟨d, a / 256, s.rd (a / 256 * 256) 256, true⟩] } }
        else ((s.setSharers (a / 256) (putBits (s.sharers (a / 256)) d 1 1)).keepLine d (a / 256) (s.rd (a / 256 * 256) 256)).emit
          (.readResp src a (bytesAt (s.rd (a / 256 * 256) 256) (a % 256) n)) := by
  have hform : ¬ (farKind a = false ∨ isFar d a = false ∨ n < 32 ∨ 256 < a % 256 + n) := by
    simp only [hfar, hd, Bool.true_eq_false, false_or]
    omega
  have hline : s.net.lines.find? (fun l => l.die = d ∧ l.line = lineOf a) = none := find?_none_of_any hlines
  have hfill : s.net.fills.find? (fun l => l.die = d ∧ l.line = lineOf a) = none := find?_none_of_any hfills
  unfold State.farRead
  dsimp only
  rw [if_neg hform, if_neg (by simp [hreach]), hline, hfill]
  dsimp only
  rw [perturb_off hprt]
  rfl

end

theorem narrow_served_good (ha : a < spBase) (hn : 1 ≤ n) (hb : a % 256 + n ≤ 256) (hserves : s.servesAll src a n = true)
    (hconv : s.converting a = false) (hlost : s.lostIn a n = false) :
    s.narrow src (.addr a) n none .good = s.emit (.readResp src a (s.rd a n)) := by
  have hgood : s.readErr a .good = s := readErr_good (offDies_of_lt ha)
  have hread := readPlain_served (offDies_of_lt ha) (offDies_of_lt (last_lt_spBase ha hn hb)) hserves hconv (.inr rfl)
  rw [hgood, if_neg (by simp [uncorrectable, hlost])] at hread
  exact narrow_read hn hb (offDies_of_lt ha) hread

theorem keepLine_room {bytes : List Byte} (h : (s.net.lines.filter fun l => l.die = d ∧ l.line % farSets = line % farSets).length < 8) :
    s.keepLine d line bytes = { s with net := { s.net with lines := s.net.lines ++ [⟨d, line, bytes⟩] } } := by
  simp only [State.keepLine, if_pos h]

/-! ### The directory -/

theorem sharers_setSharers (hdir : twf (fun _ => 0) s.net.dir = true) (line v : Nat) : (s.setSharers line v).sharers line = v :=
  tget_tset_self _ _ _ _ hdir

theorem sharers_setSharers_ne (line v : Nat) {k : Nat} (h : k ≠ line) : (s.setSharers line v).sharers k = s.sharers k := tget_tset_ne _ _ _ h

theorem keys_gt_of_twfFrom {α : Type} [DecidableEq α] {f : Nat → α} {t : Tab α} {m : Nat} (h : twfFrom f (some m) t = true) : ∀ e ∈ t, m < e.1 := by
  induction t generalizing m with
  | nil => exact fun e he => absurd he List.not_mem_nil
  | cons x t ih =>
    simp only [twfFrom, Bool.and_eq_true, decide_eq_true_eq] at h
    obtain ⟨⟨hx, -⟩, ht⟩ := h
    intro e he
    rcases List.mem_cons.1 he with rfl | he
    · exact hx
    · exact Nat.lt_trans hx (ih ht e he)

theorem nodup_keys_of_twfFrom {α : Type} [DecidableEq α] {f : Nat → α} {t : Tab α} {m : Option Nat} (h : twfFrom f m t = true) :
    (t.map (·.1)).Nodup := by
  induction t generalizing m with
  | nil => exact List.nodup_nil
  | cons x t ih =>
    simp only [twfFrom, Bool.and_eq_true] at h
    obtain ⟨-, ht⟩ := h
    refine List.nodup_cons.2 ⟨fun hx => ?_, ih ht⟩
    obtain ⟨e, he, heq⟩ := List.mem_map.1 hx
    exact absurd heq (Nat.ne_of_gt (keys_gt_of_twfFrom ht e he))

theorem filter_eq_single {l : List Nat} {x : Nat} {p : Nat → Bool} (hnd : l.Nodup) (hx : x ∈ l) (hp : p x = true) (h : ∀ y ∈ l, p y = true → y = x) :
    l.filter p = [x] := by
  have heq : l.filter p = l.filter (· = x) := List.filter_congr fun y hy => by
    by_cases hyx : y = x
    · rw [hyx, hp, decide_eq_true rfl]
    · rw [decide_eq_false hyx]
      exact Bool.eq_false_iff.2 fun hpy => hyx (h y hy hpy)
  rw [heq, List.filter_eq, List.count_eq_one_of_mem hnd hx]
  rfl

/-- Of the lines that a write within one block meets, the one that is shared. -/
theorem shared_line (hdir : twf (fun _ => 0) s.net.dir = true) (hn : 1 ≤ n) (hb : a % 256 + n ≤ 256) (hsh : s.sharers (a / 256) ≠ 0) :
    (s.net.dir.map (·.1)).filter (fun l => s.sharers l ≠ 0 && [(a, n)].any fun x => x.1 / 256 ≤ l && l * 256 < x.1 + x.2) = [a / 256] := by
  refine filter_eq_single (nodup_keys_of_twfFrom hdir) (List.mem_map.2 ⟨_, mem_of_tget_ne _ hsh, rfl⟩) ?_ fun l _ hl => ?_
  · simp only [List.any_cons, List.any_nil, Bool.or_false, Bool.and_eq_true, decide_eq_true_eq]
    omega
  · simp only [List.any_cons, List.any_nil, Bool.or_false, Bool.and_eq_true, decide_eq_true_eq] at hl
    omega

/-- The dies that a line's invalidation goes to. -/
def toldDies (s : State) (line : Nat) (ds : List Nat) : List Nat := ds.filter fun d => bitAt (s.sharers line) d

/-- One die is told, when it shares the line. -/
def tell (h line : Nat) (s : State) (d : Nat) : State :=
  if bitAt (s.sharers line) d then ({ s with net := { s.net with snoops := s.net.snoops ++ [⟨h, d, line, false⟩] } } : State).incFld (.dirStat h) DIR_STAT_SNOOPS 1
  else s

theorem foldl_tell (h line : Nat) (ds : List Nat) (s : State) : ∃ rs : Tab Word, RegsBut [.dirStat h] s { s with regs := rs } ∧
    ds.foldl (tell h line) s = { s with regs := rs, net := { s.net with snoops := s.net.snoops ++ (toldDies s line ds).map (Snoop.mk h · line false) } } := by
  induction ds generalizing s with
  | nil => exact ⟨s.regs, regsBut_of_regs _ rfl, by simp [toldDies]⟩
  | cons d ds ih =>
    by_cases hd : bitAt (s.sharers line) d = true
    · have htell : tell h line s d = ({ s with net := { s.net with snoops := s.net.snoops ++ [⟨h, d, line, false⟩] } } : State).incFld (.dirStat h)
          DIR_STAT_SNOOPS 1 := if_pos hd
      have hset := regsBut_setFld s (.dirStat h) DIR_STAT_SNOOPS (satAdd (2 ^ DIR_STAT_SNOOPS.w - 1) (s.fld (.dirStat h) DIR_STAT_SNOOPS) 1)
      have honly : OnlyRegs ({ s with net := { s.net with snoops := s.net.snoops ++ [⟨h, d, line, false⟩] } } : State) (tell h line s d) := by
        rw [htell]
        exact ⟨_, rfl⟩
      have hbut : RegsBut [.dirStat h] s (tell h line s d) := by
        rw [htell]
        exact regsBut_setFld ({ s with net := { s.net with snoops := s.net.snoops ++ [⟨h, d, line, false⟩] } } : State) (.dirStat h) _ _
      obtain ⟨rs, hframe⟩ := honly
      rw [List.foldl_cons]
      rw [hframe] at hbut ⊢
      obtain ⟨rs', hbut', hfold⟩ := ih ({ s with regs := rs, net := { s.net with snoops := s.net.snoops ++ [⟨h, d, line, false⟩] } } : State)
      have htold : toldDies s line (d :: ds) = d :: toldDies s line ds := List.filter_cons_of_pos hd
      have hlist : s.net.snoops ++ [⟨h, d, line, false⟩] ++ (toldDies s line ds).map (Snoop.mk h · line false) =
          s.net.snoops ++ (toldDies s line (d :: ds)).map (Snoop.mk h · line false) := by
        rw [htold, List.map_cons, List.append_assoc]
        rfl
      exact ⟨rs', regsBut_trans hbut hbut', hfold.trans (congrArg (fun l => ({ s with regs := rs', net := { s.net with snoops := l } } : State)) hlist)⟩
    · have htell : tell h line s d = s := if_neg hd
      have htold : toldDies s line (d :: ds) = toldDies s line ds := List.filter_cons_of_neg hd
      rw [List.foldl_cons, htell, htold]
      exact ih s

theorem snoopLine_spec (s : State) (h line : Nat) : ∃ rs : Tab Word, RegsBut [.dirStat h] s { s with regs := rs } ∧
    s.snoopLine h line = { s with regs := rs, net :=
      { s.net with snoops := s.net.snoops ++ (toldDies s line (List.range 20)).map (Snoop.mk h · line false) } } :=
  foldl_tell h line (List.range 20) s

/-- A write to a line that others share: they are told, and its acknowledgement waits. -/
theorem sharedWrite_shared (hdir : twf (fun _ => 0) s.net.dir = true) (hn : 1 ≤ n) (hb : a % 256 + n ≤ 256) (hsh : s.sharers (a / 256) ≠ 0)
    {h : Nat} (hhub : hubOf (a / 256 * 256) = some h) (f : State → State) : (s.sharedWrite src n [(a, n)] none f).1 =
      { f (s.snoopLine h (a / 256)) with net :=
        { (f (s.snoopLine h (a / 256))).net with acks := (f (s.snoopLine h (a / 256))).net.acks ++ [⟨h, [a / 256], src, none, n⟩] } } := by
  simp only [State.sharedWrite, shared_line hdir hn hb hsh, hhub, Option.getD_some, List.foldl_cons, List.foldl_nil]

/-! ### Snoops and notices -/

theorem any_filter_not {l : List FarLine} : ((l.filter fun l => ¬ (l.die = d ∧ l.line = line)).any fun l => l.die = d ∧ l.line = line) = false := by
  rw [List.any_eq_false]
  intro x hx hp
  exact absurd (of_decide_eq_true hp) (of_decide_eq_true (List.mem_filter.1 hx).2)

theorem settleRanges_none (h : s.net.rangeWait = []) : s.settleRanges = s := by
  rw [State.settleRanges, h]
  rfl

theorem snoopOver_only {sn : Snoop} (hsn : s.net.snoops = [sn]) (hacks : s.net.acks = []) : s.snoopOver sn =
    { s with net := { s.net with dir := tsetD 0 s.net.dir sn.line (putBits (s.sharers sn.line) sn.die 1 0), snoops := [] } } := by
  have hnone : ([sn].filter (· ≠ sn)) = [] := List.filter_eq_nil_iff.2 (by simp)
  simp only [State.snoopOver, State.setSharers, hsn, hnone, hacks, List.filter_nil, List.foldl_nil]

/-- The E-die has dropped the line: what it held of it is gone, and a fill of it is not kept. -/
def dropped (d line : Nat) (s : State) : State :=
  { s with net := { s.net with
    lines := s.net.lines.filter fun l => ¬ (l.die = d ∧ l.line = line)
    fills := s.net.fills.map fun f => if f.die = d ∧ f.line = line then { f with keep := false } else f } }

theorem snoopArrival_only {sn : Snoop} (hsn : s.net.snoops = [sn]) (hd : sn.die = d) (hl : sn.line = line) (hgone : sn.gone = false)
    (hprt : s.flag .prtCtl PRT_CTL_EN = false) (hwait : s.net.rangeWait = []) (hacks : s.net.acks = []) :
    s.snoopArrival d line = { dropped d line s with net :=
      { (dropped d line s).net with dir := tsetD 0 s.net.dir line (putBits (s.sharers line) d 1 0), snoops := [] } } := by
  subst hd hl
  have hfind : s.net.snoops.find? (fun x => x.die = sn.die ∧ x.line = sn.line) = some sn := by
    rw [hsn]
    exact List.find?_cons_of_pos (by simp)
  have hover := snoopOver_only (s := dropped sn.die sn.line s) hsn hacks
  have hsettle := settleRanges_none (s := (dropped sn.die sn.line s).snoopOver sn) (by rw [hover]; exact hwait)
  rw [State.snoopArrival, hfind]
  dsimp only
  rw [perturb_off hprt, if_neg (by simp [hgone])]
  exact hsettle.trans hover

theorem evictionNotice_unsnooped (hsn : s.net.snoops = []) (hheld : (s.net.lines.any fun l => l.die = d ∧ l.line = line) = true) :
    s.evictionNotice d line = ({ s with net := { s.net with lines := s.net.lines.filter fun l => ¬ (l.die = d ∧ l.line = line) } } : State).setSharers
      line (putBits (s.sharers line) d 1 0) := by
  rw [State.evictionNotice, if_pos hheld]
  simp only [hsn, List.find?_nil]
  rfl

/-! ### FC_RANGE -/

theorem fget_fcRange_write (ok : LockKind → Bool) (v : Nat) (w : Word) {f : Fld} (hf : f ∈ [FC_RANGE_BASE, FC_RANGE_LIMIT, FC_RANGE_EN]) :
    fget (writeFlds ok (halfMask .whole) (halfVal .whole v) [FC_RANGE_BASE, FC_RANGE_LIMIT, FC_RANGE_EN] w) f = bits v f.lo f.w := by
  have hplain : ∀ f ∈ [FC_RANGE_BASE, FC_RANGE_LIMIT, FC_RANGE_EN], fhit (halfMask .whole) f = true ∧ f.acc = .rw ∧ f.lo + f.w ≤ 64 := by decide
  obtain ⟨hhit, hacc, hle⟩ := hplain f hf
  have hval : bits (halfVal .whole v) f.lo f.w = bits v f.lo f.w := by
    have h64 : halfVal .whole v = bits v 0 64 := by rw [bits_eq, Nat.pow_zero, Nat.div_one]; rfl
    rw [h64, Sys2Proof.Proofs.IssueOfInstructions.bits_bits hle]
  rw [fget_writeFlds _ _ _ _ (by decide) hf, writeFld, if_pos hhit]
  simp only [hacc]
  rw [fget_fput_self _ _ _ hle, hval, Nat.mod_eq_of_lt (bits_lt _ _ _)]

/-- The word after a write of FC_RANGE. -/
def newRange (s : State) (k v : Nat) : Word :=
  writeFlds (s.lockOpen (.fcRange k)) (halfMask .whole) (halfVal .whole v) (regFields (.fcRange k)) (s.reg (.fcRange k))

/-- Both ends of a range lie in far memory of one kind of hub `k / 16`. -/
def inHub (k u : Nat) : Bool := farKind (u * 65536) && hubOf (u * 65536) = some (k / 16)

/-- A range that may not be enabled. -/
def badRange (k b l : Nat) : Prop :=
  l < b ∨ inHub k b = false ∨ inHub k l = false ∨ (regionOf (b * 65536) matches .hbm _ _) ≠ (regionOf (l * 65536) matches .hbm _ _)

theorem wrFcRange_disabled {k v : Nat} (hen : s.flag (.fcRange k) FC_RANGE_EN = false) (hwait : ∀ e ∈ s.net.rangeWait, e.1 ≠ k) :
    (bits v FC_RANGE_EN.lo 1 = 1 ∧ badRange k (bits v FC_RANGE_BASE.lo FC_RANGE_BASE.w) (bits v FC_RANGE_LIMIT.lo FC_RANGE_LIMIT.w) →
      s.wrFcRange k .whole v = s) ∧
    (¬ (bits v FC_RANGE_EN.lo 1 = 1 ∧ badRange k (bits v FC_RANGE_BASE.lo FC_RANGE_BASE.w) (bits v FC_RANGE_LIMIT.lo FC_RANGE_LIMIT.w)) →
      s.wrFcRange k .whole v = if newRange s k v = s.reg (.fcRange k) then s else s.setReg (.fcRange k) (newRange s k v)) := by
  have hfind : s.net.rangeWait.find? (fun e => e.1 = k) = none := List.find?_eq_none.2 fun e he => by simpa using hwait e he
  have hbase : fget (newRange s k v) FC_RANGE_BASE = bits v FC_RANGE_BASE.lo FC_RANGE_BASE.w := fget_fcRange_write _ _ _ (by decide)
  have hlimit : fget (newRange s k v) FC_RANGE_LIMIT = bits v FC_RANGE_LIMIT.lo FC_RANGE_LIMIT.w := fget_fcRange_write _ _ _ (by decide)
  have hone : fget (newRange s k v) FC_RANGE_EN = bits v FC_RANGE_EN.lo 1 := fget_fcRange_write _ _ _ (by decide)
  have hold : ((s.net.rangeWait.find? fun e => e.1 = k).map Prod.snd).getD (s.reg (.fcRange k)) = s.reg (.fcRange k) := by
    rw [hfind]
    rfl
  have hnew : writeFlds (s.lockOpen (.fcRange k)) (halfMask .whole) (halfVal .whole v) (regFields (.fcRange k)) (s.reg (.fcRange k)) =
    newRange s k v := rfl
  constructor
  · intro hbad
    rw [State.wrFcRange]
    simp only [hold, hnew, hbase, hlimit, hone]
    exact if_pos hbad
  · intro hgood
    rw [State.wrFcRange]
    simp only [hold, hnew, hbase, hlimit, hone]
    exact (if_neg hgood).trans (if_congr Iff.rfl rfl (if_pos hen))

end Sys2Proof.Proofs.FarLines

section

open Sys2Proof Sys2Proof.Machine Sys2Proof.Safety Sys2Proof.Proofs.FarLines Sys2Proof.Proofs.RegisterWrites
open Sys2Proof.Proofs.MemoryPathsAndAdds (narrow_write_served sharedWrite_unshared memBut_wr one_le_length)
open Sys2Proof.Proofs.SketchRegionsTideAndTemperature (regsBut_of_regs)

/-- Settles O13: a read by where its line is, a write by its sharers, and a range by what it would cover. -/
theorem farLinesAndSharers : Obligations.FarLinesAndSharers := by
  unfold Obligations.FarLinesAndSharers
  refine ⟨fun s src d a n f l hd hreach hfar hdie hn hb hl => ?_, fun s src d a n f hd hreach hfar hdie hn hb hlines hfills hprt hconv hserves hlost hno => ?_,
    fun s src d a n f hd hreach hfar hdie hn hb hlines hfills hprt hconv hdir hcache hlost hroom hset => ?_,
    fun s src a data hm hreach hlast hb hne hfar hlost hconv hdir hsh => ?_, fun s src a h data hm hreach hlast hb hne hfar hlost hconv hdir hhub hsh => ?_,
    fun s d line sn hdir hsn hd hl hgone hprt hwait hacks => ?_, fun s d line hdir hsn hheld => ?_,
    fun s k v b l hs hup hk hen hwait hbase hlimit hgood => ?_, fun s k v hk hen hwait hone hbad => ?_⟩
  · exact congrArg Host.Outcome.next ((if_pos hd).trans (farRead_hit hreach hfar hdie hn hb hl))
  · refine congrArg Host.Outcome.next ((if_pos hd).trans ((farRead_miss hreach hfar hdie hn hb hlines hfills hprt).trans ((if_pos (.inl hno)).trans ?_)))
    exact narrow_served_good (farKind_lt hfar) (by omega) hb hserves hconv hlost
  · have hread : s.farRead src d a n f = _ := (farRead_miss hreach hfar hdie hn hb hlines hfills hprt).trans
      ((if_neg (by simp [hcache, hlost, hconv])).trans (if_neg (by simp [hroom])))
    have hself := sharers_setSharers hdir (a / 256) (putBits (s.sharers (a / 256)) d 1 1)
    have hothers (k : Nat) (hk : k ≠ a / 256) := sharers_setSharers_ne (s := s) (a / 256) (putBits (s.sharers (a / 256)) d 1 1) hk
    cases f with
    | true =>
      exact ⟨_, congrArg Host.Outcome.next ((if_pos hd).trans (hread.trans (if_pos rfl))), hself, hothers, ⟨rfl, rfl, rfl⟩, rfl⟩
    | false =>
      have hkeep := keepLine_room (s := s.setSharers (a / 256) (putBits (s.sharers (a / 256)) d 1 1)) (line := a / 256)
        (bytes := s.rd (a / 256 * 256) 256) hset
      have hread' := hread.trans ((if_neg Bool.false_ne_true).trans (congrArg (State.emit · _) hkeep))
      exact ⟨_, congrArg Host.Outcome.next ((if_pos hd).trans hread'), hself, hothers, ⟨rfl, rfl, rfl⟩, rfl⟩
  · have hform : ¬ (farKind a = false ∨ data = [] ∨ 256 < a % 256 + data.length) := by simp [hfar, hne]; omega
    have hunshared : ∀ l ∈ s.net.dir, s.sharers l.1 = 0 ∨ l.1 * 256 + 256 ≤ a ∨ a + data.length ≤ l.1 * 256 := fun l _ => by
      by_cases hl : l.1 = a / 256
      · exact .inl (hl ▸ hsh)
      · exact .inr (by omega)
    have hwrite := (narrow_write_served (e := .good) hne hb (farKind_lt hfar) hreach hlast hconv hlost).trans
      (congrArg Prod.fst (sharedWrite_unshared hunshared))
    exact ⟨_, congrArg Host.Outcome.next ((if_neg hform).trans hwrite), memRead_memWrite _ _ _ hm, memBut_wr s a data, rfl⟩
  · have hform : ¬ (farKind a = false ∨ data = [] ∨ 256 < a % 256 + data.length) := by simp [hfar, hne]; omega
    have hwrite := (narrow_write_served (e := .good) hne hb (farKind_lt hfar) hreach hlast hconv hlost).trans
      (sharedWrite_shared hdir (one_le_length hne) hb hsh ((hubOf_line hfar).trans hhub) _)
    obtain ⟨rs, hregs, hsnoop⟩ := snoopLine_spec s h (a / 256)
    rw [hsnoop] at hwrite
    exact ⟨_, congrArg Host.Outcome.next ((if_neg hform).trans hwrite), memRead_memWrite _ _ _ hm, memBut_wr s a data, rfl, rfl, hregs, rfl⟩
  · exact ⟨_, congrArg Host.Outcome.next (snoopArrival_only hsn hd hl hgone hprt hwait hacks), any_filter_not, rfl,
      tget_tset_self _ _ _ _ hdir, fun k hk => tget_tset_ne _ _ _ hk, rfl⟩
  · exact ⟨_, congrArg Host.Outcome.next (evictionNotice_unsnooped hsn hheld), any_filter_not,
      tget_tset_self _ _ _ _ hdir, fun k hk => tget_tset_ne _ _ _ hk, rfl⟩
  · have hfits : ¬ (bits v FC_RANGE_EN.lo 1 = 1 ∧ badRange k (bits v FC_RANGE_BASE.lo FC_RANGE_BASE.w) (bits v FC_RANGE_LIMIT.lo FC_RANGE_LIMIT.w)) := by
      rintro ⟨hone, hbad⟩
      rw [← hbase, ← hlimit] at hbad
      obtain ⟨hle, hfb, hfl, hhb, hhl, hside⟩ := hgood hone
      rcases hbad with h | h | h | h
      · omega
      · simp [inHub, hfb, hhb] at h
      · simp [inHub, hfl, hhl] at h
      · rw [hbm_iff_of_farKind hfb, hbm_iff_of_farKind hfl] at h
        exact h (decide_eq_decide.2 hside)
    have hwrite := (wrFcRange_disabled hen hwait).2 hfits
    have hflds (f : Fld) (hf : f ∈ [FC_RANGE_BASE, FC_RANGE_LIMIT, FC_RANGE_EN]) : fget (newRange s k v) f = bits v f.lo f.w := fget_fcRange_write _ _ _ hf
    have hfb := hflds FC_RANGE_BASE (by decide)
    have hfl := hflds FC_RANGE_LIMIT (by decide)
    have hfe := hflds FC_RANGE_EN (by decide)
    rw [← hbase] at hfb
    rw [← hlimit] at hfl
    generalize newRange s k v = w at hwrite hfb hfl hfe
    by_cases hsame : w = s.reg (.fcRange k)
    · rw [if_pos hsame] at hwrite
      subst hsame
      exact ⟨_, congrArg Host.Outcome.next ((if_pos hk).trans ((onBus_up hup _).trans hwrite)), hfe, hfb, hfl, regsBut_of_regs _ rfl, rfl⟩
    · rw [if_neg hsame] at hwrite
      have hreg := s.reg_setReg_self (.fcRange k) w hs
      have hset := regsBut_setReg s (.fcRange k) w
      obtain ⟨rs, hframe⟩ := onlyRegs_setReg s (.fcRange k) w
      rw [hframe] at hwrite hreg hset
      refine ⟨_, congrArg Host.Outcome.next ((if_pos hk).trans ((onBus_up hup _).trans hwrite)), ?_, ?_, ?_, hset, rfl⟩
      · rw [State.fld, hreg, hfe]
        rfl
      · rw [State.fld, hreg, hfb]
      · rw [State.fld, hreg, hfl]
  · have hmis : badRange k (bits v FC_RANGE_BASE.lo FC_RANGE_BASE.w) (bits v FC_RANGE_LIMIT.lo FC_RANGE_LIMIT.w) := by
      rcases hbad with h | h | h
      · exact .inl h
      · exact .inr (.inl (by simp [inHub, h]))
      · exact .inr (.inr (.inl (by simp [inHub, h])))
    exact congrArg Host.Outcome.next ((if_pos hk).trans (onBus_idle ((wrFcRange_disabled hen hwait).1 ⟨hone, hmis⟩)))

end

/-! Proof of O55, first part: power samples, temperatures and wake tokens. -/

namespace Sys2Proof.Proofs.PowerAndTokens

open Sys2Proof Sys2Proof.Machine Sys2Proof.Safety
open Sys2Proof.Proofs.RegisterWrites
open Sys2Proof.Proofs.RaisedCauses
open Sys2Proof.Proofs.SketchRegionsTideAndTemperature (regsBut_trans regsBut_of_regs regsBut_mono OnlyRegs onlyRegs_setFld fld_of_regsBut flag_of_regsBut)
open Sys2Proof.Proofs.RankingModelsAndTables (regsBut_setFld)
open Sys2Proof.Proofs.MemoryErrorsTemperaturesAndFlash (flag_setFld_one)
open Sys2Proof.Proofs.ConsoleAndPanel (flushStart_up)

variable {s u t : State}

theorem flag_of_fld {r : Reg} {f : Fld} {b : Bool} (h : s.fld r f = if b then 1 else 0) : s.flag r f = b := by
  rw [State.flag, h]
  cases b
  · rfl
  · rfl

theorem flag_congr {r : Reg} {f : Fld} (h : t.fld r f = s.fld r f) : t.flag r f = s.flag r f := by rw [State.flag, h, State.flag]

/-! ### The supplies -/

theorem mgmtPower_fed (h : s.pwr.p12aux = true ∨ s.pwr.p48 = true ∨ s.pwr.phase = .flushing true ∨ s.pwr.phase = .flushing false) :
    s.mgmtPower = { s with pwr := { s.pwr with mgmtUp := true } } := by
  have hon : (s.pwr.p12aux || s.pwr.p48 || decide (s.pwr.phase = .flushing true) || decide (s.pwr.phase = .flushing false)) = true := by
    simpa [or_assoc] using h
  rw [State.mgmtPower]
  simp only [hon]
  rfl

theorem mgmtPower_unfed (haux : s.pwr.p12aux = false) (h48 : s.pwr.p48 = false) (ht : s.pwr.phase ≠ .flushing true)
    (hf : s.pwr.phase ≠ .flushing false) : s.mgmtPower = { s with
      pwr := { s.pwr with mgmtUp := false }, trust := { s.trust with nonce := none },
      hw := { s.hw with identify := .off, removal := false }, dbg := { long := false } } := by
  have hoff : (s.pwr.p12aux || s.pwr.p48 || decide (s.pwr.phase = .flushing true) || decide (s.pwr.phase = .flushing false)) = false := by
    simp [haux, h48, ht, hf]
  rw [State.mgmtPower]
  simp only [hoff]
  rfl

/-- The flush begins: PLSTOP is set and PWR_LOSS raised. -/
theorem flushStart_spec (hs : RegsOk s) (h : s.pwr.phase = .up) (restart : Bool) : ∃ (rs : Tab Word) (ev : EvState),
    s.flushStart restart = { s with regs := rs, evt := ev, pwr := { s.pwr with phase := .flushing restart } } ∧
    ({ s with regs := rs } : State).flag .qStat Q_STAT_PLSTOP = true ∧ Raised modLog srcM 0x0A01 [] s (s.flushStart restart) ∧
    RegsBut [.qStat, .glbInt] s { s with regs := rs } := by
  rw [flushStart_up h]
  generalize hu : ({ s with pwr := { s.pwr with phase := .flushing restart } } : State) = u
  have hok : RegsOk u := hu ▸ hs
  obtain ⟨rs, hset, -, hstop, -, hbut⟩ := setFld_spec hok .qStat Q_STAT_PLSTOP 1 (by decide)
  rw [hset]
  subst hu
  obtain ⟨rs', ev, heq, hraised, hcause⟩ := raise_spec (s := s) (u := { s with regs := rs, pwr := { s.pwr with phase := .flushing restart } })
    rfl rfl modLog srcM 0x0A01 []
  refine ⟨rs', ev, heq, ?_, hraised, regsBut_trans (regsBut_mono hbut (by simp)) (regsBut_mono hcause (by simp))⟩
  exact (flag_of_regsBut hcause (by decide) _).trans (flag_of_fld (b := true) hstop)

/-! ### Power samples -/

/-- The state in which a sample is weighed: CAPTIME has counted, and PIN shows the average. -/
def sampled (a : Nat) (s : State) : State := s.countCap.setFld .pmStat PM_STAT_PIN (min a 0xFFFF)

/-- What a step of the power loop keeps. -/
structure Weighed (rs : List Reg) (s t : State) : Prop where
  ok : RegsOk t
  regs : RegsBut rs s t
  phase : t.pwr.phase = s.pwr.phase
  time : t.svcTime = s.svcTime

theorem Weighed.trans {rs qs : List Reg} (h : Weighed rs s t) (g : Weighed qs t u) : Weighed (rs ++ qs) s u :=
  ⟨g.ok, regsBut_trans (regsBut_mono h.regs (List.subset_append_left _ _)) (regsBut_mono g.regs (List.subset_append_right _ _)),
    g.phase.trans h.phase, g.time.trans h.time⟩

theorem Weighed.mono {rs qs : List Reg} (h : Weighed rs s t) (hs : rs ⊆ qs) : Weighed qs s t := ⟨h.ok, regsBut_mono h.regs hs, h.phase, h.time⟩

theorem countCap_spec (hs : RegsOk s) : ∃ (rs : Tab Word) (m : Nat), s.countCap = { s with regs := rs, pwr := { s.pwr with capMark := m } } ∧
    RegsOk { s with regs := rs } ∧ ({ s with regs := rs } : State).duty = s.duty ∧ RegsBut [.pmStat] s { s with regs := rs } := by
  unfold State.countCap
  split
  · generalize (s.svcTime - s.pwr.capMark) / tickMs = k
    obtain ⟨rs, hset, hok, hkept, hbut⟩ := incFld_spec hs .pmStat PM_STAT_CAPTIME k (by decide)
    dsimp only
    rw [hset]
    exact ⟨rs, _, rfl, hok, hkept PM_STAT_DUTY (by decide), hbut⟩
  · exact ⟨s.regs, _, rfl, hs, rfl, regsBut_of_regs _ rfl⟩

theorem sampled_spec (hs : RegsOk s) (a : Nat) : Weighed [.pmStat] s (sampled a s) ∧ (sampled a s).duty = s.duty ∧
    (sampled a s).fld .pmStat PM_STAT_PIN = min a 65535 ∧ (sampled a s).evt = s.evt ∧ (sampled a s).pwr.capTime = s.pwr.capTime ∧
    (sampled a s).pwr.dutyTime = s.pwr.dutyTime := by
  obtain ⟨rs, m, hcap, hok, hduty, hbut⟩ := countCap_spec hs
  unfold sampled
  rw [hcap]
  have hok' : RegsOk ({ s with regs := rs, pwr := { s.pwr with capMark := m } } : State) := hok
  obtain ⟨rs', hset, hokp, hpin, hkept, hbut'⟩ := setFld_spec hok' .pmStat PM_STAT_PIN (min a 0xFFFF) (by decide)
  have hlt : min a 0xFFFF < 2 ^ PM_STAT_PIN.w := Nat.lt_of_le_of_lt (Nat.min_le_right ..) (by decide)
  rw [Nat.mod_eq_of_lt hlt] at hpin
  rw [hset]
  exact ⟨⟨hokp, regsBut_trans hbut hbut', rfl, rfl⟩, (hkept PM_STAT_DUTY (by decide)).trans hduty, hpin, rfl, rfl, rfl⟩

/-- PWR_CAP is due: the last one lies a second back. -/
def capDue (s : State) : Bool := s.pwr.capTime.all fun c => decide (400000000 ≤ s.svcTime - c)

theorem pwrCap_spec (hs : RegsOk s) : Weighed [.glbInt] s s.pwrCap ∧ s.pwrCap.pwr.dutyTime = s.pwr.dutyTime ∧
    (capDue s = true → Raised modLog srcM 0x0A03 [] s s.pwrCap) ∧ (capDue s = false → s.pwrCap.evt = s.evt) := by
  have hdue : (match s.pwr.capTime with | some t => decide (tickS ≤ s.svcTime - t) | none => true) = capDue s := by
    unfold capDue
    cases s.pwr.capTime with
    | none => rfl
    | some c => rfl
  have hcap : s.pwrCap = if capDue s then ({ s with pwr := { s.pwr with capTime := some s.svcTime } } : State).raise modLog srcM 0x0A03 [] else s := by
    rw [← hdue]
    rfl
  rw [hcap]
  cases hd : capDue s with
  | false => exact ⟨⟨hs, regsBut_of_regs _ rfl, rfl, rfl⟩, rfl, fun h => absurd h Bool.false_ne_true, fun _ => rfl⟩
  | true =>
    have hok := regsOk_raise (s := ({ s with pwr := { s.pwr with capTime := some s.svcTime } } : State)) hs modLog srcM 0x0A03 []
    obtain ⟨rs, ev, heq, hraised, hcause⟩ := raise_spec (s := s) (u := { s with pwr := { s.pwr with capTime := some s.svcTime } }) rfl rfl
      modLog srcM 0x0A03 []
    rw [if_pos rfl]
    rw [heq] at hok hraised ⊢
    exact ⟨⟨hok, hcause, rfl, rfl⟩, rfl, fun _ => hraised, fun h => absurd h.symm Bool.false_ne_true⟩

theorem setDuty_spec (hs : RegsOk s) {d : Nat} (hd : d < 32) : Weighed [.pmStat] s (s.setDuty d) ∧ (s.setDuty d).duty = d ∧
    (s.setDuty d).flag .pmStat PM_STAT_CAPPED = s.flag .pmStat PM_STAT_CAPPED ∧
    (s.setDuty d).fld .pmStat PM_STAT_PIN = s.fld .pmStat PM_STAT_PIN ∧ (s.setDuty d).evt = s.evt ∧ (s.setDuty d).pwr.dutyTime = s.svcTime := by
  obtain ⟨rs, hset, hok, hself, hkept, hbut⟩ := setFld_spec hs .pmStat PM_STAT_DUTY d (by decide)
  rw [Nat.mod_eq_of_lt (show d < 2 ^ PM_STAT_DUTY.w from hd)] at hself
  unfold State.setDuty
  rw [hset]
  exact ⟨⟨hok, hbut, rfl, rfl⟩, hself, flag_congr (hkept PM_STAT_CAPPED (by decide)), hkept PM_STAT_PIN (by decide), rfl, rfl⟩

theorem setCapped_spec (hs : RegsOk s) : Weighed [.pmStat] s (s.setFld .pmStat PM_STAT_CAPPED 1) ∧
    (s.setFld .pmStat PM_STAT_CAPPED 1).duty = s.duty ∧ (s.setFld .pmStat PM_STAT_CAPPED 1).flag .pmStat PM_STAT_CAPPED = true ∧
    (s.setFld .pmStat PM_STAT_CAPPED 1).fld .pmStat PM_STAT_PIN = s.fld .pmStat PM_STAT_PIN ∧
    (s.setFld .pmStat PM_STAT_CAPPED 1).evt = s.evt ∧ (s.setFld .pmStat PM_STAT_CAPPED 1).pwr = s.pwr := by
  obtain ⟨rs, hset, hok, hself, hkept, hbut⟩ := setFld_spec hs .pmStat PM_STAT_CAPPED 1 (by decide)
  rw [hset]
  exact ⟨⟨hok, hbut, rfl, rfl⟩, hkept PM_STAT_DUTY (by decide), flag_of_fld (b := true) hself, hkept PM_STAT_PIN (by decide), rfl, rfl⟩

theorem duty_lt (s : State) : s.duty < 32 := s.fld_lt .pmStat PM_STAT_DUTY

/-- Above LIMIT, DUTY falls when 100 us have passed. -/
theorem dutyDown_spec (hs : RegsOk s) : Weighed [.pmStat, .glbInt] s s.dutyDown ∧
    s.dutyDown.duty = (if 4 < s.duty ∧ s.pwr.dutyTime + 40000 ≤ s.svcTime then s.duty - 1 else s.duty) ∧
    s.dutyDown.flag .pmStat PM_STAT_CAPPED = true ∧ s.dutyDown.fld .pmStat PM_STAT_PIN = s.fld .pmStat PM_STAT_PIN ∧
    (4 < s.duty → s.pwr.dutyTime + 40000 ≤ s.svcTime → s.dutyDown.pwr.dutyTime = s.svcTime) ∧
    (capDue s = true → Raised modLog srcM 0x0A03 [] s s.dutyDown) ∧ (capDue s = false → s.dutyDown.evt = s.evt) := by
  obtain ⟨hw, hdt, hraised, hsame⟩ := pwrCap_spec hs
  have hdown : s.dutyDown = if 4 < (s.pwrCap.setFld .pmStat PM_STAT_CAPPED 1).duty ∧
      (s.pwrCap.setFld .pmStat PM_STAT_CAPPED 1).pwr.dutyTime + 40000 ≤ (s.pwrCap.setFld .pmStat PM_STAT_CAPPED 1).svcTime then
      (s.pwrCap.setFld .pmStat PM_STAT_CAPPED 1).setDuty ((s.pwrCap.setFld .pmStat PM_STAT_CAPPED 1).duty - 1)
    else s.pwrCap.setFld .pmStat PM_STAT_CAPPED 1 := rfl
  have hduty : s.pwrCap.duty = s.duty := fld_of_regsBut hw.regs (by decide) _
  have hpin : s.pwrCap.fld .pmStat PM_STAT_PIN = s.fld .pmStat PM_STAT_PIN := fld_of_regsBut hw.regs (by decide) _
  rw [hdown]
  generalize s.pwrCap = v at hw hdt hraised hsame hduty hpin ⊢
  obtain ⟨hw', hduty', hcap, hpin', hevt, hpwr⟩ := setCapped_spec hw.ok
  generalize v.setFld .pmStat PM_STAT_CAPPED 1 = x at hw' hduty' hcap hpin' hevt hpwr ⊢
  have hxd : x.duty = s.duty := hduty'.trans hduty
  have hxt : x.pwr.dutyTime = s.pwr.dutyTime := (congrArg PwrState.dutyTime hpwr).trans hdt
  have hxs : x.svcTime = s.svcTime := hw'.time.trans hw.time
  have hx : Weighed [.pmStat, .glbInt] s x := (hw.trans hw').mono (by simp)
  rw [hxd, hxt, hxs]
  by_cases hdue : 4 < s.duty ∧ s.pwr.dutyTime + 40000 ≤ s.svcTime
  · rw [if_pos hdue, if_pos hdue]
    have hlt : s.duty - 1 < 32 := Nat.lt_of_le_of_lt (Nat.sub_le ..) (duty_lt s)
    obtain ⟨hwd, hd, hc, hp, he, hdt'⟩ := setDuty_spec hw'.ok hlt
    exact ⟨(hx.trans hwd).mono (by simp), hd, hc.trans hcap, hp.trans (hpin'.trans hpin), fun _ _ => hdt'.trans hxs,
      fun h => (congrArg EvState.raised (he.trans hevt)).trans (hraised h), fun h => he.trans (hevt.trans (hsame h))⟩
  · rw [if_neg hdue, if_neg hdue]
    exact ⟨hx, hxd, hcap, hpin'.trans hpin, fun h h' => absurd ⟨h, h'⟩ hdue, fun h => (congrArg EvState.raised hevt).trans (hraised h),
      fun h => hevt.trans (hsame h)⟩

/-- A sample above 4,200 W cuts DUTY to 8. -/
def cut (s : State) : State := if 8 < s.duty then (s.setDuty 8).setFld .pmStat PM_STAT_CAPPED 1 else s

theorem cut_spec (hs : RegsOk s) : Weighed [.pmStat] s (cut s) ∧ (cut s).duty = min s.duty 8 ∧
    (8 < s.duty ∨ s.flag .pmStat PM_STAT_CAPPED = true → (cut s).flag .pmStat PM_STAT_CAPPED = true) ∧
    (cut s).fld .pmStat PM_STAT_PIN = s.fld .pmStat PM_STAT_PIN ∧ (cut s).evt = s.evt ∧
    (s.pwr.dutyTime = s.svcTime → (cut s).pwr.dutyTime = s.svcTime) := by
  unfold cut
  by_cases h : 8 < s.duty
  · rw [if_pos h]
    obtain ⟨hw, hd, -, hp, he, hdt⟩ := setDuty_spec hs (d := 8) (by decide)
    obtain ⟨hw', hd', hc, hp', he', hpwr⟩ := setCapped_spec hw.ok
    exact ⟨(hw.trans hw').mono (by simp), (hd'.trans hd).trans (Nat.min_eq_right (Nat.le_of_lt h)).symm, fun _ => hc, hp'.trans hp, he'.trans he,
      fun _ => (congrArg PwrState.dutyTime hpwr).trans hdt⟩
  · rw [if_neg h]
    exact ⟨⟨hs, regsBut_of_regs _ rfl, rfl, rfl⟩, (Nat.min_eq_left (Nat.not_lt.1 h)).symm, fun hc => hc.resolve_left h, rfl, rfl, id⟩

/-- What a sample does, once PIN shows the average. -/
def weigh (a x : Nat) (u : State) : State :=
  if u.duty ≤ 4 ∧ 4200 < a then ((u.setFld .pmStat PM_STAT_CRIT 1).raise modLog srcM 0x0A04 []).flushStart false
  else if 4200 < x then cut (if u.fld .pmCtl PM_CTL_LIMIT < a then u.dutyDown else u)
  else if a ≤ u.fld .pmCtl PM_CTL_LIMIT ∧ (if u.fld .pmCtl PM_CTL_LIMIT < a then u.dutyDown else u).duty < 16 ∧
      (if u.fld .pmCtl PM_CTL_LIMIT < a then u.dutyDown else u).pwr.dutyTime + 400000 ≤
        (if u.fld .pmCtl PM_CTL_LIMIT < a then u.dutyDown else u).svcTime then
    (if u.fld .pmCtl PM_CTL_LIMIT < a then u.dutyDown else u).setDuty ((if u.fld .pmCtl PM_CTL_LIMIT < a then u.dutyDown else u).duty + 1)
  else if u.fld .pmCtl PM_CTL_LIMIT < a then u.dutyDown else u

theorem powerSample_up (h : s.pwr.phase = .up) (a x : Nat) : exec (.powerSample a x) s = .next (weigh a x (sampled a s)) :=
  congrArg Host.Outcome.next (if_neg (by simp [h]))

theorem weigh_crit {a x : Nat} (hd : u.duty ≤ 4) (ha : 4200 < a) :
    weigh a x u = ((u.setFld .pmStat PM_STAT_CRIT 1).raise modLog srcM 0x0A04 []).flushStart false := if_pos ⟨hd, ha⟩

theorem weigh_above {a x : Nat} (hcrit : ¬ (u.duty ≤ 4 ∧ 4200 < a)) (ha : u.fld .pmCtl PM_CTL_LIMIT < a) :
    weigh a x u = if 4200 < x then cut u.dutyDown else u.dutyDown := by
  rw [weigh, if_neg hcrit]
  simp only [if_pos ha]
  exact if_congr Iff.rfl rfl (if_neg fun h => by omega)

theorem weigh_below {a x : Nat} (hcrit : ¬ (u.duty ≤ 4 ∧ 4200 < a)) (ha : a ≤ u.fld .pmCtl PM_CTL_LIMIT) :
    weigh a x u = if 4200 < x then cut u
      else if u.duty < 16 ∧ u.pwr.dutyTime + 400000 ≤ u.svcTime then u.setDuty (u.duty + 1) else u := by
  have hno : ¬ u.fld .pmCtl PM_CTL_LIMIT < a := Nat.not_lt.2 ha
  rw [weigh, if_neg hcrit]
  simp only [if_neg hno, ha, true_and]

/-- An average above 4,200 W at DUTY 4: the event, and the flush. -/
theorem crit_spec (hs : RegsOk s) (hup : s.pwr.phase = .up) {t : State}
    (ht : ((s.setFld .pmStat PM_STAT_CRIT 1).raise modLog srcM 0x0A04 []).flushStart false = t) :
    t.fld .pmStat PM_STAT_PIN = s.fld .pmStat PM_STAT_PIN ∧ t.flag .pmStat PM_STAT_CRIT = true ∧ t.pwr.phase = .flushing false ∧
    t.flag .qStat Q_STAT_PLSTOP = true ∧ t.evt.raised.map (fun e => e.2.code) = s.evt.raised.map (fun e => e.2.code) ++ [0x0A04, 0x0A01] ∧
    RegsBut [.pmStat, .qStat, .glbInt] s t := by
  obtain ⟨rs, hset, hok, hself, hkept, hbut⟩ := setFld_spec hs .pmStat PM_STAT_CRIT 1 (by decide)
  rw [hset] at ht
  have hok' := regsOk_raise hok modLog srcM 0x0A04 []
  obtain ⟨rs', ev, heq, hraised, hcause⟩ := raise_spec (s := s) (u := { s with regs := rs }) rfl rfl modLog srcM 0x0A04 []
  rw [heq] at ht hok' hraised
  obtain ⟨rs2, ev2, hflush, hstop, hraised2, hbut2⟩ := flushStart_spec hok' hup false
  rw [ht] at hflush hraised2
  subst hflush
  have hpin : ∀ f, ({ s with regs := rs2 } : State).fld .pmStat f = ({ s with regs := rs } : State).fld .pmStat f := fun f =>
    (fld_of_regsBut hbut2 (by decide) f).trans (fld_of_regsBut hcause (by decide) f)
  refine ⟨(hpin _).trans (hkept PM_STAT_PIN (by decide)), flag_of_fld (b := true) ((hpin _).trans hself), rfl, hstop, ?_, ?_⟩
  · rw [codes_of_raised hraised2, codes_of_raised hraised, List.append_assoc]
    rfl
  · exact regsBut_trans (regsBut_mono hbut (by simp)) (regsBut_trans (regsBut_mono hcause (by simp)) (regsBut_mono hbut2 (by simp)))

end Sys2Proof.Proofs.PowerAndTokens

/-! Proof of O55, second part: a quad's tokens and states, and the statement. -/

namespace Sys2Proof.Proofs.PowerAndTokens

open Sys2Proof Sys2Proof.Machine Sys2Proof.Safety
open Sys2Proof.Proofs.RegisterWrites
open Sys2Proof.Proofs.RaisedCauses
open Sys2Proof.Proofs.SketchRegionsTideAndTemperature (regsBut_trans regsBut_of_regs regsBut_mono OnlyRegs onlyRegs_setFld fld_of_regsBut flag_of_regsBut
  reg_of_regsBut)
open Sys2Proof.Proofs.RankingModelsAndTables (regsBut_setFld)

variable {s u t : State} {q : Nat}

/-! ### Temperatures -/

/-- The level of a die after a sample. -/
def dieLevel (old x : Nat) : Nat := thermalNext [(101, 97), (110, 107), (120, 117)] old x

theorem dieTemp_up {d x : Nat} (h : s.pwr.phase = .up) (hd : d < 24) : exec (.dieTemperatureSample d x) s = .next
    (if dieLevel (tgetD 0 s.pwr.caps d) x = 3 then
      (({ s with pwr := { s.pwr with caps := tsetD 0 s.pwr.caps d (dieLevel (tgetD 0 s.pwr.caps d) x) } } : State).raise modLog srcM 0x0A05 []).flushStart false
    else { s with pwr := { s.pwr with caps := tsetD 0 s.pwr.caps d (dieLevel (tgetD 0 s.pwr.caps d) x) } }) := by
  have hrun : ¬ (s.pwr.phase ≠ .up ∨ 24 ≤ d) := by
    rintro (hp | hd')
    · exact hp h
    · omega
  exact congrArg Host.Outcome.next (if_neg hrun)

/-- A sample that reaches no fewer levels than the die was at. -/
theorem dieLevel_rises {old x k : Nat} (hr : (([(101, 97), (110, 107), (120, 117)] : List (Nat × Nat)).filter fun u => u.1 ≤ x).length = k)
    (hk : min old 3 ≤ k) : dieLevel old x = k := by
  have hkept : ((([(101, 97), (110, 107), (120, 117)] : List (Nat × Nat)).take old).filter fun u => u.2 < x).length ≤ min old 3 := by
    refine (List.length_filter_le _ _).trans ?_
    rw [List.length_take]
    exact Nat.le_refl _
  rw [dieLevel, thermalNext, hr]
  exact Nat.max_eq_left (hkept.trans hk)

theorem dieLevel_one {x : Nat} (hlo : 101 ≤ x) (hhi : x < 110) : dieLevel 0 x = 1 :=
  dieLevel_rises (by simp [hlo, show ¬ 110 ≤ x by omega, show ¬ 120 ≤ x by omega]) (by omega)

theorem dieLevel_two {old x : Nat} (hlo : 110 ≤ x) (hhi : x < 120) (hold : old ≤ 2) : dieLevel old x = 2 :=
  dieLevel_rises (by simp [hlo, show 101 ≤ x by omega, show ¬ 120 ≤ x by omega]) (by omega)

theorem dieLevel_three {old x : Nat} (hx : 120 ≤ x) : dieLevel old x = 3 :=
  dieLevel_rises (by simp [hx, show 101 ≤ x by omega, show 110 ≤ x by omega]) (by omega)

/-- At 97 degrees or below no level holds. -/
theorem dieLevel_zero {old x : Nat} (hx : x ≤ 97) : dieLevel old x = 0 := by
  have hall : ∀ u ∈ ([(101, 97), (110, 107), (120, 117)] : List (Nat × Nat)), ¬ u.1 ≤ x ∧ ¬ u.2 < x := by
    simp only [List.mem_cons, List.not_mem_nil, or_false, forall_eq_or_imp, forall_eq]
    omega
  have hreached : ([(101, 97), (110, 107), (120, 117)] : List (Nat × Nat)).filter (fun u => u.1 ≤ x) = [] :=
    List.filter_eq_nil_iff.2 fun u hu => by simpa using (hall u hu).1
  have hkept : (([(101, 97), (110, 107), (120, 117)] : List (Nat × Nat)).take old).filter (fun u => u.2 < x) = [] :=
    List.filter_eq_nil_iff.2 fun u hu => by simpa using (hall u (List.mem_of_mem_take hu)).2
  rw [dieLevel, thermalNext, hreached, hkept]
  rfl

/-- A level is left 4 degrees, or 3, below where it began. -/
theorem dieLevel_stays {old x : Nat} (h : (old = 1 ∧ 98 ≤ x ∧ x < 101) ∨ (old = 2 ∧ 108 ≤ x ∧ x < 110)) : dieLevel old x = old := by
  rcases h with ⟨rfl, hlo, hhi⟩ | ⟨rfl, hlo, hhi⟩
  · simp [dieLevel, thermalNext, show ¬ 101 ≤ x by omega, show ¬ 110 ≤ x by omega, show ¬ 120 ≤ x by omega, show 97 < x by omega]
  · simp [dieLevel, thermalNext, show 101 ≤ x by omega, show ¬ 110 ≤ x by omega, show ¬ 120 ≤ x by omega, show 97 < x by omega,
      show 107 < x by omega]

/-- A sample below level 3. -/
theorem dieTemp_level {d x l : Nat} (h : s.pwr.phase = .up) (hd : d < 24) (hcaps : twf (fun _ => 0) s.pwr.caps = true)
    (hl : dieLevel (tgetD 0 s.pwr.caps d) x = l) (h3 : l ≠ 3) : ∃ t : State, exec (.dieTemperatureSample d x) s = .next t ∧
    tgetD 0 t.pwr.caps d = l ∧ t = { s with pwr := t.pwr } := by
  have hstep := dieTemp_up (x := x) h hd
  rw [hl, if_neg h3] at hstep
  exact ⟨_, hstep, tget_tset_self _ _ _ _ hcaps, rfl⟩

/-- The caps of a quad's dies hold its duty down. -/
theorem quadDuty_le {d : Nat} (h : d = q / 4 ∨ d = 20 + q / 20) : s.quadDuty q ≤ dutyCap (tgetD 0 s.pwr.caps d) := by
  unfold State.quadDuty
  rcases h with rfl | rfl
  · exact (Nat.min_le_right ..).trans (Nat.min_le_left ..)
  · exact (Nat.min_le_right ..).trans (Nat.min_le_right ..)

/-! ### Wake tokens -/

/-- The quad is ON and waits for no token. -/
def OnNow (q : Nat) (s : State) : Prop := s.fld (.pwrQuad q) PWR_QUAD_STATE = 0 ∧ s.flag (.pwrQuad q) PWR_QUAD_WAITTOK = false

theorem regOff_pwrQuad_ne {q p : Nat} (h : q ≠ p) : regOff (.pwrQuad q) ≠ regOff (.pwrQuad p) := by
  simp only [regOff]
  omega

theorem OnNow.of_regs {s t : State} (h : OnNow q s) (ht : t.regs = s.regs) : OnNow q t := by
  unfold OnNow State.flag State.fld State.reg at h ⊢
  rwa [ht]

theorem wakeQuad_spec (hs : RegsOk s) (q : Nat) : ∃ rs : Tab Word, s.wakeQuad q = { s with regs := rs } ∧ RegsOk { s with regs := rs } ∧
    OnNow q { s with regs := rs } ∧ RegsBut [.pwrQuad q] s { s with regs := rs } := by
  obtain ⟨rs, hset, hok, hself, -, hbut⟩ := setFld_spec hs (.pwrQuad q) PWR_QUAD_WAITTOK 0 (by decide)
  obtain ⟨rs', hset', hok', hself', hkept', hbut'⟩ := setFld_spec hok (.pwrQuad q) PWR_QUAD_STATE 0 (by decide)
  obtain ⟨rs2, hset2, hok2, hkept2, hbut2⟩ := incFld_spec hok' (.pwrQuad q) PWR_QUAD_WAKES 1 (by decide)
  refine ⟨rs2, ?_, hok2, ⟨(hkept2 PWR_QUAD_STATE (by decide)).trans hself', ?_⟩, regsBut_trans hbut (regsBut_trans hbut' hbut2)⟩
  · unfold State.wakeQuad
    rw [hset, hset', hset2]
  · exact flag_of_fld (b := false) ((hkept2 PWR_QUAD_WAITTOK (by decide)).trans ((hkept' PWR_QUAD_WAITTOK (by decide)).trans hself))

/-- The first `n` that wait are ON, and the others wait on. -/
theorem grantUpTo_spec (n : Nat) (hs : RegsOk s) : ∃ (rs : Tab Word) (pw : PwrState), s.grantUpTo n = { s with regs := rs, pwr := pw } ∧
    pw.wakeReq = s.pwr.wakeReq.drop n ∧ (∀ q ∈ s.pwr.wakeReq.take n, OnNow q { s with regs := rs }) ∧
    (∀ q, OnNow q s → OnNow q { s with regs := rs }) ∧ RegsBut ((s.pwr.wakeReq.take n).map .pwrQuad) s { s with regs := rs } := by
  induction n generalizing s with
  | zero => exact ⟨s.regs, s.pwr, rfl, rfl, fun q hq => absurd hq List.not_mem_nil, fun _ h => h, regsBut_of_regs _ rfl⟩
  | succ n ih =>
    cases hw : s.pwr.wakeReq with
    | nil =>
      refine ⟨s.regs, s.pwr, ?_, hw, fun q hq => absurd hq List.not_mem_nil, fun _ h => h, regsBut_of_regs _ rfl⟩
      rw [State.grantUpTo]
      split
      · rfl
      · rename_i hcons
        exact absurd (hw.symm.trans hcons) (by simp)
    | cons q rest =>
      have hok : RegsOk ({ s with pwr := { s.pwr with wakeReq := rest, wakePtr := (q + 1) % 80, grants := s.pwr.grants ++ [s.svcTime] } } : State) := hs
      obtain ⟨rs, hwake, hok', hon, hbut⟩ := wakeQuad_spec hok q
      have hgrant : s.grantUpTo (n + 1) =
          (({ s with pwr := { s.pwr with wakeReq := rest, wakePtr := (q + 1) % 80, grants := s.pwr.grants ++ [s.svcTime] } } : State).wakeQuad q).grantUpTo n := by
        rw [State.grantUpTo]
        split
        · rename_i hnil
          exact absurd (hw.symm.trans hnil) (by simp)
        · rename_i p rest' hcons
          obtain ⟨rfl, rfl⟩ := List.cons.inj (hw.symm.trans hcons)
          rfl
      rw [hwake] at hgrant
      obtain ⟨rs', pw, hrest, hreq, htaken, hstay, hbut'⟩ := ih hok'
      have hkept (p : Nat) (h : OnNow p s) : OnNow p { s with regs := rs } := by
        by_cases hpq : p = q
        · exact hpq ▸ hon.of_regs rfl
        · have hne : ∀ x ∈ [Reg.pwrQuad q], regOff (.pwrQuad p) ≠ regOff x := by simpa using regOff_pwrQuad_ne hpq
          exact ⟨(fld_of_regsBut (t := { s with regs := rs }) hbut hne _).trans h.1, (flag_of_regsBut (t := { s with regs := rs }) hbut hne _).trans h.2⟩
      refine ⟨rs', pw, hgrant.trans hrest, hreq, fun p hp => ?_, fun p h => (hstay p ((hkept p h).of_regs rfl)).of_regs rfl, ?_⟩
      · rcases List.mem_cons.1 hp with rfl | hp
        · exact (hstay p (hon.of_regs rfl)).of_regs rfl
        · exact (htaken p hp).of_regs rfl
      · refine regsBut_trans (regsBut_mono (qs := ((q :: rest).take (n + 1)).map .pwrQuad) hbut (by simp)) (regsBut_mono hbut' ?_)
        rw [List.take_succ_cons, List.map_cons]
        exact List.subset_cons_self _ _

/-! ### REQ -/

theorem wval_req (r : Nat) : wval .low (r % 4) PWR_QUAD_REQ = r % 4 := by
  show r % 4 % 2 ^ 32 >>> 0 % 2 ^ 2 = r % 4
  rw [Nat.shiftRight_zero]
  omega

theorem wrPwrQuad_low (s : State) (q r : Nat) : s.wrPwrQuad q .low (r % 4) = s.quadReq q (r % 4) := by
  have hwakes : wrote .low PWR_QUAD_WAKES = false := by decide
  have hreq : wrote .low PWR_QUAD_REQ = true := by decide
  simp only [State.wrPwrQuad, hwakes, hreq, wval_req, Bool.false_eq_true, if_false, if_true]

theorem quadReq_ignored {r : Nat} (h : r = 3 ∨ (r = 2 ∧ s.quadInst q ≠ none)) : s.quadReq q r = s :=
  if_pos (h.imp id fun h => ⟨h.1, Option.isSome_iff_ne_none.2 h.2⟩)

theorem quadReq_on {r : Nat} (hr : r < 2) : s.quadReq q r = if r = 1 ∨ s.fld (.pwrQuad q) PWR_QUAD_STATE = 2
    then (s.setFld (.pwrQuad q) PWR_QUAD_REQ r).askWake q else s.setFld (.pwrQuad q) PWR_QUAD_REQ r := by
  rw [State.quadReq, if_neg (by omega)]
  exact if_neg (by omega)

theorem askWake_asks (hst : s.fld (.pwrQuad q) PWR_QUAD_STATE = 1 ∨ s.fld (.pwrQuad q) PWR_QUAD_STATE = 2)
    (hw : s.flag (.pwrQuad q) PWR_QUAD_WAITTOK = false) :
    s.askWake q = { s.setFld (.pwrQuad q) PWR_QUAD_WAITTOK 1 with pwr := { s.pwr with wakeReq := s.pwr.wakeReq ++ [q] } } :=
  if_pos ⟨hst, by simp [hw]⟩

theorem askWake_idle (h : s.fld (.pwrQuad q) PWR_QUAD_STATE = 0 ∨ s.flag (.pwrQuad q) PWR_QUAD_WAITTOK = true) : s.askWake q = s := by
  refine if_neg ?_
  rintro ⟨hst, hw⟩
  rcases h with h | h
  · omega
  · exact hw h

/-! ### A quad is cleared -/

/-- Only what belongs to quads and their sketch units changes: registers below those of power, and neither power nor memory nor the quay. -/
structure QuadsOnly (s t : State) : Prop where
  ok : RegsOk s → RegsOk t
  regs : ∀ r, 0x130000 ≤ regOff r → t.reg r = s.reg r
  pwr : t.pwr = s.pwr
  mem : t.mem = s.mem
  quay : t.quay = s.quay

theorem QuadsOnly.refl (s : State) : QuadsOnly s s := ⟨id, fun _ _ => rfl, rfl, rfl, rfl⟩

theorem QuadsOnly.trans (h : QuadsOnly s t) (g : QuadsOnly t u) : QuadsOnly s u :=
  ⟨fun hs => g.ok (h.ok hs), fun r hr => (g.regs r hr).trans (h.regs r hr), g.pwr.trans h.pwr, g.mem.trans h.mem, g.quay.trans h.quay⟩

theorem QuadsOnly.foldl {α : Type} {f : State → α → State} {l : List α} (hf : ∀ s, ∀ a ∈ l, QuadsOnly s (f s a)) (s : State) :
    QuadsOnly s (l.foldl f s) :=
  List.foldlRecOn (motive := QuadsOnly s) l f (.refl s) fun t ht a ha => ht.trans (hf t a ha)

theorem quadsOnly_setFld {r : Reg} (hr : regOff r < 0x130000) (s : State) (f : Fld) (v : Nat) : QuadsOnly s (s.setFld r f v) := by
  have hset := regsBut_setFld s r f v
  have hok (hs : RegsOk s) := s.regsOk_setFld r f v hs
  obtain ⟨rs, hframe⟩ := onlyRegs_setFld s r f v
  rw [hframe] at hset hok ⊢
  refine ⟨hok, fun x hx => reg_of_regsBut hset ?_, rfl, rfl, rfl⟩
  simp only [List.mem_singleton, forall_eq]
  omega

theorem quadsOnly_mapGate (s : State) (m : Nat) (f : Gate → Gate) : QuadsOnly s (s.mapGate m f) := by
  unfold State.mapGate State.mapModel
  split
  · exact ⟨id, fun _ _ => rfl, rfl, rfl, rfl⟩
  · exact .refl s

theorem quadsOnly_fryWait {n : Nat} (hn : n < 5120) (s : State) (c : Nat) : QuadsOnly s (s.fryWait n c) := by
  have hoff : regOff (.frySwait n) < 0x130000 := by
    simp only [regOff]
    omega
  unfold State.fryWait
  split
  · exact .refl s
  · exact (quadsOnly_setFld hoff ..).trans (quadsOnly_setFld hoff ..)

theorem quadsOnly_dropStreams (hq : q < 80) (s : State) : QuadsOnly s (s.dropStreams q) := by
  refine .foldl (fun u k hk => ?_) s
  have hk := List.mem_range.1 hk
  have hset : QuadsOnly u (u.setStream (64 * q + k) { nextK := (u.stream (64 * q + k)).nextK }) := ⟨id, fun _ _ => rfl, rfl, rfl, rfl⟩
  refine hset.trans ((quadsOnly_fryWait (n := 64 * q + k) (by omega) _ 0).trans ?_)
  exact .foldl (fun v m _ => quadsOnly_mapGate v m _) _

theorem quadsOnly_clearSel (hq : q < 80) (s : State) : QuadsOnly s (s.clearSel q) := by
  have hoff : regOff (.xuBound q) < 0x130000 := by
    simp only [regOff]
    omega
  have hslots : QuadsOnly s ((List.range 8).foldl (fun (s : State) k => s.setSlot q k none) s)  :=
    .foldl (f := fun s k => s.setSlot q k none) (fun u k _ => ⟨id, fun _ _ => rfl, rfl, rfl, rfl⟩) s
  refine hslots.trans ?_
  have hxu (v : State) : QuadsOnly v (v.setXu q {}) := ⟨id, fun _ _ => rfl, rfl, rfl, rfl⟩
  unfold State.clearSel State.showBound
  exact (hxu _).trans ((quadsOnly_setFld hoff ..).trans ((quadsOnly_setFld hoff ..).trans ((quadsOnly_setFld hoff ..).trans (quadsOnly_setFld hoff ..))))

theorem quadsOnly_loadSems (hq : q < 80) (s : State) (vs : List Nat) : QuadsOnly s (s.loadSems q vs) := by
  refine .foldl (fun u j hj => quadsOnly_setFld ?_ u _ _) s
  have hj := List.mem_range.1 hj
  simp only [semReg, regOff]
  omega

theorem clearQuad_eq (s : State) (q : Nat) : ∃ (eng : EngState) (ctl : CtlState), s.clearQuad q =
      (({ (s.dropStreams q).clearSel q with eng, ctl } : State).loadSems q []).setFld (.schQuad q) SCH_QUAD_INST 0x7F := by
  rw [State.clearQuad]
  exact ⟨_, _, rfl⟩

theorem regOff_schQuad_lt (hq : q < 80) : regOff (.schQuad q) < 0x130000 := by
  simp only [regOff]
  omega

theorem quadsOnly_engCtl (s : State) (eng : EngState) (ctl : CtlState) : QuadsOnly s { s with eng, ctl } := ⟨id, fun _ _ => rfl, rfl, rfl, rfl⟩

theorem quadsOnly_dropped (hq : q < 80) (s : State) : QuadsOnly s ((s.dropStreams q).clearSel q) :=
  (quadsOnly_dropStreams hq s).trans (quadsOnly_clearSel hq (s.dropStreams q))

theorem quadsOnly_semsCleared (hq : q < 80) (s : State) (eng : EngState) (ctl : CtlState) : QuadsOnly s (({ s with eng, ctl } : State).loadSems q []) :=
  (quadsOnly_engCtl s eng ctl).trans (quadsOnly_loadSems hq { s with eng, ctl } [])

theorem quadsOnly_freed (hq : q < 80) (s : State) : QuadsOnly s (s.setFld (.schQuad q) SCH_QUAD_INST 0x7F) := quadsOnly_setFld (regOff_schQuad_lt hq) s SCH_QUAD_INST 0x7F

theorem quadsOnly_clearQuad (hq : q < 80) (s : State) : QuadsOnly s (s.clearQuad q) := by
  obtain ⟨eng, ctl, heq⟩ := clearQuad_eq s q
  rw [heq]
  exact (quadsOnly_dropped hq s).trans ((quadsOnly_semsCleared hq _ eng ctl).trans (quadsOnly_freed hq _))

end Sys2Proof.Proofs.PowerAndTokens

section

open Sys2Proof Sys2Proof.Machine Sys2Proof.Safety Sys2Proof.Proofs.PowerAndTokens Sys2Proof.Proofs.RegisterWrites Sys2Proof.Proofs.RaisedCauses
open Sys2Proof.Proofs.SketchRegionsTideAndTemperature (regsBut_trans regsBut_of_regs regsBut_mono fld_of_regsBut flag_of_regsBut raised_raiseRec)

/-- Settles O55: each input by what it writes to PM_STAT, DUTY by the rows of Table 16-7, and a quad's state by its tokens. -/
theorem powerTemperatureClocksAndWakeTokens : Obligations.PowerTemperatureClocksAndWakeTokens := by
  unfold Obligations.PowerTemperatureClocksAndWakeTokens
  refine ⟨fun s hs hfed => ?_, fun s hs h48 ht hf => ?_, fun s hs => ?_, fun s e hs hup he => ?_, fun s e hs hup he => ?_,
    fun s a x hs hup hd ha => ?_, fun s a x hs hup hd ha hx => ?_, fun s a x hs hup hd ha hhi => ?_, fun s a x hs hup hd hx => ?_,
    fun s a x hs hup ha hcrit hx => ?_, fun s d x q hup hd hcaps hold hlo hhi hq hdq => ?_, fun s d x q hup hd hcaps hlo hhi hold hq hdq => ?_,
    fun s d x hup hd hcaps h => ?_, fun s d x hup hd hcaps hx => ?_, fun s d x hs hup hd hx => ?_, fun s hs => ?_, fun s n hs hup hq hn => ?_,
    fun s q hs hq hup hreq hst hidle => ?_, fun s q hno => ?_, fun s q r hno => ?_, fun s q r hs hup hq hr hw => ?_, fun s q r hs hup hq hr hno => ?_,
    fun s q hs hup hq hfree => ?_⟩
  · have hpower := mgmtPower_fed (s := { s with pwr := { s.pwr with p12aux := false } }) (.inr hfed)
    obtain ⟨rs, hset, -, hself, -, hbut⟩ := setFld_spec (s := { s with pwr := { s.pwr with p12aux := false, mgmtUp := true } }) hs .pmStat PM_STAT_NOAUX 1
      (by decide)
    refine ⟨_, congrArg Host.Outcome.next ((congrArg (State.setFld · .pmStat PM_STAT_NOAUX 1) hpower).trans hset), flag_of_fld (b := true) hself, hbut, rfl⟩
  · have hpower := mgmtPower_unfed (s := { s with pwr := { s.pwr with p12aux := false } }) rfl h48 ht hf
    obtain ⟨rs, hset, -, hself, -, hbut⟩ := setFld_spec
      (s := { s with
        pwr := { s.pwr with p12aux := false, mgmtUp := false }, trust := { s.trust with nonce := none }
        hw := { s.hw with identify := .off, removal := false }, dbg := { long := false } }) hs .pmStat PM_STAT_NOAUX 1 (by decide)
    exact ⟨_, congrArg Host.Outcome.next ((congrArg (State.setFld · .pmStat PM_STAT_NOAUX 1) hpower).trans hset), flag_of_fld (b := true) hself, rfl, rfl,
      rfl, hbut, rfl⟩
  · have hpower := mgmtPower_fed (s := { s with pwr := { s.pwr with p12aux := true }, hw := { s.hw with j4 := true } }) (.inl rfl)
    obtain ⟨rs, hset, -, hself, -, hbut⟩ := setFld_spec (s := { s with pwr := { s.pwr with p12aux := true, mgmtUp := true }, hw := { s.hw with j4 := true } })
      hs .pmStat PM_STAT_NOAUX 0 (by decide)
    exact ⟨_, congrArg Host.Outcome.next ((congrArg (State.setFld · .pmStat PM_STAT_NOAUX 0) hpower).trans hset), flag_of_fld (b := false) hself, hbut, rfl⟩
  · obtain ⟨rs, hset, hok, hself, -, hbut⟩ := setFld_spec hs .pmStat PM_STAT_HOLDJ (min e 0xFFFF) (by decide)
    have hlow : s.holdup e = ((s.setFld .pmStat PM_STAT_HOLDJ (min e 0xFFFF)).setFld .pmStat PM_STAT_HOLDLOW 1).raise modLog srcM 0x0A02 [] :=
      (if_neg (by simp [hup])).trans (if_pos he)
    obtain ⟨rs', hset', -, hself', hkept', hbut'⟩ := setFld_spec hok .pmStat PM_STAT_HOLDLOW 1 (by decide)
    rw [hset, hset'] at hlow
    obtain ⟨rs2, ev, heq, hraised, hcause⟩ := raise_spec (s := s) (u := { s with regs := rs' }) rfl rfl modLog srcM 0x0A02 []
    rw [heq] at hlow hraised
    have hsmall : min e 0xFFFF = e := Nat.min_eq_left (by omega)
    have hj := (fld_of_regsBut hcause (by decide) _).trans ((hkept' PM_STAT_HOLDJ (by decide)).trans hself)
    rw [hsmall, Nat.mod_eq_of_lt (show e < 2 ^ PM_STAT_HOLDJ.w from Nat.lt_trans he (by decide))] at hj
    exact ⟨_, congrArg Host.Outcome.next hlow, hj, (flag_of_regsBut hcause (by decide) _).trans (flag_of_fld (b := true) hself'), hraised,
      regsBut_trans (regsBut_mono hbut (by simp)) (regsBut_trans (regsBut_mono hbut' (by simp)) (regsBut_mono hcause (by simp))), rfl⟩
  · obtain ⟨rs, hset, hok, hself, hkept, hbut⟩ := setFld_spec hs .pmStat PM_STAT_HOLDJ (min e 0xFFFF) (by decide)
    rw [Nat.mod_eq_of_lt (show min e 0xFFFF < 2 ^ PM_STAT_HOLDJ.w from Nat.lt_of_le_of_lt (Nat.min_le_right ..) (by decide))] at hself
    have hhigh : s.holdup e = if 105 ≤ e then (s.setFld .pmStat PM_STAT_HOLDJ (min e 0xFFFF)).setFld .pmStat PM_STAT_HOLDLOW 0
        else s.setFld .pmStat PM_STAT_HOLDJ (min e 0xFFFF) := (if_neg (by simp [hup])).trans (if_neg (Nat.not_lt.2 he))
    rw [hset] at hhigh
    by_cases h105 : 105 ≤ e
    · obtain ⟨rs', hset', -, hself', hkept', hbut'⟩ := setFld_spec hok .pmStat PM_STAT_HOLDLOW 0 (by decide)
      rw [if_pos h105, hset'] at hhigh
      refine ⟨_, congrArg Host.Outcome.next hhigh, (hkept' PM_STAT_HOLDJ (by decide)).trans hself, ?_, regsBut_trans hbut hbut', rfl⟩
      rw [decide_eq_false (Nat.not_lt.2 h105)]
      exact flag_of_fld (b := false) hself'
    · rw [if_neg h105] at hhigh
      refine ⟨_, congrArg Host.Outcome.next hhigh, hself, ?_, hbut, rfl⟩
      rw [decide_eq_true (Nat.not_le.1 h105)]
      exact flag_congr (hkept PM_STAT_HOLDLOW (by decide))
  · obtain ⟨hw, hduty, hpin, hevt, -, -⟩ := sampled_spec hs a
    have hstep := powerSample_up hup a x
    generalize sampled a s = u at hw hduty hpin hevt hstep
    rw [weigh_crit (by omega) ha] at hstep
    obtain ⟨hp, hc, hph, hst, hcodes, hbut⟩ := crit_spec hw.ok (hw.phase.trans hup) rfl
    rw [hevt] at hcodes
    exact ⟨_, hstep, hp.trans hpin, hc, hph, hst, hcodes, regsBut_trans (regsBut_mono hw.regs (by simp)) hbut⟩
  · obtain ⟨hw, hduty, hpin, hevt, hct, hdt⟩ := sampled_spec hs a
    have hlim : (sampled a s).fld .pmCtl PM_CTL_LIMIT = s.fld .pmCtl PM_CTL_LIMIT := fld_of_regsBut hw.regs (by decide) _
    have hdue : capDue (sampled a s) = s.pwr.capTime.all fun c => decide (400000000 ≤ s.svcTime - c) := by rw [capDue, hct, hw.time]
    have hraise (l src code : Nat) (data : List Byte) {t : State} (h : Raised l src code data (sampled a s) t) : Raised l src code data s t := by
      unfold Raised State.srcSt at h ⊢
      rwa [hevt, hw.time] at h
    have hstep := powerSample_up hup a x
    rw [weigh_above (by omega) (by omega)] at hstep
    generalize sampled a s = u at hw hduty hpin hevt hct hdt hlim hdue hraise hstep
    obtain ⟨hwd, hdd, hcap, hpd, hdtd, hrd, hed⟩ := dutyDown_spec hw.ok
    rw [hduty, hdt, hw.time] at hdd hdtd
    rw [hdue] at hrd hed
    have hall : Weighed [.pmStat, .glbInt] s u.dutyDown := (hw.trans hwd).mono (by simp)
    have hdown : u.dutyDown.duty = if s.pwr.dutyTime + 40000 ≤ s.svcTime then s.duty - 1 else s.duty := by
      rw [hdd]
      exact if_congr (and_iff_right hd) rfl rfl
    by_cases hx42 : 4200 < x
    · rw [if_pos hx42] at hstep
      obtain ⟨hwc, hdc, hcc, hpc, hec, hdtc⟩ := cut_spec hall.ok
      refine ⟨_, hstep, ?_, hcc (.inr hcap), hpc.trans (hpd.trans hpin), fun h => (hdtc ((hdtd hd h).trans hall.time.symm)).trans hall.time,
        fun h => (congrArg EvState.raised hec).trans (hraise _ _ _ _ (hrd h)), fun h => hec.trans ((hed h).trans hevt),
        ((hall.trans hwc).mono (by simp)).regs, hwc.phase.trans (hall.phase.trans hup)⟩
      rw [hdc, hdown, if_pos hx42]
      split <;> omega
    · rw [if_neg hx42] at hstep
      refine ⟨_, hstep, ?_, hcap, hpd.trans hpin, fun h => hdtd hd h, fun h => hraise _ _ _ _ (hrd h), fun h => (hed h).trans hevt, hall.regs,
        hall.phase.trans hup⟩
      rw [hdown, if_neg hx42]
  · obtain ⟨hw, hduty, hpin, hevt, hct, hdt⟩ := sampled_spec hs a
    have hlim : (sampled a s).fld .pmCtl PM_CTL_LIMIT = s.fld .pmCtl PM_CTL_LIMIT := fld_of_regsBut hw.regs (by decide) _
    have hstep := powerSample_up hup a x
    rw [weigh_above (by omega) (by omega)] at hstep
    generalize sampled a s = u at hw hduty hlim hstep
    obtain ⟨hwd, hdd, hcap, -, -, -, -⟩ := dutyDown_spec hw.ok
    rw [if_neg (by omega), hduty, hd] at hdd
    by_cases hx42 : 4200 < x
    · rw [if_pos hx42] at hstep
      obtain ⟨hwc, hdc, hcc, -, -, -⟩ := cut_spec hwd.ok
      exact ⟨_, hstep, by rw [hdc, hdd]; rfl, hcc (.inr hcap), hwc.phase.trans (hwd.phase.trans (hw.phase.trans hup))⟩
    · rw [if_neg hx42] at hstep
      exact ⟨_, hstep, hdd, hcap, hwd.phase.trans (hw.phase.trans hup)⟩
  · obtain ⟨hw, hduty, hpin, hevt, hct, hdt⟩ := sampled_spec hs a
    have hlim : (sampled a s).fld .pmCtl PM_CTL_LIMIT = s.fld .pmCtl PM_CTL_LIMIT := fld_of_regsBut hw.regs (by decide) _
    have hstep := powerSample_up hup a x
    have hcrit : ¬ ((sampled a s).duty ≤ 4 ∧ 4200 < a) := by omega
    by_cases ha : a ≤ s.fld .pmCtl PM_CTL_LIMIT
    · rw [weigh_below hcrit (by omega), if_pos hx] at hstep
      obtain ⟨hwc, hdc, hcc, -, hec, -⟩ := cut_spec hw.ok
      exact ⟨_, hstep, by rw [hdc]; omega, hcc (.inl (by omega)), ((hw.trans hwc).mono (by simp)).regs, fun _ => hec.trans hevt,
        hwc.phase.trans (hw.phase.trans hup)⟩
    · rw [weigh_above hcrit (by omega), if_pos hx] at hstep
      obtain ⟨hwd, hdd, hcap, -, -, -, -⟩ := dutyDown_spec hw.ok
      obtain ⟨hwc, hdc, hcc, -, hec, -⟩ := cut_spec hwd.ok
      refine ⟨_, hstep, ?_, hcc (.inr hcap), (((hw.trans hwd).trans hwc).mono (by simp)).regs, fun h => absurd h ha,
        hwc.phase.trans (hwd.phase.trans (hw.phase.trans hup))⟩
      rw [hdc, hdd]
      split <;> omega
  · obtain ⟨hw, hduty, hpin, hevt, hct, hdt⟩ := sampled_spec hs a
    have hlim : (sampled a s).fld .pmCtl PM_CTL_LIMIT = s.fld .pmCtl PM_CTL_LIMIT := fld_of_regsBut hw.regs (by decide) _
    have hstep := powerSample_up hup a x
    rw [weigh_below (by omega) (by omega)] at hstep
    by_cases hx42 : 4200 < x
    · have hsmall : ¬ 8 < (sampled a s).duty := by omega
      rw [if_pos hx42, cut, if_neg hsmall] at hstep
      refine ⟨_, hstep, ?_, hw.regs, hevt, hw.phase.trans hup⟩
      rw [hduty, if_neg (by omega)]
    · rw [if_neg hx42, hduty, hdt, hw.time] at hstep
      by_cases hrise : s.duty < 16 ∧ s.pwr.dutyTime + 400000 ≤ s.svcTime
      · rw [if_pos hrise] at hstep
        obtain ⟨hwd, hdd, -, -, hed, -⟩ := setDuty_spec hw.ok (d := s.duty + 1) (by omega)
        refine ⟨_, hstep, ?_, ((hw.trans hwd).mono (by simp)).regs, hed.trans hevt, hwd.phase.trans (hw.phase.trans hup)⟩
        rw [hdd, if_pos ⟨hrise.1, by omega, hrise.2⟩]
      · rw [if_neg hrise] at hstep
        refine ⟨_, hstep, ?_, hw.regs, hevt, hw.phase.trans hup⟩
        rw [hduty, if_neg (by omega)]
  · obtain ⟨t, hstep, hcap, hframe⟩ := dieTemp_level hup hd hcaps (hold ▸ dieLevel_one hlo hhi) (by decide)
    exact ⟨t, hstep, hcap, (quadDuty_le hdq).trans (by rw [hcap]; decide), hframe⟩
  · obtain ⟨t, hstep, hcap, hframe⟩ := dieTemp_level hup hd hcaps (dieLevel_two hlo hhi hold) (by decide)
    exact ⟨t, hstep, hcap, (quadDuty_le hdq).trans (by rw [hcap]; decide), hframe⟩
  · exact dieTemp_level hup hd hcaps (dieLevel_stays (h.imp (fun h => h) fun h => h)) (by omega)
  · exact dieTemp_level hup hd hcaps (dieLevel_zero hx) (by decide)
  · have hstep := dieTemp_up (x := x) hup hd
    rw [dieLevel_three hx, if_pos rfl] at hstep
    generalize hcaps : tsetD 0 s.pwr.caps d 3 = caps at hstep
    have hok := regsOk_raise (s := { s with pwr := { s.pwr with caps := caps } }) hs modLog srcM 0x0A05 []
    obtain ⟨rs, ev, heq, hraised, hcause⟩ := raise_spec (s := s) (u := { s with pwr := { s.pwr with caps := caps } }) rfl rfl modLog srcM 0x0A05 []
    rw [heq] at hstep hok hraised
    obtain ⟨rs2, ev2, hflush, hstop, hraised2, hbut2⟩ := flushStart_spec hok hup false
    rw [hflush] at hstep hraised2
    refine ⟨_, hstep, rfl, hstop, ?_, regsBut_trans (regsBut_mono hcause (by simp)) (regsBut_mono hbut2 (by simp))⟩
    rw [codes_of_raised hraised2, codes_of_raised hraised, List.append_assoc]
    rfl
  · obtain ⟨rs, hset, hok, hself, -, hbut⟩ := setFld_spec (s := { s with pwr := { s.pwr with refclk := false } }) hs .qStat Q_STAT_LINKGEN 0 (by decide)
    obtain ⟨rs', hset', -, hself', hkept', hbut'⟩ := setFld_spec hok .qStat Q_STAT_LINKW 0 (by decide)
    have hlost : exec .refclkLoss s = .next ((({ s with pwr := { s.pwr with refclk := false } } : State).setFld .qStat Q_STAT_LINKGEN 0).setFld .qStat
      Q_STAT_LINKW 0) := rfl
    rw [hset, hset'] at hlost
    exact ⟨_, hlost, (hkept' Q_STAT_LINKGEN (by decide)).trans hself, hself', rfl, regsBut_trans hbut hbut', rfl⟩
  · have hgrant : s.wakeGrant = ({ s with pwr := { s.pwr with grants := s.pwr.grants.filter fun x => decide (s.svcTime < x + 800) } } : State).grantUpTo
        (4 - n) := by
      rw [hn]
      exact if_neg (by simp [hup])
    obtain ⟨rs, pw, hall, hreq, htaken, -, hbut⟩ := grantUpTo_spec (4 - n)
      (s := { s with pwr := { s.pwr with grants := s.pwr.grants.filter fun x => decide (s.svcTime < x + 800) } }) hs
    exact ⟨_, congrArg Host.Outcome.next (hgrant.trans hall), hreq, fun q hq => htaken q hq, hbut, rfl⟩
  · have hgate : s.idleGate q = s.setFld (.pwrQuad q) PWR_QUAD_STATE 1 := if_pos ⟨hup, hreq, hst, hidle⟩
    obtain ⟨rs, hset, -, hself, -, hbut⟩ := setFld_spec hs (.pwrQuad q) PWR_QUAD_STATE 1 (by decide)
    exact ⟨_, congrArg Host.Outcome.next ((if_pos hq).trans (hgate.trans hset)), hself, hbut, rfl⟩
  · refine congrArg Host.Outcome.next ?_
    by_cases hq : q < 80
    · refine (if_pos hq).trans (if_neg ?_)
      rintro ⟨hup, hreq, hst, hidle⟩
      rcases hno with h | h | h | h | h
      · omega
      · exact h hup
      · exact Bool.false_ne_true (h.symm.trans hidle)
      · exact h hreq
      · exact h hst
    · exact if_neg hq
  · have hidle : s.wrPwrQuad q .low (r % 4) = s := (wrPwrQuad_low s q r).trans (quadReq_ignored hno)
    exact congrArg Host.Outcome.next ((congrArg (ite _ · s) (onBus_idle hidle)).trans (ite_self s))
  · have hr2 : r < 2 := by omega
    have hst : s.fld (.pwrQuad q) PWR_QUAD_STATE = 1 ∨ s.fld (.pwrQuad q) PWR_QUAD_STATE = 2 := hr.imp And.right And.right
    obtain ⟨rs, hset, hok, hself, hkept, hbut⟩ := setFld_spec hs (.pwrQuad q) PWR_QUAD_REQ r (by decide)
    have hstate := hkept PWR_QUAD_STATE (by decide)
    have hask := askWake_asks (s := { s with regs := rs }) (hstate.symm ▸ hst) ((flag_congr (hkept PWR_QUAD_WAITTOK (by decide))).trans hw)
    obtain ⟨rs', hset', -, hself', hkept', hbut'⟩ := setFld_spec hok (.pwrQuad q) PWR_QUAD_WAITTOK 1 (by decide)
    have hwrite : s.wrPwrQuad q .low (r % 4) = (s.setFld (.pwrQuad q) PWR_QUAD_REQ r).askWake q := by
      rw [wrPwrQuad_low, Nat.mod_eq_of_lt (by omega), quadReq_on hr2, if_pos (by omega)]
    rw [hset, hask, hset'] at hwrite
    rw [Nat.mod_eq_of_lt (show r < 2 ^ PWR_QUAD_REQ.w from Nat.lt_trans hr2 (by decide))] at hself
    exact ⟨_, congrArg Host.Outcome.next ((if_pos hq).trans ((onBus_up hup _).trans hwrite)), (hkept' PWR_QUAD_REQ (by decide)).trans hself,
      flag_of_fld (b := true) hself', rfl, (hkept' PWR_QUAD_STATE (by decide)).trans hstate, regsBut_trans hbut hbut', rfl⟩
  · obtain ⟨rs, hset, hok, hself, hkept, hbut⟩ := setFld_spec hs (.pwrQuad q) PWR_QUAD_REQ r (by decide)
    have hstate := hkept PWR_QUAD_STATE (by decide)
    have hwait := flag_congr (hkept PWR_QUAD_WAITTOK (by decide))
    have hwrite : s.wrPwrQuad q .low (r % 4) = s.setFld (.pwrQuad q) PWR_QUAD_REQ r := by
      rw [wrPwrQuad_low, Nat.mod_eq_of_lt (by omega), quadReq_on hr]
      by_cases hwake : r = 1 ∨ s.fld (.pwrQuad q) PWR_QUAD_STATE = 2
      · rw [if_pos hwake, hset]
        refine askWake_idle ?_
        rw [hstate, hwait]
        rcases hno with h | h | h
        · exact .inl h
        · exact .inr h
        · omega
      · rw [if_neg hwake]
    rw [hset] at hwrite
    rw [Nat.mod_eq_of_lt (show r < 2 ^ PWR_QUAD_REQ.w from Nat.lt_trans hr (by decide))] at hself
    exact ⟨_, congrArg Host.Outcome.next ((if_pos hq).trans ((onBus_up hup _).trans hwrite)), hself, hwait, hstate, hbut, rfl⟩
  · have hwrite : s.wrPwrQuad q .low (2 % 4) = ((((({ s.setFld (.pwrQuad q) PWR_QUAD_REQ 2 with pwr :=
        { s.pwr with wakeReq := s.pwr.wakeReq.filter (· ≠ q) } } : State).clearQuad q).setFld (.pwrQuad q) PWR_QUAD_WAITTOK 0).setFld (.pwrQuad q)
        PWR_QUAD_STATE 2)) := by
      rw [wrPwrQuad_low, State.quadReq, if_neg (by simp [hfree])]
      rfl
    obtain ⟨rs, hset, hok, hself, -, -⟩ := setFld_spec hs (.pwrQuad q) PWR_QUAD_REQ 2 (by decide)
    rw [hset] at hwrite
    generalize hv : ({ s with regs := rs, pwr := { s.pwr with wakeReq := s.pwr.wakeReq.filter (· ≠ q) } } : State) = v at hwrite
    have hclear := quadsOnly_clearQuad hq v
    have hreq : (v.clearQuad q).fld (.pwrQuad q) PWR_QUAD_REQ = 2 := by
      have hoff : 0x130000 ≤ regOff (.pwrQuad q) := by
        simp only [regOff]
        omega
      rw [State.fld, hclear.regs _ hoff]
      subst hv
      exact hself
    have hokc : RegsOk (v.clearQuad q) := hclear.ok (hv ▸ hok)
    generalize v.clearQuad q = w at hclear hreq hwrite hokc
    obtain ⟨rs1, hset1, hok1, -, hkept1, -⟩ := setFld_spec hokc (.pwrQuad q) PWR_QUAD_WAITTOK 0 (by decide)
    obtain ⟨rs2, hset2, -, hself2, hkept2, -⟩ := setFld_spec hok1 (.pwrQuad q) PWR_QUAD_STATE 2 (by decide)
    rw [hset1, hset2] at hwrite
    refine ⟨_, congrArg Host.Outcome.next ((if_pos hq).trans ((onBus_up hup _).trans hwrite)),
      (hkept2 PWR_QUAD_REQ (by decide)).trans ((hkept1 PWR_QUAD_REQ (by decide)).trans hreq), hself2, ?_, ?_, ?_⟩
    · show q ∉ w.pwr.wakeReq
      rw [hclear.pwr, ← hv]
      simp
    · exact hclear.mem.trans (by rw [← hv])
    · exact hclear.quay.trans (by rw [← hv])

end

/-! Queue pairs made and deleted (13 Table 13-4): each changes the table of queue pairs, the tenant's count and Q_STAT. -/

namespace Sys2Proof.Proofs.QueuePairsMadeAndDeleted

open Sys2Proof Sys2Proof.Machine Sys2Proof.Safety Sys2Proof.Proofs.RaisedCauses
open Sys2Proof.Proofs.SketchRegionsTideAndTemperature (regsBut_trans regsBut_of_regs regsBut_mono fld_of_regsBut flag_of_regsBut raised_raiseRec)
open Sys2Proof.Proofs.RankingModelsAndTables (pickFree_spec)
open Sys2Proof.Proofs.ObjectCommands (mem_of_tget_ne)

variable {s : State} {n : Nat}

theorem qp_of_qps {t : State} {m k : Nat} {q : QP} (h : t.quay.qps = tsetD {} s.quay.qps m q) (hk : k ≠ m) : t.qp k = s.qp k := by
  rw [State.qp, h]
  exact tget_tset_ne _ _ _ hk

/-- Q_STAT follows the queue pairs, RDY queue pair 0; nothing else changes. -/
theorem qStat_rdy (hs : RegsOk s) : ∃ rs : Tab Word, s.qStat = { s with regs := rs } ∧ RegsOk { s with regs := rs } ∧
    RegsBut [.qStat] s { s with regs := rs } ∧ ({ s with regs := rs } : State).flag .qStat Q_STAT_RDY = decide ((s.qp 0).mode = .active) := by
  rw [State.qStat]
  generalize hrdy : (if (s.qp 0).mode = .active then 1 else 0) = b
  obtain ⟨rs, hset, hok, -, -, hbut⟩ := setFld_spec hs .qStat Q_STAT_ACTIVEQ (s.quay.qps.filter (·.2.mode = .active)).length (by decide)
  obtain ⟨rs2, hset2, hok2, hself2, -, hbut2⟩ := setFld_spec hok .qStat Q_STAT_RDY b (by decide)
  rw [hset, hset2]
  refine ⟨rs2, rfl, hok2, regsBut_trans hbut hbut2, PowerAndTokens.flag_of_fld (hself2.trans ?_)⟩
  by_cases h : (s.qp 0).mode = .active
  · rw [← hrdy, if_pos h, decide_eq_true h]
    rfl
  · rw [← hrdy, if_neg h, decide_eq_false h]
    rfl

theorem qStat_spec (hs : RegsOk s) : ∃ rs : Tab Word, s.qStat = { s with regs := rs } ∧ RegsOk { s with regs := rs } ∧
    RegsBut [.qStat] s { s with regs := rs } := by
  obtain ⟨rs, heq, hok, hbut, -⟩ := qStat_rdy hs
  exact ⟨rs, heq, hok, hbut⟩

theorem regOff_tnCfg_ne_qStat (t : Nat) : regOff (.tnCfg t) ≠ regOff .qStat := by
  simp only [regOff]
  omega

theorem regOff_tnCfg_ne_qCtl (t : Nat) : regOff .qCtl ≠ regOff (.tnCfg t) := by
  simp only [regOff]
  omega

/-- The number drawn for a new queue pair is one of 1-4,095, and no queue pair has it. -/
theorem freeQp_spec {m : Nat} (h : s.freeQp = some m) : 1 ≤ m ∧ m ≤ 4095 ∧ (s.qp m).mode = .absent := by
  obtain ⟨i, hi, rfl⟩ := Option.map_eq_some_iff.1 h
  obtain ⟨hlt, hfree⟩ := pickFree_spec hi
  refine ⟨by omega, by omega, ?_⟩
  by_contra hlive
  refine hfree (List.mem_map.2 ⟨(i + 1, s.qp (i + 1)), List.mem_filter.2 ⟨mem_of_tget_ne _ fun he => hlive ?_, ?_⟩, rfl⟩)
  · exact congrArg QP.mode he
  · simp [hlive]

theorem dropQp_absent (h : (s.qp n).mode = .absent) : s.dropQp n = s := by
  rw [State.dropQp]
  exact if_pos h

/-- A queue pair that is not ABSENT is deleted: its commands complete to nobody, and its tenant owns one fewer. -/
theorem dropQp_live (hs : RegsOk s) (h : (s.qp n).mode ≠ .absent) : ∃ rs : Tab Word, s.dropQp n = { s with
      regs := rs
      quay := { s.quay with qps := tsetD {} s.quay.qps n {}, cmds := mapIf (·.qp = n) (fun c => { c with qp := noQp }) s.quay.cmds } } ∧
    (n ≠ 0 → ({ s with regs := rs } : State).fld (.tnCfg (s.qp n).tenant) TN_CFG_QPS = s.fld (.tnCfg (s.qp n).tenant) TN_CFG_QPS - 1) ∧
    RegsOk { s with regs := rs } ∧ RegsBut [.tnCfg (s.qp n).tenant, .qStat] s { s with regs := rs } := by
  have hdrop : s.dropQp n = State.qStat (if n = 0 then { s with quay := { s.quay with
      qps := tsetD {} s.quay.qps n {}, cmds := mapIf (·.qp = n) (fun c => { c with qp := noQp }) s.quay.cmds } } else
      ({ s with quay := { s.quay with
        qps := tsetD {} s.quay.qps n {}, cmds := mapIf (·.qp = n) (fun c => { c with qp := noQp }) s.quay.cmds } } : State).setFld
      (.tnCfg (s.qp n).tenant) TN_CFG_QPS (s.fld (.tnCfg (s.qp n).tenant) TN_CFG_QPS - 1)) := by
    rw [State.dropQp]
    exact if_neg h
  generalize { s.quay with qps := tsetD {} s.quay.qps n {}, cmds := mapIf (·.qp = n) (fun c => { c with qp := noQp }) s.quay.cmds } = y at hdrop ⊢
  by_cases h0 : n = 0
  · rw [if_pos h0] at hdrop
    obtain ⟨rs, heq, hok, hbut⟩ := qStat_spec (s := { s with quay := y }) hs
    exact ⟨rs, hdrop.trans heq, fun hne => absurd h0 hne, hok, regsBut_mono hbut (by simp)⟩
  · rw [if_neg h0] at hdrop
    have hlt : s.fld (.tnCfg (s.qp n).tenant) TN_CFG_QPS - 1 < 2 ^ TN_CFG_QPS.w :=
      Nat.lt_of_le_of_lt (Nat.sub_le ..) (State.fld_lt s (.tnCfg (s.qp n).tenant) TN_CFG_QPS)
    obtain ⟨rs, hset, hok, hself, -, hbut⟩ := setFld_spec (s := { s with quay := y }) hs (.tnCfg (s.qp n).tenant) TN_CFG_QPS
      (s.fld (.tnCfg (s.qp n).tenant) TN_CFG_QPS - 1) (by decide)
    rw [Nat.mod_eq_of_lt hlt] at hself
    rw [hset] at hdrop
    obtain ⟨rs2, heq, hok2, hstat⟩ := qStat_spec (s := { s with regs := rs, quay := y }) hok
    refine ⟨rs2, hdrop.trans heq, fun _ => ?_, hok2, regsBut_trans (regsBut_mono hbut (by simp)) (regsBut_mono hstat (by simp))⟩
    exact (fld_of_regsBut hstat (by simpa using regOff_tnCfg_ne_qStat _) _).trans hself

/-- What deleting queue pairs keeps: all but the queue pairs, the commands' destinations and the counts that show them. -/
structure QpsDropped (s t : State) : Prop where
  frame : t = { s with regs := t.regs, quay := { s.quay with qps := t.quay.qps, cmds := t.quay.cmds } }
  en : t.flag .qCtl Q_CTL_EN = s.flag .qCtl Q_CTL_EN
  ok : RegsOk t
  wf : twf (fun _ => ({} : QP)) t.quay.qps = true
  gone : ∀ k, (s.qp k).mode = .absent → (t.qp k).mode = .absent

theorem QpsDropped.trans {t u : State} (h : QpsDropped s t) (g : QpsDropped t u) : QpsDropped s u where
  frame := by
    rw [g.frame]
    generalize u.regs = rs, u.quay.qps = qs, u.quay.cmds = cs
    rw [h.frame]
  en := g.en.trans h.en
  ok := g.ok
  wf := g.wf
  gone k hk := g.gone k (h.gone k hk)

theorem qpsDropped_dropQp (hs : RegsOk s) (hw : twf (fun _ => ({} : QP)) s.quay.qps = true) (n : Nat) :
    QpsDropped s (s.dropQp n) ∧ ((s.dropQp n).qp n).mode = .absent := by
  by_cases h : (s.qp n).mode = .absent
  · rw [dropQp_absent h]
    exact ⟨⟨rfl, rfl, hs, hw, fun _ hk => hk⟩, h⟩
  · obtain ⟨rs, heq, -, hok, hbut⟩ := dropQp_live hs h
    rw [heq]
    have hself : tgetD ({} : QP) (tsetD {} s.quay.qps n {}) n = {} := tget_tset_self _ _ _ _ hw
    refine ⟨⟨rfl, ?_, hok, twf_tset (fun _ => ({} : QP)) s.quay.qps n {} hw, fun k hk => ?_⟩, congrArg QP.mode hself⟩
    · exact flag_of_regsBut hbut (by simpa using ⟨regOff_tnCfg_ne_qCtl _, by decide⟩) _
    · by_cases hkn : k = n
      · subst hkn
        exact congrArg QP.mode hself
      · exact (congrArg QP.mode (tget_tset_ne (fun _ => ({} : QP)) s.quay.qps {} hkn)).trans hk

theorem qpsDropped_dropAll {l : List Nat} : ∀ {s : State}, RegsOk s → twf (fun _ => ({} : QP)) s.quay.qps = true →
    QpsDropped s (l.foldl State.dropQp s) ∧ ∀ k ∈ l, ((l.foldl State.dropQp s).qp k).mode = .absent := by
  induction l with
  | nil => exact fun hs hw => ⟨⟨rfl, rfl, hs, hw, fun _ hk => hk⟩, fun _ hk => absurd hk List.not_mem_nil⟩
  | cons n l ih =>
    intro s hs hw
    obtain ⟨hone, habsent⟩ := qpsDropped_dropQp hs hw n
    obtain ⟨hrest, hall⟩ := ih hone.ok hone.wf
    refine ⟨hone.trans hrest, fun k hk => ?_⟩
    rcases List.mem_cons.1 hk with rfl | hk
    · exact hrest.gone k habsent
    · exact hall k hk

/-- After all are deleted every queue pair is ABSENT: those not listed were. -/
theorem dropAllQps_spec (hs : RegsOk s) (hw : twf (fun _ => ({} : QP)) s.quay.qps = true) :
    QpsDropped s s.dropAllQps ∧ ∀ k, (s.dropAllQps.qp k).mode = .absent := by
  obtain ⟨hdrop, hall⟩ := qpsDropped_dropAll (l := s.quay.qps.map (·.1)) hs hw
  refine ⟨hdrop, fun k => ?_⟩
  by_cases hk : (s.qp k).mode = .absent
  · exact hdrop.gone k hk
  · exact hall k (List.mem_map.2 ⟨_, mem_of_tget_ne _ fun he => hk (congrArg QP.mode he), rfl⟩)

/-- A queue pair without commands in flight has none to hand on. -/
theorem mapIf_idle {cs : List Cmd} {m : Nat} {f : Cmd → Cmd} (h : (cs.filter (·.qp = m)).length = 0) : mapIf (·.qp = m) f cs = cs := by
  have hnone := List.filter_eq_nil_iff.1 (List.length_eq_zero_iff.1 h)
  exact (List.map_congr_left fun c hc => if_neg (hnone c hc)).trans (List.map_id _)

theorem length_filter_mapIf {cs : List Cmd} {p : Cmd → Bool} {f : Cmd → Cmd} (hf : ∀ c, (f c).qp = c.qp) (m : Nat) :
    ((mapIf p f cs).filter (·.qp = m)).length = (cs.filter (·.qp = m)).length := by
  rw [mapIf, List.filter_map, List.length_map]
  refine congrArg (fun q : Cmd → Bool => (cs.filter q).length) (funext fun c => ?_)
  show decide ((if p c then f c else c).qp = m) = decide (c.qp = m)
  split
  · rw [hf]
  · rfl

/-- What is set last of one command stands. -/
theorem mapIf_mapIf {cs : List Cmd} {n : Nat} {f g : Cmd → Cmd} (hf : ∀ c, (f c).n = c.n) (hg : ∀ c, g (f c) = g c) :
    mapIf (·.n = n) g (mapIf (·.n = n) f cs) = mapIf (·.n = n) g cs := by
  rw [mapIf, mapIf, mapIf, List.map_map]
  refine List.map_congr_left fun c _ => ?_
  show (if decide ((if decide (c.n = n) = true then f c else c).n = n) = true then g _ else _) = _
  by_cases hc : c.n = n
  · simp [hc, hf, hg]
  · simp [hc]

end Sys2Proof.Proofs.QueuePairsMadeAndDeleted

namespace Sys2Proof.Proofs.QueuePairsMadeAndDeleted

open Sys2Proof Sys2Proof.Machine Sys2Proof.Safety Sys2Proof.Proofs.RaisedCauses
open Sys2Proof.Proofs.SketchRegionsTideAndTemperature (regsBut_trans regsBut_of_regs regsBut_mono fld_of_regsBut flag_of_regsBut raised_raiseRec)

variable {s : State} {c : Cmd} {n m : Nat}

/-- The parameters of CREATE_QP are good (13 R293). -/
structure GoodQp (s : State) (c : Cmd) : Prop where
  part : c.fld 65 1 < 64
  on : s.partOn (c.fld 65 1) = true
  sqBase : c.fld 40 8 % 4096 = 0
  cqBase : c.fld 48 8 % 4096 = 0
  sqDepth : c.fld 56 2 ≠ 0
  cqDepth : c.fld 58 2 ≠ 0
  vec : c.fld 60 2 ≤ 2047
  ver : c.fld 64 1 = 1 ∨ c.fld 64 1 = 2
  tenant : c.fld 66 2 ≤ 1023
  owned : s.tenantOk (c.fld 66 2) (c.fld 65 1) = true

/-- The queue pair that CREATE_QP asks for, when its number is `m`. -/
def askedQp (s : State) (c : Cmd) (m : Nat) : QP :=
  { mode := .active, tenant := c.fld 66 2, part := c.fld 65 1, ver := c.fld 64 1, sqBase := c.fld 40 8, cqBase := c.fld 48 8,
    sqDepth := c.fld 56 2 + 1, cqDepth := c.fld 58 2 + 1, vec := c.fld 60 2, icount := c.fld 62 1, itime := c.fld 63 1,
    defers := tgetD [] s.coll.defers m, born := s.quay.nextCmd }

theorem createQp_far (h : 63 < c.fld 65 1) : s.createQp c = s.finish c.n stInvalidParameter 0 0 [] := by
  rw [State.createQp]
  exact if_pos h

theorem createQp_off (hp : c.fld 65 1 < 64) (h : s.partOn (c.fld 65 1) = false) : s.createQp c = s.finish c.n stPartitionOff 0 0 [] := by
  rw [State.createQp]
  exact (if_neg (by omega)).trans (if_pos h)

theorem createQp_bad (hon : s.partOn (c.fld 65 1) = true) (h : c.fld 40 8 % 4096 ≠ 0 ∨ c.fld 48 8 % 4096 ≠ 0 ∨ c.fld 56 2 = 0 ∨ c.fld 58 2 = 0 ∨
    2047 < c.fld 60 2 ∨ (c.fld 64 1 ≠ 1 ∧ c.fld 64 1 ≠ 2) ∨ 1023 < c.fld 66 2 ∨ s.tenantOk (c.fld 66 2) (c.fld 65 1) = false) :
    s.createQp c = s.finish c.n stInvalidParameter 0 0 [] := by
  rw [State.createQp]
  by_cases hp : 63 < c.fld 65 1
  · exact if_pos hp
  · exact (if_neg hp).trans ((if_neg (by simp [hon])).trans (if_pos h))

theorem createQp_good (h : GoodQp s c) : s.createQp c = match s.freeQp with
    | none => s.finish c.n stCapacity 0 0 []
    | some m => (((({ s with coll := { s.coll with defers := tsetD [] s.coll.defers m [] } } : State).drew.setQp m (askedQp s c m)).setFld
        (.tnCfg (c.fld 66 2)) TN_CFG_QPS (s.fld (.tnCfg (c.fld 66 2)) TN_CFG_QPS + 1)).qStat).finish c.n stSuccess m 0 [] := by
  obtain ⟨hp, hon, h40, h48, h56, h58, h60, h64, h66, hten⟩ := h
  have hgood : ¬ (c.fld 40 8 % 4096 ≠ 0 ∨ c.fld 48 8 % 4096 ≠ 0 ∨ c.fld 56 2 = 0 ∨ c.fld 58 2 = 0 ∨ 2047 < c.fld 60 2 ∨
      (c.fld 64 1 ≠ 1 ∧ c.fld 64 1 ≠ 2) ∨ 1023 < c.fld 66 2 ∨ s.tenantOk (c.fld 66 2) (c.fld 65 1) = false) := by
    rw [hten]
    simp only [reduceCtorEq, or_false]
    omega
  rw [State.createQp]
  refine (if_neg (by omega)).trans ((if_neg (by simp [hon])).trans ((if_neg hgood).trans ?_))
  cases s.freeQp <;> rfl

theorem createQp_full (h : GoodQp s c) (hfull : s.freeQp = none) : s.createQp c = s.finish c.n stCapacity 0 0 [] := by
  rw [createQp_good h, hfull]

/-- A queue pair is made under a free number, and its tenant owns one more. -/
theorem createQp_made (hs : RegsOk s) (h : GoodQp s c) (hm : s.freeQp = some m) : ∃ rs : Tab Word,
    s.createQp c = ({ s with
      regs := rs, fresh := s.fresh + 1, coll := { s.coll with defers := tsetD [] s.coll.defers m [] }
      quay := { s.quay with qps := tsetD {} s.quay.qps m (askedQp s c m) } } : State).finish c.n stSuccess m 0 [] ∧
    ({ s with regs := rs } : State).fld (.tnCfg (c.fld 66 2)) TN_CFG_QPS = (s.fld (.tnCfg (c.fld 66 2)) TN_CFG_QPS + 1) % 2 ^ 13 ∧
    RegsBut [.tnCfg (c.fld 66 2), .qStat] s { s with regs := rs } := by
  rw [createQp_good h, hm]
  obtain ⟨rs, hset, hok, hself, -, hbut⟩ := setFld_spec (s := { s with
      fresh := s.fresh + 1, coll := { s.coll with defers := tsetD [] s.coll.defers m [] }
      quay := { s.quay with qps := tsetD {} s.quay.qps m (askedQp s c m) } }) hs (.tnCfg (c.fld 66 2)) TN_CFG_QPS
      (s.fld (.tnCfg (c.fld 66 2)) TN_CFG_QPS + 1) (by decide)
  obtain ⟨rs2, hstat, -, hbut2⟩ := qStat_spec hok
  exact ⟨rs2, congrArg (State.finish · c.n stSuccess m 0 []) ((congrArg State.qStat hset).trans hstat),
    (fld_of_regsBut hbut2 (by simpa using regOff_tnCfg_ne_qStat _) _).trans hself,
    regsBut_trans (regsBut_mono hbut (by simp)) (regsBut_mono hbut2 (by simp))⟩

theorem deleteQp_range (h : c.fld 40 2 = 0 ∨ 4095 < c.fld 40 2) : s.deleteQp c = s.finish c.n stInvalidParameter 0 0 [] := by
  rw [State.deleteQp]
  exact if_pos h

theorem deleteQp_mode (h : 1 ≤ c.fld 40 2 ∧ c.fld 40 2 ≤ 4095) : s.deleteQp c = match (s.qp (c.fld 40 2)).mode with
    | .absent => s.finish c.n stNoObject 0 0 []
    | .draining => s.finish c.n stBusy 0 0 []
    | .error => if (s.qp (c.fld 40 2)).delBy.isSome then s.finish c.n stBusy 0 0 [] else (s.dropQp (c.fld 40 2)).finish c.n stSuccess 0 0 []
    | .active => (((s.setQp (c.fld 40 2) { s.qp (c.fld 40 2) with mode := .draining, delBy := some c.n }).qStat).setCmd c.n fun c =>
        { c with st := .running }).settleDrain (c.fld 40 2) := by
  rw [State.deleteQp]
  refine (if_neg (by omega)).trans ?_
  cases (s.qp (c.fld 40 2)).mode <;> rfl

theorem settleDrain_kept {d : Nat} (hd : (s.qp n).delBy = some d) (h : s.qpInflight n ≠ 0) : s.settleDrain n = s := by
  rw [State.settleDrain, hd]
  exact if_neg h

theorem settleDrain_idle {d : Nat} (hd : (s.qp n).delBy = some d) (h : s.qpInflight n = 0) :
    s.settleDrain n = (s.dropQp n).finish d stSuccess 0 0 [] := by
  rw [State.settleDrain, hd]
  exact if_pos h

/-- DELETE_QP of an ACTIVE pair begins its drain. -/
def drainedQp (s : State) (c : Cmd) : QP := { s.qp (c.fld 40 2) with mode := .draining, delBy := some c.n }

/-- The state in which an ACTIVE pair's drain has begun, Q_STAT being among the registers `rs`. -/
def drains (s : State) (c : Cmd) (rs : Tab Word) : State := { s with
  regs := rs
  quay := { s.quay with
    qps := tsetD {} s.quay.qps (c.fld 40 2) (drainedQp s c)
    cmds := mapIf (·.n = c.n) (fun c => { c with st := .running }) s.quay.cmds } }

theorem deleteQp_drains (hs : RegsOk s) (h : 1 ≤ c.fld 40 2 ∧ c.fld 40 2 ≤ 4095) (hm : (s.qp (c.fld 40 2)).mode = .active) : ∃ rs : Tab Word,
    s.deleteQp c = (drains s c rs).settleDrain (c.fld 40 2) ∧ RegsOk { s with regs := rs } ∧ RegsBut [.qStat] s { s with regs := rs } := by
  rw [deleteQp_mode h, hm]
  obtain ⟨rs, hstat, hok, hbut⟩ := qStat_spec (s := s.setQp (c.fld 40 2) (drainedQp s c)) hs
  exact ⟨rs, congrArg (fun u : State => (u.setCmd c.n fun c => { c with st := .running }).settleDrain (c.fld 40 2)) hstat, hok, hbut⟩

theorem qp_drains (s : State) (c : Cmd) (rs : Tab Word) : (drains s c rs).qp (c.fld 40 2) = drainedQp s c :=
  tget_tset_kept (fun _ => ({} : QP)) s.quay.qps (c.fld 40 2) (drainedQp s c) fun he => QpMode.noConfusion (congrArg QP.mode he)

theorem qpInflight_drains (s : State) (c : Cmd) (rs : Tab Word) (m : Nat) : (drains s c rs).qpInflight m = s.qpInflight m :=
  length_filter_mapIf (f := fun c => { c with st := .running }) (fun _ => rfl) m

theorem qpError_idle {cause : Nat} (h : (s.qp n).mode = .absent ∨ (s.qp n).mode = .error) : s.qpError n cause = s := by
  rw [State.qpError]
  refine if_neg ?_
  rcases h with h | h <;> simp [h]

theorem wrQctl_en (hup : s.quayUp = true) (en : Bool) : s.wrQctl .whole (if en then 1 else 0) = s.qEnable en := by
  rw [State.wrQctl, if_neg (by simp [hup])]
  cases en
  · exact (if_neg (by decide)).trans (if_pos (by decide))
  · exact (if_neg (by decide)).trans (if_pos (by decide))

theorem wrQctl_sreset (hup : s.quayUp = true) : s.wrQctl .whole 2 = s.qReset := by
  rw [State.wrQctl, if_neg (by simp [hup])]
  exact if_pos (by decide)

theorem wrQctl_idle {en : Bool} (h : s.quayUp = false ∨ s.flag .qCtl Q_CTL_EN = en) : s.wrQctl .whole (if en then 1 else 0) = s := by
  by_cases hup : s.quayUp = true
  · have hen : s.flag .qCtl Q_CTL_EN = en := h.resolve_left (by simp [hup])
    rw [wrQctl_en hup, State.qEnable, hen]
    cases en <;> rfl
  · rw [State.wrQctl, if_pos (by simpa using hup)]

end Sys2Proof.Proofs.QueuePairsMadeAndDeleted

section

open Sys2Proof Sys2Proof.Machine Sys2Proof.Safety Sys2Proof.Proofs.QueuePairsMadeAndDeleted Sys2Proof.Proofs.RaisedCauses
open Sys2Proof.Proofs.PowerAndTokens (flag_of_fld)
open Sys2Proof.Proofs.SketchRegionsTideAndTemperature (regsBut_trans regsBut_of_regs regsBut_mono fld_of_regsBut flag_of_regsBut raised_raiseRec raise_silent)
open Sys2Proof.Proofs.RankingModelsAndTables (exec_onCmd exec_ends)

/-- Settles O24, a clause for each answer of CREATE_QP and DELETE_QP, and one for each write of Q_CTL. -/
theorem queuePairsAndTheEngine : Obligations.QueuePairsAndTheEngine := by
  unfold Obligations.QueuePairsAndTheEngine
  refine ⟨fun s n c hc hn hp hoff => ?_, fun s n m c hs hc hn hp hon h40 h48 h56 h58 h60 h64 h66 hten hm => ?_, fun s n st c hc hn hbad => ?_,
    fun s n m c hs hw hc hn hm h1 h2 hact hidle => ?_, fun s n m c hs hc hn hm h1 h2 hact hbusy => ?_, fun s n m st c hc hn hm hbad => ?_,
    fun s n cause hs hm => ?_, fun s n cause hm => ?_, fun s en h => ?_, fun s hs _ hup hen => ?_, fun s hs hw hup hen => ?_⟩
  · exact exec_ends hc hn (createQp_off hp hoff)
  · subst hn
    obtain ⟨hlo, hhi, habsent⟩ := freeQp_spec hm
    obtain ⟨rs, hmade, hqps, hbut⟩ := createQp_made hs ⟨hp, hon, h40, h48, h56, h58, h60, h64, h66, hten⟩ hm
    have hself : tgetD ({} : QP) (tsetD {} s.quay.qps m (askedQp s c m)) m = askedQp s c m :=
      tget_tset_kept _ _ _ _ fun he => QpMode.noConfusion (congrArg QP.mode he)
    exact ⟨_, exec_onCmd hc hmade, hlo, hhi, habsent, congrArg QP.mode hself, congrArg QP.tenant hself, congrArg QP.part hself,
      congrArg QP.sqDepth hself, congrArg QP.cqDepth hself, congrArg QP.sqBase hself, congrArg QP.cqBase hself, congrArg QP.vec hself,
      fun k hk => qp_of_qps (q := askedQp s c m) rfl hk, hqps, rfl, hbut, rfl, rfl⟩
  · rcases hbad with ⟨rfl, hp | ⟨hon, hbad⟩⟩ | ⟨rfl, hfull, hp, hon, h40, h48, h56, h58, h60, h64, h66, hten⟩
    · exact exec_ends hc hn (createQp_far hp)
    · exact exec_ends hc hn (createQp_bad hon hbad)
    · exact exec_ends hc hn (createQp_full ⟨hp, hon, h40, h48, h56, h58, h60, h64, h66, hten⟩ hfull)
  · subst hm hn
    obtain ⟨rs, hdrain, hok, hbut⟩ := deleteQp_drains hs ⟨h1, h2⟩ hact
    have hqp := qp_drains s c rs
    have hempty := (qpInflight_drains s c rs (c.fld 40 2)).trans hidle
    obtain ⟨rs2, hdrop, hqps, -, hbut2⟩ := dropQp_live (s := drains s c rs) hok (n := c.fld 40 2) (by rw [hqp]; exact QpMode.noConfusion)
    rw [settleDrain_idle (by rw [hqp]; rfl) hempty, hdrop] at hdrain
    rw [hqp] at hqps hbut2
    refine ⟨_, exec_onCmd hc hdrain, ?_, fun k hk => ?_, ?_, ?_, regsBut_trans (regsBut_mono hbut (by simp)) hbut2, rfl, rfl⟩
    · exact congrArg QP.mode (tget_tset_self (fun _ => ({} : QP)) _ (c.fld 40 2) {} (twf_tset _ s.quay.qps (c.fld 40 2) (drainedQp s c) hw))
    · exact (tget_tset_ne (fun _ => ({} : QP)) (tsetD {} s.quay.qps (c.fld 40 2) (drainedQp s c)) {} hk).trans (tget_tset_ne (fun _ => ({} : QP)) s.quay.qps (drainedQp s c) hk)
    · exact (hqps (by omega)).trans (congrArg (· - 1) (fld_of_regsBut hbut (by simpa using regOff_tnCfg_ne_qStat _) _))
    · show mapIf _ _ (mapIf _ _ (drains s c rs).quay.cmds) = _
      rw [mapIf_idle hempty]
      exact mapIf_mapIf (f := fun c => { c with st := .running }) (fun _ => rfl) fun _ => rfl
  · subst hm hn
    obtain ⟨rs, hdrain, -, hbut⟩ := deleteQp_drains hs ⟨h1, h2⟩ hact
    have hqp := qp_drains s c rs
    rw [settleDrain_kept (congrArg QP.delBy hqp) fun h => hbusy ((qpInflight_drains s c rs _).symm.trans h)] at hdrain
    exact ⟨_, exec_onCmd hc hdrain, congrArg QP.mode hqp, congrArg QP.delBy hqp, fun k hk => qp_of_qps (q := drainedQp s c) rfl hk, rfl, hbut, rfl⟩
  · subst hm
    rcases hbad with ⟨rfl, h⟩ | ⟨rfl, h1, h2, hmode⟩ | ⟨rfl, h1, h2, hmode⟩
    · exact exec_ends hc hn (deleteQp_range h)
    · exact exec_ends hc hn ((deleteQp_mode ⟨h1, h2⟩).trans (by rw [hmode]))
    · exact exec_ends hc hn ((deleteQp_mode ⟨h1, h2⟩).trans (by rw [hmode]))
  · have hself : tgetD ({} : QP) (tsetD {} s.quay.qps n { s.qp n with mode := .error, defers := [] }) n = { s.qp n with mode := .error, defers := [] } :=
      tget_tset_kept _ _ _ _ fun he => QpMode.noConfusion (congrArg QP.mode he)
    obtain ⟨rs, hstat, -, hbut, hrdy⟩ := qStat_rdy (s := s.setQp n { s.qp n with mode := .error, defers := [] }) hs
    have herr : s.qpError n cause = ({ s.setQp n { s.qp n with mode := .error, defers := [] } with regs := rs } : State).raise (s.qpLog n) srcQuay 0x0703
        (leBytes 2 n ++ leBytes 2 cause) := by
      rw [State.qpError, ← hstat]
      exact if_pos hm
    rw [raise_silent rfl] at herr
    refine ⟨_, congrArg Host.Outcome.next herr, congrArg QP.mode hself, fun k hk => qp_of_qps (q := { s.qp n with mode := .error, defers := [] }) rfl hk, raised_raiseRec rfl rfl _ _ _ _, fun h0 => ?_, hbut, rfl⟩
    subst h0
    exact hrdy.trans (decide_eq_false fun h => QpMode.noConfusion ((congrArg QP.mode hself).symm.trans h))
  · exact congrArg Host.Outcome.next (qpError_idle hm)
  · exact congrArg Host.Outcome.next (wrQctl_idle h)
  · obtain ⟨rs, hset, hok, hself, -, hbut⟩ := setFld_spec hs .qCtl Q_CTL_EN 1 (by decide)
    obtain ⟨rs2, hstat, -, hbut2, hrdy⟩ := qStat_rdy (s := { s with regs := rs, quay := { s.quay with qps := tsetD {} s.quay.qps 0 s.adminQp } }) hok
    have hqp : tgetD ({} : QP) (tsetD {} s.quay.qps 0 s.adminQp) 0 = s.adminQp :=
      tget_tset_kept _ _ _ _ fun he => QpMode.noConfusion (congrArg QP.mode he)
    have hrun : s.wrQctl .whole (if true then 1 else 0) = State.qStat ((s.setFld .qCtl Q_CTL_EN 1).setQp 0 s.adminQp) := by
      rw [wrQctl_en hup, State.qEnable]
      exact if_pos ⟨rfl, by simp [hen]⟩
    rw [hset] at hrun
    exact ⟨_, congrArg Host.Outcome.next (hrun.trans hstat), (flag_of_regsBut hbut2 (by decide) _).trans (flag_of_fld (b := true) hself),
      hrdy.trans (decide_eq_true (congrArg QP.mode hqp)), congrArg QP.mode hqp, congrArg QP.sqBase hqp, congrArg QP.cqBase hqp,
      congrArg QP.sqDepth hqp, congrArg QP.cqDepth hqp, congrArg QP.ver hqp, congrArg QP.vec hqp, fun k hk => qp_of_qps (q := s.adminQp) rfl hk,
      regsBut_trans (regsBut_mono hbut (by simp)) (regsBut_mono hbut2 (by simp)), rfl⟩
  · obtain ⟨rs, hset, hok, hself, -, -⟩ := setFld_spec hs .qCtl Q_CTL_EN 0 (by decide)
    have hreset : s.wrQctl .whole 2 = (s.setFld .qCtl Q_CTL_EN 0).dropAllQps := wrQctl_sreset hup
    have hclear : s.wrQctl .whole (if false then 1 else 0) = (s.setFld .qCtl Q_CTL_EN 0).dropAllQps := by
      rw [wrQctl_en hup, State.qEnable]
      exact (if_neg (by simp)).trans (if_pos ⟨by simp, hen⟩)
    rw [hset] at hreset hclear
    obtain ⟨hdrop, hall⟩ := dropAllQps_spec (s := { s with regs := rs }) hok hw
    exact ⟨_, congrArg Host.Outcome.next hclear, congrArg Host.Outcome.next hreset, hdrop.en.trans (flag_of_fld (b := false) hself), hall, hdrop.frame⟩

end

/-! Doorbells, the fetch of an entry and the messages of vectors (13 R291-R300, R307). -/

namespace Sys2Proof.Proofs.DoorbellsAndFetch

open Sys2Proof Sys2Proof.Machine Sys2Proof.Safety Sys2Proof.Proofs.RaisedCauses Sys2Proof.Proofs.RegisterWrites
open Sys2Proof.Proofs.PowerAndTokens (flag_of_fld)
open Sys2Proof.Proofs.SketchRegionsTideAndTemperature (regsBut_trans regsBut_of_regs regsBut_mono fld_of_regsBut flag_of_regsBut reg_of_regsBut)
open Sys2Proof.Proofs.QueriesAndTheirCompletions (qp_setQp_self_of_active qp_setQp_ne)

variable {s : State} {n v : Nat}

/-! ### Doorbells -/

theorem sqDoorbell_moves (hact : (s.qp n).mode = .active) (hv : v < (s.qp n).sqDepth) (hahead : ((s.qp n).tail + (s.qp n).sqDepth - (s.qp n).fetch) %
    (s.qp n).sqDepth ≤ (v + (s.qp n).sqDepth - (s.qp n).fetch) % (s.qp n).sqDepth) :
    (s.sqDoorbell n v).qp n = { s.qp n with tail := v } ∧ (∀ m, m ≠ n → (s.sqDoorbell n v).qp m = s.qp m) ∧
      s.sqDoorbell n v = { s with quay := { s.quay with qps := (s.sqDoorbell n v).quay.qps } } := by
  have hmoves : s.sqDoorbell n v = if v = (s.qp n).tail then s else s.setQp n { s.qp n with tail := v } :=
    (if_neg (by simp [hact, hv])).trans (by rw [if_pos hahead])
  rw [hmoves]
  by_cases ht : v = (s.qp n).tail
  · rw [if_pos ht, ht]
    exact ⟨rfl, fun _ _ => rfl, rfl⟩
  · rw [if_neg ht]
    exact ⟨qp_setQp_self_of_active hact, fun m hm => qp_setQp_ne s _ hm, rfl⟩

theorem sqDoorbell_invalid (h : (s.qp n).mode ≠ .active ∨ (s.qp n).sqDepth ≤ v ∨ (v + (s.qp n).sqDepth - (s.qp n).fetch) % (s.qp n).sqDepth <
    ((s.qp n).tail + (s.qp n).sqDepth - (s.qp n).fetch) % (s.qp n).sqDepth) : s.sqDoorbell n v = s.dbInvalid n v 0 := by
  rw [State.sqDoorbell]
  by_cases hno : (s.qp n).mode ≠ .active ∨ (s.qp n).sqDepth ≤ v
  · exact if_pos hno
  · have hbehind := h.resolve_left fun hm => hno (.inl hm)
    have hless := hbehind.resolve_left fun hv => hno (.inr hv)
    have hne : v ≠ (s.qp n).tail := by
      rintro rfl
      exact Nat.lt_irrefl _ hless
    exact (if_neg hno).trans ((if_neg hne).trans (if_neg (Nat.not_le.2 hless)))

theorem cqDoorbell_moves (hact : (s.qp n).mode = .active) (hv : v < (s.qp n).cqDepth) (hahead : (v + (s.qp n).cqDepth - (s.qp n).head) %
    (s.qp n).cqDepth ≤ (s.qp n).unconsumed) : s.cqDoorbell n v = s.setQp n { s.qp n with head := v } := by
  rw [State.cqDoorbell]
  exact (if_neg (by simp [hact, hv])).trans (if_pos hahead)

theorem cqDoorbell_invalid (h : (s.qp n).mode ≠ .active ∨ (s.qp n).cqDepth ≤ v ∨ (s.qp n).unconsumed < (v + (s.qp n).cqDepth - (s.qp n).head) %
    (s.qp n).cqDepth) : s.cqDoorbell n v = s.dbInvalid n v 1 := by
  rw [State.cqDoorbell]
  by_cases hno : (s.qp n).mode ≠ .active ∨ (s.qp n).cqDepth ≤ v
  · exact if_pos hno
  · have hbehind := (h.resolve_left fun hm => hno (.inl hm)).resolve_left fun hv => hno (.inr hv)
    exact (if_neg hno).trans (if_neg (Nat.not_le.2 hbehind))

/-! ### The fetch -/

theorem active_of_turnOf (h : s.turnOf = some n) : (s.qp n).mode = .active := by
  have hfetch : s.fetchable n = true := by
    unfold State.turnOf at h
    split at h
    next h0 =>
      obtain rfl := Option.some.inj h
      exact h0
    next =>
      split at h
      next hturn =>
        obtain rfl := Option.some.inj h
        exact hturn.2.1
      next =>
        have hlive {m : Nat} (hm : m ∈ (s.quay.qps.map (·.1)).filter fun n => n ≠ 0 && s.fetchable n) : s.fetchable m = true := by
          obtain ⟨-, hb⟩ := List.mem_filter.1 hm
          exact (Bool.and_eq_true_iff.1 hb).2
        unfold State.nextTurn at h
        dsimp only at h
        split at h
        next m hfind =>
          obtain rfl := Option.some.inj h
          exact hlive (List.mem_of_find?_eq_some hfind)
        next => exact hlive (List.mem_of_head? h)
  unfold State.fetchable at hfetch
  simp only [Bool.and_eq_true, decide_eq_true_eq] at hfetch
  exact hfetch.1.1

/-- The entry that a queue pair of its OQI version reads from host memory. -/
def entryOf (s : State) (n : Nat) (raw : List Byte) : List Byte := bytesAt (raw.take (if (s.qp n).ver = 1 then 64 else 128)) 0 128

/-- The command that a fetch of queue pair `n` appends, before locks and read points are taken. -/
def fetchedCmd (s : State) (n : Nat) (entry payload : List Byte) (ok : Bool) : Cmd :=
  { n := s.quay.nextCmd, qp := n, cid := leAt entry 2 2, op := leAt entry 0 1, part := (s.qp n).part, tenant := (s.qp n).tenant, entry := entry,
    payload := payload.take (leAt entry 16 4), at_ := s.svcTime,
    st := match s.entryCheck n (s.qp n) entry with
      | some e => .done e 0 (if isDataWrite (leAt entry 0 1) ∧ e ≠ stInvalidOpcode then 0xFFFFFFFF else 0) []
      | none => if ok then .ready else .done stHostDma 0 0 [] }

/-- The state in which the command stands behind the others, and the fetch index is moved. -/
def withFetched (s : State) (n : Nat) (c : Cmd) : State := { s with quay := { s.quay with
  qps := tsetD {} s.quay.qps n { s.qp n with fetch := ((s.qp n).fetch + 1) % (s.qp n).sqDepth }
  cmds := s.quay.cmds ++ [c], nextCmd := s.quay.nextCmd + 1
  turn := if n = 0 then s.quay.turn else n
  taken := if n = 0 then s.quay.taken else if n = s.quay.turn then s.quay.taken + 1 else 1 } }

/-- The quay fetches from queue pair `n`: it serves, is not stopped, and it is `n`'s turn. -/
structure Fetches (s : State) (n : Nat) : Prop where
  up : s.quayUp = true
  running : s.quay.stopped = false
  power : s.flag .qStat Q_STAT_PLSTOP = false
  turn : s.turnOf = some n
  room : s.quay.cmds.length < 65536

variable {raw payload : List Byte} {ok : Bool}

theorem Fetches.not_idle (h : Fetches s n) : ¬ (s.quayUp = false ∨ s.quay.stopped ∨ s.flag .qStat Q_STAT_PLSTOP ∨ s.turnOf ≠ some n ∨ 65536 ≤ s.quay.cmds.length) := by
  obtain ⟨hup, hrun, hpower, hturn, hroom⟩ := h
  simp only [hup, hrun, hpower, hturn, ne_eq, not_true_eq_false, reduceCtorEq, false_or]
  omega

theorem fetch_appends (h : Fetches s n) (hfree : n = 0 ∨ s.writeHeld (leAt (entryOf s n raw) 0 1) = false) : s.fetch n raw payload ok =
    ((withFetched s n (fetchedCmd s n (entryOf s n raw) payload ok)).takeLock (fetchedCmd s n (entryOf s n raw) payload ok)).takeReadPoint
      (fetchedCmd s n (entryOf s n raw) payload ok) := by
  have hgo : ¬ (n ≠ 0 ∧ s.writeHeld (leAt (entryOf s n raw) 0 1) = true) := by
    rintro ⟨hn, hheld⟩
    exact absurd (hfree.resolve_left hn) (by simp [hheld])
  exact (if_neg h.not_idle).trans (if_neg hgo)

theorem fetch_held (h : Fetches s n) (hn : n ≠ 0) (hheld : s.writeHeld (leAt (entryOf s n raw) 0 1) = true) :
    s.fetch n raw payload ok = { s with quay := { s.quay with turn := n, taken := 8 } } :=
  (if_neg h.not_idle).trans (if_pos ⟨hn, hheld⟩)

theorem qp_withFetched (h : Fetches s n) (c : Cmd) :
    (withFetched s n c).qp n = { s.qp n with fetch := ((s.qp n).fetch + 1) % (s.qp n).sqDepth } :=
  tget_tset_kept (fun _ => ({} : QP)) s.quay.qps n _ fun he =>
    QpMode.noConfusion ((active_of_turnOf h.turn).symm.trans (congrArg QP.mode he : (s.qp n).mode = .absent))

theorem qp_withFetched_ne (c : Cmd) {m : Nat} (hm : m ≠ n) : (withFetched s n c).qp m = s.qp m :=
  tget_tset_ne (fun _ => ({} : QP)) s.quay.qps _ hm

theorem takeLock_read {c : Cmd} (h : isWriteOp c.op = false) : s.takeLock c = s := by
  rw [State.takeLock, if_neg (by simp [h])]

theorem takeReadPoint_other {c : Cmd} (h : c.op ≠ 0x40) : s.takeReadPoint c = s := by
  rw [State.takeReadPoint, if_neg h]

theorem isDataWrite_of_not_write {op : Nat} (h : isWriteOp op = false) : isDataWrite op = false := by
  simp only [isWriteOp, isDataWrite, Bool.or_eq_false_iff] at h ⊢
  exact h.1

theorem writeHeld_of_not_write {op : Nat} (h : isWriteOp op = false) : s.writeHeld op = false := by
  rw [State.writeHeld, h, isDataWrite_of_not_write h]
  rfl

/-- A change of the command that was appended last changes no other. -/
theorem mapIf_appended {cs : List Cmd} {c : Cmd} {f : Cmd → Cmd} (h : ∀ x ∈ cs, x.n ≠ c.n) : mapIf (·.n = c.n) f (cs ++ [c]) = cs ++ [f c] := by
  rw [mapIf, List.map_append]
  refine congr (congrArg _ ?_) (by simp)
  exact (List.map_congr_left fun x hx => if_neg (by simpa using h x hx)).trans (List.map_id _)

/-- The command itself, standing last, blocks nothing of its own. -/
theorem lockWaits_withFetched (c : Cmd) (l : RangeLock) : (withFetched s n c).lockWaits c.n c.qp l = s.lockWaits c.n c.qp l := by
  rw [State.lockWaits, State.lockWaits]
  show (s.quay.locks.any _ || (s.quay.cmds ++ [c]).any _) = _
  simp

theorem setCmd_withFetched {c : Cmd} (h : ∀ x ∈ s.quay.cmds, x.n ≠ c.n) (f : Cmd → Cmd) :
    (withFetched s n c).setCmd c.n f = withFetched s n (f c) := by
  rw [State.setCmd, withFetched, withFetched]
  simp only [mapIf_appended h]

/-- A fetched write as it stands once its lock is taken: it waits behind an overlap. -/
def lockedCmd (s : State) (c : Cmd) : Cmd :=
  { c with st := if c.st = .ready ∧ s.lockWaits c.n c.qp (lockOf c.n c.op c.entry) = true then .waiting else c.st }

/-- The lock stands behind the others. -/
def withLock (s : State) (l : RangeLock) : State := { s with quay := { s.quay with locks := s.quay.locks ++ [l] } }

/-- A fetched write takes its lock, and RLFULL shows a full table. -/
theorem takeLock_write {c : Cmd} (hs : RegsOk s) (hw : isWriteOp c.op = true) (hnew : ∀ x ∈ s.quay.cmds, x.n ≠ c.n) : ∃ rs : Tab Word,
    (withFetched s n c).takeLock c = { withLock (withFetched s n (lockedCmd s c)) (lockOf c.n c.op c.entry) with regs := rs } ∧
    (4095 ≤ s.quay.locks.length → ({ s with regs := rs } : State).flag .qStat Q_STAT_RLFULL = true) ∧ RegsBut [.qStat] s { s with regs := rs } := by
  have htake : (withFetched s n c).takeLock c = if 4096 ≤ (s.quay.locks ++ [lockOf c.n c.op c.entry]).length then
      (withLock (withFetched s n (lockedCmd s c)) (lockOf c.n c.op c.entry)).setFld .qStat Q_STAT_RLFULL 1 else
      withLock (withFetched s n (lockedCmd s c)) (lockOf c.n c.op c.entry) := by
    rw [State.takeLock, if_pos hw, lockedCmd]
    simp only [lockWaits_withFetched, setCmd_withFetched hnew]
    by_cases hwait : c.st = .ready ∧ s.lockWaits c.n c.qp (lockOf c.n c.op c.entry) = true
    · rw [if_pos hwait, if_pos hwait]
      rfl
    · rw [if_neg hwait, if_neg hwait]
      rfl
  rw [List.length_append] at htake
  obtain ⟨rs, hset, -, hself, -, hbut⟩ := setFld_spec (s := withLock (withFetched s n (lockedCmd s c)) (lockOf c.n c.op c.entry)) hs .qStat Q_STAT_RLFULL 1
    (by decide)
  by_cases hfull : 4095 ≤ s.quay.locks.length
  · rw [if_pos (by simpa using hfull), hset] at htake
    exact ⟨rs, htake, fun _ => flag_of_fld (b := true) hself, hbut⟩
  · rw [if_neg (by simpa using hfull)] at htake
    exact ⟨s.regs, htake, fun h => absurd h hfull, regsBut_of_regs _ rfl⟩

/-- A fetched query as it stands once its read point is taken, or is waited for. -/
def pointedCmd (s : State) (n : Nat) (c : Cmd) : Cmd :=
  { c with
    hold := (s.qp n).lastSeq
    rp := if (s.cpart c.part).applied < (s.qp n).lastSeq then none else some (s.cpart c.part).applied
    st := if (s.cpart c.part).applied < (s.qp n).lastSeq ∧ c.st = .ready then .waiting else c.st
    gen := match s.collOf c.object with
      | some k => k.live.num
      | none => 0
    tgen := (s.towersOf (c.fld 48 2)).live }

theorem takeReadPoint_query {c : Cmd} (h : Fetches s n) (hop : c.op = 0x40) (hqp : c.qp = n) (hnew : ∀ x ∈ s.quay.cmds, x.n ≠ c.n) :
    (withFetched s n c).takeReadPoint c = withFetched s n (pointedCmd s n c) := by
  subst hqp
  have hlast : ((withFetched s c.qp c).qp c.qp).lastSeq = (s.qp c.qp).lastSeq := by rw [qp_withFetched h]
  rw [State.takeReadPoint, if_pos hop]
  refine (setCmd_withFetched hnew _).trans (congrArg (withFetched s c.qp) ?_)
  simp only [hlast]
  rfl

/-! ### Vectors -/

/-- The mask bit is cleared, and the vector's data are kept. -/
theorem unmask_spec (hs : RegsOk s) (v : Nat) : ∃ rs : Tab Word, s.plainWrite (.msixData v) .high 0 = { s with regs := rs } ∧ RegsOk { s with regs := rs } ∧
    ({ s with regs := rs } : State).flag (.msixData v) MSIX_DATA_MASK = false ∧
    ({ s with regs := rs } : State).fld (.msixData v) MSIX_DATA_DATA = s.fld (.msixData v) MSIX_DATA_DATA ∧
    RegsBut [.msixData v] s { s with regs := rs } := by
  have htidy : MemoryErrorsTemperaturesAndFlash.tidy [MSIX_DATA_DATA, MSIX_DATA_MASK] = true := by decide
  have hmask := fld_plainWrite hs (r := .msixData v) (f := MSIX_DATA_MASK) htidy (List.mem_cons_of_mem _ List.mem_cons_self) .high 0
  have hdata := fld_plainWrite hs (r := .msixData v) (f := MSIX_DATA_DATA) htidy List.mem_cons_self .high 0
  have hhit : fhit (halfMask .high) MSIX_DATA_MASK = true := by decide
  have hmiss : fhit (halfMask .high) MSIX_DATA_DATA = false := by decide
  rw [writeFld, if_pos hhit] at hmask
  rw [writeFld, if_neg (by simp [hmiss])] at hdata
  have hclear := hmask.trans (fget_fput_self _ _ _ (by decide))
  have hok := regsOk_plainWrite hs (.msixData v) .high 0
  have hbut := regsBut_plainWrite s (.msixData v) .high 0
  obtain ⟨rs, heq⟩ := onlyRegs_plainWrite s (.msixData v) .high 0
  rw [heq] at hclear hdata hok hbut
  exact ⟨rs, heq, hok, flag_of_fld (b := false) hclear, hdata, hbut⟩

theorem regOff_msix_apart (v : Nat) : regOff (.msixAddr v) ≠ regOff (.msixData v) ∧
    (v < 2048 → regOff (.msixData v) ≠ regOff (.msixPba (v / 64)) ∧ regOff (.msixAddr v) ≠ regOff (.msixPba (v / 64))) := by
  simp only [regOff]
  omega

theorem wrMsixData_sends (h : s.flag (.msixData v) MSIX_DATA_MASK = true) {u : State} (hu : s.plainWrite (.msixData v) .high 0 = u)
    (hm : u.flag (.msixData v) MSIX_DATA_MASK = false) (hb : bitAt (u.reg (.msixPba (v / 64))).toNat (v % 64) = true) :
    s.wrMsixData v .high 0 = (u.setReg (.msixPba (v / 64)) (BitVec.ofNat 64 (putBits (u.reg (.msixPba (v / 64))).toNat (v % 64) 1 0))).msix v := by
  subst hu
  exact if_pos ⟨h, by simp [hm], hb⟩

theorem wrMsixData_quiet {u : State} (hu : s.plainWrite (.msixData v) .high 0 = u) (h : s.flag (.msixData v) MSIX_DATA_MASK = false ∨
    bitAt (u.reg (.msixPba (v / 64))).toNat (v % 64) = false) : s.wrMsixData v .high 0 = u := by
  subst hu
  refine if_neg ?_
  rintro ⟨hmask, -, hbit⟩
  rcases h with h | h
  · simp [h] at hmask
  · simp [h] at hbit

theorem bitAt_cleared (w : Word) (i : Nat) : bitAt (BitVec.ofNat 64 (putBits w.toNat i 1 0)).toNat i = false := by
  rw [BitVec.toNat_ofNat, bitAt, Nat.testBit_mod_two_pow, testBit_putBits]
  simp

end Sys2Proof.Proofs.DoorbellsAndFetch

section

open Sys2Proof Sys2Proof.Machine Sys2Proof.Safety Sys2Proof.Proofs.DoorbellsAndFetch Sys2Proof.Proofs.RaisedCauses Sys2Proof.Proofs.RegisterWrites
open Sys2Proof.Proofs.PowerAndTokens (flag_of_fld)
open Sys2Proof.Proofs.EventRecords (messaged_msix msix_frame)
open Sys2Proof.Proofs.QueuePairsMadeAndDeleted (qp_of_qps)
open Sys2Proof.Proofs.SketchRegionsTideAndTemperature (regsBut_trans regsBut_of_regs regsBut_mono fld_of_regsBut flag_of_regsBut reg_of_regsBut raised_raiseRec
  raise_silent)

/-- Settles O23, through what a fetch appends before the command takes its lock or its read point. -/
theorem doorbellsFetchAndInterrupts : Obligations.DoorbellsFetchAndInterrupts := by
  unfold Obligations.DoorbellsFetchAndInterrupts
  refine ⟨fun s n v hup hn hact hv hahead => ?_, fun s n v hup hn hact hv hahead => ?_, fun s n v hup hn h => ?_, fun s n v hup hn h => ?_,
    fun s n op raw payload entry ok hup hrun hpower hturn hroom hentry hop hread hquery => ?_,
    fun s n op raw payload entry ok hup hrun hpower hturn hroom hentry hop hwrite hfree hnew hs => ?_,
    fun s n op raw payload entry ok hup hrun hpower hturn hroom hentry hop hquery hnew => ?_,
    fun s n raw payload ok hup hrun hpower hturn hroom hn hheld => ?_, fun s n raw payload ok h => ?_, fun s n hs hlive hsince hdue => ?_, fun s n h => ?_,
    fun s v hs hup hv hmask hbit => ?_, fun s v hs hup hv hno => ?_⟩
  · exact ⟨_, congrArg Host.Outcome.next (if_pos ⟨hup, hn⟩), sqDoorbell_moves hact hv hahead⟩
  · refine ⟨_, congrArg Host.Outcome.next ((if_pos ⟨hup, hn⟩).trans (cqDoorbell_moves hact hv hahead)), ?_, fun m hm => ?_, rfl⟩
    · exact Sys2Proof.Proofs.QueriesAndTheirCompletions.qp_setQp_self_of_active hact
    · exact Sys2Proof.Proofs.QueriesAndTheirCompletions.qp_setQp_ne s _ hm
  · have hinvalid := (sqDoorbell_invalid h).trans (raise_silent rfl s (s.qpLog n) srcQuay (leBytes 2 n ++ leBytes 2 v ++ leBytes 1 0))
    exact ⟨_, congrArg Host.Outcome.next ((if_pos ⟨hup, hn⟩).trans hinvalid), raised_raiseRec rfl rfl _ _ _ _, rfl⟩
  · have hinvalid := (cqDoorbell_invalid h).trans (raise_silent rfl s (s.qpLog n) srcQuay (leBytes 2 n ++ leBytes 2 v ++ leBytes 1 1))
    exact ⟨_, congrArg Host.Outcome.next ((if_pos ⟨hup, hn⟩).trans hinvalid), raised_raiseRec rfl rfl _ _ _ _, rfl⟩
  · have hf : Fetches s n := ⟨hup, hrun, hpower, hturn, hroom⟩
    obtain rfl : entry = entryOf s n raw := hentry
    subst hop
    have hgo := fetch_appends (payload := payload) (ok := ok) hf (.inr (writeHeld_of_not_write hread))
    rw [takeLock_read (by exact hread), takeReadPoint_other hquery] at hgo
    refine ⟨_, congrArg Host.Outcome.next hgo, ?_, rfl, qp_withFetched hf _, rfl, fun m hm => qp_withFetched_ne _ hm, rfl⟩
    simp only [withFetched, fetchedCmd, isDataWrite_of_not_write hread]
    rfl
  · have hf : Fetches s n := ⟨hup, hrun, hpower, hturn, hroom⟩
    obtain rfl : entry = entryOf s n raw := hentry
    subst hop
    have hgo := fetch_appends (payload := payload) (ok := ok) hf hfree
    have hquery : leAt (entryOf s n raw) 0 1 ≠ 0x40 := fun h => by simp [h, isWriteOp] at hwrite
    obtain ⟨rs, htake, hfull, hbut⟩ := takeLock_write (n := n) (c := fetchedCmd s n (entryOf s n raw) payload ok) hs hwrite hnew
    rw [takeReadPoint_other hquery, htake] at hgo
    refine ⟨_, congrArg Host.Outcome.next hgo, ?_, rfl,
      qp_withFetched hf (lockedCmd s (fetchedCmd s n (entryOf s n raw) payload ok)), rfl, hfull,
      fun m hm => qp_withFetched_ne (lockedCmd s (fetchedCmd s n (entryOf s n raw) payload ok)) hm, hbut, rfl⟩
    show s.quay.cmds ++ [_] = s.quay.cmds ++ [_]
    rw [lockedCmd, fetchedCmd]
    cases hcheck : s.entryCheck n (s.qp n) (entryOf s n raw) with
    | some e => simp
    | none => cases ok <;> simp
  · have hf : Fetches s n := ⟨hup, hrun, hpower, hturn, hroom⟩
    obtain rfl : entry = entryOf s n raw := hentry
    subst hop
    have hdata : isWriteOp (leAt (entryOf s n raw) 0 1) = false := by rw [hquery]; rfl
    have hgo := fetch_appends (payload := payload) (ok := ok) hf (.inr (writeHeld_of_not_write hdata))
    rw [takeLock_read (by exact hdata), takeReadPoint_query hf hquery rfl hnew] at hgo
    refine ⟨_, congrArg Host.Outcome.next hgo, ?_, rfl, qp_withFetched hf _, rfl, fun m hm => qp_withFetched_ne _ hm, rfl⟩
    show s.quay.cmds ++ [_] = s.quay.cmds ++ [_]
    have hobj : (fetchedCmd s n (entryOf s n raw) payload ok).object = leAt (entryOf s n raw) 4 4 := rfl
    have htowers : (fetchedCmd s n (entryOf s n raw) payload ok).fld 48 2 = leAt (entryOf s n raw) 48 2 := rfl
    simp only [pointedCmd, hobj, htowers]
    simp only [fetchedCmd, isDataWrite_of_not_write hdata]
    cases s.collOf (leAt (entryOf s n raw) 4 4) with
    | some k => cases s.entryCheck n (s.qp n) (entryOf s n raw) <;> cases ok <;> simp
    | none => cases s.entryCheck n (s.qp n) (entryOf s n raw) <;> cases ok <;> simp
  · have hf : Fetches s n := ⟨hup, hrun, hpower, hturn, hroom⟩
    exact congrArg Host.Outcome.next (fetch_held hf hn hheld)
  · exact congrArg Host.Outcome.next (if_pos (by simpa using h))
  · have hfire : s.cqInterrupt n = (s.setQp n { s.qp n with since := 0 }).msix (s.qp n).vec := by
      rw [State.cqInterrupt]
      refine if_pos ⟨hsince, ?_⟩
      rw [tickUs, Nat.mul_comm (s.qp n).itime]
      exact hdue
    have hmsg := messaged_msix (s := s.setQp n { s.qp n with since := 0 }) hs (s.qp n).vec
    rw [msix_frame] at hfire
    have hself : tgetD ({} : QP) (tsetD {} s.quay.qps n { s.qp n with since := 0 }) n = { s.qp n with since := 0 } :=
      tget_tset_kept (fun _ => ({} : QP)) s.quay.qps n { s.qp n with since := 0 } fun he => hlive (congrArg QP.mode he)
    refine ⟨_, congrArg Host.Outcome.next hfire, hself, fun m hm => qp_of_qps (q := { s.qp n with since := 0 }) rfl hm, hmsg, rfl⟩
  · exact congrArg Host.Outcome.next (if_neg (by rw [tickUs]; omega))
  · obtain ⟨rs, heq, hok, hclear, hdata, hbut⟩ := unmask_spec hs v
    obtain ⟨haddr, hpba⟩ := regOff_msix_apart v
    have hpend := reg_of_regsBut hbut (r := .msixPba (v / 64)) (by simpa using (hpba hv).1.symm)
    have hsend := wrMsixData_sends hmask heq hclear (by rw [hpend]; exact hbit)
    rw [hpend] at hsend
    have hput := regsBut_setReg ({ s with regs := rs } : State) (.msixPba (v / 64))
      (BitVec.ofNat 64 (putBits (s.reg (.msixPba (v / 64))).toNat (v % 64) 1 0))
    have hself := State.reg_setReg_self ({ s with regs := rs } : State) (.msixPba (v / 64))
      (BitVec.ofNat 64 (putBits (s.reg (.msixPba (v / 64))).toNat (v % 64) 1 0)) hok
    obtain ⟨rs2, hframe⟩ := onlyRegs_setReg ({ s with regs := rs } : State) (.msixPba (v / 64))
      (BitVec.ofNat 64 (putBits (s.reg (.msixPba (v / 64))).toNat (v % 64) 1 0))
    rw [hframe] at hsend hput hself
    have hopen := (flag_of_regsBut hput (by simpa using (hpba hv).1) MSIX_DATA_MASK).trans hclear
    have hsent := (fld_of_regsBut hput (by simpa using (hpba hv).1) MSIX_DATA_DATA).trans hdata
    have hto := (reg_of_regsBut hput (r := .msixAddr v) (by simpa using (hpba hv).2)).trans (reg_of_regsBut hbut (by simpa using haddr))
    rw [State.msix, if_neg (by simp [hopen]), hsent, hto] at hsend
    refine ⟨_, congrArg Host.Outcome.next ((if_pos hv).trans ((onBus_up hup _).trans hsend)), hopen, ?_, hsent,
      regsBut_trans (regsBut_mono hbut (by simp)) (regsBut_mono hput (by simp)), rfl⟩
    exact (congrArg (fun w : Word => bitAt w.toNat (v % 64)) hself).trans (bitAt_cleared _ _)
  · obtain ⟨rs, heq, hok, hclear, hdata, hbut⟩ := unmask_spec hs v
    obtain ⟨-, hpba⟩ := regOff_msix_apart v
    have hpend := reg_of_regsBut hbut (r := .msixPba (v / 64)) (by simpa using (hpba hv).1.symm)
    have hquiet := wrMsixData_quiet heq (by rw [hpend]; exact hno)
    exact ⟨_, congrArg Host.Outcome.next ((if_pos hv).trans ((onBus_up hup _).trans hquiet)), hclear, hdata, hbut, rfl⟩

end

/-! Messages over the fabric's ports (14 R319-R326): what leaves by a port that is free, and what a landed message frees. -/

namespace Sys2Proof.Proofs.FabricMessages

open Sys2Proof Sys2Proof.Machine Sys2Proof.Safety Sys2Proof.Proofs.RaisedCauses
open Sys2Proof.Proofs.FarLines (filter_eq_single)

variable {s : State} {k p q l : Nat} {m : Msg}

/-! ### What leaves -/

/-- A route of one port that may be chosen gives that port. -/
theorem usable_single (hq : q < 16) (hup : s.portUp q = true) (hroute : s.flag (.abPort q) AB_PORT_ROUTE = true) (hdup : (s.port q).dup = false)
    (hleft : (s.port q).left = false) : s.usable (2 ^ q) = [q] := by
  refine filter_eq_single List.nodup_range (List.mem_range.2 hq) ?_ fun r _ hr => ?_
  · simp [hup, hroute, hdup, hleft, bitAt]
  · simp only [Bool.and_eq_true, bitAt, Nat.testBit_two_pow, decide_eq_true_eq] at hr
    exact hr.1.1.1.1.symm

theorem route_leads (h : Leads m.dst q l s) : s.route m = (s, some (q, l)) := by
  obtain ⟨hq, hup, hvalid, hprim, hlvl, hroute, hdup, hleft⟩ := h
  have husable := usable_single hq hup hroute hdup hleft
  simp only [State.route, hvalid, hprim, husable, hlvl, not_true_eq_false, if_false, Bool.false_eq_true, false_and, ne_eq, List.cons_ne_self,
    not_false_eq_true, if_true, List.length_singleton, Nat.mod_one, List.getD_cons_zero]

theorem sendMsg_leads (h : Leads m.dst q l s) (hcol : m.mtype = 0x20 → s.flag (.abPort q) AB_PORT_PEER2 = false) :
    s.sendMsg m = (s.portSend q { m with lvl := max m.lvl l }, true) := by
  have hgo : ¬ (m.mtype = 0x20 ∧ s.flag (.abPort q) AB_PORT_PEER2 = true) := fun ⟨ht, hp⟩ => Bool.false_ne_true ((hcol ht).symm.trans hp)
  simp only [State.sendMsg, route_leads h, if_neg hgo]

/-- What a port that is free does with a message. -/
def sent (s : State) (q : Nat) (m : Msg) : State :=
  { s with
    fab := { s.fab with ports := tsetD {} s.fab.ports q { s.port q with
      nextSeq := ((s.port q).nextSeq + 1) % 4096, replay := (s.port q).replay ++ [((s.port q).nextSeq, m)]
      sent := tsetD 0 (s.port q).sent (2 * m.vc + credLvl m.vc m.lvl) (tgetD 0 (s.port q).sent (2 * m.vc + credLvl m.vc m.lvl) + 1) } }
    outbox := s.outbox ++ [Out.link q m] }

theorem stamp_vc (s : State) (q : Nat) (m : Msg) : (s.stamp q m).vc = m.vc ∧ (s.stamp q m).lvl = m.lvl := by
  unfold State.stamp
  split <;> exact ⟨rfl, rfl⟩

theorem stamp_other (h : m.mtype ≠ 0x30 ∨ m.src ≠ s.modNum) (q : Nat) : s.stamp q m = m := by
  refine if_neg ?_
  rintro ⟨ht, hsrc⟩
  exact h.elim (fun h => h ht) fun h => h hsrc

theorem stamp_own (ht : m.mtype = 0x30) (hsrc : m.src = s.modNum) (q : Nat) : s.stamp q m = { m with data := m.data.set 1 (BitVec.ofNat 8 q) } :=
  if_pos ⟨ht, hsrc⟩

theorem portSend_free (h : Free q m.vc m.lvl s) : s.portSend q m = sent s q (s.stamp q m) := by
  obtain ⟨-, -, hwait, hroom, hcred⟩ := h
  obtain ⟨hvc, hlvl⟩ := stamp_vc s q m
  have hgo : ¬ (((s.port q).wait.any fun w => 2 * w.vc + credLvl w.vc w.lvl = 2 * (s.stamp q m).vc + credLvl (s.stamp q m).vc (s.stamp q m).lvl) = true ∨
      landCap (s.stamp q m).vc (credLvl (s.stamp q m).vc (s.stamp q m).lvl) ≤
        tgetD 0 (s.port q).sent (2 * (s.stamp q m).vc + credLvl (s.stamp q m).vc (s.stamp q m).lvl) ∨ 1024 ≤ (s.port q).replay.length) := by
    rw [hvc, hlvl, hwait]
    simp only [List.any_nil, Bool.false_eq_true, false_or]
    omega
  exact if_neg hgo

theorem sendMsg_sent (h : Leads m.dst q l s) (hf : Free q m.vc (max m.lvl l) s) (hcol : m.mtype = 0x20 → s.flag (.abPort q) AB_PORT_PEER2 = false) :
    s.sendMsg m = (sent s q (s.stamp q { m with lvl := max m.lvl l }), true) := by
  rw [sendMsg_leads h hcol]
  exact congrArg (·, true) (portSend_free hf)

/-- Sending adds no event. -/
theorem raised_sent {u : State} {log src code : Nat} {data : List Byte} (h : Raised log src code data s u) (q : Nat) (r : Msg) :
    Raised log src code data s (sent u q r) := h

/-- A request's answer leaves by the route back. -/
theorem answer_sent (h : Leads m.src q l s) (hf : Free q 1 l s) (st : Nat) (data : List Byte) :
    s.answer m st data = sent s q (reply (if m.mtype = 1 then 0x10 else 0x11) st l data m s) := by
  have hlvl : max 0 l = l := Nat.zero_max l
  have htype : (if m.mtype = 1 then 0x10 else 0x11) ≠ 0x30 ∧ (if m.mtype = 1 then 0x10 else 0x11) ≠ 0x20 := by split <;> decide
  have hsent := sendMsg_sent (s := s) (q := q) (l := l) (m := { mtype := if m.mtype = 1 then 0x10 else 0x11, vc := 1, dst := m.src, src := s.modNum, srcid := m.srcid, tag := m.tag, spart := m.dpart, dpart := m.spart, status := st, len := data.length, data := data }) h (by rw [hlvl]; exact hf) fun ht => absurd ht htype.2
  rw [stamp_other (.inl htype.1), hlvl] at hsent
  exact congrArg Prod.fst hsent

/-! ### What has landed -/

/-- The `k`-th landed message has left its landing, and its credit has returned. -/
def unlanded (s : State) (k p : Nat) (m : Msg) : State :=
  { s with fab := { s.fab with landing := s.fab.landing.eraseIdx k }, outbox := s.outbox ++ [credOf p m] }

/-- A port that is UP does not drain. -/
theorem drained_up (h : s.portUp p = true) : s.drained p = s := by
  simp only [State.portUp, Bool.and_eq_true, decide_eq_true_eq] at h
  refine if_neg ?_
  rintro ⟨hw, -⟩
  omega

theorem unland_up (h : s.portUp p = true) (k : Nat) (m : Msg) : s.unland k p m = unlanded s k p m := drained_up (s := unlanded s k p m) h

theorem onMsg_landed {t : Nat} (h : Landed k p t m s) (f : State → Nat → Msg → State) : s.onMsg k t f = f s p m := by
  obtain ⟨-, -, hl, ht, hd⟩ := h
  simp only [State.onMsg, hl, ht, hd, and_self, if_true]

theorem onMgt_managed {op : Nat} (h : Managed k p op m s) (f : State → Nat → Msg → State) : s.onMgt k op f = f (unlanded s k p m) p m := by
  obtain ⟨-, hup, hl, ht, hr, ho⟩ := h
  simp only [State.onMgt, hl, ht, hr, ho, and_self, if_true, unland_up hup]

/-- A landed request is answered by the route back. -/
theorem unland_answer (hup : s.portUp p = true) (hl : Leads m.src q l s) (hf : Free q 1 l s) (st : Nat) (data : List Byte) :
    (s.unland k p m).answer m st data = sent (unlanded s k p m) q (reply (if m.mtype = 1 then 0x10 else 0x11) st l data m s) := by
  rw [unland_up hup]
  exact answer_sent (s := unlanded s k p m) hl hf st data

theorem refuseReq_plain {st : Nat} (h : st ≠ 3) : s.refuseReq p m st = s.answer m st [] := by rw [State.refuseReq, if_neg h]

/-- A request refused as ADDR raises AB_PEER_ADDR in DPART's log. -/
theorem refuseReq_addr : s.refuseReq p m 3 = (s.raiseRec m.dpart (portL p) 0x0807 []).answer m 3 [] := by
  rw [State.refuseReq, if_pos rfl, SketchRegionsTideAndTemperature.raise_silent rfl]

theorem unland_refuseAddr (hup : s.portUp p = true) (hl : Leads m.src q l s) (hf : Free q 1 l s) :
    (s.unland k p m).refuseReq p m 3 = sent ((unlanded s k p m).raiseRec m.dpart (portL p) 0x0807 []) q
      (reply (if m.mtype = 1 then 0x10 else 0x11) 3 l [] m s) := by
  rw [refuseReq_addr, unland_up hup]
  exact answer_sent (s := (unlanded s k p m).raiseRec m.dpart (portL p) 0x0807 []) hl hf 3 []

end Sys2Proof.Proofs.FabricMessages

/-! Requests served: reads, writes and adds of DRAM by a module of the peer set (14 R321, R322, 15 R350). -/

namespace Sys2Proof.Proofs.FabricMessages

open Sys2Proof Sys2Proof.Machine Sys2Proof.Safety Sys2Proof.Proofs.RaisedCauses Sys2Proof.Proofs.MemoryPathsAndAdds
open Sys2Proof.Proofs.SketchRegionsTideAndTemperature (regsBut_trans regsBut_of_regs regsBut_mono reg_of_regsBut)
open Sys2Proof.Proofs.FarLines (snoopLine_spec)
open Sys2Proof.Proofs.MemoryErrorsTemperaturesAndFlash (regionOf_hbm_lt regionOf_gddr_lt)

variable {s u : State} {k p q l : Nat} {m : Msg}

/-! ### States that agree on the fabric -/

/-- The fabric's state and registers are as they were. -/
structure SameFabric (s u : State) : Prop where
  fab : u.fab = s.fab
  regs : ∀ r, 0xE0000 ≤ regOff r → regOff r < 0xF8000 → u.reg r = s.reg r

theorem sameFabric_of_regsBut {rs : List Reg} (hf : u.fab = s.fab) (h : RegsBut rs s u) (hr : ∀ r ∈ rs, regOff r < 0xE0000) : SameFabric s u :=
  ⟨hf, fun _ ho _ => reg_of_regsBut h fun x hx heq => Nat.lt_irrefl _ (Nat.lt_of_lt_of_le (hr x hx) (heq ▸ ho))⟩

theorem SameFabric.abPort (h : SameFabric s u) (hq : q < 16) (f : Fld) : u.fld (.abPort q) f = s.fld (.abPort q) f := by
  rw [State.fld, State.fld, h.regs _ (by simp only [regOff]; omega) (by simp only [regOff]; omega)]

theorem SameFabric.abRoute (h : SameFabric s u) (d : Nat) (f : Fld) : u.fld (.abRoute (d % 4096)) f = s.fld (.abRoute (d % 4096)) f := by
  rw [State.fld, State.fld, h.regs _ (by simp only [regOff]; omega) (by simp only [regOff]; omega)]

theorem SameFabric.modNum (h : SameFabric s u) : u.modNum = s.modNum := by
  rw [State.modNum, State.modNum, State.fld, State.fld, h.regs .abId (by decide) (by decide)]

theorem SameFabric.port (h : SameFabric s u) (q : Nat) : u.port q = s.port q := by rw [State.port, h.fab, State.port]

theorem SameFabric.portUp (h : SameFabric s u) (hup : s.portUp q = true) : u.portUp q = true := by
  have hq : q < 16 := by
    simp only [State.portUp, Bool.and_eq_true, decide_eq_true_eq] at hup
    exact hup.1.1
  rw [State.portUp, h.abPort hq]
  exact hup

theorem SameFabric.leads {d : Nat} (h : SameFabric s u) (hl : Leads d q l s) : Leads d q l u := by
  obtain ⟨hq, hup, hvalid, hprim, hlvl, hroute, hdup, hleft⟩ := hl
  refine ⟨hq, h.portUp hup, ?_, (h.abRoute d _).trans hprim, (h.abRoute d _).trans hlvl, ?_, ?_, ?_⟩
  · rw [State.flag, h.abRoute]
    exact hvalid
  · rw [State.flag, h.abPort hq]
    exact hroute
  · rw [h.port]
    exact hdup
  · rw [h.port]
    exact hleft

theorem SameFabric.free {c : Nat} (h : SameFabric s u) (hf : Free q c l s) : Free q c l u := by
  obtain ⟨hq, hup, hwait, hroom, hcred⟩ := hf
  rw [Free, h.port]
  exact ⟨hq, h.portUp hup, hwait, hroom, hcred⟩

/-! ### The checks of a request -/

theorem reqCheck_draining {n : Nat} (h : s.ptState m.dpart = 2) : s.reqCheck m n = some 1 := if_pos h

theorem reqCheck_addr {n : Nat} (h : s.ptState m.dpart ≠ 2) (hno : s.peerOk m.dpart m.src m.spart = false ∨ s.dpartOwns m n = false) :
    s.reqCheck m n = some 3 :=
  (if_neg h).trans (if_pos (by simpa using hno))

theorem reqCheck_good {n : Nat} (h : s.ptState m.dpart ≠ 2) (hpeer : s.peerOk m.dpart m.src m.spart = true) (howns : s.dpartOwns m n = true) :
    s.reqCheck m n = none :=
  (if_neg h).trans (if_neg (by simp [hpeer, howns]))

theorem msgTarget_local (h : m.addr < spBase) : msgTarget m = .addr m.addr :=
  if_pos (Nat.lt_trans h (by decide))

theorem dpartOwns_local {n : Nat} (h : m.addr < spBase) (hfirst : s.addrPart m.addr = some m.dpart) (hlast : s.addrPart (m.addr + n - 1) = some m.dpart) :
    s.dpartOwns m n = true := by
  simp only [State.dpartOwns, msgTarget_local h, hfirst, hlast, decide_true, Bool.and_self]

/-- The request is from the peer set of DPART, of DRAM that is DPART's, serves and has no error. -/
structure Granted (s : State) (m : Msg) : Prop where
  serves : s.ptState m.dpart ≠ 2
  peer : s.peerOk m.dpart m.src m.spart = true
  first : s.addrPart m.addr = some m.dpart
  last : s.addrPart (m.addr + m.len - 1) = some m.dpart
  dram : m.addr + m.len ≤ spBase
  still : s.converting m.addr = false
  sound : s.lostIn m.addr m.len = false

theorem Granted.reqCheck (h : Granted s m) (hn : 1 ≤ m.len) : s.reqCheck m m.len = none := by
  have hdram := h.dram
  exact reqCheck_good h.serves h.peer (dpartOwns_local (by omega) h.first h.last)

/-- An L-die reaches what any partition owns. -/
theorem mayReach_link {a d : Nat} (hp : p < 16) (h : s.addrPart a = some d) : s.mayReach (portL p) a = true := by
  have hsrc : isQuadUnit (portL p) = false ∧ portL p ≠ srcHost ∧ 0x540 ≤ portL p ∧ portL p ≤ 0x543 := by
    have hlo : portL p = 0x540 + p / 4 := rfl
    rw [hlo]
    refine ⟨decide_eq_false (by omega), ?_, by omega, by omega⟩
    show 0x540 + p / 4 ≠ 0x511
    omega
  obtain ⟨hq, hh, hlo, hhi⟩ := hsrc
  have hgran : (granuleOf a).isSome = true := by
    unfold State.addrPart at h
    split at h
    next hg => rw [hg]; rfl
    next => exact absurd h (by simp)
  rw [State.mayReach, if_neg (by simp [hq]), if_neg hh, if_pos (.inr ⟨hlo, hhi⟩), hgran]

theorem Granted.readEnd (h : Granted s m) (hp : p < 16) (hn : 1 ≤ m.len) : s.readEnd (portL p) (msgTarget m) m.len .good = (s, .ok, s.rd m.addr m.len) := by
  have hdram := h.dram
  have hfirst : OffDies m.addr := offDies_of_lt (by omega)
  have hlast : OffDies (m.addr + m.len - 1) := offDies_of_lt (by omega)
  have hserves : s.servesAll (portL p) m.addr m.len = true := by
    rw [servesAll_of_offDies hfirst hlast, mayReach_link hp h.first, mayReach_link hp h.last, Bool.and_self]
  have hread := readPlain_served (e := .good) hfirst hlast hserves h.still (.inr rfl)
  rw [readErr_good hfirst, if_neg (by simp [uncorrectable, h.sound])] at hread
  rw [msgTarget_local (by omega), State.readEnd, readAddr_of_offDies hfirst, hread]

theorem bytesAt_some {n : Nat} {b : List Byte} (hn : 1 ≤ n) : bytesAt b 0 n ≠ [] := fun h => by
  have hlen := length_bytesAt b 0 n
  rw [h, List.length_nil] at hlen
  omega

theorem Granted.writeEnd (h : Granted s m) (hp : p < 16) (hn : 1 ≤ m.len) (who : Option AckTo) :
    s.writeEnd (portL p) (msgTarget m) 0 (bytesAt m.data 0 m.len) who =
      s.sharedWrite (portL p) m.len [(m.addr, m.len)] who fun s => s.wr m.addr (bytesAt m.data 0 m.len) := by
  have hdram := h.dram
  have hfirst : OffDies m.addr := offDies_of_lt (by omega)
  have hlen := length_bytesAt m.data 0 m.len
  have hplain := writePlain_served (who := who) (b := bytesAt m.data 0 m.len) (bytesAt_some hn) hfirst (by rw [hlen]; exact offDies_of_lt (by omega))
    (mayReach_link hp h.first) (by rw [hlen]; exact mayReach_link hp h.last) h.still (by rw [hlen]; exact h.sound)
  rw [hlen] at hplain
  simp only [State.writeEnd, msgTarget_local (show m.addr < spBase by omega), State.flashWrite, ne_eq, not_true_eq_false, if_false, Bool.false_eq_true, if_true,
    writeAddr_of_offDies hfirst, hplain]

theorem Granted.addEnd (h : Granted s m) (hp : p < 16) (hn : 1 ≤ m.len) {a : Nat} (ha : 1 ≤ a) (ha7 : a ≤ 7) (hu : Unshared m.addr m.len s)
    (hplain : ∀ n o, regionOf m.addr = .sketch n o → s.plainBlock n o = false) (who : Option AckTo) :
    s.writeEnd (portL p) (msgTarget m) a (bytesAt m.data 0 m.len) who = (updated m.addr a (bytesAt m.data 0 m.len) s, .ok) := by
  have hdram := h.dram
  have hlen := length_bytesAt m.data 0 m.len
  have hmsa : s.msaRefused (.addr m.addr) a (bytesAt m.data 0 m.len).length = false := by
    have h8 : decide (8 ≤ a) = false := decide_eq_false (by omega)
    rcases offDies_of_lt (show m.addr < spBase by omega) with hr | hr | hr | hr
    · simp only [State.msaRefused, h8, hr, Bool.or_self]
    · simp only [State.msaRefused, h8, hr, hplain _ _ hr, Bool.or_self]
    · simp only [State.msaRefused, h8, hr, Bool.or_self]
    · simp only [State.msaRefused, h8, hr, Bool.or_self]
  have ha0 : a ≠ 0 := by omega
  have hadd := addAddr_served (k := a) (who := who) (b := bytesAt m.data 0 m.len) (bytesAt_some hn) (mayReach_link hp h.first)
    (by rw [hlen]; exact mayReach_link hp h.last) h.still (by rw [hlen]; exact h.sound) (by rw [hlen]; exact hu)
  simp only [State.writeEnd, msgTarget_local (show m.addr < spBase by omega), hmsa, ne_eq, ha0, not_false_eq_true, if_true, Bool.false_eq_true, if_false, hadd]

/-! ### RD -/

/-- LEN and ADDR of a read are out of form (14 Table 14-6). -/
abbrev RdBad (m : Msg) : Prop := m.len < 32 ∨ 256 < m.len ∨ (m.addr < 2 ^ 40 ∧ 256 < m.addr % 256 + m.len)

theorem serveRd_bad (h : Landed k p 1 m s) (hb : RdBad m) (e : MemErr) : s.serveRd k e = (s.unland k p m).refuseReq p m 3 :=
  (onMsg_landed h _).trans (if_pos hb)

theorem serveRd_checked (h : Landed k p 1 m s) (hb : ¬ RdBad m) {st : Nat} (hc : s.reqCheck m m.len = some st) (e : MemErr) :
    s.serveRd k e = (s.unland k p m).refuseReq p m st :=
  (onMsg_landed h _).trans ((if_neg hb).trans (by rw [hc]))

theorem serveRd_ok (h : Landed k p 1 m s) (hb : ¬ RdBad m) (hc : s.reqCheck m m.len = none) {e : MemErr} {x : List Byte}
    (hr : s.readEnd (portL p) (msgTarget m) m.len e = (u, .ok, x)) : s.serveRd k e = (u.unland k p m).answer m 0 x :=
  (onMsg_landed h _).trans ((if_neg hb).trans (by rw [hc]; dsimp only; rw [hr]))

theorem serveRd_no (h : Landed k p 1 m s) (hb : ¬ RdBad m) (hc : s.reqCheck m m.len = none) {e : MemErr} {x : List Byte} {st : Nat}
    (hr : s.readEnd (portL p) (msgTarget m) m.len e = (u, .no st, x)) : s.serveRd k e = (u.unland k p m).refuseReq p m st :=
  (onMsg_landed h _).trans ((if_neg hb).trans (by rw [hc]; dsimp only; rw [hr]))

/-! ### WR and ADD -/

/-- The update type of a write (0) or an add. -/
def addtOf (t : Nat) (m : Msg) : Nat := if t = 3 then m.aux % 16 else 0

/-- LEN and the update type are out of form. -/
abbrev WrBad (t : Nat) (m : Msg) : Prop := m.len = 0 ∨ 256 < m.len ∨ (t = 3 ∧ (addtOf t m = 0 ∨ (addtOf t m ≤ 7 ∧ m.len % addWidth (addtOf t m) ≠ 0)))

theorem not_wrBad_write (h1 : 1 ≤ m.len) (h256 : m.len ≤ 256) : ¬ WrBad 2 m := by
  rintro (h | h | ⟨h, -⟩)
  · omega
  · omega
  · omega

theorem not_wrBad_add (h1 : 1 ≤ m.len) (h256 : m.len ≤ 256) (ha : m.aux % 16 ≠ 0) (hw : m.aux % 16 ≤ 7 → m.len % addWidth (m.aux % 16) = 0) :
    ¬ WrBad 3 m := by
  rintro (h | h | ⟨-, h | ⟨h7, h⟩⟩)
  · omega
  · omega
  · exact ha h
  · exact h (hw h7)

variable {t : Nat} {fault : Bool}

theorem serveWr_bad (h : Landed k p t m s) (hb : WrBad t m) (fault : Bool) : s.serveWr k t fault = (s.unland k p m).refuseReq p m 3 :=
  (onMsg_landed h _).trans (if_pos hb)

theorem serveWr_checked (h : Landed k p t m s) (hb : ¬ WrBad t m) {st : Nat} (hc : s.reqCheck m m.len = some st) (fault : Bool) :
    s.serveWr k t fault = (s.unland k p m).refuseReq p m st :=
  (onMsg_landed h _).trans ((if_neg hb).trans (by rw [hc]))

theorem serveWr_fault (h : Landed k p t m s) (hb : ¬ WrBad t m) (hc : s.reqCheck m m.len = none) : s.serveWr k t true = (s.unland k p m).answer m 4 [] :=
  (onMsg_landed h _).trans ((if_neg hb).trans (by rw [hc]; rfl))

theorem serveWr_end (h : Landed k p t m s) (hb : ¬ WrBad t m) (hc : s.reqCheck m m.len = none) {acc : Acc}
    (hw : s.writeEnd (portL p) (msgTarget m) (addtOf t m) (bytesAt m.data 0 m.len) (some (.msg m)) = (u, acc)) :
    (acc = .ok → s.serveWr k t false = (u.unland k p m).answer m 0 []) ∧ (acc = .queued → s.serveWr k t false = u.unland k p m) ∧
      (∀ st, acc = .no st → s.serveWr k t false = (u.unland k p m).refuseReq p m st) := by
  have hend : s.serveWr k t false = match (s.writeEnd (portL p) (msgTarget m) (addtOf t m) (bytesAt m.data 0 m.len) (some (.msg m))).2 with
      | .ok => ((s.writeEnd (portL p) (msgTarget m) (addtOf t m) (bytesAt m.data 0 m.len) (some (.msg m))).1.unland k p m).answer m 0 []
      | .queued => (s.writeEnd (portL p) (msgTarget m) (addtOf t m) (bytesAt m.data 0 m.len) (some (.msg m))).1.unland k p m
      | .no st => ((s.writeEnd (portL p) (msgTarget m) (addtOf t m) (bytesAt m.data 0 m.len) (some (.msg m))).1.unland k p m).refuseReq p m st
      | .held => s := by
    refine (onMsg_landed h _).trans ((if_neg hb).trans ?_)
    rw [hc]
    rfl
  rw [hw] at hend
  refine ⟨?_, ?_, ?_⟩
  · rintro rfl
    exact hend
  · rintro rfl
    exact hend
  · rintro st rfl
    exact hend

/-! ### Lines that E-dies share -/

theorem regionOf_spad_lt {a d o : Nat} (h : regionOf a = .spad d o) : d < 20 := by
  unfold regionOf at h
  split at h
  · exact Region.noConfusion h
  · split at h
    · exact Region.noConfusion h
    · split at h
      · exact Region.noConfusion h
      · split at h
        next ha =>
          obtain ⟨rfl, -⟩ := Region.spad.inj h
          exact Nat.div_lt_of_lt_mul (by omega)
        next =>
          repeat' split at h
          all_goals exact Region.noConfusion h

theorem hubOf_lt (a : Nat) : (hubOf a).getD 0 < 4 := by
  unfold hubOf
  split
  next h =>
    have := regionOf_hbm_lt h
    simp only [Option.getD_some]
    omega
  next h =>
    have := regionOf_sketch_lt h
    simp only [Option.getD_some]
    omega
  next h => exact regionOf_gddr_lt h
  next h =>
    have := regionOf_spad_lt h
    simp only [Option.getD_some]
    omega
  next => decide

theorem foldl_snoopLine (h : Nat) (lines : List Nat) (s : State) : ∃ (rs : Tab Word) (sn : List Snoop), RegsBut [.dirStat h] s { s with regs := rs } ∧
    lines.foldl (fun (s : State) l => s.snoopLine h l) s = { s with regs := rs, net := { s.net with snoops := sn } } := by
  induction lines generalizing s with
  | nil => exact ⟨s.regs, s.net.snoops, regsBut_of_regs _ rfl, rfl⟩
  | cons line lines ih =>
    obtain ⟨rs, hbut, heq⟩ := snoopLine_spec s h line
    rw [List.foldl_cons, heq]
    obtain ⟨rs2, sn, hbut2, heq2⟩ := ih { s with regs := rs, net := { s.net with snoops := s.net.snoops ++ _ } }
    exact ⟨rs2, sn, regsBut_trans hbut hbut2, heq2⟩

/-- A write that meets shared lines is applied, and its acknowledgement waits. -/
theorem sharedWrite_queued {src a n : Nat} {who : Option AckTo} {b : List Byte}
    (hsh : s.net.dir.any (fun l => s.sharers l.1 ≠ 0 && a / 256 ≤ l.1 && l.1 * 256 < a + n) = true) :
    ∃ (rs : Tab Word) (net : NetState) (h : Nat) (lines : List Nat), h < 4 ∧ RegsBut [.dirStat h] s { s with regs := rs } ∧
      (⟨h, lines, src, who, n⟩ : HeldAck) ∈ net.acks ∧
      s.sharedWrite src n [(a, n)] who (fun s => s.wr a b) = ({ s with regs := rs, mem := memWrite s.mem a b, net := net }, .queued) := by
  have hshared : (s.net.dir.map (·.1)).filter (fun l => s.sharers l ≠ 0 && [(a, n)].any fun x => x.1 / 256 ≤ l && l * 256 < x.1 + x.2) ≠ [] := by
    obtain ⟨e, he, hmeets⟩ := List.any_eq_true.1 hsh
    refine List.ne_nil_of_mem (List.mem_filter.2 ⟨List.mem_map_of_mem he, ?_⟩) (a := e.1)
    simpa [and_assoc] using hmeets
  unfold State.sharedWrite
  dsimp only
  split
  next heq => exact absurd heq hshared
  next line rest heq =>
    obtain ⟨rs, sn, hbut, hfold⟩ := foldl_snoopLine ((hubOf (line * 256)).getD 0)
      ((s.net.dir.map (·.1)).filter (fun l => s.sharers l ≠ 0 && [(a, n)].any fun x => x.1 / 256 ≤ l && l * 256 < x.1 + x.2)) s
    rw [hfold]
    exact ⟨rs, _, _, _, hubOf_lt _, hbut, List.mem_append_right _ (List.mem_singleton_self _), rfl⟩

end Sys2Proof.Proofs.FabricMessages

/-! Signals, responses, expiries, forwarding and management messages (14 R322-R327, R336). -/

namespace Sys2Proof.Proofs.FabricMessages

open Sys2Proof Sys2Proof.Machine Sys2Proof.Safety Sys2Proof.Proofs.RaisedCauses Sys2Proof.Proofs.RegisterWrites
open Sys2Proof.Proofs.SketchRegionsTideAndTemperature (regsBut_trans regsBut_of_regs regsBut_mono fld_of_regsBut flag_of_regsBut raised_raiseRec raise_silent
  onlyRegs_setFld)
open Sys2Proof.Proofs.RankingModelsAndTables (regsBut_setFld)
open Sys2Proof.Proofs.MemoryErrorsTemperaturesAndFlash (fld_incFld_sat flag_setFld_one tidy)
open Sys2Proof.Proofs.PowerAndTokens (askWake_idle)

variable {s : State} {k p q l : Nat} {m : Msg}

/-! ### SIG -/

/-- A count that saturates, and the registers beside its own. -/
theorem incFld_sat (hs : RegsOk s) (r : Reg) {f : Fld} (hf : f.lo + f.w ≤ 64) (hsat : f.sat = true) (n : Nat) : ∃ rs : Tab Word, s.incFld r f n = { s with regs := rs } ∧
    ({ s with regs := rs } : State).fld r f = satAdd (2 ^ f.w - 1) (s.fld r f) n ∧ RegsBut [r] s { s with regs := rs } := by
  have hself := fld_incFld_sat (r := r) (n := n) hs hf hsat
  obtain ⟨rs, heq, -, -, hbut⟩ := incFld_spec hs r f n hf
  rw [heq] at hself
  exact ⟨rs, heq, hself, hbut⟩

theorem serveSig_bad (h : Landed k p 4 m s) (hb : s.peerOk m.dpart m.src m.spart = false ∨ 80 ≤ bits m.aux 0 7) :
    s.serveSig k = (unlanded s k p m).badMsg p := by
  refine (onMsg_landed h _).trans ?_
  dsimp only
  rw [unland_up h.2.1]
  exact if_pos (hb.imp (fun h => Bool.eq_false_iff.1 h) id)

/-- A SIG in form, from the peer set. -/
structure SigGood (s : State) (m : Msg) : Prop where
  peer : s.peerOk m.dpart m.src m.spart = true
  quad : bits m.aux 0 7 < 80

theorem SigGood.not_bad (h : SigGood s m) : ¬ (¬ s.peerOk m.dpart m.src m.spart = true ∨ 80 ≤ bits m.aux 0 7) := by
  obtain ⟨hpeer, hq⟩ := h
  rintro (h | h)
  · exact h hpeer
  · omega

theorem serveSig_gone (h : Landed k p 4 m s) (hg : SigGood s m) (hgone : s.quadGone (bits m.aux 0 7) = true) :
    s.serveSig k = (unlanded s k p m).answer m 1 [] := by
  refine (onMsg_landed h _).trans ?_
  dsimp only
  rw [unland_up h.2.1]
  exact (if_neg hg.not_bad).trans (if_pos hgone)

/-- The quad of a SIG is in service and awake, and its signal is of the right epoch or not. -/
theorem serveSig_awake (h : Landed k p 4 m s) (hg : SigGood s m) (hgone : s.quadGone (bits m.aux 0 7) = false)
    (hon : s.fld (.pwrQuad (bits m.aux 0 7)) PWR_QUAD_STATE = 0) :
    s.serveSig k = if (s.quadInst (bits m.aux 0 7)).isSome = true ∧ (s.flag (.abPort p) AB_PORT_PEER2 = true ∨
        (m.epoch ≠ 0 ∧ s.fld (.schQuad (bits m.aux 0 7)) SCH_QUAD_EPOCH = m.epoch))
      then (unlanded s k p m).addSem (bits m.aux 0 7) (bits m.aux 8 8) (bits m.aux 16 16) (portL p)
      else ((unlanded s k p m).incFld (.schQuad (bits m.aux 0 7)) SCH_QUAD_STALE 1).answer m 2 [] := by
  have hwake : (unlanded s k p m).askWake (bits m.aux 0 7) = unlanded s k p m := askWake_idle (.inl hon)
  refine (onMsg_landed h _).trans ?_
  dsimp only
  rw [unland_up h.2.1, hwake]
  exact (if_neg hg.not_bad).trans (if_neg (by simp [unlanded, State.quadGone] at hgone ⊢; exact hgone))

/-! ### Responses -/

/-- The response that has landed ends the request `o`. -/
abbrev Answers (m : Msg) (o : Outst) (s : State) : Prop := s.fab.outst.find? (fun o => o.tag = m.tag && o.dst = m.src) = some o

/-- The request is taken from those that wait. -/
def settledBy (s : State) (k p : Nat) (m : Msg) (o : Outst) : State :=
  { s with
    fab := { s.fab with landing := s.fab.landing.eraseIdx k, outst := dropFirst (· = o) s.fab.outst }
    outbox := s.outbox ++ [credOf p m] }

variable {t : Nat} {o : Outst}

theorem takeResp_stale (h : Landed k p t m s) (hst : m.status = 2) : s.takeResp k t = (unlanded s k p m).staleBack m.srcid := by
  refine (onMsg_landed h _).trans ?_
  dsimp only
  rw [unland_up h.2.1]
  exact if_pos hst

theorem takeResp_none (h : Landed k p t m s) (hst : m.status ≠ 2) (hno : ∀ o ∈ s.fab.outst, o.tag ≠ m.tag ∨ o.dst ≠ m.src) :
    s.takeResp k t = unlanded s k p m := by
  have hfind : (unlanded s k p m).fab.outst.find? (fun o => o.tag = m.tag && o.dst = m.src) = none := by
    refine List.find?_eq_none.2 fun o ho => ?_
    rcases hno o ho with h | h <;> simp [h]
  refine (onMsg_landed h _).trans ?_
  dsimp only
  rw [unland_up h.2.1, if_neg hst, hfind]

theorem takeResp_some (h : Landed k p t m s) (hst : m.status ≠ 2) (ho : Answers m o s) :
    (o.stale = true → s.takeResp k t = settledBy s k p m o) ∧
    (o.stale = false → m.status ≠ 0 → s.takeResp k t = (settledBy s k p m o).reqFailed o m.status) ∧
    (o.stale = false → m.status = 0 → (o.piece = none → s.takeResp k t = (settledBy s k p m o).emit (.fabricResp o.srcid o.tag 0 m.data)) ∧
      ∀ n j off len skip, o.piece = some (n, j, off, len, skip) →
        (o.kind = 1 → s.takeResp k t = (settledBy s k p m o).piecePart n j off (bytesAt m.data skip len)) ∧
        (o.kind ≠ 1 → s.takeResp k t = ((settledBy s k p m o).ackTo (some (.piece n j)) len).pumped n)) := by
  have hfind : (unlanded s k p m).fab.outst.find? (fun o => o.tag = m.tag && o.dst = m.src) = some o := ho
  have htake : s.takeResp k t = if o.stale = true then settledBy s k p m o
      else if m.status ≠ 0 then (settledBy s k p m o).reqFailed o m.status
      else match o.piece with
        | some (n, k', off, len, skip) =>
          if o.kind = 1 then (settledBy s k p m o).piecePart n k' off (bytesAt m.data skip len)
          else ((settledBy s k p m o).ackTo (some (.piece n k')) len).pumped n
        | none => (settledBy s k p m o).emit (.fabricResp o.srcid o.tag 0 m.data) := by
    refine (onMsg_landed h _).trans ?_
    dsimp only
    rw [unland_up h.2.1, if_neg hst, hfind]
    rfl
  refine ⟨fun hs => htake.trans (if_pos hs), fun hs h0 => htake.trans ((if_neg (by simp [hs])).trans (if_pos h0)), fun hs h0 => ?_⟩
  have hgood := htake.trans ((if_neg (by simp [hs])).trans (if_neg (not_not.2 h0)))
  refine ⟨fun hp => ?_, fun n j off len skip hp => ⟨fun hk => ?_, fun hk => ?_⟩⟩
  · rw [hgood, hp]
  · rw [hgood, hp]
    exact if_pos hk
  · rw [hgood, hp]
    exact if_neg hk

/-! ### Requests that fail -/

/-- A child that is out of reach is marked absent in the groups; nothing else changes. -/
theorem childGone_groups (s : State) (src d : Nat) : ∃ gs : Tab GroupSt, s.childGone src d = { s with fab := { s.fab with groups := gs } } := by
  unfold State.childGone
  refine List.foldlRecOn (motive := fun t : State => ∃ gs : Tab GroupSt, t = { s with fab := { s.fab with groups := gs } }) _ _ ⟨s.fab.groups, rfl⟩
    fun t ht g _ => ?_
  dsimp only
  split
  · refine List.foldlRecOn (motive := fun t : State => ∃ gs : Tab GroupSt, t = { s with fab := { s.fab with groups := gs } }) _ _ ht fun u hu c _ => ?_
    obtain ⟨gs, rfl⟩ := hu
    exact ⟨_, rfl⟩
  · exact ht

/-- Only a quad unit's request can mark a child absent. -/
theorem childGone_other {src d : Nat} (h : isQuadUnit src = false) : s.childGone src d = s :=
  foldl_idle fun g _ => if_neg (by simp [h])

theorem reqFailed_other {st : Nat} (hp : o.piece = none) (hq : isQuadUnit o.srcid = false) : s.reqFailed o st = s.emit (.fabricResp o.srcid o.tag st []) := by
  rw [State.reqFailed, childGone_other hq, ite_self, hp]
  exact if_neg (by simp [hq])

theorem reqFailed_quad (hp : o.piece = none) (hq : isQuadUnit o.srcid = true) :
    s.reqFailed o 5 = ((s.childGone o.srcid o.dst).emit (.fabricResp o.srcid o.tag 5 [])).quadFault (o.srcid / 16) o.srcid 0x0306 [] := by
  rw [State.reqFailed, if_pos (.inr rfl), hp]
  exact if_pos hq

/-- An instance that runs is aborting once it is told to abort. -/
theorem startAbort_aborts (hs : RegsOk s) {i : Nat} (hrun : s.flag (.schInst i) SCH_INST_RUN = true) (cause : Nat) : ∃ (rs : Tab Word) (ctl : CtlState),
    s.startAbort i cause = { s with regs := rs, ctl := ctl } ∧ ({ s with regs := rs } : State).flag (.schInst i) SCH_INST_ABORTING = true ∧
      RegsBut [.schInst i] s { s with regs := rs } := by
  by_cases hab : s.flag (.schInst i) SCH_INST_ABORTING = true
  · refine ⟨s.regs, s.ctl, ?_, hab, regsBut_of_regs _ rfl⟩
    exact if_neg (by simp [hab])
  · obtain ⟨rs, hset, -, hself, -, hbut⟩ := setFld_spec hs (.schInst i) SCH_INST_ABORTING 1 (by decide)
    have hstart := MooringsAndAliases.startAbort_running (cause := cause) hrun (by simpa using hab)
    rw [hset] at hstart
    exact ⟨rs, _, hstart, PowerAndTokens.flag_of_fld (b := true) hself, hbut⟩

/-- A record names its log, its source and its code; raising it changes the events alone. -/
theorem raiseRec_spec (s : State) (log src code : Nat) (data : List Byte) : ∃ ev : EvState, s.raiseRec log src code data = { s with evt := ev } ∧
    ev.raised.map (fun r => (r.1, r.2.src, r.2.code)) = s.evt.raised.map (fun r => (r.1, r.2.src, r.2.code)) ++ [(log, src, code)] := by
  refine ⟨_, rfl, ?_⟩
  have hraised : Raised log src code data s (s.raiseRec log src code data) := raised_raiseRec rfl rfl log src code data
  exact (congrArg (List.map fun r => (r.1, r.2.src, r.2.code)) hraised).trans (List.map_append ..)

theorem rtoExpiry_early {tag : Nat} (h : ∀ o ∈ s.fab.outst, o.tag = tag → s.svcTime < o.time + s.fld .abCtl AB_CTL_RTO * 400) : s.rtoExpiry tag = s := by
  unfold State.rtoExpiry
  split
  next o ho =>
    have htag := List.find?_some ho
    exact if_pos (h o (List.mem_of_find?_eq_some ho) (by simpa using htag))
  next => rfl

/-- The request whose time is over is taken from those that wait, and its L-die says so. -/
def expired (s : State) (o : Outst) : State :=
  ({ s with fab := { s.fab with outst := dropFirst (· = o) s.fab.outst } } : State).raiseRec modLog (lDie o.srcid) 0x0805 []

/-- An expiry is in the record, and its request waits no more. -/
theorem expired_spec (s : State) (o : Outst) : ∃ ev : EvState,
    expired s o = { s with fab := { s.fab with outst := dropFirst (· = o) s.fab.outst }, evt := ev } ∧
      Raised modLog (lDie o.srcid) 0x0805 [] s { s with fab := { s.fab with outst := dropFirst (· = o) s.fab.outst }, evt := ev } :=
  ⟨_, rfl, raised_raiseRec (s := s) (u := { s with fab := { s.fab with outst := dropFirst (· = o) s.fab.outst } }) rfl rfl modLog (lDie o.srcid) 0x0805 []⟩

theorem rtoExpiry_due {tag : Nat} (ho : s.fab.outst.find? (·.tag = tag) = some o) (hdue : o.time + s.fld .abCtl AB_CTL_RTO * 400 ≤ s.svcTime) :
    s.rtoExpiry tag = if o.stale = true then expired s o else (expired s o).reqFailed o 5 := by
  simp only [State.rtoExpiry, ho]
  rw [if_neg (by rw [tickUs]; omega), raise_silent rfl]
  rfl

/-- A fault of a unit whose instance runs: its record waits, and the instance aborts. -/
theorem quadFault_aborts (hs : RegsOk s) {qd i code : Nat} (hcode : causeOf code = none) (hinst : s.quadInst qd = some i)
    (hrun : s.flag (.schInst i) SCH_INST_RUN = true) (src : Nat) : ∃ (rs : Tab Word) (ev : EvState) (ctl : CtlState),
    s.quadFault qd src code [] = { s with regs := rs, evt := ev, ctl := ctl } ∧
    ({ s with regs := rs } : State).flag (.schInst i) SCH_INST_ABORTING = true ∧ RegsBut [.schInst i] s { s with regs := rs } ∧
    ev.raised.map (fun r => (r.1, r.2.src, r.2.code)) = s.evt.raised.map (fun r => (r.1, r.2.src, r.2.code)) ++ [(s.quadLog qd, src, code)] := by
  obtain ⟨ev, hrec, hev⟩ := raiseRec_spec s (s.quadLog qd) src code []
  obtain ⟨rs, ctl, habort, hflag, hbut⟩ := startAbort_aborts (s := { s with evt := ev }) hs hrun code
  have hsame : ({ s with evt := ev } : State).quadInst qd = some i := hinst
  refine ⟨rs, ev, ctl, ?_, hflag, hbut, hev⟩
  rw [State.quadFault, raise_silent hcode, hrec, hsame]
  exact habort

/-- The request of a quad unit: its L-die says UNREACHABLE, the unit its fault, and its instance aborts. -/
theorem rtoExpiry_quad {tag i : Nat} (hs : RegsOk s) (ho : s.fab.outst.find? (·.tag = tag) = some o) (hdue : o.time + s.fld .abCtl AB_CTL_RTO * 400 ≤ s.svcTime)
    (hstale : o.stale = false) (hpiece : o.piece = none) (hq : isQuadUnit o.srcid = true) (hinst : s.quadInst (o.srcid / 16) = some i)
    (hrun : s.flag (.schInst i) SCH_INST_RUN = true) : ∃ (rs : Tab Word) (ev : EvState) (gs : Tab GroupSt) (ctl : CtlState),
    s.rtoExpiry tag = { s with
      regs := rs, evt := ev, fab := { s.fab with outst := dropFirst (· = o) s.fab.outst, groups := gs }, ctl := ctl
      outbox := s.outbox ++ [Out.fabricResp o.srcid o.tag 5 []] } ∧
    ({ s with regs := rs } : State).flag (.schInst i) SCH_INST_ABORTING = true ∧ RegsBut [.schInst i] s { s with regs := rs } ∧
    ev.raised.map (fun r => (r.1, r.2.src, r.2.code)) = s.evt.raised.map (fun r => (r.1, r.2.src, r.2.code)) ++
      [(modLog, lDie o.srcid, 0x0805), (s.quadLog (o.srcid / 16), o.srcid, 0x0306)] := by
  obtain ⟨ev, hrec, hev⟩ := raiseRec_spec { s with fab := { s.fab with outst := dropFirst (· = o) s.fab.outst } } modLog (lDie o.srcid) 0x0805 []
  have hfail := (rtoExpiry_due ho hdue).trans ((if_neg (by simp [hstale])).trans (reqFailed_quad hpiece hq))
  rw [expired, hrec] at hfail
  obtain ⟨gs, hgroups⟩ := childGone_groups { s with fab := { s.fab with outst := dropFirst (· = o) s.fab.outst }, evt := ev } o.srcid o.dst
  rw [hgroups] at hfail
  obtain ⟨rs, ev2, ctl, hfault, hflag, hbut, hev2⟩ := quadFault_aborts (s := { s with
    fab := { s.fab with outst := dropFirst (· = o) s.fab.outst, groups := gs }, evt := ev
    outbox := s.outbox ++ [Out.fabricResp o.srcid o.tag 5 []] }) hs (code := 0x0306) rfl hinst hrun o.srcid
  refine ⟨rs, ev2, gs, ctl, hfail.trans hfault, hflag, hbut, ?_⟩
  rw [hev2, hev, List.append_assoc]
  rfl

/-! ### Forwarding -/

/-- The message that goes on by its source route. -/
def steered (p : Nat) (m : Msg) : Msg :=
  { m with
    aux := m.aux / 16, rlen := m.rlen - 1
    data := m.data.take 13 ++ leBytes 1 (leAt m.data 13 1 + 1) ++ leBytes 4 ((leAt m.data 14 4 * 16 + p) % 2 ^ 32) ++ m.data.drop 18 }

theorem forward_steered (hup : s.portUp p = true) (hl : s.landed k = some (p, m)) (ht : m.mtype = 0x30) (hr : m.rlen ≠ 0) :
    s.forward k = if ¬ s.assigned = true then (unlanded s k p m).badMsg p
      else if s.portUp (m.aux % 16) = true then (unlanded s k p m).portSend (m.aux % 16) (steered p m) else unlanded s k p m := by
  simp only [State.forward, hl]
  rw [if_pos ⟨ht, hr⟩, unland_up hup]
  rfl

theorem forward_routed (hup : s.portUp p = true) (hl : s.landed k = some (p, m)) (hd : m.dst ≠ s.modNum)
    (ht : m.mtype ≠ 0x30 ∨ (m.rlen = 0 ∧ leAt m.data 0 1 = 5)) :
    (15 ≤ m.hops → isReq m = true → s.forward k = ((unlanded s k p m).raiseRec modLog (portL p) 0x0805 []).answer m 5 []) ∧
    ∀ u, m.hops < 15 → (unlanded s k p m).sendMsg { m with hops := m.hops + 1 } = (u, true) → s.forward k = u := by
  have hsteer : ¬ (m.mtype = 0x30 ∧ m.rlen ≠ 0) := fun ⟨h1, h2⟩ => ht.elim (fun h => h h1) fun h => h2 h.1
  have hstay : ¬ (m.dst = s.modNum ∨ (m.mtype = 0x30 ∧ leAt m.data 0 1 ≠ 5)) := by
    rintro (h | ⟨h1, h2⟩)
    · exact hd h
    · exact ht.elim (fun h => h h1) fun h => h2 h.2
  refine ⟨fun hh hreq => ?_, fun u hh hsend => ?_⟩
  · simp only [State.forward, hl]
    rw [if_neg hsteer, if_neg hstay, unland_up hup, if_pos hh, if_pos hreq, raise_silent rfl]
  · simp only [State.forward, hl]
    rw [if_neg hsteer, if_neg hstay, unland_up hup, if_neg (Nat.not_le.2 hh), hsend]
    rfl

/-! ### Management messages -/

/-- The reply to a management message goes back by its port. -/
theorem mgtReply_sent {st value : Nat} (hup : s.portUp p = true) (hf : Free p 4 0 s) :
    s.mgtReply p m st value = sent s p {
      mtype := 0x30, vc := 4, dst := m.src, src := s.modNum, srcid := m.srcid, tag := m.tag, aux := leAt m.data 14 4, rlen := leAt m.data 13 1 % 16
      status := st, len := 32, data := (s.mgtData 3 0 0 (leAt m.data 20 4) value).set 1 (BitVec.ofNat 8 p) } := by
  rw [State.mgtReply, if_pos hup, portSend_free hf, stamp_own rfl rfl]

theorem mgtFar_near (h : s.assigned = true ∨ leAt m.data 13 1 = 0) : s.mgtFar m = false := by
  rw [State.mgtFar]
  rcases h with h | h <;> simp [h]

theorem mgtRead_managed (h : Managed k p 1 m s) (hnear : s.assigned = true ∨ leAt m.data 13 1 = 0) :
    (∀ r, abReg (leAt m.data 20 4) = some r → s.mgtRead k = (unlanded s k p m).mgtReply p m 0 (s.abRead r)) ∧
    (abReg (leAt m.data 20 4) = none → s.mgtRead k = (unlanded s k p m).mgtReply p m 3 0) := by
  have hfar : ¬ (unlanded s k p m).mgtFar m = true := by
    have := mgtFar_near (s := unlanded s k p m) (m := m) hnear
    simp [this]
  refine ⟨fun r hr => ?_, fun hr => ?_⟩
  · refine (onMgt_managed h _).trans ((if_neg hfar).trans ?_)
    rw [hr]
    rfl
  · refine (onMgt_managed h _).trans ((if_neg hfar).trans ?_)
    rw [hr]

theorem mgtWrite_refused (h : Managed k p 2 m s) (hnear : s.assigned = true ∨ leAt m.data 13 1 = 0)
    (hno : s.flag .abCtl AB_CTL_MGTWR = false ∨ (s.assigned = true ∧ m.src ≠ s.fld .abCtl AB_CTL_MGR)) :
    s.mgtWrite k = (unlanded s k p m).mgtReply p m 3 0 := by
  have hfar : ¬ (unlanded s k p m).mgtFar m = true := by
    have := mgtFar_near (s := unlanded s k p m) (m := m) hnear
    simp [this]
  exact (onMgt_managed h _).trans ((if_neg hfar).trans (if_pos (hno.imp (fun h => Bool.eq_false_iff.1 h) id)))

theorem mgtWrite_permitted (h : Managed k p 2 m s) (hnear : s.assigned = true ∨ leAt m.data 13 1 = 0) {r : Reg} (hr : abReg (leAt m.data 20 4) = some r)
    (hwr : s.flag .abCtl AB_CTL_MGTWR = true) (hmgr : s.assigned = true → m.src = s.fld .abCtl AB_CTL_MGR) :
    s.mgtWrite k = (unlanded s k p m).abWrite r .whole (leAt m.data 24 8) := by
  have hfar : ¬ (unlanded s k p m).mgtFar m = true := by
    have := mgtFar_near (s := unlanded s k p m) (m := m) hnear
    simp [this]
  have hno : ¬ (¬ s.flag .abCtl AB_CTL_MGTWR = true ∨ (s.assigned = true ∧ m.src ≠ s.fld .abCtl AB_CTL_MGR)) := by
    rintro (h | ⟨ha, hm⟩)
    · exact h hwr
    · exact hm (hmgr ha)
  refine (onMgt_managed h _).trans ((if_neg hfar).trans ((if_neg hno).trans ?_))
  rw [hr]

/-- A field that software writes takes its bits of a whole word. -/
theorem fld_plainWrite_whole (hs : RegsOk s) {r : Reg} {f : Fld} (hl : tidy (regFields r) = true) (hf : f ∈ regFields r) (hrw : f.acc = .rw)
    (hhit : fhit (halfMask .whole) f = true) (hw : f.lo + f.w ≤ 64) {v : Nat} (hv : v < 2 ^ 64) :
    (s.plainWrite r .whole v).fld r f = bits v f.lo f.w := by
  rw [fld_plainWrite hs hl hf, writeFld, if_pos hhit, hrw]
  have hval : halfVal .whole v = v := Nat.mod_eq_of_lt hv
  simp only [hval]
  rw [fget_fput_self _ _ _ hw]
  exact Nat.mod_eq_of_lt (bits_lt _ _ _)

end Sys2Proof.Proofs.FabricMessages

namespace Sys2Proof.Proofs.FabricMessages

open Sys2Proof Sys2Proof.Machine Sys2Proof.Safety Sys2Proof.Proofs.RaisedCauses
open Sys2Proof.Proofs.SketchRegionsTideAndTemperature (raised_raiseRec)

variable {s u x : State} {k p q l rt st : Nat} {m : Msg} {data : List Byte}

/-! ### What an answer leaves -/

theorem outbox_sent (s : State) (k p : Nat) (m : Msg) (q : Nat) (r : Msg) :
    (sent (unlanded s k p m) q r).outbox = s.outbox ++ [credOf p m, Out.link q r] := List.append_assoc ..

/-- A request that is answered: its credit returns, the answer leaves by the route back, and nothing else changes. -/
theorem answered (hx : x = (u.unland k p m).answer m st data) (hrt : (if m.mtype = 1 then 0x10 else 0x11) = rt) (hup : u.portUp p = true)
    (hl : Leads m.src q l u) (hf : Free q 1 l u) : ∃ t : State, (Host.Outcome.next x : Res) = .next t ∧
      t.outbox = u.outbox ++ [credOf p m, Out.link q (reply rt st l data m u)] ∧ t.fab.landing = u.fab.landing.eraseIdx k ∧
      t = { u with fab := t.fab, outbox := t.outbox } := by
  subst hrt
  exact ⟨_, congrArg _ (hx.trans (unland_answer hup hl hf st data)), outbox_sent .., rfl, rfl⟩

theorem refused (hx : x = (u.unland k p m).refuseReq p m st) (hst : st ≠ 3) (hrt : (if m.mtype = 1 then 0x10 else 0x11) = rt) (hup : u.portUp p = true)
    (hl : Leads m.src q l u) (hf : Free q 1 l u) : ∃ t : State, (Host.Outcome.next x : Res) = .next t ∧
      t.outbox = u.outbox ++ [credOf p m, Out.link q (reply rt st l [] m u)] ∧ t.fab.landing = u.fab.landing.eraseIdx k ∧
      t = { u with fab := t.fab, outbox := t.outbox } :=
  answered (hx.trans (by rw [refuseReq_plain hst])) hrt hup hl hf

/-- A request refused as ADDR is answered so, and its event goes to DPART's log. -/
theorem refusedAddr (hx : x = (s.unland k p m).refuseReq p m 3) (hrt : (if m.mtype = 1 then 0x10 else 0x11) = rt) (hup : s.portUp p = true)
    (hl : Leads m.src q l s) (hf : Free q 1 l s) : ∃ t : State, (Host.Outcome.next x : Res) = .next t ∧
      t.outbox = s.outbox ++ [credOf p m, Out.link q (reply rt 3 l [] m s)] ∧ Raised m.dpart (srcL (p / 4)) 0x0807 [] s t ∧ t.mem = s.mem ∧ t.regs = s.regs ∧
      t.fab.landing = s.fab.landing.eraseIdx k := by
  subst hrt
  exact ⟨_, congrArg _ (hx.trans (unland_refuseAddr hup hl hf)), List.append_assoc .., raised_raiseRec rfl rfl _ _ _ _, rfl, rfl, rfl⟩

theorem answerType_rd (h : Landed k p 1 m s) : (if m.mtype = 1 then 0x10 else 0x11) = 0x10 := if_pos h.2.2.2.1

theorem answerType_other {t : Nat} (h : Landed k p t m s) (ht : t ≠ 1) : (if m.mtype = 1 then 0x10 else 0x11) = 0x11 :=
  if_neg (h.2.2.2.1.symm ▸ ht)

theorem not_rdBad (h32 : 32 ≤ m.len) (h256 : m.len ≤ 256) (hblk : m.addr < 2 ^ 40 → m.addr % 256 + m.len ≤ 256) : ¬ RdBad m := by
  rintro (h | h | ⟨ha, h⟩)
  · omega
  · omega
  · exact absurd (hblk ha) (Nat.not_le.2 h)

/-! ### An add that is served -/

open Sys2Proof.Proofs.MemoryPathsAndAdds (Unshared updated updated_eq updated_mem updated_counts length_bytesAt)

theorem sameFabric_updated (hr : RegsOk s) (a c : Nat) (b : List Byte) : SameFabric s (updated a c b s) := by
  obtain ⟨-, -, -, hbut⟩ := updated_counts (a := a) (k := c) (b := b) hr rfl
  obtain ⟨rs, heq⟩ := updated_eq a c b s
  have hhub := hubOf_lt a
  exact sameFabric_of_regsBut ((congrArg State.fab heq).trans rfl) hbut (by simp only [List.mem_singleton, forall_eq, regOff]; omega)

theorem outbox_updated (a c : Nat) (b : List Byte) (s : State) : (updated a c b s).outbox = s.outbox := by
  obtain ⟨rs, heq⟩ := updated_eq a c b s
  rw [heq]

theorem add_served (hc : Canonical s) (h : Landed k p 3 m s) (h1 : 1 ≤ m.len) (h256 : m.len ≤ 256) (ha : m.aux % 16 ≠ 0)
    (hw : m.aux % 16 ≤ 7 → m.len % addWidth (m.aux % 16) = 0) (h7 : m.aux % 16 ≤ 7) (hu : Unshared m.addr m.len s)
    (hplain : ∀ n o, regionOf m.addr = .sketch n o → s.plainBlock n o = false) (hg : Granted s m) (hl : Leads m.src q l s) (hf : Free q 1 l s) :
    ∃ t : State, exec (.add k false) s = .next t ∧
      memRead t.mem m.addr m.len = (addBytes (m.aux % 16) (m.len / addWidth (m.aux % 16)) (s.rd m.addr m.len) (bytesAt m.data 0 m.len)).1 ∧
      MemBut m.addr m.len s t ∧ t.outbox = s.outbox ++ [credOf p m, Out.link q (reply 0x11 0 l [] m s)] ∧
      t.fld (.msaStat ((hubOf m.addr).getD 0)) MSA_STAT_ADDS = (s.fld (.msaStat ((hubOf m.addr).getD 0)) MSA_STAT_ADDS + 1) % 2 ^ MSA_STAT_ADDS.w ∧
      RegsBut [.msaStat ((hubOf m.addr).getD 0)] s t ∧ t.fab.landing = s.fab.landing.eraseIdx k := by
  obtain ⟨hm, hr⟩ := hc
  have hend := hg.addEnd h.1 h1 (by omega) h7 hu hplain (some (.msg m))
  have hserve := (serveWr_end h (not_wrBad_add h1 h256 ha hw) (hg.reqCheck h1) hend).1 rfl
  have hlen := length_bytesAt m.data 0 m.len
  have hsame := sameFabric_updated hr m.addr (m.aux % 16) (bytesAt m.data 0 m.len)
  have hkept := outbox_updated m.addr (m.aux % 16) (bytesAt m.data 0 m.len) s
  obtain ⟨hadds, -, -, hbut⟩ := updated_counts (a := m.addr) (k := m.aux % 16) (b := bytesAt m.data 0 m.len) hr rfl
  obtain ⟨hmem, hrest⟩ := updated_mem (a := m.addr) (k := m.aux % 16) (b := bytesAt m.data 0 m.len) hm (by rw [hlen]; exact hw h7)
  rw [hlen] at hmem hrest
  generalize updated m.addr (m.aux % 16) (bytesAt m.data 0 m.len) s = u at hserve hadds hbut hmem hrest hsame hkept
  obtain ⟨t, hstep, hout, hland, hframe⟩ := answered hserve (answerType_other h (by decide)) (hsame.portUp h.2.1) (hsame.leads hl) (hsame.free hf)
  have hmemt : t.mem = u.mem := (congrArg State.mem hframe).trans rfl
  have hregst : t.regs = u.regs := (congrArg State.regs hframe).trans rfl
  rw [reply, hsame.modNum, hkept] at hout
  rw [hsame.fab] at hland
  refine ⟨t, hstep, by rw [hmemt]; exact hmem, fun a ha => ?_, hout, ?_, fun o ho => ?_, hland⟩
  · rw [hmemt]
    exact hrest a ha
  · rw [State.fld, State.reg, hregst]
    exact hadds
  · rw [hregst]
    exact hbut o ho

/-! ### Responses, as the requester takes them -/

variable {t : Nat} {o : Outst}

theorem taken_ok (h : Landed k p t m s) (hst : m.status = 0) (ho : Answers m o s) (hpiece : o.piece = none) (hstale : o.stale = false) :
    s.takeResp k t = { s with
      fab := { s.fab with landing := s.fab.landing.eraseIdx k, outst := dropFirst (· = o) s.fab.outst }
      outbox := s.outbox ++ [credOf p m, Out.fabricResp o.srcid o.tag 0 m.data] } := by
  rw [((takeResp_some h (by omega) ho).2.2 hstale hst).1 hpiece, State.emit, settledBy]
  simp only [List.append_assoc, List.cons_append, List.nil_append]

theorem taken_failed (h : Landed k p t m s) (h0 : m.status ≠ 0) (h2 : m.status ≠ 2) (ho : Answers m o s) (hpiece : o.piece = none) (hstale : o.stale = false)
    (hq : isQuadUnit o.srcid = false) : s.takeResp k t = { s with
      fab := { s.fab with landing := s.fab.landing.eraseIdx k, outst := dropFirst (· = o) s.fab.outst }
      outbox := s.outbox ++ [credOf p m, Out.fabricResp o.srcid o.tag m.status []] } := by
  rw [(takeResp_some h h2 ho).2.1 hstale h0, reqFailed_other hpiece hq, State.emit, settledBy]
  simp only [List.append_assoc, List.cons_append, List.nil_append]

theorem taken_stale (h : Landed k p t m s) (hst : m.status = 2) : ∃ t' : State, (Host.Outcome.next (s.takeResp k t) : Res) = .next t' ∧
    Raised (if isQuadUnit m.srcid then s.quadLog (m.srcid / 16) else modLog) m.srcid 0x0307 [] s t' ∧ t'.regs = s.regs ∧ t'.mem = s.mem ∧
      t'.fab.landing = s.fab.landing.eraseIdx k := by
  have hstep := takeResp_stale h hst
  rw [State.staleBack, SketchRegionsTideAndTemperature.raise_silent rfl] at hstep
  exact ⟨_, congrArg _ hstep, raised_raiseRec rfl rfl _ _ _ _, rfl, rfl, rfl⟩

theorem leBytes_low (x : Nat) : leBytes 4 (x % 2 ^ 32) = leBytes 4 x := by
  simp only [leBytes, List.cons.injEq, and_true]
  refine ⟨?_, ?_, ?_, ?_⟩
  all_goals
    refine BitVec.eq_of_toNat_eq ?_
    simp only [BitVec.toNat_ofNat, Nat.shiftRight_eq_div_pow]
    omega

end Sys2Proof.Proofs.FabricMessages

section

open Sys2Proof Sys2Proof.Proofs Sys2Proof.Machine Sys2Proof.Safety Sys2Proof.Proofs.FabricMessages Sys2Proof.Proofs.MemoryPathsAndAdds Sys2Proof.Proofs.RaisedCauses
open Sys2Proof.Proofs.SketchRegionsTideAndTemperature (regsBut_trans regsBut_of_regs regsBut_mono fld_of_regsBut flag_of_regsBut raised_raiseRec raise_silent)
open Sys2Proof.Proofs.IssueOfInstructions (bits_one)
open Sys2Proof.Proofs.QueriesAndTheirCompletions (length_leBytes ofLE_leBytes leAt_lt)

/-- Settles O53: a landed message leaves its landing first, and what is answered, sent on or applied is read off its type. -/
theorem messagesServedForwardedAndManaged : Obligations.MessagesServedForwardedAndManaged := by
  unfold Obligations.MessagesServedForwardedAndManaged
  refine ⟨?_, ?_, ?_, ?_, ?_, ?_, ?_, ?_, ?_, ?_, ?_, ?_, ?_, ?_, ?_, ?_, ?_, ?_, ?_, ?_, ?_, ?_, ?_, ?_, ?_, ?_, ?_, ?_, ?_, ?_, ?_, ?_, ?_, ?_, ?_, ?_,
    ?_, ?_, ?_, ?_, ?_, ?_, ?_, ?_, ?_, ?_, ?_, ?_⟩
  -- RD, WR and ADD of DRAM
  · intro s k p q l m h h32 hblk hdr hpeer hfirst hlast hdram hstill hsound hl hf
    have hg : Granted s m := ⟨hdr, hpeer, hfirst, hlast, hdram, hstill, hsound⟩
    have hserve := serveRd_ok h (not_rdBad h32 (by omega) fun _ => hblk) (hg.reqCheck (by omega)) (hg.readEnd h.1 (by omega))
    exact answered hserve (answerType_rd h) h.2.1 hl hf
  · intro s k p q l m hm h h1 h256 hu hdr hpeer hfirst hlast hdram hstill hsound hl hf
    have hg : Granted s m := ⟨hdr, hpeer, hfirst, hlast, hdram, hstill, hsound⟩
    have hend := (hg.writeEnd h.1 h1 (some (.msg m))).trans (sharedWrite_unshared hu)
    have hserve := (serveWr_end h (not_wrBad_write h1 h256) (hg.reqCheck h1) hend).1 rfl
    obtain ⟨t, hstep, hout, hland, hframe⟩ := answered (u := s.wr m.addr (bytesAt m.data 0 m.len)) hserve (answerType_other h (by decide)) h.2.1 hl hf
    have hmem : t.mem = memWrite s.mem m.addr (bytesAt m.data 0 m.len) := by rw [hframe]; rfl
    have hread := memRead_memWrite s.mem m.addr (bytesAt m.data 0 m.len) hm
    have hbut := memBut_wr s m.addr (bytesAt m.data 0 m.len)
    rw [length_bytesAt] at hread hbut
    refine ⟨t, hstep, by rw [hmem]; exact hread, ?_, hout, hland, ?_⟩
    · intro a ha
      rw [hmem]
      exact hbut a ha
    · rw [hmem]
      exact hframe
  · intro s k p m hm h h1 h256 hsh hdr hpeer hfirst hlast hdram hstill hsound
    have hg : Granted s m := ⟨hdr, hpeer, hfirst, hlast, hdram, hstill, hsound⟩
    obtain ⟨rs, net, hub, lines, hhub, hbut, hack, hshared⟩ := sharedWrite_queued (src := portL p) (who := some (.msg m)) (b := bytesAt m.data 0 m.len) hsh
    have hserve := (serveWr_end h (not_wrBad_write h1 h256) (hg.reqCheck h1) ((hg.writeEnd h.1 h1 (some (.msg m))).trans hshared)).2.1 rfl
    have hsame : SameFabric s { s with regs := rs, mem := memWrite s.mem m.addr (bytesAt m.data 0 m.len), net := net } :=
      sameFabric_of_regsBut rfl hbut (by simp only [List.mem_singleton, forall_eq, regOff]; omega)
    have hread := memRead_memWrite s.mem m.addr (bytesAt m.data 0 m.len) hm
    have hrest := memBut_wr s m.addr (bytesAt m.data 0 m.len)
    rw [length_bytesAt] at hread hrest
    exact ⟨_, congrArg Host.Outcome.next (hserve.trans (unland_up (hsame.portUp h.2.1) k m)), hread, hrest, rfl, rfl, ⟨_, hack, rfl, rfl, rfl⟩⟩
  · intro s k p q l m hc h h1 h256 ha hw h7 hu hplain hdr hpeer hfirst hlast hdram hstill hsound hl hf
    exact add_served hc h h1 h256 ha hw h7 hu hplain ⟨hdr, hpeer, hfirst, hlast, hdram, hstill, hsound⟩ hl hf
  · intro s k p q l x m hc h haux hlen _ hdata hu hhbm hdr hpeer hfirst hlast hdram hstill hsound hl hf
    have hplain : ∀ n o, regionOf m.addr = .sketch n o → s.plainBlock n o = false := fun n o hr => by
      rw [regionOf, if_pos hhbm] at hr
      exact Region.noConfusion hr
    obtain ⟨t, hstep, hmem, hrest, hout, -, hbut, hland⟩ := add_served hc h (by omega) (by omega) (by omega) (fun _ => by rw [haux, hlen]; rfl) (by omega) hu hplain
      ⟨hdr, hpeer, hfirst, hlast, hdram, hstill, hsound⟩ hl hf
    have hfour : bytesAt m.data 0 4 = leBytes 4 (x % 2 ^ 32) := by
      have hself := bytesAt_self (leBytes 4 x)
      rw [length_leBytes] at hself
      rw [hdata, hself, leBytes_low]
    have hold : (s.rd m.addr 4).length = 4 := memRead_length _ _ _
    rw [haux, hlen, hfour, show 4 / addWidth 4 = 1 from rfl, addBytes_int32 hold (Nat.mod_lt _ (by decide))] at hmem
    rw [hlen] at hrest
    rw [hubOf_hbm hhbm] at hbut
    refine ⟨t, hstep, ?_, hrest, hout, hbut, hland⟩
    rw [State.rdLE, State.rd, hmem, ofLE_leBytes, State.rdLE]
    omega
  · intro s k p q l m h h1 h256 ha hw hc hl hf
    obtain ⟨t, hstep, hout, hland, hframe⟩ := answered (serveWr_fault h (not_wrBad_add h1 h256 ha hw) hc) (answerType_other h (by decide)) h.2.1 hl hf
    exact ⟨t, hstep, hout, hland, hframe⟩
  -- what other memory answers
  · intro s u k p q l st m x e h h32 h256 hblk hc hend hst hup hl hf
    subst hst
    exact answered (serveRd_ok h (not_rdBad h32 h256 hblk) hc hend) (answerType_rd h) hup hl hf
  · intro s u k p q l st m x e h h32 h256 hblk hc hend hst hup hl hf
    exact refused (serveRd_no h (not_rdBad h32 h256 hblk) hc hend) hst (answerType_rd h) hup hl hf
  · intro s u k p q l st m h h1 h256 hc hend hst hup hl hf
    subst hst
    exact answered ((serveWr_end h (not_wrBad_write h1 h256) hc hend).1 rfl) (answerType_other h (by decide)) hup hl hf
  · intro s u k p q l st m h h1 h256 hc hend hst hup hl hf
    exact refused ((serveWr_end h (not_wrBad_write h1 h256) hc hend).2.2 st rfl) hst (answerType_other h (by decide)) hup hl hf
  · intro s u k p q l st m h h1 h256 ha hw hc hend hst hup hl hf
    subst hst
    exact answered ((serveWr_end h (not_wrBad_add h1 h256 ha hw) hc hend).1 rfl) (answerType_other h (by decide)) hup hl hf
  · intro s u k p q l st m h h1 h256 ha hw hc hend hst hup hl hf
    exact refused ((serveWr_end h (not_wrBad_add h1 h256 ha hw) hc hend).2.2 st rfl) hst (answerType_other h (by decide)) hup hl hf
  -- a partition that drains
  · intro s k p q l m e h h32 h256 hblk hdr hl hf
    exact refused (serveRd_checked h (not_rdBad h32 h256 hblk) (reqCheck_draining hdr) e) (by decide) (answerType_rd h) h.2.1 hl hf
  · intro s k p q l m h h1 h256 hdr hl hf
    exact refused (serveWr_checked h (not_wrBad_write h1 h256) (reqCheck_draining hdr) false) (by decide) (answerType_other h (by decide)) h.2.1 hl hf
  · intro s k p q l m f h h1 h256 ha hw hdr hl hf
    exact refused (serveWr_checked h (not_wrBad_add h1 h256 ha hw) (reqCheck_draining hdr) f) (by decide) (answerType_other h (by decide)) h.2.1 hl hf
  -- ADDR
  · intro s k p q l m e h hbad hl hf
    by_cases hb : RdBad m
    · exact refusedAddr (serveRd_bad h hb e) (answerType_rd h) h.2.1 hl hf
    · have hno : s.ptState m.dpart ≠ 2 ∧ (s.peerOk m.dpart m.src m.spart = false ∨ s.dpartOwns m m.len = false) := by
        rcases hbad with hx | hx | hx | hx
        · exact absurd (.inl hx) hb
        · exact absurd (.inr (.inl hx)) hb
        · exact absurd (.inr (.inr hx)) hb
        · exact hx
      exact refusedAddr (serveRd_checked h hb (reqCheck_addr hno.1 hno.2) e) (answerType_rd h) h.2.1 hl hf
  · intro s k p q l m h hbad hl hf
    by_cases hb : WrBad 2 m
    · exact refusedAddr (serveWr_bad h hb false) (answerType_other h (by decide)) h.2.1 hl hf
    · have hno : s.ptState m.dpart ≠ 2 ∧ (s.peerOk m.dpart m.src m.spart = false ∨ s.dpartOwns m m.len = false) := by
        rcases hbad with hx | hx | hx
        · exact absurd (.inl hx) hb
        · exact absurd (.inr (.inl hx)) hb
        · exact hx
      exact refusedAddr (serveWr_checked h hb (reqCheck_addr hno.1 hno.2) false) (answerType_other h (by decide)) h.2.1 hl hf
  · intro s k p q l m f h hbad hl hf
    by_cases hb : WrBad 3 m
    · exact refusedAddr (serveWr_bad h hb f) (answerType_other h (by decide)) h.2.1 hl hf
    · have hno : s.ptState m.dpart ≠ 2 ∧ (s.peerOk m.dpart m.src m.spart = false ∨ s.dpartOwns m m.len = false) := by
        rcases hbad with hx | hx | hx | hx | hx
        · exact absurd (.inl hx) hb
        · exact absurd (.inr (.inl hx)) hb
        · exact absurd (.inr (.inr ⟨rfl, .inl hx⟩)) hb
        · exact absurd (.inr (.inr ⟨rfl, .inr hx⟩)) hb
        · exact hx
      exact refusedAddr (serveWr_checked h hb (reqCheck_addr hno.1 hno.2) f) (answerType_other h (by decide)) h.2.1 hl hf
  -- SIG
  · intro s k p e j n m hs h he he80 hj hn hpeer hgone hon hinst hepoch hsum
    subst he hj hn
    have hawake := (serveSig_awake h ⟨hpeer, he80⟩ hgone hon).trans (if_pos ⟨Option.isSome_iff_ne_none.2 hinst, hepoch⟩)
    obtain ⟨rs, hset, -, hself, -, hbut⟩ := setFld_spec (s := unlanded s k p m) hs (semReg (bits m.aux 0 7) (bits m.aux 8 8)) (semFld (bits m.aux 8 8))
      (s.sem (bits m.aux 0 7) (bits m.aux 8 8) + bits m.aux 16 16) (by simp only [semFld]; omega)
    have hadd : (unlanded s k p m).addSem (bits m.aux 0 7) (bits m.aux 8 8) (bits m.aux 16 16) (portL p) = { unlanded s k p m with regs := rs } :=
      (if_pos hsum).trans hset
    exact ⟨_, congrArg Host.Outcome.next (hawake.trans hadd), hself.trans (Nat.mod_eq_of_lt (Nat.lt_of_le_of_lt hsum (show 0xFFFF < 2 ^ 16 by decide))), hbut, rfl⟩
  · intro s k p q l e m hs h he he80 hpeer hgone hon hstale hl hf
    subst he
    have hno : ¬ ((s.quadInst (bits m.aux 0 7)).isSome = true ∧ (s.flag (.abPort p) AB_PORT_PEER2 = true ∨
        (m.epoch ≠ 0 ∧ s.fld (.schQuad (bits m.aux 0 7)) SCH_QUAD_EPOCH = m.epoch))) := by
      rintro ⟨hsome, hok⟩
      rcases hstale with hnone | ⟨hold, hdiff⟩
      · simp [hnone] at hsome
      · rcases hok with hok | ⟨h0, heq⟩
        · exact Bool.false_ne_true (hold.symm.trans hok)
        · exact hdiff.elim h0 fun h => h heq
    have hawake := (serveSig_awake h ⟨hpeer, he80⟩ hgone hon).trans (if_neg hno)
    obtain ⟨rs, hset, hself, hbut⟩ := incFld_sat (s := unlanded s k p m) hs (.schQuad (bits m.aux 0 7)) (f := SCH_QUAD_STALE) (by decide) rfl 1
    have hsame : SameFabric (unlanded s k p m) { unlanded s k p m with regs := rs } :=
      sameFabric_of_regsBut rfl hbut (by simp only [List.mem_singleton, forall_eq, regOff]; omega)
    have hans := answer_sent (s := { unlanded s k p m with regs := rs }) (hsame.leads hl) (hsame.free hf) 2 []
    rw [reply, hsame.modNum, answerType_other h (by decide)] at hans
    rw [hset, hans] at hawake
    exact ⟨_, congrArg Host.Outcome.next hawake, hself, outbox_sent s k p m q _, hbut, rfl⟩
  · intro s k p q l e m hs h he he80 hpeer hgone hl hf
    subst he
    have hans := answer_sent (s := unlanded s k p m) hl hf 1 []
    rw [answerType_other h (by decide)] at hans
    exact ⟨_, congrArg Host.Outcome.next ((serveSig_gone h ⟨hpeer, he80⟩ hgone).trans hans), outbox_sent .., rfl, rfl⟩
  · intro s k p m hs h hbad
    obtain ⟨rs, hset, hself, hbut⟩ := incFld_sat (s := unlanded s k p m) hs (.abPortc p) (f := AB_PORTC_BADMSG) (by decide) rfl 1
    exact ⟨_, congrArg Host.Outcome.next ((serveSig_bad h hbad).trans hset), hself, hbut, rfl⟩
  -- responses
  · intro s k p m o h hst ho hpiece hstale
    exact congrArg Host.Outcome.next (taken_ok h hst ho hpiece hstale)
  · intro s k p m o h hst ho hpiece hstale
    exact congrArg Host.Outcome.next (taken_ok h hst ho hpiece hstale)
  · intro s k p m o h hst ho hstale
    exact congrArg Host.Outcome.next ((takeResp_some h hst ho).1 hstale)
  · intro s k p m o h hst ho hstale
    exact congrArg Host.Outcome.next ((takeResp_some h hst ho).1 hstale)
  · intro s k p m h hst hno
    exact congrArg Host.Outcome.next (takeResp_none h hst hno)
  · intro s k p m h hst hno
    exact congrArg Host.Outcome.next (takeResp_none h hst hno)
  · intro s k p m o h h0 h2 ho hpiece hstale hq
    exact congrArg Host.Outcome.next (taken_failed h h0 h2 ho hpiece hstale hq)
  · intro s k p m o h h0 h2 ho hpiece hstale hq
    exact congrArg Host.Outcome.next (taken_failed h h0 h2 ho hpiece hstale hq)
  · intro s k p n j off len skip m o h hst ho hpiece hstale hkind
    exact congrArg Host.Outcome.next ((((takeResp_some h (by omega) ho).2.2 hstale hst).2 n j off len skip hpiece).1 hkind)
  · intro s k p n j off len skip m o h hst ho hpiece hstale hkind
    exact congrArg Host.Outcome.next ((((takeResp_some h (by omega) ho).2.2 hstale hst).2 n j off len skip hpiece).2 hkind)
  · intro s k p m h hst
    exact taken_stale h hst
  · intro s k p m h hst
    exact taken_stale h hst
  -- expiries
  · intro s tag h
    exact congrArg Host.Outcome.next (rtoExpiry_early h)
  · intro s tag o ho hdue hstale hpiece hq
    have hfail := (rtoExpiry_due ho hdue).trans ((if_neg (by simp [hstale])).trans (reqFailed_other hpiece hq))
    obtain ⟨ev, hgone, hraised⟩ := expired_spec s o
    rw [hgone] at hfail
    exact ⟨_, congrArg Host.Outcome.next hfail, hraised, rfl⟩
  · intro s tag o ho hdue hstale
    have hgone := (rtoExpiry_due ho hdue).trans (if_pos hstale)
    obtain ⟨ev, hspec, hraised⟩ := expired_spec s o
    rw [hspec] at hgone
    exact ⟨_, congrArg Host.Outcome.next hgone, hraised, rfl⟩
  · intro s tag i o hs ho hdue hstale hpiece hq hinst hi hrun
    obtain ⟨rs, ev, gs, ctl, hstep, hflag, hbut, hraised⟩ := rtoExpiry_quad hs ho hdue hstale hpiece hq hinst hrun
    exact ⟨_, congrArg Host.Outcome.next hstep, rfl, rfl, hflag, hbut, hraised⟩
  -- forwarding
  · intro s k p q l m hp hup hl hd ht hcol hh hleads hf
    have hroute : m.mtype ≠ 0x30 ∨ (m.rlen = 0 ∧ leAt m.data 0 1 = 5) := ht.imp id fun h => ⟨h.1, h.2.1⟩
    have hsend := sendMsg_sent (s := unlanded s k p m) (m := { m with hops := m.hops + 1 }) hleads hf hcol
    have hstamp := stamp_other (s := unlanded s k p m) (m := { m with hops := m.hops + 1, lvl := max m.lvl l }) (ht.imp id fun h => h.2.2) q
    have hgone := hsend.trans (congrArg (fun r => (sent (unlanded s k p m) q r, true)) hstamp)
    exact ⟨_, congrArg Host.Outcome.next ((forward_routed hup hl hd hroute).2 _ (by omega) hgone), rfl, outbox_sent .., rfl⟩
  · intro s k p q l m hp hup hl hd hreq hh hleads hf
    have ht : m.mtype ≠ 0x30 := by
      simp only [isReq, Bool.and_eq_true, decide_eq_true_eq] at hreq
      omega
    have hfail := (forward_routed (k := k) hup hl hd (.inl ht)).1 hh hreq
    rw [answer_sent (s := (unlanded s k p m).raiseRec modLog (portL p) 0x0805 []) hleads hf 5 []] at hfail
    have hraised := raised_raiseRec (s := s) (u := unlanded s k p m) rfl rfl modLog (portL p) 0x0805 []
    exact ⟨_, congrArg Host.Outcome.next hfail, rfl, raised_sent hraised q _, List.append_assoc ..⟩
  · intro s k p q m hp hup hl ht hr hq hsrc hass hf
    subst hq
    have hsend := portSend_free (s := unlanded s k p m) (m := steered p m) hf
    rw [stamp_other (s := unlanded s k p m) (m := steered p m) (.inr hsrc)] at hsend
    have hfwd := (forward_steered hup hl ht hr).trans ((if_neg (by simp [hass])).trans (if_pos hf.2.1))
    exact ⟨_, congrArg Host.Outcome.next (hfwd.trans hsend), rfl, outbox_sent ..⟩
  · intro s k p m hs hp hup hl ht hr hass
    obtain ⟨rs, hset, hself, hbut⟩ := incFld_sat (s := unlanded s k p m) hs (.abPortc p) (f := AB_PORTC_BADMSG) (by decide) rfl 1
    have hfwd := (forward_steered hup hl ht hr).trans (if_pos (by simp [hass]))
    exact ⟨_, congrArg Host.Outcome.next (hfwd.trans hset), hself, hbut, rfl⟩
  -- management
  · intro s k p off r m h hoff hr hnear hf
    subst hoff
    have hreply := mgtReply_sent (s := unlanded s k p m) (m := m) (st := 0) (value := s.abRead r) h.2.1 hf
    exact ⟨_, congrArg Host.Outcome.next (((mgtRead_managed h hnear).1 r hr).trans hreply), rfl, outbox_sent .., rfl⟩
  · intro s k p off m h hoff hr hnear hf
    subst hoff
    have hreply := mgtReply_sent (s := unlanded s k p m) (m := m) (st := 3) (value := 0) h.2.1 hf
    exact ⟨_, congrArg Host.Outcome.next (((mgtRead_managed h hnear).2 hr).trans hreply), rfl, outbox_sent .., rfl⟩
  · intro s k p r m h hr hnear hwr hmgr
    exact congrArg Host.Outcome.next (mgtWrite_permitted h hnear hr hwr hmgr)
  · intro s k p j v m hs h hj hr hv hnear hwr hmgr
    subst hv
    have hlt : leAt m.data 24 8 < 2 ^ 64 := Nat.lt_of_lt_of_le (leAt_lt m.data 24 8) (by decide)
    have hwrite : s.mgtWrite k = (unlanded s k p m).plainWrite (.abRoute j) .whole (leAt m.data 24 8) := mgtWrite_permitted h hnear hr hwr hmgr
    have htidy : MemoryErrorsTemperaturesAndFlash.tidy [AB_ROUTE_PRIM, AB_ROUTE_ALT, AB_ROUTE_PLVL, AB_ROUTE_ALVL, AB_ROUTE_VALID, AB_ROUTE_ONALT] = true := by
      decide
    have hfld (f : Fld) (hf : f ∈ [AB_ROUTE_PRIM, AB_ROUTE_ALT, AB_ROUTE_PLVL, AB_ROUTE_ALVL, AB_ROUTE_VALID, AB_ROUTE_ONALT]) (hrw : f.acc = .rw)
        (hhit : fhit (halfMask .whole) f = true) : ((unlanded s k p m).plainWrite (.abRoute j) .whole (leAt m.data 24 8)).fld (.abRoute j) f =
          bits (leAt m.data 24 8) f.lo f.w :=
      fld_plainWrite_whole (s := unlanded s k p m) (r := .abRoute j) hs htidy hf hrw hhit (RegisterWrites.le_of_tidy htidy hf) hlt
    have hprim := hfld AB_ROUTE_PRIM (by decide) rfl (by decide)
    have halt := hfld AB_ROUTE_ALT (by decide) rfl (by decide)
    have hplvl := hfld AB_ROUTE_PLVL (by decide) rfl (by decide)
    have hvalid := (hfld AB_ROUTE_VALID (by decide) rfl (by decide)).trans (bits_one (leAt m.data 24 8) 34)
    have hbut := RegisterWrites.regsBut_plainWrite (unlanded s k p m) (.abRoute j) .whole (leAt m.data 24 8)
    obtain ⟨rs, heq⟩ := RegisterWrites.onlyRegs_plainWrite (unlanded s k p m) (.abRoute j) .whole (leAt m.data 24 8)
    rw [heq] at hwrite hprim halt hplvl hvalid hbut
    exact ⟨_, congrArg Host.Outcome.next hwrite, hprim, halt, hplvl, PowerAndTokens.flag_of_fld hvalid, hbut, rfl⟩
  · intro s k p m h hnear hno hf
    have hreply := mgtReply_sent (s := unlanded s k p m) (m := m) (st := 3) (value := 0) h.2.1 hf
    exact ⟨_, congrArg Host.Outcome.next ((mgtWrite_refused h hnear hno).trans hreply), rfl, outbox_sent ..⟩
  · intro s k p m h
    refine congrArg Host.Outcome.next ((onMgt_managed h _).trans ?_)
    simp only [State.emit, unlanded, List.append_assoc, List.cons_append, List.nil_append]

end

/-! Collective groups: the window of a group and the step that a write of it runs or starts (14 R329, R330). -/

namespace Sys2Proof.Proofs.CollectiveSteps

open Sys2Proof Sys2Proof.Machine Sys2Proof.Safety Sys2Proof.Proofs.RaisedCauses Sys2Proof.Proofs.FabricMessages

variable {s u : State} {g src off q l w : Nat} {d bs : List Byte} {i : Inst}

/-! ### A group's state -/

/-- The state with another table of group states. -/
abbrev withGroups (s : State) (gs : Tab GroupSt) : State := { s with fab := { s.fab with groups := gs } }

/-- The table of group states is in canonical form. -/
abbrev GroupsOk (s : State) : Prop := twf (fun _ => ({} : GroupSt)) s.fab.groups = true

theorem gst_setGst (hw : GroupsOk s) (g : Nat) (v : GroupSt) : (s.setGst g v).gst g = v := tget_tset_self _ _ _ _ hw

theorem groupsOk_setGst (hw : GroupsOk s) (g : Nat) (v : GroupSt) : GroupsOk (s.setGst g v) := twf_tset _ _ _ _ hw

/-- A group's state once its step runs. -/
def begun (s : State) (g : Nat) : GroupSt :=
  if (s.gst g).running then s.gst g else { s.gst g with running := true, since := s.svcTime }

theorem begun_idle (h : (s.gst g).running = false) : begun s g = { s.gst g with running := true, since := s.svcTime } := by
  rw [begun, h]
  rfl

theorem begun_running (s : State) (g : Nat) : (begun s g).running = true := by
  unfold begun
  split
  · assumption
  · rfl

theorem begun_kept (s : State) (g : Nat) : (begun s g).seq = (s.gst g).seq ∧ (begun s g).slots = (s.gst g).slots ∧ (begun s g).owed = (s.gst g).owed ∧
    (begun s g).done = (s.gst g).done := by
  unfold begun
  split <;> exact ⟨rfl, rfl, rfl, rfl⟩

/-- What starting a step leaves: the group's step runs, and no more changes. -/
theorem startStep_spec (hw : GroupsOk s) (g : Nat) : ∃ gs : Tab GroupSt, s.startStep g = withGroups s gs ∧ twf (fun _ => ({} : GroupSt)) gs = true ∧
    tgetD {} gs g = begun s g := by
  by_cases h : (s.gst g).running = true
  · exact ⟨s.fab.groups, if_pos h, hw, (if_pos h).symm⟩
  · exact ⟨_, if_neg h, groupsOk_setGst hw g _, (gst_setGst hw g _).trans (if_neg h).symm⟩

/-! ### COL messages to the parent -/

/-- The COL message of group `g`, described by `d`, to its parent: bytes at `off` of the slot, or END with MOD_RESP and PART. -/
def colMsg (s : State) (d : List Byte) (src g w l : Nat) (off : Nat) (bs : List Byte) : Option (Nat × Bool) → Msg
  | none => {
      mtype := 0x20, vc := 3, lvl := l, dst := grParent d, src := s.modNum, srcid := src, epoch := s.fld (.schInst (grInst d)) SCH_INST_EPOCH
      len := bs.length, addr := off, aux := g + grSlot d % 16 * 2 ^ 8 + 0 + w % 2 ^ 16 * 2 ^ 16, data := bs }
  | some (n, b) => {
      mtype := 0x20, vc := 3, lvl := l, dst := grParent d, src := s.modNum, srcid := src, epoch := s.fld (.schInst (grInst d)) SCH_INST_EPOCH
      len := bs.length, addr := n % 2 ^ 13 + (if b = true then 2 ^ 13 else 0)
      aux := g + grSlot d % 16 * 2 ^ 8 + 2 ^ 12 + (if b = true then 2 ^ 13 else 0) + w % 2 ^ 16 * 2 ^ 16, data := bs }

theorem post_sent {m : Msg} {dst c : Nat} (hasg : s.assigned = true) (hl : Leads dst q l s) (hf : Free q c l s) (h2 : s.flag (.abPort q) AB_PORT_PEER2 = false)
    (hd : m.dst = dst) (hc : vcOf m.mtype = c) (ht : m.mtype ≠ 0x30) (hlvl : m.lvl = 0) :
    s.post m = sent s q { m with src := s.modNum, vc := vcOf m.mtype, lvl := l } := by
  subst hd hc
  have hmax : max m.lvl l = l := by rw [hlvl, Nat.zero_max]
  have hsent := sendMsg_sent (m := { m with src := s.modNum, vc := vcOf m.mtype }) hl (by rw [hmax]; exact hf) fun _ => h2
  dsimp only at hsent
  rw [hmax, stamp_other (m := { m with src := s.modNum, vc := vcOf m.mtype, lvl := l }) (.inl ht)] at hsent
  exact (if_pos hasg).trans (congrArg Prod.fst hsent)

/-- A COL message to a parent that its port's route leads to leaves at once. -/
theorem sendCol_sent (hd : d = s.group g) (hasg : s.assigned = true) (hl : Leads (grParent d) q l s) (hf : Free q 3 l s)
    (h2 : s.flag (.abPort q) AB_PORT_PEER2 = false) (hg : g < 64) (src w off : Nat) (e : Option (Nat × Bool)) (bs : List Byte) :
    s.sendCol src g w e off bs = sent s q (colMsg s d src g w l off bs e) := by
  subst hd
  have htype : (0x20 : Nat) ≠ 0x30 := by decide
  cases e with
  | none =>
    refine (post_sent hasg hl hf h2 rfl rfl htype rfl).trans ?_
    rw [Nat.mod_eq_of_lt hg]
    rfl
  | some e =>
    refine (post_sent hasg hl hf h2 rfl rfl htype rfl).trans ?_
    rw [Nat.mod_eq_of_lt hg]
    rfl

/-! ### The window -/

/-- The window of group `g` is bound to instance `i`, of the partition of quad unit `src`. -/
structure WindowOf (s : State) (src g : Nat) (i : Inst) : Prop where
  lt : g < 64
  en : grEn (s.group g) = true
  quad : isQuadUnit src = true
  inst : s.inst (grInst (s.group g)) = some i
  part : s.quadPart (src / 16) = some i.part

/-- A write belongs to the running step, which it may start, unless the END of one before is owed. -/
def opened (s : State) (g : Nat) : State := if (s.gst g).owed = [] then s.startStep g else s

/-- The sequence, MOD_RESP and PART of the step that a window write belongs to. -/
def stepOf (st : GroupSt) : Nat × Nat × Bool := st.owed.headD (st.seq, st.resp, st.missing)

/-- A group's state once its own END has gone. -/
def closed (st : GroupSt) : GroupSt := if st.owed = [] then { st with sent := true } else { st with owed := st.owed.drop 1 }

theorem opened_owed (h : (s.gst g).owed ≠ []) : opened s g = s := if_neg h

theorem opened_spec (hw : GroupsOk s) (h : (s.gst g).owed = []) : ∃ gs : Tab GroupSt, opened s g = withGroups s gs ∧
    twf (fun _ => ({} : GroupSt)) gs = true ∧ tgetD {} gs g = begun s g := by
  rw [opened, if_pos h]
  exact startStep_spec hw g

theorem stepOf_begun (s : State) (g : Nat) : stepOf (begun s g) = stepOf (s.gst g) := by
  obtain ⟨hseq, hslots, howed, -⟩ := begun_kept s g
  rw [stepOf, stepOf, hseq, howed, GroupSt.resp, GroupSt.missing, hslots, GroupSt.resp, GroupSt.missing]

theorem closed_begun (h : (s.gst g).owed = []) : closed (begun s g) = { begun s g with sent := true } :=
  if_pos ((begun_kept s g).2.2.1.trans h)

/-- What a write of group `g`'s window of the step of sequence `w` sends: a root has no parent. -/
def contributed (root : Bool) (src g w : Nat) (e : Option (Nat × Bool)) (off : Nat) (bs : List Byte) (u : State) : State :=
  if root then u else u.sendCol src g w e off bs

/-- The window is the writer's own. -/
theorem WindowOf.mine (h : WindowOf s src g i) {α : Type} (x y : α) : (if 64 ≤ g ∨ ¬ grEn (s.group g) = true ∨ ¬ ((match s.inst (grInst (s.group g)) with
      | some i => isQuadUnit src && s.quadPart (src / 16) == some i.part
      | none => false) : Bool) = true then x else y) = y := by
  obtain ⟨hg, hen, hq, hinst, hpart⟩ := h
  refine if_neg ?_
  simp [hinst, hq, hpart, hen, hg]

theorem windowWrite_copy (h : WindowOf s src g i) (off : Nat) (bs : List Byte) : s.windowWrite src g off (some bs) =
    ((List.range (ceilDiv bs.length 256)).foldl (fun u k => contributed (grRoot (s.group g)) src g (stepOf ((opened s g).gst g)).1 none
      (off + 256 * k) ((bs.drop (256 * k)).take 256) u) (opened s g), true) := h.mine _ _

theorem windowWrite_note (h : WindowOf s src g i) (off : Nat) (u : State) (hu : u = contributed (grRoot (s.group g)) src g (stepOf ((opened s g).gst g)).1
      (some (stepOf ((opened s g).gst g)).2) 0 [] (opened s g)) :
    s.windowWrite src g off none = (u.setGst g (closed (u.gst g)), true) := by
  subst hu
  exact h.mine _ _

/-- A COPY of at most 256 bytes goes to the parent as one message. -/
theorem copied (h : WindowOf s src g i) (hroot : grRoot (s.group g) = false) (h1 : 1 ≤ bs.length) (h256 : bs.length ≤ 256) (hu : opened s g = u) (off : Nat) :
    s.windowCmd src g off (some bs) = u.sendCol src g (stepOf (u.gst g)).1 none off bs := by
  have hone : ceilDiv bs.length 256 = 1 := by
    unfold ceilDiv
    omega
  unfold State.windowCmd
  simp only [windowWrite_copy h, hu, hroot, hone, contributed, List.range_one, List.foldl_cons, List.foldl_nil, Nat.mul_zero, Nat.add_zero, List.drop_zero,
    List.take_of_length_le h256, if_true, Bool.false_eq_true, if_false]

/-- A NOTE goes to the parent as END. -/
theorem noted (h : WindowOf s src g i) (hroot : grRoot (s.group g) = false) (hu : opened s g = u) {v : State}
    (hv : u.sendCol src g (stepOf (u.gst g)).1 (some (stepOf (u.gst g)).2) 0 [] = v) (off : Nat) :
    s.windowCmd src g off none = v.setGst g (closed (v.gst g)) := by
  have hsends : v = contributed (grRoot (s.group g)) src g (stepOf ((opened s g).gst g)).1 (some (stepOf ((opened s g).gst g)).2) 0 [] (opened s g) := by
    rw [contributed, hroot, hu, hv]
    rfl
  unfold State.windowCmd
  simp only [windowWrite_note h off v hsends, if_true]

/-- A root sends nothing: a write of its window only starts the step, or ends its own part. -/
theorem window_root (h : WindowOf s src g i) (hroot : grRoot (s.group g) = true) (hu : opened s g = u) (off : Nat) (x : Option (List Byte)) :
    s.windowCmd src g off x = if x.isNone then u.setGst g (closed (u.gst g)) else u := by
  unfold State.windowCmd
  cases x with
  | none =>
    have hsends : u = contributed (grRoot (s.group g)) src g (stepOf ((opened s g).gst g)).1 (some (stepOf ((opened s g).gst g)).2) 0 [] (opened s g) := by
      rw [contributed, hroot, hu]
      rfl
    simp only [windowWrite_note h off u hsends, if_true, Option.isNone_none]
  | some bs =>
    simp only [windowWrite_copy h, hu, hroot, contributed, if_true, List.foldl_fixed, Option.isNone_some, Bool.false_eq_true, if_false]

/-- The window is not the writer's: ADDR. -/
theorem window_refused (h : 64 ≤ g ∨ grEn (s.group g) = false ∨
      (isQuadUnit src && (s.inst (grInst (s.group g))).any fun i => s.quadPart (src / 16) == some i.part) = false) (off : Nat) (x : Option (List Byte)) :
    s.windowCmd src g off x = s.addrFault src (winBase + winSize * (g % 64) + off) := by
  have hbad : 64 ≤ g ∨ ¬ grEn (s.group g) = true ∨ ¬ ((match s.inst (grInst (s.group g)) with
      | some i => isQuadUnit src && s.quadPart (src / 16) == some i.part
      | none => false) : Bool) = true := by
    refine h.imp_right (Or.imp (fun hen => by simp [hen]) fun hmine => ?_)
    cases hinst : s.inst (grInst (s.group g)) <;> simp_all
  have hwrite : s.windowWrite src g off x = (s, false) := if_pos hbad
  unfold State.windowCmd
  simp only [hwrite, Bool.false_eq_true, if_false]

/-! ### A child's messages -/

/-- The group, child and step of a COL message, and what says that it is of a child of the group, of a step not done. -/
structure OfChild (s : State) (m : Msg) (g c w : Nat) (d : List Byte) : Prop where
  hg : g = bits m.aux 0 6
  hc : c = bits m.aux 8 4
  hw : w = bits m.aux 16 16
  hd : d = s.group g
  peer : s.peerOk m.dpart m.src m.spart = true
  en : grEn d = true
  lt : c < grNchild d
  src : grChild d c = m.src
  due : (s.gst g).done.contains w = false

/-- The group's state once a message of step `w` has come. -/
def joined (s : State) (g w : Nat) : State := if (s.gst g).running then s else (s.setGst g { s.gst g with seq := w }).startStep g

/-- A child's slot once its END has come. -/
def slotEnded (sl : SlotSt) (m : Msg) : SlotSt :=
  { sl with ended := true, part := sl.part || bitAt m.aux 13 || bitAt m.addr 13, modResp := bits m.addr 0 13 }

section
variable {k p c : Nat} {m : Msg}

theorem OfChild.not_bad (h : OfChild s m g c w d) : ¬ (¬ s.peerOk m.dpart m.src m.spart = true ∨ ¬ grEn (s.group (bits m.aux 0 6)) = true ∨
    grNchild (s.group (bits m.aux 0 6)) ≤ bits m.aux 8 4 ∨ grChild (s.group (bits m.aux 0 6)) (bits m.aux 8 4) ≠ m.src ∨
    (s.gst (bits m.aux 0 6)).done.contains (bits m.aux 16 16) = true) := by
  obtain ⟨rfl, rfl, rfl, rfl, hpeer, hen, hlt, hsrc, hdue⟩ := h
  simp [hpeer, hen, hsrc]
  exact ⟨hlt, by simpa using hdue⟩

theorem serveCol_bad (h : Landed k p 0x20 m s) (hb : s.peerOk m.dpart m.src m.spart = false ∨ (s.gst (bits m.aux 0 6)).done.contains (bits m.aux 16 16) = true ∨
      grEn (s.group (bits m.aux 0 6)) = false ∨ grNchild (s.group (bits m.aux 0 6)) ≤ bits m.aux 8 4 ∨
      grChild (s.group (bits m.aux 0 6)) (bits m.aux 8 4) ≠ m.src) : s.serveCol k = (unlanded s k p m).badMsg p := by
  refine (onMsg_landed h _).trans ?_
  dsimp only
  rw [unland_up h.2.1]
  refine if_pos ?_
  rcases hb with h | h | h | h | h
  · exact .inl (by simp [h])
  · exact .inr (.inr (.inr (.inr h)))
  · exact .inr (.inl (by simp [h]))
  · exact .inr (.inr (.inl h))
  · exact .inr (.inr (.inr (.inl h)))

theorem serveCol_stale (h : Landed k p 0x20 m s) (hof : OfChild s m g c w d) (hep : s.fld (.schInst (grInst d)) SCH_INST_EPOCH ≠ m.epoch) :
    s.serveCol k = (unlanded s k p m).answer m 2 [] := by
  refine (onMsg_landed h _).trans ?_
  dsimp only
  rw [unland_up h.2.1, if_neg hof.not_bad]
  obtain ⟨rfl, -, -, rfl, -⟩ := hof
  exact if_pos hep

theorem serveCol_later (h : Landed k p 0x20 m s) (hof : OfChild s m g c w d) (hep : s.fld (.schInst (grInst d)) SCH_INST_EPOCH = m.epoch)
    (hrun : (s.gst g).running = true) (hseq : (s.gst g).seq ≠ w) : s.serveCol k = s := by
  refine (onMsg_landed h _).trans ?_
  dsimp only
  rw [if_neg hof.not_bad]
  obtain ⟨rfl, -, rfl, rfl, -⟩ := hof
  exact (if_neg (not_not_intro hep)).trans (if_pos ⟨hrun, hseq⟩)

/-- A message of the step that runs, or of the one it starts, is taken. -/
theorem serveCol_taken (h : Landed k p 0x20 m s) (hof : OfChild s m g c w d) (hep : s.fld (.schInst (grInst d)) SCH_INST_EPOCH = m.epoch)
    (hnow : (s.gst g).running = false ∨ (s.gst g).seq = w) (hu : joined (unlanded s k p m) g w = u) : s.serveCol k =
      if bitAt m.aux 12 then u.setGst g { u.gst g with slots := tsetD {} (u.gst g).slots c (slotEnded (tgetD {} (u.gst g).slots c) m) }
      else ((u.setGst g { u.gst g with slots := tsetD {} (u.gst g).slots c { tgetD ({} : SlotSt) (u.gst g).slots c with
          len := max (tgetD ({} : SlotSt) (u.gst g).slots c).len (m.addr % 2 ^ 40 + ((bytesAt m.data 0 m.len).take (grSlotsz d - m.addr % 2 ^ 40)).length)
          part := (tgetD ({} : SlotSt) (u.gst g).slots c).part || decide (((bytesAt m.data 0 m.len).take (grSlotsz d - m.addr % 2 ^ 40)).length < m.len) } }).writeAddr
        (portL p) (grBuf d + 64 + c * grSlotsz d + m.addr % 2 ^ 40) ((bytesAt m.data 0 m.len).take (grSlotsz d - m.addr % 2 ^ 40))).1 := by
  subst hu
  refine (onMsg_landed h _).trans ?_
  dsimp only
  rw [if_neg hof.not_bad, unland_up h.2.1]
  obtain ⟨rfl, rfl, rfl, rfl, -⟩ := hof
  refine (if_neg (not_not_intro hep)).trans ((if_neg ?_).trans rfl)
  rintro ⟨hrun, hseq⟩
  exact hnow.elim (fun hidle => Bool.false_ne_true (hidle.symm.trans hrun)) hseq

end

end Sys2Proof.Proofs.CollectiveSteps

/-! Collective groups: the descriptor's check, and what a child's COL messages leave (14 R329, R331). -/

namespace Sys2Proof.Proofs.CollectiveSteps

open Sys2Proof Sys2Proof.Machine Sys2Proof.Safety Sys2Proof.Proofs.RaisedCauses Sys2Proof.Proofs.FabricMessages Sys2Proof.Proofs.MemoryPathsAndAdds
open Sys2Proof.Proofs.SketchRegionsTideAndTemperature (regsBut_trans regsBut_of_regs raised_raiseRec raise_silent)
open Sys2Proof.Proofs.RegisterWrites (onBus_up regsBut_setReg)

variable {s u : State} {g w c k p v a src : Nat} {d b : List Byte} {m : Msg}

/-! ### GROUP_ENABLE -/

theorem plainWrite_group (s : State) (k v : Nat) : s.plainWrite (.abGroup k) .whole v = s.setReg (.abGroup k) (BitVec.ofNat 64 v) := by
  refine congrArg (s.setReg (.abGroup k)) (BitVec.eq_of_toNat_eq ?_)
  have hput (n x : Nat) : putBits n 0 64 (bits x 0 64) % 2 ^ 64 = x % 2 ^ 64 := by
    have hself := bits_putBits_self n 0 64 (bits x 0 64)
    rwa [bits, Nat.shiftRight_zero, bits, Nat.shiftRight_zero, Nat.mod_mod] at hself
  have hword : writeFlds (s.lockOpen (.abGroup k)) (halfMask .whole) (halfVal .whole v) (regFields (.abGroup k)) (s.reg (.abGroup k)) =
      BitVec.ofNat 64 (putBits (s.reg (.abGroup k)).toNat 0 64 (bits (v % 2 ^ 64) 0 64)) := rfl
  rw [hword, BitVec.toNat_ofNat, hput, Nat.mod_mod, BitVec.toNat_ofNat]

/-- The word with EN cleared. -/
theorem clearEn (x : BitVec 64) : BitVec.ofNat 64 (putBits x.toNat 7 1 0) = x &&& ~~~(0x80#64) := by
  refine BitVec.eq_of_getLsbD_eq fun i hi => ?_
  have hmask : (0x80#64).getLsbD i = decide (i = 7) := by
    rw [show (0x80#64) = BitVec.twoPow 64 7 from rfl, BitVec.getLsbD_twoPow]
    simp [eq_comm]
  rw [BitVec.getLsbD_ofNat, testBit_putBits, BitVec.getLsbD_and, BitVec.getLsbD_not, hmask, BitVec.getLsbD]
  by_cases h7 : i = 7
  · simp [h7]
  · by_cases hlt : i < 7
    · simp [h7, hi, hlt]
    · simp [h7, hi, hlt, show ¬ i < 8 by omega]

/-- The check of a descriptor refuses what is out of range. -/
theorem groupOk_false (h : 15 < grNchild d ∨ grSlot d = 15 ∨ grCto d < 10 ∨ grSlotsz d % 256 ≠ 0 ∨ grBuf d % 64 ≠ 0 ∨ 80 ≤ grQuad d ∨
    s.inst (grInst d) = none ∨ s.groupOk d = false) : s.groupOk d = false := by
  refine Bool.eq_false_iff.2 fun hok => ?_
  rcases h with h | h | h | h | h | h | h | h
  case inr.inr.inr.inr.inr.inr.inr => exact Bool.false_ne_true (h.symm.trans hok)
  all_goals
    simp only [State.groupOk, Bool.and_eq_true, decide_eq_true_eq] at hok
    obtain ⟨⟨⟨⟨⟨⟨⟨⟨⟨⟨⟨⟨⟨⟨⟨⟨⟨⟨⟨-, -⟩, -⟩, -⟩, -⟩, -⟩, hn⟩, -⟩, -⟩, hslot⟩, hcto⟩, -⟩, -⟩, -⟩, hsz⟩, hbuf⟩, hq⟩, hinst⟩, -⟩, -⟩ := hok
  case inr.inr.inr.inr.inr.inr.inl =>
    rw [h] at hinst
    exact Bool.false_ne_true hinst
  all_goals omega

/-- Word 0 of group `g` holds `v`, and the group's step starts again. -/
def rewritten (s : State) (g v : Nat) : State := (s.setReg (.abGroup (8 * g)) (BitVec.ofNat 64 v)).setGst g {}

theorem wrAbGroup_word (hg : 8 * g / 8 = g) (hd : d = (s.setReg (.abGroup (8 * g)) (BitVec.ofNat 64 v)).group g) : s.wrAbGroup (8 * g) .whole v =
    if ¬ grEn d = true ∨ (rewritten s g v).groupOk d = true then rewritten s g v
    else ((rewritten s g v).setReg (.abGroup (8 * g)) (BitVec.ofNat 64 (putBits ((rewritten s g v).reg (.abGroup (8 * g))).toNat 7 1 0))).raise
      ((rewritten s g v).groupLog d) (srcL 0) 0x0806 (leBytes 1 g) := by
  subst hd
  unfold State.wrAbGroup
  rw [plainWrite_group, if_neg (by simp), hg]
  rfl

theorem reg_rewritten (hs : RegsOk s) (g v : Nat) : (rewritten s g v).reg (.abGroup (8 * g)) = BitVec.ofNat 64 v := s.reg_setReg_self _ _ hs

theorem groupEnable_kept (hs : RegsOk s) (hw : GroupsOk s) (hup : s.pwrGood = true) (hg : g < 64)
    (hok : grEn ((s.setReg (.abGroup (8 * g)) (BitVec.ofNat 64 v)).group g) = false ∨ (s.setReg (.abGroup (8 * g))
      (BitVec.ofNat 64 v)).groupOk ((s.setReg (.abGroup (8 * g)) (BitVec.ofNat 64 v)).group g) = true) :
    ∃ t : State, exec (.groupEnable g v) s = .next t ∧ t.reg (.abGroup (8 * g)) = BitVec.ofNat 64 v ∧ t.gst g = {} ∧ RegsBut [.abGroup (8 * g)] s t ∧
      t = { s with regs := t.regs, fab := t.fab } := by
  have hstep : s.wrAbGroup (8 * g) .whole v = rewritten s g v :=
    (wrAbGroup_word (Nat.mul_div_cancel_left g (by decide)) rfl).trans (if_pos (hok.imp_left fun h => by simp [h]))
  have hexec : exec (.groupEnable g v) s = .next (rewritten s g v) := by
    refine congrArg Host.Outcome.next ((if_pos hg).trans ?_)
    rw [onBus_up hup, hstep]
  exact ⟨_, hexec, reg_rewritten hs g v, gst_setGst (s := s.setReg (.abGroup (8 * g)) (BitVec.ofNat 64 v)) hw g {}, regsBut_setReg s _ _, rfl⟩

theorem groupEnable_refused (hs : RegsOk s) (hup : s.pwrGood = true) (hg : g < 64) (hd : d = (s.setReg (.abGroup (8 * g)) (BitVec.ofNat 64 v)).group g)
    (hen : grEn d = true) (hbad : (s.setReg (.abGroup (8 * g)) (BitVec.ofNat 64 v)).groupOk d = false) :
    ∃ t : State, exec (.groupEnable g v) s = .next t ∧ t.reg (.abGroup (8 * g)) = BitVec.ofNat 64 v &&& ~~~(0x80#64) ∧
      Raised (s.groupLog d) (srcL 0) 0x0806 (leBytes 1 g) s t ∧ RegsBut [.abGroup (8 * g)] s t := by
  have hno : ¬ (¬ grEn d = true ∨ (rewritten s g v).groupOk d = true) := by
    rintro (h | h)
    · exact h hen
    · exact Bool.false_ne_true (hbad.symm.trans h)
  have hstep := (wrAbGroup_word (Nat.mul_div_cancel_left g (by decide)) hd).trans (if_neg hno)
  rw [reg_rewritten hs, clearEn, raise_silent rfl] at hstep
  have hok : RegsOk (rewritten s g v) := s.regsOk_setReg _ _ hs
  have hexec : exec (.groupEnable g v) s = .next (((rewritten s g v).setReg (.abGroup (8 * g)) (BitVec.ofNat 64 v &&& ~~~(0x80#64))).raiseRec
      (s.groupLog d) (srcL 0) 0x0806 (leBytes 1 g)) := by
    refine congrArg Host.Outcome.next ((if_pos hg).trans ?_)
    rw [onBus_up hup, hstep]
    rfl
  exact ⟨_, hexec, State.reg_setReg_self _ _ _ hok, raised_raiseRec rfl rfl _ _ _ _,
    regsBut_trans (regsBut_setReg s _ _) (regsBut_setReg (rewritten s g v) _ _)⟩

/-! ### The fabric writes memory -/

/-- The L-dies reach every granule. -/
theorem mayReach_granule (h : granuleOf a ≠ none) {src : Nat} (hlo : 0x540 ≤ src) (hhi : src ≤ 0x543) : s.mayReach src a = true := by
  have hq : isQuadUnit src = false := decide_eq_false (by omega)
  have hh : src ≠ srcHost := by
    show src ≠ 0x511
    omega
  rw [State.mayReach, if_neg (by simp [hq]), if_neg hh, if_pos (.inr ⟨hlo, hhi⟩)]
  exact Option.isSome_iff_ne_none.2 h

/-- DRAM that serves an L-die's write of `b` at `a`: no granule is missing, under conversion or lost, and no E-die shares its lines. -/
structure Serving (s : State) (a n : Nat) : Prop where
  dram : a + n ≤ spBase
  first : granuleOf a ≠ none
  last : granuleOf (a + n - 1) ≠ none
  still : s.converting a = false
  sound : s.lostIn a n = false
  lone : Unshared a n s

theorem writeAddr_link (h : Serving s a b.length) (hb : b ≠ []) (hlo : 0x540 ≤ src) (hhi : src ≤ 0x543) : (s.writeAddr src a b).1 = s.wr a b := by
  obtain ⟨hdram, hfirst, hlast, hstill, hsound, hlone⟩ := h
  have hlen : 0 < b.length := List.length_pos_of_ne_nil hb
  have ha : OffDies a := offDies_of_lt (by omega)
  rw [writeAddr_of_offDies ha, writePlain_served hb ha (offDies_of_lt (by omega)) (mayReach_granule hfirst hlo hhi) (mayReach_granule hlast hlo hhi) hstill hsound,
    sharedWrite_unshared hlone]

/-- What a group's state is, and what lands or leaves, is nothing to memory. -/
theorem Serving.withFab {n : Nat} (h : Serving s a n) (fab : FabState) (outbox : List Out) : Serving { s with fab := fab, outbox := outbox } a n :=
  ⟨h.dram, h.first, h.last, h.still, h.sound, h.lone⟩

/-! ### COL -/

theorem joined_spec (hw : GroupsOk s) (hnow : (s.gst g).running = false ∨ (s.gst g).seq = w) : ∃ (gs : Tab GroupSt) (st : GroupSt),
    joined s g w = withGroups s gs ∧ twf (fun _ => ({} : GroupSt)) gs = true ∧ (withGroups s gs).gst g = st ∧ st.running = true ∧ st.seq = w ∧
      st.slots = (s.gst g).slots := by
  by_cases hrun : (s.gst g).running = true
  · have hseq := hnow.resolve_left fun hidle => Bool.false_ne_true (hidle.symm.trans hrun)
    exact ⟨s.fab.groups, s.gst g, if_pos hrun, hw, rfl, hrun, hseq, rfl⟩
  · obtain ⟨gs, hstart, hgs, hget⟩ := startStep_spec (groupsOk_setGst hw g { s.gst g with seq := w }) g
    obtain ⟨hseq, hslots, -⟩ := begun_kept (s.setGst g { s.gst g with seq := w }) g
    rw [gst_setGst hw] at hseq hslots
    exact ⟨gs, _, (if_neg hrun).trans hstart, hgs, hget, begun_running _ g, hseq, hslots⟩

/-- END of the step that runs, or of one that it starts, ends the child's slot. -/
theorem col_ended (h : Landed k p 0x20 m s) (hof : OfChild s m g c w d) (hw : GroupsOk s) (hsl : twf (fun _ => ({} : SlotSt)) (s.gst g).slots = true)
    (hep : s.fld (.schInst (grInst d)) SCH_INST_EPOCH = m.epoch) (hnow : (s.gst g).running = false ∨ (s.gst g).seq = w) (hend : bitAt m.aux 12 = true) :
    ∃ t : State, exec (.col k) s = .next t ∧ (t.gst g).running = true ∧ (tgetD ({} : SlotSt) (t.gst g).slots c).ended = true ∧
      (tgetD ({} : SlotSt) (t.gst g).slots c).modResp = bits m.addr 0 13 ∧ t = { s with fab := t.fab, outbox := s.outbox ++ [credOf p m] } := by
  obtain ⟨gs, st, hjoin, hgs, hget, hrun, -, hslots⟩ := joined_spec (s := unlanded s k p m) hw hnow
  have hstep := (serveCol_taken h hof hep hnow hjoin).trans (if_pos hend)
  rw [hget] at hstep
  have hnew := gst_setGst (s := withGroups (unlanded s k p m) gs) hgs g { st with slots := tsetD {} st.slots c (slotEnded (tgetD {} st.slots c) m) }
  have hslot : tgetD ({} : SlotSt) (tsetD {} st.slots c (slotEnded (tgetD {} st.slots c) m)) c = slotEnded (tgetD {} st.slots c) m :=
    tget_tset_self _ _ _ _ (by rw [hslots]; exact hsl)
  refine ⟨_, congrArg Host.Outcome.next hstep, ?_, ?_, ?_, rfl⟩
  · rw [hnew]
    exact hrun
  · rw [hnew]
    exact congrArg SlotSt.ended hslot
  · rw [hnew]
    exact congrArg SlotSt.modResp hslot

/-- Bytes of the step that runs, or of one that it starts, go into the child's slot of the buffer. -/
theorem col_copied (hm : MemOk s) (h : Landed k p 0x20 m s) (hof : OfChild s m g c w d) (hw : GroupsOk s)
    (hsl : twf (fun _ => ({} : SlotSt)) (s.gst g).slots = true) (hep : s.fld (.schInst (grInst d)) SCH_INST_EPOCH = m.epoch)
    (hnow : (s.gst g).running = false ∨ (s.gst g).seq = w) (hend : bitAt m.aux 12 = false) (h1 : 1 ≤ m.len) (hlen : m.data.length = m.len)
    (hfit : m.addr + m.len ≤ grSlotsz d) (hsv : Serving s (grBuf d + 64 + c * grSlotsz d + m.addr) m.len) :
    ∃ t : State, exec (.col k) s = .next t ∧ memRead t.mem (grBuf d + 64 + c * grSlotsz d + m.addr) m.len = m.data ∧
      MemBut (grBuf d + 64 + c * grSlotsz d + m.addr) m.len s t ∧ (t.gst g).running = true ∧ (t.gst g).seq = w ∧
      tgetD {} (t.gst g).slots c = { tgetD ({} : SlotSt) (s.gst g).slots c with len := max (tgetD ({} : SlotSt) (s.gst g).slots c).len (m.addr + m.len) } ∧
      t.outbox = s.outbox ++ [credOf p m] ∧ t.regs = s.regs ∧ t.fab.landing = s.fab.landing.eraseIdx k := by
  obtain ⟨gs, st, hjoin, hgs, hget, hrun, hseq, hslots⟩ := joined_spec (s := unlanded s k p m) hw hnow
  have hstep := (serveCol_taken h hof hep hnow hjoin).trans (if_neg (by simp [hend]))
  have hdata : bytesAt m.data 0 m.len = m.data := by rw [← hlen]; exact bytesAt_self m.data
  have hmod : m.addr % 2 ^ 40 = m.addr := by
    have hdram := hsv.dram
    have hsp : spBase < 2 ^ 40 := by decide
    exact Nat.mod_eq_of_lt (by omega)
  have htake : m.data.take (grSlotsz d - m.addr) = m.data := List.take_of_length_le (by omega)
  rw [hget, hdata, hmod, htake, hlen, decide_eq_false (Nat.lt_irrefl m.len), Bool.or_false] at hstep
  generalize hv : ({ tgetD ({} : SlotSt) st.slots c with len := max (tgetD ({} : SlotSt) st.slots c).len (m.addr + m.len) } : SlotSt) = v at hstep
  have hnew := gst_setGst (s := withGroups (unlanded s k p m) gs) hgs g { st with slots := tsetD {} st.slots c v }
  have hslot : tgetD ({} : SlotSt) (tsetD {} st.slots c v) c = v := tget_tset_self _ _ _ _ (by rw [hslots]; exact hsl)
  have hp := h.1
  have hportL : portL p = 0x540 + p / 4 := rfl
  rw [writeAddr_link (s := (withGroups (unlanded s k p m) gs).setGst g { st with slots := tsetD {} st.slots c v }) (by rw [hlen]; exact hsv.withFab _ _)
    (List.ne_nil_of_length_pos (by omega)) (by omega) (by omega)] at hstep
  refine ⟨_, congrArg Host.Outcome.next hstep, ?_, ?_, ?_, ?_, ?_, rfl, rfl, rfl⟩
  · have hread := memRead_memWrite s.mem (grBuf d + 64 + c * grSlotsz d + m.addr) m.data hm
    rwa [hlen] at hread
  · have hrest := memBut_wr s (grBuf d + 64 + c * grSlotsz d + m.addr) m.data
    rwa [hlen] at hrest
  · exact (congrArg GroupSt.running hnew).trans hrun
  · exact (congrArg GroupSt.seq hnew).trans hseq
  · refine (congrArg (fun st : GroupSt => tgetD ({} : SlotSt) st.slots c) hnew).trans (hslot.trans ?_)
    rw [← hv, hslots]
    rfl

end Sys2Proof.Proofs.CollectiveSteps

/-! The end of a collective step: the arrival summary, the signal, and the abort of a step that failed (14 R331, R332, Table 14-12). -/

namespace Sys2Proof.Proofs.CollectiveSteps

open Sys2Proof Sys2Proof.Machine Sys2Proof.Safety Sys2Proof.Proofs.RaisedCauses Sys2Proof.Proofs.FabricMessages Sys2Proof.Proofs.MemoryPathsAndAdds
open Sys2Proof.Proofs.SketchRegionsTideAndTemperature (regsBut_of_regs raised_raiseRec raise_silent flag_of_regsBut)
open Sys2Proof.Proofs.QueriesAndTheirCompletions (length_leBytes ofLE_leBytes)
open Sys2Proof.Proofs.PowerAndTokens (askWake_idle)

variable {s u x : State} {g a q j src i : Nat} {d b : List Byte}

/-! ### What memory reads inside bytes written -/

theorem memRead_within {m : List Host.Cell} (hm : memWf m = true) (a : Nat) (xs ys zs : List Byte) :
    memRead (memWrite m a (xs ++ ys ++ zs)) (a + xs.length) ys.length = ys := by
  refine List.ext_getElem (memRead_length _ _ _) fun i h1 h2 => ?_
  rw [memRead_getElem, Nat.add_assoc, memByte_memWrite_in _ _ _ _ (by simp only [List.length_append]; omega) hm,
    List.getElem_append_left (by simp only [List.length_append]; omega), List.getElem_append_right (Nat.le_add_right _ _)]
  simp only [Nat.add_sub_cancel_left]

/-- A little-endian field of bytes written is what was written. -/
theorem rdLE_within (hm : MemOk s) (hmem : u.mem = memWrite s.mem a b) {n v o : Nat} {xs zs : List Byte} (hb : b = xs ++ leBytes n v ++ zs)
    (ho : xs.length = o) : u.rdLE (a + o) n = v % 256 ^ n := by
  have hread := memRead_within hm a xs (leBytes n v) zs
  rw [length_leBytes, ho, ← hb, ← hmem] at hread
  rw [State.rdLE, State.rd, hread, ofLE_leBytes]

/-! ### The summary -/

/-- The arrival summary of a step (14 Table 14-11): its sequence, the children present, MOD_RESP, the flags, and the slots' lengths. -/
def summary (seq mask resp flags : Nat) (lens : List Byte) : List Byte :=
  leBytes 4 seq ++ leBytes 2 mask ++ leBytes 2 resp ++ leBytes 1 flags ++ leBytes 7 0 ++ lens ++ leBytes 3 0

section
variable {seq mask resp flags : Nat} {lens : List Byte}

theorem length_summary (h : lens.length = 45) : (summary seq mask resp flags lens).length = 64 := by
  simp only [summary, List.length_append, length_leBytes, h]

theorem summary_read (hm : MemOk s) (hmem : u.mem = memWrite s.mem a (summary seq mask resp flags lens)) :
    u.rdLE a 4 = seq % 2 ^ 32 ∧ u.rdLE (a + 4) 2 = mask % 2 ^ 16 ∧ u.rdLE (a + 6) 2 = resp % 2 ^ 16 ∧ u.rdLE (a + 8) 1 = flags % 2 ^ 8 := by
  have hseq : summary seq mask resp flags lens = [] ++ leBytes 4 seq ++ (leBytes 2 mask ++ leBytes 2 resp ++ leBytes 1 flags ++ leBytes 7 0 ++ lens ++ leBytes 3 0) := by
    simp only [summary, List.nil_append, List.append_assoc]
  have hmask : summary seq mask resp flags lens = leBytes 4 seq ++ leBytes 2 mask ++ (leBytes 2 resp ++ leBytes 1 flags ++ leBytes 7 0 ++ lens ++ leBytes 3 0) := by
    simp only [summary, List.append_assoc]
  have hresp : summary seq mask resp flags lens = (leBytes 4 seq ++ leBytes 2 mask) ++ leBytes 2 resp ++ (leBytes 1 flags ++ leBytes 7 0 ++ lens ++ leBytes 3 0) := by
    simp only [summary, List.append_assoc]
  have hflags : summary seq mask resp flags lens = (leBytes 4 seq ++ leBytes 2 mask ++ leBytes 2 resp) ++ leBytes 1 flags ++ (leBytes 7 0 ++ lens ++ leBytes 3 0) := by
    simp only [summary, List.append_assoc]
  refine ⟨rdLE_within hm hmem hseq rfl, rdLE_within hm hmem hmask (length_leBytes 4 seq), rdLE_within hm hmem hresp ?_, rdLE_within hm hmem hflags ?_⟩
  · simp only [List.length_append, length_leBytes]
  · simp only [List.length_append, length_leBytes]

end

/-! ### The signal -/

/-- A signal to a quad that is ON adds its count, while the sum fits. -/
theorem signal_counted (hs : RegsOk s) (hon : s.fld (.pwrQuad q) PWR_QUAD_STATE = 0) (hroom : s.sem q j < 0xFFFF) (src : Nat) : ∃ rs : Tab Word,
    s.signal q j 1 src = { s with regs := rs } ∧ RegsOk { s with regs := rs } ∧ ({ s with regs := rs } : State).sem q j = s.sem q j + 1 ∧
      RegsBut [semReg q j] s { s with regs := rs } := by
  have hfld : (semFld j).lo + (semFld j).w ≤ 64 := by
    show 16 * (j % 4) + 16 ≤ 64
    omega
  obtain ⟨rs, hset, hok, hself, -, hbut⟩ := setFld_spec hs (semReg q j) (semFld j) (s.sem q j + 1) hfld
  refine ⟨rs, ?_, hok, hself.trans (Nat.mod_eq_of_lt (Nat.succ_lt_succ hroom)), hbut⟩
  rw [State.signal, askWake_idle (.inl hon), State.addSem]
  exact (if_pos hroom).trans hset

/-- A barrier's end concerns the ranking models alone. -/
theorem barrierEnds_spec (s : State) (i : Nat) : ∃ rk, s.barrierEnds i = { s with rank := rk } := by
  unfold State.barrierEnds
  split
  · split
    · unfold State.mapGate State.mapModel
      split
      · exact ⟨_, rfl⟩
      · exact ⟨_, rfl⟩
    · exact ⟨_, rfl⟩
  · exact ⟨_, rfl⟩

/-! ### The end of a step -/

/-- The slot of child `c` of group `g`. -/
abbrev slotOf (s : State) (g c : Nat) : SlotSt := tgetD ({} : SlotSt) (s.gst g).slots c

/-- Is some child's END missing? -/
def lacks (s : State) (g : Nat) : Bool := (List.range (grNchild (s.group g))).any fun c => !(slotOf s g c).ended

/-- Is some child missing, or its part cut? -/
def cut (s : State) (g : Nat) : Bool := lacks s g || (List.range (grNchild (s.group g))).any fun c => (slotOf s g c).part

/-- The children present, one bit each. -/
def present (s : State) (g : Nat) : Nat :=
  ((List.range (grNchild (s.group g))).filter fun c => (slotOf s g c).ended).foldl (fun a c => a + 2 ^ c) 0

/-- A SUM or BARRIER fails with a child missing or cut. -/
def failed (s : State) (g : Nat) : Bool := cut s g && grOp (s.group g) ≠ 0

def flagsOf (s : State) (g : Nat) : Nat := (if cut s g then 1 else 0) + if failed s g then 2 else 0

/-- The group's state after a step: the next sequence, and the END owed for this one if it has not gone. -/
def afterStep (st : GroupSt) (part : Bool) : GroupSt :=
  { seq := (st.seq + 1) % 65536, done := (st.seq :: st.done).take 256
    owed := if st.sent then st.owed else st.owed ++ [(st.seq, st.resp, part)] }

/-- What a step's end rests on: the summary has serving memory, and the signal a quad that is ON and room in its semaphore. -/
structure Ending (s : State) (g : Nat) (d : List Byte) : Prop where
  canon : Canonical s
  descr : d = s.group g
  buf : Serving s (grBuf d) 64
  on : s.fld (.pwrQuad (grQuad d)) PWR_QUAD_STATE = 0
  room : s.sem (grQuad d) (grSem d) < 0xFFFF

/-- A state in which the summary of group `g` is written and its signal given: no more has changed but the group's own state. -/
structure Summed (s : State) (g : Nat) (d : List Byte) (x : State) : Prop where
  regsOk : RegsOk x
  sem : x.sem (grQuad d) (grSem d) = s.sem (grQuad d) (grSem d) + 1
  regs : RegsBut [semReg (grQuad d) (grSem d)] s x
  mem : ∃ lens : List Byte, lens.length = 45 ∧
    x.mem = memWrite s.mem (grBuf d) (summary (s.gst g).seq (present s g) (s.gst g).resp (flagsOf s g) lens)
  frame : x = { s with regs := x.regs, mem := x.mem, fab := (s.setGst g (afterStep (s.gst g) (cut s g))).fab }

theorem Summed.memBut (h : Summed s g d x) : MemBut (grBuf d) 64 s x := by
  obtain ⟨lens, hlens, hmem⟩ := h.mem
  intro o ho
  rw [hmem]
  exact memByte_memWrite_out _ _ _ _ (by rwa [length_summary hlens])

theorem Summed.flags (h : Summed s g d x) (hm : MemOk s) : x.rdLE (grBuf d + 8) 1 = flagsOf s g % 2 ^ 8 := by
  obtain ⟨lens, -, hmem⟩ := h.mem
  exact (summary_read hm hmem).2.2.2

/-- The summary of the step that ends. -/
def summaryOf (s : State) (g : Nat) : List Byte :=
  summary (s.gst g).seq (present s g) (s.gst g).resp (flagsOf s g) ((List.range 15).flatMap fun c => leBytes 3 (slotOf s g c).len)

theorem length_lens (s : State) (g : Nat) : ((List.range 15).flatMap fun c => leBytes 3 (slotOf s g c).len).length = 45 := by
  simp only [List.length_flatMap, length_leBytes, List.map_const', List.length_range, List.sum_replicate, smul_eq_mul]

/-- What a step's end does after the signal: a barrier that holds ends, and a step that lacks a child and fails aborts. -/
def settled (s : State) (g : Nat) (x : State) : State :=
  let y := if failed s g = true ∨ grOp (s.group g) ≠ 2 then x else x.barrierEnds (grInst (s.group g))
  if failed s g = true ∧ lacks s g = true then (y.raise (y.groupLog (s.group g)) (srcL 0) 0x0806 (leBytes 1 g)).startAbort (grInst (s.group g)) 0x0806 else y

theorem endStep_eq (s : State) (g : Nat) : s.endStep g = settled s g
    (((s.setGst g (afterStep (s.gst g) (cut s g))).writeAddr (srcL 0) (grBuf (s.group g)) (summaryOf s g)).1.signal (grQuad (s.group g)) (grSem (s.group g)) 1
      (srcL 0)) := rfl

/-- The end of a step, after its summary and its signal. -/
theorem endStep_summed (h : Ending s g d) : ∃ x : State, Summed s g d x ∧ s.endStep g = settled s g x := by
  obtain ⟨⟨hm, hr⟩, rfl, hbuf, hon, hroom⟩ := h
  have hlen : (summaryOf s g).length = 64 := length_summary (length_lens s g)
  have hne : summaryOf s g ≠ [] := List.ne_nil_of_length_pos (by omega)
  have hwrite := writeAddr_link (s := s.setGst g (afterStep (s.gst g) (cut s g))) (src := srcL 0)
    (by rw [hlen]; exact hbuf.withFab (s.setGst g (afterStep (s.gst g) (cut s g))).fab s.outbox) hne (by decide) (by decide)
  obtain ⟨rs, hsig, hok, hsem, hbut⟩ := signal_counted (s := (s.setGst g (afterStep (s.gst g) (cut s g))).wr (grBuf (s.group g)) (summaryOf s g))
    (q := grQuad (s.group g)) (j := grSem (s.group g)) hr hon hroom (srcL 0)
  refine ⟨_, ⟨hok, hsem, hbut, ⟨_, length_lens s g, rfl⟩, rfl⟩, ?_⟩
  rw [endStep_eq, hwrite, hsig]

end Sys2Proof.Proofs.CollectiveSteps

/-! What the end of a collective step leaves, of one that holds and of one that fails (14 R332, Table 14-12). -/

namespace Sys2Proof.Proofs.CollectiveSteps

open Sys2Proof Sys2Proof.Machine Sys2Proof.Safety Sys2Proof.Proofs.RaisedCauses Sys2Proof.Proofs.FabricMessages Sys2Proof.Proofs.MemoryPathsAndAdds
open Sys2Proof.Proofs.SketchRegionsTideAndTemperature (regsBut_of_regs raised_raiseRec raise_silent flag_of_regsBut fld_of_regsBut)

variable {s x : State} {g c : Nat} {d : List Byte}

/-! ### Which children are there -/

theorem lacks_of_missing (hc : c < grNchild (s.group g)) (h : (slotOf s g c).ended = false) : lacks s g = true :=
  List.any_eq_true.2 ⟨c, List.mem_range.2 hc, by simp [h]⟩

theorem cut_of_lacks (h : lacks s g = true) : cut s g = true := by rw [cut, h, Bool.true_or]

theorem failed_of_lacks (h : lacks s g = true) (hop : grOp (s.group g) ≠ 0) : failed s g = true := by simp [failed, cut_of_lacks h, hop]

theorem failed_gather (hop : grOp (s.group g) = 0) : failed s g = false := by simp [failed, hop]

/-- Every child is there, and whole. -/
abbrev Whole (s : State) (g : Nat) : Prop := ∀ c < grNchild (s.group g), (slotOf s g c).ended = true ∧ (slotOf s g c).part = false

theorem cut_whole (h : Whole s g) : cut s g = false := by
  refine Bool.or_eq_false_iff.2 ⟨List.any_eq_false.2 fun c hc => ?_, List.any_eq_false.2 fun c hc => ?_⟩
  · simp [(h c (List.mem_range.1 hc)).1]
  · simp [(h c (List.mem_range.1 hc)).2]

theorem failed_whole (h : Whole s g) : failed s g = false := by rw [failed, cut_whole h, Bool.false_and]

theorem foldl_bits (n : Nat) : (List.range n).foldl (fun a c => a + 2 ^ c) 0 = 2 ^ n - 1 := by
  induction n with
  | zero => rfl
  | succ n ih =>
    rw [List.range_succ, List.foldl_append, ih, List.foldl_cons, List.foldl_nil, Nat.pow_succ]
    have := Nat.two_pow_pos n
    omega

theorem present_whole (h : Whole s g) : present s g = 2 ^ grNchild (s.group g) - 1 := by
  rw [present, List.filter_eq_self.2 fun c hc => (h c (List.mem_range.1 hc)).1, foldl_bits]

/-! ### A step that holds -/

/-- A step that does not fail ends with its summary and its signal; a barrier's end concerns the ranking models too. -/
theorem ends_held (h : Ending s g d) (hf : failed s g = false) : ∃ (x : State) (rk : RankState), Summed s g d x ∧ s.endStep g = { x with rank := rk } := by
  obtain ⟨x, hx, hend⟩ := endStep_summed h
  obtain ⟨rk, hbarrier⟩ := barrierEnds_spec x (grInst (s.group g))
  have hgo : ¬ (failed s g = true ∧ lacks s g = true) := fun hboth => Bool.false_ne_true (hf.symm.trans hboth.1)
  unfold settled at hend
  dsimp only at hend
  rw [if_neg hgo] at hend
  split at hend
  · exact ⟨x, x.rank, hx, hend⟩
  · exact ⟨x, rk, hx, hend.trans hbarrier⟩

theorem Summed.evt (h : Summed s g d x) : x.evt = s.evt := (congrArg State.evt h.frame).trans rfl

theorem Summed.ctl (h : Summed s g d x) : x.ctl = s.ctl := (congrArg State.ctl h.frame).trans rfl

theorem Summed.svcTime (h : Summed s g d x) : x.svcTime = s.svcTime := (congrArg State.svcTime h.frame).trans rfl

theorem Summed.fab (h : Summed s g d x) : x.fab = (s.setGst g (afterStep (s.gst g) (cut s g))).fab := (congrArg State.fab h.frame).trans rfl

/-! ### A step that fails -/

/-- A step that fails for want of a child raises AB_COLL_FAIL, and its instance aborts. -/
theorem ends_failed (h : Ending s g d) (hf : failed s g = true) (hl : lacks s g = true) (hi : grInst d < 80)
    (hrun : s.flag (.schInst (grInst d)) SCH_INST_RUN = true) : ∃ t : State, s.endStep g = t ∧ Raised (s.groupLog d) (srcL 0) 0x0806 (leBytes 1 g) s t ∧
      t.flag (.schInst (grInst d)) SCH_INST_ABORTING = true ∧ t.rdLE (grBuf d + 8) 1 = 3 ∧ MemBut (grBuf d) 64 s t ∧
      t.sem (grQuad d) (grSem d) = s.sem (grQuad d) (grSem d) + 1 := by
  obtain ⟨x, hx, hend⟩ := endStep_summed h
  have hapart : regOff (.schInst (grInst d)) ≠ regOff (semReg (grQuad d) (grSem d)) := by
    simp only [semReg, regOff]
    omega
  have hrunx : x.flag (.schInst (grInst d)) SCH_INST_RUN = true := by
    rw [flag_of_regsBut hx.regs (by simpa using hapart)]
    exact hrun
  have hlog : x.groupLog d = s.groupLog d := by rw [State.groupLog, State.inst, hx.ctl, State.groupLog, State.inst]
  unfold settled at hend
  dsimp only at hend
  rw [if_pos ⟨hf, hl⟩, if_pos (.inl hf), ← h.descr, hlog, raise_silent rfl] at hend
  have hok : RegsOk (x.raiseRec (s.groupLog d) (srcL 0) 0x0806 (leBytes 1 g)) := hx.regsOk
  obtain ⟨rs, ctl, hab, hset, hbut⟩ := startAbort_aborts (s := x.raiseRec (s.groupLog d) (srcL 0) 0x0806 (leBytes 1 g)) hok hrunx 0x0806
  rw [hab] at hend
  refine ⟨_, hend, raised_raiseRec hx.evt hx.svcTime _ _ _ _, hset, ?_, hx.memBut, ?_⟩
  · refine (hx.flags h.canon.1).trans ?_
    rw [flagsOf, cut_of_lacks hl, hf]
    rfl
  · refine (fld_of_regsBut hbut (by simpa using hapart.symm) _).trans hx.sem

/-! ### When a step ends -/

theorem stepWhole_ended (hen : grEn (s.group g) = true) (hrun : (s.gst g).running = true)
    (hall : ∀ c < grNchild (s.group g), (slotOf s g c).ended = true ∨ (slotOf s g c).absent = true) : s.stepWhole g = true := by
  have hkids : ((List.range (grNchild (s.group g))).all fun c => (slotOf s g c).ended || (slotOf s g c).absent) = true :=
    List.all_eq_true.2 fun c hc => by simpa using hall c (List.mem_range.1 hc)
  unfold State.stepWhole
  dsimp only
  rw [hrun, hen, hkids]
  rfl

theorem stepComplete_whole (hg : g < 64) (h : s.stepWhole g = true) : exec (.collectiveStepComplete g) s = .next (s.endStep g) :=
  congrArg Host.Outcome.next (if_pos ⟨hg, h⟩)

theorem ctoExpiry_due (hg : g < 64) (hen : grEn (s.group g) = true) (hrun : (s.gst g).running = true)
    (hdue : (s.gst g).since + grCto (s.group g) * 400 ≤ s.svcTime) : exec (.ctoExpiry g) s = .next (s.endStep g) := by
  refine congrArg Host.Outcome.next ((if_pos hg).trans ?_)
  exact if_pos ⟨hrun, hen, hdue⟩

end Sys2Proof.Proofs.CollectiveSteps

/-! ABORT_INST and the exchange of time (14 R333, 16 R382, R383). -/

namespace Sys2Proof.Proofs.CollectiveSteps

open Sys2Proof Sys2Proof.Machine Sys2Proof.Safety Sys2Proof.Proofs.RaisedCauses Sys2Proof.Proofs.FabricMessages
open Sys2Proof.Proofs.SketchRegionsTideAndTemperature (regsBut_trans regsBut_of_regs raised_raiseRec raise_silent flag_of_regsBut onlyRegs_setFld
  reg_of_regsBut)
open Sys2Proof.Proofs.RankingModelsAndTables (regsBut_setFld)
open Sys2Proof.Proofs.PowerAndTokens (flag_of_fld)

variable {s t u : State} {g i k p : Nat} {m : Msg}

/-! ### What sending leaves as it was -/

/-- Only ports, routes' ONALT and what left the module have changed. -/
structure OnlySent (s t : State) : Prop where
  regs : ∀ r, regOff r < 0xF0000 → t.reg r = s.reg r
  frame : t = { s with regs := t.regs, fab := { s.fab with ports := t.fab.ports }, outbox := t.outbox }

namespace OnlySent

theorem refl (s : State) : OnlySent s s := ⟨fun _ _ => rfl, rfl⟩

theorem trans (h : OnlySent s t) (h' : OnlySent t u) : OnlySent s u := by
  obtain ⟨hregs, hframe⟩ := h
  obtain ⟨hregs', hframe'⟩ := h'
  refine ⟨fun r hr => (hregs' r hr).trans (hregs r hr), hframe'.trans ?_⟩
  rw [hframe]

theorem ite {c : Prop} [Decidable c] {a b : State} (ha : OnlySent s a) (hb : OnlySent s b) : OnlySent s (if c then a else b) := by
  split
  · exact ha
  · exact hb

theorem foldl {α : Type} {f : State → α → State} (hf : ∀ s a, OnlySent s (f s a)) (xs : List α) (s : State) : OnlySent s (xs.foldl f s) := by
  induction xs generalizing s with
  | nil => exact refl s
  | cons x xs ih => exact (hf s x).trans (ih _)

theorem flag (h : OnlySent s t) {r : Reg} (hr : regOff r < 0xF0000) (f : Fld) : t.flag r f = s.flag r f := by
  rw [State.flag, State.fld, h.regs r hr, State.flag, State.fld]

end OnlySent

theorem onlySent_onAlt (s : State) (d : Nat) : OnlySent s (s.setFld (.abRoute d) AB_ROUTE_ONALT 1) := by
  have hbut := regsBut_setFld s (.abRoute d) AB_ROUTE_ONALT 1
  refine ⟨fun r hr => reg_of_regsBut hbut ?_, ?_⟩
  · simp only [List.mem_singleton, forall_eq, regOff] at hr ⊢
    omega
  · obtain ⟨rs, hset⟩ := onlyRegs_setFld s (.abRoute d) AB_ROUTE_ONALT 1
    rw [hset]

theorem onlySent_route (s : State) (m : Msg) (alt : Bool) : OnlySent s (s.route m alt).1 := by
  have hset := onlySent_onAlt s (m.dst % 4096)
  unfold State.route
  dsimp only
  split
  · exact .refl s
  · generalize (if alt = true ∧ s.usable (s.fld (.abRoute (m.dst % 4096)) AB_ROUTE_ALT) ≠ [] then [] else _) = c
    split
    · exact .refl s
    · split
      · exact hset
      · exact hset

theorem onlySent_portSend (s : State) (p : Nat) (m : Msg) : OnlySent s (s.portSend p m) := .ite ⟨fun _ _ => rfl, rfl⟩ ⟨fun _ _ => rfl, rfl⟩

theorem onlySent_sendMsg (s : State) (m : Msg) (alt : Bool) : OnlySent s (s.sendMsg m alt).1 := by
  have hroute := onlySent_route s m alt
  unfold State.sendMsg
  split
  next heq => rwa [heq] at hroute
  next heq =>
    rw [heq] at hroute
    split
    · exact hroute
    · exact hroute.trans (onlySent_portSend ..)

theorem onlySent_post (s : State) (m : Msg) : OnlySent s (s.post m) := .ite (onlySent_sendMsg ..) (.refl s)

theorem onlySent_sendAborts (s : State) (i : Nat) (except_ : Option Nat) : OnlySent s (s.sendAborts i except_) :=
  .foldl (fun s _ => .ite (.foldl (fun s _ => onlySent_post s _) _ s) (.refl s)) _ s

/-! ### ABORT_INST -/

/-- The instance aborts, by word of module `from_`, and the other neighbours of its tree are told. -/
def toldToAbort (s : State) (i from_ : Nat) : State :=
  let u := (s.startAbort i 0xFFFF).sendAborts i (some from_)
  { u with ctl := { u.ctl with aborting := mapIf (·.inst = i) (fun a => { a with told := true }) u.ctl.aborting } }

/-- ABORT_INST of group `g` finds nothing to abort. -/
abbrev NoneToAbort (s : State) (g : Nat) : Prop :=
  64 ≤ g ∨ ¬ grEn (s.group g) = true ∨ (s.inst (grInst (s.group g))).isNone = true ∨ s.flag (.schInst (grInst (s.group g))) SCH_INST_ABORTING = true

theorem abortInst_managed (h : Managed k p 5 m s) (hd : s.assigned = true → m.dst = s.modNum) : s.abortInst k =
    if NoneToAbort s (leAt m.data 24 8) then unlanded s k p m
    else toldToAbort (unlanded s k p m) (grInst (s.group (leAt m.data 24 8))) m.src := by
  have hgo : ¬ (s.assigned = true ∧ m.dst ≠ s.modNum) := fun ⟨ha, hne⟩ => hne (hd ha)
  unfold State.abortInst
  rw [h.2.2.1]
  exact (if_neg hgo).trans (onMgt_managed h _)

/-- An instance that runs aborts, and those it concerns are told. -/
theorem toldToAbort_spec (hs : RegsOk s) (hi : i < 80) (hrun : s.flag (.schInst i) SCH_INST_RUN = true)
    (hab : s.flag (.schInst i) SCH_INST_ABORTING = false) (from_ : Nat) : (toldToAbort s i from_).flag (.schInst i) SCH_INST_ABORTING = true ∧
      (toldToAbort s i from_).fab.landing = s.fab.landing ∧ (∃ a ∈ (toldToAbort s i from_).ctl.aborting, a.inst = i ∧ a.told = true) ∧
      (toldToAbort s i from_).mem = s.mem ∧ (toldToAbort s i from_).evt = s.evt := by
  obtain ⟨rs, hset, -, hself, -, -⟩ := setFld_spec hs (.schInst i) SCH_INST_ABORTING 1 (by decide)
  have hstart := MooringsAndAliases.startAbort_running (cause := 0xFFFF) hrun hab
  rw [hset] at hstart
  have hlow : regOff (.schInst i) < 0xF0000 := by
    simp only [regOff]
    omega
  unfold toldToAbort
  dsimp only
  rw [hstart]
  generalize hx : ({ s with regs := rs, ctl := { s.ctl with aborting := s.ctl.aborting ++ [{ inst := i, cause := 0xFFFF, time := s.svcTime }] } } : State) = x
  have hsent := onlySent_sendAborts x i (some from_)
  generalize x.sendAborts i (some from_) = u at hsent
  obtain ⟨-, hframe⟩ := id hsent
  have hflag : x.flag (.schInst i) SCH_INST_ABORTING = true := by
    rw [← hx]
    exact flag_of_fld (b := true) hself
  have hmem : ({ inst := i, cause := 0xFFFF, time := s.svcTime } : AbortReq) ∈ u.ctl.aborting := by
    rw [hframe, ← hx]
    exact List.mem_append_right _ (List.mem_singleton_self _)
  refine ⟨(hsent.flag hlow _).trans hflag, ?_, ⟨_, List.mem_map_of_mem hmem, ?_⟩, ?_, ?_⟩
  · exact (congrArg (fun t : State => t.fab.landing) hframe).trans (by rw [← hx])
  · simp
  · exact (congrArg State.mem hframe).trans (by rw [← hx])
  · exact (congrArg State.evt hframe).trans (by rw [← hx])

/-! ### The exchange of time -/

/-- Synchronization is lost, and said once. -/
theorem loseSync_spec (hs : RegsOk s) (hsaid : s.pwr.syncSaid = false) : ∃ (rs : Tab Word) (ev : EvState),
    s.loseSync = { s with regs := rs, evt := ev, pwr := { s.pwr with syncSaid := true } } ∧ ({ s with regs := rs } : State).flag .svcSync SVC_SYNC_LOCKED = false ∧
      ({ s with regs := rs } : State).fld .svcSync SVC_SYNC_HOPS = 15 ∧ ({ s with regs := rs } : State).flag .svcSync SVC_SYNC_SYNCLOST = true ∧
      Raised modLog srcM 0x0A07 [] s { s with evt := ev } ∧ RegsBut [.svcSync] s { s with regs := rs } := by
  obtain ⟨r1, hset1, hok1, hlocked, -, hbut1⟩ := setFld_spec (s := { s with pwr := { s.pwr with syncSaid := true } }) hs .svcSync SVC_SYNC_LOCKED 0 (by decide)
  obtain ⟨r2, hset2, hok2, hhops, hkept2, hbut2⟩ := setFld_spec hok1 .svcSync SVC_SYNC_HOPS 15 (by decide)
  obtain ⟨r3, hset3, -, hlost, hkept3, hbut3⟩ := setFld_spec hok2 .svcSync SVC_SYNC_SYNCLOST 1 (by decide)
  have hlocked3 := (hkept3 SVC_SYNC_LOCKED (.inl (by decide))).trans ((hkept2 SVC_SYNC_LOCKED (.inl (by decide))).trans hlocked)
  have hhops3 := (hkept3 SVC_SYNC_HOPS (.inr (by decide))).trans hhops
  refine ⟨r3, _, ?_, flag_of_fld (b := false) hlocked3, hhops3, flag_of_fld (b := true) hlost,
    raised_raiseRec (s := s) (u := { s with pwr := { s.pwr with syncSaid := true } }) rfl rfl modLog srcM 0x0A07 [],
    regsBut_trans hbut1 (regsBut_trans hbut2 hbut3)⟩
  unfold State.loseSync
  dsimp only
  rw [hset1, hset2, hset3, hsaid, raise_silent rfl]
  rfl

/-- A follower takes its neighbour's time forward. -/
theorem follow_spec (hs : RegsOk s) (uid there : Nat) {hops ahead : Nat} (hh : hops < 14)
    (ha : (if ¬ s.flag .svcSync SVC_SYNC_LOCKED = true ∨ s.pwr.timeSrc ≠ uid then there - s.svcTime else min (there - s.svcTime) 40) = ahead) :
    ∃ rs : Tab Word, s.follow uid hops there = { s with
        regs := rs
        svcTime := s.svcTime + ahead
        pwr := { s.pwr with timeSrc := uid, syncAt := s.svcTime + ahead, syncSaid := false } } ∧
      ({ s with regs := rs } : State).flag .svcSync SVC_SYNC_LOCKED = true ∧ ({ s with regs := rs } : State).fld .svcSync SVC_SYNC_HOPS = hops + 1 ∧
      RegsBut [.svcSync] s { s with regs := rs } := by
  obtain ⟨r1, hset1, hok1, hlocked, -, hbut1⟩ := setFld_spec (s := { s with svcTime := s.svcTime + ahead, pwr := { s.pwr with timeSrc := uid, syncAt := s.svcTime + ahead, syncSaid := false } })
    hs .svcSync SVC_SYNC_LOCKED 1 (by decide)
  obtain ⟨r2, hset2, hok2, hhops, hkept2, hbut2⟩ := setFld_spec hok1 .svcSync SVC_SYNC_HOPS (hops + 1) (by decide)
  obtain ⟨r3, hset3, -, -, hkept3, hbut3⟩ := setFld_spec hok2 .svcSync SVC_SYNC_OFFSET
    (toTwos 16 (clampInt (-32768) 32767 ((5 * ((there : Int) - s.svcTime)) / 2))) (by decide)
  have hlocked3 := (hkept3 SVC_SYNC_LOCKED (.inl (by decide))).trans ((hkept2 SVC_SYNC_LOCKED (.inl (by decide))).trans hlocked)
  have hhops3 := (hkept3 SVC_SYNC_HOPS (.inl (by decide))).trans hhops
  refine ⟨r3, ?_, flag_of_fld (b := true) hlocked3, hhops3.trans (Nat.mod_eq_of_lt (show hops + 1 < 16 by omega)), regsBut_trans hbut1 (regsBut_trans hbut2 hbut3)⟩
  unfold State.follow
  dsimp only
  rw [ha, hset1, hset2, hset3]

/-- What a port's own time flit says: the source that this module names, its hops from it, and its time. -/
def timeSaid (s : State) (p : Nat) : State :=
  match s.timeUid with
  | some u => s.emit (.timeFlit p u s.syncHops s.svcTime)
  | none => s

section
variable {uid hops time trip : Nat}

theorem timeSaid_master (h : s.flag .svcSync SVC_SYNC_MASTER = true) (p : Nat) :
    timeSaid s p = s.emit (.timeFlit p Config.abUid.toNat 0 s.svcTime) := by
  rw [timeSaid, State.timeUid, if_pos h, State.syncHops, if_pos h]

theorem timeSaid_unlocked (h : s.flag .svcSync SVC_SYNC_MASTER = false) (hl : s.flag .svcSync SVC_SYNC_LOCKED = false) (p : Nat) : timeSaid s p = s := by
  have hm : ¬ s.flag .svcSync SVC_SYNC_MASTER = true := by simp [h]
  have hno : ¬ s.flag .svcSync SVC_SYNC_LOCKED = true := by simp [hl]
  rw [timeSaid, State.timeUid, if_neg hm, if_neg hno]

theorem timeSaid_locked (h : s.flag .svcSync SVC_SYNC_MASTER = false) (hl : s.flag .svcSync SVC_SYNC_LOCKED = true) (p : Nat) :
    timeSaid s p = s.emit (.timeFlit p s.pwr.timeSrc (s.fld .svcSync SVC_SYNC_HOPS) s.svcTime) := by
  have hm : ¬ s.flag .svcSync SVC_SYNC_MASTER = true := by simp [h]
  rw [timeSaid, State.timeUid, if_neg hm, if_pos hl, State.syncHops, if_neg hm, if_pos hl]

/-- A port that is UP says the time. -/
theorem timeSaid_emits (s : State) (p : Nat) : ∃ ob : List Out, timeSaid s p = { s with outbox := ob } := by
  unfold timeSaid
  split
  · exact ⟨_, rfl⟩
  · exact ⟨_, rfl⟩

theorem timeFlit_none (hup : s.portUp p = true) : s.timeFlit p none trip = timeSaid s p := if_neg (not_not_intro hup)

/-- Is port `p` the sync port of a follower? -/
def syncPort (s : State) (p : Nat) : Bool := s.fld .svcSync SVC_SYNC_PORT = p && !(s.flag .svcSync SVC_SYNC_MASTER)

/-- What a neighbour's time flit does. -/
def timeHeard (s : State) (p uid hops there : Nat) : State :=
  let u := match s.timeUid with
    | some w => if w ≠ uid ∧ ¬ syncPort s p = true then s.syncConflict p uid else s
    | none => s
  if ¬ syncPort s p = true then u else if 14 ≤ hops then u.loseSync else u.follow uid hops there

theorem timeFlit_some (hup : s.portUp p = true) : s.timeFlit p (some (uid, hops, time)) trip = timeHeard (timeSaid s p) p uid hops (time + trip / 2) :=
  if_neg (not_not_intro hup)

/-- On the sync port of a follower, the neighbour's time is followed, or lost. -/
theorem timeHeard_sync (h : syncPort s p = true) (there : Nat) : timeHeard s p uid hops there = if 14 ≤ hops then s.loseSync else s.follow uid hops there := by
  have hsame : (match s.timeUid with
      | some w => if w ≠ uid ∧ ¬ syncPort s p = true then s.syncConflict p uid else s
      | none => s) = s := by
    split
    · exact if_neg fun hboth => hboth.2 h
    · rfl
  unfold timeHeard
  dsimp only
  rw [if_neg (not_not_intro h)]
  exact congrArg (fun u : State => if 14 ≤ hops then u.loseSync else u.follow uid hops there) hsame

theorem syncPort_of (hp : s.fld .svcSync SVC_SYNC_PORT = p) (hm : s.flag .svcSync SVC_SYNC_MASTER = false) : syncPort s p = true := by
  rw [syncPort, hm, decide_eq_true hp]
  rfl

theorem not_syncPort (hp : s.fld .svcSync SVC_SYNC_PORT ≠ p) : ¬ syncPort s p = true := by
  rw [syncPort, decide_eq_false hp]
  exact Bool.false_ne_true

/-- On another port, a second source is a conflict. -/
theorem timeHeard_conflict (hp : s.fld .svcSync SVC_SYNC_PORT ≠ p) (hm : s.flag .svcSync SVC_SYNC_MASTER = false)
    (hl : s.flag .svcSync SVC_SYNC_LOCKED = true) (hsrc : s.pwr.timeSrc ≠ uid) (there : Nat) : timeHeard s p uid hops there = s.syncConflict p uid := by
  have huid : s.timeUid = some s.pwr.timeSrc := by
    have hno : ¬ s.flag .svcSync SVC_SYNC_MASTER = true := by simp [hm]
    rw [State.timeUid, if_neg hno, if_pos hl]
  unfold timeHeard
  dsimp only
  rw [if_pos (not_syncPort hp), huid]
  exact if_pos ⟨hsrc, not_syncPort hp⟩

/-- A conflict not said within the second is said. -/
theorem syncConflict_spec (hs : RegsOk s) (hdue : s.pwr.confTime.all (fun c => decide (400000000 ≤ s.svcTime - c)) = true) : ∃ (rs : Tab Word) (ev : EvState),
    s.syncConflict p uid = { s with regs := rs, evt := ev, pwr := { s.pwr with confTime := some s.svcTime } } ∧
      ({ s with regs := rs } : State).flag .svcSync SVC_SYNC_CONFLICT = true ∧
      ({ s with regs := rs } : State).fld .svcSync SVC_SYNC_LOCKED = s.fld .svcSync SVC_SYNC_LOCKED ∧
      Raised modLog srcM 0x0A0D (leBytes 8 uid ++ leBytes 1 p) s { s with evt := ev } ∧ RegsBut [.svcSync] s { s with regs := rs } := by
  obtain ⟨rs, hset, -, hself, hkept, hbut⟩ := setFld_spec hs .svcSync SVC_SYNC_CONFLICT 1 (by decide)
  refine ⟨rs, _, ?_, flag_of_fld (b := true) hself, hkept SVC_SYNC_LOCKED (.inl (by decide)),
    raised_raiseRec (s := s) (u := { s with pwr := { s.pwr with confTime := some s.svcTime } }) rfl rfl modLog srcM 0x0A0D (leBytes 8 uid ++ leBytes 1 p), hbut⟩
  have hdue' : (match s.pwr.confTime with
      | some t => decide (tickS ≤ s.svcTime - t)
      | none => true) = true := by
    cases hc : s.pwr.confTime with
    | none => rfl
    | some t =>
      rw [hc] at hdue
      exact hdue
  unfold State.syncConflict
  dsimp only
  rw [hset]
  refine (if_pos hdue').trans ?_
  rw [raise_silent rfl]
  rfl

end

end Sys2Proof.Proofs.CollectiveSteps

/-! What a write of a group's window leaves (14 R330). -/

namespace Sys2Proof.Proofs.CollectiveSteps

open Sys2Proof Sys2Proof.Machine Sys2Proof.Safety Sys2Proof.Proofs.RaisedCauses Sys2Proof.Proofs.FabricMessages

variable {s : State} {src g off q l w n : Nat} {d bs : List Byte} {i : Inst} {b : Bool}

theorem WindowOf.of (hd : d = s.group g) (hg : g < 64) (hen : grEn d = true) (hq : isQuadUnit src = true) (hi : s.inst (grInst d) = some i)
    (hp : s.quadPart (src / 16) = some i.part) : WindowOf s src g i := by
  subst hd
  exact ⟨hg, hen, hq, hi, hp⟩

/-- A port to the parent that lets a COL message of level `l` go. -/
structure ToParent (s : State) (d : List Byte) (q l : Nat) : Prop where
  assigned : s.assigned = true
  leads : Leads (grParent d) q l s
  free : Free q 3 l s
  plain : s.flag (.abPort q) AB_PORT_PEER2 = false

theorem ToParent.withGroups (h : ToParent s d q l) (gs : Tab GroupSt) : ToParent (withGroups s gs) d q l := ⟨h.assigned, h.leads, h.free, h.plain⟩

theorem ToParent.sends (h : ToParent s d q l) (hd : d = s.group g) (hg : g < 64) (src w off : Nat) (e : Option (Nat × Bool)) (bs : List Byte) :
    s.sendCol src g w e off bs = sent s q (colMsg s d src g w l off bs e) :=
  sendCol_sent hd h.assigned h.leads h.free h.plain hg src w off e bs

/-- Bytes of the step that runs, or starts, go to the parent. -/
theorem copied_now (h : WindowOf s src g i) (hd : d = s.group g) (hroot : grRoot d = false) (h1 : 1 ≤ bs.length) (h256 : bs.length ≤ 256)
    (howed : (s.gst g).owed = []) (hto : ToParent s d q l) (hw : GroupsOk s) : ∃ t : State, exec (.collectiveWindowWrite src g off (some bs)) s = .next t ∧
      (t.gst g).running = true ∧ t.outbox = s.outbox ++ [Out.link q (colMsg s d src g (s.gst g).seq l off bs none)] ∧ t.regs = s.regs ∧ t.mem = s.mem := by
  obtain ⟨gs, hopen, -, hget⟩ := opened_spec hw howed
  have hstep := copied h (by rw [← hd]; exact hroot) h1 h256 hopen off
  have hget' : (withGroups s gs).gst g = begun s g := hget
  have hseq : (stepOf (begun s g)).1 = (s.gst g).seq := by
    rw [stepOf_begun, stepOf, howed]
    rfl
  rw [hget', hseq, (hto.withGroups gs).sends hd h.lt] at hstep
  exact ⟨_, congrArg Host.Outcome.next hstep, (congrArg GroupSt.running hget').trans (begun_running s g), rfl, rfl, rfl⟩

/-- Bytes of a step whose END is owed go to the parent under its sequence. -/
theorem copied_owed {e : Nat × Nat × Bool} {r : List (Nat × Nat × Bool)} (h : WindowOf s src g i) (hd : d = s.group g) (hroot : grRoot d = false)
    (h1 : 1 ≤ bs.length) (h256 : bs.length ≤ 256) (howed : (s.gst g).owed = e :: r) (hto : ToParent s d q l) :
    ∃ t : State, exec (.collectiveWindowWrite src g off (some bs)) s = .next t ∧ t.fab.groups = s.fab.groups ∧
      t.outbox = s.outbox ++ [Out.link q (colMsg s d src g e.1 l off bs none)] ∧ t.regs = s.regs ∧ t.mem = s.mem := by
  have hstep := copied h (by rw [← hd]; exact hroot) h1 h256 (opened_owed (by simp [howed])) off
  rw [stepOf, howed, List.headD_cons, hto.sends hd h.lt] at hstep
  exact ⟨_, congrArg Host.Outcome.next hstep, rfl, rfl, rfl, rfl⟩

/-- A NOTE sends END to the parent, of the step that runs or starts, or of the one whose END is owed. -/
theorem noted_sends (h : WindowOf s src g i) (hd : d = s.group g) (hroot : grRoot d = false)
    (hat : (w, n, b) = (s.gst g).owed.headD ((s.gst g).seq, (s.gst g).resp, (s.gst g).missing)) (hto : ToParent s d q l) (hw : GroupsOk s) :
    ∃ t : State, exec (.collectiveWindowWrite src g off none) s = .next t ∧
      t.outbox = s.outbox ++ [Out.link q (colMsg s d src g w l 0 [] (some (n, b)))] ∧
      ((s.gst g).owed = [] → (t.gst g).running = true ∧ (t.gst g).sent = true) ∧ ((s.gst g).owed ≠ [] → t.gst g = { s.gst g with owed := (s.gst g).owed.drop 1 }) ∧
      t.regs = s.regs ∧ t.mem = s.mem := by
  have hstepOf : stepOf (s.gst g) = (w, n, b) := hat.symm
  by_cases howed : (s.gst g).owed = []
  · obtain ⟨gs, hopen, hgs, hget⟩ := opened_spec hw howed
    have hget' : (withGroups s gs).gst g = begun s g := hget
    have hstep := noted h (by rw [← hd]; exact hroot) hopen rfl off
    rw [hget', stepOf_begun, hstepOf, (hto.withGroups gs).sends hd h.lt] at hstep
    have hsame : (sent (withGroups s gs) q (colMsg (withGroups s gs) d src g w l 0 [] (some (n, b)))).gst g = begun s g := hget
    have hnew := gst_setGst (s := sent (withGroups s gs) q (colMsg (withGroups s gs) d src g w l 0 [] (some (n, b)))) hgs g (closed (begun s g))
    rw [hsame] at hstep
    refine ⟨_, congrArg Host.Outcome.next hstep, rfl, fun _ => ?_, fun hne => absurd howed hne, rfl, rfl⟩
    rw [hnew, closed_begun howed]
    exact ⟨begun_running s g, rfl⟩
  · have hstep := noted h (by rw [← hd]; exact hroot) (opened_owed howed) rfl off
    rw [hstepOf, hto.sends hd h.lt] at hstep
    have hsame : (sent s q (colMsg s d src g w l 0 [] (some (n, b)))).gst g = s.gst g := rfl
    have hnew := gst_setGst (s := sent s q (colMsg s d src g w l 0 [] (some (n, b)))) hw g (closed (s.gst g))
    rw [hsame] at hstep
    refine ⟨_, congrArg Host.Outcome.next hstep, rfl, fun hnil => absurd hnil howed, fun _ => ?_, rfl, rfl⟩
    rw [hnew]
    exact if_neg howed

/-- A root only starts its step, or ends its own part of it. -/
theorem rooted (h : WindowOf s src g i) (hd : d = s.group g) (hroot : grRoot d = true) (hrun : (s.gst g).running = false) (howed : (s.gst g).owed = [])
    (hw : GroupsOk s) (x : Option (List Byte)) : ∃ t : State, exec (.collectiveWindowWrite src g off x) s = .next t ∧
      t.gst g = { s.gst g with running := true, since := s.svcTime, sent := x.isNone || (s.gst g).sent } ∧ t = { s with fab := t.fab } := by
  obtain ⟨gs, hopen, hgs, hget⟩ := opened_spec hw howed
  have hget' : (withGroups s gs).gst g = begun s g := hget
  have hstep := window_root h (by rw [← hd]; exact hroot) hopen off x
  rw [hget'] at hstep
  cases x with
  | none =>
    have hnew := gst_setGst (s := withGroups s gs) hgs g (closed (begun s g))
    refine ⟨_, congrArg Host.Outcome.next hstep, ?_, rfl⟩
    exact hnew.trans (by rw [closed_begun howed, begun_idle hrun]; rfl)
  | some bs =>
    refine ⟨_, congrArg Host.Outcome.next hstep, ?_, rfl⟩
    exact hget'.trans (begun_idle hrun)

end Sys2Proof.Proofs.CollectiveSteps

/-! What a step's end and a time flit leave, and the obligation on collective groups and the exchange of time. -/

namespace Sys2Proof.Proofs.CollectiveSteps

open Sys2Proof Sys2Proof.Machine Sys2Proof.Safety Sys2Proof.Proofs.RaisedCauses Sys2Proof.Proofs.FabricMessages
open Sys2Proof.Proofs.RegisterWrites Sys2Proof.Proofs.PowerAndTokens

variable {s x : State} {g c p uid hops time trip : Nat} {d : List Byte}

/-! ### What a step's end leaves -/

/-- A step whose children are all there and whole. -/
theorem ends_whole (h : Ending s g d) (hw : GroupsOk s) (hwhole : Whole s g) : ∃ t : State, s.endStep g = t ∧
    t.rdLE (grBuf d) 4 = (s.gst g).seq % 2 ^ 32 ∧ t.rdLE (grBuf d + 4) 2 = (2 ^ grNchild d - 1) % 2 ^ 16 ∧ t.rdLE (grBuf d + 6) 2 = (s.gst g).resp % 2 ^ 16 ∧
    t.rdLE (grBuf d + 8) 1 = 0 ∧ MemBut (grBuf d) 64 s t ∧ t.sem (grQuad d) (grSem d) = s.sem (grQuad d) (grSem d) + 1 ∧
    RegsBut [semReg (grQuad d) (grSem d)] s t ∧ t.gst g = afterStep (s.gst g) false ∧ t.evt = s.evt ∧ t.ctl = s.ctl := by
  obtain ⟨x, rk, hx, hend⟩ := ends_held h (failed_whole hwhole)
  obtain ⟨lens, -, hmem⟩ := hx.mem
  obtain ⟨hseq, hmask, hresp, hflags⟩ := summary_read (s := s) (u := x) h.canon.1 hmem
  rw [present_whole hwhole, ← h.descr] at hmask
  rw [flagsOf, cut_whole hwhole, failed_whole hwhole] at hflags
  refine ⟨_, hend, hseq, hmask, hresp, hflags, hx.memBut, hx.sem, hx.regs, ?_, hx.evt, hx.ctl⟩
  have hgst : x.gst g = (s.setGst g (afterStep (s.gst g) (cut s g))).gst g := congrArg (fun f : FabState => tgetD ({} : GroupSt) f.groups g) hx.fab
  exact hgst.trans ((gst_setGst hw g _).trans (by rw [cut_whole hwhole]))

/-- A GATHER with a child missing holds, and its summary says so. -/
theorem ends_gathered (h : Ending s g d) (hl : lacks s g = true) (hop : grOp d = 0) : ∃ t : State, s.endStep g = t ∧ t.evt = s.evt ∧ t.ctl = s.ctl ∧
    t.rdLE (grBuf d + 8) 1 = 1 ∧ MemBut (grBuf d) 64 s t ∧ t.sem (grQuad d) (grSem d) = s.sem (grQuad d) (grSem d) + 1 ∧
    RegsBut [semReg (grQuad d) (grSem d)] s t := by
  have hf : failed s g = false := failed_gather (by rw [← h.descr]; exact hop)
  obtain ⟨x, rk, hx, hend⟩ := ends_held h hf
  have hflags := hx.flags h.canon.1
  rw [flagsOf, cut_of_lacks hl, hf] at hflags
  exact ⟨_, hend, hx.evt, hx.ctl, hflags, hx.memBut, hx.sem, hx.regs⟩

/-! ### What a time flit leaves -/

theorem timeFlit_exec (h16 : p < 16) (hup : s.portUp p = true) : exec (.timeFlitExchange p (some (uid, hops, time)) trip) s =
    .next (timeHeard (timeSaid s p) p uid hops (time + trip / 2)) :=
  congrArg Host.Outcome.next ((if_pos h16).trans (timeFlit_some hup))

/-- A follower's sync port takes the neighbour's time forward. -/
theorem followed (hs : RegsOk s) (h16 : p < 16) (hup : s.portUp p = true) (hp : s.fld .svcSync SVC_SYNC_PORT = p)
    (hm : s.flag .svcSync SVC_SYNC_MASTER = false) (hh : hops < 14) {ahead : Nat}
    (ha : (if ¬ s.flag .svcSync SVC_SYNC_LOCKED = true ∨ s.pwr.timeSrc ≠ uid then time + trip / 2 - s.svcTime
      else min (time + trip / 2 - s.svcTime) 40) = ahead) :
    ∃ rs : Tab Word, exec (.timeFlitExchange p (some (uid, hops, time)) trip) s = .next { s with
        regs := rs
        outbox := (timeSaid s p).outbox
        svcTime := s.svcTime + ahead
        pwr := { s.pwr with timeSrc := uid, syncAt := s.svcTime + ahead, syncSaid := false } } ∧
      ({ s with regs := rs } : State).flag .svcSync SVC_SYNC_LOCKED = true ∧ ({ s with regs := rs } : State).fld .svcSync SVC_SYNC_HOPS = hops + 1 ∧
      RegsBut [.svcSync] s { s with regs := rs } := by
  obtain ⟨ob, hsaid⟩ := timeSaid_emits s p
  obtain ⟨rs, hfollow, hlocked, hhops, hbut⟩ := follow_spec (s := { s with outbox := ob }) hs uid (time + trip / 2) hh ha
  have hport : syncPort { s with outbox := ob } p = true := syncPort_of hp hm
  refine ⟨rs, ?_, hlocked, hhops, hbut⟩
  rw [timeFlit_exec h16 hup, hsaid, timeHeard_sync hport, if_neg (Nat.not_le.2 hh), hfollow]

/-- A second source that names itself on another port is a conflict. -/
theorem conflicted (hs : RegsOk s) (h16 : p < 16) (hup : s.portUp p = true) (hp : s.fld .svcSync SVC_SYNC_PORT ≠ p)
    (hm : s.flag .svcSync SVC_SYNC_MASTER = false) (hl : s.flag .svcSync SVC_SYNC_LOCKED = true) (hsrc : s.pwr.timeSrc ≠ uid)
    (hdue : s.pwr.confTime.all (fun c => decide (400000000 ≤ s.svcTime - c)) = true) :
    ∃ t : State, exec (.timeFlitExchange p (some (uid, hops, time)) trip) s = .next t ∧ t.flag .svcSync SVC_SYNC_CONFLICT = true ∧
      Raised modLog srcM 0x0A0D (leBytes 8 uid ++ leBytes 1 p) s t ∧ t.svcTime = s.svcTime ∧ RegsBut [.svcSync] s t ∧ t.flag .svcSync SVC_SYNC_LOCKED = true := by
  obtain ⟨ob, hsaid⟩ := timeSaid_emits s p
  obtain ⟨rs, ev, hconf, hset, hkept, hraised, hbut⟩ := syncConflict_spec (s := { s with outbox := ob }) (p := p) (uid := uid) hs hdue
  have hstep := timeFlit_exec (s := s) (uid := uid) (hops := hops) (time := time) (trip := trip) h16 hup
  rw [hsaid, timeHeard_conflict (s := { s with outbox := ob }) hp hm hl hsrc, hconf] at hstep
  exact ⟨_, hstep, hset, hraised, rfl, hbut, (flag_congr hkept).trans hl⟩

/-- A hop count of 14 or more ends the synchronization. -/
theorem tooFar (hs : RegsOk s) (h16 : p < 16) (hup : s.portUp p = true) (hp : s.fld .svcSync SVC_SYNC_PORT = p)
    (hm : s.flag .svcSync SVC_SYNC_MASTER = false) (hh : 14 ≤ hops) (hsaid : s.pwr.syncSaid = false) :
    ∃ t : State, exec (.timeFlitExchange p (some (uid, hops, time)) trip) s = .next t ∧ t.flag .svcSync SVC_SYNC_LOCKED = false ∧
      t.fld .svcSync SVC_SYNC_HOPS = 15 ∧ t.flag .svcSync SVC_SYNC_SYNCLOST = true ∧ Raised modLog srcM 0x0A07 [] s t ∧ RegsBut [.svcSync] s t ∧
      t.svcTime = s.svcTime := by
  obtain ⟨ob, hemit⟩ := timeSaid_emits s p
  obtain ⟨rs, ev, hlost, hlocked, hhops, hset, hraised, hbut⟩ := loseSync_spec (s := { s with outbox := ob }) hs hsaid
  have hport : syncPort { s with outbox := ob } p = true := syncPort_of hp hm
  have hstep := timeFlit_exec (s := s) (uid := uid) (hops := hops) (time := time) (trip := trip) h16 hup
  rw [hemit, timeHeard_sync hport, if_pos hh, hlost] at hstep
  exact ⟨_, hstep, hlocked, hhops, hset, hraised, hbut, rfl⟩

/-- Silence of 10 ms ends the synchronization. -/
theorem silenced (hs : RegsOk s) (hm : s.flag .svcSync SVC_SYNC_MASTER = false) (hold : s.pwr.syncAt + 4000000 ≤ s.svcTime) (hsaid : s.pwr.syncSaid = false) :
    ∃ t : State, exec .syncSilenceTimeout s = .next t ∧ t.flag .svcSync SVC_SYNC_LOCKED = false ∧ t.fld .svcSync SVC_SYNC_HOPS = 15 ∧
      t.flag .svcSync SVC_SYNC_SYNCLOST = true ∧ Raised modLog srcM 0x0A07 [] s t ∧ RegsBut [.svcSync] s t := by
  obtain ⟨rs, ev, hlost, hlocked, hhops, hset, hraised, hbut⟩ := loseSync_spec hs hsaid
  have hstep : s.syncSilence = s.loseSync := if_pos ⟨by simp [hm], hold⟩
  exact ⟨_, congrArg Host.Outcome.next (hstep.trans hlost), hlocked, hhops, hset, hraised, hbut⟩

end Sys2Proof.Proofs.CollectiveSteps

section

open Sys2Proof Sys2Proof.Proofs Sys2Proof.Machine Sys2Proof.Safety Sys2Proof.Proofs.CollectiveSteps Sys2Proof.Proofs.FabricMessages
open Sys2Proof.Proofs.IssueOfInstructions (faulted_quadFault)

/-- Settles O54: a window's write, a child's message, a step's end and a time flit each change the group's state, or the time, by one rule. -/
theorem collectiveGroupsAndTheExchangeOfTime : Obligations.CollectiveGroupsAndTheExchangeOfTime := by
  unfold Obligations.CollectiveGroupsAndTheExchangeOfTime
  refine ⟨?_, ?_, ?_, ?_, ?_, ?_, ?_, ?_, ?_, ?_, ?_, ?_, ?_, ?_, ?_, ?_, ?_, ?_, ?_, ?_, ?_, ?_, ?_, ?_, ?_, ?_, ?_, ?_⟩
  -- descriptors
  · intro s g v hs hw hup hg hok
    exact groupEnable_kept hs hw hup hg hok
  · intro s g v d hs hup hg hd hen hbad
    exact groupEnable_refused hs hup hg hd hen (groupOk_false hbad)
  -- windows
  · intro s src g off q l i d bs hg hd hen hq hi hp hroot h1 h256 howed ha hl hf h2 hw
    exact copied_now (.of hd hg hen hq hi hp) hd hroot h1 h256 howed ⟨ha, hl, hf, h2⟩ hw
  · intro s src g off q l w i d bs e r hg hd hen hq hi hp hroot h1 h256 howed hwe ha hl hf h2
    subst hwe
    exact copied_owed (.of hd hg hen hq hi hp) hd hroot h1 h256 howed ⟨ha, hl, hf, h2⟩
  · intro s src g off q l w n b i d bs hg hd hen hq hi hp hroot hbs hat ha hl hf h2 hw
    subst hbs
    exact noted_sends (.of hd hg hen hq hi hp) hd hroot hat ⟨ha, hl, hf, h2⟩ hw
  · intro s src g off i d x hg hd hen hq hi hp hroot hrun howed hw
    exact rooted (.of hd hg hen hq hi hp) hd hroot hrun howed hw x
  · intro s src g off x hq hno
    have hstep := window_refused (hno.imp_right (Or.imp_right fun h => by rw [h, Bool.and_false])) off x
    obtain ⟨hraised, -, hframe⟩ := faulted_quadFault (code := 0x0306) (by decide) s (src / 16) src []
    rw [State.addrFault, if_pos hq] at hstep
    exact ⟨_, congrArg Host.Outcome.next hstep, hraised, by rw [hframe], by rw [hframe], by rw [hframe]⟩
  · intro s src g off x hq
    have hno : (isQuadUnit src && (s.inst (grInst (s.group g))).any fun i => s.quadPart (src / 16) == some i.part) = false := by rw [hq, Bool.false_and]
    exact congrArg Host.Outcome.next ((window_refused (.inr (.inr hno)) off x).trans (if_neg (by simp [hq])))
  -- COL
  · intro s k p g c off m d hm hs h hg hc hd hpeer hen hlt hsrc hdue hw hsl hep hnow hend hoff h1 hlen hfit hdram hfirst hlast hstill hsound hlone
    subst hoff
    exact col_copied hm h ⟨hg, hc, rfl, hd, hpeer, hen, hlt, hsrc, hdue⟩ hw hsl hep hnow hend h1 hlen hfit ⟨hdram, hfirst, hlast, hstill, hsound, hlone⟩
  · intro s k p g c m d hs h hg hc hd hpeer hen hlt hsrc hdue hw hsl hep hnow hend
    exact col_ended h ⟨hg, hc, rfl, hd, hpeer, hen, hlt, hsrc, hdue⟩ hw hsl hep hnow hend
  · intro s k p q l g c m d hs h hg hc hd hpeer hen hlt hsrc hdue hep hl hf
    have hstale := serveCol_stale h ⟨hg, hc, rfl, hd, hpeer, hen, hlt, hsrc, hdue⟩ hep
    rw [answer_sent (s := unlanded s k p m) hl hf 2 [], answerType_other h (by decide)] at hstale
    exact ⟨_, congrArg Host.Outcome.next hstale, outbox_sent .., rfl, rfl, rfl⟩
  · intro s k p g c m d hs h hg hc hd hpeer hen hlt hsrc hdue hep hrun hseq
    exact congrArg Host.Outcome.next (serveCol_later h ⟨hg, hc, rfl, hd, hpeer, hen, hlt, hsrc, hdue⟩ hep hrun hseq)
  · intro s k p g m hs h hg hbad
    subst hg
    obtain ⟨rs, hset, hself, hbut⟩ := incFld_sat (s := unlanded s k p m) hs (.abPortc p) (f := AB_PORTC_BADMSG) (by decide) rfl 1
    exact ⟨_, congrArg Host.Outcome.next ((serveCol_bad h hbad).trans hset), hself, hbut, rfl, rfl, rfl⟩
  -- the end of a step
  · intro s g d hcan hg hd hdram hfirst hlast hstill hsound hlone hq hon hroom hen hrun hkids hw
    subst hd
    have hend : Ending s g (s.group g) := ⟨hcan, rfl, ⟨hdram, hfirst, hlast, hstill, hsound, hlone⟩, hon, hroom⟩
    obtain ⟨t, ht, hleft⟩ := ends_whole hend hw hkids
    exact ⟨t, (stepComplete_whole hg (stepWhole_ended hen hrun fun c hc => .inl (hkids c hc).1)).trans (congrArg _ ht), hleft⟩
  · intro s g c d hcan hg hd hdram hfirst hlast hstill hsound hlone hq hon hroom hen hrun hkids hc hmiss hop hi hirun
    subst hd
    have hend : Ending s g (s.group g) := ⟨hcan, rfl, ⟨hdram, hfirst, hlast, hstill, hsound, hlone⟩, hon, hroom⟩
    have hlack := lacks_of_missing hc hmiss
    obtain ⟨t, ht, hleft⟩ := ends_failed hend (failed_of_lacks hlack hop) hlack hi hirun
    exact ⟨t, (stepComplete_whole hg (stepWhole_ended hen hrun hkids)).trans (congrArg _ ht), hleft⟩
  · intro s g h
    exact congrArg Host.Outcome.next (if_neg fun hboth => h.elim (Nat.not_le.2 hboth.1) fun hno => Bool.false_ne_true (hno.symm.trans hboth.2))
  · intro s g h
    refine congrArg Host.Outcome.next (ite_eq_right_iff.2 fun _ => if_neg ?_)
    rintro ⟨hrun, -, hdue⟩
    rcases h with hidle | hearly
    · exact Bool.false_ne_true (hidle.symm.trans hrun)
    · exact absurd hdue (Nat.not_le.2 hearly)
  · intro s g c d hcan hg hd hdram hfirst hlast hstill hsound hlone hq hon hroom hen hrun hdue hc hmiss hop hi hirun
    subst hd
    have hend : Ending s g (s.group g) := ⟨hcan, rfl, ⟨hdram, hfirst, hlast, hstill, hsound, hlone⟩, hon, hroom⟩
    have hlack := lacks_of_missing hc hmiss
    obtain ⟨t, ht, hleft⟩ := ends_failed hend (failed_of_lacks hlack hop) hlack hi hirun
    exact ⟨t, (ctoExpiry_due hg hen hrun hdue).trans (congrArg _ ht), hleft⟩
  · intro s g c d hcan hg hd hdram hfirst hlast hstill hsound hlone hq hon hroom hen hrun hdue hc hmiss hop
    subst hd
    have hend : Ending s g (s.group g) := ⟨hcan, rfl, ⟨hdram, hfirst, hlast, hstill, hsound, hlone⟩, hon, hroom⟩
    obtain ⟨t, ht, hleft⟩ := ends_gathered hend (lacks_of_missing hc hmiss) hop
    exact ⟨t, (ctoExpiry_due hg hen hrun hdue).trans (congrArg _ ht), hleft⟩
  -- ABORT_INST
  · intro s k p g i m hs hi h hdst hg hg64 hen hgi hinst hrun hab
    subst hg hgi
    have hgo : ¬ NoneToAbort s (leAt m.data 24 8) := by
      rintro (h | h | h | h)
      · omega
      · exact h hen
      · exact hinst (Option.isNone_iff_eq_none.1 h)
      · exact Bool.false_ne_true (hab.symm.trans h)
    obtain ⟨hset, hland, htold, hmem, hevt⟩ := toldToAbort_spec (s := unlanded s k p m) hs hi hrun hab m.src
    exact ⟨_, congrArg Host.Outcome.next ((abortInst_managed h hdst).trans (if_neg hgo)), hset, hland, htold, hmem, hevt⟩
  · intro s k p i m h hdst hgi hno
    subst hgi
    have hnone : NoneToAbort s (leAt m.data 24 8) := hno.imp_right (Or.imp (fun h => by simp [h]) (Or.imp_left Option.isNone_iff_eq_none.2))
    exact congrArg Host.Outcome.next ((abortInst_managed h hdst).trans (if_pos hnone))
  -- time
  · intro s p trip h16 hup hm
    refine congrArg Host.Outcome.next ((if_pos h16).trans ((timeFlit_none hup).trans ?_))
    exact timeSaid_master hm p
  · intro s p uid hops time trip hs h16 hup hp hm hnew hh
    have hfresh : ¬ s.flag .svcSync SVC_SYNC_LOCKED = true ∨ s.pwr.timeSrc ≠ uid := hnew.imp_left fun h => by simp [h]
    obtain ⟨rs, hstep, hlocked, hhops, hbut⟩ := followed hs h16 hup hp hm hh (if_pos hfresh)
    have hquiet (hun : s.flag .svcSync SVC_SYNC_LOCKED = false) : (timeSaid s p).outbox = s.outbox := congrArg State.outbox (timeSaid_unlocked hm hun p)
    refine ⟨_, hstep, ?_, hlocked, hhops, rfl, hbut, hquiet, rfl⟩
    show s.svcTime + (time + trip / 2 - s.svcTime) = _
    omega
  · intro s p uid hops time trip hs h16 hup hp hm hl hsrc hh
    have hsame : ¬ (¬ s.flag .svcSync SVC_SYNC_LOCKED = true ∨ s.pwr.timeSrc ≠ uid) := fun h => h.elim (fun h => h hl) fun h => h hsrc
    obtain ⟨rs, hstep, hlocked, hhops, hbut⟩ := followed hs h16 hup hp hm hh (if_neg hsame)
    refine ⟨_, hstep, rfl, hlocked, hhops, hbut, ?_, rfl⟩
    have hsays : (timeSaid s p).outbox = s.outbox ++ [Out.timeFlit p s.pwr.timeSrc (s.fld .svcSync SVC_SYNC_HOPS) s.svcTime] :=
      congrArg State.outbox (timeSaid_locked hm hl p)
    rwa [hsrc] at hsays
  · intro s p uid hops time trip hs h16 hup hp hm hl hsrc hdue
    exact conflicted hs h16 hup hp hm hl hsrc hdue
  · intro s p uid hops time trip hs h16 hup hp hm hh hsaid
    exact tooFar hs h16 hup hp hm hh hsaid
  · intro s hs hm hold hsaid
    exact silenced hs hm hold hsaid
  · intro s h
    refine congrArg Host.Outcome.next (if_neg ?_)
    rintro ⟨hm, hold⟩
    rcases h with hmaster | hearly
    · exact hm hmaster
    · exact absurd hold (Nat.not_le.2 hearly)

end
